-- ==== Sys2Proof/Word.lean ====
section
/-! DEFINITION. The storage units of the device (R1, R2): the 36-bit word and the 8-bit octet, and the
sparse table every indexed store of the model is kept in. -/

namespace Sys2Proof

/-- R1: a word is 36 bits. -/
abbrev Word := BitVec 36

/-- R1: an octet is 8 bits. -/
abbrev Octet := BitVec 8

/-- A string of octets, first octet first. -/
abbrev Octets := List Octet

/-- A sparse table: keys strictly rising, no entry equal to the table's default value (the form the table operations of
`Machine/Bits.lean` keep). -/
abbrev Tab (α : Type) := List (Nat × α)

end Sys2Proof
end

