-- ==== Sys2Proof/Syntax.lean ====
section
/-! DEFINITION. The commands the block takes: one constructor per row of the opcode table, with the row's operands. A master is named by its
identity (Table 1.3), a register by its word address bits 23:0, a host function by its number (0 PF, n + 1 VF n), a core by its
identity. -/

namespace Sys2Proof

/-- The fields of a descriptor header other than the opcode (Table 3.12). -/
structure DescHdr where
  intr : Bool := false
  barrier : Bool := false
  rqMode : Nat := 0
  rqK : Nat := 0
  opTag : Nat := 0
  deriving DecidableEq, Repr

/-- What identification meets on an SD card (R414): how many tries at each command, in the order sent, met no response or a CRC error (R415); the response
to CMD8 (none: no response); after how many milliseconds ACMD41 reports ready (none: never), and its CCS; the CSD's two write protection bits and capacity in
blocks; the relative address; whether the SCR allows 4 bits and the card has CMD6 switch to high speed; CID; and the blocks that are not all zero. -/
structure SdCard where
  fails : List Nat := []
  cmd8 : Option Nat := some 0x1AA
  ready : Option Nat := some 250
  ccs : Bool := true
  perm : Bool := false
  tmp : Bool := false
  blocks : Nat := 0
  rca : Nat := 1
  wide : Bool := true
  hs : Bool := true
  cid : Octets := []
  data : List (Nat × Octets) := []
  deriving DecidableEq, Repr

/-- What a chain receives in answer to one frame of an activation (R252, R253): 0 an answer, 1 none, 3 a parity error, 5 a framing error; its octets,
CRC included (all five of a cascade level's UID part during anticollision); and the first bit at which cards' answers collided. -/
structure AirAns where
  air : Nat := 0
  data : Octets := []
  coll : Option Nat := none
  deriving DecidableEq, Repr

/-- What a core reports of a sampled instruction (Table 19.7): PC, OP, level, the flags of word 1, and CYC_LO at fetch, decode, issue, complete, and
retire or discard. -/
structure SampleInfo where
  pc : Nat
  op : Nat
  pl : Nat
  pipe : Bool := false
  paired : Bool := false
  retired : Bool := true
  mispredict : Bool := false
  icMiss : Bool := false
  dcMiss : Bool := false
  exc : Bool := false
  fetchAt : Nat := 0
  decodeAt : Nat := 0
  issueAt : Nat := 0
  completeAt : Nat := 0
  endAt : Nat := 0
  deriving DecidableEq, Repr

/-- A word check code met by errors (R357 to R359): the segment that checks it (Table 14.10), its STAGE (0 at target, 1 on return, 2 stored check), and the
error pattern on the code's eight bits. -/
structure Wcc where
  seg : Nat
  stage : Nat
  err : Nat := 1
  deriving DecidableEq, Repr

/-- Errors met by the check codes of an exception entry: by that of the vector's entry as it is read, and by that of a word of the frame as it is stored
(number 0 the word just below the stack pointer, R331). -/
structure EntryWcc where
  vector : Option Wcc := none
  frame : Option (Nat × Wcc) := none
  deriving DecidableEq, Repr

/-- One instruction as a core issues it: the core; the errors met by the check code of the fetched word, if any; by that of the data word with the given number among those
the instruction reads or writes; those met by the codes of an exception entry it leads to (R335); the bit errors of a flash read through a code plane's window, with the
number of the word (0 the fetched one, 1 and up the data words) and whether they were corrected (R397); what the host answers to a host window access (none where the
request fails); and the 36-bit word fetched, where it is given: one that is no instruction raises ENCODING whatever the operands (R306, log entry 71). -/
structure Issue where
  core : Nat
  fetch : Option Wcc := none
  data : Option (Nat × Wcc) := none
  vec : EntryWcc := {}
  media : Option (Nat × Bool) := none
  window : Option Nat := none
  word : Option Word := none
  deriving DecidableEq, Repr

/-- A write to a function's PCIe configuration space: Bus Master Enable, the power state back to D0, NumVFs of the PF, the codes of Max Payload Size and
Max Read Request Size, ECRC generation and checking enables, and AER status bits written 1 to clear. -/
inductive PcieCfg where
  | busMaster (f : Nat) (on : Bool)
  | powerD0 (f : Nat)
  | numVfs (n : Nat)
  | maxPayload (f code : Nat)
  | maxReadRequest (f code : Nat)
  | ecrc (f : Nat) (gen check : Bool)
  | aerClear (f bit : Nat)
  deriving DecidableEq, Repr

/-- A write to a function's MSI-X table entry (address, data, mask bit), or of the MSI-X Enable and Function Mask bits. -/
inductive MsixWr where
  | entry (f v addr data : Nat) (masked : Bool)
  | control (f : Nat) (enable mask : Bool)
  deriving DecidableEq, Repr

/-- The body of a cipher descriptor (opcodes 0x10 to 0x13). -/
structure CipherBody where
  slot : Nat := 0
  mode : Nat := 0
  flags : Nat := 0
  aadLen : Nat := 0
  payLen : Nat := 0
  ivLen : Nat := 0
  tagLen : Nat := 0
  src : Nat := 0
  dst : Nat := 0
  iv : Octets := []
  tagAddr : Nat := 0
  deriving DecidableEq, Repr

/-- The body of a hash descriptor (opcodes 0x20, 0x21). -/
structure HashBody where
  slot : Nat := 0
  alg : Nat := 0
  len : Nat := 0
  src : Nat := 0
  dst : Nat := 0
  deriving DecidableEq, Repr

/-- The body of a JOB descriptor (opcode 0x30). -/
structure JobBody where
  recipe : Nat := 0
  curve : Nat := 0xFF
  unit : Nat := 0xFF
  slot : Nat := 0
  opCount : Nat := 0
  resCount : Nat := 0
  opList : Nat := 0
  resList : Nat := 0
  deriving DecidableEq, Repr

/-- A check code met by errors in an engine's operation: segment, STAGE, word address and the error pattern on the code. -/
structure WccAt where
  seg : Nat
  stage : Nat
  addr : Nat
  err : Nat := 1
  deriving DecidableEq, Repr

/-- The commands, one per row of the opcode table, in its order. Operands: `m` a master identity, `pl` its privilege level, `a` a register word
address, `v` a value written, `f` a host function, `id` the number the device gave an operation in flight. -/
inductive Instr where
  /-- PASS_EDGE (R33). -/
  | passEdge
  /-- FIELD_EDGE (R233). -/
  | fieldEdge
  /-- LATCHED_LO_READ (R31). For a host function `a` is the octet offset in its BAR0 (R7). -/
  | latchedLoRead (m a : Nat)
  /-- FINE_TIMER_READ (R45). -/
  | fineTimerRead (core a : Nat)
  /-- REGISTER_WRITE (R5, R7). For a host function (0x40 to 0x7F) `a` is the octet offset in its BAR0 and `v` the 64-bit value. -/
  | registerWrite (m pl a v : Nat)
  /-- CHAMBER_FIELD_WRITE (R47). -/
  | chamberFieldWrite (m a : Nat) (v : Word)
  /-- CLAIM (R48). -/
  | claim (m : Nat)
  /-- LEVEL (R48). -/
  | level (m : Nat)
  /-- OPEN_NEXT (R48). -/
  | openNext (m : Nat)
  /-- OPEN_AT (R48). -/
  | openAt (m : Nat)
  /-- UNSCHEDULE (R48). -/
  | unschedule (m : Nat)
  /-- DISCARD (R48). -/
  | discard (m : Nat)
  /-- LEVEL_COMPLETE (R49). -/
  | levelComplete
  /-- CHAMBER_OPEN (R51). -/
  | chamberOpen
  /-- APPROVAL (R53). -/
  | approval (ring : Nat) (h : DescHdr) (tokenAddr : Nat)
  /-- APPROVAL_ACCEPT (R53). -/
  | approvalAccept
  /-- APPROVAL_EXPIRY (R53). -/
  | approvalExpiry
  /-- KEY_SLOT_EXPIRY (R98). -/
  | keySlotExpiry
  /-- BOUND_OVERRUN (R39). -/
  | boundOverrun
  /-- RESULT_RELEASE (R40). -/
  | resultRelease
  /-- PART_REQ_DRAIN (R57). -/
  | partReqDrain (m pl kind idx reason : Nat)
  /-- PART_REQ_FENCE (R57). -/
  | partReqFence (m pl kind idx reason : Nat)
  /-- PART_REQ_RETURN (R57). -/
  | partReqReturn (m pl kind idx reason : Nat)
  /-- PARTITION_APPLY (R57). -/
  | partitionApply
  /-- DRAIN_COMPLETE (R57). -/
  | drainComplete
  /-- SUBMISSION_DOORBELL (R69). -/
  | submissionDoorbell (f ring off size v : Nat)
  /-- COMPLETION_DOORBELL (R70). -/
  | completionDoorbell (f ring off size v : Nat)
  /-- DESCRIPTOR_FETCH (R72). -/
  | descriptorFetch (ring : Nat) (descs : List Octets)
  /-- DESCRIPTOR_FETCH_FAILURE (R88). -/
  | descriptorFetchFailure (ring cause : Nat)
  /-- STAGING_COMPLETE (R78). -/
  | stagingComplete (ring pos : Nat) (data : Octets)
  /-- STAGING_READ_FAILURE (R88). -/
  | stagingReadFailure (ring pos sub : Nat)
  /-- RING_ENABLE (R63). -/
  | ringEnable (m ring log2 : Nat)
  /-- RING_DRAIN (R63). -/
  | ringDrain (m ring : Nat)
  /-- RING_DISABLE (R63). -/
  | ringDisable (ring : Nat)
  /-- COMPLETION_WRITE (R81). -/
  | completionWrite (ring : Nat)
  /-- MODERATION_TIMER_EXPIRY (R84). -/
  | moderationTimerExpiry (ring : Nat)
  /-- HELD_COMPLETION (R85). -/
  | heldCompletion
  /-- FUNCTION_LEVEL_RESET (R86). -/
  | functionLevelReset (f : Nat)
  /-- D3HOT_ENTRY (R86). -/
  | d3hotEntry (f : Nat)
  /-- PCIE_LINK_LOSS (R86). -/
  | pcieLinkLoss (hot : Bool)
  /-- ENCRYPT (R92). -/
  | encrypt (ring : Nat) (h : DescHdr) (b : CipherBody)
  /-- DECRYPT (R109). -/
  | decrypt (ring : Nat) (h : DescHdr) (b : CipherBody)
  /-- MAC_GENERATE (R92). -/
  | macGenerate (ring : Nat) (h : DescHdr) (b : CipherBody)
  /-- MAC_VERIFY (R112). -/
  | macVerify (ring : Nat) (h : DescHdr) (b : CipherBody)
  /-- HASH (R94). -/
  | hash (ring : Nat) (h : DescHdr) (b : HashBody)
  /-- HMAC (R94). -/
  | hmac (ring : Nat) (h : DescHdr) (b : HashBody)
  /-- JOB (R152). -/
  | job (ring : Nat) (h : DescHdr) (b : JobBody)
  /-- LOOKUP (R201). -/
  | lookup (ring : Nat) (h : DescHdr) (form addr : Nat) (digest : Octets)
  /-- STAGE_DELTAS (R204). -/
  | stageDeltas (ring : Nat) (h : DescHdr) (count list : Nat)
  /-- COMMIT_EPOCH (R205). -/
  | commitEpoch (ring : Nat) (h : DescHdr) (target : Nat)
  /-- CHAMBER_CLAIM (R76). -/
  | chamberClaim (ring : Nat) (h : DescHdr)
  /-- CHAMBER_WRITE (R76). -/
  | chamberWrite (ring : Nat) (h : DescHdr) (count list : Nat)
  /-- CHAMBER_CMD (R76). -/
  | chamberCmd (ring : Nat) (h : DescHdr) (action target : Nat)
  /-- KEY_IMPORT (R102). -/
  | keyImport (ring : Nat) (h : DescHdr) (slot len addr : Nat)
  /-- KEY_EXPORT (R103). -/
  | keyExport (ring : Nat) (h : DescHdr) (slot kek maxLen addr : Nat)
  /-- KEY_ERASE (R104). -/
  | keyErase (ring : Nat) (h : DescHdr) (slot : Nat)
  /-- PARTITION (R483). -/
  | partition (ring : Nat) (h : DescHdr) (req : Nat)
  /-- CANCEL_RING (R75). -/
  | cancelRing (ring : Nat) (h : DescHdr) (named : Nat)
  /-- REG_READ (R77). -/
  | regRead (ring : Nat) (h : DescHdr) (addr selAddr selValue : Nat)
  /-- HOLD_UNLOCK (R374). -/
  | holdUnlock (ring : Nat) (h : DescHdr) (len addr : Nat)
  /-- SEAL (R213). -/
  | envSeal (ring : Nat) (h : DescHdr) (peer kind len src dst dstMax : Nat)
  /-- OPEN (R214). -/
  | envOpen (ring : Nat) (h : DescHdr) (peer kind len src dst dstMax : Nat)
  /-- CIPHER_OP_COMPLETE (R92). -/
  | cipherOpComplete (id : Nat) (wcc : Option WccAt)
  /-- HASH_OP_COMPLETE (R94). -/
  | hashOpComplete (id : Nat) (wcc : Option WccAt)
  /-- LATE_RESULT_DISCARD (R121). -/
  | lateResultDiscard (kind idx : Nat)
  /-- KEY_EXHAUSTION (R96). -/
  | keyExhaustion (slot : Nat)
  /-- FWQ_DOORBELL (R107). -/
  | fwqDoorbell (q pl : Nat) (v : Word)
  /-- KSL_IMPORT (R102). -/
  | kslImport (m pl : Nat)
  /-- KSL_EXPORT (R103). -/
  | kslExport (m pl : Nat)
  /-- KSL_ERASE (R104). -/
  | kslErase (m pl : Nat)
  /-- DERIVE (R105). -/
  | derive (m pl : Nat)
  /-- UNWRAP_3394 (R106). -/
  | unwrap3394 (m pl : Nat)
  /-- PLAIN_FRAME_ARRIVAL (R126). -/
  | plainFrameArrival (link : Nat) (frame : Octets) (fcsOk : Bool)
  /-- SEALED_FRAME_ARRIVAL (R127). -/
  | sealedFrameArrival (link : Nat) (frame : Octets) (fcsOk : Bool)
  /-- STAGE_ADVANCE (R129). -/
  | stageAdvance (stream stage : Nat) (integ : Bool)
  /-- FRAME_TRANSMIT (R126). -/
  | frameTransmit (stream : Nat) (integ : Bool)
  /-- UNCONTROLLED_TX (R128). -/
  | uncontrolledTx (link : Nat) (v : Word)
  /-- UQ_RX_HEAD_WRITE (R128). -/
  | uqRxHeadWrite (link : Nat) (v : Word)
  /-- LINK_STATE_CHANGE (R140). -/
  | linkStateChange (link bit : Nat) (up : Bool)
  /-- LOAD_SAK (R134). -/
  | loadSak (m pl : Nat)
  /-- CLEAR_KEY (R134). -/
  | clearKey (m pl : Nat)
  /-- PN_WARN (R139). -/
  | pnWarn (sa : Nat)
  /-- SA_FREEZE (R137). -/
  | saFreeze (sa : Nat)
  /-- SA_RETIRE (R136). -/
  | saRetire (sa : Nat)
  /-- LOAD_IMAGE (R147). -/
  | loadImage (m pl : Nat)
  /-- GRD_FWQ_DOORBELL (R149). -/
  | grdFwqDoorbell (q pl : Nat) (v : Word)
  /-- GRD_FWQ_CANCEL (R167). -/
  | grdFwqCancel (q : Nat) (v : Word)
  /-- YIELD_POINT_SAVE (R168). -/
  | yieldPointSave (unit : Nat)
  /-- SUSPENDED_JOB_RESUME (R168). -/
  | suspendedJobResume (unit : Nat)
  /-- GRINDER_JOB_END (R166). -/
  | grinderJobEnd (unit : Nat) (wcc : Option WccAt)
  /-- RSA_SELFCHECK_FAILURE (R160). -/
  | rsaSelfcheckFailure (unit : Nat)
  /-- HARDWARE_DRAW (R184). -/
  | hardwareDraw (who : Nat)
  /-- REPETITION_COUNT_FAILURE (R176). -/
  | repetitionCountFailure (mask run : Nat)
  /-- WINDOW_COMPLETE (R180). -/
  | windowComplete (src : Nat) (samples : Octets)
  /-- STARTUP_TEST_COMPLETE (R177). -/
  | startupTestComplete (runs : List (Nat × Octets))
  /-- HOP_RETEST (R178). -/
  | hopRetest (m mask : Nat)
  /-- GENERATOR_INSTANTIATE (R181). -/
  | generatorInstantiate (inst : Nat) (katOk : Bool)
  /-- GENERATOR_RESEED (R181). -/
  | generatorReseed (inst : Nat)
  /-- RESEED_OVERDUE (R182). -/
  | reseedOverdue (inst : Nat)
  /-- HOP_SW_DRAW_READ (R188). -/
  | hopSwDrawRead (m : Nat)
  /-- RAW_MODE_ENABLE (R190). -/
  | rawModeEnable (m src : Nat)
  /-- RAW_MODE_ENTRY (R190). -/
  | rawModeEntry
  /-- HOP_RAW_DATA_READ (R191). -/
  | hopRawDataRead (m arrived : Nat)
  /-- RAW_MODE_EXIT (R191). -/
  | rawModeExit (m : Nat)
  /-- LOOKUP_COMPLETE (R200). -/
  | lookupComplete (id : Nat) (wcc : Option WccAt)
  /-- CRG_STAGE (R204). -/
  | crgStage (m pl : Nat) (wcc : Option WccAt)
  /-- CRG_COMMIT (R205). -/
  | crgCommit (m pl : Nat)
  /-- CRG_DISCARD (R204). -/
  | crgDiscard (m pl : Nat)
  /-- DELTA_PREPARATION (R205). -/
  | deltaPreparation
  /-- EPOCH_SWITCH (R205). -/
  | epochSwitch
  /-- COMMIT_TIMEOUT (R205). -/
  | commitTimeout
  /-- KEK_ACTIVATION (R216). -/
  | kekActivation
  /-- SWEEP_START (R229). -/
  | sweepStart (engine : Nat)
  /-- PING (R228). -/
  | ping (engine amp phase : Nat)
  /-- BASELINE_PING (R231). -/
  | baselinePing (engine port amp phase : Nat)
  /-- LINGER_EXPIRY (R232). -/
  | lingerExpiry (port : Nat)
  /-- FLIGHT_READY (R244). -/
  | flightReady (flight : Nat)
  /-- REQUEST (R234). -/
  | request (m port mode : Nat)
  /-- RELEASE (R234). -/
  | release (m port mode : Nat)
  /-- WITHDRAW (R234). -/
  | withdraw (m port mode : Nat)
  /-- GRANT_CEILING (R237). -/
  | grantCeiling (port : Nat)
  /-- TUNING_COMPLETE (R224). -/
  | tuningComplete (chain ser shu vswr fwd refl : Nat)
  /-- SETTLE_END (R224). -/
  | settleEnd (chain : Nat)
  /-- VSWR_MISMATCH (R225). -/
  | vswrMismatch (chain v1 v2 : Nat)
  /-- APT_CLEAR (R225). -/
  | aptClear (m port : Nat) (v : Word)
  /-- FIELD_SUPPLY_FAULT (R243). -/
  | fieldSupplyFault (high : Bool)
  /-- EVENT_QUEUE_WRITE (R240). -/
  | eventQueueWrite (core : Nat)
  /-- FLD_EVQ_HEAD_WRITE (R240). -/
  | fldEvqHeadWrite (core : Nat) (v : Word)
  /-- CHN_FQ_TAIL_WRITE (R248). -/
  | chnFqTailWrite (m chain : Nat) (v : Word)
  /-- ACTIVATE_A (R252). -/
  | activateA (chain : Nat) (answers : List AirAns)
  /-- ACTIVATE_B (R253). -/
  | activateB (chain : Nat) (answers : List AirAns)
  /-- EXCHANGE (R254). -/
  | exchange (chain air : Nat) (frame : Octets)
  /-- EMU_ARM (R257). -/
  | emuArm (chain : Nat) (rats : Octets)
  /-- EMU_RECEIVE (R258). -/
  | emuReceive (chain : Nat)
  /-- EMU_RESPOND (R259). -/
  | emuRespond (chain : Nat)
  /-- ENTRY_COMPLETION (R251). -/
  | entryCompletion (chain : Nat)
  /-- WTX_REQUEST_RECEIVED (R255). -/
  | wtxRequestReceived (chain wtxm : Nat)
  /-- READER_FRAME_RECEIVED (R258). -/
  | readerFrameReceived (chain : Nat) (good : Bool) (frame : Octets)
  /-- EMU_WTX_TIMER (R260). -/
  | emuWtxTimer (chain : Nat)
  /-- EMU_FIELD_LOST (R261). -/
  | emuFieldLost (chain : Nat)
  /-- TAG_SESSION_START (R262). -/
  | tagSessionStart (port fsdi : Nat)
  /-- TAG_SESSION_END (R262). -/
  | tagSessionEnd (how : Nat)
  /-- TAG_SELECT (R264). -/
  | tagSelect (aid : Octets)
  /-- TAG_READ_BLOCK (R264). -/
  | tagReadBlock (block : Nat)
  /-- TAG_READ_BLOCK_LOCK (R268). -/
  | tagReadBlockLock (block : Nat) (mac : Octets)
  /-- TAG_READ_COUNTER (R264). -/
  | tagReadCounter (counter : Nat)
  /-- GET_CHALLENGE (R266). -/
  | getChallenge
  /-- TAG_WRITE_BLOCK (R271). -/
  | tagWriteBlock (block : Nat) (data mac : Octets)
  /-- TAG_INC_COUNTER (R272). -/
  | tagIncCounter (counter amount : Nat) (mac : Octets)
  /-- TAG_RELEASE (R268). -/
  | tagRelease (block : Nat)
  /-- TAG_MAC_VERDICT (R266). -/
  | tagMacVerdict (status : Nat)
  /-- CHALLENGE_RECEIVE (R267). -/
  | challengeReceive (challenge : Octets)
  /-- WIRED_READ_BLOCK (R275). -/
  | wiredReadBlock (m idx : Nat)
  /-- WIRED_WRITE_BLOCK (R277). -/
  | wiredWriteBlock (m idx : Nat)
  /-- WIRED_READ_COUNTER (R275). -/
  | wiredReadCounter (m idx : Nat)
  /-- WIRED_INC_COUNTER (R270). -/
  | wiredIncCounter (m idx amount : Nat)
  /-- TAG_MEMORY_ACCESS (R276). -/
  | tagMemoryAccess (verify : Nat)
  /-- TAG_FIELD_COLLAPSE (R273). -/
  | tagFieldCollapse (how : Nat)
  /-- BARGE_SEND (R281). -/
  | bargeSend (toField : Bool) (lane : Nat)
  /-- BARGE_RECEIVE (R285). -/
  | bargeReceive (toField : Bool) (lane : Nat) (errs : List Nat)
  /-- BARGE_QUEUE_WRITE (R286). -/
  | bargeQueueWrite (toField : Bool) (lane : Nat)
  /-- LKG_TXQ_TAIL_WRITE (R291). -/
  | lkgTxqTailWrite (m : Nat) (v : Word)
  /-- LKG_RXQ_HEAD_WRITE (R291). -/
  | lkgRxqHeadWrite (m : Nat) (v : Word)
  /-- PRESENCE_REPORT (R287). -/
  | presenceReport
  /-- CHAIN_GRANT (R241). -/
  | chainGrant
  /-- CRED_QUERY (R202). -/
  | credQuery
  /-- CRED_ANSWER (R202). -/
  | credAnswer
  /-- CRYPTO_REQUEST (R290). -/
  | cryptoRequest
  /-- CRYPTO_ANSWER (R290). -/
  | cryptoAnswer
  /-- AUDIT_RECORD (R287). -/
  | auditRecord
  /-- HEALTH (R287). -/
  | health
  /-- CONFIG_PUSH (R289). -/
  | configPush
  /-- CONFIG_ACK (R289). -/
  | configAck
  /-- FIRMWARE_BLOCK (R287). -/
  | firmwareBlock
  /-- DRAW_FILL (R187). -/
  | drawFill
  /-- CHALLENGE (R267). -/
  | challenge
  /-- REPLAY_INPUT (R287). -/
  | replayInput
  /-- REPLAY_LOG (R436). -/
  | replayLog
  /-- FIELD_MESSAGE (R291). -/
  | fieldMessage
  /-- CORE_STOP (R338). -/
  | coreStopBarge
  /-- MBX_SEND (R293). -/
  | mbxSend (m channel : Nat)
  /-- MBX_ACK (R294). -/
  | mbxAck (m channel seq : Nat)
  /-- MAILBOX_TIMEOUT (R295). -/
  | mailboxTimeout (channel : Nat)
  /-- ADD (R309). -/
  | add (x : Issue) (rd ra rb : Nat)
  /-- SUB (R309). -/
  | sub (x : Issue) (rd ra rb : Nat)
  /-- ADDC (R309). -/
  | addc (x : Issue) (rd ra rb : Nat)
  /-- SUBB (R309). -/
  | subb (x : Issue) (rd ra rb : Nat)
  /-- AND (R309). -/
  | and (x : Issue) (rd ra rb : Nat)
  /-- OR (R309). -/
  | or (x : Issue) (rd ra rb : Nat)
  /-- XOR (R309). -/
  | xor (x : Issue) (rd ra rb : Nat)
  /-- ANDN (R309). -/
  | andn (x : Issue) (rd ra rb : Nat)
  /-- SLT (R309). -/
  | slt (x : Issue) (rd ra rb : Nat)
  /-- SLTU (R309). -/
  | sltu (x : Issue) (rd ra rb : Nat)
  /-- CMP (R309). -/
  | cmp (x : Issue) (ra rb : Nat)
  /-- NEG (R309). -/
  | neg (x : Issue) (rd ra : Nat)
  /-- MIN (R309). -/
  | min (x : Issue) (rd ra rb : Nat)
  /-- MAX (R309). -/
  | max (x : Issue) (rd ra rb : Nat)
  /-- ADDI (R309). -/
  | addi (x : Issue) (rd ra imm : Nat)
  /-- ANDI (R309). -/
  | andi (x : Issue) (rd ra imm : Nat)
  /-- ORI (R309). -/
  | ori (x : Issue) (rd ra imm : Nat)
  /-- XORI (R309). -/
  | xori (x : Issue) (rd ra imm : Nat)
  /-- SLTI (R309). -/
  | slti (x : Issue) (rd ra imm : Nat)
  /-- SLTIU (R309). -/
  | sltiu (x : Issue) (rd ra imm : Nat)
  /-- LIH (R309). -/
  | lih (x : Issue) (rd imm : Nat)
  /-- CMPI (R309). -/
  | cmpi (x : Issue) (ra imm : Nat)
  /-- SHL (R309). -/
  | shl (x : Issue) (rd ra rb : Nat)
  /-- SHR (R309). -/
  | shr (x : Issue) (rd ra rb : Nat)
  /-- SAR (R309). -/
  | sar (x : Issue) (rd ra rb : Nat)
  /-- ROL (R309). -/
  | rol (x : Issue) (rd ra rb : Nat)
  /-- SHLI (R309). -/
  | shli (x : Issue) (rd ra sh : Nat)
  /-- SHRI (R309). -/
  | shri (x : Issue) (rd ra sh : Nat)
  /-- SARI (R309). -/
  | sari (x : Issue) (rd ra sh : Nat)
  /-- ROLI (R309). -/
  | roli (x : Issue) (rd ra sh : Nat)
  /-- EXTU (R309). -/
  | extu (x : Issue) (rd ra lo w : Nat)
  /-- INS (R309). -/
  | ins (x : Issue) (rd ra lo w : Nat)
  /-- MUL (R309). -/
  | mul (x : Issue) (rd ra rb : Nat)
  /-- MULH (R309). -/
  | mulh (x : Issue) (rd ra rb : Nat)
  /-- MULHU (R309). -/
  | mulhu (x : Issue) (rd ra rb : Nat)
  /-- MULP (R309). -/
  | mulp (x : Issue) (rd ra rb : Nat)
  /-- DIV (R309). -/
  | div (x : Issue) (rd ra rb : Nat)
  /-- DIVU (R309). -/
  | divu (x : Issue) (rd ra rb : Nat)
  /-- REM (R309). -/
  | rem (x : Issue) (rd ra rb : Nat)
  /-- REMU (R309). -/
  | remu (x : Issue) (rd ra rb : Nat)
  /-- LDW (R307). -/
  | ldw (x : Issue) (rd ra imm : Nat)
  /-- STW (R307). -/
  | stw (x : Issue) (rd ra imm : Nat)
  /-- LDP (R307). -/
  | ldp (x : Issue) (rd ra imm : Nat)
  /-- STP (R307). -/
  | stp (x : Issue) (rd ra imm : Nat)
  /-- LDH (R307). -/
  | ldh (x : Issue) (rd ra imm : Nat)
  /-- LDHS (R307). -/
  | ldhs (x : Issue) (rd ra imm : Nat)
  /-- STH (R307). -/
  | sth (x : Issue) (rd ra imm : Nat)
  /-- LDO (R307). -/
  | ldo (x : Issue) (rd ra imm : Nat)
  /-- LDOS (R307). -/
  | ldos (x : Issue) (rd ra imm : Nat)
  /-- STO (R307). -/
  | sto (x : Issue) (rd ra imm : Nat)
  /-- LDSP (R307). -/
  | ldsp (x : Issue) (rd imm : Nat)
  /-- STSP (R307). -/
  | stsp (x : Issue) (rd imm : Nat)
  /-- ADJSP (R304). -/
  | adjsp (x : Issue) (imm : Nat)
  /-- PUSH (R304). -/
  | push (x : Issue) (rd : Nat)
  /-- POP (R304). -/
  | pop (x : Issue) (rd : Nat)
  /-- LPC (R309). -/
  | lpc (x : Issue) (rd imm : Nat)
  /-- LDX (R314). -/
  | ldx (x : Issue) (rd ra : Nat)
  /-- STX (R314). -/
  | stx (x : Issue) (rd rb ra : Nat)
  /-- BEQ (R309). -/
  | beq (x : Issue) (ra rb off : Nat)
  /-- BNE (R309). -/
  | bne (x : Issue) (ra rb off : Nat)
  /-- BLT (R309). -/
  | blt (x : Issue) (ra rb off : Nat)
  /-- BGE (R309). -/
  | bge (x : Issue) (ra rb off : Nat)
  /-- BLTU (R309). -/
  | bltu (x : Issue) (ra rb off : Nat)
  /-- BGEU (R309). -/
  | bgeu (x : Issue) (ra rb off : Nat)
  /-- BCC (R309). -/
  | bcc (x : Issue) (cond off : Nat)
  /-- JMP (R309). -/
  | jmp (x : Issue) (off : Nat)
  /-- CALL (R305). -/
  | call (x : Issue) (off : Nat)
  /-- JMPR (R309). -/
  | jmpr (x : Issue) (ra : Nat)
  /-- CALLR (R305). -/
  | callr (x : Issue) (ra : Nat)
  /-- RET (R305). -/
  | ret (x : Issue)
  /-- BMOVE (R315). -/
  | bmove (x : Issue) (rd ra rb iters : Nat)
  /-- BFILL (R315). -/
  | bfill (x : Issue) (rd ra rb iters : Nat)
  /-- BCMP (R315). -/
  | bcmp (x : Issue) (rd ra rb : Nat) (full : Bool) (iters : Nat)
  /-- BCRC (R315). -/
  | bcrc (x : Issue) (rd ra rb iters : Nat)
  /-- TRAP (R326). -/
  | trap (x : Issue) (fn : Nat)
  /-- ERET (R334). -/
  | eret (x : Issue)
  /-- FENCE (R313). -/
  | fence (x : Issue) (fn : Nat)
  /-- MPUSYNC (R351). -/
  | mpusync (x : Issue)
  /-- WAITPASS (R317). -/
  | waitpass (x : Issue) (rd : Nat)
  /-- FEAT (R319). -/
  | feat (x : Issue) (rd n : Nat)
  /-- MFSR (R310). -/
  | mfsr (x : Issue) (rd sr : Nat)
  /-- MTSR (R302). -/
  | mtsr (x : Issue) (sr ra : Nat)
  /-- INTERRUPT_ENTRY (R328), with the errors met by the code of the vector entry. -/
  | interruptEntry (core : Nat) (vec : EntryWcc)
  /-- MPU_REGION_WRITE (R353). -/
  | mpuRegionWrite (m pl a : Nat) (v : Word)
  /-- TAMPER_EVENT (R365). -/
  | tamperEvent (source : Nat)
  /-- COUNT_DECAY (R365). -/
  | countDecay (source : Nat)
  /-- RESPONSE_WINDOW_END (R366). -/
  | responseWindowEnd
  /-- KEEP_CELL_SAMPLE (R367). -/
  | keepCellSample (found : List Nat)
  /-- HOLD_UNLOCK_VERIFIED (R375). -/
  | holdUnlockVerified (id : Nat)
  /-- HOLD_RELEASE (R377). -/
  | holdRelease
  /-- TO_FACTORY (R387). -/
  | toFactory (m : Nat)
  /-- PROVISION (R386). -/
  | provision (m : Nat)
  /-- TO_SCRAP (R387). -/
  | toScrap (m : Nat)
  /-- ISSUE (R393). -/
  | issueChallenge (m : Nat)
  /-- VERIFY (R393). -/
  | verifyResponse (m : Nat)
  /-- FUSE_ROW_WRITE (R387). -/
  | fuseRowWrite (ok : Bool)
  /-- CHALLENGE_EXPIRY (R393). -/
  | challengeExpiry
  /-- K_BOOT (R391). -/
  | kBoot (bad lost : List Nat)
  /-- EXTEST (R395). -/
  | extest (rstn : Bool) (pins : Octets) (shift : Option Octets)
  /-- IDCODE (R395). -/
  | idcode
  /-- SAMPLE_PRELOAD (R395). -/
  | samplePreload (pins : Octets) (shift : Option Octets)
  /-- AUTH (R395). -/
  | auth (resp : Option Octets)
  /-- DEBUG (R395). -/
  | debug
  /-- BYPASS (R395). -/
  | bypass (ir : Nat)
  /-- TOWPATH_SESSION_OPEN (R394). -/
  | towpathSessionOpen
  /-- DBG_DATA_ACCESS (R354). -/
  | dbgDataAccess (w : Option Word)
  /-- DBG_CORE_WRITE (R394). -/
  | dbgCoreWrite (v : Word)
  /-- FLASH_READ (R399). -/
  | flashRead (m pl : Nat)
  /-- FLASH_PROGRAM (R404). -/
  | flashProgram (m pl : Nat)
  /-- FLASH_ERASE (R411). -/
  | flashErase (m pl : Nat)
  /-- FLASH_SUSPEND (R401). -/
  | flashSuspend (m pl : Nat)
  /-- FLASH_RESUME (R401). -/
  | flashResume (m pl : Nat)
  /-- READ_CAL (R412). -/
  | readCal (m pl : Nat)
  /-- FLASH_COMMIT (R409). -/
  | flashCommit (m pl : Nat)
  /-- FLASH_OP_COMPLETE (R401). -/
  | flashOpComplete (plane : Nat) (ok corrected : Bool) (wcc : Option WccAt)
  /-- FLS_XIP_CTL_WRITE (R406). -/
  | flsXipCtlWrite (m pl : Nat) (v : Word)
  /-- FLASH_CONTROLLER_RELEASE (R411). -/
  | flashControllerRelease
  /-- CARD_INSERTION (R413). -/
  | cardInsertion (slot : Nat)
  /-- CARD_IDENTIFICATION (R414). -/
  | cardIdentification (slot : Nat) (found : SdCard)
  /-- CARD_REMOVAL (R423). -/
  | cardRemoval (slot : Nat) (sent : Bool)
  /-- RECORD_WRITE (R421). -/
  | recordWrite (slot fails : Nat)
  /-- SD_BUSY_TIMEOUT (R415). -/
  | sdBusyTimeout (slot : Nat)
  /-- APPEND (R418). -/
  | append (m pl : Nat) (wcc : Option WccAt)
  /-- SD_READ (R425). -/
  | sdRead (m pl : Nat) (wcc : Option WccAt)
  /-- SD_OPEN (R421). -/
  | sdOpen (m pl : Nat)
  /-- SD_CLOSE (R422). -/
  | sdClose (m pl : Nat)
  /-- PROTECT_PERM (R416). -/
  | protectPerm (m pl : Nat)
  /-- OFFICER_CARD_PRESENCE (R426). -/
  | officerCardPresence (card : Nat) (present : Bool)
  /-- ACTIVATE (R426). -/
  | activate (m pl card : Nat)
  /-- OFFICER_AUTH (R428). -/
  | officerAuth (m pl card : Nat)
  /-- APPROVE (R429). -/
  | approve (m pl card : Nat)
  /-- DEACTIVATE (R428). -/
  | deactivate (m pl card : Nat)
  /-- OFFICER_SESSION_EXPIRY (R428). -/
  | officerSessionExpiry (card : Nat)
  /-- OFFICER_CARD_TIMEOUT (R429). -/
  | officerCardTimeout (card : Nat)
  /-- RECORD_CLOSE (R436). -/
  | recordClose
  /-- RECORD_DELIVERY (R439). -/
  | recordDelivery (consumed : Nat)
  /-- REPLAYED_EDGE (R443). -/
  | replayedEdge (record : Octets)
  /-- PMU_COUNTER_OVERFLOW (R445). -/
  | pmuCounterOverflow (core counter : Nat)
  /-- BANDWIDTH_WINDOW_CLOSE (R447). -/
  | bandwidthWindowClose (counts : List Nat)
  /-- PMU_BW_CLEAR (R447). -/
  | pmuBwClear
  /-- PMU_CLEAR (R445). -/
  | pmuClear (m pl core : Nat)
  /-- SAMPLE_TAG (R448). -/
  | sampleTag (core : Nat)
  /-- SAMPLE_RECORD (R448). -/
  | sampleRecord (core : Nat) (x : SampleInfo)
  /-- PMU_SMP_DATA_READ (R448). -/
  | pmuSmpDataRead (m core : Nat)
  /-- RESET_SOURCE_ASSERT (R452). -/
  | resetSourceAssert (source core : Nat)
  /-- RST_CMD (R452). -/
  | rstCmd (m : Nat) (v : Word)
  /-- RESET_RELEASE_STEP (R455). -/
  | resetReleaseStep (step : Nat)
  /-- RST_GO (R455). -/
  | rstGo (m step : Nat)
  /-- RST_CORE_GO (R456). -/
  | rstCoreGo (m core : Nat)
  /-- FIELD_CORE_RELEASE (R456). -/
  | fieldCoreRelease (core : Nat)
  /-- RST_FUSE_PROG (R452). -/
  | rstFuseProg (m : Nat) (v : Word)
  /-- RST_STOP_CLR (R338). -/
  | rstStopClr (m : Nat) (v : Word)
  /-- WATCHDOG_KICK (R454). -/
  | watchdogKick (m core : Nat)
  /-- WATCHDOG_WARNING (R454). -/
  | watchdogWarning (core : Nat)
  /-- WATCHDOG_EXPIRY (R454). -/
  | watchdogExpiry (core : Nat)
  /-- PWR_MONC_INC (R462). -/
  | pwrMoncInc (m pl counter : Nat)
  /-- POWER_GOOD (R458). -/
  | powerGood
  /-- BROWN_OUT (R459). -/
  | brownOut (rail : Nat) (ext : Bool)
  /-- KEEP_SUPPLY_LOST (R461). -/
  | keepSupplyLost
  /-- FIELD_SUPPLY_RECOVERY (R243). -/
  | fieldSupplyRecovery
  /-- TAMPER_CONDITION_CLEAR (R361). -/
  | tamperConditionClear (source : Nat)
  /-- APPROVAL_VERIFIED (R53). -/
  | approvalVerified (id : Nat)
  /-- ENVELOPE_OPERATION_COMPLETE (R217). -/
  | envelopeOperationComplete (id : Nat) (wcc : Option WccAt)
  /-- KEY_OPERATION_COMPLETE (R102). -/
  | keyOperationComplete (id : Nat) (wcc : Option WccAt)
  /-- IMAGE_LOAD_COMPLETE (R147). -/
  | imageLoadComplete (unit : Nat) (wcc : Option WccAt)
  /-- MAILBOX_SEND_ARRIVAL (R296). -/
  | mailboxSendArrival (channel : Nat) (words : List Word)
  /-- PCIE_LINK_UP (R60). -/
  | pcieLinkUp (width speed : Nat)
  /-- PCIE_CONFIGURATION_WRITE (R88). -/
  | pcieConfigurationWrite (w : PcieCfg)
  /-- MSIX_TABLE_WRITE (R84). -/
  | msixTableWrite (w : MsixWr)
  /-- OFFICER_CARD_ANSWER (R426). -/
  | officerCardAnswer (card : Nat) (atrs : List (Nat × Octets)) (rsp : Octets)
  /-- TAP_RESET (R469). -/
  | tapReset
  deriving DecidableEq, Repr

end Sys2Proof
end

