-- ==== Sys2Proof/Decode.lean ====
section
/-! DEFINITION. The command that a word spells. No row of the opcode table gives bits, so no word spells one: a command reaches the block as an
operation of its register bus, its links or its pins. -/

namespace Sys2Proof

/-- The command that a word of nbits bits spells by the table: none, for no row gives bits. -/
def decodeTableWord (_nbits _w : Nat) : Option Instr := none

end Sys2Proof
end

