-- ==== Sys2Proof/Config.lean ====
section
/-! DEFINITION. What the manual leaves to the implementation or leaves open: free values, read from opaque functions so that no
proof can see what they are. A step that takes one advances the counter `Dev.free` (log entry 5). -/

namespace Sys2Proof

/-- The n-th free octet: an octet whose value the manual does not give (a draw of a random bit generator, an output the
manual calls undefined, an analogue reading). -/
opaque Config.freeOctet : Nat → Octet

/-- The n-th free word. -/
opaque Config.freeWord : Nat → Word

/-- The contents of the boot ROM and of the field boot ROM, by word address: the manual does not give them. -/
opaque Config.bootRom : Nat → Word
opaque Config.fieldRom : Nat → Word

/-- The Quithes recipe key in each Grinder unit's boot ROM: a point of P-384 (R146). -/
opaque Config.recipeKey : Nat × Nat

/-- The other Quithes keys in boot ROM, points of P-384: for Lockkeeper images (R390) and the Ndound service (R393). -/
opaque Config.lockkeeperKey : Nat × Nat
opaque Config.serviceKey : Nat × Nat

/-- Octet n of the conditioning key in the Hopper's boot ROM, of 32 octets (R180). -/
opaque Config.condKey : Nat → Octet

/-- Octet n of the device identity, given at manufacture (Table 17.7). -/
opaque Config.identity : Nat → Octet

/-- The check bits of a 72-bit beat of DRAM, by its even and its odd word: the manual names 8 of them and no code (R358). -/
opaque Config.dramCheck : Word → Word → Octet

/-- Octet n of the calibration constants of the factory row: octets 24 to 2,319, then the four of CHECK (Table 17.7). -/
opaque Config.calOctet : Nat → Octet

/-- The Sluice that carries the transfers of an operation, by the operation's number: the manual does not say how a Sluice is chosen (R61). -/
opaque Config.sluiceOf : Nat → Nat

end Sys2Proof
end

