-- ==== Sys2Proof/Machine/Bits.lean ====
section
/-! DEFINITION. Bit fields of words, byte order, packing between octets and words (R3, R4), and the operations of the
sparse table. -/

namespace Sys2Proof.Machine

/-- A number as a 36-bit word. -/
def wd (n : Nat) : Word := BitVec.ofNat 36 n

/-- Bits hi:lo of a number. -/
def nfld (n hi lo : Nat) : Nat := (n >>> lo) % 2 ^ (hi + 1 - lo)

/-- Field [hi:lo] of a register word. -/
def fld (w : Word) (hi lo : Nat) : Nat := nfld w.toNat hi lo

/-- Bit i of a register word. -/
def bit (w : Word) (i : Nat) : Bool := w.getLsbD i

/-- 1 or 0. -/
def b2n (b : Bool) : Nat := if b then 1 else 0

/-- The word with field [hi:lo] replaced by the low bits of v. -/
def setFld (w : Word) (hi lo v : Nat) : Word :=
  wd (w.toNat - (fld w hi lo <<< lo) + ((v % 2 ^ (hi + 1 - lo)) <<< lo))

/-- The word with bit i set or cleared. -/
def setBit (w : Word) (i : Nat) (b : Bool) : Word := setFld w i i (b2n b)

/-- The sum of fields placed at their low bit: the way a register word is put together. -/
def pack (fs : List (Nat × Nat)) : Word := wd (fs.foldl (fun a f => a + (f.2 <<< f.1)) 0)

/-- Low 36 bits of a 64-bit quantity, as a LO register shows it. -/
def loWord (n : Nat) : Word := wd (n % 2 ^ 36)

/-- The bits above 36 of a 64-bit quantity, as a HI register shows it. -/
def hiWord (n : Nat) : Word := wd (n / 2 ^ 36)

/-- The quantity a LO and a HI register hold together. -/
def ofLoHi (lo hi : Word) : Nat := lo.toNat + hi.toNat * 2 ^ 36

/-- Ceiling division; nothing for a zero divisor. -/
def ceilDiv (a b : Nat) : Nat := (a + b - 1) / b

/-- A 36-bit counter that saturates. -/
def satInc (w : Word) (k : Nat) : Word := wd (min (2 ^ 36 - 1) (w.toNat + k))

/-! ### Octet strings -/

/-- Octet at a position, zero beyond the end. -/
def octAt (o : Octets) (i : Nat) : Octet := o.getD i 0

/-- n octets from a position. -/
def slice (o : Octets) (off n : Nat) : Octets := (o.drop off).take n

/-- Little-endian value of an octet string (R3). -/
def leNat (o : Octets) : Nat := o.foldr (fun b a => b.toNat + 256 * a) 0

/-- Big-endian value of an octet string. -/
def oct (n : Nat) : Octet := BitVec.ofNat 8 n

def beNat (o : Octets) : Nat := o.foldl (fun a b => a * 256 + b.toNat) 0

/-- Little-endian field of n octets at an offset. -/
def leAt (o : Octets) (off n : Nat) : Nat := leNat (slice o off n)

/-- n octets of a number, little-endian. -/
def leOct : Nat → Nat → Octets
  | 0, _ => []
  | n + 1, v => BitVec.ofNat 8 (v % 256) :: leOct n (v / 256)

/-- n octets of a number, big-endian. -/
def beOct (n v : Nat) : Octets := (leOct n v).reverse

/-- n zero octets. -/
def zeros (n : Nat) : Octets := List.replicate n 0

/-- The string cut or filled with zero octets to n octets. -/
def fitTo (n : Nat) (o : Octets) : Octets := o.take n ++ zeros (n - o.length)

/-- The octet strings differ in no position (lengths included). -/
def octEq (a b : Octets) : Bool := decide (a = b)

/-- Are all octets of the string zero? -/
def allZero (o : Octets) : Bool := o.all (fun b => decide (b = 0))

/-- Octet-wise exclusive or, over the shorter length. -/
def xorOct (a b : Octets) : Octets := List.zipWith (· ^^^ ·) a b

/-- The list cut into pieces of k (fuel bounds the count). -/
def chunksFuel {α : Type} : Nat → Nat → List α → List (List α)
  | 0, _, _ => []
  | f + 1, k, o => if o.isEmpty then [] else o.take k :: chunksFuel f k (o.drop k)

/-- The list cut into pieces of k, the last one possibly shorter. -/
def chunks {α : Type} (k : Nat) (o : List α) : List (List α) := chunksFuel (o.length + 1) k o

/-! ### Quad and dense packing (R4) -/

/-- Quad packing of octets into words. -/
def quadPack (o : Octets) : List Word := (chunks 4 o).map (fun c => wd (leNat c))

/-- Dense packing: nine octets in two words. -/
def densePack (o : Octets) : List Word :=
  (chunks 9 o).flatMap (fun c => [wd (leNat c % 2 ^ 36), wd (leNat c / 2 ^ 36)])

/-- Packing in the mode the PACK bit names (0 quad, 1 dense). -/
def packOct (dense : Bool) (o : Octets) : List Word := if dense then densePack o else quadPack o

/-- Octets of words packed quad. -/
def quadUnpack (ws : List Word) : Octets := ws.flatMap (fun w => leOct 4 (w.toNat % 2 ^ 32))

/-- Octets of words packed dense. -/
def denseUnpack : List Word → Octets
  | a :: b :: r => leOct 9 (a.toNat + b.toNat * 2 ^ 36) ++ denseUnpack r
  | [a] => leOct 4 (a.toNat % 2 ^ 32)
  | [] => []

/-- The octets of words packed in the named mode. -/
def unpackOct (dense : Bool) (ws : List Word) : Octets := if dense then denseUnpack ws else quadUnpack ws

/-- How many words n octets take. -/
def packLen (dense : Bool) (n : Nat) : Nat := if dense then 2 * ceilDiv n 9 else ceilDiv n 4

/-! ### Sparse tables -/

/-- What the table holds at a key; the default where it lists nothing. -/
def tabGet {α : Type} (d : α) : Tab α → Nat → α
  | [], _ => d
  | (k, v) :: r, i => if i = k then v else tabGet d r i

/-- The listed value, if any. -/
def tabFind {α : Type} : Tab α → Nat → Option α
  | [], _ => none
  | (k, v) :: r, i => if i = k then some v else tabFind r i

/-- The table with a key's entry taken out. -/
def tabErase {α : Type} (t : Tab α) (i : Nat) : Tab α := t.filter (fun e => decide (e.1 ≠ i))

/-- The table with an entry listed at a key, in rising order. -/
def tabPut {α : Type} : Tab α → Nat → α → Tab α
  | [], i, x => [(i, x)]
  | (k, v) :: r, i, x =>
    if i = k then (i, x) :: r else if i < k then (i, x) :: (k, v) :: r else (k, v) :: tabPut r i x

/-- A write to the table, keeping its canonical form: writing the default removes the entry. -/
def tabSet {α : Type} [DecidableEq α] (d : α) (t : Tab α) (i : Nat) (x : α) : Tab α :=
  if x = d then tabErase t i else tabPut t i x

/-- Change of one entry. -/
def tabMod {α : Type} [DecidableEq α] (d : α) (t : Tab α) (i : Nat) (f : α → α) : Tab α :=
  tabSet d t i (f (tabGet d t i))

/-- A run of writes from a key on. -/
def tabSetList {α : Type} [DecidableEq α] (d : α) : Tab α → Nat → List α → Tab α
  | t, _, [] => t
  | t, i, x :: xs => tabSetList d (tabSet d t i x) (i + 1) xs

/-- n entries from a key on. -/
def tabGetList {α : Type} (d : α) (t : Tab α) (i : Nat) : Nat → List α
  | 0 => []
  | n + 1 => tabGet d t i :: tabGetList d t (i + 1) n

/-- Keys strictly rising. -/
def tabSorted {α : Type} : Tab α → Bool
  | (a, _) :: (b, y) :: r => decide (a < b) && tabSorted ((b, y) :: r)
  | _ => true

/-- The canonical form: keys strictly rising and no entry equal to the default. -/
def tabWf {α : Type} [DecidableEq α] (d : α) (t : Tab α) : Bool :=
  tabSorted t && t.all (fun e => decide (e.2 ≠ d))

/-- Sorting by a numeric key, stable (insertion). -/
def insertBy {α : Type} (key : α → Nat) (x : α) : List α → List α
  | [] => [x]
  | y :: r => if key x < key y then x :: y :: r else y :: insertBy key x r

/-- Stable insertion sort by a numeric key. -/
def sortBy {α : Type} (key : α → Nat) (l : List α) : List α := l.foldl (fun acc x => insertBy key x acc) []

/-- The numbers 0 … n-1, starting at k mod n and wrapping: the rotation of R37. -/
def rotation (n k : Nat) : List Nat := (List.range n).map (fun i => (i + k) % n)

/-- Change of one list element. -/
def listMod {α : Type} (l : List α) (i : Nat) (f : α → α) : List α := l.modify i f

end Sys2Proof.Machine
end

