-- ==== Sys2Proof/Machine/Factory.lean ====
section
/-! DEFINITION. What manufacture leaves in a part: the device identity and the factory-calibration row (Table 17.7), with CRC-32. -/

namespace Sys2Proof.Machine

/-- CRC-32 of octets, reflected polynomial 0xEDB88320. -/
def crc32 (o : Octets) : Nat :=
  let step := fun (c : Nat) => if c % 2 = 1 then (c / 2) ^^^ 0xEDB88320 else c / 2
  (o.foldl (fun c b => step (step (step (step (step (step (step (step (c ^^^ b.toNat))))))))) 0xFFFFFFFF) ^^^ 0xFFFFFFFF

/-- The device identity given at manufacture. -/
def identity : Octets := (List.range 16).map Config.identity

/-- Octets 0 to 2,319 of the row: head, device identity, constants. -/
def calBody : Octets :=
  [0x51, 0x46, 0x43, 0x31] ++ leOct 2 1 ++ leOct 2 2324 ++ identity ++ (List.range 2296).map Config.calOctet

/-- CHECK as the row holds it. -/
def calCheck : Octets := (List.range 4).map (fun i => Config.calOctet (2296 + i))

/-- The factory-calibration row (Table 17.7). -/
def calRow : Octets := fitTo 16384 (calBody ++ calCheck)

/-- Does the row's CHECK hold (R412)? -/
def calRowOk : Bool := decide (leNat calCheck = crc32 calBody)

end Sys2Proof.Machine
end

