-- ==== Sys2Proof/Machine/Aes.lean ====
section
/-! DEFINITION. AES (FIPS 197) and the modes the cipher lanes support (R89, R92): ECB, CBC, CTR, GCM, CCM, XTS and CMAC; the counter-mode
derivation of R105 and the key unwrap of R106. PRESUMED: the published standards the manual names (log entry 6). -/

namespace Sys2Proof.Machine

/-! ### The field GF(2^8) and the S-boxes -/

def xtime (b : Octet) : Octet := (b <<< 1) ^^^ (if b.getLsbD 7 then 0x1B else 0)

def gmulAux : Nat → Octet → Octet → Octet → Octet
  | 0, _, _, acc => acc
  | n + 1, a, b, acc => gmulAux n (xtime a) (b >>> 1) (if b.getLsbD 0 then acc ^^^ a else acc)

/-- Multiplication in GF(2^8). -/
def gmul (a b : Octet) : Octet := gmulAux 8 a b 0

/-- The multiplicative inverse, x^254; zero for zero. -/
def ginv (x : Octet) : Octet :=
  let x2 := gmul x x
  let x3 := gmul x2 x
  let x6 := gmul x3 x3
  let x12 := gmul x6 x6
  let x15 := gmul x12 x3
  let x30 := gmul x15 x15
  let x60 := gmul x30 x30
  let x120 := gmul x60 x60
  let x126 := gmul x120 x6
  let x127 := gmul x126 x
  gmul x127 x127

def sboxOf (x : Octet) : Octet :=
  let i := ginv x
  i ^^^ i.rotateLeft 1 ^^^ i.rotateLeft 2 ^^^ i.rotateLeft 3 ^^^ i.rotateLeft 4 ^^^ 0x63

def invSboxOf (y : Octet) : Octet :=
  ginv (y.rotateLeft 1 ^^^ y.rotateLeft 3 ^^^ y.rotateLeft 6 ^^^ 0x05)

/-- The S-box and its inverse, tabulated from their definitions. -/
def sboxTable : Array Octet := ((List.range 256).map (fun i => sboxOf (BitVec.ofNat 8 i))).toArray
def invSboxTable : Array Octet := ((List.range 256).map (fun i => invSboxOf (BitVec.ofNat 8 i))).toArray

def sbox (x : Octet) : Octet := sboxTable.getD x.toNat 0
def invSbox (x : Octet) : Octet := invSboxTable.getD x.toNat 0

/-! ### Key expansion; a key schedule is a list of 4-octet words -/

def rconOf : Nat → Octet
  | 0 => 1
  | n + 1 => xtime (rconOf n)

/-- Schedule words held newest first; `i` is the number of words so far. -/
def expandAux (nk : Nat) : Nat → Nat → List Octets → List Octets
  | 0, _, ws => ws
  | n + 1, i, ws =>
    let prev := ws.headD []
    let back := ws.getD (nk - 1) []
    let t := if i % nk = 0 then
        let r := (prev.drop 1 ++ prev.take 1).map sbox
        xorOct r [rconOf (i / nk - 1), 0, 0, 0]
      else if 6 < nk ∧ i % nk = 4 then prev.map sbox else prev
    expandAux nk n (i + 1) (xorOct back t :: ws)

/-- Round keys of 16 octets, first round first. -/
def roundKeys (key : Octets) : List Octets :=
  let nk := key.length / 4
  let ws := expandAux nk (4 * (nk + 7) - nk) nk (chunks 4 key).reverse
  chunks 16 (ws.reverse.flatten)

/-! ### The cipher; a block is 16 octets, column by column -/

def shiftRows (s : Octets) : Octets := (List.range 16).map (fun i => octAt s ((i + 4 * (i % 4)) % 16))
def invShiftRows (s : Octets) : Octets := (List.range 16).map (fun i => octAt s ((i + 12 * (i % 4)) % 16))

def mixWith (m : List Octet) (s : Octets) : Octets :=
  (List.range 16).map (fun i =>
    (List.range 4).foldl (fun a k => a ^^^ gmul (m.getD ((k + 4 - i % 4) % 4) 0) (octAt s (i / 4 * 4 + k))) 0)

def mixColumns (s : Octets) : Octets := mixWith [2, 3, 1, 1] s
def invMixColumns (s : Octets) : Octets := mixWith [14, 11, 13, 9] s

def encRounds : List Octets → Octets → Octets
  | [], s => s
  | [k], s => xorOct (shiftRows (s.map sbox)) k
  | k :: ks, s => encRounds ks (xorOct (mixColumns (shiftRows (s.map sbox))) k)

def decRounds : List Octets → Octets → Octets
  | [], s => s
  | [k], s => xorOct ((invShiftRows s).map invSbox) k
  | k :: ks, s => decRounds ks (invMixColumns (xorOct ((invShiftRows s).map invSbox) k))

/-- One block under a key schedule. -/
def aesEncR (rks : List Octets) (b : Octets) : Octets :=
  match rks with
  | [] => b
  | k :: ks => encRounds ks (xorOct b k)

def aesDecR (rks : List Octets) (b : Octets) : Octets :=
  match rks.reverse with
  | [] => b
  | k :: ks => decRounds ks (xorOct b k)

/-- One block under a key of 16, 24 or 32 octets. -/
def aesEnc (key b : Octets) : Octets := aesEncR (roundKeys key) b

/-! ### ECB, CBC, CTR (SP 800-38A) -/

def ecbEnc (key p : Octets) : Octets := let r := roundKeys key; (chunks 16 p).flatMap (aesEncR r)
def ecbDec (key c : Octets) : Octets := let r := roundKeys key; (chunks 16 c).flatMap (aesDecR r)

def cbcEncAux (r : List Octets) : List Octets → Octets → Octets
  | [], _ => []
  | b :: bs, iv => let c := aesEncR r (xorOct b iv); c ++ cbcEncAux r bs c

def cbcEnc (key iv p : Octets) : Octets := cbcEncAux (roundKeys key) (chunks 16 p) iv

def cbcDecAux (r : List Octets) : List Octets → Octets → Octets
  | [], _ => []
  | b :: bs, iv => xorOct (aesDecR r b) iv ++ cbcDecAux r bs b

def cbcDec (key iv c : Octets) : Octets := cbcDecAux (roundKeys key) (chunks 16 c) iv

/-- Counter blocks count the whole block as a big-endian integer modulo 2^128 (R92). -/
def ctrAux (r : List Octets) : List Octets → Nat → Octets
  | [], _ => []
  | b :: bs, ctr => xorOct b (aesEncR r (beOct 16 (ctr % 2 ^ 128))) ++ ctrAux r bs (ctr + 1)

def ctrCrypt (key iv p : Octets) : Octets := ctrAux (roundKeys key) (chunks 16 p) (beNat iv)

/-! ### CMAC (SP 800-38B) -/

def dbl128 (n : Nat) : Nat := (2 * n) % 2 ^ 128 ^^^ (if n / 2 ^ 127 % 2 = 1 then 0x87 else 0)

def padTo16 (o : Octets) : Octets := o ++ zeros ((16 - o.length % 16) % 16)

def cmac (key m : Octets) : Octets :=
  let r := roundKeys key
  let k1 := dbl128 (beNat (aesEncR r (zeros 16)))
  let k2 := dbl128 k1
  let bs := if m.isEmpty then [[]] else chunks 16 m
  let last := bs.getLastD []
  let last' := if last.length = 16 then xorOct last (beOct 16 k1)
    else xorOct (fitTo 16 (last ++ [0x80])) (beOct 16 k2)
  let x := bs.dropLast.foldl (fun c b => aesEncR r (xorOct c b)) (zeros 16)
  aesEncR r (xorOct x last')

/-! ### GCM (SP 800-38D) -/

/-- Multiplication in GF(2^128) with GCM's bit order: the first bit is the most significant one of the number. -/
def ghMulAux : Nat → Nat → Nat → Nat → Nat
  | 0, _, _, z => z
  | n + 1, x, v, z =>
    ghMulAux n x (v / 2 ^^^ (if v % 2 = 1 then 0xE1 <<< 120 else 0)) (if x.testBit n then z ^^^ v else z)

def ghMul (x y : Nat) : Nat := ghMulAux 128 x y 0

def ghash (h : Nat) (o : Octets) : Nat := (chunks 16 o).foldl (fun y b => ghMul (y ^^^ beNat b) h) 0

/-- Counter mode with the low 32 bits counting. -/
def gctr (r : List Octets) (iv : Octets) : List Octets → Nat → Octets
  | [], _ => []
  | b :: bs, c => xorOct b (aesEncR r (iv ++ beOct 4 (c % 2 ^ 32))) ++ gctr r iv bs (c + 1)

/-- The full 16-octet tag over additional data and ciphertext, with a 12-octet IV. -/
def gcmTag (r : List Octets) (iv aad c : Octets) : Octets :=
  let h := beNat (aesEncR r (zeros 16))
  let s := ghash h (padTo16 aad ++ padTo16 c ++ beOct 8 (8 * aad.length) ++ beOct 8 (8 * c.length))
  xorOct (beOct 16 s) (aesEncR r (iv ++ beOct 4 1))

/-- Ciphertext and full tag. -/
def gcmEnc (key iv aad p : Octets) : Octets × Octets :=
  let r := roundKeys key
  let c := gctr r iv (chunks 16 p) 2
  (c, gcmTag r iv aad c)

/-- Plaintext and full expected tag. -/
def gcmDec (key iv aad c : Octets) : Octets × Octets :=
  let r := roundKeys key
  (gctr r iv (chunks 16 c) 2, gcmTag r iv aad c)

/-! ### CCM (SP 800-38C) -/

def ccmAadLen (n : Nat) : Octets :=
  if n = 0 then [] else if n < 0xFF00 then beOct 2 n else [0xFF, 0xFE] ++ beOct 4 n

/-- The tag before masking, and the mask block and key stream share the nonce. -/
def ccmMac (r : List Octets) (nonce aad p : Octets) (t : Nat) : Octets :=
  let q := 15 - nonce.length
  let fl := (if aad.isEmpty then 0 else 64) + 8 * ((t - 2) / 2) + (q - 1)
  let b0 := BitVec.ofNat 8 fl :: nonce ++ beOct q p.length
  let a := if aad.isEmpty then [] else padTo16 (ccmAadLen aad.length ++ aad)
  (chunks 16 (b0 ++ a ++ padTo16 p)).foldl (fun c b => aesEncR r (xorOct c b)) (zeros 16)

def ccmCtr (nonce : Octets) : Nat := beNat (BitVec.ofNat 8 (14 - nonce.length) :: nonce ++ zeros (15 - nonce.length))

def ccmEnc (key nonce aad p : Octets) (t : Nat) : Octets × Octets :=
  let r := roundKeys key
  let mac := ccmMac r nonce aad p t
  (ctrAux r (chunks 16 p) (ccmCtr nonce + 1), (xorOct mac (aesEncR r (beOct 16 (ccmCtr nonce)))).take t)

def ccmDec (key nonce aad c : Octets) (t : Nat) : Octets × Octets :=
  let r := roundKeys key
  let p := ctrAux r (chunks 16 c) (ccmCtr nonce + 1)
  (p, (xorOct (ccmMac r nonce aad p t) (aesEncR r (beOct 16 (ccmCtr nonce)))).take t)

/-! ### XTS (SP 800-38E), one data unit, with ciphertext stealing -/

/-- The tweak times α, the tweak held little-endian as a number. -/
def xtsMul (t : Nat) : Nat := (2 * t) % 2 ^ 128 ^^^ (if t / 2 ^ 127 % 2 = 1 then 0x87 else 0)

def xtsBlk (f : Octets → Octets) (t : Nat) (b : Octets) : Octets :=
  let m := leOct 16 t
  xorOct (f (xorOct b m)) m

def xtsAux (f : Octets → Octets) : List Octets → Nat → Octets
  | [], _ => []
  | b :: bs, t => xtsBlk f t b ++ xtsAux f bs (xtsMul t)

def xtsPow : Nat → Nat → Nat
  | 0, t => t
  | n + 1, t => xtsPow n (xtsMul t)

/-- XTS over a payload of at least 16 octets; `dec` tells decryption, where the last whole block takes the later tweak first. -/
def xts (dec : Bool) (key tweak p : Octets) : Octets :=
  let k1 := key.take (key.length / 2)
  let t0 := leNat (aesEnc (key.drop (key.length / 2)) tweak)
  let r := roundKeys k1
  let f := if dec then aesDecR r else aesEncR r
  let part := p.length % 16
  if part = 0 then xtsAux f (chunks 16 p) t0
  else
    let m := p.length / 16
    let front := xtsAux f (chunks 16 (p.take (16 * (m - 1)))) t0
    let tm := xtsPow (m - 1) t0
    let tn := xtsMul tm
    let blk := slice p (16 * (m - 1)) 16
    let tail := p.drop (16 * m)
    let cc := xtsBlk f (if dec then tn else tm) blk
    front ++ xtsBlk f (if dec then tm else tn) (tail ++ cc.drop part) ++ cc.take part

/-! ### Derivation and unwrap -/

/-- R105: SP 800-108 counter mode with CMAC as PRF; n octets of output. -/
def kdf108 (key label context : Octets) (n : Nat) : Octets :=
  let fixed := label ++ [0] ++ context ++ beOct 4 (8 * n)
  ((List.range (ceilDiv n 16)).flatMap (fun i => cmac key (beOct 4 (i + 1) ++ fixed))).take n

/-- One step of RFC 3394 unwrapping: index t, halves A and R[i]. -/
def kwStep (r : List Octets) (n : Nat) (st : Octets × List Octets) (t : Nat) : Octets × List Octets :=
  let i := (t - 1) % n
  let a := xorOct st.1 (beOct 8 t)
  let b := aesDecR r (a ++ st.2.getD i [])
  (b.take 8, st.2.set i (b.drop 8))

/-- RFC 3394: the key, when the default initial value is found. DESIGN CHOICE (log entry 97): a wrapped key that is no whole number of 64-bit blocks,
which RFC 3394 does not define, runs through the steps with a short last block. -/
def kwUnwrap (key w : Octets) : Option Octets :=
  let r := roundKeys key
  let bs := chunks 8 w
  let n := bs.length - 1
  let st := (((List.range (6 * n)).reverse).map (· + 1)).foldl (kwStep r n) (bs.headD [], bs.drop 1)
  if st.1 = List.replicate 8 0xA6 then some st.2.flatten else none

end Sys2Proof.Machine
end

