-- ==== Sys2Proof/Machine/Flags.lean ====
section
/-! DEFINITION. Completion status codes (Table 0.3), the order in which conditions found before execution are reported (R12, R485),
and the flag computations of the CQ36 arithmetic. -/

namespace Sys2Proof.Machine

/-! ### Table 0.3 -/

abbrev St.done : Nat := 0x00
abbrev St.untrusted : Nat := 0x01
abbrev St.aborted : Nat := 0x02
abbrev St.migrated : Nat := 0x03
abbrev St.exhausted : Nat := 0x04
abbrev St.keyInvalid : Nat := 0x05
abbrev St.denied : Nat := 0x06
abbrev St.held : Nat := 0x07
abbrev St.badDesc : Nat := 0x08
abbrev St.length : Nat := 0x09
abbrev St.regFull : Nat := 0x0A
abbrev St.timeout : Nat := 0x0B
abbrev St.integrity : Nat := 0x0C
abbrev St.entropy : Nat := 0x0D
abbrev St.param : Nat := 0x0E
abbrev St.notOwner : Nat := 0x0F
abbrev St.busySelf : Nat := 0x10
abbrev St.blockBusy : Nat := 0x11
abbrev St.writeProt : Nat := 0x12
abbrev St.cardAbsent : Nat := 0x13

/-- A condition found: status and sub-code. -/
abbrev Fail := Nat × Nat

/-- R12: position of a status in the order of checks. -/
def failPos (st : Nat) : Nat :=
  if st = St.held then 1 else if st = St.badDesc then 2 else if st = St.length then 3 else if st = St.denied then 4
  else if st = St.notOwner then 5 else if st = St.keyInvalid then 6 else if st = St.exhausted then 7 else 8

/-- R12, R485: of the conditions found, the one in the earliest position; the first found within a position. -/
def firstFail : List (Option Fail) → Option Fail
  | [] => none
  | none :: r => firstFail r
  | some f :: r =>
    match firstFail r with
    | none => some f
    | some g => if failPos g.1 < failPos f.1 then some g else some f

/-- A condition with its code: reported when it holds. -/
def failIf (c : Bool) (st sub : Nat) : Option Fail := if c then some (st, sub) else none

/-- The first condition of a list, in the list's own order. -/
def firstOf : List (Option Fail) → Option Fail
  | [] => none
  | none :: r => firstOf r
  | some f :: _ => some f

/-! ### Flags of the CQ36 (Tables 12.2, 12.9) -/

/-- Z, N, C and V. -/
structure Flags where
  z : Bool
  n : Bool
  c : Bool
  v : Bool
  deriving DecidableEq, Repr

/-- Sum of two words and a carry, with its flags: C carry out, V signed overflow. -/
def addFlags (a b : Word) (cin : Nat) : Word × Flags :=
  let s := a.toNat + b.toNat + cin
  let r := wd s
  (r, ⟨decide (r = 0), r.msb, decide (2 ^ 36 ≤ s), decide (a.msb = b.msb) && decide (r.msb ≠ a.msb)⟩)

/-- Difference less a borrow, with its flags: C is 1 when no borrow occurred. -/
def subFlags (a b : Word) (borrow : Nat) : Word × Flags := addFlags a (~~~b) (1 - borrow)

/-- The flags a status word holds. -/
def flagsOf (sw : Word) : Flags := ⟨bit sw 4, bit sw 5, bit sw 6, bit sw 7⟩

/-- A status word with its flags replaced. -/
def withFlags (sw : Word) (f : Flags) : Word := setFld sw 7 4 (b2n f.z + 2 * b2n f.n + 4 * b2n f.c + 8 * b2n f.v)

/-- Table 12.9: is the condition met; none for a reserved one. -/
def condMet (f : Flags) (k : Nat) : Option Bool :=
  match k with
  | 0 => some f.z
  | 1 => some (!f.z)
  | 2 => some f.c
  | 3 => some (!f.c)
  | 4 => some f.n
  | 5 => some (!f.n)
  | 6 => some f.v
  | 7 => some (!f.v)
  | 8 => some (f.c && !f.z)
  | 9 => some (!f.c || f.z)
  | 10 => some (decide (f.n = f.v))
  | 11 => some (decide (f.n ≠ f.v))
  | 12 => some (!f.z && decide (f.n = f.v))
  | 13 => some (f.z || decide (f.n ≠ f.v))
  | 14 => some true
  | _ => none

end Sys2Proof.Machine
end

