-- ==== Sys2Proof/Machine/Regs.lean ====
section
/-! DEFINITION. The register maps of the device: one row per register or register array of every block map, with the
access type of each bit (Table 0.2) and the reset value; word addresses by register name; the access masks and reset value of
any register word. The maps are those of the block tables named beside each list. The MPU region groups (R345), the PMU
groups and the mailbox page words are read by functions of their own and stand in no list here. -/

namespace Sys2Proof.Machine

/-- One row of a block map: offset in words, count and stride of an array, the bits of each access type (Table 0.2; bits in
no mask are RO or reserved), the reset value, whether the word has one copy per master, and the island that holds it (0 host, 1 field,
2 one copy on each). -/
structure RegRow where
  off : Nat
  name : String
  cnt : Nat := 1
  stride : Nat := 1
  ch : Nat := 0
  ps : Nat := 0
  rw : Nat := 0
  w1c : Nat := 0
  pin : Nat := 0
  wo : Nat := 0
  reset : Nat := 0
  pm : Bool := false
  isl : Nat := 0
  deriving DecidableEq, Repr

/-- The RST block map (spec/20; spec/20 T20.7; spec/20 T20.8). -/
def regRst : List RegRow := [
  { off := 0x0, name := "RST_ID" },
  { off := 0x1, name := "RST_LAST" },
  { off := 0x2, name := "RST_LAST_PASS_LO" },
  { off := 0x3, name := "RST_LAST_PASS_HI" },
  { off := 0x4, name := "RST_MAP_LO" },
  { off := 0x5, name := "RST_MAP_HI" },
  { off := 0x6, name := "RST_GAP", cnt := 10 },
  { off := 0x10, name := "RST_CMD", wo := 0x7FF },
  { off := 0x11, name := "RST_GO", wo := 0xF },
  { off := 0x12, name := "RST_SEQ" },
  { off := 0x13, name := "RST_CORE_GO", wo := 0xFF },
  { off := 0x14, name := "RST_FUSE_PROG", wo := 0x1FFFFFF },
  { off := 0x20, name := "RST_WDG_CTL", cnt := 9, stride := 4, rw := 0xFFFFFFFFF, isl := 2 },
  { off := 0x21, name := "RST_WDG_KICK", cnt := 9, stride := 4, wo := 0xFFFFFFFFF, isl := 2 },
  { off := 0x22, name := "RST_WDG_REMAIN", cnt := 9, stride := 4, isl := 2 },
  { off := 0x50, name := "RST_STOP", cnt := 16 },
  { off := 0x60, name := "RST_STOP_CLR", wo := 0x1 },
  { off := 0x68, name := "RST_HENTRY", cnt := 8, rw := 0xFFFFFFFFF } ]

/-- The CLK block map (spec/20 T20.10). -/
def regClk : List RegRow := [
  { off := 0x0, name := "CLK_ID" },
  { off := 0x1, name := "CLK_LOCK" },
  { off := 0x10, name := "CLK_MEAS", cnt := 28 } ]

/-- The PWR block map (spec/20 T20.9). -/
def regPwr : List RegRow := [
  { off := 0x0, name := "PWR_ID" },
  { off := 0x1, name := "PWR_STATUS" },
  { off := 0x2, name := "PWR_VIN" },
  { off := 0x3, name := "PWR_KEEP" },
  { off := 0x4, name := "PWR_TEMP" },
  { off := 0x10, name := "PWR_MONC_SEL", rw := 0xF, pm := true },
  { off := 0x11, name := "PWR_MONC_LO" },
  { off := 0x12, name := "PWR_MONC_HI" },
  { off := 0x13, name := "PWR_MONC_INC", wo := 0xF },
  { off := 0x14, name := "PWR_RTC_S" },
  { off := 0x15, name := "PWR_RTC_SUB" } ]

/-- The PAS block map (spec/02 T2.1). -/
def regPas : List RegRow := [
  { off := 0x0, name := "PAS_COUNT_LO", isl := 2 },
  { off := 0x1, name := "PAS_COUNT_HI", isl := 2 },
  { off := 0x2, name := "PAS_CYCLE", isl := 2 },
  { off := 0x3, name := "PAS_RQ_KMIN", ch := 0xF },
  { off := 0x4, name := "PAS_OVERRUN", w1c := 0x1FF },
  { off := 0x8, name := "PAS_PART_REQ", wo := 0x3FFFF },
  { off := 0x9, name := "PAS_PART_RESULT" },
  { off := 0x40, name := "PAS_PART_STATE", cnt := 94 } ]

/-- The CHM block map (spec/02 T2.7). -/
def regChm : List RegRow := [
  { off := 0x0, name := "CHM_CMD", wo := 0x7 },
  { off := 0x1, name := "CHM_STATE", w1c := 0x30 },
  { off := 0x2, name := "CHM_OWNER" },
  { off := 0x3, name := "CHM_COUNT" },
  { off := 0x4, name := "CHM_SEQ_LO" },
  { off := 0x5, name := "CHM_SEQ_HI" },
  { off := 0x6, name := "CHM_OPEN_AT_LO", rw := 0xFFFFFFFFF },
  { off := 0x7, name := "CHM_OPEN_AT_HI", rw := 0xFFFFFFF },
  { off := 0x8, name := "CHM_ERR" },
  { off := 0x9, name := "CHM_APPROVALS" },
  { off := 0xA, name := "CHM_APPROVAL_LIFE", ps := 0xFFFFFFFF, reset := 20000 },
  { off := 0xB, name := "CHM_PEEK_ADDR", rw := 0xFFFFFFFFF, pm := true },
  { off := 0xC, name := "CHM_PEEK_DATA" },
  { off := 0x10, name := "CHM_DIGEST", cnt := 12 },
  { off := 0x20, name := "CHM_NONCE", cnt := 4 } ]

/-- The LCS block map (spec/16 T16.9). -/
def regLcs : List RegRow := [
  { off := 0x0, name := "LCS_ID" },
  { off := 0x1, name := "LCS_STATE" },
  { off := 0x2, name := "LCS_PROGRESS" },
  { off := 0x3, name := "LCS_REQUEST", ps := 0xF },
  { off := 0x4, name := "LCS_DEVID", cnt := 4 },
  { off := 0x8, name := "LCS_CMD", wo := 0x7 },
  { off := 0x9, name := "LCS_ARG", cnt := 3, rw := 0xFFFFFFFFF, pm := true },
  { off := 0xC, name := "LCS_CMD_RESULT" },
  { off := 0xD, name := "LCS_BOOT" },
  { off := 0xE, name := "LCS_BOOT_GEN" },
  { off := 0x10, name := "LCS_DAK_PUB", cnt := 24 },
  { off := 0x28, name := "LCS_CHAL", cnt := 16 } ]

/-- The TMP block map (spec/15 T15.5; spec/15 T15.6). -/
def regTmp : List RegRow := [
  { off := 0x0, name := "TMP_ID" },
  { off := 0x1, name := "TMP_STATE" },
  { off := 0x2, name := "TMP_HOLD_COUNT_LO" },
  { off := 0x3, name := "TMP_HOLD_COUNT_HI" },
  { off := 0x4, name := "TMP_KEEP_EPOCH" },
  { off := 0x5, name := "TMP_LOG_COUNT" },
  { off := 0x6, name := "TMP_LOG_SEL", rw := 0x3F, pm := true },
  { off := 0x8, name := "TMP_LOG", cnt := 6 },
  { off := 0xE, name := "TMP_HOST_VEC", ch := 0xFFF },
  { off := 0xF, name := "TMP_INT_CORES", ch := 0x1FF, reset := 256 },
  { off := 0x40, name := "TMP_SRC_CTL", cnt := 39, ps := 0xFFFFFFFFF },
  { off := 0x80, name := "TMP_SRC_STATUS", cnt := 39, w1c := 0x200 } ]

/-- The MPU block map (spec/14 T14.7). -/
def regMpu : List RegRow := [
  { off := 0x0, name := "MPU_ID", isl := 2 },
  { off := 0x1, name := "MPU_HWIN_BASE_LO", ch := 0xFFFFFF000 },
  { off := 0x2, name := "MPU_HWIN_BASE_HI", ch := 0xFFFFFFF },
  { off := 0x3, name := "MPU_HWIN_ERR", w1c := 0x800000000 },
  { off := 0x8, name := "MPU_WCC_COUNT", cnt := 8, isl := 2 },
  { off := 0x10, name := "MPU_WCC_LAST_ADDR", isl := 2 },
  { off := 0x11, name := "MPU_WCC_LAST_INFO", w1c := 0x800000000, isl := 2 } ]

/-- The MBX block map (spec/11 T11.6). -/
def regMbx : List RegRow := [
  { off := 0x0, name := "MBX_ID" },
  { off := 0x1, name := "MBX_DENIED" },
  { off := 0x10, name := "MBX_OUT", cnt := 16, rw := 0xFFFFFFFFF, pm := true },
  { off := 0x20, name := "MBX_SEND", wo := 0x3F },
  { off := 0x21, name := "MBX_ACK", wo := 0x3FFFFF },
  { off := 0x100, name := "MBX_BIND", cnt := 64, stride := 4, ps := 0xFFFFFFF },
  { off := 0x101, name := "MBX_TIMEOUT", cnt := 64, stride := 4, ch := 0xFFFFFFFF },
  { off := 0x102, name := "MBX_PAGE_LO", cnt := 64, stride := 4, ps := 0xFFFFFFE00 },
  { off := 0x103, name := "MBX_PAGE_HI", cnt := 64, stride := 4, ps := 0xFFFFFFF },
  { off := 0x410, name := "MBX_CH_STATUS", cnt := 64, stride := 32 },
  { off := 0x411, name := "MBX_CH_RESULT", cnt := 64, stride := 32 } ]

/-- The LKG block map (spec/11 T11.5). -/
def regLkg : List RegRow := [
  { off := 0x0, name := "LKG_ID", isl := 2 },
  { off := 0x1, name := "LKG_STATE", isl := 2 },
  { off := 0x4, name := "LKG_BUDGET", cnt := 4, ch := 0xFF, reset := 150 },
  { off := 0x8, name := "LKG_ROUTE", ch := 0xFFF },
  { off := 0xC, name := "LKG_INTEG_FAIL", cnt := 4, isl := 2 },
  { off := 0x10, name := "LKG_STALLS", isl := 2 },
  { off := 0x11, name := "LKG_LOST", isl := 2 },
  { off := 0x12, name := "LKG_TX_REFUSED", isl := 2 },
  { off := 0x40, name := "LKG_RXQ_BASE", cnt := 8, stride := 4, rw := 0xFFFFFFFF0, isl := 2 },
  { off := 0x41, name := "LKG_RXQ_SIZE", cnt := 8, stride := 4, rw := 0x1F, isl := 2 },
  { off := 0x42, name := "LKG_RXQ_HEAD", cnt := 8, stride := 4, wo := 0x1FFFF, isl := 2 },
  { off := 0x43, name := "LKG_RXQ_TAIL", cnt := 8, stride := 4, isl := 2 },
  { off := 0x80, name := "LKG_TXQ_BASE", cnt := 8, stride := 4, rw := 0xFFFFFFFF0, isl := 2 },
  { off := 0x81, name := "LKG_TXQ_SIZE", cnt := 8, stride := 4, rw := 0x1F, isl := 2 },
  { off := 0x82, name := "LKG_TXQ_TAIL", cnt := 8, stride := 4, wo := 0x1FFFF, isl := 2 },
  { off := 0x83, name := "LKG_TXQ_HEAD", cnt := 8, stride := 4, isl := 2 } ]

/-- The WHF block map (spec/03 T3.10; spec/03 T3.3; spec/03 T3.4; spec/03 T3.5; spec/03 T3.6; spec/03 T3.7; spec/03 T3.9). -/
def regWhf : List RegRow := [
  { off := 0x0, name := "WHF_ID" },
  { off := 0x1, name := "WHF_INFLIGHT" },
  { off := 0x2, name := "WHF_BACKPRESSURE" },
  { off := 0x3, name := "WHF_LATE_DISCARDS" },
  { off := 0x4, name := "WHF_DBERR_COUNT" },
  { off := 0x8, name := "WHF_CLASS_BUDGET", cnt := 6, ch := 0xFFFFFFFF },
  { off := 0x40, name := "WHF_FN_CAP", cnt := 64, ch := 0x3FFFF },
  { off := 0x80, name := "WHF_FN_VEC", cnt := 64, ch := 0xFFF },
  { off := 0x2000, name := "WHF_SQ_BASE_LO", cnt := 1024, stride := 8, rw := 0xFFFFFF000 },
  { off := 0x2001, name := "WHF_SQ_BASE_HI", cnt := 1024, stride := 8, rw := 0xFFFFFFF },
  { off := 0x2002, name := "WHF_CQ_BASE_LO", cnt := 1024, stride := 8, rw := 0xFFFFFF000 },
  { off := 0x2003, name := "WHF_CQ_BASE_HI", cnt := 1024, stride := 8, rw := 0xFFFFFFF },
  { off := 0x2004, name := "WHF_RING_SIZE", cnt := 1024, stride := 8, rw := 0x1F },
  { off := 0x2005, name := "WHF_RING_ASSIGN", cnt := 1024, stride := 8, ch := 0x773F, ps := 0x1000000 },
  { off := 0x2006, name := "WHF_RING_INT", cnt := 1024, stride := 8, rw := 0xFFFFFF7FF, reset := 1048576 },
  { off := 0x2007, name := "WHF_RING_STATUS", cnt := 1024, stride := 8, w1c := 0x60000 } ]

/-- The CLN block map (spec/04 T4.12). -/
def regCln : List RegRow := [
  { off := 0x0, name := "CLN_INLINE_WINDOW", ch := 0xFFFFFFFFF, reset := 8 },
  { off := 0x1, name := "CLN_INLINE_HEADROOM", ch := 0xFFFFFFFFF, reset := 1 },
  { off := 0x40, name := "CLN_FWQ_BASE", cnt := 9, stride := 4, rw := 0xFFFFFFFF0 },
  { off := 0x41, name := "CLN_FWQ_SIZE", cnt := 9, stride := 4, rw := 0x1F },
  { off := 0x42, name := "CLN_FWQ_TAIL", cnt := 9, stride := 4, wo := 0x1FFFF },
  { off := 0x43, name := "CLN_FWQ_HEAD", cnt := 9, stride := 4 },
  { off := 0x100, name := "CLN_BUDGET_WHARF", cnt := 8, stride := 16, ch := 0xFFFFFFFFF, reset := 40000 },
  { off := 0x101, name := "CLN_BUDGET_FW", cnt := 8, stride := 16, ch := 0xFFFFFFFFF, reset := 8202 },
  { off := 0x102, name := "CLN_BUDGET_FIELD", cnt := 8, stride := 16, ch := 0xFFFFFFFFF, reset := 2000 },
  { off := 0x103, name := "CLN_INLINE_MAX", cnt := 8, stride := 16, ch := 0xFFFFFFFFF, reset := 50000 },
  { off := 0x104, name := "CLN_FALLBACK", cnt := 8, stride := 16, ch := 0x7 },
  { off := 0x105, name := "CLN_INLINE_PEAK", cnt := 8, stride := 16 },
  { off := 0x106, name := "CLN_ALLOW", cnt := 8, stride := 16 },
  { off := 0x107, name := "CLN_CHAINED", cnt := 8, stride := 16 },
  { off := 0x108, name := "CLN_OPS", cnt := 8, stride := 16 },
  { off := 0x109, name := "CLN_UNTRUSTED", cnt := 8, stride := 16 },
  { off := 0x10A, name := "CLN_LATE", cnt := 8, stride := 16 },
  { off := 0x10B, name := "CLN_INLINE_HELD", cnt := 8, stride := 16 } ]

/-- The HSH block map (spec/04 HSH). -/
def regHsh : List RegRow := [
  { off := 0x0, name := "HSH_BUDGET_WHARF", cnt := 4, stride := 8, ch := 0xFFFFFFFFF, reset := 160000 },
  { off := 0x1, name := "HSH_BUDGET_FW", cnt := 4, stride := 8, ch := 0xFFFFFFFFF, reset := 32912 },
  { off := 0x2, name := "HSH_BUDGET_FIELD", cnt := 4, stride := 8, ch := 0xFFFFFFFFF, reset := 4000 },
  { off := 0x3, name := "HSH_COMMITTED0", cnt := 4, stride := 8 },
  { off := 0x4, name := "HSH_COMMITTED1", cnt := 4, stride := 8 },
  { off := 0x5, name := "HSH_COMMITTED2", cnt := 4, stride := 8 },
  { off := 0x6, name := "HSH_COMMITTED3", cnt := 4, stride := 8 },
  { off := 0x7, name := "HSH_OPS", cnt := 4, stride := 8 } ]

/-- The KSL block map (spec/04 T4.13; spec/04 T4.14). -/
def regKsl : List RegRow := [
  { off := 0x0, name := "KSL_FREE" },
  { off := 0x1, name := "KSL_EXT_FREE" },
  { off := 0x2, name := "KSL_GCM_CAP", ch := 0xFFFFFFFFF, reset := 4294967296 },
  { off := 0x3, name := "KSL_EXHAUST_LAST", w1c := 0x800000000 },
  { off := 0x4, name := "KSL_CMD_DROPS" },
  { off := 0x8, name := "KSL_SEL", rw := 0x3FFF, pm := true },
  { off := 0x9, name := "KSL_VIEW_EXPIRY_LO" },
  { off := 0xA, name := "KSL_VIEW_EXPIRY_HI" },
  { off := 0xB, name := "KSL_VIEW_COUNT_LO" },
  { off := 0xC, name := "KSL_VIEW_COUNT_HI" },
  { off := 0xD, name := "KSL_VIEW_LIMIT_LO" },
  { off := 0xE, name := "KSL_VIEW_LIMIT_HI" },
  { off := 0x10, name := "KSL_CMD", wo := 0x7 },
  { off := 0x11, name := "KSL_ARG", cnt := 5, rw := 0xFFFFFFFFF, pm := true },
  { off := 0x16, name := "KSL_CMD_RESULT" },
  { off := 0x8000, name := "KSL_SLOT_ATTR", cnt := 16384, stride := 2 },
  { off := 0x8001, name := "KSL_SLOT_LEFT", cnt := 16384, stride := 2 } ]

/-- The GRD block map (spec/06 T6.10; spec/06 T6.11; spec/06 T6.12). -/
def regGrd : List RegRow := [
  { off := 0x0, name := "GRD_ID" },
  { off := 0x1, name := "GRD_BUDGET_WHARF", ch := 0xFFFFFFFFF, reset := 64 },
  { off := 0x2, name := "GRD_BUDGET_FW", ch := 0xFFFFFFFFF, reset := 16 },
  { off := 0x3, name := "GRD_BUDGET_K", ch := 0xFFFFFFFFF, reset := 4 },
  { off := 0x4, name := "GRD_EXPRESS_ALLOW", ch := 0xFFFFFFFFF, reset := 32 },
  { off := 0x5, name := "GRD_MIN_VERSION", pin := 0xFFFFFFFFF },
  { off := 0x6, name := "GRD_LATE" },
  { off := 0x7, name := "GRD_PREEMPTS" },
  { off := 0x10, name := "GRD_CMD", wo := 0x7 },
  { off := 0x11, name := "GRD_ARG", cnt := 4, rw := 0xFFFFFFFFF, pm := true },
  { off := 0x15, name := "GRD_CMD_RESULT" },
  { off := 0x40, name := "GRD_FWQ_BASE", cnt := 9, stride := 4, rw := 0xFFFFFFFF0 },
  { off := 0x41, name := "GRD_FWQ_SIZE", cnt := 9, stride := 4, rw := 0x1F },
  { off := 0x42, name := "GRD_FWQ_TAIL", cnt := 9, stride := 4, wo := 0x1FFFF },
  { off := 0x43, name := "GRD_FWQ_CANCEL", cnt := 9, stride := 4, wo := 0x1 },
  { off := 0x64, name := "GRD_FWQ_HEAD", cnt := 9 },
  { off := 0x100, name := "GRD_UNIT_CTL", cnt := 16, stride := 8, ch := 0x1FF },
  { off := 0x101, name := "GRD_UNIT_STATUS", cnt := 16, stride := 8 },
  { off := 0x102, name := "GRD_UNIT_IMAGE", cnt := 16, stride := 8 },
  { off := 0x103, name := "GRD_UNIT_JOBS", cnt := 16, stride := 8 },
  { off := 0x104, name := "GRD_UNIT_REFUSED", cnt := 16, stride := 8 },
  { off := 0x200, name := "GRD_CURVE_STATE", cnt := 64 } ]

/-- The HOP block map (spec/07 T7.4; spec/07 T7.5). -/
def regHop : List RegRow := [
  { off := 0x0, name := "HOP_ID" },
  { off := 0x1, name := "HOP_STATE" },
  { off := 0x2, name := "HOP_SRC_STATE" },
  { off := 0x3, name := "HOP_RCT_CUTOFF", ch := 0xFF, reset := 41 },
  { off := 0x4, name := "HOP_APT_CUTOFF", ch := 0x7FF, reset := 793 },
  { off := 0x5, name := "HOP_RESEED_INT", ch := 0x1FFF, reset := 64 },
  { off := 0x6, name := "HOP_IV_BUDGET", ch := 0xFFF, reset := 2048 },
  { off := 0x7, name := "HOP_RETEST", wo := 0xF },
  { off := 0x8, name := "HOP_RAW_CTL", rw := 0x7 },
  { off := 0x9, name := "HOP_RAW_DATA" },
  { off := 0xA, name := "HOP_SW_DRAW", isl := 2 },
  { off := 0xB, name := "HOP_SW_SHORT", isl := 2 },
  { off := 0xC, name := "HOP_HW_BLOCKS" },
  { off := 0x10, name := "HOP_SW_FILL", cnt := 12, ch := 0xF, reset := 8 },
  { off := 0x20, name := "HOP_FAIL_COUNT", cnt := 4 } ]

/-- The CRG block map (spec/08 T8.10). -/
def regCrg : List RegRow := [
  { off := 0x0, name := "CRG_ID" },
  { off := 0x1, name := "CRG_STATE" },
  { off := 0x2, name := "CRG_COUNT" },
  { off := 0x3, name := "CRG_STASH" },
  { off := 0x4, name := "CRG_PENDING" },
  { off := 0x5, name := "CRG_EPOCH_LO" },
  { off := 0x6, name := "CRG_EPOCH_HI" },
  { off := 0x7, name := "CRG_KEY_SLOT", ch := 0x3FFF },
  { off := 0x8, name := "CRG_BUDGET_WHARF", ch := 0xFFFFFFFFF, reset := 1000 },
  { off := 0x9, name := "CRG_BUDGET_FIELD", ch := 0xFFFFFFFFF, reset := 1000 },
  { off := 0xA, name := "CRG_PREP_BUDGET", ch := 0xFFFFFFFFF, reset := 4096 },
  { off := 0xB, name := "CRG_COMMIT_RESULT" },
  { off := 0xC, name := "CRG_COMMIT_SKIPS" },
  { off := 0xD, name := "CRG_LOOKUPS" },
  { off := 0x10, name := "CRG_CMD", wo := 0x7 },
  { off := 0x11, name := "CRG_ARG", cnt := 3, rw := 0xFFFFFFFFF, pm := true },
  { off := 0x14, name := "CRG_CMD_RESULT" } ]

/-- The BSN block map (spec/08 T8.11). -/
def regBsn : List RegRow := [
  { off := 0x0, name := "BSN_SELF", ps := 0x7FFF },
  { off := 0x1, name := "BSN_COUNT" },
  { off := 0x2, name := "BSN_SITE_OFFSET_LO", ch := 0xFFFFFFFFF },
  { off := 0x3, name := "BSN_SITE_OFFSET_HI", ch := 0xFFFFFFF },
  { off := 0x4, name := "BSN_SITE_NOW_LO" },
  { off := 0x5, name := "BSN_SITE_NOW_HI" },
  { off := 0x6, name := "BSN_ENV_MAX_AGE", ch := 0xFFFFFFFFF, reset := 1200000 },
  { off := 0x7, name := "BSN_KEK_EPOCH" },
  { off := 0x8, name := "BSN_KEK_STATE" },
  { off := 0x9, name := "BSN_NEXT_AT_LO" },
  { off := 0xA, name := "BSN_NEXT_AT_HI" },
  { off := 0xB, name := "BSN_ENROL", ps := 0x1 },
  { off := 0xC, name := "BSN_ENROL_RESULT" },
  { off := 0xD, name := "BSN_ROTATE", ps := 0x1 },
  { off := 0xE, name := "BSN_ROTATE_AT_LO", ps := 0xFFFFFFFFF },
  { off := 0xF, name := "BSN_ROTATE_AT_HI", ps := 0xFFF },
  { off := 0x10, name := "BSN_SEAL_SEQ_LO" },
  { off := 0x11, name := "BSN_SEAL_SEQ_HI" },
  { off := 0x12, name := "BSN_REJECTS" },
  { off := 0x13, name := "BSN_ENV_OPS", ch := 0xFFFFFFFFF, reset := 256 },
  { off := 0x100, name := "BSN_MEMBER", cnt := 512, ps := 0xFFFFFFFF } ]

/-- The ILS block map (spec/05 T5.5; spec/05 T5.6). -/
def regIls0 : List RegRow := [
  { off := 0x0, name := "ILS_ID" },
  { off := 0x1, name := "ILS_EVENT", w1c := 0xFFF },
  { off := 0x2, name := "ILS_EVENT_SA" },
  { off := 0x3, name := "ILS_HOST_VEC", ch := 0xFFF },
  { off := 0x4, name := "ILS_CMD", wo := 0x7 },
  { off := 0x5, name := "ILS_ARG", cnt := 4, rw := 0xFFFFFFFFF, pm := true },
  { off := 0x9, name := "ILS_CMD_RESULT" },
  { off := 0xA, name := "ILS_CNT_SEL", rw := 0x3FFFF, pm := true },
  { off := 0xB, name := "ILS_CNT_LO" },
  { off := 0xC, name := "ILS_CNT_HI" },
  { off := 0x100, name := "ILS_LINK_CTL", cnt := 4, stride := 32, ch := 0x7 },
  { off := 0x101, name := "ILS_LINK_TX_SCI_LO", cnt := 4, stride := 32, ch := 0xFFFFFFFFF },
  { off := 0x102, name := "ILS_LINK_TX_SCI_HI", cnt := 4, stride := 32, ch := 0xFFFFFFF },
  { off := 0x103, name := "ILS_LINK_PEER_SCI_LO", cnt := 4, stride := 32, ch := 0xFFFFFFFFF },
  { off := 0x104, name := "ILS_LINK_PEER_SCI_HI", cnt := 4, stride := 32, ch := 0xFFFFFFF },
  { off := 0x105, name := "ILS_LINK_TX_SA", cnt := 4, stride := 32, ch := 0x1FFF },
  { off := 0x106, name := "ILS_LINK_PN_WARN_LO", cnt := 4, stride := 32, ch := 0xFFFFFFFFF },
  { off := 0x107, name := "ILS_LINK_PN_WARN_HI", cnt := 4, stride := 32, ch := 0xFFFFFFF },
  { off := 0x108, name := "ILS_LINK_LANE", cnt := 4, stride := 32, ch := 0x77 },
  { off := 0x109, name := "ILS_LINK_STATUS", cnt := 4, stride := 32 },
  { off := 0x10A, name := "ILS_UQ_RX_BASE", cnt := 4, stride := 32, rw := 0xFFFFFFE00 },
  { off := 0x10B, name := "ILS_UQ_RX_SIZE", cnt := 4, stride := 32, rw := 0x1F },
  { off := 0x10C, name := "ILS_UQ_RX_HEAD", cnt := 4, stride := 32, wo := 0x1FFFF },
  { off := 0x10D, name := "ILS_UQ_RX_TAIL", cnt := 4, stride := 32 } ]

/-- The ILS block map (spec/05 T5.5; spec/05 T5.6). -/
def regIls1 : List RegRow := [
  { off := 0x10E, name := "ILS_UQ_TX_BASE", cnt := 4, stride := 32, rw := 0xFFFFFFE00 },
  { off := 0x10F, name := "ILS_UQ_TX_SIZE", cnt := 4, stride := 32, rw := 0x1F },
  { off := 0x110, name := "ILS_UQ_TX_TAIL", cnt := 4, stride := 32, wo := 0x1FFFF },
  { off := 0x111, name := "ILS_UQ_TX_HEAD", cnt := 4, stride := 32 },
  { off := 0x1000, name := "ILS_SA_NEXT_HI", cnt := 4096 },
  { off := 0x2000, name := "ILS_SA_SSCI", cnt := 4096, stride := 2, ch := 0xFFFFFFFF },
  { off := 0x2001, name := "ILS_SA_WINDOW", cnt := 4096, stride := 2, ch := 0xFFFFFFFF },
  { off := 0x4000, name := "ILS_SA_STATE", cnt := 4096, stride := 4 },
  { off := 0x4001, name := "ILS_SA_PN_LO", cnt := 4096, stride := 4 },
  { off := 0x4002, name := "ILS_SA_PN_HI", cnt := 4096, stride := 4 },
  { off := 0x4003, name := "ILS_SA_NEXT_LO", cnt := 4096, stride := 4 },
  { off := 0x8000, name := "ILS_SA_CTL", cnt := 4096, stride := 8, ch := 0xFFFFFF },
  { off := 0x8001, name := "ILS_SA_SCI_LO", cnt := 4096, stride := 8, ch := 0xFFFFFFFFF },
  { off := 0x8002, name := "ILS_SA_SCI_HI", cnt := 4096, stride := 8, ch := 0xFFFFFFF },
  { off := 0x8003, name := "ILS_SA_SETPN_LO", cnt := 4096, stride := 8, ch := 0xFFFFFFFFF },
  { off := 0x8004, name := "ILS_SA_SETPN_HI", cnt := 4096, stride := 8, ch := 0xFFFFFFF },
  { off := 0x8005, name := "ILS_SA_SALT0", cnt := 4096, stride := 8, ch := 0xFFFFFFFF },
  { off := 0x8006, name := "ILS_SA_SALT1", cnt := 4096, stride := 8, ch := 0xFFFFFFFF },
  { off := 0x8007, name := "ILS_SA_SALT2", cnt := 4096, stride := 8, ch := 0xFFFFFFFF } ]

/-- The whole ILS block map. -/
def regIls : List RegRow := regIls0 ++ regIls1

/-- The FLS block map (spec/17 T17.8). -/
def regFls : List RegRow := [
  { off := 0x0, name := "FLS_ID" },
  { off := 0x1, name := "FLS_XIP_CTL", rw := 0x3, w1c := 0x4 },
  { off := 0x2, name := "FLS_PLANE_STATE" },
  { off := 0x3, name := "FLS_ERASE_REDO" },
  { off := 0x4, name := "FLS_ECC_FAIL" },
  { off := 0x5, name := "FLS_CORRECTED" },
  { off := 0x8, name := "FLS_CMD", wo := 0x7 },
  { off := 0x9, name := "FLS_ARG", cnt := 4, rw := 0xFFFFFFFFF, pm := true },
  { off := 0xD, name := "FLS_CMD_RESULT" },
  { off := 0x10, name := "FLS_SEL", rw := 0x7FF, pm := true },
  { off := 0x11, name := "FLS_BLOCK_INFO" },
  { off := 0x12, name := "FLS_PAIR", rw := 0xFF, pm := true },
  { off := 0x13, name := "FLS_COMMIT_A" },
  { off := 0x14, name := "FLS_COMMIT_B" },
  { off := 0x15, name := "FLS_RECORD" } ]

/-- The SDH block map (spec/18 T18.9). -/
def regSdh : List RegRow := [
  { off := 0x0, name := "SDH_ID" },
  { off := 0x1, name := "SDH_CTL", ch := 0x3, reset := 1 },
  { off := 0x2, name := "SDH_AUDIT_SLOT", ch := 0x3FFF },
  { off := 0x3, name := "SDH_APPEND_BUDGET", ch := 0xFFFFFFFFF, reset := 64 },
  { off := 0x4, name := "SDH_STATE" },
  { off := 0x5, name := "SDH_HEAD_SEQ_LO" },
  { off := 0x6, name := "SDH_HEAD_SEQ_HI" },
  { off := 0x7, name := "SDH_WRITTEN_SEQ_LO" },
  { off := 0x8, name := "SDH_WRITTEN_SEQ_HI" },
  { off := 0x10, name := "SDH_CMD", wo := 0x7 },
  { off := 0x11, name := "SDH_ARG", cnt := 4, rw := 0xFFFFFFFFF, pm := true },
  { off := 0x15, name := "SDH_CMD_RESULT" },
  { off := 0x16, name := "SDH_CMD_SEQ_LO" },
  { off := 0x17, name := "SDH_CMD_SEQ_HI" },
  { off := 0x20, name := "SDH_SLOT_STATUS", cnt := 2, stride := 8 },
  { off := 0x21, name := "SDH_SLOT_BLOCKS", cnt := 2, stride := 8 },
  { off := 0x22, name := "SDH_SLOT_NEXT", cnt := 2, stride := 8 },
  { off := 0x23, name := "SDH_SLOT_SPENT", cnt := 2, stride := 8 },
  { off := 0x24, name := "SDH_SLOT_CID0", cnt := 2, stride := 8 },
  { off := 0x25, name := "SDH_SLOT_CID1", cnt := 2, stride := 8 },
  { off := 0x26, name := "SDH_SLOT_CID2", cnt := 2, stride := 8 },
  { off := 0x27, name := "SDH_SLOT_CID3", cnt := 2, stride := 8 } ]

/-- The OFC block map (spec/18 T18.10). -/
def regOfc : List RegRow := [
  { off := 0x0, name := "OFC_ID" },
  { off := 0x1, name := "OFC_CLK", ch := 0xFFFFFFFFF, reset := 40 },
  { off := 0x2, name := "OFC_SESSION_LIFE", ch := 0xFFFFFFFF, reset := 6000000 },
  { off := 0x3, name := "OFC_ROSTER_COUNT" },
  { off := 0x4, name := "OFC_ROSTER_OP", ps := 0x1FF },
  { off := 0x5, name := "OFC_ROSTER_RESULT" },
  { off := 0x10, name := "OFC_ROSTER_KEY", cnt := 16, ps := 0xFFFFFFFF },
  { off := 0x20, name := "OFC_CMD", wo := 0xF },
  { off := 0x21, name := "OFC_CMD_RESULT" },
  { off := 0x30, name := "OFC_IF_STATUS", cnt := 2, stride := 4 },
  { off := 0x31, name := "OFC_IF_SESSION_END", cnt := 2, stride := 4 },
  { off := 0x32, name := "OFC_IF_AUTH_FAILS", cnt := 2, stride := 4 },
  { off := 0x1000, name := "OFC_ROSTER_VIEW", cnt := 1024 } ]

/-- The DBG block map (spec/16 T16.10). -/
def regDbg : List RegRow := [
  { off := 0x0, name := "DBG_STATUS", w1c := 0x2 },
  { off := 0x1, name := "DBG_AUTH_FAILS" },
  { off := 0x2, name := "DBG_SESSIONS" },
  { off := 0x8, name := "DBG_ADDR", rw := 0xFFFFFFFFF },
  { off := 0x9, name := "DBG_DATA" },
  { off := 0xA, name := "DBG_CORE", rw := 0x1FF, wo := 0x200 } ]

/-- The RPL block map (spec/19 T19.8). -/
def regRpl0 : List RegRow := [
  { off := 0x0, name := "RPL_ID" },
  { off := 0x1, name := "RPL_CTL", ch := 0x7FFF },
  { off := 0x2, name := "RPL_STATE" },
  { off := 0x3, name := "RPL_KEY_EPOCH" },
  { off := 0x4, name := "RPL_RSEQ_LO" },
  { off := 0x5, name := "RPL_RSEQ_HI" },
  { off := 0x6, name := "RPL_LOST" },
  { off := 0x7, name := "RPL_STAGE_BASE", ch := 0xFFFF00000 },
  { off := 0x8, name := "RPL_STAGE_SIZE", ch := 0xFFFFFFFFF },
  { off := 0x9, name := "RPL_RING_BASE_LO", ch := 0xFFFFFF000 },
  { off := 0xA, name := "RPL_RING_BASE_HI", ch := 0xFFFFFFF },
  { off := 0xB, name := "RPL_RING_SIZE", ch := 0xFFFFFFFFF },
  { off := 0xC, name := "RPL_RING_CTRL_LO", ch := 0xFFFFFFFC0 },
  { off := 0xD, name := "RPL_RING_CTRL_HI", ch := 0xFFFFFFF },
  { off := 0xE, name := "RPL_HOST_VEC", ch := 0xFFF },
  { off := 0xF, name := "RPL_CARD_BUDGET", ch := 0x7F, reset := 16 },
  { off := 0x10, name := "RPL_MODE", ch := 0x1 },
  { off := 0x11, name := "RPL_REPLAY_CORES", ch := 0xFFF },
  { off := 0x12, name := "RPL_REPLAY_PASS_LO" },
  { off := 0x13, name := "RPL_REPLAY_PASS_HI" },
  { off := 0x14, name := "RPL_DIV_INFO" },
  { off := 0x15, name := "RPL_DIV_PASS_LO" },
  { off := 0x16, name := "RPL_DIV_PASS_HI" },
  { off := 0x17, name := "RPL_DIV_PROGRESS_LO" } ]

/-- The RPL block map (spec/19 T19.8). -/
def regRpl1 : List RegRow := [
  { off := 0x18, name := "RPL_DIV_PROGRESS_HI" },
  { off := 0x20, name := "RPL_REL_EPOCH", ps := 0xFFFFFFFF },
  { off := 0x21, name := "RPL_REL_BLOB", cnt := 23, ps := 0xFFFFFFFF },
  { off := 0x40, name := "RPL_REL_DAK", cnt := 24, ps := 0xFFFFFFFF },
  { off := 0x60, name := "RPL_REL_TOKEN", cnt := 43 },
  { off := 0xA0, name := "RPL_KEYTOK", cnt := 43, ch := 0xFFFFFFFF } ]

/-- The whole RPL block map. -/
def regRpl : List RegRow := regRpl0 ++ regRpl1

/-- The PMU block map (spec/19 T19.10). -/
def regPmu : List RegRow := [
  { off := 0x0, name := "PMU_ID" },
  { off := 0x1, name := "PMU_BW_WINDOW", ch := 0xFFFF, reset := 20000 },
  { off := 0x2, name := "PMU_BW_CLEAR", wo := 0x1 },
  { off := 0x80, name := "PMU_BW_LAST_LO", cnt := 30, stride := 4 },
  { off := 0x81, name := "PMU_BW_LAST_HI", cnt := 30, stride := 4 },
  { off := 0x82, name := "PMU_BW_MAX_LO", cnt := 30, stride := 4 },
  { off := 0x83, name := "PMU_BW_MAX_HI", cnt := 30, stride := 4 } ]

/-- The FLD block map (spec/09 T9.5). -/
def regFld : List RegRow := [
  { off := 0x0, name := "FLD_ID", isl := 1 },
  { off := 0x1, name := "FLD_STATE", isl := 1 },
  { off := 0x2, name := "FLD_POWER_CAP", ch := 0x3FF, reset := 640, isl := 1 },
  { off := 0x3, name := "FLD_POWER_NOW", isl := 1 },
  { off := 0x4, name := "FLD_REPORT", ch := 0x1, isl := 1 },
  { off := 0x8, name := "FLD_REQ", wo := 0x7FF, isl := 1 },
  { off := 0x9, name := "FLD_REQ_DROPS", isl := 1 },
  { off := 0x10, name := "FLD_FLIGHT_CTL", cnt := 16, ch := 0x1F, isl := 1 },
  { off := 0x20, name := "FLD_EVQ_BASE", cnt := 4, stride := 4, rw := 0xFFFFFFFFC, isl := 1 },
  { off := 0x21, name := "FLD_EVQ_SIZE", cnt := 4, stride := 4, rw := 0x1F, isl := 1 },
  { off := 0x22, name := "FLD_EVQ_HEAD", cnt := 4, stride := 4, wo := 0x1FFFF, isl := 1 },
  { off := 0x23, name := "FLD_EVQ_TAIL", cnt := 4, stride := 4, isl := 1 },
  { off := 0x30, name := "FLD_EV_LOST", cnt := 4, isl := 1 },
  { off := 0x40, name := "FLD_TIE", cnt := 8, isl := 1 } ]

/-- The APT block map (spec/09 T9.6; spec/09 T9.7). -/
def regApt : List RegRow := [
  { off := 0x0, name := "APT_CTL", cnt := 256, stride := 8, ch := 0x3FFFF, reset := 25683, isl := 1 },
  { off := 0x1, name := "APT_ADJ", cnt := 256, stride := 8, ch := 0xFFFF, isl := 1 },
  { off := 0x2, name := "APT_CEILING", cnt := 256, stride := 8, ch := 0xFFFFFFFF, reset := 10000, isl := 1 },
  { off := 0x3, name := "APT_THR", cnt := 256, stride := 8, ch := 0xFFFFFF, reset := 131120, isl := 1 },
  { off := 0x4, name := "APT_LINGER", cnt := 256, stride := 8, ch := 0xFFFFFFFF, reset := 20000, isl := 1 },
  { off := 0x5, name := "APT_STATUS", cnt := 256, stride := 8, isl := 1 },
  { off := 0x6, name := "APT_BASE", cnt := 256, stride := 8, isl := 1 },
  { off := 0x7, name := "APT_CLEAR", cnt := 256, stride := 8, wo := 0x1, isl := 1 } ]

/-- The PNG block map (spec/09 PNG). -/
def regPng : List RegRow := [
  { off := 0x0, name := "PNG_PERIOD", cnt := 16, stride := 4, ch := 0xFFFF, reset := 1600, isl := 1 },
  { off := 0x1, name := "PNG_PHASE", cnt := 16, stride := 4, ch := 0xFFFF, isl := 1 },
  { off := 0x2, name := "PNG_SHIFT", cnt := 16, stride := 4, ch := 0xF, reset := 4, isl := 1 },
  { off := 0x3, name := "PNG_STATUS", cnt := 16, stride := 4, isl := 1 } ]

/-- The CHN block map (spec/09 CHN; spec/10 T10.2; spec/10 T10.9). -/
def regChn : List RegRow := [
  { off := 0x0, name := "CHN_FRAME_BUDGET", cnt := 32, stride := 16, ch := 0xF, reset := 2, isl := 1 },
  { off := 0x1, name := "CHN_STATUS", cnt := 32, stride := 16, isl := 1 },
  { off := 0x2, name := "CHN_GRANTS", cnt := 32, stride := 16, isl := 1 },
  { off := 0x3, name := "CHN_MISMATCHES", cnt := 32, stride := 16, isl := 1 },
  { off := 0x4, name := "CHN_FWD", cnt := 32, stride := 16, isl := 1 },
  { off := 0x5, name := "CHN_REFL", cnt := 32, stride := 16, isl := 1 },
  { off := 0x8, name := "CHN_FQ_TAIL", cnt := 32, stride := 16, wo := 0x1FFFF, isl := 1 },
  { off := 0x9, name := "CHN_FQ_HEAD", cnt := 32, stride := 16, isl := 1 },
  { off := 0xA, name := "CHN_EMU_CTL", cnt := 32, stride := 16, rw := 0x1FFF, reset := 587, isl := 1 },
  { off := 0xB, name := "CHN_EMU_STATUS", cnt := 32, stride := 16, isl := 1 },
  { off := 0xC, name := "CHN_WTX_COUNT", cnt := 32, stride := 16, isl := 1 },
  { off := 0xD, name := "CHN_AIR_FRAMES", cnt := 32, stride := 16, isl := 1 },
  { off := 0xE, name := "CHN_AIR_ERRORS", cnt := 32, stride := 16, isl := 1 },
  { off := 0x400, name := "CHN_ENTRY_HDR", cnt := 2048, rw := 0xFFFFFFFFF, isl := 1 },
  { off := 0x8000, name := "CHN_ENTRY_DATA", cnt := 32768, rw := 0xFFFFFFFFF, isl := 1 } ]

/-- The TAG block map (spec/10 T10.10). -/
def regTag : List RegRow := [
  { off := 0x0, name := "TAG_ID", isl := 1 },
  { off := 0x1, name := "TAG_STATE", isl := 1 },
  { off := 0x2, name := "TAG_AUTH_SLOT", ch := 0x7FFF, isl := 1 },
  { off := 0x3, name := "TAG_CL_OPS", isl := 1 },
  { off := 0x4, name := "TAG_CL_AUTH_FAILS", isl := 1 },
  { off := 0x8, name := "TAG_LOCK", cnt := 4, isl := 1 },
  { off := 0xC, name := "TAG_WRIGHTS", cnt := 4, ch := 0xFFFFFFFF, isl := 1 },
  { off := 0x10, name := "TAG_CRIGHTS", ch := 0xFFFF, isl := 1 },
  { off := 0x18, name := "TAG_CMD", wo := 0x3FFFF, isl := 1 },
  { off := 0x19, name := "TAG_DATA", cnt := 4, rw := 0xFFFFFFFFF, pm := true, isl := 1 },
  { off := 0x1D, name := "TAG_RESULT", isl := 1 } ]

/-- The map of a block, by block index (register word address bits 23:16). -/
def blockMap (b : Nat) : List RegRow :=
  match b with
  | 0x0 => regRst
  | 0x1 => regClk
  | 0x2 => regPwr
  | 0x3 => regPas
  | 0x4 => regChm
  | 0x5 => regLcs
  | 0x6 => regTmp
  | 0x7 => regMpu
  | 0x8 => regMbx
  | 0x9 => regLkg
  | 0xA => regWhf
  | 0xB => regCln
  | 0xC => regHsh
  | 0xD => regKsl
  | 0xE => regGrd
  | 0xF => regHop
  | 0x10 => regCrg
  | 0x11 => regBsn
  | 0x12 => regIls
  | 0x13 => regFls
  | 0x14 => regSdh
  | 0x15 => regOfc
  | 0x16 => regDbg
  | 0x17 => regRpl
  | 0x18 => regPmu
  | 0x20 => regFld
  | 0x21 => regApt
  | 0x22 => regPng
  | 0x23 => regChn
  | 0x24 => regTag
  | _ => []

/-! ### Word addresses (bits 23:0) of the registers, an array by its first word -/

abbrev Reg.RST_ID : Nat := 0x000000
abbrev Reg.RST_LAST : Nat := 0x000001
abbrev Reg.RST_LAST_PASS_LO : Nat := 0x000002
abbrev Reg.RST_LAST_PASS_HI : Nat := 0x000003
abbrev Reg.RST_MAP_LO : Nat := 0x000004
abbrev Reg.RST_MAP_HI : Nat := 0x000005
abbrev Reg.RST_GAP : Nat := 0x000006
abbrev Reg.RST_CMD : Nat := 0x000010
abbrev Reg.RST_GO : Nat := 0x000011
abbrev Reg.RST_SEQ : Nat := 0x000012
abbrev Reg.RST_CORE_GO : Nat := 0x000013
abbrev Reg.RST_FUSE_PROG : Nat := 0x000014
abbrev Reg.RST_WDG_CTL : Nat := 0x000020
abbrev Reg.RST_WDG_KICK : Nat := 0x000021
abbrev Reg.RST_WDG_REMAIN : Nat := 0x000022
abbrev Reg.RST_STOP : Nat := 0x000050
abbrev Reg.RST_STOP_CLR : Nat := 0x000060
abbrev Reg.RST_HENTRY : Nat := 0x000068
abbrev Reg.CLK_ID : Nat := 0x010000
abbrev Reg.CLK_LOCK : Nat := 0x010001
abbrev Reg.CLK_MEAS : Nat := 0x010010
abbrev Reg.PWR_ID : Nat := 0x020000
abbrev Reg.PWR_STATUS : Nat := 0x020001
abbrev Reg.PWR_VIN : Nat := 0x020002
abbrev Reg.PWR_KEEP : Nat := 0x020003
abbrev Reg.PWR_TEMP : Nat := 0x020004
abbrev Reg.PWR_MONC_SEL : Nat := 0x020010
abbrev Reg.PWR_MONC_LO : Nat := 0x020011
abbrev Reg.PWR_MONC_HI : Nat := 0x020012
abbrev Reg.PWR_MONC_INC : Nat := 0x020013
abbrev Reg.PWR_RTC_S : Nat := 0x020014
abbrev Reg.PWR_RTC_SUB : Nat := 0x020015
abbrev Reg.PAS_COUNT_LO : Nat := 0x030000
abbrev Reg.PAS_COUNT_HI : Nat := 0x030001
abbrev Reg.PAS_CYCLE : Nat := 0x030002
abbrev Reg.PAS_RQ_KMIN : Nat := 0x030003
abbrev Reg.PAS_OVERRUN : Nat := 0x030004
abbrev Reg.PAS_PART_REQ : Nat := 0x030008
abbrev Reg.PAS_PART_RESULT : Nat := 0x030009
abbrev Reg.PAS_PART_STATE : Nat := 0x030040
abbrev Reg.CHM_CMD : Nat := 0x040000
abbrev Reg.CHM_STATE : Nat := 0x040001
abbrev Reg.CHM_OWNER : Nat := 0x040002
abbrev Reg.CHM_COUNT : Nat := 0x040003
abbrev Reg.CHM_SEQ_LO : Nat := 0x040004
abbrev Reg.CHM_SEQ_HI : Nat := 0x040005
abbrev Reg.CHM_OPEN_AT_LO : Nat := 0x040006
abbrev Reg.CHM_OPEN_AT_HI : Nat := 0x040007
abbrev Reg.CHM_ERR : Nat := 0x040008
abbrev Reg.CHM_APPROVALS : Nat := 0x040009
abbrev Reg.CHM_APPROVAL_LIFE : Nat := 0x04000A
abbrev Reg.CHM_PEEK_ADDR : Nat := 0x04000B
abbrev Reg.CHM_PEEK_DATA : Nat := 0x04000C
abbrev Reg.CHM_DIGEST : Nat := 0x040010
abbrev Reg.CHM_NONCE : Nat := 0x040020
abbrev Reg.LCS_ID : Nat := 0x050000
abbrev Reg.LCS_STATE : Nat := 0x050001
abbrev Reg.LCS_PROGRESS : Nat := 0x050002
abbrev Reg.LCS_REQUEST : Nat := 0x050003
abbrev Reg.LCS_DEVID : Nat := 0x050004
abbrev Reg.LCS_CMD : Nat := 0x050008
abbrev Reg.LCS_ARG : Nat := 0x050009
abbrev Reg.LCS_CMD_RESULT : Nat := 0x05000C
abbrev Reg.LCS_BOOT : Nat := 0x05000D
abbrev Reg.LCS_BOOT_GEN : Nat := 0x05000E
abbrev Reg.LCS_DAK_PUB : Nat := 0x050010
abbrev Reg.LCS_CHAL : Nat := 0x050028
abbrev Reg.TMP_ID : Nat := 0x060000
abbrev Reg.TMP_STATE : Nat := 0x060001
abbrev Reg.TMP_HOLD_COUNT_LO : Nat := 0x060002
abbrev Reg.TMP_HOLD_COUNT_HI : Nat := 0x060003
abbrev Reg.TMP_KEEP_EPOCH : Nat := 0x060004
abbrev Reg.TMP_LOG_COUNT : Nat := 0x060005
abbrev Reg.TMP_LOG_SEL : Nat := 0x060006
abbrev Reg.TMP_LOG : Nat := 0x060008
abbrev Reg.TMP_HOST_VEC : Nat := 0x06000E
abbrev Reg.TMP_INT_CORES : Nat := 0x06000F
abbrev Reg.TMP_SRC_CTL : Nat := 0x060040
abbrev Reg.TMP_SRC_STATUS : Nat := 0x060080
abbrev Reg.MPU_ID : Nat := 0x070000
abbrev Reg.MPU_HWIN_BASE_LO : Nat := 0x070001
abbrev Reg.MPU_HWIN_BASE_HI : Nat := 0x070002
abbrev Reg.MPU_HWIN_ERR : Nat := 0x070003
abbrev Reg.MPU_WCC_COUNT : Nat := 0x070008
abbrev Reg.MPU_WCC_LAST_ADDR : Nat := 0x070010
abbrev Reg.MPU_WCC_LAST_INFO : Nat := 0x070011
abbrev Reg.MBX_ID : Nat := 0x080000
abbrev Reg.MBX_DENIED : Nat := 0x080001
abbrev Reg.MBX_OUT : Nat := 0x080010
abbrev Reg.MBX_SEND : Nat := 0x080020
abbrev Reg.MBX_ACK : Nat := 0x080021
abbrev Reg.MBX_BIND : Nat := 0x080100
abbrev Reg.MBX_TIMEOUT : Nat := 0x080101
abbrev Reg.MBX_PAGE_LO : Nat := 0x080102
abbrev Reg.MBX_PAGE_HI : Nat := 0x080103
abbrev Reg.MBX_CH_STATUS : Nat := 0x080410
abbrev Reg.MBX_CH_RESULT : Nat := 0x080411
abbrev Reg.LKG_ID : Nat := 0x090000
abbrev Reg.LKG_STATE : Nat := 0x090001
abbrev Reg.LKG_BUDGET : Nat := 0x090004
abbrev Reg.LKG_ROUTE : Nat := 0x090008
abbrev Reg.LKG_INTEG_FAIL : Nat := 0x09000C
abbrev Reg.LKG_STALLS : Nat := 0x090010
abbrev Reg.LKG_LOST : Nat := 0x090011
abbrev Reg.LKG_TX_REFUSED : Nat := 0x090012
abbrev Reg.LKG_RXQ_BASE : Nat := 0x090040
abbrev Reg.LKG_RXQ_SIZE : Nat := 0x090041
abbrev Reg.LKG_RXQ_HEAD : Nat := 0x090042
abbrev Reg.LKG_RXQ_TAIL : Nat := 0x090043
abbrev Reg.LKG_TXQ_BASE : Nat := 0x090080
abbrev Reg.LKG_TXQ_SIZE : Nat := 0x090081
abbrev Reg.LKG_TXQ_TAIL : Nat := 0x090082
abbrev Reg.LKG_TXQ_HEAD : Nat := 0x090083
abbrev Reg.WHF_ID : Nat := 0x0A0000
abbrev Reg.WHF_INFLIGHT : Nat := 0x0A0001
abbrev Reg.WHF_BACKPRESSURE : Nat := 0x0A0002
abbrev Reg.WHF_LATE_DISCARDS : Nat := 0x0A0003
abbrev Reg.WHF_DBERR_COUNT : Nat := 0x0A0004
abbrev Reg.WHF_CLASS_BUDGET : Nat := 0x0A0008
abbrev Reg.WHF_FN_CAP : Nat := 0x0A0040
abbrev Reg.WHF_FN_VEC : Nat := 0x0A0080
abbrev Reg.WHF_SQ_BASE_LO : Nat := 0x0A2000
abbrev Reg.WHF_SQ_BASE_HI : Nat := 0x0A2001
abbrev Reg.WHF_CQ_BASE_LO : Nat := 0x0A2002
abbrev Reg.WHF_CQ_BASE_HI : Nat := 0x0A2003
abbrev Reg.WHF_RING_SIZE : Nat := 0x0A2004
abbrev Reg.WHF_RING_ASSIGN : Nat := 0x0A2005
abbrev Reg.WHF_RING_INT : Nat := 0x0A2006
abbrev Reg.WHF_RING_STATUS : Nat := 0x0A2007
abbrev Reg.CLN_INLINE_WINDOW : Nat := 0x0B0000
abbrev Reg.CLN_INLINE_HEADROOM : Nat := 0x0B0001
abbrev Reg.CLN_FWQ_BASE : Nat := 0x0B0040
abbrev Reg.CLN_FWQ_SIZE : Nat := 0x0B0041
abbrev Reg.CLN_FWQ_TAIL : Nat := 0x0B0042
abbrev Reg.CLN_FWQ_HEAD : Nat := 0x0B0043
abbrev Reg.CLN_BUDGET_WHARF : Nat := 0x0B0100
abbrev Reg.CLN_BUDGET_FW : Nat := 0x0B0101
abbrev Reg.CLN_BUDGET_FIELD : Nat := 0x0B0102
abbrev Reg.CLN_INLINE_MAX : Nat := 0x0B0103
abbrev Reg.CLN_FALLBACK : Nat := 0x0B0104
abbrev Reg.CLN_INLINE_PEAK : Nat := 0x0B0105
abbrev Reg.CLN_ALLOW : Nat := 0x0B0106
abbrev Reg.CLN_CHAINED : Nat := 0x0B0107
abbrev Reg.CLN_OPS : Nat := 0x0B0108
abbrev Reg.CLN_UNTRUSTED : Nat := 0x0B0109
abbrev Reg.CLN_LATE : Nat := 0x0B010A
abbrev Reg.CLN_INLINE_HELD : Nat := 0x0B010B
abbrev Reg.HSH_BUDGET_WHARF : Nat := 0x0C0000
abbrev Reg.HSH_BUDGET_FW : Nat := 0x0C0001
abbrev Reg.HSH_BUDGET_FIELD : Nat := 0x0C0002
abbrev Reg.HSH_COMMITTED0 : Nat := 0x0C0003
abbrev Reg.HSH_COMMITTED1 : Nat := 0x0C0004
abbrev Reg.HSH_COMMITTED2 : Nat := 0x0C0005
abbrev Reg.HSH_COMMITTED3 : Nat := 0x0C0006
abbrev Reg.HSH_OPS : Nat := 0x0C0007
abbrev Reg.KSL_FREE : Nat := 0x0D0000
abbrev Reg.KSL_EXT_FREE : Nat := 0x0D0001
abbrev Reg.KSL_GCM_CAP : Nat := 0x0D0002
abbrev Reg.KSL_EXHAUST_LAST : Nat := 0x0D0003
abbrev Reg.KSL_CMD_DROPS : Nat := 0x0D0004
abbrev Reg.KSL_SEL : Nat := 0x0D0008
abbrev Reg.KSL_VIEW_EXPIRY_LO : Nat := 0x0D0009
abbrev Reg.KSL_VIEW_EXPIRY_HI : Nat := 0x0D000A
abbrev Reg.KSL_VIEW_COUNT_LO : Nat := 0x0D000B
abbrev Reg.KSL_VIEW_COUNT_HI : Nat := 0x0D000C
abbrev Reg.KSL_VIEW_LIMIT_LO : Nat := 0x0D000D
abbrev Reg.KSL_VIEW_LIMIT_HI : Nat := 0x0D000E
abbrev Reg.KSL_CMD : Nat := 0x0D0010
abbrev Reg.KSL_ARG : Nat := 0x0D0011
abbrev Reg.KSL_CMD_RESULT : Nat := 0x0D0016
abbrev Reg.KSL_SLOT_ATTR : Nat := 0x0D8000
abbrev Reg.KSL_SLOT_LEFT : Nat := 0x0D8001
abbrev Reg.GRD_ID : Nat := 0x0E0000
abbrev Reg.GRD_BUDGET_WHARF : Nat := 0x0E0001
abbrev Reg.GRD_BUDGET_FW : Nat := 0x0E0002
abbrev Reg.GRD_BUDGET_K : Nat := 0x0E0003
abbrev Reg.GRD_EXPRESS_ALLOW : Nat := 0x0E0004
abbrev Reg.GRD_MIN_VERSION : Nat := 0x0E0005
abbrev Reg.GRD_LATE : Nat := 0x0E0006
abbrev Reg.GRD_PREEMPTS : Nat := 0x0E0007
abbrev Reg.GRD_CMD : Nat := 0x0E0010
abbrev Reg.GRD_ARG : Nat := 0x0E0011
abbrev Reg.GRD_CMD_RESULT : Nat := 0x0E0015
abbrev Reg.GRD_FWQ_BASE : Nat := 0x0E0040
abbrev Reg.GRD_FWQ_SIZE : Nat := 0x0E0041
abbrev Reg.GRD_FWQ_TAIL : Nat := 0x0E0042
abbrev Reg.GRD_FWQ_CANCEL : Nat := 0x0E0043
abbrev Reg.GRD_FWQ_HEAD : Nat := 0x0E0064
abbrev Reg.GRD_UNIT_CTL : Nat := 0x0E0100
abbrev Reg.GRD_UNIT_STATUS : Nat := 0x0E0101
abbrev Reg.GRD_UNIT_IMAGE : Nat := 0x0E0102
abbrev Reg.GRD_UNIT_JOBS : Nat := 0x0E0103
abbrev Reg.GRD_UNIT_REFUSED : Nat := 0x0E0104
abbrev Reg.GRD_CURVE_STATE : Nat := 0x0E0200
abbrev Reg.HOP_ID : Nat := 0x0F0000
abbrev Reg.HOP_STATE : Nat := 0x0F0001
abbrev Reg.HOP_SRC_STATE : Nat := 0x0F0002
abbrev Reg.HOP_RCT_CUTOFF : Nat := 0x0F0003
abbrev Reg.HOP_APT_CUTOFF : Nat := 0x0F0004
abbrev Reg.HOP_RESEED_INT : Nat := 0x0F0005
abbrev Reg.HOP_IV_BUDGET : Nat := 0x0F0006
abbrev Reg.HOP_RETEST : Nat := 0x0F0007
abbrev Reg.HOP_RAW_CTL : Nat := 0x0F0008
abbrev Reg.HOP_RAW_DATA : Nat := 0x0F0009
abbrev Reg.HOP_SW_DRAW : Nat := 0x0F000A
abbrev Reg.HOP_SW_SHORT : Nat := 0x0F000B
abbrev Reg.HOP_HW_BLOCKS : Nat := 0x0F000C
abbrev Reg.HOP_SW_FILL : Nat := 0x0F0010
abbrev Reg.HOP_FAIL_COUNT : Nat := 0x0F0020
abbrev Reg.CRG_ID : Nat := 0x100000
abbrev Reg.CRG_STATE : Nat := 0x100001
abbrev Reg.CRG_COUNT : Nat := 0x100002
abbrev Reg.CRG_STASH : Nat := 0x100003
abbrev Reg.CRG_PENDING : Nat := 0x100004
abbrev Reg.CRG_EPOCH_LO : Nat := 0x100005
abbrev Reg.CRG_EPOCH_HI : Nat := 0x100006
abbrev Reg.CRG_KEY_SLOT : Nat := 0x100007
abbrev Reg.CRG_BUDGET_WHARF : Nat := 0x100008
abbrev Reg.CRG_BUDGET_FIELD : Nat := 0x100009
abbrev Reg.CRG_PREP_BUDGET : Nat := 0x10000A
abbrev Reg.CRG_COMMIT_RESULT : Nat := 0x10000B
abbrev Reg.CRG_COMMIT_SKIPS : Nat := 0x10000C
abbrev Reg.CRG_LOOKUPS : Nat := 0x10000D
abbrev Reg.CRG_CMD : Nat := 0x100010
abbrev Reg.CRG_ARG : Nat := 0x100011
abbrev Reg.CRG_CMD_RESULT : Nat := 0x100014
abbrev Reg.BSN_SELF : Nat := 0x110000
abbrev Reg.BSN_COUNT : Nat := 0x110001
abbrev Reg.BSN_SITE_OFFSET_LO : Nat := 0x110002
abbrev Reg.BSN_SITE_OFFSET_HI : Nat := 0x110003
abbrev Reg.BSN_SITE_NOW_LO : Nat := 0x110004
abbrev Reg.BSN_SITE_NOW_HI : Nat := 0x110005
abbrev Reg.BSN_ENV_MAX_AGE : Nat := 0x110006
abbrev Reg.BSN_KEK_EPOCH : Nat := 0x110007
abbrev Reg.BSN_KEK_STATE : Nat := 0x110008
abbrev Reg.BSN_NEXT_AT_LO : Nat := 0x110009
abbrev Reg.BSN_NEXT_AT_HI : Nat := 0x11000A
abbrev Reg.BSN_ENROL : Nat := 0x11000B
abbrev Reg.BSN_ENROL_RESULT : Nat := 0x11000C
abbrev Reg.BSN_ROTATE : Nat := 0x11000D
abbrev Reg.BSN_ROTATE_AT_LO : Nat := 0x11000E
abbrev Reg.BSN_ROTATE_AT_HI : Nat := 0x11000F
abbrev Reg.BSN_SEAL_SEQ_LO : Nat := 0x110010
abbrev Reg.BSN_SEAL_SEQ_HI : Nat := 0x110011
abbrev Reg.BSN_REJECTS : Nat := 0x110012
abbrev Reg.BSN_ENV_OPS : Nat := 0x110013
abbrev Reg.BSN_MEMBER : Nat := 0x110100
abbrev Reg.ILS_ID : Nat := 0x120000
abbrev Reg.ILS_EVENT : Nat := 0x120001
abbrev Reg.ILS_EVENT_SA : Nat := 0x120002
abbrev Reg.ILS_HOST_VEC : Nat := 0x120003
abbrev Reg.ILS_CMD : Nat := 0x120004
abbrev Reg.ILS_ARG : Nat := 0x120005
abbrev Reg.ILS_CMD_RESULT : Nat := 0x120009
abbrev Reg.ILS_CNT_SEL : Nat := 0x12000A
abbrev Reg.ILS_CNT_LO : Nat := 0x12000B
abbrev Reg.ILS_CNT_HI : Nat := 0x12000C
abbrev Reg.ILS_LINK_CTL : Nat := 0x120100
abbrev Reg.ILS_LINK_TX_SCI_LO : Nat := 0x120101
abbrev Reg.ILS_LINK_TX_SCI_HI : Nat := 0x120102
abbrev Reg.ILS_LINK_PEER_SCI_LO : Nat := 0x120103
abbrev Reg.ILS_LINK_PEER_SCI_HI : Nat := 0x120104
abbrev Reg.ILS_LINK_TX_SA : Nat := 0x120105
abbrev Reg.ILS_LINK_PN_WARN_LO : Nat := 0x120106
abbrev Reg.ILS_LINK_PN_WARN_HI : Nat := 0x120107
abbrev Reg.ILS_LINK_LANE : Nat := 0x120108
abbrev Reg.ILS_LINK_STATUS : Nat := 0x120109
abbrev Reg.ILS_UQ_RX_BASE : Nat := 0x12010A
abbrev Reg.ILS_UQ_RX_SIZE : Nat := 0x12010B
abbrev Reg.ILS_UQ_RX_HEAD : Nat := 0x12010C
abbrev Reg.ILS_UQ_RX_TAIL : Nat := 0x12010D
abbrev Reg.ILS_UQ_TX_BASE : Nat := 0x12010E
abbrev Reg.ILS_UQ_TX_SIZE : Nat := 0x12010F
abbrev Reg.ILS_UQ_TX_TAIL : Nat := 0x120110
abbrev Reg.ILS_UQ_TX_HEAD : Nat := 0x120111
abbrev Reg.ILS_SA_NEXT_HI : Nat := 0x121000
abbrev Reg.ILS_SA_SSCI : Nat := 0x122000
abbrev Reg.ILS_SA_WINDOW : Nat := 0x122001
abbrev Reg.ILS_SA_STATE : Nat := 0x124000
abbrev Reg.ILS_SA_PN_LO : Nat := 0x124001
abbrev Reg.ILS_SA_PN_HI : Nat := 0x124002
abbrev Reg.ILS_SA_NEXT_LO : Nat := 0x124003
abbrev Reg.ILS_SA_CTL : Nat := 0x128000
abbrev Reg.ILS_SA_SCI_LO : Nat := 0x128001
abbrev Reg.ILS_SA_SCI_HI : Nat := 0x128002
abbrev Reg.ILS_SA_SETPN_LO : Nat := 0x128003
abbrev Reg.ILS_SA_SETPN_HI : Nat := 0x128004
abbrev Reg.ILS_SA_SALT0 : Nat := 0x128005
abbrev Reg.ILS_SA_SALT1 : Nat := 0x128006
abbrev Reg.ILS_SA_SALT2 : Nat := 0x128007
abbrev Reg.FLS_ID : Nat := 0x130000
abbrev Reg.FLS_XIP_CTL : Nat := 0x130001
abbrev Reg.FLS_PLANE_STATE : Nat := 0x130002
abbrev Reg.FLS_ERASE_REDO : Nat := 0x130003
abbrev Reg.FLS_ECC_FAIL : Nat := 0x130004
abbrev Reg.FLS_CORRECTED : Nat := 0x130005
abbrev Reg.FLS_CMD : Nat := 0x130008
abbrev Reg.FLS_ARG : Nat := 0x130009
abbrev Reg.FLS_CMD_RESULT : Nat := 0x13000D
abbrev Reg.FLS_SEL : Nat := 0x130010
abbrev Reg.FLS_BLOCK_INFO : Nat := 0x130011
abbrev Reg.FLS_PAIR : Nat := 0x130012
abbrev Reg.FLS_COMMIT_A : Nat := 0x130013
abbrev Reg.FLS_COMMIT_B : Nat := 0x130014
abbrev Reg.FLS_RECORD : Nat := 0x130015
abbrev Reg.SDH_ID : Nat := 0x140000
abbrev Reg.SDH_CTL : Nat := 0x140001
abbrev Reg.SDH_AUDIT_SLOT : Nat := 0x140002
abbrev Reg.SDH_APPEND_BUDGET : Nat := 0x140003
abbrev Reg.SDH_STATE : Nat := 0x140004
abbrev Reg.SDH_HEAD_SEQ_LO : Nat := 0x140005
abbrev Reg.SDH_HEAD_SEQ_HI : Nat := 0x140006
abbrev Reg.SDH_WRITTEN_SEQ_LO : Nat := 0x140007
abbrev Reg.SDH_WRITTEN_SEQ_HI : Nat := 0x140008
abbrev Reg.SDH_CMD : Nat := 0x140010
abbrev Reg.SDH_ARG : Nat := 0x140011
abbrev Reg.SDH_CMD_RESULT : Nat := 0x140015
abbrev Reg.SDH_CMD_SEQ_LO : Nat := 0x140016
abbrev Reg.SDH_CMD_SEQ_HI : Nat := 0x140017
abbrev Reg.SDH_SLOT_STATUS : Nat := 0x140020
abbrev Reg.SDH_SLOT_BLOCKS : Nat := 0x140021
abbrev Reg.SDH_SLOT_NEXT : Nat := 0x140022
abbrev Reg.SDH_SLOT_SPENT : Nat := 0x140023
abbrev Reg.SDH_SLOT_CID0 : Nat := 0x140024
abbrev Reg.SDH_SLOT_CID1 : Nat := 0x140025
abbrev Reg.SDH_SLOT_CID2 : Nat := 0x140026
abbrev Reg.SDH_SLOT_CID3 : Nat := 0x140027
abbrev Reg.OFC_ID : Nat := 0x150000
abbrev Reg.OFC_CLK : Nat := 0x150001
abbrev Reg.OFC_SESSION_LIFE : Nat := 0x150002
abbrev Reg.OFC_ROSTER_COUNT : Nat := 0x150003
abbrev Reg.OFC_ROSTER_OP : Nat := 0x150004
abbrev Reg.OFC_ROSTER_RESULT : Nat := 0x150005
abbrev Reg.OFC_ROSTER_KEY : Nat := 0x150010
abbrev Reg.OFC_CMD : Nat := 0x150020
abbrev Reg.OFC_CMD_RESULT : Nat := 0x150021
abbrev Reg.OFC_IF_STATUS : Nat := 0x150030
abbrev Reg.OFC_IF_SESSION_END : Nat := 0x150031
abbrev Reg.OFC_IF_AUTH_FAILS : Nat := 0x150032
abbrev Reg.OFC_ROSTER_VIEW : Nat := 0x151000
abbrev Reg.DBG_STATUS : Nat := 0x160000
abbrev Reg.DBG_AUTH_FAILS : Nat := 0x160001
abbrev Reg.DBG_SESSIONS : Nat := 0x160002
abbrev Reg.DBG_ADDR : Nat := 0x160008
abbrev Reg.DBG_DATA : Nat := 0x160009
abbrev Reg.DBG_CORE : Nat := 0x16000A
abbrev Reg.RPL_ID : Nat := 0x170000
abbrev Reg.RPL_CTL : Nat := 0x170001
abbrev Reg.RPL_STATE : Nat := 0x170002
abbrev Reg.RPL_KEY_EPOCH : Nat := 0x170003
abbrev Reg.RPL_RSEQ_LO : Nat := 0x170004
abbrev Reg.RPL_RSEQ_HI : Nat := 0x170005
abbrev Reg.RPL_LOST : Nat := 0x170006
abbrev Reg.RPL_STAGE_BASE : Nat := 0x170007
abbrev Reg.RPL_STAGE_SIZE : Nat := 0x170008
abbrev Reg.RPL_RING_BASE_LO : Nat := 0x170009
abbrev Reg.RPL_RING_BASE_HI : Nat := 0x17000A
abbrev Reg.RPL_RING_SIZE : Nat := 0x17000B
abbrev Reg.RPL_RING_CTRL_LO : Nat := 0x17000C
abbrev Reg.RPL_RING_CTRL_HI : Nat := 0x17000D
abbrev Reg.RPL_HOST_VEC : Nat := 0x17000E
abbrev Reg.RPL_CARD_BUDGET : Nat := 0x17000F
abbrev Reg.RPL_MODE : Nat := 0x170010
abbrev Reg.RPL_REPLAY_CORES : Nat := 0x170011
abbrev Reg.RPL_REPLAY_PASS_LO : Nat := 0x170012
abbrev Reg.RPL_REPLAY_PASS_HI : Nat := 0x170013
abbrev Reg.RPL_DIV_INFO : Nat := 0x170014
abbrev Reg.RPL_DIV_PASS_LO : Nat := 0x170015
abbrev Reg.RPL_DIV_PASS_HI : Nat := 0x170016
abbrev Reg.RPL_DIV_PROGRESS_LO : Nat := 0x170017
abbrev Reg.RPL_DIV_PROGRESS_HI : Nat := 0x170018
abbrev Reg.RPL_REL_EPOCH : Nat := 0x170020
abbrev Reg.RPL_REL_BLOB : Nat := 0x170021
abbrev Reg.RPL_REL_DAK : Nat := 0x170040
abbrev Reg.RPL_REL_TOKEN : Nat := 0x170060
abbrev Reg.RPL_KEYTOK : Nat := 0x1700A0
abbrev Reg.PMU_ID : Nat := 0x180000
abbrev Reg.PMU_BW_WINDOW : Nat := 0x180001
abbrev Reg.PMU_BW_CLEAR : Nat := 0x180002
abbrev Reg.PMU_BW_LAST_LO : Nat := 0x180080
abbrev Reg.PMU_BW_LAST_HI : Nat := 0x180081
abbrev Reg.PMU_BW_MAX_LO : Nat := 0x180082
abbrev Reg.PMU_BW_MAX_HI : Nat := 0x180083
abbrev Reg.FLD_ID : Nat := 0x200000
abbrev Reg.FLD_STATE : Nat := 0x200001
abbrev Reg.FLD_POWER_CAP : Nat := 0x200002
abbrev Reg.FLD_POWER_NOW : Nat := 0x200003
abbrev Reg.FLD_REPORT : Nat := 0x200004
abbrev Reg.FLD_REQ : Nat := 0x200008
abbrev Reg.FLD_REQ_DROPS : Nat := 0x200009
abbrev Reg.FLD_FLIGHT_CTL : Nat := 0x200010
abbrev Reg.FLD_EVQ_BASE : Nat := 0x200020
abbrev Reg.FLD_EVQ_SIZE : Nat := 0x200021
abbrev Reg.FLD_EVQ_HEAD : Nat := 0x200022
abbrev Reg.FLD_EVQ_TAIL : Nat := 0x200023
abbrev Reg.FLD_EV_LOST : Nat := 0x200030
abbrev Reg.FLD_TIE : Nat := 0x200040
abbrev Reg.APT_CTL : Nat := 0x210000
abbrev Reg.APT_ADJ : Nat := 0x210001
abbrev Reg.APT_CEILING : Nat := 0x210002
abbrev Reg.APT_THR : Nat := 0x210003
abbrev Reg.APT_LINGER : Nat := 0x210004
abbrev Reg.APT_STATUS : Nat := 0x210005
abbrev Reg.APT_BASE : Nat := 0x210006
abbrev Reg.APT_CLEAR : Nat := 0x210007
abbrev Reg.PNG_PERIOD : Nat := 0x220000
abbrev Reg.PNG_PHASE : Nat := 0x220001
abbrev Reg.PNG_SHIFT : Nat := 0x220002
abbrev Reg.PNG_STATUS : Nat := 0x220003
abbrev Reg.CHN_FRAME_BUDGET : Nat := 0x230000
abbrev Reg.CHN_STATUS : Nat := 0x230001
abbrev Reg.CHN_GRANTS : Nat := 0x230002
abbrev Reg.CHN_MISMATCHES : Nat := 0x230003
abbrev Reg.CHN_FWD : Nat := 0x230004
abbrev Reg.CHN_REFL : Nat := 0x230005
abbrev Reg.CHN_FQ_TAIL : Nat := 0x230008
abbrev Reg.CHN_FQ_HEAD : Nat := 0x230009
abbrev Reg.CHN_EMU_CTL : Nat := 0x23000A
abbrev Reg.CHN_EMU_STATUS : Nat := 0x23000B
abbrev Reg.CHN_WTX_COUNT : Nat := 0x23000C
abbrev Reg.CHN_AIR_FRAMES : Nat := 0x23000D
abbrev Reg.CHN_AIR_ERRORS : Nat := 0x23000E
abbrev Reg.CHN_ENTRY_HDR : Nat := 0x230400
abbrev Reg.CHN_ENTRY_DATA : Nat := 0x238000
abbrev Reg.TAG_ID : Nat := 0x240000
abbrev Reg.TAG_STATE : Nat := 0x240001
abbrev Reg.TAG_AUTH_SLOT : Nat := 0x240002
abbrev Reg.TAG_CL_OPS : Nat := 0x240003
abbrev Reg.TAG_CL_AUTH_FAILS : Nat := 0x240004
abbrev Reg.TAG_LOCK : Nat := 0x240008
abbrev Reg.TAG_WRIGHTS : Nat := 0x24000C
abbrev Reg.TAG_CRIGHTS : Nat := 0x240010
abbrev Reg.TAG_CMD : Nat := 0x240018
abbrev Reg.TAG_DATA : Nat := 0x240019
abbrev Reg.TAG_RESULT : Nat := 0x24001D

/-- Does the row cover this offset of its block? -/
def RegRow.covers (r : RegRow) (off : Nat) : Bool :=
  decide (r.off ≤ off) && decide ((off - r.off) % r.stride = 0) && decide ((off - r.off) / r.stride < r.cnt)

/-- The row of a register word address, if its block maps the word. -/
def regRow (addr : Nat) : Option RegRow := (blockMap (addr >>> 16)).find? (fun r => r.covers (addr % 2 ^ 16))

/-- Index of a word in its row's array. -/
def RegRow.idx (r : RegRow) (addr : Nat) : Nat := (addr % 2 ^ 16 - r.off) / r.stride

/-- Bits that are writable through the chamber (CH and PS). -/
def RegRow.chm (r : RegRow) : Nat := r.ch ||| r.ps


end Sys2Proof.Machine
end

