-- ==== Sys2Proof/Machine/State.lean ====
section
/-! DEFINITION. The state of the device: plain data, holding every piece of state the manual names. -/

namespace Sys2Proof.Machine

/-! ### Chapter 2: passes, partitions, inputs, chamber -/

/-- Partition state of one unit of Table 2.10 (R56): 0 IN_SERVICE, 1 DRAINING, 2 MAINT, 3 FENCED; and its REASON. -/
structure Part where
  state : Nat := 0
  reason : Nat := 0
  deriving DecidableEq, Repr

/-- An accepted partition request that has not yet taken effect (R57, R59). `ready` is false while the CONFIG_PUSH barge that carries a
flight or chain request has not been accepted at the field end. -/
structure PartReq where
  kind : Nat
  idx : Nat
  action : Nat
  reason : Nat
  pass : Nat
  ready : Bool
  /-- Pass in which it became ready (that of its acceptance at the field end, for a flight or chain). -/
  readyAt : Nat := 0
  /-- Shown at step 4 of a host edge; the field island applies it at its own step 4 of that edge. -/
  shown : Bool := false
  deriving DecidableEq, Repr

/-- An admitted input waiting for, or shown at, a presentation (R43 to R46): the core that sees it, its class 1 to 5 and its key
within the class (R46), the pass it arrived in and its data. -/
structure Input where
  core : Nat
  cls : Nat
  key : Nat
  pass : Nat
  data : List Nat
  /-- Where device blocks wrote the input into the core's memory: start word and number of words (Table 19.1 MEMORY). -/
  mems : List (Nat × Nat) := []
  /-- The operation whose result it shows, which keeps its entry until then (R79). -/
  op : Option Nat := none
  deriving DecidableEq, Repr

/-- The pass count and what hangs on it. -/
structure Pas where
  count : Nat := 0
  /-- R31 shadows: HI word held for a master, keyed master × 2^24 + HI register address. -/
  shadow : Tab Nat := []
  parts : Tab Part := []
  reqs : List PartReq := []
  /-- PAS_PART_RESULT, by master. -/
  result : Tab Nat := []
  /-- Inputs that have arrived and are not yet presented, in arrival order. -/
  inq : List Input := []
  /-- Inputs presented at each core's last edge. -/
  seen : List Input := []
  /-- Reads recorded as admitted inputs in the current pass (R45): core, kind and value, oldest first. -/
  recorded : List (Nat × Nat × Nat) := []
  /-- PAS_PART_STATE of flights and chains as the host island shows them, and changes reported by CONFIG_ACK that show from the next edge: kind,
  index, state (R59). -/
  shown : Tab Part := []
  shownNext : List (Nat × Nat × Nat) := []
  /-- DRAINING units of the host island found with nothing in flight: they enter MAINT at the next edge (R57). -/
  drained : List (Nat × Nat) := []
  deriving DecidableEq, Repr

/-- Table 2.5: states of the chamber. -/
inductive ChmState where
  | empty | filling | levelling | levelled | scheduled
  deriving DecidableEq, Repr

/-- One chamber entry: the word, and whether it counts as containing a PS field (R484). -/
structure ChmEntry where
  val : Word
  prot : Bool
  deriving DecidableEq, Repr

/-- An approval in force: roster entry and the edge of its acceptance (R53). -/
structure Approval where
  roster : Nat
  at_ : Nat
  deriving DecidableEq, Repr

/-- An approval whose verification has ended with success and which waits for its acceptance edge: the operation that presented it
(none for an officer card interface, given instead), the roster entry, the sequence number and digest it names, and the pass of the verification. -/
structure PendingApproval where
  op : Option Nat
  iface : Option Nat
  roster : Nat
  seq : Nat
  digest : Octets
  pass : Nat := 0
  deriving DecidableEq, Repr

/-- The chamber (R47 to R54). -/
structure Chamber where
  state : ChmState := .empty
  owner : Nat := 0
  entries : Tab ChmEntry := []
  /-- More than 4,096 entries were written (CHM_ERR FULL at the level step). -/
  tooMany : Bool := false
  approvals : List Approval := []
  waiting : List PendingApproval := []
  /-- Target edge while SCHEDULED. -/
  target : Nat := 0
  /-- Pass in which LEVELLING began. -/
  levelAt : Nat := 0
  errCode : Nat := 0
  errRule : Nat := 0
  errEntry : Option Nat := none
  digest : Octets := []
  nonce : Octets := []
  /-- The level checks have passed and the field entries were pushed; the field end has acknowledged them (R289). -/
  pushed : Bool := false
  acked : Bool := false
  deriving DecidableEq, Repr

/-! ### Chapters 3 and 4: rings, operations in flight, key slots -/

/-- R63: ring states. -/
inductive RingState where
  | disabled | active | draining | stopped
  deriving DecidableEq, Repr

/-- One ring pair. Positions are index plus generation times the size (R69). -/
structure Ring where
  state : RingState := .disabled
  /-- A non-zero SIZE_LOG2 was written; the ring becomes ACTIVE at the next edge. -/
  enabling : Bool := false
  log2 : Nat := 0
  head : Nat := 0
  tail : Nat := 0
  /-- Tail positions named by submission doorbells, with the pass of arrival (R71). -/
  marks : List (Nat × Nat) := []
  /-- Completion write position. -/
  cq : Nat := 0
  /-- Completion head (position of the next completion the host has not consumed). -/
  cqHead : Nat := 0
  /-- Completion head named by a doorbell, in force at the next edge. -/
  cqNext : Option Nat := none
  /-- Binding epoch (R118). -/
  epoch : Nat := 0
  /-- Completions written and not signalled, and the pass of the oldest of them (R84). -/
  unsig : Nat := 0
  unsigAt : Nat := 0
  /-- A DRAINING or STOPPED ring found with nothing in flight: it is DISABLED at the next edge (R63). -/
  drained : Bool := false
  deriving DecidableEq, Repr

/-- Attributes and material of a key slot (Table 4.2). `state`: 0 EMPTY, 1 LOADED, 2 EXHAUSTED, 3 EXPIRED. -/
structure Slot where
  state : Nat := 0
  alg : Nat := 0
  bits : Nat := 0
  usage : Nat := 0
  owner : Nat := 0
  source : Nat := 0
  count : Nat := 0
  limit : Nat := 0
  expiry : Nat := 0
  exhaust : Nat := 0
  material : Octets := []
  /-- The operation that has reserved the slot (R102). -/
  resv : Option Nat := none
  deriving DecidableEq, Repr

/-- Where an operation came from. -/
inductive OpSrc where
  /-- A host ring and the descriptor's position. -/
  | ring (r pos : Nat)
  /-- A cipher and hash firmware queue (0 to 7 for H0 to H7, 8 for K). -/
  | fwq (q pos : Nat)
  /-- A Grinder firmware queue. -/
  | gq (q pos : Nat)
  /-- A barge from the field island: sending core, request reference, TYPE. -/
  | barge (core ref type : Nat)
  /-- A command register: block index and issuing master. -/
  | cmd (blk master : Nat)
  /-- A signature check that K puts in its own Grinder queue for an officer interface (R428). -/
  | ofc (iface : Nat)
  deriving DecidableEq, Repr

/-- Life of an operation in flight (R79). -/
inductive Phase where
  /-- Fetched, its input not yet all staged. -/
  | fetched
  /-- Ready to be offered for admission. -/
  | staged
  /-- Admitted to its unit. -/
  | admitted
  /-- Computed, its result held for release (R40). -/
  | held
  /-- Ended: its completion is owed from pass `dueAt` on. -/
  | ended
  /-- Its result is queued as an admitted input; the entry is freed at the presentation. -/
  | posted
  deriving DecidableEq, Repr

/-- One operation in flight: one context SRAM entry (R79). -/
structure Op where
  id : Nat
  src : OpSrc
  /-- Requesting context: 0x40 + f, 0x10, 0x01, or 0xC0 for a field barge. -/
  ctx : Nat
  /-- Privilege level at which a firmware queue's TAIL was written (R350). -/
  pl : Nat := 0
  /-- The 64-octet descriptor, or the request's words as octets. -/
  desc : Octets
  phase : Phase := .fetched
  /-- First pass at whose edge it may be admitted (R71). -/
  eligAt : Nat := 0
  input : Octets := []
  /-- Status of a failed input read (R88). -/
  failed : Option (Nat × Nat) := none
  unit : Option (Nat × Nat) := none
  epoch : Nat := 0
  admitAt : Nat := 0
  bound : Nat := 1
  /-- Parts still to be charged at later edges (R65, R113). -/
  parts : Nat := 0
  /-- The key it was admitted under (R99). -/
  key : Option Slot := none
  /-- A key slot it reserves, and whether it reserves an extension record with it. -/
  slot : Option Nat := none
  ext : Bool := false
  status : Nat := 0
  sub : Nat := 0
  resLen : Nat := 0
  result : Nat := 0
  quant : Bool := false
  /-- Release edge of a held result; first pass in which an ended operation's completion may be written. -/
  dueAt : Nat := 0
  /-- Output octets still to be written, by address. -/
  outs : List (Nat × Octets) := []
  /-- Numbers an engine keeps for the operation. -/
  aux : List Nat := []
  /-- Octets of the hardware generator drawn for a Grinder job so far (R171). -/
  rnd : Octets := []
  /-- Its function was reset after its admission: it runs to its end and its result is wiped (R86). -/
  dead : Bool := false
  /-- A check code failure met by the words it reads or writes (R359). -/
  wcc : Option WccAt := none
  deriving DecidableEq, Repr

/-- One function's MSI-X table: control enable and function mask, entries (address, data, masked), pending bits, and the messages
sent so far by vector. -/
structure Msix where
  enable : Bool := false
  fmask : Bool := false
  addr : Tab Nat := []
  data : Tab Nat := []
  /-- Entries whose mask bit is clear. -/
  open_ : Tab Bool := []
  pba : Tab Bool := []
  deriving DecidableEq, Repr

/-- One function's PCIe controls (Table 3.1): codes of Max Payload Size and Max Read Request Size (128 octets shifted by the code), ECRC generation
and checking enabled, and the AER status bits logged, by bit number of the uncorrectable error status. -/
structure PcieFn where
  maxPayload : Nat := 0
  maxRead : Nat := 2
  ecrcGen : Bool := false
  ecrcCheck : Bool := false
  aer : List Nat := []
  deriving DecidableEq, Repr

/-! ### The keep domain, life cycle, key ladder -/

/-- The keep domain (R16): monotonic counters of 48 bits by number, and the HOLD latch. -/
structure Keep where
  monc : Tab Nat := []
  hold : Bool := false
  /-- The life-cycle progress shadow: FROM, TO, STEP (R387). -/
  shadow : Nat × Nat × Nat := (0, 0, 0)
  /-- RST_LAST and RST_LAST_PASS. -/
  rstLast : Nat := 0
  rstPass : Nat := 0
  deriving DecidableEq, Repr

/-- The one-time-programmable rows (Tables 16.2, 16.3): code words LC0 to LC2; whether DEVICE_ID is written; ROOT_A and ROOT_B with a
mark for a row that failed; OWNER_KEY_HASH, OWNER_KEK_WRAP; LK_SVN. KEEP_EPOCH is `Tamper.epoch`. -/
structure Otp where
  lc : List Nat := [0, 0, 0]
  id : Bool := false
  /-- The ROOT rows: secret and check code, nothing blown while both are empty (Table 16.3); the rows that K has abandoned (R387). -/
  rootA : Octets := []
  crcA : Nat := 0
  rootB : Octets := []
  crcB : Nat := 0
  badA : Bool := false
  badB : Bool := false
  ownerHash : Octets := []
  ownerWrap : Octets := []
  svn : Nat := 0
  deriving DecidableEq, Repr

/-- Life cycle and the key ladder (R101). -/
structure Life where
  state : Nat := 0
  devid : Octets := zeros 16
  kekDevice : Octets := []
  kekOwner : Octets := []
  kekBasin : Octets := []
  kekBasinOld : Octets := []
  kekEpoch : Nat := 0
  /-- A Towpath session is open. -/
  sessOpen : Bool := false
  /-- The unit has sealed an envelope under the current basin epoch (R212). -/
  sealed : Bool := false
  otp : Otp := {}
  /-- A transition is being carried out: fuse rows are written. Row of STEP 2 next written, writes of it that failed, FAIL, and the
  transition that starts at the next edge. -/
  active : Bool := false
  row : Nat := 0
  tries : Nat := 0
  fail : Bool := false
  starting : Option Nat := none
  /-- The provisioning package of a PROVISION in progress. -/
  pkg : Octets := []
  /-- Officer keys by roster index (R430). -/
  roster : Tab Octets := []
  /-- The outstanding Ndound challenge and the pass of its issue; a Towpath AUTH read whose draw waits (Table 7.3); consecutive failed responses; the
  PURPOSEs of the verified ENTER_RETURN and LEAVE_RETURN responses that are held. -/
  chal : Option (Octets × Nat) := none
  chalWait : Bool := false
  failRun : Nat := 0
  auth : List Nat := []
  /-- SCOPE of the open session; SCOPE of a verified response, with the pass of its verification: its session opens at the next edge. -/
  scope : Nat := 0
  sessNext : Option (Nat × Nat) := none
  /-- LCS_BOOT and LCS_BOOT_GEN; the boot ROM has run since K was released. -/
  bootPlane : Nat := 0
  bootStatus : Nat := 0
  bootGen : Nat := 0
  booted : Bool := false
  /-- The recipe image of the booted set: 0 not yet loaded, 1 its load commanded, 2 loaded and GRD_MIN_VERSION pinned (R391). -/
  recipe : Nat := 0
  /-- The Towpath's instruction in force and the data register it captured; the boundary-scan register, and the value EXTEST drives on the pins. -/
  ir : Nat := 1
  dr : Octets := []
  bsr : Octets := []
  drive : Option Octets := none
  deriving DecidableEq, Repr

/-- The Hopper (chapter 7). `state`: 0 STARTING, 1 READY, 2 RAW, 3 FAULT. Sources by number: 0 TESTING, 1 ACTIVE, 2 STANDBY, 3 FAILED. -/
structure Hopper where
  state : Nat := 0
  cause : Nat := 0
  src : Tab Nat := []
  why : Tab Nat := []
  /-- The source's current window began before its output may be used (R178, R191). -/
  skip : Tab Bool := []
  /-- Released from reset: the sources run and are tested. -/
  up : Bool := false
  /-- Conditioned blocks of 16 octets in the entropy pool, oldest first; the ready blocks of the hardware instance's FIFO. -/
  pool : List Octets := []
  fifo : List Octets := []
  /-- Working state of the instances: key and counter block (R181). -/
  hwKey : Octets := []
  hwV : Octets := []
  swKey : Octets := []
  swV : Octets := []
  /-- Instances instantiated, pass of their last seeding, and stopped for want of a reseed (R181, R182). -/
  hwInst : Bool := false
  swInst : Bool := false
  hwSeed : Nat := 0
  swSeed : Nat := 0
  hwStop : Bool := false
  swStop : Bool := false
  /-- ENABLE was written 1 in the pass given: RAW begins at the next edge. -/
  rawReq : Option Nat := none
  /-- RAW (R191): samples in the FIFO, samples that reads of this pass have brought in, and whether samples were lost since the last word read. -/
  rawFifo : Nat := 0
  rawIn : Nat := 0
  rawGap : Bool := false
  /-- Hardware blocks generated in this pass; cycles of the generation core that hardware requests and reseeds took in it, and in the pass before. -/
  hwNow : Nat := 0
  cycles : Nat := 0
  cyclesPrev : Nat := 0
  /-- Draw buffers, by core. -/
  buf : Tab (List Nat) := []
  /-- Draws that arrived at the field end and are presented at its next edge, by core. -/
  next : Tab (List Nat) := []
  deriving DecidableEq, Repr

/-- Inline cycles a cipher lane used: in the current pass, and in the last passes, newest first (R114). -/
structure LaneUse where
  now : Nat := 0
  past : List Nat := []
  /-- Look-aside allowance of the current pass. -/
  allow : Nat := 50000
  deriving DecidableEq, Repr

/-- Outcome of a command register's last command, by block and master: outstanding, VALID, and the result word's other bits. -/
structure CmdRes where
  busy : Bool := false
  valid : Bool := false
  word : Nat := 0
  deriving DecidableEq, Repr

/-! ### Chapter 11: Lockgate and mailboxes -/

/-- One barge (R283): direction (true: host to field), lane, header fields and payload words 0 to 14. -/
structure Barge where
  toField : Bool
  lane : Nat
  type : Nat
  seq : Nat := 0
  core : Nat := 0
  cont : Bool := false
  ref : Nat := 0
  payload : List Word := []
  /-- Position of its entry in the send ring of a core that sent it; none for another sender's. -/
  pos : Option Nat := none
  deriving DecidableEq, Repr

/-- The Lockgate. Tables by lane are keyed direction × 4 + lane (direction 1 towards the field). Send queues are keyed
(direction × 4 + lane) × 32 + queue: at the host end 0 K and the host end itself, 1 the Hopper, 2 the answers of an engine, 16 + n core Hn;
at the field end 0 the field end itself, 16 + n core Fn. -/
structure Lockgate where
  sendq : Tab (List Barge) := []
  /-- Barges sent and not yet received, oldest first, by lane. -/
  wire : Tab (List Barge) := []
  seqTx : Tab Nat := []
  /-- SEQ expected next on each lane. -/
  seqRx : Tab Nat := []
  /-- Barges waiting at the receiving end for a full receive queue, by lane. -/
  waiting : Tab (List Barge) := []
  /-- Where a lane's rotation goes on in this pass, once a queue has had a turn: the place of the next queue in its order (R282). -/
  rot : Tab Nat := []
  /-- First halves of two-barge messages awaiting their second, by lane. -/
  halves : Tab (List Barge) := []
  /-- The first barge of a message failed its check: one more than its TYPE; the next one on the lane is its second. -/
  skip : Tab Nat := []
  /-- The field island is powered and out of reset (LKG_STATE.FIELD_UP). -/
  fieldUp : Bool := false
  deriving DecidableEq, Repr

/-- One mailbox channel (R293 to R296): message, SEQ, FULL and COLLIDED; the message, SEQ and flags as presented at the last edge; the pass a send
waits for its edge since; the edge it became visible; whether the sender awaits a result, and whether the receiving function has been reset since the
send; ACKs of this pass; result SEQ, STATUS and VALID;
whether the page of a bound function is to be written. -/
structure Mbx where
  msg : List Word := []
  seq : Nat := 0
  full : Bool := false
  coll : Bool := false
  inMsg : List Word := []
  inSeq : Nat := 0
  inFull : Bool := false
  inColl : Bool := false
  fresh : Bool := false
  vis : Nat := 0
  await : Bool := false
  gone : Bool := false
  acks : List Nat := []
  resSeq : Nat := 0
  resSt : Nat := 0
  resOk : Bool := false
  deriving DecidableEq, Repr

/-! ### Chapter 5: inline link sealing -/

/-- One secure association's working state (R133 to R137): `state` 0 EMPTY, 1 ACTIVE, 2 FROZEN; its key store; next PN; lowest acceptable
PN of a receive SA; and whether it stopped being VALID and waits for its frames to finish (R136). -/
structure Sa where
  state : Nat := 0
  keyed : Bool := false
  key : Octets := []
  next : Nat := 0
  low : Nat := 0
  retiring : Bool := false
  warned : Nat := 0
  deriving DecidableEq, Repr

/-- A frame in a stage: its octets without FCS; what the classifier gave it (R126, R127): the SA and PN, the SecTAG built for it, whether it is
encrypted, its GCM IV, and whether its PN is the largest; whether it has been counted as held for want of a lane slot (R116); and the
lane whose cipher stage took it (R131). A frame without an SA is one of the uncontrolled port or not yet classified. -/
structure Frame where
  data : Octets
  sa : Option Nat := none
  pn : Nat := 0
  tag : Octets := []
  conf : Bool := false
  iv : Octets := []
  last : Bool := false
  waited : Bool := false
  lane : Nat := 0
  deriving DecidableEq, Repr

/-- One stream: the lane that serves it now, and its four stages, oldest frame first (R129). -/
structure Stream where
  lane : Nat := 0
  ingress : List Frame := []
  classifier : List Frame := []
  cipher : List Frame := []
  egress : List Frame := []
  deriving DecidableEq, Repr

/-- The inline pipeline. Streams are keyed link × 2 + direction (0 protect, 1 validate); counters link × 32 + number, or
2^16 + SA × 32 + number; port conditions link × 4 + bit of ILS_LINK_STATUS. -/
structure Inline where
  sas : Tab Sa := []
  streams : Tab Stream := []
  cnt : Tab Nat := []
  up : Tab Bool := []
  /-- Frames sent, oldest first: link × 2 + port (0 plain side, 1 sealed side) and octets without FCS. -/
  sent : List (Nat × Octets) := []
  deriving DecidableEq, Repr

/-! ### Chapter 6: Grinder -/

/-- A recipe image held by a unit: version, the recipe table's entries (number, class, operands, results, bound, yield gap) and the
microcode words. -/
structure GrdImage where
  version : Nat
  recipes : List (Nat × Nat × Nat × Nat × Nat × Nat)
  code : List Word
  deriving DecidableEq, Repr

/-- A wipe of a unit's banks (R144): none; running since a moment of this pass, for that many cycles; going on past the edge that began this pass, or begun
at it. -/
inductive Wipe where
  | idle
  | run (cycles : Nat)
  | late
  deriving DecidableEq, Repr

/-- One Grinder unit: its image, the load under way, its owner context, the job it runs, the express job admitted to it that waits for a
yield point, and the job suspended in its save bank. Jobs are named by their operation. -/
structure GrdUnit where
  /-- Working bank and save bank, words that were never written left out at the end (R143). -/
  bank : List Word := []
  save : List Word := []
  wipe : Wipe := .idle
  /-- The image a LOAD_IMAGE names was read through the unit's MPU. -/
  loadOk : Bool := false
  image : Option GrdImage := none
  loading : Option Nat := none
  owner : Nat := 0
  job : Option Nat := none
  next : Option Nat := none
  susp : Option Nat := none
  /-- The running job failed RSA's self-check and ends at step 4 of the next edge (R160). -/
  selfFail : Bool := false
  deriving DecidableEq, Repr

/-- One curve slot: 0 EMPTY, 1 CHECKING, 2 CHECKED, 3 REJECTED; reason, owner and parameters. -/
structure CurveSlot where
  state : Nat := 0
  reason : Nat := 0
  owner : Nat := 0
  p : Nat := 0
  a : Nat := 0
  b : Nat := 0
  gx : Nat := 0
  gy : Nat := 0
  n : Nat := 0
  h : Nat := 0
  deriving DecidableEq, Repr

/-- The Grinder. -/
structure Grinder where
  units : Tab GrdUnit := []
  curves : Tab CurveSlot := []
  deriving DecidableEq, Repr

/-! ### Chapter 15: tamper -/

/-- One entry of the tamper log (Table 15.3); `applied` tells that a deferred response has been applied at a start-up (R368). -/
structure TmpEntry where
  src : Nat
  resp : Nat
  subsumed : Bool
  deferred : Bool
  power : Nat
  seq : Nat
  pass : Nat
  rtc : Nat
  applied : Bool := false
  deriving DecidableEq, Repr

/-- The tamper aggregator: the pass in which each COUNT left 0; the sources that fired in the current response window; the log, oldest
first; TMP_STATE's fields; fuses blown; the cores that TAMPER becomes pending on at the next edge at which they run, and TMP_HOST_VEC owed (1 at
the next edge, 2 when first enabled); and an unlock that takes effect at the next edge (its operation and MODE). -/
structure Tamper where
  since : Tab Nat := []
  fired : List Nat := []
  log : List TmpEntry := []
  cause : Nat := 0
  deferred : Bool := false
  keepLost : Bool := false
  /-- The keep domain's state has been lost and no start-up has followed yet (R369). -/
  lost : Bool := true
  epoch : Nat := 0
  intCores : List Nat := []
  intVec : Nat := 0
  release : Option (Nat × Nat) := none
  deriving DecidableEq, Repr

/-! ### Chapter 8: credential register and basin -/

/-- One entry of the credential register (Table 8.1). -/
structure CrgEntry where
  status : Nat
  cls : Nat
  limited : Bool
  capped : Bool
  origin : Nat
  digest : Octets
  from_ : Nat
  until_ : Nat
  uses : Nat
  amount : Int
  cap : Nat
  changed : Nat
  deriving DecidableEq, Repr

/-- One staged delta (Table 8.5): the sender's unit for one from an envelope. -/
structure CrgDelta where
  digest : Octets
  op : Nat
  status : Nat
  cls : Nat
  flags : Nat
  from_ : Nat
  until_ : Nat
  uses : Nat
  amount : Int
  cap : Nat
  sender : Option Nat
  deriving DecidableEq, Repr

/-- The entries of a register: ways keyed bucket × 4 + way, and the stash. -/
structure CrgTable where
  ways : Tab CrgEntry := []
  stash : Tab CrgEntry := []
  deriving DecidableEq, Repr

/-- A commit in flight: its operation, target and admission pass, the frozen batch, how many of its deltas have been placed, the last pass in
which preparation was done, the register with them, skips, the first skip, and the delta that could not be placed. -/
structure CrgCommit where
  op : Nat
  target : Nat
  at_ : Nat
  batch : List CrgDelta
  placed : Nat := 0
  prepPass : Option Nat := none
  /-- The first edge at which the batch is ready, once preparation has ended. -/
  ready : Option Nat := none
  table : CrgTable
  skips : Nat := 0
  firstSkip : Option Nat := none
  failed : Option Nat := none
  deriving DecidableEq, Repr

/-- The credential engine: the register, its epoch and key copy, the open batch with the deltas staged in this pass, and the commit. -/
structure Crg where
  table : CrgTable := {}
  epoch : Nat := 0
  key : Option Octets := none
  batch : List CrgDelta := []
  fresh : List CrgDelta := []
  commit : Option CrgCommit := none
  deriving DecidableEq, Repr

/-- The basin's key state: NEXT with its activation site pass, the current epoch's recorded activation pass, the key drawn at the level step,
last accepted sequence plus one by sender, and SEAL_BLOCKED. -/
structure Basin where
  next : Option (Octets × Nat) := none
  curAt : Option Nat := none
  drawn : Octets := []
  seqs : Tab Nat := []
  blocked : Bool := false
  deriving DecidableEq, Repr

/-! ### Chapters 9 and 10: the field island -/

/-- One aerial port: state (Table 9.7: 0 IDLE, 1 PRESENT, 2 GRANTED, 3 LINGER, 4 DISABLED), MISMATCH, stored tuning codes and VSWR, the chain
holding it, its baseline, the baseline pings taken so far, the mode and edge of its request, the pass in which it entered LINGER, and whether a ping found it clear there. -/
structure Port where
  state : Nat := 4
  mismatch : Bool := false
  ser : Nat := 32
  shu : Nat := 32
  vswr : Nat := 0
  chain : Nat := 0
  base : Option (Nat × Nat) := none
  bases : List (Nat × Nat) := []
  reqEmu : Bool := false
  reqAt : Nat := 0
  linger : Nat := 0
  clear : Bool := false
  deriving DecidableEq, Repr

/-- The results of an entry that has ended and is written at the next field edge (R251), with the port and the edge of its grant. -/
structure FrameRes where
  port : Nat
  grant : Nat
  pos : Nat
  st : Nat
  sub : Nat
  air : Nat
  rx : Octets
  wtx : Nat
  pass : Nat
  deriving DecidableEq, Repr

/-- One chain: calibrated; the port it holds, over the tie line or not, its mode and carrier; whether it is given back only at the next edge;
the edges of the grant, of its settle end and of its ceiling; tuned and settled; then its frame queue (positions modulo 16: next to
complete, tail, tail named by doorbells of this pass, next to be admitted, next to end), the running entry's WTX count, the rates, the technology
of its activation, the frames sent since the grant (bits, octets), the pass in which the running exchange's receive window closes once its frame
has been sent, the results awaiting the next edge; then card emulation: the identity armed last and the one presented, CHN_EMU_STATUS.STATE,
the layer 3 state (0 IDLE, 1 and 2 READY at a cascade level, 3 ACTIVE, 4 HALT; 8 more when woken from HALT), the reader's frame size limit,
field present, the held frame, the pass in which the S(WTX) timer expires, and the EMU_RESPOND entries that a replaced frame has made void. -/
structure Chain where
  cal : Bool := false
  port : Option Nat := none
  tie : Bool := false
  emu : Bool := false
  carrier : Bool := false
  back : Bool := false
  grantAt : Nat := 0
  settleAt : Nat := 0
  ceilAt : Nat := 0
  power : Nat := 0
  tuned : Bool := false
  settled : Bool := false
  head : Nat := 0
  tail : Nat := 0
  tailNext : Option Nat := none
  adm : Nat := 0
  endp : Nat := 0
  wtx : Nat := 0
  txRate : Nat := 0
  rxRate : Nat := 0
  typeB : Bool := false
  sent : List (Nat × Octets) := []
  window : Option Nat := none
  done : List FrameRes := []
  armed : Option Octets := none
  ident : Option Octets := none
  emuState : Nat := 0
  card : Nat := 0
  fsd : Nat := 256
  field : Bool := false
  held : Option Octets := none
  timer : Option Nat := none
  stale : List Nat := []
  deriving DecidableEq, Repr

/-- One ping engine: calibrated; ports of the flight left in the sweep; slots used in this pass; last port; sweeps begun, and the pass
in which the last one began. -/
structure PingEngine where
  cal : Bool := false
  sweep : List Nat := []
  used : Nat := 0
  last : Nat := 0
  sweeps : Nat := 0
  begun : Option Nat := none
  deriving DecidableEq, Repr

/-- A field event (Table 9.4): its port, the pass in which it occurred, and its four words. -/
structure FieldEvent where
  port : Nat
  pass : Nat
  words : List Nat
  deriving DecidableEq, Repr

/-- The field island: the pass of its last edge; ports, chains and ping engines by number; flights ready; the converter's supply; FLD_REQ writes
of this pass (core, word); pending events by core number; the grants and ends of this edge by flight pair; the staged set of configuration
pushes and its count; and the image words written by FIRMWARE_BLOCK so far. -/
structure FieldIsland where
  edgeAt : Option Nat := none
  ports : Tab Port := []
  chains : Tab Chain := []
  eng : Tab PingEngine := []
  ready : Tab Bool := []
  supplyOk : Bool := true
  reqs : List (Nat × Nat) := []
  evs : Tab (List FieldEvent) := []
  grants : Tab (List Nat) := []
  staged : List (Nat × Nat) := []
  started : Bool := false
  /-- The FIRMWARE_BLOCK with LAST has been accepted; SEQ24 of the staged set. -/
  imgDone : Bool := false
  stagedSeq : Nat := 0
  /-- The edge signal carried APPLY: the staged set goes live at the next field edge (R289). -/
  apply : Bool := false
  /-- K has queued the field image and what follows it since the last release of step 8 (R456). -/
  imgSent : Bool := false
  /-- Word index of the field image's entry point (R390). -/
  entry : Nat := 0
  /-- Words of the calibration constants received, by their number (R226). -/
  cal : Tab Word := []
  deriving DecidableEq, Repr

/-- One copy of a tag block or counter (R269): value, sequence number and CRC-32 check code. -/
structure TagCopy where
  val : Nat
  seq : Nat
  check : Nat
  deriving DecidableEq, Repr

/-- An access to tag memory that waits: its wired core, or none for a contactless command; action (1 read block, 2 write block, 3 read counter,
4 increment), index, data, amount, and whether it locks. -/
structure TagAccess where
  core : Option Nat
  action : Nat
  idx : Nat
  data : Octets := []
  amount : Nat := 0
  lock : Bool := false
  deriving DecidableEq, Repr

/-- The tag core and tag memory: copies keyed 2 × index + copy, blocks 0 to 127 and counters 128 to 143, one not listed with value and sequence zero; the session's port, whether SELECT came,
its challenge and its locks; the challenge store, oldest first; the command that waits for its MAC verdict, and the accesses that wait for the
memory, in order of arrival; the last response, with its status word; then the session's link: the reader's frame size, the next block number
and the frames sent, CRC included. -/
structure TagCore where
  mem : Tab TagCopy := []
  session : Option Nat := none
  selected : Bool := false
  challenge : Option Octets := none
  locks : List Nat := []
  store : List Octets := []
  wait : Option TagAccess := none
  queue : List TagAccess := []
  /-- Commands with a reserved ACTION, by core and pass: outstanding up to the next edge (R478). -/
  refused : List (Nat × Nat) := []
  /-- Data read by wired commands, by core and pass: in TAG_DATA from the next edge (R275). -/
  dataDue : List (Nat × Nat × List Word) := []
  resp : Octets := []
  fsd : Nat := 256
  blk : Bool := false
  air : List Octets := []
  uid : Octets := zeros 7
  deriving DecidableEq, Repr

/-! ### Chapters 12 and 13: CQ36 cores -/

/-- One CQ36 core: released from reset; stop reason (0 running); halted by the Towpath; in WAITPASS with its destination register; in the middle
of a block instruction; PC, SW, G registers, SP0 to SP2 and SL0 to SL2, VBASE, BWBASE and whether it is fixed, SPB, SLB, FCAUSE (BWDEPTH
apart), FADDR, BWDEPTH; the granule reserved; pending interrupts by vector; CYC_HI latched for its next read. -/
@[ext] structure Core where
  run : Bool := false
  stopped : Nat := 0
  halted : Bool := false
  waiting : Option Nat := none
  inBlock : Bool := false
  pc : Nat := 0
  sw : Word := 4
  g : Tab Word := []
  sp : Tab Word := []
  sl : Tab Word := []
  vbase : Word := 0
  bwbase : Word := 0
  bwFixed : Bool := false
  spb : Word := 0
  slb : Word := 0
  fcause : Word := 0
  faddr : Word := 0
  bwdepth : Nat := 0
  resv : Option Nat := none
  pend : Tab Bool := []
  cycHi : Option Word := none
  /-- The Towpath lets a halted core run one instruction (DBG_CORE.STEP). -/
  stepOne : Bool := false
  /-- Progress count since the release (R433). -/
  progress : Nat := 0
  deriving DecidableEq, Repr

/-! ### Chapter 17: flash -/

/-- A programmed page: its octets, and 0 for a page as programmed, 1 undefined, 2 a lower page that may have been lost (Table 17.6). -/
structure FlashPage where
  data : Octets
  mark : Nat := 0
  deriving DecidableEq, Repr

/-- One plane: state (Table 17.3); programmed pages keyed block × 256 + page; the next page allowed in each block (R404), erase counts,
FAILED marks; the block of a journal START without DONE, and whether that block is to be erased again at the controller's release; the operation running, and
the erase running or suspended, with the pass of its suspension and whether a HOST reset asks that it resumes when the running operation ends; the programmed
pages of the commit block in order (R408: their first 64 octets, the rest is zero; a marked one was torn), and the operation that the last VOID record was
programmed for. -/
structure Plane where
  state : Nat := 0
  pages : Tab FlashPage := []
  wptr : Tab Nat := []
  erases : Tab Nat := []
  bad : Tab Bool := []
  journal : Option Nat := none
  cur : Option Nat := none
  erase : Option Nat := none
  resume : Bool := false
  redo : Bool := false
  suspAt : Option Nat := none
  records : List FlashPage := []
  void : Option Nat := none
  deriving DecidableEq, Repr

/-- The flash array and its controller; whether the controller has repeated the erases its journals ask for. -/
structure Flash where
  planes : Tab Plane := []
  deriving DecidableEq, Repr

/-! ### Chapter 18: cards -/

/-- A sealed audit record in the buffer: its SEQ and its 512 octets. -/
structure AuditRec where
  seq : Nat
  data : Octets
  deriving DecidableEq, Repr

/-- One audit card slot: STATE (0 EMPTY, 1 IDENT, 2 FAILED, 3 BLANK, 4 FOREIGN, 5 OPEN, 6 CLOSED, 7 PROTECTED), TYPE, bus width and high speed, write
protection, SUB; the card's blocks, relative address and CID; bus clock (0 400 kHz, 1 25 MHz, 2 50 MHz); the commands last sent, as index and argument
(the one after a CMD55 is an application command); pass of the insertion; what the card holds; next block; first and last SEQ; whether a tail of its own
made it OPEN, and that tail's MAC; the RESTART record owed to it; the pass at which the write under way began; the block spent last and its card. -/
structure SdSlot where
  state : Nat := 0
  type : Nat := 0
  wide : Bool := false
  hs : Bool := false
  perm : Bool := false
  tmp : Bool := false
  sub : Nat := 0
  blocks : Nat := 0
  rca : Nat := 0
  cid : Octets := []
  clk : Nat := 0
  sent : List (Nat × Nat) := []
  since : Nat := 0
  data : Tab Octets := []
  next : Nat := 0
  first : Nat := 0
  last : Nat := 0
  old : Bool := false
  tailMac : Octets := []
  owed : Option AuditRec := none
  wrAt : Option Nat := none
  spent : Option (Nat × Octets) := none
  deriving DecidableEq, Repr

/-- The SD host: audit key copy; sealed buffer, oldest first; CARD_OPEN, CARD_CLOSE and RESTART records whose own write was lost, by SEQ; MAC of the last
record sealed; last SEQ sealed and written; the slot that is the writer; the slot being opened or closed and whether it is a close, with the record that
does it; the RESTART owed after a reset (1 HOST, 2 KEEP); whether a record was ever sealed; each master's last APPEND SEQ. -/
structure SdHost where
  key : Option Octets := none
  buffer : List AuditRec := []
  spare : List AuditRec := []
  head : Octets := []
  headSeq : Nat := 0
  written : Nat := 0
  writer : Option Nat := none
  busy : Option (Nat × Bool) := none
  special : Option AuditRec := none
  restart : Nat := 0
  ever : Bool := false
  appended : Tab Nat := []
  slots : Tab SdSlot := []
  deriving DecidableEq, Repr

/-- One officer card interface: card present; STATE (0 OFF, 1 ACTIVATING, 2 ACTIVE, 3 SESSION); class A; inverse convention; T=1; Fi and Di as in TA1; the
session's roster index and end; the operation whose exchange runs, its step (1 SELECT, 2 GET_KEY, 3 SIGN answered next, 4 nonce awaited, 5 PPS, 6 IFS, 7
verification awaited), the roster entry it is about, the 80 octets sent in SIGN and the signature that came back; what was sent to the card last; and the
protocol's own: octets of the command not yet sent and of the response so far, IFSC, send and receive sequence numbers, the last I-block, failed tries. -/
structure OfcIf where
  present : Bool := false
  state : Nat := 0
  cls : Bool := false
  inv : Bool := false
  t1 : Bool := false
  ta1 : Nat := 0x11
  roster : Nat := 0
  sessEnd : Nat := 0
  op : Option Nat := none
  step : Nat := 0
  who : Nat := 0
  body : Octets := []
  sig : Octets := []
  tx : Octets := []
  out : Octets := []
  rsp : Octets := []
  ifsc : Nat := 32
  ns : Nat := 0
  nr : Nat := 0
  iblk : Octets := []
  tries : Nat := 0
  deriving DecidableEq, Repr

/-! ### Chapter 19: recording, replay and counters -/

/-- One item of a record (Table 19.1). -/
structure RplItem where
  kind : Nat
  at_ : Nat
  words : List Nat
  deriving DecidableEq, Repr

/-- One core's section: flags (bit 0 SEG_START, 1 LOST, 2 IN_RESET), progress at the end of the pass, items, and the outputs of the pass
(in a replayed section, its OUT_DIGEST). -/
structure RplSect where
  core : Nat
  flags : Nat := 0
  progress : Nat := 0
  items : List RplItem := []
  outs : List Word := []
  digest : Octets := []
  deriving DecidableEq, Repr

/-- A sealed record in the staging ring: its number, epoch and octets, the octets already carried to cards, and whether it has gone to the replay
ring. -/
structure Staged where
  rseq : Nat
  epoch : Nat
  data : Octets
  card : Nat := 0
  ring : Bool := false
  deriving DecidableEq, Repr

/-- The recorder and the replay engine: key, epoch, next RSEQ, digest of the previous record; segments of the host and the field island under
way; the open sections of this pass; passes whose record is not closed yet (pass, FIELD_DOWN, host sections); staged records and words staged
so far; octets produced and consumed on the replay ring; mode (0 OFF, 1 RECORDING, 2 REPLAY, 3 STOPPED); sections of the pass being
replayed and its number; next RSEQ expected. -/
structure Rpl where
  key : Option Octets := none
  epoch : Nat := 0
  rseq : Nat := 0
  prev : Octets := []
  hostSeg : Bool := false
  fieldSeg : Bool := false
  sects : Tab RplSect := []
  closing : List (Nat × Bool × List RplSect) := []
  staged : List Staged := []
  stagePos : Nat := 0
  produced : Nat := 0
  consumed : Nat := 0
  mode : Nat := 0
  /-- The draws of a new epoch's key, and of a release, wait for the Hopper. -/
  keyWait : Bool := false
  relWait : Bool := false
  replay : Tab RplSect := []
  pass : Nat := 0
  expect : Nat := 0
  /-- Octets of replayed sections received in REPLAY_INPUT barges, by field core, with whether the last has arrived; the field cores whose section is on
  its way; octets of field sections received in REPLAY_LOG barges, keyed pass bits 11:0 × 4 + core, with whether the last has arrived. -/
  inputs : Tab (Octets × Bool) := []
  inputDue : List Nat := []
  /-- The edge of the last replayed pass; digests re-run by replayed cores and not yet compared: core, output word address, words. -/
  edgeAt : Nat := 0
  hashes : List (Nat × Nat × List Word) := []
  logs : Tab (Octets × Bool) := []
  deriving DecidableEq, Repr

/-- One core's PMU group beside its registers: samples, oldest first; the word of the oldest sample read next; LOST; a tag held; the store of draws, and the
interval to the next tag; the counters (by the offset of their LO word) whose count since it last stopped is not settled. -/
structure PmuCore where
  samples : List (List Nat) := []
  idx : Nat := 0
  lost : Nat := 0
  tag : Bool := false
  draws : List Nat := []
  interval : Nat := 0
  ran : List Nat := []
  deriving DecidableEq, Repr

/-- The bandwidth monitors beside their registers: octets of the open window by monitor (20 and up), and the pass of the last close. -/
structure BwMon where
  count : Tab Nat := []
  last : Nat := 0
  deriving DecidableEq, Repr

/-! ### Chapter 20: reset and power -/

/-- The reset controller and the supplies: the level in progress on each island (0 none; the host island's 3 HOST to 5 KEEP, the field island's 2 to 5),
the last host and field steps released, RST_GO steps written, the field image accepted, kicks of this pass by core, fuses blown (entries 0 to 26), cores in
CORE reset waiting for their release; 12 V and rails good, and the keep domain's source. -/
structure Rst where
  hostLvl : Nat := 5
  fieldLvl : Nat := 5
  hostStep : Nat := 0
  fieldStep : Nat := 0
  fieldAlone : Bool := false
  go : List Nat := []
  kicks : Tab Bool := []
  /-- Cores whose warning has been raised at the present REMAIN (R454). -/
  warned : Tab Bool := []
  fuses : Tab Nat := []
  vin : Bool := true
  vcore : Bool := true
  vdram : Bool := true
  vio : Bool := true
  keepSrc : Nat := 0
  keepLost : Bool := false
  /-- RESET_HOST and RESET_FIELD requested by a tamper response whose reset has not been released (R366). -/
  respHost : Bool := false
  respField : Bool := false
  deriving DecidableEq, Repr

/-! ### The whole device -/

/-- Everything the device holds. -/
@[ext] structure Dev where
  /-- Live register words by register word address bits 23:0 (plus 2^24 for the field island's own copy); a word not listed holds its
  reset value. -/
  regs : Tab Word := []
  /-- Per-master copies of registers, keyed master × 2^24 + address. -/
  priv : Tab Word := []
  /-- PIN words that have been set since the reset that clears them, by address. -/
  pinned : Tab Bool := []
  /-- Charges made against each budget in the current pass, by the budget's register address. -/
  spent : Tab Nat := []
  pas : Pas := {}
  chm : Chamber := {}
  rings : Tab Ring := []
  ops : List Op := []
  opSeq : Nat := 0
  slots : Tab Slot := []
  lanes : Tab LaneUse := []
  cmds : Tab CmdRes := []
  msix : Tab Msix := []
  /-- MSI-X messages sent, by function × 4096 + vector. -/
  msgs : Tab Nat := []
  /-- Host memory as the device has written it. -/
  host : Tab Octet := []
  /-- Host-island word memory. -/
  mem : Tab Word := []
  keep : Keep := {}
  life : Life := {}
  hop : Hopper := {}
  lkg : Lockgate := {}
  ils : Inline := {}
  grd : Grinder := {}
  /-- Bus Master Enable by function, listed where set. -/
  pcieBme : Tab Bool := []
  tmp : Tamper := {}
  /-- Last word each master read from the register bus. -/
  rdata : Tab Word := []
  crg : Crg := {}
  bsn : Basin := {}
  fld : FieldIsland := {}
  tag : TagCore := {}
  /-- Field-island word memory. -/
  fmem : Tab Word := []
  cores : Tab Core := []
  mbx : Tab Mbx := []
  /-- The PCIe link is in L0; functions in D3hot. -/
  linkUp : Bool := false
  d3 : Tab Bool := []
  /-- NumVFs: the VFs that the host has enabled. -/
  numVfs : Nat := 0
  /-- PCIe controls by function; lanes and transfer rate code (1 to 5 for 2.5, 5, 8, 16, 32 GT/s) the link trained to. -/
  pcie : Tab PcieFn := []
  linkWidth : Nat := 0
  linkSpeed : Nat := 0
  /-- The ring the Wharf last fetched from, and descriptors fetched from it in its turn (R72). -/
  fetchRing : Nat := 1023
  fetchCnt : Nat := 0
  /-- Requests of the field island that wait for a free context entry (R80), oldest first. -/
  waitq : List Op := []
  /-- Privilege level at which a firmware queue's TAIL was last written, by the queue's BASE register (R350). -/
  fqPl : Tab Nat := []
  fls : Flash := {}
  sdh : SdHost := {}
  ofc : Tab OfcIf := []
  rpl : Rpl := {}
  pmu : Tab PmuCore := []
  bw : BwMon := {}
  rst : Rst := {}
  /-- Values measured at the last edge, by register address. -/
  meas : Tab Word := []
  /-- Count of free values taken. -/
  free : Nat := 0
  deriving DecidableEq, Repr

/-- The state: the device; the words R45 latched at the last edge of each island (the device as it stood at step 8); and the commands
waiting, first in, first out. -/
@[ext]
structure State where
  dev : Dev := {}
  latch : Dev := {}
  latchF : Dev := {}
  pending : List Instr := []
  deriving DecidableEq, Repr

/-- The device after a KEEP reset (R453): a part as it leaves manufacture, life-cycle state BLANK, every fuse unblown, every domain held in its reset; each
register word at the reset value of its table, and at zero where the tables give none (log entries 1 and 9). -/
def State.reset : State := {}

/-- Named stops. -/
inductive Fault where
  /-- Raised by no meaning of this model: the manual gives every command an effect (safe). -/
  | none
  deriving DecidableEq, Repr

/-- Named refusals. -/
inductive Refusal where
  /-- A command whose meaning is not written (safe: nothing is claimed of it). -/
  | notModelled (mnemonic : String)
  deriving DecidableEq, Repr

end Sys2Proof.Machine
end

