-- ==== Sys2Proof/Machine/Operands.lean ====
section
/-! DEFINITION. The operand forms of the descriptors (Tables 3.12 to 3.14): the fields of the header and of each body, their
reserved parts (R8), the assembly of a descriptor from its fields, and the length rules of the cipher modes (Table 4.1). -/

namespace Sys2Proof.Machine

/-! ### Header (Table 3.12) -/

def Op.opcode (o : Op) : Nat := leAt o.desc 0 1
def Op.intr (o : Op) : Bool := nfld (leAt o.desc 1 1) 0 0 = 1
def Op.barrier (o : Op) : Bool := nfld (leAt o.desc 1 1) 1 1 = 1
def Op.rqMode (o : Op) : Nat := nfld (leAt o.desc 2 1) 1 0
def Op.rqK (o : Op) : Nat := nfld (leAt o.desc 2 1) 7 4
def Op.opTag (o : Op) : Nat := leAt o.desc 4 4
/-- PACK of a firmware queue descriptor (octet 3 bit 0). -/
def Op.dense (o : Op) : Bool := nfld (leAt o.desc 3 1) 0 0 = 1

/-- A field of the body. -/
def Op.f (o : Op) (off n : Nat) : Nat := leAt o.desc off n

/-! ### Assembly of a descriptor -/

/-- The octets of the header fields. -/
def hdrOct (opcode : Nat) (h : DescHdr) : Octets :=
  leOct 1 opcode ++ leOct 1 (b2n h.intr + 2 * b2n h.barrier) ++ leOct 1 (h.rqMode % 4 + 16 * (h.rqK % 16)) ++ leOct 1 0 ++
    leOct 4 h.opTag

/-- Octets placed at an offset of a string. -/
def putAt (o : Octets) (off : Nat) (x : Octets) : Octets := o.take off ++ x ++ o.drop (off + x.length)

/-- A 64-octet descriptor from its header and its body fields, each given as offset, length in octets and value. -/
def mkDesc (opcode : Nat) (h : DescHdr) (fs : List (Nat × Nat × Nat)) : Octets :=
  fs.foldl (fun d x => putAt d x.1 (leOct x.2.1 x.2.2)) (fitTo 64 (hdrOct opcode h))

/-! ### Reserved parts (R8) -/

/-- Octets 8 to 63 that a body uses, as offset and length, by opcode (Table 3.14). -/
def bodyUsed (opcode : Nat) : List (Nat × Nat) :=
  if opcode ∈ [0x10, 0x11, 0x12, 0x13] then [(8, 14), (24, 40)]
  else if opcode ∈ [0x20, 0x21] then [(8, 3), (16, 4), (24, 16)]
  else if opcode = 0x30 then [(8, 6), (16, 4), (24, 16)]
  else if opcode = 0x40 then [(8, 1), (16, 40)]
  else if opcode = 0x41 then [(8, 4), (16, 8)]
  else if opcode = 0x42 then [(16, 8)]
  else if opcode = 0x50 then []
  else if opcode = 0x51 then [(8, 4), (16, 8)]
  else if opcode = 0x52 then [(8, 1), (16, 8)]
  else if opcode = 0x53 then [(16, 8)]
  else if opcode = 0x54 then [(8, 2), (12, 12)]
  else if opcode = 0x55 then [(8, 3), (12, 12)]
  else if opcode = 0x56 then [(8, 2)]
  else if opcode = 0x57 then [(8, 4)]
  else if opcode = 0x58 then [(8, 2)]
  else if opcode = 0x59 then [(8, 16)]
  else if opcode = 0x5A then [(12, 12)]
  else if opcode ∈ [0x60, 0x61] then [(8, 3), (12, 24)]
  else []

/-- Is an offset inside a used range? -/
def usedAt (rs : List (Nat × Nat)) (i : Nat) : Bool := rs.any (fun r => decide (r.1 ≤ i) && decide (i < r.1 + r.2))

/-- Every octet of the body outside the used ranges is zero. -/
def bodyReservedZero (opcode : Nat) (d : Octets) : Bool :=
  (List.range 56).all (fun i => usedAt (bodyUsed opcode) (i + 8) || decide (octAt d (i + 8) = 0))

/-- The reserved bits of the header are zero; a firmware descriptor may set PACK. -/
def hdrReservedZero (fw : Bool) (d : Octets) : Bool :=
  decide (leAt d 1 1 < 4) && decide (nfld (leAt d 2 1) 3 2 = 0) &&
    decide (if fw then leAt d 3 1 < 2 else leAt d 3 1 = 0)

/-- Is the opcode one of Table 3.13? -/
def opcodeKnown (opcode : Nat) : Bool :=
  decide (opcode ∈ [0x10, 0x11, 0x12, 0x13, 0x20, 0x21, 0x30, 0x40, 0x41, 0x42, 0x50, 0x51, 0x52, 0x53, 0x54, 0x55, 0x56,
    0x57, 0x58, 0x59, 0x5A, 0x60, 0x61])

/-- Ring class of an opcode (Table 3.13): its high digit less one. -/
def opcodeClass (opcode : Nat) : Nat := opcode / 16 - 1

/-- R73: opcodes accepted only on MGMT (or class) rings assigned to the PF. -/
def opcodePf (opcode : Nat) : Bool :=
  decide (opcode ∈ [0x41, 0x42, 0x50, 0x51, 0x52, 0x53, 0x57, 0x59, 0x5A, 0x60, 0x61])

/-! ### Release control (R41, Table 2.4) -/

/-- Quantisation of a result class: on by default; may be turned off; may be turned on. -/
structure RqClass where
  dflt : Bool
  mayOff : Bool
  mayOn : Bool
  deriving DecidableEq, Repr

/-- The result class of an opcode; `pub` tells a Grinder public-key operation. -/
def rqClass (opcode : Nat) (pub : Bool) : RqClass :=
  if opcode = 0x30 then ⟨true, pub, true⟩
  else if opcode ∈ [0x40, 0x54, 0x55] then ⟨true, false, true⟩
  else if opcode ∈ [0x10, 0x11, 0x12, 0x13, 0x20, 0x21, 0x60, 0x61] then ⟨false, true, true⟩
  else ⟨false, true, false⟩

/-- R41: mode 3 and a change the class forbids. -/
def rqBad (c : RqClass) (mode : Nat) : Bool :=
  decide (mode = 3) || (decide (mode = 1) && !c.dflt && !c.mayOn) || (decide (mode = 2) && c.dflt && !c.mayOff)

/-- Is the result quantised? -/
def rqOn (c : RqClass) (mode : Nat) : Bool := if mode = 1 then true else if mode = 2 then false else c.dflt

/-! ### Cipher and hash bodies -/

def Op.isHash (o : Op) : Bool := decide (o.opcode ∈ [0x20, 0x21])
def Op.isCipher (o : Op) : Bool := decide (o.opcode ∈ [0x10, 0x11, 0x12, 0x13])

def Op.keySlot (o : Op) : Nat := o.f 8 2 % 16384
def Op.mode (o : Op) : Nat := o.f 10 1
def Op.cflags (o : Op) : Nat := o.f 11 1
def Op.scrub (o : Op) : Bool := nfld o.cflags 0 0 = 1
def Op.genIv (o : Op) : Bool := nfld o.cflags 1 1 = 1
def Op.aadLen (o : Op) : Nat := o.f 12 4
def Op.payLen (o : Op) : Nat := o.f 16 4
def Op.ivLen (o : Op) : Nat := o.f 20 1
def Op.tagLen (o : Op) : Nat := o.f 21 1
def Op.srcAddr (o : Op) : Nat := o.f 24 8
def Op.dstAddr (o : Op) : Nat := o.f 32 8
def Op.tagAddr (o : Op) : Nat := o.f 56 8
def Op.iv (o : Op) : Octets := slice o.desc 40 16

/-- R94: digest octets of a hash ALG. -/
def digestLen (alg : Nat) : Nat :=
  if alg = 0 then 32 else if alg = 1 then 48 else if alg = 2 then 64 else if alg = 3 then 32 else 48

/-- Modes in which a tag is used. -/
def modeTagged (m : Nat) : Bool := decide (m ∈ [3, 4, 6])

/-- Does the row of Table 4.1 list the opcode? -/
def modeOpOk (m opcode : Nat) : Bool :=
  if m = 6 then decide (opcode ∈ [0x12, 0x13]) else decide (opcode ∈ [0x10, 0x11])

def payLenOk (m pay ivLen : Nat) : Bool :=
  if m = 0 ∨ m = 1 then decide (16 ≤ pay) && decide (pay % 16 = 0)
  else if m = 4 then decide (pay < 2 ^ (8 * (15 - ivLen)))
  else if m = 5 then decide (16 ≤ pay) else true

def aadLenOk (m aad : Nat) : Bool := if m = 3 ∨ m = 4 then true else decide (aad = 0)

def ivLenOk (m iv : Nat) : Bool :=
  if m = 0 ∨ m = 6 then decide (iv = 0) else if m = 3 then decide (iv = 12)
  else if m = 4 then decide (7 ≤ iv) && decide (iv ≤ 13) else decide (iv = 16)

def tagLenOk (m t : Nat) : Bool :=
  if m = 3 then decide (12 ≤ t) && decide (t ≤ 16)
  else if m = 4 then decide (t ∈ [4, 6, 8, 10, 12, 14, 16])
  else if m = 6 then decide (4 ≤ t) && decide (t ≤ 16) else decide (t = 0)

/-- Table 4.1, R91: the first length field that breaks its row. -/
def cipherLenFail (m aad pay iv tag : Nat) : Option Fail :=
  firstOf [failIf (!payLenOk m pay iv) St.length 0x01, failIf (!aadLenOk m aad) St.length 0x02,
    failIf (!ivLenOk m iv) St.length 0x03, failIf (!tagLenOk m tag) St.length 0x04]

/-- R78: the largest input of an operation on a host ring. -/
abbrev maxInput : Nat := 4194304

/-- Static conditions of a cipher body (R91 to R93). -/
def cipherStatic (o : Op) : List (Option Fail) :=
  let m := o.mode
  [ failIf (decide (16384 ≤ o.f 8 2)) St.badDesc 0,
    failIf (decide (6 < m)) St.badDesc 0,
    failIf (decide (m ≤ 6) && !modeOpOk m o.opcode) St.badDesc 0x01,
    failIf (decide (4 ≤ o.cflags)) St.badDesc 0,
    failIf (!allZero (slice o.desc (40 + o.ivLen) (16 - o.ivLen))) St.badDesc 0,
    failIf (!modeTagged m && decide (o.tagAddr ≠ 0)) St.badDesc 0,
    failIf (decide (o.opcode = 0x13) && decide (o.dstAddr ≠ 0)) St.badDesc 0,
    failIf (o.genIv && !(decide (o.opcode = 0x10) && decide (m = 3) && decide (o.ivLen = 12) && allZero o.iv)) St.badDesc 0x02,
    failIf (decide (maxInput < o.aadLen + o.payLen)) St.length 0,
    cipherLenFail m o.aadLen o.payLen o.ivLen o.tagLen ]

/-- Static conditions of a hash body (R94). -/
def hashStatic (o : Op) : List (Option Fail) :=
  [ failIf (decide (4 < o.mode)) St.badDesc 0,
    failIf (decide (o.opcode = 0x20) && decide (o.f 8 2 ≠ 0)) St.badDesc 0,
    failIf (decide (16384 ≤ o.f 8 2)) St.badDesc 0,
    failIf (decide (maxInput < o.f 16 4)) St.length 0 ]

end Sys2Proof.Machine
end

