-- ==== Sys2Proof/Machine/Ops.lean ====
section
/-! DEFINITION. The named operations over the device: register words, memories, budgets, draws, admitted inputs, command
results and operations in flight. -/

namespace Sys2Proof.Machine

/-- What a command answers. -/
abbrev Out := Host.Outcome State Fault Refusal

/-- A command that changes the device and nothing else of the state. -/
def onDev (f : Dev → Dev) (s : State) : Out := .next { s with dev := f s.dev }

/-! ### Register words -/

/-- Table 15.1: default response and N, W of the open sources; the keyed sources are fixed at 5, 1, 0. -/
def tmpDefault (s : Nat) : Nat × Nat × Nat :=
  if s = 30 then (2, 4, 20000) else if s = 34 then (1, 5, 1200000)
  else if s = 1 ∨ s = 14 then (0, 1, 0)
  else if s ∈ [2, 3, 11, 16, 31] then (4, 1, 0)
  else if s ∈ [4, 5, 12, 13, 15] then (3, 1, 0)
  else if s = 9 ∨ s = 38 then (2, 1, 0)
  else if s ∈ [17, 18, 19, 21, 24, 28, 29] then (5, 1, 0)
  else (1, 1, 0)

/-- Reset values that depend on the index in an array. -/
def resetSpecial (name : String) (i dflt : Nat) : Nat :=
  if name = "WHF_CLASS_BUDGET" then [1875000, 500000, 64, 1000, 64, 125000].getD i 0
  else if name = "WHF_FN_CAP" then (if i = 0 then 131072 else 2048)
  else if name = "WHF_FN_VEC" then (if i = 0 then 2048 else 0)
  else if name = "WHF_RING_ASSIGN" then (i % 8) <<< 12
  else if name = "CLN_FALLBACK" then (i + 1) % 8
  else if name = "TMP_SRC_CTL" then (tmpDefault i).1 + 8 * (tmpDefault i).2.1 + 2048 * (tmpDefault i).2.2
  else if name = "FLD_FLIGHT_CTL" then i / 4 + 4 + 16
  else if name = "APT_ADJ" then (if i % 16 = 0 then 0 else 2 ^ (i % 16 - 1)) + (if i % 16 = 15 then 0 else 2 ^ (i % 16 + 1))
  else if name = "PNG_PHASE" then 100 * i
  else if name = "ILS_LINK_LANE" then 2 * i + 16 * (2 * i + 1)
  else dflt

/-- Is the word one of an MPU region of master m: MPU_RBASE (0), MPU_RLIMIT (1) or MPU_RATTR (2) of region r? Answers m, r and which. -/
def mpuWord (a : Nat) : Option (Nat × Nat × Nat) :=
  let o := a % 65536
  if a >>> 16 = 0x07 ∧ 256 ≤ o ∧ o % 256 < 128 ∧ o % 4 < 3 then some (o / 256, o % 256 / 4, o % 4) else none

/-- Table 14.9: the region words that are not zero at reset. -/
def mpuReset (m r k : Nat) : Nat :=
  let w := fun (b l t : Nat) => if k = 0 then b else if k = 1 then l else t
  if m = 0x01 then
    (if r = 0 then w 0 0x00003FFF0 11 else if r = 1 then w 0x020000000 0x02003FFF0 15 else if r = 2 then w 0xF00000000 0xF00FFFFF0 7 else 0)
  else if 0x20 ≤ m ∧ m ≤ 0x23 then
    (if r = 0 then w 0 0x00000FFF0 11 else if r = 1 then w 0x010000000 0x01007FFF0 15 else if r = 2 then w 0xF00000000 0xF00FFFFF0 7 else 0)
  else if m = 0x02 ∧ r = 0 then w 0 0xFFFFFFFF0 7
  else 0

/-- Reset value of a register word. -/
def regDefault (a : Nat) : Word :=
  match regRow (a % 2 ^ 24) with
  | some r => wd (resetSpecial r.name (r.idx (a % 2 ^ 24)) r.reset)
  | none => match mpuWord a with
    | some (m, r, k) => wd (mpuReset m r k)
    | none => 0

/-- The live value of a register word. -/
def rg (d : Dev) (a : Nat) : Word := (tabFind d.regs a).getD (regDefault a)

/-- The live value as a number. -/
def rn (d : Dev) (a : Nat) : Nat := (rg d a).toNat

/-- A write to the register store, keeping its canonical form. -/
def regsSet (t : Tab Word) (a : Nat) (v : Word) : Tab Word :=
  if v = regDefault a then tabErase t a else tabPut t a v

/-- The device with one register word set. -/
def rgSet (d : Dev) (a : Nat) (v : Word) : Dev := { d with regs := regsSet d.regs a v }

/-- A saturating 36-bit counter register advanced by k. -/
def rgAdd (d : Dev) (a k : Nat) : Dev := rgSet d a (satInc (rg d a) k)

/-- Bits set in a register word. -/
def rgOr (d : Dev) (a : Nat) (m : Nat) : Dev := rgSet d a (rg d a ||| wd m)

/-- A master's own copy of a per-master register. -/
def pv (d : Dev) (m a : Nat) : Word := tabGet 0 d.priv (m * 2 ^ 24 + a)

/-- A write to a master's own copy. -/
def pvSet (d : Dev) (m a : Nat) (v : Word) : Dev := { d with priv := tabSet 0 d.priv (m * 2 ^ 24 + a) v }

/-- What a master's read of the register bus returned. -/
def rdSet (d : Dev) (m : Nat) (v : Word) : Dev := { d with rdata := tabSet 0 d.rdata m v }

/-- Is the identity a field core's? -/
def isF (m : Nat) : Bool := decide (0x20 ≤ m) && decide (m ≤ 0x23)

/-- Is the identity a host core's (H0 to H7)? -/
def isH (m : Nat) : Bool := decide (0x10 ≤ m) && decide (m ≤ 0x17)

/-- Is the identity a core's? -/
def isCore (m : Nat) : Bool := decide (m = 1) || isH m || isF m

/-- Masters on the field island's fabric: its cores and the Lockgate's field end (Table 14.3). -/
def isFieldMaster (m : Nat) : Bool := isF m || decide (m = 0xC1)

/-- The address of a register's copy on the master's own island, for a register with one copy on each. -/
def isl (m a : Nat) : Nat := if isFieldMaster m then a + 2 ^ 24 else a

/-! ### Free values -/

/-- n free octets. -/
def drawOct (d : Dev) (n : Nat) : Octets × Dev :=
  ((List.range n).map (fun i => Config.freeOctet (d.free + i)), { d with free := d.free + n })

/-- One free word. -/
def drawWord (d : Dev) : Word × Dev := (Config.freeWord d.free, { d with free := d.free + 1 })

/-! ### Bandwidth monitors (R447) -/

/-- n octets counted by a monitor. -/
def bwAdd (i n : Nat) (d : Dev) : Dev := { d with bw := { d.bw with count := tabSet 0 d.bw.count i (tabGet 0 d.bw.count i + n) } }

/-! ### Memories -/

/-- n octets of host memory as the device last wrote them. -/
def hostRd (d : Dev) (a n : Nat) : Octets := tabGetList 0 d.host a n

/-- Octets written to host memory. -/
def hostWr (d : Dev) (a : Nat) (o : Octets) : Dev := { d with host := tabSetList 0 d.host a o }

/-- One word of host-island memory. -/
def memRd (d : Dev) (a : Nat) : Word := tabGet 0 d.mem a

/-- R314: a write of the words from a on by a master other than a core takes away the core's reservation on their granules; `own` is the
writing core. -/
def loseResv (d : Dev) (own : Option Nat) (field : Bool) (a n : Nat) : Dev :=
  { d with cores := d.cores.map (fun e =>
      if some e.1 = own ∨ decide (0x20 ≤ e.1 ∧ e.1 ≤ 0x23) ≠ field then e
      else match e.2.resv with
        | some g => if a / 8 ≤ g ∧ g ≤ (a + n - 1) / 8 ∧ n ≠ 0 then (e.1, { e.2 with resv := none }) else e
        | none => e) }

/-- One word written to host-island memory. -/
def memWr (d : Dev) (a : Nat) (w : Word) : Dev := loseResv { d with mem := tabSet 0 d.mem a w } none false a 1

/-- Octets of host-island word memory, in the named packing. -/
def memRdOct (d : Dev) (dense : Bool) (a n : Nat) : Octets :=
  fitTo n (unpackOct dense (tabGetList 0 d.mem a (packLen dense n)))

/-- Octets written to host-island word memory, in the named packing; the unused part of the last word is zero. -/
def memWrOct (d : Dev) (dense : Bool) (a : Nat) (o : Octets) : Dev :=
  loseResv { d with mem := tabSetList 0 d.mem a (packOct dense o) } none false a (packOct dense o).length

/-- One word of field-island memory. -/
def fmRd (d : Dev) (a : Nat) : Word := tabGet 0 d.fmem a

/-- Words written to field-island memory from an address on. -/
def fmWr (d : Dev) (a : Nat) (ws : List Word) : Dev := loseResv { d with fmem := tabSetList 0 d.fmem a ws } none true a ws.length

/-! ### Budgets (R34 to R36) -/

/-- What is left of a budget in this pass. -/
def budgetLeft (d : Dev) (a : Nat) : Nat := rn d a - tabGet 0 d.spent a

/-- A budget debited. -/
def debit (d : Dev) (a c : Nat) : Dev := { d with spent := tabSet 0 d.spent a (tabGet 0 d.spent a + c) }

/-- What has been charged to a key in this pass. -/
def spentOf (d : Dev) (a : Nat) : Nat := tabGet 0 d.spent a

/-! ### Admitted inputs (R43 to R46) -/

/-- An input that arrives for a core in a given pass. -/
def pushInput (d : Dev) (core cls key pass : Nat) (data : List Nat) : Dev :=
  { d with pas := { d.pas with inq := d.pas.inq ++ [{ core := core, cls := cls, key := key, pass := pass, data := data }] } }

/-- The words that make the newest input visible, and the operation whose result it shows. -/
def noteMem (d : Dev) (mems : List (Nat × Nat)) (op : Option Nat := none) : Dev :=
  { d with pas := { d.pas with inq := d.pas.inq.modify (d.pas.inq.length - 1) (fun i => { i with mems := mems, op := op }) } }

/-- Keys of class 1 of R46 that follow the engine masters: command results by block, the exhaustion notice, inline events,
uncontrolled-port frames. -/
abbrev keyCmd (blk : Nat) : Nat := 0x100 + blk
abbrev keyExhaust : Nat := 0x200
abbrev keyInline (link : Nat) : Nat := 0x300 + link
abbrev keyUq (link : Nat) : Nat := 0x400 + link

/-- A read recorded as an admitted input (R45). -/
def recordRead (d : Dev) (core kind val : Nat) : Dev :=
  { d with pas := { d.pas with recorded := d.pas.recorded ++ [(core, kind, val)] } }

/-! ### Command registers with a per-master result (R108, R478) -/

def cmdKey (blk master : Nat) : Nat := blk * 256 + master

def cmdGet (d : Dev) (blk master : Nat) : CmdRes := tabGet {} d.cmds (cmdKey blk master)

def cmdSet (d : Dev) (blk master : Nat) (c : CmdRes) : Dev :=
  { d with cmds := tabSet {} d.cmds (cmdKey blk master) c }

/-- A command is taken: VALID clears and the command is outstanding. -/
def cmdStart (d : Dev) (blk master : Nat) : Dev := cmdSet d blk master ⟨true, false, 0⟩

/-- A command's result: STATUS[7:0], SUB_CODE[15:8] and the block's own bits, with VALID; seen by the core from the edge after the
pass given. -/
def cmdDone (d : Dev) (blk master st sub extra pass : Nat) : Dev :=
  pushInput (cmdSet d blk master ⟨false, true, st + sub * 256 + extra⟩) master 1 (keyCmd blk) pass [st, sub, extra]

/-- The result register word (VALID in bit 35). -/
def cmdWord (d : Dev) (blk master : Nat) : Word :=
  let c := cmdGet d blk master
  wd (c.word + b2n c.valid * 2 ^ 35)

/-! ### Operations in flight -/

/-- R79: entries of the context SRAM. -/
abbrev maxOps : Nat := 131072

def findOp (d : Dev) (id : Nat) : Option Op := d.ops.find? (fun o => decide (o.id = id))

/-- Does the operation take an entry of the context SRAM? A firmware command does only while its secret-dependent result is on its way
(R40, R42, R79); every other operation does. -/
def counted (o : Op) : Bool := match o.src with | .cmd _ _ => o.quant | _ => true

/-- Operations in flight device-wide (R79). -/
def inFlight (d : Dev) : Nat := (d.ops.filter counted).length

/-- The operation with an identifier, changed. -/
def setOp (d : Dev) (o : Op) : Dev := { d with ops := d.ops.map (fun x => if x.id = o.id then o else x) }

/-- The operation taken out of flight. -/
def dropOp (d : Dev) (id : Nat) : Dev := { d with ops := d.ops.filter (fun x => decide (x.id ≠ id)) }

/-- A new operation in flight; it takes the next identifier. -/
def addOp (d : Dev) (o : Op) : Dev :=
  { d with ops := d.ops ++ [{ o with id := d.opSeq }], opSeq := d.opSeq + 1 }

/-- R43: the identity a core's requests carry: each host core's context is 0x10 (R95). -/
def coreCtx (m : Nat) : Nat := if isH m then 0x10 else m

/-! ### Rings -/

def ringGet (d : Dev) (r : Nat) : Ring := tabGet {} d.rings r

def ringSet (d : Dev) (r : Nat) (x : Ring) : Dev := { d with rings := tabSet {} d.rings r x }

def ringAssign (d : Dev) (r : Nat) : Word := rg d (Reg.WHF_RING_ASSIGN + 8 * r)
def ringFn (d : Dev) (r : Nat) : Nat := fld (ringAssign d r) 5 0
def ringClass (d : Dev) (r : Nat) : Nat := fld (ringAssign d r) 10 8
def ringLane (d : Dev) (r : Nat) : Nat := fld (ringAssign d r) 14 12
def ringExpress (d : Dev) (r : Nat) : Bool := bit (ringAssign d r) 24

/-- Entries of a ring. -/
def Ring.size (x : Ring) : Nat := 2 ^ x.log2

/-- Distance from one position to another, modulo twice the size (R69). -/
def posDist (size a b : Nat) : Nat := (b % (2 * size) + 2 * size - a % (2 * size)) % (2 * size)

/-- The ring an operation came by. -/
def Op.ring? (o : Op) : Option Nat := match o.src with | .ring r _ => some r | _ => none

/-- Operations of a ring in flight, oldest first; those of a function since reset owe it no completion (R86). -/
def ringOps (d : Dev) (r : Nat) : List Op := d.ops.filter (fun o => decide (o.ring? = some r) && !o.dead)

/-- Is the operation one of REG_READ and HOLD_UNLOCK on a PF MGMT ring, which run in HOLD (R85)? -/
def runsInHold (d : Dev) (o : Op) : Bool :=
  match o.src with
  | .ring r _ => decide (o.opcode ∈ [0x59, 0x5A]) && decide (ringFn d r = 0) && decide (ringClass d r = 4)
  | _ => false

/-! ### Partition units (R56, Table 2.10) -/

def unitCount (kind : Nat) : Nat := [0, 8, 4, 16, 16, 32, 8, 4, 2].getD kind 0

/-- Offset of a kind's first PAS_PART_STATE word. -/
def unitOffset (kind : Nat) : Nat := [0, 0x40, 0x48, 0x50, 0x60, 0x70, 0x90, 0x98, 0x9C].getD kind 0

def unitKey (kind idx : Nat) : Nat := kind * 64 + idx

def part (d : Dev) (kind idx : Nat) : Part := tabGet {} d.pas.parts (unitKey kind idx)

def setPart (d : Dev) (kind idx : Nat) (p : Part) : Dev :=
  { d with pas := { d.pas with parts := tabSet {} d.pas.parts (unitKey kind idx) p } }

/-- Is the unit IN_SERVICE? -/
def inService (d : Dev) (kind idx : Nat) : Bool := decide ((part d kind idx).state = 0)

/-- Operations admitted to or held for a unit. -/
def unitOps (d : Dev) (kind idx : Nat) : List Op :=
  d.ops.filter (fun o => decide (o.unit = some (kind, idx)) && (decide (o.phase = .admitted) || decide (o.phase = .held)))

/-! ### Undefined outputs -/

/-- Destinations left undefined: each octet is a free value. -/
def scribbleHost (d : Dev) (a n : Nat) : Dev :=
  let x := drawOct d n
  hostWr x.2 a x.1

end Sys2Proof.Machine
end

