-- ==== Sys2Proof/Machine/Ladder.lean ====
section
/-! DEFINITION. The key-ladder record (R383, R398, R430): the basin keys, their epoch, the "has sealed" mark and the roster, in two copies in blocks 0 and 1
of data plane 2, under KEK 0. K's working copies of them are in `Dev.life`. The record's layout is the model's. DESIGN CHOICE (log entry 91). -/

namespace Sys2Proof.Machine

/-- Octets of the record: epoch, marks, the two basin keys, 64 roster entries of 64 octets, an empty one zero. -/
def recordBody (l : Life) : Octets :=
  leOct 4 l.kekEpoch ++ leOct 4 (b2n l.sealed + 2 * b2n (!l.kekBasin.isEmpty) + 4 * b2n (!l.kekBasinOld.isEmpty)) ++
    fitTo 32 l.kekBasin ++ fitTo 32 l.kekBasinOld ++ (List.range 64).flatMap (fun i => fitTo 64 (tabGet [] l.roster i))

/-- The working copies as a record's octets give them. -/
def recordTake (l : Life) (b : Octets) : Life :=
  let m := leAt b 4 4
  let entry := fun i => slice b (72 + 64 * i) 64
  { l with kekEpoch := leAt b 0 4, sealed := m.testBit 0, kekBasin := if m.testBit 1 then slice b 8 32 else [],
           kekBasinOld := if m.testBit 2 then slice b 40 32 else [],
           roster := ((List.range 64).filter (fun i => !allZero (entry i))).map (fun i => (i, entry i)) }

/-- No record: no basin key is held, and no officer. -/
def recordNone (l : Life) : Life := { l with kekEpoch := 0, sealed := false, kekBasin := [], kekBasinOld := [], roster := [] }

/-- The page that holds copy i. -/
def copyPage (i : Nat) : Nat := 256 * i

/-- A copy's octets: IV, ciphertext and tag under KEK 0, with the device identity as additional data. -/
def copySeal (l : Life) (iv : Octets) : Octets :=
  let r := gcmEnc l.kekDevice iv (fitTo 16 l.devid) (recordBody l)
  iv ++ r.1 ++ r.2

/-- The record of a copy, if its tag verifies. -/
def copyOpen (l : Life) (o : Octets) : Option Octets :=
  let r := gcmDec l.kekDevice (o.take 12) (fitTo 16 l.devid) (slice o 12 4168)
  if octEq r.2 (slice o 4180 16) then some r.1 else none

/-- The ladder's fixed path to its blocks of data plane 2 (R398). -/
def onPages (d : Dev) (f : Tab FlashPage → Tab FlashPage) : Dev :=
  let x := tabGet {} d.fls.planes 2
  { d with fls := { d.fls with planes := tabSet {} d.fls.planes 2 { x with pages := f x.pages } } }

/-- Both copies rewritten from K's working copies, each under a fresh IV; without KEK 0 there is no record. -/
def ladderWrite (d : Dev) : Dev :=
  if d.life.kekDevice.isEmpty then d
  else
    let x := drawOct d 24
    onPages x.2 (fun t => tabPut (tabPut t (copyPage 0) { data := copySeal d.life (x.1.take 12) })
      (copyPage 1) { data := copySeal d.life (x.1.drop 12) })

/-- The record read at start-up: the first copy whose tag verifies; `lost` are the copies that the flash does not read back. -/
def ladderRecord (lost : List Nat) (d : Dev) : Option Octets :=
  [0, 1].findSome? (fun i =>
    if i ∈ lost then none else (tabFind (tabGet {} d.fls.planes 2).pages (copyPage i)).bind (fun g => copyOpen d.life g.data))

/-- R383: the working copies taken from the record. A COLD or KEEP reset has lost the previous basin key (R216). -/
def ladderLoad (lost : List Nat) (cold : Bool) (d : Dev) : Dev :=
  let l := match ladderRecord lost d with
    | some b => recordTake d.life b
    | none => recordNone d.life
  if cold ∧ ¬ l.kekBasinOld.isEmpty then ladderWrite { d with life := { l with kekBasinOld := [] } } else { d with life := l }

end Sys2Proof.Machine
end

