-- ==== Sys2Proof/Machine/Sha.lean ====
section
/-! DEFINITION. SHA-256, SHA-384, SHA-512 (FIPS 180-4), SHA3-256, SHA3-384 (FIPS 202), and HMAC (FIPS 198-1), as the hash lanes
compute them (R90). PRESUMED: the published standards the manual names (log entry 6). -/

namespace Sys2Proof.Machine

/-! ### Constants of SHA-2: fractional parts of roots of primes -/

/-- Integer k-th root, built bit by bit. -/
def irootAux (k n : Nat) : Nat → Nat → Nat
  | 0, x => x
  | b + 1, x => let y := x + 2 ^ b; irootAux k n b (if y ^ k ≤ n then y else x)

def isPrimeN (n : Nat) : Bool := decide (2 ≤ n) && (List.range n).all (fun d => decide (d < 2) || decide (n % d ≠ 0))

def primes80 : List Nat := ((List.range 410).filter isPrimeN).take 80

/-- The first 64 bits of the fractional part of the k-th root of p. -/
def rootFrac64 (k p : Nat) : Nat := irootAux k (p * 2 ^ (64 * k)) 72 0 % 2 ^ 64

def k512 : List (BitVec 64) := primes80.map (fun p => BitVec.ofNat 64 (rootFrac64 3 p))
def k256 : List (BitVec 32) := (primes80.take 64).map (fun p => BitVec.ofNat 32 (rootFrac64 3 p / 2 ^ 32))
def iv256 : List (BitVec 32) := (primes80.take 8).map (fun p => BitVec.ofNat 32 (rootFrac64 2 p / 2 ^ 32))
def iv512 : List (BitVec 64) := (primes80.take 8).map (fun p => BitVec.ofNat 64 (rootFrac64 2 p))
def iv384 : List (BitVec 64) := ((primes80.drop 8).take 8).map (fun p => BitVec.ofNat 64 (rootFrac64 2 p))

/-- Rotation and shift amounts of SHA-2: Σ0, Σ1, σ0, σ1 (the last amount of σ is a shift). -/
structure Sha2Par where
  S0 : Nat × Nat × Nat
  S1 : Nat × Nat × Nat
  s0 : Nat × Nat × Nat
  s1 : Nat × Nat × Nat

def par256 : Sha2Par := ⟨(2, 13, 22), (6, 11, 25), (7, 18, 3), (17, 19, 10)⟩
def par512 : Sha2Par := ⟨(28, 34, 39), (14, 18, 41), (1, 8, 7), (19, 61, 6)⟩

def bigS {w : Nat} (p : Nat × Nat × Nat) (x : BitVec w) : BitVec w :=
  x.rotateRight p.1 ^^^ x.rotateRight p.2.1 ^^^ x.rotateRight p.2.2

def smallS {w : Nat} (p : Nat × Nat × Nat) (x : BitVec w) : BitVec w :=
  x.rotateRight p.1 ^^^ x.rotateRight p.2.1 ^^^ (x >>> p.2.2)

/-- Message schedule: words newest first, n more. -/
def schedAux {w : Nat} (q : Sha2Par) : Nat → List (BitVec w) → List (BitVec w)
  | 0, ws => ws
  | n + 1, ws =>
    let x := smallS q.s1 (ws.getD 1 0) + ws.getD 6 0 + smallS q.s0 (ws.getD 14 0) + ws.getD 15 0
    schedAux q n (x :: ws)

def sha2Round {w : Nat} (q : Sha2Par) (st : List (BitVec w)) (kw : BitVec w × BitVec w) : List (BitVec w) :=
  match st with
  | [a, b, c, d, e, f, g, h] =>
    let t1 := h + bigS q.S1 e + ((e &&& f) ^^^ (~~~e &&& g)) + kw.1 + kw.2
    let t2 := bigS q.S0 a + ((a &&& b) ^^^ (a &&& c) ^^^ (b &&& c))
    [t1 + t2, a, b, c, d + t1, e, f, g]
  | _ => st

def sha2Block {w : Nat} (q : Sha2Par) (k : List (BitVec w)) (wb : Nat) (h : List (BitVec w)) (blk : Octets) : List (BitVec w) :=
  let ws := (chunks wb blk).map (fun c => BitVec.ofNat w (beNat c))
  let sched := (schedAux q (k.length - 16) ws.reverse).reverse
  List.zipWith (· + ·) h ((k.zip sched).foldl (sha2Round q) h)

/-- Padding: one bit, zeros, and the bit length in the last 2·wb octets of a block of 16·wb. -/
def sha2Pad (wb : Nat) (m : Octets) : Octets :=
  let b := 16 * wb
  let n := m.length + 1 + 2 * wb
  m ++ [0x80] ++ zeros ((b - n % b) % b) ++ beOct (2 * wb) (8 * m.length)

def sha2 {w : Nat} (q : Sha2Par) (k iv : List (BitVec w)) (wb : Nat) (m : Octets) : Octets :=
  ((chunks (16 * wb) (sha2Pad wb m)).foldl (sha2Block q k wb) iv).flatMap (fun x => beOct wb x.toNat)

def sha256 (m : Octets) : Octets := sha2 par256 k256 iv256 4 m
def sha512 (m : Octets) : Octets := sha2 par512 k512 iv512 8 m
def sha384 (m : Octets) : Octets := (sha2 par512 k512 iv384 8 m).take 48

/-! ### SHA-3 -/

/-- The bit sequence of the Keccak round constants. -/
def rcBitAux : Nat → Nat → Nat
  | 0, r => r % 2
  | n + 1, r => rcBitAux n (let s := 2 * r; if 256 ≤ s then s ^^^ 0x171 else s)

def keccakRc (i : Nat) : BitVec 64 :=
  BitVec.ofNat 64 ((List.range 7).foldl (fun a j => a + rcBitAux ((7 * i + j) % 255) 1 * 2 ^ (2 ^ j - 1)) 0)

/-- Rotation offsets in the order π visits the lanes, with the lane's index x + 5·y. -/
def rhoAux : Nat → Nat → Nat × Nat → List (Nat × Nat)
  | 0, _, _ => []
  | n + 1, t, (x, y) => (x + 5 * y, (t + 1) * (t + 2) / 2 % 64) :: rhoAux n (t + 1) (y, (2 * x + 3 * y) % 5)

def rhoOf : List Nat := (List.range 25).map (fun i => (((rhoAux 24 0 (1, 0)).find? (fun p => decide (p.1 = i))).map (·.2)).getD 0)

def keccakRound (a : List (BitVec 64)) (rc : BitVec 64) : List (BitVec 64) :=
  let l := fun x y => a.getD (x % 5 + 5 * (y % 5)) 0
  let c := (List.range 5).map (fun x => l x 0 ^^^ l x 1 ^^^ l x 2 ^^^ l x 3 ^^^ l x 4)
  let dd := (List.range 5).map (fun x => c.getD ((x + 4) % 5) 0 ^^^ (c.getD ((x + 1) % 5) 0).rotateLeft 1)
  let th := (List.range 25).map (fun i => a.getD i 0 ^^^ dd.getD (i % 5) 0)
  let ro := (List.range 25).map (fun i => (th.getD i 0).rotateLeft (rhoOf.getD i 0))
  -- B[y, 2x+3y] = ro[x, y]; read at (x', y'): x = (x' + 3y') mod 5, y = x'
  let pi := (List.range 25).map (fun i => let x := i % 5; let y := i / 5; ro.getD ((x + 3 * y) % 5 + 5 * x) 0)
  let ch := (List.range 25).map (fun i =>
    let x := i % 5; let y := i / 5
    pi.getD i 0 ^^^ (~~~(pi.getD ((x + 1) % 5 + 5 * y) 0) &&& pi.getD ((x + 2) % 5 + 5 * y) 0))
  match ch with
  | [] => []
  | z :: r => (z ^^^ rc) :: r

def keccakF (a : List (BitVec 64)) : List (BitVec 64) := (List.range 24).foldl (fun s i => keccakRound s (keccakRc i)) a

def sha3 (rate outLen : Nat) (m : Octets) : Octets :=
  let padn := rate - m.length % rate
  let p := m ++ (if padn = 1 then [0x86] else [0x06] ++ zeros (padn - 2) ++ [0x80])
  let absorb := fun (s : List (BitVec 64)) (b : Octets) =>
    let ls := (chunks 8 b).map (fun c => BitVec.ofNat 64 (leNat c))
    keccakF (List.zipWith (· ^^^ ·) s (ls ++ List.replicate (25 - ls.length) 0))
  (((chunks rate p).foldl absorb (List.replicate 25 0)).flatMap (fun x => leOct 8 x.toNat)).take outLen

/-! ### The hash lanes' algorithms by ALG (Table 3.14) -/

/-- Block octets by ALG (Table 4.10). -/
def hashBlock (alg : Nat) : Nat :=
  if alg = 0 then 64 else if alg = 1 ∨ alg = 2 then 128 else if alg = 3 then 136 else 104

def hashOf (alg : Nat) (m : Octets) : Octets :=
  if alg = 0 then sha256 m else if alg = 1 then sha384 m else if alg = 2 then sha512 m
  else if alg = 3 then sha3 136 32 m else sha3 104 48 m

def hmacOf (alg : Nat) (key m : Octets) : Octets :=
  let b := hashBlock alg
  let k := fitTo b (if b < key.length then hashOf alg key else key)
  let x := fun (c : Octet) => k.map (· ^^^ c)
  hashOf alg (x 0x5C ++ hashOf alg (x 0x36 ++ m))

end Sys2Proof.Machine
end

