-- ==== Sys2Proof/Machine/Alarm.lean ====
section
/-! DEFINITION. Events of the tamper sources and their counting (R360, R361, R364, R365). What the aggregator does with the sources
that fired is in `Machine/Tamper.lean`. -/

namespace Sys2Proof.Machine

/-- Table 15.1: sources of class keyed. -/
def tmpKeyed (s : Nat) : Bool := decide (s ∈ [19, 21, 24, 28, 29])

/-- R361: condition sources. -/
def tmpCondition (s : Nat) : Bool := decide (s ≤ 19) || decide (s = 35) || decide (s = 38)

/-- The response of a source. -/
def tmpResponse (d : Dev) (s : Nat) : Nat := if tmpKeyed s then 5 else fld (rg d (Reg.TMP_SRC_CTL + s)) 2 0

/-- Its threshold: 0 acts as 1. -/
def tmpN (d : Dev) (s : Nat) : Nat := if tmpKeyed s then 1 else max 1 (fld (rg d (Reg.TMP_SRC_CTL + s)) 10 3)

/-- Its decay window in passes. -/
def tmpW (d : Dev) (s : Nat) : Nat := if tmpKeyed s then 0 else fld (rg d (Reg.TMP_SRC_CTL + s)) 35 11

def tmpStatus (d : Dev) (s : Nat) : Word := rg d (Reg.TMP_SRC_STATUS + s)
def tmpCount (d : Dev) (s : Nat) : Nat := fld (tmpStatus d s) 7 0

/-- Does the source read ASSERTED? -/
def tmpAsserted (d : Dev) (s : Nat) : Bool := bit (tmpStatus d s) 8

/-- R365: one event of a source: EVENTS advances; COUNT advances, and at N the source fires and COUNT returns to 0. -/
def tmpEvent (s : Nat) (d : Dev) : Dev :=
  if 39 ≤ s then d
  else
    let w := tmpStatus d s
    let w := setFld w 35 10 (min (2 ^ 26 - 1) (fld w 35 10 + 1))
    let c := fld w 7 0 + 1
    if tmpN d s ≤ c then
      let d := rgSet d (Reg.TMP_SRC_STATUS + s) (setBit (setFld w 7 0 0) 9 true)
      { d with tmp := { d.tmp with fired := if s ∈ d.tmp.fired then d.tmp.fired else d.tmp.fired ++ [s],
                                   since := tabSet 0 d.tmp.since s 0 } }
    else
      let d := rgSet d (Reg.TMP_SRC_STATUS + s) (setFld w 7 0 c)
      if c = 1 then { d with tmp := { d.tmp with since := tabSet 0 d.tmp.since s d.pas.count } } else d

/-- R361: the condition of a condition source asserts; one that is asserted already is no event. -/
def tmpAssert (s : Nat) (d : Dev) : Dev :=
  if ¬ tmpCondition s ∨ tmpAsserted d s then d
  else tmpEvent s (rgSet d (Reg.TMP_SRC_STATUS + s) (setBit (tmpStatus d s) 8 true))

/-- TAMPER_EVENT: an event of a source, whichever its kind. Without 12 V nothing but the keep cell's sampling is watched (R367). -/
def tamperEvent (s : Nat) (d : Dev) : Dev :=
  if ¬ d.rst.vin then d else if tmpCondition s then tmpAssert s d else tmpEvent s d

/-- TAMPER_CONDITION_CLEAR: the condition clears. -/
def tamperClear (s : Nat) (d : Dev) : Dev :=
  if tmpCondition s then rgSet d (Reg.TMP_SRC_STATUS + s) (setBit (tmpStatus d s) 8 false) else d

/-- A condition seen to clear: without 12 V only the keep cell's sampling sees one. -/
def tamperCleared (s : Nat) (d : Dev) : Dev := if d.rst.vin then tamperClear s d else d

/-- COUNT_DECAY: a COUNT whose window has passed returns to 0. -/
def countDecay (s : Nat) (d : Dev) : Dev :=
  if tmpW d s ≠ 0 ∧ tmpCount d s ≠ 0 ∧ tabGet 0 d.tmp.since s + tmpW d s ≤ d.pas.count then
    let d := rgSet d (Reg.TMP_SRC_STATUS + s) (setFld (tmpStatus d s) 7 0 0)
    { d with tmp := { d.tmp with since := tabSet 0 d.tmp.since s 0 } }
  else d

end Sys2Proof.Machine
end

