-- ==== Sys2Proof/Machine/Drbg.lean ====
section
/-! DEFINITION. CTR_DRBG of SP 800-90A with AES-256 and no derivation function (R181): its working state is a key and a counter block. -/

namespace Sys2Proof.Machine

/-- n output blocks from a counter block on, which is counted first, and the counter block they leave. -/
def drbgBlocks (r : List Octets) : Nat → Octets → List Octets × Octets
  | 0, v => ([], v)
  | n + 1, v =>
    let v := beOct 16 (beNat v + 1)
    let x := drbgBlocks r n v
    (aesEncR r v :: x.1, x.2)

/-- The update: 48 octets of provided data go into a new key and counter block. -/
def drbgUpdate (data key v : Octets) : Octets × Octets :=
  let t := xorOct (drbgBlocks (roundKeys key) 3 v).1.flatten (fitTo 48 data)
  (t.take 32, t.drop 32)

/-- A generate request for n blocks: the blocks, and the working state after the closing update. -/
def drbgGenerate (n : Nat) (key v : Octets) : List Octets × Octets × Octets :=
  let x := drbgBlocks (roundKeys key) n v
  (x.1, drbgUpdate [] key x.2)

/-- Instantiation from three pool blocks and the personalization string. -/
def drbgInstantiate (entropy pers : Octets) : Octets × Octets := drbgUpdate (xorOct (fitTo 48 entropy) (fitTo 48 pers)) (zeros 32) (zeros 16)

/-- R181: the personalization string: device identity, instance number, pass count. -/
def drbgPers (inst count : Nat) : Octets := (List.range 16).map Config.identity ++ [BitVec.ofNat 8 inst] ++ leOct 8 count

end Sys2Proof.Machine
end

