-- ==== Sys2Proof/Machine/Hopper.lean ====
section
/-! DEFINITION. Entropy and the Hopper (chapter 7): noise sources and failover, the pool, the two generators, hardware and software
draws, and raw-sample mode. The samples of the noise sources come with the commands; raw samples are free values. -/

namespace Sys2Proof.Machine

/-- The device with its Hopper changed. -/
def onHop (d : Dev) (f : Hopper → Hopper) : Dev := { d with hop := f d.hop }

def srcState (d : Dev) (s : Nat) : Nat := tabGet 0 d.hop.src s
def srcSet (d : Dev) (s st why : Nat) : Dev :=
  onHop d (fun h => { h with src := tabSet 0 h.src s st, why := tabSet 0 h.why s why })

/-- Sources, beginning after one and wrapping. -/
def srcAfter (s : Nat) : List Nat := (List.range 4).map (fun i => (s + 1 + i) % 4)

/-- The ACTIVE source, if any. -/
def activeSrc (d : Dev) : Option Nat := (List.range 4).find? (fun s => decide (srcState d s = 1))

/-! ### Service to hardware consumers (R183 to R186) -/

/-- Are hardware draws of n blocks served now? -/
def hopServes (d : Dev) (n : Nat := 1) : Bool :=
  decide (d.hop.state = 1) && !d.hop.hwStop && !d.keep.hold && decide (n ≤ d.hop.fifo.length)

/-- Table 7.2: the sub-code with which a hardware draw is refused now; none where it is served or waits. -/
def hopRefusal (d : Dev) : Option Nat :=
  if d.hop.state = 3 then some d.hop.cause
  else if d.hop.state = 2 then some 0x02
  else if d.hop.state = 1 ∧ d.hop.hwStop then some 0x04
  else none

/-- Sub-code of an ENTROPY_FAULT posted now. -/
def hopSub (d : Dev) : Nat := (hopRefusal d).getD 0

/-- Is a hardware draw refused now, in HOLD too (Table 7.3)? -/
def hopRefuses (d : Dev) : Bool := (hopRefusal d).isSome || d.keep.hold

/-- Does a draw of n blocks wait: the Hopper is STARTING, or its FIFO has to be refilled (Table 7.3, R171, R184)? -/
def hopWaits (d : Dev) (n : Nat := 1) : Bool := !hopRefuses d && !hopServes d n

/-- Cycles of the generation core in a pass, blocks of the FIFO, and blocks of a generate request (R184). -/
def coreCycles : Nat := 5000
def fifoSize : Nat := 256
def requestBlocks : Nat := 64

/-- R184: requests of the hardware instance while the FIFO has room for one and the core has cycles left for it (log entry 80). -/
def fifoRefill : Nat → Hopper → Hopper
  | 0, h => h
  | f + 1, h =>
    if fifoSize < h.fifo.length + requestBlocks ∨ coreCycles < h.cycles + requestBlocks + 3 then h
    else
      let g := drbgGenerate requestBlocks h.hwKey h.hwV
      fifoRefill f { h with fifo := h.fifo ++ g.1, hwKey := g.2.1, hwV := g.2.2, hwNow := h.hwNow + requestBlocks,
                            cycles := h.cycles + requestBlocks + 3 }

/-- The FIFO refilled while the hardware instance gives output. -/
def hwRefill (d : Dev) : Dev := if hopServes d 0 then onHop d (fifoRefill 4) else d

/-- n blocks of 16 octets taken from the FIFO by a hardware consumer, and the FIFO refilled. -/
def hwDraw (d : Dev) (n : Nat) : Octets × Dev :=
  ((d.hop.fifo.take n).flatten, hwRefill (onHop d (fun h => { h with fifo := h.fifo.drop n })))

/-- Generator states and ready blocks are wiped. -/
def wipeGens (h : Hopper) : Hopper :=
  { h with hwInst := false, swInst := false, hwStop := false, swStop := false, hwKey := [], hwV := [], swKey := [], swV := [], fifo := [] }

/-! ### Faults, failover (R177 to R179) -/

/-- FAULT with a cause: the pool and both generator states are wiped and the tamper source "entropy failure" is raised. -/
def hopFault (cause : Nat) (d : Dev) : Dev :=
  if d.hop.state = 3 then d
  else tmpEvent 33 (onHop d (fun h => { wipeGens h with state := 3, cause := cause, pool := [], buf := [], next := [] }))

/-- R179: no source is ACTIVE, STANDBY or TESTING. In RAW the mode goes on (R191). -/
def hopCheck (d : Dev) : Dev :=
  if (List.range 4).all (fun s => decide (srcState d s = 3)) ∧ d.hop.state ≠ 2 then hopFault 0x01 d else d

/-- R178: with no ACTIVE source, the next STANDBY source after one becomes ACTIVE; its output counts from its next window. -/
def promote (after : Nat) (d : Dev) : Dev :=
  match activeSrc d with
  | some _ => d
  | none =>
    match (srcAfter after).find? (fun s => decide (srcState d s = 2)) with
    | some s => onHop (srcSet d s 1 0) (fun h => { h with skip := tabSet false h.skip s true })
    | none => d

/-- Sources of a mask. -/
def maskSrcs (m : Nat) : List Nat := (List.range 4).filter (fun s => m.testBit s)

/-- R178: the sources fail a test together; each failure is counted; the next ACTIVE source is chosen once all have failed. A source
in its start-up test has its failure judged when that test ends. -/
def failSrcs (ss : List Nat) (why : Nat) (d : Dev) : Dev :=
  let ss := ss.filter (fun s => decide (srcState d s ≠ 0))
  let was := (activeSrc d).getD 3
  let d := ss.foldl (fun d s =>
    let d := rgAdd d (Reg.HOP_FAIL_COUNT + s) 1
    if srcState d s = 3 then d else srcSet d s 3 why) d
  hopCheck (promote was d)

/-- REPETITION_COUNT_FAILURE: the sources of a mask have given `run` identical consecutive samples (R176). -/
def rctFail (mask run : Nat) (d : Dev) : Dev :=
  if ¬ d.hop.up ∨ run < rn d Reg.HOP_RCT_CUTOFF then d else failSrcs (maskSrcs mask) 1 d

/-- Samples of packed octets, the first in bit 0 of the first octet. -/
def sampleBits (samples : Octets) : List Bool := samples.flatMap (fun o => (List.range 8).map (fun i => o.getLsbD i))

/-- Length of the longest run of identical consecutive samples; `last` is the sample before, `n` the run it ends, `best` the longest so far. -/
def longestRun : List Bool → Bool → Nat → Nat → Nat
  | [], _, _, best => best
  | b :: r, last, n, best => let k := if b == last then n + 1 else 1; longestRun r b k (max best k)

/-- R176: how often the first sample's value occurs in a window; the first sample is in bit 0 of the first octet. -/
def aptCount (samples : Octets) : Nat :=
  let bits := sampleBits samples
  (bits.filter (fun b => b == bits.headD false)).length

/-- R180: the block a window is conditioned to. -/
def condition (samples : Octets) : Octets := cmac ((List.range 32).map Config.condKey) (fitTo 128 samples)

/-- WINDOW_COMPLETE: the 1,024 samples of a window, packed; a passing window of the ACTIVE source is conditioned into the pool (R180). -/
def windowDone (s : Nat) (samples : Octets) (d : Dev) : Dev :=
  let cnt := aptCount (fitTo 128 samples)
  if 4 ≤ s ∨ ¬ d.hop.up ∨ srcState d s = 0 then d
  else if rn d Reg.HOP_APT_CUTOFF ≤ cnt then failSrcs [s] 2 (onHop d (fun h => { h with skip := tabSet false h.skip s false }))
  else
    let use := decide (srcState d s = 1) && !tabGet false d.hop.skip s && (decide (d.hop.state = 0) || decide (d.hop.state = 1))
    onHop d (fun h => { h with skip := tabSet false h.skip s false, pool := if use then (h.pool ++ [condition samples]).take 16 else h.pool })

/-- R177: do a source's 4,096 start-up samples pass both tests: the repetition count test, and the proportion test of each of their four windows? -/
def startupPass (d : Dev) (samples : Octets) : Bool :=
  let o := fitTo 512 samples
  decide (longestRun (sampleBits o) false 0 0 < rn d Reg.HOP_RCT_CUTOFF) &&
    (List.range 4).all (fun i => decide (aptCount (slice o (128 * i) 128) < rn d Reg.HOP_APT_CUTOFF))

/-- STARTUP_TEST_COMPLETE: the tests of the named sources end together, each over its samples, packed; the samples are discarded. -/
def startupDone (runs : Tab Octets) (d : Dev) : Dev :=
  let ss := if d.hop.up then (List.range 4).filter (fun s => (tabFind runs s).isSome && decide (srcState d s = 0)) else []
  let ok := fun (s : Nat) => startupPass d (tabGet [] runs s)
  let passed := ss.any ok
  let d := ss.foldl (fun d s => if ok s then srcSet d s 2 0 else srcSet (rgAdd d (Reg.HOP_FAIL_COUNT + s) 1) s 3 3) d
  let d := if passed ∧ d.hop.state = 3 then onHop d (fun h => { h with state := 0, cause := 0 }) else d
  let d := promote 3 d
  let d := onHop d (fun h => { h with skip := ss.foldl (fun t s => tabSet false t s false) h.skip })
  if ss.isEmpty then d else hopCheck d

/-- HOP_RETEST: K puts the named sources into TESTING. A write by any other master is dropped. -/
def hopRetest (m mask : Nat) (d : Dev) : Dev :=
  if m ≠ 1 then d
  else
    let was := (activeSrc d).getD 3
    let ss := (maskSrcs mask).filter (fun s => decide (srcState d s ≠ 0))
    promote was (ss.foldl (fun d s => srcSet d s 0 0) d)

/-! ### The generators (R181, R182) -/

/-- GENERATOR_INSTANTIATE: instance 0 hardware, 1 software. The hardware instance takes blocks first. -/
def hopInstantiate (inst : Nat) (katOk : Bool) (d : Dev) : Dev :=
  let h := d.hop
  if h.state ≠ 0 ∨ h.pool.length < 3 ∨ ¬ h.up ∨ d.keep.hold then d
  else if (inst = 0 ∧ h.hwInst) ∨ (inst = 1 ∧ (h.swInst ∨ ¬ h.hwInst)) ∨ 2 ≤ inst then d
  else if ¬ katOk then hopFault 0x03 d
  else
    let s := drbgInstantiate (h.pool.take 3).flatten (drbgPers inst d.pas.count)
    let h := { h with pool := h.pool.drop 3, cycles := h.cycles + 3 }
    let h := if inst = 0 then { h with hwInst := true, hwSeed := d.pas.count, hwStop := false, hwKey := s.1, hwV := s.2 }
             else { h with swInst := true, swSeed := d.pas.count, swStop := false, swKey := s.1, swV := s.2 }
    let d := { d with hop := h }
    if h.hwInst ∧ h.swInst then hwRefill (onHop d (fun h => { h with state := 1 })) else d

/-- Is an instance due for a reseed? -/
def reseedDue (d : Dev) (inst : Nat) : Bool :=
  let h := d.hop
  decide (h.state = 1) && decide ((if inst = 0 then h.hwSeed else h.swSeed) + rn d Reg.HOP_RESEED_INT ≤ d.pas.count)

/-- GENERATOR_RESEED: an instance that is due reseeds from three pool blocks, the hardware instance first. -/
def hopReseed (inst : Nat) (d : Dev) : Dev :=
  if ¬ reseedDue d inst ∨ d.hop.pool.length < 3 ∨ 2 ≤ inst ∨ (inst = 1 ∧ reseedDue d 0) ∨ d.keep.hold then d
  else onHop d (fun h =>
    let e := (h.pool.take 3).flatten
    let h := { h with pool := h.pool.drop 3, cycles := h.cycles + 3 }
    if inst = 0 then
      let s := drbgUpdate e h.hwKey h.hwV
      { h with hwSeed := d.pas.count, hwStop := false, hwKey := s.1, hwV := s.2 }
    else
      let s := drbgUpdate e h.swKey h.swV
      { h with swSeed := d.pas.count, swStop := false, swKey := s.1, swV := s.2 })

/-- RESEED_OVERDUE: an instance not reseeded within a further interval stops output. -/
def hopOverdue (inst : Nat) (d : Dev) : Dev :=
  let late := fun s => decide (s + 2 * rn d Reg.HOP_RESEED_INT ≤ d.pas.count)
  if d.hop.state ≠ 1 then d
  else if inst = 0 ∧ late d.hop.hwSeed then onHop d (fun h => { h with hwStop := true })
  else if inst = 1 ∧ late d.hop.swSeed then onHop d (fun h => { h with swStop := true })
  else d

/-- Both generators are lost and instantiated afresh: the Hopper enters STARTING, or FAULT while no source is healthy. From RAW, only windows that
begin afterwards are used (R191). -/
def hopRestart (d : Dev) : Dev :=
  let skips := fun (h : Hopper) =>
    if h.state = 2 then (List.range 4).foldl (fun t s => tabSet false t s true) h.skip else h.skip
  hopCheck (onHop d (fun h =>
    { wipeGens h with state := 0, cause := 0, buf := [], next := [], rawFifo := 0, rawGap := false, skip := skips h }))

/-- HOLD entered: generator states and software buffers are wiped. -/
def hopHold (d : Dev) : Dev :=
  onHop d (fun h => { wipeGens h with state := if h.state = 1 then 0 else h.state, buf := [], next := [] })

/-! ### Software draws (R187, R188) -/

/-- The cores with a draw buffer, in the order of HOP_SW_FILL. -/
def drawCore (i : Nat) : Nat := if i < 8 then 0x10 + i else 0x20 + (i - 8)

/-- Generation cycles of one buffer: its blocks and the closing update. -/
def fillCost (n : Nat) : Nat := if n = 0 then 0 else ceilDiv n 4 + 3

/-- n draws of 32 bits from one request of the software instance: four from a block, each of four octets, little-endian (log entry 80). -/
def swDraws (d : Dev) (n : Nat) : List Nat × Dev :=
  if n = 0 then ([], d)
  else
    let g := drbgGenerate (ceilDiv n 4) d.hop.swKey d.hop.swV
    (((chunks 4 g.1.flatten).take n).map leNat, onHop d (fun h => { h with swKey := g.2.1, swV := g.2.2 }))

/-- A core's buffer filled, while cycles are left: the buffers and what is left. -/
def fillOne (x : Dev × Nat × Tab (List Nat)) (i : Nat) : Dev × Nat × Tab (List Nat) :=
  let n := fld (rg x.1 (Reg.HOP_SW_FILL + i)) 3 0
  if x.2.1 < fillCost n then x
  else
    let r := swDraws x.1 n
    (r.2, x.2.1 - fillCost n, tabSet [] x.2.2 (drawCore i) r.1)

/-- The pass ends: HOP_HW_BLOCKS shows its blocks, and a new pass's cycles begin. -/
def hopTick (d : Dev) : Dev :=
  hwRefill (rgSet (onHop d (fun h => { h with hwNow := 0, cycles := 0, cyclesPrev := h.cycles })) Reg.HOP_HW_BLOCKS (wd d.hop.hwNow))

/-- R448: the stores of 16 draws for sampling, filled after the buffers from the cycles they leave: K's, then the host and the field cores' (log
entry 88). -/
def fillStores (cycles : Nat) (d : Dev) : Dev :=
  ((1 :: (List.range 12).map drawCore).foldl (fun x m =>
    let c := tabGet {} x.1.pmu m
    let n := 16 - c.draws.length
    if x.2 < fillCost n then x
    else
      let r := swDraws x.1 n
      ({ r.2 with pmu := tabSet {} r.2.pmu m { c with draws := c.draws ++ r.1 } }, x.2 - fillCost n)) (d, cycles)).1

/-- The edge's fill: what is left in every buffer is wiped, and the buffers are filled from the cycles the hardware instance left in the pass
before; the draws of the field cores are returned by core. -/
def hopFill (d : Dev) : Dev × Tab (List Nat) :=
  let d := onHop d (fun h => { h with buf := h.buf.filter (fun e => isF e.1) })
  if d.hop.state = 1 ∧ ¬ d.hop.swStop ∧ ¬ d.keep.hold then
    let r := (rotation 12 d.pas.count).foldl fillOne (d, coreCycles - d.hop.cyclesPrev, [])
    let d := fillStores r.2.1 r.1
    (onHop d (fun h => { h with buf := (r.2.2.filter (fun e => isH e.1)) ++ h.buf }), r.2.2.filter (fun e => isF e.1))
  else (d, [])

/-- A draw as HOP_SW_DRAW returns it: READY in bit 35. -/
def swDrawRead (m : Nat) (d : Dev) : Word × Dev :=
  match tabGet [] d.hop.buf m with
  | v :: r =>
    if d.hop.state = 1 ∧ ¬ d.hop.swStop ∧ ¬ d.keep.hold then
      (wd (v + 2 ^ 35), onHop d (fun h => { h with buf := tabSet [] h.buf m r }))
    else (0, pvSet d m Reg.HOP_SW_SHORT (satInc (pv d m Reg.HOP_SW_SHORT) 1))
  | [] => (0, pvSet d m Reg.HOP_SW_SHORT (satInc (pv d m Reg.HOP_SW_SHORT) 1))

/-! ### Raw-sample mode (R190, R191) -/

/-- May the master write ENABLE? -/
def rawMay (d : Dev) (m : Nat) : Bool :=
  (decide (m = 1) || decide (m = 2)) && (decide (d.life.state ≤ 1) || (d.life.sessOpen && d.life.scope.testBit 2))

/-- RAW ends: the Hopper enters STARTING and uses only windows that begin after it. -/
def rawEnd (d : Dev) : Dev :=
  let d := onHop d (fun h => { h with rawReq := none })
  if d.hop.state ≠ 2 then d else hopRestart d

/-- A write to HOP_RAW_CTL. -/
def rawCtlWrite (m : Nat) (v : Word) (d : Dev) : Dev :=
  let en := if rawMay d m then bit v 0 else bit (rg d Reg.HOP_RAW_CTL) 0
  let d' := rgSet d Reg.HOP_RAW_CTL (pack [(0, b2n en), (1, fld v 2 1)])
  if ¬ rawMay d m then d'
  else if en then (if d.hop.state = 2 then d' else onHop d' (fun h => { h with rawReq := h.rawReq.or (some d.pas.count) }))
  else rawEnd d'

/-- RAW_MODE_ENABLE: a write of ENABLE = 1 with a SOURCE. -/
def rawEnable (m src : Nat) (d : Dev) : Dev := rawCtlWrite m (pack [(0, 1), (1, src % 4)]) d

/-- RAW_MODE_ENTRY: at the edge after the request generator states, pool and software buffers are wiped. FAULT is left by a start-up test alone
(R179): there the request waits. -/
def rawEntry (d : Dev) : Dev :=
  match d.hop.rawReq with
  | some q =>
    if q < d.pas.count ∧ d.hop.state ≠ 3 then
      onHop d (fun h => { wipeGens h with state := 2, cause := 0, rawReq := none, pool := [], buf := [], next := [], rawFifo := 0, rawIn := 0, rawGap := false })
    else d
  | none => d

/-- RAW_MODE_EXIT: ENABLE is written 0. -/
def rawExit (m : Nat) (d : Dev) : Dev := rawCtlWrite m (setBit (rg d Reg.HOP_RAW_CTL) 0 false) d

/-- R174, R191: the samples of the pass that ends which no read has brought in yet. -/
def rawPass (d : Dev) : Dev :=
  if d.hop.state ≠ 2 then d
  else onHop d (fun h => let n := h.rawFifo + (1250 - h.rawIn); { h with rawFifo := min 1024 n, rawIn := 0, rawGap := h.rawGap || decide (1024 < n) })

/-- HOP_RAW_DATA_READ: `arrived` samples came in since the last read or edge; 32 of them are returned when they are there. -/
def hopRawDataRead (m arrived : Nat) (d : Dev) : Dev :=
  if d.hop.state ≠ 2 then rdSet d m 0
  else
    let lost := decide (1024 < d.hop.rawFifo + arrived)
    let n := min 1024 (d.hop.rawFifo + arrived)
    let gap := d.hop.rawGap || lost
    let d := onHop d (fun h => { h with rawIn := h.rawIn + arrived })
    if n < 32 then rdSet (onHop d (fun h => { h with rawFifo := n, rawGap := gap })) m 0
    else
      let x := drawWord d
      rdSet (onHop x.2 (fun h => { h with rawFifo := n - 32, rawGap := false })) m
        (wd (x.1.toNat % 2 ^ 32 + b2n gap * 2 ^ 34 + 2 ^ 35))

/-- A read of HOP_RAW_DATA over the register bus: how many samples the pass has brought since the last read is a free value (log entry 102). -/
def rawBusRead (m : Nat) (d : Dev) : Dev :=
  if d.hop.state ≠ 2 then rdSet d m 0
  else let x := drawWord d; hopRawDataRead m (x.1.toNat % (1251 - min 1250 d.hop.rawIn)) x.2

/-! ### Edges, resets, registers -/

/-- What the edge does in the Hopper before its fill: raw mode entry, reseeds and overdue instances. -/
def hopEdge (d : Dev) : Dev := hopOverdue 1 (hopOverdue 0 (hopReseed 1 (hopReseed 0 (rawEntry (rawPass d)))))

/-- A release of the Hopper from reset: every source runs its start-up test. -/
def hopRelease (d : Dev) : Dev := { d with hop := { up := true } }

/-- A core's buffer is wiped by its reset. -/
def hopCoreReset (m : Nat) (d : Dev) : Dev :=
  onHop d (fun h => { h with buf := tabErase h.buf m, next := tabErase h.next m })

/-- HOP_STATE (Table 7.5). -/
def hopStateWord (d : Dev) : Word :=
  let h := d.hop
  pack [(0, h.state), (2, (activeSrc d).getD 0), (8, if h.state = 3 then h.cause else if h.hwStop || h.swStop then 4 else 0), (16, h.pool.length),
    (21, b2n h.hwStop), (22, b2n h.swStop)]

/-- HOP_SRC_STATE. -/
def hopSrcWord (d : Dev) : Word :=
  pack ((List.range 4).flatMap (fun s => [(4 * s, srcState d s), (4 * s + 2, tabGet 0 d.hop.why s)]))

end Sys2Proof.Machine
end

