-- ==== Sys2Proof/Machine/Mpu.lean ====
section
/-! DEFINITION. The memory maps and the protection units (chapter 14): what each master reaches, the regions and the rule that governs a
word, refusals and their record, sealed words, and word check code failures. -/

namespace Sys2Proof.Machine

/-! ### Identities (Table 1.3, R21) -/

/-- Identities of Table 1.3; all others are reserved. -/
def isMaster (m : Nat) : Bool :=
  isCore m || decide (m = 2) || (decide (0x30 ≤ m) && decide (m ≤ 0x7F)) || (decide (0x80 ≤ m) && decide (m ≤ 0x87)) ||
    (decide (0x90 ≤ m) && decide (m ≤ 0x9F)) || decide (m ∈ [0xA0, 0xA8, 0xB0, 0xB8, 0xC0, 0xC1])

/-- Identities of the Wharf's functions. Their accesses come through the windows of Table 3.2 alone. -/
def isFn (m : Nat) : Bool := decide (0x40 ≤ m) && decide (m ≤ 0x7F)

/-! ### The code (R357, R358) -/

/-- Bits of a number, most significant first. -/
def msbBits (n v : Nat) : List Bool := (List.range n).map (fun i => v.testBit (n - 1 - i))

/-- One step of a CRC-8 with polynomial 0x2F. -/
def crcStep (c : Nat) (b : Bool) : Nat := if xor (c.testBit 7) b then (2 * c % 256) ^^^ 0x2F else 2 * c % 256

/-- R357: the word check code of a word: CRC-8 over the identity, the word address and the data word. -/
def wccCode (ident a : Nat) (w : Word) : Nat := (msbBits 8 ident ++ msbBits 36 a ++ msbBits 36 w.toNat).foldl crcStep 0xFF

/-- R358: what protects a stored word: 8 check bits of the 72-bit beat in DRAM (`mate` is the beat's other word), elsewhere the code over identity 0x00. -/
def storedCheck (a : Nat) (w mate : Word) : Nat :=
  if 0x100000000 ≤ a ∧ a ≤ 0x17FFFFFFF then (if a % 2 = 0 then Config.dramCheck w mate else Config.dramCheck mate w).toNat else wccCode 0 a w

/-- R358: a word whose code met an error pattern fails the check of its receiver, which computes the code anew: that of a word or request on its way over
its master's identity, that of a stored word as its store protects it. -/
def wccFails (stage ident a : Nat) (w mate : Word) (err : Nat) : Bool :=
  let c := if stage = 2 then storedCheck a w mate else wccCode ident a w
  decide (c ^^^ (err % 256) ≠ c)

/-- The other word of a 72-bit beat. -/
def beatMate (a : Nat) : Nat := if a % 2 = 0 then a + 1 else a - 1

/-! ### Maps (Tables 14.1 to 14.3) -/

/-- Masters of Table 1.3 that reach core SRAM and general DRAM. -/
def reachesRam (m : Nat) : Bool :=
  decide (m = 1) || isH m || decide (m = 2) || (decide (0x30 ≤ m) && decide (m ≤ 0x3F)) || (decide (0x80 ≤ m) && decide (m ≤ 0x87)) ||
    (decide (0x90 ≤ m) && decide (m ≤ 0x9F)) || decide (m ∈ [0xA8, 0xB0, 0xB8, 0xC0])

/-- Is an address in the inclusive range? -/
def inRange (a lo hi : Nat) : Bool := decide (lo ≤ a) && decide (a ≤ hi)

/-- The code plane whose read window holds the word. -/
def windowPlane (a : Nat) : Option Nat :=
  if inRange a 0x400000000 0x4071C71C5 then some 0 else if inRange a 0x480000000 0x4871C71C5 then some 1 else none

def inHostWindow (a : Nat) : Bool := inRange a 0x800000000 0xBFFFFFFFF
def inRegSpace (a : Nat) : Bool := inRange a 0xF00000000 0xF00FFFFFF

/-- Blocks of Table 14.2 on the host island: those of the field island too, whose CH fields it shows (R245). -/
def hostBlock (b : Nat) : Bool := decide (b ≤ 0x18) || (decide (0x20 ≤ b) && decide (b ≤ 0x24))

/-- Blocks of the field island's register space (R341), and the watchdog group of its RST block (Table 20.7). -/
def fieldBlock (b : Nat) : Bool := decide (b ∈ [0x00, 0x03, 0x07, 0x09, 0x0F, 0x18, 0x20, 0x21, 0x22, 0x23, 0x24])

/-- R340: is the word mapped, and does Table 14.1 or 14.3 list the master? -/
def mapped (d : Dev) (m a : Nat) : Bool :=
  if isFieldMaster m then
    (inRange a 0 0xFFFF && isF m) || inRange a 0x010000000 0x01007FFFF || (inRegSpace a && fieldBlock (a / 2 ^ 16 % 256))
  else
    (inRange a 0 0x3FFFF && decide (m = 1 ∨ m = 2)) || (inRange a 0x010000000 0x0100FFFFF && reachesRam m) ||
      (inRange a 0x020000000 0x02003FFFF && (decide (m = 1) || (decide (m = 2) && decide (d.life.state = 0)))) ||
      (inRange a 0x100000000 0x16FFFFFFF && reachesRam m) ||
      ((windowPlane a).isSome && (isH m || decide (m = 1 ∨ m = 2))) || (inHostWindow a && (isH m || decide (m = 1))) ||
      (inRegSpace a && hostBlock (a / 2 ^ 16 % 256))

/-! ### Regions (R344 to R346) -/

/-- Table 14.4: regions of a master; none for an identity that is no master. -/
def regionCount (m : Nat) : Nat :=
  if m = 1 then 16 else if isH m then 32
  else if m = 2 ∨ isF m ∨ (0x30 ≤ m ∧ m ≤ 0x40) ∨ (0x80 ≤ m ∧ m ≤ 0x87) ∨ (0x90 ≤ m ∧ m ≤ 0x9F) ∨ m ∈ [0xA0, 0xA8, 0xB0, 0xB8, 0xC0, 0xC1]
  then 8 else 0

/-- Every master with an MPU. -/
def mpuMasters : List Nat := (List.range 256).filter (fun m => decide (regionCount m ≠ 0))

/-- Address of word k of region r of a master. -/
def mpuAddr (m r k : Nat) : Nat := 0x070000 + 256 * m + 4 * r + k

/-- One region: first and last word covered, and its attributes. -/
structure Region where
  lo : Nat
  hi : Nat
  attr : Word
  deriving DecidableEq, Repr

/-- The region of three words, as `word` reads them. -/
def regionOf (word : Nat → Word) (m r : Nat) : Region :=
  ⟨fld (word (mpuAddr m r 0)) 35 4 * 16, fld (word (mpuAddr m r 1)) 35 4 * 16 + 15, word (mpuAddr m r 2)⟩

def region (d : Dev) (m r : Nat) : Region := regionOf (rg d) m r

def Region.enabled (g : Region) : Bool := bit g.attr 0
def Region.sealed (g : Region) : Bool := bit g.attr 10
def Region.owner (g : Region) : Nat := fld g.attr 23 16
def Region.covers (g : Region) (a : Nat) : Bool := g.enabled && decide (g.lo ≤ a) && decide (a ≤ g.hi)

/-- A right: 0 read, 1 write, 2 fetch, in a column. -/
def Region.grants (g : Region) (col right : Nat) : Bool := bit g.attr (1 + 3 * col + right)

/-- R346: the governing region of a word for an access that serves a context. A core's MPU has no OWNER. -/
def governing (d : Dev) (m ctx a : Nat) : Option Region :=
  ((List.range (regionCount m)).map (region d m)).find? (fun g => g.covers a && (isCore m || decide (g.owner = 0) || decide (g.owner = ctx)))

/-- R406: is a code plane's read window enabled? -/
def windowOn (d : Dev) (p : Nat) : Bool :=
  bit (rg d Reg.FLS_XIP_CTL) p && decide ((part d 8 p).state ≤ 1) && decide ((tabGet {} d.fls.planes p).state ≤ 1)

/-- Table 13.6: DETAIL of the refusal of one word; none where it is permitted. In BLANK the Towpath is not checked (R354). -/
def refusal (d : Dev) (m ctx col right a : Nat) : Option Nat :=
  if ¬ mapped d m a then some 1
  else if m = 2 ∧ d.life.state = 0 then none
  else match governing d m ctx a with
  | none => some 1
  | some g =>
    if ¬ g.grants col right then some 0
    else match windowPlane a with
    | some p => if windowOn d p then none else some 2
    | none => none

/-- The first refused word of an access of n words from a on, with its DETAIL (R348). -/
def refusedIn (d : Dev) (m ctx col right a n : Nat) : Option (Nat × Nat) :=
  (List.range n).findSome? (fun i => (refusal d m ctx col right (a + i)).map (fun t => (a + i, t)))

/-- R349: the refusing MPU's fault record, when it is not VALID, and its count. ACCESS as Table 13.6: 0 fetch, 2 read, 3 write. -/
def mpuRecord (m ident access a detail : Nat) (d : Dev) : Dev :=
  let b := 0x070000 + 256 * m
  let d := rgAdd d (b + 0xF3) 1
  if bit (rg d (b + 0xF2)) 35 then d
  else rgSet (rgSet d (b + 0xF1) (wd a)) (b + 0xF2) (pack [(0, ident % 256), (8, access), (11, detail), (35, 1)])

/-! ### Engine accesses (R345, R347, R349) -/

/-- Bursts of an access of n words from a on: at most 64 words, within a 64-word aligned block. -/
def bursts : Nat → Nat → Nat → List (Nat × Nat)
  | 0, _, _ => []
  | f + 1, a, n => if n = 0 then [] else let k := min n (64 - a % 64); (a, k) :: bursts f (a + k) (n - k)

/-- Rights column of the class of the context served. -/
def ctxCol (ident : Nat) : Nat := if ident = 1 then 0 else if 0x40 ≤ ident ∧ ident ≤ 0x7F then 2 else 1

/-- An engine's read of n words: is every burst permitted? A refusal is recorded. -/
def engRead (d : Dev) (m ident col a n : Nat) : Bool × Dev :=
  match (bursts (n + 1) a n).findSome? (fun b => refusedIn d m ident col 0 b.1 b.2) with
  | none => (true, d)
  | some (w, t) => (false, mpuRecord m ident 2 w t d)

/-- Words an engine writes burst by burst up to the first refusal, which is recorded (R349). -/
def engWrite (m ident col : Nat) : List (Nat × Nat) → List Word → Dev → Bool × Dev
  | [], _, d => (true, d)
  | (a, k) :: r, ws, d =>
    match refusedIn d m ident col 1 a k with
    | some (w, t) => (false, mpuRecord m ident 3 w t d)
    | none =>
      engWrite m ident col r (ws.drop k)
        (loseResv { d with mem := tabSetList 0 d.mem a (ws.take k) } none false a k)

/-- Words written by an engine from an address on. -/
def engWriteAt (d : Dev) (m ident col a : Nat) (ws : List Word) : Bool × Dev :=
  engWrite m ident col (bursts (ws.length + 1) a ws.length) ws d

/-- R107: the words lie in core SRAM or general DRAM. -/
def ramRange (a n : Nat) : Bool :=
  (decide (0x010000000 ≤ a) && decide (a + n ≤ 0x010100000)) || (decide (0x100000000 ≤ a) && decide (a + n ≤ 0x170000000))

/-- R350: are all words permitted to the submitting core at the level its doorbell or command was written at, in memory that an engine reaches? A refusal
of its MPU is recorded in its group. DEDUCED (log entry 44): a queue's descriptors and completions are judged so too. -/
def coreAllows (d : Dev) (m pl right a n : Nat) : Bool × Dev :=
  if ¬ ramRange a n then (false, d)
  else match refusedIn d m 0 pl right a n with
  | none => (true, d)
  | some (w, t) => (false, mpuRecord m m (if right = 0 then 2 else 3) w t d)

/-! ### Code plane windows (R339, R396) -/

/-- An octet of a code plane, in plane order; a blank page reads as ones. -/
def planeOct (d : Dev) (p off : Nat) : Octet :=
  let b := off / 2097152
  match tabFind (tabGet {} d.fls.planes p).pages (b * 256 + off % 2097152 / 16384) with
  | some pg => octAt pg.data (off % 16384)
  | none => 0xFF

/-- n octets of a plane. -/
def planeOcts (d : Dev) (p off n : Nat) : Octets := (List.range n).map (fun i => planeOct d p (off + i))

/-- Word i of a code plane's read window: half of nine octets packed dense. -/
def windowWord (d : Dev) (p i : Nat) : Word :=
  let v := leNat (planeOcts d p (9 * (i / 2)) 9)
  if i % 2 = 0 then wd (v % 2 ^ 36) else wd (v / 2 ^ 36)

/-- One word of host-island memory, through a code plane's window where it lies in one; the contents of the boot ROM are not given. -/
def memAny (d : Dev) (a : Nat) : Word :=
  match windowPlane a with
  | some p => windowWord d p (a - (if p = 0 then 0x400000000 else 0x480000000))
  | none => if a ≤ 0x3FFFF then Config.bootRom a else memRd d a

/-- Octets of host-island words in the named packing, windows included. -/
def memAnyOct (d : Dev) (dense : Bool) (a n : Nat) : Octets :=
  fitTo n (unpackOct dense ((List.range (packLen dense n)).map (fun i => memAny d (a + i))))

/-! ### Word check codes (R359) -/

/-- Table 14.10: segment of a stored word. -/
def wccSegment (field : Bool) (a : Nat) : Nat :=
  if field then 7 else if inRange a 0x020000000 0x02003FFFF then 1 else if inRange a 0x100000000 0x17FFFFFFF then 2
  else if inRegSpace a then 5 else if inRange a 0x010000000 0x0100FFFFF then 0 else 6

/-- Table 15.1: tamper source of a segment. -/
def wccSource (seg : Nat) : Nat := 20 + seg

/-- A word check code failure found in a segment: counted, recorded and raised. -/
def wccFail (seg m a stage : Nat) (d : Dev) : Dev :=
  let f := decide (seg = 7)
  let at_ := fun r => if f then r + 2 ^ 24 else r
  let d := rgAdd d (at_ (Reg.MPU_WCC_COUNT + seg)) 1
  let d := rgSet d (at_ Reg.MPU_WCC_LAST_ADDR) (wd a)
  let d := rgSet d (at_ Reg.MPU_WCC_LAST_INFO) (pack [(0, m % 256), (8, seg), (11, stage), (35, 1)])
  tamperEvent (wccSource seg) d

/-! ### Sealed words (R353) -/

/-- Do two inclusive ranges meet? -/
def meets (a b c e : Nat) : Bool := decide (a ≤ b) && decide (c ≤ e) && decide (a ≤ e) && decide (c ≤ b)

/-- Word ranges that are sealed on an island: the fixed areas of the host island, and every enabled region with SEALED = 1. -/
def sealedRanges (d : Dev) (field : Bool) : List (Nat × Nat) :=
  (if field then [] else [(0x020000000, 0x02003FFFF), (0x170000000, 0x17FFFFFFF)]) ++
  (mpuMasters.filter (fun m => decide (isFieldMaster m = field))).flatMap (fun m =>
    (((List.range (regionCount m)).map (region d m)).filter (fun g => g.enabled && g.sealed)).map (fun g => (g.lo, g.hi)))

def sealedWord (d : Dev) (field : Bool) (a : Nat) : Bool := (sealedRanges d field).any (fun r => decide (r.1 ≤ a) && decide (a ≤ r.2))

/-- Does a region, in use or not, cover a sealed word? -/
def Region.coversSealed (g : Region) (d : Dev) (field : Bool) : Bool := (sealedRanges d field).any (fun r => meets g.lo g.hi r.1 r.2)

/-- R353: is a change of a region protected? Its SEALED bit and what it covers count, whether it is in use or not (log entry 12). -/
def protectedChange (d : Dev) (m : Nat) (old new : Region) : Bool :=
  let f := isFieldMaster m
  old.sealed || new.sealed || old.coversSealed d f || new.coversSealed d f

/-- The region with one of its words replaced. -/
def regionWith (word : Nat → Word) (a : Nat) (v : Word) (m r : Nat) : Region :=
  regionOf (fun x => if x = a then v else word x) m r

/-- Writable bits of a region word: BASE and LIMIT, or the attributes. -/
def mpuMask (k : Nat) : Nat := if k = 2 then 0xFF07FF else 0xFFFFFFFF0

/-- R21: a transfer from a reserved identity is refused at its target and reported as a check code failure on the target's segment. -/
def fromMaster (m a : Nat) (f : Dev → Dev) (d : Dev) : Dev := if isMaster m then f d else wccFail (wccSegment false a) m a 0 d

/-- R351, R353: a live write of a region word by its core at P0, or of a host core's by K. A protected change is dropped with PSDROP. -/
def mpuRegionWrite (m pl a : Nat) (v : Word) (d : Dev) : Dev :=
  match mpuWord a with
  | none => d
  | some (g, r, k) =>
    if ¬ (isCore g ∧ r < regionCount g ∧ ((m = g ∧ pl = 0) ∨ (m = 1 ∧ isH g))) then d
    else
      let v := v &&& wd (mpuMask k)
      if protectedChange d g (region d g r) (regionWith (rg d) a v g r) then rgOr d (0x070000 + 256 * g + 0xF0) (2 ^ 6)
      else rgSet d a v

end Sys2Proof.Machine
end

