-- ==== Sys2Proof/Machine/Pk.lean ====
section
/-! DEFINITION. The public-key arithmetic the Grinder's recipes name (Table 6.6): modular arithmetic, short Weierstrass curves, ECDSA
(FIPS 186-5), X25519 (RFC 7748), Ed25519 (RFC 8032), RSA with CRT, and Miller–Rabin. PRESUMED: the published standards the manual names
(log entry 6). -/

namespace Sys2Proof.Machine

/-! ### Modular arithmetic -/

def powModAux : Nat → Nat → Nat → Nat → Nat → Nat
  | 0, _, _, _, acc => acc
  | f + 1, b, e, m, acc =>
    if e = 0 then acc else powModAux f (b * b % m) (e / 2) m (if e % 2 = 1 then acc * b % m else acc)

/-- b^e mod m; zero for a zero modulus. -/
def powMod (b e m : Nat) : Nat := if m = 0 then 0 else powModAux (Nat.log2 e + 1) (b % m) e m (1 % m)

def subMod (a b m : Nat) : Nat := (a % m + m - b % m) % m

/-- Euclid's algorithm on r0 and r1, with the coefficients of one of them kept modulo m. -/
def egcdAux (m : Nat) : Nat → Nat → Nat → Nat → Nat → Nat × Nat
  | 0, r0, _, s0, _ => (r0, s0)
  | f + 1, r0, r1, s0, s1 => if r1 = 0 then (r0, s0) else egcdAux m f r1 (r0 % r1) s1 (subMod s0 (r0 / r1 * s1) m)

/-- The inverse of a modulo m; zero where there is none. -/
def invMod (a m : Nat) : Nat :=
  if m = 0 then 0
  else
    let r := egcdAux m (2 * Nat.log2 m + 8) (a % m) m 1 0
    if r.1 = 1 then r.2 % m else 0

/-- Number of bits of a number. -/
def bitLen (n : Nat) : Nat := if n = 0 then 0 else Nat.log2 n + 1

/-! ### Short Weierstrass curves -/

/-- A curve y² = x³ + ax + b over the field of p elements, with generator, order and cofactor. -/
structure Weier where
  p : Nat
  a : Nat
  b : Nat
  gx : Nat
  gy : Nat
  n : Nat
  h : Nat
  deriving DecidableEq, Repr

/-- A point; none is the point at infinity. -/
abbrev Pt := Option (Nat × Nat)

def onCurve (c : Weier) (x y : Nat) : Bool :=
  decide (x < c.p) && decide (y < c.p) && decide (y * y % c.p = (x * x * x + c.a * x + c.b) % c.p)

def ptAdd (c : Weier) : Pt → Pt → Pt
  | none, q => q
  | q, none => q
  | some (x1, y1), some (x2, y2) =>
    let fin := fun (l : Nat) =>
      let x3 := subMod (l * l) (x1 + x2) c.p
      some (x3, subMod (l * subMod x1 x3 c.p) y1 c.p)
    if x1 = x2 then
      if (y1 + y2) % c.p = 0 then none
      else fin ((3 * x1 * x1 + c.a) * invMod (2 * y1) c.p % c.p)
    else fin (subMod y2 y1 c.p * invMod (subMod x2 x1 c.p) c.p % c.p)

def ptMulAux (c : Weier) : Nat → Nat → Pt → Pt → Pt
  | 0, _, _, acc => acc
  | f + 1, k, q, acc => if k = 0 then acc else ptMulAux c f (k / 2) (ptAdd c q q) (if k % 2 = 1 then ptAdd c acc q else acc)

/-- k times a point. -/
def ptMul (c : Weier) (k : Nat) (q : Pt) : Pt := ptMulAux c (bitLen k) k q none

def curveG (c : Weier) : Pt := some (c.gx, c.gy)

def p256 : Weier where
  p := 0xffffffff00000001000000000000000000000000ffffffffffffffffffffffff
  a := 0xffffffff00000001000000000000000000000000fffffffffffffffffffffffc
  b := 0x5ac635d8aa3a93e7b3ebbd55769886bc651d06b0cc53b0f63bce3c3e27d2604b
  gx := 0x6b17d1f2e12c4247f8bce6e563a440f277037d812deb33a0f4a13945d898c296
  gy := 0x4fe342e2fe1a7f9b8ee7eb4a7c0f9e162bce33576b315ececbb6406837bf51f5
  n := 0xffffffff00000000ffffffffffffffffbce6faada7179e84f3b9cac2fc632551
  h := 1

def p384 : Weier where
  p := 0xfffffffffffffffffffffffffffffffffffffffffffffffffffffffffffffffeffffffff0000000000000000ffffffff
  a := 0xfffffffffffffffffffffffffffffffffffffffffffffffffffffffffffffffeffffffff0000000000000000fffffffc
  b := 0xb3312fa7e23ee7e4988e056be3f82d19181d9c6efe8141120314088f5013875ac656398d8a2ed19d2a85c8edd3ec2aef
  gx := 0xaa87ca22be8b05378eb1c71ef320ad746e1d3b628ba79b9859f741e082542a385502f25dbf55296c3a545e3872760ab7
  gy := 0x3617de4a96262c6f5d9e98bf9292dc29f8f41dbd289a147ce9da3113b5f0b8c00a60b1ce1d7e819d7a431d7c90ea0e5f
  n := 0xffffffffffffffffffffffffffffffffffffffffffffffffc7634d81f4372ddf581a0db248b0a77aecec196accc52973
  h := 1

def p521 : Weier where
  p := 2 ^ 521 - 1
  a := 2 ^ 521 - 4
  b := 0x0051953eb9618e1c9a1f929a21a0b68540eea2da725b99b315f3b8b489918ef109e156193951ec7e937b1652c0bd3bb1bf073573df883d2c34f1ef451fd46b503f00
  gx := 0x00c6858e06b70404e9cd9e3ecb662395b4429c648139053fb521f828af606b4d3dbaa14b5e77efe75928fe1dc127a2ffa8de3348b3c1856a429bf97e7e31c2e5bd66
  gy := 0x011839296a789a3bc0045c8a5fb42c7d1bd998f54449579b446817afbd17273e662c97ee72995ef42640c550b9013fad0761353c7086a272c24088be94769fd16650
  n := (2 ^ 261 - 1) * 2 ^ 260 + 0xa51868783bf2f966b7fcc0148f709a5d03bb5c9b8899c47aebb6fb71e91386409
  h := 1

/-! ### ECDSA (FIPS 186-5) -/

/-- The leftmost bits of a digest as a number. -/
def digestNum (n : Nat) (dg : Octets) : Nat := beNat dg >>> (8 * dg.length - bitLen n)

/-- A signature under scalar d with the per-signature value k and the point k·G; none where r or s is zero. -/
def ecdsaWith (c : Weier) (d k : Nat) (kg : Pt) (dg : Octets) : Option (Nat × Nat) :=
  match kg with
  | none => none
  | some (x, _) =>
    let r := x % c.n
    let s := invMod k c.n * ((digestNum c.n dg + r * d) % c.n) % c.n
    if r = 0 ∨ s = 0 then none else some (r, s)

def ecdsaSign (c : Weier) (d k : Nat) (dg : Octets) : Option (Nat × Nat) := ecdsaWith c d k (ptMul c k (curveG c)) dg

def inScalar (c : Weier) (k : Nat) : Bool := decide (1 ≤ k) && decide (k < c.n)

def ecdsaVerify (c : Weier) (qx qy : Nat) (dg : Octets) (r s : Nat) : Bool :=
  inScalar c r && inScalar c s && onCurve c qx qy &&
    (let w := invMod s c.n
     match ptAdd c (ptMul c (digestNum c.n dg * w % c.n) (curveG c)) (ptMul c (r * w % c.n) (some (qx, qy))) with
     | none => false
     | some (x, _) => decide (x % c.n = r))

/-! ### X25519 (RFC 7748) -/

def p25519 : Nat := 2 ^ 255 - 19

/-- The scalar an X25519 private key stands for. -/
def clamp25519 (k : Octets) : Nat :=
  let n := leNat k % 2 ^ 255
  n - n % 8 - (n / 2 ^ 254 % 2) * 2 ^ 254 + 2 ^ 254

structure Mont where
  x2 : Nat
  z2 : Nat
  x3 : Nat
  z3 : Nat

def montStep (x1 : Nat) (bit : Bool) (s : Mont) : Mont :=
  let q := p25519
  let sw := fun (s : Mont) => if bit then Mont.mk s.x3 s.z3 s.x2 s.z2 else s
  let s := sw s
  let a := (s.x2 + s.z2) % q
  let aa := a * a % q
  let b := subMod s.x2 s.z2 q
  let bb := b * b % q
  let e := subMod aa bb q
  let da := subMod s.x3 s.z3 q * a % q
  let cb := (s.x3 + s.z3) % q * b % q
  sw ⟨aa * bb % q, e * ((aa + 121665 * e) % q) % q, (da + cb) * (da + cb) % q,
      x1 * (subMod da cb q * subMod da cb q % q) % q⟩

/-- The shared u-coordinate, 32 octets. -/
def x25519 (k u : Octets) : Octets :=
  let x1 := leNat u % 2 ^ 255 % p25519
  let n := clamp25519 k
  let s := (List.range 255).reverse.foldl (fun s i => montStep x1 (n.testBit i) s) ⟨1, 0, x1, 1⟩
  leOct 32 (s.x2 * powMod s.z2 (p25519 - 2) p25519 % p25519)

def x25519Base (k : Octets) : Octets := x25519 k (leOct 32 9)

/-! ### Ed25519 (RFC 8032) -/

def edD : Nat := subMod 0 (121665 * invMod 121666 p25519) p25519
def edL : Nat := 2 ^ 252 + 27742317777372353535851937790883648493

/-- A point in affine coordinates of the twisted Edwards curve. -/
def edAdd (a b : Nat × Nat) : Nat × Nat :=
  let q := p25519
  let t := edD * (a.1 * b.1 % q * (a.2 * b.2 % q) % q) % q
  ((a.1 * b.2 + a.2 * b.1) % q * invMod (1 + t) q % q, (a.2 * b.2 + a.1 * b.1) % q * invMod (subMod 1 t q) q % q)

def edMulAux : Nat → Nat → Nat × Nat → Nat × Nat → Nat × Nat
  | 0, _, _, acc => acc
  | f + 1, k, q, acc => if k = 0 then acc else edMulAux f (k / 2) (edAdd q q) (if k % 2 = 1 then edAdd acc q else acc)

def edMul (k : Nat) (q : Nat × Nat) : Nat × Nat := edMulAux (bitLen k) k q (0, 1)

/-- The x-coordinate of a point with this y and sign, if there is one. -/
def edRecoverX (y sign : Nat) : Option Nat :=
  let q := p25519
  if q ≤ y then none
  else
    let x2 := subMod (y * y) 1 q * invMod (edD * (y * y % q) + 1) q % q
    if x2 = 0 then (if sign = 0 then some 0 else none)
    else
      let x := powMod x2 ((q + 3) / 8) q
      let x := if x * x % q = x2 then x else x * powMod 2 ((q - 1) / 4) q % q
      if x * x % q ≠ x2 then none else some (if x % 2 = sign then x else q - x)

def edBase : Nat × Nat :=
  let y := 4 * invMod 5 p25519 % p25519
  ((edRecoverX y 0).getD 0, y)

def edEncode (p : Nat × Nat) : Octets := leOct 32 (p.2 + (p.1 % 2) * 2 ^ 255)

def edDecode (o : Octets) : Option (Nat × Nat) :=
  let n := leNat o
  (edRecoverX (n % 2 ^ 255) (n / 2 ^ 255)).map (fun x => (x, n % 2 ^ 255))

def edPublic (seed : Octets) : Octets := edEncode (edMul (clamp25519 ((sha512 seed).take 32)) edBase)

def edSign (seed m : Octets) : Octets :=
  let h := sha512 seed
  let a := clamp25519 (h.take 32)
  let pub := edPublic seed
  let r := leNat (sha512 (h.drop 32 ++ m)) % edL
  let rr := edEncode (edMul r edBase)
  let k := leNat (sha512 (rr ++ pub ++ m)) % edL
  rr ++ leOct 32 ((r + k * a) % edL)

def edVerify (pub m sig : Octets) : Bool :=
  match edDecode pub, edDecode (sig.take 32) with
  | some a, some r =>
    let s := leNat (sig.drop 32)
    let k := leNat (sha512 (sig.take 32 ++ pub ++ m)) % edL
    decide (s < edL) && decide (edMul s edBase = edAdd r (edMul k a))
  | _, _ => false

/-! ### RSA and primality -/

/-- R157, R160: the private operation by CRT from the key material of k bits; also the modulus and the public exponent. -/
structure RsaKey where
  n : Nat
  e : Nat
  p : Nat
  q : Nat
  dp : Nat
  dq : Nat
  qinv : Nat

def rsaKeyOf (k : Nat) (m : Octets) : RsaKey :=
  let l := k / 8
  let h := k / 16
  let at_ := fun i => leAt m (l + 8 + h * i) h
  ⟨leAt m 0 l, leAt m l 8, at_ 0, at_ 1, at_ 2, at_ 3, at_ 4⟩

def rsaCrt (key : RsaKey) (c : Nat) : Nat :=
  let m1 := powMod c key.dp key.p
  let m2 := powMod c key.dq key.q
  let hh := key.qinv * subMod m1 m2 key.p % key.p
  m2 + hh * key.q

/-- R169: the private operation blinded: exponents dp + r1·(p - 1) and dq + r2·(q - 1), base c·r^e, the factor r^-1 removed afterwards. -/
def rsaBlind (key : RsaKey) (r1 r2 r c : Nat) : Nat :=
  rsaCrt { key with dp := key.dp + r1 * (key.p - 1), dq := key.dq + r2 * (key.q - 1) } (c * powMod r key.e key.n % key.n) * invMod r key.n % key.n

/-- One round of Miller–Rabin on odd n with n - 1 = d·2^r. -/
def mrLoop (n : Nat) : Nat → Nat → Bool
  | 0, _ => false
  | r + 1, x => decide (x = n - 1) || mrLoop n r (x * x % n)

def mrSplit : Nat → Nat → Nat → Nat × Nat
  | 0, d, r => (d, r)
  | f + 1, d, r => if d % 2 = 0 then mrSplit f (d / 2) (r + 1) else (d, r)

def mrRound (n a : Nat) : Bool :=
  let dr := mrSplit (bitLen n) (n - 1) 0
  let x := powMod a dr.1 n
  decide (x = 1) || mrLoop n dr.2 x

/-- Probable primality with the given bases (each reduced into 2 … n - 2). -/
def probablePrime (n : Nat) (bases : List Nat) : Bool :=
  if n < 4 then decide (n = 2 ∨ n = 3)
  else if n % 2 = 0 then false
  else bases.all (fun b => mrRound n (2 + b % (n - 3)))

end Sys2Proof.Machine
end

