-- ==== Sys2Proof/Machine/Recipe.lean ====
section
/-! DEFINITION. The Grinder's recipe catalogue (Table 6.6): operands, results, bounds. -/

namespace Sys2Proof.Machine

/-- What a recipe does. -/
inductive Recipe where
  | rsaPub (bits : Nat)
  | rsaPriv (bits : Nat)
  | ecSign (c : Nat)
  | ecVerify (c : Nat)
  | ecdh (c : Nat)
  | ecKeygen (c : Nat)
  | x25519
  | x25519Keygen
  | edSign
  | edVerify
  | edKeygen
  | curveSign
  | curveVerify
  | curveEcdh
  | curveKeygen
  | curveLoad
  | curveErase
  deriving DecidableEq, Repr

def recipeOf (n : Nat) : Option Recipe :=
  match n with
  | 0x0101 => some (.rsaPub 2048) | 0x0102 => some (.rsaPub 3072) | 0x0103 => some (.rsaPub 4096)
  | 0x0111 => some (.rsaPriv 2048) | 0x0112 => some (.rsaPriv 3072) | 0x0113 => some (.rsaPriv 4096)
  | 0x0201 => some (.ecSign 256) | 0x0202 => some (.ecSign 384) | 0x0203 => some (.ecSign 521)
  | 0x0211 => some (.ecVerify 256) | 0x0212 => some (.ecVerify 384) | 0x0213 => some (.ecVerify 521)
  | 0x0221 => some (.ecdh 256) | 0x0222 => some (.ecdh 384) | 0x0223 => some (.ecdh 521)
  | 0x0231 => some (.ecKeygen 256) | 0x0232 => some (.ecKeygen 384) | 0x0233 => some (.ecKeygen 521)
  | 0x0301 => some .x25519 | 0x0302 => some .x25519Keygen
  | 0x0311 => some .edSign | 0x0312 => some .edVerify | 0x0313 => some .edKeygen
  | 0x0401 => some .curveSign | 0x0402 => some .curveVerify | 0x0403 => some .curveEcdh | 0x0404 => some .curveKeygen
  | 0x0410 => some .curveLoad | 0x0411 => some .curveErase
  | _ => none

def fixedCurve (c : Nat) : Weier := if c = 256 then p256 else if c = 384 then p384 else p521

/-- L: octets of a curve operand. -/
def fixedLen (c : Nat) : Nat := ceilDiv c 8

/-- 0 public, 1 private, 2 curve management. -/
def Recipe.cls : Recipe → Nat
  | .rsaPub _ | .ecVerify _ | .edVerify | .curveVerify => 0
  | .curveLoad | .curveErase => 2
  | _ => 1

/-- The ALG of the key the recipe uses or generates; none for a public or curve-management recipe. -/
def Recipe.alg : Recipe → Option Nat
  | .rsaPriv b => some (if b = 2048 then 0x40 else if b = 3072 then 0x41 else 0x42)
  | .ecSign c | .ecdh c | .ecKeygen c => some (if c = 256 then 0x48 else if c = 384 then 0x49 else 0x4A)
  | .x25519 | .x25519Keygen => some 0x4B
  | .edSign | .edKeygen => some 0x4C
  | .curveSign | .curveEcdh | .curveKeygen => some 0x50
  | _ => none

/-- Does the recipe generate a key? -/
def Recipe.keygen : Recipe → Bool
  | .ecKeygen _ | .x25519Keygen | .edKeygen | .curveKeygen => true
  | _ => false

/-- Does the recipe take a curve slot? -/
def Recipe.curve : Recipe → Bool
  | .curveSign | .curveVerify | .curveEcdh | .curveKeygen | .curveLoad | .curveErase => true
  | _ => false

/-- Operand lengths accepted, as lowest and highest; a curve operand has from m to k octets, both M of the curve in the slot where it is known. -/
def Recipe.operands (m k : Nat) : Recipe → List (Nat × Nat)
  | .rsaPub b => [(b / 8, b / 8), (1, 8), (b / 8, b / 8)]
  | .rsaPriv b => [(b / 8, b / 8)]
  | .ecSign _ | .curveSign => [(1, 64)]
  | .ecVerify c => let l := fixedLen c; [(l, l), (l, l), (1, 64), (l, l), (l, l)]
  | .ecdh c => let l := fixedLen c; [(l, l), (l, l)]
  | .ecKeygen _ | .x25519Keygen | .edKeygen | .curveKeygen => [(32, 32)]
  | .x25519 => [(32, 32)]
  | .edSign => [(0, 4096)]
  | .edVerify => [(32, 32), (0, 4096), (64, 64)]
  | .curveVerify => [(m, k), (m, k), (1, 64), (m, k), (m, k)]
  | .curveEcdh => [(m, k), (m, k)]
  | .curveLoad => [(m, k), (m, k), (m, k), (m, k), (m, k), (m, k), (1, 1)]
  | .curveErase => []

/-- Result lengths. -/
def Recipe.results (m : Nat) : Recipe → List Nat
  | .rsaPub b | .rsaPriv b => [b / 8]
  | .ecSign c => [fixedLen c, fixedLen c]
  | .ecdh c => [fixedLen c]
  | .ecKeygen c => [fixedLen c, fixedLen c]
  | .x25519 | .x25519Keygen | .edKeygen => [32]
  | .edSign => [64]
  | .curveSign | .curveKeygen => [m, m]
  | .curveEcdh => [m]
  | .curveLoad => [1]
  | .ecVerify _ | .edVerify | .curveVerify | .curveErase => []

/-- Completion bound B in passes; bp is bits(p) of the curve in the slot. -/
def Recipe.bound (bp : Nat) : Recipe → Nat
  | .rsaPub b => if b = 2048 then 4 else if b = 3072 then 8 else 13
  | .rsaPriv b => if b = 2048 then 24 else if b = 3072 then 62 else 181
  | .ecSign c | .ecKeygen c => if c = 256 then 5 else if c = 384 then 11 else 24
  | .ecVerify c => if c = 256 then 6 else if c = 384 then 14 else 31
  | .ecdh c => if c = 256 then 5 else if c = 384 then 11 else 23
  | .x25519 | .x25519Keygen => 4
  | .edSign | .edKeygen => 5
  | .edVerify => 6
  | .curveSign | .curveKeygen => if bp ≤ 256 then 6 else if bp ≤ 384 then 14 else 30
  | .curveVerify => if bp ≤ 256 then 8 else if bp ≤ 384 then 18 else 39
  | .curveEcdh => if bp ≤ 256 then 6 else if bp ≤ 384 then 13 else 28
  | .curveLoad => 151
  | .curveErase => 2

end Sys2Proof.Machine
end

