-- ==== Sys2Proof/Machine/Wharf.lean ====
section
/-! DEFINITION. The Wharf (chapter 3): doorbells, ring states, descriptor fetch and staging, the way a result is held, delivered
and posted, completion entries, interrupts, and the reset of a function. -/

namespace Sys2Proof.Machine

/-! ### Interrupts (R84) -/

def msixGet (d : Dev) (f : Nat) : Msix := tabGet {} d.msix f

/-- A function's vector fires: never at or above its COUNT; a masked vector is left pending. DESIGN CHOICE (log entry 75): Bus Master Enable and the
power state are not looked at: the message of an unmasked vector is counted as sent. -/
def fireVec (d : Dev) (f v : Nat) : Dev :=
  let m := msixGet d f
  if ¬ v < rn d (Reg.WHF_FN_VEC + f) then d
  else if m.enable && !m.fmask && tabGet false m.open_ v then
    { d with msgs := tabSet 0 d.msgs (f * 4096 + v) (tabGet 0 d.msgs (f * 4096 + v) + 1) }
  else { d with msix := tabSet {} d.msix f { m with pba := tabSet false m.pba v true } }

/-- The ring's vector fires; every completion written so far is signalled. -/
def ringFire (d : Dev) (r : Nat) : Dev :=
  let x := ringGet d r
  fireVec (ringSet d r { x with unsig := 0, unsigAt := 0 }) (ringFn d r) (fld (rg d (Reg.WHF_RING_INT + 8 * r)) 10 0)

/-! ### Completion entries (Table 3.15) -/

/-- Is the function allowed to write host memory: Bus Master Enable set, and not in D3hot? -/
def busMaster (d : Dev) (f : Nat) : Bool := tabGet false d.pcieBme f && !tabGet false d.d3 f

/-- Is the function there: the PF, or a VF that NumVFs enables? -/
def fnPresent (d : Dev) (f : Nat) : Bool := decide (f = 0) || decide (f ≤ d.numVfs)

/-- The 32 octets of a completion written at a position of a ring of n entries. -/
def cplOctets (n cqPos sqPos pass : Nat) (o : Op) : Octets :=
  leOct 4 o.opTag ++ leOct 1 o.status ++ leOct 1 o.sub ++
    leOct 1 ((if cqPos < n then 1 else 0) + 2 * b2n o.quant) ++ leOct 1 0 ++ leOct 2 ((sqPos + 1) % n) ++ leOct 2 0 ++
    leOct 4 o.resLen ++ leOct 8 pass ++ leOct 8 o.result

/-- A write towards a function's host memory: dropped and counted while its Bus Master Enable is clear (R88). -/
def fnWrite (d : Dev) (f a : Nat) (o : Octets) : Dev :=
  if busMaster d f then hostWr d a o else rgAdd d Reg.WHF_LATE_DISCARDS 1

/-- Is a completion slot of the ring free? -/
def cqFree (x : Ring) : Bool := decide (posDist x.size x.cqHead x.cq < x.size)

/-- R81, R83, R84: the completion of the ring's oldest operation is written, if it has ended, its completion is due and a slot is
free. Output octets still owed are written first. -/
def postOne (d : Dev) (r : Nat) : Option Dev :=
  let x := ringGet d r
  match ringOps d r with
  | [] => none
  | o :: _ =>
    if o.phase = .ended ∧ o.dueAt ≤ d.pas.count ∧ cqFree x then
      let f := ringFn d r
      let sq := match o.src with | .ring _ p => p | _ => 0
      let base := ofLoHi (rg d (Reg.WHF_CQ_BASE_LO + 8 * r)) (rg d (Reg.WHF_CQ_BASE_HI + 8 * r))
      let d := fnWrite d f (base + 32 * (x.cq % x.size)) (cplOctets x.size x.cq (sq % x.size) d.pas.count o)
      let x := { x with cq := (x.cq + 1) % (2 * x.size), unsig := x.unsig + 1,
                        unsigAt := if x.unsig = 0 then d.pas.count else x.unsigAt }
      let d := dropOp (ringSet d r x) o.id
      let modc := fld (rg d (Reg.WHF_RING_INT + 8 * r)) 35 20
      some (if o.intr ∨ (modc ≠ 0 ∧ modc ≤ x.unsig) then ringFire d r else d)
    else none

/-- Completions of a ring written while they can be (fuel bounds the count). -/
def postRing : Nat → Nat → Dev → Dev
  | 0, _, d => d
  | n + 1, r, d => match postOne d r with
    | some d' => postRing n r d'
    | none => d

/-- The rings that have an operation in flight, rising. -/
def busyRings (d : Dev) : List Nat := (List.range 1024).filter (fun r => d.ops.any (fun o => decide (o.ring? = some r)))

/-- Every completion that can be written is written. -/
def postAll (d : Dev) : Dev := (busyRings d).foldl (fun d r => postRing d.ops.length r d) d

/-! ### Firmware queues -/

/-- Base registers of a firmware queue group: CLN (cipher and hash) and GRD queues. -/
def fqBase (o : OpSrc) : Option (Nat × Nat) :=
  match o with
  | .fwq q _ => some (Reg.CLN_FWQ_BASE + 4 * q, q)
  | .gq q _ => some (Reg.GRD_FWQ_BASE + 4 * q, q)
  | _ => none

/-- The core a firmware queue belongs to. -/
def fqCore (q : Nat) : Nat := if q = 8 then 1 else 0x10 + q

/-- Key that tells two firmware queues apart. -/
def fqKey (o : OpSrc) : Option (Nat × Nat) :=
  match o with | .fwq q _ => some (0, q) | .gq q _ => some (1, q) | _ => none

/-- Engine master identity that a completion is presented under (R46). A hash lane has none (R344): 0x88 + m stands for it, between the cipher lanes
and the Grinder units. DESIGN CHOICE (log entry 75). -/
def engineOf (o : Op) : Nat :=
  match o.unit with
  | some (1, i) => 0x80 + i
  | some (2, i) => 0x88 + i
  | some (3, i) => 0x90 + i
  | _ => 0

/-- Words that an operation's outputs fill in the memory of a core. -/
def outWordsOf (o : Op) : List (Nat × Nat) := o.outs.map (fun x => (x.1, packLen o.dense x.2.length))

/-- R399: words of a flash page in a buffer; dense, 1,820 pairs and one word with the last four octets. -/
def pageWords (dense : Bool) : Nat := if dense then 3641 else 4096

/-- Words that a flash or card read, or READ_CAL, has copied to its buffer. -/
def copiedWords (o : Op) : List (Nat × Nat) :=
  if o.status ≠ St.done then []
  else if o.opcode = 0xD1 ∨ o.opcode = 0xD6 then [(o.aux.getD 1 0, pageWords o.dense)]
  else if o.opcode = 0xE2 then [(o.aux.getD 2 0, packLen o.dense (512 * o.aux.getD 1 0))]
  else []

/-- R107: the oldest operation of a firmware queue, if it has ended: its completion entry is written after the descriptor array and
becomes an admitted input of the core. An entry that the core's own regions refuse at the level of its doorbell is not written (R20, R349; log entry 44). -/
def postFq (d : Dev) (k : Nat × Nat) (pass : Nat) : Option Dev :=
  match d.ops.filter (fun o => decide (fqKey o.src = some k) && decide (o.phase ≠ .posted)) with
  | [] => none
  | o :: _ =>
    if d.pas.count < o.dueAt then none
    else match o.phase, fqBase o.src with
    | .ended, some (base, q) =>
      let n := 2 ^ fld (rg d (base + 1)) 4 0
      let p := match o.src with | .fwq _ p => p | .gq _ p => p | _ => 0
      let at_ := rn d base + 16 * n + 8 * (p % n)
      let w := coreAllows d (fqCore q) o.pl 1 at_ 8
      let d := if w.1 then memWrOct w.2 false at_ (cplOctets n p (p % n) d.pas.count o) else w.2
      let d := setOp d { o with phase := .posted, outs := [], dueAt := pass + 1 }
      let d := pushInput d (fqCore q) 1 (engineOf o) pass [o.opTag, o.status, o.sub, o.result]
      some (noteMem d ((if w.1 then [(at_, 8)] else []) ++ outWordsOf o) (some o.id))
    | _, _ => none

/-- Completions of a firmware queue written while they can be. -/
def postFqs : Nat → Nat × Nat → Nat → Dev → Dev
  | 0, _, _, d => d
  | n + 1, k, pass, d => match postFq d k pass with
    | some d' => postFqs n k pass d'
    | none => d

/-! ### Answers to the field island -/

/-- A barge put at the end of a send queue. -/
def queueBarge (d : Dev) (queue : Nat) (b : Barge) : Dev :=
  let k := ((b2n b.toField) * 4 + b.lane) * 32 + queue
  { d with lkg := { d.lkg with sendq := tabSet [] d.lkg.sendq k (tabGet [] d.lkg.sendq k ++ [b]) } }

/-- Payload filled to 15 words. -/
def fit15 (ws : List Word) : List Word := ws.take 15 ++ List.replicate (15 - ws.length) 0

/-- Table 11.4: the answer to a crypto request: one barge, or two when the output does not fit the first. -/
def cryptoAnswer (core ref st sub : Nat) (out : Octets) : List Barge :=
  let ws := densePack out
  let w0 := wd (st + sub * 2 ^ 8 + out.length * 2 ^ 16)
  let one : Barge := { toField := true, lane := 2, type := 0x06, core := core, ref := ref, payload := fit15 (w0 :: ws.take 12) }
  if out.length ≤ 54 then [one]
  else [{ one with cont := true }, { one with payload := fit15 (ws.drop 12) }]

/-- Table 8.4: the answer to a credential query. `aux` of the operation: QUERY_ID, verdict, epoch and the eight entry words. -/
def credAnswer (core ref st : Nat) (aux : List Nat) : Barge :=
  let ep := aux.getD 2 0
  let done := st = St.done
  { toField := true, lane := 1, type := 0x04, core := core, ref := ref,
    payload := fit15 ([wd (aux.getD 0 0 % 2 ^ 16 + st * 2 ^ 16 + (if done then aux.getD 1 0 else 0) * 2 ^ 24),
      loWord ep, wd (ep / 2 ^ 36 % 2 ^ 12)] ++ (if done then (aux.drop 3).take 8 else List.replicate 8 0).map wd) }

/-- Barges sent as the answer to a field request. -/
def answerBarges (o : Op) : List Barge :=
  match o.src with
  | .barge core ref 0x05 =>
    cryptoAnswer core ref o.status o.sub (if o.status = St.done then o.outs.flatMap (·.2) else [])
  | .barge core ref 0x03 => [credAnswer core ref o.status o.aux]
  | _ => []

/-- The answer's last barge has been presented, or is lost: the request's entry is freed (R79). -/
def answered (d : Dev) (b : Barge) : Dev :=
  if b.cont ∨ ¬ (b.type = 0x04 ∨ b.type = 0x06) then d
  else { d with ops := d.ops.eraseP (fun o =>
    decide (o.phase = .posted) && decide (o.src = .barge b.core b.ref (if b.type = 0x04 then 0x03 else 0x05))) }

/-! ### Delivery of a result (R40, R81) -/

/-- The context identity an operation's accesses serve (R345): the submitting core of a firmware queue or command, the function of a ring, the
Lockgate host end of a field request. -/
def Op.served (o : Op) : Nat :=
  match o.src with
  | .ring _ _ => o.ctx
  | .fwq q _ => fqCore q
  | .gq q _ => fqCore q
  | .barge _ _ _ => 0xC0
  | .cmd _ m => m
  | .ofc _ => 0x01

/-- The master whose port an engine reaches memory through: a cipher lane, the Sluice of a hash lane (R344), a Grinder unit, the credential engine, the
inline pipeline, the flash controller, the SD host. The transfers of every other operation are made by one of the Sluices (R61, R344); which of the sixteen is free (log entry 95). -/
def Op.engine (o : Op) : Nat :=
  match o.unit with
  | some (1, n) => 0x80 + n
  | some (2, n) => 0x3C + n
  | some (3, n) => 0x90 + n
  | _ =>
    if o.opcode ∈ [0x40, 0x41, 0x42, 0xB1, 0xB2, 0xB3] then 0xA0
    else if o.opcode ∈ [0x91, 0x92] then 0xA8
    else if 0xD0 ≤ o.opcode ∧ o.opcode < 0xE0 then 0xB0
    else if 0xE0 ≤ o.opcode ∧ o.opcode < 0xF0 then 0xB8
    else 0x30 + Config.sluiceOf o.id % 16

/-- Buffers written through an engine's MPU, one after the other, up to the first refusal (R349). -/
def engOuts (o : Op) : List (Nat × Octets) → Dev → Bool × Dev
  | [], d => (true, d)
  | x :: r, d =>
    match engWriteAt d o.engine o.served (ctxCol o.served) x.1 (packOct o.dense x.2) with
    | (true, d) => engOuts o r d
    | f => f

/-- Outputs written to the operation's destination: host memory for a ring operation, core SRAM or DRAM for a firmware one, burst by burst
through the engine's MPU. Answers whether every burst was permitted. -/
def writeOuts (d : Dev) (o : Op) : Bool × Dev :=
  match o.src with
  | .ring r _ => (true, o.outs.foldl (fun d x => fnWrite d (ringFn d r) x.1 x.2) d)
  | .barge _ _ _ => (true, d)
  | .cmd _ _ => (true, o.outs.foldl (fun d x => memWrOct d o.dense x.1 x.2) d)
  | _ => engOuts o o.outs d

/-- An operation that has ended reports: nothing before pass `due`; then its completion waits for its ring's order or its queue's, its answer is sent
and its entry kept until that is presented, or its result register is written. A core sees the result from the edge after pass `pass`. -/
def report (d : Dev) (o : Op) (due pass : Nat) : Dev :=
  let e := { o with phase := .ended, dueAt := due }
  match o.src with
  | .ring _ _ => setOp d { e with outs := [] }
  | .fwq q _ => postFqs d.ops.length (0, q) pass (setOp d e)
  | .gq q _ => postFqs d.ops.length (1, q) pass (setOp d e)
  | .barge _ _ _ =>
    if o.dead then rgAdd (dropOp d o.id) Reg.LKG_LOST 1
    else if d.pas.count < due then setOp d e else (answerBarges o).foldl (fun d b => queueBarge d 2 b) (setOp d { e with phase := .posted, outs := [] })
  | .cmd blk m =>
    if d.pas.count < due then setOp d e
    else noteMem (cmdDone (setOp d { e with phase := .posted, outs := [], dueAt := pass + 1 }) blk m o.status o.sub o.result pass) (outWordsOf o ++ copiedWords o) (some o.id)
  | .ofc _ => setOp d { e with dueAt := pass + 1 }

/-- The octets of an operation's outputs wiped, their places kept. -/
def wipeOuts (o : Op) : Op := { o with outs := o.outs.map (fun x => (x.1, zeros x.2.length)) }

/-- An operation's outputs are written; a refused one ends it with ACCESS_DENIED. -/
def written (d : Dev) (o : Op) : Dev × Op :=
  let w := writeOuts d o
  (w.2, if w.1 then o else { o with status := St.denied, sub := 0, resLen := 0, result := 0 })

/-- The copies of its outputs in the operation are wiped, and it reports. An answer barge carries them. -/
def wipeReport (d : Dev) (o : Op) (due pass : Nat) : Dev :=
  report d (match o.src with | .barge _ _ _ => o | _ => wipeOuts o) due pass

/-- An operation has its final status: its outputs are written and it reports. -/
def deliver (d : Dev) (o : Op) (due pass : Nat) : Dev := let w := written d o; wipeReport w.1 w.2 due pass

/-- The reservation an operation holds on a key slot ends (R102). -/
def unreserve (d : Dev) (id : Nat) : Dev :=
  { d with slots := d.slots.filterMap (fun e =>
      let s := if e.2.resv = some id then { e.2 with resv := none } else e.2
      if s = {} then none else some (e.1, s)) }

/-- An operation whose requester has been reset ends: its result is discarded, and counted where its kind is (R86, R286). -/
def lateDrop (d : Dev) (o : Op) : Dev :=
  rgAdd (dropOp d o.id) (match o.src with | .barge _ _ _ => Reg.LKG_LOST | _ => Reg.WHF_LATE_DISCARDS) 1

/-- An operation ends now with a status and no output. -/
def endWith (d : Dev) (o : Op) (st sub due pass : Nat) : Dev :=
  let d := unreserve d o.id
  if o.dead then lateDrop d o
  else deliver d { o with status := st, sub := sub, outs := [], resLen := 0, ext := false,
                          result := if o.opcode / 16 ≤ 2 then o.result else 0 } due pass

/-- A computed result: held when quantised (R40), else delivered at once. -/
def finish (d : Dev) (o : Op) : Dev :=
  if o.dead then lateDrop (unreserve d o.id) o
  else if o.quant then
    setOp d { o with phase := .held, dueAt := d.pas.count + 1 + max o.rqK (fld (rg d Reg.PAS_RQ_KMIN) 3 0) }
  else deliver d o d.pas.count d.pas.count

/-! ### Doorbells (R68 to R71) -/

/-- A doorbell of a ring is dropped, flagged and counted. -/
def dbErr (d : Dev) (r : Nat) : Dev :=
  rgAdd (rgOr d (Reg.WHF_RING_STATUS + 8 * r) (2 ^ 17)) Reg.WHF_DBERR_COUNT 1

/-- Entries of a ring for a doorbell: none while DISABLED. -/
def dbSize (x : Ring) : Nat := if x.state = .disabled then 0 else x.size

/-- R69: the submission doorbell naming position p. -/
def subDoorbell (d : Dev) (r p : Nat) : Dev :=
  let x := ringGet d r
  let t := posDist x.size x.tail p
  if t = 0 ∨ x.size < t then d
  else if x.size < posDist x.size x.head p then dbErr d r
  else ringSet d r { x with tail := p, marks := x.marks ++ [(p, d.pas.count)] }

/-- R70: the completion doorbell naming position p, in force at the next edge. -/
def cplDoorbell (d : Dev) (r p : Nat) : Dev :=
  let x := ringGet d r
  let base := x.cqNext.getD x.cqHead
  let t := posDist x.size base p
  if t = 0 ∨ x.size < t then d
  else if posDist x.size base x.cq < t then dbErr d r
  else ringSet d r { x with cqNext := some p }

/-- A write of `size` octets at octet `off` of a ring's doorbell page by function f (R62, R68). `sub` tells a submission doorbell (octet 0)
from a completion doorbell (octet 8). -/
def doorbell (sub : Bool) (f r off size v : Nat) (d : Dev) : Dev :=
  if ¬ r < 1024 ∨ ¬ fnPresent d f then d
  else if ringFn d r ≠ f then rgAdd d Reg.WHF_DBERR_COUNT 1
  else
    let n := dbSize (ringGet d r)
    if size ≠ 8 ∨ off ≠ (if sub then 0 else 8) ∨ 2 ^ 17 ≤ v ∨ n ≤ v % 2 ^ 16 then dbErr d r
    else
      let p := v % 2 ^ 16 + nfld v 16 16 * n
      if sub then subDoorbell d r p else cplDoorbell d r p

/-! ### Ring states (R63) -/

/-- A set-up write that is dropped. -/
def cfgErr (d : Dev) (r : Nat) : Dev := rgOr d (Reg.WHF_RING_STATUS + 8 * r) (2 ^ 18)

/-- May the master write a ring's group (R62)? A VF only its own rings'. DESIGN CHOICE (log entry 98): the PF writes the set-up words of every ring it
sees, those assigned to a VF too. -/
def ringWritable (d : Dev) (m r : Nat) : Bool :=
  if 0x41 ≤ m ∧ m ≤ 0x7F then decide (ringFn d r = m - 0x40) else true

/-- A write of SIZE_LOG2. -/
def writeRingSize (d : Dev) (r log2 : Nat) : Dev :=
  let x := ringGet d r
  let a := Reg.WHF_RING_SIZE + 8 * r
  if log2 = 0 then
    match x.state with
    | .active => rgSet (ringSet d r { x with state := .draining }) a 0
    | .disabled => rgSet (ringSet d r { x with enabling := false }) a 0
    | _ => rgSet d a 0
  else if log2 < 4 ∨ 16 < log2 then cfgErr d r
  else if x.state ≠ .disabled then cfgErr d r
  else rgSet (ringSet d r { x with enabling := true }) a (wd log2)

/-- A write to one of a ring's base words: dropped unless the ring is DISABLED. -/
def writeRingBase (d : Dev) (a r : Nat) (v : Word) : Dev :=
  if (ringGet d r).state ≠ .disabled then cfgErr d r else rgSet d a v

/-- What an edge does to a ring's state: a completion doorbell of the pass before takes effect, an enabled ring becomes ACTIVE, a
DRAINING or STOPPED ring with nothing in flight becomes DISABLED. DESIGN CHOICE (log entry 75): a STOPPED ring that becomes DISABLED keeps the
SIZE_LOG2 it holds. -/
def ringEdge (d : Dev) (r : Nat) : Dev :=
  let x := ringGet d r
  let x := { x with cqHead := x.cqNext.getD x.cqHead, cqNext := none }
  if x.enabling then
    ringSet d r { state := .active, log2 := fld (rg d (Reg.WHF_RING_SIZE + 8 * r)) 4 0, epoch := x.epoch }
  else if (x.state = .draining ∨ x.state = .stopped) ∧ (x.drained ∨ (ringOps d r).isEmpty) then
    ringSet d r { state := .disabled, epoch := x.epoch }
  else ringSet d r x

/-- The rings with any state listed. -/
def liveRings (d : Dev) : List Nat := d.rings.map (·.1)

/-! ### Fetch and staging (R72, R78 to R80) -/

/-- Input octets a descriptor names, for the operations that stage one. The tag that DECRYPT and MAC_VERIFY read is part of what they read, and so
counts towards the largest input (R78, R91). DEDUCED (log entry 75). -/
def inputLen (o : Op) : Nat :=
  if o.opcode ∈ [0x10, 0x11, 0x12, 0x13] then
    o.aadLen + o.payLen + (if o.opcode = 0x11 ∧ modeTagged o.mode ∨ o.opcode = 0x13 then o.tagLen else 0)
  else if o.opcode ∈ [0x20, 0x21] then o.f 16 4
  else if o.opcode = 0x41 then 64 * o.f 8 4
  else if o.opcode = 0x51 then 16 * o.f 8 4
  else if o.opcode = 0x53 then 144
  else if o.opcode = 0x54 then o.f 12 4
  else if o.opcode = 0x5A then o.f 12 4
  else if o.opcode ∈ [0x60, 0x61] then o.f 12 4
  else 0

/-- Conditions the Wharf finds in the descriptor alone and that leave nothing to stage: the opcode is not of the ring's class or is PF
only, or its header or body is malformed, or it names more than the largest input (R8, R73, R78; what counts towards it: `inputLen`, log entry 75). -/
def wharfStatic (d : Dev) (r : Nat) (o : Op) : List (Option Fail) :=
  [ failIf (!opcodeKnown o.opcode || decide (opcodeClass o.opcode ≠ ringClass d r)) St.badDesc 0,
    failIf (decide (o.opcode ≠ 0x30) && rqBad (rqClass o.opcode false) o.rqMode) St.badDesc 0,
    failIf (decide (o.opcode = 0x30) && decide (o.rqMode = 3)) St.badDesc 0,
    failIf (!hdrReservedZero false o.desc || !bodyReservedZero o.opcode o.desc) St.badDesc 0,
    failIf (decide (maxInput < inputLen o)) St.length 0,
    failIf (opcodePf o.opcode && decide (ringFn d r ≠ 0)) St.denied 0 ]

/-- The registers SEL_ADDR may name (R77). -/
def selectRegs : List Nat :=
  [Reg.CHM_PEEK_ADDR, Reg.KSL_SEL, Reg.ILS_CNT_SEL, Reg.TMP_LOG_SEL, Reg.FLS_SEL, Reg.FLS_PAIR, Reg.PWR_MONC_SEL]

/-- A key slot field holds a slot number. -/
def slotFieldBad (o : Op) : Bool := decide (16384 ≤ o.f 8 2) && !(decide (o.opcode = 0x54) && decide (o.f 8 2 = 0xFFFF))

/-- Conditions of a MGMT, CRED or ENVELOPE body found in the descriptor alone (Table 3.14, R8, R76, R77, R483). -/
def otherStatic (o : Op) : List (Option Fail) :=
  if o.opcode = 0x40 then [failIf (decide (1 < o.f 8 1)) St.badDesc 0x02]
  else if o.opcode = 0x51 then [failIf (decide (256 < o.f 8 4)) St.length 0x01]
  else if o.opcode = 0x52 then
    [failIf (decide (o.f 8 1 < 2) || decide (6 < o.f 8 1) || (decide (o.f 8 1 ≠ 4) && decide (o.f 16 8 ≠ 0))) St.badDesc 0]
  else if o.opcode ∈ [0x54, 0x56] then [failIf (slotFieldBad o) St.badDesc 0]
  else if o.opcode = 0x55 then [failIf (slotFieldBad o) St.badDesc 0, failIf (decide (2 < o.f 10 1)) St.badDesc 0]
  else if o.opcode = 0x57 then
    [failIf (decide (nfld (o.f 8 4) 13 12 = 0) || decide (2 ^ 14 ≤ o.f 8 4) || decide (nfld (o.f 8 4) 11 10 ≠ 0)) St.badDesc 0]
  else if o.opcode = 0x58 then [failIf (decide (1024 ≤ o.f 8 2)) St.badDesc 0]
  else if o.opcode = 0x59 then
    [failIf (decide (2 ^ 24 ≤ o.f 8 4) || decide (2 ^ 24 ≤ o.f 12 4) || decide (2 ^ 36 ≤ o.f 16 8)) St.badDesc 0,
     failIf (decide (o.f 12 4 ≠ 0) && decide (o.f 12 4 ∉ selectRegs)) St.badDesc 0xF4]
  else if o.opcode ∈ [0x60, 0x61] then
    [failIf (decide (16384 ≤ o.f 8 2)) St.badDesc 0, failIf (decide (o.f 10 1 = 0) || decide (4 < o.f 10 1)) St.badDesc 0x04]
  else []

/-- Conditions of the body found in the descriptor alone. -/
def bodyStatic (o : Op) : List (Option Fail) := if o.isCipher then cipherStatic o else if o.isHash then hashStatic o else otherStatic o

/-- Operations of a function in flight. -/
def fnInflight (d : Dev) (f : Nat) : Nat :=
  (d.ops.filter (fun o => match o.src with | .ring r _ => decide (ringFn d r = f) | _ => false)).length

/-- Has the ring a descriptor that may be fetched now (R70, R80)? -/
def fetchReady (d : Dev) (r : Nat) : Bool :=
  let x := ringGet d r
  decide (x.state = .active) && decide (x.head ≠ x.tail) && cqFree x && decide (inFlight d < maxOps) &&
    decide (fnInflight d (ringFn d r) < rn d (Reg.WHF_FN_CAP + ringFn d r))

/-- Rings past a ring in the rotation that starts after the ring fetched from last. -/
def fetchDist (d : Dev) (r : Nat) : Nat := (r + 2047 - d.fetchRing) % 1024

/-- Is it the ring's turn (R72): its turn goes on, 16 descriptors at most, or it is the first in the rotation that has one? -/
def inTurn (d : Dev) (r : Nat) : Bool :=
  (decide (r = d.fetchRing) && decide (0 < d.fetchCnt) && decide (d.fetchCnt < 16)) ||
    (liveRings d).all (fun q => !fetchReady d q || decide (fetchDist d r ≤ fetchDist d q))

/-- May the Wharf fetch from the ring now (R70, R72, R80)? -/
def fetchable (d : Dev) (r : Nat) : Bool := fetchReady d r && inTurn d r

/-- One more descriptor fetched from the ring. -/
def fetchTurn (d : Dev) (r : Nat) : Dev :=
  if r = d.fetchRing ∧ 0 < d.fetchCnt ∧ d.fetchCnt < 16 then { d with fetchCnt := d.fetchCnt + 1 } else { d with fetchRing := r, fetchCnt := 1 }

/-- R78: packet SRAM staging area, octets. -/
abbrev stageSize : Nat := 16777216

/-- Does the descriptor name input that the Wharf stages? -/
def takesInput (o : Op) : Bool := if o.opcode = 0x30 then decide (o.f 16 4 ≠ 0) else decide (inputLen o ≠ 0)

/-- Is the operation's result held for release (R41)? -/
def quantOf (o : Op) : Bool :=
  match o.src with
  | .barge _ _ _ => false
  | .cmd _ _ => o.quant
  | .ofc _ => false
  | _ => rqOn (rqClass o.opcode ((recipeOf (o.f 8 2)).any (fun r => decide (r.cls = 0)))) o.rqMode

/-- Octets of the results of a Grinder job: M of a curve is at most 66 (R156). -/
def jobResults (o : Op) : Nat := match recipeOf (o.f 8 2) with | some r => (r.results 66).foldl (· + ·) 0 | none => 0

/-- Octets of its destinations, where the operation's result is to be held for release: the space reserved for it (R40). -/
def heldSpace (o : Op) : Nat :=
  if !quantOf o then 0
  else if o.isCipher then o.payLen + o.tagLen + (if o.genIv then 12 else 0)
  else if o.isHash then digestLen o.mode
  else if o.opcode = 0x30 then jobResults o
  else if o.opcode = 0x40 then (if o.f 8 1 = 1 then 72 else 0)
  else if o.opcode = 0x55 then min (o.f 12 4) 1860
  else if o.opcode = 0x82 then 60 + (match o.key with | some s => s.material.length | none => 0)
  else if o.opcode ∈ [0x60, 0x61] then o.f 32 4
  else 0

/-- Octets one operation takes in the staging area: a ring's input until its result is computed, a job's until its unit has read it, and the space of
its result until it is released. An operation whose input was not staged has no space. -/
def stageSpace (o : Op) : Nat :=
  if o.phase = .held then heldSpace o
  else if o.ring?.isSome then
    (if (o.phase = .staged ∨ o.phase = .admitted) ∧ ¬ (takesInput o ∧ o.input = []) then
      (if o.opcode = 0x30 ∧ o.phase = .admitted then 0 else o.input.length) + heldSpace o else 0)
  else if o.phase = .admitted then heldSpace o
  else 0

/-- Octets held in the staging area. -/
def stageUsed (d : Dev) : Nat := (d.ops.map stageSpace).foldl (· + ·) 0

/-- Octets of input known to be staged: of a job, before its lists are read, the lists. -/
def stageNeed (o : Op) : Nat := if o.opcode = 0x30 then 16 * (o.f 16 2 + o.f 18 2) else inputLen o

/-- Does the operation's input, with the space of its result, fit what is left of the staging area? -/
def stageFits (d : Dev) (o : Op) : Bool := decide (stageUsed d + stageNeed o + heldSpace o ≤ stageSize)

/-- R40: is there room for the result of a firmware request that is offered? -/
def resultFits (d : Dev) (o : Op) : Bool := decide (stageUsed d + heldSpace o ≤ stageSize)

/-- STAGE_FULL: an operation waits to be staged and the area has no room for it. -/
def stageFull (d : Dev) : Bool :=
  d.ops.any (fun o => decide (o.phase = .fetched) && o.ring?.isSome && !stageFits d o)

/-- Pass of the doorbell that named the position next fetched (R71). -/
def markPass (x : Ring) (dflt : Nat) : Nat :=
  match x.marks.find? (fun m => decide (0 < posDist x.size x.head m.1) && decide (posDist x.size x.head m.1 ≤ x.size)) with
  | some m => m.2
  | none => dflt

/-- One descriptor fetched from a ring: it enters flight, and in HOLD ends with HELD at the next edge (R85). One that has nothing to
stage is ready at once. -/
def fetchOne (r : Nat) (d : Dev) (desc : Octets) : Dev :=
  if ¬ fetchable d r then d
  else
    let x := ringGet d r
    let o : Op := { id := 0, src := .ring r x.head, ctx := 0x40 + ringFn d r, desc := fitTo 64 desc,
                    eligAt := markPass x d.pas.count + 1 }
    let x' := { x with head := (x.head + 1) % (2 * x.size) }
    let x' := { x' with marks := x'.marks.filter (fun m =>
      decide (0 < posDist x.size x'.head m.1) && decide (posDist x.size x'.head m.1 ≤ x.size)) }
    let bad := (firstFail (wharfStatic d r o ++ bodyStatic o)).any (fun f => decide (f.1 ≠ St.denied))
    let o := if d.keep.hold ∧ ¬ runsInHold d o then
               { o with phase := .ended, status := St.held, dueAt := d.pas.count + 1 }
             else if bad ∨ (¬ takesInput o ∧ stageFits d o) then { o with phase := .staged } else o
    addOp (fetchTurn (ringSet d r x') r) o

/-- The operation of a ring at a descriptor position. -/
def ringOpAt (d : Dev) (r pos : Nat) : Option Op := d.ops.find? (fun o => decide (o.src = .ring r pos) && !o.dead)

/-- R78: the last input octet of an operation has arrived: it may be admitted from the next edge. -/
def stageDone (r pos : Nat) (data : Octets) (d : Dev) : Dev :=
  match ringOpAt d r pos with
  | some o =>
    if o.phase = .fetched ∧ data.length = inputLen o ∧ stageFits d o then
      setOp d { o with phase := .staged, input := data, eligAt := max o.eligAt (d.pas.count + 1) }
    else d
  | none => d

/-- R88: an error of a read is reported through AER: the status bit of a poisoned completion (12) or of a completion timeout (14); a completion with
Unsupported Request or Completer Abort status is noted as the bits the PCIe specification gives a requester, kept at 100 and 101. PRESUMED
(log entry 76). -/
def aerLog (d : Dev) (f sub : Nat) : Dev :=
  let x := tabGet {} d.pcie f
  let b := if sub = 0xF0 then 100 else if sub = 0xF1 then 101 else if sub = 0xF2 then 12 else 14
  if b ∈ x.aer then d else { d with pcie := tabSet {} d.pcie f { x with aer := x.aer ++ [b] } }

/-- R88, Table 3.16: a failed read of an input ends the operation at the next edge. -/
def stageFail (r pos sub : Nat) (d : Dev) : Dev :=
  match ringOpAt d r pos with
  | some o =>
    if o.phase = .fetched then
      let st := if sub = 0xF3 then St.timeout else St.denied
      setOp (aerLog d (ringFn d r) sub)
        { o with phase := .ended, status := st, sub := sub, dueAt := d.pas.count + 1 }
    else d
  | none => d

/-- R88: a failed descriptor fetch stops the ring. -/
def fetchFail (r cause : Nat) (d : Dev) : Dev :=
  let x := ringGet d r
  if x.state = .active ∧ x.head ≠ x.tail then ringSet (aerLog d (ringFn d r) cause) r { x with state := .stopped } else d

/-- R84: the timer trigger of a ring. -/
def modTimer (d : Dev) (r : Nat) : Dev :=
  let x := ringGet d r
  let m := fld (rg d (Reg.WHF_RING_INT + 8 * r)) 19 12
  if m ≠ 0 ∧ x.unsig ≠ 0 ∧ x.unsigAt + m ≤ d.pas.count then ringFire d r else d

end Sys2Proof.Machine
end

