-- ==== Sys2Proof/Machine/Keys.lean ====
section
/-! DEFINITION. The key slot store (chapter 4): use of a slot, import, export, erase, derivation and unwrap. -/

namespace Sys2Proof.Machine

/-! ### The key ladder's KEKs (R101, Table 16.1) -/

/-- Does the life-cycle state release the KEK? In HOLD the ladder releases nothing (R371). -/
def kekReleased (d : Dev) (k : Nat) : Bool :=
  !d.keep.hold &&
    (if d.life.state = 1 then decide (k = 0)
     else if d.life.state = 2 ∨ d.life.state = 3 then decide (k ≤ 2)
     else if d.life.state = 4 then decide (k = 0) && !d.life.sessOpen
     else false)

/-- R384: does the life-cycle state withhold KEK 1 and KEK 2? -/
def kekWithheld (d : Dev) : Bool := decide (d.life.state = 4) || decide (d.life.state = 5)

/-- The KEK for a blob: its number and, for the basin KEK, the low 16 bits of its epoch. -/
def kekFor (d : Dev) (k ep : Nat) : Option Octets :=
  if k = 0 then some d.life.kekDevice
  else if k = 1 then some d.life.kekOwner
  else if ep = d.life.kekEpoch % 2 ^ 16 then (if d.life.kekBasin.isEmpty then none else some d.life.kekBasin)
  else if (ep + 1) % 2 ^ 16 = d.life.kekEpoch % 2 ^ 16 ∧ ¬ d.life.kekBasinOld.isEmpty then some d.life.kekBasinOld
  else none

/-! ### Slots -/

abbrev slotCount : Nat := 16384

def slotGet (d : Dev) (i : Nat) : Slot := tabGet {} d.slots i
def slotSet (d : Dev) (i : Nat) (s : Slot) : Dev := { d with slots := tabSet {} d.slots i s }

/-- R102: the lowest EMPTY slot that is not reserved. -/
def freeSlot (d : Dev) : Option Nat :=
  (List.range slotCount).find? (fun i => decide ((slotGet d i).state = 0) && (slotGet d i).resv.isNone)

/-- KSL_FREE: EMPTY slots, reserved ones not counted. -/
def slotsFree (d : Dev) : Nat :=
  slotCount - (d.slots.filter (fun e => decide (e.2.state ≠ 0) || e.2.resv.isSome)).length

/-- Extension records in use: those of keys of more than 64 octets, and those that operations on their way have reserved. -/
def extUsed (d : Dev) : Nat := (d.slots.filter (fun e => decide (64 < e.2.material.length))).length + (d.ops.filter (·.ext)).length

/-- R95: the conditions a use of a slot meets, in order. `field` tells a field barge; `algOk` tells which ALG fits; `usage` is the mask of
usage bits required. -/
def keyUseFail (d : Dev) (ctx i : Nat) (field : Bool) (algOk : Nat → Bool) (usage : Nat) : Option Fail :=
  let s := slotGet d i
  firstOf
    [ failIf (decide (s.state ≠ 0) && !field && decide (ctx ≠ s.owner) && decide (ctx ≠ 0x01)) St.notOwner 0,
      failIf (decide (s.state ≠ 0) && field && !s.usage.testBit 5) St.keyInvalid 0x0B,
      failIf (decide (s.state = 0)) St.keyInvalid 0x01,
      failIf (decide (s.source ≠ 0) && kekWithheld d) St.keyInvalid 0x07,
      failIf (!algOk s.alg) St.keyInvalid 0x02,
      failIf (decide (s.usage &&& usage ≠ usage)) St.keyInvalid 0x03,
      failIf (decide (s.state = 3)) St.keyInvalid 0x04,
      failIf (decide (s.state = 2)) St.exhausted 0x01 ]

/-- The state COUNT = LIMIT gives a loaded slot. -/
def exhaustedState (s : Slot) : Nat := if s.state = 1 ∧ s.limit ≤ s.count then 2 else s.state

/-- R96: notice of an exhausted slot whose action is REFUSE_NOTIFY, an admitted input of H0. -/
def exhaustNotice (d : Dev) (i pass : Nat) : Dev :=
  pushInput (rgSet d Reg.KSL_EXHAUST_LAST (wd (i + 2 ^ 35))) 0x10 1 keyExhaust pass [i]

/-- R96: one invocation counted at admission; a slot whose COUNT reaches its LIMIT becomes EXHAUSTED. -/
def countUse (d : Dev) (i pass : Nat) : Dev :=
  let s := slotGet d i
  let s' := { s with count := s.count + 1 }
  let s'' := { s' with state := exhaustedState s' }
  let d := slotSet d i s''
  if s''.state = 2 ∧ s.state = 1 ∧ s.exhaust = 1 then exhaustNotice d i pass else d

/-! ### Headers and blobs (Table 4.3) -/

/-- The attributes a blob or parameter block gives. -/
structure KeyHdr where
  format : Nat
  kek : Nat
  alg : Nat
  bits : Nat
  usage : Nat
  owner : Nat
  exhaust : Nat
  epoch : Nat
  limit : Nat
  rsv1 : Nat
  expiry : Nat
  matLen : Nat
  rsv2 : Nat
  deriving DecidableEq, Repr

def hdrOf (o : Octets) : KeyHdr :=
  { format := leAt o 0 2, kek := leAt o 2 1, alg := leAt o 3 1, bits := leAt o 4 2, usage := leAt o 6 2, owner := leAt o 8 1,
    exhaust := leAt o 9 1, epoch := leAt o 10 2, limit := leAt o 12 6, rsv1 := leAt o 18 2, expiry := leAt o 20 8,
    matLen := leAt o 28 2, rsv2 := leAt o 30 2 }

/-- Is the ALG one of Tables 4.4 and 6.7? -/
def algKnown (a : Nat) : Bool :=
  decide (a ∈ [0x01, 0x02, 0x03, 0x04, 0x05, 0x10, 0x20, 0x40, 0x41, 0x42, 0x48, 0x49, 0x4A, 0x4B, 0x4C, 0x50])

/-- Is the value one of Table 4.2 OWNER? -/
def ownerKnown (o : Nat) : Bool := decide (o = 0x01) || decide (o = 0x10) || (decide (0x40 ≤ o) && decide (o ≤ 0x7F))

/-- R8: reserved encodings of a header; `child` leaves KEK, KEK_EPOCH and MATERIAL_LEN out of account. A non-zero KEK_EPOCH beside KEK 0 or 1 counts as
one. DESIGN CHOICE (log entry 79). -/
def hdrBad (child : Bool) (h : KeyHdr) : Bool :=
  decide (h.format ≠ 1) || !algKnown h.alg || decide (2 ^ 9 ≤ h.usage) || !ownerKnown h.owner || decide (1 < h.exhaust) ||
    decide (h.rsv1 ≠ 0) || decide (h.rsv2 ≠ 0) ||
    (!child && (decide (2 < h.kek) || (decide (h.kek < 2) && decide (h.epoch ≠ 0))))

/-- MATERIAL_LEN and KEY_BITS fit the row of Table 4.4 or 6.7 for the ALG (R102). -/
def matOk (alg len bits : Nat) : Bool :=
  match alg with
  | 0x01 => decide (len = 16) && decide (bits = 128)
  | 0x02 => decide (len = 24) && decide (bits = 192)
  | 0x03 => decide (len = 32) && decide (bits = 256)
  | 0x04 => decide (len = 32) && decide (bits = 256)
  | 0x05 => decide (len = 64) && decide (bits = 512)
  | 0x10 => decide (16 ≤ len) && decide (len ≤ 128) && decide (bits = 8 * len)
  | 0x20 => decide (len = 32) && decide (bits = 256)
  | 0x40 => decide (len = 904) && decide (bits = 2048)
  | 0x41 => decide (len = 1352) && decide (bits = 3072)
  | 0x42 => decide (len = 1800) && decide (bits = 4096)
  | 0x48 => decide (len = 32) && decide (bits = 256)
  | 0x49 => decide (len = 48) && decide (bits = 384)
  | 0x4A => decide (len = 66) && decide (bits = 521)
  | 0x4B => decide (len = 32) && decide (bits = 255)
  | 0x4C => decide (len = 32) && decide (bits = 255)
  | 0x50 => decide (25 ≤ len) && decide (len ≤ 66) && decide (190 ≤ bits) && decide (bits ≤ 8 * len)
  | _ => false

/-- R102 step 3: the target slot of an operation that stores a key. DESIGN CHOICE (log entry 97): K, which may use every slot (R95), is not told NOT_OWNER
of a slot in use but KEY_INVALID 0x0A. -/
def targetFail (d : Dev) (ctx slot : Nat) : Option Fail :=
  if slot = 0xFFFF then failIf (freeSlot d).isNone St.keyInvalid 0x05
  else
    let s := slotGet d slot
    firstOf
      [ failIf (decide (s.state ≠ 0) && decide (s.owner ≠ ctx) && decide (ctx ≠ 0x01)) St.notOwner 0,
        failIf (decide (s.state ≠ 0) || s.resv.isSome) St.keyInvalid 0x0A ]

/-- R102 step 4: a key that needs an extension record and finds none. -/
def extFail (d : Dev) (len : Nat) : Option Fail :=
  failIf (decide (64 < len) && decide (4096 ≤ extUsed d)) St.keyInvalid 0x06

/-- The target slot, and the extension record a key of `len` octets needs, reserved for an operation. -/
def reserve (d : Dev) (o : Op) (slot len : Nat) : Dev × Op :=
  let i := if slot = 0xFFFF then (freeSlot d).getD 0 else slot
  (slotSet d i { slotGet d i with resv := some o.id }, { o with slot := some i, ext := decide (64 < len) })

/-- A key ready to be stored: COUNT 0 and the attributes of its header. -/
def madeKey (h : KeyHdr) (source : Nat) (material : Octets) : Slot :=
  { state := 1, alg := h.alg, bits := h.bits, usage := h.usage, owner := h.owner, source := source, count := 0, limit := h.limit,
    expiry := h.expiry, exhaust := h.exhaust, material := material }

/-- The key of a slot from which a block copies its AES-256 key: loaded, with USAGE exactly MAC (R208, R419). -/
def macKey (s : Slot) : Option Octets := if s.state = 1 ∧ s.alg = 3 ∧ s.usage = 4 then some s.material else none

/-- A key as it is stored: the GCM cap in force now applied to AES and XTS keys with ENCRYPT usage (R97), EXHAUSTED when its LIMIT is 0 (R96).
DESIGN CHOICE (log entry 97): one whose EXPIRY is not later than the edge that stores it is stored LOADED, and step 2 of the next edge expires it. -/
def storedKey (d : Dev) (s : Slot) : Slot :=
  let lim := if s.alg ≤ 5 ∧ s.usage.testBit 0 then min s.limit (rn d Reg.KSL_GCM_CAP) else s.limit
  { s with state := if lim = 0 then 2 else 1, limit := lim, resv := none }

/-- R102 step 7: an XTS key whose halves are equal, an AES key of all zeros. -/
def weakKey (alg : Nat) (m : Octets) : Bool :=
  (decide (alg ∈ [4, 5]) && octEq (m.take (m.length / 2)) (m.drop (m.length / 2))) || (decide (alg ∈ [1, 2, 3]) && allZero m)

/-! ### Import (R102) -/

/-- Conditions before execution, the blob given. -/
def importFails (d : Dev) (ctx slot blobLen : Nat) (blob : Octets) : List (Option Fail) :=
  let h := hdrOf blob
  if blobLen < 32 then [failIf true St.length 0x05]
  else
    [ failIf (hdrBad false h) St.badDesc 0,
      failIf (decide (blobLen ≠ 60 + h.matLen) || (algKnown h.alg && !matOk h.alg h.matLen h.bits)) St.length 0x05,
      failIf (decide (ctx ≠ 0x01) && decide (h.owner ≠ ctx)) St.notOwner 0,
      targetFail d ctx slot,
      extFail d h.matLen,
      failIf (!kekReleased d h.kek) St.keyInvalid 0x07,
      failIf (decide (h.kek = 2) && (kekFor d 2 h.epoch).isNone) St.keyInvalid 0x08 ]

/-- Unwrapping of a blob: the material when the tag verifies. -/
def unwrapBlob (d : Dev) (blob : Octets) : Option Octets :=
  let h := hdrOf blob
  match kekFor d h.kek h.epoch with
  | none => none
  | some k =>
    let r := gcmDec k (slice blob 32 12) (blob.take 32) (slice blob 44 h.matLen)
    if octEq r.2 (slice blob (44 + h.matLen) 16) then some r.1 else none

/-- Steps 6 to 8: the result of an admitted import. -/
def importResult (d : Dev) (blob : Octets) : Fail × Option Slot :=
  let h := hdrOf blob
  match unwrapBlob d blob with
  | none => ((St.keyInvalid, 0x09), none)
  | some m =>
    if weakKey h.alg m then ((St.keyInvalid, 0x0C), none)
    else if h.expiry ≠ 0 ∧ h.expiry ≤ d.pas.count then ((St.keyInvalid, 0x04), none)
    else if h.alg = 0x20 then ((St.keyInvalid, 0x02), none)
    else ((St.done, 0), some (madeKey h h.kek m))

/-! ### Export (R103) -/

def exportFails (d : Dev) (ctx slot kek maxLen : Nat) : List (Option Fail) :=
  let s := slotGet d slot
  [ failIf (decide (2 < kek)) St.badDesc 0,
    failIf (decide (s.state ≠ 0) && decide (maxLen < 60 + s.material.length)) St.length 0x05,
    failIf (decide (s.state ≠ 0) && decide (ctx ≠ s.owner) && decide (ctx ≠ 0x01)) St.notOwner 0,
    failIf (decide (s.state = 0)) St.keyInvalid 0x01,
    failIf (decide (s.source ≠ 0) && kekWithheld d) St.keyInvalid 0x07,
    failIf (!s.usage.testBit 6) St.keyInvalid 0x03,
    failIf (!kekReleased d kek) St.keyInvalid 0x07,
    failIf (decide (kek = 2) && d.life.kekBasin.isEmpty) St.keyInvalid 0x08 ]

/-- The blob of an exported slot, with its fresh IV; LIMIT holds LIMIT − COUNT. -/
def exportBlob (d : Dev) (s : Slot) (kek : Nat) (iv : Octets) : Octets :=
  let ep := if kek = 2 then d.life.kekEpoch % 2 ^ 16 else 0
  let h := leOct 2 1 ++ leOct 1 kek ++ leOct 1 s.alg ++ leOct 2 s.bits ++ leOct 2 s.usage ++ leOct 1 s.owner ++ leOct 1 s.exhaust ++
    leOct 2 ep ++ leOct 6 (s.limit - s.count) ++ leOct 2 0 ++ leOct 8 s.expiry ++ leOct 2 s.material.length ++ leOct 2 0
  let k := if kek = 0 then d.life.kekDevice else if kek = 1 then d.life.kekOwner else d.life.kekBasin
  let r := gcmEnc k iv h s.material
  h ++ iv ++ r.1 ++ r.2

/-! ### Erase (R104) -/

def eraseFails (d : Dev) (ctx slot : Nat) : List (Option Fail) :=
  let s := slotGet d slot
  [ failIf (decide (s.state ≠ 0) && decide (ctx ≠ s.owner) && decide (ctx ≠ 0x01)) St.notOwner 0,
    failIf (decide (s.state = 0)) St.keyInvalid 0x01 ]

/-- The slot emptied; a reservation another operation holds on it stays. -/
def eraseSlot (d : Dev) (i : Nat) : Dev := slotSet d i { resv := (slotGet d i).resv }

/-! ### Derivation and unwrap (R105, R106) -/

/-- KEY_BITS fits the child's ALG. -/
def childBitsOk (alg bits : Nat) : Bool :=
  match alg with
  | 0x01 => decide (bits = 128)
  | 0x02 => decide (bits = 192)
  | 0x03 => decide (bits = 256)
  | 0x10 => decide (bits % 8 = 0) && decide (128 ≤ bits) && decide (bits ≤ 512)
  | _ => false

/-- The rules on a child header (R105). -/
def childBad (h : KeyHdr) (p : Slot) : Bool :=
  !childBitsOk h.alg h.bits || decide (h.usage &&& p.usage ≠ h.usage) || decide (h.owner ≠ p.owner) ||
    (decide (p.expiry ≠ 0) && (decide (h.expiry = 0) || decide (p.expiry < h.expiry)))

/-- Conditions of DERIVE (`usage` bit 4) and UNWRAP_3394 (bit 3) before execution. -/
def childFails (d : Dev) (ctx parent target usage : Nat) (hdr : Octets) (wrapped : Option Nat) : List (Option Fail) :=
  let h := hdrOf hdr
  [ failIf (hdrBad true h) St.badDesc 0,
    (match wrapped with
     | some n => failIf (decide (8 * n ≠ h.bits + 64)) St.length 0x05
     | none => none),
    keyUseFail d ctx parent false (fun a => decide (a = 3)) usage,
    failIf (childBad h (slotGet d parent)) St.keyInvalid 0x03,
    targetFail d ctx target ]

end Sys2Proof.Machine
end

