-- ==== Sys2Proof/Machine/Lanes.lean ====
section
/-! DEFINITION. The cipher and hash lanes (chapter 4): charges, allowances, placement and admission, what an operation computes, its
completion, rebinding of rings, and the firmware queues. -/

namespace Sys2Proof.Machine

/-! ### Charges (Tables 4.9 and 4.10) -/

/-- Source octets of a lane operation (R65). -/
def srcOctets (o : Op) : Nat := if o.isHash then o.f 16 4 else o.aadLen + o.payLen

/-- Parts of 65,536 source octets an operation is charged in (R65). -/
def partCount (l : Nat) : Nat := max 1 (ceilDiv l 65536)

/-- R90: chained modes: CBC encryption, CMAC, CCM. -/
def chained (o : Op) : Bool :=
  o.isCipher && ((decide (o.mode = 1) && decide (o.opcode = 0x10)) || decide (o.mode = 4) || decide (o.mode = 6))

/-- Source octets of part k. -/
def partOctets (o : Op) (k : Nat) : Nat := min 65536 (srcOctets o - 65536 * k)

/-- R113: the charge of part k of a cipher operation: its blocks, doubled for CCM, and the constant of its row with the first part. Where the
additional data ends inside a block, each part but the last is charged 4,096 blocks and the last one the rest. DESIGN CHOICE (log entry 79). -/
def cipherPart (o : Op) (k : Nat) : Nat :=
  let t := ceilDiv o.aadLen 16 + ceilDiv o.payLen 16
  let n := partCount (srcOctets o)
  let blocks := if k + 1 = n then t - 4096 * k else 4096
  let m := o.mode
  (if k = 0 then (if m = 5 then 9 else if m = 4 then 10 else 8) else 0) + (if m = 4 then 2 * blocks else blocks)

/-- Padded message blocks of a hash. -/
def paddedBlocks (alg l : Nat) : Nat :=
  let b := hashBlock alg
  if alg = 0 then ceilDiv (l + 9) b else if alg = 1 ∨ alg = 2 then ceilDiv (l + 17) b else l / b + 1

/-- Cycles per block (Table 4.10). -/
def hashCycles (alg : Nat) : Nat := if alg = 0 then 32 else if alg = 1 ∨ alg = 2 then 40 else 24

/-- R113: the charge of part k of a hash operation. -/
def hashPart (o : Op) (k : Nat) : Nat :=
  let l := o.f 16 4
  let alg := o.mode
  let b := hashBlock alg
  let n := partCount l
  let hm := decide (o.opcode = 0x21)
  let upto := if k + 1 = n then paddedBlocks alg l else 65536 * (k + 1) / b
  let blocks := upto - 65536 * k / b + (if hm ∧ k = 0 then 1 else 0) + (if hm ∧ k + 1 = n then 2 else 0)
  (if k = 0 then 16 else 0) + hashCycles alg * blocks

def partCharge (o : Op) (k : Nat) : Nat := if o.isHash then hashPart o k else cipherPart o k

/-! ### Sources and budgets (R115) -/

/-- Source of lane work: 0 the Wharf, 1 firmware, 2 the field. -/
def laneSource (o : Op) : Nat :=
  match o.src with | .ring _ _ => 0 | .barge _ _ _ => 2 | _ => 1

def laneUse (d : Dev) (n : Nat) : LaneUse := tabGet {} d.lanes n

/-- The look-aside part of a lane's pass: allowance and source budget cover the charge. -/
def laneCovers (d : Dev) (n src c : Nat) : Bool :=
  decide (spentOf d (Reg.CLN_ALLOW + 16 * n) + c ≤ (laneUse d n).allow) && decide (c ≤ budgetLeft d (Reg.CLN_BUDGET_WHARF + 16 * n + src))

/-- R115: one more chained operation or part stays within seven in the pass. -/
def chainedFits (d : Dev) (n : Nat) (ch : Bool) : Bool := !ch || decide (spentOf d (Reg.CLN_CHAINED + 16 * n) + 1 ≤ 7)

def laneDebit (d : Dev) (n src c : Nat) (ch : Bool) : Dev :=
  let d := debit (debit d (Reg.CLN_ALLOW + 16 * n) c) (Reg.CLN_BUDGET_WHARF + 16 * n + src) c
  if ch then debit d (Reg.CLN_CHAINED + 16 * n) 1 else d

/-- A part's debit on a cipher lane, its source octets counted by the lane's monitor (R447). -/
def laneTake (d : Dev) (n src k : Nat) (o : Op) : Dev := bwAdd (22 + n) (partOctets o k) (laneDebit d n src (partCharge o k) (chained o))

/-- The context of a hash lane with the least work committed (R117). -/
def hashCtx (d : Dev) (m : Nat) : Nat :=
  let w := fun k => spentOf d (Reg.HSH_COMMITTED0 + 8 * m + k)
  let best := fun a b => if w b < w a then b else a
  best (best (best 0 1) 2) 3

def hashCovers (d : Dev) (m src c : Nat) : Bool :=
  decide (spentOf d (Reg.HSH_COMMITTED0 + 8 * m + hashCtx d m) + c ≤ 50000) &&
    decide (c ≤ budgetLeft d (Reg.HSH_BUDGET_WHARF + 8 * m + src))

def hashDebit (d : Dev) (m k src c : Nat) : Dev :=
  debit (debit d (Reg.HSH_COMMITTED0 + 8 * m + k) c) (Reg.HSH_BUDGET_WHARF + 8 * m + src) c

/-- Lanes that may take the operation, in order: the ring's bound lane, or every lane rising (R117). -/
def laneChoices (d : Dev) (o : Op) : List Nat :=
  match o.ring? with
  | some r => [ringLane d r]
  | none => List.range (if o.isHash then 4 else 8)

/-- R185: may a GEN_IV operation be admitted: the Hopper is not STARTING and HOP_IV_BUDGET covers one block? -/
def ivCovers (d : Dev) (o : Op) : Bool :=
  !(o.isCipher && o.genIv) || (!hopWaits d && decide (1 ≤ budgetLeft d Reg.HOP_IV_BUDGET))

/-- R93, R185: the IV of a GEN_IV operation is drawn at admission and takes the place of the descriptor's; a refused draw is noted for
the operation to end with (R186). -/
def ivDraw (d : Dev) (o : Op) : Dev × Op :=
  if ¬ (o.isCipher ∧ o.genIv) then (d, o)
  else
    let d := debit d Reg.HOP_IV_BUDGET 1
    if hopServes d then
      let x := hwDraw d 1
      (x.2, { o with desc := putAt o.desc 40 (x.1.take 12) })
    else (d, { o with failed := some (St.entropy, hopSub d) })

/-- R109: octets of plaintext that a decryption with a tag has written before its part k: the payload of the source octets of the parts done. -/
def earlyLen (o : Op) (k : Nat) : Nat := min o.payLen (65536 * k - o.aadLen)

/-- R109, R110: as a lane decrypts GCM or CCM with quantisation off, the plaintext goes to the destination, ahead of the tag's comparison: with part k
admitted, that of the parts up to it. A destination that is refused to it takes nothing. -/
def earlyPlain (run : Op → Octets) (d : Dev) (o : Op) (k : Nat) : Dev :=
  if o.opcode ≠ 0x11 ∨ ¬ modeTagged o.mode ∨ o.quant ∨ o.dead then d
  else
    let w := fun (o' : Op) => writeOuts d o'
    let n := earlyLen o k
    match o.src with
    | .barge _ _ _ => d
    | _ => if n = 0 then d else let r := w { o with outs := [(o.dstAddr, (run o).take n)] }; if r.1 then r.2 else d

/-- R115, R117: admission of an operation to a lane: the budgets are debited, the operation runs there. None while the lane it goes to does not take
it: the lowest one in service whose budget and allowance cover it, or the ring's own. -/
def laneAdmit (d : Dev) (o : Op) : Option (Dev × Op) :=
  let src := laneSource o
  let c := partCharge o 0
  let kind := if o.isHash then 2 else 1
  let fits := fun n => inService d kind n && (if o.isHash then hashCovers d n src c else laneCovers d n src c)
  match if ivCovers d o then (laneChoices d o).find? fits else none with
  | none => none
  | some n =>
    if ¬ o.isHash ∧ ¬ chainedFits d n (chained o) then none
    else
    let k := hashCtx d n
    let d' := if o.isHash then hashDebit d n k src c else laneTake d n src 0 o
    let ep := match o.ring? with | some r => (ringGet d r).epoch | none => 0
    let l := srcOctets o
    let o := { o with phase := .admitted, unit := some (kind, n), epoch := ep, admitAt := d.pas.count, bound := partCount l,
                      parts := partCount l - 1, aux := [k], result := n + 256 * ep }
    some (ivDraw d' o)

/-- R65, R113: a continuing part of a long operation is admitted, ahead of new work, on the lane of its first part. The ring's class is charged at each
of the edges that R65 names, whether or not the lane can take the part at that edge. -/
def laneContinue (d : Dev) (o : Op) : Dev :=
  if o.parts = 0 ∨ o.phase ≠ .admitted then d
  else
    let src := laneSource o
    let c := partCharge o (partCount (srcOctets o) - o.parts)
    let d := match o.ring? with
      | some r => if d.pas.count < o.admitAt + partCount (srcOctets o) then debit d (Reg.WHF_CLASS_BUDGET + ringClass d r) 65536 else d
      | none => d
    match o.unit with
    | some (1, n) =>
      if laneCovers d n src c ∧ chainedFits d n (chained o) then setOp (laneTake d n src (partCount (srcOctets o) - o.parts) o) { o with parts := o.parts - 1 } else d
    | some (2, m) =>
      let k := o.aux.getD 0 0
      if spentOf d (Reg.HSH_COMMITTED0 + 8 * m + k) + c ≤ 50000 ∧ c ≤ budgetLeft d (Reg.HSH_BUDGET_WHARF + 8 * m + src) then
        setOp (hashDebit d m k src c) { o with parts := o.parts - 1 }
      else d
    | _ => d

/-! ### Inline reserve (R114) -/

/-- Does a lane carry an inline stream now (R123, R131)? -/
def laneCarries (d : Dev) (n : Nat) : Bool :=
  (List.range 8).any (fun k => decide ((tabGet { lane := k } d.ils.streams k).lane = n))

def inlinePeak (d : Dev) (u : LaneUse) : Nat := (u.past.take (rn d Reg.CLN_INLINE_WINDOW)).foldl max 0

/-- The reserve and allowance a lane sets at an edge: inline cycles of the pass just ended join those of the last 64 passes, the widest window. -/
def laneEdge (d : Dev) (n : Nat) : Dev :=
  let u := laneUse d n
  let past := (u.now :: u.past).take 64
  let peak := inlinePeak d { u with past := past }
  let reserve := min (rn d (Reg.CLN_INLINE_MAX + 16 * n)) (ceilDiv (peak * (16 + rn d Reg.CLN_INLINE_HEADROOM)) 16)
  let allow := if laneCarries d n then 50000 - reserve else 50000
  { d with lanes := tabSet {} d.lanes n { now := 0, past := past, allow := allow } }

/-! ### Conditions met by a lane operation -/

/-- Usage bits an opcode requires (Table 4.6). -/
def usageOf (opcode : Nat) : Nat := if opcode = 0x10 then 1 else if opcode = 0x11 then 2 else 4

/-- The ALG that fits the operation (Tables 4.1, 4.6). -/
def algFits (o : Op) (a : Nat) : Bool :=
  if o.opcode = 0x21 then decide (a = 0x10)
  else if o.mode = 5 then decide (a = 4) || decide (a = 5) else decide (1 ≤ a) && decide (a ≤ 3)

def laneKeyFail (d : Dev) (o : Op) : Option Fail :=
  if o.opcode = 0x20 then none
  else keyUseFail d o.ctx o.keySlot (match o.src with | .barge _ _ _ => true | _ => false) (algFits o) (usageOf o.opcode)

/-- The buffers a firmware descriptor names: address and octets, the ones it reads and the ones it writes. DESIGN CHOICE (log entry 97): the SRC_ADDR of a
hash of no octets must lie in memory all the same, that of a cipher operation without source octets is not looked at. -/
def fwBuffers (o : Op) : List (Nat × Nat × Bool) :=
  if o.isHash then [(o.srcAddr, o.f 16 4, false), (o.dstAddr, digestLen o.mode, true)]
  else
    (if o.aadLen + o.payLen = 0 then [] else [(o.srcAddr, o.aadLen + o.payLen, false)]) ++
    (if o.opcode ∈ [0x10, 0x11] ∧ o.payLen ≠ 0 then [(o.dstAddr, o.payLen, true)] else []) ++
    (if modeTagged o.mode then [(o.tagAddr, o.tagLen + (if o.genIv then 12 else 0), decide (o.opcode = 0x10 ∨ o.opcode = 0x12))]
     else [])

/-- Conditions of a firmware queue descriptor found before the key checks. -/
def fwStatic (o : Op) : List (Option Fail) :=
  [ failIf (!(o.isCipher || o.isHash)) St.badDesc 0,
    failIf (rqBad (rqClass o.opcode false) o.rqMode) St.badDesc 0,
    failIf (!hdrReservedZero true o.desc || !bodyReservedZero o.opcode o.desc) St.badDesc 0,
    failIf (decide (2 ^ 36 ≤ o.srcAddr) || decide (2 ^ 36 ≤ o.dstAddr) || (o.isCipher && decide (2 ^ 36 ≤ o.tagAddr))) St.badDesc 0 ] ++
  (if o.isCipher then cipherStatic o else if o.isHash then hashStatic o else []) ++
  [ failIf ((o.isCipher || o.isHash) && (fwBuffers o).any (fun b => !ramRange b.1 (packLen o.dense b.2.1))) St.denied 0 ]

/-- Conditions of a field crypto request found before the key checks (R290). `aux` holds the request's unused fields, zero when the
request is as its OP requires. -/
def fieldStatic (o : Op) : List (Option Fail) :=
  [ failIf (decide (o.aux.getD 0 0 = 1)) St.badDesc 0,
    failIf (decide (o.aux.getD 0 0 = 2)) St.badDesc 0x03,
    failIf (decide (60 < srcOctets o)) St.length 0x06 ] ++
  (if o.isHash then hashStatic o else cipherStatic o)

/-! ### What an operation computes (R92 to R94, R109 to R112) -/

/-- Output payload and full tag of a cipher operation under a key. -/
def cipherRun (m opcode : Nat) (key iv aad p : Octets) (tagLen : Nat) : Octets × Octets :=
  let dec := decide (opcode = 0x11)
  if m = 0 then ((if dec then ecbDec key p else ecbEnc key p), [])
  else if m = 1 then ((if dec then cbcDec key iv p else cbcEnc key iv p), [])
  else if m = 2 then (ctrCrypt key iv p, [])
  else if m = 3 then (if dec then gcmDec key iv aad p else gcmEnc key iv aad p)
  else if m = 4 then (if dec then ccmDec key iv aad p tagLen else ccmEnc key iv aad p tagLen)
  else if m = 5 then (xts dec key iv p, [])
  else ([], cmac key p)

/-- An operation with its computed outcome: status, sub-code, RESULT_LEN and outputs. `iv` is the IV used (drawn for GEN_IV). -/
def cipherOutcome (o : Op) (key iv : Octets) : Op :=
  let aad := o.input.take o.aadLen
  let p := slice o.input o.aadLen o.payLen
  let r := cipherRun o.mode o.opcode key (iv.take o.ivLen) aad p o.tagLen
  let tag := r.2.take o.tagLen
  let expect := o.input.drop (o.aadLen + o.payLen)
  let field := match o.src with | .barge _ _ _ => true | _ => false
  let out := if o.payLen = 0 then [] else [(o.dstAddr, r.1)]
  let tagOut := if o.tagLen = 0 then [] else [(o.tagAddr, tag ++ (if o.genIv then iv else []))]
  if o.opcode = 0x10 then { o with status := St.done, sub := 0, resLen := o.payLen, outs := out ++ tagOut }
  else if o.opcode = 0x12 then { o with status := St.done, sub := 0, resLen := o.tagLen, outs := tagOut }
  else if o.opcode = 0x13 then
    if octEq tag expect then { o with status := St.done, sub := 0, resLen := 0, outs := [] }
    else { o with status := St.untrusted, sub := 0x01, resLen := 0, outs := [] }
  else if ¬ modeTagged o.mode ∨ octEq tag expect then { o with status := St.done, sub := 0, resLen := o.payLen, outs := out }
  else if field then { o with status := St.untrusted, sub := 0x03, resLen := 0, outs := [] }
  else if o.scrub then
    { o with status := St.untrusted, sub := 0x02, resLen := o.payLen, outs := out.map (fun x => (x.1, zeros x.2.length)) }
  else { o with status := St.untrusted, sub := 0x01, resLen := o.payLen, outs := out }

/-- The outcome of a hash operation. -/
def hashOutcome (o : Op) (key : Octets) : Op :=
  let dg := if o.opcode = 0x20 then hashOf o.mode o.input else hmacOf o.mode key o.input
  { o with status := St.done, sub := 0, resLen := dg.length, outs := [(o.dstAddr, dg)] }

/-- Key material an operation runs under. -/
def Op.material (o : Op) : Octets := match o.key with | some s => s.material | none => []

/-- The source buffers of a firmware operation read through its engine's MPU (R345): permitted, or the refusal recorded. -/
def engSources (o : Op) : List (Nat × Nat × Bool) → Dev → Bool × Dev
  | [], d => (true, d)
  | b :: r, d =>
    if b.2.2 then engSources o r d
    else match engRead d o.engine o.served (ctxCol o.served) b.1 (packLen o.dense b.2.1) with
      | (true, d) => engSources o r d
      | f => f

/-- A lane operation's outcome, unless its engine may not read its buffers. -/
def fwGuard (d : Dev) (o out : Op) : Dev × Op :=
  match o.src with
  | .fwq _ _ =>
    match engSources o (fwBuffers o) d with
    | (true, d) => (d, out)
    | (false, d) => (d, { out with status := St.denied, sub := 0, resLen := 0, outs := [] })
  | _ => (d, out)

/-- R92: a cipher lane finishes an operation. With GEN_IV its descriptor holds the IV drawn at admission. -/
def cipherComplete (id : Nat) (d : Dev) : Dev :=
  match findOp d id with
  | some o =>
    match o.unit with
    | some (1, n) =>
      if o.phase = .admitted ∧ o.parts = 0 then
        let d := rgAdd d (Reg.CLN_OPS + 16 * n) 1
        let g := fwGuard d o (cipherOutcome o o.material (if o.genIv then o.iv.take 12 else o.iv))
        let d := g.1
        let o' := g.2
        finish (if o'.status = St.untrusted then rgAdd d (Reg.CLN_UNTRUSTED + 16 * n) 1 else d) o'
      else d
    | _ => d
  | none => d

/-- R94: a hash lane context finishes an operation. -/
def hashComplete (id : Nat) (d : Dev) : Dev :=
  match findOp d id with
  | some o =>
    match o.unit with
    | some (2, m) =>
      if o.phase = .admitted ∧ o.parts = 0 then
        let g := fwGuard (rgAdd d (Reg.HSH_OPS + 8 * m) 1) o (hashOutcome o o.material)
        finish g.1 g.2
      else d
    | _ => d
  | none => d

/-! ### Rebinding (R118 to R120) -/

/-- LANE of a ring changed; EPOCH advances when it does. -/
def bindRing (d : Dev) (r lane : Nat) : Dev :=
  if ringLane d r = lane then d
  else
    let x := ringGet d r
    ringSet (rgSet d (Reg.WHF_RING_ASSIGN + 8 * r) (setFld (ringAssign d r) 14 12 lane)) r { x with epoch := (x.epoch + 1) % 256 }

/-- The lane that takes over from one leaving service: its fallback if IN_SERVICE (cipher lanes only), else the next IN_SERVICE one
above it, wrapping. -/
def fallbackLane (d : Dev) (kind n : Nat) : Option Nat :=
  let c := unitCount kind
  let fb := fld (rg d (Reg.CLN_FALLBACK + 16 * n)) 2 0
  if kind = 1 ∧ inService d 1 fb then some fb
  else ((List.range c).map (fun i => (n + 1 + i) % c)).find? (fun m => inService d kind m)

/-- R120: every ring bound to a lane that leaves service is rebound. -/
def rebindFrom (d : Dev) (kind n : Nat) : Dev :=
  match fallbackLane d kind n with
  | none => d
  | some m =>
    (List.range 1024).foldl (fun d r =>
      if ringClass d r = (if kind = 1 then 0 else 1) ∧ ringLane d r = n then bindRing d r m else d) d

/-- R121, R57: a result a fenced unit produces after the fence is discarded and counted. -/
def lateResult (kind n : Nat) (d : Dev) : Dev :=
  if (part d kind n).state ≠ 3 then d
  else if kind = 1 then rgAdd (rgAdd d (Reg.CLN_LATE + 16 * n) 1) Reg.WHF_LATE_DISCARDS 1
  else if kind = 3 then rgAdd (rgAdd d Reg.GRD_LATE 1) Reg.WHF_LATE_DISCARDS 1
  else rgAdd d Reg.WHF_LATE_DISCARDS 1

/-! ### Firmware queues (R107) -/

/-- The 64-octet descriptor at a position of a firmware queue. -/
def fqDesc (d : Dev) (base p : Nat) : Octets :=
  let n := 2 ^ fld (rg d (base + 1)) 4 0
  memRdOct d false (rn d base + 16 * (p % n)) 64

/-- Is the queue enabled? -/
def fqOn (d : Dev) (base : Nat) : Bool := decide (4 ≤ fld (rg d (base + 1)) 4 0) && decide (fld (rg d (base + 1)) 4 0 ≤ 12)

/-- Position that an INDEX and GEN word names in a queue of n entries. -/
def posOf (w : Word) (n : Nat) : Nat := fld w 15 0 + fld w 16 16 * n

/-- INDEX and GEN word of a position. -/
def idxWord (p n : Nat) : Word := wd (p % n + (p / n % 2) * 2 ^ 16)

/-- The operation of the descriptor at a position of a queue, read under the core's own regions at the level of its doorbell: a descriptor that they refuse,
or that lies in no memory an engine reaches, gives an operation that ends with ACCESS_DENIED (R20, R349). DEDUCED (log entry 44). -/
def fqOp (mk : Nat → OpSrc) (base core pl h : Nat) (d : Dev) : Op × Dev :=
  let n := 2 ^ fld (rg d (base + 1)) 4 0
  let r := coreAllows d core pl 0 (rn d base + 16 * (h % n)) 16
  let o : Op := { id := 0, src := mk h, ctx := coreCtx core, pl := pl, desc := if r.1 then fqDesc d base h else fitTo 64 [], phase := .staged,
                  eligAt := d.pas.count + 1 }
  let end_ := fun (st : Nat) => { o with phase := .ended, status := st, dueAt := d.pas.count + 1 }
  (if d.keep.hold then end_ St.held else if r.1 then o else end_ St.denied, r.2)

/-- Descriptors from the head to the tail of a queue enter flight while context entries are free; `mk` names their source. The tail is
kept at base + 2, the head at `headReg`. -/
def fqFetch (mk : Nat → OpSrc) (base headReg core pl : Nat) : Nat → Dev → Dev
  | 0, d => d
  | f + 1, d =>
    let n := 2 ^ fld (rg d (base + 1)) 4 0
    let h := posOf (rg d headReg) n
    let t := posOf (rg d (base + 2)) n
    if h = t ∨ maxOps ≤ inFlight d then d
    else
      let x := fqOp mk base core pl h d
      fqFetch mk base headReg core pl f (addOp (rgSet x.2 headReg (idxWord ((h + 1) % (2 * n)) n)) x.1)

/-- A doorbell write to a firmware queue's TAIL: R69 with positions modulo twice the size. -/
def fqDoorbell (mk : Nat → OpSrc) (base headReg core pl : Nat) (v : Word) (d : Dev) : Dev :=
  let n := 2 ^ fld (rg d (base + 1)) 4 0
  let p := posOf v n
  let t := posDist n (posOf (rg d (base + 2)) n) p
  if ¬ fqOn d base ∨ n ≤ fld v 15 0 ∨ t = 0 ∨ n < t ∨ n < posDist n (posOf (rg d headReg) n) p then d
  else fqFetch mk base headReg core pl n { rgSet d (base + 2) (wd (v.toNat % 2 ^ 17)) with fqPl := tabSet 0 d.fqPl base pl }

/-- R80: a queue whose fetching stopped for want of context entries goes on as they free, at the level its TAIL was written at. -/
def fqResume (mk : Nat → OpSrc) (base headReg core : Nat) (d : Dev) : Dev :=
  if fqOn d base then fqFetch mk base headReg core (tabGet 0 d.fqPl base) (2 ^ fld (rg d (base + 1)) 4 0) d else d

/-- FWQ_DOORBELL: a write to CLN_FWQ_TAIL of queue q at a privilege level. -/
def clnDoorbell (q pl : Nat) (v : Word) (d : Dev) : Dev :=
  if 9 ≤ q then d
  else fqDoorbell (fun p => .fwq q p) (Reg.CLN_FWQ_BASE + 4 * q) (Reg.CLN_FWQ_HEAD + 4 * q) (fqCore q) pl v d

/-- The input of an admitted firmware operation, read from its buffers. -/
def fwInput (d : Dev) (o : Op) : Octets :=
  if o.isHash then memRdOct d o.dense o.srcAddr (o.f 16 4)
  else memRdOct d o.dense o.srcAddr (o.aadLen + o.payLen) ++
    (if (o.opcode = 0x11 ∧ modeTagged o.mode) ∨ o.opcode = 0x13 then memRdOct d o.dense o.tagAddr o.tagLen else [])

end Sys2Proof.Machine
end

