-- ==== Sys2Proof/Machine/Level.lean ====
section
/-! DEFINITION. The level step's rule tables (R49): one list of rules per register block, applied to the block as it would stand after
the chamber opens, and the Lockkeeper's cross-block rules. -/

namespace Sys2Proof.Machine

/-- One rule judged: its number, whether it refuses, and the register words it examined. -/
structure LRule where
  n : Nat
  bad : Bool
  ex : List Nat
  deriving DecidableEq, Repr

/-- The value a word would hold after the open: the chamber entry's writable bits over the live word. -/
def chmMerge (live val : Word) (mask : Nat) : Word :=
  (live &&& ~~~(wd mask)) ||| (val &&& wd mask)

def chmMask (a : Nat) : Nat :=
  match regRow a with
  | some r => r.chm
  | none => match mpuWord a with
    | some (_, _, 2) => 0xFF07FF
    | some _ => 0xFFFFFFFF0
    | none => 0

/-- Is the register in the field island? -/
def isFieldReg (a : Nat) : Bool :=
  match regRow a with
  | some r => decide (r.isl = 1)
  | none => match mpuWord a with | some (m, _, _) => isFieldMaster m | none => false

/-- Where the host island keeps a register word: a word of the field island in the chamber mirror (R244), changed at the edge that opens a chamber,
so that no host master sees a chamber half applied (R51). -/
def hostKey (a : Nat) : Nat := if isFieldReg a then a + 2 ^ 25 else a

/-- The live value of a word with CH fields as the host island knows it. -/
def hv (d : Dev) (a : Nat) : Word := rg d (hostKey a)

def chmView (d : Dev) (a : Nat) : Word :=
  match tabFind d.chm.entries a with
  | some e => chmMerge (hv d a) e.val (chmMask a)
  | none => hv d a

/-- The view as a number. -/
def cv (d : Dev) (a : Nat) : Nat := (chmView d a).toNat

/-- Does the chamber hold an entry for the word? -/
def hasEntry (d : Dev) (a : Nat) : Bool := (tabFind d.chm.entries a).isSome

/-- The words of an array. -/
def regArr (base cnt stride : Nat) : List Nat := (List.range cnt).map (fun i => base + stride * i)

/-- One rule per word of a list. -/
def eachWord (n : Nat) (ws : List Nat) (bad : Nat → Bool) : List LRule := ws.map (fun a => ⟨n, bad a, [a]⟩)

/-- Entries of the chamber among an array. -/
def entriesIn (d : Dev) (base cnt stride : Nat) : List Nat := (regArr base cnt stride).filter (hasEntry d)

/-- Non-zero and below a minimum. -/
def nonzeroBelow (d : Dev) (m a : Nat) : Bool := decide (cv d a ≠ 0) && decide (cv d a < m)

/-- R479. -/
def levelChm (d : Dev) : List LRule := [⟨1, decide (cv d Reg.CHM_APPROVAL_LIFE = 0), [Reg.CHM_APPROVAL_LIFE]⟩]

/-- Table 3.8. -/
def levelWhf (d : Dev) : List LRule :=
  let asg := entriesIn d Reg.WHF_RING_ASSIGN 1024 8
  let ring := fun a => (a - Reg.WHF_RING_ASSIGN) / 8
  let v := chmView d
  let bud := fun n => cv d (Reg.WHF_CLASS_BUDGET + n)
  let expr := (regArr Reg.WHF_RING_ASSIGN 1024 8).filter (fun a => bit (v a) 24)
  eachWord 1 asg (fun a => (decide (fld (v a) 10 8 ≠ fld (rg d a) 10 8) || decide (fld (v a) 5 0 ≠ fld (rg d a) 5 0)) &&
      decide ((ringGet d (ring a)).state ≠ .disabled)) ++
  [⟨2, decide (8 < expr.length), expr⟩,
   ⟨3, decide (2500000 < bud 0 + bud 1 + bud 5), [Reg.WHF_CLASS_BUDGET, Reg.WHF_CLASS_BUDGET + 1, Reg.WHF_CLASS_BUDGET + 5]⟩] ++
  eachWord 4 [Reg.WHF_CLASS_BUDGET, Reg.WHF_CLASS_BUDGET + 1, Reg.WHF_CLASS_BUDGET + 5] (nonzeroBelow d 65536) ++
  [⟨5, decide (2048 < ((regArr Reg.WHF_FN_VEC 64 1).map (cv d)).foldl (· + ·) 0), regArr Reg.WHF_FN_VEC 64 1⟩] ++
  eachWord 5 (regArr (Reg.WHF_FN_VEC + 1) 63 1) (fun a => decide (64 < cv d a)) ++
  eachWord 6 (regArr Reg.WHF_FN_CAP 64 1) (fun a => decide (131072 < cv d a)) ++
  eachWord 7 asg (fun a => (decide (2 ≤ fld (v a) 10 8) && decide (fld (v a) 10 8 ≤ 5) && decide (fld (v a) 14 12 ≠ 0)) ||
      (decide (fld (v a) 10 8 = 1) && decide (3 < fld (v a) 14 12))) ++
  eachWord 8 asg (fun a => decide (5 < fld (v a) 10 8)) ++
  eachWord 9 asg (fun a => (decide (fld (v a) 14 12 ≠ fld (rg d a) 14 12) || decide (fld (v a) 10 8 ≠ fld (rg d a) 10 8)) &&
      ((decide (fld (v a) 10 8 = 0) && !inService d 1 (fld (v a) 14 12)) ||
       (decide (fld (v a) 10 8 = 1) && !inService d 2 (fld (v a) 14 12))))

/-- Table 4.15, CLN. -/
def levelCln (d : Dev) : List LRule :=
  [⟨1, decide (cv d Reg.CLN_INLINE_WINDOW = 0) || decide (64 < cv d Reg.CLN_INLINE_WINDOW), [Reg.CLN_INLINE_WINDOW]⟩,
   ⟨2, decide (15 < cv d Reg.CLN_INLINE_HEADROOM), [Reg.CLN_INLINE_HEADROOM]⟩] ++
  eachWord 3 (regArr Reg.CLN_INLINE_MAX 8 16) (fun a => decide (50000 < cv d a)) ++
  eachWord 4 (regArr Reg.CLN_BUDGET_WHARF 8 16) (nonzeroBelow d 8202) ++
  eachWord 4 (regArr Reg.CLN_BUDGET_FW 8 16) (nonzeroBelow d 8202) ++
  eachWord 4 (regArr Reg.CLN_BUDGET_FIELD 8 16) (nonzeroBelow d 20)

/-- Table 4.15, HSH. -/
def levelHsh (d : Dev) : List LRule :=
  eachWord 1 (regArr Reg.HSH_BUDGET_WHARF 4 8) (nonzeroBelow d 32912) ++
  eachWord 1 (regArr Reg.HSH_BUDGET_FW 4 8) (nonzeroBelow d 32912) ++
  eachWord 1 (regArr Reg.HSH_BUDGET_FIELD 4 8) (nonzeroBelow d 176)

/-- LKG rule 1 (R291). Lane 2 carries messages of two barges, so that its budget is 2 at least (R36). DEDUCED (log entry 79). -/
def levelLkg (d : Dev) : List LRule :=
  eachWord 1 (regArr Reg.LKG_BUDGET 4 1) (fun a => decide (cv d a = 0) || decide (156 < cv d a)) ++
    eachWord 1 [Reg.LKG_BUDGET + 2] (fun a => decide (cv d a = 1))

/-- R292: identities a mailbox may bind. -/
def mbxIdent (m : Nat) : Bool := decide (m = 1) || isH m || (decide (0x40 ≤ m) && decide (m ≤ 0x7F))

/-- R297. -/
def levelMbx (d : Dev) : List LRule :=
  let es := entriesIn d Reg.MBX_BIND 64 4
  let v := chmView d
  let isFn := fun m => decide (0x40 ≤ m) && decide (m ≤ 0x7F)
  let ch := fun a => (a - Reg.MBX_BIND) / 4
  let page := fun c => cv d (Reg.MBX_PAGE_LO + 4 * c) + cv d (Reg.MBX_PAGE_HI + 4 * c)
  eachWord 1 es (fun a => !mbxIdent (fld (v a) 7 0) || !mbxIdent (fld (v a) 15 8) || decide (fld (v a) 7 0 = fld (v a) 15 8)) ++
  eachWord 2 (entriesIn d (Reg.MBX_BIND + 4 * 56) 32 1) (fun _ => true) ++
  eachWord 3 es (fun a => (isFn (fld (v a) 7 0) || isFn (fld (v a) 15 8)) && decide (page (ch a) = 0))

/-- Blocks the chamber touches, rising. -/
def blocksTouched (d : Dev) : List Nat :=
  (List.range 256).filter (fun b => d.chm.entries.any (fun e => decide (e.1 >>> 16 = b)))

/-- Index of a chamber entry in address order (R49): the lowest-indexed among the words examined. -/
def entryIndex (d : Dev) (ex : List Nat) : Option Nat :=
  d.chm.entries.findIdx? (fun e => decide (e.1 ∈ ex))

/-- The first rule that refuses: its number and the entry it names. `rules` gives the rule table of a block. -/
def firstBad (rules : Dev → Nat → List LRule) (d : Dev) : Option (Nat × Option Nat) :=
  (blocksTouched d).findSome? (fun b =>
    ((rules d b).find? (·.bad)).map (fun r => (r.n, entryIndex d r.ex)))

end Sys2Proof.Machine
end

