-- ==== Sys2Proof/Machine/Chamber.lean ====
section
/-! DEFINITION. The chamber (chapter 2): writes, commands, the level step, approvals and their expiry. What each block does when its
entries go live is in `Machine/Open.lean`. -/

namespace Sys2Proof.Machine

/-- The chamber sequence number: keep-domain monotonic counter 0. -/
def chmSeq (d : Dev) : Nat := tabGet 0 d.keep.monc 0

/-- R462: a keep-domain counter advanced by one; at 2^48 - 1 the increment is refused. -/
def moncInc (d : Dev) (i : Nat) : Dev :=
  { d with keep := { d.keep with monc := tabSet 0 d.keep.monc i (min (2 ^ 48 - 1) (tabGet 0 d.keep.monc i + 1)) } }

/-- A counter's value. -/
def monc (d : Dev) (i : Nat) : Nat := tabGet 0 d.keep.monc i

/-- The device as it would stand with every chamber entry live. -/
def chmAfter (d : Dev) : Dev := d.chm.entries.foldl (fun d e => rgSet d e.1 (chmMerge (hv d e.1) e.2.val (chmMask e.1))) d

/-- MPU regions that the chamber names: master and region. -/
def chmRegions (d : Dev) : List (Nat × Nat) := (d.chm.entries.filterMap (fun e => (mpuWord e.1).map (fun x => (x.1, x.2.1)))).eraseDups

/-- R353: does the chamber change a region in a protected way? -/
def chmRegionProtected (d : Dev) : Bool :=
  let a := chmAfter d
  (chmRegions d).any (fun x =>
    let old := regionOf (hv d) x.1 x.2
    protectedChange d x.1 old (region a x.1 x.2) || protectedChange a x.1 old (region a x.1 x.2))

/-- Does the chamber hold an entry that counts as containing a PS field, or a protected region change (CHM_STATE.PROTECTED)? -/
def chmProtected (d : Dev) : Bool := d.chm.entries.any (fun e => e.2.prot) || (!(chmRegions d).isEmpty && chmRegionProtected d)

/-- Field entries of the chamber. -/
def chmFieldEntries (d : Dev) : List (Nat × Word) :=
  (d.chm.entries.filter (fun e => isFieldReg e.1)).map (fun e => (e.1, e.2.val))

/-- Sticky bits of CHM_STATE. -/
def chmForeign (d : Dev) : Dev := rgOr d Reg.CHM_STATE (2 ^ 4)
def chmCmdErr (d : Dev) : Dev := rgOr d Reg.CHM_STATE (2 ^ 5)

/-- A CONFIG_PUSH barge: KIND, pairs and the low 24 bits of a sequence number (R289). -/
def configPush (kind seq : Nat) (ws : List Word) (count : Nat) : Barge :=
  { toField := true, lane := 0, type := 0x09, core := 4,
    payload := fit15 (wd (kind + count * 4 + seq % 2 ^ 24 * 32) :: ws) }

/-- The staged set is discarded at the field end when the chamber leaves a levelling that had pushed it. -/
def pushDiscard (d : Dev) : Dev :=
  if d.chm.pushed then queueBarge d 0 (configPush 2 (chmSeq d) [] 0) else d

/-- The chamber returns to FILLING: approvals are void, the sequence number advances, and CHM_ERR takes a code where one is given. -/
def chmRefill (d : Dev) (err : Option (Nat × Nat × Option Nat)) : Dev :=
  let d := pushDiscard d
  let c := d.chm
  let c := { c with state := .filling, approvals := [], pushed := false, acked := false }
  let c := match err with
    | some (code, rule, e) => { c with errCode := code, errRule := rule, errEntry := e }
    | none => c
  moncInc { d with chm := c } 0

/-- R393: a held ENTER_RETURN or LEAVE_RETURN response is given up with the chamber that carries the matching LCS_REQUEST. -/
def authSpent (d : Dev) : Dev :=
  match tabFind d.chm.entries Reg.LCS_REQUEST with
  | some e =>
    let t := fld e.val 2 0
    if bit e.val 3 then { d with life := { d.life with auth := d.life.auth.filter (fun p => decide (t ≠ if p = 2 then 4 else 3)) } } else d
  | none => d

/-- Entries erased: EMPTY, the sequence number advances. -/
def chmEmpty (d : Dev) : Dev :=
  let d := authSpent (pushDiscard d)
  let c := d.chm
  moncInc { d with chm := { errCode := c.errCode, errRule := c.errRule, errEntry := c.errEntry, waiting := c.waiting,
                            digest := c.digest } } 0

/-! ### Writes (R47, R484) -/

/-- Does an entry count as containing a PS field, judged against the live word? -/
def entryProt (d : Dev) (a : Nat) (v : Word) : Bool :=
  match regRow a with
  | some r => if r.ch = 0 then decide (r.ps ≠ 0) else decide ((v ^^^ hv d a) &&& wd r.ps ≠ 0)
  | none => false

/-- May the master write the chamber now? -/
def chmMayWrite (d : Dev) (m : Nat) : Bool :=
  (decide (d.chm.state = .filling) || decide (d.chm.state = .levelled)) && decide (d.chm.owner = m)

/-- R353 judges MPU region words by a rule of its own: does the pair of region words cover a SEALED region? Set by the caller. -/
def chmPut (prot : Bool) (a : Nat) (v : Word) (d : Dev) : Dev :=
  let d := if d.chm.state = .levelled then chmRefill d none else d
  let c := d.chm
  if (tabFind c.entries a).isNone ∧ 4096 ≤ c.entries.length then { d with chm := { c with tooMany := true } }
  else { d with chm := { c with entries := tabPut c.entries a ⟨v, prot⟩ } }

/-- A write to a word with CH or PS fields (R47). -/
def chmWrite (m a : Nat) (v : Word) (d : Dev) : Dev :=
  if chmMayWrite d m then
    let v := v &&& wd (chmMask a)
    chmPut (entryProt d a v) a v d
  else chmForeign d

/-! ### Commands (R48, Table 2.5) -/

/-- Two approvals are held, or none is needed. -/
def approvalsOk (d : Dev) : Bool := !chmProtected d || decide (d.chm.approvals.length = 2)

/-- A chamber command: the device after it, and whether it was taken. `target` is the pass OPEN_AT names. -/
def chmCommand (action m target : Nat) (d : Dev) : Dev × Bool :=
  let c := d.chm
  let own := decide (c.owner = m)
  if action = 1 ∧ c.state = .empty then
    ({ d with chm := { c with state := .filling, owner := m, tooMany := false, errCode := 0, errRule := 0, errEntry := none } }, true)
  else if action = 2 ∧ own ∧ c.state = .filling then
    ({ d with chm := { c with state := .levelling, levelAt := d.pas.count, pushed := false, acked := false } }, true)
  else if action = 3 ∧ own ∧ c.state = .levelled ∧ approvalsOk d then
    ({ d with chm := { c with state := .scheduled, target := d.pas.count + 1 } }, true)
  else if action = 4 ∧ own ∧ c.state = .levelled ∧ target ≤ d.pas.count then (chmRefill d (some (0x07, 0, none)), true)
  else if action = 4 ∧ own ∧ c.state = .levelled ∧ approvalsOk d then
    ({ d with chm := { c with state := .scheduled, target := target } }, true)
  else if action = 5 ∧ own ∧ c.state = .scheduled then ({ d with chm := { c with state := .levelled } }, true)
  else if action = 6 ∧ (own ∨ m = 1) ∧ c.state ≠ .empty then (chmEmpty d, true)
  else (chmCmdErr d, false)

/-- The pass CHM_OPEN_AT names. -/
def chmOpenAt (d : Dev) : Nat := ofLoHi (rg d Reg.CHM_OPEN_AT_LO) (rg d Reg.CHM_OPEN_AT_HI)

/-! ### The level step (R49, R50, R289) -/

/-- Pairs of field words and values cut into barges of seven. -/
def pushBarges (kind seq : Nat) : Nat → List (Nat × Word) → List Barge
  | 0, _ => []
  | f + 1, es =>
    if es.isEmpty then []
    else configPush kind seq ((es.take 7).flatMap (fun e => [wd e.1, e.2])) (es.take 7).length :: pushBarges kind seq f (es.drop 7)

/-- R50: the octet string the chamber digest is taken over. -/
def digestInput (d : Dev) (nonce : Octets) : Octets :=
  d.life.devid ++ leOct 6 (chmSeq d) ++ nonce ++ leOct 4 d.chm.entries.length ++
    d.chm.entries.flatMap (fun e => leOct 9 (0xF00000000 + e.1 + e.2.val.toNat * 2 ^ 36))

/-- R216: a chamber that arms a rotation draws the new basin KEK at its level step. -/
def drawBasin (d : Dev) : Dev :=
  match tabFind d.chm.entries Reg.BSN_ROTATE with
  | some e =>
    if bit e.val 0 then
      let x := hwDraw d 2
      { x.2 with bsn := { x.2.bsn with drawn := x.1 } }
    else d
  | none => d

/-- The chamber becomes LEVELLED with a fresh nonce and digest. -/
def chmLevelled (d : Dev) : Dev :=
  let d := drawBasin d
  let x := hwDraw d 1
  let d := x.2
  { d with chm := { d.chm with state := .levelled, nonce := x.1, digest := sha384 (digestInput d x.1), approvals := [],
                               errCode := 0, errRule := 0, errEntry := none } }

/-- R292: PS words locked until a reset: the mailbox bindings once a chamber that set them has opened. -/
def chmLocked (d : Dev) : Option (Nat × Nat × Option Nat) :=
  match d.chm.entries.findIdx? (fun e => tabGet false d.pinned e.1) with
  | some i => some (0x02, 0, some i)
  | none => none

/-- The checks of the level step in order: the code to report, if any fails. R49 does not order the chamber-wide ones among themselves: they are taken in
the order of Table 2.6's codes. DESIGN CHOICE (log entry 75). `rules` gives each block's rule table; `life` and `cross` are the life-cycle check and the
Lockkeeper's cross-block rules. -/
def levelChecks (rules : Dev → Nat → List LRule) (life cross : Dev → Option (Nat × Nat × Option Nat)) (d : Dev) : Option (Nat × Nat × Option Nat) :=
  if d.chm.tooMany then some (0x01, 0, none)
  else match chmLocked d with
  | some e => some e
  | none => match life d with
  | some e => some e
  | none =>
    if ¬ (chmFieldEntries d).isEmpty ∧ ¬ d.lkg.fieldUp then some (0x06, 0, none)
    else match firstBad rules d with
    | some (n, e) => some (0x03, n, e)
    | none => cross d

/-- The level step moves on: a failing check returns the chamber to FILLING; field entries are pushed and awaited; then K draws the
nonce, waiting while the Hopper is STARTING. `last` marks the end of the eighth pass. -/
def levelStep (rules : Dev → Nat → List LRule) (life cross : Dev → Option (Nat × Nat × Option Nat)) (last : Bool) (d : Dev) : Dev :=
  if d.chm.state ≠ .levelling then d
  else match levelChecks rules life cross d with
  | some e => chmRefill d (some e)
  | none =>
    let fe := chmFieldEntries d
    if ¬ fe.isEmpty ∧ ¬ d.chm.pushed then
      let d := (pushBarges 0 (chmSeq d) fe.length fe).foldl (fun d b => queueBarge d 0 b) d
      if last then chmRefill { d with chm := { d.chm with pushed := true } } (some (0x06, 0, none))
      else { d with chm := { d.chm with pushed := true } }
    else if ¬ fe.isEmpty ∧ ¬ d.chm.acked then (if last then chmRefill d (some (0x06, 0, none)) else d)
    else if hopServes d 3 then chmLevelled d
    else if hopWaits d 3 ∧ ¬ last then d
    else chmRefill d (some (0x0A, 0, none))

/-! ### Approvals (R53 to R55) -/

/-- Table 2.8: fields of an approval token. -/
def tokRoster (t : Octets) : Nat := leAt t 3 1
def tokSeq (t : Octets) : Nat := leAt t 4 6

/-- R8: is the token malformed? -/
def tokBad (t : Octets) : Bool :=
  decide (leAt t 0 2 ≠ 1) || decide (leAt t 2 1 ≠ 1) || decide (63 < leAt t 3 1) || decide (leAt t 10 6 ≠ 0)

/-- A chamber that may be approved: LEVELLED or SCHEDULED with fewer than two approvals. -/
def chmOpenForApproval (d : Dev) : Bool :=
  (decide (d.chm.state = .levelled) || decide (d.chm.state = .scheduled)) && decide (d.chm.approvals.length < 2)

def alreadyApproved (d : Dev) (roster : Nat) : Bool := d.chm.approvals.any (fun a => decide (a.roster = roster))

/-- The conditions of R55 other than the signature, in the order posted. `empty` tells that the roster entry is empty. -/
def tokenFail (d : Dev) (empty : Bool) (t : Octets) : Option Nat :=
  if ¬ chmOpenForApproval d then some 0x05
  else if ¬ chmProtected d then some 0x06
  else if slice t 16 16 ≠ d.life.devid ∨ tokSeq t ≠ chmSeq d ∨ slice t 32 48 ≠ d.chm.digest then some 0x02
  else if empty then some 0x03
  else if alreadyApproved d (tokRoster t) then some 0x04
  else none

/-- R53: what still holds at the acceptance edge, or the sub-code it completes with. -/
def acceptFail (d : Dev) (p : PendingApproval) : Option Nat :=
  if p.seq ≠ chmSeq d ∨ p.digest ≠ d.chm.digest then some 0x02
  else if ¬ chmOpenForApproval d then some 0x05
  else if alreadyApproved d p.roster then some 0x04
  else none

/-- An approval accepted at this edge. -/
def addApproval (d : Dev) (roster : Nat) : Dev :=
  { d with chm := { d.chm with approvals := d.chm.approvals ++ [⟨roster, d.pas.count⟩] } }

/-- Step 2: approvals verified in an earlier pass are accepted, or their operations complete with ACCESS_DENIED; those of this pass wait for the next
edge. -/
def acceptApprovals (d : Dev) : Dev :=
  let ps := d.chm.waiting.filter (fun p => decide (p.pass < d.pas.count))
  ps.foldl (fun d p =>
    match acceptFail d p with
    | none =>
      let d := addApproval d p.roster
      (match p.op.bind (findOp d) with
       | some o => endWith d o St.done 0 d.pas.count (d.pas.count - 1)
       | none => d)
    | some sub =>
      (match p.op.bind (findOp d) with
       | some o => endWith d o St.denied (if p.iface.isSome then (if sub = 0x04 then 0x15 else 0x14) else sub) d.pas.count (d.pas.count - 1)
       | none => d)) { d with chm := { d.chm with waiting := d.chm.waiting.filter (fun p => decide (d.pas.count ≤ p.pass)) } }

/-- Step 2: an approval whose lifetime ends at this edge voids all and returns the chamber to FILLING (R53). -/
def expireApprovals (d : Dev) : Dev :=
  if (d.chm.state = .levelled ∨ d.chm.state = .scheduled) ∧
     d.chm.approvals.any (fun a => decide (a.at_ + rn d Reg.CHM_APPROVAL_LIFE ≤ d.pas.count)) then
    chmRefill d (some (0x08, 0, none))
  else d

/-! ### The opening (R51) -/

/-- A SCHEDULED chamber at its target edge: what stops it, if anything. -/
def openFail (d : Dev) : Option Nat :=
  if d.keep.hold then some 0x09
  else if ¬ (chmFieldEntries d).isEmpty ∧ ¬ d.lkg.fieldUp then some 0x06
  else if ¬ approvalsOk d then some 0x08
  else none

/-- Every entry becomes live on the host island, those of field words in the mirror; the field end is told to apply its staged set at this edge
(R289). -/
def applyEntries (d : Dev) : Dev :=
  let es := d.chm.entries
  let d := if (chmFieldEntries d).isEmpty then d else { d with fld := { d.fld with apply := true } }
  es.foldl (fun d e => rgSet d (hostKey e.1) (chmMerge (hv d e.1) e.2.val (chmMask e.1))) d

end Sys2Proof.Machine
end

