-- ==== Sys2Proof/Machine/Inline.lean ====
section
/-! DEFINITION. Inline link sealing (chapter 5): classification, sealing and opening of frames, the four stages, the uncontrolled port,
SA states, events and counters. -/

namespace Sys2Proof.Machine

/-! ### Links, streams, counters -/

/-- A stream; by default the stream k is served by lane k (R123). -/
def stream (d : Dev) (k : Nat) : Stream := tabGet { lane := k } d.ils.streams k
def setStream (d : Dev) (k : Nat) (x : Stream) : Dev :=
  { d with ils := { d.ils with streams := if x = { lane := k } then tabErase d.ils.streams k else tabPut d.ils.streams k x } }

def linkOff (link : Nat) : Nat := 32 * link

/-- R142: a 64-bit saturating counter. -/
def cntAdd (d : Dev) (k n : Nat) : Dev :=
  { d with ils := { d.ils with cnt := tabSet 0 d.ils.cnt k (min (2 ^ 64 - 1) (tabGet 0 d.ils.cnt k + n)) } }

def linkCnt (d : Dev) (link c : Nat) : Dev := cntAdd d (link * 32 + c) 1
def saCnt (d : Dev) (sa c n : Nat) : Dev := cntAdd d (2 ^ 16 + sa * 32 + c) n

/-- A condition of a link's ports (PLAIN_UP, SEALED_UP and the two FEC locks). -/
def portUp (d : Dev) (link b : Nat) : Bool := tabGet false d.ils.up (link * 4 + b)

/-- Is the host island's pipeline released with this link in use: enabled, in service or draining, not in HOLD (Table 5.10), its SA keys not
withheld (R384), and the unit not in REPLAY mode (R442)? -/
def linkOpen (d : Dev) (link : Nat) : Bool :=
  bit (rg d (Reg.ILS_LINK_CTL + linkOff link)) 0 && !d.keep.hold && decide ((part d 7 link).state < 2) &&
    !kekWithheld d && decide (4 ≤ d.rst.hostStep) && decide (d.rpl.mode < 2)

/-! ### SAs -/

def saGet (d : Dev) (s : Nat) : Sa := tabGet {} d.ils.sas s
def saSet (d : Dev) (s : Nat) (x : Sa) : Dev := { d with ils := { d.ils with sas := tabSet {} d.ils.sas s x } }

def saCtl (d : Dev) (s : Nat) : Word := rg d (Reg.ILS_SA_CTL + 8 * s)
def saValid (d : Dev) (s : Nat) : Bool := bit (saCtl d s) 0
def saRx (w : Word) : Bool := bit w 1
def saLink (w : Word) : Nat := fld w 3 2
def saAn (w : Word) : Nat := fld w 5 4
def saXpn (w : Word) : Bool := bit w 6
def saConf (w : Word) : Bool := bit w 7
def saSlot (w : Word) : Nat := fld w 23 10

def saSci (d : Dev) (s : Nat) : Nat := ofLoHi (rg d (Reg.ILS_SA_SCI_LO + 8 * s)) (rg d (Reg.ILS_SA_SCI_HI + 8 * s))
def saWindow (d : Dev) (s : Nat) : Nat := rn d (Reg.ILS_SA_WINDOW + 2 * s)

/-- R137: the largest PN of the SA's suite. -/
def pnMax (w : Word) : Nat := if saXpn w then 2 ^ 64 - 1 else 2 ^ 32 - 1

/-- Salt octets 0 to 11, quad packing. -/
def saSalt (d : Dev) (s : Nat) : Octets :=
  quadUnpack [rg d (Reg.ILS_SA_SALT0 + 8 * s), rg d (Reg.ILS_SA_SALT1 + 8 * s), rg d (Reg.ILS_SA_SALT2 + 8 * s)]

/-- The GCM IV of a frame: SCI and PN, or for the XPN suite the salt over SSCI and the 64-bit PN. -/
def frameIv (d : Dev) (s sci pn : Nat) : Octets :=
  if saXpn (saCtl d s) then xorOct (saSalt d s) (beOct 4 (rn d (Reg.ILS_SA_SSCI + 2 * s)) ++ beOct 8 pn)
  else beOct 8 sci ++ beOct 4 pn

/-- An event of a link with the SA it concerns: the ILS_EVENT bit, an admitted input of H0, and the PF vector at the next edge (R137,
R139). `b` is 0 for PN_WARN, 4 for FROZEN. -/
def saEvent (d : Dev) (link s b : Nat) : Dev :=
  pushInput (rgSet (rgOr d Reg.ILS_EVENT (2 ^ (b + link))) Reg.ILS_EVENT_SA (wd s)) 0x10 1 (keyInline link) d.pas.count [b, s]

/-- R137: the SA, of a link, freezes. -/
def freezeSa (link s : Nat) (d : Dev) : Dev :=
  if (saGet d s).state = 1 then saEvent (saSet d s { saGet d s with state := 2 }) link s 4 else d

/-- The link's warning threshold (R139). -/
def pnThreshold (d : Dev) (link : Nat) : Nat :=
  ofLoHi (rg d (Reg.ILS_LINK_PN_WARN_LO + linkOff link)) (rg d (Reg.ILS_LINK_PN_WARN_HI + linkOff link))

/-- R139: the next PN of an ACTIVE transmit SA has reached its link's threshold. An SA warns once of a threshold (log entry 82). -/
def pnWarn (s : Nat) (d : Dev) : Dev :=
  let w := saCtl d s
  let x := saGet d s
  let thr := pnThreshold d (saLink w)
  if ¬ saRx w ∧ x.state = 1 ∧ thr ≠ 0 ∧ thr ≤ x.next ∧ x.warned ≠ thr then
    saEvent (saSet d s { x with warned := thr }) (saLink w) s 0
  else d

/-! ### Sealing (R126) -/

/-- The SecTAG built for a frame: EtherType, TCI and AN, SL, PN and, with SC, the SCI. -/
def secTag (d : Dev) (link s pn userLen : Nat) : Octets :=
  let ctl := rg d (Reg.ILS_LINK_CTL + linkOff link)
  let w := saCtl d s
  let sc := bit ctl 1
  let sci := ofLoHi (rg d (Reg.ILS_LINK_TX_SCI_LO + linkOff link)) (rg d (Reg.ILS_LINK_TX_SCI_HI + linkOff link))
  beOct 2 0x88E5 ++ leOct 1 (64 * b2n (bit ctl 2) + 32 * b2n sc + 12 * b2n (saConf w) + saAn w) ++
    leOct 1 (if userLen < 48 then userLen else 0) ++ beOct 4 (pn % 2 ^ 32) ++ (if sc then beOct 8 sci else [])

/-- The link's transmit SCI. -/
def txSci (d : Dev) (link : Nat) : Nat :=
  ofLoHi (rg d (Reg.ILS_LINK_TX_SCI_LO + linkOff link)) (rg d (Reg.ILS_LINK_TX_SCI_HI + linkOff link))

/-- The sealed frame, with the SecTAG and IV the classifier gave it. -/
def sealFrame (key : Octets) (f : Frame) : Octets :=
  let user := f.data.drop 12
  let h := f.data.take 12 ++ f.tag
  if f.conf then let r := gcmEnc key f.iv h user; h ++ r.1 ++ r.2
  else h ++ user ++ (gcmEnc key f.iv (h ++ user) []).2

/-- A frame with all that step 3 of R126 gives it: the PN, the SecTAG, and what the lane seals it with. -/
def protectFrame (d : Dev) (link s pn : Nat) (fr : Octets) : Frame :=
  let w := saCtl d s
  { data := fr, sa := some s, pn := pn, tag := secTag d link s pn (fr.drop 12).length, conf := saConf w, iv := frameIv d s (txSci d link) pn,
    last := decide (pn = pnMax w) }

/-- Steps 2 and 3 of R126: the frame gets the link's transmit SA and its next PN, or is dropped and counted. -/
def classifyPlain (link : Nat) (fr : Octets) (d : Dev) : Option Frame × Dev :=
  let t := rg d (Reg.ILS_LINK_TX_SA + linkOff link)
  let s := fld t 11 0
  let x := saGet d s
  let w := saCtl d s
  if ¬ bit t 12 ∨ ¬ saValid d s ∨ saRx w ∨ saLink w ≠ link then (none, linkCnt d link 6)
  else if x.state = 2 then (none, linkCnt d link 7)
  else if x.state ≠ 1 then (none, linkCnt d link 6)
  else
    let d := pnWarn s (saSet d s { x with next := x.next + 1 })
    (some (protectFrame d link s x.next fr), if x.next = pnMax w then freezeSa link s d else d)

/-! ### Opening (R127) -/

/-- A received SecTAG: whether it is acceptable, its fields, its length, and the user data with the ICV. -/
structure RxTag where
  ok : Bool
  es : Bool
  sc : Bool
  enc : Bool
  an : Nat
  pn : Nat
  sci : Nat
  len : Nat
  user : Octets
  icv : Octets
  deriving DecidableEq, Repr

def parseTag (fr : Octets) : RxTag :=
  let tci := leAt fr 14 1
  let sl := leAt fr 15 1
  let sc := tci.testBit 5
  let len := if sc then 16 else 8
  let body := fr.drop (12 + len)
  let n := body.length - 16
  let slOk := decide (sl < 48) && (if sl = 0 then decide (48 ≤ n) else decide (n = sl) || (decide (sl < n) && decide (fr.length ≤ 60)))
  let m := if sl = 0 then n else sl
  { ok := !tci.testBit 7 && !tci.testBit 4 && !(tci.testBit 3 && !tci.testBit 2) && slOk && decide (28 + len ≤ fr.length),
    es := tci.testBit 6, sc := sc, enc := tci.testBit 3, an := tci % 4, pn := beNat (slice fr 16 4),
    sci := beNat (slice fr 20 8), len := len, user := body.take m, icv := slice body m 16 }

/-- Step 4: the SCI a frame belongs to. -/
def rxSci (d : Dev) (link : Nat) (fr : Octets) (t : RxTag) : Nat :=
  if t.sc then t.sci else if t.es then beNat (slice fr 6 6) * 2 ^ 16 + 1
  else ofLoHi (rg d (Reg.ILS_LINK_PEER_SCI_LO + linkOff link)) (rg d (Reg.ILS_LINK_PEER_SCI_HI + linkOff link))

/-- The VALID receive SA with this link, SCI and AN; one whose key a ZEROISE_SESSION has wiped is EMPTY and none (R363, log entry 82). -/
def findRxSa (d : Dev) (link sci an : Nat) : Option Nat :=
  (List.range 4096).find? (fun s => saValid d s && saRx (saCtl d s) && decide (saLink (saCtl d s) = link) &&
    decide (saSci d s = sci) && decide (saAn (saCtl d s) = an) && (saGet d s).keyed && decide ((saGet d s).state ≠ 0))

/-- Step 5: the full PN recovered from its low 32 bits and the lowest acceptable PN, of 64 bits (802.1AEbw). -/
def recoverPn (xpn : Bool) (low pn32 : Nat) : Nat :=
  if ¬ xpn then pn32
  else (low / 2 ^ 32 * 2 ^ 32 + pn32 + (if low.testBit 31 && !pn32.testBit 31 then 2 ^ 32 else 0)) % 2 ^ 64

/-- Steps 3 to 5 of R127. DESIGN CHOICE (log entry 96): a PN is compared with the lowest acceptable one here and not again in step 7, so a duplicate
classified before the first frame is accepted passes too. -/
def classifySealed (link : Nat) (fr : Octets) (d : Dev) : Option Frame × Dev :=
  let t := parseTag fr
  if ¬ t.ok then (none, linkCnt d link 9)
  else match findRxSa d link (rxSci d link fr t) t.an with
  | none => (none, linkCnt d link 10)
  | some s =>
    let x := saGet d s
    let pn := recoverPn (saXpn (saCtl d s)) x.low t.pn
    if x.state = 2 then (none, saCnt d s 3 1)
    else if pn < x.low then (none, saCnt d s 1 1)
    else (some { data := fr, sa := some s, pn := pn, iv := frameIv d s (rxSci d link fr t) pn, last := decide (pn = pnMax (saCtl d s)) }, d)

/-- The plain frame of an opened one, when its ICV verifies. -/
def openFrame (key : Octets) (f : Frame) : Option Octets :=
  let t := parseTag f.data
  let h := f.data.take (12 + t.len)
  if t.enc then
    let r := gcmDec key f.iv h t.user
    if octEq r.2 t.icv then some (f.data.take 12 ++ r.1) else none
  else if octEq (gcmEnc key f.iv (h ++ t.user) []).2 t.icv then some (f.data.take 12 ++ t.user) else none

/-- Step 7: the SA's PNs after an accepted frame. -/
def acceptPn (link s : Nat) (f : Frame) (d : Dev) : Dev :=
  let x := saGet d s
  let next := max x.next (f.pn + 1)
  let d := saCnt (saSet d s { x with next := next, low := max x.low (next - saWindow d s) }) s 0 1
  if f.last then freezeSa link s d else d

/-! ### Stages (R129 to R131) -/

abbrev bufIngress : Nat := 131072
abbrev bufClassifier : Nat := 1048576
abbrev bufCipher : Nat := 262144
abbrev bufEgress : Nat := 655360

def octets (fs : List Frame) : Nat := (fs.map (fun f => f.data.length)).foldl (· + ·) 0

/-- Can a stage take a frame whole? -/
def roomFor (buf : Nat) (fs : List Frame) (n : Nat) : Bool := decide (octets fs + n ≤ buf)

/-- Does the frame carry an uncontrolled-port frame's EtherType, or MAC Control's? -/
def etherType (fr : Octets) : Nat := beNat (slice fr 12 2)

/-- R128: a frame received for the uncontrolled port is written to the link's receive queue, or dropped and counted: one whose entry the
pipeline's own MPU refuses too (R20, log entry 82). DESIGN CHOICE (log entry 96): so is one whose length is not one an entry can hold, 60 to 1,514. -/
def uqReceive (link : Nat) (fr : Octets) (d : Dev) : Dev :=
  let b := Reg.ILS_UQ_RX_BASE + linkOff link
  let lg := fld (rg d (b + 1)) 4 0
  let n := 2 ^ lg
  let head := posOf (rg d (Reg.ILS_UQ_RX_HEAD + linkOff link)) n
  let tail := posOf (rg d (Reg.ILS_UQ_RX_TAIL + linkOff link)) n
  if lg < 2 ∨ 6 < lg ∨ posDist n head tail = n ∨ fr.length < 60 ∨ 1514 < fr.length then linkCnt d link 11
  else
    let at_ := rn d b + 512 * (tail % n)
    let w := engWriteAt d 0xA8 0x10 0 at_ (wd fr.length :: packOct false fr)
    if ¬ w.1 then linkCnt w.2 link 11
    else
      let d := rgSet w.2 (Reg.ILS_UQ_RX_TAIL + linkOff link) (idxWord ((tail + 1) % (2 * n)) n)
      noteMem (pushInput d 0x10 1 (keyUq link) d.pas.count [link, tail % n]) [(at_, 1 + packLen false fr.length)]

/-- Ingress to classifier: the oldest frame is classified when the classifier has room. -/
def toClassifier (k : Nat) (d : Dev) : Dev :=
  let x := stream d k
  match x.ingress with
  | [] => d
  | f :: rest =>
    let link := k / 2
    if k % 2 = 1 ∧ etherType f.data = 0x888E then uqReceive link f.data (setStream d k { x with ingress := rest })
    else if k % 2 = 1 ∧ etherType f.data ≠ 0x88E5 then linkCnt (setStream d k { x with ingress := rest }) link 8
    else if ¬ roomFor bufClassifier x.classifier f.data.length then d
    else
      let r := if k % 2 = 0 then classifyPlain link f.data (setStream d k { x with ingress := rest })
               else classifySealed link f.data (setStream d k { x with ingress := rest })
      match r.1 with
      | none => r.2
      | some g => setStream r.2 k { stream r.2 k with classifier := (stream r.2 k).classifier ++ [g] }

/-- Octets of an inline frame that a lane is given: the plain frame's length, without padding. -/
def inlineOctets (k : Nat) (f : Frame) : Nat := if k % 2 = 0 then f.data.length else 12 + (parseTag f.data).user.length

/-- R113, R131: lane cycles of an inline frame. -/
def inlineCharge (k : Nat) (f : Frame) : Nat := 2 + ceilDiv (inlineOctets k f) 16

/-- Classifier to cipher: when the lane is IN_SERVICE and has slots left in this pass (R116); a frame that finds none waits and is counted
once. -/
def toCipher (k : Nat) (d : Dev) : Dev :=
  let x := stream d k
  match x.classifier with
  | [] => d
  | f :: rest =>
    let n := x.lane
    let u := laneUse d n
    let c := inlineCharge k f
    if ¬ inService d 1 n ∨ ¬ roomFor bufCipher x.cipher f.data.length then d
    else if 50000 < u.now + c + spentOf d (Reg.CLN_ALLOW + 16 * n) then
      if f.waited then d
      else rgAdd (setStream d k { x with classifier := { f with waited := true } :: rest }) (Reg.CLN_INLINE_HELD + 16 * n) 1
    else
      setStream (bwAdd (22 + n) (inlineOctets k f) { d with lanes := tabSet {} d.lanes n { u with now := u.now + c } }) k
        { x with classifier := rest, cipher := x.cipher ++ [{ f with lane := n }] }

/-- Cipher to egress: the frame is sealed, or opened and checked, when the egress stage has room. A frame whose SA has lost its key is one
without SA; a receive SA that has frozen since processes none (R137). -/
def toEgress (k : Nat) (d : Dev) : Dev :=
  let x := stream d k
  match x.cipher with
  | [] => d
  | f :: rest =>
    let link := k / 2
    let s := f.sa.getD 0
    let a := saGet d s
    let gone := setStream d k { x with cipher := rest }
    if ¬ a.keyed then linkCnt gone link (if k % 2 = 0 then 6 else 10)
    else if k % 2 = 0 then
      let out := sealFrame a.key f
      if ¬ roomFor bufEgress x.egress out.length then d
      else
        let d := setStream d k { x with cipher := rest, egress := x.egress ++ [{ f with data := out }] }
        if f.conf then saCnt d s 1 1 else saCnt (saCnt d s 0 1) s 2 (f.data.length - 12)
    else if a.state = 2 then saCnt gone s 3 1
    else match openFrame a.key f with
      | none => saCnt gone s 2 1
      | some p =>
        let out := fitTo (max 60 p.length) p
        if ¬ roomFor bufEgress x.egress out.length then d
        else acceptPn link s f (setStream d k { x with cipher := rest, egress := x.egress ++ [{ f with data := out }] })

/-- Table 5.12: a word of a frame in the packet SRAM fails its check: a tamper event, and one more of INTEGRITY_DROPS. The word's address is a
free value: packet SRAM has none (log entry 82). -/
def integrityDrop (link : Nat) (d : Dev) : Dev :=
  let r := drawWord d
  linkCnt (wccFail 3 0xA8 r.1.toNat 2 r.2) link 14

/-- The stream without the oldest frame of a stage (3 egress); none where the stage is empty. -/
def Stream.dropped (x : Stream) (stage : Nat) : Option Stream :=
  if stage = 0 then (if x.ingress.isEmpty then none else some { x with ingress := x.ingress.tail })
  else if stage = 1 then (if x.classifier.isEmpty then none else some { x with classifier := x.classifier.tail })
  else if stage = 2 then (if x.cipher.isEmpty then none else some { x with cipher := x.cipher.tail })
  else if x.egress.isEmpty then none else some { x with egress := x.egress.tail }

/-- A check code failure of the oldest frame of a stage: it is dropped. -/
def stageIntegrity (k stage : Nat) (d : Dev) : Dev :=
  match (stream d k).dropped stage with
  | none => d
  | some x => integrityDrop (k / 2) (setStream d k x)

/-- STAGE_ADVANCE: the oldest frame of a stage (0 ingress, 1 classifier, 2 cipher) moves on; `integ` tells that its words fail their check. -/
def stageAdvance (k stage : Nat) (integ : Bool) (d : Dev) : Dev :=
  if ¬ linkOpen d (k / 2) ∨ 8 ≤ k ∨ 2 < stage then d
  else if integ then stageIntegrity k stage d
  else if stage = 0 then toClassifier k d else if stage = 1 then toCipher k d else toEgress k d

/-- R126, R127 step 1: a frame arrives whole at a port with its check outcome; lengths include the FCS. Every frame of EtherType 0x8808, whatever its MAC
Control opcode, counts as one of flow control: DESIGN CHOICE (log entry 75). -/
def frameArrival (k : Nat) (fr : Octets) (fcsOk : Bool) (d : Dev) : Dev :=
  let link := k / 2
  let maxLen := if k % 2 = 0 then 9184 else 9216
  if ¬ linkOpen d link ∨ (part d 7 link).state ≠ 0 ∨ 8 ≤ k then d
  else if ¬ fcsOk then linkCnt d link (k % 2)
  else if maxLen < fr.length + 4 then linkCnt d link 2
  else if fr.length + 4 < 64 then linkCnt d link 3
  else if etherType fr = 0x8808 then linkCnt d link 15
  else if ¬ roomFor bufIngress (stream d k).ingress fr.length then linkCnt d link (4 + k % 2)
  else toClassifier k (setStream d k { stream d k with ingress := (stream d k).ingress ++ [{ data := fr }] })

/-! ### The wire and the uncontrolled transmit queue -/

/-- Frames of the uncontrolled transmit queue enter the egress stage while it has room. An entry with a LENGTH out of range, or one that the
pipeline's own MPU refuses, is passed over (R20, log entry 82). -/
def uqDrain (link : Nat) : Nat → Dev → Dev
  | 0, d => d
  | fuel + 1, d =>
    let b := Reg.ILS_UQ_TX_BASE + linkOff link
    let lg := fld (rg d (b + 1)) 4 0
    let n := 2 ^ lg
    let head := posOf (rg d (Reg.ILS_UQ_TX_HEAD + linkOff link)) n
    let tail := posOf (rg d (Reg.ILS_UQ_TX_TAIL + linkOff link)) n
    if lg < 2 ∨ 6 < lg ∨ head = tail ∨ ¬ linkOpen d link then d
    else
      let at_ := rn d b + 512 * (head % n)
      let len := fld (memRd d at_) 13 0
      let x := stream d (2 * link)
      let pass := fun (d : Dev) => rgSet d (Reg.ILS_UQ_TX_HEAD + linkOff link) (idxWord ((head + 1) % (2 * n)) n)
      if 60 ≤ len ∧ len ≤ 1514 ∧ ¬ roomFor bufEgress x.egress len then d
      else
        let r := engRead d 0xA8 0x10 0 at_ (1 + packLen false (min len 1514))
        if ¬ r.1 ∨ len < 60 ∨ 1514 < len then uqDrain link fuel (pass r.2)
        else uqDrain link fuel (setStream (pass r.2) (2 * link) { x with egress := x.egress ++ [{ data := memRdOct d false (at_ + 1) len }] })

/-- R128: a write to ILS_UQ_TX_TAIL, a doorbell under R69. -/
def uqTxTail (link : Nat) (v : Word) (d : Dev) : Dev :=
  let lg := fld (rg d (Reg.ILS_UQ_TX_SIZE + linkOff link)) 4 0
  let n := 2 ^ lg
  let a := Reg.ILS_UQ_TX_TAIL + linkOff link
  let t := posDist n (posOf (rg d a) n) (posOf v n)
  if 4 ≤ link ∨ lg < 2 ∨ 6 < lg ∨ n ≤ fld v 15 0 ∨ t = 0 ∨ n < t ∨
     n < posDist n (posOf (rg d (Reg.ILS_UQ_TX_HEAD + linkOff link)) n) (posOf v n) then d
  else uqDrain link n (rgSet d a (wd (v.toNat % 2 ^ 17)))

/-- R128: a write to ILS_UQ_RX_HEAD consumes entries already written. -/
def uqRxHead (link : Nat) (v : Word) (d : Dev) : Dev :=
  let lg := fld (rg d (Reg.ILS_UQ_RX_SIZE + linkOff link)) 4 0
  let n := 2 ^ lg
  let a := Reg.ILS_UQ_RX_HEAD + linkOff link
  let h := posOf (rg d a) n
  let t := posDist n h (posOf v n)
  if 4 ≤ link ∨ n ≤ fld v 15 0 ∨ t = 0 ∨ posDist n h (posOf (rg d (Reg.ILS_UQ_RX_TAIL + linkOff link)) n) < t then d
  else rgSet d a (wd (v.toNat % 2 ^ 17))

/-- At an edge each link that is open sends what its uncontrolled transmit queue holds: it may have been closed when the queue was written
(Table 5.10). -/
def uqEdge (d : Dev) : Dev := (List.range 4).foldl (fun d k => uqDrain k 64 d) d

/-- The egress MAC sends the oldest frame of a stream: the protect stream on the sealed side, the validate stream on the plain side; `integ`
tells that its words fail their check. -/
def frameTransmit (k : Nat) (integ : Bool) (d : Dev) : Dev :=
  let x := stream d k
  match x.egress with
  | [] => d
  | f :: rest =>
    if 8 ≤ k ∨ ¬ linkOpen d (k / 2) then d
    else if integ then stageIntegrity k 3 d
    else
      let d := setStream d k { x with egress := rest }
      let d := { d with ils := { d.ils with sent := d.ils.sent ++ [(k / 2 * 2 + (1 - k % 2), f.data)] } }
      if k % 2 = 0 then uqDrain (k / 2) 64 d else d

/-- R140: a port's link or FEC lock changes (bit of ILS_LINK_STATUS). -/
def linkChange (link b : Nat) (up : Bool) (d : Dev) : Dev :=
  if 4 ≤ link ∨ 4 ≤ b ∨ portUp d link b = up then d
  else rgOr { d with ils := { d.ils with up := tabSet false d.ils.up (link * 4 + b) up } } Reg.ILS_EVENT (2 ^ (8 + link))

/-! ### Retirement, fences, HOLD -/

/-- Frames in the stages that an SA is assigned to. -/
def saFrames (d : Dev) (s : Nat) : Nat :=
  (List.range 8).foldl (fun n k => let x := stream d k
    n + ((x.classifier ++ x.cipher).filter (fun f => decide (f.sa = some s))).length) 0

/-- R136: an SA that stopped being VALID is wiped and EMPTY once its frames have finished. -/
def saRetire (s : Nat) (d : Dev) : Dev :=
  if (saGet d s).retiring ∧ saFrames d s = 0 then saSet d s {} else d

/-- The wipe of an SA: EMPTY, its key overwritten. Frames of its own that the commands did not bring through the stages within the pass are
lost (log entry 82). -/
def saWipe (s : Nat) (d : Dev) : Dev :=
  let keep := fun (l : List Frame) => l.filter (fun f => decide (f.sa ≠ some s))
  saSet ((List.range 8).foldl (fun d k => let x := stream d k
    setStream d k { x with classifier := keep x.classifier, cipher := keep x.cipher }) d) s {}

/-- At an edge, within one pass of the open, every SA that stopped being VALID is wiped (R136). -/
def retireEdge (d : Dev) : Dev := ((d.ils.sas.filter (fun e => e.2.retiring)).map (·.1)).foldl (fun d s => saWipe s d) d

/-- Every frame in a link's stages is dropped and counted under a link counter. -/
def dropFrames (link c : Nat) (d : Dev) : Dev :=
  [2 * link, 2 * link + 1].foldl (fun d k =>
    let x := stream d k
    let n := x.ingress.length + x.classifier.length + x.cipher.length + x.egress.length
    cntAdd (setStream d k { lane := x.lane }) (link * 32 + c) n) d

/-- R131: a lane leaves service: the streams it serves move by R120's choice; a fence drops the frames in its own cipher stage, those of a
stream that has moved away since too. -/
def moveStreams (n : Nat) (fence : Bool) (d : Dev) : Dev :=
  let m := fallbackLane d 1 n
  (List.range 8).foldl (fun d k =>
    let x := stream d k
    let lost := x.cipher.filter (fun f => decide (f.lane = n))
    let d := if fence then cntAdd d (k / 2 * 32 + 13) lost.length else d
    let x := if fence then { x with cipher := x.cipher.filter (fun f => decide (f.lane ≠ n)) } else x
    setStream d k (if x.lane = n then { x with lane := m.getD x.lane } else x)) d

/-- Does a lane's cipher stage hold inline frames? -/
def laneFrames (d : Dev) (n : Nat) : Bool := (List.range 8).any (fun k => (stream d k).cipher.any (fun f => decide (f.lane = n)))

/-- R133: at the open, SET_PN and LOAD_KEY act on an SA, VALID makes it ACTIVE, and an SA that stops being VALID starts to retire; one still
retiring is wiped first (R136). A PN set at or past the link's threshold warns (R139). `old` is its ILS_SA_CTL before the open.
DESIGN CHOICE (log entry 96): LOAD_KEY copies the slot as it stands at the open, whatever became of it since the level step. -/
def saOpen (s : Nat) (old : Word) (d : Dev) : Dev :=
  let w := saCtl d s
  let d := if (saGet d s).retiring then saWipe s d else d
  let x := saGet d s
  let slot := saSlot w
  let x1 := if bit w 8 then { x with keyed := true, key := (slotGet d slot).material } else x
  let d := if bit w 8 then countUse d slot (d.pas.count - 1) else d
  let pn := ofLoHi (rg d (Reg.ILS_SA_SETPN_LO + 8 * s)) (rg d (Reg.ILS_SA_SETPN_HI + 8 * s))
  let x2 := if bit w 9 then { x1 with next := pn, low := if saRx w then pn else 0, warned := 0 } else x1
  let x3 := if bit w 0 ∧ ¬ bit old 0 then { x2 with state := 1 }
            else if ¬ bit w 0 ∧ bit old 0 then { x2 with retiring := true } else x2
  pnWarn s (rgSet (saSet d s x3) (Reg.ILS_SA_CTL + 8 * s) (setBit (setBit w 8 false) 9 false))

/-! ### LOAD_SAK and CLEAR_KEY (R134) -/

/-- Conditions of LOAD_SAK found before the unwrap. -/
def loadSakFails (d : Dev) (ctx sa blobLen : Nat) (blob : Octets) : List (Option Fail) :=
  let h := hdrOf blob
  if blobLen < 32 then [failIf true St.length 0x05]
  else
    [ failIf (hdrBad false h) St.badDesc 0,
      failIf (decide (4096 ≤ sa)) St.badDesc 0,
      failIf (decide (blobLen ≠ 60 + h.matLen) || (algKnown h.alg && !matOk h.alg h.matLen h.bits)) St.length 0x05,
      failIf (decide (sa < 4096) && saValid d sa) St.denied 0x01,
      failIf (decide (ctx ≠ 0x01) && decide (h.owner ≠ ctx)) St.notOwner 0,
      failIf (decide (h.alg ≠ 0x20)) St.keyInvalid 0x02,
      failIf (decide (h.usage ≠ 0x0100)) St.keyInvalid 0x03,
      failIf (!kekReleased d h.kek) St.keyInvalid 0x07,
      failIf (decide (h.kek = 2) && (kekFor d 2 h.epoch).isNone) St.keyInvalid 0x08 ]

/-- The ILS level rules (Table 5.7). `owner` is the chamber owner's context. -/
def levelIls (d : Dev) : List LRule :=
  let v := chmView d
  let ctl := fun s => Reg.ILS_SA_CTL + 8 * s
  let words := fun s => (List.range 8).map (fun i => ctl s + i) ++ [Reg.ILS_SA_SSCI + 2 * s, Reg.ILS_SA_WINDOW + 2 * s]
  let sas := (List.range 4096).filter (fun s => (words s).any (hasEntry d))
  let valid := (List.range 4096).filter (fun s => bit (v (ctl s)) 0)
  let sci := fun s => cv d (Reg.ILS_SA_SCI_LO + 8 * s) + cv d (Reg.ILS_SA_SCI_HI + 8 * s) * 2 ^ 36
  let setpn := fun s => cv d (Reg.ILS_SA_SETPN_LO + 8 * s) + cv d (Reg.ILS_SA_SETPN_HI + 8 * s) * 2 ^ 36
  let both := fun s => bit (v (ctl s)) 0 && saValid d s
  let moved := fun s => decide (fld (v (ctl s)) 7 1 ≠ fld (saCtl d s) 7 1) || bit (v (ctl s)) 8 || bit (v (ctl s)) 9 ||
    ([1, 2, 5, 6, 7].any (fun i => decide (v (ctl s + i) ≠ rg d (ctl s + i)))) ||
    decide (v (Reg.ILS_SA_SSCI + 2 * s) ≠ rg d (Reg.ILS_SA_SSCI + 2 * s))
  let ctx := coreCtx d.chm.owner
  let badSlot := fun s =>
    let k := slotGet d (saSlot (v (ctl s)))
    bit (v (ctl s)) 8 && (decide (k.state ≠ 1) || decide (k.alg ≠ 3) || decide (k.usage ≠ 0x100) || decide (k.count ≠ 0) ||
      (decide (ctx ≠ 1) && decide (k.owner ≠ ctx)))
  let clash := fun s t => decide (s ≠ t) && decide (bit (v (ctl s)) 1 = bit (v (ctl t)) 1) &&
    decide (saLink (v (ctl s)) = saLink (v (ctl t))) && decide (saAn (v (ctl s)) = saAn (v (ctl t))) &&
    (!bit (v (ctl s)) 1 || decide (sci s = sci t))
  sas.map (fun s => ⟨1, bit (v (ctl s)) 0 && !saValid d s && (!bit (v (ctl s)) 9 || !(bit (v (ctl s)) 8 || (saGet d s).keyed)), words s⟩) ++
  sas.map (fun s => ⟨2, both s && moved s, words s⟩) ++
  sas.map (fun s => ⟨3, badSlot s, [ctl s]⟩) ++
  valid.map (fun s => ⟨4, valid.any (clash s), words s⟩) ++
  sas.map (fun s => ⟨5, bit (v (ctl s)) 9 && (decide (setpn s = 0) || (!saXpn (v (ctl s)) && decide (2 ^ 32 ≤ setpn s))), words s⟩) ++
  sas.map (fun s => ⟨6, saRx (v (ctl s)) && saXpn (v (ctl s)) && decide (2 ^ 30 < cv d (Reg.ILS_SA_WINDOW + 2 * s)), words s⟩) ++
  (List.range 4).map (fun k =>
    let a := Reg.ILS_LINK_TX_SA + 32 * k
    let s := fld (v a) 11 0
    ⟨7, bit (v a) 12 && (!bit (v (ctl s)) 0 || saRx (v (ctl s)) || decide (saLink (v (ctl s)) ≠ k)), a :: words s⟩) ++
  (List.range 4).map (fun k =>
    let a := Reg.ILS_LINK_LANE + 32 * k
    ⟨8, !inService d 1 (fld (v a) 2 0) || !inService d 1 (fld (v a) 6 4), [a]⟩) ++
  sas.map (fun s => ⟨9, saRx (v (ctl s)) && saConf (v (ctl s)), [ctl s]⟩)

end Sys2Proof.Machine
end

