-- ==== Sys2Proof/Machine/KeyOps.lean ====
section
/-! DEFINITION. Command registers with a per-master result (R108, R478), and the operations of the key slot store as they are admitted
and completed: import, export, erase, derive, unwrap, LOAD_SAK and CLEAR_KEY. -/

namespace Sys2Proof.Machine

/-! ### Issuing a command -/

/-- Operation codes given to firmware commands inside the model; the codes of Table 3.13 stand for host descriptors. 0x80 is a write that
names a reserved action or leaves an unused argument non-zero (R478). -/
abbrev Cmd.reserved : Nat := 0x80

/-- A write to a command register (R108): dropped while the master has a command outstanding, else taken, to be admitted at the next
edge. In HOLD it ends with HELD unless it runs in HOLD. -/
def cmdIssue (blk m code : Nat) (dense : Bool) (args : List Nat) (inHold : Bool) (d : Dev) (pl : Nat := 0) (wcc : Option WccAt := none) : Dev :=
  if (cmdGet d blk m).busy then (if blk = 0x0D then rgAdd d Reg.KSL_CMD_DROPS 1 else d)
  else
    let o : Op := { id := 0, src := .cmd blk m, ctx := coreCtx m, pl := pl,
                    desc := fitTo 64 (leOct 3 code ++ leOct 1 (b2n dense)), phase := .staged, eligAt := d.pas.count + 1, aux := args, wcc := wcc }
    let o := if d.keep.hold ∧ ¬ inHold then { o with phase := .ended, status := St.held, dueAt := d.pas.count + 1 }
             else if code = Cmd.reserved then { o with phase := .ended, status := St.badDesc, dueAt := d.pas.count + 1 } else o
    addOp (cmdStart d blk m) o

/-- Arguments of a master's command register as numbers. -/
def cmdArgs (d : Dev) (m base n : Nat) : List Nat := (List.range n).map (fun i => (pv d m (base + i)).toNat)

/-- May the master issue key store and SAK commands (R108, R134): K, or a host core, at P0 or P1? A write at P2 is dropped. -/
def keyCmdMaster (m pl : Nat) : Bool := (decide (m = 1) || isH m) && decide (pl ≤ 1)

/-- KSL_CMD (Table 4.7): arguments that must be zero by action. -/
def kslUnused (action : Nat) : List Nat :=
  if action = 1 then [1] else if action = 2 then [] else if action = 3 then [1, 2, 3, 4] else if action = 4 then [3] else []

/-- A write to KSL_CMD. -/
def kslCmd (m pl action : Nat) (d : Dev) : Dev :=
  if ¬ keyCmdMaster m pl then d
  else
    let a := cmdArgs d m Reg.KSL_ARG 5
    let bad := decide (action = 0) || decide (5 < action) || (kslUnused action).any (fun i => decide (a.getD i 0 ≠ 0)) ||
      decide (1 < a.getD 4 0)
    cmdIssue 0x0D m (if bad then Cmd.reserved else 0x80 + action) (decide (a.getD 4 0 = 1)) a false d pl

/-- A write to ILS_CMD (Table 5.8). DESIGN CHOICE (log entry 96): an argument that CLEAR_KEY does not use, or an ARG3 above 1, gives BAD_DESCRIPTOR. -/
def ilsCmd (m pl action : Nat) (d : Dev) : Dev :=
  if ¬ keyCmdMaster m pl then d
  else
    let a := cmdArgs d m Reg.ILS_ARG 4
    let bad := decide (action = 0) || decide (2 < action) || decide (action = 2 ∧ (a.getD 1 0 ≠ 0 ∨ a.getD 2 0 ≠ 0 ∨ a.getD 3 0 ≠ 0)) ||
      decide (1 < a.getD 3 0)
    cmdIssue 0x12 m (if bad then Cmd.reserved else 0x90 + action) (decide (a.getD 3 0 = 1)) a false d pl

/-! ### Admission -/

/-- An operation that fails its checks at the edge at which it is offered ends with that status. -/
def rejectOp (d : Dev) (o : Op) (f : Fail) : Dev := endWith d o f.1 f.2 d.pas.count (d.pas.count - 1)

/-- An operation admitted to a block with no partition kind. -/
def admitPlain (d : Dev) (o : Op) (bound : Nat) : Dev :=
  setOp d { o with phase := .admitted, admitAt := d.pas.count, bound := bound }

/-- R359: a word an operation's engine reads or writes fails its check code: counted and raised. None where every check holds. -/
def opWcc (d : Dev) (o : Op) : Option Dev :=
  match o.wcc with
  | some w =>
    if wccFails w.stage o.engine w.addr (memAny d w.addr) (memAny d (beatMate w.addr)) w.err then some (wccFail (w.seg % 7) o.engine w.addr w.stage d) else none
  | none => none

/-- Word range a firmware command reads or writes: in core SRAM or general DRAM. -/
def cmdRamFail (o : Op) (a n : Nat) : Option Fail := failIf (!ramRange a (packLen o.dense n)) St.denied 0

/-- R107, R350: the first buffer (address, octets, written or read) that the submitting core may not reach at the level its TAIL or its command was
written at, where no earlier condition of `pre` ends the operation first. -/
def fwMpuFail (d : Dev) (o : Op) (pre : List (Option Fail)) (bufs : List (Nat × Nat × Bool)) : Option (Nat × Nat × Nat) :=
  if (firstFail pre).any (fun f => decide (f.1 ≠ St.denied)) then none
  else bufs.findSome? (fun b =>
    let right := if b.2.2 then 1 else 0
    let n := packLen o.dense b.2.1
    if b.2.1 = 0 ∨ ¬ ramRange b.1 n then none
    else (refusedIn d o.served 0 o.pl right b.1 n).map (fun x => (if b.2.2 then 3 else 2, x.1, x.2)))

/-- A firmware operation that fails ends; where the refusal of its core's MPU is what fails, it is recorded. -/
def fwReject (d : Dev) (o : Op) (mpu : Option (Nat × Nat × Nat)) (f : Fail) : Dev :=
  match mpu with
  | some (acc, w, t) => rejectOp (if f = (St.denied, 0) then mpuRecord o.served o.served acc w t d else d) o f
  | none => rejectOp d o f

/-- A command's conditions, its buffer's among them (R20, R107): the first that fails, with the refusal of its core's MPU. A host descriptor names no
buffer of this kind. -/
def cmdFail (d : Dev) (o : Op) (fs : List (Option Fail)) (a n : Nat) (wr : Bool) : Option Fail × Option (Nat × Nat × Nat) :=
  match o.src with
  | .cmd _ _ =>
    let pre := fs ++ [cmdRamFail o a n]
    let mpu := fwMpuFail d o pre [(a, n, wr)]
    (firstFail (pre ++ [failIf mpu.isSome St.denied 0]), mpu)
  | _ => (firstFail fs, none)

/-- Key operations: target slot, parent or named slot, blob, by opcode. -/
def keyImportArgs (o : Op) : Nat × Nat × Octets :=
  if o.opcode = 0x54 then (o.f 8 2, o.f 12 4, o.input) else (o.aux.getD 0 0, o.aux.getD 3 0, o.input)

/-- KEY_IMPORT and KSL IMPORT offered (R102): checked, the target reserved, admitted. -/
def importAdmit (d : Dev) (o : Op) : Dev :=
  let o := if o.opcode = 0x54 then o else { o with input := memRdOct d o.dense (o.aux.getD 2 0) (o.aux.getD 3 0) }
  let a := keyImportArgs o
  let fs := importFails d o.ctx a.1 a.2.1 a.2.2 ++ [failIf (decide (slotCount ≤ a.1) && decide (a.1 ≠ 0xFFFF)) St.badDesc 0]
  let x := cmdFail d o fs (o.aux.getD 2 0) (o.aux.getD 3 0) false
  match x.1 with
  | some f => fwReject d o x.2 f
  | none =>
    let r := reserve d o a.1 (hdrOf a.2.2).matLen
    admitPlain r.1 { r.2 with quant := true } 1

/-- KEY_EXPORT and KSL EXPORT offered (R103). -/
def exportAdmit (d : Dev) (o : Op) : Dev :=
  let host := decide (o.opcode = 0x55)
  let slot := if host then o.f 8 2 else o.aux.getD 0 0
  let kek := if host then o.f 10 1 else o.aux.getD 1 0
  let maxLen := if host then o.f 12 4 else o.aux.getD 3 0
  let dst := if host then o.f 16 8 else o.aux.getD 2 0
  let x := cmdFail d o (failIf (decide (slotCount ≤ slot)) St.badDesc 0 :: exportFails d o.ctx slot kek maxLen) dst
    (60 + (slotGet d slot).material.length) true
  match x.1 with
  | some f => fwReject d o x.2 f
  | none =>
    let o := { o with quant := true, key := some (slotGet d slot), aux := [slot, kek, dst] }
    if hopWaits d ∨ (¬ host ∧ ¬ resultFits d o) then d else admitPlain d o 1

/-- KEY_ERASE and KSL ERASE offered (R104): it takes effect, and completes, at the edge after admission. -/
def eraseAdmit (d : Dev) (o : Op) : Dev :=
  let slot := if o.opcode = 0x56 then o.f 8 2 else o.aux.getD 0 0
  match firstFail (failIf (decide (slotCount ≤ slot)) St.badDesc 0 :: eraseFails d o.ctx slot) with
  | some f => rejectOp d o f
  | none => admitPlain d { o with aux := [slot] } 1

/-- The edge after an erase's admission: the slot is emptied and the operation completes. -/
def eraseDue (d : Dev) (o : Op) : Dev :=
  if o.phase = .admitted ∧ (o.opcode = 0x56 ∨ o.opcode = 0x83) ∧ o.admitAt < d.pas.count then
    endWith (eraseSlot d (o.aux.getD 0 0)) o St.done 0 d.pas.count (d.pas.count - 1)
  else d

/-- DERIVE and UNWRAP_3394 offered (R105, R106): the parent use is counted, the target reserved. -/
def childAdmit (d : Dev) (o : Op) : Dev :=
  let unwrap := decide (o.opcode = 0x85)
  let parent := o.aux.getD 0 0
  let target := o.aux.getD 1 0
  let at_ := o.aux.getD 2 0
  let wl := o.aux.getD 3 0
  let n := if unwrap then 32 + wl else 64
  let inp := memRdOct d o.dense at_ n
  let fs := failIf (decide (slotCount ≤ parent) || (decide (slotCount ≤ target) && decide (target ≠ 0xFFFF))) St.badDesc 0 ::
    childFails d o.ctx parent target (if unwrap then 8 else 16) (inp.take 32) (if unwrap then some wl else none)
  let x := cmdFail d o fs at_ n false
  match x.1 with
  | some f => fwReject d o x.2 f
  | none =>
    let ks := slotGet d parent
    let r := reserve (countUse d parent (d.pas.count - 1)) o target ((hdrOf inp).bits / 8)
    admitPlain r.1 { r.2 with quant := true, input := inp, key := some ks } 1

/-- LOAD_SAK offered (R134). -/
def loadSakAdmit (d : Dev) (o : Op) : Dev :=
  let sa := o.aux.getD 0 0
  let len := o.aux.getD 2 0
  let blob := memRdOct d o.dense (o.aux.getD 1 0) len
  let x := cmdFail d o (loadSakFails d o.ctx sa len blob) (o.aux.getD 1 0) len false
  match x.1 with
  | some f => fwReject d o x.2 f
  | none => admitPlain d { o with quant := true, input := blob } 1

/-- CLEAR_KEY offered: the key store of a non-VALID SA is zeroed, within the pass. Its result is not secret-dependent (Table 2.4; log entry 94). -/
def clearKeyAdmit (d : Dev) (o : Op) : Dev :=
  let sa := o.aux.getD 0 0
  match firstFail [failIf (decide (4096 ≤ sa)) St.badDesc 0, failIf (saValid d sa) St.denied 0x01] with
  | some f => rejectOp d o f
  | none => finish (saSet d sa { saGet d sa with keyed := false, key := [] })
      { o with phase := .admitted, admitAt := d.pas.count, bound := 1, quant := false, status := St.done }

/-! ### Completion (KEY_OPERATION_COMPLETE) and release -/

/-- Result bits of a stored key: RESULT bits 13:0 for a descriptor, SLOT[29:16] for KSL_CMD. -/
def slotResult (o : Op) (i : Nat) : Nat := match o.src with | .cmd _ _ => i * 2 ^ 16 | _ => i

/-- The result of an operation that stores a key: the key waits in the operation for its release. -/
def finishKey (d : Dev) (o : Op) (r : Fail × Option Slot) : Dev :=
  let i := o.slot.getD 0
  finish d { o with status := r.1.1, sub := r.1.2, key := r.2, resLen := 0,
                    result := if r.2.isSome then slotResult o i else 0 }

/-- The key slot store finishes an import, export, derivation, unwrap or LOAD_SAK. -/
def keyComplete (id : Nat) (d : Dev) : Dev :=
  match findOp d id with
  | none => d
  | some o =>
    if o.phase ≠ .admitted then d
    else if o.opcode = 0x54 ∨ o.opcode = 0x81 then finishKey d o (importResult d (keyImportArgs o).2.2)
    else if o.opcode = 0x55 ∨ o.opcode = 0x82 then
      if hopWaits d then d
      else if ¬ hopServes d then finish d { o with status := St.entropy, sub := hopSub d }
      else
        let x := hwDraw d 1
        let blob := exportBlob d (o.key.getD {}) (o.aux.getD 1 0) (x.1.take 12)
        finish x.2 { o with status := St.done, sub := 0, resLen := blob.length, outs := [(o.aux.getD 2 0, blob)] }
    else if o.opcode = 0x84 then
      let h := hdrOf (o.input.take 32)
      let m := kdf108 o.material (slice o.input 32 16) (slice o.input 48 16) (h.bits / 8)
      finishKey d o ((St.done, 0), some (madeKey h 3 m))
    else if o.opcode = 0x85 then
      let h := hdrOf (o.input.take 32)
      match kwUnwrap o.material (o.input.drop 32) with
      | none => finishKey d o ((St.keyInvalid, 0x09), none)
      | some m => finishKey d o ((St.done, 0), some (madeKey h 3 m))
    else if o.opcode = 0x91 then
      match unwrapBlob d o.input with
      | none => finish d { o with status := St.keyInvalid, sub := 0x09 }
      | some m => finish d { o with status := St.done, sub := 0, key := some { material := m } }
    else d

/-- What a held result does to the key stores when it is released: the key is stored, in its reserved slot or in the SA. -/
def storeOnRelease (d : Dev) (o : Op) : Dev :=
  if o.status ≠ St.done then unreserve d o.id
  else if o.opcode = 0x91 then
    let sa := o.aux.getD 0 0
    saSet d sa { saGet d sa with keyed := true, key := o.material }
  else match o.slot, o.key with
    | some i, some s => slotSet d i (storedKey d s)
    | _, _ => unreserve d o.id

/-- R134: a SAK goes only into an SA that is not VALID: one released into an SA that has become VALID is denied (log entry 94). -/
def sakCheck (d : Dev) (o : Op) : Op :=
  if o.opcode = 0x91 ∧ o.status = St.done ∧ saValid d (o.aux.getD 0 0) then { o with status := St.denied, sub := 0x01 } else o

/-- R40: a held result due at this edge is released: its output written, then its key stored unless the output was refused. -/
def releaseOp (d : Dev) (o : Op) : Dev :=
  if o.phase = .held ∧ o.dueAt ≤ d.pas.count then
    let w := written d (sakCheck d o)
    wipeReport (storeOnRelease w.1 w.2) { w.2 with ext := false } d.pas.count (d.pas.count - 1)
  else d

/-- Step 6: every held result due at this edge, oldest operation first. -/
def releaseDue (d : Dev) : Dev := d.ops.foldl releaseOp d

end Sys2Proof.Machine
end

