-- ==== Sys2Proof/Machine/Grinder.lean ====
section
/-! DEFINITION. The Grinder (chapter 6): checks of a job, dispatch and pre-emption, what each recipe computes, early
ends, curve slots and recipe images. -/

namespace Sys2Proof.Machine

/-! ### Units and curve slots -/

def unitGet (d : Dev) (u : Nat) : GrdUnit := tabGet {} d.grd.units u
def unitSet (d : Dev) (u : Nat) (x : GrdUnit) : Dev := { d with grd := { d.grd with units := tabSet {} d.grd.units u x } }
def curveGet (d : Dev) (s : Nat) : CurveSlot := tabGet {} d.grd.curves s
def curveSet (d : Dev) (s : Nat) (x : CurveSlot) : Dev := { d with grd := { d.grd with curves := tabSet {} d.grd.curves s x } }

/-- M: octets of an operand of the curve (R156). -/
def curveM (p : Nat) : Nat := ceilDiv (bitLen p + 1) 8

def CurveSlot.weier (s : CurveSlot) : Weier := ⟨s.p, s.a, s.b, s.gx, s.gy, s.n, s.h⟩

/-- Does the unit hold the recipe? -/
def unitHolds (d : Dev) (u n : Nat) : Bool :=
  match (unitGet d u).image with | some im => im.recipes.any (fun r => decide (r.1 = n)) | none => false

def unitCtl (d : Dev) (u : Nat) : Word := rg d (Reg.GRD_UNIT_CTL + 8 * u)

/-- Is the unit reserved for another context? -/
def unitReserved (d : Dev) (u ctx : Nat) : Bool := bit (unitCtl d u) 0 && decide (fld (unitCtl d u) 8 1 ≠ ctx)

def unitIdle (d : Dev) (u : Nat) : Bool :=
  let x := unitGet d u
  x.job.isNone && x.next.isNone && x.susp.isNone && x.loading.isNone && !x.selfFail && decide (x.wipe = .idle)

/-! ### Banks (R143, R144, R165 to R168) -/

/-- Cycles of a unit in a pass, and of the wipe of one bank (R143, Table 6.1). -/
def unitCycles : Nat := 40000
def wipeCycles : Nat := 512

/-- Banks are wiped: the unit is not idle before the wipe has ended. A wipe that begins at an edge goes on past it. -/
def GrdUnit.wiped (x : GrdUnit) (work save atEdge : Bool) : GrdUnit :=
  if ¬ work ∧ ¬ save then x
  else { x with bank := if work then [] else x.bank, save := if save then [] else x.save,
                wipe := if atEdge then .late else .run (wipeCycles * (b2n work + b2n save)) }

/-- An edge: a wipe has ended, unless the free moment of the pass at which it began leaves it running past the edge (log entry 50). -/
def wipeEdge (d : Dev) (u : Nat) : Dev :=
  match (unitGet d u).wipe with
  | .idle => d
  | .late => unitSet d u { unitGet d u with wipe := .idle }
  | .run n =>
    let x := drawWord d
    unitSet x.2 u { unitGet d u with wipe := if x.1.toNat % unitCycles + n ≤ unitCycles then .idle else .late }

/-- A unit left by every job, both banks wiped in this pass: HOLD, ZEROISE_SESSION. -/
def GrdUnit.cleared (x : GrdUnit) : GrdUnit :=
  GrdUnit.wiped { x with job := none, next := none, susp := none, loading := none, selfFail := false } true true false

/-- Words put at the start of a bank; what lies behind them stays. -/
def bankLoad (bank ws : List Word) : List Word := ws ++ bank.drop ws.length

/-! ### A job's fields -/

def Op.recipe (o : Op) : Nat := o.f 8 2
def Op.curveSlot (o : Op) : Nat := o.f 10 1
def Op.unitSel (o : Op) : Nat := o.f 11 1
def Op.jobKey (o : Op) : Nat := o.f 12 2
def Op.opCount (o : Op) : Nat := o.f 16 2
def Op.resCount (o : Op) : Nat := o.f 18 2

/-- The staged input of a job: operand list, result list, operands in order. -/
def jobLists (o : Op) : List (Nat × Nat) × List (Nat × Nat) :=
  let e := fun (base i : Nat) => (leAt o.input (base + 16 * i) 8, leAt o.input (base + 16 * i + 8) 4)
  ((List.range o.opCount).map (e 0), (List.range o.resCount).map (e (16 * o.opCount)))

def opLens (o : Op) : List Nat := (jobLists o).1.map (·.2)

/-- Operand i. -/
def operand (o : Op) (i : Nat) : Octets :=
  slice o.input (16 * (o.opCount + o.resCount) + ((opLens o).take i).foldl (· + ·) 0) ((opLens o).getD i 0)

/-- A non-zero reserved octet of a list entry (octets 12 to 15 of an operand entry). -/
def listsBad (o : Op) : Bool :=
  (List.range o.opCount).any (fun i => decide (leAt o.input (16 * i + 12) 4 ≠ 0)) ||
  (match o.src with
   | .ring _ _ => false
   | _ => (List.range (o.opCount + o.resCount)).any (fun i => decide (2 ^ 36 ≤ leAt o.input (16 * i) 8)))

/-- Octets of lists and operands a job stages once its lists are known: operands of more than 8,192 octets are not read. -/
def jobInputLen (o : Op) (data : Octets) : Nat :=
  let o := { o with input := data }
  let t := (opLens o).foldl (· + ·) 0
  16 * (o.opCount + o.resCount) + (if t ≤ 8192 then t else 0)

/-- Staging of a job's lists and operands has ended (R149). -/
def stageJob (r pos : Nat) (data : Octets) (d : Dev) : Dev :=
  match ringOpAt d r pos with
  | some o =>
    if o.opcode = 0x30 ∧ o.phase = .fetched ∧ data.length = jobInputLen o data ∧ stageUsed d + data.length + heldSpace o ≤ stageSize then
      setOp d { o with phase := .staged, input := data, eligAt := max o.eligAt (d.pas.count + 1) }
    else d
  | none => d

/-- Is the job's ring express (R74)? -/
def jobExpress (d : Dev) (o : Op) : Bool := match o.ring? with | some r => ringExpress d r | none => false

/-! ### Checks (R152) -/

/-- Does an IN_SERVICE unit hold the recipe? -/
def recipeHeld (d : Dev) (n : Nat) : Bool := (List.range 16).any (fun u => inService d 3 u && unitHolds d u n)

/-- Conditions found in a job's descriptor alone, its recipe held by some unit, in the order of R152. -/
def jobStatic (d : Dev) (o : Op) : List (Option Fail) :=
  match recipeOf o.recipe with
  | none => [failIf true St.badDesc 0x01]
  | some r =>
    [ failIf (!recipeHeld d o.recipe) St.badDesc 0x01,
      failIf (decide (15 < o.unitSel) && decide (o.unitSel ≠ 0xFF) || (decide (63 < o.curveSlot) && decide (o.curveSlot ≠ 0xFF)))
        St.badDesc 0x04,
      failIf ((r.alg.isNone && decide (o.jobKey ≠ 0)) || (!r.curve && decide (o.curveSlot ≠ 0xFF)) ||
          (r.curve && decide (r ≠ .curveLoad) && decide (o.curveSlot = 0xFF)) ||
          (r.alg.isSome && decide (slotCount ≤ o.jobKey) && !(r.keygen && decide (o.jobKey = 0xFFFF)))) St.badDesc 0x02,
      failIf (decide (o.opCount ≠ (r.operands 0 0).length) || decide (o.resCount ≠ (r.results 0).length)) St.badDesc 0x03 ]

/-- M that a job's curve operands must have, when it is known: of the CHECKED slot's curve, or of the p being loaded. -/
def jobM (d : Dev) (o : Op) (r : Recipe) : Option Nat :=
  if r = .curveLoad then some (curveM (leNat (operand o 0)))
  else if r.curve then (if (curveGet d o.curveSlot).state = 2 then some (curveM (curveGet d o.curveSlot).p) else none)
  else some 0

/-- The first condition among lengths: total, each operand, each result. Curve lengths are judged where M is known. -/
def jobLengths (d : Dev) (o : Op) (r : Recipe) : Option Fail :=
  let m := (jobM d o r).getD 0
  let k := (jobM d o r).getD (2 ^ 32)
  firstOf ([failIf (decide (8192 < (opLens o).foldl (· + ·) 0)) St.length 0x20] ++
    ((r.operands m k).zipIdx.map (fun x =>
      let l := (opLens o).getD x.2 0
      failIf (decide (l < x.1.1) || decide (x.1.2 < l)) St.length (x.2 + 1))) ++
    ((r.results m).zipIdx.map (fun x => failIf (decide (((jobLists o).2.getD x.2 (0, 0)).2 < x.1)) St.length (0x11 + x.2))))

/-- The header operand of a key generation recipe. -/
def keygenHdr (o : Op) : KeyHdr := hdrOf (operand o 0)

/-- R157: octets of the key a generation recipe stores. -/
def keygenLen (d : Dev) (o : Op) : Nat :=
  match (recipeOf o.recipe).bind Recipe.alg with
  | some 0x49 => 48
  | some 0x4A => 66
  | some 0x50 => curveM (curveGet d o.curveSlot).p
  | _ => 32

/-- Target curve slot of a curve-management job. -/
def curveTarget (d : Dev) (o : Op) : Option Nat :=
  if o.curveSlot = 0xFF then (List.range 64).find? (fun s => decide ((curveGet d s).state = 0)) else some o.curveSlot

/-- Every condition a job meets before execution. `none` entries are conditions that do not hold. -/
def jobFails (d : Dev) (o : Op) : List (Option Fail) :=
  let quantBad := match recipeOf o.recipe with
    | some r => rqBad (rqClass 0x30 (decide (r.cls = 0))) o.rqMode
    | none => decide (o.rqMode = 3)
  [failIf quantBad St.badDesc 0, failIf (listsBad o) St.badDesc 0,
    failIf (((recipeOf o.recipe).map Recipe.keygen = some true) && decide ((opLens o).headD 0 = 32) && hdrBad true (keygenHdr o)) St.badDesc 0] ++
  jobStatic d o ++
  match recipeOf o.recipe with
  | none => []
  | some r =>
    let cs := curveGet d o.curveSlot
    let own := fun (s : CurveSlot) => decide (s.state = 0) || decide (s.owner = o.ctx) || decide (o.ctx = 0x01)
    let named := decide (o.unitSel ≤ 15)
    let h := keygenHdr o
    let rsa := rsaKeyOf (match r with | .rsaPriv b => b | _ => 2048) (slotGet d o.jobKey).material
    let modBad := fun (n bits : Nat) => decide (n % 2 = 0) || decide (bitLen n ≠ bits)
    let expBad := fun (e : Nat) => decide (e % 2 = 0) || decide (e < 3)
    [ jobLengths d o r,
      failIf (named && unitReserved d o.unitSel o.ctx) St.notOwner 0x01,
      failIf ((decide (r = .curveLoad) && decide (o.curveSlot ≠ 0xFF) || decide (r = .curveErase)) && !own cs) St.notOwner 0x02,
      -- key slots (R95), NOT_OWNER carrying Table 6.5's sub-code
      (match r.alg with
       | none => none
       | some a =>
         if r.keygen then
           firstOf [failIf (decide (o.ctx ≠ 0x01) && decide (h.owner ≠ o.ctx)) St.notOwner 0x03,
             (targetFail d o.ctx o.jobKey).map (fun f => if f.1 = St.notOwner then (f.1, 0x03) else f),
             failIf (decide (h.alg ≠ a)) St.keyInvalid 0x02,
             extFail d (keygenLen d o)]
         else (keyUseFail d o.ctx o.jobKey false (fun x => decide (x = a)) 0x80).map
           (fun f => if f.1 = St.notOwner then (f.1, 0x03) else f)),
      failIf (decide (r.alg = some 0x50) && !r.keygen && decide (cs.state = 2) &&
          (decide ((slotGet d o.jobKey).material.length ≠ curveM cs.p) || decide ((slotGet d o.jobKey).bits ≠ bitLen cs.n)))
        St.keyInvalid 0x02,
      failIf (decide (r = .curveLoad) && (curveTarget d o).isNone) St.keyInvalid 0x20,
      -- operation-specific: named unit out of service, curve slot state, RSA parameters
      failIf (named && !inService d 3 o.unitSel) St.migrated 0x01,
      failIf (r.curve && decide (r.cls ≠ 2) && decide (cs.state ≠ 2)) St.param 0x0F,
      (match r with
       | .rsaPub b => firstOf [failIf (modBad (leNat (operand o 0)) b) St.param 0x11,
           failIf (expBad (leNat (operand o 1))) St.param 0x12,
           failIf (decide (leNat (operand o 0) ≤ leNat (operand o 2))) St.param 0x13]
       | .rsaPriv b => firstOf [failIf (modBad rsa.n b) St.param 0x11, failIf (expBad rsa.e) St.param 0x12,
           failIf (decide (rsa.n ≤ leNat (operand o 0))) St.param 0x13]
       | _ => none) ]

/-! ### Dispatch (R153, R154, R162, R168) -/

/-- Is the unit eligible for the job? -/
def unitEligible (d : Dev) (o : Op) (u : Nat) : Bool :=
  inService d 3 u && unitHolds d u o.recipe && unitIdle d u && !unitReserved d u o.ctx

/-- The unit chosen for a job, if any. -/
def chooseUnit (d : Dev) (o : Op) : Option Nat :=
  if o.unitSel ≤ 15 then (if unitEligible d o o.unitSel then some o.unitSel else none)
  else
    let us := (List.range 16).filter (unitEligible d o)
    match us.find? (fun u => decide ((unitGet d u).owner = o.ctx)) with
    | some u => some u
    | none => us.head?

/-- Numbers kept in `aux` of a job: bound B, whether it is express, whether it has been pre-empted, then the curve's parameters. -/
def jobAux (b : Nat) (express preempted : Bool) (cs : CurveSlot) : List Nat :=
  [b, b2n express, b2n preempted, cs.p, cs.a, cs.b, cs.gx, cs.gy, cs.n, cs.h]

def jobCurve (o : Op) : Weier :=
  let g := fun i => o.aux.getD (3 + i) 0
  ⟨g 0, g 1, g 2, g 3, g 4, g 5, g 6⟩

/-- R168: the unit whose running job an express job may pre-empt. -/
def preemptUnit (d : Dev) (o : Op) (b : Nat) : Option Nat :=
  if rn d Reg.GRD_EXPRESS_ALLOW < b then none
  else (List.range 16).find? (fun u =>
    let x := unitGet d u
    inService d 3 u && unitHolds d u o.recipe && !unitReserved d u o.ctx && x.next.isNone && x.susp.isNone && x.loading.isNone &&
    (decide (o.unitSel = u) || decide (15 < o.unitSel)) &&
    (match x.job.bind (findOp d) with
     | some j => decide (j.aux.getD 1 0 = 0) && decide (j.aux.getD 2 0 = 0) && decide (j.ctx = o.ctx)
     | none => false))

/-- The budget register of a job's source (R153). -/
def jobBudget (o : Op) : Nat :=
  match o.src with | .ring _ _ => Reg.GRD_BUDGET_WHARF | .gq 8 _ => Reg.GRD_BUDGET_K | .ofc _ => Reg.GRD_BUDGET_K | _ => Reg.GRD_BUDGET_FW

/-- A named curve slot in CHECKING keeps the job queued (R162). -/
def curveBusy (d : Dev) (o : Op) : Bool :=
  match recipeOf o.recipe with
  | some .curveLoad => decide (o.curveSlot ≠ 0xFF) && decide ((curveGet d o.curveSlot).state = 1)
  | _ => false

/-- Does the recipe draw at all (R169, R171)? -/
def Recipe.drawing (r : Recipe) : Bool := decide (r.cls = 1) || decide (r = .curveLoad)

/-- What a job puts into the working bank when it starts: its operands, its key's material, its curve's parameters, packed dense (R164; log entry 50). -/
def jobBank (d : Dev) (o : Op) : List Word :=
  let cs := if o.curveSlot ≤ 63 then curveGet d o.curveSlot else {}
  let curve := if cs.state = 2 then [cs.p, cs.a, cs.b, cs.gx, cs.gy, cs.n, cs.h].flatMap (leOct 66) else []
  densePack (o.input.drop (16 * (o.opCount + o.resCount)) ++ (if 0 < o.jobKey ∧ o.jobKey < slotCount then (slotGet d o.jobKey).material else []) ++ curve)

/-- R165: a unit starts a job; both banks are wiped before one of another context. -/
def GrdUnit.start (x : GrdUnit) (id ctx : Nat) (ws : List Word) : GrdUnit :=
  let same := decide (x.owner = ctx)
  { x with job := some id, owner := ctx, bank := bankLoad (if same then x.bank else []) ws, save := if same then x.save else [] }

/-- The release delay k of R40: the larger of the descriptor's and PAS_RQ_KMIN; none for a result that is not quantised (R41). -/
def releaseDelay (d : Dev) (o : Op) (quant : Bool) : Nat := if quant then max o.rqK (fld (rg d Reg.PAS_RQ_KMIN) 3 0) else 0

/-- Admission of a job that has passed its checks: a unit is taken, budgets debited, the key use counted or the target reserved, the curve
slot put in CHECKING. None while the job stays queued. -/
def jobAdmit (d : Dev) (o : Op) : Option (Dev × Op) :=
  match recipeOf o.recipe with
  | none => none
  | some r =>
    let cs := curveGet d o.curveSlot
    let bp := if r = .curveLoad then 0 else bitLen cs.p
    let b := r.bound bp
    let ex := jobExpress d o
    let pick := match chooseUnit d o with
      | some u => some (u, false)
      | none => if ex then (preemptUnit d o b).map (fun u => (u, true)) else none
    match pick with
    | none => none
    | some (u, pre) =>
      if curveBusy d o ∨ (r.drawing ∧ hopWaits d) then none
      else
        let d := debit d (jobBudget o) 1
        let x := unitGet d u
        let d := if pre then
            (match x.job.bind (findOp d) with
             | some j => setOp d { j with bound := j.bound + b + 1, aux := j.aux.set 2 1 }
             | none => d)
          else d
        let d := if pre then rgAdd (unitSet d u { x with next := some o.id }) Reg.GRD_PREEMPTS 1
                 else unitSet d u (x.start o.id o.ctx (jobBank d o))
        let pub := decide (r.cls = 0)
        let q := rqOn (rqClass 0x30 pub) o.rqMode
        let o := { o with phase := .admitted, unit := some (3, u), admitAt := d.pas.count, bound := b + releaseDelay d o q, quant := q, result := u,
                          aux := jobAux b ex false cs }
        if r.keygen then let rr := reserve d o o.jobKey (keygenLen d o); some (rr.1, rr.2)
        else if r.alg.isSome then some (countUse d o.jobKey (d.pas.count - 1), { o with key := some (slotGet d o.jobKey) })
        else if r = .curveLoad then
          let s := (curveTarget d o).getD 0
          some (curveSet d s { state := 1, owner := o.ctx }, { o with aux := o.aux ++ [s] })
        else some (d, { o with aux := o.aux ++ [o.curveSlot, b2n (decide (cs.state = 0))] })

/-! ### What a recipe computes (R156 to R163) -/

/-- Outcome of a job: status, sub-code, results, and the key it stores. -/
structure JobOut where
  st : Nat := St.done
  sub : Nat := 0
  res : List Octets := []
  key : Option Octets := none
  deriving DecidableEq, Repr

/-- Draws of a job: per-signature value or private scalar, octets of a key, the scalar blinding's r and k1, RSA's r1, r2 and r, and the bases of
the primality tests of p and n. -/
structure JobRnd where
  k : Nat := 0
  raw : Octets := []
  r : Nat := 0
  k1 : Nat := 0
  r1 : Nat := 0
  r2 : Nat := 0
  bases : List Nat := []
  basesN : List Nat := []
  deriving DecidableEq, Repr

/-- n octets of whole drawn blocks: what they leave unused is discarded (R183). None while too few have been drawn. -/
def takeRaw (n : Nat) (o : Octets) : Option (Octets × Octets) := if o.length < n then none else some (o.take n, o.drop (16 * ceilDiv n 16))

/-- A number of that many random bits from lo to hi, drawn again until it is one (R158, R169). -/
def takeIn (bits lo hi : Nat) : Nat → Octets → Option (Nat × Octets)
  | 0, _ => none
  | f + 1, o => (takeRaw (ceilDiv bits 8) o).bind (fun x =>
      let v := leNat x.1 % 2 ^ bits
      if lo ≤ v ∧ v ≤ hi then some (v, x.2) else takeIn bits lo hi f x.2)

/-- A non-zero number of that many bits. -/
def takeBlind (bits : Nat) (o : Octets) : Option (Nat × Octets) := takeIn bits 1 (2 ^ bits) (o.length + 1) o

/-- R169: the blinding of a scalar modulo n over a field of p: the 64-bit r, k1 of 64 bits more than n, and the factor of the projective coordinates. -/
def takeScalarBlind (n p : Nat) (x : JobRnd) (o : Octets) : Option (JobRnd × Octets) :=
  (takeBlind 64 o).bind (fun r => (takeBlind (bitLen n + 64) r.2).bind (fun k => (takeBlind (bitLen p) k.2).map (fun z =>
    ({ x with r := r.1, k1 := k.1 }, z.2))))

/-- R158: a scalar from 1 to n - 1. -/
def takeScalar (n : Nat) (x : JobRnd) (o : Octets) : Option (JobRnd × Octets) :=
  (takeIn (bitLen n) 1 (n - 1) (o.length + 1) o).map (fun k => ({ x with k := k.1 }, k.2))

def takeKey (n : Nat) (x : JobRnd) (o : Octets) : Option (JobRnd × Octets) := (takeRaw n o).map (fun k => ({ x with raw := k.1 }, k.2))

/-- R163: the bases of a test of n, 66 octets each, drawn round by round and no further than the first that fails. A number below 4 or an even one
needs none. -/
def takeTest (n : Nat) : Nat → List Nat → Octets → Option (List Nat × Octets)
  | 0, bs, o => some (bs, o)
  | f + 1, bs, o =>
    if n < 4 ∨ n % 2 = 0 then some (bs, o)
    else (takeRaw 66 o).bind (fun b =>
      if probablePrime n [leNat b.1] then takeTest n f (bs ++ [leNat b.1]) b.2 else some (bs ++ [leNat b.1], b.2))

/-- R163: does p have 192 to 521 bits? -/
def curveBits (p : Nat) : Bool := decide (192 ≤ bitLen p) && decide (bitLen p ≤ 521)

/-- Table 6.8, reasons 0x01 to 0x05: the first check before that of n which fails. -/
def curveReasonP (c : Weier) (bases : List Nat) : Option Nat :=
  if ¬ curveBits c.p ∨ ¬ probablePrime c.p bases then some 0x01
  else if c.p ≤ c.a then some 0x02
  else if c.p ≤ c.b then some 0x03
  else if (4 * c.a * c.a * c.a + 27 * c.b * c.b) % c.p = 0 then some 0x04
  else if ¬ onCurve c c.gx c.gy then some 0x05
  else none

/-- The curve a CURVE_LOAD_CHECK names. -/
def loadCurve (o : Op) : Weier :=
  let v := fun i => leNat (operand o i)
  ⟨v 0, v 1, v 2, v 3, v 4, v 5, v 6⟩

/-- R163, R171: the bases of CURVE_LOAD_CHECK: p's, where its length is right, and n's, where every check before n's holds. -/
def takeBases (c : Weier) (o : Octets) : Option (JobRnd × Octets) :=
  (if curveBits c.p then takeTest c.p 64 [] o else some ([], o)).bind (fun x =>
    if (curveReasonP c x.1).isSome then some ({ bases := x.1 }, x.2)
    else (takeTest c.n 64 [] x.2).map (fun y => ({ bases := x.1, basesN := y.1 }, y.2)))

/-- The draws a recipe makes, from the octets drawn for it: none while they do not suffice. Blinding is drawn first (R169, R171). -/
def jobRnd (r : Recipe) (o : Op) (pool : Octets) : Option JobRnd :=
  let c := jobCurve o
  let ec := fun (c : Weier) (k : Bool) => (takeScalarBlind c.n c.p {} pool).bind (fun x => if k then takeScalar c.n x.1 x.2 else some x)
  let ed := fun (p : Octets) => takeScalarBlind edL p25519 {} p
  let all : Option (JobRnd × Octets) := match r with
   | .rsaPriv b =>
     (takeBlind 64 pool).bind (fun r1 => (takeBlind 64 r1.2).bind (fun r2 =>
       let n := (rsaKeyOf b o.material).n
       (takeIn (bitLen n) 1 (n - 1) (pool.length + 1) r2.2).map (fun x => (({ r1 := r1.1, r2 := r2.1, r := x.1 } : JobRnd), x.2))))
   | .ecSign k => ec (fixedCurve k) true
   | .ecKeygen k => ec (fixedCurve k) true
   | .ecdh k => ec (fixedCurve k) false
   | .curveSign => ec c true
   | .curveKeygen => ec c true
   | .curveEcdh => ec c false
   | .x25519 => ed pool
   | .edSign => ed pool
   | .x25519Keygen => (ed pool).bind (fun x => takeKey 32 x.1 x.2)
   | .edKeygen => (ed pool).bind (fun x => takeKey 32 x.1 x.2)
   | .curveLoad => takeBases (loadCurve o) pool
   | _ => some ({}, pool)
  all.map (·.1)

/-- R169: a scalar used on a point: k + r·n, split as k1 + k2. -/
def ptMulBlind (c : Weier) (x : JobRnd) (k : Nat) (q : Pt) : Pt :=
  let t := k + x.r * c.n
  let a := ptMul c x.k1 q
  if x.k1 ≤ t then ptAdd c a (ptMul c (t - x.k1) q)
  else ptAdd c a (match ptMul c (x.k1 - t) q with | some (u, v) => some (u, subMod 0 v c.p) | none => none)

def outFail (st sub : Nat) : JobOut := { st := st, sub := sub }

def runSign (c : Weier) (l : Nat) (key dg : Octets) (x : JobRnd) : JobOut :=
  let dd := leNat key
  if ¬ inScalar c dd then outFail St.param 0x15
  else match ecdsaWith c dd x.k (ptMulBlind c x x.k (curveG c)) dg with
    | some (r, s) => { res := [leOct l r, leOct l s] }
    | none => outFail St.param 0x15

def runVerify (c : Weier) (o : Op) : JobOut :=
  let v := fun i => leNat (operand o i)
  if ¬ onCurve c (v 0) (v 1) then outFail St.param 0x14
  else if ¬ inScalar c (v 3) ∨ ¬ inScalar c (v 4) then outFail St.param 0x15
  else if ecdsaVerify c (v 0) (v 1) (operand o 2) (v 3) (v 4) then {} else outFail St.untrusted 0x03

def runEcdh (c : Weier) (l : Nat) (key : Octets) (o : Op) (rnd : JobRnd) : JobOut :=
  let x := leNat (operand o 0)
  let y := leNat (operand o 1)
  if ¬ onCurve c x y then outFail St.param 0x14
  else if ¬ inScalar c (leNat key) then outFail St.param 0x15
  else match ptMulBlind c rnd (leNat key) (some (x, y)) with
    | some (sx, _) => { res := [leOct l sx] }
    | none => outFail St.param 0x14

def runKeygen (c : Weier) (l : Nat) (rnd : JobRnd) : JobOut :=
  let dd := rnd.k
  match ptMulBlind c rnd dd (curveG c) with
  | some (x, y) => { res := [leOct l x, leOct l y], key := some (leOct l dd) }
  | none => outFail St.param 0x14

/-- Table 6.8: the first check of a curve that fails. -/
def curveReason (c : Weier) (bases basesN : List Nat) : Option Nat :=
  let t := c.h * c.n
  let diff := if t < c.p + 1 then c.p + 1 - t else t - (c.p + 1)
  if (curveReasonP c bases).isSome then curveReasonP c bases
  else if ¬ probablePrime c.n basesN then some 0x06
  else if ptMul c c.n (curveG c) ≠ none then some 0x07
  else if c.h < 1 ∨ 4 < c.h then some 0x08
  else if 4 * c.p < diff * diff then some 0x09
  else if c.n = c.p then some 0x0A
  else if (List.range 20).any (fun i => decide (powMod c.p (i + 1) c.n = 1)) then some 0x0B
  else none

/-- The outcome of a job. X25519 and Ed25519 give the values of RFC 7748 and RFC 8032 whatever their blinding (R151; log entry 81). -/
def runRecipe (r : Recipe) (o : Op) (rnd : JobRnd) : JobOut :=
  let raw := rnd.raw
  let key := o.material
  let c := jobCurve o
  match r with
  | .rsaPub b => { res := [leOct (b / 8) (powMod (leNat (operand o 2)) (leNat (operand o 1)) (leNat (operand o 0)))] }
  | .rsaPriv b => { res := [leOct (b / 8) (rsaBlind (rsaKeyOf b key) rnd.r1 rnd.r2 rnd.r (leNat (operand o 0)))] }
  | .ecSign k => runSign (fixedCurve k) (fixedLen k) key (operand o 0) rnd
  | .ecVerify k => runVerify (fixedCurve k) o
  | .ecdh k => runEcdh (fixedCurve k) (fixedLen k) key o rnd
  | .ecKeygen k => runKeygen (fixedCurve k) (fixedLen k) rnd
  | .x25519 =>
    let s := x25519 key (operand o 0)
    if allZero s then outFail St.param 0x16 else { res := [s] }
  | .x25519Keygen => { res := [x25519Base raw], key := some raw }
  | .edSign => { res := [edSign key (operand o 0)] }
  | .edVerify => if edVerify (operand o 0) (operand o 1) (operand o 2) then {} else outFail St.untrusted 0x03
  | .edKeygen => { res := [edPublic raw], key := some raw }
  | .curveSign => runSign c (curveM c.p) key (operand o 0) rnd
  | .curveVerify => runVerify c o
  | .curveEcdh => runEcdh c (curveM c.p) key o rnd
  | .curveKeygen => runKeygen c (curveM c.p) rnd
  | .curveLoad =>
    match curveReason (loadCurve o) rnd.bases rnd.basesN with
    | some k => outFail St.param k
    | none => { res := [leOct 1 (o.aux.getD 10 0)] }
  | .curveErase => {}

/-- R160: does an RSA private result check? -/
def rsaSelfCheck (r : Recipe) (o : Op) (out : JobOut) : Bool :=
  match r with
  | .rsaPriv b =>
    let k := rsaKeyOf b o.material
    decide (powMod (leNat (out.res.headD [])) k.e k.n = leNat (operand o 0))
  | _ => true

/-- R150: the writes of a job's results: each result at its address, and the number of octets in its list entry. -/
def jobOuts (o : Op) (res : List Octets) : List (Nat × Octets) :=
  let rl := (jobLists o).2
  let la := o.f 32 8
  (res.zipIdx.map (fun x => ((rl.getD x.2 (0, 0)).1, x.1))) ++
  (match o.src with
   | .ring _ _ => res.zipIdx.map (fun x => (la + 16 * x.2 + 12, leOct 4 x.1.length))
   | _ => if res.isEmpty then [] else
      [(la, rl.zipIdx.flatMap (fun x => leOct 8 x.1.1 ++ leOct 4 x.1.2 ++ leOct 4 (res.getD x.2 []).length))])

/-- R166: is the working bank wiped after the job: a private, a curve-management or an express one? -/
def wipesAfter (o : Op) : Bool := (match recipeOf o.recipe with | some r => decide (r.cls ≠ 0) | none => false) || decide (o.aux.getD 1 0 = 1)

/-- The unit is left by its running job. -/
def leaveUnit (d : Dev) (u : Nat) (wipe : Bool) : Dev :=
  unitSet d u ({ unitGet d u with job := none, selfFail := false }.wiped wipe false false)

/-- The curve slot of a CURVE_LOAD_CHECK that ends without its result returns to EMPTY. -/
def dropCurve (d : Dev) (o : Op) : Dev :=
  if recipeOf o.recipe = some .curveLoad ∧ (curveGet d (o.aux.getD 10 0)).state = 1 then curveSet d (o.aux.getD 10 0) {} else d

/-- The buffers a firmware job names: address, octets, and whether it is written. -/
def gqBuffers (o : Op) : List (Nat × Nat × Bool) :=
  (if o.opCount = 0 then [] else [(o.f 24 8, 16 * o.opCount, false)]) ++
  (if o.resCount = 0 then [] else [(o.f 32 8, 16 * o.resCount, false), (o.f 32 8, 16 * o.resCount, true)]) ++
  ((jobLists o).1.filter (fun e => decide (e.2 ≠ 0))).map (fun e => (e.1, e.2, false)) ++
  ((jobLists o).2.filter (fun e => decide (e.2 ≠ 0))).map (fun e => (e.1, e.2, true))

/-- The buffers a firmware job reads, through its unit's MPU. -/
def gqSources (d : Dev) (o : Op) : Bool × Dev :=
  match o.src with
  | .gq _ _ => engSources o (gqBuffers o) d
  | _ => (true, d)

/-- Blocks drawn one by one until the draws suffice, or until one is refused or delayed. -/
def drawUntil (ok : Octets → Bool) : Nat → Octets → Dev → Octets × Dev
  | 0, p, d => (p, d)
  | f + 1, p, d =>
    if ok p ∨ ¬ hopServes d then (p, d)
    else let x := hwDraw d 1; drawUntil ok f (p ++ x.1) x.2

/-- The most blocks a job draws: bases of CURVE_LOAD_CHECK, and a margin for redraws. -/
def jobBlocks : Nat := 1024

/-- The unit's running job ends with ENTROPY_FAULT (R171): its working bank is wiped. -/
def entropyEnd (d : Dev) (u : Nat) (o : Op) : Dev :=
  finish (unreserve (dropCurve (leaveUnit d u true) o) o.id)
    { o with status := St.entropy, sub := hopSub d, slot := none, key := none, ext := false, rnd := [] }

/-- R160: the self-check of the unit's running job fails: the job waits for step 4 of the next edge, and source 36 is raised (Table 15.2). -/
def selfCheckFails (d : Dev) (u : Nat) : Dev :=
  if (unitGet d u).selfFail then d else tmpEvent 36 (unitSet d u { unitGet d u with selfFail := true })

/-- GRINDER_JOB_END: the unit's running job ends (R166). Where a draw it still needs is refused it ends with ENTROPY_FAULT; where one is delayed
it goes on (R171). A result that fails RSA's self-check waits for step 4 of the next edge. -/
def jobEnd (u : Nat) (d : Dev) : Dev :=
  let x := unitGet d u
  match x.job.bind (findOp d) with
  | none => d
  | some o =>
    match recipeOf o.recipe with
    | none => d
    | some r =>
      if o.phase ≠ .admitted ∨ x.selfFail then d
      else
        let dr := drawUntil (fun p => (jobRnd r o p).isSome) jobBlocks o.rnd d
        match jobRnd r o dr.1 with
        | none =>
          if (hopRefusal dr.2).isSome then entropyEnd dr.2 u o else setOp dr.2 { o with rnd := dr.1 }
        | some rnd =>
        let out := runRecipe r o rnd
        if ¬ rsaSelfCheck r o out then selfCheckFails dr.2 u
        else
          let o := { o with rnd := [] }
          let g := gqSources (rgAdd (leaveUnit dr.2 u (wipesAfter o)) (Reg.GRD_UNIT_JOBS + 8 * u) 1) o
          let d := g.2
          let out := if g.1 then out else outFail St.denied 0
          let newKey := match out.key with
            | some m => if r.keygen then some (madeKey (keygenHdr o) 3 m) else none
            | none => o.key
          finish d { o with status := out.st, sub := out.sub, outs := if out.st = St.done then jobOuts o out.res else [],
                            resLen := if out.st = St.done then (out.res.map (·.length)).foldl (· + ·) 0 else 0,
                            key := newKey }

/-- RSA_SELFCHECK_FAILURE: the unit finds its running RSA_PRIV job's result wrong (R160). -/
def rsaFail (u : Nat) (d : Dev) : Dev :=
  match (unitGet d u).job.bind (findOp d) with
  | some o => match recipeOf o.recipe with
    | some (.rsaPriv _) => selfCheckFails d u
    | _ => d
  | none => d

/-- R183: the hardware consumers that are masters: K, the cipher lanes and the Grinder units. -/
def hopConsumer (who : Nat) : Bool := decide (who = 1) || (decide (0x80 ≤ who) && decide (who ≤ 0x87)) || (decide (0x90 ≤ who) && decide (who ≤ 0x9F))

/-- A unit's running job draws one block, where its recipe still needs one; a refused draw ends it with ENTROPY_FAULT (R171, R186). -/
def jobDraw (u : Nat) (d : Dev) : Dev :=
  match (unitGet d u).job.bind (findOp d) with
  | none => d
  | some o => match recipeOf o.recipe with
    | none => d
    | some r =>
      if o.phase ≠ .admitted ∨ (jobRnd r o o.rnd).isSome then d
      else if hopServes d then let x := hwDraw d 1; setOp x.2 { o with rnd := o.rnd ++ x.1 }
      else if (hopRefusal d).isSome then entropyEnd d u o
      else d

/-- HARDWARE_DRAW: a hardware consumer, named by its master identity, draws one block, waits, or is refused. The hardware instance serves no other
master (R183). A lane's block and K's are taken where no operation of theirs waits for them. -/
def hardwareDraw (who : Nat) (d : Dev) : Dev :=
  if ¬ hopConsumer who then d
  else if 0x90 ≤ who then jobDraw (who - 0x90) d
  else if hopServes d then (hwDraw d 1).2
  else d

/-- YIELD_POINT_SAVE: the running job stops at its yield point and is saved; the express job runs. -/
def yieldSave (u : Nat) (d : Dev) : Dev :=
  let x := unitGet d u
  match x.next, x.job with
  | some e, some j => unitSet d u { x with job := some e, next := none, susp := some j, save := x.bank, bank := bankLoad x.bank (express e) }
  | some e, none => unitSet d u { x with job := some e, next := none, bank := bankLoad x.bank (express e) }
  | none, _ => d
where
  /-- What the express job puts into the working bank. -/
  express (e : Nat) : List Word := match findOp d e with | some o => jobBank d o | none => []

/-- SUSPENDED_JOB_RESUME: after the express job and its wipe the suspended job resumes. -/
def suspResume (u : Nat) (d : Dev) : Dev :=
  let x := unitGet d u
  match x.job, x.susp with
  | none, some j => unitSet d u { x with job := some j, susp := none, bank := x.save, save := [], wipe := .idle }
  | _, _ => d

/-- A released curve-management result takes effect on its slot; an erase admitted on an EMPTY slot is ignored (R162). -/
def curveRelease (d : Dev) (o : Op) : Dev :=
  let s := o.aux.getD 10 0
  let v := fun i => leNat (operand o i)
  match recipeOf o.recipe with
  | some .curveLoad =>
    if o.status = St.done then
      curveSet d s { state := 2, owner := o.ctx, p := v 0, a := v 1, b := v 2, gx := v 3, gy := v 4, n := v 5, h := v 6 }
    else if o.status = St.param then curveSet d s { state := 3, reason := o.sub, owner := o.ctx, p := v 0 }
    else dropCurve d o
  | some .curveErase => if o.status = St.done ∧ o.aux.getD 11 0 = 0 then curveSet d s {} else d
  | _ => d

/-- R86, Table 6.9: both banks of every unit that a function owns are wiped. -/
def ownerWipe (ctx : Nat) (d : Dev) : Dev :=
  (List.range 16).foldl (fun d u => if (unitGet d u).owner = ctx then unitSet d u ((unitGet d u).wiped true true false) else d) d

/-- The units forget an operation that ends early: the banks that held it are wiped (Table 6.9). -/
def forgetJob (d : Dev) (id : Nat) (atEdge : Bool) : Dev :=
  (List.range 16).foldl (fun d u =>
    let x := unitGet d u
    let f := fun (j : Option Nat) => if j = some id then none else j
    let loads := decide (x.loading = some id)
    unitSet d u ({ x with job := f x.job, next := f x.next, susp := f x.susp, loading := f x.loading,
                          selfFail := if x.job = some id then false else x.selfFail }.wiped
      (decide (x.job = some id) || loads) (decide (x.susp = some id) || loads) atEdge)) d

/-- Both banks of a unit are wiped: a FENCE, HOLD (Table 6.9). -/
def wipeBanks (d : Dev) (u : Nat) (atEdge : Bool) : Dev := unitSet d u ((unitGet d u).wiped true true atEdge)

/-- An early end of an operation (R75, R167): its unit, its reservation and its curve slot are given up, and it ends with the status,
due at the pass given. -/
def endEarly (d : Dev) (o : Op) (st sub due pass : Nat) : Dev :=
  let atEdge := decide (pass + 1 = d.pas.count)
  let d := if o.opcode = 0x30 then dropCurve (forgetJob d o.id atEdge) o else if o.opcode = 0xA1 then forgetJob d o.id atEdge else d
  endWith d { o with rnd := [] } st sub due pass

/-! ### Undefined outputs (R39, R75, R121) -/

/-- Destinations of an operation that ends without its result, as address and octets. A Grinder job writes none before its end (R167). -/
def undefOuts (o : Op) : List (Nat × Nat) :=
  let n := fun k => min k maxInput
  if o.opcode = 0x10 then (o.dstAddr, n o.payLen) :: (if modeTagged o.mode then [(o.tagAddr, o.tagLen + (if o.genIv then 12 else 0))] else [])
  else if o.opcode = 0x11 then [(o.dstAddr, n o.payLen)]
  else if o.opcode = 0x12 then [(o.tagAddr, o.tagLen)]
  else if o.opcode ∈ [0x20, 0x21] then [(o.dstAddr, digestLen o.mode)]
  else if o.opcode = 0x40 then (if o.ring?.isSome ∧ o.f 8 1 = 1 then [(o.f 16 8, 72)] else [])
  else if o.opcode = 0x55 then [(o.f 16 8, min (o.f 12 4) 1860)]
  else if o.opcode = 0x82 then [(o.aux.getD 2 0, min (o.aux.getD 3 0) 1860)]
  else if o.opcode ∈ [0x60, 0x61] then [(o.f 24 8, n (o.f 32 4))]
  else if o.opcode ∈ [0xD1, 0xD6] then [(o.aux.getD 1 0, 16384)]
  else []

/-- Each undefined destination takes free octets. Nothing reaches the memory of a function since reset (R86) or without Bus Master Enable (R88). -/
def scribble (o : Op) (d : Dev) : Dev :=
  let mem := fun (d : Dev) (x : Nat × Nat) => let u := drawOct d x.2; memWrOct u.2 o.dense x.1 u.1
  match o.src with
  | .ring r _ => if o.dead ∨ ¬ busMaster d (ringFn d r) then d else (undefOuts o).foldl (fun d x => scribbleHost d x.1 x.2) d
  | .barge _ _ _ => d
  | _ => (undefOuts o).foldl mem d

/-- An early end that leaves the outputs undefined: a cancel, a fence, an overrun. -/
def endUndef (d : Dev) (o : Op) (st sub due pass : Nat) : Dev := endEarly (scribble o d) o st sub due pass

/-! ### Images (R145 to R147) -/

def imageLen (o : Octets) : Nat := 64 + 16 * leAt o 6 2 + 9 * ceilDiv (leAt o 12 4) 2 + 96

/-- A recipe table entry. -/
def imageEntry (o : Octets) (i : Nat) : Nat × Nat × Nat × Nat × Nat × Nat :=
  let b := 64 + 16 * i
  (leAt o b 2, leAt o (b + 4) 1, leAt o (b + 5) 1, leAt o (b + 6) 1, leAt o (b + 12) 2, leAt o (b + 14) 2)

def imageBad (o : Octets) : Bool :=
  let n := leAt o 6 2
  let cw := leAt o 12 4
  let nums := (List.range n).map (fun i => leAt o (64 + 16 * i) 2)
  decide (o.take 4 ≠ [0x47, 0x52, 0x44, 0x31]) || decide (leAt o 4 2 ≠ 1) || !allZero (slice o 16 48) ||
    decide (n = 0) || decide (64 < n) || decide (cw = 0) || decide (16384 < cw) ||
    (List.range n).any (fun i => decide (2 < leAt o (68 + 16 * i) 1) || decide (leAt o (71 + 16 * i) 1 ≠ 0) ||
      decide (cw ≤ leAt o (66 + 16 * i) 2) || decide (8000 < leAt o (78 + 16 * i) 2)) ||
    decide (nums.eraseDups.length ≠ nums.length)

/-- ECDSA P-384 over SHA-384 of every octet before the signature. -/
def p384Signed (key : Nat × Nat) (o : Octets) : Bool :=
  let m := o.length - 96
  ecdsaVerify p384 key.1 key.2 (sha384 (o.take m)) (leAt o m 48) (leAt o (m + 48) 48)

/-- The unit's verdict on an image of the given length. -/
def imageFail (d : Dev) (o : Octets) : Option Fail :=
  firstFail
    [ failIf (decide (o.length < 64) || decide (o.length ≠ imageLen o)) St.length 0x05,
      failIf (decide (64 ≤ o.length) && imageBad o) St.badDesc 0x04,
      failIf (decide (leAt o 8 4 < rn d Reg.GRD_MIN_VERSION)) St.denied 0x03,
      failIf (!p384Signed Config.recipeKey o) St.denied 0x02 ]

def imageOf (o : Octets) : GrdImage :=
  let n := leAt o 6 2
  { version := leAt o 8 4, recipes := (List.range n).map (imageEntry o),
    code := (densePack (slice o (64 + 16 * n) (9 * ceilDiv (leAt o 12 4) 2))).take (leAt o 12 4) }

/-- Units a load command names. -/
def maskUnits (m : Nat) : List Nat := (List.range 16).filter (fun u => m.testBit u)

/-- A write to GRD_CMD by K, or a host core at P0; from any other it is dropped. -/
def grdCmd (m pl action : Nat) (d : Dev) : Dev :=
  if ¬ (m = 1 ∨ (isH m ∧ pl = 0)) then d
  else
    let a := cmdArgs d m Reg.GRD_ARG 4
    let bad := decide (action ≠ 1) || decide (2 ^ 16 ≤ a.getD 0 0) || decide (1 < a.getD 3 0)
    cmdIssue 0x0E m (if bad then Cmd.reserved else 0xA1) (decide (a.getD 3 0 = 1)) a false d

/-- LOAD_IMAGE offered: every named unit starts to load, or the whole command is refused. -/
def loadImageAdmit (d : Dev) (o : Op) : Dev :=
  let us := maskUnits (o.aux.getD 0 0)
  let ok := us.all (fun u => (decide ((part d 3 u).state = 2) || (decide ((part d 3 u).state = 0) && (unitGet d u).image.isNone)) &&
    (unitGet d u).loading.isNone)
  let a := o.aux.getD 1 0
  let n := o.aux.getD 2 0
  if ¬ ok then rejectOp d o (St.denied, 0x01)
  else match cmdRamFail o a n with
  | some f => if ¬ (decide (0x400000000 ≤ a) && decide (a < 0x4871C71C6)) then rejectOp d o f else loadGo d o us a n
  | none => loadGo d o us a n
where
  /-- The units read the image into their working banks, each through its own MPU (R143, R146). -/
  loadGo (d : Dev) (o : Op) (us : List Nat) (a n : Nat) : Dev :=
    let img := memAnyOct d o.dense a n
    let d := us.foldl (fun d u =>
      let g := engRead d (0x90 + u) o.served (ctxCol o.served) a (packLen o.dense n)
      let x := unitGet g.2 u
      unitSet g.2 u { x with loading := some o.id, loadOk := g.1, bank := if g.1 then bankLoad x.bank ((densePack img).take 32768) else x.bank }) d
    if us.isEmpty then endWith d o St.done 0 d.pas.count (d.pas.count - 1)
    else admitPlain d { o with input := img } 100

/-- IMAGE_LOAD_COMPLETE: a unit finishes loading and checking; a word it read may have failed its check code (R359). A refused image leaves the
previous one. The command completes when its last unit has finished, with the first failure in ascending unit order. -/
def imageDone (u : Nat) (wcc : Option WccAt) (d : Dev) : Dev :=
  let x := unitGet d u
  match x.loading.bind (findOp d) with
  | none => d
  | some o =>
    let bad := opWcc d { o with unit := some (3, u), wcc := wcc }
    let d := bad.getD d
    let f := if ¬ x.loadOk then some (St.denied, 0) else if bad.isSome then some (St.integrity, 0) else imageFail d o.input
    let d := match f with
      | none => unitSet d u { x with loading := none, image := some (imageOf o.input) }
      | some _ => rgAdd (unitSet d u ({ x with loading := none }.wiped true true false)) (Reg.GRD_UNIT_REFUSED + 8 * u) 1
    let o := { o with aux := o.aux ++ (match f with | some g => [u, g.1, g.2] | none => []) }
    let d := setOp d o
    if (List.range 16).any (fun v => decide ((unitGet d v).loading = some o.id)) then d
    else
      let fs := (List.range 16).filterMap (fun v =>
        ((List.range ((o.aux.length - 4) / 3)).find? (fun i => decide (o.aux.getD (4 + 3 * i) 16 = v))).map
          (fun i => (v, o.aux.getD (5 + 3 * i) 0, o.aux.getD (6 + 3 * i) 0)))
      match fs with
      | [] => deliver d { o with status := St.done, sub := 0, result := 0 } d.pas.count d.pas.count
      | (v, st, sub) :: _ => deliver d { o with status := st, sub := sub, result := v * 2 ^ 16 } d.pas.count d.pas.count

/-! ### Firmware queues -/

/-- GRD_FWQ_DOORBELL: a write to GRD_FWQ_TAIL of queue q. -/
def grdDoorbell (q pl : Nat) (v : Word) (d : Dev) : Dev :=
  if 9 ≤ q then d
  else fqDoorbell (fun p => .gq q p) (Reg.GRD_FWQ_BASE + 4 * q) (Reg.GRD_FWQ_HEAD + q) (fqCore q) pl v d

/-- A firmware job's lists and operands, read at its admission edge. -/
def gqInput (d : Dev) (o : Op) : Octets :=
  let ol := memRdOct d o.dense (o.f 24 8) (16 * o.opCount)
  let rl := memRdOct d o.dense (o.f 32 8) (16 * o.resCount)
  let es := (List.range o.opCount).map (fun i => (leAt ol (16 * i) 8, leAt ol (16 * i + 8) 4))
  ol ++ rl ++ (if 8192 < (es.map (·.2)).foldl (· + ·) 0 then [] else es.flatMap (fun e => memRdOct d o.dense e.1 e.2))

/-- Conditions of a firmware job's descriptor and buffers (R149). -/
def gqStatic (o : Op) : List (Option Fail) :=
  [ failIf (decide (o.opcode ≠ 0x30)) St.badDesc 0,
    failIf (!hdrReservedZero true o.desc || !bodyReservedZero 0x30 o.desc) St.badDesc 0,
    failIf (decide (2 ^ 36 ≤ o.f 24 8) || decide (2 ^ 36 ≤ o.f 32 8)) St.badDesc 0,
    failIf (decide (o.opCount ≠ 0) && !ramRange (o.f 24 8) (packLen o.dense (16 * o.opCount))) St.denied 0,
    failIf (decide (o.resCount ≠ 0) && !ramRange (o.f 32 8) (packLen o.dense (16 * o.resCount))) St.denied 0,
    failIf (((jobLists o).1 ++ (jobLists o).2).any (fun e => decide (e.2 ≠ 0) && !ramRange e.1 (packLen o.dense e.2))) St.denied 0 ]

/-- R75: every uncompleted operation of a source ends with ABORTED at the next edge; one that has ended with its outputs written keeps
its own status. -/
def cancelOps (d : Dev) (p : Op → Bool) (pass : Nat) : Dev :=
  (d.ops.filter (fun o => p o && decide (o.phase ≠ .ended) && decide (o.phase ≠ .posted))).foldl
    (fun d o => endUndef d o St.aborted 0 d.pas.count pass) d

/-- GRD_FWQ_CANCEL (R167): the cancel is marked and acts at the next edge. -/
def grdCancel (q : Nat) (v : Word) (d : Dev) : Dev :=
  if 9 ≤ q ∨ ¬ bit v 0 then d else rgSet d (Reg.GRD_FWQ_CANCEL + 4 * q) 1

/-- GRD level rules (R173). -/
def levelGrd (d : Dev) : List LRule :=
  eachWord 1 (regArr Reg.GRD_UNIT_CTL 16 8) (fun a => bit (chmView d a) 0 && !ownerKnown (fld (chmView d a) 8 1)) ++
  eachWord 2 [Reg.GRD_BUDGET_WHARF, Reg.GRD_BUDGET_FW, Reg.GRD_BUDGET_K] (fun a => decide (64 < cv d a)) ++
  [⟨3, decide (200 < cv d Reg.GRD_EXPRESS_ALLOW), [Reg.GRD_EXPRESS_ALLOW]⟩]

end Sys2Proof.Machine
end

