-- ==== Sys2Proof/Machine/Cred.lean ====
section
/-! DEFINITION. The credential register (chapter 8): placement, lookups, deltas, staging, commits and the epoch switch. -/

namespace Sys2Proof.Machine

/-! ### Site time (R195) -/

/-- BSN_SITE_OFFSET as a signed number, from its two words. -/
def offsetOf (lo hi : Word) : Int :=
  let n : Nat := lo.toNat + fld hi 27 0 * 2 ^ 36
  if n < 2 ^ 63 then (n : Int) else (n : Int) - 2 ^ 64

/-- Site time of the current pass. -/
def siteTime (d : Dev) : Int := (d.pas.count : Int) + offsetOf (rg d Reg.BSN_SITE_OFFSET_LO) (rg d Reg.BSN_SITE_OFFSET_HI)

/-- Site time as its 48-bit count. -/
def siteNow (d : Dev) : Nat := ((siteTime d) % 2 ^ 48).toNat

/-! ### Entries (Table 8.1) -/

/-- A signed amount as a 36-bit word. -/
def amountWord (a : Int) : Word := BitVec.ofInt 36 a

/-- The digest's eight words. -/
def digestWords (o : Octets) : List Word := quadPack (fitTo 32 o)

/-- The 16 words of an entry. -/
def entryWords (e : CrgEntry) : List Word :=
  pack [(0, e.status), (8, e.cls), (16, b2n e.limited), (17, b2n e.capped), (18, e.origin)] :: digestWords e.digest ++
    [loWord e.from_, loWord e.until_, pack [(0, e.from_ / 2 ^ 36 % 2 ^ 12), (12, e.until_ / 2 ^ 36 % 2 ^ 12)], wd e.uses,
     amountWord e.amount, wd e.cap, loWord e.changed]

/-! ### Placement (R196, R197) -/

abbrev crgMax : Nat := 1048576

/-- The two bucket indices of a digest under the register key. -/
def crgBuckets (key digest : Octets) : Nat × Nat :=
  let h := fun (t : Octet) => leNat (cmac key (t :: digest)) % 2 ^ 18
  let h1 := h 1
  let h2 := h 2
  (h1, if h2 = h1 then h1 ^^^ 1 else h2)

/-- Where a digest is held: a way (false) or a stash place (true) and its key. -/
def crgFind (key : Octets) (t : CrgTable) (digest : Octets) : Option (Bool × Nat) :=
  let b := crgBuckets key digest
  let has := fun k => decide ((tabFind t.ways k).map (·.digest) = some digest)
  match ((List.range 4).map (4 * b.1 + ·) ++ (List.range 4).map (4 * b.2 + ·)).find? has with
  | some k => some (false, k)
  | none => (t.stash.find? (fun e => decide (e.2.digest = digest))).map (fun e => (true, e.1))

/-- The entry of a digest. -/
def crgLookup (key : Octets) (t : CrgTable) (digest : Octets) : Option CrgEntry :=
  match crgFind key t digest with
  | some (false, k) => tabFind t.ways k
  | some (true, k) => tabFind t.stash k
  | none => none

/-- An entry written at the place of its digest. -/
def crgOverwrite (t : CrgTable) (at_ : Bool × Nat) (e : CrgEntry) : CrgTable :=
  if at_.1 then { t with stash := tabPut t.stash at_.2 e } else { t with ways := tabPut t.ways at_.2 e }

/-- The entry of a place taken out. -/
def crgRemove (t : CrgTable) (at_ : Bool × Nat) : CrgTable :=
  if at_.1 then { t with stash := tabErase t.stash at_.2 } else { t with ways := tabErase t.ways at_.2 }

/-- The lowest EMPTY way of a bucket. -/
def freeWay (t : CrgTable) (b : Nat) : Option Nat := ((List.range 4).map (4 * b + ·)).find? (fun k => (tabFind t.ways k).isNone)

def crgHeld (t : CrgTable) : Nat := t.ways.length + t.stash.length

/-- The eviction chain of R197: `f` moves left, move number m, bucket b, entry carried e. -/
def crgChain (key : Octets) : Nat → Nat → Nat → CrgEntry → CrgTable → Option CrgTable
  | 0, _, _, e, t =>
    match (List.range 64).find? (fun k => (tabFind t.stash k).isNone) with
    | some k => some { t with stash := tabPut t.stash k e }
    | none => none
  | f + 1, m, b, e, t =>
    let k := 4 * b + (m + (octAt e.digest 0).toNat) % 4
    match tabFind t.ways k with
    | none => some { t with ways := tabPut t.ways k e }
    | some v =>
      let t := { t with ways := tabPut t.ways k e }
      let hb := crgBuckets key v.digest
      let b' := if hb.1 = b then hb.2 else hb.1
      match freeWay t b' with
      | some w => some { t with ways := tabPut t.ways w v }
      | none => crgChain key f (m + 1) b' v t

/-- R197: an entry placed; none for REGISTER_FULL. -/
def crgPlace (key : Octets) (e : CrgEntry) (t : CrgTable) : Option CrgTable :=
  match crgFind key t e.digest with
  | some p => some (crgOverwrite t p e)
  | none =>
    if crgMax ≤ crgHeld t then none
    else
      let b := crgBuckets key e.digest
      match freeWay t b.1 with
      | some k => some { t with ways := tabPut t.ways k e }
      | none => match freeWay t b.2 with
        | some k => some { t with ways := tabPut t.ways k e }
        | none => crgChain key 256 0 b.1 e t

/-! ### Lookups (R198 to R202) -/

/-- Table 8.2. -/
def verdictOf (t : Int) (e : Option CrgEntry) : Nat :=
  match e with
  | none => 0x01
  | some e =>
    if e.status = 3 then 0x02 else if e.status = 2 then 0x03 else if t < (e.from_ : Int) then 0x04
    else if (e.until_ : Int) ≤ t then 0x05 else if e.limited ∧ e.uses = 0 then 0x06 else 0x00

/-- The digest a lookup names: of a descriptor, or of a query barge's words. -/
def lookupDigest (o : Op) : Octets :=
  match o.src with | .barge _ _ _ => o.input.take 32 | _ => slice o.desc 24 32

/-- The words of an entry that an answer carries (Table 8.4). -/
def answerWords (e : CrgEntry) : List Nat :=
  let w := entryWords e
  ([0, 9, 10, 11, 12, 13, 14, 15].map (fun i => (w.getD i 0).toNat))

/-- Conditions of a LOOKUP descriptor or query found before execution. A query's `aux` begins with QUERY_ID and tells in its second number
whether a reserved field is non-zero. -/
def lookupFails (d : Dev) (o : Op) : List (Option Fail) :=
  (match o.src with
   | .barge _ _ _ => [failIf (decide (o.aux.getD 1 0 ≠ 0)) St.badDesc 0]
   | _ => [failIf (decide (1 < o.f 8 1)) St.badDesc 0x02, failIf (decide (o.rqMode = 2)) St.badDesc 0]) ++
  [failIf d.crg.key.isNone St.keyInvalid 0x01, failIf (kekWithheld d) St.keyInvalid 0x07]

/-- The budget register of a lookup's source. -/
def lookupBudget (o : Op) : Nat := match o.src with | .barge _ _ _ => Reg.CRG_BUDGET_FIELD | _ => Reg.CRG_BUDGET_WHARF

/-- R199: a lookup admitted reads the register, and judges validity, as they stand at this edge. -/
def lookupAdmit (d : Dev) (o : Op) : Option (Dev × Op) :=
  if budgetLeft d (lookupBudget o) < 1 then none
  else
    let d := debit d (lookupBudget o) 1
    let e := crgLookup (d.crg.key.getD []) d.crg.table (lookupDigest o)
    let v := verdictOf (siteTime d) e
    let ws := match e with | some e => answerWords e | none => List.replicate 8 0
    let form := (match o.src with | .barge _ _ _ => false | _ => decide (o.f 8 1 = 1)) && e.isSome
    let o := { o with phase := .admitted, admitAt := d.pas.count, bound := 2, status := St.done, sub := v, aux := [o.aux.getD 0 0, v, d.crg.epoch] ++ ws,
                      quant := (match o.src with | .barge _ _ _ => false | _ => true) }
    let o := { o with resLen := if form then 72 else 0, result := if e.isSome then ws.getD 0 0 + 2 ^ 63 else 0 }
    let o := match e with
      | some e => if form then { o with outs := [(o.f 16 8, (denseUnpack (entryWords e)))] } else o
      | none => o
    some (d, o)

/-- LOOKUP_COMPLETE: the lookup's verdict is held for release, or answered. -/
def lookupComplete (id : Nat) (d : Dev) : Dev :=
  match findOp d id with
  | some o =>
    if o.phase = .admitted ∧ (o.opcode = 0x40) then finish (rgAdd d Reg.CRG_LOOKUPS 1) o else d
  | none => d

/-! ### Deltas (R203) -/

/-- An amount of five octets, two's complement. -/
def amountOf (o : Octets) : Int := let n := leNat o; if n < 2 ^ 39 then (n : Int) else (n : Int) - 2 ^ 40

/-- The signed 36-bit range. -/
def amountOk (a : Int) : Bool := decide (-(2 ^ 35 : Int) ≤ a) && decide (a < 2 ^ 35)

/-- The delta of 64 octets. -/
def deltaOf (sender : Option Nat) (o : Octets) : CrgDelta :=
  { digest := o.take 32, op := leAt o 32 1, status := leAt o 33 1, cls := leAt o 34 1, flags := leAt o 35 1, from_ := leAt o 36 6,
    until_ := leAt o 42 6, uses := leAt o 48 5, amount := amountOf (slice o 53 5), cap := leAt o 58 5, sender := sender }

/-- R203: is the delta malformed? -/
def deltaBad (o : Octets) : Bool :=
  let x := deltaOf none o
  let common := decide (leAt o 63 1 ≠ 0) || decide (2 ^ 36 ≤ x.uses) || decide (2 ^ 36 ≤ x.cap)
  if x.op = 1 then
    common || decide (x.status = 0) || decide (3 < x.status) || decide (3 < x.flags) || decide (x.until_ ≤ x.from_) ||
      (decide (x.uses ≠ 0) && !x.flags.testBit 0) || (decide (x.cap ≠ 0) && !x.flags.testBit 1) || !amountOk x.amount
  else if x.op = 2 then !allZero (slice o 33 31)
  else if x.op = 3 then common || !allZero (slice o 33 15) || decide (x.cap ≠ 0) || !amountOk x.amount
  else true

abbrev batchMax : Nat := 262144

/-- Deltas in the open batch. -/
def pendingDeltas (d : Dev) : Nat := d.crg.batch.length + d.crg.fresh.length

/-- R204: what refuses a list of deltas. -/
def stageFailOf (d : Dev) (ds : List Octets) : Option Fail :=
  firstFail [failIf (ds.any deltaBad) St.badDesc 0x01, failIf (decide (batchMax < pendingDeltas d + ds.length)) St.length 0x01]

/-- A list of deltas joins the open batch. -/
def stageDeltas (d : Dev) (sender : Option Nat) (ds : List Octets) : Dev :=
  { d with crg := { d.crg with fresh := d.crg.fresh ++ ds.map (deltaOf sender) } }

/-- STAGE_DELTAS or CRG_CMD STAGE admitted: it completes in the pass of its admission. The credential engine reads a command's list through its own
MPU (R20); a COUNT of zero names no list. -/
def stageAdmit (d : Dev) (o : Op) : Dev :=
  let n := if o.opcode = 0x41 then o.f 8 4 else o.aux.getD 1 0
  let a := o.aux.getD 0 0
  let words := packLen o.dense (64 * n)
  let r := if o.opcode = 0x41 ∨ n = 0 then (true, d)
    else if ¬ ramRange a words then (false, d) else engRead d 0xA0 o.served (ctxCol o.served) a (if batchMax < n then 0 else words)
  let d := r.2
  let inp := if o.opcode = 0x41 then o.input else memRdOct d o.dense a (64 * n)
  let ds := chunks 64 inp
  match firstFail (if r.1 then [stageFailOf d ds] else [failIf (decide (batchMax < pendingDeltas d + n)) St.length 0x01, failIf true St.denied 0]) with
  | some f => rejectOp d o f
  | none => match opWcc d o with
    | some d => rejectOp d o (St.integrity, 0)
    | none => endWith (stageDeltas d none ds) o St.done 0 d.pas.count (if o.opcode = 0x41 then d.pas.count else d.pas.count - 1)

/-- CRG_CMD DISCARD: the open batch is discarded. -/
def discardAdmit (d : Dev) (o : Op) : Dev :=
  rejectOp { d with crg := { d.crg with batch := [], fresh := [] } } o (St.done, 0)

/-! ### Commits (R205, R206) -/

/-- Target pass of a commit. -/
def commitTarget (o : Op) : Nat := if o.opcode = 0x42 then o.f 16 8 else o.aux.getD 0 0 + o.aux.getD 1 0 * 2 ^ 36

/-- Conditions of a commit. -/
def commitFails (d : Dev) (o : Op) : List (Option Fail) :=
  let t := commitTarget o
  [ failIf (decide (t ≠ 0) && (decide (t ≤ d.pas.count) || decide (d.pas.count + 72000000 < t))) St.badDesc 0x03,
    failIf d.crg.key.isNone St.keyInvalid 0x01, failIf (kekWithheld d) St.keyInvalid 0x07 ]

/-- A commit offered: it waits while another is in flight; else the batch of the deltas staged before this edge is frozen. -/
def commitAdmit (d : Dev) (o : Op) : Dev :=
  if d.crg.commit.isSome then d
  else match firstFail (commitFails d o) with
  | some f => rejectOp d o f
  | none =>
    let c := d.crg
    let n := c.batch.length
    let q := max 1 (ceilDiv n (max 1 (rn d Reg.CRG_PREP_BUDGET)))
    let s := max (d.pas.count + q) (commitTarget o)
    let d := setOp d { o with phase := .admitted, admitAt := d.pas.count, bound := s - d.pas.count + 1 }
    let k : CrgCommit := { op := o.id, target := commitTarget o, at_ := d.pas.count, batch := c.batch, table := c.table }
    { d with crg := { c with batch := [], commit := some k } }

/-- ORIGIN of a delta (R206). -/
def deltaOrigin (d : Dev) (x : CrgDelta) : Nat :=
  match x.sender with
  | some u => u
  | none => if bit (rg d Reg.BSN_SELF) 14 then fld (rg d Reg.BSN_SELF) 13 0 else 0

/-- One delta of the frozen batch acts on the register being prepared. -/
def applyDelta (key : Octets) (epoch origin : Nat) (c : CrgCommit) (x : CrgDelta) : CrgCommit :=
  let i := c.placed
  let skip : CrgCommit := { c with placed := i + 1, skips := c.skips + 1, firstSkip := c.firstSkip.or (some i) }
  if c.failed.isSome then c
  else if x.op = 1 then
    let e : CrgEntry :=
    { status := x.status, cls := x.cls, limited := x.flags.testBit 0, capped := x.flags.testBit 1, origin := origin, digest := x.digest,
      from_ := x.from_, until_ := x.until_, uses := x.uses, amount := x.amount, cap := x.cap, changed := epoch }
    match crgPlace key e c.table with
    | some t => { c with placed := i + 1, table := t }
    | none => { c with failed := some i }
  else match crgFind key c.table x.digest, crgLookup key c.table x.digest with
  | some p, some e =>
    if x.op = 2 then { c with placed := i + 1, table := crgRemove c.table p }
    else if e.uses < x.uses ∨ ¬ amountOk (e.amount + x.amount) then skip
    else { c with placed := i + 1, table := crgOverwrite c.table p { e with uses := e.uses - x.uses, amount := e.amount + x.amount, origin := origin, changed := epoch } }
  | _, _ => skip

/-- DELTA_PREPARATION: this pass's share of the frozen batch is placed; once every delta is placed the batch is ready at the next edge. -/
def deltaPrep (d : Dev) : Dev :=
  match d.crg.commit, d.crg.key with
  | some c, some key =>
    if c.ready.isSome ∨ c.failed.isSome ∨ c.prepPass = some d.pas.count then d
    else
      let now := (c.batch.drop c.placed).take (rn d Reg.CRG_PREP_BUDGET)
      let c := now.foldl (fun c x => applyDelta key (d.crg.epoch + 1) (deltaOrigin d x) c x) c
      let c := { c with prepPass := some d.pas.count, ready := if c.placed = c.batch.length then some (d.pas.count + 1) else none }
      { d with crg := { d.crg with commit := some c } }
  | _, _ => d

/-- CRG_COMMIT_RESULT. -/
def commitResult (d : Dev) (st sub idx : Nat) : Dev :=
  rgSet d Reg.CRG_COMMIT_RESULT (pack [(0, st), (8, sub), (16, idx)])

/-- The commit ends without effect; the deltas it skipped are counted as those of the last commit. -/
def commitDrop (c : CrgCommit) (st sub : Nat) (d : Dev) : Dev :=
  let d := commitResult (rgSet { d with crg := { d.crg with commit := none } } Reg.CRG_COMMIT_SKIPS (wd c.skips)) st sub (c.failed.getD (c.firstSkip.getD 0))
  match findOp d c.op with
  | some o => endWith d o st sub d.pas.count (d.pas.count - 1)
  | none => d

/-- EPOCH_SWITCH: at step 3 of the switch edge every delta takes effect at once; the commit completes at step 6. -/
def epochSwitch (d : Dev) : Dev :=
  match d.crg.commit with
  | some c =>
    match c.ready with
    | some r =>
      if r ≤ d.pas.count ∧ c.target ≤ d.pas.count ∧ (c.target = 0 ∨ r ≤ c.target) then
        let d := { d with crg := { d.crg with table := c.table, epoch := (d.crg.epoch + 1) % 2 ^ 48, commit := none } }
        let d := commitResult (rgSet d Reg.CRG_COMMIT_SKIPS (wd c.skips)) St.done 0 (c.firstSkip.getD 0)
        match findOp d c.op with
        | some o => endWith d o St.done 0 d.pas.count (d.pas.count - 1)
        | none => d
      else d
    | none => d
  | none => d

/-- COMMIT_TIMEOUT: the target edge has come and the batch is not ready. -/
def commitTimeout (d : Dev) : Dev :=
  match d.crg.commit with
  | some c =>
    let late : Bool := match c.ready with | some r => decide (c.target < r) | none => true
    if c.target ≠ 0 ∧ c.target ≤ d.pas.count ∧ late then commitDrop c St.timeout 0x01 d else d
  | none => d

/-- A commit with a delta that cannot be placed fails at the edge after the pass that found it. -/
def commitFull (d : Dev) : Dev :=
  match d.crg.commit with
  | some c => if c.failed.isSome then commitDrop c St.regFull 0x01 d else d
  | none => d

/-- Step 3 of an edge: the deltas of the pass before join the open batch, and the commit switches, times out or fails. -/
def crgEdge (d : Dev) : Dev :=
  let d := { d with crg := { d.crg with batch := d.crg.batch ++ d.crg.fresh, fresh := [] } }
  commitTimeout (epochSwitch (commitFull d))

/-- R207: HOLD and HOST reset discard both batches; in HOLD the commit ends with HELD. -/
def crgDiscard (d : Dev) : Dev := { d with crg := { d.crg with batch := [], fresh := [], commit := none } }

/-! ### CRG_CMD -/

/-- A write to CRG_CMD by K, or H0 to H7 at P0 or P1. -/
def crgCmd (m pl action : Nat) (d : Dev) (wcc : Option WccAt := none) : Dev :=
  if ¬ keyCmdMaster m pl then d
  else
    let a := cmdArgs d m Reg.CRG_ARG 3
    let bad := decide (action = 0) || decide (3 < action) || (decide (action = 1) && decide (1 < a.getD 2 0)) ||
      (decide (action = 2) && (decide (2 ^ 28 ≤ a.getD 1 0) || decide (a.getD 2 0 ≠ 0))) ||
      (decide (action = 3) && a.any (fun x => decide (x ≠ 0)))
    cmdIssue 0x10 m (if bad then Cmd.reserved else 0xB0 + action) (decide (action = 1) && decide (a.getD 2 0 = 1)) a false d pl wcc

/-! ### The key copy (R208) -/

/-- A chamber that names CRG_KEY_SLOT opens: the key is copied from the slot. -/
def crgOpen (d : Dev) : Dev :=
  if (tabFind d.chm.entries Reg.CRG_KEY_SLOT).isSome then
    { d with crg := { d.crg with key := macKey (slotGet d (fld (rg d Reg.CRG_KEY_SLOT) 13 0)) } }
  else d

/-- Table 8.12, CRG. -/
def levelCrg (d : Dev) : List LRule :=
  let s := slotGet d (cv d Reg.CRG_KEY_SLOT % 16384)
  [ ⟨1, decide (cv d Reg.CRG_KEY_SLOT ≠ rn d Reg.CRG_KEY_SLOT) && (decide (crgHeld d.crg.table ≠ 0) || decide (pendingDeltas d ≠ 0) || d.crg.commit.isSome),
      [Reg.CRG_KEY_SLOT]⟩,
    ⟨2, decide (s.state ≠ 1) || decide (s.alg ≠ 3) || decide (s.usage ≠ 4), [Reg.CRG_KEY_SLOT]⟩,
    ⟨3, decide (2000 < cv d Reg.CRG_BUDGET_WHARF + cv d Reg.CRG_BUDGET_FIELD), [Reg.CRG_BUDGET_WHARF, Reg.CRG_BUDGET_FIELD]⟩,
    ⟨4, decide (cv d Reg.CRG_PREP_BUDGET = 0) || decide (8192 < cv d Reg.CRG_PREP_BUDGET), [Reg.CRG_PREP_BUDGET]⟩ ]

/-- CRG_STATE. -/
def crgStateWord (d : Dev) : Word :=
  let st := match d.crg.commit with | none => 0 | some c => if c.ready.isSome then 2 else 1
  pack [(0, st), (2, b2n d.crg.key.isSome)]

end Sys2Proof.Machine
end

