-- ==== Sys2Proof/Machine/Basin.lean ====
section
/-! DEFINITION. The basin (chapter 8): membership, Xancon envelopes, and the basin KEK's rotation. -/

namespace Sys2Proof.Machine

/-- R209: is the unit a basin member, and its number? -/
def selfValid (d : Dev) : Bool := bit (rg d Reg.BSN_SELF) 14
def selfUnit (d : Dev) : Nat := fld (rg d Reg.BSN_SELF) 13 0

/-- Is unit u set in BSN_MEMBER? -/
def isMember (d : Dev) (u : Nat) : Bool := decide (u < 16384) && bit (rg d (Reg.BSN_MEMBER + u / 32)) (u % 32)

/-- Member bits set. -/
def memberCount (d : Dev) : Nat := ((List.range 16384).filter (isMember d)).length

/-! ### SEAL (R212, R213) -/

def Op.peer (o : Op) : Nat := o.f 8 2
def Op.envKind (o : Op) : Nat := o.f 10 1
def Op.envLen (o : Op) : Nat := o.f 12 4
def Op.envSrc (o : Op) : Nat := o.f 16 8
def Op.envDst (o : Op) : Nat := o.f 24 8
def Op.envMax (o : Op) : Nat := o.f 32 4

/-- BODY_LEN of the kinds the device produces. -/
def kindLen (k : Nat) : Nat := if k = 2 then 48 else if k = 3 then 64 else 2048

/-- Octets of the envelope a SEAL makes. -/
def sealLen (o : Op) : Nat := 96 + (if o.envKind = 1 then o.envLen else kindLen o.envKind)

/-- The KEK a KEY_EPOCH envelope is sealed under is held: NEXT travels under the current one, the current one under the previous. -/
def keyEpochFail (d : Dev) : Option Fail := failIf (d.bsn.next.isNone && d.life.kekBasinOld.isEmpty) St.denied 0x07

/-- Conditions of a SEAL. -/
def sealFails (d : Dev) (o : Op) : List (Option Fail) :=
  let k := o.envKind
  [ failIf (decide (16384 ≤ o.peer)) St.badDesc 0,
    failIf (decide (k = 0) || decide (4 < k)) St.badDesc 0x04,
    failIf (decide (2 ≤ k) && (decide (o.envLen ≠ 0) || decide (o.envSrc ≠ 0))) St.badDesc 0x04,
    failIf (decide (k = 1) && (decide (o.envLen % 64 ≠ 0) || decide (64000 < o.envLen))) St.length 0x03,
    failIf (decide (o.envMax < sealLen o)) St.length 0x02,
    failIf (!selfValid d || !isMember d (selfUnit d) || !isMember d o.peer) St.denied 0x02,
    (if k = 2 then keyEpochFail d else none),
    failIf (!kekReleased d 2 || d.life.kekBasin.isEmpty) St.keyInvalid 0x07,
    failIf d.bsn.blocked St.keyInvalid 0x08 ]

/-- Table 8.8: the body of an envelope. -/
def sealBody (d : Dev) (o : Op) : Octets :=
  if o.envKind = 1 then o.input
  else if o.envKind = 2 then
    match d.bsn.next with
    | some (k, at_) => leOct 4 (d.life.kekEpoch + 1) ++ leOct 6 at_ ++ zeros 6 ++ fitTo 32 k
    | none => leOct 4 d.life.kekEpoch ++ leOct 6 (d.bsn.curAt.getD 0) ++ zeros 6 ++ fitTo 32 d.life.kekBasin
  else if o.envKind = 3 then
    leOct 2 (selfUnit d) ++ leOct 1 d.life.state ++
      leOct 1 (b2n (d.pas.parts.any (fun e => decide (e.2.state ≠ 0))) + 2 * b2n (decide (d.hop.state ≠ 1))) ++
      leOct 6 d.crg.epoch ++ leOct 4 (crgHeld d.crg.table) ++ leOct 1 d.crg.table.stash.length ++ zeros 1 ++ leOct 6 (siteNow d) ++
      leOct 4 d.life.kekEpoch ++ zeros 6 ++ fitTo 16 d.life.devid ++ zeros 16
  else (List.range 512).flatMap (fun n => leOct 4 (rn d (Reg.BSN_MEMBER + n) % 2 ^ 32))

/-- The IV an envelope's header must hold. -/
def envIv (sender seq kind : Nat) : Octets := leOct 2 sender ++ leOct 6 seq ++ leOct 1 kind ++ zeros 3

/-- The envelope of a SEAL, the next value of counter 1 as its SEQUENCE. The ladder's record is of the current epoch (R212). -/
def sealEnvelope (d : Dev) (o : Op) : Octets × Dev :=
  let d := moncInc d 1
  let seq := tabGet 0 d.keep.monc 1
  let body := sealBody d o
  let old := decide (o.envKind = 2) && d.bsn.next.isNone
  let ep := if old then (d.life.kekEpoch + 2 ^ 32 - 1) % 2 ^ 32 else d.life.kekEpoch
  let key := if old then d.life.kekBasinOld else d.life.kekBasin
  let iv := envIv (selfUnit d) seq o.envKind
  let hdr := [0x58, 0x4E, 0x43, 0x31] ++ leOct 2 1 ++ leOct 1 o.envKind ++ zeros 1 ++ leOct 2 (selfUnit d) ++ leOct 2 o.peer ++ leOct 4 ep ++
    leOct 6 seq ++ zeros 2 ++ leOct 6 (siteNow d) ++ zeros 2 ++ leOct 4 body.length ++ leOct 6 d.crg.epoch ++ zeros 6 ++ iv ++ zeros 20
  let r := gcmEnc key iv (hdr.take 64) body
  (hdr ++ r.1 ++ r.2, if old ∨ d.life.sealed then d else ladderWrite { d with life := { d.life with sealed := true } })

/-! ### OPEN (R214, R215) -/

/-- Header fields of an envelope. -/
def envKindOf (e : Octets) : Nat := leAt e 6 1
def envSender (e : Octets) : Nat := leAt e 8 2
def envReceiver (e : Octets) : Nat := leAt e 10 2
def envEpoch (e : Octets) : Nat := leAt e 12 4
def envSeq (e : Octets) : Nat := leAt e 16 6
def envPass (e : Octets) : Nat := leAt e 24 6
def envBodyLen (e : Octets) : Nat := leAt e 32 4

/-- Is the header malformed? -/
def envHdrBad (e : Octets) : Bool :=
  decide (e.length < 80) || decide (e.take 4 ≠ [0x58, 0x4E, 0x43, 0x31]) || decide (leAt e 4 2 ≠ 1) || decide (envKindOf e = 0) ||
    decide (4 < envKindOf e) || decide (leAt e 7 1 ≠ 0) || decide (16384 ≤ envSender e) || decide (16384 ≤ envReceiver e) ||
    decide (leAt e 22 2 ≠ 0) || decide (leAt e 30 2 ≠ 0) || decide (leAt e 42 6 ≠ 0) || !allZero (slice e 60 20) ||
    decide (slice e 48 12 ≠ envIv (envSender e) (envSeq e) (envKindOf e))

/-- Is BODY_LEN allowed for the kind? -/
def envLenOk (e : Octets) : Bool :=
  decide (e.length = 96 + envBodyLen e) &&
    (if envKindOf e = 1 then decide (envBodyLen e % 64 = 0) && decide (envBodyLen e ≤ 64000) else decide (envBodyLen e = kindLen (envKindOf e)))

/-- The basin KEK of an epoch held: the current or the previous one. -/
def basinKek (d : Dev) (ep : Nat) : Option Octets :=
  if ep = d.life.kekEpoch ∧ ¬ d.life.kekBasin.isEmpty then some d.life.kekBasin
  else if (ep + 1) % 2 ^ 32 = d.life.kekEpoch ∧ ¬ d.life.kekBasinOld.isEmpty then some d.life.kekBasinOld
  else none

/-- The body, decrypted, if the tag verifies. -/
def envOpen (d : Dev) (e : Octets) : Option Octets :=
  let n := envBodyLen e
  match basinKek d (envEpoch e) with
  | some k =>
    let r := gcmDec k (slice e 48 12) (e.take 64) (slice e 80 n)
    if octEq r.2 (slice e (80 + n) 16) then some r.1 else none
  | none => none

/-- Deltas of a body. -/
def bodyDeltas (b : Octets) : List Octets := chunks 64 b

/-- R215: the checks of the envelope's kind. -/
def kindFail (d : Dev) (o : Op) (e body : Octets) : Option Fail :=
  let k := envKindOf e
  let dst := failIf (decide (o.envDst ≠ 0) || decide (o.envMax ≠ 0)) St.badDesc 0x04
  if k = 1 then firstOf [dst, stageFailOf d (bodyDeltas body)]
  else if k = 2 then
    let key := slice body 16 32
    let new := leAt body 0 4
    firstOf [dst, failIf (!allZero (slice body 10 6)) St.badDesc 0x04,
      failIf (decide (new ≠ (d.life.kekEpoch + 1) % 2 ^ 32) ||
        (match d.bsn.next with | some (nk, na) => !(octEq nk key && decide (na = leAt body 4 6)) | none => false)) St.denied 0x06]
  else failIf (decide (o.envMax < envBodyLen e)) St.length 0x02

/-- R214: the first check an envelope fails. -/
def openEnvFail (d : Dev) (o : Op) (e : Octets) : Option Fail :=
  let age := (envPass e : Int) - siteTime d
  firstOf
    [ failIf (envHdrBad e) St.badDesc 0x04,
      failIf (!envLenOk e) St.length 0x02,
      failIf (!(decide (envReceiver e = envSender e) || (selfValid d && decide (envReceiver e = selfUnit d)))) St.denied 0x01,
      failIf (!isMember d (envSender e) || (selfValid d && decide (envSender e = selfUnit d))) St.denied 0x02,
      failIf (!kekReleased d 2) St.keyInvalid 0x07,
      failIf (basinKek d (envEpoch e)).isNone St.keyInvalid 0x08,
      failIf (envOpen d e).isNone St.denied 0x03,
      failIf (decide (envSeq e + 1 ≤ tabGet 0 d.bsn.seqs (envSender e))) St.denied 0x04,
      failIf (decide (rn d Reg.BSN_ENV_MAX_AGE < age.natAbs)) St.denied 0x05,
      kindFail d o e ((envOpen d e).getD []) ]

/-- What an accepted envelope does beside its body's delivery. -/
def openEnvEffect (d : Dev) (e body : Octets) : Dev :=
  let d := { d with bsn := { d.bsn with seqs := tabSet 0 d.bsn.seqs (envSender e) (envSeq e + 1) } }
  if envKindOf e = 1 then stageDeltas d (some (envSender e)) (bodyDeltas body)
  else if envKindOf e = 2 then { d with bsn := { d.bsn with next := some (slice body 16 32, leAt body 4 6) } }
  else d

/-! ### Admission and completion (R217) -/

/-- Envelope operation offered: within BSN_ENV_OPS it is checked and admitted. -/
def envAdmit (d : Dev) (o : Op) : Option (Dev × Op) :=
  if budgetLeft d Reg.BSN_ENV_OPS < 1 then none
  else some (debit d Reg.BSN_ENV_OPS 1, { o with phase := .admitted, admitAt := d.pas.count, bound := 1,
                                                 quant := rqOn (rqClass o.opcode false) o.rqMode })

/-- ENVELOPE_OPERATION_COMPLETE. -/
def envelopeComplete (id : Nat) (d : Dev) : Dev :=
  match findOp d id with
  | some o =>
    if o.phase ≠ .admitted then d
    else if o.opcode = 0x60 then
      match firstFail (sealFails d o) with
      | some f => finish d { o with status := f.1, sub := f.2, outs := [], resLen := 0 }
      | none =>
        let r := sealEnvelope d o
        finish r.2 { o with status := St.done, sub := 0, outs := [(o.envDst, r.1)], resLen := r.1.length }
    else if o.opcode = 0x61 then
      match openEnvFail d o o.input with
      | some f => finish (rgAdd d Reg.BSN_REJECTS 1) { o with status := f.1, sub := f.2, outs := [], resLen := 0 }
      | none =>
        let body := (envOpen d o.input).getD []
        let out := decide (3 ≤ envKindOf o.input)
        finish (openEnvEffect d o.input body)
          { o with status := St.done, sub := 0, outs := if out then [(o.envDst, body)] else [], resLen := if out then body.length else 0 }
    else d
  | none => d

/-! ### Rotation (R216) -/

/-- KEK_ACTIVATION: at the first edge whose site time reaches the activation pass NEXT becomes current. -/
def kekActivate (d : Dev) : Dev :=
  match d.bsn.next with
  | some (k, at_) =>
    if (at_ : Int) ≤ siteTime d then
      ladderWrite
        { d with life := { d.life with kekBasinOld := d.life.kekBasin, kekBasin := k, kekEpoch := (d.life.kekEpoch + 1) % 2 ^ 32, sealed := false },
                 bsn := { d.bsn with next := none, curAt := some at_, blocked := false } }
    else d
  | none => d

/-- R212: at start-up SEAL is blocked when counter 1 reads zero and the unit has sealed under the current epoch. -/
def sealBlockCheck (d : Dev) : Dev :=
  { d with bsn := { d.bsn with blocked := decide (tabGet 0 d.keep.monc 1 = 0) && d.life.sealed } }

/-! ### The chamber (R210, R216, Table 8.12) -/

/-- Member bit of a unit as it would stand after the open. -/
def memberAfter (d : Dev) (u : Nat) : Bool := bit (chmView d (Reg.BSN_MEMBER + u / 32)) (u % 32)

/-- The unit number an enrolment would take. -/
def enrolUnit (d : Dev) : Option Nat := (List.range 16384).find? (fun u => !memberAfter d u)

/-- A word that the chamber sets, with the given bit. -/
def chmSets (d : Dev) (a i : Nat) : Bool := match tabFind d.chm.entries a with | some e => bit e.val i | none => false

def levelBsn (d : Dev) : List LRule :=
  let self := chmView d Reg.BSN_SELF
  let at_ : Nat := cv d Reg.BSN_ROTATE_AT_LO + fld (chmView d Reg.BSN_ROTATE_AT_HI) 11 0 * 2 ^ 36
  let t : Int := (d.pas.count : Int) + offsetOf (chmView d Reg.BSN_SITE_OFFSET_LO) (chmView d Reg.BSN_SITE_OFFSET_HI)
  let enrols := fun u => chmSets d Reg.BSN_ENROL 0 && decide (enrolUnit d = some u)
  [ ⟨1, bit self 14 && !memberAfter d (fld self 13 0) && !enrols (fld self 13 0), [Reg.BSN_SELF, Reg.BSN_MEMBER + fld self 13 0 / 32]⟩,
    ⟨2, chmSets d Reg.BSN_ENROL 0 && (enrolUnit d).isNone, [Reg.BSN_ENROL]⟩,
    ⟨3, chmSets d Reg.BSN_ROTATE 0 && (d.bsn.next.isSome || decide ((at_ : Int) ≤ siteTime d) || hopRefuses d),
      [Reg.BSN_ROTATE, Reg.BSN_ROTATE_AT_LO, Reg.BSN_ROTATE_AT_HI]⟩,
    ⟨4, decide (t < 0) || decide (2 ^ 48 ≤ t), [Reg.BSN_SITE_OFFSET_LO, Reg.BSN_SITE_OFFSET_HI]⟩,
    ⟨5, decide (cv d Reg.BSN_ENV_OPS = 0) || decide (1024 < cv d Reg.BSN_ENV_OPS), [Reg.BSN_ENV_OPS]⟩ ]

/-- What the opening does in the basin: an enrolment takes the lowest free unit number, a rotation's drawn key becomes NEXT; both request
words read 0 afterwards. Taken after the entries are live. -/
def bsnOpen (d : Dev) : Dev :=
  let d := if chmSets d Reg.BSN_ENROL 0 then
      (match (List.range 16384).find? (fun u => !isMember d u) with
       | some u => rgSet (rgOr d (Reg.BSN_MEMBER + u / 32) (2 ^ (u % 32))) Reg.BSN_ENROL_RESULT (wd (u + 2 ^ 35))
       | none => d)
    else d
  let at_ := ofLoHi (rg d Reg.BSN_ROTATE_AT_LO) (rg d Reg.BSN_ROTATE_AT_HI)
  let d := if chmSets d Reg.BSN_ROTATE 0 then { d with bsn := { d.bsn with next := some (d.bsn.drawn, at_), drawn := [] } } else d
  rgSet (rgSet d Reg.BSN_ENROL 0) Reg.BSN_ROTATE 0

/-- BSN_KEK_STATE. -/
def bsnKekState (d : Dev) : Word :=
  pack [(0, b2n (!d.life.kekBasinOld.isEmpty)), (1, b2n d.bsn.next.isSome), (2, b2n d.bsn.blocked)]

end Sys2Proof.Machine
end

