-- ==== Sys2Proof/Machine/Field.lean ====
section
/-! DEFINITION. The field island (chapter 9): ports and baselines, ping engines, requests and the chain scheduler, the end of a grant, and
events to field firmware. -/

namespace Sys2Proof.Machine

def portGet (d : Dev) (p : Nat) : Port := tabGet {} d.fld.ports p
def portSet (d : Dev) (p : Nat) (x : Port) : Dev := { d with fld := { d.fld with ports := tabSet {} d.fld.ports p x } }
def chainGet (d : Dev) (n : Nat) : Chain := tabGet {} d.fld.chains n
def chainSet (d : Dev) (n : Nat) (c : Chain) : Dev := { d with fld := { d.fld with chains := tabSet {} d.fld.chains n c } }
def engGet (d : Dev) (e : Nat) : PingEngine := tabGet {} d.fld.eng e
def engSet (d : Dev) (e : Nat) (x : PingEngine) : Dev := { d with fld := { d.fld with eng := tabSet {} d.fld.eng e x } }

/-! ### Configuration of ports and flights -/

def aptReg (p k : Nat) : Nat := Reg.APT_CTL + 8 * p + k
def aptCtl (d : Dev) (p : Nat) : Word := rg d (aptReg p 0)
def aptEnable (d : Dev) (p : Nat) : Bool := bit (aptCtl d p) 0
def aptAuto (d : Dev) (p : Nat) : Bool := bit (aptCtl d p) 1
def aptPrio (d : Dev) (p : Nat) : Bool := bit (aptCtl d p) 2
def aptPower (d : Dev) (p : Nat) : Nat := fld (aptCtl d p) 7 3
def aptSettle (d : Dev) (p : Nat) : Nat := fld (aptCtl d p) 17 8

/-- Owner core of a flight, 0 to 3. -/
def flightOwner (d : Dev) (f : Nat) : Nat := fld (rg d (Reg.FLD_FLIGHT_CTL + f)) 1 0
def flightLend (d : Dev) (f : Nat) : Bool := bit (rg d (Reg.FLD_FLIGHT_CTL + f)) 2
def flightBudget (d : Dev) (f : Nat) : Nat := fld (rg d (Reg.FLD_FLIGHT_CTL + f)) 4 3

/-- Is a flight, or a chain, in MAINT or FENCED? -/
def outOfService (d : Dev) (kind i : Nat) : Bool := decide (2 ≤ (part d kind i).state)

/-- Does Table 9.2 make the port DISABLED? -/
def portOff (d : Dev) (p : Nat) : Bool := !aptEnable d p || outOfService d 4 (p / 16) || d.keep.hold

/-- Table 9.2: what lets a port leave DISABLED: it is enabled, its flight IN_SERVICE, and HOLD released. -/
def portOn (d : Dev) (p : Nat) : Bool := aptEnable d p && inService d 4 (p / 16) && !d.keep.hold

/-- R244 step 3: the chains and the aerial ports are released (Table 20.3). -/
def portsUp (d : Dev) : Bool := d.lkg.fieldUp && decide (10 ≤ d.rst.fieldStep)

def flightReady (d : Dev) (f : Nat) : Bool := tabGet false d.fld.ready f

/-- Ports of the same flight adjacent to a port. -/
def adjacent (d : Dev) (p : Nat) : List Nat :=
  ((List.range 16).filter (fun k => bit (rg d (aptReg p 1)) k)).map (fun k => p / 16 * 16 + k)

/-- Does the port hold a grant, and a READER one? -/
def granted (d : Dev) (p : Nat) : Bool := decide ((portGet d p).state = 2)
def readerGrant (d : Dev) (p : Nat) : Bool := granted d p && !(chainGet d (portGet d p).chain).emu

/-! ### Events (R240) -/

/-- An event of a port, pending for the core that owns its flight; beyond 4,096 it is counted and not kept. -/
def pushEvent (d : Dev) (p : Nat) (words : List Nat) : Dev :=
  let c := flightOwner d (p / 16)
  let l := tabGet [] d.fld.evs c
  if 4096 ≤ l.length then rgAdd d (Reg.FLD_EV_LOST + c) 1
  else { d with fld := { d.fld with evs := tabSet [] d.fld.evs c (l ++ [⟨p, d.pas.count, words⟩]) } }

/-- PRESENCE (1) or VACATED (2). -/
def pingEvent (d : Dev) (type p : Nat) (dA dPhi : Int) : Dev :=
  pushEvent d p [type + 16 * p, (dA % 8192).toNat + 8192 * (dPhi % 4096).toNat, d.pas.count % 2 ^ 36, 0]

/-- GRANT (3) or END (4); with FLD_REPORT.GRANTS also noted for site firmware (R241). -/
def grantEvent (d : Dev) (type p n : Nat) (tie emu : Bool) (reason : Nat) : Dev :=
  let w := type + 16 * p + 2 ^ 12 * n + 2 ^ 17 * b2n tie + 2 ^ 18 * b2n emu + 2 ^ 19 * reason
  let d := pushEvent d p [w, 0, d.pas.count % 2 ^ 36, 0]
  if bit (rg d Reg.FLD_REPORT) 0 then
    { d with fld := { d.fld with grants := tabSet [] d.fld.grants (p / 32) (tabGet [] d.fld.grants (p / 32) ++ [w]) } }
  else d

/-- Event ring of core Fc: base, entries, head and tail positions. -/
def evqLog (d : Dev) (c : Nat) : Nat := fld (rg d (Reg.FLD_EVQ_SIZE + 4 * c)) 4 0
def evqOn (d : Dev) (c : Nat) : Bool := decide (4 ≤ evqLog d c) && decide (evqLog d c ≤ 10)
def evqHead (d : Dev) (c : Nat) : Nat := posOf (rg d (Reg.FLD_EVQ_HEAD + 4 * c)) (2 ^ evqLog d c)
def evqTail (d : Dev) (c : Nat) : Nat := posOf (rg d (Reg.FLD_EVQ_TAIL + 4 * c)) (2 ^ evqLog d c)

/-- EVENT_QUEUE_WRITE: the oldest pending event that occurred before this edge is written to core Fc's queue, if there is room, and
becomes an admitted input of the core. One that the field end's MPU refuses stays pending (R20, log entry 85). -/
def eventWrite (c : Nat) (d : Dev) : Dev :=
  match tabGet [] d.fld.evs c with
  | [] => d
  | e :: r =>
    let n := 2 ^ evqLog d c
    let t := evqTail d c
    if ¬ evqOn d c ∨ d.pas.count ≤ e.pass ∨ n ≤ posDist n (evqHead d c) t then d
    else match refusedIn d 0xC1 (0x20 + c) 1 1 (rn d (Reg.FLD_EVQ_BASE + 4 * c) + 4 * (t % n)) 4 with
    | some (w, x) => mpuRecord 0xC1 (0x20 + c) 3 w x d
    | none =>
      let d := fmWr d (rn d (Reg.FLD_EVQ_BASE + 4 * c) + 4 * (t % n)) (e.words.map wd)
      let d := rgSet d (Reg.FLD_EVQ_TAIL + 4 * c) (idxWord ((t + 1) % (2 * n)) n)
      noteMem (pushInput { d with fld := { d.fld with evs := tabSet [] d.fld.evs c r } } (0x20 + c) 5 e.port (d.pas.count - 1) e.words)
        [(rn d (Reg.FLD_EVQ_BASE + 4 * c) + 4 * (t % n), 4)]

/-- Events of a core written while they can be. -/
def eventWrites : Nat → Nat → Dev → Dev
  | 0, _, d => d
  | f + 1, c, d => eventWrites f c (eventWrite c d)

/-- A write to FLD_EVQ_SIZE: the ring starts empty. -/
def evqSize (c : Nat) (v : Word) (d : Dev) : Dev :=
  rgSet (rgSet (rgSet d (Reg.FLD_EVQ_SIZE + 4 * c) (wd (fld v 4 0))) (Reg.FLD_EVQ_HEAD + 4 * c) 0) (Reg.FLD_EVQ_TAIL + 4 * c) 0

/-- FLD_EVQ_HEAD_WRITE: core Fc consumes entries, as Table 3.11. -/
def evqHeadWrite (c : Nat) (v : Word) (d : Dev) : Dev :=
  let n := 2 ^ evqLog d c
  let t := posDist n (evqHead d c) (posOf v n)
  if 4 ≤ c ∨ ¬ evqOn d c ∨ n ≤ fld v 15 0 ∨ t = 0 ∨ n < t ∨ posDist n (evqHead d c) (evqTail d c) < t then d
  else rgSet d (Reg.FLD_EVQ_HEAD + 4 * c) (wd (v.toNat % 2 ^ 17))

/-! ### End of a grant (R238, Table 9.3, R256) -/

/-- Table 10.3: status of an entry that its grant's end cuts off. -/
def cutStatus (reason : Nat) : Fail :=
  [(St.aborted, 0x10), (St.timeout, 0x01), (St.aborted, 0x11), (St.migrated, 0x01), (St.held, 0x00), (St.aborted, 0x12),
   (St.aborted, 0x13)].getD reason (St.aborted, 0x10)

/-- Positions from one to another on the ring of eight entries. -/
def entriesTo : Nat → Nat → Nat → List Nat
  | 0, _, _ => []
  | f + 1, a, b => if a = b then [] else a :: entriesTo f ((a + 1) % 16) b

/-- Every entry not yet ended ends with one status. -/
def cutEntries (c : Chain) (st sub air pass : Nat) : Chain :=
  let last := c.tailNext.getD c.tail
  let ps := entriesTo 16 c.endp last
  { c with done := c.done ++ ps.map (fun p => ⟨c.port.getD 0, c.grantAt, p, st, sub, air, [], if p = c.endp then c.wtx else 0, pass⟩),
           tail := last, tailNext := none, adm := last, endp := last, wtx := 0, window := none }

/-- A grant ends: carrier off, entries cut, END raised, the port to LINGER, to PRESENT with a fresh READER request (FENCED with AUTO = 1), or
to DISABLED (HELD, DISABLED). MISMATCH and SUPPLY give the chain back at the next edge only. -/
def endGrant (p reason : Nat) (d : Dev) : Dev :=
  let x := portGet d p
  if x.state ≠ 2 then d
  else
    let n := x.chain
    let c := chainGet d n
    let f := cutStatus reason
    let d := grantEvent d 4 p n c.tie c.emu reason
    let c := cutEntries c f.1 f.2 0 d.pas.count
    let later := decide (reason = 2) || decide (reason = 5)
    let d := chainSet d n { c with port := none, carrier := false, back := later, tie := if later then c.tie else false,
                                   window := none, held := none, timer := none, armed := none, ident := none, emuState := 0, card := 0, stale := [] }
    let x := { x with chain := 0, linger := d.pas.count, clear := false }
    if reason = 4 ∨ reason = 6 then portSet d p { x with state := 4 }
    else if reason = 3 ∧ aptAuto d p ∧ ¬ portOff d p then portSet d p { x with state := 1, reqEmu := false, reqAt := d.pas.count }
    else if portOff d p then portSet d p { x with state := 4 }
    else portSet d p { x with state := 3 }

/-! ### Ping engines and baselines (R228 to R231) -/

/-- Does the port need a fresh baseline? -/
def needsBase (d : Dev) (p : Nat) : Bool := decide ((portGet d p).state = 4) && portOn d p && (portGet d p).base.isNone

/-- Does the engine ping now? -/
def engRuns (d : Dev) (e : Nat) : Bool := (engGet d e).cal && !d.keep.hold && portsUp d && decide (d.rpl.mode < 2)

/-- R229: may the port be pinged in a sweep? -/
def pingable (d : Dev) (p : Nat) : Bool :=
  decide ((portGet d p).state ≠ 4) && !granted d p && !(adjacent d p).any (readerGrant d)

/-- SWEEP_START: at a pass in which the pass count modulo PNG_PERIOD equals PNG_PHASE. -/
def sweepStart (e : Nat) (d : Dev) : Dev :=
  let period := rn d (Reg.PNG_PERIOD + 4 * e)
  if e < 16 ∧ engRuns d e ∧ d.pas.count % period = rn d (Reg.PNG_PHASE + 4 * e) ∧ (engGet d e).begun ≠ some d.pas.count then
    let x := engGet d e
    engSet d e { x with sweep := List.range 16, begun := some d.pas.count, sweeps := min (2 ^ 30 - 1) (x.sweeps + 1) }
  else d

/-- A phase difference wrapped to −2,048 to 2,047. -/
def wrapPhase (x : Int) : Int := (x + 2048) % 4096 - 2048

/-- R230: the differences of a ping from the port's baseline. -/
def pingDiff (b : Nat × Nat) (a phi : Nat) : Int × Int := ((a : Int) - b.1, wrapPhase ((phi : Int) - b.2))

def pingDetects (d : Dev) (p : Nat) (x : Int × Int) : Bool :=
  let t := rg d (aptReg p 3)
  decide (fld t 11 0 ≤ x.1.natAbs) || decide (fld t 23 12 ≤ x.2.natAbs)

def pingClear (d : Dev) (p : Nat) (x : Int × Int) : Bool :=
  let t := rg d (aptReg p 3)
  decide (x.1.natAbs < fld t 11 0 / 2) && decide (x.2.natAbs < fld t 23 12 / 2)

/-- R231: the baseline moved towards a clear ping. -/
def moveBase (sh : Nat) (b : Nat × Nat) (x : Int × Int) : Nat × Nat :=
  (((b.1 : Int) + x.1 / 2 ^ sh).toNat, (((b.2 : Int) + x.2 / 2 ^ sh) % 4096).toNat)

/-- What a ping's result does to the port (Table 9.2). -/
def pingResult (d : Dev) (p a phi : Nat) : Dev :=
  let x := portGet d p
  match x.base with
  | none => d
  | some b =>
    let df := pingDiff b a phi
    if x.state = 0 then
      if pingDetects d p df then
        if ¬ flightReady d (p / 16) then d
        else
          let d := pingEvent d 1 p df.1 df.2
          if aptAuto d p then portSet d p { x with state := 1, reqEmu := false, reqAt := d.pas.count } else d
      else if pingClear d p df then portSet d p { x with base := some (moveBase (rn d (Reg.PNG_SHIFT + 4 * (p / 16))) b df) }
      else d
    else if x.state = 1 then
      if pingClear d p df then pingEvent (portSet d p { x with state := 0 }) 2 p df.1 df.2 else d
    else if x.state = 3 then
      if pingClear d p df then portSet d p { x with clear := true } else d
    else d

/-- PING: the engine's next slot of its sweep measures amplitude and phase of the next pingable port. -/
def ping (e a phi : Nat) (d : Dev) : Dev :=
  let x := engGet d e
  if ¬ (e < 16 ∧ engRuns d e ∧ x.used < 2) then d
  else
    match x.sweep.dropWhile (fun j => !pingable d (16 * e + j)) with
    | [] => engSet d e { x with sweep := [] }
    | j :: r => pingResult (engSet d e { x with sweep := r, used := x.used + 1, last := j }) (16 * e + j) (a % 4096) (phi % 4096)

/-- The mean of the baseline pings: of the amplitudes, and of the phases as wrapped differences from the first. -/
def meanBase (l : List (Nat × Nat)) : Nat × Nat :=
  let p0 := (l.headD (0, 0)).2
  let s := (l.map (fun x => wrapPhase ((x.2 : Int) - p0))).foldl (· + ·) 0
  ((l.map (·.1)).foldl (· + ·) 0 / l.length, (((p0 : Int) + s / l.length) % 4096).toNat)

/-- BASELINE_PING: in a slot no sweep uses, a port that needs a baseline is pinged; the eighth sets it and the port becomes IDLE. -/
def baselinePing (e p a phi : Nat) (d : Dev) : Dev :=
  let x := engGet d e
  if ¬ (e < 16 ∧ engRuns d e ∧ x.used < 2 ∧ p / 16 = e ∧ needsBase d p ∧ ¬ x.sweep.any (fun j => pingable d (16 * e + j))) then d
  else
    let d := engSet d e { x with used := x.used + 1, last := p % 16 }
    let q := portGet d p
    let bs := q.bases ++ [(a % 4096, phi % 4096)]
    if bs.length < 8 then portSet d p { q with bases := bs }
    else portSet d p { q with bases := [], base := some (meanBase bs), state := 0 }

/-! ### Requests (R234) -/

/-- A dropped FLD_REQ write, or a dropped frame memory write, is counted for its core. -/
def reqDrop (d : Dev) (m : Nat) : Dev := pvSet d m Reg.FLD_REQ_DROPS (satInc (pv d m Reg.FLD_REQ_DROPS) 1)

/-- A write to FLD_REQ by a field core, taken at the next field edge. -/
def fldReqWrite (m : Nat) (v : Word) (d : Dev) : Dev :=
  if isF m then { d with fld := { d.fld with reqs := d.fld.reqs ++ [(m, v.toNat % 2 ^ 11)] } } else d

/-- FLD_REQ word. -/
def reqWord (port mode action : Nat) : Word := pack [(0, port % 256), (8, mode % 2), (9, action)]

/-- A write takes effect. -/
def applyReq (d : Dev) (x : Nat × Nat) : Dev :=
  let p := x.2 % 256
  let emu := decide (nfld x.2 8 8 = 1)
  let act := nfld x.2 10 9
  let q := portGet d p
  if x.1 ≠ 0x20 + flightOwner d (p / 16) ∨ q.state = 4 ∨ act = 0 then reqDrop d x.1
  else if act = 1 then
    if q.mismatch ∨ q.state = 2 then reqDrop d x.1 else portSet d p { q with state := 1, reqEmu := emu, reqAt := d.pas.count }
  else if act = 2 then (if q.state = 2 then endGrant p 0 d else reqDrop d x.1)
  else if q.state = 1 then portSet d p { q with state := 3, linger := d.pas.count, clear := false }
  else reqDrop d x.1

/-- Is the FLD_REQ write one of its port's owner that names an action? One that names the reserved action has no effect but its count (R478). -/
def reqGoverns (d : Dev) (x : Nat × Nat) : Bool := decide (x.1 = 0x20 + flightOwner d (x.2 % 256 / 16)) && decide (nfld x.2 10 9 ≠ 0)

/-- When several writes name one port in one pass, the last governs: the ones a later write of the port's owner supersedes are left out. -/
def lastReqs (d : Dev) : List (Nat × Nat) → List (Nat × Nat)
  | [] => []
  | x :: r =>
    if reqGoverns d x && r.any (fun y => decide (y.2 % 256 = x.2 % 256) && reqGoverns d y) then lastReqs d r
    else x :: lastReqs d r

/-! ### The scheduler (R233 to R237) -/

/-- FLD_POWER_NOW. -/
def powerNow (d : Dev) : Nat :=
  ((List.range 32).map (fun n => let c := chainGet d n; if c.port.isSome && !c.emu then c.power else 0)).foldl (· + ·) 0

/-- Is the pair's tie line free? -/
def tieFree (d : Dev) (pair : Nat) : Bool :=
  (List.range 4).all (fun i => let c := chainGet d (4 * pair + i); !(c.tie && (c.port.isSome || c.back)))

/-- The words of a chain's frame memory cleared (R248). -/
def clearFrames (n : Nat) (d : Dev) : Dev :=
  let inR := fun (a b k : Nat) => decide (b ≤ a) && decide (a < b + k)
  { d with regs := d.regs.filter (fun e =>
      !(inR e.1 (Reg.CHN_ENTRY_HDR + 64 * n) 64 || inR e.1 (Reg.CHN_ENTRY_DATA + 1024 * n) 1024)) }

/-- R236: do the conditions for giving the chain to the port hold? -/
def grantOk (d : Dev) (p n : Nat) (tie : Bool) : Bool :=
  let x := portGet d p
  let c := chainGet d n
  inService d 5 n && c.cal && c.port.isNone && !c.back && decide (x.state = 1) && !x.mismatch && inService d 4 (p / 16) && flightReady d (p / 16) &&
    !d.keep.hold && d.fld.supplyOk && portsUp d && decide (d.rpl.mode < 2) &&
    (!tie || (flightLend d (n / 2) && inService d 4 (n / 2) && tieFree d (p / 32))) &&
    !((adjacent d p).any (fun k => granted d k && (!x.reqEmu || readerGrant d k))) &&
    decide (1 ≤ flightBudget d (p / 16) - spentOf d (Reg.FLD_FLIGHT_CTL + p / 16)) &&
    (x.reqEmu || decide (powerNow d + aptPower d p ≤ fld (rg d Reg.FLD_POWER_CAP) 9 0))

/-- A grant made at this edge (R237). -/
def makeGrant (p n : Nat) (tie : Bool) (d : Dev) : Dev :=
  let x := portGet d p
  let c := chainGet d n
  let g := d.pas.count
  let d := debit d (Reg.FLD_FLIGHT_CTL + p / 16) 1
  let k : Chain := { cal := c.cal, port := some p, tie := tie, emu := x.reqEmu, carrier := !x.reqEmu, grantAt := g, settleAt := g + aptSettle d p,
                     ceilAt := g + rn d (aptReg p 2) % 2 ^ 32, power := aptPower d p, tuned := x.reqEmu, done := c.done }
  let d := chainSet (clearFrames n d) n k
  let d := rgAdd d (Reg.CHN_GRANTS + 16 * n) 1
  grantEvent (portSet d p { x with state := 2, chain := n }) 3 p n tie x.reqEmu 0

/-- Requests of a pair, in the order of R235. -/
def pairReqs (d : Dev) (pair : Nat) : List Nat :=
  sortBy (fun p => (if aptPrio d p then 0 else 2 ^ 80) + (portGet d p).reqAt * 256 + p)
    (((List.range 32).map (32 * pair + ·)).filter (fun p => decide ((portGet d p).state = 1)))

/-- A request offered the two home chains of a flight. -/
def offerChains (f : Nat) (tie : Bool) (d : Dev) (p : Nat) : Dev :=
  match [2 * f, 2 * f + 1].find? (fun n => grantOk d p n tie) with
  | some n => makeGrant p n tie d
  | none => d

/-- Step 3 of R233 for one flight pair: home chains first, then the partner's over the tie line. -/
def schedulePair (d : Dev) (pair : Nat) : Dev :=
  let d := (pairReqs d pair).foldl (fun d p => offerChains (p / 16) false d p) d
  (pairReqs d pair).foldl (fun d p => offerChains ((p / 16) ^^^ 1) true d p) d

/-- A port that Table 9.2 disables, or no longer disables. -/
def portRefresh (p : Nat) (d : Dev) : Dev :=
  let x := portGet d p
  if portOff d p then
    if x.state = 2 then endGrant p (if d.keep.hold then 4 else if !aptEnable d p then 6 else 3) d
    else portSet d p { x with state := 4 }
  else if x.state = 4 ∧ x.base.isSome ∧ portOn d p then portSet d p { x with state := 0 }
  else d

/-- At steps 3 and 4 of a field edge a port is judged afresh; its grant, if it has one, ends only in step 2 of the scheduler (R233). -/
def portJudge (p : Nat) (d : Dev) : Dev := if granted d p then d else portRefresh p d

/-- GRANT_FENCE: a grant whose port, chain or lending flight is out of service ends, or one whose port is (Table 9.3). -/
def grantCut (p : Nat) (d : Dev) : Dev :=
  let n := (portGet d p).chain
  if ¬ granted d p then d
  else if portOff d p then portRefresh p d
  else if outOfService d 5 n || ((chainGet d n).tie && outOfService d 4 (n / 2)) then endGrant p 3 d
  else d

/-- GRANT_CEILING: a grant that has reached its ceiling edge ends. -/
def grantCeiling (p : Nat) (d : Dev) : Dev :=
  if (portGet d p).state = 2 ∧ (chainGet d (portGet d p).chain).ceilAt ≤ d.pas.count then endGrant p 1 d else d

/-- Ports with something listed. -/
def livePorts (d : Dev) : List Nat := d.fld.ports.map (·.1)

/-- Step 7 of a field edge, the chain scheduler: first the FLD_REQ writes, then the ends of grants, then new ones (R233). -/
def schedule (d : Dev) : Dev :=
  let reqs := lastReqs d d.fld.reqs
  let d := reqs.foldl applyReq { d with fld := { d.fld with reqs := [] } }
  let d := (livePorts d).foldl (fun d p => grantCeiling p (grantCut p d)) d
  (List.range 8).foldl schedulePair d

/-! ### Ports at an edge -/

/-- LINGER_EXPIRY: a port in LINGER returns to IDLE when APT_LINGER passes have elapsed. -/
def lingerExpiry (p : Nat) (d : Dev) : Dev :=
  let x := portGet d p
  if x.state = 3 ∧ x.linger + rn d (aptReg p 4) % 2 ^ 32 ≤ d.pas.count then portSet d p { x with state := 0 } else d

/-- A LINGER port that a ping found clear becomes IDLE at the next edge. -/
def lingerClear (p : Nat) (d : Dev) : Dev :=
  let x := portGet d p
  if x.state = 3 ∧ x.clear then portSet d p { x with state := 0, clear := false } else d

/-- A fresh baseline is needed. -/
def dropBase (p : Nat) (d : Dev) : Dev := portSet d p { portGet d p with base := none, bases := [] }

/-- FLIGHT_READY: its home chains are calibrated or out of service, and every enabled port has a baseline (R244). -/
def flightReadyNow (f : Nat) (d : Dev) : Dev :=
  let ok := [2 * f, 2 * f + 1].all (fun n => (chainGet d n).cal || !inService d 5 n) &&
    (List.range 16).all (fun j => !aptEnable d (16 * f + j) || (portGet d (16 * f + j)).base.isSome)
  if f < 16 ∧ ok ∧ portsUp d then { d with fld := { d.fld with ready := tabSet false d.fld.ready f true } } else d

/-! ### Tuning and supply (R224, R225, R243) -/

/-- R225: the chain ends its grant with MISMATCH. -/
def mismatchEnd (n : Nat) (d : Dev) : Dev :=
  match (chainGet d n).port with
  | some p => endGrant p 2 (rgAdd (portSet d p { portGet d p with mismatch := true }) (Reg.CHN_MISMATCHES + 16 * n) 1)
  | none => d

/-- Forward and reflected power as measured. -/
def setPowers (n fwd refl : Nat) (d : Dev) : Dev :=
  rgSet (rgSet d (Reg.CHN_FWD + 16 * n) (wd fwd)) (Reg.CHN_REFL + 16 * n) (wd refl)

/-- TUNING_COMPLETE: a READER grant's tuning ends with codes and a VSWR in tenths; above 3:1 the grant ends with MISMATCH. -/
def tuningComplete (n ser shu vswr fwd refl : Nat) (d : Dev) : Dev :=
  let c := chainGet d n
  match c.port with
  | some p =>
    if c.emu ∨ c.tuned then d
    else
      let d := setPowers n fwd refl d
      let d := portSet d p { portGet d p with ser := ser % 64, shu := shu % 64, vswr := min 255 vswr }
      let d := chainSet d n { c with tuned := true }
      if 30 < vswr then mismatchEnd n d else d
  | none => d

/-- At the edge 20 passes after that of the grant a READER grant's tuning has ended; where TUNING_COMPLETE has not named what it reached, that is
a free value (R224, log entry 83). -/
def tuningEnd (n : Nat) (d : Dev) : Dev :=
  let c := chainGet d n
  if c.port.isSome ∧ ¬ c.emu ∧ ¬ c.tuned ∧ c.grantAt + 20 ≤ d.pas.count then
    let code := drawWord d
    let vswr := drawWord code.2
    let pow := drawWord vswr.2
    tuningComplete n (fld code.1 5 0) (fld code.1 11 6) (fld vswr.1 7 0) (fld pow.1 17 0) (fld pow.1 35 18) pow.2
  else d

/-- CHN_FWD and CHN_REFL as latched at an edge: a free value while the carrier is on, nothing without one (R245, log entry 83). -/
def powersEdge (n : Nat) (d : Dev) : Dev :=
  if (chainGet d n).carrier then
    let r := drawWord d
    setPowers n (fld r.1 17 0) (fld r.1 35 18) r.2
  else setPowers n 0 0 d

/-- SETTLE_END: the port's settle time ends. -/
def settleEnd (n : Nat) (d : Dev) : Dev :=
  let c := chainGet d n
  if c.port.isSome ∧ c.settleAt ≤ d.pas.count then chainSet d n { c with settled := true } else d

/-- VSWR_MISMATCH: the VSWR in tenths measured at two consecutive edges of a READER grant. -/
def vswrMismatch (n v1 v2 : Nat) (d : Dev) : Dev :=
  let c := chainGet d n
  match c.port with
  | some p =>
    if c.emu then d
    else
      let d := portSet d p { portGet d p with vswr := min 255 v2 }
      if 60 < v1 ∧ 60 < v2 then mismatchEnd n d else d
  | none => d

/-- APT_CLEAR: a field core clears a port's MISMATCH. -/
def aptClear (m p : Nat) (v : Word) (d : Dev) : Dev :=
  if isF m ∧ p < 256 ∧ bit v 0 then portSet d p { portGet d p with mismatch := false } else d

/-- FIELD_SUPPLY_FAULT: the converter's output leaves its range, high or low: every grant ends with SUPPLY and the tamper source asserts. -/
def supplyFault (high : Bool) (d : Dev) : Dev :=
  let d := { d with fld := { d.fld with supplyOk := false } }
  tmpAssert (if high then 9 else 10) ((livePorts d).foldl (fun d p => endGrant p 5 d) d)

/-- FIELD_SUPPLY_RECOVERY. -/
def supplyRecovery (d : Dev) : Dev :=
  tamperClear 9 (tamperClear 10 { d with fld := { d.fld with supplyOk := true } })

/-- R242: HOLD entry in the field island: every grant ends with HELD, requests drop, every port becomes DISABLED. -/
def fieldHold (d : Dev) : Dev := (List.range 256).foldl (fun d p => portRefresh p d) { d with fld := { d.fld with reqs := [] } }

/-! ### Registers -/

/-- FLD_STATE. -/
def fldStateWord (d : Dev) : Word :=
  pack ((List.range 16).map (fun f => (f, b2n (flightReady d f))) ++
    [(16, b2n ((List.range 32).all (fun n => !inService d 5 n || (chainGet d n).cal))), (17, b2n d.fld.supplyOk), (18, b2n d.keep.hold)])

/-- APT_STATUS (Table 9.7). -/
def aptStatusWord (d : Dev) (p : Nat) : Word :=
  let x := portGet d p
  pack [(0, x.state), (3, b2n x.mismatch), (4, if x.state = 2 then x.chain else 0), (9, x.ser), (15, x.shu), (21, x.vswr)]

/-- APT_BASE. -/
def aptBaseWord (d : Dev) (p : Nat) : Word :=
  match (portGet d p).base with | some b => pack [(0, b.1), (12, b.2)] | none => 0

/-- FLD_TIE. -/
def tieWord (d : Dev) (t : Nat) : Word :=
  match ((List.range 4).map (4 * t + ·)).find? (fun n => (chainGet d n).tie && ((chainGet d n).port.isSome || (chainGet d n).back)) with
  | some n => pack [(0, 1), (1, n), (6, n / 2)]
  | none => 0

/-- PNG_STATUS. -/
def pngStatusWord (d : Dev) (e : Nat) : Word :=
  let x := engGet d e
  let st := if !engRuns d e then 0 else if (List.range 16).any (fun j => needsBase d (16 * e + j)) then 1 else 2
  pack [(0, st), (2, x.last), (6, x.sweeps)]

/-- CHN_STATUS. -/
def chnStatusWord (d : Dev) (n : Nat) : Word :=
  let c := chainGet d n
  let st := if c.port.isNone then 0 else if !c.settled then 1 else if c.emu then 3 else 2
  pack [(0, st), (2, c.port.getD 0), (10, b2n c.tie), (11, b2n c.cal), (12, b2n c.carrier)]

/-! ### Level rules (Table 9.8) -/

def levelFld (d : Dev) : List LRule :=
  [⟨1, decide (cv d Reg.FLD_POWER_CAP = 0) || decide (640 < cv d Reg.FLD_POWER_CAP), [Reg.FLD_POWER_CAP]⟩] ++
  eachWord 2 (regArr Reg.FLD_FLIGHT_CTL 16 1) (fun a => decide (fld (chmView d a) 4 3 = 0)) ++
  eachWord 3 (regArr Reg.FLD_FLIGHT_CTL 16 1) (fun a => decide (fld (chmView d a) 1 0 ≠ fld (rg d a) 1 0) &&
    decide ((part d 4 (a - Reg.FLD_FLIGHT_CTL)).state ≠ 2))

def levelApt (d : Dev) : List LRule :=
  let v := chmView d
  let ctl := fun p => aptReg p 0
  let adjBit := fun p q => bit (v (aptReg p 1)) (q % 16)
  eachWord 1 ((List.range 256).map ctl) (fun a => decide (fld (v a) 7 3 = 0) || decide (20 < fld (v a) 7 3) || decide (fld (v a) 17 8 < 20)) ++
  (List.range 256).map (fun p => ⟨2, adjBit p p || (List.range 16).any (fun k => let q := p / 16 * 16 + k; adjBit p q != adjBit q p),
    aptReg p 1 :: ((List.range 16).map (fun k => aptReg (p / 16 * 16 + k) 1)).filter (fun a => bit (v (aptReg p 1)) ((a - aptReg 0 1) / 8 % 16))⟩) ++
  (List.range 256).map (fun p => ⟨3, decide (fld (v (aptReg p 2)) 31 0 ≤ fld (v (aptReg p 0)) 17 8), [aptReg p 0, aptReg p 2]⟩) ++
  eachWord 4 ((List.range 256).map (fun p => aptReg p 3)) (fun a => decide (fld (v a) 11 0 = 0) || decide (fld (v a) 23 12 = 0))

def levelPng (d : Dev) : List LRule :=
  (List.range 16).map (fun e =>
    let per := cv d (Reg.PNG_PERIOD + 4 * e)
    let sh := cv d (Reg.PNG_SHIFT + 4 * e)
    ⟨1, decide (per < 8) || decide (per ≤ cv d (Reg.PNG_PHASE + 4 * e)) || decide (sh = 0) || decide (8 < sh),
      [Reg.PNG_PERIOD + 4 * e, Reg.PNG_PHASE + 4 * e, Reg.PNG_SHIFT + 4 * e]⟩)

def levelChn (d : Dev) : List LRule :=
  eachWord 1 (regArr Reg.CHN_FRAME_BUDGET 32 16) (fun a => decide (cv d a = 0) || decide (8 < cv d a))

end Sys2Proof.Machine
end

