-- ==== Sys2Proof/Machine/Contactless.lean ====
section
/-! DEFINITION. Frame entries of the chains (chapter 10): frame memory, checks, reader entries, waiting-time extensions, card emulation,
and the completion of entries. What a card or a reader sends is the command's operand. -/

namespace Sys2Proof.Machine

/-! ### Frame memory (R248, Table 10.2) -/

def hdrReg (n pos w : Nat) : Nat := Reg.CHN_ENTRY_HDR + 64 * n + 8 * (pos % 8) + w
def dataReg (n pos w : Nat) : Nat := Reg.CHN_ENTRY_DATA + 1024 * n + 128 * (pos % 8) + w
def hdrW (d : Dev) (n pos w : Nat) : Word := rg d (hdrReg n pos w)

/-- TX data octets of an entry. -/
def txData (d : Dev) (n pos len : Nat) : Octets :=
  fitTo len (quadUnpack ((List.range (ceilDiv len 4)).map (fun i => rg d (dataReg n pos i))))

def entKind (w : Word) : Nat := fld w 3 0
def entCrc (w : Word) : Bool := bit w 4
def entNoResp (w : Word) : Bool := bit w 5
def entWtxAuto (w : Word) : Bool := bit w 6
def entNewRates (w : Word) : Bool := bit w 7
def entTxLen (w : Word) : Nat := fld w 24 16
def entRats (w : Word) : Bool := bit w 26

/-- The core that may write a chain's entries: the owner of the flight of the port it is granted to. -/
def frameOwner (d : Dev) (n : Nat) : Option Nat := (chainGet d n).port.map (fun p => 0x20 + flightOwner d (p / 16))

/-- Is the entry between its doorbell and its completion? -/
def entryBusy (c : Chain) (e : Nat) : Bool := (entriesTo 16 c.head (c.tailNext.getD c.tail)).any (fun p => decide (p % 8 = e))

/-- A field core's write to a header or data word of chain n, entry e. The words the chain writes are read-only. -/
def frameWrite (m n e a : Nat) (ro : Bool) (v : Word) (d : Dev) : Dev :=
  if frameOwner d n ≠ some m ∨ entryBusy (chainGet d n) e then reqDrop d m
  else if ro then d else rgSet d a v

/-- CHN_FQ_TAIL_WRITE: a doorbell for the chain's entries, visible at the next edge (R69 with N = 8). -/
def fqTailWrite (m n : Nat) (v : Word) (d : Dev) : Dev :=
  if ¬ isF m then d
  else if frameOwner d n ≠ some m then reqDrop d m
  else
    let c := chainGet d n
    let p := posOf v 8
    let t := posDist 8 (c.tailNext.getD c.tail) p
    if 8 ≤ fld v 15 0 ∨ fld v 35 17 ≠ 0 ∨ t = 0 ∨ 8 < t ∨ 8 < posDist 8 c.head p then d
    else chainSet d n { c with tailNext := some p }

/-! ### Checks (R249, R257) -/

/-- FWI that the ATS of an identity announces; without TB(1) it is 4. -/
def identFwi (o : Octets) : Nat :=
  let t0 := (octAt o 12).toNat
  if 2 ≤ (octAt o 11).toNat ∧ t0.testBit 5 then (octAt o (13 + b2n (t0.testBit 4))).toNat / 16 else 4

/-- Length of a UID that EMU_ARM may give, and its ATS rules. -/
def identOk (o : Octets) : Bool :=
  let ul := (octAt o 3).toNat
  let tl := (octAt o 11).toNat
  let t0 := (octAt o 12).toNat
  let tc := t0.testBit 6
  let iTc := 13 + b2n (t0.testBit 4) + b2n (t0.testBit 5)
  let fwi := identFwi o
  (decide (ul = 4) || decide (ul = 7)) && allZero (slice o (4 + ul) (7 - ul)) && decide (1 ≤ tl) && decide (tl ≤ 20) && decide (o.length = 11 + tl) &&
    decide (2 ≤ fwi) && decide (fwi ≤ 14) && (decide (tl < 2) || !tc || decide ((octAt o iTc).toNat % 4 = 0))

/-- The first condition an entry fails, in the order of R12. -/
def entryFail (d : Dev) (n pos : Nat) : Option Fail :=
  let c := chainGet d n
  let w := hdrW d n pos 0
  let k := entKind w
  let l := entTxLen w
  firstFail
    [ failIf (decide (k = 0) || decide (6 < k) || (decide (k ≤ 3) && c.emu) || (decide (4 ≤ k) && !c.emu)) St.badDesc 0x01,
      failIf (decide (fld w 35 34 ≠ 0) || decide (fld (hdrW d n pos 1) 35 8 ≠ 0) || (decide (k ≠ 2) && decide (fld (hdrW d n pos 1) 7 0 ≠ 0)) ||
        decide (hdrW d n pos 2 ≠ 0) || decide (hdrW d n pos 3 ≠ 0) || decide (hdrW d n pos 7 ≠ 0)) St.badDesc 0,
      failIf (decide (k = 3) && decide (fld w 15 12 = 15)) St.badDesc 0,
      failIf ((decide (k = 1) || decide (k = 2)) && decide (8 < fld w 30 27)) St.badDesc 0,
      failIf (decide (k = 2) && decide (4 < fld w 33 31)) St.badDesc 0,
      failIf (decide (k = 4) && !identOk (txData d n pos l)) St.badDesc 0x03,
      failIf ((decide (k = 1 ∨ k = 5) && decide (l ≠ 0)) || (decide (k = 2) && decide (64 < l)) ||
        (decide (k = 3 ∨ k = 6) && (decide (l = 0) || decide (256 < l)))) St.length 0x01 ]

/-! ### Admission and the end of an entry (R250, R251) -/

/-- The running entry: admitted, not ended, with the settle time over. -/
def running (c : Chain) : Option Nat := if c.endp ≠ c.adm ∧ c.settled ∧ c.port.isSome then some c.endp else none

/-- The entry at a position ends with its results; they are written at the next field edge. -/
def entryEnd (n st sub air : Nat) (rx : Octets) (d : Dev) : Dev :=
  let c := chainGet d n
  let d := if 2 ≤ air ∧ air ≤ 5 then rgAdd d (Reg.CHN_AIR_ERRORS + 16 * n) 1 else d
  chainSet d n
    { c with done := c.done ++ [⟨c.port.getD 0, c.grantAt, c.endp, st, sub, air, rx, c.wtx, d.pas.count⟩], endp := (c.endp + 1) % 16, wtx := 0, window := none,
             stale := c.stale.filter (fun p => decide (p ≠ c.endp)) }

/-- Admitted entries that cannot run end in turn: those that fail a check, and responses a replaced frame made void. -/
def skipBad : Nat → Nat → Dev → Dev
  | 0, _, d => d
  | f + 1, n, d =>
    let c := chainGet d n
    if c.endp = c.adm ∨ c.port.isNone then d
    else match entryFail d n c.endp with
    | some x => skipBad f n (entryEnd n x.1 x.2 0 [] d)
    | none => if c.endp ∈ c.stale ∧ entKind (hdrW d n c.endp 0) = 6 then skipBad f n (entryEnd n St.done 0 6 [] d) else d

/-- EMU_ARM admitted: its identity is in force from the next REQA or WUPA (R257). -/
def armIdentity (d : Dev) (n pos : Nat) : Dev :=
  let w := hdrW d n pos 0
  if entKind w = 4 ∧ (entryFail d n pos).isNone then
    let c := chainGet d n
    chainSet d n { c with armed := some (txData d n pos (entTxLen w)), emuState := if c.emuState = 0 then 1 else c.emuState }
  else d

/-- Step 7 of a field edge: doorbells become visible and entries are admitted within CHN_FRAME_BUDGET. -/
def admitEntries (n : Nat) (d : Dev) : Dev :=
  let c := chainGet d n
  if c.port.isNone then d
  else
    let tail := c.tailNext.getD c.tail
    let ps := (entriesTo 16 c.adm tail).take (rn d (Reg.CHN_FRAME_BUDGET + 16 * n))
    let d := chainSet d n { c with tail := tail, tailNext := none, adm := (c.adm + ps.length) % 16 }
    skipBad 8 n (ps.foldl (fun d p => armIdentity d n p) d)

/-- Words 4 to 6 and the RX data of an entry that has ended. -/
def writeRes (n : Nat) (d : Dev) (r : FrameRes) : Dev :=
  let d := rgSet d (hdrReg n r.pos 4) (pack [(0, r.st), (8, r.sub), (16, r.air), (19, r.rx.length)])
  let d := rgSet d (hdrReg n r.pos 5) (wd (min 255 r.wtx))
  let d := rgSet d (hdrReg n r.pos 6) (wd (r.pass % 2 ^ 36))
  (quadPack r.rx).zipIdx.foldl (fun d x => rgSet d (dataReg n r.pos (64 + x.2)) x.1) d

/-- ENTRY_COMPLETION: at step 8 of a field edge the results of the entries that ended before it are written, CHN_FQ_HEAD advances past them,
and they are presented to the core that owns the port. The memory of a chain granted again in between is left to its new grant. -/
def entryCompletion (n : Nat) (d : Dev) : Dev :=
  let c := chainGet d n
  let rs := c.done.filter (fun r => decide (r.pass < d.pas.count))
  let mine := rs.filter (fun r => decide (r.grant = c.grantAt))
  let d := mine.foldl (writeRes n) d
  let d := rs.foldl (fun d r =>
    pushInput d (0x20 + flightOwner d (r.port / 16)) 5 r.port (d.pas.count - 1) [n, r.pos % 8, r.st, r.sub, r.air]) d
  let c := chainGet d n
  let head := match mine.getLast? with | some r => (r.pos + 1) % 16 | none => c.head
  chainSet d n { c with done := c.done.filter (fun r => decide (d.pas.count ≤ r.pass)), head := head }

/-! ### Reader entries (R252 to R255) -/

/-- CRC-16 of ISO/IEC 14443-3 over octets, reflected polynomial 0x8408. -/
def crc16 (init : Nat) (o : Octets) : Nat :=
  o.foldl (fun c b => (List.range 8).foldl (fun c _ => if c % 2 = 1 then (c / 2) ^^^ 0x8408 else c / 2) (c ^^^ b.toNat)) init

/-- CRC_A or CRC_B of a frame, two octets. -/
def frameCrc (typeB : Bool) (o : Octets) : Octets := leOct 2 (if typeB then crc16 0xFFFF o ^^^ 0xFFFF else crc16 0x6363 o)

/-- The frame without its CRC, if the CRC is right. -/
def stripCrc (typeB : Bool) (o : Octets) : Option Octets :=
  let b := o.take (o.length - 2)
  if 2 ≤ o.length ∧ octEq (frameCrc typeB b) (o.drop (o.length - 2)) then some b else none

/-- A frame leaves the chain: its bits and octets. -/
def airSend (n : Nat) (f : Nat × Octets) (d : Dev) : Dev :=
  let c := chainGet d n
  rgAdd (chainSet d n { c with sent := c.sent ++ [f] }) (Reg.CHN_AIR_FRAMES + 16 * n) 1

/-- A standard frame of whole octets with its CRC. -/
def stdFrame (typeB : Bool) (o : Octets) : Nat × Octets := let f := o ++ frameCrc typeB o; (8 * f.length, f)

/-- NEW_RATES: the chain moves to the entry's rates. -/
def newRates (n : Nat) (w : Word) (d : Dev) : Dev :=
  if entNewRates w then chainSet d n { chainGet d n with txRate := fld w 9 8, rxRate := fld w 11 10 } else d

/-- The running entry of a kind: its position and header word. -/
def runningKind (d : Dev) (n k : Nat) : Option (Nat × Word) :=
  match running (chainGet d n) with
  | some p => if entKind (hdrW d n p 0) = k then some (p, hdrW d n p 0) else none
  | none => none

/-! ### Waiting times (R254, R255, R260) -/

/-- Carrier cycles in a pass: 13.56 MHz for 50 µs. -/
abbrev passCycles : Nat := 678

/-- FWT of a frame waiting integer, and ΔFWT, in carrier cycles. -/
def fwtOf (fwi : Nat) : Nat := 4096 * 2 ^ fwi
abbrev deltaFwt : Nat := 49152

/-- Carrier cycles that a frame of n octets takes: 9 elementary time units an octet, 10 for Type B (log entry 84). -/
def frameTime (typeB : Bool) (rate n : Nat) : Nat := (if typeB then 10 else 9) * n * 128 / 2 ^ rate

/-- Pass in which a wait of so many cycles, begun in this pass, ends. -/
def passAfter (d : Dev) (cycles : Nat) : Nat := d.pas.count + ceilDiv cycles passCycles

/-- The exchange that runs sends its frame: TX data, with the CRC when CRC is set; its receive window is open until the pass named. With NO_RESP
that is the pass in which the frame has left. -/
def startExchange (n : Nat) (d : Dev) : Dev :=
  let c := chainGet d n
  match runningKind d n 3 with
  | some (p, w) =>
    if c.window.isSome then d
    else
      let o := txData d n p (entTxLen w)
      let f := if entCrc w then stdFrame c.typeB o else (8 * o.length, o)
      let t := frameTime c.typeB c.txRate f.2.length + (if entNoResp w then 0 else fwtOf (fld w 15 12) + deltaFwt)
      let d := airSend n f d
      chainSet d n { chainGet d n with window := some (passAfter d t) }
  | none => d

/-- An entry ends on the air; the ones behind it that cannot run end too, and an exchange behind it starts. -/
def airEnd (n air : Nat) (rx : Octets) (d : Dev) : Dev := startExchange n (skipBad 8 n (entryEnd n St.done 0 air rx d))

/-! ### Activation (R252, R253) -/

/-- An activation under way: frames sent, and answers still to come. -/
structure Talk where
  tx : List (Nat × Octets) := []
  ans : List AirAns := []
  deriving DecidableEq, Repr

/-- A frame is sent, and the next answer received; after the last, none. -/
def Talk.ask (t : Talk) (f : Nat × Octets) : AirAns × Talk :=
  match t.ans with
  | [] => ({ air := 1 }, { t with tx := t.tx ++ [f] })
  | a :: r => (a, { tx := t.tx ++ [f], ans := r })

/-- The octets of a standard frame received, or the AIR_RESULT that stands for what was. -/
def ansBody (typeB : Bool) (a : AirAns) : Sum Nat Octets :=
  if a.air ≠ 0 then .inl a.air
  else if a.coll.isSome then .inl 4
  else match stripCrc typeB a.data with
  | none => .inl 2
  | some b => .inr b

/-- A card that anticollision has found at one cascade level: its five octets, and whether answers collided. -/
abbrev Found := Octets × Bool

/-- Anticollision at the cascade level with a SEL code: `known` bits of `v` are settled, the least significant first. At each collision the branch
with bit value 1 is taken (R252). A check octet that is wrong is a FRAME_ERROR (log entry 84). -/
def anticollide (sel : Nat) : Nat → Nat → Nat → Bool → Talk → Sum Nat Found × Talk
  | 0, _, _, _, t => (.inl 5, t)
  | f + 1, known, v, coll, t =>
    let r := t.ask (16 + known, leOct 1 sel ++ leOct 1 ((2 + known / 8) * 16 + known % 8) ++ leOct (ceilDiv known 8) (v % 2 ^ known))
    let a := r.1
    if a.air ≠ 0 then (.inl a.air, r.2)
    else if a.data.length ≠ 5 then (.inl 5, r.2)
    else
      let w := v % 2 ^ known + leNat a.data / 2 ^ known * 2 ^ known
      match a.coll with
      | some b =>
        if b < known ∨ 40 ≤ b then (.inl 5, r.2) else anticollide sel f (b + 1) (w % 2 ^ b + 2 ^ b) true r.2
      | none =>
        let o := leOct 5 w
        if octAt o 0 ^^^ octAt o 1 ^^^ octAt o 2 ^^^ octAt o 3 ≠ octAt o 4 then (.inl 5, r.2) else (.inr (o, coll), r.2)

/-- A card selected: its UID, SAK, and whether answers collided. -/
structure Picked where
  uid : Octets
  sak : Nat
  coll : Bool
  deriving DecidableEq, Repr

/-- Anticollision and SELECT through the cascade levels from `level` on. A UID part with the cascade tag goes on at the next level. -/
def cascade : Nat → Nat → Octets → Bool → Talk → Sum Nat Picked × Talk
  | 0, _, _, _, t => (.inl 5, t)
  | f + 1, level, uid, coll, t =>
    let sel := 0x93 + 2 * level
    let r := anticollide sel 41 0 0 coll t
    match r.1 with
    | .inl e => (.inl e, r.2)
    | .inr (o, coll) =>
      let q := r.2.ask (stdFrame false (leOct 1 sel ++ [0x70] ++ o))
      match ansBody false q.1 with
      | .inl e => (.inl e, q.2)
      | .inr b =>
        let sak := (octAt b 0).toNat
        if b.length ≠ 1 then (.inl 5, q.2)
        else if sak.testBit 2 then
          (if octAt o 0 ≠ 0x88 then (.inl 5, q.2) else cascade f (level + 1) (uid ++ slice o 1 3) coll q.2)
        else (.inr ⟨uid ++ o.take 4, sak, coll⟩, q.2)

/-- The activation of ACTIVATE_A: the RX data, or the AIR_RESULT it ends with. -/
def talkA (w : Word) (t : Talk) : Sum Nat Octets × Talk :=
  let r := t.ask (7, if bit w 25 then [0x52] else [0x26])
  if r.1.air ≠ 0 then (.inl r.1.air, r.2)
  else if r.1.data.length ≠ 2 then (.inl 5, r.2)
  else
    let p := cascade 3 0 [] r.1.coll.isSome r.2
    match p.1 with
    | .inl e => (.inl e, p.2)
    | .inr k =>
      let rx := fun (ats : Octets) =>
        r.1.data ++ leOct 1 k.sak ++ leOct 1 k.uid.length ++ fitTo 10 k.uid ++ leOct 1 (b2n k.coll) ++ zeros 1 ++ ats
      if entRats w ∧ k.sak.testBit 5 then
        let q := p.2.ask (stdFrame false (leOct 1 0xE0 ++ leOct 1 (fld w 30 27 * 16)))
        match ansBody false q.1 with
        | .inl e => (.inl e, q.2)
        | .inr ats => if ats.length ≠ (octAt ats 0).toNat ∨ 240 < ats.length ∨ ats = [] then (.inl 5, q.2) else (.inr (rx ats), q.2)
      else (.inr (rx []), p.2)

/-- The frames of an activation leave the chain, at 106 kbit/s, and the entry ends. -/
def activated (n : Nat) (typeB : Bool) (w : Word) (r : Sum Nat Octets × Talk) (d : Dev) : Dev :=
  let d := r.2.tx.foldl (fun d f => airSend n f d) (chainSet d n { chainGet d n with txRate := 0, rxRate := 0, typeB := typeB })
  match r.1 with
  | .inl e => airEnd n e [] d
  | .inr rx => airEnd n 0 rx (newRates n w d)

/-- ACTIVATE_A: REQA or WUPA, anticollision and SELECT through the cascade levels, and RATS, with the answers received in turn. -/
def activateA (n : Nat) (answers : List AirAns) (d : Dev) : Dev :=
  match runningKind d n 1 with
  | none => d
  | some (_, w) => activated n false w (talkA w { ans := answers }) d

/-- REQB or WUPB in slot 0, Slot-MARKERs in the others, up to the first ATQB received without error; `err` is the AIR_RESULT so far. -/
def slotsB (afi param : Nat) : List Nat → Nat → Bool → Talk → Sum Nat Found × Talk
  | [], err, _, t => (.inl err, t)
  | k :: r, err, coll, t =>
    let q := t.ask (stdFrame true (if k = 0 then leOct 1 5 ++ leOct 1 afi ++ leOct 1 param else leOct 1 (16 * k + 5)))
    match ansBody true q.1 with
    | .inl 1 => slotsB afi param r err coll q.2
    | .inl e => slotsB afi param r (if err = 1 then e else err) true q.2
    | .inr b =>
      if (b.length = 12 ∨ b.length = 13) ∧ octAt b 0 = 0x50 then (.inr (b, coll), q.2)
      else slotsB afi param r (if err = 1 then 5 else err) true q.2

/-- The activation of ACTIVATE_B (R253): the RX data, or the AIR_RESULT it ends with. -/
def talkB (w : Word) (afi : Nat) (inf : Octets) (t : Talk) : Sum Nat Octets × Talk :=
  let r := slotsB afi (fld w 33 31 + 8 * b2n (bit w 25)) (List.range (2 ^ fld w 33 31)) 1 false t
  match r.1 with
  | .inl e => (.inl e, r.2)
  | .inr (q, coll) =>
    let p2 := fld w 11 10 * 64 + fld w 9 8 * 16 + fld w 30 27
    let a := r.2.ask (stdFrame true ([0x1D] ++ slice q 1 4 ++ leOct 1 0 ++ leOct 1 p2 ++ leOct 1 ((octAt q 10).toNat % 16) ++ leOct 1 0 ++ inf))
    match ansBody true a.1 with
    | .inl e => (.inl e, a.2)
    | .inr b =>
      if 240 < b.length then (.inl 5, a.2)
      else (.inr (leOct 1 q.length ++ fitTo 13 q ++ leOct 1 (b2n coll) ++ zeros 1 ++ b), a.2)

/-- ACTIVATE_B: REQB or WUPB, Slot-MARKERs and ATTRIB, with the answers received in turn. -/
def activateB (n : Nat) (answers : List AirAns) (d : Dev) : Dev :=
  match runningKind d n 2 with
  | none => d
  | some (p, w) => activated n true w (talkB w (fld (hdrW d n p 1) 7 0) (txData d n p (entTxLen w)) { ans := answers }) d

/-! ### Exchange (R254, R255) -/

/-- R255: a correct S(WTX) request: PCB bits 7:4 all ones and one INF octet. -/
def isWtx (b : Octets) : Bool := decide (b.length = 2) && decide ((octAt b 0).toNat / 16 = 15)

/-- R255: with WTX_AUTO the chain answers an S(WTX) request with the same PCB and INF and reopens its window; a WTXM of 0 or above 59 ends the entry
with FRAME_ERROR. -/
def wtxAnswer (n pcb inf : Nat) (w : Word) (d : Dev) : Dev :=
  let m := inf % 64
  if m = 0 ∨ 59 < m then airEnd n 5 [] d
  else
    let d := airSend n (stdFrame (chainGet d n).typeB (leOct 1 pcb ++ leOct 1 inf)) d
    let c := chainGet d n
    let t := frameTime c.typeB c.txRate 4 + min (fwtOf (fld w 15 12) * m) (fwtOf 14) + deltaFwt
    rgAdd (chainSet d n { c with wtx := min 255 (c.wtx + 1), window := some (passAfter d t) }) (Reg.CHN_WTX_COUNT + 16 * n) 1

/-- WTX_REQUEST_RECEIVED: an S(WTX) request with PCB 0xF2 and an INF octet, in an entry with WTX_AUTO. -/
def wtxRequest (n inf : Nat) (d : Dev) : Dev :=
  match runningKind d n 3 with
  | none => d
  | some (_, w) => if entWtxAuto w ∧ ¬ entNoResp w then wtxAnswer n 0xF2 inf w (startExchange n d) else d

/-- EXCHANGE: what the air gives in answer to the frame sent: 0 a frame with its CRC, 1 none, 3 or 5 an error. No answer ends the entry only once
its receive window has closed. -/
def exchange (n air : Nat) (frame : Octets) (d : Dev) : Dev :=
  match runningKind d n 3 with
  | none => d
  | some (_, w) =>
    let d := startExchange n d
    let c := chainGet d n
    if entNoResp w then airEnd n 0 [] (newRates n w d)
    else if air = 1 then (if c.window.getD 0 ≤ d.pas.count + 1 then airEnd n 1 [] d else d)
    else if air ≠ 0 then airEnd n air [] d
    else
      let whole := stripCrc c.typeB frame
      match (if entWtxAuto w then whole.filter isWtx else none) with
      | some b => wtxAnswer n (octAt b 0).toNat (octAt b 1).toNat w d
      | none =>
        if entCrc w then
          match whole with
          | none => airEnd n 2 [] d
          | some b => if 256 < b.length then airEnd n 5 [] d else airEnd n 0 b (newRates n w d)
        else if 256 < frame.length then airEnd n 5 [] d else airEnd n 0 frame (newRates n w d)

/-- At an edge an exchange whose receive window has closed ends with NO_RESPONSE; with NO_RESP, one whose frame has left ends with OK. -/
def windowEdge (n : Nat) (d : Dev) : Dev :=
  match runningKind d n 3, (chainGet d n).window with
  | some (_, w), some t =>
    if d.pas.count < t then d else if entNoResp w then airEnd n 0 [] (newRates n w d) else airEnd n 1 [] d
  | _, _ => startExchange n d

/-! ### Card emulation (R257 to R261) -/

/-- Cascade levels of an identity's UID: 1 or 2. -/
def identLevels (o : Octets) : Nat := if (octAt o 3).toNat = 4 then 1 else 2

/-- The UID part of a cascade level, with the cascade tag where another follows, and its check octet. -/
def identPart (o : Octets) (level : Nat) : Octets :=
  let u := if level + 1 < identLevels o then [0x88] ++ slice o 4 3 else slice o (if level = 0 then 4 else 7) 4
  u ++ [octAt u 0 ^^^ octAt u 1 ^^^ octAt u 2 ^^^ octAt u 3]

/-- SAK of a cascade level. -/
def identSak (o : Octets) (level : Nat) : Octet := if level + 1 < identLevels o then 0x04 else octAt o 2

def identAts (o : Octets) : Octets := slice o 11 (octAt o 11).toNat

/-- FSD of an FSDI. -/
def fsdOf (i : Nat) : Nat := [16, 24, 32, 40, 48, 64, 96, 128, 256].getD i 256

/-- The emulated card falls back to IDLE, or to HALT if it was woken from there. -/
def cardBack (n : Nat) (d : Dev) : Dev :=
  let c := chainGet d n
  chainSet d n { c with card := if 8 ≤ c.card ∨ c.card = 4 then 4 else 0 }

def cardSet (n k : Nat) (d : Dev) : Dev := let c := chainGet d n; chainSet d n { c with card := c.card / 8 * 8 + k }

/-- The answer to an anticollision or SELECT frame at a cascade level. -/
def cardSelect (n level : Nat) (o f : Octets) (d : Dev) : Dev :=
  let nvb := (octAt f 1).toNat
  let part := identPart o level
  let known := (nvb / 16 - 2) * 8 + nvb % 16
  if nvb = 0x70 then
    (if stripCrc false f = some (f.take 7) ∧ slice f 2 5 = part then
      cardSet n (if level + 1 < identLevels o then 2 else 3) (airSend n (stdFrame false [identSak o level]) d)
    else cardBack n d)
  else if 0x20 ≤ nvb ∧ known < 40 ∧ nvb % 16 < 8 then
    (if leNat (f.drop 2) % 2 ^ known = leNat part % 2 ^ known then
      airSend n (40 - known, leOct (ceilDiv (40 - known) 8) (leNat part / 2 ^ known)) d
    else d)
  else cardBack n d

/-- The ATS is sent: the EMU_ARM entry that runs ends with the two RATS octets, and the reader's frame size limit is known. -/
def cardRats (n : Nat) (o f : Octets) (d : Dev) : Dev :=
  match runningKind d n 4 with
  | none => d
  | some (_, w) =>
    let d := airSend n (stdFrame false (identAts o)) d
    let c := chainGet d n
    airEnd n 0 (fitTo 2 f) (newRates n w (chainSet d n
      { c with emuState := 3, held := none, timer := none, txRate := 0, rxRate := 0, fsd := fsdOf ((octAt f 1).toNat / 16) }))

/-- A reader's frame before the ATS: the chain answers layer 3 and RATS itself (R257). -/
def layer3 (n : Nat) (f : Octets) (d : Dev) : Dev :=
  let c := chainGet d n
  let k := c.card % 8
  if f = [0x26] ∨ f = [0x52] then
    (if (k = 0 ∨ k = 4 ∧ f = [0x52]) ∧ c.armed.isSome then
      let o := c.armed.getD []
      airSend n (16, o.take 2) (chainSet d n { c with ident := some o, card := (if k = 4 then 8 else c.card / 8 * 8) + 1 })
    else cardBack n d)
  else match c.ident with
  | none => d
  | some o =>
    if (k = 1 ∨ k = 2) ∧ octAt f 0 = BitVec.ofNat 8 (0x91 + 2 * k) then cardSelect n (k - 1) o f d
    else if k = 3 then
      (match stripCrc false f with
       | some b =>
         if b = [0x50, 0x00] then chainSet d n { c with card := 4 }
         else if b.length = 2 ∧ octAt b 0 = 0xE0 then cardRats n o b d
         else cardBack n d
       | none => cardBack n d)
    else if k = 0 ∨ k = 4 then d
    else cardBack n d

/-- The chain sends an S(WTX) request. -/
def sendWtx (n : Nat) (d : Dev) : Dev :=
  let m := fld (rg d (Reg.CHN_EMU_CTL + 16 * n)) 12 7
  let d := airSend n (stdFrame false [0xF2, BitVec.ofNat 8 m]) d
  rgAdd (chainSet d n { chainGet d n with emuState := 4, timer := none }) (Reg.CHN_WTX_COUNT + 16 * n) 1

/-- The timer of R260 runs for WTX_AT percent of so many FWT of the ATS. -/
def wtxTimer (d : Dev) (n times : Nat) : Option Nat :=
  some (d.pas.count + fld (rg d (Reg.CHN_EMU_CTL + 16 * n)) 6 0 * fwtOf (identFwi ((chainGet d n).ident.getD [])) * times / 100 / passCycles)

/-- A correct frame after activation. It is held, replaces a held one and makes responses not yet sent void; while an S(WTX) request is outstanding
its response restarts the timer, and an R(NAK) has the request sent again (R258, R260). -/
def cardFrame (n : Nat) (b : Octets) (d : Dev) : Dev :=
  let c := chainGet d n
  let pcb := (octAt b 0).toNat
  if c.emuState = 4 ∧ pcb / 16 = 15 then
    chainSet d n { c with emuState := 3, timer := wtxTimer d n (fld (rg d (Reg.CHN_EMU_CTL + 16 * n)) 12 7) }
  else if c.emuState = 4 ∧ (pcb &&& 0xF6 = 0xB2) then sendWtx n d
  else
    let void := if c.held.isSome then (entriesTo 16 c.endp (c.tailNext.getD c.tail)).filter (fun p => decide (entKind (hdrW d n p 0) = 6)) else []
    skipBad 8 n (chainSet d n { c with held := some (b.take 256), emuState := 3, stale := c.stale ++ void, timer := wtxTimer d n 1 })

/-- READER_FRAME_RECEIVED: a frame as the reader sends it, CRC included, its parity found right or wrong. A bad one is ignored. The first one
tells the chain that a field is there. -/
def readerFrame (n : Nat) (parity : Bool) (frame : Octets) (d : Dev) : Dev :=
  let c := chainGet d n
  if ¬ parity ∨ ¬ c.emu ∨ c.emuState = 0 ∨ ¬ c.settled ∨ c.port.isNone then d
  else if c.emuState ≤ 2 then layer3 n frame (chainSet d n { c with field := true, emuState := 2 })
  else match stripCrc false frame with
  | some b => cardFrame n b d
  | none => d

/-- The frames with which a reader activates an identity: WUPA, anticollision and SELECT at each cascade level, and RATS. -/
def activation (o rats : Octets) : List Octets :=
  [0x52] :: (List.range (identLevels o)).flatMap (fun l =>
    let sel : Octet := BitVec.ofNat 8 (0x93 + 2 * l)
    [[sel, 0x20], (stdFrame false ([sel, 0x70] ++ identPart o l)).2]) ++ [(stdFrame false (fitTo 2 rats)).2]

/-- EMU_ARM: a reader activates the chain up to its ATS; the entry ends with the two RATS octets. The reader begins anew, whatever it began
before (log entry 84). -/
def emuArm (n : Nat) (rats : Octets) (d : Dev) : Dev :=
  match runningKind d n 4 with
  | none => d
  | some _ =>
    let c := chainGet d n
    let frames := activation (c.armed.getD []) ([0xE0] ++ rats.drop 1)
    frames.foldl (fun d f => layer3 n f d) (chainSet d n { c with field := true, emuState := 2, card := 0 })

/-- EMU_RECEIVE: the entry ends with the held frame; it waits while none is held. -/
def emuReceive (n : Nat) (d : Dev) : Dev :=
  match runningKind d n 5, (chainGet d n).held with
  | some (_, w), some f => airEnd n 0 f (newRates n w d)
  | _, _ => d

/-- EMU_RESPOND: the response to the held frame is sent, with CRC_A where the header asks for it (Table 10.2; log entry 104), after the reader's answer to an outstanding S(WTX); with no held frame the entry ends
with NOT_SENT, and so does one too long for the reader (log entry 84). -/
def emuRespond (n : Nat) (d : Dev) : Dev :=
  match runningKind d n 6 with
  | none => d
  | some (p, w) =>
    let c := chainGet d n
    match c.held with
    | none => airEnd n 6 [] d
    | some f =>
      if c.emuState = 4 then d
      else if c.fsd < entTxLen w + 2 * b2n (entCrc w) then airEnd n 6 [] d
      else
        let desel := decide ((octAt f 0).toNat &&& 0xF7 = 0xC2)
        let data := txData d n p (entTxLen w)
        let d := airSend n (if entCrc w then stdFrame false data else (8 * data.length, data)) d
        airEnd n 0 [] (newRates n w (chainSet d n { chainGet d n with held := none, timer := none, emuState := if desel then 2 else 3,
                                                                      card := if desel then 4 else c.card }))

/-- EMU_WTX_TIMER: WTX_AT percent of the waiting time has passed with a frame held and no response sent. -/
def emuWtxTimer (n : Nat) (d : Dev) : Dev :=
  let c := chainGet d n
  if c.held.isSome ∧ c.emuState = 3 ∧ c.timer.any (fun t => decide (t ≤ d.pas.count)) then sendWtx n d else d

/-- At an edge a timer that has expired in any case has its S(WTX) request sent. -/
def timerEdge (n : Nat) (d : Dev) : Dev :=
  match (chainGet d n).timer with
  | some t => if t + 2 ≤ d.pas.count then emuWtxTimer n d else d
  | none => d

/-- EMU_FIELD_LOST: the external field has been absent for 100 µs: every running and queued entry ends with FIELD_LOST. -/
def emuFieldLost (n : Nat) (d : Dev) : Dev :=
  let c := chainGet d n
  if ¬ c.emu ∨ c.port.isNone then d
  else chainSet d n { cutEntries c St.done 0 7 d.pas.count with emuState := 1, field := false, held := none, timer := none, armed := none, ident := none,
                                                                card := 0, stale := [] }

/-- What the air of a chain does at a field edge. -/
def airEdge (n : Nat) (d : Dev) : Dev := timerEdge n (windowEdge n d)

/-- CHN_EMU_STATUS. -/
def emuStatusWord (d : Dev) (n : Nat) : Word :=
  let c := chainGet d n
  if c.emu then pack [(0, c.emuState), (3, b2n c.field), (4, c.txRate), (6, c.rxRate)] else 0

/-- A write to CHN_EMU_CTL: dropped with a field out of range. -/
def emuCtlWrite (n : Nat) (v : Word) (d : Dev) : Dev :=
  let at_ := fld v 6 0
  let m := fld v 12 7
  if at_ < 50 ∨ 90 < at_ ∨ m = 0 ∨ 59 < m then d else rgSet d (Reg.CHN_EMU_CTL + 16 * n) (wd (v.toNat % 2 ^ 13))

end Sys2Proof.Machine
end

