-- ==== Sys2Proof/Machine/Tag.lean ====
section
/-! DEFINITION. The tag core and tag memory (chapter 10): sessions, commands from the air, the two-copy procedures, the challenge store, and
the wired side. -/

namespace Sys2Proof.Machine

def onTag (d : Dev) (f : TagCore → TagCore) : Dev := { d with tag := f d.tag }

/-! ### Tag memory (R269 to R274) -/

/-- R269: the check code over a copy's value, 16 octets of a block or 4 of a counter, and its sequence number. -/
def tagCheck (i val seq : Nat) : Nat := crc32 (leOct (if i < 128 then 16 else 4) val ++ leOct 2 seq)

/-- A copy with its check code. -/
def tagSealed (i val seq : Nat) : TagCopy := { val := val, seq := seq, check := tagCheck i val seq }

/-- A copy is valid when its check code matches. -/
def tagValid (i : Nat) (x : TagCopy) : Bool := decide (x.check = tagCheck i x.val x.seq)

/-- A wrong check code: any but the right one, by a free value. -/
def tagWrong (i val seq free : Nat) : TagCopy :=
  let c := tagCheck i val seq
  { val := val, seq := seq, check := if free = c then (c + 1) % 2 ^ 32 else free }

def tagCopy (d : Dev) (i c : Nat) : TagCopy := tabGet (tagSealed i 0 0) d.tag.mem (2 * i + c)
def tagCopySet (d : Dev) (i c : Nat) (x : TagCopy) : Dev := onTag d (fun t => { t with mem := tabSet (tagSealed i 0 0) t.mem (2 * i + c) x })

/-- Is a sequence number one more than another, modulo 65,536? -/
def seqAfter (a b : Nat) : Bool := decide (a = (b + 1) % 65536)

/-- The current copy of an index: 0 or 1; none when neither is valid. -/
def tagCurrent (d : Dev) (i : Nat) : Option Nat :=
  let a := tagCopy d i 0
  let b := tagCopy d i 1
  let va := tagValid i a
  let vb := tagValid i b
  if ¬ va ∧ ¬ vb then none
  else if ¬ vb then some 0
  else if ¬ va then some 1
  else if 128 ≤ i ∧ a.val ≠ b.val then (if a.val < b.val then some 1 else some 0)
  else if seqAfter b.seq a.seq then some 1
  else some 0

/-- The value an index reads as. -/
def tagValue (d : Dev) (i : Nat) : Option Nat := (tagCurrent d i).map (fun c => (tagCopy d i c).val)

/-- A new value written to the older copy. `verify`: 0 the read-back agrees, 1 it agrees after one rewrite, 2 it differs twice and the copy is left
with a wrong check code. Does the write stand? -/
def tagWrite (d : Dev) (i v verify : Nat) : Dev × Bool :=
  match tagCurrent d i with
  | none => (d, false)
  | some c =>
    let seq := ((tagCopy d i c).seq + 1) % 65536
    if verify < 2 then (tagCopySet d i (1 - c) (tagSealed i v seq), true)
    else let u := drawOct d 4; (tagCopySet u.2 i (1 - c) (tagWrong i v seq (leNat u.1)), false)

/-- A write cut short: the older copy is unchanged (0), torn (1) or complete (2). What a torn one holds is free, its check code wrong. -/
def tagCut (d : Dev) (i v how : Nat) : Dev :=
  match tagCurrent d i with
  | none => d
  | some c =>
    if how = 0 then d
    else if how = 1 then
      let u := drawOct d 22
      tagCopySet u.2 i (1 - c) (tagWrong i (leAt u.1 0 (if i < 128 then 16 else 4)) (leAt u.1 16 2) (leAt u.1 18 4))
    else tagCopySet d i (1 - c) (tagSealed i v (((tagCopy d i c).seq + 1) % 65536))

/-- The largest counter value. -/
abbrev ctrMax : Nat := 0xFFFFFFFF

/-! ### Configuration -/

def tagW (d : Dev) (b : Nat) : Bool := bit (rg d (Reg.TAG_WRIGHTS + b / 32)) (b % 32)
def tagC (d : Dev) (c : Nat) : Bool := bit (rg d Reg.TAG_CRIGHTS) c
def tagAuthOn (d : Dev) : Bool := bit (rg d Reg.TAG_AUTH_SLOT) 14
def tagSlot (d : Dev) : Nat := fld (rg d Reg.TAG_AUTH_SLOT) 13 0

/-! ### Sessions (R262) -/

/-- Is the field island powered, for the tag core? -/
def fieldPowered (d : Dev) : Bool := d.fld.supplyOk && d.lkg.fieldUp

/-- The ATS of the tag core: FSCI 5, 106 kbit/s only, FWI 7, no CID and no NAD (R263). -/
abbrev tagAts : Octets := [0x05, 0x75, 0x00, 0x70, 0x00]

/-- A frame of the tag core with its CRC. -/
def tagFrame (o : Octets) : Octets := (stdFrame false o).2

/-- The tag core's answers to REQA, to anticollision and SELECT at both cascade levels, and to RATS (R263). -/
def tagActivation (uid : Octets) : List Octets :=
  let part := fun (u : Octets) => u ++ [octAt u 0 ^^^ octAt u 1 ^^^ octAt u 2 ^^^ octAt u 3]
  [[0x44, 0x00], part (0x88 :: fitTo 3 uid), tagFrame [0x04], part (slice uid 3 4), tagFrame [0x20], tagFrame tagAts]

/-- TAG_SESSION_START: a field on a passive-tag port whose tag path is closed activates the tag core and opens a session, if none is open. The reader's
RATS carries an FSDI. -/
def tagStart (p fsdi : Nat) (d : Dev) : Dev :=
  if p < 256 ∧ p % 16 = 0 ∧ d.tag.session.isNone ∧ ¬ granted d p then
    onTag d (fun t => { t with session := some p, selected := false, challenge := none, locks := [], wait := none, resp := [],
                               fsd := fsdOf fsdi, blk := false, air := tagActivation t.uid })
  else d

/-- TAG_SESSION_END: locks and the unused challenge are released. -/
def tagEnd (d : Dev) : Dev :=
  onTag d (fun t => { t with session := none, selected := false, challenge := none, locks := [], wait := none,
                             queue := t.queue.filter (fun a => a.core.isSome) })

/-- TAG_SESSION_END: by field loss (0), S(DESELECT) (1), which is answered, or HLTA (2). -/
def tagLeave (how : Nat) (d : Dev) : Dev :=
  if d.tag.session.isSome ∧ how = 1 then tagEnd (onTag d (fun t => { t with air := t.air ++ [tagFrame [0xC2]] })) else tagEnd d

/-- A grant of the session's port opens its tag path: the field is lost there (R220, R262). -/
def tagPaths (d : Dev) : Dev := match d.tag.session with | some p => if granted d p then tagEnd d else d | none => d

/-! ### Answers -/

/-- Octets cut into pieces of n. -/
def pieces (n : Nat) : Nat → Octets → List Octets
  | 0, _ => []
  | f + 1, o => if o.length ≤ n then [o] else o.take n :: pieces n f (o.drop n)

/-- A block of the tag core: its PCB with the block number, which alternates, and its INF. -/
def tagBlock (pcb : Nat) (inf : Octets) (d : Dev) : Dev :=
  onTag d (fun t => { t with blk := !t.blk, air := t.air ++ [tagFrame (leOct 1 (pcb + b2n t.blk) ++ inf)] })

/-- A response in I-blocks, chained where the reader's frame size asks for it. -/
def tagBlocks : List Octets → Dev → Dev
  | [], d => d
  | [o], d => tagBlock 0x02 o d
  | o :: r, d => tagBlocks r (tagBlock 0x12 o d)

/-- R(ACK)s to the blocks of a command that is chained: a block of 64 octets carries 61 of it (FSC 64). -/
def tagAcks (n : Nat) (d : Dev) : Dev := (List.range (ceilDiv n 61 - 1)).foldl (fun d _ => tagBlock 0xA2 [] d) d

/-- A response: data and status word. A command answered 0x9000 counts as completed. -/
def tagAnswer (d : Dev) (data : Octets) (sw : Nat) : Dev :=
  let o := data ++ beOct 2 sw
  let d := tagBlocks (pieces (d.tag.fsd - 3) o.length o) (onTag d (fun t => { t with resp := o }))
  if sw = 0x9000 then rgAdd d Reg.TAG_CL_OPS 1 else d

/-- The response of a read. -/
def tagReadAnswer (d : Dev) (i n : Nat) : Dev :=
  match tagValue d i with
  | some v => tagAnswer d (leOct n v) 0x9000
  | none => tagAnswer d [] 0x6581

/-! ### MAC commands (R266) -/

/-- A CRYPTO_REQUEST barge of the field end for MAC_VERIFY with CMAC, eight octets of tag. -/
def macRequest (slot : Nat) (msg mac : Octets) : Barge :=
  let ws := densePack (mac ++ msg)
  { toField := false, lane := 2, type := 0x05, core := 4, ref := 0,
    payload := fit15 (pack [(0, slot), (14, 3), (17, 6), (21, 8)] :: pack [(6, msg.length)] :: ws) }

/-- Commands that carry a MAC: READ_BLOCK with LOCK, WRITE_BLOCK, INC_COUNTER. -/
def carriesMac (o : Octets) : Bool := decide (octAt o 0 = 0x80 ∧ (octAt o 1 = 0xD6 ∨ octAt o 1 = 0xD8 ∨ (octAt o 1 = 0xB0 ∧ octAt o 2 = 0x80)))

/-- A command that carries a MAC, under the challenge it has consumed: it waits for the verdict. -/
def tagMac (d : Dev) (ch : Option Octets) (head data mac : Octets) (a : TagAccess) : Dev :=
  match ch with
  | none => tagAnswer d [] 0x6982
  | some c =>
    if ¬ fieldPowered d then tagAnswer d [] 0x6985
    else queueBarge (onTag d (fun t => { t with wait := some a })) 0 (macRequest (tagSlot d) (c ++ head ++ data) mac)

/-- A command APDU of the open session (Table 10.5): the checks of its row, the Needs of the row among them, in the order of log entry 32. One that
carries a MAC consumes the challenge whatever becomes of it (R266), and with TAG_AUTH_SLOT.ENABLE clear it is answered 0x6985 (Table 10.10). -/
def tagApdu (o : Octets) (d : Dev) : Dev :=
  let b := fun i => (octAt o i).toNat
  let ins := b 1
  let p1 := b 2
  let p2 := b 3
  let lc := b 4
  let data := slice o 5 lc
  let withData := fun (n : Nat) (le : Bool) => decide (lc = n) && decide (o.length = 5 + n + b2n le)
  let onlyLe := decide (o.length = 5)
  let head := o.take 4
  if d.tag.session.isNone ∨ d.tag.wait.isSome then d
  else
  let ch := d.tag.challenge
  let d := tagAcks o.length d
  let d := if carriesMac o then onTag d (fun t => { t with challenge := none }) else d
  let no := fun sw => tagAnswer d [] sw
  if carriesMac o ∧ ¬ tagAuthOn d then no 0x6985
  else if b 0 ≠ 0x80 ∧ ¬ (b 0 = 0 ∧ ins = 0xA4) then no (if b 0 = 0 then 0x6D00 else 0x6E00)
  else if b 0 = 0 then
    if p1 ≠ 4 ∨ p2 ≠ 0 then no 0x6A86
    else if ¬ (withData 6 false ∨ withData 6 true) then no 0x6700
    else if data ≠ [0xF0, 0x51, 0x54, 0x41, 0x47, 0x01] then no 0x6A86
    else tagAnswer (onTag d (fun t => { t with selected := true })) [1, 128, 16, BitVec.ofNat 8 (b2n (fieldPowered d) + 2 * b2n d.keep.hold)] 0x9000
  else if ins = 0xB0 then
    if (p1 ≠ 0 ∧ p1 ≠ 0x80) ∨ 128 ≤ p2 then no 0x6A86
    else if p1 = 0 then
      if ¬ onlyLe then no 0x6700
      else if ¬ d.tag.selected then no 0x6999
      else tagReadAnswer d p2 16
    else if ¬ withData 8 true then no 0x6700
    else if ¬ tagW d p2 then no 0x6986
    else if 16 ≤ d.tag.locks.length ∧ p2 ∉ d.tag.locks then no 0x6985
    else tagMac d ch head [] data { core := none, action := 1, idx := p2, lock := true }
  else if ins = 0xB2 then
    if p1 ≠ 0 ∨ 16 ≤ p2 then no 0x6A86
    else if ¬ onlyLe then no 0x6700
    else if ¬ d.tag.selected then no 0x6999
    else tagReadAnswer d (128 + p2) 4
  else if ins = 0x84 then
    if p1 ≠ 0 ∨ p2 ≠ 0 then no 0x6A86
    else if ¬ onlyLe then no 0x6700
    else if ¬ fieldPowered d then no 0x6985
    else match d.tag.store with
      | [] => no 0x6985
      | c :: r => tagAnswer (onTag d (fun t => { t with challenge := some c, store := r })) c 0x9000
  else if ins = 0xD6 then
    if p1 ≠ 0 ∨ 128 ≤ p2 then no 0x6A86
    else if ¬ (withData 24 false ∨ withData 24 true) then no 0x6700
    else if ¬ tagW d p2 then no 0x6986
    else tagMac d ch head (data.take 16) (data.drop 16) { core := none, action := 2, idx := p2, data := data.take 16 }
  else if ins = 0xD8 then
    if p1 ≠ 0 ∨ 16 ≤ p2 then no 0x6A86
    else if ¬ withData 9 true ∧ ¬ withData 9 false then no 0x6700
    else if ¬ tagC d p2 then no 0x6986
    else tagMac d ch head (data.take 1) (data.drop 1) { core := none, action := 4, idx := p2, amount := leNat (data.take 1) }
  else if ins = 0xE2 then
    if p1 ≠ 0 ∨ 128 ≤ p2 then no 0x6A86
    else if o.length ≠ 4 ∧ ¬ onlyLe then no 0x6700
    else if p2 ∉ d.tag.locks then no 0x6986
    else tagAnswer (onTag d (fun t => { t with locks := t.locks.filter (fun x => decide (x ≠ p2)) })) [] 0x9000
  else no 0x6D00

/-! The commands of Table 10.5 as APDUs. -/

def apdu (cla ins p1 p2 : Nat) (rest : Octets) : Octets := leOct 1 cla ++ leOct 1 ins ++ leOct 1 p1 ++ leOct 1 p2 ++ rest

/-- TAG_SELECT by application identifier. -/
def tagSelect (aid : Octets) (d : Dev) : Dev := tagApdu (apdu 0x00 0xA4 4 0 (leOct 1 aid.length ++ aid)) d

/-- TAG_READ_BLOCK. -/
def tagReadBlock (bb : Nat) (d : Dev) : Dev := tagApdu (apdu 0x80 0xB0 0 bb [16]) d

/-- TAG_READ_BLOCK_LOCK, with its MAC. -/
def tagReadLock (bb : Nat) (mac : Octets) (d : Dev) : Dev := tagApdu (apdu 0x80 0xB0 0x80 bb (leOct 1 mac.length ++ mac ++ [16])) d

/-- TAG_READ_COUNTER. -/
def tagReadCounter (cc : Nat) (d : Dev) : Dev := tagApdu (apdu 0x80 0xB2 0 cc [4]) d

/-- GET_CHALLENGE. -/
def tagGetChallenge (d : Dev) : Dev := tagApdu (apdu 0x80 0x84 0 0 [16]) d

/-- TAG_WRITE_BLOCK, new data and MAC. -/
def tagWriteBlock (bb : Nat) (data mac : Octets) (d : Dev) : Dev :=
  tagApdu (apdu 0x80 0xD6 0 bb (leOct 1 (data.length + mac.length) ++ data ++ mac)) d

/-- TAG_INC_COUNTER, amount and MAC. -/
def tagIncCounter (cc amount : Nat) (mac : Octets) (d : Dev) : Dev :=
  tagApdu (apdu 0x80 0xD8 0 cc (leOct 1 (1 + mac.length) ++ leOct 1 amount ++ mac ++ [4])) d

/-- TAG_RELEASE. -/
def tagRelease (bb : Nat) (d : Dev) : Dev := tagApdu (apdu 0x80 0xE2 0 bb []) d

/-- TAG_MAC_VERDICT: the answer to the tag core's request: DONE lets the command wait for the memory; DONE_UNTRUSTED fails its MAC. -/
def tagVerdict (st : Nat) (d : Dev) : Dev :=
  match d.tag.wait with
  | none => d
  | some a =>
    let d := onTag d (fun t => { t with wait := none })
    if st = St.done then onTag d (fun t => { t with queue := t.queue ++ [a] })
    else if st = St.untrusted then rgAdd (tagAnswer d [] 0x6982) Reg.TAG_CL_AUTH_FAILS 1
    else tagAnswer d [] 0x6985

/-! ### Accesses (R270 to R277) -/

/-- TAG_RESULT of a core, visible at the next edge. -/
def tagDone (d : Dev) (m st sub pass : Nat) : Dev := cmdDone d 0x24 m st sub 0 pass

/-- Data read by a wired command in a pass: for the core's TAG_DATA words, from the next edge. -/
def tagDataSet (d : Dev) (m pass : Nat) (ws : List Word) : Dev := onTag d (fun t => { t with dataDue := t.dataDue ++ [(m, pass, ws)] })

/-- A field edge: data read in earlier passes become visible (R275). -/
def tagDataEdge (d : Dev) : Dev :=
  let due := d.tag.dataDue.filter (fun e => decide (e.2.1 < d.pas.count))
  due.foldl (fun d e => e.2.2.zipIdx.foldl (fun d x => pvSet d e.1 (Reg.TAG_DATA + x.2) x.1) d)
    (onTag d (fun t => { t with dataDue := t.dataDue.filter (fun e => !decide (e.2.1 < d.pas.count)) }))

/-- One wired access. -/
def wiredRun (d : Dev) (m : Nat) (a : TagAccess) (verify pass : Nat) : Dev :=
  let tagDone := fun d m st sub => tagDone d m st sub pass
  let i := if a.action ≤ 2 then a.idx else 128 + a.idx
  if a.action = 1 ∨ a.action = 3 then
    match tagValue d i with
    | some v => tagDone (tagDataSet d m pass (if a.action = 1 then quadPack (leOct 16 v) else [wd v])) m St.done 0
    | none => tagDone d m St.integrity 0x20
  else if a.action = 2 ∧ a.idx ∈ d.tag.locks then tagDone d m St.blockBusy 0x01
  else match tagValue d i with
  | none => tagDone d m St.integrity 0x20
  | some v =>
    if a.action = 2 then
      let r := tagWrite d i (leNat a.data) verify
      if r.2 then tagDone r.1 m St.done 0 else tagDone r.1 m St.integrity 0x21
    else if a.amount = 0 then tagDone (tagDataSet d m pass [wd v]) m St.done 0
    else if v = ctrMax then tagDone d m St.writeProt 0x02
    else
      let r := tagWrite d i (min (v + a.amount) ctrMax) verify
      if r.2 then tagDone r.1 m St.done 0 else tagDone r.1 m St.integrity 0x21

/-- One access from the air. -/
def airRun (d : Dev) (a : TagAccess) (verify : Nat) : Dev :=
  let i := if a.action ≤ 2 then a.idx else 128 + a.idx
  if a.action = 1 then
    let d := if a.lock ∧ a.idx ∉ d.tag.locks then onTag d (fun t => { t with locks := t.locks ++ [a.idx] }) else d
    tagReadAnswer d i 16
  else match tagValue d i with
  | none => tagAnswer d [] 0x6581
  | some v =>
    if a.action = 2 then
      let r := tagWrite d i (leNat a.data) verify
      tagAnswer r.1 [] (if r.2 then 0x9000 else 0x6581)
    else if a.amount = 0 then tagAnswer d (leOct 4 v) 0x9000
    else if v = ctrMax then tagAnswer d [] 0x6A84
    else
      let r := tagWrite d i (min (v + a.amount) ctrMax) verify
      if r.2 then tagAnswer r.1 (leOct 4 (min (v + a.amount) ctrMax)) 0x9000 else tagAnswer r.1 [] 0x6581

/-- The access that goes next: a contactless one first, else in order of arrival. -/
def tagNext (d : Dev) : Option TagAccess :=
  match d.tag.queue.find? (fun a => a.core.isNone) with
  | some a => some a
  | none => d.tag.queue.head?

/-- The queue without one access. -/
def tagTake (d : Dev) (a : TagAccess) : Dev := onTag d (fun t => { t with queue := t.queue.erase a })

/-- TAG_MEMORY_ACCESS: the next waiting access runs, in a pass; `verify` says how its read-back goes. -/
def tagAccess (verify pass : Nat) (d : Dev) : Dev :=
  match tagNext d with
  | none => d
  | some a =>
    let d := tagTake d a
    match a.core with
    | none => airRun d a verify
    | some m => wiredRun d m a verify pass

/-- Every waiting access run, in the pass that ends: each takes at most 3 µs, so none is left at an edge. -/
def tagDrain : Nat → Dev → Dev
  | 0, d => d
  | f + 1, d => if d.tag.queue.isEmpty then d else tagDrain f (tagAccess 0 (d.pas.count - 1) d)

/-- An access is cut, leaving the older copy unchanged (0), torn (1) or complete (2) where it writes. -/
def accessCut (a : TagAccess) (how : Nat) (d : Dev) : Dev :=
  let i := if a.action ≤ 2 then a.idx else 128 + a.idx
  let v := if a.action = 2 then leNat a.data else min ((tagValue d i).getD 0 + a.amount) ctrMax
  let writes := decide (a.action = 2) || (decide (a.action = 4) && decide (a.amount ≠ 0) && decide (tagValue d i ≠ some ctrMax))
  let blocked := a.core.isSome && decide (a.action = 2) && decide (a.idx ∈ d.tag.locks)
  if writes ∧ ¬ blocked then tagCut d i v how else d

/-- TAG_FIELD_COLLAPSE: the access that runs is cut (Tables 10.7, 10.8); a contactless session ends, a wired command's result is lost. -/
def tagCollapse (how : Nat) (d : Dev) : Dev :=
  match tagNext d with
  | none => tagEnd d
  | some a =>
    let d := accessCut a how (tagTake d a)
    match a.core with
    | none => tagEnd d
    | some m => cmdSet d 0x24 m {}

/-! ### The wired side (R275) -/

/-- A write to TAG_CMD by a field core: dropped while its command is outstanding. A reserved ACTION is outstanding up to the next edge (R478). -/
def tagCmd (m action idx amount : Nat) (d : Dev) : Dev :=
  if ¬ isF m ∨ (cmdGet d 0x24 m).busy then d
  else
    let d := cmdStart d 0x24 m
    if action = 0 ∨ 4 < action then onTag d (fun t => { t with refused := t.refused ++ [(m, d.pas.count)] })
    else if (action ≤ 2 ∧ 127 < idx) ∨ (3 ≤ action ∧ 15 < idx) then cmdDone d 0x24 m St.badDesc 0x02 0 d.pas.count
    else
      let data := quadUnpack ((List.range 4).map (fun i => pv d m (Reg.TAG_DATA + i)))
      onTag d (fun t => { t with queue := t.queue ++ [{ core := some m, action := action, idx := idx, data := data, amount := amount }] })

/-- A field edge: the refused commands of earlier passes end (R478). -/
def tagRefusedEdge (d : Dev) : Dev :=
  let due := d.tag.refused.filter (fun e => decide (e.2 < d.pas.count))
  due.foldl (fun d e => cmdDone d 0x24 e.1 St.badDesc 0 0 (d.pas.count - 1))
    (onTag d (fun t => { t with refused := t.refused.filter (fun e => !decide (e.2 < d.pas.count)) }))

/-- WIRED_READ_BLOCK, WIRED_WRITE_BLOCK, WIRED_READ_COUNTER, WIRED_INC_COUNTER: writes of TAG_CMD. -/
def wiredReadBlock (m idx : Nat) (d : Dev) : Dev := tagCmd m 1 (idx % 128) 0 d
def wiredWriteBlock (m idx : Nat) (d : Dev) : Dev := tagCmd m 2 (idx % 128) 0 d
def wiredReadCounter (m idx : Nat) (d : Dev) : Dev := tagCmd m 3 (idx % 128) 0 d
def wiredIncCounter (m idx amount : Nat) (d : Dev) : Dev := tagCmd m 4 (idx % 128) (amount % 256) d

/-! ### Challenges (R267) -/

/-- CHALLENGE_RECEIVE: a challenge joins the store; the oldest of eight is discarded. None is kept while the field end is without supply or in reset, or in
HOLD: the store that these have wiped stays empty. -/
def challengeReceive (c : Octets) (d : Dev) : Dev :=
  if ¬ fieldPowered d ∨ d.keep.hold then d
  else onTag d (fun t => { t with store := (if 8 ≤ t.store.length then t.store.drop 1 else t.store) ++ [c] })

/-- The store is wiped. -/
def challengeWipe (d : Dev) : Dev := onTag d (fun t => { t with store := [] })

/-- A CHALLENGE barge: four words packed quad. -/
def challengeBarge (c : Octets) : Barge :=
  { toField := true, lane := 2, type := 0x0D, core := 4, payload := fit15 (quadPack (fitTo 16 c)) }

/-- CHALLENGE: one barge at an edge at which the Hopper is READY, the device not in HOLD and the field island up. -/
def challengeSend (d : Dev) : Dev :=
  if hopServes d ∧ d.lkg.fieldUp then
    let x := hwDraw d 1
    queueBarge x.2 1 (challengeBarge x.1)
  else d

/-! ### Resets, registers, level rules -/

/-- A FIELD reset, or loss of the field supply (R278): wired commands in flight end without a result, the first of them cut at any step, which is a free
value; the store is wiped. The contactless session goes on. -/
def tagFieldReset (d : Dev) : Dev :=
  let d := match d.tag.queue.find? (fun a => a.core.isSome) with
    | some a => let u := drawWord d; accessCut a (u.1.toNat % 3) u.2
    | none => d
  let d := [0x20, 0x21, 0x22, 0x23].foldl (fun d m => cmdSet d 0x24 m {}) d
  onTag d (fun t => { t with store := [], queue := t.queue.filter (fun a => a.core.isNone), refused := [], dataDue := [] })

/-- FIELD_SUPPLY_FAULT, the tag core's part included. -/
def supplyLost (high : Bool) (d : Dev) : Dev := tagFieldReset (supplyFault high d)

/-- The answer to the tag core's request has been lost with the Lockgate's reset: the command that waits for it is answered as one not verified
(DEDUCED, log entry 104). -/
def tagWaitLost (d : Dev) : Dev :=
  if d.tag.wait.isSome then tagAnswer (onTag d (fun t => { t with wait := none })) [] 0x6985 else d

/-- TAG_STATE. -/
def tagStateWord (d : Dev) : Word :=
  let t := d.tag
  pack [(0, b2n t.session.isSome), (1, t.session.getD 0), (9, t.locks.length), (14, t.store.length)]

/-- TAG_LOCKw. -/
def tagLockWord (d : Dev) (w : Nat) : Word := pack ((List.range 32).map (fun i => (i, b2n (decide (32 * w + i ∈ d.tag.locks)))))

/-- Table 10.11. -/
def levelTag (d : Dev) : List LRule :=
  let w := chmView d Reg.TAG_AUTH_SLOT
  let s := slotGet d (fld w 13 0)
  let rights := (List.range 4).any (fun i => decide (cv d (Reg.TAG_WRIGHTS + i) ≠ 0)) || decide (cv d Reg.TAG_CRIGHTS ≠ 0)
  [ ⟨1, bit w 14 && (decide (s.state ≠ 1) || decide (s.alg = 0) || decide (3 < s.alg) || !s.usage.testBit 2 || !s.usage.testBit 5), [Reg.TAG_AUTH_SLOT]⟩,
    ⟨2, rights && !bit w 14, [Reg.TAG_AUTH_SLOT, Reg.TAG_CRIGHTS, Reg.TAG_WRIGHTS, Reg.TAG_WRIGHTS + 1, Reg.TAG_WRIGHTS + 2, Reg.TAG_WRIGHTS + 3]⟩ ]

end Sys2Proof.Machine
end

