-- ==== Sys2Proof/Machine/Lockgate.lean ====
section
/-! DEFINITION. The Lockgate (chapter 11): the send queues and lanes, integrity, the closed list of barge types and what each does on
arrival, and the cores' send and receive rings. -/

namespace Sys2Proof.Machine

/-! ### Keys and counters -/

/-- Key of a lane in a direction. -/
def laneKey (toField : Bool) (lane : Nat) : Nat := b2n toField * 4 + lane

def onLkg (d : Dev) (f : Lockgate → Lockgate) : Dev := { d with lkg := f d.lkg }

/-- A counter of one end: the field end's words are the field island's own copies. -/
def endReg (field : Bool) (a : Nat) : Nat := if field then a + 2 ^ 24 else a

/-- Is the host end released, and is the field island up? -/
def hostEndUp (d : Dev) : Bool := decide (7 ≤ d.rst.hostStep)

def lkgLost (field : Bool) (d : Dev) : Dev := rgAdd d (endReg field Reg.LKG_LOST) 1

/-- Slots of the lane's budget debited in this pass, by direction. -/
def lkgSpent (toField : Bool) (lane : Nat) : Nat := Reg.LKG_BUDGET + lane + 2 ^ 25 * b2n toField

def lkgLeft (d : Dev) (toField : Bool) (lane : Nat) : Nat := rn d (Reg.LKG_BUDGET + lane) - spentOf d (lkgSpent toField lane)

/-- R286: barge slots for waiting barges at a receiving end. -/
abbrev waitSlots : Nat := 64

def waitingAt (d : Dev) (toField : Bool) (lane : Nat) : List Barge := tabGet [] d.lkg.waiting (laneKey toField lane)

/-- Is the lane stopped? -/
def laneStopped (d : Dev) (toField : Bool) (lane : Nat) : Bool := decide (waitSlots ≤ (waitingAt d toField lane).length)

/-! ### Headers (Table 11.2) -/

/-- Word 0 of a barge. -/
def hdrWord (b : Barge) : Word :=
  pack [(0, b.type % 256), (8, b.seq % 4096), (20, b.core % 8), (23, b2n b.cont), (24, b.ref % 4096)]

/-- The 16 words of a barge. -/
def bargeWords (b : Barge) : List Word := hdrWord b :: fit15 b.payload

/-- A barge of 16 words, as a send ring holds it. -/
def bargeOf (toField : Bool) (lane : Nat) (ws : List Word) : Barge :=
  let h := ws.headD 0
  { toField := toField, lane := lane, type := fld h 7 0, core := fld h 22 20, cont := bit h 23, ref := fld h 35 24, payload := fit15 (ws.drop 1) }

/-- Table 11.3: lane and direction (towards the field) of a type; none for a type of no row. -/
def typeLane (t : Nat) : Option (Nat × Bool) :=
  if t ∈ [0x01, 0x02, 0x07, 0x08] then some (3, false) else if t = 0x03 then some (1, false) else if t = 0x04 then some (1, true)
  else if t = 0x05 then some (2, false) else if t = 0x06 ∨ t = 0x0D then some (2, true) else if t ∈ [0x09, 0x0B, 0x0E] then some (0, true)
  else if t ∈ [0x0A, 0x0F, 0x11] then some (0, false) else if t = 0x0C ∨ t = 0x10 then some (3, true) else none

/-! ### Sending (R281, R282) -/

def sendKey (toField : Bool) (lane q : Nat) : Nat := laneKey toField lane * 32 + q
def sendQueue (d : Dev) (toField : Bool) (lane q : Nat) : List Barge := tabGet [] d.lkg.sendq (sendKey toField lane q)

/-- DRAW_FILL barges sent first on lane 3 in this pass. -/
abbrev drawSpent : Nat := Reg.LKG_BUDGET + 2 ^ 26

/-- Barges of the message at the front of a queue; none while its second half has not come. -/
def frontMessage (bs : List Barge) : Option (List Barge) :=
  match bs with
  | a :: b :: _ => some (if a.cont then [a, b] else [a])
  | [a] => if a.cont then none else some [a]
  | [] => none

/-- The send queues of an end, in the order of their rotation. -/
def endQueues (toField : Bool) : List Nat := if toField then [0, 1, 2, 16, 17, 18, 19, 20, 21, 22, 23] else [0, 16, 17, 18, 19]

/-- R37: the place in that order with which a pass begins. -/
def rotStart (d : Dev) (toField : Bool) : Nat := d.pas.count % (endQueues toField).length

/-- The queue whose turn it is on a lane: K's on lane 0 and the Hopper's on lane 3 of the host end go first, then the rotation. A message for which
too few slots are left holds back its own queue alone (R35). -/
def nextQueue (d : Dev) (toField : Bool) (lane : Nat) : Option Nat :=
  let fits := fun (q : Nat) => (match frontMessage (sendQueue d toField lane q) with
    | some bs => decide (bs.length ≤ lkgLeft d toField lane)
    | none => false : Bool)
  let qs := endQueues toField
  if toField ∧ lane = 0 ∧ fits 0 then some 0
  else if toField ∧ lane = 3 ∧ fits 1 ∧ spentOf d drawSpent < 4 then some 1
  else ((rotation qs.length ((tabFind d.lkg.rot (laneKey toField lane)).getD (rotStart d toField))).map (fun i => qs.getD i 0)).find?
    (fun q => fits q && !(toField && decide (lane = 3 ∧ q = 1)))

/-- After a turn the rotation goes on behind its queue; a queue that goes first takes no turn. -/
def rotMove (toField : Bool) (lane q : Nat) (d : Dev) : Dev :=
  if toField ∧ ((lane = 0 ∧ q = 0) ∨ (lane = 3 ∧ q = 1)) then d
  else
    let qs := endQueues toField
    onLkg d (fun l => { l with rot := tabPut l.rot (laneKey toField lane) ((qs.findIdx (· = q) + 1) % qs.length) })

/-- Send ring of a core (R291): its register words, on its own island. -/
def lkgCoreReg (m base : Nat) : Nat := isl m (base + 4 * (m % 16))
def ringLog (d : Dev) (m base : Nat) : Nat := fld (rg d (lkgCoreReg m base + 1)) 4 0
def ringOn (d : Dev) (m base : Nat) : Bool := decide (4 ≤ ringLog d m base) && decide (ringLog d m base ≤ 10)
def ringPos (d : Dev) (m base k : Nat) : Nat := posOf (rg d (lkgCoreReg m base + k)) (2 ^ ringLog d m base)

/-- An index register of a core's ring advanced by n. -/
def ringAdvance (m base k n : Nat) (d : Dev) : Dev :=
  let size := 2 ^ ringLog d m base
  rgSet d (lkgCoreReg m base + k) (idxWord ((ringPos d m base k + n) % (2 * size)) size)

/-- Positions of the entries of a core's send ring that wait to be sent. -/
def txWaiting (d : Dev) (m : Nat) : List Nat :=
  (List.range 4).flatMap (fun lane => (sendQueue d (!isF m) lane (16 + m % 16)).filterMap (·.pos))

/-- LKG_TXQ_HEAD: the oldest entry that waits, or where the next one will stand (R291). -/
def txHead (m : Nat) (d : Dev) : Dev :=
  if ¬ ringOn d m Reg.LKG_TXQ_BASE then d
  else
    let n := 2 ^ ringLog d m Reg.LKG_TXQ_BASE
    let t := ringPos d m Reg.LKG_TXQ_BASE 2
    let back := (txWaiting d m).foldl (fun k p => max k (posDist n p t)) 0
    rgSet d (lkgCoreReg m Reg.LKG_TXQ_BASE + 3) (idxWord ((t + 2 * n - back) % (2 * n)) n)

/-- One barge leaves, counted by its direction's monitor: it takes the lane's next SEQ. -/
def putOnWire (d : Dev) (b : Barge) : Dev :=
  let d := bwAdd (if b.toField then 20 else 21) 72 d
  let k := laneKey b.toField b.lane
  let s := tabGet 0 d.lkg.seqTx k
  onLkg d (fun l => { l with wire := tabSet [] l.wire k (tabGet [] l.wire k ++ [{ b with seq := s }]), seqTx := tabSet 0 l.seqTx k ((s + 1) % 4096) })

/-- BARGE_SEND: a free lane sends the message whose turn it is, within its budget. Towards a field island that is down it is discarded and counted. -/
def bargeSend (toField : Bool) (lane : Nat) (d : Dev) : Dev :=
  if 4 ≤ lane ∨ laneStopped d toField lane ∨ ¬ (if toField then hostEndUp d else d.lkg.fieldUp) then d
  else match nextQueue d toField lane with
  | none => d
  | some q =>
    match frontMessage (sendQueue d toField lane q) with
    | none => d
    | some bs =>
      let k := sendKey toField lane q
      let d := rotMove toField lane q (onLkg d (fun l => { l with sendq := tabSet [] l.sendq k ((tabGet [] l.sendq k).drop bs.length) }))
      let d := if toField ∧ lane = 3 ∧ q = 1 then debit d drawSpent bs.length else d
      let d := if 16 ≤ q then txHead (if toField then q else q + 16) d else d
      if toField ∧ ¬ d.lkg.fieldUp then bs.foldl (fun d b => lkgLost false (answered d b)) d
      else bs.foldl putOnWire (debit d (lkgSpent toField lane) bs.length)

/-- An entry of a core's send ring that it may send: type, direction, CONT and CORE as Tables 11.2 and 11.3 allow. A host core names the receiver in
CORE. -/
def txAllowed (m : Nat) (b : Barge) : Bool :=
  if isF m then decide (b.type ∈ [0x01, 0x03, 0x05, 0x07, 0x08]) && (!b.cont || decide (b.type = 0x05))
  else decide (b.type = 0x10) && !b.cont && decide (b.core < 4)

/-- An entry of a core's send ring that is not sent is counted. -/
def txRefuse (m : Nat) (d : Dev) : Dev := pvSet d m Reg.LKG_TX_REFUSED (satInc (pv d m Reg.LKG_TX_REFUSED) 1)

/-- R284: the first barge of a message whose next entry is not its second (same TYPE, CONT = 0) is refused as that entry comes; `b` is the entry
read. DEDUCED (log entry 85). -/
def txPair (m : Nat) (b : Barge) (d : Dev) : Dev :=
  let k := sendKey (!isF m) 2 (16 + m % 16)
  let q := tabGet [] d.lkg.sendq k
  match q.getLast? with
  | some x =>
    if x.cont ∧ ¬ (b.type = x.type ∧ b.cont = false) then txRefuse m (onLkg d (fun l => { l with sendq := tabSet [] l.sendq k q.dropLast })) else d
  | none => d

/-- One entry of a core's send ring read by the Lockgate: queued, or refused and counted. -/
def txEntry (m : Nat) (d : Dev) (pos : Nat) : Dev :=
  let f := isF m
  let n := 2 ^ ringLog d m Reg.LKG_TXQ_BASE
  let a := rn d (lkgCoreReg m Reg.LKG_TXQ_BASE) + 16 * (pos % n)
  let ws := (List.range 16).map (fun i => if f then fmRd d (a + i) else memRd d (a + i))
  let t := fld (ws.headD 0) 7 0
  let lane := match typeLane t with | some x => x.1 | none => 0
  let b := bargeOf (!f) lane ws
  match refusedIn d (if f then 0xC1 else 0xC0) m 1 0 a 16 with
  | some (w, x) => txRefuse m (mpuRecord (if f then 0xC1 else 0xC0) m 2 w x (txPair m { b with type := 0 } d))
  | none =>
    let d := txPair m b d
    if ¬ txAllowed m b then txRefuse m d
    else queueBarge d (16 + m % 16) { b with core := if f then m % 16 else b.core, pos := some pos }

/-- LKG_TXQ_TAIL_WRITE: a doorbell of the core's send ring under R69; the entries it names are read at once. -/
def txqTailWrite (m : Nat) (v : Word) (d : Dev) : Dev :=
  if ¬ (isF m ∨ isH m) ∨ ¬ ringOn d m Reg.LKG_TXQ_BASE then d
  else
    let n := 2 ^ ringLog d m Reg.LKG_TXQ_BASE
    let t := ringPos d m Reg.LKG_TXQ_BASE 2
    let k := posDist n t (posOf v n)
    if n ≤ fld v 15 0 ∨ k = 0 ∨ n < k ∨ n < posDist n (ringPos d m Reg.LKG_TXQ_BASE 3) (posOf v n) then d
    else
      let d := rgSet d (lkgCoreReg m Reg.LKG_TXQ_BASE + 2) (wd (v.toNat % 2 ^ 17))
      txHead m (((List.range k).map (fun i => (t + i) % (2 * n))).foldl (txEntry m) d)

/-! ### Receive rings (R286, R291) -/

/-- The core a barge is for: named by CORE in the field island, by LKG_ROUTE in the host island. -/
def bargeCore (d : Dev) (b : Barge) : Nat :=
  if b.toField then 0x20 + b.core % 4
  else
    let r := rg d Reg.LKG_ROUTE
    0x10 + (if b.type = 0x01 then fld r 2 0 else if b.type = 0x02 then fld r 5 3 else if b.type = 0x07 then fld r 8 6 else fld r 11 9)

/-- Is there room for one more entry, where the receiving end's MPU permits it? -/
def rxSlot (d : Dev) (m : Nat) : Option Nat :=
  if ¬ ringOn d m Reg.LKG_RXQ_BASE then none
  else
    let n := 2 ^ ringLog d m Reg.LKG_RXQ_BASE
    let t := ringPos d m Reg.LKG_RXQ_BASE 3
    if n ≤ posDist n (ringPos d m Reg.LKG_RXQ_BASE 2) t then none
    else some (rn d (lkgCoreReg m Reg.LKG_RXQ_BASE) + 16 * (t % n))

/-- A barge written to its core's receive ring, an admitted input of the next edge; none while it must wait. -/
def rxWrite (b : Barge) (d : Dev) : Option Dev :=
  let m := bargeCore d b
  let e := if b.toField then 0xC1 else 0xC0
  match rxSlot d m with
  | none => none
  | some a =>
    match refusedIn d e m 1 1 a 16 with
    | some _ => none
    | none =>
      let ws := bargeWords b
      let d := if b.toField then fmWr d a ws else loseResv { d with mem := tabSetList 0 d.mem a ws } none false a 16
      let d := ringAdvance m Reg.LKG_RXQ_BASE 3 1 d
      some (noteMem (pushInput d m 2 b.lane d.pas.count (ws.map (·.toNat))) [(a, 16)])

/-- A barge that waits at its receiving end; the lane stops when the slots are full. -/
def rxWait (b : Barge) (d : Dev) : Dev :=
  let k := laneKey b.toField b.lane
  let d := onLkg d (fun l => { l with waiting := tabSet [] l.waiting k (tabGet [] l.waiting k ++ [b]) })
  if (waitingAt d b.toField b.lane).length = waitSlots then rgAdd d (endReg (!b.toField) Reg.LKG_STALLS) 1 else d

/-- A write of a receive ring's entry that the end's own MPU refuses is recorded; the barge waits (R349, log entry 85). -/
def rxRefused (b : Barge) (d : Dev) : Dev :=
  let m := bargeCore d b
  let e := if b.toField then 0xC1 else 0xC0
  match rxSlot d m with
  | some a => (match refusedIn d e m 1 1 a 16 with | some (w, t) => mpuRecord e m 3 w t d | none => d)
  | none => d

/-- A barge delivered to a core: behind barges for the same core that wait on its lane. -/
def toCore (b : Barge) (d : Dev) : Dev :=
  if (waitingAt d b.toField b.lane).any (fun x => decide (bargeCore d x = bargeCore d b)) then rxWait b d
  else (rxWrite b d).getD (rxWait b (rxRefused b d))

/-- BARGE_QUEUE_WRITE: barges that wait on a lane are written in order as their rings have room. -/
def bargeQueueWrite (toField : Bool) (lane : Nat) (d : Dev) : Dev :=
  let k := laneKey toField lane
  let r := (waitingAt d toField lane).foldl (fun x b =>
    let blocked := x.2.any (fun y => decide (bargeCore x.1 y = bargeCore x.1 b))
    match if blocked then none else rxWrite b x.1 with
    | some d => (d, x.2)
    | none => (x.1, x.2 ++ [b])) (d, ([] : List Barge))
  onLkg r.1 (fun l => { l with waiting := tabSet [] l.waiting k r.2 })

/-- A core's receive ring has room again: barges that wait at its end are written (R286). -/
def roomMade (m : Nat) (d : Dev) : Dev := (List.range 4).foldl (fun d lane => bargeQueueWrite (isF m) lane d) d

/-- LKG_RXQ_HEAD_WRITE: a core consumes entries of its receive ring (Table 3.11). -/
def rxqHeadWrite (m : Nat) (v : Word) (d : Dev) : Dev :=
  if ¬ (isF m ∨ isH m) ∨ ¬ ringOn d m Reg.LKG_RXQ_BASE then d
  else
    let n := 2 ^ ringLog d m Reg.LKG_RXQ_BASE
    let h := ringPos d m Reg.LKG_RXQ_BASE 2
    let k := posDist n h (posOf v n)
    if n ≤ fld v 15 0 ∨ k = 0 ∨ n < k ∨ posDist n h (ringPos d m Reg.LKG_RXQ_BASE 3) < k then d
    else roomMade m (rgSet d (lkgCoreReg m Reg.LKG_RXQ_BASE + 2) (wd (v.toNat % 2 ^ 17)))

/-- Barges of a core that wait to be sent no longer stand in its send ring. -/
def txDetach (m : Nat) (d : Dev) : Dev :=
  (List.range 4).foldl (fun d lane =>
    let k := sendKey (!isF m) lane (16 + m % 16)
    onLkg d (fun l => { l with sendq := tabSet [] l.sendq k ((tabGet [] l.sendq k).map (fun b => { b with pos := none })) })) d

/-- A write of a ring's SIZE: the ring starts empty. -/
def lkgSizeWrite (m base : Nat) (v : Word) (d : Dev) : Dev :=
  let a := lkgCoreReg m base
  let d := rgSet (rgSet (rgSet d (a + 1) (wd (fld v 4 0))) (a + 2) 0) (a + 3) 0
  if base = Reg.LKG_RXQ_BASE then roomMade m d else txDetach m d

/-! ### Requests from the field (R290) -/

/-- A request of the field island takes a context entry, or waits for one behind those that wait (R80). In HOLD it is answered at once (R19). -/
def requestEntry (d : Dev) (o : Op) : Dev :=
  if d.waitq ≠ [] ∨ maxOps ≤ inFlight d then { d with waitq := d.waitq ++ [o] }
  else
    let e := addOp d o
    if d.keep.hold then endWith e { o with id := d.opSeq } St.held 0 d.pas.count d.pas.count else e

/-- The operation of a credential query. -/
def credQuery (b : Barge) (d : Dev) : Dev :=
  let w := fun i => b.payload.getD i 0
  let rsv := decide (fld (w 0) 35 24 ≠ 0) || (List.range 8).any (fun i => decide (fld (w (i + 1)) 35 32 ≠ 0)) ||
    (List.range 6).any (fun i => decide (w (i + 9) ≠ 0))
  let o : Op := { id := 0, src := .barge b.core b.ref 0x03, ctx := 0xC0, desc := fitTo 64 [0x40], phase := .staged, eligAt := d.pas.count + 1,
                  input := quadUnpack ((List.range 8).map (fun i => w (i + 1))), aux := [fld (w 0) 15 0, b2n rsv] }
  requestEntry d o

/-- The octet stream of a crypto request: words 2 to 13 of the first barge, 0 to 13 of a second. -/
def cryptoStream (a : Barge) (b : Option Barge) : Octets :=
  (words a.payload 2 12) ++ (match b with | some x => words x.payload 0 14 | none => [])
where
  /-- Octets of n payload words from a position, packed dense. -/
  words (p : List Word) (i n : Nat) : Octets := denseUnpack ((p.drop i).take n)

/-- The operation of a crypto request: a descriptor made from its fields, and its data in the order the lanes take it. -/
def cryptoRequest (a : Barge) (b : Option Barge) (d : Dev) : Dev :=
  let w0 := a.payload.getD 0 0
  let w1 := a.payload.getD 1 0
  let slot := fld w0 13 0
  let op := fld w0 16 14
  let mode := fld w0 20 17
  let tl := fld w0 25 21
  let il := fld w0 30 26
  let aad := fld w1 5 0
  let pay := fld w1 11 6
  let hash := decide (4 ≤ op)
  let rsv := decide (fld w0 35 31 ≠ 0) || decide (fld w1 35 12 ≠ 0) || decide (6 ≤ op) || decide (a.payload.getD 14 0 ≠ 0) ||
    (match b with | some x => decide (x.payload.getD 14 0 ≠ 0) | none => false)
  let unused := hash && (decide (tl ≠ 0) || decide (il ≠ 0) || decide (aad ≠ 0) || (decide (op = 4) && decide (slot ≠ 0)))
  let s := cryptoStream a b
  let tagIn := if op = 1 ∨ op = 3 then tl else 0
  let data := slice s (il + tagIn) (aad + pay) ++ slice s il tagIn
  let opcode := if hash then 0x20 + (op - 4) else 0x10 + op
  let desc := mkDesc opcode {} (if hash then [(8, 2, slot), (10, 1, mode), (16, 4, pay)]
    else [(8, 2, slot), (10, 1, mode), (12, 4, aad), (16, 4, pay), (20, 1, il), (21, 1, tl), (40, 16, leNat (s.take il))])
  let o : Op := { id := 0, src := .barge a.core a.ref 0x05, ctx := 0xC0, desc := desc, phase := .staged, eligAt := d.pas.count + 1,
                  input := fitTo (aad + pay + tagIn) data, aux := [if rsv then 1 else if unused then 2 else 0] }
  requestEntry d o

/-! ### Configuration and firmware (R289) -/

/-- The address-value pairs of a CONFIG_PUSH. -/
def pushPairs (b : Barge) : List (Nat × Word) :=
  (List.range (fld (b.payload.getD 0 0) 4 2)).map (fun i => (fld (b.payload.getD (2 * i + 1) 0) 23 0, b.payload.getD (2 * i + 2) 0))

/-- Words of the calibration constants: the records of the factory row (Table 17.7) as one octet string, four octets a word. -/
abbrev calWords : Nat := 574

/-- The word offset under which CONFIG_PUSH carries word i of the constants: a block that no other register has. DESIGN CHOICE (log entry 77). -/
abbrev calBase : Nat := 0x250000

/-- The pairs that carry the calibration constants: the records of every chain, ping engine and tie line (R226); none of a row whose CHECK fails (R412). -/
def calPairs : List (Nat × Word) :=
  if calRowOk then
    (List.range calWords).map (fun i => (calBase + i, wd (leNat ((List.range 4).map (fun j => Config.calOctet (4 * i + j))))))
  else []

/-- The field CH values of the chamber mirror that differ from their reset values. -/
def mirrorPairs (d : Dev) : List (Nat × Word) :=
  (d.regs.filter (fun e => decide (2 ^ 25 ≤ e.1))).map (fun e => (e.1 - 2 ^ 25, e.2))

/-- R244: K sends the calibration and the mirror's values once the field image is in (R456), as configuration push barges that take effect on
receipt. DESIGN CHOICE (log entry 77). -/
def kPushes (d : Dev) : Dev :=
  let ps := calPairs ++ mirrorPairs d
  (pushBarges 1 (chmSeq d) ps.length ps).foldl (fun d b => queueBarge d 0 b) d

/-- Have the constants' octets of a record come? -/
def calHas (d : Dev) (at_ n : Nat) : Bool :=
  (List.range ((at_ + n - 1) / 4 + 1 - at_ / 4)).all (fun i => (tabFind d.fld.cal (at_ / 4 + i)).isSome)

/-- The chains and ping engines whose records (octets 64n of 64, 2,048 + 14e of 14) have come are calibrated. -/
def calJudge (d : Dev) : Dev :=
  let d := (List.range 32).foldl (fun d n => if calHas d (64 * n) 64 then chainSet d n { chainGet d n with cal := true } else d) d
  (List.range 16).foldl (fun d e => if calHas d (2048 + 14 * e) 14 then engSet d e { engGet d e with cal := true } else d) d

/-- An entry of KIND 1 takes effect: a word of the constants is kept, a field CH word takes the mirror's value. -/
def calEntry (d : Dev) (e : Nat × Word) : Dev :=
  if calBase ≤ e.1 ∧ e.1 < calBase + calWords then { d with fld := { d.fld with cal := tabPut d.fld.cal (e.1 - calBase) e.2 } }
  else if isFieldReg e.1 then rgSet d e.1 (chmMerge (rg d e.1) e.2 (chmMask e.1))
  else d

/-- CONFIG_PUSH accepted at the field end. -/
def configPushIn (b : Barge) (d : Dev) : Dev :=
  let w := b.payload.getD 0 0
  let kind := fld w 1 0
  let seq := fld w 28 5
  if kind = 0 then
    let old := if d.fld.stagedSeq = seq then d.fld.staged else []
    let st := old ++ (pushPairs b).map (fun e => (e.1, e.2.toNat))
    let d := { d with fld := { d.fld with staged := st, stagedSeq := seq } }
    if st.length = (chmFieldEntries d).length then
      queueBarge d 0 { toField := false, lane := 0, type := 0x0A, core := 4, payload := fit15 [pack [(5, seq)], wd st.length] }
    else d
  else if kind = 1 then calJudge ((pushPairs b).foldl calEntry d)
  else if kind = 2 then { d with fld := { d.fld with staged := [] } }
  else
    let named := ((List.range (fld w 4 2)).map (fun i => b.payload.getD (i + 1) 0))
    { d with pas := { d.pas with reqs := d.pas.reqs.map (fun q =>
        if named.any (fun v => decide (fld v 3 0 = q.kind ∧ fld v 9 4 = q.idx)) then { q with ready := true, readyAt := d.pas.count } else q) } }

/-- CONFIG_ACK accepted at the host end. -/
def configAckIn (b : Barge) (d : Dev) : Dev :=
  let w := b.payload.getD 0 0
  if fld w 1 0 = 0 then
    if d.chm.pushed ∧ fld w 28 5 = chmSeq d % 2 ^ 24 ∧ (b.payload.getD 1 0).toNat = (chmFieldEntries d).length then
      { d with chm := { d.chm with acked := true } }
    else d
  else if fld w 1 0 = 3 then
    { d with pas := { d.pas with shownNext := d.pas.shownNext ++
        ((b.payload.drop 1).filter (fun v => decide (v ≠ 0))).map (fun v => (fld v 3 0, fld v 9 4, fld v 11 10)) } }
  else d

/-- FIRMWARE_BLOCK accepted at the field end while F0 to F3 are held at start-up, else discarded and counted; image words past the end of field
SRAM go nowhere. -/
def firmwareBlockIn (b : Barge) (d : Dev) : Dev :=
  if d.fld.started then lkgLost true d
  else
    let w := b.payload.getD 0 0
    let at_ := 14 * fld w 15 0
    let d := fmWr d (0x010000000 + at_) ((b.payload.drop 1).take (min 14 (0x80000 - at_)))
    if bit w 16 then { d with fld := { d.fld with imgDone := true } } else d

/-- R456, R391: the FIRMWARE_BLOCK barges of a field image. -/
def imageBarges (img : List Word) : List Barge :=
  let cs := chunks 14 img
  cs.zipIdx.map (fun c =>
    { toField := true, lane := 0, type := 0x0B, core := 4, payload := fit15 (pack [(0, c.2), (16, b2n (decide (c.2 + 1 = cs.length)))] :: c.1) })

/-- DRAW_FILL accepted at the field end: draws of the named core, presented at its next edge. -/
def drawFillIn (b : Barge) (d : Dev) : Dev :=
  if 4 ≤ b.core then d
  else
    let m := 0x20 + b.core
    onHop d (fun h => { h with next := tabSet [] h.next m (tabGet [] h.next m ++ (b.payload.take (b.ref % 16)).map (fun w => fld w 31 0)) })

/-- A field core's replayed section cut into REPLAY_INPUT barges, as REPLAY_LOG cuts one. The manual gives no layout. DESIGN CHOICE (log entry 58). -/
def inputBarges (m : Nat) (o : Octets) : List Barge :=
  let cs := chunks 63 o
  cs.zipIdx.map (fun c =>
    { toField := true, lane := 0, type := 0x0E, core := m % 4, payload := fit15 (pack [(2, b2n (decide (c.2 + 1 = cs.length)))] :: densePack c.1) })

/-- REPLAY_INPUT: the next 63 octets of the named core's section, kept in REPLAY mode, else discarded and counted. -/
def replayInputIn (b : Barge) (d : Dev) : Dev :=
  if d.rpl.mode = 2 then
    let m := 0x20 + b.core % 4
    let old := tabGet ([], false) d.rpl.inputs m
    let now := (old.1 ++ denseUnpack ((b.payload.drop 1).take 14), bit (b.payload.getD 0 0) 2)
    { d with rpl := { d.rpl with inputs := tabPut d.rpl.inputs m now } }
  else lkgLost true d

/-- REPLAY_LOG: the next 63 octets of a field core's section of a pass. -/
def replayLogIn (b : Barge) (d : Dev) : Dev :=
  let w := b.payload.getD 0 0
  let k := b.ref % 4096 * 4 + fld w 1 0
  let old := tabGet ([], false) d.rpl.logs k
  { d with rpl := { d.rpl with logs := tabSet ([], false) d.rpl.logs k (old.1 ++ denseUnpack ((b.payload.drop 1).take 14), bit w 2) } }

/-- CORE_STOP: the stop record of a field core, an input of K. -/
def coreStopIn (b : Barge) (d : Dev) : Dev := pushInput d 1 2 0 d.pas.count (0x11 :: b.payload.map (·.toNat))

/-- A CHALLENGE joins the tag challenge store. -/
def challengeIn (b : Barge) (d : Dev) : Dev := challengeReceive (quadUnpack (b.payload.take 4)) d

/-- CRYPTO_ANSWER: to the requesting core, or the tag core's verdict. -/
def cryptoAnswerIn (a : Barge) (b : Option Barge) (d : Dev) : Dev :=
  if a.core = 4 then tagVerdict (fld (a.payload.getD 0 0) 7 0) (answered d a)
  else match b with
  | some x => toCore x (toCore a d)
  | none => toCore a d

/-! ### Arrival (R284, R285, R287) -/

/-- What a message does at the end that receives it. -/
def bargeArrive (a : Barge) (b : Option Barge) (d : Dev) : Dev :=
  if a.type ∈ [0x01, 0x02, 0x07, 0x08, 0x04, 0x10] then toCore a d
  else if a.type = 0x03 then credQuery a d
  else if a.type = 0x05 then cryptoRequest a b d
  else if a.type = 0x06 then cryptoAnswerIn a b d
  else if a.type = 0x09 then configPushIn a d
  else if a.type = 0x0A then configAckIn a d
  else if a.type = 0x0B then firmwareBlockIn a d
  else if a.type = 0x0C then drawFillIn a d
  else if a.type = 0x0D then challengeIn a d
  else if a.type = 0x0E then replayInputIn a d
  else if a.type = 0x0F then replayLogIn a d
  else coreStopIn a d

/-- R285: an integrity failure at the receiving end; a request whose header is good is answered with INTEGRITY_FAULT, in HOLD with HELD (R19, R13). -/
def integFail (b : Barge) (hdrOk : Bool) (d : Dev) : Dev :=
  let st := if d.keep.hold then St.held else St.integrity
  let k := laneKey b.toField b.lane
  let d := rgAdd d (endReg b.toField (Reg.LKG_INTEG_FAIL + b.lane)) 1
  let d := tamperEvent 30 (onLkg d (fun l => { l with halves := tabSet [] l.halves k [] }))
  if ¬ b.toField ∧ hdrOk ∧ ¬ b.cont ∧ b.type = 0x03 then
    queueBarge d 2 (credAnswer b.core b.ref st [fld (b.payload.getD 0 0) 15 0])
  else if ¬ b.toField ∧ hdrOk ∧ b.type = 0x05 then (cryptoAnswer b.core b.ref st 0 []).foldl (fun d b => queueBarge d 2 b) d
  else d

/-- The word check code of word i of a barge on a lane: over the sending end's identity, the index, the lane, the direction and the word. The order
of these is the model's (log entry 85). -/
def laneCode (b : Barge) (i : Nat) (w : Word) : Nat :=
  (msbBits 8 (if b.toField then 0xC0 else 0xC1) ++ msbBits 4 i ++ msbBits 2 b.lane ++ [b.toField] ++ msbBits 36 w.toNat).foldl crcStep 0xFF

/-- Does word i of a barge pass its check, its code having met an error pattern? -/
def laneWordOk (b : Barge) (errs : List Nat) (i : Nat) : Bool :=
  let c := laneCode b i ((bargeWords b).getD i 0)
  decide (c ^^^ (errs.getD i 0 % 256) = c)

/-- Is a lane stopped for the barge that would come next: its message finds no place to wait (R286)? -/
def laneFull (d : Dev) (toField : Bool) (lane : Nat) : Bool :=
  decide (waitSlots < (waitingAt d toField lane).length + 1 + (tabGet [] d.lkg.halves (laneKey toField lane)).length)

/-- BARGE_RECEIVE: the oldest barge on a lane arrives; `errs` are the error patterns that the check codes of its words met. The second barge of a
message whose first has failed is checked, and discarded with it. -/
def bargeReceive (toField : Bool) (lane : Nat) (errs : List Nat) (d0 : Dev) : Dev :=
  let d := d0
  let k := laneKey toField lane
  match tabGet [] d.lkg.wire k with
  | [] => d
  | b :: r =>
    let want := tabGet 0 d.lkg.seqRx k
    let ok := (List.range 16).all (laneWordOk b errs)
    let half := tabGet [] d.lkg.halves k
    let second := decide (tabGet 0 d.lkg.skip k = b.type + 1) && !b.cont
    let full := laneFull d toField lane
    let d := onLkg d (fun l => { l with wire := tabSet [] l.wire k r, seqRx := tabSet 0 l.seqRx k ((b.seq + 1) % 4096), skip := tabSet 0 l.skip k 0 })
    if toField ∧ ¬ d.lkg.fieldUp then lkgLost false (answered d b)
    else if full then d0
    else if ¬ ok ∨ b.seq ≠ want ∨ typeLane b.type ≠ some (lane, toField) then
      integFail b (laneWordOk b errs 0 && !second)
        (onLkg (if toField then answered d b else d) (fun l => { l with skip := tabSet 0 l.skip k (if b.cont then b.type + 1 else 0) }))
    else if second then (if toField then answered d b else d)
    else match half with
    | a :: _ => bargeArrive a (some b) (onLkg d (fun l => { l with halves := tabSet [] l.halves k [] }))
    | [] => if b.cont then onLkg d (fun l => { l with halves := tabSet [] l.halves k [b] }) else bargeArrive b none d

/-! ### Resets (R286) -/

/-- FIELD or HOST reset: every queue and holding slot of both ends is emptied, and SEQ restarts at 0. What is lost this way is counted: at the
sender's end what had not arrived, at the receiver's end what waited there, requests that waited for an entry among it (R285). The answers to
requests in flight are discarded and counted as they come. -/
def lkgReset (d : Dev) : Dev :=
  let out := (d.lkg.sendq.flatMap (·.2)) ++ (d.lkg.wire.flatMap (·.2))
  let inn := (d.lkg.waiting.flatMap (·.2)) ++ (d.lkg.halves.flatMap (·.2))
  let n := fun (field : Bool) => (out.filter (fun b => decide (b.toField ≠ field))).length + (inn.filter (fun b => decide (b.toField = field))).length
  let d := tagWaitLost (rgAdd (rgAdd d Reg.LKG_LOST (n false + d.waitq.length)) (endReg true Reg.LKG_LOST) (n true))
  let d := { d with lkg := { fieldUp := d.lkg.fieldUp }, waitq := [],
                    ops := d.ops.filterMap (fun o => match o.src with
                      | .barge _ _ _ => if o.phase = .posted then none else some { o with dead := true }
                      | _ => some o) }
  [0x10, 0x11, 0x12, 0x13, 0x14, 0x15, 0x16, 0x17, 0x20, 0x21, 0x22, 0x23].foldl (fun d m => txHead m d) d

/-- LKG_STATE of one end. -/
def lkgStateWord (d : Dev) (field : Bool) : Word :=
  pack ((0, b2n d.lkg.fieldUp) :: (List.range 4).map (fun l => (1 + l, b2n (laneStopped d (!field) l))))

end Sys2Proof.Machine
end

