-- ==== Sys2Proof/Machine/Mailbox.lean ====
section
/-! DEFINITION. The mailboxes (chapter 11): sends, acknowledgements, results, time-outs and the pages of Wharf functions. -/

namespace Sys2Proof.Machine

def coreGet (d : Dev) (m : Nat) : Core := tabGet {} d.cores m
def coreSet (d : Dev) (m : Nat) (c : Core) : Dev := { d with cores := tabSet {} d.cores m c }
def onCore (d : Dev) (m : Nat) (f : Core → Core) : Dev := coreSet d m (f (coreGet d m))

def mbxGet (d : Dev) (c : Nat) : Mbx := tabGet {} d.mbx c
def mbxSet (d : Dev) (c : Nat) (x : Mbx) : Dev := { d with mbx := tabSet {} d.mbx c x }

def mbxBind (d : Dev) (c : Nat) : Word := rg d (Reg.MBX_BIND + 4 * c)

/-- R292: channels 56 to 63 are bound by hardware from Hn to K. -/
def mbxSender (d : Dev) (c : Nat) : Nat := if 56 ≤ c then 0x10 + (c - 56) else fld (mbxBind d c) 7 0
def mbxReceiver (d : Dev) (c : Nat) : Nat := if 56 ≤ c then 1 else fld (mbxBind d c) 15 8
def mbxEnabled (d : Dev) (c : Nat) : Bool := decide (c < 64) && (decide (56 ≤ c) || bit (mbxBind d c) 16)

/-- Page of a channel in its function's host memory. -/
def mbxPage (d : Dev) (c : Nat) : Nat := ofLoHi (rg d (Reg.MBX_PAGE_LO + 4 * c)) (rg d (Reg.MBX_PAGE_HI + 4 * c))

def mbxDenied (d : Dev) : Dev := rgAdd d Reg.MBX_DENIED 1

/-- R295: a receiver that is in reset, stopped or held in CORE reset, or a function in D3hot or without a link. -/
def receiverDown (d : Dev) (m : Nat) : Bool :=
  if isFn m then !d.linkUp || tabGet false d.d3 (m - 0x40) else !(coreGet d m).run || decide ((coreGet d m).stopped ≠ 0)

/-- The message a send copies into a channel, by its bound sender; an earlier one not yet presented is overwritten. -/
def mbxPut (c : Nat) (msg : List Word) (d : Dev) : Dev :=
  let x := mbxGet d c
  let d := mbxSet d c { x with msg := msg, seq := (x.seq + 1) % 65536, full := true, coll := x.coll || x.full, fresh := true, await := true,
                               gone := false, resOk := false }
  let m := mbxReceiver d c
  if isFn m then d
  else
    let old := fun (i : Input) => decide (i.core = m) && decide (i.cls = 3) && decide (i.key = c)
    pushInput { d with pas := { d.pas with inq := d.pas.inq.filter (fun i => !old i) } } m 3 c d.pas.count (msg.map (·.toNat))

/-- MBX_SEND: a send of the master's MBX_OUT words; by any other than the bound sender it is dropped and counted. -/
def mbxSend (m c : Nat) (d : Dev) : Dev :=
  if ¬ mbxEnabled d c ∨ mbxSender d c ≠ m then mbxDenied d
  else mbxPut c ((List.range 16).map (fun i => pv d m (Reg.MBX_OUT + i))) d

/-- MBX_ACK: taken at the next edge; by any other than the bound receiver it is dropped and counted. -/
def mbxAck (m c seq : Nat) (d : Dev) : Dev :=
  if ¬ mbxEnabled d c ∨ mbxReceiver d c ≠ m then mbxDenied d
  else mbxSet d c { mbxGet d c with acks := (mbxGet d c).acks ++ [seq] }

/-- MAILBOX_SEND_ARRIVAL: the Wharf's read of a function's OUT data completes. -/
def mbxArrival (c : Nat) (msg : List Word) (d : Dev) : Dev :=
  if isFn (mbxSender d c) then
    if mbxEnabled d c then mbxPut c ((msg ++ List.replicate 16 0).take 16) d else mbxDenied d
  else d

/-- The result of the sender's message: an admitted input at this edge, or written to a function's page with its vector. -/
def mbxResult (c st : Nat) (d : Dev) : Dev :=
  let x := mbxGet d c
  let d := mbxSet d c { x with await := false, resSeq := x.seq, resSt := st, resOk := true }
  let m := mbxSender d c
  if isFn m then
    let d := fnWrite d (m - 0x40) (mbxPage d c + 328) (leOct 8 (x.seq + st * 2 ^ 16 + 2 ^ 35))
    fireVec d (m - 0x40) (fld (mbxBind d c) 27 17)
  else pushInput d m 3 (64 + c) (d.pas.count - 1) [x.seq, st]

/-- R295: a sender waits and its time has come, or its receiver is down. -/
def mbxDue (d : Dev) (c : Nat) : Bool :=
  let x := mbxGet d c
  let t := rn d (Reg.MBX_TIMEOUT + 4 * c)
  x.await && x.full && ((!x.fresh && decide (t ≠ 0) && decide (x.vis + t ≤ d.pas.count)) || x.gone || receiverDown d (mbxReceiver d c))

/-- MAILBOX_TIMEOUT: the sender's result becomes TIMEOUT. -/
def mbxTimeout (c : Nat) (d : Dev) : Dev := if mbxDue d c then mbxResult c St.timeout d else d

/-- One channel at an edge: ACKs of the pass before, then the message that becomes visible, then time-outs (R293 to R295). -/
def mbxEdge (d : Dev) (c : Nat) : Dev :=
  let x := mbxGet d c
  let hit := x.full && x.acks.any (fun s => decide (s = x.seq))
  let d := mbxSet d c { x with acks := [], full := x.full && !hit, coll := x.coll && !hit }
  let d := if hit ∧ x.await then mbxResult c St.done d else d
  let x := mbxGet d c
  let fresh := x.fresh
  let d := mbxSet d c { x with inMsg := x.msg, inSeq := x.seq, inFull := x.full, inColl := x.coll, fresh := false,
                               vis := if fresh then d.pas.count else x.vis }
  let m := mbxReceiver d c
  let d := if fresh ∧ isFn m then
      let d := fnWrite d (m - 0x40) (mbxPage d c) (x.msg.flatMap (fun w => leOct 8 w.toNat) ++ leOct 8 (x.seq + b2n x.coll * 2 ^ 16 + 2 ^ 17))
      fireVec d (m - 0x40) (fld (mbxBind d c) 27 17)
    else d
  mbxTimeout c d

/-- A receiver that is reset, stops or leaves its link or power state ends the wait for its acknowledgement (R295), though it may be back by the
edge. -/
def mbxGone (m : Nat) (d : Dev) : Dev :=
  (d.mbx.map (·.1)).foldl (fun d c => if mbxReceiver d c = m then mbxSet d c { mbxGet d c with gone := (mbxGet d c).await } else d) d

/-- Every channel that holds something, at an edge. -/
def mbxEdges (d : Dev) : Dev := (d.mbx.map (·.1)).foldl mbxEdge d

/-- HOST reset empties every channel. -/
def mbxReset (d : Dev) : Dev := { d with mbx := [] }

/-- MBX_IN word i of a channel, to its receiver. -/
def mbxInWord (d : Dev) (m c i : Nat) : Word := if mbxReceiver d c = m ∧ mbxEnabled d c then (mbxGet d c).inMsg.getD i 0 else 0

/-- MBX_CH_STATUS, to the receiver. -/
def mbxStatusWord (d : Dev) (m c : Nat) : Word :=
  let x := mbxGet d c
  if mbxReceiver d c = m ∧ mbxEnabled d c then pack [(0, b2n x.inFull), (1, b2n x.inColl), (2, x.inSeq)] else 0

/-- MBX_CH_RESULT, to the sender. -/
def mbxResultWord (d : Dev) (m c : Nat) : Word :=
  let x := mbxGet d c
  if mbxSender d c = m ∧ mbxEnabled d c then pack [(0, x.resSeq), (16, x.resSt), (35, b2n x.resOk)] else 0

end Sys2Proof.Machine
end

