-- ==== Sys2Proof/Machine/Flash.lean ====
section
/-! DEFINITION. The flash array and its controller (chapter 17): commands, plane states, paired pages, commit records, the read windows'
control, and what a reset cuts. -/

namespace Sys2Proof.Machine

def plane (d : Dev) (p : Nat) : Plane := tabGet {} d.fls.planes p
def planeSet (d : Dev) (p : Nat) (x : Plane) : Dev := { d with fls := { d.fls with planes := tabSet {} d.fls.planes p x } }

/-- Pages of a block (Table 17.1). -/
def pagesPer (p : Nat) : Nat := if p < 2 then 128 else 256

abbrev pageSize : Nat := 16384

/-- R403: role (1 upper), word line and partner of a page of an MLC block. -/
def pagePair (g : Nat) : Nat × Nat × Nat :=
  if g = 0 then (0, 0, 2) else if g = 255 then (1, 127, 253)
  else if g % 2 = 1 then (0, (g + 1) / 2, if g = 253 then 255 else g + 3)
  else (1, (g - 2) / 2, if g = 2 then 0 else g - 3)

def isUpper (p g : Nat) : Bool := decide (2 ≤ p) && decide ((pagePair g).1 = 1)

/-- Octets of a page; a blank one reads as ones. -/
def pageData (x : Plane) (b g : Nat) : Octets :=
  match tabFind x.pages (b * 256 + g) with
  | some f => fitTo pageSize f.data
  | none => List.replicate pageSize 0xFF

/-! ### Commands (Table 17.2) -/

/-- FLS_CMD: arguments out of their fields, or not zero though the ACTION does not use them: that those must be zero, and end the command with
BAD_DESCRIPTOR, is the model's reading of R478 for Table 17.2 (DESIGN CHOICE, log entry 75). -/
def flsArgsBad (action : Nat) (a : List Nat) : Bool :=
  let g := fun i => a.getD i 0
  if action = 1 ∨ action = 2 then decide (2 ^ 19 ≤ g 0) || decide (1 < g 2) || decide (g 3 ≠ 0)
  else if action = 3 then decide (2 ^ 11 ≤ g 0) || decide (g 1 ≠ 0) || decide (g 2 ≠ 0) || decide (g 3 ≠ 0)
  else if action = 4 ∨ action = 5 then decide (8 ≤ g 0) || decide (g 1 ≠ 0) || decide (g 2 ≠ 0) || decide (g 3 ≠ 0)
  else if action = 6 then decide (g 0 ≠ 0) || decide (1 < g 2) || decide (g 3 ≠ 0)
  else decide (8 ≤ g 0) || decide (2 ^ 32 ≤ g 1) || decide (g 2 ≠ 0) || decide (g 3 ≠ 0)

/-- A write to FLS_CMD by K, or H0 to H7 at P0 or P1. HOLD does not affect the controller. -/
def flsCmd (m pl action : Nat) (d : Dev) : Dev :=
  if ¬ keyCmdMaster m pl then d
  else
    let a := cmdArgs d m Reg.FLS_ARG 4
    let bad := decide (action = 0) || decide (7 < action) || flsArgsBad action a
    cmdIssue 0x13 m (if bad then Cmd.reserved else 0xD0 + action) (decide (a.getD 2 0 = 1)) a true d pl

def Op.plane (o : Op) : Nat := if o.opcode = 0xD6 then 0 else o.aux.getD 0 0 % 8
def Op.block (o : Op) : Nat := o.aux.getD 0 0 / 8 % 256
def Op.page (o : Op) : Nat := o.aux.getD 0 0 / 2048 % 256
def Op.flsBuf (o : Op) : Nat := o.aux.getD 1 0

/-- Words of the page buffer. -/
def Op.flsWords (o : Op) : Nat := pageWords o.dense

/-- The page that a buffer holds. -/
def bufPage (d : Dev) (o : Op) : Octets := fitTo pageSize (unpackOct o.dense ((List.range o.flsWords).map (fun i => memAny d (o.flsBuf + i))))

/-- Is the operation a flash command waiting for a plane? -/
def flsWaits (p : Nat) (o : Op) : Bool := decide (o.phase = .staged) && decide (0xD1 ≤ o.opcode) && decide (o.opcode ≤ 0xD7) && decide (o.plane = p)

/-- The boot set header at octet 0 of a plane. -/
def bootHdr (d : Dev) (p : Nat) : Octets := planeOcts d p 0 256

/-- MAGIC and FORMAT of Table 16.6. -/
def bootHdrOk (h : Octets) : Bool := octEq (h.take 4) [0x51, 0x42, 0x53, 0x31] && decide (leAt h 4 2 = 1)

/-- The conditions a command meets at its admission, its plane's state apart. -/
def flsFails (d : Dev) (o : Op) : List (Option Fail) :=
  let p := o.plane
  let x := plane d p
  let code := decide (p < 2)
  [ failIf (decide (o.opcode ∈ [0xD1, 0xD2]) && decide (pagesPer p ≤ o.page)) St.badDesc 0x20,
    failIf (decide (o.opcode = 0xD7) && !code) St.badDesc 0x20,
    failIf (decide (o.opcode = 0xD2) && decide (o.page < tabGet 0 x.wptr o.block)) St.badDesc 0x21,
    failIf (decide (o.opcode = 0xD2) && (tabFind x.pages (o.block * 256 + o.page)).isSome) St.badDesc 0x22,
    failIf (decide (o.opcode = 0xD7) && code && (!bootHdrOk (bootHdr d p) || decide (leAt (bootHdr d p) 8 4 ≠ o.aux.getD 1 0))) St.badDesc 0x26,
    failIf (decide (o.opcode ∈ [0xD1, 0xD2, 0xD3]) && decide (p = 2) && decide (o.block < 2)) St.denied 0x24,
    failIf (decide (o.opcode ∈ [0xD1, 0xD2, 0xD6]) && !ramRange o.flsBuf o.flsWords) St.denied 0,
    failIf (decide (o.opcode ∈ [0xD2, 0xD3, 0xD7]) && code && windowOn d p) 0x10 0 ]

/-- The buffer of a READ, PROGRAM or READ_CAL, against the issuing core's regions. -/
def flsBufFail (d : Dev) (o : Op) : Option (Nat × Nat) :=
  match o.src with
  | .cmd _ m => if o.opcode ∈ [0xD1, 0xD2, 0xD6] ∧ ramRange o.flsBuf o.flsWords then
      refusedIn d m 0 o.pl (if o.opcode = 0xD2 then 0 else 1) o.flsBuf o.flsWords else none
  | _ => none

/-! ### Commit records (R408, Table 17.5) -/

/-- A commit record of a KIND: 1 COMMIT, 2 VOID. -/
def commitRecord (kind gen : Nat) (dig : Octets) : Octets :=
  let h := [0x51, 0x43, 0x52, 0x31] ++ leOct 1 kind ++ zeros 3 ++ leOct 4 gen ++ dig
  h ++ leOct 4 (crc32 h)

/-- GENERATION and digest of a valid COMMIT record. -/
def commitOf (o : Octets) : Option (Nat × Octets) :=
  if octEq (o.take 8) [0x51, 0x43, 0x52, 0x31, 1, 0, 0, 0] ∧ leAt o 60 4 = crc32 (o.take 60) then some (leAt o 8 4, slice o 12 48) else none

/-- The plane's commit state: that of the last programmed page of its commit block. A torn record never commits a plane. -/
def Plane.committed (x : Plane) : Option (Nat × Octets) :=
  match x.records.getLast? with
  | some g => if g.mark = 0 then commitOf g.data else none
  | none => none

/-- A page of the commit block is programmed; a full block is erased first. -/
def addRecord (x : Plane) (g : FlashPage) : Plane := { x with records := (if 128 ≤ x.records.length then [] else x.records) ++ [g] }

/-- A VOID record before a program or erase on a committed code plane. -/
def voidRecord (p id : Nat) (x : Plane) : Plane :=
  if p < 2 ∧ x.committed.isSome then { addRecord x { data := commitRecord 2 0 (zeros 48) } with void := some id } else x

/-- A record whose program was cut or failed its verify, in place of the last one or after it. Its octets are free values. -/
def tornRecord (last : Bool) (d : Dev) (p : Nat) : Dev :=
  let u := drawOct d 64
  let x := plane u.2 p
  planeSet u.2 p (addRecord (if last then { x with records := x.records.dropLast } else x) { data := u.1, mark := 1 })

/-! ### Commands run -/

/-- Bound of a command in passes (Table 17.2). -/
def flsBound (x : Plane) (o : Op) : Nat :=
  let slc := decide (o.plane < 2)
  let com := x.committed.isSome
  if o.opcode = 0xD1 then (if slc then 2 else 3)
  else if o.opcode = 0xD2 then (if slc then (if com then 11 else 6) else if isUpper o.plane o.page then 41 else 13)
  else if o.opcode = 0xD3 then (if slc then (if com then 66 else 61) else 101)
  else if o.opcode = 0xD6 then 2 else if o.opcode = 0xD7 then 66 else 1

/-- A command runs. -/
def flsRun (d : Dev) (o : Op) (next : Nat) : Dev :=
  let p := o.plane
  let x := plane d p
  let a : Op := { o with phase := .admitted, admitAt := d.pas.count, bound := flsBound x o }
  if o.opcode = 0xD2 then
    let x := voidRecord p o.id x
    setOp (planeSet d p { x with state := next, cur := some o.id, wptr := tabSet 0 x.wptr o.block (o.page + 1) })
      { a with input := bufPage d o }
  else if o.opcode = 0xD3 then
    let x := voidRecord p o.id x
    setOp (planeSet d p { x with state := next, erase := some o.id, journal := some o.block }) a
  else setOp (planeSet d p { x with state := next, cur := some o.id }) a

/-- A suspended erase goes on; the time it was suspended for is left out of its bound (R399). -/
def resumeErase (p : Nat) (d : Dev) : Dev :=
  let x := plane d p
  let d := planeSet d p { x with state := 3, suspAt := none, resume := false }
  match x.erase.bind (findOp d) with
  | some o => setOp d { o with bound := o.bound + (d.pas.count - x.suspAt.getD d.pas.count) }
  | none => d

/-- State of a plane once the operation that ran beside its erase, or alone, is over. -/
def Plane.after (x : Plane) : Nat := if x.state = 3 then 3 else if x.state = 4 ∨ x.state = 5 then 4 else 0

/-- The operation running on a plane is taken off it; an erase that a HOST reset asked to resume goes on. -/
def takeCur (p : Nat) (d : Dev) : Dev :=
  let x := plane d p
  let d := planeSet d p { x with cur := none, state := x.after }
  if x.resume ∧ x.after = 4 then resumeErase p d else d

/-- Table 17.3: what a plane's state makes of a command: wait, run in a state, or complete with a status. -/
inductive FlsDecision where
  | wait
  | run (next : Nat)
  | stop (st sub : Nat)
  deriving DecidableEq, Repr

def flsDecide (x : Plane) (eraseBlock : Nat) (o : Op) : FlsDecision :=
  let refuse := FlsDecision.stop St.badDesc 0x23
  let prog := decide (o.opcode = 0xD2 ∨ o.opcode = 0xD7)
  let rd := decide (o.opcode = 0xD1 ∨ o.opcode = 0xD6)
  if o.opcode = 0xD4 then (if x.state = 3 then .run 4 else refuse)
  else if o.opcode = 0xD5 then
    (if x.state = 4 then .run 3 else if x.state = 5 then .wait else refuse)
  else if x.state = 0 then .run (if rd then 1 else if prog then 2 else 3)
  else if x.state = 4 then
    if o.opcode = 0xD3 ∨ o.opcode = 0xD7 ∨ (o.opcode = 0xD2 ∧ o.block = eraseBlock) then refuse
    else if o.opcode = 0xD1 ∧ o.block = eraseBlock then .stop St.denied 0x25
    else if x.cur.isSome then .wait
    else .run (if rd then 4 else 5)
  else if x.state = 5 ∧ o.opcode = 0xD3 then refuse
  else .wait

/-- One command offered: none where it waits. A refusal of Table 17.3 has its place in the order of R12. -/
def flsOffer (d : Dev) (o : Op) : Option Dev :=
  let x := plane d o.plane
  match flsDecide x (x.journal.getD 256) o with
  | .wait => none
  | .stop st sub =>
    let fs := if o.opcode = 0xD4 ∨ o.opcode = 0xD5 then [] else flsFails d o ++ [failIf (flsBufFail d o).isSome St.denied 0]
    some (rejectOp d o ((firstFail (fs ++ [failIf true st sub])).getD (st, sub)))
  | .run next =>
    if o.opcode = 0xD4 ∨ o.opcode = 0xD5 then
      let d := if o.opcode = 0xD5 then resumeErase o.plane d else planeSet d o.plane { x with state := next, suspAt := some d.pas.count }
      some (setOp d { o with phase := .admitted, admitAt := d.pas.count })
    else
      let mpu := flsBufFail d o
      match firstFail (flsFails d o ++ [failIf mpu.isSome St.denied 0]) with
      | some f =>
        let d := match mpu, o.src with
          | some (w, t), .cmd _ m => if f = (St.denied, 0) then mpuRecord m m (if o.opcode = 0xD2 then 2 else 3) w t d else d
          | _, _ => d
        some (rejectOp d o f)
      | none =>
        if o.opcode = 0xD2 then
          (match engRead d 0xB0 o.served 0 o.flsBuf o.flsWords with
           | (true, d) => some (flsRun d o next)
           | (false, d) => some (rejectOp d o (St.denied, 0)))
        else some (flsRun d o next)

/-- Commands of one plane offered in order (R400): one that waits stays; those behind it find a state that refuses them, or wait too. -/
def flsOfferAll (os : List Op) (d : Dev) : Dev := os.foldl (fun d o => (flsOffer d o).getD d) d

/-- Step 7 for one plane: SUSPEND and RESUME ahead of the other commands. A plane whose journal asks for an erase after a reset admits nothing. -/
def flsPlane (d : Dev) (p : Nat) : Dev :=
  if (plane d p).redo then d
  else
    let ready := d.ops.filter (fun o => flsWaits p o && decide (o.eligAt ≤ d.pas.count))
    let s := ready.filter (fun o => decide (o.opcode = 0xD4 ∨ o.opcode = 0xD5))
    let c := ready.filter (fun o => !decide (o.opcode = 0xD4 ∨ o.opcode = 0xD5))
    flsOfferAll c (flsOfferAll s d)

def flsStep (d : Dev) : Dev := (List.range 8).foldl flsPlane d

/-- SUSPEND and RESUME complete at the edge after they took effect. -/
def flsDue (d : Dev) (o : Op) : Dev :=
  if o.phase = .admitted ∧ (o.opcode = 0xD4 ∨ o.opcode = 0xD5) ∧ o.admitAt < d.pas.count then
    endWith d o St.done 0 d.pas.count (d.pas.count - 1)
  else d

/-! ### Completion -/

/-- The command's result, unless its master was reset (R410). -/
def flsEnd (d : Dev) (o : Op) (st sub : Nat) : Dev :=
  if o.dead then dropOp d o.id else endWith d o st sub d.pas.count d.pas.count

/-- A page or row copied to the command's buffer through the controller's MPU. -/
def flsCopy (d : Dev) (o : Op) (data : Octets) : Dev :=
  match engWriteAt d 0xB0 o.served 0 o.flsBuf ((packOct o.dense data).take o.flsWords) with
  | (true, d) => flsEnd d o St.done 0
  | (false, d) => flsEnd d o St.denied 0

/-- Pages of a block taken out. -/
def erasePages (t : Tab FlashPage) (b : Nat) : Tab FlashPage := t.filter (fun e => decide (e.1 / 256 ≠ b))

/-- ERASES of a block, 17 bits, saturating. -/
def addErase (x : Plane) (b : Nat) : Tab Nat := tabSet 0 x.erases b (min (2 ^ 17 - 1) (tabGet 0 x.erases b + 1))

/-- A page whose program failed or was cut: its data, and those of the lower page of an upper one, are free values (R405, Table 17.6). -/
def tornPage (d : Dev) (p : Nat) (t : Tab FlashPage) (b g : Nat) : Dev × Tab FlashPage :=
  let u := drawOct d pageSize
  let t := tabPut t (b * 256 + g) { data := u.1, mark := 1 }
  let q := b * 256 + (pagePair g).2.2
  if isUpper p g ∧ (tabFind t q).isSome then let v := drawOct u.2 pageSize; (v.2, tabPut t q { data := v.1, mark := 2 }) else (u.2, t)

/-- A block whose erase failed or was cut: the data of its programmed pages are free values. -/
def tornBlock (d : Dev) (t : Tab FlashPage) (b : Nat) : Dev × Tab FlashPage :=
  (t.filter (fun e => decide (e.1 / 256 = b))).foldl
    (fun s e => let u := drawOct s.1 pageSize; (u.2, tabPut s.2 e.1 { data := u.1, mark := 1 })) (d, t)

/-- Passes in which a record may still be being programmed: 600 µs, the longest program but that of an upper page. -/
abbrev recordPasses : Nat := 12

/-- What the cut of a program, COMMIT or erase that had begun leaves on its plane (Table 17.6). Where it fell in the VOID or the START record, the target is
as it was: which of the three it was is a free value while a record may still be being programmed (log entry 101). -/
def cutOp (p : Nat) (o : Op) (d : Dev) : Dev :=
  let v := decide ((plane d p).void = some o.id)
  let u := if d.pas.count < o.admitAt + recordPasses ∧ (v ∨ (o.opcode = 0xD3 ∧ (plane d p).state = 3)) then drawWord d else (2, d)
  let cut := u.1.toNat % 3
  let d := u.2
  let x := plane d p
  if o.opcode = 0xD7 then tornRecord false d p
  else if (o.opcode = 0xD2 ∨ o.opcode = 0xD3) ∧ v ∧ cut = 0 then tornRecord true (planeSet d p { x with journal := if o.opcode = 0xD3 then none else x.journal }) p
  else if o.opcode = 0xD3 ∧ cut = 1 then planeSet d p { x with journal := none }
  else if o.opcode = 0xD2 then let u := tornPage d p x.pages o.block o.page; planeSet u.1 p { plane u.1 p with pages := u.2 }
  else if o.opcode = 0xD3 then let u := tornBlock d x.pages o.block; planeSet u.1 p { plane u.1 p with pages := u.2 }
  else d

/-- R359: a word of an operation's buffer failed its check code. -/
def flsWcc (d : Dev) (o : Op) (wcc : Option WccAt) : Option Dev :=
  if o.opcode = 0xD1 ∨ o.opcode = 0xD2 ∨ o.opcode = 0xD6 then opWcc d { o with wcc := wcc } else none

/-- The operation running on a plane ends: `ok` tells that its verify passed, or the read was correctable; `corr` that bits were corrected. -/
def flsCurDone (p : Nat) (ok corr : Bool) (wcc : Option WccAt) (o : Op) (d : Dev) : Dev :=
  let x := plane d p
  let bad := flsWcc d o wcc
  let d := takeCur p (bad.getD d)
  if o.opcode = 0xD1 ∨ o.opcode = 0xD6 then
    if bad.isSome then flsEnd d o St.integrity 0
    else if ¬ ok then flsEnd (rgAdd d Reg.FLS_ECC_FAIL 1) o St.integrity 0x31
    else
      let d := if corr then rgAdd d Reg.FLS_CORRECTED 1 else d
      flsCopy d o (if o.opcode = 0xD6 then calRow else pageData x o.block o.page)
  else if o.opcode = 0xD7 then
    if ¬ ok then flsEnd (tornRecord false d p) o St.integrity 0x32
    else flsEnd (planeSet d p (addRecord (plane d p) { data := commitRecord 1 (o.aux.getD 1 0) (sha384 (bootHdr d p)) })) o St.done 0
  else
    let k := o.block * 256 + o.page
    if ok ∧ bad.isNone then flsEnd (planeSet d p { plane d p with pages := tabPut x.pages k { data := o.input } }) o St.done 0
    else
      let u := tornPage d p x.pages o.block o.page
      let y := { plane u.1 p with pages := u.2 }
      if ok then flsEnd (planeSet u.1 p y) o St.integrity 0
      else flsEnd (planeSet u.1 p { y with bad := tabSet false x.bad o.block true }) o St.integrity 0x32

/-- FLASH_OP_COMPLETE: the operation running on a plane, or else its erase, ends. -/
def flsComplete (p : Nat) (ok corr : Bool) (wcc : Option WccAt) (d : Dev) : Dev :=
  let x := plane d p
  match x.cur.bind (findOp d) with
  | some o => flsCurDone p ok corr wcc o d
  | none =>
    if x.state ≠ 3 then d
    else match x.erase.bind (findOp d) with
    | none => d
    | some o =>
      let b := o.block
      let x := { x with state := 0, erase := none, journal := none, erases := addErase x b, wptr := tabSet 0 x.wptr b 0 }
      if ok then flsEnd (planeSet d p { x with pages := erasePages x.pages b }) o St.done 0
      else
        let u := tornBlock d x.pages b
        flsEnd (planeSet u.1 p { x with pages := u.2, bad := tabSet false x.bad b true }) o St.integrity 0x32

/-! ### Window control (R406) -/

/-- Does the plane hold a program or an erase, suspended or not? -/
def planeBusy (d : Dev) (p : Nat) : Bool := decide (2 ≤ (plane d p).state)

/-- FLS_XIP_CTL_WRITE: by K at P0 alone. A write that sets a bit while its plane is busy is dropped and sets ERR. -/
def xipWrite (m pl : Nat) (v : Word) (d : Dev) : Dev :=
  let w := rg d Reg.FLS_XIP_CTL
  let err := bit w 2 && !bit v 2
  if ¬ (m = 1 ∧ pl = 0) then d
  else if (bit v 0 ∧ planeBusy d 0) ∨ (bit v 1 ∧ planeBusy d 1) then rgSet d Reg.FLS_XIP_CTL (setBit w 2 true)
  else rgSet d Reg.FLS_XIP_CTL (pack [(0, fld v 1 0), (2, b2n err)])

/-! ### Resets, power loss and operations given up (R410, R411, Table 17.6) -/

/-- A plane is given up by an operation that a FENCE or its bound ends early (R39, R57): what it was changing is undefined. An erase leaves its START without
DONE. -/
def leavePlane (d : Dev) (o : Op) : Dev :=
  if ¬ (0xD1 ≤ o.opcode ∧ o.opcode ≤ 0xD7) then d
  else
    let x := plane d o.plane
    if x.cur = some o.id then takeCur o.plane (cutOp o.plane o d)
    else if x.erase = some o.id then
      let d := cutOp o.plane o d
      let y := plane d o.plane
      planeSet d o.plane { y with erase := none, suspAt := none, resume := false,
                                  state := match y.cur.bind (findOp d) with | some c => (if c.opcode = 0xD2 then 2 else 1) | none => 0 }
    else d

/-- A HOST reset: queued commands are discarded, results of running ones too, and a suspended erase resumes. -/
def flsHostReset (d : Dev) : Dev :=
  let fl := fun (o : Op) => decide (0xD1 ≤ o.opcode) && decide (o.opcode ≤ 0xD7) && (match o.src with | .cmd _ _ => true | _ => false)
  let keep := d.ops.filter (fun o => !fl o || (decide (o.phase = .admitted) && decide (o.opcode ≠ 0xD4 ∧ o.opcode ≠ 0xD5)))
  let d := { d with ops := keep.map (fun o => if fl o then { o with dead := true } else o) }
  (List.range 8).foldl (fun d p =>
    let x := plane d p
    if x.state = 4 then resumeErase p d else if x.state = 5 then planeSet d p { x with resume := true } else d) d

/-- What a cut leaves on one plane. -/
def flsCutPlane (d : Dev) (p : Nat) : Dev :=
  let x := plane d p
  let d := ((x.cur.bind (findOp d)).toList ++ (x.erase.bind (findOp d)).toList).foldl (fun d o => cutOp p o d) d
  let y := plane d p
  planeSet d p { y with state := 0, cur := none, erase := none, resume := false, suspAt := none, void := none, wptr := [], redo := y.journal.isSome }

/-- A COLD or KEEP reset, or power loss. -/
def flsCut (d : Dev) : Dev := (List.range 8).foldl flsCutPlane d

/-- FLASH_CONTROLLER_RELEASE: a block whose journal ends in START is erased again. -/
def flsRelease (d : Dev) : Dev :=
  (List.range 8).foldl (fun d p =>
    let x := plane d p
    match x.redo, x.journal with
    | true, some b =>
      let d := planeSet d p { x with journal := none, redo := false, pages := erasePages x.pages b, erases := addErase x b }
      rgSet (rgAdd d Reg.FLS_ERASE_REDO 1) Reg.FLS_RECORD (pack [(0, p), (3, b), (35, 1)])
    | _, _ => d) d

/-! ### Registers (Table 17.8) -/

def flsStateWord (d : Dev) : Word := pack ((List.range 8).map (fun p => (3 * p, (plane d p).state)))

/-- FLS_BLOCK_INFO of the block a master selected. -/
def flsBlockInfo (d : Dev) (m : Nat) : Word :=
  let s := pv d m Reg.FLS_SEL
  let p := fld s 2 0
  let x := plane d p
  let b := fld s 10 3
  let e := tabGet 0 x.erases b
  pack [(0, e), (17, tabGet 0 x.wptr b), (26, b2n (decide ((if p < 2 then 50000 else 3000) < e))), (27, b2n (tabGet false x.bad b))]

/-- FLS_PAIR of the page a master wrote. -/
def flsPairWord (d : Dev) (m : Nat) : Word :=
  let g := fld (pv d m Reg.FLS_PAIR) 7 0
  let r := pagePair g
  pack [(0, g), (8, r.1), (9, r.2.1), (16, r.2.2)]

def flsCommitWord (d : Dev) (p : Nat) : Word :=
  match (plane d p).committed with
  | some (g, _) => pack [(0, 1), (1, g)]
  | none => 0

end Sys2Proof.Machine
end

