-- ==== Sys2Proof/Machine/Cards.lean ====
section
/-! DEFINITION. Audit cards (chapter 18): the sealed audit chain, the SD slots, identification and the write path. -/

namespace Sys2Proof.Machine

def onSdh (d : Dev) (f : SdHost → SdHost) : Dev := { d with sdh := f d.sdh }
def sdSlot (d : Dev) (s : Nat) : SdSlot := tabGet {} d.sdh.slots s
def sdSlotSet (d : Dev) (s : Nat) (x : SdSlot) : Dev := onSdh d (fun h => { h with slots := tabSet {} h.slots s x })

/-! ### Audit records (Table 18.2) -/

abbrev bodyMax : Nat := 432
abbrev auditRoom : Nat := 256

/-- An audit record sealed under a key: kind, appender, sequence number, body and the MAC of the record before. -/
def auditRecord (d : Dev) (key : Octets) (kind origin seq : Nat) (prev body : Octets) : Octets :=
  let m := [0x51, 0x41, 0x52, 0x31] ++ leOct 2 1 ++ leOct 1 kind ++ leOct 1 origin ++ leOct 6 seq ++ leOct 2 body.length ++
    leOct 8 d.pas.count ++ leOct 6 (siteNow d) ++ zeros 2 ++ fitTo 16 d.life.devid ++ fitTo 16 prev ++ fitTo 432 body
  m ++ cmac key m

def recKind (r : Octets) : Nat := leAt r 6 1
def recSeq (r : Octets) : Nat := leAt r 8 6
def recMac (r : Octets) : Octets := slice r 496 16

/-- R420: is a block a valid record of this device? -/
def recValid (d : Dev) (r : Octets) : Bool :=
  match d.sdh.key with
  | some k => octEq (r.take 4) [0x51, 0x41, 0x52, 0x31] && octEq (slice r 32 16) (fitTo 16 d.life.devid) && octEq (recMac r) (cmac k (r.take 496))
  | none => false

/-- R417: PREV_MAC of the record sealed next: of the record before, zero for the first record ever sealed. Where a reset has lost the chain head and no
RESTART has been sealed since, the manual gives no value: free octets (log entry 99). -/
def prevMac (d : Dev) : Octets × Dev :=
  if d.sdh.head.isEmpty ∧ d.sdh.ever then drawOct d 16 else (fitTo 16 d.sdh.head, d)

/-- A record is sealed with the next value of counter 5 and becomes the chain head. -/
def sealWith (kind origin : Nat) (prev body : Octets) (d : Dev) : AuditRec × Dev :=
  let d := moncInc d 5
  let seq := monc d 5
  let r := auditRecord d (d.sdh.key.getD []) kind origin seq prev body
  (⟨seq, r⟩, onSdh d (fun h => { h with head := recMac r, headSeq := seq, ever := true }))

/-- R417: a record is sealed, linked to the record sealed before it. -/
def sdhSeal (kind origin : Nat) (body : Octets) (d : Dev) : AuditRec × Dev :=
  let p := prevMac d
  sealWith kind origin p.1 body p.2

/-- A record put at the end of the buffer. -/
def bufAdd (r : AuditRec) (d : Dev) : Dev := onSdh d (fun h => { h with buffer := h.buffer ++ [r] })

/-- May a record be sealed now: a key copy is held, and the device is not in HOLD? -/
def maySeal (d : Dev) : Bool := d.sdh.key.isSome && !d.keep.hold

/-! ### Classification (R420, R423, R424) -/

/-- A block of the card; one not listed is all zero. -/
def SdSlot.block (x : SdSlot) (b : Nat) : Octets := fitTo 512 ((tabFind x.data b).getD [])

def blankBlock (o : Octets) : Bool := o.all (fun b => decide (b = 0)) || o.all (fun b => decide (b = 0xFF))

/-- The highest block that is not blank. -/
def topBlock (x : SdSlot) : Option Nat := ((x.data.filter (fun e => !blankBlock (x.block e.1))).map (·.1)).getLast?

/-- The tail: the highest valid record among the last three blocks in use. -/
def tailOf (d : Dev) (x : SdSlot) : Option Octets :=
  match topBlock x with
  | none => none
  | some w => (([w, w - 1, w - 2].filter (fun b => decide (w ≤ b + 2))).map x.block).find? (recValid d)

/-- State of an identified card. -/
def classOf (d : Dev) (x : SdSlot) : Nat :=
  let t := tailOf d x
  let own := recValid d (x.block 0) && decide (recKind (x.block 0) = 2)
  if own ∧ (t.map recKind) = some 3 then 6
  else if x.perm ∨ x.tmp then 7
  else if blankBlock (x.block 0) then 3
  else if own ∧ t.isSome then 5
  else 4

/-- R424: the RESTART record owed after a reset is sealed for the card in a slot that a tail of its own made OPEN: its first record from then on. In HOLD
it waits. After a KEEP reset SEQ resumes at the tail's. -/
def restartRecord (s : Nat) (d : Dev) : Dev :=
  let x := sdSlot d s
  if d.sdh.restart = 0 ∨ ¬ maySeal d ∨ x.state ≠ 5 ∨ ¬ x.old then d
  else
    let from_ := x.last + 1
    let last := monc d 5
    let lost := decide (d.sdh.restart = 1) && decide (from_ ≤ last)
    let d := if d.sdh.restart = 2 then { d with keep := { d.keep with monc := tabSet 0 d.keep.monc 5 (max x.last last) } } else d
    let r := sealWith 4 0xB8 x.tailMac (if lost then leOct 6 from_ ++ leOct 6 last else zeros 12) d
    onSdh (sdSlotSet r.2 s { sdSlot r.2 s with owed := some r.1 }) (fun h => { h with restart := 0 })

/-- The record first in line: the lowest SEQ among those in the buffer and those whose own write was lost. -/
def firstRecord (d : Dev) : Option AuditRec :=
  match d.sdh.spare, d.sdh.buffer with
  | a :: _, b :: _ => some (if a.seq < b.seq then a else b)
  | a :: _, [] => some a
  | [], b :: _ => some b
  | [], [] => none

/-- The record first in line has been written. -/
def dropFirst (d : Dev) : Dev :=
  match firstRecord d with
  | none => d
  | some r => onSdh d (fun h =>
      if h.spare.head? = some r then { h with spare := h.spare.drop 1 } else { h with buffer := h.buffer.drop 1 })

/-- A record has been written, or is found written: SDH_WRITTEN_SEQ. -/
def noteWritten (seq : Nat) (d : Dev) : Dev := onSdh d (fun h => { h with written := max h.written seq })

/-- Past the block that either slot recorded as spent on the card (R423). -/
def pastSpent (d : Dev) (cid : Octets) : Nat :=
  [0, 1].foldl (fun n s => match (sdSlot d s).spent with
    | some (b, c) => if octEq c cid then max n (b + 1) else n
    | none => n) 0

/-- A card is classified: its next block, and what its tail says of the buffer. -/
def classify (s : Nat) (d : Dev) : Dev :=
  let x := sdSlot d s
  let st := classOf d x
  let w := (topBlock x).getD 0
  let t := (tailOf d x).getD []
  if st ≠ 5 then sdSlotSet d s { x with state := st, next := 0, old := false }
  else
    let d := sdSlotSet d s { x with state := 5, next := max (w + 1) (pastSpent d x.cid), first := recSeq (x.block 0), last := recSeq t, old := true,
                                    tailMac := recMac t }
    let d := match firstRecord d with
      | some r => if r.seq = recSeq t then noteWritten r.seq (dropFirst d) else d
      | none => d
    restartRecord s d

/-! ### Insertion, identification, removal -/

/-- CARD_INSERTION. -/
def cardInsert (s : Nat) (d : Dev) : Dev :=
  let x := sdSlot d s
  if 2 ≤ s ∨ x.state ≠ 0 then d else sdSlotSet d s { spent := x.spent, state := 1, since := d.pas.count }

/-- R414: the commands of identification in their order, as index and argument (an application command follows its CMD55), and the sub-code they end
with: CMD8's echo wrong 0x41, ACMD41 not ready within 1 s 0x42. ACMD41 is sent every 10 ms, with HCS for a version 2.00 card and the 3.3 V window
(log entry 87). -/
def identCmds (c : SdCard) : List (Nat × Nat) × Nat :=
  let start := [(0, 0), (8, 0x1AA)]
  let t := c.ready.getD 1001
  let polls := (List.range (min t 1000 / 10 + 1)).flatMap (fun _ => [(55, 0), (41, (if c.cmd8.isSome then 2 ^ 30 else 0) + 0xFF8000)])
  let rca := c.rca * 2 ^ 16
  if c.cmd8 ≠ none ∧ c.cmd8 ≠ some 0x1AA then (start, 0x41)
  else if 1000 < t then (start ++ polls, 0x42)
  else (start ++ polls ++ [(2, 0), (3, 0), (9, rca), (7, rca), (55, rca), (51, 0)] ++ (if c.wide then [(55, rca), (6, 2)] else []) ++
    (if c.hs then [(6, 0x80FFFFF1)] else []) ++ (if cardType c = 0 then [(16, 512)] else []), 0)
where
  /-- Its type: 0 SDSC, 1 SDHC, 2 SDXC. HCS, and so CCS, is for version 2.00 cards; SDXC begins above 32 GiB (log entry 87). -/
  cardType (c : SdCard) : Nat := if c.cmd8.isNone ∨ ¬ c.ccs then 0 else if c.blocks ≤ 2 ^ 26 then 1 else 2

/-- R415: commands as they go out, each retried twice at most after a missing response or a CRC error, and whether a third failure ended them. -/
def retried : List (Nat × Nat) → List Nat → List (Nat × Nat) × Bool
  | [], _ => ([], false)
  | c :: r, fs =>
    if 3 ≤ fs.headD 0 then (List.replicate 3 c, true)
    else let x := retried r (fs.drop 1); (List.replicate (fs.headD 0 + 1) c ++ x.1, x.2)

/-- R414: sub-code of a failed identification; 0 where it succeeds. -/
def cardSub (c : SdCard) : Nat := let s := identCmds c; if (retried s.1 c.fails).2 then 0x40 else s.2

/-- The passes of a slot's debounce, and of the longest identification (R413, R414). -/
def sdDebounce : Nat := 400
def identPasses : Nat := 24000

/-- CARD_IDENTIFICATION, within the time from the end of the debounce. -/
def cardIdentify (s : Nat) (c : SdCard) (d : Dev) : Dev :=
  let x := sdSlot d s
  let x := { x with sent := (retried (identCmds c).1 c.fails).1, sub := cardSub c }
  if 2 ≤ s ∨ x.state ≠ 1 ∨ d.pas.count < x.since + sdDebounce ∨ x.since + sdDebounce + identPasses < d.pas.count then d
  else if cardSub c ≠ 0 then sdSlotSet d s { x with state := 2 }
  else
    let data := c.data.foldl (fun t e => if e.1 < c.blocks then tabSet [] t e.1 (fitTo 512 e.2) else t) []
    classify s (sdSlotSet d s { x with type := identCmds.cardType c, wide := c.wide, hs := c.hs, clk := if c.hs then 2 else 1, rca := c.rca, perm := c.perm,
                                       tmp := c.tmp, blocks := c.blocks, cid := fitTo 16 c.cid, data := data })

/-- R414: an identification that has not ended in its time leaves the slot FAILED. DEDUCED (log entry 99): with the sub-code of a card that is not ready. -/
def identExpire (s : Nat) (d : Dev) : Dev :=
  let x := sdSlot d s
  if x.state = 1 ∧ x.since + sdDebounce + identPasses < d.pas.count then sdSlotSet d s { x with state := 2, sub := 0x42 } else d

/-- The address a card takes for a block: SDSC cards count octets. -/
def SdSlot.addr (x : SdSlot) (b : Nat) : Nat := if x.type = 0 then b * 512 else b

/-- The command that opens or closes a slot. -/
def slotOp (d : Dev) (s : Nat) : Option Op :=
  d.ops.find? (fun o => decide (o.phase = .admitted) && decide (o.opcode = 0xE3 ∨ o.opcode = 0xE4) && decide (o.aux.getD 0 0 = s))

/-- The command that opens or closes a slot ends. -/
def slotOpEnd (s st sub : Nat) (d : Dev) : Dev :=
  match slotOp d s with
  | some o => endWith d o st sub d.pas.count d.pas.count
  | none => d

/-- A record whose own write was lost waits beside the buffer, in SEQ order. -/
def spareAdd (r : AuditRec) (d : Dev) : Dev := onSdh d (fun h => { h with spare := insertBy (·.seq) r h.spare })

/-- An open or close under way on a slot is given up, and a RESTART not yet written to its card; the records wait for another card. -/
def dropSpecial (s : Nat) (d : Dev) : Dev :=
  let d := match (sdSlot d s).owed with
    | some r => spareAdd r (sdSlotSet d s { sdSlot d s with owed := none })
    | none => d
  match d.sdh.busy with
  | some (b, _) =>
    if b ≠ s then d
    else
      let d := match d.sdh.special with | some r => spareAdd r d | none => d
      onSdh d (fun h => { h with busy := none, special := none })
  | none => d

/-- What a slot writes next. -/
inductive SdWrite where
  | open_
  | close
  | restart
  | plain
  deriving DecidableEq, Repr

/-- The record a slot writes next: of the open or close under way; else the RESTART owed to its card, or of the writer the record first in line, while the
last block stays free for CARD_CLOSE (R422). -/
def nextRecord (d : Dev) (s : Nat) : Option (SdWrite × AuditRec) :=
  let x := sdSlot d s
  match d.sdh.busy with
  | some (b, c) => if b = s ∧ x.next < x.blocks then d.sdh.special.map (fun r => (if c then .close else .open_, r)) else none
  | none =>
    if x.blocks ≤ x.next + 1 then none
    else match x.owed with
    | some r => some (.restart, r)
    | none => if d.sdh.writer = some s then (firstRecord d).map (fun r => (.plain, r)) else none

/-- The result of a record write that no command asked for is presented to H0 at the next edge (Table 18.5; log entry 99). -/
def writeReport (s st sub : Nat) (d : Dev) : Dev := pushInput d 0x10 1 0xB8 d.pas.count [0, st, sub, s]

/-- A write ends without its record: a command's write ends the command, any other is reported. -/
def writeEnds (s st sub : Nat) (d : Dev) : Dev :=
  if (slotOp d s).isSome then slotOpEnd s st sub d else if (nextRecord d s).isSome then writeReport s st sub d else d

/-- R423: the block of the write under way is spent. -/
def spendBlock (s : Nat) (d : Dev) : Dev := let x := sdSlot d s; sdSlotSet d s { x with spent := some (x.next, x.cid), next := x.next + 1, wrAt := none }

/-- A READ or PROTECT_PERM under way on a slot. -/
def slotUse (s : Nat) (o : Op) : Bool :=
  decide (o.phase = .admitted) && (decide (o.opcode = 0xE2) || decide (o.opcode = 0xE5)) && decide (o.aux.getD 0 0 % 2 = s)

/-- CARD_REMOVAL: `sent` tells that CMD24 of a write had been sent (R423, Table 18.4). -/
def cardRemove (s : Nat) (sent : Bool) (d : Dev) : Dev :=
  let x := sdSlot d s
  if 2 ≤ s ∨ x.state = 0 then d
  else
    let spent := if sent && (nextRecord d s).isSome then some (x.next, x.cid) else x.spent
    let d := dropSpecial s (writeEnds s St.cardAbsent 1 d)
    let d := sdSlotSet d s { spent := spent }
    let d := if d.sdh.writer = some s then onSdh d (fun h => { h with writer := none }) else d
    (d.ops.filter (slotUse s)).foldl (fun d o => endWith d o St.cardAbsent 1 d.pas.count d.pas.count) d

/-! ### The write path (R421 to R423) -/

/-- A block written to the card, with the commands that did it. -/
def putBlock (x : SdSlot) (r : AuditRec) (cmds : List (Nat × Nat)) : SdSlot :=
  { x with data := tabSet [] x.data x.next r.data, next := x.next + 1, last := r.seq, first := if x.next = 0 then r.seq else x.first, sent := cmds, wrAt := none }

/-- R415: a third card error leaves the slot FAILED; the operation under way on it ends. -/
def slotFails (s : Nat) (d : Dev) : Dev :=
  let d := dropSpecial s (writeEnds s St.integrity 0x40 d)
  let d := sdSlotSet d s { sdSlot d s with state := 2, sub := 0x40, wrAt := none }
  if d.sdh.writer = some s then onSdh d (fun h => { h with writer := none }) else d

/-- Has the write under way met a busy of more than 10,000 passes (R415)? -/
def writeLate (d : Dev) (s : Nat) : Bool := match (sdSlot d s).wrAt with | some w => decide (w + 10000 < d.pas.count) | none => false

/-- SD_BUSY_TIMEOUT: a busy beyond 10,000 passes ends the write with TIMEOUT 0x01; its block is spent and the record stays (R415, R423). -/
def busyTimeout (s : Nat) (d : Dev) : Dev := if writeLate d s ∧ (nextRecord d s).isSome then spendBlock s (writeEnds s St.timeout 1 d) else d

/-- RECORD_WRITE: the card took the record, after so many tries that met no response or a CRC error; a third ends the write (R415). A failure with no
record to write is that of a READ or PROTECT_PERM under way (log entry 87). -/
def recordWrite (s fails : Nat) (d : Dev) : Dev :=
  let x := sdSlot d s
  match nextRecord d s with
  | none => if 3 ≤ fails ∧ d.ops.any (slotUse s) then slotFails s d else d
  | some (k, r) =>
    let rca := x.rca * 2 ^ 16
    let cmds := List.replicate (min fails 2 + 1) (24, x.addr x.next) ++ [(13, rca)]
    if writeLate d s then busyTimeout s d
    else if 3 ≤ fails then spendBlock s (slotFails s (sdSlotSet d s { x with sent := cmds }))
    else
      noteWritten r.seq (match k with
      | .open_ =>
        let d := sdSlotSet d s { putBlock x r cmds with state := 5, old := false }
        slotOpEnd s St.done 0 (onSdh d (fun h => { h with busy := none, special := none, writer := some (h.writer.getD s) }))
      | .close =>
        let d := sdSlotSet d s { putBlock x r (cmds ++ [(27, 0), (13, rca)]) with state := 6, tmp := true }
        let wr := if d.sdh.writer = some s then none else d.sdh.writer
        slotOpEnd s St.done 0 (onSdh d (fun h => { h with busy := none, special := none, writer := wr }))
      | .restart => sdSlotSet d s { putBlock x r cmds with owed := none }
      | .plain => dropFirst (sdSlotSet d s (putBlock x r cmds)))

/-- Slots in the order the SD host looks at them: PREFER first. -/
def slotOrder (d : Dev) : List Nat := if bit (rg d Reg.SDH_CTL) 1 then [1, 0] else [0, 1]

/-- A slot's card is opened: a CARD_OPEN record for block 0. -/
def startOpen (s : Nat) (d : Dev) : Dev :=
  let r := sdhSeal 2 0xB8 (sdSlot d s).cid d
  onSdh (sdSlotSet r.2 s { sdSlot r.2 s with next := 0 }) (fun h => { h with busy := some (s, false), special := some r.1 })

/-- A slot's card is closed: a CARD_CLOSE record naming the SEQs it holds. -/
def startClose (s : Nat) (d : Dev) : Dev :=
  let x := sdSlot d s
  let r := sdhSeal 3 0xB8 (leOct 6 x.first ++ leOct 6 x.last) d
  onSdh r.2 (fun h => { h with busy := some (s, true), special := some r.1 })

/-- The moment from which a slot's write under way is timed. -/
def markWrite (s : Nat) (d : Dev) : Dev :=
  let x := sdSlot d s
  sdSlotSet d s { x with wrAt := if (nextRecord d s).isSome then some (x.wrAt.getD d.pas.count) else none }

/-- R421: the writer is chosen; a BLANK card is opened where AUTO_OPEN allows. -/
def chooseWriter (d : Dev) : Dev :=
  let usable := fun s => decide ((sdSlot d s).state = 5) && decide ((sdSlot d s).next < (sdSlot d s).blocks)
  let d := match d.sdh.writer with
    | some s => if usable s then d else onSdh d (fun h => { h with writer := none })
    | none => d
  if d.sdh.writer.isSome then d else
    match (slotOrder d).find? usable with
    | some s => onSdh d (fun h => { h with writer := some s })
    | none =>
      match (slotOrder d).find? (fun s => decide ((sdSlot d s).state = 3)) with
      | some s => if bit (rg d Reg.SDH_CTL) 0 ∧ maySeal d ∧ d.sdh.busy.isNone then startOpen s d else d
      | none => d

/-- R422: the writer's card is closed at its last block. -/
def closeLast (d : Dev) : Dev :=
  match d.sdh.writer with
  | some s =>
    let x := sdSlot d s
    if d.sdh.busy.isNone ∧ x.next + 1 = x.blocks ∧ maySeal d then startClose s d else d
  | none => d

/-- What the SD host does at each edge. -/
def sdhEdge (d : Dev) : Dev :=
  let each := fun (f : Nat → Dev → Dev) (d : Dev) => [0, 1].foldl (fun d s => f s d) d
  each markWrite (closeLast (chooseWriter (each restartRecord (each identExpire d))))

/-! ### SDH_CMD -/

/-- SDH_CMD: arguments out of their fields, or not zero though the ACTION does not use them: that those must be zero is the model's reading of R478 for
Table 18.9 (DESIGN CHOICE, log entry 75). -/
def sdhArgsBad (action : Nat) (a : List Nat) : Bool :=
  let g := fun i => a.getD i 0
  if action = 1 then decide (1 < g 2) || decide (g 3 ≠ 0)
  else if action = 2 then decide (2 ^ 33 ≤ g 0) || decide (1 < g 3)
  else decide (1 < g 0) || decide (g 1 ≠ 0) || decide (g 2 ≠ 0) || decide (g 3 ≠ 0)

/-- A write to SDH_CMD by K, or H0 to H7 at P0 or P1; PROTECT_PERM at P0 alone (R416). READ and PROTECT_PERM run in HOLD. -/
def sdhCmd (m pl action : Nat) (d : Dev) (wcc : Option WccAt := none) : Dev :=
  if ¬ keyCmdMaster m pl ∨ (action = 5 ∧ m ≠ 1 ∧ pl ≠ 0) then d
  else
    let a := cmdArgs d m Reg.SDH_ARG 4
    let bad := decide (action = 0) || decide (5 < action) || sdhArgsBad action a
    let dense := if action = 1 then decide (a.getD 2 0 = 1) else if action = 2 then decide (a.getD 3 0 = 1) else false
    cmdIssue 0x14 m (if bad then Cmd.reserved else 0xE0 + action) dense a (decide (action = 2 ∨ action = 5)) d pl wcc

/-- SDH_CMD_SEQ of the master. -/
def noteSeq (m seq : Nat) (d : Dev) : Dev := onSdh d (fun h => { h with appended := tabSet 0 h.appended m seq })

/-- A command's buffer, against the issuing core's regions (R350): the refused word and its DETAIL. -/
def cmdBufFail (d : Dev) (o : Op) (right a n : Nat) : Option (Nat × Nat) :=
  match o.src with
  | .cmd _ m => refusedIn d m 0 o.pl right a n
  | _ => none

/-- A command ends with the first condition found; a refused buffer is recorded when it is what the command ends with. -/
def cmdReject (d : Dev) (o : Op) (right : Nat) (mpu : Option (Nat × Nat)) (f : Fail) : Dev :=
  let d := match mpu, o.src with
    | some (w, t), .cmd _ m => if f = (St.denied, 0) then mpuRecord m m (if right = 0 then 2 else 3) w t d else d
    | _, _ => d
  rejectOp d o f

/-- APPEND offered (R418): none where it waits. At its admission the record is sealed and enters the buffer; the result is presented at the next edge. -/
def appendAdmit (d : Dev) (o : Op) : Option Dev :=
  let a := o.aux.getD 0 0
  let n := o.aux.getD 1 0
  let words := packLen o.dense n
  let long := decide (bodyMax < n)
  let mpu := if long then none else cmdBufFail d o 0 a words
  match firstFail [failIf long St.length 1, failIf mpu.isSome St.denied 0, failIf d.sdh.key.isNone St.keyInvalid 1] with
  | some f => some (cmdReject d o 0 mpu f)
  | none =>
    if budgetLeft d Reg.SDH_APPEND_BUDGET = 0 ∨ auditRoom ≤ d.sdh.buffer.length then none
    else match engRead d 0xB8 o.served 1 a words with
    | (false, d) => some (rejectOp d o (St.denied, 0))
    | (true, d) =>
      match opWcc d o with
      | some d => some (rejectOp d o (St.integrity, 0))
      | none =>
        let r := sdhSeal 1 o.served (memAnyOct d o.dense a n) (debit d Reg.SDH_APPEND_BUDGET 1)
        some (setOp (bufAdd r.1 r.2) { o with phase := .admitted, admitAt := d.pas.count, bound := 1, aux := [r.1.seq] })

/-- The edge after an append's admission: its SEQ and its result. -/
def appendDue (d : Dev) (o : Op) : Dev :=
  if o.phase = .admitted ∧ o.opcode = 0xE1 ∧ o.admitAt < d.pas.count then
    endWith (noteSeq o.served (o.aux.getD 0 0) d) o St.done 0 d.pas.count (d.pas.count - 1)
  else d

def readFirst (o : Op) : Nat := o.aux.getD 0 0 / 2
def readSlot (o : Op) : Nat := o.aux.getD 0 0 % 2
def readCount (o : Op) : Nat := o.aux.getD 1 0

/-- READ offered (R425): it completes at the next edge. -/
def sdReadAdmit (d : Dev) (o : Op) : Dev :=
  let x := sdSlot d (readSlot o)
  let n := readCount o
  let away := decide (x.state ≤ 2)
  let long := decide (64 < n) || (!away && decide (x.blocks < readFirst o + n))
  let mpu := if long then none else cmdBufFail d o 1 (o.aux.getD 2 0) (packLen o.dense (512 * n))
  match firstFail [failIf (decide (n = 0)) St.badDesc 1, failIf long St.length 1, failIf mpu.isSome St.denied 0, failIf away St.cardAbsent 1] with
  | some f => cmdReject d o 1 mpu f
  | none => setOp d { o with phase := .admitted, admitAt := d.pas.count, bound := 4 }

/-- The commands of a READ: CMD17 for one block, CMD18 and CMD12 for more. -/
def readCmds (x : SdSlot) (first n : Nat) : List (Nat × Nat) := if n = 1 then [(17, x.addr first)] else [(18, x.addr first), (12, 0)]

/-- The edge after the admission of a READ or a PROTECT_PERM: it completes, unless its card has failed. -/
def sdReadDue (d : Dev) (o : Op) : Dev :=
  if o.phase = .admitted ∧ (o.opcode = 0xE2 ∨ o.opcode = 0xE5) ∧ o.admitAt < d.pas.count then
    let s := readSlot o
    let x := sdSlot d s
    let end_ := fun (d : Dev) (st sub : Nat) => endWith d o st sub d.pas.count (d.pas.count - 1)
    if x.state = 2 then end_ d St.integrity 0x40
    else if o.opcode = 0xE5 then end_ (sdSlotSet d s { x with perm := true, sent := [(27, 0), (13, x.rca * 2 ^ 16)] }) St.done 0
    else
      let data := (List.range (readCount o)).flatMap (fun i => x.block (readFirst o + i))
      let d := sdSlotSet d s { x with sent := readCmds x (readFirst o) (readCount o) }
      match engWriteAt d 0xB8 o.served 1 (o.aux.getD 2 0) (packOct o.dense data) with
      | (false, d) => end_ d St.denied 0
      | (true, d) => match opWcc d o with | some d => end_ d St.integrity 0 | none => end_ d St.done 0
  else d

/-- OPEN, CLOSE and PROTECT_PERM offered: none where another open or close is under way. A card with no block left for CARD_CLOSE takes no CLOSE
(DESIGN CHOICE, log entry 99). -/
def sdSlotAdmit (d : Dev) (o : Op) : Option Dev :=
  let s := o.aux.getD 0 0
  let x := sdSlot d s
  let need := if o.opcode = 0xE3 then 3 else if o.opcode = 0xE4 then 5 else 6
  let sealing := decide (o.opcode ≠ 0xE5)
  match firstFail [failIf (decide (x.state ≠ need) || (decide (o.opcode = 0xE4) && decide (x.blocks ≤ x.next))) St.badDesc 2,
      failIf (sealing && d.sdh.key.isNone) St.keyInvalid 1, failIf (sealing && decide (x.state = 7)) St.writeProt 1] with
  | some f => some (rejectOp d o f)
  | none =>
    if sealing ∧ d.sdh.busy.isSome then none
    else
      let d := setOp d { o with phase := .admitted, admitAt := d.pas.count, bound := if sealing then 10000 else 1 }
      some (if o.opcode = 0xE3 then startOpen s d else if o.opcode = 0xE4 then startClose s d else d)

/-- Step 7 for the SD host: masters in rotation. -/
def sdhStep (d : Dev) : Dev :=
  (rotation 9 d.pas.count).foldl (fun d i =>
    match d.ops.find? (fun o => decide (o.phase = .staged) && decide (o.eligAt ≤ d.pas.count) && decide (o.src = .cmd 0x14 (drawMaster i))) with
    | none => d
    | some o =>
      if o.opcode = 0xE1 then (appendAdmit d o).getD d
      else if o.opcode = 0xE2 then sdReadAdmit d o
      else (sdSlotAdmit d o).getD d) d
where
  /-- K and H0 to H7 by index. -/
  drawMaster (i : Nat) : Nat := if i = 0 then 1 else 0x0F + i

/-- R419: a chamber that names the audit key opens; cards are classified again under it. -/
def sdhOpen (d : Dev) : Dev :=
  if hasEntry d Reg.SDH_AUDIT_SLOT then
    let d := onSdh d (fun h => { h with key := macKey (slotGet d (fld (rg d Reg.SDH_AUDIT_SLOT) 13 0)) })
    [0, 1].foldl (fun d s => if 4 ≤ (sdSlot d s).state ∧ d.sdh.busy.isNone then classify s d else d) d
  else d

/-- R424: what a HOST reset loses; after a KEEP reset counter 5 is lost too. A seated card is identified again, but one that has FAILED stays so until it is
removed (R414). -/
def sdhReset (keep : Bool) (d : Dev) : Dev :=
  let again : SdSlot → SdSlot := fun x =>
    if x.state = 0 then x else if x.state = 2 ∧ ¬ keep then { x with owed := none, wrAt := none, sent := [] }
    else { state := 1, since := d.pas.count, spent := x.spent, data := x.data, cid := x.cid }
  onSdh d (fun h => { restart := if keep ∨ h.restart = 2 then 2 else 1, ever := h.ever, slots := h.slots.map (fun e => (e.1, again e.2)) })

/-! ### Registers (Table 18.9) -/

def sdhStateWord (d : Dev) : Word :=
  pack [(0, b2n d.sdh.key.isSome), (1, d.sdh.writer.getD 2), (3, min 511 d.sdh.buffer.length)]

def sdSlotWord (d : Dev) (s k : Nat) : Word :=
  let x := sdSlot d s
  if k = 0 then pack [(0, x.state), (4, x.type), (6, b2n x.wide), (7, b2n x.hs), (8, b2n x.perm), (9, b2n x.tmp), (10, x.sub)]
  else if k = 1 then wd x.blocks
  else if k = 2 then wd x.next
  else if k = 3 then (match x.spent with | some (b, _) => pack [(0, b % 2 ^ 32), (35, 1)] | none => 0)
  else wd (leAt x.cid (4 * (k - 4)) 4)

/-- Table 18.11, SDH. -/
def levelSdh (d : Dev) : List LRule :=
  let s := slotGet d (cv d Reg.SDH_AUDIT_SLOT % 16384)
  [ ⟨1, decide (s.state ≠ 1) || decide (s.alg ≠ 3) || decide (s.usage ≠ 4), [Reg.SDH_AUDIT_SLOT]⟩,
    ⟨2, decide (cv d Reg.SDH_APPEND_BUDGET = 0) || decide (256 < cv d Reg.SDH_APPEND_BUDGET), [Reg.SDH_APPEND_BUDGET]⟩ ]

end Sys2Proof.Machine
end

