-- ==== Sys2Proof/Machine/Officer.lean ====
section
/-! DEFINITION. Officer cards (chapter 18): the interfaces and their protocols, authentication, approvals and the roster. -/

namespace Sys2Proof.Machine

/-! ### Interfaces and sessions (R426, R428) -/

def ofcIf (d : Dev) (i : Nat) : OfcIf := tabGet {} d.ofc i
def ofcIfSet (d : Dev) (i : Nat) (x : OfcIf) : Dev := { d with ofc := tabSet {} d.ofc i x }

/-- A write to OFC_CMD by K, or H0 to H7 at P0. AUTH and APPROVE do not run in HOLD. -/
def ofcCmd (m pl action i : Nat) (d : Dev) : Dev :=
  if ¬ (m = 1 ∨ (isH m ∧ pl = 0)) then d
  else
    let bad := decide (action = 0) || decide (4 < action)
    cmdIssue 0x15 m (if bad then Cmd.reserved else 0xF0 + action) false [i % 2] (decide (action = 1 ∨ action = 4)) d pl

def Op.iface (o : Op) : Nat := o.aux.getD 0 0

/-- A session ends; the card stays active. -/
def endSession (i : Nat) (d : Dev) : Dev :=
  let x := ofcIf d i
  if x.state = 3 then ofcIfSet d i { x with state := 2, roster := 0, sessEnd := 0 } else d

/-- The interface without a card or its supply. -/
def ofcOff (i : Nat) (present : Bool) (d : Dev) : Dev := ofcIfSet d i { present := present }

/-- OFFICER_CARD_PRESENCE. -/
def officerPresence (i : Nat) (present : Bool) (d : Dev) : Dev :=
  let x := ofcIf d i
  if 2 ≤ i ∨ x.present = present then d
  else
    let d := ofcOff i present d
    match x.op.bind (findOp d) with
    | some o => endWith d o St.cardAbsent 1 d.pas.count d.pas.count
    | none => d

/-- OFFICER_SESSION_EXPIRY. -/
def sessionExpiry (i : Nat) (d : Dev) : Dev :=
  let x := ofcIf d i
  if x.state = 3 ∧ x.sessEnd ≤ d.pas.count then endSession i d else d

/-- The roster entry that holds a key. -/
def rosterFind (d : Dev) (key : Octets) : Option Nat := (d.life.roster.find? (fun e => octEq e.2 key)).map (·.1)

/-- Table 18.8. -/
def authBody (d : Dev) (roster i : Nat) (nonce : Octets) : Octets :=
  leOct 2 1 ++ leOct 1 2 ++ leOct 1 roster ++ leOct 1 i ++ zeros 11 ++ fitTo 16 d.life.devid ++ fitTo 32 nonce ++ leOct 8 d.pas.count ++ zeros 8

/-- Octets 0 to 79 of Table 2.8 for the current chamber. -/
def approveBody (d : Dev) (roster : Nat) : Octets :=
  leOct 2 1 ++ leOct 1 1 ++ leOct 1 roster ++ leOct 6 (chmSeq d) ++ zeros 6 ++ fitTo 16 d.life.devid ++ fitTo 48 d.chm.digest

/-- R427: does a key of little-endian x and y verify a signature of little-endian r and s over the body? -/
def cardSigned (key body sig : Octets) : Bool :=
  ecdsaVerify p256 (leAt key 0 32) (leAt key 32 32) (sha256 body) (leAt sig 0 32) (leAt sig 32 32)

/-! ### The card's protocol (Table 18.6) -/

/-- Exclusive or of octets: LRC, TCK and PCK. -/
def lrc (o : Octets) : Octet := o.foldl (· ^^^ ·) 0

/-- R427: the APDUs of the officer application (Le of SIGN: log entry 87). -/
def apduSelect : Octets := [0x00, 0xA4, 0x04, 0x00, 0x06, 0xF0, 0x51, 0x4F, 0x46, 0x43, 0x01]
def apduGetKey : Octets := [0x80, 0xCA, 0x00, 0x00, 0x40]
def apduSign (body : Octets) : Octets := [0x80, 0x2A, 0x00, 0x00, 0x50] ++ fitTo 80 body ++ [0x40]

/-- One level of interface characters of an ATR: TA, TB, TC and TD where the indicator has them. -/
structure AtrLevel where
  ta : Option Nat := none
  tb : Option Nat := none
  tc : Option Nat := none
  td : Option Nat := none
  deriving DecidableEq, Repr

/-- A character that is there or is not. -/
def atrChar (there : Bool) (o : Octets) : Option (Option Nat × Octets) :=
  if there then (match o with | b :: r => some (some b.toNat, r) | [] => none) else some (none, o)

/-- The levels of interface characters that an indicator announces, and the octets after them. -/
def atrLevels : Nat → Nat → Octets → Option (List AtrLevel × Octets)
  | 0, _, _ => none
  | f + 1, y, o =>
    (atrChar (y.testBit 0) o).bind fun a => (atrChar (y.testBit 1) a.2).bind fun b => (atrChar (y.testBit 2) b.2).bind fun c =>
      (atrChar (y.testBit 3) c.2).bind fun e =>
        let l : AtrLevel := ⟨a.1, b.1, c.1, e.1⟩
        match e.1 with
        | none => some ([l], e.2)
        | some v => (atrLevels f (v / 16) e.2).map (fun x => (l :: x.1, x.2))

/-- What an ATR says: inverse convention; T=1; Fi and Di of TA1; whether TA2 is there; IFSC. -/
structure Atr where
  inv : Bool := false
  t1 : Bool := false
  ta1 : Nat := 0x11
  fixed : Bool := false
  ifsc : Nat := 32
  deriving DecidableEq, Repr

/-- The level of the characters that are T=1's: the first from TA3 on whose TD names T=1. -/
def atrT1 : List AtrLevel → AtrLevel
  | a :: b :: r => if (a.td.map (· % 16)) = some 1 then b else atrT1 (b :: r)
  | _ => {}

/-- An ATR, if it is valid and asks for nothing beyond Table 18.6: TS of either convention, characters and historical octets as announced, TCK right where
there is one, T=0 or T=1 with LRC. -/
def parseAtr (o : Octets) : Option Atr :=
  match o with
  | ts :: t0 :: rest =>
    if ts ≠ 0x3B ∧ ts ≠ 0x3F then none
    else (atrLevels 5 (t0.toNat / 16) rest).bind fun x =>
      let ls := x.1
      let tds := ls.filterMap (·.td)
      let ta2 := ((ls.drop 1).head?.bind (·.ta))
      let t : Nat := match ta2 with | some v => v % 16 | none => (tds.headD 0) % 16
      let tck := tds.any (fun v => decide (v % 16 ≠ 0))
      let one := atrT1 (ls.drop 1)
      if x.2.length ≠ t0.toNat % 16 + b2n tck ∨ (tck ∧ lrc (t0 :: rest) ≠ 0) ∨ 1 < t ∨ (t = 1 ∧ (one.tc.getD 0) % 2 = 1) then none
      else some { inv := decide (ts = 0x3F), t1 := decide (t = 1), ta1 := ((ls.head?.bind (·.ta)).getD 0x11), fixed := ta2.isSome, ifsc := one.ta.getD 32 }
  | _ => none

/-- R426: cold and warm resets in class B, then in class A, each as the clock cycles to the ATR's start and its octets: whether the first valid ATR came in
class A, and what it says. -/
def atrFound (atrs : List (Nat × Octets)) : Option (Bool × Atr) :=
  (atrs.take 4).zipIdx.findSome? (fun x => (if x.1.1 ≤ 40000 then parseAtr x.1.2 else none).map (fun a => (decide (2 ≤ x.2), a)))

/-- Fi over Di of a TA1, in sixteenths: Fi by its high digit, Di by its low one; 0 where either is reserved. -/
def fiDi (ta1 : Nat) : Nat :=
  let fi := [372, 372, 558, 744, 1116, 1488, 1860, 0, 0, 512, 768, 1024, 1536, 2048, 0, 0].getD (ta1 / 16 % 16) 0
  let di := [0, 1, 2, 4, 8, 16, 32, 64, 12, 20, 0, 0, 0, 0, 0, 0].getD (ta1 % 16) 0
  if di = 0 then 0 else 16 * fi / di

/-- Is a PPS sent: TA1 asks for other Fi and Di than the defaults, TA2 is absent, and Fi/Di is 16 or more? -/
def ppsSent (a : Atr) : Bool := decide (a.ta1 ≠ 0x11) && !a.fixed && decide (256 ≤ fiDi a.ta1)

/-- The PPS request for a TA1, and what a card answers that keeps the defaults. -/
def ppsRequest (t1 : Bool) (ta1 : Nat) : Octets := let b : Octets := [0xFF, oct (0x10 + b2n t1), oct ta1]; b ++ [lrc b]
def ppsKeeps (t1 : Bool) : Octets := let b : Octets := [0xFF, oct (b2n t1)]; b ++ [lrc b]

/-- A T=1 block of NAD 0. -/
def t1Block (pcb : Nat) (inf : Octets) : Octets := let b : Octets := [0, oct pcb, oct inf.length] ++ inf; b ++ [lrc b]

/-- The next I-block of the command: N(S), and M where more follows. -/
def sendIBlock (x : OfcIf) : OfcIf :=
  let inf := x.out.take x.ifsc
  let b := t1Block (x.ns * 64 + (if x.ifsc < x.out.length then 0x20 else 0)) inf
  { x with out := x.out.drop x.ifsc, tx := b, iblk := b, tries := 0 }

/-- A command APDU on its way: under T=0 its header, or header and data; under T=1 its first block. -/
def ofcSend (apdu : Octets) (x : OfcIf) : OfcIf :=
  let x := { x with rsp := [], tries := 0 }
  if x.t1 then sendIBlock { x with out := apdu }
  else { x with tx := if apdu.length = 5 then apdu else apdu.take (5 + leAt apdu 4 1) }

/-- What an answer of the card brings: a whole response (status word and data), a step of the protocol, or nothing the protocol can use. -/
inductive OfcGot where
  | response (x : OfcIf) (sw : Nat) (data : Octets)
  | step (x : OfcIf)
  | lost
  deriving DecidableEq, Repr

/-- A response that is complete: its last two octets are the status word. -/
def ofcWhole (x : OfcIf) (o : Octets) : OfcGot :=
  if o.length < 2 then .lost else .response x (beNat (o.drop (o.length - 2))) (o.take (o.length - 2))

/-- T=0: GET RESPONSE on 0x61xx. -/
def t0Receive (x : OfcIf) (o : Octets) : OfcGot :=
  match ofcWhole x o with
  | .response x sw data =>
    if sw / 256 = 0x61 then .step { x with rsp := x.rsp ++ data, tx := [0x00, 0xC0, 0x00, 0x00, oct (sw % 256)] } else .response x sw (x.rsp ++ data)
  | g => g

/-- A block that is no valid one, or that asks for the last again, three times at most. -/
def t1Again (x : OfcIf) (tx : Octets) : OfcGot := if 2 ≤ x.tries then .lost else .step { x with tx := tx, tries := x.tries + 1 }

/-- T=1: one block of the card. -/
def t1Receive (x : OfcIf) (o : Octets) : OfcGot :=
  let pcb := leAt o 1 1
  let inf := slice o 3 (leAt o 2 1)
  let bad := t1Again x (t1Block (0x81 + 16 * x.nr) [])
  if o.length < 4 ∨ leAt o 0 1 ≠ 0 ∨ o.length ≠ 4 + leAt o 2 1 ∨ lrc o ≠ 0 then bad
  else if pcb < 0x80 then
    if pcb / 64 ≠ x.nr then bad
    else
      let x := { x with rsp := x.rsp ++ inf, nr := 1 - x.nr, ns := if x.iblk = [] then x.ns else 1 - x.ns, iblk := [], tries := 0 }
      if pcb.testBit 5 then .step { x with tx := t1Block (0x80 + 16 * x.nr) [] } else ofcWhole x x.rsp
  else if pcb < 0xC0 then
    if pcb / 16 % 2 ≠ x.ns ∧ x.out ≠ [] then .step (sendIBlock { x with ns := 1 - x.ns }) else t1Again x (if x.iblk = [] then t1Block (0x80 + 16 * x.nr) [] else x.iblk)
  else if pcb = 0xC3 then .step { x with tx := t1Block 0xE3 inf }
  else if pcb = 0xC1 then .step { x with ifsc := leAt inf 0 1, tx := t1Block 0xE1 inf }
  else bad

/-! ### Exchanges (R427 to R429) -/

/-- The exchange of an interface ends: what it was about is forgotten. -/
def OfcIf.idle (x : OfcIf) : OfcIf := { x with op := none, step := 0, who := 0, body := [], sig := [], out := [], rsp := [] }

/-- An exchange ends with a status. Each 0x11 or 0x12 is one event of source 34 (R429). -/
def ofcEnd (i : Nat) (o : Op) (st sub : Nat) (d : Dev) : Dev :=
  let d := ofcIfSet d i (ofcIf d i).idle
  let d := if st = St.denied ∧ (sub = 0x11 ∨ sub = 0x12) then tamperEvent 34 (rgAdd d (Reg.OFC_IF_AUTH_FAILS + 4 * i) 1) else d
  endWith d o st sub d.pas.count d.pas.count

/-- The card cannot be talked to: an activation leaves the interface OFF. -/
def ofcLost (i : Nat) (o : Op) (d : Dev) : Dev :=
  let x := ofcIf d i
  ofcEnd i o St.timeout 2 (ofcIfSet d i { x with state := if x.state = 1 then 0 else x.state })

/-- OFFICER_CARD_TIMEOUT: the exchange running ends with TIMEOUT 0x02. -/
def officerTimeout (i : Nat) (d : Dev) : Dev :=
  let x := ofcIf d i
  match x.op.bind (findOp d) with
  | some o => if x.step = 4 ∨ x.step = 7 then d else ofcLost i o d
  | none => d

/-- An OFC command offered: none where its interface is in an exchange. BAD_DESCRIPTOR and ACCESS_DENIED come before CARD_ABSENT (R12). -/
def ofcAdmit (d : Dev) (o : Op) : Option Dev :=
  let i := o.iface
  let x := ofcIf d i
  let a : Op := { o with phase := .admitted, admitAt := d.pas.count }
  if x.op.isSome then none
  else if o.opcode = 0xF4 then some (endWith (ofcOff i x.present d) o St.done 0 d.pas.count (d.pas.count - 1))
  else if o.opcode = 0xF1 then
    (if ¬ x.present then some (rejectOp d o (St.cardAbsent, 1)) else if x.state ≠ 0 then some (rejectOp d o (St.done, 0)) else some (setOp (ofcIfSet d i { x with state := 1, op := some o.id }) a))
  else if o.opcode = 0xF2 then
    (if x.state < 2 then some (rejectOp d o (St.badDesc, 2)) else some (setOp (ofcIfSet d i (ofcSend apduSelect { x with op := some o.id, step := 1 })) a))
  else
    let c := d.chm
    match firstOf [ failIf (decide (x.state ≠ 3)) St.denied 0x13,
        failIf (decide (c.state ≠ .levelled ∧ c.state ≠ .scheduled) || decide (2 ≤ c.approvals.length)) St.denied 0x14,
        failIf (alreadyApproved d x.roster) St.denied 0x15 ] with
    | some f => some (rejectOp d o f)
    | none =>
      let b := approveBody d x.roster
      some (setOp (ofcIfSet d i (ofcSend (apduSign b) { x with op := some o.id, step := 3, who := x.roster, body := b })) a)

def ofcStep (d : Dev) : Dev :=
  (d.ops.filter (fun o => decide (o.phase = .staged) && decide (o.eligAt ≤ d.pas.count) && decide (0xF1 ≤ o.opcode ∧ o.opcode ≤ 0xF4))).foldl
    (fun d o => (ofcAdmit d o).getD d) d

/-- K builds the authentication body as soon as the Hopper serves its nonce (R428). -/
def ofcNonce (i : Nat) (d : Dev) : Dev :=
  let x := ofcIf d i
  match x.op.bind (findOp d) with
  | none => d
  | some o =>
    if x.step ≠ 4 ∨ hopWaits d 2 then d
    else if ¬ hopServes d 2 then ofcEnd i o St.entropy (hopSub d) d
    else
      let n := hwDraw d 2
      let b := authBody n.2 x.who i n.1
      ofcIfSet n.2 i (ofcSend (apduSign b) { x with step := 3, body := b })

/-- R428: ECDSA_VERIFY_P256 as a job of K's own Grinder queue, from a body and the signature of a roster entry: its key, the digest, r and s. -/
def verifyJob (d : Dev) (i : Nat) : Op :=
  let x := ofcIf d i
  let key := fitTo 64 (tabGet [] d.life.roster x.who)
  let ops : List Octets := [key.take 32, key.drop 32, sha256 x.body, x.sig.take 32, x.sig.drop 32]
  { id := 0, src := .ofc i, ctx := 0x01, phase := .staged, eligAt := d.pas.count + 1,
    desc := mkDesc 0x30 {} [(8, 2, 0x0211), (10, 1, 0xFF), (11, 1, 0xFF), (16, 2, 5)],
    input := ops.flatMap (fun o => zeros 8 ++ leOct 4 o.length ++ zeros 4) ++ ops.flatten }

/-- The signature is back: K has it verified. -/
def ofcSigned (i : Nat) (sig : Octets) (d : Dev) : Dev :=
  let d := ofcIfSet d i { ofcIf d i with step := 7, sig := fitTo 64 sig }
  addOp d (verifyJob d i)

/-- A verified signature opens a session, or is an approval that waits for the next edge's acceptance (R428, R429). -/
def ofcVerified (i : Nat) (o : Op) (d : Dev) : Dev :=
  let x := ofcIf d i
  if o.opcode = 0xF2 then ofcEnd i o St.done 0 (ofcIfSet d i { x with state := 3, roster := x.who, sessEnd := d.pas.count + rn d Reg.OFC_SESSION_LIFE })
  else
    let w : PendingApproval := { op := some o.id, iface := some i, roster := x.who, seq := leAt x.body 4 6, digest := slice x.body 32 48, pass := d.pas.count }
    let d := ofcIfSet d i x.idle
    { d with chm := { d.chm with waiting := d.chm.waiting ++ [w] } }

/-- K is shown how its signature check has ended. One that its unit's fence or a refused draw has ended is put in the queue again; one that no unit can run
ends the exchange with its status (DESIGN CHOICE, log entry 100). -/
def ofcVerdict (d : Dev) (j : Op) : Dev :=
  match j.src with
  | .ofc i =>
    let d := dropOp d j.id
    let x := ofcIf d i
    match x.op.bind (findOp d) with
    | none => d
    | some o =>
      if x.step ≠ 7 then d
      else if j.status = St.done then ofcVerified i o d
      else if j.status = St.untrusted ∨ j.status = St.param then ofcEnd i o St.denied 0x12 d
      else if j.status = St.badDesc then ofcEnd i o j.status j.sub d
      else addOp d (verifyJob d i)
  | _ => d

/-- The signature checks that have ended by an edge. -/
def ofcVerdicts (d : Dev) : Dev :=
  (d.ops.filter (fun o => decide (o.phase = .ended) && decide (o.dueAt ≤ d.pas.count) && (match o.src with | .ofc _ => true | _ => false))).foldl ofcVerdict d

/-- A response of the officer application: any status word but 0x9000 ends the exchange with ACCESS_DENIED 0x10. -/
def ofcResponse (i : Nat) (o : Op) (sw : Nat) (data : Octets) (d : Dev) : Dev :=
  let x := ofcIf d i
  if sw ≠ 0x9000 then ofcEnd i o St.denied 0x10 d
  else if x.step = 1 then ofcIfSet d i (ofcSend apduGetKey { x with step := 2 })
  else if x.step = 2 then
    (match rosterFind d (fitTo 64 data) with
     | none => ofcEnd i o St.denied 0x11 d
     | some e => ofcNonce i (ofcIfSet d i { x with step := 4, who := e }))
  else ofcSigned i data d

/-- The card is active, but that its IFS is to be set: under T=1 the interface tells the card its IFSD of 254 first. -/
def ofcActive (i : Nat) (o : Op) (x : OfcIf) (d : Dev) : Dev :=
  if x.t1 ∧ x.step ≠ 6 then ofcIfSet d i { x with step := 6, tx := t1Block 0xC1 [254] }
  else ofcEnd i o St.done 0 (ofcIfSet d i { x with state := 2 })

/-- A card that is being activated answers: with its ATRs, to the PPS, or to the IFS request. -/
def ofcActivating (i : Nat) (o : Op) (atrs : List (Nat × Octets)) (rsp : Octets) (d : Dev) : Dev :=
  let x := ofcIf d i
  if x.step = 5 then
    if rsp = x.tx then ofcActive i o x d
    else if rsp = ppsKeeps x.t1 then ofcActive i o { x with ta1 := 0x11 } d
    else ofcLost i o d
  else if x.step = 6 then (if rsp = t1Block 0xE1 [254] then ofcActive i o x d else ofcLost i o d)
  else match atrFound atrs with
  | none => ofcLost i o d
  | some (clsA, a) =>
    let y : OfcIf := { x with cls := clsA, inv := a.inv, t1 := a.t1, ta1 := a.ta1, ifsc := a.ifsc, ns := 0, nr := 0, iblk := [], tries := 0 }
    if ppsSent a then ofcIfSet d i { y with step := 5, tx := ppsRequest a.t1 a.ta1 }
    else ofcActive i o { y with ta1 := if a.fixed then a.ta1 else 0x11 } d

/-- OFFICER_CARD_ANSWER: the ATRs of up to four resets, each with the cycles to its start; or what the card sends to the command, block or request that it
was sent last: under T=0 data and status word, under T=1 a block. -/
def officerAnswer (i : Nat) (atrs : List (Nat × Octets)) (rsp : Octets) (d : Dev) : Dev :=
  let x := ofcIf d i
  match x.op.bind (findOp d) with
  | none => d
  | some o =>
    if x.state = 1 then ofcActivating i o atrs rsp d
    else if x.step = 4 ∨ x.step = 7 then d
    else match (if x.t1 then t1Receive x rsp else t0Receive x rsp) with
    | .response x sw data => ofcResponse i o sw data (ofcIfSet d i x)
    | .step x => ofcIfSet d i x
    | .lost => ofcLost i o d

/-- At each edge: signature checks that have ended, sessions that have run out, and nonces awaited. -/
def ofcEdge (d : Dev) : Dev :=
  let d := ofcVerdicts d
  [0, 1].foldl (fun d i => ofcNonce i d) ([0, 1].foldl (fun d i => sessionExpiry i d) d)

/-- HOLD ends every exchange; their operations end with HELD. A card that was being activated is switched off. -/
def ofcHold (d : Dev) : Dev :=
  [0, 1].foldl (fun d i =>
    let x := ofcIf d i
    if x.op.isNone then d else if x.state = 1 then ofcOff i x.present d else ofcIfSet d i x.idle) d

/-- A HOST reset of the interfaces: cards stay seated. -/
def ofcReset (d : Dev) : Dev := [0, 1].foldl (fun d i => ofcOff i (ofcIf d i).present d) d

/-- Sessions of every interface end. -/
def endSessions (d : Dev) : Dev := [0, 1].foldl (fun d i => endSession i d) d

/-! ### The roster (R430, Table 18.11) -/

/-- The key a chamber would add. -/
def rosterKey (word : Nat → Word) : Octets := (List.range 16).flatMap (fun i => leOct 4 ((word (Reg.OFC_ROSTER_KEY + i)).toNat % 2 ^ 32))

def rosterHeld (d : Dev) (i : Nat) : Bool := (tabFind d.life.roster i).isSome

/-- The index an ADD takes. -/
def rosterSlot (d : Dev) (w : Word) : Option Nat :=
  if bit w 8 then (List.range 64).find? (fun i => !rosterHeld d i)
  else if rosterHeld d (fld w 7 2) then none else some (fld w 7 2)

/-- Table 18.11, OFC. -/
def levelOfc (d : Dev) : List LRule :=
  let w := chmView d Reg.OFC_ROSTER_OP
  let a := fld w 1 0
  let key := rosterKey (chmView d)
  let keys := regArr Reg.OFC_ROSTER_KEY 16 1
  [ ⟨1, decide (a = 1) && (rosterSlot d w).isNone, [Reg.OFC_ROSTER_OP]⟩,
    ⟨2, decide (a = 2) && (!rosterHeld d (fld w 7 2) || decide (d.life.roster.length < 3)), [Reg.OFC_ROSTER_OP]⟩,
    ⟨3, decide (a = 1) && (!onCurve p256 (leAt key 0 32) (leAt key 32 32) || (rosterFind d key).isSome), Reg.OFC_ROSTER_OP :: keys⟩,
    ⟨4, decide (cv d Reg.OFC_CLK < 10) || decide (50 < cv d Reg.OFC_CLK) || decide (cv d Reg.OFC_SESSION_LIFE = 0), [Reg.OFC_CLK, Reg.OFC_SESSION_LIFE]⟩ ]

/-- A chamber with a roster change opens: K applies it to its working copy and rewrites the ladder record (R430). -/
def rosterOpen (d : Dev) : Dev :=
  let w := rg d Reg.OFC_ROSTER_OP
  let d := rgSet d Reg.OFC_ROSTER_OP 0
  if fld w 1 0 = 1 then
    match rosterSlot d w with
    | some i =>
      rgSet (ladderWrite { d with life := { d.life with roster := tabPut d.life.roster i (rosterKey (rg d)) } }) Reg.OFC_ROSTER_RESULT (pack [(0, i), (35, 1)])
    | none => d
  else if fld w 1 0 = 2 then
    let i := fld w 7 2
    let d := ladderWrite { d with life := { d.life with roster := tabErase d.life.roster i } }
    [0, 1].foldl (fun d f => if (ofcIf d f).roster = i then endSession f d else d) d
  else d

def ofcIfWord (d : Dev) (i k : Nat) : Word :=
  let x := ofcIf d i
  if k = 0 then pack [(0, b2n x.present), (1, x.state), (4, b2n x.cls), (5, b2n x.t1), (6, x.roster)]
  else if k = 1 then wd (x.sessEnd % 2 ^ 36)
  else rg d (Reg.OFC_IF_AUTH_FAILS + 4 * i)

/-- OFC_ROSTER_VIEW. -/
def rosterWord (d : Dev) (i : Nat) : Word := wd (leAt (tabGet [] d.life.roster (i / 16)) (4 * (i % 16)) 4)

end Sys2Proof.Machine
end

