-- ==== Sys2Proof/Machine/Life.lean ====
section
/-! DEFINITION. Life cycle (chapter 16): code words and their vote, the key ladder, transitions and their fuse rows, provisioning, Ndound challenges, and
the Towpath's instructions and sessions. -/

namespace Sys2Proof.Machine

def onLife (d : Dev) (f : Life → Life) : Dev := { d with life := f d.life }

/-! ### Code words (R380, Table 16.2) -/

def lcWord (d : Dev) (i : Nat) : Nat := d.life.otp.lc.getD i 0

/-- Bitwise majority of the three words. -/
def lcVote (d : Dev) : Nat :=
  let a := lcWord d 0
  let b := lcWord d 1
  let c := lcWord d 2
  (a &&& b) ||| (a &&& c) ||| (b &&& c)

def lcUnanimous (d : Dev) : Bool := decide (lcWord d 0 = lcWord d 1) && decide (lcWord d 1 = lcWord d 2)

/-- T bits set. -/
def tCount (v : Nat) : Nat := ((List.range 16).filter (fun i => v.testBit (12 + i))).length

/-- A group of four bits is whole. -/
def whole (g : Nat) : Bool := decide (g = 0) || decide (g = 15)

/-- The state a voted word means. -/
def lcDecode (v : Nat) : Nat :=
  let f := nfld v 3 0
  let p := nfld v 7 4
  let e := nfld v 11 8
  let t := nfld v 27 12
  let s := nfld v 31 28
  if !(whole f && whole p && whole e && whole s) || (decide (p ≠ 0) && decide (f = 0)) || (decide (e ≠ 0) && decide (p = 0)) ||
      (decide (t ≠ 0) && decide (e = 0)) || (decide (s ≠ 0) && decide (f = 0)) || decide (t &&& (t + 1) ≠ 0) then 5
  else if s ≠ 0 then 5
  else if e ≠ 0 then (if tCount v % 2 = 1 then 4 else 3)
  else if p ≠ 0 then 2 else if f ≠ 0 then 1 else 0

/-- The bits a transition blows, from the voted word. -/
def newBits (from_ goal v : Nat) : Nat :=
  if goal = 5 then 0xF0000000
  else if goal = 1 then 0xF else if goal = 2 then 0xF0
  else if from_ = 2 then 0xF00
  else
    let t := tCount v
    let own := if from_ = 3 then 0 else 1
    2 ^ (12 + (if t % 2 = own then t else t - 1))

/-! ### The key ladder (R383) -/

/-- Does a ROOT row's check code hold (Table 16.3)? -/
def rootOk (secret : Octets) (code : Nat) : Bool := decide (secret.length = 32) && decide (code = crc32 secret)

/-- Has no fuse of a ROOT row been blown? -/
def rootBlank (secret : Octets) (code : Nat) : Bool := allZero secret && decide (code = 0)

/-- The root secret in force: ROOT_A, or the spare where K has abandoned it. -/
def root (d : Dev) : Option Octets :=
  let o := d.life.otp
  if ¬ o.badA ∧ rootOk o.rootA o.crcA then some o.rootA
  else if ¬ o.badB ∧ rootOk o.rootB o.crcB then some o.rootB else none

def ascii (s : String) : Octets := s.toList.map (fun c => BitVec.ofNat 8 c.toNat)

def kekDeviceOf (d : Dev) : Octets := match root d with | some r => kdf108 r (ascii "DEVICE-KEK") [] 32 | none => []

/-- Private scalar of the device attestation key. -/
def dakScalar (d : Dev) : Option Nat :=
  (root d).map (fun r => beNat (kdf108 r (ascii "DEVICE-DAK") [] 56) % (p384.n - 1) + 1)

/-- Public key of the device attestation key, x then y, little-endian. -/
def dakPub (d : Dev) : Octets :=
  match dakScalar d with
  | some k => (match ptMul p384 k (curveG p384) with | some (x, y) => leOct 48 x ++ leOct 48 y | none => zeros 96)
  | none => zeros 96

/-- KEK 1: OWNER_KEK_WRAP opened under KEK 0. -/
def kekOwnerOf (d : Dev) : Octets :=
  let w := d.life.otp.ownerWrap
  if w.length ≠ 60 then []
  else
    let r := gcmDec (kekDeviceOf d) (w.take 12) (fitTo 16 d.life.devid) (slice w 12 32)
    if octEq r.2 (w.drop 44) then r.1 else []

/-- The ladder's keys derived from ROOT. The basin keys come from the ladder record. -/
def ladder (d : Dev) : Dev := onLife d (fun l => { l with kekDevice := kekDeviceOf d, kekOwner := kekOwnerOf d })

/-! ### Sessions -/

/-- Is the Towpath open, as an access port: always in BLANK and FACTORY, in a session otherwise; never in SCRAP (Table 16.1, R394)? -/
def portOpen (d : Dev) : Bool := decide (d.life.state ≤ 1) || (d.life.sessOpen && decide (d.life.state ≠ 5))

/-- Does the Towpath have a scope: 0 core debug, 1 memory and registers, 2 raw samples (R394)? -/
def hasScope (d : Dev) (i : Nat) : Bool := portOpen d && (decide (d.life.state ≤ 1) || d.life.scope.testBit i)

/-- A Towpath session ends, and raw-sample mode with it. -/
def endTowpath (d : Dev) : Dev :=
  let d := if d.life.sessOpen ∧ 1 < d.life.state then rawEnd d else d
  onLife d (fun l => { l with sessOpen := false, scope := 0, sessNext := none })

/-- R388: the state in force is the voted state; what depends on it follows. SCRAP leaves the Towpath boundary scan alone. The condition of source 35
clears once the words agree (R361). -/
def revote (d : Dev) : Dev :=
  let s := lcDecode (lcVote d)
  let d := if lcUnanimous d then tamperClear 35 d else d
  if s = d.life.state then d else ladder (onLife (if s = 5 then endTowpath d else d) (fun l => { l with state := s }))

/-- TOWPATH_SESSION_OPEN: at the edge after the response verified, K's start-up being over (R368). -/
def sessionOpen (d : Dev) : Dev :=
  match d.life.sessNext with
  | some (sc, at_) =>
    if at_ < d.pas.count ∧ d.life.booted ∧ d.life.state ≠ 5 then
      onLife (rgAdd d Reg.DBG_SESSIONS 1) (fun l => { l with sessOpen := true, scope := sc, sessNext := none })
    else d
  | none => d

/-! ### Transitions (R385 to R388) -/

def setShadow (d : Dev) (f t s : Nat) : Dev := { d with keep := { d.keep with shadow := (f, t, s) } }

/-- Side rows of a transition. -/
def sideRows (goal : Nat) : Nat := if goal = 1 ∨ goal = 2 then 2 else 0

/-- A transition starts: STEP 1 is done at once, and the first row's write begins. -/
def startTransition (goal : Nat) (d : Dev) : Dev :=
  let d := rawEnd (endTowpath d)
  let d := setShadow d d.life.state goal (if sideRows goal = 0 then 3 else 2)
  onLife d (fun l => { l with active := true, row := 0, tries := 0, fail := false, starting := none })

/-- The transition is over. -/
def endTransition (d : Dev) : Dev :=
  onLife (setShadow d 0 0 0) (fun l => { l with active := false, row := 0, tries := 0, fail := false, pkg := [] })

/-- New bits blown in one code word, then the vote. -/
def blowWord (i : Nat) (d : Dev) : Dev :=
  let b := newBits d.keep.shadow.1 d.keep.shadow.2.1 (lcVote d)
  revote (onLife d (fun l => { l with otp := { l.otp with lc := (List.range 3).map (fun j => if j = i then l.otp.lc.getD j 0 ||| b else l.otp.lc.getD j 0) } }))

/-- A ROOT row blown: the first that K has not abandoned. -/
def rootBlow (secret : Octets) (code : Nat) (o : Otp) : Otp :=
  if o.badA then { o with rootB := secret, crcB := code } else { o with rootA := secret, crcA := code }

/-- The ROOT row in writing is abandoned (R387). -/
def rootAbandon (o : Otp) : Otp := if o.badA then { o with badB := true } else { o with badA := true }

/-- What a ROOT row holds that failed its verify, or whose write was cut: free values. -/
def rootTorn (d : Dev) : Dev :=
  let x := drawOct d 36
  onLife x.2 (fun l => { l with otp := rootBlow (x.1.take 32) (leNat (x.1.drop 32)) l.otp })

/-- Is the row in writing a ROOT row? -/
def rootRow (d : Dev) : Bool := decide (d.keep.shadow.2.2 ≤ 2) && decide (d.keep.shadow.2.1 = 1) && decide (d.life.row = 1)

/-- Both ROOT rows have failed: the state becomes SCRAP (R387). -/
def toScrap (d : Dev) : Dev := onLife (setShadow d d.keep.shadow.1 5 3) (fun l => { l with tries := 0, row := 0 })

/-- Octets of the package in progress. -/
def pkgRosterCount (p : Octets) : Nat := leAt p 3 1
def pkgRoster (p : Octets) : Tab Octets := (List.range (pkgRosterCount p)).map (fun i => (i, slice p (288 + 64 * i) 64))

/-- R386: the transport key's opening of the owner KEK: the KEK, if the tag verifies. -/
def pkgKek (d : Dev) (p : Octets) : Option Octets :=
  match dakScalar d with
  | none => none
  | some k =>
    let x := leAt p 128 48
    let y := leAt p 176 48
    if ¬ onCurve p384 x y then none
    else match ptMul p384 k (some (x, y)) with
    | none => none
    | some (sx, _) =>
      let key := (sha384 (leOct 48 sx ++ p.take 32)).take 32
      let r := gcmDec key (slice p 224 12) (p.take 224) (slice p 236 32)
      if octEq r.2 (slice p 268 16) then some r.1 else none

/-- A side row written and verified. The wrap's IV and the root are drawn from the Hopper. -/
def sideWrite (d : Dev) : Dev :=
  let goal := d.keep.shadow.2.1
  let p := d.life.pkg
  if goal = 1 then
    if d.life.row = 0 then onLife d (fun l => { l with devid := identity, otp := { l.otp with id := true } })
    else
      let x := hwDraw d 2
      let s := fitTo 32 x.1
      onLife x.2 (fun l => { l with otp := rootBlow s (crc32 s) l.otp })
  else if d.life.row = 0 then onLife d (fun l => { l with otp := { l.otp with ownerHash := sha384 (slice p 32 96) } })
  else
    let x := hwDraw d 1
    let iv := x.1.take 12
    let r := gcmEnc (kekDeviceOf d) iv (fitTo 16 d.life.devid) (fitTo 32 ((pkgKek d p).getD []))
    ladderWrite (onLife x.2 (fun l => { l with roster := pkgRoster p, otp := { l.otp with ownerWrap := iv ++ r.1 ++ r.2 } }))

/-- Does the row need a draw? -/
def rowDraws (d : Dev) : Bool := decide (d.keep.shadow.2.2 ≤ 2) && decide (d.life.row = 1)

/-- Blocks it draws: a ROOT row's 32 octets, or the IV of the wrap. -/
def rowBlocks (d : Dev) : Nat := if d.keep.shadow.2.1 = 1 then 2 else 1

/-- The transition stops at a row, with FAIL set and the shadow kept. -/
def rowStop (d : Dev) : Dev := onLife d (fun l => { l with tries := 0, active := false, fail := true })

/-- A ROOT row has failed: the spare is taken, with a fresh draw, or SCRAP follows. -/
def rootFail (d : Dev) : Dev :=
  let d := onLife d (fun l => { l with tries := 0, otp := rootAbandon l.otp })
  if d.life.otp.badB then toScrap d else d

/-- FUSE_ROW_WRITE: the row being written ends with its verify. A row that needs a draw waits for the Hopper; a draw that it refuses ends the
transition there, with FAIL set (R186, Table 7.3; log entry 86). -/
def fuseRowWrite (ok : Bool) (d : Dev) : Dev :=
  let sh := d.keep.shadow
  let step := sh.2.2
  if ¬ d.life.active ∨ (rowDraws d ∧ hopWaits d (rowBlocks d)) then d
  else if rowDraws d ∧ hopRefuses d then rowStop d
  else if ¬ ok then
    if d.life.tries < 2 then onLife d (fun l => { l with tries := l.tries + 1 })
    else if rootRow d then rootFail (rootTorn d)
    else rowStop d
  else if step ≤ 2 then
    let d := sideWrite d
    if d.life.row + 1 < sideRows sh.2.1 then onLife d (fun l => { l with row := l.row + 1, tries := 0 })
    else onLife (setShadow d sh.1 sh.2.1 3) (fun l => { l with row := 0, tries := 0 })
  else
    let d := onLife (blowWord (step - 3) d) (fun l => { l with tries := 0 })
    if step < 5 then setShadow d sh.1 sh.2.1 (step + 1) else endTransition d

/-- R385: a transition a chamber names, judged at the level step. -/
def requestOk (d : Dev) (goal : Nat) : Bool :=
  let s := d.life.state
  !d.life.active && !d.life.fail && d.life.starting.isNone &&
    ((decide (s = 2) && decide (goal = 3)) || (decide (s = 3) && decide (goal = 4) && decide (2 ∈ d.life.auth) && decide (tCount (lcVote d) < 16)) ||
     (decide (s = 4) && decide (goal = 3) && decide (3 ∈ d.life.auth)) || (decide (2 ≤ s ∧ s ≤ 4) && decide (goal = 5)))

/-- The LIFECYCLE check of the level step. -/
def lifeCheck (d : Dev) : Option (Nat × Nat × Option Nat) :=
  match d.chm.entries.findIdx? (fun e => decide (e.1 = Reg.LCS_REQUEST)) with
  | none => none
  | some i =>
    let w := chmView d Reg.LCS_REQUEST
    if bit w 3 && !requestOk d (fld w 2 0) then some (0x05, 0, some i) else none

/-- A chamber with LCS_REQUEST opens: its transition starts at this step. -/
def lifeOpen (d : Dev) : Dev :=
  let w := rg d Reg.LCS_REQUEST
  let d := rgSet d Reg.LCS_REQUEST 0
  if bit w 3 then startTransition (fld w 2 0) d else d

/-! ### Ndound (R393) -/

abbrev chalLife : Nat := 6000000

/-- A challenge for a purpose: the next sequence number and a fresh nonce. -/
def issueChallenge (purpose : Nat) (d : Dev) : Dev :=
  let d := moncInc d 4
  let x := hwDraw d 2
  let c := leOct 2 1 ++ leOct 1 purpose ++ leOct 1 d.life.state ++ zeros 4 ++ fitTo 16 d.life.devid ++ leOct 6 (monc d 4) ++ zeros 2 ++ x.1.take 32
  onLife x.2 (fun l => { l with chal := some (c, d.pas.count), chalWait := false })

/-- CHALLENGE_EXPIRY. -/
def challengeExpiry (d : Dev) : Dev :=
  match d.life.chal with
  | some (_, at_) => if at_ + chalLife ≤ d.pas.count then onLife d (fun l => { l with chal := none }) else d
  | none => d

/-- Is a response malformed? -/
def respBad (r : Octets) : Bool :=
  let p := leAt r 2 1
  decide (leAt r 0 2 ≠ 1) || decide (p = 0) || decide (3 < p) || decide (7 < leAt r 3 1) || (decide (p ≠ 1) && decide (leAt r 3 1 ≠ 0)) ||
    !allZero (slice r 4 4) || !allZero (slice r 30 2) || !allZero (slice r 64 16)

/-- What a response of 176 octets fails with, if anything. -/
def respFail (d : Dev) (r : Octets) : Option Fail :=
  if respBad r then some (St.badDesc, 1)
  else match d.life.chal with
  | none => some (St.denied, 2)
  | some (c, _) =>
    if leAt r 2 1 ≠ leAt c 2 1 ∨ slice r 8 16 ≠ slice c 8 16 ∨ slice r 24 6 ≠ slice c 24 6 ∨ slice r 32 32 ≠ slice c 32 32 then some (St.denied, 2)
    else if ¬ p384Signed Config.serviceKey r then some (St.denied, 1)
    else none

/-- A response judged: its failure, and the device after it. -/
def verifyResponse (r : Octets) (d : Dev) : Option Fail × Dev :=
  match respFail d r with
  | some f =>
    let n := d.life.failRun + 1
    let d := onLife (rgAdd d Reg.DBG_AUTH_FAILS 1) (fun l => { l with failRun := n })
    (some f, if n % 3 = 0 then tamperEvent 32 d else d)
  | none =>
    let p := leAt r 2 1
    let d := onLife d (fun l => { l with chal := none, failRun := 0 })
    (none, if p = 1 then onLife d (fun l => { l with sessNext := some (leAt r 3 1, d.pas.count) })
      else onLife d (fun l => { l with auth := if p ∈ l.auth then l.auth else l.auth ++ [p] }))

/-! ### LCS_CMD -/

/-- A write to LCS_CMD by K, or by the Towpath in BLANK and FACTORY. That arguments its ACTION does not use must be zero is the model's reading of R478 for
Table 16.9 (DESIGN CHOICE, log entry 75). -/
def lcsCmd (m action : Nat) (d : Dev) : Dev :=
  if ¬ (m = 1 ∨ (m = 2 ∧ d.life.state ≤ 1)) then d
  else
    let a := cmdArgs d m Reg.LCS_ARG 3
    let g := fun i => a.getD i 0
    let bad := decide (action = 0) || decide (5 < action) || (decide (action = 1 ∨ action = 3) && a.any (fun x => decide (x ≠ 0))) ||
      (decide (action = 4) && (decide (g 0 = 0) || decide (3 < g 0) || decide (g 1 ≠ 0) || decide (g 2 ≠ 0))) ||
      (decide (action = 2 ∨ action = 5) && decide (1 < g 2))
    cmdIssue 0x05 m (if bad then Cmd.reserved else 0xC0 + action) (decide (action = 2 ∨ action = 5) && decide (g 2 = 1)) a false d

/-- Is the action permitted in the state? -/
def lcsPermitted (d : Dev) (action : Nat) : Bool :=
  if action ≤ 3 then
    !d.life.active && !d.life.fail && d.life.starting.isNone && decide (d.life.state = if action = 1 then 0 else 1)
  else decide (d.life.state ≠ 5)

/-- R386: the checks of a package. -/
def pkgFail (d : Dev) (p : Octets) : Option Fail :=
  let n := pkgRosterCount p
  if leAt p 0 2 ≠ 1 ∨ leAt p 2 1 ≠ 0x20 ∨ n < 2 ∨ 64 < n ∨ ¬ allZero (slice p 4 12) ∨ ¬ allZero (slice p 284 4) then some (St.badDesc, 1)
  else if p.length ≠ 384 + 64 * n then some (St.length, 1)
  else if slice p 16 16 ≠ fitTo 16 d.life.devid then some (St.denied, 2)
  else if ¬ p384Signed (leAt p 32 48, leAt p 80 48) p then some (St.denied, 1)
  else if (pkgKek d p).isNone then some (St.denied, 3)
  else none

/-- An LCS command offered: none where it waits for the Hopper. BAD_DESCRIPTOR and LENGTH_ERROR come before ACCESS_DENIED (R12); a response is judged
malformed where it has all its fields, 80 octets. -/
def lcsAdmit (d : Dev) (o : Op) : Option Dev :=
  let action := o.opcode - 0xC0
  let done := fun d => endWith d o St.done 0 d.pas.count (d.pas.count - 1)
  let len := o.aux.getD 1 0
  let mpu := if action = 2 ∨ action = 5 then cmdBufFail d o 0 (o.aux.getD 0 0) (packLen o.dense (min len 4480)) else none
  let data := memAnyOct d o.dense (o.aux.getD 0 0) (min len 4481)
  let pre := if action = 2 ∧ mpu.isNone then (pkgFail d data).filter (fun f => decide (f.1 ≠ St.denied))
    else if action = 5 then firstFail [failIf (mpu.isNone && decide (80 ≤ len) && respBad data) St.badDesc 1, failIf (decide (len ≠ 176)) St.length 1]
    else none
  if pre.isSome then some (rejectOp d o (pre.getD (St.denied, 4)))
  else if ¬ lcsPermitted d action then some (rejectOp d o (St.denied, 4))
  else if mpu.isSome then some (cmdReject d o 0 mpu (St.denied, 0))
  else if action = 1 then some (done (onLife d (fun l => { l with starting := some 1 })))
  else if action = 3 then some (done (onLife d (fun l => { l with starting := some 5 })))
  else if action = 2 then
    (match pkgFail d data with
     | some f => some (rejectOp d o f)
     | none => some (done (onLife d (fun l => { l with starting := some 2, pkg := data }))))
  else if action = 4 then
    (if hopWaits d 2 then none
     else if ¬ hopServes d 2 then some (rejectOp d o (St.entropy, hopSub d))
     else some (done (issueChallenge (o.aux.getD 0 0) d)))
  else
    let r := verifyResponse data d
    some (match r.1 with | some f => rejectOp r.2 o f | none => done r.2)

def lcsStep (d : Dev) : Dev :=
  (d.ops.filter (fun o => decide (o.phase = .staged) && decide (o.eligAt ≤ d.pas.count) && decide (0xC1 ≤ o.opcode ∧ o.opcode ≤ 0xC5))).foldl
    (fun d o => (lcsAdmit d o).getD d) d

/-- The challenge of an AUTH read is issued, once the Hopper serves its draw; with a draw refused there is none. -/
def tapChallenge (d : Dev) : Dev :=
  if hopWaits d 2 then onLife d (fun l => { l with chalWait := true })
  else if ¬ hopServes d 2 then onLife d (fun l => { l with chalWait := false })
  else
    let d := issueChallenge 1 d
    if d.life.ir = 0x10 then onLife d (fun l => { l with dr := fitTo 176 ((l.chal.map (·.1)).getD []) }) else d

/-- At each edge: a transition accepted at the edge before starts; challenges expire; a session opens; an AUTH read that waits is served. -/
def lifeEdge (d : Dev) : Dev :=
  let d := challengeExpiry (sessionOpen d)
  let d := if d.life.chalWait then tapChallenge d else d
  match d.life.starting with
  | some t => startTransition t d
  | none => d

/-! ### The Towpath's instructions (R395, Table 16.8) -/

/-- An instruction in force, with the data register it captures: every one but EXTEST leaves the pins to the device. -/
def tapSelect (ir : Nat) (dr : Octets) (d : Dev) : Dev := onLife d (fun l => { l with ir := ir, dr := dr, drive := none })

/-- BYPASS, and every value of the instruction register that Table 16.8 does not list. -/
def tapBypass (d : Dev) : Dev := tapSelect 0xFF [] d

/-- EXTEST: outside BLANK, FACTORY and SCRAP only while RSTN is asserted. The boundary-scan register captures the levels on the pins and drives what it
held, or what is shifted in. The order of its cells is not in the manual: the command gives octets (log entry 92). -/
def tapExtest (rstn : Bool) (pins : Octets) (shift : Option Octets) (d : Dev) : Dev :=
  if 2 ≤ d.life.state ∧ d.life.state ≤ 4 ∧ ¬ rstn then tapBypass d
  else onLife d (fun l => { l with ir := 0x00, dr := pins, bsr := shift.getD l.bsr, drive := some (shift.getD l.bsr) })

def tapIdcode (d : Dev) : Dev := tapSelect 0x01 (leOct 4 0x182561C7) d

/-- SAMPLE/PRELOAD: the boundary-scan register captures the pins and takes what is shifted in; the pins stay the device's. -/
def tapSample (pins : Octets) (shift : Option Octets) (d : Dev) : Dev :=
  onLife d (fun l => { l with ir := 0x02, dr := pins, bsr := shift.getD l.bsr, drive := none })

/-- AUTH: a read shifts a challenge out, issuing a DEBUG_OPEN one; zeros, until it is there; a response shifted in is verified. K does both once its
start-up is over (R368). -/
def tapAuth (resp : Option Octets) (d : Dev) : Dev :=
  if d.life.state ≤ 1 ∨ d.life.state = 5 then tapBypass d
  else if ¬ d.life.booted then tapSelect 0x10 (zeros 176) d
  else match resp with
  | some r => tapSelect 0x10 [] (verifyResponse (fitTo 176 r) d).2
  | none => tapChallenge (tapSelect 0x10 (zeros 176) d)

/-- DEBUG without an open session acts as BYPASS and is one event of source 32. -/
def tapDebug (d : Dev) : Dev :=
  if portOpen d then tapSelect 0x20 [] d else tamperEvent 32 (tapBypass d)

/-- TAP_RESET: TRST_N selects IDCODE (R469). -/
def tapReset (d : Dev) : Dev := tapIdcode d

/-- What a reset that reaches K takes: the challenge, the held responses, the session, and K's working copies of the ladder's keys and record. A ROOT
row in writing is cut. -/
def lifeReset (d : Dev) : Dev :=
  let d := if d.life.active ∧ rootRow d then rootTorn d else d
  onLife (endTowpath d) (fun l => recordNone
    { l with chal := none, chalWait := false, auth := [], failRun := 0, starting := none, active := false, booted := false, recipe := 0,
             bootStatus := 0, bootPlane := 0, bootGen := 0, kekDevice := [], kekOwner := [] })

/-! ### Registers (Tables 16.9, 16.10) -/

def lcsStateWord (d : Dev) : Word :=
  pack [(0, d.life.state), (3, b2n (lcUnanimous d)), (4, tCount (lcVote d)), (9, b2n (kekReleased d 0)), (10, b2n (kekReleased d 1)),
        (11, b2n (kekReleased d 2 && !d.life.kekBasin.isEmpty))]

def lcsProgressWord (d : Dev) : Word :=
  let s := d.keep.shadow
  pack [(0, s.1), (3, s.2.1), (6, s.2.2), (9, b2n d.life.fail)]

def lcsBootWord (d : Dev) : Word := pack [(0, d.life.bootPlane), (1, d.life.bootStatus)]

def chalWord (d : Dev) (i : Nat) : Word := match d.life.chal with | some (c, _) => wd (leAt c (4 * i) 4) | none => 0

def dbgStatusWord (d : Dev) : Word :=
  pack [(0, b2n (portOpen d)), (1, b2n (bit (rg d Reg.DBG_STATUS) 1)), (2, if d.life.state ≤ 1 then 7 else d.life.scope), (5, b2n d.life.chal.isSome)]

end Sys2Proof.Machine
end

