-- ==== Sys2Proof/Machine/Pmu.lean ====
section
/-! DEFINITION. The performance counters (chapter 19): the cores' PMU groups, samples and bandwidth monitors. Cycle counts are not modelled: a counter
that counts cycles reads as a free value (log entry 4). -/

namespace Sys2Proof.Machine

def pmuReg (m k : Nat) : Nat := 0x180000 + 256 * m + k

/-- The core and offset a PMU group word belongs to. -/
def pmuWord (a : Nat) : Option (Nat × Nat) :=
  let o := a % 65536
  if a >>> 16 = 0x18 ∧ isCore (o / 256) then some (o / 256, o % 256) else none

def pmuGet (d : Dev) (m : Nat) : PmuCore := tabGet {} d.pmu m
def pmuSet (d : Dev) (m : Nat) (x : PmuCore) : Dev := { d with pmu := tabSet {} d.pmu m x }

def pmuCtl (d : Dev) (m : Nat) : Word := rg d (pmuReg m 0)
def pmuOvf (d : Dev) (m : Nat) : Word := rg d (pmuReg m 2)

/-- Does the group count: ENABLE, and not stopped at its first overflow by FREEZE? -/
def pmuCounts (d : Dev) (m : Nat) : Bool := bit (pmuCtl d m) 0 && !(bit (pmuCtl d m) 1 && decide (fld (pmuOvf d m) 10 0 ≠ 0))

/-- Codes of Table 19.5 that count cycles or issue slots, cache or prediction events: how often they occur is not modelled. -/
def pmuFree (code : Nat) : Bool := decide (code ∈ [0x01, 0x02, 0x03, 0x04, 0x05, 0x06, 0x07, 0x09, 0x11, 0x12])

/-- A counter of two words: value, and advance with its overflow bit. -/
def pmuValue (d : Dev) (m lo : Nat) : Nat := ofLoHi (rg d (pmuReg m lo)) (rg d (pmuReg m (lo + 1)))
def pmuStore (d : Dev) (m lo v : Nat) : Dev := rgSet (rgSet d (pmuReg m lo) (loWord v)) (pmuReg m (lo + 1)) (hiWord (v % 2 ^ 48))

/-- PMC i, or the fixed counter 8 + i: the offset of its LO word. -/
def pmuLo (i : Nat) : Nat := if i < 8 then 0x18 + 2 * i else 0x04 + 2 * (i - 8)

/-- Does the counter with a LO word at an offset count cycles or the like? -/
def pmuIsFree (d : Dev) (m lo : Nat) : Bool :=
  decide (lo = 0x04 ∨ lo = 0x08) || (decide (0x18 ≤ lo) && pmuFree (fld (rg d (pmuReg m (0x10 + (lo - 0x18) / 2))) 7 0))

/-- The group begins to count: what its counters hold is no longer settled. -/
def pmuStart (m : Nat) (was : Bool) (d : Dev) : Dev :=
  if pmuCounts d m ∧ ¬ was then pmuSet d m { pmuGet d m with ran := (List.range 11).map pmuLo } else d

/-- A counter of cycles that has stopped: its count is a free value, and stays (log entry 4). -/
def pmuSettle (m lo : Nat) (d : Dev) : Dev :=
  if lo ∈ (pmuGet d m).ran ∧ pmuIsFree d m lo then
    let r := drawWord d
    let q := drawWord r.2
    let d := rgSet (rgSet q.2 (pmuReg m lo) r.1) (pmuReg m (lo + 1)) (q.1 &&& 0xFFF)
    pmuSet d m { pmuGet d m with ran := (pmuGet d m).ran.filter (· ≠ lo) }
  else d

def pmuAdvance (m lo ovf n : Nat) (d : Dev) : Dev :=
  let v := pmuValue d m lo + n
  if v < 2 ^ 48 then pmuStore d m lo v else rgOr (pmuStore d m lo (v % 2 ^ 48)) (pmuReg m 2) (2 ^ ovf)

/-- Events at a privilege level counted by the programmable counters that name them. -/
def pmuEvents (m pl : Nat) (codes : List Nat) (d : Dev) : Dev :=
  (List.range 8).foldl (fun d i =>
    let w := rg d (pmuReg m (0x10 + i))
    let n := (codes.filter (fun c => decide (c ≠ 0 ∧ c = fld w 7 0))).length
    if pmuCounts d m ∧ n ≠ 0 ∧ bit w (8 + pl) then pmuAdvance m (0x18 + 2 * i) i n d else d) d

/-- An instruction retires: FC1, then the events it is. -/
def pmuRetire (m pl : Nat) (codes : List Nat) (d : Dev) : Dev :=
  pmuEvents m pl codes (if pmuCounts d m then pmuAdvance m 0x06 9 1 d else d)

/-- PMU_COUNTER_OVERFLOW: a counter wraps and sets its bit (0 to 7 PMC, 8 to 10 FC). -/
def pmuOverflow (m i : Nat) (d : Dev) : Dev :=
  if isCore m ∧ i < 11 ∧ pmuCounts d m then
    let d := rgOr (pmuStore d m (pmuLo i) 0) (pmuReg m 2) (2 ^ i)
    if pmuCounts d m then d else pmuSet d m { pmuGet d m with ran := (pmuGet d m).ran.filter (· ≠ pmuLo i) }
  else d

/-- Every counter of the group cleared. -/
def pmuClear (m : Nat) (d : Dev) : Dev :=
  let d := ((List.range 3).map (fun i => 0x04 + 2 * i) ++ (List.range 8).map (fun i => 0x18 + 2 * i)).foldl (fun d lo => pmuStore d m lo 0) d
  if pmuCounts d m ∨ (pmuGet d m).ran = [] then d else pmuSet d m { pmuGet d m with ran := [] }

/-- May a master write the group (R449)? P2 never writes it. -/
def pmuMay (m pl g : Nat) : Bool := (decide (m = 1) || decide (m = g)) && decide (pl ≤ 1)

/-- Is the event code one the core has? TOPDOWN exists on H0 to H7. -/
def pmuEventOk (g code : Nat) : Bool := decide (code ≤ 0x12) && (isH g || !decide (1 ≤ code ∧ code ≤ 3))

/-- A write to a word of a group. -/
def pmuWrite (m pl a : Nat) (v : Word) (d : Dev) : Dev :=
  match pmuWord a with
  | none => d
  | some (g, k) =>
    if ¬ pmuMay m pl g then d
    else if k = 0 then
      let d := pmuStart g (pmuCounts d g) (rgSet d a (v &&& 3))
      if bit v 2 then pmuClear g d else d
    else if k = 1 then rgSet d a (v &&& 1)
    else if k = 2 then pmuStart g (pmuCounts d g) (rgSet d a (rg d a &&& ~~~(v &&& 0xFFF)))
    else if k = 3 then rgSet d a (v &&& 0xFFF)
    else if 0x10 ≤ k ∧ k ≤ 0x17 then rgSet (pmuSettle g (0x18 + 2 * (k - 0x10)) d) a (if pmuEventOk g (fld v 7 0) then v &&& 0x7FF else v &&& 0x700)
    else if 0x18 ≤ k ∧ k ≤ 0x27 then rgSet (pmuSettle g (k - k % 2) d) a (if k % 2 = 0 then v else v &&& 0xFFF)
    else if k = 0x30 then (if fld v 20 1 < 2 ^ fld v 24 21 then d else rgSet d a (v &&& 0x3FFFFFFFF))
    else d

/-- PMU_CLEAR: a write of PMU_CTL with CLEAR. -/
def pmuClearWrite (m pl g : Nat) (d : Dev) : Dev := pmuWrite m pl (pmuReg g 0) (pmuCtl d g ||| 4) d

/-! ### Samples (R448) -/

def smpCtl (d : Dev) (m : Nat) : Word := rg d (pmuReg m 0x30)

/-- The interval to the next tag: PERIOD, spread by JITTER bits of a draw while the store holds one. -/
def sampleInterval (ctl : Word) (draw : Option Nat) : Nat :=
  let period := fld ctl 20 1
  let j := fld ctl 24 21
  match draw with
  | some v => if j = 0 then period else period - 2 ^ (j - 1) + v % 2 ^ j
  | none => period

/-- SAMPLE_TAG: one instruction is tagged and the next interval is taken; the core counts it. A draw is used where JITTER asks for one. -/
def sampleTag (m : Nat) (d : Dev) : Dev :=
  let x := pmuGet d m
  let ctl := smpCtl d m
  if isCore m ∧ bit ctl 0 ∧ ¬ x.tag then
    pmuSet d m { x with tag := true, interval := sampleInterval ctl x.draws.head?, draws := if fld ctl 24 21 = 0 then x.draws else x.draws.drop 1 }
  else d

/-- Words 0 to 6 of a sample (Table 19.7). -/
def sampleWords (x : SampleInfo) : List Nat :=
  [ x.pc, (pack [(0, x.op % 256), (8, x.pl % 4), (10, b2n x.pipe), (11, b2n x.paired), (12, b2n x.retired), (13, b2n x.mispredict), (14, b2n x.icMiss),
      (15, b2n x.dcMiss), (16, b2n x.exc)]).toNat, x.fetchAt, x.decodeAt, x.issueAt, x.completeAt, x.endAt ].map (· % 2 ^ 36)

/-- SAMPLE_RECORD: the tagged instruction's sample (Table 19.7) enters the buffer, or is counted lost. -/
def sampleRecord (m : Nat) (i : SampleInfo) (d : Dev) : Dev :=
  let x := pmuGet d m
  if ¬ x.tag then d
  else if 256 ≤ x.samples.length then pmuSet d m { x with tag := false, lost := min (2 ^ 27 - 1) (x.lost + 1) }
  else
    let d := pmuSet d m { x with tag := false, samples := x.samples ++ [sampleWords i ++ [d.pas.count % 2 ^ 36]] }
    if x.samples.length + 1 = fld (smpCtl d m) 33 25 then rgOr d (pmuReg m 2) (2 ^ 11) else d

/-- A read of PMU_SMP_DATA of core g: the next word of the oldest sample; the eighth removes it. -/
def sampleData (g : Nat) (d : Dev) : Word × Dev :=
  let x := pmuGet d g
  match x.samples with
  | [] => (0, d)
  | s :: r => (wd (s.getD x.idx 0), pmuSet d g (if x.idx = 7 then { x with samples := r, idx := 0 } else { x with idx := x.idx + 1 }))

def pmuSmpRead (m g : Nat) (d : Dev) : Dev := let r := sampleData g d; rdSet r.2 m r.1

/-- A read of any other word of a group. A counter of cycles reads as a free value while it counts; stopped, it keeps one. -/
def pmuRead (g k : Nat) (d : Dev) : Word × Dev :=
  let x := pmuGet d g
  let counter := decide (4 ≤ k ∧ k ≤ 9) || decide (0x18 ≤ k ∧ k ≤ 0x27)
  let lo := k - k % 2
  if k = 0x31 then (pack [(0, x.samples.length), (9, x.lost)], d)
  else if counter ∧ pmuIsFree d g lo then
    if pmuCounts d g then let r := drawWord d; (if k % 2 = 1 then r.1 &&& 0xFFF else r.1, r.2)
    else let d := pmuSettle g lo d; (rg d (pmuReg g k), d)
  else (rg d (pmuReg g k), d)

/-- R449: at each edge, is vector 20 due on a core? -/
def pmuDue (d : Dev) (m : Nat) : Bool := decide (pmuOvf d m &&& rg d (pmuReg m 3) ≠ 0)

/-- A CORE reset clears the group. -/
def pmuReset (m : Nat) (d : Dev) : Dev :=
  { d with regs := d.regs.filter (fun e => !decide (e.1 / 256 = 0x1800 + m)), pmu := tabErase d.pmu m }

/-! ### Bandwidth monitors (R447) -/

/-- Octets of the window at a monitor: the Lockgate's and the lanes' as the device counted them; those of PCIe, the cages and DRAM come with the command
(log entry 88). -/
def bwCount (d : Dev) (counts : List Nat) (i : Nat) : Nat := min (2 ^ 48 - 1) (if 20 ≤ i then tabGet 0 d.bw.count i else counts.getD i 0)

/-- BANDWIDTH_WINDOW_CLOSE: the window that closes at this edge, once in its pass. -/
def bwClose (counts : List Nat) (e : Dev) : Dev :=
  if e.pas.count % rn e Reg.PMU_BW_WINDOW ≠ 0 ∨ e.pas.count = e.bw.last then e
  else (List.range 30).foldl (fun d i =>
    let v := bwCount e counts i
    let a := 4 * i
    let mx := max v (ofLoHi (rg d (Reg.PMU_BW_MAX_LO + a)) (rg d (Reg.PMU_BW_MAX_HI + a)))
    let d := rgSet (rgSet d (Reg.PMU_BW_LAST_LO + a) (loWord v)) (Reg.PMU_BW_LAST_HI + a) (hiWord v)
    rgSet (rgSet d (Reg.PMU_BW_MAX_LO + a) (loWord mx)) (Reg.PMU_BW_MAX_HI + a) (hiWord mx)) { e with bw := { last := e.pas.count } }

/-- PMU_BW_CLEAR. -/
def bwClear (d : Dev) : Dev :=
  (List.range 30).foldl (fun d i => rgSet (rgSet d (Reg.PMU_BW_MAX_LO + 4 * i) 0) (Reg.PMU_BW_MAX_HI + 4 * i) 0) d

/-- R481. -/
def levelPmu (d : Dev) : List LRule := [⟨1, decide (cv d Reg.PMU_BW_WINDOW = 0), [Reg.PMU_BW_WINDOW]⟩]

end Sys2Proof.Machine
end

