-- ==== Sys2Proof/Machine/Replay.lean ====
section
/-! DEFINITION. Replay recording (chapter 19): sections and items, records, staging, delivery, the release token. -/

namespace Sys2Proof.Machine

def onRpl (d : Dev) (f : Rpl → Rpl) : Dev := { d with rpl := f d.rpl }

def rplEnable (d : Dev) : Bool := bit (rg d Reg.RPL_CTL) 0
def rplDest (d : Dev) : Nat := fld (rg d Reg.RPL_CTL) 2 1

/-- Bit of a core in CORES and RPL_REPLAY_CORES. -/
def rplBit (m : Nat) : Nat := if isF m then 8 + (m - 0x20) else m - 0x10
def rplCores (d : Dev) : Nat := fld (rg d Reg.RPL_CTL) 14 3

/-- In REPLAY mode and after a divergence: is the core one that RPL_REPLAY_CORES names? -/
def replayed (d : Dev) (m : Nat) : Bool :=
  decide (2 ≤ d.rpl.mode) && (isH m || isF m) && (fld (rg d Reg.RPL_REPLAY_CORES) 11 0).testBit (rplBit m)

/-- Is the core kept from running by anything but a replayed section (R442)? -/
def benchHeld (d : Dev) (m : Nat) : Bool := replayed d m || (isF m && [0x20, 0x21, 0x22, 0x23].any (replayed d))

/-- Is the core recorded now? -/
def recorded (d : Dev) (m : Nat) : Bool :=
  decide (d.rpl.mode = 1) && ((isH m && d.rpl.hostSeg) || (isF m && d.rpl.fieldSeg)) && (rplCores d).testBit (rplBit m)

def sect (d : Dev) (m : Nat) : RplSect := (tabFind d.rpl.sects m).getD { core := m }
def sectSet (d : Dev) (m : Nat) (s : RplSect) : Dev := onRpl d (fun r => { r with sects := tabPut r.sects m s })

/-- An item a recorded core observes now (Table 19.1). -/
def rplItem (m kind : Nat) (words : List Nat) (d : Dev) : Dev :=
  if recorded d m then
    let s := sect d m
    sectSet d m { s with items := s.items ++ [{ kind := kind, at_ := (coreGet d m).progress, words := words }] }
  else d

/-- Output words of a recorded core (R435). -/
def rplOut (m : Nat) (ws : List Word) (d : Dev) : Dev :=
  if recorded d m then let s := sect d m; sectSet d m { s with outs := s.outs ++ ws } else d

/-- MEMORY items of the inputs presented to a core. -/
def memoryItems (d : Dev) (m : Nat) : List RplItem :=
  ((d.pas.seen.filter (fun i => decide (i.core = m))).flatMap (·.mems)).map (fun r =>
    { kind := 1, at_ := 0,
      words := r.1 :: (List.range r.2).map (fun i => ((if isF m then fmRd d (r.1 + i) else memRd d (r.1 + i)) : Word).toNat) })

/-- Words packed dense, an odd count padded. -/
def denseOct (ws : List Nat) : Octets := denseUnpack ((if ws.length % 2 = 1 then ws ++ [0] else ws).map wd)

def itemOct (i : RplItem) : Octets := leOct 1 i.kind ++ zeros 3 ++ leOct 4 i.words.length ++ leOct 8 i.at_ ++ denseOct i.words

def sectOct (s : RplSect) : Octets :=
  leOct 1 s.core ++ leOct 1 s.flags ++ zeros 2 ++ leOct 4 s.items.length ++ leOct 8 s.progress ++ s.digest ++ s.items.flatMap itemOct

/-- A section as it stands at the end of its pass. -/
def sectClose (d : Dev) (m : Nat) : RplSect :=
  let s := sect d m
  let c := coreGet d m
  let flags := s.flags % 4 + 4 * b2n (!c.run)
  { s with progress := c.progress, flags := flags, digest := sha256 (denseOct (s.outs.map (·.toNat))) }

/-- Recorded cores of an island. -/
def recordedCores (d : Dev) (field : Bool) : List Nat :=
  ((if field then [0x20, 0x21, 0x22, 0x23] else (List.range 8).map (0x10 + ·))).filter (recorded d)

/-- A recorded core's section for the pass that begins. -/
def sectOpen (d : Dev) (m : Nat) : Dev := sectSet d m { core := m, items := memoryItems d m }

/-- Step 8 of a host edge: the sections of the pass that ended wait for their record; new ones open with the inputs presented. -/
def rplSnap (pass : Nat) (d : Dev) : Dev :=
  if d.rpl.mode ≠ 1 ∨ ¬ (d.rpl.hostSeg ∨ d.rpl.fieldSeg) then d
  else
    let cs := recordedCores d false
    let ss := cs.map (sectClose d)
    cs.foldl sectOpen (onRpl d (fun r => { r with closing := r.closing ++ [(pass, !d.lkg.fieldUp, ss)] }))

/-- A field core's section cut into REPLAY_LOG barges. -/
def logBarges (m pass : Nat) (o : Octets) : List Barge :=
  let cs := chunks 63 o
  cs.zipIdx.map (fun c =>
    { toField := false, lane := 0, type := 0x0F, core := 4, ref := pass % 4096,
      payload := fit15 (pack [(0, m - 0x20), (2, b2n (decide (c.2 + 1 = cs.length)))] :: densePack c.1) })

/-- Step 8 of a field edge: each field core's section goes towards the host island; past 4,096 waiting barges the sections are LOST and the field
cores' recording ends. -/
def rplSnapField (pass : Nat) (d : Dev) : Dev :=
  let cs := recordedCores d true
  if cs.isEmpty then d
  else
    let waiting := (tabGet [] d.lkg.sendq 0).filter (fun b => decide (b.type = 0x0F))
    let bs := cs.flatMap (fun m => logBarges m pass (sectOct (sectClose d m)))
    if 4096 < waiting.length + bs.length then
      let lost := fun (m : Nat) => sectOct { core := m, flags := 2, progress := (coreGet d m).progress, digest := zeros 32 }
      let logs := cs.foldl (fun t m => tabPut t (pass % 4096 * 4 + (m - 0x20)) (lost m, true)) d.rpl.logs
      onRpl d (fun r => { r with fieldSeg := false, logs := logs })
    else cs.foldl sectOpen (bs.foldl (fun d b => queueBarge d 0 b) d)

/-! ### Records (R436 to R440) -/

/-- Length of a section inside its octets. -/
def sectLen (o : Octets) : Nat :=
  (List.range (leAt o 4 4)).foldl (fun p _ => p + 16 + 9 * ceilDiv (leAt o (p + 4) 4) 2) 48

/-- Table 19.2. -/
def recordHdr (d : Dev) (flags pass bodyLen : Nat) : Octets :=
  [0x51, 0x52, 0x50, 0x31] ++ leOct 2 1 ++ leOct 2 flags ++ leOct 8 pass ++ leOct 6 d.rpl.rseq ++ zeros 2 ++ leOct 4 d.rpl.epoch ++ leOct 4 bodyLen ++
    fitTo 32 d.rpl.prev ++ fitTo 16 d.life.devid

def rplIv (epoch rseq : Nat) : Octets := leOct 4 epoch ++ leOct 6 rseq ++ zeros 2

/-- A sealed record: header, encrypted body, tag. -/
def recordSeal (d : Dev) (flags pass : Nat) (body : Octets) : Octets :=
  let h := recordHdr d flags pass body.length
  let r := gcmEnc (d.rpl.key.getD []) (rplIv d.rpl.epoch d.rpl.rseq) h body
  h ++ r.1 ++ r.2

/-- Words of the staging ring, and how many of them hold records not yet delivered. -/
def stageCap (d : Dev) : Nat := rn d Reg.RPL_STAGE_SIZE * 2 ^ 20
def stageWords (n : Nat) : Nat := packLen true n
def stagedWords (d : Dev) : Nat := (d.rpl.staged.map (fun s => stageWords s.data.length)).foldl (· + ·) 0

/-- Words written at the ring's write position, through Sluice 11 serving context 0x01. -/
def stageWrite (ws : List Word) (d : Dev) : Bool × Dev :=
  let at_ := d.rpl.stagePos % max 1 (stageCap d)
  let n := stageCap d - at_
  let base := rn d Reg.RPL_STAGE_BASE
  match engWriteAt d 0x3B 1 0 (base + at_) (ws.take n) with
  | (false, d) => (false, d)
  | (true, d) => engWriteAt d 0x3B 1 0 base (ws.drop n)

/-- A record joins the staged ones; RSEQ advances. -/
def stagePut (o : Octets) (d : Dev) : Dev :=
  onRpl d (fun r => { r with staged := r.staged ++ [{ rseq := r.rseq, epoch := r.epoch, data := o }], prev := sha256 o, rseq := r.rseq + 1,
                             stagePos := r.stagePos + stageWords o.length })

/-- R440: a LOST record; every segment ends. -/
def rplLost (pass : Nat) (d : Dev) : Dev :=
  let o := recordSeal d 2 pass []
  let d := rgAdd (stagePut o (stageWrite (densePack o) d).2) Reg.RPL_LOST 1
  onRpl d (fun r => { r with hostSeg := false, fieldSeg := false, sects := [], closing := [], logs := [] })

/-- A record is staged, or the recording is lost. -/
def stageRecord (pass : Nat) (o : Octets) (d : Dev) : Dev :=
  if stageCap d < stagedWords d + stageWords o.length then rplLost pass d
  else match stageWrite (densePack o) d with
  | (true, d) => stagePut o d
  | (false, d) => rplLost pass d

/-- Field sections of a pass: the key of a core's log. -/
def logKey (pass c : Nat) : Nat := pass % 4096 * 4 + c

/-- Can the record of a pass close: every recorded field core's last log has come? -/
def closeReady (d : Dev) (pass : Nat) (down : Bool) : Bool :=
  down || ((List.range 4).all (fun c => !(rplCores d).testBit (8 + c) || !d.rpl.fieldSeg || (tabGet ([], false) d.rpl.logs (logKey pass c)).2))

/-- RECORD_CLOSE: the oldest pass whose sections are complete is sealed and staged. -/
def recordClose (d : Dev) : Dev :=
  match d.rpl.closing with
  | [] => d
  | (pass, down, ss) :: rest =>
    if d.rpl.key.isNone ∨ ¬ closeReady d pass down then d
    else
      let logs := (List.range 4).filterMap (fun c => tabFind d.rpl.logs (logKey pass c))
      let fs := if down then [] else logs.flatMap (fun l => l.1.take (sectLen l.1))
      let left := (List.range 4).foldl (fun t c => tabErase t (logKey pass c)) d.rpl.logs
      let d := onRpl d (fun r => { r with closing := rest, logs := left })
      stageRecord pass (recordSeal d (4 * b2n down) pass (ss.flatMap sectOct ++ fs)) d

/-- Every record that can close now. -/
def recordCloseAll : Nat → Dev → Dev
  | 0, d => d
  | n + 1, d => if (recordClose d).rpl.closing.length < d.rpl.closing.length then recordCloseAll n (recordClose d) else d

/-! ### Epochs (R432, R437) -/

/-- The key is wiped and the epoch ends; passes in progress are lost. -/
def rplWipe (d : Dev) : Dev :=
  if d.rpl.mode = 1 then
    onRpl d (fun r => { r with key := none, mode := 0, keyWait := false, relWait := false, hostSeg := false, fieldSeg := false, sects := [],
                               closing := [], logs := [] })
  else onRpl d (fun r => { r with key := none, keyWait := false, relWait := false })

/-- ENABLE opens 1: a key is drawn and the KEYREC record is staged. The draw waits while the Hopper is not serving; one it refuses ends the start with
no epoch (R186; log entry 86). -/
def rplStart (d : Dev) : Dev :=
  if ¬ hopServes d 3 then onRpl d (fun r => { r with keyWait := hopWaits d 3 })
  else
    let x := hwDraw (onRpl d (fun r => { r with keyWait := false })) 3
    let key := x.1.take 32
    let d := moncInc x.2 6
    let blob := exportBlob d { alg := 3, bits := 256, owner := 1, material := key } 1 (slice x.1 32 12)
    let d := onRpl d (fun r => { r with key := some key, epoch := monc d 6 % 2 ^ 32, rseq := 0, prev := [], mode := 1 })
    let dig := match (plane d d.life.bootPlane).committed with | some (_, h) => h | none => []
    let body := fitTo 92 blob ++ leOct 4 d.life.bootGen ++ fitTo 48 dig ++ leOct 2 (rplCores d) ++ zeros 2
    stageRecord d.pas.count (recordHdr d 1 d.pas.count 148 ++ body) d

/-- ENABLE opens 0: the pass that ended is closed, then the epoch ends. -/
def rplStop (d : Dev) : Dev :=
  let d := rplSnap (d.pas.count - 1) d
  rplWipe (recordCloseAll d.rpl.closing.length d)

/-- RPL_CTL opens; `was` is ENABLE before. -/
def rplCtlOpen (was : Bool) (d : Dev) : Dev :=
  if rplEnable d ∧ ¬ was then rplStart d else if ¬ rplEnable d ∧ was then rplStop d else d

/-- A segment of an island begins at its release. -/
def segStart (field : Bool) (d : Dev) : Dev :=
  if d.rpl.mode ≠ 1 ∨ ¬ rplEnable d then d
  else
    let d := onRpl d (fun r => if field then { r with fieldSeg := true } else { r with hostSeg := true })
    (recordedCores d field).foldl (fun d m => sectSet d m { core := m, flags := 1 }) d

/-! ### Delivery (R438, R439) -/

/-- Records that have gone to every destination leave the staging ring. -/
def stagePrune (d : Dev) : Dev :=
  let ok := fun (s : Staged) => (decide (rplDest d = 1) || s.ring) && (decide (rplDest d = 0) || decide (s.data.length ≤ s.card))
  onRpl d (fun r => { r with staged := r.staged.dropWhile ok })

/-- Octets written around the replay ring as the PF. -/
def ringWrite (d : Dev) (o : Octets) : Dev :=
  let size := 2 ^ rn d Reg.RPL_RING_SIZE
  let base := ofLoHi (rg d Reg.RPL_RING_BASE_LO) (rg d Reg.RPL_RING_BASE_HI)
  let at_ := d.rpl.produced % size
  let n := size - at_
  fnWrite (fnWrite d 0 (base + at_) (o.take n)) 0 base (o.drop n)

/-- RECORD_DELIVERY: with CONSUMED as the host has written it, the oldest record not yet on the replay ring is written there if it fits. -/
def recordDelivery (consumed : Nat) (d : Dev) : Dev :=
  match d.rpl.staged.find? (fun s => !s.ring) with
  | none => d
  | some s =>
    let size := rn d Reg.RPL_RING_SIZE
    if rplDest d = 1 ∨ size = 0 ∨ consumed + 2 ^ size < d.rpl.produced + s.data.length then d
    else
      let d := ringWrite d s.data
      let st := d.rpl.staged.map (fun x => if x.rseq = s.rseq ∧ x.epoch = s.epoch then { x with ring := true } else x)
      let d := onRpl d (fun r => { r with produced := r.produced + s.data.length, staged := st })
      let d := fnWrite d 0 (ofLoHi (rg d Reg.RPL_RING_CTRL_LO) (rg d Reg.RPL_RING_CTRL_HI)) (leOct 8 d.rpl.produced)
      let v := rg d Reg.RPL_HOST_VEC
      stagePrune (if bit v 11 then fireVec d 0 (fld v 10 0) else d)

/-- One REPLAY fragment of a record appended to the audit chain. -/
def cardFragment (d : Dev) : Option Dev :=
  match d.rpl.staged.find? (fun s => decide (s.card < s.data.length)) with
  | none => none
  | some s =>
    if rplDest d = 0 ∨ ¬ maySeal d ∨ budgetLeft d Reg.SDH_APPEND_BUDGET = 0 ∨ budgetLeft d Reg.RPL_CARD_BUDGET = 0 ∨ auditRoom ≤ d.sdh.buffer.length then none
    else
      let part := slice s.data s.card 416
      let body := leOct 6 s.rseq ++ leOct 4 s.epoch ++ leOct 4 s.card ++ leOct 1 (b2n (decide (s.data.length ≤ s.card + 416))) ++ zeros 1 ++ part
      let r := sdhSeal 5 0xB8 body (debit (debit d Reg.SDH_APPEND_BUDGET 1) Reg.RPL_CARD_BUDGET 1)
      let d := bufAdd r.1 r.2
      let st := d.rpl.staged.map (fun x => if x.rseq = s.rseq ∧ x.epoch = s.epoch then { x with card := x.card + part.length } else x)
      some (stagePrune (onRpl d (fun r => { r with staged := st })))

/-- Step 7: fragments ahead of the firmware appends. -/
def cardFragments : Nat → Dev → Dev
  | 0, d => d
  | n + 1, d => match cardFragment d with
    | some d => cardFragments n d
    | none => d

/-! ### Release tokens (R441) -/

/-- Octets of quad-packed register words. -/
def regOct (word : Nat → Word) (base n : Nat) : Octets := quadUnpack ((List.range n).map (fun i => word (base + i)))

/-- The transport key of a token, from the shared x-coordinate. -/
def tokenKey (sx : Nat) (tok : Octets) : Octets := (sha384 (leOct 48 sx ++ tok.take 16)).take 32

/-- The replay key of a token that opens under the unit's own DAK. -/
def tokenOpen (d : Dev) (tok : Octets) : Option Octets :=
  match dakScalar d with
  | none => none
  | some k =>
    let x := leAt tok 16 48
    let y := leAt tok 64 48
    if leAt tok 0 2 ≠ 1 ∨ leAt tok 2 1 ≠ 0x30 ∨ leAt tok 3 1 ≠ 0 ∨ ¬ allZero (slice tok 8 8) ∨ ¬ onCurve p384 x y then none
    else match ptMul p384 k (some (x, y)) with
    | none => none
    | some (sx, _) =>
      let r := gcmDec (tokenKey sx tok) (slice tok 112 12) (tok.take 112) (slice tok 124 32)
      if octEq r.2 (slice tok 156 16) then some r.1 else none

/-- The key a release blob holds under KEK 1. -/
def blobKey (d : Dev) (blob : Octets) : Option Octets :=
  let h := hdrOf blob
  if h.kek ≠ 1 ∨ ¬ kekReleased d 1 ∨ h.matLen ≠ 32 ∨ h.alg ≠ 3 ∨ h.usage ≠ 0 ∨ h.owner ≠ 1 then none else unwrapBlob d blob

/-- Does the chamber name a release? -/
def releaseNamed (d : Dev) : Bool := d.chm.entries.any (fun e => decide (Reg.RPL_REL_EPOCH ≤ e.1 ∧ e.1 < Reg.RPL_REL_DAK + 24))

/-- A chamber that names a release opens: the token is made. Its draw waits, or ends it without a token, as that of an epoch's key. -/
def releaseOpen (d : Dev) : Dev :=
  if ¬ hopServes d 5 then onRpl d (fun r => { r with relWait := hopWaits d 5 })
  else
    let d := onRpl d (fun r => { r with relWait := false })
    let dak := regOct (rg d) Reg.RPL_REL_DAK 24
    match blobKey d ((regOct (rg d) Reg.RPL_REL_BLOB 23).take 92) with
    | none => d
    | some key =>
      let x := hwDraw d 5
      let d := x.2
      let k := beNat (x.1.take 56) % (p384.n - 1) + 1
      match ptMul p384 k (curveG p384), ptMul p384 k (some (leAt dak 0 48, leAt dak 48 48)) with
      | some (ex, ey), some (sx, _) =>
        let h := leOct 2 1 ++ leOct 1 0x30 ++ zeros 1 ++ leOct 4 (rn d Reg.RPL_REL_EPOCH) ++ zeros 8 ++ leOct 48 ex ++ leOct 48 ey
        let iv := slice x.1 64 12
        let r := gcmEnc (tokenKey sx h) iv h key
        let t := h ++ iv ++ r.1 ++ r.2
        (List.range 43).foldl (fun d i => rgSet d (Reg.RPL_REL_TOKEN + i) (wd (leAt t (4 * i) 4))) d
      | _, _ => d

/-- At each edge: draws that waited for the Hopper. -/
def rplWaits (d : Dev) : Dev :=
  let d := if d.rpl.keyWait then rplStart d else d
  if d.rpl.relWait then releaseOpen d else d

/-- Table 19.9. -/
def levelRpl (d : Dev) : List LRule :=
  let ctl := chmView d Reg.RPL_CTL
  let dest := fld ctl 2 1
  let size := cv d Reg.RPL_RING_SIZE
  let rep := bit (chmView d Reg.RPL_MODE) 0
  let dak := regOct (chmView d) Reg.RPL_REL_DAK 24
  let blob := (regOct (chmView d) Reg.RPL_REL_BLOB 23).take 92
  [ ⟨1, bit ctl 0 && (decide (cv d Reg.RPL_STAGE_SIZE = 0) || (decide (dest = 0 ∨ dest = 2) && decide (size = 0))) || decide (dest = 3),
      [Reg.RPL_CTL, Reg.RPL_STAGE_SIZE, Reg.RPL_RING_SIZE]⟩,
    ⟨2, rep && (decide (d.life.state ≠ 1 ∧ d.life.state ≠ 4) || bit ctl 0), [Reg.RPL_MODE, Reg.RPL_CTL]⟩,
    ⟨3, rep && (tokenOpen d ((regOct (chmView d) Reg.RPL_KEYTOK 43).take 172)).isNone, regArr Reg.RPL_KEYTOK 43 1⟩,
    ⟨4, releaseNamed d && ((blobKey d blob).isNone || !onCurve p384 (leAt dak 0 48) (leAt dak 48 48)),
      regArr Reg.RPL_REL_BLOB 23 1 ++ regArr Reg.RPL_REL_DAK 24 1⟩,
    ⟨5, (decide (size ≠ 0) && (decide (size < 12) || decide (30 < size))) || decide (256 < cv d Reg.RPL_STAGE_SIZE),
      [Reg.RPL_RING_SIZE, Reg.RPL_STAGE_SIZE]⟩ ]

def rplStateWord (d : Dev) : Word :=
  pack [(0, d.rpl.mode), (2, b2n d.rpl.hostSeg), (3, b2n d.rpl.fieldSeg), (4, b2n d.rpl.key.isSome)]

end Sys2Proof.Machine
end

