-- ==== Sys2Proof/Machine/Reset.lean ====
section
/-! DEFINITION. Reset levels and sources, what each level reaches, the release order, watchdogs, the fuse map, supplies and the firmware monotonic
counters (chapter 20). -/

namespace Sys2Proof.Machine

def onRst (d : Dev) (f : Rst → Rst) : Dev := { d with rst := f d.rst }

def hostCores : List Nat := (List.range 8).map (0x10 + ·)
def fieldCores : List Nat := [0x20, 0x21, 0x22, 0x23]

/-- An interrupt's vector becomes pending on a core. -/
def pendSet (m vec : Nat) (d : Dev) : Dev := onCore d m (fun c => { c with pend := tabSet false c.pend vec true })

/-- A core that runs again from its start state (R321). -/
def coreStart (m pc : Nat) (d : Dev) : Dev := rplItem m 5 [3] (coreSet d m { run := true, pc := pc })

/-- Where a host core starts. -/
def hostEntry (d : Dev) (m : Nat) : Nat := rn d (Reg.RST_HENTRY + (m - 0x10))

/-! ### What the levels reach -/

/-- Is the register word on the field island? -/
def fieldKey (a : Nat) : Bool :=
  let b := a >>> 16
  let g := a % 65536 / 256
  decide (2 ^ 24 ≤ a) || decide (0x20 ≤ b ∧ b ≤ 0x24) || (match regRow a with | some r => decide (r.isl = 1) | none => false) ||
    (decide (b = 0x07) && isFieldMaster g && decide (g ≠ 0)) || (decide (b = 0x18) && isF g)

/-- Register words a HOST reset keeps: those of the keep domain, of the flash controller, and K's stop record. -/
def hostKeeps (a : Nat) : Bool :=
  (decide (Reg.TMP_SRC_CTL ≤ a ∧ a < Reg.TMP_SRC_CTL + 39)) || (decide (Reg.TMP_SRC_STATUS ≤ a ∧ a < Reg.TMP_SRC_STATUS + 39)) ||
    (decide (a >>> 16 = 0x13) && decide (a ≠ Reg.FLS_XIP_CTL)) || decide (Reg.RST_STOP ≤ a ∧ a < Reg.RST_STOP + 16)

/-- COUNT of every source returns to 0; FIRED, ASSERTED and EVENTS stay. -/
def clearCounts (d : Dev) : Dev :=
  let d := (List.range 39).foldl (fun d s => rgSet d (Reg.TMP_SRC_STATUS + s) (setFld (tmpStatus d s) 7 0 0)) d
  { d with tmp := { d.tmp with since := [] } }

/-- Watchdog words of a core: 0 CTL, 1 KICK, 2 REMAIN. -/
def wdgReg (m k : Nat) : Nat := isl m (Reg.RST_WDG_CTL + 4 * (if m = 1 then 8 else m % 16) + k)

/-- A CORE reset: the core's registers, reservation, MPU group, counters, draws and watchdog. -/
def coreReset (m : Nat) (d : Dev) : Dev :=
  let d := mbxGone m (rplItem m 5 [2] d)
  let d := if d.chm.state ≠ .empty ∧ d.chm.owner = m then chmEmpty d else d
  let d := pmuReset m (hopCoreReset m (coreSet d m {}))
  let d := { d with regs := d.regs.filter (fun e => !decide (e.1 / 256 = 0x0700 + m)) }
  onRst (rgSet (rgSet d (wdgReg m 0) 0) (wdgReg m 2) 0) (fun r => { r with kicks := tabErase r.kicks m })

/-- Requests and inputs of an island's cores are lost. -/
def pasReset (field : Bool) (p : Pas) : Pas :=
  let unitF := fun (k : Nat) => decide (k = 4 ∨ k = 5)
  { p with parts := p.parts.filter (fun e => decide (unitF (e.1 / 64) ≠ field)),
           shown := if field then [] else p.shown, shownNext := if field then [] else p.shownNext,
           reqs := if field then p.reqs.filter (fun r => !unitF r.kind) else [], result := if field then p.result else [],
           inq := p.inq.filter (fun i => decide (isF i.core ≠ field)), seen := p.seen.filter (fun i => decide (isF i.core ≠ field)),
           shadow := p.shadow.filter (fun e => decide (isF (e.1 / 2 ^ 24) ≠ field)), recorded := if field then p.recorded else [] }

/-- A FIELD reset: everything in the field island; tag memory stays, and the host island keeps the chamber mirror (R244). -/
def fieldReset (d : Dev) : Dev :=
  let d := fieldCores.foldl (fun d m => coreReset m d) d
  let d := { d with regs := d.regs.filter (fun e => !fieldKey e.1 || decide (2 ^ 25 ≤ e.1)), priv := d.priv.filter (fun e => !isF (e.1 / 2 ^ 24)),
                    pinned := d.pinned.filter (fun e => !fieldKey e.1), fmem := [],
                    fld := { supplyOk := d.fld.supplyOk }, pas := pasReset true d.pas,
                    rpl := { d.rpl with logs := [], inputs := [], inputDue := [] } }
  let d := lkgReset (challengeWipe (tagFieldReset d))
  onRst { d with lkg := { d.lkg with fieldUp := false } } (fun r => { r with fieldStep := 0, fieldLvl := max 2 r.fieldLvl })

/-- Words of general DRAM. -/
def isDram (a : Nat) : Bool := inRange a 0x100000000 0x16FFFFFFF

/-- A HOST reset: the host island except the flash controller. -/
def hostReset (d : Dev) : Dev :=
  let d := if d.chm.state = .empty then d else chmEmpty d
  let d := (1 :: hostCores).foldl (fun d m => coreReset m d) d
  let d := lifeReset (sdhReset false (ofcReset (crgDiscard (flsHostReset d))))
  let d := { d with regs := d.regs.filter (fun e => fieldKey e.1 || hostKeeps e.1), priv := d.priv.filter (fun e => isF (e.1 / 2 ^ 24) || decide (e.1 % 2 ^ 24 / 2 ^ 16 = 0x13)),
                    pinned := d.pinned.filter (fun e => fieldKey e.1), spent := d.spent.filter (fun e => fieldKey e.1),
                    chm := {}, rings := [], ops := d.ops.filter (fun o => o.dead && decide (0xD1 ≤ o.opcode ∧ o.opcode ≤ 0xD7)), lanes := [], cmds := d.cmds.filter (fun e => isF (e.1 % 256)),
                    msix := [], hop := {},
                    ils := { sent := d.ils.sent }, grd := {}, pcieBme := [], pcie := [], mbx := [], linkUp := false, linkWidth := 0, linkSpeed := 0, fetchRing := 1023, fetchCnt := 0, fqPl := [], d3 := [], numVfs := 0, rpl := {}, bw := {}, meas := [],
                    slots := d.slots.filterMap (fun e => let s := { e.2 with resv := none }; if s = {} then none else some (e.1, s)),
                    mem := d.mem.filter (fun e => isDram e.1), fld := { d.fld with imgSent := d.fld.imgSent && d.fld.started },
                    pas := pasReset false d.pas }
  let d := clearCounts (lkgReset d)
  onRst d (fun r => { r with hostLvl := max 3 r.hostLvl, hostStep := 0, go := [] })

/-- A COLD reset: both islands; DRAM is cleared, key slots are emptied, the pass count restarts at 0. -/
def coldReset (d : Dev) : Dev :=
  let d := fieldReset (hostReset (flsCut d))
  let d := (List.range 16).foldl (fun d i => rgSet d (Reg.RST_STOP + i) 0) d
  let d := { d with mem := [], slots := [], crg := {}, bsn := {}, ops := [], pas := { d.pas with count := 0 },
                    regs := d.regs.filter (fun e => decide (e.1 < 2 ^ 25) && decide (e.1 >>> 16 ≠ 0x13)),
                    priv := d.priv.filter (fun e => decide (e.1 % 2 ^ 24 / 2 ^ 16 ≠ 0x13)) }
  onRst d (fun r => { r with hostLvl := max 4 r.hostLvl, fieldLvl := max 4 r.fieldLvl, fieldAlone := false })

/-- A KEEP reset: the keep domain too. -/
def keepReset (d : Dev) : Dev :=
  let d := sdhReset true (coldReset d)
  let d := { d with keep := {}, tmp := { epoch := d.tmp.epoch },
                    regs := d.regs.filter (fun e => !decide (e.1 >>> 16 = 0x06)) }
  onRst d (fun r => { r with hostLvl := 5, fieldLvl := 5 })

/-! ### Sources (R452, R453, Table 20.2) -/

def srcDefault (s : Nat) : Nat :=
  if s = 1 then 5 else if s = 0 ∨ s = 2 ∨ s = 3 ∨ s = 4 then 4 else if s = 5 ∨ s = 6 ∨ s = 9 ∨ s = 16 then 3
  else if s = 7 ∨ s = 14 then 2 else if s = 8 ∨ s = 10 then 1 else 0

/-- Levels a fuse may give a source. -/
def srcPermitted (s : Nat) : List Nat :=
  if s = 1 then [5] else if s = 0 ∨ s = 2 ∨ s = 3 then [4] else if s = 4 ∨ s = 6 ∨ s = 9 then [3, 4]
  else if s = 5 ∨ s = 8 then [1, 3, 4] else if s = 7 ∨ s = 16 then [1, 2, 3, 4] else if s = 10 then [1, 2] else if s = 12 ∨ s = 13 then [0, 3]
  else if s = 14 then [2] else if s = 15 then [0, 2, 3] else []

/-- A fuse entry's value, where it has been blown. -/
def fuse (d : Dev) (e : Nat) : Option Nat := (tabFind d.rst.fuses e).map (· - 1)

def srcLevel (d : Dev) (s : Nat) : Nat := (fuse d s).getD (srcDefault s)

/-- Default gaps of Table 20.3, and the gap in force before step n. -/
def gapDefault (n : Nat) : Nat := if n = 5 then 60000 else if n ∈ [3, 4, 6, 9, 10] then 5000 else 1000
def gap (d : Dev) (n : Nat) : Nat := (fuse d (16 + n)).getD (gapDefault n)

/-- R453: is the level covered by a reset in progress that has not released the domain concerned? -/
def covered (d : Dev) (lvl m : Nat) : Bool :=
  let r := d.rst
  if 3 ≤ lvl then decide (lvl ≤ r.hostLvl) && decide (r.hostStep < 2)
  else if lvl = 2 then decide (r.fieldLvl ≠ 0) && decide (r.fieldStep < 8)
  else !(coreGet d m).run

/-- RST_LAST: level, source bits, core. -/
def noteReset (lvl : Nat) (src core : Option Nat) (fresh : Bool) (d : Dev) : Dev :=
  let old := d.keep.rstLast
  let bits := (if fresh then 0 else nfld old 19 3) ||| (match src with | some s => 2 ^ s | none => 0)
  let word := if fresh then lvl + bits * 8 + (core.getD 0) * 2 ^ 20 else old % 8 + bits * 8 + nfld old 27 20 * 2 ^ 20
  { d with keep := { d.keep with rstLast := word, rstPass := if fresh then d.pas.count else d.keep.rstPass } }

/-- A reset of a level is carried out; CORE for K is HOST. -/
def carryOut (lvl : Nat) (src : Option Nat) (m : Nat) (d : Dev) : Dev :=
  let pass := d.pas.count
  let note := fun (d : Dev) => { noteReset lvl src (if m = 0 then none else some m) true d with
                                 keep := { (noteReset lvl src (if m = 0 then none else some m) true d).keep with rstPass := pass } }
  if lvl = 5 then note (keepReset d)
  else if lvl = 4 then note (coldReset d)
  else if lvl = 3 then note (hostReset d)
  else if lvl = 2 then note (onRst (fieldReset d) (fun r => { r with fieldAlone := true }))
  else if lvl = 1 then note (coreReset m d)
  else d

/-- A source asserts at a level: carried out, or absorbed. -/
def sourceAt (lvl src m : Nat) (d : Dev) : Dev :=
  let lvl := if lvl = 1 ∧ m = 1 then 3 else lvl
  if lvl = 0 then d
  else if covered d lvl m then noteReset lvl (some src) none false d
  else carryOut lvl (some src) m d

/-- Sources that name a core. -/
def srcCore (s : Nat) : Bool := decide (s ∈ [5, 6, 7, 8, 9, 10])

/-- A reset source of Table 20.2 other than a command asserts (R452); `m` is the core it names. -/
def sourceAssert (s m : Nat) (d : Dev) : Dev :=
  let ok := if s = 5 ∨ s = 8 then isH m else if s = 6 ∨ s = 9 then decide (m = 1) else if s = 7 ∨ s = 10 then isF m
    else if s = 16 then portOpen d else decide (s ≤ 15 ∧ s ≠ 11)
  if ¬ ok then d else sourceAt (srcLevel d s) s (if srcCore s then m else 0) d

/-- A tamper response's reset, which bypasses the map (R362). It is in force until that reset's release, or that of the reset that covers it (R366). -/
def tamperReset (lvl : Nat) (d : Dev) : Dev :=
  onRst (if covered d lvl 0 then d else carryOut lvl none 0 d) (fun r => if lvl = 3 then { r with respHost := true } else { r with respField := true })

/-- RST_CMD: K alone. -/
def rstCmd (m : Nat) (v : Word) (d : Dev) : Dev :=
  let lvl := fld v 2 0
  let t := fld v 10 3
  if m ≠ 1 ∨ lvl = 0 ∨ 4 < lvl ∨ (lvl = 1 ∧ ¬ isCore t) then d else sourceAt lvl 11 (if lvl = 1 then t else 0) d

/-! ### Release (R455, R456) -/

def powered (d : Dev) : Bool := d.rst.vin && d.rst.vcore && d.rst.vdram && d.rst.vio

/-- Has K booted from a valid set? Before, nothing beyond memory is released (R368); with none valid, nothing more is (R392). -/
def kReady (d : Dev) : Bool := d.life.booted && decide (d.life.bootStatus ≠ 1)

/-- May a release step run now? -/
def stepReady (d : Dev) (n : Nat) : Bool :=
  let r := d.rst
  powered d && (decide (n < 4) || kReady d) &&
    (if n = 1 then decide (4 ≤ r.hostLvl) && decide (r.hostStep = 0)
     else if n = 2 then decide (r.hostLvl ≠ 0) && decide (r.hostStep = if 4 ≤ r.hostLvl then 1 else 0)
     else if n = 3 then decide (r.hostStep = 2)
     else if n ≤ 7 then decide (4 ≤ n) && decide (r.hostStep = n - 1) && decide (n ∈ r.go)
     else if n = 8 then decide (r.fieldLvl ≠ 0) && decide (r.fieldStep = 0) && d.fld.supplyOk && (r.fieldAlone || (decide (7 ≤ r.hostStep) && decide (8 ∈ r.go)))
     else decide (n ≤ 10) && decide (r.fieldStep = n - 1))

/-- RESET_RELEASE_STEP: a step's domains are released, its gap having elapsed. -/
def releaseStep (n : Nat) (d : Dev) : Dev :=
  if ¬ stepReady d n then d
  else
    let d := if n ≤ 7 then onRst d (fun r => { r with hostStep := n }) else onRst d (fun r => { r with fieldStep := n })
    if n = 2 then coreStart 1 0 d
    else if n = 4 then hopRelease d
    else if n = 5 then segStart false (hostCores.foldl (fun d m => coreStart m (hostEntry d m) d) d)
    else if n = 7 then onRst d (fun r => { r with hostLvl := 0, respHost := false })
    else if n = 8 then { d with lkg := { d.lkg with fieldUp := true } }
    else if n = 10 then onRst d (fun r => { r with fieldLvl := 0, fieldAlone := false, respField := false })
    else d

/-- RST_GO: K permits a gated step; STEP 11 lets F0 to F3 leave their hold once the image is in (R456). Before K has booted, and with no boot set
valid, nothing further is released (R368, R392). -/
def rstGo (m step : Nat) (d : Dev) : Dev :=
  if m ≠ 1 ∨ ¬ kReady d then d
  else if 4 ≤ step ∧ step ≤ 8 then onRst d (fun r => { r with go := if step ∈ r.go then r.go else r.go ++ [step] })
  else if step = 11 ∧ d.fld.imgDone ∧ ¬ d.fld.started ∧ d.lkg.fieldUp then
    segStart true ((fieldCores.filter (fun m => !benchHeld d m)).foldl (fun d m => coreStart m 0 d) { d with fld := { d.fld with started := true } })
  else d

/-- RST_CORE_GO: K releases a host core from CORE reset; dropped while its partition state is MAINT or FENCED. -/
def coreGo (m core : Nat) (d : Dev) : Dev :=
  if m = 1 ∧ kReady d ∧ isH core ∧ 5 ≤ d.rst.hostStep ∧ ¬ (coreGet d core).run ∧ (part d 6 (core - 0x10)).state < 2 ∧ ¬ benchHeld d core then coreStart core (hostEntry d core) d else d

/-- FIELD_CORE_RELEASE. -/
def fieldCoreRelease (core : Nat) (d : Dev) : Dev :=
  if isF core ∧ d.fld.started ∧ d.lkg.fieldUp ∧ ¬ (coreGet d core).run ∧ ¬ benchHeld d core then coreStart core 0 d else d

/-- RST_FUSE_PROG: a map entry or a gap is blown, once. -/
def fuseProg (m : Nat) (v : Word) (d : Dev) : Dev :=
  let e := fld v 4 0
  let x := fld v 24 5
  let ok := if e ≤ 16 then decide (e ≠ 11) && decide (x ∈ srcPermitted e)
    else decide (e ≤ 26) && decide (1000 ≤ x) && decide (x ≤ 1048575) && (!decide (e = 21) || decide (50000 ≤ x))
  if (m = 1 ∨ m = 2) ∧ d.life.state ≤ 1 ∧ (fuse d e).isNone ∧ ok then onRst d (fun r => { r with fuses := tabPut r.fuses e (x + 1) }) else d

/-- RST_STOP_CLR. -/
def stopClr (m : Nat) (v : Word) (d : Dev) : Dev :=
  if m = 1 ∧ bit v 0 then (List.range 16).foldl (fun d i => rgSet d (Reg.RST_STOP + i) 0) d else d

/-! ### Watchdogs (R454, Table 20.8) -/

def wdgCtl (d : Dev) (m : Nat) : Word := rg d (wdgReg m 0)
def wdgOn (d : Dev) (m : Nat) : Bool := bit (wdgCtl d m) 0
def wdgRemain (d : Dev) (m : Nat) : Nat := rn d (wdgReg m 2)
def wdgWarn (d : Dev) (m : Nat) : Nat := fld (wdgCtl d m) 35 21

/-- REMAIN set: a warning may come again. -/
def wdgSet (c v : Nat) (d : Dev) : Dev :=
  rgSet (onRst d (fun r => { r with warned := tabSet false r.warned c false })) (wdgReg c 2) (wd v)

/-- A write to RST_WDG_CTL of core c by the core at P0, or by K. -/
def wdgCtlWrite (m pl c : Nat) (v : Word) (d : Dev) : Dev :=
  if ¬ ((m = c ∧ pl = 0) ∨ (m = 1 ∧ ¬ isF c)) ∨ wdgOn d c ∨ fld v 20 1 < 2 then d
  else
    let d := rgSet d (wdgReg c 0) v
    if bit v 0 then wdgSet c (fld v 20 1) d else d

/-- WATCHDOG_KICK: by the core, or by K. -/
def wdgKick (m c : Nat) (d : Dev) : Dev :=
  if isCore c ∧ (m = c ∨ (m = 1 ∧ ¬ isF c)) then onRst d (fun r => { r with kicks := tabSet false r.kicks c true }) else d

/-- WATCHDOG_WARNING: once for each time that REMAIN comes to WARN. -/
def wdgWarning (c : Nat) (d : Dev) : Dev :=
  if isCore c ∧ wdgOn d c ∧ wdgWarn d c ≠ 0 ∧ wdgRemain d c = wdgWarn d c ∧ (coreGet d c).run ∧ ¬ tabGet false d.rst.warned c then
    pendSet c 18 (onRst d (fun r => { r with warned := tabSet false r.warned c true }))
  else d

/-- WATCHDOG_EXPIRY. -/
def wdgExpiry (c : Nat) (d : Dev) : Dev :=
  if isCore c ∧ wdgOn d c ∧ wdgRemain d c = 0 ∧ (coreGet d c).run then sourceAssert (if c = 1 then 6 else if isH c then 5 else 7) c d else d

/-- Does the watchdog of a core count: enabled, out of CORE reset, its unit neither in MAINT nor FENCED, and not run out? -/
def wdgCounts (d : Dev) (c : Nat) : Bool :=
  wdgOn d c && (coreGet d c).run && decide (wdgRemain d c ≠ 0) && !(isH c && decide (2 ≤ (part d 6 (c - 0x10)).state))

/-- The watchdog of a core at an edge. REMAIN may become equal to WARN by a kick too, or have been set to it since the last edge. -/
def wdgEdge (d : Dev) (c : Nat) : Dev :=
  let kicked := tabGet false d.rst.kicks c
  let d := onRst d (fun r => { r with kicks := tabErase r.kicks c })
  let period := fld (wdgCtl d c) 20 1
  if ¬ wdgCounts d c then d
  else
    let d := wdgWarning c d
    if kicked then (if wdgRemain d c = period then d else wdgWarning c (wdgSet c period d))
    else wdgExpiry c (wdgWarning c (wdgSet c (wdgRemain d c - 1) d))

/-! ### Monotonic counters and supplies -/

/-- PWR_MONC_INC: counters 7 to 15, by K or a host core at P0. -/
def moncWrite (m pl i : Nat) (d : Dev) : Dev := if (m = 1 ∨ (isH m ∧ pl = 0)) ∧ 7 ≤ i ∧ i ≤ 15 then moncInc d i else d

/-- POWER_GOOD: every supply reads good; power-on asserts, or the lost keep supply. -/
def powerGood (d : Dev) : Dev :=
  if powered d then d
  else
    let lost := d.rst.keepLost
    let d := onRst d (fun r => { r with vin := true, vcore := true, vdram := true, vio := true, keepSrc := 0, keepLost := false })
    if lost then sourceAssert 1 0 d else sourceAssert 0 0 d

/-- BROWN_OUT: 0 VIN, 1 VCORE, 2 VDRAM, 3 VIO; the keep domain goes on from KEEP_EXT or the keep cell. DESIGN CHOICE (log entry 103): sources that fired in
the window that the loss of 12 V cuts are not answered. -/
def brownOut (rail : Nat) (ext : Bool) (d : Dev) : Dev :=
  if 3 < rail then d
  else
    let d := sourceAssert (if rail = 0 then 2 else 3) 0 d
    let d := if rail = 0 then { d with tmp := { d.tmp with fired := [] } } else d
    onRst d (fun r => { r with vin := r.vin && decide (rail ≠ 0), vcore := r.vcore && decide (rail ≠ 1), vdram := r.vdram && decide (rail ≠ 2),
                               vio := r.vio && decide (rail ≠ 3), keepSrc := if ext then 2 else 1 })

/-- KEEP_SUPPLY_LOST: without 12 V the keep domain loses its state. -/
def keepSupplyLost (d : Dev) : Dev :=
  if d.rst.vin then d
  else onRst { d with keep := {}, tmp := { epoch := d.tmp.epoch }, regs := d.regs.filter (fun e => !decide (e.1 >>> 16 = 0x06)) }
    (fun r => { r with keepLost := true })

/-! ### Registers -/

def rstMapWord (d : Dev) (hi : Bool) : Word :=
  if hi then pack ((List.range 5).map (fun i => (3 * i, srcLevel d (12 + i)))) else pack ((List.range 12).map (fun i => (3 * i, srcLevel d i)))

def rstSeqWord (d : Dev) : Word :=
  pack [(0, d.rst.hostStep), (4, d.rst.fieldStep), (8, b2n (decide (d.rst.hostLvl ≠ 0) || decide (d.rst.fieldLvl ≠ 0)))]

def pwrStatusWord (d : Dev) : Word :=
  pack [(0, b2n d.rst.vin), (1, b2n d.rst.vcore), (2, b2n d.rst.vdram), (3, b2n d.rst.vio), (4, b2n (d.rst.vin && d.fld.supplyOk)), (5, d.rst.keepSrc)]

end Sys2Proof.Machine
end

