-- ==== Sys2Proof/Machine/Tamper.lean ====
section
/-! DEFINITION. The tamper aggregator (chapter 15): the log, responses and their windows, ZEROISE_SESSION, HOLD entry and release, deferred
entries, and what the keep domain does on the keep cell. -/

namespace Sys2Proof.Machine

def onTmp (d : Dev) (f : Tamper → Tamper) : Dev := { d with tmp := f d.tmp }

/-! ### The log (R370) -/

/-- The log with an entry added: past 64, the oldest open-class entry goes, and a keyed one only when all are keyed. -/
def logAdd (l : List TmpEntry) (e : TmpEntry) : List TmpEntry :=
  if l.length < 64 then l ++ [e]
  else match l.findIdx? (fun x => !tmpKeyed x.src) with
  | some i => l.eraseIdx i ++ [e]
  | none => l.drop 1 ++ [e]

/-- One entry logged; its RTC seconds are a free value. -/
def tmpLog (src resp : Nat) (subsumed deferred applied : Bool) (power pass : Nat) (d : Dev) : Dev :=
  let x := drawWord (moncInc d 2)
  let d := x.2
  let e : TmpEntry := { src := src, resp := resp, subsumed := subsumed, deferred := deferred, power := power, seq := monc d 2, pass := pass,
                        rtc := x.1.toNat, applied := applied }
  onTmp d (fun t => { t with log := logAdd t.log e })

/-- Words of an entry. -/
def logWord (e : TmpEntry) (k : Nat) : Word :=
  if k = 0 then pack [(0, e.src), (6, b2n (tmpKeyed e.src)), (7, e.resp), (10, b2n e.subsumed), (11, b2n e.deferred), (12, e.power)]
  else if k = 1 then loWord e.seq
  else if k = 2 then hiWord e.seq
  else if k = 3 then loWord e.pass
  else if k = 4 then hiWord e.pass
  else wd e.rtc

/-! ### ZEROISE_SESSION (R363) -/

/-- Key and SAK operations. -/
def keyOp (o : Op) : Bool := decide (o.opcode ∈ [0x54, 0x55, 0x56, 0x81, 0x82, 0x83, 0x84, 0x85, 0x91, 0x92])

/-- Is the operation one that ZEROISE_SESSION ends? A held result that is wiped ends its operation too, whatever produced it (DESIGN CHOICE, log entry 103). -/
def zeroised (o : Op) : Bool :=
  let live := decide (o.phase ≠ .ended) && decide (o.phase ≠ .posted)
  live && (keyOp o || decide (o.phase = .held) || (match o.unit with
    | some (k, _) => decide (1 ≤ k ∧ k ≤ 3) && (decide (o.phase = .admitted) || decide (o.phase = .held))
    | none => false))

/-- Frames with a wiped SA are dropped and counted as frames without SA. -/
def dropSaFrames (d : Dev) : Dev :=
  (List.range 8).foldl (fun d k =>
    let x := stream d k
    let lost := (x.classifier ++ x.cipher ++ x.egress).filter (fun f => f.sa.isSome)
    let free := fun (l : List Frame) => l.filter (fun f => f.sa.isNone)
    let d := setStream d k { x with classifier := free x.classifier, cipher := free x.cipher, egress := free x.egress }
    cntAdd d (k / 2 * 32 + (if k % 2 = 0 then 6 else 10)) lost.length) d

def zeroise (d : Dev) : Dev :=
  let d := (d.ops.filter zeroised).foldl (fun d o => endEarly d o St.aborted 0xE0 d.pas.count d.pas.count) d
  let d := { d with slots := [], grd := { d.grd with units := d.grd.units.map (fun e => (e.1, { e.2.cleared with loading := e.2.loading })) } }
  let d := dropSaFrames d
  let d := { d with ils := { d.ils with sas := [] } }
  let d := if d.chm.state = .empty then d else chmEmpty d
  endTowpath (endSessions (hopRestart d))

/-! ### HOLD (R371, R372) -/

/-- The latch sets: counter 3 advances; the cause is the source. -/
def holdLatch (cause : Nat) (d : Dev) : Dev :=
  let d := moncInc d 3
  onTmp { d with keep := { d.keep with hold := true } } (fun t => { t with cause := cause, release := none })

/-- Does the operation go on in HOLD: one that runs in HOLD, or one whose function was reset? -/
def holdSpared (d : Dev) (o : Op) : Bool :=
  runsInHold d o || o.dead || decide (0xD1 ≤ o.opcode ∧ o.opcode ≤ 0xD7)

/-- The result of an operation that has reported and that nobody has been shown is taken back: a queued input of its core, an answer that still waits
to be sent. None where it can no longer be: it has been presented, or its answer has left. -/
def takeBack (d : Dev) (o : Op) : Option Dev :=
  let input := fun (core key : Nat) =>
    let mine := fun (i : Input) => decide (i.core = core) && decide (i.cls = 1) && decide (i.key = key) && decide (i.pass + 1 = o.dueAt)
    if d.pas.inq.any mine then some { d with pas := { d.pas with inq := d.pas.inq.eraseP mine } } else none
  match o.src with
  | .ring _ _ => some d
  | .ofc _ => some d
  | .fwq q _ => input (fqCore q) (engineOf o)
  | .gq q _ => input (fqCore q) (engineOf o)
  | .cmd blk m => if o.quant then input m (keyCmd blk) else none
  | .barge core ref t =>
    let k := laneKey true (if t = 0x03 then 1 else 2) * 32 + 2
    let mine := fun (b : Barge) => decide (b.core = core) && decide (b.ref = ref) && decide (b.type = (if t = 0x03 then 0x04 else 0x06))
    let q := tabGet [] d.lkg.sendq k
    if q.any mine then some { d with lkg := { d.lkg with sendq := tabSet [] d.lkg.sendq k (q.filter (fun b => !mine b)) } } else none

/-- R13, R85: an operation in flight at HOLD entry ends with HELD, posted at the next edge: one whose result waits to be written or presented too.
DEDUCED (log entry 78). -/
def holdEnd (d : Dev) (o : Op) : Dev :=
  if o.phase = .posted then
    (match takeBack d o with | some d => endEarly d o St.held 0 (d.pas.count + 1) d.pas.count | none => d)
  else endEarly d o St.held 0 (d.pas.count + 1) d.pas.count

/-- HOLD is entered. -/
def holdEnter (cause : Nat) (d : Dev) : Dev :=
  let d := holdLatch cause d
  let d := (d.ops.filter (fun o => !holdSpared d o)).foldl holdEnd d
  let d := { d with grd := { d.grd with units := d.grd.units.map (fun e => (e.1, e.2.cleared)) },
                    chm := { d.chm with waiting := [] } }
  let d := rplWipe (ofcHold (endSessions (crgDiscard (challengeWipe (fieldHold (hopHold d))))))
  let d := (List.range 4).foldl (fun d l => dropFrames l 12 d) d
  sourceAssert 15 0 d

/-! ### Responses (R362, R366) -/

/-- The response in force, if one of Table 15.2 from RESET_FIELD up is: a reset that no response requested is none (R366). -/
def inForce (d : Dev) : Nat := if d.keep.hold then 5 else if d.rst.respHost then 3 else if d.rst.respField then 2 else 0

/-- The INTERRUPT effect is owed. -/
def raiseTamper (d : Dev) : Dev :=
  let w := rg d Reg.TMP_INT_CORES
  let cs := (1 :: (hostCores.filter (fun m => bit w (m - 0x10)))).filter (fun m => decide (m ∉ d.tmp.intCores))
  onTmp d (fun t => { t with intCores := t.intCores ++ cs, intVec := max t.intVec 1 })

/-- A response is executed. -/
def respond (resp src : Nat) (d : Dev) : Dev :=
  if resp = 2 then tamperReset 2 d
  else if resp = 3 then tamperReset 3 d
  else if resp = 4 then zeroise d
  else if resp = 5 then holdEnter src d
  else d

/-- RESPONSE_WINDOW_END: every source that fired is logged in ascending order, the INTERRUPT effect is raised, and the most severe response
due is executed unless one of equal or higher severity is in force. Without 12 V the aggregator stands still (R367). -/
def windowEnd (d : Dev) : Dev :=
  if ¬ d.rst.vin then d else
  let fired := sortBy id d.tmp.fired
  let due : List (Nat × Nat) := fired.map (fun s => (s, tmpResponse d s))
  let most : Nat := (due.map (·.2)).foldl max 0
  let exec : Bool := decide (2 ≤ most) && decide (inForce d < most)
  let d := onTmp d (fun t => { t with fired := [] })
  let d := due.foldl (fun d x => tmpLog x.1 x.2 (decide (2 ≤ x.2) && !(exec && decide (x.2 = most))) false false 0 d.pas.count d) d
  let d := if 1 ≤ most then raiseTamper d else d
  if exec then respond most (((due.filter (fun x => decide (x.2 = most))).map (·.1)).headD 0) d else d

/-- At each edge: counts decay, TAMPER becomes pending, TMP_HOST_VEC fires. -/
def tmpEdge (d : Dev) : Dev :=
  let d := (List.range 39).foldl (fun d s => countDecay s d) d
  let up := d.tmp.intCores.filter (fun m => (coreGet d m).run)
  let d := up.foldl (fun d m => pendSet m 19 d) (onTmp d (fun t => { t with intCores := t.intCores.filter (fun m => decide (m ∉ up)) }))
  let v := rg d Reg.TMP_HOST_VEC
  if d.tmp.intVec = 0 then d
  else if bit v 11 then fireVec (onTmp d (fun t => { t with intVec := 0 })) 0 (fld v 10 0)
  else if d.tmp.intVec = 1 then onTmp d (fun t => { t with intVec := 0 })
  else d

/-! ### On the keep cell (R367), and start-up (R368, R369) -/

/-- One source that fired on the keep cell. -/
def cellFired (d : Dev) (s : Nat) : Dev :=
  let was := d.keep.hold
  let keyed := tmpKeyed s
  let d := tmpLog s (tmpResponse d s) (keyed && was) (!keyed) false d.rst.keepSrc d.keep.rstPass d
  if keyed ∧ ¬ was then holdLatch s d else d

/-- KEEP_CELL_SAMPLE: the sources found asserted among 8, 15, 16, 18 and 19, without 12 V. -/
def keepSample (found : List Nat) (d : Dev) : Dev :=
  if d.rst.vin ∨ d.rst.keepLost then d
  else
    let d := [8, 15, 16, 18, 19].foldl (fun d s => if s ∈ found then tmpAssert s d else tamperClear s d) d
    let fired := sortBy id d.tmp.fired
    fired.foldl cellFired (onTmp d (fun t => { t with fired := [] }))

/-- One deferred entry applied at start-up. -/
def applyEntry (d : Dev) (e : TmpEntry) : Dev :=
  let hold := decide (e.resp = 5) && !d.keep.hold
  let d := onTmp d (fun t => { t with log := t.log.map (fun x => if x.seq = e.seq then { x with applied := true } else x) })
  let d := tmpLog e.src e.resp (decide (2 ≤ e.resp) && !hold) true true 0 d.pas.count d
  let d := if 1 ≤ e.resp then onTmp d (fun t => { t with intCores := if 1 ∈ t.intCores then t.intCores else t.intCores ++ [1], intVec := 2 }) else d
  if hold then holdEnter e.src d else d

/-- R368: every deferred entry not yet applied. -/
def applyDeferred (d : Dev) : Dev :=
  let es := d.tmp.log.filter (fun e => e.deferred && !e.applied)
  es.foldl applyEntry (onTmp d (fun t => { t with deferred := !es.isEmpty }))

/-- R369: the start-up after a KEEP reset. -/
def keepStart (d : Dev) : Dev :=
  let lost := d.tmp.lost
  let d := onTmp d (fun t => { t with keepLost := lost, lost := false })
  if lost ∧ 2 ≤ d.life.state ∧ d.life.state ≤ 4 then
    holdEnter 63 (onTmp d (fun t => { t with epoch := min 255 (t.epoch + 1) }))
  else d

/-! ### HOLD_UNLOCK (R374 to R377) -/

def holdCount (d : Dev) : Nat := d.tmp.epoch * 2 ^ 40 + monc d 3 % 2 ^ 40

/-- Malformed tokens, and a length that does not match KIND. -/
def unlockFails (o : Op) : List (Option Fail) :=
  let t := o.input
  let k := leAt t 2 1
  let len := o.f 12 4
  [ failIf (decide (leAt t 0 2 ≠ 1) || decide (k ≠ 2 ∧ k ≠ 3) || decide (1 < leAt t 5 1) || !allZero (slice t 6 10) || !allZero (slice t 38 10) ||
      (decide (k = 2) && (decide (63 < leAt t 3 1) || decide (63 < leAt t 4 1))) || (decide (k = 3) && decide (leAt t 3 2 ≠ 0))) St.badDesc 0,
    failIf (decide (k = 2) && decide (len ≠ 176) || decide (k = 3) && decide (len ≠ 144)) St.length 0 ]

/-- R375: the first check that fails. -/
def unlockCheck (d : Dev) (t : Octets) : Option Nat :=
  let k := leAt t 2 1
  let m := t.take 48
  let a := leAt t 3 1
  let b := leAt t 4 1
  let ka := tabGet [] d.life.roster a
  let kb := tabGet [] d.life.roster b
  if ¬ d.keep.hold then some 4
  else if (k = 3 ∧ ¬ (d.life.state = 4 ∨ ((d.life.state = 2 ∨ d.life.state = 3) ∧ d.tmp.epoch = 255))) ∨ (k = 2 ∧ 255 ≤ d.tmp.epoch) then some 6
  else if slice t 16 16 ≠ fitTo 16 d.life.devid ∨ leAt t 32 6 ≠ holdCount d then some 2
  else if k = 2 ∧ (ka.isEmpty ∨ kb.isEmpty ∨ a = b) then some 3
  else if ¬ (if k = 2 then cardSigned ka m (slice t 48 64) && cardSigned kb m (slice t 112 64)
             else ecdsaVerify p384 Config.serviceKey.1 Config.serviceKey.2 (sha384 m) (leAt t 48 48) (leAt t 96 48)) then some 1
  else if [19, 21, 24, 28, 29].any (tmpAsserted d) then some 5
  else none

/-- HOLD_UNLOCK_VERIFIED: verification of an admitted token ends; the outcome takes effect at the next edge. -/
def unlockVerified (id : Nat) (d : Dev) : Dev :=
  match findOp d id with
  | none => d
  | some o =>
    if o.phase ≠ .admitted ∨ o.opcode ≠ 0x5A then d
    else match unlockCheck d o.input with
    | some sub =>
      let d := endWith d o St.denied sub (d.pas.count + 1) d.pas.count
      if sub ∈ [1, 2, 3, 6] then tmpEvent 37 d else d
    | none => onTmp d (fun t => { t with release := some (id, leAt o.input 5 1) })

/-- HOLD_RELEASE: before step 1 of the next edge HOLD ends. -/
def holdRelease (d : Dev) : Dev :=
  match d.tmp.release with
  | none => d
  | some (id, mode) =>
    let d := if mode = 1 then zeroise d else d
    let d := onTmp { d with keep := { d.keep with hold := false } } (fun t => { t with cause := 0, release := none })
    let d := hopRestart (clearCounts d)
    match findOp d id with
    | some o => endWith d o St.done 0 d.pas.count (d.pas.count - 1)
    | none => d

/-! ### Level rules and registers -/

/-- Table 15.7. -/
def levelTmp (d : Dev) : List LRule :=
  eachWord 1 ((regArr Reg.TMP_SRC_CTL 39 1).filter (fun a => !tmpKeyed (a - Reg.TMP_SRC_CTL))) (fun a => decide (6 ≤ fld (chmView d a) 2 0)) ++
  eachWord 2 (entriesIn d Reg.TMP_SRC_CTL 39 1) (fun a => tmpKeyed (a - Reg.TMP_SRC_CTL)) ++
  [⟨3, !bit (chmView d Reg.TMP_INT_CORES) 8, [Reg.TMP_INT_CORES]⟩]

def tmpStateWord (d : Dev) : Word :=
  pack [(0, b2n d.keep.hold), (1, d.tmp.cause), (7, b2n d.tmp.deferred), (8, b2n d.tmp.keepLost)]

/-- TMP_LOG words of the entry a master selected: index 0 is the newest. -/
def tmpLogWord (d : Dev) (m k : Nat) : Word :=
  match d.tmp.log.reverse[fld (pv d m Reg.TMP_LOG_SEL) 5 0]? with
  | some e => logWord e k
  | none => 0

end Sys2Proof.Machine
end

