-- ==== Sys2Proof/Machine/Boot.lean ====
section
/-! DEFINITION. K's boot ROM (R381, R389 to R392): the resumed transition, the vote and its repair, the ladder, deferred tamper entries,
and the selection of a boot set; and what the Lockkeeper image does in start-up (R391, R456). -/

namespace Sys2Proof.Machine

/-! ### A transition resumed (R389) -/

/-- R389: a ROOT row that is neither blank nor valid counts as failed. -/
def rootJudge (d : Dev) : Dev :=
  let o := d.life.otp
  let bad := fun (s : Octets) (c : Nat) => !rootBlank s c && !rootOk s c
  let d := if ¬ o.badA ∧ bad o.rootA o.crcA then onLife d (fun l => { l with otp := { l.otp with badA := true } }) else d
  if d.life.otp.badA ∧ ¬ o.badB ∧ bad o.rootB o.crcB then onLife d (fun l => { l with otp := { l.otp with badB := true } }) else d

/-- Does the row that draws still have to be written: no ROOT row is valid, or no wrap is there? -/
def drawRowOpen (d : Dev) : Bool := if d.keep.shadow.2.1 = 1 then (root d).isNone else d.life.otp.ownerWrap.isEmpty

/-- The code-word steps from one on, in order, up to a row that fails; `bad` are the rows that fail their verify three times. -/
def resumeWords (bad : List Nat) : List Nat → Dev → Dev
  | [], d => endTransition d
  | s :: r, d =>
    let d := setShadow d d.keep.shadow.1 d.keep.shadow.2.1 s
    if s ∈ bad then rowStop d else resumeWords bad r (blowWord (s - 3) d)

/-- The side rows written again, then the code words: a valid ROOT row is kept; a row that needs a new draw waits for the Hopper and is written by
FUSE_ROW_WRITE (Table 7.3; log entry 86). -/
def resumeSide (bad : List Nat) (d : Dev) : Dev :=
  let goal := d.keep.shadow.2.1
  if sideRows goal = 0 then resumeWords bad [3, 4, 5] d
  else if 0 ∈ bad then rowStop d
  else
    let d := sideWrite (onLife d (fun l => { l with row := 0 }))
    let d := if goal = 1 then rootJudge d else d
    if goal = 1 ∧ d.life.otp.badA ∧ d.life.otp.badB then resumeWords bad [3, 4, 5] (toScrap d)
    else if drawRowOpen d then onLife (setShadow d d.keep.shadow.1 goal 2) (fun l => { l with active := true, row := 1, tries := 0 })
    else resumeWords bad [3, 4, 5] d

/-- The shadow read first: a transition at step 1 to 5 is repeated from that step, up to a row that fails. With the shadow lost nothing is resumed, and
FAIL is gone with it. `bad`: 0 the first side row, 3 to 5 the rows of LC0 to LC2. -/
def resume (bad : List Nat) (d : Dev) : Dev :=
  let step := d.keep.shadow.2.2
  let d := onLife d (fun l => { l with active := false, fail := false, row := 0, tries := 0 })
  if step = 0 then d
  else if step ≤ 2 then resumeSide bad d
  else resumeWords bad ([3, 4, 5].filter (fun s => decide (step ≤ s))) d

/-- R381: words that differ are reported once at each start and given the bits of the voted value they lack. The report is a condition that asserts
anew at each start (R361; log entry 86). -/
def repairWords (d : Dev) : Dev :=
  if lcUnanimous d then d
  else
    let v := lcVote d
    onLife (tamperEvent 35 (tamperClear 35 d)) (fun l => { l with otp := { l.otp with lc := (List.range 3).map (fun j => l.otp.lc.getD j 0 ||| v) } })

/-! ### Boot sets (R390, R391) -/

/-- OFFSET, LENGTH and ENTRY of image k: 0 Lockkeeper, 1 site, 2 field, 3 recipe. -/
def imgOffset (h : Octets) (k : Nat) : Nat := leAt h (16 + 12 * k) 4
def imgLength (h : Octets) (k : Nat) : Nat := leAt h (20 + 12 * k) 4
def imgEntry (h : Octets) (k : Nat) : Nat := leAt h (24 + 12 * k) 4

/-- OFFSET is a multiple of 9 and ENTRY lies within the image. -/
def imgPlaced (h : Octets) (k : Nat) : Bool := decide (imgOffset h k % 9 = 0) && decide (imgEntry h k < packLen true (imgLength h k))

/-- Is the image's signature valid? -/
def imgSigned (d : Dev) (p : Nat) (h : Octets) (key : Nat × Nat) (k : Nat) : Bool :=
  p384Signed key (planeOcts d p (imgOffset h k) (imgLength h k + 96))

/-- Is the header valid against the commit record? -/
def setHdrOk (h : Octets) (gen : Nat) (dig : Octets) : Bool :=
  bootHdrOk h && allZero (slice h 6 2) && allZero (slice h 160 96) && decide (leAt h 8 4 = gen) && octEq (sha384 h) dig &&
    decide (leAt h 12 4 ≤ 32) && decide (imgEntry h 3 = 0) && [0, 1, 2, 3].all (imgPlaced h)

/-- The generation of a plane's set, if it is committed and valid. -/
def validSet (d : Dev) (p : Nat) : Option Nat :=
  match (plane d p).committed with
  | none => none
  | some (gen, dig) =>
    let h := bootHdr d p
    let owner := (leAt h 64 48, leAt h 112 48)
    let inService := decide (2 ≤ d.life.state)
    if setHdrOk h gen dig && decide (d.life.otp.svn ≤ leAt h 12 4) &&
        imgSigned d p h Config.lockkeeperKey 0 && imgSigned d p h Config.recipeKey 3 &&
        (!inService || (octEq (sha384 (slice h 64 96)) d.life.otp.ownerHash && imgSigned d p h owner 1 && imgSigned d p h owner 2)) then some gen
    else none

/-- The plane selected: the higher generation, plane A when equal. -/
def bootPlaneOf (d : Dev) : Option (Nat × Nat) :=
  match validSet d 0, validSet d 1 with
  | some a, some b => if a < b then some (1, b) else some (0, a)
  | some a, none => some (0, a)
  | none, some b => some (1, b)
  | none, none => none

/-- Window word address of word i of an image at an offset. -/
def imgAddr (p off i : Nat) : Nat := (if p = 0 then 0x400000000 else 0x480000000) + 2 * (off / 9) + i

/-- Window word address of the entry point of image k of the set at plane p. -/
def imgStart (d : Dev) (p k : Nat) : Nat := imgAddr p (imgOffset (bootHdr d p) k) (imgEntry (bootHdr d p) k)

/-- R390, R391: H0 to H7 are set to start at the site image's ENTRY. -/
def setEntries (p : Nat) (d : Dev) : Dev :=
  (List.range 8).foldl (fun e i => rgSet e (Reg.RST_HENTRY + i) (wd (imgStart d p 1))) d

/-- A set is selected and its Lockkeeper image started, which enables the plane's window and sets the host cores' start; or none is valid, and nothing
that was permitted before is released (R392). -/
def bootSelect (d : Dev) : Dev :=
  match bootPlaneOf d with
  | none => onRst (onLife d (fun l => { l with booted := true, bootStatus := 1 })) (fun r => { r with go := [] })
  | some (p, gen) =>
    let d := onLife d (fun l => { l with booted := true, bootStatus := 0, bootPlane := p, bootGen := gen })
    let d := setEntries p (rgSet d Reg.FLS_XIP_CTL (setBit (rg d Reg.FLS_XIP_CTL) p true))
    coreSet d 1 { coreGet d 1 with pc := imgStart d p 0 }

/-- K_BOOT: runs once after K's release. `bad` are the fuse rows that fail, `lost` the copies of the ladder record that the flash does not read
back. -/
def kBoot (bad lost : List Nat) (d : Dev) : Dev :=
  if d.rst.hostStep < 2 ∨ d.life.booted then d
  else
    let d := ladder (revote (repairWords (resume bad d)))
    bootSelect (sealBlockCheck (applyDeferred (keepStart (ladderLoad lost (decide (4 ≤ d.rst.hostLvl)) d))))

/-- LK_SVN blown up to the booted set's once every service is released (R391, the Lockkeeper image's last action). -/
def svnBlow (d : Dev) : Dev :=
  if d.life.booted ∧ d.life.bootStatus = 0 ∧ d.rst.hostLvl = 0 ∧ d.rst.fieldLvl = 0 ∧ d.fld.started then
    onLife d (fun l => { l with otp := { l.otp with svn := max l.otp.svn (min 32 (leAt (bootHdr d l.bootPlane) 12 4)) } })
  else d

/-! ### The Lockkeeper image in start-up (R391, R456) -/

/-- Does the Lockkeeper image of a booted set run? -/
def lockkeeperUp (d : Dev) : Bool := d.life.booted && decide (d.life.bootStatus = 0) && (coreGet d 1).run

/-- The recipe image of the booted set with its signature: window word address and octets. -/
def recipeAt (d : Dev) : Nat × Nat :=
  let h := bootHdr d d.life.bootPlane
  (imgAddr d.life.bootPlane (imgOffset h 3) 0, imgLength h 3 + 96)

/-- May every Grinder unit read the recipe image: have the engine rules of start-up opened (R356)? -/
def recipeReadable (d : Dev) : Bool :=
  let x := recipeAt d
  (List.range 16).all (fun u => (engRead d (0x90 + u) 1 (ctxCol 1) x.1 (packLen true x.2)).1)

/-- The recipe image loaded into all 16 units by K's own GRD_CMD, once they are released and their rules are open; then GRD_MIN_VERSION pinned to its
VERSION. That K waits for the rules with its command is DEDUCED from R356 and R455 (log entry 93). -/
def recipeLoad (d : Dev) : Dev :=
  if d.life.recipe = 0 ∧ 4 ≤ d.rst.hostStep ∧ ¬ (cmdGet d 0x0E 1).busy ∧ recipeReadable d then
    let x := recipeAt d
    onLife (cmdIssue 0x0E 1 0xA1 true [0xFFFF, x.1, x.2, 1] false d) (fun l => { l with recipe := 1 })
  else if d.life.recipe = 1 ∧ (List.range 16).all (fun u => (unitGet d u).image.isSome) then
    let d := onLife d (fun l => { l with recipe := 2 })
    if tabGet false d.pinned Reg.GRD_MIN_VERSION then d
    else { rgSet d Reg.GRD_MIN_VERSION (wd (((unitGet d 0).image.map (·.version)).getD 0)) with pinned := tabSet false d.pinned Reg.GRD_MIN_VERSION true }
  else d

/-- Words of the field image, packed dense. -/
def fieldImage (d : Dev) : List Word :=
  let h := bootHdr d d.life.bootPlane
  densePack (planeOcts d d.life.bootPlane (imgOffset h 2) (imgLength h 2))

/-- From the first edge after step 8 K sends the field image, then the calibration and the field CH values (R244). -/
def fieldSend (d : Dev) : Dev :=
  if d.lkg.fieldUp ∧ 8 ≤ d.rst.fieldStep ∧ ¬ d.fld.imgSent ∧ hostEndUp d then
    let e := imgEntry (bootHdr d d.life.bootPlane) 2
    let d := (imageBarges (fieldImage d)).foldl (fun d b => queueBarge d 0 b) d
    kPushes { d with fld := { d.fld with imgSent := true, entry := e } }
  else d

/-- What the Lockkeeper image does at an edge of start-up. -/
def lockkeeper (d : Dev) : Dev := if lockkeeperUp d then fieldSend (recipeLoad d) else d

end Sys2Proof.Machine
end

