-- ==== Sys2Proof/Machine/Bench.lean ====
section
/-! DEFINITION. REPLAY mode (R442 to R444): entry, records read back and checked, the replayed edge, what a replayed core's accesses answer, and
divergences. -/

namespace Sys2Proof.Machine

/-- Every core that may be replayed, in ascending identity. -/
def benchCores (d : Dev) : List Nat := (hostCores ++ fieldCores).filter (replayed d)

def rsect (d : Dev) (m : Nat) : RplSect := (tabFind d.rpl.replay m).getD { core := m }
def rsectSet (d : Dev) (m : Nat) (s : RplSect) : Dev := onRpl d (fun r => { r with replay := tabPut r.replay m s })

/-- R444: the first failing check stops the replay. -/
def diverge (m kind : Nat) (d : Dev) : Dev :=
  if d.rpl.mode ≠ 2 then d
  else
    let d := rgSet d Reg.RPL_DIV_INFO (pack [(0, kind), (4, m), (35, 1)])
    let d := rgSet (rgSet d Reg.RPL_DIV_PASS_LO (loWord d.rpl.pass)) Reg.RPL_DIV_PASS_HI (hiWord d.rpl.pass)
    let n := (coreGet d m).progress
    let d := rgSet (rgSet d Reg.RPL_DIV_PROGRESS_LO (loWord n)) Reg.RPL_DIV_PROGRESS_HI (hiWord n)
    let d := (benchCores d).foldl (fun d c => onCore d c (fun x => { x with halted := true })) d
    onRpl d (fun r => { r with mode := 3 })

/-! ### Outputs and tail stores (R435) -/

/-- The firmware queue of a core whose TAIL an address is: base register and head register. -/
def tailQueue (m a : Nat) : Option (Nat × Nat) :=
  ((List.range 9).filter (fun q => decide (fqCore q = m))).findSome? (fun q =>
    if a = Reg.CLN_FWQ_BASE + 4 * q + 2 then some (Reg.CLN_FWQ_BASE + 4 * q, Reg.CLN_FWQ_HEAD + 4 * q)
    else if a = Reg.GRD_FWQ_BASE + 4 * q + 2 then some (Reg.GRD_FWQ_BASE + 4 * q, Reg.GRD_FWQ_HEAD + q) else none)

/-- Positions a TAIL store names. -/
def tailNames (d : Dev) (base : Nat) (v : Word) : List Nat :=
  let n := 2 ^ fld (rg d (base + 1)) 4 0
  let t := posOf (rg d (base + 2)) n
  let k := posDist n t (posOf v n)
  if ¬ fqOn d base ∨ n ≤ fld v 15 0 ∨ n < k then [] else (List.range k).map (fun i => t + i)

/-- Is the address the TAIL of the core's own send ring? -/
def sendTail (m a : Nat) : Bool := (isF m || isH m) && decide (a = Reg.LKG_TXQ_BASE + 4 * (m % 16) + 2)

/-- Words of the 16-word entries that a store to the send ring's TAIL names. -/
def sendWords (d : Dev) (m : Nat) (v : Word) : List Word :=
  let n := 2 ^ ringLog d m Reg.LKG_TXQ_BASE
  let t := ringPos d m Reg.LKG_TXQ_BASE 2
  let k := posDist n t (posOf v n)
  if ¬ ringOn d m Reg.LKG_TXQ_BASE ∨ n ≤ fld v 15 0 ∨ n < k then []
  else (List.range k).flatMap (fun i =>
    let a := rn d (lkgCoreReg m Reg.LKG_TXQ_BASE) + 16 * ((t + i) % n)
    (List.range 16).map (fun j => if isF m then fmRd d (a + j) else memRd d (a + j)))

/-- A store's words in OUT_DIGEST: address, value, and the entries a TAIL store names. -/
def outWords (d : Dev) (m full a : Nat) (v : Word) : List Word :=
  [wd full, v] ++ (match tailQueue m a with
    | some q => (tailNames d q.1 v).flatMap (fun p => quadPack (fqDesc d q.1 p))
    | none => if sendTail m a then sendWords d m v else [])

/-- Digests of the HASH descriptors among the entries named (R443 rule 7). -/
def benchHashes (d : Dev) (m base : Nat) (v : Word) : List (Nat × Nat × List Word) :=
  (tailNames d base v).flatMap (fun p =>
    let o : Op := { id := 0, src := .fwq 0 p, ctx := coreCtx m, desc := fqDesc d base p }
    if o.opcode ≠ 0x20 then []
    else (hashOutcome { o with input := fwInput d o } []).outs.map (fun x => (m, x.1, packOct o.dense x.2)))

/-- R443 rule 4: a store of a replayed core to register space or the host window enters OUT_DIGEST and is dropped. -/
def benchStore (m full a : Nat) (v : Word) (d : Dev) : Dev :=
  let s := rsect d m
  let d' := rsectSet d m { s with outs := s.outs ++ outWords d m full a v }
  match tailQueue m a with
  | some q =>
    let d' := onRpl d' (fun r => { r with hashes := r.hashes ++ benchHashes d m q.1 v })
    rgSet (rgSet d' (q.1 + 2) (wd (v.toNat % 2 ^ 17))) q.2 (wd (v.toNat % 2 ^ 17))
  | none =>
    let r := lkgCoreReg m Reg.LKG_TXQ_BASE
    if sendTail m a then rgSet (rgSet d' (r + 2) (wd (v.toNat % 2 ^ 17))) (r + 3) (wd (v.toNat % 2 ^ 17)) else d'

/-! ### Recorded reads and events (R443 rules 3, 5, 6) -/

/-- The next recorded item of a replayed core. -/
def nextItem (d : Dev) (m : Nat) : Option RplItem := (rsect d m).items.head?

def popItem (d : Dev) (m : Nat) : Dev := let s := rsect d m; rsectSet d m { s with items := s.items.drop 1 }

/-- A replayed read: the recorded value, or a divergence where the next item has another kind or key. -/
def benchRead (m kind key : Nat) (d : Dev) : Option Word × Dev :=
  match nextItem d m with
  | some i => if i.kind = kind ∧ i.words.getD 0 0 = key then (some (wd (i.words.getD 1 0)), popItem d m) else (none, diverge m 2 d)
  | none => (none, diverge m 2 d)

/-- The EVENT due at the core's progress, if it has the given TYPE: its other bits. -/
def eventDue (d : Dev) (m type : Nat) : Option Nat :=
  match nextItem d m with
  | some i => if i.kind = 5 ∧ i.at_ = (coreGet d m).progress ∧ i.words.getD 0 0 % 16 = type then some (i.words.getD 0 0 / 16) else none
  | none => none

/-- Does a replayed core issue: below PROGRESS, or with an event due? -/
def mayIssue (d : Dev) (m : Nat) : Bool :=
  !replayed d m || (decide (d.rpl.mode = 2) && decide ((coreGet d m).progress < (rsect d m).progress))

/-- Recorded resets and releases of a replayed core (EVENT types 2 and 3) take place at their AT. -/
def resetEvents (m : Nat) : Nat → Dev → Dev
  | 0, d => d
  | n + 1, d =>
    if ¬ replayed d m ∨ d.rpl.mode ≠ 2 then d
    else if (eventDue d m 2).isSome then
      let p := (coreGet d m).progress
      resetEvents m n (onCore (coreReset m (popItem d m)) m (fun c => { c with progress := p }))
    else match nextItem d m with
      | some i => if i.kind = 5 ∧ i.words.getD 0 0 % 16 = 3 ∧ ¬ (coreGet d m).run then
          resetEvents m n (coreStart m (if isF m then 0 else hostEntry d m) (popItem d m)) else d
      | none => d

/-! ### Records (R434, Table 19.2) -/

/-- Items of a section's octets, from a position. -/
def itemsOf (o : Octets) : Nat → Nat → List RplItem
  | 0, _ => []
  | n + 1, p =>
    let k := leAt o (p + 4) 4
    { kind := leAt o p 1, at_ := leAt o (p + 8) 8, words := ((densePack (slice o (p + 16) (9 * ceilDiv k 2))).take k).map (·.toNat) } ::
      itemsOf o n (p + 16 + 9 * ceilDiv k 2)

/-- Sections of a record body. -/
def sectsOf : Nat → Octets → List RplSect
  | 0, _ => []
  | n + 1, o =>
    if o.length < 48 then []
    else { core := leAt o 0 1, flags := leAt o 1 1, progress := leAt o 8 8, items := itemsOf o (leAt o 4 4) 48, digest := slice o 16 32 } ::
      sectsOf n (o.drop (sectLen o))

/-- The octets of each section of a record body. -/
def sectParts : Nat → Octets → List Octets
  | 0, _ => []
  | n + 1, o => if o.length < 48 then [] else o.take (sectLen o) :: sectParts n (o.drop (sectLen o))

/-- The checks of a record: the kind of its divergence, or its body. KEYREC is authenticated by the record after it. -/
def recordCheck (d : Dev) (rec : Octets) : Except Nat Octets :=
  let h := rec.take 80
  let len := leAt h 28 4
  let flags := leAt h 6 2
  let first := decide (d.rpl.expect = 0)
  if rec.length < 80 ∨ ¬ octEq (h.take 4) [0x51, 0x52, 0x50, 0x31] ∨ leAt h 4 2 ≠ 1 ∨ leAt h 16 6 ≠ d.rpl.expect ∨ leAt h 24 4 ≠ d.rpl.epoch ∨
      ¬ octEq (slice h 32 32) (fitTo 32 d.rpl.prev) ∨ rec.length ≠ 80 + len + (if first then 0 else 16) ∨ bit (wd flags) 0 ≠ first then .error 5
  else if first then
    let dig := match (plane d d.life.bootPlane).committed with | some (_, x) => x | none => []
    if leAt rec 172 4 ≠ d.life.bootGen ∨ ¬ octEq (slice rec 176 48) (fitTo 48 dig) then .error 7 else .ok []
  else
    let r := gcmDec (d.rpl.key.getD []) (rplIv d.rpl.epoch d.rpl.expect) h (slice rec 80 len)
    if ¬ octEq r.2 (rec.drop (80 + len)) then .error 5
    else if bit (wd flags) 1 then .error 6
    else .ok r.1

/-! ### The replayed edge (R443) -/

/-- Checks of the pass that ends, core by core: items that remain, then the outputs. -/
def endChecks (d : Dev) : List Nat → Option (Nat × Nat)
  | [] => none
  | m :: r =>
    match tabFind d.rpl.replay m with
    | none => endChecks d r
    | some s =>
      if s.items ≠ [] then some (m, 2)
      else if sha256 (denseOct (s.outs.map (·.toNat))) ≠ s.digest then some (m, 1)
      else endChecks d r

/-- Has every replayed core with a section reached its PROGRESS? -/
def benchIdle (d : Dev) : Bool :=
  d.rpl.inputDue.isEmpty && (benchCores d).all (fun m => match tabFind d.rpl.replay m with
    | some s => decide (s.progress ≤ (coreGet d m).progress) || !(coreGet d m).run
    | none => true)

/-- A re-run digest against the MEMORY items of a section: none where it is not among them. -/
def hashJudge (items : List RplItem) (h : Nat × Nat × List Word) : Option Bool :=
  (items.find? (fun i => decide (i.kind = 1) && decide (i.words.headD 0 = h.2.1))).map
    (fun i => decide ((i.words.drop 1).take h.2.2.length = h.2.2.map (·.toNat)))

/-- One core's section begins: release, MEMORY items written and presented, pending bits set; WAITPASS returns. -/
def sectBegin (s : RplSect) (d : Dev) : Dev :=
  let m := s.core
  if ¬ replayed d m then d
  else if bit (wd s.flags) 1 then diverge m 6 d
  else
    let mems := s.items.filter (fun i => decide (i.kind = 1))
    let d := if bit (wd s.flags) 0 ∧ ¬ (coreGet d m).run then coreStart m (if isF m then 0 else hostEntry d m) d else d
    let d := mems.foldl (fun d i =>
      let a := i.words.headD 0
      let ws := (i.words.drop 1).map wd
      if isF m then fmWr d a ws else loseResv { d with mem := tabSetList 0 d.mem a ws } none false a ws.length) d
    let d := if mems.isEmpty then d else pendSet m 16 d
    let d := pendSet m 17 d
    let judged := (d.rpl.hashes.filter (fun h => decide (h.1 = m))).filterMap (fun h => (hashJudge mems h).map (fun ok => (h, ok)))
    let d := onRpl d (fun r => { r with hashes := r.hashes.filter (fun h => !judged.any (fun j => decide (j.1 = h))) })
    let d := rsectSet d m { s with items := s.items.filter (fun i => decide (i.kind ≠ 1)), outs := [] }
    let d := onCore d m (fun c => match c.waiting with
      | some g => { c with waiting := none, progress := c.progress + 1, g := if g = 0 then c.g else tabSet 0 c.g g (wd d.rpl.pass) }
      | none => c)
    if judged.any (fun j => !j.2) then diverge m 8 d else resetEvents m 8 d

/-- CONSUMED advances past a record. -/
def recordTaken (rec : Octets) (d : Dev) : Dev :=
  let d := onRpl d (fun r => { r with expect := r.expect + 1, prev := sha256 rec, consumed := r.consumed + rec.length })
  fnWrite d 0 (ofLoHi (rg d Reg.RPL_RING_CTRL_LO) (rg d Reg.RPL_RING_CTRL_HI) + 8) (leOct 8 d.rpl.consumed)

/-- REPLAYED_EDGE: with the next record as the bench put it into the replay ring. -/
def replayedEdge (rec : Octets) (d : Dev) : Dev :=
  if d.rpl.mode ≠ 2 ∨ ¬ benchIdle d ∨ d.rpl.edgeAt = d.pas.count then d
  else match endChecks d (benchCores d) with
  | some (m, k) => diverge m k d
  | none =>
    match recordCheck d rec with
    | .error k => diverge 0 k (onRpl d (fun r => { r with pass := leAt rec 8 8 }))
    | .ok body =>
      let first := decide (d.rpl.expect = 0)
      let d := recordTaken rec d
      if first then d
      else
        let ss := sectsOf 12 body
        let fs := ss.filter (fun s => isF s.core && replayed d s.core)
        let d := onRpl d (fun r => { r with pass := leAt rec 8 8, edgeAt := d.pas.count, replay := [], inputs := [], inputDue := fs.map (·.core) })
        let d := (sectParts 12 body).foldl (fun d o =>
          if fs.any (fun s => decide (s.core = leAt o 0 1)) then (inputBarges (leAt o 0 1) o).foldl (fun d b => queueBarge d 0 b) d else d) d
        (ss.filter (fun s => !isF s.core)).foldl (fun d s => sectBegin s d) d

/-- At a field edge: the replayed field cores whose section has come whole begin it. -/
def fieldReplay (d : Dev) : Dev :=
  d.rpl.inputDue.foldl (fun d m =>
    match tabFind d.rpl.inputs m with
    | some (o, true) =>
      (sectsOf 1 o).foldl (fun d s => sectBegin s d)
        (onRpl d (fun r => { r with inputs := tabErase r.inputs m, inputDue := r.inputDue.filter (fun x => decide (x ≠ m)) }))
    | _ => d) d

/-! ### Entry (R442) -/

/-- The chamber with REPLAY = 1 opens. -/
def replayEnter (d : Dev) : Dev :=
  let tok := (regOct (rg d) Reg.RPL_KEYTOK 43).take 172
  let d := onRpl d (fun _ => { key := tokenOpen d tok, epoch := leAt tok 4 4, mode := 2 })
  let d := (List.range 16).foldl (fun d p => endGrant p 6 d) d
  let cs := benchCores d
  let d := (cs.filter isH).foldl (fun d m => coreReset m d) d
  let d := if cs.any isF then carryOut 2 none 0 d else d
  { d with mem := d.mem.filter (fun e => !(isDram e.1 || inRange e.1 0x010000000 0x0100FFFFF)) }

end Sys2Proof.Machine
end

