-- ==== Sys2Proof/Machine/Partition.lean ====
section
/-! DEFINITION. Service partitions (R56 to R59): requests, DRAIN, FENCE and RETURN of each unit kind, and bound overruns (R39). -/

namespace Sys2Proof.Machine

/-! ### Requests (R57, R58) -/

/-- PAS_PART_STATE as the host island shows it. -/
def partShown (d : Dev) (kind idx : Nat) : Part :=
  if kind = 4 ∨ kind = 5 then tabGet {} d.pas.shown (unitKey kind idx) else part d kind idx

def partWord (d : Dev) (kind idx : Nat) : Word := let p := partShown d kind idx; pack [(0, p.state), (4, p.reason)]

/-- R58: is the request refused? -/
def partRefused (d : Dev) (m kind idx action reason : Nat) : Bool :=
  let st := (partShown d kind idx).state
  decide (kind = 0) || decide (8 < kind) || decide (unitCount kind ≤ idx) || decide (action = 0) ||
    (decide (action = 3) && decide (st < 2)) || (decide (action = 1) && decide (st ≠ 0)) || (decide (action = 2) && decide (2 ≤ st)) ||
    (isH m && decide (kind = 6) && decide (idx = m - 0x10)) || (decide (reason ≠ 0) && (decide (m ≠ 1) || decide (reason = 1) || decide (3 < reason))) ||
    ((decide (kind = 4) || decide (kind = 5)) && !d.lkg.fieldUp)

/-- An accepted request waits for its edge; one for a flight or a chain is sent to the field end at once. -/
def partAccept (kind idx action reason : Nat) (d : Dev) : Dev :=
  let field := decide (kind = 4) || decide (kind = 5)
  let q : PartReq := { kind := kind, idx := idx, action := action, reason := if action = 2 then reason else 0, pass := d.pas.count, ready := !field }
  let d := { d with pas := { d.pas with reqs := d.pas.reqs ++ [q] } }
  if field then queueBarge d 0 (configPush 3 0 [pack [(0, kind), (4, idx), (12, action), (14, reason)]] 1) else d

/-- A write to PAS_PART_REQ by K or a host core at P0. -/
def partReq (m pl kind idx action reason : Nat) (d : Dev) : Dev :=
  if ¬ (m = 1 ∨ (isH m ∧ pl = 0)) then d
  else
    let bad := partRefused d m kind idx action reason
    let d := if bad then d else partAccept kind idx action reason d
    { d with pas := { d.pas with result := tabSet 0 d.pas.result m (b2n bad) } }

/-! ### Units leave and return (R57, R120, R121, R131) -/

/-- Operations admitted to a code plane. -/
def planeOps (d : Dev) (p : Nat) : List Op :=
  d.ops.filter (fun o => decide (0xD1 ≤ o.opcode ∧ o.opcode ≤ 0xD7) && decide (o.plane = p) && decide (o.phase = .admitted))

/-- Has the unit something in flight? -/
def unitBusy (d : Dev) (kind idx : Nat) : Bool :=
  if kind = 7 then
    [2 * idx, 2 * idx + 1].any (fun k => let x := stream d k; !(x.ingress.isEmpty && x.classifier.isEmpty && x.cipher.isEmpty && x.egress.isEmpty))
  else if kind = 8 then (plane d idx).cur.isSome || (plane d idx).erase.isSome
  else !(unitOps d kind idx).isEmpty || (decide (kind = 1) && laneFrames d idx)

/-- Rings and streams of a lane that leaves service move on. -/
def leaveLane (kind idx : Nat) (fence : Bool) (d : Dev) : Dev :=
  let d := if kind = 1 ∨ kind = 2 then rebindFrom d kind idx else d
  if kind = 1 then moveStreams idx fence d else d

/-- The unit enters MAINT. -/
def enterMaint (kind idx : Nat) (d : Dev) : Dev :=
  let d := setPart d kind idx { state := 2 }
  if kind = 6 then coreReset (0x10 + idx) d else d

def drainUnit (kind idx : Nat) (d : Dev) : Dev :=
  let d := leaveLane kind idx false (setPart d kind idx { state := 1 })
  if unitBusy d kind idx then d else enterMaint kind idx d

/-- FENCE: admitted and held operations end with ABORTED_MIGRATED, frames are dropped, a core is held in CORE reset. -/
def fenceUnit (kind idx reason : Nat) (d : Dev) : Dev :=
  let ops := if kind ≤ 3 then unitOps d kind idx else if kind = 8 then planeOps d idx else []
  let d := ops.foldl (fun d o => endUndef (leavePlane d o) o St.migrated 0 d.pas.count (d.pas.count - 1)) d
  let d := leaveLane kind idx true (setPart d kind idx { state := 3, reason := reason })
  if kind = 3 then wipeBanks d idx true else if kind = 6 then coreReset (0x10 + idx) d else if kind = 7 then dropFrames idx 13 d else d

/-- One request of a host-island unit takes effect; a DRAIN gives way to a FENCE of the same pass. -/
def hostPart (q : PartReq) (d : Dev) : Dev :=
  let fenced := d.pas.reqs.any (fun r => decide (r.kind = q.kind) && decide (r.idx = q.idx) && decide (r.action = 2) && r.ready)
  if q.action = 1 then (if fenced then d else drainUnit q.kind q.idx d)
  else if q.action = 2 then fenceUnit q.kind q.idx q.reason d
  else setPart d q.kind q.idx {}

/-- What a request makes of a flight's or chain's state on the host island. -/
def showPart (q : PartReq) (d : Dev) : Dev :=
  let p : Part := if q.action = 1 then { state := 1 } else if q.action = 2 then { state := 3, reason := q.reason } else {}
  { d with pas := { d.pas with shown := tabSet {} d.pas.shown (unitKey q.kind q.idx) p } }

/-- PARTITION_APPLY, at step 4: requests of earlier passes take effect; those for flights and chains once their barge was accepted. -/
def partitionApply (d : Dev) : Dev :=
  let due := d.pas.reqs.filter (fun q => q.ready && !q.shown && decide (q.pass < d.pas.count) && decide (q.readyAt < d.pas.count))
  let host := due.filter (fun q => decide (q.kind ≠ 4 ∧ q.kind ≠ 5))
  let field := due.filter (fun q => decide (q.kind = 4 ∨ q.kind = 5))
  let d := field.foldl (fun d q => showPart q d) (host.foldl (fun d q => hostPart q d) d)
  let left := (d.pas.reqs.filter (fun q => q ∉ host)).map (fun q => if q ∈ field then { q with shown := true } else q)
  { d with pas := { d.pas with reqs := left } }

/-- Units of the host island, as kind and index. -/
def hostUnits : List (Nat × Nat) := [1, 2, 3, 6, 7, 8].flatMap (fun k => (List.range (unitCount k)).map (fun i => (k, i)))

/-- Is the unit DRAINING with nothing in flight? -/
def drained (d : Dev) (u : Nat × Nat) : Bool := decide ((part d u.1 u.2).state = 1) && !unitBusy d u.1 u.2

/-- DRAIN_COMPLETE: what was in flight in a DRAINING unit is done; the unit enters MAINT at the next edge. -/
def drainComplete (d : Dev) : Dev := { d with pas := { d.pas with drained := hostUnits.filter (drained d) } }

/-- Step 4: every DRAINING unit with nothing in flight enters MAINT. -/
def drainEdge (d : Dev) : Dev :=
  let d := hostUnits.foldl (fun d u => if u ∈ d.pas.drained ∧ (part d u.1 u.2).state = 1 ∨ drained d u then enterMaint u.1 u.2 d else d) d
  { d with pas := { d.pas with drained := [] } }

/-! ### Flights and chains (R59, R238) -/

/-- Ports with a grant that uses a flight or chain. -/
def cutPorts (d : Dev) (kind i : Nat) : List Nat :=
  (List.range 256).filter (fun p =>
    granted d p && (let n := (portGet d p).chain
      if kind = 5 then decide (n = i) else decide (p / 16 = i) || ((chainGet d n).tie && decide (n / 2 = i))))

/-- Every port of a flight is judged afresh. -/
def refreshFlight (f : Nat) (d : Dev) : Dev := (List.range 16).foldl (fun d j => portJudge (16 * f + j) d) d

/-- One shown request takes effect in the field island; the grants it ends, end in step 2 of the scheduler (R233). -/
def fieldPart (q : PartReq) (d : Dev) : Dev :=
  let fenced := d.pas.reqs.any (fun r => decide (r.kind = q.kind) && decide (r.idx = q.idx) && decide (r.action = 2) && r.shown)
  if q.action = 1 then (if fenced then d else setPart d q.kind q.idx { state := 1 })
  else if q.action = 2 then
    let d := setPart d q.kind q.idx { state := 3, reason := q.reason }
    if q.kind = 4 then refreshFlight q.idx d else d
  else
    let d := setPart d q.kind q.idx {}
    if q.kind = 4 then (List.range 16).foldl (fun d j => dropBase (16 * q.idx + j) d) d else d

/-- Has a flight or chain no grant? -/
def fieldIdle (d : Dev) (kind i : Nat) : Bool := (cutPorts d kind i).isEmpty

/-- A DRAINING flight or chain without a grant enters MAINT and the change is reported (R59, R289). -/
def fieldMaint (d : Dev) (u : Nat × Nat) : Dev :=
  if (part d u.1 u.2).state = 1 ∧ fieldIdle d u.1 u.2 then
    let d := setPart d u.1 u.2 { state := 2 }
    let d := if u.1 = 4 then refreshFlight u.2 d else d
    queueBarge d 0 { toField := false, lane := 0, type := 0x0A, core := 4, payload := fit15 [3, pack [(0, u.1), (4, u.2), (10, 2)]] }
  else d

/-- Step 4 of a field edge. -/
def fieldParts (d : Dev) : Dev :=
  let due := d.pas.reqs.filter (fun q => q.shown)
  let d := due.foldl (fun d q => fieldPart q d) d
  let d := { d with pas := { d.pas with reqs := d.pas.reqs.filter (fun q => !q.shown) } }
  ((List.range 16).map (fun i => (4, i)) ++ (List.range 32).map (fun i => (5, i))).foldl fieldMaint d

/-- Changes reported by CONFIG_ACK before this edge are shown (R59). -/
def showReported (d : Dev) : Dev :=
  let s := d.pas.shownNext.foldl (fun t x => tabSet {} t (unitKey x.1 x.2.1) { state := x.2.2 }) d.pas.shown
  { d with pas := { d.pas with shown := s, shownNext := [] } }

/-! ### Bound overruns (R39) -/

/-- Partition kind and index of the unit that holds an operation. -/
def holderOf (o : Op) : Option (Nat × Nat) :=
  if 0xD1 ≤ o.opcode ∧ o.opcode ≤ 0xD7 then (if o.plane < 2 then some (8, o.plane) else none)
  else match o.unit with
    | some (k, i) => if 1 ≤ k ∧ k ≤ 3 then some (k, i) else none
    | none => none

/-- Operations R39 does not judge: officer commands and the card commands but READ (R418), which have time limits of their own, and an erase that
is suspended. -/
def unjudged (d : Dev) (o : Op) : Bool :=
  decide (0xC0 ≤ o.opcode ∧ o.opcode < 0xD0) || (decide (0xE0 ≤ o.opcode) && decide (o.opcode ≠ 0xE2)) ||
    (decide (o.opcode = 0xD3) && decide ((plane d o.plane).state = 4 ∨ (plane d o.plane).state = 5))

/-- Has the operation overrun its bound by two passes? -/
def overran (d : Dev) (o : Op) : Bool := decide (o.phase = .admitted) && decide (o.admitAt + o.bound + 2 ≤ d.pas.count) && !unjudged d o

/-- The unit of an operation that has overrun is fenced; one of no partition kind goes on. -/
def overrunFence (d : Dev) (o : Op) : Dev :=
  match holderOf o with
  | some (k, i) => rgOr (if (part d k i).state = 3 then d else fenceUnit k i 1 d) Reg.PAS_OVERRUN (2 ^ k)
  | none => rgOr d Reg.PAS_OVERRUN 1

/-- BOUND_OVERRUN, at step 6: every operation that has overrun ends with TIMEOUT, then the units that held them are fenced. -/
def boundOverrun (d : Dev) : Dev :=
  let late := d.ops.filter (overran d)
  late.foldl overrunFence (late.foldl (fun d o => endUndef (leavePlane d o) o St.timeout 0 d.pas.count (d.pas.count - 1)) d)

end Sys2Proof.Machine
end

