-- ==== Sys2Proof/Machine/Open.lean ====
section
/-! DEFINITION. The level step over every block's rules (R49), and the opening of a chamber: what each block does when its entries become live
(R51). -/

namespace Sys2Proof.Machine

/-! ### Rules -/

/-- Table 7.6. -/
def levelHop (d : Dev) : List LRule :=
  [ ⟨1, decide (cv d Reg.HOP_RESEED_INT = 0) || decide (4096 < cv d Reg.HOP_RESEED_INT), [Reg.HOP_RESEED_INT]⟩,
    ⟨2, decide (3072 < cv d Reg.HOP_IV_BUDGET), [Reg.HOP_IV_BUDGET]⟩,
    ⟨3, decide (cv d Reg.HOP_RCT_CUTOFF < 2) || decide (cv d Reg.HOP_APT_CUTOFF < 513) || decide (1024 < cv d Reg.HOP_APT_CUTOFF),
      [Reg.HOP_RCT_CUTOFF, Reg.HOP_APT_CUTOFF]⟩ ] ++
  eachWord 4 (regArr Reg.HOP_SW_FILL 12 1) (fun a => decide (15 < cv d a))

/-- Table 14.8, over the regions the chamber names. -/
def levelMpu (d : Dev) : List LRule :=
  let rs := chmRegions d
  let word := fun (x : Nat × Nat) => regionOf (chmView d) x.1 x.2
  let ex := fun (x : Nat × Nat) => [mpuAddr x.1 x.2 0, mpuAddr x.1 x.2 1, mpuAddr x.1 x.2 2]
  let rule := fun (n : Nat) (bad : Nat × Nat → Bool) => rs.map (fun x => (⟨n, bad x, ex x⟩ : LRule))
  rule 1 (fun x => (word x).enabled && decide ((word x).hi < (word x).lo)) ++
  rule 2 (fun x => if isCore x.1 then decide ((word x).owner ≠ 0) else [0, 1, 2].any (fun c => (word x).grants c 2)) ++
  rule 3 (fun x => ((word x).enabled && meets (word x).lo (word x).hi 0x170000000 0x17FFFFFFF) ||
    (decide (x.1 ≠ 1) && !isFieldMaster x.1 && meets (word x).lo (word x).hi 0x020000000 0x02003FFFF)) ++
  rule 4 (fun x => (word x).sealed && ([0, 1, 2].any (fun r => (word x).grants 2 r) || decide (x.1 = 0x40 ∨ x.1 = 2))) ++
  rule 5 (fun x => decide (regionCount x.1 ≤ x.2)) ++
  [⟨6, decide (fld (chmView d Reg.MPU_HWIN_BASE_LO) 11 0 ≠ 0), [Reg.MPU_HWIN_BASE_LO]⟩]

/-- Rule table of a register block. -/
def blockRules (d : Dev) (b : Nat) : List LRule :=
  if b = 0x04 then levelChm d else if b = 0x06 then levelTmp d else if b = 0x07 then levelMpu d else if b = 0x08 then levelMbx d
  else if b = 0x09 then levelLkg d else if b = 0x0A then levelWhf d else if b = 0x0B then levelCln d else if b = 0x0C then levelHsh d
  else if b = 0x0E then levelGrd d else if b = 0x0F then levelHop d else if b = 0x10 then levelCrg d else if b = 0x11 then levelBsn d
  else if b = 0x12 then levelIls d else if b = 0x14 then levelSdh d else if b = 0x15 then levelOfc d else if b = 0x17 then levelRpl d
  else if b = 0x18 then levelPmu d else if b = 0x20 then levelFld d else if b = 0x21 then levelApt d else if b = 0x22 then levelPng d
  else if b = 0x23 then levelChn d else if b = 0x24 then levelTag d else []

/-- The level step of this device: its rule tables, the life-cycle check; the manual lists no cross-block rule. -/
def levelNow (last : Bool) (d : Dev) : Dev := levelStep blockRules lifeCheck (fun _ => none) last d

/-- LEVEL_COMPLETE. -/
def levelComplete (d : Dev) : Dev := levelNow false d

/-- At the end of the eighth pass of LEVELLING the level step ends either way. -/
def levelLast (d : Dev) : Dev := if d.chm.state = .levelling ∧ d.chm.levelAt + 8 ≤ d.pas.count + 1 then levelNow true d else d

/-! ### Opening -/

/-- Words of an array that the chamber names. -/
def namedIn (d : Dev) (base cnt stride : Nat) : List Nat :=
  (d.chm.entries.map (·.1)).filter (fun a => decide (base ≤ a) && decide (a < base + cnt * stride) && decide ((a - base) % stride = 0))

/-- R122: a ring that a chamber binds to a lane which has left service moves on at the opening edge, as R120 has it. -/
def openMove (d : Dev) (r : Nat) : Dev :=
  let kind := ringClass d r + 1
  if 2 < kind ∨ inService d kind (ringLane d r) then d
  else match fallbackLane d kind (ringLane d r) with | some m => bindRing d r m | none => d

/-- R118: a ring whose LANE the chamber changed advances its EPOCH. -/
def openRings (old d : Dev) : Dev :=
  (namedIn d Reg.WHF_RING_ASSIGN 1024 8).foldl (fun d a =>
    let r := (a - Reg.WHF_RING_ASSIGN) / 8
    let d := if ringLane old r = ringLane d r then d else let x := ringGet d r; ringSet d r { x with epoch := (x.epoch + 1) % 256 }
    openMove d r) d

/-- The lane a link's configuration gives a stream (0 protect, 1 validate). -/
def linkLane (d : Dev) (k : Nat) : Nat :=
  let w := rg d (Reg.ILS_LINK_LANE + linkOff (k / 2))
  if k % 2 = 0 then fld w 2 0 else fld w 6 4

/-- R131: the lane a stream takes that is given lane n: n, or the lane that takes over from one out of service (R122). -/
def streamLane (d : Dev) (n : Nat) : Nat := if inService d 1 n then n else (fallbackLane d 1 n).getD n

/-- R131: streams move to the lanes a chamber gives them. DESIGN CHOICE (log entry 96): a chamber that gives a stream the lane its word already holds moves
nothing, so a stream that a fence has moved is not brought back by it. -/
def openStreams (old d : Dev) : Dev :=
  (List.range 8).foldl (fun d k =>
    if linkLane old k = linkLane d k then d else setStream d k { stream d k with lane := streamLane d (linkLane d k) }) d

/-- R133: SAs whose control word the chamber names. -/
def openSas (old d : Dev) : Dev :=
  (namedIn d Reg.ILS_SA_CTL 4096 8).foldl (fun d a => let s := (a - Reg.ILS_SA_CTL) / 8; saOpen s (saCtl old s) d) d

/-- R292: binding entries that a chamber set are locked until a reset. -/
def lockBindings (d : Dev) : Dev :=
  let ws := (d.chm.entries.map (·.1)).filter (fun a => decide (a >>> 16 = 0x08) && (match regRow a with | some r => decide (r.ps ≠ 0) | none => false))
  { d with pinned := ws.foldl (fun t a => tabSet false t a true) d.pinned }

/-- RPL_MODE opens. -/
def openReplay (old d : Dev) : Dev :=
  let was := bit (rg old Reg.RPL_MODE) 0
  let now := bit (rg d Reg.RPL_MODE) 0
  if now ∧ ¬ was then replayEnter d else if was ∧ ¬ now then onRpl d (fun _ => {}) else d

/-- Every entry becomes live at this edge. -/
def openNow (d : Dev) : Dev :=
  let old := d
  let d := applyEntries d
  let d := lockBindings (openSas old (openStreams old (openRings old d)))
  let d := rosterOpen (sdhOpen (bsnOpen (crgOpen d)))
  let d := rplCtlOpen (bit (rg old Reg.RPL_CTL) 0) d
  let d := if releaseNamed d then releaseOpen d else d
  let d := lifeOpen (openReplay old d)
  chmEmpty { d with chm := { d.chm with pushed := false } }

/-- CHAMBER_OPEN, at step 3. -/
def chamberOpen (d : Dev) : Dev :=
  if d.chm.state ≠ .scheduled ∨ d.pas.count < d.chm.target then d
  else match openFail d with
  | some code => chmRefill d (some (code, 0, none))
  | none => openNow d

/-- The staged set goes live at the field end; a port whose ENABLE went to 0 gives up its baseline, and in step 2 of the scheduler its grant. -/
def fieldApply (d : Dev) : Dev :=
  if ¬ d.fld.apply then d
  else
    let old := d
    let d := d.fld.staged.foldl (fun d e => rgSet d e.1 (chmMerge (rg d e.1) (wd e.2) (chmMask e.1))) d
    let d := { d with fld := { d.fld with apply := false, staged := [] } }
    (List.range 256).foldl (fun d p =>
      if aptEnable old p && !aptEnable d p then portJudge p (dropBase p d) else d) d

end Sys2Proof.Machine
end

