-- ==== Sys2Proof/Machine/Bus.lean ====
section
/-! DEFINITION. The register bus: what a master reads at a register word, and what its write does (Tables 0.2 and the block maps). -/

namespace Sys2Proof.Machine

/-! ### Words the device computes -/

/-- The ID words of the block maps. -/
def idWord (b : Nat) : Option Nat :=
  if b = 0x00 then some 0x1101 else if b = 0x01 then some 0x1C01 else if b = 0x02 then some 1 else if b = 0x05 then some 1
  else if b = 0x06 then some 0x2701 else if b = 0x07 then some 0x1001 else if b = 0x08 then some 0x4001 else if b = 0x09 then some 0x401
  else if b = 0x0A then some 0x40001 else if b = 0x0E then some (1 + 16 * 2 ^ 8 + 64 * 2 ^ 13) else if b = 0x0F then some 0x401
  else if b = 0x10 then some 1 else if b = 0x12 then some 0x100001 else if b = 0x13 then some 0x801 else if b = 0x14 then some 0x201
  else if b = 0x15 then some (1 + 2 * 2 ^ 8 + 64 * 2 ^ 12) else if b = 0x17 then some 1 else if b = 0x18 then some 0x1E01
  else if b = 0x20 then some (1 + 16 * 2 ^ 8 + 32 * 2 ^ 13) else if b = 0x24 then some (1 + 128 * 2 ^ 8 + 16 * 2 ^ 16) else none

/-- Index of a word in an array of `cnt` words `stride` apart. -/
def arrIdx (a base cnt stride : Nat) : Option Nat :=
  if base ≤ a ∧ (a - base) % stride = 0 ∧ (a - base) / stride < cnt then some ((a - base) / stride) else none

def inWords (a base cnt : Nat) : Bool := decide (base ≤ a) && decide (a < base + cnt)

def rstBlockWord (d : Dev) (a : Nat) : Word :=
  if a = Reg.RST_LAST then wd d.keep.rstLast
  else if a = Reg.RST_LAST_PASS_LO then loWord d.keep.rstPass
  else if a = Reg.RST_LAST_PASS_HI then hiWord d.keep.rstPass
  else if a = Reg.RST_MAP_LO then rstMapWord d false
  else if a = Reg.RST_MAP_HI then rstMapWord d true
  else if inWords a Reg.RST_GAP 10 then wd (gap d (a - Reg.RST_GAP + 1))
  else if a = Reg.RST_SEQ then rstSeqWord d
  else rg d a

def pwrBlockWord (d : Dev) (m a : Nat) : Word :=
  if a = Reg.PWR_STATUS then pwrStatusWord d
  else if a = Reg.PWR_MONC_LO then loWord (monc d (fld (pv d m Reg.PWR_MONC_SEL) 3 0))
  else if a = Reg.PWR_MONC_HI then hiWord (monc d (fld (pv d m Reg.PWR_MONC_SEL) 3 0))
  else if a = Reg.PWR_MONC_SEL then pv d m a
  else tabGet 0 d.meas a

/-- The unit a PAS_PART_STATE word shows. -/
def partOfWord (o : Nat) : Option (Nat × Nat) :=
  ((List.range 8).map (· + 1)).findSome? (fun k => if unitOffset k ≤ o ∧ o < unitOffset k + unitCount k then some (k, o - unitOffset k) else none)

def pasBlockWord (d : Dev) (m a : Nat) : Word :=
  if a = Reg.PAS_COUNT_LO then loWord d.pas.count
  else if a = Reg.PAS_COUNT_HI then hiWord d.pas.count
  else if a = Reg.PAS_PART_RESULT then wd (tabGet 0 d.pas.result m)
  else match partOfWord (a % 65536) with
  | some (k, i) => partWord d k i
  | none => rg d a

def chmStateNum : ChmState → Nat
  | .empty => 0 | .filling => 1 | .levelling => 2 | .levelled => 3 | .scheduled => 4

def chmBlockWord (d : Dev) (m a : Nat) : Word :=
  let c := d.chm
  let named := decide (c.state = .levelled) || decide (c.state = .scheduled)
  if a = Reg.CHM_STATE then pack [(0, chmStateNum c.state), (3, b2n (chmProtected d)), (4, fld (rg d a) 5 4)]
  else if a = Reg.CHM_OWNER then wd (if c.state = .empty then 0 else c.owner)
  else if a = Reg.CHM_COUNT then wd c.entries.length
  else if a = Reg.CHM_SEQ_LO then loWord (chmSeq d)
  else if a = Reg.CHM_SEQ_HI then hiWord (chmSeq d)
  else if a = Reg.CHM_ERR then pack ([(0, c.errCode), (8, c.errRule)] ++ (match c.errEntry with | some e => [(20, e), (32, 1)] | none => []))
  else if a = Reg.CHM_APPROVALS then pack ((0, c.approvals.length) :: c.approvals.zipIdx.map (fun x => (3 + 6 * x.2, x.1.roster)))
  else if a = Reg.CHM_PEEK_ADDR then pv d m a
  else if inWords a Reg.CHM_DIGEST 12 then wd (leAt c.digest (4 * (a - Reg.CHM_DIGEST)) 4)
  else if inWords a Reg.CHM_NONCE 4 then (if named then wd (leAt c.nonce (4 * (a - Reg.CHM_NONCE)) 4) else 0)
  else rg d a

def lcsBlockWord (d : Dev) (m a : Nat) : Word :=
  if a = Reg.LCS_STATE then lcsStateWord d
  else if a = Reg.LCS_PROGRESS then lcsProgressWord d
  else if inWords a Reg.LCS_DEVID 4 then wd (leAt d.life.devid (4 * (a - Reg.LCS_DEVID)) 4)
  else if inWords a Reg.LCS_ARG 3 then pv d m a
  else if a = Reg.LCS_BOOT then lcsBootWord d
  else if a = Reg.LCS_BOOT_GEN then wd d.life.bootGen
  else if inWords a Reg.LCS_DAK_PUB 24 then wd (leAt (dakPub d) (4 * (a - Reg.LCS_DAK_PUB)) 4)
  else if inWords a Reg.LCS_CHAL 16 then chalWord d (a - Reg.LCS_CHAL)
  else rg d a

def tmpBlockWord (d : Dev) (m a : Nat) : Word :=
  if a = Reg.TMP_STATE then tmpStateWord d
  else if a = Reg.TMP_HOLD_COUNT_LO then loWord (holdCount d)
  else if a = Reg.TMP_HOLD_COUNT_HI then hiWord (holdCount d)
  else if a = Reg.TMP_KEEP_EPOCH then wd d.tmp.epoch
  else if a = Reg.TMP_LOG_COUNT then wd d.tmp.log.length
  else if a = Reg.TMP_LOG_SEL then pv d m a
  else if inWords a Reg.TMP_LOG 6 then tmpLogWord d m (a - Reg.TMP_LOG)
  else rg d a

/-- A word of an MPU group. -/
def mpuBlockWord (d : Dev) (m a : Nat) : Word :=
  let o := a % 65536
  if o < 256 then rg d (isl m a)
  else if isFieldMaster m ≠ isFieldMaster (o / 256) then 0
  else if o % 256 = 0xF0 then pack [(0, regionCount (o / 256)), (6, fld (rg d a) 6 6)]
  else if o % 256 < 128 ∧ o % 256 / 4 < regionCount (o / 256) ∨ (0xF1 ≤ o % 256 ∧ o % 256 ≤ 0xF3 ∧ regionCount (o / 256) ≠ 0) then rg d a
  else 0

def mbxBlockWord (d : Dev) (m a : Nat) : Word :=
  let o := a % 65536
  if inWords a Reg.MBX_OUT 16 then pv d m a
  else if 0x400 ≤ o ∧ o < 0xC00 then
    let c := (o - 0x400) / 32
    let k := o % 32
    if k < 16 then mbxInWord d m c k else if k = 16 then mbxStatusWord d m c else if k = 17 then mbxResultWord d m c else 0
  else rg d a

def lkgBlockWord (d : Dev) (m a : Nat) : Word :=
  if a = Reg.LKG_STATE then lkgStateWord d (isFieldMaster m)
  else if a = Reg.LKG_TX_REFUSED then pv d m a
  else rg d (isl m a)

def whfBlockWord (d : Dev) (a : Nat) : Word :=
  let o := a % 65536
  let r := (o - 0x2000) / 8
  if a = Reg.WHF_INFLIGHT then wd (inFlight d)
  else if a = Reg.WHF_BACKPRESSURE then
    pack [(0, b2n (decide (maxOps ≤ inFlight d))), (1, b2n (stageFull d)),
          (2, b2n ((List.range 64).any (fun f => decide (rn d (Reg.WHF_FN_CAP + f) ≤ fnInflight d f))))]
  else if 0x2000 ≤ o ∧ o < 0x4000 ∧ o % 8 = 4 then
    let x := ringGet d r
    pack [(0, fld (rg d a) 4 0), (8, match x.state with | .disabled => 0 | .active => 1 | .draining => 2 | .stopped => 3)]
  else if 0x2000 ≤ o ∧ o < 0x4000 ∧ o % 8 = 5 then setFld (rg d a) 23 16 (ringGet d r).epoch
  else if 0x2000 ≤ o ∧ o < 0x4000 ∧ o % 8 = 7 then
    let x := ringGet d r
    let w := idxWord x.head x.size
    pack [(0, w.toNat % 2 ^ 17), (17, fld (rg d a) 18 17), (19, (ringOps d r).length)]
  else rg d a

def clnBlockWord (d : Dev) (a : Nat) : Word :=
  let n := (a % 65536 - 0x100) / 16
  if (arrIdx a Reg.CLN_INLINE_PEAK 8 16).isSome then wd (inlinePeak d (laneUse d n))
  else if (arrIdx a Reg.CLN_ALLOW 8 16).isSome then wd (laneUse d n).allow
  else if (arrIdx a Reg.CLN_CHAINED 8 16).isSome then wd (spentOf d a)
  else rg d a

def hshBlockWord (d : Dev) (a : Nat) : Word :=
  let k := a % 65536 % 8
  if 3 ≤ k ∧ k ≤ 6 then wd (spentOf d a) else rg d a

def kslBlockWord (d : Dev) (m a : Nat) : Word :=
  let o := a % 65536
  let s := slotGet d (fld (pv d m Reg.KSL_SEL) 13 0)
  if a = Reg.KSL_FREE then wd (slotsFree d)
  else if a = Reg.KSL_EXT_FREE then wd (4096 - extUsed d)
  else if a = Reg.KSL_SEL ∨ inWords a Reg.KSL_ARG 5 then pv d m a
  else if a = Reg.KSL_VIEW_EXPIRY_LO then loWord s.expiry
  else if a = Reg.KSL_VIEW_EXPIRY_HI then hiWord s.expiry
  else if a = Reg.KSL_VIEW_COUNT_LO then loWord s.count
  else if a = Reg.KSL_VIEW_COUNT_HI then hiWord s.count
  else if a = Reg.KSL_VIEW_LIMIT_LO then loWord s.limit
  else if a = Reg.KSL_VIEW_LIMIT_HI then hiWord s.limit
  else if 0x8000 ≤ o then
    let x := slotGet d ((o - 0x8000) / 2)
    if o % 2 = 0 then pack [(0, x.state), (2, x.exhaust), (3, x.source), (8, x.alg), (16, x.owner), (24, x.usage)]
    else if x.state = 0 then 0 else wd (min (2 ^ 36 - 1) (x.limit - x.count))
  else rg d a

/-- GRD_UNIT_STATUS. DEDUCED (log entry 50): between an express job's end and the resumption of the suspended one the unit shows WIPING. -/
def grdStatusWord (d : Dev) (u : Nat) : Word :=
  let x := unitGet d u
  let st := if x.loading.isSome then 4 else if x.job.isSome then (if x.susp.isSome then 2 else 1)
    else if x.wipe ≠ .idle ∨ x.susp.isSome then 3 else if x.image.isNone then 5 else 0
  let rec_ := match x.job.bind (findOp d) with | some o => o.f 8 2 | none => 0
  pack [(0, st), (8, x.owner), (16, rec_)]

def grdBlockWord (d : Dev) (m a : Nat) : Word :=
  if inWords a Reg.GRD_ARG 4 then pv d m a
  else match arrIdx a Reg.GRD_UNIT_STATUS 16 8 with
  | some u => grdStatusWord d u
  | none => match arrIdx a Reg.GRD_UNIT_IMAGE 16 8 with
  | some u => wd (match (unitGet d u).image with | some i => i.version | none => 0)
  | none => match arrIdx a Reg.GRD_CURVE_STATE 64 1 with
  | some s =>
    let c := tabGet {} d.grd.curves s
    pack [(0, c.state), (2, c.reason), (10, c.owner), (18, bitLen c.p)]
  | none => rg d a

def hopBlockWord (d : Dev) (m a : Nat) : Word :=
  if a = Reg.HOP_STATE then hopStateWord d
  else if a = Reg.HOP_SRC_STATE then hopSrcWord d
  else if a = Reg.HOP_SW_SHORT then pv d m a
  else if a = Reg.HOP_SW_DRAW ∨ a = Reg.HOP_RAW_DATA then 0
  else rg d a

def crgBlockWord (d : Dev) (m a : Nat) : Word :=
  if a = Reg.CRG_STATE then crgStateWord d
  else if a = Reg.CRG_COUNT then wd (crgHeld d.crg.table)
  else if a = Reg.CRG_STASH then wd d.crg.table.stash.length
  else if a = Reg.CRG_PENDING then wd (pendingDeltas d)
  else if a = Reg.CRG_EPOCH_LO then loWord d.crg.epoch
  else if a = Reg.CRG_EPOCH_HI then hiWord d.crg.epoch
  else if inWords a Reg.CRG_ARG 3 then pv d m a
  else rg d a

def bsnBlockWord (d : Dev) (a : Nat) : Word :=
  if a = Reg.BSN_COUNT then wd (memberCount d)
  else if a = Reg.BSN_SITE_NOW_LO then loWord (siteNow d % 2 ^ 64)
  else if a = Reg.BSN_SITE_NOW_HI then hiWord (siteNow d % 2 ^ 64)
  else if a = Reg.BSN_KEK_EPOCH then wd d.life.kekEpoch
  else if a = Reg.BSN_KEK_STATE then bsnKekState d
  else if a = Reg.BSN_NEXT_AT_LO then loWord (match d.bsn.next with | some x => x.2 | none => 0)
  else if a = Reg.BSN_NEXT_AT_HI then hiWord (match d.bsn.next with | some x => x.2 | none => 0)
  else if a = Reg.BSN_SEAL_SEQ_LO then loWord (monc d 1)
  else if a = Reg.BSN_SEAL_SEQ_HI then hiWord (monc d 1)
  else rg d a

def ilsBlockWord (d : Dev) (m a : Nat) : Word :=
  let o := a % 65536
  let cnt :=
    let s := pv d m Reg.ILS_CNT_SEL
    if bit s 0 ∧ fld s 17 13 = 3 ∧ ¬ saRx (saCtl d (fld s 12 1)) then 0 else
    tabGet 0 d.ils.cnt ((if bit s 0 then 2 ^ 16 else 0) + fld s 12 1 * 32 + fld s 17 13)
  if a = Reg.ILS_CNT_SEL ∨ inWords a Reg.ILS_ARG 4 then pv d m a
  else if a = Reg.ILS_CNT_LO then loWord cnt
  else if a = Reg.ILS_CNT_HI then hiWord cnt
  else if 0x1000 ≤ o ∧ o < 0x2000 then (if saRx (saCtl d (o - 0x1000)) then hiWord (saGet d (o - 0x1000)).next else 0)
  else if 0x4000 ≤ o ∧ o < 0x8000 then
    let s := (o - 0x4000) / 4
    let x := saGet d s
    let rx := saRx (saCtl d s)
    let pn := if rx then x.low else x.next
    if o % 4 = 0 then pack [(0, x.state), (2, b2n x.keyed)]
    else if o % 4 = 1 then loWord pn else if o % 4 = 2 then hiWord pn
    else if rx then loWord x.next else 0
  else match arrIdx a Reg.ILS_LINK_STATUS 4 32 with
  | some k => pack ((List.range 4).map (fun b => (b, b2n (portUp d k b))) ++ [(4, (stream d (2 * k)).lane), (8, (stream d (2 * k + 1)).lane)])
  | none => rg d a

def flsBlockWord (d : Dev) (m a : Nat) : Word :=
  if a = Reg.FLS_PLANE_STATE then flsStateWord d
  else if inWords a Reg.FLS_ARG 4 ∨ a = Reg.FLS_SEL then pv d m a
  else if a = Reg.FLS_BLOCK_INFO then flsBlockInfo d m
  else if a = Reg.FLS_PAIR then flsPairWord d m
  else if a = Reg.FLS_COMMIT_A then flsCommitWord d 0
  else if a = Reg.FLS_COMMIT_B then flsCommitWord d 1
  else rg d a

def sdhBlockWord (d : Dev) (m a : Nat) : Word :=
  let o := a % 65536
  if a = Reg.SDH_STATE then sdhStateWord d
  else if a = Reg.SDH_HEAD_SEQ_LO then loWord d.sdh.headSeq
  else if a = Reg.SDH_HEAD_SEQ_HI then hiWord d.sdh.headSeq
  else if a = Reg.SDH_WRITTEN_SEQ_LO then loWord d.sdh.written
  else if a = Reg.SDH_WRITTEN_SEQ_HI then hiWord d.sdh.written
  else if inWords a Reg.SDH_ARG 4 then pv d m a
  else if a = Reg.SDH_CMD_SEQ_LO then loWord (tabGet 0 d.sdh.appended m)
  else if a = Reg.SDH_CMD_SEQ_HI then hiWord (tabGet 0 d.sdh.appended m)
  else if 0x20 ≤ o ∧ o < 0x30 then sdSlotWord d ((o - 0x20) / 8) (o % 8)
  else rg d a

def ofcBlockWord (d : Dev) (a : Nat) : Word :=
  let o := a % 65536
  if a = Reg.OFC_ROSTER_COUNT then wd d.life.roster.length
  else if 0x30 ≤ o ∧ o < 0x38 ∧ o % 4 < 3 then ofcIfWord d ((o - 0x30) / 4) (o % 4)
  else if 0x1000 ≤ o ∧ o < 0x1400 then rosterWord d (o - 0x1000)
  else rg d a

def rplBlockWord (d : Dev) (a : Nat) : Word :=
  if a = Reg.RPL_STATE then rplStateWord d
  else if a = Reg.RPL_KEY_EPOCH then wd (d.rpl.epoch % 2 ^ 32)
  else if a = Reg.RPL_RSEQ_LO then loWord (d.rpl.rseq - 1)
  else if a = Reg.RPL_RSEQ_HI then hiWord (d.rpl.rseq - 1)
  else if a = Reg.RPL_REPLAY_PASS_LO then loWord d.rpl.pass
  else if a = Reg.RPL_REPLAY_PASS_HI then hiWord d.rpl.pass
  else rg d a

/-- Blocks 20 to 24: a host-side read returns the live CH value, and zero for every other field (R245); a field core reads every field. -/
def fieldBlockWord (d : Dev) (m a : Nat) : Word :=
  let o := a % 65536
  let b := a >>> 16
  if ¬ isFieldMaster m then (match regRow a with | some r => hv d a &&& wd r.chm | none => 0)
  else if b = 0x20 then
    if o = 1 then fldStateWord d else if o = 3 then wd (powerNow d) else if o = 9 then pv d m a
    else if 0x40 ≤ o ∧ o < 0x48 then tieWord d (o - 0x40) else rg d a
  else if b = 0x21 then
    if o % 8 = 5 then aptStatusWord d (o / 8) else if o % 8 = 6 then aptBaseWord d (o / 8) else rg d a
  else if b = 0x22 then (if o % 4 = 3 then pngStatusWord d (o / 4) else rg d a)
  else if b = 0x23 then
    if 0x200 ≤ o then rg d a
    else if o % 16 = 1 then chnStatusWord d (o / 16)
    else if o % 16 = 9 then idxWord (chainGet d (o / 16)).head 8
    else if o % 16 = 0xB then emuStatusWord d (o / 16)
    else rg d a
  else if o = 1 then tagStateWord d
  else if 8 ≤ o ∧ o < 12 then tagLockWord d (o - 8)
  else if 0x19 ≤ o ∧ o < 0x1D then pv d m a
  else rg d a

/-- Is the word present in the field island's register space (R341, Tables 7.4, 11.5 and 20.7)? -/
def fieldHasWord (a : Nat) : Bool :=
  let b := a >>> 16
  let o := a % 65536
  if b = 0x07 ∧ 256 ≤ o then isFieldMaster (o / 256)
  else if b = 0x18 then decide (256 ≤ o) && isF (o / 256)
  else if b = 0x00 ∧ 0x30 ≤ o ∨ b = 0x09 ∧ (0x50 ≤ o ∧ o < 0x80 ∨ 0x90 ≤ o) then false
  else match regRow a with | some r => decide (r.isl ≠ 0) | none => false

/-- The block of a command register whose result word is at the address. -/
def resultBlock (a : Nat) : Option Nat :=
  if a = Reg.LCS_CMD_RESULT then some 0x05 else if a = Reg.KSL_CMD_RESULT then some 0x0D else if a = Reg.GRD_CMD_RESULT then some 0x0E
  else if a = Reg.CRG_CMD_RESULT then some 0x10 else if a = Reg.ILS_CMD_RESULT then some 0x12 else if a = Reg.FLS_CMD_RESULT then some 0x13
  else if a = Reg.SDH_CMD_RESULT then some 0x14 else if a = Reg.OFC_CMD_RESULT then some 0x15 else if a = Reg.TAG_RESULT then some 0x24
  else none

/-- A register word, CHM_PEEK_DATA apart, as master m would read it of a device that stands still, WO fields included. -/
def blockWord (d : Dev) (m a : Nat) : Word :=
  let b := a >>> 16
  match (if isFieldMaster m ∧ ¬ fieldHasWord a ∨ ¬ isFieldMaster m ∧ (b = 0x20 ∨ b = 0x24) ∧ a % 65536 = 0 then some 0 else if a % 65536 = 0 then idWord b else none) with
  | some v => wd v
  | none =>
    match resultBlock a with
    | some blk => cmdWord d blk m
    | none =>
    if b = 0x00 then (if inWords a Reg.RST_WDG_CTL 0x30 then rg d (isl m a) else rstBlockWord d a)
    else if b = 0x01 then tabGet 0 d.meas a
    else if b = 0x02 then pwrBlockWord d m a
    else if b = 0x03 then pasBlockWord d m a
    else if b = 0x04 then chmBlockWord d m a
    else if b = 0x05 then lcsBlockWord d m a
    else if b = 0x06 then tmpBlockWord d m a
    else if b = 0x07 then mpuBlockWord d m a
    else if b = 0x08 then mbxBlockWord d m a
    else if b = 0x09 then lkgBlockWord d m a
    else if b = 0x0A then whfBlockWord d a
    else if b = 0x0B then clnBlockWord d a
    else if b = 0x0C then hshBlockWord d a
    else if b = 0x0D then kslBlockWord d m a
    else if b = 0x0E then grdBlockWord d m a
    else if b = 0x0F then hopBlockWord d m a
    else if b = 0x10 then crgBlockWord d m a
    else if b = 0x11 then bsnBlockWord d a
    else if b = 0x12 then ilsBlockWord d m a
    else if b = 0x13 then flsBlockWord d m a
    else if b = 0x14 then sdhBlockWord d m a
    else if b = 0x15 then ofcBlockWord d a
    else if b = 0x16 then (if a = Reg.DBG_STATUS then dbgStatusWord d else if a = Reg.DBG_ADDR ∧ m ≠ 2 then 0 else if a = Reg.DBG_CORE ∧ m ≠ 2 then 0 else rg d a)
    else if b = 0x17 then rplBlockWord d a
    else if b = 0x18 then (if 256 ≤ a % 65536 ∧ isFieldMaster m ≠ isF (a % 65536 / 256) then 0 else rg d a)
    else if 0x20 ≤ b ∧ b ≤ 0x24 then fieldBlockWord d m a
    else 0

/-! ### Reads -/

/-- Register word a master peeks at. -/
def peekAddr (d : Dev) (m : Nat) : Nat := (pv d m Reg.CHM_PEEK_ADDR).toNat % 2 ^ 24

/-- Table 2.7: the chamber's copy of the word peeked at, or its live value as the master reads it, where the chamber holds none. -/
def peekWord (d : Dev) (m : Nat) : Word :=
  let a := peekAddr d m
  if hasEntry d a then chmView d a else blockWord d m a &&& ~~~(wd (match regRow a with | some r => r.wo | none => 0))

/-- A register word as master m would read it of a device that stands still, WO fields included. -/
def regWord (d : Dev) (m a : Nat) : Word := if a = Reg.CHM_PEEK_DATA then peekWord d m else blockWord d m a

/-- Bits a read takes from the live word, and bits that read zero, of a register word. -/
def liveMask (a : Nat) : Nat := match regRow a with | some r => r.chm ||| r.rw ||| r.pin | none => if (mpuWord a).isSome then 2 ^ 36 - 1 else 0
def woMask (a : Nat) : Nat := match regRow a with | some r => r.wo | none => 0

/-- Words a master's own accesses alone change, or that are recorded when read: they read live. CHM_PEEK_DATA is not one of them: it shows what another
master, or an edge, changes (R43, R45). -/
def readsLive (m a : Nat) : Bool :=
  decide (a ∈ [Reg.PAS_PART_RESULT, Reg.HOP_SW_SHORT, Reg.LKG_TX_REFUSED, Reg.FLD_REQ_DROPS]) ||
    decide (a >>> 16 = 0x18 ∧ 256 ≤ a % 65536) || decide (a >>> 16 = 0x07 ∧ a % 65536 / 256 = m)

/-- A register word read by a master: fields the hardware changes asynchronously come from the device as latched at the last edge
(R45), the rest are live, and WO fields read zero. -/
def regPeek (dl d : Dev) (m a : Nat) : Word :=
  match resultBlock a with
  | some blk => if cmdGet d blk m = cmdGet dl blk m then cmdWord d blk m else 0
  | none =>
    let live := regWord d m a
    let v := if readsLive m a then live
      else
        let old := regWord { dl with priv := d.priv } m a
        let k := wd (liveMask a)
        (live &&& k) ||| (old &&& ~~~k)
    v &&& ~~~(wd (woMask a))

/-- R31: the HI word of a pair whose LO word, when read, latches it. -/
def hiOf (a : Nat) : Option Nat :=
  let o := a % 65536
  if a = Reg.PAS_COUNT_LO then some Reg.PAS_COUNT_HI
  else if a >>> 16 = 0x12 ∧ 0x4000 ≤ o ∧ o < 0x8000 ∧ o % 4 = 3 then some (Reg.ILS_SA_NEXT_HI + (o - 0x4000) / 4)
  else match pmuWord a with
  | some (_, k) => if k ∈ [0x04, 0x06, 0x08] ∨ (0x18 ≤ k ∧ k ≤ 0x27 ∧ k % 2 = 0) then some (a + 1) else none
  | none => none

def shadowKey (m a : Nat) : Nat := m * 2 ^ 24 + a

/-- A word that R31 pairs: a LO read latches the HI word for the same master; the first HI read after it takes the latched word. -/
def pairRead (m a : Nat) (get : Nat → Dev → Word × Dev) (d : Dev) : Word × Dev :=
  match tabFind d.pas.shadow (shadowKey m a) with
  | some v => (wd v, { d with pas := { d.pas with shadow := tabErase d.pas.shadow (shadowKey m a) } })
  | none =>
    let x := get a d
    match hiOf a with
    | some h =>
      let y := get h x.2
      (x.1, { y.2 with pas := { y.2.pas with shadow := tabPut y.2.pas.shadow (shadowKey m h) y.1.toNat } })
    | none => x

/-- Kinds of recorded reads (R45): 1 software draw, 2 PAS_CYCLE, 3 performance counter, 4 fine cycle counter. -/
def noteRead (m kind : Nat) (r : Word × Dev) : Word × Dev := if isCore m then (r.1, recordRead r.2 m kind r.1.toNat) else r

/-- A read of a register word by a master at a privilege level, its effects included. `dl` is the device as latched at the last edge of the
master's island. At P2 a core's own PMU group reads zero unless UACC is set (R449). -/
def regRead (dl : Dev) (m pl a : Nat) (d : Dev) : Word × Dev :=
  if a = Reg.PAS_CYCLE then noteRead m 2 (drawCycle d)
  else if a = Reg.HOP_SW_DRAW then (if isH m ∨ isF m then noteRead m 1 (swDrawRead m d) else (0, d))
  else if a = Reg.HOP_RAW_DATA then let e := rawBusRead m d; (tabGet 0 e.rdata m, e)
  else match pmuWord a with
  | some (g, k) =>
    if (pl = 2 ∧ ¬ bit (rg d (pmuReg g 1)) 0) ∨ isFieldMaster m ≠ isF g then (0, d)
    else if k = 0x32 then noteRead m 3 (sampleData g d)
    else noteRead m 3 (pairRead m a (fun b d => pmuRead g (b % 256) d) d)
  | none => pairRead m a (fun b d => (regPeek dl d m b, d)) d
where
  /-- The reference cycle within the pass, a free value below 5,000 (log entry 4). -/
  drawCycle (d : Dev) : Word × Dev := let x := drawWord d; (wd (x.1.toNat % 5000), x.2)

/-- Table 3.2, R7, R62: the register word a function sees at an octet offset of its BAR0; none where the offset reads zero and ignores writes. The
PF sees the words of the WHF block, a VF the groups of its own rings. -/
def barWord (d : Dev) (f off : Nat) : Option Nat :=
  if ¬ fnPresent d f ∨ off % 8 ≠ 0 then none
  else if f = 0 then (if off < 0x20000 then some (0x0A0000 + off / 8) else none)
  else if off < 0x10000 ∧ ringFn d (off / 64) = f then some (0x0A2000 + off / 8) else none

/-- A read of the 64-bit slot at an octet offset of a function's BAR0: bits 63:36 are zero, as is all that is no register word, doorbell pages among
it (R7, R62, R68). -/
def barRead (dl : Dev) (f off : Nat) (d : Dev) : Word × Dev :=
  match barWord d f off with
  | some a => regRead dl (0x40 + f) 0 a d
  | none => (0, d)

/-- LATCHED_LO_READ: a read of a LO word by a master; of a host function, a read of its BAR0. A reserved identity is refused (R21). -/
def latchedLoRead (dl : Dev) (m a : Nat) (d : Dev) : Dev :=
  if isFn m then let r := barRead dl (m - 0x40) a d; rdSet r.2 m r.1
  else if (hiOf a).isSome then fromMaster m (0xF00000000 + a) (fun d => let r := regRead dl m 0 a d; rdSet r.2 m r.1) d
  else d

/-! ### Writes -/

/-- A write to a word with no behaviour of its own: its writable fields take the value, W1C bits written 1 clear; what is written to RO and
reserved fields is dropped (R5, R6). -/
def plainWrite (r : RegRow) (m a : Nat) (v : Word) (d : Dev) : Dev :=
  if r.pm then pvSet d m a (v &&& wd r.rw)
  else
    let a := if r.isl = 2 then isl m a else a
    let d := if r.rw = 0 then d else rgSet d a ((rg d a &&& ~~~(wd r.rw)) ||| (v &&& wd r.rw))
    if r.w1c = 0 then d else rgSet d a (rg d a &&& ~~~(v &&& wd r.w1c))

/-- The first write of a PIN word since the reset that reaches K sets it; later ones are dropped. -/
def pinWrite (r : RegRow) (a : Nat) (v : Word) (d : Dev) : Dev :=
  if tabGet false d.pinned a then d else { rgSet d a (v &&& wd r.pin) with pinned := tabSet false d.pinned a true }

/-- A firmware queue's SIZE is written: the queue starts empty. -/
def fqSize (a headReg : Nat) (v : Word) (d : Dev) : Dev := rgSet (rgSet (rgSet d a (wd (fld v 4 0))) (a + 1) 0) headReg 0

/-- A write to a word of the MPU block other than a region word. -/
def mpuStatusWrite (m a : Nat) (v : Word) (d : Dev) : Dev :=
  let k := a % 256
  if a % 65536 < 256 then
    (match regRow a with
     | some r => if r.chm = 0 then plainWrite r m a v d else if isFieldMaster m then d else chmWrite m a v d
     | none => d)
  else if isFieldMaster m ≠ isFieldMaster (a % 65536 / 256) then d
  else if k = 0xF0 then rgSet d a (rg d a &&& ~~~(v &&& wd (2 ^ 6)))
  else if k = 0xF2 then rgSet d a (rg d a &&& ~~~(v &&& wd (2 ^ 35)))
  else d

/-- A write to an MPU region word: a core's regions are live registers, every other master's are CH or PS fields (R351, R353); a region at or above the
master's count is refused by the level step (Table 14.8, rule 5). -/
def mpuWordWrite (m pl a : Nat) (v : Word) (d : Dev) : Dev :=
  match mpuWord a with
  | none => mpuStatusWrite m a v d
  | some (g, _, _) =>
    if regionCount g = 0 then d
    else if isCore g then mpuRegionWrite m pl a v d
    else if isFieldMaster m then d
    else chmWrite m a v d

/-- A write to a word of a ring group by a master (R62, R482). -/
def ringGroupWrite (m a : Nat) (v : Word) (d : Dev) : Dev :=
  let r := (a % 65536 - 0x2000) / 8
  let k := a % 8
  if k = 5 then chmWrite m a v d
  else if ¬ ringWritable d m r then d
  else if k < 4 then writeRingBase d a r (v &&& (if k % 2 = 0 then wd 0xFFFFFF000 else wd 0xFFFFFFF))
  else if k = 4 then writeRingSize d r (fld v 4 0)
  else if k = 6 then rgSet d a (v &&& wd 0xFFFFFF7FF)
  else rgSet d a (rg d a &&& ~~~(v &&& wd 0x60000))

/-- A CHM_CMD write. -/
def chmCmdWrite (m : Nat) (v : Word) (d : Dev) : Dev := (chmCommand (fld v 2 0) m (chmOpenAt d) d).1

/-- Writes of the command and control words of the host island's blocks; none where the word has no behaviour of its own. -/
def hostCtlWrite (m pl a : Nat) (v : Word) (d : Dev) : Option Dev :=
  let act := fld v 2 0
  let arr := fun b n s => arrIdx a b n s
  if a = Reg.RST_CMD then some (rstCmd m v d)
  else if a = Reg.RST_GO then some (rstGo m (fld v 3 0) d)
  else if a = Reg.RST_CORE_GO then some (coreGo m (fld v 7 0) d)
  else if a = Reg.RST_FUSE_PROG then some (fuseProg m v d)
  else if a = Reg.RST_STOP_CLR then some (stopClr m v d)
  else if inWords a Reg.RST_HENTRY 8 then some (if m = 1 then rgSet d a v else d)
  else if inWords a Reg.RST_WDG_CTL 36 then
    let i := (a - Reg.RST_WDG_CTL) / 4
    let core := if isFieldMaster m then (if i < 4 then 0x20 + i else 0) else if i = 8 then 1 else 0x10 + i
    some (if (a - Reg.RST_WDG_CTL) % 4 = 0 then wdgCtlWrite m pl core v d else if (a - Reg.RST_WDG_CTL) % 4 = 1 then wdgKick m core d else d)
  else if a = Reg.PWR_MONC_INC then some (moncWrite m pl (fld v 3 0) d)
  else if a = Reg.PAS_PART_REQ then some (partReq m pl (fld v 3 0) (fld v 9 4) (fld v 13 12) (fld v 17 14) d)
  else if a = Reg.CHM_CMD then some (chmCmdWrite m v d)
  else if a = Reg.LCS_CMD then some (lcsCmd m act d)
  else if a = Reg.MBX_SEND then some (mbxSend m (fld v 5 0) d)
  else if a = Reg.MBX_ACK then some (mbxAck m (fld v 5 0) (fld v 21 6) d)
  else if a = Reg.KSL_CMD then some (kslCmd m pl act d)
  else if a = Reg.ILS_CMD then some (ilsCmd m pl act d)
  else if a = Reg.GRD_CMD then some (grdCmd m pl act d)
  else if a = Reg.CRG_CMD then some (crgCmd m pl act d)
  else if a = Reg.FLS_CMD then some (flsCmd m pl act d)
  else if a = Reg.SDH_CMD then some (sdhCmd m pl act d)
  else if a = Reg.OFC_CMD then some (ofcCmd m pl act (fld v 3 3) d)
  else if a = Reg.HOP_RETEST then some (hopRetest m (fld v 3 0) d)
  else if a = Reg.HOP_RAW_CTL then some (rawCtlWrite m v d)
  else if a = Reg.FLS_XIP_CTL then some (xipWrite m pl v d)
  else if a = Reg.PMU_BW_CLEAR then some (if bit v 0 then bwClear d else d)
  else if a = Reg.GRD_MIN_VERSION then (match regRow a with | some r => some (pinWrite r a v d) | none => some d)
  else if a = Reg.DBG_ADDR ∨ a = Reg.DBG_DATA ∨ a = Reg.DBG_CORE then some d
  else match arr Reg.CLN_FWQ_TAIL 9 4 with
  | some q => some (clnDoorbell q pl v d)
  | none => match arr Reg.CLN_FWQ_SIZE 9 4 with
  | some q => some (fqSize a (Reg.CLN_FWQ_HEAD + 4 * q) v d)
  | none => match arr Reg.GRD_FWQ_TAIL 9 4 with
  | some q => some (grdDoorbell q pl v d)
  | none => match arr Reg.GRD_FWQ_SIZE 9 4 with
  | some q => some (fqSize a (Reg.GRD_FWQ_HEAD + q) v d)
  | none => match arr Reg.GRD_FWQ_CANCEL 9 4 with
  | some q => some (grdCancel q v d)
  | none => match arr Reg.ILS_UQ_TX_TAIL 4 32 with
  | some k => some (uqTxTail k v d)
  | none => match arr Reg.ILS_UQ_RX_HEAD 4 32 with
  | some k => some (uqRxHead k v d)
  | none => match arr Reg.ILS_UQ_TX_SIZE 4 32 with
  | some k => some (rgSet (rgSet (rgSet d a (wd (fld v 4 0))) (Reg.ILS_UQ_TX_TAIL + 32 * k) 0) (Reg.ILS_UQ_TX_HEAD + 32 * k) 0)
  | none => match arr Reg.ILS_UQ_RX_SIZE 4 32 with
  | some k => some (rgSet (rgSet (rgSet d a (wd (fld v 4 0))) (Reg.ILS_UQ_RX_HEAD + 32 * k) 0) (Reg.ILS_UQ_RX_TAIL + 32 * k) 0)
  | none => none

/-- The same for the Lockgate's ring groups, one end each. -/
def lkgCtlWrite (m a : Nat) (v : Word) (d : Dev) : Option Dev :=
  let core := fun i => if isFieldMaster m then 0x20 + i % 4 else 0x10 + i
  let n := if isFieldMaster m then 4 else 8
  match arrIdx a Reg.LKG_RXQ_SIZE n 4 with
  | some i => some (lkgSizeWrite (core i) Reg.LKG_RXQ_BASE v d)
  | none => match arrIdx a Reg.LKG_RXQ_HEAD n 4 with
  | some i => some (rxqHeadWrite (core i) v d)
  | none => match arrIdx a Reg.LKG_TXQ_SIZE n 4 with
  | some i => some (lkgSizeWrite (core i) Reg.LKG_TXQ_BASE v d)
  | none => match arrIdx a Reg.LKG_TXQ_TAIL n 4 with
  | some i => some (txqTailWrite (core i) v d)
  | none => none

/-- The same for the field island's blocks; a write of a CH field by a field core is dropped (R245). -/
def fieldCtlWrite (m a : Nat) (v : Word) (d : Dev) : Option Dev :=
  let o := a % 65536
  if a = Reg.FLD_REQ then some (fldReqWrite m v d)
  else if a = Reg.TAG_CMD then some (tagCmd m (fld v 2 0) (fld v 9 3) (fld v 17 10) d)
  else if a >>> 16 = 0x23 ∧ 0x400 ≤ o ∧ o < 0xC00 then
    some (frameWrite m ((o - 0x400) / 64) ((o - 0x400) / 8 % 8) a (decide (4 ≤ o % 8)) v d)
  else if a >>> 16 = 0x23 ∧ 0x8000 ≤ o then
    some (frameWrite m ((o - 0x8000) / 1024) ((o - 0x8000) / 128 % 8) a (decide (64 ≤ o % 128)) v d)
  else match arrIdx a Reg.FLD_EVQ_SIZE 4 4 with
  | some c => some (evqSize c v d)
  | none => match arrIdx a Reg.FLD_EVQ_HEAD 4 4 with
  | some c => some (evqHeadWrite c v d)
  | none => match arrIdx a Reg.APT_CLEAR 256 8 with
  | some p => some (aptClear m p v d)
  | none => match arrIdx a Reg.CHN_FQ_TAIL 32 16 with
  | some n => some (fqTailWrite m n v d)
  | none => match arrIdx a Reg.CHN_EMU_CTL 32 16 with
  | some n => some (emuCtlWrite n v d)
  | none => none

/-- A write of a register word by a master (R5, R6, R47). The word is bits 23:0 of the word address. -/
def busWrite (m pl a : Nat) (v : Word) (d : Dev) : Dev :=
  let b := a >>> 16
  if isFieldMaster m ∧ ¬ fieldHasWord a then d
  else if b = 0x07 then mpuWordWrite m pl a v d
  else if b = 0x18 ∧ 256 ≤ a % 65536 then (if isFieldMaster m = isF (a % 65536 / 256) then pmuWrite m pl a v d else d)
  else if b = 0x0A ∧ 0x2000 ≤ a % 65536 then (if a % 65536 < 0x4000 then ringGroupWrite m a v d else d)
  else match regRow a with
  | none => d
  | some r =>
    if r.chm ≠ 0 then (if isFieldMaster m then d else chmWrite m a v d)
    else if 0x20 ≤ b ∧ b ≤ 0x24 then
      if isFieldMaster m then (match fieldCtlWrite m a v d with | some d => d | none => plainWrite r m a v d) else d
    else match (if b = 0x09 then lkgCtlWrite m a v d else hostCtlWrite m pl a v d) with
    | some d => d
    | none => plainWrite r m a v d

/-- Offset of the first doorbell page in a function's BAR0 (Table 3.2). -/
def barPages (f : Nat) : Nat := if f = 0 then 0x100000 else 0x10000

/-- A 64-bit write at an octet offset of a function's BAR0: to a register word, of which bits 63:36 are ignored, or to a doorbell page (R7, R62, R68,
R482). -/
def barWrite (f off v : Nat) (d : Dev) : Dev :=
  match barWord d f off with
  | some a => busWrite (0x40 + f) 0 a (wd (v % 2 ^ 36)) d
  | none =>
    if barPages f ≤ off ∧ off < barPages f + 0x10000 then
      let o := off - barPages f
      doorbell (decide (o % 64 ≠ 8)) f (o / 64) (o % 64) 8 v d
    else d

/-- REGISTER_WRITE, of a register word or of a host function's BAR0. -/
def registerWrite (m pl a v : Nat) (d : Dev) : Dev :=
  if isFn m then barWrite (m - 0x40) a v d
  else fromMaster m (0xF00000000 + a % 2 ^ 24) (busWrite m pl (a % 2 ^ 24) (wd (v % 2 ^ 36))) d

/-- Does a master's window reach the register word? A host function reaches the words of its BAR0 alone (Table 3.2, R62). -/
def reachesWord (d : Dev) (m a : Nat) : Bool :=
  if isFn m then barWord d (m - 0x40) (if m = 0x40 then (a - 0x0A0000) * 8 else (a - 0x0A2000) * 8) = some a else !isFieldMaster m

/-- CHAMBER_FIELD_WRITE: a write to a word with CH or PS fields; that of a core's MPU region is the way a protected change of it goes (R353). A field
core's is dropped (R245). -/
def chamberFieldWrite (m a : Nat) (v : Word) (d : Dev) : Dev :=
  let a := a % 2 ^ 24
  if ¬ reachesWord d m a then d
  else fromMaster m (0xF00000000 + a) (fun d =>
    match mpuWord a with
    | some (g, _, _) => if regionCount g = 0 then d else chmWrite m a v d
    | none => match regRow a with
      | some r => if r.chm ≠ 0 then chmWrite m a v d else d
      | none => d) d

/-- A chamber command of a master: a write of CHM_CMD. No host function's window holds that word, nor has the field island the block. -/
def chamberCommand (m action : Nat) (d : Dev) : Dev :=
  if isFn m ∨ isFieldMaster m then d else fromMaster m (0xF00000000 + Reg.CHM_CMD) (chmCmdWrite m (wd action)) d

end Sys2Proof.Machine
end

