-- ==== Sys2Proof/Machine/Admit.lean ====
section
/-! DEFINITION. Step 7 of an edge: queued work is offered and admitted within the refilled budgets (R34 to R37, R65 to R67), and the MGMT
operations that complete in the pass of their admission (R76, R77, R483). -/

namespace Sys2Proof.Machine

/-! ### Sources (R66, R115, R153) -/

/-- A source of work: each ring, each firmware queue, the field island's crypto requests and its credential queries. -/
inductive Source where
  | ring (r : Nat)
  | fwq (q : Nat)
  | gq (q : Nat)
  | field
  | query
  deriving DecidableEq, Repr

/-- Does an operation come from the source? -/
def ofSource (s : Source) (o : Op) : Bool :=
  match s, o.src with
  | .ring r, .ring r' _ => decide (r = r')
  | .fwq q, .fwq q' _ => decide (q = q')
  | .gq q, .gq q' _ => decide (q = q')
  | .gq q, .ofc _ => decide (q = 8)
  | .field, .barge _ _ _ => decide (o.opcode ≠ 0x40)
  | .query, .barge _ _ _ => decide (o.opcode = 0x40)
  | _, _ => false

/-- The oldest operation of a source that is not yet admitted. -/
def sourceHead (d : Dev) (s : Source) : Option Op :=
  d.ops.find? (fun o => ofSource s o && (decide (o.phase = .fetched) || decide (o.phase = .staged)))

/-- R67, R71: may the source's oldest operation be offered at this edge? -/
def eligible (d : Dev) (o : Op) : Bool :=
  decide (o.phase = .staged) && decide (o.eligAt ≤ d.pas.count) &&
    (match o.src with
     | .ring r _ => !o.barrier || decide ((ringOps d r).head?.map (·.id) = some o.id)
     | _ => true)

/-- R66, R115, R153: the phases in which sources are offered, each in turns until every source of it is passed over: express rings by number, K's
Grinder queue, then the Wharf's other rings beside the firmware queues and the field. The GRIND rings as one source take their place among the host
cores' Grinder queues in rotation, the rings of the other classes among the cipher firmware queues and the field (R37). -/
def sourceOrder (d : Dev) : List (List Source) :=
  let rings := (List.range 1024).filter (fun r => (sourceHead d (.ring r)).isSome)
  let express := rings.filter (fun r => ringExpress d r)
  let others := (rotation 1024 d.pas.count).filter (fun r => decide (r ∈ rings) && !ringExpress d r)
  let grind := others.filter (fun r => decide (ringClass d r = 2))
  let lanes : List (List Source) := [(others.filter (fun r => decide (ringClass d r ≠ 2))).map .ring, (rotation 9 d.pas.count).map .fwq, [.field, .query]]
  [express.map .ring, [.gq 8],
   (rotation 9 d.pas.count).flatMap (fun i => if i = 8 then grind.map .ring else [.gq i]) ++ (rotation 3 d.pas.count).flatMap (fun i => lanes.getD i [])]

/-! ### MGMT operations that complete in their pass -/

/-- The operation completes DONE in this pass with a RESULT. -/
def mgmtDone (d : Dev) (o : Op) (result : Nat) : Dev :=
  deliver d { o with status := St.done, sub := 0, result := result, admitAt := d.pas.count } d.pas.count d.pas.count

/-- One entry of a CHAMBER_WRITE list: register word and value. -/
def chamberEntry (x : Octets) : Nat × Nat := (leAt x 0 8, leAt x 8 8)

/-- Is the entry one that R76 refuses: not a CH or PS word, or a non-zero bit above bit 35? -/
def chamberEntryBad (e : Nat × Nat) : Bool :=
  decide (2 ^ 36 ≤ e.1) || decide (2 ^ 36 ≤ e.2) || decide (e.1 / 2 ^ 24 ≠ 0xF00) || decide (chmMask (e.1 % 2 ^ 24) = 0) ||
    (match mpuWord (e.1 % 2 ^ 24) with | some (g, _, _) => decide (regionCount g = 0) | none => false)

/-- CHAMBER_WRITE (R76): all of its entries or none. -/
def chamberWriteOp (d : Dev) (o : Op) : Dev :=
  let es := (chunks 16 o.input).map chamberEntry
  if ¬ chmMayWrite d 0x40 then rejectOp (chmForeign d) o (St.denied, 0x10)
  else mgmtDone (es.foldl (fun d e => chmWrite 0x40 (e.1 % 2 ^ 24) (wd e.2) d) d) o 0

/-- CHAMBER_CMD and CHAMBER_CLAIM (R76). -/
def chamberCmdOp (d : Dev) (o : Op) : Dev :=
  let act := if o.opcode = 0x50 then 1 else o.f 8 1
  let target := o.f 16 8
  let past := decide (act = 4) && decide (d.chm.owner = 0x40) && decide (d.chm.state = .levelled) && decide (target ≤ d.pas.count)
  let r := chmCommand act 0x40 target d
  if past then rejectOp r.1 o (St.denied, 0x11)
  else if r.2 then mgmtDone r.1 o 0 else rejectOp r.1 o (St.denied, 0x10)

/-- APPROVAL (R53, R55): every check but the signature at its admission; a failure of the token is an event of source 34. -/
def approvalOp (d : Dev) (o : Op) : Dev :=
  let t := o.input
  match tokenFail d ((tabGet [] d.life.roster (tokRoster t)).isEmpty) t with
  | some sub =>
    let d := rejectOp d o (St.denied, sub)
    if sub ≤ 3 then tmpEvent 34 d else d
  | none => admitPlain d o 8

/-- APPROVAL_VERIFIED: the signature check ends; a token that passes waits for its acceptance edge. -/
def approvalVerified (id : Nat) (d : Dev) : Dev :=
  match findOp d id with
  | none => d
  | some o =>
    let t := o.input
    if o.phase ≠ .admitted ∨ o.opcode ≠ 0x53 ∨ d.chm.waiting.any (fun p => decide (p.op = some id)) then d
    else if cardSigned (tabGet [] d.life.roster (tokRoster t)) (t.take 80) (slice t 80 64) then
      { d with chm := { d.chm with waiting := d.chm.waiting ++
          [{ op := some id, iface := none, roster := tokRoster t, seq := tokSeq t, digest := slice t 32 48, pass := d.pas.count }] } }
    else tmpEvent 34 (endWith d o St.denied 0x01 d.pas.count d.pas.count)

/-- PARTITION (R483). -/
def partitionOp (d : Dev) (o : Op) : Dev :=
  let q := o.f 8 4
  let kind := nfld q 3 0
  let idx := nfld q 9 4
  let act := nfld q 13 12
  if partRefused d 0x40 kind idx act 0 then rejectOp d o (St.denied, 0x20)
  else mgmtDone (partAccept kind idx act 0 d) o 0

/-- CANCEL_RING (R75): it acts, and completes, at the next edge, on operations fetched before this admission. -/
def cancelOp (d : Dev) (o : Op) : Dev := admitPlain d { o with aux := [o.f 8 2, d.opSeq] } 1

/-- Cancels admitted before an edge take effect at it. -/
def cancelDue (d : Dev) : Dev :=
  (d.ops.filter (fun o => decide (o.opcode = 0x58) && decide (o.phase = .admitted) && decide (o.admitAt < d.pas.count))).foldl
    (fun d c =>
      let d := cancelOps d (fun o => decide (o.ring? = some (c.aux.getD 0 0)) && decide (o.id < c.aux.getD 1 0) && decide (o.id ≠ c.id)) (d.pas.count - 1)
      match findOp d c.id with
      | some o => if o.phase = .admitted then mgmtDone d o 0 else d
      | none => d) d

/-- Is a register word address one that no block of the host island maps (R340)? -/
def regUnmapped (a : Nat) : Bool :=
  (regRow a).isNone && (mpuWord a).isNone && (pmuWord a).isNone &&
    !(decide (a >>> 16 = 0x07) && decide (regionCount (a % 65536 / 256) ≠ 0)) && !(decide (a >>> 16 = 0x08))

/-- REG_READ offered (R77): the select write and the read are checked by the Wharf's MPU in rights column 2. DEDUCED (log entry 75): where the
read is refused or its address unmapped, the select write is not made either. The read itself is made at step 8, when every admission of the edge
is done, so that it shows the device as this pass finds it. -/
def regReadOp (d : Dev) (o : Op) : Dev :=
  let a := o.f 8 4
  let sel := o.f 12 4
  let word := 0xF00000000 + a
  match (if sel = 0 then none else (refusal d 0x40 0x40 2 1 (0xF00000000 + sel)).map (fun t => (3, 0xF00000000 + sel, t))) with
  | some (acc, w, t) => rejectOp (mpuRecord 0x40 0x40 acc w t d) o (St.denied, 0)
  | none => match refusal d 0x40 0x40 2 0 word with
  | some t => rejectOp (mpuRecord 0x40 0x40 2 word t d) o (St.denied, 0)
  | none => if regUnmapped a then rejectOp d o (St.denied, 0) else admitPlain d o 1

/-- The PF reads a register word, its own selection written first. -/
def regReadNow (d : Dev) (id : Nat) : Dev :=
  match findOp d id with
  | none => d
  | some o =>
    if ¬ (o.opcode = 0x59 ∧ o.phase = .admitted ∧ o.ring?.isSome) then d
    else
      let a := o.f 8 4
      let sel := o.f 12 4
      let d := if sel ∈ selectRegs then busWrite 0x40 0 sel (wd (o.f 16 8)) d else d
      let none_ := decide (a = Reg.HOP_SW_DRAW) || decide (a = Reg.HOP_RAW_DATA) ||
        (match pmuWord a with | some (_, k) => decide (k = 0x32) | none => false)
      let r := if none_ then (0, d) else regRead d 0x40 0 a d
      mgmtDone r.2 o r.1.toNat

/-- Step 8: the register reads admitted at this edge. -/
def regReads (d : Dev) : Dev := (d.ops.map (·.id)).foldl regReadNow d

/-! ### Offers -/

/-- Conditions of the engine that a ring operation meets, beside those of its descriptor. -/
def engineFails (d : Dev) (o : Op) : List (Option Fail) :=
  if o.isCipher ∨ o.isHash then [laneKeyFail d o]
  else if o.opcode = 0x30 then jobFails d o
  else if o.opcode = 0x40 then lookupFails d o
  else if o.opcode = 0x41 then [stageFailOf d (chunks 64 o.input)]
  else if o.opcode = 0x42 then (if d.crg.commit.isSome ∧ o.ctx = 0x40 then [] else commitFails d o)
  else if o.opcode = 0x51 then [failIf (((chunks 16 o.input).map chamberEntry).any chamberEntryBad) St.badDesc 0x01]
  else if o.opcode = 0x53 then [failIf (tokBad o.input) St.badDesc 0]
  else if o.opcode = 0x54 then importFails d o.ctx (o.f 8 2) (o.f 12 4) o.input
  else if o.opcode = 0x55 then exportFails d o.ctx (o.f 8 2) (o.f 10 1) (o.f 12 4)
  else if o.opcode = 0x56 then eraseFails d o.ctx (o.f 8 2)
  else if o.opcode = 0x58 then [failIf (decide (o.ctx ≠ 0x40) && decide (0x40 + ringFn d (o.f 8 2) ≠ o.ctx)) St.denied 0]
  else if o.opcode = 0x5A then unlockFails o
  else if o.opcode = 0x60 then sealFails d o
  else []

/-- The checks of an OPEN come after those of R12, in an order of their own (R214). -/
def lastFail (d : Dev) (o : Op) : Option Fail := if o.opcode = 0x61 then openEnvFail d o o.input else none

/-- R12, R485: the condition a ring's operation ends with before execution, whichever block finds it. Where what the descriptor alone holds
already gives BAD_DESCRIPTOR or LENGTH_ERROR, no input was staged; what a SEAL meets needs none. -/
def ringFail (d : Dev) (r : Nat) (o : Op) : Option Fail :=
  let st := wharfStatic d r o ++ bodyStatic o
  match (firstFail st).filter (fun f => decide (f.1 ≠ St.denied)) with
  | some f => if o.opcode = 0x60 then firstFail (st ++ engineFails d o) else some f
  | none => (firstFail (st ++ engineFails d o)).or (lastFail d o)

/-- A ring's operation ends with the condition; a failed OPEN is counted (R214). -/
def ringReject (d : Dev) (o : Op) (f : Fail) : Dev := rejectOp (if o.opcode = 0x61 then rgAdd d Reg.BSN_REJECTS 1 else d) o f

/-- R65: cost of a ring operation against its class budget, and of its first part. -/
def ringCost (o : Op) : Nat :=
  if o.isCipher ∨ o.isHash then min 65536 (srcOctets o)
  else if o.opcode ∈ [0x60, 0x61] then min 65536 o.envLen
  else 1

/-- The plaintext a decryption makes. -/
def plainOf (o : Op) : Octets :=
  (cipherRun o.mode o.opcode o.material (o.iv.take o.ivLen) (o.input.take o.aadLen) (slice o.input o.aadLen o.payLen) o.tagLen).1

/-- A continuing part offered: with it, its plaintext is on its way. -/
def partAdmit (d : Dev) (o : Op) : Dev :=
  let d := laneContinue d o
  match findOp d o.id with
  | some x => if x.parts < o.parts then earlyPlain plainOf d x (partCount (srcOctets x) - x.parts) else d
  | none => d

/-- An operation that passed its lane's checks is admitted to the lane: the key use is counted; a refused IV draw ends it. -/
def admitLane (d : Dev) (o : Op) : Option Dev :=
  match laneAdmit d o with
  | none => none
  | some (d, o) =>
    let keyed := decide (o.opcode ≠ 0x20)
    let used := fun d => if keyed then countUse d o.keySlot (d.pas.count - 1) else d
    let o := { o with quant := (match o.src with | .barge _ _ _ => false | _ => rqOn (rqClass o.opcode false) o.rqMode),
                      key := if keyed then some (slotGet d o.keySlot) else none }
    match o.failed with
    | some f => some (endWith (setOp (used d) o) o f.1 f.2 d.pas.count (d.pas.count - 1))
    | none => some (earlyPlain plainOf (setOp (used d) o) o 1)

/-- The MGMT, CRED and ENVELOPE operations. None while the operation stays queued. -/
def admitOther (d : Dev) (o : Op) : Option Dev :=
  let still := fun (e : Dev) => match findOp e o.id with | some x => if x.phase = .staged then none else some e | none => some e
  if o.opcode = 0x40 then (lookupAdmit d o).map (fun r => setOp r.1 r.2)
  else if o.opcode ∈ [0x60, 0x61] then (envAdmit d o).map (fun r => setOp r.1 r.2)
  else if o.opcode = 0x41 then still (stageAdmit d o)
  else if o.opcode = 0x42 then still (commitAdmit d o)
  else if o.opcode = 0x51 then some (chamberWriteOp d o)
  else if o.opcode = 0x50 ∨ o.opcode = 0x52 then some (chamberCmdOp d o)
  else if o.opcode = 0x53 then some (approvalOp d o)
  else if o.opcode = 0x54 then still (importAdmit d o)
  else if o.opcode = 0x55 then still (exportAdmit d o)
  else if o.opcode = 0x56 then still (eraseAdmit d o)
  else if o.opcode = 0x57 then some (partitionOp d o)
  else if o.opcode = 0x58 then some (cancelOp d o)
  else if o.opcode = 0x59 then some (regReadOp d o)
  else some (admitPlain d o 41)

/-- Was the operation admitted (or done), not ended by a failing check? One whose IV draw was refused had been admitted (R66, R186). -/
def wasAdmitted (d : Dev) (id : Nat) : Bool :=
  match findOp d id with
  | some o => decide (o.phase = .admitted) || decide (o.phase = .held) || decide (o.status = St.done) || decide (o.status = St.entropy)
  | none => true

/-- A ring's oldest operation offered (R66): a failing check ends it; else its class budget and its engine must cover it. -/
def offerRing (d : Dev) (r : Nat) (o : Op) : Option Dev :=
  match ringFail d r o with
  | some f => some (ringReject d o f)
  | none =>
    let a := Reg.WHF_CLASS_BUDGET + ringClass d r
    if budgetLeft d a < ringCost o then none
    else
      let e := if o.isCipher ∨ o.isHash then admitLane d o
        else if o.opcode = 0x30 then (if budgetLeft d (jobBudget o) < 1 then none else (jobAdmit d o).map (fun x => setOp x.1 x.2))
        else admitOther d o
      e.map (fun d => if wasAdmitted d o.id then debit d a (ringCost o) else d)

/-- A cipher and hash firmware queue's oldest operation offered. -/
def offerFwq (d : Dev) (o : Op) : Option Dev :=
  let mpu := fwMpuFail d o (fwStatic o) (fwBuffers o)
  match firstFail (failIf mpu.isSome St.denied 0 :: fwStatic o ++ [laneKeyFail d o]) with
  | some f => some (fwReject d o mpu f)
  | none => if resultFits d o then admitLane d { o with input := fwInput d o } else none

/-- A Grinder firmware queue's oldest operation offered (R149, R153); K's signature checks name no buffers. -/
def offerGq (d : Dev) (o : Op) : Option Dev :=
  match o.src with
  | .ofc _ =>
    (match firstFail (jobFails d o) with
     | some f => some (rejectOp d o f)
     | none => if budgetLeft d (jobBudget o) < 1 then none else (jobAdmit d o).map (fun x => setOp x.1 x.2))
  | _ =>
  let o := { o with input := gqInput d o }
  let pre := gqStatic o
  let mpu := fwMpuFail d o pre (gqBuffers o)
  match firstFail (failIf mpu.isSome St.denied 0 :: pre ++ (if o.opcode = 0x30 then jobFails d o else [])) with
  | some f => some (fwReject d o mpu f)
  | none => if budgetLeft d (jobBudget o) < 1 ∨ ¬ resultFits d o then none else (jobAdmit d o).map (fun x => setOp x.1 x.2)

/-- A field request offered. -/
def offerField (d : Dev) (o : Op) : Option Dev :=
  match firstFail (if o.opcode = 0x40 then lookupFails d o else fieldStatic o ++ [laneKeyFail d o]) with
  | some f => some (rejectOp d o f)
  | none => if o.opcode = 0x40 then admitOther d o else admitLane d o

/-- The source's oldest operation offered once: none where it stays queued. -/
def offer (d : Dev) (s : Source) : Option Dev :=
  match sourceHead d s with
  | none => none
  | some o =>
    if ¬ eligible d o then none
    else match s with
    | .ring r => offerRing d r o
    | .fwq _ => offerFwq d o
    | .gq _ => offerGq d o
    | _ => offerField d o

/-- One turn over the sources that are not passed over: the device, and the sources that stay in the rotation. -/
def offerTurn (d : Dev) (ss : List Source) : Dev × List Source :=
  ss.foldl (fun a s => match offer a.1 s with | some d => (d, a.2 ++ [s]) | none => a) (d, [])

/-- Turns until every source is passed over. -/
def offerTurns : Nat → List Source → Dev → Dev
  | 0, _, d => d
  | f + 1, ss, d =>
    let r := offerTurn d ss
    if r.2.isEmpty then r.1 else offerTurns f r.2 r.1

/-! ### Commands -/

/-- A key, inline, Grinder or credential command offered. -/
def offerCmd (d : Dev) (o : Op) : Dev :=
  if o.opcode = 0x81 then importAdmit d o
  else if o.opcode = 0x82 then exportAdmit d o
  else if o.opcode = 0x83 then eraseAdmit d o
  else if o.opcode = 0x84 ∨ o.opcode = 0x85 then childAdmit d o
  else if o.opcode = 0x91 then loadSakAdmit d o
  else if o.opcode = 0x92 then clearKeyAdmit d o
  else if o.opcode = 0xA1 then loadImageAdmit d o
  else if o.opcode = 0xB1 then stageAdmit d o
  else if o.opcode = 0xB2 then commitAdmit d o
  else if o.opcode = 0xB3 then discardAdmit d o
  else d

/-- R80: a command whose result is secret-dependent takes a context entry, and stays queued while none is free. -/
def cmdEntry (d : Dev) (o : Op) : Bool := decide (o.opcode ∉ [0x81, 0x82, 0x84, 0x85, 0x91]) || decide (inFlight d < maxOps)

def offerCmds (d : Dev) : Dev :=
  (d.ops.filter (fun o => decide (o.phase = .staged) && decide (o.eligAt ≤ d.pas.count) &&
    (match o.src with | .cmd _ _ => decide (o.opcode < 0xC0) | _ => false))).foldl
    (fun d o => if cmdEntry d o then offerCmd d o else d) d

/-- R80: work that waits for a context entry takes one as entries free: firmware queues, then requests of the field island. -/
def takeEntries (d : Dev) : Dev :=
  let d := (List.range 9).foldl (fun d q => fqResume (fun p => .fwq q p) (Reg.CLN_FWQ_BASE + 4 * q) (Reg.CLN_FWQ_HEAD + 4 * q) (fqCore q) d) d
  let d := (List.range 9).foldl (fun d q => fqResume (fun p => .gq q p) (Reg.GRD_FWQ_BASE + 4 * q) (Reg.GRD_FWQ_HEAD + q) (fqCore q) d) d
  d.waitq.foldl requestEntry { d with waitq := [] }

/-- Step 7: continuing parts first, then commands, then the sources in turns, then the blocks that take commands of their own. -/
def admitStep (d : Dev) : Dev :=
  let d := (d.ops.filter (fun o => decide (o.parts ≠ 0) && decide (o.phase = .admitted) && decide (o.admitAt < d.pas.count))).foldl
    (fun d o => match findOp d o.id with | some x => partAdmit d x | none => d) d
  let d := offerCmds (takeEntries d)
  let d := (sourceOrder d).foldl (fun d ss => offerTurns (d.ops.length + 1) ss d) d
  ofcStep (sdhStep (cardFragments (rn d Reg.RPL_CARD_BUDGET) (flsStep (lcsStep d))))

end Sys2Proof.Machine
end

