-- ==== Sys2Proof/Machine/Edge.lean ====
section
/-! DEFINITION. The pass edge on the host island and on the field island, step by step (R28 to R33, R38 to R46, R233): PASS_EDGE and FIELD_EDGE. -/

namespace Sys2Proof.Machine

/-! ### Presentation (R43 to R46, R317, R327, step 8) -/

/-- Is the core one that is presented with inputs: it runs, has not stopped and is not replayed? -/
def presents (d : Dev) (m : Nat) : Bool :=
  let c := coreGet d m
  c.run && decide (c.stopped = 0) && !benchHeld d m

/-- Order of presentation: the pass of arrival, then class and key (R46); equal ones keep their order of arrival. A mailbox sender's result (R294, R295),
which R46 gives no place, comes in class 3 after every arrival, with key 64 + channel. DESIGN CHOICE (log entry 75). -/
def inputKey (i : Input) : Nat := i.pass * 2 ^ 40 + i.cls * 2 ^ 32 + i.key

/-- Inputs of a core that may be presented at this edge. -/
def inputsDue (d : Dev) (m : Nat) : List Input :=
  sortBy inputKey (d.pas.inq.filter (fun i => decide (i.core = m) && decide (i.pass < d.pas.count)))

/-- A waiting WAITPASS completes once the core has been presented with its inputs: Gd takes PAS_COUNT_LO and the instruction retires. -/
def passResume (d : Dev) (m : Nat) : Dev :=
  let c := coreGet d m
  match c.waiting with
  | none => d
  | some g =>
    if ¬ presents d m then d
    else
      let lo := loWord d.pas.count
      pmuRetire m (fld c.sw 1 0) [] (coreSet d m { c with waiting := none, progress := c.progress + 1, g := if g = 0 then c.g else tabSet 0 c.g g lo })

/-- A core stop record presented to K: a message of channel 56 + n of host core n, or a CORE_STOP barge; the stopped core. -/
def stopOf (i : Input) : Option Nat :=
  if i.cls = 3 ∧ 56 ≤ i.key ∧ i.key < 64 then some (0x10 + (i.key - 56))
  else if i.cls = 2 ∧ i.data.headD 0 = 0x11 then some (i.data.getD 1 0 % 256)
  else none

/-- R79: an answer barge presented to a field core frees its request's entry. -/
def answerSeen (d : Dev) (i : Input) : Dev :=
  if i.cls = 2 then answered d (bargeOf true i.key (i.data.map wd)) else d

/-- Presentation to one core: at most 1,024 inputs; INPUT, EDGE and what else is due become pending. -/
def presentCore (d : Dev) (m : Nat) : Dev :=
  if ¬ presents d m then { d with pas := { d.pas with seen := d.pas.seen.filter (fun i => decide (i.core ≠ m)) } }
  else
    let due := inputsDue d m
    let now := due.take 1024
    let rest := due.drop 1024 ++ d.pas.inq.filter (fun i => !(decide (i.core = m) && decide (i.pass < d.pas.count)))
    let d := { d with pas := { d.pas with inq := rest, seen := d.pas.seen.filter (fun i => decide (i.core ≠ m)) ++ now } }
    let d := if isF m then now.foldl answerSeen d else d
    let d := if now.isEmpty then d else pendSet m 16 d
    let d := pendSet m 17 d
    let d := if pmuDue d m then pendSet m 20 d else d
    if m = 1 ∧ (now.filterMap stopOf) ≠ [] then pendSet 1 21 d else d

/-- R338: the reset source "core stop" of every core whose record K has just been shown. -/
def stopSources (d : Dev) : Dev :=
  let ms := ((d.pas.seen.filter (fun i => decide (i.core = 1))).filterMap stopOf).filter (fun m => decide ((coreGet d m).stopped ≠ 0))
  ms.foldl (fun d m => sourceAssert (if isF m then 10 else 8) m d) d

/-! ### Steps of the host island's edge (Table 2.2) -/

/-- What is done in the pass that ends, and HOLD's release ahead of step 1. -/
def edgeBefore (d : Dev) : Dev := holdRelease (windowEnd (deltaPrep (levelLast d)))

/-- Step 1: the pass count increments (R29); the Hopper's count of a pass begins, and wipes that have ended leave their units idle. -/
def edgeCount (d : Dev) : Dev :=
  let d := { d with pas := { d.pas with count := d.pas.count + 1, recorded := d.pas.recorded.filter (fun r => isF r.1) } }
  (List.range 16).foldl wipeEdge (hopTick d)

/-- KEY_SLOT_EXPIRY (R98): key slots whose non-zero EXPIRY the pass count has reached become EXPIRED. -/
def slotExpiry (d : Dev) : Dev :=
  { d with slots := d.slots.map (fun e =>
      (e.1, if e.2.expiry ≠ 0 ∧ e.2.expiry ≤ d.pas.count ∧ (e.2.state = 1 ∨ e.2.state = 2) then { e.2 with state := 3 } else e.2)) }

/-- Step 2, and the approvals and sessions that begin at this edge. DESIGN CHOICE (log entry 98): an approval whose time is up expires before a token
verified for the same edge is accepted. -/
def edgeExpire (d : Dev) : Dev := lifeEdge (acceptApprovals (expireApprovals (slotExpiry d)))

/-- Step 3: SAs retired by an earlier open are wiped, the chamber opens, epochs switch. -/
def edgeOpen (d : Dev) : Dev := kekActivate (crgEdge (chamberOpen (retireEdge d)))

/-- RSA_SELF_CHECK_FAILURE (R160): the job of a unit whose self-check failed ends and the unit is fenced. -/
def selfCheckFence (d : Dev) (u : Nat) : Dev :=
  if ¬ (unitGet d u).selfFail then d
  else
    let d := match (unitGet d u).job.bind (findOp d) with
      | some o => endEarly d o St.migrated 0x02 d.pas.count (d.pas.count - 1)
      | none => d
    fenceUnit 3 u 3 d

/-- Grinder queue cancels requested in the pass before (R153). -/
def gqCancel (d : Dev) (q : Nat) : Dev :=
  if rn d (Reg.GRD_FWQ_CANCEL + 4 * q) = 0 then d
  else cancelOps (rgSet d (Reg.GRD_FWQ_CANCEL + 4 * q) 0)
    (fun o => match o.src with | .gq q' _ => decide (q' = q) | _ => false) (d.pas.count - 1)

/-- Step 4: partition requests and cancels take effect. -/
def edgePartition (d : Dev) : Dev :=
  let d := cancelDue (showReported d)
  let d := (List.range 9).foldl gqCancel d
  let d := (List.range 16).foldl selfCheckFence d
  drainEdge (partitionApply d)

/-- Step 5: every budget of the host island is refilled. -/
def edgeRefill (d : Dev) : Dev := { d with lkg := { d.lkg with rot := [] }, spent := d.spent.filter (fun e => fieldKey e.1 && decide (e.1 < 2 ^ 24)) }

/-- Operations that end at this edge with nothing computed: erases, suspends, card reads, refused commands. -/
def dueOp (d : Dev) (id : Nat) : Dev :=
  match findOp d id with
  | none => d
  | some o =>
    let d := appendDue (sdReadDue (flsDue (eraseDue d o) o) o) o
    match findOp d id with
    | none => d
    | some o =>
      match o.phase, o.src with
      | .ended, .cmd _ _ => if o.dueAt ≤ d.pas.count then deliver d o d.pas.count (d.pas.count - 1) else d
      | .ended, .barge _ _ _ => if o.dueAt ≤ d.pas.count then deliver d o d.pas.count (d.pas.count - 1) else d
      | .ended, .fwq q _ => if o.dueAt ≤ d.pas.count then postFqs d.ops.length (0, q) (d.pas.count - 1) d else d
      | .ended, .gq q _ => if o.dueAt ≤ d.pas.count then postFqs d.ops.length (1, q) (d.pas.count - 1) d else d
      | _, _ => d

/-- A curve-management result due now changes its slot before it is delivered (R151). -/
def curvesDue (d : Dev) : Dev :=
  (d.ops.filter (fun o => decide (o.phase = .held) && decide (o.dueAt ≤ d.pas.count))).foldl curveRelease d

/-- Step 6: completion doorbells take effect (R70), held results are released and completions written (R38, R40), then bounds are judged (R39). -/
def edgeRelease (d : Dev) : Dev :=
  let d := (liveRings d).foldl ringEdge d
  let d := releaseDue (curvesDue d)
  let d := (d.ops.map (·.id)).foldl dueOp d
  boundOverrun (postAll d)

/-- Counts and timers of the blocks at an edge: rings, lanes, mailboxes, Hopper, cards, tamper, watchdogs. -/
def edgeBlocks (d : Dev) : Dev :=
  let d := (liveRings d).foldl ringEdge d
  let d := (List.range 8).foldl laneEdge d
  let d := rplWaits (uqEdge (sdhEdge (ofcEdge (hopEdge (mbxEdges d)))))
  let d := tmpEdge d
  lockkeeper ((1 :: hostCores).foldl wdgEdge d)

/-- Step 7: admission. -/
def edgeAdmit (d : Dev) : Dev := admitStep d

/-- Software draws and a challenge (R187, R266). -/
def edgeDraws (d : Dev) : Dev :=
  let r := hopFill d
  let d := (List.range 4).foldl (fun d c =>
    let ds := tabGet [] r.2 (0x20 + c)
    if fld (rg d (Reg.HOP_SW_FILL + 8 + c)) 3 0 = 0 ∨ ¬ d.hop.up ∨ ¬ hostEndUp d then d
    else queueBarge d 1 { toField := true, lane := 3, type := 0x0C, core := c, ref := ds.length, payload := fit15 (ds.map wd) }) r.1
  challengeSend d

/-- Readings latched at the edge: voltages, temperature, RTC and clock frequencies are free values (log entry 4); a clock domain reads unlocked
only while the clock monitor's source is asserted. -/
def measure (d : Dev) : Dev :=
  let take := fun (d : Dev) (x : Nat × Nat) => let r := drawWord d; { r.2 with meas := tabSet 0 r.2.meas x.1 (wd (r.1.toNat % 2 ^ x.2)) }
  let d := ([(Reg.PWR_VIN, 16), (Reg.PWR_KEEP, 24), (Reg.PWR_TEMP, 12), (Reg.PWR_RTC_S, 36), (Reg.PWR_RTC_SUB, 15)] ++
    (List.range 28).map (fun i => (Reg.CLK_MEAS + i, 36))).foldl take d
  if tmpAsserted d 13 then take d (Reg.CLK_LOCK, 28) else { d with meas := tabSet 0 d.meas Reg.CLK_LOCK (wd (2 ^ 28 - 1)) }

/-- ILS_HOST_VEC fires at the edge that shows H0 an inline event (R139). -/
def inlineVec (d : Dev) : Dev :=
  let v := rg d Reg.ILS_HOST_VEC
  if bit v 11 ∧ d.pas.inq.any (fun i => decide (i.cls = 1) && decide (0x300 ≤ i.key ∧ i.key < 0x304) && decide (i.pass + 1 = d.pas.count)) then
    fireVec d 0 (fld v 10 0)
  else d

/-- Completions seen: the entries of operations whose result has been presented are freed (R79, R107), those whose result still waits to be are not;
an answer to the field island is presented there. -/
def freePosted (d : Dev) : Dev :=
  { d with ops := d.ops.filter (fun o =>
      !(decide (o.phase = .posted) && decide (o.dueAt ≤ d.pas.count) && (match o.src with | .barge _ _ _ => false | _ => true)) ||
      d.pas.inq.any (fun i => decide (i.op = some o.id))) }

/-- Step 8: presentation, and the record of the pass just ended. -/
def edgePresent (d : Dev) : Dev :=
  let d := (liveRings d).foldl modTimer (inlineVec (measure d))
  let d := freePosted ((1 :: hostCores).foldl presentCore d)
  let d := (1 :: hostCores).foldl passResume (rplSnap (d.pas.count - 1) d)
  let d := svnBlow (recordCloseAll (d.rpl.closing.length + 1) d)
  regReads (stopSources d)

/-- The edge on the host island. Without supplies there is no edge. -/
def passEdge (d : Dev) : Dev :=
  if ¬ powered d then d
  else edgePresent (edgeDraws (edgeAdmit (edgeBlocks (edgeRelease (edgeRefill (edgePartition (edgeOpen (edgeExpire (edgeCount (edgeBefore d))))))))))

/-! ### The field island's edge (R30, R33, R233, R240, R251) -/

/-- Steps 3 to 5, and what the ports and engines do at an edge. -/
def fieldSteps (d : Dev) : Dev :=
  let d := fieldParts (fieldApply (tagDataEdge (tagRefusedEdge (tagDrain (d.tag.queue.length + 1) d))))
  let d := { d with spent := d.spent.filter (fun e => !(fieldKey e.1 && decide (e.1 < 2 ^ 24))),
                    fld := { d.fld with eng := (List.range 16).foldl (fun t e => tabMod {} t e (fun x => { x with used := 0 })) d.fld.eng,
                                        chains := (List.range 32).foldl (fun t n => tabMod {} t n (fun x => { x with back := false })) d.fld.chains } }
  let d := (List.range 256).foldl (fun d p => portJudge p d) d
  let d := (livePorts d).foldl (fun d p => lingerExpiry p (lingerClear p d)) d
  let d := (List.range 32).foldl (fun d n => powersEdge n (settleEnd n (tuningEnd n d))) d
  let d := (List.range 16).foldl (fun d f => flightReadyNow f d) d
  (List.range 16).foldl (fun d e => sweepStart e d) d

/-- Step 7: the chain scheduler, then each chain's entries, and what they do on the air. -/
def fieldAdmit (d : Dev) : Dev := (List.range 32).foldl (fun d n => airEdge n (admitEntries n d)) (tagPaths (schedule d))

/-- CHAIN_GRANT barges of the grants and ends of this edge, one per flight pair (R241). -/
def grantBarges (d : Dev) : Dev :=
  let bs : List Barge := d.fld.grants.map (fun e =>
    { toField := false, lane := 3, type := 0x02, core := 4, payload := fit15 (loWord d.pas.count :: (e.2.take 14).map wd) })
  bs.foldl (fun d b => queueBarge d 0 b) { d with fld := { d.fld with grants := [] } }

/-- Draw buffers take the draws that have arrived; what was left is wiped (R187). -/
def fieldDraws (d : Dev) : Dev :=
  onHop d (fun h => { h with buf := h.buf.filter (fun e => !isF e.1) ++ h.next, next := [] })

/-- R390, R456: the field boot ROM starts a core that was released at its word 0 at the field image's ENTRY word: at the first field edge at which the
core has executed nothing of its own. DESIGN CHOICE (log entry 93). -/
def fieldRomStart (d : Dev) (m : Nat) : Dev :=
  let c := coreGet d m
  if d.fld.started ∧ c.run ∧ c.pc = 0 ∧ c.progress = 0 then coreSet d m { c with pc := 0x010000000 + d.fld.entry } else d

/-- Step 8 of the field edge. -/
def fieldPresent (d : Dev) : Dev :=
  let d := (List.range 4).foldl (fun d c => eventWrites ((tabGet [] d.fld.evs c).length) c d) d
  let d := (List.range 32).foldl (fun d n => entryCompletion n d) d
  let d := fieldDraws (grantBarges d)
  let d := fieldCores.foldl wdgEdge d
  let d := fieldReplay (fieldCores.foldl presentCore (fieldCores.foldl fieldRomStart d))
  fieldCores.foldl passResume (rplSnapField (d.pas.count - 1) d)

/-- The edge as it reaches the field island, once for each pass. -/
def fieldEdge (d : Dev) : Dev :=
  if ¬ d.lkg.fieldUp ∨ d.fld.edgeAt = some d.pas.count then d
  else
    let d := { d with fld := { d.fld with edgeAt := some d.pas.count }, pas := { d.pas with recorded := d.pas.recorded.filter (fun r => !isF r.1) } }
    fieldPresent (fieldAdmit (fieldSteps d))

end Sys2Proof.Machine
end

