-- ==== Sys2Proof/Machine/Encode.lean ====
section
/-! DEFINITION. The encoding of CQ36 instructions (R306, Tables 12.4 and 12.6): which 36-bit words are instructions. -/

namespace Sys2Proof.Machine

/-- Fields of Table 12.4 as masks: D, A and B of formats R, I and S, X of format R, the immediate of 18 bits, the offset of 28. Format B has A where the
others have D, and B where they have A. -/
abbrev encD : Nat := 0x1F * 2 ^ 23
abbrev encA : Nat := 0x1F * 2 ^ 18
abbrev encB : Nat := 0x1F * 2 ^ 13
abbrev encI : Nat := 2 ^ 18 - 1
abbrev encJ : Nat := 2 ^ 28 - 1

/-- The fields an opcode's instruction uses; none for a reserved opcode (Table 12.6). -/
def encFields (op : Nat) : Option Nat :=
  let dab := encD + encA + encB
  let dai := encD + encA + encI
  if op ∈ [0x01, 0x02, 0x03, 0x04, 0x05, 0x06, 0x07, 0x08, 0x09, 0x0A, 0x0D, 0x0E, 0x18, 0x19, 0x1A, 0x1B, 0x28, 0x29, 0x2A, 0x2B, 0x2C, 0x2D, 0x2E,
    0x2F, 0x41, 0x58, 0x59, 0x5B] then some dab
  else if op = 0x0B then some (encA + encB)
  else if op = 0x0C ∨ op = 0x40 then some (encD + encA)
  else if op ∈ [0x10, 0x11, 0x12, 0x13, 0x14, 0x15, 0x30, 0x31, 0x32, 0x33, 0x34, 0x35, 0x36, 0x37, 0x38, 0x39] then some dai
  else if op ∈ [0x16, 0x3A, 0x3B, 0x3F] then some (encD + encI)
  else if op = 0x17 then some (encA + encI)
  else if op ∈ [0x1C, 0x1D, 0x1E, 0x1F] then some (encD + encA + 0x3F)
  else if op = 0x20 ∨ op = 0x21 then some (encD + encA + 0xFFF)
  else if op = 0x3C then some encI
  else if op = 0x3D ∨ op = 0x3E ∨ op = 0x64 then some encD
  else if op ∈ [0x48, 0x49, 0x4A, 0x4B, 0x4C, 0x4D] then some dai
  else if op = 0x4E then some (encD + encI)
  else if op = 0x50 ∨ op = 0x51 then some encJ
  else if op = 0x52 ∨ op = 0x53 then some encA
  else if op ∈ [0x54, 0x61, 0x63] then some 0
  else if op = 0x5A then some (dab + 1)
  else if op = 0x60 ∨ op = 0x62 then some encI
  else if op = 0x65 ∨ op = 0x66 then some (encD + encI)
  else if op = 0x67 then some (encA + encI)
  else none

/-- A number that names a system register. -/
def sysReg (sr : Nat) : Bool := decide (sr ≤ 13) || sr == 16 || sr == 17

/-- The values of used fields that are reserved, by opcode. -/
def encReserved (op : Nat) (w : Word) : Bool :=
  let d := fld w 27 23
  let a := fld w 22 18
  let b := fld w 17 13
  let i := fld w 17 0
  if op ∈ [0x1C, 0x1D, 0x1E, 0x1F] then decide (36 ≤ i)
  else if op = 0x20 ∨ op = 0x21 then decide (i / 64 = 0) || decide (36 < i % 64 + i / 64)
  else if op ∈ [0x2B, 0x32, 0x33] then decide (d = 0) || decide (d % 2 = 1)
  else if op = 0x4E then decide (14 < d)
  else if op ∈ [0x58, 0x59, 0x5A, 0x5B] then decide (d = 0 ∨ a = 0 ∨ b = 0 ∨ d = a ∨ d = b ∨ a = b)
  else if op = 0x62 then decide (1 < i)
  else if op = 0x65 then decide (7 < i)
  else if op = 0x66 ∨ op = 0x67 then !sysReg i
  else false

/-- R306: is the word an instruction: a listed opcode, every unused field zero, no field at a reserved value? -/
def encOk (w : Word) : Bool :=
  let op := fld w 35 28
  match encFields op with
  | some m => decide ((w &&& ~~~(wd (m + op * 2 ^ 28))) = 0) && !encReserved op w
  | none => false

end Sys2Proof.Machine
end

