-- ==== Sys2Proof/Machine/Cpu.lean ====
section
/-! DEFINITION. The CQ36 cores: registers, stacks, memory accesses with their checks, faults and interrupts, exception entry, the bywash and core
stop, and how an instruction issues (chapters 12 and 13). -/

namespace Sys2Proof.Machine

/-! ### Registers (R300, R301, R336) -/

/-- An address after wrapping (R299). -/
def wrap36 (n : Nat) : Nat := n % 2 ^ 36

/-- A field of n bits sign-extended to a word. -/
def sext (n v : Nat) : Word := if v.testBit (n - 1) then wd (v % 2 ^ n + 2 ^ 36 - 2 ^ n) else wd (v % 2 ^ n)

def Core.pl (c : Core) : Nat := fld c.sw 1 0
def Core.still (c : Core) : Bool := bit c.sw 2

/-- A general register: G0 reads zero. -/
def Core.reg (c : Core) (i : Nat) : Word := if i = 0 then 0 else tabGet 0 c.g i

/-- A general register written: a write to G0 is discarded. -/
def Core.setReg (c : Core) (i : Nat) (v : Word) : Core := if i = 0 then c else { c with g := tabSet 0 c.g i v }

/-- The stack pointer in force: SPB while in the bywash, else that of the level. -/
def Core.stk (c : Core) : Nat := if c.bwdepth ≠ 0 then c.spb.toNat else (tabGet 0 c.sp c.pl).toNat
def Core.lim (c : Core) : Nat := if c.bwdepth ≠ 0 then c.slb.toNat else (tabGet 0 c.sl c.pl).toNat
def Core.setStk (c : Core) (n : Nat) : Core :=
  if c.bwdepth ≠ 0 then { c with spb := wd n } else { c with sp := tabSet 0 c.sp c.pl (wd n) }

/-- On to the next instruction. -/
def Core.next (c : Core) : Core := { c with pc := wrap36 (c.pc + 1) }

/-! ### Faults -/

/-- A fault of an instruction: vector (Table 13.3), ACCESS and DETAIL (Table 13.6), FADDR and resume PC (Table 13.5). -/
structure CoreFault where
  vec : Nat
  access : Nat
  detail : Nat
  addr : Nat
  resume : Nat
  deriving DecidableEq, Repr

/-- An instruction's outcome: a fault with the device as it leaves it, or the device after the instruction with the event codes of Table 19.5 it
counts beside its retirement. -/
abbrev Res := Except (CoreFault × Dev) (Dev × List Nat)

def faultAt (vec : Nat) (c : Core) : CoreFault := ⟨vec, 0, 0, c.pc, c.pc⟩

/-- ENCODING, PRIVILEGE and DIVIDE_ZERO of the instruction that core m is at. -/
def encFault (m : Nat) (d : Dev) : Res := .error (faultAt 0 (coreGet d m), d)
def privFault (m : Nat) (d : Dev) : Res := .error (faultAt 1 (coreGet d m), d)
def divFault (m : Nat) (d : Dev) : Res := .error (faultAt 6 (coreGet d m), d)

/-! ### Access checks (R304, R307, R345 to R349, R359) -/

/-- Is the address, as core m sees it, in register space or the host window, which take word loads and stores alone (R307)? The field island has no host
window (R341). -/
def deviceSpace (m a : Nat) : Bool := decide (0xF00000000 ≤ a) || (inHostWindow a && !isF m)

/-- The MPU's check of an access of n words from a on with the rights of a level: the fault, recorded in the core's group. -/
def mpuFault (m pl right access a n : Nat) (d : Dev) : Option (CoreFault × Dev) :=
  match (List.range n).findSome? (fun i => let x := wrap36 (a + i); (refusal d m m pl right x).map (fun t => (x, t))) with
  | some (x, t) => some (⟨3, access, t, x, (coreGet d m).pc⟩, mpuRecord m m access x t d)
  | none => none

/-- The push check of a word at s - 1 with limit l: DETAIL where it fails. -/
def pushCheck (s l : Nat) : Option Nat := if s = 0 then some 1 else if s - 1 < l then some 0 else none

/-- A stack fault at an address. -/
def stackFault (m access detail a : Nat) (d : Dev) : CoreFault := ⟨4, access, detail, wrap36 a, (coreGet d m).pc⟩

/-- A check code failure of data word k of the instruction: from the issue, or in replay from the record (R443 rule 5). -/
def dataWcc (x : Issue) (k : Nat) (d : Dev) : Option (Option Wcc) :=
  match x.data with
  | some (j, w) => if j ≠ k then none else if replayed d x.core then (if (eventDue d x.core 1).isSome then some none else none) else some (some w)
  | none => if replayed d x.core ∧ k = 0 ∧ x.fetch = none ∧ (eventDue d x.core 1).isSome then some none else none

/-- What a check code failure leaves: counted and raised, or the record's event taken. -/
def wccSeen (m a : Nat) (w : Option Wcc) (d : Dev) : Dev :=
  match w with
  | some w => wccFail (if isF m then 7 else w.seg % 7) m a w.stage d
  | none => popItem d m

/-! ### Memory words -/

/-- A memory word as a core reads it. -/
def coreWord (d : Dev) (m a : Nat) : Word :=
  if isF m then (if a ≤ 0xFFFF then Config.fieldRom a else fmRd d a) else memAny d a

/-- Is the word read-only: boot ROM or a code plane's window? -/
def romWord (m a : Nat) : Bool := if isF m then decide (a ≤ 0xFFFF) else decide (a ≤ 0x3FFFF) || (windowPlane a).isSome

/-- Does the code of a word that the core sends or receives fail its check? -/
def wccHit (w : Wcc) (m a : Nat) (v : Word) (d : Dev) : Bool := wccFails w.stage m a v (coreWord d m (beatMate a)) w.err

/-- Bit errors of a flash read of word k (0 the fetched one) through a code plane's window: whether they were corrected (R397). A replayed core reads
the record's memory, not the flash. -/
def mediaErr (x : Issue) (k a : Nat) (d : Dev) : Option Bool :=
  match x.media with
  | some (j, ok) => if j = k ∧ ¬ isF x.core ∧ (windowPlane a).isSome ∧ ¬ replayed d x.core then some ok else none
  | none => none

/-- A corrected read is counted. -/
def noteMedia (x : Issue) (k a : Nat) (d : Dev) : Dev := if mediaErr x k a d = some true then rgAdd d Reg.FLS_CORRECTED 1 else d

/-- Corrected reads among n data words from a on, the first of them number k. -/
def noteLoads (x : Issue) (k a n : Nat) (d : Dev) : Dev := (List.range n).foldl (fun d i => noteMedia x (k + i + 1) (wrap36 (a + i)) d) d

/-- The INTEGRITY fault of data word k at an address: of its check code (a read request carries a data word of zero, R357), or for an uncorrectable
flash read through a window, which is no check code failure (R397). -/
def integrity (x : Issue) (access k a : Nat) (d : Dev) : Option (CoreFault × Dev) :=
  match dataWcc x k d with
  | none =>
    if mediaErr x (k + 1) a d = some false then some (⟨5, access, 0, a, (coreGet d x.core).pc⟩, rgAdd d Reg.FLS_ECC_FAIL 1) else none
  | some w =>
    if (match w with | some c => wccHit c x.core a (if c.stage = 0 then 0 else coreWord d x.core a) d | none => true) then
      some (⟨5, access, 0, a, (coreGet d x.core).pc⟩, wccSeen x.core a w d)
    else none

/-- A memory word written by a core; read-only words keep their value. -/
def coreWrite (m a : Nat) (v : Word) (d : Dev) : Dev :=
  if romWord m a then d
  else if isF m then loseResv { d with fmem := tabSet 0 d.fmem a v } (some m) true a 1
  else loseResv { d with mem := tabSet 0 d.mem a v } (some m) false a 1

/-- n memory words read from a on; `k` numbers the first among the instruction's data words. -/
def loadWords (x : Issue) (pl access a k n : Nat) (d : Dev) : Except (CoreFault × Dev) (List Word) :=
  match mpuFault x.core pl 0 access a n d with
  | some f => .error f
  | none =>
    match (List.range n).findSome? (fun i => integrity x access (k + i) (wrap36 (a + i)) d) with
    | some f => .error f
    | none => .ok ((List.range n).map (fun i => coreWord d x.core (wrap36 (a + i))))

/-- A word stored: a check code failure drops it at its target (R359). -/
def putWord (x : Issue) (k a : Nat) (v : Word) (d : Dev) : Dev :=
  match x.data with
  | some (j, w) => if j = k ∧ ¬ replayed d x.core ∧ wccHit w x.core a v d then wccSeen x.core a (some w) d else coreWrite x.core a v d
  | none => coreWrite x.core a v d

/-- Memory words stored from a on. -/
def storeWords (x : Issue) (pl access a : Nat) (ws : List Word) (d : Dev) : Except (CoreFault × Dev) Dev :=
  match mpuFault x.core pl 1 access a ws.length d with
  | some f => .error f
  | none => .ok (ws.zipIdx.foldl (fun d w => putWord x w.2 (wrap36 (a + w.2)) w.1 d) d)

/-! ### Core stop (R338) -/

/-- SW at the moment of an event: RES is set where a block instruction has not finished. -/
def swAt (c : Core) : Word := if c.inBlock then setBit c.sw 3 true else c.sw

/-- Table 13.7. -/
def stopRecord (m reason : Nat) (fcause : Word) (addr resume : Nat) (d : Dev) : List Word :=
  let c := coreGet d m
  [pack [(0, m), (8, reason)], fcause, wd addr, wd resume, swAt c, c.spb, c.slb, tabGet 0 c.sp c.pl, loWord d.pas.count, hiWord d.pas.count, 0, 0, 0, 0, 0, 0]

/-- The core stops and its stop record goes out: a mailbox send for Hn, a CORE_STOP barge for Fn, the reset controller's record for K. -/
def coreStop (m reason : Nat) (fcause : Word) (addr resume : Nat) (d : Dev) : Dev :=
  let r := stopRecord m reason fcause addr resume d
  let d := onCore d m (fun c => { c with stopped := reason })
  if replayed d m then diverge m 4 d
  else if isH m then mbxPut (56 + (m - 0x10)) r d
  else if isF m then queueBarge d 0 { toField := false, lane := 0, type := 0x11, core := m - 0x20, payload := fit15 r }
  else sourceAssert 9 1 (r.zipIdx.foldl (fun d x => rgSet d (Reg.RST_STOP + x.2) x.1) d)

/-! ### Entry and bywash (R328 to R336) -/

/-- FCAUSE (Table 13.6); BWDEPTH apart. -/
def fcauseWord (vec pl access detail : Nat) (bw : Bool) (reason : Nat) : Word :=
  pack [(0, vec), (6, pl), (8, access), (11, detail), (13, b2n bw), (14, reason)]

/-- FCAUSE with the live BWDEPTH. -/
def fcauseLive (w : Word) (depth : Nat) : Word := setFld w 23 20 depth

/-- check_frame: the push checks of four words below s against the limit, then the MPU's with the rights of a level: the failing address, whether the MPU
refused it, and DETAIL. -/
def checkFrame (d : Dev) (m pl s l : Nat) : Option (Nat × Bool × Nat) :=
  match [1, 2, 3, 4].findSome? (fun k => (pushCheck (s - (k - 1)) l).map (fun t => (wrap36 (s + 2 ^ 36 - k), false, t))) with
  | some f => some f
  | none => [1, 2, 3, 4].findSome? (fun k => (if deviceSpace m (s - k) then some 1 else refusal d m m pl 1 (s - k)).map (fun t => (s - k, true, t)))

/-- A frame refused by the MPU is a refusal of the core's MPU. -/
def frameRecord (m : Nat) (f : Nat × Bool × Nat) (d : Dev) : Dev := if f.2.1 then mpuRecord m m 4 f.1 f.2.2 d else d

/-- Word k of a frame below s stored; a check code failure drops it at its target, and the core goes on (R359). -/
def frameWord (e : EntryWcc) (m s k : Nat) (v : Word) (d : Dev) : Dev :=
  match e.frame with
  | some (j, w) => if j = k ∧ ¬ replayed d m ∧ wccHit w m (s - k - 1) v d then wccSeen m (s - k - 1) (some w) d else coreWrite m (s - k - 1) v d
  | none => coreWrite m (s - k - 1) v d

/-- The four words of a frame written below s. -/
def writeFrame (e : EntryWcc) (m s : Nat) (resume : Nat) (sw fcause : Word) (addr : Nat) (d : Dev) : Dev :=
  frameWord e m s 3 (wd addr) (frameWord e m s 2 fcause (frameWord e m s 1 sw (frameWord e m s 0 (wd resume) d)))

/-- SW in a handler at level L: STILL set, RES clear, flags kept. -/
def swHandler (c : Core) (l : Nat) : Word := setFld c.sw 3 0 (l + 4)

/-- Bywash entry. -/
def bywash (e : EntryWcc) (m : Nat) (f : CoreFault) (reason : Nat) (d : Dev) : Dev :=
  let c := coreGet d m
  let fc := fcauseLive (fcauseWord f.vec c.pl f.access f.detail true reason) (min 15 (c.bwdepth + 1))
  if ¬ c.bwFixed then coreStop m 3 fc f.addr f.resume d
  else if c.bwdepth = 15 then coreStop m 2 fc f.addr f.resume d
  else match checkFrame d m 0 c.spb.toNat c.slb.toNat with
  | some x => coreStop m 1 fc x.1 f.resume (frameRecord m x d)
  | none =>
    let d := writeFrame e m c.spb.toNat f.resume (swAt c) fc f.addr d
    onCore d m (fun k => { k with spb := wd (c.spb.toNat - 4), bwdepth := c.bwdepth + 1, fcause := fc, faddr := wd f.addr, sw := swHandler c 0,
                                  inBlock := false, resv := none, pc := c.bwbase.toNat })

/-- Address of a vector's entry. -/
def vectorAt (d : Dev) (m v : Nat) : Nat := wrap36 ((coreGet d m).vbase.toNat + v)

/-- DETAIL with which the read of a vector's entry is refused, with P0 rights. -/
def vectorRefused (d : Dev) (m v : Nat) : Option Nat :=
  if deviceSpace m (vectorAt d m v) then some 1 else refusal d m m 0 0 (vectorAt d m v)

/-- TARGET of a vector's entry, where it can be read. -/
def vectorTarget (d : Dev) (m v : Nat) : Option Nat :=
  if (vectorRefused d m v).isSome then none else some (fld (coreWord d m (vectorAt d m v)) 1 0)

/-- Does the code of the vector's entry fail as core m reads it? -/
def vectorBad (vec : Option Wcc) (m a : Nat) (d : Dev) : Bool :=
  match vec with
  | some w => !replayed d m && wccHit w m a (if w.stage = 0 then 0 else coreWord d m a) d
  | none => false

/-- Exception entry (R332). `isFault` tells a fault from an interrupt; `vec` is what the codes of the entry's words meet. -/
def enter (vec : EntryWcc) (m : Nat) (f : CoreFault) (isFault : Bool) (d : Dev) : Dev :=
  let c := coreGet d m
  if c.bwdepth ≠ 0 ∨ (isFault ∧ c.still) then bywash vec m f 3 d
  else
    let at_ := vectorAt d m f.vec
    match vectorRefused d m f.vec with
    | some t => bywash vec m { f with access := 6, detail := 0, addr := at_ } 2 (mpuRecord m m 6 at_ t d)
    | none =>
      let e := coreWord d m at_
      let target := fld e 1 0
      if vectorBad vec.vector m at_ d then bywash vec m { f with access := 6, detail := 0, addr := at_ } 2 (wccSeen m at_ vec.vector d)
      else if target = 3 ∨ (target = 2 ∧ isFault) then bywash vec m f 4 d
      else if target = 2 then onCore d m (fun k => { k with pend := tabSet false k.pend f.vec false })
      else
        let l := min target c.pl
        let s := (tabGet 0 c.sp l).toNat
        match checkFrame d m l s (tabGet 0 c.sl l).toNat with
        | some x => bywash vec m { f with access := 4, detail := x.2.2, addr := x.1 } 1 (frameRecord m x d)
        | none =>
          let fc := fcauseWord f.vec c.pl f.access f.detail false 0
          let d := writeFrame vec m s f.resume (swAt c) fc f.addr d
          onCore d m (fun k => { k with sp := tabSet 0 k.sp l (wd (s - 4)), fcause := fc, faddr := wd f.addr, sw := swHandler c l, inBlock := false,
                                        pend := if isFault then k.pend else tabSet false k.pend f.vec false, resv := none,
                                        pc := e.toNat - e.toNat % 4 })

/-- A fault is taken: counted, recorded where it is INTEGRITY, and entered. -/
def raiseFault (vec : EntryWcc) (m : Nat) (f : CoreFault) (d : Dev) : Dev :=
  let pl := (coreGet d m).pl
  let d := if f.vec = 5 then rplItem m 5 [1] d else d
  enter vec m f true (pmuEvents m pl [0x0F] d)

/-! ### Interrupts (R327 to R329) -/

/-- Interrupt vectors in the order of their priority. -/
def intOrder : List Nat := [19, 21, 18, 16, 17, 20]

/-- The interrupt that the core takes at an instruction boundary now: in replay, the one the record names. -/
def takable (d : Dev) (m : Nat) : Option Nat :=
  let c := coreGet d m
  if replayed d m then (if d.rpl.mode = 2 then (eventDue d m 0).map (fun v => v % 64) else none)
  else if c.still ∨ c.bwdepth ≠ 0 then none
  else intOrder.find? (fun v => tabGet false c.pend v)

/-- One interrupt taken, or discarded where its vector is OFF: its entry ends a WAITPASS. Answers whether it was entered. -/
def takeOne (vec : EntryWcc) (m v : Nat) (d : Dev) : Bool × Dev :=
  let c := coreGet d m
  let f : CoreFault := ⟨v, 0, 0, 0, c.pc⟩
  if vectorTarget d m v = some 2 ∧ c.bwdepth = 0 ∧ ¬ vectorBad vec.vector m (vectorAt d m v) d then (false, enter vec m f false d)
  else
    let d := if replayed d m then popItem d m else rplItem m 5 [16 * v] d
    (true, enter vec m f false (pmuEvents m c.pl [0x10] (onCore d m (fun k => { k with waiting := none }))))

/-- Interrupts taken at a boundary: those whose vector is OFF are discarded. Answers whether one was entered. -/
def takeInterrupts (vec : EntryWcc) (m : Nat) : Nat → Dev → Bool × Dev
  | 0, d => (false, d)
  | n + 1, d =>
    match takable d m with
    | none => (false, d)
    | some v => let r := takeOne vec m v d; if r.1 then r else takeInterrupts vec m n r.2

/-! ### Issue -/

/-- Does the core issue instructions: released, not stopped, not halted unless stepped? -/
def coreLive (d : Dev) (m : Nat) : Bool :=
  let c := coreGet d m
  isCore m && c.run && decide (c.stopped = 0) && (!c.halted || c.stepOne)

/-- The fetch at PC, with the rights of the level: its fault. -/
def fetchFault (x : Issue) (d : Dev) : Option (CoreFault × Dev) :=
  let m := x.core
  let c := coreGet d m
  match (if deviceSpace m c.pc then some 1 else refusal d m m c.pl 2 c.pc) with
  | some t => some (⟨2, 1, t, c.pc, c.pc⟩, mpuRecord m m 1 c.pc t d)
  | none =>
    match x.fetch with
    | some w =>
      if replayed d m then (if (eventDue d m 1).isSome then some (⟨5, 1, 0, c.pc, c.pc⟩, popItem d m) else none)
      else if wccHit w m c.pc (coreWord d m c.pc) d then some (⟨5, 1, 0, c.pc, c.pc⟩, wccSeen m c.pc (some w) d)
      else none
    | none =>
      if mediaErr x 0 c.pc d = some false then some (⟨5, 1, 0, c.pc, c.pc⟩, rgAdd d Reg.FLS_ECC_FAIL 1) else none

/-- An instruction retires: progress, counters, a Towpath step used up. A core that its own store has reset counts nothing. -/
def retire (m pl : Nat) (codes : List Nat) (d : Dev) : Dev :=
  if ¬ (coreGet d m).run then d
  else pmuRetire m pl codes (onCore d m (fun c => { c with progress := c.progress + 1, stepOne := false }))

/-- R306: is the fetched word, where it is given, no instruction? -/
def badWord (x : Issue) : Bool := x.word.any (fun w => !encOk w)

/-- One instruction of a core: at its boundary an interrupt goes first; else it is fetched and carried out, and retires or faults. `atEnd` allows the one
instruction (WAITPASS) that a replayed core may begin at its PROGRESS; `retires` tells whether it retires now. -/
def issueWith (atEnd retires : Bool) (x : Issue) (f : Dev → Res) (d : Dev) : Dev :=
  let m := x.core
  let d := resetEvents m 8 d
  if ¬ coreLive d m then d
  else
    let r := takeInterrupts x.vec m 7 d
    let d := r.2
    let c := coreGet d m
    if r.1 ∨ c.waiting.isSome then d
    else if ¬ (mayIssue d m ∨ (atEnd ∧ d.rpl.mode = 2 ∧ replayed d m)) then d
    else match fetchFault x d with
    | some (e, d) => raiseFault x.vec m e d
    | none =>
      match (if badWord x then .error (faultAt 0 c, onCore d m (fun c => { c with inBlock := false })) else f (noteMedia x 0 c.pc d)) with
      | .error (e, d) => raiseFault x.vec m e (onCore d m (fun c => { c with stepOne := false }))
      | .ok (d, codes) => if retires then retire m c.pl codes d else onCore d m (fun c => { c with stepOne := false })

/-- Any instruction but a block one leaves no block instruction under way. -/
def notBlock (m : Nat) (d : Dev) : Dev := onCore d m (fun c => { c with inBlock := false })

def issue (x : Issue) (f : Dev → Res) (d : Dev) : Dev := issueWith false true x (fun d => f (notBlock x.core d)) d

/-- INTERRUPT_ENTRY: at an instruction boundary of a core the pending interrupts are taken or discarded. -/
def interruptEntry (vec : EntryWcc) (m : Nat) (d : Dev) : Dev := if coreLive d m then (takeInterrupts vec m 7 d).2 else d

/-- The register that a master's reads are latched in: the device at the last edge of its island (R45). -/
def latchOf (s : State) (m : Nat) : Dev := if isFieldMaster m then s.latchF else s.latch

/-! ### Small forms -/

/-- All register fields in range (a wider field has no encoding). -/
def regsOk (rs : List Nat) : Bool := rs.all (fun r => decide (r < 32))

/-- The core changed, then on to the next instruction; a core that its own store has reset stays as it is. -/
def finishWith (m : Nat) (f : Core → Core) (codes : List Nat) (d : Dev) : Res :=
  .ok (if (coreGet d m).run then onCore d m (fun c => (f c).next) else d, codes)

end Sys2Proof.Machine
end

