-- ==== Sys2Proof/Machine/Alu.lean ====
section
/-! DEFINITION. CQ36 arithmetic, logic, shift, field, multiply and divide instructions (Table 12.6, opcodes 0x01 to 0x2F). -/

namespace Sys2Proof.Machine

/-! ### Forms -/

/-- Three registers, flags unchanged. -/
def alu3 (op : Word → Word → Word) (x : Issue) (rd ra rb : Nat) (dev : Dev) : Dev :=
  issue x (fun d =>
    if regsOk [rd, ra, rb] then finishWith x.core (fun c => c.setReg rd (op (c.reg ra) (c.reg rb))) [] d else encFault x.core d) dev

/-- Three registers, all four flags set; the operation sees the carry. -/
def alu3f (op : Bool → Word → Word → Word × Flags) (x : Issue) (rd ra rb : Nat) (dev : Dev) : Dev :=
  issue x (fun d =>
    if regsOk [rd, ra, rb] then
      finishWith x.core (fun c =>
        let r := op (flagsOf c.sw).c (c.reg ra) (c.reg rb)
        { c.setReg rd r.1 with sw := withFlags c.sw r.2 }) [] d
    else encFault x.core d) dev

/-- A register and an 18-bit immediate, flags unchanged. -/
def aluI (op : Word → Nat → Word) (x : Issue) (rd ra imm : Nat) (dev : Dev) : Dev :=
  issue x (fun d =>
    if regsOk [rd, ra] ∧ imm < 2 ^ 18 then finishWith x.core (fun c => c.setReg rd (op (c.reg ra) imm)) [] d else encFault x.core d) dev

/-- A register and an 18-bit immediate, all four flags set. -/
def aluIf (op : Word → Word → Word × Flags) (x : Issue) (rd ra imm : Nat) (dev : Dev) : Dev :=
  issue x (fun d =>
    if regsOk [rd, ra] ∧ imm < 2 ^ 18 then
      finishWith x.core (fun c => let r := op (c.reg ra) (sext 18 imm); { c.setReg rd r.1 with sw := withFlags c.sw r.2 }) [] d
    else encFault x.core d) dev

/-- Shift by an immediate amount, 0 to 35. -/
def shiftI (op : Word → Nat → Word) (x : Issue) (rd ra sh : Nat) (dev : Dev) : Dev :=
  issue x (fun d =>
    if regsOk [rd, ra] ∧ sh < 36 then finishWith x.core (fun c => c.setReg rd (op (c.reg ra) sh)) [] d else encFault x.core d) dev

/-- A division: DIVIDE_ZERO where Gb is zero. -/
def divide (op : Word → Word → Word) (x : Issue) (rd ra rb : Nat) (dev : Dev) : Dev :=
  issue x (fun d =>
    if ¬ regsOk [rd, ra, rb] then encFault x.core d
    else if (coreGet d x.core).reg rb = 0 then divFault x.core d
    else finishWith x.core (fun c => c.setReg rd (op (c.reg ra) (c.reg rb))) [] d) dev

/-! ### Operations -/

def boolWord (b : Bool) : Word := if b then 1 else 0
def slt (a b : Word) : Word := boolWord (decide (a.toInt < b.toInt))
def sltu (a b : Word) : Word := boolWord (decide (a.toNat < b.toNat))
def smin (a b : Word) : Word := if a.toInt ≤ b.toInt then a else b
def smax (a b : Word) : Word := if b.toInt ≤ a.toInt then a else b
def zimm (imm : Nat) : Word := wd imm

/-- Shifts by 0 to 63: from 36 on nothing, or copies of the sign, is left. -/
def shl (a : Word) (n : Nat) : Word := if n < 36 then a <<< n else 0
def shr (a : Word) (n : Nat) : Word := if n < 36 then a >>> n else 0
def sar (a : Word) (n : Nat) : Word := if n < 36 then a.sshiftRight n else if a.msb then wd (2 ^ 36 - 1) else 0
def rol (a : Word) (n : Nat) : Word := a.rotateLeft (n % 36)

/-- The amount of a register shift: bits 5:0. -/
def amt (b : Word) : Nat := fld b 5 0

/-- High word of an exact product. -/
def hiProduct (p : Int) : Word := BitVec.ofInt 36 (p / 2 ^ 36)
def mulh (a b : Word) : Word := hiProduct (a.toInt * b.toInt)
def mulhu (a b : Word) : Word := hiProduct ((a.toNat * b.toNat : Nat) : Int)
def mul (a b : Word) : Word := wd (a.toNat * b.toNat)

/-- Signed quotient towards zero, and the remainder with the sign of the dividend; −2^35 / −1 wraps to −2^35 with remainder 0. -/
def sdivWord (a b : Word) : Word := BitVec.ofInt 36 (a.toInt.tdiv b.toInt)
def sremWord (a b : Word) : Word := BitVec.ofInt 36 (a.toInt.tmod b.toInt)
def udivWord (a b : Word) : Word := wd (a.toNat / b.toNat)
def uremWord (a b : Word) : Word := wd (a.toNat % b.toNat)

/-- EXTU and INS: low bit and width of the field, valid when 1 ≤ w ≤ 36 and lo + w ≤ 36. -/
def fieldOk (lo w : Nat) : Bool := decide (1 ≤ w) && decide (lo + w ≤ 36)

/-! ### Meanings -/

def execAdd (x : Issue) (rd ra rb : Nat) (s : State) : Out := onDev (alu3f (fun _ a b => addFlags a b 0) x rd ra rb) s
def execSub (x : Issue) (rd ra rb : Nat) (s : State) : Out := onDev (alu3f (fun _ a b => subFlags a b 0) x rd ra rb) s
def execAddc (x : Issue) (rd ra rb : Nat) (s : State) : Out := onDev (alu3f (fun c a b => addFlags a b (b2n c)) x rd ra rb) s
def execSubb (x : Issue) (rd ra rb : Nat) (s : State) : Out := onDev (alu3f (fun c a b => subFlags a b (1 - b2n c)) x rd ra rb) s
def execAnd (x : Issue) (rd ra rb : Nat) (s : State) : Out := onDev (alu3 (· &&& ·) x rd ra rb) s
def execOr (x : Issue) (rd ra rb : Nat) (s : State) : Out := onDev (alu3 (· ||| ·) x rd ra rb) s
def execXor (x : Issue) (rd ra rb : Nat) (s : State) : Out := onDev (alu3 (· ^^^ ·) x rd ra rb) s
def execAndn (x : Issue) (rd ra rb : Nat) (s : State) : Out := onDev (alu3 (fun a b => a &&& ~~~b) x rd ra rb) s
def execSlt (x : Issue) (rd ra rb : Nat) (s : State) : Out := onDev (alu3 slt x rd ra rb) s
def execSltu (x : Issue) (rd ra rb : Nat) (s : State) : Out := onDev (alu3 sltu x rd ra rb) s
/-- CMP: the flags of a difference; no register is written (D is zero). -/
def execCmp (x : Issue) (ra rb : Nat) (s : State) : Out := onDev (alu3f (fun _ a b => subFlags a b 0) x 0 ra rb) s
/-- NEG: 0 − Ga. -/
def execNeg (x : Issue) (rd ra : Nat) (s : State) : Out := onDev (alu3f (fun _ a _ => subFlags 0 a 0) x rd ra 0) s
def execMin (x : Issue) (rd ra rb : Nat) (s : State) : Out := onDev (alu3 smin x rd ra rb) s
def execMax (x : Issue) (rd ra rb : Nat) (s : State) : Out := onDev (alu3 smax x rd ra rb) s

def execAddi (x : Issue) (rd ra imm : Nat) (s : State) : Out := onDev (aluIf (fun a i => addFlags a i 0) x rd ra imm) s
def execAndi (x : Issue) (rd ra imm : Nat) (s : State) : Out := onDev (aluI (fun a i => a &&& zimm i) x rd ra imm) s
def execOri (x : Issue) (rd ra imm : Nat) (s : State) : Out := onDev (aluI (fun a i => a ||| zimm i) x rd ra imm) s
def execXori (x : Issue) (rd ra imm : Nat) (s : State) : Out := onDev (aluI (fun a i => a ^^^ zimm i) x rd ra imm) s
def execSlti (x : Issue) (rd ra imm : Nat) (s : State) : Out := onDev (aluI (fun a i => slt a (sext 18 i)) x rd ra imm) s
def execSltiu (x : Issue) (rd ra imm : Nat) (s : State) : Out := onDev (aluI (fun a i => sltu a (sext 18 i)) x rd ra imm) s
/-- LIH: the immediate in the high half. -/
def execLih (x : Issue) (rd imm : Nat) (s : State) : Out := onDev (aluI (fun _ i => wd (i * 2 ^ 18)) x rd 0 imm) s
def execCmpi (x : Issue) (ra imm : Nat) (s : State) : Out := onDev (aluIf (fun a i => subFlags a i 0) x 0 ra imm) s

def execShl (x : Issue) (rd ra rb : Nat) (s : State) : Out := onDev (alu3 (fun a b => shl a (amt b)) x rd ra rb) s
def execShr (x : Issue) (rd ra rb : Nat) (s : State) : Out := onDev (alu3 (fun a b => shr a (amt b)) x rd ra rb) s
def execSar (x : Issue) (rd ra rb : Nat) (s : State) : Out := onDev (alu3 (fun a b => sar a (amt b)) x rd ra rb) s
def execRol (x : Issue) (rd ra rb : Nat) (s : State) : Out := onDev (alu3 (fun a b => rol a (amt b)) x rd ra rb) s
def execShli (x : Issue) (rd ra sh : Nat) (s : State) : Out := onDev (shiftI shl x rd ra sh) s
def execShri (x : Issue) (rd ra sh : Nat) (s : State) : Out := onDev (shiftI shr x rd ra sh) s
def execSari (x : Issue) (rd ra sh : Nat) (s : State) : Out := onDev (shiftI sar x rd ra sh) s
def execRoli (x : Issue) (rd ra sh : Nat) (s : State) : Out := onDev (shiftI rol x rd ra sh) s

/-- EXTU: Ga[lo + w − 1 : lo], zero-extended. -/
def execExtu (x : Issue) (rd ra lo w : Nat) (s : State) : Out :=
  onDev (issue x (fun d =>
    if regsOk [rd, ra] ∧ fieldOk lo w then finishWith x.core (fun c => c.setReg rd (wd (fld (c.reg ra) (lo + w - 1) lo))) [] d
    else encFault x.core d)) s

/-- INS: the field of Gd takes Ga[w − 1 : 0]; the rest of Gd is kept. -/
def execIns (x : Issue) (rd ra lo w : Nat) (s : State) : Out :=
  onDev (issue x (fun d =>
    if regsOk [rd, ra] ∧ fieldOk lo w then
      finishWith x.core (fun c => c.setReg rd (setFld (c.reg rd) (lo + w - 1) lo (fld (c.reg ra) (w - 1) 0))) [] d
    else encFault x.core d)) s

def execMul (x : Issue) (rd ra rb : Nat) (s : State) : Out := onDev (alu3 mul x rd ra rb) s
def execMulh (x : Issue) (rd ra rb : Nat) (s : State) : Out := onDev (alu3 mulh x rd ra rb) s
def execMulhu (x : Issue) (rd ra rb : Nat) (s : State) : Out := onDev (alu3 mulhu x rd ra rb) s

/-- MULP: the signed 72-bit product to a pair; d is even and not zero. -/
def execMulp (x : Issue) (rd ra rb : Nat) (s : State) : Out :=
  onDev (issue x (fun d =>
    if regsOk [rd, ra, rb] ∧ rd ≠ 0 ∧ rd % 2 = 0 then
      finishWith x.core (fun c => (c.setReg rd (mul (c.reg ra) (c.reg rb))).setReg (rd + 1) (mulh (c.reg ra) (c.reg rb))) [] d
    else encFault x.core d)) s

def execDiv (x : Issue) (rd ra rb : Nat) (s : State) : Out := onDev (divide sdivWord x rd ra rb) s
def execDivu (x : Issue) (rd ra rb : Nat) (s : State) : Out := onDev (divide udivWord x rd ra rb) s
def execRem (x : Issue) (rd ra rb : Nat) (s : State) : Out := onDev (divide sremWord x rd ra rb) s
def execRemu (x : Issue) (rd ra rb : Nat) (s : State) : Out := onDev (divide uremWord x rd ra rb) s

end Sys2Proof.Machine
end

