-- ==== Sys2Proof/Machine/LoadStore.lean ====
section
/-! DEFINITION. CQ36 loads, stores and stack instructions (Table 12.6, opcodes 0x30 to 0x41; R304, R307, R314). -/

namespace Sys2Proof.Machine

/-! ### Register space and host window (R307, R342, R434, R435, R443) -/

/-- A failed access through the host window. -/
def windowErr (a : Nat) (d : Dev) : Dev := rgSet d Reg.MPU_HWIN_ERR (pack [(0, a - 0x800000000), (35, 1)])

/-- The value of a host window load: the host's answer, or zero where the request fails or the PF's Bus Master Enable is clear. -/
def windowLoad (x : Issue) (a : Nat) (d : Dev) : Word × Dev :=
  match x.window with
  | some v => if busMaster d 0 then (wd (v % 2 ^ 32), d) else (0, windowErr a d)
  | none => (0, windowErr a d)

/-- Host octets of a window word. -/
def windowHost (d : Dev) (a : Nat) : Nat := ofLoHi (rg d Reg.MPU_HWIN_BASE_LO) (rg d Reg.MPU_HWIN_BASE_HI) + 4 * (a - 0x800000000)

def windowStore (x : Issue) (a : Nat) (v : Word) (d : Dev) : Dev :=
  if x.window.isSome ∧ busMaster d 0 then hostWr d (windowHost d a) (leOct 4 (v.toNat % 2 ^ 32)) else windowErr a d

/-- A word load from register space (item kind 2) or the host window (kind 3): recorded, or in replay the recorded value; none where the replay
diverges. -/
def deviceLoad (dl : Dev) (x : Issue) (pl a : Nat) (d : Dev) : Option Word × Dev :=
  let m := x.core
  let kind := if inHostWindow a then 3 else 2
  if replayed d m then benchRead m kind a d
  else
    let r := if inHostWindow a then windowLoad x a d else regRead dl m pl (a % 2 ^ 24) d
    (some r.1, rplItem m kind [a, r.1.toNat] r.2)

/-- A core's read of a register word, recorded, or in replay the recorded value (R434, R443). -/
def coreRegRead (dl : Dev) (m a : Nat) (d : Dev) : Dev :=
  match deviceLoad dl { core := m } 0 (0xF00000000 + a) d with
  | (some v, d) => rdSet d m v
  | (none, d) => d

/-- HOP_SW_DRAW_READ: a core's read of HOP_SW_DRAW (R188). Cores alone have a buffer. -/
def hopSwDrawRead (dl : Dev) (m : Nat) (d : Dev) : Dev := if isH m ∨ isF m then coreRegRead dl m Reg.HOP_SW_DRAW d else rdSet d m 0

/-- PMU_SMP_DATA_READ: the next word of a core's sample buffer. -/
def pmuSmpDataRead (dl : Dev) (m g : Nat) (d : Dev) : Dev := if isCore m then coreRegRead dl m (pmuReg g 0x32) d else pmuSmpRead m g d

/-- FINE_TIMER_READ: a core reads PAS_CYCLE or a performance counter. -/
def fineTimerRead (dl : Dev) (m a : Nat) (d : Dev) : Dev :=
  if isCore m ∧ (a = Reg.PAS_CYCLE ∨ (pmuWord a).isSome) then coreRegRead dl m a d else d

/-- Is the address in the core's own MPU group? -/
def ownMpu (m a : Nat) : Bool := decide (a / 256 = 0xF00070000 / 256 + m)

/-- A word store to register space or the host window: an output of the core (R435); in replay it is dropped, the core's own MPU group apart. -/
def deviceStore (x : Issue) (pl a : Nat) (v : Word) (d : Dev) : Dev :=
  let m := x.core
  if replayed d m then (if ownMpu m a then busWrite m pl (a % 2 ^ 24) v d else benchStore m a (a % 2 ^ 24) v d)
  else
    let d := rplOut m (if inHostWindow a then [wd a, v] else outWords d m a (a % 2 ^ 24) v) d
    let go := fun d => if inHostWindow a then windowStore x a v d else busWrite m pl (a % 2 ^ 24) v d
    match x.data with
    | some (0, w) => if wccHit w m a v d then wccSeen m a (some w) d else go d
    | _ => go d

/-- Table 19.5: the event code of an access beside its load or store. -/
def spaceCodes (a : Nat) : List Nat := if inHostWindow a then [0x0D] else if 0xF00000000 ≤ a then [0x0C] else []

/-! ### Words, pairs, lanes -/

/-- The address Ga + sext of the low n bits of an immediate. -/
def effAddr (c : Core) (ra n imm : Nat) : Nat := (c.reg ra + sext n (imm % 2 ^ n)).toNat

/-- One word loaded, then given to the core. -/
def wordIn (dl : Dev) (x : Issue) (pl a : Nat) (f : Word → Core → Core) (d : Dev) : Res :=
  let m := x.core
  if deviceSpace x.core a then
    match mpuFault m pl 0 2 a 1 d with
    | some e => .error e
    | none => match integrity x 2 0 a d with
    | some e => .error e
    | none => match deviceLoad dl x pl a d with
    | (some v, d) => finishWith m (f v) (0x0A :: spaceCodes a) d
    | (none, d) => .ok (d, [])
  else match loadWords x pl 2 a 0 1 d with
  | .error e => .error e
  | .ok ws => finishWith m (f (ws.headD 0)) [0x0A] (noteLoads x 0 a 1 d)

/-- One word stored. -/
def wordOut (x : Issue) (pl a : Nat) (v : Word) (d : Dev) : Res :=
  let m := x.core
  if deviceSpace x.core a then
    match mpuFault m pl 1 3 a 1 d with
    | some e => .error e
    | none => finishWith m id (0x0B :: spaceCodes a) (deviceStore x pl a v d)
  else match storeWords x pl 3 a [v] d with
  | .error e => .error e
  | .ok d => finishWith m id [0x0B] d

/-- A load of a lane of a memory word: n address bits of the immediate, then the lane. -/
def laneLoad (x : Issue) (rd ra imm n : Nat) (pick : Nat → Word → Word) (dev : Dev) : Dev :=
  issue x (fun d =>
    let c := coreGet d x.core
    let a := effAddr c ra n imm
    if ¬ (regsOk [rd, ra] ∧ imm < 2 ^ 18) ∨ deviceSpace x.core a then encFault x.core d
    else match loadWords x c.pl 2 a 0 1 d with
    | .error e => .error e
    | .ok ws => finishWith x.core (fun c => c.setReg rd (pick (imm / 2 ^ n) (ws.headD 0))) [0x0A] (noteLoads x 0 a 1 d)) dev

/-- A store that changes one lane of a memory word. -/
def laneStore (x : Issue) (rd ra imm n : Nat) (put : Nat → Word → Word → Word) (dev : Dev) : Dev :=
  issue x (fun d =>
    let c := coreGet d x.core
    let a := effAddr c ra n imm
    if ¬ (regsOk [rd, ra] ∧ imm < 2 ^ 18) ∨ deviceSpace x.core a then encFault x.core d
    else match storeWords x c.pl 3 a [put (imm / 2 ^ n) (coreWord d x.core a) (c.reg rd)] d with
    | .error e => .error e
    | .ok d => finishWith x.core id [0x0B] d) dev

/-- Half lane l of a word, and octet lane l. -/
def halfOf (l : Nat) (w : Word) : Nat := fld w (18 * l + 17) (18 * l)
def octOf (l : Nat) (w : Word) : Nat := fld w (8 * l + 7) (8 * l)

def execLdw (x : Issue) (rd ra imm : Nat) (s : State) : Out :=
  onDev (issue x (fun d =>
    let c := coreGet d x.core
    if ¬ (regsOk [rd, ra] ∧ imm < 2 ^ 18) then encFault x.core d
    else wordIn (latchOf s x.core) x c.pl (effAddr c ra 18 imm) (fun v c => c.setReg rd v) d)) s

def execStw (x : Issue) (rd ra imm : Nat) (s : State) : Out :=
  onDev (issue x (fun d =>
    let c := coreGet d x.core
    if ¬ (regsOk [rd, ra] ∧ imm < 2 ^ 18) then encFault x.core d
    else wordOut x c.pl (effAddr c ra 18 imm) (c.reg rd) d)) s

/-- LDP: an even address and an even, non-zero d. -/
def execLdp (x : Issue) (rd ra imm : Nat) (s : State) : Out :=
  onDev (issue x (fun d =>
    let c := coreGet d x.core
    let a := effAddr c ra 18 imm
    if ¬ (regsOk [rd, ra] ∧ imm < 2 ^ 18) ∨ rd = 0 ∨ rd % 2 ≠ 0 ∨ a % 2 ≠ 0 ∨ deviceSpace x.core a then encFault x.core d
    else match loadWords x c.pl 2 a 0 2 d with
    | .error e => .error e
    | .ok ws => finishWith x.core (fun c => (c.setReg rd (ws.getD 0 0)).setReg (rd + 1) (ws.getD 1 0)) [0x0A] (noteLoads x 0 a 2 d))) s

def execStp (x : Issue) (rd ra imm : Nat) (s : State) : Out :=
  onDev (issue x (fun d =>
    let c := coreGet d x.core
    let a := effAddr c ra 18 imm
    if ¬ (regsOk [rd, ra] ∧ imm < 2 ^ 18) ∨ rd = 0 ∨ rd % 2 ≠ 0 ∨ a % 2 ≠ 0 ∨ deviceSpace x.core a then encFault x.core d
    else match storeWords x c.pl 3 a [c.reg rd, c.reg (rd + 1)] d with
    | .error e => .error e
    | .ok d => finishWith x.core id [0x0B] d)) s

def execLdh (x : Issue) (rd ra imm : Nat) (s : State) : Out := onDev (laneLoad x rd ra imm 17 (fun l w => wd (halfOf l w))) s
def execLdhs (x : Issue) (rd ra imm : Nat) (s : State) : Out := onDev (laneLoad x rd ra imm 17 (fun l w => sext 18 (halfOf l w))) s
def execSth (x : Issue) (rd ra imm : Nat) (s : State) : Out :=
  onDev (laneStore x rd ra imm 17 (fun l w v => setFld w (18 * l + 17) (18 * l) v.toNat)) s
def execLdo (x : Issue) (rd ra imm : Nat) (s : State) : Out := onDev (laneLoad x rd ra imm 16 (fun l w => wd (octOf l w))) s
def execLdos (x : Issue) (rd ra imm : Nat) (s : State) : Out := onDev (laneLoad x rd ra imm 16 (fun l w => sext 8 (octOf l w))) s
def execSto (x : Issue) (rd ra imm : Nat) (s : State) : Out :=
  onDev (laneStore x rd ra imm 16 (fun l w v => setFld w (8 * l + 7) (8 * l) v.toNat)) s

/-! ### Stack (R304) -/

/-- LDSP and STSP: the word at SP + zext(IMM18). -/
def execLdsp (x : Issue) (rd imm : Nat) (s : State) : Out :=
  onDev (issue x (fun d =>
    let c := coreGet d x.core
    let a := wrap36 (c.stk + imm)
    if ¬ (regsOk [rd] ∧ imm < 2 ^ 18) ∨ deviceSpace x.core a then encFault x.core d
    else wordIn (latchOf s x.core) x c.pl a (fun v c => c.setReg rd v) d)) s

def execStsp (x : Issue) (rd imm : Nat) (s : State) : Out :=
  onDev (issue x (fun d =>
    let c := coreGet d x.core
    let a := wrap36 (c.stk + imm)
    if ¬ (regsOk [rd] ∧ imm < 2 ^ 18) ∨ deviceSpace x.core a then encFault x.core d
    else wordOut x c.pl a (c.reg rd) d)) s

/-- ADJSP: a negative amount applies the push check to the new SP. -/
def execAdjsp (x : Issue) (imm : Nat) (s : State) : Out :=
  onDev (issue x (fun d =>
    let c := coreGet d x.core
    let n := wrap36 (c.stk + (sext 18 imm).toNat)
    if 2 ^ 18 ≤ imm then encFault x.core d
    else if imm.testBit 17 ∧ c.stk = 0 then .error (stackFault x.core 0 1 n d, d)
    else if imm.testBit 17 ∧ n < c.lim then .error (stackFault x.core 0 0 n d, d)
    else finishWith x.core (fun c => c.setStk n) [] d)) s

/-- PUSH: stack check, then the MPU's, then the word. -/
def execPush (x : Issue) (rd : Nat) (s : State) : Out :=
  onDev (issue x (fun d =>
    let c := coreGet d x.core
    if ¬ regsOk [rd] ∨ (c.stk ≠ 0 ∧ deviceSpace x.core (c.stk - 1)) then encFault x.core d
    else match pushCheck c.stk c.lim with
    | some t => .error (stackFault x.core 4 t (c.stk + 2 ^ 36 - 1) d, d)
    | none => match storeWords x c.pl 4 (c.stk - 1) [c.reg rd] d with
    | .error e => .error e
    | .ok d => finishWith x.core (fun k => k.setStk (c.stk - 1)) [] d)) s

/-- POP: SP at or above SL, the MPU's check, then the word. -/
def execPop (x : Issue) (rd : Nat) (s : State) : Out :=
  onDev (issue x (fun d =>
    let c := coreGet d x.core
    if ¬ regsOk [rd] ∨ deviceSpace x.core c.stk then encFault x.core d
    else if c.stk < c.lim then .error (stackFault x.core 5 0 c.stk d, d)
    else match loadWords x c.pl 5 c.stk 0 1 d with
    | .error e => .error e
    | .ok ws => finishWith x.core (fun k => (k.setReg rd (ws.headD 0)).setStk (wrap36 (c.stk + 1))) [] (noteLoads x 0 c.stk 1 d))) s

/-- LPC: PC + sext(IMM18). -/
def execLpc (x : Issue) (rd imm : Nat) (s : State) : Out :=
  onDev (issue x (fun d =>
    if regsOk [rd] ∧ imm < 2 ^ 18 then finishWith x.core (fun c => c.setReg rd (wd c.pc + sext 18 imm)) [] d else encFault x.core d)) s

/-! ### Reservation (R314) -/

/-- LDX: load and reserve the granule. -/
def execLdx (x : Issue) (rd ra : Nat) (s : State) : Out :=
  onDev (issue x (fun d =>
    let c := coreGet d x.core
    let a := (c.reg ra).toNat
    if ¬ regsOk [rd, ra] ∨ deviceSpace x.core a then encFault x.core d
    else match loadWords x c.pl 2 a 0 1 d with
    | .error e => .error e
    | .ok ws => finishWith x.core (fun k => { k.setReg rd (ws.headD 0) with resv := some (a / 8) }) [0x0A] (noteLoads x 0 a 1 d))) s

/-- The result of an STX: recorded, or in replay the recorded one; none where the replay diverges. -/
def stxResult (x : Issue) (c : Core) (a : Nat) (d : Dev) : Option Word × Dev :=
  let m := x.core
  if replayed d m then benchRead m 6 a d
  else
    let v : Word := if c.resv = some (a / 8) ∧ ¬ romWord m a then 0 else 1
    (some v, rplItem m 6 [a, v.toNat] d)

/-- STX: Gb stored if the reservation covers the address; Gd tells the outcome; the reservation is cleared. -/
def execStx (x : Issue) (rd rb ra : Nat) (s : State) : Out :=
  onDev (issue x (fun d =>
    let c := coreGet d x.core
    let a := (c.reg ra).toNat
    if ¬ regsOk [rd, rb, ra] ∨ deviceSpace x.core a then encFault x.core d
    else match mpuFault x.core c.pl 1 3 a 1 d with
    | some e => .error e
    | none => match stxResult x c a d with
    | (none, d) => .ok (d, [])
    | (some v, d) =>
      let d := if v = 0 then putWord x 0 a (c.reg rb) d else d
      finishWith x.core (fun k => { k.setReg rd v with resv := none }) (if v = 0 then [0x0B] else [0x0E]) d)) s

end Sys2Proof.Machine
end

