-- ==== Sys2Proof/Machine/Control.lean ====
section
/-! DEFINITION. CQ36 branches, jumps, calls and returns (Table 12.6, opcodes 0x48 to 0x54; R305, Tables 12.3, 12.9). -/

namespace Sys2Proof.Machine

/-- The core changed, then execution goes on at an address; the branch is counted. -/
def goTo (m pc : Nat) (f : Core → Core) (d : Dev) : Res := .ok (onCore d m (fun c => { f c with pc := pc }), [0x08])

/-- A target: the instruction's own address plus a sign-extended offset of n bits. -/
def target (c : Core) (n off : Nat) : Nat := wrap36 (c.pc + (sext n off).toNat)

/-- Branch to the target if the condition is met, else on to the next instruction. -/
def branchTo (x : Issue) (c : Core) (off : Nat) (taken : Bool) (d : Dev) : Res :=
  goTo x.core (if taken then target c 18 off else wrap36 (c.pc + 1)) id d

/-- A branch on a comparison of two registers. -/
def branch (cmp : Word → Word → Bool) (x : Issue) (ra rb off : Nat) (dev : Dev) : Dev :=
  issue x (fun d =>
    let c := coreGet d x.core
    if regsOk [ra, rb] ∧ off < 2 ^ 18 then branchTo x c off (cmp (c.reg ra) (c.reg rb)) d else encFault x.core d) dev

def execBeq (x : Issue) (ra rb off : Nat) (s : State) : Out := onDev (branch (fun a b => decide (a = b)) x ra rb off) s
def execBne (x : Issue) (ra rb off : Nat) (s : State) : Out := onDev (branch (fun a b => decide (a ≠ b)) x ra rb off) s
def execBlt (x : Issue) (ra rb off : Nat) (s : State) : Out := onDev (branch (fun a b => decide (a.toInt < b.toInt)) x ra rb off) s
def execBge (x : Issue) (ra rb off : Nat) (s : State) : Out := onDev (branch (fun a b => decide (b.toInt ≤ a.toInt)) x ra rb off) s
def execBltu (x : Issue) (ra rb off : Nat) (s : State) : Out := onDev (branch (fun a b => decide (a.toNat < b.toNat)) x ra rb off) s
def execBgeu (x : Issue) (ra rb off : Nat) (s : State) : Out := onDev (branch (fun a b => decide (b.toNat ≤ a.toNat)) x ra rb off) s

/-- BCC: a reserved condition has no encoding. -/
def execBcc (x : Issue) (cond off : Nat) (s : State) : Out :=
  onDev (issue x (fun d =>
    let c := coreGet d x.core
    match condMet (flagsOf c.sw) cond with
    | some t => if off < 2 ^ 18 then branchTo x c off t d else encFault x.core d
    | none => encFault x.core d)) s

def execJmp (x : Issue) (off : Nat) (s : State) : Out :=
  onDev (issue x (fun d =>
    if off < 2 ^ 28 then goTo x.core (target (coreGet d x.core) 28 off) id d else encFault x.core d)) s

def execJmpr (x : Issue) (ra : Nat) (s : State) : Out :=
  onDev (issue x (fun d =>
    if regsOk [ra] then goTo x.core ((coreGet d x.core).reg ra).toNat id d else encFault x.core d)) s

/-! ### Calls (R305, Table 12.3) -/

/-- The push checks of two words below s: the first that fails, and its DETAIL. -/
def callStack (s l : Nat) : Option (Nat × Nat) :=
  match pushCheck s l with
  | some t => some (s + 2 ^ 36 - 1, t)
  | none => (pushCheck (s - 1) l).map (fun t => (s + 2 ^ 36 - 2, t))

/-- The frame of a call: both words are checked before either is written. -/
def callTo (x : Issue) (pc : Nat) (d : Dev) : Res :=
  let c := coreGet d x.core
  let s := c.stk
  if s ≠ 0 ∧ (deviceSpace x.core (s - 1) ∨ (1 < s ∧ deviceSpace x.core (s - 2))) then encFault x.core d
  else match callStack s c.lim with
  | some f => .error (stackFault x.core 4 f.2 f.1 d, d)
  | none => match mpuFault x.core c.pl 1 4 (s - 1) 1 d with
  | some e => .error e
  | none => match storeWords x c.pl 4 (s - 2) [c.sw, wd (c.pc + 1)] d with
  | .error e => .error e
  | .ok d => goTo x.core pc (fun k => k.setStk (s - 2)) d

def execCall (x : Issue) (off : Nat) (s : State) : Out :=
  onDev (issue x (fun d =>
    if off < 2 ^ 28 then callTo x (target (coreGet d x.core) 28 off) d else encFault x.core d)) s

def execCallr (x : Issue) (ra : Nat) (s : State) : Out :=
  onDev (issue x (fun d =>
    if regsOk [ra] then callTo x ((coreGet d x.core).reg ra).toNat d else encFault x.core d)) s

/-- Pops of n words from SP on: stack check and the MPU's. -/
def popsFault (x : Issue) (pl s l n : Nat) (d : Dev) : Option (CoreFault × Dev) :=
  match (List.range n).find? (fun i => decide (wrap36 (s + i) < l)) with
  | some i => some (stackFault x.core 5 0 (s + i) d, d)
  | none => mpuFault x.core pl 0 5 s n d

/-- STILL taken from a popped SW, at P0 and P1. -/
def popStill (c : Core) (w : Word) : Core := if c.pl = 2 then c else { c with sw := setBit c.sw 2 (bit w 2) }

/-- RET: SW from SP, the return address from SP + 1. -/
def execRet (x : Issue) (s : State) : Out :=
  onDev (issue x (fun d =>
    let c := coreGet d x.core
    let sp := c.stk
    if deviceSpace x.core sp ∨ deviceSpace x.core (wrap36 (sp + 1)) then encFault x.core d
    else match popsFault x c.pl sp c.lim 2 d with
    | some e => .error e
    | none => match integrity x 5 0 sp d with
    | some e => .error e
    | none =>
      let w := coreWord d x.core sp
      if fld w 1 0 ≠ c.pl then privFault x.core d
      else match integrity x 5 1 (wrap36 (sp + 1)) d with
      | some e => .error e
      | none => goTo x.core (coreWord d x.core (wrap36 (sp + 1))).toNat (fun k => popStill (k.setStk (wrap36 (sp + 2))) w) d)) s

end Sys2Proof.Machine
end

