-- ==== Sys2Proof/Machine/Block.lean ====
section
/-! DEFINITION. CQ36 resumable block instructions (Table 12.6, opcodes 0x58 to 0x5B; R315, R316). -/

namespace Sys2Proof.Machine

/-- The operands of a block instruction: three distinct non-zero registers. -/
def blockOk (rd ra rb : Nat) : Bool :=
  regsOk [rd, ra, rb] && decide (rd ≠ 0 ∧ ra ≠ 0 ∧ rb ≠ 0 ∧ rd ≠ ra ∧ rd ≠ rb ∧ ra ≠ rb)

/-- An iteration's outcome: a fault, the device after the iteration, or the device where the iteration stops the instruction. -/
inductive Iter
  | fault (e : CoreFault × Dev)
  | more (d : Dev)
  | stop (d : Dev)
  deriving DecidableEq, Repr

/-- One word read by an iteration. -/
def blockRead (x : Issue) (pl a k : Nat) (d : Dev) : Except (CoreFault × Dev) Word :=
  match loadWords x pl 2 a k 1 d with
  | .ok ws => .ok (ws.headD 0)
  | .error e => .error e

def regUp (c : Core) (r : Nat) : Core := c.setReg r (c.reg r + 1)
def regDown (c : Core) (r : Nat) : Core := c.setReg r (c.reg r - 1)

/-- ENCODING of an iteration whose word lies in register space or the host window; FADDR is its address (Table 13.5). -/
def spaceFault (c : Core) (a : Nat) : CoreFault := { faultAt 0 c with addr := a }

/-- BMOVE: read [Ga], write [Gd], then both up and the count down. An iteration's words are number 2k and 2k + 1 of the instruction. -/
def iterMove (x : Issue) (rd ra rb k : Nat) (d : Dev) : Iter :=
  let m := x.core
  let c := coreGet d m
  if deviceSpace m (c.reg ra).toNat then .fault (spaceFault c (c.reg ra).toNat, d)
  else if deviceSpace m (c.reg rd).toNat then .fault (spaceFault c (c.reg rd).toNat, d)
  else match mpuFault m c.pl 0 2 (c.reg ra).toNat 1 d with
  | some e => .fault e
  | none => match mpuFault m c.pl 1 3 (c.reg rd).toNat 1 d with
  | some e => .fault e
  | none => match blockRead x c.pl (c.reg ra).toNat (2 * k) d with
  | .error e => .fault e
  | .ok w =>
    let d := noteLoads x (2 * k) (c.reg ra).toNat 1 d
    .more (onCore (putWord x (2 * k + 1) (c.reg rd).toNat w d) m (fun c => regDown (regUp (regUp c ra) rd) rb))

/-- BFILL: write Ga to [Gd]. -/
def iterFill (x : Issue) (rd ra rb k : Nat) (d : Dev) : Iter :=
  let m := x.core
  let c := coreGet d m
  if deviceSpace m (c.reg rd).toNat then .fault (spaceFault c (c.reg rd).toNat, d)
  else match mpuFault m c.pl 1 3 (c.reg rd).toNat 1 d with
  | some e => .fault e
  | none => .more (onCore (putWord x k (c.reg rd).toNat (c.reg ra) d) m (fun c => regDown (regUp c rd) rb))

/-- Z and C of a comparison that has found a difference. -/
def cmpFlags (c : Core) (z carry : Bool) : Core := { c with sw := withFlags c.sw { flagsOf c.sw with z := z, c := carry } }

/-- BCMP: compare [Ga] with [Gd]. Without FULL the first unequal pair stops it with Ga and Gb left there, Z cleared and C the unsigned comparison. With
FULL Z keeps whether every pair was equal, from an instruction's start on, which `fresh` tells (log entry 90). -/
def iterCmp (full fresh : Bool) (x : Issue) (rd ra rb k : Nat) (d : Dev) : Iter :=
  let m := x.core
  let c := coreGet d m
  let a := (c.reg ra).toNat
  let b := (c.reg rd).toNat
  let d := if full ∧ fresh ∧ k = 0 then onCore d m (fun c => cmpFlags c true (flagsOf c.sw).c) else d
  if deviceSpace m a then .fault (spaceFault c a, d)
  else if deviceSpace m b then .fault (spaceFault c b, d)
  else match mpuFault m c.pl 0 2 a 1 d with
  | some e => .fault e
  | none => match mpuFault m c.pl 0 2 b 1 d with
  | some e => .fault e
  | none => match blockRead x c.pl a (2 * k) d with
  | .error e => .fault e
  | .ok u => match blockRead x c.pl b (2 * k + 1) d with
  | .error e => .fault e
  | .ok v =>
    let d := noteLoads x (2 * k + 1) b 1 (noteLoads x (2 * k) a 1 d)
    if u ≠ v ∧ ¬ full then .stop (onCore d m (fun c => cmpFlags c false (decide (u.toNat < v.toNat))))
    else
      let f := flagsOf (coreGet d m).sw
      let z : Bool := decide (u = v) && f.z
      .more (onCore d m (fun c => regDown (regUp (regUp (if full then cmpFlags c z f.c else c) ra) rd) rb))

/-- BCMP has run out of words: Z is set where every pair was equal, with C then clear; C after a FULL comparison that met an unequal pair is a free
value, for the rules state none. -/
def cmpEnd (full : Bool) (m : Nat) (ran : Bool) (d : Dev) : Dev :=
  let f := flagsOf (coreGet d m).sw
  if ¬ ran then onCore d m (fun c => cmpFlags c true f.c)
  else if ¬ full ∨ f.z then onCore d m (fun c => cmpFlags c true false)
  else let w := drawWord d; onCore w.2 m (fun c => cmpFlags c false (bit w.1 0))

/-- One octet folded into a reflected CRC-32 with polynomial 0xEDB88320, no inversion. -/
def crcOctet (crc o : Nat) : Nat :=
  (List.range 8).foldl (fun r _ => if r % 2 = 1 then Nat.xor (r / 2) 0xEDB88320 else r / 2) (Nat.xor crc o)

/-- The four octets of a word folded in. -/
def crcWord (crc : Nat) (w : Word) : Nat := (List.range 4).foldl (fun r l => crcOctet r (octOf l w)) (crc % 2 ^ 32)

/-- BCRC. -/
def iterCrc (x : Issue) (rd ra rb k : Nat) (d : Dev) : Iter :=
  let m := x.core
  let c := coreGet d m
  if deviceSpace m (c.reg ra).toNat then .fault (spaceFault c (c.reg ra).toNat, d)
  else match blockRead x c.pl (c.reg ra).toNat k d with
  | .error e => .fault e
  | .ok w => .more (onCore (noteLoads x k (c.reg ra).toNat 1 d) m (fun c => regDown (regUp (c.setReg rd (wd (crcWord (c.reg rd).toNat w))) ra) rb))

/-- May a replayed core begin a further iteration, and is none of its events due? -/
def blockGoes (m : Nat) (d : Dev) : Bool :=
  !replayed d m || (mayIssue d m && (eventDue d m 0).isNone)

/-- Up to n further iterations: each counts in the progress count. Answers the fault that ended them, whether the instruction has ended by
itself, and the device. -/
def blockRun (m rb : Nat) (f : Nat → Dev → Iter) (limit : Nat) : Nat → Dev → Option CoreFault × Bool × Dev
  | 0, d => (none, false, d)
  | n + 1, d =>
    if (coreGet d m).reg rb = 0 ∨ ¬ blockGoes m d then (none, false, d)
    else match f (limit - (n + 1)) d with
    | .fault e => (some e.1, false, e.2)
    | .stop d => (none, true, onCore d m (fun c => { c with progress := c.progress + 1 }))
    | .more d => blockRun m rb f limit n (onCore d m (fun c => { c with progress := c.progress + 1 }))

/-- The end of a block instruction: RES clears, on to the next. -/
def blockEnd (m : Nat) (d : Dev) : Dev := onCore d m (fun c => { c.next with sw := setBit c.sw 3 false, inBlock := false })

/-- A block instruction given a number of iterations: it ends where Gb has reached 0, else it stays under way. A fault is taken as an interrupt between
iterations is: the iterations before it have had their effect. `fin` is what running out of words does, told whether there were any. -/
def blockBody (x : Issue) (rd ra rb iters : Nat) (fin : Bool → Dev → Dev) (f : Nat → Dev → Iter) (d : Dev) :
    Except (CoreFault × Dev) (Bool × Dev) :=
  let m := x.core
  if ¬ blockOk rd ra rb then .error (faultAt 0 (coreGet d m), d)
  else
    let ran : Bool := decide ((coreGet d m).reg rb ≠ 0)
    match blockRun m rb f iters iters d with
    | (some e, _, d) => .error (e, onCore d m (fun c => { c with inBlock := true }))
    | (none, ended, d) =>
      if ended then .ok (true, blockEnd m d)
      else if (coreGet d m).reg rb = 0 then .ok (true, blockEnd m (fin ran d))
      else .ok (false, onCore d m (fun c => { c with inBlock := true }))

/-- The fault that the next iteration of an instruction under way meets. -/
def blockFault (x : Issue) (rd ra rb iters : Nat) (f : Nat → Dev → Iter) (d : Dev) : Option (CoreFault × Dev) :=
  if coreLive d x.core ∧ (coreGet d x.core).inBlock ∧ blockOk rd ra rb then
    match blockRun x.core rb f (min iters 1) (min iters 1) d with
    | (some e, _, d) => some (e, d)
    | _ => none
  else none

/-- A block instruction issues. At a boundary between its iterations a fault is taken ahead of an interrupt; when it has not ended, the device is left with
the instruction under way. -/
def issueBlock (x : Issue) (rd ra rb iters : Nat) (fin : Bool → Dev → Dev) (f : Nat → Dev → Iter) (d : Dev) : Dev :=
  let body := fun d => blockBody x rd ra rb iters fin f d
  match (if badWord x then none else blockFault x rd ra rb iters f d) with
  | some e => raiseFault x.vec x.core e.1 (onCore e.2 x.core (fun c => { c with stepOne := false }))
  | none =>
    let ends : Bool := match body d with
      | .ok r => r.1
      | .error _ => true
    issueWith false ends x (fun d => match body d with
      | .ok r => .ok (r.2, [])
      | .error e => .error e) d

def noFin (_ : Bool) (d : Dev) : Dev := d

def execBmove (x : Issue) (rd ra rb iters : Nat) (s : State) : Out := onDev (issueBlock x rd ra rb iters noFin (iterMove x rd ra rb)) s
def execBfill (x : Issue) (rd ra rb iters : Nat) (s : State) : Out := onDev (issueBlock x rd ra rb iters noFin (iterFill x rd ra rb)) s
def execBcrc (x : Issue) (rd ra rb iters : Nat) (s : State) : Out := onDev (issueBlock x rd ra rb iters noFin (iterCrc x rd ra rb)) s
def execBcmp (x : Issue) (rd ra rb : Nat) (full : Bool) (iters : Nat) (s : State) : Out :=
  onDev (fun d =>
    let c := coreGet d x.core
    let fresh := !c.inBlock && !bit c.sw 3
    issueBlock x rd ra rb iters (cmpEnd full x.core) (iterCmp full fresh x rd ra rb) d) s

end Sys2Proof.Machine
end

