-- ==== Sys2Proof/Machine/System.lean ====
section
/-! DEFINITION. CQ36 system instructions (Table 12.6, opcodes 0x60 to 0x67; Tables 12.7, 12.10; R302, R311, R313, R317, R319, R326, R334, R351). -/

namespace Sys2Proof.Machine

/-- TRAP: vector 32 + FN, or TRAP_HIGH for FN of 32 or more; FADDR is FN and the resume PC is the instruction after it. -/
def execTrap (x : Issue) (fn : Nat) (s : State) : Out :=
  onDev (issue x (fun d =>
    let c := coreGet d x.core
    if 2 ^ 18 ≤ fn then encFault x.core d
    else .error (⟨if fn < 32 then 32 + fn else 7, 0, 0, fn, wrap36 (c.pc + 1)⟩, d))) s

/-! ### Return from exception -/

/-- ERET's last part: the frame left, SW and PC restored. -/
def leaveFrame (m stk : Nat) (w : Word) (pc : Nat) (d : Dev) : Res :=
  .ok (onCore d m (fun c =>
    let c := c.setStk (wrap36 (stk + 4))
    { c with bwdepth := c.bwdepth - 1, sw := w &&& 0xFF, pc := pc, resv := none }), [])

def execEret (x : Issue) (s : State) : Out :=
  onDev (issue x (fun d =>
    let m := x.core
    let c := coreGet d m
    let stk := c.stk
    let rights := if c.bwdepth ≠ 0 then 0 else c.pl
    if c.pl = 2 then privFault m d
    else if (List.range 4).any (fun i => deviceSpace m (wrap36 (stk + i))) then encFault m d
    else match popsFault x rights stk c.lim 4 d with
    | some e => .error e
    | none => match integrity x 5 2 (wrap36 (stk + 2)) d with
    | some e => .error e
    | none =>
      let w := coreWord d m (wrap36 (stk + 2))
      if fld w 1 0 = 3 ∨ fld w 1 0 < c.pl then privFault m d
      else match integrity x 5 3 (wrap36 (stk + 3)) d with
      | some e => .error e
      | none => leaveFrame m stk w (coreWord d m (wrap36 (stk + 3))).toNat d)) s

/-! ### Barriers, WAITPASS, features -/

/-- FENCE: order is kept already, for a model of instructions in order; FN of 2 and more has no encoding. -/
def execFence (x : Issue) (fn : Nat) (s : State) : Out :=
  onDev (issue x (fun d => if fn < 2 then finishWith x.core id [] d else encFault x.core d)) s

def execMpusync (x : Issue) (s : State) : Out :=
  onDev (issue x (fun d => if (coreGet d x.core).pl = 2 then privFault x.core d else finishWith x.core id [] d)) s

/-- WAITPASS: issue stops until the presentation of the next edge. In replay one reached below PROGRESS is a divergence. -/
def execWaitpass (x : Issue) (rd : Nat) (s : State) : Out :=
  onDev (issueWith true false x (fun d =>
    let m := x.core
    let d := notBlock m d
    if ¬ regsOk [rd] then encFault m d
    else if replayed d m ∧ (coreGet d m).progress < (rsect d m).progress then .ok (diverge m 3 d, [])
    else finishWith m (fun c => { c with waiting := some rd, resv := none }) [] d)) s

/-- Table 12.10: the feature registers of the core with a master identity. -/
def featWord (m n : Nat) : Word :=
  let sel := fun (h k f : Nat) => if isF m then f else if m = 1 then k else h
  match n with
  | 0 => pack [(0, 1), (8, 0), (16, 0x8256), (32, 4)]
  | 1 => pack [(0, 0x7F), (7, sel 0 1 0)]
  | 2 => pack [(0, sel 32 8 8), (10, sel 32 8 8), (20, 8), (24, sel 4 2 2)]
  | 3 => pack [(0, sel 1024 1024 512), (16, sel 0 256 0), (32, sel 1 1 0), (33, sel 1 1 0)]
  | 4 => pack [(0, sel 32 16 8)]
  | 5 => pack [(0, 3), (4, 8), (8, 48), (14, sel 1 0 0), (15, 1), (16, sel 2 1 1)]
  | 6 => pack [(0, sel 2 1 1), (2, sel 1500 400 800), (14, sel 75000 20000 40000)]
  | _ => pack [(0, sel 0 1 2), (2, sel (m - 0x10) 0 (m - 0x20)), (5, m)]

def execFeat (x : Issue) (rd n : Nat) (s : State) : Out :=
  onDev (issue x (fun d =>
    if regsOk [rd] ∧ n < 8 then finishWith x.core (fun c => c.setReg rd (featWord x.core n)) [] d else encFault x.core d)) s

/-! ### System registers (Table 12.7) -/

/-- May a level read a system register? `uacc` is PMU_UACC. -/
def sysReadable (pl : Nat) (uacc : Bool) (sr : Nat) : Bool :=
  if sr = 0 ∨ sr = 7 then true
  else if sr = 1 ∨ sr = 4 ∨ (9 ≤ sr ∧ sr ≤ 11) then decide (pl = 0)
  else if 16 ≤ sr then decide (pl ≠ 2) || uacc
  else decide (pl ≠ 2)

/-- May a level write it? A write to a read-only one is permitted, and dropped. -/
def sysWritable (pl sr : Nat) : Bool :=
  if sr = 0 ∨ sr = 7 ∨ 12 ≤ sr then true
  else if sr = 2 ∨ sr = 3 ∨ sr = 5 ∨ sr = 6 then decide (pl ≠ 2)
  else decide (pl = 0)

/-- The value of a system register, the cycle counter apart. -/
def sysValue (c : Core) (sr : Nat) : Word :=
  if sr = 0 then c.sw
  else if sr ≤ 3 then tabGet 0 c.sp (sr - 1)
  else if sr ≤ 6 then tabGet 0 c.sl (sr - 4)
  else match sr with
  | 7 => wd c.stk
  | 8 => c.vbase
  | 9 => c.bwbase
  | 10 => c.spb
  | 11 => c.slb
  | 12 => fcauseLive c.fcause c.bwdepth
  | _ => c.faddr

/-- A read of the cycle counter: a free value (no clock cycles are modelled). CYC_LO latches CYC_HI for the next read of it. -/
def cycRead (m sr : Nat) (d : Dev) : Word × Dev :=
  if sr = 16 then
    let lo := drawWord d
    let hi := drawWord lo.2
    (lo.1, onCore hi.2 m (fun c => { c with cycHi := some (wd (hi.1.toNat % 2 ^ 28)) }))
  else match (coreGet d m).cycHi with
    | some h => (h, onCore d m (fun c => { c with cycHi := none }))
    | none => let hi := drawWord d; (wd (hi.1.toNat % 2 ^ 28), hi.2)

/-- A read of the cycle counter as an admitted input: recorded, or in replay answered from the record. -/
def cycInput (m sr : Nat) (d : Dev) : Option Word × Dev :=
  if replayed d m then benchRead m 4 sr d
  else let r := cycRead m sr d; (some r.1, rplItem m 4 [sr, r.1.toNat] (recordRead r.2 m 4 r.1.toNat))

def execMfsr (x : Issue) (rd sr : Nat) (s : State) : Out :=
  onDev (issue x (fun d =>
    let m := x.core
    let c := coreGet d m
    if ¬ (regsOk [rd] ∧ sysReg sr) then encFault m d
    else if ¬ sysReadable c.pl (bit (rg d (pmuReg m 1)) 0) sr then privFault m d
    else if sr < 16 then finishWith m (fun c => c.setReg rd (sysValue c sr)) [] d
    else match cycInput m sr d with
    | (some v, d) => finishWith m (fun c => c.setReg rd v) [] d
    | (none, d) => .ok (d, []))) s

/-- R302: what MTSR to SW leaves, or its fault's vector. RES keeps its value and reserved bits are dropped. -/
def swWrite (sw v : Word) : Except Nat Word :=
  let flags := setFld sw 7 4 (fld v 7 4)
  let all := setFld (setFld flags 1 0 (fld v 1 0)) 2 2 (fld v 2 2)
  match fld sw 1 0 with
  | 0 => if fld v 1 0 = 3 then .error 0 else .ok all
  | 1 => if fld v 1 0 = 3 then .error 0 else if fld v 1 0 = 0 then .error 1 else .ok all
  | _ => if fld v 2 0 ≠ fld sw 2 0 then .error 1 else .ok flags

/-- A system register other than SW written. -/
def sysSet (sr : Nat) (v : Word) (c : Core) : Core :=
  if sr ≤ 3 then { c with sp := tabSet 0 c.sp (sr - 1) v }
  else if sr ≤ 6 then { c with sl := tabSet 0 c.sl (sr - 4) v }
  else match sr with
  | 7 => c.setStk v.toNat
  | 8 => { c with vbase := setFld v 5 0 0 }
  | 9 => if c.bwFixed then c else { c with bwbase := v, bwFixed := true }
  | 10 => { c with spb := v }
  | 11 => { c with slb := v }
  | _ => c

def execMtsr (x : Issue) (sr ra : Nat) (s : State) : Out :=
  onDev (issue x (fun d =>
    let m := x.core
    let c := coreGet d m
    let v := c.reg ra
    if ¬ (regsOk [ra] ∧ sysReg sr) then encFault m d
    else if ¬ sysWritable c.pl sr then privFault m d
    else if sr = 0 then
      match swWrite c.sw v with
      | .ok w => finishWith m (fun c => { c with sw := w }) [] d
      | .error f => .error (faultAt f c, d)
    else finishWith m (sysSet sr v) [] d)) s

end Sys2Proof.Machine
end

