-- ==== Sys2Proof/Machine/Debug.lean ====
section
/-! DEFINITION. The Towpath's access port (R354, R394, R395, Table 16.10): DBG_DATA and DBG_CORE. -/

namespace Sys2Proof.Machine

/-- Is the access port selected: DEBUG in the instruction register? -/
def portSelected (d : Dev) : Bool := decide (d.life.ir = 0x20) && portOpen d

/-- The DBG_STATUS.ERR bit set. -/
def dbgErr (d : Dev) : Dev := rgOr d Reg.DBG_STATUS 2

/-- R354: why a Towpath access to a word fails: a sealed word is an event of source 31 outside BLANK, a refusal by the regions is recorded. -/
def dbgRefused (right a : Nat) (d : Dev) : Option Dev :=
  if d.life.state ≠ 0 ∧ sealedWord d false a then some (tamperEvent 31 (dbgErr d))
  else (refusal d 2 2 0 right a).map (fun t => dbgErr (if d.life.state = 0 then d else mpuRecord 2 2 (2 + right) a t d))

/-- The access itself: register space through the bus, memory as it stands; read-only memory keeps its words. -/
def dbgRead (dl : Dev) (a : Nat) (d : Dev) : Word × Dev :=
  if 0xF00000000 ≤ a then (if a % 2 ^ 24 = Reg.DBG_DATA then (0, d) else regRead dl 2 0 (a % 2 ^ 24) d) else (memAny d a, d)

def dbgStore (a : Nat) (v : Word) (d : Dev) : Dev :=
  if 0xF00000000 ≤ a then busWrite 2 0 (a % 2 ^ 24) v d else if romWord 2 a then d else memWr d a v

/-- DBG_DATA_ACCESS: a read, or a write of a word, at DBG_ADDR, which then advances. Outside the session's SCOPE it acts as BYPASS and is one event
of source 32. -/
def dbgDataAccess (dl : Dev) (w : Option Word) (d : Dev) : Dev :=
  if ¬ portSelected d then d
  else if ¬ hasScope d 1 then tamperEvent 32 d
  else
    let a := rn d Reg.DBG_ADDR
    let d := rgSet d Reg.DBG_ADDR (wd (a + 1))
    match w with
    | some v => (match dbgRefused 1 a d with | some d => d | none => dbgStore a v d)
    | none =>
      let r := match dbgRefused 0 a d with | some d => (0, d) | none => dbgRead dl a d
      onLife (rdSet r.2 2 r.1) (fun l => { l with dr := leOct 5 r.1.toNat })

/-- Does core debug act on a core? -/
def debugsCore (d : Dev) (m : Nat) : Bool := isH m || isF m || (decide (m = 1) && decide (d.life.state ≤ 1))

/-- DBG_CORE_WRITE: the named core is halted or let go, or a halted core makes one step. -/
def dbgCoreWrite (v : Word) (d : Dev) : Dev :=
  if ¬ portSelected d then d
  else if ¬ hasScope d 0 then tamperEvent 32 d
  else
    let m := fld v 7 0
    let d := rgSet d Reg.DBG_CORE (v &&& 0x1FF)
    if debugsCore d m then onCore d m (fun c => { c with halted := bit v 8, stepOne := bit v 8 && bit v 9 }) else d

/-- A Towpath access to a register word by another command than DBG_DATA's: through the access port all the same (R394). -/
def towpathWord (right a : Nat) (act : Dev → Dev) (d : Dev) : Dev :=
  if ¬ portSelected d then d
  else if ¬ hasScope d 1 then tamperEvent 32 d
  else match dbgRefused right (0xF00000000 + a) d with
  | some d => d
  | none => act d

/-- An access by any master to a register word: the Towpath's goes through its port. -/
def byPort (right m a : Nat) (act : Dev → Dev) (d : Dev) : Dev := if m = 2 then towpathWord right a act d else act d

/-- LATCHED_LO_READ by any master. -/
def latchedLoTop (dl : Dev) (m a : Nat) (d : Dev) : Dev := byPort 0 m a (latchedLoRead dl m a) d

/-- CHAMBER_FIELD_WRITE by any master. -/
def chamberFieldTop (m a : Nat) (v : Word) (d : Dev) : Dev := byPort 1 m (a % 2 ^ 24) (chamberFieldWrite m a v) d

/-- A chamber command by any master. -/
def chamberTop (m action : Nat) (d : Dev) : Dev := byPort 1 m Reg.CHM_CMD (chamberCommand m action) d

/-- REGISTER_WRITE, the Towpath's own words included. -/
def regWriteTop (dl : Dev) (m pl a v : Nat) (d : Dev) : Dev :=
  let b := a % 2 ^ 24
  let w := wd (v % 2 ^ 36)
  if m = 2 ∧ b = Reg.DBG_ADDR then (if ¬ portSelected d then d else if ¬ hasScope d 1 then tamperEvent 32 d else rgSet d b w)
  else if m = 2 ∧ b = Reg.DBG_DATA then dbgDataAccess dl (some w) d
  else if m = 2 ∧ b = Reg.DBG_CORE then dbgCoreWrite w d
  else byPort 1 m b (registerWrite m pl a v) d

end Sys2Proof.Machine
end

