-- ==== Sys2Proof/Machine/Pcie.lean ====
section
/-! DEFINITION. The PCIe functions (R84 to R86, R88): Function Level Reset, D3hot, link loss and link up, configuration writes, MSI-X table writes;
ring set-up commands. -/

namespace Sys2Proof.Machine

/-! ### Reset of a function (R86) -/

/-- The rings of a function, rising. -/
def fnRings (d : Dev) (f : Nat) : List Nat := (List.range 1024).filter (fun r => decide (ringFn d r = f))

/-- One ring is DISABLED, its bases, SIZE and INT at their reset values. -/
def ringClear (d : Dev) (r : Nat) : Dev :=
  let d := [0, 1, 2, 3, 4, 6].foldl (fun d k => { d with regs := tabErase d.regs (Reg.WHF_SQ_BASE_LO + 8 * r + k) }) d
  ringSet d r { state := .disabled, epoch := (ringGet d r).epoch }

/-- One operation of the function: not admitted, it is discarded; a Grinder job stops at once, and one whose result waits is wiped, both counted;
any other admitted one runs to its end. -/
def fnDiscard (d : Dev) (o : Op) : Dev :=
  if o.phase = .fetched ∨ o.phase = .staged then dropOp (unreserve d o.id) o.id
  else if o.phase = .admitted ∧ o.opcode ≠ 0x30 then setOp d { o with dead := true }
  else
    let d := dropOp (unreserve (dropCurve (forgetJob d o.id false) o) o.id) o.id
    if o.admitAt = 0 then d else rgAdd d Reg.WHF_LATE_DISCARDS 1

/-- The operations of a function's rings. -/
def fnOps (d : Dev) (f : Nat) : List Op := d.ops.filter (fun o => match o.src with | .ring r _ => decide (ringFn d r = f) | _ => false)

/-- Key slots whose owner is the function are erased. -/
def fnSlots (d : Dev) (f : Nat) : Dev :=
  (d.slots.filter (fun e => decide (e.2.state ≠ 0) && decide (e.2.owner = 0x40 + f))).foldl (fun d e => eraseSlot d e.1) d

/-- What a Function Level Reset, D3hot and link loss all do to a function. -/
def fnQuiet (f : Nat) (d : Dev) : Dev :=
  let rings := fnRings d f
  let d := (fnOps d f).foldl fnDiscard d
  let d := rings.foldl ringClear d
  let d := ownerWipe (0x40 + f) (fnSlots d f)
  if f = 0 ∧ d.chm.state ≠ .empty ∧ d.chm.owner = 0x40 then chmEmpty d else d

/-- FUNCTION_LEVEL_RESET: the function's MSI-X state and Bus Master Enable return to their reset values too. The largest read request returns to its
default; the largest payload, the ECRC enables and the AER status stay, as the PCIe specification has them. PRESUMED (log entry 76). -/
def flr (f : Nat) (d : Dev) : Dev :=
  if 64 ≤ f then d
  else
    let d := mbxGone (0x40 + f) (fnQuiet f d)
    { d with msix := tabErase d.msix f, pcieBme := tabErase d.pcieBme f, d3 := tabErase d.d3 f,
             pcie := tabMod {} d.pcie f (fun x => { x with maxRead := 2 }) }

/-- D3HOT_ENTRY. -/
def d3hotEntry (f : Nat) (d : Dev) : Dev :=
  if 64 ≤ f then d else let d := mbxGone (0x40 + f) (fnQuiet f d); { d with d3 := tabSet false d.d3 f true }

/-- PCIE_LINK_LOSS, or a PCIe hot reset: every function, then what the reset map gives the hot reset. -/
def linkLoss (hot : Bool) (d : Dev) : Dev :=
  let d := (List.range 64).foldl (fun d f => flr f d) d
  let d := { d with linkUp := false, linkWidth := 0, linkSpeed := 0, numVfs := 0, pcie := [] }
  if hot then sourceAssert 12 0 d else d

/-- PCIE_LINK_UP: the link is trained to a width and a speed (1 2.5, 2 5, 3 8, 4 16, 5 32 GT/s), and enters L0. -/
def pcieLinkUp (width speed : Nat) (d : Dev) : Dev := { d with linkUp := true, linkWidth := width, linkSpeed := speed }

/-- The configuration of one function, changed. -/
def onPcie (f : Nat) (g : PcieFn → PcieFn) (d : Dev) : Dev := if f < 64 then { d with pcie := tabMod {} d.pcie f g } else d

/-! ### Configuration space and MSI-X (R84, R88) -/

/-- PCIE_CONFIGURATION_WRITE. Codes of the largest payload (0 to 2: 128, 256, 512 octets) and read request (0 to 5: 128 to 4,096 octets) are those of
the PCIe specification; one beyond Table 3.1's range is dropped. PRESUMED (log entry 76). -/
def pcieConfig (w : PcieCfg) (d : Dev) : Dev :=
  match w with
  | .busMaster f on => if f < 64 then { d with pcieBme := tabSet false d.pcieBme f on } else d
  | .powerD0 f => { d with d3 := tabErase d.d3 f }
  | .numVfs n => if n < 64 then { d with numVfs := n } else d
  | .maxPayload f c => if c ≤ 2 then onPcie f (fun x => { x with maxPayload := c }) d else d
  | .maxReadRequest f c => if c ≤ 5 then onPcie f (fun x => { x with maxRead := c }) d else d
  | .ecrc f g c => onPcie f (fun x => { x with ecrcGen := g, ecrcCheck := c }) d
  | .aerClear f b => onPcie f (fun x => { x with aer := x.aer.filter (fun y => decide (y ≠ b)) }) d

/-- Entries of a function's MSI-X table. -/
def msixCount (f : Nat) : Nat := if f = 0 then 2048 else 64

/-- Messages of the vectors that are pending and no longer masked are sent. -/
def msixFlush (f : Nat) (d : Dev) : Dev :=
  let m := msixGet d f
  if m.enable && !m.fmask then
    (m.pba.filter (fun e => e.2 && tabGet false m.open_ e.1)).foldl (fun d e =>
      let m := msixGet d f
      fireVec { d with msix := tabSet {} d.msix f { m with pba := tabSet false m.pba e.1 false } } f e.1) d
  else d

/-- MSIX_TABLE_WRITE. -/
def msixWrite (w : MsixWr) (d : Dev) : Dev :=
  match w with
  | .entry f v addr data masked =>
    if ¬ (f < 64 ∧ v < msixCount f) then d
    else
      let m := msixGet d f
      msixFlush f { d with msix := tabSet {} d.msix f { m with addr := tabSet 0 m.addr v addr, data := tabSet 0 m.data v data,
                                                               open_ := tabSet false m.open_ v (!masked) } }
  | .control f on mask =>
    if 64 ≤ f then d
    else msixFlush f { d with msix := tabSet {} d.msix f { msixGet d f with enable := on, fmask := mask } }

/-! ### Ring commands (R63, R81, R84, R85) -/

/-- A write of a ring's SIZE_LOG2 by a master that reaches the word. -/
def ringSizeWrite (m r log2 : Nat) (d : Dev) : Dev :=
  let a := Reg.WHF_RING_SIZE + 8 * r
  if r < 1024 ∧ reachesWord d m a then fromMaster m (0xF00000000 + a) (fun d => writeRingSize d r log2) d else d

/-- RING_ENABLE: a non-zero SIZE_LOG2 written. -/
def ringEnable (m r log2 : Nat) (d : Dev) : Dev := if log2 % 32 ≠ 0 then ringSizeWrite m r (log2 % 32) d else d

/-- RING_DRAIN: SIZE_LOG2 = 0 written. -/
def ringDrain (m r : Nat) (d : Dev) : Dev := ringSizeWrite m r 0 d

/-- RING_DISABLE: nothing of a DRAINING or STOPPED ring is in flight any more: the next edge makes it DISABLED. -/
def ringDisable (r : Nat) (d : Dev) : Dev :=
  let x := ringGet d r
  if (x.state = .draining ∨ x.state = .stopped) ∧ (ringOps d r).isEmpty then ringSet d r { x with drained := true } else d

/-- COMPLETION_WRITE: the completions of a ring that can be written. -/
def completionWrite (r : Nat) (d : Dev) : Dev := postRing d.ops.length r d

/-- HELD_COMPLETION: in HOLD the completions that are due are written, ring by ring in order. -/
def heldCompletion (d : Dev) : Dev := if d.keep.hold then postAll d else d

/-- DESCRIPTOR_FETCH: up to 16 descriptors of one ring. -/
def descFetch (r : Nat) (descs : List Octets) (d : Dev) : Dev := (descs.take 16).foldl (fetchOne r) d

/-- STAGING_COMPLETE: of a Grinder job, or of any other operation. -/
def stagingComplete (r pos : Nat) (data : Octets) (d : Dev) : Dev :=
  match ringOpAt d r pos with
  | some o => if o.opcode = 0x30 then stageJob r pos data d else stageDone r pos data d
  | none => d

end Sys2Proof.Machine
end

