-- ==== Sys2Proof/Machine/Requests.lean ====
section
/-! DEFINITION. Helpers of the commands' meanings: a descriptor placed on a ring, an operation ended by a check code failure, events that apply when
they are due, and the arrival of a barge of a given type. -/

namespace Sys2Proof.Machine

/-! ### Descriptors (Tables 3.12 to 3.14) -/

/-- The host has placed one descriptor at a ring's head, and the Wharf fetches it (R72). -/
def placeDesc (ring opcode : Nat) (h : DescHdr) (fs : List (Nat × Nat × Nat)) (d : Dev) : Dev := fetchOne ring d (mkDesc opcode h fs)

def cipherFields (b : CipherBody) : List (Nat × Nat × Nat) :=
  [(8, 2, b.slot), (10, 1, b.mode), (11, 1, b.flags), (12, 4, b.aadLen), (16, 4, b.payLen), (20, 1, b.ivLen), (21, 1, b.tagLen),
   (24, 8, b.src), (32, 8, b.dst), (40, 16, leNat (b.iv.take 16)), (56, 8, b.tagAddr)]

def hashFields (b : HashBody) : List (Nat × Nat × Nat) := [(8, 2, b.slot), (10, 1, b.alg), (16, 4, b.len), (24, 8, b.src), (32, 8, b.dst)]

def jobFields (b : JobBody) : List (Nat × Nat × Nat) :=
  [(8, 2, b.recipe), (10, 1, b.curve), (11, 1, b.unit), (12, 2, b.slot), (16, 2, b.opCount), (18, 2, b.resCount), (24, 8, b.opList), (32, 8, b.resList)]

/-! ### Check code failures of an engine's operation (R357 to R359) -/

/-- The failure ends the operation with INTEGRITY_FAULT; its outputs are undefined. -/
def opIntegrity (w : WccAt) (o : Op) (d : Dev) : Dev :=
  let d := wccFail (w.seg % 7) o.engine w.addr w.stage d
  let d := if o.opcode = 0x30 then dropCurve (forgetJob d o.id false) o else d
  finish (unreserve (scribble o d) o.id) { o with status := St.integrity, sub := 0, outs := [], resLen := 0, slot := none, key := none, ext := false }

/-- An operation's completion, or the check code failure that ends it. -/
def orIntegrity (w : Option WccAt) (which : Dev → Option Op) (done : Dev → Dev) (d : Dev) : Dev :=
  match w with
  | none => done d
  | some w => match which d with
    | some o =>
      if ¬ wccFails w.stage o.engine w.addr (memAny d w.addr) (memAny d (beatMate w.addr)) w.err then done d
      else if o.phase = .admitted then opIntegrity w o d else d
    | none => d

/-! ### Events that apply when they are due -/

/-- KEY_EXHAUSTION (R96): a loaded slot whose COUNT has reached its LIMIT. -/
def keyExhausted (i : Nat) (d : Dev) : Dev :=
  let s := slotGet d i
  if s.state = 1 ∧ s.limit ≤ s.count then
    let d := slotSet d i { s with state := 2 }
    if s.exhaust = 1 then exhaustNotice d i d.pas.count else d
  else d

/-- SA_FREEZE (R137): an SA that has used the largest PN. -/
def saFreeze (s : Nat) (d : Dev) : Dev := if pnMax (saCtl d s) < (saGet d s).next then freezeSa (saLink (saCtl d s)) s d else d

/-! ### Barges by type (R287, Table 11.3) -/

/-- The barge at the front of its lane arrives with every check passed, if it is of the type. -/
def typedReceive (type : Nat) (d : Dev) : Dev :=
  match typeLane type with
  | some (lane, toField) =>
    (match tabGet [] d.lkg.wire (laneKey toField lane) with
     | b :: _ => if b.type = type then bargeReceive toField lane [] d else d
     | [] => d)
  | none => d

end Sys2Proof.Machine
end

