-- ==== Sys2Proof/Machine/ExecBarges.lean ====
section
/-! DEFINITION. Meanings of the commands: the Lockgate and mailboxes (chapter 11). One definition for each. -/

namespace Sys2Proof.Machine

/-- BARGE_SEND (R281). A send queue's barge is sent on its lane when the lane is free and its budget holds a slot. -/
def execBargeSend (toField : Bool) (lane : Nat) (s : State) : Out := onDev (bargeSend toField lane) s

/-- BARGE_RECEIVE (R285). A barge arrives at the receiving end and its word check codes and SEQ are checked. -/
def execBargeReceive (toField : Bool) (lane : Nat) (errs : List Nat) (s : State) : Out := onDev (bargeReceive toField lane errs) s

/-- BARGE_QUEUE_WRITE (R286). A barge held for a full receive queue is written when the queue has room. -/
def execBargeQueueWrite (toField : Bool) (lane : Nat) (s : State) : Out := onDev (bargeQueueWrite toField lane) s

/-- LKG_TXQ_TAIL_WRITE (R291). A write to LKG_TXQ_TAIL makes a core's send ring entries available to the Lockgate at once. -/
def execLkgTxqTailWrite (m : Nat) (v : Word) (s : State) : Out := onDev (txqTailWrite m v) s

/-- LKG_RXQ_HEAD_WRITE (R291). A write to LKG_RXQ_HEAD consumes receive ring entries. -/
def execLkgRxqHeadWrite (m : Nat) (v : Word) (s : State) : Out := onDev (rxqHeadWrite m v) s

/-- PRESENCE_REPORT (R287). A PRESENCE_REPORT barge from a field core is routed to a host core. -/
def execPresenceReport (s : State) : Out := onDev (typedReceive 0x01) s

/-- CHAIN_GRANT (R241). A CHAIN_GRANT barge reports a flight pair's grants and ends to site firmware. -/
def execChainGrant (s : State) : Out := onDev (typedReceive 0x02) s

/-- CRED_QUERY (R202). A CRED_QUERY barge asks the credential engine to look up a digest. -/
def execCredQuery (s : State) : Out := onDev (typedReceive 0x03) s

/-- CRED_ANSWER (R202). A CRED_ANSWER barge carries a lookup's status, verdict, epoch and entry to the querying core. -/
def execCredAnswer (s : State) : Out := onDev (typedReceive 0x04) s

/-- CRYPTO_REQUEST (R290). A CRYPTO_REQUEST barge asks a cipher or hash lane for an operation under a field-usable slot. -/
def execCryptoRequest (s : State) : Out := onDev (typedReceive 0x05) s

/-- CRYPTO_ANSWER (R290). A CRYPTO_ANSWER barge carries an operation's status and output to the requester. -/
def execCryptoAnswer (s : State) : Out := onDev (typedReceive 0x06) s

/-- AUDIT_RECORD (R287). An AUDIT_RECORD barge from a field core is routed to a host core. -/
def execAuditRecord (s : State) : Out := onDev (typedReceive 0x07) s

/-- HEALTH (R287). A HEALTH barge from a field core is routed to a host core. -/
def execHealth (s : State) : Out := onDev (typedReceive 0x08) s

/-- CONFIG_PUSH (R289). A CONFIG_PUSH barge stages configuration, calibration, a discard or partition requests at the field end. -/
def execConfigPush (s : State) : Out := onDev (typedReceive 0x09) s

/-- CONFIG_ACK (R289). A CONFIG_ACK barge confirms staged entries or reports field partition state changes. -/
def execConfigAck (s : State) : Out := onDev (typedReceive 0x0A) s

/-- FIRMWARE_BLOCK (R287). A FIRMWARE_BLOCK barge writes field image words into field SRAM during start-up. -/
def execFirmwareBlock (s : State) : Out := onDev (typedReceive 0x0B) s

/-- DRAW_FILL (R187). A DRAW_FILL barge delivers a field core's software draws for presentation at the next edge. -/
def execDrawFill (s : State) : Out := onDev (typedReceive 0x0C) s

/-- CHALLENGE (R267). The Hopper sends one CHALLENGE barge per qualifying edge to the tag challenge store. -/
def execChallenge (s : State) : Out := onDev (typedReceive 0x0D) s

/-- REPLAY_INPUT (R287). A REPLAY_INPUT barge delivers replay inputs to the field end in REPLAY mode. -/
def execReplayInput (s : State) : Out := onDev (typedReceive 0x0E) s

/-- REPLAY_LOG (R436). A REPLAY_LOG barge carries part of a field core's replay section to the recorder. -/
def execReplayLog (s : State) : Out := onDev (typedReceive 0x0F) s

/-- FIELD_MESSAGE (R291). A FIELD_MESSAGE barge from a host core is delivered to the named field core. -/
def execFieldMessage (s : State) : Out := onDev (typedReceive 0x10) s

/-- CORE_STOP (R338). A CORE_STOP barge carries a stopped field core's stop record to K. -/
def execCoreStopBarge (s : State) : Out := onDev (typedReceive 0x11) s

/-- MBX_SEND (R293). A write to MBX_SEND copies the composed message into the channel, overwriting and setting COLLIDED if FULL. -/
def execMbxSend (m channel : Nat) (s : State) : Out := onDev (mbxSend m channel) s

/-- MBX_ACK (R294). A write to MBX_ACK clears FULL at the next edge if SEQ matches and gives the sender DONE. -/
def execMbxAck (m channel seq : Nat) (s : State) : Out := onDev (mbxAck m channel seq) s

/-- MAILBOX_TIMEOUT (R295). An unacknowledged message at edge v + T, or a receiver in reset or stopped, gives the sender TIMEOUT. -/
def execMailboxTimeout (channel : Nat) (s : State) : Out := onDev (mbxTimeout channel) s

/-- MAILBOX_SEND_ARRIVAL (R296). The Wharf's read of a function's mailbox OUT data completes and the send arrives at the channel. -/
def execMailboxSendArrival (channel : Nat) (words : List Word) (s : State) : Out := onDev (mbxArrival channel words) s

end Sys2Proof.Machine
end

