-- ==== Sys2Proof/Machine/ExecCardEvents.lean ====
section
/-! DEFINITION. Meanings of the commands: SD and officer cards (chapter 18). One definition for each. -/

namespace Sys2Proof.Machine

/-- CARD_INSERTION (R413). An SD card is seated and its debounce starts. -/
def execCardInsertion (slot : Nat) (s : State) : Out := onDev (cardInsert slot) s

/-- CARD_IDENTIFICATION (R414). After the debounce the SD host identifies and classifies the card. -/
def execCardIdentification (slot : Nat) (found : SdCard) (s : State) : Out := onDev (cardIdentify slot found) s

/-- CARD_REMOVAL (R423). Removal of an SD card ends any write with CARD_ABSENT and records the spent block. -/
def execCardRemoval (slot : Nat) (sent : Bool) (s : State) : Out := onDev (cardRemove slot sent) s

/-- RECORD_WRITE (R421). The writer writes the next buffered record to its next block and removes it on success. -/
def execRecordWrite (slot fails : Nat) (s : State) : Out := onDev (recordWrite slot fails) s

/-- SD_BUSY_TIMEOUT (R415). A card busy beyond 10,000 passes ends the write with TIMEOUT 0x01. -/
def execSdBusyTimeout (slot : Nat) (s : State) : Out := onDev (busyTimeout slot) s

/-- APPEND (R418). SDH_CMD APPEND seals an audit record into the buffer at admission. -/
def execAppend (m pl : Nat) (wcc : Option WccAt) (s : State) : Out := onDev (fun d => sdhCmd m pl 1 d wcc) s

/-- SD_READ (R425). SDH_CMD READ copies card blocks into a buffer. -/
def execSdRead (m pl : Nat) (wcc : Option WccAt) (s : State) : Out := onDev (fun d => sdhCmd m pl 2 d wcc) s

/-- SD_OPEN (R421). SDH_CMD OPEN writes a CARD_OPEN record to a BLANK slot. -/
def execSdOpen (m pl : Nat) (s : State) : Out := onDev (sdhCmd m pl 3) s

/-- SD_CLOSE (R422). SDH_CMD CLOSE closes an OPEN card. -/
def execSdClose (m pl : Nat) (s : State) : Out := onDev (sdhCmd m pl 4) s

/-- PROTECT_PERM (R416). SDH_CMD PROTECT_PERM sets PERM_WRITE_PROTECT on a CLOSED card. -/
def execProtectPerm (m pl : Nat) (s : State) : Out := onDev (sdhCmd m pl 5) s

/-- OFFICER_CARD_PRESENCE (R426). PRES_N changes as an officer card is seated or removed, deactivating on removal. -/
def execOfficerCardPresence (card : Nat) (present : Bool) (s : State) : Out := onDev (officerPresence (card % 2) present) s

/-- ACTIVATE (R426). OFC_CMD ACTIVATE powers and resets an officer card and reads its ATR. -/
def execActivate (m pl card : Nat) (s : State) : Out := onDev (ofcCmd m pl 1 (card % 2)) s

/-- OFFICER_AUTH (R428). OFC_CMD AUTH authenticates an officer card against the roster and opens a session. -/
def execOfficerAuth (m pl card : Nat) (s : State) : Out := onDev (ofcCmd m pl 2 (card % 2)) s

/-- APPROVE (R429). OFC_CMD APPROVE has the session's card sign the chamber approval. -/
def execApprove (m pl card : Nat) (s : State) : Out := onDev (ofcCmd m pl 3 (card % 2)) s

/-- DEACTIVATE (R428). OFC_CMD DEACTIVATE ends the session and deactivates the card. -/
def execDeactivate (m pl card : Nat) (s : State) : Out := onDev (ofcCmd m pl 4 (card % 2)) s

/-- OFFICER_SESSION_EXPIRY (R428). An officer session ends after OFC_SESSION_LIFE passes. -/
def execOfficerSessionExpiry (card : Nat) (s : State) : Out := onDev (sessionExpiry (card % 2)) s

/-- OFFICER_CARD_TIMEOUT (R429). An officer card not answering within its waiting time ends the exchange with TIMEOUT 0x02. -/
def execOfficerCardTimeout (card : Nat) (s : State) : Out := onDev (officerTimeout (card % 2)) s

/-- OFFICER_CARD_ANSWER (R426). An officer card sends its ATR or an APDU response, moving the interface from ACTIVATING to ACTIVE or advancing an
exchange. -/
def execOfficerCardAnswer (card : Nat) (atrs : List (Nat × Octets)) (rsp : Octets) (s : State) : Out := onDev (officerAnswer (card % 2) atrs rsp) s

end Sys2Proof.Machine
end

