-- ==== Sys2Proof/Machine/ExecChains.lean ====
section
/-! DEFINITION. Meanings of the commands: contactless chains (chapter 10). One definition for each. -/

namespace Sys2Proof.Machine

/-- CHN_FQ_TAIL_WRITE (R248). A write to CHN_FQ_TAIL is a doorbell for the chain's frame entries, visible at the next edge. -/
def execChnFqTailWrite (m chain : Nat) (v : Word) (s : State) : Out := onDev (fqTailWrite m chain v) s

/-- ACTIVATE_A (R252). An ACTIVATE_A entry runs Type A REQA or WUPA, anticollision, SELECT and optionally RATS. -/
def execActivateA (chain : Nat) (answers : List AirAns) (s : State) : Out := onDev (activateA chain answers) s

/-- ACTIVATE_B (R253). An ACTIVATE_B entry runs REQB or WUPB with slots and ATTRIB. -/
def execActivateB (chain : Nat) (answers : List AirAns) (s : State) : Out := onDev (activateB chain answers) s

/-- EXCHANGE (R254). An EXCHANGE entry sends one frame and receives one within FWT. -/
def execExchange (chain air : Nat) (frame : Octets) (s : State) : Out := onDev (exchange chain air frame) s

/-- EMU_ARM (R257). An EMU_ARM entry sets the emulated identity and answers activation up to the ATS. -/
def execEmuArm (chain : Nat) (rats : Octets) (s : State) : Out := onDev (emuArm chain rats) s

/-- EMU_RECEIVE (R258). An EMU_RECEIVE entry ends with the held reader frame, waiting if none is held. -/
def execEmuReceive (chain : Nat) (s : State) : Out := onDev (emuReceive chain) s

/-- EMU_RESPOND (R259). An EMU_RESPOND entry sends its response to the held frame and releases it. -/
def execEmuRespond (chain : Nat) (s : State) : Out := onDev (emuRespond chain) s

/-- ENTRY_COMPLETION (R251). An entry's results are written and CHN_FQ_HEAD advanced at step 8 of the next field edge. -/
def execEntryCompletion (chain : Nat) (s : State) : Out := onDev (entryCompletion chain) s

/-- WTX_REQUEST_RECEIVED (R255). With WTX_AUTO the chain answers a card's S(WTX) request and reopens the receive window. -/
def execWtxRequestReceived (chain wtxm : Nat) (s : State) : Out := onDev (wtxRequest chain wtxm) s

/-- READER_FRAME_RECEIVED (R258). In EMULATE a reader frame is held, replacing any held frame, or ignored on bad CRC or parity. -/
def execReaderFrameReceived (chain : Nat) (good : Bool) (frame : Octets) (s : State) : Out := onDev (readerFrame chain good frame) s

/-- EMU_WTX_TIMER (R260). When WTX_AT percent of FWT elapses with no response sent, the chain sends an S(WTX) request. -/
def execEmuWtxTimer (chain : Nat) (s : State) : Out := onDev (emuWtxTimer chain) s

/-- EMU_FIELD_LOST (R261). The external field absent for 100 µs ends emulation entries with FIELD_LOST. -/
def execEmuFieldLost (chain : Nat) (s : State) : Out := onDev (emuFieldLost chain) s

end Sys2Proof.Machine
end

