-- ==== Sys2Proof/Machine/ExecDescriptors.lean ====
section
/-! DEFINITION. Meanings of the commands: descriptors placed on rings (Tables 3.12 to 3.14). One definition for each. -/

namespace Sys2Proof.Machine

/-- ENCRYPT (R92). An ENCRYPT descriptor encrypts the payload under a key slot in the named mode and writes output and tag. -/
def execEncrypt (ring : Nat) (h : DescHdr) (b : CipherBody) (s : State) : Out := onDev (placeDesc ring 0x10 h (cipherFields b)) s

/-- DECRYPT (R109). A DECRYPT descriptor decrypts the payload and checks the tag, posting DONE_UNTRUSTED on mismatch. -/
def execDecrypt (ring : Nat) (h : DescHdr) (b : CipherBody) (s : State) : Out := onDev (placeDesc ring 0x11 h (cipherFields b)) s

/-- MAC_GENERATE (R92). A MAC_GENERATE descriptor computes a CMAC tag and writes it to TAG_ADDR. -/
def execMacGenerate (ring : Nat) (h : DescHdr) (b : CipherBody) (s : State) : Out := onDev (placeDesc ring 0x12 h (cipherFields b)) s

/-- MAC_VERIFY (R112). A MAC_VERIFY descriptor compares a CMAC with the expected tag in constant time and writes nothing. -/
def execMacVerify (ring : Nat) (h : DescHdr) (b : CipherBody) (s : State) : Out := onDev (placeDesc ring 0x13 h (cipherFields b)) s

/-- HASH (R94). A HASH descriptor computes a SHA-2 or SHA-3 digest of the source. -/
def execHash (ring : Nat) (h : DescHdr) (b : HashBody) (s : State) : Out := onDev (placeDesc ring 0x20 h (hashFields b)) s

/-- HMAC (R94). An HMAC descriptor computes an HMAC over the source under a key slot. -/
def execHmac (ring : Nat) (h : DescHdr) (b : HashBody) (s : State) : Out := onDev (placeDesc ring 0x21 h (hashFields b)) s

/-- JOB (R152). A JOB descriptor or firmware queue entry submits a Grinder recipe job for checking and dispatch. -/
def execJob (ring : Nat) (h : DescHdr) (b : JobBody) (s : State) : Out := onDev (placeDesc ring 0x30 h (jobFields b)) s

/-- LOOKUP (R201). A LOOKUP descriptor queries the credential register for a digest. -/
def execLookup (ring : Nat) (h : DescHdr) (form addr : Nat) (digest : Octets) (s : State) : Out :=
  onDev (placeDesc ring 0x40 h [(8, 1, form), (16, 8, addr), (24, 32, leNat (digest.take 32))]) s

/-- STAGE_DELTAS (R204). STAGE_DELTAS stages a list of deltas into the open batch, all or none. -/
def execStageDeltas (ring : Nat) (h : DescHdr) (count list : Nat) (s : State) : Out := onDev (placeDesc ring 0x41 h [(8, 4, count), (16, 8, list)]) s

/-- COMMIT_EPOCH (R205). COMMIT_EPOCH freezes the open batch for preparation and a switch at the target edge. -/
def execCommitEpoch (ring : Nat) (h : DescHdr) (target : Nat) (s : State) : Out := onDev (placeDesc ring 0x42 h [(16, 8, target)]) s

/-- CHAMBER_CLAIM (R76). A CHAMBER_CLAIM descriptor claims the chamber with the PF identity as owner. -/
def execChamberClaim (ring : Nat) (h : DescHdr) (s : State) : Out := onDev (placeDesc ring 0x50 h []) s

/-- CHAMBER_WRITE (R76). A CHAMBER_WRITE descriptor writes all of its list entries to the chamber or none. -/
def execChamberWrite (ring : Nat) (h : DescHdr) (count list : Nat) (s : State) : Out := onDev (placeDesc ring 0x51 h [(8, 4, count), (16, 8, list)]) s

/-- CHAMBER_CMD (R76). A CHAMBER_CMD descriptor issues a chamber command ACTION 2-6 as the PF. -/
def execChamberCmd (ring : Nat) (h : DescHdr) (action target : Nat) (s : State) : Out :=
  onDev (placeDesc ring 0x52 h [(8, 1, action), (16, 8, target)]) s

/-- KEY_IMPORT (R102). KEY_IMPORT checks and unwraps a key blob into a key slot. -/
def execKeyImport (ring : Nat) (h : DescHdr) (slot len addr : Nat) (s : State) : Out :=
  onDev (placeDesc ring 0x54 h [(8, 2, slot), (12, 4, len), (16, 8, addr)]) s

/-- KEY_EXPORT (R103). KEY_EXPORT wraps a slot with EXPORT usage as a blob under a KEK. -/
def execKeyExport (ring : Nat) (h : DescHdr) (slot kek maxLen addr : Nat) (s : State) : Out :=
  onDev (placeDesc ring 0x55 h [(8, 2, slot), (10, 1, kek), (12, 4, maxLen), (16, 8, addr)]) s

/-- KEY_ERASE (R104). KEY_ERASE zeroes a slot's material and sets it EMPTY at the edge after admission. -/
def execKeyErase (ring : Nat) (h : DescHdr) (slot : Nat) (s : State) : Out := onDev (placeDesc ring 0x56 h [(8, 2, slot)]) s

/-- PARTITION (R483). A PARTITION descriptor passes a partition request of the PF to the partition logic. -/
def execPartition (ring : Nat) (h : DescHdr) (req : Nat) (s : State) : Out := onDev (placeDesc ring 0x57 h [(8, 4, req)]) s

/-- CANCEL_RING (R75). CANCEL_RING completes every fetched, unwritten operation of the named ring with ABORTED at the next edge. -/
def execCancelRing (ring : Nat) (h : DescHdr) (named : Nat) (s : State) : Out := onDev (placeDesc ring 0x58 h [(8, 2, named)]) s

/-- REG_READ (R77). REG_READ optionally writes a select register and then reads one register word as the PF. -/
def execRegRead (ring : Nat) (h : DescHdr) (addr selAddr selValue : Nat) (s : State) : Out :=
  onDev (placeDesc ring 0x59 h [(8, 4, addr), (12, 4, selAddr), (16, 8, selValue)]) s

/-- HOLD_UNLOCK (R374). A HOLD_UNLOCK descriptor presents an unlock token for K to verify. -/
def execHoldUnlock (ring : Nat) (h : DescHdr) (len addr : Nat) (s : State) : Out := onDev (placeDesc ring 0x5A h [(12, 4, len), (16, 8, addr)]) s

/-- SEAL (R213). SEAL writes a Xancon envelope of the given KIND sealed under the basin KEK. -/
def execEnvSeal (ring : Nat) (h : DescHdr) (peer kind len src dst dstMax : Nat) (s : State) : Out :=
  onDev (placeDesc ring 0x60 h [(8, 2, peer), (10, 1, kind), (12, 4, len), (16, 8, src), (24, 8, dst), (32, 4, dstMax)]) s

/-- OPEN (R214). OPEN checks and decrypts a Xancon envelope and acts on its KIND. -/
def execEnvOpen (ring : Nat) (h : DescHdr) (peer kind len src dst dstMax : Nat) (s : State) : Out :=
  onDev (placeDesc ring 0x61 h [(8, 2, peer), (10, 1, kind), (12, 4, len), (16, 8, src), (24, 8, dst), (32, 4, dstMax)]) s

end Sys2Proof.Machine
end

