-- ==== Sys2Proof/Machine/ExecEntropy.lean ====
section
/-! DEFINITION. Meanings of the commands: the Hopper (chapter 7). One definition for each. -/

namespace Sys2Proof.Machine

/-- REPETITION_COUNT_FAILURE (R176). A source gives HOP_RCT_CUTOFF identical consecutive samples and fails its test, with failover. -/
def execRepetitionCountFailure (mask run : Nat) (s : State) : Out := onDev (rctFail mask run) s

/-- WINDOW_COMPLETE (R180). A source's 1,024-sample window ends; the adaptive proportion test is judged and an ACTIVE passing window is conditioned
into the pool. -/
def execWindowComplete (src : Nat) (samples : Octets) (s : State) : Out := onDev (windowDone src samples) s

/-- STARTUP_TEST_COMPLETE (R177). A source's 4,096-sample start-up test ends and it enters STANDBY or FAILED. -/
def execStartupTestComplete (runs : Tab Octets) (s : State) : Out := onDev (startupDone runs) s

/-- HOP_RETEST (R178). K's write to HOP_RETEST puts the named sources into TESTING. -/
def execHopRetest (m mask : Nat) (s : State) : Out := onDev (hopRetest m mask) s

/-- GENERATOR_INSTANTIATE (R181). With three pool blocks available the known-answer tests run and a DRBG instance is instantiated. -/
def execGeneratorInstantiate (inst : Nat) (katOk : Bool) (s : State) : Out := onDev (hopInstantiate inst katOk) s

/-- GENERATOR_RESEED (R181). Every HOP_RESEED_INT passes an instance reseeds from three pool blocks. -/
def execGeneratorReseed (inst : Nat) (s : State) : Out := onDev (hopReseed inst) s

/-- RESEED_OVERDUE (R182). An instance not reseeded within a further HOP_RESEED_INT passes stops output. -/
def execReseedOverdue (inst : Nat) (s : State) : Out := onDev (hopOverdue inst) s

/-- HOP_SW_DRAW_READ (R188). A read of HOP_SW_DRAW takes the next draw or returns READY = 0 and counts HOP_SW_SHORT. -/
def execHopSwDrawRead (m : Nat) (s : State) : Out := onDev (hopSwDrawRead (latchOf s m) m) s

/-- RAW_MODE_ENABLE (R190). A permitted write of HOP_RAW_CTL.ENABLE = 1 requests raw-sample mode. -/
def execRawModeEnable (m src : Nat) (s : State) : Out := onDev (rawEnable m src) s

/-- RAW_MODE_ENTRY (R190). At the next edge the generator states, pool and buffers are wiped and the Hopper enters RAW. -/
def execRawModeEntry (s : State) : Out := onDev rawEntry s

/-- HOP_RAW_DATA_READ (R191). A read of HOP_RAW_DATA returns 32 raw samples or READY = 0, with GAP after a loss. -/
def execHopRawDataRead (m arrived : Nat) (s : State) : Out := onDev (hopRawDataRead m arrived) s

/-- RAW_MODE_EXIT (R191). RAW ends on ENABLE = 0, session end or transition, and the Hopper enters STARTING. -/
def execRawModeExit (m : Nat) (s : State) : Out := onDev (rawExit m) s

end Sys2Proof.Machine
end

