-- ==== Sys2Proof/Machine/ExecEvents.lean ====
section
/-! DEFINITION. Meanings of the commands: interrupt entry, MPU regions and tamper (chapters 13 to 15). One definition for each. -/

namespace Sys2Proof.Machine

/-- INTERRUPT_ENTRY (R328). At an instruction boundary the highest-priority pending unmasked interrupt is taken or discarded. -/
def execInterruptEntry (core : Nat) (vec : EntryWcc) (s : State) : Out := onDev (interruptEntry vec core) s

/-- MPU_REGION_WRITE (R353). A live core write to MPU region words takes effect for later accesses, or is dropped with PSDROP if protected. -/
def execMpuRegionWrite (m pl a : Nat) (v : Word) (s : State) : Out := onDev (mpuRegionWrite m pl (a % 2 ^ 24) v) s

/-- TAMPER_EVENT (R365). A tamper source event adds to its COUNT and fires when COUNT reaches N. -/
def execTamperEvent (source : Nat) (s : State) : Out := onDev (tamperEvent (source % 39)) s

/-- COUNT_DECAY (R365). A source's COUNT returns to 0 at the first edge W passes after the event that raised it from 0. -/
def execCountDecay (source : Nat) (s : State) : Out := onDev (countDecay (source % 39)) s

/-- RESPONSE_WINDOW_END (R366). At the end of each 1 µs window the aggregator logs fired sources, raises INTERRUPT and executes the most severe
response. -/
def execResponseWindowEnd (s : State) : Out := onDev windowEnd s

/-- KEEP_CELL_SAMPLE (R367). On the keep cell alone the keep domain samples meshes, temperature and keep supply and logs or latches HOLD. -/
def execKeepCellSample (found : List Nat) (s : State) : Out := onDev (keepSample found) s

/-- HOLD_UNLOCK_VERIFIED (R375). K's verification of an unlock token ends and its checks pass or the descriptor completes ACCESS_DENIED. -/
def execHoldUnlockVerified (id : Nat) (s : State) : Out := onDev (unlockVerified id) s

/-- HOLD_RELEASE (R377). At the next edge HOLD ends, counts clear, KEKs are released and the Hopper enters STARTING. -/
def execHoldRelease (s : State) : Out := onDev holdRelease s

/-- TAMPER_CONDITION_CLEAR (R361). The condition of a condition source clears and the source stops reading ASSERTED. -/
def execTamperConditionClear (source : Nat) (s : State) : Out := onDev (tamperCleared (source % 39)) s

end Sys2Proof.Machine
end

