-- ==== Sys2Proof/Machine/ExecInline.lean ====
section
/-! DEFINITION. Meanings of the commands: inline sealing (chapter 5). One definition for each. -/

namespace Sys2Proof.Machine

/-- PLAIN_FRAME_ARRIVAL (R126). A frame arriving on a plain-side port is checked, assigned an SA and PN, and queued for sealing. -/
def execPlainFrameArrival (link : Nat) (frame : Octets) (fcsOk : Bool) (s : State) : Out := onDev (frameArrival (2 * (link % 4)) frame fcsOk) s

/-- SEALED_FRAME_ARRIVAL (R127). A frame arriving on a sealed-side port is checked, matched to a receive SA and queued for opening. -/
def execSealedFrameArrival (link : Nat) (frame : Octets) (fcsOk : Bool) (s : State) : Out := onDev (frameArrival (2 * (link % 4) + 1) frame fcsOk) s

/-- STAGE_ADVANCE (R129). A whole checked frame moves to the next inline stage when that stage has room and its lane has slots. -/
def execStageAdvance (stream stage : Nat) (integ : Bool) (s : State) : Out := onDev (stageAdvance stream stage integ) s

/-- FRAME_TRANSMIT (R126). The egress MAC appends a new FCS and sends a sealed or opened frame. -/
def execFrameTransmit (stream : Nat) (integ : Bool) (s : State) : Out := onDev (frameTransmit stream integ) s

/-- UNCONTROLLED_TX (R128). A write to ILS_UQ_TX_TAIL queues firmware frames to be sent untagged on the sealed side. -/
def execUncontrolledTx (link : Nat) (v : Word) (s : State) : Out := onDev (uqTxTail (link % 4) v) s

/-- UQ_RX_HEAD_WRITE (R128). A write to ILS_UQ_RX_HEAD consumes entries of the uncontrolled receive queue. -/
def execUqRxHeadWrite (link : Nat) (v : Word) (s : State) : Out := onDev (uqRxHead (link % 4) v) s

/-- LINK_STATE_CHANGE (R140). A port's link or FEC lock changes, setting LINK_CHANGE for the link. -/
def execLinkStateChange (link bit : Nat) (up : Bool) (s : State) : Out := onDev (linkChange link bit up) s

/-- LOAD_SAK (R134). ILS_CMD LOAD_SAK checks and unwraps a SAK blob straight into the key store of a non-VALID SA. -/
def execLoadSak (m pl : Nat) (s : State) : Out := onDev (ilsCmd m pl 1) s

/-- CLEAR_KEY (R134). ILS_CMD CLEAR_KEY zeroes a non-VALID SA's key store and clears KEYED. -/
def execClearKey (m pl : Nat) (s : State) : Out := onDev (ilsCmd m pl 2) s

/-- PN_WARN (R139). A transmit SA's next PN reaching ILS_LINK_PN_WARN sets PN_WARN and writes ILS_EVENT_SA. -/
def execPnWarn (sa : Nat) (s : State) : Out := onDev (pnWarn sa) s

/-- SA_FREEZE (R137). An SA that sends or accepts the largest PN becomes FROZEN and sets the link's FROZEN bit. -/
def execSaFreeze (sa : Nat) (s : State) : Out := onDev (saFreeze sa) s

/-- SA_RETIRE (R136). An SA that stopped being VALID has its key store wiped and becomes EMPTY once its assigned frames finish. -/
def execSaRetire (sa : Nat) (s : State) : Out := onDev (saRetire sa) s

end Sys2Proof.Machine
end

