-- ==== Sys2Proof/Machine/ExecJobs.lean ====
section
/-! DEFINITION. Meanings of the commands: the Grinder (chapter 6). One definition for each. -/

namespace Sys2Proof.Machine

/-- LOAD_IMAGE (R147). GRD_CMD LOAD_IMAGE verifies a signed recipe image and loads it into the named units. -/
def execLoadImage (m pl : Nat) (s : State) : Out := onDev (grdCmd m pl 1) s

/-- GRD_FWQ_DOORBELL (R149). A write to GRD_FWQ_TAIL acts as a doorbell for a Grinder firmware queue. -/
def execGrdFwqDoorbell (q pl : Nat) (v : Word) (s : State) : Out := onDev (grdDoorbell (q % 9) pl v) s

/-- GRD_FWQ_CANCEL (R167). Writing GRD_FWQ_CANCEL cancels every uncompleted job of the queue with ABORTED. -/
def execGrdFwqCancel (q : Nat) (v : Word) (s : State) : Out := onDev (grdCancel (q % 9) v) s

/-- YIELD_POINT_SAVE (R168). The pre-empted job stops at its next yield point and its working bank is saved before the express job runs. -/
def execYieldPointSave (unit : Nat) (s : State) : Out := onDev (yieldSave unit) s

/-- SUSPENDED_JOB_RESUME (R168). After the express job and its wipe the save bank is restored, wiped, and the suspended job resumes. -/
def execSuspendedJobResume (unit : Nat) (s : State) : Out := onDev (suspResume unit) s

/-- GRINDER_JOB_END (R166). A Grinder job ends, wiping as required, holding or writing its results, and the unit reports idle. -/
def execGrinderJobEnd (unit : Nat) (wcc : Option WccAt) (s : State) : Out :=
  onDev (orIntegrity wcc (fun d => (unitGet d unit).job.bind (findOp d)) (jobEnd unit)) s

/-- RSA_SELFCHECK_FAILURE (R160). An RSA_PRIV result failing its self-check is discarded and the job completes ABORTED_MIGRATED with the unit fenced
at the next edge. -/
def execRsaSelfcheckFailure (unit : Nat) (s : State) : Out := onDev (rsaFail unit) s

/-- HARDWARE_DRAW (R184). A hardware consumer draws a 16-octet block from the hardware DRBG FIFO, or is refused with ENTROPY_FAULT. -/
def execHardwareDraw (who : Nat) (s : State) : Out := onDev (hardwareDraw who) s

/-- IMAGE_LOAD_COMPLETE (R147). A Grinder unit finishes loading and checking a recipe image and leaves LOADING. -/
def execImageLoadComplete (unit : Nat) (wcc : Option WccAt) (s : State) : Out := onDev (imageDone unit wcc) s

end Sys2Proof.Machine
end

