-- ==== Sys2Proof/Machine/ExecLanes.lean ====
section
/-! DEFINITION. Meanings of the commands: cipher and hash lanes and key slots (chapter 4). One definition for each. -/

namespace Sys2Proof.Machine

/-- CIPHER_OP_COMPLETE (R92). A cipher lane finishes an operation and writes its output, tag and completion, or zeros under SCRUB. -/
def execCipherOpComplete (id : Nat) (wcc : Option WccAt) (s : State) : Out := onDev (orIntegrity wcc (fun d => findOp d id) (cipherComplete id)) s

/-- HASH_OP_COMPLETE (R94). A hash lane context finishes an operation and writes its digest and completion. -/
def execHashOpComplete (id : Nat) (wcc : Option WccAt) (s : State) : Out := onDev (orIntegrity wcc (fun d => findOp d id) (hashComplete id)) s

/-- LATE_RESULT_DISCARD (R121). A result produced by a fenced unit after the fence is discarded and counted. -/
def execLateResultDiscard (kind idx : Nat) (s : State) : Out := onDev (lateResult kind idx) s

/-- KEY_EXHAUSTION (R96). A slot's COUNT reaching LIMIT makes it EXHAUSTED and, with EXHAUST = 1, notifies H0. -/
def execKeyExhaustion (slot : Nat) (s : State) : Out := onDev (keyExhausted slot) s

/-- FWQ_DOORBELL (R107). A write to CLN_FWQ_TAIL acts as a doorbell for a core's cipher and hash firmware queue. -/
def execFwqDoorbell (q pl : Nat) (v : Word) (s : State) : Out := onDev (clnDoorbell (q % 9) pl v) s

/-- KSL_IMPORT (R102). KSL_CMD IMPORT stores a blob into a key slot for firmware. -/
def execKslImport (m pl : Nat) (s : State) : Out := onDev (kslCmd m pl 1) s

/-- KSL_EXPORT (R103). KSL_CMD EXPORT wraps a slot as a blob for firmware. -/
def execKslExport (m pl : Nat) (s : State) : Out := onDev (kslCmd m pl 2) s

/-- KSL_ERASE (R104). KSL_CMD ERASE zeroes and empties a key slot. -/
def execKslErase (m pl : Nat) (s : State) : Out := onDev (kslCmd m pl 3) s

/-- DERIVE (R105). KSL_CMD DERIVE creates a child key from an AES-256 parent by the SP 800-108 KDF. -/
def execDerive (m pl : Nat) (s : State) : Out := onDev (kslCmd m pl 4) s

/-- UNWRAP_3394 (R106). KSL_CMD UNWRAP_3394 stores a key wrapped under RFC 3394 by a WRAP slot. -/
def execUnwrap3394 (m pl : Nat) (s : State) : Out := onDev (kslCmd m pl 5) s

/-- KEY_OPERATION_COMPLETE (R102). The key slot store finishes an import, export, derive, unwrap or LOAD_SAK and holds its result for release. -/
def execKeyOperationComplete (id : Nat) (wcc : Option WccAt) (s : State) : Out := onDev (orIntegrity wcc (fun d => findOp d id) (keyComplete id)) s

end Sys2Proof.Machine
end

