-- ==== Sys2Proof/Machine/ExecLifeCycle.lean ====
section
/-! DEFINITION. Meanings of the commands: life cycle and Towpath (chapter 16). One definition for each. -/

namespace Sys2Proof.Machine

/-- TO_FACTORY (R387). LCS_CMD TO_FACTORY starts the BLANK to FACTORY transition, writing DEVICE_ID and ROOT. -/
def execToFactory (m : Nat) (s : State) : Out := onDev (lcsCmd m 1) s

/-- PROVISION (R386). LCS_CMD PROVISION checks a provisioning package and starts the FACTORY to PROVISIONED transition. -/
def execProvision (m : Nat) (s : State) : Out := onDev (lcsCmd m 2) s

/-- TO_SCRAP (R387). LCS_CMD TO_SCRAP starts the FACTORY to SCRAP transition. -/
def execToScrap (m : Nat) (s : State) : Out := onDev (lcsCmd m 3) s

/-- ISSUE (R393). LCS_CMD ISSUE issues a fresh Ndound challenge, voiding the previous one. -/
def execIssueChallenge (m : Nat) (s : State) : Out := onDev (lcsCmd m 4) s

/-- VERIFY (R393). LCS_CMD VERIFY verifies an Ndound response against the outstanding challenge. -/
def execVerifyResponse (m : Nat) (s : State) : Out := onDev (lcsCmd m 5) s

/-- FUSE_ROW_WRITE (R387). A transition's fuse row write and verify completes and the transition moves to its next step. -/
def execFuseRowWrite (ok : Bool) (s : State) : Out := onDev (fuseRowWrite ok) s

/-- CHALLENGE_EXPIRY (R393). An Ndound challenge expires 6,000,000 passes after issue. -/
def execChallengeExpiry (s : State) : Out := onDev challengeExpiry s

/-- K_BOOT (R391). K's boot ROM resumes transitions, votes the state, derives the ladder, applies deferred tamper entries and selects a boot set. -/
def execKBoot (bad lost : List Nat) (s : State) : Out := onDev (kBoot bad lost) s

/-- EXTEST (R395). The EXTEST Towpath instruction selects boundary scan, accepted only under RSTN outside BLANK and FACTORY. -/
def execExtest (rstn : Bool) (pins : Octets) (shift : Option Octets) (s : State) : Out := onDev (tapExtest rstn pins shift) s

/-- IDCODE (R395). The IDCODE instruction selects the 32-bit identification register. -/
def execIdcode (s : State) : Out := onDev tapIdcode s

/-- SAMPLE_PRELOAD (R395). The SAMPLE/PRELOAD instruction selects boundary scan. -/
def execSamplePreload (pins : Octets) (shift : Option Octets) (s : State) : Out := onDev (tapSample pins shift) s

/-- AUTH (R395). The AUTH instruction shifts out a challenge and shifts in an Ndound response. -/
def execAuth (resp : Option Octets) (s : State) : Out := onDev (tapAuth resp) s

/-- DEBUG (R395). The DEBUG instruction selects the access port within an open session's scope. -/
def execDebug (s : State) : Out := onDev tapDebug s

/-- BYPASS (R395). The BYPASS instruction selects the one-bit bypass register, as does any value of the instruction register not in Table 16.8; what
value it was does not matter. -/
def execBypass (_ir : Nat) (s : State) : Out := onDev tapBypass s

/-- TOWPATH_SESSION_OPEN (R394). A Towpath session opens at the edge after a DEBUG_OPEN response verifies. -/
def execTowpathSessionOpen (s : State) : Out := onDev sessionOpen s

/-- DBG_DATA_ACCESS (R354). A Towpath read or write through DBG_DATA is checked for sealed words and regions, then increments DBG_ADDR. -/
def execDbgDataAccess (w : Option Word) (s : State) : Out := onDev (dbgDataAccess s.latch w) s

/-- DBG_CORE_WRITE (R394). A Towpath write to DBG_CORE halts or steps a core within the session's scope. -/
def execDbgCoreWrite (v : Word) (s : State) : Out := onDev (dbgCoreWrite v) s

/-- TAP_RESET (R469). TRST_N is asserted and the Towpath TAP is reset. -/
def execTapReset (s : State) : Out := onDev tapReset s

end Sys2Proof.Machine
end

