-- ==== Sys2Proof/Machine/ExecPass.lean ====
section
/-! DEFINITION. Meanings of the commands: the pass edge, registers, the chamber and the partition (chapters 1 and 2). One definition for each. -/

namespace Sys2Proof.Machine

/-- PASS_EDGE (R33). At each pass edge the host island runs the edge sequence: the count increments, budgets refill, queued work is admitted and
admitted inputs are presented. -/
def execPassEdge (s : State) : Out := let e := passEdge s.dev; .next { s with dev := e, latch := e }

/-- FIELD_EDGE (R233). The edge reaches the field island, which applies partition changes and staged configuration and runs the chain scheduler. -/
def execFieldEdge (s : State) : Out := let e := fieldEdge s.dev; .next { s with dev := e, latchF := e }

/-- LATCHED_LO_READ (R31). A read of a LO word latches the HI word for the same master's next HI read. A host function reads its BAR0 (R7). -/
def execLatchedLoRead (m a : Nat) (s : State) : Out := onDev (latchedLoTop (latchOf s m) m (a % 2 ^ 24)) s

/-- FINE_TIMER_READ (R45). A core reads PAS_CYCLE or a performance counter, gets the live value, and the read is recorded as an admitted input. -/
def execFineTimerRead (core a : Nat) (s : State) : Out := onDev (fineTimerRead (latchOf s core) core (a % 2 ^ 24)) s

/-- REGISTER_WRITE (R5). A write to a register field with no behaviour of its own acts as its access type states, reserved fields being dropped. -/
def execRegisterWrite (m pl a v : Nat) (s : State) : Out := onDev (regWriteTop (latchOf s m) m pl a v) s

/-- CHAMBER_FIELD_WRITE (R47). A write to a CH or PS field changes only the chamber when it comes from the owner while FILLING or LEVELLED, else sets
FOREIGN. -/
def execChamberFieldWrite (m a : Nat) (v : Word) (s : State) : Out := onDev (chamberFieldTop m a v) s

/-- CLAIM (R48). CHM_CMD CLAIM makes the issuing master the owner of an EMPTY chamber and puts it in FILLING. -/
def execClaim (m : Nat) (s : State) : Out := onDev (chamberTop m 1) s

/-- LEVEL (R48). CHM_CMD LEVEL by the owner moves a FILLING chamber to LEVELLING and starts the level checks. -/
def execLevel (m : Nat) (s : State) : Out := onDev (chamberTop m 2) s

/-- OPEN_NEXT (R48). CHM_CMD OPEN_NEXT schedules a LEVELLED chamber with its approvals to open at the next edge. -/
def execOpenNext (m : Nat) (s : State) : Out := onDev (chamberTop m 3) s

/-- OPEN_AT (R48). CHM_CMD OPEN_AT schedules a LEVELLED chamber for a later target pass, or returns it to FILLING with OPEN_PAST. -/
def execOpenAt (m : Nat) (s : State) : Out := onDev (chamberTop m 4) s

/-- UNSCHEDULE (R48). CHM_CMD UNSCHEDULE returns a SCHEDULED chamber to LEVELLED keeping its approvals. -/
def execUnschedule (m : Nat) (s : State) : Out := onDev (chamberTop m 5) s

/-- DISCARD (R48). CHM_CMD DISCARD by the owner or K erases the entries, empties the chamber and advances the sequence number. -/
def execDiscard (m : Nat) (s : State) : Out := onDev (chamberTop m 6) s

/-- LEVEL_COMPLETE (R49). The level checks finish: the chamber becomes LEVELLED with a fresh nonce and digest, or returns to FILLING with CHM_ERR. -/
def execLevelComplete (s : State) : Out := onDev levelComplete s

/-- CHAMBER_OPEN (R51). At its target edge a SCHEDULED chamber opens, making every entry live at once, or returns to FILLING when a check fails. -/
def execChamberOpen (s : State) : Out := onDev chamberOpen s

/-- APPROVAL (R53). An APPROVAL descriptor on a PF MGMT ring presents a chamber approval token for verification. -/
def execApproval (ring : Nat) (h : DescHdr) (tokenAddr : Nat) (s : State) : Out := onDev (placeDesc ring 0x53 h [(16, 8, tokenAddr)]) s

/-- APPROVAL_ACCEPT (R53). At step 2 of the edge after verification the token's approval is accepted if the chamber still matches, else ACCESS_DENIED.
-/
def execApprovalAccept (s : State) : Out := onDev acceptApprovals s

/-- APPROVAL_EXPIRY (R53). An approval reaches the end of CHM_APPROVAL_LIFE, voiding all approvals and returning the chamber to FILLING. -/
def execApprovalExpiry (s : State) : Out := onDev expireApprovals s

/-- KEY_SLOT_EXPIRY (R98). At the edge the pass count reaches a slot's non-zero EXPIRY the slot becomes EXPIRED before admission. -/
def execKeySlotExpiry (s : State) : Out := onDev slotExpiry s

/-- BOUND_OVERRUN (R39). An admitted operation not complete at edge p+b+2 completes with TIMEOUT and its partition unit is fenced. -/
def execBoundOverrun (s : State) : Out := onDev boundOverrun s

/-- RESULT_RELEASE (R40). A held secret-dependent result is written and its completion posted at the first edge after completion plus k passes. -/
def execResultRelease (s : State) : Out := onDev releaseDue s

/-- PART_REQ_DRAIN (R57). A PAS_PART_REQ DRAIN request asks that a unit admit no new work and enter MAINT when empty. -/
def execPartReqDrain (m pl kind idx reason : Nat) (s : State) : Out := onDev (partReq m pl kind idx 1 reason) s

/-- PART_REQ_FENCE (R57). A PAS_PART_REQ FENCE request asks that a unit's admitted and held work abort with ABORTED_MIGRATED and the unit be FENCED.
-/
def execPartReqFence (m pl kind idx reason : Nat) (s : State) : Out := onDev (partReq m pl kind idx 2 reason) s

/-- PART_REQ_RETURN (R57). A PAS_PART_REQ RETURN request asks that a unit in MAINT or FENCED re-enter IN_SERVICE. -/
def execPartReqReturn (m pl kind idx reason : Nat) (s : State) : Out := onDev (partReq m pl kind idx 3 reason) s

/-- PARTITION_APPLY (R57). At step 4 of the next edge (or the edge R59 gives) an accepted partition request takes effect. -/
def execPartitionApply (s : State) : Out := onDev partitionApply s

/-- DRAIN_COMPLETE (R57). A DRAINING unit enters MAINT at the first edge at which it has nothing in flight. -/
def execDrainComplete (s : State) : Out := onDev drainComplete s

/-- APPROVAL_VERIFIED (R53). Verification of a MGMT approval token ends within 7 passes, completing a failing token at once or readying it for
acceptance at the next edge. -/
def execApprovalVerified (id : Nat) (s : State) : Out := onDev (approvalVerified id) s

end Sys2Proof.Machine
end

