-- ==== Sys2Proof/Machine/ExecPlanes.lean ====
section
/-! DEFINITION. Meanings of the commands: flash (chapter 17). One definition for each. -/

namespace Sys2Proof.Machine

/-- FLASH_READ (R399). FLS_CMD READ copies a flash page into a buffer. -/
def execFlashRead (m pl : Nat) (s : State) : Out := onDev (flsCmd m pl 1) s

/-- FLASH_PROGRAM (R404). FLS_CMD PROGRAM programs a blank page in ascending order. -/
def execFlashProgram (m pl : Nat) (s : State) : Out := onDev (flsCmd m pl 2) s

/-- FLASH_ERASE (R411). FLS_CMD ERASE journals START and erases a block. -/
def execFlashErase (m pl : Nat) (s : State) : Out := onDev (flsCmd m pl 3) s

/-- FLASH_SUSPEND (R401). FLS_CMD SUSPEND suspends a running erase within 20 µs. -/
def execFlashSuspend (m pl : Nat) (s : State) : Out := onDev (flsCmd m pl 4) s

/-- FLASH_RESUME (R401). FLS_CMD RESUME resumes a suspended erase. -/
def execFlashResume (m pl : Nat) (s : State) : Out := onDev (flsCmd m pl 5) s

/-- READ_CAL (R412). FLS_CMD READ_CAL copies the factory-calibration row into a buffer. -/
def execReadCal (m pl : Nat) (s : State) : Out := onDev (flsCmd m pl 6) s

/-- FLASH_COMMIT (R409). FLS_CMD COMMIT writes a COMMIT record for a code plane's boot set header. -/
def execFlashCommit (m pl : Nat) (s : State) : Out := onDev (flsCmd m pl 7) s

/-- FLASH_OP_COMPLETE (R401). A flash operation ends, the plane's state moves on and the result is posted. -/
def execFlashOpComplete (plane : Nat) (ok corrected : Bool) (wcc : Option WccAt) (s : State) : Out := onDev (flsComplete plane ok corrected wcc) s

/-- FLS_XIP_CTL_WRITE (R406). K's write to FLS_XIP_CTL enables or disables code plane read windows. -/
def execFlsXipCtlWrite (m pl : Nat) (v : Word) (s : State) : Out := onDev (xipWrite m pl v) s

/-- FLASH_CONTROLLER_RELEASE (R411). After a COLD or KEEP reset the controller erases again any block whose journal ends in START. -/
def execFlashControllerRelease (s : State) : Out := onDev flsRelease s

end Sys2Proof.Machine
end

