-- ==== Sys2Proof/Machine/ExecPorts.lean ====
section
/-! DEFINITION. Meanings of the commands: the field island (chapter 9). One definition for each. -/

namespace Sys2Proof.Machine

/-- SWEEP_START (R229). A sweep of a flight starts when the pass count modulo PNG_PERIOD equals PNG_PHASE. -/
def execSweepStart (engine : Nat) (s : State) : Out := onDev (sweepStart engine) s

/-- PING (R228). In a ping slot the engine bursts a port and measures amplitude and phase against the baseline. -/
def execPing (engine amp phase : Nat) (s : State) : Out := onDev (ping engine amp phase) s

/-- BASELINE_PING (R231). A port needing a baseline takes 8 baseline pings in free slots and sets its baseline to their mean. -/
def execBaselinePing (engine port amp phase : Nat) (s : State) : Out := onDev (baselinePing engine port amp phase) s

/-- LINGER_EXPIRY (R232). A port in LINGER returns to IDLE when APT_LINGER passes elapse. -/
def execLingerExpiry (port : Nat) (s : State) : Out := onDev (lingerExpiry port) s

/-- FLIGHT_READY (R244). A flight becomes ready for grants once its home chains are calibrated and its ports have baselines. -/
def execFlightReady (flight : Nat) (s : State) : Out := onDev (flightReadyNow flight) s

/-- REQUEST (R234). FLD_REQ REQUEST makes or replaces a port's request and puts it in PRESENT. -/
def execRequest (m port mode : Nat) (s : State) : Out := onDev (fldReqWrite m (reqWord port mode 1)) s

/-- RELEASE (R234). FLD_REQ RELEASE ends a GRANTED port's grant with reason RELEASED. -/
def execRelease (m port mode : Nat) (s : State) : Out := onDev (fldReqWrite m (reqWord port mode 2)) s

/-- WITHDRAW (R234). FLD_REQ WITHDRAW drops a PRESENT port's request and puts it in LINGER. -/
def execWithdraw (m port mode : Nat) (s : State) : Out := onDev (fldReqWrite m (reqWord port mode 3)) s

/-- GRANT_CEILING (R237). A grant reaching edge g + APT_CEILING ends with reason CEILING. -/
def execGrantCeiling (port : Nat) (s : State) : Out := onDev (grantCeiling port) s

/-- TUNING_COMPLETE (R224). A READER grant's tuning ends within 20 passes, storing the code and VSWR or ending with MISMATCH. -/
def execTuningComplete (chain ser shu vswr fwd refl : Nat) (s : State) : Out := onDev (tuningComplete chain ser shu vswr fwd refl) s

/-- SETTLE_END (R224). The port's settle time ends and the chain may send its first frame. -/
def execSettleEnd (chain : Nat) (s : State) : Out := onDev (settleEnd chain) s

/-- VSWR_MISMATCH (R225). VSWR above 6:1 at two consecutive edges ends the grant with MISMATCH and turns the carrier off. -/
def execVswrMismatch (chain v1 v2 : Nat) (s : State) : Out := onDev (vswrMismatch chain v1 v2) s

/-- APT_CLEAR (R225). Writing APT_CLEAR clears a port's MISMATCH flag. -/
def execAptClear (m port : Nat) (v : Word) (s : State) : Out := onDev (aptClear m port v) s

/-- FIELD_SUPPLY_FAULT (R243). The field converter output leaves its range: carriers off, grants end SUPPLY, no grants until good. -/
def execFieldSupplyFault (high : Bool) (s : State) : Out := onDev (supplyLost high) s

/-- EVENT_QUEUE_WRITE (R240). A pending field event is written to the owning core's event queue when it has room. -/
def execEventQueueWrite (core : Nat) (s : State) : Out := onDev (eventWrite (core % 4)) s

/-- FLD_EVQ_HEAD_WRITE (R240). A write to FLD_EVQ_HEAD consumes field event queue entries. -/
def execFldEvqHeadWrite (core : Nat) (v : Word) (s : State) : Out := onDev (evqHeadWrite (core % 4) v) s

/-- FIELD_SUPPLY_RECOVERY (R243). The field converter output returns into its range, FLD_STATE.SUPPLY_OK reads 1 again and grants may be made. -/
def execFieldSupplyRecovery (s : State) : Out := onDev supplyRecovery s

end Sys2Proof.Machine
end

