-- ==== Sys2Proof/Machine/ExecRecords.lean ====
section
/-! DEFINITION. Meanings of the commands: replay and performance counters (chapter 19). One definition for each. -/

namespace Sys2Proof.Machine

/-- RECORD_CLOSE (R436). The recorder closes and seals the record of a pass once step 8 and the field logs are done. -/
def execRecordClose (s : State) : Out := onDev recordClose s

/-- RECORD_DELIVERY (R439). A staged record is written to the replay ring when it fits, or appended as REPLAY fragments to audit cards. -/
def execRecordDelivery (consumed : Nat) (s : State) : Out := onDev (recordDelivery consumed) s

/-- REPLAYED_EDGE (R443). A replayed edge falls once replayed cores reach PROGRESS and the next record is checked; its MEMORY items are presented. -/
def execReplayedEdge (record : Octets) (s : State) : Out := onDev (replayedEdge record) s

/-- PMU_COUNTER_OVERFLOW (R445). A PMU counter wraps from 2^48 − 1 to 0 and sets its PMU_OVF bit. -/
def execPmuCounterOverflow (core counter : Nat) (s : State) : Out := onDev (pmuOverflow core counter) s

/-- BANDWIDTH_WINDOW_CLOSE (R447). At an edge where the pass count modulo PMU_BW_WINDOW is 0 each monitor's LAST and MAX are updated. -/
def execBandwidthWindowClose (counts : List Nat) (s : State) : Out := onDev (bwClose counts) s

/-- PMU_BW_CLEAR (R447). Writing PMU_BW_CLEAR clears every monitor's MAX. -/
def execPmuBwClear (s : State) : Out := onDev bwClear s

/-- PMU_CLEAR (R445). Writing PMU_CTL.CLEAR clears every counter of the group. -/
def execPmuClear (m pl core : Nat) (s : State) : Out := onDev (pmuClearWrite m pl core) s

/-- SAMPLE_TAG (R448). After interval I of fetched instructions the core tags one instruction for sampling. -/
def execSampleTag (core : Nat) (s : State) : Out := onDev (sampleTag core) s

/-- SAMPLE_RECORD (R448). A tagged instruction retires or is discarded and its sample enters the buffer or is counted lost. -/
def execSampleRecord (core : Nat) (x : SampleInfo) (s : State) : Out := onDev (sampleRecord core x) s

/-- PMU_SMP_DATA_READ (R448). A read of PMU_SMP_DATA returns the next word of the oldest sample, the eighth removing it. -/
def execPmuSmpDataRead (m core : Nat) (s : State) : Out := onDev (pmuSmpDataRead (latchOf s m) m core) s

end Sys2Proof.Machine
end

