-- ==== Sys2Proof/Machine/ExecRegister.lean ====
section
/-! DEFINITION. Meanings of the commands: the credential register and basin (chapter 8). One definition for each. -/

namespace Sys2Proof.Machine

/-- LOOKUP_COMPLETE (R200). A credential lookup finishes and yields its verdict for release or answer. -/
def execLookupComplete (id : Nat) (wcc : Option WccAt) (s : State) : Out := onDev (orIntegrity wcc (fun d => findOp d id) (lookupComplete id)) s

/-- CRG_STAGE (R204). CRG_CMD STAGE stages a firmware list of deltas into the open batch. -/
def execCrgStage (m pl : Nat) (wcc : Option WccAt) (s : State) : Out := onDev (crgCmd m pl 1 · wcc) s

/-- CRG_COMMIT (R205). CRG_CMD COMMIT freezes the open batch with a target pass. -/
def execCrgCommit (m pl : Nat) (s : State) : Out := onDev (crgCmd m pl 2) s

/-- CRG_DISCARD (R204). CRG_CMD DISCARD discards the open batch. -/
def execCrgDiscard (m pl : Nat) (s : State) : Out := onDev (crgCmd m pl 3) s

/-- DELTA_PREPARATION (R205). Each pass the engine places CRG_PREP_BUDGET deltas of the frozen batch until the batch is ready. -/
def execDeltaPreparation (s : State) : Out := onDev deltaPrep s

/-- EPOCH_SWITCH (R205). At the switch edge every delta of the batch takes effect and the register epoch advances. -/
def execEpochSwitch (s : State) : Out := onDev epochSwitch s

/-- COMMIT_TIMEOUT (R205). A commit whose batch is not ready by target T completes with TIMEOUT 0x01 and is discarded. -/
def execCommitTimeout (s : State) : Out := onDev commitTimeout s

/-- KEK_ACTIVATION (R216). At the first edge whose site time reaches the activation pass NEXT becomes the current basin KEK. -/
def execKekActivation (s : State) : Out := onDev kekActivate s

/-- ENVELOPE_OPERATION_COMPLETE (R217). The envelope engine finishes a SEAL or OPEN and writes its output and completion, or holds it when
quantisation is on. -/
def execEnvelopeOperationComplete (id : Nat) (wcc : Option WccAt) (s : State) : Out :=
  onDev (orIntegrity wcc (fun d => findOp d id) (envelopeComplete id)) s

end Sys2Proof.Machine
end

