-- ==== Sys2Proof/Machine/ExecResets.lean ====
section
/-! DEFINITION. Meanings of the commands: reset, watchdogs and power (chapter 20). One definition for each. -/

namespace Sys2Proof.Machine

/-- RESET_SOURCE_ASSERT (R452). A reset source asserts and is carried out at its fuse-map level or absorbed. -/
def execResetSourceAssert (source core : Nat) (s : State) : Out := onDev (sourceAssert source core) s

/-- RST_CMD (R452). K's write to RST_CMD requests a reset of the named level. -/
def execRstCmd (m : Nat) (v : Word) (s : State) : Out := onDev (rstCmd m v) s

/-- RESET_RELEASE_STEP (R455). After its gap (and RST_GO where gated) a release step releases its domains. -/
def execResetReleaseStep (step : Nat) (s : State) : Out := onDev (releaseStep step) s

/-- RST_GO (R455). K's write to RST_GO permits a gated release step or releases F0-F3 with STEP 11. -/
def execRstGo (m step : Nat) (s : State) : Out := onDev (rstGo m step) s

/-- RST_CORE_GO (R456). K's write to RST_CORE_GO releases a host core from CORE reset. -/
def execRstCoreGo (m core : Nat) (s : State) : Out := onDev (coreGo m core) s

/-- FIELD_CORE_RELEASE (R456). A field core in CORE reset is released 1,000 reference cycles after its assertion ends. -/
def execFieldCoreRelease (core : Nat) (s : State) : Out := onDev (fieldCoreRelease core) s

/-- RST_FUSE_PROG (R452). A write to RST_FUSE_PROG blows a reset map entry or gap in BLANK or FACTORY. -/
def execRstFuseProg (m : Nat) (v : Word) (s : State) : Out := onDev (fuseProg m v) s

/-- RST_STOP_CLR (R338). K's write to RST_STOP_CLR clears the latched stop record. -/
def execRstStopClr (m : Nat) (v : Word) (s : State) : Out := onDev (stopClr m v) s

/-- WATCHDOG_KICK (R454). A write to RST_WDG_KICK makes REMAIN become PERIOD at the next edge. -/
def execWatchdogKick (m core : Nat) (s : State) : Out := onDev (wdgKick m core) s

/-- WATCHDOG_WARNING (R454). REMAIN equal to WARN makes the WATCHDOG interrupt pending. -/
def execWatchdogWarning (core : Nat) (s : State) : Out := onDev (wdgWarning core) s

/-- WATCHDOG_EXPIRY (R454). REMAIN reaching 0 asserts the core's watchdog reset source. -/
def execWatchdogExpiry (core : Nat) (s : State) : Out := onDev (wdgExpiry core) s

/-- PWR_MONC_INC (R462). A write to PWR_MONC_INC advances firmware monotonic counter 7-15, saturating. -/
def execPwrMoncInc (m pl counter : Nat) (s : State) : Out := onDev (moncWrite m pl counter) s

/-- POWER_GOOD (R458). 12 V becomes good, the converters start in order and power-on asserts. -/
def execPowerGood (s : State) : Out := onDev powerGood s

/-- BROWN_OUT (R459). A brown-out of VIN or a rail holds all powered domains in COLD reset and switches the keep domain. -/
def execBrownOut (rail : Nat) (ext : Bool) (s : State) : Out := onDev (brownOut rail ext) s

/-- KEEP_SUPPLY_LOST (R461). The keep domain falls below 2.2 V and loses its state, giving a KEEP reset at next power-on. -/
def execKeepSupplyLost (s : State) : Out := onDev keepSupplyLost s

end Sys2Proof.Machine
end

