-- ==== Sys2Proof/Machine/ExecRings.lean ====
section
/-! DEFINITION. Meanings of the commands: rings, PCIe functions and MSI-X (chapter 3). One definition for each. -/

namespace Sys2Proof.Machine

/-- SUBMISSION_DOORBELL (R69). A submission doorbell write moves the ring's tail, is ignored, or is dropped with DBERR. -/
def execSubmissionDoorbell (f ring off size v : Nat) (s : State) : Out := onDev (doorbell true f ring off size v) s

/-- COMPLETION_DOORBELL (R70). A completion doorbell moves the completion head at the next edge, freeing completion slots. -/
def execCompletionDoorbell (f ring off size v : Nat) (s : State) : Out := onDev (doorbell false f ring off size v) s

/-- DESCRIPTOR_FETCH (R72). The Wharf fetches up to 16 descriptors from a ring per turn in rotation while entries and completion slots are free. -/
def execDescriptorFetch (ring : Nat) (descs : List Octets) (s : State) : Out := onDev (descFetch ring descs) s

/-- DESCRIPTOR_FETCH_FAILURE (R88). A failed descriptor fetch stops the ring, and no completion is written for it or later descriptors. -/
def execDescriptorFetchFailure (ring cause : Nat) (s : State) : Out := onDev (fetchFail ring cause) s

/-- STAGING_COMPLETE (R78). The last input octet of an operation arrives in the staging area, making it eligible from the next edge. -/
def execStagingComplete (ring pos : Nat) (data : Octets) (s : State) : Out := onDev (stagingComplete ring pos data) s

/-- STAGING_READ_FAILURE (R88). A failed host read during staging completes the operation with the status of Table 3.16 at the next edge. -/
def execStagingReadFailure (ring pos sub : Nat) (s : State) : Out := onDev (stageFail ring pos sub) s

/-- RING_ENABLE (R63). A non-zero SIZE_LOG2 write to a DISABLED ring makes it ACTIVE at the next edge. -/
def execRingEnable (m ring log2 : Nat) (s : State) : Out := onDev (byPort 1 m (Reg.WHF_RING_SIZE + 8 * ring) (ringEnable m ring log2)) s

/-- RING_DRAIN (R63). A SIZE_LOG2 = 0 write to an ACTIVE ring makes it DRAINING. -/
def execRingDrain (m ring : Nat) (s : State) : Out := onDev (byPort 1 m (Reg.WHF_RING_SIZE + 8 * ring) (ringDrain m ring)) s

/-- RING_DISABLE (R63). A DRAINING or STOPPED ring becomes DISABLED at the first edge with nothing in flight. -/
def execRingDisable (ring : Nat) (s : State) : Out := onDev (ringDisable ring) s

/-- COMPLETION_WRITE (R81). A completion is written in ring order once every earlier completion of the ring is written and a slot is free. -/
def execCompletionWrite (ring : Nat) (s : State) : Out := onDev (completionWrite ring) s

/-- MODERATION_TIMER_EXPIRY (R84). An edge MOD_PASSES passes after the oldest unsignalled completion fires the ring's vector. -/
def execModerationTimerExpiry (ring : Nat) (s : State) : Out := onDev (fun d => modTimer d ring) s

/-- HELD_COMPLETION (R85). Operations in flight at HOLD entry and descriptors fetched in HOLD complete with HELD at step 6 of the next edge. -/
def execHeldCompletion (s : State) : Out := onDev heldCompletion s

/-- FUNCTION_LEVEL_RESET (R86). A Function Level Reset disables the function's rings, discards its work, erases its key slots and wipes its Grinder
units. -/
def execFunctionLevelReset (f : Nat) (s : State) : Out := onDev (flr f) s

/-- D3HOT_ENTRY (R86). Entry of a function into D3hot acts as a Function Level Reset of that function. -/
def execD3hotEntry (f : Nat) (s : State) : Out := onDev (d3hotEntry f) s

/-- PCIE_LINK_LOSS (R86). Link loss or a PCIe hot reset acts as a Function Level Reset of every function. -/
def execPcieLinkLoss (hot : Bool) (s : State) : Out := onDev (linkLoss hot) s

/-- PCIE_LINK_UP (R60). PCIe link training completes and the link enters L0. -/
def execPcieLinkUp (width speed : Nat) (s : State) : Out := onDev (pcieLinkUp width speed) s

/-- PCIE_CONFIGURATION_WRITE (R88). The host writes configuration space: Bus Master Enable, power state back to D0, or NumVFs. -/
def execPcieConfigurationWrite (w : PcieCfg) (s : State) : Out := onDev (pcieConfig w) s

/-- MSIX_TABLE_WRITE (R84). The host writes an MSI-X table entry or mask, and unmasking a vector whose pending bit is set sends its message. -/
def execMsixTableWrite (w : MsixWr) (s : State) : Out := onDev (msixWrite w) s

end Sys2Proof.Machine
end

