-- ==== Sys2Proof/Machine/ExecTagCore.lean ====
section
/-! DEFINITION. Meanings of the commands: the tag core (chapter 10). One definition for each. -/

namespace Sys2Proof.Machine

/-- TAG_SESSION_START (R262). A field on a passive-tag port activates the tag core and opens a session on that port. -/
def execTagSessionStart (port fsdi : Nat) (s : State) : Out := onDev (tagStart port fsdi) s

/-- TAG_SESSION_END (R262). Field loss, S(DESELECT) or HLTA ends the tag session, releasing locks and its challenge. -/
def execTagSessionEnd (how : Nat) (s : State) : Out := onDev (tagLeave how) s

/-- TAG_SELECT (R264). The tag core's SELECT command selects the tag application. -/
def execTagSelect (aid : Octets) (s : State) : Out := onDev (tagSelect aid) s

/-- TAG_READ_BLOCK (R264). READ_BLOCK returns a tag block's current value. -/
def execTagReadBlock (block : Nat) (s : State) : Out := onDev (tagReadBlock block) s

/-- TAG_READ_BLOCK_LOCK (R268). READ_BLOCK with LOCK returns a block and locks it for the session after MAC verification. -/
def execTagReadBlockLock (block : Nat) (mac : Octets) (s : State) : Out := onDev (tagReadLock block mac) s

/-- TAG_READ_COUNTER (R264). READ_COUNTER returns a tag counter's value. -/
def execTagReadCounter (counter : Nat) (s : State) : Out := onDev (tagReadCounter counter) s

/-- GET_CHALLENGE (R266). GET_CHALLENGE takes a challenge from the store for the session. -/
def execGetChallenge (s : State) : Out := onDev tagGetChallenge s

/-- TAG_WRITE_BLOCK (R271). WRITE_BLOCK writes a block from the air after MAC verification by the two-copy procedure. -/
def execTagWriteBlock (block : Nat) (data mac : Octets) (s : State) : Out := onDev (tagWriteBlock block data mac) s

/-- TAG_INC_COUNTER (R272). INC_COUNTER increments a counter from the air after MAC verification. -/
def execTagIncCounter (counter amount : Nat) (mac : Octets) (s : State) : Out := onDev (tagIncCounter counter amount mac) s

/-- TAG_RELEASE (R268). RELEASE frees a lock the session holds on a block. -/
def execTagRelease (block : Nat) (s : State) : Out := onDev (tagRelease block) s

/-- TAG_MAC_VERDICT (R266). The answer to the tag core's MAC_VERIFY request arrives and the waiting command proceeds or fails. -/
def execTagMacVerdict (status : Nat) (s : State) : Out := onDev (tagVerdict status) s

/-- CHALLENGE_RECEIVE (R267). A CHALLENGE barge adds one challenge to the store, discarding the oldest when full. -/
def execChallengeReceive (challenge : Octets) (s : State) : Out := onDev (challengeReceive challenge) s

/-- WIRED_READ_BLOCK (R275). TAG_CMD READ_BLOCK reads a tag block for a field core. -/
def execWiredReadBlock (m idx : Nat) (s : State) : Out := onDev (wiredReadBlock m idx) s

/-- WIRED_WRITE_BLOCK (R277). TAG_CMD WRITE_BLOCK writes a tag block, refused with BLOCK_BUSY when locked. -/
def execWiredWriteBlock (m idx : Nat) (s : State) : Out := onDev (wiredWriteBlock m idx) s

/-- WIRED_READ_COUNTER (R275). TAG_CMD READ_COUNTER reads a tag counter for a field core. -/
def execWiredReadCounter (m idx : Nat) (s : State) : Out := onDev (wiredReadCounter m idx) s

/-- WIRED_INC_COUNTER (R270). TAG_CMD INC_COUNTER increments a tag counter, saturating and refusing at the maximum. -/
def execWiredIncCounter (m idx amount : Nat) (s : State) : Out := onDev (wiredIncCounter m idx amount) s

/-- TAG_MEMORY_ACCESS (R276). A waiting tag memory access starts when the memory is free, contactless first. -/
def execTagMemoryAccess (verify : Nat) (s : State) : Out := onDev (fun d => tagAccess verify d.pas.count d) s

/-- TAG_FIELD_COLLAPSE (R273). A field collapse or supply loss cuts a tag write or increment, leaving the old or new value. -/
def execTagFieldCollapse (how : Nat) (s : State) : Out := onDev (tagCollapse how) s

end Sys2Proof.Machine
end

