-- ==== Sys2Proof/Machine/Dispatch.lean ====
section
/-! DEFINITION. The dispatch: one arm per command, each a call of its meaning. -/

namespace Sys2Proof.Machine

def exec (i : Instr) (s : State) : Host.Outcome State Fault Refusal :=
  match i with
  | .passEdge => Sys2Proof.Machine.execPassEdge s
  | .fieldEdge => Sys2Proof.Machine.execFieldEdge s
  | .latchedLoRead m a => Sys2Proof.Machine.execLatchedLoRead m a s
  | .fineTimerRead core a => Sys2Proof.Machine.execFineTimerRead core a s
  | .registerWrite m pl a v => Sys2Proof.Machine.execRegisterWrite m pl a v s
  | .chamberFieldWrite m a v => Sys2Proof.Machine.execChamberFieldWrite m a v s
  | .claim m => Sys2Proof.Machine.execClaim m s
  | .level m => Sys2Proof.Machine.execLevel m s
  | .openNext m => Sys2Proof.Machine.execOpenNext m s
  | .openAt m => Sys2Proof.Machine.execOpenAt m s
  | .unschedule m => Sys2Proof.Machine.execUnschedule m s
  | .discard m => Sys2Proof.Machine.execDiscard m s
  | .levelComplete => Sys2Proof.Machine.execLevelComplete s
  | .chamberOpen => Sys2Proof.Machine.execChamberOpen s
  | .approval ring h tokenAddr => Sys2Proof.Machine.execApproval ring h tokenAddr s
  | .approvalAccept => Sys2Proof.Machine.execApprovalAccept s
  | .approvalExpiry => Sys2Proof.Machine.execApprovalExpiry s
  | .keySlotExpiry => Sys2Proof.Machine.execKeySlotExpiry s
  | .boundOverrun => Sys2Proof.Machine.execBoundOverrun s
  | .resultRelease => Sys2Proof.Machine.execResultRelease s
  | .partReqDrain m pl kind idx reason => Sys2Proof.Machine.execPartReqDrain m pl kind idx reason s
  | .partReqFence m pl kind idx reason => Sys2Proof.Machine.execPartReqFence m pl kind idx reason s
  | .partReqReturn m pl kind idx reason => Sys2Proof.Machine.execPartReqReturn m pl kind idx reason s
  | .partitionApply => Sys2Proof.Machine.execPartitionApply s
  | .drainComplete => Sys2Proof.Machine.execDrainComplete s
  | .submissionDoorbell f ring off size v => Sys2Proof.Machine.execSubmissionDoorbell f ring off size v s
  | .completionDoorbell f ring off size v => Sys2Proof.Machine.execCompletionDoorbell f ring off size v s
  | .descriptorFetch ring descs => Sys2Proof.Machine.execDescriptorFetch ring descs s
  | .descriptorFetchFailure ring cause => Sys2Proof.Machine.execDescriptorFetchFailure ring cause s
  | .stagingComplete ring pos data => Sys2Proof.Machine.execStagingComplete ring pos data s
  | .stagingReadFailure ring pos sub => Sys2Proof.Machine.execStagingReadFailure ring pos sub s
  | .ringEnable m ring log2 => Sys2Proof.Machine.execRingEnable m ring log2 s
  | .ringDrain m ring => Sys2Proof.Machine.execRingDrain m ring s
  | .ringDisable ring => Sys2Proof.Machine.execRingDisable ring s
  | .completionWrite ring => Sys2Proof.Machine.execCompletionWrite ring s
  | .moderationTimerExpiry ring => Sys2Proof.Machine.execModerationTimerExpiry ring s
  | .heldCompletion => Sys2Proof.Machine.execHeldCompletion s
  | .functionLevelReset f => Sys2Proof.Machine.execFunctionLevelReset f s
  | .d3hotEntry f => Sys2Proof.Machine.execD3hotEntry f s
  | .pcieLinkLoss hot => Sys2Proof.Machine.execPcieLinkLoss hot s
  | .encrypt ring h b => Sys2Proof.Machine.execEncrypt ring h b s
  | .decrypt ring h b => Sys2Proof.Machine.execDecrypt ring h b s
  | .macGenerate ring h b => Sys2Proof.Machine.execMacGenerate ring h b s
  | .macVerify ring h b => Sys2Proof.Machine.execMacVerify ring h b s
  | .hash ring h b => Sys2Proof.Machine.execHash ring h b s
  | .hmac ring h b => Sys2Proof.Machine.execHmac ring h b s
  | .job ring h b => Sys2Proof.Machine.execJob ring h b s
  | .lookup ring h form addr digest => Sys2Proof.Machine.execLookup ring h form addr digest s
  | .stageDeltas ring h count list => Sys2Proof.Machine.execStageDeltas ring h count list s
  | .commitEpoch ring h target => Sys2Proof.Machine.execCommitEpoch ring h target s
  | .chamberClaim ring h => Sys2Proof.Machine.execChamberClaim ring h s
  | .chamberWrite ring h count list => Sys2Proof.Machine.execChamberWrite ring h count list s
  | .chamberCmd ring h action target => Sys2Proof.Machine.execChamberCmd ring h action target s
  | .keyImport ring h slot len addr => Sys2Proof.Machine.execKeyImport ring h slot len addr s
  | .keyExport ring h slot kek maxLen addr => Sys2Proof.Machine.execKeyExport ring h slot kek maxLen addr s
  | .keyErase ring h slot => Sys2Proof.Machine.execKeyErase ring h slot s
  | .partition ring h req => Sys2Proof.Machine.execPartition ring h req s
  | .cancelRing ring h named => Sys2Proof.Machine.execCancelRing ring h named s
  | .regRead ring h addr selAddr selValue => Sys2Proof.Machine.execRegRead ring h addr selAddr selValue s
  | .holdUnlock ring h len addr => Sys2Proof.Machine.execHoldUnlock ring h len addr s
  | .envSeal ring h peer kind len src dst dstMax => Sys2Proof.Machine.execEnvSeal ring h peer kind len src dst dstMax s
  | .envOpen ring h peer kind len src dst dstMax => Sys2Proof.Machine.execEnvOpen ring h peer kind len src dst dstMax s
  | .cipherOpComplete id wcc => Sys2Proof.Machine.execCipherOpComplete id wcc s
  | .hashOpComplete id wcc => Sys2Proof.Machine.execHashOpComplete id wcc s
  | .lateResultDiscard kind idx => Sys2Proof.Machine.execLateResultDiscard kind idx s
  | .keyExhaustion slot => Sys2Proof.Machine.execKeyExhaustion slot s
  | .fwqDoorbell q pl v => Sys2Proof.Machine.execFwqDoorbell q pl v s
  | .kslImport m pl => Sys2Proof.Machine.execKslImport m pl s
  | .kslExport m pl => Sys2Proof.Machine.execKslExport m pl s
  | .kslErase m pl => Sys2Proof.Machine.execKslErase m pl s
  | .derive m pl => Sys2Proof.Machine.execDerive m pl s
  | .unwrap3394 m pl => Sys2Proof.Machine.execUnwrap3394 m pl s
  | .plainFrameArrival link frame fcsOk => Sys2Proof.Machine.execPlainFrameArrival link frame fcsOk s
  | .sealedFrameArrival link frame fcsOk => Sys2Proof.Machine.execSealedFrameArrival link frame fcsOk s
  | .stageAdvance stream stage integ => Sys2Proof.Machine.execStageAdvance stream stage integ s
  | .frameTransmit stream integ => Sys2Proof.Machine.execFrameTransmit stream integ s
  | .uncontrolledTx link v => Sys2Proof.Machine.execUncontrolledTx link v s
  | .uqRxHeadWrite link v => Sys2Proof.Machine.execUqRxHeadWrite link v s
  | .linkStateChange link bit up => Sys2Proof.Machine.execLinkStateChange link bit up s
  | .loadSak m pl => Sys2Proof.Machine.execLoadSak m pl s
  | .clearKey m pl => Sys2Proof.Machine.execClearKey m pl s
  | .pnWarn sa => Sys2Proof.Machine.execPnWarn sa s
  | .saFreeze sa => Sys2Proof.Machine.execSaFreeze sa s
  | .saRetire sa => Sys2Proof.Machine.execSaRetire sa s
  | .loadImage m pl => Sys2Proof.Machine.execLoadImage m pl s
  | .grdFwqDoorbell q pl v => Sys2Proof.Machine.execGrdFwqDoorbell q pl v s
  | .grdFwqCancel q v => Sys2Proof.Machine.execGrdFwqCancel q v s
  | .yieldPointSave unit => Sys2Proof.Machine.execYieldPointSave unit s
  | .suspendedJobResume unit => Sys2Proof.Machine.execSuspendedJobResume unit s
  | .grinderJobEnd unit wcc => Sys2Proof.Machine.execGrinderJobEnd unit wcc s
  | .rsaSelfcheckFailure unit => Sys2Proof.Machine.execRsaSelfcheckFailure unit s
  | .hardwareDraw who => Sys2Proof.Machine.execHardwareDraw who s
  | .repetitionCountFailure mask run => Sys2Proof.Machine.execRepetitionCountFailure mask run s
  | .windowComplete src samples => Sys2Proof.Machine.execWindowComplete src samples s
  | .startupTestComplete runs => Sys2Proof.Machine.execStartupTestComplete runs s
  | .hopRetest m mask => Sys2Proof.Machine.execHopRetest m mask s
  | .generatorInstantiate inst katOk => Sys2Proof.Machine.execGeneratorInstantiate inst katOk s
  | .generatorReseed inst => Sys2Proof.Machine.execGeneratorReseed inst s
  | .reseedOverdue inst => Sys2Proof.Machine.execReseedOverdue inst s
  | .hopSwDrawRead m => Sys2Proof.Machine.execHopSwDrawRead m s
  | .rawModeEnable m src => Sys2Proof.Machine.execRawModeEnable m src s
  | .rawModeEntry => Sys2Proof.Machine.execRawModeEntry s
  | .hopRawDataRead m arrived => Sys2Proof.Machine.execHopRawDataRead m arrived s
  | .rawModeExit m => Sys2Proof.Machine.execRawModeExit m s
  | .lookupComplete id wcc => Sys2Proof.Machine.execLookupComplete id wcc s
  | .crgStage m pl wcc => Sys2Proof.Machine.execCrgStage m pl wcc s
  | .crgCommit m pl => Sys2Proof.Machine.execCrgCommit m pl s
  | .crgDiscard m pl => Sys2Proof.Machine.execCrgDiscard m pl s
  | .deltaPreparation => Sys2Proof.Machine.execDeltaPreparation s
  | .epochSwitch => Sys2Proof.Machine.execEpochSwitch s
  | .commitTimeout => Sys2Proof.Machine.execCommitTimeout s
  | .kekActivation => Sys2Proof.Machine.execKekActivation s
  | .sweepStart engine => Sys2Proof.Machine.execSweepStart engine s
  | .ping engine amp phase => Sys2Proof.Machine.execPing engine amp phase s
  | .baselinePing engine port amp phase => Sys2Proof.Machine.execBaselinePing engine port amp phase s
  | .lingerExpiry port => Sys2Proof.Machine.execLingerExpiry port s
  | .flightReady flight => Sys2Proof.Machine.execFlightReady flight s
  | .request m port mode => Sys2Proof.Machine.execRequest m port mode s
  | .release m port mode => Sys2Proof.Machine.execRelease m port mode s
  | .withdraw m port mode => Sys2Proof.Machine.execWithdraw m port mode s
  | .grantCeiling port => Sys2Proof.Machine.execGrantCeiling port s
  | .tuningComplete chain ser shu vswr fwd refl => Sys2Proof.Machine.execTuningComplete chain ser shu vswr fwd refl s
  | .settleEnd chain => Sys2Proof.Machine.execSettleEnd chain s
  | .vswrMismatch chain v1 v2 => Sys2Proof.Machine.execVswrMismatch chain v1 v2 s
  | .aptClear m port v => Sys2Proof.Machine.execAptClear m port v s
  | .fieldSupplyFault high => Sys2Proof.Machine.execFieldSupplyFault high s
  | .eventQueueWrite core => Sys2Proof.Machine.execEventQueueWrite core s
  | .fldEvqHeadWrite core v => Sys2Proof.Machine.execFldEvqHeadWrite core v s
  | .chnFqTailWrite m chain v => Sys2Proof.Machine.execChnFqTailWrite m chain v s
  | .activateA chain answers => Sys2Proof.Machine.execActivateA chain answers s
  | .activateB chain answers => Sys2Proof.Machine.execActivateB chain answers s
  | .exchange chain air frame => Sys2Proof.Machine.execExchange chain air frame s
  | .emuArm chain rats => Sys2Proof.Machine.execEmuArm chain rats s
  | .emuReceive chain => Sys2Proof.Machine.execEmuReceive chain s
  | .emuRespond chain => Sys2Proof.Machine.execEmuRespond chain s
  | .entryCompletion chain => Sys2Proof.Machine.execEntryCompletion chain s
  | .wtxRequestReceived chain wtxm => Sys2Proof.Machine.execWtxRequestReceived chain wtxm s
  | .readerFrameReceived chain good frame => Sys2Proof.Machine.execReaderFrameReceived chain good frame s
  | .emuWtxTimer chain => Sys2Proof.Machine.execEmuWtxTimer chain s
  | .emuFieldLost chain => Sys2Proof.Machine.execEmuFieldLost chain s
  | .tagSessionStart port fsdi => Sys2Proof.Machine.execTagSessionStart port fsdi s
  | .tagSessionEnd how => Sys2Proof.Machine.execTagSessionEnd how s
  | .tagSelect aid => Sys2Proof.Machine.execTagSelect aid s
  | .tagReadBlock block => Sys2Proof.Machine.execTagReadBlock block s
  | .tagReadBlockLock block mac => Sys2Proof.Machine.execTagReadBlockLock block mac s
  | .tagReadCounter counter => Sys2Proof.Machine.execTagReadCounter counter s
  | .getChallenge => Sys2Proof.Machine.execGetChallenge s
  | .tagWriteBlock block data mac => Sys2Proof.Machine.execTagWriteBlock block data mac s
  | .tagIncCounter counter amount mac => Sys2Proof.Machine.execTagIncCounter counter amount mac s
  | .tagRelease block => Sys2Proof.Machine.execTagRelease block s
  | .tagMacVerdict status => Sys2Proof.Machine.execTagMacVerdict status s
  | .challengeReceive challenge => Sys2Proof.Machine.execChallengeReceive challenge s
  | .wiredReadBlock m idx => Sys2Proof.Machine.execWiredReadBlock m idx s
  | .wiredWriteBlock m idx => Sys2Proof.Machine.execWiredWriteBlock m idx s
  | .wiredReadCounter m idx => Sys2Proof.Machine.execWiredReadCounter m idx s
  | .wiredIncCounter m idx amount => Sys2Proof.Machine.execWiredIncCounter m idx amount s
  | .tagMemoryAccess verify => Sys2Proof.Machine.execTagMemoryAccess verify s
  | .tagFieldCollapse how => Sys2Proof.Machine.execTagFieldCollapse how s
  | .bargeSend toField lane => Sys2Proof.Machine.execBargeSend toField lane s
  | .bargeReceive toField lane errs => Sys2Proof.Machine.execBargeReceive toField lane errs s
  | .bargeQueueWrite toField lane => Sys2Proof.Machine.execBargeQueueWrite toField lane s
  | .lkgTxqTailWrite m v => Sys2Proof.Machine.execLkgTxqTailWrite m v s
  | .lkgRxqHeadWrite m v => Sys2Proof.Machine.execLkgRxqHeadWrite m v s
  | .presenceReport => Sys2Proof.Machine.execPresenceReport s
  | .chainGrant => Sys2Proof.Machine.execChainGrant s
  | .credQuery => Sys2Proof.Machine.execCredQuery s
  | .credAnswer => Sys2Proof.Machine.execCredAnswer s
  | .cryptoRequest => Sys2Proof.Machine.execCryptoRequest s
  | .cryptoAnswer => Sys2Proof.Machine.execCryptoAnswer s
  | .auditRecord => Sys2Proof.Machine.execAuditRecord s
  | .health => Sys2Proof.Machine.execHealth s
  | .configPush => Sys2Proof.Machine.execConfigPush s
  | .configAck => Sys2Proof.Machine.execConfigAck s
  | .firmwareBlock => Sys2Proof.Machine.execFirmwareBlock s
  | .drawFill => Sys2Proof.Machine.execDrawFill s
  | .challenge => Sys2Proof.Machine.execChallenge s
  | .replayInput => Sys2Proof.Machine.execReplayInput s
  | .replayLog => Sys2Proof.Machine.execReplayLog s
  | .fieldMessage => Sys2Proof.Machine.execFieldMessage s
  | .coreStopBarge => Sys2Proof.Machine.execCoreStopBarge s
  | .mbxSend m channel => Sys2Proof.Machine.execMbxSend m channel s
  | .mbxAck m channel seq => Sys2Proof.Machine.execMbxAck m channel seq s
  | .mailboxTimeout channel => Sys2Proof.Machine.execMailboxTimeout channel s
  | .add x rd ra rb => Sys2Proof.Machine.execAdd x rd ra rb s
  | .sub x rd ra rb => Sys2Proof.Machine.execSub x rd ra rb s
  | .addc x rd ra rb => Sys2Proof.Machine.execAddc x rd ra rb s
  | .subb x rd ra rb => Sys2Proof.Machine.execSubb x rd ra rb s
  | .and x rd ra rb => Sys2Proof.Machine.execAnd x rd ra rb s
  | .or x rd ra rb => Sys2Proof.Machine.execOr x rd ra rb s
  | .xor x rd ra rb => Sys2Proof.Machine.execXor x rd ra rb s
  | .andn x rd ra rb => Sys2Proof.Machine.execAndn x rd ra rb s
  | .slt x rd ra rb => Sys2Proof.Machine.execSlt x rd ra rb s
  | .sltu x rd ra rb => Sys2Proof.Machine.execSltu x rd ra rb s
  | .cmp x ra rb => Sys2Proof.Machine.execCmp x ra rb s
  | .neg x rd ra => Sys2Proof.Machine.execNeg x rd ra s
  | .min x rd ra rb => Sys2Proof.Machine.execMin x rd ra rb s
  | .max x rd ra rb => Sys2Proof.Machine.execMax x rd ra rb s
  | .addi x rd ra imm => Sys2Proof.Machine.execAddi x rd ra imm s
  | .andi x rd ra imm => Sys2Proof.Machine.execAndi x rd ra imm s
  | .ori x rd ra imm => Sys2Proof.Machine.execOri x rd ra imm s
  | .xori x rd ra imm => Sys2Proof.Machine.execXori x rd ra imm s
  | .slti x rd ra imm => Sys2Proof.Machine.execSlti x rd ra imm s
  | .sltiu x rd ra imm => Sys2Proof.Machine.execSltiu x rd ra imm s
  | .lih x rd imm => Sys2Proof.Machine.execLih x rd imm s
  | .cmpi x ra imm => Sys2Proof.Machine.execCmpi x ra imm s
  | .shl x rd ra rb => Sys2Proof.Machine.execShl x rd ra rb s
  | .shr x rd ra rb => Sys2Proof.Machine.execShr x rd ra rb s
  | .sar x rd ra rb => Sys2Proof.Machine.execSar x rd ra rb s
  | .rol x rd ra rb => Sys2Proof.Machine.execRol x rd ra rb s
  | .shli x rd ra sh => Sys2Proof.Machine.execShli x rd ra sh s
  | .shri x rd ra sh => Sys2Proof.Machine.execShri x rd ra sh s
  | .sari x rd ra sh => Sys2Proof.Machine.execSari x rd ra sh s
  | .roli x rd ra sh => Sys2Proof.Machine.execRoli x rd ra sh s
  | .extu x rd ra lo w => Sys2Proof.Machine.execExtu x rd ra lo w s
  | .ins x rd ra lo w => Sys2Proof.Machine.execIns x rd ra lo w s
  | .mul x rd ra rb => Sys2Proof.Machine.execMul x rd ra rb s
  | .mulh x rd ra rb => Sys2Proof.Machine.execMulh x rd ra rb s
  | .mulhu x rd ra rb => Sys2Proof.Machine.execMulhu x rd ra rb s
  | .mulp x rd ra rb => Sys2Proof.Machine.execMulp x rd ra rb s
  | .div x rd ra rb => Sys2Proof.Machine.execDiv x rd ra rb s
  | .divu x rd ra rb => Sys2Proof.Machine.execDivu x rd ra rb s
  | .rem x rd ra rb => Sys2Proof.Machine.execRem x rd ra rb s
  | .remu x rd ra rb => Sys2Proof.Machine.execRemu x rd ra rb s
  | .ldw x rd ra imm => Sys2Proof.Machine.execLdw x rd ra imm s
  | .stw x rd ra imm => Sys2Proof.Machine.execStw x rd ra imm s
  | .ldp x rd ra imm => Sys2Proof.Machine.execLdp x rd ra imm s
  | .stp x rd ra imm => Sys2Proof.Machine.execStp x rd ra imm s
  | .ldh x rd ra imm => Sys2Proof.Machine.execLdh x rd ra imm s
  | .ldhs x rd ra imm => Sys2Proof.Machine.execLdhs x rd ra imm s
  | .sth x rd ra imm => Sys2Proof.Machine.execSth x rd ra imm s
  | .ldo x rd ra imm => Sys2Proof.Machine.execLdo x rd ra imm s
  | .ldos x rd ra imm => Sys2Proof.Machine.execLdos x rd ra imm s
  | .sto x rd ra imm => Sys2Proof.Machine.execSto x rd ra imm s
  | .ldsp x rd imm => Sys2Proof.Machine.execLdsp x rd imm s
  | .stsp x rd imm => Sys2Proof.Machine.execStsp x rd imm s
  | .adjsp x imm => Sys2Proof.Machine.execAdjsp x imm s
  | .push x rd => Sys2Proof.Machine.execPush x rd s
  | .pop x rd => Sys2Proof.Machine.execPop x rd s
  | .lpc x rd imm => Sys2Proof.Machine.execLpc x rd imm s
  | .ldx x rd ra => Sys2Proof.Machine.execLdx x rd ra s
  | .stx x rd rb ra => Sys2Proof.Machine.execStx x rd rb ra s
  | .beq x ra rb off => Sys2Proof.Machine.execBeq x ra rb off s
  | .bne x ra rb off => Sys2Proof.Machine.execBne x ra rb off s
  | .blt x ra rb off => Sys2Proof.Machine.execBlt x ra rb off s
  | .bge x ra rb off => Sys2Proof.Machine.execBge x ra rb off s
  | .bltu x ra rb off => Sys2Proof.Machine.execBltu x ra rb off s
  | .bgeu x ra rb off => Sys2Proof.Machine.execBgeu x ra rb off s
  | .bcc x cond off => Sys2Proof.Machine.execBcc x cond off s
  | .jmp x off => Sys2Proof.Machine.execJmp x off s
  | .call x off => Sys2Proof.Machine.execCall x off s
  | .jmpr x ra => Sys2Proof.Machine.execJmpr x ra s
  | .callr x ra => Sys2Proof.Machine.execCallr x ra s
  | .ret x => Sys2Proof.Machine.execRet x s
  | .bmove x rd ra rb iters => Sys2Proof.Machine.execBmove x rd ra rb iters s
  | .bfill x rd ra rb iters => Sys2Proof.Machine.execBfill x rd ra rb iters s
  | .bcmp x rd ra rb full iters => Sys2Proof.Machine.execBcmp x rd ra rb full iters s
  | .bcrc x rd ra rb iters => Sys2Proof.Machine.execBcrc x rd ra rb iters s
  | .trap x fn => Sys2Proof.Machine.execTrap x fn s
  | .eret x => Sys2Proof.Machine.execEret x s
  | .fence x fn => Sys2Proof.Machine.execFence x fn s
  | .mpusync x => Sys2Proof.Machine.execMpusync x s
  | .waitpass x rd => Sys2Proof.Machine.execWaitpass x rd s
  | .feat x rd n => Sys2Proof.Machine.execFeat x rd n s
  | .mfsr x rd sr => Sys2Proof.Machine.execMfsr x rd sr s
  | .mtsr x sr ra => Sys2Proof.Machine.execMtsr x sr ra s
  | .interruptEntry core vec => Sys2Proof.Machine.execInterruptEntry core vec s
  | .mpuRegionWrite m pl a v => Sys2Proof.Machine.execMpuRegionWrite m pl a v s
  | .tamperEvent source => Sys2Proof.Machine.execTamperEvent source s
  | .countDecay source => Sys2Proof.Machine.execCountDecay source s
  | .responseWindowEnd => Sys2Proof.Machine.execResponseWindowEnd s
  | .keepCellSample found => Sys2Proof.Machine.execKeepCellSample found s
  | .holdUnlockVerified id => Sys2Proof.Machine.execHoldUnlockVerified id s
  | .holdRelease => Sys2Proof.Machine.execHoldRelease s
  | .toFactory m => Sys2Proof.Machine.execToFactory m s
  | .provision m => Sys2Proof.Machine.execProvision m s
  | .toScrap m => Sys2Proof.Machine.execToScrap m s
  | .issueChallenge m => Sys2Proof.Machine.execIssueChallenge m s
  | .verifyResponse m => Sys2Proof.Machine.execVerifyResponse m s
  | .fuseRowWrite ok => Sys2Proof.Machine.execFuseRowWrite ok s
  | .challengeExpiry => Sys2Proof.Machine.execChallengeExpiry s
  | .kBoot bad lost => Sys2Proof.Machine.execKBoot bad lost s
  | .extest rstn pins shift => Sys2Proof.Machine.execExtest rstn pins shift s
  | .idcode => Sys2Proof.Machine.execIdcode s
  | .samplePreload pins shift => Sys2Proof.Machine.execSamplePreload pins shift s
  | .auth resp => Sys2Proof.Machine.execAuth resp s
  | .debug => Sys2Proof.Machine.execDebug s
  | .bypass ir => Sys2Proof.Machine.execBypass ir s
  | .towpathSessionOpen => Sys2Proof.Machine.execTowpathSessionOpen s
  | .dbgDataAccess w => Sys2Proof.Machine.execDbgDataAccess w s
  | .dbgCoreWrite v => Sys2Proof.Machine.execDbgCoreWrite v s
  | .flashRead m pl => Sys2Proof.Machine.execFlashRead m pl s
  | .flashProgram m pl => Sys2Proof.Machine.execFlashProgram m pl s
  | .flashErase m pl => Sys2Proof.Machine.execFlashErase m pl s
  | .flashSuspend m pl => Sys2Proof.Machine.execFlashSuspend m pl s
  | .flashResume m pl => Sys2Proof.Machine.execFlashResume m pl s
  | .readCal m pl => Sys2Proof.Machine.execReadCal m pl s
  | .flashCommit m pl => Sys2Proof.Machine.execFlashCommit m pl s
  | .flashOpComplete plane ok corrected wcc => Sys2Proof.Machine.execFlashOpComplete plane ok corrected wcc s
  | .flsXipCtlWrite m pl v => Sys2Proof.Machine.execFlsXipCtlWrite m pl v s
  | .flashControllerRelease => Sys2Proof.Machine.execFlashControllerRelease s
  | .cardInsertion slot => Sys2Proof.Machine.execCardInsertion slot s
  | .cardIdentification slot found => Sys2Proof.Machine.execCardIdentification slot found s
  | .cardRemoval slot sent => Sys2Proof.Machine.execCardRemoval slot sent s
  | .recordWrite slot fails => Sys2Proof.Machine.execRecordWrite slot fails s
  | .sdBusyTimeout slot => Sys2Proof.Machine.execSdBusyTimeout slot s
  | .append m pl wcc => Sys2Proof.Machine.execAppend m pl wcc s
  | .sdRead m pl wcc => Sys2Proof.Machine.execSdRead m pl wcc s
  | .sdOpen m pl => Sys2Proof.Machine.execSdOpen m pl s
  | .sdClose m pl => Sys2Proof.Machine.execSdClose m pl s
  | .protectPerm m pl => Sys2Proof.Machine.execProtectPerm m pl s
  | .officerCardPresence card present => Sys2Proof.Machine.execOfficerCardPresence card present s
  | .activate m pl card => Sys2Proof.Machine.execActivate m pl card s
  | .officerAuth m pl card => Sys2Proof.Machine.execOfficerAuth m pl card s
  | .approve m pl card => Sys2Proof.Machine.execApprove m pl card s
  | .deactivate m pl card => Sys2Proof.Machine.execDeactivate m pl card s
  | .officerSessionExpiry card => Sys2Proof.Machine.execOfficerSessionExpiry card s
  | .officerCardTimeout card => Sys2Proof.Machine.execOfficerCardTimeout card s
  | .recordClose => Sys2Proof.Machine.execRecordClose s
  | .recordDelivery consumed => Sys2Proof.Machine.execRecordDelivery consumed s
  | .replayedEdge record => Sys2Proof.Machine.execReplayedEdge record s
  | .pmuCounterOverflow core counter => Sys2Proof.Machine.execPmuCounterOverflow core counter s
  | .bandwidthWindowClose counts => Sys2Proof.Machine.execBandwidthWindowClose counts s
  | .pmuBwClear => Sys2Proof.Machine.execPmuBwClear s
  | .pmuClear m pl core => Sys2Proof.Machine.execPmuClear m pl core s
  | .sampleTag core => Sys2Proof.Machine.execSampleTag core s
  | .sampleRecord core x => Sys2Proof.Machine.execSampleRecord core x s
  | .pmuSmpDataRead m core => Sys2Proof.Machine.execPmuSmpDataRead m core s
  | .resetSourceAssert source core => Sys2Proof.Machine.execResetSourceAssert source core s
  | .rstCmd m v => Sys2Proof.Machine.execRstCmd m v s
  | .resetReleaseStep step => Sys2Proof.Machine.execResetReleaseStep step s
  | .rstGo m step => Sys2Proof.Machine.execRstGo m step s
  | .rstCoreGo m core => Sys2Proof.Machine.execRstCoreGo m core s
  | .fieldCoreRelease core => Sys2Proof.Machine.execFieldCoreRelease core s
  | .rstFuseProg m v => Sys2Proof.Machine.execRstFuseProg m v s
  | .rstStopClr m v => Sys2Proof.Machine.execRstStopClr m v s
  | .watchdogKick m core => Sys2Proof.Machine.execWatchdogKick m core s
  | .watchdogWarning core => Sys2Proof.Machine.execWatchdogWarning core s
  | .watchdogExpiry core => Sys2Proof.Machine.execWatchdogExpiry core s
  | .pwrMoncInc m pl counter => Sys2Proof.Machine.execPwrMoncInc m pl counter s
  | .powerGood => Sys2Proof.Machine.execPowerGood s
  | .brownOut rail ext => Sys2Proof.Machine.execBrownOut rail ext s
  | .keepSupplyLost => Sys2Proof.Machine.execKeepSupplyLost s
  | .fieldSupplyRecovery => Sys2Proof.Machine.execFieldSupplyRecovery s
  | .tamperConditionClear source => Sys2Proof.Machine.execTamperConditionClear source s
  | .approvalVerified id => Sys2Proof.Machine.execApprovalVerified id s
  | .envelopeOperationComplete id wcc => Sys2Proof.Machine.execEnvelopeOperationComplete id wcc s
  | .keyOperationComplete id wcc => Sys2Proof.Machine.execKeyOperationComplete id wcc s
  | .imageLoadComplete unit wcc => Sys2Proof.Machine.execImageLoadComplete unit wcc s
  | .mailboxSendArrival channel words => Sys2Proof.Machine.execMailboxSendArrival channel words s
  | .pcieLinkUp width speed => Sys2Proof.Machine.execPcieLinkUp width speed s
  | .pcieConfigurationWrite w => Sys2Proof.Machine.execPcieConfigurationWrite w s
  | .msixTableWrite w => Sys2Proof.Machine.execMsixTableWrite w s
  | .officerCardAnswer card atrs rsp => Sys2Proof.Machine.execOfficerCardAnswer card atrs rsp s
  | .tapReset => Sys2Proof.Machine.execTapReset s

end Sys2Proof.Machine
end

