-- ==== Sys2Proof/Safety.lean ====
section
/-! DEFINITION. What the statements speak of: memory in canonical form, a core ready to carry out an instruction, and the state an instruction
leaves. -/

namespace Sys2Proof.Machine

/-- A sparse memory of words or octets in its one canonical form: addresses strictly rising, and no entry equal to what an unlisted address reads
as. -/
abbrev Memory.wf {n : Nat} (t : Tab (BitVec n)) : Prop := tabWf 0 t = true

/-- Every memory of a device in canonical form: host-island memory, field-island memory and the host memory the device has written. -/
abbrev Dev.memWf (d : Dev) : Prop := Memory.wf d.mem ∧ Memory.wf d.fmem ∧ Memory.wf d.host

/-- Every memory of a state in canonical form: those of the live device and of the two latched ones. -/
abbrev State.memWf (s : State) : Prop := s.dev.memWf ∧ s.latch.memWf ∧ s.latchF.memWf

/-- A core's instruction issues and is fetched: the core runs, does not wait, no interrupt goes first, it is not replayed, neither the fetch nor a data
word fails its check or meets a bit error of the flash, and the word fetched is an instruction. -/
def ready (x : Issue) (d : Dev) : Bool :=
  coreLive d x.core && (coreGet d x.core).waiting.isNone && (takable d x.core).isNone && !replayed d x.core && (fetchFault x d).isNone &&
    x.data.isNone && decide (x.vec = {}) && x.media.isNone && !badWord x

/-- A core's record after an instruction has retired: it goes on at a PC, has made one step of progress, used a Towpath step up and is in no block
instruction. -/
def Core.retired (c : Core) (pc : Nat) : Core := { c with pc := pc, progress := c.progress + 1, stepOne := false, inBlock := false }

/-- The same, going on at the next instruction. -/
def Core.stepped (c : Core) : Core := c.retired (wrap36 (c.pc + 1))

/-- State t is state s after core m's record has become c: no other core, no memory, no register word outside the core's own PMU group, and
nothing else has changed. -/
def Ran (m : Nat) (c : Core) (s t : State) : Prop :=
  t = { s with dev := { s.dev with cores := t.dev.cores, regs := t.dev.regs } } ∧ coreGet t.dev m = c ∧
    (∀ n, n ≠ m → coreGet t.dev n = coreGet s.dev n) ∧ ∀ a, a / 256 ≠ 0x1800 + m → rg t.dev a = rg s.dev a

/-- The flags of a sum a + b + k that wraps to r (Table 12.2): zero, bit 35, carry out, signed overflow. -/
def SumFlags (f : Flags) (a b : Word) (k : Nat) (r : Word) : Prop :=
  (f.z = true ↔ r = 0) ∧ f.n = r.msb ∧ (f.c = true ↔ 2 ^ 36 ≤ a.toNat + b.toNat + k) ∧ (f.v = true ↔ r.toInt ≠ a.toInt + b.toInt + k)

/-- The flags of a difference a - b - k that wraps to r (Table 12.2): zero, bit 35, no borrow, signed overflow. -/
def DiffFlags (f : Flags) (a b : Word) (k : Nat) (r : Word) : Prop :=
  (f.z = true ↔ r = 0) ∧ f.n = r.msb ∧ (f.c = true ↔ b.toNat + k ≤ a.toNat) ∧ (f.v = true ↔ r.toInt ≠ a.toInt - b.toInt - k)

/-- A master's access to a register word is let through: the Towpath's alone has a port, a scope and the checks of R354 before it (R394). -/
def PortLets (right m a : Nat) (d : Dev) : Prop :=
  m = 2 → portSelected d = true ∧ hasScope d 1 = true ∧ dbgRefused right (0xF00000000 + a) d = none

/-! ### Descriptors of a ring -/

/-- A 64-octet descriptor with the header of Table 3.12 and the given body fields, each as offset, length and value (octets little-endian). -/
def described (opcode : Nat) (h : DescHdr) (fs : List (Nat × Nat × Nat)) (o : Octets) : Prop :=
  o.length = 64 ∧ ∀ f ∈ [(0, 1, opcode), (1, 1, b2n h.intr + 2 * b2n h.barrier), (2, 1, h.rqMode % 4 + 16 * (h.rqK % 16)), (3, 1, 0), (4, 4, h.opTag)] ++ fs,
    leAt o f.1 f.2.1 = f.2.2 % 256 ^ f.2.1

/-- State t is state s after the Wharf has fetched one descriptor from a ring: one operation more in flight, of the ring's function and at the ring's
head, its descriptor as P tells; in HOLD it ends with HELD at the next edge unless it may run there (R85); the head is one further, the ring's turn in
the rotation has gone one descriptor further or begun (R72), and nothing else has changed. -/
def Fetched (r : Nat) (P : Octets → Prop) (s t : State) : Prop :=
  let d := s.dev
  let x := ringGet d r
  let y := ringGet t.dev r
  let turn := if r = d.fetchRing ∧ 0 < d.fetchCnt ∧ d.fetchCnt < 16 then d.fetchCnt + 1 else 1
  ∃ o : Op, t = { s with dev := { d with rings := t.dev.rings, ops := d.ops ++ [o], opSeq := d.opSeq + 1, fetchRing := r, fetchCnt := turn } } ∧
    o.id = d.opSeq ∧ o.src = .ring r x.head ∧ o.ctx = 0x40 + ringFn d r ∧ P o.desc ∧
    (if d.keep.hold = true ∧ runsInHold d o = false then o.phase = .ended ∧ o.status = St.held ∧ o.dueAt = d.pas.count + 1
      else o.phase = .fetched ∨ o.phase = .staged) ∧
    y.head = (x.head + 1) % (2 * x.size) ∧ y.tail = x.tail ∧ y.cq = x.cq ∧ y.state = x.state ∧ ∀ q, q ≠ r → ringGet t.dev q = ringGet d q

/-- R452: every entry of the reset map that is blown holds a level Table 20.2 permits its source. -/
def fusesLegal (d : Dev) : Bool := d.rst.fuses.all (fun e => decide (16 < e.1) || decide (e.2 ≠ 0 ∧ e.2 - 1 ∈ srcPermitted e.1))

/-! ### Commands of command registers (R108, R478) -/

/-- State t is state s after a command register of a block has taken a command of a master: VALID clear and the command outstanding, and one operation
more, to be offered at the next edge, with the command's code, packing, arguments and privilege level; nothing else has changed. -/
def Taken (blk m code pl : Nat) (dense : Bool) (args : List Nat) (phase : Phase) (status dueAt : Nat) (s t : State) : Prop :=
  let d := s.dev
  ∃ o : Op, t = { s with dev := { d with cmds := t.dev.cmds, ops := d.ops ++ [o], opSeq := d.opSeq + 1 } } ∧
    o.id = d.opSeq ∧ o.src = .cmd blk m ∧ o.ctx = (if isH m then 0x10 else m) ∧ o.pl = pl ∧ o.desc.length = 64 ∧ leAt o.desc 0 3 = code ∧
    leAt o.desc 3 1 = b2n dense ∧ o.aux = args ∧ o.phase = phase ∧ o.status = status ∧ o.dueAt = dueAt ∧ o.eligAt = d.pas.count + 1 ∧
    cmdGet t.dev blk m = ⟨true, false, 0⟩ ∧ ∀ b n, b < 256 → n < 256 → m < 256 → (b, n) ≠ (blk, m) → cmdGet t.dev b n = cmdGet d b n

/-! ### Memory words of a core -/

/-- A memory word a core may read, or write, with the rights of a level: outside register space and the host window, and granted by its MPU. -/
def readable (m pl a : Nat) (d : Dev) : Bool := !deviceSpace m a && (refusal d m m pl 0 a).isNone
def writable (m pl a : Nat) (d : Dev) : Bool := !deviceSpace m a && (refusal d m m pl 1 a).isNone

/-- A word of the RAM of core m's island. -/
def ramWord (d : Dev) (m a : Nat) : Word := if isF m then fmRd d a else memRd d a

/-- Is word b one of n words stored by core m from a on, and not read-only? -/
def storedAt (m a n b : Nat) : Bool := decide (a ≤ b) && decide (b < a + n) && !romWord m b

/-- A core's record after core m has stored n words from a on: a core of the same island loses a reservation on a granule written (R314). -/
def Core.afterStore (m a n k : Nat) (c : Core) : Core :=
  match c.resv with
  | some g => if isF k = isF m ∧ (List.range n).any (fun i => !romWord m (a + i) && decide ((a + i) / 8 = g)) then { c with resv := none } else c
  | none => c

/-- State t is state s after core m has stored words from a on and its record has become c: no other word of memory, no other memory, no register
word outside the core's own PMU group, and nothing else has changed. -/
def Stored (m : Nat) (c : Core) (a : Nat) (ws : List Word) (s t : State) : Prop :=
  t = { s with dev := { s.dev with cores := t.dev.cores, regs := t.dev.regs, mem := t.dev.mem, fmem := t.dev.fmem } } ∧
  coreGet t.dev m = c ∧ (∀ n, n ≠ m → coreGet t.dev n = (coreGet s.dev n).afterStore m a ws.length n) ∧
  (∀ b, ramWord t.dev m b = if storedAt m a ws.length b then ws.getD (b - a) 0 else ramWord s.dev m b) ∧
  (if isF m then t.dev.mem = s.dev.mem else t.dev.fmem = s.dev.fmem) ∧ ∀ b, b / 256 ≠ 0x1800 + m → rg t.dev b = rg s.dev b

/-! ### Exception entry of a core -/

/-- The level at which vector v is taken (R330). -/
def entryLevel (m v : Nat) (d : Dev) : Nat := min (fld (coreWord d m (vectorAt d m v)) 1 0) (coreGet d m).pl

/-- Vector v can be taken normally: not in the bywash, its entry readable with TARGET P0 or P1, and its frame passes every check (R331, R332). -/
def entryOk (m v : Nat) (d : Dev) : Bool :=
  let c := coreGet d m
  let l := entryLevel m v d
  let sp := (tabGet 0 c.sp l).toNat
  decide (c.bwdepth = 0) && (vectorRefused d m v).isNone && decide (fld (coreWord d m (vectorAt d m v)) 1 0 ≤ 1) && decide (4 ≤ sp) &&
    decide ((tabGet 0 c.sl l).toNat ≤ sp - 4) && [1, 2, 3, 4].all (fun k => writable m l (sp - k) d)

/-- FCAUSE of an entry that is no bywash entry (Table 13.6). -/
def entryCause (v fromPl access detail : Nat) : Word := BitVec.ofNat 36 (v + 2 ^ 6 * fromPl + 2 ^ 8 * access + 2 ^ 11 * detail)

/-- A core's record in the handler of vector v (R332): its frame on the stack of the level, FCAUSE and FADDR, SW with the level, STILL set and RES
clear, no reservation, at the handler's address. -/
def Core.inHandler (c : Core) (m v : Nat) (d : Dev) (cause : Word) (addr : Nat) : Core :=
  let l := entryLevel m v d
  let e := coreWord d m (vectorAt d m v)
  { c with sp := tabSet 0 c.sp l (tabGet 0 c.sp l - 4), fcause := cause, faddr := BitVec.ofNat 36 addr, sw := setFld c.sw 3 0 (l + 4), inBlock := false,
           resv := none, pc := e.toNat / 4 * 4 }

/-- State t is state s after core m, with record c, has taken vector v: the four words of the frame stored below the stack pointer of the level
(Table 13.4), and the core in the handler. -/
def Entered (m v : Nat) (c : Core) (access detail addr resume : Nat) (sw : Word) (s t : State) : Prop :=
  let cause := entryCause v c.pl access detail
  let sp := (tabGet 0 c.sp (entryLevel m v s.dev)).toNat
  Stored m (c.inHandler m v s.dev cause addr) (sp - 4) [BitVec.ofNat 36 addr, cause, sw, BitVec.ofNat 36 resume] s t

/-- State t is state s after core m, with record c, has entered the bywash for vector v (R335): the frame below SPB, FCAUSE with BYWASH, the reason and the
new depth, and the core at BWBASE at P0 with STILL set. -/
def InBywash (m v reason : Nat) (c : Core) (access detail addr resume : Nat) (sw : Word) (s t : State) : Prop :=
  let cause := entryCause v c.pl access detail + BitVec.ofNat 36 (2 ^ 13 + 2 ^ 14 * reason + 2 ^ 20 * (c.bwdepth + 1))
  Stored m { c with spb := c.spb - 4, bwdepth := c.bwdepth + 1, fcause := cause, faddr := BitVec.ofNat 36 addr, sw := setFld c.sw 3 0 4, inBlock := false,
                    resv := none, pc := c.bwbase.toNat }
    (c.spb.toNat - 4) [BitVec.ofNat 36 addr, cause, sw, BitVec.ofNat 36 resume] s t

end Sys2Proof.Machine
end

