-- ==== Sys2Proof/Certificates/Slice0/Obligations.lean ====
section
/-! DEFINITION. The statements for the provers: one Prop each, from the numbered rules of the spec. -/

section
open Sys2Proof Sys2Proof.Machine

/-- R303: the eight arithmetic instructions retire with their result in Gd (nowhere for CMP and CMPI) and all four flags set from it. -/
def Obligations.CoreArithmeticSetsFlags : Prop :=
  ∀ (s : State) (x : Issue) (rd ra rb imm : Nat), ready x s.dev = true → rd < 32 → ra < 32 → rb < 32 → imm < 2 ^ 18 →
    let c := coreGet s.dev x.core
    let a := c.reg ra
    let b := c.reg rb
    let i := sext 18 imm
    let k := b2n (flagsOf c.sw).c
    (∃ t f, exec (.add x rd ra rb) s = .next t ∧ SumFlags f a b 0 (a + b) ∧
      Ran x.core { c.setReg rd (a + b) with sw := withFlags c.sw f }.stepped s t) ∧
    (∃ t f, exec (.sub x rd ra rb) s = .next t ∧ DiffFlags f a b 0 (a - b) ∧
      Ran x.core { c.setReg rd (a - b) with sw := withFlags c.sw f }.stepped s t) ∧
    (∃ t f, exec (.addc x rd ra rb) s = .next t ∧ SumFlags f a b k (a + b + wd k) ∧
      Ran x.core { c.setReg rd (a + b + wd k) with sw := withFlags c.sw f }.stepped s t) ∧
    (∃ t f, exec (.subb x rd ra rb) s = .next t ∧ DiffFlags f a b (1 - k) (a - b - wd (1 - k)) ∧
      Ran x.core { c.setReg rd (a - b - wd (1 - k)) with sw := withFlags c.sw f }.stepped s t) ∧
    (∃ t f, exec (.cmp x ra rb) s = .next t ∧ DiffFlags f a b 0 (a - b) ∧ Ran x.core { c with sw := withFlags c.sw f }.stepped s t) ∧
    (∃ t f, exec (.neg x rd ra) s = .next t ∧ DiffFlags f 0 a 0 (0 - a) ∧
      Ran x.core { c.setReg rd (0 - a) with sw := withFlags c.sw f }.stepped s t) ∧
    (∃ t f, exec (.addi x rd ra imm) s = .next t ∧ SumFlags f a i 0 (a + i) ∧
      Ran x.core { c.setReg rd (a + i) with sw := withFlags c.sw f }.stepped s t) ∧
    (∃ t f, exec (.cmpi x ra imm) s = .next t ∧ DiffFlags f a i 0 (a - i) ∧ Ran x.core { c with sw := withFlags c.sw f }.stepped s t)

/-- Table 12.6, R300: logic, compare and minimum instructions, of registers and of an immediate; no flag changes. -/
def Obligations.CoreLogicResults : Prop :=
  ∀ (s : State) (x : Issue) (rd ra rb imm : Nat), ready x s.dev = true → rd < 32 → ra < 32 → rb < 32 → imm < 2 ^ 18 →
    let c := coreGet s.dev x.core
    let a := c.reg ra
    let b := c.reg rb
    let i := BitVec.ofNat 36 imm
    let j := (BitVec.ofNat 18 imm).signExtend 36
    (∃ t, exec (.and x rd ra rb) s = .next t ∧ Ran x.core (c.setReg rd (a &&& b)).stepped s t) ∧
    (∃ t, exec (.or x rd ra rb) s = .next t ∧ Ran x.core (c.setReg rd (a ||| b)).stepped s t) ∧
    (∃ t, exec (.xor x rd ra rb) s = .next t ∧ Ran x.core (c.setReg rd (a ^^^ b)).stepped s t) ∧
    (∃ t, exec (.andn x rd ra rb) s = .next t ∧ Ran x.core (c.setReg rd (a &&& ~~~b)).stepped s t) ∧
    (∃ t, exec (.slt x rd ra rb) s = .next t ∧ Ran x.core (c.setReg rd (if a.slt b then 1 else 0)).stepped s t) ∧
    (∃ t, exec (.sltu x rd ra rb) s = .next t ∧ Ran x.core (c.setReg rd (if a.ult b then 1 else 0)).stepped s t) ∧
    (∃ t, exec (.min x rd ra rb) s = .next t ∧ Ran x.core (c.setReg rd (if b.slt a then b else a)).stepped s t) ∧
    (∃ t, exec (.max x rd ra rb) s = .next t ∧ Ran x.core (c.setReg rd (if a.slt b then b else a)).stepped s t) ∧
    (∃ t, exec (.andi x rd ra imm) s = .next t ∧ Ran x.core (c.setReg rd (a &&& i)).stepped s t) ∧
    (∃ t, exec (.ori x rd ra imm) s = .next t ∧ Ran x.core (c.setReg rd (a ||| i)).stepped s t) ∧
    (∃ t, exec (.xori x rd ra imm) s = .next t ∧ Ran x.core (c.setReg rd (a ^^^ i)).stepped s t) ∧
    (∃ t, exec (.slti x rd ra imm) s = .next t ∧ Ran x.core (c.setReg rd (if a.slt j then 1 else 0)).stepped s t) ∧
    (∃ t, exec (.sltiu x rd ra imm) s = .next t ∧ Ran x.core (c.setReg rd (if a.ult j then 1 else 0)).stepped s t) ∧
    (∃ t, exec (.lih x rd imm) s = .next t ∧ Ran x.core (c.setReg rd (i <<< 18)).stepped s t)

/-- Table 12.6: shifts, rotations and bit fields; an amount of 36 to 63 leaves nothing but copies of the sign for SAR. -/
def Obligations.CoreShiftAndFieldResults : Prop :=
  ∀ (s : State) (x : Issue) (rd ra rb sh lo w : Nat), ready x s.dev = true → rd < 32 → ra < 32 → rb < 32 → sh < 36 → 1 ≤ w → lo + w ≤ 36 →
    let c := coreGet s.dev x.core
    let a := c.reg ra
    let n := (c.reg rb).toNat % 64
    (∃ t, exec (.shl x rd ra rb) s = .next t ∧ Ran x.core (c.setReg rd (a <<< n)).stepped s t) ∧
    (∃ t, exec (.shr x rd ra rb) s = .next t ∧ Ran x.core (c.setReg rd (a >>> n)).stepped s t) ∧
    (∃ t, exec (.sar x rd ra rb) s = .next t ∧ Ran x.core (c.setReg rd (a.sshiftRight n)).stepped s t) ∧
    (∃ t, exec (.rol x rd ra rb) s = .next t ∧ Ran x.core (c.setReg rd (a <<< (n % 36) ||| a >>> (36 - n % 36))).stepped s t) ∧
    (∃ t, exec (.shli x rd ra sh) s = .next t ∧ Ran x.core (c.setReg rd (a <<< sh)).stepped s t) ∧
    (∃ t, exec (.shri x rd ra sh) s = .next t ∧ Ran x.core (c.setReg rd (a >>> sh)).stepped s t) ∧
    (∃ t, exec (.sari x rd ra sh) s = .next t ∧ Ran x.core (c.setReg rd (a.sshiftRight sh)).stepped s t) ∧
    (∃ t, exec (.roli x rd ra sh) s = .next t ∧ Ran x.core (c.setReg rd (a <<< sh ||| a >>> (36 - sh))).stepped s t) ∧
    (∃ t v, exec (.extu x rd ra lo w) s = .next t ∧ Ran x.core (c.setReg rd v).stepped s t ∧
      ∀ k, v.getLsbD k = (decide (k < w) && a.getLsbD (lo + k))) ∧
    (∃ t v, exec (.ins x rd ra lo w) s = .next t ∧ Ran x.core (c.setReg rd v).stepped s t ∧
      ∀ k, v.getLsbD k = if lo ≤ k ∧ k < lo + w then a.getLsbD (k - lo) else (c.reg rd).getLsbD k)

/-- Table 12.6: products of 72 bits by their halves, and division: the quotient rounded towards zero, the remainder with the sign of the dividend. -/
def Obligations.CoreMultiplyDivideResults : Prop :=
  ∀ (s : State) (x : Issue) (rd ra rb : Nat), ready x s.dev = true → rd < 32 → ra < 32 → rb < 32 →
    let c := coreGet s.dev x.core
    let a := c.reg ra
    let b := c.reg rb
    (∃ t, exec (.mul x rd ra rb) s = .next t ∧ Ran x.core (c.setReg rd (a * b)).stepped s t) ∧
    (∃ t v, exec (.mulh x rd ra rb) s = .next t ∧ Ran x.core (c.setReg rd v).stepped s t ∧
      v.toInt * 2 ^ 36 + ((a * b).toNat : Int) = a.toInt * b.toInt) ∧
    (∃ t v, exec (.mulhu x rd ra rb) s = .next t ∧ Ran x.core (c.setReg rd v).stepped s t ∧
      v.toNat * 2 ^ 36 + (a * b).toNat = a.toNat * b.toNat) ∧
    (rd ≠ 0 → rd % 2 = 0 → ∃ t v, exec (.mulp x rd ra rb) s = .next t ∧
      Ran x.core ((c.setReg rd (a * b)).setReg (rd + 1) v).stepped s t ∧ v.toInt * 2 ^ 36 + ((a * b).toNat : Int) = a.toInt * b.toInt) ∧
    (b ≠ 0 → ∃ t, exec (.div x rd ra rb) s = .next t ∧ Ran x.core (c.setReg rd (a.sdiv b)).stepped s t) ∧
    (b ≠ 0 → ∃ t, exec (.divu x rd ra rb) s = .next t ∧ Ran x.core (c.setReg rd (a / b)).stepped s t) ∧
    (b ≠ 0 → ∃ t, exec (.rem x rd ra rb) s = .next t ∧ Ran x.core (c.setReg rd (a.srem b)).stepped s t) ∧
    (b ≠ 0 → ∃ t, exec (.remu x rd ra rb) s = .next t ∧ Ran x.core (c.setReg rd (a % b)).stepped s t)

/-- R307, R300, R304, R314: loads of words, pairs, halves and octets from memory, pops and stack-relative loads, load with reservation, and LPC. -/
def Obligations.CoreLoadsReadMemory : Prop :=
  ∀ (s : State) (x : Issue) (rd ra imm : Nat), ready x s.dev = true → rd < 32 → ra < 32 → imm < 2 ^ 18 →
    let m := x.core
    let c := coreGet s.dev m
    let word := coreWord s.dev m
    let ok := fun a => readable m c.pl a s.dev = true
    let w := effAddr c ra 18 imm
    let h := effAddr c ra 17 imm
    let o := effAddr c ra 16 imm
    (ok w → ∃ t, exec (.ldw x rd ra imm) s = .next t ∧ Ran m (c.setReg rd (word w)).stepped s t) ∧
    (ok w → ok (w + 1) → w % 2 = 0 → rd % 2 = 0 → rd ≠ 0 →
      ∃ t, exec (.ldp x rd ra imm) s = .next t ∧ Ran m ((c.setReg rd (word w)).setReg (rd + 1) (word (w + 1))).stepped s t) ∧
    (ok h → ∃ t, exec (.ldh x rd ra imm) s = .next t ∧
      Ran m (c.setReg rd (((word h >>> (18 * (imm / 2 ^ 17))).truncate 18).zeroExtend 36)).stepped s t) ∧
    (ok h → ∃ t, exec (.ldhs x rd ra imm) s = .next t ∧
      Ran m (c.setReg rd (((word h >>> (18 * (imm / 2 ^ 17))).truncate 18).signExtend 36)).stepped s t) ∧
    (ok o → ∃ t, exec (.ldo x rd ra imm) s = .next t ∧
      Ran m (c.setReg rd (((word o >>> (8 * (imm / 2 ^ 16))).truncate 8).zeroExtend 36)).stepped s t) ∧
    (ok o → ∃ t, exec (.ldos x rd ra imm) s = .next t ∧
      Ran m (c.setReg rd (((word o >>> (8 * (imm / 2 ^ 16))).truncate 8).signExtend 36)).stepped s t) ∧
    (ok (wrap36 (c.stk + imm)) → ∃ t, exec (.ldsp x rd imm) s = .next t ∧ Ran m (c.setReg rd (word (wrap36 (c.stk + imm)))).stepped s t) ∧
    (ok c.stk → c.lim ≤ c.stk → ∃ t, exec (.pop x rd) s = .next t ∧
      Ran m ((c.setReg rd (word c.stk)).setStk (wrap36 (c.stk + 1))).stepped s t) ∧
    (ok (c.reg ra).toNat → ∃ t, exec (.ldx x rd ra) s = .next t ∧
      Ran m { c.setReg rd (word (c.reg ra).toNat) with resv := some ((c.reg ra).toNat / 8) }.stepped s t) ∧
    (∃ t, exec (.lpc x rd imm) s = .next t ∧ Ran m (c.setReg rd (BitVec.ofNat 36 c.pc + (BitVec.ofNat 18 imm).signExtend 36)).stepped s t)

/-- R307, R304: stores of words, pairs, halves and octets to memory, pushes, stack-relative stores and ADJSP: the words stored, where, and that
nothing else changes; a half or octet store changes its lane alone. -/
def Obligations.CoreStoresWriteMemory : Prop :=
  ∀ (s : State) (x : Issue) (rd ra imm : Nat), ready x s.dev = true → rd < 32 → ra < 32 → imm < 2 ^ 18 →
    let m := x.core
    let c := coreGet s.dev m
    let ok := fun a => writable m c.pl a s.dev = true
    let w := effAddr c ra 18 imm
    let h := effAddr c ra 17 imm
    let o := effAddr c ra 16 imm
    (ok w → ∃ t, exec (.stw x rd ra imm) s = .next t ∧ Stored m c.stepped w [c.reg rd] s t) ∧
    (ok w → ok (w + 1) → w % 2 = 0 → rd % 2 = 0 → rd ≠ 0 →
      ∃ t, exec (.stp x rd ra imm) s = .next t ∧ Stored m c.stepped w [c.reg rd, c.reg (rd + 1)] s t) ∧
    (ok h → ∃ t v, exec (.sth x rd ra imm) s = .next t ∧ Stored m c.stepped h [v] s t ∧
      ∀ k, v.getLsbD k = if k / 18 = imm / 2 ^ 17 then (c.reg rd).getLsbD (k % 18) else (coreWord s.dev m h).getLsbD k) ∧
    (ok o → ∃ t v, exec (.sto x rd ra imm) s = .next t ∧ Stored m c.stepped o [v] s t ∧
      ∀ k, v.getLsbD k = if k / 8 = imm / 2 ^ 16 then (c.reg rd).getLsbD (k % 8) else (coreWord s.dev m o).getLsbD k) ∧
    (ok (wrap36 (c.stk + imm)) → ∃ t, exec (.stsp x rd imm) s = .next t ∧ Stored m c.stepped (wrap36 (c.stk + imm)) [c.reg rd] s t) ∧
    (c.stk ≠ 0 → c.lim ≤ c.stk - 1 → ok (c.stk - 1) → ∃ t, exec (.push x rd) s = .next t ∧
      Stored m (c.setStk (c.stk - 1)).stepped (c.stk - 1) [c.reg rd] s t) ∧
    (let n := wrap36 (c.stk + ((BitVec.ofNat 18 imm).signExtend 36).toNat)
     (2 ^ 17 ≤ imm → c.stk ≠ 0 ∧ c.lim ≤ n) → ∃ t, exec (.adjsp x imm) s = .next t ∧ Ran m (c.setStk n).stepped s t)

/-- R314: STX stores and gives 0 when the reservation covers its address, else it stores nothing and gives 1; either way the reservation is gone.
The result is recorded for replay. -/
def Obligations.CoreStoreConditional : Prop :=
  ∀ (s : State) (x : Issue) (rd rb ra : Nat), ready x s.dev = true → rd < 32 → rb < 32 → ra < 32 →
    let m := x.core
    let c := coreGet s.dev m
    let a := (c.reg ra).toNat
    let base := fun v => { s with dev := rplItem m 6 [a, v] s.dev }
    writable m c.pl a s.dev = true →
      (c.resv = some (a / 8) → romWord m a = false → ∃ t, exec (.stx x rd rb ra) s = .next t ∧
        Stored m { c.setReg rd 0 with resv := none }.stepped a [c.reg rb] (base 0) t) ∧
      (c.resv ≠ some (a / 8) ∨ romWord m a = true → ∃ t, exec (.stx x rd rb ra) s = .next t ∧
        Ran m { c.setReg rd 1 with resv := none }.stepped (base 1) t)

/-- Table 12.6, Table 12.9: branches, jumps, calls and returns: where execution goes on, the frame of a call and what a return takes from it. -/
def Obligations.CoreControlTransfers : Prop :=
  ∀ (s : State) (x : Issue) (ra rb cond off joff : Nat), ready x s.dev = true → ra < 32 → rb < 32 → cond < 15 → off < 2 ^ 18 → joff < 2 ^ 28 →
    let m := x.core
    let c := coreGet s.dev m
    let a := c.reg ra
    let b := c.reg rb
    let here := BitVec.ofNat 36 c.pc
    let lands := fun (taken : Bool) => (if taken then here + (BitVec.ofNat 18 off).signExtend 36 else here + 1).toNat
    let jump := (here + (BitVec.ofNat 28 joff).signExtend 36).toNat
    let f := flagsOf c.sw
    let holds := [f.z, !f.z, f.c, !f.c, f.n, !f.n, f.v, !f.v, f.c && !f.z, !f.c || f.z, f.n == f.v, f.n != f.v, !f.z && f.n == f.v,
      f.z || f.n != f.v, true].getD cond true
    let call := 2 ≤ c.stk ∧ c.lim ≤ c.stk - 2 ∧ writable m c.pl (c.stk - 2) s.dev = true ∧ writable m c.pl (c.stk - 1) s.dev = true
    let w := coreWord s.dev m c.stk
    (∃ t, exec (.beq x ra rb off) s = .next t ∧ Ran m (c.retired (lands (decide (a = b)))) s t) ∧
    (∃ t, exec (.bne x ra rb off) s = .next t ∧ Ran m (c.retired (lands (decide (a ≠ b)))) s t) ∧
    (∃ t, exec (.blt x ra rb off) s = .next t ∧ Ran m (c.retired (lands (a.slt b))) s t) ∧
    (∃ t, exec (.bge x ra rb off) s = .next t ∧ Ran m (c.retired (lands (!a.slt b))) s t) ∧
    (∃ t, exec (.bltu x ra rb off) s = .next t ∧ Ran m (c.retired (lands (a.ult b))) s t) ∧
    (∃ t, exec (.bgeu x ra rb off) s = .next t ∧ Ran m (c.retired (lands (!a.ult b))) s t) ∧
    (∃ t, exec (.bcc x cond off) s = .next t ∧ Ran m (c.retired (lands holds)) s t) ∧
    (∃ t, exec (.jmp x joff) s = .next t ∧ Ran m (c.retired jump) s t) ∧
    (∃ t, exec (.jmpr x ra) s = .next t ∧ Ran m (c.retired a.toNat) s t) ∧
    (call → ∃ t, exec (.call x joff) s = .next t ∧
      Stored m ((c.setStk (c.stk - 2)).retired jump) (c.stk - 2) [c.sw, BitVec.ofNat 36 (c.pc + 1)] s t) ∧
    (call → ∃ t, exec (.callr x ra) s = .next t ∧
      Stored m ((c.setStk (c.stk - 2)).retired a.toNat) (c.stk - 2) [c.sw, BitVec.ofNat 36 (c.pc + 1)] s t) ∧
    (c.lim ≤ c.stk → c.stk + 1 < 2 ^ 36 → readable m c.pl c.stk s.dev = true → readable m c.pl (c.stk + 1) s.dev = true → fld w 1 0 = c.pl →
      ∃ t, exec (.ret x) s = .next t ∧
        Ran m ({ c.setStk (wrap36 (c.stk + 2)) with sw := if c.pl = 2 then c.sw else setBit c.sw 2 (bit w 2) }.retired
          (coreWord s.dev m (c.stk + 1)).toNat) s t)

/-- R332, Tables 13.3 to 13.6: TRAP, and the faults that DIV, DIVU, REM, REMU, FEAT, MPUSYNC, ERET, MTSR, LDP, STP, PUSH and LDW raise on the operands or at the level the
manual names, are taken by exception entry: frame, FCAUSE, FADDR, level, STILL and the handler's address. -/
def Obligations.CoreFaultsEnterHandlers : Prop :=
  ∀ (s : State) (x : Issue) (rd ra rb n fn imm : Nat), ready x s.dev = true → rd < 32 → ra < 32 → rb < 32 → 8 ≤ n → fn < 2 ^ 18 → imm < 2 ^ 18 →
    let m := x.core
    let c := coreGet s.dev m
    let ok := fun v => entryOk m v s.dev = true
    let at_ := fun (i : Instr) (v access detail addr resume : Nat) (b : State) =>
      ∃ t, exec i s = .next t ∧ Entered m v { c with stepOne := false } access detail addr resume c.sw b t
    c.still = false →
    (fn < 32 → ok (32 + fn) → at_ (.trap x fn) (32 + fn) 0 0 fn (wrap36 (c.pc + 1)) s) ∧
    (32 ≤ fn → ok 7 → at_ (.trap x fn) 7 0 0 fn (wrap36 (c.pc + 1)) s) ∧
    (c.reg rb = 0 → ok 6 → at_ (.div x rd ra rb) 6 0 0 c.pc c.pc s ∧ at_ (.divu x rd ra rb) 6 0 0 c.pc c.pc s ∧
      at_ (.rem x rd ra rb) 6 0 0 c.pc c.pc s ∧ at_ (.remu x rd ra rb) 6 0 0 c.pc c.pc s) ∧
    (ok 0 → at_ (.feat x rd n) 0 0 0 c.pc c.pc s) ∧
    (c.pl = 2 → ok 1 → at_ (.mpusync x) 1 0 0 c.pc c.pc s) ∧
    (c.pl = 2 → ok 1 → at_ (.eret x) 1 0 0 c.pc c.pc s) ∧
    (c.stk = 0 → ok 4 → at_ (.push x rd) 4 4 1 (2 ^ 36 - 1) c.pc s) ∧
    (c.pl = 1 → ok 1 → at_ (.mtsr x 8 ra) 1 0 0 c.pc c.pc s) ∧
    (effAddr c ra 18 imm % 2 = 1 → ok 0 → at_ (.ldp x rd ra imm) 0 0 0 c.pc c.pc s ∧ at_ (.stp x rd ra imm) 0 0 0 c.pc c.pc s) ∧
    (∀ detail, let a := effAddr c ra 18 imm
      deviceSpace m a = false → refusal s.dev m m c.pl 0 a = some detail → ok 3 →
        at_ (.ldw x rd ra imm) 3 2 detail a c.pc { s with dev := mpuRecord m m 2 a detail s.dev })

/-- R327, R328, R332: at an instruction boundary the pending interrupt of the highest priority is taken where STILL is clear and the core is not in the
bywash: its frame, its handler, its pending bit cleared and a WAITPASS ended. The entry is recorded for replay. The code of the vector's entry holds
where the core reads it, and so do those of the frame's words. -/
def Obligations.CoreInterruptEntry : Prop :=
  ∀ (s : State) (m v : Nat) (vec : EntryWcc), vec.frame = none → coreLive s.dev m = true → replayed s.dev m = false → entryOk m v s.dev = true →
    vectorBad vec.vector m (vectorAt s.dev m v) s.dev = false →
    let c := coreGet s.dev m
    c.still = false → [19, 21, 18, 16, 17, 20].find? (fun v => tabGet false c.pend v) = some v →
    ∃ t, exec (.interruptEntry m vec) s = .next t ∧
      Entered m v { c with waiting := none, pend := tabSet false c.pend v false } 0 0 0 c.pc (if c.inBlock then setBit c.sw 3 true else c.sw)
        { s with dev := rplItem m 5 [16 * v] s.dev } t

/-- R334: ERET restores SW and the PC from the newest frame and drops it, from SP or, in the bywash, from SPB one level up. -/
def Obligations.CoreEretRestores : Prop :=
  ∀ (s : State) (x : Issue), ready x s.dev = true →
    let m := x.core
    let c := coreGet s.dev m
    let p := c.stk
    let w := coreWord s.dev m (p + 2)
    c.pl ≠ 2 → c.lim ≤ p → p + 4 ≤ 2 ^ 36 → [0, 1, 2, 3].all (fun i => readable m (if c.bwdepth = 0 then c.pl else 0) (p + i) s.dev) = true →
    fld w 1 0 ≠ 3 → c.pl ≤ fld w 1 0 →
    ∃ t, exec (.eret x) s = .next t ∧
      Ran m ({ c.setStk (wrap36 (p + 4)) with bwdepth := c.bwdepth - 1, sw := w &&& 0xFF, resv := none }.retired
        (coreWord s.dev m (p + 3)).toNat) s t

/-- R302, R311, R313, R317, R319, Table 12.7: barriers, WAITPASS, FEAT, and the system registers read and written at the levels that may. A read of the cycle
counter gives some value. -/
def Obligations.CoreSystemInstructions : Prop :=
  ∀ (s : State) (x : Issue) (rd ra n sr fn : Nat), ready x s.dev = true → rd < 32 → ra < 32 → n < 8 → fn < 2 →
    let m := x.core
    let c := coreGet s.dev m
    let v := c.reg ra
    let value := [c.sw, tabGet 0 c.sp 0, tabGet 0 c.sp 1, tabGet 0 c.sp 2, tabGet 0 c.sl 0, tabGet 0 c.sl 1, tabGet 0 c.sl 2, BitVec.ofNat 36 c.stk,
      c.vbase, c.bwbase, c.spb, c.slb, fcauseLive c.fcause c.bwdepth, c.faddr].getD sr 0
    let may := c.pl = 0 ∨ sr ∈ [0, 7] ∨ c.pl = 1 ∧ sr ∈ [2, 3, 5, 6]
    (∃ t, exec (.fence x fn) s = .next t ∧ Ran m c.stepped s t) ∧
    (c.pl ≠ 2 → ∃ t, exec (.mpusync x) s = .next t ∧ Ran m c.stepped s t) ∧
    (∃ t, exec (.waitpass x rd) s = .next t ∧
      Ran m { c with pc := wrap36 (c.pc + 1), waiting := some rd, resv := none, inBlock := false, stepOne := false } s t) ∧
    (∃ t, exec (.feat x rd n) s = .next t ∧ Ran m (c.setReg rd (featWord m n)).stepped s t) ∧
    (sr ≤ 13 → may ∨ c.pl = 1 ∧ sr ∈ [8, 12, 13] → ∃ t, exec (.mfsr x rd sr) s = .next t ∧ Ran m (c.setReg rd value).stepped s t) ∧
    (sr = 16 ∨ sr = 17 → c.pl ≠ 2 → ∃ t w, exec (.mfsr x rd sr) s = .next t ∧ (coreGet t.dev m).reg rd = (if rd = 0 then 0 else w) ∧
      (coreGet t.dev m).pc = wrap36 (c.pc + 1) ∧ t.dev.mem = s.dev.mem ∧ t.dev.fmem = s.dev.fmem) ∧
    (1 ≤ sr → sr ≤ 3 → may → ∃ t, exec (.mtsr x sr ra) s = .next t ∧ Ran m { c with sp := tabSet 0 c.sp (sr - 1) v }.stepped s t) ∧
    (4 ≤ sr → sr ≤ 6 → may → ∃ t, exec (.mtsr x sr ra) s = .next t ∧ Ran m { c with sl := tabSet 0 c.sl (sr - 4) v }.stepped s t) ∧
    (∃ t, exec (.mtsr x 7 ra) s = .next t ∧ Ran m (c.setStk v.toNat).stepped s t) ∧
    (c.pl = 0 → ∃ t, exec (.mtsr x 8 ra) s = .next t ∧ Ran m { c with vbase := v &&& ~~~63 }.stepped s t) ∧
    (c.pl = 0 → ∃ t, exec (.mtsr x 9 ra) s = .next t ∧
      Ran m (if c.bwFixed then c else { c with bwbase := v, bwFixed := true }).stepped s t) ∧
    (c.pl = 0 → ∃ t, exec (.mtsr x 10 ra) s = .next t ∧ Ran m { c with spb := v }.stepped s t) ∧
    (c.pl = 0 → ∃ t, exec (.mtsr x 11 ra) s = .next t ∧ Ran m { c with slb := v }.stepped s t) ∧
    (12 ≤ sr → sr ≤ 13 → ∃ t, exec (.mtsr x sr ra) s = .next t ∧ Ran m c.stepped s t)

/-- R302: what MTSR to SW writes at each level: PL, STILL and the flags at P0; STILL, the flags and a PL of 1 or 2 at P1; the flags at P2; the faults of every
other write; RES and the reserved bits keep their values; and the level written selects the stack pointer and limit of the next instruction. -/
def Obligations.CoreStatusWordWrite : Prop :=
  ∀ (s : State) (x : Issue) (ra : Nat), ready x s.dev = true → ra < 32 →
    let m := x.core
    let c := coreGet s.dev m
    let v := c.reg ra
    let keep := fun (mask : Word) => (c.sw &&& ~~~mask) ||| (v &&& mask)
    let faults := fun (vec : Nat) => c.still = false → entryOk m vec s.dev = true →
      ∃ t, exec (.mtsr x 0 ra) s = .next t ∧ Entered m vec { c with stepOne := false } 0 0 c.pc c.pc c.sw s t
    (c.pl = 0 → fld v 1 0 ≠ 3 → ∃ t, exec (.mtsr x 0 ra) s = .next t ∧ Ran m { c with sw := keep 0xF7 }.stepped s t ∧
      (c.bwdepth = 0 → (coreGet t.dev m).stk = (tabGet 0 c.sp (fld v 1 0)).toNat ∧ (coreGet t.dev m).lim = (tabGet 0 c.sl (fld v 1 0)).toNat)) ∧
    (c.pl = 0 → fld v 1 0 = 3 → faults 0) ∧
    (c.pl = 1 → fld v 1 0 = 1 ∨ fld v 1 0 = 2 → ∃ t, exec (.mtsr x 0 ra) s = .next t ∧ Ran m { c with sw := keep 0xF7 }.stepped s t ∧
      (c.bwdepth = 0 → (coreGet t.dev m).stk = (tabGet 0 c.sp (fld v 1 0)).toNat ∧ (coreGet t.dev m).lim = (tabGet 0 c.sl (fld v 1 0)).toNat)) ∧
    (c.pl = 1 → fld v 1 0 = 0 → faults 1) ∧
    (c.pl = 2 → fld v 2 0 = fld c.sw 2 0 → ∃ t, exec (.mtsr x 0 ra) s = .next t ∧ Ran m { c with sw := keep 0xF0 }.stepped s t) ∧
    (c.pl = 2 → fld v 2 0 ≠ fld c.sw 2 0 → faults 1)

/-- R319, Table 12.10: FEAT gives the feature registers of the core's kind, field by field, and records nothing. -/
def Obligations.FeatReadsConstants : Prop :=
  ∀ (s : State) (x : Issue) (rd n : Nat), ready x s.dev = true → rd < 32 → n < 8 →
    let m := x.core
    let kind := fun (h k f : Nat) => if m = 1 then k else if isH m then h else f
    let at_ := fun (l : List (Nat × Nat)) => (l.map (fun e => 2 ^ e.1 * e.2)).sum
    let feat := [at_ [(0, 1), (16, 0x8256), (32, 4)], at_ [(0, 1), (1, 1), (2, 1), (3, 1), (4, 1), (5, 1), (6, 1), (7, kind 0 1 0)],
      at_ [(0, kind 32 8 8), (10, kind 32 8 8), (20, 8), (24, kind 4 2 2)],
      at_ [(0, kind 1024 1024 512), (16, kind 0 256 0), (32, kind 1 1 0), (33, kind 1 1 0)], at_ [(0, kind 32 16 8)],
      at_ [(0, 3), (4, 8), (8, 48), (14, kind 1 0 0), (15, 1), (16, kind 2 1 1)], at_ [(0, kind 2 1 1), (2, kind 1500 400 800), (14, kind 75000 20000 40000)],
      at_ [(0, kind 0 1 2), (2, kind (m - 0x10) 0 (m - 0x20)), (5, m)]]
    ∃ t, exec (.feat x rd n) s = .next t ∧ Ran m ((coreGet s.dev m).setReg rd (BitVec.ofNat 36 (feat.getD n 0))).stepped s t ∧
      t.dev.pas.recorded = s.dev.pas.recorded ∧ t.dev.rpl = s.dev.rpl

/-- R315, R316: one iteration of a block instruction: its memory effect and its operands; where words are left the instruction stays under way, else it
ends with RES clear. A comparison without FULL stops at the first unequal pair. -/
def Obligations.CoreBlockIteration : Prop :=
  ∀ (s : State) (x : Issue) (rd ra rb : Nat) (full : Bool), ready x s.dev = true → rd < 32 → ra < 32 → rb < 32 →
    rd ≠ 0 → ra ≠ 0 → rb ≠ 0 → rd ≠ ra → rd ≠ rb → ra ≠ rb →
    let m := x.core
    let c := coreGet s.dev m
    let a := (c.reg ra).toNat
    let b := (c.reg rd).toNat
    let rda := readable m c.pl a s.dev = true
    let rdb := readable m c.pl b s.dev = true
    let wrb := writable m c.pl b s.dev = true
    let u := coreWord s.dev m a
    let v := coreWord s.dev m b
    let down := fun (c : Core) => c.setReg rb (c.reg rb - 1)
    let up := fun (r : Nat) (c : Core) => c.setReg r (c.reg r + 1)
    let last := c.reg rb = 1
    let end_ := fun (k : Nat) (c : Core) =>
      { c with pc := wrap36 (c.pc + 1), sw := setBit c.sw 3 false, inBlock := false, stepOne := false, progress := c.progress + k }
    let after := fun (c' : Core) => if last then end_ 2 c' else { c' with inBlock := true, stepOne := false, progress := c.progress + 1 }
    let flags := fun (z k : Bool) (c : Core) => { c with sw := withFlags c.sw { flagsOf c.sw with z := z, c := k } }
    (c.reg rb = 0 →
      (∃ t, exec (.bmove x rd ra rb 1) s = .next t ∧ Ran m (end_ 1 c) s t) ∧ (∃ t, exec (.bfill x rd ra rb 1) s = .next t ∧ Ran m (end_ 1 c) s t) ∧
      (∃ t, exec (.bcrc x rd ra rb 1) s = .next t ∧ Ran m (end_ 1 c) s t) ∧
      (∃ t, exec (.bcmp x rd ra rb full 1) s = .next t ∧ Ran m (end_ 1 (flags true (flagsOf c.sw).c c)) s t)) ∧
    (c.reg rb ≠ 0 →
      (rda → wrb → ∃ t, exec (.bmove x rd ra rb 1) s = .next t ∧ Stored m (after (down (up rd (up ra c)))) b [u] s t) ∧
      (wrb → ∃ t, exec (.bfill x rd ra rb 1) s = .next t ∧ Stored m (after (down (up rd c))) b [c.reg ra] s t) ∧
      (rda → ∃ t, exec (.bcrc x rd ra rb 1) s = .next t ∧
        Ran m (after (down (up ra (c.setReg rd (BitVec.ofNat 36 (crcWord (c.reg rd).toNat u)))))) s t) ∧
      (rda → rdb → u ≠ v → ∃ t, exec (.bcmp x rd ra rb false 1) s = .next t ∧ Ran m (end_ 2 (flags false (u.ult v) c)) s t) ∧
      (rda → rdb → u = v → last → ∃ t, exec (.bcmp x rd ra rb false 1) s = .next t ∧
        Ran m (end_ 2 (flags true false (down (up rd (up ra c))))) s t) ∧
      (rda → rdb → u = v → ¬ last → ∃ t, exec (.bcmp x rd ra rb false 1) s = .next t ∧ Ran m (after (down (up rd (up ra c)))) s t) ∧
      (rda → rdb → ¬ last → ∃ t, exec (.bcmp x rd ra rb true 1) s = .next t ∧
        Ran m (after (flags (decide (u = v) && ((!c.inBlock && !bit c.sw 3) || (flagsOf c.sw).z)) (flagsOf c.sw).c (down (up rd (up ra c))))) s t) ∧
      (rda → rdb → last → let z := decide (u = v) && ((!c.inBlock && !bit c.sw 3) || (flagsOf c.sw).z)
        (z = true → ∃ t, exec (.bcmp x rd ra rb true 1) s = .next t ∧ Ran m (end_ 2 (flags true false (down (up rd (up ra c))))) s t) ∧
        (z = false → ∃ t k, exec (.bcmp x rd ra rb true 1) s = .next t ∧
          Ran m (end_ 2 (flags false k (down (up rd (up ra c))))) { s with dev := { s.dev with free := s.dev.free + 1 } } t)))

/-- R315: a block fill of n words given n iterations writes Ga to every word from Gd on and to no other, and ends with Gd past them and Gb zero. -/
def Obligations.BlockFillWritesEveryWord : Prop :=
  ∀ (s : State) (x : Issue) (rd ra rb : Nat), ready x s.dev = true → rd < 32 → ra < 32 → rb < 32 →
    rd ≠ 0 → ra ≠ 0 → rb ≠ 0 → rd ≠ ra → rd ≠ rb → ra ≠ rb →
    let m := x.core
    let c := coreGet s.dev m
    let a := (c.reg rd).toNat
    let n := (c.reg rb).toNat
    a + n ≤ 2 ^ 36 → (∀ i < n, writable m c.pl (a + i) s.dev = true) →
    ∃ t g, exec (.bfill x rd ra rb n) s = .next t ∧
      Stored m { c with g := g, pc := wrap36 (c.pc + 1), sw := setBit c.sw 3 false, inBlock := false, stepOne := false, progress := c.progress + n + 1 }
        a (List.replicate n (c.reg ra)) s t ∧
      ∀ i, Core.reg { c with g := g } i = if i = rd then c.reg rd + c.reg rb else if i = rb then 0 else c.reg i

/-- R335, R336, R338: a fault with STILL set, or in the bywash, enters the bywash with reason 3, one level deeper; where BWBASE is not fixed a core other
than K stops with reason 3 instead, and where the depth is 15, with reason 2. -/
def Obligations.CoreBywashAndStop : Prop :=
  ∀ (s : State) (x : Issue) (fn : Nat), ready x s.dev = true → fn < 32 →
    let m := x.core
    let c := coreGet s.dev m
    c.still = true ∨ c.bwdepth ≠ 0 →
    (c.bwFixed = true → c.bwdepth < 15 → 4 ≤ c.spb.toNat → c.slb.toNat ≤ c.spb.toNat - 4 →
      [1, 2, 3, 4].all (fun k => writable m 0 (c.spb.toNat - k) s.dev) = true →
      ∃ t, exec (.trap x fn) s = .next t ∧ InBywash m (32 + fn) 3 { c with stepOne := false } 0 0 fn (wrap36 (c.pc + 1)) c.sw s t) ∧
    (m ≠ 1 → c.bwFixed = false → ∃ t, exec (.trap x fn) s = .next t ∧ (coreGet t.dev m).stopped = 3 ∧ t.dev.mem = s.dev.mem ∧ t.dev.fmem = s.dev.fmem) ∧
    (m ≠ 1 → c.bwFixed = true → c.bwdepth = 15 → ∃ t, exec (.trap x fn) s = .next t ∧ (coreGet t.dev m).stopped = 2 ∧ t.dev.mem = s.dev.mem ∧
      t.dev.fmem = s.dev.fmem)

/-! ### Passes, registers, the chamber and the partition -/

/-- The block's form of a step: the command at the front of the queue is taken off and carried out on the state with the rest of the queue; with nothing
waiting the device idles (log entry 3). -/
def Obligations.StepRunsFrontCommand : Prop :=
  (∀ (s : State) (c : Instr) (rest : List Instr), s.pending = c :: rest → step s = exec c { s with pending := rest }) ∧
  ∀ s : State, s.pending = [] → step s = .next s

/-- Every command answers a next state, leaves the queue alone, and leaves each island's latched device alone but at that island's edge (R45). -/
def Obligations.CommandsAnswerAndKeepLatches : Prop :=
  ∀ (s : State) (c : Instr), ∃ t, exec c s = .next t ∧ t.pending = s.pending ∧
    (t.latch = if c = .passEdge then t.dev else s.latch) ∧ (t.latchF = if c = .fieldEdge then t.dev else s.latchF)

/-- R29, R30, R33, R43, R46, R458: without supplies a pass edge does nothing. Otherwise the count increments (no source that may fire at the edge being
blown to COLD), reads recorded in the pass that ended are dropped, and each running host-island core is presented with its inputs of earlier passes in
the order of R46, all of them or 1,024, EDGE becoming pending. At the field island's edge the count stays, and a second edge of one pass does nothing. -/
def Obligations.EdgesPresentInputs : Prop :=
  ∀ s : State,
    (∃ t, exec .passEdge s = .next t ∧ (powered s.dev = false → t.dev = s.dev) ∧
      (powered s.dev = true →
        (fusesLegal s.dev = true → (∀ x ∈ [5, 6, 8], srcLevel s.dev x < 4) → t.dev.pas.count = s.dev.pas.count + 1) ∧
        (∀ r ∈ t.dev.pas.recorded, isF r.1 = true) ∧
        ∀ m ∈ 1 :: hostCores, presents t.dev m = true →
          let seen := t.dev.pas.seen.filter (fun i => decide (i.core = m))
          tabGet false (coreGet t.dev m).pend 17 = true ∧ seen.Pairwise (fun i j => inputKey i ≤ inputKey j) ∧
          ∀ i ∈ t.dev.pas.inq, i.core = m → i.pass < t.dev.pas.count → seen.length = 1024)) ∧
    ∃ t, exec .fieldEdge s = .next t ∧ (s.dev.lkg.fieldUp = false → t.dev = s.dev) ∧ (s.dev.fld.edgeAt = some s.dev.pas.count → t.dev = s.dev) ∧
      (fusesLegal s.dev = true → srcLevel s.dev 7 < 4 → t.dev.pas.count = s.dev.pas.count) ∧
      (s.dev.lkg.fieldUp = true → t.dev.fld.edgeAt = some s.dev.pas.count ∨ (t.dev.fld.edgeAt = none ∧ t.dev.lkg.fieldUp = false))

/-- R5, R6, R7, R21, R62: a write to a word of plain RW and W1C fields of the host island sets its RW fields, clears the W1C bits written 1, keeps every
other bit, and changes no other register word and nothing else; bits 63:36 of a slot are ignored. It acts alike through a function's BAR0, where the
offset is a multiple of 8 in its window; elsewhere in BAR0, doorbell pages apart, nothing happens. A write under a reserved identity only fails its check,
one by a field master to a word its island does not have does nothing, and so does one by the Towpath while its port is not selected. -/
def Obligations.PlainRegisterWrite : Prop :=
  ∀ (s : State) (m pl a v : Nat),
    (∀ r : RegRow, a < 2 ^ 24 → regRow a = some r → r.chm = 0 → r.pm = false → r.isl ≠ 2 →
      a >>> 16 ∉ [0x07, 0x09, 0x18, 0x20, 0x21, 0x22, 0x23, 0x24] → (a >>> 16 = 0x0A → a % 65536 < 0x2000) →
      let w := BitVec.ofNat 36 v
      let plain := fun (t : State) => t = { s with dev := { s.dev with regs := t.dev.regs } } ∧
        ∀ b, rg t.dev b = if b = a then ((rg s.dev a &&& ~~~(wd r.rw)) ||| (w &&& wd r.rw)) &&& ~~~(w &&& wd r.w1c) else rg s.dev b
      (isMaster m = true → isFn m = false → isFieldMaster m = false → PortLets 1 m a s.dev → hostCtlWrite m pl a w s.dev = none →
        ∃ t, exec (.registerWrite m pl a v) s = .next t ∧ plain t) ∧
      (∀ f off, f < 64 → barWord s.dev f off = some a → hostCtlWrite (0x40 + f) 0 a w s.dev = none →
        ∃ t, exec (.registerWrite (0x40 + f) pl off v) s = .next t ∧ plain t)) ∧
    (∀ f off, f < 64 → barWord s.dev f off = none → off < barPages f ∨ barPages f + 0x10000 ≤ off →
      exec (.registerWrite (0x40 + f) pl off v) s = .next s) ∧
    (isMaster m = false → a < 2 ^ 24 → exec (.registerWrite m pl a v) s = .next { s with dev := wccFail 5 m (0xF00000000 + a) 0 s.dev }) ∧
    (isFieldMaster m = true → a < 2 ^ 24 → fieldHasWord a = false → exec (.registerWrite m pl a v) s = .next s) ∧
    (portSelected s.dev = false → exec (.registerWrite 2 pl a v) s = .next s)

/-- R31, R45: a read of PAS_COUNT_LO by a master that reaches it gives the low word of the count as latched at the last edge, and latches the high word for
the same master (the Towpath's does so through its port alone); a core's read of PAS_CYCLE gives some cycle below 5,000 (log entry 4) and is recorded as an admitted input. -/
def Obligations.LatchedAndRecordedReads : Prop :=
  (∀ (s : State) (m : Nat), isMaster m = true → isFn m = false → PortLets 0 m Reg.PAS_COUNT_LO s.dev →
    tabFind s.dev.pas.shadow (m * 2 ^ 24 + Reg.PAS_COUNT_LO) = none →
    ∃ t, exec (.latchedLoRead m Reg.PAS_COUNT_LO) s = .next t ∧
      tabGet 0 t.dev.rdata m = BitVec.ofNat 36 ((latchOf s m).pas.count % 2 ^ 36) ∧
      tabFind t.dev.pas.shadow (m * 2 ^ 24 + Reg.PAS_COUNT_HI) = some ((latchOf s m).pas.count / 2 ^ 36 % 2 ^ 36) ∧ t.dev.mem = s.dev.mem) ∧
  (∀ s : State, portSelected s.dev = false → exec (.latchedLoRead 2 Reg.PAS_COUNT_LO) s = .next s) ∧
  ∀ (s : State) (m : Nat), isCore m = true → replayed s.dev m = false →
    ∃ t v, exec (.fineTimerRead m Reg.PAS_CYCLE) s = .next t ∧ v < 5000 ∧ tabGet 0 t.dev.rdata m = BitVec.ofNat 36 v ∧
      t.dev.pas.recorded = s.dev.pas.recorded ++ [(m, 2, v)] ∧ t.dev.regs = s.dev.regs ∧ t.dev.mem = s.dev.mem

/-- R48, Table 2.5: the chamber's commands of the masters that reach CHM_CMD: which states and which owner they need, where each leads, and that one not
taken sets CMD_ERR and changes nothing else. -/
def Obligations.ChamberCommands : Prop :=
  ∀ (s : State) (m : Nat), isMaster m = true → isFn m = false → isFieldMaster m = false → PortLets 1 m Reg.CHM_CMD s.dev →
    let d := s.dev
    let c := d.chm
    let out := fun (x : Chamber) => (.next { s with dev := { d with chm := x } } : Out)
    let err : Out := .next { s with dev := rgOr d Reg.CHM_STATE 32 }
    let target := ofLoHi (rg d Reg.CHM_OPEN_AT_LO) (rg d Reg.CHM_OPEN_AT_HI)
    let may := chmProtected d = false ∨ c.approvals.length = 2
    let seq := fun (x : Dev) => tabGet 0 x.keep.monc 0
    (c.state = .empty → exec (.claim m) s = out { c with state := .filling, owner := m, tooMany := false, errCode := 0, errRule := 0, errEntry := none }) ∧
    (c.state ≠ .empty → exec (.claim m) s = err) ∧
    (c.owner = m → c.state = .filling → exec (.level m) s = out { c with state := .levelling, levelAt := d.pas.count, pushed := false, acked := false }) ∧
    (c.owner ≠ m ∨ c.state ≠ .filling → exec (.level m) s = err) ∧
    (c.owner = m → c.state = .levelled → may → exec (.openNext m) s = out { c with state := .scheduled, target := d.pas.count + 1 }) ∧
    (c.owner ≠ m ∨ c.state ≠ .levelled ∨ ¬ may → exec (.openNext m) s = err) ∧
    (c.owner = m → c.state = .levelled → may → d.pas.count < target → exec (.openAt m) s = out { c with state := .scheduled, target := target }) ∧
    (c.owner = m → c.state = .levelled → target ≤ d.pas.count →
      ∃ t, exec (.openAt m) s = .next t ∧ t.dev.chm.state = .filling ∧ t.dev.chm.errCode = 7 ∧ t.dev.chm.entries = c.entries ∧ t.dev.chm.approvals = [] ∧
        seq t.dev = min (2 ^ 48 - 1) (seq d + 1)) ∧
    (c.owner ≠ m ∨ c.state ≠ .levelled ∨ ¬ may ∧ d.pas.count < target → exec (.openAt m) s = err) ∧
    (c.owner = m → c.state = .scheduled → exec (.unschedule m) s = out { c with state := .levelled }) ∧
    (c.owner ≠ m ∨ c.state ≠ .scheduled → exec (.unschedule m) s = err) ∧
    (c.owner = m ∨ m = 1 → c.state ≠ .empty →
      ∃ t, exec (.discard m) s = .next t ∧ t.dev.chm.state = .empty ∧ t.dev.chm.entries = [] ∧ seq t.dev = min (2 ^ 48 - 1) (seq d + 1)) ∧
    (c.owner ≠ m ∧ m ≠ 1 ∨ c.state = .empty → exec (.discard m) s = err)

/-- R47: a write, by a master whose window holds the word, to a word with CH or PS fields by the owner while FILLING or LEVELLED puts the word's CH and PS
fields in the chamber and leaves the live word as it was, a LEVELLED chamber going back to FILLING; from anyone else, or in another state, it sets
FOREIGN and changes nothing else. Where the window does not hold the word nothing happens, and a chamber command from there does nothing. -/
def Obligations.ChamberFieldWrites : Prop :=
  ∀ (s : State) (m a : Nat) (v : Word), a < 2 ^ 24 →
    mpuWord a = none ∧ (∃ r, regRow a = some r ∧ r.chm ≠ 0) ∨ (∃ g r k, mpuWord a = some (g, r, k) ∧ regionCount g ≠ 0) →
    let d := s.dev
    let c := d.chm
    let reach := isMaster m = true ∧ reachesWord d m a = true ∧ PortLets 1 m a d
    (reachesWord d m a = false → exec (.chamberFieldWrite m a v) s = .next s) ∧
    (isFn m = true ∨ isFieldMaster m = true ∨ m = 2 ∧ portSelected d = false → exec (.claim m) s = .next s ∧ exec (.level m) s = .next s ∧ exec (.openNext m) s = .next s ∧
      exec (.openAt m) s = .next s ∧ exec (.unschedule m) s = .next s ∧ exec (.discard m) s = .next s) ∧
    (portSelected d = false → exec (.chamberFieldWrite 2 a v) s = .next s) ∧
    (reach → c.owner = m → c.state = .filling ∨ c.state = .levelled → c.entries.length < 4096 →
      ∃ t, exec (.chamberFieldWrite m a v) s = .next t ∧ t.dev.chm.state = .filling ∧
        (tabFind t.dev.chm.entries a).map (·.val) = some (v &&& wd (chmMask a)) ∧ (∀ b, b ≠ a → tabFind t.dev.chm.entries b = tabFind c.entries b) ∧
        t.dev.regs = d.regs ∧ (c.state = .levelled → t.dev.chm.approvals = [])) ∧
    (reach → c.owner ≠ m ∨ c.state = .empty ∨ c.state = .levelling ∨ c.state = .scheduled →
      exec (.chamberFieldWrite m a v) s = .next { s with dev := rgOr d Reg.CHM_STATE 16 })

/-- R49, R51, R53: the level step and the opening: a chamber that failed a check goes back to FILLING with its code; one that passed is LEVELLED with no
approvals; a SCHEDULED one opens at its target edge and is EMPTY, or goes back to FILLING in HOLD. -/
def Obligations.ChamberLevelAndOpen : Prop :=
  ∀ s : State,
    let d := s.dev
    (d.chm.state = .levelling → d.chm.tooMany = true →
      ∃ t, exec .levelComplete s = .next t ∧ t.dev.chm.state = .filling ∧ t.dev.chm.errCode = 1 ∧ t.dev.chm.entries = d.chm.entries) ∧
    (d.chm.state = .levelling → levelChecks blockRules lifeCheck (fun _ => none) d = none → chmFieldEntries d = [] → hopServes d 3 = true →
      ∃ t, exec .levelComplete s = .next t ∧ t.dev.chm.state = .levelled ∧ t.dev.chm.approvals = [] ∧ t.dev.chm.errCode = 0 ∧
        t.dev.chm.digest = sha384 (digestInput t.dev t.dev.chm.nonce)) ∧
    (d.chm.state = .scheduled → d.chm.target ≤ d.pas.count → d.keep.hold = true →
      ∃ t, exec .chamberOpen s = .next t ∧ t.dev.chm.state = .filling ∧ t.dev.chm.errCode = 9 ∧ t.dev.chm.approvals = [] ∧ t.dev.regs = d.regs) ∧
    (d.chm.state = .scheduled → d.chm.target ≤ d.pas.count → openFail d = none →
      ∃ t, exec .chamberOpen s = .next t ∧ t.dev.chm.state = .empty ∧ t.dev.chm.entries = []) ∧
    (d.chm.state ≠ .scheduled ∨ d.pas.count < d.chm.target → exec .chamberOpen s = .next s)

/-- R53, R55: an approval verified waits for the next edge, and stays as it is in the pass of its verification; there it is accepted where the chamber still has its number and digest and holds fewer than two,
none of that officer; one that reaches the end of its life voids all and returns the chamber to FILLING. -/
def Obligations.ChamberApprovals : Prop :=
  ∀ s : State,
    let d := s.dev
    (∀ o ∈ d.ops, findOp d o.id = some o → o.phase = .admitted → o.opcode = 0x53 → d.chm.waiting.any (fun p => decide (p.op = some o.id)) = false →
      cardSigned (tabGet [] d.life.roster (tokRoster o.input)) (o.input.take 80) (slice o.input 80 64) = true →
      exec (.approvalVerified o.id) s = .next { s with dev := { d with chm := { d.chm with waiting := d.chm.waiting ++
        [{ op := some o.id, iface := none, roster := leAt o.input 3 1, seq := leAt o.input 4 6, digest := slice o.input 32 48, pass := d.pas.count }] } } }) ∧
    ((∀ p ∈ d.chm.waiting, d.pas.count ≤ p.pass) → exec .approvalAccept s = .next s) ∧
    (∀ p, d.chm.waiting = [p] → p.pass < d.pas.count → p.op.bind (findOp d) = none → p.seq = tabGet 0 d.keep.monc 0 → p.digest = d.chm.digest →
      d.chm.state = .levelled ∨ d.chm.state = .scheduled → d.chm.approvals.length < 2 → (∀ a ∈ d.chm.approvals, a.roster ≠ p.roster) →
      exec .approvalAccept s = .next { s with dev := { d with chm := { d.chm with waiting := [], approvals := d.chm.approvals ++ [⟨p.roster, d.pas.count⟩] } } }) ∧
    (∀ p o, d.chm.waiting = [p] → p.pass < d.pas.count → p.op.bind (findOp d) = some o → (∃ r k, o.src = .ring r k) → o.dead = false →
      p.seq ≠ tabGet 0 d.keep.monc 0 ∨ p.digest ≠ d.chm.digest → p.iface = none →
      ∃ t, exec .approvalAccept s = .next t ∧ t.dev.chm = { d.chm with waiting := [] } ∧
        ∀ x ∈ t.dev.ops, x.id = o.id → x.phase = .ended ∧ x.status = 6 ∧ x.sub = 2) ∧
    (d.chm.state = .levelled ∨ d.chm.state = .scheduled → (∃ a ∈ d.chm.approvals, a.at_ + rn d Reg.CHM_APPROVAL_LIFE ≤ d.pas.count) →
      ∃ t, exec .approvalExpiry s = .next t ∧ t.dev.chm.state = .filling ∧ t.dev.chm.approvals = [] ∧ t.dev.chm.errCode = 8 ∧
        tabGet 0 t.dev.keep.monc 0 = min (2 ^ 48 - 1) (tabGet 0 d.keep.monc 0 + 1))

/-- R39, R98: at an edge every loaded or exhausted slot whose non-zero EXPIRY the pass count has reached becomes EXPIRED, and no other slot changes; an
admitted operation not complete two passes after its bound sets the bit of its unit's kind in PAS_OVERRUN, and where none has overrun nothing happens. -/
def Obligations.ExpiriesAndOverruns : Prop :=
  (∀ s : State, ∃ t, exec .keySlotExpiry s = .next t ∧ t = { s with dev := { s.dev with slots := t.dev.slots } } ∧
    ∀ i, let x : Slot := tabGet {} s.dev.slots i
      tabGet {} t.dev.slots i = if x.expiry ≠ 0 ∧ x.expiry ≤ s.dev.pas.count ∧ (x.state = 1 ∨ x.state = 2) then { x with state := 3 } else x) ∧
  ∀ s : State,
    (∀ o, s.dev.ops = [o] → o.phase = .admitted → o.admitAt + o.bound + 2 ≤ s.dev.pas.count → unjudged s.dev o = false →
      ∃ t, exec .boundOverrun s = .next t ∧ bit (rg t.dev Reg.PAS_OVERRUN) ((holderOf o).elim 0 (·.1)) = true) ∧
    ((∀ o ∈ s.dev.ops, o.phase ≠ .admitted ∨ s.dev.pas.count < o.admitAt + o.bound + 2) → exec .boundOverrun s = .next s)

/-- R57 to R59: a partition request is accepted into the queue for the next edge, or refused with PAS_PART_RESULT 1; from another master, or a host core
above P0, it is dropped; one for a flight or a chain goes to the field end in a CONFIG_PUSH barge. An accepted RETURN or FENCE of a unit with nothing in flight takes effect at step 4, none in the pass of its request; and a DRAINING unit with
nothing in flight is marked to enter MAINT at the next edge. -/
def Obligations.PartitionUnits : Prop :=
  ∀ (s : State) (m pl kind idx reason : Nat),
    let d := s.dev
    let may := m = 1 ∨ isH m = true ∧ pl = 0
    let host := kind ∈ [1, 2, 3, 6, 7, 8]
    let taken := fun (act r : Nat) => (.next { s with dev := { d with pas := { d.pas with
      reqs := d.pas.reqs ++ [{ kind := kind, idx := idx, action := act, reason := r, pass := d.pas.count, ready := true }],
      result := tabSet 0 d.pas.result m 0 } } } : Out)
    let refused : Out := .next { s with dev := { d with pas := { d.pas with result := tabSet 0 d.pas.result m 1 } } }
    let st := (part d kind idx).state
    (may → host → idx < unitCount kind → reason = 0 → ¬ (kind = 6 ∧ m = 0x10 + idx) →
      (st = 0 → exec (.partReqDrain m pl kind idx reason) s = taken 1 0) ∧ (st ≠ 0 → exec (.partReqDrain m pl kind idx reason) s = refused) ∧
      (st < 2 → exec (.partReqFence m pl kind idx reason) s = taken 2 0) ∧ (2 ≤ st → exec (.partReqFence m pl kind idx reason) s = refused) ∧
      (2 ≤ st → exec (.partReqReturn m pl kind idx reason) s = taken 3 0) ∧ (st < 2 → exec (.partReqReturn m pl kind idx reason) s = refused)) ∧
    (may → kind = 4 ∨ kind = 5 → d.lkg.fieldUp = true → idx < unitCount kind → reason = 0 → (tabGet {} d.pas.shown (64 * kind + idx) : Part).state = 0 →
      ∃ t, exec (.partReqDrain m pl kind idx reason) s = .next t ∧ tabGet 0 t.dev.pas.result m = 0 ∧
        t.dev.pas.reqs = d.pas.reqs ++ [{ kind := kind, idx := idx, action := 1, reason := 0, pass := d.pas.count, ready := false }] ∧
        tabGet [] t.dev.lkg.sendq 128 = tabGet [] d.lkg.sendq 128 ++ [configPush 3 0 [pack [(0, kind), (4, idx), (12, 1), (14, 0)]] 1]) ∧
    (¬ may → exec (.partReqDrain m pl kind idx reason) s = .next s ∧ exec (.partReqFence m pl kind idx reason) s = .next s ∧
      exec (.partReqReturn m pl kind idx reason) s = .next s) ∧
    (∀ q, d.pas.reqs = [q] → d.pas.count ≤ q.pass ∨ d.pas.count ≤ q.readyAt → exec .partitionApply s = .next s) ∧
    (∀ q, d.pas.reqs = [q] → q.ready = true → q.shown = false → q.pass < d.pas.count → q.readyAt < d.pas.count →
      (q.kind ≠ 4 → q.kind ≠ 5 → q.action = 3 →
        ∃ t, exec .partitionApply s = .next t ∧ part t.dev q.kind q.idx = {} ∧ t.dev.pas.reqs = [] ∧ t.dev.ops = d.ops ∧ t.dev.regs = d.regs) ∧
      (q.kind = 3 → q.action = 2 → unitOps d 3 q.idx = [] →
        ∃ t, exec .partitionApply s = .next t ∧ part t.dev 3 q.idx = { state := 3, reason := q.reason } ∧ t.dev.pas.reqs = [] ∧ t.dev.regs = d.regs)) ∧
    ∃ t, exec .drainComplete s = .next t ∧ t = { s with dev := { d with pas := { d.pas with drained := t.dev.pas.drained } } } ∧
      ∀ k i, (k, i) ∈ t.dev.pas.drained ↔ (k ∈ [1, 2, 3, 6, 7, 8] ∧ i < unitCount k) ∧ (part d k i).state = 1 ∧ unitBusy d k i = false

/-- R72, R73, Tables 3.12 to 3.14: a descriptor placed on a ring that may be fetched from enters flight with every field at its place; on a ring that may
not be fetched from nothing happens. -/
def Obligations.DescriptorsEnterFlight : Prop :=
  ∀ (s : State) (r : Nat) (h : DescHdr) (b : CipherBody) (k : HashBody) (j : JobBody) (v w x y z u : Nat) (o : Octets),
    let cipher := [(8, 2, b.slot), (10, 1, b.mode), (11, 1, b.flags), (12, 4, b.aadLen), (16, 4, b.payLen), (20, 1, b.ivLen), (21, 1, b.tagLen),
      (24, 8, b.src), (32, 8, b.dst), (40, 16, leNat (b.iv.take 16)), (56, 8, b.tagAddr)]
    let hash := [(8, 2, k.slot), (10, 1, k.alg), (16, 4, k.len), (24, 8, k.src), (32, 8, k.dst)]
    let job := [(8, 2, j.recipe), (10, 1, j.curve), (11, 1, j.unit), (12, 2, j.slot), (16, 2, j.opCount), (18, 2, j.resCount), (24, 8, j.opList),
      (32, 8, j.resList)]
    let env := [(8, 2, v), (10, 1, w), (12, 4, x), (16, 8, y), (24, 8, z), (32, 4, u)]
    let rows : List (Instr × Nat × List (Nat × Nat × Nat)) :=
      [(.encrypt r h b, 0x10, cipher), (.decrypt r h b, 0x11, cipher), (.macGenerate r h b, 0x12, cipher), (.macVerify r h b, 0x13, cipher),
       (.hash r h k, 0x20, hash), (.hmac r h k, 0x21, hash), (.job r h j, 0x30, job),
       (.lookup r h v w o, 0x40, [(8, 1, v), (16, 8, w), (24, 32, leNat (o.take 32))]),
       (.stageDeltas r h v w, 0x41, [(8, 4, v), (16, 8, w)]), (.commitEpoch r h v, 0x42, [(16, 8, v)]), (.chamberClaim r h, 0x50, []),
       (.chamberWrite r h v w, 0x51, [(8, 4, v), (16, 8, w)]), (.chamberCmd r h v w, 0x52, [(8, 1, v), (16, 8, w)]), (.approval r h v, 0x53, [(16, 8, v)]),
       (.keyImport r h v w x, 0x54, [(8, 2, v), (12, 4, w), (16, 8, x)]), (.keyExport r h v w x y, 0x55, [(8, 2, v), (10, 1, w), (12, 4, x), (16, 8, y)]),
       (.keyErase r h v, 0x56, [(8, 2, v)]), (.partition r h v, 0x57, [(8, 4, v)]), (.cancelRing r h v, 0x58, [(8, 2, v)]),
       (.regRead r h v w x, 0x59, [(8, 4, v), (12, 4, w), (16, 8, x)]), (.holdUnlock r h v w, 0x5A, [(12, 4, v), (16, 8, w)]),
       (.envSeal r h v w x y z u, 0x60, env), (.envOpen r h v w x y z u, 0x61, env)]
    (fetchable s.dev r = true → ∀ e ∈ rows, ∃ t, exec e.1 s = .next t ∧ Fetched r (described e.2.1 h e.2.2) s t) ∧
    (fetchable s.dev r = false → ∀ e ∈ rows, exec e.1 s = .next s)

/-- R63, R69, R70, R72, R78, R88: doorbells move a ring's tail and completion head, or set DBERR; fetches and staging, and their failures, which AER
reports of the ring's function. -/
def Obligations.RingDoorbellsAndStaging : Prop :=
  ∀ (s : State) (f r v : Nat),
    let d := s.dev
    let x := ringGet d r
    let put := fun (y : Ring) => (.next { s with dev := { d with rings := tabSet {} d.rings r y } } : Out)
    let err : Out := .next { s with dev := rgAdd (rgOr d (Reg.WHF_RING_STATUS + 8 * r) (2 ^ 17)) Reg.WHF_DBERR_COUNT 1 }
    let p := v % 2 ^ 16 + v / 2 ^ 16 % 2 * x.size
    let aer := fun (t : State) => (tabGet {} t.dev.pcie (ringFn d r) : PcieFn).aer ≠ [] ∧
      ∀ g, g ≠ ringFn d r → (tabGet {} t.dev.pcie g : PcieFn) = tabGet {} d.pcie g
    (r < 1024 → f = 0 ∨ f ≤ d.numVfs → ringFn d r = f → x.state ≠ .disabled →
      (v < 2 ^ 17 → v % 2 ^ 16 < x.size →
        (posDist x.size x.head p ≤ x.size → 0 < posDist x.size x.tail p → posDist x.size x.tail p ≤ x.size →
          exec (.submissionDoorbell f r 0 8 v) s = put { x with tail := p, marks := x.marks ++ [(p, d.pas.count)] }) ∧
        (x.size < posDist x.size x.head p → 0 < posDist x.size x.tail p → posDist x.size x.tail p ≤ x.size →
          exec (.submissionDoorbell f r 0 8 v) s = err) ∧
        (posDist x.size x.tail p = 0 ∨ x.size < posDist x.size x.tail p → exec (.submissionDoorbell f r 0 8 v) s = .next s) ∧
        (x.cqNext = none → 0 < posDist x.size x.cqHead p → posDist x.size x.cqHead p ≤ posDist x.size x.cqHead x.cq → posDist x.size x.cqHead p ≤ x.size →
          exec (.completionDoorbell f r 8 8 v) s = put { x with cqNext := some p }) ∧
        (x.cqNext = none → posDist x.size x.cqHead x.cq < posDist x.size x.cqHead p → posDist x.size x.cqHead p ≤ x.size →
          exec (.completionDoorbell f r 8 8 v) s = err)) ∧
      (∀ off size, size ≠ 8 ∨ off ≠ 0 ∨ 2 ^ 17 ≤ v ∨ x.size ≤ v % 2 ^ 16 → exec (.submissionDoorbell f r off size v) s = err) ∧
      (∀ off size, size ≠ 8 ∨ off ≠ 8 ∨ 2 ^ 17 ≤ v ∨ x.size ≤ v % 2 ^ 16 → exec (.completionDoorbell f r off size v) s = err)) ∧
    (fetchable d r = true → ∀ o : Octets, o.length = 64 → ∃ t, exec (.descriptorFetch r [o]) s = .next t ∧ Fetched r (fun p => p = o) s t) ∧
    (∀ (o : Octets) (l : List Octets), l.length < 16 →
      ∃ t, exec (.descriptorFetch r [o]) s = .next t ∧ exec (.descriptorFetch r (o :: l)) s = exec (.descriptorFetch r l) t) ∧
    (x.state = .active → x.head ≠ x.tail → ∀ c, ∃ t, exec (.descriptorFetchFailure r c) s = .next t ∧ aer t ∧
      t = { s with dev := { d with rings := tabSet {} d.rings r { x with state := .stopped }, pcie := t.dev.pcie } }) ∧
    (∀ (o : Op) (data : Octets), ringOpAt d r v = some o → o.phase = .fetched →
      (stageUsed d + data.length + heldSpace o ≤ 2 ^ 24 →
        data.length = (if o.opcode = 0x30 then jobInputLen o data else inputLen o) →
        exec (.stagingComplete r v data) s =
          .next { s with dev := setOp d { o with phase := .staged, input := data, eligAt := max o.eligAt (d.pas.count + 1) } }) ∧
      (∃ t, exec (.stagingReadFailure r v 0xF3) s = .next t ∧ aer t ∧
        t = { s with dev := { setOp d { o with phase := .ended, status := St.timeout, sub := 0xF3, dueAt := d.pas.count + 1 } with pcie := t.dev.pcie } }) ∧
      (∀ c, c ≠ 0xF3 → ∃ t, exec (.stagingReadFailure r v c) s = .next t ∧ aer t ∧
        t = { s with dev := { setOp d { o with phase := .ended, status := St.denied, sub := c, dueAt := d.pas.count + 1 } with pcie := t.dev.pcie } }))

/-- R63, R81, R83, R84, R85: a ring's states as a master that reaches its group sets them (a DRAINING or STOPPED ring that nothing more is in flight for is
marked to be DISABLED at the next edge), its completion entry (Table 3.15) and its vector. -/
def Obligations.RingStatesAndCompletions : Prop :=
  ∀ (s : State) (m r n : Nat), r < 1024 → isMaster m = true → reachesWord s.dev m (Reg.WHF_RING_SIZE + 8 * r) = true →
    PortLets 1 m (Reg.WHF_RING_SIZE + 8 * r) s.dev →
    let d := s.dev
    let x := ringGet d r
    let size := Reg.WHF_RING_SIZE + 8 * r
    let cfgErr : Out := .next { s with dev := rgOr d (Reg.WHF_RING_STATUS + 8 * r) (2 ^ 18) }
    let int := rg d (Reg.WHF_RING_INT + 8 * r)
    (x.state = .disabled → 4 ≤ n → n ≤ 16 →
      exec (.ringEnable m r n) s = .next { s with dev := rgSet (ringSet d r { x with enabling := true }) size (BitVec.ofNat 36 n) }) ∧
    (x.state ≠ .disabled ∨ n < 4 ∨ 16 < n → 0 < n → n < 32 → exec (.ringEnable m r n) s = cfgErr) ∧
    (x.state = .active → exec (.ringDrain m r) s = .next { s with dev := rgSet (ringSet d r { x with state := .draining }) size 0 }) ∧
    (x.state = .draining ∨ x.state = .stopped → ringOps d r = [] →
      exec (.ringDisable r) s = .next { s with dev := ringSet d r { x with drained := true } }) ∧
    (x.state = .active ∨ x.state = .disabled ∨ ringOps d r ≠ [] → exec (.ringDisable r) s = .next s) ∧
    (∀ o pos, ringOps d r = [o] → o.src = .ring r pos → o.phase = .ended → o.dueAt ≤ d.pas.count → posDist x.size x.cqHead x.cq < x.size →
      busMaster d (ringFn d r) = true → o.intr = false → int.toNat / 2 ^ 20 = 0 →
      ∃ t, exec (.completionWrite r) s = .next t ∧
        (let e := hostRd t.dev (ofLoHi (rg d (Reg.WHF_CQ_BASE_LO + 8 * r)) (rg d (Reg.WHF_CQ_BASE_HI + 8 * r)) + 32 * (x.cq % x.size)) 32
         leAt e 0 4 = o.opTag ∧ leAt e 4 1 = o.status % 256 ∧ leAt e 5 1 = o.sub % 256 ∧ leAt e 6 1 = (if x.cq < x.size then 1 else 0) + 2 * b2n o.quant ∧
         leAt e 7 1 = 0 ∧ leAt e 8 2 = (pos % x.size + 1) % x.size % 2 ^ 16 ∧ leAt e 10 2 = 0 ∧ leAt e 12 4 = o.resLen % 2 ^ 32 ∧
         leAt e 16 8 = d.pas.count % 2 ^ 64 ∧ leAt e 24 8 = o.result % 2 ^ 64) ∧
        ringGet t.dev r = { x with cq := (x.cq + 1) % (2 * x.size), unsig := x.unsig + 1, unsigAt := if x.unsig = 0 then d.pas.count else x.unsigAt } ∧
        t.dev.ops = d.ops.filter (fun q => decide (q.id ≠ o.id)) ∧ t.dev.regs = d.regs ∧ t.dev.msgs = d.msgs ∧ t.dev.mem = d.mem) ∧
    (∀ o l, ringOps d r = o :: l → o.phase ≠ .ended ∨ d.pas.count < o.dueAt ∨ x.size ≤ posDist x.size x.cqHead x.cq →
      exec (.completionWrite r) s = .next s) ∧
    (let f := ringFn d r
     let v := int.toNat % 2 ^ 11
     let q : Msix := tabGet {} d.msix f
     let mod := int.toNat / 2 ^ 12 % 2 ^ 8
     mod ≠ 0 → x.unsig ≠ 0 → x.unsigAt + mod ≤ d.pas.count → v < rn d (Reg.WHF_FN_VEC + f) →
      ∃ t, exec (.moderationTimerExpiry r) s = .next t ∧ ringGet t.dev r = { x with unsig := 0, unsigAt := 0 } ∧
        (q.enable = true → q.fmask = false → tabGet false q.open_ v = true → tabGet 0 t.dev.msgs (f * 4096 + v) = tabGet 0 d.msgs (f * 4096 + v) + 1) ∧
        (q.enable = false ∨ q.fmask = true ∨ tabGet false q.open_ v = false → tabGet false (tabGet ({} : Msix) t.dev.msix f).pba v = true ∧ t.dev.msgs = d.msgs) ∧
        t.dev.ops = d.ops ∧ t.dev.host = d.host ∧ t.dev.regs = d.regs) ∧
    (d.keep.hold = true → (∀ o ∈ d.ops, o.ring? = some r ∨ o.ring? = none) → exec .heldCompletion s = exec (.completionWrite r) s) ∧
    (d.keep.hold = false → exec .heldCompletion s = .next s)

/-- R60, R84, R86, R88: reset of a function, D3hot, link loss and link up, the configuration writes and the MSI-X table. -/
def Obligations.PcieFunctions : Prop :=
  ∀ (s : State) (f : Nat), f < 64 →
    let d := s.dev
    let quiet := fun (e : Dev) (all : Bool) =>
      (∀ r, r < 1024 → all = true ∨ ringFn d r = f → ringGet e r = { state := .disabled, epoch := (ringGet d r).epoch }) ∧
      (∀ o ∈ e.ops, ∀ r pos, o.src = .ring r pos → r < 1024 → all = true ∨ ringFn d r = f → o.phase = .admitted ∧ o.opcode ≠ 0x30) ∧
      ∀ i, ¬ ((slotGet e i).state ≠ 0 ∧ (slotGet e i).owner = 0x40 + f)
    let q : PcieFn := tabGet {} d.pcie f
    let cfg := fun (w : PcieCfg) (y : PcieFn) => ∃ t, exec (.pcieConfigurationWrite w) s = .next t ∧ t = { s with dev := { d with pcie := t.dev.pcie } } ∧
      (tabGet {} t.dev.pcie f : PcieFn) = y ∧ ∀ g, g ≠ f → (tabGet {} t.dev.pcie g : PcieFn) = tabGet {} d.pcie g
    (∃ t, exec (.functionLevelReset f) s = .next t ∧ quiet t.dev false ∧ tabFind t.dev.msix f = none ∧ busMaster t.dev f = false ∧
      tabFind t.dev.d3 f = none ∧ t.dev.linkUp = d.linkUp ∧ t.dev.pas.count = d.pas.count) ∧
    (∃ t, exec (.d3hotEntry f) s = .next t ∧ quiet t.dev false ∧ t.dev.msix = d.msix ∧ tabGet false t.dev.d3 f = true ∧ busMaster t.dev f = false) ∧
    (∃ t, exec (.pcieLinkLoss false) s = .next t ∧ quiet t.dev true ∧ t.dev.linkUp = false ∧ t.dev.linkWidth = 0 ∧ t.dev.linkSpeed = 0 ∧
      t.dev.numVfs = 0 ∧ t.dev.pcie = []) ∧
    (∀ w g, exec (.pcieLinkUp w g) s = .next { s with dev := { d with linkUp := true, linkWidth := w, linkSpeed := g } }) ∧
    (∀ on, exec (.pcieConfigurationWrite (.busMaster f on)) s = .next { s with dev := { d with pcieBme := tabSet false d.pcieBme f on } }) ∧
    exec (.pcieConfigurationWrite (.powerD0 f)) s = .next { s with dev := { d with d3 := tabErase d.d3 f } } ∧
    exec (.pcieConfigurationWrite (.numVfs f)) s = .next { s with dev := { d with numVfs := f } } ∧
    (∀ c, c ≤ 2 → cfg (.maxPayload f c) { q with maxPayload := c }) ∧ (∀ c, c ≤ 5 → cfg (.maxReadRequest f c) { q with maxRead := c }) ∧
    (∀ g k, cfg (.ecrc f g k) { q with ecrcGen := g, ecrcCheck := k }) ∧
    (∀ b, cfg (.aerClear f b) { q with aer := q.aer.filter (fun x => decide (x ≠ b)) }) ∧
    (∀ v addr data masked, v < (if f = 0 then 2048 else 64) → (tabGet ({} : Msix) d.msix f).pba = [] →
      ∃ t, exec (.msixTableWrite (.entry f v addr data masked)) s = .next t ∧ t = { s with dev := { d with msix := t.dev.msix } } ∧
        (let q : Msix := tabGet {} t.dev.msix f
         tabGet 0 q.addr v = addr ∧ tabGet 0 q.data v = data ∧ tabGet false q.open_ v = !masked) ∧
        ∀ g, g ≠ f → (tabGet ({} : Msix) t.dev.msix g) = tabGet {} d.msix g) ∧
    (∀ v, (tabGet ({} : Msix) d.msix f).pba = [(v, true)] → (tabGet ({} : Msix) d.msix f).fmask = true → tabGet false (tabGet ({} : Msix) d.msix f).open_ v = true →
      v < rn d (Reg.WHF_FN_VEC + f) →
      ∃ t, exec (.msixTableWrite (.control f true false)) s = .next t ∧ tabGet 0 t.dev.msgs (f * 4096 + v) = tabGet 0 d.msgs (f * 4096 + v) + 1 ∧
        tabGet false (tabGet ({} : Msix) t.dev.msix f).pba v = false)

/-- R108, R478 and the tables of the blocks' commands: a write to a command register is taken from the masters that may write it, to be offered at the next
edge; a malformed one ends with BAD_DESCRIPTOR and, but for those that run in HOLD, one in HOLD ends with HELD; while a command of the master is
outstanding it is dropped, as it is from any other master. -/
def Obligations.CommandRegisters : Prop :=
  ∀ (s : State) (m pl c : Nat) (w : Option WccAt),
    let d := s.dev
    let k := fun (base i : Nat) => (pv d m (base + i)).toNat
    let args := fun (base n : Nat) => (List.range n).map (k base)
    let zero := fun (base : Nat) (l : List Nat) => ∀ i ∈ l, k base i = 0
    let low := (m = 1 ∨ isH m = true) ∧ pl ≤ 1
    let top := m = 1 ∨ isH m = true ∧ pl = 0
    let perm := m = 1 ∧ pl ≤ 1 ∨ isH m = true ∧ pl = 0
    let lcs := m = 1 ∨ m = 2 ∧ d.life.state ≤ 1
    let one := fun (base i : Nat) => decide (k base i = 1)
    let rows : List (Instr × (Nat × Nat × Nat) × (Bool × List Nat) × (Bool × Prop × Prop)) :=
      [(.kslImport m pl, (0x0D, 0x81, 0), (one Reg.KSL_ARG 4, args Reg.KSL_ARG 5), (false, low, zero Reg.KSL_ARG [1] ∧ k Reg.KSL_ARG 4 ≤ 1)),
       (.kslExport m pl, (0x0D, 0x82, 0), (one Reg.KSL_ARG 4, args Reg.KSL_ARG 5), (false, low, k Reg.KSL_ARG 4 ≤ 1)),
       (.kslErase m pl, (0x0D, 0x83, 0), (one Reg.KSL_ARG 4, args Reg.KSL_ARG 5), (false, low, zero Reg.KSL_ARG [1, 2, 3, 4])),
       (.derive m pl, (0x0D, 0x84, 0), (one Reg.KSL_ARG 4, args Reg.KSL_ARG 5), (false, low, zero Reg.KSL_ARG [3] ∧ k Reg.KSL_ARG 4 ≤ 1)),
       (.unwrap3394 m pl, (0x0D, 0x85, 0), (one Reg.KSL_ARG 4, args Reg.KSL_ARG 5), (false, low, k Reg.KSL_ARG 4 ≤ 1)),
       (.loadSak m pl, (0x12, 0x91, 0), (one Reg.ILS_ARG 3, args Reg.ILS_ARG 4), (false, low, k Reg.ILS_ARG 3 ≤ 1)),
       (.clearKey m pl, (0x12, 0x92, 0), (one Reg.ILS_ARG 3, args Reg.ILS_ARG 4), (false, low, zero Reg.ILS_ARG [1, 2, 3])),
       (.loadImage m pl, (0x0E, 0xA1, 0), (one Reg.GRD_ARG 3, args Reg.GRD_ARG 4), (false, top, k Reg.GRD_ARG 0 < 2 ^ 16 ∧ k Reg.GRD_ARG 3 ≤ 1)),
       (.crgStage m pl w, (0x10, 0xB1, 0), (one Reg.CRG_ARG 2, args Reg.CRG_ARG 3), (false, low, k Reg.CRG_ARG 2 ≤ 1)),
       (.crgCommit m pl, (0x10, 0xB2, 0), (false, args Reg.CRG_ARG 3), (false, low, k Reg.CRG_ARG 1 < 2 ^ 28 ∧ k Reg.CRG_ARG 2 = 0)),
       (.crgDiscard m pl, (0x10, 0xB3, 0), (false, args Reg.CRG_ARG 3), (false, low, zero Reg.CRG_ARG [0, 1, 2])),
       (.toFactory m, (0x05, 0xC1, 0), (false, args Reg.LCS_ARG 3), (false, lcs, zero Reg.LCS_ARG [0, 1, 2])),
       (.provision m, (0x05, 0xC2, 0), (one Reg.LCS_ARG 2, args Reg.LCS_ARG 3), (false, lcs, k Reg.LCS_ARG 2 ≤ 1)),
       (.toScrap m, (0x05, 0xC3, 0), (false, args Reg.LCS_ARG 3), (false, lcs, zero Reg.LCS_ARG [0, 1, 2])),
       (.issueChallenge m, (0x05, 0xC4, 0), (false, args Reg.LCS_ARG 3), (false, lcs, 1 ≤ k Reg.LCS_ARG 0 ∧ k Reg.LCS_ARG 0 ≤ 3 ∧ zero Reg.LCS_ARG [1, 2])),
       (.verifyResponse m, (0x05, 0xC5, 0), (one Reg.LCS_ARG 2, args Reg.LCS_ARG 3), (false, lcs, k Reg.LCS_ARG 2 ≤ 1)),
       (.flashRead m pl, (0x13, 0xD1, pl), (one Reg.FLS_ARG 2, args Reg.FLS_ARG 4),
         (true, low, k Reg.FLS_ARG 0 < 2 ^ 19 ∧ k Reg.FLS_ARG 2 ≤ 1 ∧ k Reg.FLS_ARG 3 = 0)),
       (.flashProgram m pl, (0x13, 0xD2, pl), (one Reg.FLS_ARG 2, args Reg.FLS_ARG 4),
         (true, low, k Reg.FLS_ARG 0 < 2 ^ 19 ∧ k Reg.FLS_ARG 2 ≤ 1 ∧ k Reg.FLS_ARG 3 = 0)),
       (.flashErase m pl, (0x13, 0xD3, pl), (false, args Reg.FLS_ARG 4), (true, low, k Reg.FLS_ARG 0 < 2 ^ 11 ∧ zero Reg.FLS_ARG [1, 2, 3])),
       (.flashSuspend m pl, (0x13, 0xD4, pl), (false, args Reg.FLS_ARG 4), (true, low, k Reg.FLS_ARG 0 < 8 ∧ zero Reg.FLS_ARG [1, 2, 3])),
       (.flashResume m pl, (0x13, 0xD5, pl), (false, args Reg.FLS_ARG 4), (true, low, k Reg.FLS_ARG 0 < 8 ∧ zero Reg.FLS_ARG [1, 2, 3])),
       (.readCal m pl, (0x13, 0xD6, pl), (one Reg.FLS_ARG 2, args Reg.FLS_ARG 4), (true, low, k Reg.FLS_ARG 2 ≤ 1 ∧ zero Reg.FLS_ARG [0, 3])),
       (.flashCommit m pl, (0x13, 0xD7, pl), (false, args Reg.FLS_ARG 4),
         (true, low, k Reg.FLS_ARG 0 < 8 ∧ k Reg.FLS_ARG 1 < 2 ^ 32 ∧ zero Reg.FLS_ARG [2, 3])),
       (.append m pl w, (0x14, 0xE1, pl), (one Reg.SDH_ARG 2, args Reg.SDH_ARG 4), (false, low, k Reg.SDH_ARG 2 ≤ 1 ∧ k Reg.SDH_ARG 3 = 0)),
       (.sdRead m pl w, (0x14, 0xE2, pl), (one Reg.SDH_ARG 3, args Reg.SDH_ARG 4), (true, low, k Reg.SDH_ARG 0 < 2 ^ 33 ∧ k Reg.SDH_ARG 3 ≤ 1)),
       (.sdOpen m pl, (0x14, 0xE3, pl), (false, args Reg.SDH_ARG 4), (false, low, k Reg.SDH_ARG 0 ≤ 1 ∧ zero Reg.SDH_ARG [1, 2, 3])),
       (.sdClose m pl, (0x14, 0xE4, pl), (false, args Reg.SDH_ARG 4), (false, low, k Reg.SDH_ARG 0 ≤ 1 ∧ zero Reg.SDH_ARG [1, 2, 3])),
       (.protectPerm m pl, (0x14, 0xE5, pl), (false, args Reg.SDH_ARG 4), (true, perm, k Reg.SDH_ARG 0 ≤ 1 ∧ zero Reg.SDH_ARG [1, 2, 3])),
       (.activate m pl c, (0x15, 0xF1, pl), (false, [c % 2]), (true, top, True)), (.officerAuth m pl c, (0x15, 0xF2, pl), (false, [c % 2]), (false, top, True)),
       (.approve m pl c, (0x15, 0xF3, pl), (false, [c % 2]), (false, top, True)), (.deactivate m pl c, (0x15, 0xF4, pl), (false, [c % 2]), (true, top, True))]
    ∀ e ∈ rows,
      let b := e.2.1.1
      let runs := e.2.2.2.1 = true ∨ d.keep.hold = false
      (e.2.2.2.2.1 → (cmdGet d b m).busy = false →
        (e.2.2.2.2.2 → runs →
          ∃ t, exec e.1 s = .next t ∧ Taken b m e.2.1.2.1 e.2.1.2.2 e.2.2.1.1 e.2.2.1.2 .staged 0 0 s t) ∧
        (¬ e.2.2.2.2.2 → runs → ∃ t dense, exec e.1 s = .next t ∧ Taken b m 0x80 e.2.1.2.2 dense e.2.2.1.2 .ended St.badDesc (d.pas.count + 1) s t) ∧
        (e.2.2.2.2.2 → ¬ runs → ∃ t, exec e.1 s = .next t ∧ Taken b m e.2.1.2.1 e.2.1.2.2 e.2.2.1.1 e.2.2.1.2 .ended St.held (d.pas.count + 1) s t)) ∧
      (e.2.2.2.2.1 → (cmdGet d b m).busy = true → b ≠ 0x0D → exec e.1 s = .next s) ∧
      (e.2.2.2.2.1 → (cmdGet d b m).busy = true → b = 0x0D → exec e.1 s = .next { s with dev := rgAdd d Reg.KSL_CMD_DROPS 1 }) ∧
      (¬ e.2.2.2.2.1 → exec e.1 s = .next s)

/-- R92, R94, R109 to R112, R121, R96, R107: what a cipher or hash lane computes and how it ends, late results, exhausted slots, and the doorbell of a
cipher and hash firmware queue. -/
def Obligations.LanesAndFirmwareQueues : Prop :=
  (∀ (s : State) (id n r pos : Nat) (o : Op), findOp s.dev id = some o → o.phase = .admitted → o.parts = 0 → o.dead = false → o.src = .ring r pos →
    let due := s.dev.pas.count + 1 + max o.rqK (fld (rg s.dev Reg.PAS_RQ_KMIN) 3 0)
    let held := fun (t : State) (x : Op) => findOp t.dev id = some x ∧ x.phase = .held ∧ x.dueAt = due ∧ t.dev.host = s.dev.host ∧ t.dev.mem = s.dev.mem
    (o.unit = some (1, n) →
      let aad := o.input.take o.aadLen
      let text := slice o.input o.aadLen o.payLen
      let iv := if o.genIv then o.iv.take 12 else o.iv
      let out := cipherRun o.mode o.opcode o.material (iv.take o.ivLen) aad text o.tagLen
      let tag := out.2.take o.tagLen
      let same := octEq tag (o.input.drop (o.aadLen + o.payLen))
      let payload := if o.payLen = 0 then [] else [(o.dstAddr, out.1)]
      let tags := if o.tagLen = 0 then [] else [(o.tagAddr, tag ++ if o.genIv then iv else [])]
      (o.quant = true → ∃ t x, exec (.cipherOpComplete id none) s = .next t ∧ held t x ∧
        (o.opcode = 0x10 → x.status = St.done ∧ x.resLen = o.payLen ∧ x.outs = payload ++ tags) ∧
        (o.opcode = 0x12 → x.status = St.done ∧ x.resLen = o.tagLen ∧ x.outs = tags) ∧
        (o.opcode = 0x13 → same = true → x.status = St.done ∧ x.outs = []) ∧
        (o.opcode = 0x13 → same = false → x.status = St.untrusted ∧ x.sub = 1 ∧ x.outs = []) ∧
        (o.opcode = 0x11 → modeTagged o.mode = false ∨ same = true → x.status = St.done ∧ x.resLen = o.payLen ∧ x.outs = payload) ∧
        (o.opcode = 0x11 → modeTagged o.mode = true → same = false → o.scrub = false → x.status = St.untrusted ∧ x.sub = 1 ∧ x.outs = payload) ∧
        (o.opcode = 0x11 → modeTagged o.mode = true → same = false → o.scrub = true →
          x.status = St.untrusted ∧ x.sub = 2 ∧ x.outs = payload.map (fun y => (y.1, zeros y.2.length)))) ∧
      (o.quant = false → o.opcode = 0x10 → o.tagLen = 0 → 0 < o.payLen → busMaster s.dev (ringFn s.dev r) = true →
        ∃ t x, exec (.cipherOpComplete id none) s = .next t ∧ hostRd t.dev o.dstAddr out.1.length = out.1 ∧ findOp t.dev id = some x ∧ x.phase = .ended ∧
          x.status = St.done ∧ rg t.dev (Reg.CLN_OPS + 16 * n) = satInc (rg s.dev (Reg.CLN_OPS + 16 * n)) 1)) ∧
    (o.unit = some (2, n) → o.opcode = 0x20 ∨ o.opcode = 0x21 →
      let digest := if o.opcode = 0x20 then hashOf o.mode o.input else hmacOf o.mode o.material o.input
      (o.quant = true → ∃ t x, exec (.hashOpComplete id none) s = .next t ∧ held t x ∧ x.status = St.done ∧ x.resLen = digest.length ∧
        x.outs = [(o.dstAddr, digest)]) ∧
      (o.quant = false → busMaster s.dev (ringFn s.dev r) = true →
        ∃ t x, exec (.hashOpComplete id none) s = .next t ∧ hostRd t.dev o.dstAddr digest.length = digest ∧ findOp t.dev id = some x ∧ x.phase = .ended ∧
          x.status = St.done ∧ x.resLen = digest.length ∧ rg t.dev (Reg.HSH_OPS + 8 * n) = satInc (rg s.dev (Reg.HSH_OPS + 8 * n)) 1))) ∧
  (∀ (s : State) (k n : Nat),
    let d := s.dev
    let late := fun (e : Dev) => (.next { s with dev := rgAdd e Reg.WHF_LATE_DISCARDS 1 } : Out)
    ((part d k n).state = 3 → exec (.lateResultDiscard k n) s =
      late (if k = 1 then rgAdd d (Reg.CLN_LATE + 16 * n) 1 else if k = 3 then rgAdd d Reg.GRD_LATE 1 else d)) ∧
    ((part d k n).state ≠ 3 → exec (.lateResultDiscard k n) s = .next s) ∧
    (let x := slotGet d n
     (x.state = 1 → x.limit ≤ x.count → x.exhaust ≠ 1 → exec (.keyExhaustion n) s = .next { s with dev := slotSet d n { x with state := 2 } }) ∧
     (x.state = 1 → x.limit ≤ x.count → x.exhaust = 1 → ∃ t, exec (.keyExhaustion n) s = .next t ∧ slotGet t.dev n = { x with state := 2 } ∧
       rg t.dev Reg.KSL_EXHAUST_LAST = BitVec.ofNat 36 (n + 2 ^ 35) ∧ t.dev.ops = d.ops ∧
       t.dev.pas.inq = d.pas.inq ++ [{ core := 0x10, cls := 1, key := keyExhaust, pass := d.pas.count, data := [n] }]) ∧
     (x.state ≠ 1 ∨ x.count < x.limit → exec (.keyExhaustion n) s = .next s))) ∧
  (∀ (s : State) (q pl k : Nat) (v : Word), q < 9 → s.dev.keep.hold = false →
    let d := s.dev
    let act := fun (base head : Nat) (src : Nat → OpSrc) (c : Instr) =>
      let log2 := (rg d (base + 1)).toNat % 32
      let n := 2 ^ log2
      let h := posOf (rg d head) n
      let p := v.toNat % 2 ^ 16 + v.toNat / 2 ^ 16 % 2 * n
      4 ≤ log2 → log2 ≤ 12 → v.toNat % 2 ^ 16 < n → h < 2 * n → k = posDist n h p → k ≤ n → 0 < posDist n (posOf (rg d (base + 2)) n) p →
      posDist n (posOf (rg d (base + 2)) n) p ≤ n → inFlight d + k ≤ 131072 →
      (∀ i < k, (coreAllows d (if q = 8 then 1 else 0x10 + q) pl 0 (rn d base + 16 * ((h + i) % n)) 16).1 = true) →
      ∃ t, exec c s = .next t ∧ t = { s with dev := { d with regs := t.dev.regs, ops := t.dev.ops, opSeq := d.opSeq + k, fqPl := tabSet 0 d.fqPl base pl } } ∧
        rg t.dev (base + 2) = BitVec.ofNat 36 (v.toNat % 2 ^ 17) ∧ posOf (rg t.dev head) n = p ∧
        (∀ a, a ≠ base + 2 → a ≠ head → rg t.dev a = rg d a) ∧
        t.dev.ops = d.ops ++ (List.range k).map (fun i =>
          { id := d.opSeq + i, src := src ((h + i) % (2 * n)), ctx := coreCtx (if q = 8 then 1 else 0x10 + q), pl := pl,
            desc := memRdOct d false (rn d base + 16 * ((h + i) % n)) 64, phase := .staged, eligAt := d.pas.count + 1 })
    act (Reg.CLN_FWQ_BASE + 4 * q) (Reg.CLN_FWQ_HEAD + 4 * q) (fun p => .fwq q p) (.fwqDoorbell q pl v) ∧
    act (Reg.GRD_FWQ_BASE + 4 * q) (Reg.GRD_FWQ_HEAD + q) (fun p => .gq q p) (.grdFwqDoorbell q pl v))

/-- R40, R97, R102 to R106, R134: what the key slot store's operations give, held for release (an export waits for its IV while the Hopper is not ready
and ends with ENTROPY_FAULT where it is refused), and the release of a held result, at which a key is stored under the GCM cap of that edge (of a SAK, into an SA that is not VALID: into another, log
entry 94 denies it). -/
def Obligations.KeyOperationsAndRelease : Prop :=
  (∀ (s : State) (id : Nat) (o : Op), findOp s.dev id = some o → o.phase = .admitted → o.quant = true → o.dead = false →
    let d := s.dev
    let due := d.pas.count + 1 + max o.rqK (fld (rg d Reg.PAS_RQ_KMIN) 3 0)
    let ends := fun (P : Op → Prop) => ∃ t x, exec (.keyOperationComplete id none) s = .next t ∧ findOp t.dev id = some x ∧ x.phase = .held ∧ x.dueAt = due ∧
      t.dev.slots = d.slots ∧ t.dev.host = d.host ∧ t.dev.mem = d.mem ∧ P x
    let blob := o.input
    let h := hdrOf (o.input.take 32)
    (o.opcode = 0x54 ∨ o.opcode = 0x81 →
      let m := unwrapBlob d blob
      let hb := hdrOf blob
      (m = none → ends (fun x => x.status = St.keyInvalid ∧ x.sub = 9 ∧ x.key = none)) ∧
      (∀ k, m = some k → weakKey hb.alg k = false → hb.expiry = 0 ∨ d.pas.count < hb.expiry → hb.alg ≠ 0x20 →
        ends (fun x => x.status = St.done ∧ x.slot = o.slot ∧ x.key = some (madeKey hb hb.kek k)))) ∧
    (o.opcode = 0x84 → ends (fun x => x.status = St.done ∧ x.slot = o.slot ∧
      x.key = some (madeKey h 3 (kdf108 o.material (slice o.input 32 16) (slice o.input 48 16) (h.bits / 8))))) ∧
    (o.opcode = 0x85 →
      (kwUnwrap o.material (o.input.drop 32) = none → ends (fun x => x.status = St.keyInvalid ∧ x.sub = 9 ∧ x.key = none)) ∧
      (∀ k, kwUnwrap o.material (o.input.drop 32) = some k → ends (fun x => x.status = St.done ∧ x.slot = o.slot ∧ x.key = some (madeKey h 3 k)))) ∧
    (o.opcode = 0x91 →
      (unwrapBlob d o.input = none → ends (fun x => x.status = St.keyInvalid ∧ x.sub = 9)) ∧
      (∀ k, unwrapBlob d o.input = some k → ends (fun x => x.status = St.done ∧ x.material = k))) ∧
    (o.opcode = 0x55 ∨ o.opcode = 0x82 →
      (hopServes d = true → ends (fun x => x.status = St.done ∧
        x.outs = [(o.aux.getD 2 0, exportBlob d (o.key.getD {}) (o.aux.getD 1 0) ((d.hop.fifo.headD []).take 12))])) ∧
      (∀ c, hopRefusal d = some c → ends (fun x => x.status = St.entropy ∧ x.sub = c)) ∧
      (hopWaits d = true → exec (.keyOperationComplete id none) s = .next s))) ∧
  ∀ s : State,
    let d := s.dev
    (∀ o r pos, d.ops = [o] → o.src = .ring r pos → o.phase = .held → o.dueAt ≤ d.pas.count → o.opcode = 0x91 → o.status = St.done →
      saValid d (o.aux.getD 0 0) = true → ∃ t, exec .resultRelease s = .next t ∧ t.dev.ils = d.ils ∧
        t.dev.ops = [{ o with status := St.denied, sub := 1, phase := .ended, outs := [], dueAt := d.pas.count, ext := false }]) ∧
    (∀ o r pos, d.ops = [o] → o.src = .ring r pos → o.phase = .held → o.dueAt ≤ d.pas.count →
      (o.opcode = 0x91 → o.status = St.done → saValid d (o.aux.getD 0 0) = false) →
      ∃ t, exec .resultRelease s = .next t ∧ t.dev.ops = [{ o with phase := .ended, outs := [], dueAt := d.pas.count, ext := false }] ∧
        (∀ i k, o.status = St.done → o.opcode ≠ 0x91 → o.slot = some i → o.key = some k → slotGet t.dev i = storedKey d k ∧
          ∀ j, j ≠ i → slotGet t.dev j = slotGet d j) ∧
        (∀ a x, o.outs = [(a, x)] → busMaster d (ringFn d r) = true → hostRd t.dev a x.length = x) ∧
        (o.opcode = 0x91 → o.status = St.done →
          let sa := o.aux.getD 0 0
          saGet t.dev sa = { saGet d sa with keyed := true, key := o.material })) ∧
    ((∀ o ∈ d.ops, o.phase ≠ .held ∨ d.pas.count < o.dueAt) → exec .resultRelease s = .next s)

/-- R126 to R131, R133, R136, R137, R139, R140: the inline pipeline: arrival and its drops, the stages, sealing and opening, transmission, the uncontrolled
port, link changes and the end of an SA. -/
def Obligations.InlinePipeline : Prop :=
  ∀ (s : State) (link k : Nat) (fr : Octets), link < 4 →
    let d := s.dev
    let x := stream d k
    let off := 32 * link
    let drop := fun (c : Nat) => (.next { s with dev := cntAdd d (32 * link + c) 1 } : Out)
    let arrive := fun (ok : Bool) => if k % 2 = 0 then exec (.plainFrameArrival link fr ok) s else exec (.sealedFrameArrival link fr ok) s
    let stage := fun (n : Nat) => exec (.stageAdvance k n false) s
    (k / 2 = link → linkOpen d link = true → (part d 7 link).state = 0 →
      arrive false = drop (k % 2) ∧
      ((if k % 2 = 0 then 9184 else 9216) < fr.length + 4 → arrive true = drop 2) ∧
      (fr.length < 60 → arrive true = drop 3) ∧
      (60 ≤ fr.length → fr.length ≤ 9180 →
        (etherType fr = 0x8808 → arrive true = drop 15) ∧
        (etherType fr ≠ 0x8808 → 131072 < octets x.ingress + fr.length → arrive true = drop (4 + k % 2)) ∧
        (etherType fr ≠ 0x8808 → x.ingress = [] → octets x.classifier + fr.length ≤ 1048576 →
          let tx := rg d (Reg.ILS_LINK_TX_SA + off)
          let sa := fld tx 11 0
          let y := saGet d sa
          let w := saCtl d sa
          let thr := ofLoHi (rg d (Reg.ILS_LINK_PN_WARN_LO + off)) (rg d (Reg.ILS_LINK_PN_WARN_HI + off))
          (k % 2 = 0 → bit tx 12 = true → saValid d sa = true → saRx w = false → saLink w = link →
            (y.state = 1 → thr ≠ 0 → thr ≤ y.next + 1 → y.warned ≠ thr → y.next < pnMax w →
              ∃ t, arrive true = .next t ∧ stream t.dev k = { x with classifier := x.classifier ++ [protectFrame d link sa y.next fr] } ∧
                saGet t.dev sa = { y with next := y.next + 1, warned := thr } ∧ bit (rg t.dev Reg.ILS_EVENT) link = true) ∧
            (y.state = 1 → thr = 0 ∨ y.next + 1 < thr ∨ y.warned = thr → y.next < pnMax w →
              ∃ t, arrive true = .next t ∧ stream t.dev k = { x with classifier := x.classifier ++ [protectFrame d link sa y.next fr] } ∧
                saGet t.dev sa = { y with next := y.next + 1 } ∧ (∀ j, j ≠ sa → saGet t.dev j = saGet d j) ∧ (∀ j, j ≠ k → stream t.dev j = stream d j) ∧
                t.dev.ils.cnt = d.ils.cnt ∧ t.dev.regs = d.regs ∧ t.dev.mem = d.mem) ∧
            (y.state = 2 → ∃ t, arrive true = .next t ∧ stream t.dev k = x ∧ t.dev.ils.cnt = (cntAdd d (32 * link + 7) 1).ils.cnt ∧
              t.dev.ils.sas = d.ils.sas)) ∧
          (k % 2 = 0 → bit tx 12 = false ∨ saValid d sa = false →
            ∃ t, arrive true = .next t ∧ stream t.dev k = x ∧ t.dev.ils.cnt = (cntAdd d (32 * link + 6) 1).ils.cnt ∧ t.dev.ils.sas = d.ils.sas) ∧
          (k % 2 = 1 → etherType fr = 0x88E5 →
            let tag := parseTag fr
            let drops := fun (n : Nat) => ∃ t, arrive true = .next t ∧ stream t.dev k = x ∧ t.dev.ils.cnt = (cntAdd d n 1).ils.cnt ∧ t.dev.ils.sas = d.ils.sas
            (tag.ok = false → drops (32 * link + 9)) ∧
            (tag.ok = true → findRxSa d link (rxSci d link fr tag) tag.an = none → drops (32 * link + 10)) ∧
            (∀ a, tag.ok = true → findRxSa d link (rxSci d link fr tag) tag.an = some a →
              let pn := recoverPn (saXpn (saCtl d a)) (saGet d a).low tag.pn
              ((saGet d a).state = 2 → drops (2 ^ 16 + a * 32 + 3)) ∧
              ((saGet d a).state ≠ 2 → pn < (saGet d a).low → drops (2 ^ 16 + a * 32 + 1)) ∧
              ((saGet d a).state ≠ 2 → (saGet d a).low ≤ pn → ∃ t, arrive true = .next t ∧
                stream t.dev k = { x with classifier := x.classifier ++ [{ data := fr, sa := some a, pn := pn, iv := frameIv d a (rxSci d link fr tag) pn,
                                                                             last := decide (pn = pnMax (saCtl d a)) }] } ∧ t.dev.ils.sas = d.ils.sas)))))) ∧
    (k / 2 = link → linkOpen d link = true → ∀ f rest, x.classifier = f :: rest → inService d 1 x.lane = true → octets x.cipher + f.data.length ≤ 262144 →
      (laneUse d x.lane).now + inlineCharge k f + spentOf d (Reg.CLN_ALLOW + 16 * x.lane) ≤ 50000 →
      ∃ t, stage 1 = .next t ∧ stream t.dev k = { x with classifier := rest, cipher := x.cipher ++ [{ f with lane := x.lane }] } ∧
        (laneUse t.dev x.lane).now = (laneUse d x.lane).now + inlineCharge k f) ∧
    (k / 2 = link → linkOpen d link = true →
      (∀ n y, n ≤ 2 → x.dropped n = some y → exec (.stageAdvance k n true) s = .next { s with dev := integrityDrop link (setStream d k y) }) ∧
      ∀ y, x.dropped 3 = some y → exec (.frameTransmit k true) s = .next { s with dev := integrityDrop link (setStream d k y) }) ∧
    (k / 2 = link → linkOpen d link = true → ∀ f rest sa, x.cipher = f :: rest → f.sa = some sa →
      ((saGet d sa).keyed = false → stage 2 = .next { s with dev := cntAdd (setStream d k { x with cipher := rest }) (32 * link + (if k % 2 = 0 then 6 else 10)) 1 }) ∧
      ((saGet d sa).keyed = true → k % 2 = 1 → (saGet d sa).state = 2 →
        stage 2 = .next { s with dev := cntAdd (setStream d k { x with cipher := rest }) (2 ^ 16 + sa * 32 + 3) 1 }) ∧
      ((saGet d sa).keyed = true → k % 2 = 0 →
        let out := sealFrame (saGet d sa).key f
        octets x.egress + out.length ≤ 655360 →
        ∃ t, stage 2 = .next t ∧ stream t.dev k = { x with cipher := rest, egress := x.egress ++ [{ f with data := out }] } ∧ t.dev.ils.sas = d.ils.sas) ∧
      ((saGet d sa).keyed = true → k % 2 = 1 → (saGet d sa).state ≠ 2 → openFrame (saGet d sa).key f = none →
        ∃ t, stage 2 = .next t ∧ stream t.dev k = { x with cipher := rest } ∧ t.dev.ils.sas = d.ils.sas ∧
          t.dev.ils.cnt = (cntAdd d (2 ^ 16 + sa * 32 + 2) 1).ils.cnt) ∧
      ((saGet d sa).keyed = true → k % 2 = 1 → (saGet d sa).state ≠ 2 → ∀ p, openFrame (saGet d sa).key f = some p →
        octets x.egress + max 60 p.length ≤ 655360 → f.last = false →
        ∃ t, stage 2 = .next t ∧ stream t.dev k = { x with cipher := rest, egress := x.egress ++ [{ f with data := fitTo (max 60 p.length) p }] } ∧
          saGet t.dev sa = { saGet d sa with
            next := max (saGet d sa).next (f.pn + 1), low := max (saGet d sa).low (max (saGet d sa).next (f.pn + 1) - saWindow d sa) })) ∧
    (k / 2 = link → linkOpen d link = true → k % 2 = 1 → ∀ f rest, x.egress = f :: rest →
      ∃ t, exec (.frameTransmit k false) s = .next t ∧ stream t.dev k = { x with egress := rest } ∧ t.dev.ils.sent = d.ils.sent ++ [(2 * link, f.data)] ∧
        t.dev.regs = d.regs ∧ t.dev.ils.sas = d.ils.sas) ∧
    (∀ v : Word,
      let a := Reg.ILS_UQ_TX_TAIL + off
      let hd := Reg.ILS_UQ_TX_HEAD + off
      let lg := fld (rg d (Reg.ILS_UQ_TX_SIZE + off)) 4 0
      let n := 2 ^ lg
      let at_ := rn d (Reg.ILS_UQ_TX_BASE + off) + 512 * (posOf (rg d hd) n % n)
      let len := fld (memRd d at_) 13 0
      let y := stream d (2 * link)
      linkOpen d link = true → 2 ≤ lg → lg ≤ 6 → rg d a = rg d hd → fld v 15 0 < n → posDist n (posOf (rg d hd) n) (posOf v n) = 1 → 60 ≤ len → len ≤ 1514 →
        (engRead d 0xA8 0x10 0 at_ (1 + packLen false len)).1 = true → octets y.egress + len ≤ 655360 →
        ∃ t, exec (.uncontrolledTx link v) s = .next t ∧ rg t.dev a = BitVec.ofNat 36 (v.toNat % 2 ^ 17) ∧ posOf (rg t.dev hd) n = posOf v n ∧
          stream t.dev (2 * link) = { y with egress := y.egress ++ [{ data := memRdOct d false (at_ + 1) len }] }) ∧
    (∀ v : Word,
      let a := Reg.ILS_UQ_RX_HEAD + off
      let n := 2 ^ fld (rg d (Reg.ILS_UQ_RX_SIZE + off)) 4 0
      let h := posOf (rg d a) n
      fld v 15 0 < n → 0 < posDist n h (posOf v n) → posDist n h (posOf v n) ≤ posDist n h (posOf (rg d (Reg.ILS_UQ_RX_TAIL + off)) n) →
        exec (.uqRxHeadWrite link v) s = .next { s with dev := rgSet d a (BitVec.ofNat 36 (v.toNat % 2 ^ 17)) }) ∧
    (∀ b up, b < 4 → portUp d link b ≠ up →
      ∃ t, exec (.linkStateChange link b up) s = .next t ∧ portUp t.dev link b = up ∧ bit (rg t.dev Reg.ILS_EVENT) (8 + link) = true ∧
        t = { s with dev := { d with ils := t.dev.ils, regs := t.dev.regs } }) ∧
    (∀ sa, saLink (saCtl d sa) = link →
      let y := saGet d sa
      let thr := ofLoHi (rg d (Reg.ILS_LINK_PN_WARN_LO + off)) (rg d (Reg.ILS_LINK_PN_WARN_HI + off))
      let event := fun (t : State) (b : Nat) => bit (rg t.dev Reg.ILS_EVENT) (b + link) = true ∧ rg t.dev Reg.ILS_EVENT_SA = BitVec.ofNat 36 sa ∧
        t.dev.pas.inq = d.pas.inq ++ [{ core := 0x10, cls := 1, key := keyInline link, pass := d.pas.count, data := [b, sa] }]
      (saRx (saCtl d sa) = false → y.state = 1 → thr ≠ 0 → thr ≤ y.next → y.warned ≠ thr →
        ∃ t, exec (.pnWarn sa) s = .next t ∧ event t 0 ∧ t.dev.ils = (saSet d sa { y with warned := thr }).ils) ∧
      (saRx (saCtl d sa) = true ∨ y.state ≠ 1 ∨ thr = 0 ∨ y.next < thr ∨ y.warned = thr → exec (.pnWarn sa) s = .next s) ∧
      (y.state = 1 → pnMax (saCtl d sa) < y.next → ∃ t, exec (.saFreeze sa) s = .next t ∧ event t 4 ∧ saGet t.dev sa = { y with state := 2 }) ∧
      (y.state ≠ 1 ∨ y.next ≤ pnMax (saCtl d sa) → exec (.saFreeze sa) s = .next s) ∧
      (y.retiring = true → saFrames d sa = 0 → exec (.saRetire sa) s = .next { s with dev := saSet d sa {} }) ∧
      (y.retiring = false ∨ saFrames d sa ≠ 0 → exec (.saRetire sa) s = .next s))

/-- R147, R156 to R160, R165 to R169, R171: a Grinder unit's job ends with what its recipe computes on its operands and the blocks it drew, or for want of
entropy, or goes on while its draws are delayed, or waits after a failed self-check; a block drawn; the wipes of its banks; pre-emption and resumption
with the save bank; the end of an image load; a queue's cancel. -/
def Obligations.GrinderUnits : Prop :=
  ∀ (s : State) (u : Nat),
    let d := s.dev
    let x := unitGet d u
    (∀ (id r pos : Nat) (o : Op) (rec : Recipe), x.job = some id → x.selfFail = false → findOp d id = some o → o.phase = .admitted → o.dead = false →
      o.quant = true → o.src = .ring r pos → recipeOf o.recipe = some rec →
      let due := d.pas.count + 1 + max o.rqK (fld (rg d Reg.PAS_RQ_KMIN) 3 0)
      let dr := drawUntil (fun p => (jobRnd rec o p).isSome) 1024 o.rnd d
      let got := fun (t : State) (y : Op) => exec (.grinderJobEnd u none) s = .next t ∧ findOp t.dev id = some y ∧ y.phase = .held ∧ y.dueAt = due ∧
        (∀ v, v ≠ u → unitGet t.dev v = unitGet d v) ∧ t.dev.host = d.host
      (∀ rnd, jobRnd rec o dr.1 = some rnd →
        let out := runRecipe rec o rnd
        (rsaSelfCheck rec o out = true → ∃ t y, got t y ∧ unitGet t.dev u = ({ x with job := none, selfFail := false } : GrdUnit).wiped (wipesAfter o) false false ∧
          y.status = out.st ∧ y.sub = out.sub ∧ y.outs = (if out.st = St.done then jobOuts o out.res else []) ∧
          (∀ k, out.key = some k → rec.keygen = true → y.key = some (madeKey (keygenHdr o) 3 k))) ∧
        (rsaSelfCheck rec o out = false →
          exec (.grinderJobEnd u none) s = .next { s with dev := tmpEvent 36 (unitSet dr.2 u { x with selfFail := true }) })) ∧
      (jobRnd rec o dr.1 = none →
        (∀ c, hopRefusal dr.2 = some c → ∃ t y, got t y ∧ unitGet t.dev u = ({ x with job := none, selfFail := false } : GrdUnit).wiped true false false ∧
          y.status = St.entropy ∧ y.sub = c ∧ y.key = none ∧ y.outs = o.outs) ∧
        (hopRefusal dr.2 = none → exec (.grinderJobEnd u none) s = .next { s with dev := setOp dr.2 { o with rnd := dr.1 } })) ∧
      (u < 16 → jobRnd rec o o.rnd = none → hopServes d = true → ∃ t, exec (.hardwareDraw (0x90 + u)) s = .next t ∧
        findOp t.dev id = some { o with rnd := o.rnd ++ d.hop.fifo.headD [] } ∧ t.dev.grd = d.grd ∧ t.dev.mem = d.mem ∧ t.dev.host = d.host) ∧
      (∀ b, rec = .rsaPriv b → exec (.rsaSelfcheckFailure u) s = .next { s with dev := tmpEvent 36 (unitSet d u { x with selfFail := true }) })) ∧
    (x.job = none → exec (.grinderJobEnd u none) s = .next s ∧ exec (.rsaSelfcheckFailure u) s = .next s) ∧
    (∀ e j o, x.next = some e → x.job = some j → findOp d e = some o →
      let y : GrdUnit := { x with job := some e, next := none, susp := some j, save := x.bank, bank := bankLoad x.bank (jobBank d o) }
      exec (.yieldPointSave u) s = .next { s with dev := unitSet d u y }) ∧
    (x.next = none → exec (.yieldPointSave u) s = .next s) ∧
    (∀ j, x.job = none → x.susp = some j →
      let y : GrdUnit := { x with job := some j, susp := none, bank := x.save, save := [], wipe := .idle }
      exec (.suspendedJobResume u) s = .next { s with dev := unitSet d u y }) ∧
    (x.job ≠ none ∨ x.susp = none → exec (.suspendedJobResume u) s = .next s) ∧
    (∀ id o m, u < 16 → x.loading = some id → findOp d id = some o → o.src = .cmd 0x0E m → o.outs = [] → o.aux.length = 4 →
      (∀ v, v ≠ u → (unitGet d v).loading ≠ some id) →
      (x.loadOk = true → imageFail d o.input = none →
        ∃ t, exec (.imageLoadComplete u none) s = .next t ∧ unitGet t.dev u = { x with loading := none, image := some (imageOf o.input) } ∧
          cmdGet t.dev 0x0E m = ⟨false, true, 0⟩) ∧
      (∀ f, (if x.loadOk = true then imageFail d o.input else some (St.denied, 0)) = some f →
        ∃ t, exec (.imageLoadComplete u none) s = .next t ∧ unitGet t.dev u = ({ x with loading := none } : GrdUnit).wiped true true false ∧
          cmdGet t.dev 0x0E m = ⟨false, true, f.1 + f.2 * 256 + u * 2 ^ 16⟩ ∧
          rg t.dev (Reg.GRD_UNIT_REFUSED + 8 * u) = satInc (rg d (Reg.GRD_UNIT_REFUSED + 8 * u)) 1)) ∧
    (∀ q v, q < 9 → bit v 0 = true → exec (.grdFwqCancel q v) s = .next { s with dev := rgSet d (Reg.GRD_FWQ_CANCEL + 4 * q) 1 }) ∧
    (∀ q v, q < 9 → bit v 0 = false → exec (.grdFwqCancel q v) s = .next s)

/-- R176 to R191: the noise sources' tests and failover, the pool, the generators, hardware and software draws, raw-sample mode. -/
def Obligations.HopperEntropy : Prop :=
  ∀ (s : State) (m i c : Nat) (w : Octets),
    let d := s.dev
    let h := d.hop
    let out := fun (x : Hopper) => (.next { s with dev := { d with hop := x } } : Out)
    let src := fun (e : Dev) (j : Nat) => tabGet 0 e.hop.src j
    let int := rn d Reg.HOP_RESEED_INT
    (h.up = true → i < 4 → src d i = 1 → (∀ j, j < 4 → j ≠ i → src d j ≠ 1) → src d ((i + 1) % 4) = 2 →
      (rn d Reg.HOP_RCT_CUTOFF ≤ c →
        ∃ t, exec (.repetitionCountFailure (2 ^ i) c) s = .next t ∧ src t.dev i = 3 ∧ tabGet 0 t.dev.hop.why i = 1 ∧ src t.dev ((i + 1) % 4) = 1 ∧
          tabGet false t.dev.hop.skip ((i + 1) % 4) = true ∧ t.dev.hop.state = h.state ∧ t.dev.hop.pool = h.pool ∧
          rg t.dev (Reg.HOP_FAIL_COUNT + i) = satInc (rg d (Reg.HOP_FAIL_COUNT + i)) 1) ∧
      (rn d Reg.HOP_APT_CUTOFF ≤ aptCount (fitTo 128 w) →
        ∃ t, exec (.windowComplete i w) s = .next t ∧ src t.dev i = 3 ∧ tabGet 0 t.dev.hop.why i = 2 ∧ src t.dev ((i + 1) % 4) = 1 ∧
          t.dev.hop.pool = h.pool)) ∧
    (h.up = false ∨ c < rn d Reg.HOP_RCT_CUTOFF → exec (.repetitionCountFailure i c) s = .next s) ∧
    (h.up = true → rn d Reg.HOP_RCT_CUTOFF ≤ c → i < 4 → src d i = 1 → (∀ j, j < 4 → j ≠ i → src d j = 3) → h.state = 1 →
      ∃ t, exec (.repetitionCountFailure (2 ^ i) c) s = .next t ∧ t.dev.hop.state = 3 ∧ t.dev.hop.cause = 1 ∧ t.dev.hop.pool = [] ∧ t.dev.hop.fifo = [] ∧
        t.dev.hop.hwInst = false ∧ t.dev.hop.swInst = false) ∧
    (h.up = true → i < 4 → src d i ≠ 0 → aptCount (fitTo 128 w) < rn d Reg.HOP_APT_CUTOFF →
      ∃ t, exec (.windowComplete i w) s = .next t ∧ t = { s with dev := { d with hop := t.dev.hop } } ∧
        t.dev.hop.pool = (if src d i = 1 ∧ tabGet false h.skip i = false ∧ h.state < 2 then
          (h.pool ++ [cmac ((List.range 32).map Config.condKey) (fitTo 128 w)]).take 16 else h.pool) ∧
        t.dev.hop.src = h.src ∧ t.dev.hop.state = h.state) ∧
    (h.up = true → i < 4 → src d i = 0 → (∃ j, j < 4 ∧ src d j = 1) → h.state ≠ 3 →
      let o := fitTo 512 w
      let pass := longestRun (sampleBits o) false 0 0 < rn d Reg.HOP_RCT_CUTOFF ∧ ∀ k, k < 4 → aptCount (slice o (128 * k) 128) < rn d Reg.HOP_APT_CUTOFF
      (pass → ∃ t, exec (.startupTestComplete [(i, w)]) s = .next t ∧ src t.dev i = 2 ∧ t.dev.hop.state = h.state ∧ t.dev.hop.pool = h.pool) ∧
      (¬ pass → ∃ t, exec (.startupTestComplete [(i, w)]) s = .next t ∧ src t.dev i = 3 ∧ tabGet 0 t.dev.hop.why i = 3 ∧ t.dev.hop.state = h.state ∧
        rg t.dev (Reg.HOP_FAIL_COUNT + i) = satInc (rg d (Reg.HOP_FAIL_COUNT + i)) 1)) ∧
    (i < 4 → src d i = 3 → (∃ j, j < 4 ∧ src d j = 1) → ∃ t, exec (.hopRetest 1 (2 ^ i)) s = .next t ∧ src t.dev i = 0 ∧
      ∀ j, j ≠ i → src t.dev j = src d j) ∧
    (m ≠ 1 → exec (.hopRetest m i) s = .next s) ∧
    (h.up = true → h.state = 0 → 3 ≤ h.pool.length → d.keep.hold = false →
      let x := fun (inst : Nat) => drbgInstantiate (h.pool.take 3).flatten (drbgPers inst d.pas.count)
      (h.hwInst = false → h.swInst = false →
        exec (.generatorInstantiate 0 true) s = out { h with pool := h.pool.drop 3, cycles := h.cycles + 3, hwInst := true, hwSeed := d.pas.count,
                                                             hwStop := false, hwKey := (x 0).1, hwV := (x 0).2 }) ∧
      (h.hwInst = true → h.hwStop = false → h.swInst = false → exec (.generatorInstantiate 1 true) s =
        out (fifoRefill 4 { h with pool := h.pool.drop 3, cycles := h.cycles + 3, swInst := true, swSeed := d.pas.count, swStop := false,
                                   swKey := (x 1).1, swV := (x 1).2, state := 1 })) ∧
      (h.hwInst = false → ∃ t, exec (.generatorInstantiate 0 false) s = .next t ∧ t.dev.hop.state = 3 ∧ t.dev.hop.cause = 3)) ∧
    (h.state = 1 →
      (d.keep.hold = false → 3 ≤ h.pool.length → h.hwSeed + int ≤ d.pas.count →
        let k := drbgUpdate (h.pool.take 3).flatten h.hwKey h.hwV
        exec (.generatorReseed 0) s = out { h with pool := h.pool.drop 3, cycles := h.cycles + 3, hwSeed := d.pas.count, hwStop := false, hwKey := k.1, hwV := k.2 }) ∧
      (d.keep.hold = false → 3 ≤ h.pool.length → d.pas.count < h.hwSeed + int → h.swSeed + int ≤ d.pas.count →
        let k := drbgUpdate (h.pool.take 3).flatten h.swKey h.swV
        exec (.generatorReseed 1) s = out { h with pool := h.pool.drop 3, cycles := h.cycles + 3, swSeed := d.pas.count, swStop := false, swKey := k.1, swV := k.2 }) ∧
      (d.pas.count < h.hwSeed + int → exec (.generatorReseed 0) s = .next s) ∧
      (h.hwSeed + 2 * int ≤ d.pas.count → exec (.reseedOverdue 0) s = out { h with hwStop := true }) ∧
      (h.swSeed + 2 * int ≤ d.pas.count → exec (.reseedOverdue 1) s = out { h with swStop := true }) ∧
      (d.pas.count < h.hwSeed + 2 * int → exec (.reseedOverdue 0) s = .next s)) ∧
    (i = 1 ∨ 0x80 ≤ i ∧ i ≤ 0x87 →
      (hopServes d = true → exec (.hardwareDraw i) s = out (fifoRefill 4 { h with fifo := h.fifo.drop 1 })) ∧
      (hopServes d = false → exec (.hardwareDraw i) s = .next s)) ∧
    (i ≠ 1 → i < 0x80 ∨ 0x87 < i ∧ i < 0x90 ∨ 0x9F < i → exec (.hardwareDraw i) s = .next s) ∧
    (i < 16 → hopRefusal d = some c → ∀ id o rec, (unitGet d i).job = some id → findOp d id = some o → o.phase = .admitted → o.dead = false →
      o.quant = true → recipeOf o.recipe = some rec → jobRnd rec o o.rnd = none →
      ∃ t y, exec (.hardwareDraw (0x90 + i)) s = .next t ∧ findOp t.dev id = some y ∧ y.status = St.entropy ∧ y.sub = c ∧ (unitGet t.dev i).job = none) ∧
    (isH m = true ∨ isF m = true → replayed d m = false →
      let noted := fun (t : State) (v : Word) => tabGet 0 t.dev.rdata m = v ∧ t.dev.pas.recorded = d.pas.recorded ++ [(m, 1, v.toNat)] ∧
        t.dev.rpl = (rplItem m 2 [0xF00000000 + Reg.HOP_SW_DRAW, v.toNat] d).rpl
      (∀ v r, tabGet [] h.buf m = v :: r → h.state = 1 → h.swStop = false → d.keep.hold = false →
        ∃ t, exec (.hopSwDrawRead m) s = .next t ∧ noted t (BitVec.ofNat 36 (v + 2 ^ 35)) ∧ tabGet [] t.dev.hop.buf m = r ∧ t.dev.priv = d.priv) ∧
      (tabGet [] h.buf m = [] ∨ h.state ≠ 1 ∨ h.swStop = true ∨ d.keep.hold = true →
        ∃ t, exec (.hopSwDrawRead m) s = .next t ∧ noted t 0 ∧ pv t.dev m Reg.HOP_SW_SHORT = satInc (pv d m Reg.HOP_SW_SHORT) 1 ∧ t.dev.hop = h)) ∧
    (isH m = false → isF m = false → exec (.hopSwDrawRead m) s = .next { s with dev := rdSet d m 0 }) ∧
    (rawMay d m = true → h.state ≠ 2 → i < 4 →
      ∃ t, exec (.rawModeEnable m i) s = .next t ∧ t.dev.hop = { h with rawReq := some (h.rawReq.getD d.pas.count) } ∧
        rg t.dev Reg.HOP_RAW_CTL = BitVec.ofNat 36 (1 + 2 * i)) ∧
    (∀ q, h.rawReq = some q → q < d.pas.count → h.state ≠ 3 → exec .rawModeEntry s =
      out { h with state := 2, cause := 0, rawReq := none, pool := [], hwInst := false, swInst := false, hwStop := false, swStop := false, hwKey := [],
                   hwV := [], swKey := [], swV := [], fifo := [], buf := [], next := [], rawFifo := 0, rawIn := 0, rawGap := false }) ∧
    (h.state = 3 ∨ h.rawReq = none ∨ h.rawReq = some d.pas.count → exec .rawModeEntry s = .next s) ∧
    (h.state = 2 →
      (h.rawFifo + c < 32 →
        ∃ t, exec (.hopRawDataRead m c) s = .next t ∧ tabGet 0 t.dev.rdata m = 0 ∧ t.dev.hop.rawFifo = h.rawFifo + c) ∧
      (32 ≤ h.rawFifo + c →
        ∃ t v, exec (.hopRawDataRead m c) s = .next t ∧ v < 2 ^ 32 ∧
          tabGet 0 t.dev.rdata m = BitVec.ofNat 36 (v + 2 ^ 35 + if h.rawGap = true ∨ 1024 < h.rawFifo + c then 2 ^ 34 else 0) ∧
          t.dev.hop = { h with rawFifo := min 1024 (h.rawFifo + c) - 32, rawIn := h.rawIn + c, rawGap := false }) ∧
      (rawMay d m = true → (∃ j, j < 4 ∧ src d j < 3) →
        ∃ t, exec (.rawModeExit m) s = .next t ∧ t.dev.hop.state = 0 ∧ t.dev.hop.hwInst = false ∧ t.dev.hop.swInst = false ∧ t.dev.hop.rawFifo = 0 ∧
          (∀ j, j < 4 → tabGet false t.dev.hop.skip j = true) ∧ bit (rg t.dev Reg.HOP_RAW_CTL) 0 = false)) ∧
    (h.state ≠ 2 → ∃ t, exec (.hopRawDataRead m c) s = .next t ∧ tabGet 0 t.dev.rdata m = 0 ∧ t.dev.hop = h)

/-- R195 to R206, R212 to R217: a lookup's verdict, the preparation of a frozen batch, the switch of the register at its edge and the commit that misses its
target, envelopes sealed and opened, and the activation of a new basin key. -/
def Obligations.CredentialRegisterAndBasin : Prop :=
  (∀ (s : State) (id : Nat) (o : Op), findOp s.dev id = some o → o.phase = .admitted → o.dead = false → o.quant = true →
    let d := s.dev
    let due := d.pas.count + 1 + max o.rqK (fld (rg d Reg.PAS_RQ_KMIN) 3 0)
    let held := fun (t : State) (x : Op) => findOp t.dev id = some x ∧ x.phase = .held ∧ x.dueAt = due ∧ t.dev.host = d.host
    (o.opcode = 0x40 → ∃ t, exec (.lookupComplete id none) s = .next t ∧ held t { o with phase := .held, dueAt := due } ∧ t.dev.crg = d.crg ∧
      rg t.dev Reg.CRG_LOOKUPS = satInc (rg d Reg.CRG_LOOKUPS) 1) ∧
    (o.opcode = 0x60 →
      (∀ f, firstFail (sealFails d o) = some f → ∃ t x, exec (.envelopeOperationComplete id none) s = .next t ∧ held t x ∧ x.status = f.1 ∧ x.sub = f.2 ∧
        x.outs = [] ∧ t.dev.keep = d.keep) ∧
      (firstFail (sealFails d o) = none →
        let seq := min (2 ^ 48 - 1) (tabGet 0 d.keep.monc 1 + 1)
        ∃ t x e, exec (.envelopeOperationComplete id none) s = .next t ∧ held t x ∧ x.status = St.done ∧ x.outs = [(o.envDst, e)] ∧ x.resLen = e.length ∧
          tabGet 0 t.dev.keep.monc 1 = seq ∧ t.dev.life = { d.life with sealed := d.life.sealed || !(decide (o.envKind = 2) && d.bsn.next.isNone) } ∧ e.take 4 = [0x58, 0x4E, 0x43, 0x31] ∧ leAt e 4 2 = 1 ∧
          leAt e 6 1 = o.envKind % 256 ∧ leAt e 8 2 = selfUnit d % 2 ^ 16 ∧ leAt e 10 2 = o.peer % 2 ^ 16 ∧ leAt e 16 6 = seq ∧
          leAt e 36 6 = d.crg.epoch % 2 ^ 48)) ∧
    (o.opcode = 0x61 →
      (∀ f, openEnvFail d o o.input = some f → ∃ t x, exec (.envelopeOperationComplete id none) s = .next t ∧ held t x ∧ x.status = f.1 ∧ x.sub = f.2 ∧
        x.outs = [] ∧ t.dev.bsn = d.bsn ∧ t.dev.crg = d.crg ∧ rg t.dev Reg.BSN_REJECTS = satInc (rg d Reg.BSN_REJECTS) 1) ∧
      (∀ body, openEnvFail d o o.input = none → envOpen d o.input = some body →
        let from_ := envSender o.input
        ∃ t x, exec (.envelopeOperationComplete id none) s = .next t ∧ held t x ∧ x.status = St.done ∧
          tabGet 0 t.dev.bsn.seqs from_ = envSeq o.input + 1 ∧
          (envKindOf o.input = 1 → x.outs = [] ∧ t.dev.crg.fresh = d.crg.fresh ++ (chunks 64 body).map (deltaOf (some from_))) ∧
          (envKindOf o.input = 2 → x.outs = [] ∧ t.dev.bsn.next = some (slice body 16 32, leAt body 4 6)) ∧
          (3 ≤ envKindOf o.input → x.outs = [(o.envDst, body)] ∧ x.resLen = body.length ∧ t.dev.crg = d.crg)))) ∧
  (∀ (d : Dev) (o : Op), 1 ≤ budgetLeft d (lookupBudget o) → ∃ e x, lookupAdmit d o = some (e, x) ∧ x.status = St.done ∧ e.crg = d.crg ∧
    (let t := siteTime d
     match crgLookup (d.crg.key.getD []) d.crg.table (lookupDigest o) with
     | none => x.sub = 1 ∧ x.result = 0
     | some y => x.sub = if y.status = 3 then 2 else if y.status = 2 then 3 else if t < y.from_ then 4 else if (y.until_ : Int) ≤ t then 5
        else if y.limited = true ∧ y.uses = 0 then 6 else 0)) ∧
  ∀ s : State,
    let d := s.dev
    let origin := fun (x : CrgDelta) => match x.sender with | some u => u | none => if bit (rg d Reg.BSN_SELF) 14 then fld (rg d Reg.BSN_SELF) 13 0 else 0
    (∀ c key x, d.crg.commit = some c → d.crg.key = some key → c.ready = none → c.failed = none → c.prepPass ≠ some d.pas.count →
      c.batch.drop c.placed = [x] → 1 ≤ rn d Reg.CRG_PREP_BUDGET →
      let c' : CrgCommit := { c with prepPass := some d.pas.count, placed := c.placed + 1, ready := some (d.pas.count + 1) }
      let gives := fun (y : CrgCommit) => exec .deltaPreparation s = .next { s with dev := { d with crg := { d.crg with commit := some y } } }
      let at_ := crgFind key c.table x.digest
      let skip := { c' with skips := c.skips + 1, firstSkip := c.firstSkip.or (some c.placed) }
      (x.op = 1 →
        let e : CrgEntry :=
        { status := x.status, cls := x.cls, limited := x.flags.testBit 0, capped := x.flags.testBit 1, origin := origin x,
          digest := x.digest, from_ := x.from_, until_ := x.until_, uses := x.uses, amount := x.amount, cap := x.cap, changed := d.crg.epoch + 1 }
        (∀ t, crgPlace key e c.table = some t → gives { c' with table := t }) ∧
        (crgPlace key e c.table = none → gives { c with prepPass := some d.pas.count, failed := some c.placed })) ∧
      (x.op = 2 → at_ = none → gives skip) ∧
      (∀ p e, x.op = 2 → at_ = some p → crgLookup key c.table x.digest = some e → gives { c' with table := crgRemove c.table p }) ∧
      (∀ p e, x.op = 3 → at_ = some p → crgLookup key c.table x.digest = some e →
        (x.uses ≤ e.uses → amountOk (e.amount + x.amount) = true →
          let e' : CrgEntry := { e with uses := e.uses - x.uses, amount := e.amount + x.amount, origin := origin x, changed := d.crg.epoch + 1 }
          gives { c' with table := crgOverwrite c.table p e' }) ∧
        (e.uses < x.uses ∨ amountOk (e.amount + x.amount) = false → gives skip))) ∧
    (d.crg.commit = none → exec .deltaPreparation s = .next s ∧ exec .epochSwitch s = .next s ∧ exec .commitTimeout s = .next s) ∧
    (∀ c r, d.crg.commit = some c → c.ready = some r → r ≤ d.pas.count → c.target = 0 ∨ r ≤ c.target → c.target ≤ d.pas.count →
      ∃ t, exec .epochSwitch s = .next t ∧ t.dev.crg = { d.crg with table := c.table, epoch := (d.crg.epoch + 1) % 2 ^ 48, commit := none } ∧
        (findOp d c.op = none → rg t.dev Reg.CRG_COMMIT_SKIPS = BitVec.ofNat 36 c.skips) ∧
        (∀ o n pos, findOp d c.op = some o → o.src = .ring n pos → o.dead = false →
          ∃ x, findOp t.dev c.op = some x ∧ x.phase = .ended ∧ x.status = St.done)) ∧
    (∀ c, d.crg.commit = some c → c.target ≠ 0 → c.target ≤ d.pas.count → c.ready = none →
      ∃ t, exec .commitTimeout s = .next t ∧ t.dev.crg = { d.crg with commit := none } ∧
        (findOp d c.op = none → rg t.dev Reg.CRG_COMMIT_SKIPS = BitVec.ofNat 36 c.skips) ∧
        (∀ o n pos, findOp d c.op = some o → o.src = .ring n pos → o.dead = false →
          ∃ x, findOp t.dev c.op = some x ∧ x.phase = .ended ∧ x.status = St.timeout ∧ x.sub = 1)) ∧
    (∀ k at_, d.bsn.next = some (k, at_) →
      ((at_ : Int) ≤ siteTime d → exec .kekActivation s = .next { s with dev := ladderWrite { d with
        life := { d.life with kekBasinOld := d.life.kekBasin, kekBasin := k, kekEpoch := (d.life.kekEpoch + 1) % 2 ^ 32, sealed := false },
        bsn := { d.bsn with next := none, curAt := some at_, blocked := false } } }) ∧
      (siteTime d < at_ → exec .kekActivation s = .next s)) ∧
    (d.bsn.next = none → exec .kekActivation s = .next s)

/-- R224, R225, R228 to R232, R234, R237, R238, R240, R243, R244: sweeps, pings and baselines, requests, the end of a grant by its ceiling, by mismatch and
by the supply, tuning and settling, and the event queues of the field cores. -/
def Obligations.FieldPortsAndGrants : Prop :=
  ∀ (s : State) (p e m : Nat), p < 256 → e < 16 →
    let d := s.dev
    let now := d.pas.count
    let put := fun (e : Dev) => (.next { s with dev := e } : Out)
    let x := portGet d p
    let n := x.chain
    let c := chainGet d n
    let g := engGet d e
    let owner := fld (rg d (Reg.FLD_FLIGHT_CTL + p / 16)) 1 0
    let off := bit (rg d (Reg.APT_CTL + 8 * p)) 0 = false ∨ 2 ≤ (part d 4 (p / 16)).state ∨ d.keep.hold = true
    let raised := fun (t : State) (ws : List Nat) => (tabGet [] d.fld.evs owner).length < 4096 →
      tabGet [] t.dev.fld.evs owner = tabGet [] d.fld.evs owner ++ [⟨p, now, ws⟩]
    let ended := fun (t : State) (reason st sub : Nat) =>
      (portGet t.dev p).chain = 0 ∧ (portGet t.dev p).linger = now ∧ (portGet t.dev p).state = (if off then 4 else 3) ∧ (chainGet t.dev n).port = none ∧
      (chainGet t.dev n).carrier = false ∧ (chainGet t.dev n).endp = c.tailNext.getD c.tail ∧
      (∃ l, (chainGet t.dev n).done = c.done ++ l ∧ l.length = (entriesTo 16 c.endp (c.tailNext.getD c.tail)).length ∧ ∀ r ∈ l, r.st = st ∧ r.sub = sub) ∧
      raised t [4 + 16 * p + 2 ^ 12 * n + 2 ^ 17 * b2n c.tie + 2 ^ 18 * b2n c.emu + 2 ^ 19 * reason, 0, now % 2 ^ 36, 0] ∧
      (∀ q, q ≠ p → portGet t.dev q = portGet d q) ∧ ∀ k, k ≠ n → chainGet t.dev k = chainGet d k
    (engRuns d e = true → now % rn d (Reg.PNG_PERIOD + 4 * e) = rn d (Reg.PNG_PHASE + 4 * e) → g.begun ≠ some now →
      exec (.sweepStart e) s = put (engSet d e { g with sweep := List.range 16, begun := some now, sweeps := min (2 ^ 30 - 1) (g.sweeps + 1) })) ∧
    (now % rn d (Reg.PNG_PERIOD + 4 * e) ≠ rn d (Reg.PNG_PHASE + 4 * e) → exec (.sweepStart e) s = .next s) ∧
    (∀ (j : Nat) (r : List Nat) (a phi : Nat) (b : Nat × Nat), j < 16 → p = 16 * e + j → engRuns d e = true → g.used < 2 → g.sweep = j :: r → pingable d p = true → a < 4096 → phi < 4096 → x.base = some b →
      let dA := (a : Int) - b.1
      let dP := ((phi : Int) - b.2 + 2048) % 4096 - 2048
      let thr := rg d (Reg.APT_CTL + 8 * p + 3)
      let found := fld thr 11 0 ≤ dA.natAbs ∨ fld thr 23 12 ≤ dP.natAbs
      let clear := dA.natAbs < fld thr 11 0 / 2 ∧ dP.natAbs < fld thr 23 12 / 2
      let words := fun (type : Nat) => [type + 16 * p, (dA % 8192).toNat + 8192 * (dP % 4096).toNat, now % 2 ^ 36, 0]
      let done := fun (P : State → Prop) => ∃ t, exec (.ping e a phi) s = .next t ∧ engGet t.dev e = { g with sweep := r, used := g.used + 1, last := j } ∧
        (∀ q, q ≠ p → portGet t.dev q = portGet d q) ∧ P t
      (x.state = 0 → found → flightReady d e = true → done (fun t => raised t (words 1) ∧
        portGet t.dev p = if bit (rg d (Reg.APT_CTL + 8 * p)) 1 then { x with state := 1, reqEmu := false, reqAt := now } else x)) ∧
      (x.state = 0 → found → flightReady d e = false → done (fun t => portGet t.dev p = x ∧ t.dev.fld.evs = d.fld.evs)) ∧
      (x.state = 0 → ¬ found → clear → done (fun t => t.dev.fld.evs = d.fld.evs ∧
        portGet t.dev p = { x with base := some (moveBase (rn d (Reg.PNG_SHIFT + 4 * e)) b (dA, dP)) })) ∧
      (x.state = 0 → ¬ found → ¬ clear → done (fun t => portGet t.dev p = x ∧ t.dev.fld.evs = d.fld.evs)) ∧
      (x.state = 1 → clear → done (fun t => raised t (words 2) ∧ portGet t.dev p = { x with state := 0 })) ∧
      (x.state = 1 → ¬ clear → done (fun t => portGet t.dev p = x ∧ t.dev.fld.evs = d.fld.evs)) ∧
      (x.state = 3 → clear → done (fun t => portGet t.dev p = { x with clear := true }))) ∧
    (∀ a phi, p / 16 = e → engRuns d e = true → g.used < 2 → g.sweep = [] → needsBase d p = true → a < 4096 → phi < 4096 →
      ∃ t, exec (.baselinePing e p a phi) s = .next t ∧ engGet t.dev e = { g with used := g.used + 1, last := p % 16 } ∧
        (x.bases.length < 7 → portGet t.dev p = { x with bases := x.bases ++ [(a, phi)] }) ∧
        (x.bases.length = 7 → portGet t.dev p = { x with bases := [], base := some (meanBase (x.bases ++ [(a, phi)])), state := 0 })) ∧
    (let life := rn d (Reg.APT_CTL + 8 * p + 4) % 2 ^ 32
     (x.state = 3 → x.linger + life ≤ now → exec (.lingerExpiry p) s = put (portSet d p { x with state := 0 })) ∧
     (x.state ≠ 3 ∨ now < x.linger + life → exec (.lingerExpiry p) s = .next s)) ∧
    (portsUp d = true → (chainGet d (2 * e)).cal = true → (chainGet d (2 * e + 1)).cal = true →
      (∀ j, j < 16 → bit (rg d (Reg.APT_CTL + 8 * (16 * e + j))) 0 = true → (portGet d (16 * e + j)).base.isSome = true) →
      exec (.flightReady e) s = put { d with fld := { d.fld with ready := tabSet false d.fld.ready e true } }) ∧
    (isF m = true → ∀ mode, mode < 2 →
      let w := fun (act : Nat) => p + 256 * mode + 512 * act
      let taken := fun (act : Nat) => put { d with fld := { d.fld with reqs := d.fld.reqs ++ [(m, w act)] } }
      exec (.request m p mode) s = taken 1 ∧ exec (.release m p mode) s = taken 2 ∧ exec (.withdraw m p mode) s = taken 3 ∧
      (m = 0x20 + owner → x.state ≠ 4 →
        (x.mismatch = false → x.state ≠ 2 → applyReq d (m, w 1) = portSet d p { x with state := 1, reqEmu := decide (mode = 1), reqAt := now }) ∧
        (x.mismatch = true ∨ x.state = 2 → applyReq d (m, w 1) = reqDrop d m) ∧
        (x.state = 2 → ended { s with dev := applyReq d (m, w 2) } 0 St.aborted 0x10) ∧ (x.state ≠ 2 → applyReq d (m, w 2) = reqDrop d m) ∧
        (x.state = 1 → applyReq d (m, w 3) = portSet d p { x with state := 3, linger := now, clear := false }) ∧
        (x.state ≠ 1 → applyReq d (m, w 3) = reqDrop d m)) ∧
      (m ≠ 0x20 + owner ∨ x.state = 4 → ∀ act, act < 4 → applyReq d (m, w act) = reqDrop d m)) ∧
    (x.state = 2 → c.ceilAt ≤ now → ∃ t, exec (.grantCeiling p) s = .next t ∧ ended t 1 St.timeout 0x01) ∧
    (x.state ≠ 2 ∨ now < c.ceilAt → exec (.grantCeiling p) s = .next s) ∧
    (c.port = some p → x.state = 2 → c.emu = false → c.tuned = false → ∀ ser shu vswr fwd refl, ser < 64 → shu < 64 →
      (vswr ≤ 30 → ∃ t, exec (.tuningComplete n ser shu vswr fwd refl) s = .next t ∧ portGet t.dev p = { x with ser := ser, shu := shu, vswr := vswr } ∧
        chainGet t.dev n = { c with tuned := true } ∧ rg t.dev (Reg.CHN_FWD + 16 * n) = BitVec.ofNat 36 fwd ∧
        rg t.dev (Reg.CHN_REFL + 16 * n) = BitVec.ofNat 36 refl) ∧
      (30 < vswr → ∃ t, exec (.tuningComplete n ser shu vswr fwd refl) s = .next t ∧ ended t 2 St.aborted 0x11 ∧ (portGet t.dev p).mismatch = true)) ∧
    (c.port = some p → c.settleAt ≤ now → exec (.settleEnd n) s = put (chainSet d n { c with settled := true })) ∧
    (c.port = none ∨ now < c.settleAt → exec (.settleEnd n) s = .next s) ∧
    (c.port = some p → x.state = 2 → c.emu = false → ∀ v w,
      (60 < v → 60 < w → ∃ t, exec (.vswrMismatch n v w) s = .next t ∧ ended t 2 St.aborted 0x11 ∧ (portGet t.dev p).mismatch = true) ∧
      (v ≤ 60 ∨ w ≤ 60 → exec (.vswrMismatch n v w) s = put (portSet d p { x with vswr := min 255 w }))) ∧
    (∀ v, bit v 0 = true → isF m = true → exec (.aptClear m p v) s = put (portSet d p { x with mismatch := false })) ∧
    (∀ high, ∃ t, exec (.fieldSupplyFault high) s = .next t ∧ t.dev.fld.supplyOk = false ∧ (∀ q, (portGet t.dev q).state ≠ 2) ∧
      tmpAsserted t.dev (if high then 9 else 10) = true) ∧
    (∃ t, exec .fieldSupplyRecovery s = .next t ∧ t.dev.fld = { d.fld with supplyOk := true } ∧ tmpAsserted t.dev 9 = false ∧ tmpAsserted t.dev 10 = false) ∧
    (∀ k, k < 4 →
      let lg := fld (rg d (Reg.FLD_EVQ_SIZE + 4 * k)) 4 0
      let size := 2 ^ lg
      let head := posOf (rg d (Reg.FLD_EVQ_HEAD + 4 * k)) size
      let tail := posOf (rg d (Reg.FLD_EVQ_TAIL + 4 * k)) size
      4 ≤ lg → lg ≤ 10 →
      (∀ ev r, tabGet [] d.fld.evs k = ev :: r → ev.pass < now → posDist size head tail < size → ev.words.length = 4 →
        refusedIn d 0xC1 (0x20 + k) 1 1 (rn d (Reg.FLD_EVQ_BASE + 4 * k) + 4 * (tail % size)) 4 = none →
        ∃ t, exec (.eventQueueWrite k) s = .next t ∧ tabGet [] t.dev.fld.evs k = r ∧ posOf (rg t.dev (Reg.FLD_EVQ_TAIL + 4 * k)) size = (tail + 1) % (2 * size) ∧
          (∀ i, i < 4 → fmRd t.dev (rn d (Reg.FLD_EVQ_BASE + 4 * k) + 4 * (tail % size) + i) = BitVec.ofNat 36 (ev.words.getD i 0)) ∧
          (∃ i, t.dev.pas.inq = d.pas.inq ++ [i] ∧ i.core = 0x20 + k ∧ i.cls = 5 ∧ i.data = ev.words ∧ i.pass = now - 1)) ∧
      (∀ ev r a why, tabGet [] d.fld.evs k = ev :: r → ev.pass < now → posDist size head tail < size →
        refusedIn d 0xC1 (0x20 + k) 1 1 (rn d (Reg.FLD_EVQ_BASE + 4 * k) + 4 * (tail % size)) 4 = some (a, why) →
        exec (.eventQueueWrite k) s = put (mpuRecord 0xC1 (0x20 + k) 3 a why d)) ∧
      (∀ ev r, tabGet [] d.fld.evs k = ev :: r → now ≤ ev.pass ∨ size ≤ posDist size head tail → exec (.eventQueueWrite k) s = .next s) ∧
      (∀ v, fld v 15 0 < size → 0 < posDist size head (posOf v size) → posDist size head (posOf v size) ≤ posDist size head tail →
        posDist size head (posOf v size) ≤ size →
        exec (.fldEvqHeadWrite k v) s = put (rgSet d (Reg.FLD_EVQ_HEAD + 4 * k) (BitVec.ofNat 36 (v.toNat % 2 ^ 17)))))

/-- R248 to R261: the entries of a chain: the doorbell, activation with its frames and answers, exchange with its window and waiting-time extensions,
card emulation, the loss of the field, and the completion of an entry. -/
def Obligations.ChainEntries : Prop :=
  ∀ (s : State) (n p m : Nat), n < 32 → (chainGet s.dev n).port = some p →
    let d := s.dev
    let c := chainGet d n
    let now := d.pas.count
    let put := fun (x : Chain) => (.next { s with dev := chainSet d n x } : Out)
    let w := rg d (Reg.CHN_ENTRY_HDR + 64 * n + 8 * (c.endp % 8))
    let kind := fld w 3 0
    let rates := if bit w 7 then (fld w 9 8, fld w 11 10) else (c.txRate, c.rxRate)
    let rates0 := if bit w 7 then (fld w 9 8, fld w 11 10) else (0, 0)
    let frames := fun (t : State) (k : Nat) => rg t.dev (Reg.CHN_AIR_FRAMES + 16 * n) = satInc (rg d (Reg.CHN_AIR_FRAMES + 16 * n)) k
    let asked := fun (t : State) => rg t.dev (Reg.CHN_WTX_COUNT + 16 * n) = satInc (rg d (Reg.CHN_WTX_COUNT + 16 * n)) 1
    let ends := fun (i : Instr) (air : Nat) (rx : Octets) (P : Chain → State → Prop) =>
      ∃ t, exec i s = .next t ∧ (chainGet t.dev n).done = c.done ++ [⟨p, c.grantAt, c.endp, St.done, 0, air, rx, c.wtx, now⟩] ∧
        (chainGet t.dev n).endp = c.adm ∧ (∀ k, k ≠ n → chainGet t.dev k = chainGet d k) ∧ t.dev.fld.ports = d.fld.ports ∧ P (chainGet t.dev n) t
    let sends := fun (i : Instr) (x : Chain) (l : List (Nat × Octets)) =>
      ∃ t, exec i s = .next t ∧ chainGet t.dev n = { x with sent := c.sent ++ l } ∧ frames t l.length
    let ctl := rg d (Reg.CHN_EMU_CTL + 16 * n)
    let wtxFrame := stdFrame false [0xF2, BitVec.ofNat 8 (fld ctl 12 7)]
    (∀ v : Word,
      let q := v.toNat % 2 ^ 16 + v.toNat / 2 ^ 16 % 2 * 8
      isF m = true → m = 0x20 + flightOwner d (p / 16) →
        (2 ^ 17 ≤ v.toNat → exec (.chnFqTailWrite m n v) s = .next s) ∧
        (v.toNat < 2 ^ 17 → v.toNat % 2 ^ 16 < 8 → 0 < posDist 8 (c.tailNext.getD c.tail) q →
          posDist 8 (c.tailNext.getD c.tail) q ≤ 8 → posDist 8 c.head q ≤ 8 → exec (.chnFqTailWrite m n v) s = put { c with tailNext := some q })) ∧
    (∀ v, isF m = true → m ≠ 0x20 + flightOwner d (p / 16) → exec (.chnFqTailWrite m n v) s = .next { s with dev := reqDrop d m }) ∧
    (c.settled = true → c.endp < 16 → c.adm = (c.endp + 1) % 16 →
      (kind = 1 → ∀ answers : List AirAns,
        let r := talkA w { ans := answers }
        let fin := fun (air : Nat) (rx : Octets) (P : Chain → Prop) => ends (.activateA n answers) air rx (fun x t => P x ∧
          x.typeB = false ∧ x.sent = c.sent ++ r.2.tx ∧ frames t r.2.tx.length)
        (∀ e, r.1 = .inl e → fin e [] (fun x => (x.txRate, x.rxRate) = (0, 0))) ∧
        (∀ rx, r.1 = .inr rx → fin 0 rx (fun x => (x.txRate, x.rxRate) = rates0)) ∧
        (answers = [] → r.1 = .inl 1 ∧ r.2.tx = [(7, if bit w 25 then [0x52] else [0x26])]) ∧
        (∀ (a0 a1 u0 u1 u2 u3 sak : Octet) (rest : List AirAns), sak.toNat.testBit 2 = false →
          answers = ⟨0, [a0, a1], none⟩ :: ⟨0, [u0, u1, u2, u3, u0 ^^^ u1 ^^^ u2 ^^^ u3], none⟩ :: ⟨0, [sak] ++ frameCrc false [sak], none⟩ :: rest →
          let rx := [a0, a1, sak, 4, u0, u1, u2, u3] ++ zeros 8
          (bit w 26 = false ∨ sak.toNat.testBit 5 = false → r.1 = .inr rx ∧ r.2.tx.length = 3) ∧
          (∀ ats more, bit w 26 = true → sak.toNat.testBit 5 = true → rest = ⟨0, ats ++ frameCrc false ats, none⟩ :: more → ats ≠ [] →
            ats.length = (octAt ats 0).toNat → ats.length ≤ 240 → r.1 = .inr (rx ++ ats) ∧ r.2.tx.length = 4))) ∧
      (kind = 2 → ∀ answers : List AirAns,
        let inf := txData d n c.endp (fld w 24 16)
        let r := talkB w (fld (hdrW d n c.endp 1) 7 0) inf { ans := answers }
        let fin := fun (air : Nat) (rx : Octets) (P : Chain → Prop) => ends (.activateB n answers) air rx (fun x t => P x ∧
          x.typeB = true ∧ x.sent = c.sent ++ r.2.tx ∧ frames t r.2.tx.length)
        (∀ e, r.1 = .inl e → fin e [] (fun x => (x.txRate, x.rxRate) = (0, 0))) ∧
        (∀ rx, r.1 = .inr rx → fin 0 rx (fun x => (x.txRate, x.rxRate) = rates0)) ∧
        (answers = [] → r.1 = .inl 1 ∧ r.2.tx.length = 2 ^ fld w 33 31) ∧
        (∀ (q b : Octets) (more : List AirAns), q.length = 12 ∨ q.length = 13 → octAt q 0 = 0x50 → b.length ≤ 240 →
          answers = ⟨0, q ++ frameCrc true q, none⟩ :: ⟨0, b ++ frameCrc true b, none⟩ :: more →
          r.1 = .inr (leOct 1 q.length ++ fitTo 13 q ++ zeros 2 ++ b) ∧
          r.2.tx = [stdFrame true ([0x05] ++ leOct 1 (fld (hdrW d n c.endp 1) 7 0) ++ leOct 1 (fld w 33 31 + 8 * b2n (bit w 25))),
            stdFrame true ([0x1D] ++ slice q 1 4 ++ [0] ++ leOct 1 (fld w 11 10 * 64 + fld w 9 8 * 16 + fld w 30 27) ++
              leOct 1 ((octAt q 10).toNat % 16) ++ [0] ++ inf)])) ∧
      (kind = 3 → ∀ (frame : Octets) (air : Nat),
        let o := txData d n c.endp (fld w 24 16)
        let f := if bit w 4 then stdFrame c.typeB o else (8 * o.length, o)
        let tx := if c.window = none then [f] else []
        let win := c.window.getD (passAfter d (frameTime c.typeB c.txRate f.2.length + (fwtOf (fld w 15 12) + deltaFwt)))
        let body := stripCrc c.typeB frame
        let wtx := bit w 6 = true ∧ ∃ b, body = some b ∧ b.length = 2 ∧ (octAt b 0).toNat / 16 = 15
        let same := fun (x : Chain) (t : State) => (x.txRate, x.rxRate) = (c.txRate, c.rxRate) ∧ x.sent = c.sent ++ tx ∧ frames t tx.length
        let done := fun (x : Chain) (t : State) => (x.txRate, x.rxRate) = rates ∧ x.sent = c.sent ++ tx ∧ frames t tx.length
        let extend := fun (i : Instr) (b : Octets) =>
          let k := (octAt b 1).toNat % 64
          (k = 0 ∨ 59 < k → ends i 5 [] same) ∧
          (1 ≤ k → k ≤ 59 → ∃ t, exec i s = .next t ∧ frames t (tx.length + 1) ∧ asked t ∧
            chainGet t.dev n = { c with sent := c.sent ++ tx ++ [stdFrame c.typeB b], wtx := min 255 (c.wtx + 1),
                                        window := some (passAfter d (frameTime c.typeB c.txRate 4 + min (fwtOf (fld w 15 12) * k) (fwtOf 14) + deltaFwt)) })
        (bit w 5 = true → ends (.exchange n air frame) 0 [] done) ∧
        (bit w 5 = false →
          (win ≤ now + 1 → ends (.exchange n 1 frame) 1 [] same) ∧
          (∀ u, c.window = some u → now + 1 < u → exec (.exchange n 1 frame) s = .next s) ∧
          (c.window = none → now + 1 < win → sends (.exchange n 1 frame) { c with window := some win } [f]) ∧
          (2 ≤ air → ends (.exchange n air frame) air [] same) ∧
          (¬ wtx → bit w 4 = true → body = none → ends (.exchange n 0 frame) 2 [] (fun x t => same x t ∧
            rg t.dev (Reg.CHN_AIR_ERRORS + 16 * n) = satInc (rg d (Reg.CHN_AIR_ERRORS + 16 * n)) 1)) ∧
          (∀ b, ¬ wtx → bit w 4 = true → body = some b →
            (b.length ≤ 256 → ends (.exchange n 0 frame) 0 b done) ∧ (256 < b.length → ends (.exchange n 0 frame) 5 [] same)) ∧
          (¬ wtx → bit w 4 = false → (frame.length ≤ 256 → ends (.exchange n 0 frame) 0 frame done) ∧
            (256 < frame.length → ends (.exchange n 0 frame) 5 [] same)) ∧
          (∀ b, bit w 6 = true → body = some b → b.length = 2 → (octAt b 0).toNat / 16 = 15 → extend (.exchange n 0 frame) b) ∧
          (bit w 6 = true → ∀ k, k < 64 → extend (.wtxRequestReceived n k) [0xF2, BitVec.ofNat 8 k])) ∧
        (bit w 6 = false ∨ bit w 5 = true → ∀ k, exec (.wtxRequestReceived n k) s = .next s)) ∧
      (kind = 4 → ∀ (rats o : Octets), c.armed = some o → identOk o = true → ends (.emuArm n rats) 0 (fitTo 2 ([0xE0] ++ rats.drop 1))
        (fun x t => x.emuState = 3 ∧ x.field = true ∧ x.held = none ∧ x.ident = some o ∧ (x.txRate, x.rxRate) = rates0 ∧
          x.fsd = fsdOf ((octAt rats 1).toNat / 16) ∧ frames t (2 + 2 * identLevels o) ∧ x.sent.getLast? = some (stdFrame false (identAts o)))) ∧
      (kind = 5 → (∀ f, c.held = some f → ends (.emuReceive n) 0 f (fun x _ => x.held = some f ∧ (x.txRate, x.rxRate) = rates)) ∧ (c.held = none → exec (.emuReceive n) s = .next s)) ∧
      (kind = 6 →
        (c.held = none → ends (.emuRespond n) 6 [] (fun x _ => x.sent = c.sent)) ∧
        (∀ f, c.held = some f → c.emuState = 4 → exec (.emuRespond n) s = .next s) ∧
        (∀ f, c.held = some f → c.emuState ≠ 4 → fld w 24 16 + 2 * b2n (bit w 4) ≤ c.fsd → ends (.emuRespond n) 0 [] (fun x t => x.held = none ∧
          frames t 1 ∧ x.sent = c.sent ++ [if bit w 4 then stdFrame false (txData d n c.endp (fld w 24 16))
            else (8 * fld w 24 16, txData d n c.endp (fld w 24 16))] ∧ (x.txRate, x.rxRate) = rates ∧
          x.emuState = if (octAt f 0).toNat &&& 0xF7 = 0xC2 then 2 else 3)) ∧
        (∀ f, c.held = some f → c.emuState ≠ 4 → c.fsd < fld w 24 16 + 2 * b2n (bit w 4) → ends (.emuRespond n) 6 [] (fun x _ => x.held = some f ∧ x.sent = c.sent)) ∧
        (∀ f b, c.held = some f → c.emu = true → c.emuState = 3 → c.endp ≠ c.tailNext.getD c.tail → entryFail d n c.endp = none →
          ends (.readerFrameReceived n true (b ++ frameCrc false b)) 6 []
          (fun x _ => x.held = some (b.take 256) ∧ x.sent = c.sent)))) ∧
    (∀ frame : Octets,
      (exec (.readerFrameReceived n false frame) s = .next s) ∧
      (c.emu = false ∨ c.emuState = 0 → exec (.readerFrameReceived n true frame) s = .next s) ∧
      (c.emu = true → c.settled = true → 3 ≤ c.emuState → stripCrc false frame = none → exec (.readerFrameReceived n true frame) s = .next s) ∧
      (∀ b, c.emu = true → c.settled = true → c.emuState = 3 → c.held = none → c.endp = c.adm → stripCrc false frame = some b →
        exec (.readerFrameReceived n true frame) s = put { c with held := some (b.take 256), timer := wtxTimer d n 1 }) ∧
      (∀ b, c.emu = true → c.settled = true → c.emuState = 4 → stripCrc false frame = some b →
        ((octAt b 0).toNat / 16 = 15 → exec (.readerFrameReceived n true frame) s = put { c with emuState := 3, timer := wtxTimer d n (fld ctl 12 7) }) ∧
        ((octAt b 0).toNat &&& 0xF6 = 0xB2 → sends (.readerFrameReceived n true frame) { c with timer := none } [wtxFrame])) ∧
      (∀ o, c.emu = true → c.settled = true → c.emuState = 1 ∨ c.emuState = 2 → c.card = 0 → c.armed = some o → frame = [0x26] ∨ frame = [0x52] →
        sends (.readerFrameReceived n true frame) { c with field := true, emuState := 2, ident := some o, card := 1 } [(16, o.take 2)])) ∧
    (∀ f u, c.held = some f → c.emuState = 3 → c.timer = some u →
      (u ≤ now → sends (.emuWtxTimer n) { c with emuState := 4, timer := none } [wtxFrame] ∧ ∀ t, exec (.emuWtxTimer n) s = .next t → asked t) ∧
      (now < u → exec (.emuWtxTimer n) s = .next s)) ∧
    (c.held = none ∨ c.emuState ≠ 3 ∨ c.timer = none → exec (.emuWtxTimer n) s = .next s) ∧
    (c.emu = true → ∃ t l, exec (.emuFieldLost n) s = .next t ∧ t.dev = { d with fld := t.dev.fld } ∧ (chainGet t.dev n).emuState = 1 ∧
      (chainGet t.dev n).field = false ∧ (chainGet t.dev n).held = none ∧ (chainGet t.dev n).armed = none ∧
      (chainGet t.dev n).endp = c.tailNext.getD c.tail ∧
      (chainGet t.dev n).done = c.done ++ l ∧ l.map (·.pos) = entriesTo 16 c.endp (c.tailNext.getD c.tail) ∧ ∀ r ∈ l, r.st = St.done ∧ r.air = 7) ∧
    (c.emu = false → exec (.emuFieldLost n) s = .next s) ∧
    (∀ r, c.done = [r] → r.pass < now → r.grant = c.grantAt → r.st < 256 → r.sub < 256 → r.air < 8 → r.rx.length ≤ 256 →
      let hdr := Reg.CHN_ENTRY_HDR + 64 * n + 8 * (r.pos % 8)
      ∃ t i, exec (.entryCompletion n) s = .next t ∧ chainGet t.dev n = { c with done := [], head := (r.pos + 1) % 16 } ∧
        rg t.dev (hdr + 4) = BitVec.ofNat 36 (r.st + 2 ^ 8 * r.sub + 2 ^ 16 * r.air + 2 ^ 19 * r.rx.length) ∧
        rg t.dev (hdr + 5) = BitVec.ofNat 36 (min 255 r.wtx) ∧ rg t.dev (hdr + 6) = BitVec.ofNat 36 r.pass ∧
        (∀ j x, (quadPack r.rx)[j]? = some x → rg t.dev (Reg.CHN_ENTRY_DATA + 1024 * n + 128 * (r.pos % 8) + 64 + j) = x) ∧
        t.dev.pas.inq = d.pas.inq ++ [i] ∧ i.core = 0x20 + flightOwner d (r.port / 16) ∧ i.cls = 5 ∧ i.data = [n, r.pos % 8, r.st, r.sub, r.air])

/-- R262 to R277: the tag core: sessions, every command from the air with its answer, the verdict on a MAC, wired commands, accesses to the two copies of a
word, and a field that collapses during one. -/
def Obligations.TagCoreCommands : Prop :=
  ∀ (s : State) (m b : Nat) (mac : Octets), b < 128 → mac.length = 8 →
    let d := s.dev
    let g := d.tag
    let out := fun (x : TagCore) => (.next { s with dev := { d with tag := x } } : Out)
    let may := bit (rg d (Reg.TAG_WRIGHTS + b / 32)) (b % 32)
    let opn := g.session.isSome = true ∧ g.wait = none
    let said := fun (x : TagCore) (o : Octets) =>
      let l := pieces (g.fsd - 3) o.length o
      let blocks := l.zipIdx.map (fun q => tagFrame (leOct 1 ((if q.2 + 1 = l.length then 0x02 else 0x12) + (b2n g.blk + q.2) % 2) ++ q.1))
      ({ x with resp := o, air := g.air ++ blocks, blk := decide ((b2n g.blk + l.length) % 2 = 1) } : TagCore)
    let answers := fun (i : Instr) (data : Octets) (sw : Nat) => ∃ t, exec i s = .next t ∧ t.dev.tag = said g (data ++ beOct 2 sw) ∧ t.dev.mem = d.mem ∧
      t.dev.fmem = d.fmem ∧ rg t.dev Reg.TAG_CL_OPS = if sw = 0x9000 then satInc (rg d Reg.TAG_CL_OPS) 1 else rg d Reg.TAG_CL_OPS
    let refuses := fun (i : Instr) (sw : Nat) => ∃ t, exec i s = .next t ∧ t.dev.tag = said { g with challenge := none } (beOct 2 sw) ∧
      t.dev.mem = d.mem ∧ t.dev.fmem = d.fmem ∧ t.dev.lkg = d.lkg ∧ rg t.dev Reg.TAG_CL_OPS = rg d Reg.TAG_CL_OPS
    let asks := fun (i : Instr) (bad : Option Nat) (msg : Octets) (a : TagAccess) =>
      (tagAuthOn d = false → refuses i 0x6985) ∧
      (tagAuthOn d = true → ∀ sw, bad = some sw → refuses i sw) ∧
      (tagAuthOn d = true → bad = none → g.challenge = none → refuses i 0x6982) ∧
      (tagAuthOn d = true → bad = none → g.challenge ≠ none → fieldPowered d = false → refuses i 0x6985) ∧
      (∀ c, tagAuthOn d = true → bad = none → g.challenge = some c → fieldPowered d = true → ∃ t, exec i s = .next t ∧
        t.dev.tag = { g with challenge := none, wait := some a } ∧
        tabGet [] t.dev.lkg.sendq 64 = tabGet [] d.lkg.sendq 64 ++ [macRequest (tagSlot d) (c ++ msg) mac])
    (∀ p f, p < 256 → p % 16 = 0 → g.session = none → (portGet d p).state ≠ 2 →
      exec (.tagSessionStart p f) s = out { g with session := some p, selected := false, challenge := none, locks := [], wait := none, resp := [],
                                                   fsd := fsdOf f, blk := false, air := tagActivation g.uid }) ∧
    (∀ p f, p % 16 ≠ 0 ∨ g.session ≠ none ∨ (portGet d p).state = 2 → exec (.tagSessionStart p f) s = .next s) ∧
    (¬ opn → ∀ (aid data : Octets) (k : Nat), ∀ i ∈ [Instr.tagSelect aid, .tagReadBlock b, .tagReadBlockLock b mac, .tagReadCounter b, .getChallenge,
      .tagWriteBlock b data mac, .tagIncCounter b k mac, .tagRelease b], exec i s = .next s) ∧
    (∀ how, how < 3 → exec (.tagSessionEnd how) s = out
      { g with session := none, selected := false, challenge := none, locks := [], wait := none, queue := g.queue.filter (fun a => a.core.isSome),
               air := if g.session.isSome = true ∧ how = 1 then g.air ++ [tagFrame [0xC2]] else g.air }) ∧
    (opn → ∃ t, exec (.tagSelect [0xF0, 0x51, 0x54, 0x41, 0x47, 0x01]) s = .next t ∧
      t.dev.tag = said { g with selected := true } ([1, 128, 16, BitVec.ofNat 8 (b2n (fieldPowered d) + 2 * b2n d.keep.hold)] ++ beOct 2 0x9000)) ∧
    (opn → g.selected = false → answers (.tagReadBlock b) [] 0x6999 ∧ (b < 16 → answers (.tagReadCounter b) [] 0x6999)) ∧
    (opn → g.selected = true →
      (∀ v, tagValue d b = some v → answers (.tagReadBlock b) (leOct 16 v) 0x9000) ∧ (tagValue d b = none → answers (.tagReadBlock b) [] 0x6581) ∧
      (b < 16 → ∀ v, tagValue d (128 + b) = some v → answers (.tagReadCounter b) (leOct 4 v) 0x9000)) ∧
    (opn →
      (fieldPowered d = true → ∀ c r, g.store = c :: r →
        ∃ t, exec .getChallenge s = .next t ∧ t.dev.tag = said { g with challenge := some c, store := r } (c ++ beOct 2 0x9000)) ∧
      (fieldPowered d = false ∨ g.store = [] → answers .getChallenge [] 0x6985) ∧
      asks (.tagReadBlockLock b mac) (if may = false then some 0x6986 else if 16 ≤ g.locks.length ∧ b ∉ g.locks then some 0x6985 else none)
        [0x80, 0xB0, 0x80, BitVec.ofNat 8 b] { core := none, action := 1, idx := b, lock := true } ∧
      (∀ data : Octets, data.length = 16 → asks (.tagWriteBlock b data mac) (if may = false then some 0x6986 else none)
        ([0x80, 0xD6, 0, BitVec.ofNat 8 b] ++ data) { core := none, action := 2, idx := b, data := data }) ∧
      (∀ k, k < 256 → b < 16 → asks (.tagIncCounter b k mac) (if bit (rg d Reg.TAG_CRIGHTS) b = false then some 0x6986 else none)
        [0x80, 0xD8, 0, BitVec.ofNat 8 b, BitVec.ofNat 8 k] { core := none, action := 4, idx := b, amount := k }) ∧
      (b ∈ g.locks → ∃ t, exec (.tagRelease b) s = .next t ∧ t.dev.tag = said { g with locks := g.locks.filter (fun x => decide (x ≠ b)) } (beOct 2 0x9000)) ∧
      (b ∉ g.locks → answers (.tagRelease b) [] 0x6986)) ∧
    (g.wait = none → ∀ st, exec (.tagMacVerdict st) s = .next s) ∧
    (∀ a, g.wait = some a →
      exec (.tagMacVerdict St.done) s = out { g with wait := none, queue := g.queue ++ [a] } ∧
      (∃ t, exec (.tagMacVerdict St.untrusted) s = .next t ∧ t.dev.tag = said { g with wait := none } (beOct 2 0x6982) ∧
        rg t.dev Reg.TAG_CL_AUTH_FAILS = satInc (rg d Reg.TAG_CL_AUTH_FAILS) 1) ∧
      ∀ st, st ≠ St.done → st ≠ St.untrusted → ∃ t, exec (.tagMacVerdict st) s = .next t ∧ t.dev.tag = said { g with wait := none } (beOct 2 0x6985)) ∧
    (∀ c : Octets,
      (fieldPowered d = true → d.keep.hold = false →
        exec (.challengeReceive c) s = out { g with store := (if 8 ≤ g.store.length then g.store.drop 1 else g.store) ++ [c] }) ∧
      (fieldPowered d = false ∨ d.keep.hold = true → exec (.challengeReceive c) s = .next s)) ∧
    (isF m = true → (cmdGet d 0x24 m).busy = false → ∀ k, k < 256 →
      let data := quadUnpack ((List.range 4).map (fun i => pv d m (Reg.TAG_DATA + i)))
      let takes := fun (i : Instr) (act idx amount : Nat) => ∃ t, exec i s = .next t ∧ cmdGet t.dev 0x24 m = ⟨true, false, 0⟩ ∧
        t.dev.tag = { g with queue := g.queue ++ [{ core := some m, action := act, idx := idx, data := data, amount := amount }] } ∧ t.dev.pas = d.pas
      takes (.wiredReadBlock m b) 1 b 0 ∧ takes (.wiredWriteBlock m b) 2 b 0 ∧
      (b < 16 → takes (.wiredReadCounter m b) 3 b 0 ∧ takes (.wiredIncCounter m b k) 4 b k) ∧
      (16 ≤ b → ∀ i ∈ [Instr.wiredReadCounter m b, .wiredIncCounter m b k], ∃ t, exec i s = .next t ∧
        cmdGet t.dev 0x24 m = ⟨false, true, St.badDesc + 2 * 256⟩ ∧ t.dev.tag = g)) ∧
    (isF m = false ∨ (cmdGet d 0x24 m).busy = true → ∀ k, ∀ i ∈ [Instr.wiredReadBlock m b, .wiredWriteBlock m b, .wiredReadCounter m b, .wiredIncCounter m b k],
      exec i s = .next s) ∧
    (g.queue = [] → ∀ u how, exec (.tagMemoryAccess u) s = .next s ∧ ∃ t, exec (.tagFieldCollapse how) s = .next t ∧ t.dev.tag.session = none ∧
      t.dev.tag.mem = g.mem) ∧
    (∀ a, g.queue = [a] → a.idx < 128 →
      let i := if a.action ≤ 2 then a.idx else 128 + a.idx
      let runs := fun (verify : Nat) (P : State → Prop) => ∃ t, exec (.tagMemoryAccess verify) s = .next t ∧ t.dev.tag.queue = [] ∧ P t
      let same := fun (t : State) => t.dev.tag.mem = g.mem
      let writes := fun (t : State) (c v : Nat) (ok : Bool) => tagCopy t.dev i c = tagCopy d i c ∧
        (tagCopy t.dev i (1 - c)).val = v ∧ (tagCopy t.dev i (1 - c)).seq = ((tagCopy d i c).seq + 1) % 65536 ∧
        tagValid i (tagCopy t.dev i (1 - c)) = ok ∧ ∀ j, j ≠ i → ∀ k, k < 2 → tagCopy t.dev j k = tagCopy d j k
      let reads := fun (t : State) (m : Nat) (ws : List Word) => t.dev.tag.dataDue = g.dataDue ++ [(m, d.pas.count, ws)] ∧ t.dev.priv = d.priv
      let result := fun (t : State) (m st sub : Nat) => cmdGet t.dev 0x24 m = ⟨false, true, st + sub * 256⟩
      (∀ m v, a.core = some m → tagValue d i = some v →
        (a.action = 1 → runs 0 (fun t => same t ∧ result t m St.done 0 ∧ reads t m (quadPack (leOct 16 v)))) ∧
        (a.action = 3 → runs 0 (fun t => same t ∧ result t m St.done 0 ∧ reads t m [BitVec.ofNat 36 v])) ∧
        (a.action = 4 → a.amount = 0 → runs 0 (fun t => same t ∧ result t m St.done 0 ∧ reads t m [BitVec.ofNat 36 v])) ∧
        (a.action = 4 → a.amount ≠ 0 → v = 2 ^ 32 - 1 → runs 0 (fun t => same t ∧ result t m St.writeProt 2)) ∧
        (a.action = 2 → a.idx ∈ g.locks → runs 0 (fun t => same t ∧ result t m St.blockBusy 1)) ∧
        (∀ c, tagCurrent d i = some c →
          (a.action = 2 → a.idx ∉ g.locks → runs 0 (fun t => writes t c (leNat a.data) true ∧ result t m St.done 0) ∧
            runs 2 (fun t => writes t c (leNat a.data) false ∧ result t m St.integrity 0x21)) ∧
          (a.action = 4 → a.amount ≠ 0 → v ≠ 2 ^ 32 - 1 → runs 0 (fun t => writes t c (min (v + a.amount) (2 ^ 32 - 1)) true ∧ result t m St.done 0)))) ∧
      (∀ v c, a.core = none → tagValue d i = some v → tagCurrent d i = some c →
        (a.action = 1 → runs 0 (fun t => same t ∧ (a.lock = true → a.idx ∈ t.dev.tag.locks) ∧ t.dev.tag.resp = leOct 16 v ++ beOct 2 0x9000)) ∧
        (a.action = 2 → runs 0 (fun t => writes t c (leNat a.data) true ∧ t.dev.tag.resp = beOct 2 0x9000) ∧
          runs 2 (fun t => writes t c (leNat a.data) false ∧ t.dev.tag.resp = beOct 2 0x6581)) ∧
        (a.action = 4 → a.amount ≠ 0 → v = 2 ^ 32 - 1 → runs 0 (fun t => same t ∧ t.dev.tag.resp = beOct 2 0x6A84)) ∧
        (a.action = 4 → a.amount ≠ 0 → v ≠ 2 ^ 32 - 1 → runs 0 (fun t => writes t c (min (v + a.amount) (2 ^ 32 - 1)) true ∧
          t.dev.tag.resp = leOct 4 (min (v + a.amount) (2 ^ 32 - 1)) ++ beOct 2 0x9000)) ∧
        (a.action = 2 → ∀ how, how < 3 → ∃ t, exec (.tagFieldCollapse how) s = .next t ∧ t.dev.tag.session = none ∧ t.dev.tag.queue = [] ∧ t.dev.tag.locks = [] ∧
          tagCopy t.dev i c = tagCopy d i c ∧
          (how = 0 → tagCopy t.dev i (1 - c) = tagCopy d i (1 - c)) ∧ (how = 1 → tagValid i (tagCopy t.dev i (1 - c)) = false) ∧
          (how = 2 → writes t c (leNat a.data) true))))

/-- R281 to R287, R291: the lanes of the Lockgate: a barge leaves its send queue with the next SEQ within the budget, arrives in order, joins its other half, is
refused when a check fails, and waits for a full receive ring; the cores' send and receive rings. -/
def Obligations.LockgateLanes : Prop :=
  (∀ (s : State) (tf : Bool) (lane : Nat), lane < 4 →
    let d := s.dev
    let g := d.lkg
    let k := (if tf then 4 else 0) + lane
    let seqRx := tabGet 0 g.seqRx k
    (∀ q b, q ∈ endQueues tf → tf = false ∨ lane ≠ 3 ∨ q ≠ 1 → tabGet [] g.sendq (32 * k + q) = [b] → (∀ r, r < 32 → r ≠ q → tabGet [] g.sendq (32 * k + r) = []) → b.cont = false →
      b.toField = tf → b.lane = lane → (tabGet [] g.waiting k).length < 64 → 1 ≤ lkgLeft d tf lane →
      (g.fieldUp = true → tf = false ∨ 7 ≤ d.rst.hostStep →
        let seq := tabGet 0 g.seqTx k
        ∃ t, exec (.bargeSend tf lane) s = .next t ∧ tabGet [] t.dev.lkg.sendq (32 * k + q) = [] ∧ tabGet [] t.dev.lkg.wire k = tabGet [] g.wire k ++ [{ b with seq := seq }] ∧
          tabGet 0 t.dev.lkg.seqTx k = (seq + 1) % 4096 ∧ lkgLeft t.dev tf lane = lkgLeft d tf lane - 1 ∧ t.dev.mem = d.mem ∧ t.dev.fmem = d.fmem) ∧
      (g.fieldUp = false → tf = true → 7 ≤ d.rst.hostStep → q < 16 →
        ∃ t, exec (.bargeSend tf lane) s = .next t ∧ tabGet [] t.dev.lkg.sendq (32 * k + q) = [] ∧ t.dev.lkg.wire = g.wire ∧
          rg t.dev Reg.LKG_LOST = satInc (rg d Reg.LKG_LOST) 1)) ∧
    (lkgLeft d tf lane = 0 → exec (.bargeSend tf lane) s = .next s) ∧
    (∀ b r errs, tabGet [] g.wire k = b :: r → tf = true → g.fieldUp = false → ∃ t, exec (.bargeReceive tf lane errs) s = .next t ∧
      tabGet [] t.dev.lkg.wire k = r ∧ tabGet 0 t.dev.lkg.seqRx k = (b.seq + 1) % 4096 ∧ t.dev.lkg.sendq = g.sendq ∧ t.dev.pas = d.pas ∧
      rg t.dev Reg.LKG_LOST = satInc (rg d Reg.LKG_LOST) 1) ∧
    (tf = false ∨ g.fieldUp = true → laneFull d tf lane = true → ∀ errs, exec (.bargeReceive tf lane errs) s = .next s) ∧
    (∀ b r errs, tabGet [] g.wire k = b :: r → tf = false ∨ g.fieldUp = true → laneFull d tf lane = false →
      let clean := ∀ i, i < 16 → errs.getD i 0 % 256 = 0
      let half := tabGet [] g.halves k
      let popped := fun (t : State) => tabGet [] t.dev.lkg.wire k = r ∧ tabGet 0 t.dev.lkg.seqRx k = (b.seq + 1) % 4096
      let ops := if tf then (answered d b).ops else d.ops
      (tabGet 0 g.skip k = 0 → clean → b.seq = seqRx → typeLane b.type = some (lane, tf) → half = [] →
        (b.cont = true → ∃ t, exec (.bargeReceive tf lane errs) s = .next t ∧ popped t ∧ tabGet [] t.dev.lkg.halves k = [b] ∧ t.dev.ops = d.ops ∧ t.dev.pas = d.pas) ∧
        (b.cont = false → ∀ e ∈ [(0x01, Instr.presenceReport), (0x02, .chainGrant), (0x03, .credQuery), (0x04, .credAnswer), (0x05, .cryptoRequest), (0x06, .cryptoAnswer),
            (0x07, .auditRecord), (0x08, .health), (0x09, .configPush), (0x0A, .configAck), (0x0B, .firmwareBlock), (0x0C, .drawFill), (0x0D, .challenge),
            (0x0E, .replayInput), (0x0F, .replayLog), (0x10, .fieldMessage), (0x11, .coreStopBarge)],
          b.type = e.1 → exec (.bargeReceive tf lane errs) s = exec e.2 s)) ∧
      (¬ clean ∨ b.seq ≠ seqRx ∨ typeLane b.type ≠ some (lane, tf) → b.toField = tf → b.lane = lane →
        ∃ t, exec (.bargeReceive tf lane errs) s = .next t ∧ popped t ∧ tabGet [] t.dev.lkg.halves k = [] ∧
          tabGet 0 t.dev.lkg.skip k = (if b.cont then b.type + 1 else 0) ∧
          t.dev.ops = ops ∧ t.dev.pas = d.pas ∧
          rg t.dev (endReg tf (Reg.LKG_INTEG_FAIL + lane)) = satInc (rg d (endReg tf (Reg.LKG_INTEG_FAIL + lane))) 1 ∧
          (d.rst.vin = true → fld (tmpStatus t.dev 30) 35 10 = min (2 ^ 26 - 1) (fld (tmpStatus d 30) 35 10 + 1)) ∧
          (b.type = 0x03 → tf = false → b.cont = false → tabGet 0 g.skip k = 0 → errs.getD 0 0 % 256 = 0 → tabGet [] t.dev.lkg.sendq (32 * 5 + 2) =
            tabGet [] g.sendq (32 * 5 + 2) ++ [credAnswer b.core b.ref (if d.keep.hold then St.held else St.integrity) [fld (b.payload.getD 0 0) 15 0]]) ∧
          (b.type ≠ 0x03 → b.type ≠ 0x05 → t.dev.lkg.sendq = g.sendq)) ∧
      (tabGet 0 g.skip k = b.type + 1 → b.cont = false → clean → b.seq = seqRx → typeLane b.type = some (lane, tf) →
        ∃ t, exec (.bargeReceive tf lane errs) s = .next t ∧ popped t ∧ tabGet 0 t.dev.lkg.skip k = 0 ∧ t.dev.lkg.halves = g.halves ∧
        t.dev.ops = ops ∧ t.dev.pas = d.pas ∧ t.dev.regs = d.regs)) ∧
    (tabGet [] g.wire k = [] → ∀ errs, exec (.bargeReceive tf lane errs) s = .next s) ∧
    (∀ b, tabGet [] g.waiting k = [b] →
      (∀ e, rxWrite b d = some e → exec (.bargeQueueWrite tf lane) s = .next { s with dev := onLkg e (fun l => { l with waiting := tabSet [] l.waiting k [] }) }) ∧
      (rxWrite b d = none → ∃ t, exec (.bargeQueueWrite tf lane) s = .next t ∧ tabGet [] t.dev.lkg.waiting k = [b] ∧ t.dev.mem = d.mem ∧ t.dev.fmem = d.fmem))) ∧
  ∀ (s : State) (m : Nat) (v : Word), isF m = true ∨ isH m = true →
    let d := s.dev
    let q := isl m (Reg.LKG_TXQ_BASE + 4 * (m % 16))
    let x := isl m (Reg.LKG_RXQ_BASE + 4 * (m % 16))
    let lgq := fld (rg d (q + 1)) 4 0
    let n := 2 ^ lgq
    let tail := posOf (rg d (q + 2)) n
    let head := posOf (rg d (q + 3)) n
    let a := rn d q + 16 * (tail % n)
    let ws := (List.range 16).map (fun i => ramWord d m (a + i))
    let lane := ((typeLane (fld (ws.headD 0) 7 0)).map (·.1)).getD 0
    let b := bargeOf (!isF m) lane ws
    let own := (if isF m then lane else 4 + lane) * 32 + 16 + m % 16
    (4 ≤ lgq → lgq ≤ 10 → tail < 2 * n → fld v 15 0 < n → posDist n tail (posOf v n) = 1 → posDist n head (posOf v n) ≤ n →
      (refusedIn d (if isF m then 0xC1 else 0xC0) m 1 0 a 16 = none →
        (txAllowed m b = true → ∃ t, exec (.lkgTxqTailWrite m v) s = .next t ∧ rg t.dev (q + 2) = BitVec.ofNat 36 (v.toNat % 2 ^ 17) ∧
          tabGet [] t.dev.lkg.sendq own = tabGet [] d.lkg.sendq own ++ [{ b with core := if isF m then m % 16 else b.core }] ∧ t.dev.priv = d.priv) ∧
        (txAllowed m b = false → ∃ t, exec (.lkgTxqTailWrite m v) s = .next t ∧ t.dev.lkg = d.lkg ∧ rg t.dev (q + 2) = BitVec.ofNat 36 (v.toNat % 2 ^ 17) ∧
          posOf (rg t.dev (q + 3)) n = (head + 1) % (2 * n) ∧ pv t.dev m Reg.LKG_TX_REFUSED = satInc (pv d m Reg.LKG_TX_REFUSED) 1))) ∧
    (let lgx := fld (rg d (x + 1)) 4 0
     let size := 2 ^ lgx
     let h := posOf (rg d (x + 2)) size
     4 ≤ lgx → lgx ≤ 10 → fld v 15 0 < size → 0 < posDist size h (posOf v size) → posDist size h (posOf v size) ≤ size →
      posDist size h (posOf v size) ≤ posDist size h (posOf (rg d (x + 3)) size) →
      let e := (List.range 4).foldl (fun e lane => bargeQueueWrite (isF m) lane e) (rgSet d (x + 2) (BitVec.ofNat 36 (v.toNat % 2 ^ 17)))
      exec (.lkgRxqHeadWrite m v) s = .next { s with dev := e } ∧
        ((∀ l, l < 4 → tabGet [] d.lkg.waiting (laneKey (isF m) l) = []) → e.mem = d.mem ∧ e.fmem = d.fmem ∧ e.pas = d.pas ∧
          e.regs = (rgSet d (x + 2) (BitVec.ofNat 36 (v.toNat % 2 ^ 17))).regs))

/-- R287 to R290, Table 11.3, Table 11.4: what the barge of each type does at the end that receives it. -/
def Obligations.BargeMeanings : Prop :=
  ∀ (s : State) (b : Barge) (r : List Barge),
    let d := s.dev
    let arrives := fun (type lane : Nat) (tf : Bool) => b.type = type ∧ b.lane = lane ∧ b.toField = tf ∧ b.cont = false ∧ (tf = true → d.lkg.fieldUp = true) ∧
      tabGet [] d.lkg.wire ((if tf then 4 else 0) + lane) = b :: r ∧ b.seq = tabGet 0 d.lkg.seqRx ((if tf then 4 else 0) + lane) ∧
      tabGet [] d.lkg.halves ((if tf then 4 else 0) + lane) = [] ∧ tabGet 0 d.lkg.skip ((if tf then 4 else 0) + lane) = 0 ∧
      (tabGet [] d.lkg.waiting ((if tf then 4 else 0) + lane)).length < 64
    let key := laneKey b.toField b.lane
    let rest := { d with lkg := { d.lkg with
      wire := tabSet [] d.lkg.wire key r, seqRx := tabSet 0 d.lkg.seqRx key ((b.seq + 1) % 4096), skip := tabSet 0 d.lkg.skip key 0 } }
    let entry := fun (t : State) (o : Op) => (d.waitq = [] ∧ inFlight d < 131072 → t.dev.ops = d.ops ++ [o] ∧ t.dev.waitq = []) ∧
      (d.waitq ≠ [] ∨ 131072 ≤ inFlight d → t.dev.waitq = d.waitq ++ [o] ∧ t.dev.ops = d.ops)
    let gives := fun (i : Instr) (e : Dev) => exec i s = .next { s with dev := e }
    let w := fun (i : Nat) => b.payload.getD i 0
    (∀ e ∈ [(Instr.presenceReport, 0x01, 3, false), (.chainGrant, 0x02, 3, false), (.auditRecord, 0x07, 3, false), (.health, 0x08, 3, false),
        (.credAnswer, 0x04, 1, true), (.fieldMessage, 0x10, 3, true)], arrives e.2.1 e.2.2.1 e.2.2.2 →
      let m := bargeCore d b
      let held := tabGet [] d.lkg.waiting (laneKey b.toField b.lane)
      (∀ y ∈ held, bargeCore d y ≠ m) →
      (∀ a, rxSlot d m = some a → refusedIn d (if b.toField then 0xC1 else 0xC0) m 1 1 a 16 = none →
        ∃ t i, exec e.1 s = .next t ∧ (∀ j, j < 16 → ramWord t.dev m (a + j) = (bargeWords b).getD j 0) ∧ (∀ c, c < a ∨ a + 16 ≤ c → ramWord t.dev m c = ramWord d m c) ∧
          t.dev.lkg = rest.lkg ∧ t.dev.pas.inq = d.pas.inq ++ [i] ∧ i.core = m ∧ i.cls = 2 ∧ i.data = (bargeWords b).map (·.toNat)) ∧
      (rxSlot d m = none → ∃ t, exec e.1 s = .next t ∧ tabGet [] t.dev.lkg.waiting (laneKey b.toField b.lane) = held ++ [b] ∧ t.dev.pas = d.pas ∧ t.dev.mem = d.mem ∧
        t.dev.fmem = d.fmem)) ∧
    (arrives 0x03 1 false → d.keep.hold = false →
      ∃ t o, exec .credQuery s = .next t ∧ entry t o ∧ o.src = .barge b.core b.ref 0x03 ∧ o.ctx = 0xC0 ∧ o.opcode = 0x40 ∧ o.phase = .staged ∧
        o.eligAt = d.pas.count + 1 ∧ o.input = quadUnpack ((List.range 8).map (fun i => w (i + 1))) ∧ o.aux.getD 0 0 = fld (w 0) 15 0) ∧
    (arrives 0x05 2 false → d.keep.hold = false → fld (w 0) 16 14 < 4 →
      let op := fld (w 0) 16 14
      let tl := fld (w 0) 25 21
      let il := fld (w 0) 30 26
      let aad := fld (w 1) 5 0
      let pay := fld (w 1) 11 6
      let x := denseUnpack ((b.payload.drop 2).take 12)
      let tin := if op = 1 ∨ op = 3 then tl else 0
      ∃ t o, exec .cryptoRequest s = .next t ∧ entry t o ∧ o.src = .barge b.core b.ref 0x05 ∧ o.ctx = 0xC0 ∧ o.phase = .staged ∧
        described (0x10 + op) {} [(8, 2, fld (w 0) 13 0), (10, 1, fld (w 0) 20 17), (12, 4, aad), (16, 4, pay), (20, 1, il), (21, 1, tl), (40, 16, leNat (x.take il))] o.desc ∧
        o.input = fitTo (aad + pay + tin) (slice x (il + tin) (aad + pay) ++ slice x il tin)) ∧
    (∀ a, arrives 0x06 2 true → b.core = 4 → d.tag.wait = some a → fld (w 0) 7 0 = St.done →
      gives .cryptoAnswer { answered rest b with tag := { d.tag with wait := none, queue := d.tag.queue ++ [a] } }) ∧
    (arrives 0x09 0 true →
      let kind := fld (w 0) 1 0
      let n := fld (w 0) 4 2
      let seq := fld (w 0) 28 5
      let pairs := (List.range n).map (fun i => (fld (w (2 * i + 1)) 23 0, w (2 * i + 2)))
      let staged := (if d.fld.stagedSeq = seq then d.fld.staged else []) ++ pairs.map (fun e => (e.1, e.2.toNat))
      (kind = 0 → ∃ t, exec .configPush s = .next t ∧ t.dev.fld = { d.fld with staged := staged, stagedSeq := seq } ∧
        (staged.length = (chmFieldEntries d).length → ∃ y, tabGet [] t.dev.lkg.sendq 0 = tabGet [] d.lkg.sendq 0 ++ [y] ∧ y.type = 0x0A ∧
          y.payload.getD 0 0 = BitVec.ofNat 36 (seq * 2 ^ 5) ∧ y.payload.getD 1 0 = BitVec.ofNat 36 staged.length)) ∧
      (kind = 1 → n = 1 →
        let a := fld (w 1) 23 0
        ∃ t, exec .configPush s = .next t ∧ t.dev.lkg = rest.lkg ∧ t.dev.pas = d.pas ∧
          (calBase ≤ a → a < calBase + calWords → t.dev.fld.cal = tabPut d.fld.cal (a - calBase) (w 2) ∧ t.dev.regs = d.regs) ∧
          (a < calBase ∨ calBase + calWords ≤ a → t.dev.fld.cal = d.fld.cal ∧
            (isFieldReg a = true → rg t.dev a = chmMerge (rg d a) (w 2) (chmMask a)) ∧ (isFieldReg a = false → t.dev.regs = d.regs)) ∧
          (∀ c, c < 32 → (chainGet t.dev c).cal = ((chainGet d c).cal || calHas t.dev (64 * c) 64)) ∧
          (∀ e, e < 16 → (engGet t.dev e).cal = ((engGet d e).cal || calHas t.dev (2048 + 14 * e) 14))) ∧
      (kind = 2 → gives .configPush { rest with fld := { d.fld with staged := [] } }) ∧
      (kind = 3 → gives .configPush { rest with pas := { d.pas with reqs := d.pas.reqs.map (fun q =>
        if ((List.range n).map (fun i => w (i + 1))).any (fun v => decide (fld v 3 0 = q.kind ∧ fld v 9 4 = q.idx)) then { q with ready := true, readyAt := d.pas.count } else q) } })) ∧
    (arrives 0x0A 0 false → fld (w 0) 1 0 = 0 →
      (d.chm.pushed = true → fld (w 0) 28 5 = chmSeq d % 2 ^ 24 → (w 1).toNat = (chmFieldEntries d).length → gives .configAck { rest with chm := { d.chm with acked := true } }) ∧
      (d.chm.pushed = false ∨ fld (w 0) 28 5 ≠ chmSeq d % 2 ^ 24 ∨ (w 1).toNat ≠ (chmFieldEntries d).length → gives .configAck rest)) ∧
    (arrives 0x0B 0 true →
      let k := fld (w 0) 15 0
      (d.fld.started = false → 14 * k + 14 ≤ 0x80000 → b.payload.length = 15 → ∃ t, exec .firmwareBlock s = .next t ∧
        (∀ j, j < 14 → fmRd t.dev (0x010000000 + 14 * k + j) = w (j + 1)) ∧ (∀ a, a < 0x010000000 + 14 * k ∨ 0x010000000 + 14 * k + 14 ≤ a → fmRd t.dev a = fmRd d a) ∧
        t.dev.fld.imgDone = (d.fld.imgDone || bit (w 0) 16) ∧ t.dev.lkg = rest.lkg) ∧
      (d.fld.started = true → gives .firmwareBlock (rgAdd rest (Reg.LKG_LOST + 2 ^ 24) 1))) ∧
    (arrives 0x0C 3 true → b.core < 4 → ∃ t, exec .drawFill s = .next t ∧
      tabGet [] t.dev.hop.next (0x20 + b.core) = tabGet [] d.hop.next (0x20 + b.core) ++ (b.payload.take (b.ref % 16)).map (fun v => fld v 31 0)) ∧
    (arrives 0x0D 2 true →
      (d.fld.supplyOk = true → d.keep.hold = false → gives .challenge { rest with tag := { d.tag with
        store := (if 8 ≤ d.tag.store.length then d.tag.store.drop 1 else d.tag.store) ++ [quadUnpack (b.payload.take 4)] } }) ∧
      (d.fld.supplyOk = false ∨ d.keep.hold = true → gives .challenge rest)) ∧
    (arrives 0x0E 0 true →
      let c := 0x20 + b.core % 4
      let had := (tabGet ([], false) d.rpl.inputs c).1
      (d.rpl.mode = 2 → gives .replayInput { rest with rpl := { d.rpl with
        inputs := tabPut d.rpl.inputs c (had ++ denseUnpack ((b.payload.drop 1).take 14), bit (w 0) 2) } }) ∧
      (d.rpl.mode ≠ 2 → gives .replayInput (rgAdd rest (Reg.LKG_LOST + 2 ^ 24) 1))) ∧
    (∀ e ∈ [(Instr.presenceReport, 0x01), (.chainGrant, 0x02), (.credQuery, 0x03), (.credAnswer, 0x04), (.cryptoRequest, 0x05), (.cryptoAnswer, 0x06),
        (.auditRecord, 0x07), (.health, 0x08), (.configPush, 0x09), (.configAck, 0x0A), (.firmwareBlock, 0x0B), (.drawFill, 0x0C), (.challenge, 0x0D),
        (.replayInput, 0x0E), (.replayLog, 0x0F), (.fieldMessage, 0x10), (.coreStopBarge, 0x11)],
      ∃ lane tf, typeLane e.2 = some (lane, tf) ∧
        ((∀ x y, tabGet [] d.lkg.wire (laneKey tf lane) = x :: y → x.type ≠ e.2) → exec e.1 s = .next s) ∧
        (∀ x y, tabGet [] d.lkg.wire (laneKey tf lane) = x :: y → x.type = e.2 → exec e.1 s = exec (.bargeReceive tf lane []) s)) ∧
    (arrives 0x0F 0 false → ∃ t, exec .replayLog s = .next t ∧
      let k := b.ref % 4096 * 4 + fld (w 0) 1 0
      tabGet ([], false) t.dev.rpl.logs k = ((tabGet ([], false) d.rpl.logs k).1 ++ denseUnpack ((b.payload.drop 1).take 14), bit (w 0) 2)) ∧
    (arrives 0x11 0 false → gives .coreStopBarge (pushInput rest 1 2 0 d.pas.count (0x11 :: b.payload.map (·.toNat))))

/-- R292 to R296: the mailboxes: a send and its refusal, an acknowledgement, a sender whose time has come, a function's send. -/
def Obligations.MailboxCommands : Prop :=
  ∀ (s : State) (c : Nat), c < 64 →
    let d := s.dev
    let x := mbxGet d c
    let denied : Out := .next { s with dev := rgAdd d Reg.MBX_DENIED 1 }
    let sent := fun (t : State) (msg : List Word) => let y := mbxGet t.dev c
      y.msg = msg ∧ y.seq = (x.seq + 1) % 65536 ∧ y.full = true ∧ y.gone = false ∧ y.coll = (x.coll || x.full) ∧ y.await = true ∧ y.resOk = false ∧ y.inMsg = x.inMsg ∧ y.inFull = x.inFull ∧
        (∀ e, e ≠ c → mbxGet t.dev e = mbxGet d e) ∧ t.dev.regs = d.regs ∧ t.dev.mem = d.mem ∧ t.dev.host = d.host ∧
        (isFn (mbxReceiver d c) = false → t.dev.pas.inq =
          d.pas.inq.filter (fun i => !(decide (i.core = mbxReceiver d c) && decide (i.cls = 3) && decide (i.key = c))) ++ [{ core := mbxReceiver d c, cls := 3, key := c, pass := d.pas.count, data := msg.map (·.toNat) }]) ∧
        (isFn (mbxReceiver d c) = true → t.dev.pas = d.pas)
    let due := x.await = true ∧ x.full = true ∧ ((x.fresh = false ∧ rn d (Reg.MBX_TIMEOUT + 4 * c) ≠ 0 ∧ x.vis + rn d (Reg.MBX_TIMEOUT + 4 * c) ≤ d.pas.count) ∨
      x.gone = true ∨ receiverDown d (mbxReceiver d c) = true)
    (∀ m, mbxEnabled d c = true → mbxSender d c = m → ∃ t, exec (.mbxSend m c) s = .next t ∧ sent t ((List.range 16).map (fun i => pv d m (Reg.MBX_OUT + i)))) ∧
    (∀ m, mbxEnabled d c = false ∨ mbxSender d c ≠ m → exec (.mbxSend m c) s = denied) ∧
    (∀ m q, mbxEnabled d c = true → mbxReceiver d c = m →
      exec (.mbxAck m c q) s = .next { s with dev := { d with mbx := tabSet {} d.mbx c { x with acks := x.acks ++ [q] } } }) ∧
    (∀ m q, mbxEnabled d c = false ∨ mbxReceiver d c ≠ m → exec (.mbxAck m c q) s = denied) ∧
    (due → ∃ t, exec (.mailboxTimeout c) s = .next t ∧
      mbxGet t.dev c = { x with await := false, resSeq := x.seq, resSt := St.timeout, resOk := true } ∧ (∀ e, e ≠ c → mbxGet t.dev e = mbxGet d e) ∧ t.dev.mem = d.mem ∧
      (isFn (mbxSender d c) = false → t.dev.pas.inq = d.pas.inq ++
        [{ core := mbxSender d c, cls := 3, key := 64 + c, pass := d.pas.count - 1, data := [x.seq, St.timeout] }]) ∧
      (isFn (mbxSender d c) = true → busMaster d (mbxSender d c - 0x40) = true → hostRd t.dev (mbxPage d c + 328) 8 = leOct 8 (x.seq + St.timeout * 2 ^ 16 + 2 ^ 35))) ∧
    (¬ due → exec (.mailboxTimeout c) s = .next s) ∧
    (∀ msg, msg.length = 16 → isFn (mbxSender d c) = true →
      (mbxEnabled d c = true → ∃ t, exec (.mailboxSendArrival c msg) s = .next t ∧ sent t msg) ∧
      (mbxEnabled d c = false → exec (.mailboxSendArrival c msg) s = denied)) ∧
    (∀ msg, isFn (mbxSender d c) = false → exec (.mailboxSendArrival c msg) s = .next s)

/-- R351, R353: MPU_REGION_WRITE completes for every master, level, address and value: a live write of a core's region word, by whom it is taken, when it
is dropped as a protected change, and a write of any other word, which does nothing here. -/
def Obligations.RegionWrites : Prop :=
  ∀ (s : State) (m pl g r k : Nat) (v : Word), isCore g = true → r < regionCount g → k < 3 →
    let d := s.dev
    let a := mpuAddr g r k
    let w := v &&& BitVec.ofNat 36 (if k = 2 then 0xFF07FF else 0xFFFFFFFF0)
    let old := region d g r
    let new := regionOf (fun b => if b = a then w else rg d b) g r
    let touches := ∃ q ∈ [old, new], q.sealed = true ∨ ∃ z, q.lo ≤ z ∧ z ≤ q.hi ∧ sealedWord d (isF g) z = true
    let may := pl = 0 ∧ (m = g ∨ m = 1 ∧ isH g = true)
    (may → ¬ touches → exec (.mpuRegionWrite m pl a v) s = .next { s with dev := rgSet d a w } ∧ region (rgSet d a w) g r = new ∧
      ∀ g' r', regionCount g' ≠ 0 → r' < regionCount g' → (g', r') ≠ (g, r) → region (rgSet d a w) g' r' = region d g' r') ∧
    (may → touches → exec (.mpuRegionWrite m pl a v) s = .next { s with dev := rgSet d (0x070000 + 256 * g + 0xF0) (rg d (0x070000 + 256 * g + 0xF0) ||| 64) }) ∧
    (¬ may → exec (.mpuRegionWrite m pl a v) s = .next s) ∧
    (∀ b, (∀ g' r' k', isCore g' = true → r' < regionCount g' → k' < 3 → b % 2 ^ 24 ≠ mpuAddr g' r' k') → exec (.mpuRegionWrite m pl b v) s = .next s) ∧
    (∀ b, ∃ t, exec (.mpuRegionWrite m pl b v) s = .next t ∧ t.dev = { d with regs := t.dev.regs })

/-- R361, R365 to R367, R370: events of the tamper sources, their counts, the end of a response window, a sample on the keep cell. -/
def Obligations.TamperSources : Prop :=
  ∀ s : State,
    let d := s.dev
    (d.rst.vin = false → exec .responseWindowEnd s = .next s ∧ ∀ src, exec (.tamperEvent src) s = .next s ∧ exec (.tamperConditionClear src) s = .next s) ∧
    (∀ src, src < 39 →
      let w := tmpStatus d src
      let count := fld w 7 0 + 1
      let others := fun (t : State) => (∀ z, z < 39 → z ≠ src → tmpStatus t.dev z = tmpStatus d z) ∧ t.dev.mem = d.mem ∧ t.dev.keep = d.keep ∧ t.dev.rst = d.rst
      (tmpCondition src = true → bit w 8 = true → exec (.tamperEvent src) s = .next s) ∧
      (d.rst.vin = true → tmpCondition src = false ∨ bit w 8 = false →
        ∃ t, exec (.tamperEvent src) s = .next t ∧ others t ∧
          let y := tmpStatus t.dev src
          fld y 35 10 = min (2 ^ 26 - 1) (fld w 35 10 + 1) ∧ bit y 8 = (tmpCondition src || bit w 8) ∧
          (count < tmpN d src → fld y 7 0 = count ∧ bit y 9 = bit w 9 ∧ t.dev.tmp.fired = d.tmp.fired) ∧
          (tmpN d src ≤ count → fld y 7 0 = 0 ∧ bit y 9 = true ∧ ∀ z, z ∈ t.dev.tmp.fired ↔ z = src ∨ z ∈ d.tmp.fired)) ∧
      (d.rst.vin = true → tmpCondition src = true →
        ∃ t, exec (.tamperConditionClear src) s = .next t ∧ others t ∧ tmpStatus t.dev src = setBit w 8 false ∧ t.dev.tmp = d.tmp) ∧
      (tmpCondition src = false → exec (.tamperConditionClear src) s = .next s) ∧
      (tmpW d src ≠ 0 → fld w 7 0 ≠ 0 → tabGet 0 d.tmp.since src + tmpW d src ≤ d.pas.count →
        ∃ t, exec (.countDecay src) s = .next t ∧ others t ∧ tmpStatus t.dev src = setFld w 7 0 0 ∧ t.dev.tmp.fired = d.tmp.fired) ∧
      (tmpW d src = 0 ∨ d.pas.count < tabGet 0 d.tmp.since src + tmpW d src → exec (.countDecay src) s = .next s)) ∧
    (let fired := sortBy id d.tmp.fired
     let most := (fired.map (tmpResponse d)).foldl max 0
     let runs := 2 ≤ most ∧ inForce d < most
     d.rst.vin = true → fusesLegal d = true → ∃ t, exec .responseWindowEnd s = .next t ∧
      (∃ es : List TmpEntry, t.dev.tmp.log = es.foldl logAdd d.tmp.log ∧
        es.map (fun e => (e.src, e.resp, e.deferred, e.power, e.pass, e.applied)) = fired.map (fun z => (z, tmpResponse d z, false, 0, d.pas.count, false)) ∧
        es.map (·.seq) = (List.range fired.length).map (fun i => min (2 ^ 48 - 1) (tabGet 0 d.keep.monc 2 + i + 1)) ∧
        ∀ e ∈ es, e.subsumed = true ↔ 2 ≤ e.resp ∧ ¬ (runs ∧ e.resp = most)) ∧
      (most = 0 → t.dev.tmp.intCores = d.tmp.intCores) ∧
      (1 ≤ most → ∀ m, m = 1 ∨ isH m = true ∧ bit (rg d Reg.TMP_INT_CORES) (m - 0x10) = true → m ∈ t.dev.tmp.intCores) ∧
      (¬ runs → t.dev.tmp.fired = [] ∧ t.dev.regs = d.regs ∧ t.dev.ops = d.ops ∧ t.dev.slots = d.slots ∧ t.dev.mem = d.mem ∧ t.dev.rst = d.rst ∧ t.dev.keep.hold = d.keep.hold) ∧
      (runs → most = 2 → t.dev.rst.respField = true ∧
        (covered d 2 0 = false → t.dev.fmem = [] ∧ t.dev.mem = d.mem ∧ t.dev.lkg.fieldUp = false ∧ t.dev.rst.fieldStep = 0 ∧ t.dev.rst.fieldLvl = max 2 d.rst.fieldLvl) ∧
        (covered d 2 0 = true → t.dev.fmem = d.fmem ∧ t.dev.mem = d.mem ∧ t.dev.rst = { d.rst with respField := true })) ∧
      (runs → most = 3 → t.dev.rst.respHost = true ∧
        (covered d 3 0 = false → t.dev.rst.hostStep = 0 ∧ t.dev.rst.hostLvl = max 3 d.rst.hostLvl ∧ t.dev.ops.all (·.dead) = true ∧
          ∀ a, memRd t.dev a = if isDram a then memRd d a else 0) ∧
        (covered d 3 0 = true → t.dev.mem = d.mem ∧ t.dev.rst = { d.rst with respHost := true })) ∧
      (runs → most = 4 → t.dev.slots = [] ∧ t.dev.ils.sas = [] ∧ t.dev.chm.state = .empty ∧ t.dev.life.sessOpen = false) ∧
      (runs → most = 5 → t.dev.keep.hold = true ∧ t.dev.tmp.cause = (fired.filter (fun z => decide (tmpResponse d z = 5))).headD 0 ∧
        tabGet 0 t.dev.keep.monc 3 = min (2 ^ 48 - 1) (tabGet 0 d.keep.monc 3 + 1))) ∧
    (d.rst.vin = true ∨ d.rst.keepLost = true → ∀ found, exec (.keepCellSample found) s = .next s) ∧
    (∀ src ∈ [8, 15, 16, 18, 19], d.rst.vin = false → d.rst.keepLost = false → d.tmp.fired = [] → bit (tmpStatus d src) 8 = false →
      tmpN d src ≤ fld (tmpStatus d src) 7 0 + 1 →
      ∃ t e, exec (.keepCellSample [src]) s = .next t ∧ t.dev.tmp.log = logAdd d.tmp.log e ∧ e.src = src ∧ e.resp = tmpResponse d src ∧ e.power = d.rst.keepSrc ∧
        e.pass = d.keep.rstPass ∧ e.deferred = !tmpKeyed src ∧ e.subsumed = (tmpKeyed src && d.keep.hold) ∧ e.applied = false ∧
        t.dev.keep.hold = (d.keep.hold || tmpKeyed src) ∧ (tmpKeyed src = true → d.keep.hold = false → t.dev.tmp.cause = src) ∧
        ∀ z ∈ [8, 15, 16, 18, 19], bit (tmpStatus t.dev z) 8 = decide (z = src))

/-- R375 to R377: an unlock token judged, and the release of HOLD. -/
def Obligations.HoldRelease : Prop :=
  ∀ s : State,
    let d := s.dev
    (∀ id o r k, findOp d id = some o → o.phase = .admitted → o.opcode = 0x5A → o.src = .ring r k → o.dead = false →
      let tok := o.input
      let kind := leAt tok 2 1
      let ends := fun (sub : Nat) => ∃ t y, exec (.holdUnlockVerified id) s = .next t ∧ findOp t.dev id = some y ∧ y.phase = .ended ∧ y.status = St.denied ∧ y.sub = sub ∧
        y.dueAt = d.pas.count + 1 ∧ t.dev.keep.hold = d.keep.hold ∧ t.dev.tmp.release = d.tmp.release ∧
        fld (tmpStatus t.dev 37) 35 10 = (if sub = 4 ∨ sub = 5 then fld (tmpStatus d 37) 35 10 else min (2 ^ 26 - 1) (fld (tmpStatus d 37) 35 10 + 1))
      let allowed := if kind = 3 then d.life.state = 4 ∨ (d.life.state = 2 ∨ d.life.state = 3) ∧ d.tmp.epoch = 255 else d.tmp.epoch < 255
      let names := slice tok 16 16 = fitTo 16 d.life.devid ∧ leAt tok 32 6 = d.tmp.epoch * 2 ^ 40 + tabGet 0 d.keep.monc 3 % 2 ^ 40
      let a := tabGet [] d.life.roster (leAt tok 3 1)
      let b := tabGet [] d.life.roster (leAt tok 4 1)
      let pair := kind = 3 ∨ a ≠ [] ∧ b ≠ [] ∧ leAt tok 3 1 ≠ leAt tok 4 1
      let good := if kind = 2 then cardSigned a (tok.take 48) (slice tok 48 64) = true ∧ cardSigned b (tok.take 48) (slice tok 112 64) = true
        else ecdsaVerify p384 Config.serviceKey.1 Config.serviceKey.2 (sha384 (tok.take 48)) (leAt tok 48 48) (leAt tok 96 48) = true
      let quiet := ∀ z ∈ [19, 21, 24, 28, 29], bit (tmpStatus d z) 8 = false
      kind = 2 ∨ kind = 3 →
      (d.keep.hold = false → ends 4) ∧
      (d.keep.hold = true → ¬ allowed → ends 6) ∧
      (d.keep.hold = true → allowed → ¬ names → ends 2) ∧
      (d.keep.hold = true → allowed → names → ¬ pair → ends 3) ∧
      (d.keep.hold = true → allowed → names → pair → ¬ good → ends 1) ∧
      (d.keep.hold = true → allowed → names → pair → good → ¬ quiet → ends 5) ∧
      (d.keep.hold = true → allowed → names → pair → good → quiet →
        exec (.holdUnlockVerified id) s = .next { s with dev := { d with tmp := { d.tmp with release := some (id, leAt tok 5 1) } } })) ∧
    (∀ id mode, d.tmp.release = some (id, mode) →
      ∃ t, exec .holdRelease s = .next t ∧ t.dev.keep.hold = false ∧ t.dev.tmp.cause = 0 ∧ t.dev.tmp.release = none ∧
        (∀ src, src < 39 → src ≠ 33 → fld (tmpStatus t.dev src) 7 0 = 0) ∧ (mode = 1 → t.dev.slots = [] ∧ t.dev.ils.sas = []) ∧
        (∀ o r k, findOp d id = some o → mode ≠ 1 → o.src = .ring r k → o.dead = false →
          ∃ y, findOp t.dev id = some y ∧ y.phase = .ended ∧ y.status = St.done ∧ y.sub = 0 ∧ y.dueAt = d.pas.count)) ∧
    (d.tmp.release = none → exec .holdRelease s = .next s)

/-- R380, R387 to R391, R393: fuse rows of a transition, the expiry of a challenge, K's boot ROM. -/
def Obligations.LifeCycle : Prop :=
  ∀ s : State,
    let d := s.dev
    let l := d.life
    let gives := fun (i : Instr) (e : Dev) => exec i s = .next { s with dev := e }
    let from_ := d.keep.shadow.1
    let goal := d.keep.shadow.2.1
    let step := d.keep.shadow.2.2
    let draws := step ≤ 2 ∧ l.row = 1
    let rootRowNow := step ≤ 2 ∧ goal = 1 ∧ l.row = 1
    let at_ := fun (n : Nat) => { d.keep with shadow := (from_, goal, n) }
    let n := if goal = 1 then 2 else 1
    let drawn := (d.hop.fifo.take n).flatten
    (∀ ok, l.active = false ∨ draws ∧ hopWaits d n = true → exec (.fuseRowWrite ok) s = .next s) ∧
    (∀ ok, l.active = true → draws → hopRefuses d = true → gives (.fuseRowWrite ok) { d with life := { l with tries := 0, active := false, fail := true } }) ∧
    (l.active = true → ¬ draws ∨ hopServes d n = true →
      (l.tries < 2 → gives (.fuseRowWrite false) { d with life := { l with tries := l.tries + 1 } }) ∧
      (2 ≤ l.tries → ¬ rootRowNow → gives (.fuseRowWrite false) { d with life := { l with tries := 0, active := false, fail := true } }) ∧
      (2 ≤ l.tries → rootRowNow → ∃ t x c, exec (.fuseRowWrite false) s = .next t ∧ t.dev.hop = d.hop ∧ t.dev.mem = d.mem ∧
        (l.otp.badA = false → l.otp.badB = false → t.dev.keep = d.keep ∧
          t.dev.life = { l with tries := 0, otp := { l.otp with badA := true, rootA := x, crcA := c } }) ∧
        (l.otp.badA = true → t.dev.keep = { d.keep with shadow := (from_, 5, 3) } ∧
          t.dev.life = { l with tries := 0, row := 0, otp := { l.otp with badB := true, rootB := x, crcB := c } })) ∧
      (step = 2 → goal = 1 →
        (l.row = 0 → gives (.fuseRowWrite true) { d with life := { l with devid := (List.range 16).map Config.identity, otp := { l.otp with id := true }, row := 1, tries := 0 } }) ∧
        (l.row = 1 → ∃ t, exec (.fuseRowWrite true) s = .next t ∧ t.dev.keep = at_ 3 ∧ t.dev.life.row = 0 ∧
          (l.otp.badA = false → t.dev.life.otp = { l.otp with rootA := fitTo 32 drawn, crcA := crc32 (fitTo 32 drawn) }) ∧
          (l.otp.badA = true → t.dev.life.otp = { l.otp with rootB := fitTo 32 drawn, crcB := crc32 (fitTo 32 drawn) }))) ∧
      (step = 2 → goal = 2 →
        (l.row = 0 → gives (.fuseRowWrite true) { d with life := { l with otp := { l.otp with ownerHash := sha384 (slice l.pkg 32 96) }, row := 1, tries := 0 } }) ∧
        (l.row = 1 → ∃ t, exec (.fuseRowWrite true) s = .next t ∧ t.dev.keep = at_ 3 ∧
          (let iv := drawn.take 12
           let c := gcmEnc (kekDeviceOf d) iv (fitTo 16 l.devid) (fitTo 32 ((pkgKek d l.pkg).getD []))
           t.dev.life.otp.ownerWrap = iv ++ c.1 ++ c.2) ∧
          ∀ i, i < leAt l.pkg 3 1 → tabGet [] t.dev.life.roster i = slice l.pkg (288 + 64 * i) 64)) ∧
      (3 ≤ step → step ≤ 5 → l.otp.lc.length = 3 → ∃ t, exec (.fuseRowWrite true) s = .next t ∧
        (let new := newBits from_ goal (lcVote d)
         let y := t.dev.life
         t.dev.keep = (if step < 5 then at_ (step + 1) else { d.keep with shadow := (0, 0, 0) }) ∧ y.active = decide (step < 5) ∧
         (∀ j, j < 3 → y.otp.lc.getD j 0 = if j = step - 3 then l.otp.lc.getD j 0 ||| new else l.otp.lc.getD j 0) ∧
         y.state = lcDecode (lcVote t.dev) ∧ t.dev.ops = d.ops ∧ t.dev.mem = d.mem ∧
         (l.sessOpen = false → lcUnanimous t.dev = false → t.dev.regs = d.regs) ∧
         (l.sessOpen = false → lcUnanimous t.dev = true → tmpStatus t.dev 35 = setBit (tmpStatus d 35) 8 false ∧ ∀ z, z ≠ 35 → tmpStatus t.dev z = tmpStatus d z)))) ∧
    (∀ c n, l.chal = some (c, n) →
      (n + 6000000 ≤ d.pas.count → gives .challengeExpiry { d with life := { l with chal := none } }) ∧
      (d.pas.count < n + 6000000 → exec .challengeExpiry s = .next s)) ∧
    (l.chal = none → exec .challengeExpiry s = .next s) ∧
    (∀ bad lost, d.rst.hostStep < 2 ∨ l.booted = true → exec (.kBoot bad lost) s = .next s) ∧
    (∀ bad lost, 2 ≤ d.rst.hostStep → l.booted = false → step = 0 → fusesLegal d = true →
      ∃ t, exec (.kBoot bad lost) s = .next t ∧ t.dev.life.booted = true ∧ t.dev.life.state = lcDecode (lcVote d) ∧
        (lcUnanimous d = false → ∀ j, j < 3 → t.dev.life.otp.lc.getD j 0 = l.otp.lc.getD j 0 ||| lcVote d) ∧
        (d.tmp.lost = true → 2 ≤ lcDecode (lcVote d) → lcDecode (lcVote d) ≤ 4 → t.dev.keep.hold = true ∧ t.dev.tmp.epoch = min 255 (d.tmp.epoch + 1))) ∧
    (∀ bad lost, 2 ≤ d.rst.hostStep → l.booted = false → step = 0 → lcUnanimous d = true → l.state = lcDecode (lcVote d) → d.tmp.lost = false →
      (∀ e ∈ d.tmp.log, e.deferred = true → e.applied = true) →
      let started := fun (p gen : Nat) => let off := leAt (bootHdr d p) 16 4
        let base := if p = 0 then 0x400000000 else 0x480000000
        ∃ t, exec (.kBoot bad lost) s = .next t ∧ t.dev.life.bootStatus = 0 ∧ t.dev.life.bootPlane = p ∧ t.dev.life.bootGen = gen ∧ bit (rg t.dev Reg.FLS_XIP_CTL) p = true ∧
          (coreGet t.dev 1).pc = base + 2 * (off / 9) + leAt (bootHdr d p) 24 4 ∧ t.dev.tmp.log = d.tmp.log ∧
          (∀ i, i < 8 → rg t.dev (Reg.RST_HENTRY + i) = BitVec.ofNat 36 (base + 2 * (leAt (bootHdr d p) 28 4 / 9) + leAt (bootHdr d p) 36 4)) ∧
          t.dev.keep = d.keep
      (validSet d 0 = none → validSet d 1 = none → ∃ t, exec (.kBoot bad lost) s = .next t ∧ t.dev.life.bootStatus = 1 ∧ t.dev.life.booted = true ∧
        t.dev.rst.go = [] ∧
        coreGet t.dev 1 = coreGet d 1) ∧
      (∀ a, validSet d 0 = some a → (∀ b, validSet d 1 = some b → b ≤ a) → started 0 a) ∧
      (∀ b, validSet d 1 = some b → (∀ a, validSet d 0 = some a → a < b) → started 1 b))

/-- R354, R393 to R395, R469: the Towpath's instructions, its session, its access port and core debug. -/
def Obligations.Towpath : Prop :=
  ∀ s : State,
    let d := s.dev
    let l := d.life
    let gives := fun (i : Instr) (e : Dev) => exec i s = .next { s with dev := e }
    let select := fun (ir : Nat) (dr : Octets) => { d with life := { l with ir := ir, dr := dr, drive := none } }
    let service := 2 ≤ l.state ∧ l.state ≤ 4
    let opened := l.state ≤ 1 ∨ l.sessOpen = true ∧ l.state ≠ 5
    let probed := fun (t : State) (src : Nat) => d.rst.vin = true → fld (tmpStatus t.dev src) 35 10 = min (2 ^ 26 - 1) (fld (tmpStatus d src) 35 10 + 1)
    gives .idcode (select 0x01 (leOct 4 0x182561C7)) ∧ gives .tapReset (select 0x01 (leOct 4 0x182561C7)) ∧
    (∀ (pins : Octets) (shift : Option Octets), gives (.samplePreload pins shift)
      { d with life := { l with ir := 0x02, dr := pins, bsr := shift.getD l.bsr, drive := none } }) ∧
    (∀ ir, gives (.bypass ir) (select 0xFF [])) ∧
    (∀ (rstn : Bool) (pins : Octets) (shift : Option Octets),
      ((service → rstn = true) → gives (.extest rstn pins shift)
        { d with life := { l with ir := 0x00, dr := pins, bsr := shift.getD l.bsr, drive := some (shift.getD l.bsr) } }) ∧
      (service → gives (.extest false pins shift) (select 0xFF []))) ∧
    (opened → gives .debug (select 0x20 [])) ∧
    (¬ opened → ∃ t, exec .debug s = .next t ∧ t.dev.life = { l with ir := 0xFF, dr := [], drive := none } ∧ probed t 32) ∧
    (∀ r, l.state ≤ 1 ∨ l.state = 5 → gives (.auth r) (select 0xFF [])) ∧
    (∀ r, service → l.booted = false → gives (.auth r) (select 0x10 (zeros 176))) ∧
    (service → l.booted = true → hopServes d 2 = true → ∃ t c, exec (.auth none) s = .next t ∧
      t.dev.life = { l with ir := 0x10, dr := fitTo 176 c, chal := some (c, d.pas.count), chalWait := false, drive := none } ∧
      c.drop 32 = (d.hop.fifo.take 2).flatten.take 32 ∧ leAt c 0 2 = 1 ∧ leAt c 2 1 = 1 ∧ leAt c 3 1 = l.state ∧ slice c 8 16 = fitTo 16 l.devid ∧
      leAt c 24 6 = min (2 ^ 48 - 1) (tabGet 0 d.keep.monc 4 + 1) ∧ tabGet 0 t.dev.keep.monc 4 = min (2 ^ 48 - 1) (tabGet 0 d.keep.monc 4 + 1)) ∧
    (service → l.booted = true → hopServes d 2 = false → gives (.auth none)
      { d with life := { l with ir := 0x10, dr := zeros 176, chalWait := !hopRefuses d, drive := none } }) ∧
    (∀ r c n, service → l.booted = true → r.length = 176 → l.chal = some (c, n) → leAt r 0 2 = 1 → leAt r 2 1 = 1 → leAt r 3 1 ≤ 7 → allZero (slice r 4 4) = true →
      allZero (slice r 30 2) = true → allZero (slice r 64 16) = true →
      let same := leAt c 2 1 = 1 ∧ slice r 8 16 = slice c 8 16 ∧ slice r 24 6 = slice c 24 6 ∧ slice r 32 32 = slice c 32 32
      (same → p384Signed Config.serviceKey r = true →
        gives (.auth (some r)) { d with life := { l with ir := 0x10, dr := [], chal := none, failRun := 0, sessNext := some (leAt r 3 1, d.pas.count), drive := none } }) ∧
      (¬ same ∨ p384Signed Config.serviceKey r = false → ∃ t, exec (.auth (some r)) s = .next t ∧
        t.dev.life = { l with ir := 0x10, dr := [], failRun := l.failRun + 1, drive := none } ∧ rg t.dev Reg.DBG_AUTH_FAILS = satInc (rg d Reg.DBG_AUTH_FAILS) 1 ∧
        ((l.failRun + 1) % 3 = 0 → probed t 32))) ∧
    (∀ sc n, l.sessNext = some (sc, n) → l.booted = false ∨ l.state = 5 ∨ d.pas.count ≤ n → exec .towpathSessionOpen s = .next s) ∧
    (∀ sc n, l.sessNext = some (sc, n) → n < d.pas.count → l.booted = true → l.state ≠ 5 →
      gives .towpathSessionOpen (rgSet { d with life := { l with sessOpen := true, scope := sc, sessNext := none } } Reg.DBG_SESSIONS (satInc (rg d Reg.DBG_SESSIONS) 1))) ∧
    (l.sessNext = none → exec .towpathSessionOpen s = .next s) ∧
    (let port := l.ir = 0x20 ∧ opened
     let scope := fun (i : Nat) => l.state ≤ 1 ∨ l.sessOpen = true ∧ l.scope.testBit i = true
     let a := (rg d Reg.DBG_ADDR).toNat
     let next := BitVec.ofNat 36 (a + 1)
     (∀ w, ¬ port → exec (.dbgDataAccess w) s = .next s) ∧ (∀ v, ¬ port → exec (.dbgCoreWrite v) s = .next s) ∧
     (∀ w, port → ¬ scope 1 → ∃ t, exec (.dbgDataAccess w) s = .next t ∧ probed t 32 ∧ t.dev.mem = d.mem ∧ t.dev.life = l) ∧
     (∀ v, port → ¬ scope 0 → ∃ t, exec (.dbgCoreWrite v) s = .next t ∧ probed t 32 ∧ t.dev.cores = d.cores) ∧
     (port → scope 1 → a < 0xF00000000 →
       (l.state ≠ 0 → sealedWord d false a = true →
         (∃ t, exec (.dbgDataAccess none) s = .next t ∧ probed t 31 ∧ t.dev.life = { l with dr := zeros 5 } ∧ bit (rg t.dev Reg.DBG_STATUS) 1 = true ∧
           rg t.dev Reg.DBG_ADDR = next ∧ t.dev.mem = d.mem) ∧
         ∀ v, ∃ t, exec (.dbgDataAccess (some v)) s = .next t ∧ probed t 31 ∧ t.dev.life = l ∧ bit (rg t.dev Reg.DBG_STATUS) 1 = true ∧
           rg t.dev Reg.DBG_ADDR = next ∧ t.dev.mem = d.mem) ∧
       (l.state = 0 ∨ sealedWord d false a = false →
         (refusal d 2 2 0 0 a = none →
           gives (.dbgDataAccess none) (rdSet { rgSet d Reg.DBG_ADDR next with life := { l with dr := leOct 5 (memAny d a).toNat } } 2 (memAny d a))) ∧
         (refusal d 2 2 0 0 a ≠ none → ∃ t, exec (.dbgDataAccess none) s = .next t ∧ t.dev.life = { l with dr := zeros 5 } ∧
           bit (rg t.dev Reg.DBG_STATUS) 1 = true ∧ t.dev.tmp = d.tmp ∧ t.dev.mem = d.mem) ∧
         (refusal d 2 2 0 1 a = none → romWord 2 a = false → ∀ v, ∃ t, exec (.dbgDataAccess (some v)) s = .next t ∧ rg t.dev Reg.DBG_ADDR = next ∧
           ∀ b, memRd t.dev b = if b = a then v else memRd d b) ∧
         (refusal d 2 2 0 1 a ≠ none → ∀ v, ∃ t, exec (.dbgDataAccess (some v)) s = .next t ∧ bit (rg t.dev Reg.DBG_STATUS) 1 = true ∧ t.dev.mem = d.mem ∧
           t.dev.tmp = d.tmp))) ∧
     (port → scope 0 → ∀ v,
       let m := fld v 7 0
       let debugged := isH m = true ∨ isF m = true ∨ m = 1 ∧ l.state ≤ 1
       ∃ t, exec (.dbgCoreWrite v) s = .next t ∧ (∀ n, n ≠ m → coreGet t.dev n = coreGet d n) ∧ t.dev.mem = d.mem ∧
         (debugged → coreGet t.dev m = { coreGet d m with halted := bit v 8, stepOne := bit v 8 && bit v 9 }) ∧
         (¬ debugged → coreGet t.dev m = coreGet d m)))

/-- R401 to R404, R406, R408, R411: the end of a flash command on its plane, the read windows' control, the controller's release. -/
def Obligations.FlashPlanes : Prop :=
  ∀ (s : State) (p : Nat), p < 8 →
    let d := s.dev
    let x := plane d p
    let others := fun (t : State) => ∀ q, q ≠ p → plane t.dev q = plane d q
    (∀ ok corr w, ∃ t, exec (.flashOpComplete p ok corr w) s = .next t ∧ others t) ∧
    (∀ id o m, x.cur = some id → findOp d id = some o → o.id = id → o.dead = true → o.src = .cmd 0x13 m → ∀ ok corr w,
      ∃ t, exec (.flashOpComplete p ok corr w) s = .next t ∧ (plane t.dev p).cur = none ∧ findOp t.dev id = none ∧ cmdGet t.dev 0x13 m = cmdGet d 0x13 m) ∧
    (∀ id o m, x.cur = some id → findOp d id = some o → o.id = id → o.dead = false → o.src = .cmd 0x13 m →
      let ends := fun (t : State) (st sub : Nat) => cmdGet t.dev 0x13 m = ⟨false, true, st + sub * 256⟩
      let ended := fun (t : State) => (plane t.dev p).cur = none ∧ (plane t.dev p).erase = x.erase ∧ others t ∧
        (plane t.dev p).state = (if x.state = 3 then 3 else if x.state = 4 ∨ x.state = 5 then (if x.resume then 3 else 4) else 0) ∧
        (x.state = 4 ∨ x.state = 5 → (plane t.dev p).resume = false)
      let sound := fun (w : Option WccAt) => flsWcc d o w = none
      let failed := fun (w : Option WccAt) (t : State) => ∃ e a, w = some a ∧ flsWcc d o w = some e ∧ tmpStatus t.dev (wccSource (a.seg % 7)) =
        tmpStatus e (wccSource (a.seg % 7)) ∧ rg t.dev (Reg.MPU_WCC_COUNT + a.seg % 7) = satInc (rg d (Reg.MPU_WCC_COUNT + a.seg % 7)) 1
      sound none ∧
      (o.opcode = 0xD1 ∨ o.opcode = 0xD6 →
        (∀ ok corr w, ¬ sound w → ∃ t, exec (.flashOpComplete p ok corr w) s = .next t ∧ ended t ∧ ends t St.integrity 0 ∧ failed w t ∧ t.dev.mem = d.mem) ∧
        (∀ corr w, sound w → ∃ t, exec (.flashOpComplete p false corr w) s = .next t ∧ ended t ∧ ends t St.integrity 0x31 ∧ rg t.dev Reg.FLS_ECC_FAIL = satInc (rg d Reg.FLS_ECC_FAIL) 1 ∧
          t.dev.mem = d.mem) ∧
        (let ws := (packOct o.dense (if o.opcode = 0xD6 then calRow else pageData x o.block o.page)).take o.flsWords
         ∀ corr w, sound w → (bursts (ws.length + 1) o.flsBuf ws.length).all (fun b => (refusedIn d 0xB0 o.served 0 1 b.1 b.2).isNone) = true →
          ∃ t, exec (.flashOpComplete p true corr w) s = .next t ∧ ended t ∧ ends t St.done 0 ∧ (plane t.dev p).pages = x.pages ∧
            ((∀ i, i < ws.length → memRd t.dev (o.flsBuf + i) = ws.getD i 0) ∧ (∀ a, a < o.flsBuf ∨ o.flsBuf + ws.length ≤ a → memRd t.dev a = memRd d a)) ∧
            rg t.dev Reg.FLS_CORRECTED = (if corr then satInc (rg d Reg.FLS_CORRECTED) 1 else rg d Reg.FLS_CORRECTED)) ∧
        (let ws := (packOct o.dense (if o.opcode = 0xD6 then calRow else pageData x o.block o.page)).take o.flsWords
         ∀ corr w, sound w → (bursts (ws.length + 1) o.flsBuf ws.length).any (fun b => (refusedIn d 0xB0 o.served 0 1 b.1 b.2).isSome) = true →
          ∃ t, exec (.flashOpComplete p true corr w) s = .next t ∧ ended t ∧ ends t St.denied 0 ∧ (plane t.dev p).pages = x.pages)) ∧
      (o.opcode = 0xD2 →
        (∀ corr w, ¬ sound w → ∃ t, exec (.flashOpComplete p true corr w) s = .next t ∧ ended t ∧ ends t St.integrity 0 ∧ failed w t ∧ t.dev.mem = d.mem ∧
          ∃ f, tabFind (plane t.dev p).pages (o.block * 256 + o.page) = some f ∧ f.mark = 1) ∧
        (∀ corr w, sound w → ∃ t, exec (.flashOpComplete p true corr w) s = .next t ∧ ended t ∧ ends t St.done 0 ∧ t.dev.mem = d.mem ∧
          pageData (plane t.dev p) o.block o.page = fitTo pageSize o.input ∧
          ∀ k, k ≠ o.block * 256 + o.page → tabFind (plane t.dev p).pages k = tabFind x.pages k) ∧
        (∀ corr w, ∃ t, exec (.flashOpComplete p false corr w) s = .next t ∧ ended t ∧ ends t St.integrity 0x32 ∧ tabGet false (plane t.dev p).bad o.block = true ∧
          (∃ f, tabFind (plane t.dev p).pages (o.block * 256 + o.page) = some f ∧ f.mark = 1) ∧
          (let partner := o.block * 256 + (pagePair o.page).2.2
           isUpper p o.page = true → partner ≠ o.block * 256 + o.page → (tabFind x.pages partner).isSome = true →
             ∃ f, tabFind (plane t.dev p).pages partner = some f ∧ f.mark = 2) ∧
          ∀ k, k ≠ o.block * 256 + o.page → k ≠ o.block * 256 + (pagePair o.page).2.2 ∨ isUpper p o.page = false →
            tabFind (plane t.dev p).pages k = tabFind x.pages k)) ∧
      (o.opcode = 0xD7 →
        let kept := if 128 ≤ x.records.length then [] else x.records
        let record := commitRecord 1 (o.aux.getD 1 0) (sha384 (planeOcts d p 0 256))
        (∀ corr w, ∃ t, exec (.flashOpComplete p true corr w) s = .next t ∧ ended t ∧ ends t St.done 0 ∧ (plane t.dev p).pages = x.pages ∧
          (plane t.dev p).records = kept ++ [{ data := record }] ∧ (plane t.dev p).committed = commitOf record) ∧
        (∀ corr w, ∃ t f, exec (.flashOpComplete p false corr w) s = .next t ∧ ended t ∧ ends t St.integrity 0x32 ∧ (plane t.dev p).pages = x.pages ∧
          (plane t.dev p).records = kept ++ [f] ∧ f.mark = 1 ∧ (plane t.dev p).committed = none))) ∧
    (∀ id o m, x.cur = none → x.state = 3 → x.erase = some id → findOp d id = some o → o.id = id → o.dead = false → o.src = .cmd 0x13 m →
      ∀ ok corr w, ∃ t, exec (.flashOpComplete p ok corr w) s = .next t ∧ others t ∧
        cmdGet t.dev 0x13 m = ⟨false, true, if ok then 0 else St.integrity + 0x32 * 256⟩ ∧
        (let y := plane t.dev p
         y.state = 0 ∧ y.erase = none ∧ y.journal = none ∧ tabGet 0 y.erases o.block = min (2 ^ 17 - 1) (tabGet 0 x.erases o.block + 1) ∧ tabGet 0 y.wptr o.block = 0 ∧
         (∀ k, k / 256 ≠ o.block → tabFind y.pages k = tabFind x.pages k) ∧
         (∀ k, k / 256 = o.block → (ok = true → tabFind y.pages k = none) ∧ (ok = false → (tabFind y.pages k).isSome = (tabFind x.pages k).isSome)) ∧
         (ok = false → tabGet false y.bad o.block = true))) ∧
    (x.cur = none → x.state ≠ 3 → ∀ ok corr w, exec (.flashOpComplete p ok corr w) s = .next s) ∧
    (∀ m pl v, ¬ (m = 1 ∧ pl = 0) → exec (.flsXipCtlWrite m pl v) s = .next s) ∧
    (∀ v,
      let w := rg d Reg.FLS_XIP_CTL
      let busy := fun (q : Nat) => bit v q = true ∧ 2 ≤ (plane d q).state
      ((busy 0 ∨ busy 1) → exec (.flsXipCtlWrite 1 0 v) s = .next { s with dev := rgSet d Reg.FLS_XIP_CTL (setBit w 2 true) }) ∧
      (¬ (busy 0 ∨ busy 1) → exec (.flsXipCtlWrite 1 0 v) s =
        .next { s with dev := rgSet d Reg.FLS_XIP_CTL (BitVec.ofNat 36 (fld v 1 0 + 4 * b2n (bit w 2 && !bit v 2))) })) ∧
    (let redo := fun (q : Nat) => (plane d q).redo && (plane d q).journal.isSome
     ∃ t, exec .flashControllerRelease s = .next t ∧ t.dev.ops = d.ops ∧ t.dev.mem = d.mem ∧
      rg t.dev Reg.FLS_ERASE_REDO = ((List.range 8).filter redo).foldl (fun w _ => satInc w 1) (rg d Reg.FLS_ERASE_REDO) ∧
      (∀ b, x.journal = some b → x.redo = true → b < 2 ^ 32 → (∀ q, q < 8 → p < q → redo q = false) →
        rg t.dev Reg.FLS_RECORD = BitVec.ofNat 36 (p + 8 * b + 2 ^ 35)) ∧
      (redo p = false → plane t.dev p = x) ∧
      (∀ b, x.journal = some b → x.redo = true → plane t.dev p =
        { x with journal := none, redo := false, pages := x.pages.filter (fun e => decide (e.1 / 256 ≠ b)), erases := tabSet 0 x.erases b (min (2 ^ 17 - 1) (tabGet 0 x.erases b + 1)) })) ∧
    ((∀ q, q < 8 → (plane d q).journal = none ∨ (plane d q).redo = false) → exec .flashControllerRelease s = .next s)

/-- R413 to R415, R418, R420 to R423: audit cards put in, identified, written and taken out, and a READ that fails. -/
def Obligations.AuditCards : Prop :=
  ∀ (s : State) (c : Nat), c < 2 →
    let d := s.dev
    let x := sdSlot d c
    let other := fun (t : State) => sdSlot t.dev (1 - c) = sdSlot d (1 - c)
    let writes := d.sdh.busy = none ∧ d.sdh.writer = some c
    (x.state = 0 → ∃ t, exec (.cardInsertion c) s = .next t ∧ other t ∧ sdSlot t.dev c = { spent := x.spent, state := 1, since := d.pas.count } ∧
      t = { s with dev := { d with sdh := t.dev.sdh } }) ∧
    (x.state ≠ 0 → exec (.cardInsertion c) s = .next s) ∧
    (∀ f, x.state ≠ 1 ∨ d.pas.count < x.since + 400 ∨ x.since + 24400 < d.pas.count → exec (.cardIdentification c f) s = .next s) ∧
    (∀ f, x.state = 1 → x.since + 400 ≤ d.pas.count → d.pas.count ≤ x.since + 24400 →
      let sub := cardSub f
      (f.fails = [] → sub = if f.cmd8 ≠ none ∧ f.cmd8 ≠ some 0x1AA then 0x41 else if f.ready.any (fun t => decide (t ≤ 1000)) then 0 else 0x42) ∧
      (∀ n, 3 ≤ n → f.fails = [n] → sub = 0x40) ∧
      (sub ≠ 0 → ∃ t l, exec (.cardIdentification c f) s = .next t ∧ other t ∧ sdSlot t.dev c = { x with state := 2, sub := sub, sent := l }) ∧
      (sub = 0 → ∃ t, exec (.cardIdentification c f) s = .next t ∧ other t ∧
        (let y := sdSlot t.dev c
         let own := recValid d (y.block 0) = true ∧ recKind (y.block 0) = 2
         let tail := tailOf d y
         y.blocks = f.blocks ∧ y.cid = fitTo 16 f.cid ∧ y.perm = f.perm ∧ y.tmp = f.tmp ∧ y.wide = f.wide ∧ y.hs = f.hs ∧ y.rca = f.rca ∧
         y.clk = (if f.hs then 2 else 1) ∧
         y.type = (if f.cmd8 = none ∨ f.ccs = false then 0 else if f.blocks ≤ 2 ^ 26 then 1 else 2) ∧ (∀ e, f.data = [e] → e.1 < f.blocks → y.block e.1 = fitTo 512 e.2) ∧
         (own ∧ tail.map recKind = some 3 → y.state = 6) ∧
         (¬ (own ∧ tail.map recKind = some 3) → f.perm = true ∨ f.tmp = true → y.state = 7) ∧
         (¬ (own ∧ tail.map recKind = some 3) → f.perm = false → f.tmp = false →
           (blankBlock (y.block 0) = true → y.state = 3) ∧
           (blankBlock (y.block 0) = false → own → tail ≠ none → y.state = 5 ∧ y.next ≥ (topBlock y).getD 0 + 1) ∧
           (blankBlock (y.block 0) = false → ¬ (own ∧ tail ≠ none) → y.state = 4))))) ∧
    (∀ sent, x.state = 0 → exec (.cardRemoval c sent) s = .next s) ∧
    (∀ sent, x.state ≠ 0 → slotOp d c = none → d.sdh.busy = none → x.owed = none → (∀ o ∈ d.ops, slotUse c o = false) →
      ∃ t, exec (.cardRemoval c sent) s = .next t ∧ other t ∧ t.dev.sdh.writer = (if d.sdh.writer = some c then none else d.sdh.writer) ∧
        t.dev.sdh.buffer = d.sdh.buffer ∧ t.dev.ops = d.ops ∧
        sdSlot t.dev c = { spent := if sent = true ∧ (nextRecord d c).isSome then some (x.next, x.cid) else x.spent }) ∧
    (let reported := fun (t : State) (st sub : Nat) => t.dev.pas.inq = d.pas.inq ++ [{ core := 0x10, cls := 1, key := 0xB8, pass := d.pas.count, data := [0, st, sub, c] }]
     let spent : SdSlot := { x with next := x.next + 1, spent := some (x.next, x.cid), wrAt := none }
     let wrote := fun (t : State) (r : AuditRec) => other t ∧ t.dev.sdh.written = max d.sdh.written r.seq ∧
       (sdSlot t.dev c).block x.next = fitTo 512 r.data ∧ (∀ b, b ≠ x.next → (sdSlot t.dev c).block b = x.block b) ∧
       (sdSlot t.dev c).next = x.next + 1 ∧ (sdSlot t.dev c).last = r.seq
     let late := writeLate d c = true
     (∀ w, x.wrAt = some w → (late ↔ w + 10000 < d.pas.count)) ∧
     (∀ r rest, writes → x.owed = none → d.sdh.spare = [] → d.sdh.buffer = r :: rest → x.next + 1 < x.blocks →
      (¬ late → ∀ n, n < 3 → ∃ t, exec (.recordWrite c n) s = .next t ∧ wrote t r ∧ t.dev.sdh.buffer = rest ∧ (sdSlot t.dev c).state = x.state) ∧
      (¬ late → slotOp d c = none → ∀ n, 3 ≤ n → ∃ t l, exec (.recordWrite c n) s = .next t ∧ other t ∧ reported t St.integrity 0x40 ∧
        t.dev.sdh.buffer = d.sdh.buffer ∧ t.dev.sdh.writer = none ∧ sdSlot t.dev c = { spent with state := 2, sub := 0x40, sent := l }) ∧
      (late → slotOp d c = none → ∀ i n, i = .sdBusyTimeout c ∨ i = .recordWrite c n → ∃ t, exec i s = .next t ∧ other t ∧ reported t St.timeout 1 ∧
        t.dev.sdh.buffer = d.sdh.buffer ∧ sdSlot t.dev c = spent)) ∧
     (¬ late → exec (.sdBusyTimeout c) s = .next s) ∧
     (∀ r, d.sdh.busy = none → x.owed = some r → x.next + 1 < x.blocks → ¬ late → ∀ n, n < 3 →
      ∃ t, exec (.recordWrite c n) s = .next t ∧ wrote t r ∧ t.dev.sdh.buffer = d.sdh.buffer ∧ (sdSlot t.dev c).owed = none ∧
        (sdSlot t.dev c).state = x.state) ∧
     (∀ r o m, d.sdh.busy = some (c, false) → d.sdh.special = some r → x.next = 0 → 0 < x.blocks → ¬ late → slotOp d c = some o → o.src = .cmd 0x14 m → o.dead = false →
      ∀ n, n < 3 → ∃ t, exec (.recordWrite c n) s = .next t ∧ wrote t r ∧ (sdSlot t.dev c).state = 5 ∧ t.dev.sdh.busy = none ∧
        t.dev.sdh.writer = some (d.sdh.writer.getD c) ∧ cmdGet t.dev 0x14 m = ⟨false, true, 0⟩) ∧
     (∀ r o m, d.sdh.busy = some (c, true) → d.sdh.special = some r → x.next < x.blocks → ¬ late → slotOp d c = some o → o.src = .cmd 0x14 m → o.dead = false →
      ∀ n, n < 3 → ∃ t, exec (.recordWrite c n) s = .next t ∧ wrote t r ∧ (sdSlot t.dev c).state = 6 ∧ (sdSlot t.dev c).tmp = true ∧
        t.dev.sdh.busy = none ∧ t.dev.sdh.writer = (if d.sdh.writer = some c then none else d.sdh.writer) ∧ cmdGet t.dev 0x14 m = ⟨false, true, 0⟩)) ∧
    (nextRecord d c = none →
      let used := d.ops.any (slotUse c) = true
      exec (.sdBusyTimeout c) s = .next s ∧ (∀ n, n < 3 ∨ ¬ used → exec (.recordWrite c n) s = .next s) ∧
      (used → d.sdh.busy = none → x.owed = none → slotOp d c = none → ∀ n, 3 ≤ n → ∃ t, exec (.recordWrite c n) s = .next t ∧ other t ∧
        t.dev.ops = d.ops ∧ t.dev.sdh.buffer = d.sdh.buffer ∧ sdSlot t.dev c = { x with state := 2, sub := 0x40, wrAt := none }))

/-- R426 to R429: the officer interfaces: presence, activation, the steps of an exchange, a session's end, a card that does not answer. -/
def Obligations.OfficerCards : Prop :=
  ∀ (s : State) (i : Nat), i < 2 →
    let d := s.dev
    let x := ofcIf d i
    let other := fun (t : State) => ofcIf t.dev (1 - i) = ofcIf d (1 - i)
    let leaves := fun (j : Instr) (y : OfcIf) => ∃ t, exec j s = .next t ∧ other t ∧ ofcIf t.dev i = y ∧ t.dev.ops = d.ops ∧ t.dev.regs = d.regs ∧ t.dev.cmds = d.cmds
    (∀ b, x.present = b → exec (.officerCardPresence i b) s = .next s) ∧
    (∀ b, x.present ≠ b → x.op = none → leaves (.officerCardPresence i b) { present := b }) ∧
    (x.state = 3 → x.sessEnd ≤ d.pas.count → leaves (.officerSessionExpiry i) { x with state := 2, roster := 0, sessEnd := 0 }) ∧
    (x.state ≠ 3 ∨ d.pas.count < x.sessEnd → exec (.officerSessionExpiry i) s = .next s) ∧
    (x.op = none → exec (.officerCardTimeout i) s = .next s ∧ ∀ atrs rsp, exec (.officerCardAnswer i atrs rsp) s = .next s) ∧
    (∀ id o m, x.op = some id → findOp d id = some o → o.src = .cmd 0x15 m → o.dead = false → o.opcode ∈ [0xF1, 0xF2, 0xF3] →
      let result := fun (e : Dev) (y : OfcIf) (st sub : Nat) => ofcIf e i = y ∧ cmdGet e 0x15 m = ⟨false, true, st + sub * 256⟩ ∧
        (∀ z, findOp e id = some z → z.phase = .posted) ∧
        rg e (Reg.OFC_IF_AUTH_FAILS + 4 * i) = (if st = St.denied ∧ (sub = 0x11 ∨ sub = 0x12) then satInc (rg d (Reg.OFC_IF_AUTH_FAILS + 4 * i)) 1
          else rg d (Reg.OFC_IF_AUTH_FAILS + 4 * i))
      let ends := fun (j : Instr) (y : OfcIf) (st sub : Nat) => ∃ t, exec j s = .next t ∧ other t ∧ result t.dev y st sub
      (∀ b, x.present ≠ b → ends (.officerCardPresence i b) { present := b } St.cardAbsent 1) ∧
      (x.step = 4 ∨ x.step = 7 → exec (.officerCardTimeout i) s = .next s) ∧
      (x.step ≠ 4 → x.step ≠ 7 → ends (.officerCardTimeout i) { x.idle with state := if x.state = 1 then 0 else x.state } St.timeout 2) ∧
      (x.state = 1 → ∀ atrs rsp,
        let answer := Instr.officerCardAnswer i atrs rsp
        let valid := fun (e : Nat × Octets) (a : Atr) => e.1 ≤ 40000 ∧ parseAtr e.2 = some a
        let active := fun (y : OfcIf) => (y.t1 = false → ends answer { y.idle with state := 2 } St.done 0) ∧
          (y.t1 = true → leaves answer { y with step := 6, tx := t1Block 0xC1 [254] })
        (x.step ≠ 5 → x.step ≠ 6 → (∀ k e a, k < 4 → atrs[k]? = some e → ¬ valid e a) → ends answer { x.idle with state := 0 } St.timeout 2) ∧
        (∀ k e a, x.step ≠ 5 → x.step ≠ 6 → k < 4 → atrs[k]? = some e → valid e a → (∀ j f b, j < k → atrs[j]? = some f → ¬ valid f b) →
          let y := { x with cls := decide (2 ≤ k), inv := a.inv, t1 := a.t1, ta1 := a.ta1, ifsc := a.ifsc, ns := 0, nr := 0, iblk := [], tries := 0 }
          (ppsSent a = true → leaves answer { y with step := 5, tx := ppsRequest a.t1 a.ta1 }) ∧
          (ppsSent a = false → active { y with ta1 := if a.fixed then a.ta1 else 0x11 })) ∧
        (x.step = 5 → (rsp = x.tx → active x) ∧ (rsp ≠ x.tx → rsp = ppsKeeps x.t1 → active { x with ta1 := 0x11 }) ∧
          (rsp ≠ x.tx → rsp ≠ ppsKeeps x.t1 → ends answer { x.idle with state := 0 } St.timeout 2)) ∧
        (x.step = 6 → (rsp = t1Block 0xE1 [254] → ends answer { x.idle with state := 2 } St.done 0) ∧
          (rsp ≠ t1Block 0xE1 [254] → ends answer { x.idle with state := 0 } St.timeout 2))) ∧
      (x.state ≠ 1 → x.step = 4 ∨ x.step = 7 → ∀ atrs rsp, exec (.officerCardAnswer i atrs rsp) s = .next s) ∧
      (x.state ≠ 1 → x.step ≠ 4 → x.step ≠ 7 → x.t1 = true → ∀ atrs rsp,
        let answer := Instr.officerCardAnswer i atrs rsp
        (rsp.length < 4 → x.tries < 2 → leaves answer { x with tx := t1Block (0x81 + 16 * x.nr) [], tries := x.tries + 1 }) ∧
        (rsp.length < 4 → 2 ≤ x.tries → ends answer x.idle St.timeout 2) ∧
        (∀ inf, x.nr < 2 → inf.length < 256 → rsp = t1Block (64 * x.nr + 0x20) inf →
          leaves answer { x with rsp := x.rsp ++ inf, nr := 1 - x.nr, ns := if x.iblk = [] then x.ns else 1 - x.ns, iblk := [], tries := 0,
                                 tx := t1Block (0x80 + 16 * (1 - x.nr)) [] })) ∧
      (x.state ≠ 1 → x.step ≠ 4 → x.step ≠ 7 → x.t1 = false → ∀ (atrs : List (Nat × Octets)) (data : Octets),
        let answer := fun (sw : Nat) => Instr.officerCardAnswer i atrs (data ++ beOct 2 sw)
        let got := x.rsp ++ data
        let fresh := { x with rsp := [], tries := 0 }
        (∀ o : Octets, o.length < 2 → ends (.officerCardAnswer i atrs o) x.idle St.timeout 2) ∧
        (∀ n, n < 256 → leaves (answer (0x6100 + n)) { x with rsp := got, tx := [0x00, 0xC0, 0x00, 0x00, BitVec.ofNat 8 n] }) ∧
        (∀ sw, sw < 2 ^ 16 → sw ≠ 0x9000 → sw / 256 ≠ 0x61 → ends (answer sw) x.idle St.denied 0x10) ∧
        (x.step = 1 → leaves (answer 0x9000) { fresh with step := 2, tx := [0x80, 0xCA, 0x00, 0x00, 0x40] }) ∧
        (x.step = 2 → rosterFind d (fitTo 64 got) = none → ends (answer 0x9000) x.idle St.denied 0x11) ∧
        (∀ e, x.step = 2 → rosterFind d (fitTo 64 got) = some e →
          (hopServes d 2 = true → ∃ t, exec (answer 0x9000) s = .next t ∧ other t ∧
            let body := authBody d e i (d.hop.fifo.take 2).flatten
            ofcIf t.dev i = { fresh with step := 3, who := e, body := body, tx := [0x80, 0x2A, 0x00, 0x00, 0x50] ++ fitTo 80 body }) ∧
          (hopWaits d 2 = true → leaves (answer 0x9000) { x with step := 4, who := e }) ∧
          (hopRefuses d = true → ends (answer 0x9000) x.idle St.entropy (hopSub d))) ∧
        (x.step = 3 → ∃ t j, exec (answer 0x9000) s = .next t ∧ other t ∧ ofcIf t.dev i = { x with step := 7, sig := fitTo 64 got } ∧
          t.dev.ops = d.ops ++ [j] ∧ j.src = .ofc i ∧ j.ctx = 0x01 ∧ j.phase = .staged ∧ j.eligAt = d.pas.count + 1 ∧
          described 0x30 {} [(8, 2, 0x0211), (10, 1, 0xFF), (11, 1, 0xFF), (16, 2, 5)] j.desc ∧
          (let key := fitTo 64 (tabGet [] d.life.roster x.who)
           j.input.drop 80 = key ++ sha256 x.body ++ fitTo 64 got))) ∧
      (∀ j, j.src = .ofc i → j.id ≠ id → x.step = 7 →
        let e := ofcVerdict d j
        (j.status = St.done → o.opcode = 0xF2 → result e { x.idle with state := 3, roster := x.who, sessEnd := d.pas.count + rn d Reg.OFC_SESSION_LIFE } St.done 0) ∧
        (j.status = St.done → o.opcode = 0xF3 → ofcIf e i = x.idle ∧ e.chm.waiting = d.chm.waiting ++
          [{ op := some id, iface := some i, roster := x.who, seq := leAt x.body 4 6, digest := slice x.body 32 48, pass := d.pas.count }]) ∧
        (j.status = St.untrusted → result e x.idle St.denied 0x12)))

/-- R434, R436, R438 to R440, R443, R444: records sealed and delivered, and a replayed edge. -/
def Obligations.RecordsAndReplay : Prop :=
  ∀ s : State,
    let d := s.dev
    let r := d.rpl
    (r.closing = [] → exec .recordClose s = .next s) ∧
    (∀ pass down ss rest, r.closing = (pass, down, ss) :: rest →
      let complete := down = true ∨ ∀ c, c < 4 → (rplCores d).testBit (8 + c) = true → r.fieldSeg = true → (tabGet ([], false) r.logs (pass % 4096 * 4 + c)).2 = true
      (r.key = none ∨ ¬ complete → exec .recordClose s = .next s) ∧
      (∀ key, r.key = some key → complete → down = true →
        let body := ss.flatMap sectOct
        let h := recordHdr d 4 pass body.length
        let c := gcmEnc key (leOct 4 r.epoch ++ leOct 6 r.rseq ++ zeros 2) h body
        let record := h ++ c.1 ++ c.2
        let need := stagedWords d + stageWords record.length
        (need ≤ stageCap d → (∀ i, i < stageCap d → refusal d 0x3B 1 0 1 ((rg d Reg.RPL_STAGE_BASE).toNat + i) = none) →
          ∃ t, exec .recordClose s = .next t ∧ t.dev.regs = d.regs ∧ t.dev.fmem = d.fmem ∧
            t.dev.rpl = { r with closing := rest, logs := t.dev.rpl.logs, staged := r.staged ++ [{ rseq := r.rseq, epoch := r.epoch, data := record }],
                                 prev := sha256 record, rseq := r.rseq + 1, stagePos := r.stagePos + stageWords record.length }) ∧
        (stageCap d < need → ∃ t, exec .recordClose s = .next t ∧ rg t.dev Reg.RPL_LOST = satInc (rg d Reg.RPL_LOST) 1 ∧ t.dev.rpl.hostSeg = false ∧
          t.dev.rpl.fieldSeg = false ∧ t.dev.rpl.closing = [] ∧ t.dev.rpl.staged.length = r.staged.length + 1 ∧ t.dev.fmem = d.fmem))) ∧
    (r.staged.all (·.ring) = true → ∀ n, exec (.recordDelivery n) s = .next s) ∧
    (∀ x rest, r.staged = x :: rest → x.ring = false → (∀ y ∈ rest, ¬ (y.rseq = x.rseq ∧ y.epoch = x.epoch)) →
      let size := 2 ^ (rg d Reg.RPL_RING_SIZE).toNat
      let base := ofLoHi (rg d Reg.RPL_RING_BASE_LO) (rg d Reg.RPL_RING_BASE_HI)
      let ctrl := ofLoHi (rg d Reg.RPL_RING_CTRL_LO) (rg d Reg.RPL_RING_CTRL_HI)
      let dest := fld (rg d Reg.RPL_CTL) 2 1
      ∀ n,
        (dest = 1 ∨ rg d Reg.RPL_RING_SIZE = 0 ∨ n + size < r.produced + x.data.length → exec (.recordDelivery n) s = .next s) ∧
        (dest ≠ 1 → rg d Reg.RPL_RING_SIZE ≠ 0 → r.produced + x.data.length ≤ n + size → n ≤ r.produced → busMaster d 0 = true →
          ctrl + 8 ≤ base ∨ base + size ≤ ctrl →
          ∃ t, exec (.recordDelivery n) s = .next t ∧ t.dev.rpl.produced = r.produced + x.data.length ∧ hostRd t.dev ctrl 8 = leOct 8 (r.produced + x.data.length) ∧
            (∀ i, i < x.data.length → tabGet 0 t.dev.host (base + (r.produced + i) % size) = x.data.getD i 0) ∧ t.dev.mem = d.mem ∧
            t.dev.rpl.staged = (if dest = 0 ∨ x.data.length ≤ x.card then rest.dropWhile (fun y => (decide (dest = 1) || y.ring) && (decide (dest = 0) || decide (y.data.length ≤ y.card)))
              else { x with ring := true } :: rest))) ∧
    (∀ q, r.mode ≠ 2 ∨ benchIdle d = false ∨ r.edgeAt = d.pas.count → exec (.replayedEdge q) s = .next s) ∧
    (∀ q, r.mode = 2 → benchIdle d = true → r.edgeAt ≠ d.pas.count →
      let stops := fun (core kind : Nat) => ∃ t, exec (.replayedEdge q) s = .next t ∧ t.dev.rpl.mode = 3 ∧
        rg t.dev Reg.RPL_DIV_INFO = BitVec.ofNat 36 (kind + 16 * core + 2 ^ 35) ∧ t.dev.mem = d.mem ∧ t.dev.fmem = d.fmem ∧
        ∀ m, (isH m = true ∨ isF m = true) → replayed d m = true → (coreGet t.dev m).halted = true
      (∀ m k, endChecks d (benchCores d) = some (m, k) → stops m k) ∧
      (∀ k, endChecks d (benchCores d) = none → recordCheck d q = .error k → stops 0 k) ∧
      (endChecks d (benchCores d) = none → recordCheck d q = .ok [] → busMaster d 0 = true →
        ∃ t, exec (.replayedEdge q) s = .next t ∧ t.dev.rpl.expect = r.expect + 1 ∧ t.dev.rpl.prev = sha256 q ∧ t.dev.rpl.consumed = r.consumed + q.length ∧
          t.dev.rpl.mode = 2 ∧ t.dev.mem = d.mem ∧ t.dev.cores = d.cores ∧
          (r.expect ≠ 0 → t.dev.rpl.pass = leAt q 8 8 ∧ t.dev.rpl.edgeAt = d.pas.count ∧ t.dev.rpl.replay = [])) ∧
      (∀ body y n a (ws : List Nat), endChecks d (benchCores d) = none → recordCheck d q = .ok body → r.expect ≠ 0 → sectsOf 12 body = [y] → isH y.core = true →
        replayed d y.core = true → y.flags % 4 = 0 → y.items = [{ kind := 1, at_ := n, words := a :: ws }] → r.hashes = [] → (coreGet d y.core).waiting = none →
        ∃ t, exec (.replayedEdge q) s = .next t ∧ (∀ i, i < ws.length → memRd t.dev (a + i) = BitVec.ofNat 36 (ws.getD i 0)) ∧
          (∀ b, b < a ∨ a + ws.length ≤ b → memRd t.dev b = memRd d b) ∧ t.dev.fmem = d.fmem ∧ tabGet false (coreGet t.dev y.core).pend 16 = true ∧
          tabGet false (coreGet t.dev y.core).pend 17 = true ∧ tabFind t.dev.rpl.replay y.core = some { y with items := [], outs := [] }))

/-- R445, R447 to R449: the performance counters: an overflow, a clear, a tagged instruction and its sample, the bandwidth monitors. -/
def Obligations.PerformanceCounters : Prop :=
  ∀ s : State,
    let d := s.dev
    (∀ m i, isCore m = true → i < 11 →
      let lo := if i < 8 then 0x18 + 2 * i else 0x04 + 2 * (i - 8)
      let counts := bit (rg d (pmuReg m 0)) 0 = true ∧ (bit (rg d (pmuReg m 0)) 1 = false ∨ fld (rg d (pmuReg m 2)) 10 0 = 0)
      (counts → ∃ t, exec (.pmuCounterOverflow m i) s = .next t ∧ rg t.dev (pmuReg m lo) = 0 ∧ rg t.dev (pmuReg m (lo + 1)) = 0 ∧
        rg t.dev (pmuReg m 2) = rg d (pmuReg m 2) ||| BitVec.ofNat 36 (2 ^ i) ∧
        ∀ a, a ≠ pmuReg m lo → a ≠ pmuReg m (lo + 1) → a ≠ pmuReg m 2 → rg t.dev a = rg d a) ∧
      (¬ counts → exec (.pmuCounterOverflow m i) s = .next s)) ∧
    (∀ m pl g, isCore g = true →
      ((m = 1 ∨ m = g) ∧ pl ≤ 1 → ∃ t, exec (.pmuClear m pl g) s = .next t ∧
        (∀ k, (4 ≤ k ∧ k < 10) ∨ (0x18 ≤ k ∧ k < 0x28) → rg t.dev (pmuReg g k) = 0) ∧ rg t.dev (pmuReg g 0) = rg d (pmuReg g 0) &&& 3 ∧
        ∀ a, a / 256 ≠ 0x1800 + g → rg t.dev a = rg d a) ∧
      (¬ ((m = 1 ∨ m = g) ∧ pl ≤ 1) → exec (.pmuClear m pl g) s = .next s)) ∧
    (∀ m,
      let x := pmuGet d m
      let ctl := rg d (pmuReg m 0x30)
      let period := fld ctl 20 1
      let j := fld ctl 24 21
      let tagged : PmuCore :=
        { x with tag := true, draws := if j = 0 then x.draws else x.draws.drop 1,
                 interval := if j = 0 ∨ x.draws = [] then period else period - 2 ^ (j - 1) + x.draws.headD 0 % 2 ^ j }
      (isCore m = true → bit ctl 0 = true → x.tag = false → ∃ t, exec (.sampleTag m) s = .next t ∧ pmuGet t.dev m = tagged ∧
        (∀ n, n ≠ m → pmuGet t.dev n = pmuGet d n) ∧ t.dev.regs = d.regs) ∧
      (isCore m = false ∨ bit ctl 0 = false ∨ x.tag = true → exec (.sampleTag m) s = .next s) ∧
      (∀ i, x.tag = false → exec (.sampleRecord m i) s = .next s) ∧
      (∀ i, x.tag = true → 256 ≤ x.samples.length → ∃ t, exec (.sampleRecord m i) s = .next t ∧ t.dev.regs = d.regs ∧
        pmuGet t.dev m = { x with tag := false, lost := min (2 ^ 27 - 1) (x.lost + 1) }) ∧
      (∀ i : SampleInfo,
        let flags := i.op % 256 + 2 ^ 8 * (i.pl % 4) + 2 ^ 10 * b2n i.pipe + 2 ^ 11 * b2n i.paired + 2 ^ 12 * b2n i.retired + 2 ^ 13 * b2n i.mispredict +
          2 ^ 14 * b2n i.icMiss + 2 ^ 15 * b2n i.dcMiss + 2 ^ 16 * b2n i.exc
        let ws := [i.pc % 2 ^ 36, flags, i.fetchAt % 2 ^ 36, i.decodeAt % 2 ^ 36, i.issueAt % 2 ^ 36, i.completeAt % 2 ^ 36, i.endAt % 2 ^ 36, d.pas.count % 2 ^ 36]
        x.tag = true → x.samples.length < 256 → ∃ t, exec (.sampleRecord m i) s = .next t ∧
        pmuGet t.dev m = { x with tag := false, samples := x.samples ++ [ws] } ∧
        rg t.dev (pmuReg m 2) = (if x.samples.length + 1 = fld ctl 33 25 then rg d (pmuReg m 2) ||| 2048 else rg d (pmuReg m 2))) ∧
      (∀ reader y rest, isCore reader = false ∨ isCore m = true ∧ replayed d reader = false ∧ isFieldMaster reader = isF m → x.samples = y :: rest → x.idx < 8 →
        ∃ t, exec (.pmuSmpDataRead reader m) s = .next t ∧
        tabGet 0 t.dev.rdata reader = BitVec.ofNat 36 (y.getD x.idx 0) ∧
        pmuGet t.dev m = (if x.idx = 7 then { x with samples := rest, idx := 0 } else { x with idx := x.idx + 1 })) ∧
      (∀ reader, isCore reader = false → x.samples = [] → exec (.pmuSmpDataRead reader m) s = .next { s with dev := { d with rdata := tabSet 0 d.rdata reader 0 } }) ∧
      (∀ reader, isCore reader = true → isCore m = true → replayed d reader = false → x.samples = [] ∨ isFieldMaster reader ≠ isF m →
        ∃ t, exec (.pmuSmpDataRead reader m) s = .next t ∧ tabGet 0 t.dev.rdata reader = 0 ∧ t.dev.pmu = d.pmu ∧ t.dev.regs = d.regs)) ∧
    (let w := (rg d Reg.PMU_BW_WINDOW).toNat
     (∀ counts, d.pas.count % w ≠ 0 ∨ d.pas.count = d.bw.last → exec (.bandwidthWindowClose counts) s = .next s) ∧
     (∀ counts : List Nat, d.pas.count % w = 0 → d.pas.count ≠ d.bw.last → ∃ t, exec (.bandwidthWindowClose counts) s = .next t ∧ t.dev.bw = { last := d.pas.count } ∧
       ∀ i, i < 30 →
         let v := min (2 ^ 48 - 1) (if 20 ≤ i then tabGet 0 d.bw.count i else counts.getD i 0)
         ofLoHi (rg t.dev (Reg.PMU_BW_LAST_LO + 4 * i)) (rg t.dev (Reg.PMU_BW_LAST_HI + 4 * i)) = v ∧
         (ofLoHi (rg d (Reg.PMU_BW_MAX_LO + 4 * i)) (rg d (Reg.PMU_BW_MAX_HI + 4 * i)) < 2 ^ 48 →
          ofLoHi (rg t.dev (Reg.PMU_BW_MAX_LO + 4 * i)) (rg t.dev (Reg.PMU_BW_MAX_HI + 4 * i)) =
           max v (ofLoHi (rg d (Reg.PMU_BW_MAX_LO + 4 * i)) (rg d (Reg.PMU_BW_MAX_HI + 4 * i)))))) ∧
    (∃ t, exec .pmuBwClear s = .next t ∧
      (∀ i, i < 30 → rg t.dev (Reg.PMU_BW_MAX_LO + 4 * i) = 0 ∧ rg t.dev (Reg.PMU_BW_MAX_HI + 4 * i) = 0) ∧
      ∀ i, i < 30 → rg t.dev (Reg.PMU_BW_LAST_LO + 4 * i) = rg d (Reg.PMU_BW_LAST_LO + 4 * i) ∧ rg t.dev (Reg.PMU_BW_LAST_HI + 4 * i) = rg d (Reg.PMU_BW_LAST_HI + 4 * i))

/-- R452, R453, R455, R456, R338: reset sources and commands, what each level reaches, the release order, the fuse map, the stop record. -/
def Obligations.ResetsAndRelease : Prop :=
  ∀ s : State,
    let d := s.dev
    let r := d.rst
    -- K has booted from a valid set: before, nothing beyond memory is released, nor with no set valid (R368, R392)
    let ready := d.life.booted = true ∧ d.life.bootStatus ≠ 1
    -- a reset of a level carried out for a source and the core it names, or only noted
    let carried := fun (lvl src m : Nat) (t : State) =>
      let e := t.dev
      e.keep.rstLast = lvl + 2 ^ src * 8 + m * 2 ^ 20 ∧ e.keep.rstPass = d.pas.count ∧
      (lvl = 1 → coreGet e m = {} ∧ (∀ n, n ≠ m → coreGet e n = coreGet d n) ∧ e.mem = d.mem ∧ e.fmem = d.fmem ∧ e.rst.hostStep = r.hostStep ∧ e.rst.fieldStep = r.fieldStep) ∧
      (lvl = 2 → e.fmem = [] ∧ e.mem = d.mem ∧ e.lkg.fieldUp = false ∧ e.rst.fieldStep = 0 ∧ e.rst.fieldLvl = max 2 r.fieldLvl ∧ e.rst.fieldAlone = true ∧
        e.rst.hostStep = r.hostStep) ∧
      (lvl = 3 → (∀ a, memRd e a = if isDram a then memRd d a else 0) ∧ e.fmem = d.fmem ∧ e.rst.hostStep = 0 ∧ e.rst.hostLvl = max 3 r.hostLvl ∧
        e.rst.fieldStep = r.fieldStep ∧ e.pas.count = d.pas.count) ∧
      (4 ≤ lvl → e.mem = [] ∧ e.fmem = [] ∧ e.slots = [] ∧ e.ops = [] ∧ e.pas.count = 0 ∧ e.rst.hostStep = 0 ∧ e.rst.fieldStep = 0) ∧
      (lvl = 4 → e.rst.hostLvl = max 4 r.hostLvl ∧ e.rst.fieldLvl = max 4 r.fieldLvl ∧ e.tmp.log = d.tmp.log ∧ e.keep.hold = d.keep.hold) ∧
      (lvl = 5 → e.rst.hostLvl = 5 ∧ e.rst.fieldLvl = 5 ∧ e.tmp.log = [] ∧ e.keep.hold = false ∧ e.keep.monc = [] ∧ ∀ a, a >>> 16 = 0x06 → rg e a = regDefault a)
    let noted := fun (src : Nat) (t : State) => t = { s with dev := { d with keep := t.dev.keep } } ∧ t.dev.keep.rstLast % 8 = d.keep.rstLast % 8 ∧
      (src < 17 → t.dev.keep.rstLast.testBit (3 + src) = true) ∧ t.dev.keep = { d.keep with rstLast := t.dev.keep.rstLast }
    let asserts := fun (i : Instr) (src lvl m : Nat) =>
      let covers := if 3 ≤ lvl then lvl ≤ r.hostLvl ∧ r.hostStep < 2 else if lvl = 2 then r.fieldLvl ≠ 0 ∧ r.fieldStep < 8 else (coreGet d m).run = false
      (covers → ∃ t, exec i s = .next t ∧ noted src t) ∧ (¬ covers → lvl ≤ 5 → ∃ t, exec i s = .next t ∧ carried lvl src m t)
    (∀ src m,
      let named := (src = 5 ∨ src = 8) ∧ isH m = true ∨ (src = 6 ∨ src = 9) ∧ m = 1 ∨ (src = 7 ∨ src = 10) ∧ isF m = true
      let may := named ∨ src ≤ 4 ∨ 12 ≤ src ∧ src ≤ 15 ∨ src = 16 ∧ (d.life.state ≤ 1 ∨ d.life.sessOpen = true ∧ d.life.state ≠ 5)
      let lvl := if srcLevel d src = 1 ∧ named ∧ m = 1 then 3 else srcLevel d src
      (may → lvl ≠ 0 → asserts (.resetSourceAssert src m) src lvl (if 5 ≤ src ∧ src ≤ 10 then m else 0)) ∧
      (may → lvl = 0 → exec (.resetSourceAssert src m) s = .next s) ∧
      (¬ may → exec (.resetSourceAssert src m) s = .next s)) ∧
    (∀ m v,
      let lvl := fld v 2 0
      let c := fld v 10 3
      let may := m = 1 ∧ 1 ≤ lvl ∧ lvl ≤ 4 ∧ (lvl = 1 → isCore c = true)
      (may → asserts (.rstCmd m v) 11 (if lvl = 1 ∧ c = 1 then 3 else lvl) (if lvl = 1 then c else 0)) ∧ (¬ may → exec (.rstCmd m v) s = .next s)) ∧
    (∀ n, powered d = true →
      let is := fun (ok : Prop) (e : Dev → Prop) => (ok → ∃ t, exec (.resetReleaseStep n) s = .next t ∧ t.dev.mem = d.mem ∧ t.dev.regs = d.regs ∧ e t.dev) ∧
        (¬ ok → exec (.resetReleaseStep n) s = .next s)
      (n = 1 → is (4 ≤ r.hostLvl ∧ r.hostStep = 0) (fun e => e.rst = { r with hostStep := 1 })) ∧
      (n = 2 → is (r.hostLvl ≠ 0 ∧ r.hostStep = if 4 ≤ r.hostLvl then 1 else 0)
        (fun e => e.rst = { r with hostStep := 2 } ∧ coreGet e 1 = { run := true, pc := 0 } ∧ ∀ m, m ≠ 1 → coreGet e m = coreGet d m)) ∧
      (n = 3 → is (r.hostStep = 2) (fun e => e.rst = { r with hostStep := 3 })) ∧
      (n = 4 → is (ready ∧ r.hostStep = 3 ∧ 4 ∈ r.go) (fun e => e.rst = { r with hostStep := 4 } ∧ e.hop.state = 0)) ∧
      (n = 5 → is (ready ∧ r.hostStep = 4 ∧ 5 ∈ r.go) (fun e => e.rst = { r with hostStep := 5 } ∧
        (∀ m, isH m = true → coreGet e m = { run := true, pc := (rg d (Reg.RST_HENTRY + (m - 0x10))).toNat }) ∧ ∀ m, isH m = false → coreGet e m = coreGet d m)) ∧
      (n = 6 → is (ready ∧ r.hostStep = 5 ∧ 6 ∈ r.go) (fun e => e.rst = { r with hostStep := 6 })) ∧
      (n = 7 → is (ready ∧ r.hostStep = 6 ∧ 7 ∈ r.go) (fun e => e.rst = { r with hostStep := 7, hostLvl := 0, respHost := false })) ∧
      (n = 8 → is (ready ∧ r.fieldLvl ≠ 0 ∧ r.fieldStep = 0 ∧ d.fld.supplyOk = true ∧ (r.fieldAlone = true ∨ 7 ≤ r.hostStep ∧ 8 ∈ r.go))
        (fun e => e.rst = { r with fieldStep := 8 } ∧ e.lkg.fieldUp = true)) ∧
      (n = 9 → is (ready ∧ r.fieldStep = 8) (fun e => e.rst = { r with fieldStep := 9 })) ∧
      (n = 10 → is (ready ∧ r.fieldStep = 9) (fun e => e.rst = { r with fieldStep := 10, fieldLvl := 0, fieldAlone := false, respField := false }))) ∧
    (∀ n, powered d = false → exec (.resetReleaseStep n) s = .next s) ∧
    (∀ m step, m ≠ 1 ∨ step < 4 ∨ 8 < step ∧ step ≠ 11 → exec (.rstGo m step) s = .next s) ∧
    (∀ m step, ¬ ready → exec (.rstGo m step) s = .next s) ∧
    (∀ step, ready → 4 ≤ step → step ≤ 8 → ∃ t, exec (.rstGo 1 step) s = .next t ∧ t = { s with dev := { d with rst := { r with go := t.dev.rst.go } } } ∧
      ∀ n, n ∈ t.dev.rst.go ↔ n = step ∨ n ∈ r.go) ∧
    (ready → d.fld.imgDone = true → d.fld.started = false → d.lkg.fieldUp = true → ∃ t, exec (.rstGo 1 11) s = .next t ∧ t.dev.fld = { d.fld with started := true } ∧
      t.dev.fmem = d.fmem ∧ ∀ m, isF m = true → coreGet t.dev m = if benchHeld d m then coreGet d m else { run := true, pc := 0 }) ∧
    (d.fld.imgDone = false ∨ d.fld.started = true ∨ d.lkg.fieldUp = false → exec (.rstGo 1 11) s = .next s) ∧
    (∀ m c,
      let may := m = 1 ∧ ready ∧ isH c = true ∧ 5 ≤ r.hostStep ∧ (coreGet d c).run = false ∧ (part d 6 (c - 0x10)).state < 2 ∧ benchHeld d c = false
      (may → ∃ t, exec (.rstCoreGo m c) s = .next t ∧ coreGet t.dev c = { run := true, pc := (rg d (Reg.RST_HENTRY + (c - 0x10))).toNat } ∧
        ∀ n, n ≠ c → coreGet t.dev n = coreGet d n) ∧
      (¬ may → exec (.rstCoreGo m c) s = .next s)) ∧
    (∀ c,
      let may := isF c = true ∧ d.fld.started = true ∧ d.lkg.fieldUp = true ∧ (coreGet d c).run = false ∧ benchHeld d c = false
      (may → ∃ t, exec (.fieldCoreRelease c) s = .next t ∧ coreGet t.dev c = { run := true, pc := 0 } ∧ ∀ n, n ≠ c → coreGet t.dev n = coreGet d n) ∧
      (¬ may → exec (.fieldCoreRelease c) s = .next s)) ∧
    (∀ m v,
      let e := fld v 4 0
      let x := fld v 24 5
      let value := if e ≤ 16 then e ≠ 11 ∧ x ∈ srcPermitted e else e ≤ 26 ∧ (if e = 21 then 50000 else 1000) ≤ x ∧ x ≤ 1048575
      let may := (m = 1 ∨ m = 2) ∧ d.life.state ≤ 1 ∧ tabFind r.fuses e = none ∧ value
      (may → ∃ t, exec (.rstFuseProg m v) s = .next t ∧ t = { s with dev := { d with rst := { r with fuses := t.dev.rst.fuses } } } ∧ fuse t.dev e = some x ∧
        ∀ k, k ≠ e → fuse t.dev k = fuse d k) ∧
      (¬ may → exec (.rstFuseProg m v) s = .next s)) ∧
    (∀ m v,
      (m = 1 → bit v 0 = true → ∃ t, exec (.rstStopClr m v) s = .next t ∧ (∀ i, i < 16 → rg t.dev (Reg.RST_STOP + i) = 0) ∧
        ∀ a, a < Reg.RST_STOP ∨ Reg.RST_STOP + 16 ≤ a → rg t.dev a = rg d a) ∧
      (m ≠ 1 ∨ bit v 0 = false → exec (.rstStopClr m v) s = .next s))

/-- R454, R458, R459, R461, R462: watchdogs, monotonic counters, supplies. -/
def Obligations.WatchdogsAndSupplies : Prop :=
  ∀ s : State,
    let d := s.dev
    let r := d.rst
    (∀ m c, isCore c = true → m = c ∨ m = 1 ∧ isF c = false →
      exec (.watchdogKick m c) s = .next { s with dev := { d with rst := { r with kicks := tabSet false r.kicks c true } } }) ∧
    (∀ m c, ¬ (isCore c = true ∧ (m = c ∨ m = 1 ∧ isF c = false)) → exec (.watchdogKick m c) s = .next s) ∧
    (∀ c,
      let on := isCore c = true ∧ bit (rg d (wdgReg c 0)) 0 = true ∧ (coreGet d c).run = true
      let remain := (rg d (wdgReg c 2)).toNat
      let warn := fld (rg d (wdgReg c 0)) 35 21
      (on → warn ≠ 0 → remain = warn → tabGet false r.warned c = false → ∃ t, exec (.watchdogWarning c) s = .next t ∧
        t = { s with dev := { d with cores := t.dev.cores, rst := { r with warned := tabSet false r.warned c true } } } ∧
        coreGet t.dev c = { coreGet d c with pend := tabSet false (coreGet d c).pend 18 true } ∧ ∀ n, n ≠ c → coreGet t.dev n = coreGet d n) ∧
      (¬ on ∨ warn = 0 ∨ remain ≠ warn ∨ tabGet false r.warned c = true → exec (.watchdogWarning c) s = .next s) ∧
      (on → remain = 0 → ∃ t, exec (.watchdogExpiry c) s = .next t ∧ exec (.resetSourceAssert (if c = 1 then 6 else if isH c then 5 else 7) c) s = .next t) ∧
      (¬ on ∨ remain ≠ 0 → exec (.watchdogExpiry c) s = .next s)) ∧
    (∀ m pl i,
      let may := (m = 1 ∨ isH m = true ∧ pl = 0) ∧ 7 ≤ i ∧ i ≤ 15
      (may → ∃ t, exec (.pwrMoncInc m pl i) s = .next t ∧ t = { s with dev := { d with keep := { d.keep with monc := t.dev.keep.monc } } } ∧
        tabGet 0 t.dev.keep.monc i = min (2 ^ 48 - 1) (tabGet 0 d.keep.monc i + 1) ∧ ∀ n, n ≠ i → tabGet 0 t.dev.keep.monc n = tabGet 0 d.keep.monc n) ∧
      (¬ may → exec (.pwrMoncInc m pl i) s = .next s)) ∧
    (powered d = true → exec .powerGood s = .next s) ∧
    (powered d = false → fusesLegal d = true → ∃ t, exec .powerGood s = .next t ∧ powered t.dev = true ∧ t.dev.rst.keepSrc = 0 ∧ t.dev.rst.keepLost = false ∧
      (r.keepLost = false → ¬ (4 ≤ r.hostLvl ∧ r.hostStep < 2) → t.dev.mem = [] ∧ t.dev.fmem = [] ∧ t.dev.pas.count = 0 ∧ t.dev.rst.hostLvl = max 4 r.hostLvl ∧
        t.dev.rst.hostStep = 0 ∧ t.dev.keep.hold = d.keep.hold ∧ t.dev.keep.rstLast = 4 + 8) ∧
      (r.keepLost = true → ¬ (5 ≤ r.hostLvl ∧ r.hostStep < 2) → t.dev.mem = [] ∧ t.dev.keep.hold = false ∧ t.dev.rst.hostLvl = 5 ∧ t.dev.keep.rstLast = 5 + 16)) ∧
    (∀ rail ext, rail ≤ 3 → fusesLegal d = true → ∃ t, exec (.brownOut rail ext) s = .next t ∧ powered t.dev = false ∧ t.dev.rst.keepSrc = (if ext then 2 else 1) ∧
      t.dev.rst.vin = (r.vin && decide (rail ≠ 0)) ∧ t.dev.rst.vcore = (r.vcore && decide (rail ≠ 1)) ∧ t.dev.rst.vdram = (r.vdram && decide (rail ≠ 2)) ∧
      t.dev.rst.vio = (r.vio && decide (rail ≠ 3)) ∧ t.dev.keep.hold = d.keep.hold ∧ t.dev.tmp.log = d.tmp.log ∧
      (¬ (4 ≤ r.hostLvl ∧ r.hostStep < 2) → t.dev.mem = [] ∧ t.dev.fmem = [] ∧ t.dev.slots = [] ∧ t.dev.rst.hostStep = 0)) ∧
    (∀ rail ext, 3 < rail → exec (.brownOut rail ext) s = .next s) ∧
    (r.vin = true → exec .keepSupplyLost s = .next s) ∧
    (r.vin = false → ∃ t, exec .keepSupplyLost s = .next t ∧ t.dev.keep = {} ∧ t.dev.tmp.log = [] ∧ t.dev.tmp.epoch = d.tmp.epoch ∧ t.dev.rst = { r with keepLost := true } ∧
      t.dev.mem = d.mem ∧ ∀ a, a >>> 16 ≠ 0x06 → rg t.dev a = rg d a)

/-- R321, R360, R364, R451, Tables 12.2, 14.9, 15.1 and the register tables: what the machine holds right after reset, where the spec answers it; and,
the model's own (log entries 1 and 2), that memory and copies of registers that nothing has written read as zero. -/
def Obligations.ResetValues : Prop :=
  let d := State.reset.dev
  State.reset.pending = [] ∧ d.pas.count = 0 ∧ d.life.state = 0 ∧ d.keep.hold = false ∧ d.tmp.log = [] ∧ d.chm.state = .empty ∧ d.hop.state = 0 ∧
  d.lkg.fieldUp = false ∧ d.rst.hostStep = 0 ∧ d.rst.fieldStep = 0 ∧ d.ops = [] ∧
  (∀ i, (slotGet d i).state = 0) ∧ (∀ i, (saGet d i).state = 0) ∧ (∀ r, (ringGet d r).state = .disabled) ∧ (∀ i, tabGet 0 d.keep.monc i = 0) ∧
  (∀ m, let c := coreGet d m
    c.run = false ∧ c.sw = 4 ∧ (∀ r, c.reg r = 0) ∧ (∀ l, tabGet 0 c.sp l = 0 ∧ tabGet 0 c.sl l = 0) ∧ c.spb = 0 ∧ c.slb = 0 ∧ c.vbase = 0 ∧ c.bwFixed = false ∧
      c.resv = none) ∧
  (∀ m r, regionCount m ≠ 0 → r < regionCount m → region d m r =
    if m = 1 then (if r = 0 then ⟨0, 0x3FFFF, 11⟩ else if r = 1 then ⟨0x020000000, 0x02003FFFF, 15⟩ else if r = 2 then ⟨0xF00000000, 0xF00FFFFFF, 7⟩ else ⟨0, 15, 0⟩)
    else if isF m then (if r = 0 then ⟨0, 0xFFFF, 11⟩ else if r = 1 then ⟨0x010000000, 0x01007FFFF, 15⟩ else if r = 2 then ⟨0xF00000000, 0xF00FFFFFF, 7⟩ else ⟨0, 15, 0⟩)
    else if m = 2 ∧ r = 0 then ⟨0, 0xFFFFFFFFF, 7⟩ else ⟨0, 15, 0⟩) ∧
  (∀ e ∈ [(0, 1, 1, 0), (1, 0, 1, 0), (2, 4, 1, 0), (3, 4, 1, 0), (4, 3, 1, 0), (5, 3, 1, 0), (6, 1, 1, 0), (7, 1, 1, 0), (8, 1, 1, 0), (9, 2, 1, 0), (10, 1, 1, 0),
      (11, 4, 1, 0), (12, 3, 1, 0), (13, 3, 1, 0), (14, 0, 1, 0), (15, 3, 1, 0), (16, 4, 1, 0), (17, 5, 1, 0), (18, 5, 1, 0), (19, 5, 1, 0), (20, 1, 1, 0),
      (21, 5, 1, 0), (22, 1, 1, 0), (23, 1, 1, 0), (24, 5, 1, 0), (25, 1, 1, 0), (26, 1, 1, 0), (27, 1, 1, 0), (28, 5, 1, 0), (29, 5, 1, 0), (30, 2, 4, 20000),
      (31, 4, 1, 0), (32, 1, 1, 0), (33, 1, 1, 0), (34, 1, 5, 1200000), (35, 1, 1, 0), (36, 1, 1, 0), (37, 1, 1, 0), (38, 2, 1, 0)],
    tmpResponse d e.1 = e.2.1 ∧ tmpN d e.1 = e.2.2.1 ∧ tmpW d e.1 = e.2.2.2) ∧
  (∀ e ∈ [(Reg.PAS_RQ_KMIN, 0), (Reg.CHM_APPROVAL_LIFE, 20000), (Reg.CLN_INLINE_WINDOW, 8), (Reg.CLN_BUDGET_WHARF, 40000), (Reg.HSH_BUDGET_WHARF, 160000),
      (Reg.KSL_GCM_CAP, 0x100000000), (Reg.GRD_BUDGET_WHARF, 64), (Reg.HOP_RCT_CUTOFF, 41), (Reg.HOP_SW_FILL + 3, 8), (Reg.CRG_BUDGET_WHARF, 1000),
      (Reg.BSN_ENV_MAX_AGE, 1200000), (Reg.LKG_BUDGET + 2, 150), (Reg.TMP_INT_CORES, 256), (Reg.SDH_CTL, 1), (Reg.SDH_APPEND_BUDGET, 64), (Reg.OFC_CLK, 40),
      (Reg.OFC_SESSION_LIFE, 6000000), (Reg.PMU_BW_WINDOW, 20000), (Reg.FLD_POWER_CAP, 640), (Reg.FLD_FLIGHT_CTL + 9, 2 + 4 + 16), (Reg.APT_CEILING + 8 * 77, 10000),
      (Reg.APT_THR + 8 * 5, 48 + 32 * 4096), (Reg.APT_ADJ + 8 * 16, 2), (Reg.APT_ADJ + 8 * 17, 5), (Reg.PNG_PERIOD + 4 * 3, 1600), (Reg.PNG_PHASE + 4 * 3, 300),
      (Reg.CHN_FRAME_BUDGET + 16 * 31, 2), (Reg.CHN_EMU_CTL, 75 + 4 * 128), (Reg.ILS_LINK_LANE + 32 * 3, 6 + 7 * 16), (Reg.MBX_BIND, 0), (Reg.RPL_CTL, 0)],
    (rg d e.1).toNat = e.2) ∧
  ∀ a m, memRd State.reset.dev a = 0 ∧ fmRd State.reset.dev a = 0 ∧ hostRd State.reset.dev a 1 = [0] ∧ pv State.reset.dev m a = 0

/-- The invariant of the model holds right after reset. -/
def Obligations.ResetMeetsInvariant : Prop := State.reset.memWf ∧ fusesLegal State.reset.dev = true

/-- The invariant of the model is kept by every step, from every state: every memory, of the live device and of the two latched ones, stays in its
canonical form (R1 to R4: one word or octet for each address), and every entry of the reset map holds a permitted level (R452). -/
def Obligations.StepsKeepInvariant : Prop :=
  ∀ s t : State, s.memWf → fusesLegal s.dev = true → step s = .next t → t.memWf ∧ fusesLegal t.dev = true

end
end

