-- ==== Sys2Proof/Laws/Tab.lean ====
section
/-! SUPPORT. Laws of the sparse tables: what a read gives after a write, and that every operation keeps the canonical form. -/

namespace Sys2Proof.Machine

variable {α : Type}

/-! ### Reads after writes -/

@[simp] theorem tabGet_nil (d : α) (i : Nat) : tabGet d [] i = d := rfl

@[simp] theorem tabGet_tabPut (d : α) (t : Tab α) (i j : Nat) (x : α) : tabGet d (tabPut t i x) j = if j = i then x else tabGet d t j := by
  induction t with
  | nil => simp [tabPut, tabGet]
  | cons e r ih =>
    obtain ⟨k, v⟩ := e
    simp only [tabPut]
    split
    · subst_vars; by_cases h : j = k <;> simp [tabGet, h]
    · split
      · by_cases h : j = i <;> simp [tabGet, h]
      · simp only [tabGet, ih]
        by_cases h : j = i
        · subst h; simp [*]
        · simp [h]

@[simp] theorem tabGet_tabErase (d : α) (t : Tab α) (i j : Nat) : tabGet d (tabErase t i) j = if j = i then d else tabGet d t j := by
  induction t with
  | nil => simp [tabErase]
  | cons e r ih =>
    obtain ⟨k, v⟩ := e
    simp only [tabErase] at ih ⊢
    by_cases hk : k = i
    · subst hk
      simp only [List.filter, ne_eq, not_true_eq_false, decide_false, ih, tabGet]
      by_cases h : j = k <;> simp [h]
    · simp only [List.filter, ne_eq, hk, not_false_eq_true, decide_true, tabGet, ih]
      by_cases h : j = i
      · subst h; simp [Ne.symm hk]
      · simp [h]

@[simp] theorem tabGet_tabSet [DecidableEq α] (d : α) (t : Tab α) (i j : Nat) (x : α) :
    tabGet d (tabSet d t i x) j = if j = i then x else tabGet d t j := by
  unfold tabSet
  split
  · subst_vars; simp
  · simp

@[simp] theorem tabFind_tabPut (t : Tab α) (i j : Nat) (x : α) : tabFind (tabPut t i x) j = if j = i then some x else tabFind t j := by
  induction t with
  | nil => simp [tabPut, tabFind]
  | cons e r ih =>
    obtain ⟨k, v⟩ := e
    simp only [tabPut]
    split
    · subst_vars; by_cases h : j = k <;> simp [tabFind, h]
    · split
      · by_cases h : j = i <;> simp [tabFind, h]
      · simp only [tabFind, ih]
        by_cases h : j = i
        · subst h; simp [*]
        · simp [h]

@[simp] theorem tabFind_tabErase (t : Tab α) (i j : Nat) : tabFind (tabErase t i) j = if j = i then none else tabFind t j := by
  induction t with
  | nil => simp [tabErase, tabFind]
  | cons e r ih =>
    obtain ⟨k, v⟩ := e
    simp only [tabErase] at ih ⊢
    by_cases hk : k = i
    · subst hk
      simp only [List.filter, ne_eq, not_true_eq_false, decide_false, ih, tabFind]
      by_cases h : j = k <;> simp [h]
    · simp only [List.filter, ne_eq, hk, not_false_eq_true, decide_true, tabFind, ih]
      by_cases h : j = i
      · subst h; simp [Ne.symm hk]
      · simp [h]

/-- A run of writes leaves every key outside it alone. -/
theorem tabGet_tabSetList_of_outside [DecidableEq α] (d : α) (t : Tab α) (i j : Nat) (xs : List α) (h : j < i ∨ i + xs.length ≤ j) :
    tabGet d (tabSetList d t i xs) j = tabGet d t j := by
  induction xs generalizing t i with
  | nil => rfl
  | cons x xs ih =>
    simp only [tabSetList, List.length_cons] at h ⊢
    rw [ih _ _ (by omega), tabGet_tabSet, if_neg (by omega)]

/-- A run of writes read back. -/
theorem tabGet_tabSetList_of_inside [DecidableEq α] (d : α) (t : Tab α) (i k : Nat) (xs : List α) (h : k < xs.length) :
    tabGet d (tabSetList d t i xs) (i + k) = xs[k] := by
  induction xs generalizing t i k with
  | nil => simp at h
  | cons x xs ih =>
    simp only [tabSetList]
    cases k with
    | zero => rw [tabGet_tabSetList_of_outside _ _ _ _ _ (by omega), tabGet_tabSet]; simp
    | succ k =>
      have := ih (tabSet d t i x) (i + 1) k (by simpa using h)
      simpa [Nat.add_assoc, Nat.add_comm 1 k] using this

/-! ### The canonical form -/

/-- Keys strictly rising, as a chain. -/
theorem tabSorted_iff (t : Tab α) : tabSorted t = true ↔ (t.map (·.1)).Pairwise (· < ·) := by
  rw [← List.isChain_iff_pairwise]
  induction t with
  | nil => simp [tabSorted]
  | cons e r ih =>
    obtain ⟨a, x⟩ := e
    cases r with
    | nil => simp [tabSorted]
    | cons f r => obtain ⟨b, y⟩ := f; simp [tabSorted] at ih ⊢; rw [ih]; simp

theorem tabWf_iff [DecidableEq α] (d : α) (t : Tab α) : tabWf d t = true ↔ (t.map (·.1)).Pairwise (· < ·) ∧ ∀ e ∈ t, e.2 ≠ d := by
  simp [tabWf, tabSorted_iff]

@[simp] theorem tabWf_nil [DecidableEq α] (d : α) : tabWf d [] = true := rfl

theorem tabWf_filter [DecidableEq α] (d : α) (t : Tab α) (p : Nat × α → Bool) (h : tabWf d t = true) : tabWf d (t.filter p) = true := by
  rw [tabWf_iff] at h ⊢
  exact ⟨List.Pairwise.sublist (List.Sublist.map _ List.filter_sublist) h.1, fun e he => h.2 e (List.mem_of_mem_filter he)⟩

theorem tabWf_tabErase [DecidableEq α] (d : α) (t : Tab α) (i : Nat) (h : tabWf d t = true) : tabWf d (tabErase t i) = true := tabWf_filter d t _ h

theorem mem_tabPut (t : Tab α) (i : Nat) (x : α) (e : Nat × α) (h : e ∈ tabPut t i x) : e = (i, x) ∨ e ∈ t := by
  induction t with
  | nil => simpa [tabPut] using h
  | cons f r ih =>
    obtain ⟨k, v⟩ := f
    simp only [tabPut] at h
    split at h
    · simp at h ⊢; tauto
    · split at h
      · simp at h ⊢; tauto
      · simp at h ⊢
        rcases h with h | h
        · tauto
        · rcases ih h with h | h <;> tauto

theorem tabWf_tabPut [DecidableEq α] (d : α) (t : Tab α) (i : Nat) (x : α) (hx : x ≠ d) (h : tabWf d t = true) : tabWf d (tabPut t i x) = true := by
  rw [tabWf_iff] at h ⊢
  refine ⟨?_, fun e he => ?_⟩
  · have h1 := h.1
    clear h
    induction t with
    | nil => simp [tabPut]
    | cons f r ih =>
      obtain ⟨k, v⟩ := f
      simp only [tabPut]
      simp only [List.map_cons, List.pairwise_cons] at h1
      split
      · subst_vars; simpa using h1
      · split
        · simp only [List.map_cons, List.pairwise_cons]
          refine ⟨?_, h1⟩
          intro a ha
          rcases List.mem_cons.1 ha with ha | ha
          · subst ha; show i < _; omega
          · have := h1.1 a ha; show i < a; omega
        · simp only [List.map_cons, List.pairwise_cons, List.mem_map]
          refine ⟨?_, ih h1.2⟩
          rintro a ⟨e, he, rfl⟩
          rcases mem_tabPut _ _ _ _ he with rfl | he
          · show k < i; omega
          · exact h1.1 _ (List.mem_map_of_mem he)
  · rcases mem_tabPut _ _ _ _ he with rfl | he
    · exact hx
    · exact h.2 e he

theorem tabWf_tabSet [DecidableEq α] (d : α) (t : Tab α) (i : Nat) (x : α) (h : tabWf d t = true) : tabWf d (tabSet d t i x) = true := by
  unfold tabSet
  split
  · exact tabWf_tabErase d t i h
  · exact tabWf_tabPut d t i x ‹_› h

theorem tabWf_tabSetList [DecidableEq α] (d : α) (t : Tab α) (i : Nat) (xs : List α) (h : tabWf d t = true) :
    tabWf d (tabSetList d t i xs) = true := by
  induction xs generalizing t i with
  | nil => exact h
  | cons x xs ih => exact ih _ _ (tabWf_tabSet d t i x h)

end Sys2Proof.Machine
end

