-- ==== Sys2Proof/Laws/Core.lean ====
section
/-! SUPPORT. Laws of the cores: registers, what an instruction that issues leaves, and the frame of retirement. -/

namespace Sys2Proof.Machine

/-! ### Cores of a device -/

@[simp] theorem coreGet_onCore (d : Dev) (m n : Nat) (f : Core → Core) :
    coreGet (onCore d m f) n = if n = m then f (coreGet d m) else coreGet d n := by
  simp [onCore, coreSet, coreGet]

theorem onCore_frame (d : Dev) (m : Nat) (f : Core → Core) : onCore d m f = { d with cores := (onCore d m f).cores } := rfl

@[simp] theorem onCore_regs (d : Dev) (m : Nat) (f : Core → Core) : (onCore d m f).regs = d.regs := rfl

@[simp] theorem rg_onCore (d : Dev) (m a : Nat) (f : Core → Core) : rg (onCore d m f) a = rg d a := rfl

/-! ### Register words -/

/-- A register word read after a write of one. -/
@[simp] theorem rg_rgSet (d : Dev) (a b : Nat) (v : Word) : rg (rgSet d a v) b = if b = a then v else rg d b := by
  unfold rg rgSet regsSet
  split
  · simp only [tabFind_tabErase]; split <;> simp_all
  · simp only [tabFind_tabPut]; split <;> simp_all

/-- Only register words of core m's PMU group differ. -/
def PmuOnly (m : Nat) (d t : Dev) : Prop := t = { d with regs := t.regs } ∧ ∀ a, a / 256 ≠ 0x1800 + m → rg t a = rg d a

theorem PmuOnly.refl (m : Nat) (d : Dev) : PmuOnly m d d := ⟨rfl, fun _ _ => rfl⟩

theorem PmuOnly.trans {m : Nat} {d t u : Dev} (h : PmuOnly m d t) (k : PmuOnly m t u) : PmuOnly m d u := by
  refine ⟨?_, fun a ha => (k.2 a ha).trans (h.2 a ha)⟩
  rw [k.1, h.1]

theorem pmuOnly_rgSet (m k : Nat) (d : Dev) (v : Word) (hk : k < 256) : PmuOnly m d (rgSet d (pmuReg m k) v) := by
  refine ⟨rfl, fun a ha => ?_⟩
  rw [rg_rgSet, if_neg]
  rintro rfl
  apply ha
  simp only [pmuReg]; omega

theorem pmuOnly_store (m lo v : Nat) (d : Dev) (h : lo < 255) : PmuOnly m d (pmuStore d m lo v) :=
  (pmuOnly_rgSet m lo d _ (by omega)).trans (pmuOnly_rgSet m (lo + 1) _ _ (by omega))

theorem pmuOnly_advance (m lo ovf n : Nat) (d : Dev) (h : lo < 255) : PmuOnly m d (pmuAdvance m lo ovf n d) := by
  unfold pmuAdvance
  dsimp only
  split
  · exact pmuOnly_store m lo _ d h
  · exact (pmuOnly_store m lo _ d h).trans (pmuOnly_rgSet m 2 _ _ (by omega))

theorem pmuOnly_foldl {m : Nat} {α : Type} (f : Dev → α → Dev) (l : List α) (h : ∀ d, ∀ x ∈ l, PmuOnly m d (f d x)) (d : Dev) :
    PmuOnly m d (l.foldl f d) := by
  induction l generalizing d with
  | nil => exact PmuOnly.refl m d
  | cons a l ih => exact (h d a (by simp)).trans (ih (fun d x hx => h d x (by simp [hx])) _)

theorem pmuOnly_events (m pl : Nat) (codes : List Nat) (d : Dev) : PmuOnly m d (pmuEvents m pl codes d) := by
  refine pmuOnly_foldl _ _ (fun d i hi => ?_) d
  have : i < 8 := by simpa using hi
  dsimp only
  split
  · exact pmuOnly_advance m _ _ _ d (by omega)
  · exact PmuOnly.refl m d

/-- Retirement counts in the core's own PMU group, and changes nothing else. -/
theorem pmuOnly_retire (m pl : Nat) (codes : List Nat) (d : Dev) : PmuOnly m d (pmuRetire m pl codes d) := by
  unfold pmuRetire
  split
  · exact (pmuOnly_advance m 6 9 1 d (by omega)).trans (pmuOnly_events m pl codes _)
  · exact pmuOnly_events m pl codes d

/-! ### Issue -/

theorem ready_live {x : Issue} {d : Dev} (h : ready x d = true) : coreLive d x.core = true := by simp_all [ready]
theorem ready_run {x : Issue} {d : Dev} (h : ready x d = true) : (coreGet d x.core).run = true := by
  have := ready_live h; simp_all [coreLive]
theorem ready_waiting {x : Issue} {d : Dev} (h : ready x d = true) : (coreGet d x.core).waiting.isSome = false := by
  simp_all [ready]
theorem ready_quiet {x : Issue} {d : Dev} (h : ready x d = true) : takable d x.core = none := by simp_all [ready]
theorem ready_replayed {x : Issue} {d : Dev} (h : ready x d = true) : replayed d x.core = false := by simp_all [ready]
theorem ready_fetch {x : Issue} {d : Dev} (h : ready x d = true) : fetchFault x d = none := by simp_all [ready]
theorem ready_data {x : Issue} {d : Dev} (h : ready x d = true) : x.data = none := by simp_all [ready]
theorem ready_vec {x : Issue} {d : Dev} (h : ready x d = true) : x.vec = {} := by simp_all [ready]
theorem ready_word {x : Issue} {d : Dev} (h : ready x d = true) : badWord x = false := by simp_all [ready]
theorem ready_media {x : Issue} {d : Dev} (h : ready x d = true) : x.media = none := by simp_all [ready]

theorem noteMedia_none (x : Issue) (k a : Nat) (d : Dev) (h : x.media = none) : noteMedia x k a d = d := by simp [noteMedia, mediaErr, h]
theorem noteLoads_none (x : Issue) (k a n : Nat) (d : Dev) (h : x.media = none) : noteLoads x k a n d = d := by
  simp only [noteLoads, noteMedia_none _ _ _ _ h]
  induction List.range n with
  | nil => rfl
  | cons _ _ ih => exact ih

theorem resetEvents_of_not_replayed (m n : Nat) (d : Dev) (h : replayed d m = false) : resetEvents m n d = d := by
  cases n <;> simp [resetEvents, h]

/-- An instruction of a ready core does what its body does: it retires, or its fault is taken. -/
theorem issueWith_ready (a r : Bool) (x : Issue) (f : Dev → Res) (d : Dev) (h : ready x d = true) :
    issueWith a r x f d = match f d with
      | .error (e, d) => raiseFault {} x.core e (onCore d x.core (fun c => { c with stepOne := false }))
      | .ok (t, codes) => if r then retire x.core (coreGet d x.core).pl codes t else onCore t x.core (fun c => { c with stepOne := false }) := by
  have h7 : takeInterrupts {} x.core 7 d = (false, d) := by simp [takeInterrupts, ready_quiet h]
  have hm : mayIssue d x.core = true := by simp [mayIssue, ready_replayed h]
  simp only [issueWith, resetEvents_of_not_replayed _ _ _ (ready_replayed h), ready_live h, h7, ready_waiting h, hm, ready_fetch h, noteMedia_none _ _ _ _ (ready_media h), ready_vec h,
    ready_word h, Bool.false_eq_true, if_false]
  rcases f d with ⟨e, t⟩ | ⟨t, codes⟩ <;> simp

theorem issue_ready (x : Issue) (f : Dev → Res) (d : Dev) (h : ready x d = true) :
    issue x f d = match f (notBlock x.core d) with
      | .error (e, d) => raiseFault {} x.core e (onCore d x.core (fun c => { c with stepOne := false }))
      | .ok (t, codes) => retire x.core (coreGet d x.core).pl codes t := by
  simp only [issue, issueWith_ready _ _ _ _ _ h, if_true]

@[simp] theorem coreGet_notBlock (m n : Nat) (d : Dev) :
    coreGet (notBlock m d) n = if n = m then { coreGet d m with inBlock := false } else coreGet d n := coreGet_onCore d m n _

@[simp] theorem reg_notBlock (c : Core) (i : Nat) : Core.reg { c with inBlock := false } i = c.reg i := rfl

/-! ### A general register written -/

@[simp] theorem reg_zero (c : Core) : c.reg 0 = 0 := rfl

/-- A general register read after a write of one: G0 reads zero. -/
@[simp] theorem reg_setReg (c : Core) (i j : Nat) (v : Word) : (c.setReg i v).reg j = if j = 0 then 0 else if j = i then v else c.reg j := by
  unfold Core.setReg Core.reg
  by_cases h : j = 0
  · simp [h]
  · by_cases hi : i = 0
    · subst hi; simp [h]
    · simp [h, hi]

/-- A write of a general register changes the general registers alone. -/
theorem setReg_frame (c : Core) (i : Nat) (v : Word) : c.setReg i v = { c with g := (c.setReg i v).g } := by
  unfold Core.setReg; split <;> rfl

@[simp] theorem setReg_run (c : Core) (i : Nat) (v : Word) : (c.setReg i v).run = c.run := by rw [setReg_frame]
@[simp] theorem setReg_pc (c : Core) (i : Nat) (v : Word) : (c.setReg i v).pc = c.pc := by rw [setReg_frame]
@[simp] theorem setReg_sw (c : Core) (i : Nat) (v : Word) : (c.setReg i v).sw = c.sw := by rw [setReg_frame]
@[simp] theorem setReg_progress (c : Core) (i : Nat) (v : Word) : (c.setReg i v).progress = c.progress := by rw [setReg_frame]
@[simp] theorem setReg_zero (c : Core) (v : Word) : c.setReg 0 v = c := rfl

theorem setReg_inBlock (c : Core) (i : Nat) (v : Word) (b : Bool) :
    Core.setReg { c with inBlock := b } i v = { c.setReg i v with inBlock := b } := by
  unfold Core.setReg; split <;> rfl

/-! ### An instruction that retires -/

/-- What retirement does: the core's record advances by one, its PMU group may count, and nothing else changes. -/
theorem ran_retire (m pl : Nat) (codes : List Nat) (s : State) (u : Dev) (c : Core) (hu : u = { s.dev with cores := u.cores })
    (hc : coreGet u m = c) (hrun : c.run = true) (hn : ∀ n, n ≠ m → coreGet u n = coreGet s.dev n) :
    Ran m { c with progress := c.progress + 1, stepOne := false } s { s with dev := retire m pl codes u } := by
  simp only [retire]
  rw [if_neg (by simp [hc, hrun])]
  generalize hv : onCore u m (fun c => { c with progress := c.progress + 1, stepOne := false }) = v
  obtain ⟨h1, h2⟩ := pmuOnly_retire m pl codes v
  have hcores : (pmuRetire m pl codes v).cores = v.cores := (congrArg Dev.cores h1 :)
  have hcg : ∀ n, coreGet (pmuRetire m pl codes v) n = coreGet v n := fun n => by simp only [coreGet, hcores]
  refine ⟨?_, ?_, fun n hn' => ?_, fun a ha => ?_⟩
  · simp only [State.mk.injEq, and_true]
    refine h1.trans ?_
    rw [hcores, ← hv, onCore_frame, hu]
  · rw [hcg, ← hv, coreGet_onCore, if_pos rfl, hc]
  · rw [hcg, ← hv, coreGet_onCore, if_neg hn', hn n hn']
  · rw [h2 a ha, ← hv, rg_onCore, hu]; rfl

/-- An instruction whose body changes its core's record alone. -/
theorem ran_issue (x : Issue) (f : Dev → Res) (g : Core → Core) (codes : List Nat) (s : State) (h : ready x s.dev = true)
    (hr : ∀ c : Core, (g c).run = c.run)
    (hf : f (notBlock x.core s.dev) = .ok (onCore (notBlock x.core s.dev) x.core g, codes)) :
    ∃ t, onDev (issue x f) s = .next t ∧
      Ran x.core { g { coreGet s.dev x.core with inBlock := false } with
        progress := (g { coreGet s.dev x.core with inBlock := false }).progress + 1, stepOne := false } s t := by
  refine ⟨_, rfl, ?_⟩
  rw [issue_ready _ _ _ h, hf]
  refine ran_retire _ _ _ _ _ _ rfl (by simp) ?_ (fun n hn => ?_)
  · rw [hr]; exact ready_run h
  · simp [hn]

end Sys2Proof.Machine
end

