-- ==== Sys2Proof/Laws/Alu.lean ====
section
/-! SUPPORT. One law for each shared form of the arithmetic instructions: what a ready core's instruction of that form leaves. -/

namespace Sys2Proof.Machine

theorem finishWith_of_run (m : Nat) (f : Core → Core) (codes : List Nat) (d : Dev) (h : (coreGet d m).run = true) :
    finishWith m f codes d = .ok (onCore d m (fun c => (f c).next), codes) := by simp [finishWith, h]

/-- An instruction that changes general registers and flags, then goes on. -/
theorem ran_finish (x : Issue) (f : Dev → Res) (g : Core → Core) (codes : List Nat) (s : State) (h : ready x s.dev = true)
    (hr : ∀ c : Core, (g c).run = c.run) (hb : ∀ (c : Core), g { c with inBlock := false } = { g c with inBlock := false })
    (hp : ∀ c : Core, (g c).pc = c.pc)
    (hf : f (notBlock x.core s.dev) = finishWith x.core g codes (notBlock x.core s.dev)) :
    ∃ t, onDev (issue x f) s = .next t ∧ Ran x.core { (g (coreGet s.dev x.core)).stepped with pc := wrap36 ((coreGet s.dev x.core).pc + 1) } s t := by
  obtain ⟨t, e, r⟩ := ran_issue x f (fun c => (g c).next) codes s h (fun c => by simp [Core.next, hr])
    (by rw [hf, finishWith_of_run _ _ _ _ (by simp [ready_run h])])
  refine ⟨t, e, ?_⟩
  convert r using 1
  simp only [Core.next, Core.stepped, Core.retired, hb, hp]

theorem alu3_ran (op : Word → Word → Word) (x : Issue) (rd ra rb : Nat) (s : State) (h : ready x s.dev = true) (h1 : rd < 32)
    (h2 : ra < 32) (h3 : rb < 32) :
    ∃ t, onDev (alu3 op x rd ra rb) s = .next t ∧
      Ran x.core ((coreGet s.dev x.core).setReg rd (op ((coreGet s.dev x.core).reg ra) ((coreGet s.dev x.core).reg rb))).stepped s t := by
  obtain ⟨t, e, r⟩ := ran_finish x (fun d => if regsOk [rd, ra, rb] then finishWith x.core (fun c => c.setReg rd (op (c.reg ra) (c.reg rb))) [] d else encFault x.core d)
      (fun c => c.setReg rd (op (c.reg ra) (c.reg rb))) [] s h (by simp)
    (fun c => by simp [reg_notBlock, setReg_inBlock]) (by simp) (if_pos (by simp [regsOk, h1, h2, h3]))
  exact ⟨t, e, by convert r using 1; simp [Core.stepped, Core.retired]⟩

theorem alu3f_ran (op : Bool → Word → Word → Word × Flags) (x : Issue) (rd ra rb : Nat) (s : State) (h : ready x s.dev = true)
    (h1 : rd < 32) (h2 : ra < 32) (h3 : rb < 32) :
    let c := coreGet s.dev x.core
    let r := op (flagsOf c.sw).c (c.reg ra) (c.reg rb)
    ∃ t, onDev (alu3f op x rd ra rb) s = .next t ∧ Ran x.core { c.setReg rd r.1 with sw := withFlags c.sw r.2 }.stepped s t := by
  intro c r
  obtain ⟨t, e, k⟩ := ran_finish x (fun d => if regsOk [rd, ra, rb] then finishWith x.core (fun c => let r := op (flagsOf c.sw).c (c.reg ra) (c.reg rb)
        { c.setReg rd r.1 with sw := withFlags c.sw r.2 }) [] d else encFault x.core d)
      (fun c => let r := op (flagsOf c.sw).c (c.reg ra) (c.reg rb)
      { c.setReg rd r.1 with sw := withFlags c.sw r.2 }) [] s h (by simp)
    (fun c => by simp [reg_notBlock, setReg_inBlock]) (by simp) (if_pos (by simp [regsOk, h1, h2, h3]))
  exact ⟨t, e, by convert k using 1; simp [Core.stepped, Core.retired, c, r]⟩

theorem aluI_ran (op : Word → Nat → Word) (x : Issue) (rd ra imm : Nat) (s : State) (h : ready x s.dev = true) (h1 : rd < 32)
    (h2 : ra < 32) (h3 : imm < 2 ^ 18) :
    ∃ t, onDev (aluI op x rd ra imm) s = .next t ∧
      Ran x.core ((coreGet s.dev x.core).setReg rd (op ((coreGet s.dev x.core).reg ra) imm)).stepped s t := by
  obtain ⟨t, e, r⟩ := ran_finish x (fun d => if regsOk [rd, ra] ∧ imm < 2 ^ 18 then finishWith x.core (fun c => c.setReg rd (op (c.reg ra) imm)) [] d else encFault x.core d)
      (fun c => c.setReg rd (op (c.reg ra) imm)) [] s h (by simp)
    (fun c => by simp [reg_notBlock, setReg_inBlock]) (by simp) (if_pos ⟨by simp [regsOk, h1, h2], h3⟩)
  exact ⟨t, e, by convert r using 1; simp [Core.stepped, Core.retired]⟩

theorem aluIf_ran (op : Word → Word → Word × Flags) (x : Issue) (rd ra imm : Nat) (s : State) (h : ready x s.dev = true)
    (h1 : rd < 32) (h2 : ra < 32) (h3 : imm < 2 ^ 18) :
    let c := coreGet s.dev x.core
    let r := op (c.reg ra) (sext 18 imm)
    ∃ t, onDev (aluIf op x rd ra imm) s = .next t ∧ Ran x.core { c.setReg rd r.1 with sw := withFlags c.sw r.2 }.stepped s t := by
  intro c r
  obtain ⟨t, e, k⟩ := ran_finish x (fun d => if regsOk [rd, ra] ∧ imm < 2 ^ 18 then
        finishWith x.core (fun c => let r := op (c.reg ra) (sext 18 imm); { c.setReg rd r.1 with sw := withFlags c.sw r.2 }) [] d else encFault x.core d)
      (fun c => let r := op (c.reg ra) (sext 18 imm)
      { c.setReg rd r.1 with sw := withFlags c.sw r.2 }) [] s h (by simp)
    (fun c => by simp [reg_notBlock, setReg_inBlock]) (by simp) (if_pos ⟨by simp [regsOk, h1, h2], h3⟩)
  exact ⟨t, e, by convert k using 1; simp [Core.stepped, Core.retired, c, r]⟩

theorem shiftI_ran (op : Word → Nat → Word) (x : Issue) (rd ra sh : Nat) (s : State) (h : ready x s.dev = true) (h1 : rd < 32)
    (h2 : ra < 32) (h3 : sh < 36) :
    ∃ t, onDev (shiftI op x rd ra sh) s = .next t ∧
      Ran x.core ((coreGet s.dev x.core).setReg rd (op ((coreGet s.dev x.core).reg ra) sh)).stepped s t := by
  obtain ⟨t, e, r⟩ := ran_finish x (fun d => if regsOk [rd, ra] ∧ sh < 36 then finishWith x.core (fun c => c.setReg rd (op (c.reg ra) sh)) [] d else encFault x.core d)
      (fun c => c.setReg rd (op (c.reg ra) sh)) [] s h (by simp)
    (fun c => by simp [reg_notBlock, setReg_inBlock]) (by simp) (if_pos ⟨by simp [regsOk, h1, h2], h3⟩)
  exact ⟨t, e, by convert r using 1; simp [Core.stepped, Core.retired]⟩

theorem divide_ran (op : Word → Word → Word) (x : Issue) (rd ra rb : Nat) (s : State) (h : ready x s.dev = true) (h1 : rd < 32)
    (h2 : ra < 32) (h3 : rb < 32) (hb : (coreGet s.dev x.core).reg rb ≠ 0) :
    ∃ t, onDev (divide op x rd ra rb) s = .next t ∧
      Ran x.core ((coreGet s.dev x.core).setReg rd (op ((coreGet s.dev x.core).reg ra) ((coreGet s.dev x.core).reg rb))).stepped s t := by
  obtain ⟨t, e, r⟩ := ran_finish x (fun d => if ¬ regsOk [rd, ra, rb] then encFault x.core d
      else if (coreGet d x.core).reg rb = 0 then divFault x.core d
      else finishWith x.core (fun c => c.setReg rd (op (c.reg ra) (c.reg rb))) [] d) (fun c => c.setReg rd (op (c.reg ra) (c.reg rb))) [] s h
    (by simp) (fun c => by simp [reg_notBlock, setReg_inBlock]) (by simp)
    (by rw [if_neg (by simp [regsOk, h1, h2, h3]), if_neg (by simpa [reg_notBlock] using hb)])
  exact ⟨t, e, by convert r using 1; simp [Core.stepped, Core.retired]⟩

end Sys2Proof.Machine
end

