-- ==== Sys2Proof/Laws/LoadStore.lean ====
section
/-! SUPPORT. Laws of a core's memory accesses: what a store leaves, and when a load or store is permitted. -/

namespace Sys2Proof.Machine

/-! ### Reservations lost -/

theorem tabGet_map (f : Nat → Core → Core) (t : Tab Core) (n : Nat) (h : f n {} = {}) :
    tabGet {} (t.map (fun e => (e.1, f e.1 e.2))) n = f n (tabGet {} t n) := by
  induction t with
  | nil => exact h.symm
  | cons e r ih =>
    obtain ⟨k, c⟩ := e
    simp only [List.map_cons, tabGet]
    split
    · subst_vars; rfl
    · exact ih

/-- The reservation of core k after a write of n words from a on by `own` on an island. -/
def lost (own : Option Nat) (field : Bool) (a n k : Nat) (c : Core) : Core :=
  if some k = own ∨ decide (0x20 ≤ k ∧ k ≤ 0x23) ≠ field then c
  else match c.resv with
    | some g => if a / 8 ≤ g ∧ g ≤ (a + n - 1) / 8 ∧ n ≠ 0 then { c with resv := none } else c
    | none => c

theorem coreGet_loseResv (d : Dev) (own : Option Nat) (field : Bool) (a n k : Nat) :
    coreGet (loseResv d own field a n) k = lost own field a n k (coreGet d k) := by
  have h : lost own field a n k {} = {} := by simp [lost]
  rw [coreGet, coreGet, ← tabGet_map (lost own field a n) d.cores k h]
  simp only [loseResv]
  congr 1
  apply List.map_congr_left
  intro e _
  simp only [lost]
  split
  · rfl
  · cases e.2.resv with
    | none => rfl
    | some g => dsimp only; split <;> rfl

theorem loseResv_frame (d : Dev) (own : Option Nat) (field : Bool) (a n : Nat) :
    loseResv d own field a n = { d with cores := (loseResv d own field a n).cores } := rfl

theorem lost_self (m : Nat) (field : Bool) (a n : Nat) (c : Core) : lost (some m) field a n m c = c := by simp [lost]

/-- A store of one word by core m, for another core. -/
theorem lost_other (m k a : Nat) (c : Core) (hk : k ≠ m) (hr : romWord m a = false) :
    lost (some m) (isF m) a 1 k c = c.afterStore m a 1 k := by
  have h1 : decide (0x20 ≤ k ∧ k ≤ 0x23) = isF k := by simp [isF]
  simp only [lost, Core.afterStore, h1]
  cases hc : c.resv with
  | none => simp
  | some g =>
    by_cases hi : isF k = isF m
    · have h2 : ¬ (some k = some m ∨ isF k ≠ isF m) := by simp [hi, hk]
      simp only [if_neg h2]
      by_cases hg : a / 8 = g
      · rw [if_pos (by omega), if_pos (by simp [hi, hr, hg])]
      · rw [if_neg (by omega), if_neg (by simp [hg])]
    · simp [hi]

/-! ### One word stored -/

/-- What a core's store of one word does. -/
theorem coreWrite_spec (m a : Nat) (v : Word) (d : Dev) :
    let u := coreWrite m a v d
    u = { d with cores := u.cores, mem := u.mem, fmem := u.fmem } ∧ coreGet u m = coreGet d m ∧
      (∀ n, n ≠ m → coreGet u n = (coreGet d n).afterStore m a 1 n) ∧
      (∀ b, ramWord u m b = if storedAt m a 1 b then v else ramWord d m b) ∧ (if isF m then u.mem = d.mem else u.fmem = d.fmem) := by
  intro u
  by_cases hr : romWord m a = true
  · have hu : u = d := by simp [u, coreWrite, hr]
    rw [hu]
    refine ⟨rfl, rfl, fun n _ => ?_, fun b => ?_, by split <;> rfl⟩
    · simp only [Core.afterStore]; split <;> simp [hr]
    · have : storedAt m a 1 b = false := by
        simp only [storedAt, Bool.and_eq_false_iff, decide_eq_false_iff_not, Bool.not_eq_false']
        by_cases hb : b = a
        · exact .inr (hb ▸ hr)
        · left; omega
      simp [this]
  · have hr : romWord m a = false := by simpa using hr
    by_cases hf : isF m = true
    · have hu : u = loseResv { d with fmem := tabSet 0 d.fmem a v } (some m) true a 1 := by simp [u, coreWrite, hr, hf]
      refine ⟨by rw [hu]; rfl, by rw [hu, coreGet_loseResv, lost_self]; rfl, fun n hn => ?_, fun b => ?_, by rw [hu, if_pos hf]; rfl⟩
      · rw [hu, coreGet_loseResv, ← hf, lost_other _ _ _ _ hn hr]; rfl
      · simp only [ramWord, hf, if_true, fmRd, hu, loseResv, tabGet_tabSet]
        by_cases hb : b = a
        · subst hb; simp [storedAt, hr]
        · rw [if_neg hb, if_neg (by simp [storedAt]; intros; omega)]
    · have hf : isF m = false := by simpa using hf
      have hu : u = loseResv { d with mem := tabSet 0 d.mem a v } (some m) false a 1 := by simp [u, coreWrite, hr, hf]
      refine ⟨by rw [hu]; rfl, by rw [hu, coreGet_loseResv, lost_self]; rfl, fun n hn => ?_, fun b => ?_, by rw [hu]; simp [hf, loseResv]⟩
      · rw [hu, coreGet_loseResv, ← hf, lost_other _ _ _ _ hn hr]; rfl
      · simp only [ramWord, hf, memRd, hu, loseResv, tabGet_tabSet]
        by_cases hb : b = a
        · subst hb; simp [storedAt, hr]
        · simp only [if_neg hb, Bool.false_eq_true, if_false]; rw [if_neg (by simp [storedAt]; intros; omega)]

/-- The words of a list stored one after another from a on. -/
def coreWrites (m : Nat) : Nat → List Word → Dev → Dev
  | _, [], d => d
  | a, w :: ws, d => coreWrites m (a + 1) ws (coreWrite m a w d)

theorem afterStore_cons (m a n k : Nat) (c : Core) : (c.afterStore m a 1 k).afterStore m (a + 1) n k = c.afterStore m a (n + 1) k := by
  unfold Core.afterStore
  cases hc : c.resv with
  | none => simp [hc]
  | some g =>
    simp only [List.range_one, List.any_cons, List.any_nil, Bool.or_false, Nat.add_zero]
    by_cases hi : isF k = isF m
    · by_cases h0 : (!romWord m a && decide (a / 8 = g)) = true
      · simp only [hi, h0, and_self, if_true]
        rw [if_pos]
        refine ⟨trivial, ?_⟩
        rw [List.any_eq_true]; exact ⟨0, by simp, h0⟩
      · simp only [hi, h0, hc, true_and, if_false, Bool.false_eq_true]
        rw [List.range_succ_eq_map, List.any_cons, List.any_map]
        simp only [Nat.add_zero, h0, Bool.false_or]
        congr 1
        simp only [Function.comp_def, Nat.succ_eq_add_one, Nat.add_assoc, Nat.add_comm 1]
    · simp [hi, hc]

theorem coreWrites_spec (m a : Nat) (ws : List Word) (d : Dev) :
    let u := coreWrites m a ws d
    u = { d with cores := u.cores, mem := u.mem, fmem := u.fmem } ∧ coreGet u m = coreGet d m ∧
      (∀ n, n ≠ m → coreGet u n = (coreGet d n).afterStore m a ws.length n) ∧
      (∀ b, ramWord u m b = if storedAt m a ws.length b then ws.getD (b - a) 0 else ramWord d m b) ∧
      (if isF m then u.mem = d.mem else u.fmem = d.fmem) := by
  induction ws generalizing a d with
  | nil =>
    refine ⟨rfl, rfl, fun n _ => ?_, fun b => ?_, by split <;> rfl⟩
    · simp only [Core.afterStore, List.length_nil, List.range_zero, List.any_nil]; split <;> simp [coreWrites]
    · rw [if_neg]; · rfl
      simp [storedAt]
  | cons w ws ih =>
    simp only [coreWrites, List.length_cons]
    obtain ⟨a1, a2, a3, a4, a5⟩ := coreWrite_spec m a w d
    obtain ⟨b1, b2, b3, b4, b5⟩ := ih (a + 1) (coreWrite m a w d)
    refine ⟨?_, b2.trans a2, fun n hn => ?_, fun b => ?_, ?_⟩
    · refine b1.trans ?_; rw [a1]
    · rw [b3 n hn, a3 n hn, afterStore_cons]
    · rw [b4, a4]
      by_cases h1 : storedAt m (a + 1) ws.length b = true
      · rw [if_pos h1]
        simp only [storedAt, Bool.and_eq_true, decide_eq_true_eq] at h1
        rw [if_pos (by simp only [storedAt, Bool.and_eq_true, decide_eq_true_eq]; exact ⟨by omega, h1.2⟩)]
        obtain ⟨k, hk⟩ : ∃ k, b - a = k + 1 := ⟨b - a - 1, by omega⟩
        rw [hk, show b - (a + 1) = k by omega]; rfl
      · rw [if_neg h1]
        by_cases hb : b = a
        · subst hb
          have : storedAt m b 1 b = storedAt m b (ws.length + 1) b := by simp [storedAt]
          rw [this]; simp
        · rw [if_neg (by simp [storedAt]; intros; omega), if_neg]
          simp only [storedAt, Bool.and_eq_true, decide_eq_true_eq] at h1 ⊢
          intro h; exact h1 ⟨by omega, h.2⟩
    · split at a5
      · rename_i hf; rw [if_pos hf] at b5 ⊢; exact b5.trans a5
      · rename_i hf; rw [if_neg hf] at b5 ⊢; exact b5.trans a5

/-! ### Checks that pass -/

@[simp] theorem readable_notBlock (m k pl a : Nat) (d : Dev) : readable m pl a (notBlock k d) = readable m pl a d := rfl
@[simp] theorem writable_notBlock (m k pl a : Nat) (d : Dev) : writable m pl a (notBlock k d) = writable m pl a d := rfl
@[simp] theorem coreWord_notBlock (m k a : Nat) (d : Dev) : coreWord (notBlock k d) m a = coreWord d m a := rfl
@[simp] theorem replayed_notBlock (m k : Nat) (d : Dev) : replayed (notBlock k d) m = replayed d m := rfl

theorem readable_iff (m pl a : Nat) (d : Dev) : readable m pl a d = true ↔ deviceSpace m a = false ∧ refusal d m m pl 0 a = none := by
  simp [readable]
theorem writable_iff (m pl a : Nat) (d : Dev) : writable m pl a d = true ↔ deviceSpace m a = false ∧ refusal d m m pl 1 a = none := by
  simp [writable]

theorem mpuFault_of_granted (m pl right access a n : Nat) (d : Dev) (h : ∀ i < n, refusal d m m pl right (wrap36 (a + i)) = none) :
    mpuFault m pl right access a n d = none := by
  have : (List.range n).findSome? (fun i => (refusal d m m pl right (wrap36 (a + i))).map (fun t => (wrap36 (a + i), t))) = none := by
    rw [List.findSome?_eq_none_iff]; intro i hi; simp [h i (by simpa using hi)]
  simp [mpuFault, this]

/-- Words read when every check passes. -/
theorem loadWords_of_granted (x : Issue) (pl access a k n : Nat) (d : Dev) (h : ∀ i < n, refusal d x.core x.core pl 0 (wrap36 (a + i)) = none)
    (hd : x.data = none) (hm : x.media = none) (hr : replayed d x.core = false) :
    loadWords x pl access a k n d = .ok ((List.range n).map (fun i => coreWord d x.core (wrap36 (a + i)))) := by
  have h2 : (List.range n).findSome? (fun i => integrity x access (k + i) (wrap36 (a + i)) d) = none := by
    rw [List.findSome?_eq_none_iff]; intro i _; simp [integrity, dataWcc, mediaErr, hd, hm, hr]
  simp only [loadWords, mpuFault_of_granted _ _ _ _ _ _ _ h, h2]

theorem foldl_putWord (x : Issue) (hd : x.data = none) (a : Nat) (ws : List Word) (i : Nat) (d : Dev) (h : a + i + ws.length ≤ 2 ^ 36) :
    (ws.zipIdx i).foldl (fun d w => putWord x w.2 (wrap36 (a + w.2)) w.1 d) d = coreWrites x.core (a + i) ws d := by
  induction ws generalizing i d with
  | nil => rfl
  | cons w ws ih =>
    simp only [List.zipIdx_cons, List.foldl_cons, List.length_cons] at h ⊢
    rw [ih (i + 1) _ (by omega), coreWrites]
    have : wrap36 (a + i) = a + i := Nat.mod_eq_of_lt (by omega)
    simp [putWord, hd, this, Nat.add_assoc]

/-- Words stored when every check passes. -/
theorem storeWords_of_granted (x : Issue) (pl access a : Nat) (ws : List Word) (d : Dev) (hd : x.data = none) (ha : a + ws.length ≤ 2 ^ 36)
    (h : ∀ i < ws.length, refusal d x.core x.core pl 1 (a + i) = none) :
    storeWords x pl access a ws d = .ok (coreWrites x.core a ws d) := by
  have h2 : ∀ i < ws.length, refusal d x.core x.core pl 1 (wrap36 (a + i)) = none := fun i hi => by
    rw [show wrap36 (a + i) = a + i from Nat.mod_eq_of_lt (by omega)]; exact h i hi
  simp only [storeWords, mpuFault_of_granted _ _ _ _ _ _ _ h2]
  rw [foldl_putWord x hd a ws 0 d (by omega)]; rfl

/-- An instruction that stores words and changes its core's record. -/
theorem stored_retire (m pl a : Nat) (ws : List Word) (codes : List Nat) (g : Core → Core) (s : State) (b : Dev)
    (hb : b = { s.dev with cores := b.cores }) (hn : ∀ n, n ≠ m → coreGet b n = coreGet s.dev n)
    (hrun : (g (coreGet b m)).run = true) :
    Stored m { g (coreGet b m) with progress := (g (coreGet b m)).progress + 1, stepOne := false } a ws s
      { s with dev := retire m pl codes (onCore (coreWrites m a ws b) m g) } := by
  obtain ⟨c1, c2, c3, c4, c5⟩ := coreWrites_spec m a ws b
  generalize hw : coreWrites m a ws b = w at *
  have hm : b.mem = s.dev.mem := by rw [hb]
  have hf : b.fmem = s.dev.fmem := by rw [hb]
  have hrg : ∀ k, rg b k = rg s.dev k := fun k => by rw [hb]; rfl
  obtain ⟨r1, r2, r3, r4⟩ := ran_retire m pl codes { s with dev := w } (onCore w m g) (g (coreGet b m)) rfl (by simp [c2]) hrun
    (fun n hn => by simp [hn])
  dsimp only at r1 r2 r3 r4
  generalize retire m pl codes (onCore w m g) = u at *
  have hu : u = { w with cores := u.cores, regs := u.regs } := congrArg State.dev r1
  have hum : u.mem = w.mem := (congrArg Dev.mem hu :)
  have huf : u.fmem = w.fmem := (congrArg Dev.fmem hu :)
  have hbe : { s.dev with cores := u.cores, regs := u.regs, mem := w.mem, fmem := w.fmem } =
      { b with cores := u.cores, regs := u.regs, mem := w.mem, fmem := w.fmem } := by rw [hb]
  refine ⟨?_, r2, fun n hn' => ?_, fun k => ?_, ?_, fun k hk => ?_⟩
  · simp only [State.mk.injEq, and_true]
    rw [hum, huf, hbe]
    refine hu.trans ?_
    rw [c1]
  · rw [r3 n hn', c3 n hn', hn n hn']
  · have h1 : ramWord u m k = ramWord w m k := by simp only [ramWord, fmRd, memRd, hum, huf]
    have h2 : ramWord b m k = ramWord s.dev m k := by simp only [ramWord, fmRd, memRd, hm, hf]
    show ramWord u m k = _
    rw [h1, c4 k, h2]
  · show if isF m = true then u.mem = s.dev.mem else u.fmem = s.dev.fmem
    rw [hum, huf, ← hm, ← hf]; exact c5
  · show rg u k = _
    rw [r4 k hk, ← hrg k]; rw [c1]; rfl

end Sys2Proof.Machine
end

