-- ==== Sys2Proof/Laws/State.lean ====
section
/-! SUPPORT. Laws of the state: what each named update leaves alone, field by field, and what it sets. -/

namespace Sys2Proof.Machine

/-! ### A command's effect on the device -/

theorem onDev_eq (f : Dev → Dev) (s : State) : onDev f s = .next { s with dev := f s.dev } := rfl

/-! ### Named updates of the device: every other field keeps its value -/

@[simp] theorem rgSet_mem (d : Dev) (a : Nat) (v : Word) : (rgSet d a v).mem = d.mem := rfl
@[simp] theorem rgSet_fmem (d : Dev) (a : Nat) (v : Word) : (rgSet d a v).fmem = d.fmem := rfl
@[simp] theorem rgSet_host (d : Dev) (a : Nat) (v : Word) : (rgSet d a v).host = d.host := rfl
@[simp] theorem rgSet_cores (d : Dev) (a : Nat) (v : Word) : (rgSet d a v).cores = d.cores := rfl
@[simp] theorem rgSet_pas (d : Dev) (a : Nat) (v : Word) : (rgSet d a v).pas = d.pas := rfl
@[simp] theorem rgSet_ops (d : Dev) (a : Nat) (v : Word) : (rgSet d a v).ops = d.ops := rfl
@[simp] theorem rgSet_rings (d : Dev) (a : Nat) (v : Word) : (rgSet d a v).rings = d.rings := rfl
@[simp] theorem rgSet_chm (d : Dev) (a : Nat) (v : Word) : (rgSet d a v).chm = d.chm := rfl
@[simp] theorem rgSet_rst (d : Dev) (a : Nat) (v : Word) : (rgSet d a v).rst = d.rst := rfl
@[simp] theorem rgSet_lkg (d : Dev) (a : Nat) (v : Word) : (rgSet d a v).lkg = d.lkg := rfl
@[simp] theorem rgSet_fld (d : Dev) (a : Nat) (v : Word) : (rgSet d a v).fld = d.fld := rfl

@[simp] theorem pvSet_regs (d : Dev) (m a : Nat) (v : Word) : (pvSet d m a v).regs = d.regs := rfl
@[simp] theorem pvSet_mem (d : Dev) (m a : Nat) (v : Word) : (pvSet d m a v).mem = d.mem := rfl
@[simp] theorem pvSet_fmem (d : Dev) (m a : Nat) (v : Word) : (pvSet d m a v).fmem = d.fmem := rfl
@[simp] theorem pvSet_host (d : Dev) (m a : Nat) (v : Word) : (pvSet d m a v).host = d.host := rfl
@[simp] theorem pvSet_cores (d : Dev) (m a : Nat) (v : Word) : (pvSet d m a v).cores = d.cores := rfl
@[simp] theorem pvSet_pas (d : Dev) (m a : Nat) (v : Word) : (pvSet d m a v).pas = d.pas := rfl
@[simp] theorem pvSet_ops (d : Dev) (m a : Nat) (v : Word) : (pvSet d m a v).ops = d.ops := rfl
@[simp] theorem pvSet_rings (d : Dev) (m a : Nat) (v : Word) : (pvSet d m a v).rings = d.rings := rfl
@[simp] theorem pvSet_chm (d : Dev) (m a : Nat) (v : Word) : (pvSet d m a v).chm = d.chm := rfl
@[simp] theorem pvSet_rst (d : Dev) (m a : Nat) (v : Word) : (pvSet d m a v).rst = d.rst := rfl
@[simp] theorem pvSet_lkg (d : Dev) (m a : Nat) (v : Word) : (pvSet d m a v).lkg = d.lkg := rfl
@[simp] theorem pvSet_fld (d : Dev) (m a : Nat) (v : Word) : (pvSet d m a v).fld = d.fld := rfl

@[simp] theorem rdSet_regs (d : Dev) (m : Nat) (v : Word) : (rdSet d m v).regs = d.regs := rfl
@[simp] theorem rdSet_mem (d : Dev) (m : Nat) (v : Word) : (rdSet d m v).mem = d.mem := rfl
@[simp] theorem rdSet_fmem (d : Dev) (m : Nat) (v : Word) : (rdSet d m v).fmem = d.fmem := rfl
@[simp] theorem rdSet_host (d : Dev) (m : Nat) (v : Word) : (rdSet d m v).host = d.host := rfl
@[simp] theorem rdSet_cores (d : Dev) (m : Nat) (v : Word) : (rdSet d m v).cores = d.cores := rfl
@[simp] theorem rdSet_pas (d : Dev) (m : Nat) (v : Word) : (rdSet d m v).pas = d.pas := rfl
@[simp] theorem rdSet_ops (d : Dev) (m : Nat) (v : Word) : (rdSet d m v).ops = d.ops := rfl
@[simp] theorem rdSet_rings (d : Dev) (m : Nat) (v : Word) : (rdSet d m v).rings = d.rings := rfl
@[simp] theorem rdSet_chm (d : Dev) (m : Nat) (v : Word) : (rdSet d m v).chm = d.chm := rfl
@[simp] theorem rdSet_rst (d : Dev) (m : Nat) (v : Word) : (rdSet d m v).rst = d.rst := rfl
@[simp] theorem rdSet_lkg (d : Dev) (m : Nat) (v : Word) : (rdSet d m v).lkg = d.lkg := rfl
@[simp] theorem rdSet_fld (d : Dev) (m : Nat) (v : Word) : (rdSet d m v).fld = d.fld := rfl

@[simp] theorem hostWr_regs (d : Dev) (a : Nat) (o : Octets) : (hostWr d a o).regs = d.regs := rfl
@[simp] theorem hostWr_mem (d : Dev) (a : Nat) (o : Octets) : (hostWr d a o).mem = d.mem := rfl
@[simp] theorem hostWr_fmem (d : Dev) (a : Nat) (o : Octets) : (hostWr d a o).fmem = d.fmem := rfl
@[simp] theorem hostWr_cores (d : Dev) (a : Nat) (o : Octets) : (hostWr d a o).cores = d.cores := rfl
@[simp] theorem hostWr_pas (d : Dev) (a : Nat) (o : Octets) : (hostWr d a o).pas = d.pas := rfl
@[simp] theorem hostWr_ops (d : Dev) (a : Nat) (o : Octets) : (hostWr d a o).ops = d.ops := rfl
@[simp] theorem hostWr_rings (d : Dev) (a : Nat) (o : Octets) : (hostWr d a o).rings = d.rings := rfl
@[simp] theorem hostWr_chm (d : Dev) (a : Nat) (o : Octets) : (hostWr d a o).chm = d.chm := rfl
@[simp] theorem hostWr_rst (d : Dev) (a : Nat) (o : Octets) : (hostWr d a o).rst = d.rst := rfl
@[simp] theorem hostWr_lkg (d : Dev) (a : Nat) (o : Octets) : (hostWr d a o).lkg = d.lkg := rfl
@[simp] theorem hostWr_fld (d : Dev) (a : Nat) (o : Octets) : (hostWr d a o).fld = d.fld := rfl

@[simp] theorem loseResv_regs (d : Dev) (own : Option Nat) (field : Bool) (a n : Nat) : (loseResv d own field a n).regs = d.regs := rfl
@[simp] theorem loseResv_mem (d : Dev) (own : Option Nat) (field : Bool) (a n : Nat) : (loseResv d own field a n).mem = d.mem := rfl
@[simp] theorem loseResv_fmem (d : Dev) (own : Option Nat) (field : Bool) (a n : Nat) : (loseResv d own field a n).fmem = d.fmem := rfl
@[simp] theorem loseResv_host (d : Dev) (own : Option Nat) (field : Bool) (a n : Nat) : (loseResv d own field a n).host = d.host := rfl
@[simp] theorem loseResv_pas (d : Dev) (own : Option Nat) (field : Bool) (a n : Nat) : (loseResv d own field a n).pas = d.pas := rfl
@[simp] theorem loseResv_ops (d : Dev) (own : Option Nat) (field : Bool) (a n : Nat) : (loseResv d own field a n).ops = d.ops := rfl
@[simp] theorem loseResv_rings (d : Dev) (own : Option Nat) (field : Bool) (a n : Nat) : (loseResv d own field a n).rings = d.rings := rfl
@[simp] theorem loseResv_chm (d : Dev) (own : Option Nat) (field : Bool) (a n : Nat) : (loseResv d own field a n).chm = d.chm := rfl
@[simp] theorem loseResv_rst (d : Dev) (own : Option Nat) (field : Bool) (a n : Nat) : (loseResv d own field a n).rst = d.rst := rfl
@[simp] theorem loseResv_lkg (d : Dev) (own : Option Nat) (field : Bool) (a n : Nat) : (loseResv d own field a n).lkg = d.lkg := rfl
@[simp] theorem loseResv_fld (d : Dev) (own : Option Nat) (field : Bool) (a n : Nat) : (loseResv d own field a n).fld = d.fld := rfl

@[simp] theorem debit_regs (d : Dev) (a c : Nat) : (debit d a c).regs = d.regs := rfl
@[simp] theorem debit_mem (d : Dev) (a c : Nat) : (debit d a c).mem = d.mem := rfl
@[simp] theorem debit_fmem (d : Dev) (a c : Nat) : (debit d a c).fmem = d.fmem := rfl
@[simp] theorem debit_host (d : Dev) (a c : Nat) : (debit d a c).host = d.host := rfl
@[simp] theorem debit_cores (d : Dev) (a c : Nat) : (debit d a c).cores = d.cores := rfl
@[simp] theorem debit_pas (d : Dev) (a c : Nat) : (debit d a c).pas = d.pas := rfl
@[simp] theorem debit_ops (d : Dev) (a c : Nat) : (debit d a c).ops = d.ops := rfl
@[simp] theorem debit_rings (d : Dev) (a c : Nat) : (debit d a c).rings = d.rings := rfl
@[simp] theorem debit_chm (d : Dev) (a c : Nat) : (debit d a c).chm = d.chm := rfl
@[simp] theorem debit_rst (d : Dev) (a c : Nat) : (debit d a c).rst = d.rst := rfl
@[simp] theorem debit_lkg (d : Dev) (a c : Nat) : (debit d a c).lkg = d.lkg := rfl
@[simp] theorem debit_fld (d : Dev) (a c : Nat) : (debit d a c).fld = d.fld := rfl

@[simp] theorem pushInput_regs (d : Dev) (core cls key pass : Nat) (data : List Nat) : (pushInput d core cls key pass data).regs = d.regs := rfl
@[simp] theorem pushInput_mem (d : Dev) (core cls key pass : Nat) (data : List Nat) : (pushInput d core cls key pass data).mem = d.mem := rfl
@[simp] theorem pushInput_fmem (d : Dev) (core cls key pass : Nat) (data : List Nat) : (pushInput d core cls key pass data).fmem = d.fmem := rfl
@[simp] theorem pushInput_host (d : Dev) (core cls key pass : Nat) (data : List Nat) : (pushInput d core cls key pass data).host = d.host := rfl
@[simp] theorem pushInput_cores (d : Dev) (core cls key pass : Nat) (data : List Nat) : (pushInput d core cls key pass data).cores = d.cores := rfl
@[simp] theorem pushInput_ops (d : Dev) (core cls key pass : Nat) (data : List Nat) : (pushInput d core cls key pass data).ops = d.ops := rfl
@[simp] theorem pushInput_rings (d : Dev) (core cls key pass : Nat) (data : List Nat) : (pushInput d core cls key pass data).rings = d.rings := rfl
@[simp] theorem pushInput_chm (d : Dev) (core cls key pass : Nat) (data : List Nat) : (pushInput d core cls key pass data).chm = d.chm := rfl
@[simp] theorem pushInput_rst (d : Dev) (core cls key pass : Nat) (data : List Nat) : (pushInput d core cls key pass data).rst = d.rst := rfl
@[simp] theorem pushInput_lkg (d : Dev) (core cls key pass : Nat) (data : List Nat) : (pushInput d core cls key pass data).lkg = d.lkg := rfl
@[simp] theorem pushInput_fld (d : Dev) (core cls key pass : Nat) (data : List Nat) : (pushInput d core cls key pass data).fld = d.fld := rfl

@[simp] theorem noteMem_regs (d : Dev) (mems : List (Nat × Nat)) : (noteMem d mems).regs = d.regs := rfl
@[simp] theorem noteMem_mem (d : Dev) (mems : List (Nat × Nat)) : (noteMem d mems).mem = d.mem := rfl
@[simp] theorem noteMem_fmem (d : Dev) (mems : List (Nat × Nat)) : (noteMem d mems).fmem = d.fmem := rfl
@[simp] theorem noteMem_host (d : Dev) (mems : List (Nat × Nat)) : (noteMem d mems).host = d.host := rfl
@[simp] theorem noteMem_cores (d : Dev) (mems : List (Nat × Nat)) : (noteMem d mems).cores = d.cores := rfl
@[simp] theorem noteMem_ops (d : Dev) (mems : List (Nat × Nat)) : (noteMem d mems).ops = d.ops := rfl
@[simp] theorem noteMem_rings (d : Dev) (mems : List (Nat × Nat)) : (noteMem d mems).rings = d.rings := rfl
@[simp] theorem noteMem_chm (d : Dev) (mems : List (Nat × Nat)) : (noteMem d mems).chm = d.chm := rfl
@[simp] theorem noteMem_rst (d : Dev) (mems : List (Nat × Nat)) : (noteMem d mems).rst = d.rst := rfl
@[simp] theorem noteMem_lkg (d : Dev) (mems : List (Nat × Nat)) : (noteMem d mems).lkg = d.lkg := rfl
@[simp] theorem noteMem_fld (d : Dev) (mems : List (Nat × Nat)) : (noteMem d mems).fld = d.fld := rfl

@[simp] theorem recordRead_regs (d : Dev) (core kind val : Nat) : (recordRead d core kind val).regs = d.regs := rfl
@[simp] theorem recordRead_mem (d : Dev) (core kind val : Nat) : (recordRead d core kind val).mem = d.mem := rfl
@[simp] theorem recordRead_fmem (d : Dev) (core kind val : Nat) : (recordRead d core kind val).fmem = d.fmem := rfl
@[simp] theorem recordRead_host (d : Dev) (core kind val : Nat) : (recordRead d core kind val).host = d.host := rfl
@[simp] theorem recordRead_cores (d : Dev) (core kind val : Nat) : (recordRead d core kind val).cores = d.cores := rfl
@[simp] theorem recordRead_ops (d : Dev) (core kind val : Nat) : (recordRead d core kind val).ops = d.ops := rfl
@[simp] theorem recordRead_rings (d : Dev) (core kind val : Nat) : (recordRead d core kind val).rings = d.rings := rfl
@[simp] theorem recordRead_chm (d : Dev) (core kind val : Nat) : (recordRead d core kind val).chm = d.chm := rfl
@[simp] theorem recordRead_rst (d : Dev) (core kind val : Nat) : (recordRead d core kind val).rst = d.rst := rfl
@[simp] theorem recordRead_lkg (d : Dev) (core kind val : Nat) : (recordRead d core kind val).lkg = d.lkg := rfl
@[simp] theorem recordRead_fld (d : Dev) (core kind val : Nat) : (recordRead d core kind val).fld = d.fld := rfl

@[simp] theorem cmdSet_regs (d : Dev) (blk master : Nat) (c : CmdRes) : (cmdSet d blk master c).regs = d.regs := rfl
@[simp] theorem cmdSet_mem (d : Dev) (blk master : Nat) (c : CmdRes) : (cmdSet d blk master c).mem = d.mem := rfl
@[simp] theorem cmdSet_fmem (d : Dev) (blk master : Nat) (c : CmdRes) : (cmdSet d blk master c).fmem = d.fmem := rfl
@[simp] theorem cmdSet_host (d : Dev) (blk master : Nat) (c : CmdRes) : (cmdSet d blk master c).host = d.host := rfl
@[simp] theorem cmdSet_cores (d : Dev) (blk master : Nat) (c : CmdRes) : (cmdSet d blk master c).cores = d.cores := rfl
@[simp] theorem cmdSet_pas (d : Dev) (blk master : Nat) (c : CmdRes) : (cmdSet d blk master c).pas = d.pas := rfl
@[simp] theorem cmdSet_ops (d : Dev) (blk master : Nat) (c : CmdRes) : (cmdSet d blk master c).ops = d.ops := rfl
@[simp] theorem cmdSet_rings (d : Dev) (blk master : Nat) (c : CmdRes) : (cmdSet d blk master c).rings = d.rings := rfl
@[simp] theorem cmdSet_chm (d : Dev) (blk master : Nat) (c : CmdRes) : (cmdSet d blk master c).chm = d.chm := rfl
@[simp] theorem cmdSet_rst (d : Dev) (blk master : Nat) (c : CmdRes) : (cmdSet d blk master c).rst = d.rst := rfl
@[simp] theorem cmdSet_lkg (d : Dev) (blk master : Nat) (c : CmdRes) : (cmdSet d blk master c).lkg = d.lkg := rfl
@[simp] theorem cmdSet_fld (d : Dev) (blk master : Nat) (c : CmdRes) : (cmdSet d blk master c).fld = d.fld := rfl

@[simp] theorem setOp_regs (d : Dev) (o : Op) : (setOp d o).regs = d.regs := rfl
@[simp] theorem setOp_mem (d : Dev) (o : Op) : (setOp d o).mem = d.mem := rfl
@[simp] theorem setOp_fmem (d : Dev) (o : Op) : (setOp d o).fmem = d.fmem := rfl
@[simp] theorem setOp_host (d : Dev) (o : Op) : (setOp d o).host = d.host := rfl
@[simp] theorem setOp_cores (d : Dev) (o : Op) : (setOp d o).cores = d.cores := rfl
@[simp] theorem setOp_pas (d : Dev) (o : Op) : (setOp d o).pas = d.pas := rfl
@[simp] theorem setOp_rings (d : Dev) (o : Op) : (setOp d o).rings = d.rings := rfl
@[simp] theorem setOp_chm (d : Dev) (o : Op) : (setOp d o).chm = d.chm := rfl
@[simp] theorem setOp_rst (d : Dev) (o : Op) : (setOp d o).rst = d.rst := rfl
@[simp] theorem setOp_lkg (d : Dev) (o : Op) : (setOp d o).lkg = d.lkg := rfl
@[simp] theorem setOp_fld (d : Dev) (o : Op) : (setOp d o).fld = d.fld := rfl

@[simp] theorem dropOp_regs (d : Dev) (id : Nat) : (dropOp d id).regs = d.regs := rfl
@[simp] theorem dropOp_mem (d : Dev) (id : Nat) : (dropOp d id).mem = d.mem := rfl
@[simp] theorem dropOp_fmem (d : Dev) (id : Nat) : (dropOp d id).fmem = d.fmem := rfl
@[simp] theorem dropOp_host (d : Dev) (id : Nat) : (dropOp d id).host = d.host := rfl
@[simp] theorem dropOp_cores (d : Dev) (id : Nat) : (dropOp d id).cores = d.cores := rfl
@[simp] theorem dropOp_pas (d : Dev) (id : Nat) : (dropOp d id).pas = d.pas := rfl
@[simp] theorem dropOp_rings (d : Dev) (id : Nat) : (dropOp d id).rings = d.rings := rfl
@[simp] theorem dropOp_chm (d : Dev) (id : Nat) : (dropOp d id).chm = d.chm := rfl
@[simp] theorem dropOp_rst (d : Dev) (id : Nat) : (dropOp d id).rst = d.rst := rfl
@[simp] theorem dropOp_lkg (d : Dev) (id : Nat) : (dropOp d id).lkg = d.lkg := rfl
@[simp] theorem dropOp_fld (d : Dev) (id : Nat) : (dropOp d id).fld = d.fld := rfl

@[simp] theorem setPart_regs (d : Dev) (kind idx : Nat) (p : Part) : (setPart d kind idx p).regs = d.regs := rfl
@[simp] theorem setPart_mem (d : Dev) (kind idx : Nat) (p : Part) : (setPart d kind idx p).mem = d.mem := rfl
@[simp] theorem setPart_fmem (d : Dev) (kind idx : Nat) (p : Part) : (setPart d kind idx p).fmem = d.fmem := rfl
@[simp] theorem setPart_host (d : Dev) (kind idx : Nat) (p : Part) : (setPart d kind idx p).host = d.host := rfl
@[simp] theorem setPart_cores (d : Dev) (kind idx : Nat) (p : Part) : (setPart d kind idx p).cores = d.cores := rfl
@[simp] theorem setPart_ops (d : Dev) (kind idx : Nat) (p : Part) : (setPart d kind idx p).ops = d.ops := rfl
@[simp] theorem setPart_rings (d : Dev) (kind idx : Nat) (p : Part) : (setPart d kind idx p).rings = d.rings := rfl
@[simp] theorem setPart_chm (d : Dev) (kind idx : Nat) (p : Part) : (setPart d kind idx p).chm = d.chm := rfl
@[simp] theorem setPart_rst (d : Dev) (kind idx : Nat) (p : Part) : (setPart d kind idx p).rst = d.rst := rfl
@[simp] theorem setPart_lkg (d : Dev) (kind idx : Nat) (p : Part) : (setPart d kind idx p).lkg = d.lkg := rfl
@[simp] theorem setPart_fld (d : Dev) (kind idx : Nat) (p : Part) : (setPart d kind idx p).fld = d.fld := rfl

@[simp] theorem ringSet_regs (d : Dev) (r : Nat) (x : Ring) : (ringSet d r x).regs = d.regs := rfl
@[simp] theorem ringSet_mem (d : Dev) (r : Nat) (x : Ring) : (ringSet d r x).mem = d.mem := rfl
@[simp] theorem ringSet_fmem (d : Dev) (r : Nat) (x : Ring) : (ringSet d r x).fmem = d.fmem := rfl
@[simp] theorem ringSet_host (d : Dev) (r : Nat) (x : Ring) : (ringSet d r x).host = d.host := rfl
@[simp] theorem ringSet_cores (d : Dev) (r : Nat) (x : Ring) : (ringSet d r x).cores = d.cores := rfl
@[simp] theorem ringSet_pas (d : Dev) (r : Nat) (x : Ring) : (ringSet d r x).pas = d.pas := rfl
@[simp] theorem ringSet_ops (d : Dev) (r : Nat) (x : Ring) : (ringSet d r x).ops = d.ops := rfl
@[simp] theorem ringSet_chm (d : Dev) (r : Nat) (x : Ring) : (ringSet d r x).chm = d.chm := rfl
@[simp] theorem ringSet_rst (d : Dev) (r : Nat) (x : Ring) : (ringSet d r x).rst = d.rst := rfl
@[simp] theorem ringSet_lkg (d : Dev) (r : Nat) (x : Ring) : (ringSet d r x).lkg = d.lkg := rfl
@[simp] theorem ringSet_fld (d : Dev) (r : Nat) (x : Ring) : (ringSet d r x).fld = d.fld := rfl

@[simp] theorem coreSet_regs (d : Dev) (m : Nat) (c : Core) : (coreSet d m c).regs = d.regs := rfl
@[simp] theorem coreSet_mem (d : Dev) (m : Nat) (c : Core) : (coreSet d m c).mem = d.mem := rfl
@[simp] theorem coreSet_fmem (d : Dev) (m : Nat) (c : Core) : (coreSet d m c).fmem = d.fmem := rfl
@[simp] theorem coreSet_host (d : Dev) (m : Nat) (c : Core) : (coreSet d m c).host = d.host := rfl
@[simp] theorem coreSet_pas (d : Dev) (m : Nat) (c : Core) : (coreSet d m c).pas = d.pas := rfl
@[simp] theorem coreSet_ops (d : Dev) (m : Nat) (c : Core) : (coreSet d m c).ops = d.ops := rfl
@[simp] theorem coreSet_rings (d : Dev) (m : Nat) (c : Core) : (coreSet d m c).rings = d.rings := rfl
@[simp] theorem coreSet_chm (d : Dev) (m : Nat) (c : Core) : (coreSet d m c).chm = d.chm := rfl
@[simp] theorem coreSet_rst (d : Dev) (m : Nat) (c : Core) : (coreSet d m c).rst = d.rst := rfl
@[simp] theorem coreSet_lkg (d : Dev) (m : Nat) (c : Core) : (coreSet d m c).lkg = d.lkg := rfl
@[simp] theorem coreSet_fld (d : Dev) (m : Nat) (c : Core) : (coreSet d m c).fld = d.fld := rfl

@[simp] theorem mbxSet_regs (d : Dev) (c : Nat) (x : Mbx) : (mbxSet d c x).regs = d.regs := rfl
@[simp] theorem mbxSet_mem (d : Dev) (c : Nat) (x : Mbx) : (mbxSet d c x).mem = d.mem := rfl
@[simp] theorem mbxSet_fmem (d : Dev) (c : Nat) (x : Mbx) : (mbxSet d c x).fmem = d.fmem := rfl
@[simp] theorem mbxSet_host (d : Dev) (c : Nat) (x : Mbx) : (mbxSet d c x).host = d.host := rfl
@[simp] theorem mbxSet_cores (d : Dev) (c : Nat) (x : Mbx) : (mbxSet d c x).cores = d.cores := rfl
@[simp] theorem mbxSet_pas (d : Dev) (c : Nat) (x : Mbx) : (mbxSet d c x).pas = d.pas := rfl
@[simp] theorem mbxSet_ops (d : Dev) (c : Nat) (x : Mbx) : (mbxSet d c x).ops = d.ops := rfl
@[simp] theorem mbxSet_rings (d : Dev) (c : Nat) (x : Mbx) : (mbxSet d c x).rings = d.rings := rfl
@[simp] theorem mbxSet_chm (d : Dev) (c : Nat) (x : Mbx) : (mbxSet d c x).chm = d.chm := rfl
@[simp] theorem mbxSet_rst (d : Dev) (c : Nat) (x : Mbx) : (mbxSet d c x).rst = d.rst := rfl
@[simp] theorem mbxSet_lkg (d : Dev) (c : Nat) (x : Mbx) : (mbxSet d c x).lkg = d.lkg := rfl
@[simp] theorem mbxSet_fld (d : Dev) (c : Nat) (x : Mbx) : (mbxSet d c x).fld = d.fld := rfl

@[simp] theorem slotSet_regs (d : Dev) (i : Nat) (s : Slot) : (slotSet d i s).regs = d.regs := rfl
@[simp] theorem slotSet_mem (d : Dev) (i : Nat) (s : Slot) : (slotSet d i s).mem = d.mem := rfl
@[simp] theorem slotSet_fmem (d : Dev) (i : Nat) (s : Slot) : (slotSet d i s).fmem = d.fmem := rfl
@[simp] theorem slotSet_host (d : Dev) (i : Nat) (s : Slot) : (slotSet d i s).host = d.host := rfl
@[simp] theorem slotSet_cores (d : Dev) (i : Nat) (s : Slot) : (slotSet d i s).cores = d.cores := rfl
@[simp] theorem slotSet_pas (d : Dev) (i : Nat) (s : Slot) : (slotSet d i s).pas = d.pas := rfl
@[simp] theorem slotSet_ops (d : Dev) (i : Nat) (s : Slot) : (slotSet d i s).ops = d.ops := rfl
@[simp] theorem slotSet_rings (d : Dev) (i : Nat) (s : Slot) : (slotSet d i s).rings = d.rings := rfl
@[simp] theorem slotSet_chm (d : Dev) (i : Nat) (s : Slot) : (slotSet d i s).chm = d.chm := rfl
@[simp] theorem slotSet_rst (d : Dev) (i : Nat) (s : Slot) : (slotSet d i s).rst = d.rst := rfl
@[simp] theorem slotSet_lkg (d : Dev) (i : Nat) (s : Slot) : (slotSet d i s).lkg = d.lkg := rfl
@[simp] theorem slotSet_fld (d : Dev) (i : Nat) (s : Slot) : (slotSet d i s).fld = d.fld := rfl

@[simp] theorem unitSet_regs (d : Dev) (u : Nat) (x : GrdUnit) : (unitSet d u x).regs = d.regs := rfl
@[simp] theorem unitSet_mem (d : Dev) (u : Nat) (x : GrdUnit) : (unitSet d u x).mem = d.mem := rfl
@[simp] theorem unitSet_fmem (d : Dev) (u : Nat) (x : GrdUnit) : (unitSet d u x).fmem = d.fmem := rfl
@[simp] theorem unitSet_host (d : Dev) (u : Nat) (x : GrdUnit) : (unitSet d u x).host = d.host := rfl
@[simp] theorem unitSet_cores (d : Dev) (u : Nat) (x : GrdUnit) : (unitSet d u x).cores = d.cores := rfl
@[simp] theorem unitSet_pas (d : Dev) (u : Nat) (x : GrdUnit) : (unitSet d u x).pas = d.pas := rfl
@[simp] theorem unitSet_ops (d : Dev) (u : Nat) (x : GrdUnit) : (unitSet d u x).ops = d.ops := rfl
@[simp] theorem unitSet_rings (d : Dev) (u : Nat) (x : GrdUnit) : (unitSet d u x).rings = d.rings := rfl
@[simp] theorem unitSet_chm (d : Dev) (u : Nat) (x : GrdUnit) : (unitSet d u x).chm = d.chm := rfl
@[simp] theorem unitSet_rst (d : Dev) (u : Nat) (x : GrdUnit) : (unitSet d u x).rst = d.rst := rfl
@[simp] theorem unitSet_lkg (d : Dev) (u : Nat) (x : GrdUnit) : (unitSet d u x).lkg = d.lkg := rfl
@[simp] theorem unitSet_fld (d : Dev) (u : Nat) (x : GrdUnit) : (unitSet d u x).fld = d.fld := rfl

@[simp] theorem curveSet_regs (d : Dev) (s : Nat) (x : CurveSlot) : (curveSet d s x).regs = d.regs := rfl
@[simp] theorem curveSet_mem (d : Dev) (s : Nat) (x : CurveSlot) : (curveSet d s x).mem = d.mem := rfl
@[simp] theorem curveSet_fmem (d : Dev) (s : Nat) (x : CurveSlot) : (curveSet d s x).fmem = d.fmem := rfl
@[simp] theorem curveSet_host (d : Dev) (s : Nat) (x : CurveSlot) : (curveSet d s x).host = d.host := rfl
@[simp] theorem curveSet_cores (d : Dev) (s : Nat) (x : CurveSlot) : (curveSet d s x).cores = d.cores := rfl
@[simp] theorem curveSet_pas (d : Dev) (s : Nat) (x : CurveSlot) : (curveSet d s x).pas = d.pas := rfl
@[simp] theorem curveSet_ops (d : Dev) (s : Nat) (x : CurveSlot) : (curveSet d s x).ops = d.ops := rfl
@[simp] theorem curveSet_rings (d : Dev) (s : Nat) (x : CurveSlot) : (curveSet d s x).rings = d.rings := rfl
@[simp] theorem curveSet_chm (d : Dev) (s : Nat) (x : CurveSlot) : (curveSet d s x).chm = d.chm := rfl
@[simp] theorem curveSet_rst (d : Dev) (s : Nat) (x : CurveSlot) : (curveSet d s x).rst = d.rst := rfl
@[simp] theorem curveSet_lkg (d : Dev) (s : Nat) (x : CurveSlot) : (curveSet d s x).lkg = d.lkg := rfl
@[simp] theorem curveSet_fld (d : Dev) (s : Nat) (x : CurveSlot) : (curveSet d s x).fld = d.fld := rfl

@[simp] theorem saSet_regs (d : Dev) (s : Nat) (x : Sa) : (saSet d s x).regs = d.regs := rfl
@[simp] theorem saSet_mem (d : Dev) (s : Nat) (x : Sa) : (saSet d s x).mem = d.mem := rfl
@[simp] theorem saSet_fmem (d : Dev) (s : Nat) (x : Sa) : (saSet d s x).fmem = d.fmem := rfl
@[simp] theorem saSet_host (d : Dev) (s : Nat) (x : Sa) : (saSet d s x).host = d.host := rfl
@[simp] theorem saSet_cores (d : Dev) (s : Nat) (x : Sa) : (saSet d s x).cores = d.cores := rfl
@[simp] theorem saSet_pas (d : Dev) (s : Nat) (x : Sa) : (saSet d s x).pas = d.pas := rfl
@[simp] theorem saSet_ops (d : Dev) (s : Nat) (x : Sa) : (saSet d s x).ops = d.ops := rfl
@[simp] theorem saSet_rings (d : Dev) (s : Nat) (x : Sa) : (saSet d s x).rings = d.rings := rfl
@[simp] theorem saSet_chm (d : Dev) (s : Nat) (x : Sa) : (saSet d s x).chm = d.chm := rfl
@[simp] theorem saSet_rst (d : Dev) (s : Nat) (x : Sa) : (saSet d s x).rst = d.rst := rfl
@[simp] theorem saSet_lkg (d : Dev) (s : Nat) (x : Sa) : (saSet d s x).lkg = d.lkg := rfl
@[simp] theorem saSet_fld (d : Dev) (s : Nat) (x : Sa) : (saSet d s x).fld = d.fld := rfl

@[simp] theorem setStream_regs (d : Dev) (k : Nat) (x : Stream) : (setStream d k x).regs = d.regs := rfl
@[simp] theorem setStream_mem (d : Dev) (k : Nat) (x : Stream) : (setStream d k x).mem = d.mem := rfl
@[simp] theorem setStream_fmem (d : Dev) (k : Nat) (x : Stream) : (setStream d k x).fmem = d.fmem := rfl
@[simp] theorem setStream_host (d : Dev) (k : Nat) (x : Stream) : (setStream d k x).host = d.host := rfl
@[simp] theorem setStream_cores (d : Dev) (k : Nat) (x : Stream) : (setStream d k x).cores = d.cores := rfl
@[simp] theorem setStream_pas (d : Dev) (k : Nat) (x : Stream) : (setStream d k x).pas = d.pas := rfl
@[simp] theorem setStream_ops (d : Dev) (k : Nat) (x : Stream) : (setStream d k x).ops = d.ops := rfl
@[simp] theorem setStream_rings (d : Dev) (k : Nat) (x : Stream) : (setStream d k x).rings = d.rings := rfl
@[simp] theorem setStream_chm (d : Dev) (k : Nat) (x : Stream) : (setStream d k x).chm = d.chm := rfl
@[simp] theorem setStream_rst (d : Dev) (k : Nat) (x : Stream) : (setStream d k x).rst = d.rst := rfl
@[simp] theorem setStream_lkg (d : Dev) (k : Nat) (x : Stream) : (setStream d k x).lkg = d.lkg := rfl
@[simp] theorem setStream_fld (d : Dev) (k : Nat) (x : Stream) : (setStream d k x).fld = d.fld := rfl

@[simp] theorem planeSet_regs (d : Dev) (p : Nat) (x : Plane) : (planeSet d p x).regs = d.regs := rfl
@[simp] theorem planeSet_mem (d : Dev) (p : Nat) (x : Plane) : (planeSet d p x).mem = d.mem := rfl
@[simp] theorem planeSet_fmem (d : Dev) (p : Nat) (x : Plane) : (planeSet d p x).fmem = d.fmem := rfl
@[simp] theorem planeSet_host (d : Dev) (p : Nat) (x : Plane) : (planeSet d p x).host = d.host := rfl
@[simp] theorem planeSet_cores (d : Dev) (p : Nat) (x : Plane) : (planeSet d p x).cores = d.cores := rfl
@[simp] theorem planeSet_pas (d : Dev) (p : Nat) (x : Plane) : (planeSet d p x).pas = d.pas := rfl
@[simp] theorem planeSet_ops (d : Dev) (p : Nat) (x : Plane) : (planeSet d p x).ops = d.ops := rfl
@[simp] theorem planeSet_rings (d : Dev) (p : Nat) (x : Plane) : (planeSet d p x).rings = d.rings := rfl
@[simp] theorem planeSet_chm (d : Dev) (p : Nat) (x : Plane) : (planeSet d p x).chm = d.chm := rfl
@[simp] theorem planeSet_rst (d : Dev) (p : Nat) (x : Plane) : (planeSet d p x).rst = d.rst := rfl
@[simp] theorem planeSet_lkg (d : Dev) (p : Nat) (x : Plane) : (planeSet d p x).lkg = d.lkg := rfl
@[simp] theorem planeSet_fld (d : Dev) (p : Nat) (x : Plane) : (planeSet d p x).fld = d.fld := rfl

@[simp] theorem portSet_regs (d : Dev) (p : Nat) (x : Port) : (portSet d p x).regs = d.regs := rfl
@[simp] theorem portSet_mem (d : Dev) (p : Nat) (x : Port) : (portSet d p x).mem = d.mem := rfl
@[simp] theorem portSet_fmem (d : Dev) (p : Nat) (x : Port) : (portSet d p x).fmem = d.fmem := rfl
@[simp] theorem portSet_host (d : Dev) (p : Nat) (x : Port) : (portSet d p x).host = d.host := rfl
@[simp] theorem portSet_cores (d : Dev) (p : Nat) (x : Port) : (portSet d p x).cores = d.cores := rfl
@[simp] theorem portSet_pas (d : Dev) (p : Nat) (x : Port) : (portSet d p x).pas = d.pas := rfl
@[simp] theorem portSet_ops (d : Dev) (p : Nat) (x : Port) : (portSet d p x).ops = d.ops := rfl
@[simp] theorem portSet_rings (d : Dev) (p : Nat) (x : Port) : (portSet d p x).rings = d.rings := rfl
@[simp] theorem portSet_chm (d : Dev) (p : Nat) (x : Port) : (portSet d p x).chm = d.chm := rfl
@[simp] theorem portSet_rst (d : Dev) (p : Nat) (x : Port) : (portSet d p x).rst = d.rst := rfl
@[simp] theorem portSet_lkg (d : Dev) (p : Nat) (x : Port) : (portSet d p x).lkg = d.lkg := rfl

@[simp] theorem chainSet_regs (d : Dev) (n : Nat) (c : Chain) : (chainSet d n c).regs = d.regs := rfl
@[simp] theorem chainSet_mem (d : Dev) (n : Nat) (c : Chain) : (chainSet d n c).mem = d.mem := rfl
@[simp] theorem chainSet_fmem (d : Dev) (n : Nat) (c : Chain) : (chainSet d n c).fmem = d.fmem := rfl
@[simp] theorem chainSet_host (d : Dev) (n : Nat) (c : Chain) : (chainSet d n c).host = d.host := rfl
@[simp] theorem chainSet_cores (d : Dev) (n : Nat) (c : Chain) : (chainSet d n c).cores = d.cores := rfl
@[simp] theorem chainSet_pas (d : Dev) (n : Nat) (c : Chain) : (chainSet d n c).pas = d.pas := rfl
@[simp] theorem chainSet_ops (d : Dev) (n : Nat) (c : Chain) : (chainSet d n c).ops = d.ops := rfl
@[simp] theorem chainSet_rings (d : Dev) (n : Nat) (c : Chain) : (chainSet d n c).rings = d.rings := rfl
@[simp] theorem chainSet_chm (d : Dev) (n : Nat) (c : Chain) : (chainSet d n c).chm = d.chm := rfl
@[simp] theorem chainSet_rst (d : Dev) (n : Nat) (c : Chain) : (chainSet d n c).rst = d.rst := rfl
@[simp] theorem chainSet_lkg (d : Dev) (n : Nat) (c : Chain) : (chainSet d n c).lkg = d.lkg := rfl

@[simp] theorem engSet_regs (d : Dev) (e : Nat) (x : PingEngine) : (engSet d e x).regs = d.regs := rfl
@[simp] theorem engSet_mem (d : Dev) (e : Nat) (x : PingEngine) : (engSet d e x).mem = d.mem := rfl
@[simp] theorem engSet_fmem (d : Dev) (e : Nat) (x : PingEngine) : (engSet d e x).fmem = d.fmem := rfl
@[simp] theorem engSet_host (d : Dev) (e : Nat) (x : PingEngine) : (engSet d e x).host = d.host := rfl
@[simp] theorem engSet_cores (d : Dev) (e : Nat) (x : PingEngine) : (engSet d e x).cores = d.cores := rfl
@[simp] theorem engSet_pas (d : Dev) (e : Nat) (x : PingEngine) : (engSet d e x).pas = d.pas := rfl
@[simp] theorem engSet_ops (d : Dev) (e : Nat) (x : PingEngine) : (engSet d e x).ops = d.ops := rfl
@[simp] theorem engSet_rings (d : Dev) (e : Nat) (x : PingEngine) : (engSet d e x).rings = d.rings := rfl
@[simp] theorem engSet_chm (d : Dev) (e : Nat) (x : PingEngine) : (engSet d e x).chm = d.chm := rfl
@[simp] theorem engSet_rst (d : Dev) (e : Nat) (x : PingEngine) : (engSet d e x).rst = d.rst := rfl
@[simp] theorem engSet_lkg (d : Dev) (e : Nat) (x : PingEngine) : (engSet d e x).lkg = d.lkg := rfl

@[simp] theorem ofcIfSet_regs (d : Dev) (i : Nat) (x : OfcIf) : (ofcIfSet d i x).regs = d.regs := rfl
@[simp] theorem ofcIfSet_mem (d : Dev) (i : Nat) (x : OfcIf) : (ofcIfSet d i x).mem = d.mem := rfl
@[simp] theorem ofcIfSet_fmem (d : Dev) (i : Nat) (x : OfcIf) : (ofcIfSet d i x).fmem = d.fmem := rfl
@[simp] theorem ofcIfSet_host (d : Dev) (i : Nat) (x : OfcIf) : (ofcIfSet d i x).host = d.host := rfl
@[simp] theorem ofcIfSet_cores (d : Dev) (i : Nat) (x : OfcIf) : (ofcIfSet d i x).cores = d.cores := rfl
@[simp] theorem ofcIfSet_pas (d : Dev) (i : Nat) (x : OfcIf) : (ofcIfSet d i x).pas = d.pas := rfl
@[simp] theorem ofcIfSet_ops (d : Dev) (i : Nat) (x : OfcIf) : (ofcIfSet d i x).ops = d.ops := rfl
@[simp] theorem ofcIfSet_rings (d : Dev) (i : Nat) (x : OfcIf) : (ofcIfSet d i x).rings = d.rings := rfl
@[simp] theorem ofcIfSet_chm (d : Dev) (i : Nat) (x : OfcIf) : (ofcIfSet d i x).chm = d.chm := rfl
@[simp] theorem ofcIfSet_rst (d : Dev) (i : Nat) (x : OfcIf) : (ofcIfSet d i x).rst = d.rst := rfl
@[simp] theorem ofcIfSet_lkg (d : Dev) (i : Nat) (x : OfcIf) : (ofcIfSet d i x).lkg = d.lkg := rfl
@[simp] theorem ofcIfSet_fld (d : Dev) (i : Nat) (x : OfcIf) : (ofcIfSet d i x).fld = d.fld := rfl

@[simp] theorem pmuSet_regs (d : Dev) (m : Nat) (x : PmuCore) : (pmuSet d m x).regs = d.regs := rfl
@[simp] theorem pmuSet_mem (d : Dev) (m : Nat) (x : PmuCore) : (pmuSet d m x).mem = d.mem := rfl
@[simp] theorem pmuSet_fmem (d : Dev) (m : Nat) (x : PmuCore) : (pmuSet d m x).fmem = d.fmem := rfl
@[simp] theorem pmuSet_host (d : Dev) (m : Nat) (x : PmuCore) : (pmuSet d m x).host = d.host := rfl
@[simp] theorem pmuSet_cores (d : Dev) (m : Nat) (x : PmuCore) : (pmuSet d m x).cores = d.cores := rfl
@[simp] theorem pmuSet_pas (d : Dev) (m : Nat) (x : PmuCore) : (pmuSet d m x).pas = d.pas := rfl
@[simp] theorem pmuSet_ops (d : Dev) (m : Nat) (x : PmuCore) : (pmuSet d m x).ops = d.ops := rfl
@[simp] theorem pmuSet_rings (d : Dev) (m : Nat) (x : PmuCore) : (pmuSet d m x).rings = d.rings := rfl
@[simp] theorem pmuSet_chm (d : Dev) (m : Nat) (x : PmuCore) : (pmuSet d m x).chm = d.chm := rfl
@[simp] theorem pmuSet_rst (d : Dev) (m : Nat) (x : PmuCore) : (pmuSet d m x).rst = d.rst := rfl
@[simp] theorem pmuSet_lkg (d : Dev) (m : Nat) (x : PmuCore) : (pmuSet d m x).lkg = d.lkg := rfl
@[simp] theorem pmuSet_fld (d : Dev) (m : Nat) (x : PmuCore) : (pmuSet d m x).fld = d.fld := rfl

@[simp] theorem moncInc_regs (d : Dev) (i : Nat) : (moncInc d i).regs = d.regs := rfl
@[simp] theorem moncInc_mem (d : Dev) (i : Nat) : (moncInc d i).mem = d.mem := rfl
@[simp] theorem moncInc_fmem (d : Dev) (i : Nat) : (moncInc d i).fmem = d.fmem := rfl
@[simp] theorem moncInc_host (d : Dev) (i : Nat) : (moncInc d i).host = d.host := rfl
@[simp] theorem moncInc_cores (d : Dev) (i : Nat) : (moncInc d i).cores = d.cores := rfl
@[simp] theorem moncInc_pas (d : Dev) (i : Nat) : (moncInc d i).pas = d.pas := rfl
@[simp] theorem moncInc_ops (d : Dev) (i : Nat) : (moncInc d i).ops = d.ops := rfl
@[simp] theorem moncInc_rings (d : Dev) (i : Nat) : (moncInc d i).rings = d.rings := rfl
@[simp] theorem moncInc_chm (d : Dev) (i : Nat) : (moncInc d i).chm = d.chm := rfl
@[simp] theorem moncInc_rst (d : Dev) (i : Nat) : (moncInc d i).rst = d.rst := rfl
@[simp] theorem moncInc_lkg (d : Dev) (i : Nat) : (moncInc d i).lkg = d.lkg := rfl
@[simp] theorem moncInc_fld (d : Dev) (i : Nat) : (moncInc d i).fld = d.fld := rfl

@[simp] theorem setShadow_regs (d : Dev) (f t s : Nat) : (setShadow d f t s).regs = d.regs := rfl
@[simp] theorem setShadow_mem (d : Dev) (f t s : Nat) : (setShadow d f t s).mem = d.mem := rfl
@[simp] theorem setShadow_fmem (d : Dev) (f t s : Nat) : (setShadow d f t s).fmem = d.fmem := rfl
@[simp] theorem setShadow_host (d : Dev) (f t s : Nat) : (setShadow d f t s).host = d.host := rfl
@[simp] theorem setShadow_cores (d : Dev) (f t s : Nat) : (setShadow d f t s).cores = d.cores := rfl
@[simp] theorem setShadow_pas (d : Dev) (f t s : Nat) : (setShadow d f t s).pas = d.pas := rfl
@[simp] theorem setShadow_ops (d : Dev) (f t s : Nat) : (setShadow d f t s).ops = d.ops := rfl
@[simp] theorem setShadow_rings (d : Dev) (f t s : Nat) : (setShadow d f t s).rings = d.rings := rfl
@[simp] theorem setShadow_chm (d : Dev) (f t s : Nat) : (setShadow d f t s).chm = d.chm := rfl
@[simp] theorem setShadow_rst (d : Dev) (f t s : Nat) : (setShadow d f t s).rst = d.rst := rfl
@[simp] theorem setShadow_lkg (d : Dev) (f t s : Nat) : (setShadow d f t s).lkg = d.lkg := rfl
@[simp] theorem setShadow_fld (d : Dev) (f t s : Nat) : (setShadow d f t s).fld = d.fld := rfl

@[simp] theorem onSdh_regs (d : Dev) (f : SdHost → SdHost) : (onSdh d f).regs = d.regs := rfl
@[simp] theorem onSdh_mem (d : Dev) (f : SdHost → SdHost) : (onSdh d f).mem = d.mem := rfl
@[simp] theorem onSdh_fmem (d : Dev) (f : SdHost → SdHost) : (onSdh d f).fmem = d.fmem := rfl
@[simp] theorem onSdh_host (d : Dev) (f : SdHost → SdHost) : (onSdh d f).host = d.host := rfl
@[simp] theorem onSdh_cores (d : Dev) (f : SdHost → SdHost) : (onSdh d f).cores = d.cores := rfl
@[simp] theorem onSdh_pas (d : Dev) (f : SdHost → SdHost) : (onSdh d f).pas = d.pas := rfl
@[simp] theorem onSdh_ops (d : Dev) (f : SdHost → SdHost) : (onSdh d f).ops = d.ops := rfl
@[simp] theorem onSdh_rings (d : Dev) (f : SdHost → SdHost) : (onSdh d f).rings = d.rings := rfl
@[simp] theorem onSdh_chm (d : Dev) (f : SdHost → SdHost) : (onSdh d f).chm = d.chm := rfl
@[simp] theorem onSdh_rst (d : Dev) (f : SdHost → SdHost) : (onSdh d f).rst = d.rst := rfl
@[simp] theorem onSdh_lkg (d : Dev) (f : SdHost → SdHost) : (onSdh d f).lkg = d.lkg := rfl
@[simp] theorem onSdh_fld (d : Dev) (f : SdHost → SdHost) : (onSdh d f).fld = d.fld := rfl

@[simp] theorem onHop_regs (d : Dev) (f : Hopper → Hopper) : (onHop d f).regs = d.regs := rfl
@[simp] theorem onHop_mem (d : Dev) (f : Hopper → Hopper) : (onHop d f).mem = d.mem := rfl
@[simp] theorem onHop_fmem (d : Dev) (f : Hopper → Hopper) : (onHop d f).fmem = d.fmem := rfl
@[simp] theorem onHop_host (d : Dev) (f : Hopper → Hopper) : (onHop d f).host = d.host := rfl
@[simp] theorem onHop_cores (d : Dev) (f : Hopper → Hopper) : (onHop d f).cores = d.cores := rfl
@[simp] theorem onHop_pas (d : Dev) (f : Hopper → Hopper) : (onHop d f).pas = d.pas := rfl
@[simp] theorem onHop_ops (d : Dev) (f : Hopper → Hopper) : (onHop d f).ops = d.ops := rfl
@[simp] theorem onHop_rings (d : Dev) (f : Hopper → Hopper) : (onHop d f).rings = d.rings := rfl
@[simp] theorem onHop_chm (d : Dev) (f : Hopper → Hopper) : (onHop d f).chm = d.chm := rfl
@[simp] theorem onHop_rst (d : Dev) (f : Hopper → Hopper) : (onHop d f).rst = d.rst := rfl
@[simp] theorem onHop_lkg (d : Dev) (f : Hopper → Hopper) : (onHop d f).lkg = d.lkg := rfl
@[simp] theorem onHop_fld (d : Dev) (f : Hopper → Hopper) : (onHop d f).fld = d.fld := rfl

@[simp] theorem onLife_regs (d : Dev) (f : Life → Life) : (onLife d f).regs = d.regs := rfl
@[simp] theorem onLife_mem (d : Dev) (f : Life → Life) : (onLife d f).mem = d.mem := rfl
@[simp] theorem onLife_fmem (d : Dev) (f : Life → Life) : (onLife d f).fmem = d.fmem := rfl
@[simp] theorem onLife_host (d : Dev) (f : Life → Life) : (onLife d f).host = d.host := rfl
@[simp] theorem onLife_cores (d : Dev) (f : Life → Life) : (onLife d f).cores = d.cores := rfl
@[simp] theorem onLife_pas (d : Dev) (f : Life → Life) : (onLife d f).pas = d.pas := rfl
@[simp] theorem onLife_ops (d : Dev) (f : Life → Life) : (onLife d f).ops = d.ops := rfl
@[simp] theorem onLife_rings (d : Dev) (f : Life → Life) : (onLife d f).rings = d.rings := rfl
@[simp] theorem onLife_chm (d : Dev) (f : Life → Life) : (onLife d f).chm = d.chm := rfl
@[simp] theorem onLife_rst (d : Dev) (f : Life → Life) : (onLife d f).rst = d.rst := rfl
@[simp] theorem onLife_lkg (d : Dev) (f : Life → Life) : (onLife d f).lkg = d.lkg := rfl
@[simp] theorem onLife_fld (d : Dev) (f : Life → Life) : (onLife d f).fld = d.fld := rfl

@[simp] theorem onRpl_regs (d : Dev) (f : Rpl → Rpl) : (onRpl d f).regs = d.regs := rfl
@[simp] theorem onRpl_mem (d : Dev) (f : Rpl → Rpl) : (onRpl d f).mem = d.mem := rfl
@[simp] theorem onRpl_fmem (d : Dev) (f : Rpl → Rpl) : (onRpl d f).fmem = d.fmem := rfl
@[simp] theorem onRpl_host (d : Dev) (f : Rpl → Rpl) : (onRpl d f).host = d.host := rfl
@[simp] theorem onRpl_cores (d : Dev) (f : Rpl → Rpl) : (onRpl d f).cores = d.cores := rfl
@[simp] theorem onRpl_pas (d : Dev) (f : Rpl → Rpl) : (onRpl d f).pas = d.pas := rfl
@[simp] theorem onRpl_ops (d : Dev) (f : Rpl → Rpl) : (onRpl d f).ops = d.ops := rfl
@[simp] theorem onRpl_rings (d : Dev) (f : Rpl → Rpl) : (onRpl d f).rings = d.rings := rfl
@[simp] theorem onRpl_chm (d : Dev) (f : Rpl → Rpl) : (onRpl d f).chm = d.chm := rfl
@[simp] theorem onRpl_rst (d : Dev) (f : Rpl → Rpl) : (onRpl d f).rst = d.rst := rfl
@[simp] theorem onRpl_lkg (d : Dev) (f : Rpl → Rpl) : (onRpl d f).lkg = d.lkg := rfl
@[simp] theorem onRpl_fld (d : Dev) (f : Rpl → Rpl) : (onRpl d f).fld = d.fld := rfl

@[simp] theorem onRst_regs (d : Dev) (f : Rst → Rst) : (onRst d f).regs = d.regs := rfl
@[simp] theorem onRst_mem (d : Dev) (f : Rst → Rst) : (onRst d f).mem = d.mem := rfl
@[simp] theorem onRst_fmem (d : Dev) (f : Rst → Rst) : (onRst d f).fmem = d.fmem := rfl
@[simp] theorem onRst_host (d : Dev) (f : Rst → Rst) : (onRst d f).host = d.host := rfl
@[simp] theorem onRst_cores (d : Dev) (f : Rst → Rst) : (onRst d f).cores = d.cores := rfl
@[simp] theorem onRst_pas (d : Dev) (f : Rst → Rst) : (onRst d f).pas = d.pas := rfl
@[simp] theorem onRst_ops (d : Dev) (f : Rst → Rst) : (onRst d f).ops = d.ops := rfl
@[simp] theorem onRst_rings (d : Dev) (f : Rst → Rst) : (onRst d f).rings = d.rings := rfl
@[simp] theorem onRst_chm (d : Dev) (f : Rst → Rst) : (onRst d f).chm = d.chm := rfl
@[simp] theorem onRst_lkg (d : Dev) (f : Rst → Rst) : (onRst d f).lkg = d.lkg := rfl
@[simp] theorem onRst_fld (d : Dev) (f : Rst → Rst) : (onRst d f).fld = d.fld := rfl

@[simp] theorem onTag_regs (d : Dev) (f : TagCore → TagCore) : (onTag d f).regs = d.regs := rfl
@[simp] theorem onTag_mem (d : Dev) (f : TagCore → TagCore) : (onTag d f).mem = d.mem := rfl
@[simp] theorem onTag_fmem (d : Dev) (f : TagCore → TagCore) : (onTag d f).fmem = d.fmem := rfl
@[simp] theorem onTag_host (d : Dev) (f : TagCore → TagCore) : (onTag d f).host = d.host := rfl
@[simp] theorem onTag_cores (d : Dev) (f : TagCore → TagCore) : (onTag d f).cores = d.cores := rfl
@[simp] theorem onTag_pas (d : Dev) (f : TagCore → TagCore) : (onTag d f).pas = d.pas := rfl
@[simp] theorem onTag_ops (d : Dev) (f : TagCore → TagCore) : (onTag d f).ops = d.ops := rfl
@[simp] theorem onTag_rings (d : Dev) (f : TagCore → TagCore) : (onTag d f).rings = d.rings := rfl
@[simp] theorem onTag_chm (d : Dev) (f : TagCore → TagCore) : (onTag d f).chm = d.chm := rfl
@[simp] theorem onTag_rst (d : Dev) (f : TagCore → TagCore) : (onTag d f).rst = d.rst := rfl
@[simp] theorem onTag_lkg (d : Dev) (f : TagCore → TagCore) : (onTag d f).lkg = d.lkg := rfl
@[simp] theorem onTag_fld (d : Dev) (f : TagCore → TagCore) : (onTag d f).fld = d.fld := rfl

@[simp] theorem onTmp_regs (d : Dev) (f : Tamper → Tamper) : (onTmp d f).regs = d.regs := rfl
@[simp] theorem onTmp_mem (d : Dev) (f : Tamper → Tamper) : (onTmp d f).mem = d.mem := rfl
@[simp] theorem onTmp_fmem (d : Dev) (f : Tamper → Tamper) : (onTmp d f).fmem = d.fmem := rfl
@[simp] theorem onTmp_host (d : Dev) (f : Tamper → Tamper) : (onTmp d f).host = d.host := rfl
@[simp] theorem onTmp_cores (d : Dev) (f : Tamper → Tamper) : (onTmp d f).cores = d.cores := rfl
@[simp] theorem onTmp_pas (d : Dev) (f : Tamper → Tamper) : (onTmp d f).pas = d.pas := rfl
@[simp] theorem onTmp_ops (d : Dev) (f : Tamper → Tamper) : (onTmp d f).ops = d.ops := rfl
@[simp] theorem onTmp_rings (d : Dev) (f : Tamper → Tamper) : (onTmp d f).rings = d.rings := rfl
@[simp] theorem onTmp_chm (d : Dev) (f : Tamper → Tamper) : (onTmp d f).chm = d.chm := rfl
@[simp] theorem onTmp_rst (d : Dev) (f : Tamper → Tamper) : (onTmp d f).rst = d.rst := rfl
@[simp] theorem onTmp_lkg (d : Dev) (f : Tamper → Tamper) : (onTmp d f).lkg = d.lkg := rfl
@[simp] theorem onTmp_fld (d : Dev) (f : Tamper → Tamper) : (onTmp d f).fld = d.fld := rfl

@[simp] theorem onLkg_regs (d : Dev) (f : Lockgate → Lockgate) : (onLkg d f).regs = d.regs := rfl
@[simp] theorem onLkg_mem (d : Dev) (f : Lockgate → Lockgate) : (onLkg d f).mem = d.mem := rfl
@[simp] theorem onLkg_fmem (d : Dev) (f : Lockgate → Lockgate) : (onLkg d f).fmem = d.fmem := rfl
@[simp] theorem onLkg_host (d : Dev) (f : Lockgate → Lockgate) : (onLkg d f).host = d.host := rfl
@[simp] theorem onLkg_cores (d : Dev) (f : Lockgate → Lockgate) : (onLkg d f).cores = d.cores := rfl
@[simp] theorem onLkg_pas (d : Dev) (f : Lockgate → Lockgate) : (onLkg d f).pas = d.pas := rfl
@[simp] theorem onLkg_ops (d : Dev) (f : Lockgate → Lockgate) : (onLkg d f).ops = d.ops := rfl
@[simp] theorem onLkg_rings (d : Dev) (f : Lockgate → Lockgate) : (onLkg d f).rings = d.rings := rfl
@[simp] theorem onLkg_chm (d : Dev) (f : Lockgate → Lockgate) : (onLkg d f).chm = d.chm := rfl
@[simp] theorem onLkg_rst (d : Dev) (f : Lockgate → Lockgate) : (onLkg d f).rst = d.rst := rfl
@[simp] theorem onLkg_fld (d : Dev) (f : Lockgate → Lockgate) : (onLkg d f).fld = d.fld := rfl

@[simp] theorem sectSet_regs (d : Dev) (m : Nat) (s : RplSect) : (sectSet d m s).regs = d.regs := rfl
@[simp] theorem sectSet_mem (d : Dev) (m : Nat) (s : RplSect) : (sectSet d m s).mem = d.mem := rfl
@[simp] theorem sectSet_fmem (d : Dev) (m : Nat) (s : RplSect) : (sectSet d m s).fmem = d.fmem := rfl
@[simp] theorem sectSet_host (d : Dev) (m : Nat) (s : RplSect) : (sectSet d m s).host = d.host := rfl
@[simp] theorem sectSet_cores (d : Dev) (m : Nat) (s : RplSect) : (sectSet d m s).cores = d.cores := rfl
@[simp] theorem sectSet_pas (d : Dev) (m : Nat) (s : RplSect) : (sectSet d m s).pas = d.pas := rfl
@[simp] theorem sectSet_ops (d : Dev) (m : Nat) (s : RplSect) : (sectSet d m s).ops = d.ops := rfl
@[simp] theorem sectSet_rings (d : Dev) (m : Nat) (s : RplSect) : (sectSet d m s).rings = d.rings := rfl
@[simp] theorem sectSet_chm (d : Dev) (m : Nat) (s : RplSect) : (sectSet d m s).chm = d.chm := rfl
@[simp] theorem sectSet_rst (d : Dev) (m : Nat) (s : RplSect) : (sectSet d m s).rst = d.rst := rfl
@[simp] theorem sectSet_lkg (d : Dev) (m : Nat) (s : RplSect) : (sectSet d m s).lkg = d.lkg := rfl
@[simp] theorem sectSet_fld (d : Dev) (m : Nat) (s : RplSect) : (sectSet d m s).fld = d.fld := rfl

@[simp] theorem rsectSet_regs (d : Dev) (m : Nat) (s : RplSect) : (rsectSet d m s).regs = d.regs := rfl
@[simp] theorem rsectSet_mem (d : Dev) (m : Nat) (s : RplSect) : (rsectSet d m s).mem = d.mem := rfl
@[simp] theorem rsectSet_fmem (d : Dev) (m : Nat) (s : RplSect) : (rsectSet d m s).fmem = d.fmem := rfl
@[simp] theorem rsectSet_host (d : Dev) (m : Nat) (s : RplSect) : (rsectSet d m s).host = d.host := rfl
@[simp] theorem rsectSet_cores (d : Dev) (m : Nat) (s : RplSect) : (rsectSet d m s).cores = d.cores := rfl
@[simp] theorem rsectSet_pas (d : Dev) (m : Nat) (s : RplSect) : (rsectSet d m s).pas = d.pas := rfl
@[simp] theorem rsectSet_ops (d : Dev) (m : Nat) (s : RplSect) : (rsectSet d m s).ops = d.ops := rfl
@[simp] theorem rsectSet_rings (d : Dev) (m : Nat) (s : RplSect) : (rsectSet d m s).rings = d.rings := rfl
@[simp] theorem rsectSet_chm (d : Dev) (m : Nat) (s : RplSect) : (rsectSet d m s).chm = d.chm := rfl
@[simp] theorem rsectSet_rst (d : Dev) (m : Nat) (s : RplSect) : (rsectSet d m s).rst = d.rst := rfl
@[simp] theorem rsectSet_lkg (d : Dev) (m : Nat) (s : RplSect) : (rsectSet d m s).lkg = d.lkg := rfl
@[simp] theorem rsectSet_fld (d : Dev) (m : Nat) (s : RplSect) : (rsectSet d m s).fld = d.fld := rfl

@[simp] theorem sdSlotSet_regs (d : Dev) (i : Nat) (x : SdSlot) : (sdSlotSet d i x).regs = d.regs := rfl
@[simp] theorem sdSlotSet_mem (d : Dev) (i : Nat) (x : SdSlot) : (sdSlotSet d i x).mem = d.mem := rfl
@[simp] theorem sdSlotSet_fmem (d : Dev) (i : Nat) (x : SdSlot) : (sdSlotSet d i x).fmem = d.fmem := rfl
@[simp] theorem sdSlotSet_host (d : Dev) (i : Nat) (x : SdSlot) : (sdSlotSet d i x).host = d.host := rfl
@[simp] theorem sdSlotSet_cores (d : Dev) (i : Nat) (x : SdSlot) : (sdSlotSet d i x).cores = d.cores := rfl
@[simp] theorem sdSlotSet_pas (d : Dev) (i : Nat) (x : SdSlot) : (sdSlotSet d i x).pas = d.pas := rfl
@[simp] theorem sdSlotSet_ops (d : Dev) (i : Nat) (x : SdSlot) : (sdSlotSet d i x).ops = d.ops := rfl
@[simp] theorem sdSlotSet_rings (d : Dev) (i : Nat) (x : SdSlot) : (sdSlotSet d i x).rings = d.rings := rfl
@[simp] theorem sdSlotSet_chm (d : Dev) (i : Nat) (x : SdSlot) : (sdSlotSet d i x).chm = d.chm := rfl
@[simp] theorem sdSlotSet_rst (d : Dev) (i : Nat) (x : SdSlot) : (sdSlotSet d i x).rst = d.rst := rfl
@[simp] theorem sdSlotSet_lkg (d : Dev) (i : Nat) (x : SdSlot) : (sdSlotSet d i x).lkg = d.lkg := rfl
@[simp] theorem sdSlotSet_fld (d : Dev) (i : Nat) (x : SdSlot) : (sdSlotSet d i x).fld = d.fld := rfl

@[simp] theorem tagCopySet_regs (d : Dev) (i c : Nat) (x : TagCopy) : (tagCopySet d i c x).regs = d.regs := rfl
@[simp] theorem tagCopySet_mem (d : Dev) (i c : Nat) (x : TagCopy) : (tagCopySet d i c x).mem = d.mem := rfl
@[simp] theorem tagCopySet_fmem (d : Dev) (i c : Nat) (x : TagCopy) : (tagCopySet d i c x).fmem = d.fmem := rfl
@[simp] theorem tagCopySet_host (d : Dev) (i c : Nat) (x : TagCopy) : (tagCopySet d i c x).host = d.host := rfl
@[simp] theorem tagCopySet_cores (d : Dev) (i c : Nat) (x : TagCopy) : (tagCopySet d i c x).cores = d.cores := rfl
@[simp] theorem tagCopySet_pas (d : Dev) (i c : Nat) (x : TagCopy) : (tagCopySet d i c x).pas = d.pas := rfl
@[simp] theorem tagCopySet_ops (d : Dev) (i c : Nat) (x : TagCopy) : (tagCopySet d i c x).ops = d.ops := rfl
@[simp] theorem tagCopySet_rings (d : Dev) (i c : Nat) (x : TagCopy) : (tagCopySet d i c x).rings = d.rings := rfl
@[simp] theorem tagCopySet_chm (d : Dev) (i c : Nat) (x : TagCopy) : (tagCopySet d i c x).chm = d.chm := rfl
@[simp] theorem tagCopySet_rst (d : Dev) (i c : Nat) (x : TagCopy) : (tagCopySet d i c x).rst = d.rst := rfl
@[simp] theorem tagCopySet_lkg (d : Dev) (i c : Nat) (x : TagCopy) : (tagCopySet d i c x).lkg = d.lkg := rfl
@[simp] theorem tagCopySet_fld (d : Dev) (i c : Nat) (x : TagCopy) : (tagCopySet d i c x).fld = d.fld := rfl

@[simp] theorem tagDataSet_regs (d : Dev) (m pass : Nat) (ws : List Word) : (tagDataSet d m pass ws).regs = d.regs := rfl
@[simp] theorem tagDataSet_mem (d : Dev) (m pass : Nat) (ws : List Word) : (tagDataSet d m pass ws).mem = d.mem := rfl
@[simp] theorem tagDataSet_fmem (d : Dev) (m pass : Nat) (ws : List Word) : (tagDataSet d m pass ws).fmem = d.fmem := rfl
@[simp] theorem tagDataSet_host (d : Dev) (m pass : Nat) (ws : List Word) : (tagDataSet d m pass ws).host = d.host := rfl
@[simp] theorem tagDataSet_cores (d : Dev) (m pass : Nat) (ws : List Word) : (tagDataSet d m pass ws).cores = d.cores := rfl
@[simp] theorem tagDataSet_pas (d : Dev) (m pass : Nat) (ws : List Word) : (tagDataSet d m pass ws).pas = d.pas := rfl
@[simp] theorem tagDataSet_ops (d : Dev) (m pass : Nat) (ws : List Word) : (tagDataSet d m pass ws).ops = d.ops := rfl
@[simp] theorem tagDataSet_rings (d : Dev) (m pass : Nat) (ws : List Word) : (tagDataSet d m pass ws).rings = d.rings := rfl
@[simp] theorem tagDataSet_chm (d : Dev) (m pass : Nat) (ws : List Word) : (tagDataSet d m pass ws).chm = d.chm := rfl
@[simp] theorem tagDataSet_rst (d : Dev) (m pass : Nat) (ws : List Word) : (tagDataSet d m pass ws).rst = d.rst := rfl
@[simp] theorem tagDataSet_lkg (d : Dev) (m pass : Nat) (ws : List Word) : (tagDataSet d m pass ws).lkg = d.lkg := rfl
@[simp] theorem tagDataSet_fld (d : Dev) (m pass : Nat) (ws : List Word) : (tagDataSet d m pass ws).fld = d.fld := rfl

/-! ### What they set -/

@[simp] theorem pv_pvSet (d : Dev) (m a b : Nat) (v : Word) : pv (pvSet d m a v) m b = if b = a then v else pv d m b := by
  simp [pv, pvSet]
@[simp] theorem rdata_rdSet (d : Dev) (m n : Nat) (v : Word) : tabGet 0 (rdSet d m v).rdata n = if n = m then v else tabGet 0 d.rdata n := by
  simp [rdSet]
@[simp] theorem ringGet_ringSet (d : Dev) (r q : Nat) (x : Ring) : ringGet (ringSet d r x) q = if q = r then x else ringGet d q := by
  simp [ringGet, ringSet]
@[simp] theorem coreGet_coreSet (d : Dev) (m n : Nat) (c : Core) : coreGet (coreSet d m c) n = if n = m then c else coreGet d n := by
  simp [coreGet, coreSet]
@[simp] theorem part_setPart (d : Dev) (k i k' i' : Nat) (p : Part) :
    part (setPart d k i p) k' i' = if unitKey k' i' = unitKey k i then p else part d k' i' := by simp [part, setPart]
@[simp] theorem cmdGet_cmdSet (d : Dev) (b m b' m' : Nat) (c : CmdRes) :
    cmdGet (cmdSet d b m c) b' m' = if cmdKey b' m' = cmdKey b m then c else cmdGet d b' m' := by simp [cmdGet, cmdSet]
@[simp] theorem portGet_portSet (d : Dev) (i j : Nat) (x : Port) : portGet (portSet d i x) j = if j = i then x else portGet d j := by simp [portGet, portSet]
@[simp] theorem chainGet_chainSet (d : Dev) (i j : Nat) (x : Chain) : chainGet (chainSet d i x) j = if j = i then x else chainGet d j := by simp [chainGet, chainSet]
@[simp] theorem engGet_engSet (d : Dev) (i j : Nat) (x : PingEngine) : engGet (engSet d i x) j = if j = i then x else engGet d j := by simp [engGet, engSet]
@[simp] theorem plane_planeSet (d : Dev) (i j : Nat) (x : Plane) : plane (planeSet d i x) j = if j = i then x else plane d j := by simp [plane, planeSet]
@[simp] theorem unitGet_unitSet (d : Dev) (i j : Nat) (x : GrdUnit) : unitGet (unitSet d i x) j = if j = i then x else unitGet d j := by simp [unitGet, unitSet]
@[simp] theorem saGet_saSet (d : Dev) (i j : Nat) (x : Sa) : saGet (saSet d i x) j = if j = i then x else saGet d j := by simp [saGet, saSet]
@[simp] theorem slotGet_slotSet (d : Dev) (i j : Nat) (x : Slot) : slotGet (slotSet d i x) j = if j = i then x else slotGet d j := by simp [slotGet, slotSet]
@[simp] theorem mbxGet_mbxSet (d : Dev) (i j : Nat) (x : Mbx) : mbxGet (mbxSet d i x) j = if j = i then x else mbxGet d j := by simp [mbxGet, mbxSet]
@[simp] theorem ofcIf_ofcIfSet (d : Dev) (i j : Nat) (x : OfcIf) : ofcIf (ofcIfSet d i x) j = if j = i then x else ofcIf d j := by simp [ofcIf, ofcIfSet]
@[simp] theorem pmuGet_pmuSet (d : Dev) (i j : Nat) (x : PmuCore) : pmuGet (pmuSet d i x) j = if j = i then x else pmuGet d j := by simp [pmuGet, pmuSet]
@[simp] theorem sdSlot_sdSlotSet (d : Dev) (i j : Nat) (x : SdSlot) : sdSlot (sdSlotSet d i x) j = if j = i then x else sdSlot d j := by simp [sdSlot, sdSlotSet, onSdh]
/-- A copy written is the copy read, every other copy of tag memory as before. -/
theorem tagCopy_tagCopySet (d : Dev) (i j c k : Nat) (x : TagCopy) (hc : c < 2) (hk : k < 2) :
    tagCopy (tagCopySet d i c x) j k = if j = i ∧ k = c then x else tagCopy d j k := by
  by_cases h : j = i
  · subst h; simp [tagCopy, tagCopySet, onTag]
  · have n : 2 * j + k ≠ 2 * i + c := by omega
    simp only [tagCopy, tagCopySet, onTag, tabSet, h, false_and, if_false]
    split <;> simp [n]
@[simp] theorem rst_onRst (d : Dev) (f : Rst → Rst) : (onRst d f).rst = f d.rst := rfl
@[simp] theorem tmp_onTmp (d : Dev) (f : Tamper → Tamper) : (onTmp d f).tmp = f d.tmp := rfl
@[simp] theorem rpl_onRpl (d : Dev) (f : Rpl → Rpl) : (onRpl d f).rpl = f d.rpl := rfl
@[simp] theorem hop_onHop (d : Dev) (f : Hopper → Hopper) : (onHop d f).hop = f d.hop := rfl
@[simp] theorem life_onLife (d : Dev) (f : Life → Life) : (onLife d f).life = f d.life := rfl
@[simp] theorem tag_onTag (d : Dev) (f : TagCore → TagCore) : (onTag d f).tag = f d.tag := rfl
@[simp] theorem sdh_onSdh (d : Dev) (f : SdHost → SdHost) : (onSdh d f).sdh = f d.sdh := rfl
@[simp] theorem lkg_onLkg (d : Dev) (f : Lockgate → Lockgate) : (onLkg d f).lkg = f d.lkg := rfl

end Sys2Proof.Machine
end

