-- ==== Sys2Proof/Laws/Memory.lean ====
section
/-! SUPPORT. Laws of the memories: what a read gives after each write, and that every memory operation keeps the canonical form. -/

namespace Sys2Proof.Machine

/-! ### Reads after writes -/

@[simp] theorem memRd_memWr (d : Dev) (a b : Nat) (w : Word) : memRd (memWr d a w) b = if b = a then w else memRd d b := by
  simp [memRd, memWr, loseResv]

@[simp] theorem fmRd_memWr (d : Dev) (a b : Nat) (w : Word) : fmRd (memWr d a w) b = fmRd d b := rfl

/-- Words of field memory past the ones written keep their value. -/
theorem fmRd_fmWr_of_outside (d : Dev) (a b : Nat) (ws : List Word) (h : b < a ∨ a + ws.length ≤ b) : fmRd (fmWr d a ws) b = fmRd d b := by
  simp only [fmRd, fmWr, loseResv]
  exact tabGet_tabSetList_of_outside 0 d.fmem a b ws h

/-- A word of field memory written reads back. -/
theorem fmRd_fmWr_of_inside (d : Dev) (a k : Nat) (ws : List Word) (h : k < ws.length) : fmRd (fmWr d a ws) (a + k) = ws[k] := by
  simp only [fmRd, fmWr, loseResv]
  exact tabGet_tabSetList_of_inside 0 d.fmem a k ws h

/-- Octets of host memory past the ones written keep their value. -/
theorem host_hostWr_of_outside (d : Dev) (a b : Nat) (o : Octets) (h : b < a ∨ a + o.length ≤ b) :
    tabGet 0 (hostWr d a o).host b = tabGet 0 d.host b := tabGet_tabSetList_of_outside 0 d.host a b o h

/-- An octet of host memory written reads back. -/
theorem host_hostWr_of_inside (d : Dev) (a k : Nat) (o : Octets) (h : k < o.length) : tabGet 0 (hostWr d a o).host (a + k) = o[k] :=
  tabGet_tabSetList_of_inside 0 d.host a k o h

/-- Words of host-island memory outside the ones an engine writes keep their value. -/
theorem memRd_memWrOct_of_outside (d : Dev) (dense : Bool) (a b : Nat) (o : Octets) (h : b < a ∨ a + (packOct dense o).length ≤ b) :
    memRd (memWrOct d dense a o) b = memRd d b := by
  simp only [memRd, memWrOct, loseResv]
  exact tabGet_tabSetList_of_outside 0 d.mem a b _ h

/-! ### The canonical form: an update that leaves the three memories alone keeps it -/

theorem memWf_of_same {d t : Dev} (h : d.memWf) (hm : t.mem = d.mem) (hf : t.fmem = d.fmem) (hh : t.host = d.host) : t.memWf := by
  simpa [Dev.memWf, hm, hf, hh] using h

/-- A fold of updates that each keep the form keeps it. -/
theorem memWf_foldl {α : Type} (f : Dev → α → Dev) (l : List α) (hf : ∀ d x, x ∈ l → d.memWf → (f d x).memWf) (d : Dev) (h : d.memWf) :
    (l.foldl f d).memWf := by
  induction l generalizing d with
  | nil => exact h
  | cons a l ih => exact ih (fun d x hx => hf d x (by simp [hx])) _ (hf d a (by simp) h)

/-! ### Every memory operation keeps it -/

theorem memWf_hostWr (d : Dev) (a : Nat) (o : Octets) (h : d.memWf) : (hostWr d a o).memWf := ⟨h.1, h.2.1, tabWf_tabSetList 0 d.host a o h.2.2⟩

theorem memWf_loseResv (d : Dev) (own : Option Nat) (field : Bool) (a n : Nat) (h : d.memWf) : (loseResv d own field a n).memWf := h

theorem memWf_memWr (d : Dev) (a : Nat) (w : Word) (h : d.memWf) : (memWr d a w).memWf := ⟨tabWf_tabSet 0 d.mem a w h.1, h.2⟩

theorem memWf_memWrOct (d : Dev) (dense : Bool) (a : Nat) (o : Octets) (h : d.memWf) : (memWrOct d dense a o).memWf :=
  ⟨tabWf_tabSetList 0 d.mem a _ h.1, h.2⟩

theorem memWf_fmWr (d : Dev) (a : Nat) (ws : List Word) (h : d.memWf) : (fmWr d a ws).memWf :=
  ⟨h.1, tabWf_tabSetList 0 d.fmem a ws h.2.1, h.2.2⟩

theorem memWf_scribbleHost (d : Dev) (a n : Nat) (h : d.memWf) : (scribbleHost d a n).memWf := memWf_hostWr _ _ _ h

theorem memWf_coreWrite (m a : Nat) (v : Word) (d : Dev) (h : d.memWf) : (coreWrite m a v d).memWf := by
  unfold coreWrite
  split
  · exact h
  · split
    · exact ⟨h.1, tabWf_tabSet 0 d.fmem a v h.2.1, h.2.2⟩
    · exact ⟨tabWf_tabSet 0 d.mem a v h.1, h.2⟩

theorem memWf_filter (d : Dev) (p : Nat × Word → Bool) (h : d.memWf) : ({ d with mem := d.mem.filter p } : Dev).memWf :=
  ⟨tabWf_filter 0 d.mem p h.1, h.2⟩

theorem memWf_rgSet (d : Dev) (a : Nat) (v : Word) (h : d.memWf) : (rgSet d a v).memWf := memWf_of_same h (by simp) (by simp) (by simp)

theorem memWf_mpuRecord (m ident access a detail : Nat) (d : Dev) (h : d.memWf) : (mpuRecord m ident access a detail d).memWf := by
  unfold mpuRecord rgAdd
  extract_lets b e
  split
  · exact memWf_rgSet _ _ _ h
  · exact memWf_rgSet _ _ _ (memWf_rgSet _ _ _ (memWf_rgSet _ _ _ h))

theorem memWf_engRead (d : Dev) (m ident col a n : Nat) (h : d.memWf) : (engRead d m ident col a n).2.memWf := by
  unfold engRead
  split
  · exact h
  · exact memWf_mpuRecord _ _ _ _ _ d h

theorem memWf_engWrite (m ident col : Nat) (bs : List (Nat × Nat)) (ws : List Word) (d : Dev) (h : d.memWf) :
    (engWrite m ident col bs ws d).2.memWf := by
  induction bs generalizing ws d with
  | nil => exact h
  | cons b r ih =>
    obtain ⟨a, k⟩ := b
    unfold engWrite
    split
    · exact memWf_mpuRecord _ _ _ _ _ d h
    · exact ih _ _ ⟨tabWf_tabSetList 0 d.mem a _ h.1, h.2⟩

theorem memWf_engWriteAt (d : Dev) (m ident col a : Nat) (ws : List Word) (h : d.memWf) : (engWriteAt d m ident col a ws).2.memWf :=
  memWf_engWrite _ _ _ _ _ d h

theorem memWf_ite (c : Prop) [Decidable c] (x y : Dev) (hx : x.memWf) (hy : y.memWf) : (if c then x else y).memWf := by
  split <;> assumption

theorem memWf_memRun (d : Dev) (a : Nat) (ws : List Word) (own : Option Nat) (field : Bool) (b n : Nat) (h : d.memWf) :
    (loseResv { d with mem := tabSetList 0 d.mem a ws } own field b n).memWf := ⟨tabWf_tabSetList 0 d.mem a ws h.1, h.2⟩

theorem memWf_ringAdvance (m base k n : Nat) (d : Dev) (h : d.memWf) : (ringAdvance m base k n d).memWf := memWf_rgSet _ _ _ h

theorem memWf_pushInput (d : Dev) (core cls key pass : Nat) (data : List Nat) (h : d.memWf) : (pushInput d core cls key pass data).memWf := h

theorem memWf_noteMem (d : Dev) (mems : List (Nat × Nat)) (h : d.memWf) : (noteMem d mems).memWf := h

theorem memWf_rxWrite (b : Barge) (d t : Dev) (ht : rxWrite b d = some t) (h : d.memWf) : t.memWf := by
  unfold rxWrite at ht
  extract_lets m e at ht
  split at ht
  · cases ht
  · split at ht
    · cases ht
    · extract_lets u v at ht
      rw [← Option.some.inj ht]
      have hu : u.memWf := memWf_ite _ _ _ (memWf_fmWr _ _ _ h) (memWf_memRun d _ _ _ _ _ _ h)
      exact memWf_noteMem _ _ (memWf_pushInput _ _ _ _ _ _ (memWf_ringAdvance _ _ _ _ _ hu))

end Sys2Proof.Machine
end

