-- ==== Sys2Proof/Machine/Pins.lean ====
section
/-! DEFINITION. What the module drives on its connectors (chapters 20 and 21), as a function of the state: a pin has no storage of its own. -/

namespace Sys2Proof.Machine

/-- R457: may the digital pins of a block of the host island drive, the block being released with a step of Table 20.3? Otherwise each is undriven, on
its weak pull-up. -/
def pinsDrive (d : Dev) (step : Nat) : Bool := powered d && decide (step ≤ d.rst.hostStep)

/-- R468: millivolts at an officer card interface's VCC, the level of its RST, CLK and IO: 0 V while it is OFF, class B first while it activates. -/
def ofcVcc (d : Dev) (i : Nat) : Nat :=
  let x := ofcIf d i
  if x.state = 0 ∨ ¬ pinsDrive d 4 then 0 else if x.cls then 5000 else 3000

/-- R140, R457: are the transmit lanes of a link's two cages squelched? -/
def linkSilent (d : Dev) (link : Nat) : Bool := !powered d || !linkOpen d link

/-- R457: does the module drive its PCIe transmit pairs? -/
def pcieDrives (d : Dev) : Bool := pinsDrive d 6

end Sys2Proof.Machine
end

