-- ==== Sys2Proof/WellFormed.lean ====
section
/-! DEFINITION. Well-formed commands: every operand in the range that its place in the spec has. -/

namespace Sys2Proof

/-- Master identities of Table 1.3. -/
def masterOk (m : Nat) : Bool :=
  decide (m = 1 ∨ m = 2) || decide (0x10 ≤ m ∧ m ≤ 0x17) || decide (0x20 ≤ m ∧ m ≤ 0x23) || decide (0x30 ≤ m ∧ m ≤ 0x7F) ||
    decide (0x80 ≤ m ∧ m ≤ 0x87) || decide (0x90 ≤ m ∧ m ≤ 0x9F) || decide (m = 0xA0 ∨ m = 0xA8 ∨ m = 0xB0 ∨ m = 0xB8 ∨ m = 0xC0 ∨ m = 0xC1)

/-- Identities of the Wharf's functions. -/
def isFnId (m : Nat) : Bool := decide (0x40 ≤ m ∧ m ≤ 0x7F)

/-- A configuration write names a function and codes of the fields' widths. -/
def pcieCfgOk (w : PcieCfg) : Bool :=
  match w with
  | .busMaster f _ => decide (f < 64)
  | .powerD0 f => decide (f < 64)
  | .numVfs n => decide (n < 2 ^ 16)
  | .maxPayload f code => decide (f < 64) && decide (code < 8)
  | .maxReadRequest f code => decide (f < 64) && decide (code < 8)
  | .ecrc f _ _ => decide (f < 64)
  | .aerClear f b => decide (f < 64) && decide (b < 128)

/-- What the air can give in answer to a frame (R252). -/
def airOk (a : AirAns) : Bool := decide (a.air ∈ [0, 1, 3, 5]) && (match a.coll with | some b => decide (b < 40) | none => true)

/-- Identities of the thirteen cores. -/
def coreOk (m : Nat) : Bool := decide (m = 1) || decide (0x10 ≤ m ∧ m ≤ 0x17) || decide (0x20 ≤ m ∧ m ≤ 0x23)

/-- General registers G0 to G31 (R300). -/
def regOk (r : Nat) : Bool := decide (r < 32)

/-- System registers of Table 12.7. -/
def sysRegOk (sr : Nat) : Bool := decide (sr ≤ 13) || decide (sr = 16 ∨ sr = 17)

/-- Segments and stages of Table 14.10. -/
def Wcc.ok (w : Wcc) : Bool := decide (w.seg < 8) && decide (w.stage < 3) && decide (w.err < 256)

def wccOk (w : Option WccAt) : Bool := match w with | some x => decide (x.seg < 7) && decide (x.stage < 3) && decide (x.addr < 2 ^ 36) && decide (x.err < 256) | none => true

/-- Errors of an exception entry: the frame has four words (R331). -/
def EntryWcc.ok (e : EntryWcc) : Bool :=
  (match e.vector with | some w => w.ok | none => true) && (match e.frame with | some (k, w) => decide (k < 4) && w.ok | none => true)

/-- An instruction as a core issues it; a host window word has 32 bits. -/
def issueOk (x : Issue) : Bool :=
  coreOk x.core && (match x.fetch with | some w => w.ok | none => true) && (match x.data with | some w => w.2.ok | none => true) && x.vec.ok &&
    (match x.window with | some v => decide (v < 2 ^ 32) | none => true)

/-- A card's relative address has 16 bits, each of its blocks 512 octets (R413, R414). -/
def sdCardOk (x : SdCard) : Bool := decide (x.rca < 2 ^ 16) && x.data.all (fun b => decide (b.2.length = 512))

/-- Header fields of a descriptor (Table 3.12). -/
def hdrOk (h : DescHdr) : Bool := decide (h.rqMode < 4) && decide (h.rqK < 16) && decide (h.opTag < 2 ^ 32)

/-- Up to 16 descriptors of 64 octets in one turn (R72). -/
def descsOk (l : List Octets) : Bool := decide (l.length ≤ 16) && l.all (fun o => decide (o.length = 64))

/-- Three distinct registers other than G0, as the block instructions take them (R315). -/
def blockRegsOk (rd ra rb : Nat) : Bool := decide (rd ≠ 0 ∧ ra ≠ 0 ∧ rb ≠ 0 ∧ rd ≠ ra ∧ rd ≠ rb ∧ ra ≠ rb)

/-- An even register pair other than G0 (R307). -/
def pairOk (rd : Nat) : Bool := decide (rd ≠ 0) && decide (rd % 2 = 0)

/-- A bit field of a word: from bit lo, w bits. -/
def fieldOk (lo w : Nat) : Bool := decide (1 ≤ w) && decide (lo + w ≤ 36)

/-- A command every operand of which is in range. -/
def wellFormed (i : Instr) : Bool :=
  match i with
  | .passEdge => true
  | .fieldEdge => true
  | .latchedLoRead m a => decide (m < 256) && decide (a < 2 ^ 24)
  | .fineTimerRead core a => coreOk core && decide (a < 2 ^ 24)
  | .registerWrite m pl a v => decide (m < 256) && decide (pl ≤ 2) && decide (a < 2 ^ 24) && decide (v < (if isFnId m then 2 ^ 64 else 2 ^ 36))
  | .chamberFieldWrite m a _ => decide (m < 256) && decide (a < 2 ^ 24)
  | .claim m => masterOk m
  | .level m => masterOk m
  | .openNext m => masterOk m
  | .openAt m => masterOk m
  | .unschedule m => masterOk m
  | .discard m => masterOk m
  | .levelComplete => true
  | .chamberOpen => true
  | .approval ring h _ => decide (ring < 1024) && hdrOk h
  | .approvalAccept => true
  | .approvalExpiry => true
  | .keySlotExpiry => true
  | .boundOverrun => true
  | .resultRelease => true
  | .partReqDrain m pl _ _ _ => masterOk m && decide (pl ≤ 2)
  | .partReqFence m pl _ _ _ => masterOk m && decide (pl ≤ 2)
  | .partReqReturn m pl _ _ _ => masterOk m && decide (pl ≤ 2)
  | .partitionApply => true
  | .drainComplete => true
  | .submissionDoorbell f ring _ _ _ => decide (f < 64) && decide (ring < 1024)
  | .completionDoorbell f ring _ _ _ => decide (f < 64) && decide (ring < 1024)
  | .descriptorFetch ring descs => decide (ring < 1024) && descsOk descs
  | .descriptorFetchFailure ring cause => decide (ring < 1024) && decide (0xF0 ≤ cause ∧ cause ≤ 0xF3)
  | .stagingComplete ring _ _ => decide (ring < 1024)
  | .stagingReadFailure ring _ _ => decide (ring < 1024)
  | .ringEnable m ring _ => masterOk m && decide (ring < 1024)
  | .ringDrain m ring => masterOk m && decide (ring < 1024)
  | .ringDisable ring => decide (ring < 1024)
  | .completionWrite ring => decide (ring < 1024)
  | .moderationTimerExpiry ring => decide (ring < 1024)
  | .heldCompletion => true
  | .functionLevelReset f => decide (f < 64)
  | .d3hotEntry f => decide (f < 64)
  | .pcieLinkLoss _ => true
  | .encrypt ring h _ => decide (ring < 1024) && hdrOk h
  | .decrypt ring h _ => decide (ring < 1024) && hdrOk h
  | .macGenerate ring h _ => decide (ring < 1024) && hdrOk h
  | .macVerify ring h _ => decide (ring < 1024) && hdrOk h
  | .hash ring h _ => decide (ring < 1024) && hdrOk h
  | .hmac ring h _ => decide (ring < 1024) && hdrOk h
  | .job ring h _ => decide (ring < 1024) && hdrOk h
  | .lookup ring h _ _ digest => decide (ring < 1024) && hdrOk h && decide (digest.length = 32)
  | .stageDeltas ring h _ _ => decide (ring < 1024) && hdrOk h
  | .commitEpoch ring h _ => decide (ring < 1024) && hdrOk h
  | .chamberClaim ring h => decide (ring < 1024) && hdrOk h
  | .chamberWrite ring h _ _ => decide (ring < 1024) && hdrOk h
  | .chamberCmd ring h _ _ => decide (ring < 1024) && hdrOk h
  | .keyImport ring h _ _ _ => decide (ring < 1024) && hdrOk h
  | .keyExport ring h _ _ _ _ => decide (ring < 1024) && hdrOk h
  | .keyErase ring h _ => decide (ring < 1024) && hdrOk h
  | .partition ring h _ => decide (ring < 1024) && hdrOk h
  | .cancelRing ring h _ => decide (ring < 1024) && hdrOk h
  | .regRead ring h _ _ _ => decide (ring < 1024) && hdrOk h
  | .holdUnlock ring h _ _ => decide (ring < 1024) && hdrOk h
  | .envSeal ring h _ _ _ _ _ _ => decide (ring < 1024) && hdrOk h
  | .envOpen ring h _ _ _ _ _ _ => decide (ring < 1024) && hdrOk h
  | .cipherOpComplete _ wcc => wccOk wcc
  | .hashOpComplete _ wcc => wccOk wcc
  | .lateResultDiscard _ _ => true
  | .keyExhaustion slot => decide (slot < 16384)
  | .fwqDoorbell q pl _ => decide (q < 9) && decide (pl ≤ 2)
  | .kslImport m pl => masterOk m && decide (pl ≤ 2)
  | .kslExport m pl => masterOk m && decide (pl ≤ 2)
  | .kslErase m pl => masterOk m && decide (pl ≤ 2)
  | .derive m pl => masterOk m && decide (pl ≤ 2)
  | .unwrap3394 m pl => masterOk m && decide (pl ≤ 2)
  | .plainFrameArrival link _ _ => decide (link < 4)
  | .sealedFrameArrival link _ _ => decide (link < 4)
  | .stageAdvance stream stage _ => decide (stream < 8) && decide (stage < 3)
  | .frameTransmit stream _ => decide (stream < 8)
  | .uncontrolledTx link _ => decide (link < 4)
  | .uqRxHeadWrite link _ => decide (link < 4)
  | .linkStateChange link _ _ => decide (link < 4)
  | .loadSak m pl => masterOk m && decide (pl ≤ 2)
  | .clearKey m pl => masterOk m && decide (pl ≤ 2)
  | .pnWarn sa => decide (sa < 4096)
  | .saFreeze sa => decide (sa < 4096)
  | .saRetire sa => decide (sa < 4096)
  | .loadImage m pl => masterOk m && decide (pl ≤ 2)
  | .grdFwqDoorbell q pl _ => decide (q < 9) && decide (pl ≤ 2)
  | .grdFwqCancel q _ => decide (q < 9)
  | .yieldPointSave unit => decide (unit < 16)
  | .suspendedJobResume unit => decide (unit < 16)
  | .grinderJobEnd unit wcc => decide (unit < 16) && wccOk wcc
  | .rsaSelfcheckFailure unit => decide (unit < 16)
  | .hardwareDraw m => decide (m = 1) || (decide (0x80 ≤ m) && decide (m ≤ 0x87)) || (decide (0x90 ≤ m) && decide (m ≤ 0x9F))
  | .repetitionCountFailure m _ => decide (m < 16)
  | .windowComplete src o => decide (src < 4) && decide (o.length = 128)
  | .startupTestComplete runs => runs.all (fun r => decide (r.1 < 4) && decide (r.2.length = 512))
  | .hopRetest m _ => masterOk m
  | .generatorInstantiate inst _ => decide (inst < 2)
  | .generatorReseed inst => decide (inst < 2)
  | .reseedOverdue inst => decide (inst < 2)
  | .hopSwDrawRead m => masterOk m
  | .rawModeEnable m _ => masterOk m
  | .rawModeEntry => true
  | .hopRawDataRead m _ => masterOk m
  | .rawModeExit m => masterOk m
  | .lookupComplete _ wcc => wccOk wcc
  | .crgStage m pl wcc => masterOk m && decide (pl ≤ 2) && wccOk wcc
  | .crgCommit m pl => masterOk m && decide (pl ≤ 2)
  | .crgDiscard m pl => masterOk m && decide (pl ≤ 2)
  | .deltaPreparation => true
  | .epochSwitch => true
  | .commitTimeout => true
  | .kekActivation => true
  | .sweepStart engine => decide (engine < 16)
  | .ping engine _ _ => decide (engine < 16)
  | .baselinePing engine port _ _ => decide (engine < 16) && decide (port < 256)
  | .lingerExpiry port => decide (port < 256)
  | .flightReady flight => decide (flight < 16)
  | .request m port mode => masterOk m && decide (port < 256) && decide (mode < 2)
  | .release m port mode => masterOk m && decide (port < 256) && decide (mode < 2)
  | .withdraw m port mode => masterOk m && decide (port < 256) && decide (mode < 2)
  | .grantCeiling port => decide (port < 256)
  | .tuningComplete chain _ _ _ _ _ => decide (chain < 32)
  | .settleEnd chain => decide (chain < 32)
  | .vswrMismatch chain _ _ => decide (chain < 32)
  | .aptClear m port _ => masterOk m && decide (port < 256)
  | .fieldSupplyFault _ => true
  | .eventQueueWrite core => coreOk core
  | .fldEvqHeadWrite core _ => coreOk core
  | .chnFqTailWrite m chain _ => masterOk m && decide (chain < 32)
  | .activateA chain answers => decide (chain < 32) && answers.all airOk
  | .activateB chain answers => decide (chain < 32) && answers.all airOk
  | .exchange chain air _ => decide (chain < 32) && decide (air ∈ [0, 1, 3, 5])
  | .emuArm chain _ => decide (chain < 32)
  | .emuReceive chain => decide (chain < 32)
  | .emuRespond chain => decide (chain < 32)
  | .entryCompletion chain => decide (chain < 32)
  | .wtxRequestReceived chain wtxm => decide (chain < 32) && decide (wtxm < 256)
  | .readerFrameReceived chain _ _ => decide (chain < 32)
  | .emuWtxTimer chain => decide (chain < 32)
  | .emuFieldLost chain => decide (chain < 32)
  | .tagSessionStart port fsdi => decide (port < 256) && decide (fsdi ≤ 8)
  | .tagSessionEnd how => decide (how < 3)
  | .tagSelect _ => true
  | .tagReadBlock block => decide (block < 128)
  | .tagReadBlockLock block _ => decide (block < 128)
  | .tagReadCounter counter => decide (counter < 16)
  | .getChallenge => true
  | .tagWriteBlock block _ _ => decide (block < 128)
  | .tagIncCounter counter _ _ => decide (counter < 16)
  | .tagRelease block => decide (block < 128)
  | .tagMacVerdict _ => true
  | .challengeReceive challenge => decide (challenge.length = 16)
  | .wiredReadBlock m _ => masterOk m
  | .wiredWriteBlock m _ => masterOk m
  | .wiredReadCounter m _ => masterOk m
  | .wiredIncCounter m _ _ => masterOk m
  | .tagMemoryAccess _ => true
  | .tagFieldCollapse _ => true
  | .bargeSend _ lane => decide (lane < 4)
  | .bargeReceive _ lane errs => decide (lane < 4) && decide (errs.length ≤ 16) && errs.all (fun e => decide (e < 256))
  | .bargeQueueWrite _ lane => decide (lane < 4)
  | .lkgTxqTailWrite m _ => masterOk m
  | .lkgRxqHeadWrite m _ => masterOk m
  | .presenceReport => true
  | .chainGrant => true
  | .credQuery => true
  | .credAnswer => true
  | .cryptoRequest => true
  | .cryptoAnswer => true
  | .auditRecord => true
  | .health => true
  | .configPush => true
  | .configAck => true
  | .firmwareBlock => true
  | .drawFill => true
  | .challenge => true
  | .replayInput => true
  | .replayLog => true
  | .fieldMessage => true
  | .coreStopBarge => true
  | .mbxSend m channel => masterOk m && decide (channel < 64)
  | .mbxAck m channel _ => masterOk m && decide (channel < 64)
  | .mailboxTimeout channel => decide (channel < 64)
  | .add x rd ra rb => issueOk x && regOk rd && regOk ra && regOk rb
  | .sub x rd ra rb => issueOk x && regOk rd && regOk ra && regOk rb
  | .addc x rd ra rb => issueOk x && regOk rd && regOk ra && regOk rb
  | .subb x rd ra rb => issueOk x && regOk rd && regOk ra && regOk rb
  | .and x rd ra rb => issueOk x && regOk rd && regOk ra && regOk rb
  | .or x rd ra rb => issueOk x && regOk rd && regOk ra && regOk rb
  | .xor x rd ra rb => issueOk x && regOk rd && regOk ra && regOk rb
  | .andn x rd ra rb => issueOk x && regOk rd && regOk ra && regOk rb
  | .slt x rd ra rb => issueOk x && regOk rd && regOk ra && regOk rb
  | .sltu x rd ra rb => issueOk x && regOk rd && regOk ra && regOk rb
  | .cmp x ra rb => issueOk x && regOk ra && regOk rb
  | .neg x rd ra => issueOk x && regOk rd && regOk ra
  | .min x rd ra rb => issueOk x && regOk rd && regOk ra && regOk rb
  | .max x rd ra rb => issueOk x && regOk rd && regOk ra && regOk rb
  | .addi x rd ra imm => issueOk x && regOk rd && regOk ra && decide (imm < 2 ^ 18)
  | .andi x rd ra imm => issueOk x && regOk rd && regOk ra && decide (imm < 2 ^ 18)
  | .ori x rd ra imm => issueOk x && regOk rd && regOk ra && decide (imm < 2 ^ 18)
  | .xori x rd ra imm => issueOk x && regOk rd && regOk ra && decide (imm < 2 ^ 18)
  | .slti x rd ra imm => issueOk x && regOk rd && regOk ra && decide (imm < 2 ^ 18)
  | .sltiu x rd ra imm => issueOk x && regOk rd && regOk ra && decide (imm < 2 ^ 18)
  | .lih x rd imm => issueOk x && regOk rd && decide (imm < 2 ^ 18)
  | .cmpi x ra imm => issueOk x && regOk ra && decide (imm < 2 ^ 18)
  | .shl x rd ra rb => issueOk x && regOk rd && regOk ra && regOk rb
  | .shr x rd ra rb => issueOk x && regOk rd && regOk ra && regOk rb
  | .sar x rd ra rb => issueOk x && regOk rd && regOk ra && regOk rb
  | .rol x rd ra rb => issueOk x && regOk rd && regOk ra && regOk rb
  | .shli x rd ra sh => issueOk x && regOk rd && regOk ra && decide (sh < 36)
  | .shri x rd ra sh => issueOk x && regOk rd && regOk ra && decide (sh < 36)
  | .sari x rd ra sh => issueOk x && regOk rd && regOk ra && decide (sh < 36)
  | .roli x rd ra sh => issueOk x && regOk rd && regOk ra && decide (sh < 36)
  | .extu x rd ra lo w => issueOk x && regOk rd && regOk ra && fieldOk lo w
  | .ins x rd ra lo w => issueOk x && regOk rd && regOk ra && fieldOk lo w
  | .mul x rd ra rb => issueOk x && regOk rd && regOk ra && regOk rb
  | .mulh x rd ra rb => issueOk x && regOk rd && regOk ra && regOk rb
  | .mulhu x rd ra rb => issueOk x && regOk rd && regOk ra && regOk rb
  | .mulp x rd ra rb => issueOk x && regOk rd && regOk ra && regOk rb && pairOk rd
  | .div x rd ra rb => issueOk x && regOk rd && regOk ra && regOk rb
  | .divu x rd ra rb => issueOk x && regOk rd && regOk ra && regOk rb
  | .rem x rd ra rb => issueOk x && regOk rd && regOk ra && regOk rb
  | .remu x rd ra rb => issueOk x && regOk rd && regOk ra && regOk rb
  | .ldw x rd ra imm => issueOk x && regOk rd && regOk ra && decide (imm < 2 ^ 18)
  | .stw x rd ra imm => issueOk x && regOk rd && regOk ra && decide (imm < 2 ^ 18)
  | .ldp x rd ra imm => issueOk x && regOk rd && regOk ra && decide (imm < 2 ^ 18) && pairOk rd
  | .stp x rd ra imm => issueOk x && regOk rd && regOk ra && decide (imm < 2 ^ 18) && pairOk rd
  | .ldh x rd ra imm => issueOk x && regOk rd && regOk ra && decide (imm < 2 ^ 18)
  | .ldhs x rd ra imm => issueOk x && regOk rd && regOk ra && decide (imm < 2 ^ 18)
  | .sth x rd ra imm => issueOk x && regOk rd && regOk ra && decide (imm < 2 ^ 18)
  | .ldo x rd ra imm => issueOk x && regOk rd && regOk ra && decide (imm < 2 ^ 18)
  | .ldos x rd ra imm => issueOk x && regOk rd && regOk ra && decide (imm < 2 ^ 18)
  | .sto x rd ra imm => issueOk x && regOk rd && regOk ra && decide (imm < 2 ^ 18)
  | .ldsp x rd imm => issueOk x && regOk rd && decide (imm < 2 ^ 18)
  | .stsp x rd imm => issueOk x && regOk rd && decide (imm < 2 ^ 18)
  | .adjsp x imm => issueOk x && decide (imm < 2 ^ 18)
  | .push x rd => issueOk x && regOk rd
  | .pop x rd => issueOk x && regOk rd
  | .lpc x rd imm => issueOk x && regOk rd && decide (imm < 2 ^ 18)
  | .ldx x rd ra => issueOk x && regOk rd && regOk ra
  | .stx x rd rb ra => issueOk x && regOk rd && regOk rb && regOk ra
  | .beq x ra rb off => issueOk x && regOk ra && regOk rb && decide (off < 2 ^ 18)
  | .bne x ra rb off => issueOk x && regOk ra && regOk rb && decide (off < 2 ^ 18)
  | .blt x ra rb off => issueOk x && regOk ra && regOk rb && decide (off < 2 ^ 18)
  | .bge x ra rb off => issueOk x && regOk ra && regOk rb && decide (off < 2 ^ 18)
  | .bltu x ra rb off => issueOk x && regOk ra && regOk rb && decide (off < 2 ^ 18)
  | .bgeu x ra rb off => issueOk x && regOk ra && regOk rb && decide (off < 2 ^ 18)
  | .bcc x cond off => issueOk x && decide (cond < 15) && decide (off < 2 ^ 18)
  | .jmp x off => issueOk x && decide (off < 2 ^ 28)
  | .call x off => issueOk x && decide (off < 2 ^ 28)
  | .jmpr x ra => issueOk x && regOk ra
  | .callr x ra => issueOk x && regOk ra
  | .ret x => issueOk x
  | .bmove x rd ra rb iters => issueOk x && regOk rd && regOk ra && regOk rb && decide (0 < iters) && blockRegsOk rd ra rb
  | .bfill x rd ra rb iters => issueOk x && regOk rd && regOk ra && regOk rb && decide (0 < iters) && blockRegsOk rd ra rb
  | .bcmp x rd ra rb _ iters => issueOk x && regOk rd && regOk ra && regOk rb && decide (0 < iters) && blockRegsOk rd ra rb
  | .bcrc x rd ra rb iters => issueOk x && regOk rd && regOk ra && regOk rb && decide (0 < iters) && blockRegsOk rd ra rb
  | .trap x fn => issueOk x && decide (fn < 2 ^ 18)
  | .eret x => issueOk x
  | .fence x fn => issueOk x && decide (fn < 2)
  | .mpusync x => issueOk x
  | .waitpass x rd => issueOk x && regOk rd
  | .feat x rd n => issueOk x && regOk rd && decide (n < 8)
  | .mfsr x rd sr => issueOk x && regOk rd && sysRegOk sr
  | .mtsr x sr ra => issueOk x && sysRegOk sr && regOk ra
  | .interruptEntry core vec => coreOk core && vec.ok
  | .mpuRegionWrite m pl a _ => masterOk m && decide (pl ≤ 2) && decide (a < 2 ^ 24)
  | .tamperEvent source => decide (source < 39)
  | .countDecay source => decide (source < 39)
  | .responseWindowEnd => true
  | .keepCellSample _ => true
  | .holdUnlockVerified _ => true
  | .holdRelease => true
  | .toFactory m => masterOk m
  | .provision m => masterOk m
  | .toScrap m => masterOk m
  | .issueChallenge m => masterOk m
  | .verifyResponse m => masterOk m
  | .fuseRowWrite _ => true
  | .challengeExpiry => true
  | .kBoot bad lost => bad.all (fun r => decide (r ∈ [0, 3, 4, 5])) && lost.all (fun c => decide (c < 2))
  | .extest _ _ _ => true
  | .idcode => true
  | .samplePreload _ _ => true
  | .auth _ => true
  | .debug => true
  | .bypass ir => decide (ir < 256) && decide (ir ∉ [0x00, 0x01, 0x02, 0x10, 0x20])
  | .towpathSessionOpen => true
  | .dbgDataAccess _ => true
  | .dbgCoreWrite _ => true
  | .flashRead m pl => masterOk m && decide (pl ≤ 2)
  | .flashProgram m pl => masterOk m && decide (pl ≤ 2)
  | .flashErase m pl => masterOk m && decide (pl ≤ 2)
  | .flashSuspend m pl => masterOk m && decide (pl ≤ 2)
  | .flashResume m pl => masterOk m && decide (pl ≤ 2)
  | .readCal m pl => masterOk m && decide (pl ≤ 2)
  | .flashCommit m pl => masterOk m && decide (pl ≤ 2)
  | .flashOpComplete plane _ _ wcc => decide (plane < 8) && wccOk wcc
  | .flsXipCtlWrite m pl _ => masterOk m && decide (pl ≤ 2)
  | .flashControllerRelease => true
  | .cardInsertion slot => decide (slot < 2)
  | .cardIdentification slot card => decide (slot < 2) && sdCardOk card
  | .cardRemoval slot _ => decide (slot < 2)
  | .recordWrite slot _ => decide (slot < 2)
  | .sdBusyTimeout slot => decide (slot < 2)
  | .append m pl wcc => masterOk m && decide (pl ≤ 2) && wccOk wcc
  | .sdRead m pl wcc => masterOk m && decide (pl ≤ 2) && wccOk wcc
  | .sdOpen m pl => masterOk m && decide (pl ≤ 2)
  | .sdClose m pl => masterOk m && decide (pl ≤ 2)
  | .protectPerm m pl => masterOk m && decide (pl ≤ 2)
  | .officerCardPresence card _ => decide (card < 2)
  | .activate m pl card => masterOk m && decide (pl ≤ 2) && decide (card < 2)
  | .officerAuth m pl card => masterOk m && decide (pl ≤ 2) && decide (card < 2)
  | .approve m pl card => masterOk m && decide (pl ≤ 2) && decide (card < 2)
  | .deactivate m pl card => masterOk m && decide (pl ≤ 2) && decide (card < 2)
  | .officerSessionExpiry card => decide (card < 2)
  | .officerCardTimeout card => decide (card < 2)
  | .recordClose => true
  | .recordDelivery _ => true
  | .replayedEdge _ => true
  | .pmuCounterOverflow core counter => coreOk core && decide (counter < 11)
  | .bandwidthWindowClose counts => decide (counts.length = 30)
  | .pmuBwClear => true
  | .pmuClear m pl core => masterOk m && decide (pl ≤ 2) && coreOk core
  | .sampleTag core => coreOk core
  | .sampleRecord core x => coreOk core && decide (x.op < 256) && decide (x.pl ≤ 2)
  | .pmuSmpDataRead m core => masterOk m && coreOk core
  | .resetSourceAssert source core => (decide (core = 0) || coreOk core) && decide (source < 17)
  | .rstCmd m _ => masterOk m
  | .resetReleaseStep step => decide (1 ≤ step ∧ step ≤ 11)
  | .rstGo m _ => masterOk m
  | .rstCoreGo m core => masterOk m && coreOk core
  | .fieldCoreRelease core => coreOk core
  | .rstFuseProg m _ => masterOk m
  | .rstStopClr m _ => masterOk m
  | .watchdogKick m core => masterOk m && coreOk core
  | .watchdogWarning core => coreOk core
  | .watchdogExpiry core => coreOk core
  | .pwrMoncInc m pl _ => masterOk m && decide (pl ≤ 2)
  | .powerGood => true
  | .brownOut rail _ => decide (rail < 4)
  | .keepSupplyLost => true
  | .fieldSupplyRecovery => true
  | .tamperConditionClear source => decide (source < 39)
  | .approvalVerified _ => true
  | .envelopeOperationComplete _ wcc => wccOk wcc
  | .keyOperationComplete _ wcc => wccOk wcc
  | .imageLoadComplete unit wcc => decide (unit < 16) && wccOk wcc
  | .mailboxSendArrival channel words => decide (channel < 64) && decide (words.length ≤ 16)
  | .pcieLinkUp width speed => decide (width = 1 ∨ width = 2 ∨ width = 4 ∨ width = 8 ∨ width = 16) && decide (1 ≤ speed ∧ speed ≤ 5)
  | .pcieConfigurationWrite w => pcieCfgOk w
  | .msixTableWrite _ => true
  | .officerCardAnswer card atrs _ => decide (card < 2) && decide (atrs.length ≤ 4)
  | .tapReset => true

end Sys2Proof
end

