-- ==== Sys2Proof/Tests/Slice0.lean ====
section
/-! SUPPORT. Tests: ill-formed commands refused, worked examples of the spec, and for every statement states and operands that meet its hypotheses. -/

namespace Sys2Proof.Tests
set_option Elab.async false
open Sys2Proof.Machine

/-! ### A small state: the Lockkeeper running, with one region that grants everything it can reach -/

def kx : Issue := { core := 1 }

def kst (c : Core) (mem : List (Nat × Word) := []) : State :=
  { dev := { cores := [(1, { c with run := true })], regs := [(0x070101, 0xFFFFFFFF0), (0x070102, 0x3FF)], mem := mem } }

/-- Registers G1, G2 and G3, a stack in the Lockkeeper's SRAM, and a vector table there. -/
def kcore (a b n : Word) : Core :=
  { g := [(1, a), (2, b), (3, n)], sp := [(0, 0x020000100), (1, 0x020000100), (2, 0x020000100)], vbase := 0x020000040, sw := 0 }

def kdev (a b n : Word) : Dev := (kst (kcore a b n)).dev

/-- A Hopper that serves draws: three blocks in its FIFO. -/
def khop : Hopper := { state := 1, up := true, fifo := [zeros 16, zeros 16, zeros 16] }

/-- For CoreArithmeticSetsFlags, CoreLogicResults, CoreShiftAndFieldResults and CoreMultiplyDivideResults: a core ready to issue, registers with a non-zero and a
zero word. -/
theorem wit_CoreReady : ready kx (kdev 5 0 7) = true ∧ (coreGet (kdev 5 0 7) 1).reg 3 = 7 ∧ (coreGet (kdev 5 0 7) 1).reg 2 = 0 := by decide

theorem wit_CoreLoadsReadMemory :
    readable 1 0 (effAddr (coreGet (kdev 0x020000000 0 0) 1) 1 18 0x3FFFE) (kdev 0x020000000 0 0) = false ∧
    readable 1 0 (effAddr (coreGet (kdev 0x020000000 0 0) 1) 1 18 0) (kdev 0x020000000 0 0) = true ∧
    readable 1 0 (effAddr (coreGet (kdev 0x020000000 0 0) 1) 1 18 0 + 1) (kdev 0x020000000 0 0) = true ∧
    effAddr (coreGet (kdev 0x020000000 0 0) 1) 1 18 0 % 2 = 0 ∧
    readable 1 0 (effAddr (coreGet (kdev 0x020000000 0 0) 1) 1 17 0x20001) (kdev 0x020000000 0 0) = true ∧
    readable 1 0 (effAddr (coreGet (kdev 0x020000000 0 0) 1) 1 16 0x30001) (kdev 0x020000000 0 0) = true ∧
    readable 1 0 (wrap36 ((coreGet (kdev 0 0 0) 1).stk + 4)) (kdev 0 0 0) = true ∧ readable 1 0 (coreGet (kdev 0 0 0) 1).stk (kdev 0 0 0) = true := by
  decide

theorem wit_CoreStoresWriteMemory :
    writable 1 0 (effAddr (coreGet (kdev 0x020000000 0 0) 1) 1 18 0) (kdev 0x020000000 0 0) = true ∧
    writable 1 0 (effAddr (coreGet (kdev 0x020000000 0 0) 1) 1 18 0 + 1) (kdev 0x020000000 0 0) = true ∧
    writable 1 0 (effAddr (coreGet (kdev 0x020000000 0 0) 1) 1 17 0x20001) (kdev 0x020000000 0 0) = true ∧
    writable 1 0 (effAddr (coreGet (kdev 0x020000000 0 0) 1) 1 16 0x30001) (kdev 0x020000000 0 0) = true ∧
    writable 1 0 (wrap36 ((coreGet (kdev 0 0 0) 1).stk + 4)) (kdev 0 0 0) = true ∧
    writable 1 0 ((coreGet (kdev 0 0 0) 1).stk - 1) (kdev 0 0 0) = true ∧ (coreGet (kdev 0 0 0) 1).lim ≤ (coreGet (kdev 0 0 0) 1).stk - 1 := by
  decide

/-- A core that holds a reservation, at a RAM address and at one in boot ROM. -/
theorem wit_CoreStoreConditional :
    let s := kst { kcore 0x020000008 0 0 with resv := some 0x4000001 }
    let r := kst { kcore 8 0 0 with resv := some 1 }
    ready kx s.dev = true ∧ writable 1 0 ((coreGet s.dev 1).reg 1).toNat s.dev = true ∧
      (coreGet s.dev 1).resv = some (((coreGet s.dev 1).reg 1).toNat / 8) ∧ romWord 1 ((coreGet s.dev 1).reg 1).toNat = false ∧
      (coreGet (kdev 8 0 0) 1).resv ≠ some 1 ∧ ready kx r.dev = true ∧ writable 1 0 8 r.dev = true ∧ romWord 1 8 = true := by decide

theorem wit_CoreControlTransfers :
    let d := kdev 0 0 0
    2 ≤ (coreGet d 1).stk ∧ (coreGet d 1).lim ≤ (coreGet d 1).stk - 2 ∧ writable 1 0 ((coreGet d 1).stk - 2) d = true ∧
      writable 1 0 ((coreGet d 1).stk - 1) d = true ∧ readable 1 0 (coreGet d 1).stk d = true ∧ readable 1 0 ((coreGet d 1).stk + 1) d = true ∧
      fld (coreWord d 1 (coreGet d 1).stk) 1 0 = (coreGet d 1).pl := by decide

/-- The Lockkeeper at P2, at P1, and with an exhausted stack. -/
def kp2 : Dev := (kst { kcore 0 0 0 with sw := 2 }).dev
def kp1 : Dev := (kst { kcore 0 0 0 with sw := 1 }).dev
def kempty : Dev := (kst { kcore 0 0 0 with sp := [(1, 0x020000100)], sw := 1 }).dev

theorem wit_CoreFaultsEnterHandlers :
    (coreGet (kdev 0 0 0) 1).still = false ∧ entryOk 1 35 (kdev 0 0 0) = true ∧ entryOk 1 63 (kdev 0 0 0) = true ∧ entryOk 1 7 (kdev 0 0 0) = true ∧
      entryOk 1 6 (kdev 0 0 0) = true ∧ entryOk 1 0 (kdev 0x020000001 0 0) = true ∧ ready kx kp2 = true ∧ (coreGet kp2 1).pl = 2 ∧ entryOk 1 1 kp2 = true ∧
      ready kx kp1 = true ∧ (coreGet kp1 1).pl = 1 ∧ entryOk 1 1 kp1 = true ∧
      effAddr (coreGet (kdev 0x020000001 0 0) 1) 1 18 0 % 2 = 1 ∧
      (let d := (kst { kcore 0 0 0 with sp := [(0, 0x020000100)], sw := 1, sl := [] }).dev
       (coreGet d 1).stk = 0 ∧ entryOk 1 4 d = true ∧ ready kx d = true) ∧
      (let d := kdev 0x300000000 0 0
       deviceSpace 1 (effAddr (coreGet d 1) 1 18 0) = false ∧ refusal d 1 1 0 0 (effAddr (coreGet d 1) 1 18 0) = some 1 ∧ entryOk 1 3 d = true) := by decide

theorem wit_CoreInterruptEntry :
    let d := (kst { kcore 0 0 0 with pend := [(16, true), (17, true)] }).dev
    coreLive d 1 = true ∧ replayed d 1 = false ∧ entryOk 1 16 d = true ∧ (coreGet d 1).still = false ∧
      [19, 21, 18, 16, 17, 20].find? (fun v => tabGet false (coreGet d 1).pend v) = some 16 := by decide

theorem wit_CoreEretRestores :
    (let d := kdev 0 0 0
     (coreGet d 1).pl ≠ 2 ∧ (coreGet d 1).lim ≤ (coreGet d 1).stk ∧ (coreGet d 1).stk + 4 ≤ 2 ^ 36 ∧
       [0, 1, 2, 3].all (fun i => readable 1 0 ((coreGet d 1).stk + i) d) = true ∧ fld (coreWord d 1 ((coreGet d 1).stk + 2)) 1 0 = 0) ∧
    (let d := (kst { kcore 0 0 0 with bwdepth := 15, spb := 0x020000200 }).dev
     ready kx d = true ∧ (coreGet d 1).bwdepth ≠ 0 ∧ [0, 1, 2, 3].all (fun i => readable 1 0 ((coreGet d 1).stk + i) d) = true) := by decide

theorem wit_CoreSystemInstructions :
    ready kx (kdev 0 0 0) = true ∧ (coreGet (kdev 0 0 0) 1).pl = 0 ∧ ready kx kp1 = true ∧ (coreGet kp1 1).pl = 1 ∧ ready kx kp2 = true := by decide

theorem wit_CoreStatusWordWrite :
    let p1 := (kst { kcore 2 0 0 with sw := 1 }).dev
    let p2 := (kst { kcore 0xF2 0 0 with sw := 2 }).dev
    fld ((coreGet (kdev 0xF6 0 0) 1).reg 1) 1 0 ≠ 3 ∧ ready kx p1 = true ∧ fld ((coreGet p1 1).reg 1) 1 0 = 2 ∧ ready kx p2 = true ∧
      fld ((coreGet p2 1).reg 1) 2 0 = fld (coreGet p2 1).sw 2 0 := by decide

/-- Source and destination words in RAM, with one word left and with several, equal and unequal. -/
theorem wit_CoreBlockIteration :
    let d := kdev 0x020000000 0x020000010 1
    let e := (kst (kcore 0x020000000 0x020000010 9) [(0x020000000, 5)]).dev
    ready kx d = true ∧ readable 1 0 0x020000000 d = true ∧ readable 1 0 0x020000010 d = true ∧ writable 1 0 0x020000010 d = true ∧
      (coreGet d 1).reg 3 = 1 ∧ coreWord d 1 0x020000000 = coreWord d 1 0x020000010 ∧
      ready kx e = true ∧ coreWord e 1 0x020000000 ≠ coreWord e 1 0x020000010 ∧ (coreGet e 1).reg 3 ≠ 1 := by decide

theorem wit_BlockFillWritesEveryWord :
    let d := kdev 5 0x020000010 3
    0x020000010 + 3 ≤ 2 ^ 36 ∧ ∀ i < 3, writable 1 0 (0x020000010 + i) d = true := by decide

theorem wit_CoreBywashAndStop :
    let d := (kst { kcore 0 0 0 with sw := 4, bwFixed := true, spb := 0x020000080, bwdepth := 14 }).dev
    let e := { kst {} with dev := { (kst {}).dev with cores := [(0x10, { run := true, sw := 4, pc := 0x010000000 })], regs := [(0x071001, 0xFFFFFFFF0), (0x071002, 0x3FF)] } }
    let f := { e with dev := { e.dev with cores := [(0x10, { run := true, bwFixed := true, bwdepth := 15, pc := 0x010000000 })] } }
    ready kx d = true ∧ (coreGet d 1).still = true ∧ [1, 2, 3, 4].all (fun k => writable 1 0 ((coreGet d 1).spb.toNat - k) d) = true ∧
      ready { core := 0x10 } e.dev = true ∧ (coreGet e.dev 0x10).bwFixed = false ∧ ready { core := 0x10 } f.dev = true ∧ (coreGet f.dev 0x10).bwdepth = 15 := by decide

/-! ### The status word's faults, and the edge -/

/-- A PL of 3 at P0, a PL of 0 at P1, and a change of PL at P2. -/
theorem wit_CoreStatusWordWrite_faults :
    let p1 := (kst { kcore 0 0 0 with sw := 1 }).dev
    let p2 := (kst { kcore 0xF1 0 0 with sw := 2 }).dev
    fld ((coreGet (kdev 3 0 0) 1).reg 1) 1 0 = 3 ∧ (coreGet (kdev 3 0 0) 1).still = false ∧ entryOk 1 0 (kdev 3 0 0) = true ∧
      ready kx p1 = true ∧ fld ((coreGet p1 1).reg 1) 1 0 = 0 ∧ entryOk 1 1 p1 = true ∧
      ready kx p2 = true ∧ fld ((coreGet p2 1).reg 1) 2 0 ≠ fld (coreGet p2 1).sw 2 0 ∧ entryOk 1 1 p2 = true := by decide

theorem wit_FeatReadsConstants :
    let h := { (kdev 0 0 0) with cores := [(0x17, { run := true, sw := 0, pc := 0x010000000 })], regs := [(0x071701, 0xFFFFFFFF0), (0x071702, 0x3FF)] }
    ready kx (kdev 0 0 0) = true ∧ ready { core := 0x17 } h = true := by decide

/-- A reset state is powered with legal fuses; a core that is presented with one input; a pass edge without supplies; a field edge of a pass taken already. -/
theorem wit_EdgesPresentInputs :
    let d := { (kdev 0 0 0) with pas := { count := 7, inq := [{ core := 1, cls := 2, key := 0, pass := 6, data := [] }] } }
    let t := presentCore d 1
    powered d = true ∧ fusesLegal d = true ∧ (∀ x ∈ [5, 6, 7, 8], srcLevel d x < 4) ∧ presents d 1 = true ∧ presents t 1 = true ∧ t.pas.seen.length = 1 ∧
      powered { rst := { vio := false } } = false ∧ ({ lkg := { fieldUp := true }, fld := { edgeAt := some 0 } } : Dev).fld.edgeAt = some 0 := by decide

/-! ### Registers, the chamber, the partition -/

/-- CHM_OPEN_AT_LO, a word of plain fields; the PF's window and a VF's, an offset that is none of them, and an identity that is reserved. -/
theorem wit_PlainRegisterWrite :
    let a := Reg.CHM_OPEN_AT_LO
    a < 2 ^ 24 ∧ (regRow a).elim false (fun r => decide (r.chm = 0 ∧ r.pm = false ∧ r.isl ≠ 2)) = true ∧ a >>> 16 ∉ [0x07, 0x09, 0x0A, 0x18, 0x20, 0x21, 0x22, 0x23, 0x24] ∧
      (hostCtlWrite 0x10 0 a 5 ({} : Dev)).isNone = true ∧ isMaster 0x10 = true ∧ isFn 0x10 = false ∧ isF 0x10 = false ∧ isMaster 0x18 = false ∧
      (let b := Reg.WHF_DBERR_COUNT
       barWord {} 0 (8 * (b - 0x0A0000)) = some b ∧ b % 65536 < 0x2000 ∧ (regRow b).elim false (fun r => decide (r.chm = 0 ∧ r.pm = false ∧ r.isl ≠ 2)) = true ∧
         (hostCtlWrite 0x40 0 b 5 ({} : Dev)).isNone = true) ∧
      barWord {} 0 4 = none ∧ 4 < barPages 0 ∧ barWord {} 63 0x20000 = none ∧ barPages 63 + 0x10000 ≤ 0x20000 := by decide

theorem wit_LatchedAndRecordedReads :
    tabFind ({} : Dev).pas.shadow (0x10 * 2 ^ 24 + Reg.PAS_COUNT_LO) = none ∧ isMaster 0x10 = true ∧ isFn 0x10 = false ∧ isCore 0x23 = true ∧ isCore 1 = true := by decide

/-- A chamber in each state, its owner H0; OPEN_AT with a target ahead and with one reached. -/
theorem wit_ChamberCommands :
    let ch := fun (c : ChmState) => ({ chm := { state := c, owner := 0x10 }, regs := [(Reg.CHM_OPEN_AT_LO, 5)], pas := { count := 4 } } : Dev)
    (ch .levelled).chm.owner = 0x10 ∧ isMaster 0x10 = true ∧ isFn 0x10 = false ∧ isF 0x10 = false ∧ chmProtected (ch .levelled) = false ∧
      ofLoHi (rg (ch .levelled) Reg.CHM_OPEN_AT_LO) (rg (ch .levelled) Reg.CHM_OPEN_AT_HI) = 5 ∧
      chmProtected { (ch .levelled) with chm := { entries := [(Reg.TMP_INT_CORES, ⟨0, true⟩)] } } = true := by decide

theorem wit_ChamberFieldWrites :
    Reg.CHM_APPROVAL_LIFE < 2 ^ 24 ∧ mpuWord Reg.CHM_APPROVAL_LIFE = none ∧ (regRow Reg.CHM_APPROVAL_LIFE).elim false (fun r => decide (r.chm ≠ 0)) = true ∧
      isMaster 1 = true ∧ reachesWord {} 1 Reg.CHM_APPROVAL_LIFE = true ∧ reachesWord {} 0x20 Reg.CHM_APPROVAL_LIFE = false ∧ isFn 0x7F = true := by decide

/-- An empty chamber that passes the level checks and opens. -/
theorem wit_ChamberLevelAndOpen :
    let d : Dev := { chm := { state := .levelling, owner := 1 }, hop := khop }
    let e : Dev := { chm := { state := .scheduled, owner := 1, target := 3 }, pas := { count := 3 } }
    levelChecks blockRules lifeCheck (fun _ => none) d = none ∧ chmFieldEntries d = [] ∧ hopServes d 3 = true ∧ openFail e = none ∧ e.chm.target ≤ e.pas.count := by
  decide +kernel

theorem wit_ChamberApprovals :
    let p : PendingApproval := { op := none, iface := none, roster := 2, seq := 9, digest := [] }
    let o : Op := { id := 5, src := .ring 3 0, ctx := 0x40, desc := zeros 64 }
    let d : Dev := { chm := { state := .levelled, waiting := [p], approvals := [⟨7, 0⟩] }, keep := { monc := [(0, 9)] }, ops := [o], pas := { count := 20000 } }
    p.op.bind (findOp d) = none ∧ p.pass < d.pas.count ∧ ({ d with pas := {} } : Dev).pas.count ≤ p.pass ∧ p.seq = tabGet 0 d.keep.monc 0 ∧ p.digest = d.chm.digest ∧ d.chm.approvals.length < 2 ∧ (∀ a ∈ d.chm.approvals, a.roster ≠ p.roster) ∧
      (some 5).bind (findOp d) = some o ∧ o.src = .ring 3 0 ∧ p.iface = none ∧ o.dead = false ∧ (8 : Nat) ≠ tabGet 0 d.keep.monc 0 ∧
      (∃ a ∈ d.chm.approvals, a.at_ + rn d Reg.CHM_APPROVAL_LIFE ≤ d.pas.count) := by decide

theorem wit_ExpiriesAndOverruns :
    let o : Op := { id := 0, src := .ring 0 0, ctx := 0x40, desc := zeros 64, phase := .admitted, unit := some (1, 7), admitAt := 4, bound := 1 }
    let d : Dev := { ops := [o], pas := { count := 7 } }
    o.admitAt + o.bound + 2 ≤ d.pas.count ∧ unjudged d o = false ∧ (holderOf o).elim 0 (·.1) = 1 := by decide

/-- A request of K and of H0 for each kind's last unit; a refused one; a field unit's; requests and a drained unit due. -/
theorem wit_PartitionUnits :
    let q : PartReq := { kind := 3, idx := 15, action := 2, reason := 0, pass := 0, ready := true }
    let d : Dev := { pas := { count := 1, reqs := [q], parts := [(unitKey 1 7, { state := 1 }), (unitKey 2 3, { state := 3 })] }, lkg := { fieldUp := true } }
    (7 : Nat) < unitCount 1 ∧ 1 < unitCount 8 ∧ (part d 3 15).state = 0 ∧ (part d 2 3).state = 3 ∧ ¬ (6 = 6 ∧ (0x10 : Nat) = 0x10 + 7) ∧
      (tabGet {} d.pas.shown (64 * 5 + 31) : Part).state = 0 ∧ (31 : Nat) < unitCount 5 ∧ q.pass < d.pas.count ∧ q.readyAt < d.pas.count ∧ q.shown = false ∧ ({} : Dev).pas.count ≤ q.pass ∧ unitOps d 3 15 = [] ∧
      (1, 7) ∈ hostUnits ∧ (part d 1 7).state = 1 ∧ unitBusy d 1 7 = false ∧ (∀ w ∈ hostUnits, w ≠ (1, 7) → (part d w.1 w.2).state ≠ 1) := by decide

/-! ### Rings, the PCIe functions, command registers -/

/-- A ring of 16 entries of the PF, with a descriptor waiting. -/
def wring : Dev := { rings := [(1023, { state := .active, log2 := 4, tail := 1 })], pcieBme := [(0, true)] }

theorem wit_DescriptorsEnterFlight : fetchable wring 1023 = true ∧ fetchable ({} : Dev) 1023 = false := by decide

/-- Doorbells that move the tail, that go past it, that overrun the head; completion heads; operations fetched and staged. -/
theorem wit_RingDoorbellsAndStaging :
    let x := ringGet wring 1023
    let y : Ring := { x with tail := 16, cq := 16 }
    let o : Op := { id := 0, src := .ring 1023 0, ctx := 0x40, desc := zeros 64 }
    let d : Dev := { wring with ops := [o] }
    ringFn wring 1023 = 0 ∧ x.state ≠ .disabled ∧ x.size = 16 ∧ posDist 16 x.head 16 ≤ 16 ∧ 0 < posDist 16 x.tail 16 ∧ posDist 16 x.tail 16 ≤ 16 ∧
      16 < posDist 16 y.head 17 ∧ 0 < posDist 16 y.tail 17 ∧ posDist 16 y.tail 17 ≤ 16 ∧ posDist 16 x.tail 1 = 0 ∧ 16 < posDist 16 x.tail 18 ∧
      0 < posDist 16 y.cqHead 16 ∧ posDist 16 y.cqHead 16 ≤ posDist 16 y.cqHead y.cq ∧ posDist 16 x.cqHead x.cq < posDist 16 x.cqHead 1 ∧ x.cqNext = none ∧
      fetchable wring 1023 = true ∧ ringOpAt d 1023 0 = some o ∧ stageUsed d + 0 + heldSpace o ≤ 2 ^ 24 ∧ inputLen o = 0 ∧ x.state = .active ∧ x.head ≠ x.tail := by decide

theorem wit_RingStatesAndCompletions :
    let o : Op := { id := 3, src := .ring 1023 0, ctx := 0x40, desc := zeros 64, phase := .ended, dueAt := 1 }
    let d : Dev := { wring with ops := [o], pas := { count := 1 }, regs := [(Reg.WHF_RING_INT + 8 * 1023, 0)] }
    let e : Dev := { rings := [(2, { state := .draining, unsig := 1, unsigAt := 1 })], pas := { count := 256 }, regs := [(Reg.WHF_RING_INT + 16, 0xFF000), (Reg.WHF_FN_VEC, 1)],
                     msix := [(0, { enable := true, open_ := [(0, true)] })] }
    isMaster 0x10 = true ∧ reachesWord d 0x10 (Reg.WHF_RING_SIZE + 8 * 1023) = true ∧ isMaster 0x40 = true ∧ reachesWord d 0x40 (Reg.WHF_RING_SIZE + 8 * 1023) = true ∧
      ringWritable d 0x10 1023 = true ∧ ringOps d 1023 = [o] ∧ posDist 16 0 0 < 16 ∧ busMaster d (ringFn d 1023) = true ∧ o.intr = false ∧
      (rg d (Reg.WHF_RING_INT + 8 * 1023)).toNat / 2 ^ 20 = 0 ∧ ringOps e 2 = [] ∧ (rg e (Reg.WHF_RING_INT + 16)).toNat / 2 ^ 12 % 2 ^ 8 = 255 ∧
      (ringGet e 2).unsigAt + 255 ≤ e.pas.count ∧ (rg e (Reg.WHF_RING_INT + 16)).toNat % 2 ^ 11 < rn e (Reg.WHF_FN_VEC + ringFn e 2) ∧
      (∀ z ∈ d.ops, z.ring? = some 1023 ∨ z.ring? = none) := by decide

theorem wit_PcieFunctions :
    let d : Dev := { msix := [(63, { fmask := true, open_ := [(0, true)], pba := [(0, true)] })], regs := [(Reg.WHF_FN_VEC + 63, 1)] }
    (tabGet ({} : Msix) d.msix 63).pba = [(0, true)] ∧ (tabGet ({} : Msix) d.msix 63).fmask = true ∧ tabGet false (tabGet ({} : Msix) d.msix 63).open_ 0 = true ∧
      0 < rn d (Reg.WHF_FN_VEC + 63) ∧ (tabGet ({} : Msix) d.msix 0).pba = [] := by decide

/-- Masters that may command, a command outstanding, and argument words at the ends of their ranges. -/
theorem wit_CommandRegisters :
    let d : Dev := { cmds := [(cmdKey 0x0D 1, ⟨true, false, 0⟩)], priv := [(1 * 2 ^ 24 + Reg.FLS_ARG, 0x7FFFF), (1 * 2 ^ 24 + Reg.KSL_ARG + 4, 2), (1 * 2 ^ 24 + Reg.LCS_ARG, 3)] }
    (cmdGet d 0x0D 1).busy = true ∧ (cmdGet d 0x13 1).busy = false ∧ isH 0x17 = true ∧ d.life.state ≤ 1 ∧ (pv d 1 Reg.FLS_ARG).toNat < 2 ^ 19 ∧
      (pv d 1 (Reg.FLS_ARG + 2)).toNat ≤ 1 ∧ (pv d 1 (Reg.FLS_ARG + 3)).toNat = 0 ∧ ¬ (pv d 1 (Reg.KSL_ARG + 4)).toNat ≤ 1 ∧ (pv d 1 Reg.LCS_ARG).toNat ≤ 3 := by decide

/-! ### Lanes, keys, the inline pipeline, the Grinder, the Hopper -/

/-- A descriptor of an opcode with some of its octets set. -/
def wop (op : Nat) (fs : List (Nat × Octet)) : Octets :=
  (List.range 64).map (fun i => if i = 0 then BitVec.ofNat 8 op else (tabFind fs i).getD 0)

/-- A MAC verification whose tag is right (CMAC of no message), an encryption without tag, a hash of no message. -/
theorem wit_LanesAndFirmwareQueues :
    let m : Op := { id := 5, src := .ring 3 0, ctx := 0x40, desc := wop 0x13 [(10, 8), (21, 16)], phase := .admitted, unit := some (1, 7), quant := true }
    let v : Op := { m with input := (cipherRun m.mode 0x13 m.material [] [] [] 16).2.take 16 }
    let d : Dev := { ops := [v], pas := { count := 3 }, pcieBme := [(0, true)] }
    let e : Op := { m with desc := wop 0x10 [(10, 3), (16, 16)], quant := false }
    let k : Op := { m with desc := wop 0x20 [(10, 1), (16, 16)], unit := some (2, 3) }
    findOp d 5 = some v ∧ v.phase = .admitted ∧ v.parts = 0 ∧ octEq ((cipherRun v.mode v.opcode v.material (v.iv.take v.ivLen) [] (slice v.input 0 0) v.tagLen).2.take 16)
      (v.input.drop 0) = true ∧ m.opcode = 0x13 ∧ e.opcode = 0x10 ∧ e.tagLen = 0 ∧ 0 < e.payLen ∧ busMaster d (ringFn d 3) = true ∧ v.dead = false ∧
      v.src = .ring 3 0 ∧ e.unit = some (1, 7) ∧ k.unit = some (2, 3) ∧ k.opcode = 0x20 ∧ k.parts = 0 := by decide +kernel

/-- A fenced Grinder unit; slots that reach their limit, one with an exhaust notice. -/
theorem wit_LanesAndFirmwareQueues_late :
    let d : Dev := { pas := { parts := [(unitKey 3 15, { state := 3 })] }, slots := [(4, { state := 1, count := 9, limit := 9, exhaust := 1 }), (5, { state := 1, limit := 0 })] }
    (part d 3 15).state = 3 ∧ (slotGet d 4).state = 1 ∧ (slotGet d 4).limit ≤ (slotGet d 4).count ∧ (slotGet d 4).exhaust = 1 ∧ (slotGet d 5).exhaust ≠ 1 := by decide

/-- K's firmware queues of 16 and of 4,096 entries, the tail moved over the end. -/
theorem wit_LanesAndFirmwareQueues_doorbell :
    let d : Dev := { regs := [(Reg.CLN_FWQ_BASE + 33, 4), (Reg.CLN_FWQ_BASE + 34, 15), (Reg.GRD_FWQ_BASE + 33, 12)] }
    (rg d (Reg.CLN_FWQ_BASE + 33)).toNat % 32 = 4 ∧ posDist 16 (posOf (rg d (Reg.CLN_FWQ_HEAD + 32)) 16) 16 = 16 ∧ posDist 16 (posOf (rg d (Reg.CLN_FWQ_BASE + 34)) 16) 16 = 1 ∧
      (0x10000 : Nat) % 2 ^ 16 + 0x10000 / 2 ^ 16 % 2 * 16 = 16 ∧ (rg d (Reg.GRD_FWQ_BASE + 33)).toNat % 32 = 12 ∧
      posDist 4096 (posOf (rg d (Reg.GRD_FWQ_HEAD + 8)) 4096) 4096 = 4096 ∧ inFlight d + 4096 ≤ 131072 ∧ d.keep.hold = false := by decide

/-- Keys wrapped under the device KEK and under another slot's, one that does not unwrap, results held and due. -/
theorem wit_KeyOperationsAndRelease :
    let k : Slot := { state := 1, alg := 1, bits := 128, usage := 3, owner := 1, limit := 100, material := 7 :: zeros 15 }
    let d : Dev := { hop := khop }
    let b := exportBlob d k 0 (zeros 12)
    let o : Op := { id := 0, src := .ring 3 0, ctx := 0x40, desc := wop 0x54 [], phase := .held, dueAt := 2 }
    unwrapBlob d b = some k.material ∧ unwrapBlob d (b.take 64) = none ∧ weakKey (hdrOf b).alg k.material = false ∧ (hdrOf b).expiry = 0 ∧ (hdrOf b).alg ≠ 0x20 ∧
      (kwUnwrap [] (List.replicate 7 0xA6 ++ [0xAA] ++ zeros 16)) = some (zeros 16) ∧ kwUnwrap [] (zeros 24) = none ∧ hopServes d = true ∧ o.phase = .held ∧ o.opcode = 0x54 ∧
      hopWaits {} = true ∧ hopRefusal { hop := { state := 3, cause := 1 } } = some 1 ∧
      (let q : Op := { o with phase := .admitted, quant := true }
       findOp { d with ops := [q] } 0 = some q ∧ q.dead = false) := by
  decide +kernel

/-- Link 3 in use: plain frames with an SA to seal them, with a frozen one and with none; MACsec frames without an SA and with one, fresh and replayed. -/
def wlink : Dev :=
  { rst := { hostStep := 7 }, regs := [(Reg.ILS_LINK_CTL + 96, 1), (Reg.ILS_LINK_TX_SA + 96, 4096 + 5), (Reg.ILS_SA_CTL + 40, 13), (Reg.ILS_SA_CTL + 48, 15)],
    ils := { sas := [(5, { state := 1, keyed := true, next := 1 }), (6, { state := 1, keyed := true, low := 3 })] }, life := { state := 3, kekOwner := zeros 32, kekBasin := zeros 32 } }

def wframe (pn : Octet) : Octets := zeros 12 ++ [0x88, 0xE5, 0, 24, 0, 0, 0, pn] ++ zeros 40

theorem wit_InlinePipeline :
    let d := wlink
    let tag := parseTag (wframe 3)
    linkOpen d 3 = true ∧ (part d 7 3).state = 0 ∧ etherType (zeros 60) ≠ 0x8808 ∧ saValid d 5 = true ∧ saRx (saCtl d 5) = false ∧ saLink (saCtl d 5) = 3 ∧
      bit (rg d (Reg.ILS_LINK_TX_SA + 96)) 12 = true ∧ fld (rg d (Reg.ILS_LINK_TX_SA + 96)) 11 0 = 5 ∧ (saGet d 5).state = 1 ∧
      ofLoHi (rg d (Reg.ILS_LINK_PN_WARN_LO + 96)) (rg d (Reg.ILS_LINK_PN_WARN_HI + 96)) = 0 ∧ (saGet d 5).next < pnMax (saCtl d 5) ∧
      ofLoHi (rg { d with regs := (Reg.ILS_LINK_PN_WARN_LO + 96, 2) :: d.regs } (Reg.ILS_LINK_PN_WARN_LO + 96)) 0 = (saGet d 5).next + 1 ∧ (saGet d 5).warned ≠ 2 ∧
      etherType (wframe 3) = 0x88E5 ∧ (wframe 3).length = 60 ∧ tag.ok = true ∧ findRxSa d 3 (rxSci d 3 (wframe 3) tag) tag.an = some 6 ∧
      (parseTag (zeros 60)).ok = false ∧
      recoverPn (saXpn (saCtl d 6)) (saGet d 6).low tag.pn = 3 ∧ recoverPn (saXpn (saCtl d 6)) (saGet d 6).low (parseTag (wframe 2)).pn < (saGet d 6).low := by decide +kernel

/-- A frame in each stage, one that opens again as it was sealed and one that does not, one of an SA without a key; an SA past its threshold, exhausted
and retiring; the queues, and a region that lets the uncontrolled port read its frame. -/
theorem wit_InlinePipeline_stages :
    let f : Frame := protectFrame wlink 3 5 9 (zeros 60)
    let d : Dev := { wlink with ils := { wlink.ils with streams := [(6, { lane := 7, ingress := [f], classifier := [f], cipher := [f], egress := [f] })] },
                                regs := wlink.regs ++ [(Reg.ILS_UQ_TX_SIZE + 96, 2), (Reg.ILS_UQ_RX_SIZE + 96, 2), (Reg.ILS_UQ_RX_TAIL + 96, 1),
                                  (Reg.ILS_UQ_TX_BASE + 96, 0x010000000), (mpuAddr 0xA8 0 0, 0x010000000), (mpuAddr 0xA8 0 1, 0x0100000F0), (mpuAddr 0xA8 0 2, 0x1FF)], mem := [(0x010000000, 60)] }
    let sealed_ := sealFrame [] f
    inService d 1 7 = true ∧ (laneUse d 7).now + inlineCharge 6 f + spentOf d (Reg.CLN_ALLOW + 112) ≤ 50000 ∧ sealed_.length ≤ 655360 ∧
      openFrame [] { data := wframe 3, sa := some 6, pn := 3 } = none ∧ (openFrame [] { f with data := sealed_ }).isSome = true ∧ f.sa = some 5 ∧ f.last = false ∧
      (saGet d 5).keyed = true ∧ (saGet d 7).keyed = false ∧ (saGet d 6).state ≠ 2 ∧ (saGet { d with ils := { sas := [(6, { state := 2, keyed := true })] } } 6).state = 2 ∧
      (List.range 4).all (fun n => ((stream d 6).dropped n).isSome) = true ∧ (engRead d 0xA8 0x10 0 0x010000000 (1 + packLen false 60)).1 = true ∧
      fld (rg d (Reg.ILS_UQ_TX_SIZE + 96)) 4 0 = 2 ∧ rg d (Reg.ILS_UQ_TX_TAIL + 96) = rg d (Reg.ILS_UQ_TX_HEAD + 96) ∧ posDist 4 0 1 = 1 ∧ fld (memRd d 0x010000000) 13 0 = 60 ∧
      0 < posDist 4 0 (posOf 1 4) ∧ posDist 4 0 (posOf 1 4) ≤ posDist 4 0 (posOf (rg d (Reg.ILS_UQ_RX_TAIL + 96)) 4) ∧ portUp d 3 3 ≠ true ∧
      (let e : Dev := { ils := { sas := [(0, { state := 1, next := 2 ^ 32, retiring := true })] } }
       saLink (saCtl e 0) = 0 ∧ saRx (saCtl e 0) = false ∧ pnMax (saCtl e 0) < (saGet e 0).next ∧ saFrames e 0 = 0) := by decide +kernel

/-- A key generation that has drawn enough and one that has not, RSA whose self-check fails, an image load that is refused. -/
theorem wit_GrinderUnits :
    let o : Op := { id := 5, src := .ring 3 0, ctx := 0x40, desc := wop 0x30 [(8, 0x31), (9, 0x02)], phase := .admitted, unit := some (3, 15), quant := true }
    let r : Op := { o with desc := wop 0x30 [(8, 0x11), (9, 0x01)], key := some { material := 7 :: zeros 255 } }
    let l : Op := { id := 6, src := .cmd 0x0E 1, ctx := 1, desc := wop 0xA1 [], aux := [15, 0, 0, 0] }
    let d : Dev := { ops := [o, l], grd := { units := [(15, { job := some 5, loading := some 6, loadOk := true })] }, hop := { khop with fifo := List.replicate 8 (List.replicate 16 1) } }
    let dr := drawUntil (fun p => (jobRnd (.ecKeygen 256) o p).isSome) 1024 o.rnd d
    let w := drawUntil (fun p => (jobRnd (.ecKeygen 256) o p).isSome) 1024 o.rnd {}
    recipeOf o.recipe = some (.ecKeygen 256) ∧ (Recipe.ecKeygen 256).drawing = true ∧ hopServes d = true ∧ (unitGet d 15).job = some 5 ∧ findOp d 5 = some o ∧
      recipeOf r.recipe = some (.rsaPriv 2048) ∧ findOp d 6 = some l ∧ (imageFail d l.input).isSome = true ∧ (unitGet d 15).loading = some 6 ∧
      (jobRnd (.ecKeygen 256) o dr.1).isSome = true ∧ (jobRnd (.ecKeygen 256) o w.1).isSome = false ∧ hopRefusal w.2 = none ∧ (jobRnd (.ecKeygen 256) o o.rnd).isSome = false ∧
      rsaSelfCheck (.rsaPriv 2048) r { st := 0, sub := 0, res := [[1]], key := none } = false ∧ rsaSelfCheck (.ecKeygen 256) o { st := 0, sub := 0, res := [], key := none } = true ∧
      o.dead = false ∧ (unitGet d 15).loadOk = true ∧ l.outs = [] ∧ l.aux.length = 4 := by
  decide +kernel

theorem wit_GrinderUnits_switch :
    let x : GrdUnit := { job := some 1, next := some 2 }
    let y : GrdUnit := { susp := some 1 }
    x.next = some 2 ∧ x.job = some 1 ∧ y.job = none ∧ y.susp = some 1 ∧ bit (1 : Word) 0 = true := by decide

/-- Sources in service and standby, the last source, generators to instantiate and to reseed, a draw buffer, raw mode. -/
theorem wit_HopperEntropy :
    let d : Dev := { hop := { khop with src := [(0, 2), (1, 2), (2, 3), (3, 1)], buf := [(0x17, [5])], pool := [zeros 16, zeros 16, zeros 16], rawFifo := 32, hwInst := true, swInst := true },
                     pas := { count := 2 * rn ({} : Dev) Reg.HOP_RESEED_INT } }
    let l : Dev := { hop := { khop with src := [(0, 3), (1, 3), (2, 3), (3, 1)] } }
    (tabGet 0 d.hop.src 3 = 1 ∧ (∀ j, j < 4 → j ≠ 3 → tabGet 0 d.hop.src j ≠ 1) ∧ tabGet 0 d.hop.src ((3 + 1) % 4) = 2) ∧ (∀ j, j < 4 → j ≠ 3 → tabGet 0 l.hop.src j = 3) ∧
      d.hop.up = true ∧ rn d Reg.HOP_APT_CUTOFF ≤ aptCount (fitTo 128 []) ∧ aptCount (fitTo 128 ((List.range 128).map (fun _ => 0x55))) < rn d Reg.HOP_APT_CUTOFF ∧
      rn d Reg.HOP_RCT_CUTOFF ≤ 100 ∧ 0 < rn d Reg.HOP_RCT_CUTOFF ∧ 3 ≤ d.hop.pool.length ∧ replayed d 0x17 = false ∧ (1 : Nat) < d.pas.count ∧ (∃ j, j < 4 ∧ tabGet 0 d.hop.src j = 1) ∧ hopServes d = true ∧ tabGet [] d.hop.buf 0x17 = [5] ∧
      d.hop.hwSeed + 2 * rn d Reg.HOP_RESEED_INT ≤ d.pas.count ∧ rawMay d 1 = true ∧ hopRefusal { hop := { state := 3, cause := 1 } } = some 1 ∧
      hopRefusal { hop := { state := 1, hwStop := true } } = some 4 ∧ hopServes { hop := { state := 1, hwStop := true } } = false := by decide +kernel

/-- Samples, an octet at a time. -/
theorem sampleBits_cons (x : Octet) (o : Octets) : sampleBits (x :: o) = (List.range 8).map (fun i => x.getLsbD i) ++ sampleBits o := rfl

/-- Samples that alternate run one sample long; samples that are all zero run through. -/
theorem longestRun_alternating (n k best : Nat) (h : 1 ≤ best) : longestRun (sampleBits (List.replicate n 0x55)) false k best = best := by
  induction n generalizing k with
  | zero => rfl
  | succ n ih =>
    rw [List.replicate_succ, sampleBits_cons]
    show longestRun (sampleBits (List.replicate n 0x55)) false 1 (max _ _) = best
    simpa [Nat.max_eq_left h] using ih 1

theorem longestRun_zeros (n k best : Nat) (h : best ≤ k) : best + 8 * n ≤ longestRun (sampleBits (zeros n)) false k best := by
  induction n generalizing k best with
  | zero => simp [zeros, sampleBits, longestRun]
  | succ n ih =>
    rw [zeros, List.replicate_succ, sampleBits_cons]
    refine Nat.le_trans ?_ (ih (k + 8) (max (max (max (max (max (max (max (max best (k + 1)) (k + 2)) (k + 3)) (k + 4)) (k + 5)) (k + 6)) (k + 7)) (k + 8)) ?_) <;> omega

/-- The hypotheses of a start-up test that passes and of one that fails: runs of samples that alternate, and of zeros. -/
theorem wit_HopperEntropy_runs (n : Nat) : longestRun (sampleBits (List.replicate (n + 1) 0x55)) false 0 0 = 1 := by
  rw [List.replicate_succ, sampleBits_cons]
  exact longestRun_alternating n 1 1 (Nat.le_refl 1)

/-- A start-up test that passes, samples alternating, and one that fails, all of them zero; a Grinder job that wants blocks. -/
theorem wit_HopperEntropy_startup :
    let d : Dev := { hop := { khop with src := [(3, 1)] } }
    let a : Octets := List.replicate 512 0x55
    d.hop.up = true ∧ tabGet 0 d.hop.src 2 = 0 ∧ tabGet 0 d.hop.src 3 = 1 ∧ d.hop.state ≠ 3 ∧ fitTo 512 a = a ∧
      1 < rn d Reg.HOP_RCT_CUTOFF ∧ (∀ k, k < 4 → aptCount (slice a (128 * k) 128) < rn d Reg.HOP_APT_CUTOFF) ∧
      rn d Reg.HOP_RCT_CUTOFF ≤ 4096 ∧
      (let o : Op := { id := 5, src := .ring 3 0, ctx := 0x40, desc := wop 0x30 [(8, 0x31), (9, 0x02)], phase := .admitted, unit := some (3, 15), quant := true }
       recipeOf o.recipe = some (.ecKeygen 256) ∧ (jobRnd (.ecKeygen 256) o o.rnd).isNone = true ∧ o.dead = false) := by decide +kernel

/-! ### Card signatures that verify -/

/-- The key of an officer card, and its signature over a body of 80 zero octets. -/
def cardKey : Octets := leOct 32 18986649420755377651563014493978315413834019025479454468217403900391340908203 ++ leOct 32 15696153683263673656900516355633445130276695809969787356224809119518693207652
def cardSig : Octets := leOct 32 56515219790691171413109057904011688695424810155802929973526481321309856242040 ++ leOct 32 41357842299987088809347425467343592631539815100359142868303998636507033732056

/-- An approval or authentication body and its signature (R427): the computation is long. -/
theorem wit_cardSigned : cardSigned cardKey (zeros 80) cardSig = true := by decide +kernel

/-- The key of an officer card, and its signature over the unlock body of the test below. -/
def holdKey : Octets := leOct 32 13450843919038064630014077010796511997733411278078559971916505860931512289459 ++ leOct 32 67849226264632372856473650638641835932936018333126636805292289139373415513906
def holdSig : Octets := leOct 32 56515219790691171413109057904011688695424810155802929973526481321309856242040 ++ leOct 32 91242225848578683459030270110499007522584313381550584424417334378601173345986
def holdBody : Octets := [1, 0, 2, 0, 63] ++ zeros 43

theorem wit_holdSigned : cardSigned holdKey holdBody holdSig = true := by decide +kernel

/-! ### The credential register, the basin, ports, chains, the tag core -/

/-- Entry and delta of the digest of zeros. -/
def wentry : CrgEntry :=
  { status := 1, cls := 0, limited := true, capped := false, origin := 0, digest := zeros 32, from_ := 0, until_ := 9, uses := 3, amount := 2 ^ 35 - 1, cap := 0, changed := 0 }
def wdelta (op uses : Nat) (amount : Int) : CrgDelta :=
  { digest := zeros 32, op := op, status := 1, cls := 0, flags := 0, from_ := 0, until_ := 9, uses := uses, amount := amount, cap := 0, sender := none }

/-- A batch of one delta under preparation: placed in an empty register, not found in it, found in the stash, with uses that suffice and an amount in range
and out of it. -/
theorem wit_CredentialRegisterAndBasin_deltas :
    let c : CrgCommit := { op := 0, target := 0, at_ := 0, batch := [wdelta 3 3 0], table := { stash := [(63, wentry)] } }
    c.batch.drop c.placed = [wdelta 3 3 0] ∧ 1 ≤ rn ({} : Dev) Reg.CRG_PREP_BUDGET ∧ c.prepPass ≠ some 7 ∧ crgFind [] c.table (wdelta 2 0 0).digest = some (true, 63) ∧
      crgLookup [] c.table (zeros 32) = some wentry ∧ (wdelta 3 3 0).uses ≤ wentry.uses ∧ amountOk (wentry.amount + 0) = true ∧ amountOk (wentry.amount + 1) = false ∧
      wentry.uses < (wdelta 3 4 0).uses ∧ crgFind [] ({} : CrgTable) (zeros 32) = none ∧ (crgPlace [] wentry ({} : CrgTable)).isSome = true := by decide +kernel

/-- A register that is full: 1,048,576 entries of another digest. -/
theorem wit_CredentialRegisterAndBasin_full (n : Nat) (hn : 1048576 ≤ n) :
    crgPlace [] wentry { stash := List.replicate n (0, { wentry with digest := zeros 31 }) } = none := by
  have h : ¬ (zeros 31 = zeros 32) := by decide
  have e : ∀ l : List Nat, l.find? (fun _ => false) = none := fun l => by simp
  have f : crgFind [] { stash := List.replicate n (0, { wentry with digest := zeros 31 }) } wentry.digest = none := by
    simp only [crgFind, tabFind, List.find?_replicate, wentry, h, Option.map_none, reduceCtorEq, decide_false, e]; simp
  simp only [crgPlace, f, crgHeld, List.length_replicate, List.length_nil, Nat.zero_add, hn, if_true]

/-- A commit ready, one that misses its target, a new key due and one not due, a lookup within its budget. -/
theorem wit_CredentialRegisterAndBasin :
    let c : CrgCommit := { op := 5, target := 4, at_ := 0, batch := [], ready := some 4, table := {} }
    let o : Op := { id := 5, src := .ring 3 0, ctx := 0x40, desc := wop 0x42 [], phase := .admitted, quant := true }
    let d : Dev := { crg := { commit := some c }, ops := [o], pas := { count := 4 }, bsn := { next := some (zeros 32, 4) } }
    findOp d c.op = some o ∧ (4 : Nat) ≤ c.target ∧ c.target ≤ d.pas.count ∧ ((4 : Nat) : Int) ≤ siteTime d ∧ siteTime d < (5 : Nat) ∧
      1 ≤ budgetLeft d (lookupBudget o) ∧ o.dead = false := by decide

/-- Envelope operations admitted: a seal that passes its checks and one that fails, an envelope that opens and one that does not. -/
theorem wit_CredentialRegisterAndBasin_envelopes :
    let o : Op := { id := 5, src := .ring 3 0, ctx := 0x40, desc := wop 0x60 [(8, 2), (10, 1), (32, 96)], phase := .admitted, quant := true }
    let d : Dev := { ops := [o], life := { state := 3, kekBasin := [1, 2, 3, 4] }, regs := [(Reg.BSN_SELF, 2 ^ 14 + 1), (Reg.BSN_MEMBER, 6)] }
    let iv := envIv 2 0 1
    let h : Octets := [0x58, 0x4E, 0x43, 0x31, 1, 0, 1, 0, 2, 0, 1, 0] ++ zeros 36 ++ iv ++ zeros 20
    let e := h ++ [144, 178, 76, 142, 216, 248, 131, 199, 156, 193, 33, 94, 68, 42, 10, 250]
    let q : Op := { o with desc := wop 0x61 [] }
    firstFail (sealFails d o) = none ∧ (firstFail (sealFails {} o)).isSome = true ∧ q.opcode = 0x61 ∧ openEnvFail d q e = none ∧ envKindOf e = 1 ∧
      (openEnvFail d q []).isSome = true := by decide +kernel

/-- A calibrated engine of flight 15 in its sweep, ports in each state, readings at which one is found, drifts and is clear. -/
theorem wit_FieldPortsAndGrants :
    let d : Dev := { lkg := { fieldUp := true }, rst := { fieldStep := 10 }, pas := { count := 1500 }, regs := [(Reg.APT_CTL + 8 * 255, 1)],
                     fld := { eng := [(15, { cal := true, sweep := [15] })], ports := (List.range 16).map (fun j => (240 + j, { state := 0, base := some (100, 4095) })), chains := [(30, { cal := true }), (31, { cal := true })] } }
    let n : Dev := { d with fld := { d.fld with ports := [(255, { state := 4, bases := List.replicate 7 (1, 1) })], eng := [(15, { cal := true })] } }
    let found := fun (a phi : Int) => decide (fld (rg d (Reg.APT_CTL + 8 * 255 + 3)) 11 0 ≤ (a - 100).natAbs ∨
      fld (rg d (Reg.APT_CTL + 8 * 255 + 3)) 23 12 ≤ (((phi - 4095 + 2048) % 4096 - 2048 : Int)).natAbs)
    engRuns d 15 = true ∧ d.pas.count % rn d (Reg.PNG_PERIOD + 60) = rn d (Reg.PNG_PHASE + 60) ∧ (engGet d 15).begun ≠ some 1500 ∧ pingable d 255 = true ∧
      (engGet d 15).sweep = [15] ∧ found 148 4095 = true ∧ found 123 4095 = false ∧ found 147 4095 = false ∧ found 100 31 = true ∧ needsBase n 255 = true ∧
      (engGet n 15).sweep = [] ∧ (portGet n 255).bases.length = 7 ∧ (chainGet d 30).cal = true ∧ (chainGet d 31).cal = true ∧
      (List.range 16).all (fun j => !bit (rg d (Reg.APT_CTL + 8 * (16 * 15 + j))) 0 || (portGet d (16 * 15 + j)).base.isSome) = true := by decide

/-- A port granted to a chain, past its ceiling and settled, with no tuning yet; a port in LINGER past its life; the owner of its flight; its event queue. -/
theorem wit_FieldPortsAndGrants_grants :
    let ev : FieldEvent := ⟨255, 3, [1, 2, 3, 4]⟩
    let d : Dev := { pas := { count := 2 ^ 32 }, fld := { ports := [(255, { state := 2, chain := 31 })], chains := [(31, { port := some 255, ceilAt := 10, settleAt := 9 })], evs := [(3, [ev])] },
                     regs := [(Reg.FLD_EVQ_SIZE + 12, 4)] }
    (chainGet d 31).port = some 255 ∧ (portGet d 255).state = 2 ∧ (chainGet d 31).ceilAt ≤ d.pas.count ∧ (chainGet d 31).tuned = false ∧ (chainGet d 31).emu = false ∧
      fld (rg d (Reg.FLD_FLIGHT_CTL + 255 / 16)) 1 0 = 3 ∧ isF 0x23 = true ∧ fld (rg d (Reg.FLD_EVQ_SIZE + 12)) 4 0 = 4 ∧ tabGet [] d.fld.evs 3 = [ev] ∧ ev.pass < d.pas.count ∧
      posDist 16 (posOf (rg d (Reg.FLD_EVQ_HEAD + 12)) 16) (posOf (rg d (Reg.FLD_EVQ_TAIL + 12)) 16) < 16 ∧ 0 + rn d (Reg.APT_CTL + 8 * 255 + 4) % 2 ^ 32 ≤ d.pas.count := by
  decide

/-- A chain whose entry runs, of each kind and with each flag; an answer with its CRC; a window open and closed; a waiting-time request; a result awaiting
the next edge; card emulation holding a frame, with a response behind its doorbell; an identity that may be armed. -/
theorem wit_ChainEntries :
    let k := fun (w : Word) => ({ fld := { ports := [(255, { state := 2, chain := 31 })], chains := [(31, { port := some 255, settled := true, endp := 15, adm := 0, held := some [0xC2] })] },
                                  regs := [(Reg.CHN_ENTRY_HDR + 64 * 31 + 56, w)] } : Dev)
    let r : FrameRes := { port := 255, grant := 0, pos := 15, st := 0, sub := 0, air := 0, rx := zeros 256, wtx := 0, pass := 2 }
    (chainGet (k 3) 31).port = some 255 ∧ (chainGet (k 3) 31).adm = ((chainGet (k 3) 31).endp + 1) % 16 ∧
      fld (rg (k 3) (Reg.CHN_ENTRY_HDR + 64 * 31 + 8 * ((chainGet (k 3) 31).endp % 8))) 3 0 = 3 ∧
      bit (rg (k 83) (Reg.CHN_ENTRY_HDR + 64 * 31 + 56)) 4 = true ∧ bit (rg (k 83) (Reg.CHN_ENTRY_HDR + 64 * 31 + 56)) 6 = true ∧
      bit (rg (k 83) (Reg.CHN_ENTRY_HDR + 64 * 31 + 56)) 5 = false ∧
      stripCrc false ([5] ++ frameCrc false [5]) = some [5] ∧ stripCrc true [5] = none ∧ 0x20 + flightOwner (k 3) (255 / 16) = 0x23 ∧ posDist 8 0 8 = 8 ∧
      r.pass < 3 ∧ r.rx.length ≤ 256 ∧ r.st < 256 ∧ (chainGet (k 3) 31).settled = true ∧ (k 3).pas.count + 1 < passAfter (k 3) (frameTime false 0 2 + (fwtOf 0 + deltaFwt)) ∧
      ({ window := some 1 } : Chain).window.getD 0 ≤ (k 3).pas.count + 1 ∧ stripCrc false ([0xF2, 1] ++ frameCrc false [0xF2, 1]) = some [0xF2, 1] ∧
      (octAt [0xF2, 1] 0).toNat / 16 = 15 ∧ (octAt [0xF2, 1] 1).toNat % 64 = 1 ∧
      identOk (zeros 3 ++ [4] ++ zeros 7 ++ [2, 5]) = true ∧ fld (65542 : Word) 24 16 + 2 ≤ ({} : Chain).fsd ∧
      (let e : Dev := { k 65542 with fld := { (k 6).fld with chains := [(31, { chainGet (k 6) 31 with emu := true, emuState := 3, timer := some 0 })] } }
       (chainGet e 31).emu = true ∧ (chainGet e 31).emuState = 3 ∧ (chainGet e 31).endp ≠ (chainGet e 31).tailNext.getD (chainGet e 31).tail ∧ entryFail e 31 15 = none ∧
         (chainGet e 31).timer = some 0 ∧ (0 : Nat) ≤ e.pas.count ∧ (chainGet e 31).held.isSome = true ∧ (chainGet e 31).card = 0) := by decide +kernel

/-- A session open and selected with a challenge, blocks with and without the right to write, values and a full counter, accesses that wait. -/
theorem wit_TagCoreCommands :
    let a : TagAccess := { core := none, action := 4, idx := 15, amount := 1 }
    let d : Dev := { tag := { session := some 240, selected := true, challenge := some (zeros 8), store := [zeros 8], queue := [a], mem := [(286, tagSealed 143 (2 ^ 32 - 1) 0)], locks := [127] },
                     lkg := { fieldUp := true }, regs := [(Reg.TAG_WRIGHTS + 3, 2 ^ 31), (Reg.TAG_CRIGHTS, 0x8000), (Reg.TAG_AUTH_SLOT, 2 ^ 14)] }
    d.tag.session.isSome = true ∧ d.tag.wait = none ∧ bit (rg d (Reg.TAG_WRIGHTS + 127 / 32)) (127 % 32) = true ∧ bit (rg d (Reg.TAG_WRIGHTS + 0 / 32)) (0 % 32) = false ∧
      bit (rg d Reg.TAG_CRIGHTS) 15 = true ∧ bit (rg d Reg.TAG_CRIGHTS) 14 = false ∧ fieldPowered d = true ∧ tagAuthOn d = true ∧ tagAuthOn {} = false ∧ tagValue d 127 = some 0 ∧
      tagCurrent d 127 = some 0 ∧ tagValue d (128 + 15) = some (2 ^ 32 - 1) ∧ tagCurrent d (128 + 15) = some 0 ∧ a.amount ≠ 0 ∧
      tagValue { tag := { mem := [(0, tagWrong 0 0 0 7), (1, tagWrong 0 0 0 7)] } } 0 = none ∧ (portGet d 240).state ≠ 2 ∧ (240 : Nat) % 16 = 0 ∧ isF 0x23 = true ∧
      (cmdGet d 0x24 0x23).busy = false ∧ 16 ≤ (List.range 16).length ∧ 127 ∉ List.range 16 ∧ d.tag.locks.length < 16 ∧ ({} : TagCore).selected = false ∧ d.tag.selected = true ∧ d.tag.challenge = some (zeros 8) ∧ ({} : TagCore).challenge = none ∧ ({} : TagCore).session = none ∧
      fieldPowered {} = false ∧ d.tag.store = [zeros 8] ∧ (127 : Nat) ∈ d.tag.locks ∧ d.keep.hold = false := by decide +kernel

/-! ### The Lockgate, mailboxes, regions -/

/-- A field message queued by H7, one lost, one on the wire, one waiting; a refused one; budgets; rings of 16 and 1,024 entries. -/
theorem wit_LockgateLanes :
    let b : Barge := { toField := true, lane := 3, type := 0x10, seq := 4095 }
    let k := 4 + 3
    let d : Dev := { lkg := { fieldUp := true, sendq := [(32 * 7 + 23, [b])], wire := [(7, [b])], seqRx := [(7, 4095)], waiting := [(7, [b])] }, rst := { hostStep := 7 } }
    let errs : List Nat := [1]
    tabGet [] d.lkg.sendq (32 * k + 23) = [b] ∧ (∀ r, r < 32 → r ≠ 23 → tabGet [] d.lkg.sendq (32 * k + r) = []) ∧ (tabGet [] d.lkg.waiting k).length < 64 ∧
      1 ≤ lkgLeft d true 3 ∧ lkgLeft { spent := [(lkgSpent true 3, 10000)] } true 3 = 0 ∧ tabGet [] d.lkg.wire k = [b] ∧ b.seq = tabGet 0 d.lkg.seqRx k ∧
      typeLane b.type = some (3, true) ∧ tabGet [] d.lkg.halves k = [] ∧ typeLane 0x10 ≠ some (2, true) ∧ (rxWrite b d).isNone = true ∧ b.type ≠ 0x03 ∧ b.type ≠ 0x05 ∧
      tabGet 0 d.lkg.skip k = 0 ∧ tabGet 0 ({ skip := [(7, b.type + 1)] } : Lockgate).skip k = b.type + 1 ∧ 23 ∈ endQueues true ∧ 0 ∈ endQueues false ∧
      laneFull d true 3 = false ∧ laneFull { lkg := { waiting := [(7, List.replicate 64 b)] } } true 3 = true ∧ errs.getD 0 0 % 256 ≠ 0 ∧ (∀ i, i < 16 → ([] : List Nat).getD i 0 % 256 = 0) := by decide

/-- F3's send ring with one permitted barge, H7's with one it may not send, and a receive ring with an entry. -/
theorem wit_LockgateLanes_rings :
    let q := isl 0x23 (Reg.LKG_TXQ_BASE + 12)
    let h := Reg.LKG_TXQ_BASE + 28
    let x := Reg.LKG_RXQ_BASE + 28
    let d : Dev := { regs := [(q, 0x020000000), (q + 1, 4), (h, 0x020000000), (h + 1, 10), (x + 1, 10), (x + 3, 1),
                              (0x07C001, 0xFFFFFFFF0), (0x07C002, 0xFFF), (0x07C101, 0xFFFFFFFF0), (0x07C102, 0xFFF)], fmem := [(0x020000000, 1)] }
    let ws := (List.range 16).map (fun i => ramWord d 0x23 (0x020000000 + i))
    fld (rg d (q + 1)) 4 0 = 4 ∧ posOf (rg d (q + 2)) 16 = 0 ∧ posDist 16 0 (posOf 1 16) = 1 ∧ txAllowed 0x23 (bargeOf false 3 ws) = true ∧
      txAllowed 0x17 (bargeOf true 0 (List.replicate 16 0)) = false ∧ fld (rg d (h + 1)) 4 0 = 10 ∧ fld (rg d (x + 1)) 4 0 = 10 ∧ 0 < posDist 1024 0 (posOf 1 1024) ∧
      posDist 1024 0 (posOf 1 1024) ≤ posDist 1024 (posOf (rg d (x + 2)) 1024) (posOf (rg d (x + 3)) 1024) ∧ isF 0x23 = true ∧ isH 0x17 = true := by decide

/-- Barges that arrive: one for a core whose receive ring has room and one for a core without a ring; a query; a request; the answer the tag core waits
for; a configuration push of one pair; an acknowledgement. -/
theorem wit_BargeMeanings :
    let x := isl 0x23 (Reg.LKG_RXQ_BASE + 12)
    let b : Barge := { toField := true, lane := 3, type := 0x10, core := 3 }
    let d : Dev := { lkg := { fieldUp := true, wire := [(7, [b])] }, regs := [(x, 0x010000000), (x + 1, 4), (0x07C101, 0xFFFFFFFF0), (0x07C102, 0xFFF)] }
    let c : Barge := { toField := false, lane := 2, type := 0x05, payload := [BitVec.ofNat 36 (3 * 2 ^ 14 + 16 * 2 ^ 21)] }
    let e : Dev := { lkg := { wire := [(2, [c])] } }
    let t : Dev := { tag := { wait := some { core := none, action := 1, idx := 0 } } }
    let p : Barge := { toField := true, lane := 0, type := 0x09, payload := [BitVec.ofNat 36 (1 + 4), BitVec.ofNat 36 (0x23 * 2 ^ 16 + 31 * 16 + 1)] }
    b.seq = tabGet 0 d.lkg.seqRx 7 ∧ tabGet [] d.lkg.halves 7 = [] ∧ tabGet [] d.lkg.wire 7 = [b] ∧ bargeCore d b = 0x23 ∧ (rxSlot d 0x23).isSome = true ∧
      (refusedIn d 0xC1 0x23 1 1 0x010000000 16).isNone = true ∧ rxSlot d 0x22 = none ∧ tabGet [] e.lkg.wire 2 = [c] ∧ fld (c.payload.getD 0 0) 16 14 = 3 ∧
      e.keep.hold = false ∧ t.tag.wait.isSome = true ∧ fld (p.payload.getD 0 0) 1 0 = 1 ∧ fld (p.payload.getD 0 0) 4 2 = 1 ∧
      (fld (p.payload.getD 1 0) 23 0) >>> 16 = 0x23 ∧ fld (p.payload.getD 1 0) 23 0 % 65536 / 16 = 31 ∧ fld (p.payload.getD 1 0) 23 0 % 16 = 1 ∧
      tabGet 0 d.lkg.skip 7 = 0 ∧ tabGet 0 e.lkg.skip 2 = 0 ∧ typeLane 0x10 = some (3, true) ∧ (tabGet [] d.lkg.waiting 7).length < 64 ∧ e.waitq = [] ∧ inFlight e < 131072 ∧ 14 * 0 + 14 ≤ 0x80000 ∧
      (chmFieldEntries ({ chm := { pushed := true } } : Dev)).length = 0 := by decide

/-- A barge of every type at the front of its lane, in order and with no half before it: the type has a lane, the lane has room. -/
theorem wit_BargeMeanings_types :
    ((List.range 17).map (· + 1)).all (fun ty => (typeLane ty).any (fun x =>
      let b : Barge := { toField := x.2, lane := x.1, type := ty }
      let k := (if x.2 then 4 else 0) + x.1
      let d : Dev := { lkg := { fieldUp := true, wire := [(k, [b])] }, rpl := { mode := 2 } }
      decide (laneKey x.2 x.1 = k) && decide (tabGet [] d.lkg.wire k = [b]) && decide (b.seq = tabGet 0 d.lkg.seqRx k) && decide (tabGet [] d.lkg.halves k = []) &&
        decide (tabGet 0 d.lkg.skip k = 0) && decide ((tabGet [] d.lkg.waiting k).length < 64) && d.fld.supplyOk && !d.keep.hold && !d.fld.started && decide (d.rpl.mode = 2) &&
        decide ((List.replicate 15 (0 : Word)).length = 15) && !b.cont && decide (b.core < 4))) = true := by decide

/-- Channel 63 of H7 to K, a channel bound between a function and H0, one that is not enabled, a send whose time has come and one whose receiver is down. -/
theorem wit_MailboxCommands :
    let d : Dev := { regs := [(Reg.MBX_BIND, 2 ^ 16 + 0x10 * 256 + 0x7F), (Reg.MBX_TIMEOUT, 5)], mbx := [(0, { await := true, full := true, vis := 2 })], pas := { count := 7 },
                     cores := [(0x10, { run := true })], pcieBme := [(0x3F, true)] }
    mbxEnabled d 63 = true ∧ mbxSender d 63 = 0x17 ∧ mbxReceiver d 63 = 1 ∧ mbxEnabled d 0 = true ∧ mbxSender d 0 = 0x7F ∧ isFn (mbxSender d 0) = true ∧
      mbxReceiver d 0 = 0x10 ∧ mbxEnabled d 1 = false ∧ (mbxGet d 0).fresh = false ∧ (mbxGet d 0).gone = false ∧ (mbxGet d 0).vis + rn d Reg.MBX_TIMEOUT ≤ d.pas.count ∧ receiverDown d 0x10 = false ∧ receiverDown d 1 = true ∧
      busMaster d (mbxSender d 0 - 0x40) = true := by decide

/-- A region of H7 that covers nothing sealed, and one of F3 that a write makes SEALED. -/
theorem wit_RegionWrites :
    isCore 0x17 = true ∧ (31 : Nat) < regionCount 0x17 ∧ regionCount 0x23 ≠ 0 ∧ (region {} 0x17 31).sealed = false ∧ sealedRanges {} false = [(0x020000000, 0x02003FFFF), (0x170000000, 0x17FFFFFFF)] ∧
      (region {} 0x17 31).hi = 15 ∧ sealedRanges {} true = [] ∧
      (regionOf (fun b => if b = mpuAddr 0x23 3 2 then 0x400 else rg {} b) 0x23 3).sealed = true ∧ isH 0x17 = true := by decide

/-- A word that is no core's region word. -/
theorem wit_RegionWrites_other (g r k : Nat) : 0 % 2 ^ 24 ≠ mpuAddr g r k := by
  simp only [mpuAddr]; omega

/-! ### Tamper and HOLD -/

/-- A condition source asserted and not, an event below its threshold and at it, a COUNT past its window; windows that end with each response; a keyed and an
open source on the keep cell. -/
theorem wit_TamperSources :
    let d : Dev := { regs := [(Reg.TMP_SRC_STATUS + 8, 2 ^ 8), (Reg.TMP_SRC_STATUS + 34, 4), (Reg.TMP_SRC_CTL + 34, BitVec.ofNat 36 (1 + 8 * 5 + 2 ^ 11 * 7))], pas := { count := 7 } }
    tmpCondition 8 = true ∧ bit (tmpStatus d 8) 8 = true ∧ tmpCondition 9 = true ∧ bit (tmpStatus d 9) 8 = false ∧ tmpCondition 34 = false ∧ tmpN d 34 = 5 ∧
      fld (tmpStatus d 34) 7 0 + 1 = 5 ∧ tmpN d 20 ≤ fld (tmpStatus d 20) 7 0 + 1 ∧ tmpW d 34 = 7 ∧ tabGet 0 d.tmp.since 34 + tmpW d 34 ≤ d.pas.count ∧ tmpW d 20 = 0 ∧
      fusesLegal d = true ∧ [1, 9, 4, 2, 17].map (tmpResponse d) = [0, 2, 3, 4, 5] ∧ inForce { rst := { hostLvl := 0, fieldLvl := 0 } } = 0 ∧
      inForce { keep := { hold := true } } = 5 ∧ d.rst.vin = true ∧ d.rst.keepLost = false ∧ covered { rst := { hostLvl := 0, fieldLvl := 0 } } 2 0 = false ∧
      covered { rst := { hostLvl := 0, fieldLvl := 0 } } 3 0 = false ∧ covered d 2 0 = true ∧ covered d 3 0 = true ∧ inForce { rst := { respField := true } } = 2 ∧
      bit (tmpStatus {} 19) 8 = false ∧ tmpN {} 19 ≤ 1 ∧ tmpN {} 8 ≤ 1 ∧ tmpKeyed 19 = true ∧ tmpKeyed 8 = false := by decide

/-- Unlock tokens of each kind that name this device and hold, or another; a release owed. -/
theorem wit_HoldRelease :
    let tok : Octets := [1, 0, 2, 0, 63] ++ zeros 171
    let o : Op := { id := 5, src := .ring 3 0, ctx := 0x40, desc := wop 0x5A [], phase := .admitted, input := tok }
    let d : Dev := { keep := { hold := true }, ops := [o], life := { roster := [(0, [1]), (63, [1])] } }
    findOp d 5 = some o ∧ o.opcode = 0x5A ∧ leAt tok 2 1 = 2 ∧ d.tmp.epoch < 255 ∧ slice tok 16 16 = fitTo 16 d.life.devid ∧
      leAt tok 32 6 = d.tmp.epoch * 2 ^ 40 + tabGet 0 d.keep.monc 3 % 2 ^ 40 ∧ slice (List.replicate 176 1) 16 16 ≠ fitTo 16 d.life.devid ∧
      tabGet [] d.life.roster (leAt tok 3 1) ≠ [] ∧ tabGet [] d.life.roster (leAt tok 4 1) ≠ [] ∧ tabGet [] d.life.roster 1 = [] ∧
      cardSigned [1] (tok.take 48) (slice tok 48 64) = false ∧ [19, 21, 24, 28, 29].all (fun z => !bit (tmpStatus d z) 8) = true := by decide +kernel

/-! ### Life cycle, Towpath, flash, cards -/

/-- Each step of a transition, a challenge past its life, K's boot with the words voted unanimous and not, no bootable plane. -/
theorem wit_LifeCycle :
    let d : Dev := { rst := { hostStep := 2 } }
    let e : Dev := { rst := { hostStep := 2, hostLvl := 4 }, life := { otp := { lc := [0, 0, 1] } }, tmp := { log := [] } }
    hopServes { hop := khop } 2 = true ∧ hopWaits {} 2 = true ∧ hopRefusal { hop := { state := 2 } } = some 2 ∧ (khop.fifo.take 2).flatten.length = 32 ∧ d.life.otp.lc.length = 3 ∧ fusesLegal d = true ∧ lcUnanimous d = true ∧ lcUnanimous e = false ∧
      d.life.state = lcDecode (lcVote d) ∧ d.keep.shadow.2.2 = 0 ∧ d.life.booted = false ∧ d.tmp.lost = true ∧ ({ lost := false } : Tamper).lost = false ∧
      hopRefuses { hop := { state := 2 } } = true ∧ d.life.otp.badA = false ∧ validSet d 0 = none ∧ validSet d 1 = none ∧
      lcDecode (lcVote { d with life := { otp := { lc := [0x3F, 0x3F, 0x3F] } } }) ≤ 5 := by decide

/-- The Towpath in FACTORY and in DEPLOYED with and without a session, a challenge and responses of its length, accesses in and out of scope. -/
theorem wit_Towpath :
    let d : Dev := { life := { state := 1, ir := 0x20 } }
    let s : Dev := { life := { state := 2, ir := 0x20, sessOpen := true, scope := 3 }, hop := khop }
    let r : Octets := [1, 0, 1, 7] ++ zeros 172
    hopServes s 2 = true ∧ hopServes d 2 = false ∧ s.life.scope.testBit 1 = true ∧ s.life.scope.testBit 0 = true ∧ (2 : Nat).testBit 0 = false ∧ r.length = 176 ∧ leAt r 0 2 = 1 ∧ leAt r 3 1 ≤ 7 ∧
      allZero (slice r 4 4) = true ∧ allZero (slice r 64 16) = true ∧ (rg d Reg.DBG_ADDR).toNat < 0xF00000000 ∧ sealedWord d false 0 = false ∧ refusal d 2 2 0 0 0 = none ∧
      refusal d 2 2 0 1 0x010000000 = none ∧ romWord 2 0x010000000 = false ∧ refusal s 2 2 0 0 0x300000000 = some 1 ∧
      sealedWord d false 0x020000000 = true ∧ d.life.state ≤ 1 ∧ hopRefuses { hop := { state := 2 } } = true ∧ s.life.state ≠ 5 ∧ s.life.sessOpen = true ∧
      allZero (slice r 30 2) = true ∧ leAt r 2 1 = 1 ∧
      (let b : Dev := { s with life := { s.life with booted := true, chal := some ([1, 0, 1] ++ zeros 61, 4), sessNext := some (3, 4) }, pas := { count := 5 } }
       b.life.booted = true ∧ b.life.sessNext = some (3, 4) ∧ (4 : Nat) < b.pas.count ∧
         (leAt ([1, 0, 1] ++ zeros 61) 2 1 = 1 ∧ slice r 8 16 = slice ([1, 0, 1] ++ zeros 61) 8 16 ∧ slice r 24 6 = slice ([1, 0, 1] ++ zeros 61) 24 6 ∧
           slice r 32 32 = slice ([1, 0, 1] ++ zeros 61) 32 32)) := by decide +kernel

/-- A plane that reads, programs, erases or has an erase its journal asks for; the buffer's words permitted. -/
theorem wit_FlashPlanes :
    let o := fun (op : Octet) => ({ id := 5, src := .cmd 0x13 1, ctx := 1, desc := wop op.toNat [], phase := .admitted, aux := [0, 0x010000000, 0, 0] } : Op)
    let d : Dev := { fls := { planes := [(7, { state := 1, cur := some 5 }), (0, { state := 3, erase := some 6 }), (1, { journal := some 0xFF, redo := true })] },
                     ops := [o 0xD1, { o 0xD3 with id := 6 }], regs := [(0x07B001, 0xFFFFFFFF0), (0x07B002, 0x0100FF)] }
    (o 0xD1).id = 5 ∧ (o 0xD1).dead = false ∧ (o 0xD1).src = .cmd 0x13 1 ∧
      (bursts ((o 0xD1).flsWords + 1) (o 0xD1).flsBuf (o 0xD1).flsWords).all (fun b => (refusedIn d 0xB0 (o 0xD1).served 0 1 b.1 b.2).isNone) = true ∧
      (bursts ((o 0xD1).flsWords + 1) (o 0xD1).flsBuf (o 0xD1).flsWords).any (fun b => (refusedIn {} 0xB0 (o 0xD1).served 0 1 b.1 b.2).isSome) = true ∧
      (plane d 7).cur = some 5 ∧ findOp d 5 = some (o 0xD1) ∧ (o 0xD1).opcode = 0xD1 ∧ (plane d 7).erase = none ∧ (plane d 7).state = 1 ∧ (plane d 0).cur = none ∧
      (plane d 0).state = 3 ∧ (plane d 0).erase = some 6 ∧ (findOp d 6).isSome = true ∧ (plane d 1).journal = some 0xFF ∧ (plane d 1).erase = none ∧
      (∀ q, q < 8 → q ≠ 1 → (plane d q).journal = none ∨ (plane d q).erase ≠ none) ∧ 2 ≤ (plane d 0).state ∧ bit (1 : Word) 0 = true ∧ (plane d 1).redo = true := by decide

/-- A check code that a word of the buffer fails, and one that none does; an upper page programmed with its partner; planes that suspend; a last record. -/
theorem wit_FlashPlanes_codes :
    let o : Op := { id := 5, src := .cmd 0x13 1, ctx := 1, desc := wop 0xD2 [], phase := .admitted, aux := [2 + 8 * 9, 0x010000000, 0, 0] }
    let d : Dev := { fls := { planes := [(2, { state := 4, cur := some 5, pages := [(9 * 256 + (pagePair o.page).2.2, { data := [] })], records := List.replicate 128 { data := [] } })] }, ops := [o] }
    (flsWcc d o (some ⟨0, 2, o.flsBuf, 3⟩)).isSome = true ∧ (flsWcc d o none).isSome = false ∧ o.opcode = 0xD2 ∧ (plane d 2).cur = some 5 ∧ (plane d 2).state = 4 ∧
      findOp d 5 = some o ∧ o.dead = false ∧ 128 ≤ (plane d 2).records.length := by decide +kernel

/-- Slots in each state: a card put in and stable, a writer with a record buffered, one being opened and one being closed. -/
theorem wit_AuditCards :
    let r : AuditRec := ⟨3, zeros 512⟩
    let x : SdSlot := { state := 5, blocks := 10, next := 8 }
    let o : Op := { id := 5, src := .cmd 0x14 1, ctx := 1, desc := wop 0xE3 [], phase := .admitted, aux := [1] }
    let d : Dev := { sdh := { slots := [(1, x)], writer := some 1, buffer := [r] } }
    let e : Dev := { sdh := { slots := [(1, { x with next := 0 })], busy := some (1, false), special := some r }, ops := [o] }
    let f : Dev := { sdh := { slots := [(1, { state := 1, since := 0 })] }, pas := { count := 400 } }
    (sdSlot d 1).state = 5 ∧ slotOp d 1 = none ∧ d.sdh.writer = some 1 ∧ d.sdh.buffer = [r] ∧ (sdSlot d 1).next + 1 < (sdSlot d 1).blocks ∧ d.sdh.spare = [] ∧ d.sdh.busy = none ∧ (sdSlot d 1).owed = none ∧ writeLate d 1 = false ∧
      writeLate { d with pas := { count := 10001 }, sdh := { d.sdh with slots := [(1, { x with wrAt := some 0 })] } } 1 = true ∧ [cardSub {}, cardSub { cmd8 := some 0 },
      cardSub { ready := none }, cardSub { fails := [3] }] = [0, 0x41, 0x42, 0x40] ∧ slotOp e 1 = some o ∧
      e.sdh.busy = some (1, false) ∧ (sdSlot e 1).next = 0 ∧ (sdSlot f 1).since + 400 ≤ f.pas.count ∧ f.pas.count ≤ (sdSlot f 1).since + 24400 ∧ (sdSlot f 0).state = 0 ∧ e.sdh.special = some r ∧
      0 < (sdSlot e 1).blocks ∧ o.src = .cmd 0x14 1 ∧ o.dead = false ∧
      (let g : Dev := { e with sdh := { e.sdh with busy := some (1, true), slots := [(1, { x with next := 9 })] } }
       g.sdh.busy = some (1, true) ∧ (sdSlot g 1).next < (sdSlot g 1).blocks ∧ slotOp g 1 = some o) ∧
      (let g : Dev := { d with sdh := { d.sdh with slots := [(1, { x with owed := some r })], buffer := [] }, ops := [{ o with desc := wop 0xE2 [] }] }
       (sdSlot g 1).owed = some r ∧ slotOp g 1 = none ∧ nextRecord { g with sdh := { slots := [(1, x)] } } 1 = none ∧ g.ops.any (slotUse 1) = true) := by decide +kernel

/-- An interface without a card, with a session to expire, and in each step of an exchange; a key that is on the roster and one that is not. -/
theorem wit_OfficerCards :
    let o : Op := { id := 5, src := .cmd 0x15 1, ctx := 1, desc := wop 0xF2 [], phase := .admitted, aux := [1] }
    let d : Dev := { ofc := [(1, { present := true, state := 2, op := some 5, step := 3, body := zeros 80 })], ops := [o], hop := khop,
                     life := { roster := [(63, zeros 64)] } }
    (ofcIf d 1).op = some 5 ∧ findOp d 5 = some o ∧ o.opcode = 0xF2 ∧ (ofcIf d 1).step ≠ 4 ∧ rosterFind d (fitTo 64 (zeros 64)) = some 63 ∧
      rosterFind d (fitTo 64 [1]) = none ∧ hopServes d 2 = true ∧ hopWaits {} 2 = true ∧
      ([none, some true] : List (Option Bool))[1]? = some (some true) ∧ ([] : List (Option Bool))[3]? = none ∧ cardSigned (tabGet [] d.life.roster 63) (zeros 80) (fitTo 64 []) = false ∧ (ofcIf d 0).op = none ∧ o.src = .cmd 0x15 1 ∧ o.dead = false ∧
      (ofcIf d 1).state ≠ 1 ∧ (ofcIf d 1).t1 = false ∧ (0x6103 : Nat) / 256 = 0x61 ∧ hopRefuses { hop := { state := 2 } } = true ∧ (ofcIf d 1).present ≠ false := by
  decide +kernel

/-- Answers to reset: of T = 0, of T = 0 with a faster rate, of T = 1, and one that is none; the answers to a PPS and to T = 1 blocks; an interface under
activation, and one that awaits its Grinder job. -/
theorem wit_OfficerCards_atrs :
    let a := parseAtr [0x3B, 0x00]
    let b := parseAtr [0x3B, 0x10, 0x96]
    let c := parseAtr [0x3B, 0x80, 0x01, 0x81]
    (a.any (fun x => !ppsSent x && !x.t1) && b.any (fun x => ppsSent x && !x.t1) && c.any (fun x => !ppsSent x && x.t1)) = true ∧ parseAtr [] = none ∧
      ppsRequest false 0x96 ≠ ppsKeeps false ∧ t1Block 0xE1 [254] ≠ t1Block 0xC1 [254] ∧ (([] : Octets).length < 4 ∧ t1Block 0x60 [1] = t1Block (64 * 1 + 0x20) [1]) ∧
      (let x : OfcIf := { present := true, state := 1, op := some 5, step := 5, tx := ppsRequest false 0x96 }
       let o : Op := { id := 5, src := .cmd 0x15 1, ctx := 1, desc := wop 0xF2 [], phase := .admitted, aux := [1] }
       let j : Op := { o with id := 6, src := .ofc 1, desc := wop 0x30 [], status := St.untrusted }
       let d : Dev := { ofc := [(1, { x with state := 2, step := 7 })], ops := [o, j] }
       x.state = 1 ∧ x.step = 5 ∧ (ofcIf d 1).step = 7 ∧ j.src = .ofc 1 ∧ j.id ≠ 5 ∧ findOp d 5 = some o ∧ o.opcode ∈ [0xF1, 0xF2, 0xF3] ∧ j.status = St.untrusted) := by
  decide +kernel

/-! ### Records and replay -/

/-- A recorder whose key is all zeros but empty (the cipher then leaves a block as it is): a pass waiting to close without its field island, one that is
not complete, a full staging ring. -/
theorem wit_RecordsAndReplay_close :
    let d : Dev := { rpl := { key := some [], closing := [(7, true, [{ core := 0x10, digest := zeros 32 }])], fieldSeg := true, mode := 1 },
                     regs := [(Reg.RPL_STAGE_SIZE, 1), (Reg.RPL_CTL, 1 + 2 ^ 14), (Reg.RPL_STAGE_BASE, 0x010000000)] }
    let body := sectOct { core := 0x10, digest := zeros 32 }
    let h := recordHdr d 4 7 body.length
    let c := gcmEnc [] (leOct 4 0 ++ leOct 6 0 ++ zeros 2) h body
    let record := h ++ c.1 ++ c.2
    stagedWords d + stageWords record.length ≤ stageCap d ∧ (rplCores d).testBit 11 = true ∧ d.rpl.fieldSeg = true ∧ (tabGet ([], false) d.rpl.logs (7 % 4096 * 4 + 3)).2 = false ∧
      stageCap ({ d with regs := [] } : Dev) = 0 ∧ 0 < stageWords record.length := by decide +kernel

/-- Every word of the staging ring is granted to Sluice 11: the first and the last. -/
theorem wit_RecordsAndReplay_ring :
    let d : Dev := { regs := [(Reg.RPL_STAGE_SIZE, 1), (Reg.RPL_STAGE_BASE, 0x010000000), (mpuAddr 0x3B 0 0, 0x010000000), (mpuAddr 0x3B 0 1, 0x0100FFFF0),
                              (mpuAddr 0x3B 0 2, 0x0100FF)] }
    stageCap d = 2 ^ 20 ∧ refusal d 0x3B 1 0 1 0x010000000 = none ∧ refusal d 0x3B 1 0 1 (0x010000000 + 2 ^ 20 - 1) = none ∧
      governing d 0x3B 1 0x010000000 = some (region d 0x3B 0) ∧ (region d 0x3B 0).lo = 0x010000000 ∧ (region d 0x3B 0).hi = 0x010000000 + 2 ^ 20 - 1 := by decide +kernel

/-- Records on their way: the oldest not yet on the replay ring, with room and with a host that has read too little; all of them delivered. -/
theorem wit_RecordsAndReplay_delivery :
    let x : Staged := { rseq := 4, epoch := 1, data := zeros 96 }
    let d : Dev := { rpl := { staged := [x, { x with rseq := 5 }], produced := 4090 }, pcieBme := [(0, true)],
                     regs := [(Reg.RPL_RING_SIZE, 12), (Reg.RPL_RING_BASE_LO, 0x10000), (Reg.RPL_RING_CTRL_LO, 0x8000)] }
    (rg d Reg.RPL_RING_SIZE) ≠ 0 ∧ fld (rg d Reg.RPL_CTL) 2 1 = 0 ∧ d.rpl.produced + x.data.length ≤ 90 + 2 ^ (rg d Reg.RPL_RING_SIZE).toNat ∧ (90 : Nat) ≤ d.rpl.produced ∧
      89 + 2 ^ (rg d Reg.RPL_RING_SIZE).toNat < d.rpl.produced + x.data.length ∧ busMaster d 0 = true ∧
      ofLoHi (rg d Reg.RPL_RING_CTRL_LO) (rg d Reg.RPL_RING_CTRL_HI) + 8 ≤ ofLoHi (rg d Reg.RPL_RING_BASE_LO) (rg d Reg.RPL_RING_BASE_HI) ∧
      [{ x with ring := true }].all (·.ring) = true := by decide

/-- What a record check answers: the kind of a divergence, or 0 and the body. -/
def checked (x : Except Nat Octets) : Nat × Octets := match x with | .ok b => (0, b) | .error k => (k, [])

/-- A replay of H0: the KEYREC record, an empty record, one whose section holds one MEMORY item, one that is no record; a section with items left. -/
theorem wit_RecordsAndReplay_replay :
    let s : RplSect := { core := 0x10, items := [{ kind := 1, at_ := 0, words := [0x010000000, 5] }], digest := zeros 32 }
    let d : Dev := { rpl := { mode := 2, key := some [], edgeAt := 1 }, regs := [(Reg.RPL_REPLAY_CORES, 1)], pcieBme := [(0, true)] }
    let e : Dev := { d with rpl := { d.rpl with expect := 1, rseq := 1 } }
    let q := recordSeal e 4 9 (sectOct s)
    benchIdle d = true ∧ d.rpl.edgeAt ≠ d.pas.count ∧ benchCores d = [0x10] ∧ endChecks d (benchCores d) = none ∧
      checked (recordCheck d (recordHdr d 1 9 148 ++ zeros 148)) = (0, []) ∧ checked (recordCheck e (recordSeal e 0 9 [])) = (0, []) ∧ checked (recordCheck e q) = (0, (sectOct s)) ∧
      sectsOf 12 (sectOct s) = [s] ∧ isH s.core = true ∧ replayed e s.core = true ∧ s.flags % 4 = 0 ∧ e.rpl.hashes = [] ∧ (coreGet e s.core).waiting = none ∧
      checked (recordCheck e []) = (5, []) ∧ checked (recordCheck e (recordSeal e 2 9 [])) = (6, []) ∧
      endChecks { e with rpl := { e.rpl with replay := [(0x10, s)] } } [0x10] = some (0x10, 2) := by decide +kernel

/-! ### Performance counters -/

/-- F3 counts; a sample tag held with a full buffer and with one of one sample below the threshold; a window that closes. -/
theorem wit_PerformanceCounters :
    let g := pmuReg 0x23 0
    let d : Dev := { regs := [(g, 3), (g + 0x30, BitVec.ofNat 36 (1 + 2 ^ 25 * 2)), (Reg.PMU_BW_WINDOW, 4)], pas := { count := 8 },
                     pmu := [(0x23, { tag := true, samples := [[1, 2, 3, 4, 5, 6, 7, 8]], idx := 7 }), (0x17, { tag := true, samples := List.replicate 256 [] })] }
    bit (rg d (pmuReg 0x23 0)) 0 = true ∧ fld (rg d (pmuReg 0x23 2)) 10 0 = 0 ∧ bit (rg d (pmuReg 0x22 0)) 0 = false ∧ isCore 0x23 = true ∧
      bit (rg d (pmuReg 0x23 0x30)) 0 = true ∧ (pmuGet d 0x23).tag = true ∧ (pmuGet d 0x17).samples.length = 256 ∧ (pmuGet d 0x23).samples.length + 1 = fld (rg d (pmuReg 0x23 0x30)) 33 25 ∧
      (pmuGet { d with pmu := [] } 0x23).tag = false ∧ (pmuGet d 0x23).idx = 7 ∧ (pmuGet d 0x22).samples = [] ∧ replayed d 0x22 = false ∧ isFieldMaster 0x22 = isF 0x23 ∧ isFieldMaster 0x10 ≠ isF 0x23 ∧ isCore 0x40 = false ∧ isCore 0x22 = true ∧ d.pas.count % (rg d Reg.PMU_BW_WINDOW).toNat = 0 ∧ d.pas.count ≠ d.bw.last ∧
      (9 : Nat) % (rg d Reg.PMU_BW_WINDOW).toNat ≠ 0 ∧ ofLoHi (rg d (Reg.PMU_BW_MAX_LO + 4 * 29)) (rg d (Reg.PMU_BW_MAX_HI + 4 * 29)) < 2 ^ 48 := by decide +kernel

/-! ### Reset, power and watchdogs -/

/-- Sources that are covered and not; every release step that can come next; fuses; the field cores' release. -/
theorem wit_ResetsAndRelease :
    let d : Dev := { rst := { hostStep := 7, hostLvl := 0, fieldLvl := 0, fieldStep := 10 }, cores := [(0x10, { run := true })], life := { state := 0 },
                     fld := { started := true }, lkg := { fieldUp := true } }
    let at_ := fun (n : Nat) => ({ rst := { hostStep := n, hostLvl := 4, fieldLvl := 2, go := [4, 5, 6, 7, 8] }, fld := { supplyOk := true }, life := { booted := true } } : Dev)
    [5, 6, 7].map (srcLevel d) = [3, 3, 2] ∧ [1, 8, 10, 0, 12].map (srcLevel d) = [5, 1, 1, 4, 0] ∧ ¬ ((3 : Nat) ≤ d.rst.hostLvl) ∧ d.rst.fieldLvl = 0 ∧
      (coreGet d 0x10).run = true ∧ (coreGet d 0x11).run = false ∧ 4 ≤ (at_ 0).rst.hostLvl ∧ (at_ 6).rst.hostStep = 6 ∧ (4 ∈ (at_ 3).rst.go) ∧ (8 ∈ (at_ 7).rst.go) ∧
      powered (at_ 0) = true ∧ kReady (at_ 3) = true ∧ kReady d = false ∧ (at_ 7).fld.supplyOk = true ∧ (at_ 7).rst.fieldStep = 0 ∧ isH 0x11 = true ∧ 5 ≤ d.rst.hostStep ∧ (part d 6 1).state < 2 ∧
      benchHeld d 0x11 = false ∧ benchHeld d 0x23 = false ∧ (coreGet d 0x23).run = false ∧ isF 0x23 = true ∧ tabFind d.rst.fuses 26 = none ∧ (3 ∈ srcPermitted 5) := by decide

/-- A field image whose load has ended. -/
theorem wit_ResetsAndRelease_start :
    let d : Dev := { fld := { imgDone := true }, lkg := { fieldUp := true }, life := { booted := true } }
    d.life.booted = true ∧ d.life.bootStatus ≠ 1 ∧ d.fld.imgDone = true ∧ d.fld.started = false ∧ d.lkg.fieldUp = true ∧ benchHeld d 0x20 = false := by decide

/-- F3's watchdog one cycle from its warning and at its end; supplies lost and good; the reset controller's legal fuses; a rail that fails. -/
theorem wit_WatchdogsAndSupplies :
    let d : Dev := { regs := [(wdgReg 0x23 0, BitVec.ofNat 36 (1 + 2 ^ 21 * 9)), (wdgReg 0x23 2, 9), (wdgReg 0x17 0, 1)], cores := [(0x23, { run := true }), (0x17, { run := true })],
                     rst := { vin := false, keepLost := true, hostLvl := 0, hostStep := 7 } }
    bit (rg d (wdgReg 0x23 0)) 0 = true ∧ (coreGet d 0x23).run = true ∧ fld (rg d (wdgReg 0x23 0)) 35 21 = 9 ∧ (rg d (wdgReg 0x23 2)).toNat = 9 ∧
      bit (rg d (wdgReg 0x17 0)) 0 = true ∧ (rg d (wdgReg 0x17 2)).toNat = 0 ∧ (coreGet d 0x16).run = false ∧ powered d = false ∧ powered {} = true ∧ fusesLegal d = true ∧
      tabGet false d.rst.warned 0x23 = false ∧ ¬ (4 ≤ d.rst.hostLvl ∧ d.rst.hostStep < 2) ∧ d.rst.vin = false ∧ d.rst.keepLost = true := by decide

/-- An approval of a card on the roster, an unlock whose two officers signed it, and a session answered with a valid signature. -/
theorem wit_ApprovalUnlockSession :
    let o : Op := { id := 5, src := .ring 3 0, ctx := 0x40, desc := wop 0x53 [], phase := .admitted, input := zeros 80 ++ cardSig }
    let u : Op := { o with id := 6, desc := wop 0x5A [], input := holdBody ++ holdSig ++ holdSig }
    let x : OfcIf := { present := true, state := 2, op := some 5, step := 3, who := 0, body := zeros 80 }
    let d : Dev := { ops := [o, u], life := { roster := [(0, cardKey)] }, ofc := [(1, x)] }
    let e : Dev := { d with keep := { hold := true }, life := { roster := [(0, holdKey), (63, holdKey)] } }
    findOp d 5 = some o ∧ o.opcode = 0x53 ∧ tabGet [] d.life.roster (tokRoster o.input) = cardKey ∧ o.input.take 80 = zeros 80 ∧ slice o.input 80 64 = cardSig ∧
      (ofcIf d 1).body = zeros 80 ∧ fitTo 64 cardSig = cardSig ∧ tabGet [] d.life.roster (ofcIf d 1).who = cardKey ∧
      leAt u.input 2 1 = 2 ∧ slice u.input 16 16 = fitTo 16 e.life.devid ∧ leAt u.input 32 6 = e.tmp.epoch * 2 ^ 40 + tabGet 0 e.keep.monc 3 % 2 ^ 40 ∧
      tabGet [] e.life.roster (leAt u.input 3 1) = holdKey ∧ tabGet [] e.life.roster (leAt u.input 4 1) = holdKey ∧ leAt u.input 3 1 ≠ leAt u.input 4 1 ∧
      u.input.take 48 = holdBody ∧ slice u.input 48 64 = holdSig ∧ slice u.input 112 64 = holdSig := by decide +kernel

/-- A Towpath session with a region of K covering the word accessed, and a word that is sealed. -/
theorem wit_Towpath_covered :
    let d : Dev := { life := { state := 1, ir := 0x20 }, regs := [(mpuAddr 2 0 0, 0), (mpuAddr 2 0 1, 0xF0), (mpuAddr 2 0 2, 0x401)] }
    sealedWord d false 0 = true ∧ sealedWord d false 0x170000000 = true ∧ sealedWord {} false 0 = false := by decide +kernel

/-! ### Ill-formed commands are refused: one for each check of WellFormed -/

def hx : DescHdr := { intr := false, barrier := false, rqMode := 0, rqK := 0, opTag := 0 }

theorem test_illFormed_checks :
    [ Instr.claim 0x18, .fineTimerRead 0x18 0, .registerWrite 1 3 0 0, .registerWrite 1 0 (2 ^ 24) 0, .chamberFieldWrite 1 (2 ^ 24) 0, .registerWrite 1 0 0 (2 ^ 36), .registerWrite 0x40 0 0 (2 ^ 64), .ringDisable 1024,
      .chamberClaim 0 { hx with rqMode := 4 }, .chamberClaim 0 { hx with rqK := 16 }, .chamberClaim 0 { hx with opTag := 2 ^ 32 }, .descriptorFetch 0 [[]],
      .descriptorFetch 0 (List.replicate 17 (List.replicate 64 0)), .submissionDoorbell 64 0 0 0 0, .functionLevelReset 64, .keyExhaustion 16384,
      .fwqDoorbell 9 0 0, .frameTransmit 8 false, .hardwareDraw 0x10, .repetitionCountFailure 16 0, .startupTestComplete [(4, zeros 512)], .stageAdvance 0 3 false, .uncontrolledTx 4 0, .pnWarn 4096, .yieldPointSave 16, .windowComplete 4 (zeros 128), .windowComplete 0 [], .generatorReseed 2,
      .sweepStart 16, .lingerExpiry 256, .flightReady 16, .request 1 0 2, .settleEnd 32, .tagReadBlock 128, .tagReadCounter 16, .challengeReceive [],
      .mbxAck 1 64 0, .tamperEvent 39, .flashOpComplete 8 false false none, .flashOpComplete 0 true false (some ⟨7, 0, 0, 1⟩), .sdBusyTimeout 2, .recordWrite 2 0, .cardIdentification 0 { rca := 2 ^ 16 },
      .kBoot [1] [], .kBoot [] [2], .bypass 0x20, .crgStage 1 3 none, .imageLoadComplete 16 none, .append 1 0 (some ⟨0, 3, 0, 1⟩),
      .activate 1 0 2, .activateA 0 [⟨2, [], none⟩], .activateB 32 [], .activateA 0 [⟨0, [], some 40⟩], .exchange 0 2 [], .tagSessionStart 0 9, .tagSessionEnd 3, .bargeReceive false 4 [],
      .bargeReceive true 0 [256], .bargeReceive true 0 (List.replicate 17 0), .wtxRequestReceived 0 256, .sampleRecord 1 { pc := 0, op := 256, pl := 0 },
      .pcieLinkUp 3 1, .pcieLinkUp 16 6, .pcieConfigurationWrite (.maxPayload 0 8), .pcieConfigurationWrite (.numVfs (2 ^ 16)), .officerCardAnswer 2 [] [],
      .pmuCounterOverflow 1 11, .bandwidthWindowClose [], .resetSourceAssert 17 0, .resetReleaseStep 0, .resetReleaseStep 12, .brownOut 4 false,
      .officerCardTimeout 2, .mailboxSendArrival 0 (List.replicate 17 0), .cipherOpComplete 0 (some ⟨7, 0, 0, 1⟩) ].all (fun i => !wellFormed i) = true := by decide

theorem test_illFormed_instructions :
    [ Instr.ret { core := 2 }, .ret { core := 1, fetch := some ⟨8, 0, 1⟩ }, .ret { core := 1, data := some (0, ⟨0, 3, 1⟩) }, .ret { core := 1, vec := { vector := some ⟨0, 0, 256⟩ } }, .interruptEntry 1 { frame := some (4, ⟨0, 0, 1⟩) }, .ret { core := 1, window := some (2 ^ 32) },
      .add kx 32 0 0, .addi kx 0 0 (2 ^ 18), .shli kx 0 0 36, .extu kx 0 0 0 0, .ins kx 0 0 30 7, .mulp kx 3 0 0, .ldp kx 0 0 0, .bcc kx 15 0, .jmp kx (2 ^ 28),
      .bmove kx 1 1 2 1, .bfill kx 1 2 3 0, .trap kx (2 ^ 18), .fence kx 2, .feat kx 0 8, .mfsr kx 0 14, .mtsr kx 18 0 ].all (fun i => !wellFormed i) = true := by decide

theorem test_wellFormed :
    [ Instr.claim 1, .chamberClaim 1023 hx, .descriptorFetch 0 [List.replicate 64 0], .add kx 31 0 31, .mulp kx 2 0 0, .mfsr kx 0 17, .resetReleaseStep 11,
      .cipherOpComplete 0 (some ⟨6, 2, 0, 1⟩), .activateA 31 [⟨0, [], some 39⟩], .pcieLinkUp 16 5, .sampleRecord 1 { pc := 0, op := 255, pl := 2 }, .hardwareDraw 0x9F,
      .flashOpComplete 7 true false (some ⟨6, 2, 0, 1⟩), .kBoot [0, 3, 4, 5] [0, 1], .bypass 0x30, .cardIdentification 1 {}, .firmwareBlock, .replayInput ].all wellFormed = true := by decide

/-! ### Worked examples of the spec -/

/-- Chapter 13, the call on an exhausted stack: H5 at P2, with the values of the example but its PC, which the memory map does not hold. -/
def h5 (slb : Word) : State :=
  { dev := { cores := [(0x15, { run := true, pc := 0x010000410, sw := 0x42, vbase := 0x010080000, sp := [(0, 0x010030000), (1, 0x010040002), (2, 0x01002C000)],
                                sl := [(1, 0x010040000)], bwbase := 0x0100A0000, bwFixed := true, spb := 0x0100B0000, slb := slb })],
             regs := [(0x071501, 0xFFFFFFFF0), (0x071502, 0x3FF)], mem := [(0x010080023, 0x010090101)], pas := { count := 6000000 } } }

/-- The device after a command. -/
def after (o : Out) : Option Dev := match o with | .next t => some t.dev | _ => none

/-- Table 13.8 and the sentence after it. -/
theorem test_trap_exhausted_stack :
    (after (execTrap { core := 0x15 } 3 (h5 0x0100AF000))).map (fun d =>
      ([memRd d 0x0100AFFFF, memRd d 0x0100AFFFE, memRd d 0x0100AFFFD, memRd d 0x0100AFFFC, (coreGet d 0x15).spb, (coreGet d 0x15).sw], (coreGet d 0x15).pc,
        tabGet 0 (coreGet d 0x15).sp 1)) =
      some ([0x010000411, 0x42, 0x01064A3, 0x01003FFFF, 0x0100AFFFC, 0x44], 0x0100A0000, 0x010040002) := by decide +kernel

/-- Table 13.9: with SLB two words below SPB the core stops, for reason 1. -/
theorem test_trap_stops :
    (after (execTrap { core := 0x15 } 3 (h5 0x0100AFFFE))).map (fun d => ((coreGet d 0x15).stopped, memRd d 0x0100AFFFF)) = some (1, 0) := by decide +kernel

/-- Chapter 12, Table 12.11: H2 at P1. -/
def h2 (a b : Word) : State :=
  { dev := { cores := [(0x12, { run := true, pc := 0x010000200, sw := 1, g := [(3, a), (4, b)], sp := [(1, 0x010030000)], sl := [(1, 0x01002F000)] })],
             regs := [(0x071201, 0xFFFFFFFF0), (0x071202, 0x3FF)] } }

theorem test_call_frame :
    (after (execCall { core := 0x12 } 0x40 (h2 0 0))).map (fun d => ((coreGet d 0x12).pc, [memRd d 0x01002FFFF, memRd d 0x01002FFFE, tabGet 0 (coreGet d 0x12).sp 1])) =
      some (0x010000240, [0x010000201, 1, 0x01002FFFE]) := by decide +kernel

/-- SUB of the example: its result, then the flags Z, N, C and V (SW bits 4 to 7). -/
theorem test_sub_flags :
    (after (execSub { core := 0x12 } 5 3 4 (h2 1000 250))).map (fun d => ((coreGet d 0x12).reg 5, [4, 5, 6, 7].map (bit (coreGet d 0x12).sw))) =
        some (750, [false, false, true, false]) ∧
      (after (execSub { core := 0x12 } 5 3 4 (h2 (0 - 34359738000) 1000))).map (fun d => ((coreGet d 0x12).reg 5, [5, 7].map (bit (coreGet d 0x12).sw))) =
        some (34359737736, [false, true]) := by decide +kernel

/-- Dense and quad packing of the octets 0x11 to 0x99 (chapter 0). -/
theorem test_packing :
    packOct true [0x11, 0x22, 0x33, 0x44, 0x55, 0x66, 0x77, 0x88, 0x99] = [0x544332211, 0x998877665] ∧
      (packOct false [0x11, 0x22, 0x33, 0x44, 0x55, 0x66, 0x77, 0x88]) = [0x044332211, 0x088776655] := by decide

/-! ### The queue and the word interface -/

/-- A command at the front of the queue, and an empty queue. -/
theorem wit_StepRunsFrontCommand :
    ({ State.reset with pending := [.claim 1, .passEdge] } : State).pending = [.claim 1, .passEdge] ∧ State.reset.pending = [] := by decide

theorem test_reset_lists_nothing : State.reset.dev.mem = [] ∧ State.reset.dev.fmem = [] ∧ State.reset.dev.host = [] := by decide

/-- A state with memory listed, a command waiting and the invariant. -/
theorem wit_StepsKeepInvariant :
    let s : State := { (kst (kcore 1 2 3) [(0x020000000, 5)]) with pending := [.add kx 1 2 3] }
    s.memWf ∧ fusesLegal s.dev = true ∧ (after (step s)).isSome = true := by decide +kernel

end Sys2Proof.Tests
end

/-! The proof of O21: what a write to a plain register word does, through the register bus, through a function's BAR0 and through the
Towpath's port (R5, R6, R7, R21, R62, R394). -/

namespace Sys2Proof.Machine

/-! ### Identities -/

theorem isFn_add {f : Nat} (h : f < 64) : isFn (0x40 + f) = true := by simp [isFn]; omega

theorem isMaster_of_isFn {m : Nat} (h : isFn m = true) : isMaster m = true := by
  have hm : 0x40 ≤ m ∧ m ≤ 0x7F := by simpa [isFn] using h
  simp [isMaster, hm, show 0x30 ≤ m by omega]

theorem isFieldMaster_cases {m : Nat} (h : isFieldMaster m = true) : (0x20 ≤ m ∧ m ≤ 0x23) ∨ m = 0xC1 := by
  simpa [isFieldMaster, isF] using h

theorem isMaster_of_isFieldMaster {m : Nat} (h : isFieldMaster m = true) : isMaster m = true := by
  rcases isFieldMaster_cases h with hm | rfl
  · simp [isMaster, isCore, isF, hm]
  · rfl

theorem isFn_of_isFieldMaster {m : Nat} (h : isFieldMaster m = true) : isFn m = false := by
  have := isFieldMaster_cases h
  simp [isFn]; omega

theorem isFieldMaster_of_isFn {m : Nat} (h : isFn m = true) : isFieldMaster m = false :=
  Bool.eq_false_iff.2 fun hf => by simp [isFn_of_isFieldMaster hf] at h

/-! ### The command and its way to the bus -/

theorem exec_registerWrite (m pl a v : Nat) (s : State) :
    exec (.registerWrite m pl a v) s = .next { s with dev := regWriteTop (latchOf s m) m pl a v s.dev } := rfl

/-- R7: bits 63:36 of a slot are ignored. -/
theorem wd_mod (v : Nat) : wd (v % 2 ^ 36) = wd v := by
  apply BitVec.eq_of_toNat_eq; simp [wd]

theorem wd_zero : wd 0 = 0#36 := rfl

theorem regWriteTop_of_ne_port {m : Nat} (h : m ≠ 2) (dl : Dev) (pl a v : Nat) (d : Dev) :
    regWriteTop dl m pl a v d = registerWrite m pl a v d := by
  simp [regWriteTop, byPort, h]

theorem regWriteTop_of_not_selected {d : Dev} (h : portSelected d = false) (dl : Dev) (pl a v : Nat) : regWriteTop dl 2 pl a v d = d := by
  simp [regWriteTop, byPort, towpathWord, dbgDataAccess, dbgCoreWrite, h]

/-- A word that is not one of the port's own is written over the bus, by the Towpath too where its port lets it. -/
theorem regWriteTop_of_portLets {m a : Nat} {d : Dev} (ha : a < 2 ^ 24) (hp : PortLets 1 m a d)
    (hown : ¬ (a = Reg.DBG_ADDR ∨ a = Reg.DBG_DATA ∨ a = Reg.DBG_CORE)) (dl : Dev) (pl v : Nat) :
    regWriteTop dl m pl a v d = registerWrite m pl a v d := by
  by_cases hm : m = 2
  · obtain ⟨hsel, hscope, href⟩ := hp hm
    obtain ⟨h1, h2, h3⟩ : a ≠ Reg.DBG_ADDR ∧ a ≠ Reg.DBG_DATA ∧ a ≠ Reg.DBG_CORE := by simpa only [not_or] using hown
    simp only [regWriteTop, Nat.mod_eq_of_lt ha, h1, h2, h3, and_false, if_false, byPort, if_pos hm, towpathWord, hsel, hscope, href, not_true_eq_false]
  · exact regWriteTop_of_ne_port hm ..

theorem registerWrite_of_isFn {m : Nat} (h : isFn m = true) (pl off v : Nat) (d : Dev) :
    registerWrite m pl off v d = barWrite (m - 0x40) off v d := by
  simp [registerWrite, h]

theorem registerWrite_of_isMaster {m a : Nat} (h : isMaster m = true) (hf : isFn m = false) (ha : a < 2 ^ 24) (pl v : Nat) (d : Dev) :
    registerWrite m pl a v d = busWrite m pl a (wd v) d := by
  simp only [registerWrite, hf, Bool.false_eq_true, if_false, fromMaster, h, if_true, Nat.mod_eq_of_lt ha, wd_mod]

/-- Register space is segment 5 of Table 14.10. -/
theorem wccSegment_register {a : Nat} (ha : a < 2 ^ 24) : wccSegment false (0xF00000000 + a) = 5 := by
  have hreg : inRegSpace (0xF00000000 + a) = true := by simp [inRegSpace, inRange]; omega
  have hflash : inRange (0xF00000000 + a) 0x020000000 0x02003FFFF = false := by simp [inRange]; omega
  have hdram : inRange (0xF00000000 + a) 0x100000000 0x17FFFFFFF = false := by simp [inRange]; omega
  simp [wccSegment, hreg, hflash, hdram]

/-- R21: a reserved identity's write only fails its check. -/
theorem registerWrite_of_reserved {m a : Nat} (h : isMaster m = false) (ha : a < 2 ^ 24) (pl v : Nat) (d : Dev) :
    registerWrite m pl a v d = wccFail 5 m (0xF00000000 + a) 0 d := by
  have hf : isFn m = false := Bool.eq_false_iff.2 fun hf => by simp [isMaster_of_isFn hf] at h
  simp only [registerWrite, hf, fromMaster, h, Bool.false_eq_true, if_false, Nat.mod_eq_of_lt ha, wccSegment_register ha]

/-! ### BAR0 (Table 3.2) -/

/-- A word a function sees through its BAR0 is one of the WHF block. -/
theorem whf_of_barWord {d : Dev} {f off a : Nat} (h : barWord d f off = some a) : a >>> 16 = 0x0A := by
  simp only [barWord] at h
  rw [Nat.shiftRight_eq_div_pow]
  split_ifs at h <;> obtain rfl := Option.some.inj h <;> omega

theorem barWrite_of_word {d : Dev} {f off a : Nat} (h : barWord d f off = some a) (v : Nat) :
    barWrite f off v d = busWrite (0x40 + f) 0 a (wd v) d := by
  simp only [barWrite, h, wd_mod]

theorem barWrite_elsewhere {d : Dev} {f off : Nat} (h : barWord d f off = none) (hp : off < barPages f ∨ barPages f + 0x10000 ≤ off) (v : Nat) :
    barWrite f off v d = d := by
  have : ¬ (barPages f ≤ off ∧ off < barPages f + 0x10000) := by omega
  simp [barWrite, h, this]

/-! ### The write of a plain word (R5, R6) -/

/-- A word of the host island's blocks with fields RW, W1C, RO and reserved alone, outside the groups that have writes of their own: the regions of the
MPU, the Lockgate's rings, the PMU, the field island's blocks, and the rings of WHF. -/
structure PlainWord (r : RegRow) (a : Nat) : Prop where
  row : regRow a = some r
  notChamber : r.chm = 0
  shared : r.pm = false
  oneCopy : r.isl ≠ 2
  block : a >>> 16 ∉ [0x07, 0x09, 0x18, 0x20, 0x21, 0x22, 0x23, 0x24]
  notRing : a >>> 16 = 0x0A → a % 65536 < 0x2000

/-- The device e is d with word a written by w: RW fields taken, W1C bits written 1 cleared. -/
def PlainWritten (r : RegRow) (a : Nat) (w : Word) (d e : Dev) : Prop :=
  e = { d with regs := e.regs } ∧
  ∀ b, rg e b = if b = a then ((rg d a &&& ~~~(wd r.rw)) ||| (w &&& wd r.rw)) &&& ~~~(w &&& wd r.w1c) else rg d b

/-- A step of a plain write, skipped where its mask is empty, as it would leave the word as it is. -/
theorem rg_ite_rgSet {p : Prop} [Decidable p] {d : Dev} {a : Nat} {v : Word} (hp : p → v = rg d a) (b : Nat) :
    rg (if p then d else rgSet d a v) b = if b = a then v else rg d b := by
  split
  next h => split <;> simp_all
  next => exact rg_rgSet ..

theorem rwStep_of_no_rw {r : RegRow} (h : r.rw = 0) (x w : Word) : (x &&& ~~~(wd r.rw)) ||| (w &&& wd r.rw) = x := by
  rw [h, wd_zero, BitVec.not_zero, BitVec.and_allOnes, BitVec.and_zero, BitVec.or_zero]

theorem w1cStep_of_no_w1c {r : RegRow} (h : r.w1c = 0) (x w : Word) : x &&& ~~~(w &&& wd r.w1c) = x := by
  rw [h, wd_zero, BitVec.and_zero, BitVec.not_zero, BitVec.and_allOnes]

theorem plainWritten_plainWrite {r : RegRow} (hpm : r.pm = false) (hisl : r.isl ≠ 2) (m a : Nat) (w : Word) (d : Dev) :
    PlainWritten r a w d (plainWrite r m a w d) := by
  simp only [plainWrite, hpm, Bool.false_eq_true, if_false, if_neg hisl]
  have hrw := rg_ite_rgSet (d := d) (a := a) (fun h => rwStep_of_no_rw (r := r) h (rg d a) w)
  refine ⟨by split_ifs <;> rfl, fun b => ?_⟩
  rw [rg_ite_rgSet (fun h => w1cStep_of_no_w1c h _ w), hrw a, if_pos rfl]
  split
  next => rfl
  next hb => rw [hrw b, if_neg hb]

/-- The bus writes a plain word by its access types alone. -/
theorem busWrite_plain {r : RegRow} {m pl a : Nat} {w : Word} {d : Dev} (h : PlainWord r a) (hm : isFieldMaster m = false)
    (hctl : hostCtlWrite m pl a w d = none) : busWrite m pl a w d = plainWrite r m a w d := by
  obtain ⟨hmpu, hlkg, hpmu, hf0, hf1, hf2, hf3, hf4⟩ : a >>> 16 ≠ 0x07 ∧ a >>> 16 ≠ 0x09 ∧ a >>> 16 ≠ 0x18 ∧ a >>> 16 ≠ 0x20 ∧ a >>> 16 ≠ 0x21 ∧
      a >>> 16 ≠ 0x22 ∧ a >>> 16 ≠ 0x23 ∧ a >>> 16 ≠ 0x24 := by simpa using h.block
  have hring : ¬ (a >>> 16 = 0x0A ∧ 0x2000 ≤ a % 65536) := fun ⟨hb, ho⟩ => absurd (h.notRing hb) (by omega)
  have hfield : ¬ (0x20 ≤ a >>> 16 ∧ a >>> 16 ≤ 0x24) := by omega
  simp only [busWrite, hm, Bool.false_eq_true, false_and, if_false, if_neg hmpu, hpmu, if_neg hring, h.row, h.notChamber, ne_eq, not_true_eq_false,
    if_neg hfield, if_neg hlkg, hctl]

theorem busWrite_plainWritten {r : RegRow} {m pl a : Nat} {w : Word} {d : Dev} (h : PlainWord r a) (hm : isFieldMaster m = false)
    (hctl : hostCtlWrite m pl a w d = none) : PlainWritten r a w d (busWrite m pl a w d) := by
  rw [busWrite_plain h hm hctl]
  exact plainWritten_plainWrite h.shared h.oneCopy ..

theorem busWrite_absent_field {m a : Nat} (hm : isFieldMaster m = true) (h : fieldHasWord a = false) (pl : Nat) (w : Word) (d : Dev) :
    busWrite m pl a w d = d := by
  simp [busWrite, hm, h]

/-- The words of the Towpath's port have a write of their own, so no plain word is one of them. -/
theorem not_portWord_of_hostCtlWrite {m pl a : Nat} {w : Word} {d : Dev} (h : hostCtlWrite m pl a w d = none) :
    ¬ (a = Reg.DBG_ADDR ∨ a = Reg.DBG_DATA ∨ a = Reg.DBG_CORE) := by
  rintro (rfl | rfl | rfl) <;> simp +decide [hostCtlWrite] at h

/-! ### REGISTER_WRITE of a plain word -/

theorem regWriteTop_plainWritten {r : RegRow} {m pl a v : Nat} {d : Dev} (h : PlainWord r a) (ha : a < 2 ^ 24) (hm : isMaster m = true)
    (hfn : isFn m = false) (hf : isFieldMaster m = false) (hp : PortLets 1 m a d) (hctl : hostCtlWrite m pl a (wd v) d = none) (dl : Dev) :
    PlainWritten r a (wd v) d (regWriteTop dl m pl a v d) := by
  rw [regWriteTop_of_portLets ha hp (not_portWord_of_hostCtlWrite hctl), registerWrite_of_isMaster hm hfn ha]
  exact busWrite_plainWritten h hf hctl

/-- REGISTER_WRITE by a function is a write of its BAR0. -/
theorem regWriteTop_of_fn {f : Nat} (hf : f < 64) (dl : Dev) (pl off v : Nat) (d : Dev) :
    regWriteTop dl (0x40 + f) pl off v d = barWrite f off v d := by
  rw [regWriteTop_of_ne_port (by omega), registerWrite_of_isFn (isFn_add hf), Nat.add_sub_cancel_left]

theorem regWriteTop_fn_plainWritten {r : RegRow} {f pl off a v : Nat} {d : Dev} (h : PlainWord r a) (hf : f < 64) (hw : barWord d f off = some a)
    (hctl : hostCtlWrite (0x40 + f) 0 a (wd v) d = none) (dl : Dev) : PlainWritten r a (wd v) d (regWriteTop dl (0x40 + f) pl off v d) := by
  rw [regWriteTop_of_fn hf, barWrite_of_word hw]
  exact busWrite_plainWritten h (isFieldMaster_of_isFn (isFn_add hf)) hctl

theorem regWriteTop_of_reserved {m a : Nat} (h : isMaster m = false) (ha : a < 2 ^ 24) (dl : Dev) (pl v : Nat) (d : Dev) :
    regWriteTop dl m pl a v d = wccFail 5 m (0xF00000000 + a) 0 d := by
  have hm : m ≠ 2 := by rintro rfl; simp [isMaster] at h
  rw [regWriteTop_of_ne_port hm, registerWrite_of_reserved h ha]

theorem regWriteTop_absent_field {m a : Nat} (h : isFieldMaster m = true) (ha : a < 2 ^ 24) (hw : fieldHasWord a = false) (dl : Dev) (pl v : Nat)
    (d : Dev) : regWriteTop dl m pl a v d = d := by
  have hm : m ≠ 2 := by have := isFieldMaster_cases h; omega
  rw [regWriteTop_of_ne_port hm, registerWrite_of_isMaster (isMaster_of_isFieldMaster h) (isFn_of_isFieldMaster h) ha, busWrite_absent_field h hw]

/-- A register write that leaves a plain word written answers the state with that device. -/
theorem exec_registerWrite_plain {r : RegRow} {m pl b v a : Nat} {w : Word} {s : State}
    (h : PlainWritten r a w s.dev (regWriteTop (latchOf s m) m pl b v s.dev)) :
    ∃ t, exec (.registerWrite m pl b v) s = .next t ∧ t = { s with dev := { s.dev with regs := t.dev.regs } } ∧
      ∀ b, rg t.dev b = if b = a then ((rg s.dev a &&& ~~~(wd r.rw)) ||| (w &&& wd r.rw)) &&& ~~~(w &&& wd r.w1c) else rg s.dev b :=
  ⟨_, exec_registerWrite .., congrArg (fun d => { s with dev := d }) h.1, h.2⟩

/-- Settles O21: each way of a write leads to `busWrite`, whose plain branch is `plainWrite`; the other clauses stop before it. -/
theorem plainRegisterWrite : Obligations.PlainRegisterWrite := by
  intro s m pl a v
  refine ⟨fun r ha hrow hchm hpm hisl hblk hring => ?_, fun f off hf hw hp => ?_, fun hm ha => ?_, fun hm ha hw => ?_, fun hsel => ?_⟩
  · have h : PlainWord r a := ⟨hrow, hchm, hpm, hisl, hblk, hring⟩
    exact ⟨fun hm hfn hf hp hctl => exec_registerWrite_plain (regWriteTop_plainWritten h ha hm hfn hf hp hctl _),
      fun f off hf hw hctl => exec_registerWrite_plain (regWriteTop_fn_plainWritten h hf hw hctl _)⟩
  · rw [exec_registerWrite, regWriteTop_of_fn hf, barWrite_elsewhere hw hp]
  · rw [exec_registerWrite, regWriteTop_of_reserved hm ha]
  · rw [exec_registerWrite, regWriteTop_absent_field hm ha hw]
  · rw [exec_registerWrite, regWriteTop_of_not_selected hsel]

end Sys2Proof.Machine

/-! The queue of commands (O18), and the reads of the pass count and of the fine timer (O22): R31, R45, log entry 3. -/

namespace Sys2Proof.Machine
/-- Settles O18: each clause is the branch of `step` for its form of the queue. -/
theorem stepRunsFrontCommand : Obligations.StepRunsFrontCommand :=
  ⟨fun s c rest h => by simp only [step, h], fun s h => by simp only [step, h]⟩

/-! ### Reads of the pass count and of the fine timer (R31, R45) -/

@[simp] theorem toNat_wd (n : Nat) : (wd n).toNat = n % 2 ^ 36 := BitVec.toNat_ofNat ..

/-- An access that the Towpath's port lets through, or that needs no port, acts. -/
theorem byPort_of_portLets {right m a : Nat} {d : Dev} (h : PortLets right m a d) (act : Dev → Dev) : byPort right m a act d = act d := by
  by_cases hm : m = 2
  · obtain ⟨hsel, hscope, href⟩ := h hm
    simp only [byPort, if_pos hm, towpathWord, hsel, hscope, href, not_true_eq_false, if_false]
  · simp only [byPort, if_neg hm]

/-- The Towpath's access through a port that is not selected does nothing. -/
theorem byPort_of_not_selected {d : Dev} (h : portSelected d = false) (right a : Nat) (act : Dev → Dev) : byPort right 2 a act d = d := by
  simp [byPort, towpathWord, h]

theorem fromMaster_of_isMaster {m : Nat} (h : isMaster m = true) (a : Nat) (f : Dev → Dev) (d : Dev) : fromMaster m a f d = f d := by
  simp only [fromMaster, h, if_true]

/-- A word with nothing live, that no command returns and that is no part of what a master alone changes, reads as latched at the edge (R45). -/
theorem regPeek_latched {m a : Nat} (hres : resultBlock a = none) (hown : readsLive m a = false) (hlive : liveMask a = 0) (hwo : woMask a = 0)
    (dl d : Dev) : regPeek dl d m a = regWord { dl with priv := d.priv } m a := by
  simp only [regPeek, hres, hown, hlive, hwo, Bool.false_eq_true, if_false, wd_zero, BitVec.and_zero, BitVec.not_zero, BitVec.and_allOnes, BitVec.zero_or]

theorem readsLive_pasCount (m : Nat) : readsLive m Reg.PAS_COUNT_LO = false ∧ readsLive m Reg.PAS_COUNT_HI = false := by
  constructor <;> simp +decide [readsLive]

theorem regPeek_pasCountLo (dl d : Dev) (m : Nat) : regPeek dl d m Reg.PAS_COUNT_LO = loWord dl.pas.count := by
  rw [regPeek_latched (by decide) (readsLive_pasCount m).1 (by decide) (by decide)]
  simp +decide [regWord, blockWord, pasBlockWord, idWord, resultBlock]

theorem regPeek_pasCountHi (dl d : Dev) (m : Nat) : regPeek dl d m Reg.PAS_COUNT_HI = hiWord dl.pas.count := by
  rw [regPeek_latched (by decide) (readsLive_pasCount m).2 (by decide) (by decide)]
  simp +decide [regWord, blockWord, pasBlockWord, resultBlock]

/-- R31: a read of PAS_COUNT_LO with no high word held gives the latched low word and holds the latched high word. -/
theorem regRead_pasCountLo {m : Nat} {d : Dev} (h : tabFind d.pas.shadow (shadowKey m Reg.PAS_COUNT_LO) = none) (dl : Dev) (pl : Nat) :
    regRead dl m pl Reg.PAS_COUNT_LO d = (loWord dl.pas.count,
      { d with pas := { d.pas with shadow := tabPut d.pas.shadow (shadowKey m Reg.PAS_COUNT_HI) (hiWord dl.pas.count).toNat } }) := by
  have hpmu : pmuWord Reg.PAS_COUNT_LO = none := by decide
  have hhi : hiOf Reg.PAS_COUNT_LO = some Reg.PAS_COUNT_HI := by decide
  simp [regRead, hpmu, pairRead, h, hhi, regPeek_pasCountLo, regPeek_pasCountHi]

theorem latchedLoTop_pasCountLo {m : Nat} {d : Dev} (hm : isMaster m = true) (hf : isFn m = false) (hp : PortLets 0 m Reg.PAS_COUNT_LO d)
    (h : tabFind d.pas.shadow (shadowKey m Reg.PAS_COUNT_LO) = none) (dl : Dev) :
    latchedLoTop dl m Reg.PAS_COUNT_LO d = rdSet
      { d with pas := { d.pas with shadow := tabPut d.pas.shadow (shadowKey m Reg.PAS_COUNT_HI) (hiWord dl.pas.count).toNat } } m
      (loWord dl.pas.count) := by
  have hhi : (hiOf Reg.PAS_COUNT_LO).isSome = true := by decide
  simp only [latchedLoTop, byPort_of_portLets hp, latchedLoRead, hf, Bool.false_eq_true, if_false, hhi, if_true, fromMaster_of_isMaster hm,
    regRead_pasCountLo h]

/-- R45, Table 19.1: a core's read of a register word, out of replay, is the read of the bus, and an item of a recorded core's section. -/
theorem coreRegRead_of_not_replayed {m a : Nat} {d : Dev} (h : replayed d m = false) (ha : a < 2 ^ 24) (dl : Dev) :
    coreRegRead dl m a d =
      rdSet (rplItem m 2 [0xF00000000 + a, (regRead dl m 0 a d).1.toNat] (regRead dl m 0 a d).2) m (regRead dl m 0 a d).1 := by
  have hw : inHostWindow (0xF00000000 + a) = false := by simp [inHostWindow, inRange]; omega
  have ha' : (0xF00000000 + a) % 2 ^ 24 = a := by omega
  simp only [coreRegRead, deviceLoad, h, hw, Bool.false_eq_true, if_false, ha']

theorem rplItem_frame (m kind : Nat) (ws : List Nat) (d : Dev) : rplItem m kind ws d = { d with rpl := (rplItem m kind ws d).rpl } := by
  unfold rplItem; split <;> rfl

/-- A core's read of PAS_CYCLE: a cycle below 5,000, recorded with kind 2. -/
theorem regRead_pasCycle {m : Nat} (h : isCore m = true) (dl : Dev) (pl : Nat) (d : Dev) :
    regRead dl m pl Reg.PAS_CYCLE d = (wd ((drawWord d).1.toNat % 5000), recordRead (drawWord d).2 m 2 ((drawWord d).1.toNat % 5000)) := by
  have hlt : (drawWord d).1.toNat % 5000 % 2 ^ 36 = (drawWord d).1.toNat % 5000 := Nat.mod_eq_of_lt (by omega)
  simp only [regRead, if_true, noteRead, h, regRead.drawCycle, toNat_wd, hlt]

theorem fineTimerRead_pasCycle {m : Nat} {d : Dev} (hm : isCore m = true) (hr : replayed d m = false) (dl : Dev) :
    let v := (drawWord d).1.toNat % 5000
    fineTimerRead dl m Reg.PAS_CYCLE d = rdSet (rplItem m 2 [0xF00000000 + Reg.PAS_CYCLE, v] (recordRead (drawWord d).2 m 2 v)) m (wd v) := by
  have hlt : (drawWord d).1.toNat % 5000 % 2 ^ 36 = (drawWord d).1.toNat % 5000 := Nat.mod_eq_of_lt (by omega)
  simp only [fineTimerRead, hm, true_or, and_self, if_true, coreRegRead_of_not_replayed (a := Reg.PAS_CYCLE) hr (by decide), regRead_pasCycle hm,
    toNat_wd, hlt]

/-- A command whose meaning is an update of the device answers the state with the device updated. -/
theorem exec_eq_next {c : Instr} {s : State} {f : Dev → Dev} {e : Dev} (hc : exec c s = onDev f s) (he : f s.dev = e) :
    exec c s = .next { s with dev := e } := by
  rw [hc, onDev_eq, he]

/-- Settles O22: the read of the count is a pair read of two latched words; that of the timer draws a cycle and records it. -/
theorem latchedAndRecordedReads : Obligations.LatchedAndRecordedReads := by
  refine ⟨fun s m hm hf hp hs => ⟨_, exec_eq_next rfl (latchedLoTop_pasCountLo hm hf hp hs _), ?_, ?_, rfl⟩,
    fun s h => exec_eq_next rfl (byPort_of_not_selected h ..), fun s m hm hr =>
    ⟨_, (drawWord s.dev).1.toNat % 5000, exec_eq_next rfl (fineTimerRead_pasCycle hm hr _), Nat.mod_lt _ (by decide), ?_, ?_, ?_, ?_⟩⟩
  · rw [rdata_rdSet, if_pos rfl]; rfl
  · simp only [rdSet_pas, tabFind_tabPut, shadowKey, if_true, hiWord, toNat_wd]
  · rw [rdata_rdSet, if_pos rfl]; rfl
  · rw [rdSet_pas, rplItem_frame]; rfl
  · rw [rdSet_regs, rplItem_frame]; rfl
  · rw [rdSet_mem, rplItem_frame]; rfl

end Sys2Proof.Machine

/-! The chamber: its commands (O23) and the writes of its fields (O24): R47, R48, R53, R62, Table 2.5. -/

namespace Sys2Proof.Machine

/-! ### The chamber's updates (R48, R53) -/

theorem pushDiscard_frame (d : Dev) : pushDiscard d = { d with lkg := (pushDiscard d).lkg } := by
  unfold pushDiscard; split <;> rfl

theorem authSpent_frame (d : Dev) : authSpent d = { d with life := (authSpent d).life } := by
  unfold authSpent; split
  · extract_lets t; split <;> rfl
  · rfl

/-- The chamber's record back in FILLING, with the error given. -/
def Chamber.refilled (c : Chamber) : Option (Nat × Nat × Option Nat) → Chamber
  | some (code, rule, e) =>
    { c with state := .filling, approvals := [], pushed := false, acked := false, errCode := code, errRule := rule, errEntry := e }
  | none => { c with state := .filling, approvals := [], pushed := false, acked := false }

/-- The return to FILLING touches the chamber, the sequence number and the Lockgate's queues. -/
theorem chmRefill_eq (d : Dev) (err : Option (Nat × Nat × Option Nat)) :
    chmRefill d err = moncInc { d with lkg := (pushDiscard d).lkg, chm := d.chm.refilled err } 0 := by
  unfold chmRefill
  rw [pushDiscard_frame]
  rcases err with _ | ⟨code, rule, e⟩ <;> rfl

theorem chmEmpty_eq (d : Dev) :
    chmEmpty d = moncInc { d with
      lkg := (pushDiscard d).lkg, life := (authSpent (pushDiscard d)).life
      chm := { errCode := d.chm.errCode, errRule := d.chm.errRule, errEntry := d.chm.errEntry, waiting := d.chm.waiting,
               digest := d.chm.digest } } 0 := by
  unfold chmEmpty
  rw [authSpent_frame, pushDiscard_frame]

@[simp] theorem chmSeq_moncInc (d : Dev) : chmSeq (moncInc d 0) = min (2 ^ 48 - 1) (chmSeq d + 1) := by
  simp [chmSeq, moncInc]

@[simp] theorem chmSeq_chmRefill (d : Dev) (err : Option (Nat × Nat × Option Nat)) : chmSeq (chmRefill d err) = min (2 ^ 48 - 1) (chmSeq d + 1) := by
  rw [chmRefill_eq, chmSeq_moncInc]; rfl

@[simp] theorem chmSeq_chmEmpty (d : Dev) : chmSeq (chmEmpty d) = min (2 ^ 48 - 1) (chmSeq d + 1) := by
  rw [chmEmpty_eq, chmSeq_moncInc]; rfl

theorem chmRefill_some_chm (d : Dev) (code rule : Nat) (e : Option Nat) : (chmRefill d (some (code, rule, e))).chm =
    { d.chm with state := .filling, approvals := [], pushed := false, acked := false, errCode := code, errRule := rule, errEntry := e } := by
  rw [chmRefill_eq]; rfl

theorem chmRefill_none_chm (d : Dev) :
    (chmRefill d none).chm = { d.chm with state := .filling, approvals := [], pushed := false, acked := false } := by
  rw [chmRefill_eq]; rfl

@[simp] theorem chmRefill_regs (d : Dev) (err : Option (Nat × Nat × Option Nat)) : (chmRefill d err).regs = d.regs := by
  rw [chmRefill_eq]; rfl

theorem chmEmpty_chm (d : Dev) : (chmEmpty d).chm =
    { errCode := d.chm.errCode, errRule := d.chm.errRule, errEntry := d.chm.errEntry, waiting := d.chm.waiting, digest := d.chm.digest } := by
  rw [chmEmpty_eq]; rfl

/-! ### The chamber's commands (Table 2.5) -/

theorem approvalsOk_iff (d : Dev) : approvalsOk d = true ↔ chmProtected d = false ∨ d.chm.approvals.length = 2 := by
  simp [approvalsOk]

theorem chmCommand_claim (m t : Nat) (d : Dev) :
    (chmCommand 1 m t d).1 = if d.chm.state = .empty then
        { d with chm := { d.chm with state := .filling, owner := m, tooMany := false, errCode := 0, errRule := 0, errEntry := none } }
      else chmCmdErr d := by
  simp [chmCommand, apply_ite Prod.fst]

theorem chmCommand_level (m t : Nat) (d : Dev) :
    (chmCommand 2 m t d).1 = if d.chm.owner = m ∧ d.chm.state = .filling then
        { d with chm := { d.chm with state := .levelling, levelAt := d.pas.count, pushed := false, acked := false } }
      else chmCmdErr d := by
  simp [chmCommand, apply_ite Prod.fst]

theorem chmCommand_openNext (m t : Nat) (d : Dev) :
    (chmCommand 3 m t d).1 = if d.chm.owner = m ∧ d.chm.state = .levelled ∧ approvalsOk d = true then
        { d with chm := { d.chm with state := .scheduled, target := d.pas.count + 1 } }
      else chmCmdErr d := by
  simp [chmCommand, apply_ite Prod.fst]

theorem chmCommand_openAt (m t : Nat) (d : Dev) :
    (chmCommand 4 m t d).1 = if d.chm.owner = m ∧ d.chm.state = .levelled ∧ t ≤ d.pas.count then chmRefill d (some (7, 0, none))
      else if d.chm.owner = m ∧ d.chm.state = .levelled ∧ approvalsOk d = true then
        { d with chm := { d.chm with state := .scheduled, target := t } }
      else chmCmdErr d := by
  simp [chmCommand, apply_ite Prod.fst]

theorem chmCommand_unschedule (m t : Nat) (d : Dev) :
    (chmCommand 5 m t d).1 = if d.chm.owner = m ∧ d.chm.state = .scheduled then { d with chm := { d.chm with state := .levelled } }
      else chmCmdErr d := by
  simp [chmCommand, apply_ite Prod.fst]

theorem chmCommand_discard (m t : Nat) (d : Dev) :
    (chmCommand 6 m t d).1 = if (d.chm.owner = m ∨ m = 1) ∧ d.chm.state ≠ .empty then chmEmpty d else chmCmdErr d := by
  simp [chmCommand, apply_ite Prod.fst]

/-- A chamber command of a master that reaches CHM_CMD is carried out, with the pass that CHM_OPEN_AT names. -/
theorem chamberTop_of_reach {m : Nat} {d : Dev} (hm : isMaster m = true) (hf : isFn m = false) (hff : isFieldMaster m = false)
    (hp : PortLets 1 m Reg.CHM_CMD d) {action : Nat} (ha : action < 8) : chamberTop m action d = (chmCommand action m (chmOpenAt d) d).1 := by
  have hact : fld (wd action) 2 0 = action := by
    simp only [fld, nfld, toNat_wd, Nat.shiftRight_zero]; omega
  simp only [chamberTop, byPort_of_portLets hp, chamberCommand, hf, hff, Bool.false_eq_true, or_self, if_false, fromMaster_of_isMaster hm,
    chmCmdWrite, hact]

/-- Settles O23: a command that reaches CHM_CMD is `chmCommand`, of which each action has one branch that takes it. -/
theorem chamberCommands : Obligations.ChamberCommands := by
  intro s m hm hf hff hp d c out err target may seq
  have hrun {action : Nat} (ha : action < 8) := chamberTop_of_reach hm hf hff hp ha
  have hmay : approvalsOk d = true ↔ may := approvalsOk_iff d
  refine ⟨fun h => ?claim, fun h => ?noClaim, fun ho h => ?level, fun h => ?noLevel, fun ho h ha => ?openNext, fun h => ?noOpenNext,
    fun ho h ha ht => ?openAt, fun ho h ht => ?openPast, fun h => ?noOpenAt, fun ho h => ?unschedule, fun h => ?noUnschedule,
    fun ho h => ?discard, fun h => ?noDiscard⟩
  case claim => exact exec_eq_next rfl (by rw [hrun (by decide), chmCommand_claim, if_pos h])
  case noClaim => exact exec_eq_next rfl (by rw [hrun (by decide), chmCommand_claim, if_neg h]; rfl)
  case level => exact exec_eq_next rfl (by rw [hrun (by decide), chmCommand_level, if_pos ⟨ho, h⟩])
  case noLevel => exact exec_eq_next rfl (by rw [hrun (by decide), chmCommand_level, if_neg (by tauto)]; rfl)
  case openNext => exact exec_eq_next rfl (by rw [hrun (by decide), chmCommand_openNext, if_pos ⟨ho, h, hmay.2 ha⟩])
  case noOpenNext => exact exec_eq_next rfl (by rw [hrun (by decide), chmCommand_openNext, if_neg (by rw [hmay]; tauto)]; rfl)
  case openAt =>
    have hahead : ¬ (s.dev.chm.owner = m ∧ s.dev.chm.state = .levelled ∧ chmOpenAt s.dev ≤ s.dev.pas.count) :=
      fun ⟨_, _, hpast⟩ => Nat.not_le.2 ht hpast
    exact exec_eq_next rfl (by rw [hrun (by decide), chmCommand_openAt, if_neg hahead, if_pos ⟨ho, h, hmay.2 ha⟩]; rfl)
  case openPast =>
    have hrefill : chamberTop m 4 s.dev = chmRefill s.dev (some (7, 0, none)) := by
      rw [hrun (by decide), chmCommand_openAt, if_pos ⟨ho, h, ht⟩]
    have hchm := chmRefill_some_chm s.dev 7 0 none
    exact ⟨_, exec_eq_next rfl hrefill, by rw [hchm], by rw [hchm], by rw [hchm], by rw [hchm], chmSeq_chmRefill ..⟩
  case noOpenAt =>
    have hpast : ¬ (s.dev.chm.owner = m ∧ s.dev.chm.state = .levelled ∧ chmOpenAt s.dev ≤ s.dev.pas.count) := by
      rintro ⟨ho, hs, ht⟩
      rcases h with h | h | ⟨_, h⟩
      exacts [h ho, h hs, Nat.not_le.2 h ht]
    exact exec_eq_next rfl (by rw [hrun (by decide), chmCommand_openAt, if_neg hpast, if_neg (by rw [hmay]; tauto)]; rfl)
  case unschedule => exact exec_eq_next rfl (by rw [hrun (by decide), chmCommand_unschedule, if_pos ⟨ho, h⟩])
  case noUnschedule => exact exec_eq_next rfl (by rw [hrun (by decide), chmCommand_unschedule, if_neg (by tauto)]; rfl)
  case discard =>
    have hempty : chamberTop m 6 s.dev = chmEmpty s.dev := by rw [hrun (by decide), chmCommand_discard, if_pos ⟨ho, h⟩]
    have hchm := chmEmpty_chm s.dev
    exact ⟨_, exec_eq_next rfl hempty, by rw [hchm], by rw [hchm], chmSeq_chmEmpty _⟩
  case noDiscard => exact exec_eq_next rfl (by rw [hrun (by decide), chmCommand_discard, if_neg (by tauto)]; rfl)

/-! ### Writes of the chamber's fields (R47, R62) -/

/-- A word that a chamber may hold: one with CH or PS fields, or a region word of a master that has regions. -/
def ChamberWord (a : Nat) : Prop :=
  mpuWord a = none ∧ (∃ r, regRow a = some r ∧ r.chm ≠ 0) ∨ ∃ g r k, mpuWord a = some (g, r, k) ∧ regionCount g ≠ 0

theorem chamberFieldWrite_of_reach {m a : Nat} {d : Dev} (ha : a < 2 ^ 24) (hw : ChamberWord a) (hm : isMaster m = true)
    (hr : reachesWord d m a = true) (v : Word) : chamberFieldWrite m a v d = chmWrite m a v d := by
  simp only [chamberFieldWrite, Nat.mod_eq_of_lt ha, hr, not_true_eq_false, if_false, fromMaster_of_isMaster hm]
  rcases hw with ⟨hmpu, r, hrow, hchm⟩ | ⟨g, r, k, hmpu, hcount⟩
  · simp only [hmpu, hrow, if_pos hchm]
  · simp only [hmpu, if_neg hcount]

theorem chamberFieldTop_of_reach {m a : Nat} {d : Dev} (ha : a < 2 ^ 24) (hw : ChamberWord a) (hm : isMaster m = true)
    (hr : reachesWord d m a = true) (hp : PortLets 1 m a d) (v : Word) : chamberFieldTop m a v d = chmWrite m a v d := by
  rw [chamberFieldTop, Nat.mod_eq_of_lt ha, byPort_of_portLets hp, chamberFieldWrite_of_reach ha hw hm hr]

/-- A write where the master's window does not hold the word: the Towpath's window is the whole bus, so it is not the Towpath's. -/
theorem chamberFieldTop_of_not_reach {m a : Nat} {d : Dev} (ha : a < 2 ^ 24) (hr : reachesWord d m a = false) (v : Word) :
    chamberFieldTop m a v d = d := by
  have hm : m ≠ 2 := by
    rintro rfl
    simp [reachesWord, isFn, isFieldMaster, isF] at hr
  simp only [chamberFieldTop, byPort, if_neg hm, chamberFieldWrite, Nat.mod_eq_of_lt ha, hr, Bool.false_eq_true, not_false_eq_true, if_true]

theorem chamberTop_of_no_window {m : Nat} {d : Dev} (h : isFn m = true ∨ isFieldMaster m = true ∨ m = 2 ∧ portSelected d = false) (action : Nat) :
    chamberTop m action d = d := by
  rcases h with h | h | ⟨rfl, h⟩
  · have hm : m ≠ 2 := by rintro rfl; simp [isFn] at h
    simp [chamberTop, byPort, hm, chamberCommand, h]
  · have hm : m ≠ 2 := by have := isFieldMaster_cases h; omega
    simp [chamberTop, byPort, hm, chamberCommand, h]
  · exact byPort_of_not_selected h ..

theorem chmMayWrite_iff (d : Dev) (m : Nat) :
    chmMayWrite d m = true ↔ (d.chm.state = .filling ∨ d.chm.state = .levelled) ∧ d.chm.owner = m := by
  simp [chmMayWrite]

theorem chmWrite_of_not_mayWrite {m : Nat} {d : Dev} (h : chmMayWrite d m = false) (a : Nat) (v : Word) :
    chmWrite m a v d = rgOr d Reg.CHM_STATE 16 := by
  simp [chmWrite, h, chmForeign]

/-- What an entry put in a chamber with room leaves: the entry, FILLING, and no approval of the chamber as it was LEVELLED. -/
theorem chmPut_spec {d : Dev} (hroom : d.chm.entries.length < 4096) (hstate : d.chm.state = .filling ∨ d.chm.state = .levelled)
    (prot : Bool) (a : Nat) (v : Word) :
    let e := chmPut prot a v d
    e.chm.state = .filling ∧ e.chm.entries = tabPut d.chm.entries a ⟨v, prot⟩ ∧ e.regs = d.regs ∧ (d.chm.state = .levelled → e.chm.approvals = []) := by
  have hput : ∀ t : Dev, t.chm.entries = d.chm.entries →
      (if (tabFind t.chm.entries a).isNone ∧ 4096 ≤ t.chm.entries.length then { t with chm := { t.chm with tooMany := true } }
        else { t with chm := { t.chm with entries := tabPut t.chm.entries a ⟨v, prot⟩ } }) =
      { t with chm := { t.chm with entries := tabPut t.chm.entries a ⟨v, prot⟩ } } := fun t ht => if_neg (by rw [ht]; omega)
  rcases hstate with hs | hs
  · have hne : d.chm.state ≠ .levelled := by rw [hs]; decide
    simp only [chmPut, if_neg hne, hput d rfl]
    exact ⟨hs, trivial, trivial, fun h => absurd h hne⟩
  · have hchm := chmRefill_none_chm d
    simp only [chmPut, if_pos hs]
    rw [hput _ (by rw [hchm])]
    simp [hchm]

/-- Settles O24: a write that reaches its word is `chmWrite`, and the owner's is an entry put in the chamber. -/
theorem chamberFieldWrites : Obligations.ChamberFieldWrites := by
  intro s m a v ha hw d c reach
  refine ⟨fun hr => ?outside, fun h => ?command, fun h => ?port, fun ⟨hm, hr, hp⟩ ho hs hroom => ?put, fun ⟨hm, hr, hp⟩ h => ?foreign⟩
  case outside => exact exec_eq_next rfl (chamberFieldTop_of_not_reach ha hr v)
  case command =>
    have hrun := chamberTop_of_no_window h
    exact ⟨exec_eq_next rfl (hrun 1), exec_eq_next rfl (hrun 2), exec_eq_next rfl (hrun 3), exec_eq_next rfl (hrun 4), exec_eq_next rfl (hrun 5),
      exec_eq_next rfl (hrun 6)⟩
  case port => exact exec_eq_next rfl (byPort_of_not_selected h ..)
  case put =>
    have hwrite : chamberFieldTop m a v s.dev = chmPut (entryProt s.dev a (v &&& wd (chmMask a))) a (v &&& wd (chmMask a)) s.dev := by
      rw [chamberFieldTop_of_reach ha hw hm hr hp, chmWrite, if_pos ((chmMayWrite_iff ..).2 ⟨hs, ho⟩)]
    obtain ⟨hstate, hentries, hregs, happr⟩ := chmPut_spec hroom hs (entryProt s.dev a (v &&& wd (chmMask a))) a (v &&& wd (chmMask a))
    refine ⟨_, exec_eq_next rfl hwrite, hstate, ?_, fun b hb => ?_, hregs, happr⟩
    · rw [hentries, tabFind_tabPut, if_pos rfl]; rfl
    · rw [hentries, tabFind_tabPut, if_neg hb]
  case foreign =>
    have hno : chmMayWrite s.dev m = false := by
      rw [Bool.eq_false_iff, Ne, chmMayWrite_iff]
      rintro ⟨hs, ho⟩
      rcases h with h | h | h | h
      · exact h ho
      all_goals rw [show s.dev.chm.state = _ from h] at hs; simp at hs
    exact exec_eq_next rfl (by rw [chamberFieldTop_of_reach ha hw hm hr hp, chmWrite_of_not_mayWrite hno])

end Sys2Proof.Machine

/-! Approvals (O26), expiries and overruns (O27), and partition units (O28): R39, R53 to R59, R98. -/

namespace Sys2Proof.Machine

/-! ### Operations that end without a result (R53, R81) -/

/-- A ring's operation that ends with a status and no output stays in flight as ended, its reservation given up. -/
theorem endWith_ring {o : Op} {r k : Nat} (hsrc : o.src = .ring r k) (hdead : o.dead = false) (d : Dev) (st sub due pass : Nat) :
    endWith d o st sub due pass = setOp (unreserve d o.id)
      { o with status := st, sub := sub, outs := [], resLen := 0, ext := false, result := if o.opcode / 16 ≤ 2 then o.result else 0,
               phase := .ended, dueAt := due } := by
  simp [endWith, hdead, deliver, written, writeOuts, hsrc, wipeReport, report, wipeOuts]

/-- The operation that a write of flight puts there is the only one with its identifier. -/
theorem eq_of_mem_setOp {d : Dev} {o x : Op} (hx : x ∈ (setOp d o).ops) (hid : x.id = o.id) : x = o := by
  obtain ⟨y, _, rfl⟩ := List.mem_map.1 hx
  split
  · rfl
  · rename_i h
    simp only [h, if_false] at hid

theorem findOp_id {d : Dev} {id : Nat} {o : Op} (h : findOp d id = some o) : o.id = id := by
  simpa using List.find?_some h

/-! ### Approvals (R53, R55) -/

/-- With one token waiting, verified in an earlier pass, acceptance judges it against the chamber without it. -/
theorem acceptApprovals_one {d : Dev} {p : PendingApproval} (hw : d.chm.waiting = [p]) (hp : p.pass < d.pas.count) :
    let e : Dev := { d with chm := { d.chm with waiting := [] } }
    acceptApprovals d = match acceptFail e p with
      | none => (match p.op.bind (findOp d) with
        | some o => endWith (addApproval e p.roster) o St.done 0 d.pas.count (d.pas.count - 1)
        | none => addApproval e p.roster)
      | some sub => (match p.op.bind (findOp d) with
        | some o => endWith e o St.denied (if p.iface.isSome then (if sub = 0x04 then 0x15 else 0x14) else sub) d.pas.count (d.pas.count - 1)
        | none => e) := by
  simp only [acceptApprovals, hw, List.filter_cons, List.filter_nil, decide_eq_true hp, decide_eq_false (Nat.not_le.2 hp), if_true,
    Bool.false_eq_true, if_false, List.foldl_cons, List.foldl_nil]
  rfl

theorem acceptApprovals_of_none_due {d : Dev} (h : ∀ p ∈ d.chm.waiting, d.pas.count ≤ p.pass) : acceptApprovals d = d := by
  have hdue : d.chm.waiting.filter (fun p => decide (p.pass < d.pas.count)) = [] :=
    List.filter_eq_nil_iff.2 fun p hp => by simpa using h p hp
  have hleft : d.chm.waiting.filter (fun p => decide (d.pas.count ≤ p.pass)) = d.chm.waiting :=
    List.filter_eq_self.2 fun p hp => by simpa using h p hp
  simp only [acceptApprovals, hdue, hleft, List.foldl_nil]

/-- Settles O26: verification, acceptance of the one token waiting, and expiry, each the branch its premises choose. -/
theorem chamberApprovals : Obligations.ChamberApprovals := by
  intro s d
  refine ⟨fun o _ hfind hphase hop hwait hsig => ?verified, fun h => ?notDue, fun p hw hp hop hseq hdig hstate hlen hnew => ?accepted,
    fun p o hw hp hop ⟨r, k, hsrc⟩ hdead hbad hif => ?mismatch, fun hstate ⟨a, ha, hlife⟩ => ?expired⟩
  case verified =>
    have hgo : ¬ (o.phase ≠ .admitted ∨ o.opcode ≠ 0x53 ∨ s.dev.chm.waiting.any (fun p => decide (p.op = some o.id)) = true) := by
      simp only [hphase, hop, show s.dev.chm.waiting.any _ = false from hwait, ne_eq, not_true_eq_false, Bool.false_eq_true, or_self,
        not_false_eq_true]
    exact exec_eq_next rfl (by simp only [approvalVerified, show findOp s.dev o.id = some o from hfind, if_neg hgo]; exact if_pos hsig)
  case notDue => exact exec_eq_next rfl (acceptApprovals_of_none_due h)
  case accepted =>
    have hfail : acceptFail { d with chm := { d.chm with waiting := [] } } p = none := by
      have hopen : chmOpenForApproval { d with chm := { d.chm with waiting := [] } } = true := by
        simpa [chmOpenForApproval] using ⟨hstate, Nat.le_of_lt_succ hlen⟩
      have hfresh : alreadyApproved { d with chm := { d.chm with waiting := [] } } p.roster = false := by
        simpa [alreadyApproved] using hnew
      simp only [acceptFail, hopen, hfresh]
      simp [hseq, hdig, chmSeq]
    refine exec_eq_next rfl ((acceptApprovals_one hw hp).trans ?_)
    simp only [hfail, hop]
    rfl
  case mismatch =>
    have hfail : acceptFail { d with chm := { d.chm with waiting := [] } } p = some 2 := if_pos hbad
    refine ⟨_, exec_eq_next rfl ((acceptApprovals_one hw hp).trans (by simp only [hfail, hop, hif]; exact endWith_ring hsrc hdead ..)), rfl,
      fun x hx hid => ?_⟩
    rw [eq_of_mem_setOp hx hid]
    exact ⟨rfl, rfl, rfl⟩
  case expired =>
    have hexp : expireApprovals s.dev = chmRefill s.dev (some (8, 0, none)) :=
      if_pos ⟨hstate, List.any_eq_true.2 ⟨a, ha, decide_eq_true hlife⟩⟩
    have hchm := chmRefill_some_chm s.dev 8 0 none
    exact ⟨_, exec_eq_next rfl hexp, by rw [hchm], by rw [hchm], by rw [hchm], chmSeq_chmRefill ..⟩

/-! ### Expiries and overruns (R39, R98) -/

/-- A change of every value of a table that keeps the default changes every read. -/
theorem tabGet_mapVal {α : Type} {z : α} {f : α → α} (hz : f z = z) (t : Tab α) (i : Nat) :
    tabGet z (t.map (fun e => (e.1, f e.2))) i = f (tabGet z t i) := by
  induction t with
  | nil => exact hz.symm
  | cons e t ih =>
    simp only [List.map_cons, tabGet]
    split
    · rfl
    · exact ih

/-- R98: what an edge at a pass makes of a key slot. -/
def Slot.atEdge (count : Nat) (x : Slot) : Slot :=
  if x.expiry ≠ 0 ∧ x.expiry ≤ count ∧ (x.state = 1 ∨ x.state = 2) then { x with state := 3 } else x

theorem slotGet_slotExpiry (d : Dev) (i : Nat) : slotGet (slotExpiry d) i = (slotGet d i).atEdge d.pas.count :=
  tabGet_mapVal (f := Slot.atEdge d.pas.count) (if_neg (by simp)) d.slots i

theorem rg_rgOr (d : Dev) (a b n : Nat) : rg (rgOr d a n) b = if b = a then rg d a ||| wd n else rg d b := rg_rgSet ..

theorem bit_or_wd_two_pow (w : Word) {k : Nat} (hk : k < 36) : bit (w ||| wd (2 ^ k)) k = true := by
  simp [bit, wd, hk, BitVec.getLsbD_ofNat, -BitVec.ofNat_pow]

theorem holderOf_lt {o : Op} {k i : Nat} (h : holderOf o = some (k, i)) : k < 36 := by
  unfold holderOf at h
  split_ifs at h with hop hplane
  · obtain ⟨rfl, _⟩ := Prod.mk.inj (Option.some.inj h); decide
  · split at h
    next hunit =>
      split_ifs at h with hk
      obtain ⟨rfl, _⟩ := Prod.mk.inj (Option.some.inj h); omega
    next => cases h

theorem bit_overrunFence (d : Dev) (o : Op) : bit (rg (overrunFence d o) Reg.PAS_OVERRUN) ((holderOf o).elim 0 (·.1)) = true := by
  unfold overrunFence
  cases h : holderOf o with
  | none => simp only [rg_rgOr, if_true]; exact bit_or_wd_two_pow (k := 0) _ (by decide)
  | some u => simp only [rg_rgOr, if_true]; exact bit_or_wd_two_pow _ (holderOf_lt (i := u.2) h)

theorem boundOverrun_of_none_late {d : Dev} (h : ∀ o ∈ d.ops, o.phase ≠ .admitted ∨ d.pas.count < o.admitAt + o.bound + 2) : boundOverrun d = d := by
  have hlate : d.ops.filter (overran d) = [] := by
    refine List.filter_eq_nil_iff.2 fun o ho => ?_
    rcases h o ho with hp | hb
    · simp [overran, hp]
    · simp [overran, Nat.not_le.2 hb]
  simp only [boundOverrun, hlate, List.foldl_nil]

theorem boundOverrun_one {d : Dev} {o : Op} (hops : d.ops = [o]) (h : overran d o = true) :
    boundOverrun d = overrunFence (endUndef (leavePlane d o) o St.timeout 0 d.pas.count (d.pas.count - 1)) o := by
  simp only [boundOverrun, hops, List.filter_cons, h, if_true, List.filter_nil, List.foldl_cons, List.foldl_nil]

/-- Settles O27: the expiry acts on each slot alone; of an overrun the last act sets the bit. -/
theorem expiriesAndOverruns : Obligations.ExpiriesAndOverruns := by
  refine ⟨fun s => ⟨_, exec_eq_next rfl rfl, rfl, fun i => slotGet_slotExpiry s.dev i⟩, fun s => ⟨fun o hops hphase hlate hjudged => ?_, fun h => ?_⟩⟩
  · have hover : overran s.dev o = true := by simp [overran, hphase, hlate, hjudged]
    exact ⟨_, exec_eq_next rfl (boundOverrun_one hops hover), bit_overrunFence ..⟩
  · exact exec_eq_next rfl (boundOverrun_of_none_late h)

/-! ### Partition units (R56 to R59) -/

/-- A host island unit's request by K or by a host core other than the unit is refused for the unit's state alone. -/
theorem partRefused_host {kind idx m : Nat} (hk : kind ∈ [1, 2, 3, 6, 7, 8]) (hi : idx < unitCount kind) (hself : ¬ (kind = 6 ∧ m = 0x10 + idx))
    {action : Nat} (ha : action ≠ 0) (d : Dev) : partRefused d m kind idx action 0 =
      (decide (action = 3) && decide ((part d kind idx).state < 2) || decide (action = 1) && decide ((part d kind idx).state ≠ 0) ||
        decide (action = 2) && decide (2 ≤ (part d kind idx).state)) := by
  have hfield : ¬ (kind = 4 ∨ kind = 5) := by rintro (rfl | rfl) <;> simp at hk
  have hrange : 0 < kind ∧ kind ≤ 8 := by simp at hk; omega
  have hown : (isH m && decide (kind = 6) && decide (idx = m - 0x10)) = false := by
    simp only [isH, Bool.and_eq_false_iff, decide_eq_false_iff_not]
    omega
  simp only [partRefused, partShown, if_neg hfield, hown]
  simp [not_or.1 hfield, ha, show kind ≠ 0 by omega, show ¬ 8 < kind by omega, Nat.not_le.2 hi]

/-- The device after a request of a host island unit that is taken. -/
def reqTaken (d : Dev) (m kind idx action : Nat) : Dev :=
  { d with pas := { d.pas with
      reqs := d.pas.reqs ++ [{ kind := kind, idx := idx, action := action, reason := 0, pass := d.pas.count, ready := true }],
      result := tabSet 0 d.pas.result m 0 } }

/-- The device after a request that is refused. -/
def reqRefused (d : Dev) (m : Nat) : Dev := { d with pas := { d.pas with result := tabSet 0 d.pas.result m 1 } }

theorem partReq_host {m pl kind idx : Nat} (hm : m = 1 ∨ isH m = true ∧ pl = 0) (hk : kind ∈ [1, 2, 3, 6, 7, 8]) (action : Nat) (d : Dev) :
    partReq m pl kind idx action 0 d = if partRefused d m kind idx action 0 = true then reqRefused d m else reqTaken d m kind idx action := by
  have hfield : (decide (kind = 4) || decide (kind = 5)) = false := by
    rw [Bool.eq_false_iff]; intro h
    rcases (by simpa using h : kind = 4 ∨ kind = 5) with rfl | rfl <;> simp at hk
  have hmay : ¬ ¬ (m = 1 ∨ isH m = true ∧ pl = 0) := not_not.2 hm
  simp only [partReq, if_neg hmay]
  split
  next h => rw [h]; rfl
  next h => simp only [partAccept, hfield, ite_self, Bool.eq_false_iff.2 h]; rfl

theorem partReq_of_not_may {m pl : Nat} (h : ¬ (m = 1 ∨ isH m = true ∧ pl = 0)) (kind idx action reason : Nat) (d : Dev) :
    partReq m pl kind idx action reason d = d := if_pos h

/-- A request of a flight or chain that stands is taken, and sent to the field end. -/
theorem partReq_field {m pl kind idx action : Nat} (hm : m = 1 ∨ isH m = true ∧ pl = 0) (hk : kind = 4 ∨ kind = 5) {d : Dev}
    (href : partRefused d m kind idx action 0 = false) :
    let e := queueBarge
      { d with pas := { d.pas with
          reqs := d.pas.reqs ++ [{ kind := kind, idx := idx, action := action, reason := 0, pass := d.pas.count, ready := false }] } }
      0 (configPush 3 0 [pack [(0, kind), (4, idx), (12, action), (14, 0)]] 1)
    partReq m pl kind idx action 0 d = { e with pas := { e.pas with result := tabSet 0 e.pas.result m 0 } } := by
  have hfield : (decide (kind = 4) || decide (kind = 5)) = true := by simpa using hk
  have hmay : ¬ ¬ (m = 1 ∨ isH m = true ∧ pl = 0) := not_not.2 hm
  simp only [partReq, if_neg hmay, href, Bool.false_eq_true, if_false, partAccept, hfield, if_true, ite_self]
  rfl

theorem partRefused_field_drain {kind idx m : Nat} (hk : kind = 4 ∨ kind = 5) (hi : idx < unitCount kind) {d : Dev} (hup : d.lkg.fieldUp = true)
    (hst : (tabGet {} d.pas.shown (unitKey kind idx) : Part).state = 0) : partRefused d m kind idx 1 0 = false := by
  have hrange : kind ≠ 0 ∧ ¬ 8 < kind ∧ kind ≠ 6 := by omega
  simp [partRefused, partShown, if_pos hk, hst, hup, hrange, Nat.not_le.2 hi]

theorem partitionApply_of_none_due {d : Dev} (h : ∀ q ∈ d.pas.reqs, d.pas.count ≤ q.pass ∨ d.pas.count ≤ q.readyAt) : partitionApply d = d := by
  have hdue : d.pas.reqs.filter (fun q => q.ready && !q.shown && decide (q.pass < d.pas.count) && decide (q.readyAt < d.pas.count)) = [] := by
    refine List.filter_eq_nil_iff.2 fun q hq => ?_
    rcases h q hq with h | h <;> simp [Nat.not_lt.2 h]
  simp [partitionApply, hdue]

/-- The one request waiting, of a host island unit and due, takes effect and waits no more. -/
theorem partitionApply_one {d : Dev} {q : PartReq} (hreqs : d.pas.reqs = [q]) (hready : q.ready = true) (hshown : q.shown = false)
    (hpass : q.pass < d.pas.count) (hat : q.readyAt < d.pas.count) (h4 : q.kind ≠ 4) (h5 : q.kind ≠ 5) :
    partitionApply d = { hostPart q d with pas := { (hostPart q d).pas with reqs := (hostPart q d).pas.reqs.filter (· ≠ q) } } := by
  simp [partitionApply, hreqs, hready, hshown, hpass, hat, h4, h5]

theorem mem_hostUnits (k i : Nat) : (k, i) ∈ hostUnits ↔ k ∈ [1, 2, 3, 6, 7, 8] ∧ i < unitCount k := by
  simp only [hostUnits, List.mem_flatMap, List.mem_map, List.mem_range, Prod.mk.injEq]
  constructor
  · rintro ⟨_, hk, _, hi, rfl, rfl⟩; exact ⟨hk, hi⟩
  · rintro ⟨hk, hi⟩; exact ⟨k, hk, i, hi, rfl, rfl⟩

/-- A Grinder unit with nothing in flight is fenced and its banks wiped. -/
theorem fenceUnit_idle_grinder {d : Dev} {idx : Nat} (h : unitOps d 3 idx = []) (reason : Nat) :
    fenceUnit 3 idx reason d = wipeBanks (setPart d 3 idx { state := 3, reason := reason }) idx true := by
  simp [fenceUnit, h, leaveLane]

/-- A device whose queue of partition requests is empty. -/
def noReqs (d : Dev) : Dev := { d with pas := { d.pas with reqs := [] } }

@[simp] theorem part_noReqs (d : Dev) (k i : Nat) : part (noReqs d) k i = part d k i := rfl
@[simp] theorem part_wipeBanks (d : Dev) (u : Nat) (atEdge : Bool) (k i : Nat) : part (wipeBanks d u atEdge) k i = part d k i := rfl

section OneRequest
variable {d : Dev} {q : PartReq} (hreqs : d.pas.reqs = [q]) (hready : q.ready = true) (hshown : q.shown = false)
  (hpass : q.pass < d.pas.count) (hat : q.readyAt < d.pas.count)
include hreqs hready hshown hpass hat

theorem partitionApply_return (h4 : q.kind ≠ 4) (h5 : q.kind ≠ 5) (ha : q.action = 3) :
    partitionApply d = noReqs (setPart d q.kind q.idx {}) := by
  have hret : hostPart q d = setPart d q.kind q.idx {} := by simp [hostPart, ha]
  rw [partitionApply_one hreqs hready hshown hpass hat h4 h5, hret]
  simp [noReqs, setPart, hreqs]

theorem partitionApply_fence (hk : q.kind = 3) (ha : q.action = 2) (hidle : unitOps d 3 q.idx = []) :
    partitionApply d = noReqs (wipeBanks (setPart d 3 q.idx { state := 3, reason := q.reason }) q.idx true) := by
  have hfence : hostPart q d = wipeBanks (setPart d 3 q.idx { state := 3, reason := q.reason }) q.idx true := by
    simp [hostPart, ha, hk, fenceUnit_idle_grinder hidle]
  rw [partitionApply_one hreqs hready hshown hpass hat (by omega) (by omega), hfence]
  simp [noReqs, wipeBanks, unitSet, setPart, hreqs]
end OneRequest

/-- Settles O28: a request is refused by its unit's state alone or joins the queue, from which the one that is due takes effect. -/
theorem partitionUnits : Obligations.PartitionUnits := by
  intro s m pl kind idx reason d may host taken refused st
  refine ⟨fun hm hk hi hr hself => ?host, fun hm hk hup hi hr hst => ?field, fun hm => ?drop, fun q hq h => ?early,
    fun q hq hready hshown hpass hat => ?apply, _, exec_eq_next rfl rfl, rfl, fun k i => ?drained⟩
  case host =>
    subst hr
    have href {action : Nat} (ha : action ≠ 0) := partRefused_host hk hi hself ha s.dev
    have hreq (action : Nat) := partReq_host (idx := idx) hm hk action s.dev
    exact ⟨fun h => exec_eq_next rfl ((hreq 1).trans (if_neg (by simpa [href] using h))),
      fun h => exec_eq_next rfl ((hreq 1).trans (if_pos (by simpa [href] using h))),
      fun h => exec_eq_next rfl ((hreq 2).trans (if_neg (by simpa [href] using h))),
      fun h => exec_eq_next rfl ((hreq 2).trans (if_pos (by simpa [href] using h))),
      fun h => exec_eq_next rfl ((hreq 3).trans (if_neg (by simpa [href] using Nat.succ_le_iff.1 h))),
      fun h => exec_eq_next rfl ((hreq 3).trans (if_pos (by simpa [href] using h)))⟩
  case field =>
    subst hr
    refine ⟨_, exec_eq_next rfl (partReq_field hm hk (partRefused_field_drain hk hi hup (by rw [unitKey, Nat.mul_comm]; exact hst))), ?_, rfl, ?_⟩
    · simp
    · simp [queueBarge, configPush, b2n]; rfl
  case drop =>
    exact ⟨exec_eq_next rfl (partReq_of_not_may hm ..), exec_eq_next rfl (partReq_of_not_may hm ..), exec_eq_next rfl (partReq_of_not_may hm ..)⟩
  case early =>
    exact exec_eq_next rfl (partitionApply_of_none_due (by rw [show s.dev.pas.reqs = [q] from hq]; simpa using h))
  case apply =>
    exact ⟨fun h4 h5 ha => ⟨_, exec_eq_next rfl (partitionApply_return hq hready hshown hpass hat h4 h5 ha),
        by simp, rfl, rfl, rfl⟩,
      fun hk ha hidle => ⟨_, exec_eq_next rfl (partitionApply_fence hq hready hshown hpass hat hk ha hidle),
        by simp, rfl, rfl⟩⟩
  case drained =>
    show (k, i) ∈ hostUnits.filter _ ↔ _
    rw [List.mem_filter, mem_hostUnits]
    simp [drained, d]

end Sys2Proof.Machine

/-! The key operations and the release of their results (O35): R40, R97, R102 to R106, R134, R186. -/

namespace Sys2Proof.Machine

/-! ### Operations in flight, and host memory, after an update -/

theorem findOp_setOp {d : Dev} {o x : Op} (h : findOp d o.id = some x) : findOp (setOp d o) o.id = some o := by
  have hsame : (fun y : Op => decide (y.id = o.id)) ∘ (fun y => if y.id = o.id then o else y) = fun y => decide (y.id = o.id) := by
    funext y
    by_cases hy : y.id = o.id <;> simp [hy]
  have hx := findOp_id h
  simp only [findOp] at h
  simp only [findOp, setOp, List.find?_map, hsame, h, Option.map_some, hx, if_true]

theorem setOp_one {d : Dev} {o x : Op} (hops : d.ops = [o]) (hid : o.id = x.id) : (setOp d x).ops = [x] := by
  simp [setOp, hops, hid]

theorem tabGetList_eq_map {α : Type} (z : α) (t : Tab α) (i n : Nat) : tabGetList z t i n = (List.range n).map (fun k => tabGet z t (i + k)) := by
  induction n generalizing i with
  | zero => rfl
  | succ n ih =>
    rw [tabGetList, ih, List.range_succ_eq_map, List.map_cons, List.map_map]
    simp [Nat.add_assoc, Nat.add_comm 1]

/-- Host memory written reads back. -/
theorem hostRd_hostWr (d : Dev) (a : Nat) (o : Octets) : hostRd (hostWr d a o) a o.length = o := by
  rw [hostRd, tabGetList_eq_map]
  refine List.ext_getElem (by simp) fun k _ hk => ?_
  rw [List.getElem_map, List.getElem_range, host_hostWr_of_inside d a k o hk]

/-! ### Results computed and held (R40) -/

/-- First edge at which a result computed in this pass is released. -/
def releaseEdge (d : Dev) (o : Op) : Nat := d.pas.count + 1 + max o.rqK (fld (rg d Reg.PAS_RQ_KMIN) 3 0)

/-- The operation with its result held. -/
def heldOp (d : Dev) (o : Op) : Op := { o with phase := .held, dueAt := releaseEdge d o }

theorem finish_quant {o : Op} (hq : o.quant = true) (hdead : o.dead = false) (d : Dev) : finish d o = setOp d (heldOp d o) := by
  simp [finish, hq, hdead, heldOp, releaseEdge]

/-- The result o' of an operation o: the same operation, held under the same release control. -/
structure ResultOf (o o' : Op) : Prop where
  id : o'.id = o.id
  quant : o'.quant = o.quant
  dead : o'.dead = o.dead
  desc : o'.desc = o.desc

section Held
variable {s : State} {id : Nat} {o : Op} (hfind : findOp s.dev id = some o) (hphase : o.phase = .admitted) (hquant : o.quant = true)
  (hdead : o.dead = false)
include hfind

include hquant hdead in
/-- An operation that finishes with a result holds it: nothing but the operation, and the Hopper it drew from, has changed. -/
theorem exec_keyOperationComplete_held {o' : Op} {e : Dev} {P : Op → Prop} (hrun : keyComplete id s.dev = finish e o')
    (he : e = { s.dev with hop := e.hop }) (hres : ResultOf o o') (hP : P (heldOp s.dev o')) :
    ∃ t x, exec (.keyOperationComplete id none) s = .next t ∧ findOp t.dev id = some x ∧ x.phase = .held ∧ x.dueAt = releaseEdge s.dev o ∧
      t.dev.slots = s.dev.slots ∧ t.dev.host = s.dev.host ∧ t.dev.mem = s.dev.mem ∧ P x := by
  have hid : (heldOp s.dev o').id = id := hres.id.trans (findOp_id hfind)
  have hheld : heldOp e o' = heldOp s.dev o' := by rw [he]; rfl
  have hset : keyComplete id s.dev = setOp e (heldOp s.dev o') := by
    rw [hrun, finish_quant (hres.quant.trans hquant) (hres.dead.trans hdead), hheld]
  have hops : findOp e (heldOp s.dev o').id = some o := by rw [he, hid]; exact hfind
  refine ⟨_, heldOp s.dev o', exec_eq_next rfl hset, ?_, rfl, ?_, ?_, ?_, ?_, hP⟩
  · rw [← hid]; exact findOp_setOp hops
  · simp only [heldOp, releaseEdge, Op.rqK, hres.desc]
  · rw [he]; rfl
  · rw [he]; rfl
  · rw [he]; rfl

include hphase

theorem keyComplete_import (hop : o.opcode = 0x54 ∨ o.opcode = 0x81) : keyComplete id s.dev = finishKey s.dev o (importResult s.dev o.input) := by
  have hargs : (keyImportArgs o).2.2 = o.input := by unfold keyImportArgs; split <;> rfl
  simp [keyComplete, hfind, hphase, hop, hargs]

theorem keyComplete_derive (hop : o.opcode = 0x84) :
    let h := hdrOf (o.input.take 32)
    keyComplete id s.dev = finishKey s.dev o
      ((St.done, 0), some (madeKey h 3 (kdf108 o.material (slice o.input 32 16) (slice o.input 48 16) (h.bits / 8)))) := by
  simp [keyComplete, hfind, hphase, hop]

theorem keyComplete_unwrap (hop : o.opcode = 0x85) : keyComplete id s.dev = finishKey s.dev o
    (match kwUnwrap o.material (o.input.drop 32) with
      | none => ((St.keyInvalid, 0x09), none)
      | some k => ((St.done, 0), some (madeKey (hdrOf (o.input.take 32)) 3 k))) := by
  simp only [keyComplete, hfind, hphase, hop]
  cases kwUnwrap o.material (o.input.drop 32) <;> simp

theorem keyComplete_loadSak (hop : o.opcode = 0x91) : keyComplete id s.dev = finish s.dev
    (match unwrapBlob s.dev o.input with
      | none => { o with status := St.keyInvalid, sub := 0x09 }
      | some k => { o with status := St.done, sub := 0, key := some { material := k } }) := by
  simp only [keyComplete, hfind, hphase, hop]
  cases unwrapBlob s.dev o.input <;> simp

theorem keyComplete_export (hop : o.opcode = 0x55 ∨ o.opcode = 0x82) : keyComplete id s.dev =
    if hopWaits s.dev = true then s.dev
    else if hopServes s.dev = false then finish s.dev { o with status := St.entropy, sub := hopSub s.dev }
    else
      let blob := exportBlob s.dev (o.key.getD {}) (o.aux.getD 1 0) ((hwDraw s.dev 1).1.take 12)
      finish (hwDraw s.dev 1).2 { o with status := St.done, sub := 0, resLen := blob.length, outs := [(o.aux.getD 2 0, blob)] } := by
  have hne : ¬ (o.opcode = 0x54 ∨ o.opcode = 0x81) := by omega
  simp only [keyComplete, hfind, hphase, ne_eq, not_true_eq_false, if_false, if_neg hne, if_pos hop, Bool.not_eq_true]

end Held

theorem finishKey_eq (d : Dev) (o : Op) (r : Fail × Option Slot) : finishKey d o r = finish d
    { o with status := r.1.1, sub := r.1.2, key := r.2, resLen := 0, result := if r.2.isSome then slotResult o (o.slot.getD 0) else 0 } := rfl

theorem importResult_of_none {d : Dev} {blob : Octets} (h : unwrapBlob d blob = none) : importResult d blob = ((St.keyInvalid, 0x09), none) := by
  simp [importResult, h]

theorem importResult_of_good {d : Dev} {blob k : Octets} (h : unwrapBlob d blob = some k) (hweak : weakKey (hdrOf blob).alg k = false)
    (hexp : (hdrOf blob).expiry = 0 ∨ d.pas.count < (hdrOf blob).expiry) (halg : (hdrOf blob).alg ≠ 0x20) :
    importResult d blob = ((St.done, 0), some (madeKey (hdrOf blob) (hdrOf blob).kek k)) := by
  have hlive : ¬ ((hdrOf blob).expiry ≠ 0 ∧ (hdrOf blob).expiry ≤ d.pas.count) := by omega
  simp only [importResult, h, hweak, Bool.false_eq_true, if_false, if_neg hlive, if_neg halg]

/-! ### The Hopper's answer to a draw (R184, R186) -/

theorem hwRefill_frame (d : Dev) : hwRefill d = { d with hop := (hwRefill d).hop } := by
  unfold hwRefill; split <;> rfl

theorem hwDraw_frame (d : Dev) (n : Nat) : (hwDraw d n).2 = { d with hop := (hwDraw d n).2.hop } := by
  rw [hwDraw, hwRefill_frame]; rfl

theorem hwDraw_one_octets {d : Dev} (h : hopServes d = true) : (hwDraw d 1).1 = d.hop.fifo.headD [] := by
  have hlen : 1 ≤ d.hop.fifo.length := by simp [hopServes] at h; omega
  obtain ⟨x, xs, hx⟩ := List.exists_cons_of_length_pos hlen
  simp [hwDraw, hx]

theorem hopWaits_of_serves {d : Dev} (h : hopServes d = true) : hopWaits d = false := by simp [hopWaits, h]

theorem hopWaits_of_refusal {d : Dev} {c : Nat} (h : hopRefusal d = some c) : hopWaits d = false := by simp [hopWaits, hopRefuses, h]

theorem hopServes_of_refusal {d : Dev} {c : Nat} (h : hopRefusal d = some c) : hopServes d = false := by
  unfold hopRefusal at h
  split_ifs at h with h3 h2 h1
  · simp [hopServes, h3]
  · simp [hopServes, h2]
  · simp [hopServes, h1]

/-! ### Release of a held result (R40) -/

/-- The device e is d after writes to host memory: that memory, and the count of discarded writes, apart, nothing has changed. -/
def HostWritten (d e : Dev) : Prop := e = { d with regs := e.regs, host := e.host } ∧ ∀ a, a ≠ Reg.WHF_LATE_DISCARDS → rg e a = rg d a

theorem HostWritten.refl (d : Dev) : HostWritten d d := ⟨rfl, fun _ _ => rfl⟩

theorem HostWritten.trans {d e t : Dev} (h : HostWritten d e) (k : HostWritten e t) : HostWritten d t :=
  ⟨by rw [k.1, h.1], fun a ha => (k.2 a ha).trans (h.2 a ha)⟩

theorem hostWritten_fnWrite (d : Dev) (f a : Nat) (x : Octets) : HostWritten d (fnWrite d f a x) := by
  unfold fnWrite
  split
  · exact ⟨rfl, fun _ _ => rfl⟩
  · exact ⟨rfl, fun b hb => (rg_rgSet ..).trans (if_neg hb)⟩

/-- The outputs of a ring's operation written to host memory. -/
def ringOuts (r : Nat) (outs : List (Nat × Octets)) (d : Dev) : Dev := outs.foldl (fun d x => fnWrite d (ringFn d r) x.1 x.2) d

theorem hostWritten_ringOuts (r : Nat) (outs : List (Nat × Octets)) (d : Dev) : HostWritten d (ringOuts r outs d) := by
  induction outs generalizing d with
  | nil => exact .refl d
  | cons x xs ih => exact (hostWritten_fnWrite ..).trans (ih _)

theorem HostWritten.storedKey_eq {d e : Dev} (h : HostWritten d e) (k : Slot) : storedKey e k = storedKey d k := by
  have hcap : rn e Reg.KSL_GCM_CAP = rn d Reg.KSL_GCM_CAP := congrArg BitVec.toNat (h.2 _ (by decide))
  rw [storedKey, storedKey, hcap]

theorem HostWritten.slotGet_eq {d e : Dev} (h : HostWritten d e) (i : Nat) : slotGet e i = slotGet d i := by rw [h.1]; rfl

theorem HostWritten.saGet_eq {d e : Dev} (h : HostWritten d e) (i : Nat) : saGet e i = saGet d i := by rw [h.1]; rfl

/-- The release leaves operations, and all of the device but the key stores, alone. -/
theorem storeOnRelease_frame (d : Dev) (o : Op) :
    storeOnRelease d o = { d with slots := (storeOnRelease d o).slots, ils := (storeOnRelease d o).ils } := by
  unfold storeOnRelease
  split
  · rfl
  · split
    · rfl
    · split <;> rfl

/-- An operation of a ring whose result has been released. -/
def releasedOp (d : Dev) (o : Op) : Op := { o with phase := .ended, outs := [], dueAt := d.pas.count, ext := false }

section Release
variable {d : Dev} {o : Op} {r pos : Nat} (hsrc : o.src = .ring r pos)
include hsrc

theorem writeOuts_ring (e : Dev) : writeOuts e o = (true, ringOuts r o.outs e) := by simp only [writeOuts, hsrc, ringOuts]

theorem releaseOp_ring (hphase : o.phase = .held) (hdue : o.dueAt ≤ d.pas.count) :
    releaseOp d o = setOp (storeOnRelease (ringOuts r o.outs d) (sakCheck d o)) (releasedOp d (sakCheck d o)) := by
  have hsak : (sakCheck d o).src = .ring r pos ∧ (sakCheck d o).outs = o.outs := by
    unfold sakCheck; split <;> exact ⟨hsrc, rfl⟩
  simp only [releaseOp, if_pos (And.intro hphase hdue), written, writeOuts_ring hsak.1, hsak.2, if_true, wipeReport, report, hsak.1, wipeOuts, releasedOp]

theorem releaseDue_one (hops : d.ops = [o]) (hphase : o.phase = .held) (hdue : o.dueAt ≤ d.pas.count) :
    releaseDue d = setOp (storeOnRelease (ringOuts r o.outs d) (sakCheck d o)) (releasedOp d (sakCheck d o)) := by
  rw [releaseDue, hops, List.foldl_cons, List.foldl_nil, releaseOp_ring hsrc hphase hdue]

omit hsrc in
theorem releaseDue_one_ops (r : Nat) (hops : d.ops = [o]) : (setOp (storeOnRelease (ringOuts r o.outs d) (sakCheck d o)) (releasedOp d (sakCheck d o))).ops =
    [releasedOp d (sakCheck d o)] := by
  refine setOp_one (o := o) ?_ ?_
  · rw [storeOnRelease_frame, (hostWritten_ringOuts r o.outs d).1]; exact hops
  · unfold sakCheck; split <;> rfl

end Release

theorem releaseDue_of_none_due {d : Dev} (h : ∀ o ∈ d.ops, o.phase ≠ .held ∨ d.pas.count < o.dueAt) : releaseDue d = d := by
  have hop : ∀ o ∈ d.ops, releaseOp d o = d := fun o ho => if_neg fun ⟨hp, hd⟩ => (h o ho).elim (· hp) (Nat.not_lt.2 hd)
  unfold releaseDue
  generalize d.ops = os at hop
  induction os with
  | nil => rfl
  | cons o os ih =>
    rw [List.foldl_cons, hop o (by simp)]
    exact ih fun x hx => hop x (by simp [hx])

/-- Settles O35: each operation's completion is the held result its opcode computes; the release writes the outputs, stores the key and ends it. -/
theorem keyOperationsAndRelease : Obligations.KeyOperationsAndRelease := by
  refine ⟨?completed, ?due⟩
  case' completed =>
    intro s id o hfind hphase hquant hdead d due ends blob h
    refine ⟨fun hop => ?keyImport, fun hop => ?derive, fun hop => ?unwrap, fun hop => ?loadSak, fun hop => ?keyExport⟩
  case' due =>
    intro s d
    refine ⟨fun o r pos hops hsrc hphase hdue hop hst hvalid => ?denied, fun o r pos hops hsrc hphase hdue hsa => ?released,
      fun h => exec_eq_next rfl (releaseDue_of_none_due h)⟩
  case keyImport =>
    intro m hb
    have hrun := keyComplete_import hfind hphase hop
    refine ⟨fun hnone => ?_, fun k hk hweak hexp halg => ?_⟩
    · rw [importResult_of_none hnone] at hrun
      exact exec_keyOperationComplete_held hfind hquant hdead hrun rfl ⟨rfl, rfl, rfl, rfl⟩ ⟨rfl, rfl, rfl⟩
    · rw [importResult_of_good hk hweak hexp halg] at hrun
      exact exec_keyOperationComplete_held hfind hquant hdead hrun rfl ⟨rfl, rfl, rfl, rfl⟩ ⟨rfl, rfl, rfl⟩
  case derive =>
    exact exec_keyOperationComplete_held hfind hquant hdead (keyComplete_derive hfind hphase hop) rfl ⟨rfl, rfl, rfl, rfl⟩ ⟨rfl, rfl, rfl⟩
  case unwrap =>
    have hrun := keyComplete_unwrap hfind hphase hop
    refine ⟨fun hnone => ?_, fun k hk => ?_⟩
    · rw [hnone] at hrun
      exact exec_keyOperationComplete_held hfind hquant hdead hrun rfl ⟨rfl, rfl, rfl, rfl⟩ ⟨rfl, rfl, rfl⟩
    · rw [hk] at hrun
      exact exec_keyOperationComplete_held hfind hquant hdead hrun rfl ⟨rfl, rfl, rfl, rfl⟩ ⟨rfl, rfl, rfl⟩
  case loadSak =>
    have hrun := keyComplete_loadSak hfind hphase hop
    refine ⟨fun hnone => ?_, fun k hk => ?_⟩
    · rw [show unwrapBlob s.dev o.input = none from hnone] at hrun
      exact exec_keyOperationComplete_held hfind hquant hdead hrun rfl ⟨rfl, rfl, rfl, rfl⟩ ⟨rfl, rfl⟩
    · rw [show unwrapBlob s.dev o.input = some k from hk] at hrun
      exact exec_keyOperationComplete_held hfind hquant hdead hrun rfl ⟨rfl, rfl, rfl, rfl⟩ ⟨rfl, rfl⟩
  case keyExport =>
    have hrun := keyComplete_export hfind hphase hop
    refine ⟨fun hserve => ?_, fun c hc => ?_, fun hwait => ?_⟩
    · rw [hopWaits_of_serves hserve, show hopServes s.dev = true from hserve, hwDraw_one_octets hserve, if_neg Bool.false_ne_true,
        if_neg Bool.false_ne_true.symm] at hrun
      exact exec_keyOperationComplete_held hfind hquant hdead hrun (hwDraw_frame s.dev 1) ⟨rfl, rfl, rfl, rfl⟩ ⟨rfl, rfl⟩
    · rw [hopWaits_of_refusal hc, hopServes_of_refusal hc, if_neg Bool.false_ne_true, if_pos rfl] at hrun
      exact exec_keyOperationComplete_held hfind hquant hdead hrun rfl ⟨rfl, rfl, rfl, rfl⟩ ⟨rfl, by simp [heldOp, hopSub, show hopRefusal s.dev = some c from hc]⟩
    · rw [show hopWaits s.dev = true from hwait, if_pos rfl] at hrun
      exact exec_eq_next rfl hrun
  case denied =>
    have hsak : sakCheck s.dev o = { o with status := St.denied, sub := 1 } := if_pos ⟨hop, hst, hvalid⟩
    refine ⟨_, exec_eq_next rfl (releaseDue_one hsrc hops hphase hdue), ?_, ?_⟩
    · have hils : (ringOuts r o.outs s.dev).ils = s.dev.ils := by rw [(hostWritten_ringOuts r o.outs s.dev).1]
      rw [hsak, storeOnRelease, if_pos (by decide : St.denied ≠ St.done)]
      exact hils
    · rw [releaseDue_one_ops r hops, hsak]; rfl
  case released =>
    have hsak : sakCheck s.dev o = o := if_neg fun ⟨hop, hst, hv⟩ => Bool.false_ne_true ((hsa hop hst).symm.trans hv)
    have hrun := releaseDue_one hsrc hops hphase hdue
    have hend := releaseDue_one_ops r hops
    have hw := hostWritten_ringOuts r o.outs s.dev
    rw [hsak] at hrun hend
    refine ⟨_, exec_eq_next rfl hrun, hend, fun i k hst hop hslot hkey => ?_, fun a x houts hbme => ?_, fun hop hst => ?_⟩
    · have hstore : storeOnRelease (ringOuts r o.outs s.dev) o = slotSet (ringOuts r o.outs s.dev) i (storedKey (ringOuts r o.outs s.dev) k) := by
        simp only [storeOnRelease, hst, ne_eq, not_true_eq_false, if_false, if_neg hop, hslot, hkey]
      rw [hstore, hw.storedKey_eq]
      exact ⟨(slotGet_slotSet ..).trans (if_pos rfl), fun j hj => ((slotGet_slotSet ..).trans (if_neg hj)).trans (hw.slotGet_eq j)⟩
    · have hout : ringOuts r o.outs s.dev = hostWr s.dev a x := by
        simp only [ringOuts, houts, List.foldl_cons, List.foldl_nil, fnWrite]
        exact if_pos hbme
      rw [storeOnRelease_frame, hout]
      exact hostRd_hostWr s.dev a x
    · have hstore : storeOnRelease (ringOuts r o.outs s.dev) o = saSet (ringOuts r o.outs s.dev) (o.aux.getD 0 0)
          { saGet (ringOuts r o.outs s.dev) (o.aux.getD 0 0) with keyed := true, key := o.material } := by
        simp only [storeOnRelease, hst, ne_eq, not_true_eq_false, if_false, if_pos hop]
      rw [hstore, hw.saGet_eq]
      exact (saGet_saSet ..).trans (if_pos rfl)

end Sys2Proof.Machine

/-! The timing of the device (O20): the pass count, the recorded reads, the fuses of the sources and the field island's edge. Nothing that an edge does
changes them, but for the count itself, the record of reads and the resets: one equation for each function that an edge reaches, callees first, so that a
caller's cites those of what it calls. A proof written (rfl) keeps its equation from being used by unfolding, which the kernel would have to repeat. -/

namespace Sys2Proof.Machine

/-- What says which pass and which edge it is: the pass count, the reads recorded in the pass, the fuses that give each source its level, and the field
island's last edge. -/
structure Timing where
  count : Nat
  recorded : List (Nat × Nat × Nat)
  fuses : Tab Nat
  edgeAt : Option Nat
  fieldUp : Bool

/-- The timing of a device. -/
def timing (d : Dev) : Timing := ⟨d.pas.count, d.pas.recorded, d.rst.fuses, d.fld.edgeAt, d.lkg.fieldUp⟩

/-- An update of the device that keeps the parts the timing is read from. -/
theorem timing_with (d : Dev) {p : Pas} {f : FieldIsland} {l : Lockgate} (hc : p.count = d.pas.count) (hr : p.recorded = d.pas.recorded)
    (hf : f.edgeAt = d.fld.edgeAt) (hl : l.fieldUp = d.lkg.fieldUp) (regs priv pinned spent chm rings ops opSeq slots lanes cmds msix msgs host mem keep life
      hop ils grd pcieBme tmp rdata crg bsn tag fmem cores mbx linkUp d3 numVfs pcie linkWidth linkSpeed fetchRing fetchCnt waitq fqPl fls sdh ofc rpl
      pmu bw meas free) :
    timing { d with
      regs := regs, priv := priv, pinned := pinned, spent := spent, pas := p, chm := chm, rings := rings, ops := ops, opSeq := opSeq, slots := slots,
      lanes := lanes, cmds := cmds, msix := msix, msgs := msgs, host := host, mem := mem, keep := keep, life := life, hop := hop, lkg := l, ils := ils,
      grd := grd, pcieBme := pcieBme, tmp := tmp, rdata := rdata, crg := crg, bsn := bsn, fld := f, tag := tag, fmem := fmem, cores := cores, mbx := mbx,
      linkUp := linkUp, d3 := d3, numVfs := numVfs, pcie := pcie, linkWidth := linkWidth, linkSpeed := linkSpeed, fetchRing := fetchRing,
      fetchCnt := fetchCnt, waitq := waitq, fqPl := fqPl, fls := fls, sdh := sdh, ofc := ofc, rpl := rpl, pmu := pmu, bw := bw, meas := meas, free := free } =
      timing d := by
  simp only [timing, hc, hr, hf, hl]

theorem timing_ite (c : Prop) [Decidable c] (a b : Dev) : timing (if c then a else b) = if c then timing a else timing b := apply_ite timing c a b

theorem timing_foldl {α : Type} {g : Dev → α → Dev} (h : ∀ d x, timing (g d x) = timing d) (l : List α) (d : Dev) :
    timing (l.foldl g d) = timing d := by
  induction l generalizing d with
  | nil => rfl
  | cons x l ih => rw [List.foldl_cons, ih, h]

theorem timing_onRst {g : Rst → Rst} {d : Dev} (h : (g d.rst).fuses = d.rst.fuses) : timing (onRst d g) = timing d := by
  simp only [timing, onRst, h]

theorem timing_fireVec (d f v) : timing (fireVec d f v) = timing d := by
  simp only [fireVec, timing_ite, ite_self, timing_with]

theorem timing_ringSet (d r x) : timing (ringSet d r x) = timing d := (rfl)

theorem timing_ringFire (d r) : timing (ringFire d r) = timing d := by
  simp only [ringFire, timing_fireVec, timing_ringSet]

theorem timing_modTimer (d r) : timing (modTimer d r) = timing d := by
  simp only [modTimer, timing_ite, ite_self, timing_ringFire]

theorem timing_inlineVec (d) : timing (inlineVec d) = timing d := by
  simp only [inlineVec, timing_ite, ite_self, timing_fireVec]

theorem timing_drawWord (d) : timing (drawWord d).2 = timing d := (rfl)

theorem timing_measure (d) : timing (measure d) = timing d := by
  simp only [measure, timing_foldl, implies_true, timing_ite, ite_self, timing_with, timing_drawWord]

theorem timing_freePosted (d) : timing (freePosted d) = timing d := (rfl)

theorem timing_answered (d b) : timing (answered d b) = timing d := by
  simp only [answered, timing_ite, ite_self, timing_with]

theorem timing_answerSeen (d i) : timing (answerSeen d i) = timing d := by
  simp only [answerSeen, timing_ite, ite_self, timing_answered]

theorem timing_coreSet (d m c) : timing (coreSet d m c) = timing d := (rfl)

theorem timing_onCore (d m f) : timing (onCore d m f) = timing d := (rfl)

theorem timing_pendSet (m vec d) : timing (pendSet m vec d) = timing d := (rfl)

theorem timing_presentCore (d m) : timing (presentCore d m) = timing d := by
  simp only [presentCore, timing_foldl, implies_true, timing_ite, ite_self, timing_with, timing_answerSeen, timing_pendSet]

theorem timing_rgSet (d a v) : timing (rgSet d a v) = timing d := (rfl)

theorem timing_pmuStore (d m lo v) : timing (pmuStore d m lo v) = timing d := (rfl)

theorem timing_rgOr (d a m) : timing (rgOr d a m) = timing d := (rfl)

theorem timing_pmuAdvance (m lo ovf n d) : timing (pmuAdvance m lo ovf n d) = timing d := by
  simp only [pmuAdvance, timing_ite, ite_self, timing_pmuStore, timing_rgOr]

theorem timing_pmuEvents (m pl codes d) : timing (pmuEvents m pl codes d) = timing d := by
  simp only [pmuEvents, timing_foldl, implies_true, timing_ite, ite_self, timing_pmuAdvance]

theorem timing_pmuRetire (m pl codes d) : timing (pmuRetire m pl codes d) = timing d := by
  simp only [pmuRetire, timing_ite, ite_self, timing_pmuEvents, timing_pmuAdvance]

theorem timing_passResume (d m) : timing (passResume d m) = timing d := by
  simp only [passResume]
  split <;> simp only [timing_ite, ite_self, timing_pmuRetire, timing_coreSet]

theorem timing_onRpl (d f) : timing (onRpl d f) = timing d := (rfl)

theorem timing_sectSet (d m s) : timing (sectSet d m s) = timing d := (rfl)

theorem timing_sectOpen (d m) : timing (sectOpen d m) = timing d := (rfl)

theorem timing_rplSnap (pass d) : timing (rplSnap pass d) = timing d := by
  simp only [rplSnap, timing_foldl, implies_true, timing_ite, ite_self, timing_sectOpen, timing_onRpl]

theorem timing_onLife (d f) : timing (onLife d f) = timing d := (rfl)

theorem timing_svnBlow (d) : timing (svnBlow d) = timing d := by
  simp only [svnBlow, timing_ite, ite_self, timing_onLife]

theorem timing_rgAdd (d a k) : timing (rgAdd d a k) = timing d := (rfl)

theorem timing_stagePut (o d) : timing (stagePut o d) = timing d := (rfl)

theorem timing_mpuRecord (m ident access a detail d) : timing (mpuRecord m ident access a detail d) = timing d := by
  simp only [mpuRecord, timing_ite, ite_self, timing_rgAdd, timing_rgSet]

theorem timing_loseResv (d own field a n) : timing (loseResv d own field a n) = timing d := (rfl)

theorem timing_engWrite (m ident col : ℕ) (l : List (ℕ × ℕ)) (ws : List Word) (d : Dev) : timing (engWrite m ident col l ws d).2 = timing d := by
  induction l generalizing ws d with
  | nil => rfl
  | cons x l ih =>
    unfold engWrite
    split
    · exact timing_mpuRecord ..
    · rw [ih, timing_loseResv, timing_with] <;> rfl

theorem timing_engWriteAt (d m ident col a ws) : timing (engWriteAt d m ident col a ws).2 = timing d := by
  simp only [engWriteAt, timing_engWrite]

/-- The defining equation, got from the function as a whole: the kernel would evaluate the writes to check the applied one. -/
theorem timing_stageWrite (ws : List Word) (d : Dev) : timing (stageWrite ws d).2 = timing d := by
  have hf : stageWrite = stageWrite := rfl
  conv_rhs at hf => delta stageWrite
  have hd := congrFun (congrFun hf ws) d
  dsimp only at hd
  rw [hd]
  split
  next e h => rw [← timing_engWriteAt d, h]
  next e h => rw [timing_engWriteAt, ← timing_engWriteAt d, h]

theorem timing_rplLost (pass d) : timing (rplLost pass d) = timing d := by
  simp only [rplLost, timing_rgAdd, timing_stagePut, timing_stageWrite, timing_onRpl]

theorem timing_stageRecord (pass : ℕ) (o : Octets) (d : Dev) : timing (stageRecord pass o d) = timing d := by
  unfold stageRecord
  split
  · exact timing_rplLost ..
  · have h := timing_stageWrite (densePack o) d
    split
    next e hw => rw [timing_stagePut, ← h, hw]
    next e hw => rw [timing_rplLost, ← h, hw]

theorem timing_recordClose (d) : timing (recordClose d) = timing d := by
  unfold recordClose
  split <;> simp only [timing_ite, ite_self, timing_onRpl, timing_stageRecord]

theorem timing_recordCloseAll (n : ℕ) (d : Dev) : timing (recordCloseAll n d) = timing d := by
  induction n generalizing d with
  | zero => rfl
  | succ n ih => simp only [recordCloseAll, timing_ite, ih, timing_recordClose, ite_self]

theorem timing_regRead_drawCycle (d) : timing (regRead.drawCycle d).2 = timing d := (rfl)

theorem timing_onHop (d f) : timing (onHop d f) = timing d := (rfl)

theorem timing_pvSet (d m a v) : timing (pvSet d m a v) = timing d := (rfl)

theorem timing_swDrawRead (m d) : timing (swDrawRead m d).2 = timing d := by
  unfold swDrawRead
  repeat' split
  all_goals simp only [timing_onHop, timing_pvSet]

theorem timing_rdSet (d m v) : timing (rdSet d m v) = timing d := (rfl)

theorem timing_hopRawDataRead (m arrived d) : timing (hopRawDataRead m arrived d) = timing d := by
  simp only [hopRawDataRead, timing_ite, ite_self, timing_rdSet, timing_onHop, timing_drawWord]

theorem timing_rawBusRead (m d) : timing (rawBusRead m d) = timing d := by
  simp only [rawBusRead, timing_ite, ite_self, timing_rdSet, timing_drawWord, timing_hopRawDataRead]

theorem timing_pmuSet (d m x) : timing (pmuSet d m x) = timing d := (rfl)

theorem timing_sampleData (g d) : timing (sampleData g d).2 = timing d := by
  simp only [sampleData]
  split <;> simp only [timing_pmuSet]

theorem timing_pairRead (m a : ℕ) {get : ℕ → Dev → Word × Dev} (h : ∀ a d, timing (get a d).2 = timing d) (d : Dev) :
    timing (pairRead m a get d).2 = timing d := by
  unfold pairRead
  split
  · rfl
  · dsimp only
    split
    · rw [timing_with, h, h] <;> rfl
    · exact h ..

theorem timing_pmuSettle (m lo d) : timing (pmuSettle m lo d) = timing d := by
  simp only [pmuSettle, timing_ite, ite_self, timing_drawWord, timing_rgSet, timing_pmuSet]

theorem timing_pmuRead (g k d) : timing (pmuRead g k d).2 = timing d := by
  simp only [pmuRead]
  repeat' split
  all_goals simp only [timing_drawWord, timing_pmuSettle]

/-- A read by a master that is not a core is not recorded. -/
theorem timing_regRead {m : ℕ} (hm : isCore m = false) (dl : Dev) (pl a : ℕ) (d : Dev) : timing (regRead dl m pl a d).2 = timing d := by
  have hn : ∀ (kind : ℕ) (r : Word × Dev), noteRead m kind r = r := by simp only [noteRead, hm, Bool.false_eq_true, if_false, implies_true]
  unfold regRead
  simp only [hn]
  split_ifs
  · exact timing_regRead_drawCycle d
  · exact timing_swDrawRead ..
  · rfl
  · exact timing_rawBusRead ..
  · split
    · split_ifs
      · rfl
      · exact timing_sampleData ..
      · exact timing_pairRead _ _ (fun _ _ => timing_pmuRead ..) _
    · exact timing_pairRead _ _ (fun _ _ => rfl) _

theorem timing_hostWr (d a o) : timing (hostWr d a o) = timing d := (rfl)

theorem timing_fnWrite (d f a o) : timing (fnWrite d f a o) = timing d := by
  simp only [fnWrite, timing_ite, ite_self, timing_hostWr, timing_rgAdd]

theorem timing_memWrOct (d dense a o) : timing (memWrOct d dense a o) = timing d := (rfl)

theorem timing_engOuts (o : Op) (l : List (ℕ × Octets)) (d : Dev) : timing (engOuts o l d).2 = timing d := by
  induction l generalizing d with
  | nil => rfl
  | cons x l ih =>
    unfold engOuts
    have h := timing_engWriteAt d o.engine o.served (ctxCol o.served) x.1 (packOct o.dense x.2)
    split
    next e hw => rw [ih, ← h, hw]
    next => exact h

theorem timing_writeOuts (d o) : timing (writeOuts d o).2 = timing d := by
  unfold writeOuts
  repeat' split
  all_goals simp only [timing_foldl, implies_true, timing_fnWrite, timing_memWrOct, timing_engOuts]

theorem timing_written (d o) : timing (written d o).1 = timing d := by
  simp only [written, timing_writeOuts]

theorem timing_setOp (d o) : timing (setOp d o) = timing d := (rfl)

theorem timing_coreAllows (d m pl right a n) : timing (coreAllows d m pl right a n).2 = timing d := by
  unfold coreAllows
  split
  · rfl
  · split <;> simp only [timing_mpuRecord]

theorem timing_pushInput (d core cls key pass data) : timing (pushInput d core cls key pass data) = timing d := (rfl)

theorem timing_noteMem (d mems op) : timing (noteMem d mems op) = timing d := (rfl)

theorem timing_postFq (d k pass) {t} (h : postFq d k pass = some t) : timing t = timing d := by
  unfold postFq at h
  repeat' split at h
  all_goals cases h
  all_goals simp only [timing_ite, ite_self, timing_coreAllows, timing_memWrOct, timing_setOp, timing_pushInput, timing_noteMem]

theorem timing_postFqs (n : ℕ) (k : ℕ × ℕ) (pass : ℕ) (d : Dev) : timing (postFqs n k pass d) = timing d := by
  induction n generalizing d with
  | zero => rfl
  | succ n ih =>
    unfold postFqs
    split
    next h => rw [ih, timing_postFq _ _ _ h]
    next => rfl

theorem timing_dropOp (d id) : timing (dropOp d id) = timing d := (rfl)

theorem timing_queueBarge (d queue b) : timing (queueBarge d queue b) = timing d := (rfl)

theorem timing_cmdSet (d blk master c) : timing (cmdSet d blk master c) = timing d := (rfl)

theorem timing_cmdDone (d blk master st sub extra pass) : timing (cmdDone d blk master st sub extra pass) = timing d := (rfl)

theorem timing_report (d o due pass) : timing (report d o due pass) = timing d := by
  unfold report
  repeat' split
  all_goals simp only [timing_foldl, implies_true, timing_setOp, timing_postFqs, timing_rgAdd, timing_dropOp, timing_queueBarge, timing_noteMem,
    timing_cmdDone]

theorem timing_wipeReport (d o due pass) : timing (wipeReport d o due pass) = timing d := by
  simp only [wipeReport, timing_report]

theorem timing_deliver (d o due pass) : timing (deliver d o due pass) = timing d := by
  simp only [deliver, timing_written, timing_wipeReport]

theorem timing_mgmtDone (d o result) : timing (mgmtDone d o result) = timing d := by
  simp only [mgmtDone, timing_deliver]

/-- A selection word is outside the chamber and the blocks that have writes of their own. -/
theorem regRow_selection : ∀ a ∈ selectRegs, (regRow a).any (fun r => decide (r.chm = 0)) = true ∧
    a >>> 16 ∉ [0x07, 0x09, 0x0A, 0x18, 0x20, 0x21, 0x22, 0x23, 0x24] := by decide

theorem hostCtlWrite_selection {a : ℕ} (h : a ∈ selectRegs) (pl v d) : hostCtlWrite 0x40 pl a v d = none := by
  simp only [selectRegs, List.mem_cons, List.not_mem_nil, or_false] at h
  rcases h with rfl | rfl | rfl | rfl | rfl | rfl | rfl <;> rfl

/-- The PF's write of a selection word, ahead of its read of a register, is a plain one. -/
theorem busWrite_selection {a : ℕ} (h : a ∈ selectRegs) (pl v d) : ∃ r, busWrite 0x40 pl a v d = plainWrite r 0x40 a v d := by
  obtain ⟨hrow, hblock⟩ := regRow_selection a h
  obtain ⟨r, hr, hchm⟩ : ∃ r, regRow a = some r ∧ r.chm = 0 := by
    cases hr : regRow a with
    | none => simp [hr] at hrow
    | some r => exact ⟨r, rfl, by simpa [hr] using hrow⟩
  obtain ⟨hmpu, hlkg, hwhf, hpmu, h20, h21, h22, h23, h24⟩ : a >>> 16 ≠ 0x07 ∧ a >>> 16 ≠ 0x09 ∧ a >>> 16 ≠ 0x0A ∧ a >>> 16 ≠ 0x18 ∧ a >>> 16 ≠ 0x20 ∧
      a >>> 16 ≠ 0x21 ∧ a >>> 16 ≠ 0x22 ∧ a >>> 16 ≠ 0x23 ∧ a >>> 16 ≠ 0x24 := by simpa using hblock
  have hfield : ¬ (0x20 ≤ a >>> 16 ∧ a >>> 16 ≤ 0x24) := by omega
  have hm : isFieldMaster 0x40 = false := rfl
  exact ⟨r, by simp only [busWrite, hm, Bool.false_eq_true, false_and, if_false, if_neg hmpu, hpmu, hwhf, hr, hchm, ne_eq, not_true_eq_false,
    if_neg hfield, if_neg hlkg, hostCtlWrite_selection h]⟩

theorem timing_plainWrite (r m a v d) : timing (plainWrite r m a v d) = timing d := by
  simp only [plainWrite, timing_ite, timing_rgSet, timing_pvSet, ite_self]

theorem timing_regReadNow (d : Dev) (id : ℕ) : timing (regReadNow d id) = timing d := by
  unfold regReadNow
  split
  · rfl
  next o _ =>
    have hsel : ∀ v, timing (if o.f 12 4 ∈ selectRegs then busWrite 0x40 0 (o.f 12 4) v d else d) = timing d := by
      intro v
      split
      next h =>
        obtain ⟨r, hr⟩ := busWrite_selection h 0 v d
        rw [hr, timing_plainWrite]
      next => rfl
    have hread : ∀ (c : Bool) (dl e : Dev), timing (if c then ((0 : Word), e) else regRead dl 0x40 0 (o.f 8 4) e).2 = timing e := by
      intro c dl e
      split
      · rfl
      · exact timing_regRead (by decide) ..
    split
    · rfl
    · exact (timing_mgmtDone ..).trans ((hread ..).trans (hsel _))

theorem timing_regReads (d : Dev) : timing (regReads d) = timing d := timing_foldl timing_regReadNow _ _

theorem timing_noteReset (lvl src core fresh d) : timing (noteReset lvl src core fresh d) = timing d := (rfl)

theorem timing_onSdh (d f) : timing (onSdh d f) = timing d := (rfl)

theorem timing_sdhReset (keep d) : timing (sdhReset keep d) = timing d := (rfl)

theorem timing_mbxSet (d c x) : timing (mbxSet d c x) = timing d := (rfl)

theorem timing_mbxGone (m d) : timing (mbxGone m d) = timing d := by
  simp only [mbxGone, timing_foldl, implies_true, timing_ite, ite_self, timing_mbxSet]

theorem timing_rplItem (m kind words d) : timing (rplItem m kind words d) = timing d := by
  simp only [rplItem, timing_ite, ite_self, timing_sectSet]

theorem timing_authSpent (d) : timing (authSpent d) = timing d := by
  unfold authSpent
  split <;> simp only [timing_ite, ite_self, timing_with]

theorem timing_pushDiscard (d) : timing (pushDiscard d) = timing d := by
  simp only [pushDiscard, timing_ite, ite_self, timing_queueBarge]

theorem timing_moncInc (d i) : timing (moncInc d i) = timing d := (rfl)

theorem timing_chmEmpty (d) : timing (chmEmpty d) = timing d := by
  simp only [chmEmpty, timing_with, timing_authSpent, timing_pushDiscard, timing_moncInc]

theorem timing_pmuReset (m d) : timing (pmuReset m d) = timing d := (rfl)

theorem timing_hopCoreReset (m d) : timing (hopCoreReset m d) = timing d := (rfl)

theorem timing_coreReset (m d) : timing (coreReset m d) = timing d := by
  simp only [coreReset, timing_ite, ite_self, timing_with, timing_mbxGone, timing_rplItem, timing_chmEmpty, timing_pmuReset, timing_hopCoreReset,
    timing_coreSet, timing_onRst, timing_rgSet]

theorem timing_onTag (d f) : timing (onTag d f) = timing d := (rfl)

theorem timing_tagBlock (pcb inf d) : timing (tagBlock pcb inf d) = timing d := (rfl)

theorem timing_tagBlocks (l : List Octets) (d : Dev) : timing (tagBlocks l d) = timing d := by
  fun_induction tagBlocks with
  | case1 => rfl
  | case2 => exact timing_tagBlock ..
  | case3 o r d h ih => rw [ih, timing_tagBlock]

theorem timing_tagAnswer (d data sw) : timing (tagAnswer d data sw) = timing d := by
  simp only [tagAnswer, timing_ite, ite_self, timing_tagBlocks, timing_onTag, timing_rgAdd]

theorem timing_tagWaitLost (d) : timing (tagWaitLost d) = timing d := by
  simp only [tagWaitLost, timing_ite, ite_self, timing_tagAnswer, timing_onTag]

theorem timing_txHead (m d) : timing (txHead m d) = timing d := by
  simp only [txHead, timing_ite, ite_self, timing_rgSet]

theorem timing_lkgReset (d) : timing (lkgReset d) = timing d := by
  simp only [lkgReset, timing_foldl, implies_true, timing_with, timing_tagWaitLost, timing_rgAdd, timing_txHead]

theorem timing_challengeWipe (d) : timing (challengeWipe d) = timing d := (rfl)

theorem timing_drawOct (d n) : timing (drawOct d n).2 = timing d := (rfl)

theorem timing_tagCopySet (d i c x) : timing (tagCopySet d i c x) = timing d := (rfl)

theorem timing_tagCut (d i v how) : timing (tagCut d i v how) = timing d := by
  unfold tagCut
  split <;> simp only [timing_ite, ite_self, timing_drawOct, timing_tagCopySet]

theorem timing_accessCut (a how d) : timing (accessCut a how d) = timing d := by
  simp only [accessCut, timing_ite, ite_self, timing_tagCut]

theorem timing_tagFieldReset (d) : timing (tagFieldReset d) = timing d := by
  unfold tagFieldReset
  repeat' split
  all_goals simp only [timing_foldl, implies_true, timing_drawWord, timing_accessCut, timing_cmdSet, timing_onTag]

theorem timing_rootTorn (d) : timing (rootTorn d) = timing d := (rfl)

theorem timing_tmpEvent (s d) : timing (tmpEvent s d) = timing d := by
  simp only [tmpEvent, timing_ite, ite_self, timing_with, timing_rgSet]

theorem timing_hopFault (cause d) : timing (hopFault cause d) = timing d := by
  simp only [hopFault, timing_ite, ite_self, timing_tmpEvent, timing_onHop]

theorem timing_hopCheck (d) : timing (hopCheck d) = timing d := by
  simp only [hopCheck, timing_ite, ite_self, timing_hopFault]

theorem timing_hopRestart (d) : timing (hopRestart d) = timing d := by
  simp only [hopRestart, timing_hopCheck, timing_onHop]

theorem timing_rawEnd (d) : timing (rawEnd d) = timing d := by
  simp only [rawEnd, timing_ite, ite_self, timing_onHop, timing_hopRestart]

theorem timing_endTowpath (d) : timing (endTowpath d) = timing d := by
  simp only [endTowpath, timing_ite, ite_self, timing_rawEnd, timing_onLife]

theorem timing_lifeReset (d) : timing (lifeReset d) = timing d := by
  simp only [lifeReset, timing_ite, ite_self, timing_rootTorn, timing_onLife, timing_endTowpath]

theorem timing_ofcIfSet (d i x) : timing (ofcIfSet d i x) = timing d := (rfl)

theorem timing_ofcOff (i present d) : timing (ofcOff i present d) = timing d := (rfl)

theorem timing_ofcReset (d) : timing (ofcReset d) = timing d := (rfl)

theorem timing_crgDiscard (d) : timing (crgDiscard d) = timing d := (rfl)

theorem timing_planeSet (d p x) : timing (planeSet d p x) = timing d := (rfl)

theorem timing_resumeErase (p d) : timing (resumeErase p d) = timing d := by
  simp only [resumeErase]
  split <;> simp only [timing_planeSet, timing_setOp]

theorem timing_flsHostReset (d) : timing (flsHostReset d) = timing d := by
  simp only [flsHostReset, timing_foldl, implies_true, timing_ite, ite_self, timing_with, timing_resumeErase, timing_planeSet]

theorem timing_clearCounts (d) : timing (clearCounts d) = timing d := by
  simp only [clearCounts, timing_foldl, implies_true, timing_with, timing_rgSet]

theorem timing_tornRecord (last d p) : timing (tornRecord last d p) = timing d := (rfl)

theorem timing_tornPage (d p t b g) : timing (tornPage d p t b g).1 = timing d := by
  simp only [tornPage]
  split <;> simp only [timing_drawOct]

theorem timing_foldl_fst {α β : Type} {g : Dev × β → α → Dev × β} (h : ∀ s x, timing (g s x).1 = timing s.1) (l : List α) (s : Dev × β) :
    timing (l.foldl g s).1 = timing s.1 := by
  induction l generalizing s with
  | nil => rfl
  | cons x l ih => rw [List.foldl_cons, ih, h]

theorem timing_tornBlock (d : Dev) (t : Tab FlashPage) (b : ℕ) : timing (tornBlock d t b).1 = timing d := by
  refine timing_foldl_fst (fun s e => ?_) _ _
  exact timing_drawOct ..

theorem timing_cutOp (p o d) : timing (cutOp p o d) = timing d := by
  simp only [cutOp, timing_ite, ite_self, timing_tornRecord, timing_planeSet, timing_tornPage, timing_tornBlock]
  split <;> simp only [timing_drawWord]

theorem timing_flsCutPlane (d p) : timing (flsCutPlane d p) = timing d := by
  simp only [flsCutPlane, timing_foldl, implies_true, timing_cutOp, timing_planeSet]

theorem timing_flsCut (d) : timing (flsCut d) = timing d := by
  simp only [flsCut, timing_foldl, implies_true, timing_flsCutPlane]

theorem timing_swDraws (d n) : timing (swDraws d n).2 = timing d := by
  unfold swDraws
  split <;> simp only [timing_onHop]

theorem timing_fillOne (x : Dev × ℕ × Tab (List ℕ)) (i : ℕ) : timing (fillOne x i).1 = timing x.1 := by
  unfold fillOne
  dsimp only
  split
  · rfl
  · exact timing_swDraws ..

theorem timing_fillStores (cycles : ℕ) (d : Dev) : timing (fillStores cycles d) = timing d := by
  refine timing_foldl_fst (fun s m => ?_) _ _
  dsimp only
  split
  · rfl
  · exact timing_swDraws ..

theorem timing_hopFill (d : Dev) : timing (hopFill d).1 = timing d := by
  simp only [hopFill]
  split
  · rw [timing_onHop, timing_fillStores, timing_foldl_fst timing_fillOne, timing_onHop]
  · exact timing_onHop ..

theorem timing_hwRefill (d) : timing (hwRefill d) = timing d := by
  simp only [hwRefill, timing_ite, ite_self, timing_onHop]

theorem timing_hwDraw (d n) : timing (hwDraw d n).2 = timing d := by
  simp only [hwDraw, timing_hwRefill, timing_onHop]

theorem timing_challengeSend (d) : timing (challengeSend d) = timing d := by
  simp only [challengeSend, timing_ite, ite_self, timing_hwDraw, timing_queueBarge]

theorem timing_edgeDraws (d) : timing (edgeDraws d) = timing d := by
  simp only [edgeDraws, timing_foldl, implies_true, timing_ite, ite_self, timing_hopFill, timing_queueBarge, timing_challengeSend]

theorem timing_debit (d a c) : timing (debit d a c) = timing d := (rfl)

theorem timing_bwAdd (i n d) : timing (bwAdd i n d) = timing d := (rfl)

theorem timing_laneDebit (d n src c ch) : timing (laneDebit d n src c ch) = timing d := by
  simp only [laneDebit, timing_ite, ite_self, timing_debit]

theorem timing_laneTake (d n src k o) : timing (laneTake d n src k o) = timing d := by
  simp only [laneTake, timing_bwAdd, timing_laneDebit]

theorem timing_hashDebit (d m k src c) : timing (hashDebit d m k src c) = timing d := (rfl)

theorem timing_laneContinue (d o) : timing (laneContinue d o) = timing d := by
  unfold laneContinue
  repeat' split
  all_goals simp only [timing_ite, ite_self, timing_debit, timing_setOp, timing_laneTake, timing_hashDebit]

theorem timing_earlyPlain (run d o k) : timing (earlyPlain run d o k) = timing d := by
  unfold earlyPlain
  split
  · rfl
  · split <;> simp only [timing_ite, ite_self, timing_writeOuts]

theorem timing_partAdmit (d o) : timing (partAdmit d o) = timing d := by
  simp only [partAdmit]
  split <;> simp only [timing_ite, ite_self, timing_laneContinue, timing_earlyPlain]

theorem timing_unreserve (d id) : timing (unreserve d id) = timing d := (rfl)

theorem timing_lateDrop (d o) : timing (lateDrop d o) = timing d := (rfl)

theorem timing_endWith (d o st sub due pass) : timing (endWith d o st sub due pass) = timing d := by
  simp only [endWith, timing_ite, ite_self, timing_unreserve, timing_lateDrop, timing_deliver]

theorem timing_rejectOp (d o f) : timing (rejectOp d o f) = timing d := by
  simp only [rejectOp, timing_endWith]

theorem timing_fwReject (d o mpu f) : timing (fwReject d o mpu f) = timing d := by
  unfold fwReject
  split <;> simp only [timing_ite, ite_self, timing_rejectOp, timing_mpuRecord]

theorem timing_slotSet (d i s) : timing (slotSet d i s) = timing d := (rfl)

theorem timing_reserve (d o slot len) : timing (reserve d o slot len).1 = timing d := (rfl)

theorem timing_admitPlain (d o bound) : timing (admitPlain d o bound) = timing d := (rfl)

theorem timing_importAdmit (d o) : timing (importAdmit d o) = timing d := by
  simp only [importAdmit]
  split <;> simp only [timing_fwReject, timing_reserve, timing_admitPlain]

theorem timing_exportAdmit (d o) : timing (exportAdmit d o) = timing d := by
  simp only [exportAdmit]
  split <;> simp only [timing_ite, ite_self, timing_fwReject, timing_admitPlain]

theorem timing_eraseAdmit (d o) : timing (eraseAdmit d o) = timing d := by
  simp only [eraseAdmit]
  split <;> simp only [timing_rejectOp, timing_admitPlain]

theorem timing_exhaustNotice (d i pass) : timing (exhaustNotice d i pass) = timing d := by
  simp only [exhaustNotice, timing_pushInput, timing_rgSet]

theorem timing_countUse (d i pass) : timing (countUse d i pass) = timing d := by
  simp only [countUse, timing_ite, ite_self, timing_slotSet, timing_exhaustNotice]

theorem timing_childAdmit (d o) : timing (childAdmit d o) = timing d := by
  simp only [childAdmit]
  split <;> simp only [timing_fwReject, timing_reserve, timing_countUse, timing_admitPlain]

theorem timing_loadSakAdmit (d o) : timing (loadSakAdmit d o) = timing d := by
  simp only [loadSakAdmit]
  split <;> simp only [timing_fwReject, timing_admitPlain]

theorem timing_finish (d o) : timing (finish d o) = timing d := by
  simp only [finish, timing_ite, ite_self, timing_lateDrop, timing_unreserve, timing_setOp, timing_deliver]

theorem timing_saSet (d s x) : timing (saSet d s x) = timing d := (rfl)

theorem timing_clearKeyAdmit (d o) : timing (clearKeyAdmit d o) = timing d := by
  simp only [clearKeyAdmit]
  split <;> simp only [timing_rejectOp, timing_finish, timing_saSet]

theorem timing_engRead (d m ident col a n) : timing (engRead d m ident col a n).2 = timing d := by
  unfold engRead
  split <;> simp only [timing_mpuRecord]

theorem timing_unitSet (d u x) : timing (unitSet d u x) = timing d := (rfl)

theorem timing_loadImageAdmit_loadGo (d o us a n) : timing (loadImageAdmit.loadGo d o us a n) = timing d := by
  simp only [loadImageAdmit.loadGo, timing_foldl, implies_true, timing_ite, ite_self, timing_engRead, timing_unitSet, timing_endWith,
    timing_admitPlain]

theorem timing_loadImageAdmit (d o) : timing (loadImageAdmit d o) = timing d := by
  simp only [loadImageAdmit, timing_ite, timing_rejectOp]
  repeat' split
  all_goals simp only [timing_rejectOp, timing_loadImageAdmit_loadGo]

theorem timing_tmpAssert (s d) : timing (tmpAssert s d) = timing d := by
  simp only [tmpAssert, timing_ite, ite_self, timing_tmpEvent, timing_rgSet]

theorem timing_tamperEvent (s d) : timing (tamperEvent s d) = timing d := by
  simp only [tamperEvent, timing_ite, ite_self, timing_tmpAssert, timing_tmpEvent]

theorem timing_wccFail (seg m a stage d) : timing (wccFail seg m a stage d) = timing d := by
  simp only [wccFail, timing_rgAdd, timing_rgSet, timing_tamperEvent]

theorem timing_opWcc (d o) {t} (h : opWcc d o = some t) : timing t = timing d := by
  unfold opWcc at h
  repeat' split at h
  all_goals cases h
  all_goals simp only [timing_wccFail]

theorem timing_stageDeltas (d sender ds) : timing (stageDeltas d sender ds) = timing d := (rfl)

theorem timing_stageAdmit (d : Dev) (o : Op) : timing (stageAdmit d o) = timing d := by
  simp only [stageAdmit]
  have h : ∀ (c c' : Prop) [Decidable c] [Decidable c'] (a n : ℕ),
      timing (if c then (true, d) else if c' then (false, d) else engRead d 0xA0 o.served (ctxCol o.served) a n).2 = timing d := by
    intro c c' _ _ a n
    split
    · rfl
    · split
      · rfl
      · exact timing_engRead ..
  split
  · rw [timing_rejectOp, h]
  · split
    next hw => rw [timing_rejectOp, timing_opWcc _ _ hw, h]
    next => rw [timing_endWith, timing_stageDeltas, h]

theorem timing_commitAdmit (d o) : timing (commitAdmit d o) = timing d := by
  unfold commitAdmit
  split
  · rfl
  · split <;> simp only [timing_with, timing_rejectOp, timing_setOp]

theorem timing_discardAdmit (d o) : timing (discardAdmit d o) = timing d := by
  simp only [discardAdmit, timing_with, timing_rejectOp]

theorem timing_offerCmd (d o) : timing (offerCmd d o) = timing d := by
  simp only [offerCmd, timing_ite, ite_self, timing_importAdmit, timing_exportAdmit, timing_eraseAdmit, timing_childAdmit, timing_loadSakAdmit,
    timing_clearKeyAdmit, timing_loadImageAdmit, timing_stageAdmit, timing_commitAdmit, timing_discardAdmit]

theorem timing_offerCmds (d) : timing (offerCmds d) = timing d := by
  simp only [offerCmds, timing_foldl, implies_true, timing_ite, ite_self, timing_offerCmd]

theorem timing_fqOp (mk base core pl h d) : timing (fqOp mk base core pl h d).2 = timing d := by
  simp only [fqOp, timing_coreAllows]

theorem timing_addOp (d o) : timing (addOp d o) = timing d := (rfl)

theorem timing_fqFetch (mk : ℕ → OpSrc) (base headReg core pl n : ℕ) (d : Dev) : timing (fqFetch mk base headReg core pl n d) = timing d := by
  induction n generalizing d with
  | zero => rfl
  | succ n ih => simp only [fqFetch, timing_ite, ih, timing_addOp, timing_rgSet, timing_fqOp, ite_self]

theorem timing_fqResume (mk base headReg core d) : timing (fqResume mk base headReg core d) = timing d := by
  simp only [fqResume, timing_ite, ite_self, timing_fqFetch]

theorem timing_requestEntry (d o) : timing (requestEntry d o) = timing d := by
  simp only [requestEntry, timing_ite, ite_self, timing_with, timing_addOp, timing_endWith]

theorem timing_takeEntries (d) : timing (takeEntries d) = timing d := by
  simp only [takeEntries, timing_foldl, implies_true, timing_with, timing_fqResume, timing_requestEntry]

theorem timing_ringReject (d o f) : timing (ringReject d o f) = timing d := by
  simp only [ringReject, timing_ite, ite_self, timing_rejectOp, timing_rgAdd]

theorem timing_ivDraw (d o) : timing (ivDraw d o).1 = timing d := by
  simp only [ivDraw]
  repeat' split
  all_goals simp only [timing_debit, timing_hwDraw]

theorem timing_laneAdmit (d o) {t} (h : laneAdmit d o = some t) : timing t.1 = timing d := by
  simp only [laneAdmit] at h
  repeat' split at h
  all_goals cases h
  all_goals simp only [timing_hashDebit, timing_laneTake, timing_ivDraw]

theorem timing_admitLane (d : Dev) (o : Op) {t : Dev} (h : admitLane d o = some t) : timing t = timing d := by
  unfold admitLane at h
  split at h
  · cases h
  next e x hl =>
    rw [← timing_laneAdmit d o hl]
    dsimp only at h
    split at h <;> cases h <;> simp only [timing_endWith, timing_earlyPlain, timing_setOp, timing_ite, timing_countUse, ite_self]

theorem timing_curveSet (d s x) : timing (curveSet d s x) = timing d := (rfl)

theorem timing_jobAdmit (d o) {t} (h : jobAdmit d o = some t) : timing t.1 = timing d := by
  simp only [jobAdmit] at h
  repeat' split at h
  all_goals cases h
  all_goals simp only [timing_debit, timing_setOp, timing_rgAdd, timing_unitSet, timing_reserve, timing_countUse, timing_curveSet]

theorem timing_lookupAdmit (d o) {t} (h : lookupAdmit d o = some t) : timing t.1 = timing d := by
  unfold lookupAdmit at h
  repeat' split at h
  all_goals cases h
  all_goals simp only [timing_debit]

theorem timing_envAdmit (d o) {t} (h : envAdmit d o = some t) : timing t.1 = timing d := by
  unfold envAdmit at h
  repeat' split at h
  all_goals cases h
  all_goals simp only [timing_debit]

theorem timing_chmForeign (d) : timing (chmForeign d) = timing d := (rfl)

theorem timing_chmRefill (d err) : timing (chmRefill d err) = timing d := by
  simp only [chmRefill, timing_with, timing_pushDiscard, timing_moncInc]

theorem timing_chmPut (prot a v d) : timing (chmPut prot a v d) = timing d := by
  simp only [chmPut, timing_ite, ite_self, timing_with, timing_chmRefill]

theorem timing_chmWrite (m a v d) : timing (chmWrite m a v d) = timing d := by
  simp only [chmWrite, timing_ite, ite_self, timing_chmPut, timing_chmForeign]

theorem timing_chamberWriteOp (d o) : timing (chamberWriteOp d o) = timing d := by
  simp only [chamberWriteOp, timing_foldl, implies_true, timing_ite, ite_self, timing_rejectOp, timing_chmForeign, timing_mgmtDone, timing_chmWrite]

theorem timing_chmCmdErr (d) : timing (chmCmdErr d) = timing d := (rfl)

theorem timing_chmCommand (action m target d) : timing (chmCommand action m target d).1 = timing d := by
  simp only [chmCommand]
  repeat' split
  all_goals simp only [timing_with, timing_chmRefill, timing_chmEmpty, timing_chmCmdErr]

theorem timing_chamberCmdOp (d o) : timing (chamberCmdOp d o) = timing d := by
  simp only [chamberCmdOp, timing_ite, ite_self, timing_chmCommand, timing_rejectOp, timing_mgmtDone]

theorem timing_approvalOp (d o) : timing (approvalOp d o) = timing d := by
  simp only [approvalOp]
  split <;> simp only [timing_ite, ite_self, timing_rejectOp, timing_tmpEvent, timing_admitPlain]

theorem timing_partAccept (kind idx action reason d) : timing (partAccept kind idx action reason d) = timing d := by
  simp only [partAccept, timing_ite, ite_self, timing_with, timing_queueBarge]

theorem timing_partitionOp (d o) : timing (partitionOp d o) = timing d := by
  simp only [partitionOp, timing_ite, ite_self, timing_rejectOp, timing_mgmtDone, timing_partAccept]

theorem timing_cancelOp (d o) : timing (cancelOp d o) = timing d := (rfl)

theorem timing_regReadOp (d o) : timing (regReadOp d o) = timing d := by
  simp only [regReadOp]
  repeat' split
  all_goals simp only [timing_rejectOp, timing_mpuRecord, timing_admitPlain]

theorem of_ite_eq_some {c : Prop} [Decidable c] {x y : Option Dev} {t : Dev} {P : Prop} (hx : x = some t → P) (hy : y = some t → P)
    (h : (if c then x else y) = some t) : P := by
  split at h
  · exact hx h
  · exact hy h

theorem timing_of_some_eq_some {x d : Dev} (hx : timing x = timing d) {t : Dev} (h : some x = some t) : timing t = timing d := Option.some.inj h ▸ hx

theorem timing_admitOther (d : Dev) (o : Op) {t : Dev} : admitOther d o = some t → timing t = timing d := by
  unfold admitOther
  extract_lets still
  have hs : ∀ e : Dev, timing e = timing d → still e = some t → timing t = timing d := by
    intro e he hs
    simp only [still] at hs
    repeat' split at hs
    all_goals cases hs
    all_goals exact he
  clear_value still
  refine of_ite_eq_some (fun h => ?_) <| of_ite_eq_some (fun h => ?_) <| of_ite_eq_some (hs _ (timing_stageAdmit ..)) <|
    of_ite_eq_some (hs _ (timing_commitAdmit ..)) <| of_ite_eq_some (timing_of_some_eq_some (timing_chamberWriteOp ..)) <|
    of_ite_eq_some (timing_of_some_eq_some (timing_chamberCmdOp ..)) <| of_ite_eq_some (timing_of_some_eq_some (timing_approvalOp ..)) <|
    of_ite_eq_some (hs _ (timing_importAdmit ..)) <| of_ite_eq_some (hs _ (timing_exportAdmit ..)) <|
    of_ite_eq_some (hs _ (timing_eraseAdmit ..)) <| of_ite_eq_some (timing_of_some_eq_some (timing_partitionOp ..)) <|
    of_ite_eq_some (timing_of_some_eq_some (timing_cancelOp ..)) <| of_ite_eq_some (timing_of_some_eq_some (timing_regReadOp ..)) <|
    timing_of_some_eq_some (timing_admitPlain ..)
  · obtain ⟨r, hr, rfl⟩ := Option.map_eq_some_iff.1 h
    rw [timing_setOp, timing_lookupAdmit _ _ hr]
  · obtain ⟨r, hr, rfl⟩ := Option.map_eq_some_iff.1 h
    rw [timing_setOp, timing_envAdmit _ _ hr]

theorem timing_jobOffer {d t : Dev} {o : Op} (h : (jobAdmit d o).map (fun x => setOp x.1 x.2) = some t) : timing t = timing d := by
  obtain ⟨x, hx, rfl⟩ := Option.map_eq_some_iff.1 h
  rw [timing_setOp, timing_jobAdmit _ _ hx]

theorem timing_offerRing (d : Dev) (r : ℕ) (o : Op) {t : Dev} (h : offerRing d r o = some t) : timing t = timing d := by
  unfold offerRing at h
  split at h
  · cases h; exact timing_ringReject ..
  · dsimp only at h
    split at h
    · cases h
    · obtain ⟨e, he, rfl⟩ := Option.map_eq_some_iff.1 h
      rw [timing_ite, timing_debit, ite_self]
      split_ifs at he
      · exact timing_admitLane _ _ he
      · exact timing_jobOffer he
      · exact timing_admitOther _ _ he

theorem timing_offerFwq (d : Dev) (o : Op) {t : Dev} (h : offerFwq d o = some t) : timing t = timing d := by
  unfold offerFwq at h
  dsimp only at h
  split at h
  · cases h; exact timing_fwReject ..
  · split at h
    · exact timing_admitLane _ _ h
    · cases h

theorem timing_offerGq (d : Dev) (o : Op) {t : Dev} (h : offerGq d o = some t) : timing t = timing d := by
  unfold offerGq at h
  dsimp only at h
  split at h
  · split at h
    · cases h; exact timing_rejectOp ..
    · split at h
      · cases h
      · exact timing_jobOffer h
  · split at h
    · cases h; exact timing_fwReject ..
    · split at h
      · cases h
      · exact timing_jobOffer h

theorem timing_offerField (d : Dev) (o : Op) {t : Dev} (h : offerField d o = some t) : timing t = timing d := by
  unfold offerField at h
  split at h
  · cases h; exact timing_rejectOp ..
  · split at h
    · exact timing_admitOther _ _ h
    · exact timing_admitLane _ _ h

theorem timing_offer (d : Dev) (s : Source) {t : Dev} (h : offer d s = some t) : timing t = timing d := by
  unfold offer at h
  split at h
  · cases h
  · split at h
    · cases h
    · split at h
      · exact timing_offerRing _ _ _ h
      · exact timing_offerFwq _ _ h
      · exact timing_offerGq _ _ h
      · exact timing_offerField _ _ h

theorem timing_offerTurn (d : Dev) (ss : List Source) : timing (offerTurn d ss).1 = timing d := by
  refine timing_foldl_fst (fun a s => ?_) _ _
  split
  next h => exact timing_offer _ _ h
  next => rfl

theorem timing_offerTurns (n : ℕ) (ss : List Source) (d : Dev) : timing (offerTurns n ss d) = timing d := by
  induction n generalizing ss d with
  | zero => rfl
  | succ n ih => simp only [offerTurns, timing_ite, ih, timing_offerTurn, ite_self]

theorem timing_ofcAdmit (d o) {t} (h : ofcAdmit d o = some t) : timing t = timing d := by
  simp only [ofcAdmit] at h
  repeat' split at h
  all_goals cases h
  all_goals simp only [timing_endWith, timing_ofcOff, timing_rejectOp, timing_setOp, timing_ofcIfSet]

theorem timing_getD {f : Option Dev} {d : Dev} (h : ∀ {t}, f = some t → timing t = timing d) : timing (f.getD d) = timing d := by
  cases f with
  | none => rfl
  | some t => exact h rfl

theorem timing_ofcStep (d : Dev) : timing (ofcStep d) = timing d :=
  timing_foldl (fun _ _ => timing_getD (timing_ofcAdmit _ _)) _ _

theorem timing_cmdReject (d o right mpu f) : timing (cmdReject d o right mpu f) = timing d := by
  unfold cmdReject
  split <;> simp only [timing_ite, ite_self, timing_mpuRecord, timing_rejectOp]

theorem timing_prevMac (d) : timing (prevMac d).2 = timing d := by
  unfold prevMac
  split <;> simp only [timing_drawOct]

theorem timing_sealWith (kind origin prev body d) : timing (sealWith kind origin prev body d).2 = timing d := (rfl)

theorem timing_sdhSeal (kind origin body d) : timing (sdhSeal kind origin body d).2 = timing d := by
  simp only [sdhSeal, timing_prevMac, timing_sealWith]

theorem timing_bufAdd (r d) : timing (bufAdd r d) = timing d := (rfl)

theorem timing_appendAdmit (d : Dev) (o : Op) {t : Dev} (h : appendAdmit d o = some t) : timing t = timing d := by
  unfold appendAdmit at h
  dsimp only at h
  split at h
  · cases h; exact timing_cmdReject ..
  · split at h
    · cases h
    · have hr := timing_engRead d 0xB8 o.served 1 (o.aux.getD 0 0) (packLen o.dense (o.aux.getD 1 0))
      split at h
      next e he => cases h; rw [timing_rejectOp, ← hr, he]
      next e he =>
        rw [← hr, he]
        split at h
        next hw => cases h; rw [timing_rejectOp, timing_opWcc _ _ hw]
        next => cases h; rw [timing_setOp, timing_bufAdd, timing_sdhSeal, timing_debit]

theorem timing_sdReadAdmit (d o) : timing (sdReadAdmit d o) = timing d := by
  simp only [sdReadAdmit]
  split <;> simp only [timing_cmdReject, timing_setOp]

theorem timing_sdSlotSet (d s x) : timing (sdSlotSet d s x) = timing d := (rfl)

theorem timing_startOpen (s d) : timing (startOpen s d) = timing d := by
  simp only [startOpen, timing_sdhSeal, timing_onSdh, timing_sdSlotSet]

theorem timing_startClose (s d) : timing (startClose s d) = timing d := by
  simp only [startClose, timing_sdhSeal, timing_onSdh]

theorem timing_sdSlotAdmit (d o) {t} (h : sdSlotAdmit d o = some t) : timing t = timing d := by
  simp only [sdSlotAdmit] at h
  repeat' split at h
  all_goals cases h
  all_goals simp only [timing_rejectOp, timing_setOp, timing_startOpen, timing_startClose]

theorem timing_sdhStep (d : Dev) : timing (sdhStep d) = timing d := by
  refine timing_foldl (fun d i => ?_) _ _
  split
  · rfl
  · simp only [timing_ite, timing_getD (timing_appendAdmit _ _), timing_sdReadAdmit, timing_getD (timing_sdSlotAdmit _ _), ite_self]

theorem timing_stagePrune (d) : timing (stagePrune d) = timing d := (rfl)

theorem timing_cardFragment (d) {t} (h : cardFragment d = some t) : timing t = timing d := by
  unfold cardFragment at h
  repeat' split at h
  all_goals cases h
  all_goals simp only [timing_sdhSeal, timing_debit, timing_bufAdd, timing_stagePrune, timing_onRpl]

theorem timing_cardFragments (n : ℕ) (d : Dev) : timing (cardFragments n d) = timing d := by
  induction n generalizing d with
  | zero => rfl
  | succ n ih =>
    unfold cardFragments
    split
    next h => rw [ih, timing_cardFragment _ h]
    next => rfl

theorem timing_flsRun (d o next) : timing (flsRun d o next) = timing d := by
  simp only [flsRun, timing_ite, ite_self, timing_setOp, timing_planeSet]

theorem timing_flsOffer (d : Dev) (o : Op) {t : Dev} (h : flsOffer d o = some t) : timing t = timing d := by
  have hr := timing_engRead d 0xB0 o.served 0 o.flsBuf o.flsWords
  unfold flsOffer at h
  extract_lets x at h
  generalize flsDecide x (x.journal.getD 256) o = w at h
  cases w with
  | wait => cases h
  | stop st sub => exact timing_of_some_eq_some (timing_rejectOp ..) h
  | run next =>
    revert h
    refine of_ite_eq_some (timing_of_some_eq_some ?_) ?_
    · simp only [timing_setOp, timing_ite, timing_resumeErase, timing_planeSet, ite_self]
    · dsimp only
      generalize firstFail (flsFails d o ++ [failIf (flsBufFail d o).isSome St.denied 0]) = f
      cases f with
      | some f =>
        refine timing_of_some_eq_some ?_
        rw [timing_rejectOp]
        split <;> simp only [timing_ite, timing_mpuRecord, ite_self]
      | none =>
        refine of_ite_eq_some (fun h => ?_) (timing_of_some_eq_some (timing_flsRun ..))
        split at h <;> cases h
        next e he => rw [timing_flsRun, ← hr, he]
        next e he => rw [timing_rejectOp, ← hr, he]

theorem timing_flsOfferAll (os : List Op) (d : Dev) : timing (flsOfferAll os d) = timing d :=
  timing_foldl (fun _ _ => timing_getD (timing_flsOffer _ _)) _ _

theorem timing_flsPlane (d p) : timing (flsPlane d p) = timing d := by
  simp only [flsPlane, timing_ite, ite_self, timing_flsOfferAll]

theorem timing_flsStep (d) : timing (flsStep d) = timing d := by
  simp only [flsStep, timing_foldl, implies_true, timing_flsPlane]

theorem timing_issueChallenge (purpose d) : timing (issueChallenge purpose d) = timing d := by
  simp only [issueChallenge, timing_moncInc, timing_hwDraw, timing_onLife]

theorem timing_verifyResponse (r d) : timing (verifyResponse r d).2 = timing d := by
  unfold verifyResponse
  split <;> simp only [timing_ite, ite_self, timing_onLife, timing_rgAdd, timing_tamperEvent]

theorem timing_lcsAdmit (d : Dev) (o : Op) {t : Dev} : lcsAdmit d o = some t → timing t = timing d := by
  unfold lcsAdmit
  extract_lets action done len mpu data pre
  have hd : ∀ e, timing (done e) = timing e := fun _ => timing_endWith ..
  have hr : ∀ f, some (rejectOp d o f) = some t → timing t = timing d := fun f => timing_of_some_eq_some (timing_rejectOp ..)
  clear_value action done mpu data pre
  refine of_ite_eq_some (hr _) <| of_ite_eq_some (hr _) <| of_ite_eq_some (timing_of_some_eq_some (timing_cmdReject ..)) <|
    of_ite_eq_some (timing_of_some_eq_some ?_) <| of_ite_eq_some (timing_of_some_eq_some ?_) <| of_ite_eq_some (fun h => ?_) <|
    of_ite_eq_some (of_ite_eq_some (fun h => nomatch h) <| of_ite_eq_some (hr _) (timing_of_some_eq_some ?_)) (timing_of_some_eq_some ?_)
  · rw [hd, timing_onLife]
  · rw [hd, timing_onLife]
  · split at h
    · exact hr _ h
    · cases h
      rw [hd, timing_onLife]
  · rw [hd, timing_issueChallenge]
  · split
    · rw [timing_rejectOp, timing_verifyResponse]
    · rw [hd, timing_verifyResponse]

theorem timing_lcsStep (d : Dev) : timing (lcsStep d) = timing d :=
  timing_foldl (fun _ _ => timing_getD (timing_lcsAdmit _ _)) _ _

theorem timing_admitStep (d : Dev) : timing (admitStep d) = timing d := by
  have h : ∀ (d : Dev) (o : Op), timing (match findOp d o.id with | some x => partAdmit d x | none => d) = timing d := by
    intro d o
    split
    · exact timing_partAdmit ..
    · rfl
  simp only [admitStep, timing_ofcStep, timing_sdhStep, timing_cardFragments, timing_flsStep, timing_lcsStep, timing_foldl, timing_offerTurns,
    implies_true, timing_offerCmds, timing_takeEntries]
  exact timing_foldl h _ _

theorem timing_edgeAdmit (d) : timing (edgeAdmit d) = timing d := by
  simp only [edgeAdmit, timing_admitStep]

theorem timing_ringEdge (d r) : timing (ringEdge d r) = timing d := by
  simp only [ringEdge, timing_ite, ite_self, timing_ringSet]

theorem timing_laneEdge (d n) : timing (laneEdge d n) = timing d := (rfl)

theorem timing_rplStart (d) : timing (rplStart d) = timing d := by
  simp only [rplStart, timing_ite, ite_self, timing_onRpl, timing_hwDraw, timing_moncInc, timing_stageRecord]

theorem timing_releaseOpen (d) : timing (releaseOpen d) = timing d := by
  simp only [releaseOpen, timing_ite, timing_onRpl]
  repeat' split
  all_goals simp only [timing_foldl, implies_true, timing_onRpl, timing_hwDraw, timing_rgSet]

theorem timing_rplWaits (d) : timing (rplWaits d) = timing d := by
  simp only [rplWaits, timing_ite, ite_self, timing_rplStart, timing_releaseOpen]

theorem timing_setStream (d k x) : timing (setStream d k x) = timing d := (rfl)

theorem timing_uqDrain (link n : ℕ) (d : Dev) : timing (uqDrain link n d) = timing d := by
  induction n generalizing d with
  | zero => rfl
  | succ n ih => simp only [uqDrain, timing_ite, ih, timing_setStream, timing_rgSet, timing_engRead, ite_self]

theorem timing_uqEdge (d) : timing (uqEdge d) = timing d := by
  simp only [uqEdge, timing_foldl, implies_true, timing_uqDrain]

theorem timing_markWrite (s d) : timing (markWrite s d) = timing d := (rfl)

theorem timing_closeLast (d) : timing (closeLast d) = timing d := by
  unfold closeLast
  split <;> simp only [timing_ite, ite_self, timing_startClose]

theorem timing_chooseWriter (d) : timing (chooseWriter d) = timing d := by
  simp only [chooseWriter, timing_ite]
  repeat' split
  all_goals simp only [timing_onSdh, timing_startOpen]

theorem timing_restartRecord (s d) : timing (restartRecord s d) = timing d := by
  simp only [restartRecord, timing_ite, ite_self, timing_with, timing_sealWith, timing_onSdh, timing_sdSlotSet]

theorem timing_identExpire (s d) : timing (identExpire s d) = timing d := by
  simp only [identExpire, timing_ite, ite_self, timing_sdSlotSet]

theorem timing_sdhEdge (d) : timing (sdhEdge d) = timing d := by
  simp only [sdhEdge, timing_foldl, implies_true, timing_markWrite, timing_closeLast, timing_chooseWriter, timing_restartRecord, timing_identExpire]

theorem timing_ofcEnd (i o st sub d) : timing (ofcEnd i o st sub d) = timing d := by
  simp only [ofcEnd, timing_ite, ite_self, timing_ofcIfSet, timing_tamperEvent, timing_rgAdd, timing_endWith]

theorem timing_ofcVerified (i o d) : timing (ofcVerified i o d) = timing d := by
  simp only [ofcVerified, timing_ite, ite_self, timing_with, timing_ofcEnd, timing_ofcIfSet]

theorem timing_ofcVerdict (d j) : timing (ofcVerdict d j) = timing d := by
  simp only [ofcVerdict]
  repeat' split
  all_goals simp only [timing_dropOp, timing_ofcVerified, timing_ofcEnd, timing_addOp]

theorem timing_ofcVerdicts (d) : timing (ofcVerdicts d) = timing d := by
  simp only [ofcVerdicts, timing_foldl, implies_true, timing_ofcVerdict]

theorem timing_ofcNonce (i d) : timing (ofcNonce i d) = timing d := by
  simp only [ofcNonce]
  split <;> simp only [timing_ite, ite_self, timing_ofcEnd, timing_hwDraw, timing_ofcIfSet]

theorem timing_endSession (i d) : timing (endSession i d) = timing d := by
  simp only [endSession, timing_ite, ite_self, timing_ofcIfSet]

theorem timing_sessionExpiry (i d) : timing (sessionExpiry i d) = timing d := by
  simp only [sessionExpiry, timing_ite, ite_self, timing_endSession]

theorem timing_ofcEdge (d) : timing (ofcEdge d) = timing d := by
  simp only [ofcEdge, timing_foldl, implies_true, timing_ofcVerdicts, timing_ofcNonce, timing_sessionExpiry]

theorem timing_hopOverdue (inst d) : timing (hopOverdue inst d) = timing d := by
  simp only [hopOverdue, timing_ite, ite_self, timing_onHop]

theorem timing_hopReseed (inst d) : timing (hopReseed inst d) = timing d := by
  simp only [hopReseed, timing_ite, ite_self, timing_onHop]

theorem timing_rawEntry (d) : timing (rawEntry d) = timing d := by
  unfold rawEntry
  split <;> simp only [timing_ite, ite_self, timing_onHop]

theorem timing_rawPass (d) : timing (rawPass d) = timing d := by
  simp only [rawPass, timing_ite, ite_self, timing_onHop]

theorem timing_hopEdge (d) : timing (hopEdge d) = timing d := by
  simp only [hopEdge, timing_hopOverdue, timing_hopReseed, timing_rawEntry, timing_rawPass]

theorem timing_mbxResult (c st d) : timing (mbxResult c st d) = timing d := by
  simp only [mbxResult, timing_ite, ite_self, timing_mbxSet, timing_fnWrite, timing_fireVec, timing_pushInput]

theorem timing_mbxTimeout (c d) : timing (mbxTimeout c d) = timing d := by
  simp only [mbxTimeout, timing_ite, ite_self, timing_mbxResult]

theorem timing_mbxEdge (d c) : timing (mbxEdge d c) = timing d := by
  simp only [mbxEdge, timing_ite, ite_self, timing_mbxSet, timing_mbxResult, timing_fnWrite, timing_fireVec, timing_mbxTimeout]

theorem timing_mbxEdges (d) : timing (mbxEdges d) = timing d := by
  simp only [mbxEdges, timing_foldl, implies_true, timing_mbxEdge]

theorem timing_countDecay (s d) : timing (countDecay s d) = timing d := by
  simp only [countDecay, timing_ite, ite_self, timing_with, timing_rgSet]

theorem timing_onTmp (d f) : timing (onTmp d f) = timing d := (rfl)

theorem timing_tmpEdge (d) : timing (tmpEdge d) = timing d := by
  simp only [tmpEdge, timing_foldl, implies_true, timing_ite, ite_self, timing_countDecay, timing_pendSet, timing_onTmp, timing_fireVec]

theorem timing_kPushes (d) : timing (kPushes d) = timing d := by
  simp only [kPushes, timing_foldl, implies_true, timing_queueBarge]

theorem timing_fieldSend (d) : timing (fieldSend d) = timing d := by
  simp only [fieldSend, timing_foldl, implies_true, timing_ite, ite_self, timing_with, timing_queueBarge, timing_kPushes]

theorem timing_cmdStart (d blk master) : timing (cmdStart d blk master) = timing d := (rfl)

theorem timing_cmdIssue (blk m code dense args inHold d pl wcc) : timing (cmdIssue blk m code dense args inHold d pl wcc) = timing d := by
  simp only [cmdIssue, timing_ite, ite_self, timing_rgAdd, timing_addOp, timing_cmdStart]

theorem timing_recipeLoad (d) : timing (recipeLoad d) = timing d := by
  simp only [recipeLoad, timing_ite, ite_self, timing_with, timing_onLife, timing_cmdIssue, timing_rgSet]

theorem timing_lockkeeper (d) : timing (lockkeeper d) = timing d := by
  simp only [lockkeeper, timing_ite, ite_self, timing_fieldSend, timing_recipeLoad]

theorem timing_wdgWarning (c d) : timing (wdgWarning c d) = timing d := by
  simp only [wdgWarning, timing_ite, ite_self, timing_pendSet, timing_onRst]

theorem timing_wdgSet (c v d) : timing (wdgSet c v d) = timing d := (rfl)

theorem timing_storeOnRelease (d o) : timing (storeOnRelease d o) = timing d := by
  unfold storeOnRelease
  repeat' split
  all_goals simp only [timing_unreserve, timing_saSet, timing_slotSet]

theorem timing_releaseOp (d o) : timing (releaseOp d o) = timing d := by
  simp only [releaseOp, timing_ite, ite_self, timing_written, timing_wipeReport, timing_storeOnRelease]

theorem timing_releaseDue (d) : timing (releaseDue d) = timing d := by
  simp only [releaseDue, timing_foldl, implies_true, timing_releaseOp]

theorem timing_dropCurve (d o) : timing (dropCurve d o) = timing d := by
  simp only [dropCurve, timing_ite, ite_self, timing_curveSet]

theorem timing_curveRelease (d o) : timing (curveRelease d o) = timing d := by
  unfold curveRelease
  split <;> simp only [timing_ite, ite_self, timing_curveSet, timing_dropCurve]

theorem timing_curvesDue (d) : timing (curvesDue d) = timing d := by
  simp only [curvesDue, timing_foldl, implies_true, timing_curveRelease]

theorem timing_noteSeq (m seq d) : timing (noteSeq m seq d) = timing d := (rfl)

theorem timing_appendDue (d o) : timing (appendDue d o) = timing d := by
  simp only [appendDue, timing_ite, ite_self, timing_endWith, timing_noteSeq]

theorem timing_sdReadDue (d : Dev) (o : Op) : timing (sdReadDue d o) = timing d := by
  unfold sdReadDue
  dsimp only
  split_ifs
  · exact timing_endWith ..
  · rw [timing_endWith, timing_sdSlotSet]
  · have h := fun s a ws => timing_engWriteAt (sdSlotSet d (readSlot o) s) 0xB8 o.served 1 a ws
    split
    next e he => rw [timing_endWith, ← timing_sdSlotSet d, ← h, he]
    next e he =>
      have hd : timing e = timing d := by rw [← timing_sdSlotSet d, ← h, he]
      split
      next hw => rw [timing_endWith, timing_opWcc _ _ hw, hd]
      next => rw [timing_endWith, hd]
  · rfl

theorem timing_flsDue (d o) : timing (flsDue d o) = timing d := by
  simp only [flsDue, timing_ite, ite_self, timing_endWith]

theorem timing_eraseSlot (d i) : timing (eraseSlot d i) = timing d := (rfl)

theorem timing_eraseDue (d o) : timing (eraseDue d o) = timing d := by
  simp only [eraseDue, timing_ite, ite_self, timing_endWith, timing_eraseSlot]

theorem timing_dueOp (d id) : timing (dueOp d id) = timing d := by
  simp only [dueOp]
  repeat' split
  all_goals simp only [timing_appendDue, timing_sdReadDue, timing_flsDue, timing_eraseDue, timing_deliver, timing_postFqs]

theorem timing_forgetJob (d id atEdge) : timing (forgetJob d id atEdge) = timing d := by
  simp only [forgetJob, timing_foldl, implies_true, timing_unitSet]

theorem timing_endEarly (d o st sub due pass) : timing (endEarly d o st sub due pass) = timing d := by
  simp only [endEarly, timing_ite, ite_self, timing_dropCurve, timing_forgetJob, timing_endWith]

theorem timing_scribbleHost (d a n) : timing (scribbleHost d a n) = timing d := (rfl)

theorem timing_scribble (o d) : timing (scribble o d) = timing d := by
  unfold scribble
  repeat' split
  all_goals simp only [timing_foldl, implies_true, timing_drawOct, timing_memWrOct, timing_scribbleHost]

theorem timing_endUndef (d o st sub due pass) : timing (endUndef d o st sub due pass) = timing d := by
  simp only [endUndef, timing_endEarly, timing_scribble]

theorem timing_takeCur (p d) : timing (takeCur p d) = timing d := by
  simp only [takeCur, timing_ite, ite_self, timing_planeSet, timing_resumeErase]

theorem timing_leavePlane (d o) : timing (leavePlane d o) = timing d := by
  simp only [leavePlane, timing_ite, ite_self, timing_takeCur, timing_cutOp, timing_planeSet]

theorem timing_bindRing (d r lane) : timing (bindRing d r lane) = timing d := by
  simp only [bindRing, timing_ite, ite_self, timing_ringSet, timing_rgSet]

theorem timing_rebindFrom (d kind n) : timing (rebindFrom d kind n) = timing d := by
  unfold rebindFrom
  repeat' split
  all_goals simp only [timing_foldl, implies_true, timing_ite, ite_self, timing_bindRing]

theorem timing_cntAdd (d k n) : timing (cntAdd d k n) = timing d := (rfl)

theorem timing_moveStreams (n fence d) : timing (moveStreams n fence d) = timing d := by
  simp only [moveStreams, timing_foldl, implies_true, timing_ite, ite_self, timing_cntAdd, timing_setStream]

theorem timing_leaveLane (kind idx fence d) : timing (leaveLane kind idx fence d) = timing d := by
  simp only [leaveLane, timing_ite, ite_self, timing_rebindFrom, timing_moveStreams]

theorem timing_setPart (d kind idx p) : timing (setPart d kind idx p) = timing d := (rfl)

theorem timing_wipeBanks (d u atEdge) : timing (wipeBanks d u atEdge) = timing d := (rfl)

theorem timing_dropFrames (link c d) : timing (dropFrames link c d) = timing d := by
  simp only [dropFrames, timing_foldl, implies_true, timing_cntAdd, timing_setStream]

theorem timing_fenceUnit (kind idx reason d) : timing (fenceUnit kind idx reason d) = timing d := by
  simp only [fenceUnit, timing_foldl, implies_true, timing_ite, ite_self, timing_endUndef, timing_leavePlane, timing_leaveLane, timing_setPart,
    timing_wipeBanks, timing_coreReset, timing_dropFrames]

theorem timing_overrunFence (d o) : timing (overrunFence d o) = timing d := by
  unfold overrunFence
  split <;> simp only [timing_ite, ite_self, timing_rgOr, timing_fenceUnit]

theorem timing_boundOverrun (d) : timing (boundOverrun d) = timing d := by
  simp only [boundOverrun, timing_foldl, implies_true, timing_overrunFence, timing_endUndef, timing_leavePlane]

theorem timing_postOne (d r) {t} (h : postOne d r = some t) : timing t = timing d := by
  simp only [postOne] at h
  repeat' split at h
  all_goals cases h
  all_goals simp only [timing_fnWrite, timing_dropOp, timing_ringSet, timing_ringFire]

theorem timing_postRing (n r : ℕ) (d : Dev) : timing (postRing n r d) = timing d := by
  induction n generalizing d with
  | zero => rfl
  | succ n ih =>
    unfold postRing
    split
    next h => rw [ih, timing_postOne _ _ h]
    next => rfl

theorem timing_postAll (d) : timing (postAll d) = timing d := by
  simp only [postAll, timing_foldl, implies_true, timing_postRing]

theorem timing_edgeRelease (d) : timing (edgeRelease d) = timing d := by
  simp only [edgeRelease, timing_foldl, implies_true, timing_ringEdge, timing_releaseDue, timing_curvesDue, timing_dueOp, timing_boundOverrun,
    timing_postAll]

theorem timing_edgeRefill (d) : timing (edgeRefill d) = timing d := (rfl)

theorem timing_cancelOps (d p pass) : timing (cancelOps d p pass) = timing d := by
  simp only [cancelOps, timing_foldl, implies_true, timing_endUndef]

theorem timing_cancelDue (d : Dev) : timing (cancelDue d) = timing d := by
  refine timing_foldl (fun d c => ?_) _ _
  dsimp only
  split
  · simp only [timing_ite, timing_mgmtDone, timing_cancelOps, ite_self]
  · exact timing_cancelOps ..

theorem timing_showReported (d) : timing (showReported d) = timing d := (rfl)

theorem timing_gqCancel (d q) : timing (gqCancel d q) = timing d := by
  simp only [gqCancel, timing_ite, ite_self, timing_cancelOps, timing_rgSet]

theorem timing_selfCheckFence (d u) : timing (selfCheckFence d u) = timing d := by
  unfold selfCheckFence
  split
  · rfl
  · split <;> simp only [timing_endEarly, timing_fenceUnit]

theorem timing_enterMaint (kind idx d) : timing (enterMaint kind idx d) = timing d := by
  simp only [enterMaint, timing_ite, ite_self, timing_setPart, timing_coreReset]

theorem timing_drainEdge (d) : timing (drainEdge d) = timing d := by
  simp only [drainEdge, timing_foldl, implies_true, timing_ite, ite_self, timing_with, timing_enterMaint]

theorem timing_showPart (q d) : timing (showPart q d) = timing d := (rfl)

theorem timing_drainUnit (kind idx d) : timing (drainUnit kind idx d) = timing d := by
  simp only [drainUnit, timing_ite, ite_self, timing_leaveLane, timing_setPart, timing_enterMaint]

theorem timing_hostPart (q d) : timing (hostPart q d) = timing d := by
  simp only [hostPart, timing_ite, ite_self, timing_drainUnit, timing_fenceUnit, timing_setPart]

theorem timing_partitionApply (d) : timing (partitionApply d) = timing d := by
  simp only [partitionApply, timing_foldl, implies_true, timing_with, timing_showPart, timing_hostPart]

theorem timing_edgePartition (d) : timing (edgePartition d) = timing d := by
  simp only [edgePartition, timing_foldl, implies_true, timing_cancelDue, timing_showReported, timing_gqCancel, timing_selfCheckFence,
    timing_drainEdge, timing_partitionApply]

theorem timing_onPages (d f) : timing (onPages d f) = timing d := (rfl)

theorem timing_ladderWrite (d) : timing (ladderWrite d) = timing d := by
  simp only [ladderWrite, timing_ite, ite_self, timing_drawOct, timing_onPages]

theorem timing_kekActivate (d) : timing (kekActivate d) = timing d := by
  unfold kekActivate
  split <;> simp only [timing_ite, ite_self, timing_with, timing_ladderWrite]

theorem timing_commitResult (d st sub idx) : timing (commitResult d st sub idx) = timing d := by
  simp only [commitResult, timing_rgSet]

theorem timing_commitDrop (c st sub d) : timing (commitDrop c st sub d) = timing d := by
  simp only [commitDrop]
  split <;> simp only [timing_with, timing_commitResult, timing_rgSet, timing_endWith]

theorem timing_commitTimeout (d) : timing (commitTimeout d) = timing d := by
  unfold commitTimeout
  split <;> simp only [timing_ite, ite_self, timing_commitDrop]

theorem timing_epochSwitch (d) : timing (epochSwitch d) = timing d := by
  simp only [epochSwitch]
  repeat' split
  all_goals simp only [timing_with, timing_commitResult, timing_rgSet, timing_endWith]

theorem timing_commitFull (d) : timing (commitFull d) = timing d := by
  unfold commitFull
  split <;> simp only [timing_ite, ite_self, timing_commitDrop]

theorem timing_crgEdge (d) : timing (crgEdge d) = timing d := by
  simp only [crgEdge, timing_with, timing_commitTimeout, timing_epochSwitch, timing_commitFull]

theorem timing_applyEntries (d) : timing (applyEntries d) = timing d := by
  simp only [applyEntries, timing_foldl, implies_true, timing_ite, ite_self, timing_with, timing_rgSet]

theorem timing_lockBindings (d) : timing (lockBindings d) = timing d := (rfl)

theorem timing_saWipe (s d) : timing (saWipe s d) = timing d := by
  simp only [saWipe, timing_foldl, implies_true, timing_saSet, timing_setStream]

theorem timing_saEvent (d link s b) : timing (saEvent d link s b) = timing d := (rfl)

theorem timing_pnWarn (s d) : timing (pnWarn s d) = timing d := by
  simp only [pnWarn, timing_ite, ite_self, timing_saEvent, timing_saSet]

theorem timing_saOpen (s old d) : timing (saOpen s old d) = timing d := by
  simp only [saOpen, timing_ite, ite_self, timing_saWipe, timing_countUse, timing_pnWarn, timing_rgSet, timing_saSet]

theorem timing_openSas (old d : Dev) : timing (openSas old d) = timing d := by
  simp only [openSas, timing_foldl, timing_saOpen, implies_true]

theorem timing_openStreams (old d : Dev) : timing (openStreams old d) = timing d := by
  simp only [openStreams, timing_foldl, timing_ite, timing_setStream, ite_self, implies_true]

theorem timing_openMove (d r) : timing (openMove d r) = timing d := by
  simp only [openMove, timing_ite]
  repeat' split
  all_goals simp only [timing_bindRing]

theorem timing_openRings (old d : Dev) : timing (openRings old d) = timing d := by
  simp only [openRings, timing_foldl, timing_openMove, timing_ite, timing_ringSet, ite_self, implies_true]

theorem timing_rosterOpen (d) : timing (rosterOpen d) = timing d := by
  simp only [rosterOpen, timing_foldl, implies_true, timing_ite, ite_self, timing_with, timing_rgSet, timing_ladderWrite, timing_endSession]
  repeat' split
  all_goals simp only [timing_with, timing_rgSet, timing_ladderWrite]

theorem timing_noteWritten (seq d) : timing (noteWritten seq d) = timing d := (rfl)

theorem timing_dropFirst (d) : timing (dropFirst d) = timing d := by
  unfold dropFirst
  split <;> simp only [timing_onSdh]

theorem timing_classify (s d) : timing (classify s d) = timing d := by
  simp only [classify, timing_ite, timing_sdSlotSet, timing_restartRecord]
  repeat' split
  all_goals simp only [timing_sdSlotSet, timing_noteWritten, timing_dropFirst]

theorem timing_sdhOpen (d) : timing (sdhOpen d) = timing d := by
  simp only [sdhOpen, timing_foldl, implies_true, timing_ite, ite_self, timing_onSdh, timing_classify]

theorem timing_bsnOpen (d) : timing (bsnOpen d) = timing d := by
  unfold bsnOpen
  repeat' split
  all_goals simp only [timing_ite, ite_self, timing_with, timing_rgSet, timing_rgOr]

theorem timing_crgOpen (d) : timing (crgOpen d) = timing d := by
  simp only [crgOpen, timing_ite, ite_self, timing_with]

theorem timing_rplWipe (d) : timing (rplWipe d) = timing d := by
  simp only [rplWipe, timing_ite, ite_self, timing_onRpl]

theorem timing_rplStop (d) : timing (rplStop d) = timing d := by
  simp only [rplStop, timing_rplSnap, timing_rplWipe, timing_recordCloseAll]

theorem timing_rplCtlOpen (was d) : timing (rplCtlOpen was d) = timing d := by
  simp only [rplCtlOpen, timing_ite, ite_self, timing_rplStart, timing_rplStop]

theorem timing_setShadow (d f t s) : timing (setShadow d f t s) = timing d := (rfl)

theorem timing_startTransition (goal d) : timing (startTransition goal d) = timing d := by
  simp only [startTransition, timing_rawEnd, timing_endTowpath, timing_setShadow, timing_onLife]

theorem timing_lifeOpen (d) : timing (lifeOpen d) = timing d := by
  simp only [lifeOpen, timing_ite, ite_self, timing_rgSet, timing_startTransition]

theorem timing_pushEvent (d p words) : timing (pushEvent d p words) = timing d := by
  simp only [pushEvent, timing_ite, ite_self, timing_with, timing_rgAdd]

theorem timing_grantEvent (d type p n tie emu reason) : timing (grantEvent d type p n tie emu reason) = timing d := by
  simp only [grantEvent, timing_ite, ite_self, timing_with, timing_pushEvent]

theorem timing_chainSet (d n c) : timing (chainSet d n c) = timing d := (rfl)

theorem timing_portSet (d p x) : timing (portSet d p x) = timing d := (rfl)

theorem timing_endGrant (p reason d) : timing (endGrant p reason d) = timing d := by
  simp only [endGrant, timing_ite, ite_self, timing_grantEvent, timing_chainSet, timing_portSet]

theorem timing_retireEdge (d) : timing (retireEdge d) = timing d := by
  simp only [retireEdge, timing_foldl, implies_true, timing_saWipe]

theorem timing_challengeExpiry (d) : timing (challengeExpiry d) = timing d := by
  unfold challengeExpiry
  split <;> simp only [timing_ite, ite_self, timing_onLife]

theorem timing_sessionOpen (d) : timing (sessionOpen d) = timing d := by
  unfold sessionOpen
  split <;> simp only [timing_ite, ite_self, timing_onLife, timing_rgAdd]

theorem timing_tapChallenge (d) : timing (tapChallenge d) = timing d := by
  simp only [tapChallenge, timing_ite, ite_self, timing_onLife, timing_issueChallenge]

theorem timing_lifeEdge (d) : timing (lifeEdge d) = timing d := by
  simp only [lifeEdge]
  split <;> simp only [timing_ite, ite_self, timing_challengeExpiry, timing_sessionOpen, timing_tapChallenge, timing_startTransition]

theorem timing_addApproval (d roster) : timing (addApproval d roster) = timing d := (rfl)

theorem timing_acceptApprovals (d : Dev) : timing (acceptApprovals d) = timing d := by
  unfold acceptApprovals
  dsimp only
  refine (timing_foldl (fun d p => ?_) _ _).trans (timing_with d rfl rfl rfl rfl ..)
  split
  · split
    · rw [timing_endWith, timing_addApproval]
    · exact timing_addApproval ..
  · split
    · exact timing_endWith ..
    · rfl

theorem timing_expireApprovals (d) : timing (expireApprovals d) = timing d := by
  simp only [expireApprovals, timing_ite, ite_self, timing_chmRefill]

theorem timing_slotExpiry (d) : timing (slotExpiry d) = timing d := (rfl)

theorem timing_edgeExpire (d) : timing (edgeExpire d) = timing d := by
  simp only [edgeExpire, timing_lifeEdge, timing_acceptApprovals, timing_expireApprovals, timing_slotExpiry]

theorem timing_wipeEdge (d u) : timing (wipeEdge d u) = timing d := by
  unfold wipeEdge
  split <;> simp only [timing_unitSet, timing_drawWord]

theorem timing_hopTick (d) : timing (hopTick d) = timing d := by
  simp only [hopTick, timing_hwRefill, timing_rgSet, timing_onHop]

theorem timing_dropSaFrames (d) : timing (dropSaFrames d) = timing d := by
  simp only [dropSaFrames, timing_foldl, implies_true, timing_setStream, timing_cntAdd]

theorem timing_endSessions (d) : timing (endSessions d) = timing d := by
  simp only [endSessions, timing_foldl, implies_true, timing_endSession]

theorem timing_zeroise (d) : timing (zeroise d) = timing d := by
  simp only [zeroise, timing_foldl, implies_true, timing_ite, ite_self, timing_with, timing_endEarly, timing_dropSaFrames, timing_chmEmpty,
    timing_endTowpath, timing_endSessions, timing_hopRestart]

theorem timing_holdRelease (d) : timing (holdRelease d) = timing d := by
  simp only [holdRelease]
  repeat' split
  all_goals simp only [timing_with, timing_zeroise, timing_onTmp, timing_hopRestart, timing_clearCounts, timing_endWith]

theorem timing_tmpLog (src resp subsumed deferred applied power pass d) : timing (tmpLog src resp subsumed deferred applied power pass d) = timing d
  := (rfl)

theorem timing_raiseTamper (d) : timing (raiseTamper d) = timing d := (rfl)

theorem timing_holdLatch (cause d) : timing (holdLatch cause d) = timing d := (rfl)

theorem timing_takeBack (d o) {t} (h : takeBack d o = some t) : timing t = timing d := by
  simp only [takeBack] at h
  repeat' split at h
  all_goals cases h
  all_goals simp only [timing_with]

theorem timing_holdEnd (d : Dev) (o : Op) : timing (holdEnd d o) = timing d := by
  unfold holdEnd
  split
  · split
    next h => rw [timing_endEarly, timing_takeBack _ _ h]
    next => rfl
  · exact timing_endEarly ..

theorem timing_ofcHold (d) : timing (ofcHold d) = timing d := by
  simp only [ofcHold, timing_foldl, implies_true, timing_ite, ite_self, timing_ofcOff, timing_ofcIfSet]

theorem timing_portRefresh (p d) : timing (portRefresh p d) = timing d := by
  simp only [portRefresh, timing_ite, ite_self, timing_endGrant, timing_portSet]

theorem timing_fieldHold (d) : timing (fieldHold d) = timing d := by
  simp only [fieldHold, timing_foldl, implies_true, timing_with, timing_portRefresh]

theorem timing_hopHold (d) : timing (hopHold d) = timing d := (rfl)

theorem timing_deltaPrep (d) : timing (deltaPrep d) = timing d := by
  unfold deltaPrep
  split <;> simp only [timing_ite, ite_self, timing_with]

theorem timing_drawBasin (d) : timing (drawBasin d) = timing d := by
  unfold drawBasin
  split <;> simp only [timing_ite, ite_self, timing_with, timing_hwDraw]

theorem timing_chmLevelled (d) : timing (chmLevelled d) = timing d := by
  simp only [chmLevelled, timing_with, timing_drawBasin, timing_hwDraw]

theorem timing_levelStep (rules life cross last d) : timing (levelStep rules life cross last d) = timing d := by
  unfold levelStep
  repeat' split
  all_goals simp only [timing_foldl, implies_true, timing_ite, ite_self, timing_with, timing_chmRefill, timing_queueBarge, timing_chmLevelled]

theorem timing_levelNow (last d) : timing (levelNow last d) = timing d := by
  simp only [levelNow, timing_levelStep]

theorem timing_levelLast (d) : timing (levelLast d) = timing d := by
  simp only [levelLast, timing_ite, ite_self, timing_levelNow]

theorem timing_fmWr (d a ws) : timing (fmWr d a ws) = timing d := (rfl)

theorem timing_eventWrite (c d) : timing (eventWrite c d) = timing d := by
  simp only [eventWrite]
  repeat' split
  all_goals simp only [timing_with, timing_mpuRecord, timing_fmWr, timing_rgSet, timing_noteMem, timing_pushInput]

theorem timing_eventWrites (n c : ℕ) (d : Dev) : timing (eventWrites n c d) = timing d := by
  induction n generalizing d with
  | zero => rfl
  | succ n ih => rw [eventWrites, ih, timing_eventWrite]

theorem timing_writeRes (n d r) : timing (writeRes n d r) = timing d := by
  simp only [writeRes, timing_foldl, implies_true, timing_rgSet]

theorem timing_entryCompletion (n d) : timing (entryCompletion n d) = timing d := by
  simp only [entryCompletion, timing_foldl, implies_true, timing_writeRes, timing_pushInput, timing_chainSet]

theorem timing_fieldDraws (d) : timing (fieldDraws d) = timing d := (rfl)

theorem timing_grantBarges (d) : timing (grantBarges d) = timing d := by
  simp only [grantBarges, timing_foldl, implies_true, timing_with, timing_queueBarge]

theorem timing_diverge (m kind d) : timing (diverge m kind d) = timing d := by
  simp only [diverge, timing_foldl, implies_true, timing_ite, ite_self, timing_rgSet, timing_onCore, timing_onRpl]

theorem timing_coreStart (m pc d) : timing (coreStart m pc d) = timing d := by
  simp only [coreStart, timing_rplItem, timing_coreSet]

theorem timing_rsectSet (d m s) : timing (rsectSet d m s) = timing d := (rfl)

theorem timing_popItem (d m) : timing (popItem d m) = timing d := (rfl)

theorem timing_resetEvents (m n : ℕ) (d : Dev) : timing (resetEvents m n d) = timing d := by
  induction n generalizing d with
  | zero => rfl
  | succ n ih =>
    unfold resetEvents
    split
    · rfl
    · split
      · rw [ih, timing_onCore, timing_coreReset, timing_popItem]
      · split
        · rw [timing_ite, ih, timing_coreStart, timing_popItem, ite_self]
        · rfl

theorem timing_sectBegin (s d) : timing (sectBegin s d) = timing d := by
  simp only [sectBegin, timing_foldl, implies_true, timing_ite, ite_self, timing_with, timing_diverge, timing_coreStart, timing_fmWr,
    timing_loseResv, timing_pendSet, timing_onRpl, timing_rsectSet, timing_onCore, timing_resetEvents]

theorem timing_fieldReplay (d : Dev) : timing (fieldReplay d) = timing d := by
  refine timing_foldl (fun d m => ?_) _ _
  split
  · simp only [timing_foldl, timing_sectBegin, implies_true, timing_onRpl]
  · rfl

theorem timing_fieldRomStart (d m) : timing (fieldRomStart d m) = timing d := by
  simp only [fieldRomStart, timing_ite, ite_self, timing_coreSet]

theorem timing_rplSnapField (pass d) : timing (rplSnapField pass d) = timing d := by
  simp only [rplSnapField, timing_foldl, implies_true, timing_ite, ite_self, timing_onRpl, timing_sectOpen, timing_queueBarge]

theorem timing_airSend (n f d) : timing (airSend n f d) = timing d := (rfl)

theorem timing_sendWtx (n d) : timing (sendWtx n d) = timing d := (rfl)

theorem timing_emuWtxTimer (n d) : timing (emuWtxTimer n d) = timing d := by
  simp only [emuWtxTimer, timing_ite, ite_self, timing_sendWtx]

theorem timing_timerEdge (n d) : timing (timerEdge n d) = timing d := by
  unfold timerEdge
  split <;> simp only [timing_ite, ite_self, timing_emuWtxTimer]

theorem timing_startExchange (n d) : timing (startExchange n d) = timing d := by
  unfold startExchange
  split <;> simp only [timing_ite, ite_self, timing_airSend, timing_chainSet]

theorem timing_entryEnd (n st sub air rx d) : timing (entryEnd n st sub air rx d) = timing d := by
  simp only [entryEnd, timing_ite, ite_self, timing_rgAdd, timing_chainSet]

theorem timing_skipBad (n m : ℕ) (d : Dev) : timing (skipBad n m d) = timing d := by
  induction n generalizing d with
  | zero => rfl
  | succ n ih =>
    unfold skipBad
    dsimp only
    split
    · rfl
    · split
      · rw [ih, timing_entryEnd]
      · rw [timing_ite, ih, timing_entryEnd, ite_self]

theorem timing_airEnd (n air rx d) : timing (airEnd n air rx d) = timing d := by
  simp only [airEnd, timing_startExchange, timing_skipBad, timing_entryEnd]

theorem timing_newRates (n w d) : timing (newRates n w d) = timing d := by
  simp only [newRates, timing_ite, ite_self, timing_chainSet]

theorem timing_windowEdge (n d) : timing (windowEdge n d) = timing d := by
  unfold windowEdge
  split <;> simp only [timing_ite, ite_self, timing_airEnd, timing_newRates, timing_startExchange]

theorem timing_airEdge (n d) : timing (airEdge n d) = timing d := by
  simp only [airEdge, timing_timerEdge, timing_windowEdge]

theorem timing_armIdentity (d n pos) : timing (armIdentity d n pos) = timing d := by
  simp only [armIdentity, timing_ite, ite_self, timing_chainSet]

theorem timing_admitEntries (n d) : timing (admitEntries n d) = timing d := by
  simp only [admitEntries, timing_foldl, implies_true, timing_ite, ite_self, timing_chainSet, timing_skipBad, timing_armIdentity]

theorem timing_tagEnd (d) : timing (tagEnd d) = timing d := (rfl)

theorem timing_tagPaths (d) : timing (tagPaths d) = timing d := by
  unfold tagPaths
  split <;> simp only [timing_ite, ite_self, timing_tagEnd]

theorem timing_reqDrop (d m) : timing (reqDrop d m) = timing d := (rfl)

theorem timing_applyReq (d x) : timing (applyReq d x) = timing d := by
  simp only [applyReq, timing_ite, ite_self, timing_reqDrop, timing_portSet, timing_endGrant]

theorem timing_grantCeiling (p d) : timing (grantCeiling p d) = timing d := by
  simp only [grantCeiling, timing_ite, ite_self, timing_endGrant]

theorem timing_grantCut (p d) : timing (grantCut p d) = timing d := by
  simp only [grantCut, timing_ite, ite_self, timing_portRefresh, timing_endGrant]

theorem timing_clearFrames (n d) : timing (clearFrames n d) = timing d := (rfl)

theorem timing_makeGrant (p n tie d) : timing (makeGrant p n tie d) = timing d := by
  simp only [makeGrant, timing_debit, timing_chainSet, timing_clearFrames, timing_rgAdd, timing_grantEvent, timing_portSet]

theorem timing_offerChains (f tie d p) : timing (offerChains f tie d p) = timing d := by
  unfold offerChains
  split <;> simp only [timing_makeGrant]

theorem timing_schedulePair (d pair) : timing (schedulePair d pair) = timing d := by
  simp only [schedulePair, timing_foldl, implies_true, timing_offerChains]

theorem timing_schedule (d) : timing (schedule d) = timing d := by
  simp only [schedule, timing_foldl, implies_true, timing_with, timing_applyReq, timing_grantCeiling, timing_grantCut, timing_schedulePair]

theorem timing_fieldAdmit (d) : timing (fieldAdmit d) = timing d := by
  simp only [fieldAdmit, timing_foldl, implies_true, timing_airEdge, timing_admitEntries, timing_tagPaths, timing_schedule]

theorem timing_portJudge (p d) : timing (portJudge p d) = timing d := by
  simp only [portJudge, timing_ite, ite_self, timing_portRefresh]

theorem timing_refreshFlight (f d) : timing (refreshFlight f d) = timing d := by
  simp only [refreshFlight, timing_foldl, implies_true, timing_portJudge]

theorem timing_dropBase (p d) : timing (dropBase p d) = timing d := (rfl)

theorem timing_fieldPart (q d) : timing (fieldPart q d) = timing d := by
  simp only [fieldPart, timing_foldl, implies_true, timing_ite, ite_self, timing_setPart, timing_refreshFlight, timing_dropBase]

theorem timing_fieldMaint (d u) : timing (fieldMaint d u) = timing d := by
  simp only [fieldMaint, timing_ite, ite_self, timing_setPart, timing_refreshFlight, timing_queueBarge]

theorem timing_fieldParts (d) : timing (fieldParts d) = timing d := by
  simp only [fieldParts, timing_foldl, implies_true, timing_with, timing_fieldPart, timing_fieldMaint]

theorem timing_fieldApply (d) : timing (fieldApply d) = timing d := by
  simp only [fieldApply, timing_foldl, implies_true, timing_ite, ite_self, timing_with, timing_rgSet, timing_portJudge, timing_dropBase]

theorem timing_tagDataEdge (d) : timing (tagDataEdge d) = timing d := by
  simp only [tagDataEdge, timing_foldl, implies_true, timing_pvSet, timing_onTag]

theorem timing_tagRefusedEdge (d) : timing (tagRefusedEdge d) = timing d := by
  simp only [tagRefusedEdge, timing_foldl, implies_true, timing_cmdDone, timing_onTag]

theorem timing_tagTake (d a) : timing (tagTake d a) = timing d := (rfl)

theorem timing_tagReadAnswer (d i n) : timing (tagReadAnswer d i n) = timing d := by
  unfold tagReadAnswer
  split <;> simp only [timing_tagAnswer]

theorem timing_tagWrite (d i v verify) : timing (tagWrite d i v verify).1 = timing d := by
  unfold tagWrite
  split
  · rfl
  · split <;> simp only [timing_tagCopySet, timing_drawOct]

theorem timing_airRun (d a verify) : timing (airRun d a verify) = timing d := by
  simp only [airRun, timing_ite, ite_self, timing_onTag, timing_tagReadAnswer]
  repeat' split
  all_goals simp only [timing_tagAnswer, timing_tagWrite]

theorem timing_tagDone (d m st sub pass) : timing (tagDone d m st sub pass) = timing d := (rfl)

theorem timing_tagDataSet (d m pass ws) : timing (tagDataSet d m pass ws) = timing d := (rfl)

theorem timing_wiredRun (d m a verify pass) : timing (wiredRun d m a verify pass) = timing d := by
  simp only [wiredRun, timing_ite, timing_tagDone]
  repeat' split
  all_goals simp only [timing_tagDone, timing_tagDataSet, timing_tagWrite]

theorem timing_tagAccess (verify pass d) : timing (tagAccess verify pass d) = timing d := by
  unfold tagAccess
  split
  · rfl
  · split <;> simp only [timing_tagTake, timing_airRun, timing_wiredRun]

theorem timing_tagDrain (n : ℕ) (d : Dev) : timing (tagDrain n d) = timing d := by
  induction n generalizing d with
  | zero => rfl
  | succ n ih => rw [tagDrain, timing_ite, ih, timing_tagAccess, ite_self]

theorem timing_lingerExpiry (p d) : timing (lingerExpiry p d) = timing d := by
  simp only [lingerExpiry, timing_ite, ite_self, timing_portSet]

theorem timing_lingerClear (p d) : timing (lingerClear p d) = timing d := by
  simp only [lingerClear, timing_ite, ite_self, timing_portSet]

theorem timing_setPowers (n fwd refl d) : timing (setPowers n fwd refl d) = timing d := (rfl)

theorem timing_powersEdge (n d) : timing (powersEdge n d) = timing d := by
  simp only [powersEdge, timing_ite, ite_self, timing_drawWord, timing_setPowers]

theorem timing_settleEnd (n d) : timing (settleEnd n d) = timing d := by
  simp only [settleEnd, timing_ite, ite_self, timing_chainSet]

theorem timing_mismatchEnd (n d) : timing (mismatchEnd n d) = timing d := by
  unfold mismatchEnd
  split <;> simp only [timing_endGrant, timing_rgAdd, timing_portSet]

theorem timing_tuningComplete (n ser shu vswr fwd refl d) : timing (tuningComplete n ser shu vswr fwd refl d) = timing d := by
  simp only [tuningComplete]
  split <;> simp only [timing_ite, ite_self, timing_setPowers, timing_portSet, timing_chainSet, timing_mismatchEnd]

theorem timing_tuningEnd (n d) : timing (tuningEnd n d) = timing d := by
  simp only [tuningEnd, timing_ite, ite_self, timing_drawWord, timing_tuningComplete]

theorem timing_flightReadyNow (f d) : timing (flightReadyNow f d) = timing d := by
  simp only [flightReadyNow, timing_ite, ite_self, timing_with]

theorem timing_engSet (d e x) : timing (engSet d e x) = timing d := (rfl)

theorem timing_sweepStart (e d) : timing (sweepStart e d) = timing d := by
  simp only [sweepStart, timing_ite, ite_self, timing_engSet]

theorem timing_fieldSteps (d) : timing (fieldSteps d) = timing d := by
  simp only [fieldSteps, timing_foldl, implies_true, timing_with, timing_fieldParts, timing_fieldApply, timing_tagDataEdge, timing_tagRefusedEdge,
    timing_tagDrain, timing_portJudge, timing_lingerExpiry, timing_lingerClear, timing_powersEdge, timing_settleEnd, timing_tuningEnd,
    timing_flightReadyNow, timing_sweepStart]

end Sys2Proof.Machine

/-! The sources that can fire at an edge (O20), and what the resets they bring leave of the timing: R452, R453, Table 20.2. -/

namespace Sys2Proof.Machine

/-- No fuse is illegal, and none of the sources resets to COLD. -/
def NeverCold (S : List ℕ) (d : Dev) : Prop := fusesLegal d = true ∧ ∀ s ∈ S, srcLevel d s < 4

/-- What every part of an edge keeps: the fuses; the pass count, where no source of S resets to COLD; that no read is recorded; and the field island's
edge, unless that island is reset. -/
structure EdgeStep (S : List ℕ) (d t : Dev) : Prop where
  fuses : t.rst.fuses = d.rst.fuses
  count : NeverCold S d → t.pas.count = d.pas.count
  recorded : ∀ r ∈ t.pas.recorded, r ∈ d.pas.recorded
  edge : t.fld.edgeAt = d.fld.edgeAt ∧ t.lkg.fieldUp = d.lkg.fieldUp ∨ t.fld.edgeAt = none ∧ t.lkg.fieldUp = false

theorem NeverCold.of_fuses {S : List ℕ} {d e : Dev} (h : e.rst.fuses = d.rst.fuses) (hd : NeverCold S d) : NeverCold S e := by
  simpa only [NeverCold, fusesLegal, srcLevel, fuse, h] using hd

section
variable {S : List ℕ} {d e t : Dev}

theorem EdgeStep.of_timing (h : timing t = timing d) : EdgeStep S d t := by
  obtain ⟨hc, hr, hf, he, hu⟩ := Timing.mk.inj h
  exact ⟨hf, fun _ => hc, fun _ hm => hr ▸ hm, .inl ⟨he, hu⟩⟩

theorem EdgeStep.refl : EdgeStep S d d := .of_timing rfl

theorem EdgeStep.trans (h : EdgeStep S d e) (h' : EdgeStep S e t) : EdgeStep S d t where
  fuses := h'.fuses.trans h.fuses
  count hn := (h'.count (hn.of_fuses h.fuses)).trans (h.count hn)
  recorded r hr := h.recorded r (h'.recorded r hr)
  edge := by
    rcases h'.edge with ⟨he, hu⟩ | hz
    · rcases h.edge with ⟨he', hu'⟩ | ⟨he', hu'⟩
      · exact .inl ⟨he.trans he', hu.trans hu'⟩
      · exact .inr ⟨he.trans he', hu.trans hu'⟩
    · exact .inr hz

/-- A further function that keeps the timing. -/
theorem EdgeStep.congr (h : EdgeStep S d e) (ht : timing t = timing e) : EdgeStep S d t := h.trans (.of_timing ht)

theorem EdgeStep.foldl {α : Type} {g : Dev → α → Dev} {l : List α} (h : ∀ d, ∀ x ∈ l, EdgeStep S d (g d x)) (d : Dev) : EdgeStep S d (l.foldl g d) := by
  induction l generalizing d with
  | nil => exact .refl
  | cons x l ih => exact (h d x List.mem_cons_self).trans (ih (fun e y hy => h e y (List.mem_cons_of_mem _ hy)) _)

theorem EdgeStep.ite {c : Prop} [Decidable c] {x y : Dev} (hx : c → EdgeStep S d x) (hy : ¬ c → EdgeStep S d y) : EdgeStep S d (if c then x else y) := by
  split
  · exact hx ‹_›
  · exact hy ‹_›

end

/-! ### The resets -/


theorem timing_hostReset (d) : timing (hostReset d) = { timing d with recorded := [] } := by
  have hlost : ∀ e regs priv pinned spent ops cmds ils slots mem img,
      timing { e with
        regs := regs, priv := priv, pinned := pinned, spent := spent, chm := {}, rings := [], ops := ops, lanes := [], cmds := cmds, msix := [], hop := {},
        ils := ils, grd := {}, pcieBme := [], pcie := [], mbx := [], linkUp := false, linkWidth := 0, linkSpeed := 0, fetchRing := 1023, fetchCnt := 0,
        fqPl := [], d3 := [], numVfs := 0, rpl := {}, bw := {}, meas := [], slots := slots, mem := mem, fld := { e.fld with imgSent := img },
        pas := pasReset false e.pas } = { timing e with recorded := [] } := by intros; rfl
  simp only [hostReset, timing_onRst, timing_clearCounts, timing_lkgReset, hlost, timing_lifeReset, timing_sdhReset, timing_ofcReset, timing_crgDiscard,
    timing_flsHostReset, timing_foldl, timing_coreReset, implies_true, timing_ite, timing_chmEmpty, ite_self]

theorem timing_fieldReset (d) : timing (fieldReset d) = { timing d with edgeAt := none, fieldUp := false } := by
  have hdown : ∀ e, timing { e with lkg := { e.lkg with fieldUp := false } } = { timing e with fieldUp := false } := by intros; rfl
  have hlost : ∀ e regs priv pinned s rpl,
      timing { e with regs := regs, priv := priv, pinned := pinned, fmem := [], fld := { supplyOk := s }, pas := pasReset true e.pas, rpl := rpl } =
        { timing e with edgeAt := none } := by intros; rfl
  simp only [fieldReset, timing_onRst, hdown, timing_lkgReset, timing_challengeWipe, timing_tagFieldReset, hlost, timing_foldl, timing_coreReset, implies_true]

theorem timing_coldReset (d) : timing (coldReset d) = { timing d with count := 0, recorded := [], edgeAt := none, fieldUp := false } := by
  have hzero : ∀ e regs priv,
      timing { e with mem := [], slots := [], crg := {}, bsn := {}, ops := [], pas := { e.pas with count := 0 }, regs := regs, priv := priv } =
        { timing e with count := 0 } := by intros; rfl
  simp only [coldReset, timing_onRst, hzero, timing_foldl, timing_rgSet, implies_true, timing_fieldReset, timing_hostReset, timing_flsCut]

theorem timing_keepReset (d) : timing (keepReset d) = { timing d with count := 0, recorded := [], edgeAt := none, fieldUp := false } := by
  simp only [keepReset, timing_onRst, timing_with, timing_sdhReset, timing_coldReset]

section
variable {S : List ℕ} {d t : Dev}

theorem EdgeStep.of_lost (h : timing t = { timing d with recorded := [] }) : EdgeStep S d t := by
  obtain ⟨hc, hr, hf, he, hu⟩ := Timing.mk.inj h
  exact ⟨hf, fun _ => hc, fun r hm => absurd (hr ▸ hm) List.not_mem_nil, .inl ⟨he, hu⟩⟩

theorem EdgeStep.of_down (h : timing t = { timing d with edgeAt := none, fieldUp := false }) : EdgeStep S d t := by
  obtain ⟨hc, hr, hf, he, hu⟩ := Timing.mk.inj h
  exact ⟨hf, fun _ => hc, fun r hm => by rwa [hr] at hm, .inr ⟨he, hu⟩⟩

theorem EdgeStep.of_cold (hn : ¬ NeverCold S d) (h : timing t = { timing d with count := 0, recorded := [], edgeAt := none, fieldUp := false }) :
    EdgeStep S d t := by
  obtain ⟨-, hr, hf, he, hu⟩ := Timing.mk.inj h
  exact ⟨hf, fun hc => absurd hc hn, fun r hm => absurd (hr ▸ hm) List.not_mem_nil, .inr ⟨he, hu⟩⟩

/-- A reset of a level, with the note of it in RST_LAST. -/
theorem edgeStep_carryOut {lvl : ℕ} (hl : NeverCold S d → lvl < 4) (src m) : EdgeStep S d (carryOut lvl src m d) := by
  have hcold : 4 ≤ lvl → ¬ NeverCold S d := fun h hn => absurd (hl hn) (by omega)
  have hnote : ∀ {e : Dev}, EdgeStep S d e → ∀ a b c f k, EdgeStep S d { noteReset a b c f e with keep := k } := fun h a b c f k =>
    h.congr ((timing_with _ rfl rfl rfl rfl ..).trans (timing_noteReset a b c f _))
  unfold carryOut
  refine .ite (fun h => hnote ?_ _ _ _ _ _) fun _ => .ite (fun h => hnote ?_ _ _ _ _ _) fun _ => .ite (fun _ => hnote ?_ _ _ _ _ _) fun _ =>
    .ite (fun _ => hnote ?_ _ _ _ _ _) fun _ => .ite (fun _ => hnote ?_ _ _ _ _ _) fun _ => .refl
  · exact .of_cold (hcold (by omega)) (timing_keepReset d)
  · exact .of_cold (hcold (by omega)) (timing_coldReset d)
  · exact .of_lost (timing_hostReset d)
  · exact (EdgeStep.of_down (timing_fieldReset d)).congr (by simp only [timing_onRst])
  · exact .of_timing (timing_coreReset ..)

theorem edgeStep_sourceAt {lvl : ℕ} (hl : NeverCold S d → lvl < 4) (src m) : EdgeStep S d (sourceAt lvl src m d) := by
  unfold sourceAt
  extract_lets lvl'
  have hl' : NeverCold S d → lvl' < 4 := fun hn => by
    have := hl hn
    simp only [lvl']
    split <;> omega
  exact .ite (fun _ => .refl) fun _ => .ite (fun _ => .of_timing (timing_noteReset ..)) fun _ => edgeStep_carryOut hl' ..

theorem mem_of_tabFind {α : Type} {t : Tab α} {i : ℕ} {x : α} (h : tabFind t i = some x) : (i, x) ∈ t := by
  induction t with
  | nil => cases h
  | cons e t ih =>
    obtain ⟨k, v⟩ := e
    simp only [tabFind] at h
    split at h
    next hk => cases h; exact hk ▸ List.mem_cons_self
    next => exact List.mem_cons_of_mem _ (ih h)

/-- A level that a legal fuse gives, or that of Table 20.2, lies below COLD where neither can be COLD. -/
theorem srcLevel_lt_of_permitted {s : ℕ} (hs : s ≤ 16) (hp : ∀ l ∈ srcPermitted s, l < 4) (hd : srcDefault s < 4) (hl : fusesLegal d = true) :
    srcLevel d s < 4 := by
  cases hf : tabFind d.rst.fuses s with
  | none => simpa [srcLevel, fuse, hf] using hd
  | some x =>
    have hx := List.all_eq_true.1 hl (s, x) (mem_of_tabFind hf)
    simp only [Bool.or_eq_true, decide_eq_true_eq] at hx
    have hx' : x - 1 ∈ srcPermitted s := (hx.resolve_left (by omega)).2
    simpa [srcLevel, fuse, hf] using hp (x - 1) hx'

theorem edgeStep_sourceAssert {s : ℕ} (hs : s ∈ S ∨ s ∈ [10, 15]) (m : ℕ) (d : Dev) : EdgeStep S d (sourceAssert s m d) := by
  have hl : NeverCold S d → srcLevel d s < 4 := by
    rintro ⟨hlegal, hS⟩
    rcases hs with hs | hs
    · exact hS s hs
    · refine srcLevel_lt_of_permitted ?_ ?_ ?_ hlegal <;> revert s <;> decide
  unfold sourceAssert
  exact .ite (fun _ => .refl) fun _ => edgeStep_sourceAt hl ..

/-! ### What fires at an edge -/

/-- The source of a core's watchdog. -/
theorem edgeStep_wdgEdge {c : ℕ} (hc : (if c = 1 then 6 else if isH c then 5 else 7) ∈ S) (d : Dev) : EdgeStep S d (wdgEdge d c) := by
  have hx : ∀ e, EdgeStep S e (wdgExpiry c e) := fun e => .ite (fun _ => edgeStep_sourceAssert (.inl hc) ..) fun _ => .refl
  unfold wdgEdge
  refine .ite (fun _ => .of_timing (by simp only [timing_onRst])) fun _ => .ite (fun _ => .of_timing ?_) fun _ => .trans (.of_timing ?_) (hx _)
  · simp only [timing_ite, timing_wdgWarning, timing_wdgSet, timing_onRst, ite_self]
  · simp only [timing_wdgWarning, timing_wdgSet, timing_onRst]

theorem edgeStep_stopSources (h8 : 8 ∈ S) (d : Dev) : EdgeStep S d (stopSources d) := by
  refine .foldl (fun e m _ => edgeStep_sourceAssert ?_ ..) d
  split
  · exact .inr (by decide)
  · exact .inl h8

theorem edgeStep_replayEnter (d : Dev) : EdgeStep S d (replayEnter d) := by
  unfold replayEnter
  extract_lets tok e₁ e₂ cs e₃ e₄
  have h₃ : timing e₃ = timing d := by simp only [e₃, e₂, e₁, timing_foldl, timing_coreReset, timing_endGrant, implies_true, timing_onRpl]
  have h₄ : EdgeStep S d e₄ := (EdgeStep.of_timing h₃).trans (.ite (fun _ => edgeStep_carryOut (fun _ => by decide) ..) fun _ => .refl)
  exact h₄.congr (timing_with _ rfl rfl rfl rfl ..)

theorem edgeStep_openReplay (old d : Dev) : EdgeStep S d (openReplay old d) :=
  .ite (fun _ => edgeStep_replayEnter d) fun _ => .ite (fun _ => .of_timing (timing_onRpl ..)) fun _ => .refl

theorem edgeStep_openNow (d : Dev) : EdgeStep S d (openNow d) := by
  unfold openNow
  extract_lets old e₁ e₂ e₃ e₄ e₅ e₆
  have h₅ : timing e₅ = timing d := by
    simp only [e₅, e₄, e₃, e₂, e₁, timing_ite, timing_releaseOpen, timing_rplCtlOpen, timing_rosterOpen, timing_sdhOpen, timing_bsnOpen, timing_crgOpen,
      timing_lockBindings, timing_openSas, timing_openStreams, timing_openRings, timing_applyEntries, ite_self]
  have h₆ : EdgeStep S d e₆ := ((EdgeStep.of_timing h₅).trans (edgeStep_openReplay ..)).congr (timing_lifeOpen ..)
  exact h₆.congr ((timing_chmEmpty ..).trans (timing_with _ rfl rfl rfl rfl ..))

theorem edgeStep_chamberOpen (d : Dev) : EdgeStep S d (chamberOpen d) := by
  unfold chamberOpen
  refine .ite (fun _ => .refl) fun _ => ?_
  split
  · exact .of_timing (timing_chmRefill ..)
  · exact edgeStep_openNow d

theorem edgeStep_tamperReset {lvl : ℕ} (hl : lvl < 4) (d : Dev) : EdgeStep S d (tamperReset lvl d) := by
  have h : EdgeStep S d (if covered d lvl 0 then d else carryOut lvl none 0 d) := .ite (fun _ => .refl) fun _ => edgeStep_carryOut (fun _ => hl) ..
  exact h.congr (timing_onRst (by split <;> rfl))

theorem edgeStep_holdEnter (cause : ℕ) (d : Dev) : EdgeStep S d (holdEnter cause d) := by
  unfold holdEnter
  extract_lets e₁ e₂ _ _ e₃ e₄ e₅
  have h : timing e₅ = timing d := by
    simp only [e₅, e₄, e₃, e₂, e₁, timing_foldl, timing_dropFrames, timing_rplWipe, timing_ofcHold, timing_endSessions, timing_crgDiscard,
      timing_challengeWipe, timing_fieldHold, timing_hopHold, timing_with, timing_holdEnd, timing_holdLatch, implies_true]
  exact (EdgeStep.of_timing h).trans (edgeStep_sourceAssert (.inr (by decide)) 0 _)

theorem edgeStep_respond (resp src : ℕ) (d : Dev) : EdgeStep S d (respond resp src d) :=
  .ite (fun _ => edgeStep_tamperReset (by decide) d) fun _ => .ite (fun _ => edgeStep_tamperReset (by decide) d) fun _ =>
    .ite (fun _ => .of_timing (timing_zeroise d)) fun _ => .ite (fun _ => edgeStep_holdEnter src d) fun _ => .refl

theorem edgeStep_windowEnd (d : Dev) : EdgeStep S d (windowEnd d) := by
  unfold windowEnd
  refine .ite (fun _ => .refl) fun _ => ?_
  extract_lets fired due most exec e₁ e₂ e₃
  have h₃ : timing e₃ = timing d := by
    simp only [e₃, e₂, e₁, timing_ite, timing_raiseTamper, timing_foldl, timing_tmpLog, implies_true, timing_onTmp, ite_self]
  exact (EdgeStep.of_timing h₃).trans (.ite (fun _ => edgeStep_respond ..) fun _ => .refl)

end

end Sys2Proof.Machine

/-! The timing over a whole edge of the host island, and of the field island (O20): R29, R30, R33, R45. -/

namespace Sys2Proof.Machine

section
variable {S : List ℕ}

theorem edgeStep_edgeBefore (d : Dev) : EdgeStep S d (edgeBefore d) := by
  have h : timing (deltaPrep (levelLast d)) = timing d := by rw [timing_deltaPrep, timing_levelLast]
  exact ((EdgeStep.of_timing h).trans (edgeStep_windowEnd _)).congr (timing_holdRelease _)

theorem timing_edgeCount (d : Dev) :
    timing (edgeCount d) = { timing d with count := d.pas.count + 1, recorded := d.pas.recorded.filter (fun r => isF r.1) } := by
  simp only [edgeCount, timing_foldl, timing_wipeEdge, timing_hopTick, implies_true]
  rfl

theorem edgeStep_edgeOpen (d : Dev) : EdgeStep S d (edgeOpen d) :=
  ((EdgeStep.of_timing (timing_retireEdge d)).trans (edgeStep_chamberOpen _)).congr (by rw [edgeOpen, timing_kekActivate, timing_crgEdge])

theorem edgeStep_edgeBlocks (h5 : 5 ∈ S) (h6 : 6 ∈ S) (d : Dev) : EdgeStep S d (edgeBlocks d) := by
  unfold edgeBlocks
  extract_lets e₁ e₂ e₃ e₄
  have h₄ : timing e₄ = timing d := by
    simp only [e₄, e₃, e₂, e₁, timing_tmpEdge, timing_rplWaits, timing_uqEdge, timing_sdhEdge, timing_ofcEdge, timing_hopEdge, timing_mbxEdges, timing_foldl,
      timing_laneEdge, timing_ringEdge, implies_true]
  have hw : EdgeStep S e₄ ((1 :: hostCores).foldl wdgEdge e₄) := by
    refine .foldl (fun e c hc => edgeStep_wdgEdge ?_ e) e₄
    have : (if c = 1 then 6 else if isH c then 5 else 7) ∈ [5, 6] := by revert c; decide
    rcases List.mem_pair.1 this with h | h <;> rw [h] <;> assumption
  exact ((EdgeStep.of_timing h₄).trans hw).congr (timing_lockkeeper _)

theorem edgeStep_edgePresent (h8 : 8 ∈ S) (d : Dev) : EdgeStep S d (edgePresent d) := by
  unfold edgePresent
  extract_lets e₁ e₂ e₃ e₄
  have h₄ : timing e₄ = timing d := by
    simp only [e₄, e₃, e₂, e₁, timing_svnBlow, timing_recordCloseAll, timing_foldl, timing_passResume, timing_rplSnap, timing_freePosted, timing_presentCore,
      timing_modTimer, timing_inlineVec, timing_measure, implies_true]
  exact ((EdgeStep.of_timing h₄).trans (edgeStep_stopSources h8 _)).congr (timing_regReads _)

/-- From the count on, an edge keeps what EdgeStep says. -/
theorem edgeStep_passEdge (h5 : 5 ∈ S) (h6 : 6 ∈ S) (h8 : 8 ∈ S) {d : Dev} (hp : powered d = true) :
    EdgeStep S (edgeCount (edgeBefore d)) (passEdge d) := by
  unfold passEdge
  rw [if_neg (by simp [hp])]
  generalize edgeCount (edgeBefore d) = e
  have h₁ : EdgeStep S e (edgeOpen (edgeExpire e)) := (EdgeStep.of_timing (timing_edgeExpire e)).trans (edgeStep_edgeOpen _)
  have h₂ : timing (edgeRelease (edgeRefill (edgePartition (edgeOpen (edgeExpire e))))) = timing (edgeOpen (edgeExpire e)) := by
    rw [timing_edgeRelease, timing_edgeRefill, timing_edgePartition]
  have h₃ := (h₁.congr h₂).trans (edgeStep_edgeBlocks h5 h6 _)
  have h₄ := h₃.congr (t := edgeDraws (edgeAdmit _)) (by rw [timing_edgeDraws, timing_edgeAdmit])
  exact h₄.trans (edgeStep_edgePresent h8 _)

theorem edgeStep_fieldPresent (h7 : 7 ∈ S) (d : Dev) : EdgeStep S d (fieldPresent d) := by
  unfold fieldPresent
  extract_lets e₁ e₂ e₃ e₄ e₅
  have h₃ : timing e₃ = timing d := by
    simp only [e₃, e₂, e₁, timing_fieldDraws, timing_grantBarges, timing_foldl, timing_entryCompletion, timing_eventWrites, implies_true]
  have h₄ : EdgeStep S e₃ e₄ := by
    refine .foldl (fun e c hc => edgeStep_wdgEdge ?_ e) e₃
    have : (if c = 1 then 6 else if isH c then 5 else 7) = 7 := by revert c; decide
    rwa [this]
  have h₅ : timing e₅ = timing e₄ := by
    simp only [e₅, timing_fieldReplay, timing_foldl, timing_presentCore, timing_fieldRomStart, implies_true]
  refine (((EdgeStep.of_timing h₃).trans h₄).congr h₅).congr ?_
  simp only [timing_foldl, timing_passResume, timing_rplSnapField, implies_true]

/-- The field island's edge, once it is taken. -/
theorem edgeStep_fieldEdge (h7 : 7 ∈ S) {d : Dev} (hup : d.lkg.fieldUp = true) (he : d.fld.edgeAt ≠ some d.pas.count) :
    EdgeStep S { d with fld := { d.fld with edgeAt := some d.pas.count }, pas := { d.pas with recorded := d.pas.recorded.filter (fun r => !isF r.1) } }
      (fieldEdge d) := by
  unfold fieldEdge
  rw [if_neg (by simp [hup, he])]
  exact (EdgeStep.of_timing (by rw [timing_fieldAdmit, timing_fieldSteps])).trans (edgeStep_fieldPresent h7 _)

end

theorem passEdge_count {d : Dev} (hp : powered d = true) (hn : NeverCold [5, 6, 8] d) : (passEdge d).pas.count = d.pas.count + 1 := by
  have hb := edgeStep_edgeBefore (S := [5, 6, 8]) d
  obtain ⟨hc, -, hf, -, -⟩ := Timing.mk.inj (timing_edgeCount (edgeBefore d))
  have hn' : NeverCold [5, 6, 8] (edgeCount (edgeBefore d)) := hn.of_fuses (hf.trans hb.fuses)
  rw [(edgeStep_passEdge (by decide) (by decide) (by decide) hp).count hn', hc, hb.count hn]

theorem passEdge_recorded {d : Dev} (hp : powered d = true) : ∀ r ∈ (passEdge d).pas.recorded, isF r.1 = true := by
  intro r hr
  obtain ⟨-, hrec, -⟩ := Timing.mk.inj (timing_edgeCount (edgeBefore d))
  have := (edgeStep_passEdge (S := [5, 6, 8]) (by decide) (by decide) (by decide) hp).recorded r hr
  rw [hrec] at this
  exact (List.mem_filter.1 this).2

theorem passEdge_of_not_powered {d : Dev} (h : powered d = false) : passEdge d = d := by simp [passEdge, h]

theorem fieldEdge_of_not_taken {d : Dev} (h : d.lkg.fieldUp = false ∨ d.fld.edgeAt = some d.pas.count) : fieldEdge d = d := by
  unfold fieldEdge
  rw [if_pos (by simpa using h)]

theorem fieldEdge_count {d : Dev} (hn : NeverCold [7] d) : (fieldEdge d).pas.count = d.pas.count := by
  by_cases h : d.lkg.fieldUp = false ∨ d.fld.edgeAt = some d.pas.count
  · rw [fieldEdge_of_not_taken h]
  · rw [not_or, Bool.not_eq_false] at h
    exact (edgeStep_fieldEdge (S := [7]) (by decide) h.1 h.2).count (hn.of_fuses rfl)

theorem fieldEdge_edgeAt {d : Dev} (hup : d.lkg.fieldUp = true) :
    (fieldEdge d).fld.edgeAt = some d.pas.count ∨ (fieldEdge d).fld.edgeAt = none ∧ (fieldEdge d).lkg.fieldUp = false := by
  by_cases he : d.fld.edgeAt = some d.pas.count
  · exact .inl (by rw [fieldEdge_of_not_taken (.inr he), he])
  · exact (edgeStep_fieldEdge (S := [7]) (by decide) hup he).edge.imp And.left id

end Sys2Proof.Machine

/-! How a core of the host island stands after its presentation (O20), and that nothing that follows in the edge changes it, short of a reset: again one
equation for each function, callees first. -/

namespace Sys2Proof.Machine

/-- How a core stands for its presentation: what says whether it is presented, what is pending, what it has been presented, and whether an input of an
earlier pass still waits for it. -/
structure Standing where
  run : Bool
  stopped : ℕ
  pend : Tab Bool
  mode : ℕ
  replayCores : Word
  seen : List Input
  late : Bool

/-- How core m stands. -/
def standing (m : ℕ) (d : Dev) : Standing :=
  let c := coreGet d m
  ⟨c.run, c.stopped, c.pend, d.rpl.mode, rg d Reg.RPL_REPLAY_CORES, d.pas.seen.filter (fun i => decide (i.core = m)),
    d.pas.inq.any (fun i => decide (i.core = m) && decide (i.pass < d.pas.count))⟩

/-- An update of the device that keeps the cores, the registers, the mode of the bench and the inputs. -/
theorem standing_with (m : ℕ) (d : Dev) {p : Pas} {r : Rpl} (hs : p.seen = d.pas.seen) (hi : p.inq = d.pas.inq) (hc : p.count = d.pas.count)
    (hm : r.mode = d.rpl.mode) (priv pinned spent chm rings ops opSeq slots lanes cmds msix msgs host mem keep life
      hop ils grd pcieBme tmp rdata crg bsn tag fmem mbx linkUp d3 numVfs pcie linkWidth linkSpeed fetchRing fetchCnt waitq fqPl fls sdh ofc
      pmu bw meas free fld lkg rst) :
    standing m { d with
      priv := priv, pinned := pinned, spent := spent, pas := p, chm := chm, rings := rings, ops := ops, opSeq := opSeq, slots := slots,
      lanes := lanes, cmds := cmds, msix := msix, msgs := msgs, host := host, mem := mem, keep := keep, life := life, hop := hop, lkg := lkg, ils := ils,
      grd := grd, pcieBme := pcieBme, tmp := tmp, rdata := rdata, crg := crg, bsn := bsn, fld := fld, tag := tag, fmem := fmem, mbx := mbx,
      linkUp := linkUp, d3 := d3, numVfs := numVfs, pcie := pcie, linkWidth := linkWidth, linkSpeed := linkSpeed, fetchRing := fetchRing,
      fetchCnt := fetchCnt, waitq := waitq, fqPl := fqPl, fls := fls, sdh := sdh, ofc := ofc, rpl := r, rst := rst, pmu := pmu, bw := bw, meas := meas,
      free := free } = standing m d := by
  simp only [standing, coreGet, rg, hs, hi, hc, hm]

theorem standing_ite (m : ℕ) (c : Prop) [Decidable c] (a b : Dev) : standing m (if c then a else b) = if c then standing m a else standing m b :=
  apply_ite (standing m) c a b

theorem standing_foldl {m : ℕ} {α : Type} {g : Dev → α → Dev} (h : ∀ d x, standing m (g d x) = standing m d) (l : List α) (d : Dev) :
    standing m (l.foldl g d) = standing m d := by
  induction l generalizing d with
  | nil => rfl
  | cons x l ih => rw [List.foldl_cons, ih, h]

theorem standing_drawWord (core d) : standing core (drawWord d).2 = standing core d := (rfl)

theorem standing_freePosted (core d) : standing core (freePosted d) = standing core d := (rfl)

theorem standing_coreSet {core n c d} (h : n = core → c.run = (coreGet d core).run ∧ c.stopped = (coreGet d core).stopped ∧ c.pend = (coreGet d core).pend) :
    standing core (coreSet d n c) = standing core d := by
  have hc : ∀ b, rg (coreSet d n c) b = rg d b := fun _ => rfl
  simp only [standing, coreGet_coreSet, hc]
  split
  next hn => obtain ⟨hr, hs, hp⟩ := h hn.symm; simp only [hr, hs, hp]; rfl
  next => rfl

theorem standing_rgSet {a} (h : a ≠ Reg.RPL_REPLAY_CORES) (core d v) : standing core (rgSet d a v) = standing core d := by
  have hr : rg (rgSet d a v) Reg.RPL_REPLAY_CORES = rg d Reg.RPL_REPLAY_CORES := by rw [rg_rgSet, if_neg h.symm]
  simp only [standing, hr]
  rfl

theorem pmuReg_ne (m k : ℕ) : pmuReg m k ≠ Reg.RPL_REPLAY_CORES := by
  have : pmuReg m k = 0x180000 + 256 * m + k := rfl
  rw [this, show Reg.RPL_REPLAY_CORES = 0x170011 from rfl]
  omega

theorem standing_pmuStore (core d m lo v) : standing core (pmuStore d m lo v) = standing core d := by
  simp only [pmuStore, standing_rgSet (pmuReg_ne _ _)]

theorem standing_rgOr {a} (h : a ≠ Reg.RPL_REPLAY_CORES) (core d k) : standing core (rgOr d a k) = standing core d := standing_rgSet h ..

theorem standing_pmuAdvance (core m lo ovf n d) : standing core (pmuAdvance m lo ovf n d) = standing core d := by
  simp only [pmuAdvance, standing_ite, ite_self, standing_pmuStore, standing_rgOr (pmuReg_ne _ _)]

theorem standing_pmuEvents (core m pl codes d) : standing core (pmuEvents m pl codes d) = standing core d := by
  simp only [pmuEvents, standing_foldl, implies_true, standing_ite, ite_self, standing_pmuAdvance]

theorem standing_pmuRetire (core m pl codes d) : standing core (pmuRetire m pl codes d) = standing core d := by
  simp only [pmuRetire, standing_ite, ite_self, standing_pmuEvents, standing_pmuAdvance]

theorem standing_passResume (core d m) : standing core (passResume d m) = standing core d := by
  simp only [passResume]
  split
  · rfl
  · rw [standing_ite, standing_pmuRetire, standing_coreSet, ite_self]
    rintro rfl
    exact ⟨rfl, rfl, rfl⟩

theorem standing_onRpl {f : Rpl → Rpl} (h : ∀ r, (f r).mode = r.mode) (core d) : standing core (onRpl d f) = standing core d := by
  simp only [standing, onRpl, h]
  rfl

theorem standing_sectSet (core d m s) : standing core (sectSet d m s) = standing core d := (rfl)

theorem standing_sectOpen (core d m) : standing core (sectOpen d m) = standing core d := (rfl)

theorem standing_rplSnap (core pass d) : standing core (rplSnap pass d) = standing core d := by
  simp only [rplSnap, standing_foldl, implies_true, standing_ite, ite_self, standing_sectOpen, standing_onRpl]

theorem standing_onLife (core d f) : standing core (onLife d f) = standing core d := (rfl)

theorem standing_svnBlow (core d) : standing core (svnBlow d) = standing core d := by
  simp only [svnBlow, standing_ite, ite_self, standing_onLife]

theorem standing_rgAdd {a} (h : a ≠ Reg.RPL_REPLAY_CORES) (core d k) : standing core (rgAdd d a k) = standing core d := standing_rgSet h ..

theorem standing_stagePut (core o d) : standing core (stagePut o d) = standing core d := (rfl)

theorem standing_mpuRecord (core m ident access a detail d) : standing core (mpuRecord m ident access a detail d) = standing core d := by
  have h : ∀ k, k < 256 → 0x11 < k → 0x070000 + 256 * m + k ≠ Reg.RPL_REPLAY_CORES := by
    rw [show Reg.RPL_REPLAY_CORES = 0x170011 from rfl]
    omega
  simp only [mpuRecord, standing_ite, ite_self, standing_rgAdd (h 0xF3 (by decide) (by decide)), standing_rgSet (h 0xF1 (by decide) (by decide)),
    standing_rgSet (h 0xF2 (by decide) (by decide))]

theorem standing_loseResv (core d own field a n) : standing core (loseResv d own field a n) = standing core d := by
  have h : ∀ k c, (lost own field a n k c).run = c.run ∧ (lost own field a n k c).stopped = c.stopped ∧ (lost own field a n k c).pend = c.pend := by
    intro k c
    unfold lost
    split
    · exact ⟨rfl, rfl, rfl⟩
    · split
      · split <;> exact ⟨rfl, rfl, rfl⟩
      · exact ⟨rfl, rfl, rfl⟩
  simp only [standing, coreGet_loseResv, h]
  rfl

theorem standing_engWrite (core) (m ident col : ℕ) (l : List (ℕ × ℕ)) (ws : List Word) (d : Dev) :
    standing core (engWrite m ident col l ws d).2 = standing core d := by
  induction l generalizing ws d with
  | nil => rfl
  | cons x l ih =>
    unfold engWrite
    split
    · exact standing_mpuRecord ..
    · rw [ih, standing_loseResv, standing_with] <;> rfl

theorem standing_engWriteAt (core d m ident col a ws) : standing core (engWriteAt d m ident col a ws).2 = standing core d := by
  simp only [engWriteAt, standing_engWrite]

/-- The defining equation, got from the function as a whole: the kernel would evaluate the writes to check the applied one. -/
theorem standing_stageWrite (core) (ws : List Word) (d : Dev) : standing core (stageWrite ws d).2 = standing core d := by
  have hf : stageWrite = stageWrite := rfl
  conv_rhs at hf => delta stageWrite
  have hd := congrFun (congrFun hf ws) d
  dsimp only at hd
  rw [hd]
  split
  next e h => rw [← standing_engWriteAt core d, h]
  next e h => rw [standing_engWriteAt, ← standing_engWriteAt core d, h]

theorem standing_rplLost (core pass d) : standing core (rplLost pass d) = standing core d := by
  have hlost : Reg.RPL_LOST ≠ Reg.RPL_REPLAY_CORES := by decide
  simp only [rplLost, standing_rgAdd hlost, standing_stagePut, standing_stageWrite, standing_onRpl, implies_true]

theorem standing_stageRecord (core) (pass : ℕ) (o : Octets) (d : Dev) : standing core (stageRecord pass o d) = standing core d := by
  unfold stageRecord
  split
  · exact standing_rplLost ..
  · have h := standing_stageWrite core (densePack o) d
    split
    next e hw => rw [standing_stagePut, ← h, hw]
    next e hw => rw [standing_rplLost, ← h, hw]

theorem standing_recordClose (core d) : standing core (recordClose d) = standing core d := by
  unfold recordClose
  split <;> simp only [standing_ite, ite_self, standing_onRpl, implies_true, standing_stageRecord]

theorem standing_recordCloseAll (core) (n : ℕ) (d : Dev) : standing core (recordCloseAll n d) = standing core d := by
  induction n generalizing d with
  | zero => rfl
  | succ n ih => simp only [recordCloseAll, standing_ite, ih, standing_recordClose, ite_self]

theorem standing_onHop (core d f) : standing core (onHop d f) = standing core d := (rfl)

theorem standing_pvSet (core d m a v) : standing core (pvSet d m a v) = standing core d := (rfl)

theorem standing_swDrawRead (core m d) : standing core (swDrawRead m d).2 = standing core d := by
  unfold swDrawRead
  repeat' split
  all_goals simp only [standing_onHop, standing_pvSet]

theorem standing_rdSet (core d m v) : standing core (rdSet d m v) = standing core d := (rfl)

theorem standing_hopRawDataRead (core m arrived d) : standing core (hopRawDataRead m arrived d) = standing core d := by
  simp only [hopRawDataRead, standing_ite, ite_self, standing_rdSet, standing_onHop, standing_drawWord]

theorem standing_rawBusRead (core m d) : standing core (rawBusRead m d) = standing core d := by
  simp only [rawBusRead, standing_ite, ite_self, standing_rdSet, standing_drawWord, standing_hopRawDataRead]

theorem standing_pmuSet (core d m x) : standing core (pmuSet d m x) = standing core d := (rfl)

theorem standing_sampleData (core g d) : standing core (sampleData g d).2 = standing core d := by
  simp only [sampleData]
  split <;> simp only [standing_pmuSet]

theorem standing_pairRead (core) (m a : ℕ) {get : ℕ → Dev → Word × Dev} (h : ∀ a d, standing core (get a d).2 = standing core d) (d : Dev) :
    standing core (pairRead m a get d).2 = standing core d := by
  unfold pairRead
  split
  · rfl
  · dsimp only
    split
    · rw [standing_with, h, h] <;> rfl
    · exact h ..

theorem standing_pmuSettle (core m lo d) : standing core (pmuSettle m lo d) = standing core d := by
  simp only [pmuSettle, standing_ite, ite_self, standing_drawWord, standing_rgSet (pmuReg_ne _ _), standing_pmuSet]

theorem standing_pmuRead (core g k d) : standing core (pmuRead g k d).2 = standing core d := by
  simp only [pmuRead]
  repeat' split
  all_goals simp only [standing_drawWord, standing_pmuSettle]

theorem standing_hostWr (core d a o) : standing core (hostWr d a o) = standing core d := (rfl)

theorem standing_fnWrite (core d f a o) : standing core (fnWrite d f a o) = standing core d := by
  have hlate : Reg.WHF_LATE_DISCARDS ≠ Reg.RPL_REPLAY_CORES := by decide
  simp only [fnWrite, standing_ite, ite_self, standing_hostWr, standing_rgAdd hlate]

theorem standing_queueBarge (core d queue b) : standing core (queueBarge d queue b) = standing core d := (rfl)

theorem standing_cmdSet (core d blk master c) : standing core (cmdSet d blk master c) = standing core d := (rfl)

theorem standing_noteReset (core lvl src m fresh d) : standing core (noteReset lvl src m fresh d) = standing core d := (rfl)

theorem standing_mbxSet (core d c x) : standing core (mbxSet d c x) = standing core d := (rfl)

theorem standing_mbxGone (core m d) : standing core (mbxGone m d) = standing core d := by
  simp only [mbxGone, standing_foldl, implies_true, standing_ite, ite_self, standing_mbxSet]

theorem standing_rplItem (core m kind words d) : standing core (rplItem m kind words d) = standing core d := by
  simp only [rplItem, standing_ite, ite_self, standing_sectSet]

theorem standing_authSpent (core d) : standing core (authSpent d) = standing core d := by
  unfold authSpent
  split <;> simp only [standing_ite, ite_self, standing_with]

theorem standing_pushDiscard (core d) : standing core (pushDiscard d) = standing core d := by
  simp only [pushDiscard, standing_ite, ite_self, standing_queueBarge]

theorem standing_moncInc (core d i) : standing core (moncInc d i) = standing core d := (rfl)

theorem standing_chmEmpty (core d) : standing core (chmEmpty d) = standing core d := by
  simp only [chmEmpty, standing_with, standing_authSpent, standing_pushDiscard, standing_moncInc]

theorem rg_filter {d : Dev} {a : ℕ} {p : ℕ → Bool} (h : p a = true) : rg { d with regs := d.regs.filter (fun e => p e.1) } a = rg d a := by
  have : tabFind (d.regs.filter (fun e => p e.1)) a = tabFind d.regs a := by
    induction d.regs with
    | nil => rfl
    | cons e t ih =>
      obtain ⟨k, v⟩ := e
      rw [List.filter_cons]
      by_cases hk : a = k
      · subst hk
        simp only [h, if_true, tabFind]
      · split <;> simp only [tabFind, if_neg hk, ih]
  simp only [rg, this]

/-- A filter of the register words that leaves the one that names the replayed cores. -/
theorem standing_filter {p : ℕ → Bool} (h : p Reg.RPL_REPLAY_CORES = true) (core d) :
    standing core { d with regs := d.regs.filter (fun e => p e.1) } = standing core d := by
  have hr := rg_filter (d := d) h
  simp only [standing, hr]
  rfl

theorem standing_pmuReset (core m d) : standing core (pmuReset m d) = standing core d := by
  have hp : (!decide (0x170011 / 256 = 0x1800 + m)) = true := by
    have : 0x170011 / 256 ≠ 0x1800 + m := by omega
    simpa using this
  exact standing_filter (p := fun a => !decide (a / 256 = 0x1800 + m)) hp core { d with pmu := tabErase d.pmu m }

theorem standing_hopCoreReset (core m d) : standing core (hopCoreReset m d) = standing core d := (rfl)

theorem standing_onRst (core d f) : standing core (onRst d f) = standing core d := (rfl)

/-- A CORE reset of another core. -/
theorem standing_coreReset {core m : ℕ} (hm : m < 0x1000) (hne : m ≠ core) (d) : standing core (coreReset m d) = standing core d := by
  have hp : (!decide (0x170011 / 256 = 0x0700 + m)) = true := by
    have : 0x170011 / 256 ≠ 0x0700 + m := by omega
    simpa using this
  have hw : ∀ k, k < 4 → wdgReg m k ≠ Reg.RPL_REPLAY_CORES := by
    intro k hk
    have hi : ∀ a, a < 0x170000 → isl m a ≠ 0x170011 := fun a ha => by unfold isl; split <;> omega
    refine hi _ ?_
    rw [show Reg.RST_WDG_CTL = 0x20 from rfl]
    split <;> omega
  have hf : ∀ e : Dev, standing core { e with regs := e.regs.filter (fun x => !decide (x.1 / 256 = 0x0700 + m)) } = standing core e :=
    standing_filter (p := fun a => !decide (a / 256 = 0x0700 + m)) hp core
  simp only [coreReset, standing_onRst, standing_rgSet (hw 0 (by decide)), standing_rgSet (hw 2 (by decide)), hf, standing_pmuReset,
    standing_hopCoreReset, standing_ite, standing_chmEmpty, standing_mbxGone, standing_rplItem, ite_self, standing_coreSet (fun h => absurd h hne)]

theorem standing_onTag (core d f) : standing core (onTag d f) = standing core d := (rfl)

theorem standing_tagBlock (core pcb inf d) : standing core (tagBlock pcb inf d) = standing core d := (rfl)

theorem standing_tagBlocks (core) (l : List Octets) (d : Dev) : standing core (tagBlocks l d) = standing core d := by
  fun_induction tagBlocks with
  | case1 => rfl
  | case2 => exact standing_tagBlock ..
  | case3 o r d h ih => rw [ih, standing_tagBlock]

theorem standing_tagAnswer (core d data sw) : standing core (tagAnswer d data sw) = standing core d := by
  have hops : Reg.TAG_CL_OPS ≠ Reg.RPL_REPLAY_CORES := by decide
  simp only [tagAnswer, standing_ite, ite_self, standing_tagBlocks, standing_onTag, standing_rgAdd hops]

theorem standing_tagWaitLost (core d) : standing core (tagWaitLost d) = standing core d := by
  simp only [tagWaitLost, standing_ite, ite_self, standing_tagAnswer, standing_onTag]

theorem standing_txHead (core m d) : standing core (txHead m d) = standing core d := by
  have h : lkgCoreReg m Reg.LKG_TXQ_BASE + 3 ≠ Reg.RPL_REPLAY_CORES := by
    rw [show Reg.RPL_REPLAY_CORES = 0x170011 from rfl, show Reg.LKG_TXQ_BASE = 0x090080 from rfl]
    unfold lkgCoreReg isl
    split <;> omega
  simp only [txHead, standing_ite, ite_self, standing_rgSet h]

theorem standing_lkgReset (core d) : standing core (lkgReset d) = standing core d := by
  have hlost : Reg.LKG_LOST ≠ Reg.RPL_REPLAY_CORES := by decide
  have hend : endReg true Reg.LKG_LOST ≠ Reg.RPL_REPLAY_CORES := by decide
  simp only [lkgReset, standing_foldl, standing_txHead, implies_true, standing_with, standing_tagWaitLost, standing_rgAdd hlost, standing_rgAdd hend]

theorem standing_challengeWipe (core d) : standing core (challengeWipe d) = standing core d := (rfl)

theorem standing_drawOct (core d n) : standing core (drawOct d n).2 = standing core d := (rfl)

theorem standing_tagCopySet (core d i c x) : standing core (tagCopySet d i c x) = standing core d := (rfl)

theorem standing_tagCut (core d i v how) : standing core (tagCut d i v how) = standing core d := by
  unfold tagCut
  split <;> simp only [standing_ite, ite_self, standing_drawOct, standing_tagCopySet]

theorem standing_accessCut (core a how d) : standing core (accessCut a how d) = standing core d := by
  simp only [accessCut, standing_ite, ite_self, standing_tagCut]

theorem standing_tagFieldReset (core d) : standing core (tagFieldReset d) = standing core d := by
  unfold tagFieldReset
  repeat' split
  all_goals simp only [standing_foldl, implies_true, standing_drawWord, standing_accessCut, standing_cmdSet, standing_onTag]


end Sys2Proof.Machine

/-! The presentation of a core's inputs (O20): R43, R46. -/

namespace Sys2Proof.Machine

/-! ### Presentation -/

theorem perm_insertBy {α : Type} (key : α → ℕ) (x : α) (l : List α) : (insertBy key x l).Perm (x :: l) := by
  induction l with
  | nil => exact .refl _
  | cons y l ih =>
    unfold insertBy
    split
    · exact .refl _
    · exact (ih.cons y).trans (.swap x y l)

theorem pairwise_insertBy {α : Type} {key : α → ℕ} {l : List α} (h : l.Pairwise (fun a b => key a ≤ key b)) (x : α) :
    (insertBy key x l).Pairwise (fun a b => key a ≤ key b) := by
  induction l with
  | nil => exact List.pairwise_singleton ..
  | cons y l ih =>
    obtain ⟨hy, hl⟩ := List.pairwise_cons.1 h
    unfold insertBy
    split
    next hlt =>
      refine List.pairwise_cons.2 ⟨fun b hb => ?_, h⟩
      rcases List.mem_cons.1 hb with rfl | hb
      · exact hlt.le
      · exact hlt.le.trans (hy b hb)
    next hlt =>
      refine List.pairwise_cons.2 ⟨fun b hb => ?_, ih hl⟩
      rcases List.mem_cons.1 ((perm_insertBy key x l).mem_iff.1 hb) with rfl | hb
      · exact not_lt.1 hlt
      · exact hy b hb

theorem perm_foldl_insertBy {α : Type} (key : α → ℕ) (l acc : List α) : (l.foldl (fun acc x => insertBy key x acc) acc).Perm (l ++ acc) := by
  induction l generalizing acc with
  | nil => exact .refl _
  | cons x l ih => exact (ih _).trans (((perm_insertBy key x acc).append_left l).trans List.perm_middle)

theorem mem_sortBy {α : Type} {key : α → ℕ} {l : List α} {x : α} : x ∈ sortBy key l ↔ x ∈ l := by
  rw [sortBy, (perm_foldl_insertBy key l []).mem_iff, List.append_nil]

theorem pairwise_sortBy {α : Type} (key : α → ℕ) (l : List α) : (sortBy key l).Pairwise (fun a b => key a ≤ key b) := by
  have h : ∀ acc : List α, acc.Pairwise (fun a b => key a ≤ key b) →
      (l.foldl (fun acc x => insertBy key x acc) acc).Pairwise (fun a b => key a ≤ key b) := by
    induction l with
    | nil => exact fun _ h => h
    | cons x l ih => exact fun acc h => ih _ (pairwise_insertBy h x)
  exact h [] List.Pairwise.nil

/-- Is a core with this standing presented with inputs? -/
def Standing.presents (m : ℕ) (s : Standing) : Bool :=
  s.run && decide (s.stopped = 0) && !(decide (2 ≤ s.mode) && (isH m || isF m) && (fld s.replayCores 11 0).testBit (rplBit m))

theorem presents_eq_standing {m : ℕ} (hm : isF m = false) (d : Dev) : presents d m = (standing m d).presents m := by
  have h : benchHeld d m = replayed d m := by simp only [benchHeld, hm, Bool.false_and, Bool.or_false]
  simp only [presents, h]
  rfl

theorem presents_of_not_run {d : Dev} {m : ℕ} (h : (coreGet d m).run = false) : presents d m = false := by
  simp only [presents, h, Bool.false_and]

/-- R43, R46: a core presented at the edge has EDGE pending and its inputs in order, 1,024 of them where one of an earlier pass still waits. -/
structure Standing.Shown (s : Standing) : Prop where
  edge : tabGet false s.pend 17 = true
  sorted : s.seen.Pairwise (fun i j => inputKey i ≤ inputKey j)
  full : s.late = true → s.seen.length = 1024

/-- A core of the host island that is presented has been shown its inputs. -/
def WellPresented (m : ℕ) (d : Dev) : Prop := presents d m = true → (standing m d).Shown

theorem WellPresented.of_standing {m : ℕ} {d t : Dev} (hm : isF m = false) (h : standing m t = standing m d) (hd : WellPresented m d) :
    WellPresented m t := by
  intro ht
  rw [presents_eq_standing hm, h, ← presents_eq_standing hm] at ht
  rw [h]
  exact hd ht

/-- The inputs after a core's presentation: those due beyond 1,024, and everything else. -/
def inqAfter (d : Dev) (m : ℕ) : List Input :=
  (inputsDue d m).drop 1024 ++ d.pas.inq.filter (fun i => !(decide (i.core = m) && decide (i.pass < d.pas.count)))

/-- What the core is shown, ahead of what becomes pending. -/
def inputsShown (d : Dev) (m : ℕ) : Dev :=
  { d with pas := { d.pas with inq := inqAfter d m, seen := d.pas.seen.filter (fun i => decide (i.core ≠ m)) ++ (inputsDue d m).take 1024 } }

theorem pend_pendSet (m v : ℕ) (d : Dev) (w : ℕ) :
    tabGet false (coreGet (pendSet m v d) m).pend w = if w = v then true else tabGet false (coreGet d m).pend w := by
  simp only [pendSet, coreGet_onCore, if_true, tabGet_tabSet]

/-- A core of the host island that is presented is shown its inputs, and EDGE becomes pending. -/
theorem presentCore_shown {d : Dev} {m : ℕ} (hf : isF m = false) (hp : presents d m = true) :
    (presentCore d m).pas = (inputsShown d m).pas ∧ tabGet false (coreGet (presentCore d m) m).pend 17 = true := by
  have hedge : ∀ (c : Prop) [Decidable c] (v : ℕ) (e : Dev), e.pas = (inputsShown d m).pas ∧ tabGet false (coreGet e m).pend 17 = true →
      (if c then pendSet m v e else e).pas = (inputsShown d m).pas ∧ tabGet false (coreGet (if c then pendSet m v e else e) m).pend 17 = true := by
    intro c _ v e he
    split
    · exact ⟨he.1, by rw [pend_pendSet, he.2, ite_self]⟩
    · exact he
  unfold presentCore
  rw [if_neg (by simp [hp])]
  extract_lets due now rest _ e₁ e₂ e₃ e₄ e₅
  have h₄ : e₄.pas = (inputsShown d m).pas ∧ tabGet false (coreGet e₄ m).pend 17 = true := by
    refine ⟨?_, by rw [pend_pendSet, if_pos rfl]⟩
    simp only [e₄, e₃, e₂, hf, Bool.false_eq_true, if_false]
    split <;> rfl
  by_cases hm : m = 1
  · subst hm
    exact hedge _ _ _ (hedge _ _ _ h₄)
  · rw [if_neg (fun h => hm h.1)]
    exact hedge _ _ _ h₄

theorem presentCore_of_not_presents {d : Dev} {m : ℕ} (hp : presents d m = false) :
    presentCore d m = { d with pas := { d.pas with seen := d.pas.seen.filter (fun i => decide (i.core ≠ m)) } } := by
  simp only [presentCore, hp, Bool.false_eq_true, not_false_eq_true, if_true]

theorem standing_pendSet_other {m n : ℕ} (h : n ≠ m) (vec d) : standing m (pendSet n vec d) = standing m d :=
  standing_coreSet (fun hn => absurd hn h)

theorem filter_filter_ne {m n : ℕ} (h : n ≠ m) (l : List Input) :
    (l.filter (fun i => decide (i.core ≠ n))).filter (fun i => decide (i.core = m)) = l.filter (fun i => decide (i.core = m)) := by
  rw [List.filter_filter]
  refine List.filter_congr fun i _ => ?_
  by_cases hi : i.core = m
  · simp [hi, h.symm]
  · simp [hi]

theorem dueTo_of_mem_inputsDue {d : Dev} {m : ℕ} {i : Input} (h : i ∈ inputsDue d m) : i.core = m ∧ i.pass < d.pas.count := by
  simpa using (List.mem_filter.1 (mem_sortBy.1 h)).2

theorem any_inqAfter_other {m n : ℕ} (h : n ≠ m) (d : Dev) :
    (inqAfter d n).any (fun i => decide (i.core = m) && decide (i.pass < d.pas.count)) =
      d.pas.inq.any (fun i => decide (i.core = m) && decide (i.pass < d.pas.count)) := by
  rw [Bool.eq_iff_iff]
  simp only [List.any_eq_true, inqAfter, List.mem_append, List.mem_filter, Bool.and_eq_true, decide_eq_true_eq]
  constructor
  · rintro ⟨i, hi | hi, hc⟩
    · exact absurd ((dueTo_of_mem_inputsDue (List.mem_of_mem_drop hi)).1.symm.trans hc.1) h
    · exact ⟨i, hi.1, hc⟩
  · rintro ⟨i, hi, hc⟩
    refine ⟨i, .inr ⟨hi, ?_⟩, hc⟩
    have : i.core ≠ n := fun hn => h (hn.symm.trans hc.1)
    simp [this]

theorem seen_inputsShown_other {m n : ℕ} (h : n ≠ m) (d : Dev) :
    (inputsShown d n).pas.seen.filter (fun i => decide (i.core = m)) = d.pas.seen.filter (fun i => decide (i.core = m)) := by
  have hnow : ((inputsDue d n).take 1024).filter (fun i => decide (i.core = m)) = [] := by
    refine List.filter_eq_nil_iff.2 fun i hi => ?_
    simpa [(dueTo_of_mem_inputsDue (List.mem_of_mem_take hi)).1] using h
  rw [inputsShown, List.filter_append, filter_filter_ne h, hnow, List.append_nil]

theorem standing_inputsShown_other {m n : ℕ} (h : n ≠ m) (d : Dev) : standing m (inputsShown d n) = standing m d := by
  have hs := seen_inputsShown_other h d
  have hl := any_inqAfter_other h d
  simp only [standing, hs]
  exact congrArg (Standing.mk _ _ _ _ _ _) hl

/-- A core's presentation leaves another core as it stands. -/
theorem standing_presentCore_other {m n : ℕ} (hf : isF n = false) (h : n ≠ m) (d : Dev) : standing m (presentCore d n) = standing m d := by
  unfold presentCore
  split
  · have hs := filter_filter_ne h d.pas.seen
    simp only [standing, hs]
    rfl
  · extract_lets due now rest _ e₁ e₂ e₃ e₄ e₅
    have h₁ : standing m e₁ = standing m d := standing_inputsShown_other h d
    have h₅ : standing m e₅ = standing m d := by
      simp only [e₅, e₄, e₃, e₂, hf, Bool.false_eq_true, if_false, standing_ite, standing_pendSet_other h, ite_self, h₁]
    split
    next hn => rw [standing_pendSet_other (hn.1 ▸ h), h₅]
    next => exact h₅

theorem wellPresented_presentCore {m : ℕ} (hf : isF m = false) (d : Dev) : WellPresented m (presentCore d m) := by
  intro ht
  by_cases hp : presents d m = true
  · obtain ⟨hpas, hedge⟩ := presentCore_shown hf hp
    have hseen : (inputsShown d m).pas.seen.filter (fun i => decide (i.core = m)) = (inputsDue d m).take 1024 := by
      have hold : (d.pas.seen.filter (fun i => decide (i.core ≠ m))).filter (fun i => decide (i.core = m)) = [] := by
        refine List.filter_eq_nil_iff.2 fun i hi => ?_
        simpa using (List.mem_filter.1 hi).2
      have hnow : ((inputsDue d m).take 1024).filter (fun i => decide (i.core = m)) = (inputsDue d m).take 1024 :=
        List.filter_eq_self.2 fun i hi => by simpa using (dueTo_of_mem_inputsDue (List.mem_of_mem_take hi)).1
      rw [inputsShown, List.filter_append, hold, hnow, List.nil_append]
    refine ⟨hedge, ?_, fun hl => ?_⟩
    · simp only [standing, hpas, hseen]
      exact (pairwise_sortBy ..).sublist (List.take_sublist ..)
    · simp only [standing, hpas, hseen] at hl ⊢
      have hlen : 1024 < (inputsDue d m).length := by
        by_contra hle
        have hdrop : (inputsDue d m).drop 1024 = [] := List.drop_eq_nil_of_le (by omega)
        obtain ⟨i, hi, hdue⟩ := List.any_eq_true.1 hl
        simp only [inputsShown, inqAfter, hdrop, List.nil_append, List.mem_filter] at hi
        have hleft : (!(decide (i.core = m) && decide (i.pass < d.pas.count))) = true := hi.2
        have hdue' : (decide (i.core = m) && decide (i.pass < d.pas.count)) = true := hdue
        rw [hdue'] at hleft
        cases hleft
      rw [List.length_take, Nat.min_eq_left hlen.le]
  · rw [presentCore_of_not_presents (by simpa using hp)] at ht
    exact absurd ht hp

theorem standing_foldl_presentCore {m : ℕ} {l : List ℕ} {d : Dev} (h : ∀ n ∈ l, isF n = false ∧ n ≠ m) :
    standing m (l.foldl presentCore d) = standing m d := by
  induction l generalizing d with
  | nil => rfl
  | cons n l ih =>
    obtain ⟨hf, hne⟩ := h n List.mem_cons_self
    exact (ih fun k hk => h k (List.mem_cons_of_mem n hk)).trans (standing_presentCore_other hf hne d)

/-- Once each core of a list has had its presentation, each has been shown its inputs. -/
theorem wellPresented_foldl_presentCore {l : List ℕ} (hf : ∀ n ∈ l, isF n = false) (hnd : l.Nodup) (d : Dev) {m : ℕ} (hm : m ∈ l) :
    WellPresented m (l.foldl presentCore d) := by
  induction l generalizing d with
  | nil => cases hm
  | cons n l ih =>
    obtain ⟨hn, hnd⟩ := List.nodup_cons.1 hnd
    have hfl := fun k hk => hf k (List.mem_cons_of_mem n hk)
    rcases List.mem_cons.1 hm with rfl | hm
    · exact (wellPresented_presentCore (hf m List.mem_cons_self) d).of_standing (hf m List.mem_cons_self)
        (standing_foldl_presentCore (l := l) fun k hk => ⟨hfl k hk, fun h => hn (h ▸ hk)⟩)
    · exact ih hfl hnd _ hm

end Sys2Proof.Machine

/-! A core after its presentation (O20): the resets that core stops bring, and the register reads of the edge: R338, R454. -/

namespace Sys2Proof.Machine

/-! ### What the resets leave of the cores -/

theorem cores_ite (c : Prop) [Decidable c] (a b : Dev) : (if c then a else b).cores = if c then a.cores else b.cores := apply_ite Dev.cores c a b

theorem cores_foldl {α : Type} {g : Dev → α → Dev} (h : ∀ d x, (g d x).cores = d.cores) (l : List α) (d : Dev) : (l.foldl g d).cores = d.cores := by
  induction l generalizing d with
  | nil => rfl
  | cons x l ih => rw [List.foldl_cons, ih, h]

theorem cores_tmpEvent (s d) : (tmpEvent s d).cores = d.cores := by
  simp only [tmpEvent, cores_ite, rgSet, ite_self]

theorem cores_rgSet (d a v) : (rgSet d a v).cores = d.cores := (rfl)

theorem cores_onRst (d f) : (onRst d f).cores = d.cores := (rfl)

theorem cores_sdhReset (keep d) : (sdhReset keep d).cores = d.cores := (rfl)

theorem cores_ofcReset (d) : (ofcReset d).cores = d.cores := (rfl)

theorem cores_crgDiscard (d) : (crgDiscard d).cores = d.cores := (rfl)

theorem cores_onHop (d f) : (onHop d f).cores = d.cores := (rfl)

theorem cores_hopFault (cause d) : (hopFault cause d).cores = d.cores := by
  simp only [hopFault, cores_ite, cores_tmpEvent, cores_onHop, ite_self]

theorem cores_hopRestart (d) : (hopRestart d).cores = d.cores := by
  simp only [hopRestart, hopCheck, cores_ite, cores_hopFault, cores_onHop, ite_self]

theorem cores_rawEnd (d) : (rawEnd d).cores = d.cores := by
  simp only [rawEnd, cores_ite, cores_hopRestart, cores_onHop, ite_self]

theorem cores_lifeReset (d) : (lifeReset d).cores = d.cores := by
  have hend : ∀ e, (endTowpath e).cores = e.cores := fun e => by simp only [endTowpath, onLife, cores_ite, cores_rawEnd, ite_self]
  have htorn : ∀ e, (rootTorn e).cores = e.cores := fun _ => rfl
  simp only [lifeReset, onLife, hend, cores_ite, htorn, ite_self]

theorem cores_flsHostReset (d) : (flsHostReset d).cores = d.cores := by
  have hset : ∀ e p x, (planeSet e p x).cores = e.cores := fun _ _ _ => rfl
  have herase : ∀ p e, (resumeErase p e).cores = e.cores := by
    intro p e
    simp only [resumeErase]
    split <;> rfl
  simp only [flsHostReset, cores_foldl, cores_ite, herase, hset, ite_self, implies_true]

theorem cores_clearCounts (d) : (clearCounts d).cores = d.cores := by
  simp only [clearCounts, cores_foldl, rgSet, implies_true]

theorem cores_chmEmpty (d) : (chmEmpty d).cores = d.cores := by
  have hauth : ∀ e, (authSpent e).cores = e.cores := by
    intro e
    unfold authSpent
    split
    · simp only [cores_ite, ite_self]
    · rfl
  simp only [chmEmpty, moncInc, hauth, pushDiscard, queueBarge, cores_ite, ite_self]

/-- R454: a CORE reset leaves the core in its start state, not running. -/
theorem coreGet_coreReset_self (m d) : coreGet (coreReset m d) m = {} := by
  have hgone : ∀ e, (mbxGone m e).cores = e.cores := fun e => by simp only [mbxGone, cores_foldl, cores_ite, mbxSet, ite_self, implies_true]
  have hitem : ∀ k ws e, (rplItem m k ws e).cores = e.cores := fun k ws e => by simp only [rplItem, sectSet, onRpl, cores_ite, ite_self]
  have h : (coreReset m d).cores = tabSet {} d.cores m {} := by
    simp only [coreReset, onRst, rgSet, pmuReset, hopCoreReset, onHop, coreSet, cores_ite, cores_chmEmpty, hgone, hitem, ite_self]
  simp only [coreGet, h, tabGet_tabSet, if_true]

theorem run_of_cores {m : ℕ} {d t : Dev} (h : t.cores = d.cores) : (coreGet t m).run = (coreGet d m).run := by rw [coreGet, coreGet, h]

theorem run_of_standing {m : ℕ} {d t : Dev} (h : standing m t = standing m d) : (coreGet t m).run = (coreGet d m).run := congrArg Standing.run h

/-- The core stands as it stood, or does not run. -/
def Settled (m : ℕ) (d t : Dev) : Prop := standing m t = standing m d ∨ (coreGet t m).run = false

section
variable {m : ℕ} {d e t : Dev}

theorem Settled.trans (h : Settled m d e) (h' : Settled m e t) : Settled m d t := by
  rcases h' with h' | h'
  · rcases h with h | h
    · exact .inl (h'.trans h)
    · exact .inr ((run_of_standing h').trans h)
  · exact .inr h'

theorem Settled.ite {c : Prop} [Decidable c] {x y : Dev} (hx : Settled m d x) (hy : Settled m d y) : Settled m d (if c then x else y) := by
  split
  · exact hx
  · exact hy

theorem Settled.refl : Settled m d d := .inl rfl

theorem Settled.foldl {α : Type} {g : Dev → α → Dev} {l : List α} (h : ∀ d, ∀ x ∈ l, Settled m d (g d x)) (d : Dev) : Settled m d (l.foldl g d) := by
  induction l generalizing d with
  | nil => exact .refl
  | cons x l ih => exact (h d x List.mem_cons_self).trans (ih (fun e y hy => h e y (List.mem_cons_of_mem _ hy)) _)

theorem settled_coreReset {n : ℕ} (hn : n < 0x1000) (d) : Settled m d (coreReset n d) := by
  by_cases h : n = m
  · exact .inr (by rw [h, coreGet_coreReset_self])
  · exact .inl (standing_coreReset hn h d)

/-- Once the cores of a list are reset, none of them runs. -/
theorem run_foldl_coreReset {l : List ℕ} (hl : ∀ n ∈ l, n < 0x1000) (hm : m ∈ l) (d) : (coreGet (l.foldl (fun d n => coreReset n d) d) m).run = false := by
  induction l generalizing d with
  | nil => cases hm
  | cons n l ih =>
    have hl' := fun k hk => hl k (List.mem_cons_of_mem n hk)
    by_cases h : m ∈ l
    · exact ih hl' h _
    · obtain rfl : m = n := (List.mem_cons.1 hm).resolve_right h
      have hs : Settled m (coreReset m d) (l.foldl (fun d n => coreReset n d) (coreReset m d)) := .foldl (fun e k hk => settled_coreReset (hl' k hk) e) _
      rcases hs with hs | hs
      · exact (run_of_standing hs).trans (by rw [coreGet_coreReset_self])
      · exact hs

/-- A HOST reset stops every core of the host island. -/
theorem run_hostReset (hm : m ∈ 1 :: hostCores) (d) : (coreGet (hostReset d) m).run = false := by
  unfold hostReset
  extract_lets e₁ e₂ e₃ _ e₄ e₅
  have h₂ : (coreGet e₂ m).run = false := run_foldl_coreReset (by decide) hm _
  have h₄ : e₄.cores = e₂.cores := by
    simp only [e₄, e₃, cores_lifeReset, cores_sdhReset, cores_ofcReset, cores_crgDiscard, cores_flsHostReset]
  have h₅ : (coreGet e₅ m).run = (coreGet e₄ m).run := (run_of_cores (cores_clearCounts _)).trans (run_of_standing (standing_lkgReset ..))
  rw [run_of_cores (cores_onRst ..), h₅, run_of_cores h₄, h₂]

/-- A core of the host island keeps its inputs when those of the field island's cores are lost. -/
theorem filter_core_filter_island (hf : isF m = false) (l : List Input) :
    (l.filter (fun i => decide (isF i.core ≠ true))).filter (fun i => decide (i.core = m)) = l.filter (fun i => decide (i.core = m)) := by
  rw [List.filter_filter]
  refine List.filter_congr fun i _ => ?_
  by_cases hi : i.core = m <;> simp [hi, hf]

theorem any_core_filter_island (hf : isF m = false) (l : List Input) (p : Input → Bool) :
    (l.filter (fun i => decide (isF i.core ≠ true))).any (fun i => decide (i.core = m) && p i) = l.any (fun i => decide (i.core = m) && p i) := by
  rw [List.any_filter]
  congr 1
  funext i
  by_cases hi : i.core = m <;> simp [hi, hf]

/-- A FIELD reset leaves a core of the host island as it stands. -/
theorem standing_fieldReset (hf : isF m = false) (d) : standing m (fieldReset d) = standing m d := by
  have hcores : ∀ e, standing m (fieldCores.foldl (fun d n => coreReset n d) e) = standing m e := by
    have h : ∀ n ∈ fieldCores, n < 0x1000 ∧ isF n = true := by decide
    intro e
    simp only [fieldCores, List.forall_mem_cons] at h
    obtain ⟨⟨h₀, f₀⟩, ⟨h₁, f₁⟩, ⟨h₂, f₂⟩, ⟨h₃, f₃⟩, -⟩ := h
    have hne : ∀ n, isF n = true → n ≠ m := fun n hn h => by rw [h, hf] at hn; cases hn
    simp only [fieldCores, List.foldl_cons, List.foldl_nil, standing_coreReset h₀ (hne _ f₀), standing_coreReset h₁ (hne _ f₁),
      standing_coreReset h₂ (hne _ f₂), standing_coreReset h₃ (hne _ f₃)]
  have hlost : ∀ (e : Dev) priv pinned fld,
      standing m { e with
        regs := e.regs.filter (fun x => !fieldKey x.1 || decide (2 ^ 25 ≤ x.1)), priv := priv, pinned := pinned, fmem := [], fld := fld,
        pas := pasReset true e.pas, rpl := { e.rpl with logs := [], inputs := [], inputDue := [] } } = standing m e := by
    intro e priv pinned fld
    have hr := rg_filter (d := e) (a := Reg.RPL_REPLAY_CORES) (p := fun a => !fieldKey a || decide (2 ^ 25 ≤ a)) (by decide)
    simp only [standing, ← hr]
    simp only [pasReset, filter_core_filter_island hf, any_core_filter_island hf]
    rfl
  simp only [fieldReset, standing_onRst, standing_with, standing_lkgReset, standing_challengeWipe, standing_tagFieldReset, hlost, hcores]

theorem run_coldReset (hm : m ∈ 1 :: hostCores) (d) : (coreGet (coldReset d) m).run = false := by
  have hf : isF m = false := by revert m; decide
  unfold coldReset
  extract_lets e₁ e₂ _ e₃
  have h₁ : (coreGet e₁ m).run = false := (run_of_standing (standing_fieldReset hf _)).trans (run_hostReset hm _)
  have h₂ : e₂.cores = e₁.cores := by simp only [e₂, cores_foldl, cores_rgSet, implies_true]
  have h₃ : e₃.cores = e₁.cores := by simp only [e₃, h₂]
  rw [run_of_cores (cores_onRst ..), run_of_cores h₃, h₁]

theorem run_keepReset (hm : m ∈ 1 :: hostCores) (d) : (coreGet (keepReset d) m).run = false := by
  have h : (keepReset d).cores = (coldReset d).cores := by simp only [keepReset, cores_onRst, cores_sdhReset]
  rw [run_of_cores h, run_coldReset hm]

theorem settled_carryOut (hm : m ∈ 1 :: hostCores) (lvl src) {n : ℕ} (hn : n < 0x1000) (d) : Settled m d (carryOut lvl src n d) := by
  have hf : isF m = false := by revert m; decide
  have hnote : ∀ {e : Dev}, Settled m d e → ∀ a b c f k, Settled m d { noteReset a b c f e with keep := k } := fun h a b c f k => h.trans (.inl rfl)
  have hrun : ∀ {e : Dev}, (coreGet e m).run = false → ∀ a b c f k, Settled m d { noteReset a b c f e with keep := k } := fun h => hnote (.inr h)
  unfold carryOut
  exact .ite (hrun (run_keepReset hm d) ..) <| .ite (hrun (run_coldReset hm d) ..) <| .ite (hrun (run_hostReset hm d) ..) <|
    .ite (hnote (.inl ((standing_onRst ..).trans (standing_fieldReset hf d))) ..) <| .ite (hnote (settled_coreReset hn d) ..) .refl

theorem settled_sourceAssert (hm : m ∈ 1 :: hostCores) (s) {n : ℕ} (hn : n < 0x1000) (d) : Settled m d (sourceAssert s n d) := by
  have hn' : (if srcCore s then n else 0) < 0x1000 := by split <;> omega
  unfold sourceAssert sourceAt
  exact .ite .refl <| .ite .refl <| .ite (.inl (standing_noteReset ..)) (settled_carryOut hm _ _ hn' d)

/-- The core that a record names. -/
theorem lt_of_stopOf {i : Input} {n : ℕ} (h : stopOf i = some n) : n < 0x1000 := by
  unfold stopOf at h
  split at h
  · cases h; omega
  split at h
  · cases h; omega
  · cases h

theorem settled_stopSources (hm : m ∈ 1 :: hostCores) (d) : Settled m d (stopSources d) := by
  refine .foldl (fun e n hn => settled_sourceAssert hm _ ?_ e) d
  obtain ⟨i, -, hi⟩ := List.mem_filterMap.1 (List.mem_of_mem_filter hn)
  exact lt_of_stopOf hi

end

/-! ### The register reads of the edge -/

theorem standing_regRead {m : ℕ} (hm : isCore m = false) (core dl pl a d) : standing core (regRead dl m pl a d).2 = standing core d := by
  have hn : ∀ (kind : ℕ) (r : Word × Dev), noteRead m kind r = r := by simp only [noteRead, hm, Bool.false_eq_true, if_false, implies_true]
  unfold regRead
  simp only [hn]
  split_ifs
  · exact standing_drawWord ..
  · exact standing_swDrawRead ..
  · rfl
  · exact standing_rawBusRead ..
  · split
    · split_ifs
      · rfl
      · exact standing_sampleData ..
      · exact standing_pairRead _ _ _ (fun _ _ => standing_pmuRead ..) _
    · exact standing_pairRead _ _ _ (fun _ _ => rfl) _

theorem standing_plainWrite_selection {a : ℕ} (h : a ∈ selectRegs) (core r v d) : standing core (plainWrite r 0x40 a v d) = standing core d := by
  have hisl : ∀ b, isl 0x40 b = b := fun _ => rfl
  have hne : a ≠ Reg.RPL_REPLAY_CORES := by revert a; decide
  simp only [plainWrite, hisl, ite_self, standing_ite, standing_pvSet, standing_rgSet hne]

/-- The result of a ring's operation goes to host memory and to the operation alone. -/
theorem standing_deliver_ring {o : Op} {r k : ℕ} (h : o.src = .ring r k) (core d due pass) : standing core (deliver d o due pass) = standing core d := by
  have houts : ∀ e, standing core (ringOuts r o.outs e) = standing core e := standing_foldl (fun _ _ => standing_fnWrite ..) _
  have hset : ∀ e x, standing core (setOp e x) = standing core e := fun _ _ => rfl
  simp only [deliver, written, writeOuts_ring h, if_true, wipeReport, h, wipeOuts, report, hset, houts]

theorem standing_regReadNow (core d id) : standing core (regReadNow d id) = standing core d := by
  unfold regReadNow
  split
  · rfl
  next o _ =>
    have hsel : ∀ v, standing core (if o.f 12 4 ∈ selectRegs then busWrite 0x40 0 (o.f 12 4) v d else d) = standing core d := by
      intro v
      split
      next h =>
        obtain ⟨r, hr⟩ := busWrite_selection h 0 v d
        rw [hr, standing_plainWrite_selection h]
      next => rfl
    have hread : ∀ (c : Bool) (dl e : Dev), standing core (if c then ((0 : Word), e) else regRead dl 0x40 0 (o.f 8 4) e).2 = standing core e := by
      intro c dl e
      split
      · rfl
      · exact standing_regRead (by decide) ..
    split
    · rfl
    next hring =>
      obtain ⟨r, k, hsrc⟩ : ∃ r k, o.src = .ring r k := by
        have hr : o.ring?.isSome = true := (not_not.1 hring).2.2
        unfold Op.ring? at hr
        split at hr
        · exact ⟨_, _, ‹_›⟩
        · cases hr
      exact (standing_deliver_ring (by exact hsrc) ..).trans ((hread ..).trans (hsel _))

theorem standing_regReads (core d) : standing core (regReads d) = standing core d := standing_foldl (standing_regReadNow core) _ _

end Sys2Proof.Machine

/-! PASS_EDGE and FIELD_EDGE (O20). -/

namespace Sys2Proof.Machine

/-! ### PASS_EDGE and FIELD_EDGE -/

/-- R43, R46: at the end of an edge each core of the host island that is presented has been shown its inputs. -/
theorem wellPresented_edgePresent {m : ℕ} (hm : m ∈ 1 :: hostCores) (d : Dev) : WellPresented m (edgePresent d) := by
  have hf : isF m = false := by revert m; decide
  unfold edgePresent
  extract_lets e₁ e₂ e₃ e₄
  have h₁ : WellPresented m ((1 :: hostCores).foldl presentCore e₁) := wellPresented_foldl_presentCore (by decide) (by decide) e₁ hm
  have h₄ : standing m e₄ = standing m ((1 :: hostCores).foldl presentCore e₁) := by
    simp only [e₄, e₃, e₂, standing_svnBlow, standing_recordCloseAll, standing_foldl, standing_passResume, implies_true, standing_rplSnap,
      standing_freePosted]
  rcases settled_stopSources hm e₄ with h | h
  · exact h₁.of_standing hf ((standing_regReads ..).trans (h.trans h₄))
  · intro hp
    rw [presents_of_not_run ((run_of_standing (standing_regReads ..)).trans h)] at hp
    cases hp

theorem wellPresented_passEdge {m : ℕ} (hm : m ∈ 1 :: hostCores) {d : Dev} (hp : powered d = true) : WellPresented m (passEdge d) := by
  unfold passEdge
  rw [if_neg (by simp [hp])]
  exact wellPresented_edgePresent hm _

/-- Settles O20: the parts of an edge keep its timing but for the resets, whose level legal fuses bound, and after its presentation a core stands as it
stood or is reset. -/
theorem edgesPresentInputs : Obligations.EdgesPresentInputs := by
  intro s
  refine ⟨⟨_, rfl, passEdge_of_not_powered, fun hp => ⟨fun hl hs => passEdge_count hp ⟨hl, hs⟩, passEdge_recorded hp, ?shown⟩⟩,
    ⟨_, rfl, fun hup => fieldEdge_of_not_taken (.inl hup), fun he => fieldEdge_of_not_taken (.inr he),
      fun hl h7 => fieldEdge_count ⟨hl, by simpa using h7⟩, fieldEdge_edgeAt⟩⟩
  intro m hm hpres
  obtain ⟨hedge, hsorted, hfull⟩ := wellPresented_passEdge hm hp hpres
  refine ⟨hedge, hsorted, fun i hi hcore hpass => hfull ?_⟩
  exact List.any_eq_true.2 ⟨i, hi, by simpa using ⟨hcore, hpass⟩⟩

end Sys2Proof.Machine

/-! The command registers (O33): R108, R350, R478. -/

namespace Sys2Proof.Machine

/-- A command that has been taken stands behind the operations that were in flight, at the level named. -/
theorem Taken.map_pl {blk m code pl status dueAt : Nat} {dense : Bool} {args : List Nat} {phase : Phase} {s t : State}
    (h : Taken blk m code pl dense args phase status dueAt s t) : t.dev.ops.map (·.pl) = s.dev.ops.map (·.pl) ++ [pl] := by
  obtain ⟨o, ht, -, -, -, hpl, -⟩ := h
  rw [ht, List.map_append, List.map_singleton, hpl]

/-- Refutes O33: K may write KSL_CMD at P1, and the operation keeps that level, at which its buffers are judged (R350); the statement's rows of KSL_CMD,
ILS_CMD and CRG_CMD have level 0 for every writer. -/
theorem not_commandRegisters : ¬ Obligations.CommandRegisters := by
  intro h
  obtain ⟨hImport, -⟩ := List.forall_mem_cons.1 (h State.reset 1 1 0 none)
  have hlow : (1 = 1 ∨ isH 1 = true) ∧ 1 ≤ 1 := by decide
  obtain ⟨t, hexec, htaken⟩ := (hImport.1 hlow rfl).1 (by decide) (.inr rfl)
  have hkept : (kslCmd 1 1 1 State.reset.dev).ops.map (·.pl) = [1] := by decide
  have hnamed : t.dev.ops.map (·.pl) = [0] := htaken.map_pl
  have ht : { State.reset with dev := kslCmd 1 1 1 State.reset.dev } = t := Host.Outcome.next.inj hexec
  rw [← ht] at hnamed
  exact absurd (hkept.symm.trans hnamed) (by decide)

end Sys2Proof.Machine

/-! What the cipher and hash lanes compute and how an operation of a ring ends there (O34), late results and exhausted slots: R40, R92 to R96, R109 to
R112, R121. -/

namespace Sys2Proof.Machine

/-! ### A lane's result, as its operation names its fields (R92, R93) -/

/-- The IV of a cipher operation; with GEN_IV, the 12 octets drawn for it. -/
def laneIv (o : Op) : Octets := if o.genIv then o.iv.take 12 else o.iv

/-- Output and tag of a cipher operation under its key. -/
def laneRun (o : Op) : Octets × Octets :=
  cipherRun o.mode o.opcode o.material ((laneIv o).take o.ivLen) (o.input.take o.aadLen) (slice o.input o.aadLen o.payLen) o.tagLen

/-- The tag, cut to its length. -/
def laneTag (o : Op) : Octets := (laneRun o).2.take o.tagLen

/-- Is the computed tag the one that came with the input? -/
def tagSame (o : Op) : Bool := octEq (laneTag o) (o.input.drop (o.aadLen + o.payLen))

/-- The output and where it goes. -/
def payloadOuts (o : Op) : List (Nat × Octets) := if o.payLen = 0 then [] else [(o.dstAddr, (laneRun o).1)]

/-- The tag, a drawn IV behind it, and where it goes. -/
def tagOuts (o : Op) : List (Nat × Octets) := if o.tagLen = 0 then [] else [(o.tagAddr, laneTag o ++ if o.genIv then laneIv o else [])]

/-- The operation with the outcome a cipher lane computes. -/
def cipherResult (o : Op) : Op := cipherOutcome o o.material (laneIv o)

/-- The operation with the outcome a hash lane computes. -/
def hashResult (o : Op) : Op := hashOutcome o o.material

theorem resultOf_cipherResult (o : Op) : ResultOf o (cipherResult o) ∧ (cipherResult o).src = o.src := by
  unfold cipherResult cipherOutcome
  extract_lets
  split_ifs <;> exact ⟨⟨rfl, rfl, rfl, rfl⟩, rfl⟩

theorem resultOf_hashResult (o : Op) : ResultOf o (hashResult o) := ⟨rfl, rfl, rfl, rfl⟩

section Outcome
variable {o : Op}

theorem cipherResult_encrypt (h : o.opcode = 0x10) :
    cipherResult o = { o with status := St.done, sub := 0, resLen := o.payLen, outs := payloadOuts o ++ tagOuts o } := by
  simp only [cipherResult, cipherOutcome, if_pos h]
  rfl

theorem cipherResult_mac (h : o.opcode = 0x12) :
    cipherResult o = { o with status := St.done, sub := 0, resLen := o.tagLen, outs := tagOuts o } := by
  have h10 : o.opcode ≠ 0x10 := by omega
  simp only [cipherResult, cipherOutcome, if_neg h10, if_pos h]
  rfl

theorem cipherResult_verify (h : o.opcode = 0x13) : cipherResult o =
    if tagSame o = true then { o with status := St.done, sub := 0, resLen := 0, outs := [] }
    else { o with status := St.untrusted, sub := 0x01, resLen := 0, outs := [] } := by
  have h10 : o.opcode ≠ 0x10 := by omega
  have h12 : o.opcode ≠ 0x12 := by omega
  simp only [cipherResult, cipherOutcome, if_neg h10, if_neg h12, if_pos h]
  rfl

/-- A decryption whose tag differs gives its output as it is or, under SCRUB, zeros in its place (R109). -/
theorem cipherResult_decrypt {r pos : Nat} (hsrc : o.src = .ring r pos) (h : o.opcode = 0x11) : cipherResult o =
    if modeTagged o.mode = false ∨ tagSame o = true then { o with status := St.done, sub := 0, resLen := o.payLen, outs := payloadOuts o }
    else if o.scrub = true then
      { o with status := St.untrusted, sub := 0x02, resLen := o.payLen, outs := (payloadOuts o).map (fun x => (x.1, zeros x.2.length)) }
    else { o with status := St.untrusted, sub := 0x01, resLen := o.payLen, outs := payloadOuts o } := by
  have h10 : o.opcode ≠ 0x10 := by omega
  have h12 : o.opcode ≠ 0x12 := by omega
  have h13 : o.opcode ≠ 0x13 := by omega
  simp only [cipherResult, cipherOutcome, hsrc, if_neg h10, if_neg h12, if_neg h13, Bool.false_eq_true, if_false, Bool.not_eq_true]
  rfl

end Outcome

/-! ### Counters of a lane (R92, R94) -/

/-- The device e is d with register words changed, but not the least release delay (R40) and not the function that a ring belongs to. -/
def Counted (d e : Dev) : Prop :=
  e = { d with regs := e.regs } ∧ rg e Reg.PAS_RQ_KMIN = rg d Reg.PAS_RQ_KMIN ∧ ∀ r, ringFn e r = ringFn d r

theorem Counted.trans {d e t : Dev} (h : Counted d e) (k : Counted e t) : Counted d t :=
  ⟨by rw [k.1, h.1], k.2.1.trans h.2.1, fun r => (k.2.2 r).trans (h.2.2 r)⟩

/-- The assignments of the rings are every eighth word, so that a counter at another place among eight words is none of them. -/
theorem counted_rgAdd (d : Dev) (a : Nat) (hlow : Reg.PAS_RQ_KMIN < a) (hmod : a % 8 ≠ 5) : Counted d (rgAdd d a 1) := by
  refine ⟨rfl, (rg_rgSet ..).trans (if_neg hlow.ne), fun r => ?_⟩
  have hne : Reg.WHF_RING_ASSIGN + 8 * r ≠ a := by
    have : Reg.WHF_RING_ASSIGN % 8 = 5 := by decide
    omega
  rw [ringFn, ringAssign, rgAdd, rg_rgSet, if_neg hne]
  rfl

theorem counted_clnOps (d : Dev) (n : Nat) : Counted d (rgAdd d (Reg.CLN_OPS + 16 * n) 1) := by
  have hmod : Reg.CLN_OPS % 8 = 0 := by decide
  exact counted_rgAdd d _ (Nat.lt_add_right _ (by decide)) (by omega)

theorem counted_clnUntrusted (d : Dev) (n : Nat) : Counted d (rgAdd d (Reg.CLN_UNTRUSTED + 16 * n) 1) := by
  have hmod : Reg.CLN_UNTRUSTED % 8 = 1 := by decide
  exact counted_rgAdd d _ (Nat.lt_add_right _ (by decide)) (by omega)

theorem counted_hshOps (d : Dev) (n : Nat) : Counted d (rgAdd d (Reg.HSH_OPS + 8 * n) 1) := by
  have hmod : Reg.HSH_OPS % 8 = 7 := by decide
  exact counted_rgAdd d _ (Nat.lt_add_right _ (by decide)) (by omega)

theorem Counted.busMaster_eq {d e : Dev} (h : Counted d e) (r : Nat) : busMaster e (ringFn e r) = busMaster d (ringFn d r) := by
  rw [h.2.2 r, h.1]; rfl

/-! ### A lane finishes an operation of a ring -/

theorem fwGuard_ring {o : Op} {r pos : Nat} (hsrc : o.src = .ring r pos) (d : Dev) (out : Op) : fwGuard d o out = (d, out) := by
  simp only [fwGuard, hsrc]

/-- The device a cipher lane's outcome is counted in. -/
def cipherCounted (d : Dev) (n : Nat) (o : Op) : Dev :=
  if (cipherResult o).status = St.untrusted then rgAdd (rgAdd d (Reg.CLN_OPS + 16 * n) 1) (Reg.CLN_UNTRUSTED + 16 * n) 1
  else rgAdd d (Reg.CLN_OPS + 16 * n) 1

theorem counted_cipherCounted (d : Dev) (n : Nat) (o : Op) : Counted d (cipherCounted d n o) := by
  unfold cipherCounted
  split
  · exact (counted_clnOps d n).trans (counted_clnUntrusted _ n)
  · exact counted_clnOps d n

theorem deliver_ring {o : Op} {r pos : Nat} (hsrc : o.src = .ring r pos) (d : Dev) (due pass : Nat) :
    deliver d o due pass = setOp (ringOuts r o.outs d) { o with phase := .ended, dueAt := due, outs := [] } := by
  simp only [deliver, written, writeOuts_ring hsrc, if_true, wipeReport, report, hsrc, wipeOuts]

section Finish
variable {d e : Dev} {id r pos : Nat} {o o' : Op} (hfind : findOp d id = some o) (hcount : Counted d e) (hres : ResultOf o o') (hdead : o.dead = false)
include hfind hcount hres hdead

/-- A quantised result is held to its release edge, and no memory has changed (R40). -/
theorem finish_held (hquant : o.quant = true) : findOp (finish e o') id = some (heldOp d o') ∧ (heldOp d o').dueAt = releaseEdge d o ∧
    (finish e o').host = d.host ∧ (finish e o').mem = d.mem := by
  obtain ⟨he, hkmin, -⟩ := hcount
  have hid : (heldOp d o').id = id := hres.id.trans (findOp_id hfind)
  have hheld : heldOp e o' = heldOp d o' := by simp only [heldOp, releaseEdge, hkmin]; rw [he]
  have hops : findOp e (heldOp d o').id = some o := by rw [hid, he]; exact hfind
  rw [finish_quant (hres.quant.trans hquant) (hres.dead.trans hdead), hheld]
  refine ⟨?_, by simp only [heldOp, releaseEdge, Op.rqK, hres.desc], ?_, ?_⟩
  · rw [← hid]; exact findOp_setOp hops
  · rw [he]; rfl
  · rw [he]; rfl

/-- A result that is not quantised is written at once: host memory reads back its one output, the operation has ended, and no register word changes. -/
theorem finish_written {a : Nat} {x : Octets} (hquant : o.quant = false) (hsrc : o'.src = .ring r pos) (houts : o'.outs = [(a, x)])
    (hbus : busMaster d (ringFn d r) = true) : hostRd (finish e o') a x.length = x ∧
    findOp (finish e o') id = some { o' with phase := .ended, dueAt := e.pas.count, outs := [] } ∧ ∀ b, rg (finish e o') b = rg e b := by
  have hid : o'.id = id := hres.id.trans (findOp_id hfind)
  have hout : ringOuts r o'.outs e = hostWr e a x := by
    simp only [houts, ringOuts, List.foldl_cons, List.foldl_nil, fnWrite, hcount.busMaster_eq, hbus, if_true]
  have hrun : finish e o' = setOp (hostWr e a x) { o' with phase := .ended, dueAt := e.pas.count, outs := [] } := by
    have hq : o'.quant = false := hres.quant.trans hquant
    have hd : o'.dead = false := hres.dead.trans hdead
    simp only [finish, hq, hd, Bool.false_eq_true, if_false, deliver_ring hsrc, hout]
  have hops : findOp (hostWr e a x) o'.id = some o := by rw [hid, hcount.1]; exact hfind
  rw [hrun]
  refine ⟨hostRd_hostWr e a x, ?_, fun b => rfl⟩
  rw [← hid]
  exact findOp_setOp (o := { o' with phase := .ended, dueAt := e.pas.count, outs := [] }) hops

end Finish

section Complete
variable {d : Dev} {id n r pos : Nat} {o : Op} (hfind : findOp d id = some o) (hphase : o.phase = .admitted) (hparts : o.parts = 0)
  (hsrc : o.src = .ring r pos)
include hfind hphase hparts hsrc

theorem cipherComplete_ring (hunit : o.unit = some (1, n)) : cipherComplete id d = finish (cipherCounted d n o) (cipherResult o) := by
  simp only [cipherComplete, hfind, hunit, hphase, hparts, and_self, if_true, fwGuard_ring hsrc]
  rfl

theorem hashComplete_ring (hunit : o.unit = some (2, n)) : hashComplete id d = finish (rgAdd d (Reg.HSH_OPS + 8 * n) 1) (hashResult o) := by
  simp only [hashComplete, hfind, hunit, hphase, hparts, and_self, if_true, fwGuard_ring hsrc]
  rfl

end Complete

/-! ### Late results and exhausted slots (R96, R121) -/

theorem slotGet_pushInput (d : Dev) (core cls key pass : Nat) (data : List Nat) (i : Nat) : slotGet (pushInput d core cls key pass data) i = slotGet d i := rfl

theorem rg_pushInput (d : Dev) (core cls key pass : Nat) (data : List Nat) (a : Nat) : rg (pushInput d core cls key pass data) a = rg d a := rfl

theorem slotGet_rgSet (d : Dev) (a : Nat) (v : Word) (i : Nat) : slotGet (rgSet d a v) i = slotGet d i := rfl

/-- A notice leaves the slots alone. -/
theorem slotGet_exhaustNotice (d : Dev) (i pass j : Nat) : slotGet (exhaustNotice d i pass) j = slotGet d j := by
  rw [exhaustNotice, slotGet_pushInput, slotGet_rgSet]

theorem exhaustNotice_ops (d : Dev) (i pass : Nat) : (exhaustNotice d i pass).ops = d.ops := by
  rw [exhaustNotice, pushInput_ops, rgSet_ops]

theorem exhaustNotice_inq (d : Dev) (i pass : Nat) : (exhaustNotice d i pass).pas.inq =
    d.pas.inq ++ [{ core := 0x10, cls := 1, key := keyExhaust, pass := pass, data := [i] }] := by
  rw [exhaustNotice, pushInput, rgSet_pas]

theorem rg_exhaustNotice (d : Dev) (i pass : Nat) : rg (exhaustNotice d i pass) Reg.KSL_EXHAUST_LAST = wd (i + 2 ^ 35) := by
  rw [exhaustNotice, rg_pushInput, rg_rgSet, if_pos rfl]

theorem lateResult_fenced {d : Dev} {k n : Nat} (h : (part d k n).state = 3) : lateResult k n d =
    rgAdd (if k = 1 then rgAdd d (Reg.CLN_LATE + 16 * n) 1 else if k = 3 then rgAdd d Reg.GRD_LATE 1 else d) Reg.WHF_LATE_DISCARDS 1 := by
  simp only [lateResult, h, ne_eq, not_true_eq_false, if_false]
  split_ifs <;> rfl

theorem lateResult_not_fenced {d : Dev} {k n : Nat} (h : (part d k n).state ≠ 3) : lateResult k n d = d := if_pos h

theorem keyExhausted_reached {d : Dev} {i : Nat} (hloaded : (slotGet d i).state = 1) (hlimit : (slotGet d i).limit ≤ (slotGet d i).count) :
    keyExhausted i d = if (slotGet d i).exhaust = 1 then exhaustNotice (slotSet d i { slotGet d i with state := 2 }) i d.pas.count
      else slotSet d i { slotGet d i with state := 2 } := if_pos ⟨hloaded, hlimit⟩

theorem keyExhausted_not_reached {d : Dev} {i : Nat} (h : (slotGet d i).state ≠ 1 ∨ (slotGet d i).count < (slotGet d i).limit) :
    keyExhausted i d = d := if_neg fun ⟨hloaded, hlimit⟩ => h.elim (· hloaded) (Nat.not_lt.2 hlimit)

end Sys2Proof.Machine

/-! The doorbells of the firmware queues (O34): R20, R69, R79, R107, R349. -/

namespace Sys2Proof.Machine

/-! ### Positions of a firmware queue (R69, R107) -/

theorem posOf_eq (w : Word) (n : Nat) : posOf w n = w.toNat % 2 ^ 16 + w.toNat / 2 ^ 16 % 2 * n := by
  simp only [posOf, fld, nfld, Nat.shiftRight_eq_div_pow, Nat.pow_zero, Nat.div_one, Nat.reduceAdd, Nat.reduceSub, Nat.pow_one]

theorem posOf_idxWord {p n : Nat} (hn : n ≤ 2 ^ 16) (hp : p < 2 * n) : posOf (idxWord p n) n = p := by
  have hidx : p % n < n := Nat.mod_lt _ (by omega)
  have hgen : p / n < 2 := Nat.div_lt_of_lt_mul (by omega)
  have hfields : ∀ i g, i < 2 ^ 16 → g < 2 → (i + g * 2 ^ 16) % 2 ^ 36 % 2 ^ 16 = i ∧ (i + g * 2 ^ 16) % 2 ^ 36 / 2 ^ 16 % 2 = g := by omega
  obtain ⟨hi, hg⟩ := hfields (p % n) (p / n) (by omega) hgen
  rw [posOf_eq, idxWord, wd, BitVec.toNat_ofNat, Nat.mod_eq_of_lt hgen, hi, hg]
  exact Nat.mod_add_div' p n

theorem posOf_tailWord (v : Word) (n : Nat) : posOf (wd (v.toNat % 2 ^ 17)) n = posOf v n := by
  have hidx : v.toNat % 2 ^ 17 % 2 ^ 36 % 2 ^ 16 = v.toNat % 2 ^ 16 := by omega
  have hgen : v.toNat % 2 ^ 17 % 2 ^ 36 / 2 ^ 16 % 2 = v.toNat / 2 ^ 16 % 2 := by omega
  rw [posOf_eq, posOf_eq, wd, BitVec.toNat_ofNat, hidx, hgen]

theorem posOf_lt {v : Word} {n : Nat} (h : v.toNat % 2 ^ 16 < n) : posOf v n < 2 * n := by
  rw [posOf_eq]
  have hgen : v.toNat / 2 ^ 16 % 2 * n ≤ 1 * n := Nat.mul_le_mul_right n (by omega)
  omega

theorem posDist_eq {n a b : Nat} (ha : a < 2 * n) (hb : b < 2 * n) : posDist n a b = if a ≤ b then b - a else b + 2 * n - a := by
  rw [posDist, Nat.mod_eq_of_lt ha, Nat.mod_eq_of_lt hb]
  split
  · rw [show b + 2 * n - a = b - a + 2 * n by omega, Nat.add_mod_right, Nat.mod_eq_of_lt (by omega)]
  · exact Nat.mod_eq_of_lt (by omega)

theorem posDist_eq_zero_iff {n a b : Nat} (ha : a < 2 * n) (hb : b < 2 * n) : posDist n a b = 0 ↔ a = b := by
  rw [posDist_eq ha hb]
  split <;> omega

/-- From the next position on, it is one less. -/
theorem posDist_next {n a b k : Nat} (ha : a < 2 * n) (hb : b < 2 * n) (h : posDist n a b = k + 1) : posDist n ((a + 1) % (2 * n)) b = k := by
  rw [posDist_eq ha hb] at h
  rcases Nat.lt_or_ge (a + 1) (2 * n) with hlt | hge
  · rw [Nat.mod_eq_of_lt hlt, posDist_eq hlt hb]
    split at h <;> split <;> omega
  · have hwrap : a + 1 = 2 * n := by omega
    rw [hwrap, Nat.mod_self, posDist_eq (by omega) hb, if_pos (Nat.zero_le b)]
    split at h <;> omega

/-! ### The registers of a firmware queue, and the regions that judge its descriptors (R20, R107, R349) -/

/-- The words of a firmware queue (its base, size and tail one after the other) and the word of its head: four words, in the cipher lanes' block or the
Grinder's. -/
structure QueueRegs (base head : Nat) : Prop where
  base_low : 0x0B0000 ≤ base
  base_high : base + 2 < 0x0F0000
  head_low : 0x0B0000 ≤ head
  head_high : head < 0x0F0000
  head_outside : head < base ∨ base + 2 < head

theorem queueRegs_cln {q : Nat} (hq : q < 9) : QueueRegs (Reg.CLN_FWQ_BASE + 4 * q) (Reg.CLN_FWQ_HEAD + 4 * q) := by
  constructor <;> simp only [Reg.CLN_FWQ_BASE, Reg.CLN_FWQ_HEAD] <;> omega

theorem queueRegs_grd {q : Nat} (hq : q < 9) : QueueRegs (Reg.GRD_FWQ_BASE + 4 * q) (Reg.GRD_FWQ_HEAD + q) := by
  constructor <;> simp only [Reg.GRD_FWQ_BASE, Reg.GRD_FWQ_HEAD] <;> omega

/-- The device e is d after a firmware queue has moved: its tail and its head among the register words, the operations in flight and the level of its
doorbell apart, nothing has changed. -/
structure QueueMoved (base head : Nat) (d e : Dev) : Prop where
  frame : e = { d with regs := e.regs, ops := e.ops, opSeq := e.opSeq, fqPl := e.fqPl }
  regs : ∀ a, a ≠ base + 2 → a ≠ head → rg e a = rg d a

section Moved
variable {base head : Nat}

theorem QueueMoved.refl (d : Dev) : QueueMoved base head d d := ⟨rfl, fun _ _ _ => rfl⟩

theorem QueueMoved.trans {d e t : Dev} (h : QueueMoved base head d e) (k : QueueMoved base head e t) : QueueMoved base head d t :=
  ⟨by rw [k.frame, h.frame], fun a ht hh => (k.regs a ht hh).trans (h.regs a ht hh)⟩

theorem queueMoved_head (d : Dev) (v : Word) (o : Op) : QueueMoved base head d (addOp (rgSet d head v) o) :=
  ⟨rfl, fun _ _ hh => (rg_rgSet ..).trans (if_neg hh)⟩

theorem queueMoved_tail (d : Dev) (v : Word) (t : Tab Nat) : QueueMoved base head d { rgSet d (base + 2) v with fqPl := t } :=
  ⟨rfl, fun _ ht _ => (rg_rgSet ..).trans (if_neg ht)⟩

variable (hregs : QueueRegs base head) {d e : Dev} (h : QueueMoved base head d e)
include hregs h

theorem QueueMoved.rg_base : rg e base = rg d base :=
  h.regs base (by omega) (by have := hregs.head_outside; omega)

theorem QueueMoved.rg_size : rg e (base + 1) = rg d (base + 1) :=
  h.regs _ (by omega) (by have := hregs.head_outside; omega)

/-- A core's regions lie below a queue's words. -/
theorem QueueMoved.region_eq {m r : Nat} (hm : m < 0x18) (hr : r < regionCount m) : region e m r = region d m r := by
  have hcount : regionCount m ≤ 32 := by unfold regionCount; split_ifs <;> decide
  have hword : ∀ k < 3, rg e (mpuAddr m r k) = rg d (mpuAddr m r k) := fun k hk => by
    obtain ⟨hb, -, hh, -, -⟩ := hregs
    have hlow : mpuAddr m r k < 0x0B0000 := by unfold mpuAddr; omega
    exact h.regs _ (by omega) (by omega)
  simp only [region, regionOf, hword 0 (by decide), hword 1 (by decide), hword 2 (by decide)]

theorem QueueMoved.refusal_eq {m : Nat} (hm : m < 0x18) (ctx col right a : Nat) : refusal e m ctx col right a = refusal d m ctx col right a := by
  have hgov : governing e m ctx a = governing d m ctx a := by
    simp only [governing, List.map_congr_left fun r hr => h.region_eq hregs hm (List.mem_range.1 hr)]
  have hwin : ∀ p, windowOn e p = windowOn d p := fun p => by
    obtain ⟨-, hb, -, hh, -⟩ := hregs
    have hxip : Reg.FLS_XIP_CTL ≥ 0x0F0000 := by decide
    rw [windowOn, h.regs _ (by omega) (by omega), h.frame]
    rfl
  have hmap : mapped e m a = mapped d m a := by rw [h.frame]; rfl
  have hlife : e.life = d.life := by rw [h.frame]
  simp only [refusal, hgov, hwin, hmap, hlife]

theorem QueueMoved.refusedIn_eq {m : Nat} (hm : m < 0x18) (ctx col right a n : Nat) : refusedIn e m ctx col right a n = refusedIn d m ctx col right a n := by
  simp only [refusedIn, h.refusal_eq hregs hm]

end Moved

theorem coreAllows_iff {d : Dev} {m pl right a n : Nat} :
    (coreAllows d m pl right a n).1 = true ↔ ramRange a n = true ∧ refusedIn d m 0 pl right a n = none := by
  unfold coreAllows
  split
  · simp_all
  · split <;> simp_all

/-- What a core's regions permit records no refusal. -/
theorem coreAllows_of_true {d : Dev} {m pl right a n : Nat} (h : (coreAllows d m pl right a n).1 = true) : coreAllows d m pl right a n = (true, d) := by
  obtain ⟨hram, hnone⟩ := coreAllows_iff.1 h
  simp only [coreAllows, hram, hnone, not_true_eq_false, if_false]

theorem QueueMoved.coreAllows_iff {base head : Nat} (hregs : QueueRegs base head) {d e : Dev} (h : QueueMoved base head d e) {m : Nat} (hm : m < 0x18)
    (pl right a n : Nat) : (coreAllows e m pl right a n).1 = true ↔ (coreAllows d m pl right a n).1 = true := by
  rw [Machine.coreAllows_iff, Machine.coreAllows_iff, h.refusedIn_eq hregs hm]

/-! ### Fetching from the head to the tail (R69, R79, R107) -/

/-- Entries of a queue. -/
def queueSize (d : Dev) (base : Nat) : Nat := 2 ^ fld (rg d (base + 1)) 4 0

/-- The operation of the descriptor at a position of a queue, under an identifier. -/
def queuedOp (mk : Nat → OpSrc) (base core pl : Nat) (d : Dev) (p id : Nat) : Op :=
  let n := queueSize d base
  { id := id, src := mk (p % (2 * n)), ctx := coreCtx core, pl := pl, desc := memRdOct d false (rn d base + 16 * (p % n)) 64, phase := .staged,
    eligAt := d.pas.count + 1 }

/-- May the core read the descriptor at a position of its queue? -/
def descAllowed (base core pl : Nat) (d : Dev) (p : Nat) : Prop :=
  (coreAllows d core pl 0 (rn d base + 16 * (p % queueSize d base)) 16).1 = true

section Fetch
variable {mk : Nat → OpSrc} {base head core pl : Nat}

theorem fqOp_allowed {d : Dev} {p : Nat} (hhold : d.keep.hold = false) (hp : p < 2 * queueSize d base) (hok : descAllowed base core pl d p) :
    fqOp mk base core pl p d = (queuedOp mk base core pl d p 0, d) := by
  have hallow := coreAllows_of_true hok
  rw [queueSize] at hallow hp
  simp only [fqOp, hallow, hhold, Bool.false_eq_true, if_false, if_true, queuedOp, queueSize, Nat.mod_eq_of_lt hp, fqDesc]

/-- The queue with its head one further and the descriptor that stood there in flight. -/
def fetchedNext (mk : Nat → OpSrc) (base head core pl : Nat) (d : Dev) (p : Nat) : Dev :=
  addOp (rgSet d head (idxWord ((p + 1) % (2 * queueSize d base)) (queueSize d base))) (queuedOp mk base core pl d p 0)

theorem fqFetch_end {d : Dev} (h : posOf (rg d head) (queueSize d base) = posOf (rg d (base + 2)) (queueSize d base)) (f : Nat) :
    fqFetch mk base head core pl f d = d := by
  cases f with
  | zero => rfl
  | succ f => exact if_pos (.inl h)

theorem fqFetch_next {d : Dev} {f p : Nat} (hp : posOf (rg d head) (queueSize d base) = p) (hne : p ≠ posOf (rg d (base + 2)) (queueSize d base))
    (hroom : inFlight d < maxOps) (hop : fqOp mk base core pl p d = (queuedOp mk base core pl d p 0, d)) :
    fqFetch mk base head core pl (f + 1) d = fqFetch mk base head core pl f (fetchedNext mk base head core pl d p) := by
  rw [queueSize] at hp hne
  have hgo : ¬ (p = posOf (rg d (base + 2)) (2 ^ fld (rg d (base + 1)) 4 0) ∨ maxOps ≤ inFlight d) := by
    rw [not_or, Nat.not_le]; exact ⟨hne, hroom⟩
  simp only [fqFetch, hp, if_neg hgo, hop]
  rfl

theorem rgSet_opSeq (d : Dev) (a : Nat) (v : Word) : (rgSet d a v).opSeq = d.opSeq := rfl

theorem addOp_ops (d : Dev) (o : Op) : (addOp d o).ops = d.ops ++ [{ o with id := d.opSeq }] := rfl

theorem addOp_opSeq (d : Dev) (o : Op) : (addOp d o).opSeq = d.opSeq + 1 := rfl

theorem rg_addOp (d : Dev) (o : Op) (a : Nat) : rg (addOp d o) a = rg d a := rfl

theorem inFlight_addOp {d : Dev} {o : Op} (h : counted o = true) : inFlight (addOp d o) = inFlight d + 1 := by
  have hc : counted { o with id := d.opSeq } = true := h
  simp only [inFlight, addOp, List.filter_append, List.filter_singleton, hc, cond_true, List.length_append, List.length_singleton]

theorem index_wrap (p i n : Nat) : (p % (2 * n) + i) % n = (p + i) % n := Nat.ModEq.add_right i (Nat.mod_mod_of_dvd p (Nat.dvd_mul_left ..))

/-- A position past the wrap is the position it wraps to. -/
theorem queuedOp_wrap (d : Dev) (p i id : Nat) :
    queuedOp mk base core pl d (p % (2 * queueSize d base) + i) id = queuedOp mk base core pl d (p + i) id := by
  simp only [queuedOp, index_wrap, Nat.mod_add_mod]

theorem descAllowed_wrap (d : Dev) (p i : Nat) : descAllowed base core pl d (p % (2 * queueSize d base) + i) ↔ descAllowed base core pl d (p + i) := by
  rw [descAllowed, index_wrap, descAllowed]

section Moved
variable (hregs : QueueRegs base head) {d e : Dev} (h : QueueMoved base head d e)
include hregs h

theorem QueueMoved.queueSize_eq : queueSize e base = queueSize d base := by rw [queueSize, h.rg_size hregs, queueSize]

theorem QueueMoved.queuedOp_eq (p id : Nat) : queuedOp mk base core pl e p id = queuedOp mk base core pl d p id := by
  have hbase : rn e base = rn d base := congrArg BitVec.toNat (h.rg_base hregs)
  have hmem : ∀ a, memRdOct e false a 64 = memRdOct d false a 64 := fun a => by rw [h.frame]; rfl
  have hpas : e.pas = d.pas := by rw [h.frame]
  simp only [queuedOp, h.queueSize_eq hregs, hbase, hmem, hpas]

theorem QueueMoved.descAllowed_iff (hcore : core < 0x18) (p : Nat) : descAllowed base core pl e p ↔ descAllowed base core pl d p := by
  have hbase : rn e base = rn d base := congrArg BitVec.toNat (h.rg_base hregs)
  rw [descAllowed, h.coreAllows_iff hregs hcore, h.queueSize_eq hregs, hbase, descAllowed]

end Moved

/-- The device e is d after the queue's k descriptors from position p on have entered flight, the head now at position t. -/
structure QueueFetched (mk : Nat → OpSrc) (base head core pl p k t : Nat) (d e : Dev) : Prop where
  moved : QueueMoved base head d e
  tail : rg e (base + 2) = rg d (base + 2)
  head : posOf (rg e head) (queueSize d base) = t
  opSeq : e.opSeq = d.opSeq + k
  fqPl : e.fqPl = d.fqPl
  ops : e.ops = d.ops ++ (List.range k).map (fun i => queuedOp mk base core pl d (p + i) (d.opSeq + i))

/-- A queue whose head is k before its tail, from which fetching finds room and permission k times. -/
structure QueueReady (base head core pl p k t : Nat) (d : Dev) : Prop where
  notHeld : d.keep.hold = false
  small : queueSize d base ≤ 2 ^ 16
  head : posOf (rg d head) (queueSize d base) = p
  head_lt : p < 2 * queueSize d base
  tail : posOf (rg d (base + 2)) (queueSize d base) = t
  tail_lt : t < 2 * queueSize d base
  dist : posDist (queueSize d base) p t = k
  room : inFlight d + k ≤ maxOps
  allowed : ∀ i < k, descAllowed base core pl d (p + i)

theorem fetchedNext_moved (d : Dev) (p : Nat) : QueueMoved base head d (fetchedNext mk base head core pl d p) := queueMoved_head ..

theorem fetchedNext_ops (d : Dev) (p : Nat) : (fetchedNext mk base head core pl d p).ops = d.ops ++ [queuedOp mk base core pl d p d.opSeq] := by
  rw [fetchedNext, addOp_ops, rgSet_ops, rgSet_opSeq, queuedOp, queuedOp]

theorem fetchedNext_opSeq (d : Dev) (p : Nat) : (fetchedNext mk base head core pl d p).opSeq = d.opSeq + 1 := by
  rw [fetchedNext, addOp_opSeq, rgSet_opSeq]

theorem fetchedNext_fqPl (d : Dev) (p : Nat) : (fetchedNext mk base head core pl d p).fqPl = d.fqPl := by rw [fetchedNext, addOp, rgSet]

theorem fetchedNext_head {d : Dev} (hsmall : queueSize d base ≤ 2 ^ 16) (p : Nat) :
    posOf (rg (fetchedNext mk base head core pl d p) head) (queueSize d base) = (p + 1) % (2 * queueSize d base) := by
  have hpos : 0 < 2 * queueSize d base := Nat.mul_pos (by decide) (Nat.two_pow_pos _)
  rw [fetchedNext, rg_addOp, rg_rgSet, if_pos rfl, posOf_idxWord hsmall (Nat.mod_lt _ hpos)]

theorem fetchedNext_tail (hregs : QueueRegs base head) (d : Dev) (p : Nat) : rg (fetchedNext mk base head core pl d p) (base + 2) = rg d (base + 2) := by
  have hne : base + 2 ≠ head := by have := hregs.head_outside; omega
  rw [fetchedNext, rg_addOp, rg_rgSet, if_neg hne]

theorem fetchedNext_inFlight (hmk : ∀ d p id, counted (queuedOp mk base core pl d p id) = true) (d : Dev) (p : Nat) :
    inFlight (fetchedNext mk base head core pl d p) = inFlight d + 1 := by
  rw [fetchedNext, inFlight_addOp (hmk d p 0), inFlight, rgSet_ops, inFlight]

variable (hregs : QueueRegs base head) (hcore : core < 0x18) (hmk : ∀ d p id, counted (queuedOp mk base core pl d p id) = true)
include hregs hcore hmk

theorem QueueReady.next {d : Dev} {p k t : Nat} (h : QueueReady base head core pl p (k + 1) t d) :
    QueueReady base head core pl ((p + 1) % (2 * queueSize d base)) k t (fetchedNext mk base head core pl d p) := by
  have hmoved : QueueMoved base head d (fetchedNext mk base head core pl d p) := fetchedNext_moved d p
  have hsize : queueSize (fetchedNext mk base head core pl d p) base = queueSize d base := hmoved.queueSize_eq hregs
  constructor
  case notHeld => rw [hmoved.frame]; exact h.notHeld
  case small => rw [hsize]; exact h.small
  case head => rw [hsize]; exact fetchedNext_head h.small p
  case head_lt => rw [hsize]; exact Nat.mod_lt _ (Nat.zero_lt_of_lt h.head_lt)
  case tail => rw [hsize, fetchedNext_tail hregs]; exact h.tail
  case tail_lt => rw [hsize]; exact h.tail_lt
  case dist => rw [hsize]; exact posDist_next h.head_lt h.tail_lt h.dist
  case room => rw [fetchedNext_inFlight hmk, Nat.add_assoc, Nat.add_comm 1]; exact h.room
  case allowed =>
    intro i hi
    rw [hmoved.descAllowed_iff hregs hcore, descAllowed_wrap, Nat.add_assoc, Nat.add_comm 1]
    exact h.allowed (i + 1) (Nat.succ_lt_succ hi)

/-- R107: with room and permission, every descriptor from the head to the tail enters flight, in order. -/
theorem fqFetch_fetched {f : Nat} {d : Dev} {p k t : Nat} (h : QueueReady base head core pl p k t d) (hfuel : k ≤ f) :
    QueueFetched mk base head core pl p k t d (fqFetch mk base head core pl f d) := by
  induction k generalizing f d p with
  | zero =>
    have hend : p = t := (posDist_eq_zero_iff h.head_lt h.tail_lt).1 h.dist
    rw [fqFetch_end (by rw [h.head, h.tail, hend])]
    exact ⟨.refl d, rfl, h.head.trans hend, rfl, rfl, by simp⟩
  | succ k ih =>
    obtain ⟨f, rfl⟩ : ∃ g, f = g + 1 := ⟨f - 1, by omega⟩
    have hne : p ≠ t := fun hpt => by
      have hzero := (posDist_eq_zero_iff h.head_lt h.tail_lt).2 hpt
      rw [h.dist] at hzero
      exact Nat.succ_ne_zero k hzero
    have hroom : inFlight d < maxOps := by have := h.room; omega
    rw [fqFetch_next h.head (by rw [h.tail]; exact hne) hroom (fqOp_allowed h.notHeld h.head_lt (h.allowed 0 (Nat.succ_pos k)))]
    have hmoved : QueueMoved base head d (fetchedNext mk base head core pl d p) := fetchedNext_moved d p
    have hrest := ih (h.next hregs hcore hmk) (Nat.le_of_succ_le_succ hfuel)
    refine ⟨hmoved.trans hrest.moved, hrest.tail.trans (fetchedNext_tail hregs d p), ?_, ?_, hrest.fqPl.trans (fetchedNext_fqPl d p), ?_⟩
    · rw [← hmoved.queueSize_eq hregs]; exact hrest.head
    · rw [hrest.opSeq, fetchedNext_opSeq, Nat.add_assoc, Nat.add_comm 1]
    · rw [hrest.ops, fetchedNext_ops, fetchedNext_opSeq, List.append_assoc, List.singleton_append, List.range_succ_eq_map, List.map_cons, List.map_map]
      congr 2
      refine List.map_congr_left fun i _ => ?_
      rw [hmoved.queuedOp_eq hregs, queuedOp_wrap, Nat.add_assoc, Nat.add_assoc, Nat.add_comm 1, Function.comp_apply]

end Fetch

/-! ### A doorbell (R69, R107) -/

section Doorbell
variable {mk : Nat → OpSrc} {base head core pl : Nat}

/-- The device with a doorbell's tail and level noted. -/
def rung (base pl : Nat) (v : Word) (d : Dev) : Dev := { rgSet d (base + 2) (wd (v.toNat % 2 ^ 17)) with fqPl := tabSet 0 d.fqPl base pl }

/-- A doorbell that moves the tail of an enabled queue forward, by no more than the queue holds and to no further from its head. -/
structure DoorbellGood (base head : Nat) (v : Word) (d : Dev) : Prop where
  size_low : 4 ≤ fld (rg d (base + 1)) 4 0
  size_high : fld (rg d (base + 1)) 4 0 ≤ 12
  index : v.toNat % 2 ^ 16 < queueSize d base
  forward : 0 < posDist (queueSize d base) (posOf (rg d (base + 2)) (queueSize d base)) (posOf v (queueSize d base))
  step : posDist (queueSize d base) (posOf (rg d (base + 2)) (queueSize d base)) (posOf v (queueSize d base)) ≤ queueSize d base
  fits : posDist (queueSize d base) (posOf (rg d head) (queueSize d base)) (posOf v (queueSize d base)) ≤ queueSize d base

theorem fqDoorbell_good {v : Word} {d : Dev} (h : DoorbellGood base head v d) :
    fqDoorbell mk base head core pl v d = fqFetch mk base head core pl (queueSize d base) (rung base pl v d) := by
  obtain ⟨hlow, hhigh, hindex, hforward, hstep, hfits⟩ := h
  have hon : fqOn d base = true := by simp [fqOn, hlow, hhigh]
  refine if_neg ?_
  rintro (hoff | hout | hzero | hlong | hpast)
  · exact hoff hon
  · exact Nat.not_le.2 hindex hout
  · exact hforward.ne' hzero
  · exact Nat.not_lt.2 hstep hlong
  · exact Nat.not_lt.2 hfits hpast

variable (hregs : QueueRegs base head) (hcore : core < 0x18) (hmk : ∀ d p id, counted (queuedOp mk base core pl d p id) = true)
include hregs hcore hmk

/-- Every descriptor between the head and the tail that a good doorbell names enters flight, and nothing else changes. -/
theorem fqDoorbell_fetched {v : Word} {d : Dev} {p k : Nat} (h : DoorbellGood base head v d) (hhold : d.keep.hold = false)
    (hhead : posOf (rg d head) (queueSize d base) = p) (hlt : p < 2 * queueSize d base)
    (hdist : posDist (queueSize d base) p (posOf v (queueSize d base)) = k) (hroom : inFlight d + k ≤ maxOps)
    (hallowed : ∀ i < k, descAllowed base core pl d (p + i)) :
    QueueFetched mk base head core pl p k (posOf v (queueSize d base)) (rung base pl v d) (fqDoorbell mk base head core pl v d) := by
  have hmoved : QueueMoved base head d (rung base pl v d) := queueMoved_tail ..
  have hsize : queueSize (rung base pl v d) base = queueSize d base := hmoved.queueSize_eq hregs
  have hrgTail : rg (rung base pl v d) (base + 2) = wd (v.toNat % 2 ^ 17) := (rg_rgSet ..).trans (if_pos rfl)
  have hrgHead : rg (rung base pl v d) head = rg d head := (rg_rgSet ..).trans (if_neg (by have := hregs.head_outside; omega))
  rw [fqDoorbell_good h]
  refine fqFetch_fetched hregs hcore hmk ?ready (by rw [← hdist, ← hhead]; exact h.fits)
  constructor
  case notHeld => exact hhold
  case small => rw [hsize]; exact Nat.pow_le_pow_right (by decide) (h.size_high.trans (by decide))
  case head => rw [hsize, hrgHead]; exact hhead
  case head_lt => rw [hsize]; exact hlt
  case tail => rw [hsize, hrgTail]; exact posOf_tailWord v _
  case tail_lt => rw [hsize]; exact posOf_lt h.index
  case dist => rw [hsize]; exact hdist
  case room => exact hroom
  case allowed => exact fun i hi => (hmoved.descAllowed_iff hregs hcore _).2 (hallowed i hi)

/-- A doorbell command, under the conditions of the statement. -/
theorem exec_doorbell {s : State} {c : Instr} {v : Word} {k : Nat} (hexec : exec c s = onDev (fqDoorbell mk base head core pl v) s)
    (hhold : s.dev.keep.hold = false) :
    let d := s.dev
    let log2 := (rg d (base + 1)).toNat % 32
    let n := 2 ^ log2
    let h := posOf (rg d head) n
    let p := v.toNat % 2 ^ 16 + v.toNat / 2 ^ 16 % 2 * n
    4 ≤ log2 → log2 ≤ 12 → v.toNat % 2 ^ 16 < n → h < 2 * n → k = posDist n h p → k ≤ n → 0 < posDist n (posOf (rg d (base + 2)) n) p →
    posDist n (posOf (rg d (base + 2)) n) p ≤ n → inFlight d + k ≤ 131072 →
    (∀ i < k, (coreAllows d core pl 0 (rn d base + 16 * ((h + i) % n)) 16).1 = true) →
    ∃ t, exec c s = .next t ∧
      t = { s with dev := { d with regs := t.dev.regs, ops := t.dev.ops, opSeq := d.opSeq + k, fqPl := tabSet 0 d.fqPl base pl } } ∧
      rg t.dev (base + 2) = BitVec.ofNat 36 (v.toNat % 2 ^ 17) ∧ posOf (rg t.dev head) n = p ∧
      (∀ a, a ≠ base + 2 → a ≠ head → rg t.dev a = rg d a) ∧
      t.dev.ops = d.ops ++ (List.range k).map (fun i => queuedOp mk base core pl d (h + i) (d.opSeq + i)) := by
  intro d log2 n h p hlow hhigh hindex hlt hk hfits hforward hstep hroom hallowed
  have hp : posOf v n = p := posOf_eq v n
  rw [← hp] at hk hforward hstep ⊢
  have hgood : DoorbellGood base head v d := ⟨hlow, hhigh, hindex, hforward, hstep, hk ▸ hfits⟩
  have hdone := fqDoorbell_fetched hregs hcore hmk hgood hhold rfl hlt hk.symm hroom hallowed
  have hrung : QueueMoved base head d (rung base pl v d) := queueMoved_tail ..
  refine ⟨_, exec_eq_next hexec rfl, ?frame, ?tail, ?head, (hrung.trans hdone.moved).regs, ?ops⟩
  case frame =>
    have hseq : (rung base pl v d).opSeq = d.opSeq := rfl
    have hpl : (rung base pl v d).fqPl = tabSet 0 d.fqPl base pl := rfl
    rw [← hpl, ← hdone.fqPl, ← hseq, ← hdone.opSeq]
    exact congrArg (fun e => ({ s with dev := e } : State)) (hrung.trans hdone.moved).frame
  case head =>
    have hsize : queueSize (rung base pl v d) base = n := hrung.queueSize_eq hregs
    exact (congrArg (posOf (rg (fqDoorbell mk base head core pl v d) head)) hsize).symm.trans hdone.head
  case tail => exact hdone.tail.trans ((rg_rgSet ..).trans (if_pos rfl))
  case ops =>
    refine hdone.ops.trans (congrArg (d.ops ++ ·) (List.map_congr_left fun i _ => ?_))
    exact hrung.queuedOp_eq hregs _ _

end Doorbell

/-- FWQ_DOORBELL rings the core's cipher and hash queue. -/
theorem exec_fwqDoorbell {q : Nat} (hq : q < 9) (pl : Nat) (v : Word) (s : State) : exec (.fwqDoorbell q pl v) s =
    onDev (fqDoorbell (fun p => .fwq q p) (Reg.CLN_FWQ_BASE + 4 * q) (Reg.CLN_FWQ_HEAD + 4 * q) (fqCore q) pl v) s := by
  have hexec : exec (.fwqDoorbell q pl v) s = onDev (clnDoorbell (q % 9) pl v) s := rfl
  rw [hexec, Nat.mod_eq_of_lt hq, onDev_eq, clnDoorbell, if_neg (Nat.not_le.2 hq), onDev_eq]

/-- GRD_FWQ_DOORBELL rings the core's Grinder queue. -/
theorem exec_grdFwqDoorbell {q : Nat} (hq : q < 9) (pl : Nat) (v : Word) (s : State) : exec (.grdFwqDoorbell q pl v) s =
    onDev (fqDoorbell (fun p => .gq q p) (Reg.GRD_FWQ_BASE + 4 * q) (Reg.GRD_FWQ_HEAD + q) (fqCore q) pl v) s := by
  have hexec : exec (.grdFwqDoorbell q pl v) s = onDev (grdDoorbell (q % 9) pl v) s := rfl
  rw [hexec, Nat.mod_eq_of_lt hq, onDev_eq, grdDoorbell, if_neg (Nat.not_le.2 hq), onDev_eq]

end Sys2Proof.Machine

/-! Lanes, late results, exhausted slots and firmware queues together (O34). -/

namespace Sys2Proof.Machine

/-- Settles O34: a lane's outcome is held or written as its release control tells, a fenced unit counts, a slot at its limit is exhausted, and a doorbell
fetches from the head to the tail. -/
theorem lanesAndFirmwareQueues : Obligations.LanesAndFirmwareQueues := by
  refine ⟨fun s id n r pos o hfind hphase hparts hdead hsrc => ⟨fun hunit => ⟨fun hquant => ?cipherHeld, fun hquant hop htag hpay hbus => ?cipherWritten⟩,
      fun hunit hop => ⟨fun hquant => ?hashHeld, fun hquant hbus => ?hashWritten⟩⟩,
    fun s k n => ⟨fun h => exec_eq_next rfl (lateResult_fenced h), fun h => exec_eq_next rfl (lateResult_not_fenced h), ?slot⟩,
    fun s q pl k v hq hhold => ?doorbells⟩
  case cipherHeld =>
    have hcount := counted_cipherCounted s.dev n o
    have hres := (resultOf_cipherResult o).1
    obtain ⟨hx, hdue, hhost, hmem⟩ := finish_held hfind hcount hres hdead hquant
    refine ⟨_, heldOp s.dev (cipherResult o), exec_eq_next rfl (cipherComplete_ring hfind hphase hparts hsrc hunit), ⟨hx, rfl, hdue, hhost, hmem⟩,
      fun hop => ?_, fun hop => ?_, fun hop hsame => ?_, fun hop hsame => ?_, fun hop hgood => ?_, fun hop hmode hsame hscrub => ?_,
      fun hop hmode hsame hscrub => ?_⟩
    · rw [cipherResult_encrypt hop]; exact ⟨rfl, rfl, rfl⟩
    · rw [cipherResult_mac hop]; exact ⟨rfl, rfl, rfl⟩
    · have htag : tagSame o = true := hsame
      rw [cipherResult_verify hop, if_pos htag]; exact ⟨rfl, rfl⟩
    · have htag : tagSame o = false := hsame
      rw [cipherResult_verify hop, if_neg (by simp [htag])]; exact ⟨rfl, rfl, rfl⟩
    · have htag : modeTagged o.mode = false ∨ tagSame o = true := hgood
      rw [cipherResult_decrypt hsrc hop, if_pos htag]; exact ⟨rfl, rfl, rfl⟩
    · have htag : tagSame o = false := hsame
      rw [cipherResult_decrypt hsrc hop, if_neg (by simp [htag, hmode]), if_neg (by simp [hscrub])]; exact ⟨rfl, rfl, rfl⟩
    · have htag : tagSame o = false := hsame
      rw [cipherResult_decrypt hsrc hop, if_neg (by simp [htag, hmode]), if_pos hscrub]; exact ⟨rfl, rfl, rfl⟩
  case cipherWritten =>
    have hcount := counted_cipherCounted s.dev n o
    obtain ⟨hres, hsrc'⟩ := resultOf_cipherResult o
    have houts : (cipherResult o).outs = [(o.dstAddr, (laneRun o).1)] := by
      simp [cipherResult_encrypt hop, payloadOuts, tagOuts, htag, hpay.ne']
    have hstatus : (cipherResult o).status = St.done := by rw [cipherResult_encrypt hop]
    have hops : rg (cipherCounted s.dev n o) (Reg.CLN_OPS + 16 * n) = satInc (rg s.dev (Reg.CLN_OPS + 16 * n)) 1 := by
      rw [cipherCounted, hstatus, if_neg (by decide)]
      exact (rg_rgSet ..).trans (if_pos rfl)
    obtain ⟨hout, hx, hrg⟩ := finish_written hfind hcount hres hdead hquant (hsrc'.trans hsrc) houts hbus
    exact ⟨_, _, exec_eq_next rfl (cipherComplete_ring hfind hphase hparts hsrc hunit), hout, hx, rfl, hstatus, (hrg _).trans hops⟩
  case hashHeld =>
    obtain ⟨hx, hdue, hhost, hmem⟩ := finish_held hfind (counted_hshOps s.dev n) (resultOf_hashResult o) hdead hquant
    exact ⟨_, heldOp s.dev (hashResult o), exec_eq_next rfl (hashComplete_ring hfind hphase hparts hsrc hunit), ⟨hx, rfl, hdue, hhost, hmem⟩, rfl, rfl, rfl⟩
  case hashWritten =>
    have hops : rg (rgAdd s.dev (Reg.HSH_OPS + 8 * n) 1) (Reg.HSH_OPS + 8 * n) = satInc (rg s.dev (Reg.HSH_OPS + 8 * n)) 1 :=
      (rg_rgSet ..).trans (if_pos rfl)
    obtain ⟨hout, hx, hrg⟩ := finish_written hfind (counted_hshOps s.dev n) (resultOf_hashResult o) hdead hquant hsrc rfl hbus
    exact ⟨_, _, exec_eq_next rfl (hashComplete_ring hfind hphase hparts hsrc hunit), hout, hx, rfl, rfl, rfl, (hrg _).trans hops⟩
  case slot =>
    refine ⟨fun hloaded hlimit hquiet => ?_, fun hloaded hlimit hnotify => ?_, fun h => exec_eq_next rfl (keyExhausted_not_reached h)⟩
    · exact exec_eq_next rfl ((keyExhausted_reached hloaded hlimit).trans (if_neg hquiet))
    · refine ⟨_, exec_eq_next rfl ((keyExhausted_reached hloaded hlimit).trans (if_pos hnotify)), ?_, ?_, ?_, ?_⟩
      · exact (slotGet_exhaustNotice ..).trans ((slotGet_slotSet ..).trans (if_pos rfl))
      · exact rg_exhaustNotice ..
      · exact exhaustNotice_ops ..
      · exact exhaustNotice_inq ..
  case doorbells =>
    have hcore : fqCore q < 0x18 := by unfold fqCore; split <;> omega
    exact ⟨exec_doorbell (queueRegs_cln hq) hcore (fun _ _ _ => rfl) (exec_fwqDoorbell hq pl v s) hhold,
      exec_doorbell (queueRegs_grd hq) hcore (fun _ _ _ => rfl) (exec_grdFwqDoorbell hq pl v s) hhold⟩

end Sys2Proof.Machine

/-! Inline sealing (O36): what the named updates of the pipeline leave alone, streams, counters and events of an SA (R126 to R140). -/

namespace Sys2Proof.Machine

/-! ### Streams, SAs and counters -/

@[simp] theorem stream_setStream (d : Dev) (k j : Nat) (x : Stream) : stream (setStream d k x) j = if j = k then x else stream d j := by
  simp only [stream, setStream]
  split
  case isTrue hx =>
    rw [tabGet_tabErase]
    split
    · subst j; exact hx.symm
    · rfl
  case isFalse =>
    rw [tabGet_tabPut]

@[simp] theorem setStream_sent (d : Dev) (k : Nat) (x : Stream) : (setStream d k x).ils.sent = d.ils.sent := rfl
@[simp] theorem stream_cntAdd (d : Dev) (c n k : Nat) : stream (cntAdd d c n) k = stream d k := rfl
@[simp] theorem saGet_setStream (d : Dev) (k : Nat) (x : Stream) (s : Nat) : saGet (setStream d k x) s = saGet d s := rfl
@[simp] theorem rg_setStream (d : Dev) (k : Nat) (x : Stream) (a : Nat) : rg (setStream d k x) a = rg d a := rfl

theorem linkCnt_eq (d : Dev) (link c : Nat) : linkCnt d link c = cntAdd d (32 * link + c) 1 := by rw [linkCnt, Nat.mul_comm]

/-- The device e is d with the streams of the pipeline changed: stream k now stands at x, the others as before. -/
structure Streamed (k : Nat) (x : Stream) (d e : Dev) : Prop where
  frame : e = { d with ils := { d.ils with streams := e.ils.streams } }
  here : stream e k = x
  others : ∀ j, j ≠ k → stream e j = stream d j

theorem streamed_setStream (d : Dev) (k : Nat) (x : Stream) : Streamed k x d (setStream d k x) :=
  ⟨rfl, by simp, fun j hj => by simp [hj]⟩

section Streamed
variable {k : Nat} {x : Stream} {d e : Dev} (h : Streamed k x d e)
include h

theorem Streamed.trans {y : Stream} {t : Dev} (h' : Streamed k y e t) : Streamed k y d t :=
  ⟨by rw [h'.frame, h.frame], h'.here, fun j hj => (h'.others j hj).trans (h.others j hj)⟩

theorem Streamed.regs_eq : e.regs = d.regs := by rw [h.frame]
theorem Streamed.mem_eq : e.mem = d.mem := by rw [h.frame]
theorem Streamed.sas_eq : e.ils.sas = d.ils.sas := by rw [h.frame]
theorem Streamed.cnt_eq : e.ils.cnt = d.ils.cnt := by rw [h.frame]
theorem Streamed.rg_eq (a : Nat) : rg e a = rg d a := by rw [rg, h.regs_eq, rg]
theorem Streamed.saGet_eq (s : Nat) : saGet e s = saGet d s := by rw [saGet, h.sas_eq, saGet]
theorem Streamed.saCtl_eq (s : Nat) : saCtl e s = saCtl d s := h.rg_eq _
theorem Streamed.saValid_eq (s : Nat) : saValid e s = saValid d s := by rw [saValid, h.saCtl_eq, saValid]

/-- A frame dropped under a counter leaves its stream and the SAs as they were. -/
theorem Streamed.counted (c : Nat) :
    stream (cntAdd e c 1) k = x ∧ (cntAdd e c 1).ils.cnt = (cntAdd d c 1).ils.cnt ∧ (cntAdd e c 1).ils.sas = d.ils.sas := by
  refine ⟨h.here, ?_, h.sas_eq⟩
  simp only [cntAdd, h.cnt_eq]

end Streamed

/-! ### Events of an SA (R137, R139) -/

theorem rg_saEvent (d : Dev) (link s b a : Nat) : rg (saEvent d link s b) a =
    if a = Reg.ILS_EVENT_SA then wd s else if a = Reg.ILS_EVENT then rg d Reg.ILS_EVENT ||| wd (2 ^ (b + link)) else rg d a := by
  rw [saEvent, rg_pushInput, rg_rgSet, rg_rgOr]

/-- An event of an SA: its bit is set, the SA is named, and H0 has an input. -/
theorem saEvent_noted (d : Dev) {link b : Nat} (s : Nat) (hbit : b + link < 36) :
    bit (rg (saEvent d link s b) Reg.ILS_EVENT) (b + link) = true ∧ rg (saEvent d link s b) Reg.ILS_EVENT_SA = wd s ∧
      (saEvent d link s b).pas.inq = d.pas.inq ++ [{ core := 0x10, cls := 1, key := keyInline link, pass := d.pas.count, data := [b, s] }] := by
  refine ⟨?_, by rw [rg_saEvent, if_pos rfl], rfl⟩
  rw [rg_saEvent, if_neg (by decide), if_pos rfl]
  exact bit_or_wd_two_pow _ hbit

@[simp] theorem saEvent_ils (d : Dev) (link s b : Nat) : (saEvent d link s b).ils = d.ils := rfl

/-- Both words of an event lie below those of the links and the SAs. -/
theorem rg_saEvent_above (d : Dev) (link s b : Nat) {a : Nat} (ha : Reg.ILS_LINK_CTL ≤ a) : rg (saEvent d link s b) a = rg d a := by
  have hevent : Reg.ILS_EVENT < Reg.ILS_LINK_CTL ∧ Reg.ILS_EVENT_SA < Reg.ILS_LINK_CTL := by decide
  rw [rg_saEvent, if_neg (by omega), if_neg (by omega)]

theorem pnWarn_due {d : Dev} {s link : Nat} (hlink : saLink (saCtl d s) = link) (htx : saRx (saCtl d s) = false) (hactive : (saGet d s).state = 1)
    (hthr : pnThreshold d link ≠ 0) (hpn : pnThreshold d link ≤ (saGet d s).next) (hnew : (saGet d s).warned ≠ pnThreshold d link) :
    pnWarn s d = saEvent (saSet d s { saGet d s with warned := pnThreshold d link }) link s 0 := by
  subst hlink
  exact if_pos ⟨by simp [htx], hactive, hthr, hpn, hnew⟩

theorem pnWarn_not_due {d : Dev} {s link : Nat} (hlink : saLink (saCtl d s) = link)
    (h : saRx (saCtl d s) = true ∨ (saGet d s).state ≠ 1 ∨ pnThreshold d link = 0 ∨ (saGet d s).next < pnThreshold d link ∨
      (saGet d s).warned = pnThreshold d link) : pnWarn s d = d := by
  subst hlink
  refine if_neg fun ⟨htx, hactive, hthr, hpn, hnew⟩ => ?_
  rcases h with h | h | h | h | h
  · exact htx h
  · exact h hactive
  · exact hthr h
  · exact Nat.not_lt.2 hpn h
  · exact hnew h

theorem saFreeze_past {d : Dev} {s link : Nat} (hlink : saLink (saCtl d s) = link) (hactive : (saGet d s).state = 1)
    (hpast : pnMax (saCtl d s) < (saGet d s).next) : saFreeze s d = saEvent (saSet d s { saGet d s with state := 2 }) link s 4 := by
  subst hlink
  rw [saFreeze, if_pos hpast, freezeSa, if_pos hactive]

theorem saFreeze_not_past {d : Dev} {s : Nat} (h : (saGet d s).state ≠ 1 ∨ (saGet d s).next ≤ pnMax (saCtl d s)) : saFreeze s d = d := by
  rw [saFreeze, freezeSa]
  split
  case isTrue hpast => exact if_neg (h.resolve_right (by omega))
  case isFalse => rfl

theorem saRetire_finished {d : Dev} {s : Nat} (hretiring : (saGet d s).retiring = true) (hdone : saFrames d s = 0) : saRetire s d = saSet d s {} :=
  if_pos ⟨hretiring, hdone⟩

theorem saRetire_waits {d : Dev} {s : Nat} (h : (saGet d s).retiring = false ∨ saFrames d s ≠ 0) : saRetire s d = d :=
  if_neg fun ⟨hretiring, hdone⟩ => h.elim (by simp [hretiring]) (· hdone)

end Sys2Proof.Machine

/-! Inline sealing (O36): the ingress MAC and the classifier (R126, R127, R130). -/

namespace Sys2Proof.Machine

/-! ### The classifier of the protect stream (R126) -/

/-- The SA that a link's ILS_LINK_TX_SA names. -/
def txSa (d : Dev) (link : Nat) : Nat := fld (rg d (Reg.ILS_LINK_TX_SA + linkOff link)) 11 0

/-- A link names a transmit SA of its own that is VALID. -/
structure TxNamed (d : Dev) (link : Nat) : Prop where
  named : bit (rg d (Reg.ILS_LINK_TX_SA + linkOff link)) 12 = true
  valid : saValid d (txSa d link) = true
  tx : saRx (saCtl d (txSa d link)) = false
  own : saLink (saCtl d (txSa d link)) = link

/-- The device once an SA has given its next PN. -/
def pnTaken (d : Dev) (s : Nat) : Dev := saSet d s { saGet d s with next := (saGet d s).next + 1 }

section ClassifyPlain
variable {d : Dev} {link : Nat} (fr : Octets)

theorem classifyPlain_noSa (h : bit (rg d (Reg.ILS_LINK_TX_SA + linkOff link)) 12 = false ∨ saValid d (txSa d link) = false) :
    classifyPlain link fr d = (none, cntAdd d (32 * link + 6) 1) := by
  have hnone : ¬ bit (rg d (Reg.ILS_LINK_TX_SA + linkOff link)) 12 = true ∨ ¬ saValid d (txSa d link) = true := by simpa using h
  rw [← linkCnt_eq]
  exact if_pos (hnone.imp_right .inl)

variable (h : TxNamed d link)
include h

theorem classifyPlain_frozen (hfrozen : (saGet d (txSa d link)).state = 2) : classifyPlain link fr d = (none, cntAdd d (32 * link + 7) 1) := by
  rw [← linkCnt_eq]
  refine (if_neg ?_).trans (if_pos hfrozen)
  simpa using ⟨h.named, h.valid, h.tx, h.own⟩

/-- A frame that an ACTIVE SA takes has the SA's next PN, which moves on and may warn. -/
theorem classifyPlain_assigned (hactive : (saGet d (txSa d link)).state = 1) (hpn : (saGet d (txSa d link)).next < pnMax (saCtl d (txSa d link))) :
    classifyPlain link fr d =
      let t := pnWarn (txSa d link) (pnTaken d (txSa d link))
      (some (protectFrame t link (txSa d link) (saGet d (txSa d link)).next fr), t) := by
  refine ((if_neg ?_).trans ((if_neg ?_).trans (if_neg ?_))).trans ?_
  · simpa using ⟨h.named, h.valid, h.tx, h.own⟩
  · show ¬ (saGet d (txSa d link)).state = 2
    omega
  · exact not_not.2 hactive
  · rw [txSa] at hpn
    simp only [hpn.ne, if_false, txSa, pnTaken]

end ClassifyPlain

/-- The devices read the same in the words of the links and the SAs. -/
def LinksSame (d e : Dev) : Prop := ∀ a, Reg.ILS_LINK_CTL ≤ a → rg e a = rg d a

section LinksSame
variable {d e : Dev} (h : LinksSame d e)
include h

theorem LinksSame.word {b : Nat} (n : Nat) (hb : Reg.ILS_LINK_CTL ≤ b) : rg e (b + n) = rg d (b + n) := h _ (by omega)

theorem LinksSame.saCtl_eq (s : Nat) : saCtl e s = saCtl d s := h.word _ (by decide)

theorem LinksSame.pnThreshold_eq (link : Nat) : pnThreshold e link = pnThreshold d link := by
  rw [pnThreshold, h.word _ (by decide), h.word _ (by decide), pnThreshold]

theorem LinksSame.txSci_eq (link : Nat) : txSci e link = txSci d link := by
  rw [txSci, h.word _ (by decide), h.word _ (by decide), txSci]

theorem LinksSame.secTag_eq (link s pn len : Nat) : secTag e link s pn len = secTag d link s pn len := by
  unfold secTag
  rw [h.word (b := Reg.ILS_LINK_CTL) _ (by decide), h.word (b := Reg.ILS_LINK_TX_SCI_LO) _ (by decide),
    h.word (b := Reg.ILS_LINK_TX_SCI_HI) _ (by decide), h.saCtl_eq]

theorem LinksSame.frameIv_eq (s sci pn : Nat) : frameIv e s sci pn = frameIv d s sci pn := by
  have hsalt : saSalt e s = saSalt d s := by
    rw [saSalt, h.word _ (by decide), h.word _ (by decide), h.word _ (by decide), saSalt]
  rw [frameIv, hsalt, h.saCtl_eq, rn, h.word _ (by decide), frameIv, rn]

/-- What the classifier gives a frame comes from these words. -/
theorem LinksSame.protectFrame_eq (link s pn : Nat) (fr : Octets) : protectFrame e link s pn fr = protectFrame d link s pn fr := by
  simp only [protectFrame, h.secTag_eq, h.frameIv_eq, h.txSci_eq, h.saCtl_eq]

end LinksSame

/-! ### The classifier of the validate stream (R127) -/

theorem classifySealed_badTag {fr : Octets} (htag : (parseTag fr).ok = false) (link : Nat) (d : Dev) :
    classifySealed link fr d = (none, cntAdd d (32 * link + 9) 1) := by
  simp only [classifySealed, htag, linkCnt_eq, Bool.false_eq_true, not_false_eq_true, if_true]

section ClassifySealed
variable {k : Nat} {x : Stream} {d e : Dev} (h : Streamed k x d e) (link : Nat) {fr : Octets}
include h

theorem Streamed.findRxSa_eq (sci an : Nat) : findRxSa e link sci an = findRxSa d link sci an := by
  unfold findRxSa
  congr 1
  funext s
  rw [h.saValid_eq, h.saCtl_eq, h.saGet_eq, saSci, h.rg_eq, h.rg_eq, saSci]

theorem Streamed.rxSci_eq (t : RxTag) : rxSci e link fr t = rxSci d link fr t := by
  unfold rxSci
  rw [h.rg_eq, h.rg_eq]

theorem Streamed.linksSame : LinksSame d e := fun a _ => h.rg_eq a

variable (htag : (parseTag fr).ok = true)
include htag

theorem classifySealed_noSa (hfind : findRxSa d link (rxSci d link fr (parseTag fr)) (parseTag fr).an = none) :
    classifySealed link fr e = (none, cntAdd e (32 * link + 10) 1) := by
  simp only [classifySealed, htag, h.rxSci_eq, h.findRxSa_eq, hfind, linkCnt_eq, not_true_eq_false, if_false]

/-- A frame that finds its SA is judged by the SA's state and by its PN. -/
theorem classifySealed_found {a : Nat} (hfind : findRxSa d link (rxSci d link fr (parseTag fr)) (parseTag fr).an = some a) :
    classifySealed link fr e =
      let pn := recoverPn (saXpn (saCtl d a)) (saGet d a).low (parseTag fr).pn
      if (saGet d a).state = 2 then (none, cntAdd e (2 ^ 16 + a * 32 + 3) 1)
      else if pn < (saGet d a).low then (none, cntAdd e (2 ^ 16 + a * 32 + 1) 1)
      else (some { data := fr, sa := some a, pn := pn, iv := frameIv d a (rxSci d link fr (parseTag fr)) pn, last := decide (pn = pnMax (saCtl d a)) },
        e) := by
  simp only [classifySealed, htag, h.rxSci_eq, h.findRxSa_eq, hfind, not_true_eq_false, if_false, h.saGet_eq, h.saCtl_eq, h.linksSame.frameIv_eq, saCnt]

end ClassifySealed

/-! ### From the ingress MAC to the classifier (R126, R127, R130) -/

/-- What becomes of a frame that the classifier has judged: dropped, or queued for the lane. -/
def classified (k : Nat) (r : Option Frame × Dev) : Dev :=
  match r.1 with
  | none => r.2
  | some g => setStream r.2 k { stream r.2 k with classifier := (stream r.2 k).classifier ++ [g] }

theorem classified_none (k : Nat) (e : Dev) : classified k (none, e) = e := rfl

theorem classified_some {k : Nat} {x : Stream} {e : Dev} (h : stream e k = x) (g : Frame) :
    classified k (some g, e) = setStream e k { x with classifier := x.classifier ++ [g] } := by
  subst h; rfl

theorem roomFor_iff (buf : Nat) (fs : List Frame) (n : Nat) : roomFor buf fs n = true ↔ octets fs + n ≤ buf := decide_eq_true_iff

section Arrival
variable {d : Dev} {k : Nat} {fr : Octets} (hk : k < 8) (hopen : linkOpen d (k / 2) = true) (hpart : (part d 7 (k / 2)).state = 0)
include hk hopen hpart

/-- The checks of an arriving frame, in their order. -/
theorem frameArrival_eq (ok : Bool) : frameArrival k fr ok d =
    if ok = false then cntAdd d (32 * (k / 2) + k % 2) 1
    else if (if k % 2 = 0 then 9184 else 9216) < fr.length + 4 then cntAdd d (32 * (k / 2) + 2) 1
    else if fr.length + 4 < 64 then cntAdd d (32 * (k / 2) + 3) 1
    else if etherType fr = 0x8808 then cntAdd d (32 * (k / 2) + 15) 1
    else if 131072 < octets (stream d k).ingress + fr.length then cntAdd d (32 * (k / 2) + (4 + k % 2)) 1
    else toClassifier k (setStream d k { stream d k with ingress := (stream d k).ingress ++ [{ data := fr }] }) := by
  have hguard : ¬ (¬ linkOpen d (k / 2) = true ∨ (part d 7 (k / 2)).state ≠ 0 ∨ 8 ≤ k) := by simp [hopen, hpart, hk]
  refine (if_neg hguard).trans ?_
  simp only [linkCnt_eq, Bool.not_eq_true, roomFor_iff, Nat.not_le, bufIngress]

theorem frameArrival_badFcs : frameArrival k fr false d = cntAdd d (32 * (k / 2) + k % 2) 1 := by
  rw [frameArrival_eq hk hopen hpart, if_pos rfl]

theorem frameArrival_oversize (hlen : (if k % 2 = 0 then 9184 else 9216) < fr.length + 4) : frameArrival k fr true d = cntAdd d (32 * (k / 2) + 2) 1 := by
  rw [frameArrival_eq hk hopen hpart, if_neg (by decide), if_pos hlen]

theorem frameArrival_undersize (hlen : fr.length < 60) : frameArrival k fr true d = cntAdd d (32 * (k / 2) + 3) 1 := by
  rw [frameArrival_eq hk hopen hpart, if_neg (by decide), if_neg (by split <;> omega), if_pos (by omega)]

variable (hmin : 60 ≤ fr.length) (hmax : fr.length ≤ 9180)
include hmin hmax

/-- A frame of a good length and FCS is taken unless it is one of flow control or finds no room. -/
theorem frameArrival_sized : frameArrival k fr true d =
    if etherType fr = 0x8808 then cntAdd d (32 * (k / 2) + 15) 1
    else if 131072 < octets (stream d k).ingress + fr.length then cntAdd d (32 * (k / 2) + (4 + k % 2)) 1
    else toClassifier k (setStream d k { stream d k with ingress := (stream d k).ingress ++ [{ data := fr }] }) := by
  rw [frameArrival_eq hk hopen hpart, if_neg (by decide), if_neg (by split <;> omega), if_neg (by omega)]

theorem frameArrival_flowControl (htype : etherType fr = 0x8808) : frameArrival k fr true d = cntAdd d (32 * (k / 2) + 15) 1 := by
  rw [frameArrival_sized hk hopen hpart hmin hmax, if_pos htype]

variable (htype : etherType fr ≠ 0x8808)
include htype

theorem frameArrival_overflow (hroom : 131072 < octets (stream d k).ingress + fr.length) :
    frameArrival k fr true d = cntAdd d (32 * (k / 2) + (4 + k % 2)) 1 := by
  rw [frameArrival_sized hk hopen hpart hmin hmax, if_neg htype, if_pos hroom]

variable (hingress : (stream d k).ingress = []) (hroom : octets (stream d k).classifier + fr.length ≤ 1048576)
  (hport : k % 2 = 1 → etherType fr = 0x88E5)
include hingress hroom hport

/-- A good frame that finds its ingress stage empty is classified at once, on a device whose streams stand as before. -/
theorem frameArrival_classified : ∃ e, Streamed k (stream d k) d e ∧
    frameArrival k fr true d = classified k (if k % 2 = 0 then classifyPlain (k / 2) fr e else classifySealed (k / 2) fr e) := by
  have harrived := streamed_setStream d k { stream d k with ingress := [{ data := fr }] }
  generalize hd : setStream d k { stream d k with ingress := [{ data := fr }] } = d' at harrived
  have hstream : stream d k = { stream d' k with ingress := [] } := by rw [harrived.here, ← hingress]
  refine ⟨setStream d' k { stream d' k with ingress := [] }, harrived.trans (hstream ▸ streamed_setStream ..), ?_⟩
  have hpass : ¬ (k % 2 = 1 ∧ etherType fr = 0x888E) ∧ ¬ (k % 2 = 1 ∧ etherType fr ≠ 0x88E5) :=
    ⟨fun ⟨hodd, hun⟩ => by simp [hport hodd] at hun, fun ⟨hodd, hun⟩ => hun (hport hodd)⟩
  have hbuf : roomFor bufClassifier (stream d' k).classifier fr.length = true := by rw [roomFor_iff, harrived.here]; exact hroom
  rw [frameArrival_sized hk hopen hpart hmin hmax, if_neg htype, hingress, if_neg (by simp only [octets, List.map_nil, List.foldl_nil]; omega),
    List.nil_append, hd]
  have hin : (stream d' k).ingress = [{ data := fr }] := by rw [harrived.here]
  simp only [toClassifier, hin, hpass, if_false, hbuf, not_true_eq_false]
  rfl

end Arrival

/-! ### What a good plain frame meets (R126, R139) -/

section Plain
variable {k : Nat} {x : Stream} {d e : Dev} (h : Streamed k x d e) {link : Nat} (fr : Octets)
include h

theorem Streamed.txSa_eq : txSa e link = txSa d link := by rw [txSa, h.rg_eq, txSa]

theorem classified_plain_noSa (hno : bit (rg d (Reg.ILS_LINK_TX_SA + linkOff link)) 12 = false ∨ saValid d (txSa d link) = false) :
    classified k (classifyPlain link fr e) = cntAdd e (32 * link + 6) 1 := by
  have hno' : bit (rg e (Reg.ILS_LINK_TX_SA + linkOff link)) 12 = false ∨ saValid e (txSa e link) = false := by
    rwa [h.rg_eq, h.txSa_eq, h.saValid_eq]
  rw [classifyPlain_noSa fr hno', classified_none]

theorem Streamed.linksSame_pnTaken (s : Nat) : LinksSame d (pnTaken e s) := fun a _ => h.rg_eq a

theorem Streamed.saGet_pnTaken (s i : Nat) :
    saGet (pnTaken e s) i = if i = s then { saGet d s with next := (saGet d s).next + 1 } else saGet d i := by
  rw [pnTaken, saGet_saSet, h.saGet_eq, h.saGet_eq]

variable (htx : TxNamed d link)
include htx

theorem Streamed.txNamed : TxNamed e link := by
  constructor
  · rw [h.rg_eq]; exact htx.named
  · rw [h.txSa_eq, h.saValid_eq]; exact htx.valid
  · rw [h.txSa_eq, h.saCtl_eq]; exact htx.tx
  · rw [h.txSa_eq, h.saCtl_eq]; exact htx.own

theorem classified_plain_frozen (hfrozen : (saGet d (txSa d link)).state = 2) : classified k (classifyPlain link fr e) = cntAdd e (32 * link + 7) 1 := by
  rw [classifyPlain_frozen fr (h.txNamed htx) (by rwa [h.txSa_eq, h.saGet_eq]), classified_none]

variable (hactive : (saGet d (txSa d link)).state = 1) (hpn : (saGet d (txSa d link)).next < pnMax (saCtl d (txSa d link)))
include hactive hpn

/-- The frame is queued with what its SA gives it; t is the device after the SA's PN has moved on, with the warning where it is due. -/
theorem classified_plain_assigned {t : Dev} (ht : pnWarn (txSa d link) (pnTaken e (txSa d link)) = t) (hstream : stream t k = x) (hsame : LinksSame d t) :
    classified k (classifyPlain link fr e) =
      setStream t k { x with classifier := x.classifier ++ [protectFrame d link (txSa d link) (saGet d (txSa d link)).next fr] } := by
  rw [classifyPlain_assigned fr (h.txNamed htx) (by rwa [h.txSa_eq, h.saGet_eq]) (by rwa [h.txSa_eq, h.saGet_eq, h.saCtl_eq])]
  rw [h.txSa_eq, ht, h.saGet_eq, classified_some hstream, hsame.protectFrame_eq]

/-- The next PN has reached a threshold that the SA has not warned of. -/
theorem classified_plain_warned (hthr : pnThreshold d link ≠ 0) (hreached : pnThreshold d link ≤ (saGet d (txSa d link)).next + 1)
    (hnew : (saGet d (txSa d link)).warned ≠ pnThreshold d link) :
    let t := classified k (classifyPlain link fr e)
    stream t k = { x with classifier := x.classifier ++ [protectFrame d link (txSa d link) (saGet d (txSa d link)).next fr] } ∧
      saGet t (txSa d link) = { saGet d (txSa d link) with next := (saGet d (txSa d link)).next + 1, warned := pnThreshold d link } ∧
      (link < 4 → bit (rg t Reg.ILS_EVENT) link = true) := by
  have hsa := (h.saGet_pnTaken (txSa d link) (txSa d link)).trans (if_pos rfl)
  have hsame := h.linksSame_pnTaken (txSa d link)
  have hctl := hsame.saCtl_eq (txSa d link)
  have hthr' := hsame.pnThreshold_eq link
  have hwarn := pnWarn_due (link := link) (hctl ▸ htx.own) (hctl ▸ htx.tx) (by rwa [hsa]) (by rwa [hthr']) (by rwa [hthr', hsa]) (by rwa [hthr', hsa])
  rw [hthr', hsa] at hwarn
  intro t
  have ht : t = _ := classified_plain_assigned h fr htx hactive hpn hwarn h.here fun a ha => (rg_saEvent_above _ _ _ _ ha).trans (hsame a ha)
  rw [ht]
  refine ⟨by simp, ?_, fun hlink => ?_⟩
  · rw [saGet_setStream, saGet, saEvent_ils]
    exact (saGet_saSet ..).trans (if_pos rfl)
  · have hbit := fun e => (saEvent_noted e (link := link) (b := 0) (txSa d link) (by omega)).1
    simp only [Nat.zero_add] at hbit
    exact hbit _

/-- No threshold, one not reached, or one warned of. -/
theorem classified_plain_quiet (hquiet : pnThreshold d link = 0 ∨ (saGet d (txSa d link)).next + 1 < pnThreshold d link ∨
      (saGet d (txSa d link)).warned = pnThreshold d link) :
    let t := classified k (classifyPlain link fr e)
    stream t k = { x with classifier := x.classifier ++ [protectFrame d link (txSa d link) (saGet d (txSa d link)).next fr] } ∧
      saGet t (txSa d link) = { saGet d (txSa d link) with next := (saGet d (txSa d link)).next + 1 } ∧
      (∀ j, j ≠ txSa d link → saGet t j = saGet d j) ∧ (∀ j, j ≠ k → stream t j = stream d j) ∧ t.ils.cnt = d.ils.cnt ∧ t.regs = d.regs ∧ t.mem = d.mem := by
  have hsa := h.saGet_pnTaken (txSa d link)
  have hself := (hsa (txSa d link)).trans (if_pos rfl)
  have hsame := h.linksSame_pnTaken (txSa d link)
  have hctl := hsame.saCtl_eq (txSa d link)
  have hwarn := pnWarn_not_due (link := link) (hctl ▸ htx.own) (.inr (.inr (by rwa [hsame.pnThreshold_eq, hself])))
  intro t
  have ht : t = _ := classified_plain_assigned h fr htx hactive hpn hwarn h.here hsame
  rw [ht]
  refine ⟨by simp, hself, fun j hj => (hsa j).trans (if_neg hj), fun j hj => ?_, h.cnt_eq, h.regs_eq, h.mem_eq⟩
  rw [stream_setStream, if_neg hj]
  exact h.others j hj

end Plain

end Sys2Proof.Machine

/-! Inline sealing (O36): the later stages and the wire (R113, R116, R126, R127, R129, R131, R137, R140, Table 5.12). -/

namespace Sys2Proof.Machine

/-! ### The lane and the check codes of a stage (R113, R116, R129, R131, Table 5.12) -/

section Stages
variable {d : Dev} {k : Nat} (hk : k < 8) (hopen : linkOpen d (k / 2) = true)
include hk hopen

theorem stageAdvance_eq {n : Nat} (hn : n ≤ 2) (integ : Bool) : stageAdvance k n integ d =
    if integ = true then stageIntegrity k n d else if n = 0 then toClassifier k d else if n = 1 then toCipher k d else toEgress k d := by
  refine if_neg ?_
  simp [hopen, hk, hn]

theorem stageAdvance_integrity {n : Nat} (hn : n ≤ 2) {y : Stream} (hy : (stream d k).dropped n = some y) :
    stageAdvance k n true d = integrityDrop (k / 2) (setStream d k y) := by
  rw [stageAdvance_eq hk hopen hn, if_pos rfl]
  simp only [stageIntegrity, hy]

theorem frameTransmit_integrity {y : Stream} (hy : (stream d k).dropped 3 = some y) :
    frameTransmit k true d = integrityDrop (k / 2) (setStream d k y) := by
  have hopen' : ¬ (8 ≤ k ∨ ¬ linkOpen d (k / 2) = true) := by simp [hopen, hk]
  obtain ⟨f, rest, hegress⟩ : ∃ f rest, (stream d k).egress = f :: rest := by
    cases h : (stream d k).egress with
    | nil => simp [Stream.dropped, h] at hy
    | cons f rest => exact ⟨f, rest, rfl⟩
  simp only [frameTransmit, hegress, hopen', if_false, if_true, stageIntegrity, hy]

/-- The lane takes the oldest classified frame. -/
theorem stageAdvance_toCipher {f : Frame} {rest : List Frame} (hq : (stream d k).classifier = f :: rest) (hserv : inService d 1 (stream d k).lane = true)
    (hroom : octets (stream d k).cipher + f.data.length ≤ 262144)
    (hslots : (laneUse d (stream d k).lane).now + inlineCharge k f + spentOf d (Reg.CLN_ALLOW + 16 * (stream d k).lane) ≤ 50000) :
    let n := (stream d k).lane
    stageAdvance k 1 false d =
      setStream (bwAdd (22 + n) (inlineOctets k f)
          { d with lanes := tabSet {} d.lanes n { laneUse d n with now := (laneUse d n).now + inlineCharge k f } }) k
        { stream d k with classifier := rest, cipher := (stream d k).cipher ++ [{ f with lane := n }] } := by
  have hbuf : roomFor bufCipher (stream d k).cipher f.data.length = true := (roomFor_iff ..).2 hroom
  rw [stageAdvance_eq hk hopen (by decide)]
  simp only [toCipher, hq, hserv, hbuf, Nat.not_lt.2 hslots, Bool.false_eq_true, if_false, if_true, not_true_eq_false, or_self, Nat.one_ne_zero]

end Stages

/-! ### Sealing and opening (R126, R127, R137) -/

theorem fitTo_length {n : Nat} {o : Octets} (h : o.length ≤ n) : (fitTo n o).length = n := by
  simp only [fitTo, zeros, List.length_append, List.length_take, List.length_replicate]
  omega

section Egress
variable {d : Dev} {k : Nat} (hk : k < 8) (hopen : linkOpen d (k / 2) = true) {f : Frame} {rest : List Frame} {sa : Nat}
  (hq : (stream d k).cipher = f :: rest) (hsa : f.sa = some sa)
include hk hopen hq hsa

theorem stageAdvance_wiped (hkey : (saGet d sa).keyed = false) : stageAdvance k 2 false d =
    cntAdd (setStream d k { stream d k with cipher := rest }) (32 * (k / 2) + if k % 2 = 0 then 6 else 10) 1 := by
  rw [stageAdvance_eq hk hopen (by decide)]
  simp [toEgress, hq, hsa, hkey, linkCnt_eq]

variable (hkey : (saGet d sa).keyed = true)
include hkey

theorem stageAdvance_sealed (hside : k % 2 = 0) (hroom : octets (stream d k).egress + (sealFrame (saGet d sa).key f).length ≤ 655360) :
    let t := stageAdvance k 2 false d
    stream t k = { stream d k with cipher := rest, egress := (stream d k).egress ++ [{ f with data := sealFrame (saGet d sa).key f }] } ∧
      t.ils.sas = d.ils.sas := by
  have hbuf : roomFor bufEgress (stream d k).egress (sealFrame (saGet d sa).key f).length = true := (roomFor_iff ..).2 hroom
  rw [stageAdvance_eq hk hopen (by decide)]
  simp only [toEgress, hq, hsa, hkey, hside, hbuf, Option.getD_some, Bool.false_eq_true, if_false, if_true, not_true_eq_false, OfNat.ofNat_ne_zero,
    OfNat.ofNat_ne_one]
  split <;> exact ⟨by simp [saCnt], rfl⟩

variable (hside : k % 2 = 1)
include hside

theorem stageAdvance_frozen (hfrozen : (saGet d sa).state = 2) :
    stageAdvance k 2 false d = cntAdd (setStream d k { stream d k with cipher := rest }) (2 ^ 16 + sa * 32 + 3) 1 := by
  rw [stageAdvance_eq hk hopen (by decide)]
  simp [toEgress, hq, hsa, hkey, hside, hfrozen, saCnt]

variable (hlive : (saGet d sa).state ≠ 2)
include hlive

theorem stageAdvance_notValid (hbad : openFrame (saGet d sa).key f = none) :
    stageAdvance k 2 false d = cntAdd (setStream d k { stream d k with cipher := rest }) (2 ^ 16 + sa * 32 + 2) 1 := by
  rw [stageAdvance_eq hk hopen (by decide)]
  simp [toEgress, hq, hsa, hkey, hside, hlive, hbad, saCnt]

theorem stageAdvance_opened {p : Octets} (hgood : openFrame (saGet d sa).key f = some p)
    (hroom : octets (stream d k).egress + max 60 p.length ≤ 655360) : stageAdvance k 2 false d =
      acceptPn (k / 2) sa f (setStream d k
        { stream d k with cipher := rest, egress := (stream d k).egress ++ [{ f with data := fitTo (max 60 p.length) p }] }) := by
  have hbuf : roomFor bufEgress (stream d k).egress (fitTo (max 60 p.length) p).length = true := by
    rw [roomFor_iff, fitTo_length (le_max_right ..)]
    exact hroom
  rw [stageAdvance_eq hk hopen (by decide)]
  simp [toEgress, hq, hsa, hkey, hside, hlive, hgood, hbuf]

end Egress

/-- Step 7 of R127, for a frame that had not the largest PN. -/
theorem acceptPn_not_last {f : Frame} (hlast : f.last = false) (link s : Nat) (d : Dev) : acceptPn link s f d =
    saCnt (saSet d s { saGet d s with
      next := max (saGet d s).next (f.pn + 1), low := max (saGet d s).low (max (saGet d s).next (f.pn + 1) - saWindow d s) }) s 0 1 := by
  simp only [acceptPn, hlast, Bool.false_eq_true, if_false]

/-! ### The wire (R126, R127, R129) -/

/-- The oldest frame of a validate stream is sent on the plain side. -/
theorem frameTransmit_plain {d : Dev} {k : Nat} (hk : k < 8) (hopen : linkOpen d (k / 2) = true) (hside : k % 2 = 1) {f : Frame} {rest : List Frame}
    (hq : (stream d k).egress = f :: rest) : frameTransmit k false d =
      { setStream d k { stream d k with egress := rest } with
        ils := { (setStream d k { stream d k with egress := rest }).ils with sent := d.ils.sent ++ [(2 * (k / 2), f.data)] } } := by
  have hopen' : ¬ (8 ≤ k ∨ ¬ linkOpen d (k / 2) = true) := by simp [hopen, hk]
  simp only [frameTransmit, hq, hopen', hside, if_false, Bool.false_eq_true, Nat.one_ne_zero, setStream_sent, Nat.sub_self, Nat.add_zero,
    Nat.mul_comm (k / 2) 2]

theorem linkChange_moves {d : Dev} {link b : Nat} {up : Bool} (hlink : link < 4) (hb : b < 4) (hup : portUp d link b ≠ up) : linkChange link b up d =
    rgOr { d with ils := { d.ils with up := tabSet false d.ils.up (link * 4 + b) up } } Reg.ILS_EVENT (2 ^ (8 + link)) :=
  if_neg fun h => h.elim (by omega) fun h => h.elim (by omega) hup

end Sys2Proof.Machine

/-! Inline sealing (O36): the queues of the uncontrolled port (R20, R69, R128). -/

namespace Sys2Proof.Machine

/-! ### What the pipeline's own regions permit (R345, R346) -/

section Permitted
variable {a : Nat} (ha : 0x0B0000 ≤ a) {m : Nat} (hm : m < 0x100) (d : Dev) (v : Word)
include ha hm

/-- The regions lie below the blocks' registers. -/
theorem region_rgSet {r : Nat} (hr : r < regionCount m) : region (rgSet d a v) m r = region d m r := by
  have hcount : regionCount m ≤ 32 := by unfold regionCount; split_ifs <;> decide
  have hword : ∀ k < 3, rg (rgSet d a v) (mpuAddr m r k) = rg d (mpuAddr m r k) := fun k hk =>
    (rg_rgSet ..).trans (if_neg (by unfold mpuAddr; omega))
  simp only [region, regionOf, hword 0 (by decide), hword 1 (by decide), hword 2 (by decide)]

variable (hxip : a ≠ Reg.FLS_XIP_CTL)
include hxip

theorem refusal_rgSet (ctx col right w : Nat) : refusal (rgSet d a v) m ctx col right w = refusal d m ctx col right w := by
  have hgov : governing (rgSet d a v) m ctx w = governing d m ctx w := by
    simp only [governing, List.map_congr_left fun r hr => region_rgSet ha hm d v (List.mem_range.1 hr)]
  have hwin : ∀ p, windowOn (rgSet d a v) p = windowOn d p := fun p => by
    rw [windowOn, rg_rgSet, if_neg hxip.symm]
    rfl
  simp only [refusal, hgov, hwin]
  rfl

/-- A read that the regions permit stays permitted, and records nothing. -/
theorem engRead_rgSet {ident col w n : Nat} (h : (engRead d m ident col w n).1 = true) :
    engRead (rgSet d a v) m ident col w n = (true, rgSet d a v) := by
  have hnone : (bursts (n + 1) w n).findSome? (fun b => refusedIn d m ident col 0 b.1 b.2) = none := by
    unfold engRead at h
    split at h
    · assumption
    · cases h
  simp only [engRead, refusedIn, refusal_rgSet ha hm d v hxip]
  simp only [refusedIn] at hnone
  rw [hnone]

end Permitted

/-! ### The transmit queue (R69, R128) -/

/-- A queue's SIZE follows its BASE (Table 5.5). -/
theorem uqTxSize_word (link : Nat) : Reg.ILS_UQ_TX_BASE + linkOff link + 1 = Reg.ILS_UQ_TX_SIZE + linkOff link :=
  Nat.add_right_comm Reg.ILS_UQ_TX_BASE (linkOff link) 1

/-- SIZE_LOG2 of a link's transmit queue. -/
def uqLog (d : Dev) (link : Nat) : Nat := fld (rg d (Reg.ILS_UQ_TX_SIZE + linkOff link)) 4 0
/-- Entries of a link's transmit queue. -/
def uqSize (d : Dev) (link : Nat) : Nat := 2 ^ uqLog d link

/-- Positions of its head and of its tail. -/
def uqHead (d : Dev) (link : Nat) : Nat := posOf (rg d (Reg.ILS_UQ_TX_HEAD + linkOff link)) (uqSize d link)
def uqTail (d : Dev) (link : Nat) : Nat := posOf (rg d (Reg.ILS_UQ_TX_TAIL + linkOff link)) (uqSize d link)

/-- Address of its oldest entry, and that entry's LENGTH. -/
def uqAt (d : Dev) (link : Nat) : Nat := rn d (Reg.ILS_UQ_TX_BASE + linkOff link) + 512 * (uqHead d link % uqSize d link)
def uqLen (d : Dev) (link : Nat) : Nat := fld (memRd d (uqAt d link)) 13 0

theorem uqDrain_empty {d : Dev} {link : Nat} (h : uqHead d link = uqTail d link) (fuel : Nat) : uqDrain link fuel d = d := by
  cases fuel with
  | zero => rfl
  | succ fuel =>
    unfold uqHead uqTail uqSize uqLog at h
    simp only [uqDrain, uqTxSize_word, h, true_or, or_true, if_true]

/-- The device once the oldest entry of a transmit queue has entered the egress stage. -/
def uqSent (d : Dev) (link : Nat) : Dev :=
  setStream (rgSet d (Reg.ILS_UQ_TX_HEAD + linkOff link) (idxWord ((uqHead d link + 1) % (2 * uqSize d link)) (uqSize d link))) (2 * link)
    { stream d (2 * link) with
      egress := (stream d (2 * link)).egress ++ [{ data := memRdOct d false (uqAt d link + 1) (uqLen d link) }] }

theorem uqDrain_entry {d : Dev} {link : Nat} (hopen : linkOpen d link = true) (hlog2 : 2 ≤ uqLog d link)
    (hlog6 : uqLog d link ≤ 6) (hne : uqHead d link ≠ uqTail d link) (hmin : 60 ≤ uqLen d link)
    (hmax : uqLen d link ≤ 1514) (hread : engRead d 0xA8 0x10 0 (uqAt d link) (1 + packLen false (uqLen d link)) = (true, d))
    (hroom : octets (stream d (2 * link)).egress + uqLen d link ≤ 655360) (fuel : Nat) :
    uqDrain link (fuel + 1) d = uqDrain link fuel (uqSent d link) := by
  have hbuf : roomFor bufEgress (stream d (2 * link)).egress (uqLen d link) = true := (roomFor_iff ..).2 hroom
  have hread' : engRead d 0xA8 0x10 0 (uqAt d link) (1 + packLen false (min (uqLen d link) 1514)) = (true, d) := by rwa [Nat.min_eq_left hmax]
  have hgo : ¬ (uqLog d link < 2 ∨ 6 < uqLog d link ∨ uqHead d link = uqTail d link ∨ ¬ linkOpen d link = true) := by
    simp [hopen, hne]; omega
  have hlen : ¬ (uqLen d link < 60 ∨ 1514 < uqLen d link) := by omega
  unfold uqSent
  unfold uqLen uqAt uqHead uqTail uqSize uqLog at *
  rw [uqDrain]
  simp only [uqTxSize_word, hgo, hbuf, hread', hlen, if_false, not_true_eq_false, and_false, false_or]

/-- From a position, the one at distance 1 is the next. -/
theorem next_of_posDist_one {n a b : Nat} (hb : b < 2 * n) (h : posDist n a b = 1) : (a + 1) % (2 * n) = b := by
  have hn : 0 < 2 * n := by omega
  have hmod : posDist n (a % (2 * n)) b = 0 + 1 := by rw [posDist, Nat.mod_mod, ← posDist, h]
  have hzero := posDist_next (Nat.mod_lt a hn) hb hmod
  rwa [posDist_eq_zero_iff (Nat.mod_lt _ hn) hb, Nat.mod_add_mod] at hzero

/-- The device once a transmit queue's tail is written. -/
def uqRung (d : Dev) (link : Nat) (v : Word) : Dev := rgSet d (Reg.ILS_UQ_TX_TAIL + linkOff link) (wd (v.toNat % 2 ^ 17))

section Rung
variable (d : Dev) (link : Nat) (v : Word)

theorem rg_uqRung {b : Nat} (hb : b ≠ Reg.ILS_UQ_TX_TAIL) : rg (uqRung d link v) (b + linkOff link) = rg d (b + linkOff link) :=
  (rg_rgSet ..).trans (if_neg (by omega))

theorem uqLog_uqRung : uqLog (uqRung d link v) link = uqLog d link := by rw [uqLog, rg_uqRung _ _ _ (by decide), uqLog]
theorem uqSize_uqRung : uqSize (uqRung d link v) link = uqSize d link := by rw [uqSize, uqLog_uqRung, uqSize]
theorem uqHead_uqRung : uqHead (uqRung d link v) link = uqHead d link := by rw [uqHead, rg_uqRung _ _ _ (by decide), uqSize_uqRung, uqHead]
theorem uqAt_uqRung : uqAt (uqRung d link v) link = uqAt d link := by
  rw [uqAt, rn, rg_uqRung _ _ _ (by decide), uqHead_uqRung, uqSize_uqRung, uqAt, rn]
theorem uqLen_uqRung : uqLen (uqRung d link v) link = uqLen d link := by rw [uqLen, uqAt_uqRung]; rfl
theorem uqTail_uqRung : uqTail (uqRung d link v) link = posOf v (uqSize d link) := by
  rw [uqTail, uqSize_uqRung, uqRung, rg_rgSet, if_pos rfl, posOf_tailWord]
theorem linkOpen_uqRung : linkOpen (uqRung d link v) link = linkOpen d link := by
  rw [linkOpen, rg_uqRung _ _ _ (by decide)]; rfl

end Rung

section Sent
variable {d : Dev} {link : Nat}

theorem rg_uqSent {b : Nat} (hb : b ≠ Reg.ILS_UQ_TX_HEAD) : rg (uqSent d link) (b + linkOff link) = rg d (b + linkOff link) := by
  rw [uqSent, rg_setStream, rg_rgSet, if_neg (by omega)]

theorem stream_uqSent (d : Dev) (link : Nat) : stream (uqSent d link) (2 * link) = { stream d (2 * link) with
    egress := (stream d (2 * link)).egress ++ [{ data := memRdOct d false (uqAt d link + 1) (uqLen d link) }] } :=
  (stream_setStream ..).trans (if_pos rfl)

theorem uqSize_uqSent : uqSize (uqSent d link) link = uqSize d link := by rw [uqSize, uqLog, rg_uqSent (by decide), uqSize, uqLog]
theorem uqTail_uqSent : uqTail (uqSent d link) link = uqTail d link := by rw [uqTail, rg_uqSent (by decide), uqSize_uqSent, uqTail]

theorem uqHead_uqSent (hlog : uqLog d link ≤ 6) : uqHead (uqSent d link) link = (uqHead d link + 1) % (2 * uqSize d link) := by
  have hsmall : uqSize d link ≤ 2 ^ 16 := Nat.pow_le_pow_right (by decide) (by omega)
  have hpos : 0 < uqSize d link := Nat.two_pow_pos _
  rw [uqHead, uqSize_uqSent, uqSent, rg_setStream, rg_rgSet, if_pos rfl, posOf_idxWord hsmall (Nat.mod_lt _ (by omega))]

end Sent

/-- A doorbell for one good entry: the entry enters the egress stage and the head meets the tail. -/
theorem uqTxTail_one {d : Dev} {link : Nat} {v : Word} (hlink : link < 4) (hopen : linkOpen d link = true) (hlog2 : 2 ≤ uqLog d link)
    (hlog6 : uqLog d link ≤ 6) (hquiet : rg d (Reg.ILS_UQ_TX_TAIL + linkOff link) = rg d (Reg.ILS_UQ_TX_HEAD + linkOff link))
    (hidx : fld v 15 0 < uqSize d link) (hone : posDist (uqSize d link) (uqHead d link) (posOf v (uqSize d link)) = 1) (hmin : 60 ≤ uqLen d link)
    (hmax : uqLen d link ≤ 1514) (hread : (engRead d 0xA8 0x10 0 (uqAt d link) (1 + packLen false (uqLen d link))).1 = true)
    (hroom : octets (stream d (2 * link)).egress + uqLen d link ≤ 655360) :
    uqTxTail link v d = uqSent (uqRung d link v) link ∧ uqHead (uqSent (uqRung d link v) link) link = posOf v (uqSize d link) := by
  have hv : posOf v (uqSize d link) < 2 * uqSize d link := posOf_lt (by simpa [fld, nfld] using hidx)
  have hnext := next_of_posDist_one hv hone
  have hhead : uqHead (uqSent (uqRung d link v) link) link = posOf v (uqSize d link) := by
    rw [uqHead_uqSent (by rwa [uqLog_uqRung]), uqHead_uqRung, uqSize_uqRung, hnext]
  refine ⟨?_, hhead⟩
  have hbell : uqTxTail link v d = uqDrain link (uqSize d link) (uqRung d link v) := by
    have hguard : ¬ (4 ≤ link ∨ uqLog d link < 2 ∨ 6 < uqLog d link ∨ uqSize d link ≤ fld v 15 0 ∨
        posDist (uqSize d link) (uqHead d link) (posOf v (uqSize d link)) = 0 ∨
        uqSize d link < posDist (uqSize d link) (uqHead d link) (posOf v (uqSize d link)) ∨
        uqSize d link < posDist (uqSize d link) (uqHead d link) (posOf v (uqSize d link))) := by rw [hone]; omega
    simp only [uqHead, uqSize, uqLog] at hguard
    simp only [uqTxTail, hquiet, hguard, if_false, uqSize, uqLog, uqRung]
  have hne : uqHead (uqRung d link v) link ≠ uqTail (uqRung d link v) link := by
    rw [uqHead_uqRung, uqTail_uqRung]
    intro heq
    rw [heq, posDist, Nat.add_sub_cancel_left, Nat.mod_self] at hone
    cases hone
  obtain ⟨fuel, hfuel⟩ : ∃ fuel, uqSize d link = fuel + 1 := ⟨_, (Nat.succ_pred_eq_of_pos (Nat.two_pow_pos _)).symm⟩
  have hhigh : 0x0B0000 ≤ Reg.ILS_UQ_TX_TAIL + linkOff link := Nat.le_add_right_of_le (by decide)
  have hxip : Reg.ILS_UQ_TX_TAIL + linkOff link ≠ Reg.FLS_XIP_CTL := by
    have hword : Reg.ILS_UQ_TX_TAIL + 128 < Reg.FLS_XIP_CTL := by decide
    rw [linkOff]
    omega
  rw [hbell, hfuel, uqDrain_entry (by rwa [linkOpen_uqRung]) (by rwa [uqLog_uqRung]) (by rwa [uqLog_uqRung]) hne (by rwa [uqLen_uqRung])
    (by rwa [uqLen_uqRung]) (by rw [uqAt_uqRung, uqLen_uqRung]; exact engRead_rgSet hhigh (by decide) d _ hxip hread) (by rw [uqLen_uqRung]; exact hroom)]
  exact uqDrain_empty (by rw [hhead, uqTail_uqSent, uqTail_uqRung]) fuel

/-- Entries of a link's receive queue. -/
def uqRxSize (d : Dev) (link : Nat) : Nat := 2 ^ fld (rg d (Reg.ILS_UQ_RX_SIZE + linkOff link)) 4 0

/-- A write of a receive queue's head that consumes entries already written. -/
theorem uqRxHead_within {d : Dev} {link : Nat} {v : Word} (hlink : link < 4) (hidx : fld v 15 0 < uqRxSize d link)
    (hmoves : 0 < posDist (uqRxSize d link) (posOf (rg d (Reg.ILS_UQ_RX_HEAD + linkOff link)) (uqRxSize d link)) (posOf v (uqRxSize d link)))
    (hwritten : posDist (uqRxSize d link) (posOf (rg d (Reg.ILS_UQ_RX_HEAD + linkOff link)) (uqRxSize d link)) (posOf v (uqRxSize d link)) ≤
      posDist (uqRxSize d link) (posOf (rg d (Reg.ILS_UQ_RX_HEAD + linkOff link)) (uqRxSize d link))
        (posOf (rg d (Reg.ILS_UQ_RX_TAIL + linkOff link)) (uqRxSize d link))) :
    uqRxHead link v d = rgSet d (Reg.ILS_UQ_RX_HEAD + linkOff link) (wd (v.toNat % 2 ^ 17)) := by
  refine if_neg ?_
  rintro (h | h | h | h)
  · omega
  · exact Nat.not_le.2 hidx h
  · exact hmoves.ne' h
  · exact Nat.not_lt.2 hwritten h

end Sys2Proof.Machine

/-! The proof of O36: the inline pipeline (R126 to R131, R133, R136, R137, R139, R140, Table 5.12). -/

namespace Sys2Proof.Machine

/-- A frame arrives on the side of its stream. -/
theorem exec_arrival {s : State} {link k : Nat} {fr : Octets} {ok : Bool} {e : Dev} (hlink : link < 4) (hk : k / 2 = link)
    (h : frameArrival k fr ok s.dev = e) :
    (if k % 2 = 0 then exec (.plainFrameArrival link fr ok) s else exec (.sealedFrameArrival link fr ok) s) = .next { s with dev := e } := by
  subst h
  have hplain : exec (.plainFrameArrival link fr ok) s = onDev (frameArrival (2 * (link % 4)) fr ok) s := rfl
  have hsealed : exec (.sealedFrameArrival link fr ok) s = onDev (frameArrival (2 * (link % 4) + 1) fr ok) s := rfl
  rw [Nat.mod_eq_of_lt hlink] at hplain hsealed
  split
  case isTrue hside => rw [hplain, onDev_eq, show 2 * link = k by omega]
  case isFalse hside => rw [hsealed, onDev_eq, show 2 * link + 1 = k by omega]

theorem exec_uncontrolledTx {s : State} {link : Nat} (hlink : link < 4) (v : Word) :
    exec (.uncontrolledTx link v) s = onDev (uqTxTail link v) s := by
  conv_rhs => rw [← Nat.mod_eq_of_lt hlink]
  rfl

theorem exec_uqRxHeadWrite {s : State} {link : Nat} (hlink : link < 4) (v : Word) :
    exec (.uqRxHeadWrite link v) s = onDev (uqRxHead link v) s := by
  conv_rhs => rw [← Nat.mod_eq_of_lt hlink]
  rfl

/-- Settles O36: each command of the pipeline does what the branch of its rule says. -/
theorem inlinePipeline : Obligations.InlinePipeline := by
  intro s link k fr hlink
  refine ⟨?arrival, ?lane, ?integrity, ?egress, ?wire, ?uqTx, ?uqRx, ?ports, ?sas⟩
  case arrival =>
    intro hside hopen hpart
    subst hside
    have hk : k < 8 := by omega
    have harrive := fun ok e => @exec_arrival s (k / 2) k fr ok e hlink rfl
    refine ⟨?_, fun hlen => ?_, fun hlen => ?_, fun hmin hmax => ⟨fun htype => ?_, fun htype hroom => ?_, fun htype hempty hroom => ⟨?_, ?_, ?_⟩⟩⟩
    · exact harrive false _ (frameArrival_badFcs hk hopen hpart)
    · exact harrive true _ (frameArrival_oversize hk hopen hpart hlen)
    · exact harrive true _ (frameArrival_undersize hk hopen hpart hlen)
    · exact harrive true _ (frameArrival_flowControl hk hopen hpart hmin hmax htype)
    · exact harrive true _ (frameArrival_overflow hk hopen hpart hmin hmax htype hroom)
    · intro hplain hnamed hvalid htx hown
      obtain ⟨e, he, harrived⟩ := frameArrival_classified hk hopen hpart hmin hmax htype hempty hroom (by omega)
      rw [if_pos hplain] at harrived
      have hready : TxNamed s.dev (k / 2) := ⟨hnamed, hvalid, htx, hown⟩
      refine ⟨fun hactive hthr hreached hnew hpn => ?_, fun hactive hquiet hpn => ?_, fun hfrozen => ?_⟩
      · obtain ⟨hstream, hsa, hevent⟩ := classified_plain_warned he fr hready hactive hpn hthr hreached hnew
        exact ⟨_, harrive true _ harrived, hstream, hsa, hevent hlink⟩
      · exact ⟨_, harrive true _ harrived, classified_plain_quiet he fr hready hactive hpn hquiet⟩
      · exact ⟨_, harrive true _ (harrived.trans (classified_plain_frozen he fr hready hfrozen)), he.counted _⟩
    · intro hplain hno
      obtain ⟨e, he, harrived⟩ := frameArrival_classified hk hopen hpart hmin hmax htype hempty hroom (by omega)
      rw [if_pos hplain, classified_plain_noSa he fr hno] at harrived
      exact ⟨_, harrive true _ harrived, he.counted _⟩
    · intro hsealed hmacsec
      obtain ⟨e, he, harrived⟩ := frameArrival_classified hk hopen hpart hmin hmax htype hempty hroom fun _ => hmacsec
      rw [if_neg (by omega)] at harrived
      refine ⟨fun htag => ?_, fun htag hfind => ?_, fun a htag hfind => ?_⟩
      · rw [classifySealed_badTag htag, classified_none] at harrived
        exact ⟨_, harrive true _ harrived, he.counted _⟩
      · rw [classifySealed_noSa he _ htag hfind, classified_none] at harrived
        exact ⟨_, harrive true _ harrived, he.counted _⟩
      · rw [classifySealed_found he _ htag hfind] at harrived
        refine ⟨fun hfrozen => ?_, fun hlive hlate => ?_, fun hlive hpn => ?_⟩
        · rw [if_pos hfrozen, classified_none] at harrived
          exact ⟨_, harrive true _ harrived, he.counted _⟩
        · rw [if_neg hlive, if_pos hlate, classified_none] at harrived
          exact ⟨_, harrive true _ harrived, he.counted _⟩
        · rw [if_neg hlive, if_neg (Nat.not_lt.2 hpn), classified_some he.here] at harrived
          exact ⟨_, harrive true _ harrived, (stream_setStream ..).trans (if_pos rfl), he.sas_eq⟩
  case lane =>
    intro hside hopen f rest hq hserv hroom hslots
    subst hside
    refine ⟨_, exec_eq_next rfl (stageAdvance_toCipher (by omega) hopen hq hserv hroom hslots), (stream_setStream ..).trans (if_pos rfl), ?_⟩
    exact congrArg LaneUse.now ((tabGet_tabSet ..).trans (if_pos rfl))
  case integrity =>
    intro hside hopen
    subst hside
    exact ⟨fun n y hn hy => exec_eq_next rfl (stageAdvance_integrity (by omega) hopen hn hy),
      fun y hy => exec_eq_next rfl (frameTransmit_integrity (by omega) hopen hy)⟩
  case egress =>
    intro hside hopen f rest sa hq hsa
    subst hside
    have hk : k < 8 := by omega
    refine ⟨fun hwiped => ?_, fun hkey hsealed hfrozen => ?_, fun hkey hplain hroom => ?_, fun hkey hsealed hlive hbad => ?_,
      fun hkey hsealed hlive p hgood hroom hlast => ?_⟩
    · exact exec_eq_next rfl (stageAdvance_wiped hk hopen hq hsa hwiped)
    · exact exec_eq_next rfl (stageAdvance_frozen hk hopen hq hsa hkey hsealed hfrozen)
    · exact ⟨_, exec_eq_next rfl rfl, stageAdvance_sealed hk hopen hq hsa hkey hplain hroom⟩
    · obtain ⟨hstream, hcnt, hsas⟩ := (streamed_setStream s.dev k { stream s.dev k with cipher := rest }).counted (2 ^ 16 + sa * 32 + 2)
      exact ⟨_, exec_eq_next rfl (stageAdvance_notValid hk hopen hq hsa hkey hsealed hlive hbad), hstream, hsas, hcnt⟩
    · have hopened := (stageAdvance_opened hk hopen hq hsa hkey hsealed hlive hgood hroom).trans (acceptPn_not_last hlast ..)
      exact ⟨_, exec_eq_next rfl hopened, (stream_setStream ..).trans (if_pos rfl), (saGet_saSet ..).trans (if_pos rfl)⟩
  case wire =>
    intro hside hopen hsealed f rest hq
    subst hside
    exact ⟨_, exec_eq_next rfl (frameTransmit_plain (by omega) hopen hsealed hq), (stream_setStream ..).trans (if_pos rfl), rfl, rfl, rfl⟩
  case uqTx =>
    intro v _ _ _ _ _ _ _ hopen hlog2 hlog6 hquiet hidx hone hmin hmax hread hroom
    obtain ⟨hsent, hhead⟩ := uqTxTail_one hlink hopen hlog2 hlog6 hquiet hidx hone hmin hmax hread hroom
    rw [uqHead, uqSize_uqSent, uqSize_uqRung] at hhead
    have htail : rg (uqSent (uqRung s.dev link v) link) (Reg.ILS_UQ_TX_TAIL + linkOff link) = wd (v.toNat % 2 ^ 17) := by
      rw [rg_uqSent (by decide), uqRung, rg_rgSet, if_pos rfl]
    refine ⟨_, exec_eq_next (exec_uncontrolledTx hlink v) hsent, htail, hhead, ?_⟩
    exact (stream_uqSent (uqRung s.dev link v) link).trans (by rw [uqAt_uqRung, uqLen_uqRung]; rfl)
  case uqRx =>
    intro v a n h hidx hmoves hwritten
    exact exec_eq_next (exec_uqRxHeadWrite hlink v) (uqRxHead_within hlink hidx hmoves hwritten)
  case ports =>
    intro b up hb hup
    exact ⟨_, exec_eq_next rfl (linkChange_moves hlink hb hup), (tabGet_tabSet ..).trans (if_pos rfl), by
      rw [rg_rgOr, if_pos rfl]
      exact bit_or_wd_two_pow _ (by omega), rfl⟩
  case sas =>
    intro sa hown
    refine ⟨fun htx hactive hthr hreached hnew => ?_, fun h => exec_eq_next rfl (pnWarn_not_due hown h), fun hactive hpast => ?_,
      fun h => exec_eq_next rfl (saFreeze_not_past h), fun hretiring hdone => exec_eq_next rfl (saRetire_finished hretiring hdone),
      fun h => exec_eq_next rfl (saRetire_waits h)⟩
    · exact ⟨_, exec_eq_next rfl (pnWarn_due hown htx hactive hthr hreached hnew), saEvent_noted _ sa (by omega), rfl⟩
    · exact ⟨_, exec_eq_next rfl (saFreeze_past hown hactive hpast), saEvent_noted _ sa (by omega), (saGet_saSet ..).trans (if_pos rfl)⟩

end Sys2Proof.Machine

/-! The jobs of a Grinder unit (O37): the draws a job makes, its end, the self-check, pre-emption and resumption (R157 to R160, R165 to R171). -/

namespace Sys2Proof.Machine

/-! ### A job draws (R169, R171, R184) -/

/-- Two changes of the Hopper alone, one after the other, change nothing else. -/
theorem hopOnly_trans {d e t : Dev} (h : e = { d with hop := e.hop }) (k : t = { e with hop := t.hop }) : t = { d with hop := t.hop } := by
  rw [k, h]

/-- However many blocks a job draws, nothing but the Hopper changes. -/
theorem drawUntil_frame (ok : Octets → Bool) (f : Nat) (p : Octets) (d : Dev) :
    (drawUntil ok f p d).2 = { d with hop := (drawUntil ok f p d).2.hop } := by
  induction f generalizing p d with
  | zero => rfl
  | succ f ih =>
    rw [drawUntil]
    split
    · rfl
    · exact hopOnly_trans (hwDraw_frame d 1) (ih ..)

/-- What a job that needs more draws than it holds has drawn when it ends, and the device it drew them from (R171; log entry 81). -/
def jobDraws (d : Dev) (rec : Recipe) (o : Op) : Octets × Dev := drawUntil (fun p => (jobRnd rec o p).isSome) jobBlocks o.rnd d

theorem jobDraws_frame (d : Dev) (rec : Recipe) (o : Op) : (jobDraws d rec o).2 = { d with hop := (jobDraws d rec o).2.hop } := drawUntil_frame ..

theorem unitGet_jobDraws (d : Dev) (rec : Recipe) (o : Op) (v : Nat) : unitGet (jobDraws d rec o).2 v = unitGet d v := by
  rw [jobDraws_frame]; rfl

/-- R183: the masters from 0x90 on are the units, which draw for the jobs they run. -/
theorem hardwareDraw_unit {u : Nat} (hu : u < 16) (d : Dev) : hardwareDraw (0x90 + u) d = jobDraw u d := by
  have hunit : hopConsumer (0x90 + u) = true := by simp [hopConsumer]; omega
  rw [hardwareDraw, if_neg (by simp [hunit]), if_pos (Nat.le_add_right ..), Nat.add_sub_cancel_left]

/-! ### The end of the job a unit runs, case by case (R157, R160, R166, R171) -/

/-- The job of an outcome: its status, its results, and the key it generated under the header of its slot (R157, R158). -/
def endedJob (rec : Recipe) (o : Op) (out : JobOut) : Op :=
  { o with rnd := [], status := out.st, sub := out.sub, outs := if out.st = St.done then jobOuts o out.res else [],
           resLen := if out.st = St.done then (out.res.map (·.length)).foldl (· + ·) 0 else 0,
           key := match out.key with
             | some k => if rec.keygen then some (madeKey (keygenHdr o) 3 k) else none
             | none => o.key }

theorem endedJob_key {rec : Recipe} (o : Op) {out : JobOut} {k : Octets} (hkey : out.key = some k) (hgen : rec.keygen = true) :
    (endedJob rec o out).key = some (madeKey (keygenHdr o) 3 k) := by
  simp only [endedJob, hkey, hgen, if_true]

/-- The job of a refused draw: it has no result and generates no key (R171). -/
def refusedJob (o : Op) (sub : Nat) : Op := { o with status := St.entropy, sub := sub, slot := none, key := none, ext := false, rnd := [] }

theorem resultOf_endedJob (rec : Recipe) (o : Op) (out : JobOut) : ResultOf o (endedJob rec o out) := ⟨rfl, rfl, rfl, rfl⟩

theorem resultOf_refusedJob (o : Op) (sub : Nat) : ResultOf o (refusedJob o sub) := ⟨rfl, rfl, rfl, rfl⟩

/-- Neither its phase nor a self-check keeps the job from its end. -/
theorem not_halted {d : Dev} {u : Nat} {o : Op} (hphase : o.phase = .admitted) (hself : (unitGet d u).selfFail = false) :
    ¬ (o.phase ≠ .admitted ∨ (unitGet d u).selfFail = true) := by simp [hphase, hself]

theorem gqSources_ring {o : Op} {r pos : Nat} (hsrc : o.src = .ring r pos) (d : Dev) : gqSources d o = (true, d) := by simp only [gqSources, hsrc]

theorem selfCheckFails_unmarked {d : Dev} {u : Nat} (hself : (unitGet d u).selfFail = false) :
    selfCheckFails d u = tmpEvent 36 (unitSet d u { unitGet d u with selfFail := true }) := by
  simp only [selfCheckFails, hself, Bool.false_eq_true, if_false]

section Running
variable {d : Dev} {u id : Nat} {o : Op} {rec : Recipe} (hjob : (unitGet d u).job = some id) (hfind : findOp d id = some o)
  (hrec : recipeOf o.recipe = some rec)
include hjob hfind

theorem running_op : (unitGet d u).job.bind (findOp d) = some o := by rw [hjob, Option.bind_some, hfind]

include hrec

/-- R160: an RSA_PRIV job found wrong waits, marked, and the source is raised. -/
theorem rsaFail_rsaPriv {b : Nat} (hpriv : rec = .rsaPriv b) (hself : (unitGet d u).selfFail = false) :
    rsaFail u d = tmpEvent 36 (unitSet d u { unitGet d u with selfFail := true }) := by
  simp only [rsaFail, running_op hjob hfind, hrec, hpriv, selfCheckFails_unmarked hself]

variable (hphase : o.phase = .admitted)
include hphase

theorem jobDraw_served (hneeds : jobRnd rec o o.rnd = none) (hserves : hopServes d = true) :
    jobDraw u d = setOp (hwDraw d 1).2 { o with rnd := o.rnd ++ d.hop.fifo.headD [] } := by
  simp [jobDraw, running_op hjob hfind, hrec, hphase, hneeds, hserves, hwDraw_one_octets hserves]

variable (hself : (unitGet d u).selfFail = false)
include hself

theorem jobEnd_delayed (hneeds : jobRnd rec o (jobDraws d rec o).1 = none) (hwaits : hopRefusal (jobDraws d rec o).2 = none) :
    jobEnd u d = setOp (jobDraws d rec o).2 { o with rnd := (jobDraws d rec o).1 } := by
  rw [jobDraws] at *
  simp only [jobEnd, running_op hjob hfind, hrec, if_neg (not_halted hphase hself), hneeds, hwaits, Option.isSome_none, Bool.false_eq_true, if_false]

theorem jobEnd_refused {c : Nat} (hneeds : jobRnd rec o (jobDraws d rec o).1 = none) (hrefuses : hopRefusal (jobDraws d rec o).2 = some c) :
    jobEnd u d = finish (unreserve (dropCurve (leaveUnit (jobDraws d rec o).2 u true) o) o.id) (refusedJob o c) := by
  rw [jobDraws] at *
  simp only [jobEnd, running_op hjob hfind, hrec, if_neg (not_halted hphase hself), hneeds, hrefuses, Option.isSome_some, if_true, entropyEnd, hopSub,
    Option.getD_some, refusedJob]

variable {rnd : JobRnd} (hdrawn : jobRnd rec o (jobDraws d rec o).1 = some rnd)
include hdrawn

theorem jobEnd_selfCheckFails (hwrong : rsaSelfCheck rec o (runRecipe rec o rnd) = false) :
    jobEnd u d = tmpEvent 36 (unitSet (jobDraws d rec o).2 u { unitGet d u with selfFail := true }) := by
  have hunit := unitGet_jobDraws d rec o u
  rw [← hunit, ← selfCheckFails_unmarked (hunit ▸ hself)]
  rw [jobDraws] at *
  simp only [jobEnd, running_op hjob hfind, hrec, if_neg (not_halted hphase hself), hdrawn, hwrong, Bool.false_eq_true, not_false_eq_true, if_true]

theorem jobEnd_ended {r pos : Nat} (hsrc : o.src = .ring r pos) (hright : rsaSelfCheck rec o (runRecipe rec o rnd) = true) :
    jobEnd u d = finish (rgAdd (leaveUnit (jobDraws d rec o).2 u (wipesAfter o)) (Reg.GRD_UNIT_JOBS + 8 * u) 1)
      (endedJob rec o (runRecipe rec o rnd)) := by
  rw [jobDraws] at *
  simp only [jobEnd, running_op hjob hfind, hrec, if_neg (not_halted hphase hself), hdrawn, hright, not_true_eq_false, if_false,
    gqSources_ring (o := { o with rnd := [] }) hsrc, if_true]
  rfl

end Running

/-! ### The unit that a job leaves (R166) -/

/-- Of d, e differs in the Hopper, the Grinder and the key slots; among the units only u, which its job has left, its working bank wiped or not. -/
structure UnitLeft (u : Nat) (wipe : Bool) (d e : Dev) : Prop where
  frame : e = { d with hop := e.hop, grd := e.grd, slots := e.slots }
  unit : unitGet e u = ({ unitGet d u with job := none, selfFail := false } : GrdUnit).wiped wipe false false
  others : ∀ v, v ≠ u → unitGet e v = unitGet d v

theorem unitLeft_leaveUnit (d : Dev) (rec : Recipe) (o : Op) (u : Nat) (wipe : Bool) : UnitLeft u wipe d (leaveUnit (jobDraws d rec o).2 u wipe) where
  frame := by rw [leaveUnit, unitSet, jobDraws_frame]
  unit := by rw [leaveUnit, unitGet_unitSet, if_pos rfl, unitGet_jobDraws]
  others v hv := by rw [leaveUnit, unitGet_unitSet, if_neg hv, unitGet_jobDraws]

theorem unitGet_dropCurve (d : Dev) (o : Op) (v : Nat) : unitGet (dropCurve d o) v = unitGet d v := by
  unfold dropCurve; split <;> rfl

theorem dropCurve_frame (d : Dev) (o : Op) : dropCurve d o = { d with grd := (dropCurve d o).grd } := by
  unfold dropCurve; split <;> rfl

/-- A job that ends without its result gives up its curve slot and its reservation; the units are as it left them. -/
theorem UnitLeft.givenUp {u : Nat} {wipe : Bool} {d e : Dev} (h : UnitLeft u wipe d e) (o : Op) : UnitLeft u wipe d (unreserve (dropCurve e o) o.id) where
  frame := by rw [unreserve, dropCurve_frame, h.frame]
  unit := (unitGet_dropCurve ..).trans h.unit
  others v hv := (unitGet_dropCurve ..).trans (h.others v hv)

theorem counted_unitJobs (d : Dev) (u : Nat) : Counted d (rgAdd d (Reg.GRD_UNIT_JOBS + 8 * u) 1) := by
  have hmod : Reg.GRD_UNIT_JOBS % 8 = 3 := by decide
  exact counted_rgAdd d _ (Nat.lt_add_right _ (by decide)) (by omega)

/-- A job that finishes with a quantised result holds it to its release edge; no host memory changes, and the units are as it left them (R40). -/
theorem exec_grinderJobEnd_held {s : State} {u id : Nat} {o o' : Op} {wipe : Bool} {e t : Dev} (hfind : findOp s.dev id = some o)
    (hdead : o.dead = false) (hquant : o.quant = true) (hleft : UnitLeft u wipe s.dev e) (hcount : Counted e t) (hres : ResultOf o o')
    (hrun : jobEnd u s.dev = finish t o') :
    ∃ t, (exec (.grinderJobEnd u none) s = .next t ∧ findOp t.dev id = some (heldOp s.dev o') ∧ (heldOp s.dev o').phase = .held ∧
        (heldOp s.dev o').dueAt = releaseEdge s.dev o ∧ (∀ v, v ≠ u → unitGet t.dev v = unitGet s.dev v) ∧ t.dev.host = s.dev.host) ∧
      unitGet t.dev u = ({ unitGet s.dev u with job := none, selfFail := false } : GrdUnit).wiped wipe false false := by
  have hops : findOp e id = some o := by rw [hleft.frame]; exact hfind
  have hheld : heldOp e o' = heldOp s.dev o' := by rw [hleft.frame]; rfl
  obtain ⟨hfound, hdue, hhost, -⟩ := finish_held hops hcount hres hdead hquant
  have hunits (v : Nat) : unitGet (finish t o') v = unitGet e v := by
    rw [finish_quant (hres.quant.trans hquant) (hres.dead.trans hdead), hcount.1]; rfl
  rw [hheld] at hfound
  refine ⟨_, ⟨exec_eq_next rfl hrun, hfound, rfl, ?_, fun v hv => (hunits v).trans (hleft.others v hv), ?_⟩, (hunits u).trans hleft.unit⟩
  · rw [← hheld, hdue, hleft.frame]; rfl
  · rw [hhost, hleft.frame]

/-! ### Pre-emption and resumption (R168) -/

/-- The express job's words come over those of the job it suspends, which the save bank holds (log entry 50). -/
theorem yieldSave_preempts {d : Dev} {u e j : Nat} {o : Op} (hnext : (unitGet d u).next = some e) (hjob : (unitGet d u).job = some j)
    (hfind : findOp d e = some o) : yieldSave u d = unitSet d u { unitGet d u with
      job := some e, next := none, susp := some j, save := (unitGet d u).bank, bank := bankLoad (unitGet d u).bank (jobBank d o) } := by
  simp only [yieldSave, yieldSave.express, hnext, hjob, hfind]

theorem yieldSave_idle {d : Dev} {u : Nat} (hnext : (unitGet d u).next = none) : yieldSave u d = d := by
  simp only [yieldSave, hnext]

theorem suspResume_resumes {d : Dev} {u j : Nat} (hjob : (unitGet d u).job = none) (hsusp : (unitGet d u).susp = some j) :
    suspResume u d = unitSet d u { unitGet d u with job := some j, susp := none, bank := (unitGet d u).save, save := [], wipe := .idle } := by
  simp only [suspResume, hjob, hsusp]

theorem suspResume_idle {d : Dev} {u : Nat} (h : (unitGet d u).job ≠ none ∨ (unitGet d u).susp = none) : suspResume u d = d := by
  simp only [suspResume]
  split
  case h_1 hjob hsusp => simp [hjob, hsusp] at h
  case h_2 => rfl

/-! ### An idle unit -/

theorem jobEnd_idle {d : Dev} {u : Nat} (hjob : (unitGet d u).job = none) : jobEnd u d = d := by simp only [jobEnd, hjob, Option.bind_none]

theorem rsaFail_idle {d : Dev} {u : Nat} (hjob : (unitGet d u).job = none) : rsaFail u d = d := by simp only [rsaFail, hjob, Option.bind_none]

end Sys2Proof.Machine

/-! The end of an image load (O37): R146, R147. -/

namespace Sys2Proof.Machine

/-! ### A command's result (R108) -/

@[simp] theorem cmdGet_noteMem (d : Dev) (mems : List (Nat × Nat)) (op : Option Nat) (b m : Nat) : cmdGet (noteMem d mems op) b m = cmdGet d b m := rfl

@[simp] theorem cmdGet_cmdDone (d : Dev) (b m st sub extra pass : Nat) :
    cmdGet (cmdDone d b m st sub extra pass) b m = ⟨false, true, st + sub * 256 + extra⟩ :=
  (cmdGet_cmdSet d b m b m ⟨false, true, st + sub * 256 + extra⟩).trans (if_pos rfl)

/-- A command that ends without an output gives its result at once; no register word and no unit changes. -/
theorem deliver_cmd {o : Op} {blk m : Nat} (hsrc : o.src = .cmd blk m) (houts : o.outs = []) (d : Dev) (pass : Nat) :
    cmdGet (deliver d o d.pas.count pass) blk m = ⟨false, true, o.status + o.sub * 256 + o.result⟩ ∧
      (deliver d o d.pas.count pass).grd = d.grd ∧ (deliver d o d.pas.count pass).regs = d.regs := by
  simp only [deliver, written, writeOuts, hsrc, houts, List.foldl_nil, if_true, wipeReport, wipeOuts, report, Nat.lt_irrefl, if_false]
  exact ⟨by rw [cmdGet_noteMem, cmdGet_cmdDone], rfl, rfl⟩

/-! ### The verdicts of a load's units (R147) -/

/-- The failures, in the order of the units, that the units of a load have noted behind its four arguments: unit, status, sub-code. -/
def loadFails (aux : List Nat) : List (Nat × Nat × Nat) :=
  (List.range 16).filterMap (fun v => ((List.range ((aux.length - 4) / 3)).find? (fun i => decide (aux.getD (4 + 3 * i) 16 = v))).map
    (fun i => (v, aux.getD (5 + 3 * i) 0, aux.getD (6 + 3 * i) 0)))

theorem loadFails_none {aux : List Nat} (h : aux.length = 4) : loadFails aux = [] := by simp [loadFails, h]

theorem loadFails_one {aux : List Nat} (h : aux.length = 4) {u : Nat} (hu : u < 16) (st sub : Nat) :
    loadFails (aux ++ [u, st, sub]) = [(u, st, sub)] := by
  obtain ⟨a, b, c, e, rfl⟩ := List.length_eq_four.1 h
  have hone : loadFails ([a, b, c, e] ++ [u, st, sub]) = (List.range 16).filterMap (fun v => if u = v then some (v, st, sub) else none) := by
    simp [loadFails]
  rw [hone]
  interval_cases u <;> rfl

/-- The end of a load in the device its last unit leaves: the first failure is the command's, and DONE where there is none. -/
def loadReport (d : Dev) (o : Op) : Dev :=
  if (List.range 16).any (fun v => decide ((unitGet d v).loading = some o.id)) then d
  else
    match loadFails o.aux with
    | [] => deliver d { o with status := St.done, sub := 0, result := 0 } d.pas.count d.pas.count
    | (v, st, sub) :: _ => deliver d { o with status := st, sub := sub, result := v * 2 ^ 16 } d.pas.count d.pas.count

/-- With no unit loading any more, the load's result stands in its register. -/
theorem loadReport_last {d : Dev} {o : Op} {blk m v st sub : Nat} (hsrc : o.src = .cmd blk m) (houts : o.outs = [])
    (hlast : ∀ v, (unitGet d v).loading ≠ some o.id) (hfirst : (loadFails o.aux).headD (0, St.done, 0) = (v, st, sub)) :
    cmdGet (loadReport d o) blk m = ⟨false, true, st + sub * 256 + v * 2 ^ 16⟩ ∧ (loadReport d o).grd = d.grd ∧ (loadReport d o).regs = d.regs := by
  have hnone : ¬ (List.range 16).any (fun v => decide ((unitGet d v).loading = some o.id)) = true := by simp [hlast]
  rw [loadReport, if_neg hnone]
  cases hfails : loadFails o.aux with
  | nil =>
    obtain ⟨rfl, rfl, rfl⟩ : 0 = v ∧ St.done = st ∧ 0 = sub := by simpa [hfails] using hfirst
    exact deliver_cmd (o := { o with status := St.done, sub := 0, result := 0 }) hsrc houts d _
  | cons f fs =>
    obtain rfl : f = (v, st, sub) := by simpa [hfails] using hfirst
    exact deliver_cmd (o := { o with status := st, sub := sub, result := v * 2 ^ 16 }) hsrc houts d _

/-- The load's operation with what a unit found noted. -/
def notedLoad (o : Op) (ws : List Nat) : Op := { o with aux := o.aux ++ ws }

section Load
variable {d : Dev} {u id : Nat} {o : Op} (hload : (unitGet d u).loading = some id) (hfind : findOp d id = some o)
include hload hfind

/-- The unit takes the image it has read and verified. -/
theorem imageDone_accepted (hread : (unitGet d u).loadOk = true) (hgood : imageFail d o.input = none) :
    imageDone u none d = loadReport
      (setOp (unitSet d u { unitGet d u with loading := none, image := some (imageOf o.input) }) (notedLoad o [])) (notedLoad o []) := by
  simp only [imageDone, hload, Option.bind_some, hfind, opWcc, Option.getD_none, hread, not_true_eq_false, if_false, Option.isSome_none,
    Bool.false_eq_true, hgood]
  rfl

/-- The unit refuses the image, keeps the one it had, and both its banks are wiped. -/
theorem imageDone_refused {f : Fail} (hbad : (if (unitGet d u).loadOk = true then imageFail d o.input else some (St.denied, 0)) = some f) :
    imageDone u none d = loadReport
      (setOp (rgAdd (unitSet d u ({ unitGet d u with loading := none }.wiped true true false)) (Reg.GRD_UNIT_REFUSED + 8 * u) 1)
        (notedLoad o [u, f.1, f.2])) (notedLoad o [u, f.1, f.2]) := by
  simp only [imageDone, hload, Option.bind_some, hfind, opWcc, Option.getD_none, ite_not, Option.isSome_none,
    Bool.false_eq_true, if_false, hbad]
  rfl

end Load

/-- The last unit of a load ends it, and the load's result stands in its register. -/
theorem exec_imageLoadComplete_last {s : State} {u id m v st sub : Nat} {e : Dev} {o : Op} {ws : List Nat} (hfind : findOp s.dev id = some o)
    (hsrc : o.src = .cmd 0x0E m) (houts : o.outs = []) (hrun : imageDone u none s.dev = loadReport (setOp e (notedLoad o ws)) (notedLoad o ws))
    (hlast : ∀ v, (unitGet e v).loading ≠ some id) (hfirst : (loadFails (o.aux ++ ws)).headD (0, St.done, 0) = (v, st, sub)) :
    ∃ t, exec (.imageLoadComplete u none) s = .next t ∧ cmdGet t.dev 0x0E m = ⟨false, true, st + sub * 256 + v * 2 ^ 16⟩ ∧
      (∀ i, unitGet t.dev i = unitGet e i) ∧ ∀ a, rg t.dev a = rg e a := by
  have hid : (notedLoad o ws).id = id := findOp_id (o := o) hfind
  obtain ⟨hcmd, hgrd, hregs⟩ := loadReport_last (d := setOp e (notedLoad o ws)) (o := notedLoad o ws) hsrc houts (fun i => hid ▸ hlast i) hfirst
  refine ⟨_, exec_eq_next rfl hrun, hcmd, fun i => ?_, fun a => ?_⟩
  · rw [unitGet, hgrd]; rfl
  · rw [rg, hregs]; rfl

end Sys2Proof.Machine

/-! The proof of O37: a Grinder unit (R146, R147, R153, R156 to R160, R165 to R171). -/

namespace Sys2Proof.Machine

theorem grdCancel_of_lt {q : Nat} (hq : q < 9) (v : Word) (d : Dev) :
    grdCancel (q % 9) v d = if bit v 0 = true then rgSet d (Reg.GRD_FWQ_CANCEL + 4 * q) 1 else d := by
  rw [Nat.mod_eq_of_lt hq, grdCancel]
  cases hv : bit v 0
  · simp
  · simp [Nat.not_le.2 hq]

/-- Settles O37: each command of a unit does what the branch of its rule says. -/
theorem grinderUnits : Obligations.GrinderUnits := by
  intro s u d x
  refine ⟨?running, ?idle, ?preempt, ?noExpress, ?resume, ?noSuspended, ?load, ?cancel, ?noCancel⟩
  case running =>
    intro id r pos o rec hjob hself hfind hphase hdead hquant hsrc hrec due dr got
    refine ⟨fun rnd hdrawn => ⟨fun hright => ?_, fun hwrong => ?_⟩, fun hneeds => ⟨fun c hrefuses => ?_, fun hwaits => ?_⟩,
      fun hu hneeds hserves => ?_, fun b hpriv => exec_eq_next rfl (rsaFail_rsaPriv hjob hfind hrec hpriv hself)⟩
    · obtain ⟨t, hgot, hunit⟩ := exec_grinderJobEnd_held hfind hdead hquant (unitLeft_leaveUnit ..) (counted_unitJobs ..)
        (resultOf_endedJob ..) (jobEnd_ended hjob hfind hrec hphase hself hdrawn hsrc hright)
      exact ⟨t, _, hgot, hunit, rfl, rfl, rfl, fun k hkey hgen => endedJob_key o hkey hgen⟩
    · exact exec_eq_next rfl (jobEnd_selfCheckFails hjob hfind hrec hphase hself hdrawn hwrong)
    · obtain ⟨t, hgot, hunit⟩ := exec_grinderJobEnd_held hfind hdead hquant ((unitLeft_leaveUnit ..).givenUp o) ⟨rfl, rfl, fun _ => rfl⟩
        (resultOf_refusedJob ..) (jobEnd_refused hjob hfind hrec hphase hself hneeds hrefuses)
      exact ⟨t, _, hgot, hunit, rfl, rfl, rfl, rfl⟩
    · exact exec_eq_next rfl (jobEnd_delayed hjob hfind hrec hphase hself hneeds hwaits)
    · have hdraw := (hardwareDraw_unit hu d).trans (jobDraw_served hjob hfind hrec hphase hneeds hserves)
      refine ⟨_, exec_eq_next rfl hdraw, ?_, ?_, ?_, ?_⟩
      · obtain rfl := findOp_id hfind
        rw [hwDraw_frame]
        exact findOp_setOp (o := { o with rnd := o.rnd ++ d.hop.fifo.headD [] }) hfind
      all_goals rw [hwDraw_frame]; rfl
  case idle => exact fun hjob => ⟨exec_eq_next rfl (jobEnd_idle hjob), exec_eq_next rfl (rsaFail_idle hjob)⟩
  case preempt => exact fun e j o hnext hjob hfind => exec_eq_next rfl (yieldSave_preempts hnext hjob hfind)
  case noExpress => exact fun hnext => exec_eq_next rfl (yieldSave_idle hnext)
  case resume => exact fun j hjob hsusp => exec_eq_next rfl (suspResume_resumes hjob hsusp)
  case noSuspended => exact fun h => exec_eq_next rfl (suspResume_idle h)
  case load =>
    intro id o m hu hload hfind hsrc houts haux hothers
    have hlast (y : GrdUnit) (hy : y.loading = none) (v : Nat) : (unitGet (unitSet d u y) v).loading ≠ some id := by
      rw [unitGet_unitSet]
      split
      · simp [hy]
      case isFalse hv => exact hothers v hv
    refine ⟨fun hread hgood => ?_, fun f hbad => ?_⟩
    · have hfirst : (loadFails (o.aux ++ [])).headD (0, St.done, 0) = (0, St.done, 0) := by rw [List.append_nil, loadFails_none haux]; rfl
      obtain ⟨t, hexec, hcmd, hunits, -⟩ := exec_imageLoadComplete_last hfind hsrc houts
        (imageDone_accepted hload hfind hread hgood) (hlast _ rfl) hfirst
      exact ⟨t, hexec, (hunits u).trans ((unitGet_unitSet ..).trans (if_pos rfl)), hcmd⟩
    · have hfirst : (loadFails (o.aux ++ [u, f.1, f.2])).headD (0, St.done, 0) = (u, f.1, f.2) := by rw [loadFails_one haux hu]; rfl
      obtain ⟨t, hexec, hcmd, hunits, hregs⟩ := exec_imageLoadComplete_last hfind hsrc houts
        (imageDone_refused hload hfind hbad) (hlast _ rfl) hfirst
      exact ⟨t, hexec, (hunits u).trans ((unitGet_unitSet ..).trans (if_pos rfl)), hcmd, (hregs _).trans ((rg_rgSet ..).trans (if_pos rfl))⟩
  case cancel =>
    exact fun q v hq hv => exec_eq_next rfl ((grdCancel_of_lt hq v d).trans (if_pos hv))
  case noCancel =>
    exact fun q v hq hv => exec_eq_next rfl ((grdCancel_of_lt hq v d).trans (if_neg (by simp [hv])))

end Sys2Proof.Machine

/-! The noise sources of the Hopper (O38): their states, failover and faults, the ends of their tests (R176 to R180). -/

namespace Sys2Proof.Machine

/-! ### The sources' states -/

@[simp] theorem srcState_srcSet (d : Dev) (s st why j : Nat) : srcState (srcSet d s st why) j = if j = s then st else srcState d j := tabGet_tabSet ..

@[simp] theorem srcState_rgAdd (d : Dev) (a k j : Nat) : srcState (rgAdd d a k) j = srcState d j := rfl

@[simp] theorem srcState_skip (d : Dev) (f : Hopper → Tab Bool) (j : Nat) : srcState (onHop d fun h => { h with skip := f h }) j = srcState d j := rfl

/-- A choice among the four sources that takes one of them takes a list of one. -/
theorem filter_sources_one {p : Nat → Bool} {i : Nat} (hi : i < 4) (h : ∀ j, j < 4 → (p j = true ↔ j = i)) : (List.range 4).filter p = [i] := by
  have hp : ∀ j ∈ List.range 4, p j = (j == i) := fun j hj => by rw [Bool.eq_iff_iff, h j (List.mem_range.1 hj), beq_iff_eq]
  rw [List.filter_congr hp, List.filter_beq, List.count_eq_one_of_mem List.nodup_range (List.mem_range.2 hi)]
  rfl

theorem maskSrcs_two_pow {i : Nat} (hi : i < 4) : maskSrcs (2 ^ i) = [i] :=
  filter_sources_one hi fun j _ => by rw [Nat.testBit_two_pow, decide_eq_true_iff, eq_comm]

/-- No other source than i is ACTIVE. -/
def OnlyActive (d : Dev) (i : Nat) : Prop := ∀ j, j < 4 → j ≠ i → srcState d j ≠ 1

theorem activeSrc_of_only {d : Dev} {i : Nat} (hi : i < 4) (hact : srcState d i = 1) (honly : OnlyActive d i) : activeSrc d = some i := by
  have hsome : (activeSrc d).isSome = true := List.find?_isSome.2 ⟨i, List.mem_range.2 hi, by simp [hact]⟩
  obtain ⟨k, hk⟩ := Option.isSome_iff_exists.1 hsome
  have hk1 : srcState d k = 1 := by simpa using List.find?_some hk
  have hk4 : k < 4 := List.mem_range.1 (List.mem_of_find?_eq_some hk)
  rw [hk, not_imp_not.1 (honly k hk4) hk1]

theorem activeSrc_of_none {d : Dev} (h : ∀ j, j < 4 → srcState d j ≠ 1) : activeSrc d = none :=
  List.find?_eq_none.2 fun j hj => by simp [h j (List.mem_range.1 hj)]

/-! ### Failover (R178) -/

theorem promote_of_active {d : Dev} (h : ∃ j, j < 4 ∧ srcState d j = 1) (after : Nat) : promote after d = d := by
  obtain ⟨j, hj, hact⟩ := h
  have hsome : (activeSrc d).isSome = true := List.find?_isSome.2 ⟨j, List.mem_range.2 hj, by simp [hact]⟩
  obtain ⟨k, hk⟩ := Option.isSome_iff_exists.1 hsome
  simp only [promote, hk]

/-- The source s is made ACTIVE: its output counts from its next window. -/
def promoted (d : Dev) (s : Nat) : Dev := onHop (srcSet d s 1 0) fun h => { h with skip := tabSet false h.skip s true }

theorem srcAfter_eq (i : Nat) : srcAfter i = [(i + 1) % 4, (i + 2) % 4, (i + 3) % 4, (i + 4) % 4] := rfl

/-- With no ACTIVE source, one in STANDBY that comes right after the one that failed is chosen. -/
theorem promote_next {d : Dev} {i : Nat} (hnone : ∀ j, j < 4 → srcState d j ≠ 1) (hnext : srcState d ((i + 1) % 4) = 2) :
    promote i d = promoted d ((i + 1) % 4) := by
  have hfirst : (srcAfter i).find? (fun s => decide (srcState d s = 2)) = some ((i + 1) % 4) := by
    rw [srcAfter_eq, List.find?_cons_of_pos (by simpa using hnext)]
  simp only [promote, activeSrc_of_none hnone, hfirst, promoted]

theorem promote_of_none_standby {d : Dev} (h : ∀ j, j < 4 → srcState d j = 3) (after : Nat) : promote after d = d := by
  have hnone : (srcAfter after).find? (fun s => decide (srcState d s = 2)) = none := by
    refine List.find?_eq_none.2 fun j hj => ?_
    obtain ⟨k, -, rfl⟩ := List.mem_map.1 hj
    simp [h _ (Nat.mod_lt _ (by decide))]
  simp only [promote, activeSrc_of_none (d := d) fun j hj => by simp [h j hj], hnone]

/-! ### FAULT (R179) -/

theorem hop_tmpEvent (s : Nat) (d : Dev) : (tmpEvent s d).hop = d.hop := by
  simp only [tmpEvent, apply_ite Dev.hop, rgSet, ite_self]

/-- The Hopper in FAULT: its pool, generators, FIFO and buffers are wiped. -/
def Hopper.faulted (h : Hopper) (cause : Nat) : Hopper := { wipeGens h with state := 3, cause := cause, pool := [], buf := [], next := [] }

theorem hopFault_hop {d : Dev} (h : d.hop.state ≠ 3) (cause : Nat) : (hopFault cause d).hop = d.hop.faulted cause := by
  rw [hopFault, if_neg h, hop_tmpEvent]
  rfl

theorem hopCheck_of_healthy {d : Dev} (h : ∃ j, j < 4 ∧ srcState d j ≠ 3) : hopCheck d = d := by
  obtain ⟨j, hj, hne⟩ := h
  refine if_neg fun ⟨hall, _⟩ => hne ?_
  simpa using List.all_eq_true.1 hall j (List.mem_range.2 hj)

theorem hopCheck_of_failed {d : Dev} (h : ∀ j, j < 4 → srcState d j = 3) (hstate : d.hop.state ≠ 2) : hopCheck d = hopFault 1 d :=
  if_pos ⟨List.all_eq_true.2 fun j hj => by simp [h j (List.mem_range.1 hj)], hstate⟩

/-! ### The ACTIVE source fails a test (R176, R178) -/

/-- The source has failed a test: it is FAILED, with the test as the reason, and the failure is counted. -/
def failedSrc (d : Dev) (i why : Nat) : Dev := srcSet (rgAdd d (Reg.HOP_FAIL_COUNT + i) 1) i 3 why

theorem srcState_failedSrc (d : Dev) (i why j : Nat) : srcState (failedSrc d i why) j = if j = i then 3 else srcState d j := by
  rw [failedSrc, srcState_srcSet, srcState_rgAdd]

theorem why_failedSrc (d : Dev) (i why : Nat) : tabGet 0 (failedSrc d i why).hop.why i = why := (tabGet_tabSet ..).trans (if_pos rfl)

theorem rg_failedSrc (d : Dev) (i why : Nat) : rg (failedSrc d i why) (Reg.HOP_FAIL_COUNT + i) = satInc (rg d (Reg.HOP_FAIL_COUNT + i)) 1 :=
  (rg_rgSet ..).trans (if_pos rfl)

/-- What a failure of source i with failover leaves: i has failed and is counted, and the next source is ACTIVE from its next window on. -/
structure FailedOver (i why : Nat) (d t : Dev) : Prop where
  failed : srcState t i = 3
  reason : tabGet 0 t.hop.why i = why
  next : srcState t ((i + 1) % 4) = 1
  skips : tabGet false t.hop.skip ((i + 1) % 4) = true
  state : t.hop.state = d.hop.state
  pool : t.hop.pool = d.hop.pool
  count : rg t (Reg.HOP_FAIL_COUNT + i) = satInc (rg d (Reg.HOP_FAIL_COUNT + i)) 1

section ActiveFails
variable {d : Dev} {i : Nat} (hi : i < 4) (hact : srcState d i = 1)
include hi hact

theorem failSrcs_active (honly : OnlyActive d i) (why : Nat) : failSrcs [i] why d = hopCheck (promote i (failedSrc d i why)) := by
  have hcounted : srcState (rgAdd d (Reg.HOP_FAIL_COUNT + i) 1) i ≠ 3 := by rw [srcState_rgAdd, hact]; decide
  have hone : [i].filter (fun s => decide (srcState d s ≠ 0)) = [i] := by simp [hact]
  simp only [failSrcs, activeSrc_of_only hi hact honly, hone, List.foldl_cons, List.foldl_nil, if_neg hcounted, Option.getD_some, failedSrc]

theorem failSrcs_failover (honly : OnlyActive d i) (hnext : srcState d ((i + 1) % 4) = 2) (why : Nat) : FailedOver i why d (failSrcs [i] why d) := by
  have hne : i ≠ (i + 1) % 4 := by omega
  have hlt : (i + 1) % 4 < 4 := Nat.mod_lt _ (by decide)
  have hnone : ∀ j, j < 4 → srcState (failedSrc d i why) j ≠ 1 := fun j hj => by
    rw [srcState_failedSrc]
    split
    · decide
    case isFalse hji => exact honly j hj hji
  have hstandby : srcState (failedSrc d i why) ((i + 1) % 4) = 2 := by rw [srcState_failedSrc, if_neg hne.symm, hnext]
  have hserving : srcState (promoted (failedSrc d i why) ((i + 1) % 4)) ((i + 1) % 4) = 1 := by simp [promoted]
  rw [failSrcs_active hi hact honly, promote_next hnone hstandby, hopCheck_of_healthy ⟨_, hlt, by rw [hserving]; decide⟩]
  exact {
    failed := by simp [promoted, hne, srcState_failedSrc]
    reason := by simp [promoted, failedSrc, srcSet, hne]
    next := hserving
    skips := by simp [promoted]
    state := rfl
    pool := rfl
    count := rg_failedSrc d i why }

/-- The last source fails: FAULT (R179). -/
theorem failSrcs_last (hothers : ∀ j, j < 4 → j ≠ i → srcState d j = 3) (hstate : d.hop.state = 1) (why : Nat) :
    (failSrcs [i] why d).hop = (failedSrc d i why).hop.faulted 1 := by
  have hall : ∀ j, j < 4 → srcState (failedSrc d i why) j = 3 := fun j hj => by
    rw [srcState_failedSrc]
    split
    · rfl
    case isFalse hji => exact hothers j hj hji
  have hready : (failedSrc d i why).hop.state = 1 := hstate
  rw [failSrcs_active hi hact fun j hj hji => by simp [hothers j hj hji], promote_of_none_standby hall,
    hopCheck_of_failed hall (by rw [hready]; decide), hopFault_hop (by rw [hready]; decide)]

end ActiveFails

/-- R176: a run at or above the cutoff fails the one source it is of. -/
theorem rctFail_of_run {d : Dev} {i run : Nat} (hi : i < 4) (hup : d.hop.up = true) (hrun : rn d Reg.HOP_RCT_CUTOFF ≤ run) :
    rctFail (2 ^ i) run d = failSrcs [i] 1 d := by
  rw [rctFail, if_neg (by simp [hup, hrun]), maskSrcs_two_pow hi]

theorem rctFail_of_short {d : Dev} {run : Nat} (h : d.hop.up = false ∨ run < rn d Reg.HOP_RCT_CUTOFF) (mask : Nat) : rctFail mask run d = d :=
  if_pos (h.imp_left (by simp [·]))

/-! ### Windows (R176, R180) -/

section Window
variable {d : Dev} {i : Nat} {w : Octets} (hi : i < 4) (hup : d.hop.up = true) (htested : srcState d i ≠ 0)
include hi hup htested

theorem windowDone_fails (hcut : rn d Reg.HOP_APT_CUTOFF ≤ aptCount (fitTo 128 w)) :
    windowDone i w d = failSrcs [i] 2 (onHop d fun h => { h with skip := tabSet false h.skip i false }) := by
  rw [windowDone, if_neg (by simp [Nat.not_le.2 hi, hup, htested]), if_pos hcut]

/-- A passing window counts where its source is ACTIVE throughout it, and the Hopper is STARTING or READY. -/
theorem windowDone_passes (hcut : aptCount (fitTo 128 w) < rn d Reg.HOP_APT_CUTOFF) : windowDone i w d = onHop d fun h =>
    { h with skip := tabSet false h.skip i false,
             pool := if srcState d i = 1 ∧ tabGet false h.skip i = false ∧ h.state < 2 then (h.pool ++ [condition w]).take 16 else h.pool } := by
  have hstate : d.hop.state < 2 ↔ d.hop.state = 0 ∨ d.hop.state = 1 := by omega
  rw [windowDone, if_neg (by simp [Nat.not_le.2 hi, hup, htested]), if_neg (Nat.not_le.2 hcut)]
  simp only [onHop, Bool.and_eq_true, Bool.or_eq_true, decide_eq_true_eq, Bool.not_eq_true', hstate, and_assoc]

end Window

/-! ### Start-up tests and retests (R177, R178) -/

theorem startupPass_iff (d : Dev) (w : Octets) : startupPass d w = true ↔
    longestRun (sampleBits (fitTo 512 w)) false 0 0 < rn d Reg.HOP_RCT_CUTOFF ∧
      ∀ k, k < 4 → aptCount (slice (fitTo 512 w) (128 * k) 128) < rn d Reg.HOP_APT_CUTOFF := by
  simp only [startupPass, Bool.and_eq_true, decide_eq_true_eq, List.all_eq_true, List.mem_range]

section Startup
variable {d : Dev} {i : Nat} {w : Octets} (hi : i < 4) (hup : d.hop.up = true) (htesting : srcState d i = 0)
  (hactive : ∃ j, j < 4 ∧ srcState d j = 1) (hstate : d.hop.state ≠ 3)
include hi hup htesting hactive hstate

/-- The test of one source ends while another is ACTIVE: the source alone changes its state. -/
theorem startupDone_one : startupDone [(i, w)] d =
    onHop (if startupPass d w = true then srcSet d i 2 0 else failedSrc d i 3) fun h => { h with skip := tabSet false h.skip i false } := by
  have hone : (List.range 4).filter (fun s => (tabFind [(i, w)] s).isSome && decide (srcState d s = 0)) = [i] :=
    filter_sources_one hi fun j _ => by
      by_cases hj : j = i
      · simp [tabFind, hj, htesting]
      · simp [tabFind, hj]
  have hruns : tabGet [] [(i, w)] i = w := if_pos rfl
  generalize he : (if startupPass d w = true then srcSet d i 2 0 else failedSrc d i 3) = e
  have hkept : e.hop.state = d.hop.state := by rw [← he]; split <;> rfl
  have hserving : ∃ j, j < 4 ∧ srcState e j = 1 := by
    obtain ⟨j, hj, hact⟩ := hactive
    have hji : j ≠ i := by rintro rfl; omega
    refine ⟨j, hj, ?_⟩
    rw [← he]
    split <;> simp [srcState_failedSrc, hji, hact]
  obtain ⟨j, hj, hact⟩ := hserving
  simp only [startupDone, hup, if_true, hone, List.any_cons, List.any_nil, List.foldl_cons, List.foldl_nil, hruns]
  simp only [failedSrc] at he
  simp only [he, hkept, hstate, and_false, if_false, promote_of_active ⟨j, hj, hact⟩, List.isEmpty_cons, Bool.false_eq_true]
  exact hopCheck_of_healthy ⟨j, hj, by rw [srcState_skip, hact]; decide⟩

end Startup

theorem hopRetest_one {d : Dev} {i : Nat} (hi : i < 4) (hfailed : srcState d i = 3) (hactive : ∃ j, j < 4 ∧ srcState d j = 1) :
    hopRetest 1 (2 ^ i) d = srcSet d i 0 0 := by
  obtain ⟨j, hj, hact⟩ := hactive
  have hji : j ≠ i := by rintro rfl; omega
  have hserving : srcState (srcSet d i 0 0) j = 1 := by simp [hji, hact]
  have hone : [i].filter (fun s => decide (srcState d s ≠ 0)) = [i] := by simp [hfailed]
  rw [hopRetest, if_neg (by decide), maskSrcs_two_pow hi, hone]
  exact promote_of_active ⟨j, hj, hserving⟩ _

end Sys2Proof.Machine

/-! The generators of the Hopper and the hardware draws (O38): R181 to R184, R186. -/

namespace Sys2Proof.Machine

/-! ### Instantiation (R181) -/

/-- The Hopper once three blocks of its pool have gone into a generator (log entry 80). -/
def Hopper.seeded (h : Hopper) : Hopper := { h with pool := h.pool.drop 3, cycles := h.cycles + 3 }

/-- The Hopper READY, its software generator the second to be seeded. -/
def Hopper.readied (h : Hopper) (pass : Nat) (x : Octets × Octets) : Hopper :=
  { h.seeded with swInst := true, swSeed := pass, swStop := false, swKey := x.1, swV := x.2, state := 1 }

/-- Key and counter block of a generator made from the pool's first three blocks. -/
def freshDrbg (d : Dev) (inst : Nat) : Octets × Octets := drbgInstantiate (d.hop.pool.take 3).flatten (drbgPers inst d.pas.count)

theorem hopServes_zero_of_ready {d : Dev} (hstate : d.hop.state = 1) (hrun : d.hop.hwStop = false) (hhold : d.keep.hold = false) :
    hopServes d 0 = true := by
  simp [hopServes, hstate, hrun, hhold]

section Instantiate
variable {d : Dev} (hup : d.hop.up = true) (hstate : d.hop.state = 0) (hpool : 3 ≤ d.hop.pool.length) (hhold : d.keep.hold = false)
include hup hstate hpool hhold

/-- The hardware generator is made first: until the other is made too the Hopper stays STARTING. -/
theorem hopInstantiate_hw (hhw : d.hop.hwInst = false) (hsw : d.hop.swInst = false) : hopInstantiate 0 true d = { d with hop := { d.hop.seeded with
    hwInst := true, hwSeed := d.pas.count, hwStop := false, hwKey := (freshDrbg d 0).1, hwV := (freshDrbg d 0).2 } } := by
  simp [hopInstantiate, hup, hstate, hhold, Nat.not_lt.2 hpool, hhw, hsw, Hopper.seeded, freshDrbg]

/-- With the second generator the Hopper is READY, and its FIFO fills. -/
theorem hopInstantiate_sw (hhw : d.hop.hwInst = true) (hrun : d.hop.hwStop = false) (hsw : d.hop.swInst = false) :
    hopInstantiate 1 true d = { d with hop := fifoRefill 4 (d.hop.readied d.pas.count (freshDrbg d 1)) } := by
  have hmade : hopInstantiate 1 true d = hwRefill { d with hop := d.hop.readied d.pas.count (freshDrbg d 1) } := by
    simp [hopInstantiate, hup, hstate, hhold, Nat.not_lt.2 hpool, hhw, hsw, Hopper.readied, Hopper.seeded, freshDrbg, onHop]
  rw [hmade]
  exact if_pos (hopServes_zero_of_ready (d := { d with hop := d.hop.readied d.pas.count (freshDrbg d 1) }) rfl hrun hhold)

/-- A known-answer test fails before any block of the pool is taken. -/
theorem hopInstantiate_katFails (hhw : d.hop.hwInst = false) : hopInstantiate 0 false d = hopFault 3 d := by
  simp [hopInstantiate, hup, hstate, hhold, Nat.not_lt.2 hpool, hhw]

end Instantiate

/-! ### Reseeds (R181, R182) -/

section Reseed
variable {d : Dev} (hstate : d.hop.state = 1)
include hstate

theorem reseedDue_hw_iff : reseedDue d 0 = true ↔ d.hop.hwSeed + rn d Reg.HOP_RESEED_INT ≤ d.pas.count := by
  simp [reseedDue, hstate]

theorem reseedDue_sw_iff : reseedDue d 1 = true ↔ d.hop.swSeed + rn d Reg.HOP_RESEED_INT ≤ d.pas.count := by
  simp [reseedDue, hstate]

theorem hopReseed_hw (hhold : d.keep.hold = false) (hpool : 3 ≤ d.hop.pool.length) (hdue : d.hop.hwSeed + rn d Reg.HOP_RESEED_INT ≤ d.pas.count) :
    let k := drbgUpdate (d.hop.pool.take 3).flatten d.hop.hwKey d.hop.hwV
    hopReseed 0 d = { d with hop := { d.hop.seeded with hwSeed := d.pas.count, hwStop := false, hwKey := k.1, hwV := k.2 } } := by
  have hdue0 := (reseedDue_hw_iff hstate).2 hdue
  exact if_neg (by simp [hdue0, hpool, hhold])

theorem hopReseed_sw (hhold : d.keep.hold = false) (hpool : 3 ≤ d.hop.pool.length) (hfirst : d.pas.count < d.hop.hwSeed + rn d Reg.HOP_RESEED_INT)
    (hdue : d.hop.swSeed + rn d Reg.HOP_RESEED_INT ≤ d.pas.count) :
    let k := drbgUpdate (d.hop.pool.take 3).flatten d.hop.swKey d.hop.swV
    hopReseed 1 d = { d with hop := { d.hop.seeded with swSeed := d.pas.count, swStop := false, swKey := k.1, swV := k.2 } } := by
  have hdue1 := (reseedDue_sw_iff hstate).2 hdue
  have hdue0 : ¬ reseedDue d 0 = true := fun h => Nat.not_lt.2 ((reseedDue_hw_iff hstate).1 h) hfirst
  exact if_neg (by simp [hdue1, hdue0, hpool, hhold])

theorem hopReseed_not_due (hearly : d.pas.count < d.hop.hwSeed + rn d Reg.HOP_RESEED_INT) : hopReseed 0 d = d :=
  if_pos (.inl fun h => Nat.not_lt.2 ((reseedDue_hw_iff hstate).1 h) hearly)

theorem hopOverdue_hw (hlate : d.hop.hwSeed + 2 * rn d Reg.HOP_RESEED_INT ≤ d.pas.count) :
    hopOverdue 0 d = { d with hop := { d.hop with hwStop := true } } := by
  simp [hopOverdue, hstate, hlate, onHop]

theorem hopOverdue_sw (hlate : d.hop.swSeed + 2 * rn d Reg.HOP_RESEED_INT ≤ d.pas.count) :
    hopOverdue 1 d = { d with hop := { d.hop with swStop := true } } := by
  simp [hopOverdue, hstate, hlate, onHop]

theorem hopOverdue_in_time (hearly : d.pas.count < d.hop.hwSeed + 2 * rn d Reg.HOP_RESEED_INT) : hopOverdue 0 d = d := by
  simp [hopOverdue, hstate, Nat.not_le.2 hearly]

end Reseed

/-! ### Hardware draws (R183, R184, R186) -/

/-- A block taken: the FIFO is refilled while the hardware generator gives output. -/
theorem hwDraw_one_device {d : Dev} (h : hopServes d = true) :
    (hwDraw d 1).2 = { d with hop := fifoRefill 4 { d.hop with fifo := d.hop.fifo.drop 1 } } := by
  obtain ⟨⟨⟨hstate, hrun⟩, hhold⟩, -⟩ : ((d.hop.state = 1 ∧ d.hop.hwStop = false) ∧ d.keep.hold = false) ∧ 1 ≤ d.hop.fifo.length := by
    simpa [hopServes] using h
  exact if_pos (hopServes_zero_of_ready hstate hrun hhold)

/-- K and the lanes draw a block that no operation of theirs waits for. -/
theorem hardwareDraw_K_or_lane {who : Nat} (hwho : who = 1 ∨ 0x80 ≤ who ∧ who ≤ 0x87) (d : Dev) :
    hardwareDraw who d = if hopServes d = true then (hwDraw d 1).2 else d := by
  have hconsumer : hopConsumer who = true := by simp [hopConsumer]; omega
  rw [hardwareDraw, if_neg (by simp [hconsumer]), if_neg (by omega)]

theorem hardwareDraw_of_other {who : Nat} (hK : who ≠ 1) (hother : who < 0x80 ∨ 0x87 < who ∧ who < 0x90 ∨ 0x9F < who) (d : Dev) :
    hardwareDraw who d = d := by
  have hconsumer : hopConsumer who = false := by simp [hopConsumer]; omega
  exact if_pos (by simp [hconsumer])

/-- A refused draw ends the job that runs with the sub-code of the refusal (R186). -/
theorem jobDraw_refused {d : Dev} {u id c : Nat} {o : Op} {rec : Recipe} (hrefuses : hopRefusal d = some c) (hjob : (unitGet d u).job = some id)
    (hfind : findOp d id = some o) (hphase : o.phase = .admitted) (hrec : recipeOf o.recipe = some rec) (hneeds : jobRnd rec o o.rnd = none) :
    jobDraw u d = finish (unreserve (dropCurve (leaveUnit d u true) o) o.id) (refusedJob o c) := by
  have hsub : hopSub d = c := by rw [hopSub, hrefuses, Option.getD_some]
  simp only [jobDraw, running_op hjob hfind, hrec, hphase, hneeds, hopServes_of_refusal hrefuses, hrefuses, ne_eq, not_true_eq_false, Option.isSome_none,
    Option.isSome_some, Bool.false_eq_true, or_self, if_false, if_true, entropyEnd, hsub, refusedJob]

/-- The unit has no job, and the operation of the one it had holds its status. -/
theorem refusedJob_ends {d : Dev} {u id : Nat} {o : Op} (c : Nat) (hfind : findOp d id = some o) (hdead : o.dead = false) (hquant : o.quant = true) :
    let e := unreserve (dropCurve (leaveUnit d u true) o) o.id
    findOp (finish e (refusedJob o c)) id = some (heldOp e (refusedJob o c)) ∧ (unitGet (finish e (refusedJob o c)) u).job = none := by
  intro e
  have hops : findOp e (heldOp e (refusedJob o c)).id = some o := by
    show findOp (unreserve (dropCurve (leaveUnit d u true) o) o.id) o.id = some o
    rw [unreserve, dropCurve_frame, findOp_id hfind]
    exact hfind
  rw [finish_quant (o := refusedJob o c) hquant hdead]
  constructor
  · rw [← findOp_id hfind]
    exact findOp_setOp (o := heldOp e (refusedJob o c)) hops
  · show (unitGet (dropCurve (leaveUnit d u true) o) u).job = none
    rw [unitGet_dropCurve, leaveUnit, unitGet_unitSet, if_pos rfl]
    rfl

end Sys2Proof.Machine

/-! Software draws and raw-sample mode (O38): R187, R188, R190, R191, R434. -/

namespace Sys2Proof.Machine

/-! ### A draw (R188) -/

section Draw
variable {d : Dev} {m : Nat}

theorem swDrawRead_ready {v : Nat} {r : List Nat} (hbuf : tabGet [] d.hop.buf m = v :: r) (hstate : d.hop.state = 1) (hrun : d.hop.swStop = false)
    (hhold : d.keep.hold = false) :
    swDrawRead m d = (wd (v + 2 ^ 35), onHop d fun h => { h with buf := tabSet [] h.buf m r }) := by
  simp [swDrawRead, hbuf, hstate, hrun, hhold]

/-- A draw that finds no value, or a Hopper that gives none, is a shortage. -/
theorem swDrawRead_short (h : tabGet [] d.hop.buf m = [] ∨ d.hop.state ≠ 1 ∨ d.hop.swStop = true ∨ d.keep.hold = true) :
    swDrawRead m d = (0, pvSet d m Reg.HOP_SW_SHORT (satInc (pv d m Reg.HOP_SW_SHORT) 1)) := by
  cases hbuf : tabGet [] d.hop.buf m with
  | nil => simp only [swDrawRead, hbuf]
  | cons v r =>
    have hnone : ¬ (d.hop.state = 1 ∧ ¬ d.hop.swStop = true ∧ ¬ d.keep.hold = true) := by
      rw [hbuf] at h
      simp at h
      tauto
    simp only [swDrawRead, hbuf, if_neg hnone]

/-- A draw changes the core's buffer or its count of shortages, and nothing else. -/
theorem swDrawRead_frame (d : Dev) (m : Nat) :
    (swDrawRead m d).2 = { d with hop := (swDrawRead m d).2.hop, priv := (swDrawRead m d).2.priv } := by
  rw [swDrawRead]
  split
  · split <;> rfl
  · rfl

end Draw

/-! ### The draw as a core's read of the register (R45, R434) -/

/-- An item goes into a section that depends on the records, the register words and the cores alone. -/
theorem rpl_rplItem_congr {d e : Dev} (hrpl : e.rpl = d.rpl) (hregs : e.regs = d.regs) (hcores : e.cores = d.cores) (m kind : Nat) (ws : List Nat) :
    (rplItem m kind ws e).rpl = (rplItem m kind ws d).rpl := by
  have hrec : recorded e m = recorded d m := by simp only [recorded, rplCores, rg, hrpl, hregs]
  simp only [rplItem, hrec, apply_ite Dev.rpl, sectSet, rpl_onRpl, sect, coreGet, hrpl, hcores]

theorem isCore_of_isH_or_isF {m : Nat} (h : isH m = true ∨ isF m = true) : isCore m = true := by
  rcases h with h | h <;> simp [isCore, h]

theorem regRead_swDraw {m : Nat} (h : isH m = true ∨ isF m = true) (dl : Dev) (pl : Nat) (d : Dev) : regRead dl m pl Reg.HOP_SW_DRAW d =
    ((swDrawRead m d).1, recordRead (swDrawRead m d).2 m 1 (swDrawRead m d).1.toNat) := by
  simp only [regRead, if_neg (show Reg.HOP_SW_DRAW ≠ Reg.PAS_CYCLE by decide), if_pos h, if_true, noteRead, isCore_of_isH_or_isF h]

/-- What a core's read of HOP_SW_DRAW leaves when its draw is x: the word read, recorded and put in the core's section. -/
structure Drawn (m : Nat) (d : Dev) (x : Word × Dev) (t : Dev) : Prop where
  word : tabGet 0 t.rdata m = x.1
  recorded : t.pas.recorded = d.pas.recorded ++ [(m, 1, x.1.toNat)]
  item : t.rpl = (rplItem m 2 [0xF00000000 + Reg.HOP_SW_DRAW, x.1.toNat] d).rpl
  hop : t.hop = x.2.hop
  priv : t.priv = x.2.priv

theorem hopSwDrawRead_drawn {m : Nat} {d : Dev} (hm : isH m = true ∨ isF m = true) (hlive : replayed d m = false) (dl : Dev) {x : Word × Dev}
    (hx : swDrawRead m d = x) : Drawn m d x (hopSwDrawRead dl m d) := by
  subst hx
  rw [hopSwDrawRead, if_pos hm, coreRegRead_of_not_replayed hlive (by decide), regRead_swDraw hm]
  exact {
    word := by rw [rdata_rdSet, if_pos rfl]
    recorded := by rw [rdSet_pas, rplItem_frame, swDrawRead_frame]; rfl
    item := rpl_rplItem_congr (by rw [swDrawRead_frame]; rfl) (by rw [swDrawRead_frame]; rfl) (by rw [swDrawRead_frame]; rfl) ..
    hop := by rw [rplItem_frame]; rfl
    priv := by rw [rplItem_frame]; rfl }

theorem hopSwDrawRead_of_no_buffer {m : Nat} (hH : isH m = false) (hF : isF m = false) (dl d : Dev) : hopSwDrawRead dl m d = rdSet d m 0 :=
  if_neg (by simp [hH, hF])

/-! ### Raw mode requested, entered and left (R190, R191) -/

/-- ENABLE and SOURCE as a request writes them. -/
theorem rawCtl_request {i : Nat} (hi : i < 4) :
    let v := pack [(0, 1), (1, i % 4)]
    bit v 0 = true ∧ pack [(0, b2n true), (1, fld v 2 1)] = wd (1 + 2 * i) := by
  interval_cases i <;> decide

theorem rawEnable_requests {d : Dev} {m i : Nat} (hmay : rawMay d m = true) (hstate : d.hop.state ≠ 2) (hi : i < 4) :
    rawEnable m i d = onHop (rgSet d Reg.HOP_RAW_CTL (wd (1 + 2 * i))) fun h => { h with rawReq := some (h.rawReq.getD d.pas.count) } := by
  obtain ⟨henable, hword⟩ := rawCtl_request hi
  simp only [rawEnable, rawCtlWrite, hmay, henable, if_true, not_true_eq_false, if_false, hstate, hword, Option.or_some]

/-- The Hopper in RAW, without generators, pool and buffers. -/
def Hopper.rawed (h : Hopper) : Hopper :=
  { wipeGens h with state := 2, cause := 0, rawReq := none, pool := [], buf := [], next := [], rawFifo := 0, rawIn := 0, rawGap := false }

theorem rawEntry_enters {d : Dev} {q : Nat} (hreq : d.hop.rawReq = some q) (hlater : q < d.pas.count) (hstate : d.hop.state ≠ 3) :
    rawEntry d = { d with hop := d.hop.rawed } := by
  simp only [rawEntry, hreq, hlater, hstate, ne_eq, not_false_eq_true, and_self, if_true]
  rfl

theorem rawEntry_waits {d : Dev} (h : d.hop.state = 3 ∨ d.hop.rawReq = none ∨ d.hop.rawReq = some d.pas.count) : rawEntry d = d := by
  cases hreq : d.hop.rawReq with
  | none => simp only [rawEntry, hreq]
  | some q =>
    have hnot : ¬ (q < d.pas.count ∧ d.hop.state ≠ 3) := by
      rintro ⟨hlater, hstate⟩
      simp [hstate, hreq] at h
      omega
    simp only [rawEntry, hreq, if_neg hnot]

/-- Bit 0 of a word is its parity. -/
theorem bit_wd_zero (n : Nat) : bit (wd n) 0 = decide (n % 2 = 1) := by
  rw [bit, wd, BitVec.getLsbD_ofNat, Nat.testBit_zero, decide_eq_true (by decide), Bool.true_and]

theorem bit_setBit_false (w : Word) : bit (setBit w 0 false) 0 = false := by
  simp only [setBit, setFld, bit_wd_zero, fld, nfld, b2n, Nat.shiftLeft_zero, Nat.shiftRight_zero]
  simp
  omega

/-- HOP_RAW_CTL as the end of the mode leaves it: its ENABLE is 0. -/
def rawCtlOff (v : Word) : Word := pack [(0, b2n false), (1, fld v 2 1)]

theorem bit_rawCtlOff (v : Word) : bit (rawCtlOff v) 0 = false := by
  simp [rawCtlOff, pack, bit_wd_zero, b2n, Nat.shiftLeft_eq]

/-- The Hopper STARTING after RAW: only windows that begin now are used. -/
def Hopper.rawLeft (h : Hopper) : Hopper :=
  { wipeGens h with state := 0, cause := 0, rawReq := none, buf := [], next := [], rawFifo := 0, rawGap := false,
                    skip := (List.range 4).foldl (fun t s => tabSet false t s true) h.skip }

theorem skip_rawLeft (h : Hopper) {j : Nat} (hj : j < 4) : tabGet false h.rawLeft.skip j = true := by
  simp [Hopper.rawLeft, List.range_succ]
  omega

theorem rawExit_leaves {d : Dev} {m : Nat} (hmay : rawMay d m = true) (hstate : d.hop.state = 2) (hhealthy : ∃ j, j < 4 ∧ srcState d j < 3) :
    rawExit m d = { rgSet d Reg.HOP_RAW_CTL (rawCtlOff (setBit (rg d Reg.HOP_RAW_CTL) 0 false)) with hop := d.hop.rawLeft } := by
  obtain ⟨j, hj, hlt⟩ := hhealthy
  simp only [rawExit, rawCtlWrite, hmay, bit_setBit_false, rawEnd, onHop, rgSet, hstate, hopRestart, if_true, Bool.false_eq_true, if_false, ne_eq,
    not_true_eq_false]
  exact hopCheck_of_healthy ⟨j, hj, hlt.ne⟩

/-! ### Raw samples read (R191) -/

section Raw
variable {d : Dev} {m arrived : Nat}

theorem hopRawDataRead_not_raw (hstate : d.hop.state ≠ 2) : hopRawDataRead m arrived d = rdSet d m 0 := if_pos hstate

theorem hopRawDataRead_waits (hstate : d.hop.state = 2) (hfew : d.hop.rawFifo + arrived < 32) : ∃ gap, hopRawDataRead m arrived d =
    rdSet (onHop d fun h => { h with rawIn := h.rawIn + arrived, rawFifo := h.rawFifo + arrived, rawGap := gap }) m 0 := by
  have hmin : min 1024 (d.hop.rawFifo + arrived) = d.hop.rawFifo + arrived := by omega
  refine ⟨d.hop.rawGap || decide (1024 < d.hop.rawFifo + arrived), ?_⟩
  simp only [hopRawDataRead, hstate, ne_eq, not_true_eq_false, if_false, hmin, if_pos hfew]
  rfl

/-- Thirty-two samples, with GAP after a loss. -/
theorem hopRawDataRead_returns (hstate : d.hop.state = 2) (hmany : 32 ≤ d.hop.rawFifo + arrived) : hopRawDataRead m arrived d =
    rdSet (onHop (drawWord d).2 fun h => { h with rawIn := h.rawIn + arrived, rawFifo := min 1024 (h.rawFifo + arrived) - 32, rawGap := false }) m
      (wd ((drawWord d).1.toNat % 2 ^ 32 + 2 ^ 35 + if d.hop.rawGap = true ∨ 1024 < d.hop.rawFifo + arrived then 2 ^ 34 else 0)) := by
  have hmin : ¬ min 1024 (d.hop.rawFifo + arrived) < 32 := by omega
  have hgap : b2n (d.hop.rawGap || decide (1024 < d.hop.rawFifo + arrived)) * 2 ^ 34 =
      if d.hop.rawGap = true ∨ 1024 < d.hop.rawFifo + arrived then 2 ^ 34 else 0 := by
    simp [b2n]
  simp only [hopRawDataRead, hstate, ne_eq, not_true_eq_false, if_false, if_neg hmin, hgap, Nat.add_right_comm _ _ (2 ^ 35)]
  rfl

end Raw

end Sys2Proof.Machine

/-! The proof of O38: the Hopper (R176 to R184, R188, R190, R191). -/

namespace Sys2Proof.Machine

/-- Settles O38: each command of the Hopper does what the branch of its rule says. -/
theorem hopperEntropy : Obligations.HopperEntropy := by
  intro s m i c w d h out src int
  refine ⟨?failover, ?shortRun, ?lastFails, ?windowPasses, ?startup, ?retest, ?retestOther, ?instantiate, ?reseed, ?draw, ?drawOther, ?drawRefused,
    ?swDraw, ?swDrawOther, ?rawRequest, ?rawEnters, ?rawWaits, ?raw, ?notRaw⟩
  case failover =>
    intro hup hi hact honly hnext
    refine ⟨fun hrun => ?_, fun hcut => ?_⟩
    · have hover := failSrcs_failover hi hact honly hnext 1
      exact ⟨_, exec_eq_next rfl (rctFail_of_run hi hup hrun), hover.failed, hover.reason, hover.next, hover.skips, hover.state, hover.pool, hover.count⟩
    · have htested : srcState d i ≠ 0 := by rw [show srcState d i = 1 from hact]; decide
      have hover := failSrcs_failover (d := onHop d fun h => { h with skip := tabSet false h.skip i false }) hi hact honly hnext 2
      exact ⟨_, exec_eq_next rfl (windowDone_fails hi hup htested hcut), hover.failed, hover.reason, hover.next, hover.pool⟩
  case shortRun => exact fun hshort => exec_eq_next rfl (rctFail_of_short hshort i)
  case lastFails =>
    intro hup hrun hi hact hothers hstate
    have hfault := failSrcs_last hi hact hothers hstate 1
    exact ⟨_, exec_eq_next rfl (rctFail_of_run hi hup hrun), congrArg Hopper.state hfault, congrArg Hopper.cause hfault, congrArg Hopper.pool hfault,
      congrArg Hopper.fifo hfault, congrArg Hopper.hwInst hfault, congrArg Hopper.swInst hfault⟩
  case windowPasses =>
    exact fun hup hi htested hcut => ⟨_, exec_eq_next rfl (windowDone_passes hi hup htested hcut), rfl, rfl, rfl, rfl⟩
  case startup =>
    intro hup hi htesting hactive hstate o pass
    have hdone := startupDone_one (w := w) hi hup htesting hactive hstate
    refine ⟨fun hpass => ?_, fun hfail => ?_⟩
    · rw [if_pos ((startupPass_iff d w).2 hpass)] at hdone
      exact ⟨_, exec_eq_next rfl hdone, (srcState_srcSet d i 2 0 i).trans (if_pos rfl), rfl, rfl⟩
    · rw [if_neg (mt (startupPass_iff d w).1 hfail)] at hdone
      exact ⟨_, exec_eq_next rfl hdone, (srcState_failedSrc d i 3 i).trans (if_pos rfl), why_failedSrc d i 3, rfl, rg_failedSrc d i 3⟩
  case retest =>
    exact fun hi hfailed hactive => ⟨_, exec_eq_next rfl (hopRetest_one hi hfailed hactive), (srcState_srcSet d i 0 0 i).trans (if_pos rfl),
      fun j hj => (srcState_srcSet d i 0 0 j).trans (if_neg hj)⟩
  case retestOther => exact fun hm => exec_eq_next rfl (if_pos hm)
  case instantiate =>
    intro hup hstate hpool hhold x
    refine ⟨fun hhw hsw => exec_eq_next rfl (hopInstantiate_hw hup hstate hpool hhold hhw hsw),
      fun hhw hrun hsw => exec_eq_next rfl (hopInstantiate_sw hup hstate hpool hhold hhw hrun hsw), fun hhw => ?_⟩
    have hfault := hopFault_hop (d := d) (by rw [show d.hop.state = 0 from hstate]; decide) 3
    exact ⟨_, exec_eq_next rfl (hopInstantiate_katFails hup hstate hpool hhold hhw), congrArg Hopper.state hfault, congrArg Hopper.cause hfault⟩
  case reseed =>
    exact fun hstate => ⟨fun hhold hpool hdue => exec_eq_next rfl (hopReseed_hw hstate hhold hpool hdue),
      fun hhold hpool hfirst hdue => exec_eq_next rfl (hopReseed_sw hstate hhold hpool hfirst hdue),
      fun hearly => exec_eq_next rfl (hopReseed_not_due hstate hearly), fun hlate => exec_eq_next rfl (hopOverdue_hw hstate hlate),
      fun hlate => exec_eq_next rfl (hopOverdue_sw hstate hlate), fun hearly => exec_eq_next rfl (hopOverdue_in_time hstate hearly)⟩
  case draw =>
    exact fun hwho => ⟨fun hserves => exec_eq_next rfl ((hardwareDraw_K_or_lane hwho d).trans ((if_pos hserves).trans (hwDraw_one_device hserves))),
      fun hnot => exec_eq_next rfl ((hardwareDraw_K_or_lane hwho d).trans (if_neg (by simp [hnot])))⟩
  case drawOther => exact fun hK hother => exec_eq_next rfl (hardwareDraw_of_other hK hother d)
  case drawRefused =>
    intro hi hrefuses id o rec hjob hfind hphase hdead hquant hrec hneeds
    obtain ⟨hfound, hleft⟩ := refusedJob_ends (u := i) c hfind hdead hquant
    exact ⟨_, _, exec_eq_next rfl ((hardwareDraw_unit hi d).trans (jobDraw_refused hrefuses hjob hfind hphase hrec hneeds)), hfound, rfl, rfl, hleft⟩
  case swDraw =>
    intro hm hlive noted
    refine ⟨fun v r hbuf hstate hrun hhold => ?_, fun hshort => ?_⟩
    · have hdrawn := hopSwDrawRead_drawn hm hlive (latchOf s m) (swDrawRead_ready hbuf hstate hrun hhold)
      refine ⟨_, exec_eq_next rfl rfl, ⟨hdrawn.word, hdrawn.recorded, hdrawn.item⟩, ?_, hdrawn.priv⟩
      rw [hdrawn.hop]
      exact (tabGet_tabSet ..).trans (if_pos rfl)
    · have hdrawn := hopSwDrawRead_drawn hm hlive (latchOf s m) (swDrawRead_short hshort)
      refine ⟨_, exec_eq_next rfl rfl, ⟨hdrawn.word, hdrawn.recorded, hdrawn.item⟩, ?_, hdrawn.hop⟩
      rw [pv, hdrawn.priv]
      exact (pv_pvSet ..).trans (if_pos rfl)
  case swDrawOther => exact fun hH hF => exec_eq_next rfl (hopSwDrawRead_of_no_buffer hH hF ..)
  case rawRequest =>
    exact fun hmay hstate hi => ⟨_, exec_eq_next rfl (rawEnable_requests hmay hstate hi), rfl, (rg_rgSet ..).trans (if_pos rfl)⟩
  case rawEnters => exact fun q hreq hlater hstate => exec_eq_next rfl (rawEntry_enters hreq hlater hstate)
  case rawWaits => exact fun hwait => exec_eq_next rfl (rawEntry_waits hwait)
  case raw =>
    intro hstate
    refine ⟨fun hfew => ?_, fun hmany => ?_, fun hmay hhealthy => ?_⟩
    · obtain ⟨gap, hread⟩ := hopRawDataRead_waits (m := m) hstate hfew
      exact ⟨_, exec_eq_next rfl hread, (rdata_rdSet ..).trans (if_pos rfl), rfl⟩
    · exact ⟨_, _, exec_eq_next rfl (hopRawDataRead_returns (m := m) hstate hmany), Nat.mod_lt _ (by decide), (rdata_rdSet ..).trans (if_pos rfl), rfl⟩
    · exact ⟨_, exec_eq_next rfl (rawExit_leaves hmay hstate hhealthy), rfl, rfl, rfl, rfl, fun j hj => skip_rawLeft d.hop hj,
        (congrArg (bit · 0) ((rg_rgSet ..).trans (if_pos rfl))).trans (bit_rawCtlOff _)⟩
  case notRaw => exact fun hstate => ⟨_, exec_eq_next rfl (hopRawDataRead_not_raw hstate), (rdata_rdSet ..).trans (if_pos rfl), rfl⟩

end Sys2Proof.Machine

/-! The credential register (O39): lookups, the preparation of a frozen batch, and the end of a commit (R199, R201, R203, R205, R206, Table 8.2). -/

namespace Sys2Proof.Machine

/-! ### An operation that ends leaves the register alone (R81, R107) -/

@[simp] theorem crg_rgSet (d : Dev) (a : Nat) (v : Word) : (rgSet d a v).crg = d.crg := (rfl)

@[simp] theorem crg_mpuRecord (m ident access a detail : Nat) (d : Dev) : (mpuRecord m ident access a detail d).crg = d.crg := by
  dsimp only [mpuRecord]
  split <;> simp only [rgAdd, crg_rgSet]

@[simp] theorem crg_coreAllows (d : Dev) (m pl right a n : Nat) : (coreAllows d m pl right a n).2.crg = d.crg := by
  unfold coreAllows
  split
  · rfl
  · split
    · rfl
    · exact crg_mpuRecord ..

theorem crg_postFq {d t : Dev} {k : Nat × Nat} {pass : Nat} (h : postFq d k pass = some t) : t.crg = d.crg := by
  unfold postFq at h
  repeat' split at h
  all_goals cases h
  all_goals simp [noteMem, pushInput, setOp, memWrOct, loseResv, apply_ite Dev.crg]

@[simp] theorem crg_postFqs (n : Nat) (k : Nat × Nat) (pass : Nat) (d : Dev) : (postFqs n k pass d).crg = d.crg := by
  induction n generalizing d with
  | zero => rfl
  | succ n ih =>
    unfold postFqs
    split
    next h => rw [ih, crg_postFq h]
    next => rfl

@[simp] theorem crg_queueBarges (q : Nat) (bs : List Barge) (d : Dev) : (bs.foldl (fun d b => queueBarge d q b) d).crg = d.crg := by
  induction bs generalizing d with
  | nil => rfl
  | cons b bs ih => rw [List.foldl_cons, ih]; rfl

theorem crg_report (d : Dev) (o : Op) (due pass : Nat) : (report d o due pass).crg = d.crg := by
  cases hsrc : o.src <;> simp only [report, hsrc]
  case ring => rfl
  case fwq => exact crg_postFqs ..
  case gq => exact crg_postFqs ..
  case barge =>
    split
    · rfl
    · split
      · rfl
      · exact crg_queueBarges ..
  case cmd => split <;> rfl
  case ofc => rfl

theorem written_of_no_outs {o : Op} (h : o.outs = []) (d : Dev) : written d o = (d, o) := by
  cases hsrc : o.src <;> simp [written, writeOuts, hsrc, h, engOuts]

@[simp] theorem crg_endWith (d : Dev) (o : Op) (st sub due pass : Nat) : (endWith d o st sub due pass).crg = d.crg := by
  unfold endWith
  split
  · rfl
  · rw [deliver, written_of_no_outs rfl]
    exact crg_report ..

/-! ### Lookups (R199, R201, Table 8.2) -/

theorem verdictOf_some (t : Int) (e : CrgEntry) : verdictOf t (some e) =
    if e.status = 3 then 2 else if e.status = 2 then 3 else if t < e.from_ then 4 else if (e.until_ : Int) ≤ t then 5
    else if e.limited = true ∧ e.uses = 0 then 6 else 0 := rfl

/-- Within its source's budget a lookup is admitted with the verdict on the entry of its digest, and the register stays as it is. -/
theorem lookupAdmit_verdict {d : Dev} {o : Op} (h : 1 ≤ budgetLeft d (lookupBudget o)) :
    let y := crgLookup (d.crg.key.getD []) d.crg.table (lookupDigest o)
    ∃ e x, lookupAdmit d o = some (e, x) ∧ x.status = St.done ∧ e.crg = d.crg ∧ x.sub = verdictOf (siteTime d) y ∧ (y = none → x.result = 0) := by
  intro y
  refine ⟨_, _, if_neg (Nat.not_lt.2 h), ?status, rfl, ?verdict, fun hnone => ?result⟩
  -- The form of the answer, which depends on the source and on the entry, touches neither status nor verdict.
  case status | verdict =>
    dsimp only
    repeat' split
    all_goals rfl
  case result =>
    have hlook : crgLookup ((debit d (lookupBudget o) 1).crg.key.getD []) (debit d (lookupBudget o) 1).crg.table (lookupDigest o) = none := hnone
    simp only [hlook]
    rfl

/-- LOOKUP_COMPLETE counts an admitted lookup and finishes it. -/
theorem lookupComplete_of_admitted {d : Dev} {id : Nat} {o : Op} (hfind : findOp d id = some o) (hphase : o.phase = .admitted) (hop : o.opcode = 0x40) :
    lookupComplete id d = finish (rgAdd d Reg.CRG_LOOKUPS 1) o := by
  simp only [lookupComplete, hfind, hphase, hop, and_self, if_true]

/-! ### Deltas of a frozen batch (R203, R205, R206) -/

section Deltas
variable {key : Octets} {epoch origin : Nat} {c : CrgCommit} {x : CrgDelta}

/-- The commit with its next delta skipped. -/
def CrgCommit.skipped (c : CrgCommit) : CrgCommit :=
  { c with placed := c.placed + 1, skips := c.skips + 1, firstSkip := c.firstSkip.or (some c.placed) }

/-- The commit with its next delta done, the register as given. -/
def CrgCommit.done (c : CrgCommit) (t : CrgTable) : CrgCommit := { c with placed := c.placed + 1, table := t }

/-- The entry that an ADD delta writes. -/
def CrgDelta.entry (x : CrgDelta) (epoch origin : Nat) : CrgEntry :=
  { status := x.status, cls := x.cls, limited := x.flags.testBit 0, capped := x.flags.testBit 1, origin := origin, digest := x.digest,
    from_ := x.from_, until_ := x.until_, uses := x.uses, amount := x.amount, cap := x.cap, changed := epoch }

/-- The entry that an ADJUST delta leaves. -/
def CrgEntry.adjusted (e : CrgEntry) (x : CrgDelta) (epoch origin : Nat) : CrgEntry :=
  { e with uses := e.uses - x.uses, amount := e.amount + x.amount, origin := origin, changed := epoch }

variable (hfailed : c.failed = none)
include hfailed

theorem applyDelta_placed (hop : x.op = 1) {t : CrgTable} (hplace : crgPlace key (x.entry epoch origin) c.table = some t) :
    applyDelta key epoch origin c x = c.done t := by
  rw [CrgDelta.entry] at hplace
  simp only [applyDelta, hfailed, Option.isSome_none, Bool.false_eq_true, if_false, if_pos hop, hplace, CrgCommit.done]

theorem applyDelta_full (hop : x.op = 1) (hplace : crgPlace key (x.entry epoch origin) c.table = none) :
    applyDelta key epoch origin c x = { c with failed := some c.placed } := by
  rw [CrgDelta.entry] at hplace
  simp only [applyDelta, hfailed, Option.isSome_none, Bool.false_eq_true, if_false, if_pos hop, hplace]

theorem applyDelta_absent (hop : x.op ≠ 1) (hfind : crgFind key c.table x.digest = none) : applyDelta key epoch origin c x = c.skipped := by
  simp only [applyDelta, hfailed, Option.isSome_none, Bool.false_eq_true, if_false, if_neg hop, hfind, CrgCommit.skipped]

variable {p : Bool × Nat} {e : CrgEntry} (hfind : crgFind key c.table x.digest = some p) (hlook : crgLookup key c.table x.digest = some e)
include hfind hlook

theorem applyDelta_removed (hop : x.op = 2) : applyDelta key epoch origin c x = c.done (crgRemove c.table p) := by
  have hadd : x.op ≠ 1 := by omega
  simp only [applyDelta, hfailed, Option.isSome_none, Bool.false_eq_true, if_false, if_neg hadd, hfind, hlook, if_pos hop, CrgCommit.done]

theorem applyDelta_adjusted (hop : x.op = 3) (huses : x.uses ≤ e.uses) (hamount : amountOk (e.amount + x.amount) = true) :
    applyDelta key epoch origin c x = c.done (crgOverwrite c.table p (e.adjusted x epoch origin)) := by
  have hadd : x.op ≠ 1 := by omega
  have hrem : x.op ≠ 2 := by omega
  have hfits : ¬ (e.uses < x.uses ∨ ¬ amountOk (e.amount + x.amount) = true) := by simp [hamount, huses]
  simp only [applyDelta, hfailed, Option.isSome_none, Bool.false_eq_true, if_false, if_neg hadd, hfind, hlook, if_neg hrem, if_neg hfits, CrgCommit.done,
    CrgEntry.adjusted]

theorem applyDelta_unfit (hop : x.op = 3) (hunfit : e.uses < x.uses ∨ amountOk (e.amount + x.amount) = false) :
    applyDelta key epoch origin c x = c.skipped := by
  have hadd : x.op ≠ 1 := by omega
  have hrem : x.op ≠ 2 := by omega
  rw [← Bool.not_eq_true] at hunfit
  simp only [applyDelta, hfailed, Option.isSome_none, Bool.false_eq_true, if_false, if_neg hadd, hfind, hlook, if_neg hrem, if_pos hunfit,
    CrgCommit.skipped]

end Deltas

section Preparation
variable {d : Dev} {c : CrgCommit} {key : Octets} {x : CrgDelta} (hcommit : d.crg.commit = some c) (hkey : d.crg.key = some key)
  (hready : c.ready = none) (hfailed : c.failed = none) (hpass : c.prepPass ≠ some d.pas.count) (hlast : c.batch.drop c.placed = [x])
  (hbudget : 1 ≤ rn d Reg.CRG_PREP_BUDGET)
include hcommit hkey hready hfailed hpass hlast hbudget

/-- The device with its commit as given. -/
def withCommit (d : Dev) (c : CrgCommit) : Dev := { d with crg := { d.crg with commit := some c } }

/-- With one delta left, this pass does that delta. -/
theorem deltaPrep_last {y : CrgCommit} (happly : applyDelta key (d.crg.epoch + 1) (deltaOrigin d x) c x = y) :
    deltaPrep d = withCommit d { y with prepPass := some d.pas.count,
                                        ready := if y.placed = y.batch.length then some (d.pas.count + 1) else none } := by
  subst happly
  obtain ⟨n, hn⟩ := Nat.exists_eq_add_of_le' hbudget
  have hgo : ¬ (c.ready.isSome = true ∨ c.failed.isSome = true ∨ c.prepPass = some d.pas.count) := by simp [hready, hfailed, hpass]
  simp only [deltaPrep, withCommit, hcommit, hkey, if_neg hgo, hlast, hn, List.take_succ_cons, List.take_nil, List.foldl_cons, List.foldl_nil]

omit hcommit hkey hready hfailed hpass hbudget in
theorem length_batch_of_last : c.placed + 1 = c.batch.length := by
  have := congrArg List.length hlast
  simp only [List.length_drop, List.length_singleton] at this
  omega

/-- Once the last delta is done or skipped the batch is ready at the next edge. -/
theorem deltaPrep_ready {y : CrgCommit} (happly : applyDelta key (d.crg.epoch + 1) (deltaOrigin d x) c x = y) (hplaced : y.placed = c.placed + 1)
    (hbatch : y.batch = c.batch) : deltaPrep d = withCommit d { y with prepPass := some d.pas.count, ready := some (d.pas.count + 1) } := by
  rw [deltaPrep_last hcommit hkey hready hfailed hpass hlast hbudget happly, if_pos]
  rw [hplaced, hbatch, length_batch_of_last hlast]

/-- A delta that finds no place leaves the batch unready. -/
theorem deltaPrep_full (happly : applyDelta key (d.crg.epoch + 1) (deltaOrigin d x) c x = { c with failed := some c.placed }) :
    deltaPrep d = withCommit d { c with prepPass := some d.pas.count, failed := some c.placed } := by
  have hleft : ¬ c.placed = c.batch.length := by have := length_batch_of_last hlast; omega
  rw [deltaPrep_last hcommit hkey hready hfailed hpass hlast hbudget happly, if_neg hleft, hready]

end Preparation

theorem deltaPrep_of_no_commit {d : Dev} (h : d.crg.commit = none) : deltaPrep d = d := by simp only [deltaPrep, h]

/-! ### The end of a commit (R205) -/

/-- The register after a commit, with its result in the register words. -/
def commitEnded (d : Dev) (g : Crg) (c : CrgCommit) (st sub idx : Nat) : Dev :=
  commitResult (rgSet { d with crg := g } Reg.CRG_COMMIT_SKIPS (wd c.skips)) st sub idx

/-- The operation of a commit, if it still is in flight, ends with the commit's status. -/
def answerCommit (c : CrgCommit) (st sub : Nat) (d : Dev) : Dev :=
  match findOp d c.op with
  | some o => endWith d o st sub d.pas.count (d.pas.count - 1)
  | none => d

theorem commitDrop_eq (c : CrgCommit) (st sub : Nat) (d : Dev) : commitDrop c st sub d =
    answerCommit c st sub (commitEnded d { d.crg with commit := none } c st sub (c.failed.getD (c.firstSkip.getD 0))) := rfl

theorem findOp_commitEnded (d : Dev) (g : Crg) (c : CrgCommit) (st sub idx id : Nat) : findOp (commitEnded d g c st sub idx) id = findOp d id := by
  simp only [findOp, commitEnded, commitResult, rgSet_ops]

theorem crg_commitEnded (d : Dev) (g : Crg) (c : CrgCommit) (st sub idx : Nat) : (commitEnded d g c st sub idx).crg = g := by
  simp only [commitEnded, commitResult, crg_rgSet]

theorem skips_commitEnded (d : Dev) (g : Crg) (c : CrgCommit) (st sub idx : Nat) : rg (commitEnded d g c st sub idx) Reg.CRG_COMMIT_SKIPS = wd c.skips := by
  have hother : Reg.CRG_COMMIT_SKIPS ≠ Reg.CRG_COMMIT_RESULT := by decide
  rw [commitEnded, commitResult, rg_rgSet, if_neg hother, rg_rgSet, if_pos rfl]

/-- A ring's operation that ends is found in flight as ended. -/
theorem findOp_endWith_ring {d : Dev} {id r k : Nat} {o : Op} (hfind : findOp d id = some o) (hsrc : o.src = .ring r k) (hdead : o.dead = false)
    (st sub due pass : Nat) : ∃ x, findOp (endWith d o st sub due pass) id = some x ∧ x.phase = .ended ∧ x.status = st ∧ x.sub = sub := by
  obtain rfl := findOp_id hfind
  rw [endWith_ring hsrc hdead]
  exact ⟨_, findOp_setOp (d := unreserve d o.id) (x := o) hfind, rfl, rfl, rfl⟩

/-- What the end of a commit leaves: the register, its count of skips, and its ring operation ended with the commit's status. -/
structure CommitEnds (d : Dev) (g : Crg) (c : CrgCommit) (st sub : Nat) (t : Dev) : Prop where
  crg : t.crg = g
  skips : findOp d c.op = none → rg t Reg.CRG_COMMIT_SKIPS = wd c.skips
  op : ∀ o n pos, findOp d c.op = some o → o.src = .ring n pos → o.dead = false →
    ∃ x, findOp t c.op = some x ∧ x.phase = .ended ∧ x.status = st ∧ x.sub = sub

theorem commitEnds (d : Dev) (g : Crg) (c : CrgCommit) (st sub idx : Nat) :
    CommitEnds d g c st sub (answerCommit c st sub (commitEnded d g c st sub idx)) where
  crg := by
    unfold answerCommit
    split
    · exact (crg_endWith ..).trans (crg_commitEnded ..)
    · exact crg_commitEnded ..
  skips hnone := by
    simp only [answerCommit, findOp_commitEnded, hnone]
    exact skips_commitEnded ..
  op o n pos hfind hsrc hdead := by
    simp only [answerCommit, findOp_commitEnded, hfind]
    exact findOp_endWith_ring ((findOp_commitEnded ..).trans hfind) hsrc hdead ..

theorem epochSwitch_takes {d : Dev} {c : CrgCommit} {r : Nat} (hcommit : d.crg.commit = some c) (hready : c.ready = some r) (hr : r ≤ d.pas.count)
    (hmeets : c.target = 0 ∨ r ≤ c.target) (htarget : c.target ≤ d.pas.count) :
    epochSwitch d = answerCommit c St.done 0 (commitEnded d { d.crg with table := c.table, epoch := (d.crg.epoch + 1) % 2 ^ 48, commit := none } c St.done 0
      (c.firstSkip.getD 0)) := by
  simp only [epochSwitch, hcommit, hready, if_pos (And.intro hr (And.intro htarget hmeets))]
  rfl

theorem commitTimeout_misses {d : Dev} {c : CrgCommit} (hcommit : d.crg.commit = some c) (htimed : c.target ≠ 0) (htarget : c.target ≤ d.pas.count)
    (hready : c.ready = none) : commitTimeout d =
      answerCommit c St.timeout 1 (commitEnded d { d.crg with commit := none } c St.timeout 1 (c.failed.getD (c.firstSkip.getD 0))) := by
  simp only [commitTimeout, hcommit, hready]
  exact (if_pos ⟨htimed, htarget, trivial⟩).trans (commitDrop_eq ..)

theorem epochSwitch_of_no_commit {d : Dev} (h : d.crg.commit = none) : epochSwitch d = d := by simp only [epochSwitch, h]

theorem commitTimeout_of_no_commit {d : Dev} (h : d.crg.commit = none) : commitTimeout d = d := by simp only [commitTimeout, h]

end Sys2Proof.Machine

/-! Envelopes sealed and opened, and the basin key's activation (O39): R40, R212 to R217, Table 8.6. -/

namespace Sys2Proof.Machine

/-! ### Results held in a device that an operation has changed (R40) -/

/-- The device e holds a result as d does: the same operations in flight, pass, least release delay and host memory. -/
structure HoldsAs (d e : Dev) : Prop where
  ops : e.ops = d.ops
  count : e.pas.count = d.pas.count
  kmin : rg e Reg.PAS_RQ_KMIN = rg d Reg.PAS_RQ_KMIN
  host : e.host = d.host

theorem HoldsAs.refl (d : Dev) : HoldsAs d d := ⟨rfl, rfl, rfl, rfl⟩

theorem holdsAs_rgAdd (d : Dev) {a : Nat} (h : Reg.PAS_RQ_KMIN ≠ a) (k : Nat) : HoldsAs d (rgAdd d a k) :=
  ⟨rfl, rfl, (rg_rgSet ..).trans (if_neg h), rfl⟩

section Held
variable {d e : Dev} {id : Nat} {o o' : Op} (hfind : findOp d id = some o) (hsame : HoldsAs d e) (hres : ResultOf o o')
include hsame hres

theorem finish_heldOp (hquant : o.quant = true) (hdead : o.dead = false) : finish e o' = setOp e (heldOp d o') := by
  have hheld : heldOp e o' = heldOp d o' := by simp only [heldOp, releaseEdge, hsame.count, hsame.kmin]
  rw [finish_quant (hres.quant.trans hquant) (hres.dead.trans hdead), hheld]

include hfind

/-- The operation is found held to its release edge, and host memory is as it was. -/
theorem held_setOp : findOp (setOp e (heldOp d o')) id = some (heldOp d o') ∧ (heldOp d o').phase = .held ∧ (heldOp d o').dueAt = releaseEdge d o ∧
    (setOp e (heldOp d o')).host = d.host := by
  obtain rfl := findOp_id hfind
  have hops : findOp e o'.id = some o := by rw [hres.id, findOp, hsame.ops]; exact hfind
  refine ⟨?_, rfl, by simp only [heldOp, releaseEdge, Op.rqK, hres.desc], hsame.host⟩
  rw [← hres.id]
  exact findOp_setOp (o := heldOp d o') hops

end Held

/-! ### Little-endian fields (R3) -/

theorem length_leOct (n v : Nat) : (leOct n v).length = n := by
  induction n generalizing v with
  | zero => rfl
  | succ n ih => rw [leOct, List.length_cons, ih]

theorem leNat_leOct (n v : Nat) : leNat (leOct n v) = v % 256 ^ n := by
  induction n generalizing v with
  | zero => rw [leOct, Nat.pow_zero, Nat.mod_one]; rfl
  | succ n ih =>
    have hcons : leNat (leOct (n + 1) v) = (BitVec.ofNat 8 (v % 256)).toNat + 256 * leNat (leOct n (v / 256)) := rfl
    rw [hcons, ih, BitVec.toNat_ofNat, Nat.mod_mod, Nat.pow_succ', Nat.mod_mul]

/-- A field at the front of a string. -/
theorem leAt_leOct_append (n v : Nat) (b : Octets) : leAt (leOct n v ++ b) 0 n = v % 256 ^ n := by
  rw [leAt, slice, List.drop_zero, List.take_left' (length_leOct n v), leNat_leOct]

/-- A field after the front of a string. -/
theorem leAt_append_right {a : Octets} {off : Nat} (h : a.length ≤ off) (b : Octets) (n : Nat) : leAt (a ++ b) off n = leAt b (off - a.length) n := by
  rw [leAt, slice, List.drop_append, List.drop_eq_nil_of_le h, List.nil_append, leAt, slice]

/-- The MAGIC of Table 8.6. -/
def envMagic : Octets := [0x58, 0x4E, 0x43, 0x31]

/-- A string that begins with the header of Table 8.6, up to EPOCH, the rest as it may be. -/
def envelopeOf (kind unit peer ep seq now len epoch : Nat) (rest : Octets) : Octets :=
  envMagic ++ (leOct 2 1 ++ (leOct 1 kind ++ (zeros 1 ++ (leOct 2 unit ++ (leOct 2 peer ++ (leOct 4 ep ++ (leOct 6 seq ++ (zeros 2 ++
    (leOct 6 now ++ (zeros 2 ++ (leOct 4 len ++ (leOct 6 epoch ++ rest))))))))))))

/-- The fields of Table 8.6 as they read back. -/
theorem envelopeOf_fields (kind unit peer ep seq now len epoch : Nat) (rest : Octets) :
    let e := envelopeOf kind unit peer ep seq now len epoch rest
    e.take 4 = [0x58, 0x4E, 0x43, 0x31] ∧ leAt e 4 2 = 1 ∧ leAt e 6 1 = kind % 256 ∧ leAt e 8 2 = unit % 2 ^ 16 ∧ leAt e 10 2 = peer % 2 ^ 16 ∧
      leAt e 16 6 = seq % 2 ^ 48 ∧ leAt e 36 6 = epoch % 2 ^ 48 := by
  have hmagic : envMagic.length = 4 := rfl
  have hzeros (n : Nat) : (zeros n).length = n := List.length_replicate
  refine ⟨rfl, ?_, ?_, ?_, ?_, ?_, ?_⟩ <;>
    simp [envelopeOf, leAt_append_right, leAt_leOct_append, length_leOct, hmagic, hzeros]

/-! ### SEAL (R212, R213) -/

theorem ladderWrite_frame (d : Dev) : ladderWrite d = { d with fls := (ladderWrite d).fls, free := (ladderWrite d).free } := by
  unfold ladderWrite
  split <;> rfl

theorem selfUnit_moncInc (d : Dev) (i : Nat) : selfUnit (moncInc d i) = selfUnit d := (rfl)

theorem epoch_moncInc (d : Dev) (i : Nat) : (moncInc d i).crg.epoch = d.crg.epoch := (rfl)

theorem monc_moncInc (d : Dev) (i : Nat) : tabGet 0 (moncInc d i).keep.monc i = min (2 ^ 48 - 1) (tabGet 0 d.keep.monc i + 1) :=
  (tabGet_tabSet ..).trans (if_pos rfl)

/-- The envelope that a SEAL makes has the header of Table 8.6. -/
theorem sealEnvelope_octets (d : Dev) (o : Op) : ∃ ep now len rest, (sealEnvelope d o).1 =
    envelopeOf o.envKind (selfUnit d) o.peer ep (min (2 ^ 48 - 1) (tabGet 0 d.keep.monc 1 + 1)) now len d.crg.epoch rest := by
  simp only [sealEnvelope, monc_moncInc, selfUnit_moncInc, epoch_moncInc, List.append_assoc]
  exact ⟨_, _, _, _, rfl⟩

/-- Is a SEAL made under the previous basin key? -/
def sealsUnderOld (d : Dev) (o : Op) : Bool := decide (o.envKind = 2) && d.bsn.next.isNone

/-- A device notes that it has sealed under the current key. -/
def noteSealed (old : Bool) (d : Dev) : Dev :=
  if old = true ∨ d.life.sealed = true then d else ladderWrite { d with life := { d.life with sealed := true } }

theorem noteSealed_frame (old : Bool) (d : Dev) : noteSealed old d =
    { d with life := { d.life with sealed := d.life.sealed || !old }, fls := (noteSealed old d).fls, free := (noteSealed old d).free } := by
  have hlife (h : (d.life.sealed || !old) = d.life.sealed) : { d.life with sealed := d.life.sealed || !old } = d.life := by rw [h]
  unfold noteSealed
  split
  next h =>
    rw [hlife (by rcases h with h | h <;> simp [h])]
  next h =>
    obtain ⟨hold, hsealed⟩ := not_or.1 h
    rw [Bool.not_eq_true] at hold hsealed
    rw [ladderWrite_frame, hold, hsealed]
    rfl

theorem sealEnvelope_device (d : Dev) (o : Op) : (sealEnvelope d o).2 = noteSealed (sealsUnderOld d o) (moncInc d 1) := (rfl)

/-- What a SEAL makes: an envelope with the header of Table 8.6, and a device with counter 1 and the mark of a key that has sealed advanced. -/
structure Sealed (d : Dev) (o : Op) (r : Octets × Dev) : Prop where
  same : HoldsAs d r.2
  counter : tabGet 0 r.2.keep.monc 1 = min (2 ^ 48 - 1) (tabGet 0 d.keep.monc 1 + 1)
  life : r.2.life = { d.life with sealed := d.life.sealed || !sealsUnderOld d o }
  header : ∃ ep now len rest,
    r.1 = envelopeOf o.envKind (selfUnit d) o.peer ep (min (2 ^ 48 - 1) (tabGet 0 d.keep.monc 1 + 1)) now len d.crg.epoch rest

theorem sealed_sealEnvelope (d : Dev) (o : Op) : Sealed d o (sealEnvelope d o) where
  same := by
    rw [sealEnvelope_device, noteSealed_frame]
    exact ⟨rfl, rfl, rfl, rfl⟩
  counter := by
    rw [sealEnvelope_device, noteSealed_frame]
    exact monc_moncInc d 1
  life := by
    rw [sealEnvelope_device, noteSealed_frame]
    rfl
  header := sealEnvelope_octets d o

/-! ### ENVELOPE_OPERATION_COMPLETE (R213 to R217) -/

section Complete
variable {d : Dev} {id : Nat} {o : Op} (hfind : findOp d id = some o) (hphase : o.phase = .admitted)
include hfind hphase

theorem envelopeComplete_seal_fails (hop : o.opcode = 0x60) {f : Fail} (hfail : firstFail (sealFails d o) = some f) :
    envelopeComplete id d = finish d { o with status := f.1, sub := f.2, outs := [], resLen := 0 } := by
  simp only [envelopeComplete, hfind, hphase, hop, hfail, ne_eq, not_true_eq_false, if_false, if_true]

theorem envelopeComplete_seal (hop : o.opcode = 0x60) (hpass : firstFail (sealFails d o) = none) :
    envelopeComplete id d = finish (sealEnvelope d o).2
      { o with status := St.done, sub := 0, outs := [(o.envDst, (sealEnvelope d o).1)], resLen := (sealEnvelope d o).1.length } := by
  simp only [envelopeComplete, hfind, hphase, hop, hpass, ne_eq, not_true_eq_false, if_false, if_true]

theorem envelopeComplete_open_fails (hop : o.opcode = 0x61) {f : Fail} (hfail : openEnvFail d o o.input = some f) :
    envelopeComplete id d = finish (rgAdd d Reg.BSN_REJECTS 1) { o with status := f.1, sub := f.2, outs := [], resLen := 0 } := by
  have hopen : ¬ o.opcode = 0x60 := by omega
  simp only [envelopeComplete, hfind, hphase, if_neg hopen, if_pos hop, hfail, ne_eq, not_true_eq_false, if_false]

/-- The operation of an envelope that opens. -/
def openedOp (o : Op) (body : Octets) : Op :=
  let out := decide (3 ≤ envKindOf o.input)
  { o with status := St.done, sub := 0, outs := if out then [(o.envDst, body)] else [], resLen := if out then body.length else 0 }

theorem envelopeComplete_open (hop : o.opcode = 0x61) (hpass : openEnvFail d o o.input = none) {body : Octets} (hbody : envOpen d o.input = some body) :
    envelopeComplete id d = finish (openEnvEffect d o.input body) (openedOp o body) := by
  have hopen : ¬ o.opcode = 0x60 := by omega
  simp only [envelopeComplete, openedOp, hfind, hphase, if_neg hopen, if_pos hop, hpass, hbody, Option.getD_some, ne_eq, not_true_eq_false, if_false]

end Complete

/-! ### An envelope's effect (R214, R215) -/

section Effect
variable (d : Dev) (e body : Octets)

theorem openEnvEffect_frame : openEnvEffect d e body = { d with crg := (openEnvEffect d e body).crg, bsn := (openEnvEffect d e body).bsn } := by
  unfold openEnvEffect
  dsimp only
  split
  · rfl
  · split <;> rfl

theorem seqs_openEnvEffect : tabGet 0 (openEnvEffect d e body).bsn.seqs (envSender e) = envSeq e + 1 := by
  have hset : (openEnvEffect d e body).bsn.seqs = tabSet 0 d.bsn.seqs (envSender e) (envSeq e + 1) := by
    unfold openEnvEffect
    dsimp only
    split
    · rfl
    · split <;> rfl
  rw [hset, tabGet_tabSet, if_pos rfl]

variable {e}

theorem openEnvEffect_deltas (h : envKindOf e = 1) :
    (openEnvEffect d e body).crg.fresh = d.crg.fresh ++ (chunks 64 body).map (deltaOf (some (envSender e))) := by
  simp only [openEnvEffect, if_pos h]
  rfl

theorem openEnvEffect_keyEpoch (h : envKindOf e = 2) : (openEnvEffect d e body).bsn.next = some (slice body 16 32, leAt body 4 6) := by
  have hkind : ¬ envKindOf e = 1 := by omega
  simp only [openEnvEffect, if_neg hkind, if_pos h]

theorem openEnvEffect_delivered (h : 3 ≤ envKindOf e) : (openEnvEffect d e body).crg = d.crg := by
  have h1 : ¬ envKindOf e = 1 := by omega
  have h2 : ¬ envKindOf e = 2 := by omega
  simp only [openEnvEffect, if_neg h1, if_neg h2]

end Effect

/-! ### Rotation (R216) -/

theorem kekActivate_due {d : Dev} {k : Octets} {at_ : Nat} (hnext : d.bsn.next = some (k, at_)) (hdue : (at_ : Int) ≤ siteTime d) :
    kekActivate d = ladderWrite { d with
      life := { d.life with kekBasinOld := d.life.kekBasin, kekBasin := k, kekEpoch := (d.life.kekEpoch + 1) % 2 ^ 32, sealed := false },
      bsn := { d.bsn with next := none, curAt := some at_, blocked := false } } := by
  simp only [kekActivate, hnext, if_pos hdue]

theorem kekActivate_early {d : Dev} {k : Octets} {at_ : Nat} (hnext : d.bsn.next = some (k, at_)) (hearly : siteTime d < at_) : kekActivate d = d := by
  simp only [kekActivate, hnext, if_neg (Int.not_le.2 hearly)]

theorem kekActivate_of_no_next {d : Dev} (hnext : d.bsn.next = none) : kekActivate d = d := by simp only [kekActivate, hnext]

end Sys2Proof.Machine

/-! The proof of O39: the credential register and the basin (R199 to R206, R212 to R216, Tables 8.2, 8.6). -/

namespace Sys2Proof.Machine

/-- Settles O39: lookups and envelopes end in a held result, and each step of a commit and of the rotation takes the branch of its rule. -/
theorem credentialRegisterAndBasin : Obligations.CredentialRegisterAndBasin := by
  refine ⟨?operations, ?verdict, fun s => ?register⟩
  case operations =>
    intro s id o hfind hphase hdead hquant d due held
    refine ⟨fun hop => ?lookup, fun hop => ⟨fun f hfail => ?sealFails, fun hpass => ?seals⟩, fun hop =>
      ⟨fun f hfail => ?openFails, fun body hpass hbody => ?opens⟩⟩
    case lookup =>
      have hsame : HoldsAs d (rgAdd d Reg.CRG_LOOKUPS 1) := holdsAs_rgAdd d (by decide) 1
      have hres : ResultOf o o := ⟨rfl, rfl, rfl, rfl⟩
      exact ⟨_, exec_eq_next rfl ((lookupComplete_of_admitted hfind hphase hop).trans (finish_heldOp hsame hres hquant hdead)),
        held_setOp hfind hsame hres, rfl, (rg_rgSet ..).trans (if_pos rfl)⟩
    case sealFails =>
      have hres : ResultOf o { o with status := f.1, sub := f.2, outs := [], resLen := 0 } := ⟨rfl, rfl, rfl, rfl⟩
      exact ⟨_, _, exec_eq_next rfl ((envelopeComplete_seal_fails hfind hphase hop hfail).trans (finish_heldOp (.refl d) hres hquant hdead)),
        held_setOp hfind (.refl d) hres, rfl, rfl, rfl, rfl⟩
    case seals =>
      intro seq
      have hrun := envelopeComplete_seal hfind hphase hop hpass
      obtain ⟨hsame, hcounter, hlife, ep, now, len, rest, henv⟩ := sealed_sealEnvelope d o
      generalize sealEnvelope s.dev o = r at hrun hsame hcounter hlife henv
      have hres : ResultOf o { o with status := St.done, sub := 0, outs := [(o.envDst, r.1)], resLen := r.1.length } := ⟨rfl, rfl, rfl, rfl⟩
      have hfits : seq % 2 ^ 48 = seq := Nat.mod_eq_of_lt (by omega)
      obtain ⟨hmagic, hversion, hkind, hunit, hpeer, hseq, hepoch⟩ :=
        envelopeOf_fields o.envKind (selfUnit d) o.peer ep seq now len d.crg.epoch rest
      rw [← henv] at hmagic hversion hkind hunit hpeer hseq hepoch
      exact ⟨_, _, r.1, exec_eq_next rfl (hrun.trans (finish_heldOp hsame hres hquant hdead)), held_setOp hfind hsame hres, rfl, rfl, rfl, hcounter, hlife,
        hmagic, hversion, hkind, hunit, hpeer, hseq.trans hfits, hepoch⟩
    case openFails =>
      have hsame : HoldsAs d (rgAdd d Reg.BSN_REJECTS 1) := holdsAs_rgAdd d (by decide) 1
      have hres : ResultOf o { o with status := f.1, sub := f.2, outs := [], resLen := 0 } := ⟨rfl, rfl, rfl, rfl⟩
      exact ⟨_, _, exec_eq_next rfl ((envelopeComplete_open_fails hfind hphase hop hfail).trans (finish_heldOp hsame hres hquant hdead)),
        held_setOp hfind hsame hres, rfl, rfl, rfl, rfl, rfl, (rg_rgSet ..).trans (if_pos rfl)⟩
    case opens =>
      intro sender
      have hsame : HoldsAs d (openEnvEffect d o.input body) := by
        rw [openEnvEffect_frame]
        exact ⟨rfl, rfl, rfl, rfl⟩
      have hres : ResultOf o (openedOp o body) := ⟨rfl, rfl, rfl, rfl⟩
      have hsilent (h : envKindOf o.input < 3) : (openedOp o body).outs = [] := if_neg (by simpa using h)
      refine ⟨_, _, exec_eq_next rfl ((envelopeComplete_open hfind hphase hop hpass hbody).trans (finish_heldOp hsame hres hquant hdead)),
        held_setOp hfind hsame hres, rfl, seqs_openEnvEffect d o.input body, fun h => ⟨hsilent (by omega), openEnvEffect_deltas d body h⟩,
        fun h => ⟨hsilent (by omega), openEnvEffect_keyEpoch d body h⟩, fun h => ⟨?_, ?_, openEnvEffect_delivered d body h⟩⟩
      · exact if_pos (decide_eq_true h)
      · exact if_pos (decide_eq_true h)
  case verdict =>
    intro d o hbudget
    obtain ⟨e, x, hadmit, hstatus, hcrg, hsub, hresult⟩ := lookupAdmit_verdict hbudget
    refine ⟨e, x, hadmit, hstatus, hcrg, ?_⟩
    dsimp only
    split
    next hnone => exact ⟨hsub.trans (by rw [hnone]; rfl), hresult hnone⟩
    next y hsome => exact hsub.trans (by rw [hsome, verdictOf_some])
  case register =>
    intro d origin
    refine ⟨?prepares, fun hnone => ?idle, fun c r hcommit hready hr hmeets htarget => ?switches, fun c hcommit htimed htarget hready => ?misses,
      fun k at_ hnext => ⟨fun hdue => exec_eq_next rfl (kekActivate_due hnext hdue), fun hearly => exec_eq_next rfl (kekActivate_early hnext hearly)⟩,
      fun hnone => exec_eq_next rfl (kekActivate_of_no_next hnone)⟩
    case prepares =>
      intro c key x hcommit hkey hready hfailed hpass hlast hbudget c' gives at_ skip
      have hdone {t : CrgTable} (happly : applyDelta key (d.crg.epoch + 1) (deltaOrigin d x) c x = c.done t) : gives { c' with table := t } :=
        exec_eq_next rfl (deltaPrep_ready hcommit hkey hready hfailed hpass hlast hbudget happly rfl rfl)
      have hskip (happly : applyDelta key (d.crg.epoch + 1) (deltaOrigin d x) c x = c.skipped) : gives skip :=
        exec_eq_next rfl (deltaPrep_ready hcommit hkey hready hfailed hpass hlast hbudget happly rfl rfl)
      refine ⟨fun hop => ⟨fun t hplace => hdone (applyDelta_placed hfailed hop hplace), fun hplace => ?_⟩,
        fun hop hfind => hskip (applyDelta_absent hfailed (by omega) hfind),
        fun p e hop hfind hlook => hdone (applyDelta_removed hfailed hfind hlook hop),
        fun p e hop hfind hlook => ⟨fun huses hamount => hdone (applyDelta_adjusted hfailed hfind hlook hop huses hamount),
          fun hunfit => hskip (applyDelta_unfit hfailed hfind hlook hop hunfit)⟩⟩
      exact exec_eq_next rfl (deltaPrep_full hcommit hkey hready hfailed hpass hlast hbudget (applyDelta_full hfailed hop hplace))
    case idle =>
      exact ⟨exec_eq_next rfl (deltaPrep_of_no_commit hnone), exec_eq_next rfl (epochSwitch_of_no_commit hnone),
        exec_eq_next rfl (commitTimeout_of_no_commit hnone)⟩
    case switches =>
      obtain ⟨hcrg, hskips, hend⟩ := commitEnds d { d.crg with table := c.table, epoch := (d.crg.epoch + 1) % 2 ^ 48, commit := none } c St.done 0
        (c.firstSkip.getD 0)
      refine ⟨_, exec_eq_next rfl (epochSwitch_takes hcommit hready hr hmeets htarget), hcrg, hskips, fun o n pos hfind hsrc hdead => ?_⟩
      obtain ⟨x, hx, hphase, hstatus, -⟩ := hend o n pos hfind hsrc hdead
      exact ⟨x, hx, hphase, hstatus⟩
    case misses =>
      obtain ⟨hcrg, hskips, hend⟩ := commitEnds d { d.crg with commit := none } c St.timeout 1 (c.failed.getD (c.firstSkip.getD 0))
      exact ⟨_, exec_eq_next rfl (commitTimeout_misses hcommit htimed htarget hready), hcrg, hskips, hend⟩

end Sys2Proof.Machine

/-! The field island (O40): what an event of a port leaves alone, and what the end of a grant leaves (R238, R240, Tables 9.3, 9.4, 10.3). -/

namespace Sys2Proof.Machine

/-! ### Ports that are off, and owners of flights (R240, Table 9.2) -/

theorem portOff_iff (d : Dev) (p : Nat) :
    portOff d p = true ↔ bit (rg d (Reg.APT_CTL + 8 * p)) 0 = false ∨ 2 ≤ (part d 4 (p / 16)).state ∨ d.keep.hold = true := by
  simp [portOff, aptEnable, aptCtl, aptReg, outOfService, or_assoc]

theorem flightOwner_lt (d : Dev) (f : Nat) : flightOwner d f < 4 := Nat.mod_lt _ (by decide)

/-! ### An event raised (R240) -/

/-- The device t is d after an event of a port: the register words of the events lost, the events pending and the grants noted apart, nothing has changed. -/
structure Raised (d t : Dev) (p : Nat) (words : List Nat) : Prop where
  frame : t = { d with regs := t.regs, fld := { d.fld with evs := t.fld.evs, grants := t.fld.grants } }
  regs : ∀ a, Reg.FLD_EV_LOST + 4 ≤ a → rg t a = rg d a
  event : (tabGet [] d.fld.evs (flightOwner d (p / 16))).length < 4096 →
    tabGet [] t.fld.evs (flightOwner d (p / 16)) = tabGet [] d.fld.evs (flightOwner d (p / 16)) ++ [⟨p, d.pas.count, words⟩]

theorem raised_pushEvent (d : Dev) (p : Nat) (words : List Nat) : Raised d (pushEvent d p words) p words := by
  have howner := flightOwner_lt d (p / 16)
  dsimp only [pushEvent]
  split
  next hfull => exact ⟨rfl, fun a ha => (rg_rgSet ..).trans (if_neg (by omega)), fun h => absurd h (by omega)⟩
  next => exact ⟨rfl, fun _ _ => rfl, fun _ => (tabGet_tabSet ..).trans (if_pos rfl)⟩

theorem raised_pingEvent (d : Dev) (type p : Nat) (dA dPhi : Int) : Raised d (pingEvent d type p dA dPhi) p
    [type + 16 * p, (dA % 8192).toNat + 8192 * (dPhi % 4096).toNat, d.pas.count % 2 ^ 36, 0] := raised_pushEvent ..

theorem raised_grantEvent (d : Dev) (type p n : Nat) (tie emu : Bool) (reason : Nat) : Raised d (grantEvent d type p n tie emu reason) p
    [type + 16 * p + 2 ^ 12 * n + 2 ^ 17 * b2n tie + 2 ^ 18 * b2n emu + 2 ^ 19 * reason, 0, d.pas.count % 2 ^ 36, 0] := by
  obtain ⟨hframe, hregs, hevent⟩ := raised_pushEvent d p
    [type + 16 * p + 2 ^ 12 * n + 2 ^ 17 * b2n tie + 2 ^ 18 * b2n emu + 2 ^ 19 * reason, 0, d.pas.count % 2 ^ 36, 0]
  dsimp only [grantEvent]
  generalize pushEvent _ _ _ = t at hframe hregs hevent ⊢
  split
  · refine ⟨?_, hregs, hevent⟩
    rw [hframe]
  · exact ⟨hframe, hregs, hevent⟩

section Raised
variable {d t : Dev} {p : Nat} {words : List Nat} (h : Raised d t p words)
include h

theorem Raised.portGet_eq (q : Nat) : portGet t q = portGet d q := by rw [h.frame]; rfl

theorem Raised.chainGet_eq (n : Nat) : chainGet t n = chainGet d n := by rw [h.frame]; rfl

theorem Raised.engGet_eq (e : Nat) : engGet t e = engGet d e := by rw [h.frame]; rfl

theorem Raised.count_eq : t.pas.count = d.pas.count := by rw [h.frame]

theorem Raised.supplyOk_eq : t.fld.supplyOk = d.fld.supplyOk := by rw [h.frame]

theorem Raised.aptCtl_eq (q : Nat) : aptCtl t q = aptCtl d q := h.regs _ (by simp only [aptReg, Reg.FLD_EV_LOST, Reg.APT_CTL]; omega)

theorem Raised.aptAuto_eq (q : Nat) : aptAuto t q = aptAuto d q := congrArg (bit · 1) (h.aptCtl_eq q)

theorem Raised.portOff_eq (q : Nat) : portOff t q = portOff d q := by
  have hout : outOfService t 4 (q / 16) = outOfService d 4 (q / 16) := by rw [h.frame]; rfl
  have hkeep : t.keep = d.keep := by rw [h.frame]
  simp only [portOff, aptEnable, h.aptCtl_eq, hout, hkeep]

end Raised

/-! ### The end of a grant (R238, Table 9.3, Table 10.3) -/

/-- The chain that a grant's end gives back. -/
def Chain.givenBack (c : Chain) (reason pass : Nat) : Chain :=
  let k := cutEntries c (cutStatus reason).1 (cutStatus reason).2 0 pass
  let later := decide (reason = 2) || decide (reason = 5)
  { k with port := none, carrier := false, back := later, tie := if later then c.tie else false,
           window := none, held := none, timer := none, armed := none, ident := none, emuState := 0, card := 0, stale := [] }

/-- The port whose grant has ended. -/
def Port.ungranted (x : Port) (off : Bool) (pass : Nat) : Port :=
  { x with chain := 0, linger := pass, clear := false, state := if off then 4 else 3 }

/-- A grant that neither HOLD nor a fence ends leaves its port in LINGER, or DISABLED where Table 9.2 disables it. -/
theorem endGrant_of_granted {d : Dev} {p reason : Nat} (hstate : (portGet d p).state = 2) (hreason : reason ∉ [3, 4, 6]) :
    endGrant p reason d =
      portSet (chainSet (grantEvent d 4 p (portGet d p).chain (chainGet d (portGet d p).chain).tie (chainGet d (portGet d p).chain).emu reason)
        (portGet d p).chain ((chainGet d (portGet d p).chain).givenBack reason d.pas.count)) p ((portGet d p).ungranted (portOff d p) d.pas.count) := by
  have hraised := raised_grantEvent d 4 p (portGet d p).chain (chainGet d (portGet d p).chain).tie (chainGet d (portGet d p).chain).emu reason
  have hoff : ∀ k : Chain, portOff (chainSet (grantEvent d 4 p (portGet d p).chain (chainGet d (portGet d p).chain).tie
      (chainGet d (portGet d p).chain).emu reason) (portGet d p).chain k) p = portOff d p := fun _ => hraised.portOff_eq p
  obtain ⟨hfenced, hheld, hdisabled⟩ : reason ≠ 3 ∧ reason ≠ 4 ∧ reason ≠ 6 := by simpa using hreason
  simp only [endGrant, hstate, ne_eq, not_true_eq_false, if_false, hheld, hdisabled, or_self, hfenced, false_and, chainSet_pas, hraised.count_eq, hoff,
    Port.ungranted]
  split <;> rfl

/-- The device e stands to a port's grant as d does: what has changed since is no part of the grant's end. -/
structure SameGrant (d e : Dev) (p : Nat) : Prop where
  count : e.pas.count = d.pas.count
  off : portOff e p = portOff d p
  owner : flightOwner e (p / 16) = flightOwner d (p / 16)
  events : e.fld.evs = d.fld.evs
  chain : (portGet e p).chain = (portGet d p).chain
  held : ∃ tuned, chainGet e (portGet d p).chain = { chainGet d (portGet d p).chain with tuned := tuned }
  ports : ∀ q, q ≠ p → portGet e q = portGet d q
  chains : ∀ k, k ≠ (portGet d p).chain → chainGet e k = chainGet d k

theorem SameGrant.refl (d : Dev) (p : Nat) : SameGrant d d p := ⟨rfl, rfl, rfl, rfl, rfl, ⟨_, rfl⟩, fun _ _ => rfl, fun _ _ => rfl⟩

/-- The device t is d after the end of a port's grant for a reason, its entries cut off with a status. -/
structure GrantEnded (d t : Dev) (p reason st sub : Nat) : Prop where
  chain : (portGet t p).chain = 0
  linger : (portGet t p).linger = d.pas.count
  state : (portGet t p).state = if portOff d p = true then 4 else 3
  port : (chainGet t (portGet d p).chain).port = none
  carrier : (chainGet t (portGet d p).chain).carrier = false
  endp : (chainGet t (portGet d p).chain).endp =
    (chainGet d (portGet d p).chain).tailNext.getD (chainGet d (portGet d p).chain).tail
  cut : ∃ l, (chainGet t (portGet d p).chain).done = (chainGet d (portGet d p).chain).done ++ l ∧
    l.length = (entriesTo 16 (chainGet d (portGet d p).chain).endp
      ((chainGet d (portGet d p).chain).tailNext.getD (chainGet d (portGet d p).chain).tail)).length ∧
    ∀ r ∈ l, r.st = st ∧ r.sub = sub
  event : (tabGet [] d.fld.evs (flightOwner d (p / 16))).length < 4096 →
    tabGet [] t.fld.evs (flightOwner d (p / 16)) = tabGet [] d.fld.evs (flightOwner d (p / 16)) ++
      [⟨p, d.pas.count, [4 + 16 * p + 2 ^ 12 * (portGet d p).chain + 2 ^ 17 * b2n (chainGet d (portGet d p).chain).tie +
        2 ^ 18 * b2n (chainGet d (portGet d p).chain).emu + 2 ^ 19 * reason, 0, d.pas.count % 2 ^ 36, 0]⟩]
  ports : ∀ q, q ≠ p → portGet t q = portGet d q
  chains : ∀ k, k ≠ (portGet d p).chain → chainGet t k = chainGet d k

/-- The entries that a chain given back has cut off, and where it stands (R256). -/
theorem givenBack_cut (c : Chain) (reason pass : Nat) :
    (c.givenBack reason pass).endp = c.tailNext.getD c.tail ∧ ∃ l, (c.givenBack reason pass).done = c.done ++ l ∧
      l.length = (entriesTo 16 c.endp (c.tailNext.getD c.tail)).length ∧ ∀ r ∈ l, r.st = (cutStatus reason).1 ∧ r.sub = (cutStatus reason).2 := by
  refine ⟨rfl, _, rfl, List.length_map _, fun r hr => ?_⟩
  obtain ⟨_, _, rfl⟩ := List.mem_map.1 hr
  exact ⟨rfl, rfl⟩

/-- The end of a grant, in a device that stands to it as d does. -/
theorem SameGrant.grantEnded {d e : Dev} {p reason : Nat} (h : SameGrant d e p) (hstate : (portGet e p).state = 2) (hreason : reason ∉ [3, 4, 6]) :
    GrantEnded d (endGrant p reason e) p reason (cutStatus reason).1 (cutStatus reason).2 ∧
      (portGet (endGrant p reason e) p).mismatch = (portGet e p).mismatch := by
  obtain ⟨hcount, hoff, howner, hevents, hchain, ⟨tuned, hheld⟩, hports, hchains⟩ := h
  have hraised := raised_grantEvent e 4 p (portGet e p).chain (chainGet e (portGet e p).chain).tie (chainGet e (portGet e p).chain).emu reason
  have hevent := hraised.event
  obtain ⟨hendp, hcut⟩ := givenBack_cut (chainGet e (portGet e p).chain) reason e.pas.count
  have hport : portGet (endGrant p reason e) p = (portGet e p).ungranted (portOff e p) e.pas.count := by
    rw [endGrant_of_granted hstate hreason, portGet_portSet, if_pos rfl]
  have hback : chainGet (endGrant p reason e) (portGet d p).chain = (chainGet e (portGet e p).chain).givenBack reason e.pas.count := by
    rw [endGrant_of_granted hstate hreason, ← hchain]
    exact (chainGet_chainSet ..).trans (if_pos rfl)
  rw [hchain, hheld] at hevent hendp hcut
  rw [hcount, howner, hevents] at hevent
  refine ⟨⟨by rw [hport]; rfl, by rw [hport, ← hcount]; rfl, by rw [hport, ← hoff]; rfl, by rw [hback]; rfl, by rw [hback]; rfl,
    ?endp, ?cut, ?event, ?ports, ?chains⟩, by rw [hport]; rfl⟩
  case endp => rw [hback, hchain, hheld]; exact hendp
  case cut => rw [hback, hchain, hheld]; exact hcut
  case event =>
    rw [endGrant_of_granted hstate hreason, hchain, hheld]
    exact hevent
  case ports =>
    intro q hq
    rw [endGrant_of_granted hstate hreason, portGet_portSet, if_neg hq]
    exact (hraised.portGet_eq q).trans (hports q hq)
  case chains =>
    intro k hk
    rw [endGrant_of_granted hstate hreason]
    refine ((chainGet_chainSet ..).trans (if_neg (hchain ▸ hk))).trans ((hraised.chainGet_eq k).trans (hchains k hk))

/-- The end of a grant that stands. -/
theorem grantEnded_endGrant {d : Dev} {p reason : Nat} (hstate : (portGet d p).state = 2) (hreason : reason ∉ [3, 4, 6]) :
    GrantEnded d (endGrant p reason d) p reason (cutStatus reason).1 (cutStatus reason).2 :=
  ((SameGrant.refl d p).grantEnded hstate hreason).1

end Sys2Proof.Machine

/-! The field island (O40): sweeps, pings and baselines, LINGER, flights ready, and requests (R228 to R234, R244, Table 9.2). -/

namespace Sys2Proof.Machine

/-! ### Sweeps (R229) -/

theorem sweepStart_begins {d : Dev} {e : Nat} (he : e < 16) (hruns : engRuns d e = true)
    (hphase : d.pas.count % rn d (Reg.PNG_PERIOD + 4 * e) = rn d (Reg.PNG_PHASE + 4 * e)) (hbegun : (engGet d e).begun ≠ some d.pas.count) :
    sweepStart e d = engSet d e { engGet d e with
      sweep := List.range 16, begun := some d.pas.count, sweeps := min (2 ^ 30 - 1) ((engGet d e).sweeps + 1) } :=
  if_pos ⟨he, hruns, hphase, hbegun⟩

theorem sweepStart_of_other_phase {d : Dev} {e : Nat}
    (hphase : d.pas.count % rn d (Reg.PNG_PERIOD + 4 * e) ≠ rn d (Reg.PNG_PHASE + 4 * e)) : sweepStart e d = d :=
  if_neg fun ⟨_, _, h, _⟩ => hphase h

/-! ### Pings (R228 to R231, Table 9.2) -/

/-- The engine after a slot of its sweep. -/
def PingEngine.slot (g : PingEngine) (j : Nat) (rest : List Nat) : PingEngine := { g with sweep := rest, used := g.used + 1, last := j }

theorem ping_slot {d : Dev} {e j a phi : Nat} {rest : List Nat} (he : e < 16) (hruns : engRuns d e = true) (hused : (engGet d e).used < 2)
    (hsweep : (engGet d e).sweep = j :: rest) (hport : pingable d (16 * e + j) = true) (ha : a < 4096) (hphi : phi < 4096) :
    ping e a phi d = pingResult (engSet d e ((engGet d e).slot j rest)) (16 * e + j) a phi := by
  have hnext : (j :: rest).dropWhile (fun i => !pingable d (16 * e + i)) = j :: rest := List.dropWhile_cons_of_neg (by simp [hport])
  simp only [ping, he, hruns, hused, and_self, not_true_eq_false, if_false, hsweep, hnext, Nat.mod_eq_of_lt ha, Nat.mod_eq_of_lt hphi, PingEngine.slot]

theorem pingDetects_iff (d : Dev) (p : Nat) (x : Int × Int) : pingDetects d p x = true ↔
    fld (rg d (Reg.APT_CTL + 8 * p + 3)) 11 0 ≤ x.1.natAbs ∨ fld (rg d (Reg.APT_CTL + 8 * p + 3)) 23 12 ≤ x.2.natAbs :=
  Bool.or_eq_true_iff.trans (or_congr decide_eq_true_iff decide_eq_true_iff)

theorem pingClear_iff (d : Dev) (p : Nat) (x : Int × Int) : pingClear d p x = true ↔
    x.1.natAbs < fld (rg d (Reg.APT_CTL + 8 * p + 3)) 11 0 / 2 ∧ x.2.natAbs < fld (rg d (Reg.APT_CTL + 8 * p + 3)) 23 12 / 2 :=
  (Bool.and_eq_true_iff ..).trans (and_congr decide_eq_true_iff decide_eq_true_iff)

section PingResult
variable {d : Dev} {p a phi : Nat} {b : Nat × Nat} (hbase : (portGet d p).base = some b)
include hbase

theorem pingResult_presence (hstate : (portGet d p).state = 0) (hfound : pingDetects d p (pingDiff b a phi) = true)
    (hready : flightReady d (p / 16) = true) :
    ∃ t, Raised d t p [1 + 16 * p, ((pingDiff b a phi).1 % 8192).toNat + 8192 * ((pingDiff b a phi).2 % 4096).toNat, d.pas.count % 2 ^ 36, 0] ∧
      pingResult d p a phi =
        if aptAuto d p = true then portSet t p { portGet d p with state := 1, reqEmu := false, reqAt := d.pas.count } else t := by
  have hraised := raised_pingEvent d 1 p (pingDiff b a phi).1 (pingDiff b a phi).2
  refine ⟨_, hraised, ?_⟩
  simp only [pingResult, hbase, hstate, hfound, hready, if_true, not_true_eq_false, if_false, hraised.aptAuto_eq, hraised.count_eq]

theorem pingResult_of_not_ready (hstate : (portGet d p).state = 0) (hfound : pingDetects d p (pingDiff b a phi) = true)
    (hready : flightReady d (p / 16) = false) : pingResult d p a phi = d := by
  simp [pingResult, hbase, hstate, hfound, hready]

theorem pingResult_moves (hstate : (portGet d p).state = 0) (hfound : ¬ pingDetects d p (pingDiff b a phi) = true)
    (hclear : pingClear d p (pingDiff b a phi) = true) : pingResult d p a phi =
      portSet d p { portGet d p with base := some (moveBase (rn d (Reg.PNG_SHIFT + 4 * (p / 16))) b (pingDiff b a phi)) } := by
  simp [pingResult, hbase, hstate, hfound, hclear]

theorem pingResult_of_neither (hstate : (portGet d p).state = 0) (hfound : ¬ pingDetects d p (pingDiff b a phi) = true)
    (hclear : ¬ pingClear d p (pingDiff b a phi) = true) : pingResult d p a phi = d := by
  simp [pingResult, hbase, hstate, hfound, hclear]

theorem pingResult_vacated (hstate : (portGet d p).state = 1) (hclear : pingClear d p (pingDiff b a phi) = true) :
    pingResult d p a phi = pingEvent (portSet d p { portGet d p with state := 0 }) 2 p (pingDiff b a phi).1 (pingDiff b a phi).2 := by
  simp [pingResult, hbase, hstate, hclear]

theorem pingResult_of_present (hstate : (portGet d p).state = 1) (hclear : ¬ pingClear d p (pingDiff b a phi) = true) :
    pingResult d p a phi = d := by
  simp [pingResult, hbase, hstate, hclear]

theorem pingResult_lingers (hstate : (portGet d p).state = 3) (hclear : pingClear d p (pingDiff b a phi) = true) :
    pingResult d p a phi = portSet d p { portGet d p with clear := true } := by
  simp [pingResult, hbase, hstate, hclear]

end PingResult

/-! ### Baseline pings (R231) -/

/-- The port after one more baseline ping: the eighth sets its baseline. -/
def Port.baselined (x : Port) (a phi : Nat) : Port :=
  if x.bases.length < 7 then { x with bases := x.bases ++ [(a, phi)] }
  else { x with bases := [], base := some (meanBase (x.bases ++ [(a, phi)])), state := 0 }

theorem baselinePing_takes {d : Dev} {e p a phi : Nat} (he : e < 16) (hflight : p / 16 = e) (hruns : engRuns d e = true)
    (hused : (engGet d e).used < 2) (hsweep : (engGet d e).sweep = []) (hneeds : needsBase d p = true) (ha : a < 4096) (hphi : phi < 4096) :
    baselinePing e p a phi d = portSet (engSet d e { engGet d e with used := (engGet d e).used + 1, last := p % 16 }) p
      ((portGet d p).baselined a phi) := by
  have hport : ∀ g, portGet (engSet d e g) p = portGet d p := fun _ => rfl
  have heighth : (portGet d p).bases.length + 1 < 8 ↔ (portGet d p).bases.length < 7 := by omega
  simp only [baselinePing, he, hruns, hused, hflight, hneeds, hsweep, List.any_nil, Bool.false_eq_true, not_false_eq_true, and_self, not_true_eq_false,
    if_false, hport, Nat.mod_eq_of_lt ha, Nat.mod_eq_of_lt hphi, List.length_append, List.length_singleton, heighth, Port.baselined]
  split <;> rfl

/-! ### LINGER, and flights ready (R232, R244) -/

theorem lingerExpiry_due {d : Dev} {p : Nat} (hstate : (portGet d p).state = 3)
    (hdue : (portGet d p).linger + rn d (Reg.APT_CTL + 8 * p + 4) % 2 ^ 32 ≤ d.pas.count) :
    lingerExpiry p d = portSet d p { portGet d p with state := 0 } := if_pos ⟨hstate, hdue⟩

theorem lingerExpiry_of_not_due {d : Dev} {p : Nat}
    (h : (portGet d p).state ≠ 3 ∨ d.pas.count < (portGet d p).linger + rn d (Reg.APT_CTL + 8 * p + 4) % 2 ^ 32) : lingerExpiry p d = d :=
  if_neg fun hdue => h.elim (· hdue.1) (Nat.not_lt.2 hdue.2)

theorem flightReadyNow_of_calibrated {d : Dev} {f : Nat} (hf : f < 16) (hup : portsUp d = true) (hfirst : (chainGet d (2 * f)).cal = true)
    (hsecond : (chainGet d (2 * f + 1)).cal = true)
    (hbase : ∀ j, j < 16 → bit (rg d (Reg.APT_CTL + 8 * (16 * f + j))) 0 = true → (portGet d (16 * f + j)).base.isSome = true) :
    flightReadyNow f d = { d with fld := { d.fld with ready := tabSet false d.fld.ready f true } } := by
  have hports : (List.range 16).all (fun j => !aptEnable d (16 * f + j) || (portGet d (16 * f + j)).base.isSome) = true := by
    rw [List.all_eq_true]
    intro j hj
    rw [Bool.or_eq_true, Bool.not_eq_true']
    cases hon : aptEnable d (16 * f + j) with
    | false => exact .inl rfl
    | true => exact .inr (hbase j (List.mem_range.1 hj) hon)
  simp only [flightReadyNow, hf, hup, hports, List.all_cons, List.all_nil, hfirst, hsecond, Bool.true_or, Bool.and_self, and_self, if_true]

/-! ### Requests (R234) -/

/-- The word of FLD_REQ that names a port, a mode and an action. -/
theorem reqWord_toNat {p mode act : Nat} (hp : p < 256) (hmode : mode < 2) (hact : act < 4) :
    (reqWord p mode act).toNat % 2 ^ 11 = p + 256 * mode + 512 * act := by
  simp only [reqWord, pack, wd, List.foldl_cons, List.foldl_nil, Nat.shiftLeft_eq, BitVec.toNat_ofNat]
  omega

theorem fldReqWrite_taken {d : Dev} {m p mode act : Nat} (hm : isF m = true) (hp : p < 256) (hmode : mode < 2) (hact : act < 4) :
    fldReqWrite m (reqWord p mode act) d = { d with fld := { d.fld with reqs := d.fld.reqs ++ [(m, p + 256 * mode + 512 * act)] } } := by
  rw [fldReqWrite, if_pos hm, reqWord_toNat hp hmode hact]

section ApplyReq
variable {d : Dev} {m p mode act : Nat} (hp : p < 256) (hmode : mode < 2) (hact : act < 4)
include hp hmode

include hact in
/-- A request by the fields of its word. -/
theorem applyReq_fields : applyReq d (m, p + 256 * mode + 512 * act) =
    if m ≠ 0x20 + flightOwner d (p / 16) ∨ (portGet d p).state = 4 ∨ act = 0 then reqDrop d m
    else if act = 1 then
      if (portGet d p).mismatch = true ∨ (portGet d p).state = 2 then reqDrop d m
      else portSet d p { portGet d p with state := 1, reqEmu := decide (mode = 1), reqAt := d.pas.count }
    else if act = 2 then (if (portGet d p).state = 2 then endGrant p 0 d else reqDrop d m)
    else if (portGet d p).state = 1 then portSet d p { portGet d p with state := 3, linger := d.pas.count, clear := false }
    else reqDrop d m := by
  have hport : (p + 256 * mode + 512 * act) % 256 = p := by omega
  have hemu : nfld (p + 256 * mode + 512 * act) 8 8 = mode := by simp only [nfld, Nat.shiftRight_eq_div_pow]; omega
  have hdo : nfld (p + 256 * mode + 512 * act) 10 9 = act := by simp only [nfld, Nat.shiftRight_eq_div_pow]; omega
  simp only [applyReq, hport, hemu, hdo]

include hact in
theorem applyReq_of_not_governing (h : m ≠ 0x20 + flightOwner d (p / 16) ∨ (portGet d p).state = 4) :
    applyReq d (m, p + 256 * mode + 512 * act) = reqDrop d m := by
  rw [applyReq_fields hp hmode hact, if_pos (h.imp_right .inl)]

variable (howner : m = 0x20 + flightOwner d (p / 16)) (hon : (portGet d p).state ≠ 4)
include howner hon

include hact in
/-- What the port's owner asks of a port that is not DISABLED. -/
theorem applyReq_of_governing (hnamed : act ≠ 0) : applyReq d (m, p + 256 * mode + 512 * act) =
    if act = 1 then
      if (portGet d p).mismatch = true ∨ (portGet d p).state = 2 then reqDrop d m
      else portSet d p { portGet d p with state := 1, reqEmu := decide (mode = 1), reqAt := d.pas.count }
    else if act = 2 then (if (portGet d p).state = 2 then endGrant p 0 d else reqDrop d m)
    else if (portGet d p).state = 1 then portSet d p { portGet d p with state := 3, linger := d.pas.count, clear := false }
    else reqDrop d m := by
  rw [applyReq_fields hp hmode hact, if_neg (by simp [howner, hon, hnamed])]

theorem applyReq_request : applyReq d (m, p + 256 * mode + 512 * 1) =
    if (portGet d p).mismatch = true ∨ (portGet d p).state = 2 then reqDrop d m
    else portSet d p { portGet d p with state := 1, reqEmu := decide (mode = 1), reqAt := d.pas.count } :=
  applyReq_of_governing hp hmode (by decide) howner hon (by decide)

theorem applyReq_release : applyReq d (m, p + 256 * mode + 512 * 2) =
    if (portGet d p).state = 2 then endGrant p 0 d else reqDrop d m :=
  applyReq_of_governing hp hmode (by decide) howner hon (by decide)

theorem applyReq_withdraw : applyReq d (m, p + 256 * mode + 512 * 3) =
    if (portGet d p).state = 1 then portSet d p { portGet d p with state := 3, linger := d.pas.count, clear := false } else reqDrop d m :=
  applyReq_of_governing hp hmode (by decide) howner hon (by decide)

end ApplyReq

end Sys2Proof.Machine

/-! The field island (O40): ceilings, tuning, mismatch and the supply (R224, R225, R237, R243). -/

namespace Sys2Proof.Machine

/-! ### Ceilings and settling (R224, R237) -/

theorem grantCeiling_reached {d : Dev} {p : Nat} (hstate : (portGet d p).state = 2)
    (hreached : (chainGet d (portGet d p).chain).ceilAt ≤ d.pas.count) : grantCeiling p d = endGrant p 1 d := if_pos ⟨hstate, hreached⟩

theorem grantCeiling_of_not_reached {d : Dev} {p : Nat}
    (h : (portGet d p).state ≠ 2 ∨ d.pas.count < (chainGet d (portGet d p).chain).ceilAt) : grantCeiling p d = d :=
  if_neg fun hreached => h.elim (· hreached.1) (Nat.not_lt.2 hreached.2)

theorem settleEnd_due {d : Dev} {n p : Nat} (hport : (chainGet d n).port = some p) (hdue : (chainGet d n).settleAt ≤ d.pas.count) :
    settleEnd n d = chainSet d n { chainGet d n with settled := true } := if_pos ⟨by rw [hport]; rfl, hdue⟩

theorem settleEnd_of_not_due {d : Dev} {n : Nat} (h : (chainGet d n).port = none ∨ d.pas.count < (chainGet d n).settleAt) : settleEnd n d = d := by
  refine if_neg fun hdue => h.elim (fun hnone => ?_) (Nat.not_lt.2 hdue.2)
  rw [hnone] at hdue
  exact absurd hdue.1 (by decide)

/-! ### MISMATCH (R225) -/

section OtherRegs
variable {d e : Dev} {p : Nat} (hp : p < 256) (hregs : ∀ a, a < Reg.CHN_MISMATCHES → rg e a = rg d a)
include hp hregs

theorem portOff_of_regs (hparts : e.pas = d.pas) (hkeep : e.keep = d.keep) : portOff e p = portOff d p := by
  rw [Bool.eq_iff_iff, portOff_iff, portOff_iff, hregs _ (by simp only [Reg.APT_CTL, Reg.CHN_MISMATCHES]; omega), part, hparts, hkeep, part]

theorem flightOwner_of_regs : flightOwner e (p / 16) = flightOwner d (p / 16) :=
  congrArg (fld · 1 0) (hregs _ (by simp only [Reg.FLD_FLIGHT_CTL, Reg.CHN_MISMATCHES]; omega))

end OtherRegs

/-- The device with a port marked for a mismatch on a chain, and the mismatch counted. -/
def mismatched (n p : Nat) (d : Dev) : Dev := rgAdd (portSet d p { portGet d p with mismatch := true }) (Reg.CHN_MISMATCHES + 16 * n) 1

theorem portGet_mismatched (n p q : Nat) (d : Dev) :
    portGet (mismatched n p d) q = if q = p then { portGet d p with mismatch := true } else portGet d q := portGet_portSet ..

theorem SameGrant.mismatched {d e : Dev} {p : Nat} (hp : p < 256) (h : SameGrant d e p) (n : Nat) : SameGrant d (mismatched n p e) p := by
  have hregs : ∀ a, a < Reg.CHN_MISMATCHES → rg (Machine.mismatched n p e) a = rg e a := fun a ha => (rg_rgSet ..).trans (if_neg (by omega))
  exact
    { count := h.count
      off := (portOff_of_regs hp hregs rfl rfl).trans h.off
      owner := (flightOwner_of_regs hp hregs).trans h.owner
      events := h.events
      chain := by rw [portGet_mismatched, if_pos rfl]; exact h.chain
      held := h.held
      ports := fun q hq => by rw [portGet_mismatched, if_neg hq]; exact h.ports q hq
      chains := h.chains }

theorem mismatchEnd_of_port {d : Dev} {n p : Nat} (hport : (chainGet d n).port = some p) : mismatchEnd n d = endGrant p 2 (mismatched n p d) := by
  simp only [mismatchEnd, hport, mismatched]

/-- A mismatch ends the grant of the port that the chain holds, and marks the port. -/
theorem SameGrant.mismatchEnd {d e : Dev} {n p : Nat} (h : SameGrant d e p) (hp : p < 256) (hport : (chainGet e n).port = some p)
    (hstate : (portGet e p).state = 2) :
    GrantEnded d (mismatchEnd n e) p 2 St.aborted 0x11 ∧ (portGet (mismatchEnd n e) p).mismatch = true := by
  have hmarked := (portGet_mismatched n p p e).trans (if_pos rfl)
  obtain ⟨hended, hmismatch⟩ := (h.mismatched hp n).grantEnded (reason := 2) (by rw [hmarked]; exact hstate) (by decide)
  rw [mismatchEnd_of_port hport]
  exact ⟨hended, hmismatch.trans (by rw [hmarked])⟩

/-! ### Tuning, and the VSWR of a grant (R224, R225) -/

/-- A chain whose tuning has ended, with its port's codes. -/
def tuned (d : Dev) (n p ser shu vswr fwd refl : Nat) : Dev :=
  chainSet (portSet (setPowers n fwd refl d) p { portGet d p with ser := ser, shu := shu, vswr := min 255 vswr }) n { chainGet d n with tuned := true }

section Tuning
variable {d : Dev} {n p ser shu vswr fwd refl : Nat}

theorem tuningComplete_ends (hport : (chainGet d n).port = some p) (hreader : (chainGet d n).emu = false) (huntuned : (chainGet d n).tuned = false)
    (hser : ser < 64) (hshu : shu < 64) : tuningComplete n ser shu vswr fwd refl d =
      if 30 < vswr then mismatchEnd n (tuned d n p ser shu vswr fwd refl) else tuned d n p ser shu vswr fwd refl := by
  dsimp only [tuningComplete]
  split
  next q hq =>
    obtain rfl : q = p := Option.some.inj (hq.symm.trans hport)
    rw [if_neg (by simp [hreader, huntuned]), Nat.mod_eq_of_lt hser, Nat.mod_eq_of_lt hshu]
    rfl
  next hnone => exact absurd (hport.symm.trans hnone) (by simp)

theorem portGet_tuned (q : Nat) : portGet (tuned d n p ser shu vswr fwd refl) q =
    if q = p then { portGet d p with ser := ser, shu := shu, vswr := min 255 vswr } else portGet d q := portGet_portSet ..

theorem chainGet_tuned (k : Nat) : chainGet (tuned d n p ser shu vswr fwd refl) k =
    if k = n then { chainGet d n with tuned := true } else chainGet d k := chainGet_chainSet ..

theorem rg_setPowers (a : Nat) : rg (setPowers n fwd refl d) a =
    if a = Reg.CHN_REFL + 16 * n then wd refl else if a = Reg.CHN_FWD + 16 * n then wd fwd else rg d a := by
  rw [setPowers, rg_rgSet, rg_rgSet]

theorem sameGrant_tuned (hp : p < 256) : SameGrant d (tuned d (portGet d p).chain p ser shu vswr fwd refl) p := by
  have hregs : ∀ a, a < Reg.CHN_MISMATCHES → rg (tuned d (portGet d p).chain p ser shu vswr fwd refl) a = rg d a := fun a ha => by
    simp only [Reg.CHN_MISMATCHES] at ha
    refine (rg_setPowers a).trans ?_
    rw [if_neg (by simp only [Reg.CHN_REFL]; omega), if_neg (by simp only [Reg.CHN_FWD]; omega)]
  exact
    { count := rfl
      off := portOff_of_regs hp hregs rfl rfl
      owner := flightOwner_of_regs hp hregs
      events := rfl
      chain := by rw [portGet_tuned, if_pos rfl]
      held := ⟨true, (chainGet_tuned _).trans (if_pos rfl)⟩
      ports := fun q hq => (portGet_tuned q).trans (if_neg hq)
      chains := fun k hk => (chainGet_tuned k).trans (if_neg hk) }

end Tuning

section Vswr
variable {d : Dev} {n p v w : Nat}

theorem vswrMismatch_measures (hport : (chainGet d n).port = some p) (hreader : (chainGet d n).emu = false) : vswrMismatch n v w d =
    if 60 < v ∧ 60 < w then mismatchEnd n (portSet d p { portGet d p with vswr := min 255 w })
    else portSet d p { portGet d p with vswr := min 255 w } := by
  simp only [vswrMismatch, hport, hreader, Bool.false_eq_true, if_false]

theorem sameGrant_vswr : SameGrant d (portSet d p { portGet d p with vswr := w }) p where
  count := rfl
  off := rfl
  owner := rfl
  events := rfl
  chain := by rw [portGet_portSet, if_pos rfl]
  held := ⟨_, rfl⟩
  ports := fun q hq => (portGet_portSet ..).trans (if_neg hq)
  chains := fun _ _ => rfl

end Vswr

theorem aptClear_clears {d : Dev} {m p : Nat} {v : Word} (hm : isF m = true) (hp : p < 256) (hv : bit v 0 = true) :
    aptClear m p v d = portSet d p { portGet d p with mismatch := false } := if_pos ⟨hm, hp, hv⟩

end Sys2Proof.Machine

/-! The field island (O40): the converter's supply, its tamper sources, and the grants it ends (R243, R361, R365). -/

namespace Sys2Proof.Machine

/-! ### Bits of a word with a field replaced -/

/-- A word is its bits above a field, the field, and its bits below; replacing the field keeps the other two. -/
theorem setFld_eq (w : Word) (hi lo v : Nat) : setFld w hi lo v =
    wd (w.toNat / 2 ^ (lo + (hi + 1 - lo)) * 2 ^ (lo + (hi + 1 - lo)) + v % 2 ^ (hi + 1 - lo) * 2 ^ lo + w.toNat % 2 ^ lo) := by
  simp only [setFld, fld, nfld, Nat.shiftLeft_eq, Nat.shiftRight_eq_div_pow]
  generalize hi + 1 - lo = k
  have hlow := Nat.div_add_mod w.toNat (2 ^ lo)
  have hhigh := Nat.div_add_mod (w.toNat / 2 ^ lo) (2 ^ k)
  rw [Nat.div_div_eq_div_mul, ← Nat.pow_add] at hhigh
  have hsplit : w.toNat = w.toNat / 2 ^ (lo + k) * 2 ^ (lo + k) + w.toNat / 2 ^ lo % 2 ^ k * 2 ^ lo + w.toNat % 2 ^ lo :=
    calc w.toNat = 2 ^ lo * (w.toNat / 2 ^ lo) + w.toNat % 2 ^ lo := hlow.symm
      _ = 2 ^ lo * (2 ^ k * (w.toNat / 2 ^ (lo + k)) + w.toNat / 2 ^ lo % 2 ^ k) + w.toNat % 2 ^ lo := by rw [hhigh]
      _ = w.toNat / 2 ^ (lo + k) * (2 ^ lo * 2 ^ k) + w.toNat / 2 ^ lo % 2 ^ k * 2 ^ lo + w.toNat % 2 ^ lo := by ring
      _ = _ := by rw [← Nat.pow_add]
  congr 1
  omega

theorem bit_wd {i : Nat} (hi : i < 36) (n : Nat) : bit (wd n) i = n.testBit i := by
  rw [bit, wd, BitVec.getLsbD_ofNat, decide_eq_true hi, Bool.true_and]

theorem bit_eq_testBit (w : Word) (i : Nat) : bit w i = w.toNat.testBit i := rfl

/-- Bits below a field that is replaced. -/
theorem bit_setFld_of_lt {w : Word} {hi lo i : Nat} (v : Nat) (hlo : i < lo) (hword : i < 36) : bit (setFld w hi lo v) i = bit w i := by
  have hlow : ∀ a b r : Nat, (a * 2 ^ (lo + (hi + 1 - lo)) + b * 2 ^ lo + r % 2 ^ lo) % 2 ^ lo = r % 2 ^ lo := fun a b r => by
    rw [Nat.pow_add, show a * (2 ^ lo * 2 ^ (hi + 1 - lo)) + b * 2 ^ lo = 2 ^ lo * (a * 2 ^ (hi + 1 - lo) + b) by ring, Nat.mul_add_mod, Nat.mod_mod]
  have hbit : ∀ n : Nat, (n % 2 ^ lo).testBit i = n.testBit i := fun n => by
    rw [Nat.testBit_mod_two_pow, decide_eq_true hlo, Bool.true_and]
  rw [setFld_eq, bit_wd hword, bit_eq_testBit, ← hbit, hlow, hbit]

/-- Bits above a field that is replaced. -/
theorem bit_setFld_of_gt {w : Word} {hi lo i : Nat} (v : Nat) (hfield : lo ≤ hi + 1) (hhi : hi < i) (hword : i < 36) :
    bit (setFld w hi lo v) i = bit w i := by
  obtain ⟨k, rfl⟩ := Nat.exists_eq_add_of_lt hhi
  have hwidth : lo + (hi + 1 - lo) = hi + 1 := by omega
  have hfits : v % 2 ^ (hi + 1 - lo) * 2 ^ lo + w.toNat % 2 ^ lo < 2 ^ (hi + 1) := by
    have hv : v % 2 ^ (hi + 1 - lo) + 1 ≤ 2 ^ (hi + 1 - lo) := Nat.mod_lt _ (Nat.two_pow_pos _)
    have hr : w.toNat % 2 ^ lo < 2 ^ lo := Nat.mod_lt _ (Nat.two_pow_pos _)
    calc v % 2 ^ (hi + 1 - lo) * 2 ^ lo + w.toNat % 2 ^ lo < (v % 2 ^ (hi + 1 - lo) + 1) * 2 ^ lo := by rw [Nat.add_mul]; omega
      _ ≤ 2 ^ (hi + 1 - lo) * 2 ^ lo := Nat.mul_le_mul_right _ hv
      _ = 2 ^ (hi + 1) := by rw [← Nat.pow_add, Nat.add_comm, hwidth]
  have hbit : ∀ n : Nat, n.testBit (hi + k + 1) = (n / 2 ^ (hi + 1)).testBit k := fun n => by
    rw [Nat.testBit_div_two_pow, Nat.add_right_comm, Nat.add_comm k]
  rw [setFld_eq, bit_wd hword, bit_eq_testBit, hbit, hbit, hwidth, Nat.add_assoc, Nat.mul_comm, Nat.mul_add_div (Nat.two_pow_pos _),
    Nat.div_eq_of_lt hfits, Nat.add_zero]

theorem bit_setBit_same {w : Word} {i : Nat} (hi : i < 36) (b : Bool) : bit (setBit w i b) i = b := by
  have hlow : ∀ a c r : Nat, (a * 2 ^ (i + (i + 1 - i)) + c % 2 ^ (i + 1 - i) * 2 ^ i + r % 2 ^ i) / 2 ^ i = 2 * a + c % 2 := fun a c r => by
    rw [show i + 1 - i = 1 by omega, Nat.pow_succ, Nat.pow_one,
      show a * (2 ^ i * 2) + c % 2 * 2 ^ i + r % 2 ^ i = 2 ^ i * (2 * a + c % 2) + r % 2 ^ i by ring, Nat.mul_add_div (Nat.two_pow_pos _),
      Nat.div_eq_of_lt (Nat.mod_lt _ (Nat.two_pow_pos _)), Nat.add_zero]
  rw [setBit, setFld_eq, bit_wd hi, Nat.testBit_eq_decide_div_mod_eq, hlow]
  cases b with
  | false => simp [b2n]
  | true => simp [b2n, Nat.add_mod]

/-! ### Condition sources (R361, R365) -/

theorem tmpAsserted_rgSet (d : Dev) (s : Nat) (v : Word) : tmpAsserted (rgSet d (Reg.TMP_SRC_STATUS + s) v) s = bit v 8 := by
  rw [tmpAsserted, tmpStatus, rg_rgSet, if_pos rfl]

theorem tmpAsserted_with (d : Dev) (s : Nat) (x : Tamper) : tmpAsserted { d with tmp := x } s = tmpAsserted d s := rfl

/-- An event of a source does not change whether it reads ASSERTED. -/
theorem tmpAsserted_tmpEvent (s : Nat) (d : Dev) : tmpAsserted (tmpEvent s d) s = tmpAsserted d s := by
  have hevents : ∀ (w : Word) (c k : Nat), bit (setFld (setFld w 35 10 k) 7 0 c) 8 = bit w 8 := fun w c k => by
    rw [bit_setFld_of_gt c (by decide) (by decide) (by decide), bit_setFld_of_lt k (by decide) (by decide)]
  have hfired : ∀ w : Word, bit (setBit w 9 true) 8 = bit w 8 := fun w => bit_setFld_of_lt _ (by decide) (by decide)
  dsimp only [tmpEvent]
  split
  · rfl
  · split
    · rw [tmpAsserted_with, tmpAsserted_rgSet, hfired, hevents, tmpAsserted]
    · split
      · rw [tmpAsserted_with, tmpAsserted_rgSet, hevents, tmpAsserted]
      · rw [tmpAsserted_rgSet, hevents, tmpAsserted]

theorem tmpAsserted_tmpAssert {s : Nat} (hs : tmpCondition s = true) (d : Dev) : tmpAsserted (tmpAssert s d) s = true := by
  by_cases h : tmpAsserted d s = true
  · rw [tmpAssert, if_pos (.inr h), h]
  · rw [tmpAssert, if_neg (by simp [hs, h]), tmpAsserted_tmpEvent, tmpAsserted_rgSet, bit_setBit_same (by decide)]

theorem fld_tmpEvent (s : Nat) (d : Dev) : (tmpEvent s d).fld = d.fld := by
  dsimp only [tmpEvent]
  split
  · rfl
  · split
    · simp only [rgSet_fld]
    · split <;> simp only [rgSet_fld]

theorem fld_tmpAssert (s : Nat) (d : Dev) : (tmpAssert s d).fld = d.fld := by
  rw [tmpAssert]
  split
  · rfl
  · exact fld_tmpEvent ..

theorem tamperClear_of_condition {s : Nat} (hs : tmpCondition s = true) (d : Dev) :
    tamperClear s d = rgSet d (Reg.TMP_SRC_STATUS + s) (setBit (tmpStatus d s) 8 false) := if_pos hs

theorem tmpAsserted_tamperClear {s : Nat} (hs : tmpCondition s = true) (d : Dev) : tmpAsserted (tamperClear s d) s = false := by
  rw [tamperClear_of_condition hs, tmpAsserted_rgSet, bit_setBit_same (by decide)]

theorem tmpAsserted_tamperClear_of_ne {s k : Nat} (hs : tmpCondition s = true) (h : k ≠ s) (d : Dev) :
    tmpAsserted (tamperClear s d) k = tmpAsserted d k := by
  rw [tamperClear_of_condition hs, tmpAsserted, tmpStatus, rg_rgSet, if_neg (by omega), tmpAsserted, tmpStatus]

/-- FIELD_SUPPLY_RECOVERY: the supply reads good, and neither source of the converter is asserted. -/
theorem supplyRecovery_clears (d : Dev) : (supplyRecovery d).fld = { d.fld with supplyOk := true } ∧
    tmpAsserted (supplyRecovery d) 9 = false ∧ tmpAsserted (supplyRecovery d) 10 = false := by
  refine ⟨?_, tmpAsserted_tamperClear rfl _, (tmpAsserted_tamperClear_of_ne rfl (by decide) _).trans (tmpAsserted_tamperClear rfl _)⟩
  rw [supplyRecovery, tamperClear_of_condition rfl, tamperClear_of_condition rfl]
  rfl

/-! ### The tag core's part (R278) -/

theorem tagCut_frame (d : Dev) (i v how : Nat) : (tagCut d i v how).fld = d.fld ∧ (tagCut d i v how).regs = d.regs := by
  unfold tagCut
  split
  · exact ⟨rfl, rfl⟩
  · split
    · exact ⟨rfl, rfl⟩
    · split
      · exact ⟨tagCopySet_fld .., tagCopySet_regs ..⟩
      · exact ⟨tagCopySet_fld .., tagCopySet_regs ..⟩

theorem accessCut_frame (a : TagAccess) (how : Nat) (d : Dev) : (accessCut a how d).fld = d.fld ∧ (accessCut a how d).regs = d.regs := by
  unfold accessCut
  extract_lets
  split
  · exact tagCut_frame ..
  · exact ⟨rfl, rfl⟩

theorem tagFieldReset_frame (d : Dev) : (tagFieldReset d).fld = d.fld ∧ (tagFieldReset d).regs = d.regs := by
  unfold tagFieldReset
  simp only [onTag_fld, onTag_regs, List.foldl_cons, List.foldl_nil, cmdSet_fld, cmdSet_regs]
  split
  · exact accessCut_frame ..
  · exact ⟨rfl, rfl⟩

/-! ### Every grant ends (R243) -/

/-- What a port listed nowhere reads is a port without a grant. -/
theorem mem_livePorts {d : Dev} {p : Nat} (hstate : (portGet d p).state = 2) : p ∈ livePorts d := by
  have hlisted : ∀ t : Tab Port, (tabGet {} t p).state = 2 → p ∈ t.map (·.1) := fun t => by
    induction t with
    | nil => exact fun h => absurd h (show ¬ 4 = 2 by decide)
    | cons e r ih =>
      intro h
      rw [tabGet] at h
      rw [List.map_cons, List.mem_cons]
      split at h
      next heq => exact .inl heq
      next => exact .inr (ih h)
  exact hlisted _ hstate

/-- After a grant's end by the supply a port that has a grant is another one, which had it before. -/
theorem granted_endGrant {d : Dev} {p q : Nat} (h : (portGet (endGrant p 5 d) q).state = 2) : q ≠ p ∧ (portGet d q).state = 2 := by
  by_cases hstate : (portGet d p).state = 2
  · have hended := grantEnded_endGrant (reason := 5) hstate (by decide)
    have hother : q ≠ p := by
      rintro rfl
      rw [hended.state] at h
      split at h <;> omega
    exact ⟨hother, hended.ports q hother ▸ h⟩
  · have hnone : endGrant p 5 d = d := if_pos hstate
    rw [hnone] at h
    exact ⟨fun heq => hstate (heq ▸ h), h⟩

theorem granted_endGrants {q : Nat} (l : List Nat) (d : Dev) (h : (portGet (l.foldl (fun d p => endGrant p 5 d) d) q).state = 2) :
    q ∉ l ∧ (portGet d q).state = 2 := by
  induction l generalizing d with
  | nil => exact ⟨List.not_mem_nil, h⟩
  | cons p l ih =>
    obtain ⟨hrest, hnext⟩ := ih _ h
    obtain ⟨hother, hbefore⟩ := granted_endGrant hnext
    exact ⟨List.not_mem_cons_of_ne_of_not_mem hother hrest, hbefore⟩

theorem supplyOk_endGrant (p : Nat) (d : Dev) : (endGrant p 5 d).fld.supplyOk = d.fld.supplyOk := by
  by_cases hstate : (portGet d p).state = 2
  · rw [endGrant_of_granted hstate (by decide)]
    exact (raised_grantEvent ..).supplyOk_eq
  · rw [show endGrant p 5 d = d from if_pos hstate]

theorem supplyOk_endGrants (l : List Nat) (d : Dev) : (l.foldl (fun d p => endGrant p 5 d) d).fld.supplyOk = d.fld.supplyOk := by
  induction l generalizing d with
  | nil => rfl
  | cons p l ih => exact (ih _).trans (supplyOk_endGrant p d)

/-- FIELD_SUPPLY_FAULT: no grant is left, and the source of the side the output left its range on is asserted. -/
theorem supplyLost_ends (high : Bool) (d : Dev) : (supplyLost high d).fld.supplyOk = false ∧ (∀ q, (portGet (supplyLost high d) q).state ≠ 2) ∧
    tmpAsserted (supplyLost high d) (if high = true then 9 else 10) = true := by
  obtain ⟨hfld, hregs⟩ := tagFieldReset_frame (supplyFault high d)
  have hsource : tmpCondition (if high = true then 9 else 10) = true := by cases high <;> rfl
  refine ⟨?_, fun q hq => ?_, ?_⟩
  · rw [supplyLost, hfld, supplyFault, fld_tmpAssert, supplyOk_endGrants]
  · rw [portGet, supplyLost, hfld, supplyFault, fld_tmpAssert] at hq
    obtain ⟨hunlisted, hstate⟩ := granted_endGrants _ _ hq
    exact hunlisted (mem_livePorts hstate)
  · rw [tmpAsserted, tmpStatus, rg, supplyLost, hregs]
    exact tmpAsserted_tmpAssert hsource _

end Sys2Proof.Machine

/-! The field island (O40): the event queues of the field cores (R240, Table 9.4, log entry 85). -/

namespace Sys2Proof.Machine

/-! ### Inputs of a core with the words that show them (R45) -/

/-- An input pushed with the words that make it visible stands last among the inputs. -/
theorem inq_noteMem_pushInput (d : Dev) (core cls key pass : Nat) (data : List Nat) (mems : List (Nat × Nat)) :
    ∃ i, (noteMem (pushInput d core cls key pass data) mems).pas.inq = d.pas.inq ++ [i] ∧ i.core = core ∧ i.cls = cls ∧ i.data = data ∧
      i.pass = pass := by
  refine ⟨{ core := core, cls := cls, key := key, pass := pass, data := data, mems := mems }, ?_, rfl, rfl, rfl, rfl⟩
  simp only [noteMem, pushInput]
  rw [List.modify_eq_set_getElem?]
  simp

/-! ### The queue of a field core (R240) -/

/-- Entries of the event queue of core Fc. -/
def evqSlots (d : Dev) (c : Nat) : Nat := 2 ^ evqLog d c

/-- The word that the next event of core Fc is written from. -/
def evqSlot (d : Dev) (c : Nat) : Nat := rn d (Reg.FLD_EVQ_BASE + 4 * c) + 4 * (evqTail d c % evqSlots d c)

section Queue
variable {d : Dev} {c : Nat} (hlow : 4 ≤ evqLog d c) (hhigh : evqLog d c ≤ 10)
include hlow hhigh

theorem evqOn_of_log : evqOn d c = true := by simp [evqOn, hlow, hhigh]

section Event
variable {ev : FieldEvent} {rest : List FieldEvent} (hpending : tabGet [] d.fld.evs c = ev :: rest)
include hpending

/-- An event waits for the edge after it occurred, and for room. -/
theorem eventWrite_of_waiting (h : d.pas.count ≤ ev.pass ∨ evqSlots d c ≤ posDist (evqSlots d c) (evqHead d c) (evqTail d c)) :
    eventWrite c d = d := by
  simp only [evqSlots] at h
  simp only [eventWrite, hpending, evqOn_of_log hlow hhigh, not_true_eq_false, false_or, if_pos h]

variable (hoccurred : ev.pass < d.pas.count) (hroom : posDist (evqSlots d c) (evqHead d c) (evqTail d c) < evqSlots d c)
include hoccurred hroom

theorem eventWrite_refused {a why : Nat} (hrefused : refusedIn d 0xC1 (0x20 + c) 1 1 (evqSlot d c) 4 = some (a, why)) :
    eventWrite c d = mpuRecord 0xC1 (0x20 + c) 3 a why d := by
  simp only [evqSlots] at hroom
  simp only [evqSlot, evqSlots] at hrefused
  simp only [eventWrite, hpending, evqOn_of_log hlow hhigh, not_true_eq_false, Nat.not_le.2 hoccurred, Nat.not_le.2 hroom, or_self, if_false,
    hrefused]

theorem eventWrite_permitted (hpermitted : refusedIn d 0xC1 (0x20 + c) 1 1 (evqSlot d c) 4 = none) :
    eventWrite c d =
      noteMem (pushInput { rgSet (fmWr d (evqSlot d c) (ev.words.map wd)) (Reg.FLD_EVQ_TAIL + 4 * c)
          (idxWord ((evqTail d c + 1) % (2 * evqSlots d c)) (evqSlots d c)) with fld := { d.fld with evs := tabSet [] d.fld.evs c rest } }
        (0x20 + c) 5 ev.port (d.pas.count - 1) ev.words)
      [(evqSlot d c, 4)] := by
  have hbase : rn (rgSet (fmWr d (evqSlot d c) (ev.words.map wd)) (Reg.FLD_EVQ_TAIL + 4 * c)
      (idxWord ((evqTail d c + 1) % (2 * evqSlots d c)) (evqSlots d c))) (Reg.FLD_EVQ_BASE + 4 * c) = rn d (Reg.FLD_EVQ_BASE + 4 * c) :=
    congrArg BitVec.toNat ((rg_rgSet ..).trans (if_neg (by simp only [Reg.FLD_EVQ_BASE, Reg.FLD_EVQ_TAIL]; omega)))
  simp only [evqSlots] at hroom hbase
  simp only [evqSlot, evqSlots] at hpermitted hbase
  simp only [eventWrite, hpending, evqOn_of_log hlow hhigh, not_true_eq_false, Nat.not_le.2 hoccurred, Nat.not_le.2 hroom, or_self, if_false,
    hpermitted, evqSlot, evqSlots, hbase]
  rfl

end Event

theorem evqHeadWrite_consumes {v : Word} (hc : c < 4) (hindex : fld v 15 0 < evqSlots d c)
    (hsome : 0 < posDist (evqSlots d c) (evqHead d c) (posOf v (evqSlots d c)))
    (hheld : posDist (evqSlots d c) (evqHead d c) (posOf v (evqSlots d c)) ≤ posDist (evqSlots d c) (evqHead d c) (evqTail d c))
    (hsize : posDist (evqSlots d c) (evqHead d c) (posOf v (evqSlots d c)) ≤ evqSlots d c) :
    evqHeadWrite c v d = rgSet d (Reg.FLD_EVQ_HEAD + 4 * c) (BitVec.ofNat 36 (v.toNat % 2 ^ 17)) := by
  refine if_neg ?_
  rw [evqOn_of_log hlow hhigh]
  simp only [not_true_eq_false, false_or, not_or, Nat.not_le, Nat.not_lt]
  exact ⟨hc, hindex, hsome.ne', hsize, hheld⟩

end Queue

end Sys2Proof.Machine

/-! The proof of O40: ports, sweeps, requests, grants, the supply and the event queues (R224, R225, R228 to R234, R237, R238, R240, R243, R244). -/

namespace Sys2Proof.Machine

/-- Settles O40: each command of the field island takes the branch of its rule, and the end of a grant leaves the same whatever ends it. -/
theorem fieldPortsAndGrants : Obligations.FieldPortsAndGrants := by
  intro s p e m hp he d now put x n c g owner off raised ended
  have hoff : portOff d p = true ↔ off := portOff_iff d p
  have hended {t : State} {reason st sub : Nat} (h : GrantEnded d t.dev p reason st sub) : ended t reason st sub :=
    ⟨h.chain, h.linger, h.state.trans (if_congr hoff rfl rfl), h.port, h.carrier, h.endp, h.cut, h.event, h.ports, h.chains⟩
  refine ⟨fun hruns hphase hbegun => exec_eq_next rfl (sweepStart_begins he hruns hphase hbegun),
    fun hphase => exec_eq_next rfl (sweepStart_of_other_phase hphase), ?ping, ?baseline, ?linger,
    fun hup hfirst hsecond hbase => exec_eq_next rfl (flightReadyNow_of_calibrated he hup hfirst hsecond hbase), ?requests,
    fun hstate hreached => ⟨_, exec_eq_next rfl (grantCeiling_reached hstate hreached), hended (grantEnded_endGrant hstate (by decide))⟩,
    fun h => exec_eq_next rfl (grantCeiling_of_not_reached h), ?tuning,
    fun hport hdue => exec_eq_next rfl (settleEnd_due hport hdue), fun h => exec_eq_next rfl (settleEnd_of_not_due h), ?vswr,
    fun v hv hm => exec_eq_next rfl (aptClear_clears hm hp hv), fun high => ⟨_, rfl, supplyLost_ends high d⟩,
    ⟨_, rfl, supplyRecovery_clears d⟩, ?queues⟩
  case ping =>
    intro j r a phi b hj hpj hruns hused hsweep hport ha hphi hbase dA dP thr found clear words done
    have hflight : p / 16 = e := by omega
    have hfound : pingDetects d p (pingDiff b a phi) = true ↔ found := pingDetects_iff ..
    have hclear : pingClear d p (pingDiff b a phi) = true ↔ clear := pingClear_iff ..
    have hslot : engGet (engSet d e (g.slot j r)) e = g.slot j r := (engGet_engSet ..).trans (if_pos rfl)
    have hdone {P : State → Prop} {t : Dev} (ht : pingResult (engSet d e (g.slot j r)) p a phi = t) (heng : engGet t e = g.slot j r)
        (hports : ∀ q, q ≠ p → portGet t q = portGet d q) (hP : P { s with dev := t }) : done P := by
      subst hpj
      exact ⟨_, exec_eq_next rfl ((ping_slot he hruns hused hsweep hport ha hphi).trans ht), heng, hports, hP⟩
    refine ⟨fun hstate hf hready => ?presence, fun hstate hf hready => ?unready, fun hstate hf hc => ?moves, fun hstate hf hc => ?neither,
      fun hstate hc => ?vacated, fun hstate hc => ?present, fun hstate hc => ?lingers⟩
    case presence =>
      obtain ⟨t, hraised, hresult⟩ := pingResult_presence (d := engSet d e (g.slot j r)) hbase hstate (hfound.2 hf) (hflight ▸ hready)
      have hother : ∀ q, portGet t q = portGet d q := hraised.portGet_eq
      cases hauto : aptAuto d p with
      | true =>
        refine hdone (hresult.trans (if_pos hauto)) ((hraised.engGet_eq e).trans hslot)
          (fun q hq => (portGet_portSet ..).trans ((if_neg hq).trans (hother q))) ⟨hraised.event, ?_⟩
        exact (portGet_portSet ..).trans ((if_pos rfl).trans (if_pos hauto).symm)
      | false =>
        have hmanual : ¬ aptAuto d p = true := by simp [hauto]
        exact hdone (hresult.trans (if_neg hmanual)) ((hraised.engGet_eq e).trans hslot) (fun q _ => hother q)
          ⟨hraised.event, (hother p).trans (if_neg hmanual).symm⟩
    case unready => exact hdone (pingResult_of_not_ready hbase hstate (hfound.2 hf) (hflight ▸ hready)) hslot (fun _ _ => rfl) ⟨rfl, rfl⟩
    case moves =>
      refine hdone (pingResult_moves hbase hstate (hfound.not.2 hf) (hclear.2 hc)) hslot (fun q hq => (portGet_portSet ..).trans (if_neg hq)) ⟨rfl, ?_⟩
      rw [hflight]
      exact (portGet_portSet ..).trans (if_pos rfl)
    case neither =>
      exact hdone (pingResult_of_neither hbase hstate (hfound.not.2 hf) (hclear.not.2 hc)) hslot (fun _ _ => rfl) ⟨rfl, rfl⟩
    case vacated =>
      have hraised := raised_pingEvent (portSet (engSet d e (g.slot j r)) p { x with state := 0 }) 2 p (pingDiff b a phi).1 (pingDiff b a phi).2
      exact hdone (pingResult_vacated hbase hstate (hclear.2 hc)) ((hraised.engGet_eq e).trans hslot)
        (fun q hq => (hraised.portGet_eq q).trans ((portGet_portSet ..).trans (if_neg hq)))
        ⟨hraised.event, (hraised.portGet_eq p).trans ((portGet_portSet ..).trans (if_pos rfl))⟩
    case present => exact hdone (pingResult_of_present hbase hstate (hclear.not.2 hc)) hslot (fun _ _ => rfl) ⟨rfl, rfl⟩
    case lingers =>
      exact hdone (pingResult_lingers hbase hstate (hclear.2 hc)) hslot (fun q hq => (portGet_portSet ..).trans (if_neg hq))
        ((portGet_portSet ..).trans (if_pos rfl))
  case baseline =>
    intro a phi hflight hruns hused hsweep hneeds ha hphi
    refine ⟨_, exec_eq_next rfl (baselinePing_takes he hflight hruns hused hsweep hneeds ha hphi), (engGet_engSet ..).trans (if_pos rfl),
      fun hfew => ?_, fun hseven => ?_⟩
    · exact (portGet_portSet ..).trans ((if_pos rfl).trans (if_pos hfew))
    · exact (portGet_portSet ..).trans ((if_pos rfl).trans (if_neg (by show ¬ x.bases.length < 7; omega)))
  case linger =>
    exact ⟨fun hstate hdue => exec_eq_next rfl (lingerExpiry_due hstate hdue), fun h => exec_eq_next rfl (lingerExpiry_of_not_due h)⟩
  case requests =>
    intro hm mode hmode w taken
    have htaken {act : Nat} (hact : act < 4) : fldReqWrite m (reqWord p mode act) d = { d with fld := { d.fld with reqs := d.fld.reqs ++ [(m, w act)] } } :=
      fldReqWrite_taken hm hp hmode hact
    refine ⟨exec_eq_next rfl (htaken (by decide)), exec_eq_next rfl (htaken (by decide)), exec_eq_next rfl (htaken (by decide)), fun howner hon => ?owner,
      fun h act hact => applyReq_of_not_governing hp hmode hact h⟩
    have hrequest := applyReq_request hp hmode howner hon
    have hrelease := applyReq_release hp hmode howner hon
    have hwithdraw := applyReq_withdraw hp hmode howner hon
    refine ⟨fun hclean hfree => hrequest.trans (if_neg ?_), fun h => hrequest.trans (if_pos h), fun hgranted => hended ?_, fun h => hrelease.trans (if_neg h),
      fun h => hwithdraw.trans (if_pos h), fun h => hwithdraw.trans (if_neg h)⟩
    · rintro (hmismatch | hgranted)
      · exact absurd (hclean.symm.trans hmismatch) (by decide)
      · exact hfree hgranted
    · have hends := hrelease.trans (if_pos hgranted)
      exact hends ▸ grantEnded_endGrant hgranted (by decide)
  case tuning =>
    intro hport hstate hreader huntuned ser shu vswr fwd refl hser hshu
    have hends := tuningComplete_ends (vswr := vswr) (fwd := fwd) (refl := refl) hport hreader huntuned hser hshu
    refine ⟨fun hlow => ⟨_, exec_eq_next rfl (hends.trans (if_neg (by omega))), ?_, (chainGet_tuned ..).trans (if_pos rfl), ?_, ?_⟩,
      fun hhigh => ⟨_, exec_eq_next rfl (hends.trans (if_pos hhigh)), ?_⟩⟩
    · refine (portGet_tuned ..).trans ((if_pos rfl).trans ?_)
      rw [Nat.min_eq_right (by omega)]
    · exact (rg_setPowers ..).trans ((if_neg (by simp only [Reg.CHN_FWD, Reg.CHN_REFL]; omega)).trans (if_pos rfl))
    · exact (rg_setPowers ..).trans (if_pos rfl)
    · obtain ⟨hgrant, hmarked⟩ := (sameGrant_tuned (ser := ser) (shu := shu) (vswr := vswr) (fwd := fwd) (refl := refl) hp).mismatchEnd hp
        ((congrArg Chain.port ((chainGet_tuned ..).trans (if_pos rfl))).trans hport)
        ((congrArg Port.state ((portGet_tuned ..).trans (if_pos rfl))).trans hstate)
      exact ⟨hended hgrant, hmarked⟩
  case vswr =>
    intro hport hstate hreader v w
    have hmeasures := vswrMismatch_measures (v := v) (w := w) hport hreader
    refine ⟨fun hv hw => ⟨_, exec_eq_next rfl (hmeasures.trans (if_pos ⟨hv, hw⟩)), ?_⟩,
      fun h => exec_eq_next rfl (hmeasures.trans (if_neg (by omega)))⟩
    obtain ⟨hgrant, hmarked⟩ := (sameGrant_vswr (w := min 255 w)).mismatchEnd hp hport
      ((congrArg Port.state ((portGet_portSet ..).trans (if_pos rfl))).trans hstate)
    exact ⟨hended hgrant, hmarked⟩
  case queues =>
    intro k hk lg size head tail hlow hhigh
    have hexec : exec (.eventQueueWrite k) s = onDev (eventWrite k) s := congrArg (fun i => onDev (eventWrite i) s) (Nat.mod_eq_of_lt hk)
    have hconsume (v : Word) : exec (.fldEvqHeadWrite k v) s = onDev (evqHeadWrite k v) s :=
      congrArg (fun i => onDev (evqHeadWrite i v) s) (Nat.mod_eq_of_lt hk)
    refine ⟨fun ev r hpending hoccurred hroom hwords hpermitted => ?written,
      fun ev r a why hpending hoccurred hroom hrefused => exec_eq_next hexec (eventWrite_refused hlow hhigh hpending hoccurred hroom hrefused),
      fun ev r hpending h => exec_eq_next hexec (eventWrite_of_waiting hlow hhigh hpending h),
      fun v hindex hsome hheld hsize => exec_eq_next (hconsume v) (evqHeadWrite_consumes hlow hhigh hk hindex hsome hheld hsize)⟩
    case written =>
      have hsmall : size ≤ 2 ^ 16 := Nat.pow_le_pow_right (by decide) (by omega)
      have hpos : 0 < size := Nat.two_pow_pos _
      refine ⟨_, exec_eq_next hexec (eventWrite_permitted hlow hhigh hpending hoccurred hroom hpermitted), (tabGet_tabSet ..).trans (if_pos rfl), ?_,
        fun i hi => ?_, inq_noteMem_pushInput ..⟩
      · refine (congrArg (posOf · size) ((rg_rgSet ..).trans (if_pos rfl))).trans (posOf_idxWord hsmall (Nat.mod_lt _ (Nat.mul_pos (by decide) hpos)))
      · have hlen : i < (ev.words.map wd).length := by rw [List.length_map, hwords]; exact hi
        refine (fmRd_fmWr_of_inside d (evqSlot d k) i (ev.words.map wd) hlen).trans ?_
        rw [List.getElem_map, ← List.getD_eq_getElem _ 0]
        rfl

end Sys2Proof.Machine

/-! The entries of a chain (O41): the input that an entry's completion presents (R251). -/

namespace Sys2Proof.Machine

/-! ### The input of an entry that has ended (R251) -/

theorem pas_writeRes (n : Nat) (d : Dev) (r : FrameRes) : (writeRes n d r).pas = d.pas := by
  dsimp only [writeRes]
  generalize (quadPack r.rx).zipIdx = l
  suffices h : ∀ e : Dev, (l.foldl (fun d x => rgSet d (dataReg n r.pos (64 + x.2)) x.1) e).pas = e.pas by rw [h, rgSet_pas, rgSet_pas, rgSet_pas]
  induction l with
  | nil => exact fun _ => rfl
  | cons x l ih => exact fun e => ih _

/-- The input that tells of an ended entry goes to the owner named by the register words after the results have been written. -/
theorem inq_entryCompletion {d : Dev} {n : Nat} {r : FrameRes} (hdone : (chainGet d n).done = [r]) (hpass : r.pass < d.pas.count)
    (hgrant : r.grant = (chainGet d n).grantAt) :
    (entryCompletion n d).pas.inq = d.pas.inq ++ [{ core := 0x20 + flightOwner (writeRes n d r) (r.port / 16), cls := 5, key := r.port,
                                                    pass := d.pas.count - 1, data := [n, r.pos % 8, r.st, r.sub, r.air] }] := by
  have hpas := pas_writeRes n d r
  simp only [entryCompletion, hdone, List.filter_cons, hpass, hgrant, decide_true, if_true, List.filter_nil, List.foldl_cons, List.foldl_nil,
    pushInput, hpas]
  rfl

/-- Word 6 of an ended entry without RX data is the last word written: the pass. -/
theorem rg_writeRes_pass {d : Dev} {n : Nat} {r : FrameRes} (hrx : r.rx = []) : rg (writeRes n d r) (hdrReg n r.pos 6) = wd (r.pass % 2 ^ 36) := by
  rw [writeRes, hrx]
  exact (rg_rgSet ..).trans (if_pos rfl)

/-- A result that names a port far beyond the last, 255: the flight word of that port would be word 6 of entry 0 of chain 0. -/
def strayResult : FrameRes :=
  { port := 16 * (hdrReg 0 0 6 - Reg.FLD_FLIGHT_CTL), grant := 0, pos := 0, st := 0, sub := 0, air := 0, rx := [], wtx := 0, pass := 1 }

/-- Pass 2: that result, of pass 1, waits in chain 0, and word 6 of its entry is zero. -/
def strayState : State :=
  { dev := { regs := [(hdrReg 0 0 6, 0)], pas := { count := 2 }, fld := { chains := [(0, { port := some 0, done := [strayResult] })] } } }

/-- Refutes O41: its last clause names the owner of the result's flight before the results are written and gives the port of the result no bound. A result
with a port beyond 255, which no grant leaves, makes the flight word a header word of the entry, and the write of the results changes the owner. -/
theorem not_chainEntries : ¬ Obligations.ChainEntries := by
  intro h
  obtain ⟨-, -, -, -, -, -, -, -, hcompletion⟩ := h strayState 0 0 0 (by decide) rfl
  obtain ⟨t, i, hexec, -, -, -, -, -, hinq, hcore, -⟩ :=
    hcompletion strayResult rfl (by decide) rfl (by decide) (by decide) (by decide) (by decide)
  have ht : { strayState with dev := entryCompletion 0 strayState.dev } = t := Host.Outcome.next.inj hexec
  subst ht
  have hshown := inq_entryCompletion (d := strayState.dev) (n := 0) (r := strayResult) rfl (by decide) rfl
  have hafter : flightOwner (writeRes 0 strayState.dev strayResult) (strayResult.port / 16) = 1 :=
    congrArg (fld · 1 0) (rg_writeRes_pass (d := strayState.dev) (n := 0) (r := strayResult) rfl)
  have hbefore : flightOwner strayState.dev (strayResult.port / 16) = 0 := by decide
  obtain rfl := List.singleton_inj.1 (List.append_cancel_left (hshown.symm.trans hinq))
  rw [hafter, hbefore] at hcore
  exact absurd hcore (by decide)

end Sys2Proof.Machine

/-! The tag core (O42): the blocks of a response, and the commands of a session with their answers (R262 to R268, Table 10.5). -/

namespace Sys2Proof.Machine

/-! ### Blocks of a response (R263) -/

/-- The tag core after it has sent a block with its number. -/
def TagCore.block (g : TagCore) (pcb : Nat) (inf : Octets) : TagCore :=
  { g with blk := !g.blk, air := g.air ++ [tagFrame (leOct 1 (pcb + b2n g.blk) ++ inf)] }

/-- The tag core after it has sent the pieces of a response in chained blocks. -/
def TagCore.sending (g : TagCore) (l : List Octets) : TagCore :=
  { g with
    air := g.air ++ l.zipIdx.map (fun q => tagFrame (leOct 1 ((if q.2 + 1 = l.length then 0x02 else 0x12) + (b2n g.blk + q.2) % 2) ++ q.1))
    blk := decide ((b2n g.blk + l.length) % 2 = 1) }

theorem b2n_not_add_mod (b : Bool) (k : Nat) : (b2n (!b) + k) % 2 = (b2n b + (k + 1)) % 2 := by
  cases b <;> simp only [b2n, Bool.not_false, Bool.not_true, Bool.false_eq_true, if_true, if_false] <;> omega

theorem b2n_mod_two (b : Bool) : b2n b % 2 = b2n b := by cases b <;> rfl

theorem TagCore.sending_nil (g : TagCore) : g.sending [] = g := by
  have hblk : decide (b2n g.blk % 2 = 1) = g.blk := by cases g.blk <;> rfl
  rw [sending, List.zipIdx_nil, List.map_nil, List.append_nil, List.length_nil, Nat.add_zero, hblk]

/-- A block sent before the others: the last of the chain, and no other, has the chaining bit clear. -/
theorem TagCore.sending_block (g : TagCore) (o : Octets) (l : List Octets) :
    (g.block (if l = [] then 0x02 else 0x12) o).sending l = g.sending (o :: l) := by
  simp only [sending, block, List.zipIdx_cons', List.map_cons, List.map_map, b2n_not_add_mod, List.length_cons, List.append_assoc,
    List.singleton_append, Function.comp_def, Prod.map, id, Nat.add_right_cancel_iff, Nat.add_zero, b2n_mod_two,
    eq_comm (a := 0), List.length_eq_zero_iff]

theorem tagBlocks_eq (l : List Octets) (d : Dev) : tagBlocks l d = onTag d (fun g => g.sending l) := by
  induction l generalizing d with
  | nil => simp only [TagCore.sending_nil]; rfl
  | cons o l ih =>
    have hfirst : tagBlocks (o :: l) d = tagBlocks l (tagBlock (if l = [] then 0x02 else 0x12) o d) := by cases l <;> rfl
    rw [hfirst, ih]
    exact congrArg (onTag d) (funext fun g => g.sending_block o l)

/-- The tag core after a response: it is kept, and sent in pieces of the reader's frame size. -/
def TagCore.saying (g : TagCore) (o : Octets) : TagCore := { g.sending (pieces (g.fsd - 3) o.length o) with resp := o }

/-- What an answer leaves: the tag core has said the data and the status word, and a command answered 0x9000 is counted. -/
structure Answered (d t : Dev) (g : TagCore) (data : Octets) (sw : Nat) : Prop where
  frame : t = { d with tag := t.tag, regs := t.regs }
  tag : t.tag = g.saying (data ++ beOct 2 sw)
  ops : rg t Reg.TAG_CL_OPS = if sw = 0x9000 then satInc (rg d Reg.TAG_CL_OPS) 1 else rg d Reg.TAG_CL_OPS
  regs : ∀ a, a ≠ Reg.TAG_CL_OPS → rg t a = rg d a

section Answered
variable {d t : Dev} {g : TagCore} {data : Octets} {sw : Nat} (h : Answered d t g data sw)
include h

theorem Answered.mem_eq : t.mem = d.mem := by rw [h.frame]

theorem Answered.fmem_eq : t.fmem = d.fmem := by rw [h.frame]

theorem Answered.lkg_eq : t.lkg = d.lkg := by rw [h.frame]

end Answered

theorem answered_tagAnswer (d : Dev) (f : TagCore → TagCore) (data : Octets) (sw : Nat) :
    Answered d (tagAnswer (onTag d f) data sw) (f d.tag) data sw := by
  have heq : tagAnswer (onTag d f) data sw =
      if sw = 0x9000 then rgAdd (onTag d fun g => (f g).saying (data ++ beOct 2 sw)) Reg.TAG_CL_OPS 1
      else onTag d fun g => (f g).saying (data ++ beOct 2 sw) := by
    dsimp only [tagAnswer]
    rw [tagBlocks_eq]
    rfl
  rw [heq]
  split
  next h => exact ⟨rfl, rfl, ((rg_rgSet ..).trans (if_pos rfl)).trans (if_pos h).symm, fun a ha => (rg_rgSet ..).trans (if_neg ha)⟩
  next h => exact ⟨rfl, rfl, (if_neg h).symm, fun _ _ => rfl⟩

section TagAnswer
variable (d : Dev) (data : Octets) (sw : Nat)

theorem tag_tagAnswer : (tagAnswer d data sw).tag = d.tag.saying (data ++ beOct 2 sw) := (answered_tagAnswer d id data sw).tag

theorem mem_tagAnswer : (tagAnswer d data sw).tag.mem = d.tag.mem := by rw [tag_tagAnswer]; rfl

theorem queue_tagAnswer : (tagAnswer d data sw).tag.queue = d.tag.queue := by rw [tag_tagAnswer]; rfl

theorem locks_tagAnswer : (tagAnswer d data sw).tag.locks = d.tag.locks := by rw [tag_tagAnswer]; rfl

theorem resp_tagAnswer : (tagAnswer d data sw).tag.resp = data ++ beOct 2 sw := congrArg TagCore.resp (tag_tagAnswer d data sw)

end TagAnswer

/-! ### Commands of an open session (Table 10.5, R266) -/

theorem tagAcks_of_short {n : Nat} (h : n ≤ 61) (d : Dev) : tagAcks n d = d := by
  have hnone : ceilDiv n 61 - 1 = 0 := by rw [ceilDiv]; omega
  rw [tagAcks, hnone]
  rfl

theorem tagApdu_of_not_open {d : Dev} (h : ¬ (d.tag.session.isSome = true ∧ d.tag.wait = none)) (o : Octets) : tagApdu o d = d := by
  refine if_pos ?_
  rwa [not_and_or, Bool.not_eq_true, Option.isSome_eq_false_iff, ← ne_eq, ← Option.isSome_iff_ne_none] at h

theorem leOct_one (n : Nat) : leOct 1 n = [BitVec.ofNat 8 n] :=
  congrArg (· :: []) (BitVec.eq_of_toNat_eq (by rw [BitVec.toNat_ofNat, BitVec.toNat_ofNat, Nat.mod_mod]))

theorem apdu_eq (cla ins p1 p2 : Nat) (rest : Octets) :
    apdu cla ins p1 p2 rest = BitVec.ofNat 8 cla :: BitVec.ofNat 8 ins :: BitVec.ofNat 8 p1 :: BitVec.ofNat 8 p2 :: rest := by
  simp only [apdu, leOct_one]; rfl

/-- The device with the session's challenge used up. -/
def unchallenged (d : Dev) : Dev := onTag d fun g => { g with challenge := none }

/-- A command that carries a MAC, in an open session: its row's refusal, if any, comes before the check of the MAC, over the message with the challenge in
front. -/
def macCommand (d : Dev) (bad : Option Nat) (head data mac : Octets) (a : TagAccess) : Dev :=
  if tagAuthOn d = false then tagAnswer (unchallenged d) [] 0x6985
  else match bad with
  | some sw => tagAnswer (unchallenged d) [] sw
  | none => tagMac (unchallenged d) d.tag.challenge head data mac a

/-- A row's refusals are no 0x9000, one after the other. -/
theorem refusal_ne_done {c : Prop} [Decidable c] {no : Nat} {bad : Option Nat} (hno : no ≠ 0x9000) (hbad : ∀ sw, bad = some sw → sw ≠ 0x9000) :
    ∀ sw, (if c then some no else bad) = some sw → sw ≠ 0x9000 := by
  intro sw hsw
  split at hsw
  · exact Option.some.inj hsw ▸ hno
  · exact hbad sw hsw

section MacCommand
variable {d : Dev} {head data mac : Octets} {a : TagAccess}

theorem macCommand_of_off (hoff : tagAuthOn d = false) (bad : Option Nat) :
    macCommand d bad head data mac a = tagAnswer (unchallenged d) [] 0x6985 := if_pos hoff

variable (hon : tagAuthOn d = true)
include hon

theorem macCommand_of_bad (sw : Nat) : macCommand d (some sw) head data mac a = tagAnswer (unchallenged d) [] sw := if_neg (by simp [hon])

theorem macCommand_of_no_challenge (hnone : d.tag.challenge = none) :
    macCommand d none head data mac a = tagAnswer (unchallenged d) [] 0x6982 := by
  simp [macCommand, hon, hnone, tagMac]

theorem macCommand_of_unpowered (hsome : d.tag.challenge ≠ none) (hdown : fieldPowered d = false) :
    macCommand d none head data mac a = tagAnswer (unchallenged d) [] 0x6985 := by
  obtain ⟨c, hc⟩ := Option.ne_none_iff_exists'.1 hsome
  have hdown' : fieldPowered (unchallenged d) = false := hdown
  simp [macCommand, hon, hc, tagMac, hdown']

theorem macCommand_asks {c : Octets} (hc : d.tag.challenge = some c) (hup : fieldPowered d = true) : macCommand d none head data mac a =
    queueBarge (onTag d fun g => { g with challenge := none, wait := some a }) 0 (macRequest (tagSlot d) (c ++ (head ++ data)) mac) := by
  have hup' : fieldPowered (unchallenged d) = true := hup
  simp only [macCommand, hon, hc, tagMac, hup', Bool.true_eq_false, not_true_eq_false, if_false, List.append_assoc]
  rfl

end MacCommand

theorem tagAuthOn_onTag (d : Dev) (f : TagCore → TagCore) : tagAuthOn (onTag d f) = tagAuthOn d := rfl

theorem tagW_onTag (d : Dev) (f : TagCore → TagCore) (b : Nat) : tagW (onTag d f) b = tagW d b := rfl

theorem tagC_onTag (d : Dev) (f : TagCore → TagCore) (b : Nat) : tagC (onTag d f) b = tagC d b := rfl

section Opened
variable {d : Dev} (hsession : d.tag.session.isNone = false) (hwait : d.tag.wait = none)
include hsession hwait

theorem tagSelect_opened : tagSelect [0xF0, 0x51, 0x54, 0x41, 0x47, 0x01] d =
    tagAnswer (onTag d fun g => { g with selected := true }) [1, 128, 16, BitVec.ofNat 8 (b2n (fieldPowered d) + 2 * b2n d.keep.hold)] 0x9000 := by
  simp [tagSelect, tagApdu, apdu_eq, leOct_one, octAt, hsession, hwait, tagAcks_of_short, carriesMac, slice, fieldPowered, b2n]

theorem tagReadBlock_opened {b : Nat} (hb : b < 128) :
    tagReadBlock b d = if d.tag.selected = false then tagAnswer d [] 0x6999 else tagReadAnswer d b 16 := by
  have hbyte : b % 256 = b := Nat.mod_eq_of_lt (by omega)
  simp [tagReadBlock, tagApdu, apdu_eq, octAt, hsession, hwait, tagAcks_of_short, carriesMac, hbyte, Nat.not_le.2 hb]

theorem tagReadCounter_opened {b : Nat} (hb : b < 16) :
    tagReadCounter b d = if d.tag.selected = false then tagAnswer d [] 0x6999 else tagReadAnswer d (128 + b) 4 := by
  have hbyte : b % 256 = b := Nat.mod_eq_of_lt (by omega)
  simp [tagReadCounter, tagApdu, apdu_eq, octAt, hsession, hwait, tagAcks_of_short, carriesMac, hbyte, Nat.not_le.2 hb]

theorem tagGetChallenge_takes (hup : fieldPowered d = true) {c : Octets} {r : List Octets} (hstore : d.tag.store = c :: r) : tagGetChallenge d =
    tagAnswer (onTag d fun g => { g with challenge := some c, store := r }) c 0x9000 := by
  simp [tagGetChallenge, tagApdu, apdu_eq, octAt, hsession, hwait, tagAcks_of_short, carriesMac, hup, hstore]

theorem tagGetChallenge_refused (h : fieldPowered d = false ∨ d.tag.store = []) : tagGetChallenge d = tagAnswer d [] 0x6985 := by
  rcases h with h | h <;> simp [tagGetChallenge, tagApdu, apdu_eq, octAt, hsession, hwait, tagAcks_of_short, carriesMac, h]

theorem tagRelease_opened {b : Nat} (hb : b < 128) : tagRelease b d =
    if b ∉ d.tag.locks then tagAnswer d [] 0x6986
    else tagAnswer (onTag d fun g => { g with locks := g.locks.filter fun x => decide (x ≠ b) }) [] 0x9000 := by
  have hbyte : b % 256 = b := Nat.mod_eq_of_lt (by omega)
  simp [tagRelease, tagApdu, apdu_eq, octAt, hsession, hwait, tagAcks_of_short, carriesMac, hbyte, Nat.not_le.2 hb]

section Mac
variable {mac : Octets} (hmac : mac.length = 8)
include hmac

theorem tagReadLock_opened {b : Nat} (hb : b < 128) : tagReadLock b mac d =
    macCommand d (if tagW d b = false then some 0x6986 else if 16 ≤ d.tag.locks.length ∧ b ∉ d.tag.locks then some 0x6985 else none)
      [0x80, 0xB0, 0x80, BitVec.ofNat 8 b] [] mac { core := none, action := 1, idx := b, lock := true } := by
  have hbyte : b % 256 = b := Nat.mod_eq_of_lt (by omega)
  cases hright : tagW d b <;> by_cases hfull : 16 ≤ d.tag.locks.length ∧ b ∉ d.tag.locks <;>
    simp [tagReadLock, tagApdu, apdu_eq, leOct_one, octAt, hsession, hwait, tagAcks_of_short, carriesMac, hbyte, Nat.not_le.2 hb, hmac, slice, macCommand,
      unchallenged, tagAuthOn_onTag, tagW_onTag, b2n, hright, hfull]

theorem tagWriteBlock_opened {b : Nat} (hb : b < 128) {data : Octets} (hdata : data.length = 16) : tagWriteBlock b data mac d =
    macCommand d (if tagW d b = false then some 0x6986 else none) [0x80, 0xD6, 0, BitVec.ofNat 8 b] data mac
      { core := none, action := 2, idx := b, data := data } := by
  have hbyte : b % 256 = b := Nat.mod_eq_of_lt (by omega)
  have hwhole : (data ++ mac).take 24 = data ++ mac := List.take_of_length_le (by rw [List.length_append, hdata, hmac])
  have hfront : (data ++ mac).take 16 = data := List.take_left' hdata
  have hback : (data ++ mac).drop 16 = mac := List.drop_left' hdata
  cases hright : tagW d b <;>
    simp [tagWriteBlock, tagApdu, apdu_eq, leOct_one, octAt, hsession, hwait, tagAcks_of_short, carriesMac, hbyte, Nat.not_le.2 hb, hmac, hdata, slice,
      macCommand, unchallenged, tagAuthOn_onTag, tagW_onTag, b2n, hright, hwhole, hfront, hback]

theorem tagIncCounter_opened {b k : Nat} (hb : b < 16) (hk : k < 256) : tagIncCounter b k mac d =
    macCommand d (if tagC d b = false then some 0x6986 else none) [0x80, 0xD8, 0, BitVec.ofNat 8 b] [BitVec.ofNat 8 k] mac
      { core := none, action := 4, idx := b, amount := k } := by
  have hbyte : b % 256 = b := Nat.mod_eq_of_lt (by omega)
  have hamount : leNat [BitVec.ofNat 8 k] = k := Nat.mod_eq_of_lt hk
  cases hright : tagC d b <;>
    simp [tagIncCounter, tagApdu, apdu_eq, leOct_one, octAt, hsession, hwait, tagAcks_of_short, carriesMac, hbyte, Nat.not_le.2 hb, hmac, slice, macCommand,
      unchallenged, tagAuthOn_onTag, tagC_onTag, b2n, hright, hamount]

end Mac

end Opened

end Sys2Proof.Machine

/-! The tag core (O42): sessions, verdicts, challenges and wired commands (R262, R266, R267, R275). -/

namespace Sys2Proof.Machine

/-! ### Sessions, verdicts and challenges (R262, R266, R267) -/

theorem tagStart_opens {d : Dev} {p : Nat} (f : Nat) (hp : p < 256) (hpassive : p % 16 = 0) (hnone : d.tag.session = none)
    (hclosed : (portGet d p).state ≠ 2) : tagStart p f d =
      onTag d fun g => { g with session := some p, selected := false, challenge := none, locks := [], wait := none, resp := [],
                                fsd := fsdOf f, blk := false, air := tagActivation g.uid } :=
  if_pos ⟨hp, hpassive, Option.isNone_iff_eq_none.2 hnone, by simpa only [granted, decide_eq_true_eq] using hclosed⟩

theorem tagStart_of_not_free {d : Dev} {p : Nat} (f : Nat) (h : p % 16 ≠ 0 ∨ d.tag.session ≠ none ∨ (portGet d p).state = 2) : tagStart p f d = d := by
  refine if_neg fun hstarts => ?_
  obtain ⟨-, hpassive, hnone, hungranted⟩ := hstarts
  rcases h with h | h | h
  · exact h hpassive
  · exact h (Option.isNone_iff_eq_none.1 hnone)
  · exact hungranted (decide_eq_true h)

/-- The tag core after the end of its session. -/
def TagCore.left (g : TagCore) : TagCore :=
  { g with session := none, selected := false, challenge := none, locks := [], wait := none, queue := g.queue.filter (fun a => a.core.isSome) }

theorem tagLeave_eq (how : Nat) (d : Dev) : tagLeave how d =
    onTag d fun g => { g.left with air := if g.session.isSome = true ∧ how = 1 then g.air ++ [tagFrame [0xC2]] else g.air } := by
  simp only [tagLeave, tagEnd, onTag, TagCore.left]
  split <;> rfl

theorem tagVerdict_of_no_wait {d : Dev} (h : d.tag.wait = none) (st : Nat) : tagVerdict st d = d := by rw [tagVerdict, h]

theorem tagVerdict_of_wait {d : Dev} {a : TagAccess} (h : d.tag.wait = some a) (st : Nat) : tagVerdict st d =
    if st = St.done then onTag d fun g => { g with wait := none, queue := g.queue ++ [a] }
    else if st = St.untrusted then rgAdd (tagAnswer (onTag d fun g => { g with wait := none }) [] 0x6982) Reg.TAG_CL_AUTH_FAILS 1
    else tagAnswer (onTag d fun g => { g with wait := none }) [] 0x6985 := by
  rw [tagVerdict, h]
  rfl

theorem challengeReceive_stores {d : Dev} (hup : fieldPowered d = true) (hheld : d.keep.hold = false) (c : Octets) : challengeReceive c d =
    onTag d fun g => { g with store := (if 8 ≤ g.store.length then g.store.drop 1 else g.store) ++ [c] } :=
  if_neg (by simp [hup, hheld])

theorem challengeReceive_of_not_kept {d : Dev} (h : fieldPowered d = false ∨ d.keep.hold = true) (c : Octets) : challengeReceive c d = d :=
  if_pos (h.imp_left (by simp))

/-! ### Wired commands (R275) -/

theorem cmdGet_cmdStart (d : Dev) (blk m : Nat) : cmdGet (cmdStart d blk m) blk m = ⟨true, false, 0⟩ := (cmdGet_cmdSet ..).trans (if_pos rfl)

section Wired
variable {d : Dev} {m : Nat}

theorem tagCmd_of_not_taken (h : isF m = false ∨ (cmdGet d 0x24 m).busy = true) (action idx amount : Nat) : tagCmd m action idx amount d = d :=
  if_pos (h.imp_left (by simp))

/-- The octets of a core's TAG_DATA words. -/
def tagData (d : Dev) (m : Nat) : Octets := quadUnpack ((List.range 4).map fun i => pv d m (Reg.TAG_DATA + i))

variable (hm : isF m = true) (hfree : (cmdGet d 0x24 m).busy = false) {action idx : Nat} (amount : Nat)
include hm hfree

theorem tagCmd_joins (haction : 1 ≤ action ∧ action ≤ 4) (hidx : idx < if action ≤ 2 then 128 else 16) : tagCmd m action idx amount d =
    onTag (cmdStart d 0x24 m) fun g =>
      { g with queue := g.queue ++ [{ core := some m, action := action, idx := idx, data := tagData d m, amount := amount }] } := by
  have hvalid : ¬ (action = 0 ∨ 4 < action) := by omega
  have hrange : ¬ (action ≤ 2 ∧ 127 < idx ∨ 3 ≤ action ∧ 15 < idx) := by split at hidx <;> omega
  rw [tagCmd, if_neg (by simp [hm, hfree])]
  dsimp only
  rw [if_neg hvalid, if_neg hrange]
  rfl

theorem tagCmd_out_of_range (haction : action = 3 ∨ action = 4) (hidx : 16 ≤ idx) :
    tagCmd m action idx amount d = cmdDone (cmdStart d 0x24 m) 0x24 m St.badDesc 0x02 0 d.pas.count := by
  rw [tagCmd, if_neg (by simp [hm, hfree])]
  dsimp only
  rw [if_neg (by omega), if_pos (by omega)]
  rfl

end Wired

end Sys2Proof.Machine

/-! Tag memory (O42): the two copies of a word, and the accesses that read and write them (R269 to R276). -/

namespace Sys2Proof.Machine

/-! ### The copies of a word (R269 to R274) -/

theorem tagCopy_congr {d t : Dev} (h : t.tag.mem = d.tag.mem) (i c : Nat) : tagCopy t i c = tagCopy d i c := by rw [tagCopy, h]; rfl

theorem tagValue_congr {d t : Dev} (h : t.tag.mem = d.tag.mem) (i : Nat) : tagValue t i = tagValue d i := by
  simp only [tagValue, tagCurrent, tagCopy_congr h]

theorem tagCurrent_lt {d : Dev} {i c : Nat} (h : tagCurrent d i = some c) : c < 2 := by
  dsimp only [tagCurrent] at h
  split_ifs at h <;> (cases h; decide)

theorem tagValid_tagSealed (i v seq : Nat) : tagValid i (tagSealed i v seq) = true := decide_eq_true rfl

/-- A check code one further, modulo 2^32, is another one. -/
theorem tagValid_tagWrong (i v seq free : Nat) : tagValid i (tagWrong i v seq free) = false := by
  refine decide_eq_false ?_
  show (if free = tagCheck i v seq then (tagCheck i v seq + 1) % 2 ^ 32 else free) ≠ tagCheck i v seq
  split <;> omega

/-- The current copy c of an index is as it was, the other holds a value with the next sequence number, its check code right or wrong, and every other copy
of tag memory is as it was. -/
def NewCopy (d t : Dev) (i c v : Nat) (ok : Bool) : Prop :=
  tagCopy t i c = tagCopy d i c ∧ (tagCopy t i (1 - c)).val = v ∧ (tagCopy t i (1 - c)).seq = ((tagCopy d i c).seq + 1) % 65536 ∧
    tagValid i (tagCopy t i (1 - c)) = ok ∧ ∀ j, j ≠ i → ∀ k, k < 2 → tagCopy t j k = tagCopy d j k

theorem NewCopy.of_mem {d t e : Dev} {i c v : Nat} {ok : Bool} (h : NewCopy d t i c v ok) (hmem : e.tag.mem = t.tag.mem) : NewCopy d e i c v ok := by
  simp only [NewCopy, tagCopy_congr hmem]
  exact h

section Copies
variable {d : Dev} {i c : Nat} (hc : c < 2)
include hc

theorem tagCopy_tagCopySet_current (x : TagCopy) : tagCopy (tagCopySet d i (1 - c) x) i c = tagCopy d i c :=
  (tagCopy_tagCopySet d i i (1 - c) c x (by omega) hc).trans (if_neg (by omega))

theorem tagCopy_tagCopySet_older (x : TagCopy) : tagCopy (tagCopySet d i (1 - c) x) i (1 - c) = x :=
  (tagCopy_tagCopySet d i i (1 - c) (1 - c) x (by omega) (by omega)).trans (if_pos ⟨rfl, rfl⟩)

theorem newCopy_tagCopySet {x : TagCopy} {v : Nat} (hval : x.val = v) (hseq : x.seq = ((tagCopy d i c).seq + 1) % 65536) :
    NewCopy d (tagCopySet d i (1 - c) x) i c v (tagValid i x) := by
  rw [NewCopy, tagCopy_tagCopySet_older hc]
  exact ⟨tagCopy_tagCopySet_current hc x, hval, hseq, rfl,
    fun j hj k hk => (tagCopy_tagCopySet d i j (1 - c) k x (by omega) hk).trans (if_neg fun h => hj h.1)⟩

end Copies

/-- A write of a value to the older copy: nothing but tag memory and the count of free values has changed. -/
structure CopyStored (d t : Dev) (i c v : Nat) (ok : Bool) : Prop where
  copy : NewCopy d t i c v ok
  frame : t = { d with tag := { d.tag with mem := t.tag.mem }, free := t.free }

theorem CopyStored.queue_eq {d t : Dev} {i c v : Nat} {ok : Bool} (h : CopyStored d t i c v ok) : t.tag.queue = d.tag.queue := by rw [h.frame]

section Write
variable {d : Dev} {i c : Nat} (hcur : tagCurrent d i = some c)
include hcur

/-- A write whose read-back agrees stands. -/
theorem tagWrite_stands (v : Nat) : (tagWrite d i v 0).2 = true ∧ CopyStored d (tagWrite d i v 0).1 i c v true := by
  simp only [tagWrite, hcur, Nat.zero_lt_two, if_true, true_and]
  exact ⟨tagValid_tagSealed i v _ ▸ newCopy_tagCopySet (tagCurrent_lt hcur) rfl rfl, rfl⟩

/-- A write whose read-back differs twice fails, and leaves a wrong check code. -/
theorem tagWrite_fails (v : Nat) : (tagWrite d i v 2).2 = false ∧ CopyStored d (tagWrite d i v 2).1 i c v false := by
  simp only [tagWrite, hcur, Nat.lt_irrefl, if_false, true_and]
  have hnew := newCopy_tagCopySet (d := (drawOct d 4).2) (i := i) (tagCurrent_lt hcur)
    (x := tagWrong i v (((tagCopy d i c).seq + 1) % 65536) (leNat (drawOct d 4).1)) rfl rfl
  exact ⟨tagValid_tagWrong i v _ _ ▸ hnew, rfl⟩

/-- A write cut short keeps the current copy, and leaves the older one unchanged, torn or complete. -/
theorem tagCut_leaves (v how : Nat) (hhow : how < 3) : tagCopy (tagCut d i v how) i c = tagCopy d i c ∧
    (how = 0 → tagCopy (tagCut d i v how) i (1 - c) = tagCopy d i (1 - c)) ∧
    (how = 1 → tagValid i (tagCopy (tagCut d i v how) i (1 - c)) = false) ∧ (how = 2 → NewCopy d (tagCut d i v how) i c v true) := by
  have hc := tagCurrent_lt hcur
  match how, hhow with
  | 0, _ =>
    have hkeeps : tagCut d i v 0 = d := by simp only [tagCut, hcur, if_true]
    rw [hkeeps]
    exact ⟨rfl, fun _ => rfl, nofun, nofun⟩
  | 1, _ =>
    simp only [tagCut, hcur, Nat.one_ne_zero, if_false, if_true]
    refine ⟨tagCopy_tagCopySet_current hc _, nofun, fun _ => ?_, nofun⟩
    rw [tagCopy_tagCopySet_older hc]
    exact tagValid_tagWrong ..
  | 2, _ =>
    simp only [tagCut, hcur, OfNat.ofNat_ne_zero, OfNat.ofNat_ne_one, if_false]
    exact ⟨tagCopy_tagCopySet_current hc _, nofun, nofun, fun _ => tagValid_tagSealed i v _ ▸ newCopy_tagCopySet hc rfl rfl⟩

end Write

/-! ### The accesses (R270 to R276) -/

/-- The word an access is for: a block, or a counter behind the blocks. -/
def TagAccess.word (a : TagAccess) : Nat := if a.action ≤ 2 then a.idx else 128 + a.idx

section Single
variable {d : Dev} {a : TagAccess} (hq : d.tag.queue = [a])
include hq

theorem tagNext_of_single : tagNext d = some a := by
  rw [tagNext, hq]
  cases hcore : a.core <;> simp [hcore]

theorem queue_tagTake : (tagTake d a).tag.queue = [] := by
  show d.tag.queue.erase a = []
  rw [hq, List.erase_cons_head]

theorem tagAccess_air (hcore : a.core = none) (verify pass : Nat) : tagAccess verify pass d = airRun (tagTake d a) a verify := by
  rw [tagAccess, tagNext_of_single hq]
  simp only [hcore]

theorem tagAccess_wired {m : Nat} (hcore : a.core = some m) (verify pass : Nat) :
    tagAccess verify pass d = wiredRun (tagTake d a) m a verify pass := by
  rw [tagAccess, tagNext_of_single hq]
  simp only [hcore]

theorem tagCollapse_air (hcore : a.core = none) (how : Nat) : tagCollapse how d = tagEnd (accessCut a how (tagTake d a)) := by
  rw [tagCollapse, tagNext_of_single hq]
  simp only [hcore]

end Single

theorem tagNext_of_empty {d : Dev} (hq : d.tag.queue = []) : tagNext d = none := by rw [tagNext, hq]; rfl

theorem tagReadAnswer_of_value {d : Dev} {i v : Nat} (hval : tagValue d i = some v) (n : Nat) : tagReadAnswer d i n = tagAnswer d (leOct n v) 0x9000 := by
  rw [tagReadAnswer, hval]

theorem tagReadAnswer_of_none {d : Dev} {i : Nat} (hval : tagValue d i = none) (n : Nat) : tagReadAnswer d i n = tagAnswer d [] 0x6581 := by
  rw [tagReadAnswer, hval]

section Run
variable {d : Dev} {a : TagAccess} {v : Nat} (hval : tagValue d a.word = some v)
include hval

/-! One wired access. -/

section Wired
variable (m verify pass : Nat)

theorem wiredRun_reads_block (h : a.action = 1) :
    wiredRun d m a verify pass = tagDone (tagDataSet d m pass (quadPack (leOct 16 v))) m St.done 0 pass := by
  have hblock : tagValue d a.idx = some v := by simpa [TagAccess.word, h] using hval
  simp [wiredRun, h, hblock]

theorem wiredRun_reads_counter (h : a.action = 3) : wiredRun d m a verify pass = tagDone (tagDataSet d m pass [wd v]) m St.done 0 pass := by
  have hcounter : tagValue d (128 + a.idx) = some v := by simpa [TagAccess.word, h] using hval
  simp [wiredRun, h, hcounter]

theorem wiredRun_writes (h : a.action = 2) : wiredRun d m a verify pass =
    if a.idx ∈ d.tag.locks then tagDone d m St.blockBusy 0x01 pass
    else if (tagWrite d a.word (leNat a.data) verify).2 = true then tagDone (tagWrite d a.word (leNat a.data) verify).1 m St.done 0 pass
    else tagDone (tagWrite d a.word (leNat a.data) verify).1 m St.integrity 0x21 pass := by
  have hblock : tagValue d a.idx = some v := by simpa [TagAccess.word, h] using hval
  simp [wiredRun, TagAccess.word, h, hblock]

theorem wiredRun_increments (h : a.action = 4) : wiredRun d m a verify pass =
    if a.amount = 0 then tagDone (tagDataSet d m pass [wd v]) m St.done 0 pass
    else if v = ctrMax then tagDone d m St.writeProt 0x02 pass
    else if (tagWrite d a.word (min (v + a.amount) ctrMax) verify).2 = true then
      tagDone (tagWrite d a.word (min (v + a.amount) ctrMax) verify).1 m St.done 0 pass
    else tagDone (tagWrite d a.word (min (v + a.amount) ctrMax) verify).1 m St.integrity 0x21 pass := by
  have hcounter : tagValue d (128 + a.idx) = some v := by simpa [TagAccess.word, h] using hval
  simp [wiredRun, TagAccess.word, h, hcounter]

end Wired

/-! One access from the air. -/

section Air
variable (verify : Nat)

theorem airRun_writes (h : a.action = 2) : airRun d a verify =
    tagAnswer (tagWrite d a.word (leNat a.data) verify).1 [] (if (tagWrite d a.word (leNat a.data) verify).2 = true then 0x9000 else 0x6581) := by
  have hblock : tagValue d a.idx = some v := by simpa [TagAccess.word, h] using hval
  simp [airRun, TagAccess.word, h, hblock]

theorem airRun_increments (h : a.action = 4) : airRun d a verify =
    if a.amount = 0 then tagAnswer d (leOct 4 v) 0x9000
    else if v = ctrMax then tagAnswer d [] 0x6A84
    else if (tagWrite d a.word (min (v + a.amount) ctrMax) verify).2 = true then
      tagAnswer (tagWrite d a.word (min (v + a.amount) ctrMax) verify).1 (leOct 4 (min (v + a.amount) ctrMax)) 0x9000
    else tagAnswer (tagWrite d a.word (min (v + a.amount) ctrMax) verify).1 [] 0x6581 := by
  have hcounter : tagValue d (128 + a.idx) = some v := by simpa [TagAccess.word, h] using hval
  simp [airRun, TagAccess.word, h, hcounter]

end Air

end Run

/-- The tag core once an access that locks has its block locked. -/
def TagCore.lockedFor (g : TagCore) (a : TagAccess) : TagCore :=
  if a.lock = true ∧ a.idx ∉ g.locks then { g with locks := g.locks ++ [a.idx] } else g

theorem TagCore.idx_mem_lockedFor {g : TagCore} {a : TagAccess} (h : a.lock = true) : a.idx ∈ (g.lockedFor a).locks := by
  rw [lockedFor]
  split
  next => exact List.mem_append_right _ (List.mem_singleton_self _)
  next hheld => exact not_not.1 fun hnot => hheld ⟨h, hnot⟩

theorem TagCore.mem_lockedFor (g : TagCore) (a : TagAccess) : (g.lockedFor a).mem = g.mem := by rw [lockedFor]; split <;> rfl

theorem TagCore.queue_lockedFor (g : TagCore) (a : TagAccess) : (g.lockedFor a).queue = g.queue := by rw [lockedFor]; split <;> rfl

theorem airRun_reads {d : Dev} {a : TagAccess} {v : Nat} (hval : tagValue d a.word = some v) (h : a.action = 1) (verify : Nat) :
    airRun d a verify = tagAnswer (onTag d fun g => g.lockedFor a) (leOct 16 v) 0x9000 := by
  have hlock : (if a.lock ∧ a.idx ∉ d.tag.locks then onTag d (fun t => { t with locks := t.locks ++ [a.idx] }) else d) =
      onTag d fun g => g.lockedFor a := by
    simp only [onTag, TagCore.lockedFor]
    split <;> rfl
  have hmem : (onTag d fun g => g.lockedFor a).tag.mem = d.tag.mem := TagCore.mem_lockedFor ..
  have hsame : tagValue (onTag d fun g => g.lockedFor a) a.word = some v := (tagValue_congr hmem _).trans hval
  refine Eq.trans ?_ (tagReadAnswer_of_value hsame 16)
  rw [← hlock]
  simp only [airRun, TagAccess.word, h, if_true]

/-! ### What an access leaves (R270 to R276) -/

/-- The access that waits alone has run, and what it leaves is as stated. -/
def Accessed (d : Dev) (verify : Nat) (P : Dev → Prop) : Prop :=
  (tagAccess verify d.pas.count d).tag.queue = [] ∧ P (tagAccess verify d.pas.count d)

theorem accessed_of_eq {d e : Dev} {verify : Nat} {P : Dev → Prop} (h : tagAccess verify d.pas.count d = e) (hqueue : e.tag.queue = []) (hP : P e) :
    Accessed d verify P := by
  subst h
  exact ⟨hqueue, hP⟩

/-- Words read by a core's command, to be shown from the next edge. -/
def WordsDue (d t : Dev) (m : Nat) (ws : List Word) : Prop := t.tag.dataDue = d.tag.dataDue ++ [(m, d.pas.count, ws)] ∧ t.priv = d.priv

/-- The result of a core's command. -/
def CmdEnded (t : Dev) (m st sub : Nat) : Prop := cmdGet t 0x24 m = ⟨false, true, st + sub * 256⟩

theorem cmdEnded_tagDone (d : Dev) (m st sub pass : Nat) : CmdEnded (tagDone d m st sub pass) m st sub := cmdGet_cmdDone ..

section Access
variable {d : Dev} {a : TagAccess} {v : Nat} (hq : d.tag.queue = [a])
include hq

section WiredAccess
variable {m : Nat} (hcore : a.core = some m) (hval : tagValue (tagTake d a) a.word = some v)
include hcore hval

theorem wiredAccess_block (h : a.action = 1) :
    Accessed d 0 fun t => t.tag.mem = d.tag.mem ∧ CmdEnded t m St.done 0 ∧ WordsDue d t m (quadPack (leOct 16 v)) :=
  accessed_of_eq ((tagAccess_wired hq hcore ..).trans (wiredRun_reads_block hval m 0 _ h)) (queue_tagTake hq) ⟨rfl, cmdEnded_tagDone .., rfl, rfl⟩

theorem wiredAccess_counter (h : a.action = 3) :
    Accessed d 0 fun t => t.tag.mem = d.tag.mem ∧ CmdEnded t m St.done 0 ∧ WordsDue d t m [wd v] :=
  accessed_of_eq ((tagAccess_wired hq hcore ..).trans (wiredRun_reads_counter hval m 0 _ h)) (queue_tagTake hq) ⟨rfl, cmdEnded_tagDone .., rfl, rfl⟩

theorem wiredAccess_still (h : a.action = 4) (hzero : a.amount = 0) :
    Accessed d 0 fun t => t.tag.mem = d.tag.mem ∧ CmdEnded t m St.done 0 ∧ WordsDue d t m [wd v] :=
  accessed_of_eq ((tagAccess_wired hq hcore ..).trans ((wiredRun_increments hval m 0 _ h).trans (if_pos hzero))) (queue_tagTake hq)
    ⟨rfl, cmdEnded_tagDone .., rfl, rfl⟩

theorem wiredAccess_full (h : a.action = 4) (hsome : a.amount ≠ 0) (hfull : v = ctrMax) :
    Accessed d 0 fun t => t.tag.mem = d.tag.mem ∧ CmdEnded t m St.writeProt 2 :=
  accessed_of_eq ((tagAccess_wired hq hcore ..).trans ((wiredRun_increments hval m 0 _ h).trans ((if_neg hsome).trans (if_pos hfull))))
    (queue_tagTake hq) ⟨rfl, cmdEnded_tagDone ..⟩

theorem wiredAccess_locked (h : a.action = 2) (hlocked : a.idx ∈ d.tag.locks) :
    Accessed d 0 fun t => t.tag.mem = d.tag.mem ∧ CmdEnded t m St.blockBusy 1 :=
  accessed_of_eq ((tagAccess_wired hq hcore ..).trans ((wiredRun_writes hval m 0 _ h).trans (if_pos hlocked))) (queue_tagTake hq)
    ⟨rfl, cmdEnded_tagDone ..⟩

variable {c : Nat}

theorem wiredAccess_written (h : a.action = 2) (hfree : a.idx ∉ d.tag.locks) (hcur : tagCurrent d a.word = some c) :
    Accessed d 0 fun t => NewCopy d t a.word c (leNat a.data) true ∧ CmdEnded t m St.done 0 := by
  obtain ⟨hstands, hstored⟩ := tagWrite_stands (d := tagTake d a) hcur (leNat a.data)
  exact accessed_of_eq ((tagAccess_wired hq hcore ..).trans ((wiredRun_writes hval m 0 _ h).trans ((if_neg hfree).trans (if_pos hstands))))
    (hstored.queue_eq.trans (queue_tagTake hq)) ⟨hstored.copy.of_mem rfl, cmdEnded_tagDone ..⟩

theorem wiredAccess_torn (h : a.action = 2) (hfree : a.idx ∉ d.tag.locks) (hcur : tagCurrent d a.word = some c) :
    Accessed d 2 fun t => NewCopy d t a.word c (leNat a.data) false ∧ CmdEnded t m St.integrity 0x21 := by
  obtain ⟨hfails, htorn⟩ := tagWrite_fails (d := tagTake d a) hcur (leNat a.data)
  exact accessed_of_eq ((tagAccess_wired hq hcore ..).trans ((wiredRun_writes hval m 2 _ h).trans ((if_neg hfree).trans (if_neg (by simp [hfails])))))
    (htorn.queue_eq.trans (queue_tagTake hq)) ⟨htorn.copy.of_mem rfl, cmdEnded_tagDone ..⟩

theorem wiredAccess_incremented (h : a.action = 4) (hsome : a.amount ≠ 0) (hroom : v ≠ ctrMax) (hcur : tagCurrent d a.word = some c) :
    Accessed d 0 fun t => NewCopy d t a.word c (min (v + a.amount) ctrMax) true ∧ CmdEnded t m St.done 0 := by
  obtain ⟨hstands, hstored⟩ := tagWrite_stands (d := tagTake d a) hcur (min (v + a.amount) ctrMax)
  exact accessed_of_eq
    ((tagAccess_wired hq hcore ..).trans ((wiredRun_increments hval m 0 _ h).trans ((if_neg hsome).trans ((if_neg hroom).trans (if_pos hstands)))))
    (hstored.queue_eq.trans (queue_tagTake hq)) ⟨hstored.copy.of_mem rfl, cmdEnded_tagDone ..⟩

end WiredAccess

section AirAccess
variable (hcore : a.core = none)
include hcore

section Value
variable (hval : tagValue (tagTake d a) a.word = some v)
include hval

theorem airAccess_block (h : a.action = 1) : Accessed d 0 fun t =>
    t.tag.mem = d.tag.mem ∧ (a.lock = true → a.idx ∈ t.tag.locks) ∧ t.tag.resp = leOct 16 v ++ beOct 2 0x9000 := by
  refine accessed_of_eq ((tagAccess_air hq hcore ..).trans (airRun_reads hval h 0)) ?_ ⟨?_, fun hlock => ?_, resp_tagAnswer ..⟩
  · exact (queue_tagAnswer ..).trans ((TagCore.queue_lockedFor ..).trans (queue_tagTake hq))
  · exact (mem_tagAnswer ..).trans (TagCore.mem_lockedFor ..)
  · rw [locks_tagAnswer]
    exact TagCore.idx_mem_lockedFor hlock

theorem airAccess_full (h : a.action = 4) (hsome : a.amount ≠ 0) (hfull : v = ctrMax) :
    Accessed d 0 fun t => t.tag.mem = d.tag.mem ∧ t.tag.resp = beOct 2 0x6A84 :=
  accessed_of_eq ((tagAccess_air hq hcore ..).trans ((airRun_increments hval 0 h).trans ((if_neg hsome).trans (if_pos hfull))))
    ((queue_tagAnswer ..).trans (queue_tagTake hq)) ⟨mem_tagAnswer .., resp_tagAnswer ..⟩

variable {c : Nat}

theorem airAccess_written (h : a.action = 2) (hcur : tagCurrent d a.word = some c) :
    Accessed d 0 fun t => NewCopy d t a.word c (leNat a.data) true ∧ t.tag.resp = beOct 2 0x9000 := by
  obtain ⟨hstands, hstored⟩ := tagWrite_stands (d := tagTake d a) hcur (leNat a.data)
  exact accessed_of_eq ((tagAccess_air hq hcore ..).trans ((airRun_writes hval 0 h).trans (congrArg (tagAnswer _ []) (if_pos hstands))))
    ((queue_tagAnswer ..).trans (hstored.queue_eq.trans (queue_tagTake hq))) ⟨hstored.copy.of_mem (mem_tagAnswer ..), resp_tagAnswer ..⟩

theorem airAccess_torn (h : a.action = 2) (hcur : tagCurrent d a.word = some c) :
    Accessed d 2 fun t => NewCopy d t a.word c (leNat a.data) false ∧ t.tag.resp = beOct 2 0x6581 := by
  obtain ⟨hfails, htorn⟩ := tagWrite_fails (d := tagTake d a) hcur (leNat a.data)
  exact accessed_of_eq ((tagAccess_air hq hcore ..).trans ((airRun_writes hval 2 h).trans (congrArg (tagAnswer _ []) (if_neg (by simp [hfails])))))
    ((queue_tagAnswer ..).trans (htorn.queue_eq.trans (queue_tagTake hq))) ⟨htorn.copy.of_mem (mem_tagAnswer ..), resp_tagAnswer ..⟩

theorem airAccess_incremented (h : a.action = 4) (hsome : a.amount ≠ 0) (hroom : v ≠ ctrMax) (hcur : tagCurrent d a.word = some c) :
    Accessed d 0 fun t => NewCopy d t a.word c (min (v + a.amount) ctrMax) true ∧
      t.tag.resp = leOct 4 (min (v + a.amount) ctrMax) ++ beOct 2 0x9000 := by
  obtain ⟨hstands, hstored⟩ := tagWrite_stands (d := tagTake d a) hcur (min (v + a.amount) ctrMax)
  exact accessed_of_eq
    ((tagAccess_air hq hcore ..).trans ((airRun_increments hval 0 h).trans ((if_neg hsome).trans ((if_neg hroom).trans (if_pos hstands)))))
    ((queue_tagAnswer ..).trans (hstored.queue_eq.trans (queue_tagTake hq))) ⟨hstored.copy.of_mem (mem_tagAnswer ..), resp_tagAnswer ..⟩

end Value

/-! A field that collapses (R273). -/

theorem tagCollapse_writes (h : a.action = 2) (how : Nat) : tagCollapse how d = tagEnd (tagCut (tagTake d a) a.word (leNat a.data) how) := by
  have hcut : accessCut a how (tagTake d a) = tagCut (tagTake d a) a.word (leNat a.data) how := by simp [accessCut, TagAccess.word, h, hcore]
  rw [tagCollapse_air hq hcore, hcut]

end AirAccess

theorem queue_tagEnd_tagCut (i v how : Nat) : (tagEnd (tagCut (tagTake d a) i v how)).tag.queue = [] := by
  have hcut : (tagCut (tagTake d a) i v how).tag.queue = (tagTake d a).tag.queue := by
    rw [tagCut]
    split
    · rfl
    · split_ifs <;> rfl
  exact congrArg (List.filter fun x => x.core.isSome) (hcut.trans (queue_tagTake hq))

end Access

end Sys2Proof.Machine

/-! The proof of O42: R262 to R278. -/

namespace Sys2Proof.Machine

/-- Settles O42: a command in an open session answers, or asks for its MAC; an access that waits alone leaves the current copy and writes the older one. -/
theorem tagCoreCommands : Obligations.TagCoreCommands := by
  intro s m b mac hb hmac d g out may opn said answers refuses asks
  have hout {i : Instr} {f : Dev → Dev} {x : TagCore} (hi : exec i s = onDev f s) (hf : f d = onTag d fun _ => x) : exec i s = out x :=
    exec_eq_next hi hf
  have hsaid {i : Instr} {f : Dev → Dev} {k : TagCore → TagCore} {o data : Octets} {sw : Nat} (hi : exec i s = onDev f s)
      (hf : f d = tagAnswer (onTag d k) data sw) (ho : data ++ beOct 2 sw = o) : ∃ t, exec i s = .next t ∧ t.dev.tag = (k g).saying o :=
    ⟨_, exec_eq_next hi hf, (answered_tagAnswer d k data sw).tag.trans (congrArg _ ho)⟩
  have hanswers {i : Instr} {f : Dev → Dev} {data : Octets} {sw : Nat} (hi : exec i s = onDev f s) (hf : f d = tagAnswer d data sw) :
      answers i data sw := by
    have h := answered_tagAnswer d id data sw
    exact ⟨_, exec_eq_next hi hf, h.tag, h.mem_eq, h.fmem_eq, h.ops⟩
  have hrefuses {i : Instr} {f : Dev → Dev} {sw : Nat} (hi : exec i s = onDev f s) (hsw : sw ≠ 0x9000) (hf : f d = tagAnswer (unchallenged d) [] sw) :
      refuses i sw := by
    have h := answered_tagAnswer d (fun g => { g with challenge := none }) [] sw
    exact ⟨_, exec_eq_next hi hf, h.tag, h.mem_eq, h.fmem_eq, h.lkg_eq, h.ops.trans (if_neg hsw)⟩
  have hasks {i : Instr} {f : Dev → Dev} {bad : Option Nat} {head data msg : Octets} {a : TagAccess} (hi : exec i s = onDev f s)
      (hf : f d = macCommand d bad head data mac a) (hmsg : head ++ data = msg) (hbad : ∀ sw, bad = some sw → sw ≠ 0x9000) : asks i bad msg a := by
    subst hmsg
    refine ⟨fun hoff => hrefuses hi (by decide) (hf.trans (macCommand_of_off hoff bad)), fun hon sw h => ?_, fun hon h hnone => ?_,
      fun hon h hsome hdown => ?_, fun c hon h hc hup => ?_⟩ <;> subst h
    · exact hrefuses hi (hbad sw rfl) (hf.trans (macCommand_of_bad hon sw))
    · exact hrefuses hi (by decide) (hf.trans (macCommand_of_no_challenge hon hnone))
    · exact hrefuses hi (by decide) (hf.trans (macCommand_of_unpowered hon hsome hdown))
    · exact ⟨_, exec_eq_next hi (hf.trans (macCommand_asks hon hc hup)), rfl, (tabGet_tabSet ..).trans (if_pos rfl)⟩
  have hisNone {o : Option Nat} (h : o.isSome = true) : o.isNone = false := by simpa using h
  refine ⟨fun p f hp hpassive hnone hclosed => hout rfl (tagStart_opens f hp hpassive hnone hclosed),
    fun p f h => exec_eq_next rfl (tagStart_of_not_free f h), fun hclosed aid data k i hi => ?closed, fun how _ => exec_eq_next rfl (tagLeave_eq how d),
    fun hopn => ?select, fun hopn hunselected => ?unselected, fun hopn hselected => ?reads, fun hopn => ?commands,
    fun hwait st => exec_eq_next rfl (tagVerdict_of_no_wait hwait st), fun a hwait => ?verdict,
    fun c => ?challenge, fun hm hfree k hk => ?wired, fun h k i hi => ?notWired, fun hq u how => ?idle, fun a hq hidx => ?access⟩
  case closed =>
    have hsame (o : Octets) : tagApdu o d = d := tagApdu_of_not_open hclosed o
    simp only [List.mem_cons, List.not_mem_nil, or_false] at hi
    rcases hi with rfl | rfl | rfl | rfl | rfl | rfl | rfl | rfl <;> exact exec_eq_next rfl (hsame _)
  case select => exact hsaid rfl (tagSelect_opened (hisNone hopn.1) hopn.2) rfl
  case unselected =>
    obtain ⟨hsession, hwait⟩ := hopn
    exact ⟨hanswers rfl ((tagReadBlock_opened (hisNone hsession) hwait hb).trans (if_pos hunselected)),
      fun hc => hanswers rfl ((tagReadCounter_opened (hisNone hsession) hwait hc).trans (if_pos hunselected))⟩
  case reads =>
    obtain ⟨hsession, hwait⟩ := hopn
    have hblock := (tagReadBlock_opened (hisNone hsession) hwait hb).trans (if_neg (by simpa using hselected))
    exact ⟨fun v hv => hanswers rfl (hblock.trans (tagReadAnswer_of_value hv 16)), fun hv => hanswers rfl (hblock.trans (tagReadAnswer_of_none hv 16)),
      fun hc v hv => hanswers rfl (((tagReadCounter_opened (hisNone hsession) hwait hc).trans (if_neg (by simpa using hselected))).trans
        (tagReadAnswer_of_value hv 4))⟩
  case commands =>
    obtain ⟨hsession, hwait⟩ := hopn
    have hsession := hisNone hsession
    refine ⟨fun hup c r hstore => hsaid rfl (tagGetChallenge_takes hsession hwait hup hstore) rfl,
      fun h => hanswers rfl (tagGetChallenge_refused hsession hwait h), hasks rfl (tagReadLock_opened hsession hwait hmac hb) rfl
        (refusal_ne_done (by decide) (refusal_ne_done (by decide) nofun)),
      fun data hdata => hasks rfl (tagWriteBlock_opened hsession hwait hmac hb hdata) rfl (refusal_ne_done (by decide) nofun),
      fun k hk hc => hasks rfl (tagIncCounter_opened hsession hwait hmac hc hk) rfl (refusal_ne_done (by decide) nofun),
      fun hheld => hsaid rfl ((tagRelease_opened hsession hwait hb).trans (if_neg (not_not.2 hheld))) rfl,
      fun hfree => hanswers rfl ((tagRelease_opened hsession hwait hb).trans (if_pos hfree))⟩
  case verdict =>
    have hends := tagVerdict_of_wait (d := d) hwait
    refine ⟨hout rfl (hends St.done), ⟨_, exec_eq_next rfl (hends St.untrusted), ?_, ?_⟩,
      fun st hdone huntrusted => hsaid rfl ((hends st).trans ((if_neg hdone).trans (if_neg huntrusted))) rfl⟩
    · exact (answered_tagAnswer d (fun g => { g with wait := none }) [] 0x6982).tag
    · refine (rg_rgSet ..).trans ((if_pos rfl).trans ?_)
      rw [(answered_tagAnswer d (fun g => { g with wait := none }) [] 0x6982).regs _ (by decide)]
  case challenge =>
    exact ⟨fun hup hheld => hout rfl (challengeReceive_stores hup hheld c), fun h => exec_eq_next rfl (challengeReceive_of_not_kept h c)⟩
  case wired =>
    intro data takes
    have htakes {i : Instr} {action idx amount : Nat} (hi : exec i s = onDev (tagCmd m action idx amount) s) (haction : 1 ≤ action ∧ action ≤ 4)
        (hidx : idx < if action ≤ 2 then 128 else 16) : takes i action idx amount :=
      ⟨_, exec_eq_next hi (tagCmd_joins hm hfree amount haction hidx), cmdGet_cmdStart d 0x24 m, rfl, rfl⟩
    have hidx : b % 128 = b := Nat.mod_eq_of_lt hb
    have hamount : k % 256 = k := Nat.mod_eq_of_lt hk
    have hread : exec (.wiredReadBlock m b) s = onDev (tagCmd m 1 b 0) s := congrArg (fun b => onDev (tagCmd m 1 b 0) s) hidx
    have hwrite : exec (.wiredWriteBlock m b) s = onDev (tagCmd m 2 b 0) s := congrArg (fun b => onDev (tagCmd m 2 b 0) s) hidx
    have hcount : exec (.wiredReadCounter m b) s = onDev (tagCmd m 3 b 0) s := congrArg (fun b => onDev (tagCmd m 3 b 0) s) hidx
    have hinc : exec (.wiredIncCounter m b k) s = onDev (tagCmd m 4 b k) s := congrArg₂ (fun b k => onDev (tagCmd m 4 b k) s) hidx hamount
    refine ⟨htakes hread (by decide) hb, htakes hwrite (by decide) hb,
      fun hc => ⟨htakes hcount (by decide) hc, htakes hinc (by decide) hc⟩, fun hc i hi => ?_⟩
    simp only [List.mem_cons, List.not_mem_nil, or_false] at hi
    rcases hi with rfl | rfl
    · exact ⟨_, exec_eq_next hcount (tagCmd_out_of_range hm hfree 0 (.inl rfl) hc), cmdGet_cmdDone .., rfl⟩
    · exact ⟨_, exec_eq_next hinc (tagCmd_out_of_range hm hfree k (.inr rfl) hc), cmdGet_cmdDone .., rfl⟩
  case notWired =>
    have hsame (action idx amount : Nat) : tagCmd m action idx amount d = d := tagCmd_of_not_taken h action idx amount
    simp only [List.mem_cons, List.not_mem_nil, or_false] at hi
    rcases hi with rfl | rfl | rfl | rfl <;> exact exec_eq_next rfl (hsame ..)
  case idle =>
    have hnext := tagNext_of_empty hq
    refine ⟨exec_eq_next rfl ?_, _, exec_eq_next (f := tagCollapse how) (e := tagEnd d) rfl ?_, rfl, rfl⟩
    · rw [tagAccess, hnext]
    · rw [tagCollapse, hnext]
  case access =>
    intro i runs same writes reads result
    have hruns {verify : Nat} {P : Dev → Prop} (h : Accessed d verify P) : runs verify (fun t => P t.dev) := ⟨_, exec_eq_next rfl rfl, h.1, h.2⟩
    refine ⟨fun m v hcore hval => ⟨fun h => hruns (wiredAccess_block hq hcore hval h), fun h => hruns (wiredAccess_counter hq hcore hval h),
        fun h hzero => hruns (wiredAccess_still hq hcore hval h hzero), fun h hsome hfull => hruns (wiredAccess_full hq hcore hval h hsome hfull),
        fun h hlocked => hruns (wiredAccess_locked hq hcore hval h hlocked), fun c hcur => ⟨fun h hfree =>
          ⟨hruns (wiredAccess_written hq hcore hval h hfree hcur), hruns (wiredAccess_torn hq hcore hval h hfree hcur)⟩,
          fun h hsome hroom => hruns (wiredAccess_incremented hq hcore hval h hsome hroom hcur)⟩⟩,
      fun v c hcore hval hcur => ⟨fun h => hruns (airAccess_block hq hcore hval h),
        fun h => ⟨hruns (airAccess_written hq hcore hval h hcur), hruns (airAccess_torn hq hcore hval h hcur)⟩,
        fun h hsome hfull => hruns (airAccess_full hq hcore hval h hsome hfull),
        fun h hsome hroom => hruns (airAccess_incremented hq hcore hval h hsome hroom hcur), fun h how hhow => ?_⟩⟩
    obtain ⟨hcurrent, hunchanged, htorn, hcomplete⟩ := tagCut_leaves (d := tagTake d a) hcur (leNat a.data) how hhow
    exact ⟨_, exec_eq_next rfl (tagCollapse_writes hq hcore h how), rfl, queue_tagEnd_tagCut hq .., rfl, hcurrent, hunchanged, htorn, hcomplete⟩

end Sys2Proof.Machine

/-! The send rings of the cores (O43): the barge that a doorbell queues knows its place in its ring (R291). -/

namespace Sys2Proof.Machine

/-- The first register word of F3's send ring (R291). -/
def f3Ring : Nat := isl 0x23 (Reg.LKG_TXQ_BASE + 12)

/-- F3's send ring of 16 entries in field SRAM, which the field end of the Lockgate may read; its first entry is a PRESENCE_REPORT of zeros. -/
def f3Reports : Dev :=
  { regs := [(0x07C101, 0xFFFFFFFF0), (0x07C102, 0xFFF), (f3Ring, 0x010000000), (f3Ring + 1, 4)], fmem := [(0x010000000, 1)] }

/-- The send queue of F3 on lane 3 towards the host. -/
def f3Queue : Nat := 3 * 32 + 16 + 3

/-- The doorbell of the one entry queues a barge that holds the position of that entry. -/
theorem pos_of_f3_doorbell : (tabGet [] (txqTailWrite 0x23 1 f3Reports).lkg.sendq f3Queue).map (·.pos) = [some 0] := by decide

/-- A barge read from 16 words holds no position. -/
theorem pos_bargeOf (toField : Bool) (lane : Nat) (ws : List Word) : (bargeOf toField lane ws).pos = none := rfl

/-- Refutes O43: a permitted entry is queued with the position of its entry in the send ring, from which LKG_TXQ_HEAD is told, where the statement's
barge is read from the entry's words alone and has no position. -/
theorem not_lockgateLanes : ¬ Obligations.LockgateLanes := by
  intro h
  have hring := (h.2 { dev := f3Reports } 0x23 1 (.inl rfl)).1 (by decide) (by decide) (by decide) (by decide) (by decide) (by decide) (by decide)
  obtain ⟨t, hexec, -, hqueued, -⟩ := hring.1 (by decide)
  obtain rfl : { dev := txqTailWrite 0x23 1 f3Reports } = t := Host.Outcome.next.inj hexec
  have hpos := congrArg (List.map (·.pos)) hqueued
  exact absurd (pos_of_f3_doorbell.symm.trans hpos) (by decide)

end Sys2Proof.Machine

/-! The arrival of a barge (O44): what the lane and its end are left with, and what each type's row then does (R284 to R287, Table 11.3). -/

namespace Sys2Proof.Machine

/-! ### A barge taken off its lane (R284, R285) -/

theorem laneKey_eq (toField : Bool) (lane : Nat) : laneKey toField lane = (if toField = true then 4 else 0) + lane := by
  cases toField <;> rfl

/-- A whole message of a type stands at the front of its lane, in order, for an end that is up and has a place where it can wait. -/
structure BargeArrives (d : Dev) (b : Barge) (r : List Barge) (type lane : Nat) (toField : Bool) : Prop where
  type_eq : b.type = type
  lane_eq : b.lane = lane
  toField_eq : b.toField = toField
  whole : b.cont = false
  up : toField = true → d.lkg.fieldUp = true
  front : tabGet [] d.lkg.wire (laneKey toField lane) = b :: r
  inOrder : b.seq = tabGet 0 d.lkg.seqRx (laneKey toField lane)
  noHalf : tabGet [] d.lkg.halves (laneKey toField lane) = []
  noSkip : tabGet 0 d.lkg.skip (laneKey toField lane) = 0
  room : (tabGet [] d.lkg.waiting (laneKey toField lane)).length < 64

/-- The device once its lane's oldest barge has been received. -/
def bargeTaken (d : Dev) (b : Barge) (r : List Barge) : Dev :=
  let k := laneKey b.toField b.lane
  onLkg d fun l => { l with wire := tabSet [] l.wire k r, seqRx := tabSet 0 l.seqRx k ((b.seq + 1) % 4096), skip := tabSet 0 l.skip k 0 }

/-- Codes that met no error pattern pass. -/
theorem laneWordOk_clean (b : Barge) (i : Nat) : laneWordOk b [] i = true := by simp [laneWordOk]

section Arrives
variable {d : Dev} {b : Barge} {r : List Barge} {type lane : Nat} {toField : Bool} (h : BargeArrives d b r type lane toField)
include h

theorem BargeArrives.not_full : laneFull d toField lane = false := by
  have hroom := h.room
  simp only [laneFull, waitingAt, waitSlots, h.noHalf, List.length_nil, decide_eq_false_iff_not]
  omega

theorem BargeArrives.received (htype : typeLane type = some (lane, toField)) :
    bargeReceive toField lane [] d = bargeArrive b none (bargeTaken d b r) := by
  have hup : ¬ (toField = true ∧ ¬ d.lkg.fieldUp = true) := fun hdown => hdown.2 (h.up hdown.1)
  have hgood : ¬ (¬ (List.range 16).all (laneWordOk b []) = true ∨ b.seq ≠ tabGet 0 d.lkg.seqRx (laneKey toField lane) ∨
      typeLane b.type ≠ some (lane, toField)) := by
    simp [laneWordOk_clean, h.inOrder, h.type_eq, htype]
  have hkey : laneKey b.toField b.lane = laneKey toField lane := by rw [h.toField_eq, h.lane_eq]
  simp only [bargeReceive, h.front, lkg_onLkg, hup, h.not_full, hgood, h.noSkip, h.noHalf, h.whole, if_false, Bool.false_eq_true, Nat.right_eq_add,
    Nat.add_eq_zero_iff, Nat.one_ne_zero, and_false, decide_false, Bool.false_and, bargeTaken, hkey]

/-- A command of a barge's type receives the barge. -/
theorem BargeArrives.typedReceive_eq (htype : typeLane type = some (lane, toField)) :
    typedReceive type d = bargeArrive b none (bargeTaken d b r) := by
  rw [← h.received htype]
  simp only [typedReceive, htype, h.front, h.type_eq, if_true]

end Arrives

section OfType
variable {type lane : Nat} {toField : Bool} (htype : typeLane type = some (lane, toField)) (d : Dev)
include htype

theorem typedReceive_of_other_front (h : ∀ b r, tabGet [] d.lkg.wire (laneKey toField lane) = b :: r → b.type ≠ type) : typedReceive type d = d := by
  simp only [typedReceive, htype]
  split
  next b r hfront => exact if_neg (h b r hfront)
  next => rfl

theorem typedReceive_of_front {b : Barge} {r : List Barge} (hfront : tabGet [] d.lkg.wire (laneKey toField lane) = b :: r) (hb : b.type = type) :
    typedReceive type d = bargeReceive toField lane [] d := by
  simp only [typedReceive, htype, hfront, hb, if_true]

end OfType

/-! ### Reports, grants, records and messages (R286, R291) -/

/-- The types that go to a core. -/
theorem bargeArrive_toCore {b : Barge} (h : b.type ∈ [0x01, 0x02, 0x07, 0x08, 0x04, 0x10]) (c : Option Barge) (d : Dev) :
    bargeArrive b c d = toCore b d := if_pos h

theorem length_fit15 (ws : List Word) : (fit15 ws).length = 15 := by
  rw [fit15, List.length_append, List.length_take, List.length_replicate]
  omega

theorem length_bargeWords (b : Barge) : (bargeWords b).length = 16 := by rw [bargeWords, List.length_cons, length_fit15]

/-- A barge towards the field is for a field core, one towards the host for a host core. -/
theorem isF_bargeCore (d : Dev) (b : Barge) : isF (bargeCore d b) = b.toField := by
  have hroute : ∀ hi lo, hi + 1 - lo = 3 → fld (rg d Reg.LKG_ROUTE) hi lo < 8 := fun hi lo h => by
    rw [fld, nfld, h]
    exact Nat.mod_lt _ (by decide)
  have h0 := hroute 2 0 rfl
  have h3 := hroute 5 3 rfl
  have h6 := hroute 8 6 rfl
  have h9 := hroute 11 9 rfl
  cases hdir : b.toField with
  | true =>
    simp only [bargeCore, hdir, if_true, isF, Bool.and_eq_true, decide_eq_true_eq]
    omega
  | false =>
    simp only [bargeCore, hdir, Bool.false_eq_true, if_false, isF, Bool.and_eq_false_iff, decide_eq_false_iff_not]
    split_ifs <;> omega

/-- The device with a barge's words in the memory of its core's island. -/
def bargeStored (b : Barge) (a : Nat) (d : Dev) : Dev :=
  if b.toField then fmWr d a (bargeWords b) else loseResv { d with mem := tabSetList 0 d.mem a (bargeWords b) } none false a 16

/-- The device with a barge in its core's receive ring, and presented. -/
def bargeWritten (b : Barge) (a : Nat) (d : Dev) : Dev :=
  noteMem (pushInput (ringAdvance (bargeCore d b) Reg.LKG_RXQ_BASE 3 1 (bargeStored b a d)) (bargeCore d b) 2 b.lane (bargeStored b a d).pas.count
    ((bargeWords b).map (·.toNat))) [(a, 16)]

section Stored
variable {b : Barge} (a : Nat) (d : Dev)

theorem bargeStored_field (h : b.toField = true) : bargeStored b a d = fmWr d a (bargeWords b) := if_pos h

theorem bargeStored_host (h : b.toField = false) :
    bargeStored b a d = loseResv { d with mem := tabSetList 0 d.mem a (bargeWords b) } none false a 16 := if_neg (by rw [h]; exact Bool.false_ne_true)

theorem bargeStored_frame (b : Barge) : (bargeStored b a d).lkg = d.lkg ∧ (bargeStored b a d).pas = d.pas := by
  cases h : b.toField with
  | true => rw [bargeStored_field a d h]; exact ⟨rfl, rfl⟩
  | false => rw [bargeStored_host a d h]; exact ⟨rfl, rfl⟩

variable {m : Nat} (hm : isF m = b.toField)
include hm

theorem ramWord_bargeStored_of_inside {j : Nat} (hj : j < 16) : ramWord (bargeStored b a d) m (a + j) = (bargeWords b).getD j 0 := by
  have hlt : j < (bargeWords b).length := by rwa [length_bargeWords]
  rw [← List.getElem_eq_getD (h := hlt)]
  cases h : b.toField with
  | true => rw [bargeStored_field a d h, ramWord, if_pos (hm.trans h)]; exact fmRd_fmWr_of_inside d a j _ hlt
  | false =>
    rw [bargeStored_host a d h, ramWord, if_neg (by rw [hm, h]; exact Bool.false_ne_true)]
    simp only [memRd, loseResv_mem]
    exact tabGet_tabSetList_of_inside 0 d.mem a j _ hlt

theorem ramWord_bargeStored_of_outside {c : Nat} (hc : c < a ∨ a + 16 ≤ c) : ramWord (bargeStored b a d) m c = ramWord d m c := by
  rw [← length_bargeWords b] at hc
  cases h : b.toField with
  | true => rw [bargeStored_field a d h, ramWord, ramWord, if_pos (hm.trans h), if_pos (hm.trans h)]; exact fmRd_fmWr_of_outside d a c _ hc
  | false =>
    have hhost : ¬ isF m = true := by rw [hm, h]; exact Bool.false_ne_true
    rw [bargeStored_host a d h, ramWord, ramWord, if_neg hhost, if_neg hhost]
    simp only [memRd, loseResv_mem]
    exact tabGet_tabSetList_of_outside 0 d.mem a c _ hc

end Stored

section ToCore
variable {b : Barge} {d : Dev} (hfirst : ∀ y ∈ waitingAt d b.toField b.lane, bargeCore d y ≠ bargeCore d b)
include hfirst

theorem toCore_first : toCore b d = (rxWrite b d).getD (rxWait b (rxRefused b d)) := by
  refine if_neg ?_
  simpa using hfirst

/-- R286, R291: a barge with room in its core's receive ring is written there and presented. -/
theorem toCore_written {a : Nat} (hslot : rxSlot d (bargeCore d b) = some a)
    (hpermitted : refusedIn d (if b.toField then 0xC1 else 0xC0) (bargeCore d b) 1 1 a 16 = none) : toCore b d = bargeWritten b a d := by
  rw [toCore_first hfirst]
  simp only [rxWrite, hslot, hpermitted, Option.getD_some]
  rfl

/-- Without room it waits at its end. -/
theorem toCore_waits (hslot : rxSlot d (bargeCore d b) = none) : toCore b d = rxWait b d := by
  rw [toCore_first hfirst]
  simp only [rxWrite, rxRefused, hslot, Option.getD_none]

end ToCore

/-- The waiting barges of an end with one more. -/
def waitingWith (b : Barge) (d : Dev) : Lockgate :=
  { d.lkg with waiting := tabSet [] d.lkg.waiting (laneKey b.toField b.lane) (waitingAt d b.toField b.lane ++ [b]) }

/-- A barge that waits changes the waiting barges, and the count of stalls. -/
theorem rxWait_frame (b : Barge) (d : Dev) : rxWait b d = { d with lkg := waitingWith b d, regs := (rxWait b d).regs } := by
  unfold rxWait
  extract_lets
  split <;> rfl

theorem waiting_rxWait (b : Barge) (d : Dev) :
    tabGet [] (rxWait b d).lkg.waiting (laneKey b.toField b.lane) = tabGet [] d.lkg.waiting (laneKey b.toField b.lane) ++ [b] := by
  rw [rxWait_frame]
  exact (tabGet_tabSet ..).trans (if_pos rfl)

/-! ### Requests (R80, R290) -/

/-- The device e is d after a request has become an operation in flight, or has joined those that wait for an entry. -/
def RequestEntered (d : Dev) (o : Op) (e : Dev) : Prop :=
  (d.waitq = [] ∧ inFlight d < 131072 → e.ops = d.ops ++ [o] ∧ e.waitq = []) ∧
    (d.waitq ≠ [] ∨ 131072 ≤ inFlight d → e.waitq = d.waitq ++ [o] ∧ e.ops = d.ops)

theorem requestEntry_entered {d : Dev} (hhold : d.keep.hold = false) (o : Op) : ∃ id, RequestEntered d { o with id := id } (requestEntry d o) := by
  by_cases hwait : d.waitq ≠ [] ∨ 131072 ≤ inFlight d
  · refine ⟨o.id, fun hroom => absurd hwait (by simpa using hroom), fun _ => ?_⟩
    rw [requestEntry, if_pos hwait]
    exact ⟨rfl, rfl⟩
  · have hroom : d.waitq = [] ∧ inFlight d < 131072 := by simpa using hwait
    refine ⟨d.opSeq, fun _ => ?_, fun h => absurd h hwait⟩
    rw [requestEntry, if_neg hwait]
    simp only [hhold, Bool.false_eq_true, if_false]
    exact ⟨rfl, hroom.1⟩

theorem bargeArrive_credQuery {b : Barge} (h : b.type = 0x03) (c : Option Barge) (d : Dev) : bargeArrive b c d = credQuery b d := by
  rw [bargeArrive, h]; rfl

theorem bargeArrive_cryptoRequest {b : Barge} (h : b.type = 0x05) (c : Option Barge) (d : Dev) : bargeArrive b c d = cryptoRequest b c d := by
  rw [bargeArrive, h]; rfl

/-- R202: the operation of a query, the digest its input. -/
theorem credQuery_entered {d : Dev} (hhold : d.keep.hold = false) (b : Barge) : ∃ o, RequestEntered d o (credQuery b d) ∧
    o.src = .barge b.core b.ref 0x03 ∧ o.ctx = 0xC0 ∧ o.opcode = 0x40 ∧ o.phase = .staged ∧ o.eligAt = d.pas.count + 1 ∧
    o.input = quadUnpack ((List.range 8).map (fun i => b.payload.getD (i + 1) 0)) ∧ o.aux.getD 0 0 = fld (b.payload.getD 0 0) 15 0 := by
  obtain ⟨id, hentered⟩ := requestEntry_entered hhold _
  exact ⟨_, hentered, rfl, rfl, rfl, rfl, rfl, rfl, rfl⟩

/-! ### Descriptors (Table 3.12) -/

section PutAt
variable {o x : Octets} {off : Nat} (hfits : off + x.length ≤ o.length)
include hfits

theorem length_putAt : (putAt o off x).length = o.length := by
  simp only [putAt, List.length_append, List.length_take, List.length_drop]
  omega

theorem leAt_putAt_same : leAt (putAt o off x) off x.length = leNat x := by
  have hlen : (o.take off).length = off := List.length_take_of_le (by omega)
  rw [putAt, List.append_assoc, leAt_append_right hlen.le, hlen, Nat.sub_self, leAt, slice, List.drop_zero, List.take_left']
  rfl

theorem leAt_putAt_of_apart {i n : Nat} (h : i + n ≤ off ∨ off + x.length ≤ i) : leAt (putAt o off x) i n = leAt o i n := by
  have hlen : (o.take off).length = off := List.length_take_of_le (by omega)
  rcases h with hbelow | habove
  · have hsplit : leAt (o.take off ++ o.drop off) i n = leAt (putAt o off x) i n := by
      simp only [leAt, slice, putAt, List.append_assoc]
      rw [List.drop_append_of_le_length (by omega), List.drop_append_of_le_length (by omega), List.take_append_of_le_length, List.take_append_of_le_length]
      all_goals rw [List.length_drop, hlen]; omega
    rw [← hsplit, List.take_append_drop]
  · rw [putAt, leAt_append_right (by rw [List.length_append, hlen]; omega), leAt, leAt, slice, slice, List.drop_drop, List.length_append, hlen,
      Nat.add_sub_cancel' habove]

end PutAt

/-- Octets of a string with fields placed at their offsets. -/
def putFields (o : Octets) (fs : List (Nat × Nat × Nat)) : Octets := fs.foldl (fun d x => putAt d x.1 (leOct x.2.1 x.2.2)) o

section PutFields
variable {o : Octets} {fs : List (Nat × Nat × Nat)} (hfits : ∀ f ∈ fs, f.1 + f.2.1 ≤ o.length)
include hfits

theorem length_putFields : (putFields o fs).length = o.length := by
  induction fs generalizing o with
  | nil => rfl
  | cons f fs ih =>
    have hput : (putAt o f.1 (leOct f.2.1 f.2.2)).length = o.length := length_putAt (by rw [length_leOct]; exact hfits f (.head _))
    exact (ih fun g hg => hput ▸ hfits g (.tail _ hg)).trans hput

theorem leAt_putFields_of_apart {i n : Nat} (h : ∀ f ∈ fs, i + n ≤ f.1 ∨ f.1 + f.2.1 ≤ i) : leAt (putFields o fs) i n = leAt o i n := by
  induction fs generalizing o with
  | nil => rfl
  | cons f fs ih =>
    have hfirst : f.1 + (leOct f.2.1 f.2.2).length ≤ o.length := by rw [length_leOct]; exact hfits f (.head _)
    refine (ih (fun g hg => length_putAt hfirst ▸ hfits g (.tail _ hg)) fun g hg => h g (.tail _ hg)).trans (leAt_putAt_of_apart hfirst ?_)
    rw [length_leOct]
    exact h f (.head _)

/-- Fields that do not meet read back. -/
theorem leAt_putFields_of_mem (hapart : fs.Pairwise fun f g => f.1 + f.2.1 ≤ g.1 ∨ g.1 + g.2.1 ≤ f.1) {f : Nat × Nat × Nat} (hf : f ∈ fs) :
    leAt (putFields o fs) f.1 f.2.1 = f.2.2 % 256 ^ f.2.1 := by
  induction fs generalizing o with
  | nil => cases hf
  | cons g fs ih =>
    obtain ⟨hg, hrest⟩ := List.pairwise_cons.1 hapart
    have hfirst : g.1 + (leOct g.2.1 g.2.2).length ≤ o.length := by rw [length_leOct]; exact hfits g (.head _)
    have hfits' : ∀ e ∈ fs, e.1 + e.2.1 ≤ (putAt o g.1 (leOct g.2.1 g.2.2)).length := fun e he => length_putAt hfirst ▸ hfits e (.tail _ he)
    rcases List.mem_cons.1 hf with rfl | hf
    · have hread := leAt_putAt_same hfirst
      rw [length_leOct, leNat_leOct] at hread
      exact (leAt_putFields_of_apart hfits' hg).trans hread
    · exact ih hfits' hrest hf

end PutFields

theorem length_hdrOct (opcode : Nat) (h : DescHdr) : (hdrOct opcode h).length = 8 := by simp only [hdrOct, List.length_append, length_leOct]

/-- The fields of the header, before the body. -/
theorem hdrOct_fields (opcode : Nat) (h : DescHdr) {f : Nat × Nat × Nat}
    (hf : f ∈ [(0, 1, opcode), (1, 1, b2n h.intr + 2 * b2n h.barrier), (2, 1, h.rqMode % 4 + 16 * (h.rqK % 16)), (3, 1, 0), (4, 4, h.opTag)]) :
    f.1 + f.2.1 ≤ 8 ∧ leAt (fitTo 64 (hdrOct opcode h)) f.1 f.2.1 = f.2.2 % 256 ^ f.2.1 := by
  have hbase : fitTo 64 (hdrOct opcode h) = hdrOct opcode h ++ zeros 56 := by
    rw [fitTo, length_hdrOct, List.take_of_length_le (by rw [length_hdrOct]; decide)]
  simp only [List.mem_cons, List.not_mem_nil, or_false] at hf
  rw [hbase, hdrOct]
  rcases hf with rfl | rfl | rfl | rfl | rfl <;> simp [leAt_append_right, leAt_leOct_append, length_leOct]

/-- A descriptor assembled from body fields that do not meet is described by them. -/
theorem described_mkDesc (opcode : Nat) (h : DescHdr) {fs : List (Nat × Nat × Nat)} (hbody : ∀ f ∈ fs, 8 ≤ f.1 ∧ f.1 + f.2.1 ≤ 64)
    (hapart : fs.Pairwise fun f g => f.1 + f.2.1 ≤ g.1 ∨ g.1 + g.2.1 ≤ f.1) : described opcode h fs (mkDesc opcode h fs) := by
  have hlen : (fitTo 64 (hdrOct opcode h)).length = 64 := fitTo_length (by rw [length_hdrOct]; decide)
  have hfits : ∀ f ∈ fs, f.1 + f.2.1 ≤ (fitTo 64 (hdrOct opcode h)).length := fun f hf => hlen ▸ (hbody f hf).2
  refine ⟨(length_putFields hfits).trans hlen, fun f hf => ?_⟩
  rcases List.mem_append.1 hf with hf | hf
  · obtain ⟨hbelow, hread⟩ := hdrOct_fields opcode h hf
    exact (leAt_putFields_of_apart hfits fun g hg => .inl (hbelow.trans (hbody g hg).1)).trans hread
  · exact leAt_putFields_of_mem hfits hapart hf

/-- R290, Table 11.4: the operation of a request to a cipher lane, its data in the order the lane takes it. -/
theorem cryptoRequest_entered {d : Dev} (hhold : d.keep.hold = false) {b : Barge} (hop : fld (b.payload.getD 0 0) 16 14 < 4) :
    let w0 := b.payload.getD 0 0
    let w1 := b.payload.getD 1 0
    let op := fld w0 16 14
    let tl := fld w0 25 21
    let il := fld w0 30 26
    let aad := fld w1 5 0
    let pay := fld w1 11 6
    let x := denseUnpack ((b.payload.drop 2).take 12)
    let tin := if op = 1 ∨ op = 3 then tl else 0
    ∃ o, RequestEntered d o (cryptoRequest b none d) ∧ o.src = .barge b.core b.ref 0x05 ∧ o.ctx = 0xC0 ∧ o.phase = .staged ∧
      described (0x10 + op) {} [(8, 2, fld w0 13 0), (10, 1, fld w0 20 17), (12, 4, aad), (16, 4, pay), (20, 1, il), (21, 1, tl),
        (40, 16, leNat (x.take il))] o.desc ∧
      o.input = fitTo (aad + pay + tin) (slice x (il + tin) (aad + pay) ++ slice x il tin) := by
  intro w0 w1 op tl il aad pay x tin
  have hcipher : decide (4 ≤ fld (b.payload.getD 0 0) 16 14) = false := decide_eq_false (Nat.not_le.2 hop)
  have hstream : cryptoStream b none = x := List.append_nil _
  obtain ⟨id, hentered⟩ := requestEntry_entered hhold _
  refine ⟨_, hentered, rfl, rfl, rfl, ?_, ?_⟩
  · simp only [hcipher, Bool.false_eq_true, if_false, hstream]
    exact described_mkDesc _ _ (by simp) (by simp)
  · simp only [hstream]
    rfl

end Sys2Proof.Machine

/-! What configuration, firmware, draws, challenges and replay barges do at the end that receives them (O44): R187, R267, R287, R289, R436. -/

namespace Sys2Proof.Machine

/-! ### Verdicts of the tag core (R266, R290) -/

theorem bargeArrive_verdict {b : Barge} (h : b.type = 0x06) (hcore : b.core = 4) (d : Dev) :
    bargeArrive b none d = tagVerdict (fld (b.payload.getD 0 0) 7 0) (answered d b) := by
  rw [bargeArrive, h]
  exact if_pos hcore

theorem tag_answered (d : Dev) (b : Barge) : (answered d b).tag = d.tag := by
  unfold answered
  split <;> rfl

/-! ### Calibration (R226, R244, R289) -/

/-- A fold whose steps leave something alone leaves it alone. -/
theorem foldl_leaves {α β γ : Type} (p : β → γ) {g : β → α → β} (h : ∀ x a, p (g x a) = p x) (l : List α) (x : β) : p (l.foldl g x) = p x := by
  induction l generalizing x with
  | nil => rfl
  | cons a l ih => exact (ih _).trans (h x a)

/-- A fold that marks each member for which a condition holds that no mark changes: what is then marked. -/
theorem foldl_marks {β : Type} {marked has : β → Nat → Bool} {mark : β → Nat → β} (hhas : ∀ x n, has (mark x n) = has x)
    (hmarked : ∀ x n k, marked (mark x n) k = (marked x k || decide (k = n))) (l : List Nat) (x : β) (k : Nat) :
    marked (l.foldl (fun x n => if has x n then mark x n else x) x) k = (marked x k || (decide (k ∈ l) && has x k)) := by
  induction l generalizing x with
  | nil => simp
  | cons n l ih =>
    have hnext : has (if has x n then mark x n else x) = has x := by
      split
      · exact hhas x n
      · rfl
    rw [List.foldl_cons, ih, hnext]
    by_cases hn : has x n = true
    · rw [if_pos hn, hmarked]
      by_cases hk : k = n
      · simp [hk, hn]
      · simp [hk]
    · rw [if_neg hn]
      by_cases hk : k = n
      · simp [hk, hn]
      · simp [hk]

/-- Chain n is calibrated. -/
def chainMark (d : Dev) (n : Nat) : Dev := chainSet d n { chainGet d n with cal := true }
/-- Ping engine e is calibrated. -/
def engMark (d : Dev) (e : Nat) : Dev := engSet d e { engGet d e with cal := true }

/-- The chains whose records have come are calibrated. -/
def calChains (d : Dev) : Dev := (List.range 32).foldl (fun d n => if calHas d (64 * n) 64 then chainMark d n else d) d

theorem calJudge_eq (d : Dev) :
    calJudge d = (List.range 16).foldl (fun d e => if calHas d (2048 + 14 * e) 14 then engMark d e else d) (calChains d) := rfl

/-- What calibration leaves alone. -/
def uncalibrated (d : Dev) : Lockgate × Pas × Tab Word × Tab Word := (d.lkg, d.pas, d.regs, d.fld.cal)

theorem chain_chainMark (d : Dev) (n k : Nat) : (chainGet (chainMark d n) k).cal = ((chainGet d k).cal || decide (k = n)) := by
  rw [chainMark, chainGet_chainSet]
  by_cases h : k = n <;> simp [h]

theorem eng_engMark (d : Dev) (e k : Nat) : (engGet (engMark d e) k).cal = ((engGet d k).cal || decide (k = e)) := by
  rw [engMark, engGet_engSet]
  by_cases h : k = e <;> simp [h]

theorem uncalibrated_calChains (d : Dev) : uncalibrated (calChains d) = uncalibrated d := by
  refine foldl_leaves uncalibrated (fun x n => ?_) _ d
  split <;> rfl

theorem engGet_calChains (d : Dev) (e : Nat) : engGet (calChains d) e = engGet d e := by
  refine foldl_leaves (engGet · e) (fun x n => ?_) _ d
  split <;> rfl

theorem uncalibrated_calJudge (d : Dev) : uncalibrated (calJudge d) = uncalibrated d := by
  refine Eq.trans ?_ (uncalibrated_calChains d)
  rw [calJudge_eq]
  refine foldl_leaves uncalibrated (fun x n => ?_) _ _
  split <;> rfl

theorem calHas_of_cal {d e : Dev} (h : e.fld.cal = d.fld.cal) (at_ n : Nat) : calHas e at_ n = calHas d at_ n := by rw [calHas, h, calHas]

theorem chain_calJudge (d : Dev) {c : Nat} (hc : c < 32) : (chainGet (calJudge d) c).cal = ((chainGet d c).cal || calHas d (64 * c) 64) := by
  have heng : chainGet (calJudge d) c = chainGet (calChains d) c := by
    rw [calJudge_eq]
    refine foldl_leaves (chainGet · c) (fun x n => ?_) _ _
    split <;> rfl
  rw [heng, calChains, foldl_marks (mark := chainMark) (marked := fun d n => (chainGet d n).cal) (has := fun d n => calHas d (64 * n) 64)
    (fun _ _ => rfl) chain_chainMark]
  simp [hc]

theorem eng_calJudge (d : Dev) {e : Nat} (he : e < 16) : (engGet (calJudge d) e).cal = ((engGet d e).cal || calHas d (2048 + 14 * e) 14) := by
  have hsame := uncalibrated_calChains d
  simp only [uncalibrated, Prod.mk.injEq] at hsame
  obtain ⟨-, -, -, hcal⟩ := hsame
  rw [calJudge_eq, foldl_marks (mark := engMark) (marked := fun d n => (engGet d n).cal) (has := fun d n => calHas d (2048 + 14 * n) 14)
    (fun _ _ => rfl) eng_engMark, engGet_calChains, calHas_of_cal hcal]
  simp [he]

/-! ### Configuration pushed (R289, log entry 77) -/

section Push
variable (b : Barge) (d : Dev)

/-- The staged set once a barge's pairs have joined it. -/
def stagedWith : List (Nat × Nat) :=
  (if d.fld.stagedSeq = fld (b.payload.getD 0 0) 28 5 then d.fld.staged else []) ++ (pushPairs b).map (fun e => (e.1, e.2.toNat))

/-- The device with the staged set and its sequence number. -/
def pushStaged : Dev := { d with fld := { d.fld with staged := stagedWith b d, stagedSeq := fld (b.payload.getD 0 0) 28 5 } }

/-- The acknowledgement of a staged set. -/
def stagedAck : Barge :=
  { toField := false, lane := 0, type := 0x0A, core := 4,
    payload := fit15 [pack [(5, fld (b.payload.getD 0 0) 28 5)], wd (stagedWith b d).length] }

variable {b}

theorem bargeArrive_configPush (h : b.type = 0x09) (c : Option Barge) : bargeArrive b c d = configPushIn b d := by rw [bargeArrive, h]; rfl

theorem configPushIn_stage (h : fld (b.payload.getD 0 0) 1 0 = 0) : configPushIn b d =
    if (stagedWith b d).length = (chmFieldEntries d).length then queueBarge (pushStaged b d) 0 (stagedAck b d) else pushStaged b d := by
  simp only [configPushIn, h, if_true]
  rfl

theorem configPushIn_effect (h : fld (b.payload.getD 0 0) 1 0 = 1) : configPushIn b d = calJudge ((pushPairs b).foldl calEntry d) := by
  simp only [configPushIn, h]
  rfl

theorem configPushIn_discard (h : fld (b.payload.getD 0 0) 1 0 = 2) : configPushIn b d = { d with fld := { d.fld with staged := [] } } := by
  simp only [configPushIn, h]
  rfl

/-- The requests of the partition that a barge names are ready. -/
def requestsReady (b : Barge) (d : Dev) : Dev :=
  { d with pas := { d.pas with reqs := d.pas.reqs.map fun q =>
    if ((List.range (fld (b.payload.getD 0 0) 4 2)).map (fun i => b.payload.getD (i + 1) 0)).any (fun v => decide (fld v 3 0 = q.kind ∧ fld v 9 4 = q.idx))
    then { q with ready := true, readyAt := d.pas.count } else q } }

theorem configPushIn_requests (h : fld (b.payload.getD 0 0) 1 0 = 3) : configPushIn b d = requestsReady b d := by
  simp only [configPushIn, h]
  rfl

theorem configPushIn_staged_fld (h : fld (b.payload.getD 0 0) 1 0 = 0) : (configPushIn b d).fld = (pushStaged b d).fld := by
  rw [configPushIn_stage d h]
  split <;> rfl

/-- The whole set is acknowledged. -/
theorem configPushIn_staged_ack (h : fld (b.payload.getD 0 0) 1 0 = 0) (hwhole : (stagedWith b d).length = (chmFieldEntries d).length) :
    tabGet [] (configPushIn b d).lkg.sendq 0 = tabGet [] d.lkg.sendq 0 ++ [stagedAck b d] := by
  rw [configPushIn_stage d h, if_pos hwhole]
  exact (tabGet_tabSet ..).trans (if_pos rfl)

theorem pushPairs_one (h : fld (b.payload.getD 0 0) 4 2 = 1) : pushPairs b = [(fld (b.payload.getD 1 0) 23 0, b.payload.getD 2 0)] := by
  rw [pushPairs, h]
  rfl

end Push

section Entry
variable (d : Dev) (e : Nat × Word)

theorem calEntry_constant (h : calBase ≤ e.1 ∧ e.1 < calBase + calWords) :
    calEntry d e = { d with fld := { d.fld with cal := tabPut d.fld.cal (e.1 - calBase) e.2 } } := if_pos h

theorem calEntry_mirror (h : ¬ (calBase ≤ e.1 ∧ e.1 < calBase + calWords)) :
    calEntry d e = if isFieldReg e.1 = true then rgSet d e.1 (chmMerge (rg d e.1) e.2 (chmMask e.1)) else d := if_neg h

/-- An entry that takes effect leaves the links, the inputs and the chains alone, and changes either the constants or the register words. -/
theorem calEntry_frame : calEntry d e =
    { d with regs := (calEntry d e).regs, fld := { d.fld with cal := (calEntry d e).fld.cal } } := by
  unfold calEntry
  split
  · rfl
  · split <;> rfl

end Entry

/-- R289: what one pair of KIND 1 leaves. -/
structure PushTaken (d : Dev) (a : Nat) (v : Word) (e : Dev) : Prop where
  lkg : e.lkg = d.lkg
  pas : e.pas = d.pas
  constant : calBase ≤ a → a < calBase + calWords → e.fld.cal = tabPut d.fld.cal (a - calBase) v ∧ e.regs = d.regs
  mirror : a < calBase ∨ calBase + calWords ≤ a → e.fld.cal = d.fld.cal ∧
    (isFieldReg a = true → rg e a = chmMerge (rg d a) v (chmMask a)) ∧ (isFieldReg a = false → e.regs = d.regs)
  chains : ∀ c, c < 32 → (chainGet e c).cal = ((chainGet d c).cal || calHas e (64 * c) 64)
  engines : ∀ i, i < 16 → (engGet e i).cal = ((engGet d i).cal || calHas e (2048 + 14 * i) 14)

theorem pushTaken_calJudge (d : Dev) (a : Nat) (v : Word) : PushTaken d a v (calJudge (calEntry d (a, v))) := by
  have hsame := uncalibrated_calJudge (calEntry d (a, v))
  simp only [uncalibrated, Prod.mk.injEq] at hsame
  obtain ⟨hlkg, hpas, hregs, hcal⟩ := hsame
  have hframe := calEntry_frame d (a, v)
  constructor
  case lkg => rw [hlkg, hframe]
  case pas => rw [hpas, hframe]
  case constant =>
    intro hlow hhigh
    rw [hcal, hregs, calEntry_constant d (a, v) ⟨hlow, hhigh⟩]
    exact ⟨rfl, rfl⟩
  case mirror =>
    intro hout
    have hrg : rg (calJudge (calEntry d (a, v))) a = rg (calEntry d (a, v)) a := by rw [rg, hregs, rg]
    rw [hcal, hregs, hrg, calEntry_mirror d (a, v) (by omega)]
    refine ⟨?_, fun hfield => ?_, fun hhost => ?_⟩
    · split <;> rfl
    · rw [if_pos hfield, rg_rgSet, if_pos rfl]
    · rw [if_neg (by rw [hhost]; exact Bool.false_ne_true)]
  case chains =>
    intro c hc
    rw [chain_calJudge _ hc, calHas_of_cal hcal, chainGet, hframe, chainGet]
  case engines =>
    intro i hi
    rw [eng_calJudge _ hi, calHas_of_cal hcal, engGet, hframe, engGet]

theorem configPushIn_taken {b : Barge} (d : Dev) (hkind : fld (b.payload.getD 0 0) 1 0 = 1) (hone : fld (b.payload.getD 0 0) 4 2 = 1) :
    PushTaken d (fld (b.payload.getD 1 0) 23 0) (b.payload.getD 2 0) (configPushIn b d) := by
  rw [configPushIn_effect d hkind, pushPairs_one hone]
  exact pushTaken_calJudge ..

/-! ### Acknowledgements (R289) -/

theorem bargeArrive_configAck {b : Barge} (h : b.type = 0x0A) (c : Option Barge) (d : Dev) : bargeArrive b c d = configAckIn b d := by
  rw [bargeArrive, h]; rfl

theorem configAckIn_set {b : Barge} (h : fld (b.payload.getD 0 0) 1 0 = 0) (d : Dev) : configAckIn b d =
    if d.chm.pushed = true ∧ fld (b.payload.getD 0 0) 28 5 = chmSeq d % 2 ^ 24 ∧ (b.payload.getD 1 0).toNat = (chmFieldEntries d).length
    then { d with chm := { d.chm with acked := true } } else d := if_pos h

/-! ### Firmware (R287) -/

theorem bargeArrive_firmware {b : Barge} (h : b.type = 0x0B) (c : Option Barge) (d : Dev) : bargeArrive b c d = firmwareBlockIn b d := by
  rw [bargeArrive, h]; rfl

theorem firmwareBlockIn_started {d : Dev} (h : d.fld.started = true) (b : Barge) : firmwareBlockIn b d = rgAdd d (Reg.LKG_LOST + 2 ^ 24) 1 := if_pos h

/-- Word address of the k-th block of a field image. -/
def blockAt (k : Nat) : Nat := 0x010000000 + 14 * k

section Firmware
variable {d : Dev} {b : Barge} (hheld : d.fld.started = false) (hroom : 14 * fld (b.payload.getD 0 0) 15 0 + 14 ≤ 0x80000)
include hheld hroom

theorem firmwareBlockIn_held : firmwareBlockIn b d =
    if bit (b.payload.getD 0 0) 16 = true then
      { fmWr d (blockAt (fld (b.payload.getD 0 0) 15 0)) ((b.payload.drop 1).take 14) with fld := { d.fld with imgDone := true } }
    else fmWr d (blockAt (fld (b.payload.getD 0 0) 15 0)) ((b.payload.drop 1).take 14) := by
  have hwords : min 14 (0x80000 - 14 * fld (b.payload.getD 0 0) 15 0) = 14 := by omega
  have hnot : ¬ d.fld.started = true := by rw [hheld]; exact Bool.false_ne_true
  rw [firmwareBlockIn, if_neg hnot]
  simp only [hwords]
  rfl

theorem firmwareBlockIn_frame : (firmwareBlockIn b d).fmem = (fmWr d (blockAt (fld (b.payload.getD 0 0) 15 0)) ((b.payload.drop 1).take 14)).fmem ∧
    (firmwareBlockIn b d).lkg = d.lkg ∧ (firmwareBlockIn b d).fld.imgDone = (d.fld.imgDone || bit (b.payload.getD 0 0) 16) := by
  rw [firmwareBlockIn_held hheld hroom]
  split
  next hlast => exact ⟨rfl, rfl, by rw [hlast, Bool.or_true]⟩
  next hmore => exact ⟨rfl, rfl, by rw [Bool.eq_false_iff.2 hmore, Bool.or_false]; rfl⟩

variable (hlen : b.payload.length = 15)
include hlen

theorem firmwareBlockIn_words {j : Nat} (hj : j < 14) :
    fmRd (firmwareBlockIn b d) (blockAt (fld (b.payload.getD 0 0) 15 0) + j) = b.payload.getD (j + 1) 0 := by
  have hlt : j < ((b.payload.drop 1).take 14).length := by rw [List.length_take, List.length_drop, hlen]; exact hj
  rw [fmRd, (firmwareBlockIn_frame hheld hroom).1]
  refine (fmRd_fmWr_of_inside d _ j _ hlt).trans ?_
  rw [List.getElem_take, List.getElem_drop, List.getElem_eq_getD 0, Nat.add_comm]

theorem firmwareBlockIn_outside {a : Nat} (ha : a < blockAt (fld (b.payload.getD 0 0) 15 0) ∨ blockAt (fld (b.payload.getD 0 0) 15 0) + 14 ≤ a) :
    fmRd (firmwareBlockIn b d) a = fmRd d a := by
  have hwords : ((b.payload.drop 1).take 14).length = 14 := by rw [List.length_take, List.length_drop, hlen]; rfl
  rw [fmRd, (firmwareBlockIn_frame hheld hroom).1]
  exact fmRd_fmWr_of_outside d _ a _ (by rw [hwords]; exact ha)

end Firmware

/-! ### Draws, challenges, replay and stops (R187, R267, R287, R436) -/

section Rest
variable {b : Barge} (c : Option Barge) (d : Dev)

theorem bargeArrive_drawFill (h : b.type = 0x0C) : bargeArrive b c d = drawFillIn b d := by rw [bargeArrive, h]; rfl
theorem bargeArrive_challenge (h : b.type = 0x0D) : bargeArrive b c d = challengeIn b d := by rw [bargeArrive, h]; rfl
theorem bargeArrive_replayInput (h : b.type = 0x0E) : bargeArrive b c d = replayInputIn b d := by rw [bargeArrive, h]; rfl
theorem bargeArrive_replayLog (h : b.type = 0x0F) : bargeArrive b c d = replayLogIn b d := by rw [bargeArrive, h]; rfl
theorem bargeArrive_coreStop (h : b.type = 0x11) : bargeArrive b c d = coreStopIn b d := by rw [bargeArrive, h]; rfl

end Rest

theorem next_drawFillIn {b : Barge} (h : b.core < 4) (d : Dev) : tabGet [] (drawFillIn b d).hop.next (0x20 + b.core) =
    tabGet [] d.hop.next (0x20 + b.core) ++ (b.payload.take (b.ref % 16)).map (fun w => fld w 31 0) := by
  rw [drawFillIn, if_neg (Nat.not_le.2 h)]
  exact (tabGet_tabSet ..).trans (if_pos rfl)

theorem logs_replayLogIn (b : Barge) (d : Dev) :
    tabGet ([], false) (replayLogIn b d).rpl.logs (b.ref % 4096 * 4 + fld (b.payload.getD 0 0) 1 0) =
      ((tabGet ([], false) d.rpl.logs (b.ref % 4096 * 4 + fld (b.payload.getD 0 0) 1 0)).1 ++ denseUnpack ((b.payload.drop 1).take 14),
        bit (b.payload.getD 0 0) 2) :=
  (tabGet_tabSet ..).trans (if_pos rfl)

end Sys2Proof.Machine

/-! The proof of O44: R187, R202, R267, R284 to R291, R436, Tables 11.3 and 11.4. -/

namespace Sys2Proof.Machine

/-- A barge towards a core whose lane holds none for that core: it is written to the receive ring and presented, or waits. -/
structure CoreBarge (d : Dev) (b : Barge) (r : List Barge) (e : Dev) : Prop where
  written : ∀ a, rxSlot d (bargeCore d b) = some a → refusedIn d (if b.toField then 0xC1 else 0xC0) (bargeCore d b) 1 1 a 16 = none →
    e = bargeWritten b a (bargeTaken d b r)
  waits : rxSlot d (bargeCore d b) = none → e = rxWait b (bargeTaken d b r)

section CoreType
variable {d : Dev} {b : Barge} {r : List Barge} {type lane : Nat} {toField : Bool} (h : BargeArrives d b r type lane toField)
include h

theorem BargeArrives.coreBarge (htype : typeLane type = some (lane, toField)) (hcore : type ∈ [0x01, 0x02, 0x07, 0x08, 0x04, 0x10])
    (hfirst : ∀ y ∈ tabGet [] d.lkg.waiting (laneKey b.toField b.lane), bargeCore d y ≠ bargeCore d b) : CoreBarge d b r (typedReceive type d) := by
  have hreceived : typedReceive type d = toCore b (bargeTaken d b r) := by
    rw [h.typedReceive_eq htype, bargeArrive_toCore (h.type_eq ▸ hcore)]
  rw [hreceived]
  exact ⟨fun a hslot hpermitted => toCore_written (d := bargeTaken d b r) hfirst hslot hpermitted,
    fun hslot => toCore_waits (d := bargeTaken d b r) hfirst hslot⟩

end CoreType

/-- What a barge written to a receive ring leaves: its words in the ring, the memory around them, the links, and one input for the core. -/
theorem bargeWritten_leaves (b : Barge) (a : Nat) (d : Dev) :
    (∀ j, j < 16 → ramWord (bargeWritten b a d) (bargeCore d b) (a + j) = (bargeWords b).getD j 0) ∧
      (∀ c, c < a ∨ a + 16 ≤ c → ramWord (bargeWritten b a d) (bargeCore d b) c = ramWord d (bargeCore d b) c) ∧
      (bargeWritten b a d).lkg = d.lkg ∧
      ∃ i : Input, (bargeWritten b a d).pas.inq = d.pas.inq ++ [i] ∧ i.core = bargeCore d b ∧ i.cls = 2 ∧ i.data = (bargeWords b).map (·.toNat) := by
  have hisland := isF_bargeCore d b
  obtain ⟨hlkg, hpas⟩ := bargeStored_frame a d b
  obtain ⟨i, hinq, hcore, hcls, hdata, -⟩ := inq_noteMem_pushInput (ringAdvance (bargeCore d b) Reg.LKG_RXQ_BASE 3 1 (bargeStored b a d))
    (bargeCore d b) 2 b.lane (bargeStored b a d).pas.count ((bargeWords b).map (·.toNat)) [(a, 16)]
  refine ⟨fun j hj => ramWord_bargeStored_of_inside a d hisland hj, fun c hc => ramWord_bargeStored_of_outside a d hisland hc, hlkg,
    i, hinq.trans ?_, hcore, hcls, hdata⟩
  exact congrArg (fun p : Pas => p.inq ++ [i]) hpas

/-- Settles O44: the barge at the front of its lane is taken off it, and then its type's row acts on the device that is left. -/
theorem bargeMeanings : Obligations.BargeMeanings := by
  intro s b r d arrives key rest entry gives w
  have harrives {type lane : Nat} {tf : Bool} (h : arrives type lane tf) : BargeArrives d b r type lane tf := by
    simp only [arrives, ← laneKey_eq] at h
    obtain ⟨htype, hlane, htf, hwhole, hup, hfront, horder, hhalf, hskip, hroom⟩ := h
    exact ⟨htype, hlane, htf, hwhole, hup, hfront, horder, hhalf, hskip, hroom⟩
  have hreceives {type lane : Nat} {tf : Bool} {i : Instr} (hi : exec i s = onDev (typedReceive type) s) (htype : typeLane type = some (lane, tf))
      (h : arrives type lane tf) : exec i s = .next { s with dev := bargeArrive b none rest } :=
    exec_eq_next hi ((harrives h).typedReceive_eq htype)
  have hgives {type lane : Nat} {tf : Bool} {i : Instr} {e : Dev} (hi : exec i s = onDev (typedReceive type) s)
      (htype : typeLane type = some (lane, tf)) (h : arrives type lane tf) (he : bargeArrive b none rest = e) : gives i e :=
    (hreceives hi htype h).trans (by rw [he])
  refine ⟨fun e he h => ?core, fun h hhold => ?query, fun h hhold hop => ?request, fun a h hcore hwait hdone => ?verdict, fun h => ?push,
    fun h hset => ?ack, fun h => ?firmware, fun h hcore => ?draws, fun h => ?challenge, fun h => ?replay, fun e he => ?types, fun h => ?logs,
    fun h => hgives rfl rfl h (bargeArrive_coreStop none rest h.1)⟩
  case core =>
    intro m held hfirst
    obtain ⟨hexec, htype, hcore⟩ : exec e.1 s = onDev (typedReceive e.2.1) s ∧ typeLane e.2.1 = some (e.2.2.1, e.2.2.2) ∧
        e.2.1 ∈ [0x01, 0x02, 0x07, 0x08, 0x04, 0x10] := by
      simp only [List.mem_cons, List.not_mem_nil, or_false] at he
      rcases he with rfl | rfl | rfl | rfl | rfl | rfl <;> exact ⟨rfl, rfl, by decide⟩
    obtain ⟨hwritten, hwaits⟩ := (harrives h).coreBarge htype hcore hfirst
    refine ⟨fun a hslot hpermitted => ?_, fun hslot => ?_⟩
    · obtain ⟨hwords, hframe, hlkg, i, hinq, hfor, hcls, hdata⟩ := bargeWritten_leaves b a rest
      exact ⟨_, i, exec_eq_next hexec (hwritten a hslot hpermitted), hwords, hframe, hlkg, hinq, hfor, hcls, hdata⟩
    · have hsame := rxWait_frame b rest
      exact ⟨_, exec_eq_next hexec (hwaits hslot), waiting_rxWait b rest, (congrArg Dev.pas hsame :), (congrArg Dev.mem hsame :),
        (congrArg Dev.fmem hsame :)⟩
  case query =>
    obtain ⟨o, hentered, hfields⟩ := credQuery_entered (d := rest) hhold b
    exact ⟨_, o, hgives rfl rfl h (bargeArrive_credQuery h.1 none rest), hentered, hfields⟩
  case request =>
    obtain ⟨o, hentered, hfields⟩ := cryptoRequest_entered (d := rest) hhold hop
    exact ⟨_, o, hgives rfl rfl h (bargeArrive_cryptoRequest h.1 none rest), hentered, hfields⟩
  case verdict =>
    have htag : (answered rest b).tag = d.tag := tag_answered rest b
    have hends := tagVerdict_of_wait (d := answered rest b) ((congrArg TagCore.wait htag).trans hwait) (fld (w 0) 7 0)
    refine hgives rfl rfl h ((bargeArrive_verdict h.1 hcore rest).trans (hends.trans ((if_pos hdone).trans ?_)))
    rw [onTag, htag]
  case push =>
    intro kind n seq pairs staged
    have hpush := bargeArrive_configPush rest h.1 none
    refine ⟨fun hkind => ⟨_, hgives rfl rfl h hpush, configPushIn_staged_fld rest hkind,
        fun hwhole => ⟨_, configPushIn_staged_ack rest hkind hwhole, rfl, ?_, rfl⟩⟩,
      fun hkind hone => ?_, fun hkind => hgives rfl rfl h (hpush.trans (configPushIn_discard rest hkind)),
      fun hkind => hgives rfl rfl h (hpush.trans (configPushIn_requests rest hkind))⟩
    · exact congrArg wd ((Nat.zero_add _).trans (Nat.shiftLeft_eq seq 5))
    · obtain ⟨hlkg, hpas, hconstant, hmirror, hchains, hengines⟩ := configPushIn_taken (b := b) rest hkind hone
      exact ⟨_, hgives rfl rfl h hpush, hlkg, hpas, hconstant, hmirror, hchains, hengines⟩
  case ack =>
    have hack := (bargeArrive_configAck h.1 none rest).trans (configAckIn_set hset rest)
    refine ⟨fun hpushed hseq hall => hgives rfl rfl h (hack.trans (if_pos ⟨hpushed, hseq, hall⟩)), fun hnot => hgives rfl rfl h (hack.trans (if_neg ?_))⟩
    rintro ⟨hpushed, hseq, hall⟩
    rcases hnot with hnot | hnot | hnot
    · exact Bool.false_ne_true (hnot.symm.trans hpushed)
    · exact hnot hseq
    · exact hnot hall
  case firmware =>
    have hblock := bargeArrive_firmware h.1 none rest
    refine ⟨fun hheld hroom hlen => ?_, fun hstarted => hgives rfl rfl h (hblock.trans (firmwareBlockIn_started (d := rest) hstarted b))⟩
    obtain ⟨-, hlkg, hdone⟩ := firmwareBlockIn_frame (d := rest) hheld hroom
    exact ⟨_, hgives rfl rfl h hblock, fun j hj => firmwareBlockIn_words (d := rest) hheld hroom hlen hj,
      fun a ha => firmwareBlockIn_outside (d := rest) hheld hroom hlen ha, hdone, hlkg⟩
  case draws => exact ⟨_, hgives rfl rfl h (bargeArrive_drawFill none rest h.1), next_drawFillIn hcore rest⟩
  case challenge =>
    have hjoins := bargeArrive_challenge none rest h.1
    have hpowered : fieldPowered rest = d.fld.supplyOk := by
      rw [fieldPowered, show rest.lkg.fieldUp = true from (harrives h).up rfl, Bool.and_true]
    refine ⟨fun hsupply hheld => ?_, fun hdown => ?_⟩
    · exact hgives rfl rfl h (hjoins.trans (challengeReceive_stores (hpowered.trans hsupply) hheld _))
    · exact hgives rfl rfl h (hjoins.trans (challengeReceive_of_not_kept (hdown.imp_left hpowered.trans) _))
  case replay =>
    have hinput := bargeArrive_replayInput none rest h.1
    exact ⟨fun hmode => hgives rfl rfl h (hinput.trans (if_pos hmode)), fun hmode => hgives rfl rfl h (hinput.trans (if_neg hmode))⟩
  case types =>
    have hrow : exec e.1 s = onDev (typedReceive e.2) s ∧ (typeLane e.2).isSome = true := by
      simp only [List.mem_cons, List.not_mem_nil, or_false] at he
      rcases he with rfl | rfl | rfl | rfl | rfl | rfl | rfl | rfl | rfl | rfl | rfl | rfl | rfl | rfl | rfl | rfl | rfl <;> exact ⟨rfl, rfl⟩
    obtain ⟨hexec, hlisted⟩ := hrow
    obtain ⟨⟨lane, tf⟩, htype⟩ := Option.isSome_iff_exists.1 hlisted
    exact ⟨lane, tf, htype, fun hother => exec_eq_next hexec (typedReceive_of_other_front htype d hother),
      fun x y hfront hx => exec_eq_next hexec (typedReceive_of_front htype d hfront hx)⟩
  case logs => exact ⟨_, hgives rfl rfl h (bargeArrive_replayLog none rest h.1), logs_replayLogIn b rest⟩

end Sys2Proof.Machine

/-! The mailboxes (O45): R292 to R296. -/

namespace Sys2Proof.Machine

/-! ### A send (R293) -/

/-- A channel once a message has been sent on it. -/
def Mbx.sent (x : Mbx) (msg : List Word) : Mbx :=
  { x with msg := msg, seq := (x.seq + 1) % 65536, full := true, coll := x.coll || x.full, fresh := true, await := true, gone := false, resOk := false }

/-- The inputs of a receiver with the one input that a channel's newest message is. -/
def mbxInputs (d : Dev) (c : Nat) (msg : List Word) : List Input :=
  d.pas.inq.filter (fun i => !(decide (i.core = mbxReceiver d c) && decide (i.cls = 3) && decide (i.key = c))) ++
    [{ core := mbxReceiver d c, cls := 3, key := c, pass := d.pas.count, data := msg.map (·.toNat) }]

theorem mbxPut_to_function {d : Dev} {c : Nat} (h : isFn (mbxReceiver d c) = true) (msg : List Word) :
    mbxPut c msg d = mbxSet d c ((mbxGet d c).sent msg) := if_pos h

theorem mbxPut_to_core {d : Dev} {c : Nat} (h : isFn (mbxReceiver d c) = false) (msg : List Word) :
    mbxPut c msg d = { mbxSet d c ((mbxGet d c).sent msg) with pas := { d.pas with inq := mbxInputs d c msg } } :=
  if_neg (by rw [Bool.not_eq_true]; exact h)

/-- A send changes its channel and the receiver's inputs, and nothing else. -/
theorem mbxPut_frame (d : Dev) (c : Nat) (msg : List Word) :
    mbxPut c msg d = { mbxSet d c ((mbxGet d c).sent msg) with pas := (mbxPut c msg d).pas } := by
  cases h : isFn (mbxReceiver d c) with
  | true => rw [mbxPut_to_function h]
  | false => rw [mbxPut_to_core h]

theorem mbxGet_mbxPut (d : Dev) (c e : Nat) (msg : List Word) :
    mbxGet (mbxPut c msg d) e = if e = c then (mbxGet d c).sent msg else mbxGet d e := by
  rw [mbxPut_frame]
  exact mbxGet_mbxSet ..

/-! ### The sender's result (R295) -/

/-- A channel whose sender has its result. -/
def Mbx.ended (x : Mbx) (st : Nat) : Mbx := { x with await := false, resSeq := x.seq, resSt := st, resOk := true }

/-- The device once the sender's result stands in the channel. -/
def mbxEnded (d : Dev) (c st : Nat) : Dev := mbxSet d c ((mbxGet d c).ended st)

/-- The octets of a result, as a page holds them. -/
def mbxResultOct (d : Dev) (c st : Nat) : Octets := leOct 8 ((mbxGet d c).seq + st * 2 ^ 16 + 2 ^ 35)

/-- The device once the result has been written to the page of a sending function as well. -/
def mbxPaged (d : Dev) (c st : Nat) : Dev := fnWrite (mbxEnded d c st) (mbxSender d c - 0x40) (mbxPage d c + 328) (mbxResultOct d c st)

theorem mbxResult_to_core {d : Dev} {c : Nat} (h : isFn (mbxSender d c) = false) (st : Nat) :
    mbxResult c st d = pushInput (mbxEnded d c st) (mbxSender d c) 3 (64 + c) (d.pas.count - 1) [(mbxGet d c).seq, st] :=
  if_neg (by rw [Bool.not_eq_true]; exact h)

theorem mbxResult_to_function {d : Dev} {c : Nat} (h : isFn (mbxSender d c) = true) (st : Nat) :
    mbxResult c st d = fireVec (mbxPaged d c st) (mbxSender d c - 0x40) (fld (mbxBind (mbxPaged d c st) c) 27 17) := if_pos h

theorem fireVec_frame (d : Dev) (f v : Nat) : (fireVec d f v).mbx = d.mbx ∧ (fireVec d f v).mem = d.mem ∧ (fireVec d f v).host = d.host := by
  dsimp only [fireVec]
  split_ifs <;> exact ⟨rfl, rfl, rfl⟩

/-- The result is written to the channel, and no memory of the host island changes. -/
theorem mbxResult_frame (d : Dev) (c st : Nat) : (mbxResult c st d).mbx = (mbxEnded d c st).mbx ∧ (mbxResult c st d).mem = d.mem := by
  cases h : isFn (mbxSender d c) with
  | false => rw [mbxResult_to_core h]; exact ⟨rfl, rfl⟩
  | true =>
    obtain ⟨hmbx, hmem, -⟩ := fireVec_frame (mbxPaged d c st) (mbxSender d c - 0x40) (fld (mbxBind (mbxPaged d c st) c) 27 17)
    rw [mbxResult_to_function h, hmbx, hmem, mbxPaged, (hostWritten_fnWrite ..).1]
    exact ⟨rfl, rfl⟩

theorem mbxGet_mbxResult (d : Dev) (c st e : Nat) : mbxGet (mbxResult c st d) e = if e = c then (mbxGet d c).ended st else mbxGet d e := by
  rw [mbxGet, (mbxResult_frame d c st).1]
  exact mbxGet_mbxSet ..

/-- A function's result stands in its page. -/
theorem hostRd_mbxResult {d : Dev} {c : Nat} (h : isFn (mbxSender d c) = true) (hmaster : busMaster d (mbxSender d c - 0x40) = true) (st : Nat) :
    hostRd (mbxResult c st d) (mbxPage d c + 328) 8 = mbxResultOct d c st := by
  have hwritten : mbxPaged d c st = hostWr (mbxEnded d c st) (mbxPage d c + 328) (mbxResultOct d c st) := if_pos hmaster
  rw [mbxResult_to_function h, hostRd, (fireVec_frame ..).2.2, hwritten]
  exact hostRd_hostWr _ _ (mbxResultOct d c st)

theorem mbxDue_iff (d : Dev) (c : Nat) : mbxDue d c = true ↔ (mbxGet d c).await = true ∧ (mbxGet d c).full = true ∧
    (((mbxGet d c).fresh = false ∧ rn d (Reg.MBX_TIMEOUT + 4 * c) ≠ 0 ∧ (mbxGet d c).vis + rn d (Reg.MBX_TIMEOUT + 4 * c) ≤ d.pas.count) ∨
      (mbxGet d c).gone = true ∨ receiverDown d (mbxReceiver d c) = true) := by
  simp only [mbxDue, Bool.and_eq_true, Bool.or_eq_true, Bool.not_eq_true', decide_eq_true_eq, and_assoc, or_assoc]

/-! ### The commands -/

theorem mbxSend_of_sender {d : Dev} {m c : Nat} (hon : mbxEnabled d c = true) (hm : mbxSender d c = m) :
    mbxSend m c d = mbxPut c ((List.range 16).map (fun i => pv d m (Reg.MBX_OUT + i))) d := if_neg (by simp [hon, hm])

theorem mbxSend_of_other {d : Dev} {m c : Nat} (h : mbxEnabled d c = false ∨ mbxSender d c ≠ m) : mbxSend m c d = mbxDenied d :=
  if_pos (by simpa using h)

theorem mbxAck_of_receiver {d : Dev} {m c : Nat} (hon : mbxEnabled d c = true) (hm : mbxReceiver d c = m) (seq : Nat) :
    mbxAck m c seq d = mbxSet d c { mbxGet d c with acks := (mbxGet d c).acks ++ [seq] } := if_neg (by simp [hon, hm])

theorem mbxAck_of_other {d : Dev} {m c : Nat} (h : mbxEnabled d c = false ∨ mbxReceiver d c ≠ m) (seq : Nat) : mbxAck m c seq d = mbxDenied d :=
  if_pos (by simpa using h)

theorem mbxArrival_of_function {d : Dev} {c : Nat} {msg : List Word} (hlen : msg.length = 16) (hfn : isFn (mbxSender d c) = true) :
    mbxArrival c msg d = if mbxEnabled d c = true then mbxPut c msg d else mbxDenied d := by
  rw [mbxArrival, if_pos hfn, List.take_left' hlen]

theorem mbxArrival_of_core {d : Dev} {c : Nat} (hcore : isFn (mbxSender d c) = false) (msg : List Word) : mbxArrival c msg d = d :=
  if_neg (by rw [hcore]; exact Bool.false_ne_true)

/-- Settles O45: what the channel reads after each command, and the inputs or the page that tell of it. -/
theorem mailboxCommands : Obligations.MailboxCommands := by
  intro s c _ d x denied sent due
  have hsent (msg : List Word) {i : Instr} (hexec : exec i s = .next { s with dev := mbxPut c msg d }) : ∃ t, exec i s = .next t ∧ sent t msg := by
    have hchannel : mbxGet (mbxPut c msg d) c = x.sent msg := (mbxGet_mbxPut ..).trans (if_pos rfl)
    refine ⟨_, hexec, ?_⟩
    simp only [sent, hchannel]
    refine ⟨rfl, rfl, rfl, rfl, rfl, rfl, rfl, rfl, rfl, fun e he => (mbxGet_mbxPut ..).trans (if_neg he), ?_, ?_, ?_, fun h => ?_, fun h => ?_⟩
    · rw [mbxPut_frame]; rfl
    · rw [mbxPut_frame]; rfl
    · rw [mbxPut_frame]; rfl
    · rw [mbxPut_to_core h]; rfl
    · rw [mbxPut_to_function h]; rfl
  refine ⟨fun m hon hm => hsent _ (exec_eq_next rfl (mbxSend_of_sender hon hm)), fun m h => exec_eq_next rfl (mbxSend_of_other h),
    fun m q hon hm => exec_eq_next rfl (mbxAck_of_receiver hon hm q), fun m q h => exec_eq_next rfl (mbxAck_of_other h q), fun hdue => ?timeout,
    fun hdue => exec_eq_next rfl (if_neg (hdue ∘ (mbxDue_iff d c).1)), fun msg hlen hfn => ?arrival,
    fun msg hcore => exec_eq_next rfl (mbxArrival_of_core hcore msg)⟩
  case timeout =>
    refine ⟨_, exec_eq_next rfl (if_pos ((mbxDue_iff d c).2 hdue)), (mbxGet_mbxResult ..).trans (if_pos rfl),
      fun e he => (mbxGet_mbxResult ..).trans (if_neg he), (mbxResult_frame ..).2, fun hcore => ?_, fun hfn hmaster => hostRd_mbxResult hfn hmaster _⟩
    dsimp only
    rw [mbxResult_to_core hcore]
    rfl
  case arrival =>
    have harrives := mbxArrival_of_function (d := d) hlen hfn
    exact ⟨fun hon => hsent msg (exec_eq_next rfl (harrives.trans (if_pos hon))),
      fun hoff => exec_eq_next rfl (harrives.trans (if_neg (by rw [hoff]; exact Bool.false_ne_true)))⟩

end Sys2Proof.Machine

/-! The arithmetic, logic, shift, multiply and divide instructions (O1 to O4), from the laws of their forms and the bits of words: R300, R303, Tables 12.2
and 12.6. -/

namespace Sys2Proof.Machine

/-! ### Bits and fields of words (R3) -/

/-- A field replaced reads back. -/
theorem bit_setFld_of_mem {w : Word} {hi lo i : Nat} (v : Nat) (hlo : lo ≤ i) (hhi : i ≤ hi) (hword : hi < 36) :
    bit (setFld w hi lo v) i = v.testBit (i - lo) := by
  obtain ⟨k, rfl⟩ := Nat.exists_eq_add_of_le hlo
  have hfield : ∀ a r : Nat, (a * 2 ^ (lo + (hi + 1 - lo)) + v % 2 ^ (hi + 1 - lo) * 2 ^ lo + r % 2 ^ lo) / 2 ^ lo =
      2 ^ (hi + 1 - lo) * a + v % 2 ^ (hi + 1 - lo) := fun a r => by
    rw [Nat.pow_add, show a * (2 ^ lo * 2 ^ (hi + 1 - lo)) + v % 2 ^ (hi + 1 - lo) * 2 ^ lo + r % 2 ^ lo =
      2 ^ lo * (2 ^ (hi + 1 - lo) * a + v % 2 ^ (hi + 1 - lo)) + r % 2 ^ lo by ring, Nat.mul_add_div (Nat.two_pow_pos _),
      Nat.div_eq_of_lt (Nat.mod_lt _ (Nat.two_pow_pos _)), Nat.add_zero]
  rw [setFld_eq, bit_wd (by omega), Nat.add_comm lo k, ← Nat.testBit_div_two_pow, hfield, Nat.add_sub_cancel, Nat.testBit_two_pow_mul_add _
    (Nat.mod_lt _ (Nat.two_pow_pos _)), if_pos (by omega), Nat.testBit_mod_two_pow, decide_eq_true (by omega), Bool.true_and]

/-- A field replaced, bit by bit. -/
theorem getLsbD_setFld (w : Word) {hi lo : Nat} (v : Nat) (hfield : lo ≤ hi + 1) (hword : hi < 36) (k : Nat) :
    (setFld w hi lo v).getLsbD k = if lo ≤ k ∧ k ≤ hi then v.testBit (k - lo) else w.getLsbD k := by
  by_cases hk : k < 36
  · split
    · exact bit_setFld_of_mem v (by omega) (by omega) hword
    · rcases Nat.lt_or_ge k lo with h | h
      · exact bit_setFld_of_lt v h hk
      · exact bit_setFld_of_gt v hfield (by omega) hk
  · rw [if_neg (by omega), BitVec.getLsbD_of_ge _ _ (by omega), BitVec.getLsbD_of_ge _ _ (by omega)]

theorem getLsbD_setBit (w : Word) {i : Nat} (hi : i < 36) (b : Bool) (k : Nat) :
    (setBit w i b).getLsbD k = if k = i then b else w.getLsbD k := by
  rw [setBit, getLsbD_setFld w _ (by omega) hi]
  by_cases h : k = i
  · subst h; cases b <;> simp [b2n]
  · rw [if_neg (by omega), if_neg h]

theorem testBit_fld (w : Word) (hi lo i : Nat) : (fld w hi lo).testBit i = (decide (i < hi + 1 - lo) && w.getLsbD (lo + i)) := by
  rw [fld, nfld, Nat.testBit_mod_two_pow, Nat.testBit_shiftRight]; rfl

theorem fld_lt (w : Word) (hi lo : Nat) : fld w hi lo < 2 ^ (hi + 1 - lo) := Nat.mod_lt _ (Nat.two_pow_pos _)

theorem getLsbD_wd (n k : Nat) : (wd n).getLsbD k = (decide (k < 36) && n.testBit k) := BitVec.getLsbD_ofNat 36 n k

/-- A sign-extended field, as the two's complement of its low bits. -/
theorem sext_eq_signExtend {n v : Nat} (hn : 1 ≤ n) (hn' : n ≤ 36) (hv : v < 2 ^ n) : sext n v = (BitVec.ofNat n v).signExtend 36 := by
  have hlt : (2 : Nat) ^ n ≤ 2 ^ 36 := Nat.pow_le_pow_right (by omega) hn'
  have hmsb : (BitVec.ofNat n v).msb = v.testBit (n - 1) := by
    rw [BitVec.msb_eq_getLsbD_last, BitVec.getLsbD_ofNat, decide_eq_true (by omega), Bool.true_and]
  have hmod : v % 2 ^ n = v := Nat.mod_eq_of_lt hv
  apply BitVec.eq_of_toNat_eq
  rw [BitVec.toNat_signExtend, hmsb, BitVec.toNat_setWidth, BitVec.toNat_ofNat, hmod, Nat.mod_eq_of_lt (by omega)]
  unfold sext wd
  split
  · rw [BitVec.toNat_ofNat, hmod, Nat.mod_eq_of_lt (by omega)]; omega
  · rw [BitVec.toNat_ofNat, hmod, Nat.mod_eq_of_lt (by omega)]; rfl

/-! ### Sums and differences (Table 12.2) -/

/-- The flags of a wrapped sum with a carry of 0 or 1. -/
theorem sumFlags_addFlags (a b : Word) {k : Nat} (hk : k ≤ 1) : SumFlags (addFlags a b k).2 a b k (addFlags a b k).1 := by
  simp only [SumFlags, addFlags, decide_eq_true_eq, true_and, Bool.and_eq_true, ne_eq]
  have ha := a.isLt
  have hb := b.isLt
  simp only [BitVec.msb_eq_decide, BitVec.toInt_eq_toNat_cond, wd, BitVec.toNat_ofNat, decide_eq_decide]
  split_ifs <;> omega

theorem addFlags_fst (a b : Word) (k : Nat) : (addFlags a b k).1 = a + b + wd k := by
  apply BitVec.eq_of_toNat_eq; simp [addFlags, wd, BitVec.toNat_add]

theorem subFlags_fst (a b : Word) {k : Nat} (hk : k ≤ 1) : (subFlags a b k).1 = a - b - wd k := by
  rcases Nat.le_one_iff_eq_zero_or_eq_one.1 hk with rfl | rfl <;> simp only [subFlags, addFlags_fst, wd] <;> bv_omega

/-- The flags of a wrapped difference with a borrow of 0 or 1. -/
theorem diffFlags_subFlags (a b : Word) {k : Nat} (hk : k ≤ 1) : DiffFlags (subFlags a b k).2 a b k (subFlags a b k).1 := by
  obtain ⟨hz, hn, hc, hv⟩ := sumFlags_addFlags a (~~~b) (k := 1 - k) (by omega)
  have hb := b.isLt
  have hnot : (~~~b).toNat = 2 ^ 36 - 1 - b.toNat := BitVec.toNat_not
  have hint : (~~~b).toInt = - b.toInt - 1 := by
    simp only [BitVec.toInt_eq_toNat_cond, hnot]; split_ifs <;> omega
  refine ⟨hz, hn, hc.trans ?_, hv.trans (not_congr ?_)⟩
  · rw [hnot]; omega
  · rw [hint]; unfold subFlags; omega

/-- Settles O1: each form's law, with the flags of its sum or difference. -/
theorem coreArithmeticSetsFlags : Obligations.CoreArithmeticSetsFlags := by
  intro s x rd ra rb imm h hd ha hb hi
  have hk : b2n (flagsOf (coreGet s.dev x.core).sw).c ≤ 1 := by cases (flagsOf (coreGet s.dev x.core).sw).c <;> decide
  have hwd : ∀ w : Word, w + wd 0 = w := fun w => BitVec.add_zero w
  have hwd' : ∀ w : Word, w - wd 0 = w := fun w => BitVec.sub_zero w
  intro c a b i k
  refine ⟨?_, ?_, ?_, ?_, ?_, ?_, ?_, ?_⟩
  · obtain ⟨t, ht, hr⟩ := alu3f_ran (fun _ a b => addFlags a b 0) x rd ra rb s h hd ha hb
    have hs := sumFlags_addFlags a b (k := 0) (by omega)
    rw [addFlags_fst, hwd] at hr hs
    exact ⟨t, _, ht, hs, hr⟩
  · obtain ⟨t, ht, hr⟩ := alu3f_ran (fun _ a b => subFlags a b 0) x rd ra rb s h hd ha hb
    have hs := diffFlags_subFlags a b (k := 0) (by omega)
    rw [subFlags_fst _ _ (by omega), hwd'] at hr hs
    exact ⟨t, _, ht, hs, hr⟩
  · obtain ⟨t, ht, hr⟩ := alu3f_ran (fun c a b => addFlags a b (b2n c)) x rd ra rb s h hd ha hb
    have hs := sumFlags_addFlags a b (k := k) hk
    rw [addFlags_fst] at hr hs
    exact ⟨t, _, ht, hs, hr⟩
  · obtain ⟨t, ht, hr⟩ := alu3f_ran (fun c a b => subFlags a b (1 - b2n c)) x rd ra rb s h hd ha hb
    have hs := diffFlags_subFlags a b (k := 1 - k) (by omega)
    rw [subFlags_fst _ _ (by omega)] at hr hs
    exact ⟨t, _, ht, hs, hr⟩
  · obtain ⟨t, ht, hr⟩ := alu3f_ran (fun _ a b => subFlags a b 0) x 0 ra rb s h (by omega) ha hb
    have hs := diffFlags_subFlags a b (k := 0) (by omega)
    rw [subFlags_fst _ _ (by omega), hwd'] at hs
    exact ⟨t, _, ht, hs, hr⟩
  · obtain ⟨t, ht, hr⟩ := alu3f_ran (fun _ a _ => subFlags 0 a 0) x rd ra 0 s h hd ha (by omega)
    have hs := diffFlags_subFlags 0 a (k := 0) (by omega)
    rw [subFlags_fst _ _ (by omega), hwd'] at hr hs
    exact ⟨t, _, ht, hs, hr⟩
  · obtain ⟨t, ht, hr⟩ := aluIf_ran (fun a i => addFlags a i 0) x rd ra imm s h hd ha hi
    have hs := sumFlags_addFlags a i (k := 0) (by omega)
    rw [addFlags_fst, hwd] at hr hs
    exact ⟨t, _, ht, hs, hr⟩
  · obtain ⟨t, ht, hr⟩ := aluIf_ran (fun a i => subFlags a i 0) x 0 ra imm s h (by omega) ha hi
    have hs := diffFlags_subFlags a i (k := 0) (by omega)
    rw [subFlags_fst _ _ (by omega), hwd'] at hs
    exact ⟨t, _, ht, hs, hr⟩


/-! ### Forms with the result spelled as a statement spells it -/

theorem alu3_gives {op : Word → Word → Word} {x : Issue} {rd ra rb : Nat} {s : State} {v : Word} (h : ready x s.dev = true) (hd : rd < 32)
    (ha : ra < 32) (hb : rb < 32) (hv : op ((coreGet s.dev x.core).reg ra) ((coreGet s.dev x.core).reg rb) = v) :
    ∃ t, onDev (alu3 op x rd ra rb) s = .next t ∧ Ran x.core ((coreGet s.dev x.core).setReg rd v).stepped s t :=
  hv ▸ alu3_ran op x rd ra rb s h hd ha hb

theorem aluI_gives {op : Word → Nat → Word} {x : Issue} {rd ra imm : Nat} {s : State} {v : Word} (h : ready x s.dev = true) (hd : rd < 32)
    (ha : ra < 32) (hi : imm < 2 ^ 18) (hv : op ((coreGet s.dev x.core).reg ra) imm = v) :
    ∃ t, onDev (aluI op x rd ra imm) s = .next t ∧ Ran x.core ((coreGet s.dev x.core).setReg rd v).stepped s t :=
  hv ▸ aluI_ran op x rd ra imm s h hd ha hi

theorem shiftI_gives {op : Word → Nat → Word} {x : Issue} {rd ra sh : Nat} {s : State} {v : Word} (h : ready x s.dev = true) (hd : rd < 32)
    (ha : ra < 32) (hsh : sh < 36) (hv : op ((coreGet s.dev x.core).reg ra) sh = v) :
    ∃ t, onDev (shiftI op x rd ra sh) s = .next t ∧ Ran x.core ((coreGet s.dev x.core).setReg rd v).stepped s t :=
  hv ▸ shiftI_ran op x rd ra sh s h hd ha hsh

theorem divide_gives {op : Word → Word → Word} {x : Issue} {rd ra rb : Nat} {s : State} {v : Word} (h : ready x s.dev = true) (hd : rd < 32)
    (ha : ra < 32) (hb : rb < 32) (h0 : (coreGet s.dev x.core).reg rb ≠ 0)
    (hv : op ((coreGet s.dev x.core).reg ra) ((coreGet s.dev x.core).reg rb) = v) :
    ∃ t, onDev (divide op x rd ra rb) s = .next t ∧ Ran x.core ((coreGet s.dev x.core).setReg rd v).stepped s t :=
  hv ▸ divide_ran op x rd ra rb s h hd ha hb h0

/-! ### Logic, comparisons and immediates (Table 12.6) -/

theorem slt_eq (a b : Word) : slt a b = if a.slt b then 1 else 0 := by simp [slt, boolWord, BitVec.slt]

theorem sltu_eq (a b : Word) : sltu a b = if a.ult b then 1 else 0 := by simp [sltu, boolWord, BitVec.ult]

theorem smin_eq (a b : Word) : smin a b = if b.slt a then b else a := by
  simp only [smin, BitVec.slt, decide_eq_true_eq, ← Int.not_lt, ite_not]

theorem smax_eq (a b : Word) : smax a b = if a.slt b then b else a := by
  simp only [smax, BitVec.slt, decide_eq_true_eq, ← Int.not_lt, ite_not]

/-- LIH puts the immediate in the high half. -/
theorem wd_mul_two_pow (i : Nat) : wd (i * 2 ^ 18) = BitVec.ofNat 36 i <<< 18 := by
  apply BitVec.eq_of_toNat_eq
  simp [wd, BitVec.toNat_shiftLeft, Nat.shiftLeft_eq, Nat.mod_mul_mod]

/-- Settles O2: the laws of the three-register and immediate forms, with each operation in the statement's spelling. -/
theorem coreLogicResults : Obligations.CoreLogicResults := by
  intro s x rd ra rb imm h hd ha hb hi
  have h0 : 0 < 32 := by decide
  have hj : sext 18 imm = (BitVec.ofNat 18 imm).signExtend 36 := sext_eq_signExtend (by decide) (by decide) hi
  intro c a b i j
  refine ⟨?and, ?or, ?xor, ?andn, ?slt, ?sltu, ?min, ?max, ?andi, ?ori, ?xori, ?slti, ?sltiu, ?lih⟩
  case and => exact alu3_gives h hd ha hb rfl
  case or => exact alu3_gives h hd ha hb rfl
  case xor => exact alu3_gives h hd ha hb rfl
  case andn => exact alu3_gives h hd ha hb rfl
  case slt => exact alu3_gives h hd ha hb (slt_eq a b)
  case sltu => exact alu3_gives h hd ha hb (sltu_eq a b)
  case min => exact alu3_gives h hd ha hb (smin_eq a b)
  case max => exact alu3_gives h hd ha hb (smax_eq a b)
  case andi => exact aluI_gives h hd ha hi rfl
  case ori => exact aluI_gives h hd ha hi rfl
  case xori => exact aluI_gives h hd ha hi rfl
  case slti => exact aluI_gives h hd ha hi (hj ▸ slt_eq a _)
  case sltiu => exact aluI_gives h hd ha hi (hj ▸ sltu_eq a _)
  case lih => exact aluI_gives h hd h0 hi (wd_mul_two_pow imm)

/-! ### Shifts and bit fields (Table 12.6) -/

theorem amt_eq (b : Word) : amt b = b.toNat % 64 := by simp [amt, fld, nfld]

theorem shl_eq (a : Word) (n : Nat) : shl a n = a <<< n := by
  unfold shl; split
  · rfl
  · exact (BitVec.shiftLeft_eq_zero (by omega)).symm

theorem shr_eq (a : Word) (n : Nat) : shr a n = a >>> n := by
  unfold shr; split
  · rfl
  · exact (BitVec.ushiftRight_eq_zero (by omega)).symm

theorem sar_eq (a : Word) (n : Nat) : sar a n = a.sshiftRight n := by
  unfold sar
  split
  · rfl
  · ext k hk
    rw [BitVec.getElem_sshiftRight, dif_neg (by omega)]
    cases a.msb
    · simp
    · rw [if_pos rfl, ← BitVec.getLsbD_eq_getElem, getLsbD_wd, Nat.testBit_two_pow_sub_one, decide_eq_true hk]; rfl

theorem rol_eq (a : Word) (n : Nat) : rol a n = a <<< (n % 36) ||| a >>> (36 - n % 36) := by
  rw [rol, BitVec.rotateLeft_def, Nat.mod_mod]

/-- A field extracted, bit by bit. -/
theorem getLsbD_wd_fld (a : Word) {lo w : Nat} (hw : 1 ≤ w) (h : lo + w ≤ 36) (k : Nat) :
    (wd (fld a (lo + w - 1) lo)).getLsbD k = (decide (k < w) && a.getLsbD (lo + k)) := by
  rw [getLsbD_wd, testBit_fld, show lo + w - 1 + 1 - lo = w by omega]
  by_cases hk : k < w
  · rw [decide_eq_true (show k < 36 by omega), Bool.true_and]
  · simp [hk]

/-- The instructions of bit fields, whose check of the field has passed. -/
theorem fieldForm_ran (v : Core → Word) (hv : ∀ c, v { c with inBlock := false } = v c) (x : Issue) (rd ra lo w : Nat) (s : State) (h : ready x s.dev = true)
    (hd : rd < 32) (ha : ra < 32) (hw : 1 ≤ w) (hlo : lo + w ≤ 36) :
    ∃ t, onDev (issue x (fun d => if regsOk [rd, ra] ∧ fieldOk lo w then finishWith x.core (fun c => c.setReg rd (v c)) [] d else encFault x.core d)) s = .next t ∧
      Ran x.core ((coreGet s.dev x.core).setReg rd (v (coreGet s.dev x.core))).stepped s t := by
  obtain ⟨t, e, r⟩ := ran_finish x (fun d => if regsOk [rd, ra] ∧ fieldOk lo w then finishWith x.core (fun c => c.setReg rd (v c)) [] d else encFault x.core d)
    (fun c => c.setReg rd (v c)) [] s h (by simp) (fun c => by rw [hv, setReg_inBlock]) (by simp)
    (if_pos ⟨by simp [regsOk, hd, ha], by simp [fieldOk, hw, hlo]⟩)
  exact ⟨t, e, by convert r using 1; simp [Core.stepped, Core.retired]⟩

/-- Settles O3: the laws of the three-register and shift forms, and of bit fields, bit by bit. -/
theorem coreShiftAndFieldResults : Obligations.CoreShiftAndFieldResults := by
  intro s x rd ra rb sh lo w h hd ha hb hsh hw hlo c a n
  have hn : amt (c.reg rb) = n := amt_eq _
  refine ⟨?shl, ?shr, ?sar, ?rol, ?shli, ?shri, ?sari, ?roli, ?extu, ?ins⟩
  case shl => exact alu3_gives h hd ha hb (hn ▸ shl_eq a _)
  case shr => exact alu3_gives h hd ha hb (hn ▸ shr_eq a _)
  case sar => exact alu3_gives h hd ha hb (hn ▸ sar_eq a _)
  case rol => exact alu3_gives h hd ha hb (hn ▸ rol_eq a _)
  case shli => exact shiftI_gives h hd ha hsh (shl_eq a sh)
  case shri => exact shiftI_gives h hd ha hsh (shr_eq a sh)
  case sari => exact shiftI_gives h hd ha hsh (sar_eq a sh)
  case roli => exact shiftI_gives h hd ha hsh ((rol_eq a sh).trans (by rw [Nat.mod_eq_of_lt hsh]))
  case extu =>
    obtain ⟨t, ht, hr⟩ := fieldForm_ran (fun c => wd (fld (c.reg ra) (lo + w - 1) lo)) (fun _ => rfl) x rd ra lo w s h hd ha hw hlo
    exact ⟨t, _, ht, hr, getLsbD_wd_fld _ hw hlo⟩
  case ins =>
    obtain ⟨t, ht, hr⟩ := fieldForm_ran (fun c => setFld (c.reg rd) (lo + w - 1) lo (fld (c.reg ra) (w - 1) 0)) (fun _ => rfl) x rd ra lo w s h hd ha hw hlo
    refine ⟨t, _, ht, hr, fun k => ?_⟩
    rw [getLsbD_setFld _ _ (by omega) (by omega)]
    by_cases hk : lo ≤ k ∧ k < lo + w
    · rw [if_pos (by omega), if_pos hk, testBit_fld, decide_eq_true (by omega), Bool.true_and, Nat.zero_add]
    · rw [if_neg (by omega), if_neg hk]

/-! ### Products and quotients (Table 12.6) -/

theorem mul_eq (a b : Word) : mul a b = a * b := by
  apply BitVec.eq_of_toNat_eq; simp [mul, wd, BitVec.toNat_mul]

/-- The high word of the signed product: with the low word it is the whole product. -/
theorem toInt_mulh (a b : Word) : (mulh a b).toInt * 2 ^ 36 + ((a * b).toNat : Int) = a.toInt * b.toInt := by
  have hlow : ((a * b).toNat : Int) = a.toInt * b.toInt % 2 ^ 36 := by
    have hmod : ∀ w : Word, w.toInt % 2 ^ 36 = (w.toNat : Int) % 2 ^ 36 := fun w => by
      rw [BitVec.toInt_eq_toNat_cond]; split_ifs <;> omega
    rw [BitVec.toNat_mul, Int.mul_emod a.toInt, hmod, hmod, ← Int.mul_emod]
    rw [Int.natCast_emod, Int.natCast_mul]; rfl
  have hhigh : (mulh a b).toInt = a.toInt * b.toInt / 2 ^ 36 := by
    have ha := BitVec.toInt_lt (x := a)
    have ha' := BitVec.le_toInt a
    have hb := BitVec.toInt_lt (x := b)
    have hb' := BitVec.le_toInt b
    have hup : a.toInt * b.toInt ≤ 2 ^ 70 := by norm_num at ha ha' hb hb' ⊢; nlinarith
    have hdown : -(2 ^ 70) ≤ a.toInt * b.toInt := by norm_num at ha ha' hb hb' ⊢; nlinarith
    rw [mulh, hiProduct, BitVec.toInt_ofInt]
    exact Int.bmod_eq_of_le (by omega) (by omega)
  rw [hlow, hhigh]; omega

theorem toNat_mulhu (a b : Word) : (mulhu a b).toNat * 2 ^ 36 + (a * b).toNat = a.toNat * b.toNat := by
  have hlt : a.toNat * b.toNat < 2 ^ 36 * 2 ^ 36 := Nat.mul_lt_mul'' a.isLt b.isLt
  have hhigh : (mulhu a b).toNat = a.toNat * b.toNat / 2 ^ 36 := by
    rw [mulhu, hiProduct, show ((a.toNat * b.toNat : Nat) : Int) / 2 ^ 36 = ((a.toNat * b.toNat / 2 ^ 36 : Nat) : Int) by norm_cast,
      BitVec.ofInt_natCast, BitVec.toNat_ofNat, Nat.mod_eq_of_lt (by omega)]
  rw [hhigh, BitVec.toNat_mul]; omega

theorem sdivWord_eq (a b : Word) : sdivWord a b = a.sdiv b := by
  apply BitVec.eq_of_toInt_eq; rw [sdivWord, BitVec.toInt_sdiv, BitVec.toInt_ofInt]

theorem sremWord_eq (a b : Word) : sremWord a b = a.srem b := by
  apply BitVec.eq_of_toInt_eq; rw [sremWord, ← BitVec.toInt_srem, BitVec.ofInt_toInt]

theorem udivWord_eq (a b : Word) : udivWord a b = a / b := by
  apply BitVec.eq_of_toNat_eq
  rw [udivWord, wd, BitVec.toNat_ofNat, BitVec.toNat_udiv, Nat.mod_eq_of_lt (lt_of_le_of_lt (Nat.div_le_self ..) a.isLt)]

theorem uremWord_eq (a b : Word) : uremWord a b = a % b := by
  apply BitVec.eq_of_toNat_eq
  rw [uremWord, wd, BitVec.toNat_ofNat, BitVec.toNat_umod, Nat.mod_eq_of_lt (lt_of_le_of_lt (Nat.mod_le ..) a.isLt)]

/-- MULP's pair of registers. -/
theorem mulp_ran (x : Issue) (rd ra rb : Nat) (s : State) (h : ready x s.dev = true) (hd : rd < 32) (ha : ra < 32) (hb : rb < 32) (h0 : rd ≠ 0)
    (heven : rd % 2 = 0) :
    let c := coreGet s.dev x.core
    ∃ t, exec (.mulp x rd ra rb) s = .next t ∧
      Ran x.core ((c.setReg rd (mul (c.reg ra) (c.reg rb))).setReg (rd + 1) (mulh (c.reg ra) (c.reg rb))).stepped s t := by
  intro c
  obtain ⟨t, e, r⟩ := ran_finish x (fun d => if regsOk [rd, ra, rb] ∧ rd ≠ 0 ∧ rd % 2 = 0 then
        finishWith x.core (fun c => (c.setReg rd (mul (c.reg ra) (c.reg rb))).setReg (rd + 1) (mulh (c.reg ra) (c.reg rb))) [] d else encFault x.core d)
    (fun c => (c.setReg rd (mul (c.reg ra) (c.reg rb))).setReg (rd + 1) (mulh (c.reg ra) (c.reg rb))) [] s h (by simp)
    (fun c => by simp only [reg_notBlock, setReg_inBlock]) (by simp) (if_pos ⟨by simp [regsOk, hd, ha, hb], h0, heven⟩)
  exact ⟨t, e, by convert r using 1; simp [Core.stepped, Core.retired, c]⟩

/-- Settles O4: the laws of the three-register form and of division, with the halves of a product joined. -/
theorem coreMultiplyDivideResults : Obligations.CoreMultiplyDivideResults := by
  intro s x rd ra rb h hd ha hb c a b
  refine ⟨?mul, ?mulh, ?mulhu, fun h0 heven => ?mulp, fun h0 => ?div, fun h0 => ?divu, fun h0 => ?rem, fun h0 => ?remu⟩
  case mul => exact alu3_gives h hd ha hb (mul_eq a b)
  case mulh =>
    obtain ⟨t, ht, hr⟩ := alu3_ran mulh x rd ra rb s h hd ha hb
    exact ⟨t, _, ht, hr, toInt_mulh a b⟩
  case mulhu =>
    obtain ⟨t, ht, hr⟩ := alu3_ran mulhu x rd ra rb s h hd ha hb
    exact ⟨t, _, ht, hr, toNat_mulhu a b⟩
  case mulp =>
    obtain ⟨t, ht, hr⟩ := mulp_ran x rd ra rb s h hd ha hb h0 heven
    rw [mul_eq] at hr
    exact ⟨t, _, ht, hr, toInt_mulh a b⟩
  case div => exact divide_gives h hd ha hb h0 (sdivWord_eq a b)
  case divu => exact divide_gives h hd ha hb h0 (udivWord_eq a b)
  case rem => exact divide_gives h hd ha hb h0 (sremWord_eq a b)
  case remu => exact divide_gives h hd ha hb h0 (uremWord_eq a b)

end Sys2Proof.Machine

/-! The loads, the stores and the stack instructions, STX, and the control transfers (O5 to O8): what each leaves where its checks pass: R300, R304,
R305, R307, R314, Tables 12.3, 12.6 and 12.9. -/

namespace Sys2Proof.Machine

/-! ### Forms of an instruction whose checks pass -/

/-- An instruction that changes its core's record, all but the PC, then goes on. -/
theorem stepped_ran {x : Issue} {f : Dev → Res} {g : Core → Core} {codes : List Nat} {s : State} (h : ready x s.dev = true)
    (hrun : ∀ c : Core, (g c).run = c.run) (hblock : ∀ c : Core, g { c with inBlock := false } = { g c with inBlock := false })
    (hpc : ∀ c : Core, (g c).pc = c.pc) (hf : f (notBlock x.core s.dev) = finishWith x.core g codes (notBlock x.core s.dev)) :
    ∃ t, onDev (issue x f) s = .next t ∧ Ran x.core (g (coreGet s.dev x.core)).stepped s t := by
  obtain ⟨t, ht, hr⟩ := ran_finish x f g codes s h hrun hblock hpc hf
  exact ⟨t, ht, by rwa [show (g (coreGet s.dev x.core)).stepped = { (g (coreGet s.dev x.core)).stepped with
    pc := wrap36 ((coreGet s.dev x.core).pc + 1) } by simp only [Core.stepped, Core.retired, hpc]]⟩

/-- An instruction that goes on at an address of its own. -/
theorem goTo_ran {x : Issue} {f : Dev → Res} {g : Core → Core} {pc : Nat} {codes : List Nat} {s : State} (h : ready x s.dev = true)
    (hrun : ∀ c : Core, (g c).run = c.run) (hblock : ∀ c : Core, g { c with inBlock := false } = { g c with inBlock := false })
    (hf : f (notBlock x.core s.dev) = .ok (onCore (notBlock x.core s.dev) x.core (fun c => { g c with pc := pc }), codes)) :
    ∃ t, onDev (issue x f) s = .next t ∧ Ran x.core ((g (coreGet s.dev x.core)).retired pc) s t := by
  obtain ⟨t, ht, hr⟩ := ran_issue x f (fun c => { g c with pc := pc }) codes s h (fun c => hrun c) hf
  simp only [hblock] at hr
  exact ⟨t, ht, hr⟩

theorem regsOk_two {a b : Nat} (ha : a < 32) (hb : b < 32) : regsOk [a, b] = true := by simp [regsOk, ha, hb]
theorem regsOk_one {a : Nat} (ha : a < 32) : regsOk [a] = true := by simp [regsOk, ha]

theorem wrap36_of_lt {a : Nat} (h : a < 2 ^ 36) : wrap36 a = a := Nat.mod_eq_of_lt h

theorem effAddr_lt (c : Core) (ra n imm : Nat) : effAddr c ra n imm < 2 ^ 36 := BitVec.isLt _

theorem stk_lt (c : Core) : c.stk < 2 ^ 36 := by unfold Core.stk; split <;> exact BitVec.isLt _

theorem wrap36_lt (a : Nat) : wrap36 a < 2 ^ 36 := Nat.mod_lt _ (by decide)

@[simp] theorem setStk_run (c : Core) (n : Nat) : (c.setStk n).run = c.run := by unfold Core.setStk; split <;> rfl
@[simp] theorem setStk_pc (c : Core) (n : Nat) : (c.setStk n).pc = c.pc := by unfold Core.setStk; split <;> rfl
@[simp] theorem setStk_progress (c : Core) (n : Nat) : (c.setStk n).progress = c.progress := by unfold Core.setStk; split <;> rfl
theorem setStk_inBlock (c : Core) (n : Nat) (b : Bool) : Core.setStk { c with inBlock := b } n = { c.setStk n with inBlock := b } := by
  unfold Core.setStk; split <;> rfl
@[simp] theorem stk_notBlock (c : Core) : Core.stk { c with inBlock := false } = c.stk := rfl
@[simp] theorem lim_notBlock (c : Core) : Core.lim { c with inBlock := false } = c.lim := rfl
@[simp] theorem pl_notBlock (c : Core) : Core.pl { c with inBlock := false } = c.pl := rfl

theorem coreGet_notBlock_same (m : Nat) (d : Dev) : coreGet (notBlock m d) m = { coreGet d m with inBlock := false } := by
  rw [coreGet_notBlock, if_pos rfl]

/-! ### Loads (R307) -/

section Load
variable {x : Issue} {s : State} (h : ready x s.dev = true)
include h

/-- Words read where every check passes, as the core of a ready instruction reads them. -/
theorem loadWords_ready {pl a n : Nat} (access k : Nat) (ha : a + n ≤ 2 ^ 36) (hread : ∀ i < n, readable x.core pl (a + i) s.dev = true) :
    loadWords x pl access a k n (notBlock x.core s.dev) = .ok ((List.range n).map (fun i => coreWord s.dev x.core (a + i))) := by
  have hwrap : ∀ i < n, wrap36 (a + i) = a + i := fun i hi => wrap36_of_lt (by omega)
  rw [loadWords_of_granted x pl access a k n _ (fun i hi => by rw [hwrap i hi]; exact ((readable_iff ..).1 (hread i hi)).2) (ready_data h)
    (ready_media h) (by simpa using ready_replayed h)]
  exact congrArg Except.ok (List.map_congr_left fun i hi => by rw [hwrap i (List.mem_range.1 hi), coreWord_notBlock])

theorem loadWord_ready {pl a : Nat} (access k : Nat) (ha : a < 2 ^ 36) (hread : readable x.core pl a s.dev = true) :
    loadWords x pl access a k 1 (notBlock x.core s.dev) = .ok [coreWord s.dev x.core a] := by
  rw [loadWords_ready h access k (by omega) (fun i hi => by rwa [show i = 0 by omega, Nat.add_zero])]
  rfl

theorem noteLoads_ready (k a n : Nat) (d : Dev) : noteLoads x k a n d = d := noteLoads_none x k a n d (ready_media h)

/-- A word in memory that is loaded and given to the core. -/
theorem wordIn_ready {pl a : Nat} (dl : Dev) (f : Word → Core → Core) (ha : a < 2 ^ 36) (hread : readable x.core pl a s.dev = true) :
    wordIn dl x pl a f (notBlock x.core s.dev) = finishWith x.core (f (coreWord s.dev x.core a)) [0x0A] (notBlock x.core s.dev) := by
  unfold wordIn
  rw [if_neg (by rw [((readable_iff ..).1 hread).1]; exact Bool.false_ne_true), loadWord_ready h 2 0 ha hread, noteLoads_ready h]
  rfl

/-- A load of a lane of a word in memory. -/
theorem laneLoad_ran {rd ra imm n : Nat} (pick : Nat → Word → Word) {v : Word} (hd : rd < 32) (hra : ra < 32) (hi : imm < 2 ^ 18)
    (hread : readable x.core (coreGet s.dev x.core).pl (effAddr (coreGet s.dev x.core) ra n imm) s.dev = true)
    (hv : pick (imm / 2 ^ n) (coreWord s.dev x.core (effAddr (coreGet s.dev x.core) ra n imm)) = v) :
    ∃ t, onDev (laneLoad x rd ra imm n pick) s = .next t ∧ Ran x.core ((coreGet s.dev x.core).setReg rd v).stepped s t := by
  refine stepped_ran (g := fun c => c.setReg rd v) (codes := [0x0A]) h (fun _ => setReg_run ..) (fun c => setReg_inBlock c rd v false) (fun _ => setReg_pc ..) ?_
  dsimp only
  rw [coreGet_notBlock_same, if_neg, show effAddr { coreGet s.dev x.core with inBlock := false } ra n imm = effAddr (coreGet s.dev x.core) ra n imm from rfl,
    pl_notBlock, loadWord_ready h 2 0 (effAddr_lt ..) hread, noteLoads_ready h]
  · dsimp only [List.headD_cons]; rw [hv]
  · rintro (hbad | hspace)
    · exact hbad ⟨regsOk_two hd hra, hi⟩
    · exact Bool.false_ne_true (((readable_iff ..).1 hread).1.symm.trans hspace)

end Load

/-! ### Lanes of a word -/

theorem halfOf_eq (l : Nat) (w : Word) : halfOf l w = ((w >>> (18 * l)).truncate 18).toNat := by
  rw [halfOf, fld, nfld, show 18 * l + 17 + 1 - 18 * l = 18 by omega]
  simp [BitVec.toNat_setWidth, BitVec.toNat_ushiftRight]

theorem octOf_eq (l : Nat) (w : Word) : octOf l w = ((w >>> (8 * l)).truncate 8).toNat := by
  rw [octOf, fld, nfld, show 8 * l + 7 + 1 - 8 * l = 8 by omega]
  simp [BitVec.toNat_setWidth, BitVec.toNat_ushiftRight]

/-- A lane zero-extended, and sign-extended. -/
theorem wd_toNat {n : Nat} (v : BitVec n) : wd v.toNat = v.zeroExtend 36 := by
  apply BitVec.eq_of_toNat_eq
  rw [wd, BitVec.toNat_ofNat, BitVec.toNat_setWidth]

theorem sext_toNat {n : Nat} (v : BitVec n) (h1 : 1 ≤ n) (hn : n ≤ 36) : sext n v.toNat = v.signExtend 36 := by
  rw [sext_eq_signExtend h1 hn v.isLt, BitVec.ofNat_toNat, BitVec.setWidth_eq]

/-- Settles O5: each load's law, with the words that its checks let through. -/
theorem coreLoadsReadMemory : Obligations.CoreLoadsReadMemory := by
  intro s x rd ra imm h hd hra hi m c word ok w h' o
  have hregs : regsOk [rd, ra] = true := regsOk_two hd hra
  have hspace : ∀ {a : Nat}, ok a → deviceSpace x.core a = false := fun hok => ((readable_iff ..).1 hok).1
  refine ⟨fun hw => ?ldw, fun hw hw1 heven hpair h0 => ?ldp, fun hh => ?ldh, fun hh => ?ldhs, fun ho => ?ldo, fun ho => ?ldos, fun ha => ?ldsp,
    fun ha hlim => ?pop, fun ha => ?ldx, ?lpc⟩
  case ldw =>
    refine stepped_ran (g := fun c => c.setReg rd (word w)) (codes := [0x0A]) h (fun _ => setReg_run ..) (fun c => setReg_inBlock c ..) (fun _ => setReg_pc ..) ?_
    dsimp only
    rw [if_neg (not_not.2 ⟨hregs, hi⟩), coreGet_notBlock_same]
    exact wordIn_ready h _ _ (effAddr_lt c ra 18 imm) hw
  case ldp =>
    have hlt : w < 2 ^ 36 := effAddr_lt ..
    have hload := loadWords_ready h (pl := c.pl) (a := w) (n := 2) 2 0 (by omega)
      (fun i hi => by rcases Nat.le_one_iff_eq_zero_or_eq_one.1 (Nat.lt_succ_iff.1 hi) with rfl | rfl <;> assumption)
    refine stepped_ran (g := fun c => (c.setReg rd (word w)).setReg (rd + 1) (word (w + 1))) (codes := [0x0A]) h (fun _ => by simp)
      (fun c => by simp only [setReg_inBlock]) (fun _ => by simp) ?_
    dsimp only
    rw [coreGet_notBlock_same, if_neg, show effAddr { coreGet s.dev x.core with inBlock := false } ra 18 imm = w from rfl, pl_notBlock, hload,
      noteLoads_ready h]
    · rfl
    · rintro (hbad | h0' | hodd | hodd | hdev)
      · exact hbad ⟨hregs, hi⟩
      · exact h0 h0'
      · exact hodd hpair
      · exact hodd heven
      · exact Bool.false_ne_true ((hspace hw).symm.trans hdev)
  case ldh => exact laneLoad_ran h _ hd hra hi hh (by rw [halfOf_eq, wd_toNat])
  case ldhs => exact laneLoad_ran h _ hd hra hi hh (by rw [halfOf_eq, sext_toNat _ (by decide) (by decide)])
  case ldo => exact laneLoad_ran h _ hd hra hi ho (by rw [octOf_eq, wd_toNat])
  case ldos => exact laneLoad_ran h _ hd hra hi ho (by rw [octOf_eq, sext_toNat _ (by decide) (by decide)])
  case ldsp =>
    refine stepped_ran (g := fun k => k.setReg rd (word (wrap36 (c.stk + imm)))) (codes := [0x0A]) h (fun _ => setReg_run ..) (fun c => setReg_inBlock c ..)
      (fun _ => setReg_pc ..) ?_
    dsimp only
    rw [coreGet_notBlock_same, if_neg]
    · exact wordIn_ready h _ _ (wrap36_lt _) ha
    · rintro (hbad | hdev)
      · exact hbad ⟨regsOk_one hd, hi⟩
      · exact Bool.false_ne_true ((hspace ha).symm.trans hdev)
  case pop =>
    refine stepped_ran (g := fun k => (k.setReg rd (word c.stk)).setStk (wrap36 (c.stk + 1))) (codes := []) h (fun _ => by simp)
      (fun c => by simp only [setReg_inBlock, setStk_inBlock]) (fun _ => by simp) ?_
    dsimp only
    rw [coreGet_notBlock_same, if_neg, stk_notBlock, lim_notBlock, pl_notBlock, if_neg (Nat.not_lt.2 hlim), loadWord_ready h 5 0 (stk_lt c) ha,
      noteLoads_ready h]
    · rfl
    · rintro (hbad | hdev)
      · exact hbad (regsOk_one hd)
      · exact Bool.false_ne_true ((hspace ha).symm.trans hdev)
  case ldx =>
    refine stepped_ran (g := fun k => { k.setReg rd (word (c.reg ra).toNat) with resv := some ((c.reg ra).toNat / 8) }) (codes := [0x0A]) h
      (fun _ => by simp) (fun c => by simp only [setReg_inBlock]) (fun _ => by simp) ?_
    dsimp only
    rw [coreGet_notBlock_same, if_neg, reg_notBlock, pl_notBlock, loadWord_ready h 2 0 (BitVec.isLt _) ha, noteLoads_ready h]
    · rfl
    · rintro (hbad | hdev)
      · exact hbad hregs
      · exact Bool.false_ne_true ((hspace ha).symm.trans hdev)
  case lpc =>
    have hsext : sext 18 imm = (BitVec.ofNat 18 imm).signExtend 36 := sext_eq_signExtend (by decide) (by decide) hi
    refine stepped_ran (g := fun k => k.setReg rd (wd k.pc + sext 18 imm)) (codes := []) h (fun _ => by simp) (fun c => by simp only [setReg_inBlock])
      (fun _ => by simp) (if_pos ⟨regsOk_one hd, hi⟩) |>.imp fun t ht => ⟨ht.1, ?_⟩
    rw [← hsext]
    exact ht.2

end Sys2Proof.Machine

/-! The stores and STX (O6, O7): R304, R307, R314, Table 12.6. -/

namespace Sys2Proof.Machine

/-! ### Forms of an instruction that stores -/

section Store
variable {x : Issue} {s : State} (h : ready x s.dev = true)
include h

/-- An instruction that stores words, from a device `e` that differs from the state's own in what the instruction has recorded. -/
theorem stored_issue {f : Dev → Res} {a : Nat} {ws : List Word} {b e : Dev} {g : Core → Core} {codes : List Nat} (hrun : ∀ c : Core, (g c).run = c.run)
    (hb : b = { e with cores := b.cores }) (hcore : coreGet b x.core = { coreGet s.dev x.core with inBlock := false })
    (hn : ∀ n, n ≠ x.core → coreGet b n = coreGet e n) (hf : f (notBlock x.core s.dev) = .ok (onCore (coreWrites x.core a ws b) x.core g, codes)) :
    ∃ t, onDev (issue x f) s = .next t ∧ Stored x.core { g { coreGet s.dev x.core with inBlock := false } with
      progress := (g { coreGet s.dev x.core with inBlock := false }).progress + 1, stepOne := false } a ws { s with dev := e } t := by
  refine ⟨_, rfl, ?_⟩
  rw [issue_ready _ _ _ h, hf, ← hcore]
  exact stored_retire x.core _ a ws codes g { s with dev := e } b hb hn (by rw [hrun, hcore]; exact ready_run h)

/-- An instruction that stores words, changes its core's record, all but the PC, and goes on. -/
theorem stored_stepped {f : Dev → Res} {a : Nat} {ws : List Word} {b e : Dev} {g : Core → Core} {codes : List Nat} (hrun : ∀ c : Core, (g c).run = c.run)
    (hblock : ∀ c : Core, g { c with inBlock := false } = { g c with inBlock := false }) (hpc : ∀ c : Core, (g c).pc = c.pc)
    (hb : b = { e with cores := b.cores }) (hcore : coreGet b x.core = { coreGet s.dev x.core with inBlock := false })
    (hn : ∀ n, n ≠ x.core → coreGet b n = coreGet e n) (hf : f (notBlock x.core s.dev) = finishWith x.core g codes (coreWrites x.core a ws b)) :
    ∃ t, onDev (issue x f) s = .next t ∧ Stored x.core (g (coreGet s.dev x.core)).stepped a ws { s with dev := e } t := by
  have hlive : (coreGet (coreWrites x.core a ws b) x.core).run = true := by
    rw [(coreWrites_spec x.core a ws b).2.1, hcore]; exact ready_run h
  obtain ⟨t, ht, hr⟩ := stored_issue h (f := f) (g := fun c => (g c).next) (codes := codes) (fun c => hrun c) hb hcore hn
    (by rw [hf, finishWith_of_run _ _ _ _ hlive])
  refine ⟨t, ht, ?_⟩
  simp only [hblock, Core.next, hpc] at hr
  simpa only [Core.stepped, Core.retired, hpc] using hr

/-- The same, with nothing recorded before the store. -/
theorem stores_stepped {f : Dev → Res} {a : Nat} {ws : List Word} {g : Core → Core} {codes : List Nat} (hrun : ∀ c : Core, (g c).run = c.run)
    (hblock : ∀ c : Core, g { c with inBlock := false } = { g c with inBlock := false }) (hpc : ∀ c : Core, (g c).pc = c.pc)
    (hf : f (notBlock x.core s.dev) = finishWith x.core g codes (coreWrites x.core a ws (notBlock x.core s.dev))) :
    ∃ t, onDev (issue x f) s = .next t ∧ Stored x.core (g (coreGet s.dev x.core)).stepped a ws s t :=
  stored_stepped h (b := notBlock x.core s.dev) (e := s.dev) hrun hblock hpc (onCore_frame ..) (coreGet_notBlock_same ..)
    (fun _ hn => (coreGet_notBlock ..).trans (if_neg hn)) hf

/-- Words stored where every check passes. -/
theorem storeWords_ready {pl a : Nat} {ws : List Word} (access : Nat) (ha : a + ws.length ≤ 2 ^ 36)
    (hw : ∀ i < ws.length, writable x.core pl (a + i) s.dev = true) :
    storeWords x pl access a ws (notBlock x.core s.dev) = .ok (coreWrites x.core a ws (notBlock x.core s.dev)) :=
  storeWords_of_granted x pl access a ws _ (ready_data h) ha fun i hi => ((writable_iff ..).1 (hw i hi)).2

theorem storeWord_ready {pl a : Nat} (access : Nat) (v : Word) (ha : a < 2 ^ 36) (hw : writable x.core pl a s.dev = true) :
    storeWords x pl access a [v] (notBlock x.core s.dev) = .ok (coreWrites x.core a [v] (notBlock x.core s.dev)) :=
  storeWords_ready h access ha fun i hi => by rwa [show i = 0 by simpa using hi]

theorem wordOut_ready {pl a : Nat} (v : Word) (ha : a < 2 ^ 36) (hw : writable x.core pl a s.dev = true) :
    wordOut x pl a v (notBlock x.core s.dev) = finishWith x.core id [0x0B] (coreWrites x.core a [v] (notBlock x.core s.dev)) := by
  unfold wordOut
  rw [if_neg (by rw [((writable_iff ..).1 hw).1]; exact Bool.false_ne_true), storeWord_ready h 3 v ha hw]

/-- A store of a lane of a word in memory. -/
theorem laneStore_stored {rd ra imm n : Nat} (put : Nat → Word → Word → Word) (hd : rd < 32) (hra : ra < 32) (hi : imm < 2 ^ 18)
    (hw : writable x.core (coreGet s.dev x.core).pl (effAddr (coreGet s.dev x.core) ra n imm) s.dev = true) :
    ∃ t, onDev (laneStore x rd ra imm n put) s = .next t ∧ Stored x.core (coreGet s.dev x.core).stepped (effAddr (coreGet s.dev x.core) ra n imm)
      [put (imm / 2 ^ n) (coreWord s.dev x.core (effAddr (coreGet s.dev x.core) ra n imm)) ((coreGet s.dev x.core).reg rd)] s t := by
  refine stores_stepped h (g := id) (codes := [0x0B]) (fun _ => rfl) (fun _ => rfl) (fun _ => rfl) ?_
  dsimp only
  rw [coreGet_notBlock_same, if_neg, show effAddr { coreGet s.dev x.core with inBlock := false } ra n imm = effAddr (coreGet s.dev x.core) ra n imm from rfl,
    pl_notBlock, coreWord_notBlock, reg_notBlock, storeWord_ready h 3 _ (effAddr_lt ..) hw]
  rintro (hbad | hspace)
  · exact hbad ⟨regsOk_two hd hra, hi⟩
  · exact Bool.false_ne_true (((writable_iff ..).1 hw).1.symm.trans hspace)

end Store

/-- A lane of width n put into a word, bit by bit. -/
theorem getLsbD_putLane (w v : Word) {n l : Nat} (hn : 1 ≤ n) (hl : n * l + n ≤ 36) (k : Nat) :
    (setFld w (n * l + (n - 1)) (n * l) v.toNat).getLsbD k = if k / n = l then v.getLsbD (k % n) else w.getLsbD k := by
  have hdiv : k / n = l ↔ n * l ≤ k ∧ k ≤ n * l + (n - 1) := by
    rw [Nat.div_eq_iff (by omega), Nat.mul_comm l n]; omega
  rw [getLsbD_setFld w _ (by omega) (by omega)]
  by_cases hk : k / n = l
  · have hmod : k - n * l = k % n := by have := Nat.div_add_mod k n; rw [hk] at this; omega
    rw [if_pos (hdiv.1 hk), if_pos hk, hmod]; rfl
  · rw [if_neg (fun hc => hk (hdiv.2 hc)), if_neg hk]

/-- Settles O6: each store's law, with the words that its checks let through. -/
theorem coreStoresWriteMemory : Obligations.CoreStoresWriteMemory := by
  intro s x rd ra imm h hd hra hi m c ok w h' o
  have hregs : regsOk [rd, ra] = true := regsOk_two hd hra
  have hspace : ∀ {a : Nat}, ok a → deviceSpace x.core a = false := fun hok => ((writable_iff ..).1 hok).1
  refine ⟨fun hw => ?stw, fun hw hw1 heven hpair h0 => ?stp, fun hh => ?sth, fun ho => ?sto, fun ha => ?stsp, fun hs hlim ha => ?push, fun hadj => ?adjsp⟩
  case stw =>
    refine stores_stepped h (g := id) (codes := [0x0B]) (fun _ => rfl) (fun _ => rfl) (fun _ => rfl) ?_
    dsimp only
    rw [if_neg (not_not.2 ⟨hregs, hi⟩), coreGet_notBlock_same]
    exact wordOut_ready h _ (effAddr_lt ..) hw
  case stp =>
    have hlt : w < 2 ^ 36 := effAddr_lt ..
    have hstore := storeWords_ready h (pl := c.pl) (a := w) (ws := [c.reg rd, c.reg (rd + 1)]) 3 (by simp; omega)
      (fun i hi => by rcases Nat.le_one_iff_eq_zero_or_eq_one.1 (Nat.lt_succ_iff.1 hi) with rfl | rfl <;> assumption)
    refine stores_stepped h (g := id) (codes := [0x0B]) (fun _ => rfl) (fun _ => rfl) (fun _ => rfl) ?_
    dsimp only
    rw [coreGet_notBlock_same, if_neg, show effAddr { coreGet s.dev x.core with inBlock := false } ra 18 imm = w from rfl, pl_notBlock, reg_notBlock,
      reg_notBlock, hstore]
    rintro (hbad | h0' | hodd | hodd | hdev)
    · exact hbad ⟨hregs, hi⟩
    · exact h0 h0'
    · exact hodd hpair
    · exact hodd heven
    · exact Bool.false_ne_true ((hspace hw).symm.trans hdev)
  case sth =>
    obtain ⟨t, ht, hr⟩ := laneStore_stored h (fun l w v => setFld w (18 * l + 17) (18 * l) v.toNat) hd hra hi hh
    exact ⟨t, _, ht, hr, getLsbD_putLane _ _ (by decide) (by omega)⟩
  case sto =>
    obtain ⟨t, ht, hr⟩ := laneStore_stored h (fun l w v => setFld w (8 * l + 7) (8 * l) v.toNat) hd hra hi ho
    exact ⟨t, _, ht, hr, getLsbD_putLane _ _ (by decide) (by omega)⟩
  case stsp =>
    refine stores_stepped h (g := id) (codes := [0x0B]) (fun _ => rfl) (fun _ => rfl) (fun _ => rfl) ?_
    dsimp only
    rw [coreGet_notBlock_same, if_neg]
    · exact wordOut_ready h _ (wrap36_lt _) ha
    · rintro (hbad | hdev)
      · exact hbad ⟨regsOk_one hd, hi⟩
      · exact Bool.false_ne_true ((hspace ha).symm.trans hdev)
  case push =>
    have hcheck : pushCheck c.stk c.lim = none := by rw [pushCheck, if_neg hs, if_neg (Nat.not_lt.2 hlim)]
    refine stores_stepped h (g := fun k => k.setStk (c.stk - 1)) (codes := []) (fun _ => by simp) (fun k => setStk_inBlock ..) (fun _ => by simp) ?_
    dsimp only
    rw [coreGet_notBlock_same, if_neg, stk_notBlock, lim_notBlock, pl_notBlock, reg_notBlock, hcheck,
      storeWord_ready h 4 _ (lt_of_le_of_lt (Nat.sub_le ..) (stk_lt c)) ha]
    rintro (hbad | ⟨-, hdev⟩)
    · exact hbad (regsOk_one hd)
    · exact Bool.false_ne_true ((hspace ha).symm.trans hdev)
  case adjsp =>
    have hsext : sext 18 imm = (BitVec.ofNat 18 imm).signExtend 36 := sext_eq_signExtend (by decide) (by decide) hi
    have hneg : imm.testBit 17 = true ↔ 2 ^ 17 ≤ imm := by
      rw [Nat.testBit_eq_decide_div_mod_eq, decide_eq_true_eq]; omega
    refine stepped_ran (g := fun k => k.setStk _) (codes := []) h (fun _ => by simp) (fun k => setStk_inBlock ..) (fun _ => by simp) ?_
    dsimp only
    rw [coreGet_notBlock_same, stk_notBlock, lim_notBlock, if_neg (by omega), hsext, if_neg (fun hc => (hadj (hneg.1 hc.1)).1 hc.2),
      if_neg (fun hc => Nat.not_lt.2 (hadj (hneg.1 hc.1)).2 hc.2)]

/-! ### STX (R314, R434) -/

theorem recorded_notBlock (m n : Nat) (d : Dev) : recorded (notBlock m d) n = recorded d n := rfl

/-- What is recorded beside a change of the cores' records that keeps their progress. -/
theorem rplItem_notBlock (m kind : Nat) (ws : List Nat) (d : Dev) :
    rplItem m kind ws (notBlock m d) = { rplItem m kind ws d with cores := (notBlock m d).cores } := by
  unfold rplItem
  rw [recorded_notBlock, coreGet_notBlock_same]
  split <;> rfl

/-- STX on a device whose checks pass: its result recorded, then the word stored where that is 0. -/
theorem stx_body {x : Issue} {s : State} (h : ready x s.dev = true) {rd rb ra : Nat} (hd : rd < 32) (hrb : rb < 32) (hra : ra < 32)
    (hw : writable x.core (coreGet s.dev x.core).pl ((coreGet s.dev x.core).reg ra).toNat s.dev = true) {v : Word}
    (hv : v = if (coreGet s.dev x.core).resv = some (((coreGet s.dev x.core).reg ra).toNat / 8) ∧
      ¬ romWord x.core ((coreGet s.dev x.core).reg ra).toNat then 0 else 1) :
    let a := ((coreGet s.dev x.core).reg ra).toNat
    let b := rplItem x.core 6 [a, v.toNat] (notBlock x.core s.dev)
    ∃ f, exec (.stx x rd rb ra) s = onDev (issue x f) s ∧ f (notBlock x.core s.dev) =
      finishWith x.core (fun k => { k.setReg rd v with resv := none }) (if v = 0 then [0x0B] else [0x0E])
        (if v = 0 then coreWrites x.core a [(coreGet s.dev x.core).reg rb] b else b) := by
  intro a b
  refine ⟨_, rfl, ?_⟩
  have hgrant := mpuFault_of_granted x.core (coreGet s.dev x.core).pl 1 3 a 1 (notBlock x.core s.dev)
    (fun i hi => by rw [show i = 0 by omega, Nat.add_zero, wrap36_of_lt (BitVec.isLt _)]; exact ((writable_iff ..).1 hw).2)
  have hregs : regsOk [rd, rb, ra] = true := by simp [regsOk, hd, hrb, hra]
  have hresult : stxResult x { coreGet s.dev x.core with inBlock := false } a (notBlock x.core s.dev) = (some v, b) := by
    rw [stxResult, replayed_notBlock, ready_replayed h, if_neg Bool.false_ne_true]
    dsimp only
    rw [← hv]
  dsimp only
  rw [coreGet_notBlock_same, reg_notBlock, pl_notBlock, reg_notBlock, if_neg, hgrant]
  · dsimp only
    rw [hresult]
    dsimp only
    rw [show putWord x 0 a ((coreGet s.dev x.core).reg rb) b = coreWrites x.core a [(coreGet s.dev x.core).reg rb] b by
      simp only [putWord, ready_data h, coreWrites]]
  · rintro (hbad | hdev)
    · exact hbad hregs
    · exact Bool.false_ne_true (((writable_iff ..).1 hw).1.symm.trans hdev)

/-- Settles O7: the result of STX is that of its reservation; a result of 0 stores the word. -/
theorem coreStoreConditional : Obligations.CoreStoreConditional := by
  intro s x rd rb ra h hd hrb hra m c a base hw
  have hbase : ∀ v : Word, rplItem x.core 6 [a, v.toNat] (notBlock x.core s.dev) =
      { rplItem x.core 6 [a, v.toNat] s.dev with cores := (notBlock x.core s.dev).cores } := fun v => rplItem_notBlock ..
  have hcores : ∀ v : Word, (rplItem x.core 6 [a, v.toNat] s.dev).cores = s.dev.cores := fun v => by rw [rplItem_frame]
  have hcore : ∀ v : Word, coreGet (rplItem x.core 6 [a, v.toNat] (notBlock x.core s.dev)) x.core = { c with inBlock := false } := fun v => by
    rw [hbase]; exact coreGet_notBlock_same ..
  have hother : ∀ (v : Word) (n : Nat), n ≠ x.core → coreGet (rplItem x.core 6 [a, v.toNat] (notBlock x.core s.dev)) n =
      coreGet (rplItem x.core 6 [a, v.toNat] s.dev) n := fun v n hn => by
    rw [hbase, coreGet, coreGet, hcores]; exact (coreGet_notBlock ..).trans (if_neg hn)
  refine ⟨fun hresv hrom => ?stored, fun hfail => ?refused⟩
  case stored =>
    obtain ⟨f, hf, hbody⟩ := stx_body h hd hrb hra hw (v := 0) (if_pos ⟨hresv, by rw [hrom]; exact Bool.false_ne_true⟩).symm
    obtain ⟨t, ht, hr⟩ := stored_stepped h (f := f) (a := a) (ws := [c.reg rb]) (codes := [0x0B])
      (e := rplItem x.core 6 [a, (0 : Word).toNat] s.dev) (g := fun k => { k.setReg rd 0 with resv := none })
      (fun _ => by simp) (fun k => by simp only [setReg_inBlock]) (fun _ => by simp) (by rw [hbase]) (hcore 0) (hother 0)
      (by rw [hbody, if_pos rfl, if_pos rfl])
    exact ⟨t, hf.trans ht, hr⟩
  case refused =>
    have hv : (1 : Word) = if c.resv = some (a / 8) ∧ ¬ romWord x.core a then 0 else 1 :=
      (if_neg fun hc => hfail.elim (fun hr => hr hc.1) hc.2).symm
    obtain ⟨f, hf, hbody⟩ := stx_body h hd hrb hra hw hv
    refine ⟨_, hf, ?_⟩
    rw [issue_ready _ _ _ h, hbody, if_neg (by decide), if_neg (by decide), finishWith_of_run _ _ _ _ (by rw [hcore]; exact ready_run h)]
    have hran := ran_retire x.core c.pl [0x0E] (base 1) (onCore (rplItem x.core 6 [a, (1 : Word).toNat] (notBlock x.core s.dev)) x.core
      (fun k => Core.next { k.setReg rd 1 with resv := none })) (Core.next { ({ c with inBlock := false } : Core).setReg rd 1 with resv := none })
      (by rw [hbase]; rfl) (by rw [coreGet_onCore, if_pos rfl, hcore 1]) (by simp only [Core.next, setReg_run]; exact ready_run h)
      (fun n hn => by rw [coreGet_onCore, if_neg hn]; exact hother 1 n hn)
    convert hran using 1
    simp only [Core.next, Core.stepped, Core.retired, setReg_inBlock, setReg_pc]

end Sys2Proof.Machine

/-! The control transfers (O8): R305, Tables 12.3, 12.6 and 12.9. -/

namespace Sys2Proof.Machine

/-! ### Where a transfer goes -/

/-- A target, as the statements spell it: the instruction's address plus the sign-extended offset. -/
theorem target_eq (c : Core) {n off : Nat} (h1 : 1 ≤ n) (hn : n ≤ 36) (hoff : off < 2 ^ n) :
    target c n off = (BitVec.ofNat 36 c.pc + (BitVec.ofNat n off).signExtend 36).toNat := by
  rw [target, sext_eq_signExtend h1 hn hoff, BitVec.toNat_add, BitVec.toNat_ofNat, wrap36, Nat.mod_add_mod]

theorem wrap36_next (n : Nat) : wrap36 (n + 1) = (BitVec.ofNat 36 n + 1).toNat := by
  rw [BitVec.toNat_add, BitVec.toNat_ofNat, wrap36, Nat.mod_add_mod]; rfl

/-- Where a branch goes on. -/
def landing (c : Core) (off : Nat) (taken : Bool) : Nat :=
  (if taken then BitVec.ofNat 36 c.pc + (BitVec.ofNat 18 off).signExtend 36 else BitVec.ofNat 36 c.pc + 1).toNat

theorem branchTo_eq (x : Issue) {c : Core} {off : Nat} (hoff : off < 2 ^ 18) (taken : Bool) (d : Dev) :
    branchTo x c off taken d = goTo x.core (landing c off taken) id d := by
  rw [branchTo, target_eq c (by decide) (by decide) hoff, wrap36_next]
  cases taken <;> rfl

/-- A branch on a comparison. -/
theorem branch_ran {cmp : Word → Word → Bool} {x : Issue} {ra rb off : Nat} {s : State} {taken : Bool} (h : ready x s.dev = true) (ha : ra < 32)
    (hb : rb < 32) (hoff : off < 2 ^ 18) (hcmp : cmp ((coreGet s.dev x.core).reg ra) ((coreGet s.dev x.core).reg rb) = taken) :
    ∃ t, onDev (branch cmp x ra rb off) s = .next t ∧
      Ran x.core ((coreGet s.dev x.core).retired (landing (coreGet s.dev x.core) off taken)) s t := by
  refine goTo_ran (g := id) (codes := [0x08]) h (fun _ => rfl) (fun _ => rfl) ?_
  dsimp only
  rw [coreGet_notBlock_same, if_pos ⟨regsOk_two ha hb, hoff⟩, branchTo_eq x hoff, reg_notBlock, reg_notBlock, hcmp]
  rfl

theorem toInt_le_eq (a b : Word) : decide (b.toInt ≤ a.toInt) = !a.slt b := by
  rw [BitVec.slt, ← decide_not, decide_eq_decide, Int.not_lt]

theorem toNat_le_eq (a b : Word) : decide (b.toNat ≤ a.toNat) = !a.ult b := by
  rw [BitVec.ult, ← decide_not, decide_eq_decide, Nat.not_lt]

/-- Table 12.9, as a list. -/
theorem condMet_eq (f : Flags) {cond : Nat} (h : cond < 15) : condMet f cond =
    some ([f.z, !f.z, f.c, !f.c, f.n, !f.n, f.v, !f.v, f.c && !f.z, !f.c || f.z, f.n == f.v, f.n != f.v, !f.z && f.n == f.v,
      f.z || f.n != f.v, true].getD cond true) := by
  have hne : ∀ a b : Bool, decide (a ≠ b) = (a != b) := by decide
  have heq : ∀ a b : Bool, decide (a = b) = (a == b) := by decide
  simp only [← hne, ← heq]
  interval_cases cond <;> rfl

/-! ### Calls and returns (R305, Table 12.3) -/

/-- A call whose frame passes every check. -/
theorem call_stored {x : Issue} {s : State} (h : ready x s.dev = true) {f : Dev → Res} {pc : Nat}
    (hf : f (notBlock x.core s.dev) = callTo x pc (notBlock x.core s.dev)) (hs : 2 ≤ (coreGet s.dev x.core).stk)
    (hlim : (coreGet s.dev x.core).lim ≤ (coreGet s.dev x.core).stk - 2)
    (hw2 : writable x.core (coreGet s.dev x.core).pl ((coreGet s.dev x.core).stk - 2) s.dev = true)
    (hw1 : writable x.core (coreGet s.dev x.core).pl ((coreGet s.dev x.core).stk - 1) s.dev = true) :
    let c := coreGet s.dev x.core
    ∃ t, onDev (issue x f) s = .next t ∧
      Stored x.core ((c.setStk (c.stk - 2)).retired pc) (c.stk - 2) [c.sw, BitVec.ofNat 36 (c.pc + 1)] s t := by
  intro c
  change 2 ≤ c.stk at hs
  change c.lim ≤ c.stk - 2 at hlim
  have hlt : c.stk < 2 ^ 36 := stk_lt c
  have hnext : c.stk - 2 + 1 = c.stk - 1 := by omega
  have hstack : callStack c.stk c.lim = none := by
    simp only [callStack, pushCheck, if_neg (show c.stk ≠ 0 by omega), if_neg (show ¬ c.stk - 1 < c.lim by omega), if_neg (show c.stk - 1 ≠ 0 by omega),
      if_neg (show ¬ c.stk - 1 - 1 < c.lim by omega), Option.map_none]
  have hgrant := mpuFault_of_granted x.core c.pl 1 4 (c.stk - 1) 1 (notBlock x.core s.dev)
    (fun i hi => by rw [show i = 0 by omega, Nat.add_zero, wrap36_of_lt (by omega)]; exact ((writable_iff ..).1 hw1).2)
  have hstore := storeWords_ready h (pl := c.pl) (a := c.stk - 2) (ws := [c.sw, wd (c.pc + 1)]) 4 (by simp; omega)
    (fun i hi => by
      rcases Nat.le_one_iff_eq_zero_or_eq_one.1 (Nat.lt_succ_iff.1 hi) with rfl | rfl
      · exact hw2
      · rwa [hnext])
  obtain ⟨t, ht, hr⟩ := stored_issue h (f := f) (a := c.stk - 2) (ws := [c.sw, wd (c.pc + 1)]) (b := notBlock x.core s.dev) (e := s.dev)
    (g := fun k => { k.setStk (c.stk - 2) with pc := pc }) (codes := [0x08]) (fun _ => by simp) (onCore_frame ..) (coreGet_notBlock_same ..)
    (fun _ hn => (coreGet_notBlock ..).trans (if_neg hn)) (by
      rw [hf]
      unfold callTo
      dsimp only
      rw [coreGet_notBlock_same, stk_notBlock, lim_notBlock, pl_notBlock, if_neg, hstack]
      · dsimp only
        rw [hgrant]
        dsimp only
        rw [hstore]
        rfl
      · rintro ⟨-, hdev | ⟨-, hdev⟩⟩
        · exact Bool.false_ne_true (((writable_iff ..).1 hw1).1.symm.trans hdev)
        · exact Bool.false_ne_true (((writable_iff ..).1 hw2).1.symm.trans hdev))
  refine ⟨t, ht, ?_⟩
  simp only [setStk_inBlock] at hr
  exact hr

/-- Words popped where every check passes. -/
theorem popsFault_of_granted {x : Issue} {pl sp l n : Nat} {d : Dev} (hlim : l ≤ sp) (hlt : sp + n ≤ 2 ^ 36)
    (hread : ∀ i < n, readable x.core pl (sp + i) d = true) : popsFault x pl sp l n d = none := by
  have hwrap : ∀ i < n, wrap36 (sp + i) = sp + i := fun i hi => wrap36_of_lt (by omega)
  have hfind : (List.range n).find? (fun i => decide (wrap36 (sp + i) < l)) = none := by
    rw [List.find?_eq_none]
    intro i hi
    rw [hwrap i (List.mem_range.1 hi)]
    simp; omega
  rw [popsFault, hfind]
  exact mpuFault_of_granted _ _ _ _ _ _ _ fun i hi => by rw [hwrap i hi]; exact ((readable_iff ..).1 (hread i hi)).2

/-- No check code fails in a ready instruction. -/
theorem integrity_ready {x : Issue} {s : State} (h : ready x s.dev = true) (access k a : Nat) : integrity x access k a (notBlock x.core s.dev) = none := by
  simp [integrity, dataWcc, mediaErr, ready_data h, ready_media h, ready_replayed h]

theorem popStill_eq (c : Core) (w : Word) : popStill c w = { c with sw := if c.pl = 2 then c.sw else setBit c.sw 2 (bit w 2) } := by
  unfold popStill; split <;> rfl

theorem pl_setStk (c : Core) (n : Nat) : (c.setStk n).pl = c.pl := by unfold Core.setStk; split <;> rfl
theorem sw_setStk (c : Core) (n : Nat) : (c.setStk n).sw = c.sw := by unfold Core.setStk; split <;> rfl

/-- RET from a frame that passes every check. -/
theorem ret_ran {x : Issue} {s : State} (h : ready x s.dev = true) (hlim : (coreGet s.dev x.core).lim ≤ (coreGet s.dev x.core).stk)
    (hlt : (coreGet s.dev x.core).stk + 1 < 2 ^ 36) (hr0 : readable x.core (coreGet s.dev x.core).pl (coreGet s.dev x.core).stk s.dev = true)
    (hr1 : readable x.core (coreGet s.dev x.core).pl ((coreGet s.dev x.core).stk + 1) s.dev = true)
    (hpl : fld (coreWord s.dev x.core (coreGet s.dev x.core).stk) 1 0 = (coreGet s.dev x.core).pl) :
    let c := coreGet s.dev x.core
    let w := coreWord s.dev x.core c.stk
    ∃ t, exec (.ret x) s = .next t ∧ Ran x.core ({ c.setStk (wrap36 (c.stk + 2)) with sw := if c.pl = 2 then c.sw else setBit c.sw 2 (bit w 2) }.retired
      (coreWord s.dev x.core (c.stk + 1)).toNat) s t := by
  intro c w
  change c.stk + 1 < 2 ^ 36 at hlt
  have hpops : popsFault x c.pl c.stk c.lim 2 (notBlock x.core s.dev) = none := popsFault_of_granted hlim (by omega) fun i hi => by
    rcases Nat.le_one_iff_eq_zero_or_eq_one.1 (Nat.lt_succ_iff.1 hi) with rfl | rfl <;> assumption
  have hret : ∃ t, exec (.ret x) s = .next t ∧
      Ran x.core ((popStill (c.setStk (wrap36 (c.stk + 2))) w).retired (coreWord s.dev x.core (c.stk + 1)).toNat) s t := by
    refine goTo_ran (g := fun k => popStill (k.setStk (wrap36 (c.stk + 2))) w) (codes := [0x08]) h (fun k => by simp only [popStill_eq, setStk_run])
      (fun k => by simp only [popStill_eq, setStk_inBlock]; rfl) ?_
    dsimp only
    rw [coreGet_notBlock_same, stk_notBlock, pl_notBlock, lim_notBlock, wrap36_of_lt hlt, if_neg, hpops]
    · dsimp only
      rw [integrity_ready h, coreWord_notBlock]
      dsimp only
      rw [if_neg (not_not.2 hpl), integrity_ready h, coreWord_notBlock]
      rfl
    · rintro (hdev | hdev)
      · exact Bool.false_ne_true (((readable_iff ..).1 hr0).1.symm.trans hdev)
      · exact Bool.false_ne_true (((readable_iff ..).1 hr1).1.symm.trans hdev)
  rwa [popStill_eq, pl_setStk, sw_setStk] at hret

/-- Settles O8: each transfer's law, with the condition in the statement's spelling. -/
theorem coreControlTransfers : Obligations.CoreControlTransfers := by
  intro s x ra rb cond off joff h ha hb hcond hoff hjoff m c a b here lands jump f holds call w
  have hjump : target { c with inBlock := false } 28 joff = jump := target_eq c (by decide) (by decide) hjoff
  refine ⟨?beq, ?bne, ?blt, ?bge, ?bltu, ?bgeu, ?bcc, ?jmp, ?jmpr, fun ⟨hs, hlim, hw2, hw1⟩ => ?call, fun ⟨hs, hlim, hw2, hw1⟩ => ?callr,
    fun hlim hlt hr0 hr1 hpl => ret_ran h hlim hlt hr0 hr1 hpl⟩
  case beq => exact branch_ran h ha hb hoff rfl
  case bne => exact branch_ran h ha hb hoff rfl
  case blt => exact branch_ran h ha hb hoff rfl
  case bge => exact branch_ran h ha hb hoff (toInt_le_eq a b)
  case bltu => exact branch_ran h ha hb hoff rfl
  case bgeu => exact branch_ran h ha hb hoff (toNat_le_eq a b)
  case bcc =>
    refine goTo_ran (g := id) (codes := [0x08]) h (fun _ => rfl) (fun _ => rfl) ?_
    dsimp only
    rw [coreGet_notBlock_same, condMet_eq _ hcond]
    dsimp only
    rw [if_pos hoff, branchTo_eq x hoff]
    rfl
  case jmp =>
    refine goTo_ran (g := id) (codes := [0x08]) h (fun _ => rfl) (fun _ => rfl) ?_
    dsimp only
    rw [coreGet_notBlock_same, if_pos hjoff, hjump]
    rfl
  case jmpr =>
    refine goTo_ran (g := id) (codes := [0x08]) h (fun _ => rfl) (fun _ => rfl) ?_
    dsimp only
    rw [coreGet_notBlock_same, if_pos (regsOk_one ha)]
    rfl
  case call =>
    refine call_stored h ?_ hs hlim hw2 hw1
    rw [coreGet_notBlock_same, if_pos hjoff, hjump]
  case callr =>
    refine call_stored h ?_ hs hlim hw2 hw1
    rw [coreGet_notBlock_same, if_pos (regsOk_one ha)]
    rfl

end Sys2Proof.Machine

/-! Exception entry (R330 to R332): what is beside the words that an entry checks leaves them as they are, and what an entry that passes every check
leaves. -/

namespace Sys2Proof.Machine

/-! ### Devices that differ in a core's record and its PMU group -/

/-- Device b is device e but for core m's record and the register words of its PMU group. -/
def Aside (m : Nat) (e b : Dev) : Prop :=
  b = { e with cores := b.cores, regs := b.regs } ∧ (∀ n, n ≠ m → coreGet b n = coreGet e n) ∧ ∀ a, a / 256 ≠ 0x1800 + m → rg b a = rg e a

theorem aside_onCore (m : Nat) (d : Dev) (f : Core → Core) : Aside m d (onCore d m f) :=
  ⟨rfl, fun n hn => by rw [coreGet_onCore, if_neg hn], fun _ _ => rfl⟩

theorem aside_pmuEvents (m pl : Nat) (codes : List Nat) (d : Dev) : Aside m d (pmuEvents m pl codes d) := by
  obtain ⟨hframe, hregs⟩ := pmuOnly_events m pl codes d
  refine ⟨by rw [hframe], fun n _ => ?_, hregs⟩
  rw [hframe]; rfl

theorem Aside.trans {m : Nat} {d e b : Dev} (h : Aside m d e) (k : Aside m e b) : Aside m d b := by
  obtain ⟨hd, hcores, hregs⟩ := h
  obtain ⟨he, hcores', hregs'⟩ := k
  exact ⟨by rw [he, hd], fun n hn => (hcores' n hn).trans (hcores n hn), fun a ha => (hregs' a ha).trans (hregs a ha)⟩

/-- The MPU reads the words of its regions and the control of the code planes' windows, and no other register. -/
theorem refusal_congr {e b : Dev} (hsame : b.life = e.life ∧ b.fls = e.fls ∧ b.pas = e.pas) {n : Nat}
    (hword : ∀ r < regionCount n, ∀ k < 3, rg b (mpuAddr n r k) = rg e (mpuAddr n r k)) (hxip : rg b Reg.FLS_XIP_CTL = rg e Reg.FLS_XIP_CTL)
    (ctx col right a : Nat) : refusal b n ctx col right a = refusal e n ctx col right a := by
  obtain ⟨hlife, hfls, hpas⟩ := hsame
  have hregion : ∀ r, r < regionCount n → region b n r = region e n r := fun r hr => by
    simp only [region, regionOf, hword r hr 0 (by decide), hword r hr 1 (by decide), hword r hr 2 (by decide)]
  have hgov : governing b n ctx a = governing e n ctx a := by
    simp only [governing, List.map_congr_left fun r hr => hregion r (List.mem_range.1 hr)]
  have hwin : ∀ p, windowOn b p = windowOn e p := fun p => by rw [windowOn, windowOn, hxip, part, part, hpas, hfls]
  have hmap : mapped b n a = mapped e n a := by rw [mapped, mapped, hlife]
  simp only [refusal, hgov, hwin, hmap, hlife]

section Aside
variable {m : Nat} {e b : Dev} (h : Aside m e b)
include h

theorem Aside.mem_eq : b.mem = e.mem := by rw [h.1]
theorem Aside.fmem_eq : b.fmem = e.fmem := by rw [h.1]
theorem Aside.replayed_eq (hm : m < 0x100) (n : Nat) : replayed b n = replayed e n := by
  have hreg : rg b Reg.RPL_REPLAY_CORES = rg e Reg.RPL_REPLAY_CORES :=
    h.2.2 _ (by have : Reg.RPL_REPLAY_CORES / 256 < 0x1800 := by decide
                omega)
  have hrpl : b.rpl = e.rpl := by rw [h.1]
  simp only [replayed, hreg, hrpl]

theorem Aside.ramWord_eq (n a : Nat) : ramWord b n a = ramWord e n a := by simp only [ramWord, fmRd, memRd, h.mem_eq, h.fmem_eq]

theorem Aside.coreWord_eq (n a : Nat) : coreWord b n a = coreWord e n a := by
  have hfls : b.fls = e.fls := by rw [h.1]
  have hplane : ∀ p i, windowWord b p i = windowWord e p i := fun p i => by simp only [windowWord, planeOcts, planeOct, hfls]
  simp only [coreWord, memAny, fmRd, memRd, h.mem_eq, h.fmem_eq, hplane]

theorem Aside.refusal_eq (hm : m < 0x100) {n : Nat} (hn : n < 0x100) (ctx col right a : Nat) :
    refusal b n ctx col right a = refusal e n ctx col right a := by
  have hlow : ∀ k, k < 0x180000 → rg b k = rg e k := fun k hk => h.2.2 k (by omega)
  have hcount : regionCount n ≤ 32 := by unfold regionCount; split_ifs <;> decide
  exact refusal_congr (by rw [h.1]; exact ⟨rfl, rfl, rfl⟩) (fun r hr k hk => hlow _ (by unfold mpuAddr; omega)) (hlow _ (by decide)) ctx col right a

theorem Aside.writable_eq (hm : m < 0x100) {n : Nat} (hn : n < 0x100) (pl a : Nat) : writable n pl a b = writable n pl a e := by
  simp only [writable, h.refusal_eq hm hn]

end Aside

/-! ### Words of a frame, stored from the highest down -/

/-- The words of a list stored at addresses from a on, the last one first. -/
def coreWritesDown (m : Nat) : Nat → List Word → Dev → Dev
  | _, [], d => d
  | a, w :: ws, d => coreWrite m a w (coreWritesDown m (a + 1) ws d)

/-- Does a store of n words from a on by core m take a reservation of core k away? -/
def clearsResv (m a n k : Nat) : Option Nat → Bool
  | some g => decide (isF k = isF m) && (List.range n).any (fun i => !romWord m (a + i) && decide ((a + i) / 8 = g))
  | none => false

theorem clearsResv_none (m a n k : Nat) : clearsResv m a n k none = false := rfl

theorem afterStore_eq (m a n k : Nat) (c : Core) : c.afterStore m a n k = if clearsResv m a n k c.resv then { c with resv := none } else c := by
  unfold Core.afterStore
  cases hc : c.resv with
  | none => rfl
  | some g => simp only [clearsResv, Bool.and_eq_true, decide_eq_true_eq]

theorem afterStore_cons_down (m a n k : Nat) (c : Core) : (c.afterStore m (a + 1) n k).afterStore m a 1 k = c.afterStore m a (n + 1) k := by
  rw [← afterStore_cons m a n k c]
  simp only [afterStore_eq]
  cases hn : clearsResv m (a + 1) n k c.resv <;> cases h1 : clearsResv m a 1 k c.resv <;>
    simp only [hn, h1, if_true, if_false, Bool.false_eq_true, clearsResv_none]

/-- What storing words one after another does, from the highest down. -/
theorem coreWritesDown_spec (m a : Nat) (ws : List Word) (d : Dev) :
    let u := coreWritesDown m a ws d
    u = { d with cores := u.cores, mem := u.mem, fmem := u.fmem } ∧ coreGet u m = coreGet d m ∧
      (∀ n, n ≠ m → coreGet u n = (coreGet d n).afterStore m a ws.length n) ∧
      (∀ b, ramWord u m b = if storedAt m a ws.length b then ws.getD (b - a) 0 else ramWord d m b) ∧
      (if isF m then u.mem = d.mem else u.fmem = d.fmem) := by
  induction ws generalizing a with
  | nil => exact coreWrites_spec m a [] d
  | cons w ws ih =>
    obtain ⟨b1, b2, b3, b4, b5⟩ := ih (a + 1)
    obtain ⟨a1, a2, a3, a4, a5⟩ := coreWrite_spec m a w (coreWritesDown m (a + 1) ws d)
    simp only [coreWritesDown, List.length_cons]
    refine ⟨a1.trans (by rw [b1]), a2.trans b2, fun n hn => by rw [a3 n hn, b3 n hn, afterStore_cons_down], fun b => ?_, ?_⟩
    · rw [a4, b4]
      by_cases hb : b = a
      · subst hb
        have hself : storedAt m b 1 b = storedAt m b (ws.length + 1) b := by simp [storedAt]
        have hbelow : storedAt m (b + 1) ws.length b = false := by simp [storedAt]
        rw [hself, hbelow]; simp
      · have hone : storedAt m a 1 b = false := by simp [storedAt]; omega
        have hrest : storedAt m a (ws.length + 1) b = storedAt m (a + 1) ws.length b := by
          simp only [storedAt, show decide (a ≤ b) = decide (a + 1 ≤ b) by rw [decide_eq_decide]; omega, Nat.add_assoc, Nat.add_comm 1]
        simp only [hone, hrest, Bool.false_eq_true, if_false]
        by_cases hin : storedAt m (a + 1) ws.length b = true
        · obtain ⟨k, hk⟩ : ∃ k, b - a = k + 1 := ⟨b - a - 1, by simp [storedAt] at hin; omega⟩
          rw [if_pos hin, if_pos hin, hk, show b - (a + 1) = k by omega]; rfl
        · rw [if_neg hin, if_neg hin]
    · split at a5
      · rename_i hf; rw [if_pos hf] at b5 ⊢; exact a5.trans b5
      · rename_i hf; rw [if_neg hf] at b5 ⊢; exact a5.trans b5

/-- A frame that no check code failure meets is stored from its highest word down. -/
theorem writeFrame_eq {vec : EntryWcc} (hvec : vec.frame = none) {m sp : Nat} (hsp : 4 ≤ sp) (resume : Nat) (sw cause : Word) (addr : Nat) (d : Dev) :
    writeFrame vec m sp resume sw cause addr d = coreWritesDown m (sp - 4) [wd addr, cause, sw, wd resume] d := by
  have h3 : sp - 3 - 1 = sp - 4 := by omega
  have h2 : sp - 2 - 1 = sp - 4 + 1 := by omega
  have h1 : sp - 1 - 1 = sp - 4 + 1 + 1 := by omega
  have h0 : sp - 0 - 1 = sp - 4 + 1 + 1 + 1 := by omega
  simp only [writeFrame, frameWord, hvec, coreWritesDown, h0, h1, h2, h3]

/-- A frame stored and the core's record changed. -/
theorem stored_frame {m a : Nat} {ws : List Word} {s : State} {e b : Dev} (g : Core → Core) (h : Aside m e b) :
    Stored m (g (coreGet b m)) a ws { s with dev := e } { s with dev := onCore (coreWritesDown m a ws b) m g } := by
  obtain ⟨c1, c2, c3, c4, c5⟩ := coreWritesDown_spec m a ws b
  generalize coreWritesDown m a ws b = w at *
  obtain ⟨hframe, hcores, hregs⟩ := h
  refine ⟨?_, by rw [coreGet_onCore, if_pos rfl, c2], fun n hn => by rw [coreGet_onCore, if_neg hn, c3 n hn, hcores n hn], fun k => ?_, ?_, fun k hk => ?_⟩
  · simp only [State.mk.injEq, and_true]
    rw [onCore_frame, c1, hframe]
  · rw [show ramWord (onCore w m g) m k = ramWord w m k from rfl, c4 k, Aside.ramWord_eq ⟨hframe, hcores, hregs⟩]
  · have hmem : b.mem = e.mem := by rw [hframe]
    have hfmem : b.fmem = e.fmem := by rw [hframe]
    rw [← hmem, ← hfmem]; exact c5
  · rw [show rg (onCore w m g) k = rg w k from rfl, c1]; exact hregs k hk

/-! ### Entry (R332) -/

theorem isCore_lt {m : Nat} (h : isCore m = true) : m < 0x100 := by
  simp [isCore, isH, isF] at h; omega

theorem isCore_of_live {d : Dev} {m : Nat} (h : coreLive d m = true) : isCore m = true := by
  simp only [coreLive, Bool.and_eq_true] at h; exact h.1.1.1

/-- What an entry reads of a core's record. -/
def Core.entryView (c : Core) : Word × Tab Word × Tab Word × Word × Nat := (c.vbase, c.sp, c.sl, c.sw, c.bwdepth)

section Entry
variable {m : Nat} {e b : Dev} (h : Aside m e b) (hm : m < 0x100) (hview : (coreGet b m).entryView = (coreGet e m).entryView)
include hview

theorem vectorAt_eq (v : Nat) : vectorAt b m v = vectorAt e m v := by
  have hbase : (coreGet b m).vbase = (coreGet e m).vbase := congrArg (·.1) hview
  rw [vectorAt, vectorAt, hbase]

include h

theorem entryLevel_eq (v : Nat) : entryLevel m v b = entryLevel m v e := by
  have hsw : (coreGet b m).sw = (coreGet e m).sw := congrArg (·.2.2.2.1) hview
  simp only [entryLevel, vectorAt_eq hview, h.coreWord_eq, Core.pl, hsw]

include hm

theorem vectorRefused_eq (v : Nat) : vectorRefused b m v = vectorRefused e m v := by
  simp only [vectorRefused, vectorAt_eq hview, h.refusal_eq hm hm]

theorem entryOk_eq (v : Nat) : entryOk m v b = entryOk m v e := by
  have hsp : (coreGet b m).sp = (coreGet e m).sp := congrArg (·.2.1) hview
  have hsl : (coreGet b m).sl = (coreGet e m).sl := congrArg (·.2.2.1) hview
  have hdepth : (coreGet b m).bwdepth = (coreGet e m).bwdepth := congrArg (·.2.2.2.2) hview
  simp only [entryOk, entryLevel_eq h hview, vectorRefused_eq h hm hview, vectorAt_eq hview, h.coreWord_eq, h.writable_eq hm hm, hsp, hsl, hdepth]

end Entry

/-- A frame whose four words pass every check. -/
theorem checkFrame_of_granted {d : Dev} {m pl sp l : Nat} (hlt : sp < 2 ^ 36) (hsp : 4 ≤ sp) (hl : l ≤ sp - 4)
    (hw : [1, 2, 3, 4].all (fun k => writable m pl (sp - k) d) = true) : checkFrame d m pl sp l = none := by
  have hpush : ∀ k, 1 ≤ k → k ≤ 4 → pushCheck (sp - (k - 1)) l = none := fun k h1 h4 => by
    rw [pushCheck, if_neg (by omega), if_neg (by omega)]
  have hwrite : ∀ k ∈ [1, 2, 3, 4], deviceSpace m (sp - k) = false ∧ refusal d m m pl 1 (sp - k) = none := fun k hk =>
    (writable_iff ..).1 (List.all_eq_true.1 hw k hk)
  have hpushes : [1, 2, 3, 4].findSome? (fun k => (pushCheck (sp - (k - 1)) l).map (fun t => (wrap36 (sp + 2 ^ 36 - k), false, t))) = none :=
    List.findSome?_eq_none_iff.2 fun k hk => by rw [hpush k (by simp at hk; omega) (by simp at hk; omega)]; rfl
  have hwrites : [1, 2, 3, 4].findSome? (fun k => (if deviceSpace m (sp - k) then some 1 else refusal d m m pl 1 (sp - k)).map
      (fun t => (sp - k, true, t))) = none :=
    List.findSome?_eq_none_iff.2 fun k hk => by rw [(hwrite k hk).1, if_neg Bool.false_ne_true, (hwrite k hk).2]; rfl
  simp only [checkFrame, hpushes, hwrites]

theorem fcauseWord_eq (v pl access detail : Nat) : fcauseWord v pl access detail false 0 = entryCause v pl access detail := by
  simp only [fcauseWord, entryCause, pack, wd, List.foldl, Nat.shiftLeft_eq, b2n, Bool.false_eq_true, if_false]
  congr 1; ring

/-- What an entry at a level makes of a core's record, c being the record before it. -/
def Core.takes (c : Core) (l v : Nat) (cause : Word) (addr : Nat) (e : Word) (isFault : Bool) (k : Core) : Core :=
  { k with sp := tabSet 0 k.sp l (wd ((tabGet 0 c.sp l).toNat - 4)), fcause := cause, faddr := wd addr, sw := swHandler c l, inBlock := false, pend := if isFault then k.pend else tabSet false k.pend v false, resv := none, pc := e.toNat - e.toNat % 4 }

section
variable {vec : EntryWcc} {m : Nat} {f : CoreFault} {isFault : Bool} {b : Dev}

/-- An entry that passes every check stores its frame and goes on in the handler. -/
theorem enter_of_checks (hvec : vec.frame = none) (hok : entryOk m f.vec b = true) (hbad : vectorBad vec.vector m (vectorAt b m f.vec) b = false)
    (hstill : isFault = true → (coreGet b m).still = false) :
    enter vec m f isFault b =
      onCore (coreWritesDown m ((tabGet 0 (coreGet b m).sp (entryLevel m f.vec b)).toNat - 4)
          [wd f.addr, entryCause f.vec (coreGet b m).pl f.access f.detail, swAt (coreGet b m), wd f.resume] b) m
        ((coreGet b m).takes (entryLevel m f.vec b) f.vec (entryCause f.vec (coreGet b m).pl f.access f.detail) f.addr
          (coreWord b m (vectorAt b m f.vec)) isFault) := by
  simp only [entryOk, Bool.and_eq_true, decide_eq_true_eq, Option.isNone_iff_eq_none] at hok
  obtain ⟨⟨⟨⟨⟨hdepth, hvector⟩, htarget⟩, hsp⟩, hsl⟩, hwrite⟩ := hok
  have hframe := checkFrame_of_granted (BitVec.isLt _) hsp hsl hwrite
  have hfirst : ¬ ((coreGet b m).bwdepth ≠ 0 ∨ isFault = true ∧ (coreGet b m).still = true) := by
    rintro (hd | ⟨hf, hs⟩)
    · exact hd hdepth
    · exact Bool.false_ne_true ((hstill hf).symm.trans hs)
  have h3 : ¬ (fld (coreWord b m (vectorAt b m f.vec)) 1 0 = 3 ∨ fld (coreWord b m (vectorAt b m f.vec)) 1 0 = 2 ∧ isFault = true) := by omega
  have h2 : fld (coreWord b m (vectorAt b m f.vec)) 1 0 ≠ 2 := by omega
  rw [← fcauseWord_eq, ← writeFrame_eq hvec hsp]
  simp only [enter, if_neg hfirst, hvector, hbad, Bool.false_eq_true, if_false, if_neg h3, if_neg h2]
  rw [show min (fld (coreWord b m (vectorAt b m f.vec)) 1 0) (coreGet b m).pl = entryLevel m f.vec b from rfl, hframe]
  rfl

end

theorem wd_sub_four {w : Word} (h : 4 ≤ w.toNat) : wd (w.toNat - 4) = w - 4 := by
  apply BitVec.eq_of_toNat_eq
  rw [wd, BitVec.toNat_ofNat, BitVec.toNat_sub]
  have := BitVec.isLt w
  simp only [BitVec.reduceToNat]
  omega

theorem takes_eq {c : Core} {m v : Nat} {d : Dev} {cause : Word} {addr : Nat} {isFault : Bool} (h : 4 ≤ (tabGet 0 c.sp (entryLevel m v d)).toNat) :
    c.takes (entryLevel m v d) v cause addr (coreWord d m (vectorAt d m v)) isFault c =
      { c with pend := if isFault then c.pend else tabSet false c.pend v false }.inHandler m v d cause addr := by
  have hsub := wd_sub_four h
  have hpc : ∀ n : Nat, n - n % 4 = n / 4 * 4 := fun n => by omega
  simp only [Core.takes, Core.inHandler, hsub, hpc, swHandler]; rfl

/-- State after an entry that passes every check, from a device that differs from another beside what the entry looks at. -/
theorem entered_of_ok {vec : EntryWcc} (hvec : vec.frame = none) {m : Nat} {f : CoreFault} {isFault : Bool} {s : State} {e b : Dev} (h : Aside m e b)
    (hm : m < 0x100) (hview : (coreGet b m).entryView = (coreGet e m).entryView) (hok : entryOk m f.vec e = true)
    (hbad : vectorBad vec.vector m (vectorAt b m f.vec) b = false) (hstill : isFault = true → (coreGet b m).still = false) :
    Entered m f.vec { coreGet b m with pend := if isFault then (coreGet b m).pend else tabSet false (coreGet b m).pend f.vec false } f.access f.detail f.addr
      f.resume (swAt (coreGet b m)) { s with dev := e } { s with dev := enter vec m f isFault b } := by
  have hokb : entryOk m f.vec b = true := (entryOk_eq h hm hview f.vec).trans hok
  have hsp : 4 ≤ (tabGet 0 (coreGet b m).sp (entryLevel m f.vec b)).toNat := by
    simp only [entryOk, Bool.and_eq_true, decide_eq_true_eq] at hokb; exact hokb.1.1.2
  have hrec := takes_eq (c := coreGet b m) (cause := entryCause f.vec (coreGet b m).pl f.access f.detail) (addr := f.addr) (isFault := isFault) hsp
  have hlevel := entryLevel_eq h hview f.vec
  have hword : coreWord b m (vectorAt b m f.vec) = coreWord e m (vectorAt e m f.vec) := by rw [vectorAt_eq hview, h.coreWord_eq]
  rw [enter_of_checks hvec hokb hbad hstill]
  have hstored := stored_frame (s := s) (m := m) (a := (tabGet 0 (coreGet b m).sp (entryLevel m f.vec b)).toNat - 4)
    (ws := [wd f.addr, entryCause f.vec (coreGet b m).pl f.access f.detail, swAt (coreGet b m), wd f.resume])
    ((coreGet b m).takes (entryLevel m f.vec b) f.vec (entryCause f.vec (coreGet b m).pl f.access f.detail) f.addr
          (coreWord b m (vectorAt b m f.vec)) isFault) h
  rw [hrec] at hstored
  simp only [Entered, Core.inHandler, hlevel, hword] at hstored ⊢
  exact hstored

end Sys2Proof.Machine

/-! Faults taken by exception entry (R326 to R332): what the faults of an instruction, and the interrupt of an instruction boundary, leave. -/

namespace Sys2Proof.Machine

theorem coreGet_pmuEvents (m pl : Nat) (codes : List Nat) (d : Dev) (n : Nat) : coreGet (pmuEvents m pl codes d) n = coreGet d n := by
  rw [(pmuOnly_events m pl codes d).1]; rfl

theorem aside_notBlock (m : Nat) (d : Dev) : Aside m d (notBlock m d) := aside_onCore m d _

section Fault
variable {x : Issue} {s : State} {f : Dev → Res} {r : CoreFault} {e b : Dev} (h : ready x s.dev = true) (hf : f (notBlock x.core s.dev) = .error (r, b))
  (hb : Aside x.core e b) (he : coreGet e x.core = coreGet s.dev x.core)
  (hcore : coreGet b x.core = { coreGet s.dev x.core with inBlock := false })
include h hf hb he hcore

/-- The fault of an instruction's body, other than INTEGRITY, taken by exception entry. -/
theorem fault_entered (h5 : r.vec ≠ 5) (hstill : (coreGet s.dev x.core).still = false) (hok : entryOk x.core r.vec e = true) :
    ∃ t, onDev (issue x f) s = .next t ∧ Entered x.core r.vec { coreGet s.dev x.core with stepOne := false } r.access r.detail r.addr r.resume
      (coreGet s.dev x.core).sw { s with dev := e } t := by
  refine ⟨_, rfl, ?_⟩
  rw [issue_ready _ _ _ h, hf]
  simp only [raiseFault, if_neg h5]
  have hrec : ∀ codes pl, coreGet (pmuEvents x.core pl codes (onCore b x.core (fun c => { c with stepOne := false }))) x.core =
      { coreGet s.dev x.core with inBlock := false, stepOne := false } := fun codes pl => by
    rw [coreGet_pmuEvents, coreGet_onCore, if_pos rfl, hcore]
  have hent := entered_of_ok (vec := {}) rfl (f := r) (isFault := true) (s := s)
    ((hb.trans (aside_onCore x.core b (fun c => { c with stepOne := false }))).trans
      (aside_pmuEvents x.core (coreGet (onCore b x.core (fun c => { c with stepOne := false })) x.core).pl [0x0F] _))
    (isCore_lt (isCore_of_live (ready_live h))) (by rw [hrec, he]; rfl) hok rfl (fun _ => by rw [hrec]; exact hstill)
  rw [hrec] at hent
  exact hent

end Fault

/-- A fault of the operands or the level: the body leaves the device as it is. -/
theorem plainFault_entered {x : Issue} {s : State} {f : Dev → Res} {r : CoreFault} (h : ready x s.dev = true)
    (hf : f (notBlock x.core s.dev) = .error (r, notBlock x.core s.dev)) (h5 : r.vec ≠ 5) (hstill : (coreGet s.dev x.core).still = false)
    (hok : entryOk x.core r.vec s.dev = true) :
    ∃ t, onDev (issue x f) s = .next t ∧ Entered x.core r.vec { coreGet s.dev x.core with stepOne := false } r.access r.detail r.addr r.resume
      (coreGet s.dev x.core).sw s t :=
  fault_entered h hf (aside_notBlock _ _) rfl (coreGet_notBlock_same _ _) h5 hstill hok

/-! ### A refusal recorded -/

theorem rg_mpuRecord (m ident access a detail k : Nat) (d : Dev) (hk : k < 0x0700F1 + 256 * m ∨ 0x0700F3 + 256 * m < k) :
    rg (mpuRecord m ident access a detail d) k = rg d k := by
  unfold mpuRecord rgAdd
  dsimp only
  split <;> simp only [rg_rgSet] <;> rw [if_neg (by omega)]
  rw [if_neg (by omega), if_neg (by omega)]

theorem mpuRecord_frame (m ident access a detail : Nat) (d : Dev) :
    mpuRecord m ident access a detail d = { d with regs := (mpuRecord m ident access a detail d).regs } := by
  unfold mpuRecord
  dsimp only
  generalize pack _ = w
  split_ifs <;> rfl

theorem mpuRecord_notBlock (m n ident access a detail : Nat) (d : Dev) :
    mpuRecord m ident access a detail (notBlock n d) = notBlock n (mpuRecord m ident access a detail d) := by
  have hkey : ∀ (p q r : Nat) (u v : Word), (if bit (rg (rgAdd (notBlock n d) r 1) q) 35 then rgAdd (notBlock n d) r 1
      else rgSet (rgSet (rgAdd (notBlock n d) r 1) p u) q v) =
      notBlock n (if bit (rg (rgAdd d r 1) q) 35 then rgAdd d r 1 else rgSet (rgSet (rgAdd d r 1) p u) q v) := fun p q r u v => by
    rw [apply_ite (notBlock n)]; rfl
  exact hkey _ _ _ _ _

theorem coreGet_mpuRecord (m ident access a detail n : Nat) (d : Dev) : coreGet (mpuRecord m ident access a detail d) n = coreGet d n := by
  rw [mpuRecord_frame]; rfl

theorem refusal_mpuRecord {m : Nat} (hm : m < 0x100) (ident access x detail : Nat) (d : Dev) (n ctx col right a : Nat) :
    refusal (mpuRecord m ident access x detail d) n ctx col right a = refusal d n ctx col right a := by
  have hcount : regionCount n ≤ 32 := by unfold regionCount; split_ifs <;> decide
  refine refusal_congr (by rw [mpuRecord_frame]; exact ⟨rfl, rfl, rfl⟩) (fun r hr k hk => rg_mpuRecord _ _ _ _ _ _ _ ?_) (rg_mpuRecord _ _ _ _ _ _ _ ?_) _ _ _ _
  · unfold mpuAddr; omega
  · simp only [Reg.FLS_XIP_CTL]; omega

theorem entryOk_mpuRecord {m : Nat} (hm : m < 0x100) (ident access x detail v : Nat) (d : Dev) :
    entryOk m v (mpuRecord m ident access x detail d) = entryOk m v d := by
  have hword : ∀ a, coreWord (mpuRecord m ident access x detail d) m a = coreWord d m a := fun a => by rw [mpuRecord_frame]; rfl
  simp only [entryOk, entryLevel, vectorRefused, vectorAt, writable, refusal_mpuRecord hm, coreGet_mpuRecord, hword]
  rfl

/-! ### The faults of O9 -/

section Faults
variable {x : Issue} {s : State} (h : ready x s.dev = true)
include h

/-- LDW refused by the MPU. -/
theorem ldw_refused {rd ra imm detail : Nat} (hd : rd < 32) (ha : ra < 32) (hi : imm < 2 ^ 18) (hstill : (coreGet s.dev x.core).still = false)
    (hspace : deviceSpace x.core (effAddr (coreGet s.dev x.core) ra 18 imm) = false)
    (hrefused : refusal s.dev x.core x.core (coreGet s.dev x.core).pl 0 (effAddr (coreGet s.dev x.core) ra 18 imm) = some detail)
    (hok : entryOk x.core 3 s.dev = true) :
    ∃ t, execLdw x rd ra imm s = .next t ∧ Entered x.core 3 { coreGet s.dev x.core with stepOne := false } 2 detail
      (effAddr (coreGet s.dev x.core) ra 18 imm) (coreGet s.dev x.core).pc (coreGet s.dev x.core).sw
      { s with dev := mpuRecord x.core x.core 2 (effAddr (coreGet s.dev x.core) ra 18 imm) detail s.dev } t := by
  have hlt : x.core < 0x100 := isCore_lt (isCore_of_live (ready_live h))
  have haddr : effAddr { coreGet s.dev x.core with inBlock := false } ra 18 imm = effAddr (coreGet s.dev x.core) ra 18 imm := rfl
  generalize hA : effAddr (coreGet s.dev x.core) ra 18 imm = a at *
  have hA' : a < 2 ^ 36 := hA ▸ effAddr_lt _ _ _ _
  refine fault_entered (r := ⟨3, 2, detail, a, (coreGet s.dev x.core).pc⟩) (b := notBlock x.core (mpuRecord x.core x.core 2 a detail s.dev)) h ?_
    (aside_notBlock _ _) (coreGet_mpuRecord ..) (by rw [coreGet_notBlock_same, coreGet_mpuRecord]) (by simp) hstill
    ((entryOk_mpuRecord hlt ..).trans hok)
  have hpl : ({ coreGet s.dev x.core with inBlock := false } : Core).pl = (coreGet s.dev x.core).pl := rfl
  have hrefused' : refusal (notBlock x.core s.dev) x.core x.core (coreGet s.dev x.core).pl 0 a = some detail :=
    ((aside_notBlock _ _).refusal_eq hlt hlt ..).trans hrefused
  have hmpu : mpuFault x.core (coreGet s.dev x.core).pl 0 2 a 1 (notBlock x.core s.dev) =
      some (⟨3, 2, detail, a, (coreGet s.dev x.core).pc⟩, notBlock x.core (mpuRecord x.core x.core 2 a detail s.dev)) := by
    rw [mpuFault, show List.range 1 = [0] from rfl, List.findSome?_cons, Nat.add_zero, wrap36_of_lt hA']
    simp only [hrefused', Option.map_some, coreGet_notBlock_same, mpuRecord_notBlock]
  simp only [coreGet_notBlock_same, haddr, hpl, regsOk_two hd ha, hi, wordIn, hspace, loadWords, hmpu, and_self, not_true, if_false, Bool.false_eq_true]

end Faults

/-- Settles O9: each body gives its fault, and the fault is taken by an entry that passes every check. -/
theorem coreFaultsEnterHandlers : Obligations.CoreFaultsEnterHandlers := by
  intro s x rd ra rb n fn imm h hd ha hb hn hfn hi m c ok at_ hstill
  have hget : coreGet (notBlock x.core s.dev) x.core = { coreGet s.dev x.core with inBlock := false } := coreGet_notBlock_same _ _
  have h3 : regsOk [rd, ra, rb] = true := by simp [regsOk, hd, ha, hb]
  refine ⟨fun hlow hok => ?_, fun hhigh hok => ?_, fun h0 hok => ?_, fun hok => ?_, fun hpl hok => ?_, fun hpl hok => ?_, fun hstk hok => ?_, fun hpl hok => ?_,
    fun hodd hok => ?_, fun detail => ?_⟩
  · refine plainFault_entered (r := ⟨32 + fn, 0, 0, fn, wrap36 (c.pc + 1)⟩) h ?_ (by simp; omega) hstill hok
    simp only [hget]
    rw [if_neg (by omega), if_pos hlow]
  · refine plainFault_entered (r := ⟨7, 0, 0, fn, wrap36 (c.pc + 1)⟩) h ?_ (by simp) hstill hok
    simp only [hget]
    rw [if_neg (by omega), if_neg (by omega)]
  · have hdiv : ∀ op, ∃ t, onDev (divide op x rd ra rb) s = .next t ∧ Entered m 6 { c with stepOne := false } 0 0 c.pc c.pc c.sw s t := fun op => by
      refine plainFault_entered (r := ⟨6, 0, 0, c.pc, c.pc⟩) h ?_ (by simp) hstill hok
      simp only [h3, hget, reg_notBlock, not_true, if_false, divFault, faultAt]
      rw [if_pos h0]
    exact ⟨hdiv _, hdiv _, hdiv _, hdiv _⟩
  · refine plainFault_entered (r := ⟨0, 0, 0, c.pc, c.pc⟩) h ?_ (by simp) hstill hok
    simp only [encFault, faultAt, hget]
    rw [if_neg (by omega)]
  · refine plainFault_entered (r := ⟨1, 0, 0, c.pc, c.pc⟩) h ?_ (by simp) hstill hok
    simp only [privFault, faultAt, hget, pl_notBlock]
    rw [if_pos hpl]
  · refine plainFault_entered (r := ⟨1, 0, 0, c.pc, c.pc⟩) h ?_ (by simp) hstill hok
    simp only [privFault, faultAt, hget, pl_notBlock]
    rw [if_pos hpl]
  · refine plainFault_entered (r := ⟨4, 4, 1, 2 ^ 36 - 1, c.pc⟩) h ?_ (by simp) hstill hok
    have hstk' : (coreGet s.dev x.core).stk = 0 := hstk
    simp only [hget, stk_notBlock, hstk', regsOk_one hd, pushCheck, stackFault]
    simp [wrap36, c, m]
  · refine plainFault_entered (r := ⟨1, 0, 0, c.pc, c.pc⟩) h ?_ (by simp) hstill hok
    have hpl' : (coreGet s.dev x.core).pl = 1 := hpl
    simp only [hget, pl_notBlock, hpl', regsOk_one ha, privFault, faultAt]
    rfl
  · have hodd' : effAddr { coreGet s.dev x.core with inBlock := false } ra 18 imm % 2 ≠ 0 := by
      rw [show effAddr { coreGet s.dev x.core with inBlock := false } ra 18 imm = effAddr c ra 18 imm from rfl]; omega
    constructor <;>
    · refine plainFault_entered (r := ⟨0, 0, 0, c.pc, c.pc⟩) h ?_ (by simp) hstill hok
      simp only [hget, encFault, faultAt]
      rw [if_pos (.inr (.inr (.inr (.inl hodd'))))]
  · exact fun hspace hrefused hok => ldw_refused h hd ha hi hstill hspace hrefused hok

end Sys2Proof.Machine

/-! The interrupt of an instruction boundary (R327 to R332), and the system instructions: ERET, barriers, WAITPASS, FEAT, MFSR, MTSR (R302, R311, R313,
R317, R319, R334). -/

namespace Sys2Proof.Machine

/-! ### INTERRUPT_ENTRY -/

theorem refusal_rplItem (m kind : Nat) (ws : List Nat) (d : Dev) (n ctx col right a : Nat) :
    refusal (rplItem m kind ws d) n ctx col right a = refusal d n ctx col right a := by
  rw [rplItem_frame]
  exact refusal_congr ⟨rfl, rfl, rfl⟩ (fun _ _ _ _ => rfl) rfl ctx col right a

theorem entryOk_rplItem (m kind v : Nat) (ws : List Nat) (d : Dev) : entryOk m v (rplItem m kind ws d) = entryOk m v d := by
  have hword : ∀ a, coreWord (rplItem m kind ws d) m a = coreWord d m a := fun a => by rw [rplItem_frame]; rfl
  have hget : coreGet (rplItem m kind ws d) m = coreGet d m := by rw [rplItem_frame]; rfl
  simp only [entryOk, entryLevel, vectorRefused, vectorAt, writable, refusal_rplItem, hget, hword]
  rfl

/-- The code of a vector's entry that holds still holds where the core reads the same words. -/
theorem vectorBad_congr {vec : Option Wcc} {m a : Nat} {e b : Dev} (hword : ∀ k, coreWord b m k = coreWord e m k) (hr : replayed e m = false)
    (h : vectorBad vec m a e = false) : vectorBad vec m a b = false := by
  cases vec with
  | none => rfl
  | some w =>
    simp only [vectorBad, hr, Bool.not_false, Bool.true_and] at h
    have hhit : wccHit w m a (if w.stage = 0 then 0 else coreWord b m a) b = false := by
      simpa only [wccHit, hword] using h
    simp only [vectorBad, hhit, Bool.and_false]

/-- Settles O10: the interrupt is taken by an entry that passes every check. -/
theorem coreInterruptEntry : Obligations.CoreInterruptEntry := by
  intro s m v vec hvec hlive hr hok hbad c hstill hpend
  have hmode : c.bwdepth = 0 := by simp only [entryOk, Bool.and_eq_true, decide_eq_true_eq] at hok; exact hok.1.1.1.1.1
  have htake : takable s.dev m = some v := by
    rw [takable, if_neg (by rw [hr]; exact Bool.false_ne_true), if_neg]
    · exact hpend
    · rintro (hs | hd)
      · exact Bool.false_ne_true (hstill.symm.trans hs)
      · exact hd hmode
  have htarget : vectorTarget s.dev m v ≠ some 2 := by
    simp only [entryOk, Bool.and_eq_true, decide_eq_true_eq, Option.isNone_iff_eq_none] at hok
    obtain ⟨⟨⟨⟨⟨-, hvector⟩, htarget⟩, -⟩, -⟩, -⟩ := hok
    rw [vectorTarget, hvector]
    simp only [Option.isSome_none, Bool.false_eq_true, if_false, ne_eq, Option.some.injEq]
    omega
  refine ⟨_, rfl, ?_⟩
  generalize he : rplItem m 5 [16 * v] s.dev = e
  have hcore : coreGet e m = c := by rw [← he, rplItem_frame]; rfl
  have hone : takeOne vec m v s.dev =
      (true, enter vec m ⟨v, 0, 0, 0, c.pc⟩ false (pmuEvents m c.pl [0x10] (onCore e m (fun k => { k with waiting := none })))) := by
    simp only [takeOne, htarget, false_and, if_false, hr, Bool.false_eq_true, he]
    rfl
  have hall : interruptEntry vec m s.dev = enter vec m ⟨v, 0, 0, 0, c.pc⟩ false (pmuEvents m c.pl [0x10] (onCore e m (fun k => { k with waiting := none }))) := by
    rw [interruptEntry, if_pos hlive, takeInterrupts, htake]
    simp only [hone, if_true]
  have haside := (aside_onCore m e (fun k => { k with waiting := none })).trans (aside_pmuEvents m c.pl [0x10] _)
  generalize hb : pmuEvents m c.pl [0x10] (onCore e m (fun k => { k with waiting := none })) = b at hall haside
  have hrec : coreGet b m = { c with waiting := none } := by rw [← hb, coreGet_pmuEvents, coreGet_onCore, if_pos rfl, hcore]
  have hword : ∀ a, coreWord b m a = coreWord s.dev m a := fun a => by
    rw [haside.coreWord_eq, ← he, rplItem_frame]; rfl
  have hvector : vectorAt b m v = vectorAt s.dev m v := by rw [vectorAt, hrec]; rfl
  have hent := entered_of_ok hvec (f := ⟨v, 0, 0, 0, c.pc⟩) (isFault := false) (s := s) haside (isCore_lt (isCore_of_live hlive))
    (by rw [hrec, hcore]; rfl) (by rw [← he]; exact (entryOk_rplItem ..).trans hok) (by rw [hvector]; exact vectorBad_congr hword hr hbad)
    (fun hf => absurd hf Bool.false_ne_true)
  rw [hrec, ← hall] at hent
  exact hent

/-! ### ERET -/

theorem bwdepth_setStk (c : Core) (n : Nat) : (c.setStk n).bwdepth = c.bwdepth := by unfold Core.setStk; split <;> rfl

/-- A core's record after ERET, but for the PC. -/
def Core.leftFrame (c : Core) (sp : Nat) (w : Word) : Core :=
  { c.setStk sp with bwdepth := (c.setStk sp).bwdepth - 1, sw := w &&& 0xFF, resv := none }

/-- Settles O11: the frame's checks pass, and its SW and PC are those in force. -/
theorem coreEretRestores : Obligations.CoreEretRestores := by
  intro s x h m c p w hpl hlim hlt hread hpl3 hdown
  have hread' : ∀ i < 4, readable x.core (if c.bwdepth = 0 then c.pl else 0) (c.stk + i) s.dev = true := fun i hi =>
    List.all_eq_true.1 hread i (by simp; omega)
  have hrights : (if c.bwdepth ≠ 0 then 0 else c.pl) = if c.bwdepth = 0 then c.pl else 0 := ite_not ..
  have hwrap : ∀ i < 4, wrap36 (c.stk + i) = c.stk + i := fun i hi => wrap36_of_lt (by change c.stk + 4 ≤ 2 ^ 36 at hlt; omega)
  have hmem : ¬ (List.range 4).any (fun i => deviceSpace x.core (wrap36 (c.stk + i))) = true := by
    rw [Bool.not_eq_true, List.any_eq_false]
    intro i hi
    rw [hwrap i (List.mem_range.1 hi), ((readable_iff ..).1 (hread' i (List.mem_range.1 hi))).1]
    exact Bool.false_ne_true
  have hpops : popsFault x (if c.bwdepth = 0 then c.pl else 0) c.stk c.lim 4 (notBlock x.core s.dev) = none := popsFault_of_granted hlim hlt hread'
  have heret : ∃ t, exec (.eret x) s = .next t ∧
      Ran x.core ((c.leftFrame (wrap36 (c.stk + 4)) w).retired (coreWord s.dev x.core (c.stk + 3)).toNat) s t := by
    refine goTo_ran (g := fun k => k.leftFrame (wrap36 (c.stk + 4)) w) (codes := []) h (fun k => setStk_run ..)
      (fun k => by simp only [Core.leftFrame, setStk_inBlock]) ?_
    dsimp only
    rw [coreGet_notBlock_same, stk_notBlock, pl_notBlock, lim_notBlock, if_neg hpl, if_neg hmem, hrights, hpops]
    dsimp only
    rw [integrity_ready h, coreWord_notBlock, hwrap 2 (by decide), hwrap 3 (by decide)]
    dsimp only
    rw [if_neg (not_or.2 ⟨hpl3, Nat.not_lt.2 hdown⟩), integrity_ready h, coreWord_notBlock]
    rfl
  rwa [Core.leftFrame, bwdepth_setStk] at heret

/-! ### FEAT (Table 12.10) -/

/-- A pack of fields, as the sum of each at its place. -/
theorem pack_eq_sum (l : List (Nat × Nat)) : pack l = BitVec.ofNat 36 (l.map (fun e => 2 ^ e.1 * e.2)).sum := by
  have hfold : ∀ k, l.foldl (fun a f => a + (f.2 <<< f.1)) k = k + (l.map (fun e => 2 ^ e.1 * e.2)).sum := by
    induction l with
    | nil => simp
    | cons e l ih =>
      intro k
      rw [List.foldl_cons, ih, List.map_cons, List.sum_cons, Nat.shiftLeft_eq, Nat.mul_comm e.2, Nat.add_assoc]
  rw [pack, hfold, Nat.zero_add, wd]

theorem feat_ran {x : Issue} {s : State} (h : ready x s.dev = true) {rd n : Nat} (hd : rd < 32) (hn : n < 8) :
    ∃ t, exec (.feat x rd n) s = .next t ∧ Ran x.core ((coreGet s.dev x.core).setReg rd (featWord x.core n)).stepped s t := by
  refine stepped_ran (g := fun c => c.setReg rd (featWord x.core n)) (codes := []) h (fun c => setReg_run ..) (fun c => setReg_inBlock ..)
    (fun c => setReg_pc ..) ?_
  rw [if_pos ⟨regsOk_one hd, hn⟩]

/-- Settles O14: FEAT's word, field by field; nothing but the core's record and its PMU group changes. -/
theorem featReadsConstants : Obligations.FeatReadsConstants := by
  intro s x rd n h hd hn m kind at_ feat
  have hsel : ∀ a b c : Nat, (if isF m then c else if m = 1 then b else a) = kind a b c := fun a b c => by
    have hcore := isCore_of_live (ready_live h)
    simp only [isCore, isH, isF, Bool.or_eq_true, Bool.and_eq_true, decide_eq_true_eq] at hcore
    simp only [kind, isH, isF, Bool.and_eq_true, decide_eq_true_eq]
    split_ifs <;> omega
  have hword : featWord m n = BitVec.ofNat 36 (feat.getD n 0) := by
    simp only [feat, at_, featWord, hsel]
    interval_cases n <;> simp [pack_eq_sum, ← Nat.add_assoc]
  obtain ⟨t, ht, hr⟩ := feat_ran h hd hn
  rw [hword] at hr
  refine ⟨t, ht, hr, ?_⟩
  rw [hr.1]
  exact ⟨rfl, rfl⟩

end Sys2Proof.Machine

/-! MFSR, MTSR, barriers and WAITPASS (R302, R311, R313, R317, R324, Table 12.7). -/

namespace Sys2Proof.Machine

/-! ### Barriers and WAITPASS -/

/-- Device u is device d but for core m's record, which has become c. -/
def Changed (m : Nat) (c : Core) (d u : Dev) : Prop :=
  u = { d with cores := u.cores } ∧ coreGet u m = c ∧ ∀ n, n ≠ m → coreGet u n = coreGet d n

theorem changed_onCore (m : Nat) (d : Dev) (g : Core → Core) : Changed m (g (coreGet d m)) d (onCore d m g) :=
  ⟨rfl, by rw [coreGet_onCore, if_pos rfl], fun n hn => by rw [coreGet_onCore, if_neg hn]⟩

theorem Changed.then {m : Nat} {c : Core} {d u : Dev} (h : Changed m c d u) (g : Core → Core) : Changed m (g c) d (onCore u m g) := by
  obtain ⟨hd, hself, hn⟩ := h
  exact ⟨by rw [onCore_frame, hd], by rw [coreGet_onCore, if_pos rfl, hself], fun n h => by rw [coreGet_onCore, if_neg h, hn n h]⟩

theorem Changed.ran {m : Nat} {c : Core} {s : State} {u : Dev} (h : Changed m c s.dev u) : Ran m c s { s with dev := u } := by
  obtain ⟨hd, hself, hn⟩ := h
  refine ⟨?_, hself, hn, fun a _ => ?_⟩
  · rw [hd]
  · rw [hd]; rfl

/-- An instruction that does not retire now and whose body changes its core's record alone. -/
theorem unretired_ran {atEnd : Bool} {x : Issue} {f : Dev → Res} {c : Core} {codes : List Nat} {u : Dev} {s : State} (h : ready x s.dev = true)
    (hf : f s.dev = .ok (u, codes)) (hu : Changed x.core c s.dev u) :
    ∃ t, onDev (issueWith atEnd false x f) s = .next t ∧ Ran x.core { c with stepOne := false } s t := by
  refine ⟨_, rfl, ?_⟩
  rw [issueWith_ready _ _ _ _ _ h, hf]
  exact (hu.then fun c => { c with stepOne := false }).ran

section System
variable {x : Issue} {s : State} (h : ready x s.dev = true)
include h

theorem fence_ran {fn : Nat} (hfn : fn < 2) : ∃ t, exec (.fence x fn) s = .next t ∧ Ran x.core (coreGet s.dev x.core).stepped s t :=
  stepped_ran (g := id) (codes := []) h (fun _ => rfl) (fun _ => rfl) (fun _ => rfl) (if_pos hfn)

theorem mpusync_ran (hpl : (coreGet s.dev x.core).pl ≠ 2) : ∃ t, exec (.mpusync x) s = .next t ∧ Ran x.core (coreGet s.dev x.core).stepped s t := by
  refine stepped_ran (g := id) (codes := []) h (fun _ => rfl) (fun _ => rfl) (fun _ => rfl) ?_
  rw [coreGet_notBlock_same, pl_notBlock, if_neg hpl]

theorem waitpass_ran {rd : Nat} (hd : rd < 32) : ∃ t, exec (.waitpass x rd) s = .next t ∧
    Ran x.core { coreGet s.dev x.core with pc := wrap36 ((coreGet s.dev x.core).pc + 1), waiting := some rd, resv := none, inBlock := false, stepOne := false }
      s t := by
  refine unretired_ran (codes := []) h ?_
    ((changed_onCore x.core s.dev fun c => { c with inBlock := false }).then fun c => Core.next { c with waiting := some rd, resv := none })
  have hreplayed : ¬ replayed (notBlock x.core s.dev) x.core = true := by rw [replayed_notBlock, ready_replayed h]; exact Bool.false_ne_true
  dsimp only
  rw [if_neg (not_not.2 (regsOk_one hd)), if_neg (fun hc => hreplayed hc.1), finishWith_of_run]
  · rfl
  · rw [coreGet_notBlock_same]
    exact ready_run h

/-! ### System registers read -/

theorem mfsr_ran {rd sr : Nat} (hd : rd < 32) (hsr : sr ≤ 13)
    (hmay : ((coreGet s.dev x.core).pl = 0 ∨ sr ∈ [0, 7] ∨ (coreGet s.dev x.core).pl = 1 ∧ sr ∈ [2, 3, 5, 6]) ∨ (coreGet s.dev x.core).pl = 1 ∧ sr ∈ [8, 12, 13]) :
    ∃ t, exec (.mfsr x rd sr) s = .next t ∧ Ran x.core ((coreGet s.dev x.core).setReg rd (sysValue (coreGet s.dev x.core) sr)).stepped s t := by
  refine stepped_ran (g := fun c => c.setReg rd (sysValue c sr)) (codes := []) h (fun c => setReg_run ..) (fun c => setReg_inBlock c rd _ _)
    (fun c => setReg_pc ..) ?_
  have hreg : sysReg sr = true := by simp [sysReg, hsr]
  have hread : ∀ u, sysReadable (coreGet s.dev x.core).pl u sr = true := fun u => by
    simp only [List.mem_cons, List.not_mem_nil, or_false] at hmay
    unfold sysReadable
    split_ifs <;> simp <;> omega
  dsimp only
  rw [coreGet_notBlock_same, if_neg (not_not.2 ⟨regsOk_one hd, hreg⟩), pl_notBlock, hread, if_neg (not_not.2 rfl), if_pos (by omega)]

/-- Devices with the same memory, and the same record of core m but for the cycle counter's latch. -/
def SameRun (m : Nat) (d b : Dev) : Prop := b.mem = d.mem ∧ b.fmem = d.fmem ∧ ∃ k, coreGet b m = { coreGet d m with cycHi := k }

omit h

theorem sameRun_cycRead (m sr : Nat) (d : Dev) : SameRun m d (cycRead m sr d).2 := by
  have hself : ∀ u, { coreGet d m with cycHi := u } = { coreGet d m with cycHi := u } := fun _ => rfl
  unfold cycRead
  split
  · exact ⟨rfl, rfl, _, by rw [coreGet_onCore, if_pos rfl]; rfl⟩
  · split
    · exact ⟨rfl, rfl, _, by rw [coreGet_onCore, if_pos rfl]⟩
    · exact ⟨rfl, rfl, (coreGet d m).cycHi, rfl⟩

/-- A read of the cycle counter by a core that is not replayed gives the value read, recorded and noted for replay. -/
theorem cycInput_eq {m sr : Nat} {d : Dev} (hr : replayed d m = false) : ∃ w b, cycInput m sr d = (some w, b) ∧ SameRun m d b := by
  obtain ⟨hmem, hfmem, k, hcore⟩ := sameRun_cycRead m sr d
  refine ⟨(cycRead m sr d).1, _, by rw [cycInput, if_neg (by rw [hr]; exact Bool.false_ne_true)], ?_⟩
  rw [rplItem_frame]
  exact ⟨hmem, hfmem, k, hcore⟩

include h

theorem mfsr_cycle {rd sr : Nat} (hd : rd < 32) (hsr : sr = 16 ∨ sr = 17) (hpl : (coreGet s.dev x.core).pl ≠ 2) :
    ∃ t w, exec (.mfsr x rd sr) s = .next t ∧ (coreGet t.dev x.core).reg rd = (if rd = 0 then 0 else w) ∧
      (coreGet t.dev x.core).pc = wrap36 ((coreGet s.dev x.core).pc + 1) ∧ t.dev.mem = s.dev.mem ∧ t.dev.fmem = s.dev.fmem := by
  obtain ⟨w, b, hb, hmem, hfmem, k, hcore⟩ := cycInput_eq (sr := sr) (d := notBlock x.core s.dev) (m := x.core)
    ((replayed_notBlock ..).trans (ready_replayed h))
  have hread : ∀ u, sysReadable (coreGet s.dev x.core).pl u sr = true := fun u => by
    unfold sysReadable
    split_ifs <;> simp <;> omega
  have hrun : (coreGet b x.core).run = true := by rw [hcore, coreGet_notBlock_same]; exact ready_run h
  refine ⟨_, w, rfl, ?_⟩
  rw [issue_ready _ _ _ h]
  dsimp only
  rw [coreGet_notBlock_same, if_neg (not_not.2 ⟨regsOk_one hd, by rcases hsr with rfl | rfl <;> rfl⟩), pl_notBlock, hread,
    if_neg (not_not.2 rfl), if_neg (by omega), hb]
  dsimp only
  rw [finishWith_of_run _ _ _ _ hrun]
  obtain ⟨hframe, hself, -, -⟩ := ran_retire x.core (coreGet s.dev x.core).pl [] { s with dev := b } (onCore b x.core fun c => Core.next (c.setReg rd w)) _ rfl
    rfl (by rw [coreGet_onCore, if_pos rfl]; exact (setReg_run ..).trans hrun) (fun n hn => by rw [coreGet_onCore, if_neg hn])
  have hpc : (coreGet b x.core).pc = (coreGet s.dev x.core).pc := by rw [hcore, coreGet_notBlock_same]
  have hdev := congrArg State.dev hframe
  refine ⟨?_, ?_, (congrArg Dev.mem hdev :).trans hmem, (congrArg Dev.fmem hdev :).trans hfmem⟩
  · rw [hself, coreGet_onCore, if_pos rfl]
    refine (reg_setReg ..).trans ?_
    rw [if_pos rfl]
  · rw [hself, coreGet_onCore, if_pos rfl, ← hpc]
    exact congrArg (fun k => wrap36 (k + 1)) (setReg_pc ..)

/-! ### System registers written -/

omit h

theorem sysSet_goes (sr : Nat) (v : Word) (c : Core) : (sysSet sr v c).run = c.run ∧ (sysSet sr v c).pc = c.pc := by
  unfold sysSet
  split
  · exact ⟨rfl, rfl⟩
  · split
    · exact ⟨rfl, rfl⟩
    · split
      · exact ⟨setStk_run .., setStk_pc ..⟩
      · exact ⟨rfl, rfl⟩
      · split <;> exact ⟨rfl, rfl⟩
      all_goals exact ⟨rfl, rfl⟩

theorem sysSet_inBlock (sr : Nat) (v : Word) (c : Core) (b : Bool) : sysSet sr v { c with inBlock := b } = { sysSet sr v c with inBlock := b } := by
  unfold sysSet
  split
  · rfl
  · split
    · rfl
    · split
      · exact setStk_inBlock ..
      · rfl
      · split <;> rfl
      all_goals rfl

include h

theorem mtsr_ran {sr ra : Nat} (ha : ra < 32) (hsr : sr ≤ 13) (h0 : sr ≠ 0) (hmay : sysWritable (coreGet s.dev x.core).pl sr = true) :
    ∃ t, exec (.mtsr x sr ra) s = .next t ∧ Ran x.core (sysSet sr ((coreGet s.dev x.core).reg ra) (coreGet s.dev x.core)).stepped s t := by
  refine stepped_ran (codes := []) h (fun c => (sysSet_goes _ _ c).1) (fun c => sysSet_inBlock _ _ c _) (fun c => (sysSet_goes _ _ c).2) ?_
  have hreg : sysReg sr = true := by simp [sysReg, hsr]
  dsimp only
  rw [coreGet_notBlock_same, if_neg (not_not.2 ⟨regsOk_one ha, hreg⟩), pl_notBlock, hmay, if_neg (not_not.2 rfl), if_neg h0]
  rfl

end System

theorem setFld_low_six (v : Word) : setFld v 5 0 0 = v &&& ~~~63 := by
  apply BitVec.eq_of_getLsbD_eq
  intro i hi
  have hmask : ∀ k < 36, (63 : Word).getLsbD k = decide (k < 6) := by decide
  rw [getLsbD_setFld _ _ (by decide) (by decide), BitVec.getLsbD_and, BitVec.getLsbD_not, hmask i hi]
  by_cases hk : i < 6
  · rw [if_pos (by omega)]; simp [hk]
  · rw [if_neg (by omega)]; simp [hk, hi]

/-- Settles O12: each instruction's law at the levels that permit it. -/
theorem coreSystemInstructions : Obligations.CoreSystemInstructions := by
  intro s x rd ra n sr fn h hd ha hn hfn m c v value may
  have hset : ∀ k, 1 ≤ k → k ≤ 13 → sysWritable c.pl k = true → ∃ t, exec (.mtsr x k ra) s = .next t ∧ Ran m (sysSet k v c).stepped s t :=
    fun k h1 h13 hk => mtsr_ran h ha h13 (by omega) hk
  refine ⟨fence_ran h hfn, fun hpl => mpusync_ran h hpl, waitpass_ran h hd, feat_ran h hd hn, fun hsr hmay => ?mfsr, fun hsr hpl => mfsr_cycle h hd hsr hpl,
    fun h1 h3 hmay => ?sp, fun h4 h6 hmay => ?sl, hset 7 (by decide) (by decide) rfl, fun hpl => ?vbase, fun hpl => ?bwbase, fun hpl => ?spb, fun hpl => ?slb,
    fun h12 h13 => ?readonly⟩
  case mfsr =>
    have hvalue : sysValue c sr = value := by
      simp only [value, sysValue, List.getD]
      interval_cases sr <;> rfl
    have hread := mfsr_ran h hd hsr hmay
    rwa [hvalue] at hread
  case sp =>
    have hk : sysWritable c.pl sr = true := by
      simp only [may, List.mem_cons, List.not_mem_nil, or_false] at hmay
      unfold sysWritable
      split_ifs <;> simp <;> omega
    have hval : sysSet sr v c = { c with sp := tabSet 0 c.sp (sr - 1) v } := if_pos h3
    rw [← hval]
    exact hset sr (by omega) (by omega) hk
  case sl =>
    have hk : sysWritable c.pl sr = true := by
      simp only [may, List.mem_cons, List.not_mem_nil, or_false] at hmay
      unfold sysWritable
      split_ifs <;> simp <;> omega
    have hval : sysSet sr v c = { c with sl := tabSet 0 c.sl (sr - 4) v } := by
      unfold sysSet; rw [if_neg (by omega), if_pos h6]
    rw [← hval]
    exact hset sr (by omega) (by omega) hk
  case vbase => rw [← setFld_low_six]; exact hset 8 (by decide) (by decide) (by rw [hpl]; rfl)
  case bwbase => exact hset 9 (by decide) (by decide) (by rw [hpl]; rfl)
  case spb => exact hset 10 (by decide) (by decide) (by rw [hpl]; rfl)
  case slb => exact hset 11 (by decide) (by decide) (by rw [hpl]; rfl)
  case readonly =>
    have hk : sysWritable c.pl sr = true := by rw [sysWritable, if_pos (.inr (.inr h12))]
    have hval : sysSet sr v c = c := by
      rcases (show sr = 12 ∨ sr = 13 by omega) with rfl | rfl <;> rfl
    have hwrite := hset sr (by omega) h13 hk
    rwa [hval] at hwrite

/-! ### SW written (R302) -/

theorem getLsbD_keep (w v mask : Word) {i : Nat} (hi : i < 36) :
    ((w &&& ~~~mask) ||| (v &&& mask)).getLsbD i = if mask.getLsbD i then v.getLsbD i else w.getLsbD i := by
  rw [BitVec.getLsbD_or, BitVec.getLsbD_and, BitVec.getLsbD_and, BitVec.getLsbD_not, decide_eq_true hi]
  cases mask.getLsbD i <;> simp

/-- The four flags taken from a word. -/
theorem setFld_flags (w v : Word) : setFld w 7 4 (fld v 7 4) = (w &&& ~~~0xF0) ||| (v &&& 0xF0) := by
  have hmask : ∀ k < 36, (0xF0 : Word).getLsbD k = decide (4 ≤ k ∧ k ≤ 7) := by decide
  apply BitVec.eq_of_getLsbD_eq
  intro i hi
  rw [getLsbD_setFld _ _ (by decide) (by decide), getLsbD_keep _ _ _ hi, hmask i hi, testBit_fld]
  by_cases hk : 4 ≤ i ∧ i ≤ 7
  · rw [if_pos hk, if_pos (decide_eq_true hk), decide_eq_true (by omega), Bool.true_and, Nat.add_sub_cancel' hk.1]
  · rw [if_neg hk, if_neg (by simpa using hk)]

/-- PL, STILL and the four flags taken from a word. -/
theorem setFld_status (w v : Word) :
    setFld (setFld (setFld w 7 4 (fld v 7 4)) 1 0 (fld v 1 0)) 2 2 (fld v 2 2) = (w &&& ~~~0xF7) ||| (v &&& 0xF7) := by
  have hmask : ∀ k < 36, (0xF7 : Word).getLsbD k = decide (k ≤ 1 ∨ k = 2 ∨ 4 ≤ k ∧ k ≤ 7) := by decide
  apply BitVec.eq_of_getLsbD_eq
  intro i hi
  simp only [getLsbD_setFld _ _ (show 2 ≤ 2 + 1 by decide) (show 2 < 36 by decide), getLsbD_setFld _ _ (show 0 ≤ 1 + 1 by decide) (show 1 < 36 by decide),
    getLsbD_setFld _ _ (show 4 ≤ 7 + 1 by decide) (show 7 < 36 by decide), getLsbD_keep _ _ _ hi, hmask i hi, testBit_fld]
  by_cases h2 : i = 2
  · subst h2; simp
  · by_cases h1 : i ≤ 1
    · rw [if_neg (by omega), if_pos ⟨Nat.zero_le _, h1⟩, if_pos (decide_eq_true (.inl h1)), decide_eq_true (by omega)]; simp
    · by_cases h7 : 4 ≤ i ∧ i ≤ 7
      · rw [if_neg (by omega), if_neg (by omega), if_pos h7, if_pos (decide_eq_true (.inr (.inr h7))), decide_eq_true (by omega), Bool.true_and,
          Nat.add_sub_cancel' h7.1]
      · rw [if_neg (by omega), if_neg (by omega), if_neg h7, if_neg (by simp; omega)]

theorem fld_keep_status (w v : Word) : fld ((w &&& ~~~0xF7) ||| (v &&& 0xF7)) 1 0 = fld v 1 0 := by
  apply Nat.eq_of_testBit_eq
  intro i
  rw [testBit_fld, testBit_fld]
  by_cases hi : i < 2
  · rw [getLsbD_keep _ _ _ (by omega)]
    rcases (show i = 0 ∨ i = 1 by omega) with rfl | rfl <;> rfl
  · rw [decide_eq_false (by omega)]; rfl

/-! What SW takes at each level. -/

theorem swWrite_p0 {sw : Word} (v : Word) (h : fld sw 1 0 = 0) :
    swWrite sw v = if fld v 1 0 = 3 then .error 0 else .ok ((sw &&& ~~~0xF7) ||| (v &&& 0xF7)) := by
  simp only [swWrite, h, setFld_status]

theorem swWrite_p1 {sw : Word} (v : Word) (h : fld sw 1 0 = 1) :
    swWrite sw v = if fld v 1 0 = 3 then .error 0 else if fld v 1 0 = 0 then .error 1 else .ok ((sw &&& ~~~0xF7) ||| (v &&& 0xF7)) := by
  simp only [swWrite, h, setFld_status]

theorem swWrite_p2 {sw : Word} (v : Word) (h : fld sw 1 0 = 2) :
    swWrite sw v = if fld v 2 0 ≠ fld sw 2 0 then .error 1 else .ok ((sw &&& ~~~0xF0) ||| (v &&& 0xF0)) := by
  simp only [swWrite, h, setFld_flags]

theorem sysWritable_sw (pl : Nat) : sysWritable pl 0 = true := rfl

section StatusWord
variable {x : Issue} {s : State} (h : ready x s.dev = true) {ra : Nat} (ha : ra < 32)
include h ha

/-- A word that SW can take is written. -/
theorem mtsr_sw_ran {w : Word} (hw : swWrite (coreGet s.dev x.core).sw ((coreGet s.dev x.core).reg ra) = .ok w) :
    ∃ t, exec (.mtsr x 0 ra) s = .next t ∧ Ran x.core { coreGet s.dev x.core with sw := w }.stepped s t := by
  refine stepped_ran (g := fun c => { c with sw := w }) (codes := []) h (fun _ => rfl) (fun _ => rfl) (fun _ => rfl) ?_
  dsimp only
  rw [coreGet_notBlock_same, if_neg (not_not.2 ⟨regsOk_one ha, rfl⟩), sysWritable_sw, if_neg (not_not.2 rfl), if_pos rfl]
  dsimp only
  rw [reg_notBlock, hw]

/-- The level written selects the stack in force outside the bywash. -/
theorem mtsr_status_ran (hw : swWrite (coreGet s.dev x.core).sw ((coreGet s.dev x.core).reg ra) =
      .ok (((coreGet s.dev x.core).sw &&& ~~~0xF7) ||| ((coreGet s.dev x.core).reg ra &&& 0xF7))) :
    let c := coreGet s.dev x.core
    let v := c.reg ra
    ∃ t, exec (.mtsr x 0 ra) s = .next t ∧ Ran x.core { c with sw := (c.sw &&& ~~~0xF7) ||| (v &&& 0xF7) }.stepped s t ∧
      (c.bwdepth = 0 → (coreGet t.dev x.core).stk = (tabGet 0 c.sp (fld v 1 0)).toNat ∧ (coreGet t.dev x.core).lim = (tabGet 0 c.sl (fld v 1 0)).toNat) := by
  intro c v
  obtain ⟨t, ht, hr⟩ := mtsr_sw_ran h ha hw
  refine ⟨t, ht, hr, fun hdepth => ?_⟩
  rw [hr.2.1, ← fld_keep_status c.sw v]
  exact ⟨if_neg (not_not.2 hdepth), if_neg (not_not.2 hdepth)⟩

/-- A word that SW cannot take is a fault. -/
theorem mtsr_sw_faults {vec : Nat} (hw : swWrite (coreGet s.dev x.core).sw ((coreGet s.dev x.core).reg ra) = .error vec) (hvec : vec ≠ 5)
    (hstill : (coreGet s.dev x.core).still = false) (hok : entryOk x.core vec s.dev = true) :
    ∃ t, exec (.mtsr x 0 ra) s = .next t ∧ Entered x.core vec { coreGet s.dev x.core with stepOne := false } 0 0 (coreGet s.dev x.core).pc
      (coreGet s.dev x.core).pc (coreGet s.dev x.core).sw s t := by
  refine plainFault_entered (r := ⟨vec, 0, 0, (coreGet s.dev x.core).pc, (coreGet s.dev x.core).pc⟩) h ?_ hvec hstill hok
  dsimp only
  rw [coreGet_notBlock_same, if_neg (not_not.2 ⟨regsOk_one ha, rfl⟩), sysWritable_sw, if_neg (not_not.2 rfl), if_pos rfl]
  dsimp only
  rw [reg_notBlock, hw]
  rfl

end StatusWord

/-- Settles O13: what SW takes at each level, and the fault where it takes nothing. -/
theorem coreStatusWordWrite : Obligations.CoreStatusWordWrite := by
  intro s x ra h ha m c v keep faults
  refine ⟨fun hpl hv => mtsr_status_ran h ha ?_, fun hpl hv => mtsr_sw_faults h ha ?_ (by decide), fun hpl hv => mtsr_status_ran h ha ?_,
    fun hpl hv => mtsr_sw_faults h ha ?_ (by decide), fun hpl hv => mtsr_sw_ran h ha ?_, fun hpl hv => mtsr_sw_faults h ha ?_ (by decide)⟩
  · rw [swWrite_p0 _ hpl, if_neg hv]
  · rw [swWrite_p0 _ hpl, if_pos hv]
  · rw [swWrite_p1 _ hpl, if_neg (by change fld v 1 0 ≠ 3; omega), if_neg (by change fld v 1 0 ≠ 0; omega)]
  · rw [swWrite_p1 _ hpl, if_neg (by change fld v 1 0 ≠ 3; omega), if_pos hv]
  · rw [swWrite_p2 _ hpl, if_neg (not_not.2 hv)]
  · rw [swWrite_p2 _ hpl, if_pos hv]

end Sys2Proof.Machine

/-! The bywash and core stop (R335, R336, R338), and the block instructions (R315, R316). -/

namespace Sys2Proof.Machine

/-! ### Bywash entry -/

/-- A field above every bit set is added. -/
theorem setFld_above {w : Word} {hi lo : Nat} {v : Nat} (hw : w.toNat < 2 ^ lo) (hv : v < 2 ^ (hi + 1 - lo)) : setFld w hi lo v = w + wd (v * 2 ^ lo) := by
  have hfld : fld w hi lo = 0 := by
    rw [fld, nfld, Nat.shiftRight_eq_div_pow, Nat.div_eq_of_lt hw, Nat.zero_mod]
  rw [setFld, hfld, Nat.zero_shiftLeft, Nat.sub_zero, Nat.mod_eq_of_lt hv, Nat.shiftLeft_eq, wd, wd, BitVec.ofNat_add, BitVec.ofNat_toNat, BitVec.setWidth_eq]

/-- FCAUSE of a bywash entry for an event without ACCESS and DETAIL. -/
theorem fcauseLive_bywash {v pl reason depth : Nat} (hv : v < 64) (hpl : pl < 4) (hreason : reason < 64) (hdepth : depth < 16) :
    fcauseLive (fcauseWord v pl 0 0 true reason) depth = entryCause v pl 0 0 + BitVec.ofNat 36 (2 ^ 13 + 2 ^ 14 * reason + 2 ^ 20 * depth) := by
  have hsum : fcauseWord v pl 0 0 true reason = BitVec.ofNat 36 (v + 64 * pl + 8192 + 16384 * reason) := by
    rw [fcauseWord, pack_eq_sum]
    congr 1
    simp [b2n]; ring
  have hlt : (fcauseWord v pl 0 0 true reason).toNat < 2 ^ 20 := by
    rw [hsum, BitVec.toNat_ofNat, Nat.mod_eq_of_lt (by omega)]; omega
  rw [fcauseLive, setFld_above hlt hdepth, hsum, entryCause, wd, ← BitVec.ofNat_add, ← BitVec.ofNat_add]
  congr 1; ring

/-- What a bywash entry makes of a core's record. -/
def Core.washed (c : Core) (cause : Word) (addr : Nat) (k : Core) : Core :=
  { k with spb := wd (c.spb.toNat - 4), bwdepth := c.bwdepth + 1, fcause := cause, faddr := wd addr, sw := swHandler c 0, inBlock := false, resv := none, pc := c.bwbase.toNat }

/-- A bywash entry whose frame passes every check stores it and goes on at BWBASE. -/
theorem bywash_of_checks {vec : EntryWcc} (hvec : vec.frame = none) {m : Nat} (f : CoreFault) (reason : Nat) {b : Dev}
    (hfixed : (coreGet b m).bwFixed = true) (hdepth : (coreGet b m).bwdepth < 15) (hsp : 4 ≤ (coreGet b m).spb.toNat)
    (hlim : (coreGet b m).slb.toNat ≤ (coreGet b m).spb.toNat - 4)
    (hwrite : [1, 2, 3, 4].all (fun k => writable m 0 ((coreGet b m).spb.toNat - k) b) = true) :
    let c := coreGet b m
    let cause := fcauseLive (fcauseWord f.vec c.pl f.access f.detail true reason) (c.bwdepth + 1)
    bywash vec m f reason b =
      onCore (coreWritesDown m (c.spb.toNat - 4) [wd f.addr, cause, swAt c, wd f.resume] b) m (c.washed cause f.addr) := by
  intro c cause
  have hframe := checkFrame_of_granted (BitVec.isLt _) hsp hlim hwrite
  have hmin : min 15 ((coreGet b m).bwdepth + 1) = c.bwdepth + 1 := Nat.min_eq_right (by omega)
  rw [← writeFrame_eq hvec hsp]
  simp only [bywash, if_neg (not_not.2 hfixed), if_neg (show (coreGet b m).bwdepth ≠ 15 by omega), hframe, hmin]
  rfl

/-- A core without a bywash of its own, or at its full depth, stops instead. -/
theorem bywash_stops {vec : EntryWcc} {m : Nat} (f : CoreFault) (reason : Nat) {b : Dev} :
    ((coreGet b m).bwFixed = false → ∃ w, bywash vec m f reason b = coreStop m 3 w f.addr f.resume b) ∧
    ((coreGet b m).bwFixed = true → (coreGet b m).bwdepth = 15 → ∃ w, bywash vec m f reason b = coreStop m 2 w f.addr f.resume b) := by
  refine ⟨fun hfixed => ?_, fun hfixed hdepth => ?_⟩
  · simp only [bywash, hfixed, Bool.false_eq_true, not_false_eq_true, if_true]
    exact ⟨_, rfl⟩
  · simp only [bywash, if_neg (not_not.2 hfixed), if_pos hdepth]
    exact ⟨_, rfl⟩

/-- A stopped core other than K: its stop record goes out as a message or as a barge. -/
theorem coreStop_stopped {m : Nat} (hcore : isCore m = true) (hk : m ≠ 1) {d : Dev} (hr : replayed d m = false) (reason : Nat) (w : Word) (addr resume : Nat) :
    let t := coreStop m reason w addr resume d
    (coreGet t m).stopped = reason ∧ t.mem = d.mem ∧ t.fmem = d.fmem := by
  have hr' : replayed (onCore d m (fun c => { c with stopped := reason })) m = false := hr
  have hself : (coreGet (onCore d m (fun c => { c with stopped := reason })) m).stopped = reason := by rw [coreGet_onCore, if_pos rfl]
  simp only [isCore, decide_eq_false hk, Bool.false_or, Bool.or_eq_true] at hcore
  simp only [coreStop, hr', Bool.false_eq_true, if_false]
  by_cases hh : isH m = true
  · rw [if_pos hh, mbxPut_frame]
    exact ⟨hself, rfl, rfl⟩
  · rw [if_neg hh, if_pos (hcore.resolve_left hh)]
    exact ⟨hself, rfl, rfl⟩

/-- Settles O17: TRAP's fault goes to the bywash, which takes its frame or stops the core. -/
theorem coreBywashAndStop : Obligations.CoreBywashAndStop := by
  intro s x fn h hfn m c hdeep
  have hlt : m < 0x100 := isCore_lt (isCore_of_live (ready_live h))
  have haside : ∀ pl codes, Aside m s.dev (pmuEvents m pl codes (onCore (notBlock m s.dev) m (fun c => { c with stepOne := false }))) := fun pl codes =>
    ((aside_notBlock m s.dev).trans (aside_onCore m _ _)).trans (aside_pmuEvents m pl codes _)
  have hrec : ∀ pl codes, coreGet (pmuEvents m pl codes (onCore (notBlock m s.dev) m (fun c => { c with stepOne := false }))) m =
      { c with inBlock := false, stepOne := false } := fun pl codes => by
    rw [coreGet_pmuEvents, coreGet_onCore, if_pos rfl, coreGet_notBlock_same]
  have htrap : ∃ b, Aside m s.dev b ∧ coreGet b m = { c with inBlock := false, stepOne := false } ∧
      exec (.trap x fn) s = .next { s with dev := bywash {} m ⟨32 + fn, 0, 0, fn, wrap36 (c.pc + 1)⟩ 3 b } := by
    refine ⟨_, haside c.pl [0x0F], hrec _ _, ?_⟩
    have hpl : (coreGet (onCore (notBlock m s.dev) m (fun c => { c with stepOne := false })) m).pl = c.pl := by
      rw [coreGet_onCore, if_pos rfl, coreGet_notBlock_same]; rfl
    refine exec_eq_next rfl ?_
    rw [issue_ready _ _ _ h]
    dsimp only
    rw [if_neg (by omega), if_pos hfn]
    dsimp only
    rw [raiseFault, if_neg (by simp; omega), hpl, enter, hrec, if_pos, coreGet_notBlock_same]
    exact hdeep.symm.imp id (fun hs => ⟨rfl, hs⟩)
  obtain ⟨b, hb, hcore, hexec⟩ := htrap
  have hreplayed : replayed b m = false := (hb.replayed_eq hlt m).trans (ready_replayed h)
  obtain ⟨hstop3, hstop2⟩ := bywash_stops (vec := {}) (m := m) ⟨32 + fn, 0, 0, fn, wrap36 (c.pc + 1)⟩ 3 (b := b)
  refine ⟨fun hfixed hdepth hsp hlim hwrite => ⟨_, hexec, ?_⟩, fun hk hfixed => ?_, fun hk hfixed hdepth => ?_⟩
  · rw [bywash_of_checks (vec := {}) rfl _ 3 (by rw [hcore]; exact hfixed) (by rw [hcore]; exact hdepth) (by rw [hcore]; exact hsp) (by rw [hcore]; exact hlim)
      (by simpa only [hb.writable_eq hlt hlt, hcore] using hwrite), hcore]
    have hcause := fcauseLive_bywash (v := 32 + fn) (pl := c.pl) (reason := 3) (depth := c.bwdepth + 1) (by omega) (fld_lt _ 1 0) (by decide) (by omega)
    change InBywash m (32 + fn) 3 { c with stepOne := false } 0 0 fn (wrap36 (c.pc + 1)) c.sw s
      { s with
        dev := onCore
          (coreWritesDown m (c.spb.toNat - 4) [wd fn, fcauseLive (fcauseWord (32 + fn) c.pl 0 0 true 3) (c.bwdepth + 1), c.sw, wd (wrap36 (c.pc + 1))] b) m
          (Core.washed { c with inBlock := false, stepOne := false } (fcauseLive (fcauseWord (32 + fn) c.pl 0 0 true 3) (c.bwdepth + 1)) fn) }
    rw [hcause]
    have hstored := stored_frame (s := s) (a := c.spb.toNat - 4)
      (ws := [wd fn, entryCause (32 + fn) c.pl 0 0 + BitVec.ofNat 36 (2 ^ 13 + 2 ^ 14 * 3 + 2 ^ 20 * (c.bwdepth + 1)), c.sw, wd (wrap36 (c.pc + 1))])
      (Core.washed { c with inBlock := false, stepOne := false }
        (entryCause (32 + fn) c.pl 0 0 + BitVec.ofNat 36 (2 ^ 13 + 2 ^ 14 * 3 + 2 ^ 20 * (c.bwdepth + 1))) fn) hb
    rw [hcore, Core.washed, wd_sub_four hsp] at hstored
    exact hstored
  · obtain ⟨w, hw⟩ := hstop3 (by rw [hcore]; exact hfixed)
    rw [hw] at hexec
    obtain ⟨h1, h2, h3⟩ := coreStop_stopped (isCore_of_live (ready_live h)) hk hreplayed 3 w fn (wrap36 (c.pc + 1))
    exact ⟨_, hexec, h1, h2.trans hb.mem_eq, h3.trans hb.fmem_eq⟩
  · obtain ⟨w, hw⟩ := hstop2 (by rw [hcore]; exact hfixed) (by rw [hcore]; exact hdepth)
    rw [hw] at hexec
    obtain ⟨h1, h2, h3⟩ := coreStop_stopped (isCore_of_live (ready_live h)) hk hreplayed 2 w fn (wrap36 (c.pc + 1))
    exact ⟨_, hexec, h1, h2.trans hb.mem_eq, h3.trans hb.fmem_eq⟩

end Sys2Proof.Machine

/-! The block instructions (R315, R316): what one that ends, and one that stays under way, leaves; the iterations; a fill of many words. -/

namespace Sys2Proof.Machine

/-! ### A core's record changed beside what an instruction did -/

theorem Ran.aside {m : Nat} {c : Core} {s : State} {u v : Dev} (h : Ran m c s { s with dev := u }) (k : Aside m u v) :
    Ran m (coreGet v m) s { s with dev := v } := by
  obtain ⟨hs, -, hn, hregs⟩ := h
  obtain ⟨hv, hcores, hrest⟩ := k
  have hu : u = { s.dev with cores := u.cores, regs := u.regs } := congrArg State.dev hs
  refine ⟨?_, rfl, fun n hn' => (hcores n hn').trans (hn n hn'), fun a ha => (hrest a ha).trans (hregs a ha)⟩
  simp only [State.mk.injEq, and_true]
  refine hv.trans ?_
  rw [hu]

theorem Stored.aside {m a : Nat} {ws : List Word} {c : Core} {s : State} {u v : Dev} (h : Stored m c a ws s { s with dev := u }) (k : Aside m u v) :
    Stored m (coreGet v m) a ws s { s with dev := v } := by
  obtain ⟨hs, -, hn, hram, hmem, hregs⟩ := h
  obtain ⟨hv, hcores, hrest⟩ := id k
  have hu : u = { s.dev with cores := u.cores, regs := u.regs, mem := u.mem, fmem := u.fmem } := congrArg State.dev hs
  refine ⟨?_, rfl, fun n hn' => (hcores n hn').trans (hn n hn'), fun b => (k.ramWord_eq m b).trans (hram b), ?_, fun b hb => (hrest b hb).trans (hregs b hb)⟩
  · simp only [State.mk.injEq, and_true, k.mem_eq, k.fmem_eq]
    refine hv.trans ?_
    rw [hu]
  · simp only [k.mem_eq, k.fmem_eq]; exact hmem

theorem aside_retire {m : Nat} {u : Dev} (hrun : (coreGet u m).run = true) (pl : Nat) (codes : List Nat) :
    Aside m u (retire m pl codes u) ∧ coreGet (retire m pl codes u) m = { coreGet u m with progress := (coreGet u m).progress + 1, stepOne := false } := by
  rw [retire, if_neg (not_not.2 hrun)]
  obtain ⟨hframe, hregs⟩ := pmuOnly_retire m pl codes (onCore u m fun c => { c with progress := c.progress + 1, stepOne := false })
  have hget : ∀ n, coreGet (pmuRetire m pl codes (onCore u m fun c => { c with progress := c.progress + 1, stepOne := false })) n =
      coreGet (onCore u m fun c => { c with progress := c.progress + 1, stepOne := false }) n := fun n => by rw [hframe]; rfl
  exact ⟨(aside_onCore m u _).trans ⟨by rw [hframe], fun n _ => hget n, hregs⟩, by rw [hget, coreGet_onCore, if_pos rfl]⟩

/-! ### A block instruction issued -/

/-- A core's record when a block instruction has ended. -/
def Core.blockDone (c : Core) : Core :=
  { c with pc := wrap36 (c.pc + 1), sw := setBit c.sw 3 false, inBlock := false, stepOne := false, progress := c.progress + 1 }

/-- One iteration counted. -/
def Core.ticked (c : Core) : Core := { c with progress := c.progress + 1 }

section Block
variable {x : Issue} {rd ra rb iters : Nat} {fin : Bool → Dev → Dev} {f : Nat → Dev → Iter} {s : State} {u : Dev}

theorem issueBlock_ready {r : Bool} (h : ready x s.dev = true) (hfault : (blockRun x.core rb f (min iters 1) (min iters 1) s.dev).1 = none)
    (hbody : blockBody x rd ra rb iters fin f s.dev = .ok (r, u)) :
    issueBlock x rd ra rb iters fin f s.dev =
      if r then retire x.core (coreGet s.dev x.core).pl [] u else onCore u x.core (fun c => { c with stepOne := false }) := by
  have hnone : blockFault x rd ra rb iters f s.dev = none := by
    unfold blockFault
    split
    · split
      · rename_i heq; rw [heq] at hfault; cases hfault
      · rfl
    · rfl
  simp only [issueBlock, ready_word h, hnone, hbody, issueWith_ready _ _ _ _ _ h, Bool.false_eq_true, if_false]

/-- A block instruction that ends. -/
theorem block_ends (h : ready x s.dev = true) (hfault : (blockRun x.core rb f (min iters 1) (min iters 1) s.dev).1 = none)
    (hbody : blockBody x rd ra rb iters fin f s.dev = .ok (true, blockEnd x.core u)) (hrun : (coreGet u x.core).run = true) :
    ∃ v, onDev (issueBlock x rd ra rb iters fin f) s = .next { s with dev := v } ∧ Aside x.core u v ∧ coreGet v x.core = (coreGet u x.core).blockDone := by
  have hend : coreGet (blockEnd x.core u) x.core = { (coreGet u x.core).next with sw := setBit (coreGet u x.core).sw 3 false, inBlock := false } := by
    rw [blockEnd, coreGet_onCore, if_pos rfl]
  obtain ⟨haside, hcore⟩ := aside_retire (u := blockEnd x.core u) (m := x.core) (by rw [hend]; exact hrun) (coreGet s.dev x.core).pl []
  refine ⟨_, (onDev_eq _ s).trans (by rw [issueBlock_ready h hfault hbody, if_pos rfl]), (aside_onCore ..).trans haside, ?_⟩
  rw [hcore, hend]
  rfl

/-- A block instruction that stays under way. -/
theorem block_stays (h : ready x s.dev = true) (hfault : (blockRun x.core rb f (min iters 1) (min iters 1) s.dev).1 = none)
    (hbody : blockBody x rd ra rb iters fin f s.dev = .ok (false, onCore u x.core (fun c => { c with inBlock := true }))) :
    ∃ v, onDev (issueBlock x rd ra rb iters fin f) s = .next { s with dev := v } ∧ Aside x.core u v ∧
      coreGet v x.core = { coreGet u x.core with inBlock := true, stepOne := false } := by
  refine ⟨_, (onDev_eq _ s).trans (by rw [issueBlock_ready h hfault hbody, if_neg Bool.false_ne_true]), (aside_onCore x.core u _).trans (aside_onCore ..), ?_⟩
  rw [coreGet_onCore, if_pos rfl, coreGet_onCore, if_pos rfl]

theorem blockRun_done {m l n : Nat} {d : Dev} (h0 : (coreGet d m).reg rb = 0) : blockRun m rb f l n d = (none, false, d) := by
  cases n with
  | zero => rfl
  | succ n => rw [blockRun, if_pos (.inl h0)]

theorem blockRun_more {m l n : Nat} {d u : Dev} (h0 : (coreGet d m).reg rb ≠ 0) (hr : replayed d m = false) (hf : f (l - (n + 1)) d = .more u) :
    blockRun m rb f l (n + 1) d = blockRun m rb f l n (onCore u m Core.ticked) := by
  have hgoes : blockGoes m d = true := by rw [blockGoes, hr]; rfl
  rw [blockRun, if_neg (not_or.2 ⟨h0, not_not.2 hgoes⟩), hf]
  rfl

theorem blockRun_stop {m l n : Nat} {d u : Dev} (h0 : (coreGet d m).reg rb ≠ 0) (hr : replayed d m = false) (hf : f (l - (n + 1)) d = .stop u) :
    blockRun m rb f l (n + 1) d = (none, true, onCore u m Core.ticked) := by
  have hgoes : blockGoes m d = true := by rw [blockGoes, hr]; rfl
  rw [blockRun, if_neg (not_or.2 ⟨h0, not_not.2 hgoes⟩), hf]
  rfl

variable (h : ready x s.dev = true) (hok : blockOk rd ra rb = true)
include h hok

/-- No words: the instruction ends at once. -/
theorem block_none (h0 : (coreGet s.dev x.core).reg rb = 0) (hrun : (coreGet (fin false s.dev) x.core).run = true) :
    ∃ v, onDev (issueBlock x rd ra rb iters fin f) s = .next { s with dev := v } ∧ Aside x.core (fin false s.dev) v ∧
      coreGet v x.core = (coreGet (fin false s.dev) x.core).blockDone := by
  refine block_ends h (by rw [blockRun_done h0]) ?_ hrun
  simp only [blockBody, hok, not_true, if_false, blockRun_done h0, Bool.false_eq_true, h0, if_true, ne_eq, decide_false]

/-- One iteration, after which no words are left. -/
theorem block_last (h1 : (coreGet s.dev x.core).reg rb ≠ 0) (hf : f 0 s.dev = .more u) (h0 : (coreGet u x.core).reg rb = 0)
    (hrun : (coreGet (fin true (onCore u x.core Core.ticked)) x.core).run = true) :
    ∃ v, onDev (issueBlock x rd ra rb 1 fin f) s = .next { s with dev := v } ∧ Aside x.core (fin true (onCore u x.core Core.ticked)) v ∧
      coreGet v x.core = (coreGet (fin true (onCore u x.core Core.ticked)) x.core).blockDone := by
  have hone : blockRun x.core rb f 1 1 s.dev = (none, false, onCore u x.core Core.ticked) := blockRun_more h1 (ready_replayed h) hf
  have hleft : (coreGet (onCore u x.core Core.ticked) x.core).reg rb = 0 := by rw [coreGet_onCore, if_pos rfl]; exact h0
  refine block_ends h (by rw [Nat.min_self, hone]) ?_ hrun
  simp only [blockBody, hok, not_true, if_false, hone, Bool.false_eq_true, hleft, if_true, ne_eq, h1, not_false_eq_true, decide_true]

/-- One iteration, after which words are left. -/
theorem block_goes_on (h1 : (coreGet s.dev x.core).reg rb ≠ 0) (hf : f 0 s.dev = .more u) (h0 : (coreGet u x.core).reg rb ≠ 0) :
    ∃ v, onDev (issueBlock x rd ra rb 1 fin f) s = .next { s with dev := v } ∧ Aside x.core u v ∧
      coreGet v x.core = { (coreGet u x.core).ticked with inBlock := true, stepOne := false } := by
  have hone : blockRun x.core rb f 1 1 s.dev = (none, false, onCore u x.core Core.ticked) := blockRun_more h1 (ready_replayed h) hf
  have hleft : (coreGet (onCore u x.core Core.ticked) x.core).reg rb ≠ 0 := by rw [coreGet_onCore, if_pos rfl]; exact h0
  obtain ⟨v, hv, haside, hcore⟩ := block_stays (u := onCore u x.core Core.ticked) (fin := fin) (iters := 1) (rd := rd) (ra := ra) h
    (by rw [Nat.min_self, hone]) (by simp only [blockBody, hok, not_true, if_false, hone, Bool.false_eq_true, hleft])
  exact ⟨v, hv, (aside_onCore ..).trans haside, by rw [hcore, coreGet_onCore, if_pos rfl]⟩

/-- One iteration that ends the instruction. -/
theorem block_stop (h1 : (coreGet s.dev x.core).reg rb ≠ 0) (hf : f 0 s.dev = .stop u) (hrun : (coreGet u x.core).run = true) :
    ∃ v, onDev (issueBlock x rd ra rb 1 fin f) s = .next { s with dev := v } ∧ Aside x.core u v ∧
      coreGet v x.core = (coreGet u x.core).ticked.blockDone := by
  have hone : blockRun x.core rb f 1 1 s.dev = (none, true, onCore u x.core Core.ticked) := blockRun_stop h1 (ready_replayed h) hf
  obtain ⟨v, hv, haside, hcore⟩ := block_ends (u := onCore u x.core Core.ticked) (fin := fin) (iters := 1) (rd := rd) (ra := ra) h
    (by rw [Nat.min_self, hone]) (by simp only [blockBody, hok, not_true, if_false, hone, if_true]) (by rw [coreGet_onCore, if_pos rfl]; exact hrun)
  exact ⟨v, hv, (aside_onCore ..).trans haside, by rw [hcore, coreGet_onCore, if_pos rfl]⟩

end Block

/-! ### Iterations whose checks pass -/

theorem mpuFault_of_writable {m pl a : Nat} {d : Dev} (access : Nat) (ha : a < 2 ^ 36) (hw : writable m pl a d = true) : mpuFault m pl 1 access a 1 d = none :=
  mpuFault_of_granted _ _ _ _ _ _ _ fun i hi => by rw [show i = 0 by omega, Nat.add_zero, wrap36_of_lt ha]; exact ((writable_iff ..).1 hw).2

theorem mpuFault_of_readable {m pl a : Nat} {d : Dev} (access : Nat) (ha : a < 2 ^ 36) (hr : readable m pl a d = true) : mpuFault m pl 0 access a 1 d = none :=
  mpuFault_of_granted _ _ _ _ _ _ _ fun i hi => by rw [show i = 0 by omega, Nat.add_zero, wrap36_of_lt ha]; exact ((readable_iff ..).1 hr).2

theorem not_space_of_writable {m pl a : Nat} {d : Dev} (hw : writable m pl a d = true) : ¬ deviceSpace m a = true := by
  rw [((writable_iff ..).1 hw).1]; exact Bool.false_ne_true

theorem not_space_of_readable {m pl a : Nat} {d : Dev} (hr : readable m pl a d = true) : ¬ deviceSpace m a = true := by
  rw [((readable_iff ..).1 hr).1]; exact Bool.false_ne_true

section Iterations
variable {x : Issue} {rd ra rb : Nat} {d : Dev} (hdata : x.data = none) (hmedia : x.media = none) (hr : replayed d x.core = false)

include hdata in
theorem iterFill_granted (k : Nat) (hw : writable x.core (coreGet d x.core).pl ((coreGet d x.core).reg rd).toNat d = true) :
    iterFill x rd ra rb k d = .more (onCore (coreWrites x.core ((coreGet d x.core).reg rd).toNat [(coreGet d x.core).reg ra] d) x.core
      (fun c => regDown (regUp c rd) rb)) := by
  simp only [iterFill, if_neg (not_space_of_writable hw), mpuFault_of_writable 3 (BitVec.isLt _) hw, putWord, hdata]
  rfl

include hdata hmedia hr

theorem blockRead_granted {pl a : Nat} (k : Nat) (ha : a < 2 ^ 36) (hread : readable x.core pl a d = true) :
    blockRead x pl a k d = .ok (coreWord d x.core a) := by
  have hload := loadWords_of_granted x pl 2 a k 1 d (fun i hi => by
    rw [show i = 0 by omega, Nat.add_zero, wrap36_of_lt ha]; exact ((readable_iff ..).1 hread).2) hdata hmedia hr
  rw [blockRead, hload]
  simp only [List.range_one, List.map_cons, List.map_nil, List.headD_cons, Nat.add_zero, wrap36_of_lt ha]

theorem iterMove_granted (k : Nat) (hread : readable x.core (coreGet d x.core).pl ((coreGet d x.core).reg ra).toNat d = true)
    (hw : writable x.core (coreGet d x.core).pl ((coreGet d x.core).reg rd).toNat d = true) :
    iterMove x rd ra rb k d = .more (onCore (coreWrites x.core ((coreGet d x.core).reg rd).toNat [coreWord d x.core ((coreGet d x.core).reg ra).toNat] d) x.core
      (fun c => regDown (regUp (regUp c ra) rd) rb)) := by
  simp only [iterMove, if_neg (not_space_of_writable hw), if_neg (not_space_of_readable hread), mpuFault_of_writable 3 (BitVec.isLt _) hw,
    mpuFault_of_readable 2 (BitVec.isLt _) hread, blockRead_granted hdata hmedia hr _ (BitVec.isLt _) hread, noteLoads_none _ _ _ _ _ hmedia, putWord, hdata]
  rfl

theorem iterCrc_granted (k : Nat) (hread : readable x.core (coreGet d x.core).pl ((coreGet d x.core).reg ra).toNat d = true) :
    iterCrc x rd ra rb k d = .more (onCore d x.core (fun c =>
      regDown (regUp (c.setReg rd (wd (crcWord (c.reg rd).toNat (coreWord d x.core ((coreGet d x.core).reg ra).toNat)))) ra) rb)) := by
  simp only [iterCrc, if_neg (not_space_of_readable hread), blockRead_granted hdata hmedia hr _ (BitVec.isLt _) hread, noteLoads_none _ _ _ _ _ hmedia]

/-- The word of each side of a pair compared. -/
theorem iterCmp_pair {full fresh : Bool} (k : Nat) {e : Dev}
    (he : e = if full = true ∧ fresh = true ∧ k = 0 then onCore d x.core (fun c => cmpFlags c true (flagsOf c.sw).c) else d)
    (hra : readable x.core (coreGet d x.core).pl ((coreGet d x.core).reg ra).toNat d = true)
    (hrd : readable x.core (coreGet d x.core).pl ((coreGet d x.core).reg rd).toNat d = true) :
    let u := coreWord d x.core ((coreGet d x.core).reg ra).toNat
    let v := coreWord d x.core ((coreGet d x.core).reg rd).toNat
    iterCmp full fresh x rd ra rb k d =
      if u ≠ v ∧ ¬ full then .stop (onCore e x.core (fun c => cmpFlags c false (decide (u.toNat < v.toNat))))
      else .more (onCore e x.core (fun c => regDown (regUp (regUp
        (if full then cmpFlags c (decide (u = v) && (flagsOf (coreGet e x.core).sw).z) (flagsOf (coreGet e x.core).sw).c else c) ra) rd) rb)) := by
  have hread : ∀ {pl a : Nat}, readable x.core pl a d = true → readable x.core pl a e = true := fun h => by rw [he]; split <;> exact h
  have hword : ∀ a, coreWord e x.core a = coreWord d x.core a := fun a => by rw [he]; split <;> rfl
  have hre : replayed e x.core = false := by rw [he]; split <;> exact hr
  simp only [iterCmp, ← he, if_neg (not_space_of_readable hra), if_neg (not_space_of_readable hrd), mpuFault_of_readable 2 (BitVec.isLt _) (hread hra),
    mpuFault_of_readable 2 (BitVec.isLt _) (hread hrd), blockRead_granted hdata hmedia hre _ (BitVec.isLt _) (hread hra),
    blockRead_granted hdata hmedia hre _ (BitVec.isLt _) (hread hrd), noteLoads_none _ _ _ _ _ hmedia, hword]

end Iterations

/-! ### Flags of a comparison -/

theorem withFlags_withFlags (sw : Word) (f g : Flags) : withFlags (withFlags sw f) g = withFlags sw g := by
  apply BitVec.eq_of_getLsbD_eq
  intro i hi
  simp only [withFlags, getLsbD_setFld _ _ (show 4 ≤ 7 + 1 by decide) (show 7 < 36 by decide)]
  split <;> rfl

theorem flagsOf_withFlags (sw : Word) (f : Flags) : flagsOf (withFlags sw f) = f := by
  obtain ⟨z, n, c, v⟩ := f
  have hbit : ∀ i < 4, bit (withFlags sw ⟨z, n, c, v⟩) (4 + i) = (b2n z + 2 * b2n n + 4 * b2n c + 8 * b2n v).testBit i := fun i hi => by
    rw [withFlags, bit_setFld_of_mem _ (by omega) (by omega) (by decide), Nat.add_sub_cancel_left]
  rw [flagsOf, hbit 0 (by decide), hbit 1 (by decide), hbit 2 (by decide), hbit 3 (by decide)]
  cases z <;> cases n <;> cases c <;> cases v <;> rfl

theorem cmpFlags_cmpFlags (c : Core) (y z j k : Bool) : cmpFlags (cmpFlags c y j) z k = cmpFlags c z k := by
  simp only [cmpFlags, flagsOf_withFlags, withFlags_withFlags]

theorem cmpFlags_ticked (c : Core) (z k : Bool) : (cmpFlags c z k).ticked = cmpFlags c.ticked z k := rfl

theorem flagsOf_cmpFlags (c : Core) (z k : Bool) : flagsOf (cmpFlags c z k).sw = { flagsOf c.sw with z := z, c := k } := flagsOf_withFlags ..

theorem cmpFlags_setReg (c : Core) (z k : Bool) (i : Nat) (w : Word) : (cmpFlags c z k).setReg i w = cmpFlags (c.setReg i w) z k := by
  unfold Core.setReg; split <;> rfl

theorem regUp_cmpFlags (c : Core) (z k : Bool) (i : Nat) : regUp (cmpFlags c z k) i = cmpFlags (regUp c i) z k := cmpFlags_setReg ..
theorem regDown_cmpFlags (c : Core) (z k : Bool) (i : Nat) : regDown (cmpFlags c z k) i = cmpFlags (regDown c i) z k := cmpFlags_setReg ..

theorem flagsOf_setReg (c : Core) (i : Nat) (w : Word) : flagsOf (c.setReg i w).sw = flagsOf c.sw := by rw [setReg_sw]

/-! ### One iteration (O15) -/

theorem ran_of_aside {m : Nat} {s : State} {v : Dev} (k : Aside m s.dev v) : Ran m (coreGet v m) s { s with dev := v } :=
  Ran.aside (c := coreGet s.dev m) (s := s) (u := s.dev) ⟨rfl, rfl, fun _ _ => rfl, fun _ _ => rfl⟩ k

theorem stored_of_aside {m a : Nat} {ws : List Word} {s : State} {v : Dev} (k : Aside m (coreWrites m a ws s.dev) v) :
    Stored m (coreGet v m) a ws s { s with dev := v } := by
  obtain ⟨hframe, hself, hn, hram, hmem⟩ := coreWrites_spec m a ws s.dev
  exact Stored.aside (c := coreGet s.dev m) (s := s) (u := coreWrites m a ws s.dev)
    ⟨by simp only [State.mk.injEq, and_true]; exact hframe.trans (by rw [hframe]), hself, hn, hram, hmem, fun b _ => by rw [hframe]; rfl⟩ k

theorem reg_sub_one_eq_zero (w : Word) : w - 1 = 0 ↔ w = 1 := by bv_omega

/-- A core's record after an iteration: at the end of the instruction where no words are left, else within it. -/
def Core.iterated (c : Core) (last : Prop) [Decidable last] : Core :=
  if last then c.ticked.blockDone else { c.ticked with inBlock := true, stepOne := false }

section Iterated
variable {x : Issue} {rd ra rb : Nat} {fin : Bool → Dev → Dev} {f : Nat → Dev → Iter} {s : State} {u : Dev}
  (h : ready x s.dev = true) (hok : blockOk rd ra rb = true) (h0 : (coreGet s.dev x.core).reg rb ≠ 0) (hf : f 0 s.dev = .more u)
  (hleft : (coreGet u x.core).reg rb = (coreGet s.dev x.core).reg rb - 1)
include h hok h0 hf hleft

/-- One iteration of an instruction that needs nothing more when its words have run out. -/
theorem block_iterated (hfin : (coreGet s.dev x.core).reg rb = 1 → ∀ d, fin true d = d) (hrun : (coreGet u x.core).run = true) :
    ∃ v, onDev (issueBlock x rd ra rb 1 fin f) s = .next { s with dev := v } ∧ Aside x.core u v ∧
      coreGet v x.core = (coreGet u x.core).iterated ((coreGet s.dev x.core).reg rb = 1) := by
  have hget : coreGet (onCore u x.core Core.ticked) x.core = (coreGet u x.core).ticked := by rw [coreGet_onCore, if_pos rfl]
  by_cases hlast : (coreGet s.dev x.core).reg rb = 1
  · obtain ⟨v, hv, haside, hcore⟩ := block_last (fin := fin) h hok h0 hf (hleft.trans ((reg_sub_one_eq_zero _).2 hlast))
      (by rw [hfin hlast, hget]; exact hrun)
    rw [hfin hlast] at haside hcore
    exact ⟨v, hv, (aside_onCore ..).trans haside, by rw [hcore, hget, Core.iterated, if_pos hlast]⟩
  · obtain ⟨v, hv, haside, hcore⟩ := block_goes_on (fin := fin) h hok h0 hf (by rw [hleft]; exact fun hz => hlast ((reg_sub_one_eq_zero _).1 hz))
    exact ⟨v, hv, haside, by rw [hcore, Core.iterated, if_neg hlast]⟩

/-- One iteration that changes its core's record alone. -/
theorem block_iterated_ran {c : Core} (hfin : (coreGet s.dev x.core).reg rb = 1 → ∀ d, fin true d = d) (hu : Aside x.core s.dev u) (hc : coreGet u x.core = c)
    (hrun : c.run = true) :
    ∃ t, onDev (issueBlock x rd ra rb 1 fin f) s = .next t ∧ Ran x.core (c.iterated ((coreGet s.dev x.core).reg rb = 1)) s t := by
  obtain ⟨v, hv, haside, hcore⟩ := block_iterated h hok h0 hf hleft hfin (hc ▸ hrun)
  refine ⟨_, hv, ?_⟩
  rw [← hc, ← hcore]
  exact ran_of_aside (hu.trans haside)

/-- One iteration that stores words. -/
theorem block_iterated_stored {a : Nat} {ws : List Word} {g : Core → Core} (hfin : (coreGet s.dev x.core).reg rb = 1 → ∀ d, fin true d = d)
    (hu : u = onCore (coreWrites x.core a ws s.dev) x.core g) (hrun : (g (coreGet s.dev x.core)).run = true) :
    ∃ t, onDev (issueBlock x rd ra rb 1 fin f) s = .next t ∧
      Stored x.core ((g (coreGet s.dev x.core)).iterated ((coreGet s.dev x.core).reg rb = 1)) a ws s t := by
  have hc : coreGet u x.core = g (coreGet s.dev x.core) := by rw [hu, coreGet_onCore, if_pos rfl, (coreWrites_spec ..).2.1]
  obtain ⟨v, hv, haside, hcore⟩ := block_iterated h hok h0 hf hleft hfin (hc ▸ hrun)
  refine ⟨_, hv, ?_⟩
  rw [← hc, ← hcore]
  exact stored_of_aside ((hu ▸ aside_onCore ..).trans haside)

end Iterated

/-! What BCMP does when its words have run out. -/

theorem cmpEnd_none (full : Bool) (m : Nat) (d : Dev) :
    cmpEnd full m false d = onCore d m (fun c => cmpFlags c true (flagsOf (coreGet d m).sw).c) := by
  rw [cmpEnd, if_pos Bool.false_ne_true]

theorem cmpEnd_equal {full : Bool} {m : Nat} {d : Dev} (h : full = false ∨ (flagsOf (coreGet d m).sw).z = true) :
    cmpEnd full m true d = onCore d m (fun c => cmpFlags c true false) := by
  rw [cmpEnd, if_neg (not_not.2 rfl), if_pos (h.imp (fun hf => by rw [hf]; exact Bool.false_ne_true) id)]

theorem cmpEnd_unequal {m : Nat} {d : Dev} (h : (flagsOf (coreGet d m).sw).z = false) :
    ∃ k, cmpEnd true m true d = onCore { d with free := d.free + 1 } m (fun c => cmpFlags c false k) := by
  simp only [cmpEnd, not_true_eq_false, if_false, h, Bool.false_eq_true, or_false]
  exact ⟨_, rfl⟩

/-- What a FULL comparison has found so far, from a record whose Z a fresh instruction has set. -/
theorem cmpFlags_fresh (c : Core) (fresh eq : Bool) :
    let k := if fresh then cmpFlags c true (flagsOf c.sw).c else c
    cmpFlags k (eq && (flagsOf k.sw).z) (flagsOf k.sw).c = cmpFlags c (eq && (fresh || (flagsOf c.sw).z)) (flagsOf c.sw).c := by
  cases fresh
  · rfl
  · simp only [if_true, flagsOf_cmpFlags, cmpFlags_cmpFlags, Bool.true_or]

theorem exec_bcmp (x : Issue) (rd ra rb : Nat) (full : Bool) (iters : Nat) (s : State) :
    exec (.bcmp x rd ra rb full iters) s = onDev (issueBlock x rd ra rb iters (cmpEnd full x.core)
      (iterCmp full (!(coreGet s.dev x.core).inBlock && !bit (coreGet s.dev x.core).sw 3) x rd ra rb)) s := by
  rw [show exec (.bcmp x rd ra rb full iters) s = execBcmp x rd ra rb full iters s from rfl, execBcmp, onDev_eq, onDev_eq]

section Compare
variable {x : Issue} {rd ra rb : Nat} {s : State} (h : ready x s.dev = true) (hok : blockOk rd ra rb = true)
include h hok

/-- BCMP with no words. -/
theorem bcmp_none (full fresh : Bool) (h0 : (coreGet s.dev x.core).reg rb = 0) :
    let c := coreGet s.dev x.core
    ∃ t, onDev (issueBlock x rd ra rb 1 (cmpEnd full x.core) (iterCmp full fresh x rd ra rb)) s = .next t ∧
      Ran x.core (cmpFlags c true (flagsOf c.sw).c).blockDone s t := by
  intro c
  have hself : coreGet (cmpEnd full x.core false s.dev) x.core = cmpFlags c true (flagsOf c.sw).c := by rw [cmpEnd_none, coreGet_onCore, if_pos rfl]
  have haside : Aside x.core s.dev (cmpEnd full x.core false s.dev) := by rw [cmpEnd_none]; exact aside_onCore ..
  obtain ⟨v, hv, hend, hcore⟩ := block_none (fin := cmpEnd full x.core) (iters := 1) (f := iterCmp full fresh x rd ra rb) h hok h0
    (by rw [hself]; exact ready_run h)
  refine ⟨_, hv, ?_⟩
  rw [← hself, ← hcore]
  exact ran_of_aside (haside.trans hend)

variable (h0 : (coreGet s.dev x.core).reg rb ≠ 0)
  (hra : readable x.core (coreGet s.dev x.core).pl ((coreGet s.dev x.core).reg ra).toNat s.dev = true)
  (hrd : readable x.core (coreGet s.dev x.core).pl ((coreGet s.dev x.core).reg rd).toNat s.dev = true)
include h0 hra hrd

/-- BCMP without FULL at an unequal pair. -/
theorem bcmp_differs (fresh : Bool)
    (hne : coreWord s.dev x.core ((coreGet s.dev x.core).reg ra).toNat ≠ coreWord s.dev x.core ((coreGet s.dev x.core).reg rd).toNat) :
    let c := coreGet s.dev x.core
    ∃ t, onDev (issueBlock x rd ra rb 1 (cmpEnd false x.core) (iterCmp false fresh x rd ra rb)) s = .next t ∧
      Ran x.core (cmpFlags c false ((coreWord s.dev x.core (c.reg ra).toNat).ult (coreWord s.dev x.core (c.reg rd).toNat))).ticked.blockDone s t := by
  intro c
  obtain ⟨v, hv, haside, hcore⟩ := block_stop (fin := cmpEnd false x.core) h hok h0
    ((iterCmp_pair (ready_data h) (ready_media h) (ready_replayed h) 0 (if_neg (fun hc => Bool.false_ne_true hc.1)).symm hra hrd).trans
      (if_pos ⟨hne, Bool.false_ne_true⟩)) (by rw [coreGet_onCore, if_pos rfl]; exact ready_run h)
  refine ⟨_, hv, ?_⟩
  rw [coreGet_onCore, if_pos rfl] at hcore
  rw [show cmpFlags c false ((coreWord s.dev x.core (c.reg ra).toNat).ult (coreWord s.dev x.core (c.reg rd).toNat)) = cmpFlags (coreGet s.dev x.core) false
    (decide ((coreWord s.dev x.core (c.reg ra).toNat).toNat < (coreWord s.dev x.core (c.reg rd).toNat).toNat)) from rfl, ← hcore]
  exact ran_of_aside ((aside_onCore ..).trans haside)

omit hok h0

/-- The record of a core after a pair compared. -/
def Core.pairDone (c : Core) (rd ra rb : Nat) : Core := regDown (regUp (regUp c ra) rd) rb

theorem bcmp_step_equal (fresh : Bool)
    (heq : coreWord s.dev x.core ((coreGet s.dev x.core).reg ra).toNat = coreWord s.dev x.core ((coreGet s.dev x.core).reg rd).toNat) :
    iterCmp false fresh x rd ra rb 0 s.dev = .more (onCore s.dev x.core (fun c => c.pairDone rd ra rb)) :=
  (iterCmp_pair (ready_data h) (ready_media h) (ready_replayed h) 0 (if_neg (fun hc => Bool.false_ne_true hc.1)).symm hra hrd).trans (if_neg (fun hc => hc.1 heq))

/-- A pair compared by BCMP with FULL. -/
theorem bcmp_step_full (fresh : Bool) :
    let c := coreGet s.dev x.core
    let z := decide (coreWord s.dev x.core (c.reg ra).toNat = coreWord s.dev x.core (c.reg rd).toNat) && (fresh || (flagsOf c.sw).z)
    ∃ u, iterCmp true fresh x rd ra rb 0 s.dev = .more u ∧ Aside x.core s.dev u ∧ coreGet u x.core = cmpFlags (c.pairDone rd ra rb) z (flagsOf c.sw).c := by
  intro c z
  have he : ∃ e, e = (if true = true ∧ fresh = true ∧ 0 = 0 then onCore s.dev x.core (fun c => cmpFlags c true (flagsOf c.sw).c) else s.dev) ∧
      Aside x.core s.dev e ∧ coreGet e x.core = if fresh then cmpFlags c true (flagsOf c.sw).c else c := by
    refine ⟨_, rfl, ?_⟩
    cases fresh
    · exact ⟨⟨rfl, fun _ _ => rfl, fun _ _ => rfl⟩, rfl⟩
    · rw [if_pos ⟨rfl, rfl, rfl⟩]
      exact ⟨aside_onCore .., (coreGet_onCore ..).trans (if_pos rfl)⟩
  obtain ⟨e, he, haside, hcore⟩ := he
  refine ⟨_, (iterCmp_pair (ready_data h) (ready_media h) (ready_replayed h) 0 he hra hrd).trans (if_neg (fun hc => hc.2 rfl)),
    haside.trans (aside_onCore ..), ?_⟩
  rw [coreGet_onCore, if_pos rfl, if_pos rfl, hcore, cmpFlags_fresh c fresh, Core.pairDone]
  simp only [regUp_cmpFlags, regDown_cmpFlags]
  rfl

end Compare

section CompareEnd
variable {x : Issue} {rd ra rb : Nat} {s : State} {u : Dev} {k : Core} {full fresh : Bool} (h : ready x s.dev = true) (hok : blockOk rd ra rb = true)
  (hlast : (coreGet s.dev x.core).reg rb = 1) (hstep : iterCmp full fresh x rd ra rb 0 s.dev = .more u) (hu : Aside x.core s.dev u)
  (hcore : coreGet u x.core = k) (hleft : k.reg rb = (coreGet s.dev x.core).reg rb - 1) (hrun : k.run = true)
include h hok hlast hstep hu hcore hleft hrun

/-- The last pair of a BCMP: every pair was equal. -/
theorem bcmp_last_equal (hz : full = false ∨ (flagsOf k.sw).z = true) :
    ∃ t, onDev (issueBlock x rd ra rb 1 (cmpEnd full x.core) (iterCmp full fresh x rd ra rb)) s = .next t ∧
      Ran x.core (cmpFlags k.ticked true false).blockDone s t := by
  have hticked : coreGet (onCore u x.core Core.ticked) x.core = k.ticked := by rw [coreGet_onCore, if_pos rfl, hcore]
  have hfin := cmpEnd_equal (full := full) (m := x.core) (d := onCore u x.core Core.ticked) (by rw [hticked]; exact hz)
  obtain ⟨v, hv, haside, hdone⟩ := block_last (fin := cmpEnd full x.core) h hok (by rw [hlast]; decide) hstep
    (by rw [hcore, hleft, hlast]; rfl) (by rw [hfin, coreGet_onCore, if_pos rfl, hticked]; exact hrun)
  rw [hfin] at haside
  rw [hfin, coreGet_onCore, if_pos rfl, hticked] at hdone
  refine ⟨_, hv, ?_⟩
  rw [← hdone]
  exact ran_of_aside (((hu.trans (aside_onCore ..)).trans (aside_onCore ..)).trans haside)

/-- The last pair of a BCMP with FULL that has met an unequal pair: C is some value drawn. -/
theorem bcmp_last_unequal (hfull : full = true) (hz : (flagsOf k.sw).z = false) :
    ∃ t j, onDev (issueBlock x rd ra rb 1 (cmpEnd full x.core) (iterCmp full fresh x rd ra rb)) s = .next t ∧
      Ran x.core (cmpFlags k.ticked false j).blockDone { s with dev := { s.dev with free := s.dev.free + 1 } } t := by
  subst hfull
  have hticked : coreGet (onCore u x.core Core.ticked) x.core = k.ticked := by rw [coreGet_onCore, if_pos rfl, hcore]
  obtain ⟨j, hfin⟩ := cmpEnd_unequal (m := x.core) (d := onCore u x.core Core.ticked) (by rw [hticked]; exact hz)
  have hdrawn : coreGet { onCore u x.core Core.ticked with free := (onCore u x.core Core.ticked).free + 1 } x.core = k.ticked := hticked
  have hbase : Aside x.core { s.dev with free := s.dev.free + 1 } { onCore u x.core Core.ticked with free := (onCore u x.core Core.ticked).free + 1 } := by
    obtain ⟨hframe, hcores, hregs⟩ := hu.trans (aside_onCore x.core u Core.ticked)
    refine ⟨?_, hcores, hregs⟩
    rw [hframe]
  obtain ⟨v, hv, haside, hdone⟩ := block_last (fin := cmpEnd true x.core) h hok (by rw [hlast]; decide) hstep
    (by rw [hcore, hleft, hlast]; rfl) (by rw [hfin, coreGet_onCore, if_pos rfl, hdrawn]; exact hrun)
  rw [hfin] at haside
  rw [hfin, coreGet_onCore, if_pos rfl, hdrawn] at hdone
  refine ⟨_, j, hv, ?_⟩
  rw [← hdone]
  exact ran_of_aside (s := { s with dev := { s.dev with free := s.dev.free + 1 } }) ((hbase.trans (aside_onCore ..)).trans haside)

end CompareEnd

/-- Settles O15: one iteration's law for each instruction, with the end where no words are left. -/
theorem coreBlockIteration : Obligations.CoreBlockIteration := by
  intro s x rd ra rb full h hd ha hb hd0 ha0 hb0 hda hdb hab m c a b rda rdb wrb u v down up last end_ after flags
  have hok : blockOk rd ra rb = true := by simp [blockOk, regsOk, hd, ha, hb, hd0, ha0, hb0, hda, hdb, hab]
  have hdata := ready_data h
  have hmedia := ready_media h
  have hrep := ready_replayed h
  have hrun : c.run = true := ready_run h
  have hafter : ∀ k : Core, k.progress = c.progress → k.iterated (c.reg rb = 1) = after k := fun k hk => by
    simp only [Core.iterated, after, last, ← hk]
    rfl
  have hcount : ∀ (k : Core) (r : Nat), (regUp k r).progress = k.progress ∧ (regDown k r).progress = k.progress := fun k r =>
    ⟨setReg_progress .., setReg_progress ..⟩
  have hmoved : ∀ k : Core, k.reg rb = c.reg rb → (regDown k rb).reg rb = c.reg rb - 1 := fun k hk => by simp [regDown, hb0, hk]
  have hup : ∀ (k : Core) (r : Nat), r ≠ rb → (regUp k r).reg rb = k.reg rb := fun k r hr => by simp [regUp, hb0, hr.symm]
  have hgoes : ∀ (k : Core) (r : Nat), (regUp k r).run = k.run ∧ (regDown k r).run = k.run := fun k r => ⟨setReg_run .., setReg_run ..⟩
  have hcmp : ∀ k : Core, k.reg rb = c.reg rb → (regDown (regUp (regUp k ra) rd) rb).reg rb = c.reg rb - 1 := fun k hk =>
    hmoved _ ((hup _ _ hdb).trans ((hup _ _ hab).trans hk))
  let fresh := !c.inBlock && !bit c.sw 3
  refine ⟨fun h0 => ⟨?move0, ?fill0, ?crc0, ?cmp0⟩, fun h0 => ⟨fun hra hwb => ?move, fun hwb => ?fill, fun hra => ?crc, fun hra hrd hne => ?differs,
    fun hra hrd heq hlast => ?equalLast, fun hra hrd heq hmore => ?equal, fun hra hrd hmore => ?full, fun hra hrd hlast => ?fullLast⟩⟩
  case move0 | fill0 | crc0 =>
    obtain ⟨v, hv, haside, hcore⟩ := block_none (fin := noFin) (iters := 1) h hok h0 hrun
    exact ⟨_, hv, by have hr := ran_of_aside haside; rwa [hcore] at hr⟩
  case cmp0 =>
    rw [exec_bcmp]
    exact bcmp_none h hok full fresh h0
  case move =>
    rw [← hafter (down (up rd (up ra c))) (by simp only [down, up, setReg_progress])]
    exact block_iterated_stored h hok h0 (iterMove_granted hdata hmedia hrep 0 hra hwb) (fin := noFin) (by
      rw [coreGet_onCore, if_pos rfl, (coreWrites_spec ..).2.1]; exact hcmp _ rfl) (fun _ _ => rfl) rfl (by simp only [hgoes]; exact hrun)
  case fill =>
    rw [← hafter (down (up rd c)) (by simp only [down, up, setReg_progress])]
    exact block_iterated_stored h hok h0 (iterFill_granted hdata 0 hwb) (fin := noFin) (by
      rw [coreGet_onCore, if_pos rfl, (coreWrites_spec ..).2.1]; exact hmoved _ (hup _ _ hdb)) (fun _ _ => rfl) rfl (by simp only [hgoes]; exact hrun)
  case crc =>
    rw [← hafter (down (up ra _)) (by simp only [down, up, setReg_progress])]
    exact block_iterated_ran h hok h0 (iterCrc_granted hdata hmedia hrep 0 hra) (fin := noFin) (by
      rw [coreGet_onCore, if_pos rfl]; exact hmoved _ ((hup _ _ hab).trans (by rw [reg_setReg, if_neg hb0, if_neg hdb.symm])))
      (fun _ _ => rfl) (aside_onCore ..) (by rw [coreGet_onCore, if_pos rfl]; rfl) (by simp only [down, up, setReg_run]; exact hrun)
  case differs => rw [exec_bcmp]; exact bcmp_differs h hok h0 hra hrd fresh hne
  case equal =>
    rw [exec_bcmp, ← hafter (down (up rd (up ra c))) (by simp only [down, up, setReg_progress])]
    exact block_iterated_ran h hok h0 (bcmp_step_equal h hra hrd fresh heq) (by rw [coreGet_onCore, if_pos rfl]; exact hcmp _ rfl)
      (fun hlast => absurd hlast hmore) (aside_onCore ..) (by rw [coreGet_onCore, if_pos rfl]; rfl) (by simp only [down, up, setReg_run]; exact hrun)
  case equalLast =>
    rw [exec_bcmp]
    exact bcmp_last_equal h hok hlast (bcmp_step_equal h hra hrd fresh heq) (aside_onCore ..) (by rw [coreGet_onCore, if_pos rfl]; rfl) (hcmp _ rfl)
      (by simp only [up, setReg_run]; exact hrun) (.inl rfl)
  case full =>
    obtain ⟨w, hstep, haside, hcore⟩ := bcmp_step_full (rb := rb) h hra hrd fresh
    rw [exec_bcmp, ← hafter (flags (decide (u = v) && (fresh || (flagsOf c.sw).z)) (flagsOf c.sw).c (down (up rd (up ra c)))) (by simp only [flags, down, up, setReg_progress])]
    exact block_iterated_ran h hok h0 hstep (by rw [hcore]; exact hcmp _ rfl) (fun hlast => absurd hlast hmore) haside hcore
      (by simp only [flags, down, up, setReg_run]; exact hrun)
  case fullLast =>
    obtain ⟨w, hstep, haside, hcore⟩ := bcmp_step_full (rb := rb) h hra hrd fresh
    have hflags := flagsOf_cmpFlags (c.pairDone rd ra rb) (decide (u = v) && (fresh || (flagsOf c.sw).z)) (flagsOf c.sw).c
    rw [exec_bcmp]
    intro z
    have hruns : (cmpFlags (c.pairDone rd ra rb) (decide (u = v) && (fresh || (flagsOf c.sw).z)) (flagsOf c.sw).c).run = true := by
      simp only [cmpFlags, Core.pairDone, hgoes]; exact hrun
    refine ⟨fun hz => ?_, fun hz => ?_⟩
    · have hend := bcmp_last_equal h hok hlast hstep haside hcore (hcmp _ rfl) hruns (.inr (by rw [hflags]; exact hz))
      rw [cmpFlags_ticked, cmpFlags_cmpFlags] at hend
      exact hend
    · obtain ⟨t, j, ht, hr⟩ := bcmp_last_unequal h hok hlast hstep haside hcore (hcmp _ rfl) hruns rfl (by rw [hflags]; exact hz)
      rw [cmpFlags_ticked, cmpFlags_cmpFlags] at hr
      exact ⟨t, j, ht, hr⟩

end Sys2Proof.Machine

/-! A block fill of many words (R315). -/

namespace Sys2Proof.Machine

/-- A word stored, then those after it. -/
theorem Stored.append {m a : Nat} {w : Word} {ws : List Word} {c c' : Core} {s t u : State} (h : Stored m c a [w] s t) (k : Stored m c' (a + 1) ws t u) :
    Stored m c' a (w :: ws) s u := by
  obtain ⟨hs, -, hn, hram, hmem, hregs⟩ := h
  obtain ⟨hs', hself, hn', hram', hmem', hregs'⟩ := k
  refine ⟨?_, hself, fun n hne => by rw [hn' n hne, hn n hne]; exact afterStore_cons .., fun b => ?_, ?_, fun b hb => (hregs' b hb).trans (hregs b hb)⟩
  · rw [hs', hs]
  · rw [hram' b, hram b]
    by_cases hb : b = a
    · subst hb
      have hbelow : storedAt m (b + 1) ws.length b = false := by simp [storedAt]
      have hself : storedAt m b [w].length b = storedAt m b (w :: ws).length b := by simp [storedAt]
      rw [hbelow, hself]; simp
    · have hone : storedAt m a [w].length b = false := by simp [storedAt]; omega
      have hrest : storedAt m a (w :: ws).length b = storedAt m (a + 1) ws.length b := by
        simp only [storedAt, List.length_cons, show decide (a ≤ b) = decide (a + 1 ≤ b) by rw [decide_eq_decide]; omega, Nat.add_assoc, Nat.add_comm 1]
      simp only [hone, hrest, Bool.false_eq_true, if_false]
      by_cases hin : storedAt m (a + 1) ws.length b = true
      · obtain ⟨k, hk⟩ : ∃ k, b - a = k + 1 := ⟨b - a - 1, by simp [storedAt] at hin; omega⟩
        rw [if_pos hin, if_pos hin, hk, show b - (a + 1) = k by omega]; rfl
      · rw [if_neg hin, if_neg hin]
  · split at hmem
    · rename_i hf; rw [if_pos hf] at hmem' ⊢; exact hmem'.trans hmem
    · rename_i hf; rw [if_neg hf] at hmem' ⊢; exact hmem'.trans hmem

theorem writable_coreWrites (m n pl a b : Nat) (ws : List Word) (d : Dev) : writable n pl b (coreWrites m a ws d) = writable n pl b d := by
  have hframe := (coreWrites_spec m a ws d).1
  have hrg : ∀ k, rg (coreWrites m a ws d) k = rg d k := fun k => by rw [hframe]; rfl
  have hsame : (coreWrites m a ws d).life = d.life ∧ (coreWrites m a ws d).fls = d.fls ∧ (coreWrites m a ws d).pas = d.pas := by
    rw [hframe]; exact ⟨rfl, rfl, rfl⟩
  simp only [writable, refusal_congr hsame (fun _ _ _ _ => hrg _) (hrg _)]

theorem setReg_general (c : Core) (i : Nat) (v : Word) : ∃ g, c.setReg i v = { c with g := g } := ⟨_, setReg_frame c i v⟩

theorem writable_onCore (m n pl a : Nat) (d : Dev) (g : Core → Core) : writable n pl a (onCore d m g) = writable n pl a d := rfl

section Fill
variable {x : Issue} {rd ra rb : Nat} (hdata : x.data = none) (hok : rd ≠ 0 ∧ ra ≠ 0 ∧ rb ≠ 0 ∧ rd ≠ ra ∧ rd ≠ rb ∧ ra ≠ rb)
include hdata hok

/-- The iterations of a fill whose words are all writable. -/
theorem fill_run (s : State) (l n : Nat) (d : Dev) (a : Nat) (hr : replayed d x.core = false) (hcount : (coreGet d x.core).reg rb = BitVec.ofNat 36 n)
    (hlt : n < 2 ^ 36) (ha : n ≠ 0 → ((coreGet d x.core).reg rd).toNat = a) (hend : a + n ≤ 2 ^ 36)
    (hw : ∀ i < n, writable x.core (coreGet d x.core).pl (a + i) d = true) :
    let c := coreGet d x.core
    ∃ u, blockRun x.core rb (iterFill x rd ra rb) l n d = (none, false, u) ∧
      Stored x.core (coreGet u x.core) a (List.replicate n (c.reg ra)) { s with dev := d } { s with dev := u } ∧
      coreGet u x.core = { c with g := (coreGet u x.core).g, progress := c.progress + n } ∧
      ∀ i, (coreGet u x.core).reg i = if i = rd then c.reg rd + BitVec.ofNat 36 n else if i = rb then 0 else c.reg i := by
  obtain ⟨hd0, ha0, hb0, hda, hdb, hab⟩ := id hok
  induction n generalizing d a with
  | zero =>
    intro c
    refine ⟨d, rfl, stored_of_aside (s := { s with dev := d }) ⟨rfl, fun _ _ => rfl, fun _ _ => rfl⟩, rfl, fun i => ?_⟩
    split
    · subst_vars; simp; rfl
    · split
      · subst_vars; exact hcount
      · rfl
  | succ n ih =>
    intro c
    have ha' := ha (by omega)
    have hne : c.reg rb ≠ 0 := by
      rw [hcount]; intro h
      have := congrArg BitVec.toNat h
      rw [BitVec.toNat_ofNat, Nat.mod_eq_of_lt hlt] at this
      exact absurd this (by simp)
    generalize hu : onCore (coreWrites x.core a [c.reg ra] d) x.core (fun c => regDown (regUp c rd) rb) = u
    have hstep : iterFill x rd ra rb (l - (n + 1)) d = .more u := by
      rw [iterFill_granted hdata _ (by rw [ha']; exact hw 0 (by omega)), ha', hu]
    have hcore : coreGet u x.core = regDown (regUp c rd) rb := by rw [← hu, coreGet_onCore, if_pos rfl, (coreWrites_spec ..).2.1]
    have hnext : coreGet (onCore u x.core Core.ticked) x.core = (regDown (regUp c rd) rb).ticked := by rw [coreGet_onCore, if_pos rfl, hcore]
    have hreg : ∀ i, (regDown (regUp c rd) rb).ticked.reg i = if i = rd then c.reg rd + 1 else if i = rb then c.reg rb - 1 else c.reg i := fun i => by
      change (regDown (regUp c rd) rb).reg i = _
      by_cases h0 : i = 0
      · subst h0; simp [hd0.symm, hb0.symm]
      · by_cases hi : i = rb
        · subst hi; simp [regDown, regUp, hb0, hdb.symm]
        · simp [regDown, regUp, h0, hi]
    have hcount' : (coreGet (onCore u x.core Core.ticked) x.core).reg rb = BitVec.ofNat 36 n := by
      rw [hnext, hreg, if_neg hdb.symm, if_pos rfl, hcount, BitVec.ofNat_add]
      exact BitVec.add_sub_cancel ..
    have hr' : replayed (onCore u x.core Core.ticked) x.core = false := by
      rw [← hu]
      change replayed (coreWrites x.core a [c.reg ra] d) x.core = false
      rw [(coreWrites_spec ..).1]; exact hr
    have hnextAddr : n ≠ 0 → ((coreGet (onCore u x.core Core.ticked) x.core).reg rd).toNat = a + 1 := fun h0 => by
      rw [hnext, hreg, if_pos rfl, BitVec.toNat_add, ha']
      exact Nat.mod_eq_of_lt (by simp; omega)
    have hpl : (coreGet (onCore u x.core Core.ticked) x.core).pl = c.pl := by
      rw [hnext]
      simp only [Core.pl, Core.ticked, regDown, regUp, setReg_sw]
    have hw' : ∀ i < n, writable x.core (coreGet (onCore u x.core Core.ticked) x.core).pl (a + 1 + i) (onCore u x.core Core.ticked) = true := fun i hi => by
      rw [hpl, ← hu, Nat.add_assoc, Nat.add_comm 1, writable_onCore, writable_onCore, writable_coreWrites]
      exact hw (i + 1) (by omega)
    obtain ⟨v, hv, hstored, hrec, hregs⟩ := ih (onCore u x.core Core.ticked) (a + 1) hr' hcount' (by omega) hnextAddr (by omega) hw'
    rw [hnext] at hrec hregs hstored
    have hone : Stored x.core (coreGet (onCore u x.core Core.ticked) x.core) a [c.reg ra] { s with dev := d } { s with dev := onCore u x.core Core.ticked } :=
      stored_of_aside (s := { s with dev := d }) (by rw [← hu]; exact (aside_onCore ..).trans (aside_onCore ..))
    rw [hreg, if_neg hda.symm, if_neg hab] at hstored
    refine ⟨v, (blockRun_more hne hr hstep).trans hv, hone.append hstored, ?_, fun i => ?_⟩
    · obtain ⟨g, hg⟩ : ∃ g, regDown (regUp c rd) rb = { c with g := g } := by
        obtain ⟨g, hg⟩ := setReg_general c rd (c.reg rd + 1)
        obtain ⟨g', hg'⟩ := setReg_general (regUp c rd) rb ((regUp c rd).reg rb - 1)
        exact ⟨g', by rw [regDown, hg', regUp, hg]⟩
      refine hrec.trans ?_
      rw [hg, show c.progress + (n + 1) = c.progress + 1 + n by omega]
      rfl
    · rw [hregs i]
      simp only [hreg]
      split
      · rw [if_pos trivial, BitVec.ofNat_add]; bv_omega
      · split_ifs <;> rfl

end Fill

/-- Settles O16: the iterations' law, then the end of the instruction. -/
theorem blockFillWritesEveryWord : Obligations.BlockFillWritesEveryWord := by
  intro s x rd ra rb h hd ha hb hd0 ha0 hb0 hda hdb hab m c a n hend hw
  have hok : blockOk rd ra rb = true := by simp [blockOk, regsOk, hd, ha, hb, hd0, ha0, hb0, hda, hdb, hab]
  have hn : c.reg rb = BitVec.ofNat 36 n := by rw [show n = (c.reg rb).toNat from rfl, BitVec.ofNat_toNat, BitVec.setWidth_eq]
  obtain ⟨u, hu, hstored, hrec, hregs⟩ := fill_run (ready_data h) ⟨hd0, ha0, hb0, hda, hdb, hab⟩ s n n s.dev a (ready_replayed h) hn
    (BitVec.isLt _) (fun _ => rfl) hend hw
  have hleft : (coreGet u x.core).reg rb = 0 := by rw [hregs, if_neg hdb.symm, if_pos rfl]
  have hrun : (coreGet u x.core).run = true := by rw [hrec]; exact ready_run h
  have hfault : (blockRun x.core rb (iterFill x rd ra rb) (min n 1) (min n 1) s.dev).1 = none := by
    rcases Nat.eq_zero_or_pos n with h0 | hpos
    · rw [h0]; rfl
    · have hne : c.reg rb ≠ 0 := fun hz => absurd (congrArg BitVec.toNat hz) (by change n ≠ 0; omega)
      rw [Nat.min_eq_right hpos, blockRun_more hne (ready_replayed h) (iterFill_granted (ready_data h) _ (by simpa only [Nat.add_zero] using hw 0 hpos))]
      rfl
  obtain ⟨v, hv, haside, hcore⟩ := block_ends (fin := noFin) (rd := rd) (ra := ra) h hfault (by
    simp only [blockBody, hok, not_true, if_false, hu, Bool.false_eq_true, hleft, if_true, noFin]) hrun
  have hdone := hstored.aside haside
  refine ⟨_, (coreGet u x.core).g, hv, ?_, fun i => ?_⟩
  · rw [hcore, hrec] at hdone
    exact hdone
  · rw [← hn] at hregs
    exact hregs i

end Sys2Proof.Machine

/-! What the machine holds right after reset (O58, O59): R321, R360, R364, R451, Tables 12.2, 14.9, 15.1. -/

namespace Sys2Proof.Machine

/-- Settles O59: no memory lists a word, and no entry of the reset map is blown. -/
theorem resetMeetsInvariant : Obligations.ResetMeetsInvariant := by
  unfold Obligations.ResetMeetsInvariant
  decide

theorem rg_reset (a : Nat) : rg State.reset.dev a = regDefault a := rfl

/-! ### The regions (Table 14.9) -/

/-- The rows of the MPU block lie below the groups of its masters. -/
theorem regMpu_covers {o : Nat} (h : 0x100 ≤ o) : regMpu.find? (fun r => r.covers o) = none := by
  simp [regMpu, RegRow.covers]
  omega

section Region
variable {m r k : Nat} (hm : 1 ≤ m) (hm' : m < 256) (hr : r < 32) (hk : k < 3)
include hm hm' hr hk

theorem mpuAddr_place : mpuAddr m r k >>> 16 = 0x07 ∧ mpuAddr m r k % 65536 = 256 * m + 4 * r + k ∧ mpuAddr m r k % 2 ^ 24 = mpuAddr m r k := by
  rw [Nat.shiftRight_eq_div_pow]; unfold mpuAddr; omega

/-- A region's word holds the value of its table right after reset. -/
theorem rg_reset_region : rg State.reset.dev (mpuAddr m r k) = wd (mpuReset m r k) := by
  obtain ⟨hblock, hoff, hlow⟩ := mpuAddr_place hm hm' hr hk
  have hrow : regRow (mpuAddr m r k) = none := by
    rw [regRow, hblock]
    exact regMpu_covers (by rw [show (2 : Nat) ^ 16 = 65536 from rfl, hoff]; omega)
  have hword : mpuWord (mpuAddr m r k) = some (m, r, k) := by
    unfold mpuWord
    dsimp only
    rw [hblock, hoff, if_pos (by omega), show (256 * m + 4 * r + k) / 256 = m by omega, show (256 * m + 4 * r + k) % 256 / 4 = r by omega,
      show (256 * m + 4 * r + k) % 4 = k by omega]
  rw [rg_reset, regDefault, hlow, hrow]
  dsimp only
  rw [hword]

end Region

theorem regionCount_le (m : Nat) : regionCount m ≤ 32 := by unfold regionCount; split_ifs <;> decide

theorem pos_lt_of_regionCount {m : Nat} (h : regionCount m ≠ 0) : 1 ≤ m ∧ m < 256 := by
  unfold regionCount isH isF at h
  split_ifs at h with h1 h2 h3
  · omega
  · simp at h2; omega
  · simp at h3; omega
  · exact absurd rfl h

theorem region_reset {m r : Nat} (hm : regionCount m ≠ 0) (hr : r < regionCount m) : region State.reset.dev m r =
    ⟨fld (wd (mpuReset m r 0)) 35 4 * 16, fld (wd (mpuReset m r 1)) 35 4 * 16 + 15, wd (mpuReset m r 2)⟩ := by
  obtain ⟨hpos, hlt⟩ := pos_lt_of_regionCount hm
  have hr' : r < 32 := by have := regionCount_le m; omega
  rw [region, regionOf, rg_reset_region hpos hlt hr' (by decide), rg_reset_region hpos hlt hr' (by decide), rg_reset_region hpos hlt hr' (by decide)]

/-! ### The values of the tables -/

theorem tmp_reset : ∀ e ∈ [(0, 1, 1, 0), (1, 0, 1, 0), (2, 4, 1, 0), (3, 4, 1, 0), (4, 3, 1, 0), (5, 3, 1, 0), (6, 1, 1, 0), (7, 1, 1, 0), (8, 1, 1, 0), (9, 2, 1, 0), (10, 1, 1, 0),
      (11, 4, 1, 0), (12, 3, 1, 0), (13, 3, 1, 0), (14, 0, 1, 0), (15, 3, 1, 0), (16, 4, 1, 0), (17, 5, 1, 0), (18, 5, 1, 0), (19, 5, 1, 0), (20, 1, 1, 0),
      (21, 5, 1, 0), (22, 1, 1, 0), (23, 1, 1, 0), (24, 5, 1, 0), (25, 1, 1, 0), (26, 1, 1, 0), (27, 1, 1, 0), (28, 5, 1, 0), (29, 5, 1, 0), (30, 2, 4, 20000),
      (31, 4, 1, 0), (32, 1, 1, 0), (33, 1, 1, 0), (34, 1, 5, 1200000), (35, 1, 1, 0), (36, 1, 1, 0), (37, 1, 1, 0), (38, 2, 1, 0)],
    tmpResponse State.reset.dev e.1 = e.2.1 ∧ tmpN State.reset.dev e.1 = e.2.2.1 ∧ tmpW State.reset.dev e.1 = e.2.2.2 := by decide

theorem reg_reset : ∀ e ∈ [(Reg.PAS_RQ_KMIN, 0), (Reg.CHM_APPROVAL_LIFE, 20000), (Reg.CLN_INLINE_WINDOW, 8), (Reg.CLN_BUDGET_WHARF, 40000), (Reg.HSH_BUDGET_WHARF, 160000),
      (Reg.KSL_GCM_CAP, 0x100000000), (Reg.GRD_BUDGET_WHARF, 64), (Reg.HOP_RCT_CUTOFF, 41), (Reg.HOP_SW_FILL + 3, 8), (Reg.CRG_BUDGET_WHARF, 1000),
      (Reg.BSN_ENV_MAX_AGE, 1200000), (Reg.LKG_BUDGET + 2, 150), (Reg.TMP_INT_CORES, 256), (Reg.SDH_CTL, 1), (Reg.SDH_APPEND_BUDGET, 64), (Reg.OFC_CLK, 40),
      (Reg.OFC_SESSION_LIFE, 6000000), (Reg.PMU_BW_WINDOW, 20000), (Reg.FLD_POWER_CAP, 640), (Reg.FLD_FLIGHT_CTL + 9, 2 + 4 + 16), (Reg.APT_CEILING + 8 * 77, 10000),
      (Reg.APT_THR + 8 * 5, 48 + 32 * 4096), (Reg.APT_ADJ + 8 * 16, 2), (Reg.APT_ADJ + 8 * 17, 5), (Reg.PNG_PERIOD + 4 * 3, 1600), (Reg.PNG_PHASE + 4 * 3, 300),
      (Reg.CHN_FRAME_BUDGET + 16 * 31, 2), (Reg.CHN_EMU_CTL, 75 + 4 * 128), (Reg.ILS_LINK_LANE + 32 * 3, 6 + 7 * 16), (Reg.MBX_BIND, 0), (Reg.RPL_CTL, 0)],
    (rg State.reset.dev e.1).toNat = e.2 := by decide

/-- A core's record right after reset. -/
theorem core_reset (m : Nat) : coreGet State.reset.dev m = {} := rfl

/-- Settles O58: the state with every field at its reset value, and the register words that nothing has written. -/
theorem resetValues : Obligations.ResetValues := by
  refine ⟨rfl, rfl, rfl, rfl, rfl, rfl, rfl, rfl, rfl, rfl, rfl, fun _ => rfl, fun _ => rfl, fun _ => rfl, fun _ => rfl, fun m => ?core, fun m r hm hr => ?region,
    tmp_reset, reg_reset, fun a m => ⟨rfl, rfl, rfl, rfl⟩⟩
  case core => exact ⟨rfl, rfl, fun r => by unfold Core.reg; split <;> rfl, fun _ => ⟨rfl, rfl⟩, rfl, rfl, rfl, rfl, rfl⟩
  case region =>
    rw [region_reset hm hr]
    simp only [mpuReset, isF, Bool.and_eq_true, decide_eq_true_eq, one_ne_zero, OfNat.ofNat_ne_zero, OfNat.ofNat_ne_one, if_true, if_false]
    split_ifs <;> rfl

end Sys2Proof.Machine

/-! The invariant of the model (O60): every memory in canonical form and the reset map legal. First, what leaves the memories and the fuses alone. -/

namespace Sys2Proof.Machine

/-- What the invariant speaks of: the three memories and the fuses of the reset map. -/
structure Tables where
  mem : Tab Word
  fmem : Tab Word
  host : Tab (BitVec 8)
  fuses : Tab Nat

/-- The memories and the fuses of a device. -/
def tables (d : Dev) : Tables := ⟨d.mem, d.fmem, d.host, d.rst.fuses⟩

/-- An update of the device that keeps the memories and the reset controller. -/
theorem tables_with (d : Dev) (regs priv pinned spent pas chm rings ops opSeq slots lanes cmds msix msgs keep life hop lkg ils grd pcieBme tmp rdata crg bsn
      fld tag cores mbx linkUp d3 numVfs pcie linkWidth linkSpeed fetchRing fetchCnt waitq fqPl fls sdh ofc rpl pmu bw meas free) :
    tables { d with
      regs := regs, priv := priv, pinned := pinned, spent := spent, pas := pas, chm := chm, rings := rings, ops := ops, opSeq := opSeq, slots := slots,
      lanes := lanes, cmds := cmds, msix := msix, msgs := msgs, keep := keep, life := life, hop := hop, lkg := lkg, ils := ils,
      grd := grd, pcieBme := pcieBme, tmp := tmp, rdata := rdata, crg := crg, bsn := bsn, fld := fld, tag := tag, cores := cores, mbx := mbx,
      linkUp := linkUp, d3 := d3, numVfs := numVfs, pcie := pcie, linkWidth := linkWidth, linkSpeed := linkSpeed, fetchRing := fetchRing,
      fetchCnt := fetchCnt, waitq := waitq, fqPl := fqPl, fls := fls, sdh := sdh, ofc := ofc, rpl := rpl, pmu := pmu, bw := bw, meas := meas, free := free } =
      tables d := rfl

theorem tables_ite (c : Prop) [Decidable c] (a b : Dev) : tables (if c then a else b) = if c then tables a else tables b := apply_ite tables c a b

theorem tables_foldl {α : Type} {g : Dev → α → Dev} (h : ∀ d x, tables (g d x) = tables d) (l : List α) (d : Dev) : tables (l.foldl g d) = tables d := by
  induction l generalizing d with
  | nil => rfl
  | cons x l ih => rw [List.foldl_cons, ih, h]

theorem tables_onRst {g : Rst → Rst} (h : ∀ r, (g r).fuses = r.fuses) (d : Dev) : tables (onRst d g) = tables d := by
  simp only [tables, onRst, h]

/-- The invariant, of the tables it speaks of: every memory in canonical form, every blown entry of the reset map a permitted level. -/
def Tables.Ok (t : Tables) : Prop :=
  (Memory.wf t.mem ∧ Memory.wf t.fmem ∧ Memory.wf t.host) ∧
    t.fuses.all (fun e => decide (16 < e.1) || decide (e.2 ≠ 0 ∧ e.2 - 1 ∈ srcPermitted e.1)) = true

/-- The invariant of what an operation that may not apply would answer. -/
def OptOk (o : Option Dev) : Prop := ∀ e, o = some e → (tables e).Ok

theorem ok_iff (d : Dev) : (tables d).Ok ↔ d.memWf ∧ fusesLegal d = true := Iff.rfl

theorem ok_of {d e : Dev} (k : tables e = tables d) (h : (tables d).Ok) : (tables e).Ok := k ▸ h

theorem ok_onRst {d : Dev} {g : Rst → Rst} (h : (tables d).Ok) (hg : ∀ r, (g r).fuses = r.fuses) : (tables (onRst d g)).Ok :=
  ok_of (tables_onRst hg d) h

theorem ok_ite {c : Prop} [Decidable c] {d e : Dev} (hd : (tables d).Ok) (he : (tables e).Ok) : (tables (if c then d else e)).Ok := by
  split
  · exact hd
  · exact he

theorem ok_foldl {α : Type} {g : Dev → α → Dev} (hg : ∀ d x, (tables d).Ok → (tables (g d x)).Ok) {l : List α} {d : Dev} (h : (tables d).Ok) :
    (tables (l.foldl g d)).Ok := by
  induction l generalizing d with
  | nil => exact h
  | cons x l ih => exact ih (hg d x h)

theorem ok_snd_ite {α : Type} {c : Prop} [Decidable c] {p q : α × Dev} (hp : (tables p.2).Ok) (hq : (tables q.2).Ok) :
    (tables (if c then p else q).2).Ok := by
  split
  · exact hp
  · exact hq

theorem ok_snd {α : Type} {p : α × Dev} {x : α} {e : Dev} (k : p = (x, e)) (h : (tables p.2).Ok) : (tables e).Ok := by
  rw [k] at h
  exact h

theorem ok_fst {α : Type} {p : Dev × α} {x : α} {e : Dev} (k : p = (e, x)) (h : (tables p.1).Ok) : (tables e).Ok := by
  rw [k] at h
  exact h

theorem optOk_none : OptOk none := fun e he => absurd he.symm (Option.some_ne_none e)

theorem optOk_some {d : Dev} (h : (tables d).Ok) : OptOk (some d) := by
  intro e he
  rw [← Option.some.inj he]
  exact h

theorem optOk_ite {c : Prop} [Decidable c] {o p : Option Dev} (ho : OptOk o) (hp : OptOk p) : OptOk (if c then o else p) := by
  split
  · exact ho
  · exact hp

theorem optOk_map {α : Type} {g : α → Dev} {o : Option α} (hg : ∀ x, o = some x → (tables (g x)).Ok) : OptOk (o.map g) := by
  intro e he
  obtain ⟨x, hx, rfl⟩ := Option.map_eq_some_iff.mp he
  exact hg x hx

theorem ok_getD {o : Option Dev} {d : Dev} (ho : OptOk o) (h : (tables d).Ok) : (tables (o.getD d)).Ok := by
  cases o with
  | none => exact h
  | some e => exact ho e rfl

theorem ok_fst_foldl {α β : Type} {g : Dev × β → α → Dev × β} (hg : ∀ x a, (tables x.1).Ok → (tables (g x a).1).Ok) {l : List α} {x : Dev × β}
    (h : (tables x.1).Ok) : (tables (l.foldl g x).1).Ok := by
  induction l generalizing x with
  | nil => exact h
  | cons a l ih => exact ih (hg x a h)

end Sys2Proof.Machine

/-! What leaves the memories and the fuses alone (O60): one equation for each function that writes neither, callees first, so that a caller's
cites those of what it calls. A proof written (rfl) keeps its equation from being used by unfolding, which the kernel would have to repeat. -/

namespace Sys2Proof.Machine

theorem tables_ite_of {c : Prop} [Decidable c] {a b : Dev} {t : Tables} (ha : tables a = t) (hb : tables b = t) : tables (if c then a else b) = t := by
  rw [tables_ite, ha, hb, ite_self]

theorem tables_snd {α : Type} {p : α × Dev} {x : α} {e : Dev} (h : p = (x, e)) : tables e = tables p.2 := by rw [h]

theorem tables_foldl_fst {α β : Type} {g : Dev × β → α → Dev × β} (h : ∀ x a, tables (g x a).1 = tables x.1) (l : List α) (x : Dev × β) :
    tables (l.foldl g x).1 = tables x.1 := by
  induction l generalizing x with
  | nil => rfl
  | cons a l ih => rw [List.foldl_cons, ih, h]

theorem tables_rgSet (d a v) : tables (rgSet d a v) = tables d := (rfl)

theorem tables_rgAdd (d a k) : tables (rgAdd d a k) = tables d := by
  simp only [rgAdd, tables_rgSet]

theorem tables_rgOr (d a m) : tables (rgOr d a m) = tables d := by
  simp only [rgOr, tables_rgSet]

theorem tables_pvSet (d m a v) : tables (pvSet d m a v) = tables d := (rfl)

theorem tables_rdSet (d m v) : tables (rdSet d m v) = tables d := (rfl)

theorem tables_drawOct (d n) : tables (drawOct d n).2 = tables d := (rfl)

theorem tables_drawWord (d) : tables (drawWord d).2 = tables d := (rfl)

theorem tables_bwAdd (i n d) : tables (bwAdd i n d) = tables d := (rfl)

theorem tables_loseResv (d own field a n) : tables (loseResv d own field a n) = tables d := (rfl)

theorem tables_debit (d a c) : tables (debit d a c) = tables d := (rfl)

theorem tables_pushInput (d core cls key pass data) : tables (pushInput d core cls key pass data) = tables d := (rfl)

theorem tables_noteMem (d mems op) : tables (noteMem d mems op) = tables d := (rfl)

theorem tables_recordRead (d core kind val) : tables (recordRead d core kind val) = tables d := (rfl)

theorem tables_cmdSet (d blk master c) : tables (cmdSet d blk master c) = tables d := (rfl)

theorem tables_cmdStart (d blk master) : tables (cmdStart d blk master) = tables d := by
  simp only [cmdStart, tables_cmdSet]

theorem tables_cmdDone (d blk master st sub extra pass) : tables (cmdDone d blk master st sub extra pass) = tables d := by
  simp only [cmdDone, tables_pushInput, tables_cmdSet]

theorem tables_setOp (d o) : tables (setOp d o) = tables d := (rfl)

theorem tables_dropOp (d id) : tables (dropOp d id) = tables d := (rfl)

theorem tables_addOp (d o) : tables (addOp d o) = tables d := (rfl)

theorem tables_ringSet (d r x) : tables (ringSet d r x) = tables d := (rfl)

theorem tables_setPart (d kind idx p) : tables (setPart d kind idx p) = tables d := (rfl)

theorem tables_onPages (d f) : tables (onPages d f) = tables d := (rfl)

theorem tables_ladderWrite (d) : tables (ladderWrite d) = tables d := by
  simp only [ladderWrite, tables_ite, ite_self, tables_drawOct, tables_onPages]

theorem tables_ladderLoad (lost cold d) : tables (ladderLoad lost cold d) = tables d := by
  simp only [ladderLoad, tables_ite, ite_self, tables_with, tables_ladderWrite]

theorem tables_tmpEvent (s d) : tables (tmpEvent s d) = tables d := by
  simp only [tmpEvent, tables_ite, ite_self, tables_with, tables_rgSet]

theorem tables_tmpAssert (s d) : tables (tmpAssert s d) = tables d := by
  simp only [tmpAssert, tables_ite, ite_self, tables_rgSet, tables_tmpEvent]

theorem tables_tamperEvent (s d) : tables (tamperEvent s d) = tables d := by
  simp only [tamperEvent, tables_ite, ite_self, tables_tmpEvent, tables_tmpAssert]

theorem tables_tamperClear (s d) : tables (tamperClear s d) = tables d := by
  simp only [tamperClear, tables_ite, ite_self, tables_rgSet]

theorem tables_tamperCleared (s d) : tables (tamperCleared s d) = tables d := by
  simp only [tamperCleared, tables_ite, ite_self, tables_tamperClear]

theorem tables_countDecay (s d) : tables (countDecay s d) = tables d := by
  simp only [countDecay, tables_ite, ite_self, tables_with, tables_rgSet]

theorem tables_onHop (d f) : tables (onHop d f) = tables d := (rfl)

theorem tables_srcSet (d s st why) : tables (srcSet d s st why) = tables d := by
  simp only [srcSet, tables_onHop]

theorem tables_hwRefill (d) : tables (hwRefill d) = tables d := by
  simp only [hwRefill, tables_ite, ite_self, tables_onHop]

theorem tables_hwDraw (d n) : tables (hwDraw d n).2 = tables d := by
  simp only [hwDraw, tables_onHop, tables_hwRefill]

theorem tables_hopFault (cause d) : tables (hopFault cause d) = tables d := by
  simp only [hopFault, tables_ite, ite_self, tables_tmpEvent, tables_onHop]

theorem tables_hopCheck (d) : tables (hopCheck d) = tables d := by
  simp only [hopCheck, tables_ite, ite_self, tables_hopFault]

theorem tables_promote (after d) : tables (promote after d) = tables d := by
  unfold promote
  repeat' split
  all_goals simp only [tables_onHop, tables_srcSet]

theorem tables_failSrcs (ss why d) : tables (failSrcs ss why d) = tables d := by
  simp only [failSrcs, tables_ite, ite_self, tables_foldl, implies_true, tables_rgAdd, tables_srcSet, tables_hopCheck, tables_promote]

theorem tables_rctFail (mask run d) : tables (rctFail mask run d) = tables d := by
  simp only [rctFail, tables_ite, ite_self, tables_failSrcs]

theorem tables_windowDone (s samples d) : tables (windowDone s samples d) = tables d := by
  simp only [windowDone, tables_ite, ite_self, tables_onHop, tables_failSrcs]

theorem tables_startupDone (runs d) : tables (startupDone runs d) = tables d := by
  simp only [startupDone, tables_ite, ite_self, tables_foldl, implies_true, tables_rgAdd, tables_onHop, tables_srcSet, tables_hopCheck, tables_promote]

theorem tables_hopRetest (m mask d) : tables (hopRetest m mask d) = tables d := by
  simp only [hopRetest, tables_ite, ite_self, tables_foldl, implies_true, tables_srcSet, tables_promote]

theorem tables_hopInstantiate (inst katOk d) : tables (hopInstantiate inst katOk d) = tables d := by
  simp only [hopInstantiate, tables_ite, ite_self, tables_with, tables_onHop, tables_hwRefill, tables_hopFault]

theorem tables_hopReseed (inst d) : tables (hopReseed inst d) = tables d := by
  simp only [hopReseed, tables_ite, ite_self, tables_onHop]

theorem tables_hopOverdue (inst d) : tables (hopOverdue inst d) = tables d := by
  simp only [hopOverdue, tables_ite, ite_self, tables_onHop]

theorem tables_hopRestart (d) : tables (hopRestart d) = tables d := by
  simp only [hopRestart, tables_onHop, tables_hopCheck]

theorem tables_hopHold (d) : tables (hopHold d) = tables d := by
  simp only [hopHold, tables_onHop]

theorem tables_swDraws (d n) : tables (swDraws d n).2 = tables d := by
  unfold swDraws
  split <;> simp only [tables_onHop]

theorem tables_fillOne (x i) : tables (fillOne x i).1 = tables x.1 := by
  simp only [fillOne]
  split
  · rfl
  · exact tables_swDraws ..

theorem tables_hopTick (d) : tables (hopTick d) = tables d := by
  simp only [hopTick, tables_rgSet, tables_onHop, tables_hwRefill]

theorem tables_fillStores (cycles d) : tables (fillStores cycles d) = tables d := by
  refine tables_foldl_fst (fun x m => ?_) _ (d, cycles)
  dsimp only
  split
  · rfl
  · rw [tables_with, tables_swDraws]

theorem tables_hopFill (d) : tables (hopFill d).1 = tables d := by
  unfold hopFill
  dsimp only
  split
  · rw [tables_onHop, tables_fillStores, tables_foldl_fst tables_fillOne, tables_onHop]
  · exact tables_onHop ..

theorem tables_swDrawRead (m d) : tables (swDrawRead m d).2 = tables d := by
  unfold swDrawRead
  repeat' split
  all_goals simp only [tables_pvSet, tables_onHop]

theorem tables_rawEnd (d) : tables (rawEnd d) = tables d := by
  simp only [rawEnd, tables_ite, ite_self, tables_onHop, tables_hopRestart]

theorem tables_rawCtlWrite (m v d) : tables (rawCtlWrite m v d) = tables d := by
  simp only [rawCtlWrite, tables_ite, ite_self, tables_rgSet, tables_onHop, tables_rawEnd]

theorem tables_rawEnable (m src d) : tables (rawEnable m src d) = tables d := by
  simp only [rawEnable, tables_rawCtlWrite]

theorem tables_rawEntry (d) : tables (rawEntry d) = tables d := by
  unfold rawEntry
  split <;> simp only [tables_ite, ite_self, tables_onHop]

theorem tables_rawExit (m d) : tables (rawExit m d) = tables d := by
  simp only [rawExit, tables_rawCtlWrite]

theorem tables_rawPass (d) : tables (rawPass d) = tables d := by
  simp only [rawPass, tables_ite, ite_self, tables_onHop]

theorem tables_hopRawDataRead (m arrived d) : tables (hopRawDataRead m arrived d) = tables d := by
  simp only [hopRawDataRead, tables_ite, ite_self, tables_rdSet, tables_drawWord, tables_onHop]

theorem tables_rawBusRead (m d) : tables (rawBusRead m d) = tables d := by
  simp only [rawBusRead, tables_ite, ite_self, tables_rdSet, tables_drawWord, tables_hopRawDataRead]

theorem tables_hopEdge (d) : tables (hopEdge d) = tables d := by
  simp only [hopEdge, tables_hopReseed, tables_hopOverdue, tables_rawEntry, tables_rawPass]

theorem tables_hopRelease (d) : tables (hopRelease d) = tables d := (rfl)

theorem tables_hopCoreReset (m d) : tables (hopCoreReset m d) = tables d := by
  simp only [hopCoreReset, tables_onHop]

theorem tables_mpuRecord (m ident access a detail d) : tables (mpuRecord m ident access a detail d) = tables d := by
  simp only [mpuRecord, tables_ite, ite_self, tables_rgSet, tables_rgAdd]

theorem tables_engRead (d m ident col a n) : tables (engRead d m ident col a n).2 = tables d := by
  unfold engRead
  split <;> simp only [tables_mpuRecord]

theorem tables_coreAllows (d m pl right a n) : tables (coreAllows d m pl right a n).2 = tables d := by
  unfold coreAllows
  repeat' split
  all_goals simp only [tables_mpuRecord]

theorem tables_wccFail (seg m a stage d) : tables (wccFail seg m a stage d) = tables d := by
  simp only [wccFail, tables_rgSet, tables_rgAdd, tables_tamperEvent]

theorem tables_fromMaster (m a) {f : Dev → Dev} (hf : ∀ d, tables (f d) = tables d) (d) : tables (fromMaster m a f d) = tables d := by
  simp only [fromMaster, tables_ite, hf, tables_wccFail, ite_self]

theorem tables_mpuRegionWrite (m pl a v d) : tables (mpuRegionWrite m pl a v d) = tables d := by
  unfold mpuRegionWrite
  split <;> simp only [tables_ite, ite_self, tables_rgSet, tables_rgOr]

theorem tables_fireVec (d f v) : tables (fireVec d f v) = tables d := by
  simp only [fireVec, tables_ite, ite_self, tables_with]

theorem tables_ringFire (d r) : tables (ringFire d r) = tables d := by
  simp only [ringFire, tables_ringSet, tables_fireVec]

theorem tables_queueBarge (d queue b) : tables (queueBarge d queue b) = tables d := (rfl)

theorem tables_answered (d b) : tables (answered d b) = tables d := by
  simp only [answered, tables_ite, ite_self, tables_with]

theorem tables_unreserve (d id) : tables (unreserve d id) = tables d := (rfl)

theorem tables_lateDrop (d o) : tables (lateDrop d o) = tables d := by
  simp only [lateDrop, tables_rgAdd, tables_dropOp]

theorem tables_dbErr (d r) : tables (dbErr d r) = tables d := by
  simp only [dbErr, tables_rgAdd, tables_rgOr]

theorem tables_subDoorbell (d r p) : tables (subDoorbell d r p) = tables d := by
  simp only [subDoorbell, tables_ite, ite_self, tables_ringSet, tables_dbErr]

theorem tables_cplDoorbell (d r p) : tables (cplDoorbell d r p) = tables d := by
  simp only [cplDoorbell, tables_ite, ite_self, tables_ringSet, tables_dbErr]

theorem tables_doorbell (sub f r off size v d) : tables (doorbell sub f r off size v d) = tables d := by
  simp only [doorbell, tables_ite, ite_self, tables_rgAdd, tables_dbErr, tables_subDoorbell, tables_cplDoorbell]

theorem tables_cfgErr (d r) : tables (cfgErr d r) = tables d := by
  simp only [cfgErr, tables_rgOr]

theorem tables_writeRingSize (d r log2) : tables (writeRingSize d r log2) = tables d := by
  simp only [writeRingSize, tables_ite, ite_self, tables_rgSet, tables_ringSet, tables_cfgErr]
  repeat' split
  all_goals simp only [tables_rgSet, tables_ringSet]

theorem tables_writeRingBase (d a r v) : tables (writeRingBase d a r v) = tables d := by
  simp only [writeRingBase, tables_ite, ite_self, tables_rgSet, tables_cfgErr]

theorem tables_ringEdge (d r) : tables (ringEdge d r) = tables d := by
  simp only [ringEdge, tables_ite, ite_self, tables_ringSet]

theorem tables_fetchTurn (d r) : tables (fetchTurn d r) = tables d := by
  simp only [fetchTurn, tables_ite, ite_self, tables_with]

theorem tables_fetchOne (r d desc) : tables (fetchOne r d desc) = tables d := by
  simp only [fetchOne, tables_ite, ite_self, tables_addOp, tables_ringSet, tables_fetchTurn]

theorem tables_stageDone (r pos data d) : tables (stageDone r pos data d) = tables d := by
  unfold stageDone
  split
  · simp only [tables_ite, ite_self, tables_setOp]
  · rfl

theorem tables_aerLog (d f sub) : tables (aerLog d f sub) = tables d := by
  simp only [aerLog, tables_ite, ite_self, tables_with]

theorem tables_stageFail (r pos sub d) : tables (stageFail r pos sub d) = tables d := by
  unfold stageFail
  split
  · simp only [tables_ite, ite_self, tables_setOp, tables_aerLog]
  · rfl

theorem tables_fetchFail (r cause d) : tables (fetchFail r cause d) = tables d := by
  simp only [fetchFail, tables_ite, ite_self, tables_ringSet, tables_aerLog]

theorem tables_modTimer (d r) : tables (modTimer d r) = tables d := by
  simp only [modTimer, tables_ite, ite_self, tables_ringFire]

theorem tables_slotSet (d i s) : tables (slotSet d i s) = tables d := (rfl)

theorem tables_exhaustNotice (d i pass) : tables (exhaustNotice d i pass) = tables d := by
  simp only [exhaustNotice, tables_rgSet, tables_pushInput]

theorem tables_countUse (d i pass) : tables (countUse d i pass) = tables d := by
  simp only [countUse, tables_ite, ite_self, tables_slotSet, tables_exhaustNotice]

theorem tables_reserve (d o slot len) : tables (reserve d o slot len).1 = tables d := by
  simp only [reserve, tables_slotSet]

theorem tables_eraseSlot (d i) : tables (eraseSlot d i) = tables d := by
  simp only [eraseSlot, tables_slotSet]

theorem tables_laneDebit (d n src c ch) : tables (laneDebit d n src c ch) = tables d := by
  simp only [laneDebit, tables_ite, ite_self, tables_debit]

theorem tables_laneTake (d n src k o) : tables (laneTake d n src k o) = tables d := by
  simp only [laneTake, tables_bwAdd, tables_laneDebit]

theorem tables_hashDebit (d m k src c) : tables (hashDebit d m k src c) = tables d := by
  simp only [hashDebit, tables_debit]

theorem tables_ivDraw (d o) : tables (ivDraw d o).1 = tables d := by
  simp only [ivDraw]
  repeat' split
  all_goals simp only [tables_debit, tables_hwDraw]

theorem tables_laneAdmit {d o x e} (h : laneAdmit d o = some (e, x)) : tables e = tables d := by
  simp only [laneAdmit] at h
  split at h
  · cases h
  · simp only [Option.ite_none_left_eq_some, Option.some.injEq] at h
    obtain ⟨-, h⟩ := h
    have he := congrArg (fun p => tables p.1) h
    simp only [tables_ivDraw, tables_ite, tables_hashDebit, tables_laneTake, ite_self] at he
    exact he.symm

theorem tables_laneContinue (d o) : tables (laneContinue d o) = tables d := by
  unfold laneContinue
  dsimp only
  split
  · rfl
  · split <;> split <;> simp only [tables_ite, ite_self, tables_setOp, tables_laneTake, tables_hashDebit, tables_debit]

theorem tables_laneEdge (d n) : tables (laneEdge d n) = tables d := (rfl)

theorem tables_engSources (o : Op) (l : List (ℕ × ℕ × Bool)) (d : Dev) : tables (engSources o l d).2 = tables d := by
  induction l generalizing d with
  | nil => rfl
  | cons b r ih =>
    unfold engSources
    split
    · exact ih d
    · have hr := tables_engRead d o.engine o.served (ctxCol o.served) b.1 (packLen o.dense b.2.1)
      split
      · next e he => rw [ih, tables_snd he, hr]
      · exact hr

theorem tables_fwGuard (d o out) : tables (fwGuard d o out).1 = tables d := by
  unfold fwGuard
  split
  · split <;> next he => exact (tables_snd he).trans (tables_engSources ..)
  · rfl

theorem tables_bindRing (d r lane) : tables (bindRing d r lane) = tables d := by
  simp only [bindRing, tables_ite, ite_self, tables_rgSet, tables_ringSet]

theorem tables_rebindFrom (d kind n) : tables (rebindFrom d kind n) = tables d := by
  unfold rebindFrom
  split <;> simp only [tables_ite, ite_self, tables_foldl, implies_true, tables_bindRing]

theorem tables_lateResult (kind n d) : tables (lateResult kind n d) = tables d := by
  simp only [lateResult, tables_ite, ite_self, tables_rgAdd]

theorem tables_fqOp (mk base core pl h d) : tables (fqOp mk base core pl h d).2 = tables d := by
  simp only [fqOp, tables_coreAllows]

theorem tables_fqFetch (mk : ℕ → OpSrc) (base headReg core pl n : ℕ) (d : Dev) : tables (fqFetch mk base headReg core pl n d) = tables d := by
  induction n generalizing d with
  | zero => rfl
  | succ n ih => simp only [fqFetch, tables_ite, ih, tables_addOp, tables_rgSet, tables_fqOp, ite_self]

theorem tables_fqDoorbell (mk base headReg core pl v d) : tables (fqDoorbell mk base headReg core pl v d) = tables d := by
  simp only [fqDoorbell, tables_ite, ite_self, tables_with, tables_rgSet, tables_fqFetch]

theorem tables_fqResume (mk base headReg core d) : tables (fqResume mk base headReg core d) = tables d := by
  simp only [fqResume, tables_ite, ite_self, tables_fqFetch]

theorem tables_clnDoorbell (q pl v d) : tables (clnDoorbell q pl v d) = tables d := by
  simp only [clnDoorbell, tables_ite, ite_self, tables_fqDoorbell]

theorem tables_moncInc (d i) : tables (moncInc d i) = tables d := (rfl)

theorem tables_chmAfter (d) : tables (chmAfter d) = tables d := by
  simp only [chmAfter, tables_foldl, implies_true, tables_rgSet]

theorem tables_chmForeign (d) : tables (chmForeign d) = tables d := by
  simp only [chmForeign, tables_rgOr]

theorem tables_chmCmdErr (d) : tables (chmCmdErr d) = tables d := by
  simp only [chmCmdErr, tables_rgOr]

theorem tables_pushDiscard (d) : tables (pushDiscard d) = tables d := by
  simp only [pushDiscard, tables_ite, ite_self, tables_queueBarge]

theorem tables_chmRefill (d err) : tables (chmRefill d err) = tables d := by
  simp only [chmRefill, tables_with, tables_moncInc, tables_pushDiscard]

theorem tables_authSpent (d) : tables (authSpent d) = tables d := by
  unfold authSpent
  split <;> simp only [tables_ite, ite_self, tables_with]

theorem tables_chmEmpty (d) : tables (chmEmpty d) = tables d := by
  simp only [chmEmpty, tables_with, tables_moncInc, tables_pushDiscard, tables_authSpent]

theorem tables_chmPut (prot a v d) : tables (chmPut prot a v d) = tables d := by
  simp only [chmPut, tables_ite, ite_self, tables_with, tables_chmRefill]

theorem tables_chmWrite (m a v d) : tables (chmWrite m a v d) = tables d := by
  simp only [chmWrite, tables_ite, ite_self, tables_chmForeign, tables_chmPut]

theorem tables_chmCommand (action m target d) : tables (chmCommand action m target d).1 = tables d := by
  simp only [chmCommand]
  repeat' split
  all_goals simp only [tables_with, tables_chmCmdErr, tables_chmRefill, tables_chmEmpty]

theorem tables_drawBasin (d) : tables (drawBasin d) = tables d := by
  unfold drawBasin
  split <;> simp only [tables_ite, ite_self, tables_with, tables_hwDraw]

theorem tables_chmLevelled (d) : tables (chmLevelled d) = tables d := by
  simp only [chmLevelled, tables_with, tables_hwDraw, tables_drawBasin]

theorem tables_levelStep (rules life cross last d) : tables (levelStep rules life cross last d) = tables d := by
  unfold levelStep
  repeat' split
  all_goals simp only [tables_ite, ite_self, tables_foldl, implies_true, tables_with, tables_queueBarge, tables_chmRefill, tables_chmLevelled]

theorem tables_addApproval (d roster) : tables (addApproval d roster) = tables d := (rfl)

theorem tables_expireApprovals (d) : tables (expireApprovals d) = tables d := by
  simp only [expireApprovals, tables_ite, ite_self, tables_chmRefill]

theorem tables_applyEntries (d) : tables (applyEntries d) = tables d := by
  simp only [applyEntries, tables_ite, ite_self, tables_foldl, implies_true, tables_with, tables_rgSet]

theorem tables_setStream (d k x) : tables (setStream d k x) = tables d := (rfl)

theorem tables_cntAdd (d k n) : tables (cntAdd d k n) = tables d := (rfl)

theorem tables_linkCnt (d link c) : tables (linkCnt d link c) = tables d := by
  simp only [linkCnt, tables_cntAdd]

theorem tables_saCnt (d sa c n) : tables (saCnt d sa c n) = tables d := by
  simp only [saCnt, tables_cntAdd]

theorem tables_saSet (d s x) : tables (saSet d s x) = tables d := (rfl)

theorem tables_saEvent (d link s b) : tables (saEvent d link s b) = tables d := by
  simp only [saEvent, tables_rgSet, tables_rgOr, tables_pushInput]

theorem tables_freezeSa (link s d) : tables (freezeSa link s d) = tables d := by
  simp only [freezeSa, tables_ite, ite_self, tables_saSet, tables_saEvent]

theorem tables_pnWarn (s d) : tables (pnWarn s d) = tables d := by
  simp only [pnWarn, tables_ite, ite_self, tables_saSet, tables_saEvent]

theorem tables_classifyPlain (link fr d) : tables (classifyPlain link fr d).2 = tables d := by
  simp only [classifyPlain]
  repeat' split
  all_goals simp only [tables_linkCnt, tables_saSet, tables_freezeSa, tables_pnWarn]

theorem tables_classifySealed (link fr d) : tables (classifySealed link fr d).2 = tables d := by
  simp only [classifySealed]
  repeat' split
  all_goals simp only [tables_linkCnt, tables_saCnt]

theorem tables_acceptPn (link s f d) : tables (acceptPn link s f d) = tables d := by
  simp only [acceptPn, tables_ite, ite_self, tables_saCnt, tables_saSet, tables_freezeSa]

theorem tables_toCipher (k d) : tables (toCipher k d) = tables d := by
  simp only [toCipher]
  split <;> simp only [tables_ite, ite_self, tables_with, tables_rgAdd, tables_bwAdd, tables_setStream]

theorem tables_toEgress (k d) : tables (toEgress k d) = tables d := by
  simp only [toEgress]
  repeat' split
  all_goals simp only [tables_setStream, tables_linkCnt, tables_saCnt, tables_acceptPn]

theorem tables_integrityDrop (link d) : tables (integrityDrop link d) = tables d := by
  simp only [integrityDrop, tables_drawWord, tables_wccFail, tables_linkCnt]

theorem tables_stageIntegrity (k stage d) : tables (stageIntegrity k stage d) = tables d := by
  unfold stageIntegrity
  split <;> simp only [tables_setStream, tables_integrityDrop]

theorem tables_uqDrain (link n : ℕ) (d : Dev) : tables (uqDrain link n d) = tables d := by
  induction n generalizing d with
  | zero => rfl
  | succ n ih => simp only [uqDrain, tables_ite, ih, tables_setStream, tables_rgSet, tables_engRead, ite_self]

theorem tables_uqTxTail (link v d) : tables (uqTxTail link v d) = tables d := by
  simp only [uqTxTail, tables_ite, ite_self, tables_rgSet, tables_uqDrain]

theorem tables_uqRxHead (link v d) : tables (uqRxHead link v d) = tables d := by
  simp only [uqRxHead, tables_ite, ite_self, tables_rgSet]

theorem tables_uqEdge (d) : tables (uqEdge d) = tables d := by
  simp only [uqEdge, tables_foldl, implies_true, tables_uqDrain]

theorem tables_frameTransmit (k integ d) : tables (frameTransmit k integ d) = tables d := by
  simp only [frameTransmit]
  split <;> simp only [tables_ite, ite_self, tables_with, tables_setStream, tables_stageIntegrity, tables_uqDrain]

theorem tables_linkChange (link b up d) : tables (linkChange link b up d) = tables d := by
  simp only [linkChange, tables_ite, ite_self, tables_with, tables_rgOr]

theorem tables_saRetire (s d) : tables (saRetire s d) = tables d := by
  simp only [saRetire, tables_ite, ite_self, tables_saSet]

theorem tables_saWipe (s d) : tables (saWipe s d) = tables d := by
  simp only [saWipe, tables_foldl, implies_true, tables_setStream, tables_saSet]

theorem tables_retireEdge (d) : tables (retireEdge d) = tables d := by
  simp only [retireEdge, tables_foldl, implies_true, tables_saWipe]

theorem tables_dropFrames (link c d) : tables (dropFrames link c d) = tables d := by
  simp only [dropFrames, tables_foldl, implies_true, tables_setStream, tables_cntAdd]

theorem tables_moveStreams (n fence d) : tables (moveStreams n fence d) = tables d := by
  simp only [moveStreams, tables_ite, ite_self, tables_foldl, implies_true, tables_setStream, tables_cntAdd]

theorem tables_saOpen (s old d) : tables (saOpen s old d) = tables d := by
  simp only [saOpen, tables_ite, ite_self, tables_rgSet, tables_countUse, tables_saSet, tables_pnWarn, tables_saWipe]

theorem tables_cmdIssue (blk m code dense args inHold d pl wcc) : tables (cmdIssue blk m code dense args inHold d pl wcc) = tables d := by
  simp only [cmdIssue, tables_ite, ite_self, tables_rgAdd, tables_cmdStart, tables_addOp]

theorem tables_kslCmd (m pl action d) : tables (kslCmd m pl action d) = tables d := by
  simp only [kslCmd, tables_ite, ite_self, tables_cmdIssue]

theorem tables_ilsCmd (m pl action d) : tables (ilsCmd m pl action d) = tables d := by
  simp only [ilsCmd, tables_ite, ite_self, tables_cmdIssue]

theorem tables_admitPlain (d o bound) : tables (admitPlain d o bound) = tables d := (rfl)

theorem tables_opWcc {d o e} (h : opWcc d o = some e) : tables e = tables d := by
  unfold opWcc at h
  repeat' split at h
  all_goals cases h
  all_goals simp only [tables_wccFail]

theorem tables_storeOnRelease (d o) : tables (storeOnRelease d o) = tables d := by
  unfold storeOnRelease
  repeat' split
  all_goals simp only [tables_unreserve, tables_slotSet, tables_saSet]

theorem tables_unitSet (d u x) : tables (unitSet d u x) = tables d := (rfl)

theorem tables_curveSet (d s x) : tables (curveSet d s x) = tables d := (rfl)

theorem tables_wipeEdge (d u) : tables (wipeEdge d u) = tables d := by
  unfold wipeEdge
  split <;> simp only [tables_drawWord, tables_unitSet]

theorem tables_stageJob (r pos data d) : tables (stageJob r pos data d) = tables d := by
  unfold stageJob
  split
  · simp only [tables_ite, ite_self, tables_setOp]
  · rfl

theorem tables_jobAdmit {d o x e} (h : jobAdmit d o = some (e, x)) : tables e = tables d := by
  simp only [jobAdmit] at h
  repeat' split at h
  all_goals cases h
  all_goals simp only [tables_debit, tables_setOp, tables_rgAdd, tables_unitSet, tables_reserve, tables_countUse, tables_curveSet]

theorem tables_leaveUnit (d u wipe) : tables (leaveUnit d u wipe) = tables d := by
  simp only [leaveUnit, tables_unitSet]

theorem tables_dropCurve (d o) : tables (dropCurve d o) = tables d := by
  simp only [dropCurve, tables_ite, ite_self, tables_curveSet]

theorem tables_gqSources (d o) : tables (gqSources d o).2 = tables d := by
  unfold gqSources
  split <;> simp only [tables_engSources]

theorem tables_drawUntil (ok : Octets → Bool) (n : ℕ) (p : Octets) (d : Dev) : tables (drawUntil ok n p d).2 = tables d := by
  induction n generalizing p d with
  | zero => rfl
  | succ n ih =>
    unfold drawUntil
    split
    · rfl
    · rw [ih, tables_hwDraw]

theorem tables_selfCheckFails (d u) : tables (selfCheckFails d u) = tables d := by
  simp only [selfCheckFails, tables_ite, ite_self, tables_tmpEvent, tables_unitSet]

theorem tables_rsaFail (u d) : tables (rsaFail u d) = tables d := by
  unfold rsaFail
  repeat' split
  all_goals simp only [tables_selfCheckFails]

theorem tables_yieldSave (u d) : tables (yieldSave u d) = tables d := by
  simp only [yieldSave]
  split <;> simp only [tables_unitSet]

theorem tables_suspResume (u d) : tables (suspResume u d) = tables d := by
  simp only [suspResume]
  split <;> simp only [tables_unitSet]

theorem tables_curveRelease (d o) : tables (curveRelease d o) = tables d := by
  unfold curveRelease
  split <;> simp only [tables_ite, ite_self, tables_curveSet, tables_dropCurve]

theorem tables_ownerWipe (ctx d) : tables (ownerWipe ctx d) = tables d := by
  simp only [ownerWipe, tables_ite, ite_self, tables_foldl, implies_true, tables_unitSet]

theorem tables_forgetJob (d id atEdge) : tables (forgetJob d id atEdge) = tables d := by
  simp only [forgetJob, tables_foldl, implies_true, tables_unitSet]

theorem tables_wipeBanks (d u atEdge) : tables (wipeBanks d u atEdge) = tables d := by
  simp only [wipeBanks, tables_unitSet]

theorem tables_grdCmd (m pl action d) : tables (grdCmd m pl action d) = tables d := by
  simp only [grdCmd, tables_ite, ite_self, tables_cmdIssue]

theorem tables_grdDoorbell (q pl v d) : tables (grdDoorbell q pl v d) = tables d := by
  simp only [grdDoorbell, tables_ite, ite_self, tables_fqDoorbell]

theorem tables_grdCancel (q v d) : tables (grdCancel q v d) = tables d := by
  simp only [grdCancel, tables_ite, ite_self, tables_rgSet]

theorem tables_lookupAdmit {d o x e} (h : lookupAdmit d o = some (e, x)) : tables e = tables d := by
  unfold lookupAdmit at h
  repeat' split at h
  all_goals cases h
  all_goals simp only [tables_debit]

theorem tables_stageDeltas (d sender ds) : tables (stageDeltas d sender ds) = tables d := (rfl)

theorem tables_deltaPrep (d) : tables (deltaPrep d) = tables d := by
  unfold deltaPrep
  split <;> simp only [tables_ite, ite_self, tables_with]

theorem tables_commitResult (d st sub idx) : tables (commitResult d st sub idx) = tables d := by
  simp only [commitResult, tables_rgSet]

theorem tables_crgDiscard (d) : tables (crgDiscard d) = tables d := (rfl)

theorem tables_crgCmd (m pl action d wcc) : tables (crgCmd m pl action d wcc) = tables d := by
  simp only [crgCmd, tables_ite, ite_self, tables_cmdIssue]

theorem tables_crgOpen (d) : tables (crgOpen d) = tables d := by
  simp only [crgOpen, tables_ite, ite_self, tables_with]

theorem tables_sealEnvelope (d o) : tables (sealEnvelope d o).2 = tables d := by
  simp only [sealEnvelope, tables_ite, ite_self, tables_with, tables_ladderWrite, tables_moncInc]

theorem tables_openEnvEffect (d e body) : tables (openEnvEffect d e body) = tables d := by
  simp only [openEnvEffect, tables_ite, ite_self, tables_with, tables_stageDeltas]

theorem tables_envAdmit {d o x e} (h : envAdmit d o = some (e, x)) : tables e = tables d := by
  unfold envAdmit at h
  repeat' split at h
  all_goals cases h
  all_goals simp only [tables_debit]

theorem tables_kekActivate (d) : tables (kekActivate d) = tables d := by
  unfold kekActivate
  split <;> simp only [tables_ite, ite_self, tables_with, tables_ladderWrite]

theorem tables_sealBlockCheck (d) : tables (sealBlockCheck d) = tables d := (rfl)

theorem tables_bsnOpen (d) : tables (bsnOpen d) = tables d := by
  simp only [bsnOpen, tables_ite, ite_self, tables_with, tables_rgSet]
  repeat' split
  all_goals simp only [tables_rgSet, tables_rgOr]

theorem tables_portSet (d p x) : tables (portSet d p x) = tables d := (rfl)

theorem tables_chainSet (d n c) : tables (chainSet d n c) = tables d := (rfl)

theorem tables_engSet (d e x) : tables (engSet d e x) = tables d := (rfl)

theorem tables_pushEvent (d p words) : tables (pushEvent d p words) = tables d := by
  simp only [pushEvent, tables_ite, ite_self, tables_with, tables_rgAdd]

theorem tables_pingEvent (d type p dA dPhi) : tables (pingEvent d type p dA dPhi) = tables d := by
  simp only [pingEvent, tables_pushEvent]

theorem tables_grantEvent (d type p n tie emu reason) : tables (grantEvent d type p n tie emu reason) = tables d := by
  simp only [grantEvent, tables_ite, ite_self, tables_with, tables_pushEvent]

theorem tables_evqSize (c v d) : tables (evqSize c v d) = tables d := by
  simp only [evqSize, tables_rgSet]

theorem tables_evqHeadWrite (c v d) : tables (evqHeadWrite c v d) = tables d := by
  simp only [evqHeadWrite, tables_ite, ite_self, tables_rgSet]

theorem tables_endGrant (p reason d) : tables (endGrant p reason d) = tables d := by
  simp only [endGrant, tables_ite, ite_self, tables_portSet, tables_chainSet, tables_grantEvent]

theorem tables_sweepStart (e d) : tables (sweepStart e d) = tables d := by
  simp only [sweepStart, tables_ite, ite_self, tables_engSet]

theorem tables_pingResult (d p a phi) : tables (pingResult d p a phi) = tables d := by
  simp only [pingResult]
  split <;> simp only [tables_ite, ite_self, tables_portSet, tables_pingEvent]

theorem tables_ping (e a phi d) : tables (ping e a phi d) = tables d := by
  simp only [ping, tables_ite]
  repeat' split
  all_goals simp only [tables_engSet, tables_pingResult]

theorem tables_baselinePing (e p a phi d) : tables (baselinePing e p a phi d) = tables d := by
  simp only [baselinePing, tables_ite, ite_self, tables_portSet, tables_engSet]

theorem tables_reqDrop (d m) : tables (reqDrop d m) = tables d := by
  simp only [reqDrop, tables_pvSet]

theorem tables_fldReqWrite (m v d) : tables (fldReqWrite m v d) = tables d := by
  simp only [fldReqWrite, tables_ite, ite_self, tables_with]

theorem tables_applyReq (d x) : tables (applyReq d x) = tables d := by
  simp only [applyReq, tables_ite, ite_self, tables_portSet, tables_endGrant, tables_reqDrop]

theorem tables_clearFrames (n d) : tables (clearFrames n d) = tables d := (rfl)

theorem tables_makeGrant (p n tie d) : tables (makeGrant p n tie d) = tables d := by
  simp only [makeGrant, tables_rgAdd, tables_debit, tables_portSet, tables_chainSet, tables_grantEvent, tables_clearFrames]

theorem tables_offerChains (f tie d p) : tables (offerChains f tie d p) = tables d := by
  unfold offerChains
  split <;> simp only [tables_makeGrant]

theorem tables_schedulePair (d pair) : tables (schedulePair d pair) = tables d := by
  simp only [schedulePair, tables_foldl, implies_true, tables_offerChains]

theorem tables_portRefresh (p d) : tables (portRefresh p d) = tables d := by
  simp only [portRefresh, tables_ite, ite_self, tables_portSet, tables_endGrant]

theorem tables_portJudge (p d) : tables (portJudge p d) = tables d := by
  simp only [portJudge, tables_ite, ite_self, tables_portRefresh]

theorem tables_grantCut (p d) : tables (grantCut p d) = tables d := by
  simp only [grantCut, tables_ite, ite_self, tables_endGrant, tables_portRefresh]

theorem tables_grantCeiling (p d) : tables (grantCeiling p d) = tables d := by
  simp only [grantCeiling, tables_ite, ite_self, tables_endGrant]

theorem tables_schedule (d) : tables (schedule d) = tables d := by
  simp only [schedule, tables_foldl, implies_true, tables_with, tables_applyReq, tables_schedulePair, tables_grantCut, tables_grantCeiling]

theorem tables_lingerExpiry (p d) : tables (lingerExpiry p d) = tables d := by
  simp only [lingerExpiry, tables_ite, ite_self, tables_portSet]

theorem tables_lingerClear (p d) : tables (lingerClear p d) = tables d := by
  simp only [lingerClear, tables_ite, ite_self, tables_portSet]

theorem tables_dropBase (p d) : tables (dropBase p d) = tables d := by
  simp only [dropBase, tables_portSet]

theorem tables_flightReadyNow (f d) : tables (flightReadyNow f d) = tables d := by
  simp only [flightReadyNow, tables_ite, ite_self, tables_with]

theorem tables_mismatchEnd (n d) : tables (mismatchEnd n d) = tables d := by
  unfold mismatchEnd
  split <;> simp only [tables_rgAdd, tables_portSet, tables_endGrant]

theorem tables_setPowers (n fwd refl d) : tables (setPowers n fwd refl d) = tables d := by
  simp only [setPowers, tables_rgSet]

theorem tables_tuningComplete (n ser shu vswr fwd refl d) : tables (tuningComplete n ser shu vswr fwd refl d) = tables d := by
  simp only [tuningComplete]
  split <;> simp only [tables_ite, ite_self, tables_portSet, tables_chainSet, tables_mismatchEnd, tables_setPowers]

theorem tables_tuningEnd (n d) : tables (tuningEnd n d) = tables d := by
  simp only [tuningEnd, tables_ite, ite_self, tables_drawWord, tables_tuningComplete]

theorem tables_powersEdge (n d) : tables (powersEdge n d) = tables d := by
  simp only [powersEdge, tables_ite, ite_self, tables_drawWord, tables_setPowers]

theorem tables_settleEnd (n d) : tables (settleEnd n d) = tables d := by
  simp only [settleEnd, tables_ite, ite_self, tables_chainSet]

theorem tables_vswrMismatch (n v1 v2 d) : tables (vswrMismatch n v1 v2 d) = tables d := by
  simp only [vswrMismatch]
  split <;> simp only [tables_ite, ite_self, tables_portSet, tables_mismatchEnd]

theorem tables_aptClear (m p v d) : tables (aptClear m p v d) = tables d := by
  simp only [aptClear, tables_ite, ite_self, tables_portSet]

theorem tables_supplyFault (high d) : tables (supplyFault high d) = tables d := by
  simp only [supplyFault, tables_foldl, implies_true, tables_with, tables_tmpAssert, tables_endGrant]

theorem tables_supplyRecovery (d) : tables (supplyRecovery d) = tables d := by
  simp only [supplyRecovery, tables_with, tables_tamperClear]

theorem tables_fieldHold (d) : tables (fieldHold d) = tables d := by
  simp only [fieldHold, tables_foldl, implies_true, tables_with, tables_portRefresh]

theorem tables_frameWrite (m n e a ro v d) : tables (frameWrite m n e a ro v d) = tables d := by
  simp only [frameWrite, tables_ite, ite_self, tables_rgSet, tables_reqDrop]

theorem tables_fqTailWrite (m n v d) : tables (fqTailWrite m n v d) = tables d := by
  simp only [fqTailWrite, tables_ite, ite_self, tables_chainSet, tables_reqDrop]

theorem tables_entryEnd (n st sub air rx d) : tables (entryEnd n st sub air rx d) = tables d := by
  simp only [entryEnd, tables_ite, ite_self, tables_rgAdd, tables_chainSet]

theorem tables_skipBad (f n : ℕ) (d : Dev) : tables (skipBad f n d) = tables d := by
  induction f generalizing d with
  | zero => rfl
  | succ f ih =>
    simp only [skipBad]
    split
    · rfl
    · split <;> simp only [tables_ite, ih, tables_entryEnd, ite_self]

theorem tables_armIdentity (d n pos) : tables (armIdentity d n pos) = tables d := by
  simp only [armIdentity, tables_ite, ite_self, tables_chainSet]

theorem tables_admitEntries (n d) : tables (admitEntries n d) = tables d := by
  simp only [admitEntries, tables_ite, ite_self, tables_foldl, implies_true, tables_chainSet, tables_skipBad, tables_armIdentity]

theorem tables_writeRes (n d r) : tables (writeRes n d r) = tables d := by
  simp only [writeRes, tables_foldl, implies_true, tables_rgSet]

theorem tables_entryCompletion (n d) : tables (entryCompletion n d) = tables d := by
  simp only [entryCompletion, tables_foldl, implies_true, tables_pushInput, tables_chainSet, tables_writeRes]

theorem tables_airSend (n f d) : tables (airSend n f d) = tables d := by
  simp only [airSend, tables_rgAdd, tables_chainSet]

theorem tables_newRates (n w d) : tables (newRates n w d) = tables d := by
  simp only [newRates, tables_ite, ite_self, tables_chainSet]

theorem tables_startExchange (n d) : tables (startExchange n d) = tables d := by
  unfold startExchange
  split <;> simp only [tables_ite, ite_self, tables_chainSet, tables_airSend]

theorem tables_airEnd (n air rx d) : tables (airEnd n air rx d) = tables d := by
  simp only [airEnd, tables_entryEnd, tables_skipBad, tables_startExchange]

theorem tables_activated (n typeB w r d) : tables (activated n typeB w r d) = tables d := by
  unfold activated
  split <;> simp only [tables_foldl, implies_true, tables_chainSet, tables_airSend, tables_newRates, tables_airEnd]

theorem tables_activateA (n answers d) : tables (activateA n answers d) = tables d := by
  unfold activateA
  split <;> simp only [tables_activated]

theorem tables_activateB (n answers d) : tables (activateB n answers d) = tables d := by
  unfold activateB
  split <;> simp only [tables_activated]

theorem tables_wtxAnswer (n pcb inf w d) : tables (wtxAnswer n pcb inf w d) = tables d := by
  simp only [wtxAnswer, tables_ite, ite_self, tables_rgAdd, tables_chainSet, tables_airSend, tables_airEnd]

theorem tables_wtxRequest (n inf d) : tables (wtxRequest n inf d) = tables d := by
  unfold wtxRequest
  split <;> simp only [tables_ite, ite_self, tables_startExchange, tables_wtxAnswer]

theorem tables_exchange (n air frame d) : tables (exchange n air frame d) = tables d := by
  simp only [exchange]
  repeat' split
  all_goals simp only [tables_newRates, tables_startExchange, tables_airEnd, tables_wtxAnswer]

theorem tables_windowEdge (n d) : tables (windowEdge n d) = tables d := by
  unfold windowEdge
  split <;> simp only [tables_ite, ite_self, tables_newRates, tables_startExchange, tables_airEnd]

theorem tables_cardBack (n d) : tables (cardBack n d) = tables d := by
  simp only [cardBack, tables_chainSet]

theorem tables_cardSet (n k d) : tables (cardSet n k d) = tables d := by
  simp only [cardSet, tables_chainSet]

theorem tables_cardSelect (n level o f d) : tables (cardSelect n level o f d) = tables d := by
  simp only [cardSelect, tables_ite, ite_self, tables_airSend, tables_cardBack, tables_cardSet]

theorem tables_cardRats (n o f d) : tables (cardRats n o f d) = tables d := by
  unfold cardRats
  split <;> simp only [tables_chainSet, tables_airSend, tables_newRates, tables_airEnd]

theorem tables_layer3 (n f d) : tables (layer3 n f d) = tables d := by
  simp only [layer3, tables_ite, ite_self, tables_chainSet, tables_airSend, tables_cardBack]
  repeat' split
  all_goals simp only [tables_chainSet, tables_cardBack, tables_cardSelect, tables_cardRats]

theorem tables_sendWtx (n d) : tables (sendWtx n d) = tables d := by
  simp only [sendWtx, tables_rgAdd, tables_chainSet, tables_airSend]

theorem tables_cardFrame (n b d) : tables (cardFrame n b d) = tables d := by
  simp only [cardFrame, tables_ite, ite_self, tables_chainSet, tables_skipBad, tables_sendWtx]

theorem tables_readerFrame (n parity frame d) : tables (readerFrame n parity frame d) = tables d := by
  unfold readerFrame
  split <;> simp only [tables_ite, ite_self, tables_chainSet, tables_layer3, tables_cardFrame]

theorem tables_emuArm (n rats d) : tables (emuArm n rats d) = tables d := by
  unfold emuArm
  split <;> simp only [tables_foldl, implies_true, tables_chainSet, tables_layer3]

theorem tables_emuReceive (n d) : tables (emuReceive n d) = tables d := by
  unfold emuReceive
  split <;> simp only [tables_newRates, tables_airEnd]

theorem tables_emuRespond (n d) : tables (emuRespond n d) = tables d := by
  simp only [emuRespond]
  repeat' split
  all_goals simp only [tables_chainSet, tables_airSend, tables_newRates, tables_airEnd]

theorem tables_emuWtxTimer (n d) : tables (emuWtxTimer n d) = tables d := by
  simp only [emuWtxTimer, tables_ite, ite_self, tables_sendWtx]

theorem tables_timerEdge (n d) : tables (timerEdge n d) = tables d := by
  unfold timerEdge
  split <;> simp only [tables_ite, ite_self, tables_emuWtxTimer]

theorem tables_emuFieldLost (n d) : tables (emuFieldLost n d) = tables d := by
  simp only [emuFieldLost, tables_ite, ite_self, tables_chainSet]

theorem tables_airEdge (n d) : tables (airEdge n d) = tables d := by
  simp only [airEdge, tables_windowEdge, tables_timerEdge]

theorem tables_emuCtlWrite (n v d) : tables (emuCtlWrite n v d) = tables d := by
  simp only [emuCtlWrite, tables_ite, ite_self, tables_rgSet]

theorem tables_onTag (d f) : tables (onTag d f) = tables d := (rfl)

theorem tables_tagCopySet (d i c x) : tables (tagCopySet d i c x) = tables d := by
  simp only [tagCopySet, tables_onTag]

theorem tables_tagWrite (d i v verify) : tables (tagWrite d i v verify).1 = tables d := by
  unfold tagWrite
  repeat' split
  all_goals simp only [tables_drawOct, tables_tagCopySet]

theorem tables_tagCut (d i v how) : tables (tagCut d i v how) = tables d := by
  unfold tagCut
  split <;> simp only [tables_ite, ite_self, tables_drawOct, tables_tagCopySet]

theorem tables_tagStart (p fsdi d) : tables (tagStart p fsdi d) = tables d := by
  simp only [tagStart, tables_ite, ite_self, tables_onTag]

theorem tables_tagEnd (d) : tables (tagEnd d) = tables d := by
  simp only [tagEnd, tables_onTag]

theorem tables_tagLeave (how d) : tables (tagLeave how d) = tables d := by
  simp only [tagLeave, tables_ite, ite_self, tables_onTag, tables_tagEnd]

theorem tables_tagPaths (d) : tables (tagPaths d) = tables d := by
  unfold tagPaths
  split <;> simp only [tables_ite, ite_self, tables_tagEnd]

theorem tables_tagBlock (pcb inf d) : tables (tagBlock pcb inf d) = tables d := by
  simp only [tagBlock, tables_onTag]

theorem tables_tagBlocks (l : List Octets) (d : Dev) : tables (tagBlocks l d) = tables d := by
  fun_induction tagBlocks l d with
  | case1 => rfl
  | case2 => exact tables_tagBlock ..
  | case3 _ _ _ _ ih => rw [ih, tables_tagBlock]

theorem tables_tagAcks (n d) : tables (tagAcks n d) = tables d := by
  simp only [tagAcks, tables_foldl, implies_true, tables_tagBlock]

theorem tables_tagAnswer (d data sw) : tables (tagAnswer d data sw) = tables d := by
  simp only [tagAnswer, tables_ite, ite_self, tables_rgAdd, tables_onTag, tables_tagBlocks]

theorem tables_tagReadAnswer (d i n) : tables (tagReadAnswer d i n) = tables d := by
  unfold tagReadAnswer
  split <;> simp only [tables_tagAnswer]

theorem tables_tagMac (d ch head data mac a) : tables (tagMac d ch head data mac a) = tables d := by
  unfold tagMac
  split <;> simp only [tables_ite, ite_self, tables_queueBarge, tables_onTag, tables_tagAnswer]

theorem tables_tagApdu (o d) : tables (tagApdu o d) = tables d := by
  unfold tagApdu
  extract_lets b ins p1 p2 lc data withData onlyLe head ch d1 d2 no
  refine tables_ite_of rfl ?_
  have hd : tables d2 = tables d := by simp only [d2, d1, tables_ite, tables_onTag, tables_tagAcks, ite_self]
  have hno : ∀ sw, tables (no sw) = tables d := fun sw => (tables_tagAnswer ..).trans hd
  clear_value no d2 d1 ch head onlyLe withData data lc p2 p1 ins b
  simp only [tables_ite, hno, hd, tables_tagAnswer, tables_onTag, tables_tagReadAnswer, tables_tagMac, ite_self]
  repeat' split
  all_goals simp only [hno, hd, tables_tagAnswer, tables_onTag]

theorem tables_tagSelect (aid d) : tables (tagSelect aid d) = tables d := by
  simp only [tagSelect, tables_tagApdu]

theorem tables_tagReadBlock (bb d) : tables (tagReadBlock bb d) = tables d := by
  simp only [tagReadBlock, tables_tagApdu]

theorem tables_tagReadLock (bb mac d) : tables (tagReadLock bb mac d) = tables d := by
  simp only [tagReadLock, tables_tagApdu]

theorem tables_tagReadCounter (cc d) : tables (tagReadCounter cc d) = tables d := by
  simp only [tagReadCounter, tables_tagApdu]

theorem tables_tagGetChallenge (d) : tables (tagGetChallenge d) = tables d := by
  simp only [tagGetChallenge, tables_tagApdu]

theorem tables_tagWriteBlock (bb data mac d) : tables (tagWriteBlock bb data mac d) = tables d := by
  simp only [tagWriteBlock, tables_tagApdu]

theorem tables_tagIncCounter (cc amount mac d) : tables (tagIncCounter cc amount mac d) = tables d := by
  simp only [tagIncCounter, tables_tagApdu]

theorem tables_tagRelease (bb d) : tables (tagRelease bb d) = tables d := by
  simp only [tagRelease, tables_tagApdu]

theorem tables_tagVerdict (st d) : tables (tagVerdict st d) = tables d := by
  unfold tagVerdict
  split <;> simp only [tables_ite, ite_self, tables_rgAdd, tables_onTag, tables_tagAnswer]

theorem tables_tagDone (d m st sub pass) : tables (tagDone d m st sub pass) = tables d := by
  simp only [tagDone, tables_cmdDone]

theorem tables_tagDataSet (d m pass ws) : tables (tagDataSet d m pass ws) = tables d := by
  simp only [tagDataSet, tables_onTag]

theorem tables_tagDataEdge (d) : tables (tagDataEdge d) = tables d := by
  simp only [tagDataEdge, tables_foldl, implies_true, tables_pvSet, tables_onTag]

theorem tables_wiredRun (d m a verify pass) : tables (wiredRun d m a verify pass) = tables d := by
  simp only [wiredRun, tables_ite, tables_tagDone]
  repeat' split
  all_goals simp only [tables_tagWrite, tables_tagDone, tables_tagDataSet]

theorem tables_airRun (d a verify) : tables (airRun d a verify) = tables d := by
  simp only [airRun, tables_ite, ite_self, tables_onTag, tables_tagReadAnswer]
  repeat' split
  all_goals simp only [tables_tagWrite, tables_tagAnswer]

theorem tables_tagTake (d a) : tables (tagTake d a) = tables d := by
  simp only [tagTake, tables_onTag]

theorem tables_tagAccess (verify pass d) : tables (tagAccess verify pass d) = tables d := by
  unfold tagAccess
  repeat' split
  all_goals simp only [tables_wiredRun, tables_airRun, tables_tagTake]

theorem tables_tagDrain (n : ℕ) (d : Dev) : tables (tagDrain n d) = tables d := by
  induction n generalizing d with
  | zero => rfl
  | succ n ih => simp only [tagDrain, tables_ite, ih, tables_tagAccess, ite_self]

theorem tables_accessCut (a how d) : tables (accessCut a how d) = tables d := by
  simp only [accessCut, tables_ite, ite_self, tables_tagCut]

theorem tables_tagCollapse (how d) : tables (tagCollapse how d) = tables d := by
  unfold tagCollapse
  repeat' split
  all_goals simp only [tables_cmdSet, tables_tagEnd, tables_tagTake, tables_accessCut]

theorem tables_tagCmd (m action idx amount d) : tables (tagCmd m action idx amount d) = tables d := by
  simp only [tagCmd, tables_ite, ite_self, tables_cmdStart, tables_cmdDone, tables_onTag]

theorem tables_tagRefusedEdge (d) : tables (tagRefusedEdge d) = tables d := by
  simp only [tagRefusedEdge, tables_foldl, implies_true, tables_cmdDone, tables_onTag]

theorem tables_wiredReadBlock (m idx d) : tables (wiredReadBlock m idx d) = tables d := by
  simp only [wiredReadBlock, tables_tagCmd]

theorem tables_wiredWriteBlock (m idx d) : tables (wiredWriteBlock m idx d) = tables d := by
  simp only [wiredWriteBlock, tables_tagCmd]

theorem tables_wiredReadCounter (m idx d) : tables (wiredReadCounter m idx d) = tables d := by
  simp only [wiredReadCounter, tables_tagCmd]

theorem tables_wiredIncCounter (m idx amount d) : tables (wiredIncCounter m idx amount d) = tables d := by
  simp only [wiredIncCounter, tables_tagCmd]

theorem tables_challengeReceive (c d) : tables (challengeReceive c d) = tables d := by
  simp only [challengeReceive, tables_ite, ite_self, tables_onTag]

theorem tables_challengeWipe (d) : tables (challengeWipe d) = tables d := by
  simp only [challengeWipe, tables_onTag]

theorem tables_challengeSend (d) : tables (challengeSend d) = tables d := by
  simp only [challengeSend, tables_ite, ite_self, tables_hwDraw, tables_queueBarge]

theorem tables_tagFieldReset (d) : tables (tagFieldReset d) = tables d := by
  unfold tagFieldReset
  split <;> simp only [tables_foldl, implies_true, tables_drawWord, tables_cmdSet, tables_onTag, tables_accessCut]

theorem tables_supplyLost (high d) : tables (supplyLost high d) = tables d := by
  simp only [supplyLost, tables_supplyFault, tables_tagFieldReset]

theorem tables_tagWaitLost (d) : tables (tagWaitLost d) = tables d := by
  simp only [tagWaitLost, tables_ite, ite_self, tables_onTag, tables_tagAnswer]

theorem tables_onLkg (d f) : tables (onLkg d f) = tables d := (rfl)

theorem tables_lkgLost (field d) : tables (lkgLost field d) = tables d := by
  simp only [lkgLost, tables_rgAdd]

theorem tables_rotMove (toField lane q d) : tables (rotMove toField lane q d) = tables d := by
  simp only [rotMove, tables_ite, ite_self, tables_onLkg]

theorem tables_ringAdvance (m base k n d) : tables (ringAdvance m base k n d) = tables d := by
  simp only [ringAdvance, tables_rgSet]

theorem tables_txHead (m d) : tables (txHead m d) = tables d := by
  simp only [txHead, tables_ite, ite_self, tables_rgSet]

theorem tables_putOnWire (d b) : tables (putOnWire d b) = tables d := by
  simp only [putOnWire, tables_bwAdd, tables_onLkg]

theorem tables_bargeSend (toField lane d) : tables (bargeSend toField lane d) = tables d := by
  unfold bargeSend
  repeat' split
  all_goals simp only [tables_ite, ite_self, tables_foldl, implies_true, tables_debit, tables_answered, tables_onLkg, tables_lkgLost, tables_rotMove,
    tables_txHead, tables_putOnWire]

theorem tables_txRefuse (m d) : tables (txRefuse m d) = tables d := by
  simp only [txRefuse, tables_pvSet]

theorem tables_txPair (m b d) : tables (txPair m b d) = tables d := by
  simp only [txPair]
  split <;> simp only [tables_ite, ite_self, tables_onLkg, tables_txRefuse]

theorem tables_txEntry (m d pos) : tables (txEntry m d pos) = tables d := by
  simp only [txEntry]
  split <;> simp only [tables_ite, ite_self, tables_mpuRecord, tables_queueBarge, tables_txRefuse, tables_txPair]

theorem tables_txqTailWrite (m v d) : tables (txqTailWrite m v d) = tables d := by
  simp only [txqTailWrite, tables_ite, ite_self, tables_foldl, implies_true, tables_rgSet, tables_txHead, tables_txEntry]

theorem tables_rxWait (b d) : tables (rxWait b d) = tables d := by
  simp only [rxWait, tables_ite, ite_self, tables_rgAdd, tables_onLkg]

theorem tables_rxRefused (b d) : tables (rxRefused b d) = tables d := by
  simp only [rxRefused]
  repeat' split
  all_goals simp only [tables_mpuRecord]

theorem tables_txDetach (m d) : tables (txDetach m d) = tables d := by
  simp only [txDetach, tables_foldl, implies_true, tables_onLkg]

theorem tables_kPushes (d) : tables (kPushes d) = tables d := by
  simp only [kPushes, tables_foldl, implies_true, tables_queueBarge]

theorem tables_calJudge (d) : tables (calJudge d) = tables d := by
  simp only [calJudge, tables_ite, ite_self, tables_foldl, implies_true, tables_chainSet, tables_engSet]

theorem tables_calEntry (d e) : tables (calEntry d e) = tables d := by
  simp only [calEntry, tables_ite, ite_self, tables_with, tables_rgSet]

theorem tables_configPushIn (b d) : tables (configPushIn b d) = tables d := by
  simp only [configPushIn, tables_ite, ite_self, tables_foldl, implies_true, tables_with, tables_queueBarge, tables_calJudge, tables_calEntry]

theorem tables_configAckIn (b d) : tables (configAckIn b d) = tables d := by
  simp only [configAckIn, tables_ite, ite_self, tables_with]

theorem tables_drawFillIn (b d) : tables (drawFillIn b d) = tables d := by
  simp only [drawFillIn, tables_ite, ite_self, tables_onHop]

theorem tables_replayInputIn (b d) : tables (replayInputIn b d) = tables d := by
  simp only [replayInputIn, tables_ite, ite_self, tables_with, tables_lkgLost]

theorem tables_replayLogIn (b d) : tables (replayLogIn b d) = tables d := (rfl)

theorem tables_coreStopIn (b d) : tables (coreStopIn b d) = tables d := by
  simp only [coreStopIn, tables_pushInput]

theorem tables_challengeIn (b d) : tables (challengeIn b d) = tables d := by
  simp only [challengeIn, tables_challengeReceive]

theorem tables_integFail (b hdrOk d) : tables (integFail b hdrOk d) = tables d := by
  simp only [integFail, tables_ite, ite_self, tables_foldl, implies_true, tables_rgAdd, tables_tamperEvent, tables_queueBarge, tables_onLkg]

theorem tables_lkgReset (d) : tables (lkgReset d) = tables d := by
  simp only [lkgReset, tables_foldl, implies_true, tables_with, tables_rgAdd, tables_tagWaitLost, tables_txHead]

theorem tables_coreSet (d m c) : tables (coreSet d m c) = tables d := (rfl)

theorem tables_onCore (d m f) : tables (onCore d m f) = tables d := by
  simp only [onCore, tables_coreSet]

theorem tables_mbxSet (d c x) : tables (mbxSet d c x) = tables d := (rfl)

theorem tables_mbxDenied (d) : tables (mbxDenied d) = tables d := by
  simp only [mbxDenied, tables_rgAdd]

theorem tables_mbxPut (c msg d) : tables (mbxPut c msg d) = tables d := by
  simp only [mbxPut, tables_ite, ite_self, tables_with, tables_pushInput, tables_mbxSet]

theorem tables_mbxSend (m c d) : tables (mbxSend m c d) = tables d := by
  simp only [mbxSend, tables_ite, ite_self, tables_mbxDenied, tables_mbxPut]

theorem tables_mbxAck (m c seq d) : tables (mbxAck m c seq d) = tables d := by
  simp only [mbxAck, tables_ite, ite_self, tables_mbxSet, tables_mbxDenied]

theorem tables_mbxArrival (c msg d) : tables (mbxArrival c msg d) = tables d := by
  simp only [mbxArrival, tables_ite, ite_self, tables_mbxDenied, tables_mbxPut]

theorem tables_mbxGone (m d) : tables (mbxGone m d) = tables d := by
  simp only [mbxGone, tables_ite, ite_self, tables_foldl, implies_true, tables_mbxSet]

theorem tables_planeSet (d p x) : tables (planeSet d p x) = tables d := (rfl)

theorem tables_flsCmd (m pl action d) : tables (flsCmd m pl action d) = tables d := by
  simp only [flsCmd, tables_ite, ite_self, tables_cmdIssue]

theorem tables_tornRecord (last d p) : tables (tornRecord last d p) = tables d := by
  simp only [tornRecord, tables_drawOct, tables_planeSet]

theorem tables_flsRun (d o next) : tables (flsRun d o next) = tables d := by
  simp only [flsRun, tables_ite, tables_setOp, tables_planeSet, ite_self]

theorem tables_resumeErase (p d) : tables (resumeErase p d) = tables d := by
  unfold resumeErase
  dsimp only
  split <;> simp only [tables_setOp, tables_planeSet]

theorem tables_takeCur (p d) : tables (takeCur p d) = tables d := by
  simp only [takeCur, tables_ite, ite_self, tables_planeSet, tables_resumeErase]

theorem tables_tornPage (d p t b g) : tables (tornPage d p t b g).1 = tables d := by
  simp only [tornPage]
  split <;> simp only [tables_drawOct]

theorem tables_tornBlock (d t b) : tables (tornBlock d t b).1 = tables d := by
  unfold tornBlock
  refine tables_foldl_fst (fun s e => ?_) _ (d, t)
  exact tables_drawOct s.1 pageSize

theorem tables_cutOp (p o d) : tables (cutOp p o d) = tables d := by
  simp only [cutOp, tables_ite, ite_self, tables_planeSet, tables_tornRecord, tables_tornPage, tables_tornBlock]
  split <;> simp only [tables_drawWord]

theorem tables_flsWcc {d o wcc e} (h : flsWcc d o wcc = some e) : tables e = tables d := by
  unfold flsWcc at h
  obtain ⟨-, h⟩ := Option.ite_none_right_eq_some.mp h
  exact tables_opWcc h

theorem tables_xipWrite (m pl v d) : tables (xipWrite m pl v d) = tables d := by
  simp only [xipWrite, tables_ite, ite_self, tables_rgSet]

theorem tables_leavePlane (d o) : tables (leavePlane d o) = tables d := by
  simp only [leavePlane, tables_ite, ite_self, tables_planeSet, tables_takeCur, tables_cutOp]

theorem tables_flsHostReset (d) : tables (flsHostReset d) = tables d := by
  simp only [flsHostReset, tables_ite, ite_self, tables_foldl, implies_true, tables_with, tables_planeSet, tables_resumeErase]

theorem tables_flsCutPlane (d p) : tables (flsCutPlane d p) = tables d := by
  simp only [flsCutPlane, tables_foldl, implies_true, tables_planeSet, tables_cutOp]

theorem tables_flsCut (d) : tables (flsCut d) = tables d := by
  simp only [flsCut, tables_foldl, implies_true, tables_flsCutPlane]

theorem tables_flsRelease (d) : tables (flsRelease d) = tables d := by
  refine tables_foldl (fun d p => ?_) _ d
  dsimp only
  split <;> simp only [tables_rgSet, tables_rgAdd, tables_planeSet]

theorem tables_onSdh (d f) : tables (onSdh d f) = tables d := (rfl)

theorem tables_sdSlotSet (d s x) : tables (sdSlotSet d s x) = tables d := by
  simp only [sdSlotSet, tables_onSdh]

theorem tables_prevMac (d) : tables (prevMac d).2 = tables d := by
  unfold prevMac
  split <;> simp only [tables_drawOct]

theorem tables_sealWith (kind origin prev body d) : tables (sealWith kind origin prev body d).2 = tables d := by
  simp only [sealWith, tables_moncInc, tables_onSdh]

theorem tables_sdhSeal (kind origin body d) : tables (sdhSeal kind origin body d).2 = tables d := by
  simp only [sdhSeal, tables_prevMac, tables_sealWith]

theorem tables_bufAdd (r d) : tables (bufAdd r d) = tables d := by
  simp only [bufAdd, tables_onSdh]

theorem tables_restartRecord (s d) : tables (restartRecord s d) = tables d := by
  simp only [restartRecord, tables_ite, ite_self, tables_with, tables_onSdh, tables_sdSlotSet, tables_sealWith]

theorem tables_dropFirst (d) : tables (dropFirst d) = tables d := by
  unfold dropFirst
  split <;> simp only [tables_onSdh]

theorem tables_noteWritten (seq d) : tables (noteWritten seq d) = tables d := by
  simp only [noteWritten, tables_onSdh]

theorem tables_classify (s d) : tables (classify s d) = tables d := by
  simp only [classify, tables_ite, tables_sdSlotSet, tables_restartRecord]
  repeat' split
  all_goals simp only [tables_sdSlotSet, tables_dropFirst, tables_noteWritten]

theorem tables_cardInsert (s d) : tables (cardInsert s d) = tables d := by
  simp only [cardInsert, tables_ite, ite_self, tables_sdSlotSet]

theorem tables_cardIdentify (s c d) : tables (cardIdentify s c d) = tables d := by
  simp only [cardIdentify, tables_ite, ite_self, tables_sdSlotSet, tables_classify]

theorem tables_identExpire (s d) : tables (identExpire s d) = tables d := by
  simp only [identExpire, tables_ite, ite_self, tables_sdSlotSet]

theorem tables_spareAdd (r d) : tables (spareAdd r d) = tables d := by
  simp only [spareAdd, tables_onSdh]

theorem tables_dropSpecial (s d) : tables (dropSpecial s d) = tables d := by
  simp only [dropSpecial]
  repeat' split
  all_goals simp only [tables_onSdh, tables_sdSlotSet, tables_spareAdd]

theorem tables_writeReport (s st sub d) : tables (writeReport s st sub d) = tables d := by
  simp only [writeReport, tables_pushInput]

theorem tables_spendBlock (s d) : tables (spendBlock s d) = tables d := by
  simp only [spendBlock, tables_sdSlotSet]

theorem tables_startOpen (s d) : tables (startOpen s d) = tables d := by
  simp only [startOpen, tables_onSdh, tables_sdSlotSet, tables_sdhSeal]

theorem tables_startClose (s d) : tables (startClose s d) = tables d := by
  simp only [startClose, tables_onSdh, tables_sdhSeal]

theorem tables_markWrite (s d) : tables (markWrite s d) = tables d := by
  simp only [markWrite, tables_sdSlotSet]

theorem tables_chooseWriter (d) : tables (chooseWriter d) = tables d := by
  simp only [chooseWriter, tables_ite]
  repeat' split
  all_goals simp only [tables_onSdh, tables_startOpen]

theorem tables_closeLast (d) : tables (closeLast d) = tables d := by
  unfold closeLast
  split <;> simp only [tables_ite, ite_self, tables_startClose]

theorem tables_sdhEdge (d) : tables (sdhEdge d) = tables d := by
  simp only [sdhEdge, tables_foldl, implies_true, tables_restartRecord, tables_identExpire, tables_markWrite, tables_chooseWriter, tables_closeLast]

theorem tables_sdhCmd (m pl action d wcc) : tables (sdhCmd m pl action d wcc) = tables d := by
  simp only [sdhCmd, tables_ite, ite_self, tables_cmdIssue]

theorem tables_noteSeq (m seq d) : tables (noteSeq m seq d) = tables d := by
  simp only [noteSeq, tables_onSdh]

theorem tables_sdhOpen (d) : tables (sdhOpen d) = tables d := by
  simp only [sdhOpen, tables_ite, ite_self, tables_foldl, implies_true, tables_onSdh, tables_classify]

theorem tables_sdhReset (keep d) : tables (sdhReset keep d) = tables d := by
  simp only [sdhReset, tables_onSdh]

theorem tables_ofcIfSet (d i x) : tables (ofcIfSet d i x) = tables d := (rfl)

theorem tables_ofcCmd (m pl action i d) : tables (ofcCmd m pl action i d) = tables d := by
  simp only [ofcCmd, tables_ite, ite_self, tables_cmdIssue]

theorem tables_endSession (i d) : tables (endSession i d) = tables d := by
  simp only [endSession, tables_ite, ite_self, tables_ofcIfSet]

theorem tables_ofcOff (i present d) : tables (ofcOff i present d) = tables d := by
  simp only [ofcOff, tables_ofcIfSet]

theorem tables_sessionExpiry (i d) : tables (sessionExpiry i d) = tables d := by
  simp only [sessionExpiry, tables_ite, ite_self, tables_endSession]

theorem tables_ofcSigned (i sig d) : tables (ofcSigned i sig d) = tables d := by
  simp only [ofcSigned, tables_addOp, tables_ofcIfSet]

theorem tables_ofcHold (d) : tables (ofcHold d) = tables d := by
  simp only [ofcHold, tables_ite, ite_self, tables_foldl, implies_true, tables_ofcIfSet, tables_ofcOff]

theorem tables_ofcReset (d) : tables (ofcReset d) = tables d := by
  simp only [ofcReset, tables_foldl, implies_true, tables_ofcOff]

theorem tables_endSessions (d) : tables (endSessions d) = tables d := by
  simp only [endSessions, tables_foldl, implies_true, tables_endSession]

theorem tables_rosterOpen (d) : tables (rosterOpen d) = tables d := by
  simp only [rosterOpen, tables_ite, ite_self, tables_foldl, implies_true, tables_with, tables_rgSet, tables_ladderWrite, tables_endSession]
  repeat' split
  all_goals simp only [tables_with, tables_rgSet, tables_ladderWrite]

theorem tables_onLife (d f) : tables (onLife d f) = tables d := (rfl)

theorem tables_ladder (d) : tables (ladder d) = tables d := by
  simp only [ladder, tables_onLife]

theorem tables_endTowpath (d) : tables (endTowpath d) = tables d := by
  simp only [endTowpath, tables_ite, ite_self, tables_rawEnd, tables_onLife]

theorem tables_revote (d) : tables (revote d) = tables d := by
  simp only [revote, tables_ite, ite_self, tables_tamperClear, tables_onLife, tables_ladder, tables_endTowpath]

theorem tables_sessionOpen (d) : tables (sessionOpen d) = tables d := by
  unfold sessionOpen
  split <;> simp only [tables_ite, ite_self, tables_rgAdd, tables_onLife]

theorem tables_setShadow (d f t s) : tables (setShadow d f t s) = tables d := (rfl)

theorem tables_startTransition (goal d) : tables (startTransition goal d) = tables d := by
  simp only [startTransition, tables_rawEnd, tables_onLife, tables_endTowpath, tables_setShadow]

theorem tables_endTransition (d) : tables (endTransition d) = tables d := by
  simp only [endTransition, tables_onLife, tables_setShadow]

theorem tables_blowWord (i d) : tables (blowWord i d) = tables d := by
  simp only [blowWord, tables_onLife, tables_revote]

theorem tables_rootTorn (d) : tables (rootTorn d) = tables d := by
  simp only [rootTorn, tables_drawOct, tables_onLife]

theorem tables_toScrap (d) : tables (toScrap d) = tables d := by
  simp only [toScrap, tables_onLife, tables_setShadow]

theorem tables_sideWrite (d) : tables (sideWrite d) = tables d := by
  simp only [sideWrite, tables_ite, ite_self, tables_ladderWrite, tables_hwDraw, tables_onLife]

theorem tables_rowStop (d) : tables (rowStop d) = tables d := by
  simp only [rowStop, tables_onLife]

theorem tables_rootFail (d) : tables (rootFail d) = tables d := by
  simp only [rootFail, tables_ite, ite_self, tables_onLife, tables_toScrap]

theorem tables_fuseRowWrite (ok d) : tables (fuseRowWrite ok d) = tables d := by
  simp only [fuseRowWrite, tables_ite, ite_self, tables_onLife, tables_setShadow, tables_endTransition, tables_blowWord, tables_rootTorn, tables_sideWrite,
    tables_rowStop, tables_rootFail]

theorem tables_lifeOpen (d) : tables (lifeOpen d) = tables d := by
  simp only [lifeOpen, tables_ite, ite_self, tables_rgSet, tables_startTransition]

theorem tables_issueChallenge (purpose d) : tables (issueChallenge purpose d) = tables d := by
  simp only [issueChallenge, tables_hwDraw, tables_moncInc, tables_onLife]

theorem tables_challengeExpiry (d) : tables (challengeExpiry d) = tables d := by
  unfold challengeExpiry
  split <;> simp only [tables_ite, ite_self, tables_onLife]

theorem tables_verifyResponse (r d) : tables (verifyResponse r d).2 = tables d := by
  unfold verifyResponse
  split <;> simp only [tables_ite, ite_self, tables_rgAdd, tables_tamperEvent, tables_onLife]

theorem tables_lcsCmd (m action d) : tables (lcsCmd m action d) = tables d := by
  simp only [lcsCmd, tables_ite, ite_self, tables_cmdIssue]

theorem tables_tapChallenge (d) : tables (tapChallenge d) = tables d := by
  simp only [tapChallenge, tables_ite, ite_self, tables_onLife, tables_issueChallenge]

theorem tables_lifeEdge (d) : tables (lifeEdge d) = tables d := by
  simp only [lifeEdge]
  split <;> simp only [tables_ite, ite_self, tables_sessionOpen, tables_startTransition, tables_challengeExpiry, tables_tapChallenge]

theorem tables_tapSelect (ir dr d) : tables (tapSelect ir dr d) = tables d := by
  simp only [tapSelect, tables_onLife]

theorem tables_tapBypass (d) : tables (tapBypass d) = tables d := by
  simp only [tapBypass, tables_tapSelect]

theorem tables_tapExtest (rstn pins shift d) : tables (tapExtest rstn pins shift d) = tables d := by
  simp only [tapExtest, tables_ite, ite_self, tables_onLife, tables_tapBypass]

theorem tables_tapIdcode (d) : tables (tapIdcode d) = tables d := by
  simp only [tapIdcode, tables_tapSelect]

theorem tables_tapSample (pins shift d) : tables (tapSample pins shift d) = tables d := by
  simp only [tapSample, tables_onLife]

theorem tables_tapAuth (resp d) : tables (tapAuth resp d) = tables d := by
  unfold tapAuth
  repeat' split
  all_goals simp only [tables_verifyResponse, tables_tapChallenge, tables_tapSelect, tables_tapBypass]

theorem tables_tapDebug (d) : tables (tapDebug d) = tables d := by
  simp only [tapDebug, tables_ite, ite_self, tables_tamperEvent, tables_tapSelect, tables_tapBypass]

theorem tables_tapReset (d) : tables (tapReset d) = tables d := by
  simp only [tapReset, tables_tapIdcode]

theorem tables_lifeReset (d) : tables (lifeReset d) = tables d := by
  simp only [lifeReset, tables_ite, ite_self, tables_onLife, tables_endTowpath, tables_rootTorn]

theorem tables_pmuSet (d m x) : tables (pmuSet d m x) = tables d := (rfl)

theorem tables_pmuStore (d m lo v) : tables (pmuStore d m lo v) = tables d := by
  simp only [pmuStore, tables_rgSet]

theorem tables_pmuStart (m was d) : tables (pmuStart m was d) = tables d := by
  simp only [pmuStart, tables_ite, ite_self, tables_pmuSet]

theorem tables_pmuSettle (m lo d) : tables (pmuSettle m lo d) = tables d := by
  simp only [pmuSettle, tables_ite, ite_self, tables_rgSet, tables_drawWord, tables_pmuSet]

theorem tables_pmuAdvance (m lo ovf n d) : tables (pmuAdvance m lo ovf n d) = tables d := by
  simp only [pmuAdvance, tables_ite, ite_self, tables_rgOr, tables_pmuStore]

theorem tables_pmuEvents (m pl codes d) : tables (pmuEvents m pl codes d) = tables d := by
  simp only [pmuEvents, tables_ite, ite_self, tables_foldl, implies_true, tables_pmuAdvance]

theorem tables_pmuRetire (m pl codes d) : tables (pmuRetire m pl codes d) = tables d := by
  simp only [pmuRetire, tables_ite, ite_self, tables_pmuAdvance, tables_pmuEvents]

theorem tables_pmuOverflow (m i d) : tables (pmuOverflow m i d) = tables d := by
  simp only [pmuOverflow, tables_ite, ite_self, tables_rgOr, tables_pmuSet, tables_pmuStore]

theorem tables_pmuClear (m d) : tables (pmuClear m d) = tables d := by
  simp only [pmuClear, tables_ite, ite_self, tables_foldl, implies_true, tables_pmuSet, tables_pmuStore]

theorem tables_pmuWrite (m pl a v d) : tables (pmuWrite m pl a v d) = tables d := by
  unfold pmuWrite
  split <;> simp only [tables_ite, ite_self, tables_rgSet, tables_pmuStart, tables_pmuSettle, tables_pmuClear]

theorem tables_pmuClearWrite (m pl g d) : tables (pmuClearWrite m pl g d) = tables d := by
  simp only [pmuClearWrite, tables_pmuWrite]

theorem tables_sampleTag (m d) : tables (sampleTag m d) = tables d := by
  simp only [sampleTag, tables_ite, ite_self, tables_pmuSet]

theorem tables_sampleRecord (m i d) : tables (sampleRecord m i d) = tables d := by
  simp only [sampleRecord, tables_ite, ite_self, tables_rgOr, tables_pmuSet]

theorem tables_sampleData (g d) : tables (sampleData g d).2 = tables d := by
  simp only [sampleData]
  split <;> simp only [tables_pmuSet]

theorem tables_pmuSmpRead (m g d) : tables (pmuSmpRead m g d) = tables d := by
  simp only [pmuSmpRead, tables_rdSet, tables_sampleData]

theorem tables_pmuRead (g k d) : tables (pmuRead g k d).2 = tables d := by
  simp only [pmuRead]
  repeat' split
  all_goals simp only [tables_drawWord, tables_pmuSettle]

theorem tables_pmuReset (m d) : tables (pmuReset m d) = tables d := (rfl)

theorem tables_bwClose (counts e) : tables (bwClose counts e) = tables e := by
  simp only [bwClose, tables_ite, ite_self, tables_foldl, implies_true, tables_with, tables_rgSet]

theorem tables_bwClear (d) : tables (bwClear d) = tables d := by
  simp only [bwClear, tables_foldl, implies_true, tables_rgSet]

theorem tables_onRpl (d f) : tables (onRpl d f) = tables d := (rfl)

theorem tables_sectSet (d m s) : tables (sectSet d m s) = tables d := by
  simp only [sectSet, tables_onRpl]

theorem tables_rplItem (m kind words d) : tables (rplItem m kind words d) = tables d := by
  simp only [rplItem, tables_ite, ite_self, tables_sectSet]

theorem tables_rplOut (m ws d) : tables (rplOut m ws d) = tables d := by
  simp only [rplOut, tables_ite, ite_self, tables_sectSet]

theorem tables_sectOpen (d m) : tables (sectOpen d m) = tables d := by
  simp only [sectOpen, tables_sectSet]

theorem tables_rplSnap (pass d) : tables (rplSnap pass d) = tables d := by
  simp only [rplSnap, tables_ite, ite_self, tables_foldl, implies_true, tables_onRpl, tables_sectOpen]

theorem tables_rplSnapField (pass d) : tables (rplSnapField pass d) = tables d := by
  simp only [rplSnapField, tables_ite, ite_self, tables_foldl, implies_true, tables_queueBarge, tables_onRpl, tables_sectOpen]

theorem tables_stagePut (o d) : tables (stagePut o d) = tables d := by
  simp only [stagePut, tables_onRpl]

theorem tables_rplWipe (d) : tables (rplWipe d) = tables d := by
  simp only [rplWipe, tables_ite, ite_self, tables_onRpl]

theorem tables_segStart (field d) : tables (segStart field d) = tables d := by
  simp only [segStart, tables_ite, ite_self, tables_foldl, implies_true, tables_onRpl, tables_sectSet]

theorem tables_stagePrune (d) : tables (stagePrune d) = tables d := by
  simp only [stagePrune, tables_onRpl]

theorem tables_cardFragment {d e} (h : cardFragment d = some e) : tables e = tables d := by
  unfold cardFragment at h
  repeat' split at h
  all_goals cases h
  all_goals simp only [tables_debit, tables_sdhSeal, tables_bufAdd, tables_onRpl, tables_stagePrune]

theorem tables_cardFragments (n : ℕ) (d : Dev) : tables (cardFragments n d) = tables d := by
  induction n generalizing d with
  | zero => rfl
  | succ n ih =>
    unfold cardFragments
    split
    · next he => rw [ih, tables_cardFragment he]
    · rfl

theorem tables_releaseOpen (d) : tables (releaseOpen d) = tables d := by
  simp only [releaseOpen, tables_ite, tables_onRpl]
  repeat' split
  all_goals simp only [tables_foldl, implies_true, tables_rgSet, tables_hwDraw, tables_onRpl]

theorem tables_pendSet (m vec d) : tables (pendSet m vec d) = tables d := by
  simp only [pendSet, tables_onCore]

theorem tables_coreStart (m pc d) : tables (coreStart m pc d) = tables d := by
  simp only [coreStart, tables_coreSet, tables_rplItem]

theorem tables_clearCounts (d) : tables (clearCounts d) = tables d := by
  unfold clearCounts
  dsimp only
  rw [tables_with, tables_foldl (fun _ _ => tables_rgSet ..)]

theorem tables_noteReset (lvl src core fresh d) : tables (noteReset lvl src core fresh d) = tables d := (rfl)

theorem tables_coreGo (m core d) : tables (coreGo m core d) = tables d := by
  simp only [coreGo, tables_ite, ite_self, tables_coreStart]

theorem tables_fieldCoreRelease (core d) : tables (fieldCoreRelease core d) = tables d := by
  simp only [fieldCoreRelease, tables_ite, ite_self, tables_coreStart]

theorem tables_stopClr (m v d) : tables (stopClr m v d) = tables d := by
  simp only [stopClr, tables_ite, ite_self, tables_foldl, implies_true, tables_rgSet]

theorem tables_moncWrite (m pl i d) : tables (moncWrite m pl i d) = tables d := by
  simp only [moncWrite, tables_ite, ite_self, tables_moncInc]

theorem tables_onTmp (d f) : tables (onTmp d f) = tables d := (rfl)

theorem tables_tmpLog (src resp subsumed deferred applied power pass d) :
    tables (tmpLog src resp subsumed deferred applied power pass d) = tables d := by
  simp only [tmpLog, tables_drawWord, tables_moncInc, tables_onTmp]

theorem tables_dropSaFrames (d) : tables (dropSaFrames d) = tables d := by
  simp only [dropSaFrames, tables_foldl, implies_true, tables_setStream, tables_cntAdd]

theorem tables_holdLatch (cause d) : tables (holdLatch cause d) = tables d := by
  simp only [holdLatch, tables_with, tables_moncInc, tables_onTmp]

theorem tables_takeBack {d o e} (h : takeBack d o = some e) : tables e = tables d := by
  simp only [takeBack] at h
  repeat' split at h
  all_goals cases h
  all_goals simp only [tables_with]

theorem tables_raiseTamper (d) : tables (raiseTamper d) = tables d := by
  simp only [raiseTamper, tables_onTmp]

theorem tables_tmpEdge (d) : tables (tmpEdge d) = tables d := by
  simp only [tmpEdge, tables_ite, ite_self, tables_foldl, implies_true, tables_countDecay, tables_fireVec, tables_pendSet, tables_onTmp]

theorem tables_cellFired (d s) : tables (cellFired d s) = tables d := by
  simp only [cellFired, tables_ite, ite_self, tables_tmpLog, tables_holdLatch]

theorem tables_keepSample (found d) : tables (keepSample found d) = tables d := by
  simp only [keepSample, tables_ite, ite_self, tables_foldl, implies_true, tables_tmpAssert, tables_tamperClear, tables_onTmp, tables_cellFired]

theorem tables_rootJudge (d) : tables (rootJudge d) = tables d := by
  simp only [rootJudge, tables_ite, ite_self, tables_onLife]

theorem tables_resumeWords (bad l : List ℕ) (d : Dev) : tables (resumeWords bad l d) = tables d := by
  induction l generalizing d with
  | nil => exact tables_endTransition d
  | cons s r ih => simp only [resumeWords, tables_ite, ih, tables_rowStop, tables_blowWord, tables_setShadow, ite_self]

theorem tables_resumeSide (bad d) : tables (resumeSide bad d) = tables d := by
  simp only [resumeSide, tables_ite, ite_self, tables_onLife, tables_setShadow, tables_toScrap, tables_sideWrite, tables_rowStop, tables_rootJudge,
    tables_resumeWords]

theorem tables_resume (bad d) : tables (resume bad d) = tables d := by
  simp only [resume, tables_ite, ite_self, tables_onLife, tables_resumeWords, tables_resumeSide]

theorem tables_repairWords (d) : tables (repairWords d) = tables d := by
  simp only [repairWords, tables_ite, ite_self, tables_tamperEvent, tables_tamperClear, tables_onLife]

theorem tables_setEntries (p d) : tables (setEntries p d) = tables d := by
  simp only [setEntries, tables_foldl, implies_true, tables_rgSet]

theorem tables_svnBlow (d) : tables (svnBlow d) = tables d := by
  simp only [svnBlow, tables_ite, ite_self, tables_onLife]

theorem tables_recipeLoad (d) : tables (recipeLoad d) = tables d := by
  simp only [recipeLoad, tables_ite, ite_self, tables_with, tables_rgSet, tables_cmdIssue, tables_onLife]

theorem tables_fieldSend (d) : tables (fieldSend d) = tables d := by
  simp only [fieldSend, tables_ite, ite_self, tables_foldl, implies_true, tables_with, tables_queueBarge, tables_kPushes]

theorem tables_lockkeeper (d) : tables (lockkeeper d) = tables d := by
  simp only [lockkeeper, tables_ite, ite_self, tables_recipeLoad, tables_fieldSend]

theorem tables_rsectSet (d m s) : tables (rsectSet d m s) = tables d := by
  simp only [rsectSet, tables_onRpl]

theorem tables_diverge (m kind d) : tables (diverge m kind d) = tables d := by
  simp only [diverge, tables_ite, ite_self, tables_foldl, implies_true, tables_rgSet, tables_onCore, tables_onRpl]

theorem tables_benchStore (m full a v d) : tables (benchStore m full a v d) = tables d := by
  unfold benchStore
  split <;> simp only [tables_ite, ite_self, tables_rgSet, tables_onRpl, tables_rsectSet]

theorem tables_popItem (d m) : tables (popItem d m) = tables d := by
  simp only [popItem, tables_rsectSet]

theorem tables_benchRead (m kind key d) : tables (benchRead m kind key d).2 = tables d := by
  unfold benchRead
  repeat' split
  all_goals simp only [tables_diverge, tables_popItem]

theorem tables_partAccept (kind idx action reason d) : tables (partAccept kind idx action reason d) = tables d := by
  simp only [partAccept, tables_ite, ite_self, tables_with, tables_queueBarge]

theorem tables_partReq (m pl kind idx action reason d) : tables (partReq m pl kind idx action reason d) = tables d := by
  simp only [partReq, tables_ite, ite_self, tables_with, tables_partAccept]

theorem tables_leaveLane (kind idx fence d) : tables (leaveLane kind idx fence d) = tables d := by
  simp only [leaveLane, tables_ite, ite_self, tables_rebindFrom, tables_moveStreams]

theorem tables_showPart (q d) : tables (showPart q d) = tables d := (rfl)

theorem tables_drainComplete (d) : tables (drainComplete d) = tables d := (rfl)

theorem tables_refreshFlight (f d) : tables (refreshFlight f d) = tables d := by
  simp only [refreshFlight, tables_foldl, implies_true, tables_portJudge]

theorem tables_fieldPart (q d) : tables (fieldPart q d) = tables d := by
  simp only [fieldPart, tables_ite, ite_self, tables_foldl, implies_true, tables_setPart, tables_dropBase, tables_refreshFlight]

theorem tables_fieldMaint (d u) : tables (fieldMaint d u) = tables d := by
  simp only [fieldMaint, tables_ite, ite_self, tables_setPart, tables_queueBarge, tables_refreshFlight]

theorem tables_fieldParts (d) : tables (fieldParts d) = tables d := by
  simp only [fieldParts, tables_foldl, implies_true, tables_with, tables_fieldPart, tables_fieldMaint]

theorem tables_showReported (d) : tables (showReported d) = tables d := (rfl)

theorem tables_levelNow (last d) : tables (levelNow last d) = tables d := by
  simp only [levelNow, tables_levelStep]

theorem tables_levelComplete (d) : tables (levelComplete d) = tables d := by
  simp only [levelComplete, tables_levelNow]

theorem tables_levelLast (d) : tables (levelLast d) = tables d := by
  simp only [levelLast, tables_ite, ite_self, tables_levelNow]

theorem tables_openMove (d r) : tables (openMove d r) = tables d := by
  simp only [openMove, tables_ite]
  repeat' split
  all_goals simp only [tables_bindRing]

theorem tables_openRings (old d) : tables (openRings old d) = tables d := by
  simp only [openRings, tables_ite, ite_self, tables_foldl, implies_true, tables_ringSet, tables_openMove]

theorem tables_openStreams (old d) : tables (openStreams old d) = tables d := by
  simp only [openStreams, tables_ite, ite_self, tables_foldl, implies_true, tables_setStream]

theorem tables_openSas (old d) : tables (openSas old d) = tables d := by
  simp only [openSas, tables_foldl, implies_true, tables_saOpen]

theorem tables_lockBindings (d) : tables (lockBindings d) = tables d := (rfl)

theorem tables_fieldApply (d) : tables (fieldApply d) = tables d := by
  simp only [fieldApply, tables_ite, ite_self, tables_foldl, implies_true, tables_with, tables_rgSet, tables_portJudge, tables_dropBase]

theorem tables_pairRead (m a) {get : ℕ → Dev → Word × Dev} (hg : ∀ k d, tables (get k d).2 = tables d) (d) : tables (pairRead m a get d).2 = tables d := by
  unfold pairRead
  split
  · rfl
  · dsimp only
    split
    · rw [tables_with, hg, hg]
    · exact hg a d

theorem tables_noteRead (m kind r) : tables (noteRead m kind r).2 = tables r.2 := by
  unfold noteRead
  split
  · exact tables_recordRead ..
  · rfl

theorem tables_regRead (dl m pl a d) : tables (regRead dl m pl a d).2 = tables d := by
  unfold regRead
  split
  · rw [tables_noteRead, regRead.drawCycle, tables_drawWord]
  split
  · split
    · rw [tables_noteRead, tables_swDrawRead]
    · rfl
  split
  · exact tables_rawBusRead m d
  split
  · split
    · rfl
    · split
      · rw [tables_noteRead, tables_sampleData]
      · rw [tables_noteRead, tables_pairRead m a (fun k => tables_pmuRead _ (k % 256))]
  · exact tables_pairRead m a (fun _ _ => rfl) d

theorem tables_regRead_drawCycle (d) : tables (regRead.drawCycle d).2 = tables d := by
  simp only [regRead.drawCycle, tables_drawWord]

theorem tables_barRead (dl f off d) : tables (barRead dl f off d).2 = tables d := by
  unfold barRead
  split <;> simp only [tables_regRead]

theorem tables_latchedLoRead (dl m a d) : tables (latchedLoRead dl m a d) = tables d := by
  have hf : ∀ d, tables (rdSet (regRead dl m 0 a d).2 m (regRead dl m 0 a d).1) = tables d := fun d => tables_regRead ..
  simp only [latchedLoRead, tables_ite, tables_fromMaster _ _ hf, tables_rdSet, tables_barRead, ite_self]

theorem tables_plainWrite (r m a v d) : tables (plainWrite r m a v d) = tables d := by
  simp only [plainWrite, tables_ite, ite_self, tables_rgSet, tables_pvSet]

theorem tables_pinWrite (r a v d) : tables (pinWrite r a v d) = tables d := by
  simp only [pinWrite, tables_ite, ite_self, tables_with, tables_rgSet]

theorem tables_fqSize (a headReg v d) : tables (fqSize a headReg v d) = tables d := by
  simp only [fqSize, tables_rgSet]

theorem tables_mpuStatusWrite (m a v d) : tables (mpuStatusWrite m a v d) = tables d := by
  unfold mpuStatusWrite
  repeat' split
  all_goals simp only [tables_ite, ite_self, tables_rgSet, tables_chmWrite, tables_plainWrite]

theorem tables_mpuWordWrite (m pl a v d) : tables (mpuWordWrite m pl a v d) = tables d := by
  unfold mpuWordWrite
  split <;> simp only [tables_ite, ite_self, tables_mpuRegionWrite, tables_chmWrite, tables_mpuStatusWrite]

theorem tables_ringGroupWrite (m a v d) : tables (ringGroupWrite m a v d) = tables d := by
  simp only [ringGroupWrite, tables_ite, ite_self, tables_rgSet, tables_writeRingSize, tables_writeRingBase, tables_chmWrite]

theorem tables_chmCmdWrite (m v d) : tables (chmCmdWrite m v d) = tables d := by
  simp only [chmCmdWrite, tables_chmCommand]

theorem tables_fieldCtlWrite {m a v d e} (h : fieldCtlWrite m a v d = some e) : tables e = tables d := by
  simp only [fieldCtlWrite] at h
  repeat' split at h
  all_goals cases h
  all_goals simp only [tables_evqSize, tables_evqHeadWrite, tables_fldReqWrite, tables_aptClear, tables_frameWrite, tables_fqTailWrite, tables_emuCtlWrite,
    tables_tagCmd]

theorem tables_chamberFieldWrite (m a v d) : tables (chamberFieldWrite m a v d) = tables d := by
  simp only [chamberFieldWrite]
  split
  · rfl
  · refine tables_fromMaster _ _ (fun d => ?_) d
    split
    · simp only [tables_ite, tables_chmWrite, ite_self]
    · split <;> simp only [tables_ite, tables_chmWrite, ite_self]

theorem tables_chamberCommand (m action d) : tables (chamberCommand m action d) = tables d := by
  simp only [chamberCommand, tables_ite, tables_fromMaster _ _ (tables_chmCmdWrite m _), ite_self]

theorem tables_cancelOp (d o) : tables (cancelOp d o) = tables d := by
  simp only [cancelOp, tables_admitPlain]

theorem tables_passResume (d m) : tables (passResume d m) = tables d := by
  simp only [passResume]
  split <;> simp only [tables_ite, ite_self, tables_coreSet, tables_pmuRetire]

theorem tables_answerSeen (d i) : tables (answerSeen d i) = tables d := by
  simp only [answerSeen, tables_ite, ite_self, tables_answered]

theorem tables_presentCore (d m) : tables (presentCore d m) = tables d := by
  simp only [presentCore, tables_ite, ite_self, tables_foldl, implies_true, tables_with, tables_pendSet, tables_answerSeen]

theorem tables_edgeCount (d) : tables (edgeCount d) = tables d := by
  simp only [edgeCount, tables_foldl, implies_true, tables_with, tables_hopTick, tables_wipeEdge]

theorem tables_slotExpiry (d) : tables (slotExpiry d) = tables d := (rfl)

theorem tables_edgeRefill (d) : tables (edgeRefill d) = tables d := (rfl)

theorem tables_curvesDue (d) : tables (curvesDue d) = tables d := by
  simp only [curvesDue, tables_foldl, implies_true, tables_curveRelease]

theorem tables_edgeDraws (d) : tables (edgeDraws d) = tables d := by
  simp only [edgeDraws, tables_ite, ite_self, tables_foldl, implies_true, tables_hopFill, tables_queueBarge, tables_challengeSend]

theorem tables_measure (d) : tables (measure d) = tables d := by
  simp only [measure, tables_ite, ite_self, tables_foldl, implies_true, tables_with, tables_drawWord]

theorem tables_inlineVec (d) : tables (inlineVec d) = tables d := by
  simp only [inlineVec, tables_ite, ite_self, tables_fireVec]

theorem tables_freePosted (d) : tables (freePosted d) = tables d := (rfl)

theorem tables_fieldSteps (d) : tables (fieldSteps d) = tables d := by
  simp only [fieldSteps, tables_foldl, implies_true, tables_with, tables_sweepStart, tables_portJudge, tables_lingerExpiry, tables_lingerClear,
    tables_flightReadyNow, tables_tuningEnd, tables_powersEdge, tables_settleEnd, tables_tagDataEdge, tables_tagDrain, tables_tagRefusedEdge,
    tables_fieldParts, tables_fieldApply]

theorem tables_fieldAdmit (d) : tables (fieldAdmit d) = tables d := by
  simp only [fieldAdmit, tables_foldl, implies_true, tables_schedule, tables_admitEntries, tables_airEdge, tables_tagPaths]

theorem tables_grantBarges (d) : tables (grantBarges d) = tables d := by
  simp only [grantBarges, tables_foldl, implies_true, tables_with, tables_queueBarge]

theorem tables_fieldDraws (d) : tables (fieldDraws d) = tables d := by
  simp only [fieldDraws, tables_onHop]

theorem tables_fieldRomStart (d m) : tables (fieldRomStart d m) = tables d := by
  simp only [fieldRomStart, tables_ite, ite_self, tables_coreSet]

theorem tables_mpuFault {m pl right access a n d x e} (h : mpuFault m pl right access a n d = some (x, e)) : tables e = tables d := by
  unfold mpuFault at h
  repeat' split at h
  all_goals cases h
  all_goals simp only [tables_mpuRecord]

theorem tables_wccSeen (m a w d) : tables (wccSeen m a w d) = tables d := by
  unfold wccSeen
  split <;> simp only [tables_wccFail, tables_popItem]

theorem tables_noteMedia (x k a d) : tables (noteMedia x k a d) = tables d := by
  simp only [noteMedia, tables_ite, ite_self, tables_rgAdd]

theorem tables_noteLoads (x k a n d) : tables (noteLoads x k a n d) = tables d := by
  simp only [noteLoads, tables_foldl, implies_true, tables_noteMedia]

theorem tables_integrity {x access k a d f e} (h : integrity x access k a d = some (f, e)) : tables e = tables d := by
  unfold integrity at h
  split at h
  · obtain ⟨-, h⟩ := Option.ite_none_right_eq_some.mp h
    cases h
    exact tables_rgAdd ..
  · obtain ⟨-, h⟩ := Option.ite_none_right_eq_some.mp h
    cases h
    exact tables_wccSeen ..

theorem tables_frameRecord (m f d) : tables (frameRecord m f d) = tables d := by
  simp only [frameRecord, tables_ite, ite_self, tables_mpuRecord]

theorem tables_fetchFault {x d f e} (h : fetchFault x d = some (f, e)) : tables e = tables d := by
  unfold fetchFault at h
  dsimp only at h
  split at h
  · cases h
    exact tables_mpuRecord ..
  split at h
  · split at h
    · obtain ⟨-, h⟩ := Option.ite_none_right_eq_some.mp h
      cases h
      exact tables_popItem ..
    · obtain ⟨-, h⟩ := Option.ite_none_right_eq_some.mp h
      cases h
      exact tables_wccSeen ..
  · obtain ⟨-, h⟩ := Option.ite_none_right_eq_some.mp h
    cases h
    exact tables_rgAdd ..

theorem tables_retire (m pl codes d) : tables (retire m pl codes d) = tables d := by
  simp only [retire, tables_ite, ite_self, tables_onCore, tables_pmuRetire]

theorem tables_notBlock (m d) : tables (notBlock m d) = tables d := by
  simp only [notBlock, tables_onCore]

theorem tables_windowErr (a d) : tables (windowErr a d) = tables d := by
  simp only [windowErr, tables_rgSet]

theorem tables_windowLoad (x a d) : tables (windowLoad x a d).2 = tables d := by
  unfold windowLoad
  repeat' split
  all_goals simp only [tables_windowErr]

theorem tables_deviceLoad (dl x pl a d) : tables (deviceLoad dl x pl a d).2 = tables d := by
  simp only [deviceLoad, apply_ite Prod.snd, apply_ite tables, tables_benchRead, tables_rplItem, tables_windowLoad, tables_regRead, ite_self]

theorem tables_coreRegRead (dl m a d) : tables (coreRegRead dl m a d) = tables d := by
  have hr := tables_deviceLoad dl { core := m } 0 (0xF00000000 + a) d
  unfold coreRegRead
  split <;> next he => simp only [tables_rdSet, tables_snd he, hr]

theorem tables_hopSwDrawRead (dl m d) : tables (hopSwDrawRead dl m d) = tables d := by
  simp only [hopSwDrawRead, tables_ite, ite_self, tables_rdSet, tables_coreRegRead]

theorem tables_pmuSmpDataRead (dl m g d) : tables (pmuSmpDataRead dl m g d) = tables d := by
  simp only [pmuSmpDataRead, tables_ite, ite_self, tables_pmuSmpRead, tables_coreRegRead]

theorem tables_fineTimerRead (dl m a d) : tables (fineTimerRead dl m a d) = tables d := by
  simp only [fineTimerRead, tables_ite, ite_self, tables_coreRegRead]

theorem tables_stxResult (x c a d) : tables (stxResult x c a d).2 = tables d := by
  simp only [stxResult]
  split <;> simp only [tables_rplItem, tables_benchRead]

theorem tables_popsFault {x pl s l n d f e} (h : popsFault x pl s l n d = some (f, e)) : tables e = tables d := by
  unfold popsFault at h
  split at h
  · cases h
    rfl
  · exact tables_mpuFault h

theorem tables_cmpEnd (full m ran d) : tables (cmpEnd full m ran d) = tables d := by
  simp only [cmpEnd, tables_ite, ite_self, tables_drawWord, tables_onCore]

theorem tables_blockEnd (m d) : tables (blockEnd m d) = tables d := by
  simp only [blockEnd, tables_onCore]

theorem tables_noFin (x1 d) : tables (noFin x1 d) = tables d := (rfl)

theorem tables_cycRead (m sr d) : tables (cycRead m sr d).2 = tables d := by
  unfold cycRead
  repeat' split
  all_goals simp only [tables_drawWord, tables_onCore]

theorem tables_cycInput (m sr d) : tables (cycInput m sr d).2 = tables d := by
  unfold cycInput
  split <;> simp only [tables_recordRead, tables_rplItem, tables_benchRead, tables_cycRead]

theorem tables_dbgErr (d) : tables (dbgErr d) = tables d := by
  simp only [dbgErr, tables_rgOr]

theorem tables_dbgRefused {right a d e} (h : dbgRefused right a d = some e) : tables e = tables d := by
  unfold dbgRefused at h
  split at h
  · cases h
    simp only [tables_tamperEvent, tables_dbgErr]
  · obtain ⟨t, -, rfl⟩ := Option.map_eq_some_iff.mp h
    simp only [tables_dbgErr, tables_ite, tables_mpuRecord, ite_self]

theorem tables_dbgRead (dl a d) : tables (dbgRead dl a d).2 = tables d := by
  unfold dbgRead
  repeat' split
  all_goals simp only [tables_regRead]

theorem tables_dbgCoreWrite (v d) : tables (dbgCoreWrite v d) = tables d := by
  simp only [dbgCoreWrite, tables_ite, ite_self, tables_rgSet, tables_tamperEvent, tables_onCore]

theorem tables_towpathWord (right a) {act : Dev → Dev} (ha : ∀ d, tables (act d) = tables d) (d) : tables (towpathWord right a act d) = tables d := by
  unfold towpathWord
  split
  · rfl
  split
  · exact tables_tamperEvent ..
  split
  · next h => exact tables_dbgRefused h
  · exact ha d

theorem tables_byPort (right m a) {act : Dev → Dev} (ha : ∀ d, tables (act d) = tables d) (d) : tables (byPort right m a act d) = tables d := by
  simp only [byPort, tables_ite, ha, tables_towpathWord right a ha, ite_self]

theorem tables_latchedLoTop (dl m a d) : tables (latchedLoTop dl m a d) = tables d := tables_byPort 0 m a (tables_latchedLoRead dl m a) d

theorem tables_chamberFieldTop (m a v d) : tables (chamberFieldTop m a v d) = tables d := tables_byPort 1 m _ (tables_chamberFieldWrite m a v) d

theorem tables_chamberTop (m action d) : tables (chamberTop m action d) = tables d := tables_byPort 1 m _ (tables_chamberCommand m action) d

theorem tables_ringClear (d r) : tables (ringClear d r) = tables d := by
  unfold ringClear
  dsimp only
  rw [tables_ringSet, tables_foldl (fun _ _ => tables_with ..)]

theorem tables_fnDiscard (d o) : tables (fnDiscard d o) = tables d := by
  simp only [fnDiscard, tables_ite, tables_dropOp, tables_unreserve, tables_setOp, tables_dropCurve, tables_forgetJob, tables_rgAdd, ite_self]

theorem tables_fnSlots (d f) : tables (fnSlots d f) = tables d := by
  simp only [fnSlots, tables_foldl, implies_true, tables_eraseSlot]

theorem tables_fnQuiet (f d) : tables (fnQuiet f d) = tables d := by
  simp only [fnQuiet, tables_ite, ite_self, tables_foldl, implies_true, tables_chmEmpty, tables_ownerWipe, tables_ringClear, tables_fnDiscard,
    tables_fnSlots]

theorem tables_flr (f d) : tables (flr f d) = tables d := by
  simp only [flr, tables_ite, ite_self, tables_with, tables_mbxGone, tables_fnQuiet]

theorem tables_d3hotEntry (f d) : tables (d3hotEntry f d) = tables d := by
  simp only [d3hotEntry, tables_ite, ite_self, tables_with, tables_mbxGone, tables_fnQuiet]

theorem tables_pcieLinkUp (width speed d) : tables (pcieLinkUp width speed d) = tables d := (rfl)

theorem tables_onPcie (f g d) : tables (onPcie f g d) = tables d := by
  simp only [onPcie, tables_ite, ite_self, tables_with]

theorem tables_pcieConfig (w d) : tables (pcieConfig w d) = tables d := by
  unfold pcieConfig
  split <;> simp only [tables_ite, ite_self, tables_with, tables_onPcie]

theorem tables_msixFlush (f d) : tables (msixFlush f d) = tables d := by
  simp only [msixFlush, tables_ite, ite_self, tables_foldl, implies_true, tables_with, tables_fireVec]

theorem tables_msixWrite (w d) : tables (msixWrite w d) = tables d := by
  unfold msixWrite
  split <;> simp only [tables_ite, ite_self, tables_with, tables_msixFlush]

theorem tables_ringSizeWrite (m r log2 d) : tables (ringSizeWrite m r log2 d) = tables d := by
  simp only [ringSizeWrite, tables_ite, tables_fromMaster _ _ (fun d => tables_writeRingSize d r log2), ite_self]

theorem tables_ringEnable (m r log2 d) : tables (ringEnable m r log2 d) = tables d := by
  simp only [ringEnable, tables_ite, ite_self, tables_ringSizeWrite]

theorem tables_ringDrain (m r d) : tables (ringDrain m r d) = tables d := by
  simp only [ringDrain, tables_ringSizeWrite]

theorem tables_ringDisable (r d) : tables (ringDisable r d) = tables d := by
  simp only [ringDisable, tables_ite, ite_self, tables_ringSet]

theorem tables_descFetch (r descs d) : tables (descFetch r descs d) = tables d := by
  simp only [descFetch, tables_foldl, implies_true, tables_fetchOne]

theorem tables_stagingComplete (r pos data d) : tables (stagingComplete r pos data d) = tables d := by
  unfold stagingComplete
  split <;> simp only [tables_ite, ite_self, tables_stageDone, tables_stageJob]

theorem tables_placeDesc (ring opcode h fs d) : tables (placeDesc ring opcode h fs d) = tables d := by
  simp only [placeDesc, tables_fetchOne]

theorem tables_keyExhausted (i d) : tables (keyExhausted i d) = tables d := by
  simp only [keyExhausted, tables_ite, ite_self, tables_slotSet, tables_exhaustNotice]

theorem tables_saFreeze (s d) : tables (saFreeze s d) = tables d := by
  simp only [saFreeze, tables_ite, ite_self, tables_freezeSa]

end Sys2Proof.Machine

/-! What keeps the memories in canonical form and the reset map legal (O60): each function that writes a memory or the reset map, or calls one
that does, callees first. Below the resets and the stores, which change the tables themselves, a proof names for each branch what it calls. -/

namespace Sys2Proof.Machine

theorem ok_hostWr {d a o} (h : (tables d).Ok) : (tables (hostWr d a o)).Ok := by
  rw [ok_iff] at *
  exact ⟨memWf_hostWr d a o h.1, h.2⟩

theorem ok_memWr {d a w} (h : (tables d).Ok) : (tables (memWr d a w)).Ok := by
  rw [ok_iff] at *
  exact ⟨memWf_memWr d a w h.1, h.2⟩

theorem ok_memWrOct {d dense a o} (h : (tables d).Ok) : (tables (memWrOct d dense a o)).Ok := by
  rw [ok_iff] at *
  exact ⟨memWf_memWrOct d dense a o h.1, h.2⟩

/-- A run of words stored in host-island memory. -/
theorem ok_memRun {d : Dev} {a b n : ℕ} {ws : List Word} {own : Option ℕ} {field : Bool} (h : (tables d).Ok) :
    (tables (loseResv { d with mem := tabSetList 0 d.mem a ws } own field b n)).Ok := by
  rw [ok_iff] at *
  exact ⟨memWf_memRun d a ws own field b n h.1, h.2⟩

/-- Words of host-island memory gone. -/
theorem ok_filter {d : Dev} {p : ℕ × Word → Bool} (h : (tables d).Ok) : (tables { d with mem := d.mem.filter p }).Ok := by
  rw [ok_iff] at *
  exact ⟨memWf_filter d p h.1, h.2⟩

theorem ok_fmWr {d a ws} (h : (tables d).Ok) : (tables (fmWr d a ws)).Ok := by
  rw [ok_iff] at *
  exact ⟨memWf_fmWr d a ws h.1, h.2⟩

theorem ok_scribbleHost {d a n} (h : (tables d).Ok) : (tables (scribbleHost d a n)).Ok := by
  unfold scribbleHost
  exact ok_hostWr (ok_of (tables_drawOct ..) h)

theorem ok_engWrite {m ident col : ℕ} {l : List (ℕ × ℕ)} {ws : List Word} {d : Dev} (h : (tables d).Ok) :
    (tables (engWrite m ident col l ws d).2).Ok := by
  induction l generalizing ws d with
  | nil => exact h
  | cons b r ih =>
    unfold engWrite
    split
    · exact ok_of (tables_mpuRecord ..) h
    · exact ih (ok_memRun h)

theorem ok_engWriteAt {d m ident col a ws} (h : (tables d).Ok) : (tables (engWriteAt d m ident col a ws).2).Ok := by
  unfold engWriteAt
  exact ok_engWrite h

theorem ok_fnWrite {d f a o} (h : (tables d).Ok) : (tables (fnWrite d f a o)).Ok := by
  unfold fnWrite
  exact ok_ite (ok_hostWr h) (ok_of (tables_rgAdd ..) h)

theorem ok_postOne {d r} (h : (tables d).Ok) : OptOk (postOne d r) := by
  unfold postOne
  dsimp only
  split
  · exact optOk_none
  · exact optOk_ite (optOk_some (ok_ite (ok_of (tables_ringFire ..) (ok_of (tables_dropOp ..) (ok_of (tables_ringSet ..) (ok_fnWrite h)))) (ok_of
      (tables_dropOp ..) (ok_of (tables_ringSet ..) (ok_fnWrite h))))) optOk_none

theorem ok_postRing {n r : ℕ} {d : Dev} (h : (tables d).Ok) : (tables (postRing n r d)).Ok := by
  induction n generalizing d with
  | zero => exact h
  | succ n ih =>
    unfold postRing
    split
    · next he => exact ih (ok_postOne h _ he)
    · exact h

theorem ok_postAll {d} (h : (tables d).Ok) : (tables (postAll d)).Ok := by
  unfold postAll
  exact ok_foldl (fun _ _ hd => ok_postRing hd) h

theorem ok_postFq {d k pass} (h : (tables d).Ok) : OptOk (postFq d k pass) := by
  unfold postFq
  split
  · exact optOk_none
  · refine optOk_ite optOk_none ?_
    split
    · exact optOk_some (ok_of (tables_noteMem ..) (ok_of (tables_pushInput ..) (ok_of (tables_setOp ..) (ok_ite (ok_memWrOct (ok_of (tables_coreAllows ..)
        h)) (ok_of (tables_coreAllows ..) h)))))
    · exact optOk_none

theorem ok_postFqs {n : ℕ} {k : ℕ × ℕ} {pass : ℕ} {d : Dev} (h : (tables d).Ok) : (tables (postFqs n k pass d)).Ok := by
  induction n generalizing d with
  | zero => exact h
  | succ n ih =>
    unfold postFqs
    split
    · next he => exact ih (ok_postFq h _ he)
    · exact h

theorem ok_engOuts {o : Op} {l : List (ℕ × Octets)} {d : Dev} (h : (tables d).Ok) : (tables (engOuts o l d).2).Ok := by
  induction l generalizing d with
  | nil => exact h
  | cons x r ih =>
    have hx := ok_engWriteAt (m := o.engine) (ident := o.served) (col := ctxCol o.served) (a := x.1) (ws := packOct o.dense x.2) h
    unfold engOuts
    split
    · next he => exact ih (ok_snd he hx)
    · exact hx

theorem ok_writeOuts {d o} (h : (tables d).Ok) : (tables (writeOuts d o).2).Ok := by
  unfold writeOuts
  split
  · exact ok_foldl (fun _ _ hd => ok_fnWrite hd) h
  · exact h
  · exact ok_foldl (fun _ _ hd => ok_memWrOct hd) h
  · exact ok_engOuts h

theorem ok_report {d o due pass} (h : (tables d).Ok) : (tables (report d o due pass)).Ok := by
  unfold report
  dsimp only
  split
  · exact ok_of (tables_setOp ..) h
  · exact ok_postFqs (ok_of (tables_setOp ..) h)
  · exact ok_postFqs (ok_of (tables_setOp ..) h)
  · exact ok_ite (ok_of (tables_rgAdd ..) (ok_of (tables_dropOp ..) h)) (ok_ite (ok_of (tables_setOp ..) h) (ok_foldl (fun _ _ hd => ok_of
      (tables_queueBarge ..) hd) (ok_of (tables_setOp ..) h)))
  · exact ok_ite (ok_of (tables_setOp ..) h) (ok_of (tables_noteMem ..) (ok_of (tables_cmdDone ..) (ok_of (tables_setOp ..) h)))
  · exact ok_of (tables_setOp ..) h

theorem ok_written {d o} (h : (tables d).Ok) : (tables (written d o).1).Ok := by
  unfold written
  exact ok_writeOuts h

theorem ok_wipeReport {d o due pass} (h : (tables d).Ok) : (tables (wipeReport d o due pass)).Ok := by
  unfold wipeReport
  exact ok_report h

theorem ok_deliver {d o due pass} (h : (tables d).Ok) : (tables (deliver d o due pass)).Ok := by
  unfold deliver
  exact ok_wipeReport (ok_written h)

theorem ok_endWith {d o st sub due pass} (h : (tables d).Ok) : (tables (endWith d o st sub due pass)).Ok := by
  unfold endWith
  exact ok_ite (ok_of (tables_lateDrop ..) (ok_of (tables_unreserve ..) h)) (ok_deliver (ok_of (tables_unreserve ..) h))

theorem ok_finish {d o} (h : (tables d).Ok) : (tables (finish d o)).Ok := by
  unfold finish
  exact ok_ite (ok_of (tables_lateDrop ..) (ok_of (tables_unreserve ..) h)) (ok_ite (ok_of (tables_setOp ..) h) (ok_deliver h))

theorem ok_earlyPlain {run d o k} (h : (tables d).Ok) : (tables (earlyPlain run d o k)).Ok := by
  unfold earlyPlain
  refine ok_ite h ?_
  dsimp only
  split
  · exact h
  · exact ok_ite h (ok_ite (ok_writeOuts h) h)

theorem ok_cipherComplete {id d} (h : (tables d).Ok) : (tables (cipherComplete id d)).Ok := by
  unfold cipherComplete
  split
  · split
    · exact ok_ite (ok_finish (ok_ite (ok_of (tables_rgAdd ..) (ok_of (tables_fwGuard ..) (ok_of (tables_rgAdd ..) h))) (ok_of (tables_fwGuard ..) (ok_of
        (tables_rgAdd ..) h)))) h
    · exact h
  · exact h

theorem ok_hashComplete {id d} (h : (tables d).Ok) : (tables (hashComplete id d)).Ok := by
  unfold hashComplete
  split
  · split
    · exact ok_ite (ok_finish (ok_of (tables_fwGuard ..) (ok_of (tables_rgAdd ..) h))) h
    · exact h
  · exact h

theorem ok_acceptApprovals {d} (h : (tables d).Ok) : (tables (acceptApprovals d)).Ok := by
  unfold acceptApprovals
  refine ok_foldl ?_ (ok_of (tables_with ..) h)
  refine (fun _ _ hd => ?_)
  split
  · dsimp only
    split
    · exact ok_endWith (ok_of (tables_addApproval ..) hd)
    · exact ok_of (tables_addApproval ..) hd
  · split
    · exact ok_endWith hd
    · exact hd

theorem ok_uqReceive {link fr d} (h : (tables d).Ok) : (tables (uqReceive link fr d)).Ok := by
  unfold uqReceive
  exact ok_ite (ok_of (tables_linkCnt ..) h) (ok_ite (ok_of (tables_linkCnt ..) (ok_engWriteAt h)) (ok_of (tables_noteMem ..) (ok_of (tables_pushInput ..)
    (ok_of (tables_rgSet ..) (ok_engWriteAt h)))))

theorem ok_toClassifier {k d} (h : (tables d).Ok) : (tables (toClassifier k d)).Ok := by
  unfold toClassifier
  dsimp only
  split
  · exact h
  · refine ok_ite (ok_uqReceive (ok_of (tables_setStream ..) h)) ?_
    refine ok_ite (ok_of (tables_linkCnt ..) (ok_of (tables_setStream ..) h)) ?_
    refine ok_ite h ?_
    split
    · exact ok_snd_ite (ok_of (tables_classifyPlain ..) (ok_of (tables_setStream ..) h)) (ok_of (tables_classifySealed ..) (ok_of (tables_setStream ..) h))
    · exact ok_of (tables_setStream ..) (ok_snd_ite (ok_of (tables_classifyPlain ..) (ok_of (tables_setStream ..) h)) (ok_of (tables_classifySealed ..)
        (ok_of (tables_setStream ..) h)))

theorem ok_stageAdvance {k stage integ d} (h : (tables d).Ok) : (tables (stageAdvance k stage integ d)).Ok := by
  unfold stageAdvance
  exact ok_ite h (ok_ite (ok_of (tables_stageIntegrity ..) h) (ok_ite (ok_toClassifier h) (ok_ite (ok_of (tables_toCipher ..) h) (ok_of (tables_toEgress
    ..) h))))

theorem ok_frameArrival {k fr fcsOk d} (h : (tables d).Ok) : (tables (frameArrival k fr fcsOk d)).Ok := by
  unfold frameArrival
  exact ok_ite h (ok_ite (ok_of (tables_linkCnt ..) h) (ok_ite (ok_of (tables_linkCnt ..) h) (ok_ite (ok_of (tables_linkCnt ..) h) (ok_ite (ok_of
    (tables_linkCnt ..) h) (ok_ite (ok_of (tables_linkCnt ..) h) (ok_toClassifier (ok_of (tables_setStream ..) h)))))))

theorem ok_rejectOp {d o f} (h : (tables d).Ok) : (tables (rejectOp d o f)).Ok := by
  unfold rejectOp
  exact ok_endWith h

theorem ok_fwReject {d o mpu f} (h : (tables d).Ok) : (tables (fwReject d o mpu f)).Ok := by
  unfold fwReject
  split
  · exact ok_rejectOp (ok_ite (ok_of (tables_mpuRecord ..) h) h)
  · exact ok_rejectOp h

theorem ok_importAdmit {d o} (h : (tables d).Ok) : (tables (importAdmit d o)).Ok := by
  unfold importAdmit
  dsimp only
  split
  · exact ok_fwReject h
  · exact ok_of (tables_admitPlain ..) (ok_of (tables_reserve ..) h)

theorem ok_exportAdmit {d o} (h : (tables d).Ok) : (tables (exportAdmit d o)).Ok := by
  unfold exportAdmit
  dsimp only
  split
  · exact ok_fwReject h
  · exact ok_ite h (ok_of (tables_admitPlain ..) h)

theorem ok_eraseAdmit {d o} (h : (tables d).Ok) : (tables (eraseAdmit d o)).Ok := by
  unfold eraseAdmit
  dsimp only
  split
  · exact ok_rejectOp h
  · exact ok_of (tables_admitPlain ..) h

theorem ok_eraseDue {d o} (h : (tables d).Ok) : (tables (eraseDue d o)).Ok := by
  unfold eraseDue
  exact ok_ite (ok_endWith (ok_of (tables_eraseSlot ..) h)) h

theorem ok_childAdmit {d o} (h : (tables d).Ok) : (tables (childAdmit d o)).Ok := by
  unfold childAdmit
  dsimp only
  split
  · exact ok_fwReject h
  · exact ok_of (tables_admitPlain ..) (ok_of (tables_reserve ..) (ok_of (tables_countUse ..) h))

theorem ok_loadSakAdmit {d o} (h : (tables d).Ok) : (tables (loadSakAdmit d o)).Ok := by
  unfold loadSakAdmit
  dsimp only
  split
  · exact ok_fwReject h
  · exact ok_of (tables_admitPlain ..) h

theorem ok_clearKeyAdmit {d o} (h : (tables d).Ok) : (tables (clearKeyAdmit d o)).Ok := by
  unfold clearKeyAdmit
  dsimp only
  split
  · exact ok_rejectOp h
  · exact ok_finish (ok_of (tables_saSet ..) h)

theorem ok_finishKey {d o r} (h : (tables d).Ok) : (tables (finishKey d o r)).Ok := by
  unfold finishKey
  exact ok_finish h

theorem ok_keyComplete {id d} (h : (tables d).Ok) : (tables (keyComplete id d)).Ok := by
  unfold keyComplete
  split
  · exact h
  · refine ok_ite h ?_
    refine ok_ite (ok_finishKey h) ?_
    refine ok_ite (ok_ite h (ok_ite (ok_finish h) (ok_finish (ok_of (tables_hwDraw ..) h)))) ?_
    refine ok_ite (ok_finishKey h) ?_
    refine ok_ite ?_ ?_
    · dsimp only
      split
      · exact ok_finishKey h
      · exact ok_finishKey h
    · refine ok_ite ?_ h
      split
      · exact ok_finish h
      · exact ok_finish h

theorem ok_releaseOp {d o} (h : (tables d).Ok) : (tables (releaseOp d o)).Ok := by
  unfold releaseOp
  exact ok_ite (ok_wipeReport (ok_of (tables_storeOnRelease ..) (ok_written h))) h

theorem ok_releaseDue {d} (h : (tables d).Ok) : (tables (releaseDue d)).Ok := by
  unfold releaseDue
  exact ok_foldl (fun _ _ hd => ok_releaseOp hd) h

theorem ok_entropyEnd {d u o} (h : (tables d).Ok) : (tables (entropyEnd d u o)).Ok := by
  unfold entropyEnd
  exact ok_finish (ok_of (tables_unreserve ..) (ok_of (tables_dropCurve ..) (ok_of (tables_leaveUnit ..) h)))

theorem ok_jobEnd {u d} (h : (tables d).Ok) : (tables (jobEnd u d)).Ok := by
  unfold jobEnd
  dsimp only
  split
  · exact h
  · split
    · exact h
    · refine ok_ite h ?_
      split
      · exact ok_ite (ok_entropyEnd (ok_of (tables_drawUntil ..) h)) (ok_of (tables_setOp ..) (ok_of (tables_drawUntil ..) h))
      · exact ok_ite (ok_of (tables_selfCheckFails ..) (ok_of (tables_drawUntil ..) h)) (ok_finish (ok_of (tables_gqSources ..) (ok_of (tables_rgAdd ..)
          (ok_of (tables_leaveUnit ..) (ok_of (tables_drawUntil ..) h)))))

theorem ok_jobDraw {u d} (h : (tables d).Ok) : (tables (jobDraw u d)).Ok := by
  unfold jobDraw
  split
  · exact h
  · split
    · exact h
    · exact ok_ite h (ok_ite (ok_of (tables_setOp ..) (ok_of (tables_hwDraw ..) h)) (ok_ite (ok_entropyEnd h) h))

theorem ok_hardwareDraw {who d} (h : (tables d).Ok) : (tables (hardwareDraw who d)).Ok := by
  unfold hardwareDraw
  exact ok_ite h (ok_ite (ok_jobDraw h) (ok_ite (ok_of (tables_hwDraw ..) h) h))

theorem ok_endEarly {d o st sub due pass} (h : (tables d).Ok) : (tables (endEarly d o st sub due pass)).Ok := by
  unfold endEarly
  exact ok_endWith (ok_ite (ok_of (tables_dropCurve ..) (ok_of (tables_forgetJob ..) h)) (ok_ite (ok_of (tables_forgetJob ..) h) h))

theorem ok_scribble {o d} (h : (tables d).Ok) : (tables (scribble o d)).Ok := by
  unfold scribble
  dsimp only
  split
  · exact ok_ite h (ok_foldl (fun _ _ hd => ok_scribbleHost hd) h)
  · exact h
  · exact ok_foldl (fun _ _ hd => ok_memWrOct (ok_of (tables_drawOct ..) hd)) h

theorem ok_endUndef {d o st sub due pass} (h : (tables d).Ok) : (tables (endUndef d o st sub due pass)).Ok := by
  unfold endUndef
  exact ok_endEarly (ok_scribble h)

theorem ok_loadImageAdmit_loadGo {d o us a n} (h : (tables d).Ok) : (tables (loadImageAdmit.loadGo d o us a n)).Ok := by
  unfold loadImageAdmit.loadGo
  exact ok_ite (ok_endWith (ok_foldl (fun _ _ hd => ok_of (tables_unitSet ..) (ok_of (tables_engRead ..) hd)) h)) (ok_of (tables_admitPlain ..) (ok_foldl
    (fun _ _ hd => ok_of (tables_unitSet ..) (ok_of (tables_engRead ..) hd)) h))

theorem ok_loadImageAdmit {d o} (h : (tables d).Ok) : (tables (loadImageAdmit d o)).Ok := by
  unfold loadImageAdmit
  refine ok_ite (ok_rejectOp h) ?_
  split
  · exact ok_ite (ok_rejectOp h) (ok_loadImageAdmit_loadGo h)
  · exact ok_loadImageAdmit_loadGo h

theorem ok_imageDone {u wcc d} (h : (tables d).Ok) : (tables (imageDone u wcc d)).Ok := by
  unfold imageDone
  extract_lets x
  split
  · exact h
  · next o he =>
    extract_lets +onlyGivenNames bad d1 f
    have h1 : (tables d1).Ok := ok_getD (fun _ hw => ok_of (tables_opWcc hw) h) h
    clear_value f d1
    extract_lets +onlyGivenNames d2 o2 d3
    have h2 : (tables d2).Ok := by
      simp only [d2]
      split
      · exact ok_of (tables_unitSet ..) h1
      · exact ok_of ((tables_rgAdd ..).trans (tables_unitSet ..)) h1
    have h3 : (tables d3).Ok := ok_of (tables_setOp ..) h2
    refine ok_ite h3 ?_
    extract_lets fs
    clear_value fs d3
    cases fs
    · exact ok_deliver h3
    · exact ok_deliver h3

theorem ok_cancelOps {d p pass} (h : (tables d).Ok) : (tables (cancelOps d p pass)).Ok := by
  unfold cancelOps
  exact ok_foldl (fun _ _ hd => ok_endUndef hd) h

theorem ok_lookupComplete {id d} (h : (tables d).Ok) : (tables (lookupComplete id d)).Ok := by
  unfold lookupComplete
  split
  · exact ok_ite (ok_finish (ok_of (tables_rgAdd ..) h)) h
  · exact h

theorem ok_stageAdmit {d o} (h : (tables d).Ok) : (tables (stageAdmit d o)).Ok := by
  unfold stageAdmit
  dsimp only
  split
  · exact ok_rejectOp (ok_snd_ite h (ok_snd_ite h (ok_of (tables_engRead ..) h)))
  · split
    · rename_i he
      exact ok_rejectOp ((ok_of (tables_opWcc he) (ok_snd_ite h (ok_snd_ite h (ok_of (tables_engRead ..) h)))))
    · exact ok_endWith (ok_of (tables_stageDeltas ..) (ok_snd_ite h (ok_snd_ite h (ok_of (tables_engRead ..) h))))

theorem ok_discardAdmit {d o} (h : (tables d).Ok) : (tables (discardAdmit d o)).Ok := by
  unfold discardAdmit
  exact ok_rejectOp (ok_of (tables_with ..) h)

theorem ok_commitAdmit {d o} (h : (tables d).Ok) : (tables (commitAdmit d o)).Ok := by
  unfold commitAdmit
  refine ok_ite h ?_
  split
  · exact ok_rejectOp h
  · exact ok_of (tables_with ..) (ok_of (tables_setOp ..) h)

theorem ok_commitDrop {c st sub d} (h : (tables d).Ok) : (tables (commitDrop c st sub d)).Ok := by
  unfold commitDrop
  dsimp only
  split
  · exact ok_endWith (ok_of (tables_commitResult ..) (ok_of (tables_rgSet ..) (ok_of (tables_with ..) h)))
  · exact ok_of (tables_commitResult ..) (ok_of (tables_rgSet ..) (ok_of (tables_with ..) h))

theorem ok_epochSwitch {d} (h : (tables d).Ok) : (tables (epochSwitch d)).Ok := by
  unfold epochSwitch
  split
  · split
    · refine ok_ite ?_ h
      dsimp only
      split
      · exact ok_endWith (ok_of (tables_commitResult ..) (ok_of (tables_rgSet ..) (ok_of (tables_with ..) h)))
      · exact ok_of (tables_commitResult ..) (ok_of (tables_rgSet ..) (ok_of (tables_with ..) h))
    · exact h
  · exact h

theorem ok_commitTimeout {d} (h : (tables d).Ok) : (tables (commitTimeout d)).Ok := by
  unfold commitTimeout
  split
  · exact ok_ite (ok_commitDrop h) h
  · exact h

theorem ok_commitFull {d} (h : (tables d).Ok) : (tables (commitFull d)).Ok := by
  unfold commitFull
  split
  · exact ok_ite (ok_commitDrop h) h
  · exact h

theorem ok_crgEdge {d} (h : (tables d).Ok) : (tables (crgEdge d)).Ok := by
  unfold crgEdge
  exact ok_commitTimeout (ok_epochSwitch (ok_commitFull (ok_of (tables_with ..) h)))

theorem ok_envelopeComplete {id d} (h : (tables d).Ok) : (tables (envelopeComplete id d)).Ok := by
  unfold envelopeComplete
  split
  · refine ok_ite h ?_
    refine ok_ite ?_ ?_
    · split
      · exact ok_finish h
      · exact ok_finish (ok_of (tables_sealEnvelope ..) h)
    · refine ok_ite ?_ h
      split
      · exact ok_finish (ok_of (tables_rgAdd ..) h)
      · exact ok_finish (ok_of (tables_openEnvEffect ..) h)
  · exact h

theorem ok_eventWrite {c d} (h : (tables d).Ok) : (tables (eventWrite c d)).Ok := by
  unfold eventWrite
  split
  · exact h
  · refine ok_ite h ?_
    split
    · exact ok_of (tables_mpuRecord ..) h
    · exact ok_of (tables_noteMem ..) (ok_of (tables_pushInput ..) (ok_of (tables_with ..) (ok_of (tables_rgSet ..) (ok_fmWr h))))

theorem ok_eventWrites {f c : ℕ} {d : Dev} (h : (tables d).Ok) : (tables (eventWrites f c d)).Ok := by
  induction f generalizing d with
  | zero => exact h
  | succ f ih => exact ih (ok_eventWrite h)

theorem ok_rxWrite {b : Barge} {d : Dev} (h : (tables d).Ok) : OptOk (rxWrite b d) := by
  intro e he
  have hf : e.rst.fuses = d.rst.fuses := by
    unfold rxWrite at he
    dsimp only at he
    split at he
    · cases he
    split at he
    · cases he
    · rw [← Option.some.inj he]
      split <;> rfl
  rw [ok_iff] at *
  refine ⟨memWf_rxWrite b d e he h.1, ?_⟩
  simp only [fusesLegal, hf]
  exact h.2

theorem ok_toCore {b d} (h : (tables d).Ok) : (tables (toCore b d)).Ok := by
  unfold toCore
  exact ok_ite (ok_of (tables_rxWait ..) h) (ok_getD (ok_rxWrite h) (ok_of (tables_rxWait ..) (ok_of (tables_rxRefused ..) h)))

/-- The queued barges that fit are written; the others wait on. -/
theorem ok_bargeQueueWrite {toField lane d} (h : (tables d).Ok) : (tables (bargeQueueWrite toField lane d)).Ok := by
  unfold bargeQueueWrite
  refine ok_of (tables_onLkg ..) ?_
  refine ok_fst_foldl (fun x b hx => ?_) (x := (d, [])) h
  dsimp only
  split
  · next he =>
    split at he
    · cases he
    · exact ok_rxWrite hx _ he
  · exact hx

theorem ok_roomMade {m d} (h : (tables d).Ok) : (tables (roomMade m d)).Ok := by
  unfold roomMade
  exact ok_foldl (fun _ _ hd => ok_bargeQueueWrite hd) h

theorem ok_rxqHeadWrite {m v d} (h : (tables d).Ok) : (tables (rxqHeadWrite m v d)).Ok := by
  unfold rxqHeadWrite
  exact ok_ite h (ok_ite h (ok_roomMade (ok_of (tables_rgSet ..) h)))

theorem ok_lkgSizeWrite {m base v d} (h : (tables d).Ok) : (tables (lkgSizeWrite m base v d)).Ok := by
  unfold lkgSizeWrite
  exact ok_ite (ok_roomMade (ok_of (tables_rgSet ..) (ok_of (tables_rgSet ..) (ok_of (tables_rgSet ..) h)))) (ok_of (tables_txDetach ..) (ok_of
    (tables_rgSet ..) (ok_of (tables_rgSet ..) (ok_of (tables_rgSet ..) h))))

theorem ok_requestEntry {d o} (h : (tables d).Ok) : (tables (requestEntry d o)).Ok := by
  unfold requestEntry
  exact ok_ite (ok_of (tables_with ..) h) (ok_ite (ok_endWith (ok_of (tables_addOp ..) h)) (ok_of (tables_addOp ..) h))

theorem ok_credQuery {b d} (h : (tables d).Ok) : (tables (credQuery b d)).Ok := by
  unfold credQuery
  exact ok_requestEntry h

theorem ok_cryptoRequest {a b d} (h : (tables d).Ok) : (tables (cryptoRequest a b d)).Ok := by
  unfold cryptoRequest
  exact ok_requestEntry h

theorem ok_firmwareBlockIn {b d} (h : (tables d).Ok) : (tables (firmwareBlockIn b d)).Ok := by
  unfold firmwareBlockIn
  exact ok_ite (ok_of (tables_lkgLost ..) h) (ok_ite (ok_of (tables_with ..) (ok_fmWr h)) (ok_fmWr h))

theorem ok_cryptoAnswerIn {a b d} (h : (tables d).Ok) : (tables (cryptoAnswerIn a b d)).Ok := by
  unfold cryptoAnswerIn
  refine ok_ite (ok_of (tables_tagVerdict ..) (ok_of (tables_answered ..) h)) ?_
  split
  · exact ok_toCore (ok_toCore h)
  · exact ok_toCore h

theorem ok_bargeArrive {a b d} (h : (tables d).Ok) : (tables (bargeArrive a b d)).Ok := by
  unfold bargeArrive
  exact ok_ite (ok_toCore h) (ok_ite (ok_credQuery h) (ok_ite (ok_cryptoRequest h) (ok_ite (ok_cryptoAnswerIn h) (ok_ite (ok_of (tables_configPushIn ..)
    h) (ok_ite (ok_of (tables_configAckIn ..) h) (ok_ite (ok_firmwareBlockIn h) (ok_ite (ok_of (tables_drawFillIn ..) h) (ok_ite (ok_of
    (tables_challengeIn ..) h) (ok_ite (ok_of (tables_replayInputIn ..) h) (ok_ite (ok_of (tables_replayLogIn ..) h) (ok_of (tables_coreStopIn ..)
    h)))))))))))

theorem ok_bargeReceive {toField lane errs d0} (h : (tables d0).Ok) : (tables (bargeReceive toField lane errs d0)).Ok := by
  unfold bargeReceive
  dsimp only
  split
  · exact h
  · refine ok_ite (ok_of (tables_lkgLost ..) (ok_of (tables_answered ..) (ok_of (tables_onLkg ..) h))) ?_
    refine ok_ite h ?_
    refine ok_ite (ok_of (tables_integFail ..) (ok_of (tables_onLkg ..) (ok_ite (ok_of (tables_answered ..) (ok_of (tables_onLkg ..) h)) (ok_of
      (tables_onLkg ..) h)))) ?_
    refine ok_ite (ok_ite (ok_of (tables_answered ..) (ok_of (tables_onLkg ..) h)) (ok_of (tables_onLkg ..) h)) ?_
    split
    · exact ok_bargeArrive (ok_of (tables_onLkg ..) (ok_of (tables_onLkg ..) h))
    · exact ok_ite (ok_of (tables_onLkg ..) (ok_of (tables_onLkg ..) h)) (ok_bargeArrive (ok_of (tables_onLkg ..) h))

theorem ok_mbxResult {c st d} (h : (tables d).Ok) : (tables (mbxResult c st d)).Ok := by
  unfold mbxResult
  exact ok_ite (ok_of (tables_fireVec ..) (ok_fnWrite (ok_of (tables_mbxSet ..) h))) (ok_of (tables_pushInput ..) (ok_of (tables_mbxSet ..) h))

theorem ok_mbxTimeout {c d} (h : (tables d).Ok) : (tables (mbxTimeout c d)).Ok := by
  unfold mbxTimeout
  exact ok_ite (ok_mbxResult h) h

theorem ok_mbxEdge {d c} (h : (tables d).Ok) : (tables (mbxEdge d c)).Ok := by
  unfold mbxEdge
  exact ok_mbxTimeout (ok_ite (ok_of (tables_fireVec ..) (ok_fnWrite (ok_of (tables_mbxSet ..) (ok_ite (ok_mbxResult (ok_of (tables_mbxSet ..) h)) (ok_of
    (tables_mbxSet ..) h))))) (ok_of (tables_mbxSet ..) (ok_ite (ok_mbxResult (ok_of (tables_mbxSet ..) h)) (ok_of (tables_mbxSet ..) h))))

theorem ok_mbxEdges {d} (h : (tables d).Ok) : (tables (mbxEdges d)).Ok := by
  unfold mbxEdges
  exact ok_foldl (fun _ _ hd => ok_mbxEdge hd) h

theorem ok_flsOffer {d o} (h : (tables d).Ok) : OptOk (flsOffer d o) := by
  unfold flsOffer
  dsimp only
  split
  · exact optOk_none
  · exact optOk_some (ok_rejectOp h)
  · refine optOk_ite (optOk_some (ok_of (tables_setOp ..) (ok_ite (ok_of (tables_resumeErase ..) h) (ok_of (tables_planeSet ..) h)))) ?_
    split
    · refine optOk_some ?_
      refine ok_rejectOp ?_
      split
      · exact ok_ite (ok_of (tables_mpuRecord ..) h) h
      · exact h
    · refine optOk_ite ?_ (optOk_some (ok_of (tables_flsRun ..) h))
      split
      · rename_i he
        exact optOk_some (ok_of (tables_flsRun ..) ((ok_of ((tables_snd he).trans (tables_engRead ..)) h)))
      · rename_i he
        exact optOk_some (ok_rejectOp ((ok_of ((tables_snd he).trans (tables_engRead ..)) h)))

theorem ok_flsOfferAll {os d} (h : (tables d).Ok) : (tables (flsOfferAll os d)).Ok := by
  unfold flsOfferAll
  exact ok_foldl (fun _ _ hd => ok_getD (ok_flsOffer hd) hd) h

theorem ok_flsPlane {d p} (h : (tables d).Ok) : (tables (flsPlane d p)).Ok := by
  unfold flsPlane
  exact ok_ite h (ok_flsOfferAll (ok_flsOfferAll h))

theorem ok_flsStep {d} (h : (tables d).Ok) : (tables (flsStep d)).Ok := by
  unfold flsStep
  exact ok_foldl (fun _ _ hd => ok_flsPlane hd) h

theorem ok_flsDue {d o} (h : (tables d).Ok) : (tables (flsDue d o)).Ok := by
  unfold flsDue
  exact ok_ite (ok_endWith h) h

theorem ok_flsEnd {d o st sub} (h : (tables d).Ok) : (tables (flsEnd d o st sub)).Ok := by
  unfold flsEnd
  exact ok_ite (ok_of (tables_dropOp ..) h) (ok_endWith h)

theorem ok_flsCopy {d o data} (h : (tables d).Ok) : (tables (flsCopy d o data)).Ok := by
  unfold flsCopy
  split
  · rename_i he
    exact ok_flsEnd ((ok_snd he (ok_engWriteAt h)))
  · rename_i he
    exact ok_flsEnd ((ok_snd he (ok_engWriteAt h)))

theorem ok_flsCurDone {p ok corr wcc o d} (h : (tables d).Ok) : (tables (flsCurDone p ok corr wcc o d)).Ok := by
  have ht : (tables (takeCur p ((flsWcc d o wcc).getD d))).Ok := ok_of (tables_takeCur ..) (ok_getD (fun _ hw => ok_of (tables_flsWcc hw) h) h)
  unfold flsCurDone
  refine ok_ite ?_ (ok_ite ?_ ?_)
  · exact ok_ite (ok_flsEnd ht) (ok_ite (ok_flsEnd (ok_of (tables_rgAdd ..) ht)) (ok_flsCopy (ok_ite (ok_of (tables_rgAdd ..) ht) ht)))
  · exact ok_ite (ok_flsEnd (ok_of (tables_tornRecord ..) ht)) (ok_flsEnd (ok_of (tables_planeSet ..) ht))
  · refine ok_ite (ok_flsEnd (ok_of (tables_planeSet ..) ht)) (ok_ite ?_ ?_) <;>
      exact ok_flsEnd (ok_of ((tables_planeSet ..).trans (tables_tornPage ..)) ht)

theorem ok_flsComplete {p ok corr wcc d} (h : (tables d).Ok) : (tables (flsComplete p ok corr wcc d)).Ok := by
  unfold flsComplete
  dsimp only
  split
  · exact ok_flsCurDone h
  · refine ok_ite h ?_
    split
    · exact h
    · exact ok_ite (ok_flsEnd (ok_of (tables_planeSet ..) h)) (ok_flsEnd (ok_of (tables_planeSet ..) (ok_of (tables_tornBlock ..) h)))

theorem ok_slotOpEnd {s st sub d} (h : (tables d).Ok) : (tables (slotOpEnd s st sub d)).Ok := by
  unfold slotOpEnd
  split
  · exact ok_endWith h
  · exact h

theorem ok_writeEnds {s st sub d} (h : (tables d).Ok) : (tables (writeEnds s st sub d)).Ok := by
  unfold writeEnds
  exact ok_ite (ok_slotOpEnd h) (ok_ite (ok_of (tables_writeReport ..) h) h)

theorem ok_cardRemove {s sent d} (h : (tables d).Ok) : (tables (cardRemove s sent d)).Ok := by
  unfold cardRemove
  exact ok_ite h (ok_foldl (fun _ _ hd => ok_endWith hd) (ok_ite (ok_of (tables_onSdh ..) (ok_of (tables_sdSlotSet ..) (ok_of (tables_dropSpecial ..)
    (ok_writeEnds h)))) (ok_of (tables_sdSlotSet ..) (ok_of (tables_dropSpecial ..) (ok_writeEnds h)))))

theorem ok_slotFails {s d} (h : (tables d).Ok) : (tables (slotFails s d)).Ok := by
  unfold slotFails
  exact ok_ite (ok_of (tables_onSdh ..) (ok_of (tables_sdSlotSet ..) (ok_of (tables_dropSpecial ..) (ok_writeEnds h)))) (ok_of (tables_sdSlotSet ..)
    (ok_of (tables_dropSpecial ..) (ok_writeEnds h)))

theorem ok_busyTimeout {s d} (h : (tables d).Ok) : (tables (busyTimeout s d)).Ok := by
  unfold busyTimeout
  exact ok_ite (ok_of (tables_spendBlock ..) (ok_writeEnds h)) h

theorem ok_recordWrite {s fails d} (h : (tables d).Ok) : (tables (recordWrite s fails d)).Ok := by
  unfold recordWrite
  dsimp only
  split
  · exact ok_ite (ok_slotFails h) h
  · refine ok_ite (ok_busyTimeout h) ?_
    refine ok_ite (ok_of (tables_spendBlock ..) (ok_slotFails (ok_of (tables_sdSlotSet ..) h))) ?_
    refine ok_of (tables_noteWritten ..) ?_
    split
    · exact ok_slotOpEnd (ok_of (tables_onSdh ..) (ok_of (tables_sdSlotSet ..) h))
    · exact ok_slotOpEnd (ok_of (tables_onSdh ..) (ok_of (tables_sdSlotSet ..) h))
    · exact ok_of (tables_sdSlotSet ..) h
    · exact ok_of (tables_dropFirst ..) (ok_of (tables_sdSlotSet ..) h)

theorem ok_cmdReject {d o right mpu f} (h : (tables d).Ok) : (tables (cmdReject d o right mpu f)).Ok := by
  unfold cmdReject
  refine ok_rejectOp ?_
  split
  · exact ok_ite (ok_of (tables_mpuRecord ..) h) h
  · exact h

theorem ok_appendAdmit {d o} (h : (tables d).Ok) : OptOk (appendAdmit d o) := by
  unfold appendAdmit
  dsimp only
  split
  · exact optOk_some (ok_cmdReject h)
  · refine optOk_ite optOk_none ?_
    split
    · rename_i he
      exact optOk_some (ok_rejectOp ((ok_of ((tables_snd he).trans (tables_engRead ..)) h)))
    · rename_i he
      split
      · rename_i he _ _ he1
        exact optOk_some (ok_rejectOp ((ok_of (tables_opWcc he1) ((ok_of ((tables_snd he).trans (tables_engRead ..)) h)))))
      · rename_i he _ _
        exact optOk_some (ok_of (tables_setOp ..) (ok_of (tables_bufAdd ..) (ok_of (tables_sdhSeal ..) (ok_of (tables_debit ..) ((ok_of ((tables_snd
          he).trans (tables_engRead ..)) h))))))

theorem ok_appendDue {d o} (h : (tables d).Ok) : (tables (appendDue d o)).Ok := by
  unfold appendDue
  exact ok_ite (ok_endWith (ok_of (tables_noteSeq ..) h)) h

theorem ok_sdReadAdmit {d o} (h : (tables d).Ok) : (tables (sdReadAdmit d o)).Ok := by
  unfold sdReadAdmit
  dsimp only
  split
  · exact ok_cmdReject h
  · exact ok_of (tables_setOp ..) h

theorem ok_sdReadDue {d o} (h : (tables d).Ok) : (tables (sdReadDue d o)).Ok := by
  unfold sdReadDue
  refine ok_ite ?_ h
  refine ok_ite (ok_endWith h) ?_
  refine ok_ite (ok_endWith (ok_of (tables_sdSlotSet ..) h)) ?_
  dsimp only
  split
  · rename_i he
    exact ok_endWith ((ok_snd he (ok_engWriteAt (ok_of (tables_sdSlotSet ..) h))))
  · rename_i he
    split
    · rename_i he _ _ he1
      exact ok_endWith ((ok_of (tables_opWcc he1) ((ok_snd he (ok_engWriteAt (ok_of (tables_sdSlotSet ..) h))))))
    · rename_i he _ _
      exact ok_endWith ((ok_snd he (ok_engWriteAt (ok_of (tables_sdSlotSet ..) h))))

theorem ok_sdSlotAdmit {d o} (h : (tables d).Ok) : OptOk (sdSlotAdmit d o) := by
  unfold sdSlotAdmit
  dsimp only
  split
  · exact optOk_some (ok_rejectOp h)
  · exact optOk_ite optOk_none (optOk_some (ok_ite (ok_of (tables_startOpen ..) (ok_of (tables_setOp ..) h)) (ok_ite (ok_of (tables_startClose ..) (ok_of
      (tables_setOp ..) h)) (ok_of (tables_setOp ..) h))))

theorem ok_sdhStep {d} (h : (tables d).Ok) : (tables (sdhStep d)).Ok := by
  unfold sdhStep
  refine ok_foldl ?_ h
  refine (fun _ _ hd => ?_)
  split
  · exact hd
  · exact ok_ite (ok_getD (ok_appendAdmit hd) hd) (ok_ite (ok_sdReadAdmit hd) (ok_getD (ok_sdSlotAdmit hd) hd))

theorem ok_officerPresence {i present d} (h : (tables d).Ok) : (tables (officerPresence i present d)).Ok := by
  unfold officerPresence
  refine ok_ite h ?_
  dsimp only
  split
  · exact ok_endWith (ok_of (tables_ofcOff ..) h)
  · exact ok_of (tables_ofcOff ..) h

theorem ok_ofcEnd {i o st sub d} (h : (tables d).Ok) : (tables (ofcEnd i o st sub d)).Ok := by
  unfold ofcEnd
  exact ok_endWith (ok_ite (ok_of (tables_tamperEvent ..) (ok_of (tables_rgAdd ..) (ok_of (tables_ofcIfSet ..) h))) (ok_of (tables_ofcIfSet ..) h))

theorem ok_ofcLost {i o d} (h : (tables d).Ok) : (tables (ofcLost i o d)).Ok := by
  unfold ofcLost
  exact ok_ofcEnd (ok_of (tables_ofcIfSet ..) h)

theorem ok_officerTimeout {i d} (h : (tables d).Ok) : (tables (officerTimeout i d)).Ok := by
  unfold officerTimeout
  dsimp only
  split
  · exact ok_ite h (ok_ofcLost h)
  · exact h

theorem ok_ofcAdmit {d o} (h : (tables d).Ok) : OptOk (ofcAdmit d o) := by
  unfold ofcAdmit
  refine optOk_ite optOk_none ?_
  refine optOk_ite (optOk_some (ok_endWith (ok_of (tables_ofcOff ..) h))) ?_
  refine optOk_ite (optOk_ite (optOk_some (ok_rejectOp h)) (optOk_ite (optOk_some (ok_rejectOp h)) (optOk_some (ok_of (tables_setOp ..) (ok_of
    (tables_ofcIfSet ..) h))))) ?_
  refine optOk_ite (optOk_ite (optOk_some (ok_rejectOp h)) (optOk_some (ok_of (tables_setOp ..) (ok_of (tables_ofcIfSet ..) h)))) ?_
  dsimp only
  split
  · exact optOk_some (ok_rejectOp h)
  · exact optOk_some (ok_of (tables_setOp ..) (ok_of (tables_ofcIfSet ..) h))

theorem ok_ofcStep {d} (h : (tables d).Ok) : (tables (ofcStep d)).Ok := by
  unfold ofcStep
  exact ok_foldl (fun _ _ hd => ok_getD (ok_ofcAdmit hd) hd) h

theorem ok_ofcNonce {i d} (h : (tables d).Ok) : (tables (ofcNonce i d)).Ok := by
  unfold ofcNonce
  dsimp only
  split
  · exact h
  · exact ok_ite h (ok_ite (ok_ofcEnd h) (ok_of (tables_ofcIfSet ..) (ok_of (tables_hwDraw ..) h)))

theorem ok_ofcVerified {i o d} (h : (tables d).Ok) : (tables (ofcVerified i o d)).Ok := by
  unfold ofcVerified
  exact ok_ite (ok_ofcEnd (ok_of (tables_ofcIfSet ..) h)) (ok_of (tables_with ..) (ok_of (tables_ofcIfSet ..) h))

theorem ok_ofcVerdict {d j} (h : (tables d).Ok) : (tables (ofcVerdict d j)).Ok := by
  unfold ofcVerdict
  split
  · dsimp only
    split
    · exact ok_of (tables_dropOp ..) h
    · exact ok_ite (ok_of (tables_dropOp ..) h) (ok_ite (ok_ofcVerified (ok_of (tables_dropOp ..) h)) (ok_ite (ok_ofcEnd (ok_of (tables_dropOp ..) h))
        (ok_ite (ok_ofcEnd (ok_of (tables_dropOp ..) h)) (ok_of (tables_addOp ..) (ok_of (tables_dropOp ..) h)))))
  · exact h

theorem ok_ofcVerdicts {d} (h : (tables d).Ok) : (tables (ofcVerdicts d)).Ok := by
  unfold ofcVerdicts
  exact ok_foldl (fun _ _ hd => ok_ofcVerdict hd) h

theorem ok_ofcResponse {i o sw data d} (h : (tables d).Ok) : (tables (ofcResponse i o sw data d)).Ok := by
  unfold ofcResponse
  refine ok_ite (ok_ofcEnd h) ?_
  refine ok_ite (ok_of (tables_ofcIfSet ..) h) ?_
  refine ok_ite ?_ (ok_of (tables_ofcSigned ..) h)
  split
  · exact ok_ofcEnd h
  · exact ok_ofcNonce (ok_of (tables_ofcIfSet ..) h)

theorem ok_ofcActive {i o x d} (h : (tables d).Ok) : (tables (ofcActive i o x d)).Ok := by
  unfold ofcActive
  exact ok_ite (ok_of (tables_ofcIfSet ..) h) (ok_ofcEnd (ok_of (tables_ofcIfSet ..) h))

theorem ok_ofcActivating {i o atrs rsp d} (h : (tables d).Ok) : (tables (ofcActivating i o atrs rsp d)).Ok := by
  unfold ofcActivating
  refine ok_ite (ok_ite (ok_ofcActive h) (ok_ite (ok_ofcActive h) (ok_ofcLost h))) ?_
  refine ok_ite (ok_ite (ok_ofcActive h) (ok_ofcLost h)) ?_
  split
  · exact ok_ofcLost h
  · exact ok_ite (ok_of (tables_ofcIfSet ..) h) (ok_ofcActive h)

theorem ok_officerAnswer {i atrs rsp d} (h : (tables d).Ok) : (tables (officerAnswer i atrs rsp d)).Ok := by
  unfold officerAnswer
  dsimp only
  split
  · exact h
  · refine ok_ite (ok_ofcActivating h) ?_
    refine ok_ite h ?_
    split
    · exact ok_ofcResponse (ok_of (tables_ofcIfSet ..) h)
    · exact ok_of (tables_ofcIfSet ..) h
    · exact ok_ofcLost h

theorem ok_ofcEdge {d} (h : (tables d).Ok) : (tables (ofcEdge d)).Ok := by
  unfold ofcEdge
  exact ok_foldl (fun _ _ hd => ok_ofcNonce hd) (ok_foldl (fun _ _ hd => ok_of (tables_sessionExpiry ..) hd) (ok_ofcVerdicts h))

theorem ok_lcsAdmit {d o} (h : (tables d).Ok) : OptOk (lcsAdmit d o) := by
  unfold lcsAdmit
  refine optOk_ite (optOk_some (ok_rejectOp h)) ?_
  refine optOk_ite (optOk_some (ok_rejectOp h)) ?_
  refine optOk_ite (optOk_some (ok_cmdReject h)) ?_
  refine optOk_ite (optOk_some (ok_endWith (ok_of (tables_onLife ..) h))) ?_
  refine optOk_ite (optOk_some (ok_endWith (ok_of (tables_onLife ..) h))) ?_
  refine optOk_ite ?_ ?_
  · split
    · exact optOk_some (ok_rejectOp h)
    · exact optOk_some (ok_endWith (ok_of (tables_onLife ..) h))
  · refine optOk_ite (optOk_ite optOk_none (optOk_ite (optOk_some (ok_rejectOp h)) (optOk_some (ok_endWith (ok_of (tables_issueChallenge ..) h))))) ?_
    refine optOk_some ?_
    split
    · exact ok_rejectOp (ok_of (tables_verifyResponse ..) h)
    · exact ok_endWith (ok_of (tables_verifyResponse ..) h)

theorem ok_lcsStep {d} (h : (tables d).Ok) : (tables (lcsStep d)).Ok := by
  unfold lcsStep
  exact ok_foldl (fun _ _ hd => ok_getD (ok_lcsAdmit hd) hd) h

/-- The defining equation is got from the function as a whole: the kernel would evaluate the writes to check the applied one. -/
theorem ok_stageWrite {ws : List Word} {d : Dev} (h : (tables d).Ok) : (tables (stageWrite ws d).2).Ok := by
  have hf : stageWrite = stageWrite := rfl
  conv_rhs at hf => delta stageWrite
  have hd := congrFun (congrFun hf ws) d
  dsimp only at hd
  rw [hd]
  split
  · next he => exact ok_snd he (ok_engWriteAt h)
  · next he => exact ok_engWriteAt (ok_snd he (ok_engWriteAt h))

theorem ok_rplLost {pass d} (h : (tables d).Ok) : (tables (rplLost pass d)).Ok := by
  unfold rplLost
  exact ok_of (tables_onRpl ..) (ok_of (tables_rgAdd ..) (ok_of (tables_stagePut ..) (ok_stageWrite h)))

theorem ok_stageRecord {pass o d} (h : (tables d).Ok) : (tables (stageRecord pass o d)).Ok := by
  unfold stageRecord
  refine ok_ite (ok_rplLost h) ?_
  split
  · rename_i he
    exact ok_of (tables_stagePut ..) ((ok_snd he (ok_stageWrite h)))
  · rename_i he
    exact ok_rplLost ((ok_snd he (ok_stageWrite h)))

theorem ok_recordClose {d} (h : (tables d).Ok) : (tables (recordClose d)).Ok := by
  unfold recordClose
  split
  · exact h
  · exact ok_ite h (ok_stageRecord (ok_of (tables_onRpl ..) h))

theorem ok_recordCloseAll {n : ℕ} {d : Dev} (h : (tables d).Ok) : (tables (recordCloseAll n d)).Ok := by
  induction n generalizing d with
  | zero => exact h
  | succ n ih => exact ok_ite (ih (ok_recordClose h)) h

theorem ok_rplStart {d} (h : (tables d).Ok) : (tables (rplStart d)).Ok := by
  unfold rplStart
  exact ok_ite (ok_of (tables_onRpl ..) h) (ok_stageRecord (ok_of (tables_onRpl ..) (ok_of (tables_moncInc ..) (ok_of (tables_hwDraw ..) (ok_of
    (tables_onRpl ..) h)))))

theorem ok_rplStop {d} (h : (tables d).Ok) : (tables (rplStop d)).Ok := by
  unfold rplStop
  exact ok_of (tables_rplWipe ..) (ok_recordCloseAll (ok_of (tables_rplSnap ..) h))

theorem ok_rplCtlOpen {was d} (h : (tables d).Ok) : (tables (rplCtlOpen was d)).Ok := by
  unfold rplCtlOpen
  exact ok_ite (ok_rplStart h) (ok_ite (ok_rplStop h) h)

theorem ok_ringWrite {d o} (h : (tables d).Ok) : (tables (ringWrite d o)).Ok := by
  unfold ringWrite
  exact ok_fnWrite (ok_fnWrite h)

theorem ok_recordDelivery {consumed d} (h : (tables d).Ok) : (tables (recordDelivery consumed d)).Ok := by
  unfold recordDelivery
  split
  · exact h
  · exact ok_ite h (ok_of (tables_stagePrune ..) (ok_ite (ok_of (tables_fireVec ..) (ok_fnWrite (ok_of (tables_onRpl ..) (ok_ringWrite h)))) (ok_fnWrite
      (ok_of (tables_onRpl ..) (ok_ringWrite h)))))

theorem ok_rplWaits {d} (h : (tables d).Ok) : (tables (rplWaits d)).Ok := by
  unfold rplWaits
  exact ok_ite (ok_of (tables_releaseOpen ..) (ok_ite (ok_rplStart h) h)) (ok_ite (ok_rplStart h) h)

theorem ok_coreReset {m d} (h : (tables d).Ok) : (tables (coreReset m d)).Ok := by
  unfold coreReset
  exact ok_onRst (ok_of (tables_rgSet ..) (ok_of (tables_rgSet ..) (ok_of (tables_with ..) (ok_of (tables_pmuReset ..) (ok_of (tables_hopCoreReset ..)
    (ok_of (tables_coreSet ..) (ok_ite (ok_of (tables_chmEmpty ..) (ok_of (tables_mbxGone ..) (ok_of (tables_rplItem ..) h))) (ok_of (tables_mbxGone ..)
    (ok_of (tables_rplItem ..) h))))))))) (fun _ => rfl)

theorem ok_fieldReset {d} (h : (tables d).Ok) : (tables (fieldReset d)).Ok := by
  unfold fieldReset
  extract_lets d1 r d2 d3
  have h1 : (tables d1).Ok := ok_foldl (fun _ _ hd => ok_coreReset hd) h
  have h2 : (tables d2).Ok := by
    clear_value d1
    exact ⟨⟨h1.1.1, rfl, h1.1.2.2⟩, h1.2⟩
  clear_value d2
  have h3 : (tables d3).Ok := ok_of ((tables_lkgReset _).trans ((tables_challengeWipe _).trans (tables_tagFieldReset _))) h2
  clear_value d3
  exact ok_onRst (ok_of (tables_with ..) h3) (fun _ => rfl)

theorem ok_hostReset {d} (h : (tables d).Ok) : (tables (hostReset d)).Ok := by
  unfold hostReset
  extract_lets d1 d2 d3 f d4 d5
  have h1 : (tables d1).Ok := ok_ite h (ok_of (tables_chmEmpty _) h)
  have h2 : (tables d2).Ok := ok_foldl (fun _ _ hd => ok_coreReset hd) h1
  clear_value d2
  have h3 : (tables d3).Ok := ok_of (tables_lifeReset _) (ok_of (tables_sdhReset ..) (ok_of (tables_ofcReset _) (ok_of (tables_crgDiscard _)
    (ok_of (tables_flsHostReset _) h2))))
  have h4 : (tables d4).Ok := by
    clear_value d3
    exact ⟨⟨tabWf_filter 0 _ _ h3.1.1, h3.1.2⟩, h3.2⟩
  clear_value d4
  have h5 : (tables d5).Ok := ok_of ((tables_clearCounts _).trans (tables_lkgReset _)) h4
  clear_value d5
  exact ok_onRst h5 (fun _ => rfl)

theorem ok_coldReset {d} (h : (tables d).Ok) : (tables (coldReset d)).Ok := by
  unfold coldReset
  extract_lets d1 d2 p d3
  have h1 : (tables d1).Ok := ok_fieldReset (ok_hostReset (ok_of (tables_flsCut _) h))
  have h2 : (tables d2).Ok := ok_of (tables_foldl (fun d i => tables_rgSet d (Reg.RST_STOP + i) 0) (List.range 16) d1) h1
  have h3 : (tables d3).Ok := by
    clear_value d2
    exact ⟨⟨rfl, h2.1.2⟩, h2.2⟩
  clear_value d3
  exact ok_onRst h3 (fun _ => rfl)

theorem ok_keepReset {d} (h : (tables d).Ok) : (tables (keepReset d)).Ok := by
  unfold keepReset
  exact ok_onRst (ok_of (tables_with ..) (ok_of (tables_sdhReset ..) (ok_coldReset h))) (fun _ => rfl)

theorem ok_carryOut {lvl src m d} (h : (tables d).Ok) : (tables (carryOut lvl src m d)).Ok := by
  unfold carryOut
  exact ok_ite (ok_of (tables_with ..) (ok_of (tables_noteReset ..) (ok_keepReset h))) (ok_ite (ok_of (tables_with ..) (ok_of (tables_noteReset ..)
    (ok_coldReset h))) (ok_ite (ok_of (tables_with ..) (ok_of (tables_noteReset ..) (ok_hostReset h))) (ok_ite (ok_of (tables_with ..) (ok_of
    (tables_noteReset ..) (ok_onRst (ok_fieldReset h) (fun _ => rfl)))) (ok_ite (ok_of (tables_with ..) (ok_of (tables_noteReset ..) (ok_coreReset h)))
    h))))

theorem ok_sourceAt {lvl src m d} (h : (tables d).Ok) : (tables (sourceAt lvl src m d)).Ok := by
  unfold sourceAt
  exact ok_ite h (ok_ite (ok_of (tables_noteReset ..) h) (ok_carryOut h))

theorem ok_sourceAssert {s m d} (h : (tables d).Ok) : (tables (sourceAssert s m d)).Ok := by
  unfold sourceAssert
  exact ok_ite h (ok_sourceAt h)

theorem ok_tamperReset {lvl d} (h : (tables d).Ok) : (tables (tamperReset lvl d)).Ok := by
  refine ok_onRst (ok_ite h (ok_carryOut h)) (fun r => ?_)
  split <;> rfl

theorem ok_rstCmd {m v d} (h : (tables d).Ok) : (tables (rstCmd m v d)).Ok := by
  unfold rstCmd
  exact ok_ite h (ok_sourceAt h)

theorem ok_releaseStep {n d} (h : (tables d).Ok) : (tables (releaseStep n d)).Ok := by
  unfold releaseStep
  exact ok_ite h (ok_ite (ok_of (tables_coreStart ..) (ok_ite (ok_onRst h (fun _ => rfl)) (ok_onRst h (fun _ => rfl)))) (ok_ite (ok_of (tables_hopRelease
    ..) (ok_ite (ok_onRst h (fun _ => rfl)) (ok_onRst h (fun _ => rfl)))) (ok_ite (ok_of (tables_segStart ..) (ok_foldl (fun _ _ hd => ok_of
    (tables_coreStart ..) hd) (ok_ite (ok_onRst h (fun _ => rfl)) (ok_onRst h (fun _ => rfl))))) (ok_ite (ok_onRst (ok_ite (ok_onRst h (fun _ => rfl))
    (ok_onRst h (fun _ => rfl))) (fun _ => rfl)) (ok_ite (ok_of (tables_with ..) (ok_ite (ok_onRst h (fun _ => rfl)) (ok_onRst h (fun _ => rfl)))) (ok_ite
    (ok_onRst (ok_ite (ok_onRst h (fun _ => rfl)) (ok_onRst h (fun _ => rfl))) (fun _ => rfl)) (ok_ite (ok_onRst h (fun _ => rfl)) (ok_onRst h (fun _ =>
    rfl)))))))))

theorem ok_rstGo {m step d} (h : (tables d).Ok) : (tables (rstGo m step d)).Ok := by
  unfold rstGo
  exact ok_ite h (ok_ite (ok_onRst h (fun _ => rfl)) (ok_ite (ok_of (tables_segStart ..) (ok_foldl (fun _ _ hd => ok_of (tables_coreStart ..) hd) (ok_of
    (tables_with ..) h))) h))

/-- An entry of the reset map is blown with a level it permits. -/
theorem ok_fuseProg {m v d} (h : (tables d).Ok) : (tables (fuseProg m v d)).Ok := by
  unfold fuseProg
  extract_lets e x good
  split
  · next hc =>
    obtain ⟨-, -, -, hgood⟩ := hc
    refine ⟨h.1, List.all_eq_true.mpr fun p hp => ?_⟩
    rcases mem_tabPut _ _ _ _ hp with rfl | hp
    · by_cases he : e ≤ 16
      · simp only [good, if_pos he, Bool.and_eq_true, decide_eq_true_eq] at hgood
        simp [hgood.2]
      · simp [Nat.lt_of_not_le he]
    · exact List.all_eq_true.mp h.2 p hp
  · exact h

theorem ok_wdgSet {c v d} (h : (tables d).Ok) : (tables (wdgSet c v d)).Ok := by
  unfold wdgSet
  exact ok_of (tables_rgSet ..) (ok_onRst h (fun _ => rfl))

theorem ok_wdgCtlWrite {m pl c v d} (h : (tables d).Ok) : (tables (wdgCtlWrite m pl c v d)).Ok := by
  unfold wdgCtlWrite
  exact ok_ite h (ok_ite (ok_wdgSet (ok_of (tables_rgSet ..) h)) (ok_of (tables_rgSet ..) h))

theorem ok_wdgKick {m c d} (h : (tables d).Ok) : (tables (wdgKick m c d)).Ok := by
  unfold wdgKick
  exact ok_ite (ok_onRst h (fun _ => rfl)) h

theorem ok_wdgWarning {c d} (h : (tables d).Ok) : (tables (wdgWarning c d)).Ok := by
  unfold wdgWarning
  exact ok_ite (ok_of (tables_pendSet ..) (ok_onRst h (fun _ => rfl))) h

theorem ok_wdgExpiry {c d} (h : (tables d).Ok) : (tables (wdgExpiry c d)).Ok := by
  unfold wdgExpiry
  exact ok_ite (ok_sourceAssert h) h

theorem ok_wdgEdge {d c} (h : (tables d).Ok) : (tables (wdgEdge d c)).Ok := by
  unfold wdgEdge
  exact ok_ite (ok_onRst h (fun _ => rfl)) (ok_ite (ok_ite (ok_wdgWarning (ok_onRst h (fun _ => rfl))) (ok_wdgWarning (ok_wdgSet (ok_wdgWarning (ok_onRst
    h (fun _ => rfl)))))) (ok_wdgExpiry (ok_wdgWarning (ok_wdgSet (ok_wdgWarning (ok_onRst h (fun _ => rfl)))))))

theorem ok_powerGood {d} (h : (tables d).Ok) : (tables (powerGood d)).Ok := by
  unfold powerGood
  exact ok_ite h (ok_ite (ok_sourceAssert (ok_onRst h (fun _ => rfl))) (ok_sourceAssert (ok_onRst h (fun _ => rfl))))

theorem ok_brownOut {rail ext d} (h : (tables d).Ok) : (tables (brownOut rail ext d)).Ok := by
  unfold brownOut
  exact ok_ite h (ok_onRst (ok_ite (ok_of (tables_with ..) (ok_sourceAssert h)) (ok_sourceAssert h)) (fun _ => rfl))

theorem ok_keepSupplyLost {d} (h : (tables d).Ok) : (tables (keepSupplyLost d)).Ok := by
  unfold keepSupplyLost
  exact ok_ite h (ok_onRst (ok_of (tables_with ..) h) (fun _ => rfl))

theorem ok_zeroise {d} (h : (tables d).Ok) : (tables (zeroise d)).Ok := by
  unfold zeroise
  exact ok_of (tables_endTowpath ..) (ok_of (tables_endSessions ..) (ok_of (tables_hopRestart ..) (ok_ite (ok_of (tables_with ..) (ok_of
    (tables_dropSaFrames ..) (ok_of (tables_with ..) (ok_foldl (fun _ _ hd => ok_endEarly hd) h)))) (ok_of (tables_chmEmpty ..) (ok_of (tables_with ..)
    (ok_of (tables_dropSaFrames ..) (ok_of (tables_with ..) (ok_foldl (fun _ _ hd => ok_endEarly hd) h))))))))

theorem ok_holdEnd {d o} (h : (tables d).Ok) : (tables (holdEnd d o)).Ok := by
  unfold holdEnd
  refine ok_ite ?_ (ok_endEarly h)
  split
  · rename_i he
    exact ok_endEarly ((ok_of (tables_takeBack he) h))
  · exact h

theorem ok_holdEnter {cause d} (h : (tables d).Ok) : (tables (holdEnter cause d)).Ok := by
  unfold holdEnter
  exact ok_sourceAssert (ok_foldl (fun _ _ hd => ok_of (tables_dropFrames ..) hd) (ok_of (tables_rplWipe ..) (ok_of (tables_ofcHold ..) (ok_of
    (tables_endSessions ..) (ok_of (tables_crgDiscard ..) (ok_of (tables_challengeWipe ..) (ok_of (tables_fieldHold ..) (ok_of (tables_hopHold ..) (ok_of
    (tables_with ..) (ok_foldl (fun _ _ hd => ok_holdEnd hd) (ok_of (tables_holdLatch ..) h)))))))))))

theorem ok_respond {resp src d} (h : (tables d).Ok) : (tables (respond resp src d)).Ok := by
  unfold respond
  exact ok_ite (ok_tamperReset h) (ok_ite (ok_tamperReset h) (ok_ite (ok_zeroise h) (ok_ite (ok_holdEnter h) h)))

theorem ok_windowEnd {d} (h : (tables d).Ok) : (tables (windowEnd d)).Ok := by
  unfold windowEnd
  exact ok_ite h (ok_ite (ok_respond (ok_ite (ok_of (tables_raiseTamper ..) (ok_foldl (fun _ _ hd => ok_of (tables_tmpLog ..) hd) (ok_of (tables_onTmp ..)
    h))) (ok_foldl (fun _ _ hd => ok_of (tables_tmpLog ..) hd) (ok_of (tables_onTmp ..) h)))) (ok_ite (ok_of (tables_raiseTamper ..) (ok_foldl (fun _ _ hd
    => ok_of (tables_tmpLog ..) hd) (ok_of (tables_onTmp ..) h))) (ok_foldl (fun _ _ hd => ok_of (tables_tmpLog ..) hd) (ok_of (tables_onTmp ..) h))))

theorem ok_applyEntry {d e} (h : (tables d).Ok) : (tables (applyEntry d e)).Ok := by
  unfold applyEntry
  exact ok_ite (ok_holdEnter (ok_ite (ok_of (tables_onTmp ..) (ok_of (tables_tmpLog ..) (ok_of (tables_onTmp ..) h))) (ok_of (tables_tmpLog ..) (ok_of
    (tables_onTmp ..) h)))) (ok_ite (ok_of (tables_onTmp ..) (ok_of (tables_tmpLog ..) (ok_of (tables_onTmp ..) h))) (ok_of (tables_tmpLog ..) (ok_of
    (tables_onTmp ..) h)))

theorem ok_applyDeferred {d} (h : (tables d).Ok) : (tables (applyDeferred d)).Ok := by
  unfold applyDeferred
  exact ok_foldl (fun _ _ hd => ok_applyEntry hd) (ok_of (tables_onTmp ..) h)

theorem ok_keepStart {d} (h : (tables d).Ok) : (tables (keepStart d)).Ok := by
  unfold keepStart
  exact ok_ite (ok_holdEnter (ok_of (tables_onTmp ..) (ok_of (tables_onTmp ..) h))) (ok_of (tables_onTmp ..) h)

theorem ok_unlockVerified {id d} (h : (tables d).Ok) : (tables (unlockVerified id d)).Ok := by
  unfold unlockVerified
  split
  · exact h
  · refine ok_ite h ?_
    split
    · exact ok_ite (ok_of (tables_tmpEvent ..) (ok_endWith h)) (ok_endWith h)
    · exact ok_of (tables_onTmp ..) h

theorem ok_holdRelease {d} (h : (tables d).Ok) : (tables (holdRelease d)).Ok := by
  unfold holdRelease
  split
  · exact h
  · dsimp only
    split
    · exact ok_endWith (ok_of (tables_hopRestart ..) (ok_of (tables_clearCounts ..) (ok_of (tables_onTmp ..) (ok_of (tables_with ..) (ok_ite (ok_zeroise
        h) h)))))
    · exact ok_of (tables_hopRestart ..) (ok_of (tables_clearCounts ..) (ok_of (tables_onTmp ..) (ok_of (tables_with ..) (ok_ite (ok_zeroise h) h))))

theorem ok_bootSelect {d} (h : (tables d).Ok) : (tables (bootSelect d)).Ok := by
  unfold bootSelect
  split
  · exact ok_onRst (ok_of (tables_onLife ..) h) (fun _ => rfl)
  · exact ok_of (tables_coreSet ..) (ok_of (tables_setEntries ..) (ok_of (tables_rgSet ..) (ok_of (tables_onLife ..) h)))

theorem ok_kBoot {bad lost d} (h : (tables d).Ok) : (tables (kBoot bad lost d)).Ok := by
  unfold kBoot
  exact ok_ite h (ok_bootSelect (ok_of (tables_sealBlockCheck ..) (ok_applyDeferred (ok_keepStart (ok_of (tables_ladderLoad ..) (ok_of (tables_ladder ..)
    (ok_of (tables_revote ..) (ok_of (tables_repairWords ..) (ok_of (tables_resume ..) h)))))))))

theorem ok_resetEvents {m n : ℕ} {d : Dev} (h : (tables d).Ok) : (tables (resetEvents m n d)).Ok := by
  induction n generalizing d with
  | zero => exact h
  | succ n ih =>
    have hp := ok_of (tables_popItem d m) h
    unfold resetEvents
    split
    · exact h
    · split
      · exact ih (ok_of (tables_onCore ..) (ok_coreReset hp))
      · split
        · exact ok_ite (ih (ok_of (tables_coreStart ..) hp)) h
        · exact h

theorem ok_sectBegin {s d} (h : (tables d).Ok) : (tables (sectBegin s d)).Ok := by
  have hstart := ok_ite (c := bit (wd s.flags) 0 = true ∧ ¬ (coreGet d s.core).run = true)
    (ok_of (tables_coreStart s.core (if isF s.core then 0 else hostEntry d s.core) d) h) h
  have hmem := ok_foldl (g := fun d (i : RplItem) => if isF s.core then fmWr d (i.words.headD 0) ((i.words.drop 1).map wd)
      else loseResv { d with mem := tabSetList 0 d.mem (i.words.headD 0) ((i.words.drop 1).map wd) } none false (i.words.headD 0) ((i.words.drop 1).map wd).length)
    (l := s.items.filter (fun i => decide (i.kind = 1))) (fun _ _ hd => ok_ite (ok_fmWr hd) (ok_memRun hd)) hstart
  have hpend := ok_of (tables_pendSet s.core 17 _) (ok_ite (c := (s.items.filter (fun i => decide (i.kind = 1))).isEmpty = true) hmem
    (ok_of (tables_pendSet s.core 16 _) hmem))
  unfold sectBegin
  refine ok_ite h (ok_ite (ok_of (tables_diverge ..) h) ?_)
  refine ok_ite (ok_of (tables_diverge ..) ?_) (ok_resetEvents ?_) <;>
    exact ok_of (tables_onCore ..) (ok_of (tables_rsectSet ..) (ok_of (tables_onRpl ..) hpend))

theorem ok_recordTaken {rec d} (h : (tables d).Ok) : (tables (recordTaken rec d)).Ok := by
  unfold recordTaken
  exact ok_fnWrite (ok_of (tables_onRpl ..) h)

theorem ok_replayedEdge {rec d} (h : (tables d).Ok) : (tables (replayedEdge rec d)).Ok := by
  unfold replayedEdge
  refine ok_ite h ?_
  split
  · exact ok_of (tables_diverge ..) h
  · split
    · exact ok_of (tables_diverge ..) (ok_of (tables_onRpl ..) h)
    · exact ok_ite (ok_recordTaken h) (ok_foldl (fun _ _ hd => ok_sectBegin hd) (ok_foldl (fun _ _ hd => ok_ite (ok_foldl (fun _ _ hd2 => ok_of
        (tables_queueBarge ..) hd2) hd) hd) (ok_of (tables_onRpl ..) (ok_recordTaken h))))

theorem ok_fieldReplay {d} (h : (tables d).Ok) : (tables (fieldReplay d)).Ok := by
  unfold fieldReplay
  refine ok_foldl ?_ h
  refine (fun _ _ hd => ?_)
  split
  · exact ok_foldl (fun _ _ hd2 => ok_sectBegin hd2) (ok_of (tables_onRpl ..) hd)
  · exact hd

theorem ok_replayEnter {d} (h : (tables d).Ok) : (tables (replayEnter d)).Ok := by
  unfold replayEnter
  extract_lets tok d1 d2 cs d3 d4
  have h2 : (tables d2).Ok := ok_of ((tables_foldl (fun _ _ => tables_endGrant ..) _ _).trans (tables_onRpl ..)) h
  have h3 : (tables d3).Ok := ok_foldl (fun _ _ hd => ok_coreReset hd) h2
  exact ok_filter (ok_ite (ok_carryOut h3) h3)

theorem ok_enterMaint {kind idx d} (h : (tables d).Ok) : (tables (enterMaint kind idx d)).Ok := by
  unfold enterMaint
  exact ok_ite (ok_coreReset (ok_of (tables_setPart ..) h)) (ok_of (tables_setPart ..) h)

theorem ok_drainUnit {kind idx d} (h : (tables d).Ok) : (tables (drainUnit kind idx d)).Ok := by
  unfold drainUnit
  exact ok_ite (ok_of (tables_leaveLane ..) (ok_of (tables_setPart ..) h)) (ok_enterMaint (ok_of (tables_leaveLane ..) (ok_of (tables_setPart ..) h)))

theorem ok_fenceUnit {kind idx reason d} (h : (tables d).Ok) : (tables (fenceUnit kind idx reason d)).Ok := by
  unfold fenceUnit
  exact ok_ite (ok_of (tables_wipeBanks ..) (ok_of (tables_leaveLane ..) (ok_of (tables_setPart ..) (ok_foldl (fun _ _ hd => ok_endUndef (ok_of
    (tables_leavePlane ..) hd)) h)))) (ok_ite (ok_coreReset (ok_of (tables_leaveLane ..) (ok_of (tables_setPart ..) (ok_foldl (fun _ _ hd => ok_endUndef
    (ok_of (tables_leavePlane ..) hd)) h)))) (ok_ite (ok_of (tables_dropFrames ..) (ok_of (tables_leaveLane ..) (ok_of (tables_setPart ..) (ok_foldl (fun
    _ _ hd => ok_endUndef (ok_of (tables_leavePlane ..) hd)) h)))) (ok_of (tables_leaveLane ..) (ok_of (tables_setPart ..) (ok_foldl (fun _ _ hd =>
    ok_endUndef (ok_of (tables_leavePlane ..) hd)) h)))))

theorem ok_hostPart {q d} (h : (tables d).Ok) : (tables (hostPart q d)).Ok := by
  unfold hostPart
  exact ok_ite (ok_ite h (ok_drainUnit h)) (ok_ite (ok_fenceUnit h) (ok_of (tables_setPart ..) h))

theorem ok_partitionApply {d} (h : (tables d).Ok) : (tables (partitionApply d)).Ok := by
  unfold partitionApply
  exact ok_of (tables_with ..) (ok_foldl (fun _ _ hd => ok_of (tables_showPart ..) hd) (ok_foldl (fun _ _ hd => ok_hostPart hd) h))

theorem ok_drainEdge {d} (h : (tables d).Ok) : (tables (drainEdge d)).Ok := by
  unfold drainEdge
  exact ok_of (tables_with ..) (ok_foldl (fun _ _ hd => ok_ite (ok_enterMaint hd) hd) h)

theorem ok_overrunFence {d o} (h : (tables d).Ok) : (tables (overrunFence d o)).Ok := by
  unfold overrunFence
  split
  · exact ok_of (tables_rgOr ..) (ok_ite h (ok_fenceUnit h))
  · exact ok_of (tables_rgOr ..) h

theorem ok_boundOverrun {d} (h : (tables d).Ok) : (tables (boundOverrun d)).Ok := by
  unfold boundOverrun
  exact ok_foldl (fun _ _ hd => ok_overrunFence hd) (ok_foldl (fun _ _ hd => ok_endUndef (ok_of (tables_leavePlane ..) hd)) h)

theorem ok_openReplay {old d} (h : (tables d).Ok) : (tables (openReplay old d)).Ok := by
  unfold openReplay
  exact ok_ite (ok_replayEnter h) (ok_ite (ok_of (tables_onRpl ..) h) h)

theorem ok_openNow {d} (h : (tables d).Ok) : (tables (openNow d)).Ok := by
  unfold openNow
  exact ok_of (tables_chmEmpty ..) (ok_of (tables_with ..) (ok_of (tables_lifeOpen ..) (ok_openReplay (ok_ite (ok_of (tables_releaseOpen ..)
    (ok_rplCtlOpen (ok_of (tables_rosterOpen ..) (ok_of (tables_sdhOpen ..) (ok_of (tables_bsnOpen ..) (ok_of (tables_crgOpen ..) (ok_of
    (tables_lockBindings ..) (ok_of (tables_openSas ..) (ok_of (tables_openStreams ..) (ok_of (tables_openRings ..) (ok_of (tables_applyEntries ..)
    h))))))))))) (ok_rplCtlOpen (ok_of (tables_rosterOpen ..) (ok_of (tables_sdhOpen ..) (ok_of (tables_bsnOpen ..) (ok_of (tables_crgOpen ..) (ok_of
    (tables_lockBindings ..) (ok_of (tables_openSas ..) (ok_of (tables_openStreams ..) (ok_of (tables_openRings ..) (ok_of (tables_applyEntries ..)
    h))))))))))))))

theorem ok_chamberOpen {d} (h : (tables d).Ok) : (tables (chamberOpen d)).Ok := by
  unfold chamberOpen
  refine ok_ite h ?_
  split
  · exact ok_of (tables_chmRefill ..) h
  · exact ok_openNow h

theorem ok_hostCtlWrite {m pl a v d} (h : (tables d).Ok) : OptOk (hostCtlWrite m pl a v d) := by
  unfold hostCtlWrite
  refine optOk_ite (optOk_some (ok_rstCmd h)) ?_
  refine optOk_ite (optOk_some (ok_rstGo h)) ?_
  refine optOk_ite (optOk_some (ok_of (tables_coreGo ..) h)) ?_
  refine optOk_ite (optOk_some (ok_fuseProg h)) ?_
  refine optOk_ite (optOk_some (ok_of (tables_stopClr ..) h)) ?_
  refine optOk_ite (optOk_some (ok_ite (ok_of (tables_rgSet ..) h) h)) ?_
  refine optOk_ite (optOk_some (ok_ite (ok_wdgCtlWrite h) (ok_ite (ok_wdgKick h) h))) ?_
  refine optOk_ite (optOk_some (ok_of (tables_moncWrite ..) h)) ?_
  refine optOk_ite (optOk_some (ok_of (tables_partReq ..) h)) ?_
  refine optOk_ite (optOk_some (ok_of (tables_chmCmdWrite ..) h)) ?_
  refine optOk_ite (optOk_some (ok_of (tables_lcsCmd ..) h)) ?_
  refine optOk_ite (optOk_some (ok_of (tables_mbxSend ..) h)) ?_
  refine optOk_ite (optOk_some (ok_of (tables_mbxAck ..) h)) ?_
  refine optOk_ite (optOk_some (ok_of (tables_kslCmd ..) h)) ?_
  refine optOk_ite (optOk_some (ok_of (tables_ilsCmd ..) h)) ?_
  refine optOk_ite (optOk_some (ok_of (tables_grdCmd ..) h)) ?_
  refine optOk_ite (optOk_some (ok_of (tables_crgCmd ..) h)) ?_
  refine optOk_ite (optOk_some (ok_of (tables_flsCmd ..) h)) ?_
  refine optOk_ite (optOk_some (ok_of (tables_sdhCmd ..) h)) ?_
  refine optOk_ite (optOk_some (ok_of (tables_ofcCmd ..) h)) ?_
  refine optOk_ite (optOk_some (ok_of (tables_hopRetest ..) h)) ?_
  refine optOk_ite (optOk_some (ok_of (tables_rawCtlWrite ..) h)) ?_
  refine optOk_ite (optOk_some (ok_of (tables_xipWrite ..) h)) ?_
  refine optOk_ite (optOk_some (ok_ite (ok_of (tables_bwClear ..) h) h)) ?_
  refine optOk_ite ?_ ?_
  · split
    · exact optOk_some (ok_of (tables_pinWrite ..) h)
    · exact optOk_some h
  · refine optOk_ite (optOk_some h) ?_
    split
    · exact optOk_some (ok_of (tables_clnDoorbell ..) h)
    · split
      · exact optOk_some (ok_of (tables_fqSize ..) h)
      · split
        · exact optOk_some (ok_of (tables_grdDoorbell ..) h)
        · split
          · exact optOk_some (ok_of (tables_fqSize ..) h)
          · split
            · exact optOk_some (ok_of (tables_grdCancel ..) h)
            · split
              · exact optOk_some (ok_of (tables_uqTxTail ..) h)
              · split
                · exact optOk_some (ok_of (tables_uqRxHead ..) h)
                · split
                  · exact optOk_some (ok_of (tables_rgSet ..) (ok_of (tables_rgSet ..) (ok_of (tables_rgSet ..) h)))
                  · split
                    · exact optOk_some (ok_of (tables_rgSet ..) (ok_of (tables_rgSet ..) (ok_of (tables_rgSet ..) h)))
                    · exact optOk_none

theorem ok_lkgCtlWrite {m a v d} (h : (tables d).Ok) : OptOk (lkgCtlWrite m a v d) := by
  unfold lkgCtlWrite
  dsimp only
  split
  · exact optOk_some (ok_lkgSizeWrite h)
  · split
    · exact optOk_some (ok_rxqHeadWrite h)
    · split
      · exact optOk_some (ok_lkgSizeWrite h)
      · split
        · exact optOk_some (ok_of (tables_txqTailWrite ..) h)
        · exact optOk_none

theorem ok_busWrite {m pl a v d} (h : (tables d).Ok) : (tables (busWrite m pl a v d)).Ok := by
  have hplain := fun r => ok_of (tables_plainWrite r m a v d) h
  unfold busWrite
  refine ok_ite h (ok_ite (ok_of (tables_mpuWordWrite ..) h) (ok_ite (ok_ite (ok_of (tables_pmuWrite ..) h) h)
    (ok_ite (ok_ite (ok_of (tables_ringGroupWrite ..) h) h) ?_)))
  split
  · exact h
  refine ok_ite (ok_ite h (ok_of (tables_chmWrite ..) h)) (ok_ite (ok_ite ?_ h) ?_)
  · split
    · next he => exact ok_of (tables_fieldCtlWrite he) h
    · exact hplain _
  · split
    · next he => exact optOk_ite (ok_lkgCtlWrite h) (ok_hostCtlWrite h) _ he
    · exact hplain _

theorem ok_barWrite {f off v d} (h : (tables d).Ok) : (tables (barWrite f off v d)).Ok := by
  unfold barWrite
  split
  · exact ok_busWrite h
  · exact ok_ite (ok_of (tables_doorbell ..) h) h

theorem ok_fromMaster {m a f d} (hf : ∀ d, (tables d).Ok → (tables (f d)).Ok) (h : (tables d).Ok) : (tables (fromMaster m a f d)).Ok := by
  unfold fromMaster
  exact ok_ite (hf d h) (ok_of (tables_wccFail ..) h)

theorem ok_registerWrite {m pl a v d} (h : (tables d).Ok) : (tables (registerWrite m pl a v d)).Ok := by
  unfold registerWrite
  exact ok_ite (ok_barWrite h) (ok_fromMaster (fun _ hd => ok_busWrite hd) h)

theorem ok_mgmtDone {d o result} (h : (tables d).Ok) : (tables (mgmtDone d o result)).Ok := by
  unfold mgmtDone
  exact ok_deliver h

theorem ok_chamberWriteOp {d o} (h : (tables d).Ok) : (tables (chamberWriteOp d o)).Ok := by
  unfold chamberWriteOp
  exact ok_ite (ok_rejectOp (ok_of (tables_chmForeign ..) h)) (ok_mgmtDone (ok_foldl (fun _ _ hd => ok_of (tables_chmWrite ..) hd) h))

theorem ok_chamberCmdOp {d o} (h : (tables d).Ok) : (tables (chamberCmdOp d o)).Ok := by
  unfold chamberCmdOp
  exact ok_ite (ok_rejectOp (ok_of (tables_chmCommand ..) h)) (ok_ite (ok_mgmtDone (ok_of (tables_chmCommand ..) h)) (ok_rejectOp (ok_of
    (tables_chmCommand ..) h)))

theorem ok_approvalOp {d o} (h : (tables d).Ok) : (tables (approvalOp d o)).Ok := by
  unfold approvalOp
  dsimp only
  split
  · exact ok_ite (ok_of (tables_tmpEvent ..) (ok_rejectOp h)) (ok_rejectOp h)
  · exact ok_of (tables_admitPlain ..) h

theorem ok_approvalVerified {id d} (h : (tables d).Ok) : (tables (approvalVerified id d)).Ok := by
  unfold approvalVerified
  split
  · exact h
  · exact ok_ite h (ok_ite (ok_of (tables_with ..) h) (ok_of (tables_tmpEvent ..) (ok_endWith h)))

theorem ok_partitionOp {d o} (h : (tables d).Ok) : (tables (partitionOp d o)).Ok := by
  unfold partitionOp
  exact ok_ite (ok_rejectOp h) (ok_mgmtDone (ok_of (tables_partAccept ..) h))

theorem ok_cancelDue {d} (h : (tables d).Ok) : (tables (cancelDue d)).Ok := by
  unfold cancelDue
  refine ok_foldl ?_ h
  refine (fun _ _ hd => ?_)
  dsimp only
  split
  · exact ok_ite (ok_mgmtDone (ok_cancelOps hd)) (ok_cancelOps hd)
  · exact ok_cancelOps hd

theorem ok_regReadOp {d o} (h : (tables d).Ok) : (tables (regReadOp d o)).Ok := by
  unfold regReadOp
  dsimp only
  split
  · exact ok_rejectOp (ok_of (tables_mpuRecord ..) h)
  · split
    · exact ok_rejectOp (ok_of (tables_mpuRecord ..) h)
    · exact ok_ite (ok_rejectOp h) (ok_of (tables_admitPlain ..) h)

theorem ok_regReadNow {d id} (h : (tables d).Ok) : (tables (regReadNow d id)).Ok := by
  unfold regReadNow
  split
  · exact h
  · exact ok_ite h (ok_mgmtDone (ok_snd_ite (ok_ite (ok_busWrite h) h) (ok_of (tables_regRead ..) (ok_ite (ok_busWrite h) h))))

theorem ok_regReads {d} (h : (tables d).Ok) : (tables (regReads d)).Ok := by
  unfold regReads
  exact ok_foldl (fun _ _ hd => ok_regReadNow hd) h

theorem ok_ringReject {d o f} (h : (tables d).Ok) : (tables (ringReject d o f)).Ok := by
  unfold ringReject
  exact ok_rejectOp (ok_ite (ok_of (tables_rgAdd ..) h) h)

theorem ok_partAdmit {d o} (h : (tables d).Ok) : (tables (partAdmit d o)).Ok := by
  unfold partAdmit
  dsimp only
  split
  · exact ok_ite (ok_earlyPlain (ok_of (tables_laneContinue ..) h)) (ok_of (tables_laneContinue ..) h)
  · exact ok_of (tables_laneContinue ..) h

theorem ok_admitLane {d o} (h : (tables d).Ok) : OptOk (admitLane d o) := by
  unfold admitLane
  split
  · exact optOk_none
  · rename_i he
    dsimp only
    split
    · rename_i he _ _ _
      exact optOk_some (ok_endWith (ok_of (tables_setOp ..) (ok_ite (ok_of (tables_countUse ..) ((ok_of (tables_laneAdmit he) h))) ((ok_of
        (tables_laneAdmit he) h)))))
    · rename_i he _ _
      exact optOk_some (ok_earlyPlain (ok_of (tables_setOp ..) (ok_ite (ok_of (tables_countUse ..) ((ok_of (tables_laneAdmit he) h))) ((ok_of
        (tables_laneAdmit he) h)))))

theorem ok_admitOther {d o} (h : (tables d).Ok) : OptOk (admitOther d o) := by
  have hstill : ∀ e, (tables e).Ok → OptOk (match findOp e o.id with | some x => if x.phase = .staged then none else some e | none => some e) := by
    intro e he
    split
    · exact optOk_ite optOk_none (optOk_some he)
    · exact optOk_some he
  have hlook : OptOk ((lookupAdmit d o).map (fun r => setOp r.1 r.2)) := optOk_map (fun r hr => ok_of ((tables_setOp ..).trans (tables_lookupAdmit hr)) h)
  have henv : OptOk ((envAdmit d o).map (fun r => setOp r.1 r.2)) := optOk_map (fun r hr => ok_of ((tables_setOp ..).trans (tables_envAdmit hr)) h)
  unfold admitOther
  refine optOk_ite hlook (optOk_ite henv (optOk_ite (hstill _ (ok_stageAdmit h)) (optOk_ite (hstill _ (ok_commitAdmit h))
    (optOk_ite (optOk_some (ok_chamberWriteOp h)) (optOk_ite (optOk_some (ok_chamberCmdOp h)) (optOk_ite (optOk_some (ok_approvalOp h)) ?_))))))
  exact optOk_ite (hstill _ (ok_importAdmit h)) (optOk_ite (hstill _ (ok_exportAdmit h)) (optOk_ite (hstill _ (ok_eraseAdmit h))
    (optOk_ite (optOk_some (ok_partitionOp h)) (optOk_ite (optOk_some (ok_of (tables_cancelOp ..) h)) (optOk_ite (optOk_some (ok_regReadOp h))
    (optOk_some (ok_of (tables_admitPlain ..) h)))))))

theorem optOk_jobAdmit {d o} (h : (tables d).Ok) : OptOk ((jobAdmit d o).map (fun x => setOp x.1 x.2)) :=
  optOk_map (fun _ hx => ok_of ((tables_setOp ..).trans (tables_jobAdmit hx)) h)

theorem ok_offerRing {d r o} (h : (tables d).Ok) : OptOk (offerRing d r o) := by
  unfold offerRing
  split
  · exact optOk_some (ok_ringReject h)
  · refine optOk_ite optOk_none (optOk_map fun e he => ?_)
    have heOk : (tables e).Ok :=
      optOk_ite (ok_admitLane h) (optOk_ite (optOk_ite optOk_none (optOk_jobAdmit h)) (ok_admitOther h)) e he
    exact ok_ite (ok_of (tables_debit ..) heOk) heOk

theorem ok_offerFwq {d o} (h : (tables d).Ok) : OptOk (offerFwq d o) := by
  unfold offerFwq
  dsimp only
  split
  · exact optOk_some (ok_fwReject h)
  · exact optOk_ite (ok_admitLane h) optOk_none

theorem ok_offerGq {d o} (h : (tables d).Ok) : OptOk (offerGq d o) := by
  unfold offerGq
  split
  · split
    · exact optOk_some (ok_rejectOp h)
    · exact optOk_ite optOk_none (optOk_jobAdmit h)
  · dsimp only
    split
    · exact optOk_some (ok_fwReject h)
    · exact optOk_ite optOk_none (optOk_jobAdmit h)

theorem ok_offerField {d o} (h : (tables d).Ok) : OptOk (offerField d o) := by
  unfold offerField
  split
  · exact optOk_some (ok_rejectOp h)
  · exact optOk_ite (ok_admitOther h) (ok_admitLane h)

theorem ok_offer {d s} (h : (tables d).Ok) : OptOk (offer d s) := by
  unfold offer
  split
  · exact optOk_none
  · refine optOk_ite optOk_none ?_
    split
    · exact ok_offerRing h
    · exact ok_offerFwq h
    · exact ok_offerGq h
    · exact ok_offerField h

theorem ok_offerTurn {d ss} (h : (tables d).Ok) : (tables (offerTurn d ss).1).Ok := by
  unfold offerTurn
  refine ok_fst_foldl (fun x s hx => ?_) (x := (d, [])) h
  split
  · next he => exact ok_offer hx _ he
  · exact hx

theorem ok_offerTurns {f : ℕ} {ss : List Source} {d : Dev} (h : (tables d).Ok) : (tables (offerTurns f ss d)).Ok := by
  induction f generalizing ss d with
  | zero => exact h
  | succ f ih => exact ok_ite (ok_offerTurn h) (ih (ok_offerTurn h))

theorem ok_offerCmd {d o} (h : (tables d).Ok) : (tables (offerCmd d o)).Ok := by
  unfold offerCmd
  exact ok_ite (ok_importAdmit h) (ok_ite (ok_exportAdmit h) (ok_ite (ok_eraseAdmit h) (ok_ite (ok_childAdmit h) (ok_ite (ok_loadSakAdmit h) (ok_ite
    (ok_clearKeyAdmit h) (ok_ite (ok_loadImageAdmit h) (ok_ite (ok_stageAdmit h) (ok_ite (ok_commitAdmit h) (ok_ite (ok_discardAdmit h) h)))))))))

theorem ok_offerCmds {d} (h : (tables d).Ok) : (tables (offerCmds d)).Ok := by
  unfold offerCmds
  exact ok_foldl (fun _ _ hd => ok_ite (ok_offerCmd hd) hd) h

theorem ok_takeEntries {d} (h : (tables d).Ok) : (tables (takeEntries d)).Ok := by
  unfold takeEntries
  exact ok_foldl (fun _ _ hd => ok_requestEntry hd) (ok_of (tables_with ..) (ok_foldl (fun _ _ hd => ok_of (tables_fqResume ..) hd) (ok_foldl (fun _ _ hd
    => ok_of (tables_fqResume ..) hd) h)))

theorem ok_admitStep {d} (h : (tables d).Ok) : (tables (admitStep d)).Ok := by
  unfold admitStep
  refine ok_ofcStep ?_
  refine ok_sdhStep ?_
  refine ok_of (tables_cardFragments ..) ?_
  refine ok_flsStep ?_
  refine ok_lcsStep ?_
  refine ok_foldl (fun _ _ hd => ok_offerTurns hd) ?_
  refine ok_offerCmds ?_
  refine ok_takeEntries ?_
  refine ok_foldl ?_ h
  refine (fun _ _ hd => ?_)
  split
  · exact ok_partAdmit hd
  · exact hd

theorem ok_stopSources {d} (h : (tables d).Ok) : (tables (stopSources d)).Ok := by
  unfold stopSources
  exact ok_foldl (fun _ _ hd => ok_sourceAssert hd) h

theorem ok_edgeBefore {d} (h : (tables d).Ok) : (tables (edgeBefore d)).Ok := by
  unfold edgeBefore
  exact ok_holdRelease (ok_windowEnd (ok_of (tables_deltaPrep ..) (ok_of (tables_levelLast ..) h)))

theorem ok_edgeExpire {d} (h : (tables d).Ok) : (tables (edgeExpire d)).Ok := by
  unfold edgeExpire
  exact ok_of (tables_lifeEdge ..) (ok_acceptApprovals (ok_of (tables_expireApprovals ..) (ok_of (tables_slotExpiry ..) h)))

theorem ok_edgeOpen {d} (h : (tables d).Ok) : (tables (edgeOpen d)).Ok := by
  unfold edgeOpen
  exact ok_of (tables_kekActivate ..) (ok_crgEdge (ok_chamberOpen (ok_of (tables_retireEdge ..) h)))

theorem ok_selfCheckFence {d u} (h : (tables d).Ok) : (tables (selfCheckFence d u)).Ok := by
  unfold selfCheckFence
  refine ok_ite h ?_
  refine ok_fenceUnit ?_
  split
  · exact ok_endEarly h
  · exact h

theorem ok_gqCancel {d q} (h : (tables d).Ok) : (tables (gqCancel d q)).Ok := by
  unfold gqCancel
  exact ok_ite h (ok_cancelOps (ok_of (tables_rgSet ..) h))

theorem ok_edgePartition {d} (h : (tables d).Ok) : (tables (edgePartition d)).Ok := by
  unfold edgePartition
  exact ok_drainEdge (ok_partitionApply (ok_foldl (fun _ _ hd => ok_selfCheckFence hd) (ok_foldl (fun _ _ hd => ok_gqCancel hd) (ok_cancelDue (ok_of
    (tables_showReported ..) h)))))

theorem ok_dueOp {d id} (h : (tables d).Ok) : (tables (dueOp d id)).Ok := by
  unfold dueOp
  split
  · exact h
  · dsimp only
    split
    · exact ok_appendDue (ok_sdReadDue (ok_flsDue (ok_eraseDue h)))
    · split
      · exact ok_ite (ok_deliver (ok_appendDue (ok_sdReadDue (ok_flsDue (ok_eraseDue h))))) (ok_appendDue (ok_sdReadDue (ok_flsDue (ok_eraseDue h))))
      · exact ok_ite (ok_deliver (ok_appendDue (ok_sdReadDue (ok_flsDue (ok_eraseDue h))))) (ok_appendDue (ok_sdReadDue (ok_flsDue (ok_eraseDue h))))
      · exact ok_ite (ok_postFqs (ok_appendDue (ok_sdReadDue (ok_flsDue (ok_eraseDue h))))) (ok_appendDue (ok_sdReadDue (ok_flsDue (ok_eraseDue h))))
      · exact ok_ite (ok_postFqs (ok_appendDue (ok_sdReadDue (ok_flsDue (ok_eraseDue h))))) (ok_appendDue (ok_sdReadDue (ok_flsDue (ok_eraseDue h))))
      · exact ok_appendDue (ok_sdReadDue (ok_flsDue (ok_eraseDue h)))

theorem ok_edgeRelease {d} (h : (tables d).Ok) : (tables (edgeRelease d)).Ok := by
  unfold edgeRelease
  exact ok_boundOverrun (ok_postAll (ok_foldl (fun _ _ hd => ok_dueOp hd) (ok_releaseDue (ok_of (tables_curvesDue ..) (ok_foldl (fun _ _ hd => ok_of
    (tables_ringEdge ..) hd) h)))))

theorem ok_edgeBlocks {d} (h : (tables d).Ok) : (tables (edgeBlocks d)).Ok := by
  unfold edgeBlocks
  exact ok_of (tables_lockkeeper ..) (ok_foldl (fun _ _ hd => ok_wdgEdge hd) (ok_of (tables_tmpEdge ..) (ok_rplWaits (ok_of (tables_uqEdge ..) (ok_of
    (tables_sdhEdge ..) (ok_ofcEdge (ok_of (tables_hopEdge ..) (ok_mbxEdges (ok_foldl (fun _ _ hd => ok_of (tables_laneEdge ..) hd) (ok_foldl (fun _ _ hd
    => ok_of (tables_ringEdge ..) hd) h))))))))))

theorem ok_edgeAdmit {d} (h : (tables d).Ok) : (tables (edgeAdmit d)).Ok := by
  unfold edgeAdmit
  exact ok_admitStep h

theorem ok_edgePresent {d} (h : (tables d).Ok) : (tables (edgePresent d)).Ok := by
  unfold edgePresent
  exact ok_regReads (ok_stopSources (ok_of (tables_svnBlow ..) (ok_recordCloseAll (ok_foldl (fun _ _ hd => ok_of (tables_passResume ..) hd) (ok_of
    (tables_rplSnap ..) (ok_of (tables_freePosted ..) (ok_foldl (fun _ _ hd => ok_of (tables_presentCore ..) hd) (ok_foldl (fun _ _ hd => ok_of
    (tables_modTimer ..) hd) (ok_of (tables_inlineVec ..) (ok_of (tables_measure ..) h))))))))))

theorem ok_passEdge {d} (h : (tables d).Ok) : (tables (passEdge d)).Ok := by
  unfold passEdge
  exact ok_ite h (ok_edgePresent (ok_of (tables_edgeDraws ..) (ok_edgeAdmit (ok_edgeBlocks (ok_edgeRelease (ok_of (tables_edgeRefill ..) (ok_edgePartition
    (ok_edgeOpen (ok_edgeExpire (ok_of (tables_edgeCount ..) (ok_edgeBefore h)))))))))))

theorem ok_fieldPresent {d} (h : (tables d).Ok) : (tables (fieldPresent d)).Ok := by
  unfold fieldPresent
  exact ok_foldl (fun _ _ hd => ok_of (tables_passResume ..) hd) (ok_of (tables_rplSnapField ..) (ok_fieldReplay (ok_foldl (fun _ _ hd => ok_of
    (tables_presentCore ..) hd) (ok_foldl (fun _ _ hd => ok_of (tables_fieldRomStart ..) hd) (ok_foldl (fun _ _ hd => ok_wdgEdge hd) (ok_of
    (tables_fieldDraws ..) (ok_of (tables_grantBarges ..) (ok_foldl (fun _ _ hd => ok_of (tables_entryCompletion ..) hd) (ok_foldl (fun _ _ hd =>
    ok_eventWrites hd) h)))))))))

theorem ok_fieldEdge {d} (h : (tables d).Ok) : (tables (fieldEdge d)).Ok := by
  unfold fieldEdge
  exact ok_ite h (ok_fieldPresent (ok_of (tables_fieldAdmit ..) (ok_of (tables_fieldSteps ..) (ok_of (tables_with ..) h))))

theorem ok_coreWrite {m a v d} (h : (tables d).Ok) : (tables (coreWrite m a v d)).Ok := by
  have hf : (coreWrite m a v d).rst.fuses = d.rst.fuses := by
    unfold coreWrite
    split
    · rfl
    · split <;> rfl
  rw [ok_iff] at *
  refine ⟨memWf_coreWrite m a v d h.1, ?_⟩
  simp only [fusesLegal, hf]
  exact h.2

theorem ok_putWord {x k a v d} (h : (tables d).Ok) : (tables (putWord x k a v d)).Ok := by
  unfold putWord
  split
  · exact ok_ite (ok_of (tables_wccSeen ..) h) (ok_coreWrite h)
  · exact ok_coreWrite h

theorem ok_coreStop {m reason fcause addr resume d} (h : (tables d).Ok) : (tables (coreStop m reason fcause addr resume d)).Ok := by
  unfold coreStop
  exact ok_ite (ok_of (tables_diverge ..) (ok_of (tables_onCore ..) h)) (ok_ite (ok_of (tables_mbxPut ..) (ok_of (tables_onCore ..) h)) (ok_ite (ok_of
    (tables_queueBarge ..) (ok_of (tables_onCore ..) h)) (ok_sourceAssert (ok_foldl (fun _ _ hd => ok_of (tables_rgSet ..) hd) (ok_of (tables_onCore ..)
    h)))))

theorem ok_frameWord {e m s k v d} (h : (tables d).Ok) : (tables (frameWord e m s k v d)).Ok := by
  unfold frameWord
  split
  · exact ok_ite (ok_of (tables_wccSeen ..) h) (ok_coreWrite h)
  · exact ok_coreWrite h

theorem ok_writeFrame {e m s resume sw fcause addr d} (h : (tables d).Ok) : (tables (writeFrame e m s resume sw fcause addr d)).Ok := by
  unfold writeFrame
  exact ok_frameWord (ok_frameWord (ok_frameWord (ok_frameWord h)))

theorem ok_bywash {e m f reason d} (h : (tables d).Ok) : (tables (bywash e m f reason d)).Ok := by
  unfold bywash
  refine ok_ite (ok_coreStop h) ?_
  refine ok_ite (ok_coreStop h) ?_
  split
  · exact ok_coreStop (ok_of (tables_frameRecord ..) h)
  · exact ok_of (tables_onCore ..) (ok_writeFrame h)

theorem ok_enter {vec m f isFault d} (h : (tables d).Ok) : (tables (enter vec m f isFault d)).Ok := by
  unfold enter
  refine ok_ite (ok_bywash h) ?_
  dsimp only
  split
  · exact ok_bywash (ok_of (tables_mpuRecord ..) h)
  · refine ok_ite (ok_bywash (ok_of (tables_wccSeen ..) h)) ?_
    refine ok_ite (ok_bywash h) ?_
    refine ok_ite (ok_of (tables_onCore ..) h) ?_
    split
    · exact ok_bywash (ok_of (tables_frameRecord ..) h)
    · exact ok_of (tables_onCore ..) (ok_writeFrame h)

theorem ok_raiseFault {vec m f d} (h : (tables d).Ok) : (tables (raiseFault vec m f d)).Ok := by
  unfold raiseFault
  exact ok_enter (ok_of (tables_pmuEvents ..) (ok_ite (ok_of (tables_rplItem ..) h) h))

theorem ok_takeOne {vec m v d} (h : (tables d).Ok) : (tables (takeOne vec m v d).2).Ok := by
  unfold takeOne
  exact ok_snd_ite (ok_enter h) (ok_enter (ok_of (tables_pmuEvents ..) (ok_of (tables_onCore ..) (ok_ite (ok_of (tables_popItem ..) h) (ok_of
    (tables_rplItem ..) h)))))

theorem ok_takeInterrupts {vec : EntryWcc} {m n : ℕ} {d : Dev} (h : (tables d).Ok) : (tables (takeInterrupts vec m n d).2).Ok := by
  induction n generalizing d with
  | zero => exact h
  | succ n ih =>
    unfold takeInterrupts
    split
    · exact h
    · exact ok_snd_ite (ok_takeOne h) (ih (ok_takeOne h))

theorem ok_interruptEntry {vec m d} (h : (tables d).Ok) : (tables (interruptEntry vec m d)).Ok := by
  unfold interruptEntry
  exact ok_ite (ok_takeInterrupts h) h

theorem ok_windowStore {x a v d} (h : (tables d).Ok) : (tables (windowStore x a v d)).Ok := by
  unfold windowStore
  exact ok_ite (ok_hostWr h) (ok_of (tables_windowErr ..) h)

theorem ok_deviceStore {x pl a v d} (h : (tables d).Ok) : (tables (deviceStore x pl a v d)).Ok := by
  unfold deviceStore
  refine ok_ite (ok_ite (ok_busWrite h) (ok_of (tables_benchStore ..) h)) ?_
  dsimp only
  split
  · exact ok_ite (ok_of (tables_wccSeen ..) (ok_of (tables_rplOut ..) h)) (ok_ite (ok_windowStore (ok_of (tables_rplOut ..) h)) (ok_busWrite (ok_of
      (tables_rplOut ..) h)))
  · exact ok_ite (ok_windowStore (ok_of (tables_rplOut ..) h)) (ok_busWrite (ok_of (tables_rplOut ..) h))

theorem ok_dbgStore {a v d} (h : (tables d).Ok) : (tables (dbgStore a v d)).Ok := by
  unfold dbgStore
  exact ok_ite (ok_busWrite h) (ok_ite h (ok_memWr h))

theorem ok_dbgDataAccess {dl w d} (h : (tables d).Ok) : (tables (dbgDataAccess dl w d)).Ok := by
  unfold dbgDataAccess
  refine ok_ite h ?_
  refine ok_ite (ok_of (tables_tamperEvent ..) h) ?_
  dsimp only
  split
  · split
    · rename_i he
      exact (ok_of (tables_dbgRefused he) (ok_of (tables_rgSet ..) h))
    · exact ok_dbgStore (ok_of (tables_rgSet ..) h)
  · refine ok_of (tables_onLife ..) ?_
    refine ok_of (tables_rdSet ..) ?_
    split
    · rename_i he
      exact (ok_of (tables_dbgRefused he) (ok_of (tables_rgSet ..) h))
    · exact ok_of (tables_dbgRead ..) (ok_of (tables_rgSet ..) h)

theorem ok_byPort {right m a act d} (hact : ∀ d, (tables d).Ok → (tables (act d)).Ok) (h : (tables d).Ok) : (tables (byPort right m a act d)).Ok := by
  unfold byPort towpathWord
  refine ok_ite (ok_ite h (ok_ite (ok_of (tables_tamperEvent ..) h) ?_)) (hact d h)
  split
  · next he => exact ok_of (tables_dbgRefused he) h
  · exact hact d h

theorem ok_regWriteTop {dl m pl a v d} (h : (tables d).Ok) : (tables (regWriteTop dl m pl a v d)).Ok := by
  unfold regWriteTop
  refine ok_ite (ok_ite h (ok_ite (ok_of (tables_tamperEvent ..) h) (ok_of (tables_rgSet ..) h))) (ok_ite (ok_dbgDataAccess h) ?_)
  exact ok_ite (ok_of (tables_dbgCoreWrite ..) h) (ok_byPort (fun _ hd => ok_registerWrite hd) h)

theorem ok_linkLoss {hot d} (h : (tables d).Ok) : (tables (linkLoss hot d)).Ok := by
  unfold linkLoss
  exact ok_ite (ok_sourceAssert (ok_of (tables_with ..) (ok_foldl (fun _ _ hd => ok_of (tables_flr ..) hd) h))) (ok_of (tables_with ..) (ok_foldl (fun _ _
    hd => ok_of (tables_flr ..) hd) h))

theorem ok_completionWrite {r d} (h : (tables d).Ok) : (tables (completionWrite r d)).Ok := by
  unfold completionWrite
  exact ok_postRing h

theorem ok_heldCompletion {d} (h : (tables d).Ok) : (tables (heldCompletion d)).Ok := by
  unfold heldCompletion
  exact ok_ite (ok_postAll h) h

theorem ok_opIntegrity {w o d} (h : (tables d).Ok) : (tables (opIntegrity w o d)).Ok := by
  unfold opIntegrity
  exact ok_finish (ok_of (tables_unreserve ..) (ok_scribble (ok_ite (ok_of (tables_dropCurve ..) (ok_of (tables_forgetJob ..) (ok_of (tables_wccFail ..)
    h))) (ok_of (tables_wccFail ..) h))))

theorem ok_orIntegrity {w which done d} (hd : ∀ d, (tables d).Ok → (tables (done d)).Ok) (h : (tables d).Ok) :
    (tables (orIntegrity w which done d)).Ok := by
  unfold orIntegrity
  split
  · exact hd d h
  split
  · exact ok_ite (hd d h) (ok_ite (ok_opIntegrity h) h)
  · exact h

theorem ok_typedReceive {type d} (h : (tables d).Ok) : (tables (typedReceive type d)).Ok := by
  unfold typedReceive
  split
  · split
    · exact ok_ite (ok_bargeReceive h) h
    · exact h
  · exact h

end Sys2Proof.Machine

/-! The invariant of an instruction's result, of an iteration and of a command's answer (O60). -/

namespace Sys2Proof.Machine

/-- The invariant of what an instruction or one of its parts ends with: of the device beside a fault, and P of what it gives otherwise. -/
def ExOk {α : Type} (P : α → Prop) (r : Except (CoreFault × Dev) α) : Prop := (∀ e, r = .error e → (tables e.2).Ok) ∧ ∀ x, r = .ok x → P x

/-- The invariant of an instruction's result. -/
abbrev ResOk (r : Res) : Prop := ExOk (fun x => (tables x.1).Ok) r

theorem exOk_error {α : Type} {P : α → Prop} {e : CoreFault × Dev} (h : (tables e.2).Ok) : ExOk P (.error e) := by
  refine ⟨fun e' he => ?_, fun x hx => by cases hx⟩
  rw [← Except.error.inj he]
  exact h

theorem exOk_ok {α : Type} {P : α → Prop} {x : α} (h : P x) : ExOk P (.ok x) := by
  refine ⟨fun e he => (by cases he), fun x' hx => ?_⟩
  rw [← Except.ok.inj hx]
  exact h

theorem exOk_ite {α : Type} {P : α → Prop} {c : Prop} [Decidable c] {r q : Except (CoreFault × Dev) α} (hr : ExOk P r) (hq : ExOk P q) :
    ExOk P (if c then r else q) := by
  split
  · exact hr
  · exact hq

/-- The invariant of one iteration of a block instruction. -/
def IterOk : Iter → Prop
  | .fault e => (tables e.2).Ok
  | .more d => (tables d).Ok
  | .stop d => (tables d).Ok

theorem iterOk_ite {c : Prop} [Decidable c] {i j : Iter} (hi : IterOk i) (hj : IterOk j) : IterOk (if c then i else j) := by
  split
  · exact hi
  · exact hj

/-- The invariant of a state: of the live device, and the memories of the two latched ones. -/
def StateOk (s : State) : Prop := (tables s.dev).Ok ∧ s.latch.memWf ∧ s.latchF.memWf

/-- The invariant of a command's answer. -/
def OutOk (o : Out) : Prop := ∀ t, o = .next t → StateOk t

theorem outOk_onDev {g : Dev → Dev} {s : State} (hs : StateOk s) (h : (tables (g s.dev)).Ok) : OutOk (onDev g s) := by
  intro t ht
  rw [← Host.Outcome.next.inj ht]
  exact ⟨h, hs.2⟩

theorem outOk_ite {c : Prop} [Decidable c] {o p : Out} (ho : OutOk o) (hp : OutOk p) : OutOk (if c then o else p) := by
  split
  · exact ho
  · exact hp

end Sys2Proof.Machine

/-! Every command keeps the invariant (O60): the instructions of a core, then the meanings of the commands. -/

namespace Sys2Proof.Machine

theorem ok_encFault {m d} (h : (tables d).Ok) : ResOk (encFault m d) := by
  unfold encFault
  exact exOk_error h

theorem ok_privFault {m d} (h : (tables d).Ok) : ResOk (privFault m d) := by
  unfold privFault
  exact exOk_error h

theorem ok_divFault {m d} (h : (tables d).Ok) : ResOk (divFault m d) := by
  unfold divFault
  exact exOk_error h

theorem ok_loadWords {x pl access a k n d} (h : (tables d).Ok) : ExOk (fun _ => True) (loadWords x pl access a k n d) := by
  unfold loadWords
  split
  · next he => exact exOk_error (ok_of (tables_mpuFault he) h)
  · split
    · next he =>
      obtain ⟨i, -, hi⟩ := List.exists_of_findSome?_eq_some he
      exact exOk_error (ok_of (tables_integrity hi) h)
    · exact exOk_ok trivial

theorem ok_storeWords {x pl access a ws d} (h : (tables d).Ok) : ExOk (fun e => (tables e).Ok) (storeWords x pl access a ws d) := by
  unfold storeWords
  split
  · rename_i he
    exact exOk_error (ok_of (tables_mpuFault he) h)
  · exact exOk_ok (ok_foldl (fun _ _ hd => ok_putWord hd) h)

/-- An instruction that keeps the invariant keeps it as it is issued, its interrupts and faults taken. -/
theorem ok_issueWith {atEnd retires x f d} (hf : ∀ d, (tables d).Ok → ResOk (f d)) (h : (tables d).Ok) :
    (tables (issueWith atEnd retires x f d)).Ok := by
  unfold issueWith
  extract_lets m d1 r d2 c
  have h1 : (tables d1).Ok := ok_resetEvents h
  have h2 : (tables d2).Ok := ok_takeInterrupts h1
  clear_value c d2 r d1
  refine ok_ite h1 (ok_ite h2 (ok_ite h2 ?_))
  split
  · next e d' he => exact ok_raiseFault (ok_of (tables_fetchFault he) h2)
  · have hr : ResOk (if badWord x then .error (faultAt 0 c, onCore d2 m (fun c => { c with inBlock := false })) else f (noteMedia x 0 c.pc d2)) :=
      exOk_ite (exOk_error (ok_of (tables_onCore ..) h2)) (hf _ (ok_of (tables_noteMedia ..) h2))
    split
    · next he => exact ok_raiseFault (ok_of (tables_onCore ..) (hr.1 _ he))
    · next he => exact ok_ite (ok_of (tables_retire ..) (hr.2 _ he)) (ok_of (tables_onCore ..) (hr.2 _ he))

theorem ok_issue {x f d} (hf : ∀ d, (tables d).Ok → ResOk (f d)) (h : (tables d).Ok) : (tables (issue x f d)).Ok :=
  ok_issueWith (fun _ hd => hf _ (ok_of (tables_notBlock ..) hd)) h

theorem ok_finishWith {m f codes d} (h : (tables d).Ok) : ResOk (finishWith m f codes d) := by
  unfold finishWith
  exact exOk_ok (ok_ite (ok_of (tables_onCore ..) h) h)

theorem ok_alu3 {op x rd ra rb dev} (h : (tables dev).Ok) : (tables (alu3 op x rd ra rb dev)).Ok := by
  unfold alu3
  exact ok_issue (fun _ hd => exOk_ite (ok_finishWith hd) (ok_encFault hd)) h

theorem ok_alu3f {op x rd ra rb dev} (h : (tables dev).Ok) : (tables (alu3f op x rd ra rb dev)).Ok := by
  unfold alu3f
  exact ok_issue (fun _ hd => exOk_ite (ok_finishWith hd) (ok_encFault hd)) h

theorem ok_aluI {op x rd ra imm dev} (h : (tables dev).Ok) : (tables (aluI op x rd ra imm dev)).Ok := by
  unfold aluI
  exact ok_issue (fun _ hd => exOk_ite (ok_finishWith hd) (ok_encFault hd)) h

theorem ok_aluIf {op x rd ra imm dev} (h : (tables dev).Ok) : (tables (aluIf op x rd ra imm dev)).Ok := by
  unfold aluIf
  exact ok_issue (fun _ hd => exOk_ite (ok_finishWith hd) (ok_encFault hd)) h

theorem ok_shiftI {op x rd ra sh dev} (h : (tables dev).Ok) : (tables (shiftI op x rd ra sh dev)).Ok := by
  unfold shiftI
  exact ok_issue (fun _ hd => exOk_ite (ok_finishWith hd) (ok_encFault hd)) h

theorem ok_divide {op x rd ra rb dev} (h : (tables dev).Ok) : (tables (divide op x rd ra rb dev)).Ok := by
  unfold divide
  exact ok_issue (fun _ hd => exOk_ite (ok_encFault hd) (exOk_ite (ok_divFault hd) (ok_finishWith hd))) h

theorem ok_execAdd {x rd ra rb s} (h : StateOk s) : OutOk (execAdd x rd ra rb s) := outOk_onDev h (ok_alu3f h.1)

theorem ok_execSub {x rd ra rb s} (h : StateOk s) : OutOk (execSub x rd ra rb s) := outOk_onDev h (ok_alu3f h.1)

theorem ok_execAddc {x rd ra rb s} (h : StateOk s) : OutOk (execAddc x rd ra rb s) := outOk_onDev h (ok_alu3f h.1)

theorem ok_execSubb {x rd ra rb s} (h : StateOk s) : OutOk (execSubb x rd ra rb s) := outOk_onDev h (ok_alu3f h.1)

theorem ok_execAnd {x rd ra rb s} (h : StateOk s) : OutOk (execAnd x rd ra rb s) := outOk_onDev h (ok_alu3 h.1)

theorem ok_execOr {x rd ra rb s} (h : StateOk s) : OutOk (execOr x rd ra rb s) := outOk_onDev h (ok_alu3 h.1)

theorem ok_execXor {x rd ra rb s} (h : StateOk s) : OutOk (execXor x rd ra rb s) := outOk_onDev h (ok_alu3 h.1)

theorem ok_execAndn {x rd ra rb s} (h : StateOk s) : OutOk (execAndn x rd ra rb s) := outOk_onDev h (ok_alu3 h.1)

theorem ok_execSlt {x rd ra rb s} (h : StateOk s) : OutOk (execSlt x rd ra rb s) := outOk_onDev h (ok_alu3 h.1)

theorem ok_execSltu {x rd ra rb s} (h : StateOk s) : OutOk (execSltu x rd ra rb s) := outOk_onDev h (ok_alu3 h.1)

theorem ok_execCmp {x ra rb s} (h : StateOk s) : OutOk (execCmp x ra rb s) := outOk_onDev h (ok_alu3f h.1)

theorem ok_execNeg {x rd ra s} (h : StateOk s) : OutOk (execNeg x rd ra s) := outOk_onDev h (ok_alu3f h.1)

theorem ok_execMin {x rd ra rb s} (h : StateOk s) : OutOk (execMin x rd ra rb s) := outOk_onDev h (ok_alu3 h.1)

theorem ok_execMax {x rd ra rb s} (h : StateOk s) : OutOk (execMax x rd ra rb s) := outOk_onDev h (ok_alu3 h.1)

theorem ok_execAddi {x rd ra imm s} (h : StateOk s) : OutOk (execAddi x rd ra imm s) := outOk_onDev h (ok_aluIf h.1)

theorem ok_execAndi {x rd ra imm s} (h : StateOk s) : OutOk (execAndi x rd ra imm s) := outOk_onDev h (ok_aluI h.1)

theorem ok_execOri {x rd ra imm s} (h : StateOk s) : OutOk (execOri x rd ra imm s) := outOk_onDev h (ok_aluI h.1)

theorem ok_execXori {x rd ra imm s} (h : StateOk s) : OutOk (execXori x rd ra imm s) := outOk_onDev h (ok_aluI h.1)

theorem ok_execSlti {x rd ra imm s} (h : StateOk s) : OutOk (execSlti x rd ra imm s) := outOk_onDev h (ok_aluI h.1)

theorem ok_execSltiu {x rd ra imm s} (h : StateOk s) : OutOk (execSltiu x rd ra imm s) := outOk_onDev h (ok_aluI h.1)

theorem ok_execLih {x rd imm s} (h : StateOk s) : OutOk (execLih x rd imm s) := outOk_onDev h (ok_aluI h.1)

theorem ok_execCmpi {x ra imm s} (h : StateOk s) : OutOk (execCmpi x ra imm s) := outOk_onDev h (ok_aluIf h.1)

theorem ok_execShl {x rd ra rb s} (h : StateOk s) : OutOk (execShl x rd ra rb s) := outOk_onDev h (ok_alu3 h.1)

theorem ok_execShr {x rd ra rb s} (h : StateOk s) : OutOk (execShr x rd ra rb s) := outOk_onDev h (ok_alu3 h.1)

theorem ok_execSar {x rd ra rb s} (h : StateOk s) : OutOk (execSar x rd ra rb s) := outOk_onDev h (ok_alu3 h.1)

theorem ok_execRol {x rd ra rb s} (h : StateOk s) : OutOk (execRol x rd ra rb s) := outOk_onDev h (ok_alu3 h.1)

theorem ok_execShli {x rd ra sh s} (h : StateOk s) : OutOk (execShli x rd ra sh s) := outOk_onDev h (ok_shiftI h.1)

theorem ok_execShri {x rd ra sh s} (h : StateOk s) : OutOk (execShri x rd ra sh s) := outOk_onDev h (ok_shiftI h.1)

theorem ok_execSari {x rd ra sh s} (h : StateOk s) : OutOk (execSari x rd ra sh s) := outOk_onDev h (ok_shiftI h.1)

theorem ok_execRoli {x rd ra sh s} (h : StateOk s) : OutOk (execRoli x rd ra sh s) := outOk_onDev h (ok_shiftI h.1)

theorem ok_execExtu {x rd ra lo w s} (h : StateOk s) : OutOk (execExtu x rd ra lo w s) :=
  outOk_onDev h (ok_issue (fun _ hd => exOk_ite (ok_finishWith hd) (ok_encFault hd)) h.1)

theorem ok_execIns {x rd ra lo w s} (h : StateOk s) : OutOk (execIns x rd ra lo w s) :=
  outOk_onDev h (ok_issue (fun _ hd => exOk_ite (ok_finishWith hd) (ok_encFault hd)) h.1)

theorem ok_execMul {x rd ra rb s} (h : StateOk s) : OutOk (execMul x rd ra rb s) := outOk_onDev h (ok_alu3 h.1)

theorem ok_execMulh {x rd ra rb s} (h : StateOk s) : OutOk (execMulh x rd ra rb s) := outOk_onDev h (ok_alu3 h.1)

theorem ok_execMulhu {x rd ra rb s} (h : StateOk s) : OutOk (execMulhu x rd ra rb s) := outOk_onDev h (ok_alu3 h.1)

theorem ok_execMulp {x rd ra rb s} (h : StateOk s) : OutOk (execMulp x rd ra rb s) :=
  outOk_onDev h (ok_issue (fun _ hd => exOk_ite (ok_finishWith hd) (ok_encFault hd)) h.1)

theorem ok_execDiv {x rd ra rb s} (h : StateOk s) : OutOk (execDiv x rd ra rb s) := outOk_onDev h (ok_divide h.1)

theorem ok_execDivu {x rd ra rb s} (h : StateOk s) : OutOk (execDivu x rd ra rb s) := outOk_onDev h (ok_divide h.1)

theorem ok_execRem {x rd ra rb s} (h : StateOk s) : OutOk (execRem x rd ra rb s) := outOk_onDev h (ok_divide h.1)

theorem ok_execRemu {x rd ra rb s} (h : StateOk s) : OutOk (execRemu x rd ra rb s) := outOk_onDev h (ok_divide h.1)

theorem ok_wordIn {dl x pl a f d} (h : (tables d).Ok) : ResOk (wordIn dl x pl a f d) := by
  have hl := tables_deviceLoad dl x pl a d
  unfold wordIn
  dsimp only
  refine exOk_ite ?_ ?_
  · split
    · next he => exact exOk_error (ok_of (tables_mpuFault he) h)
    split
    · next he => exact exOk_error (ok_of (tables_integrity he) h)
    split
    · next he => exact ok_finishWith (ok_snd he (ok_of hl h))
    · next he => exact exOk_ok (ok_snd he (ok_of hl h))
  · split
    · next he => exact exOk_error ((ok_loadWords h).1 _ he)
    · exact ok_finishWith (ok_of (tables_noteLoads ..) h)

theorem ok_wordOut {x pl a v d} (h : (tables d).Ok) : ResOk (wordOut x pl a v d) := by
  unfold wordOut
  refine exOk_ite ?_ ?_
  · split
    · rename_i he
      exact exOk_error (ok_of (tables_mpuFault he) h)
    · exact ok_finishWith (ok_deviceStore h)
  · split
    · rename_i he
      exact exOk_error ((ok_storeWords h).1 _ he)
    · rename_i he
      exact ok_finishWith ((ok_storeWords h).2 _ he)

theorem ok_laneLoad {x rd ra imm n pick dev} (h : (tables dev).Ok) : (tables (laneLoad x rd ra imm n pick dev)).Ok := by
  unfold laneLoad
  refine ok_issue (fun _ hd => ?_) h
  refine exOk_ite (ok_encFault hd) ?_
  split
  · rename_i he
    exact exOk_error ((ok_loadWords hd).1 _ he)
  · exact ok_finishWith (ok_of (tables_noteLoads ..) hd)

theorem ok_laneStore {x rd ra imm n put dev} (h : (tables dev).Ok) : (tables (laneStore x rd ra imm n put dev)).Ok := by
  unfold laneStore
  refine ok_issue (fun _ hd => ?_) h
  refine exOk_ite (ok_encFault hd) ?_
  split
  · rename_i he
    exact exOk_error ((ok_storeWords hd).1 _ he)
  · rename_i he
    exact ok_finishWith ((ok_storeWords hd).2 _ he)

theorem ok_execLdw {x rd ra imm s} (h : StateOk s) : OutOk (execLdw x rd ra imm s) :=
  outOk_onDev h (ok_issue (fun _ hd => exOk_ite (ok_encFault hd) (ok_wordIn hd)) h.1)

theorem ok_execStw {x rd ra imm s} (h : StateOk s) : OutOk (execStw x rd ra imm s) :=
  outOk_onDev h (ok_issue (fun _ hd => exOk_ite (ok_encFault hd) (ok_wordOut hd)) h.1)

theorem ok_execLdp {x rd ra imm s} (h : StateOk s) : OutOk (execLdp x rd ra imm s) := by
  unfold execLdp
  refine outOk_onDev h ?_
  refine ok_issue (fun _ hd => ?_) h.1
  refine exOk_ite (ok_encFault hd) ?_
  split
  · rename_i he
    exact exOk_error ((ok_loadWords hd).1 _ he)
  · exact ok_finishWith (ok_of (tables_noteLoads ..) hd)

theorem ok_execStp {x rd ra imm s} (h : StateOk s) : OutOk (execStp x rd ra imm s) := by
  unfold execStp
  refine outOk_onDev h ?_
  refine ok_issue (fun _ hd => ?_) h.1
  refine exOk_ite (ok_encFault hd) ?_
  split
  · rename_i he
    exact exOk_error ((ok_storeWords hd).1 _ he)
  · rename_i he
    exact ok_finishWith ((ok_storeWords hd).2 _ he)

theorem ok_execLdh {x rd ra imm s} (h : StateOk s) : OutOk (execLdh x rd ra imm s) := outOk_onDev h (ok_laneLoad h.1)

theorem ok_execLdhs {x rd ra imm s} (h : StateOk s) : OutOk (execLdhs x rd ra imm s) := outOk_onDev h (ok_laneLoad h.1)

theorem ok_execSth {x rd ra imm s} (h : StateOk s) : OutOk (execSth x rd ra imm s) := outOk_onDev h (ok_laneStore h.1)

theorem ok_execLdo {x rd ra imm s} (h : StateOk s) : OutOk (execLdo x rd ra imm s) := outOk_onDev h (ok_laneLoad h.1)

theorem ok_execLdos {x rd ra imm s} (h : StateOk s) : OutOk (execLdos x rd ra imm s) := outOk_onDev h (ok_laneLoad h.1)

theorem ok_execSto {x rd ra imm s} (h : StateOk s) : OutOk (execSto x rd ra imm s) := outOk_onDev h (ok_laneStore h.1)

theorem ok_execLdsp {x rd imm s} (h : StateOk s) : OutOk (execLdsp x rd imm s) :=
  outOk_onDev h (ok_issue (fun _ hd => exOk_ite (ok_encFault hd) (ok_wordIn hd)) h.1)

theorem ok_execStsp {x rd imm s} (h : StateOk s) : OutOk (execStsp x rd imm s) :=
  outOk_onDev h (ok_issue (fun _ hd => exOk_ite (ok_encFault hd) (ok_wordOut hd)) h.1)

theorem ok_execAdjsp {x imm s} (h : StateOk s) : OutOk (execAdjsp x imm s) :=
  outOk_onDev h (ok_issue (fun _ hd => exOk_ite (ok_encFault hd) (exOk_ite (exOk_error hd) (exOk_ite (exOk_error hd) (ok_finishWith hd)))) h.1)

theorem ok_execPush {x rd s} (h : StateOk s) : OutOk (execPush x rd s) := by
  unfold execPush
  refine outOk_onDev h ?_
  refine ok_issue (fun _ hd => ?_) h.1
  refine exOk_ite (ok_encFault hd) ?_
  split
  · exact exOk_error hd
  · split
    · rename_i he
      exact exOk_error ((ok_storeWords hd).1 _ he)
    · rename_i he
      exact ok_finishWith ((ok_storeWords hd).2 _ he)

theorem ok_execPop {x rd s} (h : StateOk s) : OutOk (execPop x rd s) := by
  unfold execPop
  refine outOk_onDev h ?_
  refine ok_issue (fun _ hd => ?_) h.1
  refine exOk_ite (ok_encFault hd) ?_
  refine exOk_ite (exOk_error hd) ?_
  split
  · rename_i he
    exact exOk_error ((ok_loadWords hd).1 _ he)
  · exact ok_finishWith (ok_of (tables_noteLoads ..) hd)

theorem ok_execLpc {x rd imm s} (h : StateOk s) : OutOk (execLpc x rd imm s) :=
  outOk_onDev h (ok_issue (fun _ hd => exOk_ite (ok_finishWith hd) (ok_encFault hd)) h.1)

theorem ok_execLdx {x rd ra s} (h : StateOk s) : OutOk (execLdx x rd ra s) := by
  unfold execLdx
  refine outOk_onDev h ?_
  refine ok_issue (fun _ hd => ?_) h.1
  refine exOk_ite (ok_encFault hd) ?_
  split
  · rename_i he
    exact exOk_error ((ok_loadWords hd).1 _ he)
  · exact ok_finishWith (ok_of (tables_noteLoads ..) hd)

theorem ok_execStx {x rd rb ra s} (h : StateOk s) : OutOk (execStx x rd rb ra s) := by
  unfold execStx
  refine outOk_onDev h ?_
  refine ok_issue (fun _ hd => ?_) h.1
  refine exOk_ite (ok_encFault hd) ?_
  split
  · rename_i he
    exact exOk_error (ok_of (tables_mpuFault he) hd)
  · split
    · rename_i he
      exact exOk_ok (ok_of ((tables_snd he).trans (tables_stxResult ..)) hd)
    · rename_i he
      exact ok_finishWith (ok_ite (ok_putWord (ok_of ((tables_snd he).trans (tables_stxResult ..)) hd)) (ok_of ((tables_snd he).trans (tables_stxResult
        ..)) hd))

theorem ok_goTo {m pc f d} (h : (tables d).Ok) : ResOk (goTo m pc f d) := by
  unfold goTo
  exact exOk_ok (ok_of (tables_onCore ..) h)

theorem ok_branchTo {x c off taken d} (h : (tables d).Ok) : ResOk (branchTo x c off taken d) := by
  unfold branchTo
  exact ok_goTo h

theorem ok_branch {cmp x ra rb off dev} (h : (tables dev).Ok) : (tables (branch cmp x ra rb off dev)).Ok := by
  unfold branch
  exact ok_issue (fun _ hd => exOk_ite (ok_branchTo hd) (ok_encFault hd)) h

theorem ok_execBeq {x ra rb off s} (h : StateOk s) : OutOk (execBeq x ra rb off s) := outOk_onDev h (ok_branch h.1)

theorem ok_execBne {x ra rb off s} (h : StateOk s) : OutOk (execBne x ra rb off s) := outOk_onDev h (ok_branch h.1)

theorem ok_execBlt {x ra rb off s} (h : StateOk s) : OutOk (execBlt x ra rb off s) := outOk_onDev h (ok_branch h.1)

theorem ok_execBge {x ra rb off s} (h : StateOk s) : OutOk (execBge x ra rb off s) := outOk_onDev h (ok_branch h.1)

theorem ok_execBltu {x ra rb off s} (h : StateOk s) : OutOk (execBltu x ra rb off s) := outOk_onDev h (ok_branch h.1)

theorem ok_execBgeu {x ra rb off s} (h : StateOk s) : OutOk (execBgeu x ra rb off s) := outOk_onDev h (ok_branch h.1)

theorem ok_execBcc {x cond off s} (h : StateOk s) : OutOk (execBcc x cond off s) := by
  unfold execBcc
  refine outOk_onDev h ?_
  refine ok_issue (fun _ hd => ?_) h.1
  dsimp only
  split
  · exact exOk_ite (ok_branchTo hd) (ok_encFault hd)
  · exact ok_encFault hd

theorem ok_execJmp {x off s} (h : StateOk s) : OutOk (execJmp x off s) := outOk_onDev h (ok_issue (fun _ hd => exOk_ite (ok_goTo hd) (ok_encFault hd)) h.1)

theorem ok_execJmpr {x ra s} (h : StateOk s) : OutOk (execJmpr x ra s) := outOk_onDev h (ok_issue (fun _ hd => exOk_ite (ok_goTo hd) (ok_encFault hd)) h.1)

theorem ok_callTo {x pc d} (h : (tables d).Ok) : ResOk (callTo x pc d) := by
  unfold callTo
  refine exOk_ite (ok_encFault h) ?_
  split
  · exact exOk_error h
  · split
    · rename_i he
      exact exOk_error (ok_of (tables_mpuFault he) h)
    · split
      · rename_i he
        exact exOk_error ((ok_storeWords h).1 _ he)
      · rename_i he
        exact ok_goTo ((ok_storeWords h).2 _ he)

theorem ok_execCall {x off s} (h : StateOk s) : OutOk (execCall x off s) :=
  outOk_onDev h (ok_issue (fun _ hd => exOk_ite (ok_callTo hd) (ok_encFault hd)) h.1)

theorem ok_execCallr {x ra s} (h : StateOk s) : OutOk (execCallr x ra s) :=
  outOk_onDev h (ok_issue (fun _ hd => exOk_ite (ok_callTo hd) (ok_encFault hd)) h.1)

theorem ok_execRet {x s} (h : StateOk s) : OutOk (execRet x s) := by
  unfold execRet
  refine outOk_onDev h ?_
  refine ok_issue (fun _ hd => ?_) h.1
  refine exOk_ite (ok_encFault hd) ?_
  split
  · rename_i he
    exact exOk_error (ok_of (tables_popsFault he) hd)
  · split
    · rename_i he
      exact exOk_error (ok_of (tables_integrity he) hd)
    · refine exOk_ite (ok_privFault hd) ?_
      split
      · rename_i he
        exact exOk_error (ok_of (tables_integrity he) hd)
      · exact ok_goTo hd

theorem ok_blockRead {x pl a k d} (h : (tables d).Ok) : ExOk (fun _ => True) (blockRead x pl a k d) := by
  unfold blockRead
  split
  · exact exOk_ok trivial
  · rename_i he
    exact exOk_error ((ok_loadWords h).1 _ he)

theorem ok_iterMove {x rd ra rb k d} (h : (tables d).Ok) : IterOk (iterMove x rd ra rb k d) := by
  unfold iterMove
  refine iterOk_ite h (iterOk_ite h ?_)
  split
  · next he => exact ok_of (tables_mpuFault he) h
  split
  · next he => exact ok_of (tables_mpuFault he) h
  split
  · next he => exact (ok_blockRead h).1 _ he
  · exact ok_of (tables_onCore ..) (ok_putWord (ok_of (tables_noteLoads ..) h))

theorem ok_iterFill {x rd ra rb k d} (h : (tables d).Ok) : IterOk (iterFill x rd ra rb k d) := by
  unfold iterFill
  refine iterOk_ite h ?_
  split
  · next he => exact ok_of (tables_mpuFault he) h
  · exact ok_of (tables_onCore ..) (ok_putWord h)

theorem ok_iterCmp {full fresh x rd ra rb k d} (h : (tables d).Ok) : IterOk (iterCmp full fresh x rd ra rb k d) := by
  unfold iterCmp
  refine iterOk_ite (ok_ite (ok_of (tables_onCore ..) h) h) ?_
  refine iterOk_ite (ok_ite (ok_of (tables_onCore ..) h) h) ?_
  split
  · rename_i he
    exact ok_of (tables_mpuFault he) (ok_ite (ok_of (tables_onCore ..) h) h)
  · split
    · rename_i he
      exact ok_of (tables_mpuFault he) (ok_ite (ok_of (tables_onCore ..) h) h)
    · split
      · rename_i he
        exact (ok_blockRead (ok_ite (ok_of (tables_onCore ..) h) h)).1 _ he
      · rename_i he
        split
        · rename_i he _ _ he1
          exact (ok_blockRead (ok_ite (ok_of (tables_onCore ..) h) h)).1 _ he1
        · exact iterOk_ite (ok_of (tables_onCore ..) (ok_of (tables_noteLoads ..) (ok_of (tables_noteLoads ..) (ok_ite (ok_of (tables_onCore ..) h) h))))
            (ok_of (tables_onCore ..) (ok_of (tables_noteLoads ..) (ok_of (tables_noteLoads ..) (ok_ite (ok_of (tables_onCore ..) h) h))))

theorem ok_iterCrc {x rd ra rb k d} (h : (tables d).Ok) : IterOk (iterCrc x rd ra rb k d) := by
  unfold iterCrc
  refine iterOk_ite h ?_
  split
  · rename_i he
    exact (ok_blockRead h).1 _ he
  · exact ok_of (tables_onCore ..) (ok_of (tables_noteLoads ..) h)

/-- The iterations of a block instruction that each keep the invariant keep it together. -/
theorem ok_blockRun {m rb : ℕ} {f : ℕ → Dev → Iter} {limit n : ℕ} {d : Dev} (hf : ∀ k d, (tables d).Ok → IterOk (f k d)) (h : (tables d).Ok) :
    (tables (blockRun m rb f limit n d).2.2).Ok := by
  induction n generalizing d with
  | zero => exact h
  | succ n ih =>
    have hi := hf (limit - (n + 1)) d h
    unfold blockRun
    split
    · exact h
    · split
      · next he =>
        rw [he] at hi
        exact hi
      · next he =>
        rw [he] at hi
        exact ok_of (tables_onCore ..) hi
      · next he =>
        rw [he] at hi
        exact ih (ok_of (tables_onCore ..) hi)

theorem ok_blockBody {x rd ra rb iters fin f d} (hfin : ∀ b d, (tables d).Ok → (tables (fin b d)).Ok) (hf : ∀ k d, (tables d).Ok → IterOk (f k d))
    (h : (tables d).Ok) : ExOk (fun x => (tables x.2).Ok) (blockBody x rd ra rb iters fin f d) := by
  have hr := ok_blockRun (m := x.core) (rb := rb) (limit := iters) (n := iters) hf h
  unfold blockBody
  dsimp only
  refine exOk_ite (exOk_error h) ?_
  split
  · next he =>
    rw [he] at hr
    exact exOk_error (ok_of (tables_onCore ..) hr)
  · next he =>
    rw [he] at hr
    exact exOk_ite (exOk_ok (ok_of (tables_blockEnd ..) hr)) (exOk_ite (exOk_ok (ok_of (tables_blockEnd ..) (hfin _ _ hr)))
      (exOk_ok (ok_of (tables_onCore ..) hr)))

theorem ok_blockFault {x rd ra rb iters f d e} (hf : ∀ k d, (tables d).Ok → IterOk (f k d)) (h : (tables d).Ok)
    (he : blockFault x rd ra rb iters f d = some e) : (tables e.2).Ok := by
  have hr := ok_blockRun (m := x.core) (rb := rb) (limit := min iters 1) (n := min iters 1) hf h
  unfold blockFault at he
  obtain ⟨-, he⟩ := Option.ite_none_right_eq_some.mp he
  split at he
  · next hb =>
    rw [hb] at hr
    rw [← Option.some.inj he]
    exact hr
  · cases he

theorem ok_issueBlock {x rd ra rb iters fin f d} (hfin : ∀ b d, (tables d).Ok → (tables (fin b d)).Ok) (hf : ∀ k d, (tables d).Ok → IterOk (f k d))
    (h : (tables d).Ok) : (tables (issueBlock x rd ra rb iters fin f d)).Ok := by
  have hbody : ∀ d, (tables d).Ok → ResOk (match blockBody x rd ra rb iters fin f d with
      | .ok r => .ok (r.2, [])
      | .error e => .error e) := by
    intro d hd
    split
    · next he => exact exOk_ok ((ok_blockBody hfin hf hd).2 _ he)
    · next he => exact exOk_error ((ok_blockBody hfin hf hd).1 _ he)
  unfold issueBlock
  dsimp only
  split
  · next he =>
    obtain ⟨-, he⟩ := Option.ite_none_left_eq_some.mp he
    exact ok_raiseFault (ok_of (tables_onCore ..) (ok_blockFault hf h he))
  · exact ok_issueWith hbody h

theorem ok_execBmove {x rd ra rb iters s} (h : StateOk s) : OutOk (execBmove x rd ra rb iters s) :=
  outOk_onDev h (ok_issueBlock (fun _ _ hd => ok_of (tables_noFin ..) hd) (fun _ _ hd => ok_iterMove hd) h.1)

theorem ok_execBfill {x rd ra rb iters s} (h : StateOk s) : OutOk (execBfill x rd ra rb iters s) :=
  outOk_onDev h (ok_issueBlock (fun _ _ hd => ok_of (tables_noFin ..) hd) (fun _ _ hd => ok_iterFill hd) h.1)

theorem ok_execBcrc {x rd ra rb iters s} (h : StateOk s) : OutOk (execBcrc x rd ra rb iters s) :=
  outOk_onDev h (ok_issueBlock (fun _ _ hd => ok_of (tables_noFin ..) hd) (fun _ _ hd => ok_iterCrc hd) h.1)

theorem ok_execBcmp {x rd ra rb full iters s} (h : StateOk s) : OutOk (execBcmp x rd ra rb full iters s) :=
  outOk_onDev h (ok_issueBlock (fun _ _ hd => ok_of (tables_cmpEnd ..) hd) (fun _ _ hd => ok_iterCmp hd) h.1)

theorem ok_execTrap {x fn s} (h : StateOk s) : OutOk (execTrap x fn s) :=
  outOk_onDev h (ok_issue (fun _ hd => exOk_ite (ok_encFault hd) (exOk_error hd)) h.1)

theorem ok_leaveFrame {m stk w pc d} (h : (tables d).Ok) : ResOk (leaveFrame m stk w pc d) := by
  unfold leaveFrame
  exact exOk_ok (ok_of (tables_onCore ..) h)

theorem ok_execEret {x s} (h : StateOk s) : OutOk (execEret x s) := by
  unfold execEret
  refine outOk_onDev h ?_
  refine ok_issue (fun _ hd => ?_) h.1
  refine exOk_ite (ok_privFault hd) ?_
  refine exOk_ite (ok_encFault hd) ?_
  split
  · rename_i he
    exact exOk_error (ok_of (tables_popsFault he) hd)
  · split
    · rename_i he
      exact exOk_error (ok_of (tables_integrity he) hd)
    · refine exOk_ite (ok_privFault hd) ?_
      split
      · rename_i he
        exact exOk_error (ok_of (tables_integrity he) hd)
      · exact ok_leaveFrame hd

theorem ok_execFence {x fn s} (h : StateOk s) : OutOk (execFence x fn s) :=
  outOk_onDev h (ok_issue (fun _ hd => exOk_ite (ok_finishWith hd) (ok_encFault hd)) h.1)

theorem ok_execMpusync {x s} (h : StateOk s) : OutOk (execMpusync x s) :=
  outOk_onDev h (ok_issue (fun _ hd => exOk_ite (ok_privFault hd) (ok_finishWith hd)) h.1)

theorem ok_execWaitpass {x rd s} (h : StateOk s) : OutOk (execWaitpass x rd s) :=
  outOk_onDev h (ok_issueWith (fun _ hd => exOk_ite (ok_encFault (ok_of (tables_notBlock ..) hd)) (exOk_ite (exOk_ok (ok_of (tables_diverge ..) (ok_of
    (tables_notBlock ..) hd))) (ok_finishWith (ok_of (tables_notBlock ..) hd)))) h.1)

theorem ok_execFeat {x rd n s} (h : StateOk s) : OutOk (execFeat x rd n s) :=
  outOk_onDev h (ok_issue (fun _ hd => exOk_ite (ok_finishWith hd) (ok_encFault hd)) h.1)

theorem ok_execMfsr {x rd sr s} (h : StateOk s) : OutOk (execMfsr x rd sr s) := by
  unfold execMfsr
  refine outOk_onDev h ?_
  refine ok_issue (fun _ hd => ?_) h.1
  refine exOk_ite (ok_encFault hd) ?_
  refine exOk_ite (ok_privFault hd) ?_
  refine exOk_ite (ok_finishWith hd) ?_
  split
  · rename_i he
    exact ok_finishWith (ok_of ((tables_snd he).trans (tables_cycInput ..)) hd)
  · rename_i he
    exact exOk_ok (ok_of ((tables_snd he).trans (tables_cycInput ..)) hd)

theorem ok_execMtsr {x sr ra s} (h : StateOk s) : OutOk (execMtsr x sr ra s) := by
  unfold execMtsr
  refine outOk_onDev h ?_
  refine ok_issue (fun _ hd => ?_) h.1
  refine exOk_ite (ok_encFault hd) ?_
  refine exOk_ite (ok_privFault hd) ?_
  refine exOk_ite ?_ (ok_finishWith hd)
  split
  · exact ok_finishWith hd
  · exact exOk_error hd

theorem ok_execBargeSend {toField lane s} (h : StateOk s) : OutOk (execBargeSend toField lane s) := outOk_onDev h (ok_of (tables_bargeSend ..) h.1)

theorem ok_execBargeReceive {toField lane errs s} (h : StateOk s) : OutOk (execBargeReceive toField lane errs s) := outOk_onDev h (ok_bargeReceive h.1)

theorem ok_execBargeQueueWrite {toField lane s} (h : StateOk s) : OutOk (execBargeQueueWrite toField lane s) := outOk_onDev h (ok_bargeQueueWrite h.1)

theorem ok_execLkgTxqTailWrite {m v s} (h : StateOk s) : OutOk (execLkgTxqTailWrite m v s) := outOk_onDev h (ok_of (tables_txqTailWrite ..) h.1)

theorem ok_execLkgRxqHeadWrite {m v s} (h : StateOk s) : OutOk (execLkgRxqHeadWrite m v s) := outOk_onDev h (ok_rxqHeadWrite h.1)

theorem ok_execPresenceReport {s} (h : StateOk s) : OutOk (execPresenceReport s) := outOk_onDev h (ok_typedReceive h.1)

theorem ok_execChainGrant {s} (h : StateOk s) : OutOk (execChainGrant s) := outOk_onDev h (ok_typedReceive h.1)

theorem ok_execCredQuery {s} (h : StateOk s) : OutOk (execCredQuery s) := outOk_onDev h (ok_typedReceive h.1)

theorem ok_execCredAnswer {s} (h : StateOk s) : OutOk (execCredAnswer s) := outOk_onDev h (ok_typedReceive h.1)

theorem ok_execCryptoRequest {s} (h : StateOk s) : OutOk (execCryptoRequest s) := outOk_onDev h (ok_typedReceive h.1)

theorem ok_execCryptoAnswer {s} (h : StateOk s) : OutOk (execCryptoAnswer s) := outOk_onDev h (ok_typedReceive h.1)

theorem ok_execAuditRecord {s} (h : StateOk s) : OutOk (execAuditRecord s) := outOk_onDev h (ok_typedReceive h.1)

theorem ok_execHealth {s} (h : StateOk s) : OutOk (execHealth s) := outOk_onDev h (ok_typedReceive h.1)

theorem ok_execConfigPush {s} (h : StateOk s) : OutOk (execConfigPush s) := outOk_onDev h (ok_typedReceive h.1)

theorem ok_execConfigAck {s} (h : StateOk s) : OutOk (execConfigAck s) := outOk_onDev h (ok_typedReceive h.1)

theorem ok_execFirmwareBlock {s} (h : StateOk s) : OutOk (execFirmwareBlock s) := outOk_onDev h (ok_typedReceive h.1)

theorem ok_execDrawFill {s} (h : StateOk s) : OutOk (execDrawFill s) := outOk_onDev h (ok_typedReceive h.1)

theorem ok_execChallenge {s} (h : StateOk s) : OutOk (execChallenge s) := outOk_onDev h (ok_typedReceive h.1)

theorem ok_execReplayInput {s} (h : StateOk s) : OutOk (execReplayInput s) := outOk_onDev h (ok_typedReceive h.1)

theorem ok_execReplayLog {s} (h : StateOk s) : OutOk (execReplayLog s) := outOk_onDev h (ok_typedReceive h.1)

theorem ok_execFieldMessage {s} (h : StateOk s) : OutOk (execFieldMessage s) := outOk_onDev h (ok_typedReceive h.1)

theorem ok_execCoreStopBarge {s} (h : StateOk s) : OutOk (execCoreStopBarge s) := outOk_onDev h (ok_typedReceive h.1)

theorem ok_execMbxSend {m channel s} (h : StateOk s) : OutOk (execMbxSend m channel s) := outOk_onDev h (ok_of (tables_mbxSend ..) h.1)

theorem ok_execMbxAck {m channel seq s} (h : StateOk s) : OutOk (execMbxAck m channel seq s) := outOk_onDev h (ok_of (tables_mbxAck ..) h.1)

theorem ok_execMailboxTimeout {channel s} (h : StateOk s) : OutOk (execMailboxTimeout channel s) := outOk_onDev h (ok_mbxTimeout h.1)

theorem ok_execMailboxSendArrival {channel words s} (h : StateOk s) : OutOk (execMailboxSendArrival channel words s) :=
  outOk_onDev h (ok_of (tables_mbxArrival ..) h.1)

theorem ok_execCardInsertion {slot s} (h : StateOk s) : OutOk (execCardInsertion slot s) := outOk_onDev h (ok_of (tables_cardInsert ..) h.1)

theorem ok_execCardIdentification {slot found s} (h : StateOk s) : OutOk (execCardIdentification slot found s) :=
  outOk_onDev h (ok_of (tables_cardIdentify ..) h.1)

theorem ok_execCardRemoval {slot sent s} (h : StateOk s) : OutOk (execCardRemoval slot sent s) := outOk_onDev h (ok_cardRemove h.1)

theorem ok_execRecordWrite {slot fails s} (h : StateOk s) : OutOk (execRecordWrite slot fails s) := outOk_onDev h (ok_recordWrite h.1)

theorem ok_execSdBusyTimeout {slot s} (h : StateOk s) : OutOk (execSdBusyTimeout slot s) := outOk_onDev h (ok_busyTimeout h.1)

theorem ok_execAppend {m pl wcc s} (h : StateOk s) : OutOk (execAppend m pl wcc s) := outOk_onDev h (ok_of (tables_sdhCmd ..) h.1)

theorem ok_execSdRead {m pl wcc s} (h : StateOk s) : OutOk (execSdRead m pl wcc s) := outOk_onDev h (ok_of (tables_sdhCmd ..) h.1)

theorem ok_execSdOpen {m pl s} (h : StateOk s) : OutOk (execSdOpen m pl s) := outOk_onDev h (ok_of (tables_sdhCmd ..) h.1)

theorem ok_execSdClose {m pl s} (h : StateOk s) : OutOk (execSdClose m pl s) := outOk_onDev h (ok_of (tables_sdhCmd ..) h.1)

theorem ok_execProtectPerm {m pl s} (h : StateOk s) : OutOk (execProtectPerm m pl s) := outOk_onDev h (ok_of (tables_sdhCmd ..) h.1)

theorem ok_execOfficerCardPresence {card present s} (h : StateOk s) : OutOk (execOfficerCardPresence card present s) :=
  outOk_onDev h (ok_officerPresence h.1)

theorem ok_execActivate {m pl card s} (h : StateOk s) : OutOk (execActivate m pl card s) := outOk_onDev h (ok_of (tables_ofcCmd ..) h.1)

theorem ok_execOfficerAuth {m pl card s} (h : StateOk s) : OutOk (execOfficerAuth m pl card s) := outOk_onDev h (ok_of (tables_ofcCmd ..) h.1)

theorem ok_execApprove {m pl card s} (h : StateOk s) : OutOk (execApprove m pl card s) := outOk_onDev h (ok_of (tables_ofcCmd ..) h.1)

theorem ok_execDeactivate {m pl card s} (h : StateOk s) : OutOk (execDeactivate m pl card s) := outOk_onDev h (ok_of (tables_ofcCmd ..) h.1)

theorem ok_execOfficerSessionExpiry {card s} (h : StateOk s) : OutOk (execOfficerSessionExpiry card s) :=
  outOk_onDev h (ok_of (tables_sessionExpiry ..) h.1)

theorem ok_execOfficerCardTimeout {card s} (h : StateOk s) : OutOk (execOfficerCardTimeout card s) := outOk_onDev h (ok_officerTimeout h.1)

theorem ok_execOfficerCardAnswer {card atrs rsp s} (h : StateOk s) : OutOk (execOfficerCardAnswer card atrs rsp s) := outOk_onDev h (ok_officerAnswer h.1)

theorem ok_execChnFqTailWrite {m chain v s} (h : StateOk s) : OutOk (execChnFqTailWrite m chain v s) := outOk_onDev h (ok_of (tables_fqTailWrite ..) h.1)

theorem ok_execActivateA {chain answers s} (h : StateOk s) : OutOk (execActivateA chain answers s) := outOk_onDev h (ok_of (tables_activateA ..) h.1)

theorem ok_execActivateB {chain answers s} (h : StateOk s) : OutOk (execActivateB chain answers s) := outOk_onDev h (ok_of (tables_activateB ..) h.1)

theorem ok_execExchange {chain air frame s} (h : StateOk s) : OutOk (execExchange chain air frame s) := outOk_onDev h (ok_of (tables_exchange ..) h.1)

theorem ok_execEmuArm {chain rats s} (h : StateOk s) : OutOk (execEmuArm chain rats s) := outOk_onDev h (ok_of (tables_emuArm ..) h.1)

theorem ok_execEmuReceive {chain s} (h : StateOk s) : OutOk (execEmuReceive chain s) := outOk_onDev h (ok_of (tables_emuReceive ..) h.1)

theorem ok_execEmuRespond {chain s} (h : StateOk s) : OutOk (execEmuRespond chain s) := outOk_onDev h (ok_of (tables_emuRespond ..) h.1)

theorem ok_execEntryCompletion {chain s} (h : StateOk s) : OutOk (execEntryCompletion chain s) := outOk_onDev h (ok_of (tables_entryCompletion ..) h.1)

theorem ok_execWtxRequestReceived {chain wtxm s} (h : StateOk s) : OutOk (execWtxRequestReceived chain wtxm s) :=
  outOk_onDev h (ok_of (tables_wtxRequest ..) h.1)

theorem ok_execReaderFrameReceived {chain good frame s} (h : StateOk s) : OutOk (execReaderFrameReceived chain good frame s) :=
  outOk_onDev h (ok_of (tables_readerFrame ..) h.1)

theorem ok_execEmuWtxTimer {chain s} (h : StateOk s) : OutOk (execEmuWtxTimer chain s) := outOk_onDev h (ok_of (tables_emuWtxTimer ..) h.1)

theorem ok_execEmuFieldLost {chain s} (h : StateOk s) : OutOk (execEmuFieldLost chain s) := outOk_onDev h (ok_of (tables_emuFieldLost ..) h.1)

theorem ok_execEncrypt {ring hdr b s} (h : StateOk s) : OutOk (execEncrypt ring hdr b s) := outOk_onDev h (ok_of (tables_placeDesc ..) h.1)

theorem ok_execDecrypt {ring hdr b s} (h : StateOk s) : OutOk (execDecrypt ring hdr b s) := outOk_onDev h (ok_of (tables_placeDesc ..) h.1)

theorem ok_execMacGenerate {ring hdr b s} (h : StateOk s) : OutOk (execMacGenerate ring hdr b s) := outOk_onDev h (ok_of (tables_placeDesc ..) h.1)

theorem ok_execMacVerify {ring hdr b s} (h : StateOk s) : OutOk (execMacVerify ring hdr b s) := outOk_onDev h (ok_of (tables_placeDesc ..) h.1)

theorem ok_execHash {ring hdr b s} (h : StateOk s) : OutOk (execHash ring hdr b s) := outOk_onDev h (ok_of (tables_placeDesc ..) h.1)

theorem ok_execHmac {ring hdr b s} (h : StateOk s) : OutOk (execHmac ring hdr b s) := outOk_onDev h (ok_of (tables_placeDesc ..) h.1)

theorem ok_execJob {ring hdr b s} (h : StateOk s) : OutOk (execJob ring hdr b s) := outOk_onDev h (ok_of (tables_placeDesc ..) h.1)

theorem ok_execLookup {ring hdr form addr digest s} (h : StateOk s) : OutOk (execLookup ring hdr form addr digest s) :=
  outOk_onDev h (ok_of (tables_placeDesc ..) h.1)

theorem ok_execStageDeltas {ring hdr count list s} (h : StateOk s) : OutOk (execStageDeltas ring hdr count list s) :=
  outOk_onDev h (ok_of (tables_placeDesc ..) h.1)

theorem ok_execCommitEpoch {ring hdr target s} (h : StateOk s) : OutOk (execCommitEpoch ring hdr target s) :=
  outOk_onDev h (ok_of (tables_placeDesc ..) h.1)

theorem ok_execChamberClaim {ring hdr s} (h : StateOk s) : OutOk (execChamberClaim ring hdr s) := outOk_onDev h (ok_of (tables_placeDesc ..) h.1)

theorem ok_execChamberWrite {ring hdr count list s} (h : StateOk s) : OutOk (execChamberWrite ring hdr count list s) :=
  outOk_onDev h (ok_of (tables_placeDesc ..) h.1)

theorem ok_execChamberCmd {ring hdr action target s} (h : StateOk s) : OutOk (execChamberCmd ring hdr action target s) :=
  outOk_onDev h (ok_of (tables_placeDesc ..) h.1)

theorem ok_execKeyImport {ring hdr slot len addr s} (h : StateOk s) : OutOk (execKeyImport ring hdr slot len addr s) :=
  outOk_onDev h (ok_of (tables_placeDesc ..) h.1)

theorem ok_execKeyExport {ring hdr slot kek maxLen addr s} (h : StateOk s) : OutOk (execKeyExport ring hdr slot kek maxLen addr s) :=
  outOk_onDev h (ok_of (tables_placeDesc ..) h.1)

theorem ok_execKeyErase {ring hdr slot s} (h : StateOk s) : OutOk (execKeyErase ring hdr slot s) := outOk_onDev h (ok_of (tables_placeDesc ..) h.1)

theorem ok_execPartition {ring hdr req s} (h : StateOk s) : OutOk (execPartition ring hdr req s) := outOk_onDev h (ok_of (tables_placeDesc ..) h.1)

theorem ok_execCancelRing {ring hdr named s} (h : StateOk s) : OutOk (execCancelRing ring hdr named s) := outOk_onDev h (ok_of (tables_placeDesc ..) h.1)

theorem ok_execRegRead {ring hdr addr selAddr selValue s} (h : StateOk s) : OutOk (execRegRead ring hdr addr selAddr selValue s) :=
  outOk_onDev h (ok_of (tables_placeDesc ..) h.1)

theorem ok_execHoldUnlock {ring hdr len addr s} (h : StateOk s) : OutOk (execHoldUnlock ring hdr len addr s) :=
  outOk_onDev h (ok_of (tables_placeDesc ..) h.1)

theorem ok_execEnvSeal {ring hdr peer kind len src dst dstMax s} (h : StateOk s) : OutOk (execEnvSeal ring hdr peer kind len src dst dstMax s) :=
  outOk_onDev h (ok_of (tables_placeDesc ..) h.1)

theorem ok_execEnvOpen {ring hdr peer kind len src dst dstMax s} (h : StateOk s) : OutOk (execEnvOpen ring hdr peer kind len src dst dstMax s) :=
  outOk_onDev h (ok_of (tables_placeDesc ..) h.1)

theorem ok_execRepetitionCountFailure {mask run s} (h : StateOk s) : OutOk (execRepetitionCountFailure mask run s) :=
  outOk_onDev h (ok_of (tables_rctFail ..) h.1)

theorem ok_execWindowComplete {src samples s} (h : StateOk s) : OutOk (execWindowComplete src samples s) :=
  outOk_onDev h (ok_of (tables_windowDone ..) h.1)

theorem ok_execStartupTestComplete {runs s} (h : StateOk s) : OutOk (execStartupTestComplete runs s) := outOk_onDev h (ok_of (tables_startupDone ..) h.1)

theorem ok_execHopRetest {m mask s} (h : StateOk s) : OutOk (execHopRetest m mask s) := outOk_onDev h (ok_of (tables_hopRetest ..) h.1)

theorem ok_execGeneratorInstantiate {inst katOk s} (h : StateOk s) : OutOk (execGeneratorInstantiate inst katOk s) :=
  outOk_onDev h (ok_of (tables_hopInstantiate ..) h.1)

theorem ok_execGeneratorReseed {inst s} (h : StateOk s) : OutOk (execGeneratorReseed inst s) := outOk_onDev h (ok_of (tables_hopReseed ..) h.1)

theorem ok_execReseedOverdue {inst s} (h : StateOk s) : OutOk (execReseedOverdue inst s) := outOk_onDev h (ok_of (tables_hopOverdue ..) h.1)

theorem ok_execHopSwDrawRead {m s} (h : StateOk s) : OutOk (execHopSwDrawRead m s) := outOk_onDev h (ok_of (tables_hopSwDrawRead ..) h.1)

theorem ok_execRawModeEnable {m src s} (h : StateOk s) : OutOk (execRawModeEnable m src s) := outOk_onDev h (ok_of (tables_rawEnable ..) h.1)

theorem ok_execRawModeEntry {s} (h : StateOk s) : OutOk (execRawModeEntry s) := outOk_onDev h (ok_of (tables_rawEntry ..) h.1)

theorem ok_execHopRawDataRead {m arrived s} (h : StateOk s) : OutOk (execHopRawDataRead m arrived s) :=
  outOk_onDev h (ok_of (tables_hopRawDataRead ..) h.1)

theorem ok_execRawModeExit {m s} (h : StateOk s) : OutOk (execRawModeExit m s) := outOk_onDev h (ok_of (tables_rawExit ..) h.1)

theorem ok_execInterruptEntry {core vec s} (h : StateOk s) : OutOk (execInterruptEntry core vec s) := outOk_onDev h (ok_interruptEntry h.1)

theorem ok_execMpuRegionWrite {m pl a v s} (h : StateOk s) : OutOk (execMpuRegionWrite m pl a v s) := outOk_onDev h (ok_of (tables_mpuRegionWrite ..) h.1)

theorem ok_execTamperEvent {source s} (h : StateOk s) : OutOk (execTamperEvent source s) := outOk_onDev h (ok_of (tables_tamperEvent ..) h.1)

theorem ok_execCountDecay {source s} (h : StateOk s) : OutOk (execCountDecay source s) := outOk_onDev h (ok_of (tables_countDecay ..) h.1)

theorem ok_execResponseWindowEnd {s} (h : StateOk s) : OutOk (execResponseWindowEnd s) := outOk_onDev h (ok_windowEnd h.1)

theorem ok_execKeepCellSample {found s} (h : StateOk s) : OutOk (execKeepCellSample found s) := outOk_onDev h (ok_of (tables_keepSample ..) h.1)

theorem ok_execHoldUnlockVerified {id s} (h : StateOk s) : OutOk (execHoldUnlockVerified id s) := outOk_onDev h (ok_unlockVerified h.1)

theorem ok_execHoldRelease {s} (h : StateOk s) : OutOk (execHoldRelease s) := outOk_onDev h (ok_holdRelease h.1)

theorem ok_execTamperConditionClear {source s} (h : StateOk s) : OutOk (execTamperConditionClear source s) :=
  outOk_onDev h (ok_of (tables_tamperCleared ..) h.1)

theorem ok_execPlainFrameArrival {link frame fcsOk s} (h : StateOk s) : OutOk (execPlainFrameArrival link frame fcsOk s) :=
  outOk_onDev h (ok_frameArrival h.1)

theorem ok_execSealedFrameArrival {link frame fcsOk s} (h : StateOk s) : OutOk (execSealedFrameArrival link frame fcsOk s) :=
  outOk_onDev h (ok_frameArrival h.1)

theorem ok_execStageAdvance {stream stage integ s} (h : StateOk s) : OutOk (execStageAdvance stream stage integ s) := outOk_onDev h (ok_stageAdvance h.1)

theorem ok_execFrameTransmit {stream integ s} (h : StateOk s) : OutOk (execFrameTransmit stream integ s) :=
  outOk_onDev h (ok_of (tables_frameTransmit ..) h.1)

theorem ok_execUncontrolledTx {link v s} (h : StateOk s) : OutOk (execUncontrolledTx link v s) := outOk_onDev h (ok_of (tables_uqTxTail ..) h.1)

theorem ok_execUqRxHeadWrite {link v s} (h : StateOk s) : OutOk (execUqRxHeadWrite link v s) := outOk_onDev h (ok_of (tables_uqRxHead ..) h.1)

theorem ok_execLinkStateChange {link bit up s} (h : StateOk s) : OutOk (execLinkStateChange link bit up s) :=
  outOk_onDev h (ok_of (tables_linkChange ..) h.1)

theorem ok_execLoadSak {m pl s} (h : StateOk s) : OutOk (execLoadSak m pl s) := outOk_onDev h (ok_of (tables_ilsCmd ..) h.1)

theorem ok_execClearKey {m pl s} (h : StateOk s) : OutOk (execClearKey m pl s) := outOk_onDev h (ok_of (tables_ilsCmd ..) h.1)

theorem ok_execPnWarn {sa s} (h : StateOk s) : OutOk (execPnWarn sa s) := outOk_onDev h (ok_of (tables_pnWarn ..) h.1)

theorem ok_execSaFreeze {sa s} (h : StateOk s) : OutOk (execSaFreeze sa s) := outOk_onDev h (ok_of (tables_saFreeze ..) h.1)

theorem ok_execSaRetire {sa s} (h : StateOk s) : OutOk (execSaRetire sa s) := outOk_onDev h (ok_of (tables_saRetire ..) h.1)

theorem ok_execLoadImage {m pl s} (h : StateOk s) : OutOk (execLoadImage m pl s) := outOk_onDev h (ok_of (tables_grdCmd ..) h.1)

theorem ok_execGrdFwqDoorbell {q pl v s} (h : StateOk s) : OutOk (execGrdFwqDoorbell q pl v s) := outOk_onDev h (ok_of (tables_grdDoorbell ..) h.1)

theorem ok_execGrdFwqCancel {q v s} (h : StateOk s) : OutOk (execGrdFwqCancel q v s) := outOk_onDev h (ok_of (tables_grdCancel ..) h.1)

theorem ok_execYieldPointSave {unit s} (h : StateOk s) : OutOk (execYieldPointSave unit s) := outOk_onDev h (ok_of (tables_yieldSave ..) h.1)

theorem ok_execSuspendedJobResume {unit s} (h : StateOk s) : OutOk (execSuspendedJobResume unit s) := outOk_onDev h (ok_of (tables_suspResume ..) h.1)

theorem ok_execGrinderJobEnd {unit wcc s} (h : StateOk s) : OutOk (execGrinderJobEnd unit wcc s) :=
  outOk_onDev h (ok_orIntegrity (fun _ hd => ok_jobEnd hd) h.1)

theorem ok_execRsaSelfcheckFailure {unit s} (h : StateOk s) : OutOk (execRsaSelfcheckFailure unit s) := outOk_onDev h (ok_of (tables_rsaFail ..) h.1)

theorem ok_execHardwareDraw {who s} (h : StateOk s) : OutOk (execHardwareDraw who s) := outOk_onDev h (ok_hardwareDraw h.1)

theorem ok_execImageLoadComplete {unit wcc s} (h : StateOk s) : OutOk (execImageLoadComplete unit wcc s) := outOk_onDev h (ok_imageDone h.1)

theorem ok_execCipherOpComplete {id wcc s} (h : StateOk s) : OutOk (execCipherOpComplete id wcc s) :=
  outOk_onDev h (ok_orIntegrity (fun _ hd => ok_cipherComplete hd) h.1)

theorem ok_execHashOpComplete {id wcc s} (h : StateOk s) : OutOk (execHashOpComplete id wcc s) :=
  outOk_onDev h (ok_orIntegrity (fun _ hd => ok_hashComplete hd) h.1)

theorem ok_execLateResultDiscard {kind idx s} (h : StateOk s) : OutOk (execLateResultDiscard kind idx s) :=
  outOk_onDev h (ok_of (tables_lateResult ..) h.1)

theorem ok_execKeyExhaustion {slot s} (h : StateOk s) : OutOk (execKeyExhaustion slot s) := outOk_onDev h (ok_of (tables_keyExhausted ..) h.1)

theorem ok_execFwqDoorbell {q pl v s} (h : StateOk s) : OutOk (execFwqDoorbell q pl v s) := outOk_onDev h (ok_of (tables_clnDoorbell ..) h.1)

theorem ok_execKslImport {m pl s} (h : StateOk s) : OutOk (execKslImport m pl s) := outOk_onDev h (ok_of (tables_kslCmd ..) h.1)

theorem ok_execKslExport {m pl s} (h : StateOk s) : OutOk (execKslExport m pl s) := outOk_onDev h (ok_of (tables_kslCmd ..) h.1)

theorem ok_execKslErase {m pl s} (h : StateOk s) : OutOk (execKslErase m pl s) := outOk_onDev h (ok_of (tables_kslCmd ..) h.1)

theorem ok_execDerive {m pl s} (h : StateOk s) : OutOk (execDerive m pl s) := outOk_onDev h (ok_of (tables_kslCmd ..) h.1)

theorem ok_execUnwrap3394 {m pl s} (h : StateOk s) : OutOk (execUnwrap3394 m pl s) := outOk_onDev h (ok_of (tables_kslCmd ..) h.1)

theorem ok_execKeyOperationComplete {id wcc s} (h : StateOk s) : OutOk (execKeyOperationComplete id wcc s) :=
  outOk_onDev h (ok_orIntegrity (fun _ hd => ok_keyComplete hd) h.1)

theorem ok_execToFactory {m s} (h : StateOk s) : OutOk (execToFactory m s) := outOk_onDev h (ok_of (tables_lcsCmd ..) h.1)

theorem ok_execProvision {m s} (h : StateOk s) : OutOk (execProvision m s) := outOk_onDev h (ok_of (tables_lcsCmd ..) h.1)

theorem ok_execToScrap {m s} (h : StateOk s) : OutOk (execToScrap m s) := outOk_onDev h (ok_of (tables_lcsCmd ..) h.1)

theorem ok_execIssueChallenge {m s} (h : StateOk s) : OutOk (execIssueChallenge m s) := outOk_onDev h (ok_of (tables_lcsCmd ..) h.1)

theorem ok_execVerifyResponse {m s} (h : StateOk s) : OutOk (execVerifyResponse m s) := outOk_onDev h (ok_of (tables_lcsCmd ..) h.1)

theorem ok_execFuseRowWrite {ok s} (h : StateOk s) : OutOk (execFuseRowWrite ok s) := outOk_onDev h (ok_of (tables_fuseRowWrite ..) h.1)

theorem ok_execChallengeExpiry {s} (h : StateOk s) : OutOk (execChallengeExpiry s) := outOk_onDev h (ok_of (tables_challengeExpiry ..) h.1)

theorem ok_execKBoot {bad lost s} (h : StateOk s) : OutOk (execKBoot bad lost s) := outOk_onDev h (ok_kBoot h.1)

theorem ok_execExtest {rstn pins shift s} (h : StateOk s) : OutOk (execExtest rstn pins shift s) := outOk_onDev h (ok_of (tables_tapExtest ..) h.1)

theorem ok_execIdcode {s} (h : StateOk s) : OutOk (execIdcode s) := outOk_onDev h (ok_of (tables_tapIdcode ..) h.1)

theorem ok_execSamplePreload {pins shift s} (h : StateOk s) : OutOk (execSamplePreload pins shift s) := outOk_onDev h (ok_of (tables_tapSample ..) h.1)

theorem ok_execAuth {resp s} (h : StateOk s) : OutOk (execAuth resp s) := outOk_onDev h (ok_of (tables_tapAuth ..) h.1)

theorem ok_execDebug {s} (h : StateOk s) : OutOk (execDebug s) := outOk_onDev h (ok_of (tables_tapDebug ..) h.1)

theorem ok_execBypass {_ir s} (h : StateOk s) : OutOk (execBypass _ir s) := outOk_onDev h (ok_of (tables_tapBypass ..) h.1)

theorem ok_execTowpathSessionOpen {s} (h : StateOk s) : OutOk (execTowpathSessionOpen s) := outOk_onDev h (ok_of (tables_sessionOpen ..) h.1)

theorem ok_execDbgDataAccess {w s} (h : StateOk s) : OutOk (execDbgDataAccess w s) := outOk_onDev h (ok_dbgDataAccess h.1)

theorem ok_execDbgCoreWrite {v s} (h : StateOk s) : OutOk (execDbgCoreWrite v s) := outOk_onDev h (ok_of (tables_dbgCoreWrite ..) h.1)

theorem ok_execTapReset {s} (h : StateOk s) : OutOk (execTapReset s) := outOk_onDev h (ok_of (tables_tapReset ..) h.1)

theorem ok_execPassEdge {s} (h : StateOk s) : OutOk (execPassEdge s) := by
  intro t ht
  rw [← Host.Outcome.next.inj ht]
  exact ⟨ok_passEdge h.1, (ok_passEdge h.1).1, h.2.2⟩

theorem ok_execFieldEdge {s} (h : StateOk s) : OutOk (execFieldEdge s) := by
  intro t ht
  rw [← Host.Outcome.next.inj ht]
  exact ⟨ok_fieldEdge h.1, h.2.1, (ok_fieldEdge h.1).1⟩

theorem ok_execLatchedLoRead {m a s} (h : StateOk s) : OutOk (execLatchedLoRead m a s) := outOk_onDev h (ok_of (tables_latchedLoTop ..) h.1)

theorem ok_execFineTimerRead {core a s} (h : StateOk s) : OutOk (execFineTimerRead core a s) := outOk_onDev h (ok_of (tables_fineTimerRead ..) h.1)

theorem ok_execRegisterWrite {m pl a v s} (h : StateOk s) : OutOk (execRegisterWrite m pl a v s) := outOk_onDev h (ok_regWriteTop h.1)

theorem ok_execChamberFieldWrite {m a v s} (h : StateOk s) : OutOk (execChamberFieldWrite m a v s) := outOk_onDev h (ok_of (tables_chamberFieldTop ..) h.1)

theorem ok_execClaim {m s} (h : StateOk s) : OutOk (execClaim m s) := outOk_onDev h (ok_of (tables_chamberTop ..) h.1)

theorem ok_execLevel {m s} (h : StateOk s) : OutOk (execLevel m s) := outOk_onDev h (ok_of (tables_chamberTop ..) h.1)

theorem ok_execOpenNext {m s} (h : StateOk s) : OutOk (execOpenNext m s) := outOk_onDev h (ok_of (tables_chamberTop ..) h.1)

theorem ok_execOpenAt {m s} (h : StateOk s) : OutOk (execOpenAt m s) := outOk_onDev h (ok_of (tables_chamberTop ..) h.1)

theorem ok_execUnschedule {m s} (h : StateOk s) : OutOk (execUnschedule m s) := outOk_onDev h (ok_of (tables_chamberTop ..) h.1)

theorem ok_execDiscard {m s} (h : StateOk s) : OutOk (execDiscard m s) := outOk_onDev h (ok_of (tables_chamberTop ..) h.1)

theorem ok_execLevelComplete {s} (h : StateOk s) : OutOk (execLevelComplete s) := outOk_onDev h (ok_of (tables_levelComplete ..) h.1)

theorem ok_execChamberOpen {s} (h : StateOk s) : OutOk (execChamberOpen s) := outOk_onDev h (ok_chamberOpen h.1)

theorem ok_execApproval {ring hdr tokenAddr s} (h : StateOk s) : OutOk (execApproval ring hdr tokenAddr s) :=
  outOk_onDev h (ok_of (tables_placeDesc ..) h.1)

theorem ok_execApprovalAccept {s} (h : StateOk s) : OutOk (execApprovalAccept s) := outOk_onDev h (ok_acceptApprovals h.1)

theorem ok_execApprovalExpiry {s} (h : StateOk s) : OutOk (execApprovalExpiry s) := outOk_onDev h (ok_of (tables_expireApprovals ..) h.1)

theorem ok_execKeySlotExpiry {s} (h : StateOk s) : OutOk (execKeySlotExpiry s) := outOk_onDev h (ok_of (tables_slotExpiry ..) h.1)

theorem ok_execBoundOverrun {s} (h : StateOk s) : OutOk (execBoundOverrun s) := outOk_onDev h (ok_boundOverrun h.1)

theorem ok_execResultRelease {s} (h : StateOk s) : OutOk (execResultRelease s) := outOk_onDev h (ok_releaseDue h.1)

theorem ok_execPartReqDrain {m pl kind idx reason s} (h : StateOk s) : OutOk (execPartReqDrain m pl kind idx reason s) :=
  outOk_onDev h (ok_of (tables_partReq ..) h.1)

theorem ok_execPartReqFence {m pl kind idx reason s} (h : StateOk s) : OutOk (execPartReqFence m pl kind idx reason s) :=
  outOk_onDev h (ok_of (tables_partReq ..) h.1)

theorem ok_execPartReqReturn {m pl kind idx reason s} (h : StateOk s) : OutOk (execPartReqReturn m pl kind idx reason s) :=
  outOk_onDev h (ok_of (tables_partReq ..) h.1)

theorem ok_execPartitionApply {s} (h : StateOk s) : OutOk (execPartitionApply s) := outOk_onDev h (ok_partitionApply h.1)

theorem ok_execDrainComplete {s} (h : StateOk s) : OutOk (execDrainComplete s) := outOk_onDev h (ok_of (tables_drainComplete ..) h.1)

theorem ok_execApprovalVerified {id s} (h : StateOk s) : OutOk (execApprovalVerified id s) := outOk_onDev h (ok_approvalVerified h.1)

theorem ok_execFlashRead {m pl s} (h : StateOk s) : OutOk (execFlashRead m pl s) := outOk_onDev h (ok_of (tables_flsCmd ..) h.1)

theorem ok_execFlashProgram {m pl s} (h : StateOk s) : OutOk (execFlashProgram m pl s) := outOk_onDev h (ok_of (tables_flsCmd ..) h.1)

theorem ok_execFlashErase {m pl s} (h : StateOk s) : OutOk (execFlashErase m pl s) := outOk_onDev h (ok_of (tables_flsCmd ..) h.1)

theorem ok_execFlashSuspend {m pl s} (h : StateOk s) : OutOk (execFlashSuspend m pl s) := outOk_onDev h (ok_of (tables_flsCmd ..) h.1)

theorem ok_execFlashResume {m pl s} (h : StateOk s) : OutOk (execFlashResume m pl s) := outOk_onDev h (ok_of (tables_flsCmd ..) h.1)

theorem ok_execReadCal {m pl s} (h : StateOk s) : OutOk (execReadCal m pl s) := outOk_onDev h (ok_of (tables_flsCmd ..) h.1)

theorem ok_execFlashCommit {m pl s} (h : StateOk s) : OutOk (execFlashCommit m pl s) := outOk_onDev h (ok_of (tables_flsCmd ..) h.1)

theorem ok_execFlashOpComplete {plane ok corrected wcc s} (h : StateOk s) : OutOk (execFlashOpComplete plane ok corrected wcc s) :=
  outOk_onDev h (ok_flsComplete h.1)

theorem ok_execFlsXipCtlWrite {m pl v s} (h : StateOk s) : OutOk (execFlsXipCtlWrite m pl v s) := outOk_onDev h (ok_of (tables_xipWrite ..) h.1)

theorem ok_execFlashControllerRelease {s} (h : StateOk s) : OutOk (execFlashControllerRelease s) := outOk_onDev h (ok_of (tables_flsRelease ..) h.1)

theorem ok_execSweepStart {engine s} (h : StateOk s) : OutOk (execSweepStart engine s) := outOk_onDev h (ok_of (tables_sweepStart ..) h.1)

theorem ok_execPing {engine amp phase s} (h : StateOk s) : OutOk (execPing engine amp phase s) := outOk_onDev h (ok_of (tables_ping ..) h.1)

theorem ok_execBaselinePing {engine port amp phase s} (h : StateOk s) : OutOk (execBaselinePing engine port amp phase s) :=
  outOk_onDev h (ok_of (tables_baselinePing ..) h.1)

theorem ok_execLingerExpiry {port s} (h : StateOk s) : OutOk (execLingerExpiry port s) := outOk_onDev h (ok_of (tables_lingerExpiry ..) h.1)

theorem ok_execFlightReady {flight s} (h : StateOk s) : OutOk (execFlightReady flight s) := outOk_onDev h (ok_of (tables_flightReadyNow ..) h.1)

theorem ok_execRequest {m port mode s} (h : StateOk s) : OutOk (execRequest m port mode s) := outOk_onDev h (ok_of (tables_fldReqWrite ..) h.1)

theorem ok_execRelease {m port mode s} (h : StateOk s) : OutOk (execRelease m port mode s) := outOk_onDev h (ok_of (tables_fldReqWrite ..) h.1)

theorem ok_execWithdraw {m port mode s} (h : StateOk s) : OutOk (execWithdraw m port mode s) := outOk_onDev h (ok_of (tables_fldReqWrite ..) h.1)

theorem ok_execGrantCeiling {port s} (h : StateOk s) : OutOk (execGrantCeiling port s) := outOk_onDev h (ok_of (tables_grantCeiling ..) h.1)

theorem ok_execTuningComplete {chain ser shu vswr fwd refl s} (h : StateOk s) : OutOk (execTuningComplete chain ser shu vswr fwd refl s) :=
  outOk_onDev h (ok_of (tables_tuningComplete ..) h.1)

theorem ok_execSettleEnd {chain s} (h : StateOk s) : OutOk (execSettleEnd chain s) := outOk_onDev h (ok_of (tables_settleEnd ..) h.1)

theorem ok_execVswrMismatch {chain v1 v2 s} (h : StateOk s) : OutOk (execVswrMismatch chain v1 v2 s) := outOk_onDev h (ok_of (tables_vswrMismatch ..) h.1)

theorem ok_execAptClear {m port v s} (h : StateOk s) : OutOk (execAptClear m port v s) := outOk_onDev h (ok_of (tables_aptClear ..) h.1)

theorem ok_execFieldSupplyFault {high s} (h : StateOk s) : OutOk (execFieldSupplyFault high s) := outOk_onDev h (ok_of (tables_supplyLost ..) h.1)

theorem ok_execEventQueueWrite {core s} (h : StateOk s) : OutOk (execEventQueueWrite core s) := outOk_onDev h (ok_eventWrite h.1)

theorem ok_execFldEvqHeadWrite {core v s} (h : StateOk s) : OutOk (execFldEvqHeadWrite core v s) := outOk_onDev h (ok_of (tables_evqHeadWrite ..) h.1)

theorem ok_execFieldSupplyRecovery {s} (h : StateOk s) : OutOk (execFieldSupplyRecovery s) := outOk_onDev h (ok_of (tables_supplyRecovery ..) h.1)

theorem ok_execRecordClose {s} (h : StateOk s) : OutOk (execRecordClose s) := outOk_onDev h (ok_recordClose h.1)

theorem ok_execRecordDelivery {consumed s} (h : StateOk s) : OutOk (execRecordDelivery consumed s) := outOk_onDev h (ok_recordDelivery h.1)

theorem ok_execReplayedEdge {record s} (h : StateOk s) : OutOk (execReplayedEdge record s) := outOk_onDev h (ok_replayedEdge h.1)

theorem ok_execPmuCounterOverflow {core counter s} (h : StateOk s) : OutOk (execPmuCounterOverflow core counter s) :=
  outOk_onDev h (ok_of (tables_pmuOverflow ..) h.1)

theorem ok_execBandwidthWindowClose {counts s} (h : StateOk s) : OutOk (execBandwidthWindowClose counts s) := outOk_onDev h (ok_of (tables_bwClose ..) h.1)

theorem ok_execPmuBwClear {s} (h : StateOk s) : OutOk (execPmuBwClear s) := outOk_onDev h (ok_of (tables_bwClear ..) h.1)

theorem ok_execPmuClear {m pl core s} (h : StateOk s) : OutOk (execPmuClear m pl core s) := outOk_onDev h (ok_of (tables_pmuClearWrite ..) h.1)

theorem ok_execSampleTag {core s} (h : StateOk s) : OutOk (execSampleTag core s) := outOk_onDev h (ok_of (tables_sampleTag ..) h.1)

theorem ok_execSampleRecord {core x s} (h : StateOk s) : OutOk (execSampleRecord core x s) := outOk_onDev h (ok_of (tables_sampleRecord ..) h.1)

theorem ok_execPmuSmpDataRead {m core s} (h : StateOk s) : OutOk (execPmuSmpDataRead m core s) := outOk_onDev h (ok_of (tables_pmuSmpDataRead ..) h.1)

theorem ok_execLookupComplete {id wcc s} (h : StateOk s) : OutOk (execLookupComplete id wcc s) :=
  outOk_onDev h (ok_orIntegrity (fun _ hd => ok_lookupComplete hd) h.1)

theorem ok_execCrgStage {m pl wcc s} (h : StateOk s) : OutOk (execCrgStage m pl wcc s) := outOk_onDev h (ok_of (tables_crgCmd ..) h.1)

theorem ok_execCrgCommit {m pl s} (h : StateOk s) : OutOk (execCrgCommit m pl s) := outOk_onDev h (ok_of (tables_crgCmd ..) h.1)

theorem ok_execCrgDiscard {m pl s} (h : StateOk s) : OutOk (execCrgDiscard m pl s) := outOk_onDev h (ok_of (tables_crgCmd ..) h.1)

theorem ok_execDeltaPreparation {s} (h : StateOk s) : OutOk (execDeltaPreparation s) := outOk_onDev h (ok_of (tables_deltaPrep ..) h.1)

theorem ok_execEpochSwitch {s} (h : StateOk s) : OutOk (execEpochSwitch s) := outOk_onDev h (ok_epochSwitch h.1)

theorem ok_execCommitTimeout {s} (h : StateOk s) : OutOk (execCommitTimeout s) := outOk_onDev h (ok_commitTimeout h.1)

theorem ok_execKekActivation {s} (h : StateOk s) : OutOk (execKekActivation s) := outOk_onDev h (ok_of (tables_kekActivate ..) h.1)

theorem ok_execEnvelopeOperationComplete {id wcc s} (h : StateOk s) : OutOk (execEnvelopeOperationComplete id wcc s) :=
  outOk_onDev h (ok_orIntegrity (fun _ hd => ok_envelopeComplete hd) h.1)

theorem ok_execResetSourceAssert {source core s} (h : StateOk s) : OutOk (execResetSourceAssert source core s) := outOk_onDev h (ok_sourceAssert h.1)

theorem ok_execRstCmd {m v s} (h : StateOk s) : OutOk (execRstCmd m v s) := outOk_onDev h (ok_rstCmd h.1)

theorem ok_execResetReleaseStep {step s} (h : StateOk s) : OutOk (execResetReleaseStep step s) := outOk_onDev h (ok_releaseStep h.1)

theorem ok_execRstGo {m step s} (h : StateOk s) : OutOk (execRstGo m step s) := outOk_onDev h (ok_rstGo h.1)

theorem ok_execRstCoreGo {m core s} (h : StateOk s) : OutOk (execRstCoreGo m core s) := outOk_onDev h (ok_of (tables_coreGo ..) h.1)

theorem ok_execFieldCoreRelease {core s} (h : StateOk s) : OutOk (execFieldCoreRelease core s) := outOk_onDev h (ok_of (tables_fieldCoreRelease ..) h.1)

theorem ok_execRstFuseProg {m v s} (h : StateOk s) : OutOk (execRstFuseProg m v s) := outOk_onDev h (ok_fuseProg h.1)

theorem ok_execRstStopClr {m v s} (h : StateOk s) : OutOk (execRstStopClr m v s) := outOk_onDev h (ok_of (tables_stopClr ..) h.1)

theorem ok_execWatchdogKick {m core s} (h : StateOk s) : OutOk (execWatchdogKick m core s) := outOk_onDev h (ok_wdgKick h.1)

theorem ok_execWatchdogWarning {core s} (h : StateOk s) : OutOk (execWatchdogWarning core s) := outOk_onDev h (ok_wdgWarning h.1)

theorem ok_execWatchdogExpiry {core s} (h : StateOk s) : OutOk (execWatchdogExpiry core s) := outOk_onDev h (ok_wdgExpiry h.1)

theorem ok_execPwrMoncInc {m pl counter s} (h : StateOk s) : OutOk (execPwrMoncInc m pl counter s) := outOk_onDev h (ok_of (tables_moncWrite ..) h.1)

theorem ok_execPowerGood {s} (h : StateOk s) : OutOk (execPowerGood s) := outOk_onDev h (ok_powerGood h.1)

theorem ok_execBrownOut {rail ext s} (h : StateOk s) : OutOk (execBrownOut rail ext s) := outOk_onDev h (ok_brownOut h.1)

theorem ok_execKeepSupplyLost {s} (h : StateOk s) : OutOk (execKeepSupplyLost s) := outOk_onDev h (ok_keepSupplyLost h.1)

theorem ok_execSubmissionDoorbell {f ring off size v s} (h : StateOk s) : OutOk (execSubmissionDoorbell f ring off size v s) :=
  outOk_onDev h (ok_of (tables_doorbell ..) h.1)

theorem ok_execCompletionDoorbell {f ring off size v s} (h : StateOk s) : OutOk (execCompletionDoorbell f ring off size v s) :=
  outOk_onDev h (ok_of (tables_doorbell ..) h.1)

theorem ok_execDescriptorFetch {ring descs s} (h : StateOk s) : OutOk (execDescriptorFetch ring descs s) := outOk_onDev h (ok_of (tables_descFetch ..) h.1)

theorem ok_execDescriptorFetchFailure {ring cause s} (h : StateOk s) : OutOk (execDescriptorFetchFailure ring cause s) :=
  outOk_onDev h (ok_of (tables_fetchFail ..) h.1)

theorem ok_execStagingComplete {ring pos data s} (h : StateOk s) : OutOk (execStagingComplete ring pos data s) :=
  outOk_onDev h (ok_of (tables_stagingComplete ..) h.1)

theorem ok_execStagingReadFailure {ring pos sub s} (h : StateOk s) : OutOk (execStagingReadFailure ring pos sub s) :=
  outOk_onDev h (ok_of (tables_stageFail ..) h.1)

theorem ok_execRingEnable {m ring log2 s} (h : StateOk s) : OutOk (execRingEnable m ring log2 s) :=
  outOk_onDev h (ok_byPort (fun _ hd => ok_of (tables_ringEnable ..) hd) h.1)

theorem ok_execRingDrain {m ring s} (h : StateOk s) : OutOk (execRingDrain m ring s) :=
  outOk_onDev h (ok_byPort (fun _ hd => ok_of (tables_ringDrain ..) hd) h.1)

theorem ok_execRingDisable {ring s} (h : StateOk s) : OutOk (execRingDisable ring s) := outOk_onDev h (ok_of (tables_ringDisable ..) h.1)

theorem ok_execCompletionWrite {ring s} (h : StateOk s) : OutOk (execCompletionWrite ring s) := outOk_onDev h (ok_completionWrite h.1)

theorem ok_execModerationTimerExpiry {ring s} (h : StateOk s) : OutOk (execModerationTimerExpiry ring s) := outOk_onDev h (ok_of (tables_modTimer ..) h.1)

theorem ok_execHeldCompletion {s} (h : StateOk s) : OutOk (execHeldCompletion s) := outOk_onDev h (ok_heldCompletion h.1)

theorem ok_execFunctionLevelReset {f s} (h : StateOk s) : OutOk (execFunctionLevelReset f s) := outOk_onDev h (ok_of (tables_flr ..) h.1)

theorem ok_execD3hotEntry {f s} (h : StateOk s) : OutOk (execD3hotEntry f s) := outOk_onDev h (ok_of (tables_d3hotEntry ..) h.1)

theorem ok_execPcieLinkLoss {hot s} (h : StateOk s) : OutOk (execPcieLinkLoss hot s) := outOk_onDev h (ok_linkLoss h.1)

theorem ok_execPcieLinkUp {width speed s} (h : StateOk s) : OutOk (execPcieLinkUp width speed s) := outOk_onDev h (ok_of (tables_pcieLinkUp ..) h.1)

theorem ok_execPcieConfigurationWrite {w s} (h : StateOk s) : OutOk (execPcieConfigurationWrite w s) := outOk_onDev h (ok_of (tables_pcieConfig ..) h.1)

theorem ok_execMsixTableWrite {w s} (h : StateOk s) : OutOk (execMsixTableWrite w s) := outOk_onDev h (ok_of (tables_msixWrite ..) h.1)

theorem ok_execTagSessionStart {port fsdi s} (h : StateOk s) : OutOk (execTagSessionStart port fsdi s) := outOk_onDev h (ok_of (tables_tagStart ..) h.1)

theorem ok_execTagSessionEnd {how s} (h : StateOk s) : OutOk (execTagSessionEnd how s) := outOk_onDev h (ok_of (tables_tagLeave ..) h.1)

theorem ok_execTagSelect {aid s} (h : StateOk s) : OutOk (execTagSelect aid s) := outOk_onDev h (ok_of (tables_tagSelect ..) h.1)

theorem ok_execTagReadBlock {block s} (h : StateOk s) : OutOk (execTagReadBlock block s) := outOk_onDev h (ok_of (tables_tagReadBlock ..) h.1)

theorem ok_execTagReadBlockLock {block mac s} (h : StateOk s) : OutOk (execTagReadBlockLock block mac s) :=
  outOk_onDev h (ok_of (tables_tagReadLock ..) h.1)

theorem ok_execTagReadCounter {counter s} (h : StateOk s) : OutOk (execTagReadCounter counter s) := outOk_onDev h (ok_of (tables_tagReadCounter ..) h.1)

theorem ok_execGetChallenge {s} (h : StateOk s) : OutOk (execGetChallenge s) := outOk_onDev h (ok_of (tables_tagGetChallenge ..) h.1)

theorem ok_execTagWriteBlock {block data mac s} (h : StateOk s) : OutOk (execTagWriteBlock block data mac s) :=
  outOk_onDev h (ok_of (tables_tagWriteBlock ..) h.1)

theorem ok_execTagIncCounter {counter amount mac s} (h : StateOk s) : OutOk (execTagIncCounter counter amount mac s) :=
  outOk_onDev h (ok_of (tables_tagIncCounter ..) h.1)

theorem ok_execTagRelease {block s} (h : StateOk s) : OutOk (execTagRelease block s) := outOk_onDev h (ok_of (tables_tagRelease ..) h.1)

theorem ok_execTagMacVerdict {status s} (h : StateOk s) : OutOk (execTagMacVerdict status s) := outOk_onDev h (ok_of (tables_tagVerdict ..) h.1)

theorem ok_execChallengeReceive {challenge s} (h : StateOk s) : OutOk (execChallengeReceive challenge s) :=
  outOk_onDev h (ok_of (tables_challengeReceive ..) h.1)

theorem ok_execWiredReadBlock {m idx s} (h : StateOk s) : OutOk (execWiredReadBlock m idx s) := outOk_onDev h (ok_of (tables_wiredReadBlock ..) h.1)

theorem ok_execWiredWriteBlock {m idx s} (h : StateOk s) : OutOk (execWiredWriteBlock m idx s) := outOk_onDev h (ok_of (tables_wiredWriteBlock ..) h.1)

theorem ok_execWiredReadCounter {m idx s} (h : StateOk s) : OutOk (execWiredReadCounter m idx s) := outOk_onDev h (ok_of (tables_wiredReadCounter ..) h.1)

theorem ok_execWiredIncCounter {m idx amount s} (h : StateOk s) : OutOk (execWiredIncCounter m idx amount s) :=
  outOk_onDev h (ok_of (tables_wiredIncCounter ..) h.1)

theorem ok_execTagMemoryAccess {verify s} (h : StateOk s) : OutOk (execTagMemoryAccess verify s) := outOk_onDev h (ok_of (tables_tagAccess ..) h.1)

theorem ok_execTagFieldCollapse {how s} (h : StateOk s) : OutOk (execTagFieldCollapse how s) := outOk_onDev h (ok_of (tables_tagCollapse ..) h.1)

end Sys2Proof.Machine

/-! A step keeps the invariant (O60). -/

namespace Sys2Proof.Machine

/-- Every command keeps the invariant. -/
theorem ok_exec {c : Instr} {s : State} (h : StateOk s) : OutOk (exec c s) := by
  cases c
  case bypass ir => exact ok_execBypass (_ir := ir) h
  exacts [
    ok_execPassEdge h, ok_execFieldEdge h, ok_execLatchedLoRead h, ok_execFineTimerRead h, ok_execRegisterWrite h, ok_execChamberFieldWrite h,
    ok_execClaim h, ok_execLevel h, ok_execOpenNext h, ok_execOpenAt h, ok_execUnschedule h, ok_execDiscard h, ok_execLevelComplete h,
    ok_execChamberOpen h, ok_execApproval h, ok_execApprovalAccept h, ok_execApprovalExpiry h, ok_execKeySlotExpiry h, ok_execBoundOverrun h,
    ok_execResultRelease h, ok_execPartReqDrain h, ok_execPartReqFence h, ok_execPartReqReturn h, ok_execPartitionApply h, ok_execDrainComplete h,
    ok_execSubmissionDoorbell h, ok_execCompletionDoorbell h, ok_execDescriptorFetch h, ok_execDescriptorFetchFailure h, ok_execStagingComplete h,
    ok_execStagingReadFailure h, ok_execRingEnable h, ok_execRingDrain h, ok_execRingDisable h, ok_execCompletionWrite h,
    ok_execModerationTimerExpiry h, ok_execHeldCompletion h, ok_execFunctionLevelReset h, ok_execD3hotEntry h, ok_execPcieLinkLoss h,
    ok_execEncrypt h, ok_execDecrypt h, ok_execMacGenerate h, ok_execMacVerify h, ok_execHash h, ok_execHmac h, ok_execJob h, ok_execLookup h,
    ok_execStageDeltas h, ok_execCommitEpoch h, ok_execChamberClaim h, ok_execChamberWrite h, ok_execChamberCmd h, ok_execKeyImport h,
    ok_execKeyExport h, ok_execKeyErase h, ok_execPartition h, ok_execCancelRing h, ok_execRegRead h, ok_execHoldUnlock h, ok_execEnvSeal h,
    ok_execEnvOpen h, ok_execCipherOpComplete h, ok_execHashOpComplete h, ok_execLateResultDiscard h, ok_execKeyExhaustion h, ok_execFwqDoorbell h,
    ok_execKslImport h, ok_execKslExport h, ok_execKslErase h, ok_execDerive h, ok_execUnwrap3394 h, ok_execPlainFrameArrival h,
    ok_execSealedFrameArrival h, ok_execStageAdvance h, ok_execFrameTransmit h, ok_execUncontrolledTx h, ok_execUqRxHeadWrite h,
    ok_execLinkStateChange h, ok_execLoadSak h, ok_execClearKey h, ok_execPnWarn h, ok_execSaFreeze h, ok_execSaRetire h, ok_execLoadImage h,
    ok_execGrdFwqDoorbell h, ok_execGrdFwqCancel h, ok_execYieldPointSave h, ok_execSuspendedJobResume h, ok_execGrinderJobEnd h,
    ok_execRsaSelfcheckFailure h, ok_execHardwareDraw h, ok_execRepetitionCountFailure h, ok_execWindowComplete h, ok_execStartupTestComplete h,
    ok_execHopRetest h, ok_execGeneratorInstantiate h, ok_execGeneratorReseed h, ok_execReseedOverdue h, ok_execHopSwDrawRead h,
    ok_execRawModeEnable h, ok_execRawModeEntry h, ok_execHopRawDataRead h, ok_execRawModeExit h, ok_execLookupComplete h, ok_execCrgStage h,
    ok_execCrgCommit h, ok_execCrgDiscard h, ok_execDeltaPreparation h, ok_execEpochSwitch h, ok_execCommitTimeout h, ok_execKekActivation h,
    ok_execSweepStart h, ok_execPing h, ok_execBaselinePing h, ok_execLingerExpiry h, ok_execFlightReady h, ok_execRequest h, ok_execRelease h,
    ok_execWithdraw h, ok_execGrantCeiling h, ok_execTuningComplete h, ok_execSettleEnd h, ok_execVswrMismatch h, ok_execAptClear h,
    ok_execFieldSupplyFault h, ok_execEventQueueWrite h, ok_execFldEvqHeadWrite h, ok_execChnFqTailWrite h, ok_execActivateA h, ok_execActivateB h,
    ok_execExchange h, ok_execEmuArm h, ok_execEmuReceive h, ok_execEmuRespond h, ok_execEntryCompletion h, ok_execWtxRequestReceived h,
    ok_execReaderFrameReceived h, ok_execEmuWtxTimer h, ok_execEmuFieldLost h, ok_execTagSessionStart h, ok_execTagSessionEnd h, ok_execTagSelect h,
    ok_execTagReadBlock h, ok_execTagReadBlockLock h, ok_execTagReadCounter h, ok_execGetChallenge h, ok_execTagWriteBlock h, ok_execTagIncCounter h,
    ok_execTagRelease h, ok_execTagMacVerdict h, ok_execChallengeReceive h, ok_execWiredReadBlock h, ok_execWiredWriteBlock h,
    ok_execWiredReadCounter h, ok_execWiredIncCounter h, ok_execTagMemoryAccess h, ok_execTagFieldCollapse h, ok_execBargeSend h,
    ok_execBargeReceive h, ok_execBargeQueueWrite h, ok_execLkgTxqTailWrite h, ok_execLkgRxqHeadWrite h, ok_execPresenceReport h, ok_execChainGrant h,
    ok_execCredQuery h, ok_execCredAnswer h, ok_execCryptoRequest h, ok_execCryptoAnswer h, ok_execAuditRecord h, ok_execHealth h,
    ok_execConfigPush h, ok_execConfigAck h, ok_execFirmwareBlock h, ok_execDrawFill h, ok_execChallenge h, ok_execReplayInput h, ok_execReplayLog h,
    ok_execFieldMessage h, ok_execCoreStopBarge h, ok_execMbxSend h, ok_execMbxAck h, ok_execMailboxTimeout h, ok_execAdd h, ok_execSub h,
    ok_execAddc h, ok_execSubb h, ok_execAnd h, ok_execOr h, ok_execXor h, ok_execAndn h, ok_execSlt h, ok_execSltu h, ok_execCmp h, ok_execNeg h,
    ok_execMin h, ok_execMax h, ok_execAddi h, ok_execAndi h, ok_execOri h, ok_execXori h, ok_execSlti h, ok_execSltiu h, ok_execLih h, ok_execCmpi h,
    ok_execShl h, ok_execShr h, ok_execSar h, ok_execRol h, ok_execShli h, ok_execShri h, ok_execSari h, ok_execRoli h, ok_execExtu h, ok_execIns h,
    ok_execMul h, ok_execMulh h, ok_execMulhu h, ok_execMulp h, ok_execDiv h, ok_execDivu h, ok_execRem h, ok_execRemu h, ok_execLdw h, ok_execStw h,
    ok_execLdp h, ok_execStp h, ok_execLdh h, ok_execLdhs h, ok_execSth h, ok_execLdo h, ok_execLdos h, ok_execSto h, ok_execLdsp h, ok_execStsp h,
    ok_execAdjsp h, ok_execPush h, ok_execPop h, ok_execLpc h, ok_execLdx h, ok_execStx h, ok_execBeq h, ok_execBne h, ok_execBlt h, ok_execBge h,
    ok_execBltu h, ok_execBgeu h, ok_execBcc h, ok_execJmp h, ok_execCall h, ok_execJmpr h, ok_execCallr h, ok_execRet h, ok_execBmove h,
    ok_execBfill h, ok_execBcmp h, ok_execBcrc h, ok_execTrap h, ok_execEret h, ok_execFence h, ok_execMpusync h, ok_execWaitpass h, ok_execFeat h,
    ok_execMfsr h, ok_execMtsr h, ok_execInterruptEntry h, ok_execMpuRegionWrite h, ok_execTamperEvent h, ok_execCountDecay h,
    ok_execResponseWindowEnd h, ok_execKeepCellSample h, ok_execHoldUnlockVerified h, ok_execHoldRelease h, ok_execToFactory h, ok_execProvision h,
    ok_execToScrap h, ok_execIssueChallenge h, ok_execVerifyResponse h, ok_execFuseRowWrite h, ok_execChallengeExpiry h, ok_execKBoot h,
    ok_execExtest h, ok_execIdcode h, ok_execSamplePreload h, ok_execAuth h, ok_execDebug h, ok_execTowpathSessionOpen h, ok_execDbgDataAccess h,
    ok_execDbgCoreWrite h, ok_execFlashRead h, ok_execFlashProgram h, ok_execFlashErase h, ok_execFlashSuspend h, ok_execFlashResume h,
    ok_execReadCal h, ok_execFlashCommit h, ok_execFlashOpComplete h, ok_execFlsXipCtlWrite h, ok_execFlashControllerRelease h,
    ok_execCardInsertion h, ok_execCardIdentification h, ok_execCardRemoval h, ok_execRecordWrite h, ok_execSdBusyTimeout h, ok_execAppend h,
    ok_execSdRead h, ok_execSdOpen h, ok_execSdClose h, ok_execProtectPerm h, ok_execOfficerCardPresence h, ok_execActivate h, ok_execOfficerAuth h,
    ok_execApprove h, ok_execDeactivate h, ok_execOfficerSessionExpiry h, ok_execOfficerCardTimeout h, ok_execRecordClose h, ok_execRecordDelivery h,
    ok_execReplayedEdge h, ok_execPmuCounterOverflow h, ok_execBandwidthWindowClose h, ok_execPmuBwClear h, ok_execPmuClear h, ok_execSampleTag h,
    ok_execSampleRecord h, ok_execPmuSmpDataRead h, ok_execResetSourceAssert h, ok_execRstCmd h, ok_execResetReleaseStep h, ok_execRstGo h,
    ok_execRstCoreGo h, ok_execFieldCoreRelease h, ok_execRstFuseProg h, ok_execRstStopClr h, ok_execWatchdogKick h, ok_execWatchdogWarning h,
    ok_execWatchdogExpiry h, ok_execPwrMoncInc h, ok_execPowerGood h, ok_execBrownOut h, ok_execKeepSupplyLost h, ok_execFieldSupplyRecovery h,
    ok_execTamperConditionClear h, ok_execApprovalVerified h, ok_execEnvelopeOperationComplete h, ok_execKeyOperationComplete h,
    ok_execImageLoadComplete h, ok_execMailboxSendArrival h, ok_execPcieLinkUp h, ok_execPcieConfigurationWrite h, ok_execMsixTableWrite h,
    ok_execOfficerCardAnswer h, ok_execTapReset h]

theorem ok_step {s : State} (h : StateOk s) : OutOk (step s) := by
  unfold step
  split
  · intro t ht
    rw [← Host.Outcome.next.inj ht]
    exact h
  · exact ok_exec (s := { s with pending := _ }) h

/-- Settles O60: each function of the model keeps the tables (`tables_…`) or their invariant (`ok_…`), callees first, so every command does. -/
theorem stepsKeepInvariant : Obligations.StepsKeepInvariant := by
  unfold Obligations.StepsKeepInvariant
  intro s t hwf hfuses hstep
  obtain ⟨hdev, hlatch, hlatchF⟩ := hwf
  obtain ⟨hok, hl, hf⟩ := ok_step (s := s) ⟨(ok_iff s.dev).mpr ⟨hdev, hfuses⟩, hlatch, hlatchF⟩ t hstep
  obtain ⟨hmem, hlegal⟩ := (ok_iff t.dev).mp hok
  exact ⟨⟨hmem, hl, hf⟩, hlegal⟩

end Sys2Proof.Machine

/-! What a reset leaves (O56, O57): the key slots, HOLD, the tamper log and the reset controller, kicks apart. One equation for each function that a
reset calls, then each level's own. -/

namespace Sys2Proof.Machine

/-- What lasts through most of what a reset does: the key slots, HOLD, the tamper log, the keep epoch and loss, the life-cycle state and its code words, and the
reset controller but for the kicks noted. -/
structure Lasting where
  slots : Tab Slot
  hold : Bool
  log : List TmpEntry
  epoch : ℕ
  lost : Bool
  state : ℕ
  words : List ℕ
  rst : Rst

/-- The lasting part of a device. -/
def lasting (d : Dev) : Lasting := ⟨d.slots, d.keep.hold, d.tmp.log, d.tmp.epoch, d.tmp.lost, d.life.state, d.life.otp.lc, { d.rst with kicks := [] }⟩

/-- An update of the device that keeps the parts that last. -/
theorem lasting_with (d : Dev) {keep : Keep} {tmp : Tamper} {life : Life} (hk : keep.hold = d.keep.hold) (hl : tmp.log = d.tmp.log) (he : tmp.epoch = d.tmp.epoch)
    (ht : tmp.lost = d.tmp.lost) (hs : life.state = d.life.state) (hc : life.otp.lc = d.life.otp.lc) (regs priv pinned spent pas chm rings ops
      opSeq lanes cmds msix msgs host mem hop lkg ils grd pcieBme rdata crg bsn fld tag fmem cores mbx linkUp d3 numVfs pcie linkWidth linkSpeed
      fetchRing fetchCnt waitq fqPl fls sdh ofc rpl pmu bw meas free) :
    lasting { d with
      regs := regs, priv := priv, pinned := pinned, spent := spent, pas := pas, chm := chm, rings := rings, ops := ops, opSeq := opSeq,
      lanes := lanes, cmds := cmds, msix := msix, msgs := msgs, host := host, mem := mem, keep := keep, life := life, hop := hop, lkg := lkg,
      ils := ils, grd := grd, pcieBme := pcieBme, tmp := tmp, rdata := rdata, crg := crg, bsn := bsn, fld := fld, tag := tag, fmem := fmem,
      cores := cores, mbx := mbx, linkUp := linkUp, d3 := d3, numVfs := numVfs, pcie := pcie, linkWidth := linkWidth, linkSpeed := linkSpeed,
      fetchRing := fetchRing, fetchCnt := fetchCnt, waitq := waitq, fqPl := fqPl, fls := fls, sdh := sdh, ofc := ofc, rpl := rpl, pmu := pmu,
      bw := bw, meas := meas, free := free } = lasting d := by
  simp only [lasting, hk, hl, he, ht, hs, hc]

theorem lasting_ite (c : Prop) [Decidable c] (a b : Dev) : lasting (if c then a else b) = if c then lasting a else lasting b := apply_ite lasting c a b

theorem lasting_foldl {α : Type} {g : Dev → α → Dev} (h : ∀ d x, lasting (g d x) = lasting d) (l : List α) (d : Dev) :
    lasting (l.foldl g d) = lasting d := by
  induction l generalizing d with
  | nil => rfl
  | cons x l ih => rw [List.foldl_cons, ih, h]

theorem lasting_foldl_fst {α β : Type} {g : Dev × β → α → Dev × β} (h : ∀ x a, lasting (g x a).1 = lasting x.1) (l : List α) (x : Dev × β) :
    lasting (l.foldl g x).1 = lasting x.1 := by
  induction l generalizing x with
  | nil => rfl
  | cons a l ih => rw [List.foldl_cons, ih, h]

theorem lasting_noteReset (lvl src core fresh d) : lasting (noteReset lvl src core fresh d) = lasting d := (rfl)

theorem lasting_authSpent (d) : lasting (authSpent d) = lasting d := by
  unfold authSpent
  split <;> simp only [lasting_ite, ite_self, lasting_with]

theorem lasting_queueBarge (d queue b) : lasting (queueBarge d queue b) = lasting d := (rfl)

theorem lasting_pushDiscard (d) : lasting (pushDiscard d) = lasting d := by
  simp only [pushDiscard, lasting_ite, ite_self, lasting_queueBarge]

theorem lasting_moncInc (d i) : lasting (moncInc d i) = lasting d := (rfl)

theorem lasting_chmEmpty (d) : lasting (chmEmpty d) = lasting d := by
  simp only [chmEmpty, lasting_with, lasting_authSpent, lasting_pushDiscard, lasting_moncInc]

theorem lasting_mbxSet (d c x) : lasting (mbxSet d c x) = lasting d := (rfl)

theorem lasting_mbxGone (m d) : lasting (mbxGone m d) = lasting d := by
  simp only [mbxGone, lasting_foldl, implies_true, lasting_ite, ite_self, lasting_mbxSet]

theorem lasting_sectSet (d m s) : lasting (sectSet d m s) = lasting d := (rfl)

theorem lasting_rplItem (m kind words d) : lasting (rplItem m kind words d) = lasting d := by
  simp only [rplItem, lasting_ite, ite_self, lasting_sectSet]

theorem lasting_pmuReset (m d) : lasting (pmuReset m d) = lasting d := (rfl)

theorem lasting_hopCoreReset (m d) : lasting (hopCoreReset m d) = lasting d := (rfl)

theorem lasting_coreSet (d m c) : lasting (coreSet d m c) = lasting d := (rfl)

theorem lasting_rgSet (d a v) : lasting (rgSet d a v) = lasting d := (rfl)

theorem lc_rootBlow (secret code o) : (rootBlow secret code o).lc = o.lc := by
  unfold rootBlow
  split <;> rfl

theorem lasting_onLife (d) {f : Life → Life} (hs : (f d.life).state = d.life.state) (hc : (f d.life).otp.lc = d.life.otp.lc) :
    lasting (onLife d f) = lasting d := by
  simp only [lasting, onLife, hs, hc]

theorem lasting_rootTorn (d) : lasting (rootTorn d) = lasting d := lasting_onLife _ rfl (lc_rootBlow ..)

theorem lasting_onHop (d f) : lasting (onHop d f) = lasting d := (rfl)

theorem lasting_tmpEvent (s d) : lasting (tmpEvent s d) = lasting d := by
  simp only [tmpEvent, lasting_ite, ite_self, lasting_with, lasting_rgSet]

theorem lasting_hopFault (cause d) : lasting (hopFault cause d) = lasting d := by
  simp only [hopFault, lasting_ite, ite_self, lasting_tmpEvent, lasting_onHop]

theorem lasting_hopCheck (d) : lasting (hopCheck d) = lasting d := by
  simp only [hopCheck, lasting_ite, ite_self, lasting_hopFault]

theorem lasting_hopRestart (d) : lasting (hopRestart d) = lasting d := by
  simp only [hopRestart, lasting_hopCheck, lasting_onHop]

theorem lasting_rawEnd (d) : lasting (rawEnd d) = lasting d := by
  simp only [rawEnd, lasting_ite, ite_self, lasting_onHop, lasting_hopRestart]

theorem lasting_endTowpath (d) : lasting (endTowpath d) = lasting d := by
  simp only [endTowpath, lasting_ite, ite_self, lasting_rawEnd, lasting_onLife]

theorem lasting_lifeReset (d) : lasting (lifeReset d) = lasting d := by
  unfold lifeReset
  rw [lasting_onLife _ rfl rfl]
  simp only [lasting_ite, ite_self, lasting_rootTorn, lasting_endTowpath]

theorem lasting_sdhReset (keep d) : lasting (sdhReset keep d) = lasting d := (rfl)

theorem lasting_ofcReset (d) : lasting (ofcReset d) = lasting d := (rfl)

theorem lasting_crgDiscard (d) : lasting (crgDiscard d) = lasting d := (rfl)

theorem lasting_planeSet (d p x) : lasting (planeSet d p x) = lasting d := (rfl)

theorem lasting_setOp (d o) : lasting (setOp d o) = lasting d := (rfl)

theorem lasting_resumeErase (p d) : lasting (resumeErase p d) = lasting d := by
  simp only [resumeErase]
  split <;> simp only [lasting_planeSet, lasting_setOp]

theorem lasting_flsHostReset (d) : lasting (flsHostReset d) = lasting d := by
  simp only [flsHostReset, lasting_foldl, implies_true, lasting_ite, ite_self, lasting_with, lasting_resumeErase, lasting_planeSet]

theorem lasting_tornRecord (last d p) : lasting (tornRecord last d p) = lasting d := (rfl)

theorem lasting_drawOct (d n) : lasting (drawOct d n).2 = lasting d := (rfl)

theorem lasting_tornPage (d p t b g) : lasting (tornPage d p t b g).1 = lasting d := by
  simp only [tornPage]
  split <;> simp only [lasting_drawOct]

theorem lasting_tornBlock (d : Dev) (t : Tab FlashPage) (b : ℕ) : lasting (tornBlock d t b).1 = lasting d := by
  refine lasting_foldl_fst (fun s e => ?_) _ _
  exact lasting_drawOct ..

theorem lasting_drawWord (d) : lasting (drawWord d).2 = lasting d := (rfl)

theorem lasting_cutOp (p o d) : lasting (cutOp p o d) = lasting d := by
  simp only [cutOp, lasting_ite, ite_self, lasting_tornRecord, lasting_planeSet, lasting_tornPage, lasting_tornBlock]
  split <;> simp only [lasting_drawWord]

theorem lasting_flsCutPlane (d p) : lasting (flsCutPlane d p) = lasting d := by
  simp only [flsCutPlane, lasting_foldl, implies_true, lasting_cutOp, lasting_planeSet]

theorem lasting_flsCut (d) : lasting (flsCut d) = lasting d := by
  simp only [flsCut, lasting_foldl, implies_true, lasting_flsCutPlane]

theorem lasting_tagBlock (pcb inf d) : lasting (tagBlock pcb inf d) = lasting d := (rfl)

theorem lasting_tagBlocks (l : List Octets) (d : Dev) : lasting (tagBlocks l d) = lasting d := by
  fun_induction tagBlocks with
  | case1 => rfl
  | case2 => exact lasting_tagBlock ..
  | case3 o r d h ih => rw [ih, lasting_tagBlock]

theorem lasting_onTag (d f) : lasting (onTag d f) = lasting d := (rfl)

theorem lasting_rgAdd (d a k) : lasting (rgAdd d a k) = lasting d := (rfl)

theorem lasting_tagAnswer (d data sw) : lasting (tagAnswer d data sw) = lasting d := by
  simp only [tagAnswer, lasting_ite, ite_self, lasting_tagBlocks, lasting_onTag, lasting_rgAdd]

theorem lasting_tagWaitLost (d) : lasting (tagWaitLost d) = lasting d := by
  simp only [tagWaitLost, lasting_ite, ite_self, lasting_tagAnswer, lasting_onTag]

theorem lasting_txHead (m d) : lasting (txHead m d) = lasting d := by
  simp only [txHead, lasting_ite, ite_self, lasting_rgSet]

theorem lasting_lkgReset (d) : lasting (lkgReset d) = lasting d := by
  simp only [lkgReset, lasting_foldl, implies_true, lasting_with, lasting_tagWaitLost, lasting_rgAdd, lasting_txHead]

theorem lasting_challengeWipe (d) : lasting (challengeWipe d) = lasting d := (rfl)

theorem lasting_tagCopySet (d i c x) : lasting (tagCopySet d i c x) = lasting d := (rfl)

theorem lasting_tagCut (d i v how) : lasting (tagCut d i v how) = lasting d := by
  unfold tagCut
  split <;> simp only [lasting_ite, ite_self, lasting_drawOct, lasting_tagCopySet]

theorem lasting_accessCut (a how d) : lasting (accessCut a how d) = lasting d := by
  simp only [accessCut, lasting_ite, ite_self, lasting_tagCut]

theorem lasting_cmdSet (d blk master c) : lasting (cmdSet d blk master c) = lasting d := (rfl)

theorem lasting_tagFieldReset (d) : lasting (tagFieldReset d) = lasting d := by
  unfold tagFieldReset
  repeat' split
  all_goals simp only [lasting_foldl, implies_true, lasting_drawWord, lasting_accessCut, lasting_cmdSet, lasting_onTag]

theorem lasting_clearCounts (d) : lasting (clearCounts d) = lasting d := by
  simp only [clearCounts, lasting_foldl, implies_true, lasting_with, lasting_rgSet]

theorem lasting_coreReset (m d) : lasting (coreReset m d) = lasting d := by
  have hkicks : ∀ e, lasting (onRst e (fun r => { r with kicks := tabErase r.kicks m })) = lasting e := fun _ => rfl
  simp only [coreReset, hkicks, lasting_ite, ite_self, lasting_with, lasting_mbxGone, lasting_rplItem, lasting_chmEmpty, lasting_pmuReset,
    lasting_hopCoreReset, lasting_coreSet, lasting_rgSet]

theorem tables_coreReset (m d) : tables (coreReset m d) = tables d := by
  have hkicks : ∀ e, tables (onRst e (fun r => { r with kicks := tabErase r.kicks m })) = tables e := fun _ => rfl
  simp only [coreReset, hkicks, tables_ite, ite_self, tables_with, tables_mbxGone, tables_rplItem, tables_chmEmpty, tables_pmuReset,
    tables_hopCoreReset, tables_coreSet, tables_rgSet]

end Sys2Proof.Machine

/-! What each level of reset leaves, and how it is noted (O56). -/

namespace Sys2Proof.Machine

theorem ops_sdhReset (keep d) : (sdhReset keep d).ops = d.ops := rfl

theorem lasting_noted (d : Dev) (last pass : ℕ) : lasting { d with keep := { d.keep with rstLast := last, rstPass := pass } } = lasting d := (rfl)

theorem tables_hostReset (d) : tables (hostReset d) = { tables d with mem := d.mem.filter (fun e => isDram e.1) } := by
  have hlost : ∀ e regs priv pinned spent ops cmds ils slots fld pas (p : ℕ × Word → Bool),
      tables { e with
        regs := regs, priv := priv, pinned := pinned, spent := spent, chm := {}, rings := [], ops := ops, lanes := [], cmds := cmds, msix := [], hop := {},
        ils := ils, grd := {}, pcieBme := [], pcie := [], mbx := [], linkUp := false, linkWidth := 0, linkSpeed := 0, fetchRing := 1023, fetchCnt := 0,
        fqPl := [], d3 := [], numVfs := 0, rpl := {}, bw := {}, meas := [], slots := slots, mem := e.mem.filter p, fld := fld,
        pas := pas } = { tables e with mem := (tables e).mem.filter p } := by intros; rfl
  have hrst : ∀ e, tables (onRst e (fun r => { r with hostLvl := max 3 r.hostLvl, hostStep := 0, go := [] })) = tables e := fun _ => rfl
  simp only [hostReset, hrst, tables_clearCounts, tables_lkgReset, hlost, tables_lifeReset, tables_sdhReset, tables_ofcReset, tables_crgDiscard,
    tables_flsHostReset, tables_foldl, tables_coreReset, implies_true, tables_ite, tables_chmEmpty, ite_self]
  rfl

theorem tables_fieldReset (d) : tables (fieldReset d) = { tables d with fmem := [] } := by
  have hlost : ∀ e regs priv pinned s pas rpl,
      tables { e with regs := regs, priv := priv, pinned := pinned, fmem := [], fld := { supplyOk := s }, pas := pas, rpl := rpl } =
        { tables e with fmem := [] } := by intros; rfl
  have hrst : ∀ e, tables (onRst e (fun r => { r with fieldStep := 0, fieldLvl := max 2 r.fieldLvl })) = tables e := fun _ => rfl
  simp only [fieldReset, hrst, tables_with, tables_lkgReset, tables_challengeWipe, tables_tagFieldReset, hlost, tables_foldl, tables_coreReset, implies_true]

theorem tables_coldReset (d) : tables (coldReset d) = { tables d with mem := [], fmem := [] } := by
  have hzero : ∀ e pas regs priv,
      tables { e with mem := [], slots := [], crg := {}, bsn := {}, ops := [], pas := pas, regs := regs, priv := priv } =
        { tables e with mem := [] } := by intros; rfl
  have hrst : ∀ e, tables (onRst e (fun r => { r with hostLvl := max 4 r.hostLvl, fieldLvl := max 4 r.fieldLvl, fieldAlone := false })) = tables e :=
    fun _ => rfl
  simp only [coldReset, hrst, hzero, tables_foldl, tables_rgSet, implies_true, tables_fieldReset, tables_hostReset, tables_flsCut]

theorem tables_keepReset (d) : tables (keepReset d) = { tables d with mem := [], fmem := [] } := by
  have hrst : ∀ e, tables (onRst e (fun r => { r with hostLvl := 5, fieldLvl := 5 })) = tables e := fun _ => rfl
  simp only [keepReset, hrst, tables_with, tables_sdhReset, tables_coldReset]

theorem lasting_fieldReset (d) :
    lasting (fieldReset d) = { lasting d with rst := { (lasting d).rst with fieldStep := 0, fieldLvl := max 2 (lasting d).rst.fieldLvl } } := by
  have hrst : ∀ e, lasting (onRst e (fun r => { r with fieldStep := 0, fieldLvl := max 2 r.fieldLvl })) =
      { lasting e with rst := { (lasting e).rst with fieldStep := 0, fieldLvl := max 2 (lasting e).rst.fieldLvl } } := fun _ => rfl
  simp only [fieldReset, hrst, lasting_with, lasting_lkgReset, lasting_challengeWipe, lasting_tagFieldReset, lasting_foldl, lasting_coreReset, implies_true]

/-- The key slots that a HOST reset leaves: without what was reserved. -/
def slotsKept (t : Tab Slot) : Tab Slot :=
  t.filterMap (fun e => let s := { e.2 with resv := none }; if s = {} then none else some (e.1, s))

theorem lasting_hostReset (d) :
    lasting (hostReset d) = { lasting d with
      slots := slotsKept (lasting d).slots,
      rst := { (lasting d).rst with hostLvl := max 3 (lasting d).rst.hostLvl, hostStep := 0, go := [] } } := by
  have hlost : ∀ e regs priv pinned spent ops cmds ils mem fld pas,
      lasting { e with
        regs := regs, priv := priv, pinned := pinned, spent := spent, chm := {}, rings := [], ops := ops, lanes := [], cmds := cmds, msix := [], hop := {},
        ils := ils, grd := {}, pcieBme := [], pcie := [], mbx := [], linkUp := false, linkWidth := 0, linkSpeed := 0, fetchRing := 1023, fetchCnt := 0,
        fqPl := [], d3 := [], numVfs := 0, rpl := {}, bw := {}, meas := [], slots := slotsKept e.slots, mem := mem, fld := fld,
        pas := pas } = { lasting e with slots := slotsKept (lasting e).slots } := by intros; rfl
  have hrst : ∀ e, lasting (onRst e (fun r => { r with hostLvl := max 3 r.hostLvl, hostStep := 0, go := [] })) =
      { lasting e with rst := { (lasting e).rst with hostLvl := max 3 (lasting e).rst.hostLvl, hostStep := 0, go := [] } } := fun _ => rfl
  simp only [hostReset, ← slotsKept.eq_1, hrst, lasting_clearCounts, lasting_lkgReset, hlost, lasting_lifeReset, lasting_sdhReset, lasting_ofcReset,
    lasting_crgDiscard, lasting_flsHostReset, lasting_foldl, lasting_coreReset, implies_true, lasting_ite, lasting_chmEmpty, ite_self]

/-- What a COLD reset leaves of the reset controller. -/
def coldRst (r : Rst) : Rst :=
  { r with hostLvl := max 4 r.hostLvl, fieldLvl := max 4 r.fieldLvl, hostStep := 0, fieldStep := 0, go := [], fieldAlone := false }

theorem lasting_coldReset (d) : lasting (coldReset d) = { lasting d with slots := [], rst := coldRst (lasting d).rst } := by
  have hzero : ∀ e mem pas regs priv,
      lasting { e with mem := mem, slots := [], crg := {}, bsn := {}, ops := [], pas := pas, regs := regs, priv := priv } =
        { lasting e with slots := [] } := by intros; rfl
  have hrst : ∀ e, lasting (onRst e (fun r => { r with hostLvl := max 4 r.hostLvl, fieldLvl := max 4 r.fieldLvl, fieldAlone := false })) =
      { lasting e with rst := { (lasting e).rst with
          hostLvl := max 4 (lasting e).rst.hostLvl, fieldLvl := max 4 (lasting e).rst.fieldLvl, fieldAlone := false } } := fun _ => rfl
  have hh : ∀ n, max 4 (max 3 n) = max 4 n := fun n => by omega
  have hf : ∀ n, max 4 (max 2 n) = max 4 n := fun n => by omega
  simp only [coldReset, hrst, hzero, lasting_foldl, lasting_rgSet, implies_true, lasting_fieldReset, lasting_hostReset, lasting_flsCut, coldRst, hh, hf]

theorem lasting_keepReset (d) :
    lasting (keepReset d) = ⟨[], false, [], d.tmp.epoch, ({} : Tamper).lost, d.life.state, d.life.otp.lc, { coldRst (lasting d).rst with hostLvl := 5, fieldLvl := 5 }⟩ := by
  have hkeep : ∀ e regs, lasting { e with keep := {}, tmp := { epoch := e.tmp.epoch }, regs := regs } = { lasting e with hold := false, log := [], lost := ({} : Tamper).lost } := by
    intros
    rfl
  have hrst : ∀ e, lasting (onRst e (fun r => { r with hostLvl := 5, fieldLvl := 5 })) =
      { lasting e with rst := { (lasting e).rst with hostLvl := 5, fieldLvl := 5 } } := fun _ => rfl
  simp only [keepReset, hrst, hkeep, lasting_sdhReset, lasting_coldReset]
  rfl

end Sys2Proof.Machine

/-! Reset sources and commands (O56, R452, R453): what is carried out, and what is absorbed and noted. -/

namespace Sys2Proof.Machine

theorem cores_coreReset (m d) : (coreReset m d).cores = tabSet {} d.cores m {} := by
  have hgone : ∀ e, (mbxGone m e).cores = e.cores := fun e => by simp only [mbxGone, cores_foldl, cores_ite, mbxSet, ite_self, implies_true]
  have hitem : ∀ k ws e, (rplItem m k ws e).cores = e.cores := fun k ws e => by simp only [rplItem, sectSet, onRpl, cores_ite, ite_self]
  simp only [coreReset, onRst, rgSet, pmuReset, hopCoreReset, onHop, coreSet, cores_ite, cores_chmEmpty, hgone, hitem, ite_self]

theorem coreGet_coreReset_of_ne {m n : ℕ} (h : n ≠ m) (d) : coreGet (coreReset m d) n = coreGet d n := by
  simp only [coreGet, cores_coreReset, tabGet_tabSet, if_neg h]

theorem memRd_filter (t : Tab Word) (p : ℕ → Bool) (a : ℕ) : tabGet 0 (t.filter (fun e => p e.1)) a = if p a then tabGet 0 t a else 0 := by
  induction t with
  | nil => simp [tabGet]
  | cons e t ih =>
    obtain ⟨k, v⟩ := e
    by_cases hk : p k
    · simp only [List.filter_cons, hk, if_true, tabGet, ih]
      by_cases ha : a = k
      · simp [ha, hk]
      · simp [ha]
    · rw [List.filter_cons, if_neg hk, ih, tabGet]
      by_cases ha : a = k
      · rw [ha, if_neg hk, if_neg hk]
      · rw [if_neg ha]

theorem tabFind_filter_of_not (t : Tab Word) {p : ℕ → Bool} {a : ℕ} (h : p a = false) : tabFind (t.filter (fun e => p e.1)) a = none := by
  induction t with
  | nil => rfl
  | cons e t ih =>
    obtain ⟨k, v⟩ := e
    by_cases hk : p k
    · have ha : a ≠ k := fun ha => by rw [ha, hk] at h; cases h
      simp only [List.filter_cons, hk, if_true, tabFind, if_neg ha, ih]
    · simp only [List.filter_cons, hk]
      exact ih

/-- R452: what a reset of a level leaves, `m` the core it names. -/
def Levelled (d e : Dev) (lvl m : ℕ) : Prop :=
  (lvl = 1 → coreGet e m = {} ∧ (∀ n, n ≠ m → coreGet e n = coreGet d n) ∧ e.mem = d.mem ∧ e.fmem = d.fmem ∧ e.rst.hostStep = d.rst.hostStep ∧
    e.rst.fieldStep = d.rst.fieldStep) ∧
  (lvl = 2 → e.fmem = [] ∧ e.mem = d.mem ∧ e.lkg.fieldUp = false ∧ e.rst.fieldStep = 0 ∧ e.rst.fieldLvl = max 2 d.rst.fieldLvl ∧ e.rst.fieldAlone = true ∧
    e.rst.hostStep = d.rst.hostStep) ∧
  (lvl = 3 → (∀ a, memRd e a = if isDram a then memRd d a else 0) ∧ e.fmem = d.fmem ∧ e.rst.hostStep = 0 ∧ e.rst.hostLvl = max 3 d.rst.hostLvl ∧
    e.rst.fieldStep = d.rst.fieldStep ∧ e.pas.count = d.pas.count) ∧
  (4 ≤ lvl → e.mem = [] ∧ e.fmem = [] ∧ e.slots = [] ∧ e.ops = [] ∧ e.pas.count = 0 ∧ e.rst.hostStep = 0 ∧ e.rst.fieldStep = 0) ∧
  (lvl = 4 → e.rst.hostLvl = max 4 d.rst.hostLvl ∧ e.rst.fieldLvl = max 4 d.rst.fieldLvl ∧ e.tmp.log = d.tmp.log ∧ e.keep.hold = d.keep.hold) ∧
  (lvl = 5 → e.rst.hostLvl = 5 ∧ e.rst.fieldLvl = 5 ∧ e.tmp.log = [] ∧ e.keep.hold = false ∧ e.keep.monc = [] ∧ ∀ a, a >>> 16 = 0x06 → rg e a = regDefault a)

/-- R452: a reset that is carried out for a source. -/
def Carried (d e : Dev) (lvl src m : ℕ) : Prop := e.keep.rstLast = lvl + 2 ^ src * 8 + m * 2 ^ 20 ∧ e.keep.rstPass = d.pas.count ∧ Levelled d e lvl m

/-- R453: a reset that is absorbed adds its source to RST_LAST and changes nothing else. -/
def Noted (d e : Dev) (src : ℕ) : Prop :=
  e = { d with keep := e.keep } ∧ e.keep.rstLast % 8 = d.keep.rstLast % 8 ∧ (src < 17 → e.keep.rstLast.testBit (3 + src) = true) ∧
    e.keep = { d.keep with rstLast := e.keep.rstLast }

/-- The device with RST_LAST and its pass as a carried reset leaves them. -/
def resetNoted (last pass : ℕ) (d : Dev) : Dev := { d with keep := { d.keep with rstLast := last, rstPass := pass } }

theorem lasting_resetNoted (last pass d) : lasting (resetNoted last pass d) = lasting d := (rfl)

theorem carried_resetNoted {d e : Dev} {lvl m last : ℕ} (h : Levelled d e lvl m) {src : ℕ} (hlast : last = lvl + 2 ^ src * 8 + m * 2 ^ 20) :
    Carried d (resetNoted last d.pas.count e) lvl src m := ⟨hlast, rfl, h⟩

theorem noteReset_fresh (lvl src m pass : ℕ) (d : Dev) :
    { noteReset lvl (some src) (if m = 0 then none else some m) true d with
      keep := { (noteReset lvl (some src) (if m = 0 then none else some m) true d).keep with rstPass := pass } } =
      resetNoted (lvl + 2 ^ src * 8 + m * 2 ^ 20) pass d := by
  have hm : (if m = 0 then none else some m : Option ℕ).getD 0 = m := by
    by_cases h : m = 0
    · simp [h]
    · simp [h]
  simp only [noteReset, resetNoted, hm, if_true, Nat.zero_or]

theorem carryOut_core (src m d) : carryOut 1 (some src) m d = resetNoted (1 + 2 ^ src * 8 + m * 2 ^ 20) d.pas.count (coreReset m d) := noteReset_fresh ..

theorem carryOut_field (src m d) : carryOut 2 (some src) m d =
    resetNoted (2 + 2 ^ src * 8 + m * 2 ^ 20) d.pas.count (onRst (fieldReset d) (fun r => { r with fieldAlone := true })) := noteReset_fresh ..

theorem carryOut_host (src m d) : carryOut 3 (some src) m d = resetNoted (3 + 2 ^ src * 8 + m * 2 ^ 20) d.pas.count (hostReset d) := noteReset_fresh ..

theorem carryOut_cold (src m d) : carryOut 4 (some src) m d = resetNoted (4 + 2 ^ src * 8 + m * 2 ^ 20) d.pas.count (coldReset d) := noteReset_fresh ..

theorem carryOut_keep (src m d) : carryOut 5 (some src) m d = resetNoted (5 + 2 ^ src * 8 + m * 2 ^ 20) d.pas.count (keepReset d) := noteReset_fresh ..

/-! ### Each level -/

section
variable {d e : Dev}

theorem mem_of_tables {t : Tables} (h : tables e = t) : e.mem = t.mem ∧ e.fmem = t.fmem ∧ e.rst.fuses = t.fuses := by
  subst h
  exact ⟨rfl, rfl, rfl⟩

theorem of_lasting {l : Lasting} (h : lasting e = l) : e.slots = l.slots ∧ e.keep.hold = l.hold ∧ e.tmp.log = l.log ∧ { e.rst with kicks := [] } = l.rst := by
  subst h
  exact ⟨rfl, rfl, rfl, rfl⟩

theorem count_of_timing {t : Timing} (h : timing e = t) : e.pas.count = t.count := by
  subst h
  rfl

theorem rst_of_lasting {l : Lasting} (h : lasting e = l) :
    e.rst.hostLvl = l.rst.hostLvl ∧ e.rst.fieldLvl = l.rst.fieldLvl ∧ e.rst.hostStep = l.rst.hostStep ∧ e.rst.fieldStep = l.rst.fieldStep := by
  subst h
  exact ⟨rfl, rfl, rfl, rfl⟩

end

theorem levelled_core (m d) : Levelled d (coreReset m d) 1 m := by
  obtain ⟨hmem, hfmem, -⟩ := mem_of_tables (tables_coreReset m d)
  obtain ⟨-, -, hhost, hfield⟩ := rst_of_lasting (lasting_coreReset m d)
  have hself := coreGet_coreReset_self m d
  have hother : ∀ n, n ≠ m → coreGet (coreReset m d) n = coreGet d n := fun n hn => coreGet_coreReset_of_ne hn d
  generalize coreReset m d = e at *
  exact ⟨fun _ => ⟨hself, hother, hmem, hfmem, hhost, hfield⟩, by omega, by omega, by omega, by omega, by omega⟩

theorem levelled_field (m d) : Levelled d (onRst (fieldReset d) (fun r => { r with fieldAlone := true })) 2 m := by
  obtain ⟨hmem, hfmem, -⟩ := mem_of_tables (tables_fieldReset d)
  obtain ⟨-, hlvl, hhost, hfield⟩ := rst_of_lasting (lasting_fieldReset d)
  have hup : (fieldReset d).lkg.fieldUp = false := congrArg Timing.fieldUp (timing_fieldReset d)
  generalize fieldReset d = e at *
  exact ⟨by omega, fun _ => ⟨hfmem, hmem, hup, hfield, hlvl, rfl, hhost⟩, by omega, by omega, by omega, by omega⟩

theorem levelled_host (m d) : Levelled d (hostReset d) 3 m := by
  obtain ⟨hmem, hfmem, -⟩ := mem_of_tables (tables_hostReset d)
  obtain ⟨hlvl, -, hhost, hfield⟩ := rst_of_lasting (lasting_hostReset d)
  have hcount : (hostReset d).pas.count = d.pas.count := count_of_timing (timing_hostReset d)
  generalize hostReset d = e at *
  refine ⟨by omega, by omega, fun _ => ⟨fun a => ?_, hfmem, hhost, hlvl, hfield, hcount⟩, by omega, by omega, by omega⟩
  rw [memRd, hmem]
  exact memRd_filter d.mem isDram a

/-- What a reset of both islands leaves. -/
def Cleared (e : Dev) : Prop := e.mem = [] ∧ e.fmem = [] ∧ e.slots = [] ∧ e.ops = [] ∧ e.pas.count = 0 ∧ e.rst.hostStep = 0 ∧ e.rst.fieldStep = 0

theorem ops_coldReset (d) : (coldReset d).ops = [] := (rfl)

theorem ops_keepReset (d) : (keepReset d).ops = [] := (rfl)

theorem cleared_coldReset (d) : Cleared (coldReset d) := by
  obtain ⟨hmem, hfmem, -⟩ := mem_of_tables (tables_coldReset d)
  obtain ⟨-, -, hhost, hfield⟩ := rst_of_lasting (lasting_coldReset d)
  obtain ⟨hslots, -⟩ := of_lasting (lasting_coldReset d)
  exact ⟨hmem, hfmem, hslots, ops_coldReset d, count_of_timing (timing_coldReset d), hhost, hfield⟩

theorem levelled_cold (m d) : Levelled d (coldReset d) 4 m := by
  obtain ⟨hhost, hfield, -⟩ := rst_of_lasting (lasting_coldReset d)
  obtain ⟨-, hhold, hlog, -⟩ := of_lasting (lasting_coldReset d)
  have hclear := cleared_coldReset d
  generalize coldReset d = e at *
  exact ⟨by omega, by omega, by omega, fun _ => hclear, fun _ => ⟨hhost, hfield, hlog, hhold⟩, by omega⟩

theorem cleared_keepReset (d) : Cleared (keepReset d) := by
  obtain ⟨hmem, hfmem, -⟩ := mem_of_tables (tables_keepReset d)
  obtain ⟨-, -, hhost, hfield⟩ := rst_of_lasting (lasting_keepReset d)
  obtain ⟨hslots, -⟩ := of_lasting (lasting_keepReset d)
  exact ⟨hmem, hfmem, hslots, ops_keepReset d, count_of_timing (timing_keepReset d), hhost, hfield⟩

theorem keep_keepReset (d) : (keepReset d).keep = {} := (rfl)

theorem rg_keepReset {a : ℕ} (ha : a >>> 16 = 0x06) (d) : rg (keepReset d) a = regDefault a := by
  unfold keepReset
  generalize sdhReset true (coldReset d) = e
  have hregs : ∀ f, (onRst { e with keep := {}, tmp := { epoch := e.tmp.epoch }, regs := e.regs.filter (fun e => !decide (e.1 >>> 16 = 0x06)) } f).regs =
      e.regs.filter (fun e => !decide (e.1 >>> 16 = 0x06)) := fun _ => rfl
  rw [rg, hregs, tabFind_filter_of_not (p := fun k => !decide (k >>> 16 = 0x06)) _ (by simp [ha])]
  rfl

theorem levelled_keep (m d) : Levelled d (keepReset d) 5 m := by
  obtain ⟨hhost, hfield, -⟩ := rst_of_lasting (lasting_keepReset d)
  obtain ⟨-, hhold, hlog, -⟩ := of_lasting (lasting_keepReset d)
  have hmonc : (keepReset d).keep.monc = [] := by rw [keep_keepReset]
  have hclear := cleared_keepReset d
  have hrg : ∀ a, a >>> 16 = 0x06 → rg (keepReset d) a = regDefault a := fun a ha => rg_keepReset ha d
  generalize keepReset d = e at *
  exact ⟨by omega, by omega, by omega, fun _ => hclear, by omega, fun _ => ⟨hhost, hfield, hlog, hhold, hmonc, hrg⟩⟩

theorem carried_carryOut {lvl : ℕ} (h1 : 1 ≤ lvl) (h5 : lvl ≤ 5) (src m d) : Carried d (carryOut lvl (some src) m d) lvl src m := by
  rcases (by omega : lvl = 1 ∨ lvl = 2 ∨ lvl = 3 ∨ lvl = 4 ∨ lvl = 5) with rfl | rfl | rfl | rfl | rfl
  · rw [carryOut_core]
    exact carried_resetNoted (levelled_core m d) rfl
  · rw [carryOut_field]
    exact carried_resetNoted (levelled_field m d) rfl
  · rw [carryOut_host]
    exact carried_resetNoted (levelled_host m d) rfl
  · rw [carryOut_cold]
    exact carried_resetNoted (levelled_cold m d) rfl
  · rw [carryOut_keep]
    exact carried_resetNoted (levelled_keep m d) rfl

/-! ### What is absorbed -/

theorem noted_noteReset (lvl src : ℕ) (d) : Noted d (noteReset lvl (some src) none false d) src := by
  refine ⟨rfl, ?_, fun hsrc => ?_, rfl⟩
  · simp only [noteReset, Bool.false_eq_true, if_false]
    omega
  · have hlt : nfld d.keep.rstLast 19 3 ||| 2 ^ src < 2 ^ 17 := by
      refine Nat.or_lt_two_pow ?_ (Nat.pow_lt_pow_right (by omega) hsrc)
      simp only [nfld]
      omega
    have hbits : (noteReset lvl (some src) none false d).keep.rstLast / 2 ^ 3 =
        2 ^ 17 * nfld d.keep.rstLast 27 20 + (nfld d.keep.rstLast 19 3 ||| 2 ^ src) := by
      simp only [noteReset, Bool.false_eq_true, if_false]
      omega
    rw [Nat.add_comm 3 src, ← Nat.testBit_div_two_pow, hbits, Nat.testBit_two_pow_mul_add _ hlt, if_pos hsrc, Nat.testBit_or, Nat.testBit_two_pow_self,
      Bool.or_true]

theorem sourceAt_covered {lvl src m d} (h0 : lvl ≠ 0) (h : covered d (if lvl = 1 ∧ m = 1 then 3 else lvl) m = true) : Noted d (sourceAt lvl src m d) src := by
  have h0' : ¬ (if lvl = 1 ∧ m = 1 then 3 else lvl) = 0 := by
    split
    · omega
    · exact h0
  rw [sourceAt, if_neg h0', if_pos h]
  exact noted_noteReset ..

theorem sourceAt_carried {lvl src m d} (h0 : lvl ≠ 0) (h5 : lvl ≤ 5) (h : covered d (if lvl = 1 ∧ m = 1 then 3 else lvl) m = false) :
    Carried d (sourceAt lvl src m d) (if lvl = 1 ∧ m = 1 then 3 else lvl) src m := by
  have h0' : 1 ≤ (if lvl = 1 ∧ m = 1 then 3 else lvl) ∧ (if lvl = 1 ∧ m = 1 then 3 else lvl) ≤ 5 := by
    split <;> omega
  rw [sourceAt, if_neg (by omega), if_neg (by simp [h])]
  exact carried_carryOut h0'.1 h0'.2 ..

theorem covered_iff (d : Dev) (lvl m : ℕ) : covered d lvl m = true ↔
    if 3 ≤ lvl then lvl ≤ d.rst.hostLvl ∧ d.rst.hostStep < 2 else if lvl = 2 then d.rst.fieldLvl ≠ 0 ∧ d.rst.fieldStep < 8 else (coreGet d m).run = false := by
  unfold covered
  split
  · simp
  · split <;> simp

end Sys2Proof.Machine

/-! Releases (O56, R455, R456): the cores that start, the release steps, RST_GO, the fuse map and the stop record. -/

namespace Sys2Proof.Machine

/-! ### Cores that start -/

theorem rplItem_eq (m kind words d) : ∃ r, rplItem m kind words d = { d with rpl := r } := by
  unfold rplItem
  split
  · exact ⟨_, rfl⟩
  · exact ⟨d.rpl, rfl⟩

theorem coreStart_eq (m pc d) : ∃ r, coreStart m pc d = { d with cores := tabSet {} d.cores m { run := true, pc := pc }, rpl := r } :=
  rplItem_eq m 5 [3] (coreSet d m { run := true, pc := pc })

/-- Cores started: those of the list run from their start state at the address given, and nothing else changes but the logs of recorded cores. -/
def Started (l : List ℕ) (p : ℕ → ℕ) (d e : Dev) : Prop :=
  (∃ cs r, e = { d with cores := cs, rpl := r }) ∧ ∀ n, coreGet e n = if n ∈ l then { run := true, pc := p n } else coreGet d n

theorem started_coreStart (m pc : ℕ) (d : Dev) : Started [m] (fun _ => pc) d (coreStart m pc d) := by
  obtain ⟨r, hr⟩ := coreStart_eq m pc d
  rw [hr]
  exact ⟨⟨_, _, rfl⟩, fun n => by simp only [coreGet, tabGet_tabSet, List.mem_singleton]⟩

/-- The cores of a list started, at an address that neither the cores nor the logs decide. -/
theorem started_foldl (p : Dev → ℕ → ℕ) (hp : ∀ d cs r m, p { d with cores := cs, rpl := r } m = p d m) (l : List ℕ) (d : Dev) :
    Started l (p d) d (l.foldl (fun d m => coreStart m (p d m) d) d) := by
  induction l generalizing d with
  | nil => exact ⟨⟨d.cores, d.rpl, rfl⟩, fun n => by simp⟩
  | cons m l ih =>
    obtain ⟨⟨cs, r, hd⟩, hm⟩ := started_coreStart m (p d m) d
    obtain ⟨⟨cs', r', he⟩, hl⟩ := ih (coreStart m (p d m) d)
    refine ⟨⟨cs', r', ?_⟩, fun n => ?_⟩
    · rw [List.foldl_cons, he, hd]
    · rw [List.foldl_cons, hl, hm]
      simp only [List.mem_cons, List.not_mem_nil, or_false]
      have hpc : p (coreStart m (p d m) d) n = p d n := by rw [hd, hp]
      by_cases h : n ∈ l
      · rw [if_pos h, if_pos (.inr h), hpc]
      · rw [if_neg h]
        by_cases hn : n = m
        · subst hn
          rw [if_pos rfl, if_pos (.inl rfl)]
        · rw [if_neg hn, if_neg (by simp [h, hn])]

theorem segStart_eq (field d) : ∃ r, segStart field d = { d with rpl := r } := by
  unfold segStart
  split
  · exact ⟨d.rpl, rfl⟩
  · have hfold : ∀ (l : List ℕ) (e : Dev), ∃ r, l.foldl (fun d m => sectSet d m { core := m, flags := 1 }) e = { e with rpl := r } := by
      intro l
      induction l with
      | nil => exact fun e => ⟨e.rpl, rfl⟩
      | cons m l ih =>
        intro e
        obtain ⟨r, hr⟩ := ih (sectSet e m { core := m, flags := 1 })
        exact ⟨r, hr⟩
    obtain ⟨r, hr⟩ := hfold (recordedCores _ field) (onRpl d (fun r => if field then { r with fieldSeg := true } else { r with hostSeg := true }))
    exact ⟨r, hr⟩

theorem Started.segStart {l : List ℕ} {p : ℕ → ℕ} {d e : Dev} (h : Started l p d e) (field : Bool) : Started l p d (segStart field e) := by
  obtain ⟨r, hr⟩ := segStart_eq field e
  obtain ⟨⟨cs, r', he⟩, hcore⟩ := h
  rw [hr]
  exact ⟨⟨cs, r, by rw [he]⟩, hcore⟩

/-- A start leaves the memories, the registers, the reset controller and the field island alone. -/
theorem Started.frame {l : List ℕ} {p : ℕ → ℕ} {d e : Dev} (h : Started l p d e) :
    e.mem = d.mem ∧ e.fmem = d.fmem ∧ e.regs = d.regs ∧ e.rst = d.rst ∧ e.fld = d.fld := by
  obtain ⟨⟨cs, r, rfl⟩, -⟩ := h
  exact ⟨rfl, rfl, rfl, rfl, rfl⟩

theorem mem_hostCores {n : ℕ} : n ∈ hostCores ↔ isH n = true := by
  simp only [hostCores, List.mem_map, List.mem_range, isH, Bool.and_eq_true, decide_eq_true_eq]
  constructor
  · rintro ⟨k, hk, rfl⟩
    omega
  · exact fun h => ⟨n - 0x10, by omega, by omega⟩

theorem mem_fieldCores {n : ℕ} : n ∈ fieldCores ↔ isF n = true := by
  simp only [fieldCores, List.mem_cons, List.not_mem_nil, or_false, isF, Bool.and_eq_true, decide_eq_true_eq]
  omega

/-! ### The release steps -/

theorem kReady_iff (d : Dev) : kReady d = true ↔ d.life.booted = true ∧ d.life.bootStatus ≠ 1 := by simp [kReady]

section
variable {d : Dev}

theorem releaseStep_of_not {n : ℕ} (h : ¬ stepReady d n = true) : releaseStep n d = d := if_pos h

theorem stepReady_of_not_powered (h : powered d = false) (n : ℕ) : ¬ stepReady d n = true := by simp [stepReady, h]

theorem stepReady_one (hp : powered d = true) : stepReady d 1 = true ↔ 4 ≤ d.rst.hostLvl ∧ d.rst.hostStep = 0 := by simp [stepReady, hp]

theorem stepReady_two (hp : powered d = true) :
    stepReady d 2 = true ↔ d.rst.hostLvl ≠ 0 ∧ d.rst.hostStep = if 4 ≤ d.rst.hostLvl then 1 else 0 := by simp [stepReady, hp]

theorem stepReady_three (hp : powered d = true) : stepReady d 3 = true ↔ d.rst.hostStep = 2 := by simp [stepReady, hp]

/-- Steps 4 to 7 are gated. -/
theorem stepReady_gated {n : ℕ} (h4 : 4 ≤ n) (h7 : n ≤ 7) (hp : powered d = true) :
    stepReady d n = true ↔ (d.life.booted = true ∧ d.life.bootStatus ≠ 1) ∧ d.rst.hostStep = n - 1 ∧ n ∈ d.rst.go := by
  rw [← kReady_iff]
  simp only [stepReady, hp, Bool.true_and, if_neg (show n ≠ 1 by omega), if_neg (show n ≠ 2 by omega), if_neg (show n ≠ 3 by omega), if_pos h7,
    show ¬ n < 4 by omega, decide_false, Bool.false_or, h4, decide_true, Bool.and_eq_true, decide_eq_true_eq]

theorem stepReady_eight (hp : powered d = true) : stepReady d 8 = true ↔ (d.life.booted = true ∧ d.life.bootStatus ≠ 1) ∧ d.rst.fieldLvl ≠ 0 ∧
    d.rst.fieldStep = 0 ∧ d.fld.supplyOk = true ∧ (d.rst.fieldAlone = true ∨ 7 ≤ d.rst.hostStep ∧ 8 ∈ d.rst.go) := by
  rw [← kReady_iff]
  simp [stepReady, hp, and_assoc]

theorem stepReady_field {n : ℕ} (h9 : 9 ≤ n) (h10 : n ≤ 10) (hp : powered d = true) :
    stepReady d n = true ↔ (d.life.booted = true ∧ d.life.bootStatus ≠ 1) ∧ d.rst.fieldStep = n - 1 := by
  rw [← kReady_iff]
  simp only [stepReady, hp, Bool.true_and, if_neg (show n ≠ 1 by omega), if_neg (show n ≠ 2 by omega), if_neg (show n ≠ 3 by omega),
    if_neg (show ¬ n ≤ 7 by omega), if_neg (show n ≠ 8 by omega), show ¬ n < 4 by omega, decide_false, Bool.false_or, h10, decide_true,
    Bool.and_eq_true, decide_eq_true_eq]

theorem started_releaseStep_two (h : stepReady d 2 = true) : Started [1] (fun _ => 0) (onRst d (fun r => { r with hostStep := 2 })) (releaseStep 2 d) := by
  have he : releaseStep 2 d = coreStart 1 0 (onRst d (fun r => { r with hostStep := 2 })) := if_neg (not_not_intro h)
  rw [he]
  exact started_coreStart ..

theorem started_releaseStep_five (h : stepReady d 5 = true) :
    Started hostCores (hostEntry d) (onRst d (fun r => { r with hostStep := 5 })) (releaseStep 5 d) := by
  have he : releaseStep 5 d = segStart false (hostCores.foldl (fun d m => coreStart m (hostEntry d m) d) (onRst d (fun r => { r with hostStep := 5 }))) := by
    simp [releaseStep, h]
  rw [he]
  exact (started_foldl hostEntry (fun _ _ _ _ => rfl) hostCores _).segStart false

/-- A step that only counts, or ends the release of an island. -/
theorem releaseStep_rst {n : ℕ} (h : stepReady d n = true) (hn : n = 1 ∨ n = 3 ∨ n = 6 ∨ n = 7 ∨ n = 9 ∨ n = 10) :
    releaseStep n d = onRst d (fun r =>
      if n = 7 then { r with hostStep := 7, hostLvl := 0, respHost := false }
      else if n = 10 then { r with fieldStep := 10, fieldLvl := 0, fieldAlone := false, respField := false }
      else if n ≤ 7 then { r with hostStep := n } else { r with fieldStep := n }) := by
  rcases hn with rfl | rfl | rfl | rfl | rfl | rfl <;> exact if_neg (not_not_intro h)

theorem releaseStep_four (h : stepReady d 4 = true) : releaseStep 4 d = hopRelease (onRst d (fun r => { r with hostStep := 4 })) :=
  if_neg (not_not_intro h)

theorem releaseStep_eight (h : stepReady d 8 = true) :
    releaseStep 8 d = { onRst d (fun r => { r with fieldStep := 8 }) with lkg := { d.lkg with fieldUp := true } } := if_neg (not_not_intro h)

end

end Sys2Proof.Machine

/-! Resets and releases (O56). -/

namespace Sys2Proof.Machine

section
variable {s : State} {d : Dev}

/-- R452, R453: what a source asserted at a level for a core does, carried out or absorbed. -/
theorem asserts_sourceAt {i : Instr} {lvl lvl' src m : ℕ} (hexec : exec i s = .next { s with dev := sourceAt lvl src m s.dev }) (h0 : lvl ≠ 0)
    (hl : lvl' = if lvl = 1 ∧ m = 1 then 3 else lvl) :
    ((if 3 ≤ lvl' then lvl' ≤ s.dev.rst.hostLvl ∧ s.dev.rst.hostStep < 2 else if lvl' = 2 then s.dev.rst.fieldLvl ≠ 0 ∧ s.dev.rst.fieldStep < 8
        else (coreGet s.dev m).run = false) → ∃ t, exec i s = .next t ∧ t = { s with dev := { s.dev with keep := t.dev.keep } } ∧
        t.dev.keep.rstLast % 8 = s.dev.keep.rstLast % 8 ∧ (src < 17 → t.dev.keep.rstLast.testBit (3 + src) = true) ∧
        t.dev.keep = { s.dev.keep with rstLast := t.dev.keep.rstLast }) ∧
    (¬ (if 3 ≤ lvl' then lvl' ≤ s.dev.rst.hostLvl ∧ s.dev.rst.hostStep < 2 else if lvl' = 2 then s.dev.rst.fieldLvl ≠ 0 ∧ s.dev.rst.fieldStep < 8
        else (coreGet s.dev m).run = false) → lvl' ≤ 5 → ∃ t, exec i s = .next t ∧ Carried s.dev t.dev lvl' src m) := by
  subst hl
  rw [← covered_iff]
  refine ⟨fun hc => ?_, fun hc h5 => ?_⟩
  · obtain ⟨hdev, hlast, hbit, hkeep⟩ := sourceAt_covered h0 hc
    refine ⟨_, hexec, ?_, hlast, hbit, hkeep⟩
    exact congrArg (fun e => { s with dev := e }) hdev
  · have h5' : lvl ≤ 5 := by
      by_cases h : lvl = 1 ∧ m = 1
      · omega
      · rwa [if_neg h] at h5
    exact ⟨_, hexec, sourceAt_carried h0 h5' (by simpa using hc)⟩

/-- R452, Table 20.2: the sources that name a core, asserted by what may assert them. -/
def Named (src m : ℕ) : Prop := (src = 5 ∨ src = 8) ∧ isH m = true ∨ (src = 6 ∨ src = 9) ∧ m = 1 ∨ (src = 7 ∨ src = 10) ∧ isF m = true

/-- R452: what may assert a source. -/
def MayAssert (d : Dev) (src m : ℕ) : Prop :=
  Named src m ∨ src ≤ 4 ∨ 12 ≤ src ∧ src ≤ 15 ∨ src = 16 ∧ (d.life.state ≤ 1 ∨ d.life.sessOpen = true ∧ d.life.state ≠ 5)

theorem mayAssert_iff (d : Dev) (src m : ℕ) : MayAssert d src m ↔
    (if src = 5 ∨ src = 8 then isH m else if src = 6 ∨ src = 9 then decide (m = 1) else if src = 7 ∨ src = 10 then isF m
      else if src = 16 then portOpen d else decide (src ≤ 15 ∧ src ≠ 11)) = true := by
  unfold MayAssert Named
  by_cases h5 : src = 5 ∨ src = 8
  · rw [if_pos h5]
    rcases h5 with rfl | rfl <;> simp
  rw [if_neg h5]
  by_cases h6 : src = 6 ∨ src = 9
  · rw [if_pos h6]
    rcases h6 with rfl | rfl <;> simp
  rw [if_neg h6]
  by_cases h7 : src = 7 ∨ src = 10
  · rw [if_pos h7]
    rcases h7 with rfl | rfl <;> simp
  rw [if_neg h7]
  by_cases h16 : src = 16
  · subst h16
    simp [portOpen]
  · rw [if_neg h16]
    simp only [h5, h6, h7, h16, false_and, false_or, or_false, decide_eq_true_eq]
    omega

theorem sourceAssert_of_may {src m : ℕ} (h : MayAssert d src m) :
    sourceAssert src m d = sourceAt (srcLevel d src) src (if 5 ≤ src ∧ src ≤ 10 then m else 0) d := by
  have hc : (srcCore src = true) = (5 ≤ src ∧ src ≤ 10) := by
    simp only [srcCore, List.mem_cons, List.not_mem_nil, or_false, decide_eq_true_eq, eq_iff_iff]
    omega
  simp only [sourceAssert, (mayAssert_iff d src m).mp h, not_true_eq_false, if_false, hc]

theorem sourceAssert_of_not_may {src m : ℕ} (h : ¬ MayAssert d src m) : sourceAssert src m d = d := by
  rw [mayAssert_iff] at h
  exact if_pos h

theorem sourceLevel_eq {src m lvl : ℕ} {n : Prop} [Decidable n] (hn : n ↔ Named src m) (h : MayAssert d src m) :
    (if lvl = 1 ∧ n ∧ m = 1 then 3 else lvl) = if lvl = 1 ∧ (if 5 ≤ src ∧ src ≤ 10 then m else 0) = 1 then 3 else lvl := by
  unfold MayAssert at h
  by_cases hs : 5 ≤ src ∧ src ≤ 10
  · have : n := hn.mpr (h.resolve_right (by omega))
    simp [hs, this]
  · have : ¬ n := fun hn' => by
      have := hn.mp hn'
      unfold Named at this
      omega
    simp [hs, this]

/-- A command that leaves the device leaves the state. -/
theorem exec_same {i : Instr} {f : Dev → Dev} (hi : exec i s = onDev f s) (h : f s.dev = s.dev) : exec i s = .next s := exec_eq_next hi h

theorem rstCmd_of_may {m : ℕ} {v : Word} (h : m = 1 ∧ 1 ≤ fld v 2 0 ∧ fld v 2 0 ≤ 4 ∧ (fld v 2 0 = 1 → isCore (fld v 10 3) = true)) :
    rstCmd m v d = sourceAt (fld v 2 0) 11 (if fld v 2 0 = 1 then fld v 10 3 else 0) d := by
  obtain ⟨hm, h1, h4, hcore⟩ := h
  refine if_neg ?_
  rintro (hm' | h0 | h5 | ⟨hl, hc⟩)
  · exact hm' hm
  · omega
  · omega
  · exact hc (hcore hl)

theorem rstCmd_of_not_may {m : ℕ} {v : Word} (h : ¬ (m = 1 ∧ 1 ≤ fld v 2 0 ∧ fld v 2 0 ≤ 4 ∧ (fld v 2 0 = 1 → isCore (fld v 10 3) = true))) :
    rstCmd m v d = d := by
  refine if_pos ?_
  by_contra hc
  simp only [not_or, not_and, Decidable.not_not, ne_eq] at hc
  exact h ⟨hc.1, by omega, by omega, hc.2.2.2⟩

/-! ### RST_GO, the cores and the stop record -/

theorem rstGo_of_not {m step : ℕ} (h : m ≠ 1 ∨ ¬ kReady d = true) : rstGo m step d = d := if_pos h

theorem rstGo_of_not_gated {m step : ℕ} (h : step < 4 ∨ 8 < step ∧ step ≠ 11) : rstGo m step d = d := by
  unfold rstGo
  split
  · rfl
  · rw [if_neg (by omega), if_neg (by omega)]

theorem rstGo_gated {step : ℕ} (hk : kReady d = true) (h4 : 4 ≤ step) (h8 : step ≤ 8) :
    rstGo 1 step d = onRst d (fun r => { r with go := if step ∈ r.go then r.go else r.go ++ [step] }) := by
  rw [rstGo, if_neg (by simp [hk]), if_pos ⟨h4, h8⟩]

theorem started_rstGo (hk : kReady d = true) (hd : d.fld.imgDone = true) (hs : d.fld.started = false) (hu : d.lkg.fieldUp = true) :
    Started (fieldCores.filter (fun m => !benchHeld d m)) (fun _ => 0) { d with fld := { d.fld with started := true } } (rstGo 1 11 d) := by
  have he : rstGo 1 11 d = segStart true ((fieldCores.filter (fun m => !benchHeld d m)).foldl (fun d m => coreStart m 0 d)
      { d with fld := { d.fld with started := true } }) := by
    rw [rstGo, if_neg (by simp [hk]), if_neg (by omega), if_pos ⟨rfl, hd, by simp [hs], hu⟩]
  rw [he]
  exact (started_foldl (fun _ _ => 0) (fun _ _ _ _ => rfl) _ _).segStart true

theorem rstGo_not_start (h : d.fld.imgDone = false ∨ d.fld.started = true ∨ d.lkg.fieldUp = false) : rstGo 1 11 d = d := by
  unfold rstGo
  split
  · rfl
  · rw [if_neg (by omega), if_neg]
    rintro ⟨-, hd, hs, hu⟩
    simp [hd, hs, hu] at h

theorem rg_clearStop (l : List ℕ) (a : ℕ) (d : Dev) :
    rg (l.foldl (fun d i => rgSet d (Reg.RST_STOP + i) 0) d) a = if ∃ i ∈ l, a = Reg.RST_STOP + i then 0 else rg d a := by
  induction l generalizing d with
  | nil => simp
  | cons i l ih =>
    rw [List.foldl_cons, ih, rg_rgSet]
    by_cases h : ∃ j ∈ l, a = Reg.RST_STOP + j
    · obtain ⟨j, hj, ha⟩ := h
      rw [if_pos ⟨j, hj, ha⟩, if_pos ⟨j, List.mem_cons_of_mem i hj, ha⟩]
    · rw [if_neg h]
      refine ite_congr (propext ⟨fun ha => ⟨i, List.mem_cons_self, ha⟩, ?_⟩) (fun _ => rfl) (fun _ => rfl)
      rintro ⟨j, hj, ha⟩
      rcases List.mem_cons.mp hj with rfl | hj
      · exact ha
      · exact absurd ⟨j, hj, ha⟩ h

end

end Sys2Proof.Machine

/-! The clauses of O56, of a state and its device. -/

namespace Sys2Proof.Machine

section
variable {s : State}

/-- A release step carried out, which keeps memory and the registers. -/
theorem exec_releaseStep {n : ℕ} {e : Dev} (he : releaseStep n s.dev = e) (hm : e.mem = s.dev.mem) (hr : e.regs = s.dev.regs) {P : Dev → Prop} (hP : P e) :
    ∃ t, exec (.resetReleaseStep n) s = .next t ∧ t.dev.mem = s.dev.mem ∧ t.dev.regs = s.dev.regs ∧ P t.dev :=
  ⟨_, exec_eq_next rfl he, hm, hr, hP⟩

/-- A step that only counts, or ends the release of an island, as the reset controller has it. -/
theorem exec_releaseStep_rst {n : ℕ} (h : stepReady s.dev n = true) (hn : n = 1 ∨ n = 3 ∨ n = 6 ∨ n = 7 ∨ n = 9 ∨ n = 10) {r : Rst}
    (hr : r = if n = 7 then { s.dev.rst with hostStep := 7, hostLvl := 0, respHost := false }
      else if n = 10 then { s.dev.rst with fieldStep := 10, fieldLvl := 0, fieldAlone := false, respField := false }
      else if n ≤ 7 then { s.dev.rst with hostStep := n } else { s.dev.rst with fieldStep := n }) :
    ∃ t, exec (.resetReleaseStep n) s = .next t ∧ t.dev.mem = s.dev.mem ∧ t.dev.regs = s.dev.regs ∧ t.dev.rst = r :=
  exec_releaseStep (P := fun e => e.rst = r) (releaseStep_rst h hn) rfl rfl hr.symm

theorem exec_releaseStep_of_not {n : ℕ} (h : ¬ stepReady s.dev n = true) : exec (.resetReleaseStep n) s = .next s :=
  exec_same rfl (releaseStep_of_not h)

theorem exec_releaseStep_two (h : stepReady s.dev 2 = true) :
    ∃ t, exec (.resetReleaseStep 2) s = .next t ∧ t.dev.mem = s.dev.mem ∧ t.dev.regs = s.dev.regs ∧ t.dev.rst = { s.dev.rst with hostStep := 2 } ∧
      coreGet t.dev 1 = { run := true, pc := 0 } ∧ ∀ m, m ≠ 1 → coreGet t.dev m = coreGet s.dev m := by
  have hs := started_releaseStep_two h
  obtain ⟨hmem, -, hregs, hrst, -⟩ := hs.frame
  refine ⟨_, exec_eq_next rfl rfl, hmem, hregs, hrst, ?_, fun m hm => ?_⟩
  · exact (hs.2 1).trans (if_pos List.mem_cons_self)
  · exact (hs.2 m).trans (if_neg (by simpa using hm))

theorem exec_releaseStep_five (h : stepReady s.dev 5 = true) :
    ∃ t, exec (.resetReleaseStep 5) s = .next t ∧ t.dev.mem = s.dev.mem ∧ t.dev.regs = s.dev.regs ∧ t.dev.rst = { s.dev.rst with hostStep := 5 } ∧
      (∀ m, isH m = true → coreGet t.dev m = { run := true, pc := (rg s.dev (Reg.RST_HENTRY + (m - 0x10))).toNat }) ∧
      ∀ m, isH m = false → coreGet t.dev m = coreGet s.dev m := by
  have hs := started_releaseStep_five h
  obtain ⟨hmem, -, hregs, hrst, -⟩ := hs.frame
  refine ⟨_, exec_eq_next rfl rfl, hmem, hregs, hrst, fun m hm => ?_, fun m hm => ?_⟩
  · exact (hs.2 m).trans (if_pos (mem_hostCores.mpr hm))
  · exact (hs.2 m).trans (if_neg (fun hmem => by simp [mem_hostCores.mp hmem] at hm))

theorem exec_releaseStep_eight (h : stepReady s.dev 8 = true) :
    ∃ t, exec (.resetReleaseStep 8) s = .next t ∧ t.dev.mem = s.dev.mem ∧ t.dev.regs = s.dev.regs ∧ t.dev.rst = { s.dev.rst with fieldStep := 8 } ∧
      t.dev.lkg.fieldUp = true :=
  exec_releaseStep (P := fun e => e.rst = { s.dev.rst with fieldStep := 8 } ∧ e.lkg.fieldUp = true) (releaseStep_eight h) rfl rfl ⟨rfl, rfl⟩

theorem exec_releaseStep_four (h : stepReady s.dev 4 = true) :
    ∃ t, exec (.resetReleaseStep 4) s = .next t ∧ t.dev.mem = s.dev.mem ∧ t.dev.regs = s.dev.regs ∧ t.dev.rst = { s.dev.rst with hostStep := 4 } ∧
      t.dev.hop.state = 0 :=
  exec_releaseStep (P := fun e => e.rst = { s.dev.rst with hostStep := 4 } ∧ e.hop.state = 0) (releaseStep_four h) rfl rfl ⟨rfl, rfl⟩

/-- A release step taken exactly where its condition holds. -/
theorem releaseStep_iff {n : ℕ} {ok : Prop} {P : State → Prop} (hr : stepReady s.dev n = true ↔ ok) (h : stepReady s.dev n = true →
    ∃ t, exec (.resetReleaseStep n) s = .next t ∧ t.dev.mem = s.dev.mem ∧ t.dev.regs = s.dev.regs ∧ P t) :
    (ok → ∃ t, exec (.resetReleaseStep n) s = .next t ∧ t.dev.mem = s.dev.mem ∧ t.dev.regs = s.dev.regs ∧ P t) ∧
      (¬ ok → exec (.resetReleaseStep n) s = .next s) :=
  ⟨fun hok => h (hr.mpr hok), fun hok => exec_releaseStep_of_not (fun hs => hok (hr.mp hs))⟩

theorem exec_coreGo {m c : ℕ} (h : m = 1 ∧ kReady s.dev = true ∧ isH c = true ∧ 5 ≤ s.dev.rst.hostStep ∧ ¬ (coreGet s.dev c).run = true ∧
    (part s.dev 6 (c - 0x10)).state < 2 ∧ ¬ benchHeld s.dev c = true) : ∃ t, exec (.rstCoreGo m c) s = .next t ∧
      coreGet t.dev c = { run := true, pc := (rg s.dev (Reg.RST_HENTRY + (c - 0x10))).toNat } ∧ ∀ n, n ≠ c → coreGet t.dev n = coreGet s.dev n := by
  have hs := started_coreStart c (hostEntry s.dev c) s.dev
  refine ⟨_, exec_eq_next rfl (if_pos h), ?_, fun n hn => ?_⟩
  · exact (hs.2 c).trans (if_pos List.mem_cons_self)
  · exact (hs.2 n).trans (if_neg (by simpa using hn))

theorem exec_fieldCoreRelease {c : ℕ} (h : isF c = true ∧ s.dev.fld.started = true ∧ s.dev.lkg.fieldUp = true ∧ ¬ (coreGet s.dev c).run = true ∧
    ¬ benchHeld s.dev c = true) : ∃ t, exec (.fieldCoreRelease c) s = .next t ∧ coreGet t.dev c = { run := true, pc := 0 } ∧
      ∀ n, n ≠ c → coreGet t.dev n = coreGet s.dev n := by
  have hs := started_coreStart c 0 s.dev
  refine ⟨_, exec_eq_next rfl (if_pos h), ?_, fun n hn => ?_⟩
  · exact (hs.2 c).trans (if_pos List.mem_cons_self)
  · exact (hs.2 n).trans (if_neg (by simpa using hn))

theorem exec_rstGo_start (hk : kReady s.dev = true) (hd : s.dev.fld.imgDone = true) (hst : s.dev.fld.started = false) (hu : s.dev.lkg.fieldUp = true) :
    ∃ t, exec (.rstGo 1 11) s = .next t ∧ t.dev.fld = { s.dev.fld with started := true } ∧ t.dev.fmem = s.dev.fmem ∧
      ∀ m, isF m = true → coreGet t.dev m = if benchHeld s.dev m then coreGet s.dev m else { run := true, pc := 0 } := by
  have hs := started_rstGo hk hd hst hu
  obtain ⟨-, hfmem, -, -, hfld⟩ := hs.frame
  refine ⟨_, exec_eq_next rfl rfl, hfld, hfmem, fun m hm => (hs.2 m).trans ?_⟩
  by_cases hb : benchHeld s.dev m = true
  · rw [if_neg (by simp [hb]), if_pos hb]
    rfl
  · rw [if_pos (List.mem_filter.mpr ⟨mem_fieldCores.mpr hm, by simp [hb]⟩), if_neg hb]

theorem exec_rstGo_gated {step : ℕ} (hk : kReady s.dev = true) (h4 : 4 ≤ step) (h8 : step ≤ 8) :
    ∃ t, exec (.rstGo 1 step) s = .next t ∧ t = { s with dev := { s.dev with rst := { s.dev.rst with go := t.dev.rst.go } } } ∧
      ∀ n, n ∈ t.dev.rst.go ↔ n = step ∨ n ∈ s.dev.rst.go := by
  refine ⟨_, exec_eq_next rfl (rstGo_gated hk h4 h8), rfl, fun n => ?_⟩
  show n ∈ (if step ∈ s.dev.rst.go then s.dev.rst.go else s.dev.rst.go ++ [step]) ↔ _
  split
  · next h => exact ⟨.inr, fun hn => hn.elim (fun e => e ▸ h) id⟩
  · rw [List.mem_append, List.mem_singleton, or_comm]

/-- R452: a value that an entry of the reset map or a gap may take. -/
def FuseValue (e x : ℕ) : Prop := if e ≤ 16 then e ≠ 11 ∧ x ∈ srcPermitted e else e ≤ 26 ∧ (if e = 21 then 50000 else 1000) ≤ x ∧ x ≤ 1048575

theorem fuseValue_iff (e x : ℕ) : FuseValue e x ↔ (if e ≤ 16 then decide (e ≠ 11) && decide (x ∈ srcPermitted e)
    else decide (e ≤ 26) && decide (1000 ≤ x) && decide (x ≤ 1048575) && (!decide (e = 21) || decide (50000 ≤ x))) = true := by
  unfold FuseValue
  split
  · simp
  · simp only [Bool.and_eq_true, Bool.or_eq_true, Bool.not_eq_true', decide_eq_true_eq, decide_eq_false_iff_not]
    split <;> omega

theorem fuse_none_iff (d : Dev) (e : ℕ) : (fuse d e).isNone = true ↔ tabFind d.rst.fuses e = none := by simp [fuse]

theorem exec_fuseProg {m : ℕ} {v : Word} (h : (m = 1 ∨ m = 2) ∧ s.dev.life.state ≤ 1 ∧ tabFind s.dev.rst.fuses (fld v 4 0) = none ∧
    FuseValue (fld v 4 0) (fld v 24 5)) : ∃ t, exec (.rstFuseProg m v) s = .next t ∧
      t = { s with dev := { s.dev with rst := { s.dev.rst with fuses := t.dev.rst.fuses } } } ∧ fuse t.dev (fld v 4 0) = some (fld v 24 5) ∧
      ∀ k, k ≠ fld v 4 0 → fuse t.dev k = fuse s.dev k := by
  obtain ⟨hm, hl, hf, hv⟩ := h
  refine ⟨_, exec_eq_next rfl (if_pos ⟨hm, hl, (fuse_none_iff ..).mpr hf, (fuseValue_iff ..).mp hv⟩), rfl, ?_, fun k hk => ?_⟩
  · show (tabFind (tabPut _ _ _) _).map _ = _
    rw [tabFind_tabPut, if_pos rfl]
    rfl
  · show (tabFind (tabPut _ _ _) _).map _ = _
    rw [tabFind_tabPut, if_neg hk]
    rfl

theorem exec_fuseProg_of_not {m : ℕ} {v : Word} (h : ¬ ((m = 1 ∨ m = 2) ∧ s.dev.life.state ≤ 1 ∧ tabFind s.dev.rst.fuses (fld v 4 0) = none ∧
    FuseValue (fld v 4 0) (fld v 24 5))) : exec (.rstFuseProg m v) s = .next s := by
  refine exec_same rfl (if_neg ?_)
  rintro ⟨hm, hl, hf, hv⟩
  exact h ⟨hm, hl, (fuse_none_iff ..).mp hf, (fuseValue_iff ..).mpr hv⟩

theorem exec_stopClr {m : ℕ} {v : Word} (hm : m = 1) (hv : bit v 0 = true) : ∃ t, exec (.rstStopClr m v) s = .next t ∧
    (∀ i, i < 16 → rg t.dev (Reg.RST_STOP + i) = 0) ∧ ∀ a, a < Reg.RST_STOP ∨ Reg.RST_STOP + 16 ≤ a → rg t.dev a = rg s.dev a := by
  refine ⟨_, exec_eq_next rfl (if_pos ⟨hm, hv⟩), fun i hi => ?_, fun a ha => ?_⟩
  · exact (rg_clearStop ..).trans (if_pos ⟨i, List.mem_range.mpr hi, rfl⟩)
  · refine (rg_clearStop ..).trans (if_neg ?_)
    rintro ⟨i, hi, rfl⟩
    have := List.mem_range.mp hi
    omega

end

theorem sourceAt_zero (src m : ℕ) (d : Dev) : sourceAt 0 src m d = d := by simp [sourceAt]

/-- Settles O56: each level's reset by what it keeps (`tables_…`, `lasting_…`, `timing_…`), the releases by what a started core changes. -/
theorem resetsAndRelease : Obligations.ResetsAndRelease := by
  unfold Obligations.ResetsAndRelease
  intro s d r ready carried noted asserts
  have hready : ready ↔ kReady d = true := (kReady_iff d).symm
  refine ⟨fun src m => ?_, fun m v => ?_, fun n hp => ?_, fun n hp => exec_releaseStep_of_not (stepReady_of_not_powered hp n), fun m step h => ?_,
    fun m step h => exec_same rfl (rstGo_of_not (.inr (fun hk => h (hready.mpr hk)))), fun step hk h4 h8 => exec_rstGo_gated (hready.mp hk) h4 h8,
    fun hk => exec_rstGo_start (hready.mp hk), fun h => exec_same rfl (rstGo_not_start h), fun m c => ?_, fun c => ?_, fun m v => ?_, fun m v => ?_⟩
  · intro named may lvl
    have hmay : may ↔ MayAssert d src m := Iff.rfl
    refine ⟨fun h h0 => ?_, fun h h0 => ?_, fun h => exec_same rfl (sourceAssert_of_not_may h)⟩
    · have hl : lvl = if srcLevel d src = 1 ∧ (if 5 ≤ src ∧ src ≤ 10 then m else 0) = 1 then 3 else srcLevel d src := sourceLevel_eq Iff.rfl h
      refine asserts_sourceAt (exec_eq_next rfl (sourceAssert_of_may h)) (fun hz => h0 ?_) hl
      have hz' : srcLevel d src = 0 := hz
      simp [lvl, hz']
    · refine exec_same rfl ((sourceAssert_of_may h).trans ?_)
      have hz : srcLevel d src = 0 := by
        by_cases h1 : srcLevel d src = 1 ∧ named ∧ m = 1
        · simp [lvl, h1] at h0
        · simpa [lvl, h1] using h0
      rw [hz]
      exact sourceAt_zero ..
  · intro lvl c may
    refine ⟨fun h => ?_, fun h => exec_same rfl (rstCmd_of_not_may h)⟩
    refine asserts_sourceAt (exec_eq_next rfl (rstCmd_of_may h)) (Nat.one_le_iff_ne_zero.mp h.2.1) ?_
    show (if lvl = 1 ∧ c = 1 then 3 else lvl) = if lvl = 1 ∧ (if lvl = 1 then c else 0) = 1 then 3 else lvl
    exact if_congr (and_congr_right (fun h1 => by rw [if_pos h1])) rfl rfl
  · refine ⟨?_, ?_, ?_, ?_, ?_, ?_, ?_, ?_, ?_, ?_⟩ <;> rintro rfl
    · exact releaseStep_iff (stepReady_one hp) (fun h => exec_releaseStep_rst h (by simp) rfl)
    · exact releaseStep_iff (stepReady_two hp) exec_releaseStep_two
    · exact releaseStep_iff (stepReady_three hp) (fun h => exec_releaseStep_rst h (by simp) rfl)
    · exact releaseStep_iff (stepReady_gated (by simp) (by simp) hp) exec_releaseStep_four
    · exact releaseStep_iff (stepReady_gated (by simp) (by simp) hp) exec_releaseStep_five
    · exact releaseStep_iff (stepReady_gated (by simp) (by simp) hp) (fun h => exec_releaseStep_rst h (by simp) rfl)
    · exact releaseStep_iff (stepReady_gated (by simp) (by simp) hp) (fun h => exec_releaseStep_rst h (by simp) rfl)
    · exact releaseStep_iff (stepReady_eight hp) exec_releaseStep_eight
    · exact releaseStep_iff (stepReady_field (by simp) (by simp) hp) (fun h => exec_releaseStep_rst h (by simp) rfl)
    · exact releaseStep_iff (stepReady_field (by simp) (by simp) hp) (fun h => exec_releaseStep_rst h (by simp) rfl)
  · rcases h with h | h
    · exact exec_same rfl (rstGo_of_not (.inl h))
    · exact exec_same rfl (rstGo_of_not_gated h)
  · refine ⟨fun ⟨hm, hk, hc, h5, hrun, hpart, hb⟩ => ?_, fun h => ?_⟩
    · exact exec_coreGo ⟨hm, hready.mp hk, hc, h5, ne_true_of_eq_false hrun, hpart, ne_true_of_eq_false hb⟩
    · refine exec_same rfl (if_neg ?_)
      rintro ⟨hm, hk, hc, h5, hrun, hpart, hb⟩
      exact h ⟨hm, hready.mpr hk, hc, h5, eq_false_of_ne_true hrun, hpart, eq_false_of_ne_true hb⟩
  · refine ⟨fun ⟨hc, hs, hu, hrun, hb⟩ => exec_fieldCoreRelease ⟨hc, hs, hu, ne_true_of_eq_false hrun, ne_true_of_eq_false hb⟩, fun h => ?_⟩
    refine exec_same rfl (if_neg ?_)
    rintro ⟨hc, hs, hu, hrun, hb⟩
    exact h ⟨hc, hs, hu, eq_false_of_ne_true hrun, eq_false_of_ne_true hb⟩
  · exact ⟨exec_fuseProg, exec_fuseProg_of_not⟩
  · refine ⟨exec_stopClr, fun h => exec_same rfl (if_neg ?_)⟩
    rintro ⟨hm, hv⟩
    exact h.elim (fun h => h hm) (fun h => by simp [h] at hv)

end Sys2Proof.Machine

/-! Watchdogs, monotonic counters and supplies (O57, R454, R458, R459, R461, R462). -/

namespace Sys2Proof.Machine

/-! ### Watchdogs -/

section
variable {s : State} {c : ℕ}

theorem exec_watchdogKick {m : ℕ} (hc : isCore c = true) (hm : m = c ∨ m = 1 ∧ isF c = false) :
    exec (.watchdogKick m c) s = .next { s with dev := { s.dev with rst := { s.dev.rst with kicks := tabSet false s.dev.rst.kicks c true } } } :=
  exec_eq_next rfl (if_pos ⟨hc, hm.imp_right (fun h => ⟨h.1, ne_true_of_eq_false h.2⟩)⟩)

theorem exec_watchdogKick_of_not {m : ℕ} (h : ¬ (isCore c = true ∧ (m = c ∨ m = 1 ∧ isF c = false))) : exec (.watchdogKick m c) s = .next s :=
  exec_same rfl (if_neg (fun ⟨hc, hm⟩ => h ⟨hc, hm.imp_right (fun h => ⟨h.1, eq_false_of_ne_true h.2⟩)⟩))

/-- A watchdog that may warn or expire: enabled, its core out of CORE reset. -/
def WatchdogRuns (d : Dev) (c : ℕ) : Prop := isCore c = true ∧ bit (rg d (wdgReg c 0)) 0 = true ∧ (coreGet d c).run = true

theorem pendSet_eq (m vec : ℕ) (d : Dev) :
    pendSet m vec d = { d with cores := tabSet {} d.cores m { coreGet d m with pend := tabSet false (coreGet d m).pend vec true } } := rfl

theorem exec_watchdogWarning (hon : WatchdogRuns s.dev c) (hw : wdgWarn s.dev c ≠ 0) (hr : wdgRemain s.dev c = wdgWarn s.dev c)
    (hn : tabGet false s.dev.rst.warned c = false) : ∃ t, exec (.watchdogWarning c) s = .next t ∧
      t = { s with dev := { s.dev with cores := t.dev.cores, rst := { s.dev.rst with warned := tabSet false s.dev.rst.warned c true } } } ∧
      coreGet t.dev c = { coreGet s.dev c with pend := tabSet false (coreGet s.dev c).pend 18 true } ∧ ∀ n, n ≠ c → coreGet t.dev n = coreGet s.dev n := by
  obtain ⟨hc, hb, hrun⟩ := hon
  refine ⟨_, exec_eq_next rfl (if_pos ⟨hc, hb, hw, hr, hrun, ne_true_of_eq_false hn⟩), rfl, ?_, fun n hn => ?_⟩
  · simp only [pendSet_eq, coreGet, tabGet_tabSet, if_true]
    rfl
  · simp only [pendSet_eq, coreGet, tabGet_tabSet, if_neg hn]
    rfl

theorem exec_watchdogWarning_of_not (h : ¬ WatchdogRuns s.dev c ∨ wdgWarn s.dev c = 0 ∨ wdgRemain s.dev c ≠ wdgWarn s.dev c ∨
    tabGet false s.dev.rst.warned c = true) : exec (.watchdogWarning c) s = .next s := by
  refine exec_same rfl (if_neg ?_)
  rintro ⟨hc, hb, hw, hr, hrun, hn⟩
  exact h.elim (fun h => h ⟨hc, hb, hrun⟩) (fun h => h.elim hw (fun h => h.elim (fun h => h hr) hn))

theorem exec_watchdogExpiry (hon : WatchdogRuns s.dev c) (hr : wdgRemain s.dev c = 0) :
    ∃ t, exec (.watchdogExpiry c) s = .next t ∧ exec (.resetSourceAssert (if c = 1 then 6 else if isH c then 5 else 7) c) s = .next t := by
  obtain ⟨hc, hb, hrun⟩ := hon
  exact ⟨_, exec_eq_next rfl (if_pos ⟨hc, hb, hr, hrun⟩), rfl⟩

theorem exec_watchdogExpiry_of_not (h : ¬ WatchdogRuns s.dev c ∨ wdgRemain s.dev c ≠ 0) : exec (.watchdogExpiry c) s = .next s := by
  refine exec_same rfl (if_neg ?_)
  rintro ⟨hc, hb, hr, hrun⟩
  exact h.elim (fun h => h ⟨hc, hb, hrun⟩) (fun h => h hr)

end

/-! ### Monotonic counters -/

section
variable {s : State} {m pl i : ℕ}

theorem exec_moncInc (h : (m = 1 ∨ isH m = true ∧ pl = 0) ∧ 7 ≤ i ∧ i ≤ 15) : ∃ t, exec (.pwrMoncInc m pl i) s = .next t ∧
    t = { s with dev := { s.dev with keep := { s.dev.keep with monc := t.dev.keep.monc } } } ∧
    tabGet 0 t.dev.keep.monc i = min (2 ^ 48 - 1) (tabGet 0 s.dev.keep.monc i + 1) ∧
    ∀ n, n ≠ i → tabGet 0 t.dev.keep.monc n = tabGet 0 s.dev.keep.monc n :=
  ⟨_, exec_eq_next rfl (if_pos h), rfl, (tabGet_tabSet ..).trans (if_pos rfl), fun _ hn => (tabGet_tabSet ..).trans (if_neg hn)⟩

theorem exec_moncInc_of_not (h : ¬ ((m = 1 ∨ isH m = true ∧ pl = 0) ∧ 7 ≤ i ∧ i ≤ 15)) : exec (.pwrMoncInc m pl i) s = .next s :=
  exec_same rfl (if_neg h)

end

/-! ### The sources that the supplies assert -/

section
variable {d : Dev}

/-- The supplies as the reset controller has them. -/
def rails (r : Rst) : List Bool × ℕ := ([r.vin, r.vcore, r.vdram, r.vio, r.keepLost], r.keepSrc)

/-- The level at which a supply's source asserts. -/
def supplyLevel (src : ℕ) : ℕ := if src = 1 then 5 else 4

theorem srcLevel_supply {src : ℕ} (h : src ≤ 3) (hl : fusesLegal d = true) : srcLevel d src = supplyLevel src := by
  have hperm : srcPermitted src = [supplyLevel src] ∧ srcDefault src = supplyLevel src := by
    rcases (by omega : src = 0 ∨ src = 1 ∨ src = 2 ∨ src = 3) with rfl | rfl | rfl | rfl <;> decide
  cases hf : tabFind d.rst.fuses src with
  | none => simp [srcLevel, fuse, hf, hperm.2]
  | some x =>
    have hx := List.all_eq_true.1 hl (src, x) (mem_of_tabFind hf)
    simp only [Bool.or_eq_true, decide_eq_true_eq] at hx
    have hx' : x - 1 ∈ srcPermitted src := (hx.resolve_left (by omega)).2
    rw [hperm.1, List.mem_singleton] at hx'
    simpa [srcLevel, fuse, hf] using hx'

theorem sourceAssert_supply {src : ℕ} (h : src ≤ 3) (hl : fusesLegal d = true) : sourceAssert src 0 d = sourceAt (supplyLevel src) src 0 d := by
  have hmay : MayAssert d src 0 := .inr (.inl (by omega))
  rw [sourceAssert_of_may hmay, srcLevel_supply h hl, if_neg (by omega)]

/-- Is a reset that a supply asks for covered by one in progress? -/
def SupplyCovered (d : Dev) (src : ℕ) : Prop := supplyLevel src ≤ d.rst.hostLvl ∧ d.rst.hostStep < 2

theorem supplyLevel_le (src : ℕ) : 4 ≤ supplyLevel src ∧ supplyLevel src ≤ 5 := by
  unfold supplyLevel
  split <;> omega

theorem covered_high {lvl m : ℕ} (h4 : 4 ≤ lvl) : covered d lvl m = true ↔ lvl ≤ d.rst.hostLvl ∧ d.rst.hostStep < 2 := by
  rw [covered_iff, if_pos (by omega)]

theorem sourceAt_covered_high {lvl src m : ℕ} (h4 : 4 ≤ lvl) (h : lvl ≤ d.rst.hostLvl ∧ d.rst.hostStep < 2) : Noted d (sourceAt lvl src m d) src := by
  refine sourceAt_covered (by omega) ?_
  rw [if_neg (by omega)]
  exact (covered_high h4).mpr h

theorem sourceAt_carried_high {lvl src m : ℕ} (h4 : 4 ≤ lvl) (h5 : lvl ≤ 5) (h : ¬ (lvl ≤ d.rst.hostLvl ∧ d.rst.hostStep < 2)) :
    Carried d (sourceAt lvl src m d) lvl src m := by
  have hlvl : (if lvl = 1 ∧ m = 1 then 3 else lvl) = lvl := if_neg (by omega)
  have hc : covered d (if lvl = 1 ∧ m = 1 then 3 else lvl) m = false := by
    rw [hlvl]
    exact eq_false_of_ne_true (fun hcov => h ((covered_high h4).mp hcov))
  have hcar := sourceAt_carried (src := src) (by omega) h5 hc
  rwa [hlvl] at hcar

theorem noted_supply {src : ℕ} (h : src ≤ 3) (hl : fusesLegal d = true) (hc : SupplyCovered d src) : Noted d (sourceAssert src 0 d) src := by
  rw [sourceAssert_supply h hl]
  exact sourceAt_covered_high (supplyLevel_le src).1 hc

theorem carried_supply {src : ℕ} (h : src ≤ 3) (hl : fusesLegal d = true) (hc : ¬ SupplyCovered d src) :
    Carried d (sourceAssert src 0 d) (supplyLevel src) src 0 := by
  rw [sourceAssert_supply h hl]
  exact sourceAt_carried_high (supplyLevel_le src).1 (supplyLevel_le src).2 hc

theorem rst_resetNoted (last pass : ℕ) (e : Dev) : (resetNoted last pass e).rst = e.rst := rfl

theorem rst_noteReset (lvl src core fresh) (e : Dev) : (noteReset lvl src core fresh e).rst = e.rst := rfl

theorem rails_coldRst (r : Rst) : rails (coldRst r) = rails r := rfl

theorem rails_of_lasting {e : Dev} {l : Lasting} (h : lasting e = l) : rails e.rst = rails l.rst := by
  subst h
  rfl

theorem powered_of_rails {e : Dev} (h : rails e.rst = rails d.rst) (hd : powered d = true) : powered e = true := by
  simp only [rails, Prod.mk.injEq, List.cons.injEq] at h
  obtain ⟨⟨hvin, hvcore, hvdram, hvio, -⟩, -⟩ := h
  rwa [powered, hvin, hvcore, hvdram, hvio]

theorem keepLost_of_rails {e : Dev} (h : rails e.rst = rails d.rst) : e.rst.keepLost = d.rst.keepLost := by
  simp only [rails, Prod.mk.injEq, List.cons.injEq] at h
  exact h.1.2.2.2.2.1

theorem rails_sourceAt {lvl src m : ℕ} (h4 : 4 ≤ lvl) (h5 : lvl ≤ 5) : rails (sourceAt lvl src m d).rst = rails d.rst := by
  rw [sourceAt, if_neg (show ¬ (lvl = 1 ∧ m = 1) by omega), if_neg (by omega)]
  split
  · rw [rst_noteReset]
  · rcases (by omega : lvl = 4 ∨ lvl = 5) with rfl | rfl
    · rw [carryOut_cold, rst_resetNoted, rails_of_lasting (lasting_coldReset d)]
      exact (rails_coldRst _).trans (rails_of_lasting rfl)
    · rw [carryOut_keep, rst_resetNoted, rails_of_lasting (lasting_keepReset d)]
      exact (rails_coldRst _).trans (rails_of_lasting rfl)

theorem rails_supply {src : ℕ} (h : src ≤ 3) (hl : fusesLegal d = true) : rails (sourceAssert src 0 d).rst = rails d.rst := by
  have hlvl := supplyLevel_le src
  rw [sourceAssert_supply h hl]
  exact rails_sourceAt hlvl.1 hlvl.2

theorem hold_supply {src : ℕ} (h : src ≤ 3) (h1 : src ≠ 1) (hl : fusesLegal d = true) :
    (sourceAssert src 0 d).keep.hold = d.keep.hold ∧ (sourceAssert src 0 d).tmp.log = d.tmp.log := by
  by_cases hc : SupplyCovered d src
  · have hn := noted_supply h hl hc
    obtain ⟨he, -, -, hk⟩ := hn
    exact ⟨by rw [hk], by rw [he]⟩
  · obtain ⟨-, -, -, -, -, -, hcold, -⟩ := carried_supply h hl hc
    obtain ⟨-, -, hlog, hhold⟩ := hcold (if_neg h1)
    exact ⟨hhold, hlog⟩

end

theorem tabFind_filter_of (t : Tab Word) {p : ℕ → Bool} {a : ℕ} (h : p a = true) : tabFind (t.filter (fun e => p e.1)) a = tabFind t a := by
  induction t with
  | nil => rfl
  | cons e t ih =>
    obtain ⟨k, v⟩ := e
    by_cases hk : p k
    · simp only [List.filter_cons, hk, if_true, tabFind, ih]
    · have ha : a ≠ k := fun ha => hk (ha ▸ h)
      rw [List.filter_cons, if_neg hk, ih, tabFind, if_neg ha]

/-! ### Power good, brown-out, and the keep supply lost -/

section
variable {s : State}

/-- The supplies as power good has them. -/
def railsGood (d : Dev) : Dev := onRst d (fun r => { r with vin := true, vcore := true, vdram := true, vio := true, keepSrc := 0, keepLost := false })

theorem powerGood_eq {d : Dev} (h : powered d = false) : powerGood d = sourceAssert (if d.rst.keepLost then 1 else 0) 0 (railsGood d) := by
  rw [powerGood, if_neg (ne_true_of_eq_false h)]
  cases d.rst.keepLost <;> rfl

theorem exec_powerGood (hp : powered s.dev = false) (hl : fusesLegal s.dev = true) : ∃ t, exec .powerGood s = .next t ∧ powered t.dev = true ∧
    t.dev.rst.keepSrc = 0 ∧ t.dev.rst.keepLost = false ∧
    (s.dev.rst.keepLost = false → ¬ (4 ≤ s.dev.rst.hostLvl ∧ s.dev.rst.hostStep < 2) → t.dev.mem = [] ∧ t.dev.fmem = [] ∧ t.dev.pas.count = 0 ∧
      t.dev.rst.hostLvl = max 4 s.dev.rst.hostLvl ∧ t.dev.rst.hostStep = 0 ∧ t.dev.keep.hold = s.dev.keep.hold ∧ t.dev.keep.rstLast = 4 + 8) ∧
    (s.dev.rst.keepLost = true → ¬ (5 ≤ s.dev.rst.hostLvl ∧ s.dev.rst.hostStep < 2) → t.dev.mem = [] ∧ t.dev.keep.hold = false ∧ t.dev.rst.hostLvl = 5 ∧
      t.dev.keep.rstLast = 5 + 16) := by
  have hsrc : (if s.dev.rst.keepLost then 1 else 0) ≤ 3 := by split <;> omega
  have hrails := rails_supply (d := railsGood s.dev) hsrc hl
  refine ⟨_, exec_eq_next rfl (powerGood_eq hp), ?_⟩
  refine ⟨powered_of_rails hrails rfl, congrArg Prod.snd hrails, keepLost_of_rails hrails, fun hk hc => ?_, fun hk hc => ?_⟩
  · rw [hk]
    obtain ⟨hlast, -, -, -, -, hclear, hcold, -⟩ := carried_supply (d := railsGood s.dev) (src := 0) (by omega) hl hc
    obtain ⟨hmem, hfmem, -, -, hcount, hstep, -⟩ := hclear (by decide)
    obtain ⟨hlvl, -, -, hhold⟩ := hcold rfl
    exact ⟨hmem, hfmem, hcount, hlvl, hstep, hhold, hlast⟩
  · rw [hk]
    obtain ⟨hlast, -, -, -, -, hclear, -, hkeep⟩ := carried_supply (d := railsGood s.dev) (src := 1) (by omega) hl hc
    obtain ⟨hmem, -⟩ := hclear (by decide)
    obtain ⟨hlvl, -, -, hhold, -⟩ := hkeep rfl
    exact ⟨hmem, hhold, hlvl, hlast⟩

/-- A brown-out's rail down, the keep domain on its own supply. -/
def railDown (rail : ℕ) (ext : Bool) (d : Dev) : Dev :=
  onRst d (fun r => { r with vin := r.vin && decide (rail ≠ 0), vcore := r.vcore && decide (rail ≠ 1), vdram := r.vdram && decide (rail ≠ 2),
                             vio := r.vio && decide (rail ≠ 3), keepSrc := if ext then 2 else 1 })

/-- The sources fired that the loss of 12 V leaves unanswered. -/
def firedLost (d : Dev) : Dev := { d with tmp := { d.tmp with fired := [] } }

theorem brownOut_eq {rail : ℕ} (h : rail ≤ 3) (ext : Bool) (d : Dev) : brownOut rail ext d =
    railDown rail ext (if rail = 0 then firedLost (sourceAssert (if rail = 0 then 2 else 3) 0 d) else sourceAssert (if rail = 0 then 2 else 3) 0 d) :=
  if_neg (by omega)

/-- The part of a device that a brown-out's clearing of fired sources keeps. -/
structure SameButFired (e f : Dev) : Prop where
  rst : f.rst = e.rst
  hold : f.keep.hold = e.keep.hold
  log : f.tmp.log = e.tmp.log
  mem : f.mem = e.mem
  fmem : f.fmem = e.fmem
  slots : f.slots = e.slots

theorem sameButFired (rail : ℕ) (e : Dev) : SameButFired e (if rail = 0 then firedLost e else e) := by
  split <;> exact ⟨rfl, rfl, rfl, rfl, rfl, rfl⟩

theorem exec_brownOut {rail : ℕ} (ext : Bool) (h3 : rail ≤ 3) (hl : fusesLegal s.dev = true) : ∃ t, exec (.brownOut rail ext) s = .next t ∧
    powered t.dev = false ∧ t.dev.rst.keepSrc = (if ext then 2 else 1) ∧ t.dev.rst.vin = (s.dev.rst.vin && decide (rail ≠ 0)) ∧
    t.dev.rst.vcore = (s.dev.rst.vcore && decide (rail ≠ 1)) ∧ t.dev.rst.vdram = (s.dev.rst.vdram && decide (rail ≠ 2)) ∧
    t.dev.rst.vio = (s.dev.rst.vio && decide (rail ≠ 3)) ∧ t.dev.keep.hold = s.dev.keep.hold ∧ t.dev.tmp.log = s.dev.tmp.log ∧
    (¬ (4 ≤ s.dev.rst.hostLvl ∧ s.dev.rst.hostStep < 2) → t.dev.mem = [] ∧ t.dev.fmem = [] ∧ t.dev.slots = [] ∧ t.dev.rst.hostStep = 0) := by
  have hsrc : (if rail = 0 then 2 else 3) ≤ 3 ∧ (if rail = 0 then 2 else 3) ≠ 1 := by split <;> omega
  have hlvl : supplyLevel (if rail = 0 then 2 else 3) = 4 := if_neg hsrc.2
  have hrails := rails_supply hsrc.1 hl
  obtain ⟨hhold, hlog⟩ := hold_supply hsrc.1 hsrc.2 hl
  have hclear : ¬ (4 ≤ s.dev.rst.hostLvl ∧ s.dev.rst.hostStep < 2) → Cleared (sourceAssert (if rail = 0 then 2 else 3) 0 s.dev) := by
    intro hc
    obtain ⟨-, -, -, -, -, hclear, -⟩ := carried_supply hsrc.1 hl (by rwa [SupplyCovered, hlvl])
    exact hclear (by omega)
  refine ⟨_, exec_eq_next rfl (brownOut_eq h3 ext s.dev), ?_⟩
  generalize sourceAssert (if rail = 0 then 2 else 3) 0 s.dev = e at *
  obtain ⟨rst, hold, log, mem, fmem, slots⟩ := sameButFired rail e
  generalize (if rail = 0 then firedLost e else e) = f at *
  obtain ⟨hvin, hvcore, hvdram, hvio⟩ : f.rst.vin = s.dev.rst.vin ∧ f.rst.vcore = s.dev.rst.vcore ∧ f.rst.vdram = s.dev.rst.vdram ∧
      f.rst.vio = s.dev.rst.vio := by
    rw [rst]
    simp only [rails, Prod.mk.injEq, List.cons.injEq] at hrails
    obtain ⟨⟨hvin, hvcore, hvdram, hvio, -⟩, -⟩ := hrails
    exact ⟨hvin, hvcore, hvdram, hvio⟩
  refine ⟨?_, rfl, by rw [← hvin]; rfl, by rw [← hvcore]; rfl, by rw [← hvdram]; rfl, by rw [← hvio]; rfl, hold.trans hhold, log.trans hlog, fun hc => ?_⟩
  · rcases (by omega : rail = 0 ∨ rail = 1 ∨ rail = 2 ∨ rail = 3) with rfl | rfl | rfl | rfl <;> simp [powered, railDown, onRst]
  · obtain ⟨hmem, hfmem, hslots, -, -, hstep, -⟩ := hclear hc
    exact ⟨mem.trans hmem, fmem.trans hfmem, slots.trans hslots, (congrArg Rst.hostStep rst).trans hstep⟩

theorem exec_keepSupplyLost (h : s.dev.rst.vin = false) : ∃ t, exec .keepSupplyLost s = .next t ∧ t.dev.keep = {} ∧ t.dev.tmp.log = [] ∧
    t.dev.tmp.epoch = s.dev.tmp.epoch ∧ t.dev.rst = { s.dev.rst with keepLost := true } ∧ t.dev.mem = s.dev.mem ∧
    ∀ a, a >>> 16 ≠ 0x06 → rg t.dev a = rg s.dev a := by
  refine ⟨_, exec_eq_next rfl (if_neg (ne_true_of_eq_false h)), rfl, rfl, rfl, rfl, rfl, fun a ha => ?_⟩
  show (tabFind (s.dev.regs.filter _) a).getD _ = _
  rw [tabFind_filter_of (p := fun k => !decide (k >>> 16 = 0x06)) _ (by simp [ha])]
  rfl

end

/-- Settles O57: each clause by the step's condition; the supplies' resets by what `carried_supply` says of the level, which the legal map gives. -/
theorem watchdogsAndSupplies : Obligations.WatchdogsAndSupplies := by
  unfold Obligations.WatchdogsAndSupplies
  intro s d r
  exact ⟨fun _ _ => exec_watchdogKick, fun _ _ => exec_watchdogKick_of_not,
    fun c => ⟨exec_watchdogWarning, exec_watchdogWarning_of_not, exec_watchdogExpiry, exec_watchdogExpiry_of_not⟩,
    fun m pl i => ⟨exec_moncInc, exec_moncInc_of_not⟩, fun h => exec_same rfl (if_pos h), exec_powerGood, fun rail ext => exec_brownOut ext,
    fun rail ext h => exec_same rfl (if_pos h), fun h => exec_same rfl (if_pos h), exec_keepSupplyLost⟩

end Sys2Proof.Machine

/-! Events of tamper sources, as a status register counts them (O48, O50, O54; R364, R365). -/

namespace Sys2Proof.Machine

/-- A field above one that is replaced. -/
theorem fld_setFld_of_gt {w : Word} {hi lo hi' lo' : ℕ} (v : ℕ) (hfield : lo ≤ hi + 1) (habove : hi < lo') (hword : hi' < 36) :
    fld (setFld w hi lo v) hi' lo' = fld w hi' lo' := by
  refine Nat.eq_of_testBit_eq (fun i => ?_)
  rw [testBit_fld, testBit_fld]
  by_cases h : i < hi' + 1 - lo'
  · exact congrArg _ (bit_setFld_of_gt v hfield (by omega) (by omega))
  · simp [h]

theorem fld_setBit_of_gt {w : Word} {i hi' lo' : ℕ} (b : Bool) (habove : i < lo') (hword : hi' < 36) :
    fld (setBit w i b) hi' lo' = fld w hi' lo' := fld_setFld_of_gt _ (by omega) habove hword

/-- The events field after a write to it. -/
theorem fld_setFld_events {w : Word} {e : ℕ} (he : e < 2 ^ 26) : fld (setFld w 35 10 e) 35 10 = e := by
  have hw := w.isLt
  rw [setFld_eq, fld, nfld, wd, BitVec.toNat_ofNat, Nat.shiftRight_eq_div_pow]
  omega

/-- One more event, counted up to the field's end. -/
def eventsUp (d : Dev) (src : ℕ) : ℕ := min (2 ^ 26 - 1) (fld (tmpStatus d src) 35 10 + 1)

/-- An event of a source writes its status register, which counts it, and the sources' own state. -/
theorem tmpEvent_eq {src : ℕ} (h : src < 39) (d : Dev) :
    ∃ w x, tmpEvent src d = { rgSet d (Reg.TMP_SRC_STATUS + src) w with tmp := x } ∧ fld w 35 10 = eventsUp d src := by
  have hlt : eventsUp d src < 2 ^ 26 := by unfold eventsUp; omega
  have hcount : ∀ c, fld (setFld (setFld (tmpStatus d src) 35 10 (eventsUp d src)) 7 0 c) 35 10 = eventsUp d src := fun c => by
    rw [fld_setFld_of_gt _ (by decide) (by decide) (by decide), fld_setFld_events hlt]
  have hfired : ∀ w : Word, fld (setBit w 9 true) 35 10 = fld w 35 10 := fun w => fld_setBit_of_gt _ (by decide) (by decide)
  have hsame : ∀ w, rgSet d (Reg.TMP_SRC_STATUS + src) w = { rgSet d (Reg.TMP_SRC_STATUS + src) w with tmp := d.tmp } := fun _ => rfl
  simp only [tmpEvent, if_neg (show ¬ 39 ≤ src by omega), ← eventsUp.eq_1]
  split
  · exact ⟨_, _, rfl, (hfired _).trans (hcount _)⟩
  · split
    · exact ⟨_, _, rfl, hcount _⟩
    · exact ⟨_, d.tmp, hsame _, hcount _⟩

/-- An event of a source leaves everything but the registers and the sources' own state. -/
theorem tmpEvent_frame {src : ℕ} (h : src < 39) (d : Dev) : tmpEvent src d = { d with regs := (tmpEvent src d).regs, tmp := (tmpEvent src d).tmp } := by
  obtain ⟨w, x, he, -⟩ := tmpEvent_eq h d
  rw [he]
  rfl

theorem events_tmpEvent {src : ℕ} (h : src < 39) (d : Dev) : fld (tmpStatus (tmpEvent src d) src) 35 10 = eventsUp d src := by
  obtain ⟨w, x, he, hw⟩ := tmpEvent_eq h d
  rw [he, ← hw]
  exact congrArg (fun w => fld w 35 10) ((rg_rgSet ..).trans (if_pos rfl))

/-- Registers but the source's status. -/
theorem rg_tmpEvent {src a : ℕ} (h : src < 39) (ha : a ≠ Reg.TMP_SRC_STATUS + src) (d : Dev) : rg (tmpEvent src d) a = rg d a := by
  obtain ⟨w, x, he, -⟩ := tmpEvent_eq h d
  rw [he]
  exact (rg_rgSet ..).trans (if_neg ha)

section
variable {src : ℕ} {d : Dev}

/-- The sources that report events and not conditions. -/
theorem tamperEvent_of_vin (hc : tmpCondition src = false) (hv : d.rst.vin = true) : tamperEvent src d = tmpEvent src d := by
  simp [tamperEvent, hv, hc]

theorem tamperEvent_frame (h : src < 39) (hc : tmpCondition src = false) :
    tamperEvent src d = { d with regs := (tamperEvent src d).regs, tmp := (tamperEvent src d).tmp } := by
  cases hv : d.rst.vin with
  | false => simp [tamperEvent, hv]
  | true =>
    rw [tamperEvent_of_vin hc hv]
    exact tmpEvent_frame h d

theorem rg_tamperEvent (h : src < 39) (hc : tmpCondition src = false) {a : ℕ} (ha : a ≠ Reg.TMP_SRC_STATUS + src) : rg (tamperEvent src d) a = rg d a := by
  cases hv : d.rst.vin with
  | false => simp [tamperEvent, hv]
  | true =>
    rw [tamperEvent_of_vin hc hv]
    exact rg_tmpEvent h ha d

theorem events_tamperEvent (h : src < 39) (hc : tmpCondition src = false) (hv : d.rst.vin = true) :
    fld (tmpStatus (tamperEvent src d) src) 35 10 = eventsUp d src := by
  rw [tamperEvent_of_vin hc hv]
  exact events_tmpEvent h d

end

end Sys2Proof.Machine

/-! The Towpath (O50, R354, R393 to R395, R469): its instructions, its session, its access port and core debug. -/

namespace Sys2Proof.Machine

section
variable {s : State} {e : Dev}

/-- EVENTS of a source counted once more, where 12 V is there. -/
def Probed (d e : Dev) (src : ℕ) : Prop :=
  d.rst.vin = true → fld (tmpStatus e src) 35 10 = min (2 ^ 26 - 1) (fld (tmpStatus d src) 35 10 + 1)

theorem probed_tamperEvent {d e : Dev} {src : ℕ} (h : src < 39) (hc : tmpCondition src = false) (hr : e.rst = d.rst)
    (hs : tmpStatus e src = tmpStatus d src) : Probed d (tamperEvent src e) src := by
  intro hv
  rw [events_tamperEvent h hc (by rw [hr, hv]), eventsUp, hs]

theorem probed_onLife {d e : Dev} {src : ℕ} (f : Life → Life) (h : Probed d e src) : Probed d (onLife e f) src := h

/-! ### Instructions -/

theorem exec_debug_closed (h : ¬ portOpen s.dev = true) : ∃ t, exec .debug s = .next t ∧
    t.dev.life = { s.dev.life with ir := 0xFF, dr := [], drive := none } ∧ Probed s.dev t.dev 32 := by
  refine ⟨_, exec_eq_next rfl (if_neg h), ?_, probed_tamperEvent (by decide) rfl rfl rfl⟩
  rw [tamperEvent_frame (by decide) rfl]
  rfl

theorem portOpen_iff (d : Dev) : portOpen d = true ↔ d.life.state ≤ 1 ∨ d.life.sessOpen = true ∧ d.life.state ≠ 5 := by simp [portOpen]

theorem tapExtest_of_permitted {rstn : Bool} {pins : Octets} {shift : Option Octets} (h : 2 ≤ e.life.state ∧ e.life.state ≤ 4 → rstn = true) :
    tapExtest rstn pins shift e =
      { e with life := { e.life with ir := 0x00, dr := pins, bsr := shift.getD e.life.bsr, drive := some (shift.getD e.life.bsr) } } :=
  if_neg (fun ⟨h2, h4, hr⟩ => hr (h ⟨h2, h4⟩))

theorem tapExtest_refused {pins : Octets} {shift : Option Octets} (h : 2 ≤ e.life.state ∧ e.life.state ≤ 4) :
    tapExtest false pins shift e = tapBypass e := if_pos ⟨h.1, h.2, Bool.false_ne_true⟩

/-! ### AUTH -/

theorem tapAuth_bypass {r : Option Octets} (h : e.life.state ≤ 1 ∨ e.life.state = 5) : tapAuth r e = tapBypass e := if_pos h

theorem tapAuth_not_booted {r : Option Octets} (h : 2 ≤ e.life.state ∧ e.life.state ≤ 4) (hb : e.life.booted = false) :
    tapAuth r e = tapSelect 0x10 (zeros 176) e := by
  unfold tapAuth
  rw [if_neg (by omega), if_pos (ne_true_of_eq_false hb)]

theorem tapAuth_read (h : 2 ≤ e.life.state ∧ e.life.state ≤ 4) (hb : e.life.booted = true) :
    tapAuth none e = tapChallenge (tapSelect 0x10 (zeros 176) e) := by
  rw [tapAuth, if_neg (by omega), if_neg (not_not_intro hb)]

theorem tapAuth_response {r : Octets} (h : 2 ≤ e.life.state ∧ e.life.state ≤ 4) (hb : e.life.booted = true) (hr : r.length = 176) :
    tapAuth (some r) e = tapSelect 0x10 [] (verifyResponse r e).2 := by
  have hfit : fitTo 176 r = r := by simp [fitTo, hr, zeros]
  rw [tapAuth, if_neg (by omega), if_neg (not_not_intro hb)]
  simp only [hfit]

/-- A challenge not served now waits, or is refused. -/
theorem tapChallenge_of_not_serves (h : hopServes e 2 = false) : tapChallenge e = onLife e (fun l => { l with chalWait := !hopRefuses e }) := by
  unfold tapChallenge
  cases hr : hopRefuses e <;> simp [hopWaits, h, hr]

/-- The 64 octets of a challenge (Table 16.7). -/
def challenge (purpose state : ℕ) (devid : Octets) (seq : ℕ) (nonce : Octets) : Octets :=
  leOct 2 1 ++ leOct 1 purpose ++ leOct 1 state ++ zeros 4 ++ fitTo 16 devid ++ leOct 6 seq ++ zeros 2 ++ nonce

theorem fitTo_length_eq (n : ℕ) (o : Octets) : (fitTo n o).length = n := by
  simp [fitTo, zeros]
  omega

theorem challenge_fields {purpose state : ℕ} {devid nonce : Octets} {seq : ℕ} (hp : purpose < 256) (hs : state < 256) (hq : seq < 2 ^ 48) :
    let c := challenge purpose state devid seq nonce
    c.drop 32 = nonce ∧ leAt c 0 2 = 1 ∧ leAt c 2 1 = purpose ∧ leAt c 3 1 = state ∧ slice c 8 16 = fitTo 16 devid ∧ leAt c 24 6 = seq := by
  have hid := fitTo_length_eq 16 devid
  have hseq := length_leOct 6 seq
  have hval := leNat_leOct 6 seq
  have hone : ∀ x : ℕ, x < 256 → leNat (leOct 1 x) = x := fun x hx => by rw [leNat_leOct]; omega
  have hhead : challenge purpose state devid seq nonce =
      leOct 2 1 ++ (leOct 1 purpose ++ (leOct 1 state ++ (zeros 4 ++ (fitTo 16 devid ++ (leOct 6 seq ++ (zeros 2 ++ nonce)))))) := by
    simp only [challenge, List.append_assoc]
  rw [hhead]
  have hz : ∀ n, (zeros n).length = n := fun n => List.length_replicate
  have hval2 : leNat (leOct 2 1) = 1 := by rw [leNat_leOct]; decide
  rw [Nat.mod_eq_of_lt (by omega)] at hval
  simp [leAt, slice, List.drop_append, length_leOct, hz, hid, List.drop_eq_nil_of_le, hone, hp, hs, hval2, hval]

/-- The sequence number after one more challenge. -/
def nextSeq (d : Dev) : ℕ := min (2 ^ 48 - 1) (tabGet 0 d.keep.monc 4 + 1)

theorem issueChallenge_eq (purpose : ℕ) (d : Dev) : ∃ hop, issueChallenge purpose d =
    { moncInc d 4 with
      hop := hop
      life := { d.life with
        chal := some (challenge purpose d.life.state d.life.devid (nextSeq d) ((d.hop.fifo.take 2).flatten.take 32), d.pas.count), chalWait := false } } := by
  refine ⟨(hwDraw (moncInc d 4) 2).2.hop, ?_⟩
  have hlife : (hwDraw (moncInc d 4) 2).2 = { moncInc d 4 with hop := (hwDraw (moncInc d 4) 2).2.hop } := hwDraw_frame _ 2
  have hdraw : (hwDraw (moncInc d 4) 2).1 = (d.hop.fifo.take 2).flatten := rfl
  have hseq : monc (moncInc d 4) 4 = nextSeq d := monc_moncInc d 4
  simp only [issueChallenge, hseq, hdraw]
  generalize (hwDraw (moncInc d 4) 2).2 = x at *
  rw [hlife]
  rfl

theorem tapChallenge_of_serves (h : hopServes e 2 = true) (hir : e.life.ir = 0x10) : ∃ hop, tapChallenge e =
    { moncInc e 4 with
      hop := hop
      life := { e.life with
        chal := some (challenge 1 e.life.state e.life.devid (nextSeq e) ((e.hop.fifo.take 2).flatten.take 32), e.pas.count), chalWait := false
        dr := fitTo 176 (challenge 1 e.life.state e.life.devid (nextSeq e) ((e.hop.fifo.take 2).flatten.take 32)) } } := by
  obtain ⟨hop, he⟩ := issueChallenge_eq 1 e
  refine ⟨hop, ?_⟩
  have hwait : hopWaits e 2 = false := by simp [hopWaits, h]
  simp only [tapChallenge, hwait, h, he, Bool.false_eq_true, not_true_eq_false, if_false, hir, if_true]
  rfl

theorem exec_auth_read (h : 2 ≤ s.dev.life.state ∧ s.dev.life.state ≤ 4) (hb : s.dev.life.booted = true) (hs : hopServes s.dev 2 = true) :
    ∃ t c, exec (.auth none) s = .next t ∧
      t.dev.life = { s.dev.life with ir := 0x10, dr := fitTo 176 c, chal := some (c, s.dev.pas.count), chalWait := false, drive := none } ∧
      c.drop 32 = (s.dev.hop.fifo.take 2).flatten.take 32 ∧ leAt c 0 2 = 1 ∧ leAt c 2 1 = 1 ∧ leAt c 3 1 = s.dev.life.state ∧
      slice c 8 16 = fitTo 16 s.dev.life.devid ∧ leAt c 24 6 = min (2 ^ 48 - 1) (tabGet 0 s.dev.keep.monc 4 + 1) ∧
      tabGet 0 t.dev.keep.monc 4 = min (2 ^ 48 - 1) (tabGet 0 s.dev.keep.monc 4 + 1) := by
  obtain ⟨hop, he⟩ := tapChallenge_of_serves (e := tapSelect 0x10 (zeros 176) s.dev) hs rfl
  have hseq : nextSeq s.dev < 2 ^ 48 := by unfold nextSeq; omega
  refine ⟨_, _, exec_eq_next rfl ((tapAuth_read h hb).trans he), rfl, ?_⟩
  obtain ⟨hnonce, hv, hp, hst, hid, hq⟩ := challenge_fields (purpose := 1) (state := s.dev.life.state) (devid := s.dev.life.devid)
    (nonce := (s.dev.hop.fifo.take 2).flatten.take 32) (by decide) (by omega) hseq
  exact ⟨hnonce, hv, hp, hst, hid, hq, monc_moncInc _ 4⟩

/-- What of a well-formed response must agree with the challenge outstanding (Table 16.7). -/
def Answers (r c : Octets) : Prop :=
  leAt c 2 1 = 1 ∧ slice r 8 16 = slice c 8 16 ∧ slice r 24 6 = slice c 24 6 ∧ slice r 32 32 = slice c 32 32

section
variable {r c : Octets} {n : ℕ} (hchal : e.life.chal = some (c, n)) (hv : leAt r 0 2 = 1) (hp : leAt r 2 1 = 1) (hsc : leAt r 3 1 ≤ 7)
  (h4 : allZero (slice r 4 4) = true) (h30 : allZero (slice r 30 2) = true) (h64 : allZero (slice r 64 16) = true)

include hv hp hsc h4 h30 h64 in
theorem respBad_of_fields : respBad r = false := by
  simp [respBad, hv, hp, h4, h30, h64]
  omega

include hchal hv hp hsc h4 h30 h64

theorem respFail_none (ha : Answers r c) (hsig : p384Signed Config.serviceKey r = true) : respFail e r = none := by
  obtain ⟨hc, hid, hseq, hnonce⟩ := ha
  simp [respFail, respBad_of_fields hv hp hsc h4 h30 h64, hchal, hp, hc, hid, hseq, hnonce, hsig]

theorem respFail_some (h : ¬ Answers r c ∨ p384Signed Config.serviceKey r = false) : ∃ f, respFail e r = some f := by
  have hbad := respBad_of_fields hv hp hsc h4 h30 h64
  simp only [respFail, hbad, Bool.false_eq_true, if_false, hchal]
  split
  · exact ⟨_, rfl⟩
  · next ha =>
    have hans : Answers r c := by
      simp only [ne_eq, not_or, not_not] at ha
      obtain ⟨hc, hid, hseq, hnonce⟩ := ha
      exact ⟨hc.symm.trans hp, hid, hseq, hnonce⟩
    exact ⟨_, if_pos (ne_true_of_eq_false (h.resolve_left (not_not_intro hans)))⟩

end

theorem verifyResponse_of_none {r : Octets} (h : respFail e r = none) (hp : leAt r 2 1 = 1) : (verifyResponse r e).2 =
    { e with life := { e.life with chal := none, failRun := 0, sessNext := some (leAt r 3 1, e.pas.count) } } := by
  simp only [verifyResponse, h, hp, if_true]
  rfl

/-- The device with one more failed response counted. -/
def failedResponse (d : Dev) : Dev := onLife (rgAdd d Reg.DBG_AUTH_FAILS 1) (fun l => { l with failRun := d.life.failRun + 1 })

theorem verifyResponse_of_some {r : Octets} {f : Fail} (h : respFail e r = some f) :
    (verifyResponse r e).2 = if (e.life.failRun + 1) % 3 = 0 then tamperEvent 32 (failedResponse e) else failedResponse e := by
  simp only [verifyResponse, h]
  rfl

theorem failedResponse_judged (d : Dev) :
    let e := tapSelect 0x10 [] (if (d.life.failRun + 1) % 3 = 0 then tamperEvent 32 (failedResponse d) else failedResponse d)
    e.life = { d.life with ir := 0x10, dr := [], failRun := d.life.failRun + 1, drive := none } ∧
      rg e Reg.DBG_AUTH_FAILS = satInc (rg d Reg.DBG_AUTH_FAILS) 1 ∧ ((d.life.failRun + 1) % 3 = 0 → Probed d e 32) := by
  have hrg : rg (failedResponse d) Reg.DBG_AUTH_FAILS = satInc (rg d Reg.DBG_AUTH_FAILS) 1 := (rg_rgSet ..).trans (if_pos rfl)
  have hstatus : tmpStatus (failedResponse d) 32 = tmpStatus d 32 := (rg_rgSet ..).trans (if_neg (by decide))
  have hrst : (failedResponse d).rst = d.rst := rfl
  have hlife : (failedResponse d).life = { d.life with failRun := d.life.failRun + 1 } := rfl
  generalize failedResponse d = f at *
  intro e
  by_cases h3 : (d.life.failRun + 1) % 3 = 0
  · have he : e = tapSelect 0x10 [] (tamperEvent 32 f) := congrArg (tapSelect 0x10 []) (if_pos h3)
    rw [he]
    have hframe := tamperEvent_frame (src := 32) (d := f) (by decide) rfl
    have hfails : rg (tamperEvent 32 f) Reg.DBG_AUTH_FAILS = rg f Reg.DBG_AUTH_FAILS := rg_tamperEvent (by decide) rfl (by decide)
    have hprobed := probed_tamperEvent (d := d) (e := f) (src := 32) (by decide) rfl hrst hstatus
    generalize tamperEvent 32 f = g at *
    have hg : g.life = f.life := by rw [hframe]
    refine ⟨?_, hfails.trans hrg, fun _ => hprobed⟩
    show ({ g.life with ir := 0x10, dr := [], drive := none } : Life) = _
    rw [hg, hlife]
  · have he : e = tapSelect 0x10 [] f := congrArg (tapSelect 0x10 []) (if_neg h3)
    rw [he]
    refine ⟨?_, hrg, fun h => absurd h h3⟩
    show ({ f.life with ir := 0x10, dr := [], drive := none } : Life) = _
    rw [hlife]

/-! ### The session -/

theorem sessionOpen_waits {sc n : ℕ} (h : e.life.sessNext = some (sc, n)) (hn : e.life.booted = false ∨ e.life.state = 5 ∨ e.pas.count ≤ n) :
    sessionOpen e = e := by
  simp only [sessionOpen, h]
  refine if_neg ?_
  rintro ⟨hlt, hb, h5⟩
  rcases hn with hn | hn | hn
  · simp [hn] at hb
  · exact h5 hn
  · omega

theorem sessionOpen_opens {sc n : ℕ} (h : e.life.sessNext = some (sc, n)) (hn : n < e.pas.count) (hb : e.life.booted = true) (h5 : e.life.state ≠ 5) :
    sessionOpen e = rgSet { e with life := { e.life with sessOpen := true, scope := sc, sessNext := none } } Reg.DBG_SESSIONS
      (satInc (rg e Reg.DBG_SESSIONS) 1) := by
  simp only [sessionOpen, h]
  exact if_pos ⟨hn, hb, h5⟩

end

end Sys2Proof.Machine

/-! The Towpath's access port (O50, R354, R394): DBG_DATA and DBG_CORE. -/

namespace Sys2Proof.Machine

section
variable {s : State} {e : Dev}

/-- The access port: DEBUG in the instruction register, and open. -/
def PortInUse (d : Dev) : Prop := d.life.ir = 0x20 ∧ (d.life.state ≤ 1 ∨ d.life.sessOpen = true ∧ d.life.state ≠ 5)

/-- A scope of the session, or every scope before there are sessions. -/
def InScope (d : Dev) (i : ℕ) : Prop := d.life.state ≤ 1 ∨ d.life.sessOpen = true ∧ d.life.scope.testBit i = true

theorem portSelected_iff (d : Dev) : portSelected d = true ↔ PortInUse d := by simp [portSelected, PortInUse, portOpen_iff]

theorem hasScope_iff {d : Dev} (hp : PortInUse d) (i : ℕ) : hasScope d i = true ↔ InScope d i := by
  have hopen := (portOpen_iff d).mpr hp.2
  obtain ⟨-, h | h⟩ := hp
  · simp [hasScope, hopen, InScope, h]
  · simp [hasScope, hopen, InScope, h.1]

theorem dbgDataAccess_no_port {l : Dev} {w : Option Word} (h : ¬ PortInUse e) : dbgDataAccess l w e = e := if_pos (fun hp => h ((portSelected_iff e).mp hp))

theorem dbgCoreWrite_no_port {v : Word} (h : ¬ PortInUse e) : dbgCoreWrite v e = e := if_pos (fun hp => h ((portSelected_iff e).mp hp))

theorem dbgDataAccess_no_scope {l : Dev} {w : Option Word} (hp : PortInUse e) (h : ¬ InScope e 1) : dbgDataAccess l w e = tamperEvent 32 e := by
  unfold dbgDataAccess
  rw [if_neg (not_not_intro ((portSelected_iff e).mpr hp)), if_pos (fun hs => h ((hasScope_iff hp 1).mp hs))]

theorem dbgCoreWrite_no_scope {v : Word} (hp : PortInUse e) (h : ¬ InScope e 0) : dbgCoreWrite v e = tamperEvent 32 e := by
  unfold dbgCoreWrite
  rw [if_neg (not_not_intro ((portSelected_iff e).mpr hp)), if_pos (fun hs => h ((hasScope_iff hp 0).mp hs))]

theorem exec_dbgData_no_scope {w : Option Word} (hp : PortInUse s.dev) (h : ¬ InScope s.dev 1) : ∃ t, exec (.dbgDataAccess w) s = .next t ∧
    Probed s.dev t.dev 32 ∧ t.dev.mem = s.dev.mem ∧ t.dev.life = s.dev.life := by
  have hframe := tamperEvent_frame (src := 32) (d := s.dev) (by decide) rfl
  refine ⟨_, exec_eq_next rfl (dbgDataAccess_no_scope hp h), probed_tamperEvent (by decide) rfl rfl rfl, ?_, ?_⟩ <;> rw [hframe]

theorem exec_dbgCore_no_scope {v : Word} (hp : PortInUse s.dev) (h : ¬ InScope s.dev 0) : ∃ t, exec (.dbgCoreWrite v) s = .next t ∧
    Probed s.dev t.dev 32 ∧ t.dev.cores = s.dev.cores := by
  have hframe := tamperEvent_frame (src := 32) (d := s.dev) (by decide) rfl
  refine ⟨_, exec_eq_next rfl (dbgCoreWrite_no_scope hp h), probed_tamperEvent (by decide) rfl rfl rfl, ?_⟩
  rw [hframe]

theorem debugsCore_iff (d : Dev) (m : ℕ) : debugsCore d m = true ↔ isH m = true ∨ isF m = true ∨ m = 1 ∧ d.life.state ≤ 1 := by
  simp [debugsCore, or_assoc]

theorem dbgCoreWrite_of_scope {v : Word} (hp : PortInUse e) (h : InScope e 0) : dbgCoreWrite v e =
    if debugsCore e (fld v 7 0) then
      onCore (rgSet e Reg.DBG_CORE (v &&& 0x1FF)) (fld v 7 0) (fun c => { c with halted := bit v 8, stepOne := bit v 8 && bit v 9 })
    else rgSet e Reg.DBG_CORE (v &&& 0x1FF) := by
  unfold dbgCoreWrite
  rw [if_neg (not_not_intro ((portSelected_iff e).mpr hp)), if_neg (not_not_intro ((hasScope_iff hp 0).mpr h))]
  rfl

theorem exec_dbgCore {v : Word} (hp : PortInUse s.dev) (h : InScope s.dev 0) : ∃ t, exec (.dbgCoreWrite v) s = .next t ∧
    (∀ n, n ≠ fld v 7 0 → coreGet t.dev n = coreGet s.dev n) ∧ t.dev.mem = s.dev.mem ∧
    (isH (fld v 7 0) = true ∨ isF (fld v 7 0) = true ∨ fld v 7 0 = 1 ∧ s.dev.life.state ≤ 1 →
      coreGet t.dev (fld v 7 0) = { coreGet s.dev (fld v 7 0) with halted := bit v 8, stepOne := bit v 8 && bit v 9 }) ∧
    (¬ (isH (fld v 7 0) = true ∨ isF (fld v 7 0) = true ∨ fld v 7 0 = 1 ∧ s.dev.life.state ≤ 1) →
      coreGet t.dev (fld v 7 0) = coreGet s.dev (fld v 7 0)) := by
  refine ⟨_, exec_eq_next rfl (dbgCoreWrite_of_scope hp h), ?_⟩
  simp only [← debugsCore_iff]
  by_cases hd : debugsCore s.dev (fld v 7 0) = true
  · simp only [if_pos hd]
    exact ⟨fun n hn => (tabGet_tabSet ..).trans (if_neg hn), rfl, fun _ => (tabGet_tabSet ..).trans (if_pos rfl), fun h => absurd hd h⟩
  · simp only [if_neg hd]
    exact ⟨fun _ _ => rfl, rfl, fun h => absurd h hd, fun _ => rfl⟩

/-! ### DBG_DATA -/

/-- The device with DBG_ADDR advanced. -/
def addrNext (d : Dev) : Dev := rgSet d Reg.DBG_ADDR (BitVec.ofNat 36 (rn d Reg.DBG_ADDR + 1))

theorem dbgRead_of_scope {l : Dev} (hp : PortInUse e) (h : InScope e 1) : dbgDataAccess l none e =
    let r := match dbgRefused 0 (rn e Reg.DBG_ADDR) (addrNext e) with | some d => (0, d) | none => dbgRead l (rn e Reg.DBG_ADDR) (addrNext e)
    onLife (rdSet r.2 2 r.1) (fun l => { l with dr := leOct 5 r.1.toNat }) := by
  unfold dbgDataAccess
  rw [if_neg (not_not_intro ((portSelected_iff e).mpr hp)), if_neg (not_not_intro ((hasScope_iff hp 1).mpr h))]
  rfl

theorem dbgWrite_of_scope {l : Dev} {v : Word} (hp : PortInUse e) (h : InScope e 1) : dbgDataAccess l (some v) e =
    match dbgRefused 1 (rn e Reg.DBG_ADDR) (addrNext e) with | some d => d | none => dbgStore (rn e Reg.DBG_ADDR) v (addrNext e) := by
  unfold dbgDataAccess
  rw [if_neg (not_not_intro ((portSelected_iff e).mpr hp)), if_neg (not_not_intro ((hasScope_iff hp 1).mpr h))]
  rfl

/-- The sealed words are not those of the debug port's registers. -/
theorem sealedWord_addrNext (d : Dev) (a : ℕ) : sealedWord (addrNext d) false a = sealedWord d false a := by
  have hm : ∀ m ∈ mpuMasters, m < 0x100 := fun m hm => by
    obtain ⟨hr, -⟩ := List.mem_filter.mp hm
    exact List.mem_range.mp hr
  have hmap : ∀ m ∈ mpuMasters, (List.range (regionCount m)).map (region (addrNext d) m) = (List.range (regionCount m)).map (region d m) := fun m h =>
    List.map_congr_left (fun r hr => region_rgSet (by decide) (hm m h) d _ (List.mem_range.mp hr))
  unfold sealedWord sealedRanges
  refine congrArg (fun l => List.any (_ ++ l) _) (List.flatMap_congr (fun m h => ?_))
  rw [hmap m (List.mem_of_mem_filter h)]

theorem refusal_addrNext (d : Dev) (right a : ℕ) : refusal (addrNext d) 2 2 0 right a = refusal d 2 2 0 right a :=
  refusal_rgSet (by decide) (by decide) d _ (by decide) ..

theorem dbgRefused_sealed {right a : ℕ} (h0 : e.life.state ≠ 0) (h : sealedWord e false a = true) :
    dbgRefused right a (addrNext e) = some (tamperEvent 31 (dbgErr (addrNext e))) := if_pos ⟨h0, (sealedWord_addrNext e a).trans h⟩

theorem dbgRefused_open {right a : ℕ} (h : e.life.state = 0 ∨ sealedWord e false a = false) : dbgRefused right a (addrNext e) =
    (refusal e 2 2 0 right a).map (fun t => dbgErr (if e.life.state = 0 then addrNext e else mpuRecord 2 2 (2 + right) a t (addrNext e))) := by
  unfold dbgRefused
  rw [if_neg ?_, refusal_addrNext]
  · rfl
  · rintro ⟨h0, hs⟩
    rw [sealedWord_addrNext] at hs
    exact h.elim h0 (fun h => by simp [h] at hs)

theorem bit_dbgErr (d : Dev) : bit (rg (dbgErr d) Reg.DBG_STATUS) 1 = true := by
  rw [dbgErr, rg_rgOr, if_pos rfl]
  simp [bit, wd]

/-- A sealed word refused: the event, ERR, and DBG_ADDR advanced. -/
theorem sealedRefused (d : Dev) : let e := tamperEvent 31 (dbgErr (addrNext d))
    Probed d e 31 ∧ e.life = d.life ∧ bit (rg e Reg.DBG_STATUS) 1 = true ∧ rg e Reg.DBG_ADDR = BitVec.ofNat 36 (rn d Reg.DBG_ADDR + 1) ∧ e.mem = d.mem := by
  intro e
  have hframe := tamperEvent_frame (src := 31) (d := dbgErr (addrNext d)) (by decide) rfl
  have hstatus : tmpStatus (dbgErr (addrNext d)) 31 = tmpStatus d 31 :=
    (rg_rgSet ..).trans ((if_neg (by decide)).trans ((rg_rgSet ..).trans (if_neg (by decide))))
  refine ⟨probed_tamperEvent (by decide) rfl rfl hstatus, ?_, ?_, ?_, ?_⟩
  · exact (congrArg Dev.life hframe).trans rfl
  · rw [show rg e Reg.DBG_STATUS = _ from rg_tamperEvent (by decide) rfl (by decide)]
    exact bit_dbgErr _
  · rw [show rg e Reg.DBG_ADDR = _ from rg_tamperEvent (by decide) rfl (by decide)]
    exact (rg_rgSet ..).trans ((if_neg (by decide)).trans ((rg_rgSet ..).trans (if_pos rfl)))
  · exact (congrArg Dev.mem hframe).trans rfl

theorem exec_dbgRead_sealed (hp : PortInUse s.dev) (h1 : InScope s.dev 1) (h0 : s.dev.life.state ≠ 0)
    (hs : sealedWord s.dev false (rn s.dev Reg.DBG_ADDR) = true) : ∃ t, exec (.dbgDataAccess none) s = .next t ∧ Probed s.dev t.dev 31 ∧
      t.dev.life = { s.dev.life with dr := zeros 5 } ∧ bit (rg t.dev Reg.DBG_STATUS) 1 = true ∧
      rg t.dev Reg.DBG_ADDR = BitVec.ofNat 36 (rn s.dev Reg.DBG_ADDR + 1) ∧ t.dev.mem = s.dev.mem := by
  have hread := dbgRead_of_scope (l := s.latch) hp h1
  simp only [dbgRefused_sealed h0 hs] at hread
  obtain ⟨hprobed, hlife, herr, haddr, hmem⟩ := sealedRefused s.dev
  refine ⟨_, exec_eq_next rfl hread, ?_⟩
  generalize tamperEvent 31 (dbgErr (addrNext s.dev)) = e at *
  exact ⟨hprobed, congrArg (fun l : Life => { l with dr := zeros 5 }) hlife, herr, haddr, hmem⟩

theorem exec_dbgWrite_sealed {v : Word} (hp : PortInUse s.dev) (h1 : InScope s.dev 1) (h0 : s.dev.life.state ≠ 0)
    (hs : sealedWord s.dev false (rn s.dev Reg.DBG_ADDR) = true) : ∃ t, exec (.dbgDataAccess (some v)) s = .next t ∧ Probed s.dev t.dev 31 ∧
      t.dev.life = s.dev.life ∧ bit (rg t.dev Reg.DBG_STATUS) 1 = true ∧
      rg t.dev Reg.DBG_ADDR = BitVec.ofNat 36 (rn s.dev Reg.DBG_ADDR + 1) ∧ t.dev.mem = s.dev.mem := by
  have hwrite := dbgWrite_of_scope (l := s.latch) (v := v) hp h1
  simp only [dbgRefused_sealed h0 hs] at hwrite
  exact ⟨_, exec_eq_next rfl hwrite, sealedRefused s.dev⟩

section
variable (hp : PortInUse s.dev) (h1 : InScope s.dev 1)
  (hopen : s.dev.life.state = 0 ∨ sealedWord s.dev false (rn s.dev Reg.DBG_ADDR) = false)
include hp h1 hopen

theorem exec_dbgRead (ha : rn s.dev Reg.DBG_ADDR < 0xF00000000) (hr : refusal s.dev 2 2 0 0 (rn s.dev Reg.DBG_ADDR) = none) :
    exec (.dbgDataAccess none) s = .next { s with dev := rdSet { addrNext s.dev with
      life := { s.dev.life with dr := leOct 5 (memAny s.dev (rn s.dev Reg.DBG_ADDR)).toNat } } 2 (memAny s.dev (rn s.dev Reg.DBG_ADDR)) } := by
  have hread := dbgRead_of_scope (l := s.latch) hp h1
  have hmem : ∀ a, memAny (addrNext s.dev) a = memAny s.dev a := fun _ => rfl
  simp only [dbgRefused_open hopen, hr, Option.map_none, dbgRead, if_neg (show ¬ 0xF00000000 ≤ rn s.dev Reg.DBG_ADDR by omega), hmem] at hread
  exact exec_eq_next rfl hread

/-- A refusal by the regions recorded, outside BLANK. -/
def dbgRecord (d : Dev) (right t : ℕ) : Dev :=
  dbgErr (if d.life.state = 0 then addrNext d else mpuRecord 2 2 (2 + right) (rn d Reg.DBG_ADDR) t (addrNext d))

omit hp h1 hopen in
theorem dbgRecord_frame (d : Dev) (right t : ℕ) : (dbgRecord d right t).life = d.life ∧ bit (rg (dbgRecord d right t) Reg.DBG_STATUS) 1 = true ∧
    (dbgRecord d right t).tmp = d.tmp ∧ (dbgRecord d right t).mem = d.mem := by
  have hframe : ∀ e f : Dev, f = { e with regs := f.regs } → (dbgErr f).life = e.life ∧ (dbgErr f).tmp = e.tmp ∧ (dbgErr f).mem = e.mem := by
    intro e f h
    rw [h]
    exact ⟨rfl, rfl, rfl⟩
  unfold dbgRecord
  split
  · exact ⟨rfl, bit_dbgErr _, rfl, rfl⟩
  · obtain ⟨hlife, htmp, hmem⟩ := hframe _ _ (mpuRecord_frame 2 2 (2 + right) (rn d Reg.DBG_ADDR) t (addrNext d))
    exact ⟨hlife, bit_dbgErr _, htmp, hmem⟩

theorem exec_dbgRead_refused (hr : refusal s.dev 2 2 0 0 (rn s.dev Reg.DBG_ADDR) ≠ none) : ∃ t, exec (.dbgDataAccess none) s = .next t ∧
    t.dev.life = { s.dev.life with dr := zeros 5 } ∧ bit (rg t.dev Reg.DBG_STATUS) 1 = true ∧ t.dev.tmp = s.dev.tmp ∧ t.dev.mem = s.dev.mem := by
  obtain ⟨t, ht⟩ := Option.ne_none_iff_exists'.mp hr
  have hread := dbgRead_of_scope (l := s.latch) hp h1
  simp only [dbgRefused_open hopen, ht, Option.map_some] at hread
  obtain ⟨hlife, herr, htmp, hmem⟩ := dbgRecord_frame s.dev 0 t
  refine ⟨_, exec_eq_next rfl hread, ?_⟩
  rw [← dbgRecord.eq_1]
  generalize dbgRecord s.dev 0 t = e at *
  exact ⟨congrArg (fun l : Life => { l with dr := zeros 5 }) hlife, herr, htmp, hmem⟩

theorem exec_dbgWrite_refused (v : Word) (hr : refusal s.dev 2 2 0 1 (rn s.dev Reg.DBG_ADDR) ≠ none) : ∃ t, exec (.dbgDataAccess (some v)) s = .next t ∧
    bit (rg t.dev Reg.DBG_STATUS) 1 = true ∧ t.dev.mem = s.dev.mem ∧ t.dev.tmp = s.dev.tmp := by
  obtain ⟨t, ht⟩ := Option.ne_none_iff_exists'.mp hr
  have hwrite := dbgWrite_of_scope (l := s.latch) (v := v) hp h1
  simp only [dbgRefused_open hopen, ht, Option.map_some] at hwrite
  obtain ⟨-, herr, htmp, hmem⟩ := dbgRecord_frame s.dev 1 t
  exact ⟨_, exec_eq_next rfl hwrite, herr, hmem, htmp⟩

theorem exec_dbgWrite (v : Word) (ha : rn s.dev Reg.DBG_ADDR < 0xF00000000) (hr : refusal s.dev 2 2 0 1 (rn s.dev Reg.DBG_ADDR) = none)
    (hrom : romWord 2 (rn s.dev Reg.DBG_ADDR) = false) : ∃ t, exec (.dbgDataAccess (some v)) s = .next t ∧
      rg t.dev Reg.DBG_ADDR = BitVec.ofNat 36 (rn s.dev Reg.DBG_ADDR + 1) ∧
      ∀ b, memRd t.dev b = if b = rn s.dev Reg.DBG_ADDR then v else memRd s.dev b := by
  have hwrite := dbgWrite_of_scope (l := s.latch) (v := v) hp h1
  simp only [dbgRefused_open hopen, hr, Option.map_none, dbgStore, if_neg (show ¬ 0xF00000000 ≤ rn s.dev Reg.DBG_ADDR by omega), hrom,
    Bool.false_eq_true, if_false] at hwrite
  exact ⟨_, exec_eq_next rfl hwrite, (rg_rgSet ..).trans (if_pos rfl), fun b => tabGet_tabSet ..⟩

end

end

/-- Settles O50, a clause for each instruction and each access: `verifyResponse`, `dbgRefused` and `tamperEvent` say what each can do. -/
theorem towpath : Obligations.Towpath := by
  unfold Obligations.Towpath
  intro s d l gives select service opened probed
  have hopened : opened ↔ portOpen d = true := (portOpen_iff d).symm
  refine ⟨rfl, rfl, fun pins shift => rfl, fun ir => rfl, fun rstn pins shift => ⟨fun h => exec_eq_next rfl (tapExtest_of_permitted h),
    fun h => exec_eq_next rfl (tapExtest_refused h)⟩, fun h => exec_eq_next rfl (if_pos (hopened.mp h)),
    fun h => exec_debug_closed (fun hp => h (hopened.mpr hp)), fun r h => exec_eq_next rfl (tapAuth_bypass h),
    fun r h hb => exec_eq_next rfl (tapAuth_not_booted h hb), exec_auth_read,
    fun h hb hs => exec_eq_next rfl ((tapAuth_read h hb).trans (tapChallenge_of_not_serves hs)),
    ?_,
    fun sc n h hn => exec_same rfl (sessionOpen_waits h hn), fun sc n h hn hb h5 => exec_eq_next rfl (sessionOpen_opens h hn hb h5),
    fun h => exec_same rfl (by simp only [sessionOpen]; rw [show s.dev.life.sessNext = none from h]), ?_⟩
  · intro r c n h hb hr hc hv hp hsc h4 h30 h64 same
    refine ⟨fun ha hsig => exec_eq_next rfl ((tapAuth_response h hb hr).trans ?_), fun hno => ?_⟩
    · rw [verifyResponse_of_none (respFail_none hc hv hp hsc h4 h30 h64 ha hsig) hp]
      rfl
    · obtain ⟨f, hf⟩ := respFail_some hc hv hp hsc h4 h30 h64 hno
      exact ⟨_, exec_eq_next rfl ((tapAuth_response h hb hr).trans (congrArg _ (verifyResponse_of_some hf))), failedResponse_judged d⟩
  · intro port scope a next
    refine ⟨fun w h => exec_same rfl (dbgDataAccess_no_port h), fun v h => exec_same rfl (dbgCoreWrite_no_port h), fun w => exec_dbgData_no_scope,
      fun v => exec_dbgCore_no_scope, fun hp h1 ha => ⟨fun h0 hs => ⟨exec_dbgRead_sealed hp h1 h0 hs, fun v => exec_dbgWrite_sealed hp h1 h0 hs⟩,
        fun hopen => ⟨exec_dbgRead hp h1 hopen ha, exec_dbgRead_refused hp h1 hopen,
          fun hr hrom v => exec_dbgWrite hp h1 hopen v ha hr hrom, fun hr v => exec_dbgWrite_refused hp h1 hopen v hr⟩⟩,
      fun hp h0 v => exec_dbgCore hp h0⟩

end Sys2Proof.Machine

/-! Performance counters (O55, R445, R447 to R449). -/

namespace Sys2Proof.Machine

/-! ### LO and HI words -/

theorem ofLoHi_words {v : ℕ} (h : v < 2 ^ 72) : ofLoHi (loWord v) (hiWord v) = v := by
  simp only [ofLoHi, loWord, hiWord, wd, BitVec.toNat_ofNat]
  omega

/-! ### Counters of a group -/

section
variable {d : Dev} {m : ℕ}

theorem rg_pmuStore_zero (d : Dev) (m lo a : ℕ) :
    rg (pmuStore d m lo 0) a = if a = pmuReg m lo ∨ a = pmuReg m (lo + 1) then 0 else rg d a := by
  rw [pmuStore, rg_rgSet, rg_rgSet]
  by_cases h1 : a = pmuReg m (lo + 1)
  · rw [if_pos h1, if_pos (.inr h1)]
    rfl
  · rw [if_neg h1]
    by_cases h0 : a = pmuReg m lo
    · rw [if_pos h0, if_pos (.inl h0)]
      rfl
    · rw [if_neg h0, if_neg (by simp [h0, h1])]

theorem rg_pmuStores_zero (m : ℕ) (l : List ℕ) (d : Dev) (a : ℕ) : rg (l.foldl (fun d lo => pmuStore d m lo 0) d) a =
    if ∃ lo ∈ l, a = pmuReg m lo ∨ a = pmuReg m (lo + 1) then 0 else rg d a := by
  induction l generalizing d with
  | nil => simp
  | cons lo l ih =>
    rw [List.foldl_cons, ih, rg_pmuStore_zero]
    simp only [List.exists_mem_cons_iff]
    by_cases hl : ∃ lo ∈ l, a = pmuReg m lo ∨ a = pmuReg m (lo + 1)
    · rw [if_pos hl, if_pos (.inr hl)]
    · rw [if_neg hl]
      by_cases h0 : a = pmuReg m lo ∨ a = pmuReg m (lo + 1)
      · rw [if_pos h0, if_pos (.inl h0)]
      · rw [if_neg h0, if_neg (not_or.mpr ⟨h0, hl⟩)]

/-- The group's words that hold counters. -/
theorem counterWord_iff (k : ℕ) : (∃ lo ∈ (List.range 3).map (fun i => 0x04 + 2 * i) ++ (List.range 8).map (fun i => 0x18 + 2 * i), k = lo ∨ k = lo + 1) ↔
    4 ≤ k ∧ k < 10 ∨ 0x18 ≤ k ∧ k < 0x28 := by
  simp only [List.mem_append, List.mem_map, List.mem_range]
  constructor
  · rintro ⟨lo, ⟨i, hi, rfl⟩ | ⟨i, hi, rfl⟩, h⟩ <;> omega
  · rintro (h | h)
    · exact ⟨4 + 2 * ((k - 4) / 2), .inl ⟨(k - 4) / 2, by omega, rfl⟩, by omega⟩
    · exact ⟨0x18 + 2 * ((k - 0x18) / 2), .inr ⟨(k - 0x18) / 2, by omega, rfl⟩, by omega⟩

/-- The device with nothing but a core's group state changed. -/
theorem rg_pmuSet (d : Dev) (m : ℕ) (x : PmuCore) (a : ℕ) : rg (pmuSet d m x) a = rg d a := rfl

theorem rg_pmuClear (m : ℕ) (d : Dev) (a : ℕ) : rg (pmuClear m d) a = rg (((List.range 3).map (fun i => 0x04 + 2 * i) ++
    (List.range 8).map (fun i => 0x18 + 2 * i)).foldl (fun d lo => pmuStore d m lo 0) d) a := by
  unfold pmuClear
  extract_lets e
  split
  · rfl
  · exact rg_pmuSet ..

theorem rg_pmuClear_counter {k : ℕ} (hk : 4 ≤ k ∧ k < 10 ∨ 0x18 ≤ k ∧ k < 0x28) : rg (pmuClear m d) (pmuReg m k) = 0 := by
  obtain ⟨lo, hlo, h⟩ := (counterWord_iff k).mpr hk
  rw [rg_pmuClear, rg_pmuStores_zero, if_pos ⟨lo, hlo, h.imp (congrArg _) (congrArg _)⟩]

theorem rg_pmuClear_of_not {a : ℕ} (ha : ∀ k, 4 ≤ k ∧ k < 10 ∨ 0x18 ≤ k ∧ k < 0x28 → a ≠ pmuReg m k) : rg (pmuClear m d) a = rg d a := by
  rw [rg_pmuClear, rg_pmuStores_zero, if_neg ?_]
  rintro ⟨lo, hlo, h | h⟩
  · exact ha lo ((counterWord_iff _).mp ⟨lo, hlo, .inl rfl⟩) h
  · exact ha (lo + 1) ((counterWord_iff _).mp ⟨lo, hlo, .inr rfl⟩) h

theorem pmuCounts_iff (d : Dev) (m : ℕ) : pmuCounts d m = true ↔ bit (rg d (pmuReg m 0)) 0 = true ∧
    (bit (rg d (pmuReg m 0)) 1 = false ∨ fld (rg d (pmuReg m 2)) 10 0 = 0) := by
  by_cases h : fld (rg d (pmuReg m 2)) 10 0 = 0 <;> simp [pmuCounts, pmuCtl, pmuOvf, h]

/-- An overflow's registers: the counter's words are zero, its bit is set. -/
theorem rg_pmuOverflow {i : ℕ} (hm : isCore m = true) (hi : i < 11) (hc : pmuCounts d m = true) (a : ℕ) : rg (pmuOverflow m i d) a =
    if a = pmuReg m 2 then rg d (pmuReg m 2) ||| wd (2 ^ i) else if a = pmuReg m (pmuLo i) ∨ a = pmuReg m (pmuLo i + 1) then 0 else rg d a := by
  have hregs : rg (pmuOverflow m i d) a = rg (rgOr (pmuStore d m (pmuLo i) 0) (pmuReg m 2) (2 ^ i)) a := by
    unfold pmuOverflow
    rw [if_pos ⟨hm, hi, hc⟩]
    extract_lets e
    split
    · rfl
    · exact rg_pmuSet ..
  have hlo : 4 ≤ pmuLo i := by
    unfold pmuLo
    split <;> omega
  rw [hregs, rg_rgOr, rg_pmuStore_zero, rg_pmuStore_zero, if_neg (show ¬ (pmuReg m 2 = pmuReg m (pmuLo i) ∨ pmuReg m 2 = pmuReg m (pmuLo i + 1)) by
    unfold pmuReg; omega)]

end

section
variable {s : State} {m : ℕ}

theorem exec_pmuOverflow {i : ℕ} (hm : isCore m = true) (hi : i < 11) (hc : pmuCounts s.dev m = true) : ∃ t, exec (.pmuCounterOverflow m i) s = .next t ∧
    rg t.dev (pmuReg m (pmuLo i)) = 0 ∧ rg t.dev (pmuReg m (pmuLo i + 1)) = 0 ∧
    rg t.dev (pmuReg m 2) = rg s.dev (pmuReg m 2) ||| BitVec.ofNat 36 (2 ^ i) ∧
    ∀ a, a ≠ pmuReg m (pmuLo i) → a ≠ pmuReg m (pmuLo i + 1) → a ≠ pmuReg m 2 → rg t.dev a = rg s.dev a := by
  have hlo : 4 ≤ pmuLo i := by
    unfold pmuLo
    split <;> omega
  refine ⟨_, exec_eq_next rfl rfl, ?_, ?_, ?_, fun a h0 h1 h2 => ?_⟩
  · rw [rg_pmuOverflow hm hi hc, if_neg (by unfold pmuReg; omega), if_pos (.inl rfl)]
  · rw [rg_pmuOverflow hm hi hc, if_neg (by unfold pmuReg; omega), if_pos (.inr rfl)]
  · rw [rg_pmuOverflow hm hi hc, if_pos rfl]
    rfl
  · rw [rg_pmuOverflow hm hi hc, if_neg h2, if_neg (by simp [h0, h1])]

theorem exec_pmuOverflow_of_not {i : ℕ} (hc : ¬ pmuCounts s.dev m = true) : exec (.pmuCounterOverflow m i) s = .next s :=
  exec_same rfl (if_neg (fun ⟨_, _, h⟩ => hc h))

theorem isCore_lt_256 {g : ℕ} (h : isCore g = true) : g < 256 := by
  simp [isCore, isH, isF] at h
  omega

theorem pmuWord_pmuReg {g k : ℕ} (hg : isCore g = true) (hk : k < 256) : pmuWord (pmuReg g k) = some (g, k) := by
  have hlt := isCore_lt_256 hg
  have hb : pmuReg g k >>> 16 = 0x18 := by
    rw [Nat.shiftRight_eq_div_pow, pmuReg]
    omega
  have hd : pmuReg g k % 65536 / 256 = g := by unfold pmuReg; omega
  have hm : pmuReg g k % 65536 % 256 = k := by unfold pmuReg; omega
  simp only [pmuWord, hb, hd, hm, hg, and_self, if_true]

/-- The word that PMU_CLEAR writes to PMU_CTL. -/
theorem clearWord (w : Word) : bit (w ||| 4) 2 = true ∧ (w ||| 4) &&& 3 = w &&& 3 := by
  constructor
  · simp [bit]
  · ext i hi
    simp only [BitVec.getElem_and, BitVec.getElem_or]
    by_cases h : i = 2
    · subst h
      simp
    · have h4 : (4 : Word)[i] = false := by
        rw [BitVec.getElem_eq_testBit_toNat]
        have h2 : (4 : Word).toNat = 2 ^ 2 := rfl
        rw [h2, Nat.testBit_two_pow]
        simp
        omega
      rw [h4, Bool.or_false]

theorem pmuClearWrite_eq {pl g : ℕ} (hg : isCore g = true) (d : Dev) : pmuClearWrite m pl g d =
    if (m = 1 ∨ m = g) ∧ pl ≤ 1 then pmuClear g (pmuStart g (pmuCounts d g) (rgSet d (pmuReg g 0) (pmuCtl d g &&& 3))) else d := by
  obtain ⟨hbit, hand⟩ := clearWord (pmuCtl d g)
  simp only [pmuClearWrite, pmuWrite, pmuWord_pmuReg hg (show 0 < 256 by decide), hbit, hand, if_true, pmuMay, Bool.and_eq_true, Bool.or_eq_true,
    decide_eq_true_eq, ite_not]

theorem rg_pmuStart (g : ℕ) (was : Bool) (d : Dev) (a : ℕ) : rg (pmuStart g was d) a = rg d a := by
  unfold pmuStart
  split <;> rfl

theorem exec_pmuClear {pl g : ℕ} (hg : isCore g = true) (h : (m = 1 ∨ m = g) ∧ pl ≤ 1) : ∃ t, exec (.pmuClear m pl g) s = .next t ∧
    (∀ k, (4 ≤ k ∧ k < 10) ∨ (0x18 ≤ k ∧ k < 0x28) → rg t.dev (pmuReg g k) = 0) ∧ rg t.dev (pmuReg g 0) = rg s.dev (pmuReg g 0) &&& 3 ∧
    ∀ a, a / 256 ≠ 0x1800 + g → rg t.dev a = rg s.dev a := by
  refine ⟨_, exec_eq_next rfl ((pmuClearWrite_eq hg s.dev).trans (if_pos h)), fun k hk => ?_, ?_, fun a ha => ?_⟩
  · exact rg_pmuClear_counter hk
  · rw [rg_pmuClear_of_not (fun k hk h => by unfold pmuReg at h; omega), rg_pmuStart, rg_rgSet, if_pos rfl]
    rfl
  · have hlt := isCore_lt_256 hg
    rw [rg_pmuClear_of_not (fun k hk h => ha (by unfold pmuReg at h; omega)), rg_pmuStart, rg_rgSet, if_neg (fun h => ha (by unfold pmuReg at h; omega))]

end

/-! ### Samples -/

section
variable {s : State} {m : ℕ}

/-- The group of a core that has tagged an instruction. -/
def taggedCore (d : Dev) (m : ℕ) : PmuCore :=
  let x := pmuGet d m
  let ctl := rg d (pmuReg m 0x30)
  let period := fld ctl 20 1
  let j := fld ctl 24 21
  { x with tag := true, draws := if j = 0 then x.draws else x.draws.drop 1,
           interval := if j = 0 ∨ x.draws = [] then period else period - 2 ^ (j - 1) + x.draws.headD 0 % 2 ^ j }

theorem sampleInterval_eq (ctl : Word) (l : List ℕ) : sampleInterval ctl l.head? =
    if fld ctl 24 21 = 0 ∨ l = [] then fld ctl 20 1 else fld ctl 20 1 - 2 ^ (fld ctl 24 21 - 1) + l.headD 0 % 2 ^ fld ctl 24 21 := by
  cases l with
  | nil => simp [sampleInterval]
  | cons v l => simp [sampleInterval]

theorem sampleTag_eq (d : Dev) (m : ℕ) : sampleTag m d =
    if isCore m = true ∧ bit (rg d (pmuReg m 0x30)) 0 = true ∧ ¬ (pmuGet d m).tag = true then pmuSet d m (taggedCore d m) else d := by
  simp only [sampleTag, sampleInterval_eq]
  rfl

theorem exec_sampleTag (hm : isCore m = true) (hc : bit (rg s.dev (pmuReg m 0x30)) 0 = true) (ht : (pmuGet s.dev m).tag = false) :
    ∃ t, exec (.sampleTag m) s = .next t ∧ pmuGet t.dev m = taggedCore s.dev m ∧ (∀ n, n ≠ m → pmuGet t.dev n = pmuGet s.dev n) ∧
      t.dev.regs = s.dev.regs :=
  ⟨_, exec_eq_next rfl ((sampleTag_eq ..).trans (if_pos ⟨hm, hc, ne_true_of_eq_false ht⟩)), (pmuGet_pmuSet ..).trans (if_pos rfl),
    fun _ hn => (pmuGet_pmuSet ..).trans (if_neg hn), rfl⟩

theorem exec_sampleTag_of_not (h : isCore m = false ∨ bit (rg s.dev (pmuReg m 0x30)) 0 = false ∨ (pmuGet s.dev m).tag = true) :
    exec (.sampleTag m) s = .next s := by
  refine exec_same rfl ((sampleTag_eq ..).trans (if_neg ?_))
  rintro ⟨hm, hc, ht⟩
  rcases h with h | h | h
  · simp [h] at hm
  · simp [h] at hc
  · exact ht h

theorem exec_sampleRecord_untagged (i : SampleInfo) (h : (pmuGet s.dev m).tag = false) : exec (.sampleRecord m i) s = .next s :=
  exec_same rfl (if_pos (ne_true_of_eq_false h))

theorem exec_sampleRecord_lost (i : SampleInfo) (ht : (pmuGet s.dev m).tag = true) (hfull : 256 ≤ (pmuGet s.dev m).samples.length) :
    ∃ t, exec (.sampleRecord m i) s = .next t ∧ t.dev.regs = s.dev.regs ∧
      pmuGet t.dev m = { pmuGet s.dev m with tag := false, lost := min (2 ^ 27 - 1) ((pmuGet s.dev m).lost + 1) } := by
  exact ⟨_, exec_eq_next rfl ((if_neg (not_not_intro ht)).trans (if_pos hfull)), rfl, (pmuGet_pmuSet ..).trans (if_pos rfl)⟩

/-- The flags of a sample (Table 19.7). -/
def sampleFlags (i : SampleInfo) : ℕ :=
  i.op % 256 + 2 ^ 8 * (i.pl % 4) + 2 ^ 10 * b2n i.pipe + 2 ^ 11 * b2n i.paired + 2 ^ 12 * b2n i.retired + 2 ^ 13 * b2n i.mispredict +
    2 ^ 14 * b2n i.icMiss + 2 ^ 15 * b2n i.dcMiss + 2 ^ 16 * b2n i.exc

theorem b2n_le (b : Bool) : b2n b ≤ 1 := by cases b <;> decide

theorem sampleFlags_lt (i : SampleInfo) : sampleFlags i < 2 ^ 17 := by
  have h1 := b2n_le i.pipe
  have h2 := b2n_le i.paired
  have h3 := b2n_le i.retired
  have h4 := b2n_le i.mispredict
  have h5 := b2n_le i.icMiss
  have h6 := b2n_le i.dcMiss
  have h7 := b2n_le i.exc
  unfold sampleFlags
  omega

theorem sampleWords_eq (i : SampleInfo) : sampleWords i =
    [i.pc % 2 ^ 36, sampleFlags i, i.fetchAt % 2 ^ 36, i.decodeAt % 2 ^ 36, i.issueAt % 2 ^ 36, i.completeAt % 2 ^ 36, i.endAt % 2 ^ 36] := by
  have hlt := sampleFlags_lt i
  have hflags : (pack [(0, i.op % 256), (8, i.pl % 4), (10, b2n i.pipe), (11, b2n i.paired), (12, b2n i.retired), (13, b2n i.mispredict), (14, b2n i.icMiss),
      (15, b2n i.dcMiss), (16, b2n i.exc)]) = wd (sampleFlags i) := by
    simp only [pack, List.foldl_cons, List.foldl_nil, Nat.shiftLeft_eq, sampleFlags]
    congr 1
    omega
  simp only [sampleWords, hflags, wd, BitVec.toNat_ofNat, List.map_cons, List.map_nil, Nat.mod_eq_of_lt (show sampleFlags i < 2 ^ 36 by omega)]

theorem exec_sampleRecord (i : SampleInfo) (ht : (pmuGet s.dev m).tag = true) (hroom : (pmuGet s.dev m).samples.length < 256) :
    ∃ t, exec (.sampleRecord m i) s = .next t ∧
      pmuGet t.dev m = { pmuGet s.dev m with tag := false, samples := (pmuGet s.dev m).samples ++ [sampleWords i ++ [s.dev.pas.count % 2 ^ 36]] } ∧
      rg t.dev (pmuReg m 2) = if (pmuGet s.dev m).samples.length + 1 = fld (rg s.dev (pmuReg m 0x30)) 33 25 then rg s.dev (pmuReg m 2) ||| 2048
        else rg s.dev (pmuReg m 2) := by
  by_cases hc : (pmuGet s.dev m).samples.length + 1 = fld (rg s.dev (pmuReg m 0x30)) 33 25
  · refine ⟨_, exec_eq_next rfl ((if_neg (not_not_intro ht)).trans ((if_neg (by omega)).trans (if_pos hc))), (pmuGet_pmuSet ..).trans (if_pos rfl), ?_⟩
    rw [if_pos hc]
    exact (rg_rgOr ..).trans (if_pos rfl)
  · refine ⟨_, exec_eq_next rfl ((if_neg (not_not_intro ht)).trans ((if_neg (by omega)).trans (if_neg hc))), (pmuGet_pmuSet ..).trans (if_pos rfl), ?_⟩
    rw [if_neg hc]
    rfl

/-! ### A read of the sample data -/

theorem sampleData_nil {d : Dev} (h : (pmuGet d m).samples = []) : sampleData m d = (0, d) := by
  simp only [sampleData, h]

/-- The group after a word of its oldest sample has been read. -/
def sampleTaken (x : PmuCore) (rest : List (List ℕ)) : PmuCore := if x.idx = 7 then { x with samples := rest, idx := 0 } else { x with idx := x.idx + 1 }

theorem sampleData_cons {d : Dev} {y : List ℕ} {rest : List (List ℕ)} (h : (pmuGet d m).samples = y :: rest) :
    sampleData m d = (wd (y.getD (pmuGet d m).idx 0), pmuSet d m (sampleTaken (pmuGet d m) rest)) := by
  simp only [sampleData, sampleTaken, h]

/-- What a read that a core makes leaves: the word in its read data, recorded. -/
structure ReadBy (reader : ℕ) (w : Word) (d e : Dev) : Prop where
  rdata : tabGet 0 e.rdata reader = w
  pmu : e.pmu = d.pmu
  regs : e.regs = d.regs

theorem readBy_rdSet (reader : ℕ) (w : Word) (d : Dev) (pas : Pas) (rpl : Rpl) : ReadBy reader w d (rdSet { d with pas := pas, rpl := rpl } reader w) :=
  ⟨(tabGet_tabSet ..).trans (if_pos rfl), rfl, rfl⟩

theorem isFieldMaster_core {reader : ℕ} (h : isCore reader = true) : isFieldMaster reader = isF reader := by
  have := isCore_lt_256 h
  by_cases hc : reader = 0xC1
  · subst hc
    exact absurd h (by decide)
  · simp [isFieldMaster, hc]

/-- A core's read of the sample data: zero of a core on the other island. -/
theorem readBy_smpData {reader : ℕ} (l d : Dev) (hr : isCore reader = true) (hm : isCore m = true) (hrep : replayed d reader = false) :
    ReadBy reader (if isFieldMaster reader = isF m then (sampleData m d).1 else 0) (if isFieldMaster reader = isF m then (sampleData m d).2 else d)
      (pmuSmpDataRead l reader m d) := by
  have hlt := isCore_lt_256 hm
  have hreg : pmuReg m 0x32 / 2 ^ 16 = 0x18 ∧ pmuReg m 0x32 < 2 ^ 24 := by
    unfold pmuReg
    omega
  have hwin : inHostWindow (0xF00000000 + pmuReg m 0x32) = false := by
    simp [inHostWindow, inRange]
    omega
  have hmod : (0xF00000000 + pmuReg m 0x32) % 2 ^ 24 = pmuReg m 0x32 := by omega
  have hread : regRead l reader 0 (pmuReg m 0x32) d =
      if isFieldMaster reader = isF m then ((sampleData m d).1, recordRead (sampleData m d).2 reader 3 (sampleData m d).1.toNat) else (0, d) := by
    have hne : ∀ a, a / 2 ^ 16 ≠ 0x18 → pmuReg m 0x32 ≠ a := fun a ha h => ha (h ▸ hreg.1)
    unfold regRead
    rw [if_neg (hne _ (by decide)), if_neg (hne _ (by decide)), if_neg (hne _ (by decide)), pmuWord_pmuReg hm (by decide)]
    by_cases hi : isFieldMaster reader = isF m
    · simp [hi, noteRead, hr]
    · simp [hi]
  have hdev : pmuSmpDataRead l reader m d = rdSet (rplItem reader 2 [0xF00000000 + pmuReg m 0x32, (regRead l reader 0 (pmuReg m 0x32) d).1.toNat]
      (regRead l reader 0 (pmuReg m 0x32) d).2) reader (regRead l reader 0 (pmuReg m 0x32) d).1 := by
    simp only [pmuSmpDataRead, hr, if_true, coreRegRead, deviceLoad, hrep, hwin, hmod, Bool.false_eq_true, if_false]
  rw [hdev]
  obtain ⟨r, hrpl⟩ := rplItem_eq reader 2 [0xF00000000 + pmuReg m 0x32, (regRead l reader 0 (pmuReg m 0x32) d).1.toNat]
    (regRead l reader 0 (pmuReg m 0x32) d).2
  rw [hrpl, hread]
  split
  · exact readBy_rdSet reader _ (sampleData m d).2 _ r
  · exact readBy_rdSet reader 0 d d.pas r

theorem pmuGet_congr {d e : Dev} (h : e.pmu = d.pmu) (n : ℕ) : pmuGet e n = pmuGet d n := by rw [pmuGet, pmuGet, h]

theorem exec_smpData {reader : ℕ} {y : List ℕ} {rest : List (List ℕ)}
    (hr : isCore reader = false ∨ isCore m = true ∧ replayed s.dev reader = false ∧ isFieldMaster reader = isF m)
    (hs : (pmuGet s.dev m).samples = y :: rest) : ∃ t, exec (.pmuSmpDataRead reader m) s = .next t ∧
      tabGet 0 t.dev.rdata reader = BitVec.ofNat 36 (y.getD (pmuGet s.dev m).idx 0) ∧ pmuGet t.dev m = sampleTaken (pmuGet s.dev m) rest := by
  have hself : pmuGet (sampleData m s.dev).2 m = sampleTaken (pmuGet s.dev m) rest := by
    rw [sampleData_cons hs]
    exact (pmuGet_pmuSet ..).trans (if_pos rfl)
  by_cases hc : isCore reader = true
  · obtain ⟨hm, hrep, hisl⟩ := hr.resolve_left (by simp [hc])
    obtain ⟨hdata, hpmu, -⟩ := readBy_smpData (latchOf s reader) s.dev hc hm hrep
    rw [if_pos hisl] at hdata hpmu
    refine ⟨_, exec_eq_next rfl rfl, hdata.trans ?_, (pmuGet_congr hpmu m).trans hself⟩
    rw [sampleData_cons hs]
    rfl
  · refine ⟨_, exec_eq_next rfl (if_neg hc), ?_, hself⟩
    rw [pmuSmpRead, sampleData_cons hs]
    exact (tabGet_tabSet ..).trans (if_pos rfl)

theorem exec_smpData_empty {reader : ℕ} (hr : isCore reader = false) (hs : (pmuGet s.dev m).samples = []) :
    exec (.pmuSmpDataRead reader m) s = .next { s with dev := { s.dev with rdata := tabSet 0 s.dev.rdata reader 0 } } := by
  refine exec_eq_next rfl ((if_neg (ne_true_of_eq_false hr)).trans ?_)
  rw [pmuSmpRead, sampleData_nil hs]
  rfl

theorem exec_smpData_none {reader : ℕ} (hr : isCore reader = true) (hm : isCore m = true) (hrep : replayed s.dev reader = false)
    (h : (pmuGet s.dev m).samples = [] ∨ isFieldMaster reader ≠ isF m) : ∃ t, exec (.pmuSmpDataRead reader m) s = .next t ∧
      tabGet 0 t.dev.rdata reader = 0 ∧ t.dev.pmu = s.dev.pmu ∧ t.dev.regs = s.dev.regs := by
  have hread := readBy_smpData (latchOf s reader) s.dev hr hm hrep
  have hzero : (if isFieldMaster reader = isF m then (sampleData m s.dev).1 else 0) = 0 ∧
      (if isFieldMaster reader = isF m then (sampleData m s.dev).2 else s.dev) = s.dev := by
    rcases h with h | h
    · rw [sampleData_nil h]
      exact ⟨ite_self _, ite_self _⟩
    · exact ⟨if_neg h, if_neg h⟩
  rw [hzero.1, hzero.2] at hread
  obtain ⟨hdata, hpmu, hregs⟩ := hread
  exact ⟨_, exec_eq_next rfl rfl, hdata, hpmu, hregs⟩

end

/-! ### Bandwidth monitors -/

section
variable {s : State} {d : Dev}

/-- Word k of a monitor's four: LAST and MAX, LO and HI. -/
def bwReg (i k : ℕ) : ℕ := Reg.PMU_BW_LAST_LO + 4 * i + k

theorem bwReg_ne {i j k l : ℕ} (hk : k < 4) (hl : l < 4) (h : i ≠ j ∨ k ≠ l) : bwReg i k ≠ bwReg j l := by
  unfold bwReg
  omega

theorem bwReg_eq (i : ℕ) : Reg.PMU_BW_LAST_LO + 4 * i = bwReg i 0 ∧ Reg.PMU_BW_LAST_HI + 4 * i = bwReg i 1 ∧ Reg.PMU_BW_MAX_LO + 4 * i = bwReg i 2 ∧
    Reg.PMU_BW_MAX_HI + 4 * i = bwReg i 3 := by
  unfold bwReg Reg.PMU_BW_LAST_LO Reg.PMU_BW_LAST_HI Reg.PMU_BW_MAX_LO Reg.PMU_BW_MAX_HI
  omega

/-- A monitor at the end of its window. -/
def bwStep (v : ℕ) (d : Dev) (i : ℕ) : Dev :=
  let mx := max v (ofLoHi (rg d (bwReg i 2)) (rg d (bwReg i 3)))
  rgSet (rgSet (rgSet (rgSet d (bwReg i 0) (loWord v)) (bwReg i 1) (hiWord v)) (bwReg i 2) (loWord mx)) (bwReg i 3) (hiWord mx)

theorem rg_bwStep_self (v : ℕ) (d : Dev) (i : ℕ) : let mx := max v (ofLoHi (rg d (bwReg i 2)) (rg d (bwReg i 3)))
    rg (bwStep v d i) (bwReg i 0) = loWord v ∧ rg (bwStep v d i) (bwReg i 1) = hiWord v ∧ rg (bwStep v d i) (bwReg i 2) = loWord mx ∧
      rg (bwStep v d i) (bwReg i 3) = hiWord mx := by
  have hne : ∀ k l, k < 4 → l < 4 → k ≠ l → bwReg i k ≠ bwReg i l := fun k l hk hl h => bwReg_ne hk hl (.inr h)
  intro mx
  simp [bwStep, mx, hne]

theorem rg_bwStep_of_ne (v : ℕ) (d : Dev) {i j k : ℕ} (h : j ≠ i) (hk : k < 4) : rg (bwStep v d i) (bwReg j k) = rg d (bwReg j k) := by
  have hne : ∀ l, l < 4 → bwReg j k ≠ bwReg i l := fun l hl => bwReg_ne hk hl (.inl h)
  simp [bwStep, hne]

theorem rg_bwSteps_of_not_mem (v : ℕ → ℕ) (l : List ℕ) (d : Dev) {j k : ℕ} (h : j ∉ l) (hk : k < 4) :
    rg (l.foldl (fun d i => bwStep (v i) d i) d) (bwReg j k) = rg d (bwReg j k) := by
  induction l generalizing d with
  | nil => rfl
  | cons i l ih =>
    simp only [List.mem_cons, not_or] at h
    rw [List.foldl_cons, ih _ h.2, rg_bwStep_of_ne _ _ h.1 hk]

/-- The monitors of a list without repeats, each by its own step alone. -/
theorem rg_bwSteps (v : ℕ → ℕ) (l : List ℕ) (hl : l.Nodup) (d : Dev) {j k : ℕ} (h : j ∈ l) (hk : k < 4) :
    rg (l.foldl (fun d i => bwStep (v i) d i) d) (bwReg j k) = rg (bwStep (v j) d j) (bwReg j k) := by
  induction l generalizing d with
  | nil => cases h
  | cons i l ih =>
    obtain ⟨hi, hl⟩ := List.nodup_cons.mp hl
    rw [List.foldl_cons]
    by_cases hj : j = i
    · subst hj
      exact rg_bwSteps_of_not_mem v l _ hi hk
    · have hself : ∀ n, n < 4 → rg (bwStep (v i) d i) (bwReg j n) = rg d (bwReg j n) := fun n hn => rg_bwStep_of_ne _ _ hj hn
      rw [ih hl _ ((List.mem_cons.mp h).resolve_left hj)]
      obtain ⟨a0, a1, a2, a3⟩ := rg_bwStep_self (v j) (bwStep (v i) d i) j
      obtain ⟨b0, b1, b2, b3⟩ := rg_bwStep_self (v j) d j
      simp only [hself 2 (by decide), hself 3 (by decide)] at a2 a3
      rcases (by omega : k = 0 ∨ k = 1 ∨ k = 2 ∨ k = 3) with rfl | rfl | rfl | rfl
      · rw [a0, b0]
      · rw [a1, b1]
      · rw [a2, b2]
      · rw [a3, b3]

theorem bw_bwSteps (v : ℕ → ℕ) (l : List ℕ) (d : Dev) : (l.foldl (fun d i => bwStep (v i) d i) d).bw = d.bw := by
  induction l generalizing d with
  | nil => rfl
  | cons i l ih => rw [List.foldl_cons, ih]; rfl

theorem bwClose_eq (counts : List ℕ) (h : d.pas.count % rn d Reg.PMU_BW_WINDOW = 0) (hl : d.pas.count ≠ d.bw.last) :
    bwClose counts d = (List.range 30).foldl (fun e i => bwStep (bwCount d counts i) e i) { d with bw := { last := d.pas.count } } := by
  rw [bwClose, if_neg (by simp [h, hl])]
  refine congrArg (fun f => List.foldl f _ _) (funext₂ (fun e i => ?_))
  obtain ⟨e0, e1, e2, e3⟩ := bwReg_eq i
  simp only [bwStep, ← e0, ← e1, ← e2, ← e3]

theorem exec_bwClose (counts : List ℕ) (h : s.dev.pas.count % rn s.dev Reg.PMU_BW_WINDOW = 0) (hl : s.dev.pas.count ≠ s.dev.bw.last) :
    ∃ t, exec (.bandwidthWindowClose counts) s = .next t ∧ t.dev.bw = { last := s.dev.pas.count } ∧ ∀ i, i < 30 →
      ofLoHi (rg t.dev (Reg.PMU_BW_LAST_LO + 4 * i)) (rg t.dev (Reg.PMU_BW_LAST_HI + 4 * i)) = bwCount s.dev counts i ∧
      (ofLoHi (rg s.dev (Reg.PMU_BW_MAX_LO + 4 * i)) (rg s.dev (Reg.PMU_BW_MAX_HI + 4 * i)) < 2 ^ 48 →
        ofLoHi (rg t.dev (Reg.PMU_BW_MAX_LO + 4 * i)) (rg t.dev (Reg.PMU_BW_MAX_HI + 4 * i)) =
          max (bwCount s.dev counts i) (ofLoHi (rg s.dev (Reg.PMU_BW_MAX_LO + 4 * i)) (rg s.dev (Reg.PMU_BW_MAX_HI + 4 * i)))) := by
  refine ⟨_, exec_eq_next rfl (bwClose_eq counts h hl), bw_bwSteps .., fun i hi => ?_⟩
  have hstep : ∀ k, k < 4 → _ := fun k hk => rg_bwSteps (bwCount s.dev counts) (List.range 30) List.nodup_range
    { s.dev with bw := { last := s.dev.pas.count } } (List.mem_range.mpr hi) hk
  obtain ⟨b0, b1, b2, b3⟩ := rg_bwStep_self (bwCount s.dev counts i) { s.dev with bw := { last := s.dev.pas.count } } i
  have hv : bwCount s.dev counts i < 2 ^ 48 := by unfold bwCount; omega
  obtain ⟨e0, e1, e2, e3⟩ := bwReg_eq i
  rw [e0, e1, e2, e3, hstep 0 (by decide), hstep 1 (by decide), hstep 2 (by decide), hstep 3 (by decide), b0, b1, b2, b3]
  refine ⟨ofLoHi_words (by omega), fun hold => ofLoHi_words ?_⟩
  exact max_lt (by omega) (by
    have : ofLoHi (rg s.dev (bwReg i 2)) (rg s.dev (bwReg i 3)) < 2 ^ 72 := by omega
    exact this)

/-- A monitor's MAX cleared. -/
def bwZero (d : Dev) (i : ℕ) : Dev := rgSet (rgSet d (bwReg i 2) 0) (bwReg i 3) 0

theorem bwClear_eq (d : Dev) : bwClear d = (List.range 30).foldl bwZero d := by
  refine congrArg (fun f => List.foldl f _ _) (funext₂ (fun e i => ?_))
  obtain ⟨-, -, e2, e3⟩ := bwReg_eq i
  rw [bwZero, ← e2, ← e3]

theorem rg_bwZeros (l : List ℕ) (d : Dev) (j k : ℕ) (hk : k < 4) :
    rg (l.foldl bwZero d) (bwReg j k) = if j ∈ l ∧ 2 ≤ k then 0 else rg d (bwReg j k) := by
  induction l generalizing d with
  | nil => simp
  | cons i l ih =>
    rw [List.foldl_cons, ih]
    by_cases hl : j ∈ l ∧ 2 ≤ k
    · rw [if_pos hl, if_pos ⟨List.mem_cons_of_mem _ hl.1, hl.2⟩]
    · rw [if_neg hl, bwZero, rg_rgSet, rg_rgSet]
      have heq : ∀ n, n < 4 → (bwReg j k = bwReg i n ↔ j = i ∧ k = n) := fun n hn => by
        unfold bwReg
        omega
      simp only [heq 3 (by decide), heq 2 (by decide), List.mem_cons]
      by_cases hj : j = i ∧ 2 ≤ k
      · rcases (by omega : k = 2 ∨ k = 3) with rfl | rfl <;> simp [hj.1]
      · rw [if_neg (by omega), if_neg (by omega), if_neg (fun h => h.1.elim (fun h1 => hj ⟨h1, h.2⟩) (fun h1 => hl ⟨h1, h.2⟩))]

theorem exec_bwClear : ∃ t, exec .pmuBwClear s = .next t ∧
    (∀ i, i < 30 → rg t.dev (Reg.PMU_BW_MAX_LO + 4 * i) = 0 ∧ rg t.dev (Reg.PMU_BW_MAX_HI + 4 * i) = 0) ∧
    ∀ i, i < 30 → rg t.dev (Reg.PMU_BW_LAST_LO + 4 * i) = rg s.dev (Reg.PMU_BW_LAST_LO + 4 * i) ∧
      rg t.dev (Reg.PMU_BW_LAST_HI + 4 * i) = rg s.dev (Reg.PMU_BW_LAST_HI + 4 * i) := by
  refine ⟨_, exec_eq_next rfl (bwClear_eq s.dev), fun i hi => ?_, fun i hi => ?_⟩
  · obtain ⟨-, -, e2, e3⟩ := bwReg_eq i
    rw [e2, e3]
    exact ⟨(rg_bwZeros _ _ i 2 (by decide)).trans (if_pos ⟨List.mem_range.mpr hi, by decide⟩),
      (rg_bwZeros _ _ i 3 (by decide)).trans (if_pos ⟨List.mem_range.mpr hi, by decide⟩)⟩
  · obtain ⟨e0, e1, -, -⟩ := bwReg_eq i
    rw [e0, e1]
    exact ⟨(rg_bwZeros _ _ i 0 (by decide)).trans (if_neg (by simp)), (rg_bwZeros _ _ i 1 (by decide)).trans (if_neg (by simp))⟩

end

/-- Settles O55, a clause for each command: what it writes of the group, of the sample buffer and of the monitors' registers. -/
theorem performanceCounters : Obligations.PerformanceCounters := by
  unfold Obligations.PerformanceCounters
  intro s d
  refine ⟨fun m i hm hi => ?_, fun m pl g hg => ⟨exec_pmuClear hg, fun h => exec_same rfl ((pmuClearWrite_eq hg d).trans (if_neg h))⟩, fun m => ?_, ?_,
    exec_bwClear⟩
  · intro lo counts
    have hcounts : counts ↔ pmuCounts d m = true := (pmuCounts_iff d m).symm
    exact ⟨fun h => exec_pmuOverflow hm hi (hcounts.mp h), fun h => exec_pmuOverflow_of_not (fun hc => h (hcounts.mpr hc))⟩
  · intro x ctl period j tagged
    refine ⟨exec_sampleTag, exec_sampleTag_of_not, exec_sampleRecord_untagged, exec_sampleRecord_lost, fun i => ?_,
      fun reader y rest hr hs _ => exec_smpData hr hs, fun reader => exec_smpData_empty, fun reader => exec_smpData_none⟩
    intro flags ws ht hroom
    have hws : sampleWords i ++ [d.pas.count % 2 ^ 36] = ws := congrArg (· ++ [d.pas.count % 2 ^ 36]) (sampleWords_eq i)
    rw [← hws]
    exact exec_sampleRecord i ht hroom
  · intro w
    exact ⟨fun counts h => exec_same rfl (if_pos h), exec_bwClose⟩

end Sys2Proof.Machine

/-! What the end of an operation leaves alone (O48, O51, O52): the blocks that no completion reaches, and the registers below the MPU's. -/

namespace Sys2Proof.Machine

/-- A device without what a completion may change. -/
structure Calm where
  rest : Dev
  slots : Tab Slot
  low : ℕ → Word

/-- The calm part of a device. -/
def calm (d : Dev) : Calm where
  rest := { d with cores := [], lkg := {}, cmds := [], host := [], ops := [], regs := [], mem := [], pas := {}, slots := [] }
  slots := d.slots
  low := fun a => if a < 0x070000 then rg d a else 0

/-- An update of what a completion may change. -/
theorem calm_with (d : Dev) (cores lkg cmds host ops mem pas) :
    calm { d with cores := cores, lkg := lkg, cmds := cmds, host := host, ops := ops, mem := mem, pas := pas } = calm d := rfl

theorem calm_ite (c : Prop) [Decidable c] (a b : Dev) : calm (if c then a else b) = if c then calm a else calm b := apply_ite calm c a b

theorem calm_foldl {α : Type} {g : Dev → α → Dev} (h : ∀ d x, calm (g d x) = calm d) (l : List α) (d : Dev) : calm (l.foldl g d) = calm d := by
  induction l generalizing d with
  | nil => rfl
  | cons x l ih => rw [List.foldl_cons, ih, h]

theorem calm_rgSet {a : ℕ} (h : 0x070000 ≤ a) (d v) : calm (rgSet d a v) = calm d := by
  have hlow : (calm (rgSet d a v)).low = (calm d).low := by
    funext b
    by_cases hb : b < 0x070000
    · exact (if_pos hb).trans (((rg_rgSet ..).trans (if_neg (by omega))).trans (if_pos hb).symm)
    · exact (if_neg hb).trans (if_neg hb).symm
  have hrest : (calm (rgSet d a v)).rest = (calm d).rest ∧ (calm (rgSet d a v)).slots = (calm d).slots := ⟨rfl, rfl⟩
  generalize calm (rgSet d a v) = x at *
  generalize calm d = y at *
  cases x
  cases y
  obtain ⟨rfl, rfl⟩ := hrest
  exact congrArg _ hlow

theorem calm_rgAdd {a : ℕ} (h : 0x070000 ≤ a) (d k) : calm (rgAdd d a k) = calm d := calm_rgSet h ..

theorem calm_mpuRecord (m ident access a detail d) : calm (mpuRecord m ident access a detail d) = calm d := by
  unfold mpuRecord
  extract_lets b e
  have he : calm e = calm d := calm_rgAdd (by omega) ..
  split
  · exact he
  · rw [calm_rgSet (by omega), calm_rgSet (by omega), he]

theorem calm_loseResv (d own field a n) : calm (loseResv d own field a n) = calm d := (rfl)

theorem calm_engWrite (m ident col : ℕ) (l : List (ℕ × ℕ)) (ws : List Word) (d : Dev) : calm (engWrite m ident col l ws d).2 = calm d := by
  induction l generalizing ws d with
  | nil => rfl
  | cons x l ih =>
    unfold engWrite
    split
    · exact calm_mpuRecord ..
    · rw [ih, calm_loseResv]
      exact calm_with d _ _ _ _ _ _ _

theorem calm_engWriteAt (d m ident col a ws) : calm (engWriteAt d m ident col a ws).2 = calm d := by
  simp only [engWriteAt, calm_engWrite]

theorem calm_hostWr (d a o) : calm (hostWr d a o) = calm d := (rfl)

theorem calm_fnWrite (d f a o) : calm (fnWrite d f a o) = calm d := by
  simp only [fnWrite, calm_ite, ite_self, calm_hostWr, calm_rgAdd (show 0x070000 ≤ Reg.WHF_LATE_DISCARDS by decide)]

theorem calm_memWrOct (d dense a o) : calm (memWrOct d dense a o) = calm d := (rfl)

theorem calm_engOuts (o : Op) (l : List (ℕ × Octets)) (d : Dev) : calm (engOuts o l d).2 = calm d := by
  induction l generalizing d with
  | nil => rfl
  | cons x l ih =>
    unfold engOuts
    have h := calm_engWriteAt d o.engine o.served (ctxCol o.served) x.1 (packOct o.dense x.2)
    split
    next e hw => rw [ih, ← h, hw]
    next => exact h

theorem calm_writeOuts (d o) : calm (writeOuts d o).2 = calm d := by
  unfold writeOuts
  split
  · exact calm_foldl (fun _ _ => calm_fnWrite ..) ..
  · rfl
  · exact calm_foldl (fun _ _ => calm_memWrOct ..) ..
  · exact calm_engOuts ..

theorem calm_written (d o) : calm (written d o).1 = calm d := by
  simp only [written, calm_writeOuts]

theorem calm_setOp (d o) : calm (setOp d o) = calm d := (rfl)

theorem calm_coreAllows (d m pl right a n) : calm (coreAllows d m pl right a n).2 = calm d := by
  unfold coreAllows
  split
  · rfl
  · split <;> simp only [calm_mpuRecord]

theorem calm_pushInput (d core cls key pass data) : calm (pushInput d core cls key pass data) = calm d := (rfl)

theorem calm_noteMem (d mems op) : calm (noteMem d mems op) = calm d := (rfl)

theorem calm_postFq (d k pass) {t} (h : postFq d k pass = some t) : calm t = calm d := by
  unfold postFq at h
  repeat' split at h
  all_goals cases h
  all_goals simp only [calm_ite, ite_self, calm_coreAllows, calm_memWrOct, calm_setOp, calm_pushInput, calm_noteMem]

theorem calm_postFqs (n : ℕ) (k : ℕ × ℕ) (pass : ℕ) (d : Dev) : calm (postFqs n k pass d) = calm d := by
  induction n generalizing d with
  | zero => rfl
  | succ n ih =>
    unfold postFqs
    split
    next h => rw [ih, calm_postFq _ _ _ h]
    next => rfl

theorem calm_dropOp (d id) : calm (dropOp d id) = calm d := (rfl)

theorem calm_queueBarge (d queue b) : calm (queueBarge d queue b) = calm d := (rfl)

theorem calm_cmdDone (d blk master st sub extra pass) : calm (cmdDone d blk master st sub extra pass) = calm d := (rfl)

theorem calm_report (d o due pass) : calm (report d o due pass) = calm d := by
  have hlost : 0x070000 ≤ Reg.LKG_LOST := by decide
  unfold report
  repeat' split
  all_goals simp only [calm_foldl, implies_true, calm_setOp, calm_postFqs, calm_rgAdd hlost, calm_dropOp, calm_queueBarge, calm_noteMem, calm_cmdDone]

theorem calm_deliver (d o due pass) : calm (deliver d o due pass) = calm d := by
  simp only [deliver, wipeReport, calm_written, calm_report]

/-- The key slots without an operation's reservation. -/
def slotsWithout (id : ℕ) (t : Tab Slot) : Tab Slot :=
  t.filterMap (fun e => let s := if e.2.resv = some id then { e.2 with resv := none } else e.2; if s = {} then none else some (e.1, s))

theorem calm_unreserve (d id) : calm (unreserve d id) = { calm d with slots := slotsWithout id d.slots } := (rfl)

theorem calm_lateDrop (d o) : calm (lateDrop d o) = calm d := by
  unfold lateDrop
  rw [calm_rgAdd, calm_dropOp]
  split <;> decide

theorem calm_endWith (d o st sub due pass) : calm (endWith d o st sub due pass) = { calm d with slots := slotsWithout o.id d.slots } := by
  simp only [endWith, calm_ite, calm_lateDrop, calm_deliver, ite_self, calm_unreserve]

theorem rg_of_calm {d e : Dev} {x : Tab Slot} (h : calm e = { calm d with slots := x }) {a : ℕ} (ha : a < 0x070000) : rg e a = rg d a := by
  have hlow : (calm e).low a = (calm d).low a := by rw [h]
  exact ((if_pos ha).symm.trans hlow).trans (if_pos ha)

end Sys2Proof.Machine

/-! HOLD_UNLOCK and the release of HOLD (O48, R375 to R377). -/

namespace Sys2Proof.Machine

/-! ### A token that fails -/

section
variable {s : State}

/-- What a HOLD_UNLOCK token refused with a sub-code leaves: its operation ended, HOLD in force, and the event of source 37 where the sub-code counts. -/
def UnlockRefused (s : State) (id sub : ℕ) : Prop :=
  ∃ t y, exec (.holdUnlockVerified id) s = .next t ∧ findOp t.dev id = some y ∧ y.phase = .ended ∧ y.status = St.denied ∧ y.sub = sub ∧
    y.dueAt = s.dev.pas.count + 1 ∧ t.dev.keep.hold = s.dev.keep.hold ∧ t.dev.tmp.release = s.dev.tmp.release ∧
    fld (tmpStatus t.dev 37) 35 10 = (if sub = 4 ∨ sub = 5 then fld (tmpStatus s.dev 37) 35 10
      else min (2 ^ 26 - 1) (fld (tmpStatus s.dev 37) 35 10 + 1))

theorem unlockVerified_some {d : Dev} {id sub : ℕ} {o : Op} (hf : findOp d id = some o) (hp : o.phase = .admitted) (hop : o.opcode = 0x5A)
    (hc : unlockCheck d o.input = some sub) : unlockVerified id d =
      if sub ∈ [1, 2, 3, 6] then tmpEvent 37 (endWith d o St.denied sub (d.pas.count + 1) d.pas.count)
      else endWith d o St.denied sub (d.pas.count + 1) d.pas.count := by
  simp only [unlockVerified, hf, hp, hop, ne_eq, not_true_eq_false, or_self, if_false, hc]

theorem unlockVerified_none {d : Dev} {id : ℕ} {o : Op} (hf : findOp d id = some o) (hp : o.phase = .admitted) (hop : o.opcode = 0x5A)
    (hc : unlockCheck d o.input = none) : unlockVerified id d = { d with tmp := { d.tmp with release := some (id, leAt o.input 5 1) } } := by
  simp only [unlockVerified, hf, hp, hop, ne_eq, not_true_eq_false, or_self, if_false, hc]
  rfl

/-- An event of a source keeps the release noted and the cause. -/
theorem release_tmpEvent (src : ℕ) (d : Dev) : (tmpEvent src d).tmp.release = d.tmp.release ∧ (tmpEvent src d).tmp.cause = d.tmp.cause := by
  dsimp only [tmpEvent]
  split
  · exact ⟨rfl, rfl⟩
  · split
    · exact ⟨rfl, rfl⟩
    · split <;> exact ⟨rfl, rfl⟩

theorem unlockRefused {id r k sub : ℕ} {o : Op} (hf : findOp s.dev id = some o) (hp : o.phase = .admitted) (hop : o.opcode = 0x5A)
    (hsrc : o.src = .ring r k) (hdead : o.dead = false) (hsub : 1 ≤ sub ∧ sub ≤ 6) (hc : unlockCheck s.dev o.input = some sub) :
    UnlockRefused s id sub := by
  have hfind : ∃ y, findOp (endWith s.dev o St.denied sub (s.dev.pas.count + 1) s.dev.pas.count) id = some y ∧ y.phase = .ended ∧
      y.status = St.denied ∧ y.sub = sub ∧ y.dueAt = s.dev.pas.count + 1 := by
    obtain rfl := findOp_id hf
    rw [endWith_ring hsrc hdead]
    exact ⟨_, findOp_setOp (d := unreserve s.dev o.id) (x := o) hf, rfl, rfl, rfl, rfl⟩
  obtain ⟨y, hy, hphase, hstatus, hysub, hdue⟩ := hfind
  have hcalm := calm_endWith s.dev o St.denied sub (s.dev.pas.count + 1) s.dev.pas.count
  have hexec := unlockVerified_some hf hp hop hc
  generalize endWith s.dev o St.denied sub (s.dev.pas.count + 1) s.dev.pas.count = e at *
  have hstat : tmpStatus e 37 = tmpStatus s.dev 37 := rg_of_calm hcalm (by decide)
  have hkeep : e.keep = s.dev.keep := congrArg (fun c => c.rest.keep) hcalm
  have htmp : e.tmp = s.dev.tmp := congrArg (fun c => c.rest.tmp) hcalm
  by_cases hev : sub ∈ [1, 2, 3, 6]
  · rw [if_pos hev] at hexec
    have h45 : ¬ (sub = 4 ∨ sub = 5) := by
      simp only [List.mem_cons, List.not_mem_nil, or_false] at hev
      omega
    have hev37 := events_tmpEvent (src := 37) (by decide) e
    have hframe := tmpEvent_frame (src := 37) (by decide) e
    have hrel := (release_tmpEvent 37 e).1
    have hfe : findOp (tmpEvent 37 e) id = findOp e id := by rw [hframe]; rfl
    have hke : (tmpEvent 37 e).keep = e.keep := by rw [hframe]
    refine ⟨_, y, exec_eq_next rfl hexec, hfe.trans hy, hphase, hstatus, hysub, hdue, ?_, ?_, ?_⟩
    · exact congrArg Keep.hold (hke.trans hkeep)
    · exact hrel.trans (congrArg Tamper.release htmp)
    · rw [if_neg h45, ← hstat]
      exact hev37
  · rw [if_neg hev] at hexec
    have h45 : sub = 4 ∨ sub = 5 := by
      simp only [List.mem_cons, List.not_mem_nil, or_false] at hev
      omega
    refine ⟨_, y, exec_eq_next rfl hexec, hy, hphase, hstatus, hysub, hdue, congrArg Keep.hold hkeep, congrArg Tamper.release htmp, ?_⟩
    rw [if_pos h45]
    exact congrArg (fun w => fld w 35 10) hstat

end

/-! ### The checks of R375, in their order -/

/-- A token's KIND may be accepted in the state and epoch that the device is in. -/
def UnlockAllowed (d : Dev) (tok : Octets) : Prop :=
  if leAt tok 2 1 = 3 then d.life.state = 4 ∨ (d.life.state = 2 ∨ d.life.state = 3) ∧ d.tmp.epoch = 255 else d.tmp.epoch < 255

/-- A token names this device and this HOLD. -/
def UnlockNames (d : Dev) (tok : Octets) : Prop :=
  slice tok 16 16 = fitTo 16 d.life.devid ∧ leAt tok 32 6 = d.tmp.epoch * 2 ^ 40 + tabGet 0 d.keep.monc 3 % 2 ^ 40

/-- The key of the roster that a token names. -/
def unlockKey (d : Dev) (tok : Octets) (i : ℕ) : Octets := tabGet [] d.life.roster (leAt tok i 1)

/-- Two officers of the roster, where the KIND wants them. -/
def UnlockPair (d : Dev) (tok : Octets) : Prop :=
  leAt tok 2 1 = 3 ∨ unlockKey d tok 3 ≠ [] ∧ unlockKey d tok 4 ≠ [] ∧ leAt tok 3 1 ≠ leAt tok 4 1

/-- The signatures verify. -/
def UnlockGood (d : Dev) (tok : Octets) : Prop :=
  if leAt tok 2 1 = 2 then cardSigned (unlockKey d tok 3) (tok.take 48) (slice tok 48 64) = true ∧
    cardSigned (unlockKey d tok 4) (tok.take 48) (slice tok 112 64) = true
  else ecdsaVerify p384 Config.serviceKey.1 Config.serviceKey.2 (sha384 (tok.take 48)) (leAt tok 48 48) (leAt tok 96 48) = true

/-- No keyed source reads ASSERTED. -/
def UnlockQuiet (d : Dev) : Prop := ∀ z ∈ [19, 21, 24, 28, 29], bit (tmpStatus d z) 8 = false

section
variable {d : Dev} {tok : Octets} (hk : leAt tok 2 1 = 2 ∨ leAt tok 2 1 = 3)

theorem unlockCheck_no_hold (h : d.keep.hold = false) : unlockCheck d tok = some 4 := if_pos (ne_true_of_eq_false h)

include hk in
theorem unlockAllowed_iff : UnlockAllowed d tok ↔
    ¬ ((leAt tok 2 1 = 3 ∧ ¬ (d.life.state = 4 ∨ ((d.life.state = 2 ∨ d.life.state = 3) ∧ d.tmp.epoch = 255))) ∨ (leAt tok 2 1 = 2 ∧ 255 ≤ d.tmp.epoch)) := by
  unfold UnlockAllowed
  rcases hk with h | h
  · simp [h]
  · simp only [h, if_true, true_and, show ¬ 3 = 2 by decide, false_and, or_false, not_not]

theorem unlockNames_iff : UnlockNames d tok ↔ ¬ (slice tok 16 16 ≠ fitTo 16 d.life.devid ∨ leAt tok 32 6 ≠ holdCount d) := by
  unfold UnlockNames holdCount monc
  simp

include hk in
theorem unlockPair_iff : UnlockPair d tok ↔
    ¬ (leAt tok 2 1 = 2 ∧ ((unlockKey d tok 3).isEmpty ∨ (unlockKey d tok 4).isEmpty ∨ leAt tok 3 1 = leAt tok 4 1)) := by
  unfold UnlockPair
  rcases hk with h | h <;> simp [h]

theorem unlockGood_iff : UnlockGood d tok ↔ (if leAt tok 2 1 = 2 then cardSigned (unlockKey d tok 3) (tok.take 48) (slice tok 48 64) &&
      cardSigned (unlockKey d tok 4) (tok.take 48) (slice tok 112 64)
    else ecdsaVerify p384 Config.serviceKey.1 Config.serviceKey.2 (sha384 (tok.take 48)) (leAt tok 48 48) (leAt tok 96 48)) = true := by
  unfold UnlockGood
  split <;> simp

theorem unlockQuiet_iff : UnlockQuiet d ↔ ¬ [19, 21, 24, 28, 29].any (tmpAsserted d) = true := by
  simp [UnlockQuiet, tmpAsserted]

include hk

theorem unlockCheck_not_allowed (hh : d.keep.hold = true) (h : ¬ UnlockAllowed d tok) : unlockCheck d tok = some 6 :=
  (if_neg (not_not_intro hh)).trans (if_pos (not_not.mp (mt (unlockAllowed_iff hk).mpr h)))

theorem unlockCheck_not_names (hh : d.keep.hold = true) (ha : UnlockAllowed d tok) (h : ¬ UnlockNames d tok) : unlockCheck d tok = some 2 :=
  (if_neg (not_not_intro hh)).trans ((if_neg ((unlockAllowed_iff hk).mp ha)).trans (if_pos (not_not.mp (mt unlockNames_iff.mpr h))))

theorem unlockCheck_not_pair (hh : d.keep.hold = true) (ha : UnlockAllowed d tok) (hn : UnlockNames d tok) (h : ¬ UnlockPair d tok) :
    unlockCheck d tok = some 3 :=
  (if_neg (not_not_intro hh)).trans ((if_neg ((unlockAllowed_iff hk).mp ha)).trans ((if_neg (unlockNames_iff.mp hn)).trans
    (if_pos (not_not.mp (mt (unlockPair_iff hk).mpr h)))))

theorem unlockCheck_signatures (hh : d.keep.hold = true) (ha : UnlockAllowed d tok) (hn : UnlockNames d tok) (hp : UnlockPair d tok) :
    unlockCheck d tok = if ¬ (if leAt tok 2 1 = 2 then cardSigned (unlockKey d tok 3) (tok.take 48) (slice tok 48 64) &&
      cardSigned (unlockKey d tok 4) (tok.take 48) (slice tok 112 64)
    else ecdsaVerify p384 Config.serviceKey.1 Config.serviceKey.2 (sha384 (tok.take 48)) (leAt tok 48 48) (leAt tok 96 48)) = true then some 1
    else if [19, 21, 24, 28, 29].any (tmpAsserted d) then some 5 else none :=
  (if_neg (not_not_intro hh)).trans ((if_neg ((unlockAllowed_iff hk).mp ha)).trans ((if_neg (unlockNames_iff.mp hn)).trans
    (if_neg ((unlockPair_iff hk).mp hp))))

end

/-! ### The release -/

/-- What a restart of the Hopper leaves: it may fail, which is an event of source 33. -/
structure Restarted (d e : Dev) : Prop where
  frame : e = { d with hop := e.hop, regs := e.regs, tmp := e.tmp }
  regs : ∀ a, a ≠ Reg.TMP_SRC_STATUS + 33 → rg e a = rg d a
  release : e.tmp.release = d.tmp.release
  cause : e.tmp.cause = d.tmp.cause

theorem restarted_onHop (d : Dev) (f : Hopper → Hopper) : Restarted d (onHop d f) := ⟨rfl, fun _ _ => rfl, rfl, rfl⟩

theorem restarted_tmpEvent (d : Dev) : Restarted d (tmpEvent 33 d) := by
  have hframe := tmpEvent_frame (src := 33) (by decide) d
  obtain ⟨hrel, hcause⟩ := release_tmpEvent 33 d
  refine ⟨?_, fun a ha => rg_tmpEvent (by decide) ha _, hrel, hcause⟩
  generalize tmpEvent 33 d = e at *
  rw [hframe]

theorem Restarted.trans {d e f : Dev} (h : Restarted d e) (k : Restarted e f) : Restarted d f := by
  obtain ⟨hframe, hregs, hrel, hcause⟩ := h
  obtain ⟨kframe, kregs, krel, kcause⟩ := k
  exact ⟨by rw [kframe, hframe], fun a ha => (kregs a ha).trans (hregs a ha), krel.trans hrel, kcause.trans hcause⟩

theorem Restarted.ite {d e f : Dev} {c : Prop} [Decidable c] (h : Restarted d e) (k : Restarted d f) : Restarted d (if c then e else f) := by
  split
  · exact h
  · exact k

theorem restarted_refl (d : Dev) : Restarted d d := ⟨rfl, fun _ _ => rfl, rfl, rfl⟩

theorem restarted_hopFault (cause : ℕ) (d : Dev) : Restarted d (hopFault cause d) :=
  .ite (restarted_refl d) ((restarted_onHop d _).trans (restarted_tmpEvent _))

theorem restarted_hopCheck (d : Dev) : Restarted d (hopCheck d) := .ite (restarted_hopFault ..) (restarted_refl d)

theorem restarted_hopRestart (d : Dev) : Restarted d (hopRestart d) := (restarted_onHop d _).trans (restarted_hopCheck _)

/-- The counts of the sources of a list cleared. -/
def countsCleared (l : List ℕ) (d : Dev) : Dev := l.foldl (fun d s => rgSet d (Reg.TMP_SRC_STATUS + s) (setFld (tmpStatus d s) 7 0 0)) d

/-- The times from which counts decay forgotten. -/
def sinceCleared (d : Dev) : Dev := { d with tmp := { d.tmp with since := [] } }

theorem clearCounts_eq (d : Dev) : clearCounts d = sinceCleared (countsCleared (List.range 39) d) := rfl

theorem countsCleared_frame (l : List ℕ) (d : Dev) : ∃ r, countsCleared l d = { d with regs := r } := by
  induction l generalizing d with
  | nil => exact ⟨d.regs, rfl⟩
  | cons i l ih =>
    obtain ⟨r, hr⟩ := ih (rgSet d (Reg.TMP_SRC_STATUS + i) (setFld (tmpStatus d i) 7 0 0))
    exact ⟨r, hr⟩

theorem clearCounts_frame (d : Dev) : ∃ r, clearCounts d = { d with regs := r, tmp := { d.tmp with since := [] } } := by
  obtain ⟨r, hr⟩ := countsCleared_frame (List.range 39) d
  exact ⟨r, by rw [clearCounts_eq, hr]; rfl⟩

theorem fld_setFld_low (w : Word) : fld (setFld w 7 0 0) 7 0 = 0 := by
  have hw := w.isLt
  rw [setFld_eq, fld, nfld, wd, BitVec.toNat_ofNat, Nat.shiftRight_eq_div_pow]
  omega

theorem count_countsCleared {src : ℕ} (l : List ℕ) (d : Dev) (h : src ∈ l ∨ fld (tmpStatus d src) 7 0 = 0) :
    fld (tmpStatus (countsCleared l d) src) 7 0 = 0 := by
  induction l generalizing d with
  | nil => exact h.resolve_left List.not_mem_nil
  | cons i l ih =>
    refine ih _ ?_
    rw [tmpStatus, rg_rgSet]
    by_cases hi : src = i
    · subst hi
      exact .inr (by rw [if_pos rfl, fld_setFld_low])
    · rw [if_neg (by omega)]
      exact h.imp_left (fun hm => (List.mem_cons.mp hm).resolve_left hi)

theorem tmpStatus_sinceCleared (d : Dev) (src : ℕ) : tmpStatus (sinceCleared d) src = tmpStatus d src := rfl

theorem count_clearCounts {src : ℕ} (h : src < 39) (d : Dev) : fld (tmpStatus (clearCounts d) src) 7 0 = 0 := by
  rw [clearCounts_eq, tmpStatus_sinceCleared]
  exact count_countsCleared (List.range 39) d (.inl (List.mem_range.mpr h))

/-- The device with HOLD ended, before anything restarts. -/
def holdEnded (d : Dev) : Dev := onTmp { d with keep := { d.keep with hold := false } } (fun t => { t with cause := 0, release := none })

/-- What the end of HOLD leaves. -/
structure Released (d e : Dev) : Prop where
  hold : e.keep.hold = false
  cause : e.tmp.cause = 0
  release : e.tmp.release = none
  counts : ∀ src, src < 39 → src ≠ 33 → fld (tmpStatus e src) 7 0 = 0
  slots : e.slots = d.slots
  ils : e.ils = d.ils
  ops : e.ops = d.ops
  pas : e.pas = d.pas

theorem released_restart (d : Dev) : Released d (hopRestart (clearCounts (holdEnded d))) := by
  have hcounts : ∀ src, src < 39 → fld (tmpStatus (clearCounts (holdEnded d)) src) 7 0 = 0 := fun src h => count_clearCounts h _
  obtain ⟨r, hclear⟩ := clearCounts_frame (holdEnded d)
  obtain ⟨hframe, hregs, hrel, hcause⟩ := restarted_hopRestart (clearCounts (holdEnded d))
  generalize clearCounts (holdEnded d) = c at *
  generalize hopRestart c = e at *
  have hkeep : e.keep = (holdEnded d).keep ∧ e.slots = (holdEnded d).slots ∧ e.ils = (holdEnded d).ils ∧ e.ops = (holdEnded d).ops ∧ e.pas = (holdEnded d).pas := by
    rw [hframe, hclear]
    exact ⟨rfl, rfl, rfl, rfl, rfl⟩
  have htmp : c.tmp = { (holdEnded d).tmp with since := [] } := by rw [hclear]
  obtain ⟨hk, hs, hi, ho, hp⟩ := hkeep
  refine ⟨by rw [hk]; rfl, by rw [hcause, htmp]; rfl, by rw [hrel, htmp]; rfl, fun src h h33 => ?_, hs, hi, ho, hp⟩
  rw [tmpStatus, hregs _ (by omega)]
  exact hcounts src h

theorem holdRelease_none {d : Dev} (h : d.tmp.release = none) : holdRelease d = d := by simp only [holdRelease, h]

theorem holdRelease_some {d : Dev} {id mode : ℕ} (h : d.tmp.release = some (id, mode)) : holdRelease d =
    let e := hopRestart (clearCounts (holdEnded (if mode = 1 then zeroise d else d)))
    match findOp e id with
    | some o => endWith e o St.done 0 e.pas.count (e.pas.count - 1)
    | none => e := by
  simp only [holdRelease, h]
  rfl

/-! ### Session keys -/

theorem slots_of_lasting {d e : Dev} (h : lasting e = lasting d) : e.slots = d.slots := congrArg Lasting.slots h

theorem ils_chmEmpty (d : Dev) : (chmEmpty d).ils = d.ils := by
  have hpush : ∀ e, (pushDiscard e).ils = e.ils := fun e => by
    unfold pushDiscard
    split <;> rfl
  have hauth : ∀ e, (authSpent e).ils = e.ils := fun e => by
    unfold authSpent
    split
    · extract_lets t
      split <;> rfl
    · rfl
  exact (hauth _).trans (hpush d)

theorem ils_endSessions (d : Dev) : (endSessions d).ils = d.ils := by
  have hone : ∀ i e, (endSession i e).ils = e.ils := fun i e => by
    unfold endSession
    extract_lets x
    split <;> rfl
  exact (hone 1 _).trans (hone 0 d)

theorem ils_hopRestart (d : Dev) : (hopRestart d).ils = d.ils := by rw [(restarted_hopRestart d).frame]

theorem ils_endTowpath (d : Dev) : (endTowpath d).ils = d.ils := by
  have hraw : (rawEnd d).ils = d.ils := by
    unfold rawEnd
    extract_lets e
    split
    · rfl
    · exact ils_hopRestart e
  unfold endTowpath
  extract_lets e
  show e.ils = d.ils
  simp only [e]
  split
  · exact hraw
  · rfl

theorem slots_dropSaFrames (d : Dev) : (dropSaFrames d).slots = d.slots := by
  unfold dropSaFrames
  generalize List.range 8 = l
  induction l generalizing d with
  | nil => rfl
  | cons k l ih => exact (ih _).trans rfl

/-- Key slots and the units' working memory wiped. -/
def slotsWiped (d : Dev) : Dev :=
  { d with slots := [], grd := { d.grd with units := d.grd.units.map (fun e => (e.1, { e.2.cleared with loading := e.2.loading })) } }

/-- Every SA wiped. -/
def sasWiped (d : Dev) : Dev := { d with ils := { d.ils with sas := [] } }

/-- The device when ZEROISE_SESSION has wiped the keys and the SAs. -/
def keysWiped (d : Dev) : Dev :=
  sasWiped (dropSaFrames (slotsWiped ((d.ops.filter zeroised).foldl (fun d o => endEarly d o St.aborted 0xE0 d.pas.count d.pas.count) d)))

theorem zeroise_eq (d : Dev) : zeroise d =
    endTowpath (endSessions (hopRestart (if (keysWiped d).chm.state = .empty then keysWiped d else chmEmpty (keysWiped d)))) := rfl

theorem sasWiped_empty (d : Dev) : (sasWiped d).slots = d.slots ∧ (sasWiped d).ils.sas = [] := ⟨rfl, rfl⟩

theorem slotsWiped_empty (d : Dev) : (slotsWiped d).slots = [] := rfl

theorem keysWiped_empty (d : Dev) : (keysWiped d).slots = [] ∧ (keysWiped d).ils.sas = [] := by
  unfold keysWiped
  obtain ⟨hslots, hsas⟩ := sasWiped_empty (dropSaFrames (slotsWiped ((d.ops.filter zeroised).foldl
    (fun d o => endEarly d o St.aborted 0xE0 d.pas.count d.pas.count) d)))
  rw [slots_dropSaFrames, slotsWiped_empty] at hslots
  exact ⟨hslots, hsas⟩

theorem lasting_endSessions (d : Dev) : lasting (endSessions d) = lasting d := by
  have hone : ∀ i e, lasting (endSession i e) = lasting e := fun i e => by
    unfold endSession
    extract_lets x
    split <;> rfl
  exact (hone 1 _).trans (hone 0 d)

/-- ZEROISE_SESSION leaves no key and no SA. -/
theorem zeroise_empty (d : Dev) : (zeroise d).slots = [] ∧ (zeroise d).ils.sas = [] := by
  obtain ⟨hslots, hsas⟩ := keysWiped_empty d
  have hlast : lasting (zeroise d) = lasting (keysWiped d) := by
    rw [zeroise_eq, lasting_endTowpath, lasting_endSessions, lasting_hopRestart, lasting_ite, lasting_chmEmpty, ite_self]
  have hils : (zeroise d).ils = (keysWiped d).ils := by
    rw [zeroise_eq, ils_endTowpath, ils_endSessions, ils_hopRestart]
    split
    · rfl
    · exact ils_chmEmpty _
  exact ⟨(slots_of_lasting hlast).trans hslots, by rw [hils, hsas]⟩

/-! ### The release as a command -/

section
variable {s : State}

theorem slotsWithout_nil (id : ℕ) : slotsWithout id [] = [] := rfl

theorem exec_holdRelease {id mode : ℕ} (h : s.dev.tmp.release = some (id, mode)) : ∃ t, exec .holdRelease s = .next t ∧ t.dev.keep.hold = false ∧
    t.dev.tmp.cause = 0 ∧ t.dev.tmp.release = none ∧ (∀ src, src < 39 → src ≠ 33 → fld (tmpStatus t.dev src) 7 0 = 0) ∧
    (mode = 1 → t.dev.slots = [] ∧ t.dev.ils.sas = []) ∧
    (∀ o r k, findOp s.dev id = some o → mode ≠ 1 → o.src = .ring r k → o.dead = false →
      ∃ y, findOp t.dev id = some y ∧ y.phase = .ended ∧ y.status = St.done ∧ y.sub = 0 ∧ y.dueAt = s.dev.pas.count) := by
  refine ⟨_, exec_eq_next rfl (holdRelease_some h), ?_⟩
  have hwiped : mode = 1 → (if mode = 1 then zeroise s.dev else s.dev).slots = [] ∧ (if mode = 1 then zeroise s.dev else s.dev).ils.sas = [] := fun h1 => by
    rw [if_pos h1]
    exact zeroise_empty s.dev
  have hkept : mode ≠ 1 → (if mode = 1 then zeroise s.dev else s.dev) = s.dev := fun h1 => if_neg h1
  generalize (if mode = 1 then zeroise s.dev else s.dev) = d at *
  obtain ⟨hold, hcause, hrel, hcounts, hslots, hils, hops, hpas⟩ := released_restart d
  simp only
  generalize hopRestart (clearCounts (holdEnded d)) = e at *
  cases hf : findOp e id with
  | none =>
    refine ⟨hold, hcause, hrel, hcounts, fun h1 => ?_, fun o r k ho h1 _ _ => ?_⟩
    · obtain ⟨hs, hi⟩ := hwiped h1
      exact ⟨hslots.trans hs, by rw [hils, hi]⟩
    · have : findOp e id = findOp s.dev id := by rw [findOp, hops, hkept h1]; rfl
      rw [hf, ho] at this
      cases this
  | some o =>
    have hcalm := calm_endWith e o St.done 0 e.pas.count (e.pas.count - 1)
    have hfind : ∀ r k, o.src = .ring r k → o.dead = false → ∃ y, findOp (endWith e o St.done 0 e.pas.count (e.pas.count - 1)) id = some y ∧ y.phase = .ended ∧
        y.status = St.done ∧ y.sub = 0 ∧ y.dueAt = e.pas.count := fun r k hsrc hdead => by
      obtain rfl := findOp_id hf
      rw [endWith_ring hsrc hdead]
      exact ⟨_, findOp_setOp (d := unreserve e o.id) (x := o) hf, rfl, rfl, rfl, rfl⟩
    simp only
    generalize endWith e o St.done 0 e.pas.count (e.pas.count - 1) = t at *
    have hkeep : t.keep = e.keep := congrArg (fun c => c.rest.keep) hcalm
    have htmp : t.tmp = e.tmp := congrArg (fun c => c.rest.tmp) hcalm
    have hilst : t.ils = e.ils := congrArg (fun c => c.rest.ils) hcalm
    have hslt : t.slots = slotsWithout o.id e.slots := congrArg (fun c => c.slots) hcalm
    refine ⟨by rw [hkeep, hold], by rw [htmp, hcause], by rw [htmp, hrel], fun src hs h33 => ?_, fun h1 => ?_, fun o' r k ho h1 hsrc hdead => ?_⟩
    · rw [tmpStatus, rg_of_calm hcalm (by unfold Reg.TMP_SRC_STATUS; omega)]
      exact hcounts src hs h33
    · obtain ⟨hs, hi⟩ := hwiped h1
      exact ⟨by rw [hslt, hslots, hs, slotsWithout_nil], by rw [hilst, hils, hi]⟩
    · have hsame : findOp e id = findOp s.dev id := by rw [findOp, hops, hkept h1]; rfl
      rw [hf, ho] at hsame
      cases hsame
      obtain ⟨y, hy⟩ := hfind r k hsrc hdead
      rw [hpas, hkept h1] at hy
      exact ⟨y, hy⟩

end

/-- Settles O48: `unlockCheck` by each check of R375 in its order, and the release by what a restart and the end of an operation leave. -/
theorem Settled.holdRelease : Obligations.HoldRelease := by
  unfold Obligations.HoldRelease
  intro s d
  refine ⟨fun id o r k hf hp hop hsrc hdead => ?_, fun id mode h => exec_holdRelease h, fun h => exec_same rfl (holdRelease_none h)⟩
  intro tok kind ends allowed names a b pair good quiet hk
  have hends : ∀ sub, 1 ≤ sub ∧ sub ≤ 6 → unlockCheck d tok = some sub → ends sub := fun sub hsub hc => unlockRefused hf hp hop hsrc hdead hsub hc
  refine ⟨fun hh => hends 4 (by decide) (unlockCheck_no_hold hh), fun hh ha => hends 6 (by decide) (unlockCheck_not_allowed hk hh ha),
    fun hh ha hn => hends 2 (by decide) (unlockCheck_not_names hk hh ha hn), fun hh ha hn hpair => hends 3 (by decide) (unlockCheck_not_pair hk hh ha hn hpair),
    fun hh ha hn hpair hg => hends 1 (by decide) ((unlockCheck_signatures hk hh ha hn hpair).trans (if_pos (mt unlockGood_iff.mpr hg))),
    fun hh ha hn hpair hg hq => hends 5 (by decide) ((unlockCheck_signatures hk hh ha hn hpair).trans ((if_neg (not_not_intro (unlockGood_iff.mp hg))).trans
      (if_pos (not_not.mp (mt unlockQuiet_iff.mpr hq))))), fun hh ha hn hpair hg hq => exec_eq_next rfl (unlockVerified_none hf hp hop ?_)⟩
  exact (unlockCheck_signatures hk hh ha hn hpair).trans ((if_neg (not_not_intro (unlockGood_iff.mp hg))).trans (if_neg (unlockQuiet_iff.mp hq)))

end Sys2Proof.Machine

/-! What abides through HOLD entry, the tamper log and the resets that a tamper may cause (O49): HOLD itself, the keep epoch, the life-cycle state with its
code words, and the blown reset map. -/

namespace Sys2Proof.Machine

/-- What no operation's end and no reset but KEEP changes. -/
structure Abiding where
  hold : Bool
  epoch : ℕ
  lost : Bool
  state : ℕ
  words : List ℕ
  fuses : Tab ℕ

/-- The abiding part of a device. -/
def abiding (d : Dev) : Abiding := ⟨d.keep.hold, d.tmp.epoch, d.tmp.lost, d.life.state, d.life.otp.lc, d.rst.fuses⟩

theorem abiding_of_lasting {d e : Dev} (h : lasting e = lasting d) : abiding e = abiding d := by
  obtain ⟨hhold, hepoch, hlost, hstate, hwords, hfuses⟩ : (lasting e).hold = (lasting d).hold ∧ (lasting e).epoch = (lasting d).epoch ∧ (lasting e).lost = (lasting d).lost ∧
    (lasting e).state = (lasting d).state ∧ (lasting e).words = (lasting d).words ∧ (lasting e).rst.fuses = (lasting d).rst.fuses := by rw [h]; simp
  exact (Abiding.mk.injEq ..).mpr ⟨hhold, hepoch, hlost, hstate, hwords, hfuses⟩

theorem abiding_of_calm {d e : Dev} {x : Tab Slot} (h : calm e = { calm d with slots := x }) : abiding e = abiding d :=
  congrArg (fun c => abiding c.rest) h

theorem abiding_ite (c : Prop) [Decidable c] (a b : Dev) : abiding (if c then a else b) = if c then abiding a else abiding b := apply_ite abiding c a b

theorem abiding_foldl {α : Type} {g : Dev → α → Dev} (h : ∀ d x, abiding (g d x) = abiding d) (l : List α) (d : Dev) :
    abiding (l.foldl g d) = abiding d := by
  induction l generalizing d with
  | nil => rfl
  | cons x l ih => rw [List.foldl_cons, ih, h]

/-! ### HOLD entry -/

theorem abiding_holdLatch (cause d) : abiding (holdLatch cause d) = { abiding d with hold := true } := (rfl)

theorem abiding_curveSet (d s x) : abiding (curveSet d s x) = abiding d := (rfl)

theorem abiding_dropCurve (d o) : abiding (dropCurve d o) = abiding d := by
  simp only [dropCurve, abiding_ite, ite_self, abiding_curveSet]

theorem abiding_unitSet (d u x) : abiding (unitSet d u x) = abiding d := (rfl)

theorem abiding_forgetJob (d id atEdge) : abiding (forgetJob d id atEdge) = abiding d :=
  abiding_foldl (fun e u => abiding_unitSet e u _) _ _

theorem abiding_endWith (d o st sub due pass) : abiding (endWith d o st sub due pass) = abiding d := abiding_of_calm (calm_endWith ..)

theorem abiding_endEarly (d o st sub due pass) : abiding (endEarly d o st sub due pass) = abiding d := by
  simp only [endEarly, abiding_endWith, abiding_ite, ite_self, abiding_dropCurve, abiding_forgetJob]

theorem abiding_takeBack {d o e} (h : takeBack d o = some e) : abiding e = abiding d := by
  simp only [takeBack] at h
  repeat' split at h
  all_goals
    cases h
  all_goals rfl

theorem abiding_holdEnd (d o) : abiding (holdEnd d o) = abiding d := by
  unfold holdEnd
  split
  · split
    · next e he => exact (abiding_endEarly ..).trans (abiding_takeBack he)
    · rfl
  · exact abiding_endEarly ..

theorem abiding_hopHold (d) : abiding (hopHold d) = abiding d := (rfl)

theorem abiding_fld (d : Dev) (fld) : abiding { d with fld := fld } = abiding d := rfl

theorem abiding_pushEvent (d p words) : abiding (pushEvent d p words) = abiding d := by
  unfold pushEvent
  extract_lets c l
  split <;> rfl

theorem abiding_grantEvent (d t p n tie emu reason) : abiding (grantEvent d t p n tie emu reason) = abiding d := by
  simp only [grantEvent, abiding_ite, abiding_fld, abiding_pushEvent, ite_self]

theorem abiding_portSet (d p x) : abiding (portSet d p x) = abiding d := (rfl)

theorem abiding_chainSet (d n c) : abiding (chainSet d n c) = abiding d := (rfl)

theorem abiding_endGrant (p reason d) : abiding (endGrant p reason d) = abiding d := by
  simp only [endGrant, abiding_ite, ite_self, abiding_portSet, abiding_chainSet, abiding_grantEvent]

theorem abiding_portRefresh (p d) : abiding (portRefresh p d) = abiding d := by
  simp only [portRefresh, abiding_ite, ite_self, abiding_portSet, abiding_endGrant]

theorem abiding_fieldHold (d) : abiding (fieldHold d) = abiding d := (abiding_foldl (fun e p => abiding_portRefresh p e) _ _).trans rfl

theorem abiding_challengeWipe (d) : abiding (challengeWipe d) = abiding d := (rfl)

theorem abiding_crgDiscard (d) : abiding (crgDiscard d) = abiding d := (rfl)

theorem abiding_endSessions (d) : abiding (endSessions d) = abiding d := abiding_of_lasting (lasting_endSessions d)

theorem abiding_ofcIfSet (d i x) : abiding (ofcIfSet d i x) = abiding d := (rfl)

theorem abiding_ofcHold (d) : abiding (ofcHold d) = abiding d := by
  refine abiding_foldl (fun e i => ?_) _ _
  simp only [abiding_ite, ofcOff, abiding_ofcIfSet, ite_self]

theorem abiding_rplWipe (d) : abiding (rplWipe d) = abiding d := by
  unfold rplWipe
  split <;> rfl

theorem abiding_dropFrames (link c d) : abiding (dropFrames link c d) = abiding d := by
  refine abiding_foldl (fun e k => ?_) _ _
  rfl

/-- HOLD entry up to the reset that it may assert. -/
def holdEntered (cause : ℕ) (d : Dev) : Dev :=
  let d := holdLatch cause d
  let d := (d.ops.filter (fun o => !holdSpared d o)).foldl holdEnd d
  let d := { d with grd := { d.grd with units := d.grd.units.map (fun e => (e.1, e.2.cleared)) }, chm := { d.chm with waiting := [] } }
  let d := rplWipe (ofcHold (endSessions (crgDiscard (challengeWipe (fieldHold (hopHold d))))))
  (List.range 4).foldl (fun d l => dropFrames l 12 d) d

theorem holdEnter_eq (cause : ℕ) (d : Dev) : holdEnter cause d = sourceAssert 15 0 (holdEntered cause d) := rfl

theorem abiding_holdEntered (cause : ℕ) (d : Dev) : abiding (holdEntered cause d) = { abiding d with hold := true } := by
  have hwiped : ∀ (e : Dev) grd chm, abiding { e with grd := grd, chm := chm } = abiding e := fun _ _ _ => rfl
  simp only [holdEntered, abiding_foldl, abiding_dropFrames, implies_true, abiding_rplWipe, abiding_ofcHold, abiding_endSessions, abiding_crgDiscard,
    abiding_challengeWipe, abiding_fieldHold, abiding_hopHold, hwiped, abiding_holdEnd, abiding_holdLatch]

/-! ### The reset of source 15 -/

theorem fuses_of_lasting {e : Dev} {l : Lasting} (h : lasting e = l) : abiding e = ⟨l.hold, l.epoch, l.lost, l.state, l.words, l.rst.fuses⟩ := by
  subst h
  rfl

theorem abiding_noteReset (lvl src core fresh d) : abiding (noteReset lvl src core fresh d) = abiding d := (rfl)

theorem abiding_resetNoted (last pass d) : abiding (resetNoted last pass d) = abiding d := (rfl)

theorem abiding_fieldAlone (d) : abiding (onRst d (fun r => { r with fieldAlone := true })) = abiding d := (rfl)

theorem abiding_fieldReset (d) : abiding (fieldReset d) = abiding d := fuses_of_lasting (lasting_fieldReset d)

theorem abiding_hostReset (d) : abiding (hostReset d) = abiding d := fuses_of_lasting (lasting_hostReset d)

/-- A level that the reset map may give source 15: none, FIELD or HOST. -/
def hushLevel (lvl : ℕ) : Prop := lvl = 0 ∨ lvl = 2 ∨ lvl = 3

theorem hushLevel_hold {d : Dev} (h : ∀ e ∈ d.rst.fuses, 16 < e.1 ∨ e.2 - 1 ∈ srcPermitted e.1) : hushLevel (srcLevel d 15) := by
  unfold hushLevel
  cases hf : tabFind d.rst.fuses 15 with
  | none => simp [srcLevel, fuse, hf, srcDefault]
  | some x =>
    have hx : x - 1 ∈ [0, 2, 3] := (h (15, x) (mem_of_tabFind hf)).resolve_left (by omega)
    simpa [srcLevel, fuse, hf] using hx

theorem fuse_legal {d : Dev} (h : fusesLegal d = true) : ∀ e ∈ d.rst.fuses, 16 < e.1 ∨ e.2 - 1 ∈ srcPermitted e.1 := fun e he => by
  have he' := List.all_eq_true.1 h e he
  simp only [Bool.or_eq_true, decide_eq_true_eq] at he'
  exact he'.imp_right And.right

theorem abiding_sourceAt {lvl : ℕ} (h : hushLevel lvl) (src d) : abiding (sourceAt lvl src 0 d) = abiding d := by
  obtain rfl | rfl | rfl := h
  · rfl
  · unfold sourceAt
    simp only [show ¬ (2 = 1 ∧ 0 = 1) by omega, if_false, show ¬ 2 = 0 by omega]
    split
    · exact abiding_noteReset ..
    · rw [carryOut_field, abiding_resetNoted, abiding_fieldAlone, abiding_fieldReset]
  · unfold sourceAt
    simp only [show ¬ (3 = 1 ∧ 0 = 1) by omega, if_false, show ¬ 3 = 0 by omega]
    split
    · exact abiding_noteReset ..
    · rw [carryOut_host, abiding_resetNoted, abiding_hostReset]

theorem abiding_sourceAssert_hush {d : Dev} (h : ∀ e ∈ d.rst.fuses, 16 < e.1 ∨ e.2 - 1 ∈ srcPermitted e.1) : abiding (sourceAssert 15 0 d) = abiding d := by
  have hmay : MayAssert d 15 0 := .inr (.inr (.inl (by omega)))
  rw [sourceAssert_of_may hmay, if_neg (by omega), abiding_sourceAt (hushLevel_hold h)]

theorem fuses_of_abiding {e : Dev} {x : Abiding} (h : abiding e = x) : e.rst.fuses = x.fuses := by
  subst h
  rfl

theorem abiding_holdEnter (cause : ℕ) {d : Dev} (h : fusesLegal d = true) : abiding (holdEnter cause d) = { abiding d with hold := true } := by
  have habide := abiding_holdEntered cause d
  rw [holdEnter_eq]
  generalize holdEntered cause d = e at *
  have hfuses : e.rst.fuses = d.rst.fuses := fuses_of_abiding habide
  rw [abiding_sourceAssert_hush (by rw [hfuses]; exact fuse_legal h), habide]

end Sys2Proof.Machine

/-! K's boot ROM (O49, R380, R381, R389): the vote and the words repaired, the start after a lost keep domain, the deferred entries. -/

namespace Sys2Proof.Machine

/-! ### The vote -/

/-- The vote of three code words. -/
def wordsVote (w : List ℕ) : ℕ :=
  (w.getD 0 0 &&& w.getD 1 0) ||| (w.getD 0 0 &&& w.getD 2 0) ||| (w.getD 1 0 &&& w.getD 2 0)

theorem lcVote_eq (d : Dev) : lcVote d = wordsVote d.life.otp.lc := rfl

/-- The words given the bits of a value that they lack. -/
def wordsGiven (w : List ℕ) (v : ℕ) : List ℕ := (List.range 3).map (fun j => w.getD j 0 ||| v)

theorem getD_wordsGiven (w : List ℕ) (v : ℕ) {j : ℕ} (hj : j < 3) : (wordsGiven w v).getD j 0 = w.getD j 0 ||| v := by
  simp [wordsGiven, List.getD, hj]

theorem wordsVote_given (w : List ℕ) : wordsVote (wordsGiven w (wordsVote w)) = wordsVote w := by
  rw [wordsVote, getD_wordsGiven _ _ (by omega), getD_wordsGiven _ _ (by omega), getD_wordsGiven _ _ (by omega), wordsVote]
  generalize w.getD 0 0 = a
  generalize w.getD 1 0 = b
  generalize w.getD 2 0 = c
  refine Nat.eq_of_testBit_eq (fun i => ?_)
  simp only [Nat.testBit_or, Nat.testBit_and]
  cases a.testBit i <;> cases b.testBit i <;> cases c.testBit i <;> rfl

/-! ### Up to the tables of keys -/

theorem abiding_onTmp (d : Dev) {f : Tamper → Tamper} (he : (f d.tmp).epoch = d.tmp.epoch) (hl : (f d.tmp).lost = d.tmp.lost) :
    abiding (onTmp d f) = abiding d := by
  simp only [abiding, onTmp, he, hl]

theorem abiding_onLife (d : Dev) (f : Life → Life) :
    abiding (onLife d f) = { abiding d with state := (f d.life).state, words := (f d.life).otp.lc } := rfl

theorem abiding_rgSet (d a v) : abiding (rgSet d a v) = abiding d := (rfl)

theorem abiding_tmpEvent (src d) : abiding (tmpEvent src d) = abiding d := abiding_of_lasting (lasting_tmpEvent ..)

theorem abiding_tamperClear (src d) : abiding (tamperClear src d) = abiding d := by
  simp only [tamperClear, abiding_ite, abiding_rgSet, ite_self]

theorem abiding_tamperEvent (src d) : abiding (tamperEvent src d) = abiding d := by
  simp only [tamperEvent, tmpAssert, abiding_ite, abiding_tmpEvent, abiding_rgSet, ite_self]

/-- Nothing to resume: the transition's progress alone is cleared. -/
theorem resume_none {d : Dev} (h : d.keep.shadow.2.2 = 0) (bad : List ℕ) :
    resume bad d = onLife d (fun l => { l with active := false, fail := false, row := 0, tries := 0 }) := if_pos h

theorem repairWords_unanimous {d : Dev} (h : lcUnanimous d = true) : repairWords d = d := if_pos h

theorem abiding_repairWords {d : Dev} (h : lcUnanimous d = false) :
    abiding (repairWords d) = { abiding d with words := wordsGiven d.life.otp.lc (lcVote d) } := by
  have hsame : abiding (tamperEvent 35 (tamperClear 35 d)) = abiding d := by rw [abiding_tamperEvent, abiding_tamperClear]
  have hrep : repairWords d = onLife (tamperEvent 35 (tamperClear 35 d)) (fun l => { l with otp := { l.otp with
      lc := wordsGiven l.otp.lc (lcVote d) } }) := if_neg (ne_true_of_eq_false h)
  rw [hrep, abiding_onLife]
  generalize tamperEvent 35 (tamperClear 35 d) = e at *
  have hwords : e.life.otp.lc = d.life.otp.lc := congrArg Abiding.words hsame
  simp only [hwords, ← hsame]
  rfl

theorem abiding_endTowpath (d) : abiding (endTowpath d) = abiding d := abiding_of_lasting (lasting_endTowpath d)

theorem abiding_ladder (d) : abiding (ladder d) = abiding d := (rfl)

/-- The same but for the life-cycle state. -/
def Abiding.inState (x : Abiding) (n : ℕ) : Abiding := { x with state := n }

theorem inState_self (d : Dev) : (abiding d).inState d.life.state = abiding d := rfl

theorem abiding_newState (d : Dev) (n : ℕ) : abiding (onLife d (fun l => { l with state := n })) = (abiding d).inState n := rfl

/-- R388: the state in force follows the vote. -/
theorem abiding_revote (d : Dev) : abiding (revote d) = (abiding d).inState (lcDecode (lcVote d)) := by
  have hclear : abiding (if lcUnanimous d = true then tamperClear 35 d else d) = abiding d := by
    simp only [abiding_ite, abiding_tamperClear, ite_self]
  unfold revote
  extract_lets st e
  have he : abiding e = abiding d := hclear
  have hst : lcDecode (lcVote d) = st := rfl
  rw [hst, ← he]
  generalize e = f at *
  split
  · next h => rw [h, inState_self]
  · rw [abiding_ladder, abiding_newState, abiding_ite, abiding_endTowpath, ite_self]

theorem abiding_ladderWrite (d) : abiding (ladderWrite d) = abiding d := by
  unfold ladderWrite
  split
  · rfl
  · rfl

theorem abiding_life (d : Dev) {l : Life} (hs : l.state = d.life.state) (hc : l.otp.lc = d.life.otp.lc) : abiding { d with life := l } = abiding d := by
  simp only [abiding, hs, hc]

theorem abiding_ladderLoad (lost cold d) : abiding (ladderLoad lost cold d) = abiding d := by
  unfold ladderLoad
  extract_lets l
  have hl : l.state = d.life.state ∧ l.otp.lc = d.life.otp.lc := by
    simp only [l]
    split <;> exact ⟨rfl, rfl⟩
  split
  · rw [abiding_ladderWrite]
    exact abiding_life d (l := { l with kekBasinOld := [] }) hl.1 hl.2
  · exact abiding_life d hl.1 hl.2

/-! ### The keep domain's start, and deferred entries -/

/-- What deferred entries leave: all but HOLD, which they may enter. -/
def Kept (d e : Dev) : Prop := ∃ b : Bool, abiding e = { abiding d with hold := d.keep.hold || b }

theorem Kept.refl (d : Dev) : Kept d d := ⟨false, by simp [abiding]⟩

theorem kept_of_abiding {d e : Dev} (h : abiding e = abiding d) : Kept d e := by
  obtain ⟨b, hb⟩ := Kept.refl d
  exact ⟨b, h.trans hb⟩

theorem Kept.trans {d e f : Dev} (h : Kept d e) (k : Kept e f) : Kept d f := by
  obtain ⟨b, hb⟩ := h
  obtain ⟨c, hc⟩ := k
  have hhold : e.keep.hold = (d.keep.hold || b) := congrArg Abiding.hold hb
  exact ⟨b || c, by rw [hc, hb, hhold, Bool.or_assoc]⟩

theorem Kept.legal {d e : Dev} (h : Kept d e) (hl : fusesLegal d = true) : fusesLegal e = true := by
  obtain ⟨b, hb⟩ := h
  have hfuses : e.rst.fuses = d.rst.fuses := fuses_of_abiding hb
  rwa [fusesLegal, hfuses]

theorem abiding_tmpLog (src resp subsumed deferred applied power pass d) : abiding (tmpLog src resp subsumed deferred applied power pass d) = abiding d := (rfl)

theorem kept_holdEnter (cause : ℕ) {d : Dev} (h : fusesLegal d = true) : Kept d (holdEnter cause d) := ⟨true, by rw [abiding_holdEnter cause h, Bool.or_true]⟩

theorem kept_applyEntry {d : Dev} (h : fusesLegal d = true) (x : TmpEntry) : Kept d (applyEntry d x) := by
  unfold applyEntry
  extract_lets hold e f g
  have he : abiding e = abiding d := abiding_onTmp d rfl rfl
  have hf : abiding f = abiding d := (abiding_tmpLog ..).trans he
  have hg : abiding g = abiding d := by
    simp only [g]
    split
    · exact (abiding_onTmp f rfl rfl).trans hf
    · exact hf
  split
  · exact (kept_of_abiding hg).trans (kept_holdEnter _ ((kept_of_abiding hg).legal h))
  · exact kept_of_abiding hg

theorem kept_foldl {α : Type} {g : Dev → α → Dev} (hg : ∀ d x, fusesLegal d = true → Kept d (g d x)) (l : List α) {d : Dev} (h : fusesLegal d = true) :
    Kept d (l.foldl g d) := by
  induction l generalizing d with
  | nil => exact Kept.refl d
  | cons x l ih => exact (hg d x h).trans (ih ((hg d x h).legal h))

theorem kept_applyDeferred {d : Dev} (h : fusesLegal d = true) : Kept d (applyDeferred d) := by
  unfold applyDeferred
  extract_lets es
  have he : abiding (onTmp d (fun t => { t with deferred := !es.isEmpty })) = abiding d := abiding_onTmp d rfl rfl
  exact (kept_of_abiding he).trans (kept_foldl (fun _ x hl => kept_applyEntry hl x) es ((kept_of_abiding he).legal h))

theorem keepStart_kept {d : Dev} (h : ¬ (d.tmp.lost = true ∧ 2 ≤ d.life.state ∧ d.life.state ≤ 4)) :
    keepStart d = onTmp d (fun t => { t with keepLost := d.tmp.lost, lost := false }) := if_neg h

/-- R369: the keep epoch after a lost keep domain. -/
def epochNext (n : ℕ) : ℕ := min 255 (n + 1)

/-- The device with the keep epoch advanced. -/
def epochAdvanced (d : Dev) : Dev :=
  onTmp (onTmp d (fun t => { t with keepLost := d.tmp.lost, lost := false })) (fun t => { t with epoch := epochNext t.epoch })

theorem keepStart_lost {d : Dev} (h : d.tmp.lost = true ∧ 2 ≤ d.life.state ∧ d.life.state ≤ 4) : keepStart d = holdEnter 63 (epochAdvanced d) := if_pos h

theorem abiding_epochAdvanced (d : Dev) : abiding (epochAdvanced d) = { abiding d with epoch := epochNext d.tmp.epoch, lost := false } := rfl

/-- The words after the repair. -/
def wordsRepaired (d : Dev) : List ℕ := if lcUnanimous d = true then d.life.otp.lc else wordsGiven d.life.otp.lc (lcVote d)

theorem abiding_repaired (d : Dev) : abiding (repairWords d) = { abiding d with words := wordsRepaired d } := by
  unfold wordsRepaired
  by_cases h : lcUnanimous d = true
  · rw [repairWords_unanimous h, if_pos h]
    rfl
  · rw [abiding_repairWords (eq_false_of_ne_true h), if_neg h]

theorem wordsVote_repaired (d : Dev) : wordsVote (wordsRepaired d) = lcVote d := by
  unfold wordsRepaired
  split
  · rfl
  · exact wordsVote_given _

/-- The device when the boot ROM has voted and derived its keys. -/
def voted (bad : List ℕ) (d : Dev) : Dev := ladder (revote (repairWords (resume bad d)))

theorem vote_of_abiding {e : Dev} {x : Abiding} (h : abiding e = x) : lcVote e = wordsVote x.words := by
  subst h
  rfl

theorem abiding_idle (d : Dev) : abiding (onLife d (fun l => { l with active := false, fail := false, row := 0, tries := 0 })) = abiding d := rfl

theorem abiding_voted {d : Dev} (h : d.keep.shadow.2.2 = 0) (bad : List ℕ) :
    abiding (voted bad d) = { abiding d with state := lcDecode (lcVote d), words := wordsRepaired d } := by
  have hidle := abiding_idle d
  have hrep : ∀ e, abiding e = abiding d → wordsRepaired e = wordsRepaired d := fun e he => by
    have hlc : e.life.otp.lc = d.life.otp.lc := congrArg Abiding.words he
    have hu : lcUnanimous e = lcUnanimous d := by rw [lcUnanimous, lcUnanimous, lcWord, lcWord, lcWord, hlc]; rfl
    rw [wordsRepaired, wordsRepaired, hu, lcVote_eq, lcVote_eq, hlc]
  rw [voted, abiding_ladder, abiding_revote, vote_of_abiding (abiding_repaired _), abiding_repaired, resume_none h, hrep _ hidle, hidle, wordsVote_repaired]
  rfl

theorem kBoot_run {d : Dev} (h2 : 2 ≤ d.rst.hostStep) (hb : d.life.booted = false) (bad lost : List ℕ) : kBoot bad lost d =
    bootSelect (sealBlockCheck (applyDeferred (keepStart (ladderLoad lost (decide (4 ≤ (voted bad d).rst.hostLvl)) (voted bad d))))) :=
  if_neg (by rw [hb]; simp only [Bool.false_eq_true, or_false]; omega)

theorem abiding_coreSet (d m c) : abiding (coreSet d m c) = abiding d := (rfl)

theorem abiding_setEntries (p d) : abiding (setEntries p d) = abiding d := abiding_foldl (fun e _ => abiding_rgSet e _ _) _ _

theorem abiding_bootSelect (d : Dev) : abiding (bootSelect d) = abiding d ∧ (bootSelect d).life.booted = true := by
  unfold bootSelect
  split
  · exact ⟨rfl, rfl⟩
  · next p gen _ =>
    extract_lets e f
    have hf : abiding f = abiding d := by
      simp only [f]
      rw [abiding_setEntries, abiding_rgSet]
      rfl
    have hb : f.life.booted = true := by
      have hfold : ∀ (l : List ℕ) (g : Dev) (v : ℕ → Word), (l.foldl (fun e i => rgSet e (Reg.RST_HENTRY + i) (v i)) g).life = g.life := fun l g v => by
        induction l generalizing g with
        | nil => rfl
        | cons x l ih => exact (ih _).trans rfl
      simp only [f, setEntries, hfold]
      rfl
    exact ⟨by rw [abiding_coreSet, hf], hb⟩

theorem abiding_sealBlockCheck (d) : abiding (sealBlockCheck d) = abiding d := (rfl)

theorem legal_of_fuses {d e : Dev} (h : e.rst.fuses = d.rst.fuses) (hl : fusesLegal d = true) : fusesLegal e = true := by rwa [fusesLegal, h]

/-- The start of the keep domain: its loss is cleared, and in service it is HOLD in the next epoch. -/
theorem abiding_keepStart {d : Dev} (hl : fusesLegal d = true) : (d.tmp.lost = true ∧ 2 ≤ d.life.state ∧ d.life.state ≤ 4 →
      abiding (keepStart d) = { abiding d with epoch := epochNext d.tmp.epoch, lost := false, hold := true }) ∧
    (¬ (d.tmp.lost = true ∧ 2 ≤ d.life.state ∧ d.life.state ≤ 4) → abiding (keepStart d) = { abiding d with lost := false }) := by
  refine ⟨fun h => ?_, fun h => by rw [keepStart_kept h]; rfl⟩
  rw [keepStart_lost h, abiding_holdEnter 63 (legal_of_fuses (e := epochAdvanced d) rfl hl), abiding_epochAdvanced]

section
variable {s : State} {bad lost : List ℕ}

theorem exec_kBoot_voted (h2 : 2 ≤ s.dev.rst.hostStep) (hb : s.dev.life.booted = false) (h0 : s.dev.keep.shadow.2.2 = 0) (hl : fusesLegal s.dev = true) :
    ∃ t, exec (.kBoot bad lost) s = .next t ∧ t.dev.life.booted = true ∧ t.dev.life.state = lcDecode (lcVote s.dev) ∧
      (lcUnanimous s.dev = false → ∀ j, j < 3 → t.dev.life.otp.lc.getD j 0 = s.dev.life.otp.lc.getD j 0 ||| lcVote s.dev) ∧
      (s.dev.tmp.lost = true → 2 ≤ lcDecode (lcVote s.dev) → lcDecode (lcVote s.dev) ≤ 4 →
        t.dev.keep.hold = true ∧ t.dev.tmp.epoch = epochNext s.dev.tmp.epoch) := by
  refine ⟨_, exec_eq_next rfl (kBoot_run h2 hb bad lost), ?_⟩
  have hload := (abiding_ladderLoad lost (decide (4 ≤ (voted bad s.dev).rst.hostLvl)) (voted bad s.dev)).trans (abiding_voted h0 bad)
  simp only
  generalize ladderLoad lost _ (voted bad s.dev) = e at *
  have hle : fusesLegal e = true := legal_of_fuses (fuses_of_abiding hload) hl
  obtain ⟨hlost, hkept⟩ := abiding_keepStart hle
  have hstate : e.life.state = lcDecode (lcVote s.dev) := congrArg Abiding.state hload
  have hwords : e.life.otp.lc = wordsRepaired s.dev := congrArg Abiding.words hload
  have htl : e.tmp.lost = s.dev.tmp.lost := congrArg Abiding.lost hload
  have hep : e.tmp.epoch = s.dev.tmp.epoch := congrArg Abiding.epoch hload
  have hstart : (keepStart e).life.state = e.life.state ∧ (keepStart e).life.otp.lc = e.life.otp.lc ∧ (keepStart e).rst.fuses = e.rst.fuses := by
    by_cases h : e.tmp.lost = true ∧ 2 ≤ e.life.state ∧ e.life.state ≤ 4
    · exact ⟨congrArg Abiding.state (hlost h), congrArg Abiding.words (hlost h), congrArg Abiding.fuses (hlost h)⟩
    · exact ⟨congrArg Abiding.state (hkept h), congrArg Abiding.words (hkept h), congrArg Abiding.fuses (hkept h)⟩
  have hheld : e.tmp.lost = true ∧ 2 ≤ e.life.state ∧ e.life.state ≤ 4 →
      (keepStart e).keep.hold = true ∧ (keepStart e).tmp.epoch = epochNext e.tmp.epoch := fun h =>
    ⟨congrArg Abiding.hold (hlost h), congrArg Abiding.epoch (hlost h)⟩
  generalize keepStart e = f at *
  obtain ⟨hfs, hfw, hff⟩ := hstart
  obtain ⟨b, happ⟩ := kept_applyDeferred (legal_of_fuses hff hle)
  obtain ⟨hsel, hboot⟩ := abiding_bootSelect (sealBlockCheck (applyDeferred f))
  rw [abiding_sealBlockCheck, happ] at hsel
  generalize bootSelect (sealBlockCheck (applyDeferred f)) = g at *
  have hgs : g.life.state = f.life.state := congrArg Abiding.state hsel
  have hgw : g.life.otp.lc = f.life.otp.lc := congrArg Abiding.words hsel
  have hgh : g.keep.hold = (f.keep.hold || b) := congrArg Abiding.hold hsel
  have hge : g.tmp.epoch = f.tmp.epoch := congrArg Abiding.epoch hsel
  refine ⟨hboot, by rw [hgs, hfs, hstate], fun hu j hj => ?_, fun htrue hlow hhigh => ?_⟩
  · rw [hgw, hfw, hwords, wordsRepaired, if_neg (ne_true_of_eq_false hu), getD_wordsGiven _ _ hj]
  · obtain ⟨hh, he⟩ := hheld ⟨htl.trans htrue, by rwa [hstate], by rwa [hstate]⟩
    exact ⟨by rw [hgh, hh, Bool.true_or], by rw [hge, he, hep]⟩

end

end Sys2Proof.Machine

/-! K's boot ROM on words that agree (O49, R390, R391): the set of the higher generation is booted, or none. -/

namespace Sys2Proof.Machine

/-- What the boot ROM finds of a device, up to its choice of a set: nothing that the choice rests on has changed. -/
structure Readied (d e : Dev) : Prop where
  keep : e.keep = d.keep
  cores : e.cores = d.cores
  rst : e.rst = d.rst
  log : e.tmp.log = d.tmp.log
  lost : e.tmp.lost = d.tmp.lost
  state : e.life.state = d.life.state
  otp : e.life.otp = d.life.otp
  planes : ∀ p, p ≠ 2 → tabGet {} e.fls.planes p = tabGet {} d.fls.planes p

section
variable {d e f : Dev}

theorem Readied.trans (h : Readied d e) (k : Readied e f) : Readied d f where
  keep := k.keep.trans h.keep
  cores := k.cores.trans h.cores
  rst := k.rst.trans h.rst
  log := k.log.trans h.log
  lost := k.lost.trans h.lost
  state := k.state.trans h.state
  otp := k.otp.trans h.otp
  planes := fun p hp => (k.planes p hp).trans (h.planes p hp)

theorem readied_onLife {g : Life → Life} (hs : (g d.life).state = d.life.state) (ho : (g d.life).otp = d.life.otp) : Readied d (onLife d g) :=
  ⟨rfl, rfl, rfl, rfl, rfl, hs, ho, fun _ _ => rfl⟩

theorem readied_rgSet (a v) : Readied d (rgSet d a v) := ⟨rfl, rfl, rfl, rfl, rfl, rfl, rfl, fun _ _ => rfl⟩

theorem readied_tamperClear (src) : Readied d (tamperClear src d) := by
  unfold tamperClear
  split
  · exact readied_rgSet ..
  · exact ⟨rfl, rfl, rfl, rfl, rfl, rfl, rfl, fun _ _ => rfl⟩

theorem readied_ladder : Readied d (ladder d) := readied_onLife rfl rfl

theorem readied_ladderWrite : Readied d (ladderWrite d) := by
  unfold ladderWrite
  split
  · exact ⟨rfl, rfl, rfl, rfl, rfl, rfl, rfl, fun _ _ => rfl⟩
  · refine ⟨rfl, rfl, rfl, rfl, rfl, rfl, rfl, fun p hp => ?_⟩
    simp only [onPages, tabGet_tabSet, if_neg hp]
    rfl

theorem readied_life {l : Life} (hs : l.state = d.life.state) (ho : l.otp = d.life.otp) : Readied d { d with life := l } :=
  ⟨rfl, rfl, rfl, rfl, rfl, hs, ho, fun _ _ => rfl⟩

theorem readied_ladderLoad (lost cold) : Readied d (ladderLoad lost cold d) := by
  unfold ladderLoad
  extract_lets l
  have hl : l.state = d.life.state ∧ l.otp = d.life.otp := by
    simp only [l]
    split <;> exact ⟨rfl, rfl⟩
  split
  · exact (readied_life (l := { l with kekBasinOld := [] }) hl.1 hl.2).trans readied_ladderWrite
  · exact readied_life hl.1 hl.2

theorem readied_keepStart (h : d.tmp.lost = false) : Readied d (keepStart d) := by
  rw [keepStart_kept (by simp [h])]
  exact ⟨rfl, rfl, rfl, rfl, h.symm, rfl, rfl, fun _ _ => rfl⟩

theorem readied_applyDeferred (h : ∀ x ∈ d.tmp.log, x.deferred = true → x.applied = true) : Readied d (applyDeferred d) := by
  have hnone : d.tmp.log.filter (fun x => x.deferred && !x.applied) = [] := by
    refine List.filter_eq_nil_iff.mpr (fun x hx hc => ?_)
    rw [Bool.and_eq_true, Bool.not_eq_true'] at hc
    rw [h x hx hc.1] at hc
    exact Bool.noConfusion hc.2
  simp only [applyDeferred, hnone, List.foldl_nil]
  exact ⟨rfl, rfl, rfl, rfl, rfl, rfl, rfl, fun _ _ => rfl⟩

theorem readied_sealBlockCheck : Readied d (sealBlockCheck d) := ⟨rfl, rfl, rfl, rfl, rfl, rfl, rfl, fun _ _ => rfl⟩

theorem unanimous_of_otp (h : e.life.otp = d.life.otp) : lcUnanimous e = lcUnanimous d ∧ lcVote e = lcVote d := by
  constructor
  · rw [lcUnanimous, lcUnanimous, lcWord, lcWord, lcWord, h]
    rfl
  · rw [lcVote_eq, lcVote_eq, h]

/-- R388: with the words agreed and the state in force, a vote clears the condition of source 35 and changes nothing else. -/
theorem revote_same (hu : lcUnanimous d = true) (hs : d.life.state = lcDecode (lcVote d)) : revote d = tamperClear 35 d := by
  have hclear := readied_tamperClear (d := d) 35
  unfold revote
  simp only [if_pos hu]
  exact if_pos (hs.symm.trans hclear.state.symm)

theorem readied_voted (h0 : d.keep.shadow.2.2 = 0) (hu : lcUnanimous d = true) (hs : d.life.state = lcDecode (lcVote d)) (bad : List ℕ) :
    Readied d (voted bad d) := by
  unfold voted
  rw [resume_none h0]
  have hidle : Readied d (onLife d (fun l => { l with active := false, fail := false, row := 0, tries := 0 })) := readied_onLife rfl rfl
  generalize onLife d (fun l => { l with active := false, fail := false, row := 0, tries := 0 }) = e at *
  obtain ⟨hue, hve⟩ := unanimous_of_otp hidle.otp
  rw [repairWords_unanimous (hue.trans hu), revote_same (hue.trans hu) (by rw [hidle.state, hve, hs])]
  exact (hidle.trans (readied_tamperClear 35)).trans readied_ladder

/-- The device at the choice of a boot set. -/
def bootReady (bad lost : List ℕ) (d : Dev) : Dev :=
  sealBlockCheck (applyDeferred (keepStart (ladderLoad lost (decide (4 ≤ (voted bad d).rst.hostLvl)) (voted bad d))))

theorem kBoot_ready (h2 : 2 ≤ d.rst.hostStep) (hb : d.life.booted = false) (bad lost : List ℕ) : kBoot bad lost d = bootSelect (bootReady bad lost d) :=
  kBoot_run h2 hb bad lost

theorem readied_bootReady (h0 : d.keep.shadow.2.2 = 0) (hu : lcUnanimous d = true) (hs : d.life.state = lcDecode (lcVote d)) (hl : d.tmp.lost = false)
    (ha : ∀ x ∈ d.tmp.log, x.deferred = true → x.applied = true) (bad lost : List ℕ) : Readied d (bootReady bad lost d) := by
  unfold bootReady
  have hload := (readied_voted h0 hu hs bad).trans (readied_ladderLoad lost (decide (4 ≤ (voted bad d).rst.hostLvl)))
  generalize ladderLoad lost _ (voted bad d) = e at *
  have hstart := hload.trans (readied_keepStart (hload.lost.trans hl))
  generalize keepStart e = f at *
  exact (hstart.trans (readied_applyDeferred (by rw [hstart.log]; exact ha))).trans readied_sealBlockCheck

/-! ### What a set's choice rests on -/

theorem planeOcts_readied (h : Readied d e) {p : ℕ} (hp : p ≠ 2) (off n : ℕ) : planeOcts e p off n = planeOcts d p off n := by
  simp only [planeOcts, planeOct, h.planes p hp]

theorem bootHdr_readied (h : Readied d e) {p : ℕ} (hp : p ≠ 2) : bootHdr e p = bootHdr d p := planeOcts_readied h hp 0 256

theorem validSet_readied (h : Readied d e) {p : ℕ} (hp : p ≠ 2) : validSet e p = validSet d p := by
  have hsigned : imgSigned e p = imgSigned d p := by
    funext x k i
    rw [imgSigned, imgSigned, planeOcts_readied h hp]
  have hotp := h.otp
  have hstate := h.state
  unfold validSet
  rw [plane, plane, h.planes p hp, hsigned, bootHdr_readied h hp]
  generalize e.life.otp = o at *
  generalize e.life.state = n at *
  rw [hotp, hstate]

theorem bootPlaneOf_readied (h : Readied d e) : bootPlaneOf e = bootPlaneOf d := by
  simp only [bootPlaneOf, validSet_readied h (p := 0) (by omega), validSet_readied h (p := 1) (by omega)]

theorem imgStart_readied (h : Readied d e) {p : ℕ} (hp : p ≠ 2) (k : ℕ) : imgStart e p k = imgStart d p k := by
  simp only [imgStart, bootHdr_readied h hp]

/-! ### The choice -/

theorem bootPlaneOf_none (h0 : validSet d 0 = none) (h1 : validSet d 1 = none) : bootPlaneOf d = none := by
  simp only [bootPlaneOf, h0, h1]

theorem bootPlaneOf_zero {a : ℕ} (h0 : validSet d 0 = some a) (h1 : ∀ b, validSet d 1 = some b → b ≤ a) : bootPlaneOf d = some (0, a) := by
  cases hb : validSet d 1 with
  | none => simp only [bootPlaneOf, h0, hb]
  | some b => simp only [bootPlaneOf, h0, hb, if_neg (Nat.not_lt.mpr (h1 b hb))]

theorem bootPlaneOf_one {b : ℕ} (h1 : validSet d 1 = some b) (h0 : ∀ a, validSet d 0 = some a → a < b) : bootPlaneOf d = some (1, b) := by
  cases ha : validSet d 0 with
  | none => simp only [bootPlaneOf, h1, ha]
  | some a => simp only [bootPlaneOf, h1, ha, if_pos (h0 a ha)]

theorem bootSelect_none (h : bootPlaneOf d = none) :
    bootSelect d = onRst (onLife d (fun l => { l with booted := true, bootStatus := 1 })) (fun r => { r with go := [] }) := by
  simp only [bootSelect, h]

/-- The device with a set chosen. -/
def setChosen (p gen : ℕ) (d : Dev) : Dev := onLife d (fun l => { l with booted := true, bootStatus := 0, bootPlane := p, bootGen := gen })

/-- The device with the window of the chosen set's plane open. -/
def windowOpened (p : ℕ) (d : Dev) : Dev := rgSet d Reg.FLS_XIP_CTL (setBit (rg d Reg.FLS_XIP_CTL) p true)

theorem bootSelect_some {p gen : ℕ} (h : bootPlaneOf d = some (p, gen)) : bootSelect d =
    coreSet (setEntries p (windowOpened p (setChosen p gen d))) 1
      { coreGet (setEntries p (windowOpened p (setChosen p gen d))) 1 with pc := imgStart (setEntries p (windowOpened p (setChosen p gen d))) p 0 } := by
  simp only [bootSelect, h]
  rfl

end

/-! ### The chosen set's start -/

section
variable {d e : Dev}

/-- What the start of a set leaves as it was. -/
structure SetStarted (d e : Dev) (p gen : ℕ) : Prop where
  status : e.life.bootStatus = 0
  plane : e.life.bootPlane = p
  gen : e.life.bootGen = gen
  window : bit (rg e Reg.FLS_XIP_CTL) p = true
  entry : (coreGet e 1).pc = imgStart d p 0
  log : e.tmp.log = d.tmp.log
  keep : e.keep = d.keep
  entries : ∀ i, i < 8 → rg e (Reg.RST_HENTRY + i) = wd (imgStart d p 1)

theorem setEntries_frame (p : ℕ) (d : Dev) : ∃ r, setEntries p d = { d with regs := r } := by
  have hfold : ∀ (l : List ℕ) (g : Dev) (w : Word), ∃ r, l.foldl (fun e i => rgSet e (Reg.RST_HENTRY + i) w) g = { g with regs := r } := fun l g w => by
    induction l generalizing g with
    | nil => exact ⟨g.regs, rfl⟩
    | cons x l ih =>
      obtain ⟨r, hr⟩ := ih (rgSet g (Reg.RST_HENTRY + x) w)
      exact ⟨r, by rw [List.foldl_cons, hr]; rfl⟩
  exact hfold _ d _

theorem rg_setEntries (p a : ℕ) (d : Dev) :
    rg (setEntries p d) a = if Reg.RST_HENTRY ≤ a ∧ a < Reg.RST_HENTRY + 8 then wd (imgStart d p 1) else rg d a := by
  have hfold : ∀ (l : List ℕ) (g : Dev) (w : Word),
      rg (l.foldl (fun e i => rgSet e (Reg.RST_HENTRY + i) w) g) a = if Reg.RST_HENTRY ≤ a ∧ a - Reg.RST_HENTRY ∈ l then w else rg g a := fun l g w => by
    induction l generalizing g with
    | nil => simp
    | cons x l ih =>
      rw [List.foldl_cons, ih, rg_rgSet]
      by_cases hx : a = Reg.RST_HENTRY + x
      · subst hx
        simp
      · rw [if_neg hx]
        refine if_congr ?_ rfl rfl
        have : ¬ (Reg.RST_HENTRY ≤ a ∧ a - Reg.RST_HENTRY = x) := fun h => hx (by omega)
        rw [List.mem_cons, and_or_left]
        exact ⟨.inr, fun h => h.resolve_left this⟩
  refine (hfold _ d _).trans (if_congr ?_ rfl rfl)
  rw [List.mem_range]
  omega

theorem setStarted {p gen : ℕ} (h : Readied d e) (hp : p < 2) (hsel : bootPlaneOf e = some (p, gen)) : SetStarted d (bootSelect e) p gen := by
  rw [bootSelect_some hsel]
  obtain ⟨r, hr⟩ := setEntries_frame p (windowOpened p (setChosen p gen e))
  have hrg := fun a => rg_setEntries p a (windowOpened p (setChosen p gen e))
  have hopen : Readied d (windowOpened p (setChosen p gen e)) :=
    (h.trans (readied_onLife (g := fun l => { l with booted := true, bootStatus := 0, bootPlane := p, bootGen := gen }) rfl rfl)).trans (readied_rgSet ..)
  have hwin : bit (rg (windowOpened p (setChosen p gen e)) Reg.FLS_XIP_CTL) p = true := by
    rw [windowOpened, rg_rgSet, if_pos rfl, bit_setBit_same (by omega)]
  have hlife : (windowOpened p (setChosen p gen e)).life.bootStatus = 0 ∧ (windowOpened p (setChosen p gen e)).life.bootPlane = p ∧
    (windowOpened p (setChosen p gen e)).life.bootGen = gen := ⟨rfl, rfl, rfl⟩
  generalize windowOpened p (setChosen p gen e) = f at *
  obtain ⟨hst, hpl, hgen⟩ := hlife
  have hfin : Readied d (setEntries p f) := by
    rw [hr]
    exact hopen.trans ⟨rfl, rfl, rfl, rfl, rfl, rfl, rfl, fun _ _ => rfl⟩
  have hlife : (setEntries p f).life = f.life := by rw [hr]
  generalize setEntries p f = g at *
  refine ⟨(congrArg Life.bootStatus hlife).trans hst, (congrArg Life.bootPlane hlife).trans hpl, (congrArg Life.bootGen hlife).trans hgen, ?_, ?_, hfin.log, hfin.keep,
    fun i hi => ?_⟩
  · show bit (rg g Reg.FLS_XIP_CTL) p = true
    rw [hrg, if_neg (by unfold Reg.RST_HENTRY Reg.FLS_XIP_CTL; omega), hwin]
  · rw [coreGet_coreSet, if_pos rfl]
    exact imgStart_readied hfin (by omega) 0
  · show rg g (Reg.RST_HENTRY + i) = _
    rw [hrg, if_pos (by omega), imgStart_readied hopen (by omega) 1]

end

/-! ### The boot as a command -/

section
variable {s : State} {bad lost : List ℕ} (h2 : 2 ≤ s.dev.rst.hostStep) (hb : s.dev.life.booted = false) (h0 : s.dev.keep.shadow.2.2 = 0)
  (hu : lcUnanimous s.dev = true) (hs : s.dev.life.state = lcDecode (lcVote s.dev)) (hl : s.dev.tmp.lost = false)
  (ha : ∀ x ∈ s.dev.tmp.log, x.deferred = true → x.applied = true)
include h2 hb h0 hu hs hl ha

theorem exec_kBoot_started {p gen : ℕ} (hp : p < 2) (hsel : bootPlaneOf s.dev = some (p, gen)) :
    ∃ t, exec (.kBoot bad lost) s = .next t ∧ SetStarted s.dev t.dev p gen := by
  have hready := readied_bootReady h0 hu hs hl ha bad lost
  refine ⟨_, exec_eq_next rfl (kBoot_ready h2 hb bad lost), ?_⟩
  simp only
  generalize bootReady bad lost s.dev = e at *
  exact setStarted hready hp ((bootPlaneOf_readied hready).trans hsel)

theorem exec_kBoot_none (hsel : bootPlaneOf s.dev = none) : ∃ t, exec (.kBoot bad lost) s = .next t ∧ t.dev.life.bootStatus = 1 ∧
    t.dev.life.booted = true ∧ t.dev.rst.go = [] ∧ coreGet t.dev 1 = coreGet s.dev 1 := by
  have hready := readied_bootReady h0 hu hs hl ha bad lost
  refine ⟨_, exec_eq_next rfl (kBoot_ready h2 hb bad lost), ?_⟩
  simp only
  generalize bootReady bad lost s.dev = e at *
  rw [bootSelect_none ((bootPlaneOf_readied hready).trans hsel)]
  refine ⟨rfl, rfl, rfl, ?_⟩
  rw [coreGet, coreGet, ← hready.cores]
  rfl

end

end Sys2Proof.Machine

/-! The fuse rows of a transition (O49, R386 to R388): rows that wait, stop or fail, side rows, and the code words. -/

namespace Sys2Proof.Machine

section
variable {d : Dev}

/-- Is the row in writing ready: the transition is under way, and the draw that the row needs is served? -/
def RowReady (d : Dev) : Prop := d.life.active = true ∧ (¬ (d.keep.shadow.2.2 ≤ 2 ∧ d.life.row = 1) ∨ hopServes d (rowBlocks d) = true)

theorem rowDraws_iff : rowDraws d = true ↔ d.keep.shadow.2.2 ≤ 2 ∧ d.life.row = 1 := by simp [rowDraws]

theorem rootRow_iff : rootRow d = true ↔ d.keep.shadow.2.2 ≤ 2 ∧ d.keep.shadow.2.1 = 1 ∧ d.life.row = 1 := by simp [rootRow, and_assoc]

theorem hopWaits_of_serve {n : ℕ} (h : hopServes d n = true) : hopWaits d n = false := by simp [hopWaits, h]

theorem hopRefuses_of_serve {n : ℕ} (h : hopServes d n = true) : hopRefuses d = false := by
  simp only [hopServes, Bool.and_eq_true, decide_eq_true_eq, Bool.not_eq_true'] at h
  obtain ⟨⟨⟨hstate, hstop⟩, hhold⟩, -⟩ := h
  simp [hopRefuses, hopRefusal, hstate, hstop, hhold]

theorem fuseRowWrite_waits {ok : Bool} (h : d.life.active = false ∨ (d.keep.shadow.2.2 ≤ 2 ∧ d.life.row = 1) ∧ hopWaits d (rowBlocks d) = true) :
    fuseRowWrite ok d = d := by
  rw [← rowDraws_iff] at h
  exact if_pos (h.imp_left ne_true_of_eq_false)

theorem fuseRowWrite_refused {ok : Bool} (ha : d.life.active = true) (hd : d.keep.shadow.2.2 ≤ 2 ∧ d.life.row = 1) (h : hopRefuses d = true) :
    fuseRowWrite ok d = rowStop d := by
  rw [← rowDraws_iff] at hd
  have hw : hopWaits d (rowBlocks d) = false := by simp [hopWaits, h]
  simp only [fuseRowWrite, ha, hd, hw, h, not_true_eq_false, false_or, and_false, if_false, and_self, if_true, Bool.false_eq_true]

/-- A row that is ready, judged. -/
theorem fuseRowWrite_ready (h : RowReady d) (ok : Bool) : fuseRowWrite ok d =
    if ¬ ok = true then (if d.life.tries < 2 then onLife d (fun l => { l with tries := l.tries + 1 })
      else if rootRow d = true then rootFail (rootTorn d) else rowStop d)
    else if d.keep.shadow.2.2 ≤ 2 then
      (if (sideWrite d).life.row + 1 < sideRows d.keep.shadow.2.1 then onLife (sideWrite d) (fun l => { l with row := l.row + 1, tries := 0 })
      else onLife (setShadow (sideWrite d) d.keep.shadow.1 d.keep.shadow.2.1 3) (fun l => { l with row := 0, tries := 0 }))
    else if d.keep.shadow.2.2 < 5 then
      setShadow (onLife (blowWord (d.keep.shadow.2.2 - 3) d) (fun l => { l with tries := 0 })) d.keep.shadow.1 d.keep.shadow.2.1 (d.keep.shadow.2.2 + 1)
    else endTransition (onLife (blowWord (d.keep.shadow.2.2 - 3) d) (fun l => { l with tries := 0 })) := by
  obtain ⟨ha, hserve⟩ := h
  rw [← rowDraws_iff] at hserve
  have hw : ¬ (rowDraws d = true ∧ hopWaits d (rowBlocks d) = true) := fun hc => by
    rw [hopWaits_of_serve (hserve.resolve_left (fun hn => hn hc.1))] at hc
    exact Bool.noConfusion hc.2
  have hr : ¬ (rowDraws d = true ∧ hopRefuses d = true) := fun hc => by
    rw [hopRefuses_of_serve (hserve.resolve_left (fun hn => hn hc.1))] at hc
    exact Bool.noConfusion hc.2
  unfold fuseRowWrite
  simp only [ha, not_true_eq_false, false_or, if_neg hw, if_neg hr]

/-! ### A row that fails -/

theorem fuseRowWrite_retry (h : RowReady d) (ht : d.life.tries < 2) : fuseRowWrite false d = onLife d (fun l => { l with tries := l.tries + 1 }) := by
  rw [fuseRowWrite_ready h, if_pos Bool.false_ne_true, if_pos ht]

theorem fuseRowWrite_stop (h : RowReady d) (ht : 2 ≤ d.life.tries) (hroot : ¬ (d.keep.shadow.2.2 ≤ 2 ∧ d.keep.shadow.2.1 = 1 ∧ d.life.row = 1)) :
    fuseRowWrite false d = rowStop d := by
  rw [fuseRowWrite_ready h, if_pos Bool.false_ne_true, if_neg (by omega), if_neg (by rwa [rootRow_iff])]

theorem fuseRowWrite_root (h : RowReady d) (ht : 2 ≤ d.life.tries) (hroot : d.keep.shadow.2.2 ≤ 2 ∧ d.keep.shadow.2.1 = 1 ∧ d.life.row = 1) :
    fuseRowWrite false d = rootFail (rootTorn d) := by
  rw [fuseRowWrite_ready h, if_pos Bool.false_ne_true, if_neg (by omega), if_pos (rootRow_iff.mpr hroot)]

/-- A ROOT row torn and abandoned. -/
def rootLost (secret : Octets) (code : ℕ) (o : Otp) : Otp := rootAbandon (rootBlow secret code o)

/-- The device when a ROOT row has been found torn and abandoned. -/
def rootAbandoned (d : Dev) : Dev := onLife (rootTorn d) (fun l => { l with tries := 0, otp := rootAbandon l.otp })

theorem rootAbandoned_eq (d : Dev) : ∃ x c n, rootAbandoned d = { d with life := { d.life with tries := 0, otp := rootLost x c d.life.otp }, free := n } :=
  ⟨(drawOct d 36).1.take 32, leNat ((drawOct d 36).1.drop 32), d.free + 36, rfl⟩

theorem rootLost_first {o : Otp} (h : o.badA = false) (x c) : rootLost x c o = { o with badA := true, rootA := x, crcA := c } := by
  simp only [rootLost, rootAbandon, rootBlow, h, Bool.false_eq_true, if_false]

theorem rootLost_second {o : Otp} (h : o.badA = true) (x c) : rootLost x c o = { o with badB := true, rootB := x, crcB := c } := by
  simp only [rootLost, rootAbandon, rootBlow, h, if_true]

theorem rootFail_eq (d : Dev) : rootFail (rootTorn d) = if (rootAbandoned d).life.otp.badB = true then toScrap (rootAbandoned d) else rootAbandoned d := rfl

theorem rootFail_frame (d : Dev) : (rootFail (rootTorn d)).hop = d.hop ∧ (rootFail (rootTorn d)).mem = d.mem := by
  obtain ⟨x, c, n, h⟩ := rootAbandoned_eq d
  rw [rootFail_eq, h]
  split <;> exact ⟨rfl, rfl⟩

theorem rootFail_first (hA : d.life.otp.badA = false) (hB : d.life.otp.badB = false) : ∃ x c, (rootFail (rootTorn d)).keep = d.keep ∧
    (rootFail (rootTorn d)).life = { d.life with tries := 0, otp := { d.life.otp with badA := true, rootA := x, crcA := c } } := by
  obtain ⟨x, c, n, h⟩ := rootAbandoned_eq d
  rw [rootFail_eq, h, rootLost_first hA, if_neg (ne_true_of_eq_false hB)]
  exact ⟨x, c, rfl, rfl⟩

theorem rootFail_second (hA : d.life.otp.badA = true) : ∃ x c, (rootFail (rootTorn d)).keep = { d.keep with shadow := (d.keep.shadow.1, 5, 3) } ∧
    (rootFail (rootTorn d)).life = { d.life with tries := 0, row := 0, otp := { d.life.otp with badB := true, rootB := x, crcB := c } } := by
  obtain ⟨x, c, n, h⟩ := rootAbandoned_eq d
  rw [rootFail_eq, h, rootLost_second hA, if_pos rfl]
  exact ⟨x, c, rfl, rfl⟩

/-! ### Side rows -/

theorem fuseRowWrite_first (h : RowReady d) (h2 : d.keep.shadow.2.2 = 2) (hg : d.keep.shadow.2.1 = 1 ∨ d.keep.shadow.2.1 = 2)
    (hrow : (sideWrite d).life.row = 0) : fuseRowWrite true d = onLife (sideWrite d) (fun l => { l with row := l.row + 1, tries := 0 }) := by
  have hrows : sideRows d.keep.shadow.2.1 = 2 := if_pos hg
  rw [fuseRowWrite_ready h, if_neg (fun hn => hn rfl), if_pos (by omega), hrows, hrow, if_pos (by omega)]

theorem fuseRowWrite_last (h : RowReady d) (h2 : d.keep.shadow.2.2 = 2) (hg : d.keep.shadow.2.1 = 1 ∨ d.keep.shadow.2.1 = 2)
    (hrow : (sideWrite d).life.row = 1) :
    fuseRowWrite true d = onLife (setShadow (sideWrite d) d.keep.shadow.1 d.keep.shadow.2.1 3) (fun l => { l with row := 0, tries := 0 }) := by
  have hrows : sideRows d.keep.shadow.2.1 = 2 := if_pos hg
  rw [fuseRowWrite_ready h, if_neg (fun hn => hn rfl), if_pos (by omega), hrows, hrow, if_neg (by omega)]

theorem sideWrite_identity (hg : d.keep.shadow.2.1 = 1) (hrow : d.life.row = 0) :
    sideWrite d = onLife d (fun l => { l with devid := identity, otp := { l.otp with id := true } }) := by
  simp only [sideWrite, hg, hrow, if_true]

/-- The life cycle with a ROOT row blown from two blocks drawn. -/
def rootLife (d : Dev) : Life :=
  { d.life with otp := rootBlow (fitTo 32 (d.hop.fifo.take 2).flatten) (crc32 (fitTo 32 (d.hop.fifo.take 2).flatten)) d.life.otp }

theorem sideWrite_root (hg : d.keep.shadow.2.1 = 1) (hrow : d.life.row = 1) : ∃ hop, sideWrite d = { d with hop := hop, life := rootLife d } := by
  refine ⟨(hwDraw d 2).2.hop, ?_⟩
  simp only [sideWrite, hg, hrow, if_true, if_neg (show ¬ (1 : ℕ) = 0 by omega)]
  rw [hwDraw_frame]
  rfl

theorem sideWrite_owner (hg : d.keep.shadow.2.1 = 2) (hrow : d.life.row = 0) :
    sideWrite d = onLife d (fun l => { l with otp := { l.otp with ownerHash := sha384 (slice l.pkg 32 96) } }) := by
  simp only [sideWrite, hg, hrow, if_true, if_neg (show ¬ (2 : ℕ) = 1 by omega)]
  rfl

/-- The owner KEK's wrap as a row holds it. -/
def wrapRow (d : Dev) : Octets :=
  let iv := (d.hop.fifo.take 1).flatten.take 12
  let c := gcmEnc (kekDeviceOf d) iv (fitTo 16 d.life.devid) (fitTo 32 ((pkgKek d d.life.pkg).getD []))
  iv ++ c.1 ++ c.2

/-- The life cycle with the package's roster and the owner KEK's wrap taken. -/
def wrapLife (d : Dev) : Life := { d.life with roster := pkgRoster d.life.pkg, otp := { d.life.otp with ownerWrap := wrapRow d } }

theorem sideWrite_wrap (hg : d.keep.shadow.2.1 = 2) (hrow : d.life.row = 1) : (sideWrite d).keep = d.keep ∧ (sideWrite d).life = wrapLife d := by
  have heq : sideWrite d = ladderWrite { d with hop := (hwDraw d 1).2.hop, life := wrapLife d } := by
    simp only [sideWrite, hg, hrow, if_neg (show ¬ (2 : ℕ) = 1 by omega), if_neg (show ¬ (1 : ℕ) = 0 by omega)]
    rw [hwDraw_frame]
    rfl
  rw [heq, ladderWrite_frame]
  exact ⟨rfl, rfl⟩

theorem tabGet_listed {α : Type} (z : α) (f : ℕ → α) (n : ℕ) {i : ℕ} (h : i < n) : tabGet z ((List.range n).map (fun i => (i, f i))) i = f i := by
  have hlist : ∀ l : List ℕ, i ∈ l → tabGet z (l.map (fun i => (i, f i))) i = f i := fun l hl => by
    induction l with
    | nil => cases hl
    | cons x l ih =>
      rw [List.map_cons, tabGet]
      by_cases hx : i = x
      · rw [if_pos hx, hx]
      · rw [if_neg hx]
        exact ih ((List.mem_cons.mp hl).resolve_left hx)
  exact hlist _ (List.mem_range.mpr h)

/-! ### Code words -/

theorem restarted_rawEnd (d : Dev) : Restarted d (rawEnd d) := by
  unfold rawEnd
  extract_lets e
  have he : Restarted d e := restarted_onHop d _
  exact .ite he (he.trans (restarted_hopRestart e))

/-- The Towpath's session over. -/
def portShut (l : Life) : Life := { l with sessOpen := false, scope := 0, sessNext := none }

/-- What a vote may change: the Hopper, the registers, the tamper aggregator and the life cycle, of which it keeps the fuses and the transition. -/
structure Revoted (d e : Dev) : Prop where
  frame : e = { d with hop := e.hop, regs := e.regs, tmp := e.tmp, life := e.life }
  otp : e.life.otp = d.life.otp
  active : e.life.active = d.life.active

theorem Revoted.trans {d e f : Dev} (h : Revoted d e) (k : Revoted e f) : Revoted d f := by
  obtain ⟨hframe, hotp, hactive⟩ := h
  obtain ⟨kframe, kotp, kactive⟩ := k
  exact ⟨by rw [kframe, hframe], kotp.trans hotp, kactive.trans hactive⟩

theorem revoted_refl (d : Dev) : Revoted d d := ⟨rfl, rfl, rfl⟩

theorem Revoted.ite {d e f : Dev} {c : Prop} [Decidable c] (h : Revoted d e) (k : Revoted d f) : Revoted d (if c then e else f) := by
  split
  · exact h
  · exact k

theorem revoted_onLife (d : Dev) {f : Life → Life} (ho : (f d.life).otp = d.life.otp) (ha : (f d.life).active = d.life.active) : Revoted d (onLife d f) :=
  ⟨rfl, ho, ha⟩

theorem revoted_rawEnd (d : Dev) : Revoted d (rawEnd d) := by
  have h := (restarted_rawEnd d).frame
  have hlife : (rawEnd d).life = d.life := by rw [h]
  refine ⟨?_, by rw [hlife], by rw [hlife]⟩
  generalize rawEnd d = e at *
  rw [h]

theorem endTowpath_eq (d : Dev) : endTowpath d = onLife (if d.life.sessOpen = true ∧ 1 < d.life.state then rawEnd d else d) portShut := rfl

theorem endTowpath_shut (h : d.life.sessOpen = false) : endTowpath d = onLife d portShut := by
  rw [endTowpath_eq, if_neg (by simp [h])]

theorem revoted_endTowpath (d : Dev) : Revoted d (endTowpath d) := by
  rw [endTowpath_eq]
  exact (Revoted.ite (revoted_rawEnd d) (revoted_refl d)).trans (revoted_onLife _ rfl rfl)

theorem revoted_tamperClear (src : ℕ) (d : Dev) : Revoted d (tamperClear src d) := .ite ⟨rfl, rfl, rfl⟩ (revoted_refl d)

/-- The device with the condition of source 35 cleared where the words agree. -/
def agreementSeen (d : Dev) : Dev := if lcUnanimous d = true then tamperClear 35 d else d

/-- The device with the state that the vote gives, and what depends on it. -/
def stateTaken (n : ℕ) (d : Dev) : Dev := ladder (onLife (if n = 5 then endTowpath d else d) (fun l => { l with state := n }))

theorem revote_eq (d : Dev) : revote d =
    if lcDecode (lcVote d) = (agreementSeen d).life.state then agreementSeen d else stateTaken (lcDecode (lcVote d)) (agreementSeen d) := rfl

theorem revoted_agreementSeen (d : Dev) : Revoted d (agreementSeen d) := .ite (revoted_tamperClear 35 d) (revoted_refl d)

theorem revoted_ladder (d : Dev) : Revoted d (ladder d) := ⟨rfl, rfl, rfl⟩

theorem revoted_stateTaken (n : ℕ) (d : Dev) : Revoted d (stateTaken n d) :=
  (Revoted.ite (revoted_endTowpath d) (revoted_refl d)).trans ((revoted_onLife _ rfl rfl).trans (revoted_ladder _))

theorem revoted_revote (d : Dev) : Revoted d (revote d) := by
  rw [revote_eq]
  exact .ite (revoted_agreementSeen d) ((revoted_agreementSeen d).trans (revoted_stateTaken _ _))

theorem state_revote (d : Dev) : (revote d).life.state = lcDecode (lcVote d) := congrArg Abiding.state (abiding_revote d)

theorem sessOpen_agreementSeen (d : Dev) : (agreementSeen d).life.sessOpen = d.life.sessOpen := by
  unfold agreementSeen tamperClear
  split
  · split <;> rfl
  · rfl

theorem regs_stateTaken {n : ℕ} (h : d.life.sessOpen = false) : (stateTaken n d).regs = d.regs := by
  unfold stateTaken
  rw [endTowpath_shut h]
  split <;> rfl

theorem regs_revote (h : d.life.sessOpen = false) : (revote d).regs = (agreementSeen d).regs := by
  rw [revote_eq]
  split
  · rfl
  · exact regs_stateTaken ((sessOpen_agreementSeen d).trans h)

/-- The words with new bits blown in one of them. -/
def wordsBlown (n b : ℕ) (w : List ℕ) : List ℕ := (List.range 3).map (fun j => if j = n then w.getD j 0 ||| b else w.getD j 0)

theorem getD_wordsBlown (n b : ℕ) (w : List ℕ) {j : ℕ} (hj : j < 3) :
    (wordsBlown n b w).getD j 0 = if j = n then w.getD j 0 ||| b else w.getD j 0 := by
  simp [wordsBlown, List.getD, hj]

/-- The device with new bits blown in one word, before the vote. -/
def bitsBlown (n : ℕ) (d : Dev) : Dev :=
  onLife d (fun l => { l with otp := { l.otp with lc := wordsBlown n (newBits d.keep.shadow.1 d.keep.shadow.2.1 (lcVote d)) l.otp.lc } })

theorem blowWord_eq (n : ℕ) (d : Dev) : blowWord n d = revote (bitsBlown n d) := rfl

/-- The device after a code-word step. -/
def wordStep (d : Dev) : Dev :=
  let x := onLife (blowWord (d.keep.shadow.2.2 - 3) d) (fun l => { l with tries := 0 })
  if d.keep.shadow.2.2 < 5 then setShadow x d.keep.shadow.1 d.keep.shadow.2.1 (d.keep.shadow.2.2 + 1) else endTransition x

theorem fuseRowWrite_word (h : RowReady d) (h3 : 3 ≤ d.keep.shadow.2.2) : fuseRowWrite true d = wordStep d := by
  rw [fuseRowWrite_ready h, if_neg (fun hn => hn rfl), if_neg (by omega)]
  rfl

theorem wordStep_frame (d : Dev) : (wordStep d).keep = (if d.keep.shadow.2.2 < 5 then { d.keep with shadow := (d.keep.shadow.1, d.keep.shadow.2.1,
      d.keep.shadow.2.2 + 1) } else { d.keep with shadow := (0, 0, 0) }) ∧
    (d.life.active = true → (wordStep d).life.active = decide (d.keep.shadow.2.2 < 5)) ∧
    (wordStep d).life.otp = (bitsBlown (d.keep.shadow.2.2 - 3) d).life.otp ∧ (wordStep d).life.state = lcDecode (lcVote (wordStep d)) ∧
    (wordStep d).ops = d.ops ∧ (wordStep d).mem = d.mem ∧ (wordStep d).regs = (revote (bitsBlown (d.keep.shadow.2.2 - 3) d)).regs := by
  unfold wordStep
  rw [blowWord_eq]
  have hb : (bitsBlown (d.keep.shadow.2.2 - 3) d).keep = d.keep ∧ (bitsBlown (d.keep.shadow.2.2 - 3) d).life.active = d.life.active ∧
    (bitsBlown (d.keep.shadow.2.2 - 3) d).ops = d.ops ∧ (bitsBlown (d.keep.shadow.2.2 - 3) d).mem = d.mem := ⟨rfl, rfl, rfl, rfl⟩
  generalize bitsBlown (d.keep.shadow.2.2 - 3) d = e at *
  obtain ⟨hbk, hba, hbo, hbm⟩ := hb
  obtain ⟨hframe, hotp, hactive⟩ := revoted_revote e
  have hstate : (revote e).life.state = lcDecode (lcVote (revote e)) := by rw [state_revote, lcVote_eq e, lcVote_eq (revote e), hotp]
  generalize revote e = f at *
  have hk : f.keep = d.keep := (show f.keep = e.keep by rw [hframe]).trans hbk
  have ho : f.ops = d.ops := (show f.ops = e.ops by rw [hframe]).trans hbo
  have hm : f.mem = d.mem := (show f.mem = e.mem by rw [hframe]).trans hbm
  have ha : f.life.active = d.life.active := hactive.trans hba
  extract_lets x
  have hx : x.keep = d.keep ∧ x.life.active = d.life.active ∧ x.life.otp = e.life.otp ∧ x.life.state = lcDecode (lcVote x) ∧ x.ops = d.ops ∧ x.mem = d.mem ∧
    x.regs = f.regs := ⟨hk, ha, hotp, hstate, ho, hm, rfl⟩
  generalize x = y at *
  obtain ⟨hyk, hya, hyo, hys, hyops, hymem, hyr⟩ := hx
  split
  · next h5 =>
    refine ⟨?_, fun hact => ?_, hyo, hys, hyops, hymem, hyr⟩
    · simp only [setShadow, hyk]
      rfl
    · simpa [setShadow, h5, hya] using hact
  · next h5 =>
    refine ⟨?_, fun hact => ?_, hyo, hys, hyops, hymem, hyr⟩
    · simp only [endTransition, setShadow, onLife, hyk]
      rfl
    · simp [endTransition, setShadow, onLife, h5]

theorem tmpStatus_of_regs {d e : Dev} (h : e.regs = d.regs) (z : ℕ) : tmpStatus e z = tmpStatus d z := by
  rw [tmpStatus, tmpStatus, rg, rg, h]

/-- Whether the words agree is seen by source 35 and by nothing else. -/
theorem tmpStatus_agreementSeen (d : Dev) : (lcUnanimous d = false → (agreementSeen d).regs = d.regs) ∧
    (lcUnanimous d = true → tmpStatus (agreementSeen d) 35 = setBit (tmpStatus d 35) 8 false ∧ ∀ z, z ≠ 35 → tmpStatus (agreementSeen d) z = tmpStatus d z) := by
  refine ⟨fun h => by rw [agreementSeen, if_neg (ne_true_of_eq_false h)], fun h => ?_⟩
  rw [agreementSeen, if_pos h, tamperClear_of_condition (by decide)]
  refine ⟨?_, fun z hz => ?_⟩
  · rw [tmpStatus, rg_rgSet, if_pos rfl]
  · rw [tmpStatus, rg_rgSet, if_neg (by omega)]
    rfl

end

end Sys2Proof.Machine

/-! The life cycle's transitions, challenges and boot (O49). -/

namespace Sys2Proof.Machine

section
variable {s : State}

theorem exec_fuse_failed_root (h : RowReady s.dev) (ht : 2 ≤ s.dev.life.tries)
    (hroot : s.dev.keep.shadow.2.2 ≤ 2 ∧ s.dev.keep.shadow.2.1 = 1 ∧ s.dev.life.row = 1) :
    ∃ t x c, exec (.fuseRowWrite false) s = .next t ∧ t.dev.hop = s.dev.hop ∧ t.dev.mem = s.dev.mem ∧
      (s.dev.life.otp.badA = false → s.dev.life.otp.badB = false → t.dev.keep = s.dev.keep ∧
        t.dev.life = { s.dev.life with tries := 0, otp := { s.dev.life.otp with badA := true, rootA := x, crcA := c } }) ∧
      (s.dev.life.otp.badA = true → t.dev.keep = { s.dev.keep with shadow := (s.dev.keep.shadow.1, 5, 3) } ∧
        t.dev.life = { s.dev.life with tries := 0, row := 0, otp := { s.dev.life.otp with badB := true, rootB := x, crcB := c } }) := by
  have hexec : exec (.fuseRowWrite false) s = .next { s with dev := rootFail (rootTorn s.dev) } := exec_eq_next rfl (fuseRowWrite_root h ht hroot)
  obtain ⟨hhop, hmem⟩ := rootFail_frame s.dev
  by_cases hA : s.dev.life.otp.badA = true
  · obtain ⟨x, c, hsecond⟩ := rootFail_second hA
    exact ⟨_, x, c, hexec, hhop, hmem, fun hn => absurd hA (ne_true_of_eq_false hn), fun _ => hsecond⟩
  · by_cases hB : s.dev.life.otp.badB = true
    · exact ⟨_, [], 0, hexec, hhop, hmem, fun _ hn => absurd hB (ne_true_of_eq_false hn), fun hn => absurd hn hA⟩
    · obtain ⟨x, c, hfirst⟩ := rootFail_first (eq_false_of_ne_true hA) (eq_false_of_ne_true hB)
      exact ⟨_, x, c, hexec, hhop, hmem, fun _ _ => hfirst, fun hn => absurd hn hA⟩

theorem exec_fuse_identity (h : RowReady s.dev) (h2 : s.dev.keep.shadow.2.2 = 2) (hg : s.dev.keep.shadow.2.1 = 1) (hrow : s.dev.life.row = 0) :
    exec (.fuseRowWrite true) s = .next { s with dev := { s.dev with life := { s.dev.life with
      devid := (List.range 16).map Config.identity, otp := { s.dev.life.otp with id := true }, row := 1, tries := 0 } } } := by
  have hside := sideWrite_identity hg hrow
  refine exec_eq_next rfl ((fuseRowWrite_first h h2 (.inl hg) (by rw [hside]; exact hrow)).trans ?_)
  simp only [hside, onLife, hrow]
  rfl

theorem exec_fuse_owner (h : RowReady s.dev) (h2 : s.dev.keep.shadow.2.2 = 2) (hg : s.dev.keep.shadow.2.1 = 2) (hrow : s.dev.life.row = 0) :
    exec (.fuseRowWrite true) s = .next { s with dev := { s.dev with life := { s.dev.life with
      otp := { s.dev.life.otp with ownerHash := sha384 (slice s.dev.life.pkg 32 96) }, row := 1, tries := 0 } } } := by
  have hside := sideWrite_owner hg hrow
  refine exec_eq_next rfl ((fuseRowWrite_first h h2 (.inr hg) (by rw [hside]; exact hrow)).trans ?_)
  simp only [hside, onLife, hrow]

/-- The shadow of a transition at its code words. -/
def atWords (d : Dev) : Keep := { d.keep with shadow := (d.keep.shadow.1, d.keep.shadow.2.1, 3) }

theorem exec_fuse_root (h : RowReady s.dev) (h2 : s.dev.keep.shadow.2.2 = 2) (hg : s.dev.keep.shadow.2.1 = 1) (hrow : s.dev.life.row = 1) :
    ∃ t, exec (.fuseRowWrite true) s = .next t ∧ t.dev.keep = atWords s.dev ∧ t.dev.life.row = 0 ∧
      t.dev.life.otp = rootBlow (fitTo 32 (s.dev.hop.fifo.take 2).flatten) (crc32 (fitTo 32 (s.dev.hop.fifo.take 2).flatten)) s.dev.life.otp := by
  obtain ⟨hop, hside⟩ := sideWrite_root hg hrow
  have hlast := fuseRowWrite_last h h2 (.inl hg) (by rw [hside]; exact hrow)
  rw [hside] at hlast
  exact ⟨_, exec_eq_next rfl hlast, rfl, rfl, rfl⟩

theorem exec_fuse_wrap (h : RowReady s.dev) (h2 : s.dev.keep.shadow.2.2 = 2) (hg : s.dev.keep.shadow.2.1 = 2) (hrow : s.dev.life.row = 1) :
    ∃ t, exec (.fuseRowWrite true) s = .next t ∧ t.dev.keep = atWords s.dev ∧ t.dev.life.otp.ownerWrap = wrapRow s.dev ∧
      t.dev.life.roster = pkgRoster s.dev.life.pkg := by
  obtain ⟨hkeep, hlife⟩ := sideWrite_wrap hg hrow
  have hlast := fuseRowWrite_last h h2 (.inr hg) (by rw [hlife]; exact hrow)
  refine ⟨_, exec_eq_next rfl hlast, ?_⟩
  simp only [setShadow, onLife]
  rw [hkeep, hlife]
  exact ⟨rfl, rfl, rfl⟩

theorem exec_fuse_word (h : RowReady s.dev) (h3 : 3 ≤ s.dev.keep.shadow.2.2) :
    ∃ t, exec (.fuseRowWrite true) s = .next t ∧
      t.dev.keep = (if s.dev.keep.shadow.2.2 < 5 then { s.dev.keep with shadow := (s.dev.keep.shadow.1, s.dev.keep.shadow.2.1, s.dev.keep.shadow.2.2 + 1) }
        else { s.dev.keep with shadow := (0, 0, 0) }) ∧
      t.dev.life.active = decide (s.dev.keep.shadow.2.2 < 5) ∧
      (∀ j, j < 3 → t.dev.life.otp.lc.getD j 0 = if j = s.dev.keep.shadow.2.2 - 3 then
        s.dev.life.otp.lc.getD j 0 ||| newBits s.dev.keep.shadow.1 s.dev.keep.shadow.2.1 (lcVote s.dev) else s.dev.life.otp.lc.getD j 0) ∧
      t.dev.life.state = lcDecode (lcVote t.dev) ∧ t.dev.ops = s.dev.ops ∧ t.dev.mem = s.dev.mem ∧
      (s.dev.life.sessOpen = false → lcUnanimous t.dev = false → t.dev.regs = s.dev.regs) ∧
      (s.dev.life.sessOpen = false → lcUnanimous t.dev = true →
        tmpStatus t.dev 35 = setBit (tmpStatus s.dev 35) 8 false ∧ ∀ z, z ≠ 35 → tmpStatus t.dev z = tmpStatus s.dev z) := by
  refine ⟨_, exec_eq_next rfl (fuseRowWrite_word h h3), ?_⟩
  obtain ⟨hkeep, hactive, hotp, hstate, hops, hmem, hregs⟩ := wordStep_frame s.dev
  have hwords : (bitsBlown (s.dev.keep.shadow.2.2 - 3) s.dev).life.otp.lc =
    wordsBlown (s.dev.keep.shadow.2.2 - 3) (newBits s.dev.keep.shadow.1 s.dev.keep.shadow.2.1 (lcVote s.dev)) s.dev.life.otp.lc := rfl
  have hblown : (bitsBlown (s.dev.keep.shadow.2.2 - 3) s.dev).regs = s.dev.regs ∧
    (bitsBlown (s.dev.keep.shadow.2.2 - 3) s.dev).life.sessOpen = s.dev.life.sessOpen := ⟨rfl, rfl⟩
  generalize bitsBlown (s.dev.keep.shadow.2.2 - 3) s.dev = b at *
  obtain ⟨hbregs, hbopen⟩ := hblown
  simp only
  generalize wordStep s.dev = e at *
  have hu : lcUnanimous e = lcUnanimous b := (unanimous_of_otp hotp).1
  obtain ⟨hdiff, hsame⟩ := tmpStatus_agreementSeen b
  refine ⟨hkeep, hactive h.1, fun j hj => ?_, hstate, hops, hmem, fun ho hn => ?_, fun ho hn => ?_⟩
  · rw [hotp, hwords, getD_wordsBlown _ _ _ hj]
  · rw [hregs, regs_revote (hbopen.trans ho), hdiff (hu.symm.trans hn), hbregs]
  · have hr : e.regs = (agreementSeen b).regs := by rw [hregs, regs_revote (hbopen.trans ho)]
    obtain ⟨h35, hz⟩ := hsame (hu.symm.trans hn)
    exact ⟨by rw [tmpStatus_of_regs hr, h35, tmpStatus_of_regs hbregs], fun z hne => by rw [tmpStatus_of_regs hr, hz z hne, tmpStatus_of_regs hbregs]⟩

end

/-! ### Challenges -/

theorem challengeExpiry_none {d : Dev} (h : d.life.chal = none) : challengeExpiry d = d := by simp only [challengeExpiry, h]

theorem challengeExpiry_some {d : Dev} {c : Octets} {n : ℕ} (h : d.life.chal = some (c, n)) :
    challengeExpiry d = if n + 6000000 ≤ d.pas.count then onLife d (fun l => { l with chal := none }) else d := by simp only [challengeExpiry, h, chalLife]

/-- The fuse rows of a transition, ready to be judged. -/
theorem fuseRows (s : State) (h : RowReady s.dev) :
    let d := s.dev
    let l := d.life
    let gives := fun (i : Instr) (e : Dev) => exec i s = .next { s with dev := e }
    let at_ := fun (n : Nat) => { d.keep with shadow := (d.keep.shadow.1, d.keep.shadow.2.1, n) }
    (l.tries < 2 → gives (.fuseRowWrite false) { d with life := { l with tries := l.tries + 1 } }) ∧
    (2 ≤ l.tries → ¬ (d.keep.shadow.2.2 ≤ 2 ∧ d.keep.shadow.2.1 = 1 ∧ l.row = 1) →
      gives (.fuseRowWrite false) { d with life := { l with tries := 0, active := false, fail := true } }) ∧
    (d.keep.shadow.2.2 = 2 → d.keep.shadow.2.1 = 1 → l.row = 1 → ∃ t, exec (.fuseRowWrite true) s = .next t ∧ t.dev.keep = at_ 3 ∧ t.dev.life.row = 0 ∧
      (l.otp.badA = false → t.dev.life.otp = { l.otp with
        rootA := fitTo 32 (d.hop.fifo.take 2).flatten, crcA := crc32 (fitTo 32 (d.hop.fifo.take 2).flatten) }) ∧
      (l.otp.badA = true → t.dev.life.otp = { l.otp with
        rootB := fitTo 32 (d.hop.fifo.take 2).flatten, crcB := crc32 (fitTo 32 (d.hop.fifo.take 2).flatten) })) ∧
    (d.keep.shadow.2.2 = 2 → d.keep.shadow.2.1 = 2 → l.row = 1 → ∃ t, exec (.fuseRowWrite true) s = .next t ∧ t.dev.keep = at_ 3 ∧
      t.dev.life.otp.ownerWrap = wrapRow d ∧ ∀ i, i < leAt l.pkg 3 1 → tabGet [] t.dev.life.roster i = slice l.pkg (288 + 64 * i) 64) := by
  intro d l gives at_
  refine ⟨fun ht => exec_eq_next rfl (fuseRowWrite_retry h ht), fun ht hroot => exec_eq_next rfl (fuseRowWrite_stop h ht hroot), fun h2 hg hrow => ?_,
    fun h2 hg hrow => ?_⟩
  · obtain ⟨t, hexec, hkeep, hr, hotp⟩ := exec_fuse_root h h2 hg hrow
    exact ⟨t, hexec, hkeep, hr, fun hA => hotp.trans (if_neg (ne_true_of_eq_false hA)), fun hA => hotp.trans (if_pos hA)⟩
  · obtain ⟨t, hexec, hkeep, hwrap, hroster⟩ := exec_fuse_wrap h h2 hg hrow
    exact ⟨t, hexec, hkeep, hwrap, fun i hi => by rw [hroster]; exact tabGet_listed [] (fun i => slice l.pkg (288 + 64 * i) 64) _ hi⟩

/-- The boot of a set in the words of the manual. -/
theorem setStarted_words {d e : Dev} {p gen : ℕ} (h : SetStarted d e p gen) :
    let off := leAt (bootHdr d p) 16 4
    let base := if p = 0 then 0x400000000 else 0x480000000
    e.life.bootStatus = 0 ∧ e.life.bootPlane = p ∧ e.life.bootGen = gen ∧ bit (rg e Reg.FLS_XIP_CTL) p = true ∧
      (coreGet e 1).pc = base + 2 * (off / 9) + leAt (bootHdr d p) 24 4 ∧ e.tmp.log = d.tmp.log ∧
      (∀ i, i < 8 → rg e (Reg.RST_HENTRY + i) = BitVec.ofNat 36 (base + 2 * (leAt (bootHdr d p) 28 4 / 9) + leAt (bootHdr d p) 36 4)) ∧ e.keep = d.keep := by
  intro off base
  obtain ⟨hstatus, hplane, hgen, hwindow, hentry, hlog, hkeep, hentries⟩ := h
  exact ⟨hstatus, hplane, hgen, hwindow, hentry, hlog, hentries, hkeep⟩

/-- Settles O49: a fuse row's end goes by whether the row draws, its tries and its step; the code-word steps rest on what a vote changes; and the boot ROM's
choice of a set rests on nothing that its start has changed. -/
theorem lifeCycle : Obligations.LifeCycle := by
  unfold Obligations.LifeCycle
  intro s d l gives from_ goal step draws rootRowNow at_ n drawn
  refine ⟨fun ok h => exec_same rfl (fuseRowWrite_waits h), fun ok ha hd hr => exec_eq_next rfl (fuseRowWrite_refused ha hd hr), fun ha hd => ?_, fun c n hc => ?_,
    fun hc => exec_same rfl (challengeExpiry_none hc), fun bad lost h => ?_, fun bad lost h2 hb h0 hl => exec_kBoot_voted h2 hb h0 hl,
    fun bad lost h2 hb h0 hu hs hl hap => ?_⟩
  · have hready : RowReady s.dev := ⟨ha, hd⟩
    obtain ⟨hretry, hstop, hroot, hwrap⟩ := fuseRows s hready
    have hblocks : drawn = (s.dev.hop.fifo.take (rowBlocks s.dev)).flatten := rfl
    refine ⟨hretry, hstop, fun ht hr => exec_fuse_failed_root hready ht hr, fun h2 hg => ⟨fun hrow => exec_fuse_identity hready h2 hg hrow, fun hrow => ?_⟩,
      fun h2 hg => ⟨fun hrow => exec_fuse_owner hready h2 hg hrow, fun hrow => ?_⟩, fun h3 h5 hlen => exec_fuse_word hready h3⟩
    · rw [hblocks, rowBlocks, if_pos hg]
      exact hroot h2 hg hrow
    · rw [hblocks, rowBlocks, if_neg (fun h1 => by cases h1.symm.trans hg)]
      exact hwrap h2 hg hrow
  · have hexp := challengeExpiry_some (d := s.dev) hc
    exact ⟨fun h => exec_eq_next rfl (hexp.trans (if_pos h)), fun h => exec_same rfl (hexp.trans (if_neg (Nat.not_le.mpr h)))⟩
  · exact exec_same rfl (if_pos h)
  · intro started
    have hset : ∀ p gen, p < 2 → bootPlaneOf s.dev = some (p, gen) → started p gen := fun p gen hp hsel => by
      obtain ⟨t, hexec, hstarted⟩ := exec_kBoot_started h2 hb h0 hu hs hl hap hp hsel
      exact ⟨t, hexec, setStarted_words hstarted⟩
    exact ⟨fun h0' h1' => exec_kBoot_none h2 hb h0 hu hs hl hap (bootPlaneOf_none h0' h1'), fun a h0' h1' => hset 0 a (by omega) (bootPlaneOf_zero h0' h1'),
      fun b h1' h0' => hset 1 b (by omega) (bootPlaneOf_one h1' h0')⟩

end Sys2Proof.Machine

/-! The flash array's commands (O51): the statement's clause of the erase leaves the operation's opcode free. -/

namespace Sys2Proof.Machine

/-- An operation in the place of plane 0's erase that is no flash command and has a result of its own. -/
def strayErase : Op := { id := 0, src := .cmd 0x13 1, ctx := 1, desc := [], phase := .admitted, result := 1 }

/-- Plane 0 erases, by that operation. -/
def strayErasing : State :=
  { State.reset with dev := { State.reset.dev with ops := [strayErase], fls := { planes := [(0, { state := 3, erase := some 0 })] } } }

/-- Refutes O51: the clause of the erase that completes asks of the plane's operation only its source. One whose opcode is below 0x30 keeps the result it
has, which is added to the word of the result register: 1, where the clause has 0. -/
theorem not_flashPlanes : ¬ Obligations.FlashPlanes := by
  unfold Obligations.FlashPlanes
  intro h
  obtain ⟨-, -, -, herase, -⟩ := h strayErasing 0 (by omega)
  obtain ⟨t, hexec, -, hword, -⟩ := herase 0 strayErase 1 rfl rfl rfl rfl rfl rfl rfl true false none
  have ht : { strayErasing with dev := flsComplete 0 true false none strayErasing.dev } = t := Host.Outcome.next.inj hexec
  have hgives : (cmdGet (flsComplete 0 true false none strayErasing.dev) 0x13 1).word = 1 := by decide
  have hnamed : (cmdGet t.dev 0x13 1).word = 0 := by rw [hword]; rfl
  rw [← ht] at hnamed
  exact absurd (hgives.symm.trans hnamed) (by decide)

end Sys2Proof.Machine

/-! Audit cards put in and identified (O52, R413, R414, R420): a card's blocks, its slot as identification leaves it, and its class. -/

namespace Sys2Proof.Machine

/-! ### Blocks -/

theorem tabFind_getD {α : Type} (z : α) (t : Tab α) (i : ℕ) : (tabFind t i).getD z = tabGet z t i := by
  induction t with
  | nil => rfl
  | cons e t ih =>
    obtain ⟨k, v⟩ := e
    rw [tabFind, tabGet]
    split
    · rfl
    · exact ih

theorem block_eq (x : SdSlot) (b : ℕ) : x.block b = fitTo 512 (tabGet [] x.data b) := by rw [SdSlot.block, tabFind_getD]

theorem fitTo_fitTo (n : ℕ) (o : Octets) : fitTo n (fitTo n o) = fitTo n o := by
  have hlen := fitTo_length_eq n o
  generalize fitTo n o = p at *
  rw [fitTo, hlen, Nat.sub_self, List.take_of_length_le hlen.le]
  exact List.append_nil p

theorem block_of_data {x y : SdSlot} (h : y.data = x.data) (b : ℕ) : y.block b = x.block b := by rw [block_eq, block_eq, h]

theorem topBlock_of_data {x y : SdSlot} (h : y.data = x.data) : topBlock y = topBlock x := by
  have hblock : y.block = x.block := funext (block_of_data h)
  rw [topBlock, topBlock, hblock, h]

section
variable {d e : Dev} {c : ℕ}

theorem recValid_of (hk : e.sdh.key = d.sdh.key) (hl : e.life = d.life) : recValid e = recValid d := by
  funext r
  rw [recValid, recValid, hk, hl]

theorem tailOf_of {x y : SdSlot} (hv : recValid e = recValid d) (h : y.data = x.data) : tailOf e y = tailOf d x := by
  have hblock : y.block = x.block := funext (block_of_data h)
  rw [tailOf, tailOf, topBlock_of_data h, hv, hblock]

/-! ### A slot set, and the rest -/

/-- The other slot is as it was. -/
def OtherSlot (c : ℕ) (d e : Dev) : Prop := sdSlot e (1 - c) = sdSlot d (1 - c)

theorem otherSlot_set (hc : c < 2) (d : Dev) (x : SdSlot) : OtherSlot c d (sdSlotSet d c x) := by
  rw [OtherSlot, sdSlot_sdSlotSet, if_neg (by omega)]

theorem sdSlot_set_self (d : Dev) (c : ℕ) (x : SdSlot) : sdSlot (sdSlotSet d c x) c = x := by rw [sdSlot_sdSlotSet, if_pos rfl]

/-! ### Insertion -/

theorem cardInsert_empty (hc : c < 2) (h : (sdSlot d c).state = 0) :
    cardInsert c d = sdSlotSet d c { spent := (sdSlot d c).spent, state := 1, since := d.pas.count } :=
  if_neg (by rw [h]; omega)

theorem cardInsert_seated (h : (sdSlot d c).state ≠ 0) : cardInsert c d = d := if_pos (.inr h)

/-! ### Identification -/

theorem cardIdentify_early {f : SdCard} (h : (sdSlot d c).state ≠ 1 ∨ d.pas.count < (sdSlot d c).since + 400 ∨ (sdSlot d c).since + 24400 < d.pas.count) :
    cardIdentify c f d = d := by
  refine if_pos ?_
  rw [sdDebounce, identPasses]
  show 2 ≤ c ∨ (sdSlot d c).state ≠ 1 ∨ d.pas.count < (sdSlot d c).since + 400 ∨ (sdSlot d c).since + 400 + 24000 < d.pas.count
  omega

/-- The slot with the commands that went to its card, and what the identification ended with. -/
def identSent (f : SdCard) (x : SdSlot) : SdSlot := { x with sent := (retried (identCmds f).1 f.fails).1, sub := cardSub f }

/-- The data of a card, as its slot keeps them. -/
def cardData (f : SdCard) : Tab Octets := f.data.foldl (fun t e => if e.1 < f.blocks then tabSet [] t e.1 (fitTo 512 e.2) else t) []

/-- The slot of an identified card, before its class. -/
def identified (f : SdCard) (x : SdSlot) : SdSlot :=
  { identSent f x with type := identCmds.cardType f, wide := f.wide, hs := f.hs, clk := if f.hs then 2 else 1, rca := f.rca, perm := f.perm,
                       tmp := f.tmp, blocks := f.blocks, cid := fitTo 16 f.cid, data := cardData f }

theorem cardIdentify_eq {f : SdCard} (hc : c < 2) (h1 : (sdSlot d c).state = 1) (hlow : (sdSlot d c).since + 400 ≤ d.pas.count)
    (hhigh : d.pas.count ≤ (sdSlot d c).since + 24400) : cardIdentify c f d =
      if cardSub f ≠ 0 then sdSlotSet d c { identSent f (sdSlot d c) with state := 2 } else classify c (sdSlotSet d c (identified f (sdSlot d c))) := by
  refine if_neg ?_
  rw [sdDebounce, identPasses]
  show ¬ (2 ≤ c ∨ (sdSlot d c).state ≠ 1 ∨ d.pas.count < (sdSlot d c).since + 400 ∨ (sdSlot d c).since + 400 + 24000 < d.pas.count)
  omega

/-- R414: no command failed: the sub-code is that of CMD8's echo or of ACMD41. -/
theorem cardSub_answered {f : SdCard} (h : f.fails = []) : cardSub f =
    if f.cmd8 ≠ none ∧ f.cmd8 ≠ some 0x1AA then 0x41 else if f.ready.any (fun t => decide (t ≤ 1000)) then 0 else 0x42 := by
  have hkept : ∀ l, (retried l []).2 = false := fun l => by
    induction l with
    | nil => rfl
    | cons x l ih => simpa [retried] using ih
  have hready : (1000 < f.ready.getD 1001) ↔ ¬ f.ready.any (fun t => decide (t ≤ 1000)) = true := by
    cases f.ready with
    | none => simp
    | some t => simp
  rw [cardSub, h]
  simp only [hkept, Bool.false_eq_true, if_false]
  unfold identCmds
  simp only [hready]
  by_cases h8 : f.cmd8 ≠ none ∧ f.cmd8 ≠ some 0x1AA
  · rw [if_pos h8, if_pos h8]
  · rw [if_neg h8, if_neg h8]
    by_cases hr : f.ready.any (fun t => decide (t ≤ 1000)) = true
    · rw [if_neg (not_not_intro hr), if_pos hr]
    · rw [if_pos hr, if_neg hr]

/-- R415: a command that fails a third time ends the identification. -/
theorem cardSub_failed {f : SdCard} {n : ℕ} (hn : 3 ≤ n) (h : f.fails = [n]) : cardSub f = 0x40 := by
  obtain ⟨a, l, hcmds⟩ : ∃ a l, (identCmds f).1 = a :: l := by
    unfold identCmds
    extract_lets start t polls rca
    split
    · exact ⟨_, _, rfl⟩
    · split <;> exact ⟨_, _, rfl⟩
  rw [cardSub, h, hcmds]
  simp [retried, hn]

/-! ### Classification -/

theorem slots_sealWith (kind origin : ℕ) (prev body : Octets) (d : Dev) : (sealWith kind origin prev body d).2.sdh.slots = d.sdh.slots := (rfl)

/-- A RESTART owed to a slot's card. -/
def restartOwed (c : ℕ) (r : AuditRec) (d : Dev) : Dev :=
  onSdh (sdSlotSet d c { sdSlot d c with owed := some r }) (fun h => { h with restart := 0 })

theorem restartOwed_slots (hc : c < 2) (r : AuditRec) (d : Dev) :
    (∃ o, sdSlot (restartOwed c r d) c = { sdSlot d c with owed := o }) ∧ OtherSlot c d (restartOwed c r d) :=
  ⟨⟨some r, sdSlot_set_self d c { sdSlot d c with owed := some r }⟩, otherSlot_set hc d { sdSlot d c with owed := some r }⟩

/-- Counter 5 as a RESTART after a KEEP reset resumes it. -/
def restartCounted (c : ℕ) (d : Dev) : Dev :=
  if d.sdh.restart = 2 then { d with keep := { d.keep with monc := tabSet 0 d.keep.monc 5 (max (sdSlot d c).last (monc d 5)) } } else d

theorem slots_restartCounted (c : ℕ) (d : Dev) : (restartCounted c d).sdh.slots = d.sdh.slots := by
  unfold restartCounted
  split <;> rfl

theorem restartRecord_eq (c : ℕ) (d : Dev) : ∃ body, restartRecord c d =
    if d.sdh.restart = 0 ∨ ¬ maySeal d = true ∨ (sdSlot d c).state ≠ 5 ∨ ¬ (sdSlot d c).old = true then d
    else restartOwed c (sealWith 4 0xB8 (sdSlot d c).tailMac body (restartCounted c d)).1 (sealWith 4 0xB8 (sdSlot d c).tailMac body (restartCounted c d)).2 :=
  ⟨_, rfl⟩

theorem restartRecord_slots (hc : c < 2) (d : Dev) : (∃ o, sdSlot (restartRecord c d) c = { sdSlot d c with owed := o }) ∧ OtherSlot c d (restartRecord c d) := by
  obtain ⟨body, heq⟩ := restartRecord_eq c d
  rw [heq]
  split
  · exact ⟨⟨_, rfl⟩, rfl⟩
  · have hr := (slots_sealWith 4 0xB8 (sdSlot d c).tailMac body (restartCounted c d)).trans (slots_restartCounted c d)
    generalize sealWith 4 0xB8 (sdSlot d c).tailMac body (restartCounted c d) = r at *
    have hslot : ∀ k, sdSlot r.2 k = sdSlot d k := fun k => by rw [sdSlot, hr, sdSlot]
    obtain ⟨⟨o, hself⟩, hother⟩ := restartOwed_slots hc r.1 r.2
    exact ⟨⟨o, hself.trans (by rw [hslot])⟩, hother.trans (hslot _)⟩

/-- The slot of a card that is classified, not OPEN. -/
def classed (n : ℕ) (x : SdSlot) : SdSlot := { x with state := n, next := 0, old := false }

theorem classify_other (h : classOf d (sdSlot d c) ≠ 5) :
    classify c d = sdSlotSet d c (classed (classOf d (sdSlot d c)) (sdSlot d c)) := if_pos h

/-- The slot of a card that its tail makes OPEN. -/
def classedOpen (d : Dev) (x : SdSlot) : SdSlot :=
  { x with state := 5, next := max ((topBlock x).getD 0 + 1) (pastSpent d x.cid), first := recSeq (x.block 0), last := recSeq ((tailOf d x).getD []), old := true,
           tailMac := recMac ((tailOf d x).getD []) }

theorem slots_dropFirst (d : Dev) : (dropFirst d).sdh.slots = d.sdh.slots := by
  unfold dropFirst
  split
  · rfl
  · rw [sdh_onSdh]
    split <;> rfl

theorem classify_open (hc : c < 2) (h : classOf d (sdSlot d c) = 5) :
    (∃ o, sdSlot (classify c d) c = { classedOpen d (sdSlot d c) with owed := o }) ∧ OtherSlot c d (classify c d) := by
  unfold classify
  extract_lets x st w t e f
  rw [if_neg (not_not_intro h)]
  have hf : f.sdh.slots = e.sdh.slots := by
    simp only [f]
    split
    · split
      · exact slots_dropFirst e
      · rfl
    · rfl
  have hslot : ∀ k, sdSlot f k = sdSlot e k := fun k => by rw [sdSlot, hf, sdSlot]
  obtain ⟨⟨o, hself⟩, hother⟩ := restartRecord_slots hc f
  refine ⟨⟨o, hself.trans ?_⟩, (hother.trans (hslot _)).trans (otherSlot_set hc d _)⟩
  rw [hslot, sdSlot_set_self]
  rfl

/-- What identification learns of a card. -/
def cardFacts (x : SdSlot) : ℕ × Octets × Bool × Bool × Bool × Bool × ℕ × ℕ × ℕ × Tab Octets :=
  (x.blocks, x.cid, x.perm, x.tmp, x.wide, x.hs, x.rca, x.clk, x.type, x.data)

theorem classify_slots (hc : c < 2) (d : Dev) : cardFacts (sdSlot (classify c d) c) = cardFacts (sdSlot d c) ∧
    (sdSlot (classify c d) c).state = classOf d (sdSlot d c) ∧
    (classOf d (sdSlot d c) = 5 → (topBlock (sdSlot d c)).getD 0 + 1 ≤ (sdSlot (classify c d) c).next) ∧ OtherSlot c d (classify c d) := by
  by_cases h : classOf d (sdSlot d c) = 5
  · obtain ⟨⟨o, hself⟩, hother⟩ := classify_open hc h
    rw [hself]
    exact ⟨rfl, h.symm, fun _ => Nat.le_max_left .., hother⟩
  · rw [classify_other h, sdSlot_set_self]
    exact ⟨rfl, rfl, fun h5 => absurd h5 h, otherSlot_set hc d _⟩

/-- R420: the card's own first block, and the kind of its tail. -/
def OwnCard (d : Dev) (x : SdSlot) : Prop := recValid d (x.block 0) = true ∧ recKind (x.block 0) = 2

theorem classOf_eq (d : Dev) (x : SdSlot) [Decidable (OwnCard d x)] : classOf d x =
    if OwnCard d x ∧ (tailOf d x).map recKind = some 3 then 6
    else if x.perm = true ∨ x.tmp = true then 7
    else if blankBlock (x.block 0) = true then 3
    else if OwnCard d x ∧ tailOf d x ≠ none then 5 else 4 := by
  have hown : (recValid d (x.block 0) && decide (recKind (x.block 0) = 2)) = true ↔ OwnCard d x := by
    rw [Bool.and_eq_true, decide_eq_true_eq]
    rfl
  have htail : (tailOf d x).isSome = true ↔ tailOf d x ≠ none := Option.isSome_iff_ne_none
  simp only [classOf, hown, htail]

theorem classOf_cases (d : Dev) (x : SdSlot) :
    (OwnCard d x ∧ (tailOf d x).map recKind = some 3 → classOf d x = 6) ∧
    (¬ (OwnCard d x ∧ (tailOf d x).map recKind = some 3) → x.perm = true ∨ x.tmp = true → classOf d x = 7) ∧
    (¬ (OwnCard d x ∧ (tailOf d x).map recKind = some 3) → x.perm = false → x.tmp = false →
      (blankBlock (x.block 0) = true → classOf d x = 3) ∧
      (blankBlock (x.block 0) = false → OwnCard d x → tailOf d x ≠ none → classOf d x = 5) ∧
      (blankBlock (x.block 0) = false → ¬ (OwnCard d x ∧ tailOf d x ≠ none) → classOf d x = 4)) := by
  classical
  rw [classOf_eq]
  refine ⟨fun h => if_pos h, fun h hp => by rw [if_neg h, if_pos hp], fun h hp ht => ?_⟩
  have hplain : ¬ (x.perm = true ∨ x.tmp = true) := by simp [hp, ht]
  rw [if_neg h, if_neg hplain]
  exact ⟨fun hb => if_pos hb, fun hb ho hn => by rw [if_neg (ne_true_of_eq_false hb), if_pos ⟨ho, hn⟩],
    fun hb hn => by rw [if_neg (ne_true_of_eq_false hb), if_neg hn]⟩

theorem cardData_one {f : SdCard} {e : ℕ × Octets} (h : f.data = [e]) (he : e.1 < f.blocks) : tabGet [] (cardData f) e.1 = fitTo 512 e.2 := by
  rw [cardData, h, List.foldl_cons, List.foldl_nil, if_pos he, tabGet_tabSet, if_pos rfl]

theorem cardType_eq (f : SdCard) : identCmds.cardType f = if f.cmd8 = none ∨ f.ccs = false then 0 else if f.blocks ≤ 2 ^ 26 then 1 else 2 := by
  simp only [identCmds.cardType, Option.isNone_iff_eq_none, Bool.not_eq_true]

/-- R414, R420: a card that identification has found is classified by what its blocks hold. -/
theorem cardIdentify_found {f : SdCard} (hc : c < 2) (h1 : (sdSlot d c).state = 1) (hlow : (sdSlot d c).since + 400 ≤ d.pas.count)
    (hhigh : d.pas.count ≤ (sdSlot d c).since + 24400) (hsub : cardSub f = 0) :
    let y := sdSlot (cardIdentify c f d) c
    OtherSlot c d (cardIdentify c f d) ∧ cardFacts y = cardFacts (identified f (sdSlot d c)) ∧
      (OwnCard d y ∧ (tailOf d y).map recKind = some 3 → y.state = 6) ∧
      (¬ (OwnCard d y ∧ (tailOf d y).map recKind = some 3) → f.perm = true ∨ f.tmp = true → y.state = 7) ∧
      (¬ (OwnCard d y ∧ (tailOf d y).map recKind = some 3) → f.perm = false → f.tmp = false →
        (blankBlock (y.block 0) = true → y.state = 3) ∧
        (blankBlock (y.block 0) = false → OwnCard d y → tailOf d y ≠ none → y.state = 5 ∧ y.next ≥ (topBlock y).getD 0 + 1) ∧
        (blankBlock (y.block 0) = false → ¬ (OwnCard d y ∧ tailOf d y ≠ none) → y.state = 4)) := by
  intro y
  have heq := cardIdentify_eq (f := f) hc h1 hlow hhigh
  rw [if_neg (not_not_intro hsub)] at heq
  obtain ⟨hfacts, hstate, hnext, hother⟩ := classify_slots hc (sdSlotSet d c (identified f (sdSlot d c)))
  rw [← heq, sdSlot_set_self] at hfacts hstate hnext
  rw [← heq] at hother
  have hv : recValid (sdSlotSet d c (identified f (sdSlot d c))) = recValid d := recValid_of rfl rfl
  have hset := otherSlot_set hc d (identified f (sdSlot d c))
  have hperm : (identified f (sdSlot d c)).perm = f.perm ∧ (identified f (sdSlot d c)).tmp = f.tmp := ⟨rfl, rfl⟩
  change cardFacts y = _ at hfacts
  change y.state = _ at hstate
  change _ → _ ≤ y.next at hnext
  generalize sdSlotSet d c (identified f (sdSlot d c)) = e at *
  generalize identified f (sdSlot d c) = z at *
  have hdata : y.data = z.data := congrArg (fun p => p.2.2.2.2.2.2.2.2.2) hfacts
  have htail : tailOf e z = tailOf d y := tailOf_of hv hdata.symm
  have hown : OwnCard e z ↔ OwnCard d y := by rw [OwnCard, OwnCard, hv, block_of_data hdata]
  obtain ⟨h6, h7, hrest⟩ := classOf_cases e z
  rw [hown, htail] at h6 h7 hrest
  rw [block_of_data hdata.symm] at hrest
  rw [hperm.1, hperm.2] at h7 hrest
  refine ⟨hother.trans hset, hfacts, fun h => hstate.trans (h6 h), fun h hp => hstate.trans (h7 h hp), fun h hp ht => ?_⟩
  obtain ⟨h3, h5, h4⟩ := hrest h hp ht
  refine ⟨fun hb => hstate.trans (h3 hb), fun hb ho hn => ⟨hstate.trans (h5 hb ho hn), ?_⟩, fun hb hn => hstate.trans (h4 hb hn)⟩
  rw [topBlock_of_data hdata]
  exact hnext (h5 hb ho hn)

end

end Sys2Proof.Machine

/-! The write path of the audit cards (O52, R415, R421 to R423): a record taken, failed or timed out, a card opened, closed or taken out. -/

namespace Sys2Proof.Machine

section
variable {d : Dev} {c : ℕ}

/-! ### What a slot writes next -/

theorem nextRecord_plain {r : AuditRec} {rest : List AuditRec} (hb : d.sdh.busy = none) (hw : d.sdh.writer = some c) (ho : (sdSlot d c).owed = none)
    (hs : d.sdh.spare = []) (hbuf : d.sdh.buffer = r :: rest) (hn : (sdSlot d c).next + 1 < (sdSlot d c).blocks) : nextRecord d c = some (.plain, r) := by
  simp only [nextRecord, hb, if_neg (Nat.not_le.mpr hn), ho, hw, if_true, firstRecord, hs, hbuf, Option.map_some]

theorem nextRecord_restart {r : AuditRec} (hb : d.sdh.busy = none) (ho : (sdSlot d c).owed = some r) (hn : (sdSlot d c).next + 1 < (sdSlot d c).blocks) :
    nextRecord d c = some (.restart, r) := by
  simp only [nextRecord, hb, if_neg (Nat.not_le.mpr hn), ho]

theorem nextRecord_special {r : AuditRec} {close : Bool} (hb : d.sdh.busy = some (c, close)) (hs : d.sdh.special = some r)
    (hn : (sdSlot d c).next < (sdSlot d c).blocks) : nextRecord d c = some (if close then .close else .open_, r) := by
  simp only [nextRecord, hb, hs, hn, true_and, if_true, Option.map_some]

/-- What the choice of a slot's next record rests on. -/
theorem nextRecord_of {e : Dev} (hb : e.sdh.busy = d.sdh.busy) (hs : e.sdh.special = d.sdh.special) (hw : e.sdh.writer = d.sdh.writer)
    (hsp : e.sdh.spare = d.sdh.spare) (hbuf : e.sdh.buffer = d.sdh.buffer) (hn : (sdSlot e c).next = (sdSlot d c).next)
    (hbl : (sdSlot e c).blocks = (sdSlot d c).blocks) (ho : (sdSlot e c).owed = (sdSlot d c).owed) : nextRecord e c = nextRecord d c := by
  simp only [nextRecord, firstRecord, hb, hs, hw, hsp, hbuf, hn, hbl, ho]

/-! ### The end of a write without its record -/

/-- The device with an input queued for its cores. -/
def withInput (i : Input) (d : Dev) : Dev := { d with pas := { d.pas with inq := d.pas.inq ++ [i] } }

/-- The result of a record write that no command asked for. -/
def writeInput (d : Dev) (c st sub : ℕ) : Input := { core := 0x10, cls := 1, key := 0xB8, pass := d.pas.count, data := [0, st, sub, c] }

theorem writeEnds_plain {st sub : ℕ} (ho : slotOp d c = none) (hn : (nextRecord d c).isSome = true) :
    writeEnds c st sub d = withInput (writeInput d c st sub) d := by
  rw [writeEnds, ho, if_neg (by simp), if_pos hn]
  rfl

theorem writeEnds_none {st sub : ℕ} (ho : slotOp d c = none) (hn : nextRecord d c = none) : writeEnds c st sub d = d := by
  rw [writeEnds, ho, hn, if_neg (by simp), if_neg (by simp)]

theorem dropSpecial_none (hb : d.sdh.busy = none) (ho : (sdSlot d c).owed = none) : dropSpecial c d = d := by
  simp only [dropSpecial, ho, hb]

/-- The writer's card no longer the writer's. -/
def writerLeft (c : ℕ) (d : Dev) : Dev := if d.sdh.writer = some c then onSdh d (fun h => { h with writer := none }) else d

theorem writerLeft_sdh (c : ℕ) (d : Dev) : (writerLeft c d).sdh.writer = (if d.sdh.writer = some c then none else d.sdh.writer) ∧
    (writerLeft c d).sdh.buffer = d.sdh.buffer := by
  unfold writerLeft
  split
  · exact ⟨rfl, rfl⟩
  · exact ⟨rfl, rfl⟩

theorem writerLeft_frame (c : ℕ) (d : Dev) : (writerLeft c d).pas = d.pas ∧ (writerLeft c d).ops = d.ops ∧ ∀ k, sdSlot (writerLeft c d) k = sdSlot d k := by
  unfold writerLeft
  split <;> exact ⟨rfl, rfl, fun _ => rfl⟩

/-! ### Removal -/

theorem cardRemove_empty {sent : Bool} (h : (sdSlot d c).state = 0) : cardRemove c sent d = d := if_pos (.inr h)

/-- The slot without its card. -/
def slotLeft (c : ℕ) (spent : Option (ℕ × Octets)) (d : Dev) : Dev := writerLeft c (sdSlotSet d c { spent := spent })

theorem cardRemove_quiet {sent : Bool} (hc : c < 2) (h : (sdSlot d c).state ≠ 0) (ho : slotOp d c = none) (hb : d.sdh.busy = none)
    (hw : (sdSlot d c).owed = none) (hu : ∀ o ∈ d.ops, slotUse c o = false) : ∃ e, e.sdh = d.sdh ∧ e.ops = d.ops ∧
      cardRemove c sent d = slotLeft c (if sent = true ∧ (nextRecord d c).isSome then some ((sdSlot d c).next, (sdSlot d c).cid) else (sdSlot d c).spent) e := by
  obtain ⟨e, hends, hsdh, hops⟩ : ∃ e, writeEnds c St.cardAbsent 1 d = e ∧ e.sdh = d.sdh ∧ e.ops = d.ops := by
    by_cases hn : (nextRecord d c).isSome = true
    · exact ⟨_, writeEnds_plain ho hn, rfl, rfl⟩
    · exact ⟨_, writeEnds_none ho (by simpa using hn), rfl, rfl⟩
  refine ⟨e, hsdh, hops, ?_⟩
  have hdrop : dropSpecial c e = e := dropSpecial_none (by rw [hsdh, hb]) (by rw [sdSlot, hsdh]; exact hw)
  have hnone : (slotLeft c (if sent = true ∧ (nextRecord d c).isSome then some ((sdSlot d c).next, (sdSlot d c).cid) else (sdSlot d c).spent) e).ops.filter
      (slotUse c) = [] := by
    rw [slotLeft, (writerLeft_frame c _).2.1, sdSlotSet_ops, hops]
    exact List.filter_eq_nil_iff.mpr (fun o hmem => ne_true_of_eq_false (hu o hmem))
  rw [cardRemove, if_neg (by omega)]
  simp only [hends, hdrop, Bool.and_eq_true]
  rw [← writerLeft, ← slotLeft, hnone, List.foldl_nil]

/-! ### A record taken -/

/-- The commands of a write. -/
def writeCmds (x : SdSlot) (n : ℕ) : List (ℕ × ℕ) := List.replicate (min n 2 + 1) (24, x.addr x.next) ++ [(13, x.rca * 2 ^ 16)]

/-- What a record taken does on the device, by what the slot wrote. -/
def slotWritten (c n : ℕ) (k : SdWrite) (r : AuditRec) (d : Dev) : Dev :=
  match k with
  | .open_ => slotOpEnd c St.done 0 (onSdh (sdSlotSet d c { putBlock (sdSlot d c) r (writeCmds (sdSlot d c) n) with state := 5, old := false })
      (fun h => { h with busy := none, special := none, writer := some (h.writer.getD c) }))
  | .close => slotOpEnd c St.done 0 (onSdh (sdSlotSet d c { putBlock (sdSlot d c) r (writeCmds (sdSlot d c) n ++ [(27, 0), (13, (sdSlot d c).rca * 2 ^ 16)])
        with state := 6, tmp := true })
      (fun h => { h with busy := none, special := none, writer := if h.writer = some c then none else h.writer }))
  | .restart => sdSlotSet d c { putBlock (sdSlot d c) r (writeCmds (sdSlot d c) n) with owed := none }
  | .plain => dropFirst (sdSlotSet d c (putBlock (sdSlot d c) r (writeCmds (sdSlot d c) n)))

theorem recordWrite_taken {n : ℕ} {k : SdWrite} {r : AuditRec} (hnext : nextRecord d c = some (k, r)) (hl : ¬ writeLate d c = true) (hn : n < 3) :
    recordWrite c n d = noteWritten r.seq (slotWritten c n k r d) := by
  simp only [recordWrite, hnext, if_neg hl, if_neg (Nat.not_le.mpr hn)]
  cases k <;> rfl

/-- A record that the card has taken: it stands in the card's next block, and the SEQ is noted. -/
def Wrote (c : ℕ) (d e : Dev) (r : AuditRec) : Prop :=
  OtherSlot c d e ∧ e.sdh.written = max d.sdh.written r.seq ∧ (sdSlot e c).block (sdSlot d c).next = fitTo 512 r.data ∧
    (∀ b, b ≠ (sdSlot d c).next → (sdSlot e c).block b = (sdSlot d c).block b) ∧ (sdSlot e c).next = (sdSlot d c).next + 1 ∧ (sdSlot e c).last = r.seq

theorem wrote_of {e : Dev} {r : AuditRec} {y : SdSlot} {cmds : List (ℕ × ℕ)} (hother : OtherSlot c d e) (hw : e.sdh.written = d.sdh.written)
    (hslot : sdSlot e c = y) (hy : y.data = (putBlock (sdSlot d c) r cmds).data ∧ y.next = (sdSlot d c).next + 1 ∧ y.last = r.seq) :
    Wrote c d (noteWritten r.seq e) r := by
  obtain ⟨hdata, hnext, hlast⟩ := hy
  have hblock : ∀ b, y.block b = if b = (sdSlot d c).next then fitTo 512 r.data else (sdSlot d c).block b := fun b => by
    have hput : (putBlock (sdSlot d c) r cmds).data = tabSet [] (sdSlot d c).data (sdSlot d c).next r.data := rfl
    rw [block_eq, hdata, hput, tabGet_tabSet, block_eq]
    split <;> rfl
  have hsame : ∀ k, sdSlot (noteWritten r.seq e) k = sdSlot e k := fun _ => rfl
  rw [Wrote, OtherSlot, hsame, hsame, hslot]
  refine ⟨hother, ?_, by rw [hblock, if_pos rfl], fun b hb => by rw [hblock, if_neg hb], hnext, hlast⟩
  rw [← hw]
  rfl

/-- A command of a command register that ends gives its status in its result register. -/
theorem cmdGet_endWith {o : Op} {blk m st sub pass : ℕ} (hsrc : o.src = .cmd blk m) (hdead : o.dead = false) (hop : 2 < o.opcode / 16) (e : Dev) :
    cmdGet (endWith e o st sub e.pas.count pass) blk m = ⟨false, true, st + sub * 256⟩ := by
  have hop' : ¬ o.opcode / 16 ≤ 2 := by omega
  have hcmd := (deliver_cmd (o := { o with status := st, sub := sub, outs := [], resLen := 0, ext := false, result := 0 }) hsrc rfl (unreserve e o.id) pass).1
  have hpas : (unreserve e o.id).pas = e.pas := rfl
  rw [hpas] at hcmd
  simpa only [endWith, hdead, Bool.false_eq_true, if_false, if_neg hop', Nat.add_zero] using hcmd

theorem slotOp_opcode {o : Op} (h : slotOp d c = some o) : 2 < o.opcode / 16 := by
  have hfound := List.find?_some h
  simp only [Bool.and_eq_true, decide_eq_true_eq] at hfound
  omega

theorem slotOp_of {e : Dev} (h : e.ops = d.ops) : slotOp e c = slotOp d c := by rw [slotOp, slotOp, h]

theorem sdh_endWith (e : Dev) (o : Op) (st sub due pass : ℕ) : (endWith e o st sub due pass).sdh = e.sdh :=
  congrArg (fun k => k.rest.sdh) (calm_endWith e o st sub due pass)

end

end Sys2Proof.Machine

/-! The audit cards' commands (O52). -/

namespace Sys2Proof.Machine

section
variable {d : Dev} {c : ℕ}

/-! ### A record of the writer -/

theorem dropFirst_buffer {r : AuditRec} {rest : List AuditRec} (hs : d.sdh.spare = []) (hbuf : d.sdh.buffer = r :: rest) :
    dropFirst d = onSdh d (fun h => { h with buffer := h.buffer.drop 1 }) := by
  have hfirst : firstRecord d = some r := by simp only [firstRecord, hs, hbuf]
  have hne : ¬ d.sdh.spare.head? = some r := by simp [hs]
  simp only [dropFirst, hfirst, onSdh, if_neg hne]

/-- A slot whose card has failed. -/
def slotFailed (x : SdSlot) : SdSlot := { x with state := 2, sub := 0x40, wrAt := none }

/-- R415: a card fails while no command uses its slot and nothing is owed to it: `e` is the device when the write has been reported, if there was one. -/
theorem slotFails_quiet {e : Dev} (hc : c < 2) (hends : writeEnds c St.integrity 0x40 d = e) (hsdh : e.sdh = d.sdh) (hb : d.sdh.busy = none)
    (ho : (sdSlot d c).owed = none) : OtherSlot c d (slotFails c d) ∧ sdSlot (slotFails c d) c = slotFailed (sdSlot d c) ∧
      (slotFails c d).pas = e.pas ∧ (slotFails c d).ops = e.ops ∧ (slotFails c d).sdh.buffer = d.sdh.buffer ∧
      (slotFails c d).sdh.writer = if d.sdh.writer = some c then none else d.sdh.writer := by
  have hslot : ∀ k, sdSlot e k = sdSlot d k := fun k => by rw [sdSlot, hsdh, sdSlot]
  have hdrop : dropSpecial c e = e := dropSpecial_none (by rw [hsdh, hb]) (by rw [hslot, ho])
  have hfails : slotFails c d = writerLeft c (sdSlotSet e c (slotFailed (sdSlot d c))) := by
    rw [slotFails, hends, hdrop, hslot]
    rfl
  have hself := sdSlot_set_self e c (slotFailed (sdSlot d c))
  have hother := otherSlot_set hc e (slotFailed (sdSlot d c))
  have hframe : (sdSlotSet e c (slotFailed (sdSlot d c))).pas = e.pas ∧ (sdSlotSet e c (slotFailed (sdSlot d c))).ops = e.ops ∧
    (sdSlotSet e c (slotFailed (sdSlot d c))).sdh.writer = e.sdh.writer ∧ (sdSlotSet e c (slotFailed (sdSlot d c))).sdh.buffer = e.sdh.buffer :=
    ⟨rfl, rfl, rfl, rfl⟩
  rw [hfails]
  generalize sdSlotSet e c (slotFailed (sdSlot d c)) = g at *
  obtain ⟨hgp, hgo, hgw, hgb⟩ := hframe
  obtain ⟨hlw, hlb⟩ := writerLeft_sdh c g
  obtain ⟨hlp, hlo, hls⟩ := writerLeft_frame c g
  exact ⟨(hls _).trans (hother.trans (hslot _)), (hls c).trans hself, hlp.trans hgp, hlo.trans hgo, by rw [hlb, hgb, hsdh], by rw [hlw, hgw, hsdh]⟩

/-- The slot's next block spent. -/
def blockSpent (x : SdSlot) : SdSlot := { x with next := x.next + 1, spent := some (x.next, x.cid), wrAt := none }

theorem spendBlock_slot (hc : c < 2) (e : Dev) : OtherSlot c e (spendBlock c e) ∧ sdSlot (spendBlock c e) c = blockSpent (sdSlot e c) ∧
    (spendBlock c e).pas = e.pas ∧ (spendBlock c e).sdh.buffer = e.sdh.buffer ∧ (spendBlock c e).sdh.writer = e.sdh.writer :=
  ⟨otherSlot_set hc e _, sdSlot_set_self .., rfl, rfl, rfl⟩

section
variable {r : AuditRec} {rest : List AuditRec} (hc : c < 2) (hb : d.sdh.busy = none) (hw : d.sdh.writer = some c) (ho : (sdSlot d c).owed = none)
  (hs : d.sdh.spare = []) (hbuf : d.sdh.buffer = r :: rest) (hn : (sdSlot d c).next + 1 < (sdSlot d c).blocks)
include hc hb hw ho hs hbuf hn

theorem recordWrite_plain {n : ℕ} (hl : ¬ writeLate d c = true) (hf : n < 3) :
    Wrote c d (recordWrite c n d) r ∧ (recordWrite c n d).sdh.buffer = rest ∧ (sdSlot (recordWrite c n d) c).state = (sdSlot d c).state := by
  rw [recordWrite_taken (nextRecord_plain hb hw ho hs hbuf hn) hl hf, slotWritten]
  have hself := sdSlot_set_self d c (putBlock (sdSlot d c) r (writeCmds (sdSlot d c) n))
  have hother := otherSlot_set hc d (putBlock (sdSlot d c) r (writeCmds (sdSlot d c) n))
  have hfields : (sdSlotSet d c (putBlock (sdSlot d c) r (writeCmds (sdSlot d c) n))).sdh.spare = [] ∧
    (sdSlotSet d c (putBlock (sdSlot d c) r (writeCmds (sdSlot d c) n))).sdh.buffer = r :: rest ∧
    (sdSlotSet d c (putBlock (sdSlot d c) r (writeCmds (sdSlot d c) n))).sdh.written = d.sdh.written := ⟨hs, hbuf, rfl⟩
  generalize sdSlotSet d c (putBlock (sdSlot d c) r (writeCmds (sdSlot d c) n)) = e at *
  obtain ⟨hse, hbe, hwe⟩ := hfields
  rw [dropFirst_buffer hse hbe]
  refine ⟨wrote_of (cmds := writeCmds (sdSlot d c) n) hother hwe hself ⟨rfl, rfl, rfl⟩, ?_, ?_⟩
  · show e.sdh.buffer.drop 1 = rest
    rw [hbe]
    rfl
  · show (sdSlot e c).state = _
    rw [hself]
    rfl

theorem recordWrite_failed {n : ℕ} (hl : ¬ writeLate d c = true) (hso : slotOp d c = none) (hf : 3 ≤ n) :
    OtherSlot c d (recordWrite c n d) ∧ (recordWrite c n d).pas.inq = d.pas.inq ++ [writeInput d c St.integrity 0x40] ∧
      (recordWrite c n d).sdh.buffer = d.sdh.buffer ∧ (recordWrite c n d).sdh.writer = none ∧
      sdSlot (recordWrite c n d) c = { blockSpent (sdSlot d c) with state := 2, sub := 0x40, sent := writeCmds (sdSlot d c) n } := by
  have hnext := nextRecord_plain hb hw ho hs hbuf hn
  have hfail : recordWrite c n d = spendBlock c (slotFails c (sdSlotSet d c { sdSlot d c with sent := writeCmds (sdSlot d c) n })) := by
    simp only [recordWrite, hnext, if_neg hl, if_pos hf]
    rfl
  rw [hfail]
  have hset := sdSlot_set_self d c { sdSlot d c with sent := writeCmds (sdSlot d c) n }
  have hother := otherSlot_set hc d { sdSlot d c with sent := writeCmds (sdSlot d c) n }
  have hsame : nextRecord (sdSlotSet d c { sdSlot d c with sent := writeCmds (sdSlot d c) n }) c = nextRecord d c :=
    nextRecord_of rfl rfl rfl rfl rfl (by rw [hset]) (by rw [hset]) (by rw [hset])
  have hframe : (sdSlotSet d c { sdSlot d c with sent := writeCmds (sdSlot d c) n }).pas = d.pas ∧
    (sdSlotSet d c { sdSlot d c with sent := writeCmds (sdSlot d c) n }).ops = d.ops ∧
    (sdSlotSet d c { sdSlot d c with sent := writeCmds (sdSlot d c) n }).sdh.busy = none ∧
    (sdSlotSet d c { sdSlot d c with sent := writeCmds (sdSlot d c) n }).sdh.writer = some c ∧
    (sdSlotSet d c { sdSlot d c with sent := writeCmds (sdSlot d c) n }).sdh.buffer = d.sdh.buffer := ⟨rfl, rfl, hb, hw, rfl⟩
  generalize sdSlotSet d c { sdSlot d c with sent := writeCmds (sdSlot d c) n } = e at *
  obtain ⟨hpas, hops, hbe, hwe, hbufe⟩ := hframe
  have hends : writeEnds c St.integrity 0x40 e = withInput (writeInput e c St.integrity 0x40) e :=
    writeEnds_plain ((slotOp_of hops).trans hso) (by rw [hsame, hnext]; rfl)
  obtain ⟨hof, hsf, hpf, -, hbf, hwf⟩ := slotFails_quiet hc hends rfl hbe (by rw [hset]; exact ho)
  have hin : (withInput (writeInput e c St.integrity 0x40) e).pas.inq = d.pas.inq ++ [writeInput d c St.integrity 0x40] := by
    simp only [withInput, writeInput, hpas]
  generalize slotFails c e = f at *
  obtain ⟨hos, hss, hps, hbs, hws⟩ := spendBlock_slot hc f
  refine ⟨hos.trans (hof.trans hother), by rw [hps, hpf, hin], by rw [hbs, hbf, hbufe], by rw [hws, hwf, hwe, if_pos rfl], ?_⟩
  rw [hss, hsf, hset]
  rfl

theorem busyTimeout_late (hl : writeLate d c = true) (hso : slotOp d c = none) :
    OtherSlot c d (busyTimeout c d) ∧ (busyTimeout c d).pas.inq = d.pas.inq ++ [writeInput d c St.timeout 1] ∧
      (busyTimeout c d).sdh.buffer = d.sdh.buffer ∧ sdSlot (busyTimeout c d) c = blockSpent (sdSlot d c) := by
  have hnext := nextRecord_plain hb hw ho hs hbuf hn
  have hspend : busyTimeout c d = spendBlock c (withInput (writeInput d c St.timeout 1) d) := by
    rw [busyTimeout, if_pos ⟨hl, by rw [hnext]; rfl⟩, writeEnds_plain hso (by rw [hnext]; rfl)]
  rw [hspend]
  obtain ⟨hos, hss, hps, hbs, -⟩ := spendBlock_slot hc (withInput (writeInput d c St.timeout 1) d)
  exact ⟨hos, by rw [hps]; rfl, hbs, hss⟩

omit hc hb hw ho hs hbuf hn in
theorem recordWrite_late {n : ℕ} {k : SdWrite} (hnext : nextRecord d c = some (k, r)) (hl : writeLate d c = true) :
    recordWrite c n d = busyTimeout c d := by
  simp only [recordWrite, hnext, if_pos hl]

end

theorem busyTimeout_early (hl : ¬ writeLate d c = true) : busyTimeout c d = d := if_neg (fun h => hl h.1)

theorem writeLate_iff {w : ℕ} (h : (sdSlot d c).wrAt = some w) : writeLate d c = true ↔ w + 10000 < d.pas.count := by
  simp only [writeLate, h, decide_eq_true_eq]

/-! ### A RESTART owed, and the records that open and close -/

theorem recordWrite_restart {r : AuditRec} {n : ℕ} (hc : c < 2) (hb : d.sdh.busy = none) (ho : (sdSlot d c).owed = some r)
    (hn : (sdSlot d c).next + 1 < (sdSlot d c).blocks) (hl : ¬ writeLate d c = true) (hf : n < 3) :
    Wrote c d (recordWrite c n d) r ∧ (recordWrite c n d).sdh.buffer = d.sdh.buffer ∧ (sdSlot (recordWrite c n d) c).owed = none ∧
      (sdSlot (recordWrite c n d) c).state = (sdSlot d c).state := by
  rw [recordWrite_taken (nextRecord_restart hb ho hn) hl hf, slotWritten]
  have hself := sdSlot_set_self d c { putBlock (sdSlot d c) r (writeCmds (sdSlot d c) n) with owed := none }
  have hother := otherSlot_set hc d { putBlock (sdSlot d c) r (writeCmds (sdSlot d c) n) with owed := none }
  have hfields : (sdSlotSet d c { putBlock (sdSlot d c) r (writeCmds (sdSlot d c) n) with owed := none }).sdh.buffer = d.sdh.buffer ∧
    (sdSlotSet d c { putBlock (sdSlot d c) r (writeCmds (sdSlot d c) n) with owed := none }).sdh.written = d.sdh.written := ⟨rfl, rfl⟩
  generalize sdSlotSet d c { putBlock (sdSlot d c) r (writeCmds (sdSlot d c) n) with owed := none } = e at *
  obtain ⟨hbe, hwe⟩ := hfields
  have hsame : sdSlot (noteWritten r.seq e) c = sdSlot e c := rfl
  exact ⟨wrote_of (cmds := writeCmds (sdSlot d c) n) hother hwe hself ⟨rfl, rfl, rfl⟩, hbe, by rw [hsame, hself], by rw [hsame, hself]; rfl⟩

/-- The device when a record has opened or closed a card, before its command ends: its slot, and what the SD host knows. -/
def specialDone (c : ℕ) (y : SdSlot) (w : Option ℕ) (d : Dev) : Dev :=
  onSdh (sdSlotSet d c y) (fun h => { h with busy := none, special := none, writer := w })

theorem specialDone_wrote {r : AuditRec} {o : Op} {m : ℕ} {y : SdSlot} {w : Option ℕ} {cmds : List (ℕ × ℕ)} (hc : c < 2) (hso : slotOp d c = some o)
    (hsrc : o.src = .cmd 0x14 m) (hdead : o.dead = false)
    (hy : y.data = (putBlock (sdSlot d c) r cmds).data ∧ y.next = (sdSlot d c).next + 1 ∧ y.last = r.seq) :
    let e := noteWritten r.seq (slotOpEnd c St.done 0 (specialDone c y w d))
    Wrote c d e r ∧ sdSlot e c = y ∧ e.sdh.busy = none ∧ e.sdh.writer = w ∧ cmdGet e 0x14 m = ⟨false, true, 0⟩ := by
  intro e
  have hself : sdSlot (specialDone c y w d) c = y := sdSlot_set_self d c y
  have hother : OtherSlot c d (specialDone c y w d) := otherSlot_set hc d y
  have hfields : (specialDone c y w d).sdh.busy = none ∧ (specialDone c y w d).sdh.writer = w ∧ (specialDone c y w d).sdh.written = d.sdh.written ∧
    (specialDone c y w d).ops = d.ops := ⟨rfl, rfl, rfl, rfl⟩
  have he : e = noteWritten r.seq (slotOpEnd c St.done 0 (specialDone c y w d)) := rfl
  rw [he]
  generalize specialDone c y w d = f at *
  obtain ⟨hbf, hwf, hwr, hops⟩ := hfields
  have hend : slotOpEnd c St.done 0 f = endWith f o St.done 0 f.pas.count f.pas.count := by
    simp only [slotOpEnd, (slotOp_of hops).trans hso]
  rw [hend]
  have hcmd := cmdGet_endWith (st := St.done) (sub := 0) (pass := f.pas.count) hsrc hdead (slotOp_opcode hso) f
  have hsdh := sdh_endWith f o St.done 0 f.pas.count f.pas.count
  generalize endWith f o St.done 0 f.pas.count f.pas.count = g at *
  have hslot : ∀ k, sdSlot g k = sdSlot f k := fun k => by rw [sdSlot, hsdh, sdSlot]
  have hsame : sdSlot (noteWritten r.seq g) c = sdSlot g c := rfl
  refine ⟨wrote_of ((hslot _).trans hother) (by rw [hsdh, hwr]) ((hslot c).trans hself) hy, by rw [hsame, hslot, hself], ?_, ?_, hcmd⟩
  · show g.sdh.busy = none
    rw [hsdh, hbf]
  · show g.sdh.writer = w
    rw [hsdh, hwf]

end

end Sys2Proof.Machine

/-! The audit cards' commands settled (O52). -/

namespace Sys2Proof.Machine

section
variable {s : State} {c : ℕ} (hc : c < 2)
include hc

theorem exec_cardInsertion (h : (sdSlot s.dev c).state = 0) : ∃ t, exec (.cardInsertion c) s = .next t ∧ OtherSlot c s.dev t.dev ∧
    sdSlot t.dev c = { spent := (sdSlot s.dev c).spent, state := 1, since := s.dev.pas.count } ∧ t = { s with dev := { s.dev with sdh := t.dev.sdh } } :=
  ⟨_, exec_eq_next rfl (cardInsert_empty hc h), otherSlot_set hc _ _, sdSlot_set_self .., rfl⟩

theorem exec_cardIdentification_failed {f : SdCard} (h1 : (sdSlot s.dev c).state = 1) (hlow : (sdSlot s.dev c).since + 400 ≤ s.dev.pas.count)
    (hhigh : s.dev.pas.count ≤ (sdSlot s.dev c).since + 24400) (hsub : cardSub f ≠ 0) : ∃ t l, exec (.cardIdentification c f) s = .next t ∧
      OtherSlot c s.dev t.dev ∧ sdSlot t.dev c = { sdSlot s.dev c with state := 2, sub := cardSub f, sent := l } :=
  ⟨_, _, exec_eq_next rfl ((cardIdentify_eq hc h1 hlow hhigh).trans (if_pos hsub)), otherSlot_set hc _ _,
    sdSlot_set_self s.dev c { identSent f (sdSlot s.dev c) with state := 2 }⟩

/-- R414, R420: the slot of a card that has been identified. -/
theorem exec_cardIdentification_found {f : SdCard} (h1 : (sdSlot s.dev c).state = 1) (hlow : (sdSlot s.dev c).since + 400 ≤ s.dev.pas.count)
    (hhigh : s.dev.pas.count ≤ (sdSlot s.dev c).since + 24400) (hsub : cardSub f = 0) : ∃ t, exec (.cardIdentification c f) s = .next t ∧
      OtherSlot c s.dev t.dev ∧
      (let y := sdSlot t.dev c
       y.blocks = f.blocks ∧ y.cid = fitTo 16 f.cid ∧ y.perm = f.perm ∧ y.tmp = f.tmp ∧ y.wide = f.wide ∧ y.hs = f.hs ∧ y.rca = f.rca ∧
       y.clk = (if f.hs then 2 else 1) ∧ y.type = (if f.cmd8 = none ∨ f.ccs = false then 0 else if f.blocks ≤ 2 ^ 26 then 1 else 2) ∧
       (∀ e, f.data = [e] → e.1 < f.blocks → y.block e.1 = fitTo 512 e.2) ∧
       (OwnCard s.dev y ∧ (tailOf s.dev y).map recKind = some 3 → y.state = 6) ∧
       (¬ (OwnCard s.dev y ∧ (tailOf s.dev y).map recKind = some 3) → f.perm = true ∨ f.tmp = true → y.state = 7) ∧
       (¬ (OwnCard s.dev y ∧ (tailOf s.dev y).map recKind = some 3) → f.perm = false → f.tmp = false →
         (blankBlock (y.block 0) = true → y.state = 3) ∧
         (blankBlock (y.block 0) = false → OwnCard s.dev y → tailOf s.dev y ≠ none → y.state = 5 ∧ y.next ≥ (topBlock y).getD 0 + 1) ∧
         (blankBlock (y.block 0) = false → ¬ (OwnCard s.dev y ∧ tailOf s.dev y ≠ none) → y.state = 4))) := by
  obtain ⟨hother, hfacts, h6, h7, hrest⟩ := cardIdentify_found (f := f) hc h1 hlow hhigh hsub
  refine ⟨_, exec_eq_next rfl rfl, hother, ?_⟩
  intro y
  change cardFacts y = _ at hfacts
  obtain ⟨hblocks, hcid, hperm, htmp, hwide, hhs, hrca, hclk, htype, hdata⟩ : y.blocks = f.blocks ∧ y.cid = fitTo 16 f.cid ∧ y.perm = f.perm ∧ y.tmp = f.tmp ∧
      y.wide = f.wide ∧ y.hs = f.hs ∧ y.rca = f.rca ∧ y.clk = (if f.hs then 2 else 1) ∧ y.type = identCmds.cardType f ∧ y.data = cardData f := by
    simpa only [cardFacts, identified, Prod.mk.injEq] using hfacts
  refine ⟨hblocks, hcid, hperm, htmp, hwide, hhs, hrca, hclk, htype.trans (cardType_eq f), fun e he hlt => ?_, h6, h7, hrest⟩
  rw [block_eq, hdata, cardData_one he hlt, fitTo_fitTo]

theorem exec_cardRemoval {sent : Bool} (h : (sdSlot s.dev c).state ≠ 0) (ho : slotOp s.dev c = none) (hb : s.dev.sdh.busy = none)
    (hw : (sdSlot s.dev c).owed = none) (hu : ∀ o ∈ s.dev.ops, slotUse c o = false) : ∃ t, exec (.cardRemoval c sent) s = .next t ∧
      OtherSlot c s.dev t.dev ∧ t.dev.sdh.writer = (if s.dev.sdh.writer = some c then none else s.dev.sdh.writer) ∧ t.dev.sdh.buffer = s.dev.sdh.buffer ∧
      t.dev.ops = s.dev.ops ∧
      sdSlot t.dev c = { spent := if sent = true ∧ (nextRecord s.dev c).isSome then some ((sdSlot s.dev c).next, (sdSlot s.dev c).cid)
        else (sdSlot s.dev c).spent } := by
  obtain ⟨e, hsdh, hops, heq⟩ := cardRemove_quiet (sent := sent) hc h ho hb hw hu
  refine ⟨_, exec_eq_next rfl heq, ?_⟩
  simp only
  generalize (if sent = true ∧ (nextRecord s.dev c).isSome then some ((sdSlot s.dev c).next, (sdSlot s.dev c).cid) else (sdSlot s.dev c).spent) = sp
  have hself := sdSlot_set_self e c { spent := sp }
  have hother := otherSlot_set hc e { spent := sp }
  have hframe : (sdSlotSet e c { spent := sp }).sdh.writer = e.sdh.writer ∧ (sdSlotSet e c { spent := sp }).sdh.buffer = e.sdh.buffer ∧
    (sdSlotSet e c { spent := sp }).ops = e.ops := ⟨rfl, rfl, rfl⟩
  rw [slotLeft]
  generalize sdSlotSet e c { spent := sp } = g at *
  obtain ⟨hgw, hgb, hgo⟩ := hframe
  obtain ⟨hlw, hlb⟩ := writerLeft_sdh c g
  obtain ⟨-, hlo, hls⟩ := writerLeft_frame c g
  have hslot : ∀ k, sdSlot e k = sdSlot s.dev k := fun k => by rw [sdSlot, hsdh, sdSlot]
  exact ⟨(hls _).trans (hother.trans (hslot _)), by rw [hlw, hgw, hsdh], by rw [hlb, hgb, hsdh], by rw [hlo, hgo, hops], (hls c).trans hself⟩

theorem exec_recordWrite_open {r : AuditRec} {o : Op} {m n : ℕ} (hb : s.dev.sdh.busy = some (c, false)) (hs : s.dev.sdh.special = some r)
    (h0 : (sdSlot s.dev c).next = 0) (hn : 0 < (sdSlot s.dev c).blocks) (hl : ¬ writeLate s.dev c = true) (ho : slotOp s.dev c = some o)
    (hsrc : o.src = .cmd 0x14 m) (hdead : o.dead = false) (hf : n < 3) : ∃ t, exec (.recordWrite c n) s = .next t ∧ Wrote c s.dev t.dev r ∧
      (sdSlot t.dev c).state = 5 ∧ t.dev.sdh.busy = none ∧ t.dev.sdh.writer = some (s.dev.sdh.writer.getD c) ∧ cmdGet t.dev 0x14 m = ⟨false, true, 0⟩ := by
  refine ⟨_, exec_eq_next rfl (recordWrite_taken (nextRecord_special hb hs (by omega)) hl hf), ?_⟩
  obtain ⟨hwrote, hslot, hbusy, hwriter, hcmd⟩ := specialDone_wrote (r := r) (cmds := writeCmds (sdSlot s.dev c) n)
    (y := { putBlock (sdSlot s.dev c) r (writeCmds (sdSlot s.dev c) n) with state := 5, old := false }) (w := some (s.dev.sdh.writer.getD c))
    hc ho hsrc hdead ⟨rfl, rfl, rfl⟩
  exact ⟨hwrote, congrArg SdSlot.state hslot, hbusy, hwriter, hcmd⟩

theorem exec_recordWrite_close {r : AuditRec} {o : Op} {m n : ℕ} (hb : s.dev.sdh.busy = some (c, true)) (hs : s.dev.sdh.special = some r)
    (hn : (sdSlot s.dev c).next < (sdSlot s.dev c).blocks) (hl : ¬ writeLate s.dev c = true) (ho : slotOp s.dev c = some o)
    (hsrc : o.src = .cmd 0x14 m) (hdead : o.dead = false) (hf : n < 3) : ∃ t, exec (.recordWrite c n) s = .next t ∧ Wrote c s.dev t.dev r ∧
      (sdSlot t.dev c).state = 6 ∧ (sdSlot t.dev c).tmp = true ∧ t.dev.sdh.busy = none ∧
      t.dev.sdh.writer = (if s.dev.sdh.writer = some c then none else s.dev.sdh.writer) ∧ cmdGet t.dev 0x14 m = ⟨false, true, 0⟩ := by
  refine ⟨_, exec_eq_next rfl (recordWrite_taken (nextRecord_special hb hs hn) hl hf), ?_⟩
  obtain ⟨hwrote, hslot, hbusy, hwriter, hcmd⟩ := specialDone_wrote (r := r)
    (cmds := writeCmds (sdSlot s.dev c) n ++ [(27, 0), (13, (sdSlot s.dev c).rca * 2 ^ 16)])
    (y := { putBlock (sdSlot s.dev c) r (writeCmds (sdSlot s.dev c) n ++ [(27, 0), (13, (sdSlot s.dev c).rca * 2 ^ 16)]) with state := 6, tmp := true })
    (w := if s.dev.sdh.writer = some c then none else s.dev.sdh.writer) hc ho hsrc hdead ⟨rfl, rfl, rfl⟩
  exact ⟨hwrote, congrArg SdSlot.state hslot, congrArg SdSlot.tmp hslot, hbusy, hwriter, hcmd⟩

theorem exec_recordWrite_use {n : ℕ} (hnext : nextRecord s.dev c = none) (hu : s.dev.ops.any (slotUse c) = true) (hb : s.dev.sdh.busy = none)
    (hw : (sdSlot s.dev c).owed = none) (ho : slotOp s.dev c = none) (hf : 3 ≤ n) : ∃ t, exec (.recordWrite c n) s = .next t ∧ OtherSlot c s.dev t.dev ∧
      t.dev.ops = s.dev.ops ∧ t.dev.sdh.buffer = s.dev.sdh.buffer ∧ sdSlot t.dev c = { sdSlot s.dev c with state := 2, sub := 0x40, wrAt := none } := by
  have hfail : recordWrite c n s.dev = slotFails c s.dev := by simp only [recordWrite, hnext, if_pos (And.intro hf hu)]
  obtain ⟨hother, hslot, -, hops, hbuf, -⟩ := slotFails_quiet hc (writeEnds_none ho hnext) rfl hb hw
  exact ⟨_, exec_eq_next rfl hfail, hother, hops, hbuf, hslot⟩

end

theorem recordWrite_idle {d : Dev} {c n : ℕ} (hnext : nextRecord d c = none) (h : ¬ (3 ≤ n ∧ d.ops.any (slotUse c) = true)) : recordWrite c n d = d := by
  simp only [recordWrite, hnext, if_neg h]

/-- Settles O52: what identification learns of a card is in its slot, whose class goes by its blocks; a record that a slot writes next is taken, fails or
times out by the rules of the write path, and neither touches the other slot. -/
theorem auditCards : Obligations.AuditCards := by
  unfold Obligations.AuditCards
  intro s c hc d x other writes
  refine ⟨fun h => exec_cardInsertion hc h, fun h => exec_same rfl (cardInsert_seated h), fun f h => exec_same rfl (cardIdentify_early h), fun f h1 hlow hhigh => ?_,
    fun sent h => exec_same rfl (cardRemove_empty h), fun sent h ho hb hw hu => exec_cardRemoval hc h ho hb hw hu, ?_, fun hnext => ?_⟩
  · exact ⟨fun h => cardSub_answered h, fun n hn h => cardSub_failed hn h, fun hsub => exec_cardIdentification_failed hc h1 hlow hhigh hsub,
      fun hsub => exec_cardIdentification_found hc h1 hlow hhigh hsub⟩
  · refine ⟨fun w hw => writeLate_iff hw, fun r rest hwr ho hs hbuf hn => ⟨fun hl n hf => ?_, fun hl hso n hf => ?_, fun hl hso i n hi => ?_⟩,
      fun hl => exec_same rfl (busyTimeout_early hl), fun r hb ho hn hl n hf => ?_,
      fun r o m hb hs h0 hn hl ho hsrc hdead n hf => exec_recordWrite_open hc hb hs h0 hn hl ho hsrc hdead hf,
      fun r o m hb hs hn hl ho hsrc hdead n hf => exec_recordWrite_close hc hb hs hn hl ho hsrc hdead hf⟩
    · exact ⟨_, exec_eq_next rfl rfl, recordWrite_plain hc hwr.1 hwr.2 ho hs hbuf hn hl hf⟩
    · exact ⟨_, _, exec_eq_next rfl rfl, recordWrite_failed hc hwr.1 hwr.2 ho hs hbuf hn hl hso hf⟩
    · have htime := busyTimeout_late hc hwr.1 hwr.2 ho hs hbuf hn hl hso
      rcases hi with rfl | rfl
      · exact ⟨_, exec_eq_next rfl rfl, htime⟩
      · exact ⟨_, exec_eq_next rfl (recordWrite_late (nextRecord_plain hwr.1 hwr.2 ho hs hbuf hn) hl), htime⟩
    · exact ⟨_, exec_eq_next rfl rfl, recordWrite_restart hc hb ho hn hl hf⟩
  · intro used
    refine ⟨exec_same rfl (if_neg (fun h => by rw [hnext] at h; exact Bool.noConfusion h.2)), fun n h => exec_same rfl (recordWrite_idle hnext ?_),
      fun hu hb hw ho n hf => exec_recordWrite_use hc hnext hu hb hw ho hf⟩
    exact fun hh => h.elim (fun hlt => by omega) (fun hnu => hnu hh.2)

end Sys2Proof.Machine

/-! The officer cards' protocols (O53, Table 18.6): what an answer of the card brings. -/

namespace Sys2Proof.Machine

/-! ### Blocks of T=1 -/

theorem lrc_append (a : Octets) (b : Octet) : lrc (a ++ [b]) = lrc a ^^^ b := by
  simp only [lrc, List.foldl_append, List.foldl_cons, List.foldl_nil]

theorem lrc_t1Block (pcb : ℕ) (inf : Octets) : lrc (t1Block pcb inf) = 0 := by
  simp only [t1Block, lrc_append, BitVec.xor_self]
  rfl

theorem t1Block_length (pcb : ℕ) (inf : Octets) : (t1Block pcb inf).length = 4 + inf.length := by
  simp only [t1Block, List.length_append, List.length_cons, List.length_nil]
  omega

theorem leAt_one (o : Octets) (off : ℕ) : leAt o off 1 = ((o.drop off).headD 0).toNat := by
  simp only [leAt, slice]
  cases o.drop off with
  | nil => rfl
  | cons b r => simp [leNat]

theorem leAt_t1Block (pcb : ℕ) (inf : Octets) : leAt (t1Block pcb inf) 0 1 = 0 ∧ leAt (t1Block pcb inf) 1 1 = pcb % 256 ∧
    leAt (t1Block pcb inf) 2 1 = inf.length % 256 := by
  refine ⟨?_, ?_, ?_⟩ <;> rw [leAt_one]
  · rfl
  · exact BitVec.toNat_ofNat ..
  · exact BitVec.toNat_ofNat ..

theorem slice_t1Block (pcb : ℕ) (inf : Octets) : slice (t1Block pcb inf) 3 inf.length = inf := by
  have hdrop : (t1Block pcb inf).drop 3 = inf ++ [lrc ([0, oct pcb, oct inf.length] ++ inf)] := rfl
  rw [slice, hdrop, List.take_left]

section
variable (x : OfcIf)

/-- Too few octets are no block of the card. -/
theorem t1Receive_short {o : Octets} (h : o.length < 4) : t1Receive x o = t1Again x (t1Block (0x81 + 16 * x.nr) []) := if_pos (.inl h)

theorem t1Again_more (h : x.tries < 2) (tx : Octets) : t1Again x tx = .step { x with tx := tx, tries := x.tries + 1 } := if_neg (by omega)

theorem t1Again_lost (h : 2 ≤ x.tries) (tx : Octets) : t1Again x tx = .lost := if_pos h

/-- A block of the card of which more follows is acknowledged. -/
theorem t1Receive_chained (hnr : x.nr < 2) {inf : Octets} (hlen : inf.length < 256) : t1Receive x (t1Block (64 * x.nr + 0x20) inf) =
    .step { x with rsp := x.rsp ++ inf, nr := 1 - x.nr, ns := if x.iblk = [] then x.ns else 1 - x.ns, iblk := [], tries := 0,
                   tx := t1Block (0x80 + 16 * (1 - x.nr)) [] } := by
  obtain ⟨h0, h1, h2⟩ := leAt_t1Block (64 * x.nr + 0x20) inf
  have hpcb : (64 * x.nr + 0x20) % 256 = 64 * x.nr + 0x20 := by omega
  have hinf : inf.length % 256 = inf.length := Nat.mod_eq_of_lt hlen
  rw [hpcb] at h1
  rw [hinf] at h2
  have hmore : (64 * x.nr + 0x20).testBit 5 = true := by
    rcases (by omega : x.nr = 0 ∨ x.nr = 1) with h | h <;> rw [h] <;> decide
  unfold t1Receive
  simp only [h0, h1, h2, t1Block_length, lrc_t1Block, slice_t1Block, hmore]
  rw [if_neg (by simp), if_pos (by omega), if_neg (by omega)]
  rfl

/-! ### T=0 -/

theorem t0Receive_short {o : Octets} (h : o.length < 2) : t0Receive x o = .lost := by simp only [t0Receive, ofcWhole, if_pos h]

theorem beNat_beOct_two {sw : ℕ} (h : sw < 2 ^ 16) : beNat (beOct 2 sw) = sw := by
  simp only [beOct, leOct, beNat, List.reverse_cons, List.reverse_nil, List.nil_append, List.cons_append, List.foldl_cons, List.foldl_nil, BitVec.toNat_ofNat]
  omega

theorem beOct_two_length (sw : ℕ) : (beOct 2 sw).length = 2 := rfl

theorem t0Receive_response {data : Octets} {sw : ℕ} (hsw : sw < 2 ^ 16) : t0Receive x (data ++ beOct 2 sw) =
    if sw / 256 = 0x61 then .step { x with rsp := x.rsp ++ data, tx := [0x00, 0xC0, 0x00, 0x00, oct (sw % 256)] } else .response x sw (x.rsp ++ data) := by
  have hlen : (data ++ beOct 2 sw).length = data.length + 2 := by rw [List.length_append, beOct_two_length]
  have hdrop : (data ++ beOct 2 sw).drop (data.length + 2 - 2) = beOct 2 sw := by rw [Nat.add_sub_cancel, List.drop_left]
  have htake : (data ++ beOct 2 sw).take (data.length + 2 - 2) = data := by rw [Nat.add_sub_cancel, List.take_left]
  simp only [t0Receive, ofcWhole, hlen, hdrop, htake, beNat_beOct_two hsw, if_neg (show ¬ data.length + 2 < 2 by omega)]

end

/-! ### ATRs -/

section
variable {α β : Type} {f : α × ℕ → Option β}

theorem findSome?_zipIdx_none {l : List α} {n : ℕ} (h : ∀ k e, l[k]? = some e → f (e, n + k) = none) : (l.zipIdx n).findSome? f = none := by
  refine List.findSome?_eq_none_iff.mpr fun x hx => ?_
  obtain ⟨hle, hget⟩ := List.mem_zipIdx_iff_le_and_getElem?_sub.mp hx
  have hx' := h _ _ hget
  rwa [Nat.add_sub_cancel' hle] at hx'

theorem findSome?_zipIdx_some {l : List α} {n k : ℕ} {e : α} {b : β} (he : l[k]? = some e) (hb : f (e, n + k) = some b)
    (h : ∀ j g, j < k → l[j]? = some g → f (g, n + j) = none) : (l.zipIdx n).findSome? f = some b := by
  induction l generalizing n k with
  | nil => cases he
  | cons a l ih =>
    rw [List.zipIdx_cons, List.findSome?_cons]
    cases k with
    | zero =>
      obtain rfl : a = e := Option.some.inj he
      rw [show f (a, n) = some b from hb]
    | succ k =>
      rw [show f (a, n) = none from h 0 a (by omega) rfl]
      have hshift : ∀ j, n + 1 + j = n + (j + 1) := fun j => by omega
      exact ih he ((hshift k).symm ▸ hb) fun j g hj hg => (hshift j).symm ▸ h (j + 1) g (by omega) hg

end

/-- What an ATR, with the cycles to its start, says where it is valid. -/
def atrOf (e : ℕ × Octets) : Option Atr := if e.1 ≤ 40000 then parseAtr e.2 else none

theorem atrOf_eq_some {e : ℕ × Octets} {a : Atr} : atrOf e = some a ↔ e.1 ≤ 40000 ∧ parseAtr e.2 = some a := by simp [atrOf]

theorem atrOf_eq_none {e : ℕ × Octets} (h : ∀ a, ¬ (e.1 ≤ 40000 ∧ parseAtr e.2 = some a)) : atrOf e = none :=
  Option.eq_none_iff_forall_ne_some.mpr fun a ha => h a (atrOf_eq_some.mp ha)

theorem atrFound_eq (atrs : List (ℕ × Octets)) : atrFound atrs = ((atrs.take 4).zipIdx 0).findSome? (fun x => (atrOf x.1).map (fun a => (decide (2 ≤ x.2), a))) := rfl

/-- The first valid ATR of four: whether it is of class A, and what it says. -/
theorem atrFound_none {atrs : List (ℕ × Octets)} (h : ∀ k e a, k < 4 → atrs[k]? = some e → ¬ (e.1 ≤ 40000 ∧ parseAtr e.2 = some a)) :
    atrFound atrs = none := by
  rw [atrFound_eq]
  refine findSome?_zipIdx_none fun k e hk => ?_
  rw [List.getElem?_take, Option.ite_none_right_eq_some] at hk
  rw [atrOf_eq_none fun a => h k e a hk.1 hk.2, Option.map_none]

theorem atrFound_some {atrs : List (ℕ × Octets)} {k : ℕ} {e : ℕ × Octets} {a : Atr} (hk : k < 4) (he : atrs[k]? = some e)
    (ha : e.1 ≤ 40000 ∧ parseAtr e.2 = some a) (h : ∀ j f b, j < k → atrs[j]? = some f → ¬ (f.1 ≤ 40000 ∧ parseAtr f.2 = some b)) :
    atrFound atrs = some (decide (2 ≤ k), a) := by
  rw [atrFound_eq]
  refine findSome?_zipIdx_some (List.getElem?_take_of_lt hk ▸ he) ?_ fun j g hj hg => ?_
  · simp only [atrOf_eq_some.mpr ha, Option.map_some, Nat.zero_add]
  · rw [List.getElem?_take_of_lt (by omega)] at hg
    rw [atrOf_eq_none fun b => h j g b hj hg, Option.map_none]

end Sys2Proof.Machine

/-! The officer interfaces' exchanges (O53, R426 to R429): how one goes on and how it ends. -/

namespace Sys2Proof.Machine

/-! ### The end of an exchange -/

/-- How an exchange of interface i ends from device d: the interface left with x, the command's result and its operation posted, refusals counted. -/
def OfcEnded (i m id : ℕ) (d e : Dev) (x : OfcIf) (st sub : ℕ) : Prop :=
  ofcIf e (1 - i) = ofcIf d (1 - i) ∧ ofcIf e i = x ∧ cmdGet e 0x15 m = ⟨false, true, st + sub * 256⟩ ∧ (∀ z, findOp e id = some z → z.phase = .posted) ∧
    rg e (Reg.OFC_IF_AUTH_FAILS + 4 * i) = if st = St.denied ∧ (sub = 0x11 ∨ sub = 0x12) then satInc (rg d (Reg.OFC_IF_AUTH_FAILS + 4 * i)) 1
      else rg d (Reg.OFC_IF_AUTH_FAILS + 4 * i)

/-- The exchange under way on interface i: its command's operation. -/
structure Exchange (i m id : ℕ) (o : Op) (d : Dev) : Prop where
  lt : i < 2
  op : (ofcIf d i).op = some id
  found : findOp d id = some o
  src : o.src = .cmd 0x15 m
  live : o.dead = false
  code : 2 < o.opcode / 16

section
variable {i m id : ℕ} {o : Op} {d : Dev}

theorem Exchange.other_ne (h : Exchange i m id o d) : 1 - i ≠ i := by have := h.lt; omega

theorem Exchange.running (h : Exchange i m id o d) : (ofcIf d i).op.bind (findOp d) = some o := by rw [h.op, Option.bind_some, h.found]

/-- A command of a command register that ends without an output is posted. -/
theorem deliver_cmd_posted {blk pass : ℕ} (hsrc : o.src = .cmd blk m) (houts : o.outs = []) (d : Dev) :
    ∃ p, p.id = o.id ∧ p.phase = .posted ∧ (deliver d o d.pas.count pass).ops = (setOp d p).ops := by
  simp only [deliver, written, writeOuts, hsrc, houts, List.foldl_nil, if_true, wipeReport, wipeOuts, report, Nat.lt_irrefl, if_false]
  exact ⟨{ o with src := .cmd blk m, phase := .posted, outs := [], dueAt := pass + 1 }, rfl, rfl, rfl⟩

theorem findOp_endWith {z : Op} {blk st sub pass : ℕ} (hsrc : o.src = .cmd blk m) (hlive : o.dead = false) (hfind : findOp d o.id = some o)
    (h : findOp (endWith d o st sub d.pas.count pass) o.id = some z) : z.phase = .posted := by
  obtain ⟨p, hid, hphase, hops⟩ := deliver_cmd_posted (pass := pass)
    (o := { o with status := st, sub := sub, outs := [], resLen := 0, ext := false, result := if o.opcode / 16 ≤ 2 then o.result else 0 }) hsrc rfl
    (unreserve d o.id)
  have hid' : p.id = o.id := hid
  have hend : findOp (setOp (unreserve d o.id) p) o.id = some z := by
    rw [findOp, ← hops]
    rw [endWith, if_neg (ne_true_of_eq_false hlive)] at h
    exact h
  have hset : findOp (setOp (unreserve d o.id) p) p.id = some p := findOp_setOp (x := o) (hid' ▸ hfind)
  rw [hid', hend] at hset
  exact Option.some.inj hset ▸ hphase

theorem regs_endWith {blk st sub pass : ℕ} (hsrc : o.src = .cmd blk m) (hlive : o.dead = false) : (endWith d o st sub d.pas.count pass).regs = d.regs := by
  have hpas : (unreserve d o.id).pas = d.pas := rfl
  simp only [endWith, hlive, Bool.false_eq_true, if_false, deliver, written, writeOuts, hsrc, List.foldl_nil, if_true, wipeReport, wipeOuts, report, hpas,
    Nat.lt_irrefl]
  rfl

theorem ofcIf_endWith (d : Dev) (o : Op) (st sub due pass i : ℕ) : ofcIf (endWith d o st sub due pass) i = ofcIf d i := by
  have hcalm := congrArg (fun c : Calm => c.rest.ofc) (calm_endWith d o st sub due pass)
  exact congrArg (fun t => tabGet {} t i) hcalm

/-- The device that an exchange with the interface left in state x ends in, before its operation ends. -/
def ofcLeft (i st sub : ℕ) (d : Dev) : Dev :=
  let d := ofcIfSet d i (ofcIf d i).idle
  if st = St.denied ∧ (sub = 0x11 ∨ sub = 0x12) then tamperEvent 34 (rgAdd d (Reg.OFC_IF_AUTH_FAILS + 4 * i) 1) else d

theorem ofcEnd_eq (i : ℕ) (o : Op) (st sub : ℕ) (d : Dev) :
    ofcEnd i o st sub d = endWith (ofcLeft i st sub d) o st sub (ofcLeft i st sub d).pas.count (ofcLeft i st sub d).pas.count := rfl

theorem ofcLeft_spec (hi : i < 2) (st sub : ℕ) (d : Dev) : (ofcLeft i st sub d).ops = d.ops ∧ (ofcLeft i st sub d).ofc = (ofcIfSet d i (ofcIf d i).idle).ofc ∧
    rg (ofcLeft i st sub d) (Reg.OFC_IF_AUTH_FAILS + 4 * i) = if st = St.denied ∧ (sub = 0x11 ∨ sub = 0x12) then
      satInc (rg d (Reg.OFC_IF_AUTH_FAILS + 4 * i)) 1 else rg d (Reg.OFC_IF_AUTH_FAILS + 4 * i) := by
  have hrg : ∀ x, rg (ofcIfSet d i x) (Reg.OFC_IF_AUTH_FAILS + 4 * i) = rg d (Reg.OFC_IF_AUTH_FAILS + 4 * i) := fun _ => rfl
  by_cases hc : st = St.denied ∧ (sub = 0x11 ∨ sub = 0x12)
  · have hleft : ofcLeft i st sub d = tamperEvent 34 (rgAdd (ofcIfSet d i (ofcIf d i).idle) (Reg.OFC_IF_AUTH_FAILS + 4 * i) 1) := if_pos hc
    rw [hleft, if_pos hc]
    have hsrc : tmpCondition 34 = false := by decide
    have hne : Reg.OFC_IF_AUTH_FAILS + 4 * i ≠ Reg.TMP_SRC_STATUS + 34 := by simp only [Reg.OFC_IF_AUTH_FAILS, Reg.TMP_SRC_STATUS]; omega
    refine ⟨?_, ?_, ?_⟩
    · rw [tamperEvent_frame (by decide) hsrc]; rfl
    · rw [tamperEvent_frame (by decide) hsrc]; rfl
    · rw [rg_tamperEvent (by decide) hsrc hne, rgAdd, rg_rgSet, if_pos rfl, hrg]
  · have hleft : ofcLeft i st sub d = ofcIfSet d i (ofcIf d i).idle := if_neg hc
    rw [hleft, if_neg hc]
    exact ⟨rfl, rfl, hrg _⟩

/-- An exchange ends in a device e that has left its operation, the registers and the other interface alone. -/
theorem ofcEnded_of_left {e : Dev} (h : Exchange i m id o d) (hfind : findOp e id = some o) (hregs : e.regs = d.regs) (hother : ofcIf e (1 - i) = ofcIf d (1 - i))
    (st sub : ℕ) : OfcEnded i m id d (ofcEnd i o st sub e) (ofcIf e i).idle st sub := by
  obtain ⟨hops, hofc, hrg⟩ := ofcLeft_spec h.lt st sub e
  have hif : ∀ k, ofcIf (ofcLeft i st sub e) k = if k = i then (ofcIf e i).idle else ofcIf e k := fun k => by
    rw [ofcIf, hofc, ← ofcIf, ofcIf_ofcIfSet]
  have hid : o.id = id := findOp_id h.found
  have hleft : findOp (ofcLeft i st sub e) o.id = some o := by rw [findOp, hops, hid]; exact hfind
  have hsame : ∀ a, rg e a = rg d a := fun a => congrArg (fun t => (tabFind t a).getD (regDefault a)) hregs
  rw [hsame] at hrg
  rw [ofcEnd_eq]
  refine ⟨?_, ?_, cmdGet_endWith h.src h.live h.code _, fun z hz => findOp_endWith h.src h.live hleft (hid ▸ hz), ?_⟩
  · rw [ofcIf_endWith, hif, if_neg h.other_ne, hother]
  · rw [ofcIf_endWith, hif, if_pos rfl]
  · rw [← hrg]
    exact congrArg (fun t => (tabFind t _).getD (regDefault _)) (regs_endWith h.src h.live)

theorem ofcEnded_ofcEnd (h : Exchange i m id o d) (x : OfcIf) (st sub : ℕ) : OfcEnded i m id d (ofcEnd i o st sub (ofcIfSet d i x)) x.idle st sub := by
  have hend := ofcEnded_of_left (e := ofcIfSet d i x) h h.found rfl ((ofcIf_ofcIfSet ..).trans (if_neg h.other_ne)) st sub
  rwa [ofcIf_ofcIfSet, if_pos rfl] at hend

theorem ofcEnded_ofcLost (h : Exchange i m id o d) :
    OfcEnded i m id d (ofcLost i o d) { (ofcIf d i).idle with state := if (ofcIf d i).state = 1 then 0 else (ofcIf d i).state } St.timeout 2 :=
  ofcEnded_ofcEnd h _ _ _

/-! ### The steps of an exchange -/

theorem officerTimeout_waits (h : (ofcIf d i).step = 4 ∨ (ofcIf d i).step = 7) : officerTimeout i d = d := by
  simp only [officerTimeout, if_pos h]
  split <;> rfl

theorem officerTimeout_lost (h : Exchange i m id o d) (h4 : (ofcIf d i).step ≠ 4) (h7 : (ofcIf d i).step ≠ 7) : officerTimeout i d = ofcLost i o d := by
  simp only [officerTimeout, h.running]
  exact if_neg (by omega)

theorem officerTimeout_idle (h : (ofcIf d i).op = none) : officerTimeout i d = d := by simp only [officerTimeout, h, Option.bind_none]

theorem officerAnswer_idle (h : (ofcIf d i).op = none) (atrs : List (ℕ × Octets)) (rsp : Octets) : officerAnswer i atrs rsp d = d := by
  simp only [officerAnswer, h, Option.bind_none]

theorem officerAnswer_activating (h : Exchange i m id o d) (hst : (ofcIf d i).state = 1) (atrs : List (ℕ × Octets)) (rsp : Octets) :
    officerAnswer i atrs rsp d = ofcActivating i o atrs rsp d := by
  simp only [officerAnswer, h.running]
  exact if_pos hst

theorem officerAnswer_waits (hst : (ofcIf d i).state ≠ 1) (h : (ofcIf d i).step = 4 ∨ (ofcIf d i).step = 7) (atrs : List (ℕ × Octets)) (rsp : Octets) :
    officerAnswer i atrs rsp d = d := by
  simp only [officerAnswer, if_neg hst, if_pos h]
  split <;> rfl

/-- What an answer to an exchange that is not an activation brings. -/
def ofcGot (i : ℕ) (o : Op) (d : Dev) : OfcGot → Dev
  | .response x sw data => ofcResponse i o sw data (ofcIfSet d i x)
  | .step x => ofcIfSet d i x
  | .lost => ofcLost i o d

theorem officerAnswer_got (h : Exchange i m id o d) (hst : (ofcIf d i).state ≠ 1) (h4 : (ofcIf d i).step ≠ 4) (h7 : (ofcIf d i).step ≠ 7)
    (atrs : List (ℕ × Octets)) (rsp : Octets) :
    officerAnswer i atrs rsp d = ofcGot i o d (if (ofcIf d i).t1 then t1Receive (ofcIf d i) rsp else t0Receive (ofcIf d i) rsp) := by
  simp only [officerAnswer, h.running, if_neg hst, if_neg (show ¬ ((ofcIf d i).step = 4 ∨ (ofcIf d i).step = 7) by omega)]
  cases (if (ofcIf d i).t1 then t1Receive (ofcIf d i) rsp else t0Receive (ofcIf d i) rsp) <;> rfl

/-! ### Activation -/

theorem ofcActive_done (h : Exchange i m id o d) {x : OfcIf} (hx : ¬ (x.t1 ∧ x.step ≠ 6)) :
    OfcEnded i m id d (ofcActive i o x d) { x.idle with state := 2 } St.done 0 := by
  rw [ofcActive, if_neg hx]
  exact ofcEnded_ofcEnd h _ _ _

theorem ofcActive_ifs {x : OfcIf} (ht : x.t1 = true) (hstep : x.step ≠ 6) :
    ofcActive i o x d = ofcIfSet d i { x with step := 6, tx := t1Block 0xC1 [254] } := if_pos ⟨ht, hstep⟩

section
variable {atrs : List (ℕ × Octets)} {rsp : Octets}

theorem ofcActivating_echo (h5 : (ofcIf d i).step = 5) (h : rsp = (ofcIf d i).tx) : ofcActivating i o atrs rsp d = ofcActive i o (ofcIf d i) d := by
  rw [ofcActivating, if_pos h5, if_pos h]

theorem ofcActivating_keeps (h5 : (ofcIf d i).step = 5) (h : rsp ≠ (ofcIf d i).tx) (hk : rsp = ppsKeeps (ofcIf d i).t1) :
    ofcActivating i o atrs rsp d = ofcActive i o { ofcIf d i with ta1 := 0x11 } d := by
  rw [ofcActivating, if_pos h5, if_neg h, if_pos hk]

theorem ofcActivating_disagrees (h5 : (ofcIf d i).step = 5) (h : rsp ≠ (ofcIf d i).tx) (hk : rsp ≠ ppsKeeps (ofcIf d i).t1) :
    ofcActivating i o atrs rsp d = ofcLost i o d := by
  rw [ofcActivating, if_pos h5, if_neg h, if_neg hk]

theorem ofcActivating_ifs (h6 : (ofcIf d i).step = 6) :
    ofcActivating i o atrs rsp d = if rsp = t1Block 0xE1 [254] then ofcActive i o (ofcIf d i) d else ofcLost i o d := by
  rw [ofcActivating, if_neg (by omega), if_pos h6]

theorem ofcActivating_none (h5 : (ofcIf d i).step ≠ 5) (h6 : (ofcIf d i).step ≠ 6) (h : atrFound atrs = none) :
    ofcActivating i o atrs rsp d = ofcLost i o d := by
  simp only [ofcActivating, if_neg h5, if_neg h6, h]

/-- The interface that has taken an ATR, and has yet to talk to the card. -/
def OfcIf.tookAtr (x : OfcIf) (clsA : Bool) (a : Atr) : OfcIf :=
  { x with cls := clsA, inv := a.inv, t1 := a.t1, ta1 := a.ta1, ifsc := a.ifsc, ns := 0, nr := 0, iblk := [], tries := 0 }

theorem ofcActivating_some (h5 : (ofcIf d i).step ≠ 5) (h6 : (ofcIf d i).step ≠ 6) {clsA : Bool} {a : Atr} (h : atrFound atrs = some (clsA, a)) :
    ofcActivating i o atrs rsp d = if ppsSent a then ofcIfSet d i { (ofcIf d i).tookAtr clsA a with step := 5, tx := ppsRequest a.t1 a.ta1 }
      else ofcActive i o { (ofcIf d i).tookAtr clsA a with ta1 := if a.fixed then a.ta1 else 0x11 } d := by
  simp only [ofcActivating, if_neg h5, if_neg h6, h]
  rfl

end

end

end Sys2Proof.Machine

/-! The officer application's exchanges (O53, R427 to R429): authentication, its nonce and the verdict on its signature. -/

namespace Sys2Proof.Machine

section
variable {i m id : ℕ} {o : Op} {d : Dev}

/-- A step that leaves interface i with y, and all commands, operations and registers as they are. -/
def OfcLeaves (i : ℕ) (d e : Dev) (y : OfcIf) : Prop :=
  ofcIf e (1 - i) = ofcIf d (1 - i) ∧ ofcIf e i = y ∧ e.ops = d.ops ∧ e.regs = d.regs ∧ e.cmds = d.cmds

theorem ofcLeaves_set (hi : i < 2) (d : Dev) (y : OfcIf) : OfcLeaves i d (ofcIfSet d i y) y :=
  ⟨(ofcIf_ofcIfSet ..).trans (if_neg (by omega)), (ofcIf_ofcIfSet ..).trans (if_pos rfl), rfl, rfl, rfl⟩

theorem OfcLeaves.set {e : Dev} {y : OfcIf} (hi : i < 2) (h : OfcLeaves i d e y) (z : OfcIf) : OfcLeaves i d (ofcIfSet e i z) z := by
  obtain ⟨hother, -, hops, hregs, hcmds⟩ := h
  exact ⟨((ofcIf_ofcIfSet ..).trans (if_neg (by omega))).trans hother, (ofcIf_ofcIfSet ..).trans (if_pos rfl), hops, hregs, hcmds⟩

theorem OfcLeaves.ended {e : Dev} {y : OfcIf} (hx : Exchange i m id o d) (h : OfcLeaves i d e y) (st sub : ℕ) :
    OfcEnded i m id d (ofcEnd i o st sub e) y.idle st sub := by
  obtain ⟨hother, hself, hops, hregs, -⟩ := h
  have hend := ofcEnded_of_left hx (by rw [findOp, hops]; exact hx.found) hregs hother st sub
  rwa [hself] at hend

/-! ### Presence and sessions -/

theorem officerPresence_same {b : Bool} (h : (ofcIf d i).present = b) : officerPresence i b d = d := if_pos (.inr h)

theorem officerPresence_quiet {b : Bool} (hi : i < 2) (h : (ofcIf d i).present ≠ b) (hop : (ofcIf d i).op = none) :
    officerPresence i b d = ofcIfSet d i { present := b } := by
  rw [officerPresence, if_neg (fun hc => hc.elim (by omega) h)]
  simp only [hop, Option.bind_none]
  rfl

/-- The card is taken out of an exchange. -/
theorem ofcEnded_presence {b : Bool} (h : Exchange i m id o d) (hb : (ofcIf d i).present ≠ b) :
    OfcEnded i m id d (officerPresence i b d) { present := b } St.cardAbsent 1 := by
  have hrun : (ofcIf d i).op.bind (findOp (ofcOff i b d)) = some o := h.running
  have hlt := h.lt
  have hpres : officerPresence i b d = endWith (ofcOff i b d) o St.cardAbsent 1 (ofcOff i b d).pas.count (ofcOff i b d).pas.count := by
    rw [officerPresence, if_neg (fun hc => hc.elim (by omega) hb)]
    simp only [hrun]
  have hid : o.id = id := findOp_id h.found
  have hfind : findOp (ofcOff i b d) o.id = some o := by rw [hid]; exact h.found
  rw [hpres]
  refine ⟨?_, ?_, cmdGet_endWith h.src h.live h.code _, fun z hz => findOp_endWith h.src h.live hfind (hid ▸ hz), ?_⟩
  · rw [ofcIf_endWith]
    exact (ofcIf_ofcIfSet ..).trans (if_neg h.other_ne)
  · rw [ofcIf_endWith]
    exact (ofcIf_ofcIfSet ..).trans (if_pos rfl)
  · rw [if_neg (fun hc => absurd hc.1 (by decide))]
    exact congrArg (fun t => (tabFind t _).getD (regDefault _)) (regs_endWith (d := ofcOff i b d) h.src h.live)

theorem sessionExpiry_over (hst : (ofcIf d i).state = 3) (h : (ofcIf d i).sessEnd ≤ d.pas.count) :
    sessionExpiry i d = ofcIfSet d i { ofcIf d i with state := 2, roster := 0, sessEnd := 0 } := by
  rw [sessionExpiry, if_pos ⟨hst, h⟩]
  exact if_pos hst

theorem sessionExpiry_goes_on (h : (ofcIf d i).state ≠ 3 ∨ d.pas.count < (ofcIf d i).sessEnd) : sessionExpiry i d = d := if_neg (by omega)

/-! ### The steps of AUTH -/

section
variable {x : OfcIf} {sw : ℕ} {data : Octets}

theorem ofcResponse_refused (h : Exchange i m id o d) (hsw : sw ≠ 0x9000) :
    OfcEnded i m id d (ofcResponse i o sw data (ofcIfSet d i x)) x.idle St.denied 0x10 := by
  rw [ofcResponse, if_pos hsw]
  exact ofcEnded_ofcEnd h x _ _

/-- The command sent under T=0: its header, or header and data. -/
theorem ofcSend_t0 {apdu : Octets} (ht : x.t1 = false) :
    ofcSend apdu x = { x with rsp := [], tries := 0, tx := if apdu.length = 5 then apdu else apdu.take (5 + leAt apdu 4 1) } := by
  simp only [ofcSend, ht, Bool.false_eq_true, if_false]

theorem ofcSend_getKey (ht : x.t1 = false) : ofcSend apduGetKey x = { x with rsp := [], tries := 0, tx := [0x80, 0xCA, 0x00, 0x00, 0x40] } := ofcSend_t0 ht

theorem ofcSend_sign (ht : x.t1 = false) (body : Octets) :
    ofcSend (apduSign body) x = { x with rsp := [], tries := 0, tx := [0x80, 0x2A, 0x00, 0x00, 0x50] ++ fitTo 80 body } := by
  have hfit : (fitTo 80 body).length = 80 := fitTo_length_eq 80 body
  have hlen : (apduSign body).length = 86 := by simp only [apduSign, List.length_append, List.length_cons, List.length_nil, hfit]
  have hdata : leAt (apduSign body) 4 1 = 80 := (leAt_one _ _).trans rfl
  have htake : (apduSign body).take 85 = [0x80, 0x2A, 0x00, 0x00, 0x50] ++ fitTo 80 body :=
    List.take_left' (by simp only [List.length_append, List.length_cons, List.length_nil, hfit])
  rw [ofcSend_t0 ht, hlen, hdata, if_neg (by decide), htake]

theorem ofcResponse_selected (hi : i < 2) (hstep : x.step = 1) (ht : x.t1 = false) :
    OfcLeaves i d (ofcResponse i o 0x9000 data (ofcIfSet d i x)) { x with rsp := [], tries := 0, step := 2, tx := [0x80, 0xCA, 0x00, 0x00, 0x40] } := by
  have hx : ofcIf (ofcIfSet d i x) i = x := (ofcIf_ofcIfSet ..).trans (if_pos rfl)
  rw [ofcResponse, if_neg (by decide), hx, if_pos hstep, ofcSend_getKey (x := { x with step := 2 }) ht]
  exact (ofcLeaves_set hi d x).set hi _

theorem ofcResponse_unknown (h : Exchange i m id o d) (hstep : x.step = 2) (hkey : rosterFind d (fitTo 64 data) = none) :
    OfcEnded i m id d (ofcResponse i o 0x9000 data (ofcIfSet d i x)) x.idle St.denied 0x11 := by
  have hx : ofcIf (ofcIfSet d i x) i = x := (ofcIf_ofcIfSet ..).trans (if_pos rfl)
  have hroster : rosterFind (ofcIfSet d i x) = rosterFind d := rfl
  rw [ofcResponse, if_neg (by decide), hx, if_neg (by omega), if_pos hstep, hroster]
  simp only [hkey]
  exact ofcEnded_ofcEnd h x _ _

theorem ofcResponse_known {e : ℕ} (hstep : x.step = 2) (hkey : rosterFind d (fitTo 64 data) = some e) :
    ofcResponse i o 0x9000 data (ofcIfSet d i x) = ofcNonce i (ofcIfSet (ofcIfSet d i x) i { x with step := 4, who := e }) := by
  have hx : ofcIf (ofcIfSet d i x) i = x := (ofcIf_ofcIfSet ..).trans (if_pos rfl)
  have hroster : rosterFind (ofcIfSet d i x) = rosterFind d := rfl
  rw [ofcResponse, if_neg (by decide), hx, if_neg (by omega), if_pos hstep, hroster]
  simp only [hkey]

theorem ofcResponse_signed (h1 : x.step ≠ 1) (h2 : x.step ≠ 2) :
    ofcResponse i o 0x9000 data (ofcIfSet d i x) = ofcSigned i data (ofcIfSet d i x) := by
  have hx : ofcIf (ofcIfSet d i x) i = x := (ofcIf_ofcIfSet ..).trans (if_pos rfl)
  rw [ofcResponse, if_neg (by decide), hx, if_neg h1, if_neg h2]

end

/-! ### The nonce -/

section
variable {e : Dev} {y : OfcIf}

theorem OfcLeaves.running (hx : Exchange i m id o d) (h : OfcLeaves i d e y) (hop : y.op = some id) : (ofcIf e i).op.bind (findOp e) = some o := by
  obtain ⟨-, hself, hops, -, -⟩ := h
  rw [hself, hop, Option.bind_some, findOp, hops]
  exact hx.found

theorem ofcNonce_waits (hwait : hopWaits e 2 = true) : ofcNonce i e = e := by
  simp only [ofcNonce, if_pos (show (ofcIf e i).step ≠ 4 ∨ hopWaits e 2 = true from .inr hwait)]
  split <;> rfl

theorem ofcNonce_refused (hrun : (ofcIf e i).op.bind (findOp e) = some o) (hstep : (ofcIf e i).step = 4) (h : hopRefuses e = true) :
    ofcNonce i e = ofcEnd i o St.entropy (hopSub e) e := by
  have hserve : hopServes e 2 = false := by
    cases hs : hopServes e 2 with
    | false => rfl
    | true => rw [hopRefuses_of_serve hs] at h; cases h
  have hwait : hopWaits e 2 = false := by simp [hopWaits, h]
  simp only [ofcNonce, hrun, hwait, hserve, hstep]
  rfl

theorem ofcNonce_served (hrun : (ofcIf e i).op.bind (findOp e) = some o) (hstep : (ofcIf e i).step = 4) (h : hopServes e 2 = true) :
    ofcNonce i e = ofcIfSet (hwDraw e 2).2 i (ofcSend (apduSign (authBody e (ofcIf e i).who i (e.hop.fifo.take 2).flatten))
      { ofcIf e i with step := 3, body := authBody e (ofcIf e i).who i (e.hop.fifo.take 2).flatten }) := by
  have hbody : authBody (hwDraw e 2).2 = authBody e := by rw [hwDraw_frame]; rfl
  have hdraw : (hwDraw e 2).1 = (e.hop.fifo.take 2).flatten := rfl
  simp only [ofcNonce, hrun, hopWaits_of_serve h, h, hstep, hbody, hdraw]
  rfl

end

/-! ### The signature and its verdict -/

/-- The operands of K's signature check. -/
theorem verifyJob_input (d : Dev) (i : ℕ) : (verifyJob d i).input.drop 80 =
    fitTo 64 (tabGet [] d.life.roster (ofcIf d i).who) ++ sha256 (ofcIf d i).body ++ (ofcIf d i).sig := by
  generalize hkey : fitTo 64 (tabGet [] d.life.roster (ofcIf d i).who) = key
  generalize hsig : (ofcIf d i).sig = sig
  generalize hsum : sha256 (ofcIf d i).body = sum
  have hin : (verifyJob d i).input =
      [key.take 32, key.drop 32, sum, sig.take 32, sig.drop 32].flatMap (fun o => zeros 8 ++ leOct 4 o.length ++ zeros 4) ++
        [key.take 32, key.drop 32, sum, sig.take 32, sig.drop 32].flatten := by
    rw [← hkey, ← hsig, ← hsum]
    rfl
  rw [hin, List.drop_left' (by simp [length_leOct, zeros])]
  simp only [List.flatten_cons, List.flatten_nil, List.append_nil, List.append_assoc, List.take_append_drop]
  rw [← List.append_assoc, List.take_append_drop]

/-- The signature is back, and K's queue has a check of it more. -/
theorem ofcSigned_spec (hi : i < 2) (sig : Octets) (d : Dev) : ∃ j, (ofcSigned i sig d).ops = d.ops ++ [j] ∧
    ofcIf (ofcSigned i sig d) i = { ofcIf d i with step := 7, sig := fitTo 64 sig } ∧ ofcIf (ofcSigned i sig d) (1 - i) = ofcIf d (1 - i) ∧
    j.src = .ofc i ∧ j.ctx = 0x01 ∧ j.phase = .staged ∧ j.eligAt = d.pas.count + 1 ∧
    described 0x30 {} [(8, 2, 0x0211), (10, 1, 0xFF), (11, 1, 0xFF), (16, 2, 5)] j.desc ∧
    j.input.drop 80 = fitTo 64 (tabGet [] d.life.roster (ofcIf d i).who) ++ sha256 (ofcIf d i).body ++ fitTo 64 sig := by
  have hself : ofcIf (ofcIfSet d i { ofcIf d i with step := 7, sig := fitTo 64 sig }) i = { ofcIf d i with step := 7, sig := fitTo 64 sig } :=
    (ofcIf_ofcIfSet ..).trans (if_pos rfl)
  have hinput := verifyJob_input (ofcIfSet d i { ofcIf d i with step := 7, sig := fitTo 64 sig }) i
  rw [hself] at hinput
  refine ⟨{ verifyJob (ofcIfSet d i { ofcIf d i with step := 7, sig := fitTo 64 sig }) i with id := d.opSeq }, rfl, hself,
    (ofcIf_ofcIfSet ..).trans (if_neg (by omega)), rfl, rfl, rfl, rfl, described_mkDesc 0x30 {} (by decide) (by decide), hinput⟩

theorem findOp_dropOp {j : ℕ} (h : j ≠ id) (d : Dev) : findOp (dropOp d j) id = findOp d id := by
  simp only [findOp, dropOp, List.find?_filter]
  congr 1
  funext x
  by_cases hx : x.id = id
  · simp [hx, h.symm]
  · simp [hx]

section
variable {j : Op}

/-- The interface whose signature a job of K has checked, with the job gone. -/
theorem ofcVerdict_eq (h : Exchange i m id o d) (hsrc : j.src = .ofc i) (hj : j.id ≠ id) (hstep : (ofcIf d i).step = 7) :
    ofcVerdict d j = if j.status = St.done then ofcVerified i o (dropOp d j.id)
      else if j.status = St.untrusted ∨ j.status = St.param then ofcEnd i o St.denied 0x12 (dropOp d j.id)
      else if j.status = St.badDesc then ofcEnd i o j.status j.sub (dropOp d j.id) else addOp (dropOp d j.id) (verifyJob (dropOp d j.id) i) := by
  have hif : ofcIf (dropOp d j.id) = ofcIf d := rfl
  have hrun : (ofcIf d i).op.bind (findOp (dropOp d j.id)) = some o := by rw [h.op, Option.bind_some, findOp_dropOp hj, h.found]
  simp only [ofcVerdict, hsrc, hif, hrun, hstep]
  rfl

theorem ofcEnded_untrusted (h : Exchange i m id o d) (hsrc : j.src = .ofc i) (hj : j.id ≠ id) (hstep : (ofcIf d i).step = 7)
    (hst : j.status = St.untrusted) : OfcEnded i m id d (ofcVerdict d j) (ofcIf d i).idle St.denied 0x12 := by
  rw [ofcVerdict_eq h hsrc hj hstep, if_neg (by rw [hst]; decide), if_pos (.inl hst)]
  exact ofcEnded_of_left h ((findOp_dropOp hj d).trans h.found) rfl rfl _ _

/-- The interface whose card has authenticated, until its session ends. -/
def OfcIf.session (x : OfcIf) (sessEnd : ℕ) : OfcIf := { x with state := 3, roster := x.who, sessEnd := sessEnd }

theorem ofcEnded_session (h : Exchange i m id o d) (hsrc : j.src = .ofc i) (hj : j.id ≠ id) (hstep : (ofcIf d i).step = 7) (hst : j.status = St.done)
    (hop : o.opcode = 0xF2) : OfcEnded i m id d (ofcVerdict d j)
      { (ofcIf d i).idle with state := 3, roster := (ofcIf d i).who, sessEnd := d.pas.count + rn d Reg.OFC_SESSION_LIFE } St.done 0 := by
  have hne := h.other_ne
  rw [ofcVerdict_eq h hsrc hj hstep, if_pos hst, ofcVerified, if_pos hop]
  have hend := ofcEnded_of_left (e := ofcIfSet (dropOp d j.id) i ((ofcIf d i).session (d.pas.count + rn d Reg.OFC_SESSION_LIFE))) h
    ((findOp_dropOp hj d).trans h.found) rfl ((ofcIf_ofcIfSet ..).trans (if_neg hne)) St.done 0
  rw [ofcIf_ofcIfSet, if_pos rfl] at hend
  exact hend

/-- An approval that waits for the next edge. -/
theorem ofcVerdict_approval (h : Exchange i m id o d) (hsrc : j.src = .ofc i) (hj : j.id ≠ id) (hstep : (ofcIf d i).step = 7) (hst : j.status = St.done)
    (hop : o.opcode = 0xF3) : ofcIf (ofcVerdict d j) i = (ofcIf d i).idle ∧ (ofcVerdict d j).chm.waiting = d.chm.waiting ++
      [{ op := some id, iface := some i, roster := (ofcIf d i).who, seq := leAt (ofcIf d i).body 4 6, digest := slice (ofcIf d i).body 32 48,
         pass := d.pas.count }] := by
  have hid : o.id = id := findOp_id h.found
  rw [ofcVerdict_eq h hsrc hj hstep, if_pos hst, ofcVerified, if_neg (by omega), hid]
  exact ⟨(ofcIf_ofcIfSet (dropOp d j.id) i i (ofcIf d i).idle).trans (if_pos rfl), rfl⟩

end

end

end Sys2Proof.Machine

/-! Officer cards (O53, R426 to R429). -/

namespace Sys2Proof.Machine

/-- An instruction after which interface i holds y, the other interface, the commands, the operations and the registers what they did. -/
def StepLeaves (i : ℕ) (s : State) (j : Instr) (y : OfcIf) : Prop :=
  ∃ t, exec j s = .next t ∧ OfcLeaves i s.dev t.dev y

/-- An instruction that ends the exchange of interface i. -/
def StepEnds (i m id : ℕ) (s : State) (j : Instr) (y : OfcIf) (st sub : ℕ) : Prop :=
  ∃ t, exec j s = .next t ∧ OfcEnded i m id s.dev t.dev y st sub

section
variable {i m id : ℕ} {o : Op} {s : State}

theorem stepLeaves_of {j : Instr} {f : Dev → Dev} {y : OfcIf} (hj : exec j s = onDev f s) (h : OfcLeaves i s.dev (f s.dev) y) : StepLeaves i s j y :=
  ⟨_, exec_eq_next hj rfl, h⟩

theorem stepEnds_of {j : Instr} {f : Dev → Dev} {y : OfcIf} {st sub : ℕ} (hj : exec j s = onDev f s) (h : OfcEnded i m id s.dev (f s.dev) y st sub) :
    StepEnds i m id s j y st sub :=
  ⟨_, exec_eq_next hj rfl, h⟩

theorem exec_presence (hi : i < 2) (b : Bool) (s : State) : exec (.officerCardPresence i b) s = onDev (officerPresence i b) s := by
  have hmod : exec (.officerCardPresence i b) s = onDev (officerPresence (i % 2) b) s := rfl
  rw [hmod, Nat.mod_eq_of_lt hi]

theorem exec_sessionExpiry (hi : i < 2) (s : State) : exec (.officerSessionExpiry i) s = onDev (sessionExpiry i) s := by
  have hmod : exec (.officerSessionExpiry i) s = onDev (sessionExpiry (i % 2)) s := rfl
  rw [hmod, Nat.mod_eq_of_lt hi]

theorem exec_cardTimeout (hi : i < 2) (s : State) : exec (.officerCardTimeout i) s = onDev (officerTimeout i) s := by
  have hmod : exec (.officerCardTimeout i) s = onDev (officerTimeout (i % 2)) s := rfl
  rw [hmod, Nat.mod_eq_of_lt hi]

theorem exec_cardAnswer (hi : i < 2) (atrs : List (ℕ × Octets)) (rsp : Octets) (s : State) :
    exec (.officerCardAnswer i atrs rsp) s = onDev (officerAnswer i atrs rsp) s := by
  have hmod : exec (.officerCardAnswer i atrs rsp) s = onDev (officerAnswer (i % 2) atrs rsp) s := rfl
  rw [hmod, Nat.mod_eq_of_lt hi]

section
variable (h : Exchange i m id o s.dev) (atrs : List (ℕ × Octets)) (rsp : Octets)
include h

theorem stepEnds_presence {b : Bool} (hb : (ofcIf s.dev i).present ≠ b) :
    StepEnds i m id s (.officerCardPresence i b) { present := b } St.cardAbsent 1 :=
  stepEnds_of (exec_presence h.lt b s) (ofcEnded_presence h hb)

theorem stepEnds_timeout (h4 : (ofcIf s.dev i).step ≠ 4) (h7 : (ofcIf s.dev i).step ≠ 7) :
    StepEnds i m id s (.officerCardTimeout i)
      { (ofcIf s.dev i).idle with state := if (ofcIf s.dev i).state = 1 then 0 else (ofcIf s.dev i).state } St.timeout 2 :=
  stepEnds_of (exec_cardTimeout h.lt s) (officerTimeout_lost h h4 h7 ▸ ofcEnded_ofcLost h)

/-! ### Activation -/

section
variable (hst : (ofcIf s.dev i).state = 1)
include hst

theorem stepEnds_activating_lost (ha : ofcActivating i o atrs rsp s.dev = ofcLost i o s.dev) :
    StepEnds i m id s (.officerCardAnswer i atrs rsp) { (ofcIf s.dev i).idle with state := 0 } St.timeout 2 := by
  have hlost := ofcEnded_ofcLost h
  rw [if_pos hst] at hlost
  exact stepEnds_of (exec_cardAnswer h.lt atrs rsp s) (officerAnswer_activating h hst atrs rsp ▸ ha ▸ hlost)

theorem stepEnds_active {y : OfcIf} (ha : ofcActivating i o atrs rsp s.dev = ofcActive i o y s.dev) (hy : ¬ (y.t1 ∧ y.step ≠ 6)) :
    StepEnds i m id s (.officerCardAnswer i atrs rsp) { y.idle with state := 2 } St.done 0 :=
  stepEnds_of (exec_cardAnswer h.lt atrs rsp s) (officerAnswer_activating h hst atrs rsp ▸ ha ▸ ofcActive_done h hy)

theorem stepLeaves_activating {y : OfcIf} (ha : ofcActivating i o atrs rsp s.dev = ofcIfSet s.dev i y) :
    StepLeaves i s (.officerCardAnswer i atrs rsp) y :=
  stepLeaves_of (exec_cardAnswer h.lt atrs rsp s) (officerAnswer_activating h hst atrs rsp ▸ ha ▸ ofcLeaves_set h.lt s.dev y)

/-- The card becomes ACTIVE, under T=1 after it has been told the interface's IFS. -/
theorem step_active {y : OfcIf} (ha : ofcActivating i o atrs rsp s.dev = ofcActive i o y s.dev) (hstep : y.step ≠ 6) :
    (y.t1 = false → StepEnds i m id s (.officerCardAnswer i atrs rsp) { y.idle with state := 2 } St.done 0) ∧
      (y.t1 = true → StepLeaves i s (.officerCardAnswer i atrs rsp) { y with step := 6, tx := t1Block 0xC1 [254] }) :=
  ⟨fun ht => stepEnds_active h atrs rsp hst ha (fun hc => ne_true_of_eq_false ht hc.1),
   fun ht => stepLeaves_activating h atrs rsp hst (ha.trans (ofcActive_ifs ht hstep))⟩

end

/-! ### An answer of an active card -/

theorem stepEnds_lost (hst : (ofcIf s.dev i).state ≠ 1) (hg : officerAnswer i atrs rsp s.dev = ofcLost i o s.dev) :
    StepEnds i m id s (.officerCardAnswer i atrs rsp) (ofcIf s.dev i).idle St.timeout 2 := by
  have hlost := ofcEnded_ofcLost h
  rw [if_neg hst] at hlost
  exact stepEnds_of (exec_cardAnswer h.lt atrs rsp s) (hg ▸ hlost)

section
variable (hst : (ofcIf s.dev i).state ≠ 1) (h4 : (ofcIf s.dev i).step ≠ 4) (h7 : (ofcIf s.dev i).step ≠ 7)
include hst h4 h7

section
variable (ht : (ofcIf s.dev i).t1 = true)
include ht

theorem answer_t1 : officerAnswer i atrs rsp s.dev = ofcGot i o s.dev (t1Receive (ofcIf s.dev i) rsp) := by
  rw [officerAnswer_got h hst h4 h7, if_pos ht]

theorem stepLeaves_t1 {y : OfcIf} (hg : t1Receive (ofcIf s.dev i) rsp = .step y) : StepLeaves i s (.officerCardAnswer i atrs rsp) y :=
  stepLeaves_of (exec_cardAnswer h.lt atrs rsp s) (answer_t1 h atrs rsp hst h4 h7 ht ▸ hg ▸ ofcLeaves_set h.lt s.dev y)

end

section
variable (ht : (ofcIf s.dev i).t1 = false)
include ht

theorem answer_t0 : officerAnswer i atrs rsp s.dev = ofcGot i o s.dev (t0Receive (ofcIf s.dev i) rsp) := by
  rw [officerAnswer_got h hst h4 h7, if_neg (ne_true_of_eq_false ht)]

/-- An answer under T=0 that is a whole response. -/
theorem answer_response {data : Octets} {sw : ℕ} (hsw : sw < 2 ^ 16) (hmore : sw / 256 ≠ 0x61) :
    officerAnswer i atrs (data ++ beOct 2 sw) s.dev = ofcResponse i o sw ((ofcIf s.dev i).rsp ++ data) (ofcIfSet s.dev i (ofcIf s.dev i)) := by
  rw [answer_t0 h atrs _ hst h4 h7 ht, t0Receive_response _ hsw, if_neg hmore]
  rfl

/-- A response that AUTH goes on from, or an exchange that it ends. -/
theorem stepEnds_response {data : Octets} {sw st sub : ℕ} {y : OfcIf} (hsw : sw < 2 ^ 16) (hmore : sw / 256 ≠ 0x61)
    (hr : OfcEnded i m id s.dev (ofcResponse i o sw ((ofcIf s.dev i).rsp ++ data) (ofcIfSet s.dev i (ofcIf s.dev i))) y st sub) :
    StepEnds i m id s (.officerCardAnswer i atrs (data ++ beOct 2 sw)) y st sub :=
  stepEnds_of (exec_cardAnswer h.lt atrs _ s) (answer_response h atrs hst h4 h7 ht hsw hmore ▸ hr)

theorem stepLeaves_response {data : Octets} {sw : ℕ} {y : OfcIf} (hsw : sw < 2 ^ 16) (hmore : sw / 256 ≠ 0x61)
    (hr : OfcLeaves i s.dev (ofcResponse i o sw ((ofcIf s.dev i).rsp ++ data) (ofcIfSet s.dev i (ofcIf s.dev i))) y) :
    StepLeaves i s (.officerCardAnswer i atrs (data ++ beOct 2 sw)) y :=
  stepLeaves_of (exec_cardAnswer h.lt atrs _ s) (answer_response h atrs hst h4 h7 ht hsw hmore ▸ hr)

theorem stepLeaves_more {data : Octets} {n : ℕ} (hn : n < 256) : StepLeaves i s (.officerCardAnswer i atrs (data ++ beOct 2 (0x6100 + n)))
    { ofcIf s.dev i with rsp := (ofcIf s.dev i).rsp ++ data, tx := [0x00, 0xC0, 0x00, 0x00, BitVec.ofNat 8 n] } := by
  have hlow : oct ((0x6100 + n) % 256) = BitVec.ofNat 8 n := by rw [show (0x6100 + n) % 256 = n by omega]; rfl
  have hgot := answer_t0 h atrs (data ++ beOct 2 (0x6100 + n)) hst h4 h7 ht
  rw [t0Receive_response _ (by omega), if_pos (by omega), hlow] at hgot
  exact stepLeaves_of (exec_cardAnswer h.lt atrs _ s) (hgot ▸ ofcLeaves_set h.lt s.dev _)

/-! ### The key and the nonce of AUTH -/

section
variable {data : Octets} (hstep : (ofcIf s.dev i).step = 2) {e : ℕ} (hkey : rosterFind s.dev (fitTo 64 ((ofcIf s.dev i).rsp ++ data)) = some e)
include hstep hkey

/-- The device of an interface whose card has shown a roster key. -/
theorem answer_known : ∃ f, OfcLeaves i s.dev f { ofcIf s.dev i with step := 4, who := e } ∧ f.hop = s.dev.hop ∧ f.keep = s.dev.keep ∧
    f.life = s.dev.life ∧ f.pas = s.dev.pas ∧ officerAnswer i atrs (data ++ beOct 2 0x9000) s.dev = ofcNonce i f :=
  ⟨_, (ofcLeaves_set h.lt s.dev _).set h.lt _, rfl, rfl, rfl, rfl,
    (answer_response h atrs hst h4 h7 ht (by decide) (by decide)).trans (ofcResponse_known hstep hkey)⟩

theorem stepLeaves_nonce (hwait : hopWaits s.dev 2 = true) :
    StepLeaves i s (.officerCardAnswer i atrs (data ++ beOct 2 0x9000)) { ofcIf s.dev i with step := 4, who := e } := by
  obtain ⟨f, hleaves, hhop, hkeep, -, -, hans⟩ := answer_known h atrs hst h4 h7 ht hstep hkey
  have hwait' : hopWaits f 2 = true := by rw [← hwait]; simp only [hopWaits, hopRefuses, hopRefusal, hopServes, hhop, hkeep]
  rw [ofcNonce_waits hwait'] at hans
  exact stepLeaves_of (exec_cardAnswer h.lt atrs _ s) (hans ▸ hleaves)

theorem stepEnds_nonce (href : hopRefuses s.dev = true) :
    StepEnds i m id s (.officerCardAnswer i atrs (data ++ beOct 2 0x9000)) (ofcIf s.dev i).idle St.entropy (hopSub s.dev) := by
  obtain ⟨f, hleaves, hhop, hkeep, -, -, hans⟩ := answer_known h atrs hst h4 h7 ht hstep hkey
  have href' : hopRefuses f = true := by rw [← href]; simp only [hopRefuses, hopRefusal, hhop, hkeep]
  have hsub : hopSub f = hopSub s.dev := by simp only [hopSub, hopRefusal, hhop]
  rw [ofcNonce_refused (hleaves.running h h.op) (by rw [hleaves.2.1]) href', hsub] at hans
  exact stepEnds_of (exec_cardAnswer h.lt atrs _ s) (hans ▸ hleaves.ended h St.entropy (hopSub s.dev))

theorem step_nonce_served (hserve : hopServes s.dev 2 = true) :
    ∃ t, exec (.officerCardAnswer i atrs (data ++ beOct 2 0x9000)) s = .next t ∧ ofcIf t.dev (1 - i) = ofcIf s.dev (1 - i) ∧
      ofcIf t.dev i = { ofcIf s.dev i with rsp := [], tries := 0, step := 3, who := e, body := authBody s.dev e i (s.dev.hop.fifo.take 2).flatten,
                                           tx := [0x80, 0x2A, 0x00, 0x00, 0x50] ++ fitTo 80 (authBody s.dev e i (s.dev.hop.fifo.take 2).flatten) } := by
  obtain ⟨f, hleaves, hhop, hkeep, hlife, hpas, hans⟩ := answer_known h atrs hst h4 h7 ht hstep hkey
  have hserve' : hopServes f 2 = true := by rw [← hserve]; simp only [hopServes, hhop, hkeep]
  have hself := hleaves.2.1
  have hbody : authBody f = authBody s.dev := by funext a b c; simp only [authBody, hlife, hpas]
  have hdraw : ofcIf (hwDraw f 2).2 = ofcIf f := by rw [hwDraw_frame]; rfl
  rw [ofcNonce_served (hleaves.running h h.op) (by rw [hself]) hserve'] at hans
  refine ⟨_, exec_eq_next (exec_cardAnswer h.lt atrs _ s) hans, ?_, (ofcIf_ofcIfSet ..).trans ((if_pos rfl).trans ?_)⟩
  · exact (ofcIf_ofcIfSet ..).trans ((if_neg h.other_ne).trans (hdraw ▸ hleaves.1))
  · rw [hself, hhop, hbody]
    exact ofcSend_sign (x := { ofcIf s.dev i with step := 3, who := e, body := authBody s.dev e i (s.dev.hop.fifo.take 2).flatten }) ht _

end

end

end

end

end

end Sys2Proof.Machine

/-! Officer cards (O53): the statement. -/

namespace Sys2Proof.Machine

section
variable {i m id : ℕ} {o : Op} {s : State} (h : Exchange i m id o s.dev) (atrs : List (ℕ × Octets))
include h

/-- K is given the signature to check. -/
theorem step_signed (hst : (ofcIf s.dev i).state ≠ 1) (h4 : (ofcIf s.dev i).step ≠ 4) (h7 : (ofcIf s.dev i).step ≠ 7) (ht : (ofcIf s.dev i).t1 = false)
    (hstep : (ofcIf s.dev i).step = 3) (data : Octets) : ∃ t j, exec (.officerCardAnswer i atrs (data ++ beOct 2 0x9000)) s = .next t ∧
      ofcIf t.dev (1 - i) = ofcIf s.dev (1 - i) ∧ ofcIf t.dev i = { ofcIf s.dev i with step := 7, sig := fitTo 64 ((ofcIf s.dev i).rsp ++ data) } ∧
      t.dev.ops = s.dev.ops ++ [j] ∧ j.src = .ofc i ∧ j.ctx = 0x01 ∧ j.phase = .staged ∧ j.eligAt = s.dev.pas.count + 1 ∧
      described 0x30 {} [(8, 2, 0x0211), (10, 1, 0xFF), (11, 1, 0xFF), (16, 2, 5)] j.desc ∧
      j.input.drop 80 = fitTo 64 (tabGet [] s.dev.life.roster (ofcIf s.dev i).who) ++ sha256 (ofcIf s.dev i).body ++
        fitTo 64 ((ofcIf s.dev i).rsp ++ data) := by
  have hans := answer_response h atrs hst h4 h7 ht (data := data) (sw := 0x9000) (by decide) (by decide)
  rw [ofcResponse_signed (by omega) (by omega)] at hans
  obtain ⟨hother', hself', -⟩ := ofcLeaves_set h.lt s.dev (ofcIf s.dev i)
  obtain ⟨j, hops, hself, hother, hsrc, hctx, hphase, helig, hdesc, hin⟩ :=
    ofcSigned_spec h.lt ((ofcIf s.dev i).rsp ++ data) (ofcIfSet s.dev i (ofcIf s.dev i))
  rw [hself'] at hself hin
  exact ⟨_, j, exec_eq_next (exec_cardAnswer h.lt atrs _ s) hans, hother.trans hother', hself, hops, hsrc, hctx, hphase, helig, hdesc, hin⟩

end

/-- Settles O53, clause by clause of Table 18.6's protocols. -/
theorem officerCards : Obligations.OfficerCards := by
  intro s i hi d x other leaves
  have hidle : x.op = none → exec (.officerCardTimeout i) s = .next s ∧ ∀ atrs rsp, exec (.officerCardAnswer i atrs rsp) s = .next s := fun hop =>
    ⟨exec_same (exec_cardTimeout hi s) (officerTimeout_idle hop), fun atrs rsp => exec_same (exec_cardAnswer hi atrs rsp s) (officerAnswer_idle hop atrs rsp)⟩
  refine ⟨fun b hb => exec_same (exec_presence hi b s) (officerPresence_same hb),
    fun b hb hop => stepLeaves_of (exec_presence hi b s) (officerPresence_quiet hi hb hop ▸ ofcLeaves_set hi s.dev _),
    fun hst hend => stepLeaves_of (exec_sessionExpiry hi s) (sessionExpiry_over hst hend ▸ ofcLeaves_set hi s.dev _),
    fun hgo => exec_same (exec_sessionExpiry hi s) (sessionExpiry_goes_on hgo), hidle, ?_⟩
  intro id o m hop hfind hsrc hlive hcode result ends
  have h : Exchange i m id o s.dev := ⟨hi, hop, hfind, hsrc, hlive, by simp only [List.mem_cons, List.not_mem_nil, or_false] at hcode; omega⟩
  refine ⟨fun b hb => stepEnds_presence h hb, fun hstep => exec_same (exec_cardTimeout hi s) (officerTimeout_waits hstep), fun h4 h7 => stepEnds_timeout h h4 h7,
    fun hst atrs rsp => ?activating, fun hst hstep atrs rsp => exec_same (exec_cardAnswer hi atrs rsp s) (officerAnswer_waits hst hstep atrs rsp),
    fun hst h4 h7 ht atrs rsp => ?t1, fun hst h4 h7 ht atrs data => ?t0, fun j hj hne hstep => ?verdict⟩
  case activating =>
    have hstep6 : (ofcIf s.dev i).step = 5 → (ofcIf s.dev i).step ≠ 6 := fun h5 => by omega
    refine ⟨fun h5 h6 hnone => stepEnds_activating_lost h atrs rsp hst (ofcActivating_none h5 h6 (atrFound_none hnone)), fun k e a h5 h6 hk he ha hbefore => ?_,
      fun h5 => ⟨fun heq => step_active h atrs rsp hst (ofcActivating_echo h5 heq) (hstep6 h5),
        fun hne hk => step_active h atrs rsp hst (ofcActivating_keeps h5 hne hk) (hstep6 h5),
        fun hne hk => stepEnds_activating_lost h atrs rsp hst (ofcActivating_disagrees h5 hne hk)⟩,
      fun h6 => ⟨fun heq => stepEnds_active h atrs rsp hst ((ofcActivating_ifs h6).trans (if_pos heq)) (fun hc => hc.2 h6),
        fun hne => stepEnds_activating_lost h atrs rsp hst ((ofcActivating_ifs h6).trans (if_neg hne))⟩⟩
    have hsome := ofcActivating_some (o := o) (rsp := rsp) h5 h6 (atrFound_some hk he ha hbefore)
    exact ⟨fun hpps => stepLeaves_activating h atrs rsp hst (hsome.trans (if_pos hpps)),
      fun hpps => step_active h atrs rsp hst (hsome.trans (if_neg (ne_true_of_eq_false hpps))) h6⟩
  case t1 =>
    refine ⟨fun hlen htries => stepLeaves_t1 h atrs rsp hst h4 h7 ht ((t1Receive_short _ hlen).trans (t1Again_more _ htries _)), fun hlen htries => ?_,
      fun inf hnr hlen heq => stepLeaves_t1 h atrs rsp hst h4 h7 ht (heq ▸ t1Receive_chained _ hnr hlen)⟩
    refine stepEnds_lost h atrs rsp hst ((answer_t1 h atrs rsp hst h4 h7 ht).trans ?_)
    rw [t1Receive_short _ hlen, t1Again_lost _ htries]
    rfl
  case t0 =>
    refine ⟨fun r hlen => stepEnds_lost h atrs r hst ((answer_t0 h atrs r hst h4 h7 ht).trans ?_), fun n hn => stepLeaves_more h atrs hst h4 h7 ht hn,
      fun sw hsw hne hmore => stepEnds_response h atrs hst h4 h7 ht hsw hmore (ofcResponse_refused h hne),
      fun h1 => stepLeaves_response h atrs hst h4 h7 ht (by decide) (by decide) (ofcResponse_selected hi h1 ht),
      fun h2 hkey => stepEnds_response h atrs hst h4 h7 ht (by decide) (by decide) (ofcResponse_unknown h h2 hkey),
      fun e h2 hkey => ⟨step_nonce_served h atrs hst h4 h7 ht h2 hkey, stepLeaves_nonce h atrs hst h4 h7 ht h2 hkey,
        stepEnds_nonce h atrs hst h4 h7 ht h2 hkey⟩,
      fun h3 => step_signed h atrs hst h4 h7 ht h3 data⟩
    rw [t0Receive_short _ hlen]
    rfl
  case verdict =>
    exact ⟨fun hst hop' => (ofcEnded_session h hj hne hstep hst hop').2, fun hst hop' => ofcVerdict_approval h hj hne hstep hst hop',
      fun hst => (ofcEnded_untrusted h hj hne hstep hst).2⟩

end Sys2Proof.Machine

/-! Records sealed and staged (O54, R436 to R440). -/

namespace Sys2Proof.Machine

/-! ### Engine writes -/

/-- What an engine's write may change: words of memory, reservations, and its MPU's fault record. -/
def Spilled (m : ℕ) (d e : Dev) : Prop :=
  e = { d with cores := e.cores, regs := e.regs, mem := e.mem } ∧ ∀ a, a / 256 ≠ 0x0700 + m → rg e a = rg d a

theorem Spilled.trans {m : ℕ} {d e f : Dev} (h : Spilled m d e) (k : Spilled m e f) : Spilled m d f := by
  obtain ⟨he, hregs⟩ := h
  obtain ⟨hf, hregs'⟩ := k
  exact ⟨by rw [hf, he], fun a ha => (hregs' a ha).trans (hregs a ha)⟩

theorem spilled_mpuRecord (m ident access a detail : ℕ) (d : Dev) : Spilled m d (mpuRecord m ident access a detail d) := by
  have hset : ∀ (e : Dev) (k : ℕ) (v : Word), k < 256 → Spilled m e (rgSet e (0x070000 + 256 * m + k) v) := fun e k v hk =>
    ⟨rfl, fun b hb => (rg_rgSet ..).trans (if_neg (by omega))⟩
  have hcount : Spilled m d (rgAdd d (0x070000 + 256 * m + 0xF3) 1) := hset d 0xF3 _ (by decide)
  simp only [mpuRecord]
  split
  · exact hcount
  · exact (hcount.trans (hset _ 0xF1 _ (by decide))).trans (hset _ 0xF2 _ (by decide))

/-- The device after an engine's burst. -/
def burstWritten (a k : ℕ) (ws : List Word) (d : Dev) : Dev := loseResv { d with mem := tabSetList 0 d.mem a (ws.take k) } none false a k

section
variable {m ident col : ℕ} {d : Dev}

theorem spilled_engWrite (m ident col : ℕ) (l : List (ℕ × ℕ)) (ws : List Word) (d : Dev) : Spilled m d (engWrite m ident col l ws d).2 := by
  induction l generalizing ws d with
  | nil => exact ⟨rfl, fun _ _ => rfl⟩
  | cons x l ih =>
    unfold engWrite
    split
    · exact spilled_mpuRecord ..
    · have hburst : Spilled m d (burstWritten x.1 x.2 ws d) := ⟨rfl, fun _ _ => rfl⟩
      exact hburst.trans (ih _ _)

theorem refusedIn_none {right a n : ℕ} (h : ∀ i, i < n → refusal d m ident col right (a + i) = none) : refusedIn d m ident col right a n = none :=
  List.findSome?_eq_none_iff.mpr fun i hi => by rw [h i (List.mem_range.mp hi), Option.map_none]

/-- Bursts that are all permitted are all written, and leave the registers. -/
theorem engWrite_permitted {l : List (ℕ × ℕ)} (ws : List Word) (h : ∀ b ∈ l, ∀ i, i < b.2 → refusal d m ident col 1 (b.1 + i) = none) :
    (engWrite m ident col l ws d).1 = true ∧ (engWrite m ident col l ws d).2.regs = d.regs := by
  induction l generalizing ws d with
  | nil => exact ⟨rfl, rfl⟩
  | cons b l ih =>
    have hnone : refusedIn d m ident col 1 b.1 b.2 = none := refusedIn_none (h b (.head _))
    have hkeep : ∀ a, refusal (burstWritten b.1 b.2 ws d) m ident col 1 a = refusal d m ident col 1 a := fun a =>
      refusal_congr ⟨rfl, rfl, rfl⟩ (fun _ _ _ _ => rfl) rfl ident col 1 a
    have hrest := ih (d := burstWritten b.1 b.2 ws d) (ws.drop b.2) fun c hc i hi => (hkeep _).trans (h c (.tail _ hc) i hi)
    simp only [engWrite, hnone]
    exact hrest

/-- The bursts of an access lie within it. -/
theorem bursts_within {f a n : ℕ} {b : ℕ × ℕ} (h : b ∈ bursts f a n) : a ≤ b.1 ∧ b.1 + b.2 ≤ a + n := by
  induction f generalizing a n with
  | zero => cases h
  | succ f ih =>
    unfold bursts at h
    split at h
    · cases h
    · rcases List.mem_cons.mp h with rfl | h
      · exact ⟨le_rfl, by simp only; omega⟩
      · have hin := ih h
        omega

theorem engWriteAt_permitted {a : ℕ} {ws : List Word} (h : ∀ i, i < ws.length → refusal d m ident col 1 (a + i) = none) :
    (engWriteAt d m ident col a ws).1 = true ∧ (engWriteAt d m ident col a ws).2.regs = d.regs := by
  refine engWrite_permitted ws fun b hb i hi => ?_
  obtain ⟨hlo, hhi⟩ := bursts_within hb
  have hat := h (b.1 + i - a) (by omega)
  rwa [show a + (b.1 + i - a) = b.1 + i by omega] at hat

end

/-! ### The staging ring (R438) -/

section
variable {d : Dev}

theorem length_flatMap_pair {α β : Type} (f g : α → β) (l : List α) : (l.flatMap fun x => [f x, g x]).length = 2 * l.length := by
  induction l with
  | nil => rfl
  | cons x l ih => rw [List.flatMap_cons, List.length_append, ih, List.length_cons, List.length_cons, List.length_nil, List.length_cons]; omega

theorem spilled_engWriteAt (d : Dev) (m ident col a : ℕ) (ws : List Word) : Spilled m d (engWriteAt d m ident col a ws).2 := spilled_engWrite ..

/-- Words written from place p of a ring of words on, and on from its base. -/
def writeAround (base cap p : ℕ) (ws : List Word) (d : Dev) : Bool × Dev :=
  match engWriteAt d 0x3B 1 0 (base + p) (ws.take (cap - p)) with
  | (false, d) => (false, d)
  | (true, d) => engWriteAt d 0x3B 1 0 base (ws.drop (cap - p))

theorem stageWrite_eq (ws : List Word) (d : Dev) :
    stageWrite ws d = writeAround (rn d Reg.RPL_STAGE_BASE) (stageCap d) (d.rpl.stagePos % max 1 (stageCap d)) ws d := rfl

theorem spilled_writeAround (base cap p : ℕ) (ws : List Word) (d : Dev) : Spilled 0x3B d (writeAround base cap p ws d).2 := by
  have hfirst := spilled_engWriteAt d 0x3B 1 0 (base + p) (ws.take (cap - p))
  unfold writeAround
  generalize engWriteAt d 0x3B 1 0 (base + p) (ws.take (cap - p)) = r at hfirst ⊢
  obtain ⟨ok, e⟩ := r
  cases ok with
  | false => exact hfirst
  | true => exact hfirst.trans (spilled_engWriteAt ..)

theorem spilled_stageWrite (ws : List Word) (d : Dev) : Spilled 0x3B d (stageWrite ws d).2 := stageWrite_eq ws d ▸ spilled_writeAround ..

/-- Words that fit a ring and are permitted are written around it. -/
theorem writeAround_permitted {base cap p : ℕ} {ws : List Word} (hp : p < cap) (hfit : ws.length ≤ cap)
    (h : ∀ i, i < cap → refusal d 0x3B 1 0 1 (base + i) = none) :
    (writeAround base cap p ws d).1 = true ∧ (writeAround base cap p ws d).2.regs = d.regs := by
  obtain ⟨hok, hregs⟩ := engWriteAt_permitted (d := d) (m := 0x3B) (ident := 1) (col := 0) (a := base + p) (ws := ws.take (cap - p)) fun i hi => by
    rw [List.length_take] at hi
    exact Nat.add_assoc base p i ▸ h (p + i) (by omega)
  have hspill := spilled_engWriteAt d 0x3B 1 0 (base + p) (ws.take (cap - p))
  unfold writeAround
  generalize engWriteAt d 0x3B 1 0 (base + p) (ws.take (cap - p)) = r at hok hregs hspill ⊢
  obtain ⟨ok, e⟩ := r
  obtain rfl : ok = true := hok
  have hframe : e = { d with cores := e.cores, regs := e.regs, mem := e.mem } := hspill.1
  have hregs' : e.regs = d.regs := hregs
  have hword : ∀ a, rg e a = rg d a := fun a => congrArg (fun t => (tabFind t a).getD (regDefault a)) hregs'
  have hkeep : ∀ a, refusal e 0x3B 1 0 1 a = refusal d 0x3B 1 0 1 a := fun a =>
    refusal_congr (by rw [hframe]; exact ⟨rfl, rfl, rfl⟩) (fun _ _ _ _ => hword _) (hword _) 1 0 1 a
  obtain ⟨hok', hregs''⟩ := engWriteAt_permitted (d := e) (m := 0x3B) (ident := 1) (col := 0) (a := base) (ws := ws.drop (cap - p)) fun i hi => by
    rw [List.length_drop] at hi
    exact (hkeep _).trans (h i (by omega))
  exact ⟨hok', hregs''.trans hregs'⟩

end

end Sys2Proof.Machine

/-! The oldest pass becomes a record (O54, R434, R436, R438, R440). -/

namespace Sys2Proof.Machine

theorem length_chunksFuel {α : Type} {k : ℕ} (hk : 0 < k) {f : ℕ} {o : List α} (h : o.length < f) : (chunksFuel f k o).length = ceilDiv o.length k := by
  induction f generalizing o with
  | zero => omega
  | succ f ih =>
    unfold chunksFuel
    cases o with
    | nil => simp [ceilDiv, Nat.div_eq_of_lt (show k - 1 < k by omega)]
    | cons x r =>
      have hdrop : ((x :: r).drop k).length = r.length + 1 - k := by rw [List.length_drop, List.length_cons]
      rw [if_neg (by simp), List.length_cons, ih (by rw [hdrop]; simp only [List.length_cons] at h; omega), hdrop, List.length_cons, ceilDiv, ceilDiv]
      by_cases hle : k ≤ r.length + 1
      · rw [show r.length + 1 + k - 1 = r.length + 1 - k + k - 1 + k by omega, Nat.add_div_right _ hk]
      · rw [show r.length + 1 - k + k - 1 = k - 1 by omega, Nat.div_eq_of_lt (by omega), show r.length + 1 + k - 1 = r.length + k by omega,
          Nat.add_div_right _ hk, Nat.div_eq_of_lt (by omega)]

/-- The words a record takes in the staging ring. -/
theorem length_densePack (o : Octets) : (densePack o).length = stageWords o.length := by
  rw [densePack, length_flatMap_pair (fun c => wd (leNat c % 2 ^ 36)) (fun c => wd (leNat c / 2 ^ 36)), chunks, length_chunksFuel (by decide) (by omega)]
  rfl

section
variable {d : Dev} {pass : ℕ} {o : Octets}

/-! ### A record staged, or lost -/

theorem stageRecord_staged (ho : o ≠ []) (hfit : stagedWords d + stageWords o.length ≤ stageCap d)
    (h : ∀ i, i < stageCap d → refusal d 0x3B 1 0 1 (rn d Reg.RPL_STAGE_BASE + i) = none) :
    ∃ e, stageRecord pass o d = stagePut o e ∧ e = { d with cores := e.cores, mem := e.mem } := by
  have hpos : 0 < stageWords o.length := by
    obtain ⟨x, r, rfl⟩ := List.exists_cons_of_ne_nil ho
    simp only [stageWords, packLen, if_true, ceilDiv, List.length_cons]
    omega
  have hcap : 0 < stageCap d := by omega
  have hp : d.rpl.stagePos % max 1 (stageCap d) < stageCap d := by
    have := Nat.mod_lt d.rpl.stagePos (show 0 < max 1 (stageCap d) by omega)
    omega
  have hwritten := writeAround_permitted (d := d) (ws := densePack o) hp (by rw [length_densePack]; omega) h
  rw [← stageWrite_eq] at hwritten
  have hspill := spilled_stageWrite (densePack o) d
  rw [stageRecord, if_neg (by omega)]
  generalize stageWrite (densePack o) d = r at hwritten hspill ⊢
  obtain ⟨ok, e⟩ := r
  obtain ⟨hok, hregs⟩ := hwritten
  obtain rfl : ok = true := hok
  have hframe : e = { d with cores := e.cores, regs := e.regs, mem := e.mem } := hspill.1
  have hregs' : e.regs = d.regs := hregs
  rw [hregs'] at hframe
  exact ⟨e, rfl, hframe⟩

/-- The device e of a recording that is lost, with its LOST record staged. -/
def lostWith (o : Octets) (e : Dev) : Dev :=
  onRpl (rgAdd (stagePut o e) Reg.RPL_LOST 1) (fun r => { r with hostSeg := false, fieldSeg := false, sects := [], closing := [], logs := [] })

theorem rplLost_eq (pass : ℕ) (d : Dev) : rplLost pass d = lostWith (recordSeal d 2 pass []) (stageWrite (densePack (recordSeal d 2 pass [])) d).2 := rfl

theorem rg_lostWith (o : Octets) (e : Dev) : rg (lostWith o e) Reg.RPL_LOST = satInc (rg e Reg.RPL_LOST) 1 := by
  have hput : rg (stagePut o e) Reg.RPL_LOST = rg e Reg.RPL_LOST := rfl
  have hon : rg (lostWith o e) Reg.RPL_LOST = rg (rgAdd (stagePut o e) Reg.RPL_LOST 1) Reg.RPL_LOST := rfl
  rw [hon, rgAdd, rg_rgSet, if_pos rfl, hput]

theorem staged_lostWith (o : Octets) (e : Dev) : (lostWith o e).rpl.staged.length = e.rpl.staged.length + 1 := List.length_append

/-- R440: the recording is lost in device e, and counted. -/
def LostFrom (d e : Dev) : Prop :=
  rg e Reg.RPL_LOST = satInc (rg d Reg.RPL_LOST) 1 ∧ e.rpl.hostSeg = false ∧ e.rpl.fieldSeg = false ∧ e.rpl.closing = [] ∧
    e.rpl.staged.length = d.rpl.staged.length + 1 ∧ e.fmem = d.fmem

theorem lostFrom_lostWith {d e : Dev} (h : Spilled 0x3B d e) (o : Octets) : LostFrom d (lostWith o e) := by
  obtain ⟨hframe, hregs⟩ := h
  have hrpl : e.rpl = d.rpl := by rw [hframe]
  have hfmem : e.fmem = d.fmem := by rw [hframe]
  have hlost : rg e Reg.RPL_LOST = rg d Reg.RPL_LOST := hregs _ (by decide)
  exact ⟨by rw [rg_lostWith, hlost], rfl, rfl, rfl, by rw [staged_lostWith, hrpl], hfmem⟩

theorem lostFrom_rplLost (pass : ℕ) (d : Dev) : LostFrom d (rplLost pass d) := rplLost_eq pass d ▸ lostFrom_lostWith (spilled_stageWrite ..) _

theorem stageRecord_lost (h : stageCap d < stagedWords d + stageWords o.length) : stageRecord pass o d = rplLost pass d := if_pos h

/-! ### The oldest pass closes -/

section
variable {down : Bool} {ss : List RplSect} {rest : List (ℕ × Bool × List RplSect)}

/-- The logs of field cores left once a pass has closed. -/
def logsLeft (pass : ℕ) (t : Tab (Octets × Bool)) : Tab (Octets × Bool) := (List.range 4).foldl (fun t c => tabErase t (logKey pass c)) t

/-- The device whose oldest pass has been taken. -/
def closedOldest (pass : ℕ) (rest : List (ℕ × Bool × List RplSect)) (d : Dev) : Dev :=
  onRpl d (fun r => { r with closing := rest, logs := logsLeft pass d.rpl.logs })

theorem recordClose_empty (h : d.rpl.closing = []) : recordClose d = d := by simp only [recordClose, h]

theorem recordClose_waits (h : d.rpl.closing = (pass, down, ss) :: rest) (hw : d.rpl.key = none ∨ closeReady d pass down = false) : recordClose d = d := by
  simp only [recordClose, h]
  exact if_pos (by simpa using hw)

theorem recordClose_down {key : Octets} (h : d.rpl.closing = (pass, down, ss) :: rest) (hkey : d.rpl.key = some key) (hdown : down = true) :
    recordClose d = stageRecord pass (recordSeal (closedOldest pass rest d) 4 pass (ss.flatMap sectOct)) (closedOldest pass rest d) := by
  have hready : closeReady d pass down = true := by rw [hdown]; rfl
  have hgo : ¬ (d.rpl.key.isNone = true ∨ ¬ closeReady d pass down = true) := by simp [hkey, hready]
  simp only [recordClose, h]
  rw [if_neg hgo, hdown, if_pos rfl, List.append_nil]
  rfl

theorem closeReady_iff : closeReady d pass down = true ↔ down = true ∨ ∀ c, c < 4 → (rplCores d).testBit (8 + c) = true → d.rpl.fieldSeg = true →
    (tabGet ([], false) d.rpl.logs (pass % 4096 * 4 + c)).2 = true := by
  simp only [closeReady, Bool.or_eq_true, List.all_eq_true, List.mem_range, Bool.not_eq_true', logKey]
  refine or_congr Iff.rfl (forall₂_congr fun c _ => ?_)
  cases (rplCores d).testBit (8 + c) <;> cases d.rpl.fieldSeg <;> simp

end

end

theorem recordSeal_ne_nil (d : Dev) (flags pass : ℕ) (body : Octets) : recordSeal d flags pass body ≠ [] := by
  simp only [recordSeal, recordHdr, List.append_assoc]
  exact List.cons_ne_nil _ _

end Sys2Proof.Machine

/-! RECORD_CLOSE (O54): what becomes of the oldest pass. -/

namespace Sys2Proof.Machine

section
variable {d : Dev} {pass : ℕ} {down : Bool} {ss : List RplSect} {rest : List (ℕ × Bool × List RplSect)}

/-- The octets of the record of a pass whose field island is down. -/
def downRecord (key : Octets) (pass : ℕ) (ss : List RplSect) (d : Dev) : Octets :=
  let body := ss.flatMap sectOct
  let h := recordHdr d 4 pass body.length
  let c := gcmEnc key (leOct 4 d.rpl.epoch ++ leOct 6 d.rpl.rseq ++ zeros 2) h body
  h ++ c.1 ++ c.2

theorem recordSeal_of_key {key : Octets} (hkey : d.rpl.key = some key) : recordSeal d 4 pass (ss.flatMap sectOct) = downRecord key pass ss d := by
  simp only [recordSeal, hkey, Option.getD_some]
  rfl

theorem recordSeal_closedOldest (flags : ℕ) (body : Octets) : recordSeal (closedOldest pass rest d) flags pass body = recordSeal d flags pass body := rfl

theorem rn_closedOldest (a : ℕ) : rn (closedOldest pass rest d) a = rn d a := rfl

theorem stageCap_closedOldest : stageCap (closedOldest pass rest d) = stageCap d := by rw [stageCap, stageCap, rn_closedOldest]

theorem stagedWords_closedOldest : stagedWords (closedOldest pass rest d) = stagedWords d := rfl

theorem refusal_closedOldest (m ctx col right a : ℕ) : refusal (closedOldest pass rest d) m ctx col right a = refusal d m ctx col right a :=
  refusal_congr ⟨rfl, rfl, rfl⟩ (fun _ _ _ _ => rfl) rfl ctx col right a

section
variable {key : Octets} (h : d.rpl.closing = (pass, down, ss) :: rest) (hkey : d.rpl.key = some key) (hdown : down = true)
include h hkey hdown

/-- The record joins the staging ring. -/
theorem recordClose_staged (hfit : stagedWords d + stageWords (downRecord key pass ss d).length ≤ stageCap d)
    (hmay : ∀ i, i < stageCap d → refusal d 0x3B 1 0 1 (rn d Reg.RPL_STAGE_BASE + i) = none) :
    (recordClose d).regs = d.regs ∧ (recordClose d).fmem = d.fmem ∧
      (recordClose d).rpl = { d.rpl with closing := rest, logs := (recordClose d).rpl.logs,
                                         staged := d.rpl.staged ++ [{ rseq := d.rpl.rseq, epoch := d.rpl.epoch, data := downRecord key pass ss d }],
                                         prev := sha256 (downRecord key pass ss d), rseq := d.rpl.rseq + 1,
                                         stagePos := d.rpl.stagePos + stageWords (downRecord key pass ss d).length } := by
  have hne : downRecord key pass ss d ≠ [] := recordSeal_of_key (pass := pass) (ss := ss) hkey ▸ recordSeal_ne_nil d 4 pass _
  have hclose := recordClose_down h hkey hdown
  rw [recordSeal_closedOldest, recordSeal_of_key hkey] at hclose
  obtain ⟨e, hput, he⟩ := stageRecord_staged (d := closedOldest pass rest d) (pass := pass) hne
    (by rwa [stagedWords_closedOldest, stageCap_closedOldest]) (fun i hi => by
      rw [refusal_closedOldest, rn_closedOldest]
      exact hmay i (stageCap_closedOldest (d := d) (pass := pass) (rest := rest) ▸ hi))
  rw [hclose, hput]
  generalize downRecord key pass ss d = o
  rw [he]
  exact ⟨rfl, rfl, rfl⟩

theorem recordClose_lost (hlong : stageCap d < stagedWords d + stageWords (downRecord key pass ss d).length) : LostFrom d (recordClose d) := by
  have hclose := recordClose_down h hkey hdown
  rw [recordSeal_closedOldest, recordSeal_of_key hkey,
    stageRecord_lost (by rwa [stagedWords_closedOldest, stageCap_closedOldest])] at hclose
  rw [hclose]
  exact lostFrom_rplLost pass (closedOldest pass rest d)

end

end

end Sys2Proof.Machine

/-! RECORD_DELIVERY (O54, R439): the oldest staged record goes to the replay ring. -/

namespace Sys2Proof.Machine

section
variable {d : Dev} {x : Staged} {rest : List Staged} {n : ℕ}

/-! ### Octets written around a ring of host memory -/

/-- Octets written from place p of a ring of octets on, and on from its base. -/
def hostAround (base size p : ℕ) (o : Octets) (d : Dev) : Dev := hostWr (hostWr d (base + p) (o.take (size - p))) base (o.drop (size - p))

theorem host_hostAround {base size p i : ℕ} {o : Octets} (hp : p < size) (ho : o.length ≤ size) (hi : i < o.length) :
    tabGet 0 (hostAround base size p o d).host (base + (p + i) % size) = o.getD i 0 := by
  rw [List.getD_eq_getElem?_getD, List.getElem?_eq_getElem hi, Option.getD_some]
  by_cases hwrap : p + i < size
  · rw [Nat.mod_eq_of_lt hwrap, hostAround, host_hostWr_of_outside _ _ _ _ (by rw [List.length_drop]; omega), ← Nat.add_assoc,
      host_hostWr_of_inside _ _ _ _ (by rw [List.length_take]; omega), List.getElem_take]
  · have hmod : (p + i) % size = i - (size - p) := by
      rw [Nat.mod_eq_sub_mod (by omega), Nat.mod_eq_of_lt (by omega)]
      omega
    have hat : size - p + (i - (size - p)) = i := by omega
    rw [hmod, hostAround, host_hostWr_of_inside _ _ _ _ (by rw [List.length_drop]; omega), List.getElem_drop]
    simp only [hat]

theorem ringWrite_eq (hm : busMaster d 0 = true) (o : Octets) : ringWrite d o =
    hostAround (ofLoHi (rg d Reg.RPL_RING_BASE_LO) (rg d Reg.RPL_RING_BASE_HI)) (2 ^ rn d Reg.RPL_RING_SIZE) (d.rpl.produced % 2 ^ rn d Reg.RPL_RING_SIZE) o d := by
  have hwr : ∀ (e : Dev) (a : ℕ) (q : Octets), busMaster e 0 = true → fnWrite e 0 a q = hostWr e a q := fun _ _ _ he => if_pos he
  simp only [ringWrite]
  rw [hwr d _ _ hm]
  exact hwr _ _ _ hm

/-! ### The steps of a delivery -/

/-- The staged records, a record of which has gone to the replay ring. -/
def markRing (x : Staged) (t : List Staged) : List Staged := t.map (fun y => if y.rseq = x.rseq ∧ y.epoch = x.epoch then { y with ring := true } else y)

theorem markRing_head (hne : ∀ y ∈ rest, ¬ (y.rseq = x.rseq ∧ y.epoch = x.epoch)) : markRing x (x :: rest) = { x with ring := true } :: rest := by
  rw [markRing, List.map_cons, if_pos ⟨rfl, rfl⟩]
  exact congrArg _ ((List.map_congr_left fun y hy => if_neg (hne y hy)).trans (List.map_id _))

/-- The record on the replay ring. -/
def onRing (x : Staged) (d : Dev) : Dev :=
  onRpl (ringWrite d x.data) (fun r => { r with produced := r.produced + x.data.length, staged := markRing x (ringWrite d x.data).rpl.staged })

/-- PRODUCED written for the host. -/
def producedWritten (d : Dev) : Dev := fnWrite d 0 (ofLoHi (rg d Reg.RPL_RING_CTRL_LO) (rg d Reg.RPL_RING_CTRL_HI)) (leOct 8 d.rpl.produced)

/-- The host told by its vector. -/
def hostTold (d : Dev) : Dev := if bit (rg d Reg.RPL_HOST_VEC) 11 then fireVec d 0 (fld (rg d Reg.RPL_HOST_VEC) 10 0) else d

theorem hostTold_frame (d : Dev) : (hostTold d).rpl = d.rpl ∧ (hostTold d).regs = d.regs ∧ (hostTold d).mem = d.mem ∧ (hostTold d).host = d.host := by
  simp only [hostTold, fireVec]
  repeat' split
  all_goals exact ⟨rfl, rfl, rfl, rfl⟩

theorem recordDelivery_none (h : d.rpl.staged.all (·.ring) = true) : recordDelivery n d = d := by
  have hnone : d.rpl.staged.find? (fun s => !s.ring) = none := List.find?_eq_none.mpr fun s hs => by simp [List.all_eq_true.mp h s hs]
  simp only [recordDelivery, hnone]

/-- Has a record gone to every destination? -/
def goneEverywhere (dest : ℕ) (y : Staged) : Bool := (decide (dest = 1) || y.ring) && (decide (dest = 0) || decide (y.data.length ≤ y.card))

theorem stagePrune_eq (d : Dev) : stagePrune d = onRpl d (fun r => { r with staged := r.staged.dropWhile (goneEverywhere (rplDest d)) }) := rfl

section
variable (hst : d.rpl.staged = x :: rest) (hx : x.ring = false)
include hst hx

theorem find_staged : d.rpl.staged.find? (fun s => !s.ring) = some x := by rw [hst, List.find?_cons, hx]; rfl

theorem recordDelivery_waits (h : rplDest d = 1 ∨ rn d Reg.RPL_RING_SIZE = 0 ∨ n + 2 ^ rn d Reg.RPL_RING_SIZE < d.rpl.produced + x.data.length) :
    recordDelivery n d = d := by
  simp only [recordDelivery, find_staged hst hx]
  exact if_pos h

theorem recordDelivery_fits (h1 : rplDest d ≠ 1) (h2 : rn d Reg.RPL_RING_SIZE ≠ 0) (h3 : d.rpl.produced + x.data.length ≤ n + 2 ^ rn d Reg.RPL_RING_SIZE) :
    recordDelivery n d = stagePrune (hostTold (producedWritten (onRing x d))) := by
  simp only [recordDelivery, find_staged hst hx]
  exact if_neg (by omega)

/-- Device f is d with record x on the replay ring. -/
structure RingPut (base size : ℕ) (x : Staged) (rest : List Staged) (d f : Dev) : Prop where
  staged : f.rpl.staged = { x with ring := true } :: rest
  produced : f.rpl.produced = d.rpl.produced + x.data.length
  regs : f.regs = d.regs
  mem : f.mem = d.mem
  master : busMaster f 0 = true
  host : f.host = (hostAround base size (d.rpl.produced % size) x.data d).host

omit hx in
theorem ringPut_onRing {base size : ℕ} (hne : ∀ y ∈ rest, ¬ (y.rseq = x.rseq ∧ y.epoch = x.epoch)) (hm : busMaster d 0 = true)
    (hbase : ofLoHi (rg d Reg.RPL_RING_BASE_LO) (rg d Reg.RPL_RING_BASE_HI) = base) (hsize : 2 ^ rn d Reg.RPL_RING_SIZE = size) :
    RingPut base size x rest d (onRing x d) := by
  have hring : ringWrite d x.data = hostAround base size (d.rpl.produced % size) x.data d := by rw [ringWrite_eq hm, hbase, hsize]
  simp only [onRing, onRpl, hring]
  exact ⟨(congrArg (markRing x) hst).trans (markRing_head hne), rfl, rfl, rfl, hm, rfl⟩

omit hst hx in
/-- The host reads PRODUCED and the record. -/
theorem RingPut.told {base ctrl size : ℕ} {f : Dev} (h : RingPut base size x rest d f) (hpos : 0 < size) (hlen : x.data.length ≤ size)
    (hctrl : ofLoHi (rg d Reg.RPL_RING_CTRL_LO) (rg d Reg.RPL_RING_CTRL_HI) = ctrl) (hapart : ctrl + 8 ≤ base ∨ base + size ≤ ctrl) :
    let g := hostTold (producedWritten f)
    g.rpl = f.rpl ∧ rplDest g = rplDest d ∧ g.mem = d.mem ∧ hostRd g ctrl 8 = leOct 8 (d.rpl.produced + x.data.length) ∧
      ∀ i, i < x.data.length → tabGet 0 g.host (base + (d.rpl.produced + i) % size) = x.data.getD i 0 := by
  intro g
  have hrg : ∀ a, rg f a = rg d a := fun a => congrArg (fun t => (tabFind t a).getD (regDefault a)) h.regs
  have hwritten : producedWritten f = hostWr f ctrl (leOct 8 (d.rpl.produced + x.data.length)) := by
    rw [producedWritten, hrg, hrg, hctrl, h.produced]
    exact if_pos h.master
  obtain ⟨hrpl, hregs, hmem, hhost⟩ := hostTold_frame (producedWritten f)
  have hctl : rg g Reg.RPL_CTL = rg d Reg.RPL_CTL := by rw [rg, hregs, hwritten]; exact hrg _
  have hhost : g.host = (hostWr f ctrl (leOct 8 (d.rpl.produced + x.data.length))).host := hhost.trans (by rw [hwritten])
  refine ⟨hrpl.trans (by rw [hwritten]; rfl), by rw [rplDest, rplDest, hctl], hmem.trans (by rw [hwritten]; exact h.mem), ?_, fun i hi => ?_⟩
  · have hread := hostRd_hostWr f ctrl (leOct 8 (d.rpl.produced + x.data.length))
    rw [length_leOct] at hread
    exact (congrArg (fun t => tabGetList 0 t ctrl 8) hhost).trans hread
  · have hmod : (d.rpl.produced + i) % size = (d.rpl.produced % size + i) % size := by rw [Nat.mod_add_mod]
    have hat := Nat.mod_lt (d.rpl.produced + i) hpos
    have hkeep := host_hostWr_of_outside f ctrl (base + (d.rpl.produced + i) % size) (leOct 8 (d.rpl.produced + x.data.length))
      (by rw [length_leOct]; omega)
    refine ((congrArg (fun t => tabGet 0 t _) hhost).trans hkeep).trans ?_
    rw [h.host, hmod]
    exact host_hostAround (Nat.mod_lt _ hpos) hlen hi

/-- A record that fits is on the replay ring, with PRODUCED behind it, and gone from the staging ring once it has gone everywhere. -/
theorem recordDelivery_delivered (hne : ∀ y ∈ rest, ¬ (y.rseq = x.rseq ∧ y.epoch = x.epoch)) (h1 : rplDest d ≠ 1) (h2 : rn d Reg.RPL_RING_SIZE ≠ 0)
    (h3 : d.rpl.produced + x.data.length ≤ n + 2 ^ rn d Reg.RPL_RING_SIZE) (hn : n ≤ d.rpl.produced) (hm : busMaster d 0 = true) {base ctrl size : ℕ}
    (hbase : ofLoHi (rg d Reg.RPL_RING_BASE_LO) (rg d Reg.RPL_RING_BASE_HI) = base)
    (hctrl : ofLoHi (rg d Reg.RPL_RING_CTRL_LO) (rg d Reg.RPL_RING_CTRL_HI) = ctrl) (hsize : 2 ^ rn d Reg.RPL_RING_SIZE = size)
    (hapart : ctrl + 8 ≤ base ∨ base + size ≤ ctrl) :
    let e := recordDelivery n d
    e.rpl.produced = d.rpl.produced + x.data.length ∧ hostRd e ctrl 8 = leOct 8 (d.rpl.produced + x.data.length) ∧
      (∀ i, i < x.data.length → tabGet 0 e.host (base + (d.rpl.produced + i) % size) = x.data.getD i 0) ∧ e.mem = d.mem ∧
      e.rpl.staged = if rplDest d = 0 ∨ x.data.length ≤ x.card then rest.dropWhile (goneEverywhere (rplDest d)) else { x with ring := true } :: rest := by
  intro e
  have hput := ringPut_onRing hst hne hm hbase hsize
  have hrun : e = stagePrune (hostTold (producedWritten (onRing x d))) := recordDelivery_fits hst hx h1 h2 h3
  rw [hsize] at h3
  obtain ⟨hrpl, hdest, hmem, hread, hoct⟩ := hput.told (hsize ▸ Nat.two_pow_pos _) (by omega) hctrl hapart
  generalize hostTold (producedWritten (onRing x d)) = g at *
  rw [stagePrune_eq, hdest] at hrun
  rw [hrun]
  refine ⟨(congrArg Rpl.produced hrpl).trans hput.produced, hread, hoct, hmem, ?_⟩
  have hall : g.rpl.staged = { x with ring := true } :: rest := (congrArg Rpl.staged hrpl).trans hput.staged
  simp only [onRpl, hall, List.dropWhile_cons]
  have hgone : goneEverywhere (rplDest d) { x with ring := true } = true ↔ rplDest d = 0 ∨ x.data.length ≤ x.card := by simp [goneEverywhere]
  by_cases hc : rplDest d = 0 ∨ x.data.length ≤ x.card
  · rw [if_pos (hgone.mpr hc), if_pos hc]
  · rw [if_neg (fun hg => hc (hgone.mp hg)), if_neg hc]

end

end

end Sys2Proof.Machine

/-! REPLAYED_EDGE (O54, R443, R444): a divergence, a record taken, a section's MEMORY items. -/

namespace Sys2Proof.Machine

section
variable {d : Dev} {m k n : ℕ}

/-! ### Divergences -/

theorem replayed_core (h : replayed d n = true) : isH n = true ∨ isF n = true := by
  simp only [replayed, Bool.and_eq_true, Bool.or_eq_true] at h
  exact h.1.2

theorem mem_benchCores : n ∈ benchCores d ↔ replayed d n = true := by
  refine ⟨fun h => (List.mem_filter.mp h).2, fun h => List.mem_filter.mpr ⟨?_, h⟩⟩
  rcases replayed_core h with hc | hc
  · simp only [isH, Bool.and_eq_true, decide_eq_true_eq] at hc
    exact List.mem_append_left _ (List.mem_map.mpr ⟨n - 0x10, List.mem_range.mpr (by omega), by omega⟩)
  · simp only [isF, Bool.and_eq_true, decide_eq_true_eq] at hc
    refine List.mem_append_right _ ?_
    simp only [fieldCores, List.mem_cons, List.not_mem_nil, or_false]
    omega

/-- What a divergence notes: its kind and core, the pass and the core's progress. -/
def divNoted (info pass pass' progress progress' : Word) (d : Dev) : Dev :=
  rgSet (rgSet (rgSet (rgSet (rgSet d Reg.RPL_DIV_INFO info) Reg.RPL_DIV_PASS_LO pass) Reg.RPL_DIV_PASS_HI pass') Reg.RPL_DIV_PROGRESS_LO progress)
    Reg.RPL_DIV_PROGRESS_HI progress'

/-- Cores halted one by one. -/
def haltAll (l : List ℕ) (d : Dev) : Dev := l.foldl (fun d c => onCore d c (fun x => { x with halted := true })) d

/-- The replay stopped, and the replayed cores with it. -/
def replayStopped (e : Dev) : Dev := onRpl (haltAll (benchCores e) e) (fun r => { r with mode := 3 })

theorem diverge_eq (h : d.rpl.mode = 2) : diverge m k d = replayStopped (divNoted (pack [(0, k), (4, m), (35, 1)]) (loWord d.rpl.pass) (hiWord d.rpl.pass)
    (loWord (coreGet d m).progress) (hiWord (coreGet d m).progress) d) := by
  have hrpl : ∀ (e : Dev) (a : ℕ) (v : Word), (rgSet e a v).rpl = e.rpl := fun _ _ _ => rfl
  have hcore : ∀ (e : Dev) (a : ℕ) (v : Word), coreGet (rgSet e a v) m = coreGet e m := fun _ _ _ => rfl
  rw [diverge, if_neg (fun hne => hne h)]
  simp only [hrpl, hcore, replayStopped, haltAll, divNoted]

theorem haltAll_frame (l : List ℕ) (d : Dev) : haltAll l d = { d with cores := (haltAll l d).cores } := by
  induction l generalizing d with
  | nil => rfl
  | cons c l ih => exact ih (onCore d c (fun x => { x with halted := true }))

theorem halted_haltAll {l : List ℕ} (h : n ∈ l ∨ (coreGet d n).halted = true) : (coreGet (haltAll l d) n).halted = true := by
  induction l generalizing d with
  | nil => exact h.resolve_left List.not_mem_nil
  | cons c l ih =>
    refine ih (d := onCore d c (fun x => { x with halted := true })) ?_
    rw [coreGet_onCore]
    by_cases hc : n = c
    · exact .inr (by rw [if_pos hc])
    · rw [if_neg hc]
      exact h.imp_left fun hmem => (List.mem_cons.mp hmem).resolve_left hc

section
variable {v p q x y : Word}

theorem rg_divNoted {a : ℕ} (ha : a < Reg.RPL_DIV_INFO) : rg (divNoted v p q x y d) a = rg d a := by
  have h1 : Reg.RPL_DIV_INFO < Reg.RPL_DIV_PASS_LO := by decide
  have h2 : Reg.RPL_DIV_INFO < Reg.RPL_DIV_PASS_HI := by decide
  have h3 : Reg.RPL_DIV_INFO < Reg.RPL_DIV_PROGRESS_LO := by decide
  have h4 : Reg.RPL_DIV_INFO < Reg.RPL_DIV_PROGRESS_HI := by decide
  rw [divNoted, rg_rgSet, if_neg (ha.trans h4).ne, rg_rgSet, if_neg (ha.trans h3).ne, rg_rgSet, if_neg (ha.trans h2).ne, rg_rgSet, if_neg (ha.trans h1).ne,
    rg_rgSet, if_neg ha.ne]

theorem rg_divNoted_info : rg (divNoted v p q x y d) Reg.RPL_DIV_INFO = v := by
  rw [divNoted, rg_rgSet, if_neg (by decide), rg_rgSet, if_neg (by decide), rg_rgSet, if_neg (by decide), rg_rgSet, if_neg (by decide), rg_rgSet, if_pos rfl]

theorem replayed_divNoted (n : ℕ) : replayed (divNoted v p q x y d) n = replayed d n := by
  have hreg : rg (divNoted v p q x y d) Reg.RPL_REPLAY_CORES = rg d Reg.RPL_REPLAY_CORES := rg_divNoted (by decide)
  have hrpl : (divNoted v p q x y d).rpl = d.rpl := rfl
  simp only [replayed, hreg, hrpl]

end

theorem pack_three (a b c x y z : ℕ) : pack [(a, x), (b, y), (c, z)] = wd (0 + x <<< a + y <<< b + z <<< c) := rfl

theorem divInfo_eq (m k : ℕ) : pack [(0, k), (4, m), (35, 1)] = BitVec.ofNat 36 (k + 16 * m + 2 ^ 35) := by
  have hsum : 0 + k <<< 0 + m <<< 4 + 1 <<< 35 = k + 16 * m + 2 ^ 35 := by
    rw [Nat.shiftLeft_eq, Nat.shiftLeft_eq, Nat.shiftLeft_eq]
    omega
  exact (pack_three ..).trans (congrArg wd hsum)

/-- R444: where a check fails the replay stops with its kind and core, and the replayed cores halt. -/
def Diverged (info : Word) (d e : Dev) : Prop :=
  e.rpl.mode = 3 ∧ rg e Reg.RPL_DIV_INFO = info ∧ e.mem = d.mem ∧ e.fmem = d.fmem ∧
    ∀ n, (isH n = true ∨ isF n = true) → replayed d n = true → (coreGet e n).halted = true

theorem diverged_replayStopped {e : Dev} {info : Word} (hinfo : rg e Reg.RPL_DIV_INFO = info) (hmem : e.mem = d.mem) (hfmem : e.fmem = d.fmem)
    (hrep : ∀ n, replayed e n = replayed d n) : Diverged info d (replayStopped e) := by
  have hframe := haltAll_frame (benchCores e) e
  have hhalted : ∀ n, replayed d n = true → (coreGet (haltAll (benchCores e) e) n).halted = true := fun n hn =>
    halted_haltAll (.inl (mem_benchCores.mpr ((hrep n).trans hn)))
  unfold replayStopped
  generalize haltAll (benchCores e) e = f at hframe hhalted ⊢
  have hregs : f.regs = e.regs := by rw [hframe]
  refine ⟨rfl, ?_, ?_, ?_, fun n _ hn => hhalted n hn⟩
  · rw [← hinfo]
    exact congrArg (fun t => (tabFind t _).getD (regDefault _)) hregs
  · exact (congrArg Dev.mem hframe).trans hmem
  · exact (congrArg Dev.fmem hframe).trans hfmem

theorem diverged_divNoted {v p q x y : Word} : Diverged v d (replayStopped (divNoted v p q x y d)) :=
  diverged_replayStopped rg_divNoted_info rfl rfl replayed_divNoted

theorem diverged_diverge (h : d.rpl.mode = 2) : Diverged (BitVec.ofNat 36 (k + 16 * m + 2 ^ 35)) d (diverge m k d) := by
  rw [diverge_eq h, divInfo_eq]
  exact diverged_divNoted

end

end Sys2Proof.Machine

/-! REPLAYED_EDGE (O54, R443): the record taken, and a section of a host core begun. -/

namespace Sys2Proof.Machine

section
variable {d : Dev} {q : Octets} {m k : ℕ}

theorem replayedEdge_waits (h : d.rpl.mode ≠ 2 ∨ benchIdle d = false ∨ d.rpl.edgeAt = d.pas.count) : replayedEdge q d = d :=
  if_pos (h.imp_right fun h => h.imp_left ne_true_of_eq_false)

/-- A record taken: CONSUMED is written for the host. -/
theorem recordTaken_eq (q : Octets) (d : Dev) : ∃ a o, recordTaken q d =
    fnWrite (onRpl d (fun r => { r with expect := r.expect + 1, prev := sha256 q, consumed := r.consumed + q.length })) 0 a o := ⟨_, _, rfl⟩

theorem recordTaken_frame (q : Octets) (d : Dev) : recordTaken q d =
    { d with rpl := { d.rpl with expect := d.rpl.expect + 1, prev := sha256 q, consumed := d.rpl.consumed + q.length },
             regs := (recordTaken q d).regs, host := (recordTaken q d).host } := by
  obtain ⟨a, o, he⟩ := recordTaken_eq q d
  obtain ⟨hframe, -⟩ := hostWritten_fnWrite (onRpl d (fun r => { r with expect := r.expect + 1, prev := sha256 q, consumed := r.consumed + q.length })) 0 a o
  rw [← he] at hframe
  exact hframe

theorem rg_recordTaken {a : ℕ} (ha : a ≠ Reg.WHF_LATE_DISCARDS) : rg (recordTaken q d) a = rg d a := by
  obtain ⟨b, o, he⟩ := recordTaken_eq q d
  rw [he]
  exact (hostWritten_fnWrite _ 0 b o).2 a ha

/-- The bench between two records: the pass of the one taken, and field cores whose sections have yet to come. -/
def benchPass (pass : ℕ) (due : List ℕ) (d : Dev) : Dev :=
  onRpl d (fun r => { r with pass := pass, edgeAt := d.pas.count, replay := [], inputs := [], inputDue := due })

section
variable (hmode : d.rpl.mode = 2) (hidle : benchIdle d = true) (hedge : d.rpl.edgeAt ≠ d.pas.count)
include hmode hidle hedge

theorem bench_goes_on : ¬ (d.rpl.mode ≠ 2 ∨ ¬ benchIdle d ∨ d.rpl.edgeAt = d.pas.count) := by
  rintro (h | h | h)
  · exact h hmode
  · exact h hidle
  · exact hedge h

theorem replayedEdge_diverges (h : endChecks d (benchCores d) = some (m, k)) : replayedEdge q d = diverge m k d := by
  rw [replayedEdge, if_neg (bench_goes_on hmode hidle hedge)]
  simp only [h]

section
variable (hend : endChecks d (benchCores d) = none)
include hend

theorem replayedEdge_bad (h : recordCheck d q = .error k) : replayedEdge q d = diverge 0 k (onRpl d (fun r => { r with pass := leAt q 8 8 })) := by
  rw [replayedEdge, if_neg (bench_goes_on hmode hidle hedge)]
  simp only [hend, h]

theorem replayedEdge_keyrec {body : Octets} (h : recordCheck d q = .ok body) (hfirst : d.rpl.expect = 0) : replayedEdge q d = recordTaken q d := by
  rw [replayedEdge, if_neg (bench_goes_on hmode hidle hedge)]
  simp only [hend, h, hfirst, decide_true, if_true]

/-- A record without a section of a replayed field core: those of the others begin. -/
theorem replayedEdge_sections {body : Octets} (h : recordCheck d q = .ok body) (hfirst : d.rpl.expect ≠ 0)
    (hfield : ∀ y ∈ sectsOf 12 body, isF y.core = false) :
    replayedEdge q d = (sectsOf 12 body).foldl (fun d y => sectBegin y d) (benchPass (leAt q 8 8) [] (recordTaken q d)) := by
  have hnone : (sectsOf 12 body).filter (fun y => isF y.core && replayed (recordTaken q d) y.core) = [] :=
    List.filter_eq_nil_iff.mpr fun y hy => by simp [hfield y hy]
  have hall : (sectsOf 12 body).filter (fun y => !isF y.core) = sectsOf 12 body := List.filter_eq_self.mpr fun y hy => by simp [hfield y hy]
  rw [replayedEdge, if_neg (bench_goes_on hmode hidle hedge)]
  simp only [hend, h, hfirst, decide_false, Bool.false_eq_true, if_false, hnone, hall, List.any_nil, List.map_nil, List.foldl_fixed]
  rfl

end

end

/-! ### A section of a host core -/

theorem resetEvents_idle (h : nextItem d m = none) (n : ℕ) : resetEvents m n d = d := by
  cases n with
  | zero => rfl
  | succ n =>
    have hdue : eventDue d m 2 = none := by simp only [eventDue, h]
    simp only [resetEvents, hdue, h, Option.isSome_none, Bool.false_eq_true, if_false, ite_self]

/-- The words of a MEMORY item shown to a host core: written, with vectors 16 and 17 pending. -/
def memShown (a : ℕ) (ws : List Word) (m : ℕ) (d : Dev) : Dev :=
  pendSet m 17 (pendSet m 16 (loseResv { d with mem := tabSetList 0 d.mem a ws } none false a ws.length))

/-- WAITPASS returns with the pass. -/
def waitEnds (pass : ℕ) (c : Core) : Core :=
  match c.waiting with
  | some g => { c with waiting := none, progress := c.progress + 1, g := if g = 0 then c.g else tabSet 0 c.g g (wd pass) }
  | none => c

theorem pend_waitEnds (pass : ℕ) (c : Core) : (waitEnds pass c).pend = c.pend := by
  unfold waitEnds
  split <;> rfl

/-- A section of one MEMORY item, begun. -/
def shownSect (y : RplSect) (a : ℕ) (ws : List Word) (d : Dev) : Dev :=
  onCore (rsectSet (memShown a ws y.core d) y.core { y with items := [], outs := [] }) y.core (waitEnds d.rpl.pass)

theorem shownSect_spec (y : RplSect) (a : ℕ) (ws : List Word) (d : Dev) :
    (∀ i (hi : i < ws.length), memRd (shownSect y a ws d) (a + i) = ws[i]) ∧
      (∀ b, b < a ∨ a + ws.length ≤ b → memRd (shownSect y a ws d) b = memRd d b) ∧ (shownSect y a ws d).fmem = d.fmem ∧
      (∀ v, v = 16 ∨ v = 17 → tabGet false (coreGet (shownSect y a ws d) y.core).pend v = true) ∧
      tabFind (shownSect y a ws d).rpl.replay y.core = some { y with items := [], outs := [] } := by
  have hreplay : (shownSect y a ws d).rpl.replay = tabPut d.rpl.replay y.core { y with items := [], outs := [] } := rfl
  have hcore : coreGet (shownSect y a ws d) y.core = waitEnds d.rpl.pass (coreGet (memShown a ws y.core d) y.core) := (coreGet_onCore ..).trans (if_pos rfl)
  have hmem : (shownSect y a ws d).mem = tabSetList 0 d.mem a ws := rfl
  have hon : ∀ (e : Dev) (m : ℕ) (f : Core → Core), (onCore e m f).fmem = e.fmem := fun _ _ _ => rfl
  have hset : ∀ (e : Dev) (m : ℕ) (z : RplSect), (rsectSet e m z).fmem = e.fmem := fun _ _ _ => rfl
  have hpend : ∀ (m v : ℕ) (e : Dev), (pendSet m v e).fmem = e.fmem := fun _ _ _ => rfl
  have hfmem : (shownSect y a ws d).fmem = d.fmem := by rw [shownSect, hon, hset, memShown, hpend, hpend, loseResv_fmem]
  have hread : ∀ b, memRd (shownSect y a ws d) b = tabGet 0 (tabSetList 0 d.mem a ws) b := fun b => congrArg (fun t => tabGet 0 t b) hmem
  refine ⟨fun i hi => (hread _).trans (tabGet_tabSetList_of_inside 0 d.mem a i ws hi),
    fun b hb => (hread b).trans (tabGet_tabSetList_of_outside 0 d.mem a b ws hb), hfmem, fun v hv => ?_, by rw [hreplay, tabFind_tabPut, if_pos rfl]⟩
  rw [hcore, pend_waitEnds, memShown, pend_pendSet, pend_pendSet]
  rcases hv with rfl | rfl
  · rw [if_neg (by decide), if_pos rfl]
  · rw [if_pos rfl]

theorem sectBegin_memory {y : RplSect} {n a : ℕ} {ws : List ℕ} (hrep : replayed d y.core = true) (hcore : isH y.core = true) (hflags : y.flags % 4 = 0)
    (hitems : y.items = [{ kind := 1, at_ := n, words := a :: ws }]) (hhash : d.rpl.hashes = []) :
    sectBegin y d = shownSect y a (ws.map wd) d := by
  have hfield : isF y.core = false := by
    simp only [isH, Bool.and_eq_true, decide_eq_true_eq] at hcore
    simp only [isF, Bool.and_eq_false_iff, decide_eq_false_iff_not]
    omega
  have hfirst : bit (wd y.flags) 0 = false := by rw [bit_wd (by decide), Nat.testBit_zero]; simp; omega
  have hlost : bit (wd y.flags) 1 = false := by rw [bit_wd (by decide), Nat.testBit_succ, Nat.testBit_zero]; simp; omega
  have hmems : y.items.filter (fun i => decide (i.kind = 1)) = [{ kind := 1, at_ := n, words := a :: ws }] := by rw [hitems]; rfl
  have hrest : y.items.filter (fun i => decide (i.kind ≠ 1)) = [] := by rw [hitems]; rfl
  have hshown : (memShown a (ws.map wd) y.core d).rpl = d.rpl := rfl
  have hidle : nextItem (shownSect y a (ws.map wd) d) y.core = none := by
    have hreplay : (shownSect y a (ws.map wd) d).rpl.replay = tabPut d.rpl.replay y.core { y with items := [], outs := [] } := rfl
    rw [nextItem, rsect, hreplay, tabFind_tabPut, if_pos rfl]
    rfl
  have hfold : pendSet y.core 17 (pendSet y.core 16 (loseResv { d with mem := tabSetList 0 d.mem a (ws.map wd) } none false a (ws.map wd).length)) =
      memShown a (ws.map wd) y.core d := rfl
  have hbegin : sectBegin y d = resetEvents y.core 8 (shownSect y a (ws.map wd) d) := by
    rw [sectBegin]
    simp only [hrep, hfirst, hlost, hmems, hrest, hfield, not_true_eq_false, if_false, Bool.false_eq_true, false_and, List.foldl_cons, List.foldl_nil,
      List.isEmpty_cons, List.headD_cons, List.drop_succ_cons, List.drop_zero, hfold, hshown, hhash,
      List.filter_nil, List.filterMap_nil, List.any_nil, Bool.not_false, List.filter_true]
    rfl
  rw [hbegin, resetEvents_idle hidle]

end

end Sys2Proof.Machine

/-! Records and the replay (O54): the statement. -/

namespace Sys2Proof.Machine

/-! ### RECORD_CLOSE -/

/-- What RECORD_CLOSE does to the oldest pass. -/
theorem exec_recordClose_down {s : State} {pass : ℕ} {down : Bool} {ss : List RplSect} {rest : List (ℕ × Bool × List RplSect)} {key : Octets}
    (h : s.dev.rpl.closing = (pass, down, ss) :: rest) (hkey : s.dev.rpl.key = some key) (hdown : down = true) :
    let d := s.dev
    let r := d.rpl
    let record := downRecord key pass ss d
    let need := stagedWords d + stageWords record.length
    (need ≤ stageCap d → (∀ i, i < stageCap d → refusal d 0x3B 1 0 1 ((rg d Reg.RPL_STAGE_BASE).toNat + i) = none) →
      ∃ t, exec .recordClose s = .next t ∧ t.dev.regs = d.regs ∧ t.dev.fmem = d.fmem ∧
        t.dev.rpl = { r with closing := rest, logs := t.dev.rpl.logs, staged := r.staged ++ [{ rseq := r.rseq, epoch := r.epoch, data := record }],
                             prev := sha256 record, rseq := r.rseq + 1, stagePos := r.stagePos + stageWords record.length }) ∧
    (stageCap d < need → ∃ t, exec .recordClose s = .next t ∧ LostFrom d t.dev) := by
  intro d r record need
  exact ⟨fun hfit hmay => ⟨_, exec_eq_next rfl rfl, recordClose_staged h hkey hdown hfit hmay⟩,
    fun hlong => ⟨_, exec_eq_next rfl rfl, recordClose_lost h hkey hdown hlong⟩⟩

/-! ### RECORD_DELIVERY -/

/-- What RECORD_DELIVERY does to the oldest record not yet on the replay ring. -/
theorem exec_recordDelivery {s : State} {x : Staged} {rest : List Staged} (hst : s.dev.rpl.staged = x :: rest) (hx : x.ring = false)
    (hne : ∀ y ∈ rest, ¬ (y.rseq = x.rseq ∧ y.epoch = x.epoch)) :
    let d := s.dev
    let r := d.rpl
    let size := 2 ^ rn d Reg.RPL_RING_SIZE
    let base := ofLoHi (rg d Reg.RPL_RING_BASE_LO) (rg d Reg.RPL_RING_BASE_HI)
    let ctrl := ofLoHi (rg d Reg.RPL_RING_CTRL_LO) (rg d Reg.RPL_RING_CTRL_HI)
    let dest := rplDest d
    ∀ n,
      (dest = 1 ∨ rg d Reg.RPL_RING_SIZE = 0 ∨ n + size < r.produced + x.data.length → exec (.recordDelivery n) s = .next s) ∧
      (dest ≠ 1 → rg d Reg.RPL_RING_SIZE ≠ 0 → r.produced + x.data.length ≤ n + size → n ≤ r.produced → busMaster d 0 = true →
        ctrl + 8 ≤ base ∨ base + size ≤ ctrl →
        ∃ t, exec (.recordDelivery n) s = .next t ∧ t.dev.rpl.produced = r.produced + x.data.length ∧ hostRd t.dev ctrl 8 = leOct 8 (r.produced + x.data.length) ∧
          (∀ i, i < x.data.length → tabGet 0 t.dev.host (base + (r.produced + i) % size) = x.data.getD i 0) ∧ t.dev.mem = d.mem ∧
          t.dev.rpl.staged = if dest = 0 ∨ x.data.length ≤ x.card then rest.dropWhile (goneEverywhere dest) else { x with ring := true } :: rest) := by
  intro d r size base ctrl dest n
  have hzero : rn d Reg.RPL_RING_SIZE = 0 ↔ rg d Reg.RPL_RING_SIZE = 0 := BitVec.toNat_inj (y := 0)
  exact ⟨fun hw => exec_same rfl (recordDelivery_waits hst hx (hw.imp_right fun h => h.imp_left hzero.mpr)),
    fun h1 h2 h3 hn hm hapart => ⟨_, exec_eq_next rfl rfl, recordDelivery_delivered hst hx hne h1 (fun h => h2 (hzero.mp h)) h3 hn hm rfl rfl rfl hapart⟩⟩

section
variable {s : State} {q : Octets}

/-! ### REPLAYED_EDGE -/

/-- An edge at which the bench goes on. -/
structure BenchGoes (d : Dev) : Prop where
  mode : d.rpl.mode = 2
  idle : benchIdle d = true
  edge : d.rpl.edgeAt ≠ d.pas.count

variable (h : BenchGoes s.dev)
include h

theorem exec_replayedEdge_diverges {m k : ℕ} (hend : endChecks s.dev (benchCores s.dev) = some (m, k)) :
    ∃ t, exec (.replayedEdge q) s = .next t ∧ Diverged (BitVec.ofNat 36 (k + 16 * m + 2 ^ 35)) s.dev t.dev :=
  ⟨_, exec_eq_next rfl (replayedEdge_diverges h.mode h.idle h.edge hend), diverged_diverge h.mode⟩

variable (hend : endChecks s.dev (benchCores s.dev) = none)
include hend

theorem exec_replayedEdge_bad {k : ℕ} (hrec : recordCheck s.dev q = .error k) :
    ∃ t, exec (.replayedEdge q) s = .next t ∧ Diverged (BitVec.ofNat 36 (k + 16 * 0 + 2 ^ 35)) s.dev t.dev := by
  have hpass : replayed (onRpl s.dev (fun r => { r with pass := leAt q 8 8 })) = replayed s.dev := rfl
  have hdiv := diverged_diverge (m := 0) (k := k) (d := onRpl s.dev (fun r => { r with pass := leAt q 8 8 })) h.mode
  unfold Diverged at hdiv
  rw [hpass] at hdiv
  exact ⟨_, exec_eq_next rfl (replayedEdge_bad h.mode h.idle h.edge hend hrec), hdiv⟩

/-- A record without a section is taken. -/
theorem exec_replayedEdge_empty (hrec : recordCheck s.dev q = .ok []) :
    ∃ t, exec (.replayedEdge q) s = .next t ∧ t.dev.rpl.expect = s.dev.rpl.expect + 1 ∧ t.dev.rpl.prev = sha256 q ∧
      t.dev.rpl.consumed = s.dev.rpl.consumed + q.length ∧ t.dev.rpl.mode = 2 ∧ t.dev.mem = s.dev.mem ∧ t.dev.cores = s.dev.cores ∧
      (s.dev.rpl.expect ≠ 0 → t.dev.rpl.pass = leAt q 8 8 ∧ t.dev.rpl.edgeAt = s.dev.pas.count ∧ t.dev.rpl.replay = []) := by
  have hframe := recordTaken_frame q s.dev
  by_cases hfirst : s.dev.rpl.expect = 0
  · refine ⟨_, exec_eq_next rfl (replayedEdge_keyrec h.mode h.idle h.edge hend hrec hfirst), ?_⟩
    dsimp only
    rw [hframe]
    exact ⟨rfl, rfl, rfl, h.mode, rfl, rfl, fun hne => absurd hfirst hne⟩
  · have hnone : sectsOf 12 [] = [] := rfl
    have hrun := replayedEdge_sections h.mode h.idle h.edge hend hrec hfirst (by rw [hnone]; exact fun y hy => absurd hy List.not_mem_nil)
    rw [hnone, List.foldl_nil] at hrun
    refine ⟨_, exec_eq_next rfl hrun, ?_⟩
    dsimp only
    rw [hframe]
    exact ⟨rfl, rfl, rfl, h.mode, rfl, rfl, fun _ => ⟨rfl, rfl, rfl⟩⟩

/-- A record of one host core's section: its MEMORY item is written and presented. -/
theorem exec_replayedEdge_memory {body : Octets} {y : RplSect} {n a : ℕ} {ws : List ℕ} (hrec : recordCheck s.dev q = .ok body)
    (hfirst : s.dev.rpl.expect ≠ 0) (hsect : sectsOf 12 body = [y]) (hcore : isH y.core = true) (hrep : replayed s.dev y.core = true)
    (hflags : y.flags % 4 = 0) (hitems : y.items = [{ kind := 1, at_ := n, words := a :: ws }]) (hhash : s.dev.rpl.hashes = []) :
    ∃ t, exec (.replayedEdge q) s = .next t ∧ (∀ i, i < ws.length → memRd t.dev (a + i) = BitVec.ofNat 36 (ws.getD i 0)) ∧
      (∀ b, b < a ∨ a + ws.length ≤ b → memRd t.dev b = memRd s.dev b) ∧ t.dev.fmem = s.dev.fmem ∧ tabGet false (coreGet t.dev y.core).pend 16 = true ∧
      tabGet false (coreGet t.dev y.core).pend 17 = true ∧ tabFind t.dev.rpl.replay y.core = some { y with items := [], outs := [] } := by
  have hfield : ∀ z ∈ sectsOf 12 body, isF z.core = false := fun z hz => by
    rw [hsect, List.mem_singleton] at hz
    simp only [isH, Bool.and_eq_true, decide_eq_true_eq] at hcore
    simp only [hz, isF, Bool.and_eq_false_iff, decide_eq_false_iff_not]
    omega
  have hrun := replayedEdge_sections h.mode h.idle h.edge hend hrec hfirst hfield
  have hframe := recordTaken_frame q s.dev
  have hreg : rg (recordTaken q s.dev) Reg.RPL_REPLAY_CORES = rg s.dev Reg.RPL_REPLAY_CORES := rg_recordTaken (by decide)
  generalize recordTaken q s.dev = e at hrun hframe hreg
  have hmode : e.rpl.mode = s.dev.rpl.mode := by rw [hframe]
  have hhash' : e.rpl.hashes = [] := by rw [hframe]; exact hhash
  have hmem : e.mem = s.dev.mem := by rw [hframe]
  have hfmem : e.fmem = s.dev.fmem := by rw [hframe]
  have hreg' : rg (benchPass (leAt q 8 8) [] e) Reg.RPL_REPLAY_CORES = rg s.dev Reg.RPL_REPLAY_CORES := hreg
  have hmode' : (benchPass (leAt q 8 8) [] e).rpl.mode = s.dev.rpl.mode := hmode
  have hrep' : replayed (benchPass (leAt q 8 8) [] e) y.core = true := by rw [← hrep]; simp only [replayed, hreg', hmode']
  rw [hsect, List.foldl_cons, List.foldl_nil, sectBegin_memory (d := benchPass (leAt q 8 8) [] e) hrep' hcore hflags hitems hhash'] at hrun
  have hmem' : (benchPass (leAt q 8 8) [] e).mem = s.dev.mem := hmem
  have hfmem' : (benchPass (leAt q 8 8) [] e).fmem = s.dev.fmem := hfmem
  generalize benchPass (leAt q 8 8) [] e = f at hrun hmem' hfmem'
  obtain ⟨hwords, hother, hfield', hpend, hreplay⟩ := shownSect_spec y a (ws.map wd) f
  refine ⟨_, exec_eq_next rfl hrun, fun i hi => ?_, fun b hb => ?_, hfield'.trans hfmem', hpend 16 (.inl rfl), hpend 17 (.inr rfl), hreplay⟩
  · rw [List.getD_eq_getElem?_getD, List.getElem?_eq_getElem hi, Option.getD_some]
    exact (hwords i (by rwa [List.length_map])).trans (List.getElem_map wd)
  · exact (hother b (by rwa [List.length_map])).trans (congrArg (fun t => tabGet 0 t b) hmem')

end

/-- Settles O54: the record of a pass, its delivery, and what a replayed edge does with the next one. -/
theorem recordsAndReplay : Obligations.RecordsAndReplay := by
  intro s d r
  refine ⟨fun h => exec_same rfl (recordClose_empty h), fun pass down ss rest h => ⟨fun hw => ?_, fun key hkey hc hdown => exec_recordClose_down h hkey hdown⟩,
    fun hall n => exec_same rfl (recordDelivery_none hall), fun x rest hst hx hne => exec_recordDelivery hst hx hne,
    fun q hw => exec_same rfl (replayedEdge_waits hw), fun q hmode hidle hedge => ?_⟩
  · exact exec_same rfl (recordClose_waits h (hw.imp_right fun hn => eq_false_of_ne_true fun hready => hn (closeReady_iff.mp hready)))
  · have hgoes : BenchGoes s.dev := ⟨hmode, hidle, hedge⟩
    exact ⟨fun m k hend => exec_replayedEdge_diverges hgoes hend, fun k hend hrec => exec_replayedEdge_bad hgoes hend hrec,
      fun hend hrec _ => exec_replayedEdge_empty hgoes hend hrec,
      fun body y n a ws hend hrec hfirst hsect hcore hrep hflags hitems hhash _ =>
        exec_replayedEdge_memory hgoes hend hrec hfirst hsect hcore hrep hflags hitems hhash⟩

end Sys2Proof.Machine
